-- ==== Sys2Proof/Word.lean ====
section
/-! DEFINITION. The words of the Macel 9 and the shape of its sparse tables. -/

namespace Sys2Proof

/-- A byte of memory, of a frame or of a message. -/
abbrev Byte := BitVec 8
/-- A 16-bit tensor element. -/
abbrev Half := BitVec 16
/-- An FP32 pattern or a 32-bit field. -/
abbrev Word32 := BitVec 32
/-- A scalar register (R45). -/
abbrev Word := BitVec 64
/-- The 256 data bits of a granule (R382). -/
abbrev Gran := BitVec 256
/-- A granule's code word: data in bits [255:0], check bytes in [287:256] (R382). -/
abbrev Code := BitVec 288

/-- A sparse table: pairs of key and value in rising key order, no value equal to the table's default. -/
abbrev Tbl (α : Type) := List (Nat × α)

/-- A bead ordinal (R13). -/
abbrev Ord := Fin 1024
/-- A hart of a bead (R52). -/
abbrev HartN := Fin 4
/-- A work queue in the order of R123: 0 M, 1 L, 2 D, 3 S. -/
abbrev QueueN := Fin 4
/-- An array and its drain: 0 A, 1 B. -/
abbrev ArrN := Fin 2
/-- A fabric node ID (R405). -/
abbrev NodeN := Fin 4096
/-- A router, by position index (R14). -/
abbrev RouterN := Fin 1152
/-- A bezel or stack (R10). -/
abbrev BezelN := Fin 16
/-- A chain port (R10). -/
abbrev PortN := Fin 16
/-- A mailbox (R582). -/
abbrev MbxN := Fin 9

end Sys2Proof
end

