-- ==== Sys2Proof/Syntax.lean ====
section
/-! DEFINITION. The commands of the block: one constructor per row of spec/opcode_table.json, with the operands the rules
give it. What the outside world decides (a measured power, a test result, the bytes a host buffer holds) is an operand. -/

namespace Sys2Proof

/-- Which half of a control-window slot an access reaches (R797). -/
inductive Width where
  | full | low | high
  deriving DecidableEq, Repr

/-- The masters of control-window accesses (R799). -/
inductive Master where
  | mgmt | host | core
  deriving DecidableEq, Repr

/-- How the RAMP phase ended (R743, R757). -/
inductive RampEnd where
  | ok | rail | clock
  deriving DecidableEq, Repr

/-- A clasp by holder (R439). -/
inductive ClaspId where
  | bead (o : Ord) (i : Fin 64)
  | cluster (c : Fin 32) (i : Fin 256)
  | module (i : Fin 4096)
  deriving DecidableEq, Repr

/-- Where a memory scrubber works (R397). -/
inductive ScrubAt where
  | slice (i : Fin 128)
  | bead (o : Ord)
  deriving DecidableEq, Repr

/-- A fabric message (R410, R411): the command block's fields and the data flits. -/
structure Msg where
  dst : NodeN
  src : NodeN
  op : BitVec 8
  addr : BitVec 48
  len : Nat
  bf16 : Bool
  status : BitVec 16
  tag : BitVec 10
  module : BitVec 4
  step : Word32
  cmask : Word
  aux0 : Word32
  aux1 : Word32
  data : List Code
  /-- The stream of R420 in which the sender keeps the message. -/
  stream : Fin 16
  /-- The sources, with their tags, of the contributions that sum hops have added to this one (R429). -/
  also : List (NodeN × BitVec 10) := []
  deriving DecidableEq, Repr

/-- A flit whose header is in error: the input of a router at which it stands, and its number in its message, 0 the head
(R413). -/
structure FlitErr where
  inp : Fin 8
  flit : Fin 9
  deriving DecidableEq, Repr

/-- A link control word (R470). -/
structure LinkWord where
  typ : BitVec 4
  seq : BitVec 12
  ack : BitVec 12
  nak : Bool
  cclass : BitVec 2
  credits : BitVec 12
  /-- Bits [29] and [63:44]. -/
  reserved : BitVec 21
  deriving DecidableEq, Repr

/-- A frame as it arrives, what it carries aside: its CRC, and its link control word (R469, R470). -/
structure FrameHead where
  crc : Word32
  link : LinkWord
  deriving DecidableEq, Repr

/-- The numbers of a training frame: the sender's port, and its module (R465). -/
structure TrainWords where
  peerPort : BitVec 4
  peerMod : BitVec 4
  deriving DecidableEq, Repr

/-- A chain MSG frame (R469, R471): `head` is its command block's code word, and `msg` what the block says with the data. -/
structure ChainFrame where
  link : LinkWord
  head : Code
  srcNode : BitVec 12
  srcMod : BitVec 4
  sendTick : Word32
  cls : BitVec 2
  /-- Bits [63:50] of the message word. -/
  reserved : BitVec 14
  msg : Msg
  deriving DecidableEq, Repr

/-- The timing words of a TIMING frame (R487). -/
structure TimingWords where
  tick : BitVec 48
  hold : Bool
  relay : Bool
  curHold : Bool
  mode : BitVec 2
  refMod : BitVec 4
  aligned : Bool
  forming : Bool
  sendCk : BitVec 14
  echoCk : BitVec 14
  echoV : Bool
  window : BitVec 6
  /-- Bits [63:59] and [127:99]. -/
  reserved : BitVec 34 := 0
  deriving DecidableEq, Repr

/-- A LANE frame: this end changes its lane map and sends one, or one of the peer's arrives with its map (R501). -/
inductive LaneIn where
  | send (p : PortN)
  | recv (p : PortN) (h : FrameHead) (lmap : BitVec 12) (spare : BitVec 3)
  deriving DecidableEq, Repr

/-- A lane loses lock, or its error correction reports uncorrectable code words (R500). -/
inductive LaneEvent where
  | lost (lane : Fin 5)
  | uncorrectable (lane : Fin 5) (words : Nat)
  deriving DecidableEq, Repr

/-- A management frame (R623): LEN is the number of its payload's bytes, and `reserved` holds bits [15:11] of bytes 0 and 1,
bits [7:4] of byte 2, and bytes 5 to 7. -/
structure MgmtFrame where
  typ : BitVec 4
  reserved : BitVec 33 := 0
  seq : BitVec 8
  ackSeq : BitVec 8
  payload : List Byte
  crc : Word32
  deriving DecidableEq, Repr

/-- The line of a partial host write (R557, R575): its 64 bytes, and whether CXL poison is set with them. -/
structure HostLine where
  data : BitVec 512
  poison : Bool
  deriving DecidableEq, Repr

/-- A reading of a mailbox's index line (R583, R591), and whether every completion write that follows it has its global-observation
response (R570, R586). -/
structure IndexRead where
  head : BitVec 12
  ok : Bool
  deriving DecidableEq, Repr

/-- The outcome of a UIO request (R573). -/
inductive UioEnd where
  | ok | poisoned | unsupported | abort
  deriving DecidableEq, Repr

/-- A link error of R575, or a read of BAR0 of a form that R555 does not allow. -/
inductive LinkError where
  | corrected | poisonRx | uioTimeout | unsupported | fatal | biTimeout
  | badRead (off : Nat)
  deriving DecidableEq, Repr

/-- A configuration capability the host writes (R556, R571, R654), or another access of the host to the function's configuration
and to its MSI-X table (R550, R553, R554). -/
inductive Capability where
  | cacheEnable (v : Bool)
  | memEnable (v : Bool)
  | hdmCommit (base : Nat) (sizeTiB : Nat)
  | msixEnable (v : Bool)
  | busMaster (v : Bool)
  | functionMask (v : Bool)
  | vectorMask (v : Fin 32)
  | uioEnable (v : Bool)
  /-- A capability of R551: no effect. -/
  | unsupported
  /-- The address and the data of a vector, in the table of BAR2. -/
  | vectorEntry (v : Fin 32) (addr : Word) (data : Word32)
  /-- A word of the configuration header is read, or a vector's entry with its mask and pending bits. -/
  | readHeader (i : Fin 16)
  | readVector (v : Fin 32)
  /-- The AER status is cleared. -/
  | clearAer
  deriving DecidableEq, Repr

/-- The fibre shells that may be removed while the main domains run (R789, R791). -/
inductive Shell where
  | chain (k : Fin 4)
  | management
  deriving DecidableEq, Repr

/-- The commands: the rows of spec/opcode_table.json, in the table's order. -/
inductive Instr where
  | powerApplied
  | inputVoltageLoss
  | overvoltageStop
  | overvoltageRecovery
  | enableChange (level : Bool)
  | bringUpStart
  | rampPhase (how : RampEnd)
  | romPhase
  | stage1Phase
  | stacksPhase (fail : Option (Fin 16 × Fin 32))
  | beadsPhase (failed : List (RouterN × Bool))
  | fabricPhase (ok : Bool)
  | readyPhase (ms : BitVec 16)
  | bringUpPhaseTimeout
  | tickBoundary (watts : Nat) (celsius : Nat) (vin : BitVec 10) (spareFail : List RouterN)
  | claspWaitTimeout (c : ClaspId)
  | scalarLoad (o : Ord) (h : HartN)
  | scalarStore (o : Ord) (h : HartN)
  | scalarAtomic (o : Ord) (h : HartN)
  | fence (o : Ord) (h : HartN)
  | fenceI (o : Ord) (h : HartN)
  | wfi (o : Ord) (h : HartN)
  | csrWrite (o : Ord) (h : HartN)
  | qfipTrap (o : Ord) (h : HartN)
  | xqctlResume (o : Ord) (h : HartN)
  | xqctlDiscard (o : Ord) (h : HartN)
  | mmA (o : Ord) (h : HartN)
  | mmB (o : Ord) (h : HartN)
  | mmAB (o : Ord) (h : HartN)
  | mmBwd (o : Ord) (h : HartN)
  | tld (o : Ord) (h : HartN)
  | tst (o : Ord) (h : HartN)
  | strGo (o : Ord) (h : HartN)
  | strStop (o : Ord) (h : HartN)
  | dtFill (o : Ord) (h : HartN)
  | dtWr (o : Ord) (h : HartN)
  | dtRd (o : Ord) (h : HartN)
  | trel (o : Ord) (h : HartN)
  | l1Inv (o : Ord) (h : HartN)
  | l1InvA (o : Ord) (h : HartN)
  | drAct (o : Ord) (h : HartN)
  | drDact (o : Ord) (h : HartN)
  | drStat (o : Ord) (h : HartN)
  | qbar (o : Ord) (h : HartN)
  | claspSig (o : Ord) (h : HartN)
  | claspWait (o : Ord) (h : HartN)
  | claspTake (o : Ord) (h : HartN)
  | chWr (o : Ord) (h : HartN)
  | chRd (o : Ord) (h : HartN)
  | chAcc (o : Ord) (h : HartN)
  | entryStart (o : Ord) (q : QueueN)
  | entryComplete (o : Ord) (q : QueueN)
  | requestIssue (o : Ord)
  | pageWalk (o : Ord) (req : Nat)
  | pageWalkComplete (cl : Fin 32)
  | weightsActivate (o : Ord) (a : ArrN)
  | arrayRowEnter (o : Ord) (a : ArrN)
  | arrayRowComplete (o : Ord) (a : ArrN)
  | drainPrepare (o : Ord) (a : ArrN)
  | drainRowEnter (o : Ord) (a : ArrN)
  | drainRowWrite (o : Ord) (a : ArrN)
  | strandRunIssue (o : Ord) (n : Fin 8)
  | strandRunConsume (o : Ord) (n : Fin 8)
  | sortBatchDeliver (o : Ord) (n : Fin 8)
  | endpointInjection (n : NodeN) (tag : Fin 16)
  | routeMessageScheduled (r : RouterN) (hdrErr : Option FlitErr)
  | routeMessageArbitrated (r : RouterN) (out : Fin 6) (hdrErr : Bool)
  | endpointFailed (n : NodeN)
  | read (n : NodeN)
  | write (n : NodeN)
  | writePart (n : NodeN)
  | atomic (n : NodeN)
  | sumwrite (n : NodeN)
  | signal (n : NodeN)
  | readResp (n : NodeN)
  | writeAck (n : NodeN)
  | stale (n : NodeN)
  | bezelServeRequest (b : BezelN)
  | sliceServeRequest (sl : Fin 128)
  | stackRefresh (b : BezelN) (bank : Fin 512)
  | patrolScrub (b : BezelN)
  | memoryScrub (p : ScrubAt)
  | claspWaiterSatisfied (c : ClaspId)
  | clpValueWrite (m : Master) (w : Width) (v : Word)
  | clpStatRead (w : Width)
  | msgFrame (p : PortN) (crc : Word32) (f : ChainFrame)
  | ctrlFrame (p : PortN) (crc : Word32) (l : LinkWord)
  | trainFrame (p : PortN) (h : FrameHead) (w : TrainWords)
  | laneFrame (l : LaneIn)
  | timingFrame (p : PortN) (h : FrameHead) (w : TimingWords)
  | timingFirstRound
  | timingRelayRound
  | nakRepeat (p : PortN)
  | ackTimeoutResend (p : PortN)
  | laneFailure (p : PortN) (e : LaneEvent)
  | chainRequestIssue (p : PortN)
  | chainSignalApply (p : PortN)
  | chRdResponseTimeout (o : Ord)
  | chnCalGo (m : Master) (port : PortN)
  | chainCalibrationRotation (p : PortN)
  | chainCalibrationDone (p : PortN)
  | chnTimingWrite (m : Master) (w : Width) (v : Word)
  | chnErrStatRead (p : PortN) (w : Width)
  | chainShellRemoval (sh : Shell)
  | sampledCheckCompare (b : BezelN)
  | fusedUpdate (b : BezelN)
  | fanoutSignal (b : BezelN) (rec : Fin 65536) (module : PortN)
  | commitArm
  | commitReq (m : Master)
  | commitCancel (m : Master)
  | bzlRedCfgWrite (m : Master) (b : BezelN) (w : Width) (v : Word)
  | bzlRedStatRead (b : BezelN) (w : Width)
  | bzlEccStatRead (b : BezelN) (w : Width)
  | splitTakeEffect
  | memRd (hpa : Nat)
  | memWr (hpa : Nat) (data : BitVec 512) (poison : Bool)
  | memWrPtl (hpa : Nat) (be : BitVec 64) (line : HostLine)
  | memInv (hpa : Nat)
  | memSpecRd (hpa : Nat)
  | biRsp (b : BezelN) (line : Nat)
  | backInvalidateTimeout (b : BezelN) (line : Nat)
  | hostLinkDown
  | hostLinkError (e : LinkError)
  | uioCompletion (id : Nat) (how : UioEnd) (data : List Gran)
  | uioTimeout (id : Nat)
  | hostLaneCalibration (lane : Fin 16) (granted : Bool)
  | hostCalibrationDone
  | hlkBiRangeWrite (m : Master) (w : Width) (v : Word)
  | hlkErrStatRead (w : Width)
  | msixUnmask (v : Fin 32)
  | mbxDoorbell (mb : MbxN) (m : Master) (v : Word)
  | mbxRst (mb : MbxN) (m : Master)
  | mailboxEntryRead (mb : MbxN) (entry : BitVec 512) (ok : Bool)
  | mailboxCompletionWrite (mb : MbxN) (ok : Bool)
  | heldCompletionWrite (mb : MbxN) (index : IndexRead)
  | nop (k : Nat)
  | identify (k : Nat)
  | status (k : Nat)
  | posmap (k : Nat)
  | map (k : Nat)
  | unmap (k : Nat)
  | window (k : Nat)
  | split (k : Nat)
  | loadBundle (k : Nat)
  | dropBundle (k : Nat)
  | loadProgram (k : Nat) (buf : List Byte)
  | bind (k : Nat)
  | unbind (k : Nat)
  | cohortRead (k : Nat)
  | redWrite (k : Nat) (buf : List Byte)
  | genWrite (k : Nat)
  | optWrite (k : Nat) (buf : List Byte)
  | redCfg (k : Nat)
  | run (k : Nat)
  | shadowLoad (granules : Nat)
  | stop (k : Nat)
  | ledgerRead (k : Nat)
  | ledgerCtl (k : Nat)
  | cntConfig (k : Nat) (buf : List Byte)
  | cntSnap (k : Nat)
  | dumpRecordWrite
  | fltRead (k : Nat)
  | fltAck (k : Nat)
  | fwStage (k : Nat) (buf : List Byte)
  | fwActivate (k : Nat)
  | handoverTickStart
  | handoverReady
  | handoverReadyTimeout
  | fwActivateTimeout
  | subst (k : Nat)
  | spareTest (k : Nat) (pass : Bool)
  | beadFault (o : Ord) (parity : Bool)
  | uncorrReread (reads : List Code)
  | faultRecordWrite
  | traceWrite
  | ldgTraceWrite (m : Master) (w : Width) (v : Word)
  | ldgOvrRead (w : Width)
  | ldgTraceStatRead (w : Width)
  | fltStatRead (w : Width)
  | asyStatRead (w : Width)
  | pwrStatRead (w : Width)
  | hubEvent (src : Fin 2048)
  | irqPendSet (m : Master) (w : Fin 32) (v : Word)
  | irqPendClr (m : Master) (w : Fin 32) (v : Word)
  | irqMaskSet (m : Master) (t : Fin 37) (w : Fin 32) (v : Word)
  | irqMaskClr (m : Master) (t : Fin 37) (w : Fin 32) (v : Word)
  | irqClaim (m : Master) (t : Fin 37)
  | mgmtEventSend
  | mgmtDataFrame (f : MgmtFrame)
  | mgmtAckFrame (f : MgmtFrame)
  | mgmtNakFrame (f : MgmtFrame)
  | mgmtIdleFrame (f : MgmtFrame)
  | mgmtResendTimeout
  | mgmtIdleTimeout
  | mgmtLaneDownTimeout
  | setEndpointId
  | getEndpointId
  | getMctpVersionSupport
  | getMessageTypeSupport
  | getVendorDefinedMsgSupport
  | mbxPost
  | mbxCpl
  | regRead
  | regWrite
  | stageWrite
  | stageRead
  | powerOn
  | powerOff
  | powerCycle
  | powerCycleHoldEnd
  | mgtPwrWrite (m : Master) (w : Width) (v : Word)
  | takeoverRequest
  | takeoverRelease
  | mgtOwnGrant (m : Master)
  | mgtOwnDeny (m : Master)
  | lossTmoExpiry
  | attestMake
  | attestFetch
  | secCtlLock (m : Master)
  | bzlRetrainGo (m : Master) (b : BezelN) (ch : Fin 32)
  | retrainAutoRotation
  | retrainPhaseEnd (b : BezelN)
  | bzlRetireGo (m : Master) (b : BezelN)
  | pageRetirement (b : BezelN)
  | deferredRetirement (b : BezelN)
  | controlWindowWrite (m : Master) (off : Nat) (bytes : Nat) (v : Word)
  | scalarInstruction (o : Ord) (h : HartN)
  | hostLinkUp (lanesAt64 : Bool)
  | mgmtLaneUp
  | h2dSnoop (line : Nat)
  | uioRequestToModule (hpa : Nat)
  | capabilityWrite (c : Capability)
  | chainPortRetrain (p : PortN)
  | sampledGranuleCopy (b : BezelN)
  | retrainBurstCopy (b : BezelN)
  deriving DecidableEq, Repr

end Sys2Proof
end

