-- ==== Sys2Proof/Decode.lean ====
section
/-! DEFINITION. The command that a table word spells: no row of spec/opcode_table.json gives bits, so none does. -/

namespace Sys2Proof

/-- No row of the table has fields, so no word spells a command. [DESIGN CHOICE: log 2] -/
def decodeTableWord (nbits w : Nat) : Option Instr :=
  match nbits, w with
  | _, _ => none

end Sys2Proof
end

