-- ==== Sys2Proof/Config.lean ====
section
/-! DEFINITION. What a Macel 9 fixes and the values that the spec leaves open: constants with no body, of which nothing
can be proved. A counter of draws in State is the first argument of those that may differ from use to use. -/

namespace Sys2Proof

/-- A 64-bit value that the spec does not state: draw number and a key that says what it is.
[DESIGN CHOICE: log 19] -/
opaque Config.freeWord : Nat → Nat → BitVec 64
/-- The drain's exponential, sigmoid, tanh and the functions built on them, away from the values that R257 fixes.
[DESIGN CHOICE: log 24] -/
opaque Config.drainFn : Nat → Word32 → Word32
/-- SHA3-512 of a byte string, as a number (R762). [DESIGN CHOICE: log 20] -/
opaque Config.sha3 : List Byte → BitVec 512
/-- Whether a signature verifies under a key (R762). [DESIGN CHOICE: log 20] -/
opaque Config.verify : List Byte → List Byte → List Byte → Bool
/-- The signature that the hallmark's private key makes, with the randomness of a draw (R760).
[DESIGN CHOICE: log 20] -/
opaque Config.sign : Nat → List Byte → List Byte
/-- The hallmark public key that the fused seed gives (R758). [DESIGN CHOICE: log 20] -/
opaque Config.hallmark : List Byte
/-- The row of its bank that bits [35:17] of a stack-local address select (R308): which of them are the row the spec does
not give. [DESIGN CHOICE: log 22] -/
opaque Config.rowOf : Nat → Nat
/-- Identity data that Nutas reports and the fuses hold, by byte. [DESIGN CHOICE: log 21] -/
opaque Config.identity : Nat → Byte

/-- The SHA3-512 digest of root key `k`, byte by byte, as the locket ROM holds it (R763). [DESIGN CHOICE: log 21] -/
opaque Config.rootKey : Nat → Nat → Byte

/-- The bead monitor that Nutas supplies, in the first 4 KiB of every instruction-memory image (R46).
[DESIGN CHOICE: log 21] -/
opaque Config.monitor : Nat → Byte
/-- What the CRC-32 of a chain or management frame starts from and what is added to it at its end, and whether the bits of a
byte go most significant first (R469, R623). [DESIGN CHOICE: log 96] -/
opaque Config.crcStart : Word32
opaque Config.crcEnd : Word32
opaque Config.crcMsbFirst : Bool
/-- The bytes of a training frame that carry its port number and its module number, and those of a LANE frame that carry
its lane map (R465, R501). [DESIGN CHOICE: log 96] -/
opaque Config.trainBytes : BitVec 4 → BitVec 4 → List Byte
opaque Config.laneBytes : BitVec 12 → BitVec 3 → List Byte
/-- Whether the step of a reduction block (65536 x bezel + record) trains the adapter of an ID (R292).
[DESIGN CHOICE: log 23] -/
opaque Config.trains : Nat → Nat → Bool

end Sys2Proof
end

