-- ==== Sys2Proof/Machine/Table.lean ====
section
/-! DEFINITION. Sparse tables: reading, writing, changing one value. -/

namespace Sys2Proof.Machine

/-- The value under a key; the default where the table lists none. -/
def tblGet {α : Type} (d : α) (t : Tbl α) (k : Nat) : α :=
  match t with
  | [] => d
  | (k', v) :: r => if k' = k then v else tblGet d r k

/-- A table with one key's pair put in at its place. -/
def tblPut {α : Type} (t : Tbl α) (k : Nat) (v : α) : Tbl α :=
  match t with
  | [] => [(k, v)]
  | (k', v') :: r =>
    if k < k' then (k, v) :: (k', v') :: r
    else if k = k' then (k, v) :: r
    else (k', v') :: tblPut r k v

/-- A table without a key. -/
def tblDel {α : Type} (t : Tbl α) (k : Nat) : Tbl α :=
  match t with
  | [] => []
  | (k', v') :: r => if k' = k then tblDel r k else (k', v') :: tblDel r k

/-- Write a value; writing the default removes the pair. -/
def tblSet {α : Type} [DecidableEq α] (d : α) (t : Tbl α) (k : Nat) (v : α) : Tbl α :=
  if v = d then tblDel t k else tblPut t k v

/-- Change one value. -/
def tblMod {α : Type} [DecidableEq α] (d : α) (t : Tbl α) (k : Nat) (f : α → α) : Tbl α :=
  tblSet d t k (f (tblGet d t k))

/-- The form of a table: keys strictly rising, no value equal to the default. -/
def tblWf {α : Type} [DecidableEq α] (d : α) (t : Tbl α) : Bool :=
  match t with
  | [] => true
  | (k, v) :: r => decide (v ≠ d) && (r.all fun p => decide (k < p.1)) && tblWf d r

/-- `f` on the numbers below `n`, in rising order, carrying a value. -/
def upTo {α : Type} (n : Nat) (f : α → Nat → α) (a : α) : α :=
  (List.range n).foldl f a

/-- The entry of a list at an index, or a default. -/
def nth {α : Type} (d : α) (l : List α) (i : Nat) : α :=
  l.getD i d

/-- The number of members for which a test holds. -/
def countIf {α : Type} (p : α → Bool) (l : List α) : Nat :=
  (l.filter p).length

/-- A list with the member at an index replaced. -/
def setNth {α : Type} (l : List α) (i : Nat) (a : α) : List α :=
  l.set i a

/-- Change the first member for which a test holds. -/
def modFirst {α : Type} (p : α → Bool) (f : α → α) (l : List α) : List α :=
  match l with
  | [] => []
  | a :: r => if p a then f a :: r else a :: modFirst p f r

/-- Remove the first member for which a test holds. -/
def dropFirst {α : Type} (p : α → Bool) (l : List α) : List α :=
  match l with
  | [] => []
  | a :: r => if p a then r else a :: dropFirst p r

/-- A field of a number: `w` bits from bit `lo` (R4). -/
def bitsOf (v lo w : Nat) : Nat := v / 2 ^ lo % 2 ^ w

/-- One bit of a number. -/
def bitOf (v i : Nat) : Bool := v / 2 ^ i % 2 == 1

/-- Bytes of a number, least significant first (R5). -/
def toBytes (n v : Nat) : List Byte :=
  (List.range n).map fun i => BitVec.ofNat 8 (v / 256 ^ i)

/-- The number that bytes spell, least significant first (R5). -/
def ofBytes (l : List Byte) : Nat :=
  l.foldr (fun b acc => b.toNat + 256 * acc) 0

/-- Bit vector of a Boolean, as a number. -/
def b2n (b : Bool) : Nat := if b then 1 else 0

/-- Count up and stay at a greatest value. -/
def satInc {w : Nat} (v : BitVec w) (n : Nat := 1) : BitVec w :=
  BitVec.ofNat w (min (2 ^ w - 1) (v.toNat + n))

/-- Sign-extend a 12-bit number to 64 bits. -/
def sext64 {w : Nat} (v : BitVec w) : Word := v.signExtend 64

end Sys2Proof.Machine
end

