-- ==== Sys2Proof/Machine/Code.lean ====
section
/-! DEFINITION. The granule code of chapter 11: a Reed-Solomon code word of 36 symbols over GF(256). -/

namespace Sys2Proof.Machine

/-- Multiplication by alpha = 0x02 in GF(256) on 0x11D (R383). -/
def gfDbl (a : Nat) : Nat := if a < 128 then 2 * a else (2 * a) ^^^ 0x11D

/-- Product in GF(256) by shift and add, over the low `n` bits of `b`. -/
def gfMulBits (n a b : Nat) : Nat :=
  match n with
  | 0 => 0
  | n + 1 => (if b % 2 = 1 then a else 0) ^^^ gfMulBits n (gfDbl a) (b / 2)

/-- Product in GF(256) (R383). -/
def gfMul (a b : Nat) : Nat := gfMulBits 8 a b

/-- Power in GF(256). -/
def gfPow (a n : Nat) : Nat :=
  match n with
  | 0 => 1
  | n + 1 => gfMul a (gfPow a n)

/-- Inverse of a non-zero element. -/
def gfInv (a : Nat) : Nat := gfPow a 254

/-- The coefficients g0 to g3 of the generator polynomial (x+1)(x+2)(x+4)(x+8) (R383). -/
def genPoly : List Nat :=
  let step (p : List Nat) (r : Nat) : List Nat :=
    (List.range (p.length + 1)).map fun i =>
      (if i = 0 then 0 else nth 0 p (i - 1)) ^^^ gfMul r (nth 0 p i)
  ([1, 2, 4, 8].foldl step [1]).take 4

/-- Symbol `j` of a code word: check bytes for 0 to 3, data bytes for 4 to 35 (R382). -/
def codeSym (c : Code) (j : Nat) : Nat :=
  if j < 4 then bitsOf c.toNat (256 + 8 * j) 8 else bitsOf c.toNat (8 * (j - 4)) 8

/-- The code word with the given 36 symbols. -/
def ofSyms (l : List Nat) : Code :=
  BitVec.ofNat 288 (ofBytes (((l.drop 4) ++ (l.take 4)).map (BitVec.ofNat 8)))

/-- The symbols of a code word. -/
def symsOf (c : Code) : List Nat := (List.range 36).map (codeSym c)

/-- One step of the division by g(x): the remainder (r0 first) takes the next lower coefficient. -/
def remStep (r : List Nat) (s : Nat) : List Nat :=
  let top := nth 0 r 3
  (List.range 4).map fun i => (if i = 0 then s else nth 0 r (i - 1)) ^^^ gfMul (nth 0 genPoly i) top

/-- The check bytes of 256 data bits (R384). -/
def checkOf (d : Gran) : List Nat :=
  let data := (List.range 32).map fun i => bitsOf d.toNat (8 * i) 8
  ((data.reverse) ++ [0, 0, 0, 0]).foldl remStep [0, 0, 0, 0]

/-- A producer forms the code word of a granule (R384). -/
def encodeGran (d : Gran) : Code :=
  BitVec.ofNat 288 (d.toNat + 2 ^ 256 * ofBytes ((checkOf d).map (BitVec.ofNat 8)))

/-- The data bits of a code word (R382). -/
def dataOf (c : Code) : Gran := BitVec.ofNat 256 c.toNat

/-- S_i = c(alpha^i) (R385). -/
def syndAt (c : Code) (i : Nat) : Nat :=
  (symsOf c).foldr (fun s acc => s ^^^ gfMul (gfPow 2 i) acc) 0

/-- The syndrome S0 to S3 (R385). -/
def syndrome (c : Code) : List Nat := (List.range 4).map (syndAt c)

/-- The poison syndrome (R388). -/
def poisonSyn : List Nat := [0, 0, 0, 0x5A]

/-- The location and value of one symbol error with this syndrome, if there is one. -/
def oneError (s : List Nat) : Option (Nat × Nat) :=
  if nth 0 s 0 = 0 then none
  else
    ((List.range 36).find? fun j =>
      let x := gfPow 2 j
      let e := nth 0 s 0
      decide (nth 0 s 1 = gfMul e x) && decide (nth 0 s 2 = gfMul e (gfMul x x)) &&
        decide (nth 0 s 3 = gfMul e (gfMul x (gfMul x x)))).map fun j => (j, nth 0 s 0)

/-- The values of errors at positions `j` and `k` that give S0 and S1, if they give S2 and S3 too and neither is zero. -/
def errorsAt (s : List Nat) (j k : Nat) : Option (Nat × Nat) :=
  let x := gfPow 2 j
  let y := gfPow 2 k
  let f := gfMul (nth 0 s 1 ^^^ gfMul (nth 0 s 0) x) (gfInv (x ^^^ y))
  let e := nth 0 s 0 ^^^ f
  if e ≠ 0 ∧ f ≠ 0 ∧ nth 0 s 2 = gfMul e (gfMul x x) ^^^ gfMul f (gfMul y y) ∧
     nth 0 s 3 = gfMul e (gfMul x (gfMul x x)) ^^^ gfMul f (gfMul y (gfMul y y))
  then some (e, f) else none

/-- The two symbol errors with this syndrome, if there are two. -/
def twoErrors (s : List Nat) : Option ((Nat × Nat) × (Nat × Nat)) :=
  (List.range 36).findSome? fun j => (List.range j).findSome? fun k =>
    (errorsAt s j k).map fun ef => ((j, ef.1), (k, ef.2))

/-- The outcomes of a checking point (R386). -/
inductive Look where
  | clean | corr1 | corr2 | poisoned | uncorr
  deriving DecidableEq, Repr

/-- A code word with one symbol changed. -/
def fixSym (c : Code) (j e : Nat) : Code :=
  let l := symsOf c
  ofSyms (setNth l j (nth 0 l j ^^^ e))

/-- The fixed poisoned granule (R388): data zero, check bytes with syndrome P. -/
def poisonCode : Code :=
  -- the check symbols c0..c3 solve sum c_j alpha^(ij) = S_i; they are 0x5A times the coefficients of (x+1)(x+2)(x+4)
  -- divided by its value at alpha^3
  let p : List Nat := [8, 14, 7, 1]
  let v := (List.range 4).foldl (fun a i => a ^^^ gfMul (nth 0 p i) (gfPow 8 i)) 0
  ofSyms ((p.map fun c => gfMul c (gfMul 0x5A (gfInv v))) ++ List.replicate 32 0)

/-- Classify a received granule and restore it (R386): the outcome and the code word used from there on. -/
def decodeCode (c : Code) : Look × Code :=
  let s := syndrome c
  if s = [0, 0, 0, 0] then (.clean, c)
  else if s = poisonSyn then (.poisoned, poisonCode)
  else
    match oneError s with
    | some (j, e) => (.corr1, fixSym c j e)
    | none =>
      match twoErrors s with
      | some ((j, e), (k, f)) => (.corr2, fixSym (fixSym c j e) k f)
      | none =>
        match oneError (List.zipWith (· ^^^ ·) s poisonSyn) with
        | some _ => (.poisoned, poisonCode)
        | none => (.uncorr, poisonCode)

/-- A granule that a consumer may use as data. -/
def goodLook (l : Look) : Bool :=
  match l with
  | .clean | .corr1 | .corr2 => true
  | .poisoned | .uncorr => false

/-- The granule is poisoned or lost at a consumer. -/
def isBad (c : Code) : Bool := !goodLook (decodeCode c).1

/-- The data a consumer takes from a granule. -/
def goodData (c : Code) : Gran := dataOf (decodeCode c).2

/-- What a target stores or sends for a granule it reads (R390, R391). [DEDUCED: log 39] -/
def passOn (c : Code) : Code := (decodeCode c).2

/-- The failure class of a granule in a target's answer (R336): 1 UNCORR, 2 POISONED, 0 none. -/
def lookClass (l : Look) : Nat :=
  match l with
  | .uncorr => 1
  | .poisoned => 2
  | _ => 0

/-- The data of a granule with the bytes that `mask` selects taken from another. -/
def mergeBytes (old new : Gran) (mask : Word32) : Gran :=
  BitVec.ofNat 256 (ofBytes ((List.range 32).map fun i =>
    BitVec.ofNat 8 (bitsOf (if bitOf mask.toNat i then new.toNat else old.toNat) (8 * i) 8)))

/-- A write of part of a granule (R392): the code word to store and the failure class. -/
def mergeWrite (stored : Code) (new : Gran) (mask : Word32) : Code × Nat :=
  let r := decodeCode stored
  if goodLook r.1 then (encodeGran (mergeBytes (dataOf r.2) new mask), 0) else (poisonCode, lookClass r.1)

/-- Byte `i` of a granule. -/
def granByte (g : Gran) (i : Nat) : Byte := BitVec.ofNat 8 (bitsOf g.toNat (8 * i) 8)

/-- A granule from up to 32 bytes. -/
def granOf (l : List Byte) : Gran := BitVec.ofNat 256 (ofBytes (l.take 32))

/-- The bytes of a granule. -/
def granBytes (g : Gran) : List Byte := (List.range 32).map (granByte g)

end Sys2Proof.Machine
end

