-- ==== Sys2Proof/Machine/State.lean ====
section
/-! DEFINITION. The state of one Macel 9 module as plain data, and its value when 48 V is first applied. -/

namespace Sys2Proof.Machine

/-- The module's fabric mode (R38). -/
inductive Mode where
  | quiescent | arbitrated | scheduled
  deriving DecidableEq, Repr

/-- Time and mode: LDG_TICK, LDG_MODE and what the boundary sequence of R25 and R34 to R37 needs between ticks. -/
structure Clock where
  tick : BitVec 48 := 0
  ck : Nat := 0
  mode : Mode := .quiescent
  hold : Bool := false
  replay : Bool := false
  quiet : Bool := false
  /-- Tick whose work the present tick runs (R238, R701). -/
  workTick : BitVec 48 := 0
  /-- The overrun tick whose work waits for its replay. -/
  overrunTick : BitVec 48 := 0
  /-- A scheduled plan leaves scheduled mode at the next boundary that R31 allows. -/
  leaving : Bool := false
  /-- Class of the fault record that ends scheduled service, 0 for none (R684). -/
  endClass : BitVec 8 := 0
  /-- The service ends because of a fault. -/
  endFault : Bool := false
  /-- A SUBST forces an overrun (R714). -/
  forceSubst : Bool := false
  /-- The routers have passed: arbitrated mode opens at the next boundary (R752). -/
  fabricOk : Bool := false
  deriving DecidableEq, Repr

/-- A decoded Xmacel instruction (chapter 03): register numbers, tile registers and flags as the word gives them. -/
inductive XInsn where
  | mm (arrB : Bool) (tw src : Fin 16) (ss : Bool) (ac : Fin 4) (ow trn : Bool)
  | mmab (twa twb src : Fin 16) (ss : Bool) (aca acb : Fin 4) (ow trn : Bool)
  | mmbwd (tw tx src : Fin 16) (rs1 : Fin 32) (ss : Bool) (ac : Fin 4) (owA owB : Bool)
  | tld (t : Fin 16) (rs1 rs2 : Fin 32) (noalloc : Bool)
  | tst (t : Fin 16) (rs1 rs2 : Fin 32)
  | strGo (n : Fin 8) (rs1 : Fin 32)
  | strStop (n : Fin 8)
  | dtFill (rs1 rs2 : Fin 32)
  | dtWr (w : Fin 8) (rs1 rs2 : Fin 32)
  | dtRd (w : Fin 8) (rs1 rd : Fin 32)
  | trel (rs1 : Fin 32)
  | l1Inv (rs1 rs2 : Fin 32)
  | l1InvA
  | drAct (fn : Fin 32) (mem stoch : Bool) (rs2 : Fin 32) (rs1 : Fin 32) (arrB : Bool) (ac : Fin 4) (keep pair : Bool)
  | drDact (fn : Fin 32) (mem stoch : Bool) (rs2 : Fin 32) (rs1 : Fin 32) (arrB : Bool) (ac : Fin 4) (keep psrc : Bool)
  | drStat (mem stoch : Bool) (rs2 : Fin 32) (rs1 : Fin 32) (arrB : Bool) (rst nowr : Bool)
  | qbar (mask : BitVec 4) (h : Bool)
  | claspSig (rs1 rs2 : Fin 32)
  | claspWait (rs1 rs2 : Fin 32)
  | claspTake (rs1 rs2 : Fin 32)
  | chWr (rs1 rs2 rs3 : Fin 32)
  | chRd (rs1 rs2 rs3 : Fin 32)
  | chAcc (rs1 rs2 rs3 : Fin 32)
  deriving DecidableEq, Repr

/-- What holds a hart's issue (R808). -/
inductive HoldBy where
  | none
  /-- A full queue (R56). -/
  | queue
  /-- QBAR with H, waiting for barrier `id` (R82). -/
  | qbar (id : Nat)
  /-- TREL waiting for the entries it lists, of those numbered below `before` (R114). -/
  | trel (before : Nat)
  /-- A fragment-window access (R167). -/
  | window
  /-- A load or atomic whose data has not returned, as request `id` (R807). -/
  | load (id : Nat)
  /-- FENCE waiting for its predecessors (R62). -/
  | fence
  deriving DecidableEq, Repr

/-- Whether a hart runs (R57, R71). -/
inductive Run where
  | stopped | running | wfi
  deriving DecidableEq, Repr

/-- One hart: its registers and trap CSRs (R45, R46, R140, R168, R175). [DESIGN CHOICE: log 4] -/
structure Hart where
  pc : Word := 0
  x : Tbl Word := []
  f : Tbl Word32 := []
  fcsr : BitVec 8 := 0
  userMode : Bool := false
  mstatus : Word := 0
  mtvec : Word := 0
  mscratch : Word := 0
  mepc : Word := 0
  mcause : Word := 0
  mtval : Word := 0
  qfie : Bool := false
  run : Run := .stopped
  hold : HoldBy := .none
  /-- TCFG bits [27:0]; reset M = K = N = 64, FMT = BF16, GSPLIT = 0 (R168). -/
  tcfg : BitVec 28 := 0x1404040
  resumeRow : BitVec 6 := 0
  /-- Stores of this hart outside its own data memory whose completion has not returned (R62). -/
  stores : Nat := 0
  deriving DecidableEq, Repr

/-- The states of a tile register (R159). -/
inductive TileState where
  | empty | filling | full
  deriving DecidableEq, Repr

/-- A tile register: state, row poison marks and elements, keyed 64 x row + column (R159). [DESIGN CHOICE: log 5] -/
structure Tile where
  st : TileState := .empty
  poison : BitVec 64 := 0
  elems : Tbl Half := []
  deriving DecidableEq, Repr

/-- Progress of a queue entry. -/
inductive EntryState where
  | waiting | started | faulted
  deriving DecidableEq, Repr

/-- One entry of a work queue: the instruction, what it captured at issue (R94, R95, R176), and how far it has come. -/
structure QEntry where
  id : Nat
  word : Word32
  insn : XInsn
  hart : HartN
  v1 : Word
  v2 : Word
  v3 : Word
  tcfg : BitVec 28
  /-- Descriptor HANDLE and HANDLE2 as captured. -/
  d1 : BitVec 512
  d2 : BitVec 512
  startRow : Nat
  /-- For a QBAR marker: the barrier's number; 0 for an instruction. -/
  barrier : Nat := 0
  st : EntryState := .waiting
  /-- Next row, granule or transfer unit to issue. -/
  next : Nat := 0
  /-- Rows or units that have finished. -/
  fin : Nat := 0
  /-- First poisoned row or granule met (R109). -/
  poisonAt : Option Nat := none
  /-- The address that goes with it. -/
  poisonAddr : BitVec 48 := 0
  /-- A fault found while running, which ends the entry (code, part, address). -/
  bad : Option (BitVec 6 × BitVec 16 × BitVec 48) := none
  /-- The entry has passed the checks of its start: what it writes is its own (R160). -/
  began : Bool := false
  /-- The ck of its start, counted from 1, and what it found there: the registers it writes, and its drain unit's LFSR
  (R99). -/
  at_ : Nat := 0
  found : List (Nat × Tile) := []
  foundLfsr : Option Word32 := none
  /-- The entry has given way to one of an earlier queue that started in the same ck (R99). -/
  yielded : Bool := false
  /-- Matrix entries: pass and next row of each array's stream (R200, R804). -/
  passA : Nat := 0
  rowA : Nat := 0
  passB : Nat := 0
  rowB : Nat := 0
  /-- MM.BWD mask word once read (R296). -/
  maskWord : Option Word := none
  /-- The mask word that was read is poisoned (R296). -/
  maskPoison : Bool := false
  /-- Matrix entries: arrays (bit 0 A, bit 1 B) on which the entry reuses the active weights (R188). -/
  reuse : BitVec 2 := 0
  /-- RETIRED cell slots counted so far on each array (R666). -/
  retA : Nat := 0
  retB : Nat := 0
  /-- The tick in which a CH.RD last asked for granules (R484). -/
  asked : Nat := 0
  /-- Pages checked and parameter block read (R278). -/
  prepared : Bool := false
  /-- What preparation found against the entry (R809, orders 7 and 8): code, part, address. -/
  prepBad : Option (BitVec 6 × BitVec 16 × BitVec 48) := none
  /-- The drain's parameter block, word by word (R250), and the pages checked: device page and physical page (R275). -/
  params : Tbl Word32 := []
  pages : List (Nat × Nat) := []
  deriving DecidableEq, Repr

/-- A stopped queue's record (R144). -/
structure XRec where
  insn : Word32 := 0
  code : BitVec 6 := 0
  hart : BitVec 2 := 0
  part : BitVec 16 := 0
  addr : BitVec 48 := 0
  deriving DecidableEq, Repr

/-- A work queue of up to 32 entries (R79). -/
structure Queue where
  ents : List QEntry := []
  stop : Bool := false
  xrec : XRec := {}
  done : BitVec 16 := 0
  deriving DecidableEq, Repr

/-- An accumulator: 64 x 64 FP32 elements with their error terms (R213, R230). [DESIGN CHOICE: log 5] -/
structure Acc where
  full : Bool := false
  split : Bool := false
  s : Tbl Word32 := []
  e : Tbl Word32 := []
  deriving DecidableEq, Repr

/-- A set of weights with the identity R188 compares. -/
structure Weights where
  entry : Nat
  pass : Nat
  tile : Nat
  trn : Bool
  rows : Nat
  width : Nat
  fmt : BitVec 2
  split : Bool
  /-- The tile register has been written since the load. -/
  dirty : Bool := false
  /-- Rows loaded so far. -/
  loaded : Nat := 0
  elems : Tbl Half := []
  deriving DecidableEq, Repr

/-- A row that has entered an array and not yet been added into its accumulator. [DESIGN CHOICE: log 33] -/
structure RowJob where
  entry : Nat
  acc : Fin 4
  row : Nat
  ow : Bool
  split : Bool
  fmt : BitVec 2
  /-- Streamed elements by reduction index. -/
  xs : List Half
  /-- First and last-plus-one output column the row defines. -/
  lo : Nat
  hi : Nat
  /-- The row defines no element and only keeps its slot, or its mask bit is 0 (R206, R298). -/
  frozen : Bool
  /-- Behind the last row of an OVERWRITE entry on the array, the first row that the entry does not define: it and those
  above it become +0 (R184, R193, R210). -/
  wipe : Option Nat
  w : Weights
  deriving DecidableEq, Repr

/-- One matrix array (R182): weights, rows in flight and the cell slots of this ck (R666). [DESIGN CHOICE: log 5] -/
structure Array where
  active : Option Weights := none
  standby : Option Weights := none
  flight : List RowJob := []
  /-- RETIRED cells of the row that entered in this ck. -/
  slot : Option Nat := none
  /-- The ck, counted from 1, in which a row left full feeders: they take no strand's row in it (R197). -/
  pause : Nat := 0
  deriving DecidableEq, Repr

/-- The modes of a statistics file (R261). -/
inductive StatMode where
  | idle | softmax | lnorm | rmsnorm
  deriving DecidableEq, Repr

/-- One row of a statistics file (R261 to R263). -/
structure StatRow where
  m : Word32 := 0xFF800000
  l : Word32 := 0
  c : Word32 := 0x3F800000
  s1 : Word32 := 0
  s1e : Word32 := 0
  s2 : Word32 := 0
  s2e : Word32 := 0
  count : Word32 := 0
  deriving DecidableEq, Repr

/-- A drain unit's statistics file (R261). -/
structure StatFile where
  mode : StatMode := .idle
  eps : Word32 := 0
  rows : Tbl StatRow := []
  deriving DecidableEq, Repr

/-- A value in the drain pipeline: an FP32 pattern, or the exact sum of a pair that IDENT rounds once (R239). -/
inductive DVal where
  | fp (v : Word32)
  | pair (s e : Word32)
  deriving DecidableEq, Repr

/-- A row between its entry into a drain unit and its write. -/
structure DrainJob where
  entry : Nat
  row : Nat
  vals : List DVal
  /-- The row's LFSR state (R237). -/
  lfsr : Word32
  /-- A poisoned pre-activation row: not written (R260). -/
  bad : Bool := false
  deriving DecidableEq, Repr

/-- A drain unit (R243 to R279). [DEDUCED: log 6] -/
structure Drain where
  file : StatFile := {}
  /-- Updates held aside until the entry completes (R276). -/
  held : Option StatFile := none
  /-- The LFSR once a row of this tick has advanced it; before that it is the tick's seed (R237, R238). -/
  lfsr : Option Word32 := none
  jobs : List DrainJob := []
  deriving DecidableEq, Repr

/-- Who issued a request of a bead (R334). -/
inductive ReqOwner where
  | hartLoad (h : HartN)
  | hartStore (h : HartN)
  | hartAtomic (h : HartN)
  | tileRow (entry row : Nat)
  | drainRow (entry row : Nat)
  | mask (entry : Nat)
  | run (n : Fin 8) (run : Nat)
  | index (n : Fin 8) (run : Nat)
  | chain (entry unit : Nat)
  /-- A message of a chain transfer or remote signal to a module; entry 0 for one whose entry has been taken away. -/
  | sent (entry unit : Nat) (module : BitVec 4)
  /-- A clasp operation that travels (R449). -/
  | clasp (entry : Nat)
  /-- Nobody any more: what made the request has been taken away (R111, R135, R136, R426). -/
  | abandoned
  deriving DecidableEq, Repr

/-- What a request asks for. -/
inductive ReqKind where
  | read | write | part | atomic
  deriving DecidableEq, Repr

/-- How far a request has come. -/
inductive ReqState where
  | walk | walking | ready | issued
  deriving DecidableEq, Repr

/-- A cached translation (R327). -/
structure TlbEntry where
  /-- Device address bits above the page, and the page size in bits. -/
  vpn : Nat
  bits : Nat
  ppn : Nat
  rd : Bool
  wr : Bool
  nc : Bool
  deriving DecidableEq, Repr

/-- A request of a bead beyond its own data memory and its L1 hits (R334, R362). -/
structure Req where
  id : Nat
  owner : ReqOwner
  kind : ReqKind
  /-- Device address of the first granule. -/
  dev : Nat
  n : Nat
  /-- Physical granule addresses, once translated. -/
  phys : List Nat := []
  /-- Device and physical addresses of a copy's destination granules. -/
  dstDev : Nat := 0
  dstPhys : List Nat := []
  copy : Bool := false
  /-- Granules whose leaf has NC = 1 (R322). -/
  nc : List Bool := []
  data : List Code := []
  /-- Bytes a partial write selects, 32 for each granule. -/
  mask : List Word32 := []
  /-- Generation named, for GENV reads (R157). -/
  gen : Option Word32 := none
  watch : Bool := false
  prio : Nat := 0
  st : ReqState := .walk
  slot : Option Nat := none
  /-- Parts not yet answered. -/
  parts : Nat := 0
  /-- Granules that failed, and the class of the lowest (R336). -/
  failed : List Nat := []
  cls : BitVec 4 := 0
  got : Tbl Code := []
  /-- Some granule has been marked stale while the request was unconsumed, and the first such granule (R158, R177). -/
  stale : Bool := false
  staleAt : Nat := 0
  again : Bool := false
  /-- Translations that serve this request alone: the results of walks that a swap overtook (R326). -/
  xl : List TlbEntry := []
  /-- An L1.INV has been made since the miss (R116). -/
  noalloc : Bool := false
  /-- Byte address and size of a scalar access. -/
  bytes : Nat := 0
  deriving DecidableEq, Repr

/-- A held line of the L1 (R75). -/
structure L1Line where
  line : Nat
  g0 : Code
  g1 : Code
  deriving DecidableEq, Repr

/-- One run that a strand has requested and not yet consumed. -/
structure StrandRun where
  idx : Nat
  req : Nat
  got : Bool := false
  bad : Bool := false
  data : List Code := []
  stale : Bool := false
  /-- The first of its granules that a notice has marked (R144). -/
  staleAt : Nat := 0
  again : Bool := false
  void : Bool := false
  /-- The row stands in the feeders of its consumer's array, with the selector it was delivered with (R195, R293). -/
  fed : Bool := false
  sel : Nat := 0
  /-- Physical addresses of its granules, by which a stale notice finds it (R374). -/
  phys : List Nat := []
  /-- Its index entry, where it is gathered, and the device address of its first granule. -/
  ix : Word := 0
  src : Nat := 0
  deriving DecidableEq, Repr

/-- A strand engine (chapter 10). -/
structure Strand where
  running : Bool := false
  stopping : Bool := false
  desc : BitVec 512 := 0
  daddr : Nat := 0
  next : Nat := 0
  consumed : Nat := 0
  /-- The strand has ended; what its last runs left is read by consumers (R353). -/
  ended : Bool := false
  /-- The code of R133 that ended it, 0 for a normal end. -/
  endCode : BitVec 6 := 0
  voids : Nat := 0
  /-- Batches already sorted (R360). -/
  sorted : Nat := 0
  /-- Index positions of the sorted batches, in delivery order (R360). -/
  order : List Nat := []
  runs : List StrandRun := []
  /-- Rows that the feeders hold of a strand that has ended (R195, R353). -/
  left : List StrandRun := []
  /-- Index entries that have arrived, by position (R357). -/
  index : Tbl Word := []
  /-- The run that has met a translation or permission failure, with its code and address: the strand ends once the runs
  before it are consumed (R378). -/
  fail : Option (Nat × BitVec 6 × BitVec 48) := none
  deriving DecidableEq, Repr

/-- What the tick snapshot keeps of one strand (R380). -/
structure StrandSnap where
  running : Bool := false
  daddr : Nat := 0
  consumed : Nat := 0
  deriving DecidableEq, Repr

/-- The tick snapshot of a bead (R72, R141, R269, R380). -/
structure Snap where
  harts : Tbl Hart := []
  done : Tbl (BitVec 16) := []
  files : Tbl StatFile := []
  strands : Tbl StrandSnap := []
  deriving DecidableEq, Repr

/-- An instruction-memory bank with its image's start bits and entries (R57, R606). -/
structure IBank where
  code : Tbl Byte := []
  entry : Tbl (BitVec 16) := []
  deriving DecidableEq, Repr

/-- One bead, by the ordinal it answers (R15, R44). [DESIGN CHOICE: log 5, 7] -/
structure Bead where
  harts : Tbl Hart := []
  dt : Tbl (BitVec 512) := []
  tiles : Tbl Tile := []
  /-- A0 to A3 under keys 0 to 3, B0 to B3 under keys 4 to 7. -/
  accs : Tbl Acc := []
  arrs : Tbl Array := []
  drains : Tbl Drain := []
  queues : Tbl Queue := []
  xfsel : BitVec 2 := 0
  strands : Tbl Strand := []
  reqs : List Req := []
  nextId : Nat := 1
  l1 : List L1Line := []
  tlb : List TlbEntry := []
  active : IBank := {}
  shadow : IBank := {}
  /-- Tick from whose closing boundary on an armed instruction-memory swap may execute (R27). -/
  swapDue : Option Nat := none
  snap : Option Snap := none
  /-- The hart that issued last, and the ck, counted from 1, in which it did (R50). -/
  rr : HartN := 3
  issueCk : Nat := 0
  /-- The ck from which a register of a hart may be read, and its divide unit used, keyed 128 x hart + register: x 0 to 31,
  f 32 to 63, the integer divide unit 64, the FP one 65 (R51). -/
  lat : Tbl Nat := []
  /-- The ck, counted from 1, in which the bead last issued a request (R365). -/
  reqCk : Nat := 0
  /-- The round-robin pointer among strands of one class (R365). -/
  strandRr : Nat := 0
  /-- A bead fault has stopped the bead (R691). -/
  stopped : Bool := false
  deriving DecidableEq, Repr

/-- A walk in flight at a cluster walker (R327). -/
structure Walk where
  bead : Ord
  req : Nat
  gran : Nat
  /-- Result formed with the tables in force at its start; `none` for a translation failure (R326). -/
  res : Option TlbEntry
  cached : Bool := true
  deriving DecidableEq, Repr

/-- A board-tier window (R328). -/
structure BoardWin where
  enable : Bool := false
  readOnly : Bool := false
  hpa : Nat := 0
  gib : Nat := 0
  deriving DecidableEq, Repr

/-- The facet MMUs' stores (R320) and the board windows (R328). Keys of tables: facet x 2^19 + table x 512 + index. -/
structure Mmu where
  active : Tbl Word := []
  shadow : Tbl Word := []
  /-- The first tick whose closing boundary may swap an armed store in (R27). -/
  swapDue : Option Nat := none
  win : Tbl BoardWin := []
  winShadow : Tbl BoardWin := []
  walks : Tbl (List Walk) := []
  deriving DecidableEq, Repr

/-- A router setting image (R414). -/
structure RImage where
  settingId : Word32 := 0
  posIdx : BitVec 16 := 0
  reserved : Bool := false
  count : Nat := 0
  entries : List (BitVec 128) := []
  deriving DecidableEq, Repr

/-- A message at a router input: the input code of R415, and the ck from which it is there.
[DESIGN CHOICE: log 17] -/
structure Flight where
  inp : Fin 8
  at_ : Nat
  /-- When the flit at the head of its buffer came there (R434). -/
  since : Nat := 0
  msg : Msg
  /-- In arbitrated mode (R432): the ck in which each flit that waits here comes or came in, the flits that have gone on, and
  those still to come. -/
  flits : List Nat := []
  sent : Nat := 0
  toCome : Nat := 0
  /-- Its flits are discarded here as they come, or its last have been discarded before (R413). -/
  bad : Bool := false
  cut : Bool := false
  deriving DecidableEq, Repr

/-- The fabric: settings, injection queues (key node x 16 + stream), messages at router inputs, and arrivals by node. -/
structure Fabric where
  active : Tbl RImage := []
  shadow : Tbl RImage := []
  activeId : Word32 := 0
  shadowId : Word32 := 0
  inj : Tbl (List Msg) := []
  flights : Tbl (List Flight) := []
  arrivals : Tbl (List Msg) := []
  failed : List Nat := []
  /-- Round-robin pointers, key router x 64 + output x 8 + virtual channel (R434). -/
  rr : Tbl Nat := []
  /-- Coming slots that data flits of injected messages take, by node, in ck counted from tick 0 (R421). -/
  taken : Tbl (List Nat) := []
  /-- The ck from which a place is free again, counted from tick 0: a router's output (key router x 8 + output), a node's
  injection port (16,384 + node) and its VC0 (32,768 + node) (R404, R434, R437). -/
  busy : Tbl Nat := []
  /-- Messages delivered to a node whose last flit is there from a ck on, counted from tick 0 (R404). -/
  landing : List (Nat × Nat × Msg) := []
  deriving DecidableEq, Repr

/-- Who waits on a clasp (R445). -/
inductive WaitBy where
  | own (o : Ord) (entry : Nat)
  | node (n : NodeN) (tag : BitVec 10)
  deriving DecidableEq, Repr

/-- A waiter on a clasp. -/
structure Waiter where
  n : BitVec 16
  /-- The tick boundaries still to pass before the wait times out (R450). -/
  due : Option Nat
  by_ : WaitBy
  deriving DecidableEq, Repr

/-- What reaches a clasp in a ck: a signal of this module or of another one, the holder bead's own CLASP.SIG, a take, or a
management write of its count (R446). -/
inductive ClaspDo where
  | add (n word node : Nat)
  | remote (n : Nat) (m : Msg)
  | own (n : Nat) (o : Ord) (entry : Nat)
  | take (n : Nat) (by_ : WaitBy)
  | set (n : Nat)
  deriving DecidableEq, Repr

/-- An operation that has reached a clasp in this ck, with its place among those of the ck. -/
structure ClaspAct where
  key : Nat
  rank : Nat
  what : ClaspDo
  deriving DecidableEq, Repr

/-- The clasps of the module, by clasp key, with their checks and registers (chapter 13). -/
structure Clasps where
  /-- What has reached the clasps in this ck, in the order of R446. -/
  acts : List ClaspAct := []
  count : Tbl (BitVec 16) := []
  snap : Tbl (BitVec 16) := []
  waiters : Tbl (List Waiter) := []
  check : Tbl Word32 := []
  checkShadow : Tbl Word32 := []
  sel : BitVec 24 := 0
  mismatch : BitVec 16 := 0
  mgmtWrite : BitVec 16 := 0
  late : BitVec 16 := 0
  refused : BitVec 16 := 0
  deriving DecidableEq, Repr

/-- A fault record (R685). -/
structure FaultRec where
  seq : Word32 := 0
  tick : BitVec 48 := 0
  ck : BitVec 14 := 0
  cls : BitVec 8 := 0
  addrV : Bool := false
  prior : Bool := false
  recovered : Bool := false
  lost : Bool := false
  inReplay : Bool := false
  gap : Bool := false
  source : BitVec 12 := 0
  module : BitVec 4 := 0
  addr : BitVec 48 := 0
  detail : Word := 0
  /-- What a rule has recorded besides, for which the layout of R684 and R685 has no place (R519, R526). -/
  more : List Word := []
  deriving DecidableEq, Repr

/-- The fault log of the standby partition (R618, R685 to R688, R706, R707). -/
structure FaultLog where
  ring : List FaultRec := []
  nextSeq : Word32 := 0
  idxHost : Word32 := 0
  idxMgt : Word32 := 0
  overHost : Word32 := 0
  overMgt : Word32 := 0
  dropped : BitVec 8 := 0
  waiting : List FaultRec := []
  /-- The ck in which a record was last written, plus 1 (R687). -/
  wroteCk : Nat := 0
  gap : Bool := false
  hiwat : BitVec 12 := 0xC00
  autosub : Bool := true
  reread : BitVec 3 := 4
  /-- The count that the host, or the management port, has not acknowledged has reached HIWAT and not fallen below it
  since (R688). -/
  aboveHost : Bool := false
  aboveMgt : Bool := false
  deriving DecidableEq, Repr

/-- A ledger record (R701). [DEDUCED: log 11] -/
structure LedgerRec where
  tick : BitVec 48 := 0
  kind : BitVec 2 := 0
  overrun : Bool := false
  retired : Bool := false
  peerHold : Bool := false
  ended : Bool := false
  pslot : BitVec 2 := 0
  pass : BitVec 2 := 0
  workTick : BitVec 48 := 0
  iswap : BitVec 16 := 0
  step : Word32 := 0
  sched : BitVec 20 := 0
  mbatch : Word32 := 0
  setting : BitVec 12 := 0
  settingId : Word32 := 0
  tsSwap : Word32 := 0
  viewSwap : Word32 := 0
  flips : Word32 := 0
  hmap : Word := 0
  fseq : Word32 := 0
  fcount : BitVec 16 := 0
  split : BitVec 7 := 0
  deriving DecidableEq, Repr

/-- A record waiting for the trace ring (R704). -/
inductive TraceItem where
  | fault (r : FaultRec)
  | ledger (r : LedgerRec)
  deriving DecidableEq, Repr

/-- The ledger, its registers and the trace (R701 to R712). -/
structure Ledger where
  cur : LedgerRec := { kind := 3, split := 64 }
  recs : List LedgerRec := []
  depth : BitVec 17 := 4096
  replay : Bool := true
  newDepth : Option (BitVec 17 × Bool) := none
  retired : BitVec 48 := 0
  overruns : BitVec 16 := 0
  replays : BitVec 16 := 0
  ends : BitVec 8 := 0
  peerHolds : BitVec 16 := 0
  iswap : BitVec 16 := 0
  tsSwap : Word32 := 0
  viewSwap : Word32 := 0
  traceEn : Bool := false
  traceBase : BitVec 36 := 0
  traceSize : BitVec 16 := 0
  traceN : Nat := 0
  written : Word32 := 0
  lost : BitVec 16 := 0
  traceBuf : List TraceItem := []
  /-- Trace records dropped since the previous entry (R705). -/
  drops : Word := 0
  deriving DecidableEq, Repr

/-- LDG_COMMIT_MASK and LDG_COMMIT_CTL (R541, R542). -/
structure Commit where
  regions : Word := 0
  clasp : BitVec 12 := 0
  count : BitVec 16 := 0
  waiting : Bool := false
  armed : Bool := false
  due : Nat := 0
  /-- CANCEL: set by the written 1 that withdraws a request, clear again with the next request (R6, R542). -/
  cancelled : Bool := false
  flips : Word32 := 0
  deriving DecidableEq, Repr

/-- A command read from a mailbox (R595). -/
structure Cmd where
  num : Nat
  mbx : MbxN
  entry : BitVec 512
  started : Bool := false
  deriving DecidableEq, Repr

/-- A completion (R596). -/
structure Completion where
  mbx : MbxN
  cid : BitVec 16
  status : BitVec 8
  opc : BitVec 8
  r0 : Word
  r1 : Word
  tick : BitVec 48
  irq : Bool
  deriving DecidableEq, Repr

/-- A mailbox (R584). [DESIGN CHOICE: log 46] -/
structure Mbx where
  en : Bool := false
  rst : Bool := false
  log2n : BitVec 4 := 4
  irqAll : Bool := false
  cmdBase : BitVec 52 := 0
  cplBase : BitVec 52 := 0
  tail : Nat := 0
  head : Nat := 0
  cplTail : Nat := 0
  phase : Bool := true
  err : Bool := false
  errCode : BitVec 3 := 0
  held : List Completion := []
  /-- CPL_HEAD at the last reading of the index line (R591). -/
  cplHead : Nat := 0
  deriving DecidableEq, Repr

/-- A started command that completes when something else has come about. -/
inductive Waits where
  /-- MAP and UNMAP (R604): their change waits in the shadow bank for its swap. -/
  | map (num : Nat)
  | window (num : Nat)
  | split (num : Nat)
  /-- BIND (`bound`) or UNBIND of an adapter ID (R610). -/
  | view (num aid : Nat) (bound : Bool)
  /-- LOAD_PROGRAM of a range of ordinals (R609). -/
  | program (num first last : Nat)
  | stop (num : Nat)
  /-- LEDGER_CTL, or CNT_CONFIG (`cnt`): in force at the next boundary. -/
  | config (num : Nat) (cnt : Bool)
  /-- CNT_SNAP until its boundary (R675): the buffer's address and place. -/
  | snap (num addr loc : Nat)
  /-- SUBST of a position index (R620). -/
  | subst (num pos : Nat)
  deriving DecidableEq, Repr

/-- What Nutas loads into the shadow banks (R609, R610, R613, R728). -/
inductive LoadWhat where
  /-- The setting, images, check images and reach masks of a plan step. -/
  | step (k : Nat)
  /-- A cohort view. -/
  | view
  /-- An image into a range of beads: the start bits, entries and code of LOAD_PROGRAM. -/
  | program (num first last : Nat) (entry : Tbl (BitVec 16)) (code : List Byte)
  /-- Changed translation tables, into the shadow bank (R325, R427). -/
  | stores
  /-- The same changes into the bank that has become the shadow, for the commands that then complete, with the tick of the
  swap (R325, R604). -/
  | mirror (nums : List Nat) (tick : BitVec 48)
  deriving DecidableEq, Repr

/-- A load under way, with the granules still to be written. -/
structure Load where
  what : LoadWhat
  left : Nat
  deriving DecidableEq, Repr

/-- Where a plan stands (R602, R612 to R616). -/
inductive PlanPhase where
  | none | waiting | running | stopping
  deriving DecidableEq, Repr

/-- The plan and its load (R612 to R616, R728). -/
structure Plan where
  phase : PlanPhase := .none
  /-- The RUN that started it. -/
  num : Nat := 0
  slot : Nat := 0
  start : Nat := 0
  nticks : Nat := 0
  first : Nat := 0
  /-- Steps completed, and the step whose work the present tick runs. -/
  done : Nat := 0
  step : Nat := 0
  step0 : BitVec 48 := 0
  reserve : Nat := 0
  stopped : Bool := false
  /-- Setting number, schedule entry, pass and micro-batch of the step. -/
  setting : Nat := 0
  sched : Nat := 0
  pass : BitVec 2 := 0
  mbatch : Word32 := 0
  /-- The next step that needs other contents in the active banks than the present one. -/
  next : Option Nat := Option.none
  /-- The step for which the shadow banks are loaded, and the first tick whose closing boundary may swap them in. -/
  ready : Option (Nat × Nat) := Option.none
  deriving DecidableEq, Repr

/-- A loaded bundle: where it lies and what its header gives (R605). -/
structure Bundle where
  addr : Nat
  len : Nat
  nset : Nat
  nimg : Nat
  ntick : Nat
  reserve : Nat
  portmap : BitVec 128
  express : BitVec 128
  schedOff : Nat
  setOff : Nat
  imgOff : Nat
  pathOff : Nat
  npath : Nat
  digest : BitVec 512
  deriving DecidableEq, Repr

/-- A cohort-table entry (R285). -/
structure Cohort where
  /-- STATE: 0 FREE, 1 BOUND, 2 PENDING, 3 RELEASING. -/
  st : BitVec 2 := 0
  gw : BitVec 2 := 0
  slot : BitVec 3 := 0
  rank : BitVec 9 := 0
  pave : BitVec 9 := 0
  setTag : Word := 0
  pbase : BitVec 48 := 0
  bindTick : BitVec 48 := 0
  deriving DecidableEq, Repr

/-- State of a firmware handover (R716 to R719). -/
inductive Handover where
  | none
  /-- FW_ACTIVATE waits, since a tick at which the wait of R619 had ended or none. -/
  | waiting (num : Nat) (since : Option Nat)
  | inTick (num : Nat)
  /-- The new image did not report ready: the old one restarts at the closing boundary. -/
  | failed (num : Nat)
  deriving DecidableEq, Repr

/-- Nutas and its tables in locket memory. -/
structure Nutas where
  cmds : List Cmd := []
  nextNum : Nat := 0
  /-- Completions not yet written, in the order in which the commands completed (R589). -/
  ready : List Completion := []
  waits : List Waits := []
  /-- Mailboxes already read in this round (R587). -/
  round : List Nat := []
  plan : Plan := {}
  bundles : Tbl (Option Bundle) := []
  cohorts : Tbl Cohort := []
  view : Tbl (BitVec 16) := []
  viewShadow : Tbl (BitVec 16) := []
  /-- The first tick whose closing boundary may swap a loaded cohort view in. -/
  viewDue : Option Nat := Option.none
  loads : List Load := []
  /-- Granules loaded in the present tick (R614). -/
  loadedNow : Nat := 0
  reach : BitVec 1024 := 0
  reachShadow : BitVec 1024 := 0
  /-- Position states that differ from those as built (R88). -/
  pos : Tbl (Option (BitVec 4)) := []
  /-- Position a serving spare serves, by the spare's position index. -/
  serves : Tbl Nat := []
  /-- Substitutions under way: failed position index (R720). -/
  substs : List Nat := []
  /-- The next channel of a rotation of stack retraining, 32 x stack + channel (R735). -/
  rotation : Option Nat := Option.none
  /-- The tick at which the last rotation began (R735). -/
  rotTick : Nat := 0
  handover : Handover := .none
  /-- Master that staged the image in the slot that is not running (R638). -/
  stagedBy : Option Master := none
  deriving DecidableEq, Repr

/-- A whole management message received: the sender's endpoint ID, its tag, and the bytes from the message type on. -/
structure MgmtReq where
  src : BitVec 8
  tag : BitVec 3
  body : List Byte
  deriving DecidableEq, Repr

/-- The standby partition's power state, MGT_PWR, MGT_BOOT and MGT_OWN (R631, R634, R757). [DESIGN CHOICE: log 8] -/
structure Standby where
  /-- The fuses: the grade MCL9-0960 (R1, R3). No command changes it. -/
  grade960 : Bool := false
  standby : Bool := false
  overvolt : Bool := false
  holdOff : Bool := false
  mainUp : Bool := false
  enableIn : Bool := false
  cycling : Bool := false
  phase : BitVec 4 := 0
  fail : BitVec 4 := 0
  slot : Bool := false
  fallback : Bool := false
  /-- The ROM has turned to the other slot in this bring-up (R745). -/
  tried : Bool := false
  failStack : BitVec 4 := 0
  failChan : BitVec 5 := 0
  boots : BitVec 16 := 0
  ms : BitVec 16 := 0
  bootSlot : Bool := false
  owner : Bool := false
  pending : Bool := false
  forced : Bool := false
  granted : Bool := false
  force : Bool := false
  release : Bool := false
  graceLeft : BitVec 24 := 0
  lossTmo : BitVec 16 := 10
  /-- The takeover request that waits for its answer. -/
  takeReq : Option MgmtReq := none
  imgA : List Byte := []
  imgB : List Byte := []
  rollback : Nat := 0
  revoked : BitVec 4 := 0
  /-- The page-retire tables as kept for the next reset (R747): key bezel x 2^25 + frame, value reserve frame + 1. -/
  retires : Tbl Nat := []
  deriving DecidableEq, Repr

/-- The power controller (R780 to R786, R793, R794). [DESIGN CHOICE: log 10] -/
structure PowerCtl where
  pavg : BitVec 12 := 0
  ptick : BitVec 12 := 0
  tjmax : BitVec 8 := 0
  duty : BitVec 4 := 8
  overLim : Bool := false
  hot : Bool := false
  vin : BitVec 10 := 0
  hotCnt : BitVec 16 := 0
  limit : BitVec 12 := 3200
  grace : BitVec 16 := 1024
  tjThrottle : BitVec 8 := 95
  auto : Bool := true
  /-- LIMIT and GRACE in force (R786). -/
  limitNow : Nat := 3200
  graceNow : Nat := 1024
  hist : List Nat := []
  hotRun : Nat := 0
  tjRun : Nat := 0
  ptRun : Nat := 0
  /-- Ticks since DUTY last changed, up to 64. -/
  dutyAge : Nat := 64
  deriving DecidableEq, Repr

/-- The security registers, the running image's identity and the latest report (chapter 24). -/
structure Security where
  lock : Bool := false
  bmin : Word32 := 0
  bkey : Tbl Word := []
  keyIdx : BitVec 2 := 0
  version : Word32 := 0
  svn : Word32 := 0
  commit : Bool := false
  revoke : BitVec 4 := 0
  s1 : BitVec 512 := 0
  s2 : BitVec 512 := 0
  /-- The hallmark public key derived in the ROM phase. -/
  pubKey : List Byte := []
  report : List Byte := []
  repId : Word32 := 0
  deriving DecidableEq, Repr

/-- The interrupt hub and the MSI-X capability (chapter 19). -/
structure Hub where
  pend : BitVec 2048 := 0
  cnt : Tbl (BitVec 8) := []
  /-- Mask bits of each target; a target not listed has every source masked. -/
  mask : Tbl (BitVec 2048) := []
  /-- Pending bits, counters and masks as they stood before this ck, less what has been claimed in it (R650). -/
  pendWas : BitVec 2048 := 0
  cntWas : Tbl (BitVec 8) := []
  maskWas : Tbl (BitVec 2048) := []
  /-- The events of each source in this ck, and the blocks that have signalled them (R640, R650). -/
  fresh : Tbl (BitVec 8) := []
  raised : List (Nat × Nat) := []
  line : BitVec 37 := 0
  /-- Eligibility of the targets in the last four ck, oldest first (R642). -/
  elig : List (BitVec 37) := [0, 0, 0, 0]
  /-- Host claims whose line is looked at again when the count of ck reaches 0 (R653). -/
  after : List (Nat × Nat) := []
  msixEn : Bool := false
  busMaster : Bool := false
  fmask : Bool := false
  vmask : BitVec 32 := 0xFFFFFFFF
  pba : BitVec 32 := 0
  /-- The message address and data of each vector, in the table of BAR2 (R554, R653). -/
  msixAddr : Tbl Word := []
  msixData : Tbl Word32 := []
  deriving DecidableEq, Repr

/-- A counter record being written (R671 to R675). -/
structure Dump where
  /-- The CNT_SNAP whose record it is. -/
  snap : Option Nat
  dest : Nat
  loc : Nat := 0
  period : Word32 := 0
  t0 : BitVec 48 := 0
  tick : BitVec 48
  vals : Tbl (BitVec 48)
  codes : Tbl (BitVec 8)
  seq : Nat
  skipped : BitVec 16
  /-- Ordinals that answered at the capture. -/
  live : BitVec 1024 := 0
  deriving DecidableEq, Repr

/-- A counter configuration waiting for its boundary (R669). -/
structure CntConf where
  num : Nat
  codes : Tbl (BitVec 8)
  base : Nat
  size : Nat
  period : Nat
  deriving DecidableEq, Repr

/-- Counters and the assayer (chapter 20). Keys: block x 8 + counter. -/
structure Assayer where
  vals : Tbl (BitVec 48) := []
  codes : Tbl (BitVec 8) := []
  period : Word32 := 0
  records : BitVec 16 := 0
  base : BitVec 48 := 0
  t0 : BitVec 48 := 0
  seq : Word32 := 0
  nextSeq : Nat := 0
  skip : BitVec 16 := 0
  skipped : BitVec 16 := 0
  dumps : List Dump := []
  conf : Option CntConf := none
  selBlock : BitVec 12 := 0
  selCtr : BitVec 3 := 0
  deriving DecidableEq, Repr

/-- A board-tier request at the CXL node (R572): the message, its UIO requests not yet answered, and what has come back. -/
structure UioJob where
  num : Nat
  msg : Msg
  left : Nat
  got : Tbl Code := []
  pm : BitVec 8 := 0
  cls : BitVec 4 := 0
  deriving DecidableEq, Repr

/-- A UIO request outstanding: its board-tier request, the granules of it, and the tick of its start (R572, R573). -/
structure Uio where
  id : Nat
  job : Nat
  first : Nat
  n : Nat
  hpa : Nat
  since : BitVec 48
  deriving DecidableEq, Repr

/-- The host link (chapter 16). [DESIGN CHOICE: log 10] -/
structure HostLink where
  link : BitVec 2 := 0
  speed : BitVec 2 := 0
  width : BitVec 5 := 0
  l0p : Bool := false
  cacheEn : Bool := false
  memEn : Bool := false
  uioEn : Bool := false
  cal : Bool := false
  calLane : BitVec 4 := 0
  uioTmo : BitVec 16 := 122
  calAuto : Bool := true
  calPeriod : BitVec 8 := 60
  corr : BitVec 16 := 0
  uncorr : BitVec 16 := 0
  linkDown : BitVec 8 := 0
  biTmo : BitVec 8 := 0
  poisonRx : BitVec 16 := 0
  biBase : BitVec 10 := 0
  biSize : BitVec 7 := 0
  hdm : Option Nat := none
  uio : List Uio := []
  jobs : List UioJob := []
  nextUio : Nat := 0
  /-- The next request number of a host request (R411). -/
  nextTag : BitVec 10 := 0
  /-- The host lines that the locket cache holds shared, the one held longest first (R569). -/
  cache : List Nat := []
  /-- AER status, by the classes of R575: an error of the class has been found. -/
  aerCorr : Bool := false
  aerNonfatal : Bool := false
  aerFatal : Bool := false
  /-- Request numbers of the two halves of partial host writes of which neither is answered yet (R560). -/
  halves : List (BitVec 10 × BitVec 10) := []
  /-- The lane whose turn it is, and the tick in which each lane's calibration was last begun, plus 1 (R577). -/
  calNext : BitVec 4 := 0
  calTick : Tbl Nat := []
  deriving DecidableEq, Repr

/-- The states of a chain port (R468). -/
inductive PortState where
  | dark | training | up | degraded | down | loop
  deriving DecidableEq, Repr

/-- A request issued by a receiving port node (R480): where its answer goes, the physical addresses of its granules, and
what has come back. -/
structure OutEntry where
  srcMod : BitVec 4
  srcNode : BitVec 12
  tag : BitVec 10
  op : BitVec 8
  /-- The request's ADDR. -/
  addr : BitVec 48
  /-- Order of arrival on the link. -/
  order : Nat
  phys : List Nat
  /-- Parts not yet answered. -/
  parts : Nat
  got : Tbl Code := []
  pm : BitVec 8 := 0
  cls : BitVec 4 := 0
  /-- The port went DOWN: the answer is discarded (R485). -/
  lost : Bool := false
  deriving DecidableEq, Repr

/-- A buffered frame that waits to be issued, with its arrival order. -/
structure RxItem where
  order : Nat
  f : ChainFrame
  deriving DecidableEq, Repr

/-- A chain port (chapter 14). [DESIGN CHOICE: log 9] -/
structure Port where
  st : PortState := .dark
  rehomed : Bool := false
  peer : BitVec 4 := 0
  /-- Physical lanes of logical lanes 0 to 3 (LMAP). -/
  lmap : BitVec 12 := 0x688
  spare : BitVec 3 := 4
  cal : Bool := false
  /-- The calibration was requested by GO (R509). -/
  calGo : Bool := false
  delay : BitVec 16 := 0
  crcErr : BitVec 16 := 0
  resent : BitVec 16 := 0
  laneSw : BitVec 8 := 0
  tlost : BitVec 8 := 0
  granErr : BitVec 16 := 0
  nextSeq : BitVec 12 := 0
  /-- Frames sent and not acknowledged, with their resends (R475, R478). -/
  replay : List (ChainFrame × Nat) := []
  /-- Messages accepted from the fabric and not yet sent, oldest first. -/
  tx : List ChainFrame := []
  creditReq : Nat := 576
  creditRsp : Nat := 576
  creditAcc : Nat := 1152
  lastRx : BitVec 12 := 0xFFF
  nakOut : Bool := false
  rx : List RxItem := []
  rxOrder : Nat := 0
  out : Tbl (Option OutEntry) := []
  failedLanes : BitVec 5 := 0
  /-- Uncorrectable code words that each lane has reported in this tick (R500). -/
  laneUnc : Tbl Nat := []
  /-- The lane whose calibration a lane failure has ended, to be calibrated anew (R504); 7 with none. -/
  calLane : BitVec 3 := 7
  /-- One more than the tick in which the port's last rotation began (R503); 0 before the first. -/
  calTick : Nat := 0
  /-- Physical lanes in the order of their last calibration, oldest first. -/
  calOrder : List Nat := [0, 1, 2, 3, 4]
  /-- A lane-map change to make at the next LANE frame: logical lane and the lane that becomes spare or fails. -/
  newMap : Option (BitVec 12 × BitVec 3) := none
  /-- The change ends a calibration (R503, R504). -/
  newCal : Bool := false
  /-- A lane switch lets no MSG frame leave before this ck, counted from tick 0 (R501); 0 with none under way. -/
  pauseTo : Nat := 0
  /-- Timing of this tick (R488 to R496). -/
  gotFirst : Bool := false
  gotRelay : Bool := false
  voteHold : Bool := false
  relayHold : Bool := false
  firstCk : Nat := 0
  peerAligned : Bool := false
  peerRef : BitVec 4 := 0
  peerTick : BitVec 48 := 0
  peerMode : BitVec 2 := 0
  /-- The WINDOW that the peer has reported over this link (R499). -/
  peerWindow : Option (BitVec 6) := none
  offset : BitVec 16 := 0
  deriving DecidableEq, Repr

/-- The chain block's registers and board timing (R491, R505 to R509). [DESIGN CHOICE: log 9] -/
structure Chain where
  num : BitVec 4 := 0
  numv : Bool := false
  conflict : Bool := false
  ref : BitVec 4 := 0
  aligned : Bool := false
  ahead : Bool := false
  isRef : Bool := false
  forming : Bool := false
  offset : BitVec 16 := 0
  winMis : Bool := false
  alignRun : Nat := 0
  from_ : BitVec 4 := 0
  rehomeEn : Bool := false
  window : BitVec 6 := 8
  windowNow : BitVec 6 := 8
  rspTmo : BitVec 4 := 4
  calPort : BitVec 4 := 0
  calAuto : Bool := true
  calPeriod : BitVec 8 := 60
  maxPar : BitVec 4 := 4
  /-- This module's verdict at the seal point, and whether it was taken in this tick (R488, R494). -/
  sealed_ : Bool := false
  verdict : Bool := false
  /-- The first bead that was not complete at the seal point, and how many were not. -/
  sealFirst : BitVec 10 := 0
  sealCount : BitVec 11 := 0
  relayed : Bool := false
  ports : Tbl Port := []
  deriving DecidableEq, Repr

/-- The states of a reduction record (R512). -/
inductive RedState where
  | free | open_ | complete | updating | updated | broken
  deriving DecidableEq, Repr

/-- A reduction record (R512). -/
structure RedRec where
  st : RedState := .free
  expect : BitVec 7 := 0
  localV : Bool := false
  localC : BitVec 6 := 0
  oset : BitVec 4 := 0
  region : BitVec 6 := 0
  count : BitVec 11 := 0
  step : Word32 := 0
  sums : BitVec 36 := 0
  work : BitVec 36 := 0
  optst : BitVec 36 := 0
  fanaddr : BitVec 48 := 0
  segs : Tbl Word := []
  deriving DecidableEq, Repr

/-- A generation-table entry (R536). -/
structure GenEnt where
  lo : BitVec 36 := 0
  hi : BitVec 36 := 0
  twin : BitVec 36 := 0
  valid : Bool := false
  oldv : Bool := false
  cur : Word32 := 0
  fanmask : BitVec 16 := 0
  fanclasp : BitVec 12 := 0
  fantwin : BitVec 48 := 0
  deriving DecidableEq, Repr

/-- A fan-out under way to one module (R534, R535). -/
structure Fan where
  record : Nat
  module : Nat
  /-- The request number that its writes carry. -/
  tag : Nat
  acks : Nat := 0
  /-- Its SIGNAL waits for injection (R535). -/
  sent : Bool := false
  /-- Its record is BROKEN; the request number is free again when every write has been answered. -/
  dead : Bool := false
  deriving DecidableEq, Repr

/-- A check entry (R524): sums and magnitude sums of one sampled granule, or a granule that was skipped. -/
structure ChkEntry where
  owner : Nat
  record : Nat
  gran : Nat
  step : Word32
  skipped : Bool := false
  sums : List Word32 := []
  mags : List Word32 := []
  deriving DecidableEq, Repr

/-- A copy of a sampled granule, or the owner's sums, on the way to the check bezel (R523, R525). -/
inductive ChkMsg where
  | copy (owner record gran : Nat) (step : Word32) (first : Bool) (data : Gran)
  | sums (owner record gran : Nat) (step : Word32) (vals : List Word32)
  deriving DecidableEq, Repr

/-- A request in a sorter with its arrival time, or a write held for a BIRsp (R367, R563). -/
structure SortReq where
  msg : Msg
  tick : BitVec 48
  ck : Nat
  /-- Its BISnpInv has been sent. -/
  held : Bool := false
  deriving DecidableEq, Repr

/-- A watched range of a bezel (R371): the physical byte addresses of its first and last granule. -/
structure Watch where
  bead : Ord
  strand : Fin 8
  lo : Nat
  hi : Nat
  deriving DecidableEq, Repr

/-- The phases of stack retraining (R732). -/
inductive Retrain where
  | idle | copy | remap | return_
  deriving DecidableEq, Repr

/-- A bezel (R331 onward): registers, tables, sorter and units. [DESIGN CHOICE: log 10] -/
structure Bezel where
  corr1 : BitVec 16 := 0
  corr2 : BitVec 16 := 0
  uncorr : BitVec 16 := 0
  poison : BitVec 16 := 0
  scrubEn : Bool := true
  thresh : BitVec 8 := 8
  passes : BitVec 16 := 0
  scrubPos : Nat := 0
  frames : Tbl Nat := []
  reported : List Nat := []
  nblk : BitVec 17 := 0
  intakeLo : BitVec 25 := 0
  rate : BitVec 4 := 10
  halt : Bool := false
  tol : BitVec 5 := 16
  dup : BitVec 16 := 0
  refused : BitVec 16 := 0
  nonfinite : BitVec 16 := 0
  chkMiss : BitVec 8 := 0
  chkSkip : BitVec 8 := 0
  /-- CHANNEL of BZL_RETRAIN, and the channel that retrains (R735). -/
  retrainSel : BitVec 5 := 0
  retrainCh : BitVec 5 := 0
  retrainPhase : Retrain := .idle
  retrainAuto : Bool := false
  retrainPeriod : BitVec 16 := 24
  retrainLeft : BitVec 14 := 0
  copied : Nat := 0
  retireAuto : Bool := true
  retireFrame : BitVec 24 := 0
  /-- Frames requested for retirement and frames deferred under R737. -/
  retiring : List Nat := []
  deferred : List Nat := []
  redirect : Tbl Nat := []
  nextReserve : Nat := 0
  recs : Tbl RedRec := []
  gens : Tbl GenEnt := []
  optActive : Tbl (BitVec 512) := []
  optShadow : Tbl (BitVec 512) := []
  completed : List Nat := []
  /-- The ck, counted from tick 0, plus 1, in which the update unit began to wait for lines that the host holds; 0 when it does
  not (R563, R564). -/
  unitHeld : Nat := 0
  /-- Lines for which a BISnpInv is out, with the ck in which it was sent (R563, R566). -/
  snoops : List (Nat × Nat) := []
  /-- COMPLETE records that wait for a verdict (R526): record and granules left. -/
  verdicts : Tbl Nat := []
  fans : List Fan := []
  chk : List ChkEntry := []
  chkIn : List ChkMsg := []
  sorter : List SortReq := []
  openRow : Tbl Nat := []
  watch : List Watch := []
  lines : List Nat := []
  deriving DecidableEq, Repr

/-- A request in a slice sorter (R369). -/
structure SliceReq where
  msg : Msg
  tick : BitVec 48
  ck : Nat
  /-- Crossbar port: 0 the fabric port, then the bead positions (R307). -/
  port : Nat := 0
  /-- Granules served, in the order of service: number within the request, class of the outcome, and what a read gave. -/
  got : List (Nat × Nat × Code) := []
  deriving DecidableEq, Repr

/-- Data memory, slices and stacks: code-word symbols (R382), slice sorters and the split (R316).
[DESIGN CHOICE: log 10] -/
structure Memory where
  cells : List Host.Cell := []
  /-- Load-reserved reservations: hart number 4 x ordinal + hart, and granule number plus 1. -/
  resv : Tbl Nat := []
  slices : Tbl (List SliceReq) := []
  /-- The ck since the tick counter's start, plus 1, in which a slice's sorter last served (R306). -/
  sliceCk : Tbl Nat := []
  /-- Requests of the own cluster on their way to each slice by the crossbar are in its sorter at once. -/
  split : BitVec 7 := 64
  splitNow : BitVec 7 := 64
  scrubPos : Tbl Nat := []
  /-- Granules that decoded UNCORR at a stack or slice read and wait for rereads, by physical address, with the detail
  of the record written at detection (R690). -/
  rereads : List (Nat × Nat) := []
  deriving DecidableEq, Repr

/-- An MCTP packet to send; `cpl` for the last packet of an MBX_CPL (R628). -/
structure MgmtPkt where
  bytes : List Byte
  cpl : Bool := false
  deriving DecidableEq, Repr

/-- A DATA frame sent and not acknowledged, with its resends. -/
structure MgmtSent where
  seq : BitVec 8
  pkt : MgmtPkt
  resends : Nat := 0
  deriving DecidableEq, Repr

/-- The management port (chapter 18). [DESIGN CHOICE: log 8] -/
structure Mgmt where
  up : Bool := false
  txSeq : BitVec 8 := 0
  unacked : List MgmtSent := []
  waiting : List MgmtPkt := []
  rxLast : BitVec 8 := 0xFF
  /-- The endpoint ID, 0 before assignment, and that of the controller that assigned it. -/
  eid : BitVec 8 := 0
  boss : BitVec 8 := 0
  ownTag : BitVec 3 := 0
  partial_ : Option MgmtReq := none
  /-- The packet sequence number that the message being received expects next. -/
  pktSeq : BitVec 2 := 0
  /-- Whole messages received and not yet served. -/
  msgs : List MgmtReq := []
  stage : Tbl Byte := []
  /-- Mailbox 8's rings: completions written and not yet acknowledged, and how many of them have been sent. -/
  ring : Tbl (BitVec 512) := []
  cplRing : List (List Byte) := []
  cplSent : Nat := 0
  deriving DecidableEq, Repr

/-- The requests of CXL.cache that the locket makes (R569). -/
inductive CacheOp where
  | rdCurr | rdShared | itoMWr | woWrInv
  deriving DecidableEq, Repr

/-- The AER classes of R575. -/
inductive AerClass where
  | correctable | nonfatal | fatal
  deriving DecidableEq, Repr

/-- What has left the module, oldest first: the model's own record of its outputs. [DESIGN CHOICE: log 15] -/
inductive OutMsg where
  | regValue (v : Word)
  | hostData (data : BitVec 512) (poison : Bool) (shared : Bool)
  | hostWrite (addr : Nat) (bytes : List Byte)
  /-- A request of the locket to host memory over CXL.cache (R569): a ring read, or completion entries written. -/
  | cache (op : CacheOp) (addr : Nat) (bytes : List Byte)
  /-- The completion of a host write (R560). -/
  | memDone (addr : Nat)
  /-- An error message of the AER class (R550, R575). -/
  | aer (c : AerClass)
  /-- A word of the function's configuration, or an MSI-X table entry (R553, R554). -/
  | config (v : Word32)
  | vector (addr : Word) (data : Word32) (mask pending : Bool)
  | msix (v : Nat) (addr : Word) (data : Word32)
  /-- The frames of a chain port, each with its CRC (R469). -/
  | chain (p : Nat) (f : ChainFrame) (crc : Word32)
  | chainCtrl (p : Nat) (l : LinkWord) (crc : Word32)
  | timing (p : Nat) (l : LinkWord) (w : TimingWords) (crc : Word32)
  | train (p : Nat) (l : LinkWord) (w : TrainWords) (crc : Word32)
  | lane (p : Nat) (l : LinkWord) (lmap : BitVec 12) (spare : BitVec 3) (crc : Word32)
  /-- A management frame (R623). -/
  | mgmt (f : MgmtFrame)
  /-- A UIO request; a write with its granules: the data, the bytes it selects, and whether CXL poison is set (R331, R572). -/
  | uio (id : Nat) (write : Bool) (hpa bytes : Nat) (data : List (Gran × Word32 × Bool))
  | biSnoop (bezel line : Nat)
  | unsupported
  | abort
  /-- L0p is requested to x8, on the upper or the lower lanes, or the return to x16 (R577). -/
  | l0p (to8 : Bool) (upper : Bool)
  | snoop (line : Nat) (held : Bool)
  deriving DecidableEq, Repr

/-- The state of the module, and the queue of commands that wait. -/
structure State where
  pending : List Instr := []
  clock : Clock := {}
  beads : Tbl Bead := []
  mmu : Mmu := {}
  fabric : Fabric := {}
  clasps : Clasps := {}
  mem : Memory := {}
  bezels : Tbl Bezel := []
  chain : Chain := {}
  host : HostLink := {}
  mbxs : Tbl Mbx := []
  nutas : Nutas := {}
  ledger : Ledger := {}
  commit : Commit := {}
  faults : FaultLog := {}
  hub : Hub := {}
  asy : Assayer := {}
  standby : Standby := {}
  power : PowerCtl := {}
  sec : Security := {}
  mgmt : Mgmt := {}
  out : List OutMsg := []
  /-- The model's own counter of free values drawn. -/
  free : Nat := 0
  deriving DecidableEq, Repr

/-- The module when 48 V is first applied: every field at its Reset value (R8), the standby partition not yet started.
[DEDUCED: log 3] -/
def State.reset : State := {}

/-- Why a step stops with a fault. [DESIGN CHOICE: log 13] -/
inductive Fault where
  /-- Raised by no meaning: an access outside the address map gets the error response that the spec gives it (R680), and
  the module goes on. Safe: it is never the outcome of a step. -/
  | noSuchPlace
  deriving DecidableEq, Repr

/-- Why a command cannot be run. No meaning answers one: an event that its rule does not let happen does not happen.
[DESIGN CHOICE: log 12] -/
inductive Refusal where
  /-- Raised by exec for a command that has no meaning yet. Safe: nothing is claimed of it. -/
  | notModelled (mnemonic : String)
  deriving DecidableEq, Repr

end Sys2Proof.Machine
end

