-- ==== Sys2Proof/Machine/Places.lean ====
section
/-! DEFINITION. Memory: code-word symbols by address, and the address map of chapter 9. -/

namespace Sys2Proof.Machine

/-- The symbol at a cell address; a cell not listed holds 0. [DESIGN CHOICE: log 18] -/
def cellAt (m : List Host.Cell) (a : Nat) : Byte := tblGet 0 m a

/-- Write one symbol; writing 0 removes the cell. [DESIGN CHOICE: log 18] -/
def cellPut (m : List Host.Cell) (a : Nat) (v : Byte) : List Host.Cell := tblSet 0 m a v

/-- The canonical form: addresses strictly rising, no cell that holds 0. [DESIGN CHOICE: log 18] -/
abbrev Memory.wf (m : Memory) : Prop := tblWf (0 : Byte) m.cells = true

/-- The code word of a granule by its flat number: symbols at 36 times the number. [DESIGN CHOICE: log 18] -/
def codeAt (m : Memory) (g : Nat) : Code :=
  ofSyms ((List.range 36).map fun j => (cellAt m.cells (36 * g + j)).toNat)

/-- Store a code word. [DESIGN CHOICE: log 18] -/
def codePut (m : Memory) (g : Nat) (c : Code) : Memory :=
  { m with cells := upTo 36 (fun cs j => cellPut cs (36 * g + j) (BitVec.ofNat 8 (codeSym c j))) m.cells }

/-- Where a byte lies. -/
inductive Place where
  /-- A stack and its stack-local address (R314, R315). -/
  | stack (z : Nat) (l : Nat)
  /-- A slice, numbered facet x 16 + cluster x 4 + slice, and the offset (R311). -/
  | slice (i : Nat) (off : Nat)
  /-- A bead's data memory (R312). -/
  | dmem (o : Nat) (off : Nat)
  /-- A bead's fragment window (R163). -/
  | frag (o : Nat) (off : Nat)
  /-- A board-tier window and the offset (R328). -/
  | board (w : Nat) (off : Nat)
  /-- A bead's instruction memory, which is no data target (R64). -/
  | imem (o : Nat) (off : Nat)
  | control (off : Nat)
  | reserved
  deriving DecidableEq, Repr

/-- 2^30. -/
def gib : Nat := 1073741824

/-- Placement of a stack address under a SPLIT value (R314, R315). -/
def stackPlace (split a : Nat) : Place :=
  if a < 16 * split * gib then
    .stack (bitsOf a 12 4 ^^^ bitsOf a 16 4 ^^^ bitsOf a 20 4) (a / 65536 * 4096 + a % 4096)
  else
    let b := a - 16 * split * gib
    let q := 2 * (64 - split) * gib
    let f := b / q
    let c := b % q
    .stack (2 * f + b2n (bitOf c 12 != bitOf c 21)) (split * gib + bitsOf c 13 23 * 4096 + c % 4096)

/-- The address map (R310 to R312), with the SPLIT in force. -/
def placeOf (split a : Nat) : Place :=
  if a < 0x10000000000 then stackPlace split a
  else if a < 0x10020000000 then .slice ((a - 0x10000000000) / 0x400000) (a % 0x400000)
  else if 0x20000000000 ≤ a ∧ a < 0x20040000000 then
    let o := (a - 0x20000000000) / 0x100000
    let off := a % 0x100000
    if off < 0xC0000 then .dmem o off else if off < 0xC8000 then .frag o (off - 0xC0000)
    else if 0xE0000 ≤ off then .imem o (off - 0xE0000) else .reserved
  else if 0x100000000000 ≤ a ∧ a < 0x200000000000 then .board ((a - 0x100000000000) / 0x20000000000) (a % 0x20000000000)
  else if 0x7F0000000000 ≤ a ∧ a < 0x7F0001000000 then .control (a - 0x7F0000000000)
  else .reserved

/-- The physical address of a slice byte (R311). -/
def slicePhys (i off : Nat) : Nat := 0x10000000000 + i * 0x400000 + off

/-- The physical address of a bead's memory block (R312). -/
def beadPhys (o off : Nat) : Nat := 0x20000000000 + o * 0x100000 + off

/-- The flat number of a stack granule; reserve frames follow the 64 GiB (R332). -/
def stackGran (z g : Nat) : Nat := z * 4294967296 + g
/-- The flat number of a slice granule. -/
def sliceGran (i g : Nat) : Nat := 0x1000000000 + i * 131072 + g
/-- The flat number of a data-memory granule. -/
def dmemGran (o g : Nat) : Nat := 0x2000000000 + o * 32768 + g

/-- Granules of a stack's 64 GiB. -/
def stackGranules : Nat := 0x80000000

/-- The granule that holds a stack-local frame's granule, through the page-retire table (R332). -/
def redirected (bz : Bezel) (g : Nat) : Nat :=
  match tblGet 0 bz.redirect (g / 128) with
  | 0 => g
  | k + 1 => stackGranules + k * 128 + g % 128

/-- The bezel of a number. -/
def bezelOf (s : State) (z : Nat) : Bezel := tblGet {} s.bezels z

/-- A granule of a stack's relief area, by the granule that it stands for (R731). -/
def reliefGran (z g : Nat) : Nat := 0x3000000000 + z * 4294967296 + g

/-- A stack-local address lies in the channel that the bezel is retraining (R308, R732). -/
def inRetrain (bz : Bezel) (l : Nat) : Bool := bz.retrainPhase != .idle && bitsOf l 8 5 == bz.retrainCh.toNat

/-- The relief area serves reads of the address (R732). -/
def relieved (bz : Bezel) (l : Nat) : Bool := inRetrain bz l && (bz.retrainPhase == .remap || bz.retrainPhase == .return_)

/-- The flat number of the granule that serves a read of a stack-local address (R332, R732). -/
def stackSrc (s : State) (z l : Nat) : Nat :=
  if relieved (bezelOf s z) l then reliefGran z (l / 32) else stackGran z (redirected (bezelOf s z) (l / 32))

/-- The flat number of the granule that a read of a place finds, where the place is memory. -/
def granOfPlace (s : State) (p : Place) : Option Nat :=
  match p with
  | .stack z l => some (stackSrc s z l)
  | .slice i off => some (sliceGran i (off / 32))
  | .dmem o off => some (dmemGran o (off / 32))
  | _ => none

/-- The flat number of the granule at a physical address. -/
def granOfPhys (s : State) (a : Nat) : Option Nat := granOfPlace s (placeOf s.mem.splitNow.toNat a)

/-- Store a code word in the state's memory. -/
def putCode (s : State) (g : Nat) (c : Code) : State := { s with mem := codePut s.mem g c }

/-- Store a code word at a stack-local address: in the channel, in the relief area, or in both (R732). -/
def stackPut (z l : Nat) (c : Code) (s : State) : State :=
  let bz := bezelOf s z
  let s1 := if inRetrain bz l && bz.retrainPhase == .remap then s else putCode s (stackGran z (redirected bz (l / 32))) c
  if relieved bz l || (inRetrain bz l && decide (l / 8192 < bz.copied)) then putCode s1 (reliefGran z (l / 32)) c else s1

/-- The data of the granule at a physical address as a locket read finds it; zero where there is no memory. -/
def readPhys (s : State) (a : Nat) : Gran :=
  match granOfPhys s a with
  | some g => goodData (codeAt s.mem g)
  | none => 0

/-- The granule at a physical address decodes as POISONED or UNCORR, or there is none. -/
def badPhys (s : State) (a : Nat) : Bool :=
  match granOfPhys s a with
  | some g => isBad (codeAt s.mem g)
  | none => true

/-- A whole granule written at a physical address by a producer of R391. -/
def writePhys (s : State) (a : Nat) (d : Gran) : State :=
  match placeOf s.mem.splitNow.toNat a with
  | .stack z l => stackPut z l (encodeGran d) s
  | p =>
    match granOfPlace s p with
    | some g => putCode s g (encodeGran d)
    | none => s

/-- `n` bytes read from a physical address by the locket. -/
def readBytes (s : State) (a n : Nat) : List Byte :=
  let first := a / 32
  let last := (a + n + 31) / 32
  let all := (List.range (last - first)).flatMap fun i => granBytes (readPhys s ((first + i) * 32))
  (all.drop (a % 32)).take n

/-- Bytes written at a physical address that is a multiple of 32; a last granule in part is merged. -/
def writeBytes (s : State) (a : Nat) (l : List Byte) : State :=
  upTo ((l.length + 31) / 32) (fun t i =>
    let part := (l.drop (32 * i)).take 32
    let old := granBytes (readPhys t (a + 32 * i))
    writePhys t (a + 32 * i) (granOf (part ++ old.drop part.length))) s

/-- A number of `n` bytes at a physical address. -/
def readNum (s : State) (a n : Nat) : Nat := ofBytes (readBytes s a n)

/-- A range of physical addresses lies in the stack region. -/
def inStacks (a n : Nat) : Bool := decide (a + n ≤ 0x10000000000)

/-- The cluster that holds a bead ordinal, numbered facet x 4 + cluster. -/
def clusterOf (o : Nat) : Nat := o / 32
/-- The facet of a bead ordinal (R13). -/
def facetOf (o : Nat) : Nat := o / 128
/-- The position index of a bead ordinal as built (R13, R14). -/
def posOfOrd (o : Nat) : Nat := o / 128 * 144 + o % 128 / 8 * 9 + o % 8
/-- The position index of the spare of a position's string. -/
def spareOf (p : Nat) : Nat := p / 9 * 9 + 8
/-- The bead ordinal that a position has as built; none for a spare. -/
def ordOfPos (p : Nat) : Option Nat := if p % 9 = 8 then none else some (p / 144 * 128 + p % 144 / 9 * 8 + p % 9)

/-- The module bank group of a stack-local address (R309). -/
def bankGroup (z l : Nat) : Nat := z * 128 + bitsOf l 8 5 * 4 + bitsOf l 13 2
/-- The bank of a stack-local address within its stack. -/
def bankOf (l : Nat) : Nat := bitsOf l 8 5 * 16 + bitsOf l 13 2 * 4 + bitsOf l 15 2
/-- Row and column of a stack-local address within its bank. [DESIGN CHOICE: log 22] -/
def rowColOf (l : Nat) : Nat := bitsOf l 17 19

end Sys2Proof.Machine
end

