-- ==== Sys2Proof/Machine/Flags.lean ====
section
/-! DEFINITION. Events: counters (chapter 20), the interrupt hub (chapter 19), fault records and trace (chapter 21), and
what leaves the module. -/

namespace Sys2Proof.Machine

/-- Something leaves the module. [DESIGN CHOICE: log 15] -/
def emit (o : OutMsg) (s : State) : State := { s with out := s.out ++ [o] }

/-- Count a draw of a free value. [DESIGN CHOICE: log 19] -/
def drawn (s : State) : State := { s with free := s.free + 1 }

/-- The free value that the next draw gives, under a key that says what it stands for. [DESIGN CHOICE: log 19] -/
def freeNow (s : State) (key : Nat) : Word := Config.freeWord s.free key

/-- The tick whose closing boundary is the first that executes a swap armed now: one armed in the last 64 ck of a tick
waits for the boundary after the next (R27). -/
def armDue (s : State) : Nat := s.clock.tick.toNat + (if 16320 ≤ s.clock.ck then 1 else 0)

/-- During a handover tick the control plane reads nothing and loads nothing (R718). -/
def handing (s : State) : Bool :=
  match s.nutas.handover with
  | .inTick _ | .failed _ => true
  | .none | .waiting _ _ => false

/-- The main domains run (R17, R631). -/
def mainUp (s : State) : Bool := s.standby.mainUp

/-- Counter-block IDs (R659). -/
def blkRouter (r : Nat) : Nat := 0x400 + r
def blkSlice (i : Nat) : Nat := 0x880 + i
def blkXbar (c : Nat) : Nat := 0x900 + c
def blkBezel (z : Nat) : Nat := 0x920 + z
def blkPort (p : Nat) : Nat := 0x930 + p
def blkCxl : Nat := 0x940
def blkLocket : Nat := 0x941

/-- `n` events of a code in a block: every counter of the block with that code adds them (R660).
[DEDUCED: log 63] -/
def countEv (blk code n : Nat) (s : State) : State :=
  if code = 0 then s
  else { s with asy := { s.asy with vals := upTo 8 (fun vs j =>
      if (tblGet 0 s.asy.codes (8 * blk + j)).toNat = code
      then tblMod 0 vs (8 * blk + j) (fun v => v + BitVec.ofNat 48 n) else vs) s.asy.vals } }

/-- Counts taken back from a code's counters (R666). -/
def uncountEv (blk code n : Nat) (s : State) : State := countEv blk code (2 ^ 48 - n % 2 ^ 48) s

/-- The counter code of a checked granule's outcome (R663). -/
def lookCode (l : Look) : Nat :=
  match l with
  | .clean => 0
  | .corr1 => 0xF0
  | .corr2 => 0xF1
  | .uncorr => 0xF2
  | .poisoned => 0xF3

/-- A block checks a granule and counts the outcome (R393, R663). -/
def countLook (blk : Nat) (c : Code) (s : State) : State := countEv blk (lookCode (decodeCode c).1) 1 s

/-- Whether a hub source is assigned (R658). -/
def hubAssigned (src : Nat) : Bool :=
  decide (src ≤ 17) || (decide (64 ≤ src) && decide (src ≤ 138)) || (decide (1024 ≤ src) && decide (src < 2048))

/-- A source as a one-bit mask of the 2,048. -/
def srcBit (src : Nat) : BitVec 2048 := BitVec.ofNat 2048 (2 ^ src)

/-- One event of a source (R643). [DEDUCED: log 81] -/
def hubSet (src : Nat) (s : State) : State :=
  { s with hub := { s.hub with
      pend := s.hub.pend ||| srcBit src
      cnt := tblMod 0 s.hub.cnt src (fun c => satInc c)
      fresh := tblMod 0 s.hub.fresh src (fun c => satInc c) } }

/-- An event of a source reaches the hub from a block, which signals at most one of a source in a ck (R640, R643). The hub runs
with the main domains (R42). [DEDUCED: log 81] -/
def hubRaiseBy (blk src : Nat) (s : State) : State :=
  if mainUp s && hubAssigned src && !s.hub.raised.contains (src, blk) then
    hubSet src { s with hub := { s.hub with raised := (src, blk) :: s.hub.raised } }
  else s

/-- An event of a source that one block raises. [DEDUCED: log 81] -/
def hubRaise (src : Nat) (s : State) : State := hubRaiseBy 0 src s

/-- The pending bit and counter of a source cleared, but for the events of this ck: they come after the clear (R650).
[DEDUCED: log 81] -/
def hubClear (src : Nat) (s : State) : State :=
  let n := tblGet 0 s.hub.fresh src
  { s with hub := { s.hub with
      pend := if n = 0 then s.hub.pend &&& ~~~ srcBit src else s.hub.pend
      cnt := tblSet 0 s.hub.cnt src n } }

/-- A claim takes a source: no other claim of this ck has it (R648, R650). -/
def hubTake (src : Nat) (s : State) : State :=
  hubClear src { s with hub := { s.hub with pendWas := s.hub.pendWas &&& ~~~ srcBit src, cntWas := tblSet 0 s.hub.cntWas src 0 } }

/-- The mask bits of a target (R645). -/
def hubMask (h : Hub) (t : Nat) : BitVec 2048 := tblGet (BitVec.allOnes 2048) h.mask t

/-- The sources eligible for a target (R642). -/
def hubEligible (h : Hub) (t : Nat) : BitVec 2048 := h.pend &&& ~~~ hubMask h t

/-- The targets for which a source is eligible. [DEDUCED: log 81] -/
def hubLines (h : Hub) : BitVec 37 :=
  BitVec.ofNat 37 ((List.range 37).foldl (fun a t => a + (if hubEligible h t = 0 then 0 else 2 ^ t)) 0)

/-- The message of a vector leaves, with the address and data of its entry (R653). -/
def sendMsix (v : Nat) (s : State) : State := emit (.msix v (tblGet 0 s.hub.msixAddr v) (tblGet 0 s.hub.msixData v)) s

/-- A message on an MSI-X vector is requested (R654). -/
def msixRequest (v : Nat) (s : State) : State :=
  if s.hub.msixEn && s.hub.busMaster then
    if s.hub.fmask || bitOf s.hub.vmask.toNat v then
      { s with hub := { s.hub with pba := s.hub.pba ||| BitVec.ofNat 32 (2 ^ v) } }
    else sendMsix v s
  else s

/-- The sources that a claim of a target can take: those eligible before what else happens in its ck (R649, R650).
[DEDUCED: log 81] -/
def claimable (h : Hub) (t : Nat) : BitVec 2048 := h.pendWas &&& ~~~ tblGet (BitVec.allOnes 2048) h.maskWas t

/-- What a claim of a target answers (R648, R652), and the source it takes. [DEDUCED: log 81] -/
def claimValue (h : Hub) (t : Nat) : Word × Option Nat :=
  let e := (claimable h t).toNat
  if e = 0 then (0, none)
  else
    let src := Nat.log2 e
    (BitVec.ofNat 64 (src + (tblGet 0 h.cntWas src).toNat * 65536 + 2 ^ 31), some src)

/-- One ck of the hub: eligibility moves along its four ck, rising host lines and looks after a claim request messages
(R642, R653). [DESIGN CHOICE: log 1; DEDUCED: log 81] -/
def hubTick (s : State) : State :=
  let now := hubLines s.hub
  let line := nth 0 s.hub.elig 0
  let rise := line &&& ~~~ s.hub.line
  let due := (s.hub.after.filter fun p => p.2 == 1 && bitOf line.toNat p.1).map (fun p => p.1 - 4)
  let s1 : State := { s with hub := { s.hub with
    elig := s.hub.elig.drop 1 ++ [now]
    line := line
    after := (s.hub.after.filter fun p => decide (1 < p.2)).map fun p => (p.1, p.2 - 1)
    pendWas := s.hub.pend
    cntWas := s.hub.cnt
    maskWas := s.hub.mask
    fresh := []
    raised := [] } }
  let s2 := upTo 32 (fun t v => if bitOf rise.toNat (v + 4) then msixRequest v t else t) s1
  due.foldl (fun t v => if bitOf rise.toNat (v + 4) then t else msixRequest v t) s2

/-- A record joins those that wait: behind all of earlier ck, and among those of its ck by SOURCE (R686).
[DEDUCED: log 82] -/
def insertRec (r : FaultRec) (l : List FaultRec) : List FaultRec :=
  match l with
  | [] => [r]
  | x :: t => if x.tick = r.tick ∧ x.ck = r.ck ∧ r.source < x.source then r :: x :: t else x :: insertRec r t

/-- A fault record reaches the locket (R685 to R687): it waits, or is dropped when 256 wait. [DEDUCED: log 82] -/
def recordFault (r : FaultRec) (s : State) : State :=
  let r' : FaultRec := { r with tick := s.clock.tick, ck := BitVec.ofNat 14 s.clock.ck, inReplay := s.clock.replay }
  if s.faults.waiting.length < 256 then
    { s with
      faults := { s.faults with waiting := insertRec r' s.faults.waiting }
      ledger := { s.ledger with cur := { s.ledger.cur with fcount := satInc s.ledger.cur.fcount } } }
  else { s with faults := { s.faults with dropped := satInc s.faults.dropped, gap := true } }

/-- A record without an address. -/
def recordAt (cls source : Nat) (detail : Nat) (s : State) : State :=
  recordFault { cls := BitVec.ofNat 8 cls, source := BitVec.ofNat 12 source, detail := BitVec.ofNat 64 detail } s

/-- A record with an address. -/
def recordAddr (cls source addr : Nat) (detail : Nat) (s : State) : State :=
  recordFault { cls := BitVec.ofNat 8 cls, source := BitVec.ofNat 12 source, addrV := true, addr := BitVec.ofNat 48 addr,
                detail := BitVec.ofNat 64 detail } s

/-- A record with an address, and with what its rule has recorded besides (R519, R526). [DEDUCED: log 43] -/
def recordMore (cls source addr : Nat) (detail : Nat) (more : List Word) (s : State) : State :=
  recordFault { cls := BitVec.ofNat 8 cls, source := BitVec.ofNat 12 source, addrV := true, addr := BitVec.ofNat 48 addr,
                detail := BitVec.ofNat 64 detail, more := more } s

/-- A fault whose class ends scheduled service (R31, R684): the module leaves at the boundary that R31 gives.
[DEDUCED: log 66] -/
def endService (cls : Nat) (s : State) : State :=
  if s.clock.mode = .scheduled ∧ !s.clock.leaving then
    { s with clock := { s.clock with leaving := true, endFault := true, endClass := BitVec.ofNat 8 cls } }
  else s

/-- The bytes of a fault record (R685). -/
def faultBytes (r : FaultRec) : List Byte :=
  toBytes 4 r.seq.toNat ++ toBytes 6 r.tick.toNat ++ toBytes 2 r.ck.toNat ++ [r.cls] ++
  toBytes 1 (b2n r.addrV + 2 * b2n r.prior + 4 * b2n r.recovered + 8 * b2n r.lost + 16 * b2n r.inReplay + 32 * b2n r.gap) ++
  toBytes 2 (r.source.toNat + 4096 * r.module.toNat) ++ toBytes 6 r.addr.toNat ++ [0, 0] ++ toBytes 8 r.detail.toNat

/-- The bytes of a ledger record (R701). -/
def ledgerBytes (r : LedgerRec) : List Byte :=
  toBytes 6 r.tick.toNat ++
  toBytes 1 (r.kind.toNat + 4 * b2n r.overrun + 8 * b2n r.retired + 16 * b2n r.peerHold + 32 * b2n r.ended) ++
  toBytes 1 (r.pslot.toNat + 4 * r.pass.toNat) ++ toBytes 6 r.workTick.toNat ++ toBytes 2 r.iswap.toNat ++
  toBytes 4 r.step.toNat ++ toBytes 4 r.sched.toNat ++ toBytes 4 r.mbatch.toNat ++ toBytes 4 r.setting.toNat ++
  toBytes 4 r.settingId.toNat ++ toBytes 4 r.tsSwap.toNat ++ toBytes 4 r.viewSwap.toNat ++ toBytes 4 r.flips.toNat ++
  toBytes 8 r.hmap.toNat ++ toBytes 4 r.fseq.toNat ++ toBytes 2 r.fcount.toNat ++ toBytes 2 r.split.toNat

/-- An item enters the trace (R703, R704): it waits in a buffer of 64, and beyond that it is dropped. -/
def traceItem (i : TraceItem) (s : State) : State :=
  if s.ledger.traceEn then
    if s.ledger.traceBuf.length < 64 then
      { s with ledger := { s.ledger with traceBuf := s.ledger.traceBuf ++ [i] } }
    else { s with ledger := { s.ledger with lost := satInc s.ledger.lost, drops := satInc s.ledger.drops } }
  else s

/-- Records that a master has not acknowledged (R618, R688). -/
def unacked (f : FaultLog) (idx : Word32) : Nat := (f.nextSeq - idx).toNat

/-- A master's count of unacknowledged records has reached HIWAT. [DEDUCED: log 81] -/
def atHiwat (f : FaultLog) (idx : Word32) : Bool :=
  decide (f.hiwat ≠ 0) && decide (f.hiwat.toNat ≤ unacked f idx)

/-- Source 137 when either count reaches HIWAT; a count raises it again once it has been below (R688).
[DEDUCED: log 81] -/
def highWater (s : State) : State :=
  let h := atHiwat s.faults s.faults.idxHost
  let m := atHiwat s.faults s.faults.idxMgt
  let s' : State := { s with faults := { s.faults with aboveHost := h, aboveMgt := m } }
  if (h && !s.faults.aboveHost) || (m && !s.faults.aboveMgt) then hubRaise 137 s' else s'

/-- The oldest waiting record is written into the ring of 4,096 (R686, R687, R618). [DEDUCED: log 82] -/
def writeRecord (s : State) : State :=
  match s.faults.waiting with
  | [] => s
  | r :: rest =>
    let f := s.faults
    let r' : FaultRec := { r with seq := f.nextSeq, gap := f.gap }
    let ring := f.ring ++ [r']
    let full := decide (4096 < ring.length)
    let oldest := f.nextSeq - 4095
    let hitH := full && decide (4096 < (f.nextSeq + 1 - f.idxHost).toNat)
    let hitM := full && decide (4096 < (f.nextSeq + 1 - f.idxMgt).toNat)
    let f' : FaultLog := { f with
      ring := if full then ring.drop 1 else ring
      nextSeq := f.nextSeq + 1
      waiting := rest
      gap := false
      idxHost := if hitH then oldest else f.idxHost
      overHost := if hitH then satInc f.overHost else f.overHost
      idxMgt := if hitM then oldest else f.idxMgt
      overMgt := if hitM then satInc f.overMgt else f.overMgt }
    traceItem (.fault r') (countEv blkLocket 0x08 1 (highWater { s with faults := f' }))

/-- Every waiting record is written before the main domains ramp down (R687). -/
def writeAllRecords (s : State) : State :=
  upTo s.faults.waiting.length (fun t _ => writeRecord t) s

end Sys2Proof.Machine
end

