-- ==== Sys2Proof/Machine/Insn.lean ====
section
/-! DEFINITION. The words a hart fetches: RV64IMFAC with Zicsr and Zifencei (encodings of the RISC-V manuals, which R45
names) and Xmacel (chapter 3). -/

namespace Sys2Proof.Machine

/-- A decoded instruction of a hart. -/
inductive Insn where
  | illegal
  | lui (rd : Fin 32) (imm : Word)
  | auipc (rd : Fin 32) (imm : Word)
  | jal (rd : Fin 32) (imm : Word)
  | jalr (rd rs1 : Fin 32) (imm : Word)
  | branch (f3 : Nat) (rs1 rs2 : Fin 32) (imm : Word)
  /-- A load of 2^(f3 mod 4) bytes, zero-extended when f3 is 4 or more; `fp` for FLW. -/
  | load (f3 : Nat) (fp : Bool) (rd rs1 : Fin 32) (imm : Word)
  | store (f3 : Nat) (fp : Bool) (rs1 rs2 : Fin 32) (imm : Word)
  | opImm (f3 : Nat) (alt : Bool) (w : Bool) (rd rs1 : Fin 32) (imm : Word)
  | op (f3 : Nat) (f7 : Nat) (w : Bool) (rd rs1 rs2 : Fin 32)
  /-- LR (f5 = 2), SC (3) or an AMO; `dbl` for 8 bytes. -/
  | amo (f5 : Nat) (dbl : Bool) (rd rs1 rs2 : Fin 32)
  | fence (pred : Nat)
  | fenceI
  | csr (f3 : Nat) (rd rs1 : Fin 32) (num : Nat)
  | ecall
  | ebreak
  | mret
  | wfi
  | fma (neg sub : Bool) (rd rs1 rs2 rs3 : Fin 32) (rm : Nat)
  | fop (f5 : Nat) (rs2f : Fin 32) (rm : Nat) (rd rs1 : Fin 32)
  | x (i : XInsn)
  deriving DecidableEq, Repr

/-- A register number from five bits of a word. -/
def reg5 (w lo : Nat) : Fin 32 := Fin.ofNat 32 (w / 2 ^ lo)
/-- A tile-register number from four bits. -/
def reg4 (w lo : Nat) : Fin 16 := Fin.ofNat 16 (w / 2 ^ lo)
/-- An accumulator index from two bits. -/
def reg2 (w lo : Nat) : Fin 4 := Fin.ofNat 4 (w / 2 ^ lo)
/-- A three-bit number. -/
def reg3 (w lo : Nat) : Fin 8 := Fin.ofNat 8 (w / 2 ^ lo)

/-- `n` bits sign-extended to 64. -/
def sextBits (n v : Nat) : Word :=
  BitVec.ofNat 64 (v % 2 ^ n + (if bitOf v (n - 1) then 2 ^ 64 - 2 ^ n else 0))

def immI (w : Nat) : Word := sextBits 12 (bitsOf w 20 12)
def immS (w : Nat) : Word := sextBits 12 (bitsOf w 25 7 * 32 + bitsOf w 7 5)
def immB (w : Nat) : Word :=
  sextBits 13 (bitsOf w 31 1 * 4096 + bitsOf w 7 1 * 2048 + bitsOf w 25 6 * 32 + bitsOf w 8 4 * 2)
def immU (w : Nat) : Word := sextBits 32 (bitsOf w 12 20 * 4096)
def immJ (w : Nat) : Word :=
  sextBits 21 (bitsOf w 31 1 * 1048576 + bitsOf w 12 8 * 4096 + bitsOf w 20 1 * 2048 + bitsOf w 21 10 * 2)

/-- The custom-0 group (R101 to R103). -/
def decodeMatrix (w : Nat) : Insn :=
  match bitsOf w 12 3 with
  | 0 | 1 =>
    if bitsOf w 15 4 ≠ 0 ∨ bitsOf w 7 5 ≠ 0 ∨ (bitOf w 23 ∧ bitOf w 27) then .illegal
    else .x (.mm (bitsOf w 12 3 == 1) (reg4 w 28) (reg4 w 24) (bitOf w 23) (reg2 w 21) (bitOf w 20) (bitOf w 19))
  | 2 =>
    if bitsOf w 7 3 ≠ 0 ∨ (bitOf w 19 ∧ bitOf w 23) then .illegal
    else .x (.mmab (reg4 w 28) (reg4 w 24) (reg4 w 20) (bitOf w 19) (reg2 w 17) (reg2 w 15) (bitOf w 11) (bitOf w 10))
  | 3 =>
    if bitOf w 11 ∧ bitOf w 23 then .illegal
    else .x (.mmbwd (reg4 w 28) (reg4 w 24) (reg4 w 20) (reg5 w 15) (bitOf w 11) (reg2 w 9) (bitOf w 8) (bitOf w 7))
  | _ => .illegal

/-- The custom-1 group (R106, R107). -/
def decodeTile (w : Nat) : Insn :=
  let f7 := bitsOf w 25 7
  let rs2 := reg5 w 20
  let rs1 := reg5 w 15
  let t := reg4 w 7
  let low := bitsOf w 7 5
  match bitsOf w 12 3 with
  | 0 => if (f7 = 0 ∨ f7 = 2) ∧ low < 16 then .x (.tld t rs1 rs2 (f7 == 2)) else .illegal
  | 1 => if f7 = 0 ∧ low < 16 then .x (.tst t rs1 rs2) else .illegal
  | 2 => if f7 = 0 ∧ low < 8 ∧ rs2 = 0 then .x (.strGo (reg3 w 7) rs1) else .illegal
  | 3 => if f7 = 0 ∧ low < 8 ∧ rs2 = 0 ∧ rs1 = 0 then .x (.strStop (reg3 w 7)) else .illegal
  | 4 => if f7 = 0 ∧ low = 0 then .x (.dtFill rs1 rs2) else .illegal
  | 5 => if f7 < 8 ∧ low = 0 then .x (.dtWr (reg3 w 25) rs1 rs2) else .illegal
  | 6 => if f7 < 8 ∧ rs2 = 0 then .x (.dtRd (reg3 w 25) rs1 (reg5 w 7)) else .illegal
  | _ =>
    if low ≠ 0 then .illegal
    else if f7 = 0 ∧ rs2 = 0 then .x (.trel rs1)
    else if f7 = 1 then .x (.l1Inv rs1 rs2)
    else if f7 = 2 ∧ rs1 = 0 ∧ rs2 = 0 then .x .l1InvA
    else .illegal

/-- The custom-2 group (R117). -/
def decodeDrain (w : Nat) : Insn :=
  let mem := bitOf w 26
  if !mem && bitOf w 24 then .illegal
  else
    match bitsOf w 12 3 with
    | 0 => .x (.drAct (reg5 w 27) mem (bitOf w 25) (reg5 w 20) (reg5 w 15) (bitOf w 11) (reg2 w 9) (bitOf w 8) (bitOf w 7))
    | 1 => .x (.drDact (reg5 w 27) mem (bitOf w 25) (reg5 w 20) (reg5 w 15) (bitOf w 11) (reg2 w 9) (bitOf w 8) (bitOf w 7))
    | 2 =>
      if bitsOf w 27 5 ≠ 0 ∨ bitsOf w 7 2 ≠ 0 then .illegal
      else .x (.drStat mem (bitOf w 25) (reg5 w 20) (reg5 w 15) (bitOf w 11) (bitOf w 10) (bitOf w 9))
    | _ => .illegal

/-- The custom-3 group (R123, R125, R130). -/
def decodeSync (w : Nat) : Insn :=
  let rs1 := reg5 w 15
  let rs2 := reg5 w 20
  let f3 := bitsOf w 12 3
  if bitsOf w 7 5 ≠ 0 then .illegal
  else if f3 = 0 then
    if bitsOf w 25 7 ≠ 0 ∨ bitsOf w 15 5 ≠ 0 then .illegal
    else .x (.qbar (BitVec.ofNat 4 (bitsOf w 20 4)) (bitOf w 24))
  else if f3 ≤ 3 then
    if bitsOf w 25 7 ≠ 0 then .illegal
    else if f3 = 1 then .x (.claspSig rs1 rs2) else if f3 = 2 then .x (.claspWait rs1 rs2) else .x (.claspTake rs1 rs2)
  else if bitsOf w 25 2 ≠ 0 ∨ f3 = 7 then .illegal
  else if f3 = 4 then .x (.chWr rs1 rs2 (reg5 w 27))
  else if f3 = 5 then .x (.chRd rs1 rs2 (reg5 w 27))
  else .x (.chAcc rs1 rs2 (reg5 w 27))

/-- The OP-FP words of the F extension. -/
def decodeFp (w : Nat) : Insn :=
  let f5 := bitsOf w 27 5
  let rm := bitsOf w 12 3
  let rs2 := bitsOf w 20 5
  let ok :=
    if bitsOf w 25 2 ≠ 0 then false
    else match f5 with
      | 0 | 1 | 2 | 3 => true
      | 0x0B => rs2 == 0
      | 4 => decide (rm < 3)
      | 5 => decide (rm < 2)
      | 0x14 => decide (rm < 3)
      | 0x18 | 0x1A => decide (rs2 < 4)
      | 0x1C => rs2 == 0 && decide (rm < 2)
      | 0x1E => rs2 == 0 && rm == 0
      | _ => false
  if ok then .fop f5 (reg5 w 20) rm (reg5 w 7) (reg5 w 15) else .illegal

/-- SYSTEM words: environment, return, wait and CSR access. -/
def decodeSystem (w : Nat) : Insn :=
  let f3 := bitsOf w 12 3
  if f3 = 0 then
    if w = 0x00000073 then .ecall
    else if w = 0x00100073 then .ebreak
    else if w = 0x30200073 then .mret
    else if w = 0x10500073 then .wfi
    else .illegal
  else if f3 = 4 then .illegal
  else .csr f3 (reg5 w 7) (reg5 w 15) (bitsOf w 20 12)

/-- Decode a 32-bit word. [PRESUMED: log 26] -/
def decode32 (w : Nat) : Insn :=
  let rd := reg5 w 7
  let rs1 := reg5 w 15
  let rs2 := reg5 w 20
  let f3 := bitsOf w 12 3
  let f7 := bitsOf w 25 7
  match bitsOf w 0 7 with
  | 0x37 => .lui rd (immU w)
  | 0x17 => .auipc rd (immU w)
  | 0x6F => .jal rd (immJ w)
  | 0x67 => if f3 = 0 then .jalr rd rs1 (immI w) else .illegal
  | 0x63 => if f3 = 2 ∨ f3 = 3 then .illegal else .branch f3 rs1 rs2 (immB w)
  | 0x03 => if f3 = 7 then .illegal else .load f3 false rd rs1 (immI w)
  | 0x07 => if f3 = 2 then .load 2 true rd rs1 (immI w) else .illegal
  | 0x23 => if f3 < 4 then .store f3 false rs1 rs2 (immS w) else .illegal
  | 0x27 => if f3 = 2 then .store 2 true rs1 rs2 (immS w) else .illegal
  | 0x13 =>
    if f3 = 1 then (if bitsOf w 26 6 = 0 then .opImm 1 false false rd rs1 (BitVec.ofNat 64 (bitsOf w 20 6)) else .illegal)
    else if f3 = 5 then
      (if bitsOf w 26 6 = 0 then .opImm 5 false false rd rs1 (BitVec.ofNat 64 (bitsOf w 20 6))
       else if bitsOf w 26 6 = 16 then .opImm 5 true false rd rs1 (BitVec.ofNat 64 (bitsOf w 20 6)) else .illegal)
    else .opImm f3 false false rd rs1 (immI w)
  | 0x1B =>
    if f3 = 0 then .opImm 0 false true rd rs1 (immI w)
    else if f3 = 1 ∧ f7 = 0 then .opImm 1 false true rd rs1 (BitVec.ofNat 64 (bitsOf w 20 5))
    else if f3 = 5 ∧ f7 = 0 then .opImm 5 false true rd rs1 (BitVec.ofNat 64 (bitsOf w 20 5))
    else if f3 = 5 ∧ f7 = 32 then .opImm 5 true true rd rs1 (BitVec.ofNat 64 (bitsOf w 20 5))
    else .illegal
  | 0x33 =>
    if f7 = 0 ∨ f7 = 1 ∨ (f7 = 32 ∧ (f3 = 0 ∨ f3 = 5)) then .op f3 f7 false rd rs1 rs2 else .illegal
  | 0x3B =>
    if (f7 = 0 ∧ (f3 = 0 ∨ f3 = 1 ∨ f3 = 5)) ∨ (f7 = 32 ∧ (f3 = 0 ∨ f3 = 5)) ∨ (f7 = 1 ∧ (f3 = 0 ∨ 4 ≤ f3))
    then .op f3 f7 true rd rs1 rs2 else .illegal
  | 0x2F =>
    let f5 := bitsOf w 27 5
    if (f3 = 2 ∨ f3 = 3) ∧ (f5 % 4 = 0 ∨ f5 = 1 ∨ f5 = 3 ∨ (f5 = 2 ∧ rs2 = 0)) ∧ (f5 = 1 ∨ f5 = 2 ∨ f5 = 3 ∨ f5 % 4 = 0)
    then .amo f5 (f3 == 3) rd rs1 rs2 else .illegal
  | 0x0F =>
    if f3 = 0 then .fence (bitsOf w 24 4) else if f3 = 1 then .fenceI else .illegal
  | 0x73 => decodeSystem w
  | 0x43 => if bitsOf w 25 2 = 0 then .fma false false rd rs1 rs2 (reg5 w 27) f3 else .illegal
  | 0x47 => if bitsOf w 25 2 = 0 then .fma false true rd rs1 rs2 (reg5 w 27) f3 else .illegal
  | 0x4B => if bitsOf w 25 2 = 0 then .fma true true rd rs1 rs2 (reg5 w 27) f3 else .illegal
  | 0x4F => if bitsOf w 25 2 = 0 then .fma true false rd rs1 rs2 (reg5 w 27) f3 else .illegal
  | 0x53 => decodeFp w
  | 0x0B => decodeMatrix w
  | 0x2B => decodeTile w
  | 0x5B => decodeDrain w
  | 0x7B => decodeSync w
  | _ => .illegal

/-- A register of the compressed forms' three-bit fields. -/
def creg (h lo : Nat) : Fin 32 := Fin.ofNat 32 (8 + bitsOf h lo 3)

/-- Quadrant 0 of the compressed words. [PRESUMED: log 26] -/
def decodeC0 (h : Nat) : Insn :=
  let rd := creg h 2
  let rs1 := creg h 7
  let w4 := bitsOf h 10 3 * 8 + bitsOf h 6 1 * 4 + bitsOf h 5 1 * 64
  let d8 := bitsOf h 10 3 * 8 + bitsOf h 5 2 * 64
  match bitsOf h 13 3 with
  | 0 =>
    let imm := bitsOf h 11 2 * 16 + bitsOf h 7 4 * 64 + bitsOf h 6 1 * 4 + bitsOf h 5 1 * 8
    if imm = 0 then .illegal else .opImm 0 false false rd 2 (BitVec.ofNat 64 imm)
  | 2 => .load 2 false rd rs1 (BitVec.ofNat 64 w4)
  | 3 => .load 3 false rd rs1 (BitVec.ofNat 64 d8)
  | 6 => .store 2 false rs1 rd (BitVec.ofNat 64 w4)
  | 7 => .store 3 false rs1 rd (BitVec.ofNat 64 d8)
  | _ => .illegal

/-- Quadrant 1 of the compressed words. [PRESUMED: log 26] -/
def decodeC1 (h : Nat) : Insn :=
  let rd := reg5 h 7
  let imm6 := sextBits 6 (bitsOf h 12 1 * 32 + bitsOf h 2 5)
  let sh := bitsOf h 12 1 * 32 + bitsOf h 2 5
  let r := creg h 7
  match bitsOf h 13 3 with
  | 0 => .opImm 0 false false rd rd imm6
  | 1 => if rd = 0 then .illegal else .opImm 0 false true rd rd imm6
  | 2 => .opImm 0 false false rd 0 imm6
  | 3 =>
    if rd = 2 then
      let v := bitsOf h 12 1 * 512 + bitsOf h 3 2 * 128 + bitsOf h 5 1 * 64 + bitsOf h 2 1 * 32 + bitsOf h 6 1 * 16
      if v = 0 then .illegal else .opImm 0 false false 2 2 (sextBits 10 v)
    else if sh = 0 then .illegal
    else .lui rd (imm6 <<< 12)
  | 4 =>
    match bitsOf h 10 2 with
    | 0 => .opImm 5 false false r r (BitVec.ofNat 64 sh)
    | 1 => .opImm 5 true false r r (BitVec.ofNat 64 sh)
    | 2 => .opImm 7 false false r r imm6
    | _ =>
      match bitsOf h 12 1 * 4 + bitsOf h 5 2 with
      | 0 => .op 0 32 false r r (creg h 2)
      | 1 => .op 4 0 false r r (creg h 2)
      | 2 => .op 6 0 false r r (creg h 2)
      | 3 => .op 7 0 false r r (creg h 2)
      | 4 => .op 0 32 true r r (creg h 2)
      | 5 => .op 0 0 true r r (creg h 2)
      | _ => .illegal
  | 5 =>
    .jal 0 (sextBits 12 (bitsOf h 12 1 * 2048 + bitsOf h 8 1 * 1024 + bitsOf h 9 2 * 256 + bitsOf h 6 1 * 128 +
      bitsOf h 7 1 * 64 + bitsOf h 2 1 * 32 + bitsOf h 11 1 * 16 + bitsOf h 3 3 * 2))
  | k =>
    .branch (k - 6) r 0 (sextBits 9 (bitsOf h 12 1 * 256 + bitsOf h 5 2 * 64 + bitsOf h 2 1 * 32 + bitsOf h 10 2 * 8 +
      bitsOf h 3 2 * 2))

/-- Quadrant 2 of the compressed words. [PRESUMED: log 26] -/
def decodeC2 (h : Nat) : Insn :=
  let rd := reg5 h 7
  let rs2 := reg5 h 2
  let sh := bitsOf h 12 1 * 32 + bitsOf h 2 5
  match bitsOf h 13 3 with
  | 0 => .opImm 1 false false rd rd (BitVec.ofNat 64 sh)
  | 2 =>
    if rd = 0 then .illegal
    else .load 2 false rd 2 (BitVec.ofNat 64 (bitsOf h 12 1 * 32 + bitsOf h 4 3 * 4 + bitsOf h 2 2 * 64))
  | 3 =>
    if rd = 0 then .illegal
    else .load 3 false rd 2 (BitVec.ofNat 64 (bitsOf h 12 1 * 32 + bitsOf h 5 2 * 8 + bitsOf h 2 3 * 64))
  | 4 =>
    if bitOf h 12 then
      if rs2 = 0 then (if rd = 0 then .ebreak else .jalr 1 rd 0) else .op 0 0 false rd rd rs2
    else
      if rs2 = 0 then (if rd = 0 then .illegal else .jalr 0 rd 0) else .op 0 0 false rd 0 rs2
  | 6 => .store 2 false 2 rs2 (BitVec.ofNat 64 (bitsOf h 9 4 * 4 + bitsOf h 7 2 * 64))
  | 7 => .store 3 false 2 rs2 (BitVec.ofNat 64 (bitsOf h 10 3 * 8 + bitsOf h 7 3 * 64))
  | _ => .illegal

/-- What a fetch gives: the instruction, its word as fetched and its length in bytes. -/
structure Fetched where
  insn : Insn
  word : Word32
  len : Nat
  deriving DecidableEq, Repr

/-- Fetch and decode at an offset of an instruction-memory bank; offsets above 0xFFFF give nothing (R64). -/
def fetchAt (b : IBank) (pc : Nat) : Option Fetched :=
  let byte (i : Nat) : Nat := (tblGet 0 b.code (pc + i)).toNat
  if 0xFFFF < pc + 1 then none
  else
    let h := byte 0 + 256 * byte 1
    match h % 4 with
    | 0 => some ⟨decodeC0 h, BitVec.ofNat 32 h, 2⟩
    | 1 => some ⟨decodeC1 h, BitVec.ofNat 32 h, 2⟩
    | 2 => some ⟨decodeC2 h, BitVec.ofNat 32 h, 2⟩
    | _ =>
      if 0xFFFF < pc + 3 then none
      else
        let w := h + 65536 * byte 2 + 16777216 * byte 3
        some ⟨decode32 w, BitVec.ofNat 32 w, 4⟩

end Sys2Proof.Machine
end

