-- ==== Sys2Proof/Machine/Ops.lean ====
section
/-! DEFINITION. Operations on beads and harts that the meanings share: access to a bead's parts, positions, taking a
trap and returning from it, and the form of every meaning: its event happens or nothing does. -/

namespace Sys2Proof.Machine

/-- A meaning: where the rule lets its event happen, its effect; elsewhere the event does not happen, and the machine stays as
it is. [DESIGN CHOICE: log 12] -/
def whenOk (s : State) (ok : Bool) (t : State) : Host.Outcome State Fault Refusal := .next (if ok then t else s)

def beadOf (s : State) (o : Nat) : Bead := tblGet {} s.beads o
def setBead (o : Nat) (b : Bead) (s : State) : State := { s with beads := tblSet {} s.beads o b }
def modBead (o : Nat) (f : Bead → Bead) (s : State) : State := setBead o (f (beadOf s o)) s

def hartOf (b : Bead) (h : Nat) : Hart := tblGet {} b.harts h
def setHart (h : Nat) (t : Hart) (b : Bead) : Bead := { b with harts := tblSet {} b.harts h t }
def modHart (h : Nat) (f : Hart → Hart) (b : Bead) : Bead := setHart h (f (hartOf b h)) b

def queueOf (b : Bead) (q : Nat) : Queue := tblGet {} b.queues q
def setQueue (q : Nat) (v : Queue) (b : Bead) : Bead := { b with queues := tblSet {} b.queues q v }
def modQueue (q : Nat) (f : Queue → Queue) (b : Bead) : Bead := setQueue q (f (queueOf b q)) b

def tileOf (b : Bead) (t : Nat) : Tile := tblGet {} b.tiles t
/-- Weights read from a tile register that is written since their load (R188). -/
def soil (t : Nat) (w : Weights) : Weights := if w.tile = t then { w with dirty := true } else w
/-- A tile register replaced; weights loaded from it are no longer the register's. -/
def setTile (t : Nat) (v : Tile) (b : Bead) : Bead :=
  { b with
    tiles := tblSet {} b.tiles t v
    arrs := b.arrs.map fun p => (p.1, { p.2 with active := p.2.active.map (soil t), standby := p.2.standby.map (soil t) }) }
def modTile (t : Nat) (f : Tile → Tile) (b : Bead) : Bead := setTile t (f (tileOf b t)) b

/-- Accumulator `i` of array A (`arr` false) or B: keys 0 to 3 and 4 to 7. -/
def accKey (arr : Bool) (i : Nat) : Nat := i + 4 * b2n arr
def accOf (b : Bead) (k : Nat) : Acc := tblGet {} b.accs k
def setAcc (k : Nat) (v : Acc) (b : Bead) : Bead := { b with accs := tblSet {} b.accs k v }

def arrayOf (b : Bead) (a : Nat) : Array := tblGet {} b.arrs a
def setArray (a : Nat) (v : Array) (b : Bead) : Bead := { b with arrs := tblSet {} b.arrs a v }
def modArray (a : Nat) (f : Array → Array) (b : Bead) : Bead := setArray a (f (arrayOf b a)) b

def drainOf (b : Bead) (a : Nat) : Drain := tblGet {} b.drains a
def setDrain (a : Nat) (v : Drain) (b : Bead) : Bead := { b with drains := tblSet {} b.drains a v }
def modDrain (a : Nat) (f : Drain → Drain) (b : Bead) : Bead := setDrain a (f (drainOf b a)) b

def strandOf (b : Bead) (n : Nat) : Strand := tblGet {} b.strands n
def setStrand (n : Nat) (v : Strand) (b : Bead) : Bead := { b with strands := tblSet {} b.strands n v }
def modStrand (n : Nat) (f : Strand → Strand) (b : Bead) : Bead := setStrand n (f (strandOf b n)) b

/-- A scalar register; x0 reads as zero (R45). -/
def xReg (t : Hart) (r : Fin 32) : Word := if r = 0 then 0 else tblGet 0 t.x r.val
/-- A scalar register written; x0 discards. -/
def setX (r : Fin 32) (v : Word) (t : Hart) : Hart := if r = 0 then t else { t with x := tblSet 0 t.x r.val v }
def fReg (t : Hart) (r : Fin 32) : Word32 := tblGet 0 t.f r.val
def setF (r : Fin 32) (v : Word32) (t : Hart) : Hart := { t with f := tblSet 0 t.f r.val v }

/-- The state code of a position as built: express, ordinary, spare, or fused in a partial grade's string 15 (R1, R88).
[DESIGN CHOICE: log 8] -/
def builtState (s : State) (p : Nat) : Nat :=
  if s.standby.grade960 ∧ p % 144 / 9 = 15 then 7
  else if p % 9 = 0 then 0
  else if p % 9 = 8 then 2
  else 1

/-- The state code of a position (R88). -/
def posState (s : State) (p : Nat) : Nat :=
  match tblGet none s.nutas.pos p with
  | some c => c.toNat
  | none => builtState s p

def setPos (p c : Nat) (s : State) : State :=
  { s with nutas := { s.nutas with pos := tblPut s.nutas.pos p (some (BitVec.ofNat 4 c)) } }

/-- Whether a bead answers an ordinal: its position is active, or a spare serves it (R15, R89). -/
def ordLive (s : State) (o : Nat) : Bool :=
  let c := posState s (posOfOrd o)
  decide (o < 1024) && (c == 0 || c == 1 || c == 4)

/-- Whether the bead of an ordinal is an express bead (R84, R86). -/
def ordExpress (s : State) (o : Nat) : Bool := posState s (posOfOrd o) == 0

/-- The bead of an ordinal can act: the main domains run, it answers, and no bead fault has stopped it. -/
def beadRuns (s : State) (o : Nat) : Bool := mainUp s && ordLive s o && !(beadOf s o).stopped

/-- The bead, and the module, are in a hold tick, in which no bead starts new work (R34). -/
def holding (s : State) : Bool := s.clock.hold

/-- The ck since the tick counter's start. -/
def absCk (s : State) : Nat := s.clock.tick.toNat * 16384 + s.clock.ck

/-- A queue of the bead is stopped: QFIP is pending (R134). [PRESUMED: log 27] -/
def qfip (b : Bead) : Bool := (List.range 4).any fun q => (queueOf b q).stop

/-- Bits of mstatus. -/
def mieBit (m : Word) : Bool := bitOf m.toNat 3

/-- A hart takes a trap into the monitor (R46): mepc, mcause and mtval take the pc, the cause and the value; MPIE takes
MIE, MIE falls, MPP takes the mode, the mode becomes M, and the pc goes to mtvec, plus four times the cause for an
interrupt when mtvec's mode is 1. A held instruction has not taken effect and its hold is given up (R808).
[PRESUMED: log 26] -/
def takeTrap (interrupt : Bool) (cause : Nat) (tval : Word) (t : Hart) : Hart :=
  let base := t.mtvec &&& ~~~ (3#64)
  let off : Nat := if interrupt ∧ t.mtvec.toNat % 4 = 1 then 4 * cause else 0
  { t with
    mepc := t.pc
    mcause := BitVec.ofNat 64 (cause + (if interrupt then 2 ^ 63 else 0))
    mtval := tval
    mstatus := (if mieBit t.mstatus then 0x80#64 else 0) ||| (if t.userMode then 0 else 0x1800#64)
    userMode := false
    pc := base + BitVec.ofNat 64 off
    hold := .none
    run := .running }

/-- A slice SC or AMO of the hart has left: it may have taken effect, so the hart takes no interrupt before its answer (R48,
R808). [DESIGN CHOICE: log 85] -/
def atomicOut (b : Bead) (h : Nat) : Bool :=
  match (hartOf b h).hold with
  | .load id => b.reqs.any fun r => r.id == id && r.st == .issued && r.kind == .atomic && nth 0 r.mask 0 != 2
  | _ => false

/-- The request that holds a hart is given up where it has not left: its instruction has not taken effect (R808). -/
def giveUp (h : Nat) (b : Bead) : Bead :=
  match (hartOf b h).hold with
  | .load id => { b with reqs := b.reqs.filter fun r => r.id != id || r.st == .issued }
  | _ => b

/-- MRET: the pc returns to mepc, MIE takes MPIE, MPIE is set, the mode becomes MPP and MPP becomes U.
[PRESUMED: log 26] -/
def trapReturn (t : Hart) : Hart :=
  { t with
    pc := t.mepc
    userMode := decide (bitsOf t.mstatus.toNat 11 2 ≠ 3)
    mstatus := (if bitOf t.mstatus.toNat 7 then 0x8#64 else 0) ||| 0x80#64 }

/-- The hart goes on behind an instruction of `len` bytes. -/
def advance (len : Nat) (t : Hart) : Hart := { t with pc := t.pc + BitVec.ofNat 64 len, hold := .none }

/-- Whether what holds a hart lets the held instruction be tried again: a wait that the instruction itself looks at. -/
def retryHold (h : HoldBy) : Bool :=
  match h with
  | .none | .queue | .trel _ | .window | .fence => true
  | .qbar _ | .load _ => false

/-- The low 48 bits of an address register: a device address (R47). [DEDUCED: log 29] -/
def devAddr (v : Word) : Nat := v.toNat % 2 ^ 48

/-- The device address of a bead's own data memory. -/
def ownBase (o : Nat) : Nat := beadPhys o 0

/-- A device address lies in the bead's own data memory (R312). -/
def inOwnDmem (o a : Nat) : Bool := decide (ownBase o ≤ a) && decide (a < ownBase o + 0xC0000)
/-- A device address lies in the bead's own fragment window (R163). -/
def inOwnWindow (o a : Nat) : Bool := decide (ownBase o + 0xC0000 ≤ a) && decide (a < ownBase o + 0xC8000)

/-- The scalar registers that an Xmacel instruction reads as operand words (R94). -/
def operandRegs (i : XInsn) : Fin 32 × Fin 32 × Fin 32 :=
  match i with
  | .mmbwd _ _ _ rs1 _ _ _ _ => (rs1, 0, 0)
  | .tld _ rs1 rs2 _ => (rs1, rs2, 0)
  | .tst _ rs1 rs2 => (rs1, rs2, 0)
  | .strGo _ rs1 => (rs1, 0, 0)
  | .dtFill rs1 rs2 => (rs1, rs2, 0)
  | .dtWr _ rs1 rs2 => (rs1, rs2, 0)
  | .dtRd _ rs1 _ => (rs1, 0, 0)
  | .trel rs1 => (rs1, 0, 0)
  | .l1Inv rs1 rs2 => (rs1, rs2, 0)
  | .drAct _ mem _ rs2 rs1 _ _ _ _ => (rs1, if mem then rs2 else 0, 0)
  | .drDact _ mem _ rs2 rs1 _ _ _ _ => (rs1, if mem then rs2 else 0, 0)
  | .drStat mem _ rs2 rs1 _ _ _ => (rs1, if mem then rs2 else 0, 0)
  | .claspSig rs1 rs2 => (rs1, rs2, 0)
  | .claspWait rs1 rs2 => (rs1, rs2, 0)
  | .claspTake rs1 rs2 => (rs1, rs2, 0)
  | .chWr rs1 rs2 rs3 => (rs1, rs2, rs3)
  | .chRd rs1 rs2 rs3 => (rs1, rs2, rs3)
  | .chAcc rs1 rs2 rs3 => (rs1, rs2, rs3)
  | _ => (0, 0, 0)

/-- The registers that an instruction reads, x0 to x31 as 0 to 31 and f0 to f31 as 32 to 63, and the divide unit that it
uses, 64 or 65 (R51). [DESIGN CHOICE: log 102] -/
def readsOf (i : Insn) : List Nat :=
  let x (r : Fin 32) : Nat := r.val
  let f (r : Fin 32) : Nat := 32 + r.val
  match i with
  | .jalr _ rs1 _ => [x rs1]
  | .branch _ rs1 rs2 _ => [x rs1, x rs2]
  | .load _ _ _ rs1 _ => [x rs1]
  | .store _ fp rs1 rs2 _ => [x rs1, if fp then f rs2 else x rs2]
  | .opImm _ _ _ _ rs1 _ => [x rs1]
  | .op f3 f7 _ _ rs1 rs2 => [x rs1, x rs2] ++ if f7 = 1 ∧ 4 ≤ f3 then [64] else []
  | .amo _ _ _ rs1 rs2 => [x rs1, x rs2]
  | .csr f3 _ rs1 _ => if f3 < 4 then [x rs1] else []
  | .fma _ _ _ rs1 rs2 rs3 _ => [f rs1, f rs2, f rs3]
  | .fop f5 rs2 _ _ rs1 =>
    match f5 with
    | 3 => [f rs1, f rs2, 65]
    | 0x0B => [f rs1, 65]
    | 0x18 | 0x1C => [f rs1]
    | 0x1A | 0x1E => [x rs1]
    | _ => [f rs1, f rs2]
  | .x i => [x (operandRegs i).1, x (operandRegs i).2.1, x (operandRegs i).2.2]
  | _ => []

/-- The ck that a divide or remainder takes (R51): b is the number of significant bits of the dividend's magnitude. -/
def divideCk (f3 : Nat) (w : Bool) (a c : Word) : Nat :=
  let n := if w then 32 else 64
  let neg := f3 % 2 == 0
  let val (v : Word) : Int :=
    let u := v.toNat % 2 ^ n
    if neg && bitOf u (n - 1) then (u : Int) - 2 ^ n else u
  if val c = 0 ∨ (neg ∧ val c = -1 ∧ val a = -(2 ^ (n - 1))) then 6
  else
    let m := (val a).natAbs
    let b := if m = 0 then 0 else m.log2 + 1
    6 + (b - 4 + 1) / 2

/-- The ck that a load served in the bead takes (R51): 3 from own data memory, 5 where the granule is corrected, 6 for an L1
hit. -/
def loadCk (s : State) (o : Nat) (addr : Word) : Nat :=
  let a := devAddr addr
  if inOwnDmem o a then
    match (decodeCode (codeAt s.mem (dmemGran o ((a - ownBase o) / 32)))).1 with
    | .corr1 | .corr2 => 5
    | _ => 3
  else if inOwnWindow o a then 1 else 6

/-- The register that an instruction of a hart writes, or the unit it keeps busy, with the ck it takes (R51). An operation
that the table does not name takes 1. -/
def takesCk (s : State) (o : Nat) (t : Hart) (i : Insn) : List (Nat × Nat) :=
  match i with
  | .load _ fp rd rs1 imm => [(if fp then 32 + rd.val else rd.val, loadCk s o (xReg t rs1 + imm))]
  | .op f3 f7 w rd rs1 rs2 =>
    if f7 ≠ 1 then []
    else if f3 < 4 then [(rd.val, 3)]
    else
      let n := divideCk f3 w (xReg t rs1) (xReg t rs2)
      [(rd.val, n), (64, n)]
  | .fma _ _ rd _ _ _ _ => [(32 + rd.val, 4)]
  | .fop f5 _ _ rd _ =>
    match f5 with
    | 0 | 1 | 2 | 0x1A => [(32 + rd.val, 4)]
    | 3 | 0x0B => [(32 + rd.val, 14), (65, 14)]
    | 0x18 => [(rd.val, 4)]
    | _ => []
  | _ => []

/-- The operands of a hart's instruction are there, and its unit is free (R51). -/
def operandsReady (s : State) (o h : Nat) : Bool :=
  let b := beadOf s o
  match fetchAt b.active (hartOf b h).pc.toNat with
  | some f => (readsOf f.insn).all fun r => decide (tblGet 0 b.lat (128 * h + r) ≤ absCk s)
  | none => true

/-- A hart can issue, its turn aside. [DESIGN CHOICE: log 102] -/
def hartReady (s : State) (o h : Nat) : Bool :=
  let t := hartOf (beadOf s o) h
  t.run == .running && retryHold t.hold && operandsReady s o h

/-- Whether a ready hart is passed over without a loss of its turn: one that is held, and one whose access a bank may keep
waiting (R59, R808). -/
def mayPass (s : State) (o h : Nat) : Bool :=
  let b := beadOf s o
  let t := hartOf b h
  t.hold != .none || (match fetchAt b.active t.pc.toNat with
    | some ⟨.load .., _, _⟩ | some ⟨.store .., _, _⟩ | some ⟨.amo .., _, _⟩ => true
    | _ => false)

/-- Harts that stand ahead of a hart in the order that starts after the one that issued last (R50). -/
def hartTurn (b : Bead) (h : Nat) : Nat := (h + 3 - b.rr.val) % 4

/-- It is a hart's turn to issue: none has issued in this ck, and no ready hart stands ahead of it (R50).
[DESIGN CHOICE: log 102] -/
def hartIssues (s : State) (o h : Nat) : Bool :=
  let b := beadOf s o
  decide (b.issueCk ≠ absCk s + 1) && hartReady s o h &&
  !(List.range 4).any fun k => decide (hartTurn b k < hartTurn b h) && hartReady s o k && !mayPass s o k

/-- The instruction at a hart's pc, for a hart that can issue. -/
def fetched (s : State) (o h : Nat) : Option Fetched :=
  let b := beadOf s o
  if beadRuns s o && !holding s && hartIssues s o h then
    match fetchAt b.active (hartOf b h).pc.toNat with
    | some f => some f
    | none => some ⟨.illegal, 0, 0⟩
  else none

/-- A hart has issued in this ck (R50, R51): the round-robin pointer, and the ck its result takes.
[DESIGN CHOICE: log 102] -/
def noteIssue (s : State) (o : Nat) (h : HartN) (b : Bead) : Bead :=
  let l := match fetchAt b.active (hartOf b h.val).pc.toNat with
    | some f => takesCk s o (hartOf b h.val) f.insn
    | none => []
  { b with rr := h, issueCk := absCk s + 1,
           lat := l.foldl (fun t p => if p.1 = 0 then t else tblSet 0 t (128 * h.val + p.1) (absCk s + p.2)) b.lat }

/-- A hart of a bead changed by the instruction that it issues, the issue counted (code 0x0C) and noted (R50, R664). -/
def retire (o : Ord) (h : HartN) (f : Hart → Hart) (s : State) : State :=
  countEv o.val 0x0C 1 (modBead o.val (fun b => modHart h.val f (noteIssue s o.val h b)) s)

/-- A hart traps at its instruction, which has taken the ck's issue. [DESIGN CHOICE: log 102] -/
def trapAt (o : Ord) (h : HartN) (cause : Nat) (tval : Word) (s : State) : State :=
  modBead o.val (fun b => { modHart h.val (takeTrap false cause tval) b with rr := h, issueCk := absCk s + 1 }) s

/-- A hart is held at its instruction. -/
def holdAt (o : Ord) (h : HartN) (why : HoldBy) (s : State) : State :=
  modBead o.val (modHart h.val fun t => { t with hold := why }) s

/-- A hart issues an access that waits for an answer from beyond the bead (R50, R807): it is held by request `id`. -/
def issueHeld (o : Ord) (h : HartN) (id : Nat) (s : State) : State :=
  countEv o.val 0x0C 1 (modBead o.val (fun b =>
    { modHart h.val (fun t => { t with hold := .load id }) b with rr := h, issueCk := absCk s + 1 }) s)

/-- Store a code word in a granule; every reservation on the granule is lost (R48). -/
def storeGran (g : Nat) (c : Code) (s : State) : State :=
  let s' := putCode s g c
  { s' with mem := { s'.mem with resv := s'.mem.resv.filter fun p => p.2 != g + 1 } }

/-- A code word stored in a bead's data memory, at a granule of it. -/
def dmemPut (o g : Nat) (c : Code) (s : State) : State := storeGran (dmemGran o g) c s
/-- The code word of a granule of a bead's data memory. -/
def dmemGet (s : State) (o g : Nat) : Code := codeAt s.mem (dmemGran o g)

/-- Ticks of a number of seconds, of which 0 is treated as 1: 2,000,000,000 ck to a second (R19). -/
def ticksOf (seconds : Nat) : Nat := max 1 seconds * 2000000000 / 16384

end Sys2Proof.Machine
end

