-- ==== Sys2Proof/Machine/Access.lean ====
section
/-! DEFINITION. Control-window accesses: halves of a slot, fields that a read clears, and who may write (chapters 18
and 26). -/

namespace Sys2Proof.Machine

/-- What a read of a slot returns for the half it reaches (R797). -/
def rdWidth (w : Width) (v : Word) : Word :=
  match w with
  | .full => v
  | .low => v &&& 0xFFFFFFFF#64
  | .high => v >>> 32

/-- The slot that a write of a half leaves (R797). -/
def wrWidth (w : Width) (old v : Word) : Word :=
  match w with
  | .full => v
  | .low => (old &&& 0xFFFFFFFF00000000#64) ||| (v &&& 0xFFFFFFFF#64)
  | .high => (old &&& 0xFFFFFFFF#64) ||| (v <<< 32)

/-- A read covers every bit of the field [hi:lo] (R797). -/
def reads (w : Width) (hi lo : Nat) : Bool :=
  match w with
  | .full => true
  | .low => decide (hi < 32)
  | .high => decide (32 ≤ lo)

/-- An RC field after a read (R6, R9). -/
def rc {α : Type} (w : Width) (hi lo : Nat) (v zero : α) : α := if reads w hi lo then zero else v

/-- Bits written 1 in a write of a half; bits of the other half count as 0 (R6, R797). -/
def onesOf (w : Width) (v : Word) : Word := wrWidth w 0 v

/-- The module's owner (R634). -/
def ownerIs (s : State) (m : Master) : Bool :=
  match m with
  | .core => true
  | .mgmt => s.standby.owner
  | .host => !s.standby.owner

/-- Offsets of registers whose rows name them (R801, R802). -/
def offCommitCtl : Nat := 0x000038
def offLdgTrace : Nat := 0x000040
def offMbx (m : Nat) : Nat := 0x010000 + 0x40 * m
def offPendSet (w : Nat) : Nat := 0x020000 + 8 * w
def offPendClr (w : Nat) : Nat := 0x020100 + 8 * w
def offMaskSet (t w : Nat) : Nat := 0x021000 + 0x200 * t + 8 * w
def offMaskClr (t w : Nat) : Nat := 0x028000 + 0x200 * t + 8 * w
def offMgtPwr : Nat := 0x050000
def offMgtOwn : Nat := 0x050008
def offClpSel : Nat := 0x060000
def offClpValue : Nat := 0x060008
def offSecCtl : Nat := 0x070008
def offPwrCtl : Nat := 0x080008
def offHlkCtl : Nat := 0x090008
def offHlkBi : Nat := 0x090018
def offChnRehome : Nat := 0x0A0008
def offChnTiming : Nat := 0x0A0010
def offChnCal : Nat := 0x0A0018
def offBzl (b r : Nat) : Nat := 0x100000 + 0x10000 * b + r

/-- Whether a master may write a register, by its offset (R639, R657). MGT_OWN's fields settle it for themselves.
[DEDUCED: log 72] -/
def mayWrite (s : State) (m : Master) (off : Nat) : Bool :=
  match m with
  | .core => true
  | .host =>
    if 0x010000 ≤ off ∧ off < 0x010200 then true
    else if 0x010200 ≤ off ∧ off < 0x010240 then false
    else if 0x021000 ≤ off ∧ off < 0x030000 then
      let t := if off < 0x028000 then (off - 0x021000) / 0x200 else (off - 0x028000) / 0x200
      decide (4 ≤ t) && decide (t ≤ 35)
    else if 0x020000 ≤ off ∧ off < 0x021000 then false
    else if 0x060000 ≤ off ∧ off < 0x070000 then false
    else if off = 0x050000 then false
    else if off = 0x050008 then true
    else ownerIs s .host
  | .mgmt =>
    if 0x010000 ≤ off ∧ off < 0x010200 then false
    else if 0x010200 ≤ off ∧ off < 0x010240 then true
    else if 0x021000 ≤ off ∧ off < 0x030000 then
      let t := if off < 0x028000 then (off - 0x021000) / 0x200 else (off - 0x028000) / 0x200
      t == 36
    else if 0x020000 ≤ off ∧ off < 0x021000 then false
    else if 0x060000 ≤ off ∧ off < 0x070000 then true
    else if off = 0x050000 ∨ off = 0x050008 then true
    else ownerIs s .mgmt

/-- A forbidden write, or one to a reserved offset, is discarded and recorded (R630, R639, R798).
[DEDUCED: log 72] -/
def forbidden (off : Nat) (s : State) : State := recordAddr 0x16 blkLocket off 1 s

/-- A register of a main domain answers only while the main domains run (R800). -/
def answers (s : State) (off : Nat) : Bool := mainUp s || (decide (0x040000 ≤ off) && decide (off < 0x060000))

/-- The host link is UP. -/
def linkUp (s : State) : Bool := s.host.link == 2

/-- A master's access reaches the module: the host's only while its link is up (R576). -/
def reaches (s : State) (m : Master) : Bool := m != .host || linkUp s

/-- The form of a register write with a row of its own: discarded without an effect while the main domains are down or the
master does not reach the module, discarded and recorded where the master may not write, otherwise the effect (R576, R639,
R800). -/
def regWriteRow (m : Master) (off : Nat) (f : State → State) (s : State) : State :=
  if !answers s off || !reaches s m then s else if mayWrite s m off then f s else forbidden off s

/-- The form of a register read with a row of its own: the value leaves, then the fields that a read clears are cleared
(R9). While the main domains are down the offset answers nothing (R800). -/
def regReadRow (off : Nat) (w : Width) (v : Word) (clear : State → State) (s : State) : State :=
  if answers s off then clear (emit (.regValue (rdWidth w v)) s) else s

end Sys2Proof.Machine
end

