-- ==== Sys2Proof/Machine/Msgs.lean ====
section
/-! DEFINITION. Fabric nodes, messages and injection queues (chapter 12). -/

namespace Sys2Proof.Machine

/-- Node IDs (R405). -/
def nodeBezel (z : Nat) : Nat := 0x800 + z
def nodePort (p : Nat) : Nat := 0x810 + p
def nodeCxl : Nat := 0x820
def nodeLocket : Nat := 0x821
def nodeXbar (c : Nat) : Nat := 0x830 + c
def nodeBead (o : Nat) : Nat := posOfOrd o

/-- What a node ID names. -/
inductive NodeKind where
  | bead (o : Nat)
  | bezel (z : Nat)
  | port (p : Nat)
  | cxl
  | locket
  | xbar (c : Nat)
  | none
  deriving DecidableEq, Repr

/-- The node of an ID; a position without an endpoint names none (R406). -/
def nodeKind (s : State) (n : Nat) : NodeKind :=
  if n < 1152 then
    match ordOfPos n with
    | some o => if ordLive s o then .bead o else .none
    | none => .none
  else if n < 0x800 then .none
  else if n < 0x810 then .bezel (n - 0x800)
  else if n < 0x820 then .port (n - 0x810)
  else if n = 0x820 then .cxl
  else if n = 0x821 then .locket
  else if 0x830 ≤ n ∧ n < 0x850 then .xbar (n - 0x830)
  else .none

/-- The position index of facet, string and position. -/
def posIdx (f st p : Nat) : Nat := f * 144 + st * 9 + p

/-- The router at which a node sits (R405). -/
def nodeRouter (n : Nat) : Nat :=
  if n < 1152 then n
  else if n < 0x810 then posIdx ((n - 0x800) / 2) (if n % 2 = 0 then 6 else 10) 4
  else if n < 0x820 then (if n % 2 = 0 then posIdx ((n - 0x810) / 2) 3 1 else posIdx ((n - 0x810) / 2) 12 7)
  else if n = 0x820 then posIdx 5 12 1
  else if n = 0x821 then posIdx 0 3 7
  else posIdx ((n - 0x830) / 4) (4 * ((n - 0x830) % 4) + 1) 4

/-- The port node at a router's P port, where there is one. -/
def portNode (r : Nat) : Option Nat :=
  ((List.range 16).map nodeBezel ++ (List.range 16).map nodePort ++ [nodeCxl, nodeLocket] ++
    (List.range 32).map nodeXbar).find? fun n => nodeRouter n == r

/-- Whether a node sits at the L port of its router. -/
def nodeLocal (n : Nat) : Bool := decide (n < 1152)

/-- The node that serves a physical place (R334, R407). -/
def placeNode (p : Place) : Option Nat :=
  match p with
  | .stack z _ => some (nodeBezel z)
  | .slice i _ => some (nodeXbar (i / 4))
  | .dmem o _ => some (nodeBead o)
  | .frag o _ => some (nodeBead o)
  | .imem o _ => some (nodeBead o)
  | .board _ _ => some nodeCxl
  | .control _ => none
  | .reserved => none

/-- Operation codes (R412). -/
def opRead : BitVec 8 := 0x01
def opWrite : BitVec 8 := 0x02
def opPart : BitVec 8 := 0x03
def opAtomic : BitVec 8 := 0x04
def opSum : BitVec 8 := 0x05
def opSignal : BitVec 8 := 0x06
def opResp : BitVec 8 := 0x07
def opAck : BitVec 8 := 0x08
def opStale : BitVec 8 := 0x09

/-- A message with every field zero. -/
def msg0 : Msg :=
  { dst := 0, src := 0, op := 0, addr := 0, len := 0, bf16 := false, status := 0, tag := 0, module := 0, step := 0,
    cmask := 0, aux0 := 0, aux1 := 0, data := [], stream := 0 }

/-- A node ID as a number below 4,096. -/
def node (n : Nat) : NodeN := Fin.ofNat 4096 n
/-- A stream code. -/
def strm (n : Nat) : Fin 16 := Fin.ofNat 16 n

/-- A message joins the injection queue of its source node and stream (R419). -/
def sendMsg (m : Msg) (s : State) : State :=
  { s with fabric := { s.fabric with
      inj := tblMod [] s.fabric.inj (m.src.val * 16 + m.stream.val) (fun l => l ++ [m]) } }

/-- The stream in which a node sends its responses (R420). -/
def respStream (n : NodeN) : Fin 16 := if nodeLocal n.val then 9 else 1

/-- A READ_RESP to a request: the granules with the status of R336. -/
def readResp (m : Msg) (data : List Code) (pm cls : Nat) : Msg :=
  { msg0 with
      dst := m.src, src := m.dst, op := opResp, addr := m.addr, len := data.length,
      status := BitVec.ofNat 16 (pm + 256 * cls), tag := m.tag, data := data, stream := respStream m.dst }

/-- A WRITE_ACK to a request; an atomic's old value travels in the two auxiliary words. -/
def writeAck (m : Msg) (pm cls : Nat) (v : Word) : Msg :=
  { msg0 with
      dst := m.src, src := m.dst, op := opAck, addr := m.addr, status := BitVec.ofNat 16 (pm + 256 * cls),
      tag := m.tag, aux0 := v.setWidth 32, aux1 := (v >>> 32).setWidth 32, stream := respStream m.dst }

/-- Status fields (R336). -/
def stPart (m : Msg) : Nat := bitsOf m.status.toNat 0 8
def stClass (m : Msg) : Nat := bitsOf m.status.toNat 8 4

/-- All granules of a request failed. -/
def fullMask (n : Nat) : Nat := 2 ^ n - 1

/-- Granules a request names: LEN_R for a READ, the data flits of the others (R412). -/
def reqLen (m : Msg) : Nat := if m.op = opRead then bitsOf m.aux0.toNat 0 4 else m.len

/-- The command block of a message (R411): the granule of its head flit. -/
def headGran (m : Msg) : Gran :=
  BitVec.ofNat 256 (m.addr.toNat + m.op.toNat * 2 ^ 48 + m.len % 16 * 2 ^ 56 + b2n m.bf16 * 2 ^ 60 + m.status.toNat * 2 ^ 64 +
    bitsOf m.tag.toNat 0 8 * 2 ^ 80 + m.module.toNat * 2 ^ 88 + bitsOf m.tag.toNat 8 2 * 2 ^ 92 + m.step.toNat * 2 ^ 96 +
    m.cmask.toNat * 2 ^ 128 + m.aux0.toNat * 2 ^ 192 + m.aux1.toNat * 2 ^ 224)

/-- The PRIO class of a request in a sorter: the class of a strand stream, else 0 (R367, R420). -/
def msgPrio (m : Msg) : Nat := if 4 ≤ m.stream.val ∧ m.stream.val ≤ 7 then m.stream.val - 4 else 0

/-- The virtual channel of a message in arbitrated mode (R433): what the locket answers goes with the answers (R449), and
AUX1[0] of a WRITE marks a strand's copy write. [DEDUCED: log 38] -/
def msgVc (m : Msg) : Nat :=
  let answers := decide (m.op = opResp ∨ m.op = opAck)
  if (m.src.val = nodeLocket ∧ !answers) ∨ (m.dst.val = nodeLocket ∧ answers) then 0
  else if answers ∨ m.op = opStale then 1
  else if m.op = opSum ∨ (m.op = opWrite ∧ bitOf m.aux1.toNat 0) ∨ (4 ≤ m.stream.val ∧ m.stream.val ≤ 7) ∨ (0x810 ≤ m.src.val ∧ m.src.val < 0x820) then 3
  else 2

/-- The header of flit `k` of a message, 0 the head (R409). -/
def headerAt (m : Msg) (k : Nat) : Nat :=
  let h := b2n (k == 0) + 2 * b2n (k == m.len) + m.dst.val * 4 + m.src.val * 16384 + msgVc m * 67108864
  let par := (List.range 31).foldl (fun a i => a != bitOf h i) false
  h + b2n par * 2 ^ 31

/-- The last flits of a message were discarded on its way (R413): it lacks data flits. -/
def isCut (m : Msg) : Bool := decide (m.data.length < m.len)

/-- The arrivals of a node. -/
def arrivals (s : State) (n : Nat) : List Msg := tblGet [] s.fabric.arrivals n
def setArrivals (n : Nat) (l : List Msg) (s : State) : State :=
  { s with fabric := { s.fabric with arrivals := tblSet [] s.fabric.arrivals n l } }

/-- A delivered message whose last flit is not there yet (R404). -/
def landing (s : State) (n : Nat) (m : Msg) : Bool :=
  s.fabric.landing.any fun p => p.1 == n && decide (absCk s < p.2.1) && p.2.2 == m

/-- The first arrival of a node, if it is whole and has the operation asked for. -/
def firstArrival (s : State) (n : Nat) (op : BitVec 8) : Option Msg :=
  match arrivals s n with
  | [] => none
  | m :: _ => if m.op = op ∧ landing s n m = false then some m else none

/-- The first arrival is taken. -/
def popArrival (n : Nat) (s : State) : State := setArrivals n ((arrivals s n).drop 1) s

end Sys2Proof.Machine
end

