-- ==== Sys2Proof/Machine/Num.lean ====
section
/-! DEFINITION. The arithmetic of chapter 6: formats, exact values, rounding, row sums, split pairs, and FP32 operations
rounded once. -/

namespace Sys2Proof.Machine

/-- A binary format: fraction bits and exponent bits (R217). -/
structure Fmt where
  fb : Nat
  eb : Nat
  deriving DecidableEq, Repr

def fp16 : Fmt := ⟨10, 5⟩
def bf16 : Fmt := ⟨7, 8⟩
def fp32 : Fmt := ⟨23, 8⟩

/-- The exponent bias. -/
def fmtBias (f : Fmt) : Nat := 2 ^ (f.eb - 1) - 1
/-- Exponent of the least subnormal. -/
def fmtMin (f : Fmt) : Int := 1 - (fmtBias f : Int) - f.fb
/-- Pattern of +infinity. -/
def fmtInf (f : Fmt) : Nat := (2 ^ f.eb - 1) * 2 ^ f.fb
/-- Pattern of the canonical NaN (R217). -/
def fmtNan (f : Fmt) : Nat := fmtInf f + 2 ^ (f.fb - 1)
/-- The sign bit's weight. -/
def fmtSign (f : Fmt) : Nat := 2 ^ (f.fb + f.eb)

/-- The value of a pattern: a NaN, an infinity, or man x 2^exp with a sign. -/
inductive FVal where
  | nan
  | inf (neg : Bool)
  | fin (neg : Bool) (man : Nat) (exp : Int)
  deriving DecidableEq, Repr

/-- The value that a pattern of a format stands for (R217). -/
def valOf (f : Fmt) (v : Nat) : FVal :=
  let neg := decide (fmtSign f ≤ v % (2 * fmtSign f))
  let e := v / 2 ^ f.fb % 2 ^ f.eb
  let m := v % 2 ^ f.fb
  if e = 2 ^ f.eb - 1 then (if m = 0 then .inf neg else .nan)
  else if e = 0 then .fin neg m (fmtMin f)
  else .fin neg (m + 2 ^ f.fb) (fmtMin f + e - 1)

/-- How a value is rounded: to nearest even, or a directed or stochastic way. -/
inductive Rnd where
  | rne | rtz | rdn | rup | rmm
  /-- Stochastic, with a 16-bit random value (R234). -/
  | stoch (u : Nat)
  deriving DecidableEq, Repr

/-- Whether the magnitude goes up, from the part cut off: `r` of `2^d`, the kept magnitude odd or even. -/
def goesUp (rm : Rnd) (neg odd : Bool) (r d : Nat) : Bool :=
  match rm with
  | .rne => decide (2 ^ d < 2 * r) || (decide (2 * r = 2 ^ d) && odd)
  | .rtz => false
  | .rdn => neg && decide (r ≠ 0)
  | .rup => !neg && decide (r ≠ 0)
  | .rmm => decide (2 ^ d ≤ 2 * r)
  | .stoch u => decide (u < 65536 * r / 2 ^ d)

/-- Round man x 2^exp to a magnitude pattern with no bound above, and say whether it was inexact. -/
def roundRaw (f : Fmt) (rm : Rnd) (neg : Bool) (man : Nat) (exp : Int) : Nat × Bool :=
  if man = 0 then (0, false)
  else
    let q := max (fmtMin f) (exp + Nat.log2 man - f.fb)
    if q ≤ exp then ((q - fmtMin f).toNat * 2 ^ f.fb + man * 2 ^ (exp - q).toNat, false)
    else
      let d := (q - exp).toNat
      let a := man / 2 ^ d
      let r := man % 2 ^ d
      ((q - fmtMin f).toNat * 2 ^ f.fb + a + b2n (goesUp rm neg (a % 2 == 1) r d), decide (r ≠ 0))

/-- The pattern of a magnitude with a sign; past the largest finite value, an infinity (R224, R233). -/
def packMag (f : Fmt) (neg : Bool) (mag : Nat) : Nat :=
  (if neg then fmtSign f else 0) + min mag (fmtInf f)

/-- Round an exact value into a format. -/
def roundTo (f : Fmt) (rm : Rnd) (neg : Bool) (man : Nat) (exp : Int) : Nat :=
  packMag f neg (roundRaw f rm neg man exp).1

/-- Round into BF16 and replace a magnitude below 2^-126 by a zero of the sign (R235). -/
def roundBf16 (rm : Rnd) (neg : Bool) (man : Nat) (exp : Int) : Nat :=
  let m := (roundRaw bf16 rm neg man exp).1
  packMag bf16 neg (if m < 128 then 0 else m)

/-- An exact number m x 2^e. -/
structure Dy where
  m : Int
  e : Int
  deriving DecidableEq, Repr

/-- The exact sum. -/
def dyAdd (a b : Dy) : Dy :=
  let e := min a.e b.e
  ⟨a.m * 2 ^ (a.e - e).toNat + b.m * 2 ^ (b.e - e).toNat, e⟩

/-- The exact product. -/
def dyMul (a b : Dy) : Dy := ⟨a.m * b.m, a.e + b.e⟩

/-- The exact negative. -/
def dyNeg (a : Dy) : Dy := ⟨-a.m, a.e⟩

/-- a < b. -/
def dyLt (a b : Dy) : Bool := decide ((dyAdd a (dyNeg b)).m < 0)

/-- The number of a finite value; zero for the others. -/
def dyOf (v : FVal) : Dy :=
  match v with
  | .fin neg man exp => ⟨if neg then -(man : Int) else man, exp⟩
  | _ => ⟨0, 0⟩

/-- Round an exact number into a format; an exact zero gives +0. -/
def dyRound (f : Fmt) (rm : Rnd) (a : Dy) : Nat :=
  roundTo f rm (decide (a.m < 0)) a.m.natAbs a.e

/-- The value of an FP32 pattern. -/
def val32 (v : Word32) : FVal := valOf fp32 v.toNat
/-- An FP32 pattern. -/
def w32 (n : Nat) : Word32 := BitVec.ofNat 32 n
/-- The canonical FP32 NaN. -/
def nan32 : Word32 := 0x7FC00000

/-- Whether a value is a NaN. -/
def isNan (v : FVal) : Bool :=
  match v with
  | .nan => true
  | _ => false

/-- Whether a value is finite. -/
def isFin (v : FVal) : Bool :=
  match v with
  | .fin _ _ _ => true
  | _ => false

/-- The sign of a value; a NaN has none. -/
def negOf (v : FVal) : Bool :=
  match v with
  | .nan => false
  | .inf n => n
  | .fin n _ _ => n

/-- Whether a value is a zero. -/
def isZero (v : FVal) : Bool :=
  match v with
  | .fin _ m _ => m == 0
  | _ => false

/-- The exact product of two values, with NaN for an invalid one (R222, R226). -/
def valMul (a b : FVal) : FVal :=
  match a, b with
  | .nan, _ => .nan
  | _, .nan => .nan
  | .inf n, .inf k => .inf (n != k)
  | .inf n, .fin k m _ => if m = 0 then .nan else .inf (n != k)
  | .fin n m _, .inf k => if m = 0 then .nan else .inf (n != k)
  | .fin n m e, .fin k m' e' => .fin (n != k) (m * m') (e + e')

/-- Exponent of the leading bit of a finite non-zero value. -/
def leadExp (v : FVal) : Int :=
  match v with
  | .fin _ m e => e + Nat.log2 m
  | _ => 0

/-- A finite term truncated toward zero to a multiple of 2^g, in units of 2^g. -/
def truncTerm (g : Int) (v : FVal) : Int :=
  match v with
  | .fin n m e =>
    let t : Nat := if g ≤ e then m * 2 ^ (e - g).toNat else m / 2 ^ (g - e).toNat
    if n then -(t : Int) else t
  | _ => 0

/-- The row sum of a list of terms, rounded once into FP32 (R223 to R226). -/
def rowSum (terms : List FVal) : Word32 :=
  if terms.any isNan then nan32
  else if terms.any (fun t => t == .inf false) && terms.any (fun t => t == .inf true) then nan32
  else if terms.any (fun t => t == .inf false) then 0x7F800000
  else if terms.any (fun t => t == .inf true) then 0xFF800000
  else
    match terms.filter (fun t => !isZero t) with
    | [] => if terms ≠ [] ∧ terms.all negOf then 0x80000000 else 0
    | t :: r =>
      let g := (r.foldl (fun e v => max e (leadExp v)) (leadExp t)) - 39
      w32 (dyRound fp32 .rne ⟨((t :: r).map (truncTerm g)).sum, g⟩)

/-- The exact sum of two values, with the sign rules of IEEE 754 for zeros. -/
def valAdd (a b : FVal) : FVal :=
  match a, b with
  | .nan, _ => .nan
  | _, .nan => .nan
  | .inf n, .inf k => if n = k then .inf n else .nan
  | .inf n, .fin _ _ _ => .inf n
  | .fin _ _ _, .inf k => .inf k
  | .fin n m e, .fin k m' e' =>
    if m = 0 ∧ m' = 0 then .fin (n && k) 0 0
    else
      let d := dyAdd (dyOf (.fin n m e)) (dyOf (.fin k m' e'))
      .fin (decide (d.m < 0)) d.m.natAbs d.e

/-- The value with the other sign. -/
def valNeg (a : FVal) : FVal :=
  match a with
  | .nan => .nan
  | .inf n => .inf (!n)
  | .fin n m e => .fin (!n) m e

/-- A value rounded into a format. -/
def packVal (f : Fmt) (rm : Rnd) (v : FVal) : Nat :=
  match v with
  | .nan => fmtNan f
  | .inf n => packMag f n (fmtInf f)
  | .fin n m e => roundTo f rm n m e

/-- A value rounded to nearest even into FP32. -/
def pack32 (v : FVal) : Word32 := w32 (packVal fp32 .rne v)

/-- FP32 sum, difference and product, each rounded once to nearest even. -/
def fpAdd (a b : Word32) : Word32 := pack32 (valAdd (val32 a) (val32 b))
def fpSub (a b : Word32) : Word32 := pack32 (valAdd (val32 a) (valNeg (val32 b)))
def fpMul (a b : Word32) : Word32 := pack32 (valMul (val32 a) (val32 b))
/-- a x b + c rounded once. -/
def fpFma (a b c : Word32) : Word32 := pack32 (valAdd (valMul (val32 a) (val32 b)) (val32 c))

/-- The floor of the square root, by the low `n` bits of the root. -/
def isqrtBits (n v r : Nat) : Nat :=
  match n with
  | 0 => r
  | n + 1 => isqrtBits n v (if (r + 2 ^ n) * (r + 2 ^ n) ≤ v then r + 2 ^ n else r)

/-- The quotient of two values, with one bit below the last that says whether a remainder was left. -/
def valDiv (a b : FVal) : FVal :=
  match a, b with
  | .nan, _ => .nan
  | _, .nan => .nan
  | .inf _, .inf _ => .nan
  | .inf n, .fin k _ _ => .inf (n != k)
  | .fin n _ _, .inf k => .fin (n != k) 0 0
  | .fin n m e, .fin k m' e' =>
    if m' = 0 then (if m = 0 then .nan else .inf (n != k))
    else .fin (n != k) (2 * (m * 2 ^ 80 / m') + b2n (m * 2 ^ 80 % m' ≠ 0)) (e - e' - 81)

/-- The square root of a value, with one bit below the last that says whether a remainder was left. -/
def valSqrt (a : FVal) : FVal :=
  match a with
  | .nan => .nan
  | .inf n => if n then .nan else .inf false
  | .fin n m e =>
    if m = 0 then .fin n 0 0
    else if n then .nan
    else
      let m2 := if e % 2 = 0 then m * 2 ^ 80 else 2 * m * 2 ^ 80
      let e2 := if e % 2 = 0 then e - 80 else e - 81
      let r := isqrtBits 80 m2 0
      .fin false (2 * r + b2n (r * r ≠ m2)) (e2 / 2 - 1)

/-- FP32 quotient and square root, correctly rounded. -/
def fpDiv (a b : Word32) : Word32 := pack32 (valDiv (val32 a) (val32 b))
def fpSqrt (a : Word32) : Word32 := pack32 (valSqrt (val32 a))

/-- a < b for values that are not NaN. -/
def valLt (a b : FVal) : Bool :=
  match a, b with
  | .nan, _ => false
  | _, .nan => false
  | .inf n, .inf k => n && !k
  | .inf n, .fin _ _ _ => n
  | .fin _ _ _, .inf k => !k
  | .fin n m e, .fin k m' e' => dyLt (dyOf (.fin n m e)) (dyOf (.fin k m' e'))

/-- The value of a 16-bit tensor element as it enters an array: BF16 subnormals count as zeros (R219, R220). -/
def enterVal (fp : Fmt) (v : Half) : FVal :=
  match valOf fp v.toNat with
  | .fin n m e => if fp = bf16 ∧ m < 128 then .fin n 0 0 else .fin n m e
  | x => x

/-- TLD's split of an FP32 value into a high and a low BF16 part (R227, R228). -/
def splitFp32 (x : Word32) : Half × Half :=
  match val32 x with
  | .nan => (0x7FC0, 0)
  | .inf n => (if n then 0xFF80 else 0x7F80, 0)
  | .fin n m e =>
    let h : Half := x.extractLsb' 16 16
    if m = 0 then (h, 0)
    else
      let d := dyAdd (dyOf (.fin n m e)) (dyNeg (dyOf (valOf bf16 h.toNat)))
      if d.m = 0 then (h, 0)
      else (h, BitVec.ofNat 16 (roundBf16 .rne (decide (d.m < 0)) d.m.natAbs d.e))

/-- TST's joining of the parts: x_h + x_l in FP32 (R170, R228). -/
def joinParts (h l : Half) : Word32 :=
  pack32 (valAdd (valOf bf16 h.toNat) (valOf bf16 l.toNat))

/-- One compensated update of a split accumulator element by the row sum d (R230, R231). -/
def splitUpdate (se : Word32 × Word32) (d : Word32) : Word32 × Word32 :=
  let sum := valAdd (val32 se.1) (val32 d)
  let s' := pack32 sum
  if !isFin (val32 s') then (s', 0)
  else
    let e := dyAdd (dyOf sum) (dyNeg (dyOf (val32 s')))
    let e' := w32 (dyRound fp32 .rne (dyAdd (dyOf (val32 se.2)) e))
    (s', if isFin (val32 e') then e' else 0)

/-- The exact value of a pair (R232). -/
def pairVal (s e : Word32) : FVal := valAdd (val32 s) (val32 e)

/-- The single FP32 value of a pair (R239). -/
def pairRound (s e : Word32) : Word32 := pack32 (pairVal s e)

/-- One step of the drain's Galois LFSR (R236). -/
def lfsrStep (v : Word32) : Word32 :=
  let r := v >>> 1
  if v.toNat % 2 = 1 then r ^^^ 0x80200003 else r

/-- 32 steps, from one row to the next (R237). -/
def lfsrRow (v : Word32) : Word32 := (List.range 32).foldl (fun a _ => lfsrStep a) v

/-- The random value of a lane (R237). -/
def laneRandom (v : Word32) (i : Nat) : Nat := v.toNat * (2 * i + 1) % 2 ^ 32 / 65536

/-- The seed of an array's LFSR for a tick's work (R238). [DEDUCED: log 6] -/
def lfsrSeed (tick : BitVec 48) (o a : Nat) : Word32 :=
  let v : Word32 := (tick.extractLsb' 0 32) ^^^ w32 (0x9E3779B9 * (2 * o + a))
  if v = 0 then 1 else v

end Sys2Proof.Machine
end

