-- ==== Sys2Proof/Machine/Queue.lean ====
section
/-! DEFINITION. Queue entries: what they name, how they fault and stop a queue, barriers, and descriptors
(chapters 2 to 4). -/

namespace Sys2Proof.Machine

/-- Fault codes (R133). -/
def fcBadHandle : Nat := 0x01
def fcShape : Nat := 0x02
def fcFormat : Nat := 0x03
def fcTileEmpty : Nat := 0x04
def fcTileBusy : Nat := 0x05
def fcAccEmpty : Nat := 0x06
def fcAccBusy : Nat := 0x07
def fcPageFault : Nat := 0x08
def fcProtection : Nat := 0x09
def fcPoison : Nat := 0x0A
def fcInvalid : Nat := 0x0B
def fcStaleTwice : Nat := 0x0C
def fcGeneration : Nat := 0x0D
def fcStrandBusy : Nat := 0x0E
def fcStrandEnd : Nat := 0x0F
def fcClaspUnder : Nat := 0x10
def fcClaspOver : Nat := 0x11
def fcClaspTimeout : Nat := 0x12
def fcChainFail : Nat := 0x13

/-- TCFG fields (R168). -/
def tcM (t : BitVec 28) : Nat := bitsOf t.toNat 0 7
def tcK (t : BitVec 28) : Nat := bitsOf t.toNat 8 7
def tcN (t : BitVec 28) : Nat := bitsOf t.toNat 16 7
def tcFmt (t : BitVec 28) : Nat := bitsOf t.toNat 24 2
def tcGroups (t : BitVec 28) : Nat := 2 ^ bitsOf t.toNat 26 2
/-- The entry works in split mode (R169). -/
def tcSplit (t : BitVec 28) : Bool := tcFmt t == 2

/-- Operand-word fields (R96). -/
def owHandle (v : Word) : Nat := bitsOf v.toNat 0 12
def owHandle2 (v : Word) : Nat := bitsOf v.toNat 12 12
def owSrcId (v : Word) : Nat := bitsOf v.toNat 24 4
def owH2v (v : Word) : Bool := bitOf v.toNat 28
def owTile (v : Word) : Nat := bitsOf v.toNat 0 32

/-- The queue of an Xmacel instruction (R79): 0 M, 1 L, 2 D, 3 S; none for one that runs in the pipeline. -/
def queueFor (i : XInsn) : Option (Fin 4) :=
  match i with
  | .mm .. | .mmab .. | .mmbwd .. => some 0
  | .tld .. | .tst .. | .strGo .. | .strStop .. | .dtFill .. => some 1
  | .drAct .. | .drDact .. | .drStat .. => some 2
  | .claspSig .. | .claspWait .. | .claspTake .. | .chWr .. | .chRd .. | .chAcc .. => some 3
  | .dtWr .. | .dtRd .. | .trel .. | .l1Inv .. | .l1InvA | .qbar .. => none

/-- A tile-register operand with its partner in split mode; an odd number there has none and ends in FORMAT (R169). -/
def withPair (split : Bool) (t : Nat) : List Nat := if split ∧ t % 2 = 0 then [t, t + 1] else [t]

/-- Tile registers that an entry reads. -/
def tilesRead (e : QEntry) : List Nat :=
  let p := withPair (tcSplit e.tcfg)
  match e.insn with
  | .mm _ tw src ss _ _ _ => p tw.val ++ (if ss then [] else p src.val)
  | .mmab twa twb src ss _ _ _ _ => p twa.val ++ p twb.val ++ (if ss then [] else p src.val)
  | .mmbwd tw tx src _ ss _ _ _ => p tw.val ++ p tx.val ++ (if ss then [] else p src.val)
  | .tst t _ _ => p t.val
  | .drDact _ _ _ _ _ _ _ _ psrc => if psrc then [] else p (owSrcId e.v1)
  | _ => []

/-- Tile registers that an entry writes. -/
def tilesWritten (e : QEntry) : List Nat :=
  let p := withPair (tcSplit e.tcfg)
  match e.insn with
  | .tld t _ _ _ => p t.val
  | .drAct _ mem _ rs2 _ _ _ _ _ => if mem then [] else p (rs2.val % 16)
  | .drDact _ mem _ rs2 _ _ _ _ _ => if mem then [] else p (rs2.val % 16)
  | .drStat mem _ rs2 _ _ _ nowr => if mem || nowr then [] else p (rs2.val % 16)
  | _ => []

/-- Accumulators (keys) that an entry uses, each with whether it must hold data at the start (R98, order 4). -/
def accsUsed (e : QEntry) : List (Nat × Bool) :=
  match e.insn with
  | .mm arrB _ _ _ ac ow _ => [(accKey arrB ac.val, !ow)]
  | .mmab _ _ _ _ aca acb ow _ => [(accKey false aca.val, !ow), (accKey true acb.val, !ow)]
  | .mmbwd _ _ _ _ _ ac owA owB => [(accKey false ac.val, !owA), (accKey true ac.val, !owB)]
  | .drAct _ _ _ _ _ arrB ac _ _ => [(accKey arrB ac.val, true)]
  | .drDact _ _ _ _ _ arrB ac _ psrc =>
    (accKey arrB ac.val, true) :: (if psrc then [(accKey (bitOf (owSrcId e.v1) 2) (owSrcId e.v1 % 4), true)] else [])
  | _ => []

/-- The arrays on which a matrix entry works: 0 A, 1 B. -/
def arraysOf (e : QEntry) : List Nat :=
  match e.insn with
  | .mm arrB .. => [b2n arrB]
  | .mmab .. | .mmbwd .. => [0, 1]
  | _ => []

/-- The drain unit of a drain entry. -/
def drainUnit (e : QEntry) : Option Nat :=
  match e.insn with
  | .drAct _ _ _ _ _ arrB _ _ _ => some (b2n arrB)
  | .drDact _ _ _ _ _ arrB _ _ _ => some (b2n arrB)
  | .drStat _ _ _ _ arrB _ _ => some (b2n arrB)
  | _ => none

/-- The strand that a matrix entry streams from. -/
def strandSource (e : QEntry) : Option Nat :=
  match e.insn with
  | .mm _ _ src ss _ _ _ => if ss then some (src.val % 8) else none
  | .mmab _ _ src ss _ _ _ _ => if ss then some (src.val % 8) else none
  | .mmbwd _ _ src _ ss _ _ _ => if ss then some (src.val % 8) else none
  | _ => none

/-- An entry that has started or stands stopped at the head of its queue counts as running (R161). -/
def isRunning (e : QEntry) : Bool := e.barrier == 0 && e.st != .waiting

/-- A drain entry whose rows go to memory. -/
def drainsToMem (x : QEntry) : Bool :=
  match x.insn with
  | .drAct _ mem .. => mem
  | .drDact _ mem .. => mem
  | .drStat mem _ _ _ _ _ nowr => mem && !nowr
  | _ => false

/-- An entry that has started in a ck, with what it may have done in it: its first row (R108, R120), but for a row that a
drain has already written to memory. [DEDUCED: log 30] -/
def justStarted (ck : Nat) (x : QEntry) : Bool :=
  x.st == .started && x.at_ == ck && x.bad.isNone && (!drainsToMem x || x.fin == x.startRow)

/-- An entry of a later queue that starts in the same ck gives way, or has given way, to one of queue `q` (R99).
[DEDUCED: log 30] -/
def givesWay (q k ck : Nat) (x : QEntry) : Bool :=
  decide (q < k) && (justStarted ck x || (x.yielded && x.at_ == ck))

/-- The running entries of the other queues, but for those that give way (R98, R99). -/
def runningElsewhere (b : Bead) (q ck : Nat) : List QEntry :=
  (List.range 4).flatMap fun k =>
    if k = q then [] else (queueOf b k).ents.filter fun x => isRunning x && !givesWay q k ck x

/-- Whether two lists share a member. -/
def meets (a b : List Nat) : Bool := a.any fun x => b.contains x

/-- A running matrix entry of the same queue forms an accumulator, whose rows the next entry updates in turn (R193). -/
def pendingAcc (b : Bead) (q k : Nat) : Bool :=
  q == 0 && (queueOf b 0).ents.any fun x => isRunning x && x.bad.isNone && ((accsUsed x).map (·.1)).contains k

/-- Two entries of different queues conflict over a tile register (R98, order 1). -/
def tileConflict (e x : QEntry) : Bool :=
  meets (tilesRead e ++ tilesWritten e) (tilesWritten x) || meets (tilesWritten e) (tilesRead x)

/-- Two entries conflict over an accumulator (R98, order 2). -/
def accConflict (e x : QEntry) : Bool := meets ((accsUsed e).map (·.1)) ((accsUsed x).map (·.1))

/-- The state of a tile register as R98 finds it: what an entry that gives way found there (R99). -/
def tileFound (b : Bead) (q : Nat) (e : QEntry) (t : Nat) : TileState :=
  match (List.range 4).findSome? fun k =>
      ((queueOf b k).ents.find? fun x => givesWay q k e.at_ x && (tilesWritten x).contains t) with
  | some x => ((x.found.find? fun p => p.1 == t).map (·.2.st)).getD .empty
  | none => (tileOf b t).st

/-- The checks of R98 in their order: the fault code of the first condition that holds (R99, R159).
[DEDUCED: log 30] -/
def resourceFault (b : Bead) (q : Nat) (e : QEntry) : Option Nat :=
  let others := runningElsewhere b q e.at_
  let rd := tilesRead e
  let wr := tilesWritten e
  if others.any (tileConflict e) then some fcTileBusy
  else if rd.any (fun t => tileFound b q e t == .filling) then some fcTileBusy
  else if q == 2 && wr.any (fun t => tileFound b q e t == .filling) then some fcTileBusy
  else if others.any (accConflict e) then some fcAccBusy
  else if rd.any (fun t => tileFound b q e t == .empty) then some fcTileEmpty
  else if (accsUsed e).any (fun p => p.2 && !(accOf b p.1).full && !pendingAcc b q p.1) then some fcAccEmpty
  else none

/-- Descriptor fields (R149). -/
def dF (d : BitVec 512) (lo w : Nat) : Nat := bitsOf d.toNat lo w
def dBase (d : BitVec 512) : Nat := dF d 0 48
def dEtype (d : BitVec 512) : Nat := dF d 48 4
def dRank (d : BitVec 512) : Nat := dF d 52 3
def dValid (d : BitVec 512) : Bool := dF d 56 1 == 1
def dRo (d : BitVec 512) : Bool := dF d 57 1 == 1
def dWatch (d : BitVec 512) : Bool := dF d 58 1 == 1
def dGenv (d : BitVec 512) : Bool := dF d 59 1 == 1
def dCohv (d : BitVec 512) : Bool := dF d 60 1 == 1
/-- Extent of a dimension; 1 at or above RANK (R151). -/
def dDim (d : BitVec 512) (k : Nat) : Nat := if k < dRank d then dF d (64 + 32 * k) 32 else 1
def dTrows (d : BitVec 512) : Nat := dF d 224 7
def dTcols (d : BitVec 512) : Nat := dF d 232 7
def dCohort (d : BitVec 512) : Nat := dF d 240 9
/-- Stride of a dimension, 1 to 4; ignored at or above RANK (R151). -/
def dStride (d : BitVec 512) (k : Nat) : Nat := if k < dRank d then dF d (256 + 40 * (k - 1)) 40 else 0
def dGen (d : BitVec 512) : Word32 := BitVec.ofNat 32 (dF d 416 32)
def dMgran (d : BitVec 512) : Bool := dF d 448 1 == 1
/-- Bytes of an element; a mask's BIT counts as one byte for the alignment of BASE (R150). -/
def dSize (d : BitVec 512) : Nat := if dEtype d = 3 then 4 else if dEtype d = 4 then 1 else 2

/-- Some reserved field of a descriptor is not zero (R149). -/
def dReserved (d : BitVec 512) : Bool :=
  decide (dF d 55 1 ≠ 0) || decide (dF d 61 3 ≠ 0) || decide (dF d 231 1 ≠ 0) || decide (dF d 239 1 ≠ 0) ||
  decide (dF d 249 7 ≠ 0) || decide (dF d 449 63 ≠ 0)

/-- Fields of an adapter's entry in the cohort view in force (R289). -/
def viewBound (s : State) (aid : Nat) : Bool := bitOf (tblGet 0 s.nutas.view aid).toNat 0
def viewSlot (s : State) (aid : Nat) : Nat := bitsOf (tblGet 0 s.nutas.view aid).toNat 1 3
def viewPave (s : State) (aid : Nat) : Nat := bitsOf (tblGet 0 s.nutas.view aid).toNat 6 9

/-- Whether an adapter is bound, by the view in force (R291). -/
def cohortBound (s : State) (aid : Nat) : Bool := viewBound s aid

/-- Tile columns, tile rows and tiles of a descriptor's grid (R153). -/
def gridCols (d : BitVec 512) : Nat := (dDim d 0 + dTcols d - 1) / dTcols d
def gridRows (d : BitVec 512) : Nat := (dDim d 1 + dTrows d - 1) / dTrows d
def gridTiles (d : BitVec 512) : Nat := dDim d 4 * dDim d 3 * dDim d 2 * gridRows d * gridCols d

/-- The checks of R156, orders 1 to 5: the fault code of the first condition met. -/
def descFault (s : State) (d : BitVec 512) (mask : Bool) : Option Nat :=
  if !dValid d then some fcBadHandle
  else if dEtype d = 0 ∨ 4 < dEtype d ∨ dRank d = 0 ∨ 5 < dRank d ∨ dTrows d = 0 ∨ 64 < dTrows d ∨ dTcols d = 0 ∨
      64 < dTcols d ∨ dReserved d then some fcBadHandle
  else if dBase d % dSize d ≠ 0 then some fcBadHandle
  else if (dEtype d == 4) != mask then some fcBadHandle
  else if dCohv d && !cohortBound s (dCohort d) then some fcBadHandle
  else none

/-- The format that a TCFG asks of a descriptor's element type (R156, order 7). -/
def etypeOfFmt (f : Nat) : Nat := f + 1

/-- Address of the element of tile row `r`, column `c` of tile `t` (R152 to R154). -/
def tileAddr (d : BitVec 512) (t r c : Nat) : Nat :=
  let gc := t % gridCols d
  let t1 := t / gridCols d
  let gr := t1 % gridRows d
  let t2 := t1 / gridRows d
  let i2 := t2 % dDim d 2
  let t3 := t2 / dDim d 2
  let i3 := t3 % dDim d 3
  let i4 := t3 / dDim d 3
  (dBase d + dSize d * (gc * dTcols d + c + (gr * dTrows d + r) * dStride d 1 + i2 * dStride d 2 + i3 * dStride d 3 +
    i4 * dStride d 4)) % 2 ^ 48

/-- Elements of tile row `r` that lie inside both the tile shape and the tensor (R154). -/
def rowElems (d : BitVec 512) (t r : Nat) : Nat :=
  let gc := t % gridCols d
  let gr := t / gridCols d % gridRows d
  if r < dTrows d ∧ gr * dTrows d + r < dDim d 1 then min (dTcols d) (dDim d 0 - gc * dTcols d) else 0

/-- First granule address and number of granules of a tile row. -/
def rowGrans (d : BitVec 512) (t r : Nat) : Nat × Nat :=
  let n := rowElems d t r
  let a := tileAddr d t r 0
  if n = 0 then (a / 32 * 32, 0) else (a / 32 * 32, (a + dSize d * n - 1) / 32 - a / 32 + 1)

/-- Change the entry with a number in a queue. -/
def modEntry (q id : Nat) (f : QEntry → QEntry) (b : Bead) : Bead :=
  modQueue q (fun k => { k with ents := modFirst (fun e => e.id == id && e.barrier == 0) f k.ents }) b

/-- The entry with a number. -/
def findEntry (b : Bead) (q id : Nat) : Option QEntry :=
  (queueOf b q).ents.find? fun e => e.id == id && e.barrier == 0

/-- A queue stops at its faulted head (R83, R134, R144): the record, the fault log (R133) and, for a transfer, the
issuing hart's TILE_RESUME_ROW (R177). [DEDUCED: log 31] -/
def stopQueue (o q : Nat) (e : QEntry) (code part addr : Nat) (s : State) : State :=
  let isTransfer := match e.insn with
    | .tld .. | .tst .. => true
    | _ => false
  let b := beadOf s o
  let b1 := modQueue q (fun k => { k with
    ents := modFirst (fun x => x.id == e.id && x.barrier == 0) (fun x => { x with st := .faulted }) k.ents
    stop := true
    xrec := { insn := e.word, code := BitVec.ofNat 6 code, hart := BitVec.ofNat 2 e.hart.val, part := BitVec.ofNat 16 part,
              addr := BitVec.ofNat 48 addr } }) b
  let b2 := if isTransfer && code != fcPoison
    then modHart e.hart.val (fun t => { t with resumeRow := BitVec.ofNat 6 part }) b1 else b1
  -- an enabled queue-fault interrupt wakes a hart in WFI (R71, R134)
  let b3 := upTo 4 (fun b h => modHart h (fun t =>
    if t.run = .wfi ∧ t.qfie then { t with run := .running } else t) b) b2
  let detail := e.word.toNat + code * 2 ^ 32 + part % 65536 * 2 ^ 38
  let s1 := countEv o 0x0E 1 (setBead o b3 s)
  if addr = 0 then recordAt 0x01 o detail s1 else recordAddr 0x01 o addr detail s1

/-- An INVALID_TARGET record of a bead (R683): the form of the address is 0 for a device address, 1 for a clasp word.
[DEDUCED: log 31] -/
def recordInvalid (o addr form : Nat) (s : State) : State :=
  recordAddr 0x17 o addr (o + form * 4096) s

/-- Rows of an entry are still on their way through an array (R216). -/
def rowsInFlight (b : Bead) (id : Nat) : Bool := (List.range 2).any fun a => (arrayOf b a).flight.any fun j => j.entry == id

/-- The head of a queue, if it has a fault to end with, stops the queue; a matrix entry only once the rows that have
entered are done (R216). -/
def settleHead (o q : Nat) (s : State) : State :=
  let k := queueOf (beadOf s o) q
  match k.ents with
  | e :: _ =>
    match e.bad with
    | some (code, part, addr) =>
      if k.stop || (q == 0 && rowsInFlight (beadOf s o) e.id) then s else stopQueue o q e code.toNat part.toNat addr.toNat s
    | none => s
  | [] => s

/-- A running entry meets a fault: it ends with it, at once where it is its queue's head. [DEDUCED: log 31] -/
def failEntry (o q id code part addr : Nat) (s : State) : State :=
  settleHead o q (modBead o (modEntry q id fun e =>
    { e with bad := some (BitVec.ofNat 6 code, BitVec.ofNat 16 part, BitVec.ofNat 48 addr) }) s)

/-- The barrier at the head of a queue. -/
def headBarrier (b : Bead) (q : Nat) : Option Nat :=
  match (queueOf b q).ents with
  | e :: _ => if e.barrier = 0 then none else some e.barrier
  | [] => none

/-- Every queue that holds a marker of a barrier has it at its head. -/
def barrierReady (b : Bead) (id : Nat) : Bool :=
  (List.range 4).all fun q =>
    headBarrier b q == some id || (queueOf b q).ents.all (fun e => e.barrier != id)

/-- Remove a barrier's markers and let the hart that it holds go on (R82, R137). -/
def dropBarrier (id : Nat) (b : Bead) : Bead :=
  let b1 := upTo 4 (fun b q => modQueue q (fun k => { k with ents := k.ents.filter fun e => e.barrier != id }) b) b
  upTo 4 (fun b h => modHart h (fun t => if t.hold = .qbar id then advance 4 t else t) b) b1

/-- Release the barriers whose markers have all come to the heads of their queues: at most one for each entry. -/
def releaseBarriers (b : Bead) : Bead :=
  upTo ((List.range 4).foldl (fun n q => n + (queueOf b q).ents.length) 0) (fun b _ =>
    match (List.range 4).findSome? (fun q => (headBarrier b q).filter (barrierReady b)) with
    | some id => dropBarrier id b
    | none => b) b

/-- The head of a queue is removed, and what waits behind it is looked at. -/
def popHead (o q : Nat) (s : State) : State :=
  let s1 := modBead o (fun b => releaseBarriers (modQueue q (fun k => { k with ents := k.ents.drop 1 }) b)) s
  upTo 4 (fun t k => settleHead o k t) s1

/-- The entry of a queue that may start next: the first that waits, with no marker ahead of it, in a queue that is not
stopped (R80, R82, R83); an S-queue entry only at the head (R80). -/
def nextToStart (b : Bead) (q : Nat) : Option QEntry :=
  let k := queueOf b q
  if k.stop then none
  else
    match k.ents.dropWhile (fun e => e.barrier == 0 && e.st == .started && e.bad.isNone) with
    | e :: _ => if e.barrier = 0 ∧ e.st = .waiting ∧ (q ≠ 3 ∨ (k.ents.head?.map (·.id)) = some e.id) then some e else none
    | [] => none

/-- The head of a queue, where it is a started instruction without a fault to end with. -/
def runningHead (b : Bead) (q : Nat) : Option QEntry :=
  let k := queueOf b q
  if k.stop then none
  else
    match k.ents with
    | e :: _ => if e.barrier = 0 ∧ e.st = .started ∧ e.bad = none then some e else none
    | [] => none

/-- A tile register emptied, its poison marks cleared (R160). -/
def emptyTile (t : Nat) (b : Bead) : Bead := setTile t {} b
/-- A list of tile registers emptied. -/
def emptyTiles (l : List Nat) (b : Bead) : Bead := l.foldl (fun b t => emptyTile t b) b
/-- An accumulator emptied (R214). -/
def emptyAcc (k : Nat) (b : Bead) : Bead := setAcc k {} b

/-- The element of a tile register. -/
def tileElem (t : Tile) (r c : Nat) : Half := tblGet 0 t.elems (64 * r + c)

/-- A row of a tile register written, its poison mark set or cleared (R162). -/
def setTileRow (t r : Nat) (elems : List Half) (poison : Bool) (b : Bead) : Bead :=
  modTile t (fun k => { k with
    elems := upTo 64 (fun es c => tblSet 0 es (64 * r + c) (nth 0 elems c)) k.elems
    poison := if poison then k.poison ||| BitVec.ofNat 64 (2 ^ r) else k.poison &&& ~~~ BitVec.ofNat 64 (2 ^ r) }) b

/-- A row of a tile register. -/
def tileRow (t : Tile) (r : Nat) : List Half := (List.range 64).map (tileElem t r)

/-- Whether a row's poison mark is set. -/
def rowPoison (t : Tile) (r : Nat) : Bool := bitOf t.poison.toNat r

end Sys2Proof.Machine
end

