-- ==== Sys2Proof/Machine/Clasps.lean ====
section
/-! DEFINITION. Clasps (chapter 13). -/

namespace Sys2Proof.Machine

/-- The key of a clasp: beads, then clusters, then the module (R439). -/
def claspKey (c : ClaspId) : Nat :=
  match c with
  | .bead o i => o.val * 64 + i.val
  | .cluster c i => 65536 + c.val * 256 + i.val
  | .module i => 131072 + i.val

/-- The clasp address word of a key, as the fault log gives it (R96). -/
def claspWordOf (k : Nat) : Nat :=
  if k < 65536 then k % 64 + 0x1000 + k / 64 * 16384
  else if k < 131072 then k % 256 + 0x2000 + (k - 65536) / 256 * 32 * 16384
  else (k - 131072) + 0x3000

/-- The counter block of a clasp's holder. -/
def claspBlk (k : Nat) : Nat :=
  if k < 65536 then k / 64 else if k < 131072 then blkXbar ((k - 65536) / 256) else blkLocket

/-- Counter codes of an increment, a take and a refusal at the holder (R664, R665). -/
def claspIncrCode (k : Nat) : Nat := if k < 65536 then 0x19 else if k < 131072 then 0x04 else 0x05
def claspTakeCode (k : Nat) : Nat := if k < 65536 then 0 else if k < 131072 then 0x05 else 0x06
def claspRefuseCode (k : Nat) : Nat := if k < 65536 then 0x1B else if k < 131072 then 0x07 else 0

def claspCount (s : State) (k : Nat) : Nat := (tblGet 0 s.clasps.count k).toNat
def setClasp (k n : Nat) (s : State) : State :=
  { s with clasps := { s.clasps with count := tblSet 0 s.clasps.count k (BitVec.ofNat 16 n) } }

/-- An increment fits (R443). -/
def claspFits (s : State) (k n : Nat) : Bool := decide (claspCount s k + n ≤ 65535)

/-- An increment that fits is applied and counted. -/
def claspAdd (k n : Nat) (s : State) : State := countEv (claspBlk k) (claspIncrCode k) 1 (setClasp k (claspCount s k + n) s)

/-- A refused SIGNAL is counted and recorded by the holder (R448). [DEDUCED: log 80] -/
def claspRefuse (k word node mod op : Nat) (s : State) : State :=
  let s1 : State := { s with clasps := { s.clasps with refused := satInc s.clasps.refused } }
  recordFault { cls := 0x0D, source := BitVec.ofNat 12 (claspBlk k), addrV := true, addr := BitVec.ofNat 48 word,
                module := BitVec.ofNat 4 mod, detail := BitVec.ofNat 64 (node + 4096 * mod + 65536 * op) }
    (countEv (claspBlk k) (claspRefuseCode k) 1 s1)

/-- The places of R446 in a ck: increments by the port they come in at, then takes in the same order, then a management
write. A port is 0 for the fabric, 1 and up for the bead positions of a crossbar, 16 and up for the strands, and 32 for
the bead's own S-queue. -/
def rankAdd (port : Nat) : Nat := port
def rankTake (port : Nat) : Nat := 64 + port
def rankSet : Nat := 128
def portOwn : Nat := 32

/-- An operation takes its place among those of the ck, behind those of the same rank. [DESIGN CHOICE: log 14] -/
def insertAct (a : ClaspAct) (l : List ClaspAct) : List ClaspAct :=
  match l with
  | [] => [a]
  | x :: r => if a.rank < x.rank then a :: x :: r else x :: insertAct a r

/-- An operation reaches a clasp (R446). -/
def claspReach (k rank : Nat) (what : ClaspDo) (s : State) : State :=
  { s with clasps := { s.clasps with acts := insertAct ⟨k, rank, what⟩ s.clasps.acts } }

/-- The end of a strand of bead `o` signals an own clasp (R377). -/
def claspSignal (o n k : Nat) (s : State) : State :=
  claspReach k (rankAdd (16 + n)) (.add 1 (claspWordOf k) (nodeBead o)) s

def waitersOf (s : State) (k : Nat) : List Waiter := tblGet [] s.clasps.waiters k
def setWaiters (k : Nat) (l : List Waiter) (s : State) : State :=
  { s with clasps := { s.clasps with waiters := tblSet [] s.clasps.waiters k l } }

/-- The boundaries that a wait with TIMEOUT = T lets pass; none without a timeout (R450). A wait that begins in ck 0 does not
count the boundary that opened that tick, so T boundaries follow in either case. -/
def waitDue (t : Nat) : Option Nat := if t = 0 then none else some t

/-- A waiter joins a clasp (R445). -/
def claspWait (k n t : Nat) (w : WaitBy) (s : State) : State :=
  setWaiters k (waitersOf s k ++ [⟨BitVec.ofNat 16 n, waitDue t, w⟩]) s

/-- The outcome of a take or a wait goes to who asked (R448, R449): 0 OK, 1 CLASP_UNDER, 2 CLASP_TIMEOUT, 3 TARGET_DOWN. -/
def claspAnswer (k : Nat) (w : WaitBy) (st : Nat) (s : State) : State :=
  match w with
  | .own o id =>
    if st = 0 then modBead o.val (modEntry 3 id fun e => { e with fin := 1 }) s
    else failEntry o.val 3 id (if st = 1 then fcClaspUnder else fcClaspTimeout) 0 0 s
  | .node n tag =>
    let from_ : Nat := if k < 131072 then nodeXbar ((k - 65536) / 256) else nodeLocket
    let m : Msg := { msg0 with
      dst := n, src := node from_, op := opAck, tag := tag, status := BitVec.ofNat 16 (256 * st), stream := 1 }
    match ordOfPos n.val with
    | some o =>
      if n.val < 1152 ∧ k < 131072 ∧ clusterOf o = (k - 65536) / 256 then setArrivals n.val (arrivals s n.val ++ [m]) s
      else sendMsg m s
    | none => sendMsg m s

/-- A take is applied by its holder (R444). -/
def claspTake (k n : Nat) (w : WaitBy) (s : State) : State :=
  if n ≤ claspCount s k then
    claspAnswer k w 0 (countEv (claspBlk k) (claspTakeCode k) 1 (setClasp k (claspCount s k - n) s))
  else claspAnswer k w 1 (countEv (claspBlk k) (claspRefuseCode k) 1 s)

/-- The clasp address word that a SIGNAL carries beside the operation (R96, R449). [DEDUCED: log 80] -/
def claspWordIn (m : Msg) : Nat := bitsOf m.aux0.toNat 0 29

/-- A remote signal reaches its holder from the receiving port (R448, R457): CMASK carries the sending node, module, tag
and tick. One applied in a later tick than it was sent in is added to the snapshot copy as well; a refused one is
recorded, and the refusal goes back. [DEDUCED: log 80] -/
def remoteSignal (k cnt : Nat) (m : Msg) (s : State) : State :=
  let w := m.cmask.toNat
  if claspFits s k cnt then
    let s1 := claspAdd k cnt s
    if 0 < (BitVec.ofNat 32 s.clock.tick.toNat - BitVec.ofNat 32 (bitsOf w 26 32)).toInt then
      { s1 with clasps := { s1.clasps with
          snap := tblMod 0 s1.clasps.snap k (fun v => v + BitVec.ofNat 16 cnt)
          late := satInc s1.clasps.late } }
    else s1
  else
    sendMsg { msg0 with
      dst := m.src, src := m.dst, op := opAck, addr := m.addr, status := BitVec.ofNat 16 (256 * 5), tag := 1023
      cmask := m.cmask, stream := respStream m.dst } (claspRefuse k (claspWordIn m) (bitsOf w 0 12) (bitsOf w 12 4) 0 s)

/-- A management write of COUNT (R461): the count, the snapshot copy, the record, the interrupt source and the count of
such writes. -/
def clpWrite (k n : Nat) (s : State) : State :=
  let old := claspCount s k
  let s1 := setClasp k n s
  let s2 : State := { s1 with clasps := { s1.clasps with
    snap := tblSet 0 s1.clasps.snap k (BitVec.ofNat 16 n)
    mgmtWrite := satInc s1.clasps.mgmtWrite } }
  hubRaiseBy (claspBlk k) 132 (recordAddr 0x0C (claspBlk k) (claspWordOf k) (old + n * 65536 + 2 ^ 32) s2)

/-- An operation is applied by its clasp's holder (R443, R444, R448, R461). -/
def applyAct (a : ClaspAct) (s : State) : State :=
  match a.what with
  | .add n word node => if claspFits s a.key n then claspAdd a.key n s else claspRefuse a.key word node 0 0 s
  | .remote n m => remoteSignal a.key n m s
  | .own n o id =>
    if claspFits s a.key n then modBead o.val (modEntry 3 id fun e => { e with fin := 1 }) (claspAdd a.key n s)
    else failEntry o.val 3 id fcClaspOver 0 0 (countEv (claspBlk a.key) (claspRefuseCode a.key) 1 s)
  | .take n w => claspTake a.key n w s
  | .set n => clpWrite a.key n s

/-- The operations of the ck that `p` picks are applied in their order and are done; the others wait.
[DESIGN CHOICE: log 14] -/
def applyActs (p : ClaspAct → Bool) (s : State) : State :=
  (s.clasps.acts.filter p).foldl (fun t a => applyAct a t)
    { s with clasps := { s.clasps with acts := s.clasps.acts.filter fun a => !p a } }

/-- Steps 1 and 2 of R446 at a clasp. -/
def claspSteps (k : Nat) (s : State) : State := applyActs (fun a => a.key == k && decide (a.rank < rankSet)) s

/-- The oldest waiter of a clasp is satisfied (R445). -/
def claspSatisfied (s : State) (k : Nat) : Bool :=
  match waitersOf s k with
  | w :: _ => decide (w.n.toNat ≤ claspCount s k)
  | [] => false

/-- Its N is subtracted and it is answered. -/
def claspGrant (k : Nat) (s : State) : State :=
  match waitersOf s k with
  | w :: rest =>
    let s1 := setWaiters k rest (setClasp k (claspCount s k - w.n.toNat) s)
    claspAnswer k w.by_ 0 (countEv (claspBlk k) (if 131072 ≤ k then 0x06 else 0) 1 s1)
  | [] => s

/-- CLASP_WAITER_SATISFIED (R445): step 3 of R446, behind what has reached the clasp in this ck. -/
def execClaspWaiterSatisfied (c : ClaspId) (s : State) : Host.Outcome State Fault Refusal :=
  let t := claspSteps (claspKey c) s
  whenOk s (mainUp s && claspSatisfied t (claspKey c)) (claspGrant (claspKey c) t)

/-- The timeout of a waiter has come: its last boundary has passed (R450). -/
def waitOver (w : Waiter) : Bool := w.due == some 0

/-- Some waiter of a clasp has timed out. -/
def claspExpired (s : State) (k : Nat) : Bool := (waitersOf s k).any waitOver

/-- Step 4 of R446: every waiter of a clasp whose timeout has come ends, the clasp unchanged (R450). -/
def claspTimeouts (k : Nat) (s : State) : State :=
  ((waitersOf s k).filter waitOver).foldl (fun t w => claspAnswer k w.by_ 2 t)
    (setWaiters k ((waitersOf s k).filter fun w => !waitOver w) s)

/-- CLASP_WAIT_TIMEOUT (R446, R450, R451): the waiters whose timeout has come and that step 3 left unsatisfied end together.
[DESIGN CHOICE: log 25] -/
def execClaspWaitTimeout (c : ClaspId) (s : State) : Host.Outcome State Fault Refusal :=
  let t := claspSteps (claspKey c) s
  whenOk s (mainUp s && claspExpired t (claspKey c) && !claspSatisfied t (claspKey c)) (claspTimeouts (claspKey c) t)

/-- Every wait with a timeout counts a boundary (R450). -/
def countWaits (s : State) : State :=
  { s with clasps := { s.clasps with
      waiters := s.clasps.waiters.map fun p => (p.1, p.2.map fun w => { w with due := w.due.map (· - 1) }) } }

/-- A clasp's waiters at the end of ck 0: steps 3 and 4 of R446 where a timeout has come. -/
def claspSweep (k : Nat) (s : State) : State :=
  if claspExpired s k then
    claspTimeouts k (upTo (waitersOf s k).length (fun t _ => if claspSatisfied t k then claspGrant k t else t) s)
  else s

/-- The timeouts of ck 0 are evaluated by its end (R450). [DESIGN CHOICE: log 25] -/
def endWaits (s : State) : State := s.clasps.waiters.foldl (fun t p => claspSweep p.1 t) s

/-- The end of a ck at the clasps: steps 1 and 2 of R446 at each, in ck 0 the timeouts of steps 3 and 4, and step 5: waiters
look at a count that the management port has set in the next ck (R461). [DESIGN CHOICE: log 14] -/
def claspCk (s : State) : State :=
  let s1 := applyActs (fun a => decide (a.rank < rankSet)) s
  applyActs (fun _ => true) (if s.clock.ck = 0 then endWaits s1 else s1)

/-- The clasp that CLP_SEL names, where it exists (R459, R460). -/
def clpKey (s : State) : Option Nat :=
  let v := s.clasps.sel.toNat
  let i := bitsOf v 0 12
  let o := bitsOf v 14 10
  match bitsOf v 12 2 with
  | 0 => if i < 64 ∧ ordLive s o then some (o * 64 + i) else none
  | 2 => if i < 256 then some (65536 + clusterOf o * 256 + i) else none
  | 3 => some (131072 + i)
  | _ => none

/-- CLP_VALUE as it reads (R460). -/
def clpValue (s : State) : Word :=
  match clpKey s with
  | some k =>
    let chk := (tblGet 0 s.clasps.check k).toNat
    BitVec.ofNat 64 (claspCount s k + bitsOf chk 0 16 * 65536 + b2n (bitOf chk 16) * 2 ^ 32 +
      b2n (!(waitersOf s k).isEmpty) * 2 ^ 33 + 2 ^ 34)
  | none => 0

/-- CLP_SEL names a clasp of a bead whose ordinal no bead answers: a read of CLP_VALUE, or a write by the management port,
names an invalid target (R683). -/
def clpGone (s : State) : Bool :=
  let v := s.clasps.sel.toNat
  bitsOf v 12 2 == 0 && decide (bitsOf v 0 12 < 64) && !ordLive s (bitsOf v 14 10)

/-- The record of a control-window access to a register of a position that no bead answers for (R683). -/
def recordGone (off : Nat) (s : State) : State := recordAddr 0x17 blkLocket off (3 * 4096) s

/-- CLP_VALUE_WRITE (R460, R461): only the management port's write acts; the high half has no writable field; one
that names a bead that no position answers for is recorded (R683). -/
def clpValueDo (m : Master) (w : Width) (v : Word) (s : State) : State :=
  if m = .mgmt then
    match clpKey s with
    | some k => if w = .high then s else claspReach k rankSet (.set (bitsOf v.toNat 0 16)) s
    | none => if clpGone s then recordGone offClpValue s else s
  else s

def execClpValueWrite (m : Master) (w : Width) (v : Word) (s : State) : Host.Outcome State Fault Refusal :=
  .next (regWriteRow m offClpValue (clpValueDo m w v) s)

/-- CLP_STAT as it reads (R462). -/
def clpStat (c : Clasps) : Word :=
  BitVec.ofNat 64 (c.mismatch.toNat + c.mgmtWrite.toNat * 2 ^ 16 + c.late.toNat * 2 ^ 32 + c.refused.toNat * 2 ^ 48)

/-- CLP_STAT after a read. -/
def clpStatClear (w : Width) (s : State) : State :=
  { s with clasps := { s.clasps with
      mismatch := rc w 15 0 s.clasps.mismatch 0
      mgmtWrite := rc w 31 16 s.clasps.mgmtWrite 0
      late := rc w 47 32 s.clasps.late 0
      refused := rc w 63 48 s.clasps.refused 0 } }

/-- CLP_STAT_READ (R462). -/
def execClpStatRead (w : Width) (s : State) : Host.Outcome State Fault Refusal :=
  .next (regReadRow 0x060010 w (clpStat s.clasps) (clpStatClear w) s)

/-- The key that a SIGNAL's address word names at its holder's node. -/
def signalKey (n : Nat) (word : Nat) : Nat :=
  let i := bitsOf word 0 12
  if n < 1152 then (match ordOfPos n with | some o => o * 64 + i % 64 | none => 0)
  else if n = nodeLocket then 131072 + i
  else 65536 + (n - 0x830) * 256 + i % 256

/-- The port of a holder at which a SIGNAL comes in: a cluster's crossbar has one for each bead position beside the
fabric's (R446, R447). -/
def claspPort (n : Nat) (m : Msg) (s : State) : Nat :=
  match ordOfPos m.src.val with
  | some o => if 0x830 ≤ n ∧ m.src.val < 1152 ∧ n - 0x830 = clusterOf o then 1 + m.src.val % 9 else 0
  | none => 0

/-- A SIGNAL reaches a holder: increment, take or wait by AUX0[30:29] (R449). -/
def signalAct (n : Nat) (m : Msg) (s : State) : State :=
  let k := signalKey n m.aux0.toNat
  let cnt := bitsOf m.aux1.toNat 0 16
  let port := claspPort n m s
  match bitsOf m.aux0.toNat 29 2 with
  | 0 =>
    claspReach k (rankAdd port)
      (if 0x810 ≤ m.src.val ∧ m.src.val < 0x820 then .remote cnt m else .add cnt (claspWordIn m) m.src.val) s
  | 1 => claspReach k (rankTake port) (.take cnt (.node m.src m.tag)) s
  | _ => claspWait k cnt (bitsOf m.aux1.toNat 16 16) (.node m.src m.tag) s

/-- Checks at a boundary (R453 to R455): every CHECKED clasp that differs from EXPECT is set to it; a mismatch is recorded
unless `quiet`. -/
def claspChecks (quiet : Bool) (s : State) : State :=
  s.clasps.check.foldl (fun t p =>
    let expect := bitsOf p.2.toNat 0 16
    if bitOf p.2.toNat 16 ∧ claspCount t p.1 ≠ expect then
      let found := claspCount t p.1
      let t1 := setClasp p.1 expect t
      if quiet then t1
      else
        let t2 : State := { t1 with clasps := { t1.clasps with mismatch := satInc t1.clasps.mismatch } }
        hubRaiseBy (claspBlk p.1) 131 (recordAddr 0x0B (claspBlk p.1) (claspWordOf p.1) (found + expect * 65536) t2)
    else t) s

/-- The snapshot of every clasp (R456). -/
def claspSnap (s : State) : State := { s with clasps := { s.clasps with snap := s.clasps.count } }

/-- A hold tick restores every clasp and discards every waiter (R456). -/
def claspRestore (s : State) : State := { s with clasps := { s.clasps with count := s.clasps.snap, waiters := [] } }

end Sys2Proof.Machine
end

