-- ==== Sys2Proof/Machine/Mmu.lean ====
section
/-! DEFINITION. The facet MMU: table walks, permissions, cached translations (chapter 9). -/

namespace Sys2Proof.Machine

/-- The entry of a table in a bank of a facet's translation store (R320). -/
def tsEntry (bank : Tbl Word) (facet table idx : Nat) : Nat :=
  (tblGet 0 bank (facet * 524288 + table * 512 + idx)).toNat

/-- The fields of a translation-store entry (R322). -/
def teValid (e : Nat) : Bool := bitOf e 0
def teLeaf (e : Nat) : Bool := bitOf e 1
def teRd (e : Nat) : Bool := bitOf e 2
def teWr (e : Nat) : Bool := bitOf e 3
def teNc (e : Nat) : Bool := bitOf e 4
def teReserved (e : Nat) : Bool := decide (bitsOf e 5 7 ≠ 0) || decide (bitsOf e 48 16 ≠ 0)

/-- A walk from a table at level `lv` (R321, R323); none for a translation failure. -/
def walkFrom (bank : Tbl Word) (facet dev : Nat) (lv table : Nat) : Option TlbEntry :=
  let e := tsEntry bank facet table (bitsOf dev (12 + 9 * lv) 9)
  if !teValid e || teReserved e then none
  else if teLeaf e then
    if lv = 3 ∨ bitsOf e 12 (9 * lv) ≠ 0 then none
    else some { vpn := dev / 2 ^ (12 + 9 * lv), bits := 12 + 9 * lv, ppn := bitsOf e (12 + 9 * lv) (36 - 9 * lv),
                rd := teRd e, wr := teWr e, nc := teNc e }
  else
    match lv with
    | 0 => none
    | k + 1 => if bitsOf e 22 26 ≠ 0 then none else walkFrom bank facet dev k (bitsOf e 12 10)

/-- The walk of a device address through the active bank of a facet (R320, R321). -/
def walkDev (s : State) (facet dev : Nat) : Option TlbEntry := walkFrom s.mmu.active facet dev 3 0

/-- The physical address that a translation gives. -/
def physOf (e : TlbEntry) (dev : Nat) : Nat := e.ppn * 2 ^ e.bits + dev % 2 ^ e.bits

/-- Whether a translation covers a device address. -/
def covers (e : TlbEntry) (dev : Nat) : Bool := dev / 2 ^ e.bits == e.vpn

/-- The kinds of access that R324 tells apart. -/
inductive Access where
  | read | lr | write | sc | amo
  deriving DecidableEq, Repr

/-- How a translated access comes out. -/
inductive Xlat where
  | ok (phys : Nat) (nc : Bool)
  /-- A translation failure (R323). -/
  | page
  /-- A permission failure (R324). -/
  | prot
  /-- A target that no bead answers (R683). -/
  | invalid
  deriving DecidableEq, Repr

/-- The rights that a leaf gives an access (R324). -/
def rightsOk (a : Access) (e : TlbEntry) : Bool :=
  match a with
  | .read | .lr => e.rd
  | .write | .sc => e.wr
  | .amo => e.rd && e.wr

/-- Whether an access is atomic: it may reach only slices (R48). -/
def isAtomic (a : Access) : Bool :=
  match a with
  | .lr | .sc | .amo => true
  | .read | .write => false

/-- The permission check on a translated address (R313, R324, R329, R683). -/
def checkPhys (s : State) (a : Access) (e : TlbEntry) (phys : Nat) : Xlat :=
  if !rightsOk a e then .prot
  else
    match placeOf s.mem.splitNow.toNat phys with
    | .reserved | .frag _ _ | .control _ => .prot
    | .slice _ _ => .ok phys e.nc
    | .dmem o _ | .imem o _ => if isAtomic a then .prot else if bitOf s.nutas.reach.toNat o then .ok phys e.nc else .invalid
    | .stack _ _ => if isAtomic a then .prot else .ok phys e.nc
    -- a write through a READONLY window (R329)
    | .board w _ => if isAtomic a || (a == .write && (tblGet {} s.mmu.win w).readOnly) then .prot else .ok phys e.nc

/-- A device address through a walk of the active bank, with the check: what a chain port and STR.GO use (R319, R344). -/
def translate (s : State) (facet : Nat) (a : Access) (dev : Nat) : Xlat :=
  match walkDev s facet dev with
  | none => .page
  | some e => checkPhys s a e (physOf e dev)

/-- The translation of a device address in a list of translations. -/
def xlFind (l : List TlbEntry) (dev : Nat) : Option TlbEntry := l.find? fun e => covers e dev

/-- The cached translation of a device address in a bead's micro-TLB (R327). -/
def tlbFind (b : Bead) (dev : Nat) : Option TlbEntry := xlFind b.tlb dev

/-- A use of a translation makes it the most recent. -/
def tlbUse (dev : Nat) (b : Bead) : Bead :=
  match tlbFind b dev with
  | none => b
  | some e => { b with tlb := e :: b.tlb.filter fun x => x != e }

/-- A translation joins the micro-TLB of 32; the least recently used one leaves (R327). -/
def tlbAdd (e : TlbEntry) (b : Bead) : Bead :=
  { b with tlb := (e :: b.tlb.filter fun x => x.vpn != e.vpn || x.bits != e.bits).take 32 }

/-- Through the micro-TLB: none where a walk is needed. -/
def tlbTranslate (s : State) (o : Nat) (a : Access) (dev : Nat) : Option Xlat :=
  (tlbFind (beadOf s o) dev).map fun e => checkPhys s a e (physOf e dev)

/-- The access of a request. -/
def reqAccess (r : Req) : Access :=
  match r.kind with
  | .read => .read
  | .write => .write
  | .part => .write
  | .atomic =>
    -- mask word 0 holds funct5: LR, SC or an AMO
    if nth 0 r.mask 0 = 2 then .lr else if nth 0 r.mask 0 = 3 then .sc else .amo

/-- The device addresses of a request, source then destination, in order. -/
def reqDevs (r : Req) : List (Nat × Access) :=
  (List.range r.n).map (fun i => (r.dev + 32 * i, reqAccess r)) ++
  (if r.copy then (List.range r.n).map (fun i => (r.dstDev + 32 * i, Access.write)) else [])

/-- The device addresses of a request that the MMU translates: those in the bead's own data memory are none of them
(R319). -/
def xlatDevs (o : Nat) (r : Req) : List (Nat × Access) := (reqDevs r).filter fun p => !inOwnDmem o p.1

/-- The translations that serve a request: its own, then those of the micro-TLB (R326, R327). -/
def reqXl (b : Bead) (r : Req) : List TlbEntry := r.xl ++ b.tlb

/-- A request of a hart. -/
def isHartReq (r : Req) : Bool :=
  match r.owner with
  | .hartLoad _ | .hartStore _ | .hartAtomic _ => true
  | _ => false

/-- The check of a translated address of a request: no hart reaches an instruction memory (R64).
[DEDUCED: log 83] -/
def checkReq (s : State) (r : Req) (a : Access) (e : TlbEntry) (phys : Nat) : Xlat :=
  match checkPhys s a e phys, placeOf s.mem.splitNow.toNat phys with
  | .ok _ _, .imem _ _ => if isHartReq r then .prot else .ok phys e.nc
  | x, _ => x

/-- The first granule, in order, at which a request cannot go on (R174, R177): its device address, with the failure, or
none where a walk is needed. -/
def firstStop (s : State) (o : Nat) (r : Req) : Option (Nat × Option Xlat) :=
  (xlatDevs o r).findSome? fun p =>
    if inOwnWindow o p.1 then some (p.1, some .prot)
    else
      match xlFind (reqXl (beadOf s o) r) p.1 with
      | none => some (p.1, none)
      | some e =>
        match checkReq s r p.2 e (physOf e p.1) with
        | .ok _ _ => none
        | x => some (p.1, some x)

/-- The device address whose page a request must have walked. -/
def firstMiss (s : State) (o : Nat) (r : Req) : Option Nat :=
  (firstStop s o r).bind fun p => if p.2.isNone then some p.1 else none

/-- The physical address of a device address of a request: in own data memory they are the same (R312). -/
def reqPhys (s : State) (o : Nat) (r : Req) (dev : Nat) : Nat :=
  if inOwnDmem o dev then dev
  else
    match xlFind (reqXl (beadOf s o) r) dev with
    | some e => physOf e dev
    | none => 0

/-- Whether the leaf of an address forbids allocation in the L1 (R322). -/
def reqNc (s : State) (o : Nat) (r : Req) (dev : Nat) : Bool :=
  (xlFind (reqXl (beadOf s o) r) dev).any (·.nc)

end Sys2Proof.Machine
end

