-- ==== Sys2Proof/Machine/Strands.lean ====
section
/-! DEFINITION. Strands: descriptors, runs, start and end, the row sort (chapter 10). -/

namespace Sys2Proof.Machine

/-- Fields of a strand descriptor (R341). -/
def sdSrc (d : BitVec 512) : Nat := dF d 0 48
def sdTarget (d : BitVec 512) : Nat := dF d 48 3
def sdPrio (d : BitVec 512) : Nat := dF d 51 2
def sdWatch (d : BitVec 512) : Bool := dF d 53 1 == 1
def sdGather (d : BitVec 512) : Bool := dF d 54 1 == 1
def sdSort (d : BitVec 512) : Bool := dF d 55 1 == 1
def sdRunlen (d : BitVec 512) : Nat := dF d 56 4
def sdSel (d : BitVec 512) : Bool := dF d 60 1 == 1
def sdDst (d : BitVec 512) : Nat := dF d 64 48
def sdDepth (d : BitVec 512) : Nat := dF d 112 7
def sdBatch (d : BitVec 512) : Nat := dF d 120 7
/-- A signed 32-bit stride. -/
def sdStride (d : BitVec 512) (lo : Nat) : Int := (BitVec.ofNat 32 (dF d lo 32)).toInt
def sdCnt (d : BitVec 512) (k : Nat) : Nat := dF d (320 + 24 * k) 24
def sdPave (d : BitVec 512) : Nat := dF d 392 9
def sdPermoff (d : BitVec 512) : Nat := dF d 416 20
def sdStatoff (d : BitVec 512) : Nat := dF d 440 20
def sdClasp (d : BitVec 512) : Nat := dF d 464 6
def sdClv (d : BitVec 512) : Bool := dF d 470 1 == 1
/-- Runs of a strand (R346). -/
def sdRuns (d : BitVec 512) : Nat := sdCnt d 0 * sdCnt d 1 * sdCnt d 2

/-- Some reserved field of a strand descriptor is not zero. -/
def sdReserved (d : BitVec 512) : Bool :=
  decide (dF d 61 3 ≠ 0) || decide (dF d 119 1 ≠ 0) || decide (dF d 127 1 ≠ 0) || decide (dF d 401 15 ≠ 0) ||
  decide (dF d 436 4 ≠ 0) || decide (dF d 460 4 ≠ 0) || decide (dF d 471 41 ≠ 0)

/-- An address moved by a signed number of granules, within 48 bits. -/
def moveAddr (a : Nat) (g : Int) : Nat := (((a : Int) + 32 * g) % (2 ^ 48 : Int)).toNat

/-- Source address of run `k`, without GATHER (R346). -/
def runSrc (d : BitVec 512) (k : Nat) : Nat :=
  let i1 := k % sdCnt d 0
  let i2 := k / sdCnt d 0 % sdCnt d 1
  let i3 := k / (sdCnt d 0 * sdCnt d 1)
  moveAddr (sdSrc d) (i1 * sdStride d 128 + i2 * sdStride d 160 + i3 * sdStride d 192)

/-- Destination address of run `k` (R346). -/
def runDst (d : BitVec 512) (k : Nat) : Nat :=
  let i1 := k % sdCnt d 0
  let i2 := k / sdCnt d 0 % sdCnt d 1
  let i3 := k / (sdCnt d 0 * sdCnt d 1)
  moveAddr (sdDst d) (i1 * sdStride d 224 + i2 * sdStride d 256 + i3 * sdStride d 288)

/-- The 64 bytes at a 32-byte-aligned offset of a bead's data memory, and whether either granule is bad. -/
def dmemPair (s : State) (o g : Nat) : BitVec 512 × Bool :=
  let a := dmemGet s o g
  let b := dmemGet s o (g + 1)
  (BitVec.ofNat 512 ((goodData a).toNat + 2 ^ 256 * (goodData b).toNat), isBad a || isBad b)

/-- The form checks of R343, R352 aside: BAD_HANDLE when one fails. -/
def strandForm (o : Nat) (d : BitVec 512) : Bool :=
  !sdReserved d && decide (sdTarget d < 4) && decide (1 ≤ sdRunlen d) && decide (sdRunlen d ≤ 8) &&
  decide (1 ≤ sdDepth d) && decide (sdDepth d ≤ 64) && decide (sdRunlen d ≤ sdDepth d) &&
  decide (sdSrc d % 32 = 0) && (sdTarget d == 0 || decide (sdDst d % 32 = 0)) &&
  (!sdSort d || sdGather d) && (!sdSort d || (decide (1 ≤ sdBatch d) && decide (sdBatch d ≤ 64))) &&
  !(sdWatch d && sdGather d) && decide (sdPermoff d % 32 = 0) && decide (sdStatoff d % 8 = 0) &&
  decide (sdPermoff d < 0xC0000) && decide (sdStatoff d < 0xC0000) &&
  (sdTarget d != 1 || inOwnDmem o (sdDst d))

/-- A MEM_PART record of a failed part (R340, R684). [DEDUCED: log 83] -/
def recordPart (src phys pm cls node : Nat) (prior : Bool) (s : State) : State :=
  recordFault { cls := 0x02, source := BitVec.ofNat 12 src, addrV := true, addr := BitVec.ofNat 48 phys, prior := prior,
                detail := BitVec.ofNat 64 (pm + 256 * cls + 4096 * node) } s

/-- A granule of a bead's own data memory is read: counted, and recorded where it is lost (R393, R401). -/
def lookOwn (o g : Nat) (s : State) : State :=
  let c := dmemGet s o g
  let s1 := countLook o c s
  if (decodeCode c).1 = .uncorr then recordPart o (beadPhys o (32 * g)) 1 1 (nodeBead o) false s1 else s1

/-- `n` granules of a bead's own data memory are read. -/
def lookOwns (o g n : Nat) (s : State) : State := upTo n (fun t i => lookOwn o (g + i) t) s

/-- A granule written in a bead's data memory with a byte mask; a merge that fails is recorded (R338, R392). -/
def dmemStore (o g : Nat) (c : Code) (mask : Word32) (src : Nat) (s : State) : State :=
  if mask = BitVec.allOnes 32 then dmemPut o g (passOn c) s
  else
    let r := mergeWrite (dmemGet s o g) (goodData c) mask
    let s1 := dmemPut o g (if isBad c then poisonCode else r.1) (countLook o (dmemGet s o g) s)
    if r.2 = 0 then s1 else recordPart o (beadPhys o (32 * g)) 1 r.2 src false s1

/-- Bytes written into a bead's data memory; a granule in part is merged under R392. -/
def dmemWrite (o off : Nat) (l : List Byte) (s : State) : State :=
  let first := off / 32
  let last := (off + l.length + 31) / 32
  upTo (last - first) (fun t i =>
    let g := first + i
    let lo := g * 32
    let sel (j : Nat) : Bool := decide (off ≤ lo + j) && decide (lo + j < off + l.length)
    let mask := BitVec.ofNat 32 ((List.range 32).foldl (fun a j => a + (if sel j then 2 ^ j else 0)) 0)
    let new := granOf ((List.range 32).map fun j => if sel j then nth 0 l (lo + j - off) else 0)
    dmemStore o g (encodeGran new) mask (nodeBead o) t) s

/-- The watch entries of a strand freed in every bezel (R372). -/
def freeWatch (o n : Nat) (s : State) : State :=
  upTo 16 (fun t z =>
    if (bezelOf t z).watch.any (fun w => w.bead.val == o && w.strand.val == n) then
      { t with bezels := tblMod {} t.bezels z fun b =>
          { b with watch := b.watch.filter fun w => !(w.bead.val == o && w.strand.val == n) } }
    else t) s

/-- The status word of a strand (R377). -/
def strandStatus (k : Strand) (code : Nat) (stopped : Bool) : Nat :=
  k.consumed % 2 ^ 32 + code * 2 ^ 32 + b2n stopped * 2 ^ 40 + 2 ^ 41 + min 65535 k.voids * 2 ^ 48

/-- A request of a strand's runs or index entries. -/
def strandReqOf (n : Nat) (r : Req) : Bool :=
  match r.owner with
  | .run m _ => m.val == n
  | .index m _ => m.val == n
  | _ => false

/-- A request that nobody waits for any more keeps its slot until it is answered. -/
def abandon (r : Req) : Req :=
  { r with
    owner := match r.owner with
      | .sent _ u m => .sent 0 u m
      | _ => .abandoned
    watch := false, copy := false, stale := false, staleAt := 0, again := false }

/-- The requests of a strand that ends: those that have not left are dropped, and nobody takes the answers of the others
(R111, R378). -/
def leaveReqs (n : Nat) (b : Bead) : Bead :=
  { b with reqs := (b.reqs.filter fun r => !(strandReqOf n r && r.st != .issued)).map fun r =>
      if strandReqOf n r then abandon r else r }

/-- A strand ends (R377): its status word, its clasp, its watch entries; data not delivered is discarded, and behind a
row that is stale twice the feeders keep none (R353, R374). -/
def endStrand (o n code : Nat) (stopped : Bool) (s : State) : State :=
  let k := strandOf (beadOf s o) n
  let s1 := modBead o (fun b => setStrand n { k with
    running := false, stopping := false, runs := [], ended := true, endCode := BitVec.ofNat 6 code
    left := if code = fcStaleTwice then [] else k.left } (leaveReqs n b)) s
  let s2 := dmemWrite o (sdStatoff k.desc) (toBytes 8 (strandStatus k code stopped)) s1
  let s3 := if sdClv k.desc then claspSignal o n (o * 64 + sdClasp k.desc) s2 else s2
  freeWatch o n s3

/-- Candidate addresses that show in which stacks a physical range has granules: its first and last frames, and two
frames at every GiB. -/
def watchProbe (lo hi : Nat) : List Nat :=
  let a := (List.range 32).map (fun i => lo + 4096 * i)
  let b := (List.range 32).map (fun i => hi - 4096 * i)
  let c := (List.range ((hi - lo) / gib + 1)).flatMap fun i => [lo + gib * i, lo + gib * i + 4096]
  ((a ++ b ++ c).filter fun x => decide (lo ≤ x) && decide (x ≤ hi)) ++ [hi]

/-- The stacks that hold a granule of a physical range (R371). -/
def watchStacks (s : State) (lo hi : Nat) : List Nat :=
  ((watchProbe lo hi).filterMap fun a =>
    match placeOf s.mem.splitNow.toNat a with
    | .stack z _ => some z
    | _ => none).dedup

/-- A strand's addresses translated at its start (R344): own data memory needs none. -/
def strandXlat (s : State) (o : Nat) (a : Access) (dev : Nat) : Xlat :=
  if inOwnDmem o dev then .ok dev false else if inOwnWindow o dev then .prot else translate s (facetOf o) a dev

/-- The physical address of a device address that lies in the stacks. -/
def watchPhys (s : State) (o dev : Nat) : Option Nat :=
  match strandXlat s o .read dev with
  | .ok phys _ =>
    match placeOf s.mem.splitNow.toNat phys with
    | .stack _ _ => some phys
    | _ => none
  | _ => none

/-- The physical addresses of a strand's source granules, run by run, as far as they lie in the stacks (R371).
[DEDUCED: log 41] -/
def watchEnds (s : State) (o : Nat) (d : BitVec 512) : List Nat :=
  (List.range (sdRuns d)).flatMap fun k => (List.range (sdRunlen d)).filterMap fun j =>
    watchPhys s o ((runSrc d k + 32 * j) % 2 ^ 48)

/-- A stack's table takes one watch entry (R371). -/
def addWatch (w : Watch) (z : Nat) (s : State) : State :=
  { s with bezels := tblMod {} s.bezels z fun b => { b with watch := b.watch ++ [w] } }

/-- The tables of the stacks that a watched range meets take its entry, where each has room (R371). -/
def watchRange (w : Watch) (s : State) : Option State :=
  let zs := watchStacks s w.lo w.hi
  if zs.any fun z => decide (256 ≤ (bezelOf s z).watch.length) then none
  else some (zs.foldl (fun t z => addWatch w z t) s)

/-- The entry of a strand of a bead. -/
def watchOf (o n lo hi : Nat) : Watch := ⟨Fin.ofNat 1024 o, Fin.ofNat 8 n, lo, hi⟩

/-- Watch entries taken for a strand (R371): one in each bezel whose stack holds a granule of the physical range from its
lowest to its highest source granule; none of them when a bezel has no free entry. [DEDUCED: log 41] -/
def takeWatch (o n : Nat) (d : BitVec 512) (s : State) : Option State :=
  let l := watchEnds s o d
  if l = [] then some s else watchRange (watchOf o n (l.foldl min (nth 0 l 0)) (l.foldl max 0)) s

/-- Fault code of a failed translation (R323, R324, R683). -/
def xlatCode (x : Xlat) : Nat :=
  match x with
  | .page => fcPageFault
  | .prot => fcProtection
  | .invalid => fcInvalid
  | .ok _ _ => 0

/-- A reserved slice holds a physical address (R299, R300): with r reserved, slices 4 - r to 3 of every cluster from the RUN
that has passed its checks to the plan's end (R613). -/
def inReserved (s : State) (phys : Nat) : Bool :=
  match placeOf s.mem.splitNow.toNat phys with
  | .slice i _ => decide (4 - s.nutas.plan.reserve ≤ i % 4) &&
      s.nutas.plan.phase != .none
  | _ => false

/-- Where the indices of a gather may lie (R357): a slice, or the bead's own data memory. -/
def indexPlace (s : State) (o phys dev : Nat) : Bool :=
  match placeOf s.mem.splitNow.toNat phys with
  | .slice _ _ => true
  | _ => inOwnDmem o dev

/-- What STR.GO comes to (R110, R341 to R347, R357, R371): a fault code with an address, or the started strand. -/
inductive GoDo where
  | fault (code addr : Nat)
  | go (s : State)

/-- STR.GO with what its two translations and the watch answer (R344, R357). [DEDUCED: log 39] -/
def strandMove (o n a : Nat) (d : BitVec 512) (src dst : Xlat) (watched : Option State) (s : State) : GoDo :=
  match src with
  | .ok phys _ =>
    if sdGather d && !indexPlace s o phys (sdSrc d) then .fault fcBadHandle 0
    else
      match dst with
      | .ok dphys _ =>
        if 2 ≤ sdTarget d ∧ inReserved s dphys then .fault fcProtection (sdDst d)
        else
          match watched with
          | none => .fault fcStrandBusy 0
          | some s1 => .go (modBead o (modStrand n fun k =>
              { running := true, desc := d, daddr := a, left := k.left }) s1)
      | x => .fault (xlatCode x) (sdDst d)
  | x => .fault (xlatCode x) (sdSrc d)

/-- STR.GO reads its descriptor's two granules (R341, R393). -/
def lookDesc (o n a : Nat) (s : State) : State :=
  if (strandOf (beadOf s o) n).running ∨ a % 32 ≠ 0 ∨ !inOwnDmem o a ∨ !inOwnDmem o (a + 63) then s
  else lookOwns o ((a - ownBase o) / 32) 2 s

/-- STR.GO for strand `n` at data-memory device address `a`. -/
def strandGo (o n a : Nat) (s : State) : GoDo :=
  let p := dmemPair s o ((a - ownBase o) / 32)
  if (strandOf (beadOf s o) n).running then .fault fcStrandBusy 0
  else if a % 32 ≠ 0 ∨ !inOwnDmem o a ∨ !inOwnDmem o (a + 63) then .fault fcBadHandle 0
  else if p.2 || !strandForm o p.1 then .fault fcBadHandle 0
  else
    strandMove o n a p.1 (strandXlat s o .read (sdSrc p.1))
      (if sdTarget p.1 = 0 ∨ sdTarget p.1 = 1 then .ok (sdDst p.1) false else strandXlat s o .write (sdDst p.1))
      (if sdWatch p.1 && !sdGather p.1 then takeWatch o n p.1 s else some s) s

/-- Fields of an index entry (R356). -/
def ixAddr (w : Word) : Nat := bitsOf w.toNat 0 48
def ixAid (w : Word) : Nat := bitsOf w.toNat 48 9
def ixV (w : Word) : Bool := bitOf w.toNat 63

/-- Whether a gathered row is void (R358), by the cohort view now in force. -/
def rowVoid (s : State) (d : BitVec 512) (w : Word) : Bool :=
  !ixV w || decide (bitsOf w.toNat 57 6 ≠ 0) || decide (ixAddr w % 32 ≠ 0) ||
  ((sdSel d || sdSort d) && (!viewBound s (ixAid w) || viewPave s (ixAid w) != sdPave d))

/-- The index entry of run `j`, where it is at hand: own data memory, or an entry that has arrived (R357). -/
def indexEntry (s : State) (o n j : Nat) : Option Word :=
  let k := strandOf (beadOf s o) n
  let a := sdSrc k.desc + 8 * j
  if inOwnDmem o a then
    let off := a - ownBase o
    some (BitVec.ofNat 64 (bitsOf (goodData (dmemGet s o (off / 32))).toNat (8 * (off % 32)) 64))
  else (k.index.find? fun p => p.1 == j).map (·.2)

/-- The index positions of batch `b` of a sorted strand. -/
def batchRows (d : BitVec 512) (b : Nat) : List Nat :=
  (List.range (min (sdBatch d) (sdRuns d - b * sdBatch d))).map fun i => b * sdBatch d + i

/-- Insert a row into a list sorted by slot, behind equal ones. -/
def insertRow (key : Nat → Nat) (j : Nat) (l : List Nat) : List Nat :=
  match l with
  | [] => [j]
  | x :: r => if key j < key x then j :: x :: r else x :: insertRow key j r

/-- The delivery order of a batch (R360): rows by slot, keeping index order, then void rows in index order.
[DEDUCED: log 87] -/
def batchOrder (s : State) (o n : Nat) (rows : List Nat) : List Nat :=
  let d := (strandOf (beadOf s o) n).desc
  let key (j : Nat) : Nat :=
    match indexEntry s o n j with
    | some w => if rowVoid s d w then 8 else viewSlot s (ixAid w)
    | none => 8
  rows.foldl (fun l j => insertRow key j l) []

/-- An index entry in own data memory is read (R393). -/
def lookIndex (o n j : Nat) (s : State) : State :=
  let a := sdSrc (strandOf (beadOf s o) n).desc + 8 * j
  if inOwnDmem o a then lookOwn o ((a - ownBase o) / 32) s else s

/-- SORT_BATCH_DELIVER (R360): the next batch, once all its index entries are there, takes its order. The rows are
delivered in that order, and each writes its permutation entry then (R361). [DEDUCED: log 87] -/
def execSortBatchDeliver (o : Ord) (n : Fin 8) (s : State) : Host.Outcome State Fault Refusal :=
  let k := strandOf (beadOf s o.val) n.val
  let rows := batchRows k.desc k.sorted
  let ready := beadRuns s o.val && k.running && !k.stopping && sdSort k.desc && !rows.isEmpty &&
    rows.all fun j => (indexEntry s o.val n.val j).isSome
  whenOk s ready
    (modBead o.val (modStrand n.val fun k => { k with
      order := k.order ++ batchOrder s o.val n.val rows, sorted := k.sorted + 1 })
      (rows.foldl (fun t j => lookIndex o.val n.val j t) s))

/-- Which index position the strand's run number `i` takes. -/
def runIndex (k : Strand) (i : Nat) : Nat := if sdSort k.desc then nth 0 k.order i else i

/-- Every run of a strand has been consumed. [DEDUCED: log 80] -/
def strandDone (k : Strand) : Bool := decide (sdRuns k.desc ≤ k.consumed)

/-- A row, or a copy's run, is delivered: a sorted strand writes its permutation entry (R361), and a void row is counted
(R377, R664). -/
def deliverRun (o n : Nat) (x : StrandRun) (s : State) : State :=
  let k := strandOf (beadOf s o) n
  let d := k.desc
  let s1 := if sdSort d then
      dmemWrite o (sdPermoff d + 128 * (x.idx / sdBatch d) + 2 * (x.idx % sdBatch d))
        (toBytes 2 (runIndex k x.idx % sdBatch d + 32768 * b2n x.void)) s
    else s
  if x.void then countEv o 0x18 1 (modBead o (modStrand n fun k => { k with voids := k.voids + 1 }) s1) else s1

/-- A strand all of whose runs are consumed ends, and so does one whose next run has failed (R349, R353, R378).
[DEDUCED: log 87] -/
def settleStrand (o n : Nat) (s : State) : State :=
  let k := strandOf (beadOf s o) n
  if !k.running then s
  else
    match k.fail with
    | some (i, code, addr) =>
      if k.consumed < i then s
      else if code.toNat = fcInvalid then recordInvalid o addr.toNat 0 (endStrand o n code.toNat false s)
      else recordAddr 0x01 o addr.toNat (code.toNat * 2 ^ 32) (endStrand o n code.toNat false s)
    | none => if strandDone k then endStrand o n 0 false s else s

/-- A request for a run of a strand from `i` on that has not left. -/
def laterRun (n i : Nat) (r : Req) : Bool :=
  r.st != .issued && (match r.owner with
    | .run m j => m.val == n && decide (i ≤ j)
    | _ => false)

/-- Run `i` of a strand cannot be had (R378): the strand asks for no run behind it, what it has asked for there and has not
left is dropped, and it ends once the runs before it are consumed. -/
def failRun (o n i code addr : Nat) (s : State) : State :=
  settleStrand o n (modBead o (fun b => modStrand n (fun k => { k with
    fail := match k.fail with
      | some f => if f.1 ≤ i then some f else some (i, BitVec.ofNat 6 code, BitVec.ofNat 48 addr)
      | none => some (i, BitVec.ofNat 6 code, BitVec.ofNat 48 addr) })
    { b with reqs := b.reqs.filter fun r => !laterRun n i r }) s)

/-- The first run that a granule of index entries is needed for (R357): of a sorted strand, the first of its batch. -/
def runOfIndex (d : BitVec 512) (g : Nat) : Nat :=
  if sdSort d then 4 * g / sdBatch d * sdBatch d else 4 * g

/-- The head run of a strand is consumed (R349). [DEDUCED: log 87] -/
def consumeRun (o n : Nat) (s : State) : State :=
  settleStrand o n (modBead o (modStrand n fun k => { k with runs := k.runs.drop 1, consumed := k.consumed + 1 }) s)

end Sys2Proof.Machine
end

