-- ==== Sys2Proof/Machine/Requests.lean ====
section
/-! DEFINITION. A bead's requests beyond its own data memory: the L1, translation, slots, parts and answers (chapters 2, 9
and 10). -/

namespace Sys2Proof.Machine

/-- The L1 line of a device line number (R75). -/
def l1Find (b : Bead) (line : Nat) : Option L1Line := b.l1.find? fun l => l.line == line

/-- A line becomes its set's most recent, and the set keeps 8 of them (R75). The rule gives 128 sets and no index: a line's set
is its number modulo 128. [DESIGN CHOICE: log 98] -/
def l1Insert (l : L1Line) (b : Bead) : Bead :=
  let rest := b.l1.filter fun x => x.line != l.line
  let set := rest.filter fun x => x.line % 128 == l.line % 128
  let out := (set.drop 7).map (·.line)
  { b with l1 := l :: rest.filter fun x => !out.contains x.line }

/-- A line dropped. -/
def l1Invalidate (line : Nat) (b : Bead) : Bead := { b with l1 := b.l1.filter fun x => x.line != line }

/-- The granule of an L1 line at a device address. -/
def l1Gran (l : L1Line) (dev : Nat) : Code := if dev / 32 % 2 = 0 then l.g0 else l.g1

/-- A write that hits updates the line; one that would leave a poisoned granule drops it (R76). -/
def l1Write (dev : Nat) (c : Code) (mask : Word32) (b : Bead) : Bead :=
  match l1Find b (dev / 64) with
  | none => b
  | some l =>
    if isBad c then l1Invalidate (dev / 64) b
    else
      let c' := if mask = BitVec.allOnes 32 then c else encodeGran (mergeBytes (goodData (l1Gran l dev)) (goodData c) mask)
      l1Insert (if dev / 32 % 2 = 0 then { l with g0 := c' } else { l with g1 := c' }) b

/-- The request of a number. -/
def findReq (b : Bead) (id : Nat) : Option Req := b.reqs.find? fun r => r.id == id
def modReq (id : Nat) (f : Req → Req) (b : Bead) : Bead := { b with reqs := modFirst (fun r => r.id == id) f b.reqs }
def dropReq (id : Nat) (b : Bead) : Bead := { b with reqs := dropFirst (fun r => r.id == id) b.reqs }

/-- A new request with the bead's next number. -/
def newReq (b : Bead) (owner : ReqOwner) (kind : ReqKind) (dev n : Nat) : Req :=
  { id := b.nextId, owner := owner, kind := kind, dev := dev, n := n }

/-- The request joins the bead's list. -/
def addReq (r : Req) (b : Bead) : Bead := { b with reqs := b.reqs ++ [r], nextId := b.nextId + 1 }

/-- The remote module and address of a CH entry (R96). -/
def chMod (e : QEntry) : Nat := bitsOf e.v2.toNat 48 4
def chAddr (e : QEntry) : Nat := e.v2.toNat % 2 ^ 48
/-- The local address, in whole granules. -/
def chLocal (e : QEntry) : Nat := devAddr e.v1 / 32 * 32
def isChWr' (e : QEntry) : Bool := match e.insn with | .chWr .. => true | _ => false
def isChRd' (e : QEntry) : Bool := match e.insn with | .chRd .. => true | _ => false
def isChAcc' (e : QEntry) : Bool := match e.insn with | .chAcc .. => true | _ => false
def isCh (e : QEntry) : Bool := isChWr' e || isChRd' e || isChAcc' e

/-- Granules of a CH entry: GRANULES, whose 13 bits are taken as they stand, above 4,096 too, or the 2 KiB of CH.ACC (R96,
R516). [DESIGN CHOICE: log 99] -/
def chTotal (e : QEntry) : Nat := if isChAcc' e then 64 else if isCh e then bitsOf e.v3.toNat 0 13 else 0

/-- Granules of a transfer's first message: up to the next multiple of 256 bytes of the remote address. -/
def chHead (e : QEntry) : Nat := if isChAcc' e then 8 else 8 - chAddr e / 32 % 8

/-- Messages of a CH entry. [DEDUCED: log 36] -/
def chUnits (e : QEntry) : Nat := if chTotal e = 0 then 0 else 1 + (chTotal e - chHead e + 7) / 8

/-- First granule and length of message `u`. [DEDUCED: log 36] -/
def chUnit (e : QEntry) (u : Nat) : Nat × Nat :=
  let a := if u = 0 then 0 else chHead e + 8 * (u - 1)
  (a, min (if u = 0 then chHead e else 8) (chTotal e - a))

/-- A failed access of a hart traps at its instruction (R47, R807, R683). -/
def hartFail (o h : Nat) (write : Bool) (addr : Nat) (x : Xlat) (s : State) : State :=
  let cause := match x with
    | .page => if write then 15 else 13
    | _ => if write then 7 else 5
  let s1 := modBead o (modHart h (takeTrap false cause (BitVec.ofNat 64 addr))) s
  if x = .invalid then recordInvalid o addr 0 s1 else s1

/-- A failed LR is a store's failure where the leaf lets it read (R48, R324). -/
def lrWrites (s : State) (o : Nat) (r : Req) (x : Xlat) : Bool :=
  x != .page && (match xlFind (reqXl (beadOf s o) r) r.bytes with
    | some e => e.rd
    | none => true)

/-- A translation or permission failure of a request, by who made it (R47, R144, R174, R275, R378). -/
def reqFail (o : Nat) (r : Req) (dev : Nat) (x : Xlat) (s : State) : State :=
  let b := beadOf s o
  let s1 := modBead o (dropReq r.id) s
  let rec1 (t : State) : State := if x = .invalid then recordInvalid o dev 0 t else t
  let gran := (dev - r.dev) / 32
  match r.owner with
  | .hartLoad h => hartFail o h.val false r.bytes x s1
  | .hartStore h => hartFail o h.val true r.bytes x s1
  | .hartAtomic h => hartFail o h.val (reqAccess r != .lr || lrWrites s o r x) r.bytes x s1
  | .tileRow e row => rec1 (failEntry o 1 e (xlatCode x) row dev s1)
  | .drainRow e row => rec1 (failEntry o 2 e (xlatCode x) row dev s1)
  | .mask e => rec1 (modBead o (modEntry 0 e fun y => { y with prepBad := some (BitVec.ofNat 6 fcBadHandle, 0, 0) }) s1)
  | .chain e unit =>
    rec1 (failEntry o 3 e (xlatCode x) (((findEntry b 3 e).elim 0 fun y => (chUnit y unit).1) + gran) dev s1)
  | .run n i => failRun o n.val i (xlatCode x) dev s1
  | .index n g => failRun o n.val (runOfIndex (strandOf b n.val).desc g) (xlatCode x) dev s1
  | .sent _ _ _ | .clasp _ | .abandoned => s1

/-- The target of a physical address is one that the L1 caches (R173). -/
def cacheable (s : State) (phys : Nat) : Bool :=
  match placeOf s.mem.splitNow.toNat phys with
  | .stack _ _ | .slice _ _ | .board _ _ => true
  | _ => false

/-- The L1 may hold the line of a device address of a request (R173, R322). -/
def mayCache (s : State) (o : Nat) (r : Req) (dev : Nat) : Bool :=
  !inOwnDmem o dev && cacheable s (reqPhys s o r dev) && !reqNc s o r dev

/-- A granule of a request is at hand. -/
def hasGran (r : Req) (i : Nat) : Bool := (tblGet (0 : Nat) (r.got.map fun p => (p.1, 1)) i) != 0

/-- A miss becomes a fill of whole lines where the L1 allocates: two granules for a hart, and for a tile row the other
granule of a line at either end that it does not hold (R75, R173). -/
def lineFill (s : State) (o : Nat) (r : Req) : Req :=
  match r.owner with
  | .hartLoad _ => if mayCache s o r r.dev then { r with dev := r.dev / 64 * 64, n := 2 } else r
  | .tileRow _ _ =>
    if r.kind != .read || r.noalloc || r.watch then r
    else
      let last := r.dev + 32 * (r.n - 1)
      let lo := if r.dev % 64 = 32 ∧ !hasGran r 0 ∧ mayCache s o r r.dev then r.dev - 32 else r.dev
      let hi := if last % 64 = 0 ∧ !hasGran r (r.n - 1) ∧ mayCache s o r last then last + 32 else last
      let sh := (r.dev - lo) / 32
      { r with dev := lo, n := (hi - lo) / 32 + 1, got := r.got.map fun p => (p.1 + sh, p.2) }
  | _ => r

/-- A granule of a request that lies in the bead's own data memory is read or written there at once (R312, R319). -/
def ownGran (o : Nat) (r : Req) (x : Req × State) (i : Nat) : Req × State :=
  let dev := r.dev + 32 * i
  if r.copy || !inOwnDmem o dev || r.kind == .atomic then x
  else
    let g := (dev - ownBase o) / 32
    if r.kind == .read then
      let c := dmemGet x.2 o g
      let r := { x.1 with got := tblPut x.1.got i (passOn c) }
      (if (decodeCode c).1 = .uncorr then { r with failed := r.failed ++ [i], cls := if r.cls = 0 then 1 else r.cls } else r,
       lookOwn o g x.2)
    else
      ({ x.1 with got := tblPut x.1.got i 0 }, dmemStore o g (nth 0 r.data i) (nth 0 r.mask i) (nodeBead o) x.2)

/-- What a write does on its way to the L1 and to its hart: a line that it hits is updated (R76), and a store's hart goes
on while its write completes later (R807). -/
def writeThrough (r : Req) (b : Bead) : Bead :=
  match r.owner with
  | .hartStore h => l1Write r.dev (nth 0 r.data 0) (nth 0 r.mask 0)
      (modHart h.val (fun t => { advance (match fetchAt b.active t.pc.toNat with | some f => f.len | none => 0) t with
        stores := t.stores + 1 }) b)
  | .hartAtomic _ => l1Invalidate (r.dev / 64) b
  | _ => if r.kind == .write || r.kind == .part then
      upTo r.n (fun b i => l1Write (r.dev + 32 * i) (nth 0 r.data i) (nth 0 r.mask i) b) b
    else b

/-- A translated request is ready with its physical addresses. -/
def reqReady (o : Nat) (r0 : Req) (s : State) : State :=
  let r := lineFill s o r0
  let r1 : Req := { r with
    phys := (List.range r.n).map fun i => reqPhys s o r (r.dev + 32 * i)
    dstPhys := if r.copy then (List.range r.n).map fun i => reqPhys s o r (r.dstDev + 32 * i) else []
    nc := (List.range r.n).map fun i => reqNc s o r (r.dev + 32 * i)
    st := .ready }
  let x := (List.range r.n).foldl (ownGran o r1) (r1, s)
  let b := modReq r.id (fun _ => x.1) ((xlatDevs o r).foldl (fun b p => tlbUse p.1 b) (beadOf x.2 o))
  setBead o (writeThrough r b) x.2

/-- A request is translated as far as the micro-TLB goes: it waits for a walk, fails, or is ready (R174, R327). -/
def xlatReq (o id : Nat) (s : State) : State :=
  match findReq (beadOf s o) id with
  | none => s
  | some r =>
    match firstStop s o r with
    | some (_, none) => countEv o 0x14 1 (modBead o (modReq id fun r => { r with st := .walk }) s)
    | some (dev, some x) => reqFail o r dev x s
    | none => reqReady o r s

/-- A new request is made and translated. -/
def makeReq (o : Nat) (r : Req) (s : State) : State := xlatReq o r.id (modBead o (addReq r) s)

/-- The module bank groups that a request reaches, a copy's at its source and at its destination (R309, R363). -/
def reqGroups (s : State) (r : Req) : List Nat :=
  ((r.phys ++ r.dstPhys).filterMap fun a =>
    match placeOf s.mem.splitNow.toNat a with
    | .stack z l => some (bankGroup z l)
    | _ => none).dedup

/-- The requests that hold slots. -/
def slotted (b : Bead) : List Req := b.reqs.filter fun r => r.slot.isSome

/-- A strand's request. -/
def isStrandReq (r : Req) : Bool :=
  match r.owner with
  | .run _ _ | .index _ _ => true
  | _ => false

/-- The caps of R362 to R364 let a request issue. -/
def capsAllow (s : State) (b : Bead) (r : Req) : Bool :=
  decide ((slotted b).length < 48) &&
  (reqGroups s r).all (fun g => decide (countIf (fun x => (reqGroups s x).contains g) (slotted b) < 12)) &&
  (!isStrandReq r || decide (countIf isStrandReq (slotted b) < 40))

/-- The least slot number that is free. -/
def freeSlot (b : Bead) : Nat :=
  ((List.range 48).find? fun i => !(b.reqs.any fun r => r.slot == some i)).getD 0

/-- The order of R365: scalar requests, tile rows, drain rows, strands by class. Others go with the tile rows. -/
def reqRank (b : Bead) (r : Req) : Nat :=
  match r.owner with
  | .hartLoad _ | .hartStore _ | .hartAtomic _ => 0
  | .tileRow _ _ | .mask _ | .chain _ _ | .sent _ _ _ | .clasp _ | .abandoned => 1
  | .drainRow _ _ => 2
  | .run n _ => 3 + sdPrio (strandOf b n.val).desc
  | .index n _ => 3 + sdPrio (strandOf b n.val).desc

/-- The stream of a hart's access: a hart in M mode runs the bead monitor (R46, R420). [DEDUCED: log 103] -/
def hartStream (b : Bead) (h : HartN) : Fin 16 := if (hartOf b h.val).userMode then 1 else 10

/-- The injection stream of a request (R420). -/
def reqStream (b : Bead) (r : Req) : Fin 16 :=
  match r.owner with
  | .hartLoad h | .hartStore h | .hartAtomic h => hartStream b h
  | .tileRow _ _ | .mask _ => 2
  | .drainRow _ _ => 3
  | .run n _ => strm (4 + sdPrio (strandOf b n.val).desc)
  | .index n _ => strm (4 + sdPrio (strandOf b n.val).desc)
  | .chain _ _ | .sent _ _ _ | .clasp _ => 8
  | .abandoned => 8

/-- The strand of a request, as a distance behind the strand that issued last. [DESIGN CHOICE: log 7] -/
def strandTurn (b : Bead) (r : Req) : Nat :=
  match r.owner with
  | .run n _ => (n.val + 7 - b.strandRr) % 8
  | .index n _ => (n.val + 7 - b.strandRr) % 8
  | _ => 0

/-- The better of two requests by rank, then round-robin among strands, then age. -/
def betterReq (b : Bead) (x y : Req) : Req :=
  if reqRank b y < reqRank b x ∨ (reqRank b y = reqRank b x ∧ strandTurn b y < strandTurn b x) then y else x

/-- A strand's requests leave in run order (R349, R366): one waits while an earlier one of its strand has not left. -/
def inOrder (b : Bead) (r : Req) : Bool :=
  !b.reqs.any fun x => x.st != .issued && (match r.owner, x.owner with
    | .run n i, .run m j => n == m && decide (j < i)
    | .index n i, .index m j => n == m && decide (j < i)
    | _, _ => false)

/-- The request that R365 chooses among those that are ready and that the caps allow: none once the bead has issued one in
this ck. -/
def chooseReq (s : State) (o : Nat) : Option Req :=
  let b := beadOf s o
  if b.reqCk = absCk s + 1 then none
  else
    match b.reqs.filter fun r => r.st == .ready && capsAllow s b r && inOrder b r with
    | [] => none
    | r :: rest => some (rest.foldl (betterReq b) r)

/-- The target of a place (R334): a stack, a slice, a bead's data memory or a board window. -/
def placeTarget (p : Place) : Nat :=
  match p with
  | .stack z _ => z
  | .slice i _ => 0x100 + i
  | .board w _ => 0x200 + w
  | .dmem o _ => 0x1000 + o
  | .frag o _ => 0x2000 + o
  | .imem o _ => 0x3000 + o
  | .control _ => 0x80
  | .reserved => 0x81

/-- Two physical addresses are consecutive granules of one target. -/
def nextAtTarget (s : State) (a b : Nat) : Bool :=
  b == a + 32 && placeTarget (placeOf s.mem.splitNow.toNat a) == placeTarget (placeOf s.mem.splitNow.toNat b)

/-- The granule numbers of a request grouped into parts: consecutive addresses at one target (R334). -/
def joinPart (s : State) (r : Req) (i : Nat) (acc : List (List Nat)) : List (List Nat) :=
  match acc with
  | (j :: g) :: rest =>
    let dOk := !r.copy || nextAtTarget s (nth 0 r.dstPhys i) (nth 0 r.dstPhys j)
    let wOk := r.kind == .read ||
      (nth 0 r.mask i == BitVec.allOnes 32 && nth 0 r.mask j == BitVec.allOnes 32)
    if j = i + 1 ∧ r.kind != .part ∧ dOk ∧ wOk ∧ nextAtTarget s (nth 0 r.phys i) (nth 0 r.phys j)
    then (i :: j :: g) :: rest else [i] :: (j :: g) :: rest
  | _ => [[i]]

/-- The granules that a request asks for next: of those not at hand, the ones among its first eight, then among the next
(R334). A row of more than eight granules asks in turn. [DEDUCED: log 38] -/
def askedNow (r : Req) : List Nat :=
  let l := (List.range r.n).filter fun i => !hasGran r i
  l.filter fun i => i / 8 == nth 0 l 0 / 8

/-- The parts of a request; granules already at hand are left out. -/
def reqParts (s : State) (r : Req) : List (List Nat) := (askedNow r).foldr (joinPart s r) []

/-- The slice that serves a physical address. -/
def sliceOf (s : State) (a : Nat) : Option Nat :=
  match placeOf s.mem.splitNow.toNat a with
  | .slice i _ => some i
  | _ => none

/-- A bead's port of its crossbar, behind the fabric port: positions 0 to 8, of each position the strings in order (R307).
[DESIGN CHOICE: log 40] -/
def xbarPort (n : Nat) : Nat := 1 + n % 9 * 4 + n / 9 % 4

/-- A request goes before one that reached the slice in the same ck (R307): a read before a write or an atomic, then in
crossbar order. -/
def arrivesBefore (r q : SliceReq) : Bool :=
  let key (x : SliceReq) : Nat := (if x.msg.op = opRead then 0 else 64) + x.port
  q.tick == r.tick && q.ck == r.ck && decide (key r < key q)

/-- A request takes its place in a slice's sorter. -/
def sliceJoin (r : SliceReq) : List SliceReq → List SliceReq
  | [] => [r]
  | q :: l => if arrivesBefore r q then r :: q :: l else q :: sliceJoin r l

/-- The granules that a slice crossbar carries are checked and counted (R393). -/
def xbarLooks (c : Nat) (l : List Code) (s : State) : State := l.foldl (fun t g => countLook (blkXbar c) g t) s

/-- A request reaches a slice's sorter by a port of the crossbar (R307, R369, R393). [DESIGN CHOICE: log 17] -/
def toSlice (i port : Nat) (m : Msg) (s : State) : State :=
  let s1 := xbarLooks (i / 4) m.data s
  let r : SliceReq := { msg := m, tick := s.clock.tick, ck := s.clock.ck, port := port }
  { s1 with mem := { s1.mem with slices := tblMod [] s1.mem.slices i (sliceJoin r) } }

/-- The position whose bead answers an ordinal: the spare's, where it serves (R15, R406). -/
def servePos (s : State) (o : Nat) : Nat :=
  if posState s (posOfOrd o) = 4 then posOfOrd o / 9 * 9 + 8 else posOfOrd o

/-- A message of a bead goes out: to a slice of its own cluster by the crossbar, at the port of the position that serves
(R307), otherwise into the fabric (R407). -/
def sendFromBead (o : Nat) (m : Msg) (s : State) : State :=
  match sliceOf s m.addr.toNat with
  | some i => if i / 4 = clusterOf o ∧ m.op ≠ opSignal then toSlice i (xbarPort (servePos s o)) m s else sendMsg m s
  | none => sendMsg m s

/-- The message of one part of a request (R410 to R412). A copy names its destination in CMASK, a read of a parameter
generation its GEN in STEP; AUX1 says which: bit 0 a copy, bit 1 a generation. [DEDUCED: log 38] -/
def partMsg (s : State) (o : Nat) (r : Req) (slot : Nat) (is : List Nat) : Msg :=
  let b := beadOf s o
  let i := nth 0 is 0
  let a := nth 0 r.phys i
  let dst := (placeNode (placeOf s.mem.splitNow.toNat a)).getD 0
  let m : Msg := { msg0 with
    dst := node dst, src := node (nodeBead o), addr := BitVec.ofNat 48 a, tag := BitVec.ofNat 10 slot,
    stream := reqStream b r }
  match r.kind with
  | .read => { m with
      op := opRead
      aux0 := BitVec.ofNat 32 is.length
      aux1 := BitVec.ofNat 32 (b2n r.copy + 2 * b2n r.gen.isSome)
      step := r.gen.getD 0
      cmask := if r.copy then BitVec.ofNat 64 (nth 0 r.dstPhys i) else 0 }
  | .write | .part =>
    let data := is.map fun j => nth 0 r.data j
    if nth 0 r.mask i = BitVec.allOnes 32 then { m with op := opWrite, len := data.length, data := data }
    else { m with op := opPart, len := 1, data := data.take 1, aux0 := nth 0 r.mask i }
  | .atomic => { m with op := opAtomic, len := 1, data := r.data.take 1 }

/-- A request takes a slot and its parts leave (R362, R348). -/
def issueReq (o : Nat) (r : Req) (s : State) : State :=
  let b := beadOf s o
  let slot := freeSlot b
  let parts := reqParts s r
  let turn := match r.owner with
    | .run n _ => n.val
    | .index n _ => n.val
    | _ => b.strandRr
  let s1 := countEv o 0x0F 1 (setBead o { modReq r.id (fun r => { r with
    st := .issued, slot := some slot, parts := parts.length }) b with strandRr := turn, reqCk := absCk s + 1 } s)
  parts.foldl (fun t p => sendFromBead o (partMsg t o r slot p) t) s1

/-- Bytes of a list of granules, a bad one as zeros. -/
def codesBytes (l : List Code) : List Byte := l.flatMap fun c => granBytes (goodData c)

/-- The elements of a tile row from the bytes of its granules: for 16-bit types the elements, for FP32 the two parts of
each (R170). -/
def rowHalves (d : BitVec 512) (bytes : List Byte) (off n : Nat) (low : Bool) : List Half :=
  (List.range n).map fun c =>
    if dEtype d = 3 then
      let p := splitFp32 (BitVec.ofNat 32 (ofBytes ((bytes.drop (off + 4 * c)).take 4)))
      if low then p.2 else p.1
    else BitVec.ofNat 16 (ofBytes ((bytes.drop (off + 2 * c)).take 2))

/-- A TLD row arrives whole: it is written with its poison mark, and the entry moves on (R108, R109, R162). -/
def tldRowWrite (o : Nat) (e : QEntry) (t row : Nat) (codes : List Code) (failed : Bool) (s : State) : State :=
  let d := e.d1
  let tile := owTile e.v2
  let a := tileAddr d tile row 0
  let n := rowElems d tile row
  let bytes := codesBytes codes
  let bad := failed || codes.any isBad
  let b := beadOf s o
  let b1 := setTileRow t row (rowHalves d bytes (a % 32) n false) bad b
  let b2 := if tcSplit e.tcfg then setTileRow (t + 1) row (rowHalves d bytes (a % 32) n true) bad b1 else b1
  let firstBad := (List.range codes.length).find? fun i => isBad (nth 0 codes i)
  let b3 := modEntry 1 e.id (fun e => { e with
    fin := e.fin + 1
    poisonAt := if bad && decide (row < e.poisonAt.getD 64) then some row else e.poisonAt
    poisonAddr := if bad && decide (row < e.poisonAt.getD 64)
      then BitVec.ofNat 48 (a / 32 * 32 + 32 * firstBad.getD 0) else e.poisonAddr }) b2
  setBead o b3 s

/-- The data granules and byte masks of a TST row (R170, R172): a poisoned row writes whole poisoned granules (R162). -/
def tstRowData (b : Bead) (e : QEntry) (t row : Nat) : List Code × List Word32 :=
  let d := e.d1
  let tile := owTile e.v2
  let a := tileAddr d tile row 0
  let n := rowElems d tile row
  let g := (rowGrans d tile row).2
  if rowPoison (tileOf b t) row || (tcSplit e.tcfg && rowPoison (tileOf b (t + 1)) row) then
    (List.replicate g poisonCode, List.replicate g (BitVec.allOnes 32))
  else
    let bytes := (List.range n).flatMap fun c =>
      if tcSplit e.tcfg then toBytes 4 (joinParts (tileElem (tileOf b t) row c) (tileElem (tileOf b (t + 1)) row c)).toNat
      else toBytes 2 (tileElem (tileOf b t) row c).toNat
    let off := a % 32
    let all := List.replicate off 0 ++ bytes
    let sel (k : Nat) : Bool := decide (off ≤ k) && decide (k < off + bytes.length)
    ((List.range g).map (fun i => encodeGran (granOf ((all.drop (32 * i)).take 32))),
     (List.range g).map (fun i => BitVec.ofNat 32 ((List.range 32).foldl
       (fun m k => m + (if sel (32 * i + k) then 2 ^ k else 0)) 0)))

/-- First handle and count of a DT.FILL (R107). -/
def fillFirst (e : QEntry) : Nat := bitsOf e.v2.toNat 0 12
def fillCount (e : QEntry) : Nat := bitsOf e.v2.toNat 12 13

/-- Rows, or descriptor entries, that a transfer goes through. -/
def rowLimit (e : QEntry) : Nat :=
  match e.insn with
  | .tld .. | .tst .. => dTrows e.d1
  | .dtFill _ _ => fillCount e
  | _ => 0

/-- The next row of the transfer engine (R171, R174): the first started transfer with rows left, once the row before it is
done with. -/
def nextRow (b : Bead) : Option QEntry :=
  ((queueOf b 1).ents.find? fun e =>
      isRunning e && e.bad.isNone && e.st == .started && decide (e.next < rowLimit e)).filter fun e =>
    !(b.reqs.any fun r => match r.owner with
      | .tileRow x _ => x == e.id
      | _ => false)

/-- A descriptor entry of DT.FILL is written from its granules; one with a bad granule as zeros (R112). -/
def fillEntry (o : Nat) (e : QEntry) (i : Nat) (codes : List Code) (s : State) : State :=
  let a := (devAddr e.v1 + 64 * i) % 2 ^ 48
  let bytes := ((codesBytes codes).drop (a % 32)).take 64
  let bad := (List.range codes.length).find? fun j => isBad (nth 0 codes j)
  modBead o (fun b =>
    let b1 : Bead := { b with
      dt := tblSet 0 b.dt (fillFirst e + i) (if bad.isSome then 0 else BitVec.ofNat 512 (ofBytes bytes)) }
    modEntry 1 e.id (fun e => { e with
      fin := e.fin + 1
      poisonAt := if bad.isSome && decide (i < e.poisonAt.getD 4096) then some i else e.poisonAt
      poisonAddr := if bad.isSome && decide (i < e.poisonAt.getD 4096)
        then BitVec.ofNat 48 (a / 32 * 32 + 32 * bad.getD 0) else e.poisonAddr })
      b1) s

/-- Granules read from a bead's own data memory, each counted (R393). -/
def ownRead (o g n : Nat) (s : State) : List Code × State :=
  ((List.range n).map fun i => passOn (dmemGet s o (g + i)), lookOwns o g n s)

/-- The held lines that a row hits become the most recent of their sets (R75). -/
def l1Touch (dev n : Nat) (b : Bead) : Bead :=
  upTo n (fun b i => match l1Find b ((dev + 32 * i) / 64) with
    | some l => l1Insert l b
    | none => b) b

/-- The transfer engine takes the next row of an entry: an empty row passes, a row in own data memory or wholly in the
L1 is served at once, any other becomes a request (R171 to R174). [DESIGN CHOICE: log 101] -/
def serveRow (o : Nat) (e : QEntry) (s : State) : State :=
  let b := beadOf s o
  let d := e.d1
  let tile := owTile e.v2
  let row := e.next
  let g := rowGrans d tile row
  let s0 := modBead o (modEntry 1 e.id fun e => { e with next := e.next + 1 }) s
  let own := (List.range g.2).all fun i => inOwnDmem o (g.1 + 32 * i)
  match e.insn with
  | .tld t _ _ noalloc =>
    if g.2 = 0 then tldRowWrite o e t.val row [] false s0
    else if own then
      let x := ownRead o ((g.1 - ownBase o) / 32) g.2 s0
      tldRowWrite o e t.val row x.1 false x.2
    else
      let s1 := if dWatch d then s0 else modBead o (l1Touch g.1 g.2) s0
      let hits : Tbl Code := if dWatch d then [] else (List.range g.2).filterMap fun i =>
        (l1Find b ((g.1 + 32 * i) / 64)).map fun l => (i, l1Gran l (g.1 + 32 * i))
      if hits.length = g.2 then
        countEv o 0x12 1 (tldRowWrite o e t.val row (hits.map (·.2)) false s1)
      else
        let r := newReq (beadOf s1 o) (.tileRow e.id row) .read g.1 g.2
        countEv o 0x13 1 (makeReq o { r with
          got := hits, watch := dWatch d, noalloc := noalloc || dWatch d
          gen := if dGenv d then some (dGen d) else none } s1)
  | .tst t _ _ =>
    let data := tstRowData b e t.val row
    if g.2 = 0 then modBead o (modEntry 1 e.id fun e => { e with fin := e.fin + 1 }) s0
    else if own then
      modBead o (modEntry 1 e.id fun e => { e with fin := e.fin + 1 })
        (upTo g.2 (fun x i => dmemStore o ((g.1 - ownBase o) / 32 + i) (nth 0 data.1 i) (nth 0 data.2 i) (nodeBead o) x) s0)
    else
      let r := newReq (beadOf s0 o) (.tileRow e.id row) .write g.1 g.2
      makeReq o { r with data := data.1, mask := data.2 } s0
  | .dtFill _ _ =>
    let a := (devAddr e.v1 + 64 * row) % 2 ^ 48
    let n := (a + 63) / 32 - a / 32 + 1
    let g0 := a / 32 * 32
    if (List.range n).all fun i => inOwnDmem o (g0 + 32 * i) then
      let x := ownRead o ((g0 - ownBase o) / 32) n s0
      fillEntry o e row x.1 x.2
    else makeReq o { newReq (beadOf s0 o) (.tileRow e.id row) .read g0 n with noalloc := true } s0
  | _ => s0

/-- L1 lines that a completed read leaves (R75, R116, R173, R339): the whole lines of it that have no failed granule. -/
def l1Fill (s : State) (r : Req) (b : Bead) : Bead :=
  if r.noalloc || r.kind != .read then b
  else upTo r.n (fun b i =>
    let dev := r.dev + 32 * i
    let c0 := tblGet poisonCode r.got i
    let c1 := tblGet poisonCode r.got (i + 1)
    if dev % 64 = 0 ∧ i + 1 < r.n ∧ goodLook (decodeCode c0).1 ∧ goodLook (decodeCode c1).1 ∧
        !r.failed.contains i ∧ !r.failed.contains (i + 1) ∧
        cacheable s (nth 0 r.phys i) ∧ !nth false r.nc i
    then l1Insert ⟨dev / 64, passOn c0, passOn c1⟩ b else b) b

/-- The value of a load from the bytes of a granule: sign- or zero-extended by funct3. -/
def loadValue (f3 off : Nat) (g : Gran) : Word :=
  let n := 2 ^ (f3 % 4)
  let v := bitsOf g.toNat (8 * off) (8 * n)
  if 4 ≤ f3 then BitVec.ofNat 64 v else if 3 ≤ f3 then BitVec.ofNat 64 v else
    BitVec.ofNat 64 (v + (if bitOf v (8 * n - 1) then 2 ^ 64 - 2 ^ (8 * n) else 0))

/-- A loaded value goes to its register. -/
def loadTo (fp : Bool) (rd : Fin 32) (v : Word) (t : Hart) : Hart := if fp then setF rd (v.setWidth 32) t else setX rd v t

/-- A hart's load returns (R61, R339, R807): data of a hold that a trap has given up is discarded. -/
def hartLoadDone (o h : Nat) (r : Req) (s : State) : State :=
  let b := beadOf s o
  let t := hartOf b h
  if t.hold ≠ .load r.id then s
  else
    match fetchAt b.active t.pc.toNat with
    | some ⟨.load f3 fp rd _ _, _, len⟩ =>
      let i := (r.bytes - r.dev) / 32
      let c := tblGet poisonCode r.got i
      if isBad c || r.failed.contains i then modBead o (modHart h (takeTrap false 5 (BitVec.ofNat 64 r.bytes))) s
      else
        modBead o (modHart h fun t => advance len (loadTo fp rd (loadValue f3 (r.bytes % 32) (goodData c)) t)) s
    | _ => s

/-- A store's completion returns (R62): a hart that a FENCE holds goes on with its last one. -/
def hartStoreDone (o h : Nat) (s : State) : State :=
  modBead o (modHart h fun t =>
    let t' := { t with stores := t.stores - 1 }
    if t'.stores = 0 ∧ t.hold = .fence then advance 4 t' else t') s

/-- A slice atomic's answer returns (R48, R61): rd takes the old value, an SC's 0 or 1, or the hart traps. -/
def hartAtomicDone (o h : Nat) (r : Req) (cls : Nat) (v : Word) (s : State) : State :=
  let t := hartOf (beadOf s o) h
  if t.hold ≠ .load r.id then s
  else
    match fetchAt (beadOf s o).active t.pc.toNat with
    | some ⟨.amo _ _ rd _ _, _, len⟩ =>
      if cls ≠ 0 then
        modBead o (modHart h (takeTrap false (if reqAccess r = .lr then 5 else 7) (BitVec.ofNat 64 r.bytes))) s
      else modBead o (modHart h fun t => advance len (setX rd v t)) s
    | _ => s

/-- The granules of a request in order; those that failed or are missing are poisoned (R337). -/
def reqCodes (r : Req) : List Code :=
  (List.range r.n).map fun i => if r.failed.contains i then poisonCode else passOn (tblGet poisonCode r.got i)

/-- The granules of a request from a device address on. -/
def codesAt (r : Req) (dev n : Nat) : List Code := ((reqCodes r).drop ((dev - r.dev) / 32)).take n

/-- A transfer row's request is answered: refetched once when stale, ended by a reclaimed generation or a second stale
mark, written otherwise (R157, R158, R174, R177). -/
def tileRowDone (o e row : Nat) (r : Req) (s : State) : State :=
  match findEntry (beadOf s o) 1 e with
  | none => s
  | some x =>
    match x.insn with
    | .tld t _ _ _ =>
      if r.cls = 4 then failEntry o 1 e fcGeneration row (r.dev + 32 * nth 0 r.failed 0) s
      else if r.stale && r.again then failEntry o 1 e fcStaleTwice row (r.dev + 32 * r.staleAt) s
      else if r.stale then
        countEv o 0x17 1 (makeReq o { newReq (beadOf s o) r.owner .read r.dev r.n with
          watch := true, noalloc := true, gen := r.gen, again := true } s)
      else
        let g := rowGrans x.d1 (owTile x.v2) row
        tldRowWrite o x t.val row (codesAt r g.1 g.2) false s
    | .tst .. => modBead o (modEntry 1 e fun e => { e with fin := e.fin + 1 }) s
    | .dtFill _ _ => fillEntry o x row (reqCodes r) s
    | _ => s

/-- A strand run's request is answered: its data is held for consumption, or written for a copy into own data memory. -/
def runDone (o n idx : Nat) (r : Req) (s : State) : State :=
  let k := strandOf (beadOf s o) n
  let s1 := if sdTarget k.desc = 1 ∧ !r.copy ∧ r.kind == .read then
      upTo r.n (fun t i => dmemPut o ((r.dstDev - ownBase o) / 32 + i) (nth poisonCode (reqCodes r) i) t) s
    else s
  modBead o (modStrand n fun k => { k with
    runs := modFirst (fun x => x.idx == idx && x.req == r.id) (fun x => { x with
      got := true, data := reqCodes r, bad := r.failed != [], stale := r.stale, staleAt := r.staleAt, phys := r.phys })
      k.runs }) s1

/-- Index entries arrive (R357): four to a granule. -/
def indexDone (o n run : Nat) (r : Req) (s : State) : State :=
  let g := goodData (nth poisonCode (reqCodes r) 0)
  modBead o (modStrand n fun k => { k with
    index := upTo 4 (fun t i => tblPut t (4 * run + i) (BitVec.ofNat 64 (bitsOf g.toNat (64 * i) 64))) k.index }) s

/-- The mask word of an MM.BWD is at hand (R296): a poisoned one ends the entry at its start. -/
def maskIs (id off : Nat) (c : Code) (b : Bead) : Bead :=
  modEntry 0 id (fun x => { x with
    maskWord := some (BitVec.ofNat 64 (bitsOf (goodData c).toNat (8 * off) 64)), maskPoison := isBad c }) b

/-- An MM.BWD mask word arrives from a slice. -/
def maskDone (o e : Nat) (r : Req) (s : State) : State :=
  modBead o (maskIs e (r.bytes % 32) (nth poisonCode (reqCodes r) 0)) s

/-- A drain row's write is acknowledged. -/
def drainRowDone (o e : Nat) (s : State) : State := modBead o (modEntry 2 e fun x => { x with fin := x.fin + 1 }) s

/-- A reachable port to a module (R464, R467, R468). -/
def portTo (s : State) (m : Nat) : Option Nat :=
  if !s.chain.numv then none
  else (List.range 16).find? fun p =>
    let q := tblGet {} s.chain.ports p
    (q.st == .up || q.st == .degraded) && q.peer.toNat == m

/-- A bead has a request slot free (R362). -/
def reqSlotFree (b : Bead) : Bool := decide ((slotted b).length < 48)

/-- The tag of a message of the S-queue: the request slot that it takes (R411). [DESIGN CHOICE: log 37] -/
def slotTag (b : Bead) : BitVec 10 := BitVec.ofNat 10 (freeSlot b)

/-- A message of the S-queue takes a request slot (R362). [DESIGN CHOICE: log 37] -/
def holdSlot (o : Nat) (owner : ReqOwner) (kind : ReqKind) (addr : Nat) (s : State) : State :=
  let b := beadOf s o
  countEv o 0x0F 1 (modBead o
    (addReq { newReq b owner kind addr 1 with st := .issued, slot := some (freeSlot b), parts := 1 }) s)

/-- A message of the S-queue leaves under a request slot. -/
def sendHeld (o : Nat) (owner : ReqOwner) (kind : ReqKind) (m : Msg) (s : State) : State :=
  sendMsg { m with tag := slotTag (beadOf s o) } (holdSlot o owner kind m.addr.toNat s)

/-- The message of a CH entry's unit (R130, R479, R516). [DEDUCED: log 36] -/
def chMsg (s : State) (o : Nat) (e : QEntry) (u : Nat) (data : List Code) : Msg :=
  let g := chUnit e u
  let m : Msg := { msg0 with
    dst := node (nodePort ((portTo s (chMod e)).getD 0)), src := node (nodeBead o)
    addr := BitVec.ofNat 48 ((if isChAcc' e then chAddr e else chAddr e / 32 * 32) + 32 * g.1)
    module := BitVec.ofNat 4 (chMod e), stream := 8 }
  if isChRd' e then { m with op := opRead, aux0 := BitVec.ofNat 32 g.2 }
  else if isChAcc' e then { m with
    op := opSum, len := data.length, data := data, bf16 := true
    step := e.v3.setWidth 32, cmask := BitVec.ofNat 64 (2 ^ bitsOf e.v3.toNat 32 6) }
  else { m with op := opWrite, len := data.length, data := data }

/-- A unit's local granules lie in own data memory. -/
def chOwn (o : Nat) (e : QEntry) (u : Nat) : Bool :=
  let g := chUnit e u
  (List.range g.2).all fun i => inOwnDmem o (chLocal e + 32 * g.1 + 32 * i)

/-- A unit's first granule of own data memory. -/
def chGran (o : Nat) (e : QEntry) (u : Nat) : Nat := (chLocal e + 32 * (chUnit e u).1 - ownBase o) / 32

/-- The local granules of a unit that lies in own data memory, or that a request has brought, and the state that has read
them. -/
def chData (s : State) (o : Nat) (e : QEntry) (u : Nat) : Option (List Code × State) :=
  if chOwn o e u then some (ownRead o (chGran o e u) (chUnit e u).2 s)
  else
    ((beadOf s o).reqs.find? fun r => r.owner == .chain e.id u && r.st == .issued && r.slot.isNone && r.parts == 0).map
      fun r => (reqCodes r, s)

/-- The owner of a CH unit's message. [DEDUCED: log 36; DESIGN CHOICE: log 37] -/
def chOwner (e : QEntry) (u : Nat) : ReqOwner := .sent e.id u (BitVec.ofNat 4 (chMod e))

/-- The request that has brought a unit's granules is done with. -/
def chDrop (e u : Nat) (b : Bead) : Bead :=
  { b with reqs := dropFirst (fun r => r.owner == .chain e u && r.slot.isNone && r.parts == 0) b.reqs }

/-- The engine sends the next unit of a CH.WR or CH.ACC whose granules are at hand, in order. -/
def chPump1 (o id : Nat) (s : State) : State :=
  match findEntry (beadOf s o) 3 id with
  | none => s
  | some e =>
    if e.st != .started || e.bad.isSome || !(isChWr' e || isChAcc' e) || decide (chUnits e ≤ e.next) ||
        !reqSlotFree (beadOf s o) then s
    else
      match chData s o e e.next with
      | none => s
      | some x =>
        sendHeld o (chOwner e e.next) .write (chMsg s o e e.next x.1)
          (modBead o (fun b => chDrop id e.next (modEntry 3 id (fun x => { x with next := x.next + 1 }) b)) x.2)

/-- Every unit that can go leaves. [DEDUCED: log 36] -/
def chPump (o id : Nat) (s : State) : State :=
  match findEntry (beadOf s o) 3 id with
  | none => s
  | some e => upTo (chUnits e) (fun t _ => chPump1 o id t) s

/-- CH.RD asks for its next unit, once the one before is in its place. -/
def chAsk (o id : Nat) (s : State) : State :=
  match findEntry (beadOf s o) 3 id with
  | none => s
  | some e =>
    if e.st == .started && e.bad.isNone && isChRd' e && e.next == e.fin && decide (e.next < chUnits e) &&
        reqSlotFree (beadOf s o) then
      sendHeld o (chOwner e e.next) .read (chMsg s o e e.next []) (modBead o (modEntry 3 id fun x => { x with
        next := x.next + 1, asked := s.clock.tick.toNat }) s)
    else s

/-- The S-queue's head goes on where it waited for a request slot. -/
def chGo (o : Nat) (s : State) : State :=
  match runningHead (beadOf s o) 3 with
  | some e => if isChRd' e then chAsk o e.id s else chPump o e.id s
  | none => s

/-- A unit of CH.RD is in its place. -/
def chPlaced (o id : Nat) (s : State) : State := chAsk o id (modBead o (modEntry 3 id fun x => { x with fin := x.fin + 1 }) s)

/-- A READ_RESP of a CH.RD's unit: every granule is written, the failed ones poisoned (R132). The rules do not say whether
XFADDR then gives the local or the remote address of the first poisoned granule: the model gives the local one (R144).
[DESIGN CHOICE: log 107] -/
def chReadResp (o id u : Nat) (m : Msg) (before : State) : State :=
  match (runningHead (beadOf before o) 3).filter fun e => e.id == id && isChRd' e && e.next == u + 1 && e.fin == u with
  | none => before
  | some e =>
      let g := chUnit e u
      let s := m.data.foldl (fun t c => countLook o c t) before
      let data := (List.range g.2).map fun i =>
        if bitOf (stPart m) i then poisonCode else passOn (nth poisonCode m.data i)
      let firstBad := (List.range g.2).find? fun i => isBad (nth 0 data i)
      let s1 := modBead o (modEntry 3 e.id fun x => { x with
        poisonAt := if firstBad.isSome && x.poisonAt.isNone then some (g.1 + firstBad.getD 0) else x.poisonAt
        poisonAddr := if firstBad.isSome && x.poisonAt.isNone
          then BitVec.ofNat 48 (chLocal e + 32 * (g.1 + firstBad.getD 0)) else x.poisonAddr }) s
      let a := chLocal e + 32 * g.1
      if chOwn o e u then
        chPlaced o e.id (upTo g.2 (fun t i => dmemPut o (chGran o e u + i) (nth 0 data i) t) s1)
      else makeReq o { newReq (beadOf s1 o) (.chain e.id u) .write a g.2 with
        data := data, mask := List.replicate g.2 (BitVec.allOnes 32) } s1

/-- A chain transfer's local read or write is answered: a read's granules wait in the request's place for the engine. -/
def chainUnitDone (o e unit : Nat) (r : Req) (s : State) : State :=
  match r.kind with
  | .read =>
    chPump o e (modBead o (fun b => { b with
      reqs := b.reqs ++ [{ r with owner := .chain e unit, st := .issued, slot := none, parts := 0 }] }) s)
  | _ => chPlaced o e s

/-- A request whose parts have all been answered leaves its slot and goes to its owner (R336); one with granules still to
ask for asks again. -/
def reqDone (o : Nat) (r : Req) (v : Word) (s : State) : State :=
  if decide (r.got.length < r.n) && r.owner != .abandoned then
    modBead o (modReq r.id fun r => { r with st := .ready, slot := none }) s
  else
  let s1 := modBead o (fun b => if r.owner == .abandoned then dropReq r.id b else l1Fill s r (dropReq r.id b)) s
  match r.owner with
  | .hartLoad h => hartLoadDone o h.val r s1
  | .hartStore h => hartStoreDone o h.val s1
  | .hartAtomic h => hartAtomicDone o h.val r r.cls.toNat v s1
  | .tileRow e row => tileRowDone o e row r s1
  | .drainRow e _ => drainRowDone o e s1
  | .mask e => maskDone o e r s1
  | .run n idx => runDone o n.val idx r s1
  | .index n run => indexDone o n.val run r s1
  | .chain e unit => chainUnitDone o e unit r s1
  | .sent _ _ _ | .clasp _ | .abandoned => s1

/-- The part that an answer is for, by the address that its message named. -/
def partAt (s : State) (r : Req) (dst : Bool) (a : Nat) : List Nat :=
  ((reqParts s r).find? fun g => nth 0 (if dst then r.dstPhys else r.phys) (nth 0 g 0) == a).getD []

/-- Granules of a request are at hand, restored, or poisoned where the bead finds them lost (R390). -/
def gotGrans (is : List Nat) (data : List Code) (r : Req) : Req :=
  { r with got := (is.zip data).foldl (fun t p => tblPut t p.1 (passOn p.2)) r.got }

/-- The class of the lowest failing granule stands (R336): what the target reports failed, and what the bead itself finds
lost on arrival, of class UNCORR (R390). -/
def joinClass (r : Req) (is : List Nat) (data : List Code) (m : Msg) : Req :=
  let told (i : Nat) : Bool := bitOf (stPart m) (i - nth 0 is 0)
  let lost (i : Nat) : Bool := (decodeCode (nth 0 data (i - nth 0 is 0))).1 == .uncorr
  let bad := is.filter fun i => told i || lost i
  let c : BitVec 4 := if told (nth 0 bad 0) then BitVec.ofNat 4 (stClass m) else 1
  let first : Bool := match r.failed with
    | [] => true
    | f :: _ => decide (nth 0 bad 0 < f)
  { r with
    failed := if first then bad ++ r.failed else r.failed ++ bad
    cls := if bad ≠ [] ∧ first then c else if bad = [] ∧ stClass m ≠ 0 ∧ r.cls = 0 then
      BitVec.ofNat 4 (stClass m) else r.cls }

/-- What a request makes of an answer: the granules, the failed ones with their class, one part fewer. -/
def takePart (is : List Nat) (data : List Code) (m : Msg) (r : Req) : Req :=
  gotGrans is data { joinClass r is data m with parts := r.parts - 1 }

/-- The outstanding request of a bead with a slot. -/
def reqOfSlot (b : Bead) (slot : Nat) : Option Req := b.reqs.find? fun r => r.slot == some slot && r.st == .issued

/-- A request that nobody waits for is answered: its slot is free once its last part is (R426). -/
def partGone (o : Nat) (r : Req) (s : State) : State :=
  modBead o (if r.parts ≤ 1 then dropReq r.id else modReq r.id fun r => { r with parts := r.parts - 1 }) s

/-- A READ_RESP answers a part of a request (R337): its granules fill the request; a copy whose source failed is written
poisoned by the bead itself (R354). An answer that fits no part of the request is no answer to it. -/
def partReadResp (o : Nat) (r : Req) (m : Msg) (s : State) : State :=
    let is := partAt s r false m.addr.toNat
    let data := if m.data = [] then List.replicate is.length poisonCode else m.data
    if is = [] then s
    else if r.copy then
      let d := nth 0 r.dstPhys (nth 0 is 0)
      let w : Msg := { msg0 with
        dst := node ((placeNode (placeOf s.mem.splitNow.toNat d)).getD 0), src := node (nodeBead o), op := opWrite,
        addr := BitVec.ofNat 48 d, len := is.length, data := List.replicate is.length poisonCode, tag := m.tag,
        stream := reqStream (beadOf s o) r }
      sendFromBead o w s
    else
      let r1 := takePart is data m r
      let s1 := m.data.foldl (fun t c => countLook o c t) (modBead o (modReq r.id fun _ => r1) s)
      if r1.parts = 0 then reqDone o r1 0 s1 else s1

/-- A READ_RESP reaches a bead: its tag is the slot of the request that it answers (R411); behind it the S-queue's head may
find a slot free. -/
def beadReadResp (o : Nat) (m : Msg) (s : State) : State :=
  match reqOfSlot (beadOf s o) m.tag.toNat with
  | none => s
  | some r =>
    chGo o (match r.owner with
      | .abandoned => partGone o r s
      | .sent e u _ => if r.dev = m.addr.toNat then chReadResp o e u m (partGone o r s) else s
      | _ => partReadResp o r m s)

/-- The answer of a clasp holder to a take or a wait (R449), where the entry that asked still runs. -/
def claspAck (o id : Nat) (m : Msg) (s : State) : State :=
  match (runningHead (beadOf s o) 3).filter fun e => e.id == id with
  | none => s
  | some e =>
    match stClass m with
    | 0 => modBead o (modEntry 3 e.id fun e => { e with fin := 1 }) s
    | 1 => failEntry o 3 e.id fcClaspUnder 0 0 s
    | 2 => failEntry o 3 e.id fcClaspTimeout 0 0 s
    | _ => recordInvalid o (e.v1.toNat % 2 ^ 29) 1 (failEntry o 3 e.id fcInvalid 0 0 s)

/-- A remote error of a chain message is recorded, and the S-queue goes on (R132, R483). The rules speak of an error that
reaches a completed entry; the model treats one that comes while its entry still sends alike.
[DESIGN CHOICE: log 107] -/
def remoteError (o : Nat) (m : Msg) (s : State) : State :=
  if stClass m = 0 then s
  else recordFault { cls := 0x0E, source := BitVec.ofNat 12 o, addrV := true, addr := m.addr, module := m.module,
                     detail := BitVec.ofNat 64 (m.module.toNat + 16 * stClass m) } s

/-- A WRITE_ACK answers a part of a write, a copy or an atomic (R336, R338). -/
def partWriteAck (o : Nat) (r : Req) (m : Msg) (s : State) : State :=
  let v : Word := m.aux0.setWidth 64 ||| (m.aux1.setWidth 64 <<< 32)
  let is := partAt s r r.copy m.addr.toNat
  let r1 := takePart is (is.map fun _ => 0) m r
  let s1 := modBead o (modReq r.id fun _ => r1) s
  if is = [] then s else if r1.parts = 0 then reqDone o r1 v s1 else s1

/-- A WRITE_ACK comes from a chain port. -/
def fromPort (m : Msg) : Bool := decide (0x810 ≤ m.src.val) && decide (m.src.val < 0x820)

/-- A WRITE_ACK reaches a bead: its tag is the slot of what it answers (R411); a port's answer that finds its slot given up is
the refusal of a remote signal, whose entry has completed (R448). -/
def beadWriteAck (o : Nat) (m : Msg) (s : State) : State :=
  match reqOfSlot (beadOf s o) m.tag.toNat with
  | none => if fromPort m then remoteError o m s else s
  | some r =>
    chGo o (match r.owner with
      | .abandoned => partGone o r s
      | .sent e _ _ =>
        if r.dev ≠ m.addr.toNat then remoteError o m s
        else if e = 0 then partGone o r s
        else remoteError o m (partGone o r s)
      | .clasp e => claspAck o e m (partGone o r s)
      | _ => if fromPort m then remoteError o m s else partWriteAck o r m s)

/-- A stale notice reaches the strand that its tag names (R158, R374, R375): granules that the strand and watched rows
of tile transfers hold and have not consumed are marked; what a copy has written is consumed (R349, R376).
[DEDUCED: log 41, 87] -/
def beadStale (o : Nat) (m : Msg) (s : State) : State :=
  let a := m.addr.toNat
  let n := m.tag.toNat % 8
  modBead o (fun b =>
    let mine (r : Req) : Bool := match r.owner with
      | .run k _ => k.val == n
      | .index _ _ => false
      | _ => true
    let mark (x : StrandRun) : StrandRun :=
      if x.got && x.phys.contains a then
        let i := ((List.range x.phys.length).find? fun i => nth 0 x.phys i == a).getD 0
        { x with stale := true, staleAt := if x.stale then min i x.staleAt else i }
      else x
    modStrand n (fun k =>
      if k.running && sdWatch k.desc && sdTarget k.desc == 0 then { k with runs := k.runs.map mark } else k)
      { b with reqs := b.reqs.map fun r => if r.watch && mine r then staleGran a r else r }) s
where
  -- the first of its received granules at a physical address is stale
  staleGran (a : Nat) (r : Req) : Req :=
    match (r.got.find? fun p => nth 0 r.phys p.1 == a).map (·.1) with
    | some i => { r with stale := true, staleAt := if r.stale then min i r.staleAt else i }
    | none => r

end Sys2Proof.Machine
end

