-- ==== Sys2Proof/Machine/StackIo.lean ====
section
/-! DEFINITION. What every access to a stack or slice granule does: counting, retirement candidates, rereads, generations,
stale notices; and the scrubbers (chapters 9 to 11). -/

namespace Sys2Proof.Machine

def setBezel (z : Nat) (b : Bezel) (s : State) : State := { s with bezels := tblSet {} s.bezels z b }
def modBezel (z : Nat) (f : Bezel → Bezel) (s : State) : State := setBezel z (f (bezelOf s z)) s

/-- Stack-local bytes of 64 GiB. -/
def stackBytes : Nat := 64 * gib

/-- The physical address that places at a stack-local address (R314, R315). -/
def stackPhys (split z l : Nat) : Nat :=
  if l < split * gib then
    let q := l / 4096
    let low := z ^^^ bitsOf q 0 4 ^^^ bitsOf q 4 4
    q * 65536 + low * 4096 + l % 4096
  else
    let q := (l - split * gib) / 4096
    let half := b2n ((z % 2 == 1) != bitOf q 8)
    16 * split * gib + z / 2 * (2 * (64 - split) * gib) + q * 8192 + half * 4096 + l % 4096

/-- The physical address of a stack-local address with the SPLIT in force. -/
def physOfLocal (s : State) (z l : Nat) : Nat := stackPhys s.mem.splitNow.toNat z l

/-- The bezel's counts of a decoded granule (R399). -/
def eccCount (l : Look) (read : Bool) (b : Bezel) : Bezel :=
  match l with
  | .clean => b
  | .corr1 => { b with corr1 := satInc b.corr1 }
  | .corr2 => { b with corr2 := satInc b.corr2 }
  | .uncorr => { b with uncorr := satInc b.uncorr }
  | .poisoned => if read then { b with poison := satInc b.poison } else b

/-- A granule is corrected. [DEDUCED: log 42] -/
def corrected (l : Look) : Bool := l == .corr1 || l == .corr2

/-- A correction in a frame (R400, R401): the frame becomes a retirement candidate when it reaches THRESH, once in a
pass; with AUTO set it is retired without GO (R738). -/
def frameCorrected (z l : Nat) (s : State) : State :=
  let f := l / 4096
  let b := bezelOf s z
  let n := tblGet 0 b.frames f + 1
  let s1 := setBezel z { b with frames := tblSet 0 b.frames f n } s
  if b.thresh ≠ 0 ∧ b.thresh.toNat ≤ n ∧ !b.reported.contains f then
    let s2 := modBezel z (fun b => { b with
      reported := b.reported ++ [f]
      retiring := if b.retireAuto then b.retiring ++ [f] else b.retiring }) s1
    hubRaise (96 + z) (recordAddr 0x04 (blkBezel z) (physOfLocal s z (f * 4096)) 1 s2)
  else s1

/-- The row that an access opens (R805), plus one. [DESIGN CHOICE: log 22] -/
def dramRow (l : Nat) : Nat := Config.rowOf (rowColOf l) + 1

/-- An access opens its row in its bank (R805). -/
def openAt (z l : Nat) (s : State) : State := modBezel z (fun b => { b with openRow := tblSet 0 b.openRow (bankOf l) (dramRow l) }) s

/-- A stack granule read or scrubbed: its row is open, the outcome is counted, and its frame's corrections (R393, R399, R401,
R663, R805). [DEDUCED: log 42] -/
def stackLook (z l : Nat) (c : Code) (read : Bool) (s : State) : State :=
  let k := (decodeCode c).1
  let s1 := openAt z l (modBezel z (eccCount k read) (countLook (blkBezel z) c s))
  if corrected k then frameCorrected z l s1 else s1

/-- The code word stored at a stack-local address. -/
def stackCode (s : State) (z l : Nat) : Code := codeAt s.mem (stackSrc s z l)

/-- The frame has counted corrections in the present pass (R401). -/
def priorMark (s : State) (z l : Nat) : Bool := tblGet 0 (bezelOf s z).frames (l / 4096) != 0

/-- A granule read at a stack-local address for use: its decoded code word, and the state after the counts. -/
def stackUse (z l : Nat) (s : State) : Code × State :=
  let c := stackCode s z l
  (c, stackLook z l c true s)

/-- A line that the host may hold, or whose BIRsp is still awaited, among the addresses that a device-side write reaches (R563).
[DEDUCED: log 43] -/
def heldLines (b : Bezel) (touches : List Nat) : List Nat :=
  (b.lines ++ (b.snoops.map (·.1)).filter fun ln => !b.lines.contains ln).filter fun ln => touches.any fun l => l / 64 == ln

/-- BISnpInv for a line, unless one is out already (R563, counter 0x09). [DEDUCED: log 43] -/
def snoop (z line : Nat) (s : State) : State :=
  if (bezelOf s z).snoops.any fun p => p.1 == line then s
  else emit (.biSnoop z line) (countEv (blkBezel z) 0x09 1 (modBezel z (fun b => { b with snoops := b.snoops ++ [(line, absCk s)] }) s))

/-- A watch entry covers a physical granule. [DEDUCED: log 41] -/
def watchHit (p : Nat) (w : Watch) : Bool := decide (w.lo ≤ p) && decide (p ≤ w.hi)

/-- Stale notices for a write to a granule (R373): one to each strand whose watched range holds it.
[DEDUCED: log 41] -/
def staleNotices (z p : Nat) (s : State) : State :=
  ((bezelOf s z).watch.filter (watchHit p)).foldl (fun t w =>
    countEv (blkBezel z) 0x08 1 (sendMsg { msg0 with
      dst := node (nodeBead w.bead.val), src := node (nodeBezel z), op := opStale, addr := BitVec.ofNat 48 p
      tag := BitVec.ofNat 10 w.strand.val, stream := 1 } t)) s

/-- A generation-table entry whose copy 0 or copy 1 holds an address. -/
def genCopy (e : GenEnt) (copy l : Nat) : Bool :=
  e.valid && decide (e.lo.toNat + copy * e.twin.toNat ≤ l) && decide (l < e.hi.toNat + copy * e.twin.toNat)

/-- The first write into copy (CUR + 1) mod 2 of an entry clears OLDV (R539). -/
def genWritten (z l : Nat) (s : State) : State :=
  modBezel z (fun b => { b with gens := b.gens.map fun p =>
    if (p.2.oldv && genCopy p.2 ((p.2.cur.toNat + 1) % 2) l) then (p.1, { p.2 with oldv := false }) else p }) s

/-- A granule applied at a stack-local address by any writer (R373, R539, R805). -/
def stackStore (z l : Nat) (c : Code) (s : State) : State :=
  staleNotices z (physOfLocal s z (l / 32 * 32)) (genWritten z l (openAt z l (stackPut z l (passOn c) s)))

/-- The generation-table entry whose copy 0 holds an address. -/
def genEntry (b : Bezel) (l : Nat) : Option GenEnt := (b.gens.find? fun p => genCopy p.2 0 l).map (·.2)

/-- Where a read of an address is served (R537, R538); none for a generation that is gone. -/
def genRead (b : Bezel) (l : Nat) (gen : Option Word32) : Option Nat :=
  match genEntry b l with
  | none => some l
  | some e =>
    let at_ (g : Nat) : Nat := l + g % 2 * e.twin.toNat
    match gen with
    | none => some (at_ e.cur.toNat)
    | some g =>
      if g = e.cur then some (at_ g.toNat)
      else if e.oldv ∧ g = e.cur - 1 then some (at_ g.toNat)
      else none

/-- A granule that a stack or slice read finds UNCORR waits for its rereads (R690). [DEDUCED: log 82] -/
def addReread (p detail : Nat) (s : State) : State :=
  if s.mem.rereads.any fun r => r.1 == p then s
  else { s with mem := { s.mem with rereads := s.mem.rereads ++ [(p, detail)] } }

/-- A granule read at a stack-local address by a unit of the bezel's own, or by the locket: one that decodes UNCORR is
recorded and waits for its rereads (R340, R401, R690). [DEDUCED: log 82] -/
def unitUse (node z l : Nat) (s : State) : Code × State :=
  let u := stackUse z l s
  if (decodeCode u.1).1 = .uncorr then
    let p := physOfLocal s z (l / 32 * 32)
    (u.1, hubRaise (96 + z) (addReread p (1 + 256 + 4096 * node) (recordPart (blkBezel z) p 1 1 node (priorMark s z l) u.2)))
  else u

/-- The stored granule read for a write of part of it: where it is bad, the failed part is recorded with its class (R338,
R340, R392). -/
def mergeUse (node z l : Nat) (s : State) : Code × State :=
  let u := unitUse node z l s
  if (decodeCode u.1).1 = .poisoned then (u.1, recordPart (blkBezel z) (physOfLocal s z (l / 32 * 32)) 1 2 node false u.2) else u

/-- The class of a granule that arrives in a write (R336, R390): one that decodes UNCORR is stored poisoned and reported. -/
def arrivedClass (c : Code) : Nat := if (decodeCode c).1 = .uncorr then 1 else 0

/-- A WRITE_PART's granule merged into the stored one (R389, R390, R392): the code word and the class of the part, the stored
granule's where both are bad. -/
def writePart (old c : Code) (mask : Word32) : Code × Nat :=
  let k := decodeCode c
  let w := mergeWrite old (dataOf k.2) mask
  if goodLook k.1 then w else (poisonCode, if w.2 ≠ 0 then w.2 else arrivedClass c)

/-- The lowest failing granule's number and class, and the part mask, of a list of granule outcomes. -/
def partOf (cls : List Nat) : Nat × Nat × Nat :=
  let idx := (List.range cls.length).filter fun i => nth 0 cls i != 0
  match idx with
  | [] => (0, 0, 0)
  | i :: _ => ((idx.map fun j => 2 ^ j).sum, nth 0 cls i, i)

/-- The record of a granule that a scrub or a copy finds UNCORR (R396, R401, R734). -/
def scrubRecord (z l : Nat) (prior : Bool) (s : State) : State :=
  hubRaise (96 + z) (recordFault { cls := 0x03, source := BitVec.ofNat 12 (blkBezel z), addrV := true, prior := prior
                                   addr := BitVec.ofNat 48 (physOfLocal s z l), detail := BitVec.ofNat 64 z } s)

/-- Granules of a patrol-scrub pass: each tick one burst of 8 granules in each of 32 channels (R395). -/
def scrubStep (z l : Nat) (s : State) : State :=
  let c := stackCode s z l
  let k := (decodeCode c).1
  let s1 := stackLook z l c false s
  if corrected k then stackPut z l (passOn c) s1
  else if k = .uncorr then
    scrubRecord z l (priorMark s z l) (stackPut z l poisonCode s1)
  else s1

/-- PATROL_SCRUB (R395 to R398): the tick's burst in every channel; a pass ends behind the last.
[DEDUCED: log 42] -/
def patrol (z : Nat) (s : State) : State :=
  let pos := (bezelOf s z).scrubPos
  let s1 := upTo 32 (fun t ch => upTo 8 (fun t g => scrubStep z (pos * 8192 + ch * 256 + g * 32) t) t) s
  modBezel z (fun b =>
    if pos + 1 < 8388608 then { b with scrubPos := pos + 1 }
    else { b with scrubPos := 0, passes := b.passes + 1, frames := [], reported := [] }) s1

/-- PATROL_SCRUB (R395). -/
def execPatrolScrub (b : BezelN) (s : State) : Host.Outcome State Fault Refusal :=
  whenOk s (mainUp s && (bezelOf s b.val).scrubEn) (patrol b.val s)

/-- One granule scrubbed in a slice or a data memory (R396, R397): flat number, block and physical address. -/
def sramScrub (g blk id p : Nat) (s : State) : State :=
  let c := codeAt s.mem g
  let k := (decodeCode c).1
  let s1 := countLook blk c s
  if corrected k then putCode s1 g (passOn c)
  else if k = .uncorr then recordAddr 0x03 blk p id (putCode s1 g poisonCode)
  else s1

/-- The keys of a bank's own place in its scrub walk: slices, then data memories. -/
def sliceBankKey (i k : Nat) : Nat := 8 * i + k
def beadBankKey (o k : Nat) : Nat := 1024 + 24 * o + k

/-- The banks that requesters want of a slice in this ck: those of the waiting requests' granules (R369). The granules are given by their offset.
[DEDUCED: log 42] -/
def sliceWants (s : State) (i : Nat) : List Nat :=
  ((tblGet [] s.mem.slices i).take 16).flatMap fun r =>
    ((List.range (max 1 (reqLen r.msg))).filter fun j => !r.got.any fun p => p.1 == j).filterMap fun j =>
      match placeOf s.mem.splitNow.toNat (r.msg.addr.toNat + 32 * j) with
      | .slice k off => if k = i then some (off / 32 % 8) else none
      | _ => none

/-- One granule of a bank of a slice, or of a data memory, is scrubbed, and the bank's walk goes on. -/
def scrubSliceBank (i k : Nat) (s : State) : State :=
  let pos := tblGet 0 s.mem.scrubPos (sliceBankKey i k)
  let g := 8 * pos + k
  let s1 := sramScrub (sliceGran i g) (blkSlice i) (i % 16) (slicePhys i (32 * g)) (countEv (blkSlice i) 0x06 1 s)
  { s1 with mem := { s1.mem with scrubPos := tblSet 0 s1.mem.scrubPos (sliceBankKey i k) ((pos + 1) % 16384) } }
def scrubBeadBank (o k : Nat) (s : State) : State :=
  let pos := tblGet 0 s.mem.scrubPos (beadBankKey o k)
  let g := 24 * pos + k
  let s1 := sramScrub (dmemGran o g) o (o % 16) (beadPhys o (32 * g)) s
  { s1 with mem := { s1.mem with scrubPos := tblSet 0 s1.mem.scrubPos (beadBankKey o k) ((pos + 1) % 1024) } }

/-- STACK_REFRESH (R805): a bank is refreshed, and its open row closes. -/
def execStackRefresh (b : BezelN) (bank : Fin 512) (s : State) : Host.Outcome State Fault Refusal :=
  whenOk s (mainUp s)
    (modBezel b.val (fun z => { z with openRow := tblSet 0 z.openRow bank.val 0 }) s)

/-- BZL_ECC_STAT as it reads (R399). -/
def eccStat (b : Bezel) : Word :=
  BitVec.ofNat 64 (b.corr1.toNat + b.corr2.toNat * 2 ^ 16 + b.uncorr.toNat * 2 ^ 32 + b.poison.toNat * 2 ^ 48)

/-- BZL_ECC_STAT after a read. -/
def eccStatClear (w : Width) (b : Bezel) : Bezel :=
  { b with
    corr1 := rc w 15 0 b.corr1 0
    corr2 := rc w 31 16 b.corr2 0
    uncorr := rc w 47 32 b.uncorr 0
    poison := rc w 63 48 b.poison 0 }

/-- BZL_ECC_STAT_READ (R399). -/
def execBzlEccStatRead (b : BezelN) (w : Width) (s : State) : Host.Outcome State Fault Refusal :=
  .next (regReadRow (offBzl b.val 0x00) w (eccStat (bezelOf s b.val)) (modBezel b.val (eccStatClear w)) s)

end Sys2Proof.Machine
end

