-- ==== Sys2Proof/Machine/Reduce.lean ====
section
/-! DEFINITION. Gradient reduction, the sampled check, the fused update unit, generations and the commit (chapter 15). -/

namespace Sys2Proof.Machine

def recOf (b : Bezel) (r : Nat) : RedRec := tblGet {} b.recs r
def setRec (z r : Nat) (v : RedRec) (s : State) : State := modBezel z (fun b => { b with recs := tblSet {} b.recs r v }) s
def modRec (z r : Nat) (f : RedRec → RedRec) (s : State) : State := setRec z r (f (recOf (bezelOf s z) r)) s

/-- First stack-local address of a bezel's intakes (R514). -/
def intakeBase (b : Bezel) : Nat := b.intakeLo.toNat * 2048
/-- A stack-local address lies in the intake range (R514). -/
def inIntake (b : Bezel) (l : Nat) : Bool := decide (intakeBase b ≤ l) && decide (l < intakeBase b + 2048 * b.nblk.toNat)
/-- Record and byte of an intake address. -/
def intakeRec (b : Bezel) (l : Nat) : Nat := (l - intakeBase b) / 2048
def intakeOff (b : Bezel) (l : Nat) : Nat := (l - intakeBase b) % 2048

/-- The number of bits set. -/
def bitsSet (w : Word) : Nat := countIf (fun i => bitOf w.toNat i) (List.range 64)

def segMask (r : RedRec) (i : Nat) : Word := tblGet 0 r.segs i
/-- Segments that must fill, and granules of contribution that COUNT reaches (R521). -/
def segsUsed (r : RedRec) : Nat := (r.count.toNat + 63) / 64
def gransUsed (r : RedRec) : Nat := (r.count.toNat + 15) / 16

/-- A message's step and contributor mask (R517). -/
def conStep (m : Msg) (r : RedRec) : Word32 := if m.op = opSum then m.step else r.step
def conMask (m : Msg) (r : RedRec) : Word := if m.op = opSum then m.cmask else BitVec.ofNat 64 (2 ^ r.localC.toNat)

/-- The segments that a message covers. -/
def conSegs (off len : Nat) : List Nat := if len = 8 then [off / 128, off / 128 + 1] else [off / 128]

/-- The order of the rule of R518 that decides, and the class of the answer. -/
def conRule (b : Bezel) (l : Nat) (m : Msg) : Nat × Nat :=
  let r := recOf b (intakeRec b l)
  let off := intakeOff b l
  let segs := conSegs off m.len
  let new (i : Nat) : Word := conMask m r &&& ~~~ segMask r i
  let port := decide (0x810 ≤ m.src.val) && decide (m.src.val < 0x820)
  if r.st = .free then (1, 5)
  else if (m.op != opSum && m.op != opWrite) || (m.op == opSum && !m.bf16) || l % 128 != 0 || (m.len != 4 && m.len != 8) ||
      (m.len == 8 && off / 128 == 15) || (m.op == opWrite && (port || !r.localV)) then (2, 5)
  else if m.data.any isBad then (3, (partOf (m.data.map fun c => lookClass (decodeCode c).1)).2.1)
  else if conStep m r < r.step then (4, 0)
  else if r.step < conStep m r then (5, 5)
  else if segs.all fun i => new i == 0 then (6, 0)
  else if (segs.any fun i => new i != 0 && new i != conMask m r) || (segs.any fun i => new i == 0) then (7, 5)
  else if r.st ≠ .open_ then (8, 5)
  else if segs.any fun i => decide (r.expect.toNat < bitsSet (segMask r i ||| conMask m r)) then (9, 5)
  else (10, 0)

/-- A fan-out that still uses its request number: it goes on, or some of its 8 writes are not answered yet (R411, R534). -/
def fanOpen (f : Fan) : Bool := !f.dead || decide (f.acks < 8)

/-- A record becomes BROKEN (R546): it waits for Nutas, and its fan-outs end. Where a record lies in the reserve the spec
does not say. [DESIGN CHOICE: log 19; DEDUCED: log 43] -/
def breakRec (z r : Nat) (s : State) : State :=
  let s1 := modBezel z (fun b => { b with
    completed := b.completed.filter fun k => k != r
    verdicts := tblSet 0 b.verdicts r 0
    fans := (b.fans.map fun f => if f.record = r then { f with dead := true } else f).filter fanOpen })
    (modRec z r (fun v => { v with st := .broken }) s)
  hubRaise (80 + z) (recordAddr 0x13 (blkBezel z) ((Config.freeWord (65536 * z + r) 511).toNat % 2 ^ 48) (r + z * 65536) s1)

/-- Granule `j` of record `r` is sampled (R523). -/
def isSampled (b : Bezel) (r j : Nat) (step : Word32) : Bool :=
  b.rate != 0 && (64 * r + j + step.toNat) % 2 ^ b.rate.toNat == 0

/-- A BF16 element widened into FP32 (R520). -/
def widen (v : Nat) : Word32 := pack32 (enterVal bf16 (BitVec.ofNat 16 v))
/-- The 16 elements of a contribution granule. -/
def conElems (d : Gran) : List Word32 := (List.range 16).map fun i => widen (bitsOf d.toNat (16 * i) 16)
/-- The 8 FP32 words of a granule, and a granule of words. -/
def granWords (d : Gran) : List Word32 := (List.range 8).map fun i => BitVec.ofNat 32 (bitsOf d.toNat (32 * i) 32)
def wordsGran (l : List Word32) : Gran := BitVec.ofNat 256 (ofBytes (l.flatMap fun w => toBytes 4 w.toNat))

/-- Eight sums, from parameter `p` of a record on, take their contributions (R520): the first overwrites, a later one is
added; elements at or above COUNT are not written. -/
def addSums (z : Nat) (r : RedRec) (p : Nat) (first : Bool) (vals : List Word32) (s : State) : State :=
  if r.count.toNat ≤ p then s
  else
    let l := r.sums.toNat + 4 * p
    let whole := decide (p + 8 ≤ r.count.toNat)
    if first && whole then stackStore z l (encodeGran (wordsGran vals)) s
    else
      let u := if whole then unitUse (nodeBezel z) z l s else mergeUse (nodeBezel z) z l s
      if isBad u.1 then stackStore z l poisonCode u.2
      else
        let old := granWords (goodData u.1)
        let new := (List.range 8).map fun i =>
          if r.count.toNat ≤ p + i then nth 0 old i
          else if first then nth 0 vals i else fpAdd (nth 0 old i) (nth 0 vals i)
        stackStore z l (encodeGran (wordsGran new)) u.2

/-- One contribution granule is applied, and copied to the check bezel where it is sampled (R520, R523).
[DESIGN CHOICE: log 17; DEDUCED: log 43] -/
def addGran (z ri j : Nat) (r : RedRec) (first : Bool) (d : Gran) (s : State) : State :=
  let vals := conElems d
  let s1 := addSums z r (16 * j + 8) first (vals.drop 8) (addSums z r (16 * j) first (vals.take 8) s)
  if isSampled (bezelOf s z) ri j r.step then
    modBezel (z ^^^ 1) (fun b => { b with chkIn := b.chkIn ++ [.copy z ri j r.step first d] })
      (countEv (blkBezel z) 0x0E 1 s1)
  else s1

/-- FP32 words of `n` granules from a stack-local address, read by a bezel's own unit; none where a granule is bad. -/
def useWords (z l n : Nat) (s : State) : Option (List Word32) × State :=
  upTo n (fun a i =>
    let u := unitUse (nodeBezel z) z (l + 32 * i) a.2
    (match a.1 with
      | some ws => if isBad u.1 then none else some (ws ++ granWords (goodData u.1))
      | none => none, u.2)) (some [], s)

/-- The owner's FP32 sums of a sampled granule, read for the check; none of them where one is lost, which the update then
finds too (R390, R525, R533). [DEDUCED: log 43] -/
def ownSums (z : Nat) (r : RedRec) (j : Nat) (s : State) : List Word32 × State :=
  let n := min 16 (r.count.toNat - 16 * j)
  let u := useWords z (r.sums.toNat + 64 * j) ((n + 7) / 8) s
  ((u.1.getD []).take n, u.2)

/-- The sampled granules of a record; of one above COUNT no sum is compared (R523, R525). -/
def sampledOf (b : Bezel) (ri : Nat) (r : RedRec) : List Nat :=
  if r.expect = 0 then [] else (List.range 64).filter fun j => isSampled b ri j r.step

/-- A record becomes COMPLETE (R521, R525, R526): it joins the unit's order, and its sampled sums go to the check bezel. -/
def completeRec (z ri : Nat) (s : State) : State :=
  let b := bezelOf s z
  let r := recOf b ri
  let js := sampledOf b ri r
  let s1 := modBezel z (fun b => { b with
    completed := b.completed ++ [ri]
    verdicts := if b.halt then tblSet 0 b.verdicts ri js.length else b.verdicts })
    (setRec z ri { r with st := .complete } s)
  js.foldl (fun t j =>
    let u := ownSums z r j t
    modBezel (z ^^^ 1) (fun b => { b with chkIn := b.chkIn ++ [.sums z ri j r.step u.1] }) u.2) s1

/-- Every segment that COUNT reaches holds EXPECT bits (R521). -/
def recFull (r : RedRec) : Bool := (List.range (segsUsed r)).all fun i => bitsSet (segMask r i) == r.expect.toNat

/-- A message that rule 10 of R518 applies. -/
def conApply (z l : Nat) (m : Msg) (s : State) : State :=
  let b := bezelOf s z
  let ri := intakeRec b l
  let r := recOf b ri
  let off := intakeOff b l
  let s1 := upTo m.len (fun t k =>
    let j := off / 32 + k
    addGran z ri j r (segMask r (j / 4) == 0) (goodData (nth 0 m.data k)) t) s
  let r1 : RedRec := { r with segs := (conSegs off m.len).foldl (fun t i => tblMod 0 t i fun w => w ||| conMask m r) r.segs }
  let s2 := countEv (blkBezel z) 0x0A 1 (setRec z ri r1 s1)
  if recFull r1 then completeRec z ri s2 else s2

/-- A message reaches an intake (R518, R519): its class and part mask, and the state. [DEDUCED: log 43] -/
def contribute (z l : Nat) (m : Msg) (s : State) : Nat × Nat × State :=
  let b := bezelOf s z
  let q := conRule b l m
  let ri := intakeRec b l
  match q.1 with
  | 10 => (0, 0, conApply z l m s)
  | 4 | 6 => (0, 0, countEv (blkBezel z) 0x0B 1 (modBezel z (fun b => { b with dup := satInc b.dup }) s))
  | k =>
    let step := conStep m (recOf b ri)
    let s1 := recordMore 0x11 (blkBezel z) l (ri + bitsOf step.toNat 0 16 * 2 ^ 16 + k * 2 ^ 32 + m.src.val * 2 ^ 36)
      [step.setWidth 64, conMask m (recOf b ri)] (countEv (blkBezel z) 0x0C 1 (modBezel z (fun b => { b with refused := satInc b.refused }) s))
    let pm := if k = 3 then (partOf (m.data.map fun c => lookClass (decodeCode c).1)).1 else fullMask (min 8 m.len)
    (q.2, pm, if k = 7 then breakRec z ri s1 else s1)

/-- The stack-local addresses of the granules that a contribution writes. -/
def conTouches (b : Bezel) (l : Nat) (m : Msg) : List Nat :=
  if (conRule b l m).1 = 10 then
    let r := recOf b (intakeRec b l)
    (List.range (2 * m.len)).map fun k => r.sums.toNat + 2 * intakeOff b l + 32 * k
  else []

/-- A check entry of a granule. -/
def isEntry (o r j : Nat) (step : Word32) (e : ChkEntry) : Bool :=
  e.owner == o && e.record == r && e.gran == j && e.step == step

/-- The magnitude of an FP32 value. -/
def mag32 (w : Word32) : Word32 := w &&& 0x7FFFFFFF

/-- A copy reaches the check adders (R524). [DEDUCED: log 43] -/
def checkCopy (z o r j : Nat) (step : Word32) (first : Bool) (d : Gran) (s : State) : State :=
  let b := bezelOf s z
  let vals := conElems d
  let fresh (e : ChkEntry) : ChkEntry := if e.skipped then e else { e with sums := vals, mags := vals.map mag32 }
  match b.chk.find? (isEntry o r j step) with
  | some e =>
    let e1 := if first then fresh e
      else if e.skipped then e
      else { e with sums := List.zipWith fpAdd e.sums vals, mags := List.zipWith fpAdd e.mags (vals.map mag32) }
    setBezel z { b with chk := modFirst (isEntry o r j step) (fun _ => e1) b.chk } s
  | none =>
    if countIf (fun e => !e.skipped) b.chk < 1024 then
      setBezel z { b with chk := b.chk ++ [fresh { owner := o, record := r, gran := j, step := step }] } s
    else setBezel z { b with
      chk := b.chk ++ [{ owner := o, record := r, gran := j, step := step, skipped := true }]
      chkSkip := satInc b.chkSkip } s

/-- SAMPLED_GRANULE_COPY (R524). -/
def execSampledGranuleCopy (b : BezelN) (s : State) : Host.Outcome State Fault Refusal :=
  match (bezelOf s b.val).chkIn with
  | .copy o r j step first d :: rest =>
    whenOk s (mainUp s)
      (checkCopy b.val o r j step first d (modBezel b.val (fun b => { b with chkIn := rest }) s))
  | _ => .next s

/-- An element matches (R525): both NaN, equal infinities, or finite and within 2^-TOL of the magnitude sum. -/
def checkMatch (tol : Nat) (a b m : Word32) : Bool :=
  let x := val32 a
  let y := val32 b
  if isNan x && isNan y then true
  else if isFin x && isFin y then
    match val32 m with
    | .inf _ => true
    | .nan => false
    | .fin _ k e =>
      let d := dyAdd (dyOf x) (dyNeg (dyOf y))
      !dyLt ⟨k, e - tol⟩ ⟨d.m.natAbs, d.e⟩
  else a == b && !isNan x

/-- A mismatch of one element, whose two sums and STEP the record names too (R526). [DEDUCED: log 43] -/
def checkMiss (z o r j i : Nat) (step x y : Word32) (s : State) : State :=
  let l := intakeBase (bezelOf s o) + 2048 * r + 32 * j
  hubRaise (64 + z) (recordMore 0x12 (blkBezel z) l (r + j * 2 ^ 16 + i * 2 ^ 22)
    [x.setWidth 64, y.setWidth 64, step.setWidth 64] (modBezel z (fun b => { b with chkMiss := satInc b.chkMiss }) s))

/-- A verdict reaches the owner (R526): with HALT set a mismatch breaks the record. [DEDUCED: log 43] -/
def verdict (o r : Nat) (bad : Bool) (s : State) : State :=
  let b := bezelOf s o
  let n := tblGet 0 b.verdicts r
  if n = 0 then s
  else if bad then breakRec o r s
  else setBezel o { b with verdicts := tblSet 0 b.verdicts r (n - 1) } s

/-- The owner's sums are compared with the check bezel's own (R525, R526). [DEDUCED: log 43] -/
def checkSums (z o r j : Nat) (step : Word32) (vals : List Word32) (s : State) : State :=
  let b := bezelOf s z
  match b.chk.find? (isEntry o r j step) with
  | none => verdict o r false s
  | some e =>
    let s1 := setBezel z { b with chk := dropFirst (isEntry o r j step) b.chk } s
    if e.skipped then verdict o r false s1
    else
      let bad := (List.range vals.length).filter fun i =>
        !checkMatch b.tol.toNat (nth 0 vals i) (nth 0 e.sums i) (nth 0 e.mags i)
      verdict o r (bad != []) (bad.foldl (fun t i => checkMiss z o r j i step (nth 0 vals i) (nth 0 e.sums i) t) s1)

/-- SAMPLED_CHECK_COMPARE (R525). -/
def execSampledCheckCompare (b : BezelN) (s : State) : Host.Outcome State Fault Refusal :=
  match (bezelOf s b.val).chkIn with
  | .sums o r j step vals :: rest =>
    whenOk s (mainUp s)
      (checkSums b.val o r j step vals (modBezel b.val (fun b => { b with chkIn := rest }) s))
  | _ => .next s

/-- Fields of an optimiser set (R527). -/
def osKind (d : BitVec 512) : Nat := bitsOf d.toNat 0 2
def osFp16 (d : BitVec 512) : Bool := bitOf d.toNat 2
def osWord (d : BitVec 512) (byte : Nat) : Word32 := BitVec.ofNat 32 (bitsOf d.toNat (8 * byte) 32)
def one32f : Word32 := 0x3F800000

/-- A parameter's master and moments. -/
structure Param where
  t : Word32
  m : Word32
  v : Word32
  deriving DecidableEq, Repr

/-- sign(x) as LION takes it (R529): a zero gives +0, a NaN stays one. -/
def sign32 (x : Word32) : Word32 :=
  let v := val32 x
  if isNan v then nan32 else if isZero v then 0 else if negOf v then 0xBF800000 else one32f

/-- One parameter's update (R529). -/
def optStep (d : BitVec 512) (g : Word32) (p : Param) : Param :=
  let eta := osWord d 4
  let b1 := osWord d 8
  let b2 := osWord d 12
  let decay := fpMul (osWord d 20) p.t
  let move (x : Word32) : Word32 := fpSub p.t (fpMul eta (fpAdd x decay))
  match osKind d with
  | 0 =>
    let m := fpAdd (fpMul b1 p.m) (fpMul (fpSub one32f b1) g)
    let v := fpAdd (fpMul b2 p.v) (fpMul (fpSub one32f b2) (fpMul g g))
    let q := fpDiv (fpMul (osWord d 32) m) (fpAdd (fpSqrt (fpMul (osWord d 36) v)) (osWord d 16))
    ⟨move q, m, v⟩
  | 1 =>
    let m := fpAdd (fpMul (osWord d 24) p.m) g
    ⟨move m, m, p.v⟩
  | 2 =>
    let u := sign32 (fpAdd (fpMul b1 p.m) (fpMul (fpSub one32f b1) g))
    ⟨move u, fpAdd (fpMul b2 p.m) (fpMul (fpSub one32f b2) g), p.v⟩
  | _ => ⟨fpAdd p.t g, p.m, p.v⟩

/-- The working copy of a master (R529, R531). -/
def workOf (d : BitVec 512) (t : Word32) : Nat :=
  if osFp16 d then packVal fp16 .rne (val32 t)
  else
    match val32 t with
    | .fin n m e => roundBf16 .rne n m e
    | v => packVal bf16 .rne v

/-- A parameter with its sum (R529, R530): the new values, and whether it is counted as not finite. -/
def optParam (d : BitVec 512) (sum : Word32) (p : Param) : Param × Bool :=
  let g := fpMul (osWord d 28) sum
  if !isFin (val32 g) then (p, true)
  else
    let q := optStep d g p
    (q, !isFin (val32 q.t))

/-- FP32 values written from a stack-local address; a last granule in part is merged (R392). -/
def storeBytes (z l : Nat) (bytes : List Byte) (s : State) : State :=
  upTo ((bytes.length + 31) / 32) (fun t i =>
    let part := (bytes.drop (32 * i)).take 32
    if part.length = 32 then stackStore z (l + 32 * i) (encodeGran (granOf part)) t
    else
      let u := mergeUse (nodeBezel z) z (l + 32 * i) t
      stackStore z (l + 32 * i) (mergeWrite u.1 (granOf part) (BitVec.ofNat 32 (2 ^ part.length - 1))).1 u.2) s

/-- What the unit needs of a record's region: copies read and written (R528, R536). -/
structure UnitPlace where
  work : Nat
  src : Nat
  dst : Nat
  deriving DecidableEq, Repr

/-- Where the unit reads and writes. -/
def unitPlace (b : Bezel) (r : RedRec) : UnitPlace :=
  let e := tblGet {} b.gens r.region.toNat
  let c := e.cur.toNat % 2
  ⟨r.work.toNat + (1 - c) * e.twin.toNat, r.optst.toNat + c * e.twin.toNat, r.optst.toNat + (1 - c) * e.twin.toNat⟩

/-- One group of 64 parameters (R529, R532, R533): the state, and whether a granule was bad. -/
def unitGroup (z : Nat) (r : RedRec) (d : BitVec 512) (w : UnitPlace) (k : Nat) (s : State) : Bool × State :=
  let p0 := 64 * k
  let n := min 64 (r.count.toNat - p0)
  let gn := (n + 7) / 8
  let useM := osKind d != 3
  let useV := osKind d == 0
  let a := if r.expect = 0 then (some (List.replicate (8 * gn) 0), s) else useWords z (r.sums.toNat + 4 * p0) gn s
  let t := useWords z (w.src + 4 * p0) gn a.2
  let m := if useM then useWords z (w.src + 0x1000 + 4 * p0) gn t.2 else (some (List.replicate (8 * gn) 0), t.2)
  let v := if useV then useWords z (w.src + 0x2000 + 4 * p0) gn m.2 else (some (List.replicate (8 * gn) 0), m.2)
  match a.1, t.1, m.1, v.1 with
  | some as, some ts, some ms, some vs =>
    let out := (List.range n).map fun i => optParam d (nth 0 as i) ⟨nth 0 ts i, nth 0 ms i, nth 0 vs i⟩
    let words (f : Param → Word32) : List Byte := out.flatMap fun q => toBytes 4 (f q.1).toNat
    let s1 := storeBytes z (w.dst + 4 * p0) (words (·.t)) v.2
    let s2 := if useM then storeBytes z (w.dst + 0x1000 + 4 * p0) (words (·.m)) s1 else s1
    let s3 := if useV then storeBytes z (w.dst + 0x2000 + 4 * p0) (words (·.v)) s2 else s2
    let s4 := storeBytes z (w.work + 2 * p0) (out.flatMap fun q => toBytes 2 (workOf d q.1.t)) s3
    let bad := countIf (fun q => q.2) out
    (true, countEv (blkBezel z) 0x0D n (modBezel z (fun b => { b with nonfinite := satInc b.nonfinite bad }) s4))
  | _, _, _, _ => (false, v.2)

/-- The modules that receive a region's working copies, the own one apart (R534). -/
def fanTargets (s : State) (e : GenEnt) : List Nat :=
  (List.range 16).filter fun n => bitOf e.fanmask.toNat n && !(s.chain.numv && s.chain.num.toNat == n)

/-- The least request number of a bezel node that no fan-out holds (R411). [DESIGN CHOICE: log 37] -/
def freeFanTag (b : Bezel) : Nat :=
  ((List.range 1024).find? fun t => b.fans.all fun f => f.tag != t).getD 0

/-- The 8 granules of a fan-out WRITE, read from the working copy (R393, R534). -/
def fanData (z l : Nat) (s : State) : List Code × State :=
  upTo 8 (fun a k =>
    let u := unitUse (nodeBezel z) z (l + 32 * k) a.2
    (a.1 ++ [passOn u.1], u.2)) ([], s)

/-- The fan-out WRITEs to one module (R534). -/
def fanOut (z ri n : Nat) (w : UnitPlace) (addr : Nat) (s : State) : State :=
  match portTo s n with
  | none => breakRec z ri s
  | some p =>
    let tag := freeFanTag (bezelOf s z)
    let s1 := modBezel z (fun b => { b with fans := b.fans ++ [{ record := ri, module := n, tag := tag }] }) s
    upTo 8 (fun t i =>
      let d := fanData z (w.work + 256 * i) t
      sendMsg { msg0 with
        dst := node (nodePort p), src := node (nodeBezel z), op := opWrite, addr := BitVec.ofNat 48 (addr + 256 * i), len := 8
        module := BitVec.ofNat 4 n, tag := BitVec.ofNat 10 tag, data := d.1, stream := 2 } d.2) s1

/-- The record that the unit takes next, if it may be updated now (R526, R528). -/
def unitNext (b : Bezel) : Option Nat :=
  match b.completed with
  | ri :: _ => if tblGet 0 b.verdicts ri = 0 then some ri else none
  | [] => none

/-- The unit updates a record (R528 to R535). [DEDUCED: log 43] -/
def unitRun (z ri : Nat) (s : State) : State :=
  let b := bezelOf s z
  let r := recOf b ri
  let e := tblGet {} b.gens r.region.toNat
  let d := tblGet 0 b.optActive r.oset.toNat
  let w := unitPlace b r
  let s1 := modBezel z (fun b => { b with completed := b.completed.drop 1 }) (setRec z ri { r with st := .updating } s)
  let out := upTo (segsUsed r) (fun a k => if a.1 then unitGroup z r d w k a.2 else a) (true, s1)
  if !out.1 then breakRec z ri out.2
  else
    let addr := r.fanaddr.toNat + (if (e.cur.toNat + 1) % 2 = 1 then e.fantwin.toNat else 0)
    match fanTargets out.2 e with
    | [] => modRec z ri (fun v => { v with st := .updated }) out.2
    | l => l.foldl (fun t n => if (recOf (bezelOf t z) ri).st = .updating then fanOut z ri n w addr t else t) out.2

/-- Stack-local addresses of the lines that an update writes. -/
def unitTouches (b : Bezel) (ri : Nat) : List Nat :=
  let r := recOf b ri
  let w := unitPlace b r
  let n := (r.count.toNat + 15) / 16
  (List.range n).flatMap fun k => [w.dst + 64 * k, w.dst + 0x1000 + 64 * k, w.dst + 0x2000 + 64 * k, w.work + 32 * k]

/-- The update unit has waited for its lines since before a ck, counted from tick 0 (R564). -/
def unitWaits (b : Bezel) (ck : Nat) : Bool := b.unitHeld != 0 && decide (b.unitHeld ≤ ck + 1)

/-- FUSED_UPDATE (R529): where the host holds a line that the update writes, the unit has it invalidated first (R563). -/
def execFusedUpdate (b : BezelN) (s : State) : Host.Outcome State Fault Refusal :=
  let z := b.val
  match unitNext (bezelOf s z) with
  | none => .next s
  | some ri =>
    let held := heldLines (bezelOf s z) (unitTouches (bezelOf s z) ri)
    if held = [] then
      whenOk s (mainUp s && decide ((bezelOf s z).fans.length + 16 ≤ 1024))
        (unitRun z ri (modBezel z (fun b => { b with unitHeld := 0 }) s))
    else
      whenOk s (mainUp s)
        (held.foldl (fun t l => snoop z l t) (modBezel z (fun b => { b with
          unitHeld := if b.unitHeld = 0 then absCk s + 1 else b.unitHeld }) (modRec z ri (fun v => { v with st := .updating }) s)))

/-- A fan-out write is answered (R534, R535); an answer to one of a record that is BROKEN already frees its number alone. -/
def bezelAck (z : Nat) (m : Msg) (s : State) : State :=
  match (bezelOf s z).fans.find? fun f => f.tag == m.tag.toNat with
  | none => s
  | some f =>
    let s1 := modBezel z (fun b => { b with
      fans := (modFirst (fun g => g.tag == m.tag.toNat) (fun g => { g with acks := g.acks + 1 }) b.fans).filter fanOpen }) s
    if stClass m ≠ 0 ∧ f.dead = false then breakRec z f.record s1 else s1

/-- The clasp address word of the signal to a module (R96, R534). -/
def fanWord (n : Nat) (c : BitVec 12) : Word32 := BitVec.ofNat 32 (c.toNat + 3 * 2 ^ 12 + n * 2 ^ 24 + 2 ^ 28)

/-- The fan-out of a record to a module whose writes have all been answered, and whose SIGNAL is due (R534). -/
def fanDue (ri n : Nat) (f : Fan) : Bool := f.record == ri && f.module == n && f.acks == 8 && !f.sent && !f.dead

/-- The signal to a module joins the bezel node's queue (R534, R535). -/
def fanSignal (z ri n : Nat) (f : Fan) (s : State) : State :=
  let b := bezelOf s z
  let e := tblGet {} b.gens (recOf b ri).region.toNat
  match portTo s n with
  | none => breakRec z ri s
  | some p =>
    sendMsg { msg0 with
      dst := node (nodePort p), src := node (nodeBezel z), op := opSignal, module := BitVec.ofNat 4 n
      tag := BitVec.ofNat 10 f.tag, aux0 := fanWord n e.fanclasp, aux1 := 1, stream := 3 }
      (modBezel z (fun b => { b with fans := modFirst (fanDue ri n) (fun g => { g with sent := true }) b.fans }) s)

/-- FANOUT_SIGNAL (R535). -/
def execFanoutSignal (b : BezelN) (ri : Fin 65536) (n : PortN) (s : State) : Host.Outcome State Fault Refusal :=
  match (bezelOf s b.val).fans.find? (fanDue ri.val n.val) with
  | none => .next s
  | some f => whenOk s (mainUp s) (fanSignal b.val ri.val n.val f s)

/-- A bezel node has injected a signal of a fan-out: with the last one its record becomes UPDATED (R535). -/
def fanInjected (z : Nat) (m : Msg) (s : State) : State :=
  match (bezelOf s z).fans.find? fun f => f.sent && f.tag == m.tag.toNat with
  | none => s
  | some f =>
    let s1 := modBezel z (fun b => { b with fans := dropFirst (fun g => g == f) b.fans }) s
    if f.dead ∨ (bezelOf s1 z).fans.any (fun g => g.record == f.record && !g.dead) = true then s1
    else modRec z f.record (fun v => { v with st := .updated }) s1

/-- The commit's two conditions (R543). -/
def commitReady (s : State) : Bool :=
  ((List.range 16).all fun z => (bezelOf s z).recs.all fun p =>
    p.2.st == .free || p.2.st == .updated || !bitOf s.commit.regions.toNat p.2.region.toNat) &&
  decide (s.commit.count.toNat ≤ claspCount s (131072 + s.commit.clasp.toNat))

/-- COMMIT_ARM (R543): the count is taken from the clasp, and the flip is due at the boundary that R27 allows. -/
def execCommitArm (s : State) : Host.Outcome State Fault Refusal :=
  let k := 131072 + s.commit.clasp.toNat
  let s1 := setClasp k (claspCount s k - s.commit.count.toNat) s
  whenOk s (mainUp s && s.commit.waiting && commitReady s)
    { s1 with commit := { s1.commit with waiting := false, armed := true, due := armDue s } }

/-- COMMIT_REQ (R542): ignored while WAITING or ARMED. -/
def commitReq (s : State) : State :=
  if s.commit.waiting || s.commit.armed then s else { s with commit := { s.commit with waiting := true, cancelled := false } }

def execCommitReq (m : Master) (s : State) : Host.Outcome State Fault Refusal :=
  .next (regWriteRow m offCommitCtl commitReq s)

/-- COMMIT_CANCEL (R542): ignored unless WAITING. -/
def commitCancel (s : State) : State :=
  if !s.commit.waiting then s else { s with commit := { s.commit with waiting := false, cancelled := true } }

def execCommitCancel (m : Master) (s : State) : Host.Outcome State Fault Refusal :=
  .next (regWriteRow m offCommitCtl commitCancel s)

/-- A record opens (R521): one that expects no contribution, or whose masks hold all it expects, is COMPLETE at once. -/
def openRec (z ri : Nat) (s : State) : State :=
  let s1 := modRec z ri (fun v => { v with st := .open_ }) s
  if (recOf (bezelOf s z) ri).expect = 0 ∨ recFull (recOf (bezelOf s z) ri) = true then completeRec z ri s1 else s1

/-- The flip of one bezel (R544). -/
def flipBezel (z : Nat) (mask : Word) (s : State) : State :=
  let named (r : Nat) : Bool := bitOf mask.toNat r
  let s1 := modBezel z (fun b => { b with
    gens := (List.range 64).foldl (fun t k => if named k then tblMod {} t k fun e => { e with cur := e.cur + 1, oldv := true } else t) b.gens
    optActive := b.optShadow
    optShadow := b.optActive }) s
  let rs := ((bezelOf s z).recs.filter fun p => p.2.st == .updated && named p.2.region.toNat).map (·.1)
  rs.foldl (fun t ri => openRec z ri (modRec z ri (fun v => { v with step := v.step + 1, segs := [] }) t)) s1

/-- The generation flip (R544). -/
def flip (s : State) : State :=
  let s1 := upTo 16 (fun t z => flipBezel z s.commit.regions t) s
  { s1 with commit := { s1.commit with waiting := false, armed := false, flips := s1.commit.flips + 1 } }

/-- A plan is loaded, waiting or running (R612). -/
def planRuns (s : State) : Bool := s.nutas.plan.phase == .running || s.nutas.plan.phase == .stopping

/-- BZL_RED_CFG as it reads (R547). -/
def redCfg (b : Bezel) : Word := BitVec.ofNat 64 (b.nblk.toNat + b.intakeLo.toNat * 2 ^ 17)

/-- The intake range of a register value lies within 64 GiB (R547). -/
def redCfgFits (v : Word) : Bool := decide (bitsOf v.toNat 17 25 * 2048 + 2048 * bitsOf v.toNat 0 17 ≤ stackBytes)

/-- BZL_RED_CFG takes a value (R547): NBLK above 65,536 is ignored. -/
def redCfgSet (v : Word) (b : Bezel) : Bezel :=
  { b with
    nblk := if bitsOf v.toNat 0 17 ≤ 65536 then BitVec.ofNat 17 (bitsOf v.toNat 0 17) else b.nblk
    intakeLo := BitVec.ofNat 25 (bitsOf v.toNat 17 25) }

/-- BZL_RED_CFG_WRITE (R547): ignored and recorded while a plan runs, or where the range would not fit. -/
def redCfgWrite (z : Nat) (w : Width) (v : Word) (s : State) : State :=
  let b := redCfgSet (wrWidth w (redCfg (bezelOf s z)) v) (bezelOf s z)
  if planRuns s || !redCfgFits (redCfg b) then forbidden (offBzl z 0x10) s else setBezel z b s

def execBzlRedCfgWrite (m : Master) (b : BezelN) (w : Width) (v : Word) (s : State) : Host.Outcome State Fault Refusal :=
  .next (regWriteRow m (offBzl b.val 0x10) (redCfgWrite b.val w v) s)

/-- BZL_RED_STAT as it reads (R549). -/
def redStat (b : Bezel) : Word :=
  BitVec.ofNat 64 (b.dup.toNat + b.refused.toNat * 2 ^ 16 + b.nonfinite.toNat * 2 ^ 32 + b.chkMiss.toNat * 2 ^ 48 +
    b.chkSkip.toNat * 2 ^ 56)

/-- BZL_RED_STAT after a read. -/
def redStatClear (w : Width) (b : Bezel) : Bezel :=
  { b with
    dup := rc w 15 0 b.dup 0
    refused := rc w 31 16 b.refused 0
    nonfinite := rc w 47 32 b.nonfinite 0
    chkMiss := rc w 55 48 b.chkMiss 0
    chkSkip := rc w 63 56 b.chkSkip 0 }

/-- BZL_RED_STAT_READ (R549). -/
def execBzlRedStatRead (b : BezelN) (w : Width) (s : State) : Host.Outcome State Fault Refusal :=
  .next (regReadRow (offBzl b.val 0x20) w (redStat (bezelOf s b.val)) (modBezel b.val (redStatClear w)) s)

end Sys2Proof.Machine
end

