-- ==== Sys2Proof/Machine/Fabric.lean ====
section
/-! DEFINITION. Routers: settings, injection, scheduled and arbitrated switching, sum hops, failed endpoints (chapter 12).
In scheduled mode a message is switched with its head, and its data flits follow in their slots; in arbitrated mode each flit
is switched for itself. -/

namespace Sys2Proof.Machine

/-- Column and row of a router (R402). -/
def routerX (r : Nat) : Nat := 9 * (r / 144 % 4) + r % 9
def routerY (r : Nat) : Nat := 16 * (r / 576) + r % 144 / 9
/-- The router at a column and row. -/
def routerAt (x y : Nat) : Nat := posIdx (4 * (y / 16) + x / 9) (y % 16) (x % 9)

/-- Ports of a router: 0 N, 1 E, 2 S, 3 W, 4 L, 5 P (R403). The neighbour of a mesh port, where it has a link. -/
def neighbour (r port : Nat) : Option Nat :=
  let x := routerX r
  let y := routerY r
  match port with
  | 0 => if y = 0 then none else some (routerAt x (y - 1))
  | 1 => if x = 35 then none else some (routerAt (x + 1) y)
  | 2 => if y = 31 then none else some (routerAt x (y + 1))
  | 3 => if x = 0 then none else some (routerAt (x - 1) y)
  | _ => none

/-- The facet of a router. -/
def routerFacet (r : Nat) : Nat := r / 144

/-- Ck that a flit takes over a mesh link: 1 on a die, 3 over a bridge between facets (R404). -/
def linkCk (r r' : Nat) : Nat := if routerFacet r = routerFacet r' then 1 else 3

/-- The input code at which a flit sent out of a port arrives: N 1, E 2, S 3, W 4, L 5, P 6 (R415). -/
def arrivesAt (port : Nat) : Nat :=
  match port with
  | 0 => 3
  | 1 => 4
  | 2 => 1
  | 3 => 2
  | _ => 0

/-- Fields of a route entry (R415). -/
def reStart (e : BitVec 128) : Nat := bitsOf e.toNat 0 14
def reCount (e : BitVec 128) : Nat := bitsOf e.toNat 14 15
def rePeriod (e : BitVec 128) : Nat := bitsOf e.toNat 29 14
/-- The input switched to an output. -/
def reSel (e : BitVec 128) (out : Nat) : Nat := bitsOf e.toNat (43 + 3 * out) 3
/-- The summing output; 7 none. -/
def reSum (e : BitVec 128) : Nat := bitsOf e.toNat 61 3
def reSumSrc (e : BitVec 128) : Nat := bitsOf e.toNat 64 3
def reSumFmt (e : BitVec 128) : Bool := bitOf e.toNat 67
def reLtag (e : BitVec 128) : Nat := bitsOf e.toNat 68 4
def rePtag (e : BitVec 128) : Nat := bitsOf e.toNat 72 4

/-- The number of an entry's slot at a ck (R416). -/
def slotAt (e : BitVec 128) (ck : Nat) : Option Nat :=
  if ck < reStart e then none
  else if reCount e ≤ 1 then (if ck = reStart e ∧ reCount e = 1 then some 0 else none)
  else if rePeriod e ≠ 0 ∧ (ck - reStart e) % rePeriod e = 0 ∧ (ck - reStart e) / rePeriod e < reCount e
    then some ((ck - reStart e) / rePeriod e) else none

/-- The entries of a router's active bank. -/
def activeEntries (s : State) (r : Nat) : List (BitVec 128) := (tblGet {} s.fabric.active r).entries

/-- The active entries with a slot at a ck, with the slot's number. -/
def entriesAt (s : State) (r ck : Nat) : List (BitVec 128 × Nat) :=
  (activeEntries s r).filterMap fun e => (slotAt e ck).map fun i => (e, i)

/-- An entry names an input: at an output, or as the summing source. -/
def namesInput (e : BitVec 128) (inp : Nat) : Bool :=
  (List.range 6).any (fun o => reSel e o == inp) || (reSum e != 7 && reSumSrc e == inp)

/-- The entries that take an input at a ck, with their slots: the flit goes to the outputs of each (R416). -/
def takersOf (s : State) (r ck inp : Nat) : List (BitVec 128 × Nat) := (entriesAt s r ck).filter fun p => namesInput p.1 inp

/-- The slots of an entry. -/
def slotCks (e : BitVec 128) : List Nat := (List.range (reCount e)).map fun i => reStart e + i * rePeriod e

/-- Whether a flit at an input in a ck comes, slot by slot along the active setting, to the through input of a summing output
(R806); each hop takes a ck of the tick's 16,384 at least. -/
def leadsToSum (s : State) (fuel r ck inp : Nat) : Bool :=
  match fuel with
  | 0 => false
  | fuel + 1 =>
    (takersOf s r ck inp).any fun p =>
      (List.range 6).any fun o =>
        reSel p.1 o == inp &&
        (reSum p.1 == o ||
          match neighbour r o with
          | some r' => leadsToSum s fuel r' (ck + linkCk r r') (arrivesAt o)
          | none => false)

/-- An entry is framed (R806): it sums, or one of its injection slots at L or P leads to a summing output. -/
def framed (s : State) (r : Nat) (e : BitVec 128) : Bool :=
  reSum e != 7 ||
  ((namesInput e 5 || namesInput e 6) && (slotCks e).any fun ck =>
    (namesInput e 5 && leadsToSum s 16384 r ck 5) || (namesInput e 6 && leadsToSum s 16384 r ck 6))

/-- The stream that an entry lets in at L or P. -/
def entryTag (e : BitVec 128) (inp : Nat) : Nat := if inp = 5 then reLtag e else rePtag e

/-- A slot of a ck that a stream's data flits may take: not in a framed entry, which keeps its frames, and not taken. -/
def slotFree (s : State) (r inp tag : Nat) (taken : List Nat) (ck : Nat) : Bool :=
  !taken.contains (s.clock.tick.toNat * 16384 + ck) &&
  (takersOf s r ck inp).any fun p => (entryTag p.1 inp == tag || entryTag p.1 inp == 15) && !framed s r p.1

/-- The next `k` free slots of a stream, from a ck on within the tick (R421). -/
def nextSlots (s : State) (r inp tag : Nat) (taken : List Nat) : Nat → Nat → Nat → List Nat
  | 0, _, _ => []
  | _ + 1, _, 0 => []
  | fuel + 1, ck, k + 1 =>
    if slotFree s r inp tag taken ck then ck :: nextSlots s r inp tag taken fuel (ck + 1) k
    else nextSlots s r inp tag taken fuel (ck + 1) (k + 1)

/-- The slots of a message's data flits, where its head may go in an entry's slot (R421, R806): the slots of the frame that
follow a frame start with room for the message, or else the next slots of the stream, as many as it has flits. -/
def dataSlots (s : State) (r ck inp tag : Nat) (taken : List Nat) (e : BitVec 128) (i : Nat) (m : Msg) : Option (List Nat) :=
  if framed s r e then
    if i % 9 = 0 ∧ i + m.len < reCount e then some ((List.range m.len).map fun k => ck + (k + 1) * rePeriod e) else none
  else
    let l := nextSlots s r inp tag taken (16383 - ck) (ck + 1) m.len
    if l.length = m.len then some l else none

/-- Two SUMWRITE heads that a sum hop joins (R429, R431). -/
def sumMatch (bf : Bool) (a b : Msg) : Bool :=
  a.op == opSum && b.op == opSum && a.addr == b.addr && a.module == b.module && a.len == b.len && a.bf16 == b.bf16 &&
  a.bf16 == bf && a.step == b.step && (a.cmask &&& b.cmask) == 0

/-- One data flit of a sum (R430). -/
def sumGran (bf : Bool) (a b : Code) : Code :=
  if isBad a || isBad b then poisonCode
  else
    let x := (goodData a).toNat
    let y := (goodData b).toNat
    if bf then
      let lane (i : Nat) : Nat :=
        match valAdd (enterVal bf16 (BitVec.ofNat 16 (bitsOf x (16 * i) 16))) (enterVal bf16 (BitVec.ofNat 16 (bitsOf y (16 * i) 16))) with
        | .fin n m e => roundBf16 .rne n m e
        | v => packVal bf16 .rne v
      encodeGran (BitVec.ofNat 256 (ofBytes ((List.range 16).flatMap fun i => toBytes 2 (lane i))))
    else
      let lane (i : Nat) : Nat := (fpAdd (BitVec.ofNat 32 (bitsOf x (32 * i) 32)) (BitVec.ofNat 32 (bitsOf y (32 * i) 32))).toNat
      encodeGran (BitVec.ofNat 256 (ofBytes ((List.range 8).flatMap fun i => toBytes 4 (lane i))))

/-- The message that a sum hop makes of two (R429). [DESIGN CHOICE: log 104] -/
def sumMsg (a b : Msg) : Msg :=
  { a with
    cmask := a.cmask ||| b.cmask
    data := List.zipWith (sumGran a.bf16) a.data b.data
    also := a.also ++ [(b.src, b.tag)] ++ b.also }

def flightsOf (s : State) (r : Nat) : List Flight := tblGet [] s.fabric.flights r
def setFlights (r : Nat) (l : List Flight) (s : State) : State :=
  { s with fabric := { s.fabric with flights := tblSet [] s.fabric.flights r l } }
def pushFlight (r : Nat) (f : Flight) (s : State) : State := setFlights r (flightsOf s r ++ [f]) s

/-- A node has been declared failed (R438). -/
def nodeFailed (s : State) (n : Nat) : Bool := s.fabric.failed.contains n

/-- The answer of class TARGET_DOWN to a request that a router discards (R681). -/
def targetDown (m : Msg) (s : State) : State :=
  if m.op = opRead then sendMsg (readResp m [] (fullMask (reqLen m)) 3) s
  else if m.op = opWrite ∨ m.op = opPart ∨ m.op = opAtomic ∨ m.op = opSum then sendMsg (writeAck m (fullMask m.len) 3 0) s
  else if m.op = opSignal ∧ bitsOf m.aux0.toNat 29 2 ≠ 0 then sendMsg (writeAck m 0 3 0) s
  else s

/-- A record of a discarded flit, with the router's own node ID, and the count of the flits discarded (R413, R424, R684). -/
def recordFlit (cls r n hdr : Nat) (s : State) : State :=
  hubRaiseBy (blkRouter r) 135 (recordAt cls (blkRouter r) (hdr + r * 2 ^ 32 + s.clock.ck * 2 ^ 44) (countEv (blkRouter r) 0x0F n s))

/-- Flit `k` of a message, and `n` flits in all, are discarded for its header, whose bits as received the model does not know,
or for a DST that names no node (R413). -/
def discardHeader (r : Nat) (m : Msg) (k n : Nat) (broken : Bool) (s : State) : State :=
  let hdr := if broken then (freeNow s 413).toNat % 2 ^ 32 else headerAt m k
  endService 0x08 (recordFlit 0x08 r n hdr (if broken then drawn s else s))

/-- A misroute (R424). [DESIGN CHOICE: log 19] -/
def misroute (r : Nat) (m : Msg) (s : State) : State := endService 0x09 (recordFlit 0x09 r (1 + m.len) (headerAt m 0) s)

/-- DST names a node. -/
def dstNamed (s : State) (m : Msg) : Bool := nodeKind s m.dst.val != .none

/-- A message delivered at a router's L or P port; one that has lost flits on its way is none (R404, R413, R424, R438). -/
def deliver (r port : Nat) (m : Msg) (s : State) : State :=
  let here := if port = 4 then some r else portNode r
  if here ≠ some m.dst.val then misroute r m s
  else if nodeFailed s m.dst.val then targetDown m (countEv (blkRouter r) 0x0F (1 + m.len) s)
  else if isCut m then s
  else setArrivals m.dst.val (arrivals s m.dst.val ++ [m]) s

/-- The last flit of a message that a router delivers is there at a ck (R404). [DESIGN CHOICE: log 17] -/
def landAt (t : Nat) (m : Msg) (s : State) : State :=
  { s with fabric := { s.fabric with
      landing := (s.fabric.landing.filter fun p => decide (absCk s < p.2.1)) ++
        (if absCk s < t then [(m.dst.val, t, m)] else []) } }

/-- A router checks every granule that it carries and counts the outcome (R393); the command block that the sender has encoded
is clean (R411). -/
def routerLooks (r : Nat) (m : Msg) (s : State) : State := m.data.foldl (fun t c => countLook (blkRouter r) c t) s

/-- A message leaves a router by a port at the time `t`, its last flit at `t'` (R404). [DESIGN CHOICE: log 17] -/
def sendOut (r port t t' : Nat) (m : Msg) (s : State) : State :=
  let s1 := countEv (blkRouter r) (2 + port) (1 + m.data.length) s
  match neighbour r port with
  | some r' => if port < 4 then pushFlight r' { inp := Fin.ofNat 8 (arrivesAt port), at_ := t + linkCk r r', since := t + linkCk r r', msg := m } s1
    else deliver r port m (landAt t' m s1)
  | none => if port < 4 then misroute r m s1 else deliver r port m (landAt t' m s1)

/-- The least stream of a node with a message ready. -/
def firstStream (s : State) (n : Nat) : Option Nat :=
  (List.range 16).find? fun t => tblGet [] s.fabric.inj (n * 16 + t) != []

/-- The input code of a node at its router. -/
def nodeInput (n : Nat) : Nat := if nodeLocal n then 5 else 6

/-- The coming slots that data flits of a node's messages take. -/
def takenOf (s : State) (n : Nat) : List Nat := (tblGet [] s.fabric.taken n).filter fun t => decide (absCk s ≤ t)

/-- A node may inject the head of a stream in a slot of the present ck, which no data flit takes (R419, R421, R429, R806): the
slots of its data flits. -/
def injectScheduled (s : State) (n tag : Nat) (m : Msg) : Option (List Nat) :=
  let r := nodeRouter n
  let ck := s.clock.ck
  let inp := nodeInput n
  let here := (flightsOf s r).filter fun f => f.at_ == absCk s
  if holding s || (here.any fun f => f.inp.val == inp) || (takenOf s n).contains (absCk s) then none
  else
    match takersOf s r ck inp with
    | [] => none
    | (e, i) :: l =>
      let t := entryTag e inp
      let sums := ((e, i) :: l).all fun p =>
        if reSum p.1 != 7 && reSumSrc p.1 == inp then
          match here.find? fun f => f.inp.val == reSel p.1 (reSum p.1) with
          | some f => sumMatch (reSumFmt p.1) f.msg m
          | none => true
        else true
      let lead := ((e, i) :: l).find? fun p => framed s r p.1
      if (t == tag || (t == 15 && firstStream s n == some tag)) && sums then
        dataSlots s r ck inp tag (takenOf s n) (lead.getD (e, i)).1 (lead.getD (e, i)).2 m
      else none

/-- Flits of a virtual channel in an input buffer, or on the link to it (R432). -/
def occupancy (s : State) (r inp vc : Nat) : Nat :=
  (((flightsOf s r).filter fun f => f.inp.val == inp && msgVc f.msg == vc).map fun f => f.flits.length).sum

/-- Credit for a flit at an input buffer of a router, which holds 8 flits of a virtual channel (R432). -/
def hasCredit (s : State) (r inp vc : Nat) : Bool := decide (occupancy s r inp vc < 8)

/-- A place of the fabric that sends one flit per ck is free (R404, R434, R437). -/
def placeFree (s : State) (k : Nat) : Bool := decide (tblGet 0 s.fabric.busy k ≤ absCk s)
/-- A place is busy with the flits of a message for a number of ck. -/
def keepBusy (k n : Nat) (s : State) : State :=
  { s with fabric := { s.fabric with busy := tblSet 0 s.fabric.busy k (absCk s + n) } }

/-- A node may inject a flit in arbitrated mode: credit, one flit per ck, and on VC0 one per 8 ck (R432, R437). -/
def portReady (s : State) (n : Nat) (m : Msg) : Bool :=
  hasCredit s (nodeRouter n) (nodeInput n) (msgVc m) && placeFree s (16384 + n) && (msgVc m != 0 || placeFree s (32768 + n))

/-- A message of which a node has injected some flits and not all. -/
def entering (n : Nat) (f : Flight) : Bool := f.inp.val == nodeInput n && f.toCome != 0

/-- A node may inject the head of a message in arbitrated mode: no other message of its virtual channel is being injected, and
in a quiet tick answers alone go (R30, R432, R434, R437). -/
def injectArbitrated (s : State) (n : Nat) (m : Msg) : Bool :=
  portReady s n m && !((flightsOf s (nodeRouter n)).any fun f => entering n f && msgVc f.msg == msgVc m) &&
  (!s.clock.quiet || m.op == opResp || m.op == opAck || m.op == opStale)

/-- The injection port has taken a flit (R437). -/
def injectBusy (n : Nat) (m : Msg) (s : State) : State :=
  keepBusy (16384 + n) 1 (if msgVc m = 0 then keepBusy (32768 + n) 8 s else s)

/-- What an injection of a message does to its node: its data flits take their slots, or its port is busy (R421, R437); none
where it may not go now. -/
def injectOk (s : State) (n tag : Nat) (m : Msg) : Option State :=
  if s.clock.mode = .scheduled then
    (injectScheduled s n tag m).map fun l =>
      let t := takenOf s n ++ l.map fun ck => s.clock.tick.toNat * 16384 + ck
      { s with fabric := { s.fabric with taken := tblSet [] s.fabric.taken n t } }
  else if injectArbitrated s n m then some (injectBusy n m s)
  else none

/-- A message as it stands at a router with its head alone there: in arbitrated mode its data flits come one by one. -/
def headFlight (s : State) (inp t : Nat) (m : Msg) : Flight :=
  if s.clock.mode = .scheduled then { inp := Fin.ofNat 8 inp, at_ := t, since := t, msg := m }
  else { inp := Fin.ofNat 8 inp, at_ := t, since := t, msg := m, flits := [t], toCome := m.len }

/-- A message's head enters its node's router; a bezel's signal may end a fan-out with it (R535). -/
def injectMsg (n : Nat) (m : Msg) (s : State) : State :=
  pushFlight (nodeRouter n) (headFlight s (nodeInput n) (absCk s) m)
    (match nodeKind s n with
      | .xbar c => countEv (blkXbar c) 0x03 (1 + m.len) s
      | .bezel z => if m.op = opSignal then fanInjected z m s else s
      | _ => s)

/-- The next data flit of a message reaches a router at a ck; one of a message that is discarded there goes no further. -/
def flitIn (t : Nat) (f : Flight) : Flight :=
  if f.bad then { f with toCome := f.toCome - 1 }
  else { f with flits := f.flits ++ [t], toCome := f.toCome - 1, since := if f.flits = [] then t else f.since }

/-- A data flit of the message that is coming in at an input on a virtual channel reaches a router at a ck. -/
def dataFlit (r inp vc t : Nat) (s : State) : State :=
  setFlights r ((modFirst (fun f => f.inp.val == inp && msgVc f.msg == vc && f.toCome != 0) (flitIn t) (flightsOf s r)).filter
    fun f => !(f.bad && f.toCome == 0)) s

/-- The message of a node and stream of which some flits have entered in arbitrated mode, and not all. -/
def halfIn (s : State) (n tag : Nat) : Option Flight :=
  (flightsOf s (nodeRouter n)).find? fun f => entering n f && f.msg.stream.val == tag

/-- ENDPOINT_INJECTION (R419, R421, R432, R437): the oldest message of the stream enters the node's router, in arbitrated mode
flit by flit. -/
def execEndpointInjection (n : NodeN) (tag : Fin 16) (s : State) : Host.Outcome State Fault Refusal :=
  match halfIn s n.val tag.val with
  | some f =>
    whenOk s (mainUp s && portReady s n.val f.msg)
      (injectBusy n.val f.msg (dataFlit (nodeRouter n.val) (nodeInput n.val) (msgVc f.msg) (absCk s) s))
  | none =>
    match tblGet [] s.fabric.inj (n.val * 16 + tag.val) with
    | [] => .next s
    | m :: rest =>
      match injectOk s n.val tag.val m with
      | none => .next s
      | some t =>
        whenOk s (mainUp s && nodeKind s n.val != .none)
          (injectMsg n.val m { t with fabric := { t.fabric with inj := tblSet [] t.fabric.inj (n.val * 16 + tag.val) rest } })

/-- One output of a router in a slot (R416, R429, R806): the message that it sends, if any, and whether a sum was made; a
through message at a wrong place is a misroute, given back as `none` with the message. -/
def slotOutput (here : List Flight) (e : BitVec 128) (i out : Nat) : Option Msg × Bool × Option Msg :=
  let at_ (inp : Nat) : Option Msg := (here.find? fun f => f.inp.val == inp).map (·.msg)
  if reSel e out = 0 then (none, false, none)
  else
    let through := at_ (reSel e out)
    if reSum e = out then
      if through.isSome ∧ i % 9 ≠ 0 then (none, false, through)
      else
        match through, at_ (reSumSrc e) with
        | some a, some b => if sumMatch (reSumFmt e) a b then (some (sumMsg a b), true, none) else (some a, false, none)
        | some a, none => (some a, false, none)
        | none, some b => (some b, false, none)
        | none, none => (none, false, none)
    else (through, false, none)

/-- The number of the flit of a message at a router whose header is in error there; none for a message without one. -/
def errorAt (e : Option FlitErr) (f : Flight) : Option Nat :=
  match e with
  | some x => if x.inp = f.inp ∧ x.flit.val ≤ f.msg.data.length then some x.flit.val else none
  | none => none

/-- A message without a flit and those that follow it (R413). [DESIGN CHOICE: log 17] -/
def cutMsg (k : Nat) (f : Flight) : Flight := { f with msg := { f.msg with data := f.msg.data.take (k - 1) } }

/-- The messages at a router whose flits go on, less what their headers make the router discard (R413). -/
def headersGood (s : State) (e : Option FlitErr) (l : List Flight) : List Flight :=
  l.filterMap fun f =>
    if !dstNamed s f.msg then none
    else
      match errorAt e f with
      | some 0 => none
      | some k => some (cutMsg k f)
      | none => some f

/-- What the headers of the messages at a router make it discard, and record (R413). -/
def headersBad (r : Nat) (e : Option FlitErr) (l : List Flight) (s : State) : State :=
  l.foldl (fun x f =>
    match errorAt e f with
    | some k => discardHeader r f.msg k (1 + f.msg.data.length - k) true x
    | none => if dstNamed s f.msg then x else discardHeader r f.msg 0 (1 + f.msg.data.length) false x) s

/-- A scheduled router switches what stands at its inputs in the ck of the earliest (R416, R418, R424). The slots that its
flits take are no slots without a flit (R665). [DESIGN CHOICE: log 17] -/
def routeScheduled (r : Nat) (hdrErr : Option FlitErr) (s : State) : State :=
  let all := flightsOf s r
  let t := all.foldl (fun t f => min t f.at_) (absCk s)
  let here := all.filter fun f => f.at_ == t
  let rest := all.filter fun f => f.at_ != t
  let good := headersGood s hdrErr here
  let s1 := good.foldl (fun x f => routerLooks r f.msg x) (headersBad r hdrErr here (setFlights r rest s))
  let es := if t / 16384 = s.clock.tick.toNat ∧ !holding s then entriesAt s r (t % 16384) else []
  let s2 := es.foldl (fun x p =>
    let s' := upTo 6 (fun y o =>
      let w := slotOutput good p.1 p.2 o
      let y1 := match w.1 with
        | some m => sendOut r o t (t + m.len * (if reCount p.1 ≤ 1 then 1 else rePeriod p.1)) m y
        | none => y
      let y2 := if w.2.1 then countEv (blkRouter r) 0x08 (match w.1 with | some m => 1 + m.len | none => 0) y1 else y1
      match w.2.2 with
      | some m => misroute r m y2
      | none => y2) x
    uncountEv (blkRouter r) 0x09
      ((List.range 6).foldl (fun n o => match (slotOutput good p.1 p.2 o).1 with
        | some m => max n (1 + m.len)
        | none => n) 0) s') s1
  good.foldl (fun x f => if es.any fun p => namesInput p.1 f.inp.val then x else misroute r f.msg x) s2

/-- ROUTE_MESSAGE_SCHEDULED (R418). -/
def execRouteMessageScheduled (r : RouterN) (hdrErr : Option FlitErr) (s : State) : Host.Outcome State Fault Refusal :=
  whenOk s (mainUp s && s.clock.mode == .scheduled && (flightsOf s r.val).any fun f => decide (f.at_ ≤ absCk s)) (routeScheduled r.val hdrErr s)

/-- The output of a router toward a node in arbitrated mode: along x, then along y (R432). -/
def arbOut (s : State) (r : Nat) (m : Msg) : Nat :=
  if !dstNamed s m then 4
  else
    let d := nodeRouter m.dst.val
    if routerX d < routerX r then 3
    else if routerX r < routerX d then 1
    else if routerY d < routerY r then 0
    else if routerY r < routerY d then 2
    else if nodeLocal m.dst.val then 4 else 5

/-- A message is at the head of its buffer. -/
def headOfBuffer (l : List Flight) (f : Flight) : Bool :=
  (l.find? fun g => g.inp == f.inp && msgVc g.msg == msgVc f.msg) == some f

/-- The next buffer has credit for a flit. -/
def outCredit (s : State) (r out : Nat) (m : Msg) : Bool :=
  match neighbour r out with
  | some r' => hasCredit s r' (arrivesAt out) (msgVc m)
  | none => true

/-- A flit of a message is ready at the head of its buffer (R432). -/
def flitReady (s : State) (l : List Flight) (f : Flight) : Bool :=
  !f.bad && headOfBuffer l f &&
  match f.flits with
  | t :: _ => decide (t ≤ absCk s)
  | [] => false

/-- Another message has its head sent by an output on the virtual channel, and not its last flit (R434). -/
def vcTaken (s : State) (r out : Nat) (l : List Flight) (f : Flight) : Bool :=
  l.any fun g => g != f && g.sent != 0 && !g.bad && msgVc g.msg == msgVc f.msg && arbOut s r g.msg == out

/-- The messages of which an output may take a flit now (R434). -/
def candidates (s : State) (r out : Nat) : List Flight :=
  let l := flightsOf s r
  l.filter fun f =>
    flitReady s l f && arbOut s r f.msg == out && outCredit s r out f.msg && placeFree s (8 * r + out) &&
    (f.sent != 0 || !vcTaken s r out l f)

/-- A flit has waited 128 ck at the head of its buffer. -/
def agedFlight (s : State) (f : Flight) : Bool := decide (f.since + 128 ≤ absCk s)

/-- How far an input stands behind the round-robin pointer of an output and virtual channel.
[DESIGN CHOICE: log 7] -/
def rrTurn (s : State) (r out : Nat) (f : Flight) : Nat :=
  (f.inp.val + 7 - tblGet 0 s.fabric.rr (r * 64 + out * 8 + msgVc f.msg)) % 8

/-- The better of two candidates (R434): an aged one by its wait, else the lower virtual channel, then round-robin. -/
def betterFlight (s : State) (r out : Nat) (a b : Flight) : Flight :=
  if agedFlight s a || agedFlight s b then (if b.since < a.since then b else a)
  else if msgVc b.msg < msgVc a.msg then b
  else if msgVc b.msg = msgVc a.msg ∧ rrTurn s r out b < rrTurn s r out a then b
  else a

/-- The message of which an output takes a flit. -/
def arbWinner (s : State) (r out : Nat) : Option Flight :=
  match candidates s r out with
  | [] => none
  | f :: l => some (l.foldl (betterFlight s r out) f)

/-- The next flit of a buffer comes to its head: the earliest that stands in it. -/
def newHead (t : Nat) (gone : Flight) (l : List Flight) : List Flight :=
  modFirst (fun g => g.inp == gone.inp && msgVc g.msg == msgVc gone.msg) (fun g => { g with since := max (nth t g.flits 0) t }) l

/-- The message that stands at the head of a buffer becomes `f'`, or leaves it where no flit of it is left or comes. -/
def buffer (t : Nat) (f f' : Flight) (l : List Flight) : List Flight :=
  newHead t f (if f'.flits = [] ∧ f'.toCome = 0 then dropFirst (fun g => g == f) l else modFirst (fun g => g == f) (fun _ => f') l)

/-- The flits that a message has sent on from a router are its last: in the routers after it none is to come (R413). -/
def cutAfter (fuel r : Nat) (m : Msg) (s : State) : State :=
  match fuel with
  | 0 => s
  | fuel + 1 =>
    match neighbour r (arbOut s r m) with
    | none => s
    | some r' =>
      let l := flightsOf s r'
      match l.find? fun g => g.inp.val == arrivesAt (arbOut s r m) && msgVc g.msg == msgVc m && g.toCome != 0 with
      | none => s
      | some g =>
        let s1 := setFlights r' (buffer (absCk s) g { g with toCome := 0, cut := true } l) s
        if g.flits = [] ∧ g.sent ≠ 0 then cutAfter fuel r' m s1 else s1

/-- The number of the flit that stands at the head of a message's buffer, 0 for its head. -/
def flitNo (f : Flight) : Nat := f.sent

/-- The flit at the head of a message's buffer, and those that follow it, are discarded (R413); the earlier ones go on. -/
def discardFlits (r : Nat) (f : Flight) (broken : Bool) (s : State) : State :=
  let left := f.flits.length + f.toCome
  let s1 := setFlights r (buffer (absCk s) f { f with flits := [], bad := true } (flightsOf s r)) s
  discardHeader r f.msg (flitNo f) left broken (if f.sent = 0 then s1 else cutAfter 68 r f.msg s1)

/-- A flit goes over a link: a head makes its message stand at the next router, a data flit follows it (R404, R432). -/
def flitOut (r r' out : Nat) (f : Flight) (s : State) : State :=
  let t := absCk s + linkCk r r'
  if f.sent = 0 then pushFlight r' (headFlight s (arrivesAt out) t f.msg) s
  else dataFlit r' (arrivesAt out) (msgVc f.msg) t s

/-- The flit at the head of a message's buffer leaves by an output: to the next router, or to the node of the port, which has
the message with its last flit (R404, R432, R434). -/
def sendFlit (r out : Nat) (f : Flight) (s : State) : State :=
  let f' : Flight := { f with flits := f.flits.drop 1, sent := f.sent + 1 }
  let last := decide (f'.flits = []) && f'.toCome == 0
  let s1 := setFlights r (buffer (absCk s) f f' (flightsOf s r)) (countEv (blkRouter r) (2 + out) 1 s)
  match neighbour r out with
  | some r' =>
    let s2 := flitOut r r' out f s1
    if last && f.cut then cutAfter 68 r f.msg s2 else s2
  | none => if last && !f.cut then deliver r out f.msg s1 else s1

/-- The granule of a message's flit, where it carries one. -/
def flitData (f : Flight) : List Code := if f.sent = 0 then [] else [nth poisonCode f.msg.data (f.sent - 1)]

/-- A router serves an output: one flit (R434). -/
def routeArbitrated (r out : Nat) (hdrErr : Bool) (f : Flight) (s : State) : State :=
  let s1 : State := { s with fabric := { s.fabric with
    rr := tblSet 0 s.fabric.rr (r * 64 + out * 8 + msgVc f.msg) f.inp.val } }
  if hdrErr || !dstNamed s f.msg then discardFlits r f hdrErr s1
  else sendFlit r out f (keepBusy (8 * r + out) 1
    (countEv (blkRouter r) (0x0A + msgVc f.msg) 1 ((flitData f).foldl (fun t c => countLook (blkRouter r) c t) s1)))

/-- ROUTE_MESSAGE_ARBITRATED (R432, R434). -/
def execRouteMessageArbitrated (r : RouterN) (out : Fin 6) (hdrErr : Bool) (s : State) : Host.Outcome State Fault Refusal :=
  match arbWinner s r.val out.val with
  | some f =>
    whenOk s (mainUp s && s.clock.mode != .scheduled) (routeArbitrated r.val out.val hdrErr f s)
  | none => .next s

/-- An endpoint is declared failed (R438, R681): what waits for it is discarded, each request answered. -/
def failEndpoint (n : Nat) (s : State) : State :=
  let r := nodeRouter n
  let waiting := arrivals s n ++ ((flightsOf s r).filter fun f => f.msg.dst.val == n).map (·.msg)
  let s1 : State := { s with fabric := { s.fabric with failed := s.fabric.failed ++ [n] } }
  let s2 := setFlights r ((flightsOf s r).filter fun f => f.msg.dst.val != n) (setArrivals n [] s1)
  let s3 := waiting.foldl (fun t m => targetDown m (countEv (blkRouter r) 0x0F (1 + m.len) t)) s2
  hubRaiseBy (blkRouter r) 135 (recordAt 0x0A (blkRouter r) n s3)

/-- ENDPOINT_FAILED (R438): flits wait for an endpoint that accepts none. -/
def execEndpointFailed (n : NodeN) (s : State) : Host.Outcome State Fault Refusal :=
  whenOk s (mainUp s && nodeKind s n.val != .none && !nodeFailed s n.val && arrivals s n.val != [])
    (failEndpoint n.val s)

end Sys2Proof.Machine
end

