-- ==== Sys2Proof/Machine/BeadMem.lean ====
section
/-! DEFINITION. Scalar accesses to memory, page walks, and the issue of requests and strand runs (chapters 2, 4, 9, 10). -/

namespace Sys2Proof.Machine

/-- Tile register, row and byte in the row of a fragment-window address (R163). [DEDUCED: log 88] -/
def windowPlace (o h a : Nat) : Nat × Nat × Nat :=
  let off := a - (ownBase o + 0xC0000)
  (off / 0x800, 16 * h + off % 0x800 / 128, off % 128)

/-- The register is FILLING, or a running entry reads it: the access waits (R167). [DEDUCED: log 88] -/
def windowBusy (b : Bead) (t : Nat) : Bool :=
  (tileOf b t).st == .filling ||
  (List.range 4).any fun q => (queueOf b q).ents.any fun e => isRunning e && (tilesRead e).contains t

/-- The bytes of a tile row as a number. -/
def rowNumber (t : Tile) (r : Nat) : Nat :=
  ofBytes ((List.range 64).flatMap fun c => toBytes 2 (tileElem t r c).toNat)

/-- A row of a tile register with bytes replaced; a store to an EMPTY register clears it first and makes it FULL, and
leaves poison marks alone (R162, R166). [DEDUCED: log 88] -/
def windowStore (t r byte : Nat) (v : Nat) (n : Nat) (b : Bead) : Bead :=
  let k0 := tileOf b t
  let k : Tile := if k0.st = .empty then { st := .full } else k0
  setTile t { k with elems := upTo (n / 2) (fun es i =>
    tblSet 0 es (64 * r + byte / 2 + i) (BitVec.ofNat 16 (v / 65536 ^ i))) k.elems } b

/-- A load (R47, R49, R61, R163 to R167, R807). `lr` for a load-reserved. [DEDUCED: log 29, 88] -/
def loadDo (o : Ord) (h : HartN) (f : Fetched) (f3 : Nat) (fp : Bool) (rd : Fin 32) (addr : Word) (s : State) : State :=
  let a := devAddr addr
  let n := 2 ^ (f3 % 4)
  let b := beadOf s o.val
  if a % n ≠ 0 then trapAt o h 4 addr s
  else if inOwnDmem o.val a then
    let c := dmemGet s o.val ((a - ownBase o.val) / 32)
    let s1 := lookOwn o.val ((a - ownBase o.val) / 32) s
    if isBad c then trapAt o h 5 addr s1
    else retire o h (fun t => advance f.len (loadTo fp rd (loadValue f3 (a % 32) (goodData c)) t)) s1
  else if inOwnWindow o.val a then
    let p := windowPlace o.val h.val a
    if n = 1 then trapAt o h 5 addr s
    else if windowBusy b p.1 then holdAt o h .window s
    else if rowPoison (tileOf b p.1) p.2.1 then trapAt o h 5 addr s
    else
      let g : Gran := BitVec.ofNat 256 (rowNumber (tileOf b p.1) p.2.1 / 256 ^ p.2.2)
      retire o h (fun t => advance f.len (loadTo fp rd (loadValue f3 0 g) t)) s
  else
    match l1Find b (a / 64) with
    | some l =>
      let s1 := countEv o.val 0x12 1 (modBead o.val (l1Insert l) s)
      retire o h (fun t => advance f.len (loadTo fp rd (loadValue f3 (a % 32) (goodData (l1Gran l a))) t)) s1
    | none =>
      let r := { newReq b (.hartLoad h) .read (a / 32 * 32) 1 with bytes := a }
      makeReq o.val r (issueHeld o h r.id (countEv o.val 0x13 1 s))

/-- SCALAR_LOAD for LR: own data memory or a slice (R48, R61). [PRESUMED: log 26; DEDUCED: log 88] -/
def lrDo (o : Ord) (h : HartN) (f : Fetched) (dbl : Bool) (rd : Fin 32) (addr : Word) (s : State) : State :=
  let a := devAddr addr
  let n := if dbl then 8 else 4
  if a % n ≠ 0 then trapAt o h 4 addr s
  else if inOwnDmem o.val a then
    let g := dmemGran o.val ((a - ownBase o.val) / 32)
    let c := codeAt s.mem g
    let s := lookOwn o.val ((a - ownBase o.val) / 32) s
    if isBad c then trapAt o h 5 addr s
    else
      let s1 : State := { s with mem := { s.mem with resv := tblSet 0 s.mem.resv (4 * o.val + h.val) (g + 1) } }
      retire o h (fun t => advance f.len (setX rd (loadValue (if dbl then 3 else 2) (a % 32) (goodData c)) t)) s1
  else if inOwnWindow o.val a then trapAt o h 7 addr s
  else
    let r := { newReq (beadOf s o.val) (.hartAtomic h) .atomic (a / 32 * 32) 1 with
      bytes := a
      mask := [2, BitVec.ofNat 32 n, BitVec.ofNat 32 (a % 32)]
      data := [encodeGran (BitVec.ofNat 256 (2 * 2 ^ 64 + n * 2 ^ 72 + (a % 32) * 2 ^ 80 + (4 * o.val + h.val) * 2 ^ 88))] }
    makeReq o.val r (issueHeld o h r.id s)

/-- SCALAR_LOAD (R807). -/
def execScalarLoad (o : Ord) (h : HartN) (s : State) : Host.Outcome State Fault Refusal :=
  match fetched s o.val h.val with
  | some f =>
    let t := hartOf (beadOf s o.val) h.val
    match f.insn with
    | .load f3 fp rd rs1 imm => .next (loadDo o h f f3 fp rd (xReg t rs1 + imm) s)
    | .amo f5 dbl rd rs1 _ => whenOk s (f5 == 2) (lrDo o h f dbl rd (xReg t rs1) s)
    | _ => .next s
  | none => .next s

/-- The byte mask of `n` bytes from an offset of a granule. -/
def maskOf (off n : Nat) : Word32 := BitVec.ofNat 32 ((2 ^ n - 1) * 2 ^ off)

/-- A granule with a number at a byte offset. -/
def granAt (off v : Nat) : Gran := BitVec.ofNat 256 (v * 256 ^ off)

/-- A store (R47, R49, R60, R61, R163 to R167, R807). [DEDUCED: log 29] -/
def storeDo (o : Ord) (h : HartN) (f : Fetched) (f3 : Nat) (v : Word) (addr : Word) (s : State) : State :=
  let a := devAddr addr
  let n := 2 ^ f3
  let b := beadOf s o.val
  let num := bitsOf v.toNat 0 (8 * n)
  if a % n ≠ 0 then trapAt o h 6 addr s
  else if inOwnDmem o.val a then
    let g := (a - ownBase o.val) / 32
    let r := mergeWrite (dmemGet s o.val g) (granAt (a % 32) num) (maskOf (a % 32) n)
    let s := lookOwn o.val g s
    if r.2 ≠ 0 then trapAt o h 7 addr s
    else retire o h (advance f.len) (dmemPut o.val g r.1 s)
  else if inOwnWindow o.val a then
    let p := windowPlace o.val h.val a
    if n = 1 then trapAt o h 7 addr s
    else if windowBusy b p.1 then holdAt o h .window s
    else retire o h (advance f.len) (modBead o.val (windowStore p.1 p.2.1 p.2.2 num n) s)
  else
    let r := { newReq b (.hartStore h) .part (a / 32 * 32) 1 with
      bytes := a, data := [encodeGran (granAt (a % 32) num)], mask := [maskOf (a % 32) n] }
    makeReq o.val r (issueHeld o h r.id s)

/-- SCALAR_STORE (R60). -/
def execScalarStore (o : Ord) (h : HartN) (s : State) : Host.Outcome State Fault Refusal :=
  match fetched s o.val h.val with
  | some f =>
    let t := hartOf (beadOf s o.val) h.val
    match f.insn with
    | .store f3 fp rs1 rs2 imm =>
      .next (storeDo o h f f3 (if fp then (fReg t rs2).setWidth 64 else xReg t rs2) (xReg t rs1 + imm) s)
    | _ => .next s
  | none => .next s

/-- The value an AMO leaves, at a width of `n` bytes, by funct5. -/
def amoValue (f5 n : Nat) (old src : Word) : Word :=
  let w := 8 * n
  let x := BitVec.ofNat 64 (bitsOf old.toNat 0 w)
  let y := BitVec.ofNat 64 (bitsOf src.toNat 0 w)
  let sx := if n = 4 then (x.setWidth 32 : Word32).signExtend 64 else x
  let sy := if n = 4 then (y.setWidth 32 : Word32).signExtend 64 else y
  match f5 with
  | 0 => x + y
  | 1 => y
  | 4 => x ^^^ y
  | 8 => x ||| y
  | 12 => x &&& y
  | 16 => if sx.slt sy then x else y
  | 20 => if sx.slt sy then y else x
  | 24 => if x.ult y then x else y
  | _ => if x.ult y then y else x

/-- The value that rd takes from an atomic of `n` bytes. [DEDUCED: log 38] -/
def amoOld (n off : Nat) (g : Gran) : Word := loadValue (if n = 8 then 3 else 2) off g

/-- An LR, SC or AMO acts on a good granule (R48): the granule after it, and the answer for rd. `held` says whether the
requester's reservation stands. [DEDUCED: log 38] -/
def atomicAct (f5 n off : Nat) (held : Bool) (src : Word) (g : Gran) : Option Gran × Word :=
  let old := amoOld n off g
  if f5 = 2 then (none, old)
  else if f5 = 3 then
    if held then (some (mergeBytes g (granAt off (bitsOf src.toNat 0 (8 * n))) (maskOf off n)), 0) else (none, 1)
  else
    let v := bitsOf (amoValue f5 n old src).toNat 0 (8 * n)
    (some (mergeBytes g (granAt off v) (maskOf off n)), old)

/-- The reservation of a hart, numbered over the module, stands on a granule. -/
def resvHeld (s : State) (hart g : Nat) : Bool := tblGet 0 s.mem.resv hart == g + 1

/-- A reservation made or given up. -/
def setResv (hart v : Nat) (s : State) : State := { s with mem := { s.mem with resv := tblSet 0 s.mem.resv hart v } }

/-- The reservation after an atomic: an LR makes it, an SC gives it up. -/
def resvAfter (f5 hart g : Nat) (s : State) : State :=
  if f5 = 2 then setResv hart (g + 1) s else if f5 = 3 then setResv hart 0 s else s

/-- SC or AMO (R48, R61): own data memory at once, a slice by a request that holds the hart.
[PRESUMED: log 26; DEDUCED: log 29, 88] -/
def atomicDo (o : Ord) (h : HartN) (f : Fetched) (f5 : Nat) (dbl : Bool) (rd : Fin 32) (src addr : Word) (s : State) : State :=
  let a := devAddr addr
  let n := if dbl then 8 else 4
  let hart := 4 * o.val + h.val
  if a % n ≠ 0 then trapAt o h 6 addr s
  else if inOwnDmem o.val a then
    let k := (a - ownBase o.val) / 32
    let g := dmemGran o.val k
    let c := codeAt s.mem g
    let s := lookOwn o.val k s
    if isBad c then trapAt o h 7 addr s
    else
      let r := atomicAct f5 n (a % 32) (resvHeld s hart g) src (goodData c)
      let s1 := match r.1 with
        | some d => dmemPut o.val k (encodeGran d) s
        | none => s
      retire o h (fun t => advance f.len (setX rd r.2 t)) (resvAfter f5 hart g s1)
  else if inOwnWindow o.val a then trapAt o h 7 addr s
  else
    let r := { newReq (beadOf s o.val) (.hartAtomic h) .atomic (a / 32 * 32) 1 with
      bytes := a
      mask := [BitVec.ofNat 32 f5, BitVec.ofNat 32 n, BitVec.ofNat 32 (a % 32)]
      data := [encodeGran (BitVec.ofNat 256 (src.toNat + f5 * 2 ^ 64 + n * 2 ^ 72 + (a % 32) * 2 ^ 80 + hart * 2 ^ 88))] }
    makeReq o.val r (issueHeld o h r.id s)

/-- SCALAR_ATOMIC (R48). -/
def execScalarAtomic (o : Ord) (h : HartN) (s : State) : Host.Outcome State Fault Refusal :=
  match fetched s o.val h.val with
  | some f =>
    let t := hartOf (beadOf s o.val) h.val
    match f.insn with
    | .amo f5 dbl rd rs1 rs2 => whenOk s (f5 != 2) (atomicDo o h f f5 dbl rd (xReg t rs2) (xReg t rs1) s)
    | _ => .next s
  | none => .next s

/-- A request leaves; one that own data memory has served whole needs no slot. -/
def issueNow (o : Nat) (r : Req) (s : State) : State :=
  if reqParts s r = [] then reqDone o r 0 s else issueReq o r s

/-- The request that R365 chooses leaves, where one can. -/
def issueBest (o : Nat) (s : State) : State :=
  match chooseReq s o with
  | some r => issueNow o r s
  | none => s

/-- The walks in flight at a cluster's walker. -/
def walksOf (s : State) (cl : Nat) : List Walk := tblGet [] s.mmu.walks cl

/-- PAGE_WALK (R327): a walk for the first page that the request still misses starts, with the tables now in force; a
walker holds at most 16. -/
def execPageWalk (o : Ord) (req : Nat) (s : State) : Host.Outcome State Fault Refusal :=
  let cl := clusterOf o.val
  match (findReq (beadOf s o.val) req).filter fun r => r.st == .walk with
  | none => .next s
  | some r =>
    match firstMiss s o.val r with
    | none => .next s
    | some dev =>
      let w : Walk := { bead := o, req := req, gran := dev, res := walkDev s (facetOf o.val) dev }
      let s1 := modBead o.val (modReq req fun r => { r with st := .walking }) s
      whenOk s (mainUp s && decide ((walksOf s cl).length < 16))
        { s1 with mmu := { s1.mmu with walks := tblSet [] s1.mmu.walks cl (walksOf s cl ++ [w]) } }

/-- The requests of a bead that wait for a walk and need none any more go on. -/
def retryWalks (o : Nat) (s : State) : State :=
  ((beadOf s o).reqs.filter fun r => r.st == .walk).foldl (fun t r =>
    match findReq (beadOf t o) r.id with
    | some x => if x.st == .walk && (firstMiss t o x).isNone then xlatReq o x.id t else t
    | none => t) s

/-- The oldest walk of a cluster ends (R323, R326): a failure goes to the request; a translation is cached, or where the
tables have been swapped serves its request alone. -/
def walkEnd (w : Walk) (s : State) : State :=
  let o := w.bead.val
  match w.res with
  | none =>
    match findReq (beadOf s o) w.req with
    | some r => reqFail o r w.gran .page s
    | none => s
  | some e =>
    if w.cached then retryWalks o (xlatReq o w.req (modBead o (tlbAdd e) s))
    else xlatReq o w.req (modBead o (modReq w.req fun r => { r with xl := r.xl ++ [e] }) s)

/-- PAGE_WALK_COMPLETE (R323 to R326). -/
def execPageWalkComplete (cl : Fin 32) (s : State) : Host.Outcome State Fault Refusal :=
  match walksOf s cl.val with
  | w :: rest =>
    whenOk s (mainUp s)
      (walkEnd w { s with mmu := { s.mmu with walks := tblSet [] s.mmu.walks cl.val rest } })
  | [] => .next s

/-- A run object joins its strand. -/
def pushRun (o n : Nat) (x : StrandRun) (s : State) : State :=
  modBead o (modStrand n fun k => { k with runs := k.runs ++ [x], next := k.next + 1 }) s

/-- Granules from a device address on all lie in the bead's own data memory. -/
def allOwn (o dev n : Nat) : Bool := (List.range n).all fun j => inOwnDmem o (dev + 32 * j)

/-- A run goes to a destination beyond the bead's own data memory: a copy target's, and of DMEM one that its strides lead out of
there (R346, R354). -/
def runCopies (o : Nat) (d : BitVec 512) (idx : Nat) : Bool :=
  decide (2 ≤ sdTarget d) || (sdTarget d == 1 && !allOwn o (runDst d idx) (sdRunlen d))

/-- The request of a strand's run beyond own data memory (R346, R348, R354). -/
def runReq (o : Nat) (b : Bead) (n : Nat) (x : StrandRun) : Req :=
  let d := (strandOf b n).desc
  { newReq b (.run (Fin.ofNat 8 n) x.idx) .read x.src (sdRunlen d) with
    watch := sdWatch d, copy := runCopies o d x.idx, dstDev := runDst d x.idx }

/-- The data of run `x` is at hand from own data memory: written for a copy there, kept for an array, sent for a copy
elsewhere. -/
def ownRun (o n : Nat) (x : StrandRun) (s : State) : State :=
  let d := (strandOf (beadOf s o) n).desc
  let len := sdRunlen d
  let dst := runDst d x.idx
  let y := ownRead o ((x.src - ownBase o) / 32) len s
  if runCopies o d x.idx then
    makeReq o { newReq (beadOf y.2 o) (.run (Fin.ofNat 8 n) x.idx) .write dst len with
      data := y.1, mask := List.replicate len (BitVec.allOnes 32) } y.2
  else
    let s1 := if sdTarget d = 1
      then upTo len (fun t j => dmemPut o ((dst - ownBase o) / 32 + j) (nth poisonCode y.1 j) t) y.2
      else y.2
    modBead o (modStrand n fun k => { k with
      runs := modFirst (fun z => z.idx == x.idx) (fun z => { z with got := true, data := y.1, bad := y.1.any isBad }) k.runs }) s1

/-- A strand asks for a run that it has listed: from own data memory at once, elsewhere by a request (R346, R348, R354). -/
def askRun (o n : Nat) (x : StrandRun) (s : State) : State :=
  let b := beadOf s o
  if allOwn o x.src (sdRunlen (strandOf b n).desc) then ownRun o n x s else makeReq o (runReq o b n x) s

/-- A strand requests run `i`, whose source starts at `src`, under index entry `ix`. -/
def requestRun (o n i src : Nat) (ix : Word) (s : State) : State :=
  let x : StrandRun := { idx := i, req := (beadOf s o).nextId, ix := ix, src := src }
  askRun o n x (pushRun o n x s)

/-- A strand asks for the granule of index entries that its next run needs (R357). -/
def requestIndex (o n j : Nat) (s : State) : State :=
  let b := beadOf s o
  let d := (strandOf b n).desc
  makeReq o (newReq b (.index (Fin.ofNat 8 n) (j / 4)) .read (sdSrc d + 32 * (j / 4)) 1) s

/-- The granule of index entries is already under way. -/
def indexPending (b : Bead) (n j : Nat) : Bool :=
  b.reqs.any fun r => match r.owner with
    | .index m g => m.val == n && g == j / 4
    | _ => false

/-- The index position of the strand's next run, where the strand may request one more (R349, R378). -/
def nextRunAt (b : Bead) (n : Nat) : Option Nat :=
  let k := strandOf b n
  let d := k.desc
  if k.running && !k.stopping && decide (k.next < sdRuns d) && k.fail.all (fun f => decide (k.next < f.1)) &&
      decide ((k.runs.length + 1) * sdRunlen d ≤ sdDepth d) && (!sdSort d || decide (k.next < k.order.length))
  then some (runIndex k k.next) else none

/-- The index entry that a strand needs next: for a sorted strand, the first of its next batch that has not arrived. -/
def nextIndexAt (s : State) (o n : Nat) : Option Nat :=
  let k := strandOf (beadOf s o) n
  if !sdGather k.desc || !k.running || k.stopping || k.fail.isSome then none
  else if sdSort k.desc then
    (batchRows k.desc k.sorted).find? fun j => (indexEntry s o n j).isNone && !indexPending (beadOf s o) n j
  else if k.next < sdRuns k.desc ∧ (indexEntry s o n k.next).isNone ∧ !indexPending (beadOf s o) n k.next then some k.next
  else none

/-- The strand's next run is requested, or its next index granule (R349, R357, R358). [DEDUCED: log 87] -/
def strandIssue (o n : Nat) (s : State) : Option State :=
  let d := (strandOf (beadOf s o) n).desc
  let ask := (nextIndexAt s o n).map fun j => requestIndex o n j s
  match nextRunAt (beadOf s o) n with
  | none => ask
  | some j =>
    let i := (strandOf (beadOf s o) n).next
    if sdGather d then
      match indexEntry s o n j with
      | none => ask
      | some w =>
        let s1 := if sdSort d then s else lookIndex o n j s
        if rowVoid s d w then some (pushRun o n { idx := i, req := 0, got := true, void := true, ix := w, src := ixAddr w } s1)
        else some (requestRun o n i (ixAddr w) w s1)
    else some (requestRun o n i (runSrc d i) 0 s)

/-- A strand that has a request to make, and none that waits to leave, makes it, so that the choice among the strands of R365
finds it; a run that needs no request is left to its own event. -/
def askStrand (o n : Nat) (s : State) : State :=
  if (beadOf s o).reqs.any fun r => strandReqOf n r && r.st != .issued then s
  else
    match strandIssue o n s with
    | some t => if (beadOf s o).reqs.length < (beadOf t o).reqs.length then t else s
    | none => s

/-- Every strand makes its next request. -/
def askStrands (o : Nat) (s : State) : State := upTo 8 (fun t n => askStrand o n t) s

/-- REQUEST_ISSUE (R365): the transfer engine takes its next row, and the request that stands first among those ready and
allowed issues. -/
def execRequestIssue (o : Ord) (s : State) : Host.Outcome State Fault Refusal :=
  let row := nextRow (beadOf s o.val)
  let s1 := match row with
    | some e => serveRow o.val e s
    | none => s
  let s2 := askStrands o.val s1
  whenOk s (beadRuns s o.val && !holding s && (row.isSome || (chooseReq s2 o.val).isSome)) (issueBest o.val s2)

end Sys2Proof.Machine
end

