-- ==== Sys2Proof/Machine/Servers.lean ====
section
/-! DEFINITION. The sorters of bezels and slices, and what a target does with a request (chapters 9 to 11 and 16). A
bezel serves a request whole, a slice granule by granule. -/

namespace Sys2Proof.Machine

/-- A message joins the injection queue of a node that need not be its source: a source that returns a copy's run
directly to its destination sends it in the bead's name (R354). -/
def sendFrom (n : Nat) (m : Msg) (s : State) : State :=
  { s with fabric := { s.fabric with inj := tblMod [] s.fabric.inj (n * 16 + m.stream.val) (fun l => l ++ [m]) } }

/-- A crossbar counts what it carries (R393). -/
def passXbar (n : Nat) (data : List Code) (s : State) : State :=
  match nodeKind s n with
  | .xbar c => xbarLooks c data s
  | _ => s

/-- An answer of a node: a crossbar answers a bead of its own cluster without the fabric (R407).
[DEDUCED: log 39] -/
def answer (n : Nat) (m : Msg) (s : State) : State :=
  let s1 := passXbar n m.data s
  match nodeKind s m.dst.val with
  | .bead o =>
    if n = nodeXbar (clusterOf o) then setArrivals m.dst.val (arrivals s m.dst.val ++ [m]) s1 else sendFrom n m s1
  | _ => sendFrom n m s1

/-- The block of a node, as a record names it (R659). -/
def nodeBlock (s : State) (n : Nat) : Nat :=
  match nodeKind s n with
  | .bead o => o
  | .bezel z => blkBezel z
  | .port p => blkPort p
  | .cxl => blkCxl
  | .locket => blkLocket
  | .xbar c => blkXbar c
  | .none => blkLocket

/-- The cluster in whose crossbar a node stands: its own, or its bead's. -/
def nodeCluster (s : State) (n : Nat) : Option Nat :=
  match nodeKind s n with
  | .xbar c => some c
  | .bead o => some (clusterOf o)
  | _ => none

/-- A READ's flags: a copy, and a named generation. [DEDUCED: log 39] -/
def isCopy (m : Msg) : Bool := bitOf m.aux1.toNat 0
def genNamed (m : Msg) : Option Word32 := if bitOf m.aux1.toNat 1 then some m.step else none

/-- Whether the coherent range holds a physical stack address (R561, R567). -/
def inCoherent (s : State) (p : Nat) : Bool :=
  decide (s.host.biBase.toNat * gib ≤ p) && decide (p < (s.host.biBase.toNat + s.host.biSize.toNat) * gib)

/-- A WRITE_ACK goes back to a request's source, and to every source whose contribution a sum hop has added to it (R429).
[DESIGN CHOICE: log 104] -/
def answerWrite (n : Nat) (m : Msg) (pm cls : Nat) (s : State) : State :=
  m.also.foldl (fun t p => answer n { writeAck m pm cls 0 with dst := p.1, tag := p.2 } t) (answer n (writeAck m pm cls 0) s)

/-- The port of a crossbar by which a node's accesses come: the position's that serves for a bead, else the fabric's (R307). -/
def portAt (s : State) (n : Nat) : Nat :=
  match nodeKind s n with
  | .bead o => xbarPort (servePos s o)
  | _ => 0

/-- A READ's data and classes go back: as a READ_RESP, or for a copy as the WRITE of its destination (R336, R337, R354).
`shared` tells the CXL node of a grant (R561). -/
def returnData (n : Nat) (m : Msg) (data : List Code) (pm cls : Nat) (shared : Bool) (s : State) : State :=
  if isCopy m then
    let d := m.cmask.toNat % 2 ^ 48
    let w : Msg := { msg0 with
      dst := node ((placeNode (placeOf s.mem.splitNow.toNat d)).getD 0), src := m.src, op := opWrite
      addr := BitVec.ofNat 48 d, len := data.length, data := data, tag := m.tag
      aux1 := 1, stream := if nodeLocal n then 9 else 2 }
    match sliceOf s d with
    | some i =>
      if nodeCluster s n = some (i / 4) then toSlice i (portAt s (if nodeLocal n then n else m.src.val)) w s
      else sendFrom n w (passXbar n data s)
    | none => sendFrom n w (passXbar n data s)
  else answer n { readResp m data pm cls with aux0 := BitVec.ofNat 32 (b2n shared) } s

/-- Outcomes of the granules of a request: class and code word of each. -/
abbrev Parts := List (Nat × Code)

/-- The failed part of a request is recorded by its target (R340). -/
def recordParts (blk : Nat) (m : Msg) (cls : List Nat) (prior : Bool) (s : State) : State :=
  let p := partOf cls
  if p.2.1 = 0 then s else recordPart blk (m.addr.toNat + 32 * p.2.2) p.1 p.2.1 m.src.val prior s

/-- A failed part as a record's detail (R684). [DEDUCED: log 42] -/
def partDetail (m : Msg) (cls : List Nat) : Nat :=
  let p := partOf cls
  p.1 + 256 * p.2.1 + 4096 * m.src.val

/-- UNCORR granules of a read at a stack or slice wait for rereads (R690). -/
def addRereads (m : Msg) (cls : List Nat) (s : State) : State :=
  ((List.range cls.length).filter fun i => nth 0 cls i == 1).foldl (fun t i =>
    addReread (m.addr.toNat + 32 * i) (partDetail m cls) t) s

/-- The stack-local address of a request's granule, where it lies in the bezel's stack. -/
def localOf (s : State) (z : Nat) (p : Nat) : Option Nat :=
  match placeOf s.mem.splitNow.toNat p with
  | .stack z' l => if z' = z then some l else none
  | _ => none

/-- One granule read at a bezel (R393, R514, R537, R538). -/
def bezelRead1 (z : Nat) (m : Msg) (i : Nat) (a : Parts × State) : Parts × State :=
  let s := a.2
  match localOf s z (m.addr.toNat + 32 * i) with
  | none => (a.1 ++ [(5, poisonCode)], s)
  | some l =>
    if inIntake (bezelOf s z) l then (a.1 ++ [(5, poisonCode)], s)
    else
      match genRead (bezelOf s z) l (genNamed m) with
      | none => (a.1 ++ [(4, poisonCode)], s)
      | some l' =>
        let u := stackUse z l' s
        (a.1 ++ [(lookClass (decodeCode u.1).1, passOn u.1)], countEv (blkBezel z) 0x02 1 u.2)

/-- A request of the host reads a line of the coherent range (R558, R561). [DEDUCED: log 44] -/
def hostLine (s : State) (m : Msg) : Bool := m.src.val == nodeCxl && m.op == opRead && inCoherent s m.addr.toNat

/-- The line number of a request's address: stack-local, in units of 64 bytes. -/
def lineOf (s : State) (z : Nat) (m : Msg) : Nat := ((localOf s z m.addr.toNat).getD 0) / 64

/-- Where granule `i` of a READ is served (R537). -/
def readPlace (s : State) (z : Nat) (m : Msg) (i : Nat) : Option Nat :=
  (localOf s z (m.addr.toNat + 32 * i)).bind fun l => genRead (bezelOf s z) l (genNamed m)

/-- A bezel serves a READ; the record of an uncorrectable granule tells of the frame in which it lies (R401). -/
def bezelRead (z : Nat) (m : Msg) (s : State) : State :=
  let r := upTo (reqLen m) (fun a i => bezelRead1 z m i a) (([] : Parts), s)
  let cls := r.1.map (·.1)
  let p := partOf cls
  let prior := p.2.1 == 1 && priorMark r.2 z ((readPlace s z m p.2.2).getD 0)
  let grant := hostLine s m
  let s1 := if grant ∧ !(bezelOf r.2 z).lines.contains (lineOf s z m)
    then modBezel z (fun b => { b with lines := b.lines ++ [lineOf s z m] }) r.2 else r.2
  let s2 := addRereads m cls (recordParts (blkBezel z) m cls prior s1)
  let s3 := if cls.contains 1 then hubRaise (96 + z) s2 else s2
  returnData (nodeBezel z) m (r.1.map (·.2)) p.1 p.2.1 grant s3

/-- One granule written at a bezel (R391, R392); one in the intake range goes nowhere (R514): the class, and the state. -/
def bezelWrite1 (z : Nat) (m : Msg) (i : Nat) (a : List Nat × State) : List Nat × State :=
  let s := a.2
  match localOf s z (m.addr.toNat + 32 * i) with
  | none => (a.1 ++ [5], s)
  | some l =>
    let c := nth poisonCode m.data i
    let s1 := countEv (blkBezel z) 0x03 1 s
    if inIntake (bezelOf s z) l then (a.1 ++ [5], s)
    else if m.op = opPart then
      let u := stackUse z l s1
      let w := writePart u.1 c m.aux0
      (a.1 ++ [w.2], stackStore z l w.1 u.2)
    else (a.1 ++ [arrivedClass c], stackStore z l c s1)

/-- A bezel serves a write to DRAM, or a message to an intake. -/
def bezelWrite (z : Nat) (m : Msg) (s : State) : State :=
  let l := (localOf s z m.addr.toNat).getD 0
  if (localOf s z m.addr.toNat).isSome && inIntake (bezelOf s z) l then
    let r := contribute z l m s
    answerWrite (nodeBezel z) m r.2.1 r.1 r.2.2
  else if m.op = opSum ∨ m.op = opAtomic then
    let cls := List.replicate m.len 5
    answerWrite (nodeBezel z) m (partOf cls).1 5 (recordParts (blkBezel z) m cls false s)
  else
    let r := upTo m.len (fun a i => bezelWrite1 z m i a) (([] : List Nat), s)
    let p := partOf r.1
    let prior := p.2.1 == 1 && priorMark r.2 z ((localOf s z (m.addr.toNat + 32 * p.2.2)).getD 0)
    let s1 := recordParts (blkBezel z) m r.1 prior r.2
    answer (nodeBezel z) (writeAck m p.1 p.2.1 0) (if r.1.contains 1 then hubRaise (96 + z) s1 else s1)

/-- The granule addresses of a request. -/
def msgGrans (m : Msg) : List Nat := (List.range (max 1 (reqLen m))).map fun i => m.addr.toNat + 32 * i

/-- Two requests reach one granule. -/
def sameGran (a b : Msg) : Bool := (msgGrans a).any fun p => (msgGrans b).contains p

/-- The lines that must be invalidated before the request is served (R562, R563): those that a device-side write reaches,
which a write of the host is not, and the oldest of a full record where a host read would add one. -/
def blockedLines (s : State) (z : Nat) (m : Msg) : List Nat :=
  let b := bezelOf s z
  if m.op = opRead then
    if hostLine s m ∧ !b.lines.contains (lineOf s z m) ∧ 32768 ≤ b.lines.length then b.lines.take 1 else []
  else
    let l := (localOf s z m.addr.toNat).getD 0
    if inIntake b l then heldLines b (conTouches b l m)
    else if m.src.val = nodeCxl then []
    else heldLines b ((List.range m.len).filterMap fun i => localOf s z (m.addr.toNat + 32 * i))

/-- How long a request has waited. -/
def waited (s : State) (tick : BitVec 48) (ck : Nat) : Nat := absCk s - (tick.toNat * 16384 + ck)

def sortWait (s : State) (r : SortReq) : Nat := waited s r.tick r.ck

/-- The stack-local addresses at which a request's bursts are accessed, one for each (R309, R538). -/
def reqBursts (s : State) (z : Nat) (m : Msg) : List Nat :=
  let at_ (i : Nat) : Option Nat := (localOf s z (m.addr.toNat + 32 * i)).map fun l =>
    if m.op = opRead then (genRead (bezelOf s z) l (genNamed m)).getD l else l
  (((List.range (max 1 (reqLen m))).filterMap at_).map fun l => l / 256).dedup.map fun b => 256 * b

/-- Two requests reach one bank, or one bank group, of a bezel. -/
def shareGroup (s : State) (z : Nat) (a b : Msg) : Bool :=
  (reqBursts s z a).any fun l => (reqBursts s z b).any fun k => bankGroup z l == bankGroup z k

/-- A burst finds its row open (R805). -/
def burstHit (s : State) (z l : Nat) : Bool := tblGet 0 (bezelOf s z).openRow (bankOf l) == dramRow l
/-- Every burst of a request finds its row open. -/
def rowHit (s : State) (z : Nat) (m : Msg) : Bool := (reqBursts s z m).all (burstHit s z)

/-- A request gives way to another under rule 3 of R367: in some bank it needs another row than the open one, to which the
other goes. [DESIGN CHOICE: log 40] -/
def rowBehind (s : State) (z : Nat) (a b : Msg) : Bool :=
  (reqBursts s z a).any fun l => !burstHit s z l && (reqBursts s z b).any fun k => bankOf k == bankOf l && burstHit s z k

/-- A request reaches one of a list of lines. -/
def reachesLine (s : State) (z : Nat) (m : Msg) (lines : List Nat) : Bool :=
  (msgGrans m).any fun p => (localOf s z p).any fun l => lines.contains (l / 64)

/-- A request waits behind an older one (R367, R564): both reach one granule, or it reaches a line for which the older waits. -/
def waitsBehind (s : State) (z : Nat) (q r : SortReq) : Bool :=
  sameGran q.msg r.msg || (q.held && reachesLine s z r.msg (blockedLines s z q.msg))

/-- A request that came after the update unit began to wait for lines, and reaches one of them (R564). -/
def behindUnit (s : State) (z : Nat) (r : SortReq) : Bool :=
  let b := bezelOf s z
  unitWaits b (r.tick.toNat * 16384 + r.ck) &&
  match unitNext b with
  | some ri => reachesLine s z r.msg ((unitTouches b ri).map (· / 64))
  | none => false

/-- Requests that rule 1 of R367 lets be served, in arrival order; one that waits for a BIRsp is not served.
[DESIGN CHOICE: log 40] -/
def freeReqs (s : State) (z : Nat) : List SortReq :=
  let l := (bezelOf s z).sorter
  ((List.range l.length).zip l).filterMap fun p =>
    if (l.take p.1).any (fun q => waitsBehind s z q p.2) || behindUnit s z p.2 || (p.2.held && blockedLines s z p.2.msg != []) then none
    else some p.2

/-- Requests that rules 1 to 3 of R367 let be served. [DESIGN CHOICE: log 40] -/
def readyReqs (s : State) (z : Nat) : List SortReq :=
  let l := freeReqs s z
  let idx := (List.range l.length).zip l
  let aged := idx.filterMap fun p =>
    if (l.take p.1).any fun q => decide (512 ≤ sortWait s q) && shareGroup s z q.msg p.2.msg then none
    else some p.2
  let front := aged.filter fun r => !(aged.any fun q => q != r && rowBehind s z r.msg q.msg)
  if front = [] then aged.take 1 else front

/-- The request that a bezel serves next (R367): the least PRIO class, then the oldest. [DESIGN CHOICE: log 40] -/
def bezelNext (s : State) (z : Nat) : Option SortReq :=
  match readyReqs s z with
  | [] => none
  | r :: l => some (l.foldl (fun a q => if msgPrio q.msg < msgPrio a.msg then q else a) r)

/-- Two requests of one kind reach one burst: two reads, or two writes, to distinct granules under rule 1 of R367 (R368). -/
def sameBurst (s : State) (z : Nat) (a q : Msg) : Bool :=
  ((a.op == opRead && q.op == opRead) ||
   ((a.op == opWrite || a.op == opPart) && (q.op == opWrite || q.op == opPart))) &&
  (reqBursts s z a).any (reqBursts s z q).contains

/-- A request that reaches the burst of one now served, in the same way, and waits for no line.
[DESIGN CHOICE: log 40] -/
def mayMerge (s : State) (z : Nat) (a q : SortReq) : Bool :=
  !q.held && !behindUnit s z q && blockedLines s z q.msg == [] && sameBurst s z a.msg q.msg

/-- A request that rule 1 of R367 lets be merged with those of `g`: every older one that it waits behind is a read among them,
as it is itself (R368). -/
def mergesWith (s : State) (z : Nat) (g : List SortReq) (q : SortReq) : Bool :=
  (((bezelOf s z).sorter.takeWhile fun x => x != q).filter fun x => waitsBehind s z x q).all fun x =>
    q.msg.op == opRead && x.msg.op == opRead && g.contains x

/-- The requests that arrive within 32 ck of the first of their burst, with the one now served among them: `l` in order of
arrival, and `g` the present group with its first (R368). -/
def mergeGroup (s : State) (a : SortReq) (g : List SortReq) : List SortReq → List SortReq
  | [] => if g.contains a then g else []
  | q :: l =>
    match g with
    | [] => mergeGroup s a [q] l
    | f :: _ =>
      if sortWait s f ≤ sortWait s q + 32 then mergeGroup s a (g ++ [q]) l
      else if g.contains a then g
      else mergeGroup s a [q] l

/-- The requests that R368 merges with one now served. [DESIGN CHOICE: log 40] -/
def merged (s : State) (z : Nat) (a : SortReq) : List SortReq :=
  let l := (mergeGroup s a [] ((bezelOf s z).sorter.filter fun q => q == a || mayMerge s z a q)).filter fun q => q != a
  (l.foldl (fun g q => if mergesWith s z g q then g ++ [q] else g) [a]).filter fun q => q != a

/-- A request leaves the sorter and takes effect (R805: its rows are then open). -/
def bezelDo (z : Nat) (r : SortReq) (s : State) : State :=
  let s1 := modBezel z (fun b => { b with sorter := dropFirst (fun q => q == r) b.sorter })
    ((reqBursts s z r.msg).foldl (fun t l => countEv (blkBezel z) (if burstHit s z l then 0x05 else 0x06) 1 t) s)
  if r.msg.op = opRead then bezelRead z r.msg s1 else bezelWrite z r.msg s1

/-- A request is served, or its lines are invalidated first (R562, R563). -/
def bezelServe (z : Nat) (r : SortReq) (s : State) : State :=
  match blockedLines s z r.msg with
  | [] =>
    let also := merged s z r
    let s0 := if 512 ≤ sortWait s r ∧ (bezelOf s z).sorter.length ≠ 1 then countEv (blkBezel z) 0x07 1 s else s
    let s1 := bezelDo z r s0
    if also = [] then s1
    else also.foldl (fun t q => if blockedLines t z q.msg = [] then bezelDo z q t else t) (countEv (blkBezel z) 0x04 1 s1)
  | ls =>
    ls.foldl (fun t l => snoop z l t) (modBezel z (fun b => { b with
      sorter := modFirst (fun q => q == r) (fun q => { q with held := true }) b.sorter }) s)

/-- BEZEL_SERVE_REQUEST (R367). -/
def execBezelServeRequest (b : BezelN) (s : State) : Host.Outcome State Fault Refusal :=
  match bezelNext s b.val with
  | some r => whenOk s (mainUp s) (bezelServe b.val r s)
  | none => .next s

/-- Requests that waited for a line now released are served, the oldest first (R563, R566); one that a full record still keeps
out has the next line invalidated (R562). -/
def serveHeld (z : Nat) (s : State) : State :=
  ((bezelOf s z).sorter.filter fun r => r.held).foldl (fun t r =>
    match blockedLines t z r.msg with
    | [] => bezelDo z r t
    | ls => ls.foldl (fun u l => snoop z l u) t) s

/-- A line leaves a bezel's host-line record. -/
def dropLine (z line : Nat) (s : State) : State := modBezel z (fun b => { b with lines := b.lines.filter fun l => l != line }) s
/-- The BISnpInv of a line is over. -/
def snoopOver (z line : Nat) (s : State) : State :=
  dropLine z line (modBezel z (fun b => { b with snoops := b.snoops.filter fun p => p.1 != line }) s)

/-- The slice offset of a granule that a slice holds. -/
def sliceOff (s : State) (i p : Nat) : Option Nat :=
  match placeOf s.mem.splitNow.toNat p with
  | .slice k off => if k = i then some off else none
  | _ => none

/-- One granule read at a slice: its class and what goes back. -/
def sliceRead1 (i : Nat) (m : Msg) (j : Nat) (s : State) : (Nat × Code) × State :=
  match sliceOff s i (m.addr.toNat + 32 * j) with
  | none => ((5, poisonCode), s)
  | some off =>
    let c := codeAt s.mem (sliceGran i (off / 32))
    ((lookClass (decodeCode c).1, passOn c), countEv (blkSlice i) 0x02 1 (countLook (blkSlice i) c s))

/-- One granule written at a slice: its class. -/
def sliceWrite1 (i : Nat) (m : Msg) (j : Nat) (s : State) : (Nat × Code) × State :=
  match sliceOff s i (m.addr.toNat + 32 * j) with
  | none => ((5, poisonCode), s)
  | some off =>
    let g := sliceGran i (off / 32)
    let c := nth poisonCode m.data j
    let s1 := countEv (blkSlice i) 0x03 1 s
    if m.op = opPart then
      let old := codeAt s1.mem g
      let w := writePart old c m.aux0
      ((w.2, poisonCode), storeGran g w.1 (countLook (blkSlice i) old s1))
    else ((arrivedClass c, poisonCode), storeGran g (passOn c) s1)

/-- An atomic at a slice: it acts and is answered in one access (R48). One other than an LR that finds an uncorrectable or
poisoned granule leaves it poisoned (R61). -/
def sliceAtomic (i : Nat) (m : Msg) (s : State) : State :=
  let n := nodeXbar (i / 4)
  match sliceOff s i m.addr.toNat with
  | none => answer n (writeAck m 1 5 0) (recordParts (blkSlice i) m [5] false s)
  | some off =>
    let g := sliceGran i (off / 32)
    let c := codeAt s.mem g
    let k := lookClass (decodeCode c).1
    let s1 := countLook (blkSlice i) c s
    let d := (goodData (nth poisonCode m.data 0)).toNat
    let f5 := bitsOf d 64 8
    let hart := bitsOf d 88 16
    if k ≠ 0 then
      let s2 := recordParts (blkSlice i) m [k] false s1
      answer n (writeAck m 1 k 0) (if f5 = 2 then addRereads m [k] s2 else resvAfter f5 hart g (storeGran g poisonCode s2))
    else
      let r := atomicAct f5 (bitsOf d 72 8) (bitsOf d 80 8) (resvHeld s hart g) (BitVec.ofNat 64 d) (goodData c)
      let s2 := match r.1 with
        | some v => storeGran g (encodeGran v) s1
        | none => s1
      answer n (writeAck m 0 0 r.2) (resvAfter f5 hart g s2)

/-- Granules that a request accesses at a slice. -/
def sliceLen (m : Msg) : Nat := if m.op = opAtomic then 1 else reqLen m

/-- The granule of a slice that an access needs: none for what a slice refuses, a SUMWRITE or an address of another unit. -/
def sliceNeeds (s : State) (i : Nat) (m : Msg) (j : Nat) : Option Nat :=
  if m.op = opSum then none else (sliceOff s i (m.addr.toNat + 32 * j)).map fun off => off / 32

/-- One access of a request takes effect (R307). -/
def sliceOne (i : Nat) (m : Msg) (j : Nat) (s : State) : (Nat × Code) × State :=
  if m.op = opRead then sliceRead1 i m j s
  else if m.op = opAtomic then ((0, poisonCode), sliceAtomic i m s)
  else if m.op = opSum then ((5, poisonCode), s)
  else sliceWrite1 i m j s

/-- A request whose granules are all served is answered (R336, R340). -/
def sliceEnd (i : Nat) (r : SliceReq) (s : State) : State :=
  let m := r.msg
  let n := nodeXbar (i / 4)
  let parts := (List.range (sliceLen m)).map fun j => (tblGet (5, poisonCode) r.got j)
  let cls := parts.map (·.1)
  let p := partOf cls
  let s1 := recordParts (blkSlice i) m cls false s
  if m.op = opRead then returnData n m (parts.map (·.2)) p.1 p.2.1 false (addRereads m cls s1)
  else if m.op = opAtomic then s
  else answerWrite n m p.1 p.2.1 s1

/-- A slice's sorter within one ck: granule reads and writes made, banks used, each with its granule plus 1 where it was
read and 0 where it was written, granules for which an older access waits, and banks for which one waits that came 32 ck
ago (R306, R369). -/
structure SliceTurn where
  st : State
  reads : Nat := 0
  writes : Nat := 0
  banks : List (Nat × Nat) := []
  waits : List Nat := []
  aged : List Nat := []

/-- An access may be made in this ck (R306, R307, R369): its bank is free, or read the same granule; two reads and two
writes at most; no older access to the granule waits, and none to the bank that has waited 32 ck.
[DESIGN CHOICE: log 40] -/
def sliceMay (c : SliceTurn) (g : Nat) (write : Bool) : Bool :=
  !c.waits.contains g && !c.aged.contains (g % 8) &&
  match c.banks.find? fun p => p.1 == g % 8 with
  | some p => !write && p.2 == g + 1
  | none => if write then decide (c.writes < 2) else decide (c.reads < 2)

/-- The turn of one granule of a request: it is accessed, or it waits. [DESIGN CHOICE: log 40] -/
def sliceAccess (i : Nat) (a : SliceTurn × SliceReq) (j : Nat) : SliceTurn × SliceReq :=
  let c := a.1
  let r := a.2
  let take (c : SliceTurn) : SliceTurn × SliceReq :=
    let u := sliceOne i r.msg j c.st
    ({ c with st := u.2 }, { r with got := r.got ++ [(j, u.1)] })
  if r.got.any fun p => p.1 == j then a
  else
    match sliceNeeds c.st i r.msg j with
    | none => take c
    | some g =>
      let write := r.msg.op != opRead
      if sliceMay c g write then
        let new := !c.banks.any fun p => p.1 == g % 8
        take { c with
          reads := c.reads + b2n (new && !write)
          writes := c.writes + b2n write
          banks := if new then (g % 8, if write then 0 else g + 1) :: c.banks else c.banks }
      else ({ c with
        waits := g :: c.waits
        aged := if 32 ≤ waited c.st r.tick r.ck then (g % 8) :: c.aged else c.aged }, r)

/-- The banks of the granules that a request still needs. -/
def sliceBanks (s : State) (i : Nat) (r : SliceReq) : List Nat :=
  ((List.range (sliceLen r.msg)).filter fun j => !r.got.any fun p => p.1 == j).filterMap fun j =>
    (sliceNeeds s i r.msg j).map (· % 8)

/-- The requests of a slice's sorter take their turns, the oldest first, and those that are complete are answered; one that
has waited 32 ck before a younger one that needs its banks is an age promotion (R369, R665). -/
def sliceRun (i : Nat) : List SliceReq → SliceTurn → SliceTurn × List SliceReq
  | [], c => (c, [])
  | r :: l, c =>
    let a := upTo (sliceLen r.msg) (sliceAccess i) (c, r)
    if a.2.got.length < sliceLen r.msg then
      let u := sliceRun i l a.1
      (u.1, a.2 :: u.2)
    else
      let old := decide (32 ≤ waited c.st r.tick r.ck) && l.any fun q => (sliceBanks c.st i q).any (sliceBanks c.st i r).contains
      let s1 := if old then countEv (blkSlice i) 0x05 1 a.1.st else a.1.st
      sliceRun i l { a.1 with st := sliceEnd i a.2 s1 }

/-- A request that has reached a slice before the present ck: all that a ck brings are in their order by then (R307, R408). -/
def sliceDue (s : State) (r : SliceReq) : Bool := decide (0 < waited s r.tick r.ck)

/-- One ck of a slice's sorter (R306, R369): the oldest 16 requests have their turn, and those that a busy bank kept waiting
are counted. [DESIGN CHOICE: log 40] -/
def sliceServe (i : Nat) (s : State) : State :=
  let l := tblGet [] s.mem.slices i
  let due := l.filter (sliceDue s)
  let s0 : State := { s with mem := { s.mem with
    slices := tblSet [] s.mem.slices i (due.drop 16 ++ l.filter fun r => !sliceDue s r)
    sliceCk := tblSet 0 s.mem.sliceCk i (absCk s + 1) } }
  let u := sliceRun i (due.take 16) { st := s0 }
  let late := countIf (fun r => (sliceBanks u.1.st i r).any fun b => u.1.banks.any fun p => p.1 == b) u.2
  let s1 := countEv (blkSlice i) 0x04 late u.1.st
  { s1 with mem := { s1.mem with slices := tblMod [] s1.mem.slices i fun x => u.2 ++ x } }

/-- SLICE_SERVE_REQUEST (R306, R369): the sorter of a slice serves in this ck, in which it has not served yet. -/
def execSliceServeRequest (sl : Fin 128) (s : State) : Host.Outcome State Fault Refusal :=
  whenOk s (mainUp s && (tblGet [] s.mem.slices sl.val).any (sliceDue s) && tblGet 0 s.mem.sliceCk sl.val != absCk s + 1) (sliceServe sl.val s)

/-- A bead's data memory answers a READ from the fabric (R336, R407). [DEDUCED: log 83] -/
def beadServeRead (o : Nat) (m : Msg) (s : State) : State :=
  let one (a : Parts × State) (j : Nat) : Parts × State :=
    match placeOf a.2.mem.splitNow.toNat (m.addr.toNat + 32 * j) with
    | .dmem o' off =>
      if o' = o then
        let c := dmemGet a.2 o (off / 32)
        (a.1 ++ [(lookClass (decodeCode c).1, passOn c)], countLook o c a.2)
      else (a.1 ++ [(5, poisonCode)], a.2)
    | _ => (a.1 ++ [(5, poisonCode)], a.2)
  let r := upTo (reqLen m) one (([] : Parts), s)
  let cls := r.1.map (·.1)
  let p := partOf cls
  returnData (nodeBead o) m (r.1.map (·.2)) p.1 p.2.1 false (recordParts o m cls false r.2)

/-- A bead's data memory takes a write from the fabric. [DEDUCED: log 83] -/
def beadServeWrite (o : Nat) (m : Msg) (s : State) : State :=
  let one (a : List Nat × State) (j : Nat) : List Nat × State :=
    match placeOf a.2.mem.splitNow.toNat (m.addr.toNat + 32 * j) with
    | .dmem o' off =>
      let c := nth poisonCode m.data j
      if o' ≠ o then (a.1 ++ [5], a.2)
      else if m.op = opPart then
        let old := dmemGet a.2 o (off / 32)
        let w := writePart old c m.aux0
        (a.1 ++ [w.2], dmemPut o (off / 32) w.1 (countLook o old a.2))
      else (a.1 ++ [arrivedClass c], dmemPut o (off / 32) (passOn c) a.2)
    | _ => (a.1 ++ [5], a.2)
  let r := upTo m.len one (([] : List Nat), s)
  let p := partOf r.1
  sendFrom (nodeBead o) (writeAck m p.1 p.2.1 0) (recordParts o m r.1 false r.2)

/-- A request that its node has no memory for ends with NO_TARGET, and the node records it (R336, R340).
[DEDUCED: log 83] -/
def noTarget (n : Nat) (m : Msg) (s : State) : State :=
  let len := max 1 (min 8 (reqLen m))
  let s1 := recordPart (nodeBlock s n) m.addr.toNat (fullMask len) 5 m.src.val false s
  if m.op = opRead then sendFrom n (readResp m [] (fullMask len) 5) s1
  else answerWrite n m (fullMask len) 5 s1

/-- A request waits in a bezel's sorter, where there is room (R367). -/
def toBezel (z : Nat) (m : Msg) (s : State) : State :=
  modBezel z (fun b => { b with sorter := b.sorter ++ [⟨m, s.clock.tick, s.clock.ck, false⟩] }) s
def bezelRoom (s : State) (z : Nat) : Bool := decide ((bezelOf s z).sorter.length < 1024)

end Sys2Proof.Machine
end

