-- ==== Sys2Proof/Machine/HostLink.lean ====
section
/-! DEFINITION. The CXL host link: host memory requests, back-invalidate, UIO, errors, lane calibration (chapter 16). -/

namespace Sys2Proof.Machine

def setHost (h : HostLink) (s : State) : State := { s with host := h }

/-- 1 TiB. -/
def tib : Nat := 1024 * gib

/-- The row of R575's table for an error, counted from 1; 0 for an event that is none of them. [DEDUCED: log 44] -/
def linkRow (e : LinkError) : Nat :=
  match e with
  | .corrected => 1
  | .poisonRx => 2
  | .uioTimeout => 3
  | .unsupported => 4
  | .fatal => 5
  | .biTimeout => 6
  | .badRead _ => 0

/-- A HOST_LINK record with an address and a class (R684). [DEDUCED: log 44] -/
def recordHost (row cls addr : Nat) (s : State) : State := recordAddr 0x14 blkCxl addr (row + 256 * cls) s
/-- A HOST_LINK record without an address. -/
def recordHostAt (row : Nat) (s : State) : State := recordAt 0x14 blkCxl row s

/-- The AER class of a link error (R575). [PRESUMED: log 105] -/
def aerClass (e : LinkError) : Option AerClass :=
  match e with
  | .corrected => some .correctable
  | .poisonRx | .uioTimeout | .unsupported => some .nonfatal
  | .fatal => some .fatal
  | .biTimeout | .badRead _ => none

/-- An error is noted in the AER status and reported to the host by the message of its class (R550, R575).
[PRESUMED: log 105] -/
def reportAer (c : AerClass) (s : State) : State :=
  let h := s.host
  emit (.aer c) (setHost (match c with
    | .correctable => { h with aerCorr := true }
    | .nonfatal => { h with aerNonfatal := true }
    | .fatal => { h with aerFatal := true }) s)

/-- A link error is counted in HLK_ERR_STAT and reported by its AER class (R575). -/
def countError (e : LinkError) (s : State) : State :=
  let h := s.host
  let s1 := match e with
    | .corrected => setHost { h with corr := satInc h.corr } s
    | .poisonRx => setHost { h with poisonRx := satInc h.poisonRx } s
    | .uioTimeout | .unsupported => setHost { h with uncorr := satInc h.uncorr } s
    | .fatal => setHost { h with linkDown := satInc h.linkDown } s
    | .biTimeout => setHost { h with biTmo := satInc h.biTmo } s
    | .badRead _ => s
  match aerClass e with
  | some c => reportAer c s1
  | none => s1

/-- The physical stack address of a host address, where the committed decoder holds it (R556). -/
def hdmPhys (s : State) (hpa : Nat) : Option Nat :=
  match s.host.hdm with
  | some base => if base ≤ hpa ∧ hpa < base + tib then some (hpa - base) else none
  | none => none

/-- A host request can reach the module: the link is UP, memory is enabled, and the decoder holds the line. -/
def hostMem (s : State) (hpa : Nat) : Option Nat :=
  if mainUp s && linkUp s && s.host.memEn then (hdmPhys s hpa).map fun a => a / 64 * 64 else none

/-- A request of the host enters the mesh from the CXL node in stream 0x2 (R568). -/
def hostSend (a : Nat) (m : Msg) (s : State) : State :=
  let tag := s.host.nextTag
  let s1 := setHost { s.host with nextTag := tag + 1 } s
  sendMsg { m with
    dst := node ((placeNode (placeOf s.mem.splitNow.toNat a)).getD 0), src := node nodeCxl, addr := BitVec.ofNat 48 a
    tag := tag, stream := 2 } s1

/-- MEM_RD (R557). -/
def execMemRd (hpa : Nat) (s : State) : Host.Outcome State Fault Refusal :=
  match hostMem s hpa with
  | some a => .next (hostSend a { msg0 with op := opRead, aux0 := 2 } (countEv blkCxl 0x02 1 s))
  | none => .next s

/-- The two granules of a line from the host (R331). -/
def lineCodes (data : BitVec 512) (poison : Bool) : List Code :=
  if poison then [poisonCode, poisonCode]
  else [encodeGran (data.setWidth 256), encodeGran ((data >>> 256).setWidth 256)]

/-- Poison received from the host (R575). -/
def poisonIn (s : State) : State := hubRaise 129 (recordHostAt (linkRow .poisonRx) (countError .poisonRx s))

/-- MEM_WR (R557). -/
def execMemWr (hpa : Nat) (data : BitVec 512) (poison : Bool) (s : State) : Host.Outcome State Fault Refusal :=
  match hostMem s hpa with
  | some a =>
    let s1 := if poison then poisonIn s else s
    .next (hostSend a { msg0 with op := opWrite, len := 2, data := lineCodes data poison } (countEv blkCxl 0x03 1 s1))
  | none => .next s

/-- The completion of a host write leaves, while the link is UP (R560, R576). -/
def memDone (addr : Nat) (s : State) : State := if linkUp s then emit (.memDone addr) s else s

/-- The bytes of a granule of a line that byte enables select. -/
def ptlMask (be : BitVec 64) (i : Nat) : Word32 := BitVec.ofNat 32 (bitsOf be.toNat (32 * i) 32)

/-- One granule of a partial write, where the byte enables reach it (R392). -/
def ptlPart (a : Nat) (be : BitVec 64) (line : HostLine) (i : Nat) (s : State) : State :=
  if ptlMask be i = 0 then s
  else hostSend (a + 32 * i) { msg0 with
    op := opPart, len := 1, aux0 := ptlMask be i, data := [nth poisonCode (lineCodes line.data line.poison) i] } s

/-- MEM_WR_PTL (R557): a partial write of each granule that the byte enables reach; it completes with the last of them
(R560). -/
def execMemWrPtl (hpa : Nat) (be : BitVec 64) (line : HostLine) (s : State) : Host.Outcome State Fault Refusal :=
  match hostMem s hpa with
  | some a =>
    let s1 := countEv blkCxl 0x03 1 (if line.poison then poisonIn s else s)
    let h := s1.host
    .next (
      if be = 0 then memDone a s1
      else if ptlMask be 0 ≠ 0 ∧ ptlMask be 1 ≠ 0 then
        ptlPart a be line 1 (ptlPart a be line 0 (setHost { h with halves := h.halves ++ [(h.nextTag, h.nextTag + 1)] } s1))
      else ptlPart a be line 1 (ptlPart a be line 0 s1))
  | none => .next s

/-- A stack line's bezel and stack-local line number. -/
def lineAt (s : State) (a : Nat) : Option (Nat × Nat) :=
  match placeOf s.mem.splitNow.toNat a with
  | .stack z l => some (z, l / 64)
  | _ => none

/-- MEM_INV (R557, R562). -/
def execMemInv (hpa : Nat) (s : State) : Host.Outcome State Fault Refusal :=
  match hostMem s hpa with
  | some a =>
    match lineAt s a with
    | some p => .next (dropLine p.1 p.2 s)
    | none => .next s
  | none => .next s

/-- MEM_SPEC_RD (R557): ignored. -/
def execMemSpecRd (hpa : Nat) (s : State) : Host.Outcome State Fault Refusal :=
  match hostMem s hpa with
  | some _ => .next s
  | none => .next s

/-- A READ_RESP reaches the CXL node: the line goes to the host, poisoned where a granule failed (R559, R561). -/
def cxlReadResp (m : Msg) (s : State) : State :=
  let bad := stClass m ≠ 0 ∨ m.data.any isBad ∨ m.data = []
  let num := (goodData (nth poisonCode m.data 0)).toNat + (goodData (nth poisonCode m.data 1)).toNat * 2 ^ 256
  let cls := if stClass m ≠ 0 then stClass m else if m.data.any fun c => arrivedClass c == 1 then 1 else 0
  let s1 := if linkUp s then emit (.hostData (BitVec.ofNat 512 num) (decide bad) (bitOf m.aux0.toNat 0)) s else s
  if cls ≠ 0 then recordHost 0 cls m.addr.toNat s1 else s1

/-- The completion of a host write that the fabric has answered: of a partial write of both granules, with the second answer. -/
def hostDone (m : Msg) (s : State) : State :=
  let mine (p : BitVec 10 × BitVec 10) : Bool := p.1 == m.tag || p.2 == m.tag
  if s.host.halves.any mine then setHost { s.host with halves := dropFirst mine s.host.halves } s
  else memDone (m.addr.toNat / 64 * 64) s

/-- A WRITE_ACK reaches the CXL node: the host has its completion, which tells it no error, and a failed write is recorded
(R559, R560). -/
def cxlWriteAck (m : Msg) (s : State) : State :=
  if stClass m ≠ 0 then recordHost 0 (stClass m) m.addr.toNat (hostDone m s) else hostDone m s

/-- The BISnpInv of a line is answered, or given up: the line leaves the record, and what waited for it is served (R563).
[DEDUCED: log 44] -/
def release (z line : Nat) (s : State) : State := serveHeld z (snoopOver z line s)

/-- A BISnpInv for a line is out (R563). -/
def snooping (s : State) (z line : Nat) : Bool := (bezelOf s z).snoops.any fun p => p.1 == line

/-- BI_RSP (R563); an answer that no BISnpInv awaits releases nothing. [DEDUCED: log 44] -/
def execBiRsp (b : BezelN) (line : Nat) (s : State) : Host.Outcome State Fault Refusal :=
  let s1 := countEv blkCxl 0x07 1 s
  whenOk s (mainUp s) (if snooping s b.val line then release b.val line s1 else s1)

/-- BACK_INVALIDATE_TIMEOUT (R566): 65,536 ck after its BISnpInv. [DESIGN CHOICE: log 25; DEDUCED: log 44] -/
def execBackInvalidateTimeout (b : BezelN) (line : Nat) (s : State) : Host.Outcome State Fault Refusal :=
  whenOk s (mainUp s && (bezelOf s b.val).snoops.any fun p => p.1 == line && decide (p.2 + 65536 ≤ absCk s))
    (release b.val line (hubRaise 129 (recordHost (linkRow .biTimeout) 0 (physOfLocal s b.val (64 * line))
      (countError .biTimeout s))))

/-- Answer to a board-tier request (R573). -/
def boardAnswer (j : UioJob) (s : State) : State :=
  let m := j.msg
  let n := if m.op = opRead then reqLen m else m.len
  let data := (List.range n).map fun i => tblGet poisonCode j.got i
  if m.op = opRead then returnData nodeCxl m data j.pm.toNat j.cls.toNat false s
  else sendFrom nodeCxl (writeAck m j.pm.toNat j.cls.toNat 0) s

/-- A board-tier request that fails whole. -/
def boardFail (m : Msg) (cls : Nat) (s : State) : State :=
  boardAnswer { num := 0, msg := m, left := 0, pm := BitVec.ofNat 8 (fullMask (min 8 (reqLen m))), cls := BitVec.ofNat 4 cls } s

/-- The UIO requests of a board-tier request: split at a 4 KiB boundary of the host address (R572).
[DESIGN CHOICE: log 45] -/
def uioSplit (hpa n : Nat) : List (Nat × Nat) :=
  let k := min n ((4096 - hpa % 4096 + 31) / 32)
  if k < n then [(0, k), (k, n - k)] else [(0, n)]

/-- The window and offset of a board-tier request. [DESIGN CHOICE: log 45] -/
def boardAt (s : State) (m : Msg) : Option (BoardWin × Nat) :=
  match placeOf s.mem.splitNow.toNat m.addr.toNat with
  | .board w off => some (tblGet {} s.mmu.win w, off)
  | _ => none

/-- The granules of a board-tier request that lie within its window (R329): they come before those at or beyond SIZE. -/
def boardLen (w : BoardWin) (off : Nat) (m : Msg) : Nat := if w.enable then min (reqLen m) ((w.gib * gib - off + 31) / 32) else 0

/-- A board-tier request can start: its UIO requests fit among the 512 (R572). -/
def boardRoom (s : State) (m : Msg) : Bool :=
  match boardAt s m with
  | some (w, off) => decide (s.host.uio.length + (uioSplit (w.hpa + off) (boardLen w off m)).length ≤ 512)
  | none => true

/-- A board-tier request that fails whole with a class of R573, and its record. -/
def boardEnd (m : Msg) (cls : Nat) (s : State) : State :=
  recordParts blkCxl m (List.replicate (reqLen m) cls) false (boardFail m cls s)

/-- The granules of a board-tier write that arrive uncorrectable: they go on poisoned, and fail (R336, R390). -/
def boardBad (n : Nat) (m : Msg) : List Nat :=
  if m.op = opRead then [] else (List.range n).filter fun i => arrivedClass (nth poisonCode m.data i) == 1

/-- A board-tier request at the CXL node (R328, R329, R572, R573): granules at or beyond SIZE end with NO_TARGET, and the others
go to the host. [DESIGN CHOICE: log 45] -/
def boardStart (m : Msg) (s : State) : State :=
  match boardAt s m with
  | none => boardFail m 5 s
  | some (w, off) =>
    let n := boardLen w off m
    if n = 0 ∨ m.op = opAtomic ∨ m.op = opSum then boardEnd m 5 s
    else if !s.host.uioEn ∨ !linkUp s then boardEnd m 3 s
    else
      let read := decide (m.op = opRead)
      let h := s.host
      let parts := uioSplit (w.hpa + off) n
      let us := ((List.range parts.length).zip parts).map fun x =>
        ({ id := h.nextUio + x.1, job := h.nextUio, first := x.2.1, n := x.2.2, hpa := w.hpa + off + 32 * x.2.1
           since := s.clock.tick } : Uio)
      let s1 := setHost { h with
        uio := h.uio ++ us
        jobs := h.jobs ++ [{ num := h.nextUio, msg := m, left := parts.length
                             pm := BitVec.ofNat 8 (2 ^ reqLen m - 2 ^ n + ((boardBad n m).map fun i => 2 ^ i).sum)
                             cls := if boardBad n m ≠ [] then 1 else if n < reqLen m then 5 else 0 }]
        nextUio := h.nextUio + parts.length } s
      let out (u : Uio) : List (Gran × Word32 × Bool) := if read then [] else (List.range u.n).map fun i =>
        let c := nth poisonCode m.data (u.first + i)
        (goodData c, if m.op = opPart then m.aux0 else BitVec.allOnes 32, isBad c)
      us.foldl (fun t u => emit (.uio u.id (!read) u.hpa (32 * u.n) (out u))
        (countEv blkCxl (if read then 0x04 else 0x05) 1 t)) s1

/-- A UIO request ends with a class and data (R331, R573); the part's class is that of its lowest granule that failed (R336). -/
def uioEnd (u : Uio) (cls : Nat) (data : List Code) (s : State) : State :=
  let h := s.host
  let s1 := setHost { h with uio := dropFirst (fun x => x.id == u.id) h.uio } s
  match h.jobs.find? fun j => j.num == u.job with
  | none => s1
  | some j =>
    let got := ((List.range data.length).zip data).foldl (fun t x => tblPut t (u.first + x.1) x.2) j.got
    let first := decide (cls ≠ 0) && (j.cls == 0 || j.pm.toNat % 2 ^ u.first == 0)
    let j1 : UioJob := { j with
      left := j.left - 1
      got := got
      pm := if cls = 0 then j.pm else j.pm ||| BitVec.ofNat 8 ((2 ^ u.n - 1) * 2 ^ u.first)
      cls := if first then BitVec.ofNat 4 cls else j.cls }
    if j1.left = 0 then
      let s2 := setHost { s1.host with jobs := dropFirst (fun x => x.num == j.num) h.jobs } s1
      let bad := (List.range (reqLen j.msg)).map fun i => if bitOf j1.pm.toNat i then j1.cls.toNat else 0
      boardAnswer j1 (recordParts blkCxl j.msg bad false s2)
    else setHost { s1.host with jobs := modFirst (fun x => x.num == j.num) (fun _ => j1) h.jobs } s1

/-- UIO_COMPLETION (R573). -/
def execUioCompletion (id : Nat) (how : UioEnd) (data : List Gran) (s : State) : Host.Outcome State Fault Refusal :=
  match s.host.uio.find? fun u => u.id == id with
  | none => .next s
  | some u =>
    let good := (List.range u.n).map fun i => encodeGran (nth 0 data i)
    whenOk s (mainUp s)
      (match how with
       | .ok => uioEnd u 0 good s
       | .poisoned => uioEnd u 2 (List.replicate u.n poisonCode) (poisonIn s)
       | .unsupported => uioEnd u 5 [] s
       | .abort => uioEnd u 3 [] s)

/-- UIO_TIMEOUT (R573, R575). [DESIGN CHOICE: log 25] -/
def execUioTimeout (id : Nat) (s : State) : Host.Outcome State Fault Refusal :=
  match s.host.uio.find? fun u => u.id == id with
  | none => .next s
  | some u =>
    whenOk s (mainUp s && decide (u.since.toNat + max 1 s.host.uioTmo.toNat ≤ s.clock.tick.toNat))
      (uioEnd u 6 [] (hubRaise 129 (recordHost (linkRow .uioTimeout) 6 u.hpa (countError .uioTimeout s))))

/-- A host request that has not reached a bezel. -/
def isHostReq (m : Msg) : Bool :=
  m.src.val == nodeCxl && (m.op == opRead || m.op == opWrite || m.op == opPart)

/-- Host requests under way in the fabric are discarded (R576). -/
def dropHostReqs (s : State) : State :=
  { s with fabric := { s.fabric with
      inj := (s.fabric.inj.map fun p => (p.1, p.2.filter fun m => !isHostReq m)).filter fun p => p.2 != []
      flights := (s.fabric.flights.map fun p => (p.1, p.2.filter fun f => !isHostReq f.msg)).filter fun p => p.2 != []
      arrivals := (s.fabric.arrivals.map fun p => (p.1, p.2.filter fun m => !isHostReq m)).filter fun p => p.2 != [] } }

/-- The link goes down (R576): every UIO request ends with TARGET_DOWN, host-line records are cleared, and the link
retrains. [DEDUCED: log 89] -/
def linkFall (s : State) : State :=
  let s1 := hubRaise 129 (recordHostAt (linkRow .fatal) (countError .fatal s))
  let s2 := setHost { s1.host with
    link := 1
    speed := 0
    width := 0
    l0p := false
    cal := false
    cache := []
    halves := [] } s1
  let s3 := s.host.uio.foldl (fun t u => uioEnd u 3 [] t) s2
  let s4 := upTo 16 (fun t z => serveHeld z (modBezel z (fun b => { b with lines := [], snoops := [] }) t)) s3
  dropHostReqs s4

/-- HOST_LINK_DOWN (R576). [DEDUCED: log 89] -/
def execHostLinkDown (s : State) : Host.Outcome State Fault Refusal :=
  whenOk s (mainUp s && linkUp s) (linkFall s)

/-- HOST_LINK_ERROR (R551, R555, R575). [PRESUMED: log 105] -/
def hostError (e : LinkError) (s : State) : State :=
  match e with
  | .corrected => countError e s
  | .fatal => linkFall s
  | .badRead _ => emit .abort (recordHostAt 0 s)
  | .unsupported => emit .unsupported (hubRaise 129 (recordHostAt (linkRow e) (countError e s)))
  | _ => hubRaise 129 (recordHostAt (linkRow e) (countError e s))

def execHostLinkError (e : LinkError) (s : State) : Host.Outcome State Fault Refusal :=
  whenOk s (mainUp s && linkUp s) (hostError e s)

/-- HOST_LINK_UP (R550): 32 GT/s where a lane fails to train at 64. [DEDUCED: log 89] -/
def execHostLinkUp (lanesAt64 : Bool) (s : State) : Host.Outcome State Fault Refusal :=
  whenOk s (mainUp s && s.host.link == 1)
    (setHost { s.host with link := 2, speed := if lanesAt64 then 2 else 1, width := 16 } s)

/-- A lane's calibration is due: its turn has come, and CAL_PERIOD has passed since its last (R577).
[DESIGN CHOICE: log 25] -/
def laneDue (s : State) (lane : Nat) : Bool :=
  let t := tblGet 0 s.host.calTick lane
  s.host.calNext.toNat == lane && (t == 0 || decide (t - 1 + ticksOf s.host.calPeriod.toNat ≤ s.clock.tick.toNat))

/-- The half of the link that stays in use: the one that does not hold the lane (R577). -/
def upperHalf (lane : Nat) : Bool := decide (lane < 8)

/-- The turn of a lane is over (R577). -/
def laneTurn (lane : Nat) (s : State) : HostLink :=
  { s.host with calNext := BitVec.ofNat 4 (lane + 1), calTick := tblSet 0 s.host.calTick lane (s.clock.tick.toNat + 1) }

/-- HOST_LANE_CALIBRATION (R577, R578, R730): L0p to x8 is requested; a refusal is recorded. -/
def execHostLaneCalibration (lane : Fin 16) (granted : Bool) (s : State) : Host.Outcome State Fault Refusal :=
  let h := laneTurn lane.val s
  let s1 := emit (.l0p true (upperHalf lane.val)) s
  whenOk s (mainUp s && linkUp s && s.host.calAuto && !s.host.cal && !handing s && laneDue s lane.val)
    (if granted then setHost { h with width := 8, l0p := true, cal := true, calLane := BitVec.ofNat 4 lane.val } s1
     else recordHostAt 0 (setHost h s1))

/-- HOST_CALIBRATION_DONE (R577). -/
def execHostCalibrationDone (s : State) : Host.Outcome State Fault Refusal :=
  whenOk s (mainUp s && linkUp s && s.host.cal)
    (emit (.l0p false (upperHalf s.host.calLane.toNat)) (setHost { s.host with width := 16, l0p := false, cal := false } s))

/-- HLK_BI_RANGE as it reads (R567). -/
def biRange (h : HostLink) : Word := BitVec.ofNat 64 (h.biBase.toNat + h.biSize.toNat * 1024)

/-- A write of HLK_BI_RANGE (R567). -/
def biRangeSet (w : Width) (v : Word) (s : State) : State :=
  let x := (wrWidth w (biRange s.host) v).toNat
  if s.host.memEn then s
  else setHost { s.host with
    biBase := BitVec.ofNat 10 (bitsOf x 0 10)
    biSize := if bitsOf x 10 7 ≤ 64 then BitVec.ofNat 7 (bitsOf x 10 7) else s.host.biSize } s

/-- HLK_BI_RANGE_WRITE (R567). -/
def execHlkBiRangeWrite (m : Master) (w : Width) (v : Word) (s : State) : Host.Outcome State Fault Refusal :=
  .next (regWriteRow m offHlkBi (biRangeSet w v) s)

/-- HLK_ERR_STAT as it reads (R581). -/
def hlkErr (h : HostLink) : Word :=
  BitVec.ofNat 64 (h.corr.toNat + h.uncorr.toNat * 2 ^ 16 + h.linkDown.toNat * 2 ^ 32 + h.biTmo.toNat * 2 ^ 40 +
    h.poisonRx.toNat * 2 ^ 48)

/-- HLK_ERR_STAT after a read. -/
def hlkErrClear (w : Width) (s : State) : State :=
  let h := s.host
  setHost { h with
    corr := rc w 15 0 h.corr 0
    uncorr := rc w 31 16 h.uncorr 0
    linkDown := rc w 39 32 h.linkDown 0
    biTmo := rc w 47 40 h.biTmo 0
    poisonRx := rc w 63 48 h.poisonRx 0 } s

/-- HLK_ERR_STAT_READ (R581). -/
def execHlkErrStatRead (w : Width) (s : State) : Host.Outcome State Fault Refusal :=
  .next (regReadRow 0x090010 w (hlkErr s.host) (hlkErrClear w) s)

/-- MSIX_UNMASK (R654): the held message leaves if the line is still 1, and the pending-array bit is cleared. -/
def unmaskVector (v : Nat) (s : State) : State :=
  let bit := BitVec.ofNat 32 (2 ^ v)
  let s1 : State := { s with hub := { s.hub with vmask := s.hub.vmask &&& ~~~ bit } }
  if s.hub.fmask || !bitOf s.hub.pba.toNat v then s1
  else
    let s2 : State := { s1 with hub := { s1.hub with pba := s1.hub.pba &&& ~~~ bit } }
    if bitOf s.hub.line.toNat (v + 4) && s.hub.msixEn && s.hub.busMaster then sendMsix v s2 else s2

def execMsixUnmask (v : Fin 32) (s : State) : Host.Outcome State Fault Refusal :=
  whenOk s (mainUp s && linkUp s) (unmaskVector v.val s)

/-- Function Mask falls: the vectors that are not masked themselves send what they hold (R654). -/
def functionUnmask (s : State) : State :=
  upTo 32 (fun t v => if bitOf t.hub.vmask.toNat v then t else unmaskVector v t) { s with hub := { s.hub with fmask := false } }

/-- Nutas reads an index line with RdShared (R569, R591): the locket cache holds it shared, and of a full cache the line held
longest leaves. [DESIGN CHOICE: log 15] -/
def cacheShared (line : Nat) (s : State) : State :=
  let l := (s.host.cache.filter fun x => x != line) ++ [line]
  setHost { s.host with cache := l.drop (l.length - 1024) } s

/-- H2D_SNOOP (R569): a snoop reaches the locket cache alone, which holds its lines shared and never modified: a line that it
holds leaves, and the host has its answer. [DESIGN CHOICE: log 15] -/
def execH2dSnoop (line : Nat) (s : State) : Host.Outcome State Fault Refusal :=
  whenOk s (mainUp s && linkUp s)
    (emit (.snoop line (s.host.cache.contains line)) (setHost { s.host with cache := s.host.cache.filter fun x => x != line } s))

/-- UIO_REQUEST_TO_MODULE (R574, R575). -/
def execUioRequestToModule (hpa : Nat) (s : State) : Host.Outcome State Fault Refusal :=
  whenOk s (mainUp s && linkUp s)
    (emit .unsupported (hubRaise 129 (recordHost (linkRow .unsupported) 0 hpa (countError .unsupported s))))

/-- A word of the configuration header (R553, R554): the identity, the class code 0x12_0000 of function 0, no BAR4, BAR5 and
expansion ROM; what the spec does not give is free. [DESIGN CHOICE: log 21] -/
def headerWord (i : Nat) : Word32 :=
  match i with
  | 0 => BitVec.ofNat 32 ((Config.identity 0).toNat + (Config.identity 1).toNat * 256 + 0x4D39 * 65536)
  | 2 => BitVec.ofNat 32 ((Config.identity 2).toNat + 0x120000 * 256)
  | 8 | 9 | 12 => 0
  | _ => (Config.freeWord i 553).setWidth 32

/-- What an access of the host to the function's configuration does (R550, R551, R553, R554, R556, R571, R654). -/
def capability (c : Capability) (s : State) : State :=
  match c with
  | .cacheEnable v => setHost { s.host with cacheEn := v } s
  | .memEnable v => setHost { s.host with memEn := v } s
  | .hdmCommit base size => if size = 1 ∧ base % tib = 0 then setHost { s.host with hdm := some base } s else s
  | .msixEnable v => { s with hub := { s.hub with msixEn := v, pba := if v then s.hub.pba else 0 } }
  | .busMaster v => { s with hub := { s.hub with busMaster := v, pba := if v then s.hub.pba else 0 } }
  | .functionMask v => if v then { s with hub := { s.hub with fmask := true } } else functionUnmask s
  | .vectorMask v => { s with hub := { s.hub with vmask := s.hub.vmask ||| BitVec.ofNat 32 (2 ^ v.val) } }
  | .uioEnable v => setHost { s.host with uioEn := v } s
  | .unsupported => s
  | .vectorEntry v addr data => { s with hub := { s.hub with
      msixAddr := tblSet 0 s.hub.msixAddr v.val addr, msixData := tblSet 0 s.hub.msixData v.val data } }
  | .readHeader i => emit (.config (headerWord i.val)) s
  | .readVector v => emit (.vector (tblGet 0 s.hub.msixAddr v.val) (tblGet 0 s.hub.msixData v.val)
      (bitOf s.hub.vmask.toNat v.val) (bitOf s.hub.pba.toNat v.val)) s
  | .clearAer => setHost { s.host with aerCorr := false, aerNonfatal := false, aerFatal := false } s

/-- CAPABILITY_WRITE (R571). [DEDUCED: log 89] -/
def execCapabilityWrite (c : Capability) (s : State) : Host.Outcome State Fault Refusal :=
  whenOk s (mainUp s && linkUp s) (capability c s)

end Sys2Proof.Machine
end

