-- ==== Sys2Proof/Machine/Verdict.lean ====
section
/-! DEFINITION. The overrun check (chapters 1, 2 and 21). -/

namespace Sys2Proof.Machine

/-- A bead's work for the tick is complete (R70): no hart runs outside WFI, and all four queues are empty. A bead that a
bead fault has stopped is not (R691). -/
def beadComplete (b : Bead) : Bool :=
  !b.stopped && (List.range 4).all fun k => (hartOf b k).run != .running && (queueOf b k).ents.isEmpty

/-- The ordinals whose beads have work left. A bead that the table does not list is as it was at reset. -/
def incomplete (s : State) : List Nat :=
  (s.beads.filter fun p => ordLive s p.1 && !beadComplete p.2).map (·.1)

/-- The next step of a running plan needs a swap whose load is not armed in time (R714, R728). -/
def lateLoad (s : State) : Bool :=
  let p := s.nutas.plan
  p.phase == .running && !s.clock.leaving && p.next == some (p.step + 1) &&
  (match p.ready with
   | some (k, due) => k != p.step + 1 || decide (s.clock.tick.toNat < due)
   | none => true)

/-- An overrun is forced (R713, R714); a SUBST does not force one at the boundary that closes a replay tick (R715). -/
def forced (s : State) : Bool := (s.clock.forceSubst && !s.clock.replay) || lateLoad s

/-- The module's own verdict now: its work is not complete, or an overrun is forced (R25, R494, R713).
[DEDUCED: log 67] -/
def ownVerdict (s : State) : Bool := s.clock.mode == .scheduled && !s.clock.hold && (incomplete s != [] || forced s)

/-- Mode codes of LDG_MODE (R38). -/
def modeCode (m : Mode) : Nat :=
  match m with
  | .quiescent => 0
  | .arbitrated => 1
  | .scheduled => 2

/-- The mode of the next tick as far as it is settled (R30, R31). -/
def nextMode (s : State) : Nat :=
  if s.clock.quiet then 2
  else if s.clock.mode = .scheduled ∧ s.clock.leaving ∧ s.clock.hold then 1
  else modeCode s.clock.mode

end Sys2Proof.Machine
end

