-- ==== Sys2Proof/Machine/Nutas.lean ====
section
/-! DEFINITION. Mailboxes and their rings, how Nutas takes and completes a command, and the queries (chapter 17). -/

namespace Sys2Proof.Machine

def mbxOf (s : State) (m : Nat) : Mbx := tblGet {} s.mbxs m
def setMbx (m : Nat) (v : Mbx) (s : State) : State := { s with mbxs := tblSet {} s.mbxs m v }
def modMbx (m : Nat) (f : Mbx → Mbx) (s : State) : State := setMbx m (f (mbxOf s m)) s
def modNutas (f : Nutas → Nutas) (s : State) : State := { s with nutas := f s.nutas }

/-- Entries of a mailbox's rings (R582, R584). -/
def ringSize (s : State) (m : Nat) : Nat := if m = 8 then 16 else 2 ^ (mbxOf s m).log2n.toNat

/-- The master of a mailbox (R582). -/
def mbxMaster (m : Nat) : Master := if m = 8 then .mgmt else .host

/-- Entries posted and not read (R585). -/
def posted (s : State) (m : Nat) : Nat :=
  ((mbxOf s m).tail + ringSize s m - (mbxOf s m).head) % ringSize s m

/-- A mailbox stops (R586): ERR and ERRCODE, a record, and its source. -/
def stopMbx (m code : Nat) (s : State) : State :=
  hubRaise (9 + m) (recordAt 0x15 blkLocket (m + 16 * code)
    (modMbx m (fun q => { q with err := true, errCode := BitVec.ofNat 3 code }) s))

/-- Nutas runs: the main domains are up and bring-up has reached READY (R601, R754). -/
def nutasUp (s : State) : Bool := mainUp s && s.standby.phase == 7

/-- Nutas serves a mailbox (R571, R576, R601): mailbox 8 with the standby partition, a host mailbox while Cache_Enable is 1.
[DEDUCED: log 48] -/
def mbxServed (s : State) (m : Nat) : Bool :=
  if m = 8 then s.standby.standby else nutasUp s && s.host.cacheEn

/-- Host memory is reached over CXL.cache (R569, R571). -/
def hostReach (s : State) : Bool := mainUp s && linkUp s && s.host.cacheEn

/-- A doorbell of value `t` (R585, R586, R571, R593, R594). [DEDUCED: log 49] -/
def doorbell (m t : Nat) (s : State) : State :=
  let q := mbxOf s m
  let n := ringSize s m
  if !q.en then recordAt 0x15 blkLocket m s
  else if !mbxServed s m then recordHostAt 0 s
  else if q.rst || q.err then s
  else if n ≤ t then stopMbx m 1 s
  else if (t + n - q.tail) % n ≤ (q.head + n - 1 + n - q.tail) % n then modMbx m (fun q => { q with tail := t }) s
  else stopMbx m 2 s

/-- MBX_DOORBELL (R586). -/
def execMbxDoorbell (mb : MbxN) (m : Master) (v : Word) (s : State) : Host.Outcome State Fault Refusal :=
  .next (regWriteRow m (offMbx mb.val + 0x18) (doorbell mb.val (bitsOf v.toNat 0 12)) s)

/-- The commands of a mailbox that have started and not completed. -/
def startedOf (s : State) (m : Nat) : List Cmd := s.nutas.cmds.filter fun c => c.started && c.mbx.val == m

/-- A reset mailbox whose last command has completed starts again (R593). [DEDUCED: log 49] -/
def mbxZero (m : Nat) (s : State) : State :=
  let s1 := modMbx m (fun q => { q with
    head := 0, tail := 0, cplTail := 0, held := [], err := false, errCode := 0, phase := true, rst := false, cplHead := 0 }) s
  if m = 8 then
    { s1 with mgmt := { s1.mgmt with
        cplRing := []
        cplSent := 0
        unacked := s1.mgmt.unacked.map fun x => { x with pkt := { x.pkt with cpl := false } }
        waiting := s1.mgmt.waiting.map fun x => { x with cpl := false } } }
  else s1

/-- A write of 1 to RST (R593): nothing unread or unstarted of the mailbox is left, and no completion is written; those held
count until the last started command completes. [DEDUCED: log 49] -/
def mbxRst (m : Nat) (s : State) : State :=
  let s1 := modMbx m (fun q => { q with rst := true }) s
  let s2 := modNutas (fun n => { n with
    cmds := n.cmds.filter fun c => c.mbx.val != m || c.started
    ready := n.ready.filter fun c => c.mbx.val != m }) s1
  if startedOf s2 m = [] then mbxZero m s2 else s2

/-- MBX_RST (R593). -/
def execMbxRst (mb : MbxN) (m : Master) (s : State) : Host.Outcome State Fault Refusal :=
  .next (regWriteRow m (offMbx mb.val) (mbxRst mb.val) s)

/-- A mailbox has an entry that is read next (R587). The standby partition serves mailbox 8 whatever EN says, for the register
that holds EN answers only while the main domains run (R601, R754, R800). [DEDUCED: log 48] -/
def readable (s : State) (m : Nat) : Bool :=
  let q := mbxOf s m
  (q.en || (m == 8 && !nutasUp s)) && !q.rst && !q.err && mbxServed s m && (m == 8 || hostReach s) && decide (0 < posted s m) && !handing s

/-- The mailboxes in the order of a round (R587). [DEDUCED: log 48] -/
def roundOrder : List Nat := [8, 0, 1, 2, 3, 4, 5, 6, 7]

/-- The mailbox that is read next: the first of the round not yet visited, or a new round's first.
[DEDUCED: log 48] -/
def nextMailbox (s : State) : Option Nat :=
  let rest := match s.nutas.round.getLast? with
    | some l => (roundOrder.dropWhile fun x => x != l).drop 1
    | none => roundOrder
  match rest.find? (readable s) with
  | some m => some m
  | none => roundOrder.find? (readable s)

/-- Byte `i` of an entry, and a little-endian number of `n` bytes from byte `i`. -/
def entryByte (e : BitVec 512) (i : Nat) : Nat := bitsOf e.toNat (8 * i) 8
def entryNum (e : BitVec 512) (i n : Nat) : Nat := bitsOf e.toNat (8 * i) (8 * n)

/-- How a command code is served (R599): its class, whether only an owner may give it, and whether mailbox 8 serves it
with the main domains down. -/
structure OpInfo where
  cls : Nat
  hostOwner : Bool
  mgmtOwner : Bool
  served : Bool
  deriving DecidableEq, Repr

/-- The table of R599. Classes: 0 NONE, 1 MAP, 2 LOAD, 3 COHORT, 4 RED, 5 PLAN, 6 LEDGER, 7 COUNTERS, 8 FW, 9 SPARE. -/
def opInfo (opc : Nat) : Option OpInfo :=
  match opc with
  | 0x00 | 0x01 | 0x02 => some ⟨0, false, false, true⟩
  | 0x03 => some ⟨0, false, false, false⟩
  | 0x10 | 0x11 | 0x12 | 0x13 => some ⟨1, true, true, false⟩
  | 0x20 | 0x21 | 0x22 => some ⟨2, true, true, false⟩
  | 0x30 | 0x31 => some ⟨3, true, true, false⟩
  | 0x32 => some ⟨0, false, false, false⟩
  | 0x40 | 0x41 | 0x42 | 0x43 => some ⟨4, true, true, false⟩
  | 0x50 => some ⟨5, true, true, false⟩
  | 0x51 => some ⟨0, true, false, false⟩
  | 0x60 => some ⟨0, false, false, false⟩
  | 0x61 => some ⟨6, true, true, false⟩
  | 0x70 => some ⟨7, true, true, false⟩
  | 0x71 => some ⟨0, false, false, false⟩
  | 0x80 | 0x81 => some ⟨0, false, false, true⟩
  | 0x90 => some ⟨8, true, false, true⟩
  | 0x91 => some ⟨8, true, false, false⟩
  | 0xA0 | 0xA1 => some ⟨9, true, false, false⟩
  | _ => none

/-- Status codes (R598). -/
def stOk : Nat := 0x00
def stBadOpcode : Nat := 0x01
def stBadField : Nat := 0x02
def stBadBuffer : Nat := 0x03
def stNotOwner : Nat := 0x04
def stMainDown : Nat := 0x05
def stPlanRunning : Nat := 0x06
def stNotRunning : Nat := 0x07
def stNoBundle : Nat := 0x08
def stSettingRefused : Nat := 0x09
def stPortMap : Nat := 0x0A
def stExpressLost : Nat := 0x0B
def stNotAligned : Nat := 0x0C
def stLateStart : Nat := 0x0D
def stBadSignature : Nat := 0x0E
def stRollback : Nat := 0x0F
def stCohortConflict : Nat := 0x10
def stCohortBusy : Nat := 0x11
def stRecordBusy : Nat := 0x12
def stRecordInvalid : Nat := 0x13
def stNoSpace : Nat := 0x14
def stInvalidTarget : Nat := 0x15
def stNoSpare : Nat := 0x16
def stMemFault : Nat := 0x17
def stStopped : Nat := 0x18
def stEndedFault : Nat := 0x19
def stNoStaged : Nat := 0x1A

/-- The completion of a command with its tick (R596). [DEDUCED: log 53] -/
def completionOf (s : State) (c : Cmd) (status : Nat) (r0 r1 : Word) : Completion :=
  { mbx := c.mbx, cid := BitVec.ofNat 16 (entryNum c.entry 2 2), status := BitVec.ofNat 8 status
    opc := BitVec.ofNat 8 (entryByte c.entry 0), r0 := r0, r1 := r1, tick := s.clock.tick, irq := bitOf (entryByte c.entry 1) 0 }

/-- A command completes (R589, R593): it leaves the list, and its completion is ready to be written unless its mailbox is
being reset. -/
def complete (num status : Nat) (r0 r1 : Word) (s : State) : State :=
  match s.nutas.cmds.find? fun c => c.num == num with
  | none => s
  | some c =>
    let s1 := modNutas (fun n => { n with cmds := n.cmds.filter fun x => x.num != num }) s
    if (mbxOf s c.mbx.val).rst then (if startedOf s1 c.mbx.val = [] then mbxZero c.mbx.val s1 else s1)
    else modNutas (fun n => { n with ready := n.ready ++ [completionOf s c status r0 r1] }) s1

/-- A step taken as in the tick that opens, at the boundary before it: what completes there completes in that tick. -/
def inTick (t : BitVec 48) (f : State → State) (s : State) : State :=
  let u := f { s with clock := { s.clock with tick := t } }
  { u with clock := { u.clock with tick := s.clock.tick } }

/-- The lowest number of a command that waits for something of the kind, taken from the list of waits. -/
def dropWait (p : Waits → Bool) (s : State) : State := modNutas (fun n => { n with waits := n.waits.filter fun w => !p w }) s

/-- An earlier command of the same class stands in the way (R588). -/
def classBusy (s : State) (c : Cmd) : Bool :=
  match opInfo (entryByte c.entry 0) with
  | none => false
  | some i => i.cls != 0 && s.nutas.cmds.any fun x => decide (x.num < c.num) &&
      (match opInfo (entryByte x.entry 0) with
       | some j => j.cls == i.cls
       | none => false)

/-- FENCE holds a command behind the earlier ones of its mailbox (R588). -/
def fenced (s : State) (c : Cmd) : Bool :=
  bitOf (entryByte c.entry 1) 1 && s.nutas.cmds.any fun x => decide (x.num < c.num) && x.mbx == c.mbx

/-- A command with an unassigned code completes as soon as it could start (R588, R591, R598). -/
def badReady (s : State) (c : Cmd) : Bool :=
  (opInfo (entryByte c.entry 0)).isNone && !fenced s c && decide ((mbxOf s c.mbx.val).held.length < 16)

/-- The commands of a mailbox whose code is unassigned complete, where they wait no more. -/
def endBad (m : Nat) (s : State) : State :=
  upTo s.nutas.cmds.length (fun t _ =>
    match t.nutas.cmds.find? fun c => c.mbx.val == m && badReady t c with
    | some c => complete c.num stBadOpcode 0 0 t
    | none => t) s

/-- The address of a command entry in host memory (R583). -/
def entryAddr (s : State) (m : Nat) : Nat := 4096 * (mbxOf s m).cmdBase.toNat + 64 * (mbxOf s m).head

/-- MAILBOX_ENTRY_READ (R586, R587, R598): the entry at HEAD, read with RdCurr in a host ring, joins the command order; one that
reads as failed stops the mailbox; one with an unassigned code completes at once, unless FENCE holds it. -/
def execMailboxEntryRead (mb : MbxN) (entry : BitVec 512) (ok : Bool) (s : State) : Host.Outcome State Fault Refusal :=
  let m := mb.val
  let s0 := if m = 8 then s else emit (.cache .rdCurr (entryAddr s m) []) s
  let n := s.nutas
  let q := mbxOf s m
  let newRound := !(roundOrder.dropWhile fun x => x != (n.round.getLast?).getD 8).contains m
  let e := if m = 8 then tblGet 0 s.mgmt.ring q.head else entry
  let num := n.nextNum
  let s1 := countEv blkLocket 0x07 1 (modMbx m (fun q => { q with head := (q.head + 1) % ringSize s m })
    { s0 with nutas := { n with
        round := if newRound then [m] else n.round ++ [m]
        nextNum := num + 1
        cmds := n.cmds ++ [{ num := num, mbx := mb, entry := e }] } })
  whenOk s (nextMailbox s == some m)
    (if !ok ∧ m ≠ 8 then stopMbx m 3 s0
     else match opInfo (entryByte e 0) with
       | some _ => s1
       | none => endBad m s1)

/-- A command can start (R588, R591, R619). -/
def startable (s : State) (c : Cmd) : Bool :=
  !c.started && !classBusy s c && !fenced s c && decide ((mbxOf s c.mbx.val).held.length < 16) &&
  s.nutas.handover == .none && (c.mbx.val == 8 || nutasUp s)

/-- How a command ends when it starts: with a status and results, or waiting. -/
inductive CmdEnd where
  | done (status : Nat) (r0 r1 : Word) (s : State)
  | wait (s : State)

/-- A buffer (R597). -/
structure Buf where
  addr : Nat
  len : Nat
  loc : Nat
  deriving DecidableEq, Repr

/-- The buffer that an entry names. -/
def bufOf (e : BitVec 512) : Buf :=
  { addr := entryNum e 8 8, len := entryNum e 16 4, loc := bitsOf (entryByte e 20) 0 2 }

/-- The conditions of R597 on a buffer of which `need` bytes are used. [DEDUCED: log 50] -/
def bufOk (m need : Nat) (b : Buf) : Bool :=
  decide (need ≤ b.len) &&
  (if b.loc = 0 then b.addr % 32 == 0 && inStacks b.addr b.len
   else if b.loc = 1 then m != 8 && b.addr % 64 == 0
   else if b.loc = 2 then m == 8 && decide (b.addr + b.len ≤ 33554432)
   else false)

/-- The bytes that a buffer takes of its entry, by masks of used bits. [DEDUCED: log 47] -/
def bufMask : List (Nat × Nat) := (List.range 12).map fun i => (8 + i, 0xFF)
def bufMaskAll : List (Nat × Nat) := bufMask ++ [(20, 3)]
/-- Whole bytes used from `i` on. -/
def bytesMask (i n : Nat) : List (Nat × Nat) := (List.range n).map fun j => (i + j, 0xFF)
/-- The mask of the common part of an entry (R595). -/
def headMask : List (Nat × Nat) := [(0, 0xFF), (1, 0x03), (2, 0xFF), (3, 0xFF)]

/-- The bits of a byte that an entry's format uses. -/
def usedBits (used : List (Nat × Nat)) (i : Nat) : Nat := ((used.find? fun p => p.1 == i).map (·.2)).getD 0

/-- The first byte of an entry with a reserved bit set. [DEDUCED: log 47] -/
def firstReserved (e : BitVec 512) (used : List (Nat × Nat)) : Option Nat :=
  (List.range 64).find? fun i => decide (Nat.land (entryByte e i) (255 - usedBits used i) ≠ 0)

/-- The byte offset of the first field that is out of form (R598): reserved bits, and fields checked by byte offset.
[DEDUCED: log 47] -/
def badField (e : BitVec 512) (used : List (Nat × Nat)) (checks : List (Nat × Bool)) : Option Nat :=
  let bad := ((checks.filter fun c => !c.2).map (·.1)) ++ (firstReserved e (headMask ++ used)).toList
  match bad with
  | [] => none
  | a :: l => some (l.foldl min a)

/-- Whether the master may give a command now (R599, R600). -/
def permitted (s : State) (m : Nat) (i : OpInfo) : Bool :=
  if m = 8 then !i.mgmtOwner || ownerIs s .mgmt else !i.hostOwner || ownerIs s .host

/-- The checks every command begins with, in the order of R598: fields, buffer, what the buffer's data show of either, master,
main domains. [DEDUCED: log 47] -/
def precheck (s : State) (c : Cmd) (used : List (Nat × Nat)) (checks : List (Nat × Bool)) (need : Option Nat)
    (data : Option (Nat × Word)) : Option (Nat × Word) :=
  match opInfo (entryByte c.entry 0) with
  | none => some (stBadOpcode, 0)
  | some i =>
    match badField c.entry used checks with
    | some k => some (stBadField, BitVec.ofNat 64 k)
    | none =>
      if (match need with
          | some n => !bufOk c.mbx.val n (bufOf c.entry)
          | none => false) then some (stBadBuffer, 0)
      else if data.isSome && nutasUp s then data
      else if !permitted s c.mbx.val i then some (stNotOwner, 0)
      else if !nutasUp s && !i.served then some (stMainDown, 0)
      else if !nutasUp s && need.isSome && (bufOf c.entry).loc == 0 then some (stMemFault, 0)
      else none

/-- A command that names an invalid target leaves its record (R683). [DEDUCED: log 58] -/
def invalidTarget (pos : Nat) (s : State) : State := recordAddr 0x17 blkLocket pos (blkLocket + 4 * 4096) s

/-- The form of a command's meaning: the command of number `k` starts where R588 lets it, its common checks are made,
and then its own effect is had. -/
def commandWith (opc k : Nat) (used : List (Nat × Nat)) (checks : Cmd → State → List (Nat × Bool))
    (need : Cmd → Option Nat) (data : Cmd → State → Option (Nat × Word)) (f : Cmd → State → CmdEnd) (s : State) :
    Host.Outcome State Fault Refusal :=
  match s.nutas.cmds.find? fun c => c.num == k with
  | none => .next s
  | some c =>
    let s1 := modNutas (fun n => { n with cmds := modFirst (fun x => x.num == k) (fun x => { x with started := true }) n.cmds }) s
    whenOk s (startable s c && entryByte c.entry 0 == opc)
      (match precheck s c used (checks c s) (need c) (data c s) with
       | some (st, r0) => complete k st r0 0 s1
       | none =>
         match f c s1 with
         | .done st r0 r1 t => complete k st r0 r1 t
         | .wait t => t)

/-- A command whose common checks look at no data of its buffer. -/
def command (opc k : Nat) (used : List (Nat × Nat)) (checks : Cmd → State → List (Nat × Bool))
    (need : Cmd → Option Nat) (f : Cmd → State → CmdEnd) (s : State) : Host.Outcome State Fault Refusal :=
  commandWith opc k used checks need (fun _ _ => none) f s

/-! ### Memory as Nutas reaches it -/

/-- Where the locket's read of a physical stack address is served (R514, R537); none in an intake or outside the stacks. -/
def locketPlace (s : State) (a : Nat) : Option (Nat × Nat) :=
  match placeOf s.mem.splitNow.toNat a with
  | .stack z l => if inIntake (bezelOf s z) l then none else (genRead (bezelOf s z) l none).map fun l' => (z, l')
  | _ => none

/-- A write that waits for a line that the host holds, as it will change a granule (R563, R564). -/
def afterHeld (s : State) (z l : Nat) (c : Code) (m : Msg) : Code :=
  match (List.range m.len).find? fun i => localOf s z (m.addr.toNat + 32 * i) == some l with
  | none => c
  | some i =>
    let d := nth poisonCode m.data i
    if m.op = opPart then (writePart c d m.aux0).1 else if m.op = opWrite then passOn d else c

/-- The code word at a stack-local address once the writes that wait there for the host have been applied (R564). -/
def heldCode (s : State) (z l : Nat) : Code :=
  (((bezelOf s z).sorter.filter fun r => r.held).map (·.msg)).foldl (afterHeld s z l) (stackCode s z l)

/-- The code word that a locket read of a granule finds. -/
def locketCode (s : State) (a : Nat) : Code :=
  match locketPlace s a with
  | some (z, l) => heldCode s z (l / 32 * 32)
  | none => poisonCode

/-- `n` bytes from an address on. -/
def locketBytes (s : State) (a n : Nat) : List Byte :=
  (((List.range ((a % 32 + n + 31) / 32)).flatMap fun i =>
    granBytes (goodData (locketCode s (a / 32 * 32 + 32 * i)))).drop (a % 32)).take n

/-- A number in memory. -/
def locketNum (s : State) (a n : Nat) : Nat := ofBytes (locketBytes s a n)

/-- The offset of the first granule of a range that reads as poisoned or failed. -/
def locketBad (s : State) (a n : Nat) : Option Nat :=
  ((List.range ((n + 31) / 32)).find? fun i => isBad (locketCode s (a + 32 * i))).map fun i => 32 * i

/-- The bezels count a range's granules as read (R393, R399), and a granule that is lost is recorded and waits for rereads
(R340, R690). -/
def locketLook (a n : Nat) (s : State) : State :=
  upTo ((n + 31) / 32) (fun t i =>
    match locketPlace t (a + 32 * i) with
    | none => t
    | some (z, l) =>
      let c := heldCode t z (l / 32 * 32)
      let k := lookClass (decodeCode c).1
      let t1 := countEv (blkBezel z) 0x02 1 (stackLook z l c true t)
      if k = 0 then t1
      else
        let t2 := recordPart (blkBezel z) (a + 32 * i) 1 k nodeLocket (k == 1 && priorMark t z l) t1
        if k = 1 then hubRaise (96 + z) (addReread (a + 32 * i) (1 + 256 * k + 4096 * nodeLocket) t2) else t2) s

/-- A locket write of a granule, whole or its first bytes, as a message. -/
def locketMsg (z p : Nat) (part : List Byte) : Msg :=
  { msg0 with
    dst := node (nodeBezel z), src := node nodeLocket, op := if part.length = 32 then opWrite else opPart
    addr := BitVec.ofNat 48 p, len := 1, data := [encodeGran (granOf part)], aux0 := BitVec.ofNat 32 (2 ^ part.length - 1)
    stream := 2 }

/-- Bytes of one granule written by Nutas at a place of a stack: what reaches an intake is a contribution there (R514, R517), and
a line that the host may hold is invalidated before it is written (R563). -/
def locketStore (z x p : Nat) (part : List Byte) (s : State) : State :=
  let s1 := countEv (blkBezel z) 0x03 1 s
  if inIntake (bezelOf s z) x then (contribute z x (locketMsg z p part) s1).2.2
  else
    match heldLines (bezelOf s z) [x] with
    | [] =>
      if part.length = 32 then stackStore z x (encodeGran (granOf part)) s1
      else
        let u := mergeUse nodeLocket z x s1
        stackStore z x (mergeWrite u.1 (granOf part) (BitVec.ofNat 32 (2 ^ part.length - 1))).1 u.2
    | ls => ls.foldl (fun t l => snoop z l t) (modBezel z (fun b => { b with
        sorter := b.sorter ++ [{ msg := locketMsg z p part, tick := s.clock.tick, ck := s.clock.ck, held := true }] }) s1)

/-- Bytes written by Nutas at a physical stack address, granule by granule. -/
def locketWrite (a : Nat) (l : List Byte) (s : State) : State :=
  upTo ((l.length + 31) / 32) (fun t i =>
    match placeOf t.mem.splitNow.toNat (a + 32 * i) with
    | .stack z x => locketStore z x (a + 32 * i) ((l.drop (32 * i)).take 32) t
    | _ => t) s

/-- A buffer read by a command: its bytes, or the offset of the granule that failed (R597). `host` is what host memory
holds there; it is shorter where a granule of it reads as poisoned or failed. [DEDUCED: log 50] -/
def bufRead (s : State) (b : Buf) (n : Nat) (host : List Byte) : List Byte × Option Nat × State :=
  if b.loc = 0 then (locketBytes s b.addr n, locketBad s b.addr n, locketLook b.addr n s)
  else if b.loc = 1 then
    let l := if hostReach s then host else []
    (l.take n, if l.length < n then some (l.length / 32 * 32) else none, s)
  else ((List.range n).map fun i => tblGet 0 s.mgmt.stage (b.addr + i), none, s)

/-- A buffer written by a command. [DEDUCED: log 50] -/
def bufWrite (b : Buf) (l : List Byte) (s : State) : State :=
  if b.loc = 0 then locketWrite b.addr l s
  else if b.loc = 1 then (if hostReach s then emit (.hostWrite b.addr l) s else s)
  else { s with mgmt := { s.mgmt with
    stage := upTo l.length (fun t i => tblSet 0 t (b.addr + i) (nth 0 l i)) s.mgmt.stage } }

/-! ### Completions -/

/-- The 32 bytes of a completion entry (R596). -/
def completionBytes (head : Nat) (phase : Bool) (c : Completion) : List Byte :=
  toBytes 2 c.cid.toNat ++ [c.status, 0] ++ toBytes 2 head ++ toBytes 1 (b2n phase) ++ [c.opc] ++
  toBytes 8 c.r0.toNat ++ toBytes 8 c.r1.toNat ++ toBytes 6 c.tick.toNat ++ [0, 0]

/-- The completion ring is full by the last reading of the index line (R591). [DEDUCED: log 51] -/
def ringFull (s : State) (m : Nat) : Bool :=
  ((mbxOf s m).cplTail + 1) % ringSize s m == (mbxOf s m).cplHead

/-- The completion source of a mailbox is raised for a completion whose writes are globally observed (R570, R592). -/
def raiseCpl (m : Nat) (c : Completion) (s : State) : State := if c.irq || (mbxOf s m).irqAll then hubRaise m s else s

/-- CPLTAIL advances by `n` entries, and PHASE inverts when it wraps (R590). -/
def tailOn (m n : Nat) (s : State) : State :=
  let next := ((mbxOf s m).cplTail + n) % ringSize s m
  modMbx m (fun q => { q with cplTail := next, phase := if next = 0 then !q.phase else q.phase }) s

/-- The address of the completion entry at CPLTAIL in host memory (R583). -/
def cplAddr (s : State) (m : Nat) : Nat := 4096 * (mbxOf s m).cplBase.toNat + 32 * (mbxOf s m).cplTail

/-- A completion is written at CPLTAIL with PHASE, in a host ring with WOWrInv; the source is raised (R569, R590, R592). -/
def writeCompletion (m : MbxN) (c : Completion) (s : State) : State :=
  let q := mbxOf s m.val
  let bytes := completionBytes q.head q.phase c
  let s1 := tailOn m.val 1 s
  raiseCpl m.val c (if m.val = 8 then { s1 with mgmt := { s1.mgmt with cplRing := s1.mgmt.cplRing ++ [bytes] } }
    else emit (.cache .woWrInv (cplAddr s m.val) bytes) s1)

/-- Two completions fill a host line together, which is written with ItoMWr (R569). -/
def writePair (m : MbxN) (c d : Completion) (s : State) : State :=
  let q := mbxOf s m.val
  raiseCpl m.val d (raiseCpl m.val c (emit (.cache .itoMWr (cplAddr s m.val)
    (completionBytes q.head q.phase c ++ completionBytes q.head q.phase d)) (tailOn m.val 2 s)))

/-- Free entries of a completion ring by the last reading of the index line (R591). -/
def ringRoom (s : State) (m : Nat) : Nat :=
  let q := mbxOf s m
  (q.cplHead + 2 * ringSize s m - q.cplTail - 1) % ringSize s m

/-- The first completion of a mailbox that waits to be written. -/
def readyOf (s : State) (m : Nat) : Option Completion := s.nutas.ready.find? fun c => c.mbx.val == m

/-- A mailbox cannot take a completion now (R591, R594). [DEDUCED: log 51] -/
def mustHold (s : State) (m : Nat) : Bool :=
  (mbxOf s m).held != [] || ringFull s m || (m != 8 && !hostReach s)

/-- The first completion of a mailbox that is ready is written, or held (R586, R590 to R592). -/
def sendReady (mb : MbxN) (ok : Bool) (c : Completion) (s : State) : State :=
  let m := mb.val
  let s1 := modNutas (fun n => { n with ready := dropFirst (fun x => x.mbx.val == m) n.ready }) s
  if mustHold s m then
    (if (mbxOf s m).held.length < 16 then modMbx m (fun q => { q with held := q.held ++ [c] }) s1 else s)
  else if ok || m == 8 then writeCompletion mb c s1
  else stopMbx m 4 s1

/-- The standby partition's write port takes a completion of mailbox 8 once no fault record waits (R703). -/
def cplTurn (m : Nat) (s : State) : Bool := m != 8 || s.faults.waiting == []

/-- MAILBOX_COMPLETION_WRITE (R586, R590 to R592, R703): commands with an unassigned code that FENCE held have completed before. -/
def execMailboxCompletionWrite (mb : MbxN) (ok : Bool) (s : State) : Host.Outcome State Fault Refusal :=
  let s1 := endBad mb.val s
  match readyOf s1 mb.val with
  | none => .next s
  | some c => whenOk s (cplTurn mb.val s1) (sendReady mb ok c s1)

/-- The host line that follows a completion ring: the index line (R583), by its number. -/
def indexLine (s : State) (m : Nat) : Nat := (4096 * (mbxOf s m).cplBase.toNat + 32 * ringSize s m) / 64

/-- The held completions of a mailbox that go next: two that fill a host line together, or one (R569).
[DEDUCED: log 51] -/
def heldStep (m : MbxN) (s : State) : State :=
  let q := mbxOf s m.val
  let rest (n : Nat) : State := modMbx m.val (fun x => { x with held := x.held.drop n }) s
  match q.held with
  | [] => s
  | [c] => if ringFull s m.val then s else writeCompletion m c (rest 1)
  | c :: d :: _ =>
    if ringFull s m.val then s
    else if m.val ≠ 8 ∧ q.cplTail % 2 = 0 ∧ 2 ≤ ringRoom s m.val then writePair m c d (rest 2)
    else writeCompletion m c (rest 1)

/-- Held completions are written while there is space; a write that fails stops the mailbox (R586).
[DEDUCED: log 51] -/
def writeHeld (m : MbxN) (ok : Bool) (s : State) : State :=
  if ok || m.val == 8 then upTo (mbxOf s m.val).held.length (fun t _ => heldStep m t) s
  else if ringFull s m.val then s
  else stopMbx m.val 4 (modMbx m.val (fun q => { q with held := q.held.drop 1 }) s)

/-- Nutas reads the index line with RdShared (R583, R591). -/
def readIndex (m : Nat) (i : IndexRead) (s : State) : State :=
  if m = 8 then s
  else emit (.cache .rdShared (64 * indexLine s m) [])
    (cacheShared (indexLine s m) (modMbx m (fun q => { q with cplHead := i.head.toNat }) s))

/-- HELD_COMPLETION_WRITE (R591, R594, R703): Nutas has read the index line. -/
def execHeldCompletionWrite (mb : MbxN) (index : IndexRead) (s : State) : Host.Outcome State Fault Refusal :=
  let m := mb.val
  whenOk s ((mbxOf s m).held != [] && !(mbxOf s m).rst && cplTurn m s && (m == 8 || hostReach s)) (writeHeld mb index.ok (readIndex m index s))

/-! ### Queries -/

/-- No field of an entry needs a check. -/
def noChecks (_ : Cmd) (_ : State) : List (Nat × Bool) := []
/-- A command without a buffer. -/
def noBuf (_ : Cmd) : Option Nat := none

/-- NOP (R602). -/
def execNop (k : Nat) (s : State) : Host.Outcome State Fault Refusal :=
  command 0x00 k [] noChecks noBuf (fun _ t => .done stOk 0 0 t) s

/-- LDG_MODE as it reads (R38); SWAP_ARMED while a loaded or armed bank waits for a boundary. -/
def modeReg (s : State) : Nat :=
  let c := s.clock
  let armed := s.mmu.swapDue.isSome || s.nutas.viewDue.isSome || s.nutas.plan.ready.isSome ||
    s.beads.any fun p => p.2.swapDue.isSome
  if mainUp s then modeCode c.mode + 4 * b2n c.hold + 8 * b2n c.replay + 16 * b2n c.quiet + 32 * b2n armed else 0

/-- Bytes of fused or manufacture data (R602): vendor ID at 0, stepping at 2, serial number from 16.
[DESIGN CHOICE: log 21] -/
def idBytes (i n : Nat) : List Byte := (List.range n).map fun j => Config.identity (i + j)

/-- The version of the image in a slot; 0 for an empty slot. -/
def imageVersion (img : List Byte) : Nat := ofBytes ((img.drop 4).take 4)

/-- Active beads of the grade (R2). [DESIGN CHOICE: log 8] -/
def gradeBeads (s : State) : Nat := if s.standby.grade960 then 960 else 1024

/-- The identity record (R602). [DEDUCED: log 52] -/
def identityRecord (s : State) : List Byte :=
  idBytes 0 2 ++ toBytes 2 0x4D39 ++ toBytes 2 (gradeBeads s) ++ idBytes 2 1 ++ toBytes 1 (b2n s.standby.slot) ++
  idBytes 16 16 ++ toBytes 4 (imageVersion s.standby.imgA) ++ toBytes 4 (imageVersion s.standby.imgB) ++
  toBytes 64 (Config.sha3 Config.hallmark).toNat ++ List.replicate 160 0

/-- IDENTIFY (R602). -/
def execIdentify (k : Nat) (s : State) : Host.Outcome State Fault Refusal :=
  command 0x01 k bufMaskAll noChecks (fun _ => some 256)
    (fun c t => .done stOk 0 0 (bufWrite (bufOf c.entry) (identityRecord t) t)) s

/-- PLAN of STATUS (R602). -/
def planCode (p : PlanPhase) : Nat :=
  match p with
  | .none => 0
  | .waiting => 1
  | .running => 2
  | .stopping => 3

/-- RESULT0 of STATUS. -/
def statusWord (s : State) : Word :=
  BitVec.ofNat 64 (modeReg s + b2n s.standby.owner * 2 ^ 32 + planCode s.nutas.plan.phase * 2 ^ 33 +
    (if s.nutas.plan.phase = .none then 0 else s.nutas.plan.slot % 4) * 2 ^ 35)

/-- STATUS (R602). -/
def execStatus (k : Nat) (s : State) : Host.Outcome State Fault Refusal :=
  command 0x02 k [] noChecks noBuf (fun _ t => .done stOk (statusWord t) (t.clock.tick.setWidth 64) t) s

/-- A position-map entry (R602). -/
def posEntry (s : State) (p : Nat) : Nat :=
  let c := posState s p
  c + (if c = 3 then tblGet 0 s.nutas.serves p else 0) * 16 + (if p % 9 = 0 && c == 0 then 2 ^ 15 else 0)

/-- POSMAP (R602). -/
def execPosmap (k : Nat) (s : State) : Host.Outcome State Fault Refusal :=
  command 0x03 k bufMaskAll noChecks (fun _ => some 4608)
    (fun c t => .done stOk 0 0 (bufWrite (bufOf c.entry) ((List.range 1152).flatMap fun p => toBytes 4 (posEntry t p)) t)) s

/-- The 32 bytes of a cohort-table entry (R285). -/
def cohortBytes (c : Cohort) : List Byte :=
  toBytes 1 c.st.toNat ++ toBytes 1 (c.gw.toNat + 4 * c.slot.toNat) ++ toBytes 2 c.rank.toNat ++ toBytes 2 c.pave.toNat ++
  [0, 0] ++ toBytes 8 c.setTag.toNat ++ toBytes 6 c.pbase.toNat ++ [0, 0] ++ toBytes 6 c.bindTick.toNat ++ [0, 0]

/-- COHORT_READ (R602). -/
def execCohortRead (k : Nat) (s : State) : Host.Outcome State Fault Refusal :=
  command 0x32 k bufMaskAll noChecks (fun _ => some 16384)
    (fun c t => .done stOk 0 0
      (bufWrite (bufOf c.entry) ((List.range 512).flatMap fun a => cohortBytes (tblGet {} t.nutas.cohorts a)) t)) s

/-- LEDGER_READ (R617): the retained records from FIRST onward. -/
def execLedgerRead (k : Nat) (s : State) : Host.Outcome State Fault Refusal :=
  command 0x60 k (bufMaskAll ++ bytesMask 32 6 ++ bytesMask 40 4) noChecks
    (fun c => some (64 * entryNum c.entry 40 4))
    (fun c t =>
      let l := ((t.ledger.recs.filter fun r => decide (entryNum c.entry 32 6 ≤ r.tick.toNat)).take (entryNum c.entry 40 4))
      .done stOk (BitVec.ofNat 64 l.length) (BitVec.ofNat 64 ((l.head?.map fun r => r.tick.toNat).getD 0))
        (bufWrite (bufOf c.entry) (l.flatMap ledgerBytes) t)) s

/-- A command waits for something. -/
def waitFor (w : Waits) (s : State) : State := modNutas (fun n => { n with waits := n.waits ++ [w] }) s

/-- LEDGER_CTL (R617): in force from the next boundary, where it completes. [DEDUCED: log 53] -/
def execLedgerCtl (k : Nat) (s : State) : Host.Outcome State Fault Refusal :=
  command 0x61 k (bytesMask 24 4 ++ [(28, 1)])
    (fun c _ => [(24, decide (16 ≤ entryNum c.entry 24 4) && decide (entryNum c.entry 24 4 ≤ 65536))]) noBuf
    (fun c t => .wait (waitFor (.config k false)
      { t with ledger := { t.ledger with
          newDepth := some (BitVec.ofNat 17 (entryNum c.entry 24 4), bitOf (entryByte c.entry 28) 0) } })) s

/-- The fault-ring records that a FLT_READ from a sequence number writes (R617). [DEDUCED: log 52] -/
def faultsFrom (f : FaultLog) (start : Word32) (count : Nat) : List FaultRec :=
  let d := (f.nextSeq - start).toNat
  if 2 ^ 31 ≤ d then []
  else if d ≤ f.ring.length then (f.ring.drop (f.ring.length - d)).take count
  else f.ring.take count

/-- FLT_READ (R617, R618). [DEDUCED: log 52] -/
def execFltRead (k : Nat) (s : State) : Host.Outcome State Fault Refusal :=
  command 0x80 k (bufMaskAll ++ bytesMask 24 8) noChecks (fun c => some (32 * entryNum c.entry 28 4))
    (fun c t =>
      let f := t.faults
      let start := BitVec.ofNat 32 (entryNum c.entry 24 4)
      let l := faultsFrom f start (entryNum c.entry 28 4)
      let next := (l.getLast?.map fun r => r.seq + 1).getD start
      let mg := c.mbx.val == 8
      let t1 := bufWrite (bufOf c.entry) (l.flatMap faultBytes) t
      .done stOk (next.setWidth 64) ((if mg then f.overMgt else f.overHost).setWidth 64)
        { t1 with faults := { t1.faults with
            overMgt := if mg then 0 else t1.faults.overMgt
            overHost := if mg then t1.faults.overHost else 0 } }) s

/-- The index after an FLT_ACK of UPTO (R618); none where UPTO lies beyond NEXTSEQ. [DEDUCED: log 52] -/
def ackIndex (f : FaultLog) (idx upto : Word32) : Option Word32 :=
  let d := (upto - idx).toNat
  let n := (f.nextSeq - idx).toNat
  if d ≤ n then some upto else if 2 ^ 31 ≤ d then some idx else none

/-- FLT_ACK (R618). -/
def execFltAck (k : Nat) (s : State) : Host.Outcome State Fault Refusal :=
  command 0x81 k (bytesMask 24 4) noChecks noBuf
    (fun c t =>
      let f := t.faults
      let mg := c.mbx.val == 8
      match ackIndex f (if mg then f.idxMgt else f.idxHost) (BitVec.ofNat 32 (entryNum c.entry 24 4)) with
      | none => .done stBadField 24 0 t
      | some i => .done stOk 0 0 (highWater { t with faults := { f with
          idxMgt := if mg then i else f.idxMgt
          idxHost := if mg then f.idxHost else i } })) s

end Sys2Proof.Machine
end

