-- ==== Sys2Proof/Machine/Bundle.lean ====
section
/-! DEFINITION. Signature blocks (chapter 24), setting bundles and what Nutas verifies of them (chapters 12 and 17), LOAD_BUNDLE
and DROP_BUNDLE. -/

namespace Sys2Proof.Machine

/-! ### Signature blocks -/

/-- Bytes of a signature block (R761). -/
def sigLen : Nat := 7296

/-- A part of a byte string. -/
def cut (l : List Byte) (i n : Nat) : List Byte := (l.drop i).take n
def cutNum (l : List Byte) (i n : Nat) : Nat := ofBytes (cut l i n)

/-- The ASCII bytes of a context string (R760, R761): "THASET-IMG", "THASET-BDL" and "THASET-ATT". -/
def ctxPrefix : List Byte := [0x54, 0x48, 0x41, 0x53, 0x45, 0x54, 0x2D]
def ctxOf (kind : Nat) : List Byte :=
  ctxPrefix ++ (if kind = 1 then [0x49, 0x4D, 0x47] else if kind = 2 then [0x42, 0x44, 0x4C] else [0x41, 0x54, 0x54])

/-- What pure ML-DSA signs: a zero byte, the context's length, the context and the message (FIPS 204). -/
def signedBytes (kind : Nat) (msg : List Byte) : List Byte :=
  [0] ++ toBytes 1 (ctxOf kind).length ++ ctxOf kind ++ msg

/-- A SHA3-512 digest as bytes. -/
def sha3Bytes (l : List Byte) : List Byte := toBytes 64 (Config.sha3 l).toNat

/-- The fields of a signature block. -/
def sigSvn (b : List Byte) : Nat := cutNum b 4 4
def sigDigest (b : List Byte) : List Byte := cut b 8 64
def sigKey (b : List Byte) : List Byte := cut b 72 2592
def sigSig (b : List Byte) : List Byte := cut b 2664 4627

/-- A signature block verifies (R762). -/
def sigVerifies (kind : Nat) (accepted : List Byte → Bool) (content b : List Byte) : Bool :=
  b.length == sigLen && cutNum b 0 2 == kind && cutNum b 2 2 == 0 && cutNum b 7291 5 == 0 &&
  sigDigest b == sha3Bytes content && accepted (sha3Bytes (sigKey b)) &&
  Config.verify (sigKey b) (signedBytes kind (cut b 0 72)) (sigSig b)

/-- The digest in a slot of SEC_BKEY (R775). -/
def bkeyDigest (s : State) (k : Nat) : List Byte := (List.range 8).flatMap fun w => toBytes 8 (tblGet 0 s.sec.bkey (8 * k + w)).toNat

/-- A digest of a bundle key that is enrolled: a slot that is not empty holds it (R769). [DEDUCED: log 75] -/
def bkeyAccepts (s : State) (d : List Byte) : Bool :=
  (List.range 4).any fun k => bkeyDigest s k != List.replicate 64 0 && bkeyDigest s k == d

/-! ### The sections of a bundle -/

/-- Bytes of a setting and the places of its parts (R606). -/
def settingLen : Nat := 38098944
def routerImgLen : Nat := 32800
def offBeadCheck : Nat := 1152 * 32800
def offClusterCheck : Nat := offBeadCheck + 1024 * 256
def offModuleCheck : Nat := offClusterCheck + 32 * 1024
def offImageNums : Nat := offModuleCheck + 16384

/-- A bundle as its header gives it (R605). -/
def bundleAt (s : State) (addr : Nat) : Bundle :=
  let f (i n : Nat) : Nat := locketNum s (addr + i) n
  { addr := addr, len := f 4 4, nset := f 8 2, nimg := f 10 2, ntick := f 12 4, reserve := f 16 1 % 4
    portmap := BitVec.ofNat 128 (f 20 16), express := BitVec.ofNat 128 (f 36 16), schedOff := f 56 8, setOff := f 64 8
    imgOff := f 72 8, pathOff := f 80 8, npath := f 88 4, digest := BitVec.ofNat 512 (f (f 4 4 - 7296 + 8) 64) }

/-- Entry `k` of the schedule (R606). -/
def schedEntry (s : State) (b : Bundle) (k : Nat) : Nat := locketNum s (b.addr + b.schedOff + 8 * (k % max 1 b.ntick)) 8
def schedSetting (v : Nat) : Nat := bitsOf v 0 12
def schedPass (v : Nat) : Nat := bitsOf v 16 2
def schedBatch (v : Nat) : Nat := bitsOf v 32 32

/-- The address of setting `n`. -/
def settingBase (b : Bundle) (n : Nat) : Nat := b.addr + b.setOff + n * settingLen

/-- The router image of a setting (R414). -/
def routerImage (s : State) (base r : Nat) : RImage :=
  let a := base + r * routerImgLen
  let n := locketNum s (a + 4) 2
  { settingId := BitVec.ofNat 32 (locketNum s a 4), posIdx := BitVec.ofNat 16 (locketNum s (a + 6) 2)
    reserved := locketNum s (a + 8) 24 != 0, count := n
    entries := (List.range (min n 2048)).map fun i => BitVec.ofNat 128 (locketNum s (a + 32 + 16 * i) 16) }

/-- The check word of a clasp in a setting (R452), by holder. -/
def beadCheckWord (s : State) (base o i : Nat) : Nat := locketNum s (base + offBeadCheck + 256 * o + 4 * i) 4
def clusterCheckWord (s : State) (base c i : Nat) : Nat := locketNum s (base + offClusterCheck + 1024 * c + 4 * i) 4
def moduleCheckWord (s : State) (base i : Nat) : Nat := locketNum s (base + offModuleCheck + 4 * i) 4

/-- The image number of a bead in a setting; 0xFFFF for the image in force. -/
def imageNum (s : State) (base o : Nat) : Nat := locketNum s (base + offImageNums + 2 * o) 2

/-- A program image in the form of R606: its bytes from the header on. -/
structure Image where
  len : Nat
  entry : List Nat
  reserved : Bool
  code : List Byte
  deriving DecidableEq, Repr

/-- The image that bytes spell. -/
def imageOfBytes (l : List Byte) : Image :=
  { len := cutNum l 0 4, entry := (List.range 4).map fun h => cutNum l (4 + 2 * h) 2, reserved := cutNum l 12 52 != 0
    code := cut l 64 (min 61440 (cutNum l 0 4)) }

/-- The header of an image is in form: the byte offset of the first field that is not (R57, R606). -/
def imageBad (i : Image) : Option Nat :=
  if i.len = 0 ∨ 61440 < i.len then some 0
  else
    match (List.range 4).find? fun h => decide (nth 0 i.entry h / 2 * 2 < 0x1000) with
    | some h => some (4 + 2 * h)
    | none => if i.reserved then some 12 else none

/-- Image `n` of a bundle. -/
def imageAt (s : State) (b : Bundle) (n : Nat) : Image := imageOfBytes (locketBytes s (b.addr + b.imgOff + 65536 * n) 61504)

/-- A path declaration (R606). -/
structure PathDecl where
  setting : Nat
  src : Nat
  tag : Nat
  dst : Nat
  first : Nat
  last : Nat
  reserved : Bool
  deriving DecidableEq, Repr

/-- Path declaration `i`. -/
def pathAt (s : State) (b : Bundle) (i : Nat) : PathDecl :=
  let v := locketNum s (b.addr + b.pathOff + 16 * i) 16
  { setting := bitsOf v 0 12, src := bitsOf v 12 12, tag := bitsOf v 24 4, dst := bitsOf v 28 12, first := bitsOf v 40 14
    last := bitsOf v 54 14, reserved := bitsOf v 68 60 != 0 }

/-- The declarations of a setting. -/
def pathsOf (s : State) (b : Bundle) (n : Nat) : List PathDecl :=
  ((List.range b.npath).map (pathAt s b)).filter fun p => p.setting == n

/-! ### The checks of R417 -/

/-- The state with a setting's router images in the active banks: what R806 and the paths are traced over. -/
def withSetting (s : State) (base : Nat) : State :=
  { s with fabric := { s.fabric with active := (List.range 1152).map fun r => (r, routerImage s base r) } }

/-- A router's image in that state. -/
def imgOf (t : State) (r : Nat) : RImage := tblGet {} t.fabric.active r

/-- Check 1: the header. -/
def badHeader (t : State) (r : Nat) : Bool :=
  let i := imgOf t r
  i.posIdx.toNat != r || decide (2048 < i.count) || i.settingId != (imgOf t 0).settingId || i.reserved

/-- A mesh input or output that has no link. -/
def noLink (r : Nat) (e : BitVec 128) : Bool :=
  (List.range 4).any fun o =>
    (neighbour r o).isNone && (reSel e o != 0 || namesInput e (o + 1))

/-- Check 2: the form of an entry. -/
def badEntry (r : Nat) (e : BitVec 128) : Bool :=
  reCount e == 0 || decide (16384 < reCount e) || (decide (1 < reCount e) && rePeriod e == 0) ||
  decide (16383 < reStart e + (reCount e - 1) * rePeriod e) ||
  ((List.range 6).any fun o => reSel e o == 7) || reSumSrc e == 7 || bitsOf e.toNat 76 52 != 0 || noLink r e

/-- Check 3: summing. -/
def badSum (e : BitVec 128) : Bool :=
  reSum e != 7 &&
    (reSum e == 6 || reSel e (reSum e) == 0 || !(reSumSrc e == 5 || reSumSrc e == 6) ||
      (List.range 6).any fun o => reSel e o == reSumSrc e)

/-- Two entries share a slot. -/
def meet (a b : BitVec 128) : Bool := (slotCks a).any fun ck => (slotAt b ck).isSome

/-- Two entries are in conflict where they meet. -/
def clash (a b : BitVec 128) : Bool :=
  ((List.range 6).any fun o => reSel a o != 0 && reSel b o != 0) ||
  (namesInput a 5 && namesInput b 5 && reLtag a != reLtag b) || (namesInput a 6 && namesInput b 6 && rePtag a != rePtag b)

/-- Check 4: two entries of a router in conflict. -/
def badPair (l : List (BitVec 128)) : Bool :=
  match l with
  | [] => false
  | a :: r => (r.any fun b => clash a b && meet a b) || badPair r

/-- A router has an endpoint at L (R406), or a port node (R405). -/
def hasL (s : State) (r : Nat) : Bool :=
  match nodeKind s r with
  | .bead _ => true
  | _ => false
def hasP (r : Nat) : Bool := (portNode r).isSome

/-- Check 5: endpoints. -/
def badEnd (s : State) (r : Nat) (e : BitVec 128) : Bool :=
  (!hasL s r && (reLtag e != 0 || namesInput e 5 || reSel e 4 != 0)) ||
  (!hasP r && (rePtag e != 0 || namesInput e 6 || reSel e 5 != 0))

/-- A flit at an input in a ck comes to ejections at one node only, each taken in time and, from a frame start, at the frame
starts of the framed entries on its way (R417, R806). -/
def traced (t : State) (dst : Nat) (fuel r ck inp : Nat) (start : Bool) : Bool :=
  match fuel with
  | 0 => false
  | fuel + 1 =>
    takersOf t r ck inp != [] &&
    (takersOf t r ck inp).all fun p =>
      let e := p.1
      let fr := framed t r e
      let outs := (List.range 6).filter fun o => reSel e o == inp || (reSum e == o && reSumSrc e == inp)
      (!(fr && start) || p.2 % 9 == 0) &&
      outs.all fun o =>
        if o = 4 then dst == r
        else if o = 5 then portNode r == some dst
        else
          match neighbour r o with
          | none => false
          | some r' =>
            decide (ck + linkCk r r' ≤ 16383) &&
            traced t dst fuel r' (ck + linkCk r r') (arrivesAt o) (if fr then p.2 % 9 == 0 else start)

/-- An injection slot of a router's input is declared for one destination, and leads there. -/
def slotCloses (t : State) (paths : List PathDecl) (r inp tag ck : Nat) : Bool :=
  let n := if inp = 5 then some r else portNode r
  let mine := paths.filter fun p => some p.src == n && p.tag == tag && decide (p.first ≤ ck) && decide (ck ≤ p.last)
  match mine with
  | [] => false
  | p :: rest => rest.all (fun q => q.dst == p.dst) && traced t p.dst 16384 r ck inp false

/-- Check 6: an entry whose injection slots do not close. -/
def badClosure (t : State) (paths : List PathDecl) (r : Nat) (e : BitVec 128) : Bool :=
  (namesInput e 5 && reLtag e != 0 && (slotCks e).any fun ck => !slotCloses t paths r 5 (reLtag e) ck) ||
  (namesInput e 6 && rePtag e != 0 && (slotCks e).any fun ck => !slotCloses t paths r 6 (rePtag e) ck)

/-- The ck of the injection slots of stream 0x2 at a node, each once (R427, R568). -/
def cksOf2 (t : State) (n : Nat) : List Nat :=
  (((imgOf t (nodeRouter n)).entries.filter fun e => namesInput e 6 && rePtag e == 2).flatMap slotCks).dedup
/-- Injection slots of stream 0x2 at a node. -/
def slotsOf2 (t : State) (n : Nat) : Nat := (cksOf2 t n).length

/-- The first router of a setting for which a test holds. -/
def firstRouter (p : Nat → Bool) : Option Nat := (List.range 1152).find? p

/-- The first check of R417 and R607 that a setting fails: router and check code. [DEDUCED: log 55] -/
def settingBad (s : State) (base : Nat) (paths : List PathDecl) : Option (Nat × Nat) :=
  let t := withSetting s base
  let es (r : Nat) : List (BitVec 128) := (imgOf t r).entries
  let tests : List (Nat × (Nat → Bool)) :=
    [(1, badHeader t), (2, fun r => (es r).any (badEntry r)), (3, fun r => (es r).any badSum), (4, fun r => badPair (es r)),
     (5, fun r => (es r).any (badEnd s r)), (6, fun r => (es r).any (badClosure t paths r)),
     (7, fun r => r == nodeRouter nodeLocket && decide (slotsOf2 t nodeLocket < 512)),
     (8, fun r => r == nodeRouter nodeCxl && decide (slotsOf2 t nodeCxl < 256))]
  tests.findSome? fun c => (firstRouter c.2).map fun r => (r, c.1)

/-- The endpoint check alone (R612). [DEDUCED: log 55] -/
def endsBad (s : State) (base : Nat) : Option Nat :=
  let t := withSetting s base
  firstRouter fun r => (imgOf t r).entries.any (badEnd s r)

/-- RESULT0 of SETTING_REFUSED (R607). [DEDUCED: log 55] -/
def refusedWord (n r c : Nat) : Word := BitVec.ofNat 64 (n + r * 2 ^ 12 + c * 2 ^ 23)

/-! ### Header and sections in range -/

/-- A section lies behind the header and before the signature block, at a multiple of 32. -/
def sectionOk (b : Bundle) (off n : Nat) : Bool :=
  off % 32 == 0 && decide (256 ≤ off) && decide (off + n + sigLen ≤ b.len)

/-- The offset of the first header field out of range (R605). -/
def headerBad (s : State) (b : Bundle) : Option Nat :=
  let f (i n : Nat) : Nat := locketNum s (b.addr + i) n
  let tests : List (Nat × Bool) :=
    [(0, f 0 4 == 1), (8, decide (1 ≤ b.nset) && decide (b.nset ≤ 4096)), (10, decide (b.nimg ≤ 4096)),
     (12, decide (1 ≤ b.ntick) && decide (b.ntick ≤ 1048576)), (16, decide (f 16 1 < 4)), (17, f 17 1 == 0)] ++
    ((List.range 16).map fun p => (20 + p, decide (f (20 + p) 1 < 64))) ++
    [(56, sectionOk b b.schedOff (8 * b.ntick)), (64, sectionOk b b.setOff (b.nset * settingLen)),
     (72, sectionOk b b.imgOff (b.nimg * 65536)), (80, sectionOk b b.pathOff (16 * b.npath)), (92, f 92 164 == 0)]
  (tests.find? fun t => !t.2).map (·.1)

/-- The offset of the first schedule entry, image number or path declaration out of range (R606). -/
def sectionBad (s : State) (b : Bundle) : Option Nat :=
  let sched := ((List.range b.ntick).find? fun k =>
    let v := schedEntry s b k
    decide (b.nset ≤ schedSetting v) || bitsOf v 12 4 != 0 || schedPass v == 3 || bitsOf v 18 14 != 0).map fun k => b.schedOff + 8 * k
  let nums := (List.range b.nset).findSome? fun n => ((List.range 1024).find? fun o =>
    let v := imageNum s (settingBase b n) o
    v != 0xFFFF && decide (b.nimg ≤ v)).map fun o => b.setOff + n * settingLen + offImageNums + 2 * o
  let paths := ((List.range b.npath).find? fun i =>
    let p := pathAt s b i
    decide (b.nset ≤ p.setting) || p.reserved || decide (p.last < p.first)).map fun i => b.pathOff + 16 * i
  match sched with
  | some k => some k
  | none =>
    match nums with
    | some k => some k
    | none => paths

/-- A check word with a reserved bit set (R452). -/
def checkWordBad (v : Nat) : Bool := bitsOf v 17 15 != 0

/-- The offset of the first bad word of a setting's check images. -/
def checksBad (s : State) (b : Bundle) (n : Nat) : Option Nat :=
  let o := b.setOff + n * settingLen + offBeadCheck
  ((List.range ((1024 * 256 + 32 * 1024 + 16384) / 4)).find? fun i => checkWordBad (locketNum s (b.addr + o + 4 * i) 4)).map
    fun i => o + 4 * i

/-- Check 5 of R607: check images and image headers. -/
def imagesBad (s : State) (b : Bundle) : Option Nat :=
  match (List.range b.nset).findSome? (checksBad s b) with
  | some k => some k
  | none => (List.range b.nimg).findSome? fun n => (imageBad (imageAt s b n)).map fun k => b.imgOff + 65536 * n + k

/-! ### LOAD_BUNDLE and DROP_BUNDLE -/

/-- The bundle in a slot. -/
def bundleOf (s : State) (slot : Nat) : Option Bundle := tblGet none s.nutas.bundles slot
def setBundle (slot : Nat) (b : Option Bundle) (s : State) : State :=
  modNutas (fun n => { n with bundles := tblSet none n.bundles slot b }) s

/-- A plan uses a slot. -/
def slotInUse (s : State) (slot : Nat) : Bool := s.nutas.plan.phase != .none && s.nutas.plan.slot == slot

/-- The checks of R607 in order: status and result of the first that fails, with the router whose endpoint check failed.
[DEDUCED: log 55] -/
def bundleBad (s : State) (b : Bundle) : Option (Nat × Word × Option Nat) :=
  let block := locketBytes s (b.addr + b.len - sigLen) sigLen
  let content := locketBytes s b.addr (b.len - sigLen)
  if b.len < 256 + sigLen ∨ !sigVerifies 2 (bkeyAccepts s) content block then some (stBadSignature, 0, none)
  else if s.sec.version.toNat < locketNum s (b.addr + 52) 4 ∨ sigSvn block < s.sec.bmin.toNat then some (stRollback, 0, none)
  else
    match (headerBad s b <|> sectionBad s b) with
    | some k => some (stBadField, BitVec.ofNat 64 k, none)
    | none =>
      if locketNum s (b.addr + 18) 2 ≠ gradeBeads s then some (stInvalidTarget, 0, none)
      else
        match (List.range b.nset).findSome? fun n => (settingBad s (settingBase b n) (pathsOf s b n)).map fun r => (n, r) with
        | some (n, r, c) => some (stSettingRefused, refusedWord n r c, if c = 5 then some r else none)
        | none => (imagesBad s b).map fun k => (stBadField, BitVec.ofNat 64 k, none)

/-- The bytes of a bundle that are read: those that its LENGTH gives, or the granule of it alone where that is lost. -/
def bundleLen (s : State) (b : Bundle) : Nat := if (locketBad s b.addr 32).isSome then 32 else b.len

/-- LOAD_BUNDLE (R607, R608, R769). -/
def execLoadBundle (k : Nat) (s : State) : Host.Outcome State Fault Refusal :=
  command 0x20 k (bufMaskAll ++ [(24, 3)]) noChecks (fun _ => some 256)
    (fun c t =>
      let u := bufOf c.entry
      let slot := entryByte c.entry 24
      let b := bundleAt t u.addr
      let t1 := locketLook u.addr (bundleLen t b) t
      if u.loc ≠ 0 ∨ u.len < bundleLen t b then .done stBadBuffer 0 0 t
      else if slotInUse t slot then .done stPlanRunning 0 0 t
      else if (bundleOf t slot).isSome then .done stNoSpace 0 0 t
      else
        match locketBad t u.addr (bundleLen t b) with
        | some off => .done stMemFault 0 (BitVec.ofNat 64 off) t1
        | none =>
          match bundleBad t b with
          | some (st, r0, pos) => .done st r0 0 (match pos with
            | some r => invalidTarget r t1
            | none => t1)
          | none => .done stOk (BitVec.ofNat 64 (b.nset + b.ntick * 65536)) 0 (setBundle slot (some b) t1)) s

/-- DROP_BUNDLE (R608). [DEDUCED: log 55] -/
def execDropBundle (k : Nat) (s : State) : Host.Outcome State Fault Refusal :=
  command 0x21 k [(24, 3)] noChecks noBuf
    (fun c t =>
      let slot := entryByte c.entry 24
      if slotInUse t slot then .done stPlanRunning 0 0 t
      else if (bundleOf t slot).isNone then .done stNoBundle 0 0 t
      else .done stOk 0 0 (setBundle slot none t)) s

end Sys2Proof.Machine
end

