-- ==== Sys2Proof/Machine/Crc.lean ====
section
/-! DEFINITION. The layout of the chain and management frames, and their CRC-32 (R469 to R471, R487, R623). -/

namespace Sys2Proof.Machine

/-- One bit through the CRC-32 with the polynomial 0x04C1_1DB7. -/
def crcBit (r : Word32) (b : Bool) : Word32 := if r.msb != b then (r <<< 1) ^^^ 0x04C11DB7#32 else r <<< 1

/-- One byte through the CRC-32. -/
def crcByte (r : Word32) (b : Byte) : Word32 :=
  (List.range 8).foldl (fun r i => crcBit r (b.getLsbD (if Config.crcMsbFirst then 7 - i else i))) r

/-- The CRC-32 of a frame's earlier bytes (R469, R623). [DESIGN CHOICE: log 96] -/
def crc32 (l : List Byte) : Word32 := l.foldl crcByte Config.crcStart ^^^ Config.crcEnd

/-! ### Chain frames -/

/-- The link control word (R470). -/
def linkBytes (l : LinkWord) : List Byte :=
  toBytes 8 (l.typ.toNat + l.seq.toNat * 2 ^ 4 + l.ack.toNat * 2 ^ 16 + b2n l.nak * 2 ^ 28 + bitsOf l.reserved.toNat 0 1 * 2 ^ 29 +
    l.cclass.toNat * 2 ^ 30 + l.credits.toNat * 2 ^ 32 + bitsOf l.reserved.toNat 1 20 * 2 ^ 44)

/-- The message word (R471). -/
def msgWordBytes (f : ChainFrame) : List Byte :=
  toBytes 8 (f.srcNode.toNat + f.srcMod.toNat * 2 ^ 12 + f.sendTick.toNat * 2 ^ 16 + f.cls.toNat * 2 ^ 48 + f.reserved.toNat * 2 ^ 50)

/-- The timing words (R487). -/
def timingBytes (w : TimingWords) : List Byte :=
  toBytes 16 (w.tick.toNat + b2n w.hold * 2 ^ 48 + b2n w.relay * 2 ^ 49 + b2n w.curHold * 2 ^ 50 + w.mode.toNat * 2 ^ 51 +
    w.refMod.toNat * 2 ^ 53 + b2n w.aligned * 2 ^ 57 + b2n w.forming * 2 ^ 58 + bitsOf w.reserved.toNat 0 5 * 2 ^ 59 +
    w.sendCk.toNat * 2 ^ 64 + w.echoCk.toNat * 2 ^ 78 + b2n w.echoV * 2 ^ 92 + w.window.toNat * 2 ^ 93 +
    bitsOf w.reserved.toNat 5 29 * 2 ^ 99)

/-- The 288 bits of a code word. -/
def codeBytes (c : Code) : List Byte := toBytes 36 c.toNat

/-- The CRC of a frame of each type, over all earlier fields (R469). [DESIGN CHOICE: log 96] -/
def msgCrc (f : ChainFrame) : Word32 :=
  crc32 (linkBytes f.link ++ msgWordBytes f ++ codeBytes f.head ++ f.msg.data.flatMap codeBytes)
def ctrlCrc (l : LinkWord) : Word32 := crc32 (linkBytes l)
def timingCrc (l : LinkWord) (w : TimingWords) : Word32 := crc32 (linkBytes l ++ timingBytes w)
def trainCrc (l : LinkWord) (w : TrainWords) : Word32 := crc32 (linkBytes l ++ Config.trainBytes w.peerPort w.peerMod)
def laneCrc (l : LinkWord) (lmap : BitVec 12) (spare : BitVec 3) : Word32 := crc32 (linkBytes l ++ Config.laneBytes lmap spare)

/-! ### Management frames -/

/-- Bytes 0 to 7 + LEN of a management frame (R623). -/
def mgmtBytes (f : MgmtFrame) : List Byte :=
  toBytes 2 (f.payload.length % 2 ^ 11 + bitsOf f.reserved.toNat 0 5 * 2 ^ 11) ++
    toBytes 1 (f.typ.toNat + bitsOf f.reserved.toNat 5 4 * 16) ++ [f.seq, f.ackSeq] ++
    toBytes 3 (bitsOf f.reserved.toNat 9 24) ++ f.payload

/-- The CRC of a management frame (R623). -/
def mgmtCrc (f : MgmtFrame) : Word32 := crc32 (mgmtBytes f)

/-- A management frame that this end sends. -/
def mgmtFrame (typ : BitVec 4) (seq ackSeq : BitVec 8) (payload : List Byte) : MgmtFrame :=
  let f : MgmtFrame := { typ := typ, seq := seq, ackSeq := ackSeq, payload := payload, crc := 0 }
  { f with crc := mgmtCrc f }

end Sys2Proof.Machine
end

