-- ==== Sys2Proof/Machine/SQueue.lean ====
section
/-! DEFINITION. The S-queue: clasp entries and chain entries (chapters 3, 13 and 14). -/

namespace Sys2Proof.Machine

/-- Fields of a clasp address word (R96). -/
def cwIndex (w : Nat) : Nat := bitsOf w 0 12
def cwScope (w : Nat) : Nat := bitsOf w 12 2
def cwOrd (w : Nat) : Nat := bitsOf w 14 10
def cwModule (w : Nat) : Nat := bitsOf w 24 4
def cwRemote (w : Nat) : Bool := bitOf w 28

/-- The module's own number is a MODULE field's (R131, R442). -/
def ownModule (s : State) (m : Nat) : Bool := s.chain.numv && s.chain.num.toNat == m

/-- A clasp's place as an entry resolves it (R440). -/
inductive ClaspAt where
  /-- The issuing bead's own clasp. -/
  | own (k : Nat)
  /-- A clasp of the module: its key, its node, and whether the crossbar of the bead's own cluster reaches it. -/
  | local_ (k : Nat) (n : Nat) (xbar : Bool)
  | remote (m : Nat)
  deriving DecidableEq, Repr

/-- The clasp that an address word names, seen from a bead (R440). -/
def claspAt (o w : Nat) : ClaspAt :=
  let i := cwIndex w
  if cwRemote w then .remote (cwModule w)
  else
    match cwScope w with
    | 0 => .own (o * 64 + i % 64)
    | 1 => if cwOrd w = o then .own (o * 64 + i % 64) else .local_ (cwOrd w * 64 + i % 64) (nodeBead (cwOrd w)) false
    | 2 =>
      let c := clusterOf (cwOrd w)
      .local_ (65536 + c * 256 + i % 256) (nodeXbar c) (c == clusterOf o)
    | _ => .local_ (131072 + i) nodeLocket false

/-- An INDEX in its scope's range (R127). -/
def indexOk (w : Nat) : Bool :=
  match cwScope w with
  | 0 => decide (cwIndex w < 64)
  | 1 => decide (cwIndex w < 64)
  | 2 => decide (cwIndex w < 256)
  | _ => true

/-- A clasp entry's operation: 0 increment, 1 take, 2 wait. -/
def claspOp (e : QEntry) : Option Nat :=
  match e.insn with
  | .claspSig .. => some 0
  | .claspTake .. => some 1
  | .claspWait .. => some 2
  | _ => none

/-- The checks of R126, R127 and R442: INVALID_TARGET when one fails. -/
def claspInvalid (s : State) (o op w : Nat) : Bool :=
  !indexOk w ||
  (!cwRemote w && (cwScope w == 1 || cwScope w == 2) && !bitOf s.nutas.reach.toNat (cwOrd w)) ||
  (cwRemote w && ownModule s (cwModule w)) ||
  (op != 0 && (match claspAt o w with
    | .own _ => false
    | .local_ _ n x => !(x || n == nodeLocket)
    | .remote _ => true))

/-- What an entry's start comes to. -/
inductive StartDo where
  | fault (code : Nat)
  | go (s : State)

/-- The entry has done all it has to do. -/
def doneNow (o : Nat) (e : QEntry) (s : State) : State := modBead o (modEntry 3 e.id fun x => { x with fin := 1 }) s

/-- A clasp entry starts (R128, R443 to R449). -/
def claspStart (o op : Nat) (e : QEntry) (s : State) : StartDo :=
  let w := e.v1.toNat % 2 ^ 29
  let n := bitsOf e.v2.toNat 0 16
  let t := bitsOf e.v2.toNat 16 16
  if claspInvalid s o op w then .fault fcInvalid
  else
    match claspAt o w with
    | .remote m =>
      match portTo s m with
      | none => .fault fcChainFail
      | some p =>
        if n = 0 then .go (doneNow o e s)
        else .go (sendHeld o (.sent e.id 0 (BitVec.ofNat 4 m)) .write { msg0 with
          dst := node (nodePort p), src := node (nodeBead o), op := opSignal, module := BitVec.ofNat 4 m
          aux0 := BitVec.ofNat 32 w, aux1 := BitVec.ofNat 32 n, stream := 8 } s)
    | .own k =>
      if n = 0 then .go (doneNow o e s)
      else
        match op with
        | 0 => .go (claspReach k (rankAdd portOwn) (.own n (Fin.ofNat 1024 o) e.id) s)
        | 1 => .go (claspReach k (rankTake portOwn) (.take n (.own (Fin.ofNat 1024 o) e.id)) s)
        | _ => .go (claspWait k n t (.own (Fin.ofNat 1024 o) e.id) s)
    | .local_ _ nd xbar =>
      if n = 0 then .go (doneNow o e s)
      else
        let m : Msg := { msg0 with
          dst := node nd, src := node (nodeBead o), op := opSignal, tag := slotTag (beadOf s o)
          aux0 := BitVec.ofNat 32 (w + op * 2 ^ 29), aux1 := BitVec.ofNat 32 (n + t * 65536), stream := 8 }
        let s1 := holdSlot o (.clasp e.id) (if op = 0 then .write else .atomic) 0 s
        let s2 := if xbar then setArrivals nd (arrivals s1 nd ++ [m]) s1 else sendMsg m s1
        .go (if op = 0 && xbar then doneNow o e s2 else s2)

/-- A CH entry names an address in its target's control window (R132). -/
def chControl (e : QEntry) : Bool := decide (0x7F0000000000 ≤ chAddr e) && decide (chAddr e < 0x7F0001000000)

/-- The checks of a CH entry's target, whatever its count (R131, R132, R484). -/
def chFault (s : State) (e : QEntry) : Option Nat :=
  if !s.chain.numv then some fcChainFail
  else if ownModule s (chMod e) then some fcInvalid
  else if chControl e then some fcInvalid
  else if (portTo s (chMod e)).isNone then some fcChainFail
  else none

/-- The local reads that a CH.WR or CH.ACC needs beyond own data memory are made. -/
def chReads (o : Nat) (e : QEntry) (s : State) : State :=
  upTo (chUnits e) (fun t u =>
    let g := chUnit e u
    let a := chLocal e + 32 * g.1
    if (List.range g.2).all fun i => inOwnDmem o (a + 32 * i) then t
    else makeReq o { newReq (beadOf t o) (.chain e.id u) .read a g.2 with noalloc := true } t) s

/-- A CH entry starts. -/
def chStart (o : Nat) (e : QEntry) (s : State) : StartDo :=
  match chFault s e with
  | some c => .fault c
  | none => .go (if isChRd' e then chAsk o e.id s else chPump o e.id (chReads o e s))

/-- A clasp entry sends a message: its start takes a request slot (R362, R449). -/
def claspTravels (o : Nat) (e : QEntry) : Bool :=
  (claspOp e).isSome && decide (bitsOf e.v2.toNat 0 16 ≠ 0) && (match claspAt o (e.v1.toNat % 2 ^ 29) with
    | .own _ => false
    | _ => true)

/-- Parts that an S-queue entry has to finish. -/
def sTotal (e : QEntry) : Nat := if isCh e then chUnits e else 1

/-- A CLASP.SIG that travels in the fabric is complete once its head has been injected (R448).
[DESIGN CHOICE: log 37] -/
def sigInjected (s : State) (o : Nat) (e : QEntry) : Bool :=
  claspOp e == some 0 &&
  (match claspAt o (e.v1.toNat % 2 ^ 32) with
   | .local_ _ _ false => tblGet [] s.fabric.inj (nodeBead o * 16 + 8) == []
   | _ => false)

/-- An S-queue entry has finished its work. [DESIGN CHOICE: log 37] -/
def sFinished (s : State) (o : Nat) (e : QEntry) : Bool := decide (sTotal e ≤ e.fin) || sigInjected s o e

/-- An S-queue message of a source has been accepted: its entry has one part less to finish (R131, R448). The slot of one that
no answer will name, a signal or a contribution summed into another, is free then. -/
def creditSource (src : NodeN) (tag : BitVec 10) (last : Bool) (s : State) : State :=
  match nodeKind s src.val with
  | .bead o =>
    match reqOfSlot (beadOf s o) tag.toNat with
    | some r =>
      match r.owner with
      | .sent e _ _ =>
        let s1 := if last then partGone o r s else s
        match (runningHead (beadOf s o) 3).filter fun x => x.id == e && !isChRd' x with
        | some x => modBead o (modEntry 3 x.id fun x => { x with fin := x.fin + 1 }) s1
        | none => s1
      | .abandoned => if last then partGone o r s else s
      | _ => s
    | none => s
  | _ => s

/-- A port node accepts a message: an S-queue's is credited, and so is every contribution that a sum hop has added to it
(R131, R429, R448). [DEDUCED: log 36] -/
def chAccepted (m : Msg) (s : State) : State :=
  if m.op = opResp ∨ m.op = opAck then s
  else m.also.foldl (fun t p => creditSource p.1 p.2 true t) (creditSource m.src m.tag (m.op == opSignal) s)

/-- CH_RD_RESPONSE_TIMEOUT (R484): a CH.RD without an answer for RSP_TMO ticks ends with CHAIN_FAIL. -/
def execChRdResponseTimeout (o : Ord) (s : State) : Host.Outcome State Fault Refusal :=
  match runningHead (beadOf s o.val) 3 with
  | some e =>
    whenOk s (beadRuns s o.val && isChRd' e && decide (e.fin < e.next) &&
      decide (e.asked + max 1 s.chain.rspTmo.toNat ≤ s.clock.tick.toNat))
      (failEntry o.val 3 e.id fcChainFail 0 0 s)
  | none => .next s

end Sys2Proof.Machine
end

