-- ==== Sys2Proof/Machine/Chain.lean ====
section
/-! DEFINITION. Chain ports: training, frames with credits and retry, remote operations, board timing, lanes (chapter 14).
A port sends a frame as soon as its credits and replay buffer allow; an ACK or a credit return leaves at once. -/

namespace Sys2Proof.Machine

def portOf (s : State) (p : Nat) : Port := tblGet {} s.chain.ports p
def setPort (p : Nat) (v : Port) (s : State) : State :=
  { s with chain := { s.chain with ports := tblSet {} s.chain.ports p v } }
def modPort (p : Nat) (f : Port → Port) (s : State) : State := setPort p (f (portOf s p)) s

/-- Frames flow: UP or DEGRADED (R468). -/
def flows (q : Port) : Bool := q.st == .up || q.st == .degraded

/-- Codes of the port states (R468). -/
def portCode (t : PortState) : Nat :=
  match t with
  | .dark => 0
  | .training => 1
  | .up => 2
  | .degraded => 3
  | .down => 4
  | .loop => 5

/-- A link control word with nothing in it but the acknowledgement (R470). -/
def ackWord (q : Port) : LinkWord :=
  { typ := 0, seq := 0, ack := q.lastRx, nak := false, cclass := 3, credits := 0, reserved := 0 }

/-- The frames that a port sends, with the CRC of each (R469). -/
def chainOut (p : Nat) (f : ChainFrame) : OutMsg := .chain p f (msgCrc f)
def ctrlOut (p : Nat) (l : LinkWord) : OutMsg := .chainCtrl p l (ctrlCrc l)
def timingOut (p : Nat) (l : LinkWord) (w : TimingWords) : OutMsg := .timing p l w (timingCrc l w)
def trainOut (p : Nat) (l : LinkWord) (w : TrainWords) : OutMsg := .train p l w (trainCrc l w)
def laneOut (p : Nat) (l : LinkWord) (lmap : BitVec 12) (spare : BitVec 3) : OutMsg := .lane p l lmap spare (laneCrc l lmap spare)

/-- A CTRL frame leaves. [DEDUCED: log 79] -/
def sendCtrl (p : Nat) (l : LinkWord) (s : State) : State := emit (ctrlOut p l) s

/-- The class of an operation: 0 REQ, 1 RSP, 2 ACC (R474). -/
def opClass (op : BitVec 8) : Nat := if op = opResp ∨ op = opAck then 1 else if op = opSum then 2 else 0

/-- Blocks of a message (R473). -/
def blocksOf (m : Msg) : Nat := 1 + m.len

/-- The credits of a class. -/
def creditsOf (q : Port) (c : Nat) : Nat := if c = 0 then q.creditReq else if c = 1 then q.creditRsp else q.creditAcc
def useCredits (c n : Nat) (q : Port) : Port :=
  if c = 0 then { q with creditReq := q.creditReq - n }
  else if c = 1 then { q with creditRsp := q.creditRsp - n }
  else { q with creditAcc := q.creditAcc - n }
def addCredits (c n : Nat) (q : Port) : Port :=
  if c = 0 then { q with creditReq := q.creditReq + n }
  else if c = 1 then { q with creditRsp := q.creditRsp + n }
  else if c = 2 then { q with creditAcc := q.creditAcc + n }
  else q

/-- The frame that goes next: the first of those that stand first of their source node and whose class has credits (R473,
R474, R481). -/
def nextFrame (q : Port) : Option (Nat × ChainFrame) :=
  ((List.range q.tx.length).zip q.tx).find? fun x =>
    !((q.tx.take x.1).any fun f => f.msg.src == x.2.msg.src) && decide (blocksOf x.2.msg ≤ creditsOf q x.2.cls.toNat)

/-- A port checks and counts every granule that it carries: the command block and the data (R393, R411, R477). -/
def portLooks (p : Nat) (f : ChainFrame) (s : State) : State :=
  (f.head :: f.msg.data).foldl (fun t c => countLook (blkPort p) c t) s

/-- One frame leaves, if one can (R475); none in the pause of a lane switch (R501). -/
def pumpOne (p : Nat) (s : State) : State :=
  let q := portOf s p
  if flows q && decide (q.replay.length < 256) && decide (q.pauseTo ≤ absCk s) then
    match nextFrame q with
    | none => s
    | some (i, f) =>
      let f' : ChainFrame := { f with link := { ackWord q with typ := 1, seq := q.nextSeq } }
      let q' := useCredits f.cls.toNat (blocksOf f.msg) { q with
        tx := q.tx.eraseIdx i
        nextSeq := q.nextSeq + 1
        replay := q.replay ++ [(f', 0)] }
      emit (chainOut p f') (portLooks p f' (countEv (blkPort p) 0x04 f.msg.len (countEv (blkPort p) 0x02 1 (setPort p q' s))))
  else s

/-- Every frame that can leave does. -/
def pump (p : Nat) (s : State) : State := upTo (portOf s p).tx.length (fun t _ => pumpOne p t) s

/-- The module's own number as an operand. -/
def ownNum (s : State) : BitVec 4 := s.chain.num

/-- A frame for a message, as the port accepts it (R471). -/
def frameOf (s : State) (srcNode : BitVec 12) (m : Msg) : ChainFrame :=
  { link := ackWord {}, head := encodeGran (headGran m), srcNode := srcNode, srcMod := ownNum s, sendTick := BitVec.ofNat 32 s.clock.tick.toNat
    cls := BitVec.ofNat 2 (opClass m.op), reserved := 0, msg := m }

/-- A port record of class CHAIN_LANE with the event at the hub (R502, R684). -/
def recordLane (p lane st disc : Nat) (s : State) : State :=
  hubRaise (112 + p) (recordAt 0x0F (blkPort p) (p + lane * 16 + st * 128 + disc * 1024) s)

/-- A port node takes a message from the fabric: it is sent as one MSG frame; ATOMIC and STALE are discarded (R474); one
for a module that is not reachable is answered as TARGET_DOWN. -/
def portAccept (p : Nat) (m : Msg) (s : State) : State :=
  if m.op = opAtomic ∨ m.op = opStale then recordLane p 0 (portCode (portOf s p).st) 1 s
  else if !flows (portOf s p) then targetDown m s
  else
    let f := frameOf s (BitVec.ofNat 12 m.src.val) m
    pump p (modPort p (fun q => { q with tx := q.tx ++ [{ f with msg := { m with also := [] } }] }) (chAccepted m s))

/-- A port that the plan's bundle marks as used (R605, R684). -/
def portUsed (s : State) (p : Nat) : Bool :=
  match tblGet none s.nutas.bundles s.nutas.plan.slot with
  | some b => bitOf b.portmap.toNat (8 * p + 4)
  | none => false

/-- A request slot that waits for an answer from a module. -/
def sentTo (peer : Nat) (r : Req) : Bool :=
  match r.owner with
  | .sent _ _ m => m.toNat == peer
  | _ => false

/-- S-queue heads that wait for a frame acceptance or a response of a module whose port is lost end with CHAIN_FAIL
(R484); no answer comes to the slots of what has been sent to it. -/
def chainFail (peer : Nat) (s : State) : State :=
  (s.beads.map (·.1)).foldl (fun t0 o =>
    let t := if (beadOf t0 o).reqs.any (sentTo peer) then
        modBead o (fun b => { b with reqs := b.reqs.filter fun r => !sentTo peer r }) t0 else t0
    match runningHead (beadOf t o) 3 with
    | some e =>
      let hit := (isCh e && chMod e == peer) ||
        (claspOp e == some 0 && cwRemote e.v1.toNat && cwModule e.v1.toNat == peer)
      if hit ∧ !sFinished t o e then failEntry o 3 e.id fcChainFail 0 0 t else t
    | none => t) s

/-- The entry that has sent a message is complete: it stands in its S-queue no more (R131, R485). -/
def entryDone (s : State) (src : NodeN) (tag : BitVec 10) : Bool :=
  match nodeKind s src.val with
  | .bead o =>
    match reqOfSlot (beadOf s o) tag.toNat with
    | some r =>
      match r.owner with
      | .sent e _ _ => (findEntry (beadOf s o) 3 e).isNone
      | _ => true
    | none => true
  | _ => false

/-- A message of a completed entry lost at DOWN (R485), that of every contribution in it. [DEDUCED: log 79] -/
def recordLost (peer : Nat) (m : Msg) (s : State) : State :=
  if opClass m.op = 1 then s
  else (((m.src, m.tag) :: m.also).filter fun x => entryDone s x.1 x.2).foldl (fun t x =>
    recordFault { cls := 0x0E, source := BitVec.ofNat 12 x.1.val, addrV := true, addr := m.addr
                  module := BitVec.ofNat 4 peer, detail := BitVec.ofNat 64 (peer + 16 * 3 + 256) } t) s

/-- A link of the port has trained. -/
def hasLink (q : Port) : Bool := flows q || q.st == .loop

/-- A module without a trained link has no number (R465). -/
def forgetNum (s : State) : State :=
  if (List.range 16).any fun p => hasLink (portOf s p) then s else { s with chain := { s.chain with numv := false } }

/-- The ports on which frames flow. [DEDUCED: log 79] -/
def reachable (s : State) : List Nat := (List.range 16).filter fun p => flows (portOf s p)

/-- A reachable peer has reported a WINDOW other than the module's (R499). -/
def windowsDiffer (s : State) : Bool :=
  s.chain.numv && (reachable s).any fun p =>
    match (portOf s p).peerWindow with
    | some w => w != s.chain.windowNow
    | none => false

/-- WINMIS follows what the reachable peers have reported (R499, R505). -/
def noteWindows (s : State) : State := { s with chain := { s.chain with winMis := windowsDiffer s } }

/-- The records whose fans go to a module that is lost break (R535). -/
def breakFans (peer : Nat) (s : State) : State :=
  upTo 16 (fun t z =>
    ((bezelOf t z).fans.filter fun f => f.module == peer).foldl (fun u f => breakRec z f.record u) t) s

/-- A training frame leaves with the port's number and the module's (R465, R467). [DEDUCED: log 79] -/
def sendTrain (p : Nat) (s : State) : State :=
  emit (trainOut p { ackWord {} with typ := 3 } { peerPort := BitVec.ofNat 4 p, peerMod := s.chain.num }) s

/-- A port loses its link and enters DOWN, returns to TRAINING or goes DARK (R465, R467, R468, R484, R485, R535).
[DEDUCED: log 79] -/
def portLeaves (into : PortState) (p : Nat) (s : State) : State :=
  let q := portOf s p
  let peer := q.peer.toNat
  let lost := q.replay.map (fun x => x.1.msg) ++ q.tx.map (·.msg)
  let s1 := setPort p { q with
    st := into
    pauseTo := 0
    cal := false
    calGo := false
    newMap := none
    newCal := false
    calLane := 7
    peerWindow := none
    replay := []
    tx := []
    rx := []
    nakOut := false
    out := q.out.map fun x => (x.1, x.2.map fun e => { e with lost := true }) } s
  let s2 := lost.foldl (fun t m => recordLost peer m t) s1
  let s4 := if flows q then breakFans peer (chainFail peer s2) else s2
  let s5 := noteWindows (forgetNum (recordLane p 0 (portCode into) 0 s4))
  let s6 := if into == .training then sendTrain p s5 else s5
  if into == .down && portUsed s p then endService 0x0F s6 else s6

/-- A port enters DOWN (R468). -/
def portDown (p : Nat) (s : State) : State := portLeaves .down p s

/-- Physical lanes that have not failed. -/
def goodLanes (q : Port) : List Nat := (List.range 5).filter fun l => !bitOf q.failedLanes.toNat l

/-- LMAP of a list of lanes (R507); a logical lane that a DEGRADED port does not use names no lane.
[DEDUCED: log 79] -/
def mapOf (l : List Nat) : BitVec 12 := BitVec.ofNat 12 ((List.range 4).map fun i => nth 7 l i * 8 ^ i).sum

/-- The lanes of a map. -/
def mapLanes (m : BitVec 12) : List Nat := (List.range 4).map fun i => bitsOf m.toNat (3 * i) 3

/-- The working lanes of a port's map, failed ones left out. -/
def workLanes (q : Port) : List Nat := (mapLanes q.lmap).filter fun l => decide (l < 5) && !bitOf q.failedLanes.toNat l

/-- A port with the lane-map change that it waits to make. -/
def mapped (q : Port) : Port :=
  match q.newMap with
  | some m => { q with lmap := m.1, spare := m.2 }
  | none => q

/-- A port waits for a LANE frame that changes its map to these lanes (R501). -/
def awaits (q : Port) (l : List Nat) : Port := { q with newMap := some (mapOf l, 7), newCal := false }

/-- A lane fails (R500 to R502, R504); one of a map that waits for its LANE frame fails in the new map. -/
def laneFail (p lane : Nat) (s : State) : State :=
  let q0 := portOf s p
  let q := mapped q0
  let failed := q.failedLanes ||| BitVec.ofNat 5 (2 ^ lane)
  let q1 : Port := { q0 with failedLanes := failed }
  let left := (workLanes q).filter fun l => l != lane
  if q.spare.toNat = lane ∨ q.calLane.toNat = lane then
    recordLane p lane (portCode q.st) 0 (setPort p { q1 with
      spare := if q0.newMap.isSome then q0.spare else 7
      cal := false
      calGo := false
      calLane := 7
      newMap := q0.newMap.map fun m => (m.1, 7) } s)
  else if q.st = .degraded then
    portDown p (recordLane p lane 4 0 (setPort p q1 s))
  else if q.cal then
    recordLane p lane 3 0 (setPort p { awaits q1 left with
      st := .degraded
      cal := false
      calGo := false
      calLane := q.spare
      spare := 7 } s)
  else if q.spare = 7 then
    recordLane p lane 3 0 (setPort p { awaits q1 left with st := .degraded } s)
  else
    recordLane p lane 2 0 (setPort p (awaits q1 ((mapLanes q.lmap).map fun l => if l = lane then q.spare.toNat else l)) s)

/-- A lane is in use, as a working lane, as the spare, or to be calibrated anew. -/
def laneUsed (q : Port) (lane : Nat) : Bool :=
  (workLanes q).contains lane || q.spare.toNat == lane || q.calLane.toNat == lane

/-- The lane with the most uncorrectable code words of the tick, the least of several; none where no lane has any (R500).
[DEDUCED: log 79] -/
def worstLane (q : Port) : Option Nat :=
  ((List.range 5).filter fun l => laneUsed q l && decide (0 < tblGet 0 q.laneUnc l)).foldl (fun a l =>
    match a with
    | some b => if tblGet 0 q.laneUnc b < tblGet 0 q.laneUnc l then some l else a
    | none => some l) none

/-- A port examines its lanes: the worst is taken as failed (R478, R500). [DEDUCED: log 79] -/
def examine (p : Nat) (s : State) : State :=
  match worstLane (portOf s p) with
  | some l => laneFail p l s
  | none => s

/-- Every unacknowledged frame leaves again (R476), but none in the pause of a lane switch (R501); at 8 resends of one the port
examines its lanes, and at 16 it enters DOWN (R478). -/
def resend (p : Nat) (s : State) : State :=
  let q := portOf s p
  if absCk s < q.pauseTo then s
  else
    let n := q.replay.length
    let re := q.replay.map fun x => (x.1, x.2 + 1)
    let s1 := setPort p { q with replay := re, resent := satInc q.resent n } (countEv (blkPort p) 0x06 n s)
    let s2 := re.foldl (fun t x => emit (chainOut p { x.1 with link := { x.1.link with ack := q.lastRx } }) t) s1
    if re.any fun x => decide (16 ≤ x.2) then portDown p s2
    else if re.any fun x => x.2 == 8 then examine p s2
    else s2

/-- What a link control word brings: an acknowledgement, credits, and a NAK (R470, R473, R476). -/
def takeLink (p : Nat) (l : LinkWord) (s : State) : State :=
  let q := portOf s p
  let acked := q.replay.any fun x => x.1.link.seq == l.ack
  let rest := if acked then (q.replay.dropWhile fun x => x.1.link.seq != l.ack).drop 1 else q.replay
  let s1 := setPort p (addCredits l.cclass.toNat l.credits.toNat { q with replay := rest }) s
  pump p (if l.nak then resend p s1 else s1)

/-- A frame with a failed CRC, or one that R472 treats so. -/
def badFrame (p : Nat) (s : State) : State :=
  countEv (blkPort p) 0x07 1 (modPort p (fun q => { q with crcErr := satInc q.crcErr }) s)

/-- A frame of a type arrives intact (R470, R472): CRC, type and reserved bits. [DEDUCED: log 79] -/
def chainOk (crcOk : Bool) (typ : BitVec 4) (l : LinkWord) : Bool := crcOk && l.reserved == 0 && l.typ == typ

/-- A CTRL frame arrives, with its CRC right or not. -/
def ctrlFrame (p : Nat) (crcOk : Bool) (l : LinkWord) (s : State) : State :=
  if chainOk crcOk 0 l then takeLink p l s else badFrame p s

/-- CTRL_FRAME (R470). -/
def execCtrlFrame (p : PortN) (crc : Word32) (l : LinkWord) (s : State) : Host.Outcome State Fault Refusal :=
  whenOk s (mainUp s && flows (portOf s p.val)) (ctrlFrame p.val (crc == ctrlCrc l) l s)

/-- A NAK leaves: one for each gap (R476). -/
def sendNak (p : Nat) (s : State) : State :=
  let q := portOf s p
  sendCtrl p { ackWord q with nak := true } (setPort p { q with nakOut := true } s)

/-- Blocks freed in a buffer go back at once (R473). [DEDUCED: log 79] -/
def returnCredits (p c n : Nat) (s : State) : State :=
  sendCtrl p { ackWord (portOf s p) with cclass := BitVec.ofNat 2 c, credits := BitVec.ofNat 12 n } s

/-- A response frame goes into the fabric to the node it names (R480). -/
def respIn (p : Nat) (f : ChainFrame) (s : State) : State :=
  sendMsg { f.msg with
    dst := node f.srcNode.toNat, src := node (nodePort p), module := f.srcMod, stream := 1 }
    (returnCredits p 1 (blocksOf f.msg) s)

/-- A response frame waits in its buffer: a hold tick lets no message into the fabric (R486). -/
def holdsResp (f : ChainFrame) (s : State) : Bool := f.cls == 1 && s.clock.hold

/-- A MSG frame is accepted (R476, R477): its granules, the command block's with them, are checked and counted, its ACK
leaves, a response goes on, and a request waits in its buffer, as a response does in a hold tick. -/
def acceptFrame (p : Nat) (f : ChainFrame) (s : State) : State :=
  let q := portOf s p
  let bad := countIf (fun c => (decodeCode c).1 != .clean) (f.head :: f.msg.data)
  let s1 := setPort p { q with
    lastRx := f.link.seq
    nakOut := false
    granErr := satInc q.granErr bad
    rxOrder := q.rxOrder + 1
    rx := if f.cls = 1 ∧ !holdsResp f s then q.rx else q.rx ++ [⟨q.rxOrder, f⟩] } s
  let s3 := countEv (blkPort p) 0x05 f.msg.len (countEv (blkPort p) 0x03 1 (portLooks p f s1))
  let s4 := sendCtrl p (ackWord (portOf s3 p)) s3
  if f.cls = 1 ∧ !holdsResp f s then respIn p f s4 else s4

/-- The responses that have waited through a hold tick go on (R486). -/
def releaseResps (s : State) : State :=
  upTo 16 (fun t p =>
    ((portOf t p).rx.filter fun x => x.f.cls == 1).foldl (fun u x => respIn p x.f u)
      (if (portOf t p).rx.any fun x => x.f.cls == 1 then modPort p (fun q => { q with rx := q.rx.filter fun x => x.f.cls != 1 }) t
       else t)) s

/-- A MSG frame arrives (R472, R476). -/
def msgFrame (p : Nat) (crcOk : Bool) (f : ChainFrame) (s : State) : State :=
  let bad := !chainOk crcOk 1 f.link || f.reserved != 0 || f.cls == 3
  let s1 := if bad then badFrame p s else takeLink p f.link s
  let q := portOf s1 p
  if !flows q then s1
  else if !bad && f.link.seq == q.lastRx + 1 then acceptFrame p f s1
  else if q.nakOut then s1 else sendNak p s1

/-- MSG_FRAME (R476). -/
def execMsgFrame (p : PortN) (crc : Word32) (f : ChainFrame) (s : State) : Host.Outcome State Fault Refusal :=
  whenOk s (mainUp s && flows (portOf s p.val)) (msgFrame p.val (crc == msgCrc f) f s)

/-- NAK_REPEAT (R476): the expected frame has not come. -/
def execNakRepeat (p : PortN) (s : State) : Host.Outcome State Fault Refusal :=
  whenOk s (mainUp s && flows (portOf s p.val) && (portOf s p.val).nakOut) (sendNak p.val s)

/-- ACK_TIMEOUT_RESEND (R476). -/
def execAckTimeoutResend (p : PortN) (s : State) : Host.Outcome State Fault Refusal :=
  whenOk s (mainUp s && flows (portOf s p.val) && (portOf s p.val).replay != [] && decide ((portOf s p.val).pauseTo ≤ absCk s))
    (resend p.val s)

/-- The port's link starts as new: counts, buffers and lanes (R473). [DESIGN CHOICE: log 9] -/
def freshLink (q : Port) : Port :=
  { q with
    nextSeq := 0
    lastRx := 0xFFF
    nakOut := false
    creditReq := 576
    creditRsp := 576
    creditAcc := 1152
    replay := []
    rx := []
    pauseTo := 0
    newMap := none
    newCal := false
    calLane := 7
    peerWindow := none }

/-- A port has trained (R465 to R468); one that has fewer than three lanes left is DOWN and gives no number.
[DESIGN CHOICE: log 9; DEDUCED: log 79] -/
def trained (p peer : Nat) (rehomed : Bool) (num : BitVec 4) (s : State) : State :=
  let q := freshLink (portOf s p)
  let l := goodLanes q
  let st : PortState := if 4 ≤ l.length then .up else if l.length = 3 then .degraded else .down
  let s1 := setPort p { q with
    st := st
    peer := BitVec.ofNat 4 peer
    rehomed := rehomed
    lmap := mapOf (l.take 4)
    spare := if l.length = 5 then BitVec.ofNat 3 (nth 0 l 4) else 7 } s
  let s2 : State := if st = .down then s1 else { s1 with chain := { s1.chain with num := num, numv := true } }
  recordLane p 0 (portCode st) 0 (sendTrain p s2)

/-- A re-homed reserve port serves as the link to the peer of a port, which stays DARK (R467). -/
def replaced (s : State) (p : Nat) : Bool :=
  (List.range 16).any fun r => r != p && (portOf s r).rehomed && (portOf s r).peer.toNat == p

/-- The port that a re-homed reserve port replaces goes DARK (R467). -/
def darken (p : Nat) (s : State) : State := if (portOf s p).st = .dark then s else portLeaves .dark p s

/-- Two links give different numbers: no port is out of TRAINING any more (R465). [DEDUCED: log 79] -/
def conflicts (s : State) : State :=
  upTo 16 (fun t p => if hasLink (portOf t p) then portLeaves .training p t else t)
    { s with chain := { s.chain with conflict := true } }

/-- A training frame (R464 to R467): the sender's port number is this module's number, the receiving port's number is the
peer's; a reserve port trains to itself, or to FROM where it is re-homed. -/
def trainFrame (p : Nat) (peerPort peerMod : BitVec 4) (s : State) : State :=
  let c := s.chain
  let num := peerPort.toNat
  if c.conflict then s
  else if c.numv && c.num != peerPort then conflicts s
  else if num = p then
    if c.rehomeEn && peerMod == c.from_ && c.from_ != peerPort then
      darken c.from_.toNat (trained p c.from_.toNat true peerPort s)
    else recordLane p 0 5 0 (modPort p (fun q => { q with st := .loop, rehomed := false, peer := peerPort })
      { s with chain := { c with num := peerPort, numv := true } })
  else trained p p false peerPort s

/-- A training frame arrives, with its CRC right or not. -/
def trainIn (p : Nat) (crcOk : Bool) (l : LinkWord) (w : TrainWords) (s : State) : State :=
  if chainOk crcOk 3 l then trainFrame p w.peerPort w.peerMod s else badFrame p s

/-- TRAIN_FRAME (R465, R472): a port that a re-homed reserve port replaces stays DARK (R467). -/
def execTrainFrame (p : PortN) (h : FrameHead) (w : TrainWords) (s : State) : Host.Outcome State Fault Refusal :=
  let st := (portOf s p.val).st
  whenOk s (mainUp s && (st == .training || st == .dark) && !replaced s p.val)
    (trainIn p.val (h.crc == trainCrc h.link w) h.link w s)

/-- A port begins to train: the change is recorded, and its training frame leaves (R465, R502). [DEDUCED: log 79] -/
def beginTraining (p : Nat) (s : State) : State :=
  sendTrain p (recordLane p 0 1 0 (modPort p (fun q => { q with st := .training }) s))

/-- CHAIN_PORT_RETRAIN (R468). -/
def execChainPortRetrain (p : PortN) (s : State) : Host.Outcome State Fault Refusal :=
  whenOk s (mainUp s && (portOf s p.val).st == .down)
    (beginTraining p.val s)

/-- The port takes a lane map at a LANE frame, and no MSG frame leaves for 256 ck (R501 to R504). -/
def takeMap (p : Nat) (m : BitVec 12 × BitVec 3) (s : State) : State :=
  let q := portOf s p
  let q1 : Port := { q with
    lmap := m.1
    spare := m.2
    newMap := none
    newCal := false
    pauseTo := absCk s + 256
    laneSw := satInc q.laneSw }
  let st : PortState := if 4 ≤ (workLanes q1).length then .up else .degraded
  recordLane p (if m.2 = 7 then 0 else m.2.toNat) (portCode st) 0
    (setPort p { q1 with st := st, calLane := if st = .up then 7 else q.calLane } s)

/-- This end switches to the lane map that it waits for, and its LANE frame leaves (R501). -/
def laneSwitch (p : Nat) (m : BitVec 12 × BitVec 3) (s : State) : State :=
  takeMap p m (emit (laneOut p { ackWord (portOf s p) with typ := 4 } m.1 m.2) s)

/-- A LANE frame of the peer arrives, with its CRC right or not: its link control word acts, and this end takes the map (R470,
R472, R501). -/
def laneIn (p : Nat) (crcOk : Bool) (l : LinkWord) (m : BitVec 12 × BitVec 3) (s : State) : State :=
  if !chainOk crcOk 4 l then badFrame p s
  else
    let t := takeLink p l s
    if flows (portOf t p) then takeMap p m t else t

/-- The pause of a lane switch is over: unacknowledged frames leave again, and then new ones (R476, R501). -/
def endPause (p : Nat) (s : State) : State :=
  let s1 := modPort p (fun q => { q with pauseTo := 0 }) s
  pump p (if (portOf s1 p).replay = [] then s1 else resend p s1)

/-- The pauses that are over by the ck that follows. -/
def endPauses (s : State) : State :=
  upTo 16 (fun t p =>
    let q := portOf t p
    if q.pauseTo ≠ 0 ∧ q.pauseTo ≤ absCk t + 1 ∧ flows q then endPause p t else t) s

/-- A resent frame is not acknowledged yet: the LANE frame waits (R504). -/
def retryGoing (q : Port) : Bool := q.replay.any fun x => decide (0 < x.2)

/-- A lane-map change waits while resent frames are unacknowledged, where it ends a calibration (R504). -/
def mapWaits (q : Port) : Bool := q.newCal && retryGoing q

/-- LANE_FRAME (R501): this end's change with its own frame, or the peer's. -/
def execLaneFrame (l : LaneIn) (s : State) : Host.Outcome State Fault Refusal :=
  match l with
  | .send p =>
    match (portOf s p.val).newMap with
    | some m => whenOk s (mainUp s && flows (portOf s p.val) && !mapWaits (portOf s p.val)) (laneSwitch p.val m s)
    | none => .next s
  | .recv p h lmap spare =>
    whenOk s (mainUp s && flows (portOf s p.val)) (laneIn p.val (h.crc == laneCrc h.link lmap spare) h.link (lmap, spare) s)

/-- Uncorrectable code words of a lane are counted; at 16 in one tick it has failed (R500). -/
def laneWords (p lane n : Nat) (s : State) : State :=
  let q := portOf s p
  let s1 := setPort p { q with laneUnc := tblMod 0 q.laneUnc lane (· + n) } s
  if 16 ≤ tblGet 0 q.laneUnc lane + n then laneFail p lane s1 else s1

/-- LANE_FAILURE (R500): lost lock, or uncorrectable code words. -/
def execLaneFailure (p : PortN) (e : LaneEvent) (s : State) : Host.Outcome State Fault Refusal :=
  let q := portOf s p.val
  match e with
  | .lost lane => whenOk s (mainUp s && flows q && laneUsed q lane.val) (laneFail p.val lane.val s)
  | .uncorrectable lane n => whenOk s (mainUp s && flows q && laneUsed q lane.val) (laneWords p.val lane.val n s)

/-- The kinds of access that a remote operation is (R479). -/
def opAccess (op : BitVec 8) : Access := if op = opRead then .read else .write

/-- The first buffered request that is not a SIGNAL. -/
def nextRequest (q : Port) : Option RxItem := q.rx.find? fun x => x.f.msg.op != opSignal && x.f.cls != 1

/-- The least free entry of the outstanding table (R480). -/
def freeOut (q : Port) : Option Nat := (List.range 256).find? fun k => (tblGet none q.out k).isNone

/-- An answer goes back as an RSP frame (R480). -/
def sendRsp (p : Nat) (srcNode : BitVec 12) (m : Msg) (s : State) : State :=
  pump p (modPort p (fun q => { q with tx := q.tx ++ [frameOf s srcNode m] }) s)

/-- The error response of a chain sender (R680): class NO_TARGET for the whole request. [DEDUCED: log 79] -/
def refuseRemote (p : Nat) (f : ChainFrame) (s : State) : State :=
  let m := f.msg
  let n := min 8 (reqLen m)
  let r : Msg := { msg0 with
    dst := node f.srcNode.toNat, src := node (nodePort p), addr := m.addr, tag := m.tag
    status := BitVec.ofNat 16 (fullMask n + 256 * 5) }
  let r' : Msg := if m.op = opRead then { r with op := opResp, len := n, data := List.replicate n poisonCode }
    else { r with op := opAck }
  sendRsp p f.srcNode r' s

/-- Consecutive granules at one target go in one message (R334). -/
def joinChain (s : State) (a : Nat × Nat) (acc : List (List (Nat × Nat))) : List (List (Nat × Nat)) :=
  match acc with
  | (b :: l) :: r =>
    if nextAtTarget s a.2 b.2 then (a :: b :: l) :: r else [a] :: (b :: l) :: r
  | r => [a] :: r

/-- A remote request is translated and issued with the port node as its source (R319, R479, R480). -/
def issueRemote (p : Nat) (x : RxItem) (k : Nat) (s : State) : State :=
  let m := x.f.msg
  let facet := p / 2
  let n := if m.op = opPart then 1 else min 8 (reqLen m)
  let xs := (List.range n).map fun i => translate s facet (opAccess m.op) (m.addr.toNat + 32 * i)
  let bad := xs.find? fun y => match y with
    | .ok _ _ => false
    | _ => true
  let s1 := returnCredits p x.f.cls.toNat (blocksOf m)
    (modPort p (fun q => { q with rx := dropFirst (fun y => y.order == x.order) q.rx }) s)
  match bad with
  | some y =>
    let s2 := if y = .invalid then recordAddr 0x17 (blkPort p) m.addr.toNat (blkPort p + 2 * 4096) s1 else s1
    refuseRemote p x.f s2
  | none =>
    let phys := xs.map fun y => match y with
      | .ok a _ => a
      | _ => 0
    let parts := ((List.range n).zip phys).foldr (joinChain s) []
    let e : OutEntry := { srcMod := x.f.srcMod, srcNode := x.f.srcNode, tag := m.tag, op := m.op, addr := m.addr
                          order := x.order, phys := phys, parts := parts.length }
    let s2 := modPort p (fun q => { q with out := tblPut q.out k (some e) }) s1
    parts.foldl (fun t part =>
      let first := nth (0, 0) part 0
      let data := part.map fun y => nth poisonCode m.data y.1
      let dst := (placeNode (placeOf s.mem.splitNow.toNat first.2)).getD 0
      let r : Msg := { m with
        dst := node dst, src := node (nodePort p), addr := BitVec.ofNat 48 first.2, tag := BitVec.ofNat 10 k, stream := 2 }
      sendMsg (if m.op = opRead then { r with aux0 := BitVec.ofNat 32 part.length, aux1 := 0 }
        else { r with len := data.length, data := data }) t) s2

/-- CHAIN_REQUEST_ISSUE (R480), but not in a hold tick (R486). -/
def execChainRequestIssue (p : PortN) (s : State) : Host.Outcome State Fault Refusal :=
  match nextRequest (portOf s p.val), freeOut (portOf s p.val) with
  | some x, some k => whenOk s (mainUp s && !s.clock.hold) (issueRemote p.val x k s)
  | _, _ => .next s

/-- The answer to a request of the outstanding table reaches its port node (R480, R485). -/
def portAnswer (p : Nat) (m : Msg) (s : State) : State :=
  let q := portOf s p
  if m.tag = 1023 ∧ m.op = opAck then
    let w := m.cmask.toNat
    sendRsp p (BitVec.ofNat 12 (bitsOf w 0 12)) { m with tag := BitVec.ofNat 10 (bitsOf w 16 10), src := node (nodePort p) } s
  else
  match tblGet none q.out m.tag.toNat with
  | none => s
  | some e =>
    let idx (j : Nat) : Option Nat := (List.range e.phys.length).find? fun i => nth 0 e.phys i == m.addr.toNat + 32 * j
    let base := (idx 0).getD 0
    let got := ((List.range m.data.length).zip m.data).foldl (fun t x => tblPut t (base + x.1) x.2) e.got
    let low := base + ((List.range 8).find? fun i => bitOf (stPart m) i).getD 0
    let first := decide (stClass m ≠ 0) && (e.cls == 0 || e.pm.toNat % 2 ^ low == 0)
    let e1 : OutEntry := { e with
      parts := e.parts - 1
      got := got
      pm := e.pm ||| BitVec.ofNat 8 (stPart m * 2 ^ base)
      cls := if first then BitVec.ofNat 4 (stClass m) else e.cls }
    if e1.parts ≠ 0 then setPort p { q with out := tblPut q.out m.tag.toNat (some e1) } s
    else
      let s1 := setPort p { q with out := tblDel q.out m.tag.toNat } s
      if e.lost then s1
      else
        let n := e.phys.length
        let data := (List.range n).map fun i => tblGet poisonCode e1.got i
        let r : Msg := { msg0 with
          dst := node e.srcNode.toNat, src := m.src, addr := e.addr, tag := e.tag
          status := BitVec.ofNat 16 (e1.pm.toNat + 256 * e1.cls.toNat) }
        sendRsp p e.srcNode (if e.op = opRead then { r with op := opResp, len := n, data := data } else { r with op := opAck }) s1

/-- A buffered SIGNAL whose earlier writes from the same node have all been acknowledged (R482).
[DEDUCED: log 80] -/
def nextSignal (q : Port) : Option RxItem :=
  q.rx.find? fun x =>
    x.f.msg.op == opSignal &&
    !(q.rx.any fun y => decide (y.order < x.order) && y.f.srcNode == x.f.srcNode && y.f.cls != 1 &&
      y.f.msg.op != opRead && y.f.msg.op != opSignal) &&
    !(q.out.any fun y => match y.2 with
      | some e => decide (e.order < x.order) && e.srcNode == x.f.srcNode && e.op != opRead
      | none => false)

/-- The holder of a clasp that a remote signal names, in this module (R440). -/
def remoteHolder (s : State) (w : Nat) : Option Nat :=
  let live := bitOf s.nutas.reach.toNat (cwOrd w)
  if !indexOk w then none
  else
    match cwScope w with
    | 0 | 1 => if live then some (nodeBead (cwOrd w)) else none
    | 2 => if live then some (nodeXbar (clusterOf (cwOrd w))) else none
    | _ => some nodeLocket

/-- A remote signal is sent to its holder in stream 0x3, with its source and send tick (R457, R479).
[DEDUCED: log 80] -/
def applySignal (p : Nat) (x : RxItem) (s : State) : State :=
  let m := x.f.msg
  let w := m.aux0.toNat
  let s1 := returnCredits p 0 (blocksOf m)
    (modPort p (fun q => { q with rx := dropFirst (fun y => y.order == x.order) q.rx }) s)
  match remoteHolder s w with
  | none => refuseRemote p x.f (recordAddr 0x17 (blkPort p) (w % 2 ^ 29) (blkPort p + 4096) s1)
  | some n =>
    sendMsg { m with
      dst := node n, src := node (nodePort p), stream := 3
      cmask := BitVec.ofNat 64 (x.f.srcNode.toNat + x.f.srcMod.toNat * 2 ^ 12 + m.tag.toNat * 2 ^ 16 + x.f.sendTick.toNat * 2 ^ 26) } s1

/-- CHAIN_SIGNAL_APPLY (R482), but not in a hold tick (R486). -/
def execChainSignalApply (p : PortN) (s : State) : Host.Outcome State Fault Refusal :=
  match nextSignal (portOf s p.val) with
  | some x => whenOk s (mainUp s && !s.clock.hold) (applySignal p.val x s)
  | none => .next s

/-- The seal point (R488), with the window in force. [DEDUCED: log 67] -/
def sealPoint (s : State) : Nat := 16384 - 64 * s.chain.windowNow.toNat
/-- The relay round's ck. -/
def relayPoint (s : State) : Nat := sealPoint s + 32 * s.chain.windowNow.toNat

/-- The timing words that this module sends (R487). -/
def timingWords (s : State) (p : Nat) (relay hold : Bool) : TimingWords :=
  { tick := s.clock.tick + 1, hold := hold, relay := relay, curHold := s.clock.hold, mode := BitVec.ofNat 2 (nextMode s)
    refMod := s.chain.ref, aligned := s.chain.aligned, forming := s.chain.forming, sendCk := BitVec.ofNat 14 s.clock.ck
    echoCk := BitVec.ofNat 14 (portOf s p).firstCk, echoV := (portOf s p).gotFirst, window := s.chain.windowNow }

/-- A round of timing frames on every reachable port. [DEDUCED: log 67] -/
def sendRound (relay hold : Bool) (s : State) : State :=
  (reachable s).foldl (fun t p => emit (timingOut p { ackWord (portOf s p) with typ := 2 } (timingWords s p relay hold)) t) s

/-- TIMING_FIRST_ROUND (R488, R494): at the seal point. -/
def execTimingFirstRound (s : State) : Host.Outcome State Fault Refusal :=
  let v := ownVerdict s
  let s1 := sendRound false v s
  whenOk s (mainUp s && decide (sealPoint s ≤ s.clock.ck) && !s.chain.sealed_)
    { s1 with chain := { s1.chain with
        sealed_ := true
        verdict := v
        sealFirst := BitVec.ofNat 10 (nth 0 (incomplete s) 0)
        sealCount := BitVec.ofNat 11 (incomplete s).length } }

/-- A first-round HOLD has been received. -/
def anyHold (s : State) : Bool := (reachable s).any fun p => (portOf s p).voteHold

/-- TIMING_RELAY_ROUND (R488). -/
def execTimingRelayRound (s : State) : Host.Outcome State Fault Refusal :=
  let s1 := sendRound true (s.chain.verdict || anyHold s) s
  whenOk s (mainUp s && decide (relayPoint s ≤ s.clock.ck) && s.chain.sealed_ && !s.chain.relayed)
    { s1 with chain := { s1.chain with relayed := true } }

/-- A signed number in 16 bits, saturating at ±32,767 (R505). -/
def sat16 (v : Int) : BitVec 16 := BitVec.ofInt 16 (max (-32767) (min 32767 v))

/-- The record of lost alignment (R491, R684). -/
def alignLost (theta : BitVec 16) (tick dec : Bool) (s : State) : State :=
  let s1 := hubRaise 128 (recordAt 0x10 blkLocket (theta.toNat + b2n tick * 2 ^ 16 + b2n dec * 2 ^ 17) s)
  endService 0x10 { s1 with chain := { s1.chain with aligned := false, alignRun := 0 } }

/-- A peer votes to hold the tick after this one (R495). -/
def votes (s : State) (w : TimingWords) : Bool := w.hold && w.tick == s.clock.tick + 1

/-- A first-round frame (R490, R492, R497). -/
def firstRound (p : Nat) (w : TimingWords) (s : State) : State :=
  let q := portOf s p
  let theta : Int := (s.clock.ck : Int) - sealPoint s - q.delay.toNat
  let s1 := setPort p { q with
    gotFirst := true
    firstCk := s.clock.ck
    voteHold := q.voteHold || votes s w
    peerAligned := w.aligned
    peerRef := w.refMod
    peerTick := w.tick
    peerMode := w.mode
    peerWindow := some w.window
    offset := sat16 theta } s
  let sched := decide (s.clock.mode = .scheduled)
  let differs := w.tick == s.clock.tick + 1 && (w.curHold != s.clock.hold || w.mode.toNat != nextMode s)
  let other := w.tick != s.clock.tick + 1 && q.peer == s.chain.ref && !s.chain.isRef
  if sched && differs then alignLost (sat16 theta) false true s1
  else if sched && other then alignLost (sat16 theta) true false s1
  else s1

/-- A relay-round frame (R488, R490), whose sender reports what it follows as in the first round (R489).
[DEDUCED: log 67] -/
def relayRound (p : Nat) (w : TimingWords) (s : State) : State :=
  let q := portOf s p
  let d2 : Int := ((s.clock.ck : Int) - sealPoint s) - ((relayPoint s : Int) - w.echoCk.toNat)
  setPort p { q with
    gotRelay := true
    relayHold := q.relayHold || votes s w
    peerAligned := w.aligned
    peerRef := w.refMod
    peerTick := w.tick
    peerMode := w.mode
    peerWindow := some w.window
    delay := if w.echoV then BitVec.ofNat 16 (d2 / 2).toNat else q.delay } s

/-- A timing frame arrives, with its CRC right or not: its link control word acts as in any frame; one that does not arrive
intact is lost (R470, R472, R487). -/
def timingIn (p : Nat) (crcOk : Bool) (l : LinkWord) (w : TimingWords) (s : State) : State :=
  if !chainOk crcOk 2 l || w.reserved != 0 then badFrame p s
  else takeLink p l (noteWindows (if w.relay then relayRound p w s else firstRound p w s))

/-- TIMING_FRAME (R487). -/
def execTimingFrame (p : PortN) (h : FrameHead) (w : TimingWords) (s : State) : Host.Outcome State Fault Refusal :=
  whenOk s (mainUp s && flows (portOf s p.val)) (timingIn p.val (h.crc == timingCrc h.link w) h.link w s)

/-- A peer has been heard in this tick. -/
def heard (q : Port) : Bool := q.gotFirst || q.gotRelay

/-- A peer's vote, or its silence, holds the next tick (R495, R496). -/
def holdsNext (q : Port) : Bool := q.voteHold || q.relayHold || !heard q

/-- The decision of the locket to hold the next tick (R495, R496): its own verdict, a vote received, or a peer not heard. -/
def peerHold (s : State) : Bool := (reachable s).any fun p => holdsNext (portOf s p)

/-- Peers not heard in the tick are counted (R496). -/
def countLost (s : State) : State :=
  (reachable s).foldl (fun t p => if !heard (portOf t p)
    then modPort p (fun q => { q with tlost := satInc q.tlost }) t else t) s

/-- The reference that the module follows (R489): the one that a peer reporting ALIGNED names, else the least number. -/
def refChoice (s : State) : Nat × Bool :=
  match (reachable s).find? fun p => heard (portOf s p) && (portOf s p).peerAligned with
  | some p => ((portOf s p).peerRef.toNat, false)
  | none => ((reachable s).foldl (fun a p => min a (portOf s p).peer.toNat) s.chain.num.toNat, true)

/-- Alignment at a boundary (R489 to R492, R499): the reference, the run of ticks within 16 ck, and the number that the
next tick takes at least. -/
def alignTick (s : State) : State × Nat :=
  if !s.chain.numv then (noteWindows s, 0)
  else
    let c := s.chain
    let ps := reachable s
    let r := refChoice s
    let isRef := r.1 == c.num.toNat
    let mis := windowsDiffer s
    let port := ps.find? fun p => (portOf s p).peer.toNat == r.1 && (portOf s p).gotFirst
    let theta := match port with
      | some p => (portOf s p).offset
      | none => 0
    let run := if isRef || mis || port.isNone || 16 < theta.toInt.natAbs then 0 else c.alignRun + 1
    let lose := c.aligned && (mis || decide (64 < theta.toInt.natAbs))
    let sched := decide (s.clock.mode = .scheduled)
    let refPort := ps.find? fun p => (portOf s p).peer.toNat == r.1 && heard (portOf s p)
    let refTick := match refPort with
      | some p => (portOf s p).peerTick.toNat
      | none => 0
    let refSched := match refPort with
      | some p => decide ((portOf s p).peerMode = 2)
      | none => false
    let ahead := c.ahead || (!isRef && !sched && refSched && decide (refTick < s.clock.tick.toNat + 1) && refPort.isSome)
    let s1 : State := { s with chain := { c with
      ref := BitVec.ofNat 4 r.1
      forming := r.2
      isRef := isRef
      winMis := mis
      offset := if isRef then 0 else theta
      alignRun := run
      ahead := ahead
      aligned := !isRef && !ahead && !lose && (c.aligned || decide (4 ≤ run)) } }
    let s2 := if lose then alignLost theta false false s1 else s1
    let step := if sched then 0
      else if isRef && r.2 then ps.foldl (fun a p => if heard (portOf s p) then max a (portOf s p).peerTick.toNat else a) 0
      else if isRef then 0 else refTick
    (s2, step)

/-- What a port has heard in a tick is over with it (R488, R500). -/
def freshTick (q : Port) : Port :=
  { q with gotFirst := false, gotRelay := false, voteHold := false, relayHold := false, laneUnc := [] }

/-- A new tick starts for board timing. -/
def timingClear (s : State) : State :=
  noteWindows { s with chain := { s.chain with
      sealed_ := false
      verdict := false
      sealFirst := 0
      sealCount := 0
      relayed := false
      windowNow := if s.clock.mode = .scheduled then s.chain.windowNow else s.chain.window
      ports := s.chain.ports.map fun x => (x.1, freshTick x.2) } }

/-- Ports that calibrate (R503). -/
def calibrating (s : State) : Nat := countIf (fun p => (portOf s p).cal) (List.range 16)

/-- The lane that a calibration is for: the spare, or in a DEGRADED port the one whose calibration was abandoned (R503, R504);
7 with none. -/
def calTarget (q : Port) : BitVec 3 := if q.spare = 7 then q.calLane else q.spare

/-- A calibration of a port's spare lane can start (R503, R504), but not in a handover tick (R730). -/
def canCalibrate (s : State) (p : Nat) : Bool :=
  let q := portOf s p
  flows q && !q.cal && !handing s && calTarget q != 7 && q.newMap.isNone && decide (calibrating s < max 1 s.chain.maxPar.toNat)

/-- CHN_CAL_GO (R509): ignored while a GO calibration runs or the port calibrates. -/
def calGo (p : Nat) (s : State) : State :=
  let s1 : State := { s with chain := { s.chain with calPort := BitVec.ofNat 4 p } }
  if (List.range 16).any (fun k => (portOf s k).calGo) || !canCalibrate s p then s1
  else modPort p (fun q => { q with cal := true, calGo := true }) s1

def execChnCalGo (m : Master) (port : PortN) (s : State) : Host.Outcome State Fault Refusal :=
  .next (regWriteRow m offChnCal (calGo port.val) s)

/-- PERIOD seconds have passed since a port's last rotation, or it has had none (R503, R509).
[DESIGN CHOICE: log 25] -/
def rotationDue (s : State) (q : Port) : Bool :=
  q.calTick == 0 || decide (q.calTick - 1 + ticksOf s.chain.calPeriod.toNat ≤ s.clock.tick.toNat)

/-- CHAIN_CALIBRATION_ROTATION (R503). -/
def execChainCalibrationRotation (p : PortN) (s : State) : Host.Outcome State Fault Refusal :=
  whenOk s (mainUp s && s.chain.calAuto && canCalibrate s p.val && rotationDue s (portOf s p.val))
    (modPort p.val (fun q => { q with cal := true, calTick := s.clock.tick.toNat + 1 }) s)

/-- A calibration ends (R503, R504): the calibrated lane takes the place of the working lane calibrated longest ago, or
of the lane that a DEGRADED port has lost. -/
def calDone (q : Port) : Port :=
  let sp := (calTarget q).toNat
  let work := workLanes q
  let q1 : Port := { q with cal := false, calGo := false, calOrder := (q.calOrder.filter fun l => l != sp) ++ [sp] }
  if q.st = .degraded then { q1 with newMap := some (mapOf (work.take 3 ++ [sp]), 7), newCal := true }
  else
    match q.calOrder.find? fun l => work.contains l with
    | some old =>
      { q1 with
        newMap := some (mapOf ((mapLanes q.lmap).map fun l => if l = old then sp else l), BitVec.ofNat 3 old)
        newCal := true }
    | none => q1

/-- CHAIN_CALIBRATION_DONE (R503). -/
def execChainCalibrationDone (p : PortN) (s : State) : Host.Outcome State Fault Refusal :=
  whenOk s (mainUp s && (portOf s p.val).cal) (modPort p.val calDone s)

/-- CHN_TIMING as it reads (R508). -/
def chnTiming (c : Chain) : Word := BitVec.ofNat 64 (c.window.toNat + c.rspTmo.toNat * 256)

/-- The largest delay measured (R498). -/
def maxDelay (s : State) : Nat := (reachable s).foldl (fun a p => max a (portOf s p).delay.toNat) 0

/-- A write of CHN_TIMING (R498, R508): a WINDOW that a measured delay does not fit is ignored and recorded, another outside
4 to 63 is ignored. [DEDUCED: log 79] -/
def chnTimingSet (w : Width) (v : Word) (s : State) : State :=
  let x := (wrWidth w (chnTiming s.chain) v).toNat
  let win := bitsOf x 0 6
  let s1 : State := { s with chain := { s.chain with rspTmo := BitVec.ofNat 4 (bitsOf x 8 4) } }
  if w = .high then s
  else if maxDelay s ≠ 0 ∧ 32 * win < maxDelay s + 64 then forbidden offChnTiming s1
  else if win < 4 then s1
  else { s1 with chain := { s1.chain with window := BitVec.ofNat 6 win } }

/-- CHN_TIMING_WRITE (R498). -/
def execChnTimingWrite (m : Master) (w : Width) (v : Word) (s : State) : Host.Outcome State Fault Refusal :=
  .next (regWriteRow m offChnTiming (chnTimingSet w v) s)

/-- CHN_ERR_STAT of a port (R510). -/
def chnErrStat (q : Port) : Word :=
  BitVec.ofNat 64 (q.crcErr.toNat + q.resent.toNat * 2 ^ 16 + q.laneSw.toNat * 2 ^ 32 + q.tlost.toNat * 2 ^ 40 +
    q.granErr.toNat * 2 ^ 48)

/-- CHN_ERR_STAT after a read. -/
def chnErrClear (w : Width) (q : Port) : Port :=
  { q with
    crcErr := rc w 15 0 q.crcErr 0
    resent := rc w 31 16 q.resent 0
    laneSw := rc w 39 32 q.laneSw 0
    tlost := rc w 47 40 q.tlost 0
    granErr := rc w 63 48 q.granErr 0 }

/-- Offset of a port's CHN_ERR_STAT. -/
def offChnErr (p : Nat) : Nat := 0x0A0200 + 8 * p

/-- CHN_ERR_STAT_READ (R510). -/
def execChnErrStatRead (p : PortN) (w : Width) (s : State) : Host.Outcome State Fault Refusal :=
  .next (regReadRow (offChnErr p.val) w (chnErrStat (portOf s p.val)) (modPort p.val (chnErrClear w)) s)

/-- The four ports of a chain shell lose light (R789, R791). -/
def shellOut (k : Nat) (s : State) : State :=
  upTo 4 (fun t i =>
    let st := (portOf t (4 * k + i)).st
    if st = .dark ∨ st = .down then t else portDown (4 * k + i) t) s

/-- The management lane goes down (R624). -/
def mgmtDown (s : State) : State := { s with mgmt := { s.mgmt with up := false } }

/-- CHAIN_SHELL_REMOVAL (R791). -/
def execChainShellRemoval (sh : Shell) (s : State) : Host.Outcome State Fault Refusal :=
  match sh with
  | .chain k => whenOk s (mainUp s) (shellOut k.val s)
  | .management => whenOk s s.standby.standby (mgmtDown s)

end Sys2Proof.Machine
end

