-- ==== Sys2Proof/Machine/Loads.lean ====
section
/-! DEFINITION. Loads into the shadow banks and the commands that ask for them: BIND, UNBIND, LOAD_PROGRAM, RUN and STOP
(chapters 8, 17 and 22). -/

namespace Sys2Proof.Machine

def modPlan (f : Plan → Plan) (s : State) : State := modNutas (fun n => { n with plan := f n.plan }) s

/-- Granules that the locket may have loaded up to the present ck of a tick: in arbitrated mode one VC0 flit per 8 ck, 2,048 in a
tick (R614), in scheduled mode its slots of stream 0x2 (R427). [DEDUCED: log 57] -/
def loadRate (s : State) : Nat :=
  if s.clock.mode = .scheduled then countIf (fun ck => decide (ck ≤ s.clock.ck)) (cksOf2 s nodeLocket) else s.clock.ck / 8 + 1

/-- A load joins those under way. [DEDUCED: log 57] -/
def addLoad (l : Load) (s : State) : State := modNutas (fun n => { n with loads := n.loads ++ [l] }) s

/-! ### Translation stores -/

/-- Commands that wait complete. -/
def completeWaits (p : Waits → Option Nat) (status : Nat) (r1 : Word) (s : State) : State :=
  let nums := s.nutas.waits.filterMap p
  nums.foldl (fun t k => complete k status 0 r1 t) (dropWait (fun w => (p w).isSome) s)

/-- A translation-store swap is armed (R26, R27). [DEDUCED: log 54] -/
def armTs (s : State) : State := { s with mmu := { s.mmu with swapDue := some (armDue s) } }

/-- Granules of the entries that two translation-store banks hold differently, four entries to a granule (R427).
[DEDUCED: log 54] -/
def bankGranules (old new : Tbl Word) : Nat :=
  let changed := (new.filter fun p => tblGet 0 old p.1 != p.2) ++ (old.filter fun p => tblGet 0 new p.1 != p.2)
  (changed.map fun p => p.1 / 4).dedup.length

/-- A load of changed tables into the shadow bank is under way. -/
def storesLoading (s : State) : Bool := s.nutas.loads.any fun l => l.what == .stores

/-- The MAPs and UNMAPs whose change has swapped in and is now written into the new shadow bank (R604). -/
def mirrored (s : State) : List Nat := s.nutas.loads.flatMap fun l =>
  match l.what with
  | .mirror nums _ => nums
  | _ => []

/-! ### Cohorts -/

/-- The cohort view that the table gives (R289, R290): the BOUND and PENDING entries. [DEDUCED: log 56] -/
def viewOf (s : State) : Tbl (BitVec 16) :=
  (s.nutas.cohorts.filter fun p => p.2.st == 1 || p.2.st == 2).map fun p =>
    (p.1, BitVec.ofNat 16 (1 + 2 * p.2.slot.toNat + 16 * p.2.gw.toNat + 64 * p.2.pave.toNat))

def cohortOf (s : State) (a : Nat) : Cohort := tblGet {} s.nutas.cohorts a
def setCohort (a : Nat) (c : Cohort) (s : State) : State := modNutas (fun n => { n with cohorts := tblSet {} n.cohorts a c }) s

/-- The group width that a rank fixes (R286), as the code of GW. -/
def rankWidth (rank : Nat) : Nat := if rank ≤ 8 then 0 else if rank ≤ 16 then 1 else if rank ≤ 32 then 2 else 3

/-- A binding that R287 refuses. -/
def bindRefused (s : State) (aid gw slot rank pave : Nat) : Bool :=
  gw != rankWidth rank || decide (8 / 2 ^ gw ≤ slot) ||
  s.nutas.cohorts.any fun p => p.1 != aid && (p.2.st == 1 || p.2.st == 2) && p.2.pave.toNat == pave && p.2.slot.toNat == slot

/-- Granules of a cohort view for the whole module (R727). -/
def viewGranules : Nat := 37376

/-- BIND (R287, R290, R610). [DEDUCED: log 56] -/
def execBind (k : Nat) (s : State) : Host.Outcome State Fault Refusal :=
  command 0x30 k
    ([(24, 0xFF), (25, 1), (26, 0x1F), (28, 0xFF), (29, 1), (30, 0xFF), (31, 1)] ++ bytesMask 32 14)
    (fun c _ => [(28, decide (1 ≤ entryNum c.entry 28 2) && decide (entryNum c.entry 28 2 ≤ 256))]) noBuf
    (fun c t =>
      let aid := entryNum c.entry 24 2
      let gw := bitsOf (entryByte c.entry 26) 0 2
      let slot := bitsOf (entryByte c.entry 26) 2 3
      let rank := entryNum c.entry 28 2
      let pave := entryNum c.entry 30 2
      if (cohortOf t aid).st ≠ 0 ∨ bindRefused t aid gw slot rank pave then .done stCohortConflict 0 0 t
      else .wait (waitFor (.view k aid true) (addLoad ⟨.view, viewGranules⟩ (setCohort aid
        { st := 2, gw := BitVec.ofNat 2 gw, slot := BitVec.ofNat 3 slot, rank := BitVec.ofNat 9 rank
          pave := BitVec.ofNat 9 pave, setTag := BitVec.ofNat 64 (entryNum c.entry 32 8)
          pbase := BitVec.ofNat 48 (entryNum c.entry 40 6) } t)))) s

/-- An unbinding that R292 refuses. [DESIGN CHOICE: log 23] -/
def unbindRefused (s : State) (aid : Nat) : Bool :=
  let c := cohortOf s aid
  (c.slot == 0 && s.nutas.cohorts.any fun p => p.1 != aid && (p.2.st == 1 || p.2.st == 2) && p.2.pave == c.pave) ||
  s.bezels.any fun z => z.2.recs.any fun r => r.2.st == .open_ && Config.trains aid (65536 * z.1 + r.1)

/-- UNBIND (R292, R610). [DEDUCED: log 56] -/
def execUnbind (k : Nat) (s : State) : Host.Outcome State Fault Refusal :=
  command 0x31 k [(24, 0xFF), (25, 1)]
    (fun c t => [(24, (cohortOf t (entryNum c.entry 24 2 % 512)).st == 1)]) noBuf
    (fun c t =>
      let aid := entryNum c.entry 24 2
      if unbindRefused t aid then .done stCohortBusy 0 0 t
      else .wait (waitFor (.view k aid false) (addLoad ⟨.view, viewGranules⟩
        (setCohort aid { cohortOf t aid with st := 3 } t)))) s

/-! ### Instruction images -/

/-- The bytes of an instruction-memory bank: the monitor in the first 4 KiB, the code behind it (R46, R606). -/
def codeTable (code : List Byte) : Tbl Byte :=
  let l := (List.range 4096).map Config.monitor ++ code
  ((List.range l.length).zip l).filter fun p => p.2 != 0

/-- The start bits and entries of an image, by hart. -/
def entryTable (l : List Nat) : Tbl (BitVec 16) :=
  (List.range 4).foldl (fun t h => tblSet 0 t h (BitVec.ofNat 16 (nth 0 l h))) []

/-- The bank that an image loads. [DESIGN CHOICE: log 21] -/
def bankOfImage (i : Image) : IBank := { code := codeTable i.code, entry := entryTable i.entry }

/-- The hart of an image that is swapped in (R67): one whose start bit is 1 begins at its entry address, any other stops;
program counter, trap registers with the queue-fault enable, and any pending trap are discarded. The rule names neither TCFG
nor TILE_RESUME_ROW: they stay. [DESIGN CHOICE: log 2, 4, 92] -/
def startHart (b : IBank) (h : Nat) (t : Hart) : Hart :=
  let e := (tblGet 0 b.entry h).toNat
  let t1 : Hart := { t with
    mstatus := 0, mtvec := 0, mscratch := 0, mepc := 0, mcause := 0, mtval := 0, qfie := false, hold := .none }
  if bitOf e 0 then { t1 with pc := BitVec.ofNat 64 (e / 2 * 2), run := .running, userMode := true }
  else { t1 with pc := 0, run := .stopped }

/-- The banks of a bead swap (R65, R67). [DESIGN CHOICE: log 2] -/
def swapBead (b : Bead) : Bead :=
  { b with
    active := b.shadow
    shadow := b.active
    swapDue := none
    harts := (List.range 4).foldl (fun t h => tblSet {} t h (startHart b.shadow h (tblGet {} b.harts h))) [] }

/-- The live ordinals of a range. [DEDUCED: log 58] -/
def liveIn (s : State) (first last : Nat) : List Nat :=
  (List.range 1024).filter fun o => decide (first ≤ o) && decide (o ≤ last) && ordLive s o

/-! ### Settings -/

/-- The ordinals that some bead answers: the reach mask (R441). -/
def reachNow (s : State) : BitVec 1024 := BitVec.ofNat 1024 (((List.range 1024).filter (ordLive s)).map fun o => 2 ^ o).sum

/-- The check words that a setting gives, by clasp key (R452). -/
def checkTable (s : State) (base : Nat) : Tbl Word32 :=
  let put (k0 n : Nat) (f : Nat → Nat) : Tbl Word32 :=
    (((List.range n).map fun i => (k0 + i, BitVec.ofNat 32 (f i))).filter fun p => p.2 != 0)
  put 0 65536 (fun i => beadCheckWord s base (i / 64) (i % 64)) ++
  put 65536 8192 (fun i => clusterCheckWord s base (i / 256) (i % 256)) ++
  put 131072 4096 (fun i => moduleCheckWord s base i)

/-- Two check tables differ on `n` keys from one on. -/
def checksDiffer (a b : Tbl Word32) (k0 n : Nat) : Bool := (List.range n).any fun i => tblGet 0 a (k0 + i) != tblGet 0 b (k0 + i)

/-- The bank that a setting gives a bead; none for the image in force (R606). -/
def settingBank (s : State) (b : Bundle) (base o : Nat) : Option IBank :=
  let v := imageNum s base o
  if v = 0xFFFF then none else some (bankOfImage (imageAt s b v))

/-- A bead needs its image loaded: its shadow bank does not hold it (R726). [DEDUCED: log 57] -/
def needsImage (s : State) (o : Nat) (bank : Option IBank) : Bool :=
  match bank with
  | none => false
  | some k => decide ((beadOf s o).shadow ≠ k)

/-- Granules of the load of a setting (R726, R727). -/
def loadGranules (s : State) (b : Bundle) (n : Nat) : Nat :=
  let base := settingBase b n
  let live := (List.range 1024).filter (ordLive s)
  let chk := checkTable s base
  ((List.range 1152).map fun r =>
    let i := routerImage s base r
    if tblGet {} s.fabric.shadow r = i then 0 else 1 + (i.count + 1) / 2).sum +
  (live.map fun o =>
    (if needsImage s o (settingBank s b base o) then 2048 else 0) +
    (if checksDiffer chk s.clasps.checkShadow (64 * o) 64 then 8 else 0) +
    (if s.nutas.reachShadow = reachNow s then 0 else 4)).sum +
  ((List.range 32).map fun c => if checksDiffer chk s.clasps.checkShadow (65536 + 256 * c) 256 then 32 else 0).sum

/-- The schedule entry of a plan's step (R612). -/
def planEntry (s : State) (b : Bundle) (k : Nat) : Nat := schedEntry s b (s.nutas.plan.first + k)

/-- The first step after `k` whose setting is another one, within the plan. -/
def nextChange (s : State) (b : Bundle) (k : Nat) : Option Nat :=
  let p := s.nutas.plan
  ((List.range b.ntick).map fun i => k + 1 + i).find? fun j =>
    (p.nticks == 0 || decide (j < p.nticks)) && schedSetting (planEntry s b j) != schedSetting (planEntry s b k)

/-- The position of the first part of a setting that reads as poisoned or lost (R608). -/
def settingPoison (s : State) (base : Nat) : Option Nat :=
  let bad (a n : Nat) : Bool := (locketBad s a n).isSome
  match firstRouter fun r => bad (base + r * routerImgLen) (32 + 16 * min 2048 (routerImage s base r).count) with
  | some r => some r
  | none =>
    match (List.range 1024).find? fun o => bad (base + offBeadCheck + 256 * o) 256 ||
        bad ((base + offImageNums + 2 * o) / 32 * 32) 32 with
    | some o => some (posOfOrd o)
    | none =>
      match (List.range 32).find? fun c => bad (base + offClusterCheck + 1024 * c) 1024 with
      | some c => some (nodeRouter (nodeXbar c))
      | none => if bad (base + offModuleCheck) 16384 then some (nodeRouter nodeLocket) else none

/-- The bead whose image in a setting reads as poisoned or lost. -/
def imagePoison (s : State) (b : Bundle) (base : Nat) : Option Nat :=
  ((List.range 1024).find? fun o =>
    let v := imageNum s base o
    ordLive s o && v != 0xFFFF && (locketBad s (b.addr + b.imgOff + 65536 * v) 61504).isSome).map posOfOrd

/-- The bezels count what Nutas reads of a setting: its granules, and those of the images that it names (R399, R400). -/
def settingLook (s : State) (b : Bundle) (base : Nat) (t : State) : State :=
  let imgs := (((List.range 1024).filter (ordLive s)).map (imageNum s base)).dedup.filter fun v => v != 0xFFFF
  imgs.foldl (fun u v => locketLook (b.addr + b.imgOff + 65536 * v) 61504 u) (locketLook base settingLen t)

/-- The bezels count the granule of a schedule entry that Nutas reads (R399). -/
def schedLook (b : Bundle) (k : Nat) (s : State) : State :=
  locketLook ((b.addr + b.schedOff + 8 * (k % max 1 b.ntick)) / 32 * 32) 32 s

/-- The plan is given up: its loads stop, and the fabric does not enter scheduled mode. -/
def clearPlan (s : State) : State :=
  let s1 := modNutas (fun n => { n with
    plan := {}
    loads := n.loads.filter fun l => match l.what with
      | .step _ => false
      | _ => true }) s
  { s1 with clock := { s1.clock with quiet := false } }

/-- A setting that reads as poisoned ends the plan (R608, R684). -/
def settingFault (n pos : Nat) (s : State) : State :=
  let s1 := recordAt 0x18 blkLocket (n + 4096 * pos) { s with fabric := { s.fabric with shadowId := 0 } }
  if s.clock.mode = .scheduled then endService 0x18 s1
  else complete s.nutas.plan.num stEndedFault 0 0 (clearPlan s1)

/-- Where the setting of step `k` lies. -/
def stepBase (s : State) (b : Bundle) (k : Nat) : Nat := settingBase b (schedSetting (planEntry s b k))

/-- The shadow stores take the setting of step `k`, read as `s` holds it, and the swap is armed. -/
def fillShadows (k : Nat) (b : Bundle) (s t : State) : State :=
  let s1 : State := { t with
    fabric := { t.fabric with
      shadow := (((List.range 1152).map fun r => (r, routerImage s (stepBase s b k) r)).filter fun p => decide (p.2 ≠ {}))
      shadowId := (routerImage s (stepBase s b k) 0).settingId }
    clasps := { t.clasps with checkShadow := checkTable s (stepBase s b k) }
    nutas := { t.nutas with reachShadow := reachNow s } }
  let s2 := ((List.range 1024).filter (ordLive s)).foldl (fun t o =>
    match settingBank s b (stepBase s b k) o with
    | some bank => if needsImage t o (some bank) then modBead o (fun x => { x with shadow := bank }) t else t
    | none => t) s1
  modPlan (fun p => { p with ready := some (k, armDue s) }) s2

/-- A setting goes into the shadow stores, or its poisoned granule ends the load. -/
def loadSetting (k : Nat) (b : Bundle) (bad : Option Nat) (s t : State) : State :=
  match bad with
  | some pos => settingFault (schedSetting (planEntry s b k)) pos t
  | none => fillShadows k b s t

/-- The contents of a setting written into the shadow banks, verified, and the swap armed for its step (R26, R726). -/
def writeSetting (k : Nat) (s : State) : State :=
  match bundleOf s s.nutas.plan.slot with
  | none => s
  | some b =>
    loadSetting k b (settingPoison s (stepBase s b k) <|> imagePoison s b (stepBase s b k)) s
      (settingLook s b (stepBase s b k) s)

/-- A load that has been written and verified arms its swap (R26), but no further setting of a plan that ends (R616); one
that brings the other bank into step completes its commands (R604). [DESIGN CHOICE: log 2; DEDUCED: log 54, 57] -/
def finishLoad (l : Load) (s : State) : State :=
  match l.what with
  | .step k => if s.clock.leaving then s else writeSetting k s
  | .view => modNutas (fun n => { n with viewShadow := viewOf s, viewDue := some (armDue s) }) s
  | .program _ first last entry code =>
    (liveIn s first last).foldl (fun t o =>
      modBead o (fun b => { b with shadow := { code := codeTable code, entry := entry }, swapDue := some (armDue s) }) t) s
  | .stores => if storesLoading s then s else armTs s
  | .mirror nums tick =>
    completeWaits (fun w => match w with
      | .map n => if n ∈ nums then some n else none
      | _ => none) stOk (tick.setWidth 64) s

/-- Loads with nothing left to write are finished, oldest first. [DEDUCED: log 57] -/
def finishLoads (s : State) : State :=
  upTo s.nutas.loads.length (fun t _ =>
    match t.nutas.loads with
    | [] => t
    | l :: r => if l.left = 0 then finishLoad l (modNutas (fun n => { n with loads := r }) t) else t) s

/-- Changed tables begin to go into the shadow bank of the translation store; no swap is armed until all of them stand there
(R26, R325, R427). [DEDUCED: log 54] -/
def loadStores (bank : Tbl Word) (s : State) : State :=
  finishLoads (addLoad ⟨.stores, bankGranules s.mmu.shadow bank⟩
    { s with mmu := { s.mmu with shadow := bank, swapDue := none } })

/-- LOAD_PROGRAM once its buffer's first 64 bytes (`head`) and the whole image (`u`) have been read.
[DESIGN CHOICE: log 2] -/
def loadProgram (k first last : Nat) (head u : List Byte × Option Nat × State) (t : State) : CmdEnd :=
  let img := imageOfBytes u.1
  let live := liveIn t first last
  if t.clock.mode ≠ .arbitrated then .done stPlanRunning 0 0 t
  else if live = [] then .done stInvalidTarget 0 0 (invalidTarget (posOfOrd first) t)
  else
    match head.2.1, u.2.1 with
    | some off, _ => .done stMemFault 0 (BitVec.ofNat 64 off) head.2.2
    | none, some off => .done stMemFault 0 (BitVec.ofNat 64 off) u.2.2
    | none, none =>
      let g := countIf (fun o => decide ((beadOf u.2.2 o).shadow ≠ bankOfImage img)) live
      .wait (waitFor (.program k first last) (finishLoads (addLoad
        ⟨.program k first last (entryTable img.entry) img.code, 2048 * g⟩ u.2.2)))

/-- What the header of an image in a buffer shows of the command's form (R597, R598, R606): a field out of range, or a LEN that is
too small for the image. -/
def imageForm (s : State) (b : Buf) (buf : List Byte) : Option (Nat × Word) :=
  let head := bufRead s b 64 buf
  match head.2.1, imageBad (imageOfBytes head.1) with
  | some _, _ => none
  | none, some off => some (stBadField, BitVec.ofNat 64 off)
  | none, none => if b.len < 64 + cutNum head.1 0 4 then some (stBadBuffer, 0) else none

/-- LOAD_PROGRAM (R609): served in arbitrated mode; the shadow bank of every active bead of the range is loaded where it
differs. [DEDUCED: log 58] -/
def execLoadProgram (k : Nat) (buf : List Byte) (s : State) : Host.Outcome State Fault Refusal :=
  commandWith 0x22 k (bufMaskAll ++ bytesMask 24 4)
    (fun c _ => [(24, decide (entryNum c.entry 24 2 < 1024)), (26, decide (entryNum c.entry 26 2 < 1024))])
    (fun _ => some 64) (fun c t => imageForm t (bufOf c.entry) buf)
    (fun c t =>
      let b := bufOf c.entry
      let head := bufRead t b 64 buf
      loadProgram k (entryNum c.entry 24 2) (entryNum c.entry 26 2) head
        (bufRead t b (64 + cutNum head.1 0 4) buf) t) s

/-- The load of a step's setting begins: no verified setting stands in the shadow banks then (R428). -/
def beginStepLoad (b : Bundle) (k : Nat) (s : State) : State :=
  let s1 := schedLook b (s.nutas.plan.first + k) s
  finishLoads (addLoad ⟨.step k, loadGranules s b (schedSetting (planEntry s b k))⟩
    (modPlan (fun p => { p with next := some k }) { s1 with fabric := { s1.fabric with shadowId := 0 } }))

/-- SHADOW_LOAD (R613, R614, R728): granules of the oldest load written, at the rate of the mode.
[DEDUCED: log 57] -/
def execShadowLoad (granules : Nat) (s : State) : Host.Outcome State Fault Refusal :=
  match s.nutas.loads with
  | [] => .next s
  | l :: r =>
    whenOk s (mainUp s && !handing s && !s.clock.quiet && decide (1 ≤ granules) && decide (granules ≤ l.left) &&
        decide (s.nutas.loadedNow + granules ≤ loadRate s))
      (finishLoads (modNutas (fun n => { n with
        loads := { l with left := l.left - granules } :: r
        loadedNow := n.loadedNow + granules }) s))

/-! ### RUN and STOP -/

/-- The port map of a bundle equals the map in force, and it uses no port that another stands in for (R467, R605, R612).
[DEDUCED: log 55] -/
def portMapOk (s : State) (b : Bundle) : Bool :=
  (List.range 16).all fun p =>
    let v := bitsOf b.portmap.toNat (8 * p) 8
    let q := portOf s p
    !(bitOf v 4 && replaced s p) && bitsOf v 0 4 == (if q.rehomed then q.peer.toNat else p) && bitOf v 5 == q.rehomed

/-- A string that a bundle marks and that has lost its express bead (R87): 16 x facet + string.
[DESIGN CHOICE: log 97] -/
def expressLost (s : State) (b : Bundle) : Option Nat :=
  (List.range 128).find? fun i => bitOf b.express.toNat i && posState s (posIdx (i / 16) (i % 16) 0) != 0

/-- The bezels count what Nutas reads of a bundle's settings for the endpoint check (R399, R612). -/
def endsLook (b : Bundle) (s : State) : State :=
  upTo b.nset (fun t n => locketLook (settingBase b n) (1152 * routerImgLen) t) s

/-- The checks of RUN (R612), in order: status and result, with the router whose endpoint check failed. They are made when RUN
is taken: a plan that then waits is not checked again for an express bead it loses (R87).
[DEDUCED: log 61; DESIGN CHOICE: log 100] -/
def runBad (s : State) (slot start first : Nat) : Option (Nat × Word × Option Nat) :=
  match bundleOf s slot with
  | none => some (stNoBundle, 0, none)
  | some b =>
    if s.clock.mode ≠ .arbitrated then some (stPlanRunning, 0, none)
    else if !portMapOk s b then some (stPortMap, 0, none)
    else
      match expressLost s b with
      | some i => some (stExpressLost, BitVec.ofNat 64 i, none)
      | none =>
        match (List.range b.nset).findSome? fun n => (endsBad s (settingBase b n)).map fun r => (n, r) with
        | some (n, r) => some (stSettingRefused, refusedWord n r 5, some r)
        | none =>
          if start ≠ 0 ∧ reachable s ≠ [] ∧ !(s.chain.aligned || s.chain.isRef) then some (stNotAligned, 0, none)
          else
            let g := loadGranules s b (schedSetting (schedEntry s b first))
            if start ≠ 0 ∧ start < s.clock.tick.toNat + (g + 2047) / 2048 + 1 then some (stLateStart, 0, none) else none

/-- RUN (R612 to R615): the plan waits to enter, its reservation is in force, and its first load begins. -/
def execRun (k : Nat) (s : State) : Host.Outcome State Fault Refusal :=
  command 0x50 k ([(24, 3)] ++ bytesMask 32 6 ++ bytesMask 40 12) noChecks noBuf
    (fun c t =>
      let slot := entryByte c.entry 24
      let start := entryNum c.entry 32 6
      let first := entryNum c.entry 48 4
      match runBad t slot start first, bundleOf t slot with
      | some (st, r0, pos), _ => .done st r0 0 (match pos with
        | some r => invalidTarget r t
        | none => t)
      | none, none => .done stNoBundle 0 0 t
      | none, some b =>
        let t := endsLook b t
        .wait (beginStepLoad b 0 (modPlan (fun _ => {
          phase := .waiting, num := k, slot := slot, start := start, nticks := entryNum c.entry 40 8, first := first
          reserve := b.reserve }) { t with ledger := { t.ledger with iswap := 0 } }))) s

/-- The last step of the plan runs or is armed (R616). [DEDUCED: log 60] -/
def lastArmed (p : Plan) : Bool :=
  p.nticks != 0 &&
    (decide (p.nticks ≤ p.step + 1) ||
      (p.nticks == p.step + 2 && (p.next != some (p.step + 1) || (p.ready.map (·.1)) == some (p.step + 1))))

/-- STOP (R616). [DEDUCED: log 60] -/
def execStop (k : Nat) (s : State) : Host.Outcome State Fault Refusal :=
  command 0x51 k [] noChecks noBuf
    (fun _ t =>
      match t.nutas.plan.phase with
      | .none => .done stNotRunning 0 0 t
      | .waiting => .done stOk 0 0 (complete t.nutas.plan.num stStopped 0 0 (clearPlan t))
      | .running =>
        if t.clock.leaving then .wait (waitFor (.stop k) t)
        else if lastArmed t.nutas.plan then .done stNotRunning 0 0 t
        else .wait (waitFor (.stop k) (modPlan (fun p => { p with phase := .stopping, stopped := true })
          { t with clock := { t.clock with leaving := true, endFault := false } }))
      | .stopping => .wait (waitFor (.stop k) t)) s

end Sys2Proof.Machine
end

