-- ==== Sys2Proof/Machine/Assay.lean ====
section
/-! DEFINITION. The assayer: event selection, captures, the dump engine and its records (chapter 20). -/

namespace Sys2Proof.Machine

/-- Counter blocks (R659). -/
def blkCount : Nat := 2370

/-- The highest event code of a block's own kind (R664, R665). -/
def lastCode (blk : Nat) : Nat :=
  if blk < 0x400 then 0x1B
  else if blk < 0x880 then 0x0F
  else if blk < 0x900 then 0x06
  else if blk < 0x920 then 0x07
  else if blk < 0x930 then 0x0E
  else if blk < 0x940 then 0x0A
  else if blk = 0x940 then 0x07
  else 0x09

/-- A code is assigned for a block (R663 to R665). -/
def codeAssigned (blk code : Nat) : Bool :=
  decide (code ≤ lastCode blk) || (decide (0xF0 ≤ code) && decide (code ≤ 0xF3) && blk != blkLocket)

/-- Bytes of a record and of its place in the region (R672). -/
def recordLen : Nat := 151744
def recordStride : Nat := 155648

/-- The coherent range meets a region (R669). [DEDUCED: log 62] -/
def meetsCoherent (s : State) (a n : Nat) : Bool :=
  s.host.biSize != 0 && decide (a < (s.host.biBase.toNat + s.host.biSize.toNat) * gib) && decide (s.host.biBase.toNat * gib < a + n)

/-- The first code of a selection buffer that is unassigned for its block, among those read before a lost granule (R598,
R669). -/
def codesForm (u : List Byte × Option Nat × State) : Option (Nat × Word) :=
  ((List.range (min (8 * blkCount) ((u.2.1).getD (8 * blkCount)))).find? fun i =>
    !codeAssigned (i / 8) (nth (0 : Byte) u.1 i).toNat).map fun i => (stBadField, BitVec.ofNat 64 i)

/-- CNT_CONFIG (R617, R669): in force from the next boundary, where it completes. [DEDUCED: log 53] -/
def execCntConfig (k : Nat) (buf : List Byte) (s : State) : Host.Outcome State Fault Refusal :=
  commandWith 0x70 k (bufMaskAll ++ bytesMask 32 6 ++ bytesMask 40 8)
    (fun c t =>
      let base := entryNum c.entry 32 6
      let size := entryNum c.entry 40 4
      [(32, base % 4096 == 0 && inStacks base size && !meetsCoherent t base size), (40, decide (recordStride ≤ size)),
       (44, decide (entryNum c.entry 44 4 < 4194304))])
    (fun _ => some (8 * blkCount)) (fun c t => codesForm (bufRead t (bufOf c.entry) (8 * blkCount) buf))
    (fun c t =>
      let u := bufRead t (bufOf c.entry) (8 * blkCount) buf
      match u.2.1 with
      | some off => .done stMemFault 0 (BitVec.ofNat 64 off) u.2.2
      | none =>
        let codes := (List.range (8 * blkCount)).map fun i => nth 0 u.1 i
        let conf : CntConf := { num := k, codes := ((List.range codes.length).zip codes).filter fun p => p.2 != 0
                                base := entryNum c.entry 32 6, size := entryNum c.entry 40 4
                                period := entryNum c.entry 44 4 }
        .wait (waitFor (.config k true) { u.2.2 with asy := { u.2.2.asy with conf := some conf } })) s

/-- CNT_SNAP (R617, R675). -/
def execCntSnap (k : Nat) (s : State) : Host.Outcome State Fault Refusal :=
  command 0x71 k bufMaskAll noChecks (fun _ => some recordLen)
    (fun c t => .wait (waitFor (.snap k (bufOf c.entry).addr (bufOf c.entry).loc) t)) s

/-- A counter configuration takes effect at the boundary that opens a tick (R669). -/
def configTake (tick : BitVec 48) (s : State) : State :=
  match s.asy.conf with
  | none => s
  | some c =>
    { s with asy := { s.asy with
      conf := none
      codes := c.codes
      vals := []
      period := BitVec.ofNat 32 c.period
      records := BitVec.ofNat 16 (c.size / recordStride)
      base := BitVec.ofNat 48 c.base
      t0 := tick
      seq := 0
      nextSeq := 0
      skipped := 0 } }

/-- The header of a record (R672, R673). -/
def dumpHeader (d : Dump) (done : Bool) : List Byte :=
  toBytes 8 d.seq ++ toBytes 6 d.tick.toNat ++ toBytes 1 (b2n done + 2 * b2n d.snap.isSome) ++ [0] ++ toBytes 4 d.period.toNat ++
  toBytes 2 d.skipped.toNat ++ toBytes 2 blkCount ++ toBytes 6 d.t0.toNat ++ List.replicate 34 0

/-- The engine begins its oldest record: the header goes out with DONE = 0 (R673). [DEDUCED: log 62] -/
def beginDump (s : State) : State :=
  match s.asy.dumps with
  | [] => s
  | d :: _ => bufWrite { addr := d.dest, len := 64, loc := d.loc } (dumpHeader d false) s

/-- A record of the present counters (R670, R672). [DEDUCED: log 62] -/
def capture (tick : BitVec 48) (snap : Option Nat) (dest loc seq : Nat) (s : State) : Dump :=
  { snap := snap, dest := dest, loc := loc, period := s.asy.period, t0 := s.asy.t0, tick := tick, vals := s.asy.vals
    codes := s.asy.codes, seq := seq, skipped := s.asy.skipped, live := reachNow s }

/-- A periodic capture falls due at the boundary that opens a tick (R670). [DEDUCED: log 62] -/
def captureDue (tick : BitVec 48) (s : State) : Bool :=
  s.asy.period != 0 && s.asy.records != 0 && (tick.toNat - s.asy.t0.toNat) % s.asy.period.toNat == 0

/-- What is captured at the boundary that opens a tick (R670, R674, R675): those of waiting CNT_SNAPs, then the periodic one unless
the engine still writes. The SEQ of a snapshot's record the spec does not state. -/
def captured (tick : BitVec 48) (s : State) : State :=
  let busy := s.asy.dumps != []
  let s1 := s.nutas.waits.foldl (fun t w =>
    match w with
    | .snap n a loc => drawn { t with asy := { t.asy with
        dumps := t.asy.dumps ++ [capture tick (some n) a loc (freeNow t 672).toNat t] } }
    | _ => t) s
  let s2 := dropWait (fun w => match w with
    | .snap .. => true
    | _ => false) s1
  if !captureDue tick s then s2
  else if busy then { s2 with asy := { s2.asy with skip := satInc s2.asy.skip, skipped := satInc s2.asy.skipped } }
  else
    let a := s2.asy
    let dest := a.base.toNat + recordStride * (a.nextSeq % a.records.toNat)
    { s2 with asy := { a with
      dumps := a.dumps ++ [capture tick none dest 0 a.nextSeq s2]
      nextSeq := a.nextSeq + 1
      skipped := 0 } }

/-- Captures at the boundary that opens a tick (R670, R673 to R675): an idle engine begins with the first. -/
def captures (tick : BitVec 48) (s : State) : State :=
  if s.asy.dumps != [] then captured tick s else beginDump (captured tick s)

/-- Counter `i` of a record: the counters of an ordinal that no bead answers read 0 (R662). -/
def dumpVal (d : Dump) (i : Nat) : Nat :=
  if i / 8 < 0x400 ∧ !bitOf d.live.toNat (i / 8) then 0
  else (tblGet 0 d.vals i).toNat + (tblGet 0 d.codes i).toNat * 2 ^ 48

/-- The bytes of a complete record (R672). -/
def dumpBytes (d : Dump) : List Byte :=
  dumpHeader d true ++ (List.range (8 * blkCount)).flatMap fun i => toBytes 8 (dumpVal d i)

/-- A record written: its bytes, source 136, and the CNT_SNAP that it completes or SEQ (R673, R675, R678).
[DEDUCED: log 62] -/
def writeDump (d : Dump) (s : State) : State :=
  let s1 := hubRaise 136 (bufWrite { addr := d.dest, len := recordLen, loc := d.loc } (dumpBytes d) s)
  match d.snap with
  | some n => complete n stOk 0 (d.tick.setWidth 64) s1
  | none => { s1 with asy := { s1.asy with seq := BitVec.ofNat 32 d.seq } }

/-- DUMP_RECORD_WRITE (R671 to R673): the dump engine finishes its oldest record and begins the next; BISnp and BIRsp go first on the ring. -/
def execDumpRecordWrite (s : State) : Host.Outcome State Fault Refusal :=
  match s.asy.dumps with
  | [] => .next s
  | d :: r => whenOk s (mainUp s) (beginDump (writeDump d { s with asy := { s.asy with dumps := r } }))

/-- ASY_STAT as it reads (R678). -/
def asyStat (a : Assayer) : Word :=
  BitVec.ofNat 64 (a.seq.toNat + a.skip.toNat * 2 ^ 32 + b2n (a.dumps != []) * 2 ^ 48)

def offAsyStat : Nat := 0x030010

/-- ASY_STAT_READ (R678). -/
def execAsyStatRead (w : Width) (s : State) : Host.Outcome State Fault Refusal :=
  .next (regReadRow offAsyStat w (asyStat s.asy)
    (fun t => { t with asy := { t.asy with skip := rc w 47 32 t.asy.skip 0 } }) s)

/-- ASY_VALUE (R660, R662, R679). -/
def asyValue (s : State) : Word :=
  let b := s.asy.selBlock.toNat
  let i := 8 * b + s.asy.selCtr.toNat
  if blkCount ≤ b ∨ (b < 0x400 ∧ !ordLive s b) then 0
  else BitVec.ofNat 64 ((tblGet 0 s.asy.vals i).toNat + (tblGet 0 s.asy.codes i).toNat * 2 ^ 48)

end Sys2Proof.Machine
end

