-- ==== Sys2Proof/Machine/MgmtLink.lean ====
section
/-! DEFINITION. The management lane, its MCTP packets, and the frames that arrive on it (chapter 18). -/

namespace Sys2Proof.Machine

def modMgmt (f : Mgmt → Mgmt) (s : State) : State := { s with mgmt := f s.mgmt }

/-- A frame of the port, with the SEQ of the last DATA frame received in order (R623). The types are 0 IDLE, 1 DATA, 2 ACK and
3 NAK; SEQ is 0 but in DATA frames. [DEDUCED: log 70] -/
def mgmtOut (s : State) (typ : BitVec 4) (seq : BitVec 8) (payload : List Byte) : OutMsg :=
  .mgmt (mgmtFrame typ seq s.mgmt.rxLast payload)

/-- A DATA frame leaves. -/
def sendData (seq : BitVec 8) (p : MgmtPkt) (s : State) : State := emit (mgmtOut s 1 seq p.bytes) s

/-- DATA frames leave in order while fewer than 8 are unacknowledged (R624). [DEDUCED: log 70] -/
def mgmtPump (s : State) : State :=
  upTo s.mgmt.waiting.length (fun t _ =>
    match t.mgmt.waiting with
    | [] => t
    | p :: r =>
      if t.mgmt.up && decide (t.mgmt.unacked.length < 8) then
        sendData t.mgmt.txSeq p (modMgmt (fun m => { m with
          txSeq := m.txSeq + 1
          unacked := m.unacked ++ [{ seq := m.txSeq, pkt := p }]
          waiting := r }) t)
      else t) s

/-! ### MCTP (R625) -/

/-- Message bytes that one packet carries behind its transport header. -/
def mctpRoom : Nat := 1020

/-- The transport header of the MCTP base specification: version 1, destination, source, and SOM, EOM, the packet
sequence number, the tag owner bit and the tag. [PRESUMED: log 69] -/
def mctpHead (dst src : BitVec 8) (som eom : Bool) (seq : Nat) (owner : Bool) (tag : BitVec 3) : List Byte :=
  [0x01, dst, src, BitVec.ofNat 8 (tag.toNat + 8 * b2n owner + 16 * (seq % 4) + 64 * b2n eom + 128 * b2n som)]

/-- The packets of a message; the last one of an MBX_CPL is marked. [PRESUMED: log 69] -/
def mctpPackets (dst src : BitVec 8) (owner : Bool) (tag : BitVec 3) (body : List Byte) (cpl : Bool) : List MgmtPkt :=
  let n := max 1 ((body.length + mctpRoom - 1) / mctpRoom)
  (List.range n).map fun i =>
    { bytes := mctpHead dst src (i == 0) (i + 1 == n) i owner tag ++ (body.drop (mctpRoom * i)).take mctpRoom
      cpl := cpl && i + 1 == n }

/-- A message joins those that wait for the lane. -/
def mgmtQueue (dst : BitVec 8) (owner : Bool) (tag : BitVec 3) (body : List Byte) (cpl : Bool) (s : State) : State :=
  mgmtPump (modMgmt (fun m => { m with waiting := m.waiting ++ mctpPackets dst m.eid owner tag body cpl }) s)

/-- A message of the module's own, to the controller that assigned the endpoint ID (R627). -/
def mgmtOwn (body : List Byte) (cpl : Bool) (s : State) : State :=
  mgmtQueue s.mgmt.boss true s.mgmt.ownTag body cpl (modMgmt (fun m => { m with ownTag := m.ownTag + 1 }) s)

/-- The answer to a request: to its sender, with its tag. -/
def mgmtAnswer (r : MgmtReq) (body : List Byte) (s : State) : State := mgmtQueue r.src false r.tag body false s

/-! ### Thaset messages (R626) -/

/-- Thaset's enterprise number. [DESIGN CHOICE: log 21] -/
def ianaBytes : List Byte := idBytes 40 4

/-- Status codes of R626. -/
def thOk : Nat := 0x00
def thBadOpc : Nat := 0x01
def thBadField : Nat := 0x02
def thRingFull : Nat := 0x03
def thMainDown : Nat := 0x04
def thNotPermitted : Nat := 0x05
def thBusy : Nat := 0x06
def thDenied : Nat := 0x07

/-- A byte of a message from its type byte on: the type at 0, IANA at 1 to 4, OPC at 5, INST at 6, BODY from 9 on. -/
def msgByte (r : MgmtReq) (i : Nat) : Nat := (nth 0 r.body i).toNat
def msgOpc (r : MgmtReq) : Nat := msgByte r 5
def msgBody (r : MgmtReq) : List Byte := r.body.drop 9
/-- A number in a body. -/
def bodyNum (r : MgmtReq) (i n : Nat) : Nat := ofBytes (((msgBody r).drop i).take n)

/-- A Thaset request: type 0x7F, the enterprise number and bit 7 of INST. -/
def isThaset (r : MgmtReq) : Bool :=
  msgByte r 0 == 0x7F && ((r.body.drop 1).take 4) == ianaBytes && decide (9 ≤ r.body.length) && bitOf (msgByte r 6) 7

/-- The response of an operation. [PRESUMED: log 69] -/
def thAnswer (r : MgmtReq) (status : Nat) (body : List Byte) (s : State) : State :=
  mgmtAnswer r ([0x7F] ++ ianaBytes ++ toBytes 1 (msgOpc r) ++ toBytes 1 (msgByte r 6 % 128) ++ toBytes 1 status ++ [0] ++ body) s

/-- A message that the module originates (R627). [PRESUMED: log 69] -/
def thOwn (opc : Nat) (body : List Byte) (cpl : Bool) (s : State) : State :=
  mgmtOwn ([0x7F] ++ ianaBytes ++ toBytes 1 opc ++ [0x80, 0, 0] ++ body) cpl s

/-- Operations of R627 that a request may name. -/
def thKnown (opc : Nat) : Bool := [0x01, 0x03, 0x04, 0x05, 0x06, 0x07, 0x08, 0x0A].contains opc

/-! ### MCTP control messages (R625) -/

/-- An MCTP control request: type 0, the request bit of its second byte. -/
def isControl (r : MgmtReq) : Bool := msgByte r 0 == 0 && decide (3 ≤ r.body.length) && bitOf (msgByte r 1) 7

/-- Its command code. -/
def ctlCmd (r : MgmtReq) : Nat := msgByte r 2

/-- The response of a control command, with its completion code first. [PRESUMED: log 69] -/
def ctlAnswer (r : MgmtReq) (code : Nat) (body : List Byte) (s : State) : State :=
  mgmtAnswer r ([0x00] ++ toBytes 1 (msgByte r 1 % 128) ++ toBytes 1 (ctlCmd r) ++ toBytes 1 code ++ body) s

/-- The control commands that the port supports: Set and Get Endpoint ID, Get Version, Get Message Type, Get Vendor Defined
Message Support. -/
def ctlKnown (cmd : Nat) : Bool := [0x01, 0x02, 0x04, 0x05, 0x06].contains cmd

/-- A whole message has arrived: one that a row serves waits for it; an operation that the port does not have is answered
at once, and any other message is discarded (R625, R626). [PRESUMED: log 69] -/
def messageIn (r : MgmtReq) (s : State) : State :=
  if isControl r then
    if ctlKnown (ctlCmd r) then modMgmt (fun m => { m with msgs := m.msgs ++ [r] }) s else ctlAnswer r 0x05 [] s
  else if isThaset r then
    if s.mgmt.eid = 0 then s
    else if !thKnown (msgOpc r) then thAnswer r thBadOpc [] s
    else if msgByte r 8 ≠ 0 ∨ msgByte r 7 ≠ 0 then thAnswer r thBadField [] s
    else modMgmt (fun m => { m with msgs := m.msgs ++ [r] }) s
  else s

/-- Greatest length of a message (R625). -/
def mctpMax : Nat := 4160

/-- A packet is accepted: it starts, continues or ends a message; one out of sequence ends the message being received.
[PRESUMED: log 69] -/
def packetIn (b : List Byte) (s : State) : State :=
  let flags := (nth 0 b 3).toNat
  let dst := nth 0 b 1
  let som := bitOf flags 7
  let eom := bitOf flags 6
  let seq := BitVec.ofNat 2 (bitsOf flags 4 2)
  let tag := BitVec.ofNat 3 (bitsOf flags 0 3)
  let src := nth 0 b 2
  if b.length < 4 ∨ bitsOf (nth 0 b 0).toNat 0 4 ≠ 1 ∨ !bitOf flags 3 ∨ (dst ≠ 0 ∧ dst ≠ s.mgmt.eid) then s
  else
    let start : Option MgmtReq := if som then some { src := src, tag := tag, body := [] }
      else match s.mgmt.partial_ with
        | some p => if p.src = src ∧ p.tag = tag ∧ seq = s.mgmt.pktSeq then some p else none
        | none => none
    match start with
    | none => modMgmt (fun m => { m with partial_ := none }) s
    | some p =>
      let p1 : MgmtReq := { p with body := p.body ++ b.drop 4 }
      if mctpMax < p1.body.length then modMgmt (fun m => { m with partial_ := none }) s
      else if eom then messageIn p1 (modMgmt (fun m => { m with partial_ := none }) s)
      else modMgmt (fun m => { m with partial_ := some p1, pktSeq := seq + 1 }) s

/-! ### Frames (R623, R624) -/

/-- Frames acknowledged by an ACKSEQ: those up to it, where it names one of them. -/
def ackedBy (l : List MgmtSent) (ack : BitVec 8) : Nat :=
  match l.findIdx? fun x => x.seq == ack with
  | some i => i + 1
  | none => 0

/-- An acknowledgement frees frames; a completion whose last frame is acknowledged leaves mailbox 8's ring (R628). -/
def mgmtAcked (ack : BitVec 8) (s : State) : State :=
  let n := ackedBy s.mgmt.unacked ack
  let done := countIf (fun x => x.pkt.cpl) (s.mgmt.unacked.take n)
  let s1 := modMgmt (fun m => { m with
    unacked := m.unacked.drop n
    cplRing := m.cplRing.drop done
    cplSent := m.cplSent - done }) s
  modMbx 8 (fun q => { q with cplHead := (q.cplHead + done) % 16 }) s1

/-- An acknowledgement arrives, and what waits for the window leaves. [DEDUCED: log 70] -/
def mgmtAckIn (ack : BitVec 8) (s : State) : State := mgmtPump (mgmtAcked ack s)

/-- Every unacknowledged frame leaves again (R624). -/
def sendAgain (s : State) : State := s.mgmt.unacked.foldl (fun t x => sendData x.seq x.pkt t) s

/-- Every unacknowledged frame leaves again; with 16 resends of one the lane is DOWN (R624). [DEDUCED: log 70] -/
def mgmtResend (s : State) : State :=
  let s1 := modMgmt (fun m => { m with unacked := m.unacked.map fun x => { x with resends := x.resends + 1 } }) s
  let s2 := sendAgain s1
  if s1.mgmt.unacked.any fun x => decide (16 ≤ x.resends) then mgmtDown s2 else s2

/-- The lane carries frames. -/
def mgmtUp (s : State) : Bool := s.standby.standby && s.mgmt.up

/-- A frame arrives intact: its CRC is right, and its reserved bits are 0 (R624). -/
def frameOk (f : MgmtFrame) : Bool := f.crc == mgmtCrc f && f.reserved == 0

/-- A DATA frame that the port accepts: intact and next in order. [DEDUCED: log 70] -/
def dataOk (s : State) (f : MgmtFrame) : Bool := f.seq == s.mgmt.rxLast + 1 && decide (f.payload.length ≤ 1024)

/-- A DATA frame: an accepted one is acknowledged and its packet taken; any other is answered with a NAK (R624 to R626). -/
def dataIn (ok : Bool) (f : MgmtFrame) (s : State) : State :=
  if ok && dataOk s f then
    let t := modMgmt (fun m => { m with rxLast := f.seq }) s
    packetIn f.payload (emit (mgmtOut t 2 0 []) (mgmtAckIn f.ackSeq t))
  else emit (mgmtOut s 3 0 []) s

/-- MGMT_DATA_FRAME (R624 to R626). A frame of another TYPE, or of a reserved one, is none of the row's (R623). -/
def execMgmtDataFrame (f : MgmtFrame) (s : State) : Host.Outcome State Fault Refusal :=
  whenOk s (mgmtUp s && f.typ == 1) (dataIn (frameOk f) f s)

/-- A frame of another TYPE acts only intact. -/
def frameIn (typ : BitVec 4) (ok : Bool) (f : MgmtFrame) (act : BitVec 8 → State → State) (s : State) :
    Host.Outcome State Fault Refusal :=
  whenOk s (mgmtUp s && f.typ == typ && ok) (act f.ackSeq s)

/-- MGMT_ACK_FRAME (R624, R628). -/
def execMgmtAckFrame (f : MgmtFrame) (s : State) : Host.Outcome State Fault Refusal := frameIn 2 (frameOk f) f mgmtAckIn s

/-- A NAK: the sender resends from ACKSEQ + 1, and then what waits for the window leaves (R624). -/
def nakIn (ack : BitVec 8) (s : State) : State := mgmtPump (mgmtResend (mgmtAcked ack s))

/-- MGMT_NAK_FRAME (R624). -/
def execMgmtNakFrame (f : MgmtFrame) (s : State) : Host.Outcome State Fault Refusal := frameIn 3 (frameOk f) f nakIn s

/-- MGMT_IDLE_FRAME (R624). -/
def execMgmtIdleFrame (f : MgmtFrame) (s : State) : Host.Outcome State Fault Refusal := frameIn 0 (frameOk f) f mgmtAckIn s

/-- MGMT_RESEND_TIMEOUT (R624). -/
def execMgmtResendTimeout (s : State) : Host.Outcome State Fault Refusal :=
  whenOk s (mgmtUp s && s.mgmt.unacked != []) (mgmtResend s)

/-- MGMT_IDLE_TIMEOUT (R624): an IDLE frame leaves. -/
def execMgmtIdleTimeout (s : State) : Host.Outcome State Fault Refusal :=
  whenOk s (mgmtUp s) (emit (mgmtOut s 0 0 []) s)

/-- MGMT_LANE_DOWN_TIMEOUT (R624): no valid frame for 10 ms. [DESIGN CHOICE: log 25] -/
def execMgmtLaneDownTimeout (s : State) : Host.Outcome State Fault Refusal :=
  whenOk s (mgmtUp s) (mgmtDown s)

/-- MGMT_LANE_UP (R624, R741): the lane has trained. Frames not acknowledged leave again with what waits. -/
def execMgmtLaneUp (s : State) : Host.Outcome State Fault Refusal :=
  let s1 := modMgmt (fun m => { m with up := true, unacked := m.unacked.map fun x => { x with resends := 0 } }) s
  whenOk s (s.standby.standby && !s.mgmt.up)
    (mgmtPump (sendAgain s1))

/-! ### What the module sends by itself -/

/-- MGMT_EVENT_SEND (R629): the claim of target 36 and an EVENT message with the source number.
[PRESUMED: log 69] -/
def execMgmtEventSend (s : State) : Host.Outcome State Fault Refusal :=
  match (claimValue s.hub 36).2 with
  | none => .next s
  | some src =>
    whenOk s (mainUp s && mgmtUp s && bitOf s.hub.line.toNat 36 && s.mgmt.eid != 0)
      (thOwn 0x09 (toBytes 4 src) false (hubTake src s))

/-- MBX_CPL (R628): the next completion of mailbox 8, in completion-ring order. -/
def execMbxCpl (s : State) : Host.Outcome State Fault Refusal :=
  let m := s.mgmt
  whenOk s (mgmtUp s && decide (m.cplSent < m.cplRing.length) && m.eid != 0)
    (thOwn 0x02 (nth [] m.cplRing m.cplSent) true (modMgmt (fun m => { m with cplSent := m.cplSent + 1 }) s))

/-! ### MCTP control -/

/-- A control command at the head of the messages, answered by `f`. -/
def ctlRow (cmd : Nat) (f : MgmtReq → State → State) (s : State) : Host.Outcome State Fault Refusal :=
  match s.mgmt.msgs with
  | [] => .next s
  | r :: rest =>
    whenOk s (s.standby.standby && isControl r && ctlCmd r == cmd) (f r (modMgmt (fun m => { m with msgs := rest }) s))

/-- SET_ENDPOINT_ID (R625): operations 0 and 1 set the ID; others, and IDs 0 and 255, are invalid data. -/
def execSetEndpointId (s : State) : Host.Outcome State Fault Refusal :=
  ctlRow 0x01 (fun r t =>
    let id := BitVec.ofNat 8 (msgByte r 4)
    if 1 < bitsOf (msgByte r 3) 0 2 ∨ id = 0 ∨ id = 255 ∨ r.body.length < 5 then ctlAnswer r 0x02 [] t
    else ctlAnswer r 0x00 [0x00, id, 0x00] (modMgmt (fun m => { m with eid := id, boss := r.src }) t)) s

/-- GET_ENDPOINT_ID (R625): a simple endpoint with a dynamic ID. -/
def execGetEndpointId (s : State) : Host.Outcome State Fault Refusal :=
  ctlRow 0x02 (fun r t => ctlAnswer r 0x00 [t.mgmt.eid, 0x00, 0x00] t) s

/-- The versions of MCTP that the port reports for a message type: the numbers are no part of the spec.
[DESIGN CHOICE: log 21] -/
def versionBytes : List Byte := idBytes 44 4

/-- GET_MCTP_VERSION_SUPPORT (R625). -/
def execGetMctpVersionSupport (s : State) : Host.Outcome State Fault Refusal :=
  ctlRow 0x04 (fun r t =>
    if [0xFF, 0x00, 0x7F].contains (msgByte r 3) then ctlAnswer r 0x00 ([0x01] ++ versionBytes) t
    else ctlAnswer r 0x80 [] t) s

/-- GET_MESSAGE_TYPE_SUPPORT (R625): control messages and vendor messages by IANA number. -/
def execGetMessageTypeSupport (s : State) : Host.Outcome State Fault Refusal :=
  ctlRow 0x05 (fun r t => ctlAnswer r 0x00 [0x02, 0x00, 0x7F] t) s

/-- GET_VENDOR_DEFINED_MSG_SUPPORT (R625, R626): one set, by IANA enterprise number. -/
def execGetVendorDefinedMsgSupport (s : State) : Host.Outcome State Fault Refusal :=
  ctlRow 0x06 (fun r t =>
    if msgByte r 3 = 0 then ctlAnswer r 0x00 ([0xFF, 0x01] ++ ianaBytes ++ [0x00, 0x00]) t else ctlAnswer r 0x02 [] t) s

end Sys2Proof.Machine
end

