-- ==== Sys2Proof/Machine/Power.lean ====
section
/-! DEFINITION. Input power, ENABLE, and the main domains going down and starting (chapters 18, 23 and 25). -/

namespace Sys2Proof.Machine

def modStandby (f : Standby → Standby) (s : State) : State := { s with standby := f s.standby }

/-- MGT_OWN as it reads (R634). -/
def mgtOwn (b : Standby) : Word :=
  BitVec.ofNat 64 (b2n b.owner + 2 * b2n b.pending + 16 * b2n b.forced + b.graceLeft.toNat * 2 ^ 8 + b.lossTmo.toNat * 2 ^ 32)

/-- MGT_PWR as it reads (R631). -/
def mgtPwr (b : Standby) : Word := BitVec.ofNat 64 (b2n b.holdOff + 2 * b2n b.mainUp + 4 * b2n b.enableIn)

/-- MGT_BOOT as it reads (R757). -/
def mgtBoot (b : Standby) : Word :=
  BitVec.ofNat 64 (b.phase.toNat + b.fail.toNat * 2 ^ 4 + b2n b.slot * 2 ^ 8 + b2n b.fallback * 2 ^ 9 +
    b.failStack.toNat * 2 ^ 16 + b.failChan.toNat * 2 ^ 20 + b.boots.toNat * 2 ^ 32 + b.ms.toNat * 2 ^ 48)

/-- Everything outside the standby partition at its Reset value (R8, R42, R621): what mailbox 8 holds there stays, its
control register does not; MBX_STAT8 shows the places of its rings (HEAD, CPLTAIL, PHASE) and its error, which stay with them.
[DEDUCED: log 3, 77; DESIGN CHOICE: log 18, 95] -/
def dropMain (s : State) : State :=
  let q := mbxOf s 8
  { State.reset with
    pending := s.pending
    standby := s.standby
    faults := s.faults
    mgmt := s.mgmt
    mbxs := tblSet {} [] 8 { q with en := false, irqAll := false, rst := false }
    nutas := { State.reset.nutas with
      cmds := s.nutas.cmds.filter fun c => c.mbx.val == 8
      nextNum := s.nutas.nextNum
      ready := s.nutas.ready.filter fun c => c.mbx.val == 8
      stagedBy := s.nutas.stagedBy }
    out := s.out
    free := s.free }

/-- A takeover request that waits is answered. -/
def answerTake (status : Nat) (s : State) : State :=
  match s.standby.takeReq with
  | none => s
  | some r => thAnswer r status (toBytes 8 (mgtOwn s.standby).toNat) (modStandby (fun b => { b with takeReq := none }) s)

/-- The main domains ramp down (R632, R687, R756, R776, R785): every waiting record is written, the commands that Nutas has
started end without a completion, and PHASE becomes STANDBY. What the standby partition serves of mailbox 8, until READY and in
FAILED, stays with it (R42, R754, R755). [DEDUCED: log 73, 77] -/
def mainDown (s : State) : State :=
  if s.standby.phase = 0 then s
  else
    let s1 := answerTake thMainDown (writeAllRecords s)
    let s2 := if s.standby.phase = 7 then modNutas (fun n => { n with cmds := [], ready := [] }) s1 else s1
    modStandby (fun b => { b with
      mainUp := false, phase := 0, pending := false, granted := false, force := false, release := false
      graceLeft := 0 }) (dropMain s2)

/-- HOLD_OFF set: the main domains may not run (R631). -/
def setHold (s : State) : State := mainDown (modStandby (fun b => { b with holdOff := true }) s)

/-- A power action that is forced, or a trip: it is recorded, and every started command, the standby partition's too, ends
without a completion (R632, R684, R785). [DEDUCED: log 73] -/
def recordForced (s : State) : State :=
  modNutas (fun n => { n with cmds := [], ready := [] }) (recordAddr 0x16 blkLocket offMgtPwr 2 s)

/-- The module trips (R785). -/
def trip (s : State) : State := setHold (recordForced s)

/-- Ownership returns to the host, with its record (R637). -/
def recordReturned (s : State) : State := recordAddr 0x16 blkLocket offMgtOwn 4 s

/-- POWER_APPLIED (R741): the standby partition runs. [DEDUCED: log 3] -/
def execPowerApplied (s : State) : Host.Outcome State Fault Refusal :=
  whenOk s (!s.standby.standby) (modStandby (fun b => { b with standby := true }) s)

/-- INPUT_VOLTAGE_LOSS (R756): all state is lost but the image slots, which of them boots, and the fuses.
[DEDUCED: log 77] -/
def inputLoss (s : State) : State :=
  { State.reset with
    pending := s.pending
    standby := { State.reset.standby with
      grade960 := s.standby.grade960
      enableIn := s.standby.enableIn
      bootSlot := s.standby.bootSlot
      imgA := s.standby.imgA
      imgB := s.standby.imgB
      rollback := s.standby.rollback
      revoked := s.standby.revoked }
    out := s.out
    free := s.free }

def execInputVoltageLoss (s : State) : Host.Outcome State Fault Refusal :=
  whenOk s s.standby.standby (inputLoss s)

/-- OVERVOLTAGE_STOP (R776). -/
def execOvervoltageStop (s : State) : Host.Outcome State Fault Refusal :=
  whenOk s (s.standby.standby && !s.standby.overvolt)
    (mainDown (modStandby (fun b => { b with overvolt := true }) s))

/-- OVERVOLTAGE_RECOVERY (R776). -/
def execOvervoltageRecovery (s : State) : Host.Outcome State Fault Refusal :=
  whenOk s (s.standby.standby && s.standby.overvolt) (modStandby (fun b => { b with overvolt := false }) s)

/-- ENABLE_CHANGE (R17, R18, R777): a fall ramps the main domains down. -/
def execEnableChange (level : Bool) (s : State) : Host.Outcome State Fault Refusal :=
  let s1 := modStandby (fun b => { b with enableIn := level }) s
  .next (if level then s1 else mainDown s1)

/-- The main domains may run (R631, R776). -/
def mayRun (b : Standby) : Bool := b.standby && b.enableIn && !b.holdOff && !b.overvolt

/-- BRING_UP_START (R742). -/
def execBringUpStart (s : State) : Host.Outcome State Fault Refusal :=
  whenOk s (mayRun s.standby && s.standby.phase == 0)
    (modStandby (fun b => { b with phase := 1, fail := 0, boots := b.boots + 1 }) s)

/-- A bring-up ends in FAILED (R743, R755, R757); how many milliseconds it took is not the model's to say.
[DESIGN CHOICE: log 19; DEDUCED: log 76] -/
def failBringUp (code : Nat) (s : State) : State :=
  let s1 := modStandby (fun b => { b with
    phase := 8
    fail := BitVec.ofNat 4 code
    ms := (freeNow s 757).setWidth 16 }) s
  drawn { s1 with clock := { s1.clock with fabricOk := false } }

/-- The main-domain reset is released (R8, R744): ownership is the host's. A takeover request made since RAMP began goes on
(R756); an earlier one ended when the main domains went down. [DEDUCED: log 3] -/
def releaseReset (s : State) : State :=
  let s1 := modStandby (fun b => { b with
    mainUp := true, phase := 2, tried := false, owner := false, forced := false, release := false }) (dropMain s)
  let s2 : State := { s1 with ledger := { s1.ledger with cur := { s1.ledger.cur with
    fseq := s1.faults.nextSeq + BitVec.ofNat 32 s1.faults.waiting.length } } }
  if s.standby.owner then recordReturned s2 else s2

/-- RAMP_PHASE (R743, R757). [DEDUCED: log 76] -/
def execRampPhase (how : RampEnd) (s : State) : Host.Outcome State Fault Refusal :=
  whenOk s (s.standby.phase == 1)
    (match how with
     | .ok => releaseReset s
     | .rail => failBringUp 1 s
     | .clock => failBringUp 2 s)

/-- BRING_UP_PHASE_TIMEOUT (R743). [DESIGN CHOICE: log 25] -/
def execBringUpPhaseTimeout (s : State) : Host.Outcome State Fault Refusal :=
  whenOk s (decide (1 ≤ s.standby.phase.toNat) && decide (s.standby.phase.toNat ≤ 6) && s.clock.mode == .quiescent) (failBringUp 6 s)

end Sys2Proof.Machine
end

