-- ==== Sys2Proof/Machine/FaultLog.lean ====
section
/-! DEFINITION. The fault ring, rereads of lost granules, bead faults, the trace, and the registers of chapter 21. -/

namespace Sys2Proof.Machine

/-- FAULT_RECORD_WRITE (R686, R687): the oldest waiting record goes into the ring, at most one in a ck of the main domains.
[DEDUCED: log 82] -/
def execFaultRecordWrite (s : State) : Host.Outcome State Fault Refusal :=
  whenOk s (s.faults.waiting != [] && (!mainUp s || s.faults.wroteCk != absCk s + 1))
    (writeRecord { s with faults := { s.faults with wroteCk := absCk s + 1 } })

/-! ### Rereads -/

/-- The rereads given are those that R690 lets the target make: it stops at the first that decodes well, or at REREAD. -/
def rereadsOk (limit : Nat) (reads : List Code) : Bool :=
  reads != [] && decide (reads.length ≤ limit) && (reads.dropLast.all isBad) &&
  (!isBad (reads.getLastD poisonCode) || reads.length == limit)

/-- The outcome of rereads is reported (R690). -/
def rereadRecord (blk p detail n : Nat) (good : Bool) (s : State) : State :=
  recordFault { cls := 0x02, source := BitVec.ofNat 12 blk, addrV := true, addr := BitVec.ofNat 48 p, recovered := good
                lost := !good, detail := BitVec.ofNat 64 (detail + n * 2 ^ 24) } s

/-- The target rereads a granule (R399, R401, R690): each reread counts as a read; the corrected code word is written back and the frame retired, or the granule is
stored poisoned. -/
def reread (p detail : Nat) (reads : List Code) (s : State) : State :=
  let c := reads.getLastD poisonCode
  let good := !isBad c
  let w := if good then passOn c else poisonCode
  match placeOf s.mem.splitNow.toNat p with
  | .stack z l =>
    let s1 := reads.foldl (fun t r => stackLook z l r true t) s
    let s2 := rereadRecord (blkBezel z) p detail reads.length good (stackPut z l w s1)
    if good && !(bezelOf s2 z).retiring.contains (l / 4096)
    then modBezel z (fun b => { b with retiring := b.retiring ++ [l / 4096] }) s2 else s2
  | .slice i off =>
    let s1 := reads.foldl (fun t r => countLook (blkSlice i) r t) s
    rereadRecord (blkSlice i) p detail reads.length good (putCode s1 (sliceGran i (off / 32)) w)
  | _ => s

/-- UNCORR_REREAD (R690), in a hold tick, for the granule that has waited longest. [DEDUCED: log 82] -/
def execUncorrReread (reads : List Code) (s : State) : Host.Outcome State Fault Refusal :=
  match s.mem.rereads with
  | [] => .next s
  | (p, d) :: r =>
    whenOk s (mainUp s && s.clock.hold && rereadsOk s.faults.reread.toNat reads)
      (reread p d reads { s with mem := { s.mem with rereads := r } })

/-! ### Bead faults -/

/-- The record of a bead fault (R684, R691). -/
def beadFaultRecord (o : Nat) (parity recovered : Bool) (s : State) : State :=
  recordFault { cls := 0x05, source := BitVec.ofNat 12 o, addrV := true, addr := BitVec.ofNat 48 (beadPhys o 0)
                recovered := recovered, detail := BitVec.ofNat 64 (b2n parity + 2 * b2n (!parity) + 4 * o) } s

/-- A string loses its express capability to a SUBST (R86): a record of the substituted ordinal with neither cause.
[DEDUCED: log 68] -/
def expressRecord (o : Nat) (s : State) : State :=
  if posOfOrd o % 9 = 0 then
    recordFault { cls := 0x05, source := BitVec.ofNat 12 o, addrV := true, addr := BitVec.ofNat 48 (beadPhys o 0)
                  recovered := true, detail := BitVec.ofNat 64 (4 * o) } s
  else s

/-- BEAD_FAULT (R394, R691): the harts and the queues of the bead stop at once. -/
def execBeadFault (o : Ord) (parity : Bool) (s : State) : Host.Outcome State Fault Refusal :=
  whenOk s (beadRuns s o.val)
    (hubRaise (1024 + o.val) (beadFaultRecord o.val parity false (modBead o.val (fun b => { b with stopped := true }) s)))

/-! ### The trace -/

/-- The bytes of a trace entry (R705). -/
def traceBytes (n : Nat) (drops : Nat) (i : TraceItem) : List Byte :=
  let body : Nat × List Byte := match i with
    | .fault r => (1, faultBytes r ++ List.replicate 32 0)
    | .ledger r => (2, ledgerBytes r)
  toBytes 8 n ++ toBytes 1 body.1 ++ List.replicate 7 0 ++ toBytes 8 drops ++ List.replicate 8 0 ++ body.2 ++ List.replicate 32 0

/-- TRACE_WRITE (R703, R705): the dump engine copies the oldest item, when no record of a counter dump is being written. -/
def execTraceWrite (s : State) : Host.Outcome State Fault Refusal :=
  match s.ledger.traceBuf with
  | [] => .next s
  | i :: r =>
    let g := s.ledger
    let n := 32 * g.traceSize.toNat
    let s1 := locketWrite (g.traceBase.toNat * 4096 + 128 * (g.traceN % max 1 n)) (traceBytes g.traceN g.drops.toNat i) s
    whenOk s (mainUp s && s.asy.dumps == [])
      { s1 with ledger := { s1.ledger with traceBuf := r, traceN := g.traceN + 1, written := g.written + 1, drops := 0 } }

/-- LDG_TRACE as it reads (R711). -/
def ldgTrace (g : Ledger) : Word :=
  BitVec.ofNat 64 (b2n g.traceEn + g.traceBase.toNat * 2 ^ 12 + g.traceSize.toNat * 2 ^ 48)

/-- A write of LDG_TRACE (R705). -/
def ldgTraceSet (w : Width) (v : Word) (s : State) : State :=
  let g := s.ledger
  let new := (wrWidth w (ldgTrace g) v).toNat
  let en := bitOf new 0
  if g.traceEn then { s with ledger := { g with traceEn := en } }
  else
    let base := bitsOf new 12 36
    let size := bitsOf new 48 16
    let g1 : Ledger := { g with traceBase := BitVec.ofNat 36 base, traceSize := BitVec.ofNat 16 size }
    if !en then { s with ledger := g1 }
    else if size = 0 ∨ !inStacks (base * 4096) (size * 4096) then s
    else { s with ledger := { g1 with traceEn := true, traceN := 0, written := 0, traceBuf := [], drops := 0 } }

/-- LDG_TRACE_WRITE (R705, R711). -/
def execLdgTraceWrite (m : Master) (w : Width) (v : Word) (s : State) : Host.Outcome State Fault Refusal :=
  .next (regWriteRow m offLdgTrace (ldgTraceSet w v) s)

/-! ### Registers that a read clears -/

def offLdgOvr : Nat := 0x000028
def offLdgTraceStat : Nat := 0x000048
def offFltStat : Nat := 0x040008

/-- LDG_OVR as it reads (R710). -/
def ldgOvr (g : Ledger) : Word :=
  BitVec.ofNat 64 (g.overruns.toNat + g.replays.toNat * 2 ^ 16 + g.ends.toNat * 2 ^ 32 + g.peerHolds.toNat * 2 ^ 40)

/-- LDG_OVR_READ (R710). -/
def execLdgOvrRead (w : Width) (s : State) : Host.Outcome State Fault Refusal :=
  .next (regReadRow offLdgOvr w (ldgOvr s.ledger) (fun t => { t with ledger := { t.ledger with
    overruns := rc w 15 0 t.ledger.overruns 0
    replays := rc w 31 16 t.ledger.replays 0
    ends := rc w 39 32 t.ledger.ends 0
    peerHolds := rc w 55 40 t.ledger.peerHolds 0 } }) s)

/-- LDG_TRACE_STAT as it reads (R712). -/
def ldgTraceStat (g : Ledger) : Word := BitVec.ofNat 64 (g.written.toNat + g.lost.toNat * 2 ^ 32)

/-- LDG_TRACE_STAT_READ (R712). -/
def execLdgTraceStatRead (w : Width) (s : State) : Host.Outcome State Fault Refusal :=
  .next (regReadRow offLdgTraceStat w (ldgTraceStat s.ledger) (fun t => { t with ledger := { t.ledger with
    lost := rc w 47 32 t.ledger.lost 0 } }) s)

/-- FLT_STAT as it reads (R707). -/
def fltStat (f : FaultLog) : Word :=
  BitVec.ofNat 64 (f.nextSeq.toNat + min 4095 (unacked f f.idxHost) * 2 ^ 32 + min 4095 (unacked f f.idxMgt) * 2 ^ 44 +
    f.dropped.toNat * 2 ^ 56)

/-- FLT_STAT_READ (R707). -/
def execFltStatRead (w : Width) (s : State) : Host.Outcome State Fault Refusal :=
  .next (regReadRow offFltStat w (fltStat s.faults) (fun t => { t with faults := { t.faults with
    dropped := rc w 63 56 t.faults.dropped 0 } }) s)

end Sys2Proof.Machine
end

