-- ==== Sys2Proof/Machine/Firmware.lean ====
section
/-! DEFINITION. Nutas images, FW_STAGE, FW_ACTIVATE and the firmware handover (chapters 17, 22 and 24). -/

namespace Sys2Proof.Machine

/-! ### Images -/

/-- The header of an image (R764). -/
structure ImgHead where
  version : Nat
  svn : Nat
  commit : Bool
  revoke : Nat
  s1off : Nat
  s1len : Nat
  s2off : Nat
  s2len : Nat
  deriving DecidableEq, Repr

def headOf (l : List Byte) : ImgHead :=
  { version := cutNum l 4 4, svn := cutNum l 8 4, commit := bitOf (cutNum l 12 1) 0, revoke := bitsOf (cutNum l 12 1) 1 4
    s1off := cutNum l 16 8, s1len := cutNum l 24 8, s2off := cutNum l 32 8, s2len := cutNum l 40 8 }

/-- Bytes of an image, through stage 2's signature block. [DEDUCED: log 75] -/
def imageEnd (h : ImgHead) : Nat := h.s2off + h.s2len + sigLen

/-- A header is well formed (R764). -/
def headOk (l : List Byte) : Bool :=
  let h := headOf l
  cutNum l 0 4 == 0x5354554E && decide (h.svn ≤ 128) && bitsOf (cutNum l 12 1) 5 3 == 0 && cutNum l 13 3 == 0 &&
  cutNum l 48 16 == 0 && h.s1off % 32 == 0 && decide (64 ≤ h.s1off) && h.s2off % 32 == 0 &&
  decide (h.s1off + h.s1len + sigLen ≤ h.s2off) && decide (imageEnd h ≤ l.length) && decide (imageEnd h ≤ 16777216)

/-- The signature blocks of the stages (R764). -/
def block1 (l : List Byte) : List Byte := let h := headOf l; cut l (h.s1off + h.s1len) sigLen
def block2 (l : List Byte) : List Byte := let h := headOf l; cut l (h.s2off + h.s2len) sigLen

/-- The index of the root key whose digest this is, while its fuse is intact (R763). -/
def rootIndex (s : State) (d : List Byte) : Option Nat :=
  (List.range 4).find? fun k => !bitOf s.standby.revoked.toNat k && ((List.range 64).map (Config.rootKey k)) == d

def rootAccepts (s : State) (d : List Byte) : Bool := (rootIndex s d).isSome

/-- The root key that signed an image. -/
def rootOf (s : State) (l : List Byte) : Nat := (rootIndex s (sha3Bytes (sigKey (block1 l)))).getD 0

/-- Stage 1 verifies, and its block carries the header's SVN (R764, R765). [DEDUCED: log 75] -/
def stage1Ok (s : State) (l : List Byte) : Bool :=
  let h := headOf l
  sigVerifies 1 (rootAccepts s) (cut l 0 (h.s1off + h.s1len)) (block1 l) && sigSvn (block1 l) == h.svn

/-- Stage 2 verifies under the root key of stage 1, with the same SVN. [DEDUCED: log 75] -/
def stage2Ok (s : State) (l : List Byte) : Bool :=
  let h := headOf l
  sigVerifies 1 (rootAccepts s) (cut l h.s2off h.s2len) (block2 l) && sigSvn (block2 l) == h.svn &&
    sigKey (block2 l) == sigKey (block1 l)

/-- The image is not older than the rollback counter allows (R765). [DEDUCED: log 75] -/
def svnOk (s : State) (l : List Byte) : Bool := decide (s.standby.rollback ≤ (headOf l).svn)

/-- The image in a slot, A or B. -/
def slotImage (b : Standby) (other : Bool) : List Byte := if other then b.imgB else b.imgA
def setSlot (other : Bool) (l : List Byte) (b : Standby) : Standby := if other then { b with imgB := l } else { b with imgA := l }

/-- The slot that runs or is being booted (R745, R756). [DEDUCED: log 74] -/
def runSlot (b : Standby) : Bool :=
  if b.phase = 1 then b.bootSlot
  else if b.phase = 2 then (if b.tried then !b.bootSlot else b.bootSlot)
  else b.slot

/-- The identity of an image that runs (R771, R773). -/
def identify (l : List Byte) (s : State) : State :=
  let h := headOf l
  { s with sec := { s.sec with
      version := BitVec.ofNat 32 h.version
      svn := BitVec.ofNat 32 h.svn
      commit := h.commit
      revoke := BitVec.ofNat 4 h.revoke
      keyIdx := BitVec.ofNat 2 (rootOf s l)
      s1 := BitVec.ofNat 512 (ofBytes (sigDigest (block1 l)))
      s2 := BitVec.ofNat 512 (ofBytes (sigDigest (block2 l))) } }

/-- The rollback counter advances to the running image's SVN, and the root keys that the image names are revoked, but for
its own (R768). -/
def advanceRollback (s : State) : State :=
  let c := s.sec
  if c.commit && decide (s.standby.rollback < c.svn.toNat) then
    modStandby (fun b => { b with
      rollback := c.svn.toNat
      revoked := b.revoked ||| (c.revoke &&& ~~~ BitVec.ofNat 4 (2 ^ c.keyIdx.toNat)) }) s
  else s

/-! ### FW_STAGE -/

/-- FW_STAGE (R619, R638, R766): the image goes into the slot that does not run. -/
def execFwStage (k : Nat) (buf : List Byte) (s : State) : Host.Outcome State Fault Refusal :=
  command 0x90 k bufMaskAll noChecks (fun c => some (bufOf c.entry).len)
    (fun c t =>
      let u := bufRead t (bufOf c.entry) (bufOf c.entry).len buf
      let l := u.1
      match u.2.1 with
      | some off => .done stMemFault 0 (BitVec.ofNat 64 off) u.2.2
      | none =>
        if !headOk l || !stage1Ok t l || !stage2Ok t l then .done stBadSignature 0 0 u.2.2
        else if !svnOk t l then .done stRollback 0 0 u.2.2
        else .done stOk (BitVec.ofNat 64 (headOf l).version) 0
          (modNutas (fun n => { n with stagedBy := some (mbxMaster c.mbx.val) })
            (modStandby (setSlot (!runSlot t.standby) (l.take (imageEnd (headOf l)))) u.2.2))) s

/-! ### FW_ACTIVATE and the handover -/

/-- FW_ACTIVATE (R619, R638, R716): with an image staged by the same master, the handover waits for its tick. -/
def execFwActivate (k : Nat) (s : State) : Host.Outcome State Fault Refusal :=
  command 0x91 k [] noChecks noBuf
    (fun c t =>
      if slotImage t.standby (!runSlot t.standby) = [] ∨ t.nutas.stagedBy ≠ some (mbxMaster c.mbx.val) then
        .done stNoStaged 0 0 t
      else .wait (modNutas (fun n => { n with handover := .waiting k none }) t)) s

/-- No swap of instruction memories, settings, translation stores or cohort views is needed at the tick's closing boundary
(R716). [DEDUCED: log 74] -/
def noSwapDue (s : State) : Bool :=
  let t := s.clock.tick.toNat
  let due (d : Option Nat) : Bool := match d with
    | some x => decide (x ≤ t)
    | none => false
  s.nutas.plan.next != some (s.nutas.plan.step + 1) && !due s.mmu.swapDue && !due s.nutas.viewDue &&
    !s.beads.any fun p => due p.2.swapDue

/-- A tick that can be the handover tick (R698, R716). [DEDUCED: log 74] -/
def handoverFits (s : State) : Bool :=
  s.clock.ck == 0 && !s.clock.hold && !s.clock.replay && !s.clock.quiet && (s.clock.mode == .arbitrated ||
    (s.clock.mode == .scheduled && noSwapDue s))

/-- HANDOVER_TICK_START (R717): the locket starts the control cores in the staged image. -/
def execHandoverTickStart (s : State) : Host.Outcome State Fault Refusal :=
  match s.nutas.handover with
  | .waiting k (some _) =>
    whenOk s (mainUp s && handoverFits s) (modNutas (fun n => { n with handover := .inTick k }) s)
  | _ => .next s

/-- The new image runs: its slot is the boot slot, and FW_ACTIVATE completes after the rollback counter has advanced (R619,
R745, R768). [DEDUCED: log 74] -/
def handOver (k : Nat) (s : State) : State :=
  let slot := !runSlot s.standby
  let s1 := identify (slotImage s.standby slot) (modStandby (fun b => { b with slot := slot, bootSlot := slot }) s)
  let s2 := modNutas (fun n => { n with handover := .none, stagedBy := none }) (advanceRollback s1)
  complete k stOk (s2.sec.version.setWidth 64) (s2.clock.tick.setWidth 64) s2

/-- HANDOVER_READY (R719). [DEDUCED: log 74] -/
def execHandoverReady (s : State) : Host.Outcome State Fault Refusal :=
  match s.nutas.handover with
  | .inTick k => whenOk s (mainUp s && decide (s.clock.ck ≤ 12288)) (handOver k s)
  | _ => .next s

/-- HANDOVER_READY_TIMEOUT (R719). -/
def execHandoverReadyTimeout (s : State) : Host.Outcome State Fault Refusal :=
  match s.nutas.handover with
  | .inTick k =>
    whenOk s (mainUp s && decide (12288 < s.clock.ck))
      (modNutas (fun n => { n with handover := .failed k }) s)
  | _ => .next s

/-- FW_ACTIVATE_TIMEOUT (R716): no handover tick within 65,536 ticks. [DEDUCED: log 74] -/
def execFwActivateTimeout (s : State) : Host.Outcome State Fault Refusal :=
  match s.nutas.handover with
  | .waiting k (some t) =>
    whenOk s (mainUp s && decide (t + 65536 ≤ s.clock.tick.toNat))
      (complete k stPlanRunning 0 0 (modNutas (fun n => { n with handover := .none }) s))
  | _ => .next s

end Sys2Proof.Machine
end

