-- ==== Sys2Proof/Machine/BringUp.lean ====
section
/-! DEFINITION. The phases of bring-up (chapter 23), and PWR_STAT (chapter 25). -/

namespace Sys2Proof.Machine

/-- Bring-up goes on to a phase. -/
def toPhase (p : Nat) (s : State) : State := modStandby (fun b => { b with phase := BitVec.ofNat 4 p }) s

/-- The ROM's checks of an image: header, stage 1 and SVN (R765). -/
def romOk (s : State) (l : List Byte) : Bool := headOk l && stage1Ok s l && svnOk s l

/-- Stage 1 of a slot runs. -/
def romBoots (slot : Bool) (s : State) : State := toPhase 3 (modStandby (fun b => { b with slot := slot, fallback := slot != b.bootSlot }) s)

/-- The other slot is tried, once (R745). -/
def romFallback (s : State) : State :=
  let slot := !s.standby.bootSlot
  let s1 := modStandby (fun b => { b with tried := true, fallback := true }) s
  if romOk s (slotImage s.standby slot) then romBoots slot s1 else failBringUp 3 s1

/-- ROM_PHASE (R745, R758): the hallmark is derived, and stage 1 of the boot slot is verified, or of the other slot.
[DEDUCED: log 75] -/
def romPhase (s : State) : State :=
  let s1 : State := { s with sec := { s.sec with pubKey := Config.hallmark } }
  if !s.standby.tried && romOk s (slotImage s.standby s.standby.bootSlot) then romBoots s.standby.bootSlot s1
  else romFallback s1

def execRomPhase (s : State) : Host.Outcome State Fault Refusal :=
  whenOk s (s.standby.phase == 2) (romPhase s)

/-- STAGE1_PHASE (R745, R749, R765): stage 2 verifies and starts, and the chain lanes begin to train; or the boot restarts
from the other slot. [DEDUCED: log 75] -/
def stage1Phase (s : State) : State :=
  let l := slotImage s.standby s.standby.slot
  if stage2Ok s l then
    let s1 := identify l s
    toPhase 4 (upTo 16 (fun t p => beginTraining p t) s1)
  else if s.standby.tried then failBringUp 3 s
  else toPhase 2 (modStandby (fun b => { b with tried := true, fallback := true }) s)

def execStage1Phase (s : State) : Host.Outcome State Fault Refusal :=
  whenOk s (s.standby.phase == 3) (stage1Phase s)

/-- The page-retire table of a bezel from the standby partition's copy (R747). -/
def reloadRetires (z : Nat) (s : State) : State :=
  let l := (s.standby.retires.filter fun p => p.1 / 2 ^ 25 == z).map fun p => (p.1 % 2 ^ 25, p.2)
  modBezel z (fun b => { b with redirect := l, nextReserve := l.foldl (fun a p => max a p.2) 0 }) s

/-- STACKS_PHASE (R746 to R748): the stacks are trained and zeroed, or a channel fails. [DEDUCED: log 76] -/
def execStacksPhase (fail : Option (Fin 16 × Fin 32)) (s : State) : Host.Outcome State Fault Refusal :=
  whenOk s (s.standby.phase == 4)
    (match fail with
     | some (z, c) => failBringUp 4 (modStandby (fun b => { b with
         failStack := BitVec.ofNat 4 z.val, failChan := BitVec.ofNat 5 c.val }) s)
     | none => toPhase 5 (upTo 16 (fun t z => reloadRetires z t) { s with mem := { s.mem with cells := [] } }))

/-- The outcome of the self-test of a position: none where it passed, else whether the parity bit is the one set. -/
def testOf (failed : List (RouterN × Bool)) (p : Nat) : Option Bool :=
  (failed.find? fun x => x.1.val == p).map (·.2)

/-- A failed active position (R751): the spare serves for the first of its string, where it passed and does not serve.
[DEDUCED: log 76] -/
def mapFailed (failed : List (RouterN × Bool)) (p : Nat) (parity : Bool) (s : State) : State :=
  let sp := spareOf p
  let o := (ordOfPos p).getD 0
  let s1 := hubRaise (1024 + o) (beadFaultRecord o parity false s)
  if (testOf failed sp).isNone ∧ posState s sp = 2 then
    modNutas (fun n => { n with serves := tblSet 0 n.serves sp p }) (setPos sp 3 (setPos p 4 s1))
  else setPos p 5 s1

/-- A position after the self-test (R750, R751). -/
def mapPos (failed : List (RouterN × Bool)) (p : Nat) (s : State) : State :=
  if posState s p = 7 then s
  else
    match testOf failed p with
    | none => s
    | some parity => if p % 9 = 8 then (if posState s p = 2 then setPos p 6 s else s) else mapFailed failed p parity s

/-- BEADS_PHASE (R441, R748, R750, R751). [DEDUCED: log 76] -/
def execBeadsPhase (failed : List (RouterN × Bool)) (s : State) : Host.Outcome State Fault Refusal :=
  let s1 := upTo 1152 (fun t p => mapPos failed p t) s
  whenOk s (s.standby.phase == 5) (toPhase 6 { s1 with nutas := { s1.nutas with reach := reachNow s1 } })

/-- FABRIC_PHASE (R752). [DEDUCED: log 76] -/
def execFabricPhase (ok : Bool) (s : State) : Host.Outcome State Fault Refusal :=
  whenOk s (s.standby.phase == 6 && s.clock.mode == .quiescent && !s.clock.fabricOk)
    (if ok then { s with clock := { s.clock with fabricOk := true } } else failBringUp 5 s)

/-- READY_PHASE (R753, R768). [DEDUCED: log 76] -/
def execReadyPhase (ms : BitVec 16) (s : State) : Host.Outcome State Fault Refusal :=
  let s1 := modStandby (fun b => { b with phase := 7, ms := ms }) s
  whenOk s (s.standby.phase == 6 && s.clock.mode == .arbitrated)
    (advanceRollback { s1 with host := { s1.host with link := 1 } })

/-- PWR_STAT as it reads (R793). -/
def pwrStat (p : PowerCtl) : Word :=
  BitVec.ofNat 64 (p.pavg.toNat + p.ptick.toNat * 2 ^ 12 + p.tjmax.toNat * 2 ^ 24 + p.duty.toNat * 2 ^ 32 +
    b2n p.overLim * 2 ^ 36 + b2n p.hot * 2 ^ 37 + p.vin.toNat * 2 ^ 38 + p.hotCnt.toNat * 2 ^ 48)

def offPwrStat : Nat := 0x080000

/-- PWR_STAT_READ (R793). -/
def execPwrStatRead (w : Width) (s : State) : Host.Outcome State Fault Refusal :=
  .next (regReadRow offPwrStat w (pwrStat s.power) (fun t => { t with power := { t.power with
    hotCnt := rc w 63 48 t.power.hotCnt 0 } }) s)

end Sys2Proof.Machine
end

