-- ==== Sys2Proof/Machine/Hub.lean ====
section
/-! DEFINITION. The interrupt hub's rows (chapter 19). -/

namespace Sys2Proof.Machine

/-- A bead-fault source names an ordinal that no bead answers: it is never raised (R658). -/
def hubLive (s : State) (src : Nat) : Bool := hubAssigned src && (decide (src < 1024) || ordLive s (src - 1024))

/-- HUB_EVENT (R643): an event of a source that R658 assigns. -/
def execHubEvent (src : Fin 2048) (s : State) : Host.Outcome State Fault Refusal :=
  whenOk s (mainUp s && hubLive s src.val) (hubRaise src.val s)

/-- `f` on each source of a word whose bit is written 1; reserved sources ignore it (R643). -/
def onSources (w : Nat) (v : Word) (f : Nat → State → State) (s : State) : State :=
  upTo 64 (fun t i => if bitOf v.toNat i && hubAssigned (64 * w + i) then f (64 * w + i) t else t) s

/-- IRQ_PEND_SET (R643). -/
def execIrqPendSet (m : Master) (w : Fin 32) (v : Word) (s : State) : Host.Outcome State Fault Refusal :=
  .next (regWriteRow m (offPendSet w.val) (onSources w.val v hubSet) s)

/-- IRQ_PEND_CLR (R643). -/
def execIrqPendClr (m : Master) (w : Fin 32) (v : Word) (s : State) : Host.Outcome State Fault Refusal :=
  .next (regWriteRow m (offPendClr w.val) (onSources w.val v hubClear) s)

/-- The bits of a word of a target's mask set or cleared (R645). -/
def maskWrite (t w : Nat) (v : Word) (on : Bool) (s : State) : State :=
  let bits : BitVec 2048 := BitVec.ofNat 2048 (v.toNat * 2 ^ (64 * w))
  let old := hubMask s.hub t
  let new := if on then old ||| bits else old &&& ~~~ bits
  { s with hub := { s.hub with mask := tblSet (BitVec.allOnes 2048) s.hub.mask t new } }

/-- IRQ_MASK_SET (R646). -/
def execIrqMaskSet (m : Master) (t : Fin 37) (w : Fin 32) (v : Word) (s : State) : Host.Outcome State Fault Refusal :=
  .next (regWriteRow m (offMaskSet t.val w.val) (maskWrite t.val w.val v true) s)

/-- IRQ_MASK_CLR (R647). -/
def execIrqMaskClr (m : Master) (t : Fin 37) (w : Fin 32) (v : Word) (s : State) : Host.Outcome State Fault Refusal :=
  .next (regWriteRow m (offMaskClr t.val w.val) (maskWrite t.val w.val v false) s)

/-- The master that claims for a target (R651). -/
def claims (m : Master) (t : Nat) : Bool :=
  match m with
  | .core => decide (t < 4)
  | .host => decide (4 ≤ t) && decide (t ≤ 35)
  | .mgmt => t == 36

/-- Offset of IRQ_CLAIMt. -/
def offClaim (t : Nat) : Nat := 0x020400 + 8 * t

/-- A read of IRQ_CLAIMt (R648 to R653): a master that does not claim for the target changes nothing; a host claim makes
the hub look at the line again four ck later. -/
def claimRead (m : Master) (t : Nat) (s : State) : State :=
  let r := claimValue s.hub t
  let s1 := emit (.regValue r.1) s
  if claims m t then
    let s2 := match r.2 with
      | some src => hubTake src s1
      | none => s1
    if m = .host then { s2 with hub := { s2.hub with after := s2.hub.after ++ [(t, 4)] } } else s2
  else s1

/-- IRQ_CLAIM (R648). -/
def execIrqClaim (m : Master) (t : Fin 37) (s : State) : Host.Outcome State Fault Refusal :=
  .next (if answers s (offClaim t.val) && reaches s m then claimRead m t.val s else s)

end Sys2Proof.Machine
end

