-- ==== Sys2Proof/Machine/MapCmd.lean ====
section
/-! DEFINITION. MAP, UNMAP, WINDOW and SPLIT (R603, R604), and the split taking effect (R318). -/

namespace Sys2Proof.Machine

/-- The key of a translation-store entry. -/
def tsKey (facet table idx : Nat) : Nat := facet * 524288 + table * 512 + idx

/-- The entries of a table that the bank lists. -/
def tableEntries (bank : Tbl Word) (facet table : Nat) : List Nat :=
  (bank.filter fun p => p.1 / 512 == facet * 1024 + table).map fun p => p.2.toNat

/-- The tables that a table of level `lv` leads to. -/
def tablesUnder (bank : Tbl Word) (facet : Nat) (lv table : Nat) : List Nat :=
  match lv with
  | 0 => []
  | k + 1 => ((tableEntries bank facet table).filter fun e => teValid e && !teLeaf e).flatMap fun e =>
      bitsOf e 12 10 :: tablesUnder bank facet k (bitsOf e 12 10)

/-- A table of a facet that no walk from the root reaches. -/
def freeTable (bank : Tbl Word) (facet : Nat) : Option Nat :=
  let used := 0 :: tablesUnder bank facet 3 0
  (List.range 1024).find? fun t => !used.contains t

/-- Every entry of a table absent. -/
def clearTable (bank : Tbl Word) (facet table : Nat) : Tbl Word := bank.filter fun p => p.1 / 512 != facet * 1024 + table

/-- The leaves of the next smaller size that map what a leaf of level `k + 1` maps (R604). -/
def splitLeaf (bank : Tbl Word) (facet table k e : Nat) : Tbl Word :=
  upTo 512 (fun b i => tblSet 0 b (tsKey facet table i) (BitVec.ofNat 64 (e + i * 2 ^ (12 + 9 * k)))) bank

/-- An entry written for one page at level `lo`, from a table of level `lv` on (R604): leaves in the way are split, tables
in the way are replaced, and tables that are missing are made where `make` is set. None where the tables cannot hold it. -/
def setPage (facet dev lo : Nat) (leaf : Word) (make : Bool) (lv table : Nat) (bank : Tbl Word) : Option (Tbl Word) :=
  let key := tsKey facet table (bitsOf dev (12 + 9 * lv) 9)
  match lv with
  | 0 => some (tblSet 0 bank key leaf)
  | k + 1 =>
    if k + 1 ≤ lo then some (tblSet 0 bank key leaf)
    else
      let e := (tblGet 0 bank key).toNat
      if teValid e ∧ !teLeaf e then setPage facet dev lo leaf make k (bitsOf e 12 10) bank
      else if !teValid e ∧ !make then some bank
      else
        match freeTable bank facet with
        | none => none
        | some t =>
          let b1 := clearTable bank facet t
          let b2 := if teValid e then splitLeaf b1 facet t k e else b1
          setPage facet dev lo leaf make k t (tblSet 0 b2 key (BitVec.ofNat 64 (1 + t * 4096)))

/-- `n` pages of a facet written. -/
def setPages (facet dev phys lo n attrs : Nat) (map : Bool) (bank : Tbl Word) : Option (Tbl Word) :=
  let size := 2 ^ (12 + 9 * lo)
  upTo n (fun b i => b.bind fun t =>
    setPage facet (dev + i * size) lo (if map then BitVec.ofNat 64 (phys + i * size + attrs) else 0) map 3 0 t) (some bank)

/-- The change in every named facet. -/
def setFacets (facets dev phys lo n attrs : Nat) (map : Bool) (bank : Tbl Word) : Option (Tbl Word) :=
  upTo 8 (fun b f => if bitOf facets f then b.bind (setPages f dev phys lo n attrs map) else b) (some bank)

/-- Fields of MAP and UNMAP (R603). -/
def mapLo (c : Cmd) : Nat := bitsOf (entryByte c.entry 44) 0 2
def mapDev (c : Cmd) : Nat := entryNum c.entry 24 6
def mapPhys (c : Cmd) : Nat := entryNum c.entry 32 6
def mapPages (c : Cmd) : Nat := entryNum c.entry 40 4
def mapSize (c : Cmd) : Nat := 2 ^ (12 + 9 * mapLo c)

/-- The effect of MAP (`map`) or UNMAP: the change is loaded into the shadow bank, and a swap is armed behind it. -/
def mapEffect (map : Bool) (k : Nat) (c : Cmd) (s : State) : CmdEnd :=
  -- V, LEAF and the three permission bits
  let attrs := 3 + 4 * bitsOf (entryByte c.entry 44) 2 3
  match setFacets (entryByte c.entry 45) (mapDev c) (mapPhys c) (mapLo c) (mapPages c) attrs map s.mmu.shadow with
  | none => .done stNoSpace 0 0 s
  | some b => .wait (waitFor (.map k) (loadStores b s))

/-- Checks of the fields that MAP and UNMAP share. -/
def unmapChecks (c : Cmd) (_ : State) : List (Nat × Bool) :=
  [(24, mapDev c % mapSize c == 0), (40, decide (1 ≤ mapPages c) && decide (mapDev c + mapPages c * mapSize c ≤ 2 ^ 48)),
   (44, mapLo c != 3)]

/-- Checks of the fields of MAP. -/
def mapChecks (c : Cmd) (s : State) : List (Nat × Bool) :=
  unmapChecks c s ++
    [(32, mapPhys c % mapSize c == 0), (40, decide (mapPhys c + mapPages c * mapSize c ≤ 2 ^ 48))]

/-- MAP (R603, R604). [DEDUCED: log 54] -/
def execMap (k : Nat) (s : State) : Host.Outcome State Fault Refusal :=
  command 0x10 k (bytesMask 24 6 ++ bytesMask 32 6 ++ bytesMask 40 4 ++ [(44, 0x1F), (45, 0xFF)]) mapChecks noBuf
    (mapEffect true k) s

/-- UNMAP (R603, R604). [DEDUCED: log 54] -/
def execUnmap (k : Nat) (s : State) : Host.Outcome State Fault Refusal :=
  command 0x11 k (bytesMask 24 6 ++ bytesMask 40 4 ++ [(44, 0x03), (45, 0xFF)]) unmapChecks noBuf
    (mapEffect false k) s

/-- The window attributes that WINDOW names (R328, R603). -/
def windowOf (c : Cmd) : BoardWin :=
  { enable := bitOf (entryByte c.entry 24) 3, readOnly := bitOf (entryByte c.entry 24) 4
    hpa := entryNum c.entry 32 8, gib := entryNum c.entry 40 2 }

/-- WINDOW (R603, R604): in force at the next translation-store swap. [DEDUCED: log 54] -/
def execWindow (k : Nat) (s : State) : Host.Outcome State Fault Refusal :=
  command 0x12 k ([(24, 0x1F)] ++ bytesMask 32 8 ++ bytesMask 40 2)
    (fun c _ => [(32, entryNum c.entry 32 8 % gib == 0),
      (40, decide (1 ≤ entryNum c.entry 40 2) && decide (entryNum c.entry 40 2 ≤ 2048))]) noBuf
    (fun c t =>
      let t1 : State := { t with mmu := { t.mmu with
        winShadow := tblSet {} t.mmu.winShadow (bitsOf (entryByte c.entry 24) 0 3) (windowOf c) } }
      .wait (waitFor (.window k) (if storesLoading t1 then t1 else armTs t1))) s

/-- SPLIT (R318, R603, R604). [DEDUCED: log 54] -/
def execSplit (k : Nat) (s : State) : Host.Outcome State Fault Refusal :=
  command 0x13 k [(24, 0xFF)] (fun c _ => [(24, decide (entryByte c.entry 24 ≤ 64))]) noBuf
    (fun c t =>
      let v := BitVec.ofNat 7 (entryByte c.entry 24)
      if planRuns t then .done stPlanRunning 0 0 t
      else if v = t.mem.splitNow then .done stOk 0 0 { t with mem := { t.mem with split := v } }
      else .wait (waitFor (.split k) { t with mem := { t.mem with split := v } })) s

/-- A message on its way to a bezel, or from one. -/
def stackMsg (m : Msg) : Bool := (decide (0x800 ≤ m.dst.val) && decide (m.dst.val < 0x810)) ||
  (decide (0x800 ≤ m.src.val) && decide (m.src.val < 0x810))

/-- No stack request is outstanding (R318). -/
def stacksQuiet (s : State) : Bool :=
  (s.bezels.all fun p => p.2.sorter.isEmpty) &&
  (s.fabric.inj.all fun p => p.2.all fun m => !stackMsg m) &&
  (s.fabric.flights.all fun p => p.2.all fun f => !stackMsg f.msg) &&
  (s.fabric.arrivals.all fun p => p.2.all fun m => !stackMsg m) &&
  (s.beads.all fun p => p.2.reqs.all fun r => r.st != .issued || !(r.phys ++ r.dstPhys).any fun a => inStacks a 32) &&
  (s.chain.ports.all fun p => p.2.out.all fun e => match e.2 with
    | some x => !x.phys.any fun a => inStacks a 32
    | none => true)

/-- A new SPLIT is due (R318): no plan runs and no stack request is outstanding. -/
def splitDue (s : State) : Bool := s.mem.split != s.mem.splitNow && !planRuns s && stacksQuiet s

/-- The new SPLIT takes effect, and the SPLIT that asked for it completes (R318, R603). -/
def splitTake (s : State) : State :=
  completeWaits (fun w => match w with
      | .split n => some n
      | _ => none) stOk 0
    { s with mem := { s.mem with splitNow := s.mem.split } }

/-- SPLIT_TAKE_EFFECT (R318). `TICK_BOUNDARY` does the same where the change is due at the boundary itself; the row gives the
event in ck 0 where it is due only then. [DEDUCED: log 54] -/
def execSplitTakeEffect (s : State) : Host.Outcome State Fault Refusal :=
  whenOk s (mainUp s && decide (s.clock.ck = 0) && splitDue s) (splitTake s)

end Sys2Proof.Machine
end

