-- ==== Sys2Proof/Machine/Replay.lean ====
section
/-! DEFINITION. The tick snapshot, hold and replay (chapters 2, 10, 12 and 21), and spare substitution (chapter 22). -/

namespace Sys2Proof.Machine

/-- `f` on every bead that is listed and answers its ordinal, in order of ordinals. -/
def eachBead (f : Nat → State → State) (s : State) : State :=
  (s.beads.filter fun p => ordLive s p.1).foldl (fun t p => f p.1 t) s

/-! ### The snapshot -/

/-- The values of a table by key, the defaults left out. -/
def tblOf {α : Type} [DecidableEq α] (d : α) (n : Nat) (f : Nat → α) : Tbl α :=
  (List.range n).foldl (fun t k => tblSet d t k (f k)) []

/-- What the tick snapshot keeps of a bead at ck 0 (R72, R141, R269, R380): its started harts, XQDONE, the statistics files
and the strands. -/
def snapOf (b : Bead) : Snap :=
  { harts := b.harts.filter fun p => p.2.run != .stopped
    done := tblOf 0 4 fun q => (queueOf b q).done
    files := tblOf {} 2 fun a => (drainOf b a).file
    strands := tblOf {} 8 fun n =>
      { running := (strandOf b n).running, daddr := (strandOf b n).daddr, consumed := (strandOf b n).consumed } }

/-- Every bead and every clasp holder takes its snapshot (R72, R456). -/
def takeSnaps (s : State) : State := claspSnap (eachBead (fun o => modBead o fun b => { b with snap := some (snapOf b) }) s)

/-- A hart in a hold tick (R73, R141): a started hart takes the snapshot's program counter, registers, fcsr and Xmacel
CSRs, with the mode it ran in. [DEDUCED: log 64] -/
def restoreHart (sn : Snap) (h : Nat) (t : Hart) : Hart :=
  match sn.harts.find? fun p => p.1 == h with
  | some (_, k) =>
    { t with
      pc := k.pc, x := k.x, f := k.f, fcsr := k.fcsr, tcfg := k.tcfg, resumeRow := k.resumeRow, userMode := k.userMode
      run := .running, hold := .none, stores := 0 }
  | none => { t with hold := .none, stores := 0 }

/-- A request to which an answer comes: one that has left, but for a clasp increment (R449). -/
def answered (r : Req) : Bool :=
  r.st == .issued && r.slot.isSome && (match r.owner with
    | .clasp _ => r.kind != .write
    | _ => true)

/-- Requests that have left keep their slots until they are answered; nobody takes the answer (R426).
[DEDUCED: log 64] -/
def abandonReqs (l : List Req) : List Req := (l.filter answered).map abandon

/-- The queues of a bead without an entry: XQSTAT, XFAULT and XFADDR clear. -/
def emptyQueues (done : Nat → BitVec 16) : Tbl Queue := tblOf {} 4 fun q => { done := done q }

/-- A bead in a hold tick (R73, R141, R269, R380). [DEDUCED: log 64] -/
def holdBead (b : Bead) : Bead :=
  let sn := b.snap.getD {}
  { b with
    harts := tblOf {} 4 fun h => restoreHart sn h (hartOf b h)
    tiles := []
    accs := []
    arrs := []
    drains := tblOf {} 2 fun a => { file := tblGet {} sn.files a, lfsr := (drainOf b a).lfsr }
    queues := emptyQueues fun q => tblGet 0 sn.done q
    strands := []
    reqs := abandonReqs b.reqs }

/-! ### Messages of the abandoned tick -/

/-- A message that a bead has sent. -/
def fromBead (m : Msg) : Bool := decide (m.src.val < 1152)
/-- An answer on its way to a bead. -/
def toBeadAnswer (m : Msg) : Bool := decide (m.dst.val < 1152) && (m.op == opResp || m.op == opAck)

/-- A table of lists filtered, empty lists left out. -/
def filterLists {α : Type} (p : Nat → α → Bool) (t : Tbl (List α)) : Tbl (List α) :=
  (t.map fun x => (x.1, x.2.filter (p x.1))).filter fun x => !x.2.isEmpty

/-- Arrivals that a hold tick discards: answers at beads, and unserved requests of beads at beads, ports, crossbars and the
locket. Bezels and the CXL node keep theirs. -/
def arrivalGoes (n : Nat) (m : Msg) : Bool :=
  if n < 1152 then fromBead m || toBeadAnswer m
  else if (0x810 ≤ n ∧ n < 0x820) ∨ 0x821 ≤ n then fromBead m
  else false

/-- The fabric in a hold tick (R426): the beads' injection queues are discarded with what they had in flight; port nodes
keep theirs. [DEDUCED: log 64] -/
def holdFabric (s : State) : State :=
  { s with fabric := { s.fabric with
      inj := (s.fabric.inj.filter fun p => decide (1152 ≤ p.1 / 16))
      flights := filterLists (fun _ f => !(fromBead f.msg || toBeadAnswer f.msg)) s.fabric.flights
      arrivals := filterLists (fun n m => !arrivalGoes n m) s.fabric.arrivals } }

/-- The messages that a hold tick discards: what beads have sent, and what is on its way to answer them (R426). -/
def discarded (s : State) : List Msg :=
  ((s.fabric.inj.filter fun p => decide (p.1 / 16 < 1152)).flatMap fun p => p.2) ++
  (s.fabric.flights.flatMap fun p => (p.2.map fun f => f.msg).filter fun m => fromBead m || toBeadAnswer m) ++
  (s.fabric.arrivals.flatMap fun p => p.2.filter fun m => arrivalGoes p.1 m)

/-- A message that would have brought an answer to a bead's request, or is one. -/
def concerns (n : Nat) (r : Req) (m : Msg) : Bool :=
  let mine (x : NodeN) (t : BitVec 10) : Bool := x.val == n && r.slot == some t.toNat
  if m.op = opResp ∨ m.op = opAck then mine m.dst m.tag
  else mine m.src m.tag || m.also.any fun p => mine p.1 p.2

/-- A bead's requests lose the parts whose messages a hold tick has discarded; one that no answer will reach any more leaves its
slot (R426). [DEDUCED: log 64] -/
def loseParts (l : List Msg) (o : Nat) (b : Bead) : Bead :=
  { b with reqs := (b.reqs.map fun r => { r with parts := r.parts - countIf (concerns (nodeBead o) r) l }).filter fun r =>
      r.st != .issued || r.parts != 0 }

/-- Every block abandons the unfinished work of the overrun tick (R34, R73, R380, R426, R456). [DEDUCED: log 64] -/
def holdAll (s : State) : State :=
  let s1 := eachBead (fun o => modBead o fun b => loseParts (discarded s) o (holdBead b)) s
  let s2 := upTo 16 (fun t z => if (bezelOf t z).watch = [] then t else modBezel z (fun b => { b with watch := [] }) t) s1
  claspRestore (holdFabric { s2 with mmu := { s2.mmu with walks := [] } })

/-- Strands restart from their recorded runs at ck 0 of the replay tick, with their watch entries taken again (R380). One
whose descriptor no longer stands stays stopped. [DEDUCED: log 64] -/
def restartStrand (o n : Nat) (k : StrandSnap) (s : State) : State :=
  if !k.running then s
  else
    match strandGo o n k.daddr (lookDesc o n k.daddr s) with
    | .go t => modBead o (modStrand n fun x => { x with next := k.consumed, consumed := k.consumed }) t
    | .fault _ _ => s

/-- The replay tick begins (R35, R380). [DEDUCED: log 64] -/
def beginReplay (s : State) : State :=
  claspSnap (eachBead (fun o t =>
    ((beadOf t o).snap.getD {}).strands.foldl (fun u p => restartStrand o p.1 p.2 u) t) s)

/-! ### Spare substitution -/

/-- A position of the string takes part in a substitution. -/
def stringBusy (s : State) (p : Nat) : Bool := s.nutas.substs.any fun q => q / 9 == p / 9

/-- Nutas writes the reach mask of now into the shadow bank; it takes effect at the next swap (R441).
[DEDUCED: log 68] -/
def loadReach (s : State) : State := { s with nutas := { s.nutas with reachShadow := reachNow s } }

/-- A position becomes FAILED_OPEN (R85, R691, R723): its spare, where it served or failed, is lost, and the shadow reach
mask no longer names its ordinal. [DEDUCED: log 68] -/
def failOpen (p : Nat) (s : State) : State :=
  loadReach (setPos p 5 (if posState s p = 4 then setPos (spareOf p) 6 s else s))

/-- A bead is stopped for its substitution outside scheduled mode (R720). -/
def stopForSubst (o : Nat) (s : State) : State :=
  let s1 := modBead o (fun b => { b with
    harts := [], tiles := [], accs := [], arrs := [], drains := [], queues := emptyQueues (fun q => (queueOf b q).done)
    strands := [], reqs := abandonReqs b.reqs, stopped := true }) s
  { s1 with clasps := { s1.clasps with waiters := filterLists (fun _ w => match w.by_ with
      | .own k _ => k.val != o
      | .node n _ => n.val != nodeBead o) s1.clasps.waiters } }

/-- A substitution begins for a position (R720). [DEDUCED: log 68] -/
def beginSubst (p : Nat) (s : State) : State :=
  let s1 := modNutas (fun n => { n with substs := n.substs ++ [p] }) s
  match ordOfPos p with
  | some o => if s.clock.mode = .scheduled then s1 else stopForSubst o s1
  | none => s1

/-- A position that a waiting SUBST names. -/
def namedBySubst (s : State) (p : Nat) : Bool := s.nutas.waits.any fun w => match w with
  | .subst _ q => q == p
  | _ => false

/-- A bead that a bead fault has stopped is substituted, or the fault ends scheduled service (R691). With its spare ready and
AUTOSUB = 0 its position keeps the code it had. [DESIGN CHOICE: log 97] -/
def faultedBead (o : Nat) (s : State) : State :=
  let p := posOfOrd o
  if s.nutas.substs.contains p ∨ namedBySubst s p then s
  else if posState s (spareOf p) = 2 ∧ !stringBusy s p then
    if s.faults.autosub then beginSubst p s else endService 0x05 s
  else endService 0x05 (failOpen p s)

/-- A waiting SUBST begins, or finds no spare any more. -/
def waitingSubst (num p : Nat) (s : State) : State :=
  if s.nutas.substs.contains p then s
  else if posState s (spareOf p) = 2 ∧ !stringBusy s p then beginSubst p s
  else complete num stNoSpare 0 0 (dropWait (fun w => w == .subst num p) s)

/-- Substitutions that begin at a boundary that opens a hold tick, or any tick outside scheduled mode (R715, R720);
SUBSTs only where `named` is set. -/
def beginSubsts (named : Bool) (s : State) : State :=
  let faulted := (s.beads.filter fun p => p.2.stopped && ordLive s p.1).map (·.1)
  let s1 := faulted.foldl (fun t o => faultedBead o t) s
  if !named then s1
  else s1.nutas.waits.foldl (fun t w => match w with
    | .subst num p => waitingSubst num p t
    | _ => t) { s1 with clock := { s1.clock with forceSubst := false } }

/-- The granules of a bead's data memory that hold something. -/
def dmemListed (s : State) (o : Nat) : List Nat :=
  ((s.mem.cells.map fun c => c.1 / 36).filter fun g =>
    decide (dmemGran o 0 ≤ g) && decide (g < dmemGran o 24576)).dedup.map fun g => g - dmemGran o 0

/-- Migration copies each code word unchanged; one that decodes UNCORR arrives poisoned and is recorded (R722). -/
def migrate (o : Nat) (s : State) : State :=
  (dmemListed s o).foldl (fun t g =>
    if (decodeCode (dmemGet t o g)).1 = .uncorr then
      recordPart o (beadPhys o (32 * g)) 1 1 (spareOf (posOfOrd o)) false (dmemPut o g poisonCode t)
    else t) s

/-- The spare serves for a position (R15, R721, R724): the state of R721 has come over, and L1 and micro-TLB are empty.
[DEDUCED: log 68] -/
def substDone (p o : Nat) (s : State) : State :=
  let sp := spareOf p
  let s1 := setPos sp 3 (setPos p 4 (migrate o s))
  let s2 := modNutas (fun n => { n with serves := tblSet 0 n.serves sp p }) s1
  modBead o (fun b => { b with
    tiles := [], accs := [], arrs := [], l1 := [], tlb := [], stopped := false }) s2

/-- The SUBST command of a position. -/
def substOf (s : State) (p : Nat) : Option Nat := s.nutas.waits.findSome? fun w => match w with
  | .subst num q => if q = p then some num else none
  | _ => none

/-- A substitution ends at the boundary that closes its tick (R86, R620, R691, R721, R723). [DEDUCED: log 68] -/
def endSubst (fails : Bool) (tick : BitVec 48) (p : Nat) (s : State) : State :=
  let cmd := substOf s p
  let end_ (st : Nat) (r0 r1 : Word) (t : State) : State := match cmd with
    | some k => inTick tick (complete k st r0 r1) (dropWait (fun w => w == .subst k p) t)
    | none => t
  match ordOfPos p with
  | none => s
  | some o =>
    if fails then
      end_ stNoSpare 0 0 (endService 0x05 (loadReach (setPos (spareOf p) 6 (setPos p 5 s))))
    else
      let s1 := substDone p o s
      match cmd with
      | some _ => end_ stOk (BitVec.ofNat 64 (spareOf p)) (tick.setWidth 64) (expressRecord o s1)
      | none => beadFaultRecord o false true s1

/-- Every substitution under way ends; those whose spare fails its check or does not finish are named.
[DEDUCED: log 65] -/
def endSubsts (spareFail : List RouterN) (tick : BitVec 48) (s : State) : State :=
  s.nutas.substs.foldl (fun t p => endSubst (spareFail.any fun r => r.val == spareOf p) tick p t)
    (modNutas (fun n => { n with substs := [] }) s)

end Sys2Proof.Machine
end

