-- ==== Sys2Proof/Machine/Service.lean ====
section
/-! DEFINITION. SUBST and SPARE_TEST, stack retraining and page retirement (chapters 17 and 22). -/

namespace Sys2Proof.Machine

/-! ### Spares -/

/-- The position that SUBST and SPARE_TEST name (R14, R620). -/
def namedPos (c : Cmd) : Nat := entryByte c.entry 24 * 144 + entryByte c.entry 25 * 9 + entryByte c.entry 26

/-- Checks of facet and string. -/
def stringChecks (c : Cmd) (_ : State) : List (Nat × Bool) :=
  [(24, decide (entryByte c.entry 24 < 8)), (25, decide (entryByte c.entry 25 < 16))]

/-- SUBST (R620, R720): the substitution waits for a boundary; while a plan runs an overrun is forced.
[DEDUCED: log 68] -/
def execSubst (k : Nat) (s : State) : Host.Outcome State Fault Refusal :=
  command 0xA0 k [(24, 0xFF), (25, 0xFF), (26, 0xFF)]
    (fun c t => stringChecks c t ++ [(26, decide (entryByte c.entry 26 < 9))]) noBuf
    (fun c t =>
      let p := namedPos c
      if p % 9 = 8 ∨ posState t p = 7 ∨ posState t p = 5 then .done stInvalidTarget 0 0 (invalidTarget p t)
      else if posState t (spareOf p) ≠ 2 then .done stNoSpare 0 0 t
      else
        let t1 := waitFor (.subst k p) t
        .wait (if t.clock.mode = .scheduled then { t1 with clock := { t1.clock with forceSubst := true } } else t1)) s

/-- SPARE_TEST (R620): the retest's outcome is `pass`. [DEDUCED: log 68] -/
def execSpareTest (k : Nat) (pass : Bool) (s : State) : Host.Outcome State Fault Refusal :=
  command 0xA1 k [(24, 0xFF), (25, 0xFF), (26, 0xFF)] stringChecks noBuf
    (fun c t =>
      let sp := entryByte c.entry 24 * 144 + entryByte c.entry 25 * 9 + 8
      if posState t sp = 7 then .done stInvalidTarget 0 0 (invalidTarget sp t)
      else if (posState t sp ≠ 2 ∧ posState t sp ≠ 6) ∨ stringBusy t sp then .done stNoSpare 0 0 t
      else
        let code := if pass then 2 else 6
        .done stOk (BitVec.ofNat 64 code) 0 (setPos sp code t)) s

/-! ### Stack retraining -/

/-- 256-byte bursts of a channel: those of its 2 GiB of data rows, and with those of its 96 MiB of reserve rows (R731). -/
def dataBursts : Nat := 8388608
def allBursts : Nat := 8781824

/-- Ticks of the phases (R732). -/
def copyTicks : Nat := 8576
def remapTicks : Nat := 123

/-- A channel of some stack retrains (R735). -/
def retraining (s : State) : Bool := (List.range 16).any fun z => (bezelOf s z).retrainPhase != .idle

/-- COPY begins for a channel (R732). -/
def beginRetrain (z ch : Nat) (s : State) : State :=
  modBezel z (fun b => { b with
    retrainCh := BitVec.ofNat 5 ch, retrainPhase := .copy, retrainLeft := BitVec.ofNat 14 copyTicks, copied := 0 }) s

/-- BZL_RETRAIN's GO (R735). -/
def retrainGo (z ch : Nat) (s : State) : State :=
  let s1 := modBezel z (fun b => { b with retrainSel := BitVec.ofNat 5 ch }) s
  if retraining s then s1 else beginRetrain z ch s1

/-- BZL_RETRAIN_GO (R735). -/
def execBzlRetrainGo (m : Master) (b : BezelN) (ch : Fin 32) (s : State) : Host.Outcome State Fault Refusal :=
  .next (regWriteRow m (offBzl b.val 0x28) (retrainGo b.val ch.val) s)

/-- The next channel of a rotation begins, when none retrains. [DEDUCED: log 84] -/
def rotateNext (s : State) : State :=
  match s.nutas.rotation with
  | none => s
  | some n =>
    if retraining s then s
    else
      let s1 := modNutas (fun t => { t with rotation := if n + 1 < 512 then some (n + 1) else none }) s
      beginRetrain (n / 32) (n % 32) s1

/-- PERIOD hours have passed since the last rotation began (R735). [DESIGN CHOICE: log 25; DEDUCED: log 84] -/
def stackTurn (s : State) : Bool :=
  decide (ticksOf (3600 * max 1 (bezelOf s 0).retrainPeriod.toNat) ≤ s.clock.tick.toNat - s.nutas.rotTick)

/-- RETRAIN_AUTO_ROTATION (R735): PERIOD hours have passed with AUTO set in bezel 0. -/
def execRetrainAutoRotation (s : State) : Host.Outcome State Fault Refusal :=
  whenOk s (mainUp s && nutasUp s && (bezelOf s 0).retrainAuto && s.nutas.rotation.isNone && stackTurn s)
    (rotateNext (modNutas (fun t => { t with rotation := some 0, rotTick := s.clock.tick.toNat }) s))

/-- RETRAIN_PHASE_END (R732): COPY and RETURN end when every burst has been copied. -/
def execRetrainPhaseEnd (b : BezelN) (s : State) : Host.Outcome State Fault Refusal :=
  let z := b.val
  let q := bezelOf s z
  let go (p : Retrain) (left : Nat) : State :=
    modBezel z (fun x => { x with retrainPhase := p, retrainLeft := BitVec.ofNat 14 left, copied := 0 }) s
  match q.retrainPhase with
  | .idle => .next s
  | .copy => whenOk s (mainUp s && q.copied == allBursts) (go .remap remapTicks)
  | .remap => whenOk s (mainUp s) (go .return_ copyTicks)
  | .return_ => whenOk s (mainUp s && q.copied == allBursts) (rotateNext (go .idle 0))

/-- One granule of a burst of COPY (`back` = false) or RETURN goes over, corrected; one that decodes UNCORR arrives poisoned
and is recorded (R734). -/
def copyGran (back : Bool) (z l : Nat) (s : State) : State :=
  let far := reliefGran z (l / 32)
  let near := stackGran z (redirected (bezelOf s z) (l / 32))
  let c := codeAt s.mem (if back then far else near)
  let s1 := putCode (stackLook z l c true s) (if back then near else far) (passOn c)
  if (decodeCode c).1 = .uncorr then scrubRecord z l (priorMark s z l) s1 else s1

/-- A burst of a channel goes over; those of the reserve rows hold what the bezel keeps there in its own tables.
[DEDUCED: log 84] -/
def copyBurst (back : Bool) (z k ch : Nat) (s : State) : State :=
  if k < dataBursts then upTo 8 (fun t g => copyGran back z (k * 8192 + ch * 256 + g * 32) t) s else s

/-- RETRAIN_BURST_COPY (R732): the next burst of COPY or RETURN. -/
def execRetrainBurstCopy (b : BezelN) (s : State) : Host.Outcome State Fault Refusal :=
  let z := b.val
  let q := bezelOf s z
  whenOk s (mainUp s && (q.retrainPhase == .copy || q.retrainPhase == .return_) && decide (q.copied < allBursts))
    (modBezel z (fun x => { x with copied := x.copied + 1 })
      (copyBurst (q.retrainPhase == .return_) z q.copied q.retrainCh.toNat s))

/-! ### Page retirement -/

/-- Reserve frames and table entries of a bezel (R333, R736). -/
def reserveFrames : Nat := 4608
def retireEntries : Nat := 4096

/-- BZL_RETIRE's GO (R738). -/
def retireGo (z : Nat) (s : State) : State :=
  modBezel z (fun b => { b with retiring := b.retiring ++ [b.retireFrame.toNat] }) s

/-- BZL_RETIRE_GO (R738): FRAME is requested. -/
def execBzlRetireGo (m : Master) (b : BezelN) (s : State) : Host.Outcome State Fault Refusal :=
  .next (regWriteRow m (offBzl b.val 0x30) (retireGo b.val) s)

/-- A frame holds granules of the intake range (R737). [DEDUCED: log 84] -/
def frameInIntake (b : Bezel) (f : Nat) : Bool :=
  b.nblk != 0 && decide (intakeBase b < (f + 1) * 4096) && decide (f * 4096 < intakeBase b + 2048 * b.nblk.toNat)

/-- A frame holds bursts of the channel that retrains (R308, R737). [DEDUCED: log 84] -/
def frameRetrains (b : Bezel) (f : Nat) : Bool := b.retrainPhase != .idle && b.retrainCh.toNat / 16 == f % 2

/-- The table has no entry, or the bezel no reserve frame, for a frame (R333, R736). [DEDUCED: log 84] -/
def tableFull (b : Bezel) (f : Nat) : Bool :=
  decide (reserveFrames ≤ b.nextReserve) || (tblGet 0 b.redirect f == 0 && decide (retireEntries ≤ b.redirect.length))

/-- One granule of a retired frame goes into the reserve frame, corrected or poisoned, and counted (R393, R401, R736). -/
def retireGran (z f r i : Nat) (s : State) : State :=
  let l := f * 4096 + 32 * i
  let c := codeAt s.mem (stackGran z (redirected (bezelOf s z) (f * 128 + i)))
  let s1 := putCode (stackLook z l c true s) (stackGran z (stackGranules + r * 128 + i)) (passOn c)
  if (decodeCode c).1 = .uncorr then scrubRecord z l (priorMark s z l) s1 else s1

/-- A frame is retired (R332, R736, R737, R747): its content is copied, and the redirect switches to the reserve frame.
[DEDUCED: log 84] -/
def retireFrame (z f : Nat) (s : State) : State :=
  let r := (bezelOf s z).nextReserve
  let s1 := upTo 128 (fun t i => retireGran z f r i t) s
  let s2 := modBezel z (fun b => { b with redirect := tblSet 0 b.redirect f (r + 1), nextReserve := r + 1 }) s1
  recordAddr 0x04 (blkBezel z) (physOfLocal s z (f * 4096)) 2
    (modStandby (fun b => { b with retires := tblSet 0 b.retires (z * 2 ^ 25 + f) (r + 1) }) s2)

/-- The device addresses that a facet's bank maps to the frame at physical address `p`, each with the level of its leaf
(R321, R322); `dev` is where a table of level `lv` begins. -/
def mappedAt (bank : Tbl Word) (facet p lv table dev : Nat) : List (Nat × Nat) :=
  (bank.filter fun x => x.1 / 512 == facet * 1024 + table).flatMap fun x =>
    let e := x.2.toNat
    let size := 2 ^ (12 + 9 * lv)
    let d := dev + x.1 % 512 * size
    if !teValid e then []
    else if teLeaf e then (if bitsOf e 12 36 * 4096 / size = p / size then [(d + p % size, lv)] else [])
    else
      match lv with
      | 0 => []
      | k + 1 => mappedAt bank facet p k (bitsOf e 12 10) d

/-- A frame's 4 KiB page leaves a facet's bank: a larger leaf is split, or goes whole where the tables are full (R604). -/
def unmapAt (facet p : Nat) (bank : Tbl Word) : Tbl Word :=
  (mappedAt bank facet p 3 0 0).foldl (fun b x =>
    match setPage facet x.1 0 0 true 3 0 b with
    | some c => c
    | none => (setPage facet x.1 x.2 0 false 3 0 b).getD b) bank

/-- Nutas unmaps the physical page of a frame that cannot be retired, with the next swap of the translation stores (R333).
[DEDUCED: log 84] -/
def unmapFrame (p : Nat) (s : State) : State :=
  let bank := upTo 8 (fun b f => unmapAt f p b) s.mmu.shadow
  if bank = s.mmu.shadow then s else loadStores bank s

/-- A request for a frame is served (R333, R736, R737). -/
def serveRetire (z f : Nat) (s : State) : State :=
  let b := bezelOf s z
  if frameInIntake b f then s
  else if frameRetrains b f then modBezel z (fun b => { b with deferred := b.deferred ++ [f] }) s
  else if tableFull b f then
    let p := physOfLocal s z (f * 4096)
    unmapFrame p (recordAddr 0x04 (blkBezel z) p 4 s)
  else retireFrame z f s

/-- PAGE_RETIREMENT (R736): the oldest request. -/
def execPageRetirement (b : BezelN) (s : State) : Host.Outcome State Fault Refusal :=
  match (bezelOf s b.val).retiring with
  | [] => .next s
  | f :: r => whenOk s (mainUp s) (serveRetire b.val f (modBezel b.val (fun x => { x with retiring := r }) s))

/-- DEFERRED_RETIREMENT (R737): the retraining of the frame's channel has ended. -/
def execDeferredRetirement (b : BezelN) (s : State) : Host.Outcome State Fault Refusal :=
  match (bezelOf s b.val).deferred with
  | [] => .next s
  | f :: r =>
    whenOk s (mainUp s && !frameRetrains (bezelOf s b.val) f)
      (serveRetire b.val f (modBezel b.val (fun x => { x with deferred := r }) s))

end Sys2Proof.Machine
end

