-- ==== Sys2Proof/Machine/Regs.lean ====
section
/-! DEFINITION. The control window: what every register reads as, and what a write does (chapter 26). -/

namespace Sys2Proof.Machine

/-! ### Which offsets hold a register (R801, R802) -/

/-- A slot of a run of `n` slots from an offset on. -/
def inRun (o lo n : Nat) : Bool := decide (lo ≤ o) && decide (o < lo + 8 * n)

/-- A slot of the table of R801 or R802. -/
def regAssigned (o : Nat) : Bool :=
  o % 8 == 0 &&
  (inRun o 0x000000 10 ||
   (inRun o 0x010000 72 && decide (o % 0x40 < 0x28)) ||
   inRun o 0x020000 32 || inRun o 0x020100 32 || o == 0x020200 || inRun o 0x020400 37 || inRun o 0x020800 256 ||
   (decide (0x021000 ≤ o) && decide (o < 0x021000 + 0x200 * 37) && decide (o % 0x200 < 0x100)) ||
   (decide (0x028000 ≤ o) && decide (o < 0x028000 + 0x200 * 37) && decide (o % 0x200 < 0x100)) ||
   inRun o 0x030000 5 || inRun o 0x040000 2 || inRun o 0x050000 3 || inRun o 0x060000 3 || inRun o 0x070000 2 ||
   inRun o 0x070100 32 || inRun o 0x080000 2 || inRun o 0x090000 4 || inRun o 0x0A0000 4 || inRun o 0x0A0100 16 ||
   inRun o 0x0A0200 16 || o == 0x0F0000 ||
   (decide (0x100000 ≤ o) && decide (o < 0x200000) && decide (o % 0x10000 < 0x38)))

/-! ### What registers read as -/

/-- LDG_SETTING (R428). -/
def ldgSetting (s : State) : Word :=
  BitVec.ofNat 64 ((if s.clock.mode = .scheduled then s.fabric.activeId.toNat else 0) + s.fabric.shadowId.toNat * 2 ^ 32)

/-- LDG_COMMIT_CTL (R542). A W1S bit that has been set stands until what it has commanded is over: REQ until the flip or the
withdrawal, CANCEL until the next request (R6). [DESIGN CHOICE: log 94] -/
def commitCtl (c : Commit) : Word :=
  BitVec.ofNat 64 (c.clasp.toNat + c.count.toNat * 2 ^ 12 + b2n (c.waiting || c.armed) * 2 ^ 28 + b2n c.cancelled * 2 ^ 29 +
    b2n c.waiting * 2 ^ 30 + b2n c.armed * 2 ^ 31 + c.flips.toNat * 2 ^ 32)

/-- The LDG_ registers. -/
def ldgValue (s : State) (o : Nat) : Word :=
  match o with
  | 0x00 => s.clock.tick.setWidth 64
  | 0x08 => BitVec.ofNat 64 (modeReg s)
  | 0x10 => ldgSetting s
  | 0x18 => s.ledger.retired.setWidth 64
  | 0x20 => BitVec.ofNat 64 (s.ledger.depth.toNat + b2n s.ledger.replay * 2 ^ 17)
  | 0x28 => ldgOvr s.ledger
  | 0x30 => s.commit.regions
  | 0x38 => commitCtl s.commit
  | 0x40 => ldgTrace s.ledger
  | 0x48 => ldgTraceStat s.ledger
  | _ => 0

/-- MBX_CTL and MBX_STAT (R584). -/
def mbxCtl (m : Nat) (q : Mbx) : Word :=
  BitVec.ofNat 64 (b2n q.en + b2n q.rst * 2 + (if m = 8 then 4 else q.log2n.toNat) * 4 + b2n q.irqAll * 64)
def mbxStat (s : State) (m : Nat) : Word :=
  let q := mbxOf s m
  BitVec.ofNat 64 (q.head + q.cplTail * 2 ^ 12 + b2n q.phase * 2 ^ 24 + b2n (startedOf s m != [] || q.held != []) * 2 ^ 25 +
    b2n q.err * 2 ^ 26 + q.errCode.toNat * 2 ^ 27 + q.held.length * 2 ^ 32)

/-- The MBX_ registers. [DESIGN CHOICE: log 46] -/
def mbxValue (s : State) (m o : Nat) : Word :=
  let q := mbxOf s m
  match o with
  | 0x00 => mbxCtl m q
  | 0x08 => if m = 8 then 0 else BitVec.ofNat 64 (q.cmdBase.toNat * 4096)
  | 0x10 => if m = 8 then 0 else BitVec.ofNat 64 (q.cplBase.toNat * 4096)
  | 0x20 => mbxStat s m
  | _ => 0

/-- Word `w` of a mask of sources. -/
def srcWord (v : BitVec 2048) (w : Nat) : Word := BitVec.ofNat 64 (bitsOf v.toNat (64 * w) 64)

/-- The IRQ_ registers (R652, R657). -/
def irqValue (s : State) (o : Nat) : Word :=
  if o < 0x100 then srcWord s.hub.pend (o / 8)
  else if o < 0x200 then srcWord s.hub.pend ((o - 0x100) / 8)
  else if o = 0x200 then s.hub.line.setWidth 64
  else if o < 0x800 then (claimValue s.hub ((o - 0x400) / 8)).1
  else if o < 0x1000 then
    BitVec.ofNat 64 (ofBytes ((List.range 8).map fun j => tblGet 0 s.hub.cnt (o - 0x800 + j)))
  else if o < 0x8000 then srcWord (hubMask s.hub ((o - 0x1000) / 0x200)) (o % 0x200 / 8)
  else srcWord (hubMask s.hub ((o - 0x8000) / 0x200)) (o % 0x200 / 8)

/-- ASY_SEL as it reads (R679). -/
def asySel (a : Assayer) : Word := BitVec.ofNat 64 (a.selBlock.toNat + a.selCtr.toNat * 2 ^ 12)

/-- The ASY_ registers (R676 to R679). -/
def asyReg (s : State) (o : Nat) : Word :=
  match o with
  | 0x00 => BitVec.ofNat 64 (s.asy.period.toNat + s.asy.records.toNat * 2 ^ 32)
  | 0x08 => s.asy.base.setWidth 64
  | 0x10 => asyStat s.asy
  | 0x18 => asySel s.asy
  | 0x20 => asyValue s
  | _ => 0

/-- FLT_CTL as it reads (R706). -/
def fltCtl (f : FaultLog) : Word := BitVec.ofNat 64 (f.hiwat.toNat + b2n f.autosub * 2 ^ 12 + f.reread.toNat * 2 ^ 13)

/-- SEC_STAT and SEC_CTL as they read (R773, R774). -/
def secStat (s : State) : Word :=
  BitVec.ofNat 64 (s.standby.rollback + s.standby.revoked.toNat * 2 ^ 8 + s.sec.keyIdx.toNat * 2 ^ 12)
def secCtl (c : Security) : Word := BitVec.ofNat 64 (b2n c.lock + c.bmin.toNat * 2 ^ 32)

/-- PWR_CTL as it reads (R794). -/
def pwrCtl (p : PowerCtl) : Word :=
  BitVec.ofNat 64 (p.limit.toNat + p.grace.toNat * 2 ^ 12 + p.tjThrottle.toNat * 2 ^ 28 + b2n p.auto * 2 ^ 36)

/-- HLK_STAT and HLK_CTL as they read (R579, R580). -/
def hlkStat (s : State) : Word :=
  let h := s.host
  BitVec.ofNat 64 (h.link.toNat + h.speed.toNat * 4 + h.width.toNat * 16 + b2n h.l0p * 2 ^ 9 + b2n h.cacheEn * 2 ^ 10 +
    b2n h.memEn * 2 ^ 11 + b2n h.uioEn * 2 ^ 12 + b2n h.cal * 2 ^ 13 + h.calLane.toNat * 2 ^ 14 +
    ((s.bezels.map fun b => b.2.lines.length).sum) % 2 ^ 20 * 2 ^ 32)
def hlkCtl (h : HostLink) : Word :=
  BitVec.ofNat 64 (h.uioTmo.toNat + b2n h.calAuto * 2 ^ 16 + h.calPeriod.toNat * 2 ^ 24)

/-- CHN_MODULE, CHN_REHOME, CHN_CAL_CTL and CHN_PORT_STAT as they read (R505 to R509). -/
def chnModule (s : State) : Word :=
  let c := s.chain
  let peers := (List.range 16).filter fun n => (reachable s).any fun p => (portOf s p).peer.toNat == n
  BitVec.ofNat 64 (c.num.toNat + b2n c.numv * 16 + b2n c.conflict * 32 + c.ref.toNat * 64 + b2n c.aligned * 2 ^ 10 +
    b2n c.ahead * 2 ^ 11 + b2n c.isRef * 2 ^ 12 + c.offset.toNat * 2 ^ 16 + (peers.map fun n => 2 ^ n).sum * 2 ^ 32 +
    b2n c.winMis * 2 ^ 48)
def chnRehome (c : Chain) : Word := BitVec.ofNat 64 (c.from_.toNat + b2n c.rehomeEn * 16)
/-- CHN_CAL_CTL (R509); GO stands while its calibration runs (R6). [DESIGN CHOICE: log 94] -/
def chnCal (s : State) : Word :=
  let c := s.chain
  BitVec.ofNat 64 (c.calPort.toNat + b2n ((List.range 16).any fun p => (portOf s p).calGo) * (16 + 32) + b2n c.calAuto * 64 +
    c.calPeriod.toNat * 2 ^ 8 + c.maxPar.toNat * 2 ^ 16)
def chnPortStat (q : Port) : Word :=
  BitVec.ofNat 64 (portCode q.st + b2n q.rehomed * 8 + q.peer.toNat * 16 + q.lmap.toNat * 2 ^ 8 + q.spare.toNat * 2 ^ 20 +
    b2n q.cal * 2 ^ 23 + q.delay.toNat * 2 ^ 32)

/-- The CHN_ registers. -/
def chnValue (s : State) (o : Nat) : Word :=
  if o = 0x00 then chnModule s
  else if o = 0x08 then chnRehome s.chain
  else if o = 0x10 then chnTiming s.chain
  else if o = 0x18 then chnCal s
  else if o < 0x200 then chnPortStat (portOf s ((o - 0x100) / 8))
  else chnErrStat (portOf s ((o - 0x200) / 8))

/-- BZL_SCRUB_CTL, BZL_CHK_CTL, BZL_RETRAIN and BZL_RETIRE as they read (R400, R548, R735, R738); GO stands while the bezel
retrains, and while it retires FRAME (R6). [DESIGN CHOICE: log 94] -/
def scrubCtl (b : Bezel) : Word := BitVec.ofNat 64 (b2n b.scrubEn + b.thresh.toNat * 2 ^ 8 + b.passes.toNat * 2 ^ 16)
def chkCtl (b : Bezel) : Word := BitVec.ofNat 64 (b.rate.toNat + b2n b.halt * 16 + b.tol.toNat * 2 ^ 8)
def retrainCode (p : Retrain) : Nat :=
  match p with
  | .idle => 0
  | .copy => 1
  | .remap => 2
  | .return_ => 3
def retrainReg (b : Bezel) : Word :=
  BitVec.ofNat 64 (b.retrainSel.toNat + b2n (b.retrainPhase != .idle) * 32 + retrainCode b.retrainPhase * 2 ^ 6 + b2n b.retrainAuto * 2 ^ 8 +
    b.retrainPeriod.toNat * 2 ^ 16 + b.retrainLeft.toNat * 2 ^ 32)
def retireReg (b : Bezel) : Word :=
  BitVec.ofNat 64 (b2n ((b.retiring ++ b.deferred).contains b.retireFrame.toNat) +
    b2n (b.retiring != [] || b.deferred != []) * 2 + b2n b.retireAuto * 4 +
    b2n (decide (retireEntries ≤ b.redirect.length)) * 8 + b.retireFrame.toNat * 2 ^ 12 + b.redirect.length % 2 ^ 13 * 2 ^ 36)

/-- The registers of a bezel. -/
def bzlValue (b : Bezel) (o : Nat) : Word :=
  match o with
  | 0x00 => eccStat b
  | 0x08 => scrubCtl b
  | 0x10 => redCfg b
  | 0x18 => chkCtl b
  | 0x20 => redStat b
  | 0x28 => retrainReg b
  | 0x30 => retireReg b
  | _ => 0

/-- BZL_LOCAL_SPLIT (R316). -/
def splitReg (m : Memory) : Word := BitVec.ofNat 64 (m.split.toNat + m.splitNow.toNat * 256)

/-- What the slot at an offset reads as; 0 where it is reserved (R798, R801, R802). -/
def regValue (s : State) (o : Nat) : Word :=
  if !regAssigned o then 0
  else if o < 0x010000 then ldgValue s o
  else if o < 0x020000 then mbxValue s ((o - 0x010000) / 0x40) (o % 0x40)
  else if o < 0x030000 then irqValue s (o - 0x020000)
  else if o < 0x040000 then asyReg s (o - 0x030000)
  else if o = 0x040000 then fltCtl s.faults
  else if o = 0x040008 then fltStat s.faults
  else if o = 0x050000 then mgtPwr s.standby
  else if o = 0x050008 then mgtOwn s.standby
  else if o = 0x050010 then mgtBoot s.standby
  else if o = 0x060000 then s.clasps.sel.setWidth 64
  else if o = 0x060008 then clpValue s
  else if o = 0x060010 then clpStat s.clasps
  else if o = 0x070000 then secStat s
  else if o = 0x070008 then secCtl s.sec
  else if o < 0x080000 then tblGet 0 s.sec.bkey ((o - 0x070100) / 8)
  else if o = 0x080000 then pwrStat s.power
  else if o = 0x080008 then pwrCtl s.power
  else if o = 0x090000 then hlkStat s
  else if o = 0x090008 then hlkCtl s.host
  else if o = 0x090010 then hlkErr s.host
  else if o = 0x090018 then biRange s.host
  else if o < 0x0F0000 then chnValue s (o - 0x0A0000)
  else if o = 0x0F0000 then splitReg s.mem
  else bzlValue (bezelOf s ((o - 0x100000) / 0x10000)) (o % 0x10000)

/-! ### What a read changes -/

/-- A claim by a read of IRQ_CLAIM (R648, R651, R653): as the row's, but for the value. -/
def claimClear (m : Master) (t : Nat) (s : State) : State :=
  if claims m t then
    let s1 := match (claimValue s.hub t).2 with
      | some src => hubTake src s
      | none => s
    if m = .host then { s1 with hub := { s1.hub with after := s1.hub.after ++ [(t, 4)] } } else s1
  else s

/-- A counter that ASY_SEL names belongs to an ordinal that no bead answers for (R662, R683). -/
def asyGone (s : State) : Bool := decide (s.asy.selBlock.toNat < 0x400) && !ordLive s s.asy.selBlock.toNat

/-- The fields that a read of a slot clears (R6, R9, R797), and the record of one that names an invalid target (R683). -/
def regCleared (m : Master) (o : Nat) (w : Width) (s : State) : State :=
  if o = offLdgOvr then
    { s with ledger := { s.ledger with
        overruns := rc w 15 0 s.ledger.overruns 0
        replays := rc w 31 16 s.ledger.replays 0
        ends := rc w 39 32 s.ledger.ends 0
        peerHolds := rc w 55 40 s.ledger.peerHolds 0 } }
  else if o = offLdgTraceStat then { s with ledger := { s.ledger with lost := rc w 47 32 s.ledger.lost 0 } }
  else if 0x020400 ≤ o ∧ o < 0x020400 + 8 * 37 then (if w = .high then s else claimClear m ((o - 0x020400) / 8) s)
  else if o = offAsyStat then { s with asy := { s.asy with skip := rc w 47 32 s.asy.skip 0 } }
  else if o = offFltStat then { s with faults := { s.faults with dropped := rc w 63 56 s.faults.dropped 0 } }
  else if o = offClpValue ∧ clpGone s ∨ o = 0x030020 ∧ asyGone s then recordGone o s
  else if o = 0x060010 then clpStatClear w s
  else if o = offPwrStat then { s with power := { s.power with hotCnt := rc w 63 48 s.power.hotCnt 0 } }
  else if o = 0x090010 then hlkErrClear w s
  else if 0x0A0200 ≤ o ∧ o < 0x0A0280 then modPort ((o - 0x0A0200) / 8) (chnErrClear w) s
  else if 0x100000 ≤ o ∧ o < 0x200000 ∧ o % 0x10000 = 0x00 then modBezel ((o - 0x100000) / 0x10000) (eccStatClear w) s
  else if 0x100000 ≤ o ∧ o < 0x200000 ∧ o % 0x10000 = 0x20 then modBezel ((o - 0x100000) / 0x10000) (redStatClear w) s
  else s

/-! ### What a write does -/

/-- LDG_COMMIT_CTL (R542): the fields while neither WAITING nor ARMED, then REQ or CANCEL on what stood before.
[DEDUCED: log 72] -/
def commitWrite (w : Width) (v : Word) (s : State) : State :=
  let c := s.commit
  let x := (wrWidth w (commitCtl c) v).toNat
  let ones := (onesOf w v).toNat
  if c.waiting || c.armed then (if bitOf ones 29 then commitCancel s else s)
  else
    let s1 : State := { s with commit := { c with clasp := BitVec.ofNat 12 (bitsOf x 0 12), count := BitVec.ofNat 16 (bitsOf x 12 16) } }
    if bitOf ones 28 then commitReq s1 else s1

/-- MBX_CTL (R584, R593). -/
def mbxCtlWrite (m : Nat) (w : Width) (v : Word) (s : State) : State :=
  let q := mbxOf s m
  let x := (wrWidth w (mbxCtl m q) v).toNat
  let n := bitsOf x 2 4
  let s1 := setMbx m { q with
    en := bitOf x 0
    irqAll := bitOf x 6
    log2n := if m = 8 ∨ q.en ∨ n < 4 ∨ 12 < n then q.log2n else BitVec.ofNat 4 n } s
  if bitOf (onesOf w v).toNat 1 then mbxRst m s1 else s1

/-- A ring's base register (R584). [DESIGN CHOICE: log 46] -/
def baseWrite (w : Width) (old : BitVec 52) (v : Word) : BitVec 52 :=
  BitVec.ofNat 52 (bitsOf (wrWidth w (BitVec.ofNat 64 (old.toNat * 4096)) v).toNat 12 52)

/-- The MBX_ registers. -/
def mbxWrite (m o : Nat) (w : Width) (v : Word) (s : State) : State :=
  let q := mbxOf s m
  match o with
  | 0x00 => mbxCtlWrite m w v s
  | 0x08 => if m = 8 ∨ q.en then s else setMbx m { q with cmdBase := baseWrite w q.cmdBase v } s
  | 0x10 => if m = 8 ∨ q.en then s else setMbx m { q with cplBase := baseWrite w q.cplBase v } s
  | 0x18 => if w = .high then s else doorbell m (bitsOf v.toNat 0 12) s
  | _ => s

/-- The IRQ_ registers (R643, R646, R647). -/
def irqWrite (o : Nat) (w : Width) (v : Word) (s : State) : State :=
  let x := onesOf w v
  if o < 0x100 then onSources (o / 8) x hubSet s
  else if o < 0x200 then onSources ((o - 0x100) / 8) x hubClear s
  else if o < 0x1000 then s
  else if o < 0x8000 then maskWrite ((o - 0x1000) / 0x200) (o % 0x200 / 8) x true s
  else maskWrite ((o - 0x8000) / 0x200) (o % 0x200 / 8) x false s

/-- ASY_SEL (R679). -/
def asySelWrite (w : Width) (v : Word) (s : State) : State :=
  let x := (wrWidth w (asySel s.asy) v).toNat
  { s with asy := { s.asy with selBlock := BitVec.ofNat 12 (bitsOf x 0 12), selCtr := BitVec.ofNat 3 (bitsOf x 12 3) } }

/-- FLT_CTL (R688, R706). [DEDUCED: log 72] -/
def fltCtlWrite (w : Width) (v : Word) (s : State) : State :=
  let x := (wrWidth w (fltCtl s.faults) v).toNat
  highWater { s with faults := { s.faults with
    hiwat := BitVec.ofNat 12 (bitsOf x 0 12), autosub := bitOf x 12, reread := BitVec.ofNat 3 (bitsOf x 13 3) } }

/-- MGT_PWR (R631, R632): HOLD_OFF. [DEDUCED: log 72] -/
def mgtPwrSet (w : Width) (v : Word) (s : State) : State :=
  let s1 := modStandby (fun b => { b with cycling := false }) s
  if bitOf (wrWidth w (mgtPwr s.standby) v).toNat 0 then setHold s1 else modStandby (fun b => { b with holdOff := false }) s1

/-- The host's GRANT (R635). -/
def grant (s : State) : State := if s.standby.pending then modStandby (fun b => { b with granted := true }) s else s

/-- The host's DENY (R636): a pending request ends. -/
def deny (s : State) : State :=
  if s.standby.pending then
    answerTake thDenied (modStandby (fun b => { b with pending := false, granted := false, force := false, graceLeft := 0 }) s)
  else s

/-- MGT_OWN (R634 to R636, R639): the host's GRANT and DENY, and the management port's LOSS_TMO. -/
def mgtOwnSet (m : Master) (w : Width) (v : Word) (s : State) : State :=
  let ones := (onesOf w v).toNat
  match m with
  | .host => if bitOf ones 3 then deny s else if bitOf ones 2 then grant s else s
  | .mgmt => modStandby (fun b => { b with lossTmo := BitVec.ofNat 16 (bitsOf (wrWidth w (mgtOwn b) v).toNat 32 16) }) s
  | .core => s

/-- SEC_CTL (R774). -/
def secCtlWrite (w : Width) (v : Word) (s : State) : State :=
  let x := (wrWidth w (secCtl s.sec) v).toNat
  { s with sec := { s.sec with
      bmin := if s.sec.lock then s.sec.bmin else BitVec.ofNat 32 (bitsOf x 32 32)
      lock := s.sec.lock || bitOf (onesOf w v).toNat 0 } }

/-- SEC_BKEY (R775). -/
def bkeyWrite (i : Nat) (w : Width) (v : Word) (s : State) : State :=
  if s.sec.lock then s
  else { s with sec := { s.sec with bkey := tblMod 0 s.sec.bkey i fun old => wrWidth w old v } }

/-- PWR_CTL (R794): a LIMIT or a TJ_THROTTLE out of range is ignored. -/
def pwrCtlWrite (w : Width) (v : Word) (s : State) : State :=
  let p := s.power
  let x := (wrWidth w (pwrCtl p) v).toNat
  let lim := bitsOf x 0 12
  let tj := bitsOf x 28 8
  { s with power := { p with
      limit := if 1200 ≤ lim ∧ lim ≤ 3200 then BitVec.ofNat 12 lim else p.limit
      grace := BitVec.ofNat 16 (bitsOf x 12 16)
      tjThrottle := if 70 ≤ tj ∧ tj ≤ 100 then BitVec.ofNat 8 tj else p.tjThrottle
      auto := bitOf x 36 } }

/-- HLK_CTL (R580). -/
def hlkCtlWrite (w : Width) (v : Word) (s : State) : State :=
  let x := (wrWidth w (hlkCtl s.host) v).toNat
  { s with host := { s.host with
      uioTmo := BitVec.ofNat 16 (bitsOf x 0 16), calAuto := bitOf x 16, calPeriod := BitVec.ofNat 8 (bitsOf x 24 8) } }

/-- CHN_REHOME (R506). -/
def rehomeWrite (w : Width) (v : Word) (s : State) : State :=
  let x := (wrWidth w (chnRehome s.chain) v).toNat
  { s with chain := { s.chain with from_ := BitVec.ofNat 4 (bitsOf x 0 4), rehomeEn := bitOf x 4 } }

/-- CHN_CAL_CTL (R509). -/
def calCtlWrite (w : Width) (v : Word) (s : State) : State :=
  let x := (wrWidth w (chnCal s) v).toNat
  let s1 : State := { s with chain := { s.chain with
    calPort := BitVec.ofNat 4 (bitsOf x 0 4), calAuto := bitOf x 6
    calPeriod := BitVec.ofNat 8 (bitsOf x 8 8), maxPar := BitVec.ofNat 4 (bitsOf x 16 4) } }
  if bitOf (onesOf w v).toNat 4 then calGo (bitsOf x 0 4) s1 else s1

/-- The CHN_ registers. -/
def chnWrite (o : Nat) (w : Width) (v : Word) (s : State) : State :=
  match o with
  | 0x08 => rehomeWrite w v s
  | 0x10 => chnTimingSet w v s
  | 0x18 => calCtlWrite w v s
  | _ => s

/-- BZL_LOCAL_SPLIT (R316 to R318): it takes effect at a boundary. -/
def splitWrite (w : Width) (v : Word) (s : State) : State :=
  let n := bitsOf (wrWidth w (splitReg s.mem) v).toNat 0 7
  if 64 < n then s else { s with mem := { s.mem with split := BitVec.ofNat 7 n } }

/-- BZL_SCRUB_CTL (R400). -/
def scrubWrite (w : Width) (v : Word) (b : Bezel) : Bezel :=
  let x := (wrWidth w (scrubCtl b) v).toNat
  { b with scrubEn := bitOf x 0, thresh := BitVec.ofNat 8 (bitsOf x 8 8) }

/-- BZL_CHK_CTL (R548). -/
def chkWrite (w : Width) (v : Word) (b : Bezel) : Bezel :=
  let x := (wrWidth w (chkCtl b) v).toNat
  { b with rate := BitVec.ofNat 4 (bitsOf x 0 4), halt := bitOf x 4, tol := BitVec.ofNat 5 (bitsOf x 8 5) }

/-- BZL_RETRAIN (R735). [DEDUCED: log 72] -/
def retrainWrite (z : Nat) (w : Width) (v : Word) (s : State) : State :=
  let x := (wrWidth w (retrainReg (bezelOf s z)) v).toNat
  let s1 := modBezel z (fun b => { b with
    retrainSel := BitVec.ofNat 5 (bitsOf x 0 5), retrainAuto := bitOf x 8
    retrainPeriod := BitVec.ofNat 16 (bitsOf x 16 16) }) s
  if bitOf (onesOf w v).toNat 5 then retrainGo z (bitsOf x 0 5) s1 else s1

/-- BZL_RETIRE (R738). -/
def retireWrite (z : Nat) (w : Width) (v : Word) (s : State) : State :=
  let x := (wrWidth w (retireReg (bezelOf s z)) v).toNat
  let s1 := modBezel z (fun b => { b with retireAuto := bitOf x 2, retireFrame := BitVec.ofNat 24 (bitsOf x 12 24) }) s
  if bitOf (onesOf w v).toNat 0 then retireGo z s1 else s1

/-- The registers of a bezel. -/
def bzlWrite (z o : Nat) (w : Width) (v : Word) (s : State) : State :=
  match o with
  | 0x08 => modBezel z (scrubWrite w v) s
  | 0x10 => redCfgWrite z w v s
  | 0x18 => modBezel z (chkWrite w v) s
  | 0x28 => retrainWrite z w v s
  | 0x30 => retireWrite z w v s
  | _ => s

/-- The effect of a write to an assigned slot by a master that may write it; RO and RC fields stay (R6). -/
def regEffect (m : Master) (o : Nat) (w : Width) (v : Word) (s : State) : State :=
  if o = 0x000030 then
    (if s.commit.waiting || s.commit.armed then s
     else { s with commit := { s.commit with regions := wrWidth w s.commit.regions v } })
  else if o = offCommitCtl then commitWrite w v s
  else if o = offLdgTrace then ldgTraceSet w v s
  else if o < 0x010000 then s
  else if o < 0x020000 then mbxWrite ((o - 0x010000) / 0x40) (o % 0x40) w v s
  else if o < 0x030000 then irqWrite (o - 0x020000) w v s
  else if o = 0x030018 then asySelWrite w v s
  else if o = 0x040000 then fltCtlWrite w v s
  else if o = offMgtPwr then mgtPwrSet w v s
  else if o = offMgtOwn then mgtOwnSet m w v s
  else if o = offClpSel then { s with clasps := { s.clasps with sel := (wrWidth w (s.clasps.sel.setWidth 64) v).setWidth 24 } }
  else if o = offClpValue then clpValueDo m w v s
  else if o = offSecCtl then secCtlWrite w v s
  else if 0x070100 ≤ o ∧ o < 0x070200 then bkeyWrite ((o - 0x070100) / 8) w v s
  else if o = offPwrCtl then pwrCtlWrite w v s
  else if o = offHlkCtl then hlkCtlWrite w v s
  else if o = offHlkBi then biRangeSet w v s
  else if 0x0A0000 ≤ o ∧ o < 0x0B0000 then chnWrite (o - 0x0A0000) w v s
  else if o = 0x0F0000 then splitWrite w v s
  else if 0x100000 ≤ o then bzlWrite ((o - 0x100000) / 0x10000) (o % 0x10000) w v s
  else s

/-- A master may make a write: the host alone writes GRANT and DENY (R639). -/
def mayWriteBits (s : State) (m : Master) (o : Nat) (w : Width) (v : Word) : Bool :=
  mayWrite s m o && !(m == .mgmt && o == offMgtOwn && bitsOf (onesOf w v).toNat 2 2 != 0)

/-- A write of a slot: one to a reserved offset, or one that the master may not make, is discarded and recorded (R639,
R798). [DEDUCED: log 72] -/
def regWrite (m : Master) (o : Nat) (w : Width) (v : Word) (s : State) : State :=
  if !regAssigned o then forbidden o s else if mayWriteBits s m o w v then regEffect m o w v s else forbidden o s

/-- The half that an access of 4 or 8 bytes reaches, and whether its form is one of R555. -/
def accessWidth (off bytes : Nat) : Option Width :=
  if bytes = 8 ∧ off % 8 = 0 then some .full
  else if bytes = 4 ∧ off % 4 = 0 then some (if off % 8 = 0 then .low else .high)
  else none

/-- CONTROL_WINDOW_WRITE (R555, R796 to R800). [DEDUCED: log 72] -/
def windowWrite (m : Master) (off bytes : Nat) (v : Word) (s : State) : State :=
  if !reaches s m then s
  else
    match accessWidth off bytes with
    | none => recordHostAt 0 s
    | some w => if answers s off then regWrite m (off / 8 * 8) w v s else s

def execControlWindowWrite (m : Master) (off bytes : Nat) (v : Word) (s : State) : Host.Outcome State Fault Refusal :=
  .next (windowWrite m off bytes v s)

/-- SEC_CTL_LOCK (R774). -/
def execSecCtlLock (m : Master) (s : State) : Host.Outcome State Fault Refusal :=
  .next (regWriteRow m offSecCtl (fun t => { t with sec := { t.sec with lock := true } }) s)

/-- MGT_PWR_WRITE (R631, R639). -/
def execMgtPwrWrite (m : Master) (w : Width) (v : Word) (s : State) : Host.Outcome State Fault Refusal :=
  .next (regWriteRow m offMgtPwr (mgtPwrSet w v) s)

/-- The fields of MGT_OWN that answer a takeover are the host's alone: any other master's write of them is discarded and
recorded (R639). [DEDUCED: log 72] -/
def hostAnswer (m : Master) (f : State → State) (s : State) : State :=
  if m = .host then f s else forbidden offMgtOwn s

/-- MGT_OWN_GRANT (R635). -/
def execMgtOwnGrant (m : Master) (s : State) : Host.Outcome State Fault Refusal :=
  .next (regWriteRow m offMgtOwn (hostAnswer m grant) s)

/-- MGT_OWN_DENY (R636). -/
def execMgtOwnDeny (m : Master) (s : State) : Host.Outcome State Fault Refusal :=
  .next (regWriteRow m offMgtOwn (hostAnswer m deny) s)

end Sys2Proof.Machine
end

