-- ==== Sys2Proof/Machine/MgmtPort.lean ====
section
/-! DEFINITION. The Thaset operations of the management port (chapter 18). -/

namespace Sys2Proof.Machine

/-- An operation at the head of the messages received, served by `f`. -/
def thRow (opc : Nat) (sel : MgmtReq → Bool) (f : MgmtReq → State → State) (s : State) :
    Host.Outcome State Fault Refusal :=
  match s.mgmt.msgs with
  | [] => .next s
  | r :: rest =>
    whenOk s (s.standby.standby && isThaset r && msgOpc r == opc && sel r)
      (f r (modMgmt (fun m => { m with msgs := rest }) s))

def anyReq (_ : MgmtReq) : Bool := true

/-- A byte of a request's body. -/
def reqByte (r : MgmtReq) (i : Nat) : Nat := bodyNum r i 1

/-! ### Mailbox 8 and the control window -/

/-- MBX_POST (R627, R628): the entry stands at TAIL, and TAIL moves on; a ring with 15 posted entries takes no more.
[DEDUCED: log 71] -/
def mbxPost (r : MgmtReq) (s : State) : State :=
  let q := mbxOf s 8
  if (msgBody r).length < 64 then thAnswer r thBadField [] s
  else if 15 ≤ posted s 8 then thAnswer r thRingFull [] s
  else
    let s1 := modMgmt (fun m => { m with ring := tblSet 0 m.ring q.tail (BitVec.ofNat 512 (bodyNum r 0 64)) }) s
    thAnswer r thOk (toBytes 2 q.head) (modMbx 8 (fun x => { x with tail := (x.tail + 1) % 16 }) s1)

def execMbxPost (s : State) : Host.Outcome State Fault Refusal := thRow 0x01 anyReq mbxPost s

/-- REG_READ (R627, R630). -/
def regRead (r : MgmtReq) (s : State) : State :=
  let off := bodyNum r 0 4
  match accessWidth off (reqByte r 4) with
  | none => thAnswer r thBadField [] s
  | some w =>
    if !answers s off then thAnswer r thMainDown [] s
    else
      let o := off / 8 * 8
      thAnswer r thOk (toBytes (reqByte r 4) (rdWidth w (regValue s o)).toNat) (regCleared .mgmt o w s)

def execRegRead (s : State) : Host.Outcome State Fault Refusal := thRow 0x03 anyReq regRead s

/-- REG_WRITE (R627, R630). [DEDUCED: log 71] -/
def regWriteMsg (r : MgmtReq) (s : State) : State :=
  let off := bodyNum r 0 4
  let n := reqByte r 4
  match accessWidth off n with
  | none => thAnswer r thBadField [] s
  | some w =>
    let o := off / 8 * 8
    let v := BitVec.ofNat 64 (bodyNum r 5 n)
    if !answers s off then thAnswer r thMainDown [] s
    else if regAssigned o && !mayWriteBits s .mgmt o w v then thAnswer r thNotPermitted [] (forbidden o s)
    else thAnswer r thOk [] (regWrite .mgmt o w v s)

def execRegWrite (s : State) : Host.Outcome State Fault Refusal := thRow 0x04 anyReq regWriteMsg s

/-! ### The staging area -/

/-- Bytes of the staging area (R621). [DESIGN CHOICE: log 8; DEDUCED: log 71] -/
def stageBytes : Nat := 33554432

/-- A command code that reads its buffer: LOAD_PROGRAM, RED_WRITE, OPT_WRITE, CNT_CONFIG, FW_STAGE. -/
def opcReads (opc : Nat) : Bool := [0x22, 0x40, 0x42, 0x70, 0x90].contains opc

/-- A started command of mailbox 8 reads bytes of a staging range (R638). -/
def stageBusy (s : State) (off n : Nat) : Bool :=
  (startedOf s 8).any fun c =>
    let b := bufOf c.entry
    opcReads (entryByte c.entry 0) && b.loc == 2 && decide (off < b.addr + b.len) && decide (b.addr < off + n)

/-- STAGE_WRITE (R627, R638). -/
def stageWrite (r : MgmtReq) (s : State) : State :=
  let off := bodyNum r 0 4
  let l := (msgBody r).drop 4
  if l = [] ∨ 4096 < l.length ∨ stageBytes < off + l.length then thAnswer r thBadField [] s
  else if stageBusy s off l.length then thAnswer r thBusy [] s
  else thAnswer r thOk [] (modMgmt (fun m => { m with
    stage := ((List.range l.length).zip l).foldl (fun t p => tblSet 0 t (off + p.1) p.2) m.stage }) s)

def execStageWrite (s : State) : Host.Outcome State Fault Refusal := thRow 0x05 anyReq stageWrite s

/-- STAGE_READ (R627). -/
def stageRead (r : MgmtReq) (s : State) : State :=
  let off := bodyNum r 0 4
  let n := bodyNum r 4 2
  if n = 0 ∨ 4096 < n ∨ stageBytes < off + n then thAnswer r thBadField [] s
  else thAnswer r thOk ((List.range n).map fun i => tblGet 0 s.mgmt.stage (off + i)) s

def execStageRead (s : State) : Host.Outcome State Fault Refusal := thRow 0x06 anyReq stageRead s

/-! ### Power -/

/-- ACTION and FORCE of POWER. -/
def powerAction (r : MgmtReq) : Nat := bitsOf (reqByte r 0) 0 2
def powerForce (r : MgmtReq) : Bool := bitOf (reqByte r 0) 2

/-- The answer of POWER: the value of MGT_PWR. -/
def powerAnswer (r : MgmtReq) (s : State) : State := thAnswer r thOk (toBytes 8 (mgtPwr s.standby).toNat) s

/-- A reserved bit of POWER is set, or its action is none of the three. [DEDUCED: log 71] -/
def powerBad (r : MgmtReq) : Bool := decide (8 ≤ reqByte r 0) || powerAction r == 3

/-- POWER ON (R632). -/
def powerOn (r : MgmtReq) (s : State) : State :=
  if powerBad r then thAnswer r thBadField [] s
  else powerAnswer r (modStandby (fun b => { b with holdOff := false, cycling := false }) s)

def execPowerOn (s : State) : Host.Outcome State Fault Refusal :=
  thRow 0x07 (fun r => powerAction r == 0 || powerAction r == 3) powerOn s

/-- POWER OFF, or CYCLE, which also starts the hold of 100 ms (R632). -/
def powerDown (cycle : Bool) (r : MgmtReq) (s : State) : State :=
  let force := powerForce r
  if powerBad r then thAnswer r thBadField [] s
  else if s.standby.owner || !mainUp s || force then
    let s1 := if force then recordForced s else s
    powerAnswer r (modStandby (fun b => { b with cycling := cycle }) (setHold s1))
  else thAnswer r thNotPermitted [] s

def execPowerOff (s : State) : Host.Outcome State Fault Refusal :=
  thRow 0x07 (fun r => powerAction r == 1) (powerDown false) s

def execPowerCycle (s : State) : Host.Outcome State Fault Refusal :=
  thRow 0x07 (fun r => powerAction r == 2) (powerDown true) s

/-- POWER_CYCLE_HOLD_END (R632). -/
def execPowerCycleHoldEnd (s : State) : Host.Outcome State Fault Refusal :=
  whenOk s (s.standby.standby && s.standby.cycling)
    (modStandby (fun b => { b with holdOff := false, cycling := false }) s)

/-! ### Ownership -/

/-- A takeover is served from RAMP on (R633, R756). -/
def takeServed (s : State) : Bool := mainUp s || s.standby.phase == 1

/-- The answer of TAKEOVER: the value of MGT_OWN. [DEDUCED: log 73] -/
def takeAnswer (r : MgmtReq) (s : State) : State := thAnswer r thOk (toBytes 8 (mgtOwn s.standby).toNat) s

/-- A reserved bit of TAKEOVER is set. [DEDUCED: log 73] -/
def takeBad (r : MgmtReq) : Bool := decide (4 ≤ reqByte r 0) || bodyNum r 1 3 != 0

/-- TAKEOVER REQUEST (R635, R636). [DEDUCED: log 73] -/
def takeover (r : MgmtReq) (s : State) : State :=
  let grace := bodyNum r 4 3
  if !takeServed s then thAnswer r thMainDown [] s
  else if takeBad r ∨ grace = 0 then thAnswer r thBadField [] s
  else if s.standby.owner then takeAnswer r s
  else if s.standby.pending then thAnswer r thBusy [] s
  else hubRaise 130 (modStandby (fun b => { b with
    pending := true, granted := false, force := bitOf (reqByte r 0) 1, graceLeft := BitVec.ofNat 24 grace
    takeReq := some r }) s)

def execTakeoverRequest (s : State) : Host.Outcome State Fault Refusal :=
  thRow 0x08 (fun r => !bitOf (reqByte r 0) 0) takeover s

/-- TAKEOVER RELEASE (R637). [DEDUCED: log 73] -/
def releaseOwn (r : MgmtReq) (s : State) : State :=
  if !takeServed s then thAnswer r thMainDown [] s
  else if takeBad r then thAnswer r thBadField [] s
  else takeAnswer r (if s.standby.owner then modStandby (fun b => { b with release := true }) s else s)

def execTakeoverRelease (s : State) : Host.Outcome State Fault Refusal :=
  thRow 0x08 (fun r => bitOf (reqByte r 0) 0) releaseOwn s

/-- LOSS_TMO_EXPIRY (R637): the lane has been down for LOSS_TMO seconds while the management port owns the module. -/
def execLossTmoExpiry (s : State) : Host.Outcome State Fault Refusal :=
  whenOk s (mainUp s && !s.mgmt.up && s.standby.owner) (modStandby (fun b => { b with release := true }) s)

end Sys2Proof.Machine
end

