-- ==== Sys2Proof/Machine/Attest.lean ====
section
/-! DEFINITION. Attestation (chapter 24). -/

namespace Sys2Proof.Machine

/-- Byte 105 of a report: SLOT, FALLBACK, LOCK and REVOKED. -/
def reportFlags (s : State) : Nat :=
  b2n s.standby.slot + 2 * b2n s.standby.fallback + 4 * b2n s.sec.lock + 8 * s.standby.revoked.toNat

/-- The bytes of SEC_BKEY in slot and word order. -/
def bkeyBytes (s : State) : List Byte := (List.range 4).flatMap (bkeyDigest s)

/-- The DIGEST of a slot's bundle; 0 for an empty slot. -/
def slotDigest (s : State) (k : Nat) : List Byte :=
  match bundleOf s k with
  | some b => toBytes 64 b.digest.toNat
  | none => List.replicate 64 0

/-- The 640 bytes of a report (R771). -/
def reportBytes (id : Word32) (nonce : List Byte) (s : State) : List Byte :=
  toBytes 4 1 ++ toBytes 4 id.toNat ++ nonce ++ toBytes 6 s.clock.tick.toNat ++ toBytes 2 (gradeBeads s) ++ idBytes 16 16 ++
  toBytes 4 s.sec.version.toNat ++ toBytes 4 s.sec.svn.toNat ++ toBytes 1 s.standby.rollback ++ toBytes 1 (reportFlags s) ++
  [0, 0] ++ toBytes 64 s.sec.s1.toNat ++ toBytes 64 s.sec.s2.toNat ++ sha3Bytes (bkeyBytes s) ++ toBytes 4 s.sec.bmin.toNat ++
  toBytes 1 (((List.range 4).filter fun k => (bundleOf s k).isSome).map fun k => 2 ^ k).sum ++ List.replicate 7 0 ++
  (List.range 4).flatMap (slotDigest s) ++ List.replicate 72 0

/-- The signature block of a report (R761, R771). -/
def reportBlock (report : List Byte) (s : State) : List Byte :=
  let head := toBytes 2 3 ++ [0, 0] ++ toBytes 4 s.sec.svn.toNat ++ sha3Bytes report
  head ++ s.sec.pubKey ++ Config.sign s.free (signedBytes 3 head) ++ List.replicate 5 0

/-- Bytes of the whole object and of the public key (R770, R772). -/
def reportLen : Nat := 7936
def pubKeyLen : Nat := 2592

/-- Bytes that MAKE's request reserves. [DEDUCED: log 71] -/
def makeBad (r : MgmtReq) : Bool := (msgBody r).length != 68 || bodyNum r 1 3 != 0

/-- ATTEST MAKE (R770, R771); a SUB that is none of the two is a bad field. [DEDUCED: log 71] -/
def attestMake (r : MgmtReq) (s : State) : State :=
  if !mainUp s then thAnswer r thMainDown [] s
  else if reqByte r 0 ≠ 0 ∨ makeBad r then thAnswer r thBadField [] s
  else
    let id := s.sec.repId + 1
    let rep := reportBytes id (cut (msgBody r) 4 64) s
    thAnswer r thOk (toBytes 4 id.toNat ++ toBytes 4 reportLen)
      (drawn { s with sec := { s.sec with repId := id, report := rep ++ reportBlock rep s } })

def execAttestMake (s : State) : Host.Outcome State Fault Refusal :=
  thRow 0x0A (fun r => reqByte r 0 != 1) attestMake s

/-- What FETCH reads from: the report, or the hallmark public key. -/
def fetchFrom (s : State) (sel : Nat) : List Byte := if sel = 0 then s.sec.report else s.sec.pubKey

/-- A FETCH that R772 ends with BAD_FIELD. [DEDUCED: log 71] -/
def fetchBad (s : State) (r : MgmtReq) : Bool :=
  let n := bodyNum r 12 2
  let sel := reqByte r 14
  bodyNum r 1 3 != 0 || (msgBody r).length < 15 || n == 0 || decide (4096 < n) || decide (1 < sel) ||
  s.sec.report == [] || bodyNum r 4 4 != s.sec.repId.toNat ||
  decide ((if sel = 0 then reportLen else pubKeyLen) < bodyNum r 8 4 + n)

/-- ATTEST FETCH (R770, R772). -/
def attestFetch (r : MgmtReq) (s : State) : State :=
  if !mainUp s then thAnswer r thMainDown [] s
  else if fetchBad s r then thAnswer r thBadField [] s
  else thAnswer r thOk (cut (fetchFrom s (reqByte r 14)) (bodyNum r 8 4) (bodyNum r 12 2)) s

def execAttestFetch (s : State) : Host.Outcome State Fault Refusal :=
  thRow 0x0A (fun r => reqByte r 0 == 1) attestFetch s

end Sys2Proof.Machine
end

