-- ==== Sys2Proof/Machine/Matrix.lean ====
section
/-! DEFINITION. The twin arrays: weights, rows, sums and matrix entries (chapters 5, 6 and 8). -/

namespace Sys2Proof.Machine

/-- Passes of an entry (R200). -/
def passesOf (e : QEntry) : Nat := if tcSplit e.tcfg then 3 else 1

def isBwd (e : QEntry) : Bool := match e.insn with | .mmbwd .. => true | _ => false
def isTwin (e : QEntry) : Bool := match e.insn with | .mmab .. => true | _ => false

/-- Streamed rows, reduction length and output width of an entry on an array (R183, R198). -/
def extents (e : QEntry) (a : Nat) : Nat × Nat × Nat :=
  let m := tcM e.tcfg
  let k := tcK e.tcfg
  let n := tcN e.tcfg
  if isBwd e then (if a = 0 then (m, n, k) else (k, m, n)) else (m, k, n)
def rowsOf (e : QEntry) (a : Nat) : Nat := (extents e a).1
def redOf (e : QEntry) (a : Nat) : Nat := (extents e a).2.1
def widthOf (e : QEntry) (a : Nat) : Nat := (extents e a).2.2

/-- An empty product (R210). -/
def emptyProduct (e : QEntry) : Bool := tcM e.tcfg == 0 || tcK e.tcfg == 0 || tcN e.tcfg == 0

/-- Whether the entry overwrites its accumulator of an array. -/
def overwrites (e : QEntry) (a : Nat) : Bool :=
  match e.insn with
  | .mm _ _ _ _ _ ow _ => ow
  | .mmab _ _ _ _ _ _ ow _ => ow
  | .mmbwd _ _ _ _ _ _ owA owB => if a = 0 then owA else owB
  | _ => false

/-- The accumulator index of an entry on an array. -/
def accIdx (e : QEntry) (a : Nat) : Fin 4 :=
  match e.insn with
  | .mm _ _ _ _ ac _ _ => ac
  | .mmab _ _ _ _ aca acb _ _ => if a = 0 then aca else acb
  | .mmbwd _ _ _ _ _ ac _ _ => ac
  | _ => 0

/-- The accumulator (key) of an entry on an array. -/
def accKeyOf (e : QEntry) (a : Nat) : Nat := accKey (a == 1) (accIdx e a).val

/-- The stationary tile register of an entry on an array and the axis it is read along; none for array B of MM.BWD,
whose weights come from the dY rows. -/
def stationary (e : QEntry) (a : Nat) : Option (Nat × Bool) :=
  match e.insn with
  | .mm _ tw _ _ _ _ trn => some (tw.val, trn)
  | .mmab twa twb _ _ _ _ _ trn => some (if a = 0 then twa.val else twb.val, trn)
  | .mmbwd tw _ _ _ _ _ _ _ => if a = 0 then some (tw.val, true) else none
  | _ => none

/-- The source tile register; none for a strand. -/
def sourceTile (e : QEntry) : Option Nat :=
  match e.insn with
  | .mm _ _ src ss _ _ _ => if ss then none else some src.val
  | .mmab _ _ src ss _ _ _ _ => if ss then none else some src.val
  | .mmbwd _ _ src _ ss _ _ _ => if ss then none else some src.val
  | _ => none

/-- TX of MM.BWD. -/
def txTile (e : QEntry) : Nat := match e.insn with | .mmbwd _ tx _ _ _ _ _ _ => tx.val | _ => 0

/-- Whether an entry works on an array. -/
def onArray (e : QEntry) (a : Nat) : Bool := e.barrier == 0 && (arraysOf e).contains a

/-- Pass and next row of the entry's stream on an array. -/
def passAt (e : QEntry) (a : Nat) : Nat := if a = 0 then e.passA else e.passB
def rowAt (e : QEntry) (a : Nat) : Nat := if a = 0 then e.rowA else e.rowB

/-- The entry has entered all its rows on an array. -/
def streamed (e : QEntry) (a : Nat) : Bool := decide (passesOf e ≤ passAt e a)

/-- Some row of the entry has entered an array. -/
def rowsEntered (e : QEntry) : Bool := decide (0 < e.passA + e.rowA + e.passB + e.rowB)

/-- The stream moves on by a row. -/
def stepStream (a : Nat) (e : QEntry) : QEntry :=
  let last := decide (rowsOf e a ≤ rowAt e a + 1)
  let p := if last then passAt e a + 1 else passAt e a
  let r := if last then 0 else rowAt e a + 1
  if a = 0 then { e with passA := p, rowA := r } else { e with passB := p, rowB := r }

/-- The entry whose rows an array streams now: the first started one that has rows left (R189). -/
def streaming (b : Bead) (a : Nat) : Option QEntry :=
  (queueOf b 0).ents.find? fun e => onArray e a && e.st == .started && e.bad.isNone && !streamed e a

/-- The pass whose weights a pass uses (R200). -/
def weightPass (p : Nat) : Nat := if p < 2 then 0 else 2

/-- The weights of a pass, read from the stationary tile register (R183, R186, R200). [DESIGN CHOICE: log 32] -/
def loadWeights (b : Bead) (e : QEntry) (a p : Nat) : Weights :=
  let st := (stationary e a).getD (0, false)
  let t := tileOf b (st.1 + (if tcSplit e.tcfg && p == 2 then 1 else 0))
  let el (k n : Nat) : Half := if st.2 then tileElem t n k else tileElem t k n
  { entry := e.id, pass := p, tile := st.1, trn := st.2, rows := redOf e a, width := widthOf e a
    fmt := BitVec.ofNat 2 (tcFmt e.tcfg), split := tcSplit e.tcfg, loaded := redOf e a
    elems := upTo (redOf e a) (fun w k => upTo (widthOf e a) (fun w n => tblSet 0 w (64 * k + n) (el k n)) w) [] }

/-- Weights of array B of MM.BWD before its first dY row (R198, R804). -/
def emptyWeights (e : QEntry) (p : Nat) : Weights :=
  { entry := e.id, pass := p, tile := 16, trn := false, rows := redOf e 1, width := widthOf e 1
    fmt := BitVec.ofNat 2 (tcFmt e.tcfg), split := tcSplit e.tcfg }

/-- A started MM.BWD has still to load weights of array B from its dY rows. -/
def loadsToCome (e : QEntry) : Bool :=
  isBwd e && e.st == .started && e.bad.isNone && !emptyProduct e &&
  decide (e.passA < (if tcSplit e.tcfg then 2 else 1))

/-- The reuse condition of R188 for an entry on an array. -/
def reuses (b : Bead) (e : QEntry) (a : Nat) : Bool :=
  match stationary e a, (arrayOf b a).active, (arrayOf b a).standby with
  | some st, some w, none =>
    !tcSplit e.tcfg && !w.split && !w.dirty && w.tile == st.1 && w.trn == st.2 && w.rows == redOf e a &&
    w.width == widthOf e a && w.fmt.toNat == tcFmt e.tcfg &&
    !(a == 1 && (queueOf b 0).ents.any loadsToCome)
  | _, _, _ => false

/-- An array lets an entry start (R188, R192): free standby registers, or reuse once the previous entry has entered its
last row. Array B of MM.BWD loads from the dY rows, once its standby registers are free. -/
def arrayQualifies (b : Bead) (e : QEntry) (a : Nat) : Bool :=
  (isBwd e && a == 1) ||
  (if reuses b e a then (streaming b a).isNone
   else (arrayOf b a).standby.isNone && !(a == 1 && (queueOf b 0).ents.any loadsToCome))

/-- SPLIT as an earlier entry that still runs will leave it, or as it stands (R214, R215). -/
def splitAhead (b : Bead) (k : Nat) : Bool :=
  (queueOf b 0).ents.foldl (fun v x =>
    if isRunning x && x.bad.isNone then
      (arraysOf x).foldl (fun v a => if accKeyOf x a == k && overwrites x a then tcSplit x.tcfg else v) v
    else v) (accOf b k).split

/-- The tile registers of a matrix entry's operands, in order (R105). -/
def operandTiles (e : QEntry) : List Nat :=
  match e.insn with
  | .mm _ tw _ _ _ _ _ => tw.val :: (sourceTile e).toList
  | .mmab twa twb _ _ _ _ _ _ => twa.val :: twb.val :: (sourceTile e).toList
  | .mmbwd tw tx _ _ _ _ _ _ => tw.val :: tx.val :: (sourceTile e).toList
  | _ => []

/-- The first poisoned row of the operands (R105, R211). -/
def poisonedRow (b : Bead) (e : QEntry) : Option Nat :=
  (operandTiles e).findSome? fun t =>
    (List.range 64).find? fun r => rowPoison (tileOf b t) r || (tcSplit e.tcfg && rowPoison (tileOf b (t + 1)) r)

/-- The mask handle word of an MM.BWD, where it names a mask. -/
def maskHandle (e : QEntry) : Option Word :=
  match e.insn with
  | .mmbwd _ _ _ rs1 _ _ _ _ => if rs1 = 0 then none else some e.v1
  | _ => none

/-- The physical slice address of a mask's BASE, where it lies in a slice. -/
def maskSlice (s : State) (o : Nat) (base : Nat) : Option Nat :=
  match translate s (facetOf o) .read base with
  | .ok phys _ => if (sliceOf s phys).isSome then some phys else none
  | _ => none

/-- A mask descriptor that an MM.BWD cannot use (R156, R296, R297). -/
def maskBad (s : State) (o : Nat) (e : QEntry) : Bool :=
  match maskHandle e with
  | none => false
  | some w =>
    let d := e.d1
    let base := dBase d
    (descFault s d true).isSome || decide (base % 8 ≠ 0) || (!inOwnDmem o base && (maskSlice s o base).isNone) ||
    (dMgran d && (!owH2v w || decide (owHandle2 w / 64 ≠ 0)))

/-- The odd register of a pair, or a strand source in split mode (R169, R352). -/
def splitBad (e : QEntry) : Bool :=
  tcSplit e.tcfg && ((strandSource e).isSome || (operandTiles e).any fun t => t % 2 == 1)

/-- The checks of a matrix entry at its start, behind R98 (R105, R211, R215, R296): fault code and part.
[DEDUCED: log 30] -/
def matrixFault (s : State) (o : Nat) (e : QEntry) : Option (Nat × Nat) :=
  let b := beadOf s o
  if 64 < tcM e.tcfg ∨ 64 < tcK e.tcfg ∨ 64 < tcN e.tcfg then some (fcShape, 0)
  else if tcFmt e.tcfg = 3 ∨ splitBad e then some (fcFormat, 0)
  else if (arraysOf e).any fun a => !overwrites e a && splitAhead b (accKeyOf e a) != tcSplit e.tcfg then some (fcFormat, 0)
  else
    match poisonedRow b e with
    | some r => some (fcPoison, r)
    | none => if maskBad s o e then some (fcBadHandle, 0) else none

/-- The M-queue asks for a mask word that lies in a slice (R296). -/
def askMask (o : Nat) (e : QEntry) (s : State) : State :=
  let r := { newReq (beadOf s o) (.mask e.id) .read (dBase e.d1 / 32 * 32) 1 with bytes := dBase e.d1, noalloc := true }
  makeReq o r s

/-- A mask request of an entry is under way. -/
def maskAsked (b : Bead) (e : QEntry) : Bool :=
  b.reqs.any fun r => match r.owner with
    | .mask id => id == e.id
    | _ => false

/-- An entry needs a mask word that it has neither read nor asked for. -/
def maskUnread (b : Bead) (e : QEntry) : Bool :=
  (maskHandle e).isSome && e.maskWord.isNone && e.prepBad.isNone && !maskAsked b e

/-- The mask word is read: from own data memory at once, otherwise by a request (R296). [DESIGN CHOICE: log 32] -/
def readMask (o : Nat) (e : QEntry) (s : State) : State :=
  if inOwnDmem o (dBase e.d1) then
    let off := dBase e.d1 - ownBase o
    modBead o (maskIs e.id (off % 32) (dmemGet s o (off / 32))) (lookOwn o (off / 32) s)
  else askMask o e s

/-- The M-queue reads the mask of the entry that is the next to start (R296). [DESIGN CHOICE: log 32] -/
def maskDue (o : Nat) (s : State) : State :=
  match nextToStart (beadOf s o) 0 with
  | some e => if maskUnread (beadOf s o) e && !maskBad s o e then readMask o e s else s
  | none => s

/-- The place of an empty product in its array (R193, R210). [DESIGN CHOICE: log 32] -/
def emptyJob (e : QEntry) (a : Nat) : RowJob :=
  { entry := e.id, acc := accIdx e a, row := 0, ow := overwrites e a, split := tcSplit e.tcfg
    fmt := BitVec.ofNat 2 (tcFmt e.tcfg), xs := [], lo := 0, hi := 0, frozen := true
    wipe := if overwrites e a then some 0 else none, w := emptyWeights e 0 }

/-- The empty products whose turn it is on an array take their places there, behind the rows of earlier entries. -/
def enterEmpties (a : Nat) (b : Bead) : Bead :=
  upTo 32 (fun b _ =>
    match (streaming b a).filter emptyProduct with
    | some e =>
      modEntry 0 e.id (fun e => if a = 0 then { e with passA := passesOf e } else { e with passB := passesOf e })
        (modArray a (fun x => { x with flight := x.flight ++ [emptyJob e a] }) b)
    | none => b) b

/-- The arrays take up a started entry: its stationary load, the reuse of active weights, or an empty product's place
(R186, R188, R210). [DESIGN CHOICE: log 32] -/
def takeUp (e : QEntry) (b : Bead) : Bead :=
  (arraysOf e).foldl (fun b a =>
    if emptyProduct e then enterEmpties a b
    else if reuses b e a then modEntry 0 e.id (fun e => { e with reuse := e.reuse ||| BitVec.ofNat 2 (2 ^ a) }) b
    else if (stationary e a).isSome then modArray a (fun x => { x with standby := some (loadWeights b e a 0) }) b
    else b) b

/-- An entry no longer uses the arrays: what waits there for it is dropped. -/
def leaveArrays (id : Nat) (b : Bead) : Bead :=
  upTo 2 (fun b a => modArray a (fun x => { x with
    standby := x.standby.filter fun w => w.entry != id }) b) b

/-- The accumulators that an entry writes become EMPTY (R214, R216). -/
def emptyAccs (e : QEntry) (b : Bead) : Bead := (arraysOf e).foldl (fun b a => emptyAcc (accKeyOf e a) b) b

/-- Cell slots counted RETIRED for an entry are counted again as WASTED (R666). -/
def recount (o : Nat) (e : QEntry) (s : State) : State :=
  countEv o 0x07 e.retB (uncountEv o 0x06 e.retB (countEv o 0x03 e.retA (uncountEv o 0x02 e.retA s)))

/-- A matrix entry meets a fault after its start (R216). -/
def matrixFail (o : Nat) (e : QEntry) (code part addr : Nat) (s : State) : State :=
  let s1 := modBead o (fun b =>
    let b1 := leaveArrays e.id b
    if rowsEntered e && !rowsInFlight b1 e.id then emptyAccs e b1 else b1) (recount o e s)
  modBead o (fun b => enterEmpties 1 (enterEmpties 0 b)) (failEntry o 0 e.id code part addr s1)

/-- The value of a streamed or stationary element by an entry's format (R219, R220). -/
def elemVal (fmt : Nat) (v : Half) : FVal := enterVal (if fmt = 0 then fp16 else bf16) v

/-- A cell is data-gated (R208). -/
def gated (x w : FVal) : Bool := (isZero x && isFin w) || (isZero w && isFin x)

/-- Cells of a row that are not gated: reduction indices in [klo, khi), columns in [lo, hi). -/
def liveCells (j : RowJob) (klo khi : Nat) : Nat :=
  let ws := fun k n => elemVal j.fmt.toNat (tblGet 0 j.w.elems (64 * k + n))
  if j.frozen then 0
  else (List.range khi).foldl (fun a k =>
    if k < klo then a
    else
      let x := elemVal j.fmt.toNat (nth 0 j.xs k)
      (List.range j.hi).foldl (fun a n => if n < j.lo || gated x (ws k n) then a else a + 1) a) 0

/-- The terms of an element's row sum: the products that the row defines (R222, R223). -/
def rowTerms (j : RowJob) (n : Nat) : List FVal :=
  (List.range j.w.rows).map fun k =>
    valMul (elemVal j.fmt.toNat (nth 0 j.xs k)) (elemVal j.fmt.toNat (tblGet 0 j.w.elems (64 * k + n)))

/-- The new sum and error of an element. -/
def newElem (j : RowJob) (acc : Acc) (n : Nat) : Word32 × Word32 :=
  let i := 64 * j.row + n
  let inRow := decide (j.lo ≤ n) && decide (n < j.hi) && !j.frozen
  let old : Word32 × Word32 := if j.ow then (0, 0) else (tblGet 0 acc.s i, tblGet 0 acc.e i)
  if !inRow then old
  else if j.split then splitUpdate old (rowSum (rowTerms j n))
  else (rowSum ((if j.ow then [] else [val32 old.1]) ++ rowTerms j n), 0)

/-- The rows of an accumulator from one on become +0. -/
def wipeRows (n : Nat) (acc : Acc) : Acc :=
  { acc with s := acc.s.filter fun p => decide (p.1 < 64 * n), e := acc.e.filter fun p => decide (p.1 < 64 * n) }

/-- A row's products are added into its accumulator row (R184, R193, R223, R230). -/
def addRow (j : RowJob) (acc : Acc) : Acc :=
  let new := (List.range 64).map (newElem j acc)
  let acc' : Acc := { acc with
    s := upTo 64 (fun t n => tblSet 0 t (64 * j.row + n) (nth (0, 0) new n).1) acc.s
    e := upTo 64 (fun t n => tblSet 0 t (64 * j.row + n) (nth (0, 0) new n).2) acc.e }
  match j.wipe with
  | some n => wipeRows n acc'
  | none => acc'

/-- The source row of a stream: elements and group selector (R195, R203, R204, R350). -/
structure SrcRow where
  xs : List Half
  sel : Nat
  deriving DecidableEq, Repr

/-- The next row of an array's stream from its tile registers; `none` for a strand source. -/
def tileSource (b : Bead) (e : QEntry) (a : Nat) : Option SrcRow :=
  let p := passAt e a
  let r := rowAt e a
  let low := tcSplit e.tcfg && p == 1
  if isBwd e && a == 1 then
    let t := tileOf b (txTile e + b2n low)
    some ⟨(List.range (redOf e a)).map fun m => tileElem t m r, 0⟩
  else
    (sourceTile e).map fun t =>
      ⟨(List.range (redOf e a)).map fun k => tileElem (tileOf b (t + b2n low)) r k, r / (64 / tcGroups e.tcfg)⟩

/-- The group selector of a row that is delivered now (R204, R293, R359). -/
def runSelector (s : State) (d : BitVec 512) (void : Bool) (ix : Word) : Nat :=
  if sdSel d && sdGather d && !void then viewSlot s (ixAid ix) else 0

/-- The row that a strand's run delivers (R350, R358). -/
def runRow (x : StrandRun) (red : Nat) : SrcRow :=
  let bytes := codesBytes x.data
  ⟨(List.range red).map fun k =>
    if x.void || decide (16 * x.data.length ≤ k) then 0 else BitVec.ofNat 16 (ofBytes ((bytes.drop (2 * k)).take 2)),
   x.sel⟩

/-- A dY row under column groups: the elements outside the row's group count as +0 (R207, R294). -/
def groupRow (e : QEntry) (r : SrcRow) : List Half :=
  let g := tcGroups e.tcfg
  let w := 64 / g
  (List.range r.xs.length).map fun n => if r.sel < g ∧ n / w = r.sel then nth 0 r.xs n else 0

/-- The job of a row that enters an array (R189, R205, R206, R298). -/
def rowJob (e : QEntry) (a : Nat) (r : SrcRow) (w : Weights) (mask : Word) : RowJob :=
  let g := tcGroups e.tcfg
  let gw := 64 / g
  let bwd := isBwd e
  let frozen := if bwd then
      a == 1 && !(if dMgran e.d1 then bitOf mask.toNat (owHandle2 e.v1 % 64) else bitOf mask.toNat (rowAt e a))
    else decide (g ≤ r.sel)
  { entry := e.id, acc := accIdx e a, row := rowAt e a, ow := overwrites e a && passAt e a == 0
    split := tcSplit e.tcfg, fmt := BitVec.ofNat 2 (tcFmt e.tcfg), xs := if bwd && a == 0 then groupRow e r else r.xs
    lo := if bwd then 0 else min (widthOf e a) (r.sel * gw)
    hi := if bwd then widthOf e a else min (widthOf e a) ((r.sel + 1) * gw)
    frozen := frozen
    wipe := if overwrites e a && decide (rowsOf e a ≤ rowAt e a + 1) && decide (passesOf e ≤ passAt e a + 1)
      then some (rowAt e a + 1) else none
    w := w }

/-- The weights with which an array's next row works, where they are active (R189, R190). -/
def rowWeights (b : Bead) (e : QEntry) (a : Nat) : Option Weights :=
  (arrayOf b a).active.filter fun w =>
    bitOf e.reuse.toNat a || (w.entry == e.id && w.pass == weightPass (passAt e a))

/-- The pass of array B whose weights the dY rows of array A's present pass load (R198, R804). -/
def feedsB (e : QEntry) : Option Nat :=
  if !isBwd e then none else if e.passA = 0 then some 0 else if e.passA = 1 then some 2 else none

/-- Array B's standby registers can take the next dY row. -/
def feedReady (b : Bead) (e : QEntry) : Bool :=
  match feedsB e with
  | none => true
  | some p =>
    match (arrayOf b 1).standby with
    | none => e.rowA == 0
    | some w => w.entry == e.id && w.pass == p && decide (0 < e.rowA)

/-- A dY row loads a row of array B's standby registers. -/
def feedRow (e : QEntry) (xs : List Half) (b : Bead) : Bead :=
  match feedsB e with
  | none => b
  | some p => modArray 1 (fun x =>
      let w := if e.rowA = 0 then emptyWeights e p else x.standby.getD (emptyWeights e p)
      { x with standby := some { w with
          loaded := w.loaded + 1
          elems := upTo w.width (fun t n => tblSet 0 t (64 * e.rowA + n) (nth 0 xs n)) w.elems } }) b

/-- The mask word of a started entry. -/
def startMask (e : QEntry) : Word := e.maskWord.getD (BitVec.allOnes 64)

/-- A row enters an array: its job, the load of array B, the stream and the count of live cells.
[DESIGN CHOICE: log 32] -/
def enterRow (e : QEntry) (a : Nat) (r : SrcRow) (w : Weights) (b : Bead) : Bead :=
  let j := rowJob e a r w (startMask e)
  let g := tcGroups e.tcfg
  let klo := if isBwd e && a == 0 then min (redOf e a) (r.sel * (64 / g)) else 0
  let khi := if isBwd e && a == 0 then min (redOf e a) ((r.sel + 1) * (64 / g)) else redOf e a
  let live := if isBwd e && a == 0 && decide (g ≤ r.sel) then 0 else liveCells j klo khi
  let b1 := modArray a (fun x => { x with flight := x.flight ++ [j], slot := some live }) b
  let b2 := if a = 0 then feedRow e j.xs b1 else b1
  modEntry 0 e.id (fun e =>
    let e' := stepStream a e
    if a = 0 then { e' with retA := e'.retA + live } else { e' with retB := e'.retB + live }) b2

/-- The arrays that a source row enters together: both for MM.AB (R102). -/
def rowArrays (e : QEntry) (a : Nat) : List Nat := if isTwin e then [0, 1] else [a]

/-- The array on which an entry takes its source rows. -/
def srcArray (e : QEntry) : Nat := nth 0 (arraysOf e) 0

/-- The entry that takes a strand's rows: the first M-queue entry naming it with rows still to come (R351).
[DESIGN CHOICE: log 90] -/
def strandTaker (b : Bead) (n : Nat) : Option QEntry :=
  (queueOf b 0).ents.find? fun e => e.barrier == 0 && e.bad.isNone && strandSource e == some n && !emptyProduct e &&
    !streamed e (srcArray e)

/-- The entry is the taker of the strand that it streams from. -/
def takesTurn (b : Bead) (e : QEntry) : Bool :=
  match strandSource e with
  | some n => ((strandTaker b n).map (·.id)) == some e.id
  | none => true

/-- The next row of an array's stream may enter in this ck, its source aside (R189, R351). -/
def rowDue (b : Bead) (a : Nat) : Option QEntry :=
  (streaming b a).filter fun e =>
    (a != srcArray e || takesTurn b e) &&
    (rowArrays e a).all (fun k =>
      (arrayOf b k).slot.isNone && ((streaming b k).map (·.id)) == some e.id && (rowWeights b e k).isSome) &&
    (a != 0 || feedReady b e)

/-- A source row enters every array it is for. -/
def enterAll (e : QEntry) (a : Nat) (r : SrcRow) (b : Bead) : Bead :=
  (rowArrays e a).foldl (fun b k =>
    match rowWeights b e k with
    | some w => enterEmpties k (enterRow e k r w b)
    | none => b) b

/-- Device address of the first bad granule of a run. -/
def runBadAddr (x : StrandRun) : Nat :=
  x.src + 32 * (((List.range x.data.length).find? fun i => isBad (nth 0 x.data i)).getD 0)

/-- A strand fetches one of its runs, again where it has been stale (R374), or at last where it is void no more (R358).
[DEDUCED: log 87] -/
def fetchRun (o n : Nat) (x : StrandRun) (again : Bool) (s : State) : State :=
  let y : StrandRun := { x with
    req := (beadOf s o).nextId, got := false, bad := false, stale := false, staleAt := 0, void := false, fed := false
    again := again, data := [] }
  askRun o n y (modBead o (modStrand n fun k => { k with runs := modFirst (fun z => z.idx == x.idx) (fun _ => y) k.runs }) s)

/-- A strand fetches its stale head run once more before it is consumed (R374). [DEDUCED: log 87] -/
def refetchRun (o n : Nat) (x : StrandRun) (s : State) : State := fetchRun o n x true (countEv o 0x17 1 s)

/-- Rows of a strand that its feeders hold. -/
def fedRows (k : Strand) : Nat := k.left.length + countIf (fun x => x.fed) k.runs

/-- A strand's next row reaches the feeders, with the void bit and the selector that the view in force gives it (R195, R293,
R358). A poisoned one faults the entry that takes it there and then, at its place among that entry's rows, and is gone; the rows
ahead of it stay in the feeders (R105, R144). -/
def feedRun (o n : Nat) (e : QEntry) (x : StrandRun) (s : State) : State :=
  let k := strandOf (beadOf s o) n
  let d := k.desc
  let v := sdGather d && rowVoid s d x.ix
  if x.void && !v then fetchRun o n x x.again s
  else if x.bad && !v && !x.stale then
    settleStrand o n (modBead o (modStrand n fun k => { k with
      runs := dropFirst (fun z => z.idx == x.idx) k.runs, consumed := k.consumed + 1 })
      (matrixFail o e fcPoison (rowAt e (srcArray e) + fedRows k) (runBadAddr x) s))
  else
    let y := { x with fed := true, void := v, sel := runSelector s d v x.ix }
    deliverRun o n y (modBead o (modStrand n fun k => { k with runs := modFirst (fun z => z.idx == x.idx) (fun _ => y) k.runs }) s)

/-- Rows of an entry that have still to enter an array. -/
def toEnter (e : QEntry) (a : Nat) : Nat := passesOf e * rowsOf e a - (passAt e a * rowsOf e a + rowAt e a)

/-- The strand from which an entry fills an array's feeders. -/
def feedsFrom (e : QEntry) (k : Nat) : Option Nat := if (rowArrays e (srcArray e)).contains k then strandSource e else none

/-- Strand rows that an array's feeders hold: those of the strands whose taker streams into it. -/
def strandRows (b : Bead) (k : Nat) : Nat :=
  (List.range 8).foldl (fun t n => match strandTaker b n with
    | some e => if (rowArrays e (srcArray e)).contains k then t + fedRows (strandOf b n) else t
    | none => t) 0

/-- The started entries ahead of an entry whose rows an array still takes. -/
def aheadOn (b : Bead) (e : QEntry) (k : Nat) : List QEntry :=
  ((queueOf b 0).ents.takeWhile fun x => x.id != e.id).filter fun x =>
    onArray x k && x.st == .started && x.bad.isNone && !emptyProduct x && !streamed x k

/-- Rows that an array's feeders hold when an entry's next row comes to them: of a tile register, all that are still to enter
(R195). [DESIGN CHOICE: log 90] -/
def feederRows (b : Bead) (e : QEntry) (k : Nat) : Nat :=
  (aheadOn b e k).foldl (fun t x => if (feedsFrom x k).isSome then t else t + toEnter x k) (strandRows b k)

/-- The feeders of the arrays that an entry streams into take its next row: they hold fewer than 16, no row has left full ones
in this ck, and the rows of the entries ahead are all there (R195, R197). -/
def feederRoom (s : State) (o : Nat) (e : QEntry) : Bool :=
  let b := beadOf s o
  (rowArrays e (srcArray e)).all fun k =>
    decide (feederRows b e k < 16) && decide ((arrayOf b k).pause ≠ absCk s + 1) &&
    (aheadOn b e k).all fun x => match feedsFrom x k with
      | some m => decide (toEnter x k ≤ fedRows (strandOf b m))
      | none => true

/-- The run that a strand delivers next, with the entry that takes it: the feeders have room, and the entry has rows to come
beyond what they hold of the strand (R197, R351). [DESIGN CHOICE: log 90] -/
def feedNext (s : State) (o n : Nat) : Option (QEntry × StrandRun) :=
  let b := beadOf s o
  let k := strandOf b n
  match strandTaker b n with
  | none => none
  | some e =>
    if k.running && !k.stopping && sdTarget k.desc == 0 && e.st == .started &&
        decide (fedRows k < rowsOf e (srcArray e) - rowAt e (srcArray e)) && feederRoom s o e then
      ((k.runs.find? fun x => !x.fed).filter fun x => x.got).map fun x => (e, x)
    else none

/-- A strand delivers what it can into the feeders, row by row: between its granules' arrivals a row is in no state that
anything reads. [DESIGN CHOICE: log 90] -/
def feedStrand (o n : Nat) (s : State) : State :=
  upTo 16 (fun t _ => match feedNext t o n with
    | some x => feedRun o n x.1 x.2 t
    | none => t) s

/-- Every strand of a bead delivers what it can. -/
def feedAll (o : Nat) (s : State) : State := upTo 8 (fun t n => feedStrand o n t) s

/-- What a FEED strand has for its consumer: a row in the feeders, the end of the strand, or nothing yet. -/
inductive Feed where
  | run (x : StrandRun)
  | ended
  | nothing
  deriving DecidableEq, Repr

/-- The head of the feeders as the consumer finds it (R349, R353). [DESIGN CHOICE: log 90] -/
def feedHead (b : Bead) (n : Nat) : Feed :=
  let k := strandOf b n
  match k.left with
  | x :: _ => .run x
  | [] =>
    if !k.running || k.stopping then .ended
    else
      match k.runs.head?.filter fun x => x.fed && x.got with
      | some x => .run x
      | none => .nothing

/-- The head row leaves the feeders (R349): one of a strand that stops counts for it. -/
def takeRow (o n : Nat) (s : State) : State :=
  if (strandOf (beadOf s o) n).left = [] then consumeRun o n s
  else modBead o (modStrand n fun k => { k with left := k.left.drop 1, consumed := k.consumed + b2n k.stopping }) s

/-- A row leaves an array's feeders: where they were full, they take no strand's row in this ck (R197). -/
def leaveFeeders (s : State) (o a : Nat) (b : Bead) : Bead :=
  let l := (queueOf b 0).ents.filter fun x => onArray x a && x.st == .started && x.bad.isNone
  if l.any fun x => (feedsFrom x a).isSome && decide (16 ≤ feederRows b x a)
  then modArray a (fun x => { x with pause := absCk s + 1 }) b else b

/-- The row at the head of a strand's feeder goes to its consumer (R105, R351, R353, R374). -/
def fedStep (o n a : Nat) (e : QEntry) (s : State) : State :=
  match feedHead (beadOf s o) n with
  | .nothing => s
  | .ended => matrixFail o e fcStrandEnd (rowAt e a) 0 s
  | .run x =>
    if x.stale && x.again then
      matrixFail o e fcStaleTwice (rowAt e a) (x.src + 32 * x.staleAt) (endStrand o n fcStaleTwice false s)
    else if x.stale && (strandOf (beadOf s o) n).left != [] then matrixFail o e fcStrandEnd (rowAt e a) 0 s
    else if x.stale then refetchRun o n x s
    else if x.bad && !x.void then takeRow o n (matrixFail o e fcPoison (rowAt e a) (runBadAddr x) s)
    else takeRow o n (modBead o (fun b => enterAll e a (runRow x (redOf e a)) (leaveFeeders s o a b)) s)

/-- A strand's rows go to its feeder as far as it has room, and the head row to its consumer (R197).
[DESIGN CHOICE: log 90] -/
def feedStep (o n a : Nat) (e : QEntry) (s : State) : State := fedStep o n a e (feedStrand o n s)

/-- The next row of an array's stream enters, or its strand source fails it. A tile register's row is read as it enters: the
register holds the same since the entry's start (R194, R195). [DESIGN CHOICE: log 90] -/
def rowStep (o a : Nat) (e : QEntry) (s : State) : State :=
  match tileSource (beadOf s o) e a with
  | some r => modBead o (fun b => enterAll e a r (leaveFeeders s o a b)) s
  | none =>
    match strandSource e with
    | some n => feedStep o n a e s
    | none => s

/-- The stream's source has its next row, or an end to report. -/
def sourceReady (s : State) (o : Nat) (e : QEntry) (a : Nat) : Bool :=
  if isBwd e && a == 1 then true
  else
    match strandSource e with
    | some n => feedHead (beadOf (feedStrand o n s) o) n != .nothing
    | none => true

/-- The power controller lets rows enter in this ck (R782, R783). [DEDUCED: log 78] -/
def dutyOpen (s : State) : Bool := s.clock.mode == .scheduled || decide (s.clock.ck % 8 < s.power.duty.toNat)

/-- ARRAY_ROW_ENTER (R189, R195, R782). [DESIGN CHOICE: log 33] -/
def execArrayRowEnter (o : Ord) (a : ArrN) (s : State) : Host.Outcome State Fault Refusal :=
  match rowDue (beadOf s o.val) a.val with
  | some e =>
    whenOk s (beadRuns s o.val && dutyOpen s && sourceReady s o.val e a.val) (rowStep o.val a.val e s)
  | none => .next s

/-- The oldest row in an array is added into its accumulator; a failed entry's last row empties its accumulators. -/
def rowDone (o a : Nat) (s : State) : State :=
  let b := beadOf s o
  match (arrayOf b a).flight with
  | [] => s
  | j :: rest =>
    let k := accKey (a == 1) j.acc.val
    let b1 := modArray a (fun x => { x with flight := rest }) b
    let b2 := setAcc k (addRow j (accOf b1 k)) b1
    match findEntry b2 0 j.entry with
    | some e =>
      if e.bad.isSome && !rowsInFlight b2 e.id then settleHead o 0 (setBead o (emptyAccs e b2) s) else setBead o b2 s
    | none =>
      -- the entry was discarded: its accumulator is emptied behind its last row (R135)
      setBead o (if rest.any fun x => x.entry == j.entry then b2 else emptyAcc k b2) s

/-- ARRAY_ROW_COMPLETE (R191). [DESIGN CHOICE: log 33] -/
def execArrayRowComplete (o : Ord) (a : ArrN) (s : State) : Host.Outcome State Fault Refusal :=
  whenOk s (beadRuns s o.val && (arrayOf (beadOf s o.val) a.val).flight != []) (rowDone o.val a.val s)

/-- The standby weights may become active: loaded, and the stream stands at the pass they are for (R190). -/
def activates (b : Bead) (a : Nat) : Option (Weights × QEntry) :=
  match (arrayOf b a).standby, streaming b a with
  | some w, some e =>
    if w.loaded = w.rows ∧ w.entry = e.id ∧ w.pass = passAt e a ∧ rowAt e a = 0 then some (w, e) else none
  | _, _ => none

/-- The standby weights become active and free the standby registers; a split entry's low parts load into them (R187,
R190, R200). -/
def activate (b : Bead) (a : Nat) (w : Weights) (e : QEntry) : Bead :=
  let low := tcSplit e.tcfg && w.pass == 0 && (stationary e a).isSome
  modArray a (fun x => { x with
    active := some w
    standby := if low then some (loadWeights b e a 2) else none }) b

/-- WEIGHTS_ACTIVATE (R190). -/
def execWeightsActivate (o : Ord) (a : ArrN) (s : State) : Host.Outcome State Fault Refusal :=
  match activates (beadOf s o.val) a.val with
  | some (w, e) =>
    whenOk s (beadRuns s o.val) (modBead o.val (fun b => activate b a.val w e) s)
  | none => .next s

/-- A matrix entry has finished on every array it uses (R191, R201). -/
def matrixFinished (b : Bead) (e : QEntry) : Bool := (arraysOf e).all (fun a => streamed e a) && !rowsInFlight b e.id

/-- The state of a finished entry's accumulator (R214). -/
def settleAcc (e : QEntry) (a : Nat) (acc : Acc) : Acc :=
  { acc with full := true, split := if overwrites e a then tcSplit e.tcfg else acc.split }

/-- The accumulators of a completing entry. -/
def settleAccs (e : QEntry) (b : Bead) : Bead :=
  (arraysOf e).foldl (fun b a => setAcc (accKeyOf e a) (settleAcc e a (accOf b (accKeyOf e a))) b) b

end Sys2Proof.Machine
end

