-- ==== Sys2Proof/Machine/Tick.lean ====
section
/-! DEFINITION. One ck: what the counters of the blocks add in it (chapter 20), and the hub's lines (chapter 19). -/

namespace Sys2Proof.Machine

/-! ### Cell slots -/

/-- The M-queue's head is a QBAR marker that waits only on D-queue entries and L-queue TST entries (R666).
[DEDUCED: log 63] -/
def headHeld (b : Bead) : Bool :=
  match headBarrier b 0 with
  | none => false
  | some id =>
    let late := (List.range 4).filter fun q =>
      headBarrier b q != some id && (queueOf b q).ents.any fun e => e.barrier == id
    late != [] && late.all fun q => q == 2 || (q == 1 &&
      ((queueOf b 1).ents.takeWhile fun e => e.barrier != id).all fun e =>
        match e.insn with
        | .tst .. => true
        | _ => e.barrier != 0)

/-- An array serves an empty product (R210, R666). -/
def servesEmpty (b : Bead) (a : Nat) : Bool :=
  (queueOf b 0).ents.any fun e => onArray e a && e.st == .started && e.bad.isNone && emptyProduct e

/-- Cell slots of an array in this ck, by category: 0 RETIRED, 1 WASTED, 2 FRONT, 3 BACK (R666, R667). -/
def cellSlots (b : Bead) (a cat : Nat) : Nat :=
  match (arrayOf b a).slot with
  | some n => if cat = 0 then n else if cat = 1 then 4096 - n else 0
  | none =>
    if servesEmpty b a then (if cat = 1 then 4096 else 0)
    else if headHeld b then (if cat = 3 then 4096 else 0)
    else if cat = 2 then 4096 else 0

/-- The array inserts an empty slot (R196): a row could enter but for its elements. -/
def emptySlot (s : State) (o a : Nat) : Bool :=
  let b := beadOf s o
  (arrayOf b a).slot.isNone &&
  (match rowDue b a with
   | some e => !sourceReady s o e a
   | none => false)

/-! ### What a block counts in a ck -/

/-- A ready request is passed over for want of a slot or under the cap on strand runs (R362, R364).
[DEDUCED: log 63] -/
def passedSlots (b : Bead) : Bool :=
  b.reqs.any fun r => r.st == .ready &&
    (decide (48 ≤ (slotted b).length) || (isStrandReq r && decide (40 ≤ countIf isStrandReq (slotted b))))

/-- A ready request is passed over under the cap on a bank group (R363). -/
def passedBank (s : State) (b : Bead) : Bool :=
  b.reqs.any fun r => r.st == .ready &&
    (reqGroups s r).any fun g => decide (12 ≤ countIf (fun x => (reqGroups s x).contains g) (slotted b))

/-- A clasp of a range of keys has a waiter. -/
def anyWaiter (s : State) (k0 n : Nat) : Bool :=
  s.clasps.waiters.any fun p => decide (k0 ≤ p.1) && decide (p.1 < k0 + n) && !p.2.isEmpty

/-- A ready flit of a router has no credit (R665). -/
def noCredit (s : State) (r : Nat) : Bool :=
  s.clock.mode != .scheduled &&
  (flightsOf s r).any fun f => flitReady s (flightsOf s r) f && !outCredit s r (arbOut s r f.msg) f.msg

/-- A MSG frame of a class waits at a port for credit (R665). -/
def frameWaits (q : Port) (c : Nat) : Bool :=
  q.tx.any fun f => opClass f.msg.op == c && decide (creditsOf q c < blocksOf f.msg)

/-- What one ck adds to a counter that a ck itself moves: CK, cell slots, empty slots and the counts of ck in a state
(R663 to R667). [DEDUCED: log 63] -/
def perCk (s : State) (blk code : Nat) : Nat :=
  if code = 0x01 then 1
  else if blk < 0x400 then
    let b := beadOf s blk
    if 0x02 ≤ code ∧ code ≤ 0x05 then cellSlots b 0 (code - 2)
    else if 0x06 ≤ code ∧ code ≤ 0x09 then cellSlots b 1 (code - 6)
    else if code = 0x0A then b2n (emptySlot s blk 0)
    else if code = 0x0B then b2n (emptySlot s blk 1)
    else if code = 0x10 then b2n (passedSlots b)
    else if code = 0x11 then b2n (passedBank s b)
    else if code = 0x1A then b2n (anyWaiter s (64 * blk) 64)
    else 0
  else if blk < 0x880 then
    let r := blk - 0x400
    if code = 0x09 then (if s.clock.mode == .scheduled && !s.clock.hold then (entriesAt s r s.clock.ck).length else 0)
    else if code = 0x0E then b2n (noCredit s r)
    else 0
  else if 0x900 ≤ blk ∧ blk < 0x920 then
    if code = 0x06 then b2n (anyWaiter s (65536 + 256 * (blk - 0x900)) 256) else 0
  else if 0x930 ≤ blk ∧ blk < 0x940 then
    if 0x08 ≤ code ∧ code ≤ 0x0A then b2n (frameWaits (portOf s (blk - 0x930)) (code - 8)) else 0
  else if blk = blkCxl then
    if code = 0x06 then b2n (tblGet [] s.fabric.inj (nodeCxl * 16 + 2) != []) else 0
  else 0

/-- Every counter adds the events of the ck (R660). [DESIGN CHOICE: log 1] -/
def countCk (s : State) : State :=
  { s with asy := { s.asy with vals := s.asy.codes.foldl (fun vs p =>
      match perCk s (p.1 / 8) p.2.toNat with
      | 0 => vs
      | n => tblMod 0 vs p.1 (fun v => v + BitVec.ofNat 48 n)) s.asy.vals } }

/-- The row slots of the ck are over: a row may enter in the next. [DESIGN CHOICE: log 1] -/
def clearSlots (s : State) : State :=
  (s.beads.filter fun p => p.2.arrs.any fun q => q.2.slot.isSome).foldl (fun t p =>
    modBead p.1 (fun b => upTo 2 (fun b a => modArray a (fun x => { x with slot := none }) b) b) t) s

/-- The end of a ck. [DESIGN CHOICE: log 1] -/
def endCk (s : State) : State :=
  hubTick (endPauses (clearSlots (countCk (claspCk s))))

/-- One ck passes within a tick while the main domains run; the last ck of a tick ends at its boundary (R18, R25).
[DESIGN CHOICE: log 1] -/
def advanceCk (s : State) : State :=
  if mainUp s && decide (s.clock.ck < 16383) then
    let t := endCk s
    { t with clock := { t.clock with ck := s.clock.ck + 1 } }
  else s

end Sys2Proof.Machine
end

