-- ==== Sys2Proof/Machine/Boundary.lean ====
section
/-! DEFINITION. The tick boundary: the ordered actions of R25, and what the other chapters do at a boundary (chapters 1, 2, 8,
13, 17, 18, 20, 21, 22 and 25). -/

namespace Sys2Proof.Machine

def modClock (f : Clock → Clock) (s : State) : State := { s with clock := f s.clock }
def modLedger (f : Ledger → Ledger) (s : State) : State := { s with ledger := f s.ledger }

/-- What the tick that opens is (R30, R31, R34, R35, R693). -/
inductive Opens where
  | step | enter | hold | replay | leave | quiet | idle
  deriving DecidableEq, Repr

/-! ### Step 1: the overrun check -/

/-- The module's own part of the check: with a reachable peer it is the verdict at the seal point (R494), else what is
incomplete now (R33, R70, R713). The answer is the verdict, the first incomplete ordinal, and how many there are. -/
def ownCheck (s : State) : Bool × Nat × Nat :=
  if s.clock.mode != .scheduled || s.clock.hold then (false, 0, 0)
  else if reachable s != [] && s.chain.sealed_ then (s.chain.verdict, s.chain.sealFirst.toNat, s.chain.sealCount.toNat)
  else (ownVerdict s, nth 0 (incomplete s) 0, (incomplete s).length)

/-- A peer's vote, or a peer's silence, holds the next tick (R495, R496). [DEDUCED: log 67] -/
def peerCheck (s : State) : Bool := s.clock.mode == .scheduled && peerHold s

/-- The peer module whose vote or silence decided. -/
def votingModule (s : State) : Nat :=
  match (reachable s).find? fun p => holdsNext (portOf s p) with
  | some p => (portOf s p).peer.toNat
  | none => 0

/-- The outcome of the check is recorded and counted (R34, R684, R710, R713). [DEDUCED: log 65] -/
def recordCheck (own : Bool × Nat × Nat) (peer : Bool) (s : State) : State :=
  if own.1 then
    hubRaise 133 (recordAt 0x06 blkLocket (own.2.1 + own.2.2 * 2 ^ 10)
      (modLedger (fun l => { l with overruns := satInc l.overruns, cur := { l.cur with overrun := true } }) s))
  else if peer then
    hubRaise 133 (recordAt 0x06 blkLocket (2 ^ 21 + votingModule s * 2 ^ 22)
      (modLedger (fun l => { l with peerHolds := satInc l.peerHolds, cur := { l.cur with peerHold := true } }) s))
  else s

/-- A decided hold ends scheduled service when the work has been replayed before, or replay is disabled (R37, R696, R697). -/
def noReplay (ovr : Bool) (s : State) : State :=
  if ovr && !s.clock.hold && (s.clock.replay || !s.ledger.replay) then endService 0x06 s else s

/-! ### What the next tick is -/

/-- The last step of the plan has run (R613). -/
def lastStep (s : State) : Bool := let p := s.nutas.plan; p.nticks != 0 && decide (p.nticks ≤ p.step + 1)

/-- A plan that waits cannot enter any more (R614): its first load is not armed by the end of tick START − 2, or the
counter has stepped past its place. [DEDUCED: log 61] -/
def planLate (s : State) (new : Nat) : Bool :=
  let p := s.nutas.plan
  p.phase == .waiting && p.start != 0 &&
    (if s.clock.quiet then new != p.start else decide (p.start ≤ new) || (new + 1 == p.start && p.ready.isNone))

/-- The module may enter scheduled mode: it is ALIGNED or the reference, where it has peers (R493). -/
def mayEnter (s : State) : Bool := reachable s == [] || s.chain.aligned || s.chain.isRef

/-- A board plan may not enter at its START (R493, R612). [DEDUCED: log 61] -/
def planUnaligned (s : State) : Bool :=
  s.nutas.plan.phase == .waiting && s.nutas.plan.start != 0 && s.clock.quiet && !mayEnter s

/-- A plan without a START waits until the module may enter (R493). [DEDUCED: log 61] -/
def planHeld (s : State) : Bool :=
  s.nutas.plan.phase == .waiting && s.nutas.plan.start == 0 && !mayEnter s

/-- A waiting plan that cannot enter is given up (R493, R614). -/
def planDrop (new : Nat) (s : State) : State :=
  if planLate s new then inTick (BitVec.ofNat 48 new) (complete s.nutas.plan.num stLateStart 0 0) (clearPlan s)
  else if planUnaligned s then inTick (BitVec.ofNat 48 new) (complete s.nutas.plan.num stNotAligned 0 0) (clearPlan s)
  else s

/-- The tick that opens (R30, R31, R34, R35). -/
def opens (s : State) (ovr : Bool) (new : Nat) : Opens :=
  let p := s.nutas.plan
  if s.clock.mode = .scheduled then
    if s.clock.hold then (if s.clock.leaving then .leave else if ovr then .hold else .replay)
    else if ovr then .hold
    else if s.clock.leaving || lastStep s then .leave
    else .step
  else if s.clock.quiet then (if planHeld s then .quiet else .enter)
  else if p.phase = .waiting ∧ !planHeld s ∧ p.ready.isSome ∧ (p.start = 0 ∨ new + 1 = p.start) then .quiet
  else .idle

/-! ### Step 3: swaps -/

/-- The step whose armed load swaps in now (R27, R613). A load that is whole before the tick whose closing boundary needs it is
armed at once, and its swap still waits for its own step's boundary (R26). [DESIGN CHOICE: log 93] -/
def stepDue (s : State) (o : Opens) (ending : Nat) : Option Nat :=
  match s.nutas.plan.ready with
  | some (k, due) =>
    if due ≤ ending ∧ ((o = .enter ∧ k = 0) ∨ (o = .step ∧ k = s.nutas.plan.step + 1)) then some k else none
  | none => none

/-- The beads whose image the step's setting gives stand in the shadow bank: their swap is due (R606, R726). -/
def markImages (k ending : Nat) (s : State) : State :=
  match bundleOf s s.nutas.plan.slot with
  | none => s
  | some b =>
    let base := settingBase b (schedSetting (planEntry s b k))
    ((List.range 1024).filter (ordLive s)).foldl (fun t o =>
      match settingBank s b base o with
      | none => t
      | some _ => modBead o (fun x => { x with swapDue := some ending }) t) s

/-- Setting memories, check images and reach masks swap (R25, R26). -/
def swapSetting (s : State) : State :=
  { s with
    fabric := { s.fabric with
      active := s.fabric.shadow, shadow := s.fabric.active, activeId := s.fabric.shadowId, shadowId := s.fabric.activeId }
    clasps := { s.clasps with check := s.clasps.checkShadow, checkShadow := s.clasps.check }
    nutas := { s.nutas with reach := s.nutas.reachShadow, reachShadow := s.nutas.reach, plan := { s.nutas.plan with ready := none } } }

/-- Instruction memories swap, each bead's where its work is complete (R25, R69). [DEDUCED: log 65] -/
def swapImages (ending : Nat) (s : State) : State :=
  let due := (s.beads.filter fun p => ordLive s p.1 && beadComplete p.2 &&
    (match p.2.swapDue with
     | some d => decide (d ≤ ending)
     | none => false)).map (·.1)
  if due = [] then s
  else due.foldl (fun t o => modBead o swapBead t) (modLedger (fun l => { l with iswap := l.iswap + 1 }) s)

/-- A LOAD_PROGRAM whose beads have all swapped completes (R609). -/
def programsDone (new : Nat) (s : State) : State :=
  s.nutas.waits.foldl (fun t w => match w with
    | .program n first last =>
      if (t.beads.any fun p => decide (first ≤ p.1) && decide (p.1 ≤ last) && ordLive t p.1 && p.2.swapDue.isSome) ||
         (t.nutas.loads.any fun l => match l.what with
           | .program k _ _ _ _ => k == n
           | _ => false) then t
      else complete n stOk 0 (BitVec.ofNat 64 new) (dropWait (fun x => x == w) t)
    | _ => t) s

/-- Translation stores swap with the window attributes (R325, R328, R604), and the same change begins to go into the bank that
has become the shadow; its MAPs and UNMAPs complete when it stands there. [DEDUCED: log 54] -/
def swapStores (ending new : Nat) (s : State) : State :=
  match s.mmu.swapDue with
  | none => s
  | some d =>
    if ending < d then s
    else
      let s1 : State := { s with
        mmu := { s.mmu with
          active := s.mmu.shadow
          win := s.mmu.winShadow
          swapDue := none
          walks := s.mmu.walks.map fun p => (p.1, p.2.map fun w => { w with cached := false }) }
        beads := s.beads.map fun p => (p.1, { p.2 with tlb := [] })
        ledger := { s.ledger with tsSwap := s.ledger.tsSwap + 1 } }
      let nums := s.nutas.waits.filterMap fun w => match w with
        | .map n => if n ∈ mirrored s then none else some n
        | _ => none
      finishLoads (addLoad ⟨.mirror nums (BitVec.ofNat 48 new), bankGranules s.mmu.active s.mmu.shadow⟩
        (completeWaits (fun w => match w with
          | .window n => some n
          | _ => none) stOk 0 s1))

/-- The command of a BIND or UNBIND whose view has swapped in completes (R610). [DEDUCED: log 56] -/
def viewDone (new : Nat) (w : Waits) (s : State) : State :=
  match w with
  | .view n a true =>
    complete n stOk 0 (BitVec.ofNat 64 new) (dropWait (fun x => x == w)
      (setCohort a { cohortOf s a with st := 1, bindTick := BitVec.ofNat 48 new } s))
  | .view n a false => complete n stOk 0 0 (dropWait (fun x => x == w) (setCohort a {} s))
  | _ => s

/-- Cohort views swap (R290, R610). What the strands have delivered before keeps the selectors of the old view (R293, R358).
[DEDUCED: log 87] -/
def swapViews (ending new : Nat) (s : State) : State :=
  match s.nutas.viewDue with
  | none => s
  | some d =>
    if ending < d then s
    else
      let s1 := modLedger (fun l => { l with viewSwap := l.viewSwap + 1 })
        (modNutas (fun n => { n with view := n.viewShadow, viewShadow := n.view, viewDue := none }) (eachBead feedAll s))
      s1.nutas.waits.foldl (fun t w => viewDone new w t) s1

/-- Steps 3 to 5 of R25, where the check passed and the ending tick was no hold tick. [DEDUCED: log 65] -/
def swapsAndChecks (o : Opens) (ending new : Nat) (s : State) : State :=
  let s1 := match stepDue s o ending with
    | some k => swapSetting (markImages k ending s)
    | none => s
  let s2 := programsDone new (swapImages ending s1)
  let s3 := swapViews ending new (swapStores ending new s2)
  let s4 := if o = .step then claspChecks false s3 else if o = .enter then claspChecks true s3 else s3
  if s4.commit.armed && decide (s4.commit.due ≤ ending) then hubRaise 138 (countEv blkLocket 0x09 1 (flip s4)) else s4

/-! ### The plan -/

/-- Schedule entry `k` of the plan becomes its step (R612). [DEDUCED: log 61] -/
def planStep (k : Nat) (s : State) : State :=
  match bundleOf s s.nutas.plan.slot with
  | none => modPlan (fun p => { p with step := k }) s
  | some b =>
    let v := planEntry s b k
    modPlan (fun p => { p with
      step := k
      setting := schedSetting v
      sched := (p.first + k) % max 1 b.ntick
      pass := BitVec.ofNat 2 (schedPass v)
      mbatch := BitVec.ofNat 32 (schedBatch v) }) (schedLook b (s.nutas.plan.first + k) s)

/-- The load of the next setting begins after a swap (R613, R728). -/
def planNext (s : State) : State :=
  match bundleOf s s.nutas.plan.slot with
  | none => s
  | some b =>
    let p := s.nutas.plan
    if s.clock.leaving || p.next != some p.step then s
    else
      match nextChange s b p.step with
      | some k => beginStepLoad b k s
      | none => modPlan (fun q => { q with next := none }) s

/-- The work of the ending tick has retired: a step of the plan is complete (R613, R693). -/
def stepPassed (s : State) : State := modPlan (fun p => { p with done := p.done + 1 }) s

/-- How the RUN of a plan that leaves scheduled mode ends (R615). [DEDUCED: log 60] -/
def runStatus (s : State) : Nat :=
  if s.clock.leaving && s.clock.endFault then stEndedFault else if s.clock.leaving then stStopped else stOk

/-- Scheduled service has ended by a fault: its record (R31, R684, R710). [DEDUCED: log 11] -/
def recordEnd (s : State) : State :=
  if s.clock.leaving && s.clock.endFault then
    hubRaise 134 (recordAt 0x07 blkLocket s.clock.endClass.toNat (modLedger (fun l => { l with ends := satInc l.ends }) s))
  else s

/-- The module returns to arbitrated mode (R31, R613, R615, R616). [DEDUCED: log 60] -/
def leaveScheduled (s : State) : State :=
  let p := s.nutas.plan
  let s1 := complete p.num (runStatus s) (BitVec.ofNat 64 p.done) (p.step0.setWidth 64) (clearPlan s)
  let s2 := modClock (fun c => { c with
    mode := .arbitrated, hold := false, replay := false, leaving := false, endFault := false, endClass := 0
    forceSubst := false }) s1
  completeWaits (fun w => match w with
    | .stop n => some n
    | _ => none) stOk 0 s2

/-- A wait of a SUBST. -/
def isSubst (w : Waits) : Bool := match w with
  | .subst _ _ => true
  | _ => false

/-- Mode, hold and plan of the tick that opens. -/
def enterTick (o : Opens) (new : BitVec 48) (s : State) : State :=
  match o with
  | .step => modClock (fun c => { c with replay := false, workTick := new }) (planStep (s.nutas.plan.step + 1) s)
  | .enter =>
    modClock (fun c => { c with
      mode := .scheduled, quiet := false, workTick := new
      -- a SUBST that waits since before the plan forces an overrun now that it runs (R714)
      forceSubst := s.nutas.waits.any isSubst })
      (planStep 0 (modPlan (fun p => { p with phase := .running, step0 := new, done := 0 }) s))
  | .hold => modClock (fun c => { c with hold := true, replay := false, workTick := new }) s
  | .replay => modLedger (fun l => { l with replays := satInc l.replays })
      (modClock (fun c => { c with hold := false, replay := true, workTick := c.overrunTick }) s)
  | .leave => modClock (fun c => { c with workTick := new }) (leaveScheduled s)
  | .quiet => modClock (fun c => { c with quiet := true, workTick := new }) s
  | .idle => modClock (fun c => { c with workTick := new }) s

/-- Responses that have waited in the chain ports through a hold tick go into the fabric in the tick after it (R486). -/
def openPorts (s : State) : State := if s.clock.hold then s else releaseResps s

/-! ### Step 6: the ledger -/

/-- The work of the ending tick retires at its close, with the overrun and the hold that came before a replay (R693, R702).
[DEDUCED: log 66] -/
def retireWork (ending : BitVec 48) (s : State) : State :=
  modLedger (fun l => { l with
    cur := { l.cur with retired := true }
    recs := if s.clock.replay
      then l.recs.map fun r => if s.clock.workTick ≤ r.tick then { r with retired := true } else r
      else l.recs
    retired := ending }) s

/-- The tick from which a record's retention counts (R702): the tick after its own, or after the replay that retired it, or
after the end of the service that left it unretired; none while it is kept in any case. [DEDUCED: log 66] -/
def keptFrom (l : List LedgerRec) (r : LedgerRec) : Option Nat :=
  if r.retired then
    if r.kind = 1 ∨ r.overrun ∨ r.peerHold then
      (l.find? fun x => x.kind == 2 && decide (r.tick ≤ x.tick)).map fun x => x.tick.toNat + 1
    else some (r.tick.toNat + 1)
  else (l.find? fun x => x.ended && decide (r.tick ≤ x.tick)).map fun x => x.tick.toNat + 1

/-- The records still kept when a tick opens. -/
def keptRecs (l : List LedgerRec) (depth new : Nat) : List LedgerRec :=
  l.filter fun r => match keptFrom l r with
    | some t => decide (new < t + depth)
    | none => true

/-- The kind of a ledger record (R701). -/
def ledgerKind (o : Opens) : BitVec 2 :=
  match o with
  | .step | .enter => 0
  | .hold => 1
  | .replay => 2
  | .leave | .quiet | .idle => 3

/-- The ck-0 fields of a record (R701, R702). [DEDUCED: log 11] -/
def openedRec (o : Opens) (new : BitVec 48) (fseq : Word32) (s : State) : LedgerRec :=
  let p := s.nutas.plan
  let run := ledgerKind o != 3
  let z : LedgerRec := { tick := new, kind := ledgerKind o }
  let z1 : LedgerRec := if run then { z with
    pslot := BitVec.ofNat 2 p.slot
    pass := p.pass
    workTick := if o = .hold then 0 else s.clock.workTick
    iswap := s.ledger.iswap
    step := BitVec.ofNat 32 p.step
    sched := BitVec.ofNat 20 p.sched
    mbatch := p.mbatch
    setting := BitVec.ofNat 12 p.setting } else z
  { z1 with
    settingId := if s.clock.mode = .scheduled then s.fabric.activeId else 0
    tsSwap := s.ledger.tsSwap
    viewSwap := s.ledger.viewSwap
    flips := s.commit.flips
    fseq := fseq
    split := s.mem.splitNow }

/-- The ending tick's record closes and the next opens (R25, R702, R704). The fault records of the boundary itself carry the
new tick and are counted in its record. [DEDUCED: log 11, 65] -/
def turnLedger (o : Opens) (new : BitVec 48) (fseq : Word32) (fcount : BitVec 16) (s : State) : State :=
  let closed : LedgerRec := { s.ledger.cur with fcount := fcount, ended := o == .leave }
  let opened : LedgerRec := { openedRec o new fseq s with fcount := s.ledger.cur.fcount }
  let recs := s.ledger.recs ++ [closed]
  let s1 := traceItem (.ledger closed) (modLedger (fun l => { l with
    recs := keptRecs recs l.depth.toNat new.toNat, cur := opened }) s)
  if s1.ledger.depth.toNat < countIf (fun r => !r.retired) s1.ledger.recs + 1 then endService 0 s1 else s1

/-! ### Beads -/

/-- Every hart in WFI wakes (R71). -/
def wakeBeads (s : State) : State :=
  { s with beads := s.beads.map fun p => (p.1, { p.2 with harts := p.2.harts.map fun h =>
      (h.1, if h.2.run = .wfi then { h.2 with run := .running } else h.2) }) }

/-- The drain rounding generators are seeded again (R25, R237, R238). [DEDUCED: log 6] -/
def reseed (s : State) : State :=
  { s with beads := s.beads.map fun p => (p.1, { p.2 with drains := p.2.drains.map fun d => (d.1, { d.2 with lfsr := none }) }) }

/-- What the beads and the holders do as the tick opens (R71, R72, R73, R380, R456, R720). -/
def openBeads (o : Opens) (wasReplay : Bool) (s : State) : State :=
  match o with
  | .step | .enter => takeSnaps (wakeBeads s)
  | .hold => beginSubsts (!wasReplay) (holdAll s)
  | .replay => beginReplay s
  | .leave | .quiet | .idle => beginSubsts true (wakeBeads s)

/-! ### Other boundary actions -/

/-- LEDGER_CTL is in force from the boundary, where it completes (R617). [DEDUCED: log 53] -/
def takeDepth (s : State) : State :=
  match s.ledger.newDepth with
  | none => s
  | some (d, r) => completeWaits (fun w => match w with
      | .config n false => some n
      | _ => none) stOk 0 (modLedger (fun l => { l with depth := d, replay := r, newDepth := none }) s)

/-- A counter configuration takes effect, where CNT_CONFIG completes, and captures are taken (R669, R670, R675).
[DESIGN CHOICE: log 19; DEDUCED: log 53, 62] -/
def takeCounters (new : BitVec 48) (s : State) : State :=
  captures new (completeWaits (fun w => match w with
      | .config n true => some n
      | _ => none) stOk (new.setWidth 64) (configTake new s))

/-- Ownership passes or returns (R635, R637). [DEDUCED: log 73] -/
def ownership (s : State) : State :=
  let b := s.standby
  let left := b.graceLeft - 1
  let pass := b.granted || left == 0
  let third := b.force && !linkUp s
  let s1 :=
    if !b.pending then s
    else if pass || third then
      answerTake thOk (modStandby (fun b => { b with
        owner := true, pending := false, forced := !pass, granted := false, force := false, graceLeft := 0 }) s)
    else modStandby (fun b => { b with graceLeft := left }) s
  if s1.standby.release && s1.standby.owner then
    recordReturned (modStandby (fun b => { b with owner := false, release := false }) s1)
  else modStandby (fun b => { b with release := false }) s1

/-- Started commands other than RUN and one given (R619). -/
def othersStarted (s : State) (k : Nat) : Bool :=
  s.nutas.cmds.any fun c => c.started && c.num != k && entryByte c.entry 0 != 0x50

/-- The image slot that does not run. -/
def emptyOther (b : Standby) : Standby := if b.slot then { b with imgA := [] } else { b with imgB := [] }

/-- A handover tick that closes without a ready image: the old image runs again (R719). The record's class the spec does not
state. [DESIGN CHOICE: log 19; DEDUCED: log 74] -/
def handoverFails (k : Nat) (s : State) : State :=
  let s1 := recordFault { cls := (freeNow s 719).setWidth 8, source := BitVec.ofNat 12 blkLocket } s
  complete k stNoStaged 0 0 (modStandby emptyOther (modNutas (fun n => { n with handover := .none, stagedBy := none }) (drawn s1)))

/-- A pending FW_ACTIVATE at a boundary (R619, R716, R719). -/
def handoverTurn (new : Nat) (s : State) : State :=
  match s.nutas.handover with
  | .none => s
  | .inTick k => handoverFails k s
  | .failed k => handoverFails k s
  | .waiting k none => if othersStarted s k then s else modNutas (fun n => { n with handover := .waiting k (some new) }) s
  | .waiting _ (some _) => s

/-- Ticks left in the phase of each bezel that retrains (R735). -/
def retrainTurn (s : State) : State :=
  { s with bezels := s.bezels.map fun p => (p.1, { p.2 with retrainLeft := if p.2.retrainLeft = 0 then 0 else p.2.retrainLeft - 1 }) }

/-! ### The power controller -/

/-- PTICK and its history, with the sum of the last 1,024 (R780). [DEDUCED: log 78] -/
def powerHist (watts : Nat) (p : PowerCtl) : List Nat := (min 4095 watts :: p.hist).take 1024

/-- HOT (R781). -/
def hotNow (tj : Nat) (p : PowerCtl) : Bool :=
  if p.tjThrottle.toNat ≤ tj then true else if tj + 5 < p.tjThrottle.toNat then false else p.hot

/-- DUTY at a boundary of a mode without a plan (R782), before the limit on its steps. [DEDUCED: log 78] -/
def dutyWish (hotB : Bool) (sum n tj : Nat) (p : PowerCtl) : Nat :=
  if hotB then (if p.duty.toNat ≤ 4 then 2 else p.duty.toNat - 2)
  else if 10 * sum ≤ 9 * p.limitNow * n ∧ tj + 5 < p.tjThrottle.toNat then min 8 (p.duty.toNat + 2)
  else p.duty.toNat

/-- DUTY and the ticks since it changed (R782, R783). [DEDUCED: log 78] -/
def dutyNext (sched hotB : Bool) (sum n tj : Nat) (p : PowerCtl) : Nat × Nat :=
  let age := min 64 (p.dutyAge + 1)
  let d := p.duty.toNat
  let w := if sched then 8 else if p.auto && age == 64 then dutyWish hotB sum n tj p else d
  (w, if w = d then age else 0)

/-- The power controller at the boundary that opens a tick (R780 to R784, R786). [DEDUCED: log 78] -/
def measure (watts celsius : Nat) (vin : BitVec 10) (s : State) : State :=
  let p : PowerCtl := { s.power with limitNow := s.power.limit.toNat, graceNow := max 1 s.power.grace.toNat }
  let h := powerHist watts p
  let sum := h.sum
  let n := h.length
  let ovr := decide (p.limitNow * n < sum)
  let hot := hotNow celsius p
  let hotB := ovr || hot
  let sched := s.clock.mode == .scheduled
  let d := dutyNext sched hotB sum n celsius p
  let run := if (sched || s.clock.quiet) && hotB then p.hotRun + 1 else 0
  let s1 : State := { s with power := { p with
    pavg := BitVec.ofNat 12 (sum / max 1 n)
    ptick := BitVec.ofNat 12 (min 4095 watts)
    tjmax := BitVec.ofNat 8 (min 255 celsius)
    duty := BitVec.ofNat 4 d.1
    dutyAge := d.2
    overLim := ovr
    hot := hot
    vin := vin
    hotCnt := if hotB then satInc p.hotCnt else p.hotCnt
    hist := h
    hotRun := run
    tjRun := if 110 ≤ celsius then p.tjRun + 1 else 0
    ptRun := if 4000 < watts then p.ptRun + 1 else 0 } }
  if sched && decide (p.graceNow ≤ run) then endService 0 s1 else s1

/-- The power controller acts, and trips where it must (R785). [DEDUCED: log 78] -/
def powerTurn (watts celsius : Nat) (vin : BitVec 10) (s : State) : State :=
  let s1 := measure watts celsius vin s
  if 16 ≤ s1.power.tjRun ∨ 16 ≤ s1.power.ptRun then trip s1 else s1

/-! ### The boundary -/

/-- The locket counts the tick that ends (R665). -/
def countTick (s : State) : State :=
  let s1 := countEv blkLocket 0x02 1 s
  let s2 := if s.clock.hold then countEv blkLocket 0x03 1 s1 else s1
  if s.clock.replay then countEv blkLocket 0x04 1 s2 else s2

/-- The end of the ending tick: its last ck, the configuration of the ledger, the substitutions that ran in it, and board
alignment, which gives the number of the next tick (R21, R23, R492). [DEDUCED: log 64, 65] -/
def closeTick (spareFail : List RouterN) (s : State) : State × Nat :=
  let s1 := countTick (endCk s)
  let a := alignTick (countLost s1)
  let new := max (s.clock.tick.toNat + 1) a.2
  (endSubsts spareFail (BitVec.ofNat 48 new) (inTick (BitVec.ofNat 48 new) takeDepth a.1), new)

/-- Step 1 with its consequences, on the ending tick (R25, R34, R37, R494 to R496). [DEDUCED: log 65] -/
def decide1 (own : Bool × Nat × Nat) (peer : Bool) (s : State) : State :=
  let ovr := own.1 || peer
  let s1 := noReplay ovr (recordCheck own peer s)
  if ovr && !s.clock.hold && !s.clock.replay then modClock (fun c => { c with overrunTick := c.workTick }) s1 else s1

/-- What retires and what ends with the tick that closes, before its number changes. -/
def endingTick (o : Opens) (s : State) : State :=
  let passed := match o with
    | .step | .leave => !s.clock.hold
    | .hold | .replay => false
    | .enter | .quiet | .idle => true
  let s1 := if passed then retireWork s.clock.tick s else s
  let s2 := if passed && s.clock.mode == .scheduled then stepPassed s1 else s1
  if o = .leave then recordEnd s2 else s2

/-- The boundary from the decision on (R25, steps 2 to 7). [DEDUCED: log 65] -/
def turn (o : Opens) (ending new : Nat) (s : State) : State :=
  let fcount := s.ledger.cur.fcount
  let fseq := s.faults.nextSeq + BitVec.ofNat 32 s.faults.waiting.length
  let was := s.clock
  let swaps := !was.hold && o != .hold
  let n48 := BitVec.ofNat 48 new
  let s1 := countWaits (timingClear (modLedger (fun l => { l with cur := { l.cur with fcount := 0 } })
    (modClock (fun c => { c with tick := n48, ck := 0 }) s)))
  let s2 := if swaps then swapsAndChecks o ending new s1 else s1
  let s3 := openPorts (enterTick o n48 s2)
  let s4 := turnLedger o n48 fseq fcount s3
  let s5 := openBeads o was.replay (reseed s4)
  let s6 := if o = .step ∨ o = .enter then planNext s5 else s5
  takeCounters n48 s6

/-- The fabric begins to run in arbitrated mode (R752). -/
def fabricOpens (s : State) : State :=
  if s.clock.mode = .quiescent ∧ s.clock.fabricOk then modClock (fun c => { c with mode := .arbitrated, fabricOk := false }) s else s

/-- A new SPLIT takes effect at the first boundary at which it is due (R318). -/
def splitTurn (s : State) : State := if splitDue s then splitTake s else s

/-- Everything that happens at a boundary. -/
def boundary (watts celsius : Nat) (vin : BitVec 10) (spareFail : List RouterN) (s : State) : State :=
  let own := ownCheck s
  let peer := peerCheck s
  let ovr := own.1 || peer
  let ending := s.clock.tick.toNat
  let c := closeTick spareFail s
  let new := c.2
  let s1 := planDrop new (decide1 own peer c.1)
  let o := opens s1 ovr new
  let s2 := turn o ending new (endingTick o s1)
  let s3 := splitTurn (ownership (handoverTurn new (retrainTurn (fabricOpens s2))))
  powerTurn watts celsius vin (modNutas (fun n => { n with loadedNow := 0 }) s3)

/-- TICK_BOUNDARY (R25). -/
def execTickBoundary (watts celsius : Nat) (vin : BitVec 10) (spareFail : List RouterN) (s : State) :
    Host.Outcome State Fault Refusal :=
  whenOk s (mainUp s && s.clock.ck == 16383) (boundary watts celsius vin spareFail s)

end Sys2Proof.Machine
end

