-- ==== Sys2Proof/Machine/Approx.lean ====
section
/-! DEFINITION. The functions that the drain approximates, in fixed point of 512 fraction bits, and the FP32 results that
their error bounds allow (chapter 7). -/

namespace Sys2Proof.Machine

/-- One, in units of 2^-512. -/
def fxOne : Int := 2 ^ 512

/-- An exact number in units of 2^-512. -/
def fxOf (a : Dy) : Int := if 0 ≤ a.e + 512 then a.m * 2 ^ (a.e + 512).toNat else a.m / 2 ^ (-(a.e + 512)).toNat

/-- A finite FP32 value in units of 2^-512. -/
def fx32 (v : Word32) : Int := fxOf (dyOf (val32 v))

/-- Product and quotient. -/
def fxMul (a b : Int) : Int := a * b / fxOne
def fxDiv (a b : Int) : Int := a * fxOne / b

/-- The arc tangent of 1/q, by its series. -/
def fxAtanInv (q : Nat) : Int :=
  ((List.range 120).map fun k => (if k % 2 = 0 then fxOne else -fxOne) / ((2 * k + 1) * q ^ (2 * k + 1) : Nat)).sum

/-- The circle constant, by Machin's formula. -/
def fxPi : Int := 16 * fxAtanInv 5 - 4 * fxAtanInv 239

/-- The natural logarithm of (1 + z) / (1 - z) for |z| at most 1/3, by its series. -/
def fxLogRatio (z : Int) : Int :=
  2 * ((List.range 170).foldl (fun (p : Int × Int) k => (fxMul p.1 (fxMul z z), p.2 + p.1 / (2 * k + 1 : Nat))) (z, 0)).2

/-- The natural logarithm of 2. -/
def fxLn2 : Int := fxLogRatio (fxOne / 3)

/-- The exponential; above 4,096 a number past every FP32 value. -/
def fxExp (x : Int) : Int :=
  if x < -4096 * fxOne then 0
  else if 4096 * fxOne < x then fxOne * 2 ^ 200
  else
    let k := x / fxLn2
    let r := x - k * fxLn2
    let y := (List.range 110).foldl (fun a i => fxOne + fxMul r a / ((110 - i : Nat) : Int)) fxOne
    if 0 ≤ k then y * 2 ^ k.toNat else y / 2 ^ (-k).toNat

/-- The natural logarithm of a positive number. -/
def fxLog (y : Int) : Int :=
  let k : Int := Nat.log2 y.toNat - 512
  let m := if 0 ≤ k then y / 2 ^ k.toNat else y * 2 ^ (-k).toNat
  k * fxLn2 + fxLogRatio (fxDiv (m - fxOne) (m + fxOne))

/-- The square root of a positive number. -/
def fxSqrt (y : Int) : Int := isqrtBits 700 (y.toNat * 2 ^ 512) 0

/-- The magnitude. -/
def fxAbs (x : Int) : Int := x.natAbs

/-- The logistic function and its derivative. -/
def fxSigma (x : Int) : Int :=
  let t := fxExp (-(fxAbs x))
  fxDiv (if x < 0 then t else fxOne) (fxOne + t)
def fxSigma' (x : Int) : Int :=
  let t := fxExp (-(fxAbs x))
  fxDiv (fxDiv t (fxOne + t)) (fxOne + t)

/-- The hyperbolic tangent. -/
def fxTanh (x : Int) : Int :=
  let t := fxExp (-(2 * fxAbs x))
  let y := fxDiv (fxOne - t) (fxOne + t)
  if x < 0 then -y else y

/-- The standard normal density and distribution; beyond 15 the tails vanish beside every error bound. -/
def fxDensity (x : Int) : Int := fxDiv (fxExp (-(fxMul x x) / 2)) (fxSqrt (2 * fxPi))
def fxNormal (x : Int) : Int :=
  if x < -15 * fxOne then 0
  else if 15 * fxOne < x then fxOne
  else
    let q := fxMul x x
    let p := (List.range 600).foldl (fun (p : Int × Int) k => (fxMul p.1 q / ((2 * k + 3 : Nat) : Int), p.2 + p.1)) (x, 0)
    fxOne / 2 + fxMul (fxDensity x) p.2

/-- Sine and cosine of an angle, taken modulo a full turn. -/
def fxSinCos (x : Int) : Int × Int :=
  let t := x % (2 * fxPi)
  let p := (List.range 180).foldl (fun (p : Int × Int × Int) n =>
    (fxMul p.1 t / ((n + 1 : Nat) : Int),
     p.2.1 + (if n % 4 = 1 then p.1 else if n % 4 = 3 then -p.1 else 0),
     p.2.2 + (if n % 4 = 0 then p.1 else if n % 4 = 2 then -p.1 else 0))) (fxOne, 0, 0)
  (p.2.1, p.2.2)

/-- The argument of the tanh form of GELU, doubled, and its derivative (R256). -/
def geluArg (x : Int) : Int :=
  fxMul (2 * fxSqrt (fxDiv (2 * fxOne) fxPi)) (x + fxMul (fxMul x x) x * 44715 / 1000000)
def geluArg' (x : Int) : Int :=
  fxMul (2 * fxSqrt (fxDiv (2 * fxOne) fxPi)) (fxOne + 3 * (fxMul x x * 44715 / 1000000))

/-- The functions of R256 at a finite input. -/
def exactFn (fn : Nat) (x : Int) : Int :=
  match fn with
  | 2 => fxMul x (fxSigma (geluArg x))
  | 3 => fxMul x (fxNormal x)
  | 4 => fxMul x (fxSigma x)
  | 5 => fxTanh x
  | 6 => fxSigma x
  | 7 => fxExp x
  | 8 => fxDiv fxOne x
  | 9 => fxDiv fxOne (fxSqrt x)
  | _ => x

/-- The derivatives of R256 at a finite input. -/
def exactDeriv (fn : Nat) (x : Int) : Int :=
  match fn with
  | 2 => fxSigma (geluArg x) + fxMul (fxMul x (fxSigma' (geluArg x))) (geluArg' x)
  | 3 => fxNormal x + fxMul x (fxDensity x)
  | 4 => fxMul (fxSigma x) (fxOne + fxMul x (fxOne - fxSigma x))
  | 5 => 4 * fxSigma' (2 * x)
  | 6 => fxSigma' x
  | 7 => fxExp x
  | _ => x

/-- A unit in the last place of FP32 at a number. -/
def fxUlp (x : Int) : Int := max (2 ^ 363) (2 ^ (Nat.log2 x.natAbs) / 2 ^ 23)

/-- An FP32 pattern lies within `n` units in the last place, or `tol`, of a number; the margin covers the fixed point. -/
def fxNear (n : Nat) (tol x : Int) (v : Word32) : Bool :=
  let bound := max (n * fxUlp x) tol + fxUlp x / 2 ^ 20
  match val32 v with
  | .nan => false
  | .inf neg => decide (2 ^ 128 * fxOne - bound ≤ (if neg then -x else x))
  | .fin .. => decide (fxAbs (fx32 v - x) ≤ bound)

/-- A result that an error bound leaves open: any FP32 value within the bound (R256). [DESIGN CHOICE: log 24] -/
def openFp (n : Nat) (tol x : Int) (v : Word32) : Word32 := if fxNear n tol x v then v else w32 (dyRound fp32 .rne ⟨x, -512⟩)

/-- The absolute bound of 2^-126 and that of an angle's reduction (R254, R256). -/
def tolMin : Int := 2 ^ 386
def tolAngle : Int := 2 ^ 472

/-- The error bound of a function in units in the last place, with its absolute bound (R256). -/
def fnBound (fn : Nat) : Nat × Int :=
  match fn with
  | 2 | 3 => (4, tolMin)
  | 4 => (3, tolMin)
  | 8 | 9 => (1, 0)
  | _ => (2, 0)

/-- A function of R256 at a finite input, open within its bound. -/
def openFn (fn : Nat) (x : Word32) : Word32 := openFp (fnBound fn).1 (fnBound fn).2 (exactFn fn (fx32 x)) (Config.drainFn fn x)

/-- A derivative of R256 at a finite input, open within its bound. -/
def openDeriv (fn : Nat) (p : Word32) : Word32 :=
  openFp (fnBound fn).1 (fnBound fn).2 (exactDeriv fn (fx32 p)) (Config.drainFn (0x20 + fn) p)

end Sys2Proof.Machine
end

