-- ==== Sys2Proof/Machine/DrainUnit.lean ====
section
/-! DEFINITION. The drain units: parameter block, stages, statistics files, destinations (chapter 7). -/

namespace Sys2Proof.Machine

/-- The fields of a drain instruction that its kinds share (R117). -/
structure DrainUse where
  fn : Nat
  /-- 0 DR.ACT, 1 DR.DACT, 2 DR.STAT. -/
  kind : Nat
  mem : Bool
  stoch : Bool
  td : Nat
  unit : Nat
  ac : Nat
  keep : Bool
  pair : Bool
  psrc : Bool
  rst : Bool
  nowr : Bool
  deriving DecidableEq, Repr

/-- A drain entry's fields; none for another entry. -/
def drainUse (e : QEntry) : Option DrainUse :=
  match e.insn with
  | .drAct fn mem stoch rs2 _ arrB ac keep pair =>
    some ⟨fn.val, 0, mem, stoch, rs2.val % 16, b2n arrB, ac.val, keep, pair, false, false, false⟩
  | .drDact fn mem stoch rs2 _ arrB ac keep psrc =>
    some ⟨fn.val, 1, mem, stoch, rs2.val % 16, b2n arrB, ac.val, keep, false, psrc, false, false⟩
  | .drStat mem stoch rs2 _ arrB rst nowr =>
    some ⟨0, 2, mem, stoch, rs2.val % 16, b2n arrB, 0, true, false, false, rst, nowr⟩
  | _ => none

/-- Word `i` of an entry's parameter block, as prepared (R250). -/
def pWord (e : QEntry) (i : Nat) : Word32 := tblGet 0 e.params i

/-- The header's fields, from its words (R249). An entry with H2V = 0, and DR.STAT, has a control word of 0. -/
structure Header where
  c : Nat
  colpos : Nat
  klen : Nat
  klenv : Bool
  eps : Word32
  bad : Bool
  deriving DecidableEq, Repr

/-- The header that eight words spell. -/
def headerWords (w : Nat → Word32) : Header :=
  { c := (w 0).toNat, colpos := bitsOf (w 1).toNat 0 22, klen := bitsOf (w 2).toNat 0 23, klenv := bitOf (w 2).toNat 23
    eps := w 3
    bad := decide (bitsOf (w 0).toNat 20 12 ≠ 0) || decide (bitsOf (w 1).toNat 22 10 ≠ 0) ||
      decide (bitsOf (w 2).toNat 24 8 ≠ 0) || decide (w 4 ≠ 0) || decide (w 5 ≠ 0) || decide (w 6 ≠ 0) || decide (w 7 ≠ 0) }

def hRsrc (h : Header) : Nat := bitsOf h.c 0 2
def hCsv (h : Header) : Bool := bitOf h.c 2
def hCbv (h : Header) : Bool := bitOf h.c 3
def hChv (h : Header) : Bool := bitOf h.c 4
def hRot (h : Header) : Bool := bitOf h.c 5
def hRotl (h : Header) : Bool := bitOf h.c 6
def hMask (h : Header) : Bool := bitOf h.c 7
/-- STAT: 0 none, 1 SOFTMAX, 2 LNORM, 3 RMSNORM. -/
def hStat (h : Header) : Nat := bitsOf h.c 8 2
def hStatsrc (h : Header) : Nat := bitsOf h.c 10 1
def hDstacc (h : Header) : Bool := bitOf h.c 11
def hPost (h : Header) : Bool := bitOf h.c 12
/-- COLS; 0 means 64, and so do the values above 64, of which the rule says nothing (R249). [DEDUCED: log 34] -/
def hCols (h : Header) : Nat := if bitsOf h.c 13 7 = 0 then 64 else min 64 (bitsOf h.c 13 7)

/-- Whether an entry reads a parameter block: DR.ACT or DR.DACT with PSRC = 1, and H2V = 1 (R248, R259). The handle of a
DR.DACT with PSRC = 0 is captured and tested no further: R259 says only that its block is not read.
[DEDUCED: log 34] -/
def hasBlock (e : QEntry) (u : DrainUse) : Bool := (u.kind == 0 || (u.kind == 1 && u.psrc)) && owH2v e.v1

/-- Word `i` of the block as it stands in the bead's data memory. -/
def blockWord (s : State) (o : Nat) (e : QEntry) (i : Nat) : Word32 :=
  let off := dBase e.d2 - ownBase o + 4 * i
  BitVec.ofNat 32 (bitsOf (goodData (dmemGet s o (off / 32))).toNat (8 * (off % 32)) 32)

/-- The header of an entry as it stands in memory. -/
def headerNow (s : State) (o : Nat) (e : QEntry) (u : DrainUse) : Header :=
  headerWords fun i => if hasBlock e u then blockWord s o e i else 0
/-- The header as the entry has prepared it. -/
def headerOfEntry (e : QEntry) : Header := headerWords (pWord e)

/-- The sections that a header enables: first word and words (R250). -/
def sections (h : Header) : List (Nat × Nat) :=
  [(0, 8)] ++ (if hRsrc h = 1 then [(8, 64), (72, 64)] else []) ++ (if hCsv h then [(136, 64)] else []) ++
  (if hChv h then [(200, 64)] else []) ++ (if hCbv h then [(264, 64)] else []) ++
  (if hRot h || hMask h then [(328, 64)] else []) ++ (if hRot h then [(392, 32)] else [])

/-- FN is assigned for an instruction (R256). -/
def fnAssigned (u : DrainUse) : Bool :=
  match u.kind with
  | 0 => decide (u.fn ≤ 10)
  | 1 => decide (1 ≤ u.fn) && decide (u.fn ≤ 7)
  | _ => true

/-- The statistics file of a drain unit. -/
def fileOf (b : Bead) (k : Nat) : StatFile := (drainOf b k).file

/-- The mode that STAT asks for. -/
def statMode (st : Nat) : StatMode :=
  match st with
  | 0 => .idle
  | 1 => .softmax
  | 2 => .lnorm
  | _ => .rmsnorm

/-- The file that an entry updates. -/
def fileUpdated (h : Header) (u : DrainUse) : Option Nat :=
  match u.kind with
  | 0 => if hStat h = 0 then none else some u.unit
  | 1 => none
  | _ => if u.rst || u.nowr then some u.unit else none

/-- The files that an entry reads (R265). -/
def filesRead (h : Header) (u : DrainUse) : List Nat :=
  if u.kind = 2 then [u.unit]
  else if 2 ≤ hRsrc h ∨ hDstacc h ∨ hPost h then [hStatsrc h] else []

/-- The combinations that R272, R261 and R277 refuse, with FORMAT. -/
def comboBad (b : Bead) (e : QEntry) (u : DrainUse) (h : Header) : Bool :=
  let src := (fileOf b (hStatsrc h)).mode
  let norm := src == .lnorm || src == .rmsnorm
  let own := (fileOf b u.unit).mode
  h.bad ||
  (u.kind == 0 && ((u.fn == 10) != (hStat h == 1))) ||
  (u.kind == 0 && decide (2 ≤ hStat h) && hMask h) ||
  (hRsrc h == 2 && !norm) || (hRsrc h == 3 && src != .softmax) || ((hDstacc h || hPost h) && src != .softmax) ||
  (u.kind == 0 && hStat h != 0 && (filesRead h u).contains u.unit) ||
  (u.kind == 0 && hStat h != 0 && own != .idle && own != statMode (hStat h)) ||
  (hDstacc h && (!u.mem || dEtype e.d1 != 3)) ||
  (u.kind == 1 && (hStat h != 0 || hRot h || hMask h || hDstacc h || hPost h)) ||
  (!u.mem && !u.nowr && (tcFmt e.tcfg == 3 || (tcSplit e.tcfg && u.td % 2 == 1))) ||
  (u.kind == 1 && !u.psrc && (tcFmt e.tcfg == 3 || (tcSplit e.tcfg && owSrcId e.v1 % 2 == 1)))

/-- PAIR's own conditions (R122, R277): FORMAT. -/
def pairBad (b : Bead) (e : QEntry) (u : DrainUse) : Bool :=
  u.pair && (!(accOf b (accKey (u.unit == 1) u.ac)).split || !u.mem || dEtype e.d1 != 3 || dRank e.d1 != 5 || dDim e.d1 4 != 2)

/-- The plane i4 of a tile index. -/
def tilePlane (d : BitVec 512) (t : Nat) : Nat := t / (gridCols d * gridRows d * dDim d 2 * dDim d 3)
/-- The tile at the same place in plane i4 = 1. -/
def tileNextPlane (d : BitVec 512) (t : Nat) : Nat := t + gridCols d * gridRows d * dDim d 2 * dDim d 3

/-- The parameter descriptor cannot be used (R156, R247, R809). -/
def blockBad (s : State) (o : Nat) (e : QEntry) (u : DrainUse) : Bool :=
  hasBlock e u && ((descFault s e.d2 false).isSome || dEtype e.d2 != 3 || !inOwnDmem o (dBase e.d2))

/-- The tile rows of a destination in memory: first granules and counts. -/
def destRows (d : BitVec 512) (t : Nat) : List (Nat × Nat) := (List.range 64).map (rowGrans d t)

/-- A memory destination lies in the bead's own data memory. -/
def destOwn (o : Nat) (d : BitVec 512) (t : Nat) : Bool :=
  (destRows d t).all fun g => (List.range g.2).all fun i => inOwnDmem o (g.1 + 32 * i)

/-- A drain's checks at its start, orders 1 to 6 of R809, with R98 in its place. -/
def drainFault (s : State) (o : Nat) (e : QEntry) (u : DrainUse) : Option Nat :=
  let b := beadOf s o
  let h := headerOfEntry e
  let t := owTile e.v2
  let needs := u.fn == 10
  let mem := u.mem && !u.nowr
  if !fnAssigned u || (u.pair && (u.fn != 0 || owH2v e.v1)) then some fcFormat
  else
    match resourceFault b 2 e with
    | some c => some c
    | none =>
      if (mem && (descFault s e.d1 false).isSome) || blockBad s o e u || (needs && !owH2v e.v1) then some fcBadHandle
      else if mem && decide (gridTiles e.d1 ≤ t) then some fcShape
      else if pairBad b e u then some fcFormat
      else if u.pair && decide (tilePlane e.d1 t ≠ 0) then some fcShape
      else if comboBad b e u h then some fcFormat
      else if hDstacc h && !destOwn o e.d1 t then some fcBadHandle
      else if mem && (dRo e.d1 || dGenv e.d1) then some fcProtection
      else none

/-- An earlier drain entry holds this one back (R265, R266): it updates a file this one reads, or reads or updates one
that this one updates. -/
def filesWait (b : Bead) (e : QEntry) (u : DrainUse) : Bool :=
  let h := headerOfEntry e
  ((queueOf b 2).ents.takeWhile fun x => x.id != e.id || x.barrier != 0).any fun x =>
    match drainUse x with
    | none => false
    | some v =>
      let hx := headerOfEntry x
      x.barrier == 0 &&
      (((fileUpdated hx v).any fun f => (filesRead h u).contains f) ||
       ((fileUpdated h u).any fun f => (filesRead hx v).contains f || fileUpdated hx v == some f))

/-- The pages of a destination (R275): 4 KiB page numbers of device addresses outside own data memory. -/
def destPages (o : Nat) (d : BitVec 512) (ts : List Nat) : List Nat :=
  (ts.flatMap fun t => (destRows d t).flatMap fun g =>
    (List.range g.2).filterMap fun i => if inOwnDmem o (g.1 + 32 * i) then none else some ((g.1 + 32 * i) / 4096)).dedup

/-- The destination tiles of an entry, where its descriptor gives them. -/
def destTiles (s : State) (e : QEntry) (u : DrainUse) : List Nat :=
  if !u.mem || u.nowr || (descFault s e.d1 false).isSome || decide (gridTiles e.d1 ≤ owTile e.v2) then []
  else if u.pair then [owTile e.v2, tileNextPlane e.d1 (owTile e.v2)] else [owTile e.v2]

/-- An address checked for writing: through the micro-TLB, or by a walk of the tables in force; own data memory needs no
check (R275, R319). -/
def destXlat (s : State) (o dev : Nat) : Xlat :=
  if inOwnDmem o dev then .ok dev false
  else if inOwnWindow o dev then .prot
  else
    match tlbTranslate s o .write dev with
    | some x => x
    | none => translate s (facetOf o) .write dev

/-- The first granule of the destination tiles, in their order, that the check refuses: row, address, failure (R122,
R275). -/
def destRefused (s : State) (o : Nat) (d : BitVec 512) (ts : List Nat) : Option (Nat × Nat × Xlat) :=
  ts.findSome? fun t => (List.range 64).findSome? fun r =>
    let g := rowGrans d t r
    (List.range g.2).findSome? fun i =>
      match destXlat s o (g.1 + 32 * i) with
      | .ok _ _ => none
      | x => some (r, g.1 + 32 * i, x)

/-- A page's translation is used, or walked and kept (R327). -/
def pageKeep (o page : Nat) (s : State) : State :=
  if (tlbFind (beadOf s o) (4096 * page)).isSome then modBead o (tlbUse (4096 * page)) s
  else
    match walkDev s (facetOf o) (4096 * page) with
    | some t => countEv o 0x14 1 (modBead o (tlbAdd t) s)
    | none => countEv o 0x14 1 s

/-- The granules of the sections that are read, as data-memory granule numbers. -/
def sectionGrans (o : Nat) (e : QEntry) (h : Header) : List Nat :=
  ((sections h).flatMap fun p =>
    let a := dBase e.d2 - ownBase o + 4 * p.1
    (List.range ((a + 4 * p.2 - 1) / 32 - a / 32 + 1)).map fun i => a / 32 + i).dedup

/-- The row of SOFTMAX statistics with C[r] = +0: the destination element is not read (R270). -/
def skipsDest (b : Bead) (h : Header) (r : Nat) : Bool := (tblGet {} (fileOf b (hStatsrc h)).rows r).c == 0

/-- The first bad granule of a DSTACC destination that will be read (R270): row and address. -/
def destPoison (s : State) (o : Nat) (e : QEntry) (h : Header) : Option (Nat × Nat) :=
  (List.range 64).findSome? fun r =>
    if skipsDest (beadOf s o) h r then none
    else
      let g := rowGrans e.d1 (owTile e.v2) r
      (((List.range g.2).map fun i => g.1 + 32 * i).find? fun a => isBad (dmemGet s o ((a - ownBase o) / 32))).map
        fun a => (r, a)

/-- The drain unit's entry that prepares next: the first that waits unprepared, ahead of any marker, in a queue that is not
stopped (R278). -/
def toPrepare (b : Bead) (a : Nat) : Option (QEntry × DrainUse) :=
  if (queueOf b 2).stop then none
  else
    (((queueOf b 2).ents.takeWhile fun e => e.barrier == 0).find? fun e =>
      e.st == .waiting && !e.prepared && drainUnit e == some a).bind fun e => (drainUse e).map fun u => (e, u)

/-- An entry has a parameter block or a destination in memory to prepare. -/
def toCheck (e : QEntry) (u : DrainUse) : Bool := hasBlock e u || (u.mem && !u.nowr)

/-- The parameter block as preparation reads it (R250). -/
def readBlock (s : State) (o : Nat) (e : QEntry) (u : DrainUse) : Tbl Word32 :=
  if hasBlock e u then
    (sections (headerNow s o e u)).foldl (fun t p => upTo p.2 (fun t i => tblSet 0 t (p.1 + i) (blockWord s o e (p.1 + i))) t) []
  else []

/-- The first bad granule of the sections that are read. -/
def badSection (s : State) (o : Nat) (e : QEntry) (u : DrainUse) : Option Nat :=
  if hasBlock e u && !blockBad s o e u
  then (sectionGrans o e (headerNow s o e u)).find? fun g => isBad (dmemGet s o g) else none

/-- What preparation finds against an entry (R809, orders 7 and 8): code, row of the destination or granule of the block,
address (R144). -/
def prepFault (s : State) (o : Nat) (e : QEntry) (u : DrainUse) : Option (Nat × Nat × Nat) :=
  match destRefused s o e.d1 (destTiles s e u) with
  | some (r, a, x) => some (xlatCode x, r, a)
  | none => (badSection s o e u).map fun g => (fcPoison, g - (dBase e.d2 - ownBase o) / 32, ownBase o + 32 * g)

/-- Preparation (R275, R278): pages first, then the parameter block; what it finds ends the entry at its start.
[DEDUCED: log 34] -/
def prepare (o : Nat) (e : QEntry) (u : DrainUse) (s : State) : State :=
  let pages := destPages o e.d1 (destTiles s e u)
  let xs := pages.map fun p => (p, match destXlat s o (4096 * p) with | .ok phys _ => phys | _ => 0)
  let s1 := if hasBlock e u && !blockBad s o e u
    then (sectionGrans o e (headerNow s o e u)).foldl (fun t g => lookOwn o g t) s else s
  -- a page that is cached now serves the requests that wait for it too (R327)
  retryWalks o <| modBead o (modEntry 2 e.id fun x => { x with
    prepared := true, params := readBlock s o e u, pages := xs
    prepBad := (prepFault s o e u).map fun p => (BitVec.ofNat 6 p.1, BitVec.ofNat 16 p.2.1, BitVec.ofNat 48 p.2.2) })
    (pages.foldl (fun t p => pageKeep o p t) s1)

/-- DRAIN_PREPARE (R278). -/
def execDrainPrepare (o : Ord) (a : ArrN) (s : State) : Host.Outcome State Fault Refusal :=
  match toPrepare (beadOf s o.val) a.val with
  | some (e, u) => whenOk s (beadRuns s o.val && !holding s) (prepare o.val e u s)
  | none => .next s

/-- An entry updates its unit's statistics file as its rows pass (R261). -/
def holdsStats (e : QEntry) (u : DrainUse) : Bool := u.kind == 0 && hStat (headerOfEntry e) != 0

/-- A drain entry ends with a fault after its start: nothing it holds aside takes effect, and a tile-register destination
is EMPTY (R122, R160, R276). -/
def drainFail (o : Nat) (e : QEntry) (u : DrainUse) (code part addr : Nat) (s : State) : State :=
  failEntry o 2 e.id code part addr (modBead o (fun b =>
    let b1 := emptyTiles (tilesWritten e) b
    if holdsStats e u then modDrain u.unit (fun d => { d with held := none }) b1 else b1) s)

/-- The previous entry on a drain unit has entered its last row (R279). -/
def unitFree (b : Bead) (a : Nat) : Bool :=
  !(queueOf b 2).ents.any fun e =>
    e.barrier == 0 && e.st == .started && e.bad.isNone && drainUnit e == some a && decide (e.next < 64)

/-- Stage 2 is enabled (R244). -/
def affineOn (h : Header) : Bool := hRsrc h != 0 || hCsv h || hCbv h

/-- An entry's depth D (R244, R245). -/
def drainDepth (u : DrainUse) (h : Header) : Nat :=
  12 + (if affineOn h then 4 else 0) + (if hRot h then 4 else 0) + (if u.fn == 10 && u.kind == 0 then 6 else 0) +
  (if hDstacc h then 4 else 0) + (if hPost h then 2 else 0)

/-- Reciprocal square root rounded once to nearest even (R246, R264). -/
def fpRsqrt (x : Word32) : Word32 :=
  match val32 x with
  | .nan => nan32
  | .inf n => if n then nan32 else 0
  | .fin n m e =>
    if m = 0 then (if n then 0xFF800000 else 0x7F800000)
    else if n then nan32
    else
      -- 1 / sqrt (m 2^e) = sqrt (2^200 / m') 2^(-100 - e'/2), with m' 2^e' = m 2^e and e' even
      let m' := if e % 2 = 0 then m else 2 * m
      let e' := if e % 2 = 0 then e else e - 1
      let r := isqrtBits 101 (2 ^ 200 / m') 0
      w32 (roundTo fp32 .rne false (2 * r + b2n (r * r * m' ≠ 2 ^ 200)) (-101 - e' / 2))

/-- The larger of two FP32 values that are not NaN. -/
def fpMax (a b : Word32) : Word32 := if valLt (val32 a) (val32 b) then b else a

/-- One as FP32. -/
def one32 : Word32 := 0x3F800000
/-- Minus infinity as FP32. -/
def negInf32 : Word32 := 0xFF800000

/-- MEAN of a row (R264). -/
def rowMean (m : StatMode) (r : StatRow) : Word32 :=
  if m != .lnorm || r.count == 0 then 0
  else pack32 (valDiv (val32 (pairRound r.s1 r.s1e)) (.fin false r.count.toNat 0))

/-- RSTD of a row (R264). -/
def rowRstd (f : StatFile) (r : StatRow) : Word32 :=
  if r.count = 0 then fpRsqrt f.eps
  else
    let q := pack32 (valDiv (val32 (pairRound r.s2 r.s2e)) (.fin false r.count.toNat 0))
    if f.mode = .lnorm then
      let mean := rowMean .lnorm r
      let v := fpSub q (fpMul mean mean)
      fpRsqrt (fpAdd (if isNan (val32 v) then v else fpMax v 0) f.eps)
    else fpRsqrt (fpAdd q f.eps)

/-- RSHIFT and RSCALE of a row, where present (R251, R252). -/
def rowAffine (b : Bead) (e : QEntry) (h : Header) (r : Nat) : Option Word32 × Option Word32 :=
  let f := fileOf b (hStatsrc h)
  let row := tblGet {} f.rows r
  match hRsrc h with
  | 0 => (none, none)
  | 1 => (some (pWord e (72 + r)), some (pWord e (8 + r)))
  | 2 => (some (rowMean f.mode row), some (rowRstd f row))
  | _ => (some 0, some (fpDiv one32 row.l))

/-- Stage 2 (R251). -/
def affine (e : QEntry) (h : Header) (ra : Option Word32 × Option Word32) (n : Nat) (v : Word32) : Word32 :=
  let v1 := match ra.1 with
    | some sh =>
      let c := if hChv h then pWord e (200 + n) else one32
      pack32 (valAdd (val32 v) (valNeg (valMul (val32 sh) (val32 c))))
    | none => v
  let v2 := match ra.2 with
    | some sc => fpMul v1 sc
    | none => v1
  let v3 := if hCsv h then fpMul v2 (pWord e (136 + n)) else v2
  if hCbv h then fpAdd v3 (pWord e (264 + n)) else v3

/-- The angle of a position and a rate, exact (R254). -/
def angle (pos : Nat) (rate : Word32) : Int := fxOf (dyMul ⟨pos, 0⟩ (dyOf (val32 rate)))

/-- The absolute error that the reduction of an angle may add: none within half a turn. -/
def angleTol (x : Int) : Int := if fxAbs x ≤ fxPi then 0 else tolAngle

/-- Sine and cosine, open within their bounds (R254); of an infinite rate the rule states none.
[DESIGN CHOICE: log 24] -/
def sineOf (pos : Nat) (rate : Word32) : Word32 :=
  let v := Config.drainFn (0x40 + 128 * pos) rate
  if isNan (val32 rate) then nan32
  else if isFin (val32 rate) then openFp 1 (angleTol (angle pos rate)) (fxSinCos (angle pos rate)).1 v else v
def cosineOf (pos : Nat) (rate : Word32) : Word32 :=
  let v := Config.drainFn (0x41 + 128 * pos) rate
  if isNan (val32 rate) then nan32
  else if isFin (val32 rate) then openFp 1 (angleTol (angle pos rate)) (fxSinCos (angle pos rate)).2 v else v

/-- Stage 3 (R253, R254). -/
def rotate (e : QEntry) (h : Header) (r : Nat) (vs : List Word32) : List Word32 :=
  let pos := bitsOf (pWord e (328 + r)).toNat 0 22
  (List.range 64).map fun n =>
    let j := if hRotl h then n % 32 else n / 2
    let n0 := if hRotl h then j else 2 * j
    let n1 := if hRotl h then j + 32 else 2 * j + 1
    let rate := pWord e (392 + j)
    let sn := sineOf pos rate
    let cs := cosineOf pos rate
    let a := nth 0 vs n0
    let b := nth 0 vs n1
    if n = n0 then fpSub (fpMul a cs) (fpMul b sn) else fpAdd (fpMul a sn) (fpMul b cs)

/-- An element is masked (R255). -/
def maskedAt (e : QEntry) (h : Header) (r n : Nat) : Bool :=
  decide (hCols h ≤ n) ||
  (hMask h && (decide (bitsOf (pWord e (328 + r)).toNat 0 22 < h.colpos + n) ||
    (h.klenv && decide (h.klen ≤ h.colpos + n))))

/-- A function of R256 with its special inputs (R257); elsewhere the value is open within the bound of R256.
[DESIGN CHOICE: log 24; DEDUCED: log 35] -/
def fnValue (fn : Nat) (x : Word32) : Word32 :=
  match fn, val32 x with
  | 0, .nan => nan32
  | 0, _ => x
  | _, .nan => nan32
  | 1, .inf n => if n then 0 else 0x7F800000
  | 1, .fin n m _ => if n || m == 0 then 0 else x
  | 2, .inf n => if n then 0x80000000 else 0x7F800000
  | 3, .inf n => if n then 0x80000000 else 0x7F800000
  | 4, .inf n => if n then 0x80000000 else 0x7F800000
  | 5, .inf n => if n then 0xBF800000 else one32
  | 6, .inf n => if n then 0 else one32
  | 7, .inf n => if n then 0 else 0x7F800000
  | 8, .inf n => if n then 0x80000000 else 0
  | 8, .fin n m _ => if m = 0 then (if n then 0xFF800000 else 0x7F800000) else openFn 8 x
  | 9, .inf n => if n then nan32 else 0
  | 9, .fin n m _ =>
    if m = 0 then (if n then 0xFF800000 else 0x7F800000) else if n then nan32 else openFn 9 x
  | k, _ => openFn k x

/-- A derivative of R256 with its special inputs (R257). [DESIGN CHOICE: log 24] -/
def derivValue (fn : Nat) (p : Word32) : Word32 :=
  match fn, val32 p with
  | _, .nan => nan32
  | 1, .inf n => if n then 0 else one32
  | 1, .fin n m _ => if n || m == 0 then 0 else one32
  | 5, .inf _ => 0
  | 6, .inf _ => 0
  | 7, .inf n => if n then 0 else 0x7F800000
  | _, .inf n => if n then 0 else one32
  | k, _ => openDeriv k p

/-- exp (v - m), open within 2 ulp; +0 for v = -infinity (R262). [DESIGN CHOICE: log 24] -/
def expDiff (v m : Word32) : Word32 :=
  if v = negInf32 then 0 else openFp 2 0 (fxExp (fx32 v - fx32 m)) (Config.drainFn (10 + 128 * m.toNat) v)

/-- Stages 5 and 6 and the update of SOFTMAX statistics (R262). [DEDUCED: log 35] -/
def softmaxRow (cols : Nat) (row : StatRow) (vs : List Word32) : List Word32 × StatRow :=
  let live := vs.take cols
  if live.any (fun v => isNan (val32 v) || val32 v == .inf false) || isNan (val32 row.m) then
    (List.replicate 64 nan32, { row with m := nan32, l := nan32, c := nan32 })
  else
    let m := (vs.take 64).foldl fpMax row.m
    if m = negInf32 then
      let l := pack32 (valAdd (val32 (fpMul row.l one32)) (val32 (rowSum ((List.replicate cols (0 : Word32)).map val32))))
      (List.replicate 64 0, { row with m := m, l := l, c := one32 })
    else
      let c := expDiff row.m m
      let ps := vs.map fun v => expDiff v m
      let l := pack32 (valAdd (valMul (val32 row.l) (val32 c)) (val32 (rowSum ((ps.take cols).map val32))))
      (ps, { row with m := m, l := l, c := c })

/-- The update of LNORM and RMSNORM statistics (R263). [DEDUCED: log 35] -/
def normRow (cols : Nat) (row : StatRow) (vs : List Word32) : StatRow :=
  let live := (vs.take cols).map val32
  let a := splitUpdate (row.s1, row.s1e) (rowSum live)
  let b := splitUpdate (row.s2, row.s2e) (rowSum (live.map fun v => valMul v v))
  { row with s1 := a.1, s1e := a.2, s2 := b.1, s2e := b.2, count := satInc row.count cols }

/-- An accumulator element as the drain reads it (R239). [DESIGN CHOICE: log 24] -/
def accVal (acc : Acc) (r n : Nat) : DVal :=
  let i := 64 * r + n
  if acc.split then .pair (tblGet 0 acc.s i) (tblGet 0 acc.e i) else .fp (tblGet 0 acc.s i)

/-- The single FP32 value of a drain value (R239). -/
def dvalFp (v : DVal) : Word32 :=
  match v with
  | .fp x => x
  | .pair a b => pairRound a b

/-- A NaN made canonical (R218, R246). -/
def canon (v : Word32) : Word32 := if isNan (val32 v) then nan32 else v

/-- The destination element of DSTACC as it stands in memory (R270). -/
def destElem (s : State) (o : Nat) (e : QEntry) (r n : Nat) : Word32 :=
  let a := tileAddr e.d1 (owTile e.v2) r n - ownBase o
  BitVec.ofNat 32 (bitsOf (goodData (dmemGet s o (a / 32))).toNat (8 * (a % 32)) 32)

/-- Stages 8 and 9 (R270, R271). -/
def accumulate (s : State) (o : Nat) (e : QEntry) (h : Header) (r n : Nat) (v : Word32) : Word32 :=
  let row := tblGet {} (fileOf (beadOf s o) (hStatsrc h)).rows r
  let v1 := if hDstacc h then
      (if row.c = 0 then fpAdd (fpMul 0 row.c) v
       else if n < rowElems e.d1 (owTile e.v2) r then fpAdd (fpMul (destElem s o e r n) row.c) v else v)
    else v
  if hPost h then (if row.l = 0 then nan32 else fpMul v1 (fpDiv one32 row.l)) else v1

/-- A row of DR.ACT through stages 1 to 9, and the statistics row it leaves. -/
def actRow (s : State) (o : Nat) (e : QEntry) (u : DrainUse) (r : Nat) : List DVal × StatRow :=
  let b := beadOf s o
  let h := headerOfEntry e
  let acc := accOf b (accKey (u.unit == 1) u.ac)
  let raw := (List.range 64).map (accVal acc r)
  let ra := rowAffine b e h r
  let v1 := (List.range 64).map fun n =>
    let v := dvalFp (nth (.fp 0) raw n)
    if affineOn h then affine e h ra n v else v
  let v2 := if hRot h then rotate e h r v1 else v1
  let v3 := (List.range 64).map fun n => if maskedAt e h r n then negInf32 else nth 0 v2 n
  let row := tblGet {} (fileOf b u.unit).rows r
  let soft := softmaxRow (hCols h) row v3
  let v4 := if u.fn = 10 then soft.1 else v3.map (fnValue u.fn)
  let stat := if hStat h = 1 then soft.2 else if hStat h = 0 then row else normRow (hCols h) row v4
  let plain := u.fn == 0 && !affineOn h && !hRot h && !hDstacc h && !hPost h
  let out := (List.range 64).map fun n =>
    if plain && !maskedAt e h r n then nth (.fp 0) raw n
    else .fp (canon (accumulate s o e h r n (nth 0 v4 n)))
  (out, stat)

/-- A pre-activation of DR.DACT (R259). -/
def preAct (b : Bead) (e : QEntry) (u : DrainUse) (h : Header) (r n : Nat) : Word32 :=
  let id := owSrcId e.v1
  if u.psrc then
    let v := dvalFp (accVal (accOf b (accKey (bitOf id 2) (id % 4))) r n)
    if affineOn h then affine e h (rowAffine b e h r) n v else v
  else if tcSplit e.tcfg then joinParts (tileElem (tileOf b id) r n) (tileElem (tileOf b (id + 1)) r n)
  else pack32 (valOf (if tcFmt e.tcfg = 0 then fp16 else bf16) (tileElem (tileOf b id) r n).toNat)

/-- A row of DR.DACT (R258). -/
def dactRow (s : State) (o : Nat) (e : QEntry) (u : DrainUse) (r : Nat) : List DVal :=
  let b := beadOf s o
  let h := headerOfEntry e
  let acc := accOf b (accKey (u.unit == 1) u.ac)
  (List.range 64).map fun n => .fp (fpMul (dvalFp (accVal acc r n)) (derivValue u.fn (preAct b e u h r n)))

/-- LSE of a row (R267), open within 2 ulp. [DESIGN CHOICE: log 24] -/
def logSum (m l : Word32) : Word32 :=
  if l = 0 then negInf32
  else if isNan (val32 l) || isNan (val32 m) || negOf (val32 l) then nan32
  else if !isFin (val32 l) || !isFin (val32 m) then fpAdd m l
  else openFp 2 0 (fx32 m + fxLog (fx32 l)) (Config.drainFn (0x50 + 128 * m.toNat) l)

/-- A row of DR.STAT (R267). -/
def statRow (b : Bead) (u : DrainUse) (r : Nat) : List DVal :=
  let f := fileOf b u.unit
  let row := tblGet {} f.rows r
  let cols : List Word32 :=
    if f.mode = .lnorm ∨ f.mode = .rmsnorm then
      [rowMean f.mode row, rowRstd f row, pairRound row.s1 row.s1e, pairRound row.s2 row.s2e]
    else
      [row.m, row.l, row.c, logSum row.m row.l]
  (List.range 64).map fun n => .fp (nth 0 cols n)

/-- A DR.DACT row whose pre-activation row is poisoned (R260). -/
def preActPoison (b : Bead) (e : QEntry) (u : DrainUse) (r : Nat) : Bool :=
  u.kind == 1 && !u.psrc &&
  (rowPoison (tileOf b (owSrcId e.v1)) r || (tcSplit e.tcfg && rowPoison (tileOf b (owSrcId e.v1 + 1)) r))

/-- The drain unit's entry whose rows enter now: the first started one with rows left (R279). -/
def draining (b : Bead) (a : Nat) : Option (QEntry × DrainUse) :=
  ((queueOf b 2).ents.find? fun e =>
    e.barrier == 0 && e.st == .started && e.bad.isNone && drainUnit e == some a && decide (e.next < 64)).bind fun e =>
      (drainUse e).map fun u => (e, u)

/-- The rows of a drain unit whose writes to memory are under way. -/
def rowsOut (b : Bead) (a : Nat) : List (Nat × Nat) :=
  (b.reqs.filterMap fun r => match r.owner with
    | .drainRow id row => if (findEntry b 2 id).any fun x => drainUnit x == some a then some (id, row) else none
    | _ => none).dedup

/-- A drain unit has room for a row (R274), and no poisoned row stands ahead of it. -/
def drainRoom (b : Bead) (a : Nat) (e : QEntry) (u : DrainUse) : Bool :=
  decide ((drainOf b a).jobs.length + (rowsOut b a).length < drainDepth u (headerOfEntry e) + 8) &&
  !(drainOf b a).jobs.any fun j => j.entry == e.id && j.bad

/-- The file as the entry will leave it, row by row (R261, R276). -/
def holdStat (b : Bead) (e : QEntry) (u : DrainUse) (r : Nat) (row : StatRow) (d : Drain) : Drain :=
  let h := headerOfEntry e
  if holdsStats e u then
    let f := d.held.getD (if (fileOf b u.unit).mode = .idle then { mode := statMode (hStat h), eps := h.eps, rows := [] }
      else fileOf b u.unit)
    { d with held := some { f with rows := tblSet {} f.rows r row } }
  else d

/-- The LFSR of a drain unit (R237, R238). [DEDUCED: log 6, 34] -/
def lfsrNow (s : State) (o a : Nat) (d : Drain) : Word32 :=
  match d.lfsr with
  | some v => v
  | none => lfsrSeed s.clock.workTick o a

/-- The destination granules that a row of an entry reads under DSTACC (R270, R393). -/
def lookDest (o : Nat) (e : QEntry) (s : State) : State :=
  let h := headerOfEntry e
  let g := rowGrans e.d1 (owTile e.v2) e.next
  if !hDstacc h || skipsDest (beadOf s o) h e.next then s else lookOwns o ((g.1 - ownBase o) / 32) g.2 s

/-- A row enters a drain unit (R243, R237). A row whose pre-activation row is poisoned (R260) counts as drained and does not
advance the LFSR. [DEDUCED: log 34] -/
def drainEnter (o a : Nat) (e : QEntry) (u : DrainUse) (before : State) : State :=
  let s := if u.kind = 0 then lookDest o e before else before
  let b := beadOf s o
  let r := e.next
  let bad := preActPoison b e u r
  let act := actRow s o e u r
  let vals := match u.kind with
    | 0 => act.1
    | 1 => dactRow s o e u r
    | _ => statRow b u r
  countEv o (0x15 + a) 1 (modBead o (fun b =>
    let b1 := modEntry 2 e.id (fun x => { x with next := x.next + 1 }) b
    modDrain a (fun d =>
      let d1 := if u.kind = 0 then holdStat b e u r act.2 d else d
      let v := lfsrNow s o a d1
      { d1 with
        jobs := d1.jobs ++ [{ entry := e.id, row := r, vals := vals, lfsr := v, bad := bad }]
        lfsr := if bad then d1.lfsr else some (lfsrRow v) }) b1) s)

/-- DRAIN_ROW_ENTER (R279). -/
def execDrainRowEnter (o : Ord) (a : ArrN) (s : State) : Host.Outcome State Fault Refusal :=
  match draining (beadOf s o.val) a.val with
  | some (e, u) =>
    whenOk s (beadRuns s o.val && drainRoom (beadOf s o.val) a.val e u) (drainEnter o.val a.val e u s)
  | none => .next s

/-- The rounding of a lane (R233, R234). -/
def laneRnd (stoch : Bool) (lfsr : Word32) (n : Nat) : Rnd := if stoch then .stoch (laneRandom lfsr n) else .rne

/-- A value rounded into a 16-bit format or FP32 (R233 to R235, R239, R240). -/
def storeVal (f : Fmt) (rm : Rnd) (v : DVal) : Nat :=
  let x := match v with
    | .fp a => val32 a
    | .pair a b => pairVal a b
  match x with
  | .fin n m e => if f = bf16 then roundBf16 rm n m e else roundTo f rm n m e
  | y => packVal f rm y

/-- The format of an element-type code. -/
def fmtOf (etype : Nat) : Fmt := if etype = 1 then fp16 else if etype = 2 then bf16 else fp32

/-- A drained row written into a tile register (R273). -/
def rowToTile (e : QEntry) (u : DrainUse) (j : DrainJob) (b : Bead) : Bead :=
  let at_ := fun n => nth (DVal.fp 0) j.vals n
  let rm := laneRnd u.stoch j.lfsr
  if tcSplit e.tcfg then
    let ps := (List.range 64).map fun n => splitFp32 (w32 (storeVal fp32 (rm n) (at_ n)))
    setTileRow (u.td + 1) j.row (ps.map (·.2)) false (setTileRow u.td j.row (ps.map (·.1)) false b)
  else
    let f := if tcFmt e.tcfg = 0 then fp16 else bf16
    setTileRow u.td j.row ((List.range 64).map fun n => BitVec.ofNat 16 (storeVal f (rm n) (at_ n))) false b

/-- The bytes of a row for a memory destination. -/
def rowBytes (e : QEntry) (u : DrainUse) (j : DrainJob) (part : Nat) (n : Nat) : List Byte :=
  let sz := dSize e.d1
  (List.range n).flatMap fun c =>
    let v := nth (DVal.fp 0) j.vals c
    if u.pair then
      (match v with
       | .pair a b => toBytes 4 (if part = 0 then a else b).toNat
       | .fp a => toBytes 4 (if part = 0 then a.toNat else 0))
    else
      match v with
      | .fp a => if sz = 4 then toBytes 4 (canon a).toNat
        else toBytes sz (storeVal (fmtOf (dEtype e.d1)) (laneRnd u.stoch j.lfsr c) v)
      | .pair _ _ => toBytes sz (storeVal (fmtOf (dEtype e.d1)) (laneRnd u.stoch j.lfsr c) v)

/-- Columns that a row writes in memory: those of the tile inside the tensor, for DR.STAT at most 4 (R154, R267). -/
def rowCols (e : QEntry) (u : DrainUse) (r : Nat) : Nat :=
  let n := rowElems e.d1 (owTile e.v2) r
  if u.kind = 2 then min 4 n else n

/-- A drained row written to one tile in memory: own data memory at once, elsewhere as a request through the
translations checked before (R273, R275). -/
def rowToMem (o : Nat) (e : QEntry) (row tile : Nat) (bytes : List Byte) (s : State) : State :=
  let off := tileAddr e.d1 tile row 0 % 32
  let g := (tileAddr e.d1 tile row 0 - off, (off + bytes.length + 31) / 32)
  let all := List.replicate off 0 ++ bytes
  let sel (k : Nat) : Bool := decide (off ≤ k) && decide (k < off + bytes.length)
  let data := (List.range g.2).map fun i => encodeGran (granOf ((all.drop (32 * i)).take 32))
  let mask : List Word32 := (List.range g.2).map fun i => BitVec.ofNat 32 ((List.range 32).foldl
    (fun m k => m + (if sel (32 * i + k) then 2 ^ k else 0)) 0)
  let fin1 := modBead o (modEntry 2 e.id fun x => { x with fin := x.fin + 1 })
  if bytes = [] then fin1 s
  else if (List.range g.2).all fun i => inOwnDmem o (g.1 + 32 * i) then
    fin1 (upTo g.2 (fun x i => dmemStore o ((g.1 - ownBase o) / 32 + i) (nth 0 data i) (nth 0 mask i) (nodeBead o) x) s)
  else
    let phys := (List.range g.2).map fun i =>
      let dev := g.1 + 32 * i
      match e.pages.find? fun p => p.1 == dev / 4096 with
      | some p => p.2 + dev % 4096
      | none => dev
    let r := { newReq (beadOf s o) (.drainRow e.id row) .write g.1 g.2 with
      data := data, mask := mask, phys := phys, st := .ready }
    -- granules of the bead's own data memory in a row that reaches beyond it are written at once
    let x := (List.range g.2).foldl (ownGran o r) (r, s)
    let r := x.1
    let s := x.2
    modBead o (fun b => addReq r (upTo g.2 (fun b i => l1Write (g.1 + 32 * i) (nth 0 data i) (nth 0 mask i) b) b)) s

/-- The oldest row of a drain unit is written (R245, R273); a poisoned one ends its entry (R260).
[DEDUCED: log 34] -/
def drainWrite (o a : Nat) (s : State) : State :=
  let b := beadOf s o
  match (drainOf b a).jobs with
  | [] => s
  | j :: rest =>
    let s1 := modBead o (modDrain a fun d => { d with jobs := rest }) s
    match findEntry b 2 j.entry with
    | none => s1
    | some e =>
      match drainUse e with
      | none => s1
      | some u =>
        if j.bad then drainFail o e u fcPoison j.row 0 s1
        else if u.mem then
          (if u.pair then
            rowToMem o e j.row (tileNextPlane e.d1 (owTile e.v2)) (rowBytes e u j 1 (rowCols e u j.row))
              (rowToMem o e j.row (owTile e.v2) (rowBytes e u j 0 (rowCols e u j.row)) s1)
           else rowToMem o e j.row (owTile e.v2) (rowBytes e u j 0 (rowCols e u j.row)) s1)
        else
          modBead o (fun b => modEntry 2 e.id (fun x => { x with fin := x.fin + 1 })
            (if e.bad.isSome then b else rowToTile e u j b)) s1

/-- DRAIN_ROW_WRITE (R245). -/
def execDrainRowWrite (o : Ord) (a : ArrN) (s : State) : Host.Outcome State Fault Refusal :=
  whenOk s (beadRuns s o.val && (drainOf (beadOf s o.val) a.val).jobs != []) (drainWrite o.val a.val s)

/-- Rows or row parts that a drain entry has to finish. -/
def drainTotal (u : DrainUse) : Nat := if u.nowr then 0 else if u.pair then 128 else 64

/-- A drain entry's end (R121, R160, R268, R276). -/
def drainComplete (e : QEntry) (u : DrainUse) (b : Bead) : Bead :=
  let b1 := (tilesWritten e).foldl (fun b t => modTile t (fun k => { k with st := .full }) b) b
  let b2 := modDrain u.unit (fun d =>
    if holdsStats e u then { d with file := d.held.getD d.file, held := none }
    else if u.kind = 2 ∧ (u.rst ∨ u.nowr) then { d with file := {} }
    else d) b1
  if u.kind ≠ 2 ∧ !u.keep then emptyAcc (accKey (u.unit == 1) u.ac) b2 else b2

end Sys2Proof.Machine
end

