-- ==== Sys2Proof/Machine/Issue.lean ====
section
/-! DEFINITION. Issue of Xmacel instructions: queue entries, barriers, the descriptor table, TREL, L1 invalidation
(chapter 3). -/

namespace Sys2Proof.Machine

/-- The descriptor handles that an instruction captures at issue (R95). -/
def capturedHandles (i : XInsn) (v1 : Word) : List Nat :=
  match i with
  | .mmbwd _ _ _ rs1 _ _ _ _ => if rs1 = 0 then [] else [owHandle v1]
  | .tld .. | .tst .. => [owHandle v1]
  | .drAct _ mem .. => (if mem then [owHandle v1] else []) ++ (if owH2v v1 then [owHandle2 v1] else [])
  | .drDact _ mem .. => (if mem then [owHandle v1] else []) ++ (if owH2v v1 then [owHandle2 v1] else [])
  | .drStat mem .. => if mem then [owHandle v1] else []
  | _ => []

/-- The ledger notes the handles captured in the tick (R701, HMAP). -/
def noteHandles (l : List Nat) (s : State) : State :=
  { s with ledger := { s.ledger with cur := { s.ledger.cur with
      hmap := l.foldl (fun m h => m ||| BitVec.ofNat 64 (2 ^ (h / 64))) s.ledger.cur.hmap } } }

/-- A transfer takes its start row from the hart's TILE_RESUME_ROW, which becomes 0 (R176). -/
def takesRow (i : XInsn) : Bool :=
  match i with
  | .tld .. | .tst .. => true
  | _ => false

/-- The entry that an instruction becomes, with what it captures at issue (R94, R95, R176). -/
def newEntry (b : Bead) (h : HartN) (word : Word32) (i : XInsn) : QEntry :=
  let t := hartOf b h.val
  let r := operandRegs i
  let v1 := xReg t r.1
  let start := if takesRow i then t.resumeRow.toNat else 0
  { id := b.nextId, word := word, insn := i, hart := h, v1 := v1, v2 := xReg t r.2.1, v3 := xReg t r.2.2, tcfg := t.tcfg,
    d1 := tblGet 0 b.dt (owHandle v1), d2 := tblGet 0 b.dt (owHandle2 v1), startRow := start, next := start, fin := start }

/-- An instruction enters its queue in its issue ck (R55, R139); a full queue holds the hart (R56). -/
def enqueue (o : Ord) (h : HartN) (f : Fetched) (i : XInsn) (q : Nat) (s : State) : State :=
  let b := beadOf s o.val
  if 32 ≤ (queueOf b q).ents.length then holdAt o h .queue s
  else
    let e := newEntry b h f.word i
    let b1 := modQueue q (fun k => { k with ents := k.ents ++ [e] }) { b with nextId := b.nextId + 1 }
    let s1 := noteHandles (capturedHandles i e.v1) (setBead o.val b1 s)
    maskDue o.val (retire o h (fun t => { advance f.len t with resumeRow := if takesRow i then 0 else t.resumeRow })
      (countEv o.val 0x0D 1 s1))

/-- The Xmacel instruction at a hart's pc. -/
def xAt (s : State) (o : Ord) (h : HartN) : Option (XInsn × Fetched) :=
  match fetched s o.val h.val with
  | some f =>
    match f.insn with
    | .x i => some (i, f)
    | _ => none
  | none => none

/-- A row of the table that issues an entry of its kind. -/
def issueRow (p : XInsn → Bool) (o : Ord) (h : HartN) (s : State) : Host.Outcome State Fault Refusal :=
  match xAt s o h with
  | some (i, f) =>
    match queueFor i with
    | some q => whenOk s (p i) (enqueue o h f i q.val s)
    | none => .next s
  | none => .next s

def isMmA (i : XInsn) : Bool := match i with | .mm arrB .. => !arrB | _ => false
def isMmB (i : XInsn) : Bool := match i with | .mm arrB .. => arrB | _ => false
def isMmAB (i : XInsn) : Bool := match i with | .mmab .. => true | _ => false
def isMmBwd (i : XInsn) : Bool := match i with | .mmbwd .. => true | _ => false
def isTld (i : XInsn) : Bool := match i with | .tld .. => true | _ => false
def isTst (i : XInsn) : Bool := match i with | .tst .. => true | _ => false
def isStrGo (i : XInsn) : Bool := match i with | .strGo .. => true | _ => false
def isStrStop (i : XInsn) : Bool := match i with | .strStop .. => true | _ => false
def isDtFill (i : XInsn) : Bool := match i with | .dtFill .. => true | _ => false
def isDrAct (i : XInsn) : Bool := match i with | .drAct .. => true | _ => false
def isDrDact (i : XInsn) : Bool := match i with | .drDact .. => true | _ => false
def isDrStat (i : XInsn) : Bool := match i with | .drStat .. => true | _ => false
def isClaspSig (i : XInsn) : Bool := match i with | .claspSig .. => true | _ => false
def isClaspWait (i : XInsn) : Bool := match i with | .claspWait .. => true | _ => false
def isClaspTake (i : XInsn) : Bool := match i with | .claspTake .. => true | _ => false
def isChWr (i : XInsn) : Bool := match i with | .chWr .. => true | _ => false
def isChRd (i : XInsn) : Bool := match i with | .chRd .. => true | _ => false
def isChAcc (i : XInsn) : Bool := match i with | .chAcc .. => true | _ => false

/-- MM_A (R101). -/
def execMmA (o : Ord) (h : HartN) (s : State) : Host.Outcome State Fault Refusal := issueRow isMmA o h s
/-- MM_B (R101). -/
def execMmB (o : Ord) (h : HartN) (s : State) : Host.Outcome State Fault Refusal := issueRow isMmB o h s
/-- MM_AB (R102). -/
def execMmAB (o : Ord) (h : HartN) (s : State) : Host.Outcome State Fault Refusal := issueRow isMmAB o h s
/-- MM_BWD (R103). -/
def execMmBwd (o : Ord) (h : HartN) (s : State) : Host.Outcome State Fault Refusal := issueRow isMmBwd o h s
/-- TLD (R107, R176). -/
def execTld (o : Ord) (h : HartN) (s : State) : Host.Outcome State Fault Refusal := issueRow isTld o h s
/-- TST (R107, R176). -/
def execTst (o : Ord) (h : HartN) (s : State) : Host.Outcome State Fault Refusal := issueRow isTst o h s
/-- STR_GO (R107). -/
def execStrGo (o : Ord) (h : HartN) (s : State) : Host.Outcome State Fault Refusal := issueRow isStrGo o h s
/-- STR_STOP (R107). -/
def execStrStop (o : Ord) (h : HartN) (s : State) : Host.Outcome State Fault Refusal := issueRow isStrStop o h s
/-- DT_FILL (R107). -/
def execDtFill (o : Ord) (h : HartN) (s : State) : Host.Outcome State Fault Refusal := issueRow isDtFill o h s
/-- DR_ACT (R117). -/
def execDrAct (o : Ord) (h : HartN) (s : State) : Host.Outcome State Fault Refusal := issueRow isDrAct o h s
/-- DR_DACT (R117). -/
def execDrDact (o : Ord) (h : HartN) (s : State) : Host.Outcome State Fault Refusal := issueRow isDrDact o h s
/-- DR_STAT (R117). -/
def execDrStat (o : Ord) (h : HartN) (s : State) : Host.Outcome State Fault Refusal := issueRow isDrStat o h s
/-- CLASP_SIG (R125). -/
def execClaspSig (o : Ord) (h : HartN) (s : State) : Host.Outcome State Fault Refusal := issueRow isClaspSig o h s
/-- CLASP_WAIT (R125). -/
def execClaspWait (o : Ord) (h : HartN) (s : State) : Host.Outcome State Fault Refusal := issueRow isClaspWait o h s
/-- CLASP_TAKE (R125). -/
def execClaspTake (o : Ord) (h : HartN) (s : State) : Host.Outcome State Fault Refusal := issueRow isClaspTake o h s
/-- CH_WR (R130). -/
def execChWr (o : Ord) (h : HartN) (s : State) : Host.Outcome State Fault Refusal := issueRow isChWr o h s
/-- CH_RD (R130). -/
def execChRd (o : Ord) (h : HartN) (s : State) : Host.Outcome State Fault Refusal := issueRow isChRd o h s
/-- CH_ACC (R130). -/
def execChAcc (o : Ord) (h : HartN) (s : State) : Host.Outcome State Fault Refusal := issueRow isChAcc o h s

/-- A marker entry of a barrier. -/
def marker (id : Nat) (h : HartN) (word : Word32) : QEntry :=
  { id := id, word := word, insn := .l1InvA, hart := h, v1 := 0, v2 := 0, v3 := 0, tcfg := 0, d1 := 0, d2 := 0,
    startRow := 0, barrier := id }

/-- QBAR issues (R82, R123, R124): no marker for a mask of 0; a full masked queue holds the hart; otherwise every marker
is placed in the same ck, and H holds the hart until the barrier is passed. -/
def qbarDo (o : Ord) (h : HartN) (f : Fetched) (mask : BitVec 4) (hold : Bool) (s : State) : State :=
  let b := beadOf s o.val
  if mask = 0 then retire o h (advance f.len) s
  else if (List.range 4).any (fun q => bitOf mask.toNat q && decide (32 ≤ (queueOf b q).ents.length)) then
    holdAt o h .queue s
  else
    let id := b.nextId
    let b1 := upTo 4 (fun b q =>
      if bitOf mask.toNat q then modQueue q (fun k => { k with ents := k.ents ++ [marker id h f.word] }) b else b)
      { b with nextId := id + 1 }
    let s1 := retire o h (fun t => if hold then { t with hold := .qbar id } else advance f.len t) (setBead o.val b1 s)
    maskDue o.val (modBead o.val releaseBarriers s1)

/-- QBAR (R82). -/
def execQbar (o : Ord) (h : HartN) (s : State) : Host.Outcome State Fault Refusal :=
  match xAt s o h with
  | some (.qbar mask hold, f) => .next (qbarDo o h f mask hold s)
  | _ => .next s

/-- One 64-bit word of a descriptor entry replaced (R113, R149). -/
def setDescWord (d : BitVec 512) (w : Nat) (v : Word) : BitVec 512 :=
  BitVec.ofNat 512 (ofBytes ((List.range 64).map fun i =>
    BitVec.ofNat 8 (if i / 8 = w then bitsOf v.toNat (8 * (i % 8)) 8 else bitsOf d.toNat (8 * i) 8)))

/-- DT_WR (R113): the word takes the value in the issue ck. -/
def execDtWr (o : Ord) (h : HartN) (s : State) : Host.Outcome State Fault Refusal :=
  match xAt s o h with
  | some (.dtWr w rs1 rs2, f) =>
    let t := hartOf (beadOf s o.val) h.val
    .next (retire o h (advance f.len) (modBead o.val (fun b => { b with
      dt := tblMod 0 b.dt (owHandle (xReg t rs1)) (fun d => setDescWord d w.val (xReg t rs2)) }) s))
  | _ => .next s

/-- DT_RD (R113): rd takes the word. -/
def execDtRd (o : Ord) (h : HartN) (s : State) : Host.Outcome State Fault Refusal :=
  match xAt s o h with
  | some (.dtRd w rs1 rd, f) =>
    let b := beadOf s o.val
    let d := tblGet 0 b.dt (owHandle (xReg (hartOf b h.val) rs1))
    .next (retire o h (fun t => advance f.len (setX rd (BitVec.ofNat 64 (dF d (64 * w.val) 64)) t)) s)
  | _ => .next s

/-- Whether an entry of a bead numbered below `before` names one of a list of tile registers (R114). -/
def namesBefore (b : Bead) (before : Nat) (tiles : List Nat) : Bool :=
  (List.range 4).any fun q => (queueOf b q).ents.any fun e =>
    e.barrier == 0 && decide (e.id < before) && meets tiles (tilesRead e ++ tilesWritten e)

/-- The tile registers of a TREL mask. -/
def trelTiles (v : Word) : List Nat := (List.range 16).filter fun t => bitOf v.toNat t

/-- TREL (R114, R180): it waits for the entries that were in a queue before it and name a listed register, and then
empties the registers in one ck. -/
def execTrel (o : Ord) (h : HartN) (s : State) : Host.Outcome State Fault Refusal :=
  match xAt s o h with
  | some (.trel rs1, f) =>
    let b := beadOf s o.val
    let t := hartOf b h.val
    let before := match t.hold with
      | .trel n => n
      | _ => b.nextId
    let tiles := trelTiles (xReg t rs1)
    .next (if namesBefore b before tiles then holdAt o h (.trel before) s
      else retire o h (advance f.len) (modBead o.val (emptyTiles tiles) s))
  | _ => .next s

/-- L1 lines dropped, and no allocation for misses under way (R115, R116). -/
def l1Drop (keep : L1Line → Bool) (b : Bead) : Bead :=
  { b with l1 := b.l1.filter keep, reqs := b.reqs.map fun r => { r with noalloc := true } }

/-- L1_INV (R115): a length of 0 does nothing, one of 64 KiB or more drops every line. -/
def execL1Inv (o : Ord) (h : HartN) (s : State) : Host.Outcome State Fault Refusal :=
  match xAt s o h with
  | some (.l1Inv rs1 rs2, f) =>
    let t := hartOf (beadOf s o.val) h.val
    let a := devAddr (xReg t rs1)
    let n := (xReg t rs2).toNat
    let hit (l : L1Line) : Bool := decide (65536 ≤ n) || (decide (a / 64 ≤ l.line) && decide (l.line ≤ (a + n - 1) / 64))
    .next (retire o h (advance f.len) (if n = 0 then s else modBead o.val (l1Drop fun l => !hit l) s))
  | _ => .next s

/-- L1_INVA (R115). -/
def execL1InvA (o : Ord) (h : HartN) (s : State) : Host.Outcome State Fault Refusal :=
  match xAt s o h with
  | some (.l1InvA, f) => .next (retire o h (advance f.len) (modBead o.val (l1Drop fun _ => false) s))
  | _ => .next s

end Sys2Proof.Machine
end

