-- ==== Sys2Proof/Machine/ScalarFp.lean ====
section
/-! DEFINITION. The scalar core's F extension (R45): IEEE 754 single precision with the RISC-V rules for NaNs and flags.
A result is a pattern and the flags raised: 1 NX, 2 UF, 4 OF, 8 DZ, 16 NV. -/

namespace Sys2Proof.Machine

/-- The rounding mode of an instruction: its field, or fcsr's when the field is 7; none for a reserved one. -/
def fpRound (rm frm : Nat) : Option Rnd :=
  match (if rm = 7 then frm else rm) with
  | 0 => some .rne
  | 1 => some .rtz
  | 2 => some .rdn
  | 3 => some .rup
  | 4 => some .rmm
  | _ => none

/-- A signalling NaN. -/
def isSnan (v : Word32) : Bool := isNan (val32 v) && !bitOf v.toNat 22

/-- The result of an overflow in a rounding mode. -/
def overflowMag (rm : Rnd) (neg : Bool) : Nat :=
  match rm with
  | .rtz => 0x7F7FFFFF
  | .rdn => if neg then 0x7F800000 else 0x7F7FFFFF
  | .rup => if neg then 0x7F7FFFFF else 0x7F800000
  | _ => 0x7F800000

/-- Round a value and give the flags. [PRESUMED: log 28] -/
def fpPack (rm : Rnd) (v : FVal) : Word32 × Nat :=
  match v with
  | .nan => (nan32, 0)
  | .inf n => (w32 (packMag fp32 n 0x7F800000), 0)
  | .fin n m e =>
    let r := roundRaw fp32 rm n m e
    if 0x7F800000 ≤ r.1 then (w32 (packMag fp32 n (overflowMag rm n)), 5)
    else
      let wide := (roundRaw fp32 rm n m (e + 64)).1
      let tiny := decide (m ≠ 0) && decide (wide < 65 * 2 ^ 23)
      (w32 (packMag fp32 n r.1), b2n r.2 + (if r.2 && tiny then 2 else 0))

/-- The sum with the sign of an exact zero that the mode asks for. -/
def fpSum (rm : Rnd) (a b : FVal) : Word32 × Nat :=
  let s := valAdd a b
  let nv := isNan s && !isNan a && !isNan b
  let r := fpPack rm s
  if nv then (nan32, 16)
  else if isZero s && negOf a != negOf b then ((if rm = .rdn then 0x80000000 else 0), r.2)
  else r

/-- NV when an operand is a signalling NaN. -/
def snanFlag (l : List Word32) : Nat := if l.any isSnan then 16 else 0

/-- Flags joined. -/
def orFlags (a b : Nat) : Nat := a ||| b

/-- FADD, FSUB. [PRESUMED: log 28] -/
def fpAddF (rm : Rnd) (sub : Bool) (a b : Word32) : Word32 × Nat :=
  let r := fpSum rm (val32 a) (if sub then valNeg (val32 b) else val32 b)
  (r.1, orFlags r.2 (snanFlag [a, b]))

/-- FMUL. [PRESUMED: log 28] -/
def fpMulF (rm : Rnd) (a b : Word32) : Word32 × Nat :=
  let p := valMul (val32 a) (val32 b)
  let r := fpPack rm p
  let nv := if isNan p && !isNan (val32 a) && !isNan (val32 b) then 16 else 0
  (r.1, orFlags (orFlags r.2 nv) (snanFlag [a, b]))

/-- FDIV. [PRESUMED: log 28] -/
def fpDivF (rm : Rnd) (a b : Word32) : Word32 × Nat :=
  let p := valDiv (val32 a) (val32 b)
  let r := fpPack rm p
  let nv := if isNan p && !isNan (val32 a) && !isNan (val32 b) then 16 else 0
  let dz := if isZero (val32 b) && isFin (val32 a) && !isZero (val32 a) then 8 else 0
  (r.1, orFlags (orFlags r.2 (orFlags nv dz)) (snanFlag [a, b]))

/-- FSQRT. [PRESUMED: log 28] -/
def fpSqrtF (rm : Rnd) (a : Word32) : Word32 × Nat :=
  let p := valSqrt (val32 a)
  let r := fpPack rm p
  let nv := if isNan p && !isNan (val32 a) then 16 else 0
  (r.1, orFlags (orFlags r.2 nv) (snanFlag [a]))

/-- FMADD, FMSUB, FNMSUB, FNMADD: the product's sign and the addend's sign as asked. [PRESUMED: log 28] -/
def fpFmaF (rm : Rnd) (neg sub : Bool) (a b c : Word32) : Word32 × Nat :=
  let p0 := valMul (val32 a) (val32 b)
  let p := if neg then valNeg p0 else p0
  let c' := if neg != sub then valNeg (val32 c) else val32 c
  let r := fpSum rm p c'
  let nv := if isNan p0 && !isNan (val32 a) && !isNan (val32 b) then 16 else 0
  (r.1, orFlags (orFlags r.2 nv) (snanFlag [a, b, c]))

/-- a < b, with -0 below +0 for FMIN and FMAX. -/
def fpBelow (a b : Word32) : Bool :=
  valLt (val32 a) (val32 b) || (isZero (val32 a) && isZero (val32 b) && negOf (val32 a) && !negOf (val32 b))

/-- FMIN and FMAX. [PRESUMED: log 28] -/
def fpMinMax (big : Bool) (a b : Word32) : Word32 × Nat :=
  let fl := snanFlag [a, b]
  if isNan (val32 a) && isNan (val32 b) then (nan32, fl)
  else if isNan (val32 a) then (b, fl)
  else if isNan (val32 b) then (a, fl)
  else ((if fpBelow a b != big then a else b), fl)

/-- FLE, FLT and FEQ by funct3. -/
def fpCompare (f3 : Nat) (a b : Word32) : Nat × Nat :=
  let nan := isNan (val32 a) || isNan (val32 b)
  let lt := valLt (val32 a) (val32 b)
  let gt := valLt (val32 b) (val32 a)
  if f3 = 2 then (b2n (!nan && !lt && !gt), snanFlag [a, b])
  else
    let fl := if nan then 16 else 0
    (b2n (!nan && (lt || (f3 == 0 && !gt))), fl)

/-- The integer nearest to a finite value in a mode, and whether it was inexact. -/
def roundInt (rm : Rnd) (neg : Bool) (man : Nat) (exp : Int) : Int × Bool :=
  if 0 ≤ exp then
    let v : Nat := man * 2 ^ exp.toNat
    (if neg then -(v : Int) else v, false)
  else
    let d := (-exp).toNat
    let a := man / 2 ^ d
    let r := man % 2 ^ d
    let v : Nat := a + b2n (goesUp rm neg (a % 2 == 1) r d)
    (if neg then -(v : Int) else v, decide (r ≠ 0))

/-- Least and greatest value of a conversion's type: 0 W, 1 WU, 2 L, 3 LU. -/
def cvtRange (k : Nat) : Int × Int :=
  match k with
  | 0 => (-2147483648, 2147483647)
  | 1 => (0, 4294967295)
  | 2 => (-9223372036854775808, 9223372036854775807)
  | _ => (0, 18446744073709551615)

/-- An integer result as a register holds it: 32-bit types sign-extended. -/
def cvtReg (k : Nat) (v : Int) : Word :=
  if k < 2 then sextBits32 (BitVec.ofInt 32 v) else BitVec.ofInt 64 v
where
  sextBits32 (v : Word32) : Word := v.signExtend 64

/-- FCVT to an integer. [PRESUMED: log 28] -/
def fpToInt (rm : Rnd) (k : Nat) (a : Word32) : Word × Nat :=
  let lo := (cvtRange k).1
  let hi := (cvtRange k).2
  match val32 a with
  | .nan => (cvtReg k hi, 16)
  | .inf n => (cvtReg k (if n then lo else hi), 16)
  | .fin n m e =>
    let r := roundInt rm n m e
    if r.1 < lo then (cvtReg k lo, 16)
    else if hi < r.1 then (cvtReg k hi, 16)
    else (cvtReg k r.1, b2n r.2)

/-- FCVT from an integer. [PRESUMED: log 28] -/
def fpOfInt (rm : Rnd) (k : Nat) (x : Word) : Word32 × Nat :=
  let v : Int := match k with
    | 0 => (x.extractLsb' 0 32 : Word32).toInt
    | 1 => ((x.extractLsb' 0 32 : Word32).toNat : Int)
    | 2 => x.toInt
    | _ => (x.toNat : Int)
  fpPack rm (.fin (decide (v < 0)) v.natAbs 0)

/-- FCLASS. -/
def fpClass (a : Word32) : Word :=
  let sub := decide (bitsOf a.toNat 23 8 = 0)
  match val32 a with
  | .nan => if isSnan a then 0x100 else 0x200
  | .inf n => if n then 0x001 else 0x080
  | .fin n m _ =>
    if m = 0 then (if n then 0x008 else 0x010)
    else if sub then (if n then 0x004 else 0x020)
    else (if n then 0x002 else 0x040)

end Sys2Proof.Machine
end

