-- ==== Sys2Proof/Machine/Scalar.lean ====
section
/-! DEFINITION. The scalar core: arithmetic, branches, CSRs, traps, waits and fences (chapters 2 and 3). -/

namespace Sys2Proof.Machine

/-- The result of an integer operation by funct3, at 64 bits. [PRESUMED: log 26] -/
def aluOp (f3 : Nat) (alt : Bool) (a b : Word) : Word :=
  match f3 with
  | 0 => if alt then a - b else a + b
  | 1 => a <<< (b.toNat % 64)
  | 2 => if a.slt b then 1 else 0
  | 3 => if a.ult b then 1 else 0
  | 4 => a ^^^ b
  | 5 => if alt then a.sshiftRight (b.toNat % 64) else a >>> (b.toNat % 64)
  | 6 => a ||| b
  | _ => a &&& b

/-- The result at 32 bits, sign-extended. [PRESUMED: log 26] -/
def aluOpW (f3 : Nat) (alt : Bool) (a b : Word) : Word :=
  let x : Word32 := a.setWidth 32
  let y : Word32 := b.setWidth 32
  let r : Word32 := match f3 with
    | 0 => if alt then x - y else x + y
    | 1 => x <<< (y.toNat % 32)
    | _ => if alt then x.sshiftRight (y.toNat % 32) else x >>> (y.toNat % 32)
  r.signExtend 64

/-- Multiply, divide and remainder of the M extension at a width. [PRESUMED: log 26] -/
def mulDiv {w : Nat} (f3 : Nat) (a b : BitVec w) : BitVec w :=
  match f3 with
  | 0 => a * b
  | 1 => BitVec.ofInt w (a.toInt * b.toInt / 2 ^ w)
  | 2 => BitVec.ofInt w (a.toInt * (b.toNat : Int) / 2 ^ w)
  | 3 => BitVec.ofNat w (a.toNat * b.toNat / 2 ^ w)
  | 4 => if b = 0 then BitVec.allOnes w else BitVec.ofInt w (a.toInt.tdiv b.toInt)
  | 5 => if b = 0 then BitVec.allOnes w else BitVec.ofNat w (a.toNat / b.toNat)
  | 6 => if b = 0 then a else BitVec.ofInt w (a.toInt.tmod b.toInt)
  | _ => if b = 0 then a else BitVec.ofNat w (a.toNat % b.toNat)

/-- Whether a branch is taken, by funct3. [PRESUMED: log 26] -/
def branchTaken (f3 : Nat) (a b : Word) : Bool :=
  match f3 with
  | 0 => a == b
  | 1 => a != b
  | 4 => a.slt b
  | 5 => !a.slt b
  | 6 => a.ult b
  | _ => !a.ult b

/-- XQDONE, XQSTAT, XFAULT and XFADDR as they read (R142 to R144). -/
def xqdone (b : Bead) : Word :=
  BitVec.ofNat 64 ((List.range 4).foldl (fun a q => a + (queueOf b q).done.toNat * 2 ^ (16 * q)) 0)
def xqstat (b : Bead) : Word :=
  BitVec.ofNat 64 ((List.range 4).foldl (fun a q =>
    a + (queueOf b q).ents.length * 2 ^ (8 * q) + b2n (queueOf b q).stop * 2 ^ (32 + q)) 0)
def xfault (b : Bead) : Word :=
  let q := queueOf b b.xfsel.toNat
  if q.stop then BitVec.ofNat 64 (q.xrec.insn.toNat + q.xrec.code.toNat * 2 ^ 32 + q.xrec.hart.toNat * 2 ^ 38 +
    q.xrec.part.toNat * 2 ^ 40 + 2 ^ 63) else 0
def xfaddr (b : Bead) : Word :=
  let q := queueOf b b.xfsel.toNat
  if q.stop then q.xrec.addr.setWidth 64 else 0

/-- mstatus as it reads: UXL is 2, and FS reads dirty with SD (PRESUMED of RISC-V). [PRESUMED: log 27] -/
def mstatusRead (m : Word) : Word := m ||| 0x8000000200006000#64

/-- The value of a CSR, where it exists (R45, R140). [PRESUMED: log 27] -/
def csrRead (s : State) (o : Ord) (h : HartN) (num : Nat) : Option Word :=
  let b := beadOf s o.val
  let t := hartOf b h.val
  match num with
  | 0x001 => some (BitVec.ofNat 64 (t.fcsr.toNat % 32))
  | 0x002 => some (BitVec.ofNat 64 (t.fcsr.toNat / 32))
  | 0x003 => some (t.fcsr.setWidth 64)
  | 0x300 => some (mstatusRead t.mstatus)
  | 0x301 => some 0x8000000000901125#64
  | 0x304 => some (if t.qfie then 0x10000#64 else 0)
  | 0x305 => some t.mtvec
  | 0x340 => some t.mscratch
  | 0x341 => some t.mepc
  | 0x342 => some t.mcause
  | 0x343 => some t.mtval
  | 0x344 => some (if qfip b then 0x10000#64 else 0)
  | 0xF11 | 0xF12 | 0xF13 | 0xF15 => some 0
  | 0xF14 => some (BitVec.ofNat 64 (4 * o.val + h.val))
  | 0x800 => some (t.tcfg.setWidth 64)
  | 0x801 => some (t.resumeRow.setWidth 64)
  | 0xCC0 => some (xqdone b)
  | 0xCC1 => some (xqstat b)
  | 0x7C0 => some (b.xfsel.setWidth 64)
  | 0x7C1 => some 0
  | 0xFC0 => some (xfault b)
  | 0xFC1 => some (xfaddr b)
  | n =>
    if 0xCC8 ≤ n ∧ n ≤ 0xCCF then some ((tblGet 0 s.asy.vals (8 * o.val + (n - 0xCC8))).setWidth 64) else none

/-- A CSR of a hart written; the writable bits are those the CSR's rule gives. [PRESUMED: log 27] -/
def csrWriteHart (num : Nat) (v : Word) (t : Hart) : Hart :=
  match num with
  | 0x001 => { t with fcsr := BitVec.ofNat 8 (t.fcsr.toNat / 32 * 32 + v.toNat % 32) }
  | 0x002 => { t with fcsr := BitVec.ofNat 8 (t.fcsr.toNat % 32 + v.toNat % 8 * 32) }
  | 0x003 => { t with fcsr := v.setWidth 8 }
  | 0x300 => { t with mstatus := if bitsOf v.toNat 11 2 = 1 ∨ bitsOf v.toNat 11 2 = 2
      then (v &&& 0x88#64) ||| (t.mstatus &&& 0x1800#64) else v &&& 0x1888#64 }
  | 0x304 => { t with qfie := bitOf v.toNat 16 }
  | 0x305 => { t with mtvec := v &&& ~~~ (2#64) }
  | 0x340 => { t with mscratch := v }
  | 0x341 => { t with mepc := v &&& ~~~ (1#64) }
  | 0x342 => { t with mcause := v }
  | 0x343 => { t with mtval := v }
  | 0x800 => { t with tcfg := v.setWidth 28 &&& 0xF7F7F7F#28 }
  | 0x801 => { t with resumeRow := v.setWidth 6 }
  | _ => t

/-- A CSR write that may reach the bead's own XFSEL. -/
def csrWriteBead (h : HartN) (num : Nat) (v : Word) (b : Bead) : Bead :=
  if num = 0x7C0 then { b with xfsel := v.setWidth 2 } else modHart h.val (csrWriteHart num v) b

/-- A CSR access as an instruction asks for it: number, whether it writes, the value to write and the old value; none for
an access that raises illegal instruction (R140). -/
structure CsrUse where
  num : Nat
  writes : Bool
  old : Word
  new : Word
  rd : Fin 32
  deriving DecidableEq, Repr

/-- The access of a CSR instruction. [PRESUMED: log 27] -/
def csrUse (s : State) (o : Ord) (h : HartN) (f3 : Nat) (rd rs1 : Fin 32) (num : Nat) : Option CsrUse :=
  let t := hartOf (beadOf s o.val) h.val
  match csrRead s o h num with
  | none => none
  | some old =>
    let writes := decide (f3 % 4 = 1) || decide (rs1 ≠ 0)
    let src := if 4 ≤ f3 then BitVec.ofNat 64 rs1.val else xReg t rs1
    let new := match f3 % 4 with
      | 1 => src
      | 2 => old ||| src
      | _ => old &&& ~~~ src
    if (t.userMode && decide (bitsOf num 8 2 ≠ 0)) || (writes && decide (bitsOf num 10 2 = 3)) then none
    else some ⟨num, writes, old, new, rd⟩

/-- The kinds of CSR instruction that have rows of their own. -/
inductive CsrRow where
  | plain | xmacel | resume | discard
  deriving DecidableEq, Repr

/-- Which row a CSR access belongs to. -/
def csrRow (u : CsrUse) : CsrRow :=
  if !u.writes then .plain
  else if u.num = 0x7C1 then (if bitsOf u.new.toNat 4 4 ≠ 0 then .discard else .resume)
  else if u.num = 0x800 ∨ u.num = 0x801 ∨ u.num = 0x7C0 then .xmacel
  else .plain

/-- A CSR access takes effect: the register, then rd with the old value. -/
def csrDo (o : Ord) (h : HartN) (len : Nat) (u : CsrUse) (s : State) : State :=
  let s1 := if u.writes then modBead o.val (csrWriteBead h u.num u.new) s else s
  retire o h (fun t => advance len (setX u.rd u.old t)) s1

/-- A floating-point result with its flags. -/
def fpDone (rd : Fin 32) (r : Word32 × Nat) (t : Hart) : Hart :=
  { setF rd r.1 t with fcsr := t.fcsr ||| BitVec.ofNat 8 r.2 }

/-- An OP-FP instruction on a hart; none for a reserved rounding mode. [PRESUMED: log 28] -/
def fpExec (f5 : Nat) (rs2f : Fin 32) (rm : Nat) (rd rs1 : Fin 32) (t : Hart) : Option Hart :=
  let a := fReg t rs1
  let b := fReg t rs2f
  let rnd := fpRound rm (t.fcsr.toNat / 32)
  match f5 with
  | 0 => rnd.map fun r => fpDone rd (fpAddF r false a b) t
  | 1 => rnd.map fun r => fpDone rd (fpAddF r true a b) t
  | 2 => rnd.map fun r => fpDone rd (fpMulF r a b) t
  | 3 => rnd.map fun r => fpDone rd (fpDivF r a b) t
  | 0x0B => rnd.map fun r => fpDone rd (fpSqrtF r a) t
  | 4 =>
    let sign := match rm with
      | 0 => b &&& 0x80000000#32
      | 1 => ~~~ b &&& 0x80000000#32
      | _ => (a ^^^ b) &&& 0x80000000#32
    some (setF rd ((a &&& 0x7FFFFFFF#32) ||| sign) t)
  | 5 => some (fpDone rd (fpMinMax (rm == 1) a b) t)
  | 0x14 =>
    let r := fpCompare rm a b
    some { setX rd (BitVec.ofNat 64 r.1) t with fcsr := t.fcsr ||| BitVec.ofNat 8 r.2 }
  | 0x18 => rnd.map fun r =>
    let v := fpToInt r rs2f.val a
    { setX rd v.1 t with fcsr := t.fcsr ||| BitVec.ofNat 8 v.2 }
  | 0x1A => rnd.map fun r => fpDone rd (fpOfInt r rs2f.val (xReg t rs1)) t
  | 0x1C => some (setX rd (if rm = 1 then fpClass a else a.signExtend 64) t)
  | _ => some (setF rd ((xReg t rs1).setWidth 32) t)

/-- What a plain scalar instruction does to its hart. -/
inductive ScalarDo where
  | hart (t : Hart)
  | trap (cause : Nat) (tval : Word)
  /-- Not an instruction of this row. -/
  | other
  deriving DecidableEq, Repr

/-- A taken jump's new pc; an odd target loses its low bit. -/
def jumpTo (t : Hart) (v : Word) : Hart := { t with pc := v &&& ~~~ (1#64), hold := .none }

/-- The scalar instructions that touch neither memory nor the queues. CSR accesses and waits stand elsewhere. -/
def scalarDo (b : Bead) (h : HartN) (f : Fetched) : ScalarDo :=
  let t := hartOf b h.val
  let next := t.pc + BitVec.ofNat 64 f.len
  -- a fetch that reaches past 0xFFFF: the offset is the pc's, or that of an instruction's second half (R64)
  if f.len = 0 then .trap 1 (if t.pc.toNat ≤ 0xFFFF then 0x10000 else t.pc)
  else
    match f.insn with
    | .illegal => .trap 2 (f.word.setWidth 64)
    | .lui rd imm => .hart (advance f.len (setX rd imm t))
    | .auipc rd imm => .hart (advance f.len (setX rd (t.pc + imm) t))
    | .jal rd imm => .hart (jumpTo (setX rd next t) (t.pc + imm))
    | .jalr rd rs1 imm => .hart (jumpTo (setX rd next t) (xReg t rs1 + imm))
    | .branch f3 rs1 rs2 imm =>
      .hart (if branchTaken f3 (xReg t rs1) (xReg t rs2) then jumpTo t (t.pc + imm) else advance f.len t)
    | .opImm f3 alt w rd rs1 imm =>
      let v := if w then aluOpW f3 alt (xReg t rs1) imm else aluOp f3 alt (xReg t rs1) imm
      .hart (advance f.len (setX rd v t))
    | .op f3 f7 w rd rs1 rs2 =>
      let a := xReg t rs1
      let c := xReg t rs2
      let v :=
        if f7 = 1 then
          if w then (mulDiv f3 (a.setWidth 32 : Word32) (c.setWidth 32)).signExtend 64 else mulDiv f3 a c
        else if w then aluOpW f3 (f7 == 32) a c else aluOp f3 (f7 == 32) a c
      .hart (advance f.len (setX rd v t))
    | .ecall => .trap (if t.userMode then 8 else 11) 0
    | .ebreak => .trap 3 t.pc
    | .mret => if t.userMode then .trap 2 (f.word.setWidth 64) else .hart { trapReturn t with hold := .none }
    | .fma neg sub rd rs1 rs2 rs3 rm =>
      match fpRound rm (t.fcsr.toNat / 32) with
      | none => .trap 2 (f.word.setWidth 64)
      | some r => .hart (advance f.len (fpDone rd (fpFmaF r neg sub (fReg t rs1) (fReg t rs2) (fReg t rs3)) t))
    | .fop f5 rs2f rm rd rs1 =>
      match fpExec f5 rs2f rm rd rs1 t with
      | none => .trap 2 (f.word.setWidth 64)
      | some t' => .hart (advance f.len t')
    | _ => .other

/-- SCALAR_INSTRUCTION (R45, R46): arithmetic, branches, environment calls and returns, CSR accesses without a row of
their own, and the trap of an illegal instruction or a fetch past the instruction memory. -/
def execScalarInstruction (o : Ord) (h : HartN) (s : State) : Host.Outcome State Fault Refusal :=
  match fetched s o.val h.val with
  | none => .next s
  | some f =>
    match scalarDo (beadOf s o.val) h f with
    | .hart t => .next (retire o h (fun _ => t) s)
    | .trap cause tval => .next (trapAt o h cause tval s)
    | .other =>
      match f.insn with
      | .csr f3 rd rs1 num =>
        match csrUse s o h f3 rd rs1 num with
        | none => .next (trapAt o h 2 (f.word.setWidth 64) s)
        | some u => whenOk s (csrRow u == .plain) (csrDo o h f.len u s)
      | _ => .next s

/-- CSR_WRITE (R140): a write of TCFG, TILE_RESUME_ROW or XFSEL. -/
def execCsrWrite (o : Ord) (h : HartN) (s : State) : Host.Outcome State Fault Refusal :=
  match fetched s o.val h.val with
  | some ⟨.csr f3 rd rs1 num, _, len⟩ =>
    match csrUse s o h f3 rd rs1 num with
    | some u => whenOk s (csrRow u == .xmacel) (csrDo o h len u s)
    | none => .next s
  | _ => .next s

/-- WFI (R71): the hart waits for a boundary or an enabled interrupt; one that is pending ends the wait at once. -/
def execWfi (o : Ord) (h : HartN) (s : State) : Host.Outcome State Fault Refusal :=
  match fetched s o.val h.val with
  | some ⟨.wfi, _, len⟩ =>
    let b := beadOf s o.val
    let stay := qfip b && (hartOf b h.val).qfie
    .next (retire o h (fun t => { advance len t with run := if stay then .running else .wfi }) s)
  | _ => .next s

/-- A FENCE whose predecessor set has W holds the hart while stores of its own have not returned (R62).
[DEDUCED: log 86] -/
def fenceDo (o : Ord) (h : HartN) (len : Nat) (waits : Bool) (s : State) : State :=
  if waits && decide ((hartOf (beadOf s o.val) h.val).stores ≠ 0) then holdAt o h .fence s
  else retire o h (advance len) s

/-- FENCE (R62): bit 0 of the predecessor set is W. Loads hold issue until they return, so R never waits (R807).
[DEDUCED: log 86] -/
def execFence (o : Ord) (h : HartN) (s : State) : Host.Outcome State Fault Refusal :=
  match fetched s o.val h.val with
  | some ⟨.fence pred, _, len⟩ => .next (fenceDo o h len (bitOf pred 0) s)
  | _ => .next s

/-- FENCE.I (R66): as a FENCE with all bits set. [DEDUCED: log 86] -/
def execFenceI (o : Ord) (h : HartN) (s : State) : Host.Outcome State Fault Refusal :=
  match fetched s o.val h.val with
  | some ⟨.fenceI, _, len⟩ => .next (fenceDo o h len true s)
  | _ => .next s

/-- Whether a hart takes the queue-fault interrupt: it runs or waits, QFIP and QFIE are set, and its mode lets it.
[DESIGN CHOICE: log 85] -/
def takesQfip (b : Bead) (h : Nat) : Bool :=
  let t := hartOf b h
  t.run != .stopped && qfip b && t.qfie && (t.userMode || mieBit t.mstatus) && !atomicOut b h

/-- QFIP_TRAP (R134, R808): cause 16; a held instruction runs again from the start when the trap returns.
[DESIGN CHOICE: log 85] -/
def execQfipTrap (o : Ord) (h : HartN) (s : State) : Host.Outcome State Fault Refusal :=
  whenOk s (beadRuns s o.val && takesQfip (beadOf s o.val) h.val)
    (modBead o.val (fun b => modHart h.val (takeTrap true 16 0) (giveUp h.val b)) s)

end Sys2Proof.Machine
end

