-- ==== Sys2Proof/Machine/Entries.lean ====
section
/-! DEFINITION. Queue entries start and complete; stopped queues are resumed or discarded (chapters 2 and 3). -/

namespace Sys2Proof.Machine

/-- The start of an entry is recorded: what it writes is its own from here on (R160). -/
def markStarted (q : Nat) (e : QEntry) (b : Bead) : Bead :=
  modEntry q e.id (fun x => { x with st := .started, began := true }) b

/-- The tile registers that an entry writes become FILLING (R159). -/
def fillingTiles (e : QEntry) (b : Bead) : Bead :=
  (tilesWritten e).foldl (fun b t => modTile t (fun k => { k with st := .filling }) b) b

/-- An entry faults at its start. -/
def failStart (o q : Nat) (e : QEntry) (code part addr : Nat) (s : State) : State := failEntry o q e.id code part addr s

/-- A matrix entry that has passed its checks: the mask word decides whether it starts (R296). -/
def startMasked (o : Nat) (e : QEntry) (s : State) : State :=
  if e.prepBad.isSome then failStart o 0 e fcBadHandle 0 0 s
  else if maskUnread (beadOf s o) e then readMask o e s
  else if e.maskPoison then failStart o 0 e fcPoison 0 (dBase e.d1) s
  else modBead o (fun b => takeUp e (markStarted 0 e b)) s

/-- A matrix entry starts, reads a mask word that could not be read before, or faults (R98, R105, R192, R296).
[DEDUCED: log 30; DESIGN CHOICE: log 32] -/
def startMatrix (o : Nat) (e : QEntry) (s : State) : State :=
  match resourceFault (beadOf s o) 0 e with
  | some c => failStart o 0 e c 0 0 s
  | none =>
    match matrixFault s o e with
    | some (c, part) => failStart o 0 e c part 0 s
    | none => startMasked o e s

/-- A matrix entry can be tried. -/
def matrixCanStart (b : Bead) (e : QEntry) : Bool := (arraysOf e).all (arrayQualifies b e) && !maskAsked b e

/-- An earlier transfer of the L-queue that is not complete names one of the entry's tile registers: the entry waits for it.
R98 speaks of entries of other queues, and R159 would fault a FILLING register. [DESIGN CHOICE: log 106] -/
def tileClash (b : Bead) (e : QEntry) : Bool :=
  ((queueOf b 1).ents.takeWhile fun x => x.id != e.id || x.barrier != 0).any fun x =>
    x.barrier == 0 && (meets (tilesWritten x) (tilesRead e ++ tilesWritten e) || meets (tilesRead x) (tilesWritten e))

/-- The checks of a TLD or TST at its start (R98, R156, R169): fault code; R98 first, and the odd register of a pair with
the format. [DEDUCED: log 30] -/
def transferFault (s : State) (o : Nat) (e : QEntry) (t : Nat) (store : Bool) : Option Nat :=
  let d := e.d1
  match resourceFault (beadOf s o) 1 e with
  | some c => some c
  | none =>
    match descFault s d false with
    | some c => some c
    | none =>
      if gridTiles d ≤ owTile e.v2 then some fcShape
      else if dEtype d ≠ etypeOfFmt (tcFmt e.tcfg) ∨ (tcSplit e.tcfg ∧ t % 2 = 1) then some fcFormat
      else if store && (dRo d || dGenv d) then some fcProtection
      else none

/-- A strand is told to stop (R111, R353): what it has not requested it leaves, and the feeders keep what they hold. -/
def stopStrand (n : Nat) (b : Bead) : Bead :=
  let b1 := modStrand n (fun k => if k.running then { k with
      stopping := true, left := k.left ++ k.runs.filter fun x => x.fed, runs := k.runs.filter fun x => !x.fed } else k) b
  { b1 with reqs := b1.reqs.filter fun r => !(strandReqOf n r && r.st != .issued) }

/-- An L-queue entry starts or faults. -/
def startLoad (o : Nat) (e : QEntry) (s : State) : State :=
  match e.insn with
  | .tld t _ _ _ =>
    match transferFault s o e t.val false with
    | some c => failStart o 1 e c e.startRow 0 s
    | none => modBead o (fun b => fillingTiles e (markStarted 1 e b)) s
  | .tst t _ _ =>
    match transferFault s o e t.val true with
    | some c => failStart o 1 e c e.startRow 0 s
    | none => modBead o (markStarted 1 e) s
  | .strGo n _ =>
    let s0 := lookDesc o n.val (devAddr e.v1) s
    match strandGo o n.val (devAddr e.v1) s0 with
    | .fault c a =>
      let s1 := failStart o 1 e c 0 a s0
      if c = fcInvalid then recordInvalid o a 0 s1 else s1
    | .go t => modBead o (markStarted 1 e) t
  | .strStop n => modBead o (fun b => stopStrand n.val (markStarted 1 e b)) (feedStrand o n.val s)
  | .dtFill _ _ => if 4096 < fillFirst e + fillCount e then failStart o 1 e fcBadHandle 0 0 s else modBead o (markStarted 1 e) s
  | _ => s

/-- The row and address of the first bad granule of a DSTACC destination (R144, R270), at an entry's start. -/
def startPoison (s : State) (o : Nat) (e : QEntry) : Option (Nat × Nat) :=
  if hDstacc (headerOfEntry e) then destPoison s o e (headerOfEntry e) else none

/-- A drain entry starts or faults (R809): orders 1 to 6, then what preparation has found, then a DSTACC destination's
poison. [DEDUCED: log 34] -/
def startDrain (o : Nat) (e : QEntry) (u : DrainUse) (s : State) : State :=
  match drainFault s o e u with
  | some c => failStart o 2 e c 0 0 s
  | none =>
    match e.prepBad with
    | some (c, part, addr) =>
      let s1 := failStart o 2 e c.toNat part.toNat addr.toNat s
      if c.toNat = fcInvalid then recordInvalid o addr.toNat 0 s1 else s1
    | none =>
      match startPoison s o e with
      | some (r, a) => failStart o 2 e fcPoison r a (lookOwn o ((a - ownBase o) / 32) s)
      | none => modBead o (fun b => fillingTiles e
          (modEntry 2 e.id (fun x => { x with next := if u.nowr then 64 else 0, fin := 0 }) (markStarted 2 e b))) s

/-- An S-queue entry starts or faults; an invalid target is recorded too (R683). -/
def startS (o : Nat) (e : QEntry) (s : State) : State :=
  let s0 := modBead o (fun b => modEntry 3 e.id (fun x => { x with next := 0, fin := 0 }) (markStarted 3 e b)) s
  match claspOp e with
  | some op =>
    match claspStart o op e s0 with
    | .fault c =>
      let s1 := failStart o 3 e c 0 0 s
      if c = fcInvalid then recordInvalid o (e.v1.toNat % 2 ^ 29) 1 s1 else s1
    | .go t => t
  | none =>
    match chStart o e s0 with
    | .fault c =>
      let s1 := failStart o 3 e c 0 (if chControl e then chAddr e else 0) s
      if c = fcInvalid then recordInvalid o (chAddr e) 2 s1 else s1
    | .go t => t

/-- The transfer engine has no row of an earlier transfer to move: the next one's first row can be its next (R108). -/
def engineFree (b : Bead) : Bool :=
  !(queueOf b 1).ents.any fun e =>
    e.barrier == 0 && e.st == .started && e.bad.isNone && decide (e.next < rowLimit e)

/-- Whether what an entry waits for beyond its turn lets it start: a transfer and a drain start with their first row (R108,
R120, R192, R265, R266, R274); a clasp entry whose operation travels needs a request slot (R362). -/
def canStart (s : State) (o q : Nat) (e : QEntry) : Bool :=
  let b := beadOf s o
  e.bad.isNone &&
  (match q with
   | 0 => matrixCanStart b e
   | 1 => !tileClash b e && (rowLimit e == 0 || engineFree b)
   | 2 => (drainUse e).any fun u => !filesWait b e u && unitFree b u.unit && (e.prepared || !toCheck e u) &&
       (u.nowr || drainRoom b u.unit e u)
   | _ => !claspTravels o e || reqSlotFree b)

/-- An entry's start by its queue. -/
def startEntry (o q : Nat) (e : QEntry) (s : State) : State :=
  match q with
  | 0 => startMatrix o e s
  | 1 => startLoad o e s
  | 2 => match drainUse e with
    | some u => startDrain o e u s
    | none => s
  | _ => startS o e s

/-- A request of a queue entry. -/
def entryReq (id : Nat) (r : Req) : Bool :=
  match r.owner with
  | .tileRow e _ => e == id
  | .drainRow e _ => e == id
  | .mask e => e == id
  | .chain e _ => e == id
  | .sent e _ _ => e == id
  | .clasp e => e == id
  | _ => false

/-- The requests of an entry that have not left are dropped, with the data that waits for a chain engine; the answers of
those that have left find no taker (R135, R136). -/
def dropReqsOf (id : Nat) (b : Bead) : Bead :=
  { b with reqs := (b.reqs.filter fun r => !(entryReq id r && (r.st != .issued || r.slot.isNone))).map fun r =>
      if entryReq id r then abandon r else r }

/-- An entry as it comes to its start: the ck, and what the registers that it writes and its drain unit hold, as an entry that
gives way to it found them (R99). -/
def atStart (s : State) (o : Nat) (e : QEntry) : QEntry :=
  let b := beadOf s o
  { e with
    at_ := absCk s + 1
    found := (tilesWritten e).map fun t => (t, tileOf b t)
    foundLfsr := (drainUse e).bind fun u => (drainOf b u.unit).lfsr
    yielded := false }

/-- What an entry that gives way has begun is as it found it: registers, drain unit, requests, rows (R99). -/
def undoStart (k : Nat) (x : QEntry) (b : Bead) : Bead :=
  let b1 := x.found.foldl (fun b p => setTile p.1 p.2 b) (dropReqsOf x.id b)
  let b2 := match drainUse x with
    | some u => modDrain u.unit (fun d => { d with
        lfsr := x.foundLfsr, jobs := d.jobs.filter fun j => j.entry != x.id
        held := if holdsStats x u then none else d.held }) b1
    | none => b1
  modEntry k x.id (fun y => { y with
    began := x.found.any fun p => p.2.st == .filling
    yielded := true, next := x.startRow, fin := x.startRow, poisonAt := none, poisonAddr := 0 }) b2

/-- An entry of a later queue that has started in the same ck gives way: it ends with the fault (R99). -/
def giveWay (o k code : Nat) (x : QEntry) (s : State) : State :=
  failEntry o k x.id code x.startRow 0 (modBead o (undoStart k x) s)

/-- Conflicting entries of later queues that started in the same ck give way to an entry (R99). -/
def displace (o q : Nat) (e : QEntry) (s : State) : State :=
  upTo 4 (fun t k =>
    ((queueOf (beadOf t o) k).ents.filter fun x => decide (q < k) && justStarted (absCk s + 1) x).foldl (fun t x =>
      if tileConflict e x then giveWay o k fcTileBusy x t
      else if accConflict e x then giveWay o k fcAccBusy x t
      else t) t) s

/-- An entry is tried on a state: it becomes what it is at its start, and is checked. -/
def tryEntry (o q : Nat) (e0 : QEntry) (s : State) : State :=
  let e := atStart s o e0
  startEntry o q e (modBead o (modEntry q e.id fun _ => e) s)

/-- An entry that starts has displaced what conflicts with it; one that faults, or only asks for its mask, displaces nothing,
and takes the fault that it would have met (R99). -/
def startOver (o q : Nat) (e : QEntry) (s : State) : State :=
  let t := tryEntry o q e (displace o q e s)
  match findEntry (beadOf t o) q e.id with
  | some x =>
    match x.bad with
    | some (c, p, a) => if q = 0 then failEntry o 0 e.id c.toNat p.toNat a.toNat s else tryEntry o q e s
    | none => if x.st = .started then t else tryEntry o q e s
  | none => t

/-- An entry starts: it is checked, may displace others, and the M-queue's next one reads its mask (R80, R98, R99, R296). -/
def beginEntry (o q : Nat) (e : QEntry) (s : State) : State := maskDue o (feedAll o (startOver o q e s))

/-- ENTRY_START (R80, R98, R99, R100). -/
def execEntryStart (o : Ord) (q : QueueN) (s : State) : Host.Outcome State Fault Refusal :=
  match nextToStart (beadOf s o.val) q.val with
  | some e =>
    whenOk s (beadRuns s o.val && !holding s && canStart s o.val q.val e) (beginEntry o.val q.val e s)
  | none => .next s

/-- The first request of a strand has left, or it has none to make (R110, R347). -/
def strandAsked (b : Bead) (n : Nat) : Bool :=
  let k := strandOf b n
  !k.running || sdRuns k.desc == 0 || k.index != [] ||
  (b.reqs.any fun r => match r.owner with
    | .index m _ => m.val == n && r.st == .issued
    | _ => false) ||
  (decide (0 < k.next) && !b.reqs.any fun r => match r.owner with
    | .run m i => m.val == n && i == 0 && r.st != .issued
    | _ => false)

/-- Every request that a strand has outstanding has returned (R111). -/
def strandQuiet (b : Bead) (n : Nat) : Bool :=
  !b.reqs.any fun r => match r.owner with
    | .run m _ => m.val == n && r.st == .issued
    | .index m _ => m.val == n && r.st == .issued
    | _ => false

/-- An entry's work is done. -/
def entryFinished (s : State) (o q : Nat) (e : QEntry) : Bool :=
  let b := beadOf s o
  match q with
  | 0 => matrixFinished b e
  | 1 =>
    match e.insn with
    | .strGo n _ => strandAsked b n.val
    | .strStop n => !(strandOf b n.val).running || strandQuiet b n.val
    | _ => decide (rowLimit e ≤ e.fin)
  | 2 => (drainUse e).any fun u => decide (drainTotal u ≤ e.fin)
  | _ => sFinished s o e

/-- The rows of a tile register that lie wholly outside a descriptor's tile shape or tensor. -/
def outerRows (d : BitVec 512) (t : Nat) : Nat :=
  (List.range 64).foldl (fun m r => m + (if rowElems d t r = 0 then 2 ^ r else 0)) 0

/-- The fill of a completing TLD (R162, R172, R179): +0 outside the tile shape and the tensor, in every row; a row that
lies there whole is poisoned no more. -/
def fillTile (e : QEntry) (t : Nat) (b : Bead) : Bead :=
  modTile t (fun k =>
    { st := .full
      poison := k.poison &&& ~~~ BitVec.ofNat 64 (outerRows e.d1 (owTile e.v2))
      elems := k.elems.filter fun p => decide (p.1 % 64 < rowElems e.d1 (owTile e.v2) (p.1 / 64)) }) b

/-- A copy strand's head run, where its write is acknowledged; one that stops consumes what it has under way too (R377). -/
def copyHead (b : Bead) (n : Nat) : Option StrandRun :=
  let k := strandOf b n
  if k.running then k.runs.head?.filter fun x => x.got else none

/-- A copy strand that has stopped consumes the runs that have been acknowledged, in order (R349, R377). -/
def consumeAcked (o n : Nat) (s : State) : State :=
  upTo 64 (fun t _ => match (copyHead (beadOf t o) n).filter fun _ => sdTarget (strandOf (beadOf t o) n).desc != 0 with
    | some x => consumeRun o n (deliverRun o n x t)
    | none => t) s

/-- The effect of an entry's completion on the bead and, for strands, beyond it. -/
def completeEffect (o q : Nat) (e : QEntry) (s : State) : State :=
  match q with
  | 0 => modBead o (settleAccs e) s
  | 1 =>
    match e.insn with
    | .tld .. => modBead o (fun b => (tilesWritten e).foldl (fun b t => fillTile e t b) b) s
    | .strGo n _ =>
      let k := strandOf (beadOf s o) n.val
      if k.running && sdRuns k.desc == 0 then endStrand o n.val 0 false s else s
    | .strStop n =>
      let t := consumeAcked o n.val s
      if (strandOf (beadOf t o) n.val).running then endStrand o n.val 0 true t else t
    | _ => s
  | 2 =>
    match drainUse e with
    | some u => modBead o (drainComplete e u) s
    | none => s
  | _ => modBead o (fun b => { b with reqs := b.reqs.filter fun r => r.owner != .clasp e.id }) s

/-- The head entry completes: OK, or with DATA_POISON where it has met poison on its way (R97, R109, R112, R132). -/
def completeEntry (o q : Nat) (e : QEntry) (s : State) : State :=
  let s1 := completeEffect o q e s
  match e.poisonAt with
  | some part => stopQueue o q e fcPoison part e.poisonAddr.toNat s1
  | none => popHead o q (modBead o (modQueue q fun k => { k with done := k.done + 1 }) s1)

/-- ENTRY_COMPLETE (R80, R97). -/
def execEntryComplete (o : Ord) (q : QueueN) (s : State) : Host.Outcome State Fault Refusal :=
  match runningHead (beadOf s o.val) q.val with
  | some e =>
    whenOk s (beadRuns s o.val && entryFinished s o.val q.val e)
      (maskDue o.val (completeEntry o.val q.val e s))
  | none => .next s

/-- A stopped queue's faulted entry starts over (R136, R145, R178). -/
def resumeQueue (q : Nat) (b : Bead) : Bead :=
  let k := queueOf b q
  match k.ents with
  | [] => setQueue q { k with stop := false, xrec := {} } b
  | e :: rest =>
    let row := takesRow e.insn
    let start := if row then (hartOf b e.hart.val).resumeRow.toNat else 0
    let e1 : QEntry := { e with
      st := .waiting, next := start, fin := start, startRow := start, poisonAt := none, poisonAddr := 0, bad := none
      began := e.began && !(tilesWritten e).isEmpty && q == 1, at_ := 0, found := [], foundLfsr := none, yielded := false, passA := 0, rowA := 0, passB := 0, rowB := 0, maskWord := none
      maskPoison := false, reuse := 0, retA := 0, retB := 0, asked := 0, prepared := false, prepBad := none, params := []
      pages := [] }
    let b1 := setQueue q { k with ents := e1 :: rest, stop := false, xrec := {} } (dropReqsOf e.id b)
    if row then modHart e.hart.val (fun t => { t with resumeRow := 0 }) b1 else b1

/-- What the removal of an entry by DISCARD does (R135, R160, R214). Of a STR.GO, STR.STOP or DT.FILL that had started, what
it has done stands. [DESIGN CHOICE: log 91, 108] -/
def discardEntry (q : Nat) (b : Bead) (e : QEntry) : Bead :=
  if e.barrier ≠ 0 then dropBarrier e.barrier b
  else
    let b1 := dropReqsOf e.id b
    let filling := if e.began then (tilesWritten e).filter fun t => (tileOf b t).st == .filling else []
    match q with
    | 0 =>
      if e.began then
        (arraysOf e).foldl (fun b a =>
          if (arrayOf b a).flight.any fun j => j.entry == e.id then b else emptyAcc (accKeyOf e a) b) (leaveArrays e.id b1)
      else leaveArrays e.id b1
    | 1 => emptyTiles filling b1
    | 2 =>
      match drainUse e with
      | some u => modDrain u.unit (fun d => { d with
          held := if e.began && holdsStats e u then none else d.held
          jobs := d.jobs.filter fun j => j.entry != e.id }) (emptyTiles filling b1)
      | none => b1
    | _ => b1

/-- A stopped queue is emptied (R135, R137, R145). [DESIGN CHOICE: log 91] -/
def discardQueue (q : Nat) (b : Bead) : Bead :=
  let k := queueOf b q
  releaseBarriers (k.ents.foldl (discardEntry q) (setQueue q { k with ents := [], stop := false, xrec := {} } b))

/-- A write of XQCTL (R135, R136, R144): DISCARD before RESUME, nothing for a queue that is not stopped. -/
def xqctlWrite (o : Nat) (v : Word) (s : State) : State :=
  let s1 := upTo 4 (fun t q =>
    let b := beadOf t o
    if (queueOf b q).stop then
      if bitOf v.toNat (4 + q) then
        recountAll (queueOf b q).ents q (setBead o (discardQueue q b) t)
      else if bitOf v.toNat q then setBead o (resumeQueue q b) t else t
    else t) s
  maskDue o (upTo 4 (fun t q => settleHead o q t) s1)
where
  -- cell slots of started matrix entries that DISCARD removes belong to no entry that completes OK
  recountAll (l : List QEntry) (q : Nat) (t : State) : State :=
    if q = 0 then l.foldl (fun t e => if e.barrier == 0 && e.st == .started then recount o e t else t) t else t

/-- An access to XQCTL by a hart's CSR instruction. -/
def xqctlUse (s : State) (o : Ord) (h : HartN) (row : CsrRow) : Option (CsrUse × Nat) :=
  match fetched s o.val h.val with
  | some ⟨.csr f3 rd rs1 num, _, len⟩ =>
    match csrUse s o h f3 rd rs1 num with
    | some u => if csrRow u = row then some (u, len) else none
    | none => none
  | _ => none

/-- The CSR instruction completes, then its write acts on the queues. -/
def xqctlDo (o : Ord) (h : HartN) (u : CsrUse) (len : Nat) (s : State) : State :=
  xqctlWrite o.val u.new (retire o h (fun t => advance len (setX u.rd u.old t)) s)

/-- XQCTL_RESUME (R136). -/
def execXqctlResume (o : Ord) (h : HartN) (s : State) : Host.Outcome State Fault Refusal :=
  match xqctlUse s o h .resume with
  | some (u, len) => .next (xqctlDo o h u len s)
  | none => .next s

/-- XQCTL_DISCARD (R135). -/
def execXqctlDiscard (o : Ord) (h : HartN) (s : State) : Host.Outcome State Fault Refusal :=
  match xqctlUse s o h .discard with
  | some (u, len) => .next (xqctlDo o h u len s)
  | none => .next s

/-- The array whose stream takes a FEED strand's next row (R351). -/
def strandConsumer (b : Bead) (n : Nat) : Option (Nat × QEntry) :=
  if sdTarget (strandOf b n).desc != 0 then none
  else (List.range 2).findSome? fun a =>
    (rowDue b a).bind fun e =>
      if strandSource e = some n ∧ !(isBwd e && a == 1) then some (a, e) else none

/-- A copy strand's head run, once written, is consumed (R349), void or not by the view of now: one that is void no more is
fetched at last (R358). -/
def copyConsume (o n : Nat) (x : StrandRun) (s : State) : State :=
  let d := (strandOf (beadOf s o) n).desc
  let v := sdGather d && rowVoid s d x.ix
  if x.void && !v then fetchRun o n x x.again s
  else consumeRun o n (deliverRun o n { x with void := v } s)

/-- A FEED strand's head row, delivered into the feeders where it can be. -/
def hasRow (s : State) (o n : Nat) : Bool :=
  match feedHead (beadOf (feedStrand o n s) o) n with
  | .run _ => true
  | _ => false

/-- STRAND_RUN_ISSUE (R349, R357, R365, R366): the strand makes its request, and of the requests ready and allowed the one that
stands first issues. -/
def execStrandRunIssue (o : Ord) (n : Fin 8) (s : State) : Host.Outcome State Fault Refusal :=
  match strandIssue o.val n.val s with
  | some t => whenOk s (beadRuns s o.val && !holding s) (feedAll o.val (issueBest o.val (askStrands o.val t)))
  | none => .next s

/-- STRAND_RUN_CONSUME (R349). -/
def execStrandRunConsume (o : Ord) (n : Fin 8) (s : State) : Host.Outcome State Fault Refusal :=
  let b := beadOf s o.val
  match strandConsumer b n.val with
  | some (a, e) => whenOk s (beadRuns s o.val && dutyOpen s && hasRow s o.val n.val) (rowStep o.val a e s)
  | none =>
    match copyHead b n.val with
    | some x => whenOk s (beadRuns s o.val && sdTarget (strandOf b n.val).desc != 0)
        (copyConsume o.val n.val x s)
    | none => .next s

/-! ### Idle banks -/

/-- The banks of a bead's data memory that hold `n` granules from a device address on. -/
def banksOf (o a n : Nat) : List Nat :=
  (List.range n).filterMap fun i =>
    if inOwnDmem o (a + 32 * i) then some ((a + 32 * i - ownBase o) / 32 % 24) else none

/-- Banks that a message in front of a bead wants: those of a request for its data memory, and those into which an answer goes
(R59). -/
def messageBanks (s : State) (o : Nat) (m : Msg) : List Nat :=
  let b := beadOf s o
  if m.op = opResp then
    match reqOfSlot b m.tag.toNat with
    | some r =>
      match r.owner with
      | .run _ _ => if r.copy then [] else banksOf o r.dstDev r.n
      | .sent id u _ => (findEntry b 3 id).elim [] fun e => if isChRd' e then banksOf o (chLocal e + 32 * (chUnit e u).1) (chUnit e u).2 else []
      | _ => []
    | none => []
  else if m.op = opAck ∨ m.op = opSignal ∨ m.op = opStale then []
  else
    (List.range (reqLen m)).filterMap fun j =>
      match placeOf s.mem.splitNow.toNat (m.addr.toNat + 32 * j) with
      | .dmem k off => if k = o then some (off / 32 % 24) else none
      | _ => none

/-- Banks that the next write of a drain unit wants. -/
def drainBanks (b : Bead) (o a : Nat) : List Nat :=
  match (drainOf b a).jobs with
  | [] => []
  | j :: _ =>
    match findEntry b 2 j.entry with
    | some e =>
      if drainsToMem e then banksOf o (rowGrans e.d1 (owTile e.v2) j.row).1 (rowGrans e.d1 (owTile e.v2) j.row).2 else []
    | none => []

/-- Banks that the transfer engine's next row wants. -/
def rowBanks (b : Bead) (o : Nat) : List Nat :=
  match nextRow b with
  | none => []
  | some e =>
    match e.insn with
    | .dtFill _ _ => banksOf o ((devAddr e.v1 + 64 * e.next) % 2 ^ 48 / 32 * 32) 3
    | _ => banksOf o (rowGrans e.d1 (owTile e.v2) e.next).1 (rowGrans e.d1 (owTile e.v2) e.next).2

/-- Banks that a strand's next run wants: its index entry's, its source's and, for DMEM, its destination's. -/
def strandBanks (s : State) (o n : Nat) : List Nat :=
  let k := strandOf (beadOf s o) n
  match nextRunAt (beadOf s o) n with
  | none => []
  | some j =>
    let len := sdRunlen k.desc
    let src := if sdGather k.desc then (indexEntry s o n j).elim [] fun w => banksOf o (ixAddr w) len
      else banksOf o (runSrc k.desc k.next) len
    let index := if sdGather k.desc then banksOf o ((sdSrc k.desc + 8 * j) / 32 * 32) 1 else []
    src ++ index ++ if sdTarget k.desc = 1 then banksOf o (runDst k.desc k.next) len else []

/-- Banks that the M-queue's next mask word and the drain units' next reads want. -/
def readBanks (s : State) (o : Nat) : List Nat :=
  let b := beadOf s o
  ((nextToStart b 0).elim [] fun e => if maskUnread b e then banksOf o (dBase e.d1 / 32 * 32) 1 else []) ++
  ((List.range 2).flatMap fun a =>
    ((toPrepare b a).elim [] fun x =>
      if hasBlock x.1 x.2 && !blockBad s o x.1 x.2 then (sectionGrans o x.1 (headerNow s o x.1 x.2)).map fun g => g % 24 else []) ++
    ((draining b a).elim [] fun x =>
      if hDstacc (headerOfEntry x.1) then banksOf o (rowGrans x.1.d1 (owTile x.1.v2) x.1.next).1 (rowGrans x.1.d1 (owTile x.1.v2) x.1.next).2
      else []))

/-- Banks that the S-queue's next unit wants. -/
def unitBanks (b : Bead) (o : Nat) : List Nat :=
  match runningHead b 3 with
  | some e => if isChWr' e || isChAcc' e then banksOf o (chLocal e + 32 * (chUnit e e.next).1) (chUnit e e.next).2 else []
  | none => []

/-- Banks that a hart's next access wants. -/
def hartBanks (s : State) (o h : Nat) : List Nat :=
  let b := beadOf s o
  let t := hartOf b h
  let at_ (a : Word) : List Nat := banksOf o (devAddr a / 32 * 32) 1
  if !hartReady s o h then []
  else
    match fetchAt b.active t.pc.toNat with
    | some ⟨.load _ _ _ rs1 imm, _, _⟩ => at_ (xReg t rs1 + imm)
    | some ⟨.store _ _ rs1 _ imm, _, _⟩ => at_ (xReg t rs1 + imm)
    | some ⟨.amo _ _ _ rs1 _, _, _⟩ => at_ (xReg t rs1)
    | _ => []

/-- The banks of a bead's data memory that some requester of R59 wants in this ck. [DEDUCED: log 42] -/
def beadWants (s : State) (o : Nat) : List Nat :=
  let b := beadOf s o
  ((arrivals s (nodeBead o)).flatMap fun m => messageBanks s o m) ++
  ((List.range 2).flatMap fun a => drainBanks b o a) ++ rowBanks b o ++ ((List.range 8).flatMap fun n => strandBanks s o n) ++
  readBanks s o ++ unitBanks b o ++ ((List.range 4).flatMap fun h => hartBanks s o h)

/-- MEMORY_SCRUB (R397): one granule of each bank that no requester wants in this ck. [DEDUCED: log 42] -/
def execMemoryScrub (p : ScrubAt) (s : State) : Host.Outcome State Fault Refusal :=
  match p with
  | .slice i =>
    let busy := sliceWants s i.val
    whenOk s (mainUp s) (upTo 8 (fun t k => if busy.contains k then t else scrubSliceBank i.val k t) s)
  | .bead o =>
    let busy := beadWants s o.val
    whenOk s (mainUp s && ordLive s o.val)
      (upTo 24 (fun t k => if busy.contains k then t else scrubBeadBank o.val k t) s)

end Sys2Proof.Machine
end

