-- ==== Sys2Proof/Machine/Nodes.lean ====
section
/-! DEFINITION. What each kind of node does with a message that has reached it (chapters 9 to 16). The first arrival of a
node is taken; one that must wait for room leaves the node as it is. -/

namespace Sys2Proof.Machine

/-- A request reaches a slice crossbar: it joins the sorter of the slice that its address names. -/
def atXbar (n c : Nat) (m : Msg) (s : State) : State :=
  let s1 := countEv (blkXbar c) 0x02 (1 + m.len) s
  match sliceOf s m.addr.toNat with
  | some i => if i / 4 = c then toSlice i 0 m s1 else noTarget n m s1
  | none => noTarget n m s1

/-- What a node does with a READ; `none` while it has no room. -/
def takeRead (n : Nat) (m : Msg) (s : State) : Option State :=
  match nodeKind s n with
  | .bead o => some (beadServeRead o m s)
  | .bezel z => if bezelRoom s z then some (toBezel z m s) else none
  | .port p => some (portAccept p m s)
  | .cxl => if boardRoom s m then some (boardStart m s) else none
  | .xbar c => some (atXbar n c m s)
  | .locket => some (noTarget n m s)
  | .none => none

/-- What a node does with a WRITE or a WRITE_PART. -/
def takeWrite (n : Nat) (m : Msg) (s : State) : Option State :=
  match nodeKind s n with
  | .bead o => some (beadServeWrite o m s)
  | .bezel z => if bezelRoom s z then some (toBezel z m s) else none
  | .port p => some (portAccept p m s)
  | .cxl => if boardRoom s m then some (boardStart m s) else none
  | .xbar c => some (atXbar n c m s)
  | .locket => some (noTarget n m s)
  | .none => none

/-- What a node does with an ATOMIC: only a slice has an effect for it (R48). [DEDUCED: log 38] -/
def takeAtomic (n : Nat) (m : Msg) (s : State) : Option State :=
  match nodeKind s n with
  | .bezel z => if bezelRoom s z then some (toBezel z m s) else none
  | .port p => some (portAccept p m s)
  | .xbar c => some (atXbar n c m s)
  | .bead _ | .cxl | .locket => some (noTarget n m s)
  | .none => none

/-- What a node does with a SUMWRITE. -/
def takeSum (n : Nat) (m : Msg) (s : State) : Option State :=
  match nodeKind s n with
  | .bezel z => if bezelRoom s z then some (toBezel z m s) else none
  | .port p => some (portAccept p m s)
  | .xbar c => some (atXbar n c m s)
  | .bead _ | .cxl | .locket => some (noTarget n m s)
  | .none => none

/-- What a node does with a SIGNAL (R449). -/
def takeSignal (n : Nat) (m : Msg) (s : State) : Option State :=
  match nodeKind s n with
  | .bead _ | .locket => some (signalAct n m s)
  | .xbar c => some (signalAct n m (countEv (blkXbar c) 0x02 1 s))
  | .port p => some (portAccept p m s)
  | .bezel _ | .cxl => some s
  | .none => none

/-- What a node does with a READ_RESP (R336): a bead's strands deliver what it brings (R195). -/
def takeResp (n : Nat) (m : Msg) (s : State) : Option State :=
  match nodeKind s n with
  | .bead o => some (feedAll o (beadReadResp o m s))
  | .port p => some (portAnswer p m s)
  | .cxl => some (cxlReadResp m s)
  | .bezel _ | .xbar _ | .locket => some s
  | .none => none

/-- What a node does with a WRITE_ACK (R336). -/
def takeAck (n : Nat) (m : Msg) (s : State) : Option State :=
  match nodeKind s n with
  | .bead o => some (beadWriteAck o m s)
  | .bezel z => some (bezelAck z m s)
  | .port p => some (portAnswer p m s)
  | .cxl => some (cxlWriteAck m s)
  | .xbar _ | .locket => some s
  | .none => none

/-- What a node does with a STALE notice (R373, R474). -/
def takeStale (n : Nat) (m : Msg) (s : State) : Option State :=
  match nodeKind s n with
  | .bead o => some (beadStale o m s)
  | .port p => some (portAccept p m s)
  | .bezel _ | .cxl | .xbar _ | .locket => some s
  | .none => none

/-- The form of these rows: the first arrival has the operation, and the node takes it. -/
def nodeRow (n : Nat) (op : BitVec 8) (f : Nat → Msg → State → Option State) (s : State) :
    Host.Outcome State Fault Refusal :=
  match firstArrival s n op with
  | none => .next s
  | some m =>
    match f n m (popArrival n s) with
    | some t => whenOk s (mainUp s) t
    | none => .next s

/-- READ (R412). -/
def execRead (n : NodeN) (s : State) : Host.Outcome State Fault Refusal := nodeRow n.val opRead takeRead s

/-- WRITE (R412). -/
def execWrite (n : NodeN) (s : State) : Host.Outcome State Fault Refusal := nodeRow n.val opWrite takeWrite s

/-- WRITE_PART (R392). -/
def execWritePart (n : NodeN) (s : State) : Host.Outcome State Fault Refusal := nodeRow n.val opPart takeWrite s

/-- ATOMIC (R48). -/
def execAtomic (n : NodeN) (s : State) : Host.Outcome State Fault Refusal := nodeRow n.val opAtomic takeAtomic s

/-- SUMWRITE (R518). -/
def execSumwrite (n : NodeN) (s : State) : Host.Outcome State Fault Refusal := nodeRow n.val opSum takeSum s

/-- SIGNAL (R449). -/
def execSignal (n : NodeN) (s : State) : Host.Outcome State Fault Refusal := nodeRow n.val opSignal takeSignal s

/-- READ_RESP (R337). -/
def execReadResp (n : NodeN) (s : State) : Host.Outcome State Fault Refusal := nodeRow n.val opResp takeResp s

/-- WRITE_ACK (R336). -/
def execWriteAck (n : NodeN) (s : State) : Host.Outcome State Fault Refusal := nodeRow n.val opAck takeAck s

/-- STALE (R374). -/
def execStale (n : NodeN) (s : State) : Host.Outcome State Fault Refusal := nodeRow n.val opStale takeStale s

end Sys2Proof.Machine
end

