-- ==== Sys2Proof/Machine/RedCmd.lean ====
section
/-! DEFINITION. The commands that write reduction state: RED_WRITE, GEN_WRITE, OPT_WRITE and RED_CFG (R611). -/

namespace Sys2Proof.Machine

/-- The reserved bits of a reduction record, by byte (R512). -/
def recReserved : List (Nat × Nat) :=
  [(0, 0xF8), (2, 0xC0), (3, 0xF0), (4, 0xC0), (5, 0xFF), (7, 0xF8), (12, 0xFF), (13, 0xFF), (14, 0xFF), (15, 0xFF),
   (20, 0xF0), (25, 0xF0), (30, 0xF0), (31, 0xFF)] ++ (List.range 26).map fun i => (38 + i, 0xFF)

/-- Reserved bits are 0 in a byte string. -/
def reservedOk (masks : List (Nat × Nat)) (l : List Byte) : Bool :=
  masks.all fun m => Nat.land (cutNum l m.1 1) m.2 == 0

/-- The states that RED_WRITE may store. -/
def recState (v : Nat) : Option RedState :=
  match v with
  | 0 => some .free
  | 1 => some .open_
  | _ => none

/-- The record that 192 bytes spell (R512). -/
def recOfBytes (l : List Byte) : RedRec :=
  { st := (recState (cutNum l 0 1 % 8)).getD .free
    expect := BitVec.ofNat 7 (cutNum l 1 1), localV := bitOf (cutNum l 1 1) 7, localC := BitVec.ofNat 6 (cutNum l 2 1)
    oset := BitVec.ofNat 4 (cutNum l 3 1), region := BitVec.ofNat 6 (cutNum l 4 1), count := BitVec.ofNat 11 (cutNum l 6 2)
    step := BitVec.ofNat 32 (cutNum l 8 4), sums := BitVec.ofNat 36 (cutNum l 16 5), work := BitVec.ofNat 36 (cutNum l 21 5)
    optst := BitVec.ofNat 36 (cutNum l 26 5), fanaddr := BitVec.ofNat 48 (cutNum l 32 6)
    segs := upTo 16 (fun t i => tblSet 0 t i (BitVec.ofNat 64 (cutNum l (64 + 8 * i) 8))) [] }

/-- The bytes of a record are in form; the ranges bind a record that is to be OPEN. -/
def recFormOk (l : List Byte) (r : RedRec) : Bool :=
  reservedOk recReserved l && (recState (cutNum l 0 1 % 8)).isSome &&
  (r.st == .free || (decide (r.expect.toNat ≤ 64) && decide (1 ≤ r.count.toNat) && decide (r.count.toNat ≤ 1024)))

/-- Two ranges of stack-local addresses share an address. -/
def rangesMeet (a n b m : Nat) : Bool := decide (0 < n) && decide (0 < m) && decide (a < b + m) && decide (b < a + n)

/-- A range meets a copy of a generation-table entry. -/
def meetsRegion (e : GenEnt) (a n : Nat) : Bool :=
  e.valid && (rangesMeet a n e.lo.toNat (e.hi.toNat - e.lo.toNat) ||
    rangesMeet a n (e.lo.toNat + e.twin.toNat) (e.hi.toNat - e.lo.toNat))

/-- A range lies inside copy 0 of an entry. -/
def insideCopy0 (e : GenEnt) (a n : Nat) : Bool := e.valid && decide (e.lo.toNat ≤ a) && decide (a + n ≤ e.hi.toNat)

/-- R513: a record that Nutas refuses. `others` are the records whose sum areas it may not meet.
[DEDUCED: log 59] -/
def recInvalid (b : Bezel) (others : List RedRec) (r : RedRec) : Bool :=
  let e := tblGet {} b.gens r.region.toNat
  r.sums.toNat % 4096 != 0 || r.optst.toNat % 4096 != 0 || r.work.toNat % 2048 != 0 ||
  !insideCopy0 e r.work.toNat 2048 || !insideCopy0 e r.optst.toNat 12288 ||
  (b.gens.any fun p => meetsRegion p.2 r.sums.toNat 4096) ||
  (others.any fun x => rangesMeet r.sums.toNat 4096 x.sums.toNat 4096) ||
  rangesMeet r.sums.toNat 4096 (intakeBase b) (2048 * b.nblk.toNat)

/-- A record that may not be rewritten (R511). -/
def recBusy (r : RedRec) : Bool := r.st == .open_ || r.st == .complete || r.st == .updating

/-- The records of a bezel that are not FREE and lie outside a range of numbers. -/
def recsOutside (b : Bezel) (first n : Nat) : List RedRec :=
  (b.recs.filter fun p => p.2.st != .free && !(decide (first ≤ p.1) && decide (p.1 < first + n))).map (·.2)

/-- The first record whose bytes are out of form. -/
def recsForm (first : Nat) (bytes : List (List Byte)) : Option (Nat × Word) :=
  ((List.range bytes.length).find? fun i => !recFormOk (nth [] bytes i) (recOfBytes (nth [] bytes i))).map fun i =>
    (stBadField, BitVec.ofNat 64 (first + i))

/-- The first of `n` records that may not be rewritten, or else the first of those at hand that R513 refuses: status and number
(R598, R611). [DEDUCED: log 59] -/
def recsBad (b : Bezel) (first n : Nat) (bytes : List (List Byte)) : Option (Nat × Word) :=
  let recs := bytes.map recOfBytes
  match (List.range n).find? fun i => recBusy (recOf b (first + i)) with
  | some i => some (stRecordBusy, BitVec.ofNat 64 (first + i))
  | none =>
    ((List.range bytes.length).find? fun i =>
      recInvalid b (recsOutside b first n ++ (recs.take i).filter fun x => x.st != .free) (nth {} recs i)).map fun i =>
        (stRecordInvalid, BitVec.ofNat 64 (first + i))

/-- Records written into a bezel; one that is OPEN and expects nobody completes at once (R521). -/
def writeRecs (z first : Nat) (bytes : List (List Byte)) (s : State) : State :=
  upTo bytes.length (fun t i =>
    let r := recOfBytes (nth [] bytes i)
    let t1 := setRec z (first + i) r t
    if r.st = .open_ then openRec z (first + i) t1 else t1) s

/-- The records of RED_WRITE that its buffer gives whole: those before the first granule that is lost (R597). -/
def recsRead (c : Cmd) (u : List Byte × Option Nat × State) : List (List Byte) :=
  let n := entryNum c.entry 32 4
  (List.range (match u.2.1 with
    | some off => min n (off / 192)
    | none => n)).map fun i => cut u.1 (192 * i) 192

/-- The buffer of RED_WRITE as it is read. -/
def redBuf (c : Cmd) (buf : List Byte) (s : State) : List Byte × Option Nat × State :=
  bufRead s (bufOf c.entry) (192 * entryNum c.entry 32 4) buf

/-- RED_WRITE (R511 to R513, R598, R611): a lost granule counts after what the records read before it show.
[DEDUCED: log 59] -/
def execRedWrite (k : Nat) (buf : List Byte) (s : State) : Host.Outcome State Fault Refusal :=
  commandWith 0x40 k (bufMaskAll ++ [(24, 0x0F)] ++ bytesMask 28 8)
    (fun c _ => [(28, decide (entryNum c.entry 28 4 + entryNum c.entry 32 4 ≤ 65536))])
    (fun c => some (192 * entryNum c.entry 32 4))
    (fun c t => recsForm (entryNum c.entry 28 4) (recsRead c (redBuf c buf t)))
    (fun c t =>
      let z := entryByte c.entry 24
      let first := entryNum c.entry 28 4
      let u := redBuf c buf t
      let bytes := recsRead c u
      match recsBad (bezelOf u.2.2 z) first (entryNum c.entry 32 4) bytes with
      | some (st, r0) => .done st r0 0 u.2.2
      | none =>
        match u.2.1 with
        | some off => .done stMemFault 0 (BitVec.ofNat 64 off) u.2.2
        | none => .done stOk 0 0 (writeRecs z first bytes u.2.2)) s

/-- The generation-table entry that bytes 32 to 63 of a command give (R536). -/
def genOf (c : Cmd) : GenEnt :=
  { lo := BitVec.ofNat 36 (entryNum c.entry 32 5), hi := BitVec.ofNat 36 (entryNum c.entry 37 5)
    twin := BitVec.ofNat 36 (entryNum c.entry 42 5), valid := bitOf (entryByte c.entry 47) 0
    oldv := bitOf (entryByte c.entry 47) 1, cur := BitVec.ofNat 32 (entryNum c.entry 48 4)
    fanmask := BitVec.ofNat 16 (entryNum c.entry 52 2), fanclasp := BitVec.ofNat 12 (entryNum c.entry 54 2)
    fantwin := BitVec.ofNat 48 (entryNum c.entry 56 6) }

/-- The bezels that a mask names. -/
def bezelsOf (mask : Nat) : List Nat := (List.range 16).filter fun z => bitOf mask z

/-- GEN_WRITE (R536, R611). Addresses of 40 bits keep their four high bits 0. -/
def execGenWrite (k : Nat) (s : State) : Host.Outcome State Fault Refusal :=
  command 0x41 k
    (bytesMask 24 2 ++ [(26, 0x3F)] ++ bytesMask 32 4 ++ [(36, 0x0F)] ++ bytesMask 37 4 ++ [(41, 0x0F)] ++ bytesMask 42 4 ++
      [(46, 0x0F), (47, 0x03)] ++ bytesMask 48 7 ++ [(55, 0x0F)] ++ bytesMask 56 6) noChecks noBuf
    (fun c t =>
      let e := entryByte c.entry 26
      let zs := bezelsOf (entryNum c.entry 24 2)
      let busy := zs.any fun z => (bezelOf t z).recs.any fun p =>
        p.2.region.toNat == e && (p.2.st == .complete || p.2.st == .updating)
      let named := (t.commit.waiting || t.commit.armed) && bitOf t.commit.regions.toNat e
      if busy || named then .done stRecordBusy 0 0 t
      else .done stOk 0 0 (zs.foldl (fun u z => modBezel z (fun b => { b with gens := tblSet {} b.gens e (genOf c) }) u) t)) s

/-- The reserved bits of an optimiser set (R527). -/
def optReserved : List (Nat × Nat) := [(0, 0xF8), (1, 0xFF), (2, 0xFF), (3, 0xFF)] ++ (List.range 24).map fun i => (40 + i, 0xFF)

/-- The first byte of an optimiser set with a reserved bit set, among those read before a lost granule (R527, R598). -/
def optForm (u : List Byte × Option Nat × State) : Option (Nat × Word) :=
  (optReserved.find? fun m => decide (m.1 < (u.2.1).getD 64) && Nat.land (cutNum u.1 m.1 1) m.2 != 0).map fun m =>
    (stBadField, BitVec.ofNat 64 m.1)

/-- OPT_WRITE (R527, R611). -/
def execOptWrite (k : Nat) (buf : List Byte) (s : State) : Host.Outcome State Fault Refusal :=
  commandWith 0x42 k (bufMaskAll ++ bytesMask 24 2 ++ [(26, 0x0F)]) noChecks (fun _ => some 64)
    (fun c t => optForm (bufRead t (bufOf c.entry) 64 buf))
    (fun c t =>
      let u := bufRead t (bufOf c.entry) 64 buf
      match u.2.1 with
      | some off => .done stMemFault 0 (BitVec.ofNat 64 off) u.2.2
      | none => .done stOk 0 0 ((bezelsOf (entryNum c.entry 24 2)).foldl (fun v z => modBezel z (fun b => { b with
            optShadow := tblSet 0 b.optShadow (entryByte c.entry 26) (BitVec.ofNat 512 (ofBytes u.1)) }) v) u.2.2)) s

/-- RED_CFG (R547, R611). -/
def execRedCfg (k : Nat) (s : State) : Host.Outcome State Fault Refusal :=
  command 0x43 k (bytesMask 24 2 ++ bytesMask 32 5 ++ [(37, 0x03)])
    (fun c t => [(32, (bezelsOf (entryNum c.entry 24 2)).all fun z =>
      redCfgFits (redCfg (redCfgSet (BitVec.ofNat 64 (entryNum c.entry 32 8)) (bezelOf t z))))]) noBuf
    (fun c t =>
      if planRuns t then .done stPlanRunning 0 0 t
      else .done stOk 0 0 ((bezelsOf (entryNum c.entry 24 2)).foldl (fun v z =>
        modBezel z (redCfgSet (BitVec.ofNat 64 (entryNum c.entry 32 8))) v) t)) s

end Sys2Proof.Machine
end

