-- ==== Sys2Proof/Machine/Dispatch.lean ====
section
/-! DEFINITION. One arm per command: its meaning. -/

namespace Sys2Proof.Machine

def exec (i : Instr) (s : State) : Host.Outcome State Fault Refusal :=
  match i with
  | .powerApplied => Sys2Proof.Machine.execPowerApplied s
  | .inputVoltageLoss => Sys2Proof.Machine.execInputVoltageLoss s
  | .overvoltageStop => Sys2Proof.Machine.execOvervoltageStop s
  | .overvoltageRecovery => Sys2Proof.Machine.execOvervoltageRecovery s
  | .enableChange level => Sys2Proof.Machine.execEnableChange level s
  | .bringUpStart => Sys2Proof.Machine.execBringUpStart s
  | .rampPhase how => Sys2Proof.Machine.execRampPhase how s
  | .romPhase => Sys2Proof.Machine.execRomPhase s
  | .stage1Phase => Sys2Proof.Machine.execStage1Phase s
  | .stacksPhase fail => Sys2Proof.Machine.execStacksPhase fail s
  | .beadsPhase failed => Sys2Proof.Machine.execBeadsPhase failed s
  | .fabricPhase ok => Sys2Proof.Machine.execFabricPhase ok s
  | .readyPhase ms => Sys2Proof.Machine.execReadyPhase ms s
  | .bringUpPhaseTimeout => Sys2Proof.Machine.execBringUpPhaseTimeout s
  | .tickBoundary watts celsius vin spareFail => Sys2Proof.Machine.execTickBoundary watts celsius vin spareFail s
  | .claspWaitTimeout c => Sys2Proof.Machine.execClaspWaitTimeout c s
  | .scalarLoad o h => Sys2Proof.Machine.execScalarLoad o h s
  | .scalarStore o h => Sys2Proof.Machine.execScalarStore o h s
  | .scalarAtomic o h => Sys2Proof.Machine.execScalarAtomic o h s
  | .fence o h => Sys2Proof.Machine.execFence o h s
  | .fenceI o h => Sys2Proof.Machine.execFenceI o h s
  | .wfi o h => Sys2Proof.Machine.execWfi o h s
  | .csrWrite o h => Sys2Proof.Machine.execCsrWrite o h s
  | .qfipTrap o h => Sys2Proof.Machine.execQfipTrap o h s
  | .xqctlResume o h => Sys2Proof.Machine.execXqctlResume o h s
  | .xqctlDiscard o h => Sys2Proof.Machine.execXqctlDiscard o h s
  | .mmA o h => Sys2Proof.Machine.execMmA o h s
  | .mmB o h => Sys2Proof.Machine.execMmB o h s
  | .mmAB o h => Sys2Proof.Machine.execMmAB o h s
  | .mmBwd o h => Sys2Proof.Machine.execMmBwd o h s
  | .tld o h => Sys2Proof.Machine.execTld o h s
  | .tst o h => Sys2Proof.Machine.execTst o h s
  | .strGo o h => Sys2Proof.Machine.execStrGo o h s
  | .strStop o h => Sys2Proof.Machine.execStrStop o h s
  | .dtFill o h => Sys2Proof.Machine.execDtFill o h s
  | .dtWr o h => Sys2Proof.Machine.execDtWr o h s
  | .dtRd o h => Sys2Proof.Machine.execDtRd o h s
  | .trel o h => Sys2Proof.Machine.execTrel o h s
  | .l1Inv o h => Sys2Proof.Machine.execL1Inv o h s
  | .l1InvA o h => Sys2Proof.Machine.execL1InvA o h s
  | .drAct o h => Sys2Proof.Machine.execDrAct o h s
  | .drDact o h => Sys2Proof.Machine.execDrDact o h s
  | .drStat o h => Sys2Proof.Machine.execDrStat o h s
  | .qbar o h => Sys2Proof.Machine.execQbar o h s
  | .claspSig o h => Sys2Proof.Machine.execClaspSig o h s
  | .claspWait o h => Sys2Proof.Machine.execClaspWait o h s
  | .claspTake o h => Sys2Proof.Machine.execClaspTake o h s
  | .chWr o h => Sys2Proof.Machine.execChWr o h s
  | .chRd o h => Sys2Proof.Machine.execChRd o h s
  | .chAcc o h => Sys2Proof.Machine.execChAcc o h s
  | .entryStart o q => Sys2Proof.Machine.execEntryStart o q s
  | .entryComplete o q => Sys2Proof.Machine.execEntryComplete o q s
  | .requestIssue o => Sys2Proof.Machine.execRequestIssue o s
  | .pageWalk o req => Sys2Proof.Machine.execPageWalk o req s
  | .pageWalkComplete cl => Sys2Proof.Machine.execPageWalkComplete cl s
  | .weightsActivate o a => Sys2Proof.Machine.execWeightsActivate o a s
  | .arrayRowEnter o a => Sys2Proof.Machine.execArrayRowEnter o a s
  | .arrayRowComplete o a => Sys2Proof.Machine.execArrayRowComplete o a s
  | .drainPrepare o a => Sys2Proof.Machine.execDrainPrepare o a s
  | .drainRowEnter o a => Sys2Proof.Machine.execDrainRowEnter o a s
  | .drainRowWrite o a => Sys2Proof.Machine.execDrainRowWrite o a s
  | .strandRunIssue o n => Sys2Proof.Machine.execStrandRunIssue o n s
  | .strandRunConsume o n => Sys2Proof.Machine.execStrandRunConsume o n s
  | .sortBatchDeliver o n => Sys2Proof.Machine.execSortBatchDeliver o n s
  | .endpointInjection n tag => Sys2Proof.Machine.execEndpointInjection n tag s
  | .routeMessageScheduled r hdrErr => Sys2Proof.Machine.execRouteMessageScheduled r hdrErr s
  | .routeMessageArbitrated r out hdrErr => Sys2Proof.Machine.execRouteMessageArbitrated r out hdrErr s
  | .endpointFailed n => Sys2Proof.Machine.execEndpointFailed n s
  | .read n => Sys2Proof.Machine.execRead n s
  | .write n => Sys2Proof.Machine.execWrite n s
  | .writePart n => Sys2Proof.Machine.execWritePart n s
  | .atomic n => Sys2Proof.Machine.execAtomic n s
  | .sumwrite n => Sys2Proof.Machine.execSumwrite n s
  | .signal n => Sys2Proof.Machine.execSignal n s
  | .readResp n => Sys2Proof.Machine.execReadResp n s
  | .writeAck n => Sys2Proof.Machine.execWriteAck n s
  | .stale n => Sys2Proof.Machine.execStale n s
  | .bezelServeRequest b => Sys2Proof.Machine.execBezelServeRequest b s
  | .sliceServeRequest sl => Sys2Proof.Machine.execSliceServeRequest sl s
  | .stackRefresh b bank => Sys2Proof.Machine.execStackRefresh b bank s
  | .patrolScrub b => Sys2Proof.Machine.execPatrolScrub b s
  | .memoryScrub p => Sys2Proof.Machine.execMemoryScrub p s
  | .claspWaiterSatisfied c => Sys2Proof.Machine.execClaspWaiterSatisfied c s
  | .clpValueWrite m w v => Sys2Proof.Machine.execClpValueWrite m w v s
  | .clpStatRead w => Sys2Proof.Machine.execClpStatRead w s
  | .msgFrame p crc f => Sys2Proof.Machine.execMsgFrame p crc f s
  | .ctrlFrame p crc l => Sys2Proof.Machine.execCtrlFrame p crc l s
  | .trainFrame p h w => Sys2Proof.Machine.execTrainFrame p h w s
  | .laneFrame l => Sys2Proof.Machine.execLaneFrame l s
  | .timingFrame p h w => Sys2Proof.Machine.execTimingFrame p h w s
  | .timingFirstRound => Sys2Proof.Machine.execTimingFirstRound s
  | .timingRelayRound => Sys2Proof.Machine.execTimingRelayRound s
  | .nakRepeat p => Sys2Proof.Machine.execNakRepeat p s
  | .ackTimeoutResend p => Sys2Proof.Machine.execAckTimeoutResend p s
  | .laneFailure p e => Sys2Proof.Machine.execLaneFailure p e s
  | .chainRequestIssue p => Sys2Proof.Machine.execChainRequestIssue p s
  | .chainSignalApply p => Sys2Proof.Machine.execChainSignalApply p s
  | .chRdResponseTimeout o => Sys2Proof.Machine.execChRdResponseTimeout o s
  | .chnCalGo m port => Sys2Proof.Machine.execChnCalGo m port s
  | .chainCalibrationRotation p => Sys2Proof.Machine.execChainCalibrationRotation p s
  | .chainCalibrationDone p => Sys2Proof.Machine.execChainCalibrationDone p s
  | .chnTimingWrite m w v => Sys2Proof.Machine.execChnTimingWrite m w v s
  | .chnErrStatRead p w => Sys2Proof.Machine.execChnErrStatRead p w s
  | .chainShellRemoval sh => Sys2Proof.Machine.execChainShellRemoval sh s
  | .sampledCheckCompare b => Sys2Proof.Machine.execSampledCheckCompare b s
  | .fusedUpdate b => Sys2Proof.Machine.execFusedUpdate b s
  | .fanoutSignal b rec module => Sys2Proof.Machine.execFanoutSignal b rec module s
  | .commitArm => Sys2Proof.Machine.execCommitArm s
  | .commitReq m => Sys2Proof.Machine.execCommitReq m s
  | .commitCancel m => Sys2Proof.Machine.execCommitCancel m s
  | .bzlRedCfgWrite m b w v => Sys2Proof.Machine.execBzlRedCfgWrite m b w v s
  | .bzlRedStatRead b w => Sys2Proof.Machine.execBzlRedStatRead b w s
  | .bzlEccStatRead b w => Sys2Proof.Machine.execBzlEccStatRead b w s
  | .splitTakeEffect => Sys2Proof.Machine.execSplitTakeEffect s
  | .memRd hpa => Sys2Proof.Machine.execMemRd hpa s
  | .memWr hpa data poison => Sys2Proof.Machine.execMemWr hpa data poison s
  | .memWrPtl hpa be data => Sys2Proof.Machine.execMemWrPtl hpa be data s
  | .memInv hpa => Sys2Proof.Machine.execMemInv hpa s
  | .memSpecRd hpa => Sys2Proof.Machine.execMemSpecRd hpa s
  | .biRsp b line => Sys2Proof.Machine.execBiRsp b line s
  | .backInvalidateTimeout b line => Sys2Proof.Machine.execBackInvalidateTimeout b line s
  | .hostLinkDown => Sys2Proof.Machine.execHostLinkDown s
  | .hostLinkError e => Sys2Proof.Machine.execHostLinkError e s
  | .uioCompletion id how data => Sys2Proof.Machine.execUioCompletion id how data s
  | .uioTimeout id => Sys2Proof.Machine.execUioTimeout id s
  | .hostLaneCalibration lane granted => Sys2Proof.Machine.execHostLaneCalibration lane granted s
  | .hostCalibrationDone => Sys2Proof.Machine.execHostCalibrationDone s
  | .hlkBiRangeWrite m w v => Sys2Proof.Machine.execHlkBiRangeWrite m w v s
  | .hlkErrStatRead w => Sys2Proof.Machine.execHlkErrStatRead w s
  | .msixUnmask v => Sys2Proof.Machine.execMsixUnmask v s
  | .mbxDoorbell mb m v => Sys2Proof.Machine.execMbxDoorbell mb m v s
  | .mbxRst mb m => Sys2Proof.Machine.execMbxRst mb m s
  | .mailboxEntryRead mb entry ok => Sys2Proof.Machine.execMailboxEntryRead mb entry ok s
  | .mailboxCompletionWrite mb ok => Sys2Proof.Machine.execMailboxCompletionWrite mb ok s
  | .heldCompletionWrite mb cplHead => Sys2Proof.Machine.execHeldCompletionWrite mb cplHead s
  | .nop k => Sys2Proof.Machine.execNop k s
  | .identify k => Sys2Proof.Machine.execIdentify k s
  | .status k => Sys2Proof.Machine.execStatus k s
  | .posmap k => Sys2Proof.Machine.execPosmap k s
  | .map k => Sys2Proof.Machine.execMap k s
  | .unmap k => Sys2Proof.Machine.execUnmap k s
  | .window k => Sys2Proof.Machine.execWindow k s
  | .split k => Sys2Proof.Machine.execSplit k s
  | .loadBundle k => Sys2Proof.Machine.execLoadBundle k s
  | .dropBundle k => Sys2Proof.Machine.execDropBundle k s
  | .loadProgram k buf => Sys2Proof.Machine.execLoadProgram k buf s
  | .bind k => Sys2Proof.Machine.execBind k s
  | .unbind k => Sys2Proof.Machine.execUnbind k s
  | .cohortRead k => Sys2Proof.Machine.execCohortRead k s
  | .redWrite k buf => Sys2Proof.Machine.execRedWrite k buf s
  | .genWrite k => Sys2Proof.Machine.execGenWrite k s
  | .optWrite k buf => Sys2Proof.Machine.execOptWrite k buf s
  | .redCfg k => Sys2Proof.Machine.execRedCfg k s
  | .run k => Sys2Proof.Machine.execRun k s
  | .shadowLoad granules => Sys2Proof.Machine.execShadowLoad granules s
  | .stop k => Sys2Proof.Machine.execStop k s
  | .ledgerRead k => Sys2Proof.Machine.execLedgerRead k s
  | .ledgerCtl k => Sys2Proof.Machine.execLedgerCtl k s
  | .cntConfig k buf => Sys2Proof.Machine.execCntConfig k buf s
  | .cntSnap k => Sys2Proof.Machine.execCntSnap k s
  | .dumpRecordWrite => Sys2Proof.Machine.execDumpRecordWrite s
  | .fltRead k => Sys2Proof.Machine.execFltRead k s
  | .fltAck k => Sys2Proof.Machine.execFltAck k s
  | .fwStage k buf => Sys2Proof.Machine.execFwStage k buf s
  | .fwActivate k => Sys2Proof.Machine.execFwActivate k s
  | .handoverTickStart => Sys2Proof.Machine.execHandoverTickStart s
  | .handoverReady => Sys2Proof.Machine.execHandoverReady s
  | .handoverReadyTimeout => Sys2Proof.Machine.execHandoverReadyTimeout s
  | .fwActivateTimeout => Sys2Proof.Machine.execFwActivateTimeout s
  | .subst k => Sys2Proof.Machine.execSubst k s
  | .spareTest k pass => Sys2Proof.Machine.execSpareTest k pass s
  | .beadFault o parity => Sys2Proof.Machine.execBeadFault o parity s
  | .uncorrReread reads => Sys2Proof.Machine.execUncorrReread reads s
  | .faultRecordWrite => Sys2Proof.Machine.execFaultRecordWrite s
  | .traceWrite => Sys2Proof.Machine.execTraceWrite s
  | .ldgTraceWrite m w v => Sys2Proof.Machine.execLdgTraceWrite m w v s
  | .ldgOvrRead w => Sys2Proof.Machine.execLdgOvrRead w s
  | .ldgTraceStatRead w => Sys2Proof.Machine.execLdgTraceStatRead w s
  | .fltStatRead w => Sys2Proof.Machine.execFltStatRead w s
  | .asyStatRead w => Sys2Proof.Machine.execAsyStatRead w s
  | .pwrStatRead w => Sys2Proof.Machine.execPwrStatRead w s
  | .hubEvent src => Sys2Proof.Machine.execHubEvent src s
  | .irqPendSet m w v => Sys2Proof.Machine.execIrqPendSet m w v s
  | .irqPendClr m w v => Sys2Proof.Machine.execIrqPendClr m w v s
  | .irqMaskSet m t w v => Sys2Proof.Machine.execIrqMaskSet m t w v s
  | .irqMaskClr m t w v => Sys2Proof.Machine.execIrqMaskClr m t w v s
  | .irqClaim m t => Sys2Proof.Machine.execIrqClaim m t s
  | .mgmtEventSend => Sys2Proof.Machine.execMgmtEventSend s
  | .mgmtDataFrame f => Sys2Proof.Machine.execMgmtDataFrame f s
  | .mgmtAckFrame f => Sys2Proof.Machine.execMgmtAckFrame f s
  | .mgmtNakFrame f => Sys2Proof.Machine.execMgmtNakFrame f s
  | .mgmtIdleFrame f => Sys2Proof.Machine.execMgmtIdleFrame f s
  | .mgmtResendTimeout => Sys2Proof.Machine.execMgmtResendTimeout s
  | .mgmtIdleTimeout => Sys2Proof.Machine.execMgmtIdleTimeout s
  | .mgmtLaneDownTimeout => Sys2Proof.Machine.execMgmtLaneDownTimeout s
  | .setEndpointId => Sys2Proof.Machine.execSetEndpointId s
  | .getEndpointId => Sys2Proof.Machine.execGetEndpointId s
  | .getMctpVersionSupport => Sys2Proof.Machine.execGetMctpVersionSupport s
  | .getMessageTypeSupport => Sys2Proof.Machine.execGetMessageTypeSupport s
  | .getVendorDefinedMsgSupport => Sys2Proof.Machine.execGetVendorDefinedMsgSupport s
  | .mbxPost => Sys2Proof.Machine.execMbxPost s
  | .mbxCpl => Sys2Proof.Machine.execMbxCpl s
  | .regRead => Sys2Proof.Machine.execRegRead s
  | .regWrite => Sys2Proof.Machine.execRegWrite s
  | .stageWrite => Sys2Proof.Machine.execStageWrite s
  | .stageRead => Sys2Proof.Machine.execStageRead s
  | .powerOn => Sys2Proof.Machine.execPowerOn s
  | .powerOff => Sys2Proof.Machine.execPowerOff s
  | .powerCycle => Sys2Proof.Machine.execPowerCycle s
  | .powerCycleHoldEnd => Sys2Proof.Machine.execPowerCycleHoldEnd s
  | .mgtPwrWrite m w v => Sys2Proof.Machine.execMgtPwrWrite m w v s
  | .takeoverRequest => Sys2Proof.Machine.execTakeoverRequest s
  | .takeoverRelease => Sys2Proof.Machine.execTakeoverRelease s
  | .mgtOwnGrant m => Sys2Proof.Machine.execMgtOwnGrant m s
  | .mgtOwnDeny m => Sys2Proof.Machine.execMgtOwnDeny m s
  | .lossTmoExpiry => Sys2Proof.Machine.execLossTmoExpiry s
  | .attestMake => Sys2Proof.Machine.execAttestMake s
  | .attestFetch => Sys2Proof.Machine.execAttestFetch s
  | .secCtlLock m => Sys2Proof.Machine.execSecCtlLock m s
  | .bzlRetrainGo m b ch => Sys2Proof.Machine.execBzlRetrainGo m b ch s
  | .retrainAutoRotation => Sys2Proof.Machine.execRetrainAutoRotation s
  | .retrainPhaseEnd b => Sys2Proof.Machine.execRetrainPhaseEnd b s
  | .bzlRetireGo m b => Sys2Proof.Machine.execBzlRetireGo m b s
  | .pageRetirement b => Sys2Proof.Machine.execPageRetirement b s
  | .deferredRetirement b => Sys2Proof.Machine.execDeferredRetirement b s
  | .controlWindowWrite m off bytes v => Sys2Proof.Machine.execControlWindowWrite m off bytes v s
  | .scalarInstruction o h => Sys2Proof.Machine.execScalarInstruction o h s
  | .hostLinkUp lanesAt64 => Sys2Proof.Machine.execHostLinkUp lanesAt64 s
  | .mgmtLaneUp => Sys2Proof.Machine.execMgmtLaneUp s
  | .h2dSnoop line => Sys2Proof.Machine.execH2dSnoop line s
  | .uioRequestToModule hpa => Sys2Proof.Machine.execUioRequestToModule hpa s
  | .capabilityWrite c => Sys2Proof.Machine.execCapabilityWrite c s
  | .chainPortRetrain p => Sys2Proof.Machine.execChainPortRetrain p s
  | .sampledGranuleCopy b => Sys2Proof.Machine.execSampledGranuleCopy b s
  | .retrainBurstCopy b => Sys2Proof.Machine.execRetrainBurstCopy b s

end Sys2Proof.Machine
end

