-- ==== Sys2Proof/Safety.lean ====
section
/-! DEFINITION. What the statements call safe: the invariant that every step keeps, the fuses that only rise, and which
parts of the state a command may write. -/

namespace Sys2Proof

open Sys2Proof.Machine

/-- The invariant: the memory keeps its canonical form, ck is one of the 16,384 of a tick (R20), a walker holds at most 16
walks (R327), at most 256 fault records wait and the ring holds at most 4,096 (R686, R687), the trace buffer holds at most
64 items (chapter 21), and a mailbox holds at most 16 completions (R591). -/
structure Safe (s : State) : Prop where
  mem : s.mem.wf
  ck : s.clock.ck < 16384
  walks : ∀ c, (walksOf s c).length ≤ 16
  waiting : s.faults.waiting.length ≤ 256
  ring : s.faults.ring.length ≤ 4096
  trace : s.ledger.traceBuf.length ≤ 64
  held : ∀ m, (mbxOf s m).held.length ≤ 16

/-- What the fuses allow from one state to a later one: the grade stays, the rollback counter does not fall, and no revoked
root key is trusted again (R768, R769). -/
structure FusesRise (s t : State) : Prop where
  grade : t.standby.grade960 = s.standby.grade960
  rollback : s.standby.rollback ≤ t.standby.rollback
  revoked : s.standby.revoked &&& ~~~ t.standby.revoked = 0

/-- The parts of the state. -/
inductive Part where
  /-- The queue of commands. -/
  | pending
  /-- Tick, mode and the flags of the tick. -/
  | clock
  /-- The beads. -/
  | beads
  /-- The map, the walkers and the windows. -/
  | mmu
  /-- Messages in the fabric. -/
  | fabric
  /-- Clasp counts and waiters. -/
  | clasps
  /-- The memories, the slices and SPLIT. -/
  | mem
  /-- The sixteen bezels. -/
  | bezels
  /-- The chain ports and the round. -/
  | chain
  /-- The host link. -/
  | host
  /-- The mailboxes. -/
  | mbxs
  /-- Nutas: commands, plans, bundles, loads. -/
  | nutas
  /-- The ledger and its trace. -/
  | ledger
  /-- The generation flip. -/
  | commit
  /-- The fault log. -/
  | faults
  /-- The interrupt hub. -/
  | hub
  /-- The assayer. -/
  | asy
  /-- The standby partition: phases, images, fuses, ownership. -/
  | standby
  /-- Power and temperature. -/
  | power
  /-- The running image and the keys. -/
  | sec
  /-- The management port. -/
  | mgmt
  /-- What has left the module. -/
  | out
  /-- The model's count of free values drawn. -/
  | free
  deriving DecidableEq, Repr

/-- Two states differ only in the parts named. -/
structure OnlyIn (ps : List Part) (s t : State) : Prop where
  pending : Part.pending ∈ ps ∨ t.pending = s.pending
  clock : Part.clock ∈ ps ∨ t.clock = s.clock
  beads : Part.beads ∈ ps ∨ t.beads = s.beads
  mmu : Part.mmu ∈ ps ∨ t.mmu = s.mmu
  fabric : Part.fabric ∈ ps ∨ t.fabric = s.fabric
  clasps : Part.clasps ∈ ps ∨ t.clasps = s.clasps
  mem : Part.mem ∈ ps ∨ t.mem = s.mem
  bezels : Part.bezels ∈ ps ∨ t.bezels = s.bezels
  chain : Part.chain ∈ ps ∨ t.chain = s.chain
  host : Part.host ∈ ps ∨ t.host = s.host
  mbxs : Part.mbxs ∈ ps ∨ t.mbxs = s.mbxs
  nutas : Part.nutas ∈ ps ∨ t.nutas = s.nutas
  ledger : Part.ledger ∈ ps ∨ t.ledger = s.ledger
  commit : Part.commit ∈ ps ∨ t.commit = s.commit
  faults : Part.faults ∈ ps ∨ t.faults = s.faults
  hub : Part.hub ∈ ps ∨ t.hub = s.hub
  asy : Part.asy ∈ ps ∨ t.asy = s.asy
  standby : Part.standby ∈ ps ∨ t.standby = s.standby
  power : Part.power ∈ ps ∨ t.power = s.power
  sec : Part.sec ∈ ps ∨ t.sec = s.sec
  mgmt : Part.mgmt ∈ ps ∨ t.mgmt = s.mgmt
  out : Part.out ∈ ps ∨ t.out = s.out
  free : Part.free ∈ ps ∨ t.free = s.free

/-- Every bead but that of ordinal `o` is as before. -/
def OtherBeads (o : Nat) (s t : State) : Prop := ∀ o', o' ≠ o → beadOf t o' = beadOf s o'

/-- Every bezel but `z` is as before. -/
def OtherBezels (z : Nat) (s t : State) : Prop := ∀ z', z' ≠ z → bezelOf t z' = bezelOf s z'

/-- Every chain port but `p` is as before. -/
def OtherPorts (p : Nat) (s t : State) : Prop := ∀ p', p' ≠ p → portOf t p' = portOf s p'

/-- Every mailbox but `m` is as before. -/
def OtherMbxs (m : Nat) (s t : State) : Prop := ∀ m', m' ≠ m → mbxOf t m' = mbxOf s m'

/-- A fault record of the class and the source, made at `s`'s tick and ck, waits in `t`; where 256 wait already, it is dropped
and counted (R685, R687). -/
def Recorded (cls source : Nat) (s t : State) : Prop :=
  if s.faults.waiting.length < 256 then
    ∃ r ∈ t.faults.waiting, r.cls = BitVec.ofNat 8 cls ∧ r.source = BitVec.ofNat 12 source ∧ r.tick = s.clock.tick ∧
      r.ck = BitVec.ofNat 14 s.clock.ck
  else t.faults.dropped = satInc s.faults.dropped

/-- Bead `o` has become `b` but for its hart `h`, its issue slot with the round-robin pointer and latencies, and its counters;
the other beads are as before. -/
def BeadIs (b : Bead) (o h : Nat) (s t : State) : Prop :=
  OtherBeads o s t ∧ (∀ h', h' ≠ h → hartOf (beadOf t o) h' = hartOf (beadOf s o) h') ∧
  beadOf t o = { b with
    harts := (beadOf t o).harts, rr := (beadOf t o).rr, issueCk := (beadOf t o).issueCk, lat := (beadOf t o).lat } ∧
  t.asy = { s.asy with vals := t.asy.vals }

/-- A block has raised a source: it stands pending, where that block has not raised it in this ck already, in which the hub takes
no second event of it (R640, R643). -/
def Raised (blk src : Nat) (s t : State) : Prop := (src, blk) ∉ s.hub.raised → t.hub.pend.getLsbD src = true

/-- Only the hart `h` of bead `o`, the bead's issue slot with its round-robin pointer and latencies, and its counters differ. -/
def HartOnly (o h : Nat) (s t : State) : Prop := BeadIs (beadOf s o) o h s t

/-- The hart `h` of bead `o` goes on as `x`, and beside it only the parts that `HartOnly` names and the memories' counts of
corrections differ. -/
def HartGoes (o : Ord) (h : HartN) (x : Hart) (s t : State) : Prop :=
  HartOnly o.val h.val s t ∧ t.mem = s.mem ∧ t.bezels = s.bezels ∧ hartOf (beadOf t o.val) h.val = x

/-- What a scrub leaves of a code word (R396). -/
def scrubbed (c : Code) : Code :=
  match (decodeCode c).1 with
  | .uncorr => poisonCode
  | .corr1 | .corr2 => passOn c
  | .clean | .poisoned => c

/-- An entry but for what the M-queue has read of its mask (R296). -/
def unmasked (e : QEntry) : QEntry := { e with maskWord := none, maskPoison := false, prepBad := none }

/-- The instruction `i` of hart `h` has entered queue `q` of bead `o` (R55, R79, R94, R95, R139, R176): the entry, with what it
captures at issue, stands at the queue's end, stopped or not; the hart goes on; nothing else of the bead differs, but for what
the M-queue reads of a mask (R296) and its request for it. -/
def Entered (o : Ord) (h : HartN) (i : XInsn) (f : Fetched) (q : Fin 4) (s u : State) : Prop :=
  let b := beadOf s o.val
  let b' := beadOf u o.val
  let t := hartOf b h.val
  OtherBeads o.val s u ∧
  (∃ e, (queueOf b' q.val).ents.map unmasked = ((queueOf b q.val).ents ++ [e]).map unmasked ∧
    e.id = b.nextId ∧ e.word = f.word ∧ e.insn = i ∧ e.hart = h ∧ e.st = .waiting ∧ e.barrier = 0 ∧ e.tcfg = t.tcfg ∧
    e.v1 = xReg t (operandRegs i).1 ∧ e.v2 = xReg t (operandRegs i).2.1 ∧ e.v3 = xReg t (operandRegs i).2.2 ∧
    e.d1 = tblGet 0 b.dt (owHandle e.v1) ∧ e.d2 = tblGet 0 b.dt (owHandle2 e.v1) ∧
    e.startRow = if isTld i = true ∨ isTst i = true then t.resumeRow.toNat else 0) ∧
  (∀ q', q' ≠ q.val → (queueOf b' q').ents.map unmasked = (queueOf b q').ents.map unmasked) ∧
  (∀ q', (queueOf b' q').stop = (queueOf b q').stop) ∧
  hartOf b' h.val = { advance f.len t with resumeRow := if isTld i = true ∨ isTst i = true then 0 else t.resumeRow } ∧
  (∀ h', h' ≠ h.val → hartOf b' h' = hartOf b h') ∧
  b' = { b with harts := b'.harts, rr := b'.rr, issueCk := b'.issueCk, lat := b'.lat, queues := b'.queues, reqs := b'.reqs,
                nextId := b'.nextId, tlb := b'.tlb }

/-- The hart `h` of bead `o` is held at its instruction, and nothing else of the module differs (R56). -/
def HeldBy (o : Ord) (h : HartN) (why : HoldBy) (s u : State) : Prop :=
  u = modBead o.val (modHart h.val fun t => { t with hold := why }) s

/-- Nothing of bead `o` moves of itself beside a queue entry: no strand has a row for the feeders to take, and the matrix entry
that comes next names no mask (R195, R296). -/
def BeadQuiet (s : State) (o : Nat) : Prop :=
  (∀ n : Fin 8, feedNext s o n.val = none) ∧ ∀ e, nextToStart (beadOf s o) 0 = some e → maskHandle e = none

/-- A request that has come to bezel `z`'s node `n` waits in its sorter (R367). -/
def JoinsSorter (n z : Nat) (m : Msg) (rest : List Msg) (s t : State) : Prop :=
  arrivals t n = rest ∧ OtherBezels z s t ∧ t.mem = s.mem ∧ bezelOf t z = { bezelOf s z with
    sorter := (bezelOf s z).sorter ++ [{ msg := m, tick := s.clock.tick, ck := s.clock.ck }] }

/-- A request that has come to a crossbar's node `n` takes its place in the sorter of its slice (R307, R367). -/
def JoinsSlice (n i : Nat) (m : Msg) (rest : List Msg) (s t : State) : Prop :=
  arrivals t n = rest ∧ t.bezels = s.bezels ∧ (∀ g, codeAt t.mem g = codeAt s.mem g) ∧
  (∀ i', i' ≠ i → tblGet [] t.mem.slices i' = tblGet [] s.mem.slices i') ∧
  tblGet [] t.mem.slices i =
    sliceJoin { msg := m, tick := s.clock.tick, ck := s.clock.ck, port := 0 } (tblGet [] s.mem.slices i)

/-- The commands and completions that stay as the main domains ramp down: none behind READY or where the end is forced, and else
those of mailbox 8, which the standby partition serves itself (R42, R632, R754, R755). -/
def CommandsLeft (forced : Bool) (s t : State) : Prop :=
  if forced = true ∨ s.standby.phase = 7 then t.nutas.cmds = [] ∧ t.nutas.ready = []
  else t.nutas.cmds = (s.nutas.cmds.filter fun c => c.mbx.val == 8) ∧ t.nutas.ready = s.nutas.ready.filter fun c => c.mbx.val == 8

/-- The main domains ramp down: every register outside the standby partition takes its Reset value, every waiting fault
record is written, started commands end; the fuses, the image slots and HOLD_OFF stay. -/
def RampedDown (forced : Bool) (s t : State) : Prop :=
  t.standby.phase = 0 ∧ t.standby.mainUp = false ∧ t.clock = {} ∧ t.beads = [] ∧ t.mmu = {} ∧ t.fabric = {} ∧
  t.clasps = {} ∧ t.mem = {} ∧ t.bezels = [] ∧ t.chain = {} ∧ t.host = {} ∧ t.ledger = {} ∧ t.commit = {} ∧
  t.hub = {} ∧ t.asy = {} ∧ t.power = {} ∧ t.sec = {} ∧ CommandsLeft forced s t ∧
  t.faults.waiting = [] ∧ t.standby.owner = s.standby.owner ∧ t.standby.imgA = s.standby.imgA ∧
  t.standby.imgB = s.standby.imgB ∧ t.standby.boots = s.standby.boots ∧ t.standby.takeReq = none

/-- A bring-up that fails stands in FAILED with the code of its failure (R743, R755, R757). -/
def FailedWith (code : Nat) (s t : State) : Prop :=
  t.standby.phase = 8 ∧ t.standby.fail = BitVec.ofNat 4 code ∧ t.standby.boots = s.standby.boots ∧
  t.standby.imgA = s.standby.imgA ∧ t.standby.imgB = s.standby.imgB ∧ t.clock.tick = s.clock.tick

/-- Command `c` of number `k` may start now (R588), has the code `opc`, passes the checks that come before its own, with the
outcome `data` of those that look into its buffer (R598), and its mailbox is not being reset (R593). -/
def ServedWith (k opc : Nat) (used : List (Nat × Nat)) (checks : Cmd → State → List (Nat × Bool)) (need : Cmd → Option Nat)
    (data : Cmd → State → Option (Nat × Word)) (c : Cmd) (s : State) : Prop :=
  (s.nutas.cmds.find? fun x => x.num == k) = some c ∧ startable s c = true ∧ entryByte c.entry 0 = opc ∧
  precheck s c used (checks c s) (need c) (data c s) = none ∧ (mbxOf s c.mbx.val).rst = false

/-- The same of a command whose checks look at no data of its buffer. -/
def Served (k opc : Nat) (used : List (Nat × Nat)) (checks : Cmd → State → List (Nat × Bool)) (need : Cmd → Option Nat)
    (c : Cmd) (s : State) : Prop :=
  ServedWith k opc used checks need (fun _ _ => none) c s

/-- Command `c` of number `k` may start and passes the checks of its fields and of its buffer's place: what it reads of its buffer
is looked at next (R598). -/
def LooksAt (k opc : Nat) (used : List (Nat × Nat)) (checks : Cmd → State → List (Nat × Bool)) (need : Cmd → Option Nat)
    (c : Cmd) (s : State) : Prop :=
  (s.nutas.cmds.find? fun x => x.num == k) = some c ∧ startable s c = true ∧ entryByte c.entry 0 = opc ∧
  (mbxOf s c.mbx.val).rst = false ∧ badField c.entry used (checks c s) = none ∧
  (∀ n, need c = some n → bufOk c.mbx.val n (bufOf c.entry) = true) ∧ nutasUp s = true

/-- Command `c` of number `k` has left the command list, and its completion with the status and the results is ready to be
written (R589, R596). -/
def Completed (k : Nat) (c : Cmd) (status : Nat) (r0 r1 : Word) (s t : State) : Prop :=
  t.nutas.cmds = (s.nutas.cmds.filter fun x => x.num != k) ∧
  t.nutas.ready = s.nutas.ready ++ [completionOf s c status r0 r1] ∧ t.mbxs = s.mbxs

/-- The state in which command `k` has started. -/
def Started (k : Nat) (s : State) : State :=
  modNutas (fun n => { n with cmds := modFirst (fun x => x.num == k) (fun x => { x with started := true }) n.cmds }) s

/-- Command `k` has started and waits. -/
def WaitsAs (k : Nat) (w : Waits) (s t : State) : Prop :=
  t.nutas.waits = s.nutas.waits ++ [w] ∧ t.nutas.ready = s.nutas.ready ∧ t.mbxs = s.mbxs ∧
  t.nutas.cmds = modFirst (fun x => x.num == k) (fun x => { x with started := true }) s.nutas.cmds

/-- Frame `f` of bezel `z`, which is `q` before, has moved to its next reserve frame: its content is there, corrected or
poisoned, the redirect leads there, the standby partition keeps the table, and a record says so (R332, R736, R747). -/
def FrameMoved (z f : Nat) (q : Bezel) (s t : State) : Prop :=
  OtherBezels z s t ∧
  (bezelOf t z).redirect = tblSet 0 q.redirect f (q.nextReserve + 1) ∧ (bezelOf t z).nextReserve = q.nextReserve + 1 ∧
  (bezelOf t z).gens = q.gens ∧ (bezelOf t z).recs = q.recs ∧ (bezelOf t z).retrainPhase = q.retrainPhase ∧
  t.standby.retires = tblSet 0 s.standby.retires (z * 2 ^ 25 + f) (q.nextReserve + 1) ∧
  (s.faults.waiting.length + 128 < 256 → Recorded 0x04 (blkBezel z) s t) ∧
  (∀ i < 128, codeAt t.mem (stackGran z (stackGranules + q.nextReserve * 128 + i)) =
    passOn (codeAt s.mem (stackGran z (f * 128 + i)))) ∧
  ∀ g, (∀ i < 128, g ≠ stackGran z (stackGranules + q.nextReserve * 128 + i)) → codeAt t.mem g = codeAt s.mem g

/-- A message leaves by the management lane in MCTP packets, one DATA frame each, where the lane is up and its window has room
for all of them, and waits where the lane is down (R624, R625). -/
def MgmtSends (dst : BitVec 8) (owner : Bool) (tag : BitVec 3) (body : List Byte) (cpl : Bool) (s t : State) : Prop :=
  let ps := mctpPackets dst t.mgmt.eid owner tag body cpl
  (s.mgmt.up = true → s.mgmt.waiting = [] → s.mgmt.unacked.length + ps.length ≤ 8 →
    t.mgmt.waiting = [] ∧ t.out = s.out ++ (List.range ps.length).map fun i =>
      mgmtOut s 1 (s.mgmt.txSeq + BitVec.ofNat 8 i) (nth { bytes := [] } ps i).bytes) ∧
  (s.mgmt.up = false → t.out = s.out ∧ t.mgmt.waiting = s.mgmt.waiting ++ ps)

/-- A request of R626 is answered with a status and a body. -/
def ThAnswers (r : MgmtReq) (status : Nat) (body : List Byte) (s t : State) : Prop :=
  MgmtSends r.src false r.tag ([0x7F] ++ ianaBytes ++ toBytes 1 (msgOpc r) ++ toBytes 1 (msgByte r 6 % 128) ++
    toBytes 1 status ++ [0] ++ body) false s t

/-- An MCTP control request is answered with a completion code and a body. -/
def CtlAnswers (r : MgmtReq) (code : Nat) (body : List Byte) (s t : State) : Prop :=
  MgmtSends r.src false r.tag ([0x00] ++ toBytes 1 (msgByte r 1 % 128) ++ toBytes 1 (ctlCmd r) ++ toBytes 1 code ++ body)
    false s t

/-- A register field in bits 31:0 after a read of width `w` that clears it (R9, R797). -/
def clearedLow {α : Type} (w : Width) (v zero : α) : α := if w = .high then v else zero

/-- A register field in bits 63:32 after a read of width `w` that clears it (R9, R797). -/
def clearedHigh {α : Type} (w : Width) (v zero : α) : α := if w = .low then v else zero

/-- The parts of the state that a command may write. -/
def writes (i : Instr) : List Part :=
  match i with
  | .powerApplied | .overvoltageRecovery | .bringUpStart | .powerCycleHoldEnd | .lossTmoExpiry =>
    [.standby]
  | .inputVoltageLoss =>
    [.clock, .beads, .mmu, .fabric, .clasps, .mem, .bezels, .chain, .host, .mbxs, .nutas, .ledger, .commit,
      .faults, .hub, .asy, .standby, .power, .sec, .mgmt]
  | .overvoltageStop | .enableChange _ | .regWrite | .powerOff | .powerCycle | .mgtPwrWrite _ _ _ |
    .controlWindowWrite _ _ _ _ =>
    [.clock, .beads, .mmu, .fabric, .clasps, .mem, .bezels, .chain, .host, .mbxs, .nutas, .ledger, .commit,
      .faults, .hub, .asy, .standby, .power, .sec, .mgmt, .out]
  | .rampPhase _ =>
    [.clock, .beads, .mmu, .fabric, .clasps, .mem, .bezels, .chain, .host, .mbxs, .nutas, .ledger, .commit,
      .faults, .hub, .asy, .standby, .power, .sec, .free]
  | .romPhase =>
    [.clock, .standby, .sec, .free]
  | .stage1Phase =>
    [.clock, .chain, .ledger, .faults, .hub, .standby, .sec, .out, .free]
  | .stacksPhase _ =>
    [.clock, .mem, .bezels, .standby, .free]
  | .beadsPhase _ =>
    [.nutas, .ledger, .faults, .hub, .standby]
  | .fabricPhase _ | .bringUpPhaseTimeout =>
    [.clock, .standby, .free]
  | .readyPhase _ =>
    [.host, .standby]
  | .tickBoundary _ _ _ _ =>
    [.clock, .beads, .mmu, .fabric, .clasps, .mem, .bezels, .chain, .host, .mbxs, .nutas, .ledger, .commit,
      .faults, .hub, .asy, .standby, .power, .sec, .mgmt, .out, .free]
  | .claspWaitTimeout _ | .claspWaiterSatisfied _ =>
    [.beads, .fabric, .clasps, .ledger, .faults, .hub, .asy]
  | .scalarLoad _ _ | .scalarStore _ _ | .scalarAtomic _ _ | .xqctlResume _ _ | .xqctlDiscard _ _ | .mmA _ _ |
    .mmB _ _ | .mmAB _ _ | .mmBwd _ _ | .tld _ _ | .tst _ _ | .strGo _ _ | .strStop _ _ | .dtFill _ _ | .drAct _ _ |
    .drDact _ _ | .drStat _ _ | .qbar _ _ | .claspSig _ _ | .claspWait _ _ | .claspTake _ _ | .chWr _ _ | .chRd _ _
    | .chAcc _ _ | .entryComplete _ _ | .arrayRowEnter _ _ | .drainPrepare _ _ | .strandRunConsume _ _ =>
    [.beads, .clasps, .mem, .bezels, .ledger, .faults, .asy]
  | .fence _ _ | .fenceI _ _ | .wfi _ _ | .csrWrite _ _ | .dtWr _ _ | .dtRd _ _ | .trel _ _ | .l1Inv _ _ |
    .l1InvA _ _ | .scalarInstruction _ _ =>
    [.beads, .asy]
  | .qfipTrap _ _ | .weightsActivate _ _ =>
    [.beads]
  | .entryStart _ _ | .requestIssue _ | .strandRunIssue _ _ =>
    [.beads, .fabric, .clasps, .mem, .bezels, .ledger, .faults, .asy]
  | .pageWalk _ _ =>
    [.beads, .mmu]
  | .pageWalkComplete _ =>
    [.beads, .mmu, .clasps, .mem, .bezels, .ledger, .faults, .asy]
  | .arrayRowComplete _ _ | .drainRowEnter _ _ | .sortBatchDeliver _ _ | .chRdResponseTimeout _ =>
    [.beads, .ledger, .faults, .asy]
  | .drainRowWrite _ _ =>
    [.beads, .mem, .ledger, .faults, .asy]
  | .endpointInjection _ _ =>
    [.fabric, .bezels, .asy]
  | .routeMessageScheduled _ _ | .routeMessageArbitrated _ _ _ =>
    [.clock, .fabric, .ledger, .faults, .hub, .asy, .free]
  | .endpointFailed _ =>
    [.fabric, .ledger, .faults, .hub, .asy]
  | .read _ | .write _ | .writePart _ =>
    [.beads, .fabric, .mem, .bezels, .chain, .host, .ledger, .faults, .hub, .asy, .out]
  | .atomic _ | .sumwrite _ =>
    [.beads, .fabric, .mem, .bezels, .chain, .ledger, .faults, .hub, .asy, .out]
  | .signal _ =>
    [.beads, .fabric, .clasps, .chain, .ledger, .faults, .hub, .asy, .out]
  | .readResp _ =>
    [.beads, .fabric, .clasps, .mem, .bezels, .chain, .ledger, .faults, .asy, .out]
  | .writeAck _ =>
    [.beads, .fabric, .clasps, .mem, .bezels, .chain, .host, .ledger, .faults, .hub, .asy, .out]
  | .stale _ =>
    [.beads, .fabric, .chain, .ledger, .faults, .hub, .asy, .out]
  | .bezelServeRequest _ | .fusedUpdate _ | .biRsp _ _ | .traceWrite =>
    [.fabric, .mem, .bezels, .ledger, .faults, .hub, .asy, .out]
  | .sliceServeRequest _ =>
    [.fabric, .mem, .ledger, .faults, .asy]
  | .stackRefresh _ _ | .memInv _ | .sampledGranuleCopy _ =>
    [.bezels]
  | .patrolScrub _ | .uncorrReread _ | .retrainBurstCopy _ =>
    [.mem, .bezels, .ledger, .faults, .hub, .asy]
  | .memoryScrub _ =>
    [.mem, .ledger, .faults, .asy]
  | .clpValueWrite _ _ _ =>
    [.clasps, .ledger, .faults]
  | .clpStatRead _ =>
    [.clasps, .out]
  | .msgFrame _ _ _ =>
    [.clock, .beads, .fabric, .bezels, .chain, .ledger, .faults, .hub, .asy, .out]
  | .ctrlFrame _ _ _ | .trainFrame _ _ _ | .laneFrame _ | .timingFrame _ _ _ | .ackTimeoutResend _ |
    .laneFailure _ _ =>
    [.clock, .beads, .bezels, .chain, .ledger, .faults, .hub, .asy, .out]
  | .timingFirstRound | .timingRelayRound | .nakRepeat _ | .chnErrStatRead _ _ =>
    [.chain, .out]
  | .chainRequestIssue _ | .chainSignalApply _ =>
    [.fabric, .chain, .ledger, .faults, .asy, .out]
  | .chnCalGo _ _ | .chnTimingWrite _ _ _ =>
    [.chain, .ledger, .faults]
  | .chainCalibrationRotation _ | .chainCalibrationDone _ =>
    [.chain]
  | .chainShellRemoval _ =>
    [.clock, .beads, .bezels, .chain, .ledger, .faults, .hub, .asy, .mgmt, .out]
  | .sampledCheckCompare _ =>
    [.bezels, .ledger, .faults, .hub]
  | .fanoutSignal _ _ _ =>
    [.fabric, .bezels, .ledger, .faults, .hub]
  | .commitArm =>
    [.clasps, .commit]
  | .commitReq _ | .commitCancel _ =>
    [.ledger, .commit, .faults]
  | .bzlRedCfgWrite _ _ _ _ | .bzlRetrainGo _ _ _ | .bzlRetireGo _ _ =>
    [.bezels, .ledger, .faults]
  | .bzlRedStatRead _ _ | .bzlEccStatRead _ _ =>
    [.bezels, .out]
  | .splitTakeEffect | .split _ =>
    [.mem, .mbxs, .nutas, .mgmt]
  | .memRd _ =>
    [.fabric, .host, .asy]
  | .memWr _ _ _ | .memWrPtl _ _ _ =>
    [.fabric, .host, .ledger, .faults, .hub, .asy, .out]
  | .memSpecRd _ =>
    []
  | .backInvalidateTimeout _ _ | .hostLinkDown | .hostLinkError _ =>
    [.fabric, .mem, .bezels, .host, .ledger, .faults, .hub, .asy, .out]
  | .uioCompletion _ _ _ | .uioTimeout _ =>
    [.fabric, .mem, .host, .ledger, .faults, .hub, .asy, .out]
  | .hostLaneCalibration _ _ =>
    [.host, .ledger, .faults, .out]
  | .hostCalibrationDone | .hlkErrStatRead _ | .h2dSnoop _ =>
    [.host, .out]
  | .hlkBiRangeWrite _ _ _ =>
    [.host, .ledger, .faults]
  | .msixUnmask _ | .irqClaim _ _ =>
    [.hub, .out]
  | .mbxDoorbell _ _ _ =>
    [.mbxs, .ledger, .faults, .hub]
  | .mbxRst _ _ | .spareTest _ _ =>
    [.mbxs, .nutas, .ledger, .faults, .mgmt]
  | .mailboxEntryRead _ _ _ =>
    [.mbxs, .nutas, .ledger, .faults, .hub, .asy, .mgmt, .out]
  | .mailboxCompletionWrite _ _ =>
    [.mbxs, .nutas, .ledger, .faults, .hub, .mgmt, .out]
  | .heldCompletionWrite _ _ =>
    [.host, .mbxs, .ledger, .faults, .hub, .mgmt, .out]
  | .nop _ | .status _ | .dropBundle _ | .bind _ | .unbind _ | .cntSnap _ | .fwActivate _ | .fwActivateTimeout =>
    [.mbxs, .nutas, .mgmt]
  | .identify _ | .posmap _ | .cohortRead _ | .ledgerRead _ | .dumpRecordWrite | .fltRead _ =>
    [.fabric, .mem, .bezels, .mbxs, .nutas, .ledger, .faults, .hub, .asy, .mgmt, .out]
  | .map _ | .unmap _ | .loadProgram _ _ | .run _ | .shadowLoad _ =>
    [.clock, .beads, .mmu, .fabric, .clasps, .mem, .bezels, .mbxs, .nutas, .ledger, .faults, .hub, .asy, .mgmt]
  | .window _ =>
    [.mmu, .mbxs, .nutas, .mgmt]
  | .loadBundle _ =>
    [.fabric, .mem, .bezels, .mbxs, .nutas, .ledger, .faults, .hub, .asy, .mgmt]
  | .redWrite _ _ | .optWrite _ _ | .cntConfig _ _ =>
    [.mem, .bezels, .mbxs, .nutas, .ledger, .faults, .hub, .asy, .mgmt]
  | .genWrite _ | .redCfg _ =>
    [.bezels, .mbxs, .nutas, .mgmt]
  | .stop _ =>
    [.clock, .mbxs, .nutas, .mgmt]
  | .ledgerCtl _ =>
    [.mbxs, .nutas, .ledger, .mgmt]
  | .fltAck _ =>
    [.mbxs, .nutas, .faults, .hub, .mgmt]
  | .fwStage _ _ =>
    [.mem, .bezels, .mbxs, .nutas, .ledger, .faults, .hub, .asy, .standby, .mgmt]
  | .handoverTickStart | .handoverReadyTimeout =>
    [.nutas]
  | .handoverReady =>
    [.mbxs, .nutas, .standby, .sec, .mgmt]
  | .subst _ =>
    [.clock, .mbxs, .nutas, .ledger, .faults, .mgmt]
  | .beadFault _ _ =>
    [.beads, .ledger, .faults, .hub]
  | .faultRecordWrite =>
    [.ledger, .faults, .hub, .asy]
  | .ldgTraceWrite _ _ _ =>
    [.ledger, .faults]
  | .ldgOvrRead _ | .ldgTraceStatRead _ =>
    [.ledger, .out]
  | .fltStatRead _ =>
    [.faults, .out]
  | .asyStatRead _ =>
    [.asy, .out]
  | .pwrStatRead _ =>
    [.power, .out]
  | .hubEvent _ =>
    [.hub]
  | .irqPendSet _ _ _ | .irqPendClr _ _ _ | .irqMaskSet _ _ _ _ | .irqMaskClr _ _ _ _ =>
    [.ledger, .faults, .hub]
  | .mgmtEventSend =>
    [.hub, .mgmt, .out]
  | .mgmtDataFrame _ | .mgmtAckFrame _ | .mgmtNakFrame _ | .mgmtIdleFrame _ | .mbxPost =>
    [.mbxs, .mgmt, .out]
  | .mgmtResendTimeout | .setEndpointId | .getEndpointId | .getMctpVersionSupport | .getMessageTypeSupport |
    .getVendorDefinedMsgSupport | .mbxCpl | .stageWrite | .stageRead | .attestFetch | .mgmtLaneUp =>
    [.mgmt, .out]
  | .mgmtIdleTimeout =>
    [.out]
  | .mgmtLaneDownTimeout =>
    [.mgmt]
  | .regRead =>
    [.clasps, .bezels, .chain, .host, .ledger, .faults, .hub, .asy, .power, .mgmt, .out]
  | .powerOn | .takeoverRelease =>
    [.standby, .mgmt, .out]
  | .takeoverRequest =>
    [.hub, .standby, .mgmt, .out]
  | .mgtOwnGrant _ =>
    [.ledger, .faults, .standby]
  | .mgtOwnDeny _ =>
    [.ledger, .faults, .standby, .mgmt, .out]
  | .attestMake =>
    [.sec, .mgmt, .out, .free]
  | .secCtlLock _ =>
    [.ledger, .faults, .sec]
  | .retrainAutoRotation | .retrainPhaseEnd _ =>
    [.bezels, .nutas]
  | .pageRetirement _ | .deferredRetirement _ =>
    [.clock, .beads, .mmu, .fabric, .clasps, .mem, .bezels, .mbxs, .nutas, .ledger, .faults, .hub, .asy, .standby,
      .mgmt]
  | .hostLinkUp _ =>
    [.host]
  | .uioRequestToModule _ =>
    [.host, .ledger, .faults, .hub, .out]
  | .capabilityWrite _ =>
    [.host, .hub, .out]
  | .chainPortRetrain _ =>
    [.chain, .ledger, .faults, .hub, .out]

/-- The command completes: exec answers a next state, which differs only in the parts that the command may write, and of
which `p` holds. -/
def Completes (c : Instr) (s : State) (p : State → Prop) : Prop := ∃ t, exec c s = .next t ∧ OnlyIn (writes c) s t ∧ p t

end Sys2Proof
end

