-- ==== Sys2Proof/WellFormed.lean ====
section
/-! DEFINITION. The operands that a command can have: lengths and ranges that the rules give and the types do not. -/

namespace Sys2Proof

/-- A message carries the granules that LEN names, at most 16 (R411). -/
def Msg.wf (m : Msg) : Bool := m.data.length == m.len && decide (m.len ≤ 16)

/-- A chain frame's message is in form: LEN is 0 to 8 (R469). -/
def ChainFrame.wf (f : ChainFrame) : Bool := f.msg.wf && decide (f.msg.len ≤ 8)

/-- A management frame carries at most 1,024 bytes (R623). -/
def MgmtFrame.wf (f : MgmtFrame) : Bool := decide (f.payload.length ≤ 1024)

/-- A host address of a 64-byte line (R556). -/
def lineAddr (a : Nat) : Bool := a % 64 == 0

/-- No position is named twice. -/
def distinct (l : List RouterN) : Bool := l.dedup.length == l.length

/-- A command's operands are in form. -/
def Instr.wf (i : Instr) : Bool :=
  match i with
  | .beadsPhase failed => distinct (failed.map (·.1))
  | .tickBoundary _ _ _ spareFail => distinct spareFail && spareFail.all fun p => p.val % 9 == 8
  | .msgFrame _ _ f => f.wf
  | .memRd hpa | .memWr hpa _ _ | .memWrPtl hpa _ _ | .memInv hpa | .memSpecRd hpa => lineAddr hpa
  | .mgmtDataFrame f | .mgmtAckFrame f | .mgmtNakFrame f | .mgmtIdleFrame f => f.wf
  | .shadowLoad granules => decide (1 ≤ granules)
  | .uncorrReread reads => decide (1 ≤ reads.length) && decide (reads.length ≤ 7)
  | .controlWindowWrite _ off _ _ => decide (off < 0x1000000)
  | _ => true

end Sys2Proof
end

