-- ==== Sys2Proof/Certificates/Slice0/Obligations.lean ====
section
/-! DEFINITION. The statements for the provers. `Completes c s p` says that command `c` answers a next state in which only
the parts of `writes c` differ and of which `p` holds. -/

open Sys2Proof Sys2Proof.Machine

/-! ### The whole machine -/

/-- A step takes the command at the front of the queue, and its outcome is that of exec on the queue's rest. -/
def Obligations.StepRunsFrontCommand : Prop :=
  ∀ (c : Instr) (rest : List Instr) (s : State),
    step { s with pending := c :: rest } = exec c { s with pending := rest }

/-- With nothing waiting one ck passes: up to the last ck of the tick while the main domains run, and nothing while they do
not; the queue stays empty. Where no operation has reached a clasp in the ck, in a ck other than ck 0 and with no port in a
pause, only the ck number, the row slots of the arrays, the hub's lines and the counters change (the model's choice: log
entries 1, 14, 25). -/
def Obligations.IdleStepPassesOneCk : Prop :=
  ∀ s : State, s.pending = [] →
    (s.standby.mainUp = false → step s = .next s) ∧
    (16383 ≤ s.clock.ck → step s = .next s) ∧
    (s.standby.mainUp = true → s.clock.ck < 16383 →
      ∃ t, step s = .next t ∧ t.clock.ck = s.clock.ck + 1 ∧
        OnlyIn [.clock, .beads, .fabric, .clasps, .mem, .bezels, .chain, .ledger, .faults, .hub, .asy, .out] s t ∧
        (s.clasps.acts = [] → s.clock.ck ≠ 0 ∨ s.clasps.waiters = [] → (∀ p < 16, (portOf s p).pauseTo = 0) →
          OnlyIn [.clock, .beads, .hub, .asy, .out] s t ∧ t.clock = { s.clock with ck := s.clock.ck + 1 }))

/-- The invariant holds of the module to which 48 V has just been applied. Where the spec leaves a point open the
model's choice is meant: log entries 3, 18. -/
def Obligations.ResetIsSafe : Prop := Safe State.reset

/-- What the registers hold when 48 V is first applied: the Reset values of their tables. Where the spec leaves a
point open the model's choice is meant: log entry 3. -/
def Obligations.ResetGivesTheResetValues : Prop :=
  let s := State.reset
  s.pending = [] ∧ s.clock.tick = 0 ∧ s.clock.mode = .quiescent ∧ s.standby.phase = 0 ∧ s.standby.mainUp = false ∧
  s.standby.lossTmo = 10 ∧ s.standby.owner = false ∧ s.ledger.depth = 4096 ∧ s.mem.splitNow = 64 ∧
  s.faults.hiwat = 0xC00 ∧ s.faults.autosub = true ∧ s.faults.reread = 4 ∧
  s.power.limit = 3200 ∧ s.power.grace = 1024 ∧ s.power.tjThrottle = 95 ∧ s.power.auto = true ∧
  s.chain.window = 8 ∧ s.chain.rspTmo = 4 ∧ s.host.uioTmo = 122 ∧ s.hub.pend = 0 ∧
  (∀ t < 37, hubMask s.hub t = BitVec.allOnes 2048) ∧ (∀ m, (mbxOf s m).log2n = 4 ∧ (mbxOf s m).en = false) ∧
  (∀ z, (bezelOf s z).scrubEn = true ∧ (bezelOf s z).thresh = 8 ∧ (bezelOf s z).rate = 10 ∧ (bezelOf s z).tol = 16) ∧
  (∀ o h, (hartOf (beadOf s o) h).run = .stopped ∧ (hartOf (beadOf s o) h).tcfg = 0x1404040)

/-- Every step keeps the invariant. Where the spec leaves a point open the model's choice is meant: log entries 1, 18. -/
def Obligations.EveryStepKeepsSafe : Prop :=
  ∀ s t : State, Safe s → step s = .next t → Safe t

/-- No step lowers the rollback counter, trusts a revoked root key again, or changes the grade. -/
def Obligations.FusesOnlyRise : Prop :=
  ∀ s t : State, step s = .next t → FusesRise s t

/-- A command changes no part of the state but those that `writes` lists for it. -/
def Obligations.CommandsWriteOnlyTheirParts : Prop :=
  ∀ (c : Instr) (s t : State), exec c s = .next t → OnlyIn (writes c) s t

/-- A step takes the front command off the queue and leaves the rest of the queue as it was, and every command answers a
next state: none stops the machine with a fault or a refusal. Where the spec leaves a point open the model's choice
is meant: log entries 12, 13. -/
def Obligations.StepsTakeTheFrontOffAndNeverFault : Prop :=
  (∀ s t : State, step s = .next t → t.pending = s.pending.tail) ∧
  ∀ (c : Instr) (s : State), ∃ t, exec c s = .next t

/-- A code word stored in a granule is what a read of the granule finds, and every other granule reads as before.
Where the spec leaves a point open the model's choice is meant: log entry 18. -/
def Obligations.GranulesHoldWhatIsStored : Prop :=
  ∀ (m : Memory) (g : Nat) (c : Code), m.wf → (codePut m g c).wf ∧ codeAt (codePut m g c) g = c ∧
    ∀ g', g' ≠ g → codeAt (codePut m g c) g' = codeAt m g'

/-! ### Power -/

/-- The events of power. 48 V starts the standby partition; the pin, HOLD_OFF and an overvoltage stop decide when
bring-up starts, with PHASE = RAMP and FAIL = 0 (R631, R741, R742, R776); LOSS_TMO expires only while the lane is
down and the management port owns the module (R637). An overvoltage stop and a fall of ENABLE ramp the main
domains down, whatever they were doing (R17, R18, R777); a loss of 48 V loses everything but the image slots, the
choice of slot and the fuses (R756). Where the spec leaves a point open the model's choice is meant: log entries
12, 77. -/
def Obligations.PowerEventsStartAndEndTheMainDomains : Prop :=
  ∀ s : State,
    (s.standby.standby = false →
      exec .powerApplied s = .next { s with standby := { s.standby with standby := true } }) ∧
    (s.standby.standby = true → s.standby.overvolt = true →
      exec .overvoltageRecovery s = .next { s with standby := { s.standby with overvolt := false } }) ∧
    (s.standby.standby = true → s.standby.cycling = true →
      exec .powerCycleHoldEnd s = .next { s with standby := { s.standby with holdOff := false, cycling := false } }) ∧
    (s.standby.standby = true → s.standby.enableIn = true → s.standby.holdOff = false → s.standby.overvolt = false →
        s.standby.phase = 0 →
      exec .bringUpStart s =
        .next { s with standby := { s.standby with phase := 1, fail := 0, boots := s.standby.boots + 1 } }) ∧
    (s.standby.mainUp = true → s.mgmt.up = false → s.standby.owner = true →
      exec .lossTmoExpiry s = .next { s with standby := { s.standby with release := true } }) ∧
    (s.standby.holdOff = true ∨ s.standby.enableIn = false ∨ s.standby.overvolt = true ∨ s.standby.phase ≠ 0 →
      exec .bringUpStart s = .next s) ∧
    (s.standby.standby = true → s.standby.overvolt = false → s.standby.phase ≠ 0 →
      Completes .overvoltageStop s fun t => RampedDown false s t ∧ t.standby.overvolt = true ∧
        t.standby.enableIn = s.standby.enableIn ∧ t.standby.holdOff = s.standby.holdOff) ∧
    (s.standby.phase ≠ 0 →
      Completes (.enableChange false) s fun t => RampedDown false s t ∧ t.standby.enableIn = false ∧
        t.standby.overvolt = s.standby.overvolt ∧ t.standby.holdOff = s.standby.holdOff) ∧
    (∀ level, level = true ∨ s.standby.phase = 0 →
      exec (.enableChange level) s = .next { s with standby := { s.standby with enableIn := level } }) ∧
    (s.standby.standby = true →
      Completes .inputVoltageLoss s fun t => t.standby.standby = false ∧ t.standby.phase = 0 ∧ t.faults = {} ∧
        t.clock = {} ∧ t.beads = [] ∧ t.mem = {} ∧ t.bezels = [] ∧ t.nutas = {} ∧ t.mbxs = [] ∧ t.mgmt = {} ∧
        t.standby.imgA = s.standby.imgA ∧ t.standby.imgB = s.standby.imgB ∧ t.standby.bootSlot = s.standby.bootSlot ∧
        t.standby.rollback = s.standby.rollback ∧ t.standby.revoked = s.standby.revoked)

/-! ### Bring-up -/

/-- The phases of bring-up (R743 to R749, R751 to R755, R757, R768): each goes on to the next, or fails with its own
code, or the boot starts again from the other slot, once; positions that fail the self-test are mapped out, the
routers pass, the host link begins to train, and a phase that does not end in time fails the bring-up. Where the
spec leaves a point open the model's choice is meant: log entries 15, 75, 76. -/
def Obligations.BringUpPhasesFollowOrFail : Prop :=
  ∀ s : State,
    (s.standby.phase = 1 →
      (Completes (.rampPhase .ok) s fun t => t.standby.phase = 2 ∧ t.standby.mainUp = true ∧ t.standby.owner = false ∧
        t.standby.fallback = s.standby.fallback ∧ t.standby.tried = false ∧ t.clock = {} ∧ t.beads = [] ∧ t.mem = {} ∧ t.bezels = [] ∧
        t.ledger.cur.fseq = s.faults.nextSeq + BitVec.ofNat 32 s.faults.waiting.length) ∧
      Completes (.rampPhase .rail) s (FailedWith 1 s) ∧ Completes (.rampPhase .clock) s (FailedWith 2 s)) ∧
    (s.standby.phase = 2 →
      Completes .romPhase s fun t => t.sec.pubKey = Config.hallmark ∧
        (if s.standby.tried = false ∧ romOk s (slotImage s.standby s.standby.bootSlot) = true then
           t.standby.phase = 3 ∧ t.standby.slot = s.standby.bootSlot ∧ t.standby.fallback = false
         else if romOk s (slotImage s.standby (!s.standby.bootSlot)) = true then
           t.standby.phase = 3 ∧ t.standby.slot = (!s.standby.bootSlot) ∧ t.standby.fallback = true
         else FailedWith 3 s t)) ∧
    (s.standby.phase = 3 →
      Completes .stage1Phase s fun t =>
        if stage2Ok s (slotImage s.standby s.standby.slot) = true then
          t.standby.phase = 4 ∧ (∀ p < 16, (portOf t p).st = .training) ∧
            t.sec.svn = BitVec.ofNat 32 (headOf (slotImage s.standby s.standby.slot)).svn
        else if s.standby.tried = true then FailedWith 3 s t
        else t.standby.phase = 2 ∧ t.standby.tried = true ∧ t.standby.fallback = true) ∧
    (s.standby.phase = 4 →
      (Completes (.stacksPhase none) s fun t => t.standby.phase = 5 ∧ (∀ g, codeAt t.mem g = codeAt {} g) ∧
        ∀ z < 16, ∀ p ∈ (bezelOf t z).redirect, (z * 2 ^ 25 + p.1, p.2) ∈ s.standby.retires) ∧
      ∀ z c, Completes (.stacksPhase (some (z, c))) s fun t => FailedWith 4 s t ∧
        t.standby.failStack = BitVec.ofNat 4 z.val ∧ t.standby.failChan = BitVec.ofNat 5 c.val) ∧
    (∀ failed, s.standby.phase = 5 →
      Completes (.beadsPhase failed) s fun t => t.standby.phase = 6 ∧ t.nutas.reach = reachNow t ∧
        ∀ p < 1152, posState s p ≠ 7 → p % 9 ≠ 8 →
          (testOf failed p = none → posState t p = posState s p) ∧
          (testOf failed p ≠ none → posState t p = 4 ∨ posState t p = 5)) ∧
    (s.standby.phase = 6 → s.clock.mode = .quiescent → s.clock.fabricOk = false →
      exec (.fabricPhase true) s = .next { s with clock := { s.clock with fabricOk := true } } ∧
      Completes (.fabricPhase false) s (FailedWith 5 s)) ∧
    (∀ ms, s.standby.phase = 6 → s.clock.mode = .arbitrated →
      Completes (.readyPhase ms) s fun t => t.standby.phase = 7 ∧ t.standby.ms = ms ∧ t.host.link = 1 ∧
        s.standby.rollback ≤ t.standby.rollback) ∧
    (1 ≤ s.standby.phase.toNat → s.standby.phase.toNat ≤ 6 → s.clock.mode = .quiescent →
      Completes .bringUpPhaseTimeout s (FailedWith 6 s))

/-! ### The tick boundary -/

/-- TICK_BOUNDARY of a module with no reachable peer that does not trip: the tick counts up by one and its ck start
again (R20, R25), the power controller takes its measurements (R780, R781, R793), the fabric that has passed opens
in arbitrated mode (R752), an overrun opens a hold tick (R34), and the hold tick is followed by the replay of the
overrun tick's work (R35). Where the spec leaves a point open the model's choice is meant: log entries 15, 65, 78. -/
def Obligations.TickBoundaryTurnsTheTick : Prop :=
  ∀ (s : State) (watts celsius : Nat) (vin : BitVec 10) (spareFail : List RouterN),
    s.standby.mainUp = true → s.clock.ck = 16383 → reachable s = [] → watts ≤ 4000 → celsius < 110 →
    Completes (.tickBoundary watts celsius vin spareFail) s fun t =>
      t.clock.ck = 0 ∧ t.clock.tick = s.clock.tick + 1 ∧ t.power.ptick = BitVec.ofNat 12 watts ∧
      t.power.tjmax = BitVec.ofNat 8 celsius ∧ t.power.vin = vin ∧ t.standby.mainUp = true ∧
      (s.clock.mode = .quiescent → s.clock.quiet = false → s.nutas.plan.phase = .none →
        t.clock.mode = if s.clock.fabricOk = true then .arbitrated else .quiescent) ∧
      (s.clock.mode = .scheduled → s.clock.hold = false → (ownCheck s).1 = true →
        t.clock.mode = .scheduled ∧ t.clock.hold = true ∧ t.clock.replay = false ∧
        (s.clock.replay = false → t.clock.overrunTick = s.clock.workTick)) ∧
      (s.clock.mode = .scheduled → s.clock.hold = true → s.clock.leaving = false → s.nutas.substs = [] →
          (∀ p < 16, (portOf s p).pauseTo = 0) →
        t.clock.mode = .scheduled ∧ t.clock.hold = false ∧ t.clock.replay = true ∧
        t.clock.workTick = s.clock.overrunTick)

/-! ### Clasps -/

/-- The waiters of a clasp in a ck in which no operation has reached it (R445, R446, R450): the oldest whose N the count covers takes it and leaves, and where none does,
all whose timeout has come leave without it; every other clasp is as before, and a bead's own waiter is
answered in its S-queue. Where the spec leaves a point open the model's choice is meant: log entry 25. -/
def Obligations.ClaspWaitersLeave : Prop :=
  ∀ (s : State) (c : ClaspId), s.standby.mainUp = true → (∀ a ∈ s.clasps.acts, a.key ≠ claspKey c) →
    (∀ w rest, waitersOf s (claspKey c) = w :: rest → w.n.toNat ≤ claspCount s (claspKey c) →
      Completes (.claspWaiterSatisfied c) s fun t =>
        claspCount t (claspKey c) = claspCount s (claspKey c) - w.n.toNat ∧ waitersOf t (claspKey c) = rest ∧
        (∀ k, k ≠ claspKey c → claspCount t k = claspCount s k ∧ waitersOf t k = waitersOf s k) ∧
        ∀ o e, w.by_ = .own o e → OtherBeads o.val s t ∧ t.fabric = s.fabric ∧ t.faults = s.faults ∧
          ∀ x, findEntry (beadOf s o.val) 3 e = some x → findEntry (beadOf t o.val) 3 e = some { x with fin := 1 }) ∧
    ((∃ w ∈ waitersOf s (claspKey c), w.due = some 0) →
      (∀ w rest, waitersOf s (claspKey c) = w :: rest → claspCount s (claspKey c) < w.n.toNat) →
      Completes (.claspWaitTimeout c) s fun t =>
        (∀ k, claspCount t k = claspCount s k) ∧
        waitersOf t (claspKey c) = (waitersOf s (claspKey c)).filter (fun w => w.due != some 0) ∧
        (∀ k, k ≠ claspKey c → waitersOf t k = waitersOf s k) ∧
        ((∀ w ∈ waitersOf s (claspKey c), w.due = some 0 → ∃ n tag, w.by_ = .node n tag) →
          t.beads = s.beads ∧ t.faults = s.faults))

/-! ### Registers -/

/-- R797: a 4-byte access reaches its half, a 4-byte write leaves the other half, and a read that covers part of a field
that reads clear does not clear it. -/
def Obligations.HalfAccessesReachTheirHalf : Prop :=
  (∀ (old v : Word) (i : Nat),
    (i < 32 → (rdWidth .low v).getLsbD i = v.getLsbD i ∧ (rdWidth .high v).getLsbD i = v.getLsbD (i + 32) ∧
      (wrWidth .low old v).getLsbD i = v.getLsbD i ∧ (wrWidth .high old v).getLsbD i = old.getLsbD i) ∧
    (32 ≤ i → i < 64 → (rdWidth .low v).getLsbD i = false ∧ (rdWidth .high v).getLsbD i = false ∧
      (wrWidth .low old v).getLsbD i = old.getLsbD i ∧ (wrWidth .high old v).getLsbD i = v.getLsbD (i - 32)) ∧
    rdWidth .full v = v ∧ wrWidth .full old v = v ∧
    ∀ (hi lo : Nat) (x zero : Word), lo ≤ hi → hi < 64 →
      rc .full hi lo x zero = zero ∧ rc .low hi lo x zero = (if hi < 32 then zero else x) ∧
        rc .high hi lo x zero = if 32 ≤ lo then zero else x) ∧
  ∀ off : Nat, off % 4 = 0 → accessWidth off 4 = some (if off % 8 = 0 then .low else .high)

/-- Reads of the counting registers: the value leaves, the fields of the half that is read become 0, and nothing else
changes (R399, R462, R510, R549, R581, R678, R707, R710, R712, R793); FLT_STAT answers while the main domains are
down as well (R800). Where the spec leaves a point open the model's choice is meant: log entry 72. -/
def Obligations.CountersClearOnRead : Prop :=
  ∀ (s : State) (w : Width),
    (s.standby.mainUp = true →
      (exec (.clpStatRead w) s = .next { s with
        out := s.out ++ [.regValue (rdWidth w (clpStat s.clasps))]
        clasps := { s.clasps with
          mismatch := clearedLow w s.clasps.mismatch 0, mgmtWrite := clearedLow w s.clasps.mgmtWrite 0
          late := clearedHigh w s.clasps.late 0, refused := clearedHigh w s.clasps.refused 0 } }) ∧
      (∀ p : PortN, Completes (.chnErrStatRead p w) s fun t =>
        t.out = s.out ++ [.regValue (rdWidth w (chnErrStat (portOf s p.val)))] ∧ OtherPorts p.val s t ∧
        portOf t p.val = { portOf s p.val with
          crcErr := clearedLow w (portOf s p.val).crcErr 0, resent := clearedLow w (portOf s p.val).resent 0
          laneSw := clearedHigh w (portOf s p.val).laneSw 0, tlost := clearedHigh w (portOf s p.val).tlost 0
          granErr := clearedHigh w (portOf s p.val).granErr 0 }) ∧
      (∀ b : BezelN, Completes (.bzlRedStatRead b w) s fun t =>
        t.out = s.out ++ [.regValue (rdWidth w (redStat (bezelOf s b.val)))] ∧ OtherBezels b.val s t ∧
        bezelOf t b.val = { bezelOf s b.val with
          dup := clearedLow w (bezelOf s b.val).dup 0, refused := clearedLow w (bezelOf s b.val).refused 0
          nonfinite := clearedHigh w (bezelOf s b.val).nonfinite 0, chkMiss := clearedHigh w (bezelOf s b.val).chkMiss 0
          chkSkip := clearedHigh w (bezelOf s b.val).chkSkip 0 }) ∧
      (∀ b : BezelN, Completes (.bzlEccStatRead b w) s fun t =>
        t.out = s.out ++ [.regValue (rdWidth w (eccStat (bezelOf s b.val)))] ∧ OtherBezels b.val s t ∧
        bezelOf t b.val = { bezelOf s b.val with
          corr1 := clearedLow w (bezelOf s b.val).corr1 0, corr2 := clearedLow w (bezelOf s b.val).corr2 0
          uncorr := clearedHigh w (bezelOf s b.val).uncorr 0, poison := clearedHigh w (bezelOf s b.val).poison 0 })) ∧
    (exec (.fltStatRead w) s = .next { s with
      out := s.out ++ [.regValue (rdWidth w (fltStat s.faults))]
      faults := { s.faults with dropped := clearedHigh w s.faults.dropped 0 } }) ∧
    (s.standby.mainUp = true →
      exec (.hlkErrStatRead w) s = .next { s with
        out := s.out ++ [.regValue (rdWidth w (hlkErr s.host))]
        host := { s.host with
          corr := clearedLow w s.host.corr 0, uncorr := clearedLow w s.host.uncorr 0
          linkDown := clearedHigh w s.host.linkDown 0, biTmo := clearedHigh w s.host.biTmo 0
          poisonRx := clearedHigh w s.host.poisonRx 0 } } ∧
      exec (.ldgOvrRead w) s = .next { s with
        out := s.out ++ [.regValue (rdWidth w (ldgOvr s.ledger))]
        ledger := { s.ledger with
          overruns := clearedLow w s.ledger.overruns 0, replays := clearedLow w s.ledger.replays 0
          ends := clearedHigh w s.ledger.ends 0, peerHolds := clearedHigh w s.ledger.peerHolds 0 } } ∧
      exec (.ldgTraceStatRead w) s = .next { s with
        out := s.out ++ [.regValue (rdWidth w (ldgTraceStat s.ledger))]
        ledger := { s.ledger with lost := clearedHigh w s.ledger.lost 0 } } ∧
      exec (.asyStatRead w) s = .next { s with
        out := s.out ++ [.regValue (rdWidth w (asyStat s.asy))]
        asy := { s.asy with skip := clearedHigh w s.asy.skip 0 } } ∧
      exec (.pwrStatRead w) s = .next { s with
        out := s.out ++ [.regValue (rdWidth w (pwrStat s.power))]
        power := { s.power with hotCnt := clearedHigh w s.power.hotCnt 0 } })

/-- A write that the register block does not permit the master is discarded and recorded with class MASTER (R639,
R798); while the main domains are down a register outside the FLT and MGT blocks answers nothing: neither a read
nor a write of it changes the state (R800), and none of the host's does while its link is not UP (R576). Where the spec leaves a point open the model's choice is meant: log
entry 72. -/
def Obligations.RegistersTurnAccessesAway : Prop :=
  (∀ (s : State) (m : Master) (w : Width) (v : Word), s.standby.mainUp = true → (m = .host → s.host.link = 2) →
    (∀ (c : Instr) (off : Nat), (c, off) ∈ ([(.clpValueWrite m w v, 0x060008), (.chnTimingWrite m w v, 0x0A0010),
        (.hlkBiRangeWrite m w v, 0x090018), (.ldgTraceWrite m w v, 0x000040), (.mgtPwrWrite m w v, 0x050000),
        (.commitReq m, 0x000038), (.commitCancel m, 0x000038), (.secCtlLock m, 0x070008)] : List (Instr × Nat)) →
      mayWrite s m off = false →
      Completes c s fun t => OnlyIn [.faults, .ledger] s t ∧ Recorded 0x16 blkLocket s t) ∧
    (∀ b : BezelN, ∀ ch, mayWrite s m 0x100000 = false →
      (Completes (.bzlRedCfgWrite m b w v) s fun t => OnlyIn [.faults, .ledger] s t ∧ Recorded 0x16 blkLocket s t) ∧
      (Completes (.bzlRetrainGo m b ch) s fun t => OnlyIn [.faults, .ledger] s t ∧ Recorded 0x16 blkLocket s t) ∧
      Completes (.bzlRetireGo m b) s fun t => OnlyIn [.faults, .ledger] s t ∧ Recorded 0x16 blkLocket s t) ∧
    (∀ mb : MbxN, (m = .host ∧ mb.val = 8) ∨ (m = .mgmt ∧ mb.val ≠ 8) →
      (Completes (.mbxDoorbell mb m v) s fun t => OnlyIn [.faults, .ledger] s t ∧ Recorded 0x16 blkLocket s t) ∧
      Completes (.mbxRst mb m) s fun t => OnlyIn [.faults, .ledger] s t ∧ Recorded 0x16 blkLocket s t) ∧
    (∀ (t : Fin 37) (k : Fin 32), (m = .host ∧ (t.val < 4 ∨ t.val = 36)) ∨ (m = .mgmt ∧ t.val ≠ 36) →
      (Completes (.irqMaskSet m t k v) s fun u => OnlyIn [.faults, .ledger] s u ∧ Recorded 0x16 blkLocket s u) ∧
      (Completes (.irqMaskClr m t k v) s fun u => OnlyIn [.faults, .ledger] s u ∧ Recorded 0x16 blkLocket s u) ∧
      (Completes (.irqPendSet m k v) s fun u => OnlyIn [.faults, .ledger] s u ∧ Recorded 0x16 blkLocket s u) ∧
      Completes (.irqPendClr m k v) s fun u => OnlyIn [.faults, .ledger] s u ∧ Recorded 0x16 blkLocket s u) ∧
    (m ≠ .host →
      (Completes (.mgtOwnGrant m) s fun t => OnlyIn [.faults, .ledger] s t ∧ Recorded 0x16 blkLocket s t) ∧
      Completes (.mgtOwnDeny m) s fun t => OnlyIn [.faults, .ledger] s t ∧ Recorded 0x16 blkLocket s t)) ∧
  (∀ (s : State) (w : Width) (v : Word) (b : BezelN) (p : PortN) (mb : MbxN) (t : Fin 37) (k ch : Fin 32) (off n : Nat)
      (c : Instr), s.host.link ≠ 2 →
    c ∈ ([.clpValueWrite .host w v, .chnCalGo .host p, .chnTimingWrite .host w v, .commitReq .host, .commitCancel .host,
      .bzlRedCfgWrite .host b w v, .hlkBiRangeWrite .host w v, .mbxDoorbell mb .host v, .mbxRst mb .host,
      .ldgTraceWrite .host w v, .irqPendSet .host k v, .irqPendClr .host k v, .irqMaskSet .host t k v,
      .irqMaskClr .host t k v, .irqClaim .host t, .secCtlLock .host, .bzlRetrainGo .host b ch, .bzlRetireGo .host b,
      .mgtPwrWrite .host w v, .mgtOwnGrant .host, .mgtOwnDeny .host, .controlWindowWrite .host off n v] : List Instr) →
    exec c s = .next s) ∧
  ∀ (s : State) (m : Master) (w : Width) (v : Word) (b : BezelN) (p : PortN) (mb : MbxN) (t : Fin 37) (k ch : Fin 32)
      (c : Instr), s.standby.mainUp = false →
    c ∈ ([.clpStatRead w, .chnErrStatRead p w, .bzlRedStatRead b w, .bzlEccStatRead b w, .hlkErrStatRead w, .ldgOvrRead w,
      .ldgTraceStatRead w, .asyStatRead w, .pwrStatRead w, .clpValueWrite m w v, .chnCalGo m p, .chnTimingWrite m w v,
      .commitReq m, .commitCancel m, .bzlRedCfgWrite m b w v, .hlkBiRangeWrite m w v, .mbxDoorbell mb m v, .mbxRst mb m,
      .ldgTraceWrite m w v, .irqPendSet m k v, .irqPendClr m k v, .irqMaskSet m t k v, .irqMaskClr m t k v,
      .irqClaim m t, .secCtlLock m, .bzlRetrainGo m b ch, .bzlRetireGo m b] : List Instr) →
    exec c s = .next s

/-- R645: after reset every source is masked for every target; a source is eligible for a target when it is pending and its
mask bit is 0; a bit written 1 to IRQ_MASK_SET or IRQ_MASK_CLR sets or
clears that source's mask bit for that target; every other mask bit is unchanged. -/
def Obligations.MaskBitsSetAndClear : Prop :=
  (∀ t src : Nat, src < 2048 → (hubMask State.reset.hub t).getLsbD src = true) ∧
  (∀ (h : Hub) (t src : Nat), (hubEligible h t).getLsbD src = (h.pend.getLsbD src && !(hubMask h t).getLsbD src)) ∧
  ∀ (s : State) (m : Master) (t : Fin 37) (w : Fin 32) (v : Word), s.standby.mainUp = true → (m = .host → s.host.link = 2) →
    (mayWrite s m (offMaskSet t.val w.val) = true →
      Completes (.irqMaskSet m t w v) s fun u => OnlyIn [.hub] s u ∧ u.hub.pend = s.hub.pend ∧
        ∀ t' src : Nat, src < 2048 → (hubMask u.hub t').getLsbD src =
          ((hubMask s.hub t').getLsbD src || (decide (t' = t.val) && decide (src / 64 = w.val) && v.getLsbD (src % 64)))) ∧
    (mayWrite s m (offMaskClr t.val w.val) = true →
      Completes (.irqMaskClr m t w v) s fun u => OnlyIn [.hub] s u ∧ u.hub.pend = s.hub.pend ∧
        ∀ t' src : Nat, src < 2048 → (hubMask u.hub t').getLsbD src =
          ((hubMask s.hub t').getLsbD src && !(decide (t' = t.val) && decide (src / 64 = w.val) && v.getLsbD (src % 64))))

/-- R643: an event sets its source's pending bit and adds 1 to its counter, which stays at 255, and a block's second of one ck
changes nothing (R640); a 1 written to IRQ_PEND_SET counts as one event, a 1 written to IRQ_PEND_CLR clears both, but for
what has come in the same ck (R650); reserved sources ignore it. Where the
spec leaves a point open the model's choice is meant: log entry 81. -/
def Obligations.EventsPendAndCount : Prop :=
  ∀ s : State, s.standby.mainUp = true →
    (∀ src : Fin 2048, hubLive s src.val = true → (src.val, 0) ∈ s.hub.raised → exec (.hubEvent src) s = .next s) ∧
    (∀ src : Fin 2048, hubLive s src.val = true → (src.val, 0) ∉ s.hub.raised →
      Completes (.hubEvent src) s fun u => (∀ i, u.hub.pend.getLsbD i = (s.hub.pend.getLsbD i || decide (i = src.val))) ∧
        (tblGet 0 u.hub.cnt src.val).toNat = min 255 ((tblGet 0 s.hub.cnt src.val).toNat + 1) ∧
        ∀ i, i ≠ src.val → tblGet 0 u.hub.cnt i = tblGet 0 s.hub.cnt i) ∧
    ∀ (m : Master) (w : Fin 32) (v : Word), (m = .host → s.host.link = 2) →
      (mayWrite s m (offPendSet w.val) = true →
        Completes (.irqPendSet m w v) s fun u => ∀ i < 2048,
          let hit := decide (i / 64 = w.val) && v.getLsbD (i % 64) && hubAssigned i
          u.hub.pend.getLsbD i = (s.hub.pend.getLsbD i || hit) ∧
          (tblGet 0 u.hub.cnt i).toNat = min 255 ((tblGet 0 s.hub.cnt i).toNat + b2n hit)) ∧
      (mayWrite s m (offPendClr w.val) = true →
        Completes (.irqPendClr m w v) s fun u => ∀ i < 2048,
          let hit := decide (i / 64 = w.val) && v.getLsbD (i % 64) && hubAssigned i
          u.hub.pend.getLsbD i = (s.hub.pend.getLsbD i && !(hit && decide (tblGet 0 s.hub.fresh i = 0))) ∧
          tblGet 0 u.hub.cnt i = if hit = true then tblGet 0 s.hub.fresh i else tblGet 0 s.hub.cnt i)

/-- R648, R650 and R651: a claim answers the highest-numbered source that was eligible for the target before the ck, with the
counter that it had, and clears both, but for the events of the ck; with no source eligible it answers VALID = 0; a master
that does not claim for the target reads the same value and changes nothing else. Where the spec leaves a point open the model's choice is meant: log entry 81. -/
def Obligations.ClaimsTakeTheHighestSource : Prop :=
  ∀ (s : State) (m : Master) (t : Fin 37), s.standby.mainUp = true → (m = .host → s.host.link = 2) →
    (claimable s.hub t.val = 0 →
      Completes (.irqClaim m t) s fun u => u.out = s.out ++ [.regValue 0] ∧ u.hub.pend = s.hub.pend ∧ u.hub.cnt = s.hub.cnt) ∧
    ∀ src : Nat, (claimable s.hub t.val).getLsbD src = true →
      (∀ i, src < i → (claimable s.hub t.val).getLsbD i = false) →
      Completes (.irqClaim m t) s fun u =>
        u.out = s.out ++ [.regValue (BitVec.ofNat 64 (src + (tblGet 0 s.hub.cntWas src).toNat * 65536 + 2 ^ 31))] ∧
        u.hub.mask = s.hub.mask ∧
        if (m = .core ∧ t.val < 4) ∨ (m = .host ∧ 4 ≤ t.val ∧ t.val ≤ 35) ∨ (m = .mgmt ∧ t.val = 36) then
          (∀ i, u.hub.pend.getLsbD i = (s.hub.pend.getLsbD i && decide (i ≠ src ∨ tblGet 0 s.hub.fresh src ≠ 0))) ∧
          tblGet 0 u.hub.cnt src = tblGet 0 s.hub.fresh src ∧ (claimable u.hub t.val).getLsbD src = false ∧
          ∀ i, i ≠ src → tblGet 0 u.hub.cnt i = tblGet 0 s.hub.cnt i
        else u.hub = s.hub

/-- R567: HLK_BI_RANGE takes a write only while Mem_Enable is 0; at any other time the write is ignored (a SIZE above 64 is
ignored too: R567's table). -/
def Obligations.CoherentRangeIsSetBeforeUse : Prop :=
  State.reset.host.biBase = 0 ∧ State.reset.host.biSize = 0 ∧
  ∀ (s : State) (m : Master) (w : Width) (v : Word), s.standby.mainUp = true → (m = .host → s.host.link = 2) → mayWrite s m 0x090018 = true →
    (s.host.memEn = true → exec (.hlkBiRangeWrite m w v) s = .next s) ∧
    (s.host.memEn = false → w ≠ .high →
      exec (.hlkBiRangeWrite m w v) s = .next { s with host := { s.host with
        biBase := v.setWidth 10
        biSize := if v.toNat / 1024 % 128 ≤ 64 then BitVec.ofNat 7 (v.toNat / 1024) else s.host.biSize } }) ∧
    (s.host.memEn = false → s.host.biSize.toNat ≤ 64 → exec (.hlkBiRangeWrite m .high v) s = .next s)

/-- Writes of the commit, lock and trace registers by a master that may make them (R541, R542, R705, R775). Where the
spec leaves a point open the model's choice is meant: log entry 72. -/
def Obligations.ControlBitsTakeEffect : Prop :=
  ∀ (s : State) (m : Master), s.standby.mainUp = true → (m = .host → s.host.link = 2) →
    (mayWrite s m 0x000038 = true →
      (s.commit.waiting = false → s.commit.armed = false →
        exec (.commitReq m) s = .next { s with commit := { s.commit with waiting := true, cancelled := false } }) ∧
      (s.commit.waiting = true ∨ s.commit.armed = true → exec (.commitReq m) s = .next s) ∧
      (s.commit.waiting = true →
        exec (.commitCancel m) s = .next { s with commit := { s.commit with waiting := false, cancelled := true } }) ∧
      (s.commit.waiting = false → exec (.commitCancel m) s = .next s)) ∧
    (mayWrite s m 0x070008 = true → exec (.secCtlLock m) s = .next { s with sec := { s.sec with lock := true } }) ∧
    (mayWrite s m 0x000040 = true →
      ∀ v : Word,
        (s.ledger.traceEn = true →
          exec (.ldgTraceWrite m .full v) s = .next { s with ledger := { s.ledger with traceEn := v.getLsbD 0 } }) ∧
        (s.ledger.traceEn = false → v.getLsbD 0 = true → v.toNat / 2 ^ 48 ≠ 0 →
          v.toNat / 4096 % 2 ^ 36 * 4096 + v.toNat / 2 ^ 48 * 4096 ≤ 0x10000000000 →
          exec (.ldgTraceWrite m .full v) s = .next { s with ledger := { s.ledger with
            traceEn := true, traceN := 0, written := 0, traceBuf := [], drops := 0
            traceBase := BitVec.ofNat 36 (v.toNat / 4096), traceSize := BitVec.ofNat 16 (v.toNat / 2 ^ 48) } }))

/-- Writes of the chain and bezel registers by a master that may make them (R498, R503, R508, R509, R547, R735, R738).
Where the spec leaves a point open the model's choice is meant: log entries 72, 84. -/
def Obligations.ChainAndBezelWritesTakeEffect : Prop :=
  ∀ (s : State) (m : Master), s.standby.mainUp = true → (m = .host → s.host.link = 2) →
    (mayWrite s m 0x0A0018 = true → ∀ p : PortN,
      Completes (.chnCalGo m p) s fun t => t.chain.calPort = BitVec.ofNat 4 p.val ∧ OtherPorts p.val s t ∧
        portOf t p.val =
          if (∀ k : PortN, (portOf s k.val).calGo = false) ∧ canCalibrate s p.val = true then
            { portOf s p.val with cal := true, calGo := true }
          else portOf s p.val) ∧
    (mayWrite s m 0x0A0010 = true → ∀ (w : Width) (v : Word),
      let x := (wrWidth w (chnTiming s.chain) v).toNat
      Completes (.chnTimingWrite m w v) s fun t => t.chain.rspTmo = BitVec.ofNat 4 (x / 256) ∧
        t.chain.ports = s.chain.ports ∧
        if w = .high then t.chain = s.chain ∧ t.faults = s.faults
        else if maxDelay s ≠ 0 ∧ 32 * (x % 64) < maxDelay s + 64 then
          t.chain.window = s.chain.window ∧ Recorded 0x16 blkLocket s t
        else if x % 64 < 4 then t.chain.window = s.chain.window ∧ t.faults = s.faults
        else t.chain.window = BitVec.ofNat 6 x ∧ t.faults = s.faults) ∧
    (∀ b : BezelN, mayWrite s m (offBzl b.val 0) = true →
      (∀ v : Word, Completes (.bzlRedCfgWrite m b .full v) s fun t => OtherBezels b.val s t ∧
        let n := v.toNat % 2 ^ 17
        let lo := v.toNat / 2 ^ 17 % 2 ^ 25
        if planRuns s = true then bezelOf t b.val = bezelOf s b.val ∧ Recorded 0x16 blkLocket s t
        else
          let m := if n ≤ 65536 then n else (bezelOf s b.val).nblk.toNat
          if lo * 2048 + 2048 * m ≤ 64 * 2 ^ 30
          then bezelOf t b.val = { bezelOf s b.val with nblk := BitVec.ofNat 17 m, intakeLo := BitVec.ofNat 25 lo } ∧
            t.faults = s.faults
          else bezelOf t b.val = bezelOf s b.val ∧ Recorded 0x16 blkLocket s t) ∧
      (∀ ch : Fin 32, Completes (.bzlRetrainGo m b ch) s fun t => OtherBezels b.val s t ∧
        (bezelOf t b.val).retrainSel = BitVec.ofNat 5 ch.val ∧
        if (∀ z : BezelN, (bezelOf s z.val).retrainPhase = .idle) then
          (bezelOf t b.val).retrainPhase = .copy ∧ (bezelOf t b.val).retrainCh = BitVec.ofNat 5 ch.val ∧
          (bezelOf t b.val).copied = 0
        else (bezelOf t b.val).retrainPhase = (bezelOf s b.val).retrainPhase ∧
          (bezelOf t b.val).retrainCh = (bezelOf s b.val).retrainCh) ∧
      Completes (.bzlRetireGo m b) s fun t => OtherBezels b.val s t ∧
        bezelOf t b.val = { bezelOf s b.val with
          retiring := (bezelOf s b.val).retiring ++ [(bezelOf s b.val).retireFrame.toNat] })

/-- Writes of MGT_PWR and MGT_OWN (R631, R632, R635, R636), and of CLP_VALUE by the management port (R460, R461): the count is
set behind the other operations of the ck at the clasp (R446), as an idle step shows, and a write that names a clasp of a bead
that is not there is discarded and recorded (R683).
Where the spec leaves a point open the model's choice is meant: log entries 72, 73. -/
def Obligations.OwnershipAndClaspWritesTakeEffect : Prop :=
  ∀ s : State,
    (∀ (m : Master) (v : Word), m ≠ .host → v.getLsbD 0 = false →
      exec (.mgtPwrWrite m .full v) s =
        .next { s with standby := { s.standby with holdOff := false, cycling := false } }) ∧
    (∀ (m : Master) (v : Word), m ≠ .host → v.getLsbD 0 = true →
      Completes (.mgtPwrWrite m .full v) s fun t => t.standby.holdOff = true ∧ t.standby.cycling = false ∧
        t.standby.phase = 0 ∧ (s.standby.phase ≠ 0 → RampedDown false s t)) ∧
    (s.host.link = 2 → s.standby.pending = true →
      exec (.mgtOwnGrant .host) s = .next { s with standby := { s.standby with granted := true } } ∧
      Completes (.mgtOwnDeny .host) s fun t => t.standby.pending = false ∧ t.standby.granted = false ∧
        t.standby.force = false ∧ t.standby.graceLeft = 0 ∧ t.standby.takeReq = none ∧ t.standby.owner = s.standby.owner) ∧
    (s.standby.pending = false → exec (.mgtOwnGrant .host) s = .next s ∧ exec (.mgtOwnDeny .host) s = .next s) ∧
    (s.standby.mainUp = true → ∀ (w : Width) (v : Word) (k : Nat), w ≠ .high → clpKey s = some k →
      exec (.clpValueWrite .mgmt w v) s = .next { s with clasps := { s.clasps with
        acts := insertAct ⟨k, rankSet, .set (v.toNat % 65536)⟩ s.clasps.acts } }) ∧
    (∀ k n : Nat, s.standby.mainUp = true → s.pending = [] → s.clock.ck ≠ 0 → s.clock.ck < 16383 → n < 65536 →
      s.clasps.acts = [⟨k, rankSet, .set n⟩] → (132, claspBlk k) ∉ s.hub.raised → (∀ p < 16, (portOf s p).pauseTo = 0) →
      ∃ t, step s = .next t ∧ claspCount t k = n ∧ tblGet 0 t.clasps.snap k = BitVec.ofNat 16 n ∧
        t.clasps.mgmtWrite = satInc s.clasps.mgmtWrite ∧ Recorded 0x0C (claspBlk k) s t ∧
        t.hub.pend.getLsbD 132 = true ∧ t.clasps.acts = [] ∧ t.clasps.waiters = s.clasps.waiters ∧
        ∀ k', k' ≠ k → claspCount t k' = claspCount s k') ∧
    (s.standby.mainUp = true → ∀ (w : Width) (v : Word), clpKey s = none → clpGone s = true →
      Completes (.clpValueWrite .mgmt w v) s fun t => OnlyIn [.faults, .ledger] s t ∧ Recorded 0x17 blkLocket s t)

/-- The doorbell and RST of a mailbox by its master (R571, R585, R586, R593, R594). Where the spec leaves a point open
the model's choice is meant: log entry 49. -/
def Obligations.MailboxRegistersTakeEffect : Prop :=
  ∀ (s : State) (mb : MbxN) (m : Master), s.standby.mainUp = true → (m = .host → s.host.link = 2) →
    (m = .mgmt ↔ mb.val = 8) → m ≠ .core →
    (∀ v : Word, (mbxOf s mb.val).en = true → (mbxOf s mb.val).rst = false → (mbxOf s mb.val).err = false →
      mbxServed s mb.val = true → v.toNat % 4096 < ringSize s mb.val →
      let q := mbxOf s mb.val
      let n := ringSize s mb.val
      let posted := (v.toNat % 4096 + n - q.tail) % n
      Completes (.mbxDoorbell mb m v) s fun t => OtherMbxs mb.val s t ∧
        if posted ≤ (q.head + n - 1 + n - q.tail) % n then
          mbxOf t mb.val = { q with tail := v.toNat % 4096 } ∧ t.faults = s.faults ∧ t.hub = s.hub
        else mbxOf t mb.val = { q with err := true, errCode := 2 } ∧ Recorded 0x15 blkLocket s t) ∧
    (∀ v : Word, (mbxOf s mb.val).en = false →
      Completes (.mbxDoorbell mb m v) s fun t => OnlyIn [.faults, .ledger] s t ∧ Recorded 0x15 blkLocket s t) ∧
    (∀ v : Word, (mbxOf s mb.val).en = true → mbxServed s mb.val = false →
      Completes (.mbxDoorbell mb m v) s fun t => OnlyIn [.faults, .ledger] s t ∧ Recorded 0x14 blkCxl s t) ∧
    (∀ v : Word, (mbxOf s mb.val).en = true → mbxServed s mb.val = true →
      (mbxOf s mb.val).rst = true ∨ (mbxOf s mb.val).err = true → exec (.mbxDoorbell mb m v) s = .next s) ∧
    Completes (.mbxRst mb m) s fun t => OtherMbxs mb.val s t ∧
      (∀ c ∈ t.nutas.cmds, c.mbx = mb → c.started = true) ∧ (∀ c ∈ t.nutas.ready, c.mbx ≠ mb) ∧
      (∀ c ∈ s.nutas.cmds, c.mbx ≠ mb ∨ c.started = true → c ∈ t.nutas.cmds) ∧
      if startedOf s mb.val = [] then (mbxOf t mb.val).rst = false ∧ (mbxOf t mb.val).head = 0 ∧
        (mbxOf t mb.val).tail = 0 ∧ (mbxOf t mb.val).cplTail = 0 ∧ (mbxOf t mb.val).phase = true ∧
        (mbxOf t mb.val).held = []
      else (mbxOf t mb.val).rst = true ∧ (mbxOf t mb.val).held = (mbxOf s mb.val).held

/-- A control-window write of the wrong size or alignment is recorded and discarded (R555); one to a reserved offset
is discarded and recorded (R798). Where the spec leaves a point open the model's choice is meant: log entries 44,
72. -/
def Obligations.WindowWritesTakeEffect : Prop :=
  ∀ (s : State) (m : Master) (v : Word), (m = .host → s.host.link = 2) →
    (∀ off bytes, accessWidth off bytes = none →
      Completes (.controlWindowWrite m off bytes v) s fun t => OnlyIn [.faults, .ledger] s t ∧ Recorded 0x14 blkCxl s t) ∧
    (∀ off, off % 8 = 0 → s.standby.mainUp = true → regAssigned off = false →
      Completes (.controlWindowWrite m off 8 v) s fun t => OnlyIn [.faults, .ledger] s t ∧ Recorded 0x16 blkLocket s t) ∧
    (s.standby.mainUp = true → mayWriteBits s m 0x060000 .full v = true →
      exec (.controlWindowWrite m 0x060000 8 v) s = .next { s with clasps := { s.clasps with sel := v.setWidth 24 } }) ∧
    (s.standby.mainUp = true → mayWriteBits s m 0x000030 .full v = true → s.commit.waiting = false → s.commit.armed = false →
      exec (.controlWindowWrite m 0x000030 8 v) s = .next { s with commit := { s.commit with regions := v } })

/-! ### The harts of a bead -/

/-- A hart's instructions outside memory and the queues (R45, R46): the result goes to rd and the pc to the next
instruction; an environment call, an illegal instruction and MRET below M mode trap into the monitor, and MRET in
M mode returns; nothing else of the module changes. Where the spec leaves a point open the model's choice is
meant: log entries 26, 27, 28. -/
def Obligations.ScalarInstructionsActOnTheirHart : Prop :=
  ∀ (s : State) (o : Ord) (h : HartN) (f : Fetched), fetched s o.val h.val = some f → f.len ≠ 0 →
    let t := hartOf (beadOf s o.val) h.val
    (∀ rd rs1 rs2, f.insn = .op 0 0 false rd rs1 rs2 →
      Completes (.scalarInstruction o h) s fun u => HartOnly o.val h.val s u ∧
        hartOf (beadOf u o.val) h.val = advance f.len (setX rd (xReg t rs1 + xReg t rs2) t)) ∧
    (∀ rd rs1 imm, f.insn = .opImm 0 false false rd rs1 imm →
      Completes (.scalarInstruction o h) s fun u => HartOnly o.val h.val s u ∧
        hartOf (beadOf u o.val) h.val = advance f.len (setX rd (xReg t rs1 + imm) t)) ∧
    (∀ rd imm, f.insn = .jal rd imm →
      Completes (.scalarInstruction o h) s fun u => HartOnly o.val h.val s u ∧
        hartOf (beadOf u o.val) h.val = jumpTo (setX rd (t.pc + BitVec.ofNat 64 f.len) t) (t.pc + imm)) ∧
    (∀ rs1 rs2 imm, f.insn = .branch 0 rs1 rs2 imm →
      Completes (.scalarInstruction o h) s fun u => HartOnly o.val h.val s u ∧
        hartOf (beadOf u o.val) h.val = if xReg t rs1 = xReg t rs2 then jumpTo t (t.pc + imm) else advance f.len t) ∧
    (∀ t', scalarDo (beadOf s o.val) h f = .hart t' →
      Completes (.scalarInstruction o h) s fun u => HartOnly o.val h.val s u ∧ hartOf (beadOf u o.val) h.val = t') ∧
    (f.insn = .mret → t.userMode = false →
      Completes (.scalarInstruction o h) s fun u => HartOnly o.val h.val s u ∧
        let t' := hartOf (beadOf u o.val) h.val
        t'.pc = t.mepc ∧ (t'.userMode = false ↔ t.mstatus.toNat / 2048 % 4 = 3) ∧ t'.x = t.x ∧ t'.mepc = t.mepc ∧
        t'.mstatus.getLsbD 3 = t.mstatus.getLsbD 7 ∧ t'.mstatus.getLsbD 7 = true) ∧
    ((f.insn = .ecall ∨ f.insn = .illegal ∨ (f.insn = .mret ∧ t.userMode = true)) →
      Completes (.scalarInstruction o h) s fun u => HartOnly o.val h.val s u ∧
        let t' := hartOf (beadOf u o.val) h.val
        t'.mcause = (if f.insn = .ecall then if t.userMode = true then 8 else 11 else 2) ∧
        t'.mtval = (if f.insn = .ecall then 0 else f.word.setWidth 64) ∧
        t'.mepc = t.pc ∧ t'.pc = t.mtvec &&& ~~~ (3#64) ∧ t'.userMode = false ∧ t'.x = t.x ∧
        t'.mstatus.getLsbD 3 = false ∧ t'.mstatus.getLsbD 7 = t.mstatus.getLsbD 3)

/-- Waits, fences, CSR writes and the queue-fault interrupt (R62, R66, R71, R134, R140, R808): a WFI waits where no enabled
interrupt is pending, a FENCE with W and a FENCE.I are held while the hart's stores have not returned, and the interrupt gives
up a request of its hart that has not left, but waits for an atomic that has. Where the spec leaves a point open the model's
choice is meant: log entries 26, 27, 85, 86. -/
def Obligations.HartWaitsFencesAndCsrWrites : Prop :=
  ∀ (s : State) (o : Ord) (h : HartN),
    let t := hartOf (beadOf s o.val) h.val
    (∀ f, fetched s o.val h.val = some f →
      (f.insn = .wfi → (qfip (beadOf s o.val) = false ∨ t.qfie = false) →
        Completes (.wfi o h) s (HartGoes o h { advance f.len t with run := .wfi } s)) ∧
      (f.insn = .wfi → qfip (beadOf s o.val) = true → t.qfie = true →
        Completes (.wfi o h) s (HartGoes o h { advance f.len t with run := .running } s)) ∧
      (∀ pred, f.insn = .fence pred → (pred % 2 = 0 ∨ t.stores = 0) →
        Completes (.fence o h) s (HartGoes o h (advance f.len t) s)) ∧
      (∀ pred, f.insn = .fence pred → pred % 2 = 1 → t.stores ≠ 0 → Completes (.fence o h) s (HeldBy o h .fence s)) ∧
      (f.insn = .fenceI → t.stores = 0 → Completes (.fenceI o h) s (HartGoes o h (advance f.len t) s)) ∧
      (f.insn = .fenceI → t.stores ≠ 0 → Completes (.fenceI o h) s (HeldBy o h .fence s)) ∧
      (∀ rd rs1, f.insn = .csr 1 rd rs1 0x800 → Completes (.csrWrite o h) s (HartGoes o h
        (advance f.len (setX rd (t.tcfg.setWidth 64) { t with tcfg := (xReg t rs1).setWidth 28 &&& 0xF7F7F7F })) s)) ∧
      (∀ rd rs1, f.insn = .csr 1 rd rs1 0x801 → Completes (.csrWrite o h) s (HartGoes o h
        (advance f.len (setX rd (t.resumeRow.setWidth 64) { t with resumeRow := (xReg t rs1).setWidth 6 })) s)) ∧
      (∀ rd rs1, f.insn = .csr 1 rd rs1 0x7C0 → t.userMode = false → Completes (.csrWrite o h) s fun u =>
        BeadIs { beadOf s o.val with xfsel := (xReg t rs1).setWidth 2 } o.val h.val s u ∧
        hartOf (beadOf u o.val) h.val = advance f.len (setX rd ((beadOf s o.val).xfsel.setWidth 64) t)) ∧
      (∀ rd rs1, f.insn = .csr 1 rd rs1 0x7C0 → t.userMode = true →
        Completes (.scalarInstruction o h) s (HartGoes o h (takeTrap false 2 (f.word.setWidth 64) t) s))) ∧
    (beadRuns s o.val = true → t.run ≠ .stopped → (∃ q : QueueN, (queueOf (beadOf s o.val) q.val).stop = true) →
      t.qfie = true → (t.userMode = true ∨ t.mstatus.getLsbD 3 = true) →
      (atomicOut (beadOf s o.val) h.val = false → Completes (.qfipTrap o h) s fun u => OtherBeads o.val s u ∧
        (∀ h', h' ≠ h.val → hartOf (beadOf u o.val) h' = hartOf (beadOf s o.val) h') ∧
        beadOf u o.val = { beadOf s o.val with harts := (beadOf u o.val).harts, reqs := (beadOf u o.val).reqs } ∧
        (∀ r, r ∈ (beadOf u o.val).reqs ↔ r ∈ (beadOf s o.val).reqs ∧ (t.hold = .load r.id → r.st = .issued)) ∧
        let t' := hartOf (beadOf u o.val) h.val
        t'.mcause = 0x8000000000000010#64 ∧ t'.mepc = t.pc ∧ t'.userMode = false ∧ t'.hold = .none ∧ t'.x = t.x ∧
        t'.pc = (t.mtvec &&& ~~~ (3#64)) + if t.mtvec.toNat % 4 = 1 then 64 else 0) ∧
      (atomicOut (beadOf s o.val) h.val = true → exec (.qfipTrap o h) s = .next s))

/-- Scalar accesses to memory (R47, R48, R49, R60, R61, R162, R163, R166, R167, R807). A misaligned access traps with the address
in mtval. In the bead's own data memory, a load takes the value of a good granule and an LR makes its reservation; a store and an
AMO replace just their bytes, rd taking the old value; an SC whose reservation stands stores and answers 0, another answers 1 and
stores nothing, and the reservation is given up; a bad granule gives an access fault and stays. In the fragment window, a load
and a store act on the row's elements, wait while the register is FILLING or read, and an access of a byte, of a poisoned row or
by an atomic is an access fault. Elsewhere, a load takes the value of an L1 line that holds it; what else must go beyond the bead
makes a request that holds the hart, a store's letting it go on at once, waits for a walk where the page is not at hand, and
traps where its translation fails. Where the spec leaves a point open the model's choice is meant: log entries 26, 29, 38, 88. -/
def Obligations.ScalarAccessesToDataMemory : Prop :=
  ∀ (s : State) (o : Ord) (h : HartN) (f : Fetched), fetched s o.val h.val = some f →
    let b := beadOf s o.val
    let t := hartOf b h.val
    let gran := fun a : Word => dmemGran o.val ((devAddr a - ownBase o.val) / 32)
    (∀ f3 fp rd rs1 imm, f.insn = .load f3 fp rd rs1 imm →
      let a := xReg t rs1 + imm
      let p := windowPlace o.val h.val (devAddr a)
      let r : Req := { id := b.nextId, owner := .hartLoad h, kind := .read, dev := devAddr a / 32 * 32, n := 1, bytes := devAddr a }
      (devAddr a % 2 ^ (f3 % 4) ≠ 0 → Completes (.scalarLoad o h) s (HartGoes o h (takeTrap false 4 a t) s)) ∧
      (devAddr a % 2 ^ (f3 % 4) = 0 →
        (inOwnDmem o.val (devAddr a) = true →
          (isBad (codeAt s.mem (gran a)) = false → Completes (.scalarLoad o h) s (HartGoes o h (advance f.len
            (loadTo fp rd (loadValue f3 (devAddr a % 32) (goodData (codeAt s.mem (gran a)))) t)) s)) ∧
          (isBad (codeAt s.mem (gran a)) = true → Completes (.scalarLoad o h) s (HartGoes o h (takeTrap false 5 a t) s))) ∧
        (inOwnDmem o.val (devAddr a) = false → inOwnWindow o.val (devAddr a) = true →
          (f3 % 4 = 0 → Completes (.scalarLoad o h) s (HartGoes o h (takeTrap false 5 a t) s)) ∧
          (f3 % 4 ≠ 0 → windowBusy b p.1 = true → Completes (.scalarLoad o h) s (HeldBy o h .window s)) ∧
          (f3 % 4 ≠ 0 → windowBusy b p.1 = false → rowPoison (tileOf b p.1) p.2.1 = true →
            Completes (.scalarLoad o h) s (HartGoes o h (takeTrap false 5 a t) s)) ∧
          (f3 % 4 ≠ 0 → windowBusy b p.1 = false → rowPoison (tileOf b p.1) p.2.1 = false →
            Completes (.scalarLoad o h) s (HartGoes o h (advance f.len (loadTo fp rd
              (loadValue f3 0 (BitVec.ofNat 256 (rowNumber (tileOf b p.1) p.2.1 / 256 ^ p.2.2))) t)) s))) ∧
        (inOwnDmem o.val (devAddr a) = false → inOwnWindow o.val (devAddr a) = false →
          (∀ l, l1Find b (devAddr a / 64) = some l → Completes (.scalarLoad o h) s fun u => u.mem = s.mem ∧
            BeadIs { b with l1 := (beadOf u o.val).l1 } o.val h.val s u ∧ hartOf (beadOf u o.val) h.val =
              advance f.len (loadTo fp rd (loadValue f3 (devAddr a % 32) (goodData (l1Gran l (devAddr a)))) t)) ∧
          (l1Find b (devAddr a / 64) = none → (∀ x ∈ b.reqs, x.id ≠ b.nextId) →
            (firstStop s o.val r = none → Completes (.scalarLoad o h) s fun u => u.mem = s.mem ∧ OtherBeads o.val s u ∧
              hartOf (beadOf u o.val) h.val = { t with hold := .load b.nextId } ∧
              ∃ x ∈ (beadOf u o.val).reqs, x.id = r.id ∧ x.owner = r.owner ∧ x.kind = r.kind ∧ x.bytes = r.bytes ∧ x.st = .ready) ∧
            (∀ dev, firstStop s o.val r = some (dev, none) → Completes (.scalarLoad o h) s fun u => u.mem = s.mem ∧
              OtherBeads o.val s u ∧ hartOf (beadOf u o.val) h.val = { t with hold := .load b.nextId } ∧
              (beadOf u o.val).reqs = b.reqs ++ [{ r with st := .walk }]) ∧
            (∀ dev x, firstStop s o.val r = some (dev, some x) → Completes (.scalarLoad o h) s fun u => u.mem = s.mem ∧
              OtherBeads o.val s u ∧ (beadOf u o.val).reqs = b.reqs ∧ hartOf (beadOf u o.val) h.val =
                takeTrap false (if x = .page then 13 else 5) (BitVec.ofNat 64 (devAddr a)) t))))) ∧
    (∀ dbl rd rs1 rs2, f.insn = .amo 2 dbl rd rs1 rs2 →
      let a := xReg t rs1
      let n := if dbl = true then 8 else 4
      let r : Req := { id := b.nextId, owner := .hartAtomic h, kind := .atomic, dev := devAddr a / 32 * 32, n := 1, bytes := devAddr a,
                       mask := [2, BitVec.ofNat 32 n, BitVec.ofNat 32 (devAddr a % 32)] }
      (devAddr a % n ≠ 0 → Completes (.scalarLoad o h) s (HartGoes o h (takeTrap false 4 a t) s)) ∧
      (devAddr a % n = 0 →
        (inOwnDmem o.val (devAddr a) = true →
          (isBad (codeAt s.mem (gran a)) = false → Completes (.scalarLoad o h) s fun u => HartOnly o.val h.val s u ∧
            hartOf (beadOf u o.val) h.val =
              advance f.len (setX rd (amoOld n (devAddr a % 32) (goodData (codeAt s.mem (gran a)))) t) ∧
            (∀ g, codeAt u.mem g = codeAt s.mem g) ∧ resvHeld u (4 * o.val + h.val) (gran a) = true) ∧
          (isBad (codeAt s.mem (gran a)) = true → Completes (.scalarLoad o h) s (HartGoes o h (takeTrap false 5 a t) s))) ∧
        (inOwnDmem o.val (devAddr a) = false → inOwnWindow o.val (devAddr a) = true →
          Completes (.scalarLoad o h) s (HartGoes o h (takeTrap false 7 a t) s)) ∧
        (inOwnDmem o.val (devAddr a) = false → inOwnWindow o.val (devAddr a) = false → (∀ x ∈ b.reqs, x.id ≠ b.nextId) →
          firstStop s o.val r = none →
          Completes (.scalarLoad o h) s fun u => u.mem = s.mem ∧ OtherBeads o.val s u ∧
            hartOf (beadOf u o.val) h.val = { t with hold := .load b.nextId } ∧
            ∃ x ∈ (beadOf u o.val).reqs, x.id = r.id ∧ x.owner = r.owner ∧ x.kind = r.kind ∧ x.dev = r.dev ∧ x.bytes = r.bytes ∧
              x.mask = r.mask ∧ x.st = .ready))) ∧
    (∀ (f3 : Nat) (fp : Bool) (rs1 rs2 : Fin 32) (imm : Word), f.insn = .store f3 fp rs1 rs2 imm →
      let a := xReg t rs1 + imm
      let v := (if fp = true then (fReg t rs2).setWidth 64 else xReg t rs2).toNat % 2 ^ (8 * 2 ^ f3)
      let gran := gran a
      let p := windowPlace o.val h.val (devAddr a)
      let r : Req := { id := b.nextId, owner := .hartStore h, kind := .part, dev := devAddr a / 32 * 32, n := 1, bytes := devAddr a,
                       data := [encodeGran (granAt (devAddr a % 32) v)], mask := [maskOf (devAddr a % 32) (2 ^ f3)] }
      (devAddr a % 2 ^ f3 ≠ 0 → Completes (.scalarStore o h) s (HartGoes o h (takeTrap false 6 a t) s)) ∧
      (devAddr a % 2 ^ f3 = 0 →
        (inOwnDmem o.val (devAddr a) = true →
          (isBad (codeAt s.mem gran) = false → s.mem.wf → Completes (.scalarStore o h) s fun u => HartOnly o.val h.val s u ∧
            hartOf (beadOf u o.val) h.val = advance f.len t ∧ u.bezels = s.bezels ∧
            (∀ g, g ≠ gran → codeAt u.mem g = codeAt s.mem g) ∧
            codeAt u.mem gran = encodeGran (mergeBytes (goodData (codeAt s.mem gran)) (granAt (devAddr a % 32) v)
              (maskOf (devAddr a % 32) (2 ^ f3)))) ∧
          (isBad (codeAt s.mem gran) = true → Completes (.scalarStore o h) s (HartGoes o h (takeTrap false 7 a t) s))) ∧
        (inOwnDmem o.val (devAddr a) = false → inOwnWindow o.val (devAddr a) = true →
          (2 ^ f3 = 1 → Completes (.scalarStore o h) s (HartGoes o h (takeTrap false 7 a t) s)) ∧
          (2 ^ f3 ≠ 1 → windowBusy b p.1 = true → Completes (.scalarStore o h) s (HeldBy o h .window s)) ∧
          (2 ^ f3 ≠ 1 → windowBusy b p.1 = false → Completes (.scalarStore o h) s fun u => u.mem = s.mem ∧
            BeadIs (windowStore p.1 p.2.1 p.2.2 v (2 ^ f3) b) o.val h.val s u ∧
            hartOf (beadOf u o.val) h.val = advance f.len t)) ∧
        (inOwnDmem o.val (devAddr a) = false → inOwnWindow o.val (devAddr a) = false → (∀ x ∈ b.reqs, x.id ≠ b.nextId) →
          (firstStop s o.val r = none → Completes (.scalarStore o h) s fun u => u.mem = s.mem ∧ OtherBeads o.val s u ∧
            hartOf (beadOf u o.val) h.val = { advance f.len t with stores := t.stores + 1 } ∧
            ∃ x ∈ (beadOf u o.val).reqs, x.id = r.id ∧ x.owner = r.owner ∧ x.kind = r.kind ∧ x.dev = r.dev ∧ x.bytes = r.bytes ∧
              x.data = r.data ∧ x.mask = r.mask ∧ x.st = .ready) ∧
          (∀ dev, firstStop s o.val r = some (dev, none) → Completes (.scalarStore o h) s fun u => u.mem = s.mem ∧
            OtherBeads o.val s u ∧ hartOf (beadOf u o.val) h.val = { t with hold := .load b.nextId } ∧
            (beadOf u o.val).reqs = b.reqs ++ [{ r with st := .walk }]) ∧
          (∀ dev x, firstStop s o.val r = some (dev, some x) → Completes (.scalarStore o h) s fun u => u.mem = s.mem ∧
            OtherBeads o.val s u ∧ (beadOf u o.val).reqs = b.reqs ∧ hartOf (beadOf u o.val) h.val =
              takeTrap false (if x = .page then 15 else 7) (BitVec.ofNat 64 (devAddr a)) t)))) ∧
    (∀ (f5 : Nat) (dbl : Bool) (rd rs1 rs2 : Fin 32), f.insn = .amo f5 dbl rd rs1 rs2 → f5 ≠ 2 →
      let a := xReg t rs1
      let n := if dbl = true then 8 else 4
      let off := devAddr a % 32
      let gran := gran a
      let g := goodData (codeAt s.mem gran)
      let id := 4 * o.val + h.val
      let stored := fun v : Word => encodeGran (mergeBytes g (granAt off (v.toNat % 2 ^ (8 * n))) (maskOf off n))
      let r : Req := { id := b.nextId, owner := .hartAtomic h, kind := .atomic, dev := devAddr a / 32 * 32, n := 1, bytes := devAddr a,
                       mask := [BitVec.ofNat 32 f5, BitVec.ofNat 32 n, BitVec.ofNat 32 off] }
      (devAddr a % n ≠ 0 → Completes (.scalarAtomic o h) s (HartGoes o h (takeTrap false 6 a t) s)) ∧
      (devAddr a % n = 0 →
        (inOwnDmem o.val (devAddr a) = true → isBad (codeAt s.mem gran) = false → s.mem.wf →
          (f5 ≠ 3 → Completes (.scalarAtomic o h) s fun u => HartOnly o.val h.val s u ∧ u.bezels = s.bezels ∧
            hartOf (beadOf u o.val) h.val = advance f.len (setX rd (amoOld n off g) t) ∧
            (∀ k, k ≠ gran → codeAt u.mem k = codeAt s.mem k) ∧
            codeAt u.mem gran = stored (amoValue f5 n (amoOld n off g) (xReg t rs2)) ∧
            (f5 = 0 → codeAt u.mem gran = stored (amoOld n off g + xReg t rs2)) ∧
            (f5 = 1 → codeAt u.mem gran = stored (xReg t rs2))) ∧
          (f5 = 3 → resvHeld s id gran = true → Completes (.scalarAtomic o h) s fun u => HartOnly o.val h.val s u ∧
            u.bezels = s.bezels ∧ hartOf (beadOf u o.val) h.val = advance f.len (setX rd 0 t) ∧
            (∀ k, k ≠ gran → codeAt u.mem k = codeAt s.mem k) ∧ codeAt u.mem gran = stored (xReg t rs2) ∧
            tblGet 0 u.mem.resv id = 0) ∧
          (f5 = 3 → resvHeld s id gran = false → Completes (.scalarAtomic o h) s fun u => HartOnly o.val h.val s u ∧
            u.bezels = s.bezels ∧ hartOf (beadOf u o.val) h.val = advance f.len (setX rd 1 t) ∧
            (∀ k, codeAt u.mem k = codeAt s.mem k) ∧ tblGet 0 u.mem.resv id = 0)) ∧
        (inOwnDmem o.val (devAddr a) = true → isBad (codeAt s.mem gran) = true →
          Completes (.scalarAtomic o h) s (HartGoes o h (takeTrap false 7 a t) s)) ∧
        (inOwnDmem o.val (devAddr a) = false → inOwnWindow o.val (devAddr a) = true →
          Completes (.scalarAtomic o h) s (HartGoes o h (takeTrap false 7 a t) s)) ∧
        (inOwnDmem o.val (devAddr a) = false → inOwnWindow o.val (devAddr a) = false → (∀ x ∈ b.reqs, x.id ≠ b.nextId) →
          (firstStop s o.val r = none → Completes (.scalarAtomic o h) s fun u => u.mem = s.mem ∧ OtherBeads o.val s u ∧
            hartOf (beadOf u o.val) h.val = { t with hold := .load b.nextId } ∧
            ∃ x ∈ (beadOf u o.val).reqs, x.id = r.id ∧ x.owner = r.owner ∧ x.kind = r.kind ∧ x.dev = r.dev ∧ x.bytes = r.bytes ∧
              x.mask = r.mask ∧ x.st = .ready) ∧
          (∀ dev, firstStop s o.val r = some (dev, none) → Completes (.scalarAtomic o h) s fun u => u.mem = s.mem ∧
            OtherBeads o.val s u ∧ hartOf (beadOf u o.val) h.val = { t with hold := .load b.nextId } ∧
            ∃ x ∈ (beadOf u o.val).reqs, x.id = r.id ∧ x.owner = r.owner ∧ x.bytes = r.bytes ∧ x.st = .walk) ∧
          (∀ dev x, firstStop s o.val r = some (dev, some x) → Completes (.scalarAtomic o h) s fun u => u.mem = s.mem ∧
            OtherBeads o.val s u ∧ (beadOf u o.val).reqs = b.reqs ∧ hartOf (beadOf u o.val) h.val =
              takeTrap false (if x = .page then 15 else 7) (BitVec.ofNat 64 (devAddr a)) t))))

/-- The Xmacel instructions of the four queues (R55, R56, R79, R94, R95, R139): where the queue has room, the entry, with what it
captures at issue, joins its end in the issue ck, stopped or not, and the hart goes on; a full queue holds the hart and nothing
else changes. Of the entries that wait, only what the M-queue has read of a mask may differ (R296). -/
def Obligations.XmacelInstructionsEnterTheirQueue : Prop :=
  ∀ (s : State) (o : Ord) (h : HartN) (i : XInsn) (f : Fetched) (q : Fin 4), xAt s o h = some (i, f) → queueFor i = some q →
    ((queueOf (beadOf s o.val) q.val).ents.length < 32 →
      (isMmA i = true → Completes (.mmA o h) s (Entered o h i f q s)) ∧
      (isMmB i = true → Completes (.mmB o h) s (Entered o h i f q s)) ∧
      (isMmAB i = true → Completes (.mmAB o h) s (Entered o h i f q s)) ∧
      (isMmBwd i = true → Completes (.mmBwd o h) s (Entered o h i f q s)) ∧
      (isTld i = true → Completes (.tld o h) s (Entered o h i f q s)) ∧
      (isTst i = true → Completes (.tst o h) s (Entered o h i f q s)) ∧
      (isStrGo i = true → Completes (.strGo o h) s (Entered o h i f q s)) ∧
      (isStrStop i = true → Completes (.strStop o h) s (Entered o h i f q s)) ∧
      (isDtFill i = true → Completes (.dtFill o h) s (Entered o h i f q s)) ∧
      (isDrAct i = true → Completes (.drAct o h) s (Entered o h i f q s)) ∧
      (isDrDact i = true → Completes (.drDact o h) s (Entered o h i f q s)) ∧
      (isDrStat i = true → Completes (.drStat o h) s (Entered o h i f q s)) ∧
      (isClaspSig i = true → Completes (.claspSig o h) s (Entered o h i f q s)) ∧
      (isClaspWait i = true → Completes (.claspWait o h) s (Entered o h i f q s)) ∧
      (isClaspTake i = true → Completes (.claspTake o h) s (Entered o h i f q s)) ∧
      (isChWr i = true → Completes (.chWr o h) s (Entered o h i f q s)) ∧
      (isChRd i = true → Completes (.chRd o h) s (Entered o h i f q s)) ∧
      (isChAcc i = true → Completes (.chAcc o h) s (Entered o h i f q s))) ∧
    (32 ≤ (queueOf (beadOf s o.val) q.val).ents.length →
      (isMmA i = true → Completes (.mmA o h) s (HeldBy o h .queue s)) ∧
      (isMmB i = true → Completes (.mmB o h) s (HeldBy o h .queue s)) ∧
      (isMmAB i = true → Completes (.mmAB o h) s (HeldBy o h .queue s)) ∧
      (isMmBwd i = true → Completes (.mmBwd o h) s (HeldBy o h .queue s)) ∧
      (isTld i = true → Completes (.tld o h) s (HeldBy o h .queue s)) ∧
      (isTst i = true → Completes (.tst o h) s (HeldBy o h .queue s)) ∧
      (isStrGo i = true → Completes (.strGo o h) s (HeldBy o h .queue s)) ∧
      (isStrStop i = true → Completes (.strStop o h) s (HeldBy o h .queue s)) ∧
      (isDtFill i = true → Completes (.dtFill o h) s (HeldBy o h .queue s)) ∧
      (isDrAct i = true → Completes (.drAct o h) s (HeldBy o h .queue s)) ∧
      (isDrDact i = true → Completes (.drDact o h) s (HeldBy o h .queue s)) ∧
      (isDrStat i = true → Completes (.drStat o h) s (HeldBy o h .queue s)) ∧
      (isClaspSig i = true → Completes (.claspSig o h) s (HeldBy o h .queue s)) ∧
      (isClaspWait i = true → Completes (.claspWait o h) s (HeldBy o h .queue s)) ∧
      (isClaspTake i = true → Completes (.claspTake o h) s (HeldBy o h .queue s)) ∧
      (isChWr i = true → Completes (.chWr o h) s (HeldBy o h .queue s)) ∧
      (isChRd i = true → Completes (.chRd o h) s (HeldBy o h .queue s)) ∧
      (isChAcc i = true → Completes (.chAcc o h) s (HeldBy o h .queue s)))

/-- The Xmacel instructions that run in the pipeline (R56, R82, R113, R114, R115, R123, R124). DT.WR and DT.RD write and read a
word of the descriptor table; TREL waits for the earlier entries that name a listed register and then empties the listed ones;
L1.INV and L1.INVA drop lines; QBAR places its markers in one ck, is held by a full queue, holds its hart with H until the
barrier passes, and passes at once where every masked queue is empty. -/
def Obligations.PipelineXmacelInstructions : Prop :=
  ∀ (s : State) (o : Ord) (h : HartN) (f : Fetched),
    let b := beadOf s o.val
    let t := hartOf b h.val
    (∀ w rs1 rs2, xAt s o h = some (.dtWr w rs1 rs2, f) → Completes (.dtWr o h) s fun u =>
      BeadIs { b with dt := (beadOf u o.val).dt } o.val h.val s u ∧ hartOf (beadOf u o.val) h.val = advance f.len t ∧
      tblGet 0 (beadOf u o.val).dt ((xReg t rs1).toNat % 4096) =
        setDescWord (tblGet 0 b.dt ((xReg t rs1).toNat % 4096)) w.val (xReg t rs2) ∧
      ∀ k, k ≠ (xReg t rs1).toNat % 4096 → tblGet 0 (beadOf u o.val).dt k = tblGet 0 b.dt k) ∧
    (∀ w rs1 rd, xAt s o h = some (.dtRd w rs1 rd, f) → Completes (.dtRd o h) s (HartGoes o h
      (advance f.len (setX rd (BitVec.ofNat 64 ((tblGet 0 b.dt ((xReg t rs1).toNat % 4096)).toNat / 2 ^ (64 * w.val))) t)) s)) ∧
    (∀ rs1 before, xAt s o h = some (.trel rs1, f) → (t.hold = .trel before ∨ ((∀ n, t.hold ≠ .trel n) ∧ before = b.nextId)) →
      (namesBefore b before (trelTiles (xReg t rs1)) = false → Completes (.trel o h) s fun u =>
        BeadIs { b with tiles := (beadOf u o.val).tiles } o.val h.val s u ∧ hartOf (beadOf u o.val) h.val = advance f.len t ∧
        (∀ k < 16, (xReg t rs1).getLsbD k = true → tileOf (beadOf u o.val) k = {}) ∧
        ∀ k, (16 ≤ k ∨ (xReg t rs1).getLsbD k = false) → tileOf (beadOf u o.val) k = tileOf b k) ∧
      (namesBefore b before (trelTiles (xReg t rs1)) = true → Completes (.trel o h) s (HeldBy o h (.trel before) s))) ∧
    (∀ rs1 rs2, xAt s o h = some (.l1Inv rs1 rs2, f) →
      let a := (xReg t rs1).toNat % 2 ^ 48
      let n := (xReg t rs2).toNat
      let noalloc := b.reqs.map fun r => { r with noalloc := true }
      (n = 0 → Completes (.l1Inv o h) s (HartGoes o h (advance f.len t) s)) ∧
      (65536 ≤ n → Completes (.l1Inv o h) s fun u => BeadIs { b with l1 := [], reqs := noalloc } o.val h.val s u ∧
        hartOf (beadOf u o.val) h.val = advance f.len t) ∧
      (0 < n → n < 65536 → Completes (.l1Inv o h) s fun u =>
        BeadIs { b with l1 := (beadOf u o.val).l1, reqs := noalloc } o.val h.val s u ∧
        hartOf (beadOf u o.val) h.val = advance f.len t ∧
        ∀ l, l ∈ (beadOf u o.val).l1 ↔ l ∈ b.l1 ∧ ¬ (a / 64 ≤ l.line ∧ l.line ≤ (a + n - 1) / 64))) ∧
    (xAt s o h = some (.l1InvA, f) → Completes (.l1InvA o h) s fun u =>
      BeadIs { b with l1 := [], reqs := b.reqs.map fun r => { r with noalloc := true } } o.val h.val s u ∧
      hartOf (beadOf u o.val) h.val = advance f.len t) ∧
    (∀ hold, xAt s o h = some (.qbar 0 hold, f) → Completes (.qbar o h) s (HartGoes o h (advance f.len t) s)) ∧
    (∀ mask hold, xAt s o h = some (.qbar mask hold, f) → mask ≠ 0 →
      ((∃ q : QueueN, mask.getLsbD q.val = true ∧ 32 ≤ (queueOf b q.val).ents.length) →
        Completes (.qbar o h) s (HeldBy o h .queue s)) ∧
      ((∀ q : QueueN, mask.getLsbD q.val = true → (queueOf b q.val).ents.length < 32) →
        (∀ q : QueueN, headBarrier b q.val = none) →
        ((∃ q : QueueN, mask.getLsbD q.val = true ∧ (queueOf b q.val).ents ≠ []) → Completes (.qbar o h) s fun u =>
          OtherBeads o.val s u ∧
          (∀ q : QueueN, mask.getLsbD q.val = true → (queueOf (beadOf u o.val) q.val).ents.map unmasked =
            ((queueOf b q.val).ents ++ [marker b.nextId h f.word]).map unmasked) ∧
          (∀ q : QueueN, mask.getLsbD q.val = false →
            (queueOf (beadOf u o.val) q.val).ents.map unmasked = (queueOf b q.val).ents.map unmasked) ∧
          (hold = true → hartOf (beadOf u o.val) h.val = { t with hold := .qbar b.nextId }) ∧
          (hold = false → hartOf (beadOf u o.val) h.val = advance f.len t)) ∧
        ((∀ q : QueueN, mask.getLsbD q.val = true → (queueOf b q.val).ents = []) → b.nextId ≠ 0 →
          (∀ q : QueueN, ∀ e ∈ (queueOf b q.val).ents, e.barrier ≠ b.nextId) → Completes (.qbar o h) s fun u =>
          OtherBeads o.val s u ∧
          (∀ q : QueueN, (queueOf (beadOf u o.val) q.val).ents.map unmasked = (queueOf b q.val).ents.map unmasked) ∧
          hartOf (beadOf u o.val) h.val = { t with pc := t.pc + 4, hold := .none })))

/-- A write of XQCTL (R135, R136): RESUME makes a stopped queue's head wait again, a transfer at the row its hart's
TILE_RESUME_ROW holds; DISCARD empties a stopped queue. -/
def Obligations.StoppedQueuesAreResumedOrDiscarded : Prop :=
  ∀ (s : State) (o : Ord) (h : HartN) (u : CsrUse) (len : Nat),
    let b := beadOf s o.val
    (xqctlUse s o h .resume = some (u, len) → Completes (.xqctlResume o h) s fun t => OtherBeads o.val s t ∧
      ∀ (q : QueueN) (e : QEntry) (rest : List QEntry), (queueOf b q.val).stop = true → u.new.getLsbD q.val = true →
        (queueOf b q.val).ents = e :: rest →
        (queueOf (beadOf t o.val) q.val).stop = false ∧
        ∃ e', (queueOf (beadOf t o.val) q.val).ents = e' :: rest ∧ e'.id = e.id ∧ e'.word = e.word ∧ e'.insn = e.insn ∧
          e'.st = .waiting ∧ e'.bad = none ∧
          (takesRow e.insn = false → e'.fin = 0) ∧
          (takesRow e.insn = true → (∀ q' : QueueN, q' ≠ q → ∀ x ∈ (queueOf b q'.val).ents, takesRow x.insn = false) →
            e'.fin = (hartOf b e.hart.val).resumeRow.toNat)) ∧
    (xqctlUse s o h .discard = some (u, len) → Completes (.xqctlDiscard o h) s fun t => OtherBeads o.val s t ∧
      ∀ q : QueueN, (queueOf b q.val).stop = true → u.new.getLsbD (4 + q.val) = true →
        (queueOf (beadOf t o.val) q.val).stop = false ∧ (queueOf (beadOf t o.val) q.val).ents = [])

/-! ### Queue entries -/

/-- ENTRY_START (R80, R98, R99, R107, R133, R156, R443): an entry whose checks hold starts, a load with its tile register
FILLING, and an increment of an own clasp goes to that clasp; one whose check fails stops its queue with the code of R133, and the
fault is recorded. An entry is looked at as it comes to its start, with the ck and what the registers it writes hold; stated where
no entry of a later queue has started in the same ck and nothing else of the bead moves. Where the spec leaves a point open the
model's choice is meant: log entries 30, 31, 32, 106. -/
def Obligations.EntriesStartOrStopTheirQueue : Prop :=
  ∀ (s : State) (o : Ord) (q : QueueN) (e : QEntry), beadRuns s o.val = true → s.clock.hold = false →
    nextToStart (beadOf s o.val) q.val = some e → (queueOf (beadOf s o.val) q.val).ents.head? = some e →
    canStart s o.val q.val e = true → BeadQuiet s o.val →
    (∀ k : QueueN, q.val < k.val → ∀ x ∈ (queueOf (beadOf s o.val) k.val).ents, justStarted (absCk s + 1) x = false) →
    let e' := atStart s o.val e
    let s' := modBead o.val (modEntry q.val e.id fun _ => e') s
    (∀ t rs1 rs2 noalloc, q.val = 1 → e.insn = .tld t rs1 rs2 noalloc →
      (transferFault s' o.val e' t.val false = none →
        Completes (.entryStart o q) s fun u => OtherBeads o.val s u ∧ u.mem = s.mem ∧
          findEntry (beadOf u o.val) 1 e.id = some { e' with st := .started, began := true } ∧
          (tileOf (beadOf u o.val) t.val).st = .filling) ∧
      (∀ c, transferFault s' o.val e' t.val false = some c →
        Completes (.entryStart o q) s fun u => OtherBeads o.val s u ∧ Recorded 0x01 o.val s u ∧
          (queueOf (beadOf u o.val) 1).stop = true ∧
          (queueOf (beadOf u o.val) 1).xrec.code = BitVec.ofNat 6 c ∧
          (queueOf (beadOf u o.val) 1).xrec.insn = e.word)) ∧
    (∀ rs1 rs2, q.val = 1 → e.insn = .dtFill rs1 rs2 →
      (fillFirst e + fillCount e ≤ 4096 →
        Completes (.entryStart o q) s fun u => OtherBeads o.val s u ∧ u.mem = s.mem ∧
          findEntry (beadOf u o.val) 1 e.id = some { e' with st := .started, began := true }) ∧
      (4096 < fillFirst e + fillCount e →
        Completes (.entryStart o q) s fun u => OtherBeads o.val s u ∧ Recorded 0x01 o.val s u ∧
          (queueOf (beadOf u o.val) 1).stop = true ∧
          (queueOf (beadOf u o.val) 1).xrec.code = BitVec.ofNat 6 fcBadHandle)) ∧
    (∀ rs1 rs2, q.val = 3 → e.insn = .claspSig rs1 rs2 → e.v1.toNat % 4096 < 64 → e.v1.toNat / 4096 % 4 = 0 →
      e.v1.getLsbD 28 = false → e.v2.toNat % 65536 ≠ 0 →
      Completes (.entryStart o q) s fun u => OtherBeads o.val s u ∧
        u.clasps = { s.clasps with acts := insertAct ⟨o.val * 64 + e.v1.toNat % 64, rankAdd portOwn,
          .own (e.v2.toNat % 65536) (Fin.ofNat 1024 o.val) e.id⟩ s.clasps.acts } ∧
        findEntry (beadOf u o.val) 3 e.id = some { e' with st := .started, began := true, next := 0, fin := 0 })

/-- ENTRY_COMPLETE (R80, R97, R112, R160, R214): the head whose work is done leaves its queue and XQDONE counts it,
its tile register or accumulator FULL; one that met poison on its way stops the queue with DATA_POISON. Where the
spec leaves a point open the model's choice is meant: log entries 31, 32. -/
def Obligations.EntriesComplete : Prop :=
  ∀ (s : State) (o : Ord) (q : QueueN) (e : QEntry), beadRuns s o.val = true →
    runningHead (beadOf s o.val) q.val = some e → entryFinished s o.val q.val e = true →
    (e.poisonAt = none → Completes (.entryComplete o q) s fun t =>
      (queueOf (beadOf t o.val) q.val).done = (queueOf (beadOf s o.val) q.val).done + 1 ∧
      (queueOf (beadOf t o.val) q.val).ents.length < (queueOf (beadOf s o.val) q.val).ents.length ∧
      (q.val = 0 → OtherBeads o.val s t ∧ t.mem = s.mem ∧
        ∀ a ∈ arraysOf e, (accOf (beadOf t o.val) (accKeyOf e a)).full = true) ∧
      (∀ k rs1 rs2 noalloc, q.val = 1 → e.insn = .tld k rs1 rs2 noalloc → OtherBeads o.val s t ∧ t.mem = s.mem ∧
        (tileOf (beadOf t o.val) k.val).st = .full)) ∧
    (∀ part, e.poisonAt = some part → Completes (.entryComplete o q) s fun t =>
      (queueOf (beadOf t o.val) q.val).stop = true ∧ (queueOf (beadOf t o.val) q.val).xrec.code = 0x0A ∧
      (queueOf (beadOf t o.val) q.val).done = (queueOf (beadOf s o.val) q.val).done)

/-- A bead's requests and its page walks (R47, R323, R326, R327, R362, R365). Where the spec leaves a point open the
model's choice is meant: log entry 25. -/
def Obligations.RequestsIssueAndAreTranslated : Prop :=
  (∀ (s : State) (o : Ord) (r : Req), beadRuns s o.val = true → s.clock.hold = false →
    nextRow (beadOf s o.val) = none → askStrands o.val s = s → chooseReq s o.val = some r → findReq (beadOf s o.val) r.id = some r →
    reqParts s r ≠ [] →
    Completes (.requestIssue o) s fun t => OtherBeads o.val s t ∧ (∀ g, codeAt t.mem g = codeAt s.mem g) ∧
      findReq (beadOf t o.val) r.id =
        some { r with st := .issued, slot := some (freeSlot (beadOf s o.val)), parts := (reqParts s r).length } ∧
      (beadOf t o.val).queues = (beadOf s o.val).queues ∧ (beadOf t o.val).harts = (beadOf s o.val).harts) ∧
  (∀ (s : State) (o : Ord) (req dev : Nat) (r : Req), s.standby.mainUp = true → findReq (beadOf s o.val) req = some r →
    r.st = .walk → firstMiss s o.val r = some dev → (walksOf s (clusterOf o.val)).length < 16 →
    Completes (.pageWalk o req) s fun t => OtherBeads o.val s t ∧
      findReq (beadOf t o.val) req = some { r with st := .walking } ∧
      (∀ c, c ≠ clusterOf o.val → walksOf t c = walksOf s c) ∧
      ∃ w : Walk, walksOf t (clusterOf o.val) = walksOf s (clusterOf o.val) ++ [w] ∧ w.bead = o ∧ w.req = req ∧
        w.gran = dev) ∧
  (∀ (s : State) (cl : Fin 32) (w : Walk) (rest : List Walk), s.standby.mainUp = true → walksOf s cl.val = w :: rest →
    (∀ r h, w.res = none → findReq (beadOf s w.bead.val) w.req = some r → r.owner = .hartLoad h →
      Completes (.pageWalkComplete cl) s fun t => walksOf t cl.val = rest ∧ OtherBeads w.bead.val s t ∧
        hartOf (beadOf t w.bead.val) h.val =
          takeTrap false 13 (BitVec.ofNat 64 r.bytes) (hartOf (beadOf s w.bead.val) h.val)) ∧
    (∀ x, w.res = some x → w.cached = true →
      Completes (.pageWalkComplete cl) s fun t => walksOf t cl.val = rest ∧ OtherBeads w.bead.val s t ∧
        x ∈ (beadOf t w.bead.val).tlb ∧ (beadOf t w.bead.val).tlb.length ≤ 32))

/-- The twin arrays (R187, R189, R190, R191, R223): loaded standby weights become active and free the standby
registers (a split entry's low parts load into them), a row of a tile register or of a strand joins the rows on their way in each
array it is for, and the oldest row is added into its accumulator. Where the spec leaves a point open the model's choice is meant: log entries 32, 33, 78, 90. -/
def Obligations.ArraysLoadStreamAndAccumulate : Prop :=
  ∀ (s : State) (o : Ord) (a : ArrN), beadRuns s o.val = true →
    let b := beadOf s o.val
    (∀ w e, (arrayOf b a.val).standby = some w → streaming b a.val = some e → w.loaded = w.rows → w.entry = e.id →
      w.pass = passAt e a.val → rowAt e a.val = 0 →
      Completes (.weightsActivate o a) s fun t => OtherBeads o.val s t ∧ t.mem = s.mem ∧
        (arrayOf (beadOf t o.val) a.val).active = some w ∧
        (arrayOf (beadOf t o.val) a.val).flight = (arrayOf b a.val).flight ∧
        (tcSplit e.tcfg = false → (arrayOf (beadOf t o.val) a.val).standby = none) ∧
        (tcSplit e.tcfg = true → w.pass = 0 → (stationary e a.val).isSome = true →
          (arrayOf (beadOf t o.val) a.val).standby = some (loadWeights b e a.val 2)) ∧
        (beadOf t o.val).accs = b.accs ∧ (beadOf t o.val).tiles = b.tiles) ∧
    (∀ e r, rowDue b a.val = some e → tileSource b e a.val = some r → dutyOpen s = true →
      sourceReady s o.val e a.val = true →
      Completes (.arrayRowEnter o a) s fun t => OtherBeads o.val s t ∧ t.mem = s.mem ∧
        (∀ k ∈ rowArrays e a.val, ∀ w, rowWeights b e k = some w → ∃ l : List RowJob,
          (arrayOf (beadOf t o.val) k).flight = (arrayOf b k).flight ++ rowJob e k r w (startMask e) :: l ∧
          ∀ j ∈ l, j.xs = [] ∧ j.frozen = true) ∧
        (beadOf t o.val).accs = b.accs ∧ (beadOf t o.val).tiles = b.tiles) ∧
    (∀ e n x, rowDue b a.val = some e → strandSource e = some n → (isBwd e = false ∨ a.val = 0) → dutyOpen s = true →
      feedNext s o.val n = none → feedHead b n = .run x → x.stale = false → (x.bad = false ∨ x.void = true) →
      Completes (.arrayRowEnter o a) s fun t => OtherBeads o.val s t ∧
        ∀ k ∈ rowArrays e a.val, ∀ w, rowWeights b e k = some w → ∃ l : List RowJob,
          (arrayOf (beadOf t o.val) k).flight =
            (arrayOf b k).flight ++ rowJob e k (runRow x (redOf e a.val)) w (startMask e) :: l ∧
          ∀ j ∈ l, j.xs = [] ∧ j.frozen = true) ∧
    (∀ j rest, (arrayOf b a.val).flight = j :: rest →
      let k := accKey (a.val == 1) j.acc.val
      Completes (.arrayRowComplete o a) s fun t => OtherBeads o.val s t ∧ t.mem = s.mem ∧
        (arrayOf (beadOf t o.val) a.val).flight = rest ∧ (beadOf t o.val).tiles = b.tiles ∧
        (∀ e, findEntry b 0 j.entry = some e → e.bad = none →
          accOf (beadOf t o.val) k = addRow j (accOf b k) ∧
          ∀ k', k' ≠ k → accOf (beadOf t o.val) k' = accOf b k') ∧
        (findEntry b 0 j.entry = none → (∀ x ∈ rest, x.entry ≠ j.entry) → accOf (beadOf t o.val) k = {}))

/-- The drain units (R237, R243, R273, R278, R279): preparation keeps the block, the pages and what it finds against the
entry, the next row enters with the unit's random state of that moment, and the oldest row is written: into a tile
register as 16-bit values rounded by the entry's format or split in two registers, into memory in the bead's own data
memory at once; a poisoned row ends its entry. Where the spec leaves a point open the
model's choice is meant: log entries 24, 34. -/
def Obligations.DrainUnitsPrepareEnterAndWrite : Prop :=
  ∀ (s : State) (o : Ord) (a : ArrN), beadRuns s o.val = true →
    let b := beadOf s o.val
    (∀ e u, toPrepare b a.val = some (e, u) → findEntry b 2 e.id = some e → s.clock.hold = false →
      (∀ r ∈ b.reqs, r.st ≠ .walk) →
      Completes (.drainPrepare o a) s fun t => OtherBeads o.val s t ∧ t.mem = s.mem ∧
        ∃ pages : List (Nat × Nat), pages.map (·.1) = destPages o.val e.d1 (destTiles s e u) ∧
          findEntry (beadOf t o.val) 2 e.id = some { e with
            prepared := true, params := readBlock s o.val e u, pages := pages
            prepBad := (prepFault s o.val e u).map fun p =>
              (BitVec.ofNat 6 p.1, BitVec.ofNat 16 p.2.1, BitVec.ofNat 48 p.2.2) }) ∧
    (∀ e u, draining b a.val = some (e, u) → drainRoom b a.val e u = true → findEntry b 2 e.id = some e →
      Completes (.drainRowEnter o a) s fun t => OtherBeads o.val s t ∧
        findEntry (beadOf t o.val) 2 e.id = some { e with next := e.next + 1 } ∧
        (∃ j, (drainOf (beadOf t o.val) a.val).jobs = (drainOf b a.val).jobs ++ [j] ∧ j.entry = e.id ∧ j.row = e.next ∧
          j.lfsr = (match (drainOf b a.val).lfsr with
            | some v => v
            | none => lfsrSeed s.clock.workTick o.val a.val) ∧
          (j.bad = false → (drainOf (beadOf t o.val) a.val).lfsr = some (lfsrRow j.lfsr))) ∧
        (drainOf (beadOf t o.val) a.val).file = (drainOf b a.val).file ∧ (beadOf t o.val).accs = b.accs) ∧
    (∀ j rest e u, (drainOf b a.val).jobs = j :: rest → findEntry b 2 j.entry = some e → drainUse e = some u →
      Completes (.drainRowWrite o a) s fun t => OtherBeads o.val s t ∧ (beadOf t o.val).accs = b.accs ∧
        (drainOf (beadOf t o.val) a.val).jobs = rest ∧
        (∀ g, (∀ i < 24576, g ≠ dmemGran o.val i) → codeAt t.mem g = codeAt s.mem g) ∧
        (j.bad = true → ∃ x, findEntry (beadOf t o.val) 2 j.entry = some x ∧
          x.bad = some (0x0A, BitVec.ofNat 16 j.row, 0)) ∧
        (j.bad = false → u.mem = false → e.bad = none →
          t.mem = s.mem ∧ findEntry (beadOf t o.val) 2 j.entry = some { e with fin := e.fin + 1 } ∧
          (∀ n < 64,
            let v := fun f => storeVal f (laneRnd u.stoch j.lfsr n) (nth (.fp 0) j.vals n)
            (tcSplit e.tcfg = false → tileElem (tileOf (beadOf t o.val) u.td) j.row n =
              BitVec.ofNat 16 (v (if tcFmt e.tcfg = 0 then fp16 else bf16))) ∧
            (tcSplit e.tcfg = true → (tileElem (tileOf (beadOf t o.val) u.td) j.row n,
              tileElem (tileOf (beadOf t o.val) (u.td + 1)) j.row n) = splitFp32 (BitVec.ofNat 32 (v fp32)))) ∧
          ∀ k, k ≠ u.td → (tcSplit e.tcfg = false ∨ k ≠ u.td + 1) → tileOf (beadOf t o.val) k = tileOf b k))

/-- Strands (R346, R349, R353, R358, R360): a run whose granules all lie in own data memory is taken with their data at
once (stated where the bead's other strands and its arrays are not at work), a copy strand's run is consumed in order, unless the
view in force no longer makes it void and it is fetched at last, and the strand ends behind its last, or before one that failed
with that one's code, and a sorted strand takes its next batch once every index entry of it has arrived. Where the spec leaves a point open the model's choice is
meant: log entry 87. -/
def Obligations.StrandsIssueConsumeAndSort : Prop :=
  ∀ (s : State) (o : Ord) (n : Fin 8), beadRuns s o.val = true →
    let k := strandOf (beadOf s o.val) n.val
    let src := runSrc k.desc k.next
    (∀ u, s.clock.hold = false → strandIssue o.val n.val s = some u →
      Completes (.strandRunIssue o n) s fun t => OtherBeads o.val s t) ∧
    (∀ j, s.clock.hold = false → nextRunAt (beadOf s o.val) n.val = some j → sdGather k.desc = false → sdTarget k.desc = 0 →
      (∀ i < sdRunlen k.desc, inOwnDmem o.val (src + 32 * i) = true) →
      (sdRuns k.desc = k.next + 1 ∨ sdDepth k.desc < (k.runs.length + 2) * sdRunlen k.desc) → (beadOf s o.val).reqs = [] →
      (∀ m : Fin 8, m ≠ n → (strandOf (beadOf s o.val) m.val).running = false) →
      (∀ e ∈ (queueOf (beadOf s o.val) 0).ents, strandSource e ≠ some n.val) →
      Completes (.strandRunIssue o n) s fun t => OtherBeads o.val s t ∧ t.mem = s.mem ∧
        ∃ x : StrandRun, strandOf (beadOf t o.val) n.val = { k with runs := k.runs ++ [x], next := k.next + 1 } ∧
          x.idx = k.next ∧ x.src = src ∧ x.got = true ∧ x.stale = false ∧ x.void = false ∧ x.fed = false ∧
          x.data = (List.range (sdRunlen k.desc)).map fun i =>
            passOn (codeAt s.mem (dmemGran o.val ((src - ownBase o.val) / 32 + i)))) ∧
    (∀ x rest, k.running = true → k.stopping = false → k.runs = x :: rest → x.got = true → sdTarget k.desc ≠ 0 →
      x.void = true → (sdGather k.desc = false ∨ rowVoid s k.desc x.ix = false) →
      Completes (.strandRunConsume o n) s fun t => OtherBeads o.val s t ∧
        (strandOf (beadOf t o.val) n.val).consumed = k.consumed) ∧
    (∀ x rest, k.running = true → k.stopping = false → k.runs = x :: rest → x.got = true → sdTarget k.desc ≠ 0 →
      (x.void = false ∨ (sdGather k.desc = true ∧ rowVoid s k.desc x.ix = true)) →
      Completes (.strandRunConsume o n) s fun t =>
        let k' := strandOf (beadOf t o.val) n.val
        OtherBeads o.val s t ∧ k'.consumed = k.consumed + 1 ∧
        (k.consumed + 1 < sdRuns k.desc → k.fail = none →
          k'.running = true ∧ k'.runs = rest ∧ (sdSort k.desc = false → t.mem = s.mem)) ∧
        (sdRuns k.desc ≤ k.consumed + 1 → k.fail = none →
          k'.running = false ∧ k'.ended = true ∧ k'.endCode = 0 ∧ k'.runs = []) ∧
        (∀ f, k.fail = some f → f.1 ≤ k.consumed + 1 →
          k'.running = false ∧ k'.ended = true ∧ k'.endCode = f.2.1 ∧ k'.runs = [])) ∧
    (k.running = true → k.stopping = false → sdSort k.desc = true → batchRows k.desc k.sorted ≠ [] →
      (∀ j ∈ batchRows k.desc k.sorted, (indexEntry s o.val n.val j).isSome = true) →
      Completes (.sortBatchDeliver o n) s fun t => OtherBeads o.val s t ∧ t.mem = s.mem ∧
        strandOf (beadOf t o.val) n.val = { k with
          order := k.order ++ batchOrder s o.val n.val (batchRows k.desc k.sorted), sorted := k.sorted + 1 })

/-! ### The fabric -/

/-- The oldest message of a stream enters its node's router (R419, R421, R432, R437): in scheduled mode whole, in a slot of the
stream, whose data flits take slots of their own; in arbitrated mode flit by flit against credits of its virtual channel, the
head first, each taking the port's ck. Where the spec leaves a point open the model's choice is meant: log entry 17. -/
def Obligations.MessagesEnterTheFabric : Prop :=
  ∀ (s : State) (n : NodeN) (tag : Fin 16), s.standby.mainUp = true →
    let r := nodeRouter n.val
    let key := n.val * 16 + tag.val
    (∀ m rest l, nodeKind s n.val ≠ .none → halfIn s n.val tag.val = none → tblGet [] s.fabric.inj key = m :: rest →
      s.clock.mode = .scheduled → injectScheduled s n.val tag.val m = some l →
      Completes (.endpointInjection n tag) s fun t => tblGet [] t.fabric.inj key = rest ∧
        (∀ k, k ≠ key → tblGet [] t.fabric.inj k = tblGet [] s.fabric.inj k) ∧
        flightsOf t r = flightsOf s r ++
          [{ inp := Fin.ofNat 8 (nodeInput n.val), at_ := absCk s, since := absCk s, msg := m }] ∧
        (∀ r', r' ≠ r → flightsOf t r' = flightsOf s r') ∧ t.fabric.arrivals = s.fabric.arrivals ∧
        ∀ ck ∈ l, s.clock.tick.toNat * 16384 + ck ∈ tblGet [] t.fabric.taken n.val) ∧
    (∀ m rest, nodeKind s n.val ≠ .none → halfIn s n.val tag.val = none → tblGet [] s.fabric.inj key = m :: rest →
      s.clock.mode ≠ .scheduled → injectArbitrated s n.val m = true →
      Completes (.endpointInjection n tag) s fun t => tblGet [] t.fabric.inj key = rest ∧
        (∀ k, k ≠ key → tblGet [] t.fabric.inj k = tblGet [] s.fabric.inj k) ∧
        flightsOf t r = flightsOf s r ++ [{ inp := Fin.ofNat 8 (nodeInput n.val), at_ := absCk s, since := absCk s, msg := m
                                            flits := [absCk s], toCome := m.len }] ∧
        (∀ r', r' ≠ r → flightsOf t r' = flightsOf s r') ∧ t.fabric.arrivals = s.fabric.arrivals ∧
        placeFree t (16384 + n.val) = false ∧ (msgVc m = 0 → placeFree t (32768 + n.val) = false)) ∧
    (∀ f, halfIn s n.val tag.val = some f → portReady s n.val f.msg = true → (∀ g ∈ flightsOf s r, g.bad = false) →
      Completes (.endpointInjection n tag) s fun t => t.fabric.inj = s.fabric.inj ∧
        flightsOf t r = modFirst (fun g => g.inp.val == nodeInput n.val && msgVc g.msg == msgVc f.msg && g.toCome != 0)
          (fun g => { g with flits := g.flits ++ [absCk s], toCome := g.toCome - 1
                             since := if g.flits = [] then absCk s else g.since }) (flightsOf s r) ∧
        (∀ r', r' ≠ r → flightsOf t r' = flightsOf s r') ∧ t.fabric.arrivals = s.fabric.arrivals ∧
        placeFree t (16384 + n.val) = false)

/-- Routers in both modes (R403, R404, R413, R416, R418, R424, R432, R434). In arbitrated mode an output takes one flit: a head
makes its message stand at the neighbour after the link's ck, a data flit follows it, and the node of the port has the message
with its last flit; a flit whose header is in error is discarded with those behind it, and recorded. In scheduled mode a message
goes by the output of its slot's entry; one whose head is in error is discarded, one of which a data flit is in error goes on with
the flits before that one, both recorded; and one that no active entry takes is a misroute, which ends scheduled service. An
endpoint that takes no flit is declared failed, the flits that wait for it are discarded, and the fault log and the hub are told
(R438). Where the spec leaves a point open the model's choice is meant: log entries 17, 19. -/
def Obligations.RoutersSwitchAndDiscardMessages : Prop :=
  (∀ (s : State) (r : RouterN) (out : Fin 6) (f : Flight), s.standby.mainUp = true → s.clock.mode ≠ .scheduled →
    arbWinner s r.val out.val = some f →
    (∀ r', dstNamed s f.msg = true → neighbour r.val out.val = some r' → f.cut = false → f.sent = 0 →
      Completes (.routeMessageArbitrated r out false) s fun t => t.fabric.arrivals = s.fabric.arrivals ∧
        placeFree t (8 * r.val + out.val) = false ∧
        ∃ l, flightsOf t r' = l ++ [{ inp := Fin.ofNat 8 (arrivesAt out.val), at_ := absCk s + linkCk r.val r'
                                      since := absCk s + linkCk r.val r', msg := f.msg
                                      flits := [absCk s + linkCk r.val r'], toCome := f.msg.len }]) ∧
    (∀ r', dstNamed s f.msg = true → neighbour r.val out.val = some r' → r' ≠ r.val → f.cut = false → f.sent ≠ 0 →
      (∀ g ∈ flightsOf s r', g.bad = false) →
      Completes (.routeMessageArbitrated r out false) s fun t => t.fabric.arrivals = s.fabric.arrivals ∧
        placeFree t (8 * r.val + out.val) = false ∧
        flightsOf t r' = modFirst (fun g => g.inp.val == arrivesAt out.val && msgVc g.msg == msgVc f.msg && g.toCome != 0)
          (flitIn (absCk s + linkCk r.val r')) (flightsOf s r')) ∧
    (dstNamed s f.msg = true → (out.val = 4 ∧ f.msg.dst.val = r.val ∨ out.val = 5 ∧ portNode r.val = some f.msg.dst.val) →
      nodeFailed s f.msg.dst.val = false → f.cut = false → isCut f.msg = false → f.flits.length = 1 → f.toCome = 0 →
      Completes (.routeMessageArbitrated r out false) s fun t =>
        arrivals t f.msg.dst.val = arrivals s f.msg.dst.val ++ [f.msg] ∧
        ∀ n, n ≠ f.msg.dst.val → arrivals t n = arrivals s n) ∧
    (dstNamed s f.msg = true → 4 ≤ out.val → (2 ≤ f.flits.length ∨ f.toCome ≠ 0) →
      Completes (.routeMessageArbitrated r out false) s fun t => t.fabric.arrivals = s.fabric.arrivals ∧
        placeFree t (8 * r.val + out.val) = false) ∧
    ∀ b, (b = true ∨ dstNamed s f.msg = false) →
    Completes (.routeMessageArbitrated r out b) s fun t => t.fabric.arrivals = s.fabric.arrivals ∧
      Recorded 0x08 (blkRouter r.val) s t ∧ Raised (blkRouter r.val) 135 s t) ∧
  (∀ (s : State) (r : RouterN) (f : Flight), s.standby.mainUp = true → s.clock.mode = .scheduled → s.clock.hold = false →
    s.clock.ck < 16384 → flightsOf s r.val = [f] → f.at_ = absCk s → dstNamed s f.msg = true → f.inp.val ≠ 0 →
    ((∀ p ∈ entriesAt s r.val s.clock.ck, namesInput p.1 f.inp.val = false) →
      Completes (.routeMessageScheduled r none) s fun t => flightsOf t r.val = [] ∧
        t.fabric.arrivals = s.fabric.arrivals ∧ Recorded 0x09 (blkRouter r.val) s t ∧ Raised (blkRouter r.val) 135 s t ∧
        t.clock.leaving = true) ∧
    (∀ e : FlitErr, e.inp = f.inp → e.flit.val = 0 →
      Completes (.routeMessageScheduled r (some e)) s fun t => flightsOf t r.val = [] ∧
        t.fabric.arrivals = s.fabric.arrivals ∧ Recorded 0x08 (blkRouter r.val) s t ∧ Raised (blkRouter r.val) 135 s t ∧
        t.clock.leaving = true) ∧
    ∀ e i out r', entriesAt s r.val s.clock.ck = [(e, i)] → reSum e = 7 → out < 4 →
      (∀ o < 6, reSel e o = f.inp.val ↔ o = out) → neighbour r.val out = some r' →
      (Completes (.routeMessageScheduled r none) s fun t => t.fabric.arrivals = s.fabric.arrivals ∧
        t.faults = s.faults ∧ t.clock = s.clock ∧
        ∃ l, flightsOf t r' = l ++ [{ inp := Fin.ofNat 8 (arrivesAt out), at_ := absCk s + linkCk r.val r'
                                      since := absCk s + linkCk r.val r', msg := f.msg }]) ∧
      ∀ x : FlitErr, x.inp = f.inp → 0 < x.flit.val → x.flit.val ≤ f.msg.data.length →
        Completes (.routeMessageScheduled r (some x)) s fun t => t.fabric.arrivals = s.fabric.arrivals ∧
          Recorded 0x08 (blkRouter r.val) s t ∧ t.clock.leaving = true ∧
          ∃ l, flightsOf t r' = l ++ [{ inp := Fin.ofNat 8 (arrivesAt out), at_ := absCk s + linkCk r.val r'
                                        since := absCk s + linkCk r.val r'
                                        msg := { f.msg with data := f.msg.data.take (x.flit.val - 1) } }]) ∧
  ∀ (s : State) (n : NodeN), s.standby.mainUp = true → nodeKind s n.val ≠ .none → nodeFailed s n.val = false →
    arrivals s n.val ≠ [] →
    Completes (.endpointFailed n) s fun t => nodeFailed t n.val = true ∧ arrivals t n.val = [] ∧
      (∀ f ∈ flightsOf t (nodeRouter n.val), f.msg.dst.val ≠ n.val) ∧
      (∀ k, k ≠ n.val → arrivals t k = arrivals s k) ∧
      Recorded 0x0A (blkRouter (nodeRouter n.val)) s t ∧ Raised (blkRouter (nodeRouter n.val)) 135 s t

/-- What the nodes do with a request that has reached them whole (R307, R336, R367, R369, R390, R392, R407, R443, R446, R449): a
bezel with room keeps it in its sorter, a crossbar in its slice's sorter at its place, a bead reads or writes its data memory
and answers, with class 1 for a granule that arrives uncorrectable, and a holder puts an increment, a take or a remote signal
among the ck's operations on its clasp and a wait among its waiters. Where the spec leaves a point open the model's choice is
meant: log entries 14, 37, 38, 80. -/
def Obligations.NodesTakeRequests : Prop :=
  ∀ (s : State) (n : NodeN) (m : Msg) (rest : List Msg), s.standby.mainUp = true → arrivals s n.val = m :: rest →
    landing s n.val m = false →
    (∀ z, nodeKind s n.val = .bezel z → (bezelOf s z).sorter.length < 1024 →
      (m.op = opRead → Completes (.read n) s (JoinsSorter n.val z m rest s)) ∧
      (m.op = opWrite → Completes (.write n) s (JoinsSorter n.val z m rest s)) ∧
      (m.op = opPart → Completes (.writePart n) s (JoinsSorter n.val z m rest s)) ∧
      (m.op = opAtomic → Completes (.atomic n) s (JoinsSorter n.val z m rest s)) ∧
      (m.op = opSum → Completes (.sumwrite n) s (JoinsSorter n.val z m rest s))) ∧
    (∀ x i, nodeKind s n.val = .xbar x → sliceOf s m.addr.toNat = some i → i / 4 = x →
      (m.op = opRead → Completes (.read n) s (JoinsSlice n.val i m rest s)) ∧
      (m.op = opWrite → Completes (.write n) s (JoinsSlice n.val i m rest s)) ∧
      (m.op = opPart → Completes (.writePart n) s (JoinsSlice n.val i m rest s)) ∧
      (m.op = opAtomic → Completes (.atomic n) s (JoinsSlice n.val i m rest s)) ∧
      (m.op = opSum → Completes (.sumwrite n) s (JoinsSlice n.val i m rest s))) ∧
    (∀ o off, nodeKind s n.val = .bead o → placeOf s.mem.splitNow.toNat m.addr.toNat = .dmem o off →
      let g := dmemGran o (off / 32)
      let key := nodeBead o * 16 + (respStream m.dst).val
      (m.op = opRead → m.aux0.toNat % 16 = 1 → m.aux1.getLsbD 0 = false → isBad (codeAt s.mem g) = false →
        Completes (.read n) s fun t => arrivals t n.val = rest ∧ t.mem = s.mem ∧ t.beads = s.beads ∧
          tblGet [] t.fabric.inj key = tblGet [] s.fabric.inj key ++ [readResp m [passOn (codeAt s.mem g)] 0 0]) ∧
      (m.op = opWrite → m.len = 1 → s.mem.wf →
        Completes (.write n) s fun t => arrivals t n.val = rest ∧ t.beads = s.beads ∧
          codeAt t.mem g = passOn (nth poisonCode m.data 0) ∧ (∀ g', g' ≠ g → codeAt t.mem g' = codeAt s.mem g') ∧
          ((decodeCode (nth poisonCode m.data 0)).1 = .uncorr →
            tblGet [] t.fabric.inj key = tblGet [] s.fabric.inj key ++ [writeAck m 1 1 0]) ∧
          ((decodeCode (nth poisonCode m.data 0)).1 ≠ .uncorr →
            tblGet [] t.fabric.inj key = tblGet [] s.fabric.inj key ++ [writeAck m 0 0 0]))) ∧
    (m.op = opSignal → (nodeKind s n.val = .locket ∨ (∃ o, nodeKind s n.val = .bead o) ∨ ∃ x, nodeKind s n.val = .xbar x) →
      let k := signalKey n.val m.aux0.toNat
      let port := claspPort n.val m s
      let count := m.aux1.toNat % 65536
      (m.aux0.toNat / 2 ^ 29 % 4 = 0 → ¬ (0x810 ≤ m.src.val ∧ m.src.val < 0x820) →
        Completes (.signal n) s fun t => arrivals t n.val = rest ∧ t.faults = s.faults ∧ t.clasps = { s.clasps with
          acts := insertAct ⟨k, rankAdd port, .add count (m.aux0.toNat % 2 ^ 29) m.src.val⟩ s.clasps.acts }) ∧
      (m.aux0.toNat / 2 ^ 29 % 4 = 0 → 0x810 ≤ m.src.val → m.src.val < 0x820 →
        Completes (.signal n) s fun t => arrivals t n.val = rest ∧ t.faults = s.faults ∧ t.clasps = { s.clasps with
          acts := insertAct ⟨k, rankAdd port, .remote count m⟩ s.clasps.acts }) ∧
      (m.aux0.toNat / 2 ^ 29 % 4 = 1 →
        Completes (.signal n) s fun t => arrivals t n.val = rest ∧ t.faults = s.faults ∧ t.clasps = { s.clasps with
          acts := insertAct ⟨k, rankTake port, .take count (.node m.src m.tag)⟩ s.clasps.acts }) ∧
      (2 ≤ m.aux0.toNat / 2 ^ 29 % 4 →
        Completes (.signal n) s fun t => arrivals t n.val = rest ∧ t.faults = s.faults ∧ t.clasps.acts = s.clasps.acts ∧
          t.clasps.count = s.clasps.count ∧ (∀ k', k' ≠ k → waitersOf t k' = waitersOf s k') ∧
          waitersOf t k = waitersOf s k ++
            [⟨BitVec.ofNat 16 count, waitDue (m.aux1.toNat / 65536), .node m.src m.tag⟩]))

/-- What reaches a bead in answer (R62, R336, R339, R374, R390, R807): the granule of a load that waits goes to its register and
the hart goes on, or the hart traps with cause 5 where the granule is bad; a store's answer counts it off and, as the last one,
lets a hart that a FENCE holds go on; and a stale notice marks the runs of its strand, one that feeds an array, that hold the
granule. Stated where the bead's strands and S-queue have nothing to do meanwhile. Where the spec leaves a point open the model's
choice is meant: log entries 37, 38, 41. -/
def Obligations.BeadsTakeAnswers : Prop :=
  ∀ (s : State) (n : NodeN) (o : Nat) (m : Msg) (rest : List Msg), s.standby.mainUp = true →
    nodeKind s n.val = .bead o → arrivals s n.val = m :: rest → landing s n.val m = false →
    (∀ k : Fin 8, feedNext s o k.val = none) → runningHead (beadOf s o) 3 = none →
    (∀ r h f3 fp rd rs1 imm w len, m.op = opResp → reqOfSlot (beadOf s o) m.tag.toNat = some r →
      findReq (beadOf s o) r.id = some r →
      r.owner = .hartLoad h → reqParts s r = [List.range r.n] → r.parts = 1 → r.copy = false → r.got = [] → r.failed = [] →
      nth 0 r.phys 0 = m.addr.toNat → m.data.length = r.n → m.status = 0 →
      r.dev ≤ r.bytes → r.bytes < r.dev + 32 * r.n →
      (hartOf (beadOf s o) h.val).hold = .load r.id →
      fetchAt (beadOf s o).active (hartOf (beadOf s o) h.val).pc.toNat = some ⟨.load f3 fp rd rs1 imm, w, len⟩ →
      let c := nth poisonCode m.data ((r.bytes - r.dev) / 32)
      (isBad c = false →
        Completes (.readResp n) s fun t => arrivals t n.val = rest ∧ OtherBeads o s t ∧ t.mem = s.mem ∧
          (∀ h', h' ≠ h.val → hartOf (beadOf t o) h' = hartOf (beadOf s o) h') ∧
          hartOf (beadOf t o) h.val =
            advance len (loadTo fp rd (loadValue f3 (r.bytes % 32) (goodData c)) (hartOf (beadOf s o) h.val))) ∧
      (isBad c = true →
        Completes (.readResp n) s fun t => arrivals t n.val = rest ∧ OtherBeads o s t ∧ t.mem = s.mem ∧
          (∀ h', h' ≠ h.val → hartOf (beadOf t o) h' = hartOf (beadOf s o) h') ∧
          hartOf (beadOf t o) h.val = takeTrap false 5 (BitVec.ofNat 64 r.bytes) (hartOf (beadOf s o) h.val))) ∧
    (∀ r h, m.op = opAck → reqOfSlot (beadOf s o) m.tag.toNat = some r → findReq (beadOf s o) r.id = some r →
      fromPort m = false → r.owner = .hartStore h → r.n = 1 → r.got = [] → r.copy = false →
      nth 0 r.phys 0 = m.addr.toNat → r.parts = 1 →
      let x := hartOf (beadOf s o) h.val
      (x.hold ≠ .fence ∨ 1 < x.stores →
        Completes (.writeAck n) s fun t => arrivals t n.val = rest ∧ OtherBeads o s t ∧ t.mem = s.mem ∧
          hartOf (beadOf t o) h.val = { x with stores := x.stores - 1 }) ∧
      (x.hold = .fence → x.stores ≤ 1 →
        Completes (.writeAck n) s fun t => arrivals t n.val = rest ∧ OtherBeads o s t ∧ t.mem = s.mem ∧
          hartOf (beadOf t o) h.val = { x with stores := 0, hold := .none, pc := x.pc + 4 })) ∧
    (m.op = opStale →
      let k := strandOf (beadOf s o) (m.tag.toNat % 8)
      Completes (.stale n) s fun t => arrivals t n.val = rest ∧ OtherBeads o s t ∧
        (beadOf t o).harts = (beadOf s o).harts ∧
        (∀ j, j ≠ m.tag.toNat % 8 → strandOf (beadOf t o) j = strandOf (beadOf s o) j) ∧
        let k' := strandOf (beadOf t o) (m.tag.toNat % 8)
        k' = { k with runs := k'.runs } ∧ k'.runs.map (·.idx) = k.runs.map (·.idx) ∧
        (k.running = true → sdWatch k.desc = true → sdTarget k.desc = 0 → k'.runs.map (·.stale) =
          k.runs.map fun x => x.stale || (x.got && decide (m.addr.toNat ∈ x.phys))) ∧
        ((k.running = false ∨ sdWatch k.desc = false ∨ sdTarget k.desc ≠ 0) → k' = k))

/-- The sorters (R306, R307, R367, R369, R373, R390, R805): the write that a bezel or a slice serves is stored, a write with an
uncorrectable granule as the poisoned one, every other granule is as before, and the bank's row is open behind it.
A slice's bank makes one access in a ck, the oldest of those that came before it: younger writes to the bank wait, and the sorter
serves once in a ck.
Where the spec leaves a point open the model's choice is meant: log entry 40. -/
def Obligations.SortersServeWrites : Prop :=
  (∀ (s : State) (b : BezelN) (r : SortReq) (l : Nat), s.standby.mainUp = true → s.mem.wf →
    (bezelOf s b.val).sorter = [r] → bezelNext s b.val = some r → blockedLines s b.val r.msg = [] →
    r.msg.op = opWrite → r.msg.len = 1 → localOf s b.val r.msg.addr.toNat = some l → inIntake (bezelOf s b.val) l = false →
    Completes (.bezelServeRequest b) s fun t => OtherBezels b.val s t ∧ (bezelOf t b.val).sorter = [] ∧
      stackCode t b.val l = passOn (nth poisonCode r.msg.data 0) ∧
      (∀ g, g ≠ stackGran b.val (redirected (bezelOf s b.val) (l / 32)) → g ≠ reliefGran b.val (l / 32) →
        codeAt t.mem g = codeAt s.mem g) ∧
      tblGet 0 (bezelOf t b.val).openRow (bankOf l) = dramRow l) ∧
  (∀ (s : State) (i : Fin 128) (r : SliceReq) (rest : List SliceReq) (off : Nat), s.standby.mainUp = true → s.mem.wf →
    tblGet [] s.mem.slices i.val = r :: rest → tblGet 0 s.mem.sliceCk i.val ≠ absCk s + 1 →
    r.got = [] → r.msg.op = opWrite → r.msg.len = 1 → sliceOff s i.val r.msg.addr.toNat = some off →
    (∀ q ∈ r :: rest, sliceDue s q = true) →
    (∀ q ∈ rest, q.got = [] ∧ q.msg.op = opWrite ∧ q.msg.len = 1 ∧
      ∃ off', sliceOff s i.val q.msg.addr.toNat = some off' ∧ off' / 32 % 8 = off / 32 % 8) →
    Completes (.sliceServeRequest i) s fun t => tblGet [] t.mem.slices i.val = rest ∧
      tblGet 0 t.mem.sliceCk i.val = absCk s + 1 ∧
      codeAt t.mem (sliceGran i.val (off / 32)) = passOn (nth poisonCode r.msg.data 0) ∧
      (∀ g, g ≠ sliceGran i.val (off / 32) → codeAt t.mem g = codeAt s.mem g) ∧
      ∀ p ∈ t.mem.resv, p.2 ≠ sliceGran i.val (off / 32) + 1)

/-- Refresh and the scrubbers (R395, R396, R397, R398, R805): a refresh closes its bank's row, and a scrub writes a
corrected granule back corrected and an uncorrectable one back poisoned, leaves a clean one alone, and moves to
the next position; in a slice or a data memory it passes over the banks that requesters want. Where the spec leaves a point open the model's choice is meant: log entries 10, 42. -/
def Obligations.ScrubbersAndRefresh : Prop :=
  ∀ s : State, s.standby.mainUp = true →
    (∀ (b : BezelN) (bank : Fin 512), Completes (.stackRefresh b bank) s fun t => OtherBezels b.val s t ∧
      bezelOf t b.val = { bezelOf s b.val with openRow := tblSet 0 (bezelOf s b.val).openRow bank.val 0 }) ∧
    (∀ b : BezelN, (bezelOf s b.val).scrubEn = true → Completes (.patrolScrub b) s fun t => OtherBezels b.val s t ∧
      let pos := (bezelOf s b.val).scrubPos
      (pos + 1 < 8388608 → (bezelOf t b.val).scrubPos = pos + 1 ∧ (bezelOf t b.val).passes = (bezelOf s b.val).passes) ∧
      (8388608 ≤ pos + 1 → (bezelOf t b.val).scrubPos = 0 ∧ (bezelOf t b.val).frames = [] ∧
        (bezelOf t b.val).passes = (bezelOf s b.val).passes + 1) ∧
      ((∀ k < 256, (decodeCode (stackCode s b.val (pos * 8192 + 32 * k))).1 = .clean) → t.mem = s.mem)) ∧
    (∀ i : Fin 128, s.mem.wf → Completes (.memoryScrub (.slice i)) s fun t =>
      let pos (k : Nat) : Nat := tblGet 0 s.mem.scrubPos (sliceBankKey i.val k)
      let gran (k : Nat) : Nat := sliceGran i.val (8 * pos k + k)
      (∀ g, (∀ k < 8, k ∉ sliceWants s i.val → g ≠ gran k) → codeAt t.mem g = codeAt s.mem g) ∧
      ∀ k < 8,
        (k ∈ sliceWants s i.val → tblGet 0 t.mem.scrubPos (sliceBankKey i.val k) = pos k) ∧
        (k ∉ sliceWants s i.val → tblGet 0 t.mem.scrubPos (sliceBankKey i.val k) = (pos k + 1) % 16384 ∧
          codeAt t.mem (gran k) = scrubbed (codeAt s.mem (gran k)))) ∧
    (∀ o : Ord, s.mem.wf → ordLive s o.val = true → Completes (.memoryScrub (.bead o)) s fun t =>
      let pos (k : Nat) : Nat := tblGet 0 s.mem.scrubPos (beadBankKey o.val k)
      let gran (k : Nat) : Nat := dmemGran o.val (24 * pos k + k)
      (∀ g, (∀ k < 24, k ∉ beadWants s o.val → g ≠ gran k) → codeAt t.mem g = codeAt s.mem g) ∧
      ∀ k < 24,
        (k ∈ beadWants s o.val → tblGet 0 t.mem.scrubPos (beadBankKey o.val k) = pos k) ∧
        (k ∉ beadWants s o.val → tblGet 0 t.mem.scrubPos (beadBankKey o.val k) = (pos k + 1) % 1024 ∧
          codeAt t.mem (gran k) = scrubbed (codeAt s.mem (gran k))))

/-! ### The chain -/

/-- Frames of a port whose frames flow (R469, R470, R472, R473, R475, R476, R478, R480, R500, R501): a frame with an error is counted
and discarded, a control word acknowledges the frames up to its number and brings credits, a frame that has credits leaves with its
CRC and waits in the replay buffer, the frame in order is kept, or goes on as a response, and is acknowledged, a gap is answered with
one NAK, and unacknowledged frames are sent again, but for the pause of a lane switch: at the eighth resend of one the worst lane is
taken as failed, and the sixteenth takes the port down. Where the spec leaves a point open the model's choice is meant: log entries
79, 96. -/
def Obligations.FramesAreAcknowledgedAndRetried : Prop :=
  ∀ (s : State) (p : PortN), s.standby.mainUp = true →
    let q := portOf s p.val
    (q.st = .up ∨ q.st = .degraded) →
    (∀ crc l, crc ≠ ctrlCrc l ∨ l.reserved ≠ 0 ∨ l.typ ≠ 0 →
      Completes (.ctrlFrame p crc l) s fun t => OtherPorts p.val s t ∧ t.out = s.out ∧
        portOf t p.val = { q with crcErr := satInc q.crcErr }) ∧
    (∀ l pre x post, l.reserved = 0 → l.typ = 0 → l.nak = false → q.tx = [] → q.replay = pre ++ x :: post →
      x.1.link.seq = l.ack → (∀ y ∈ pre, y.1.link.seq ≠ l.ack) →
      Completes (.ctrlFrame p (ctrlCrc l) l) s fun t => OtherPorts p.val s t ∧ t.out = s.out ∧ (portOf t p.val).replay = post ∧
        (portOf t p.val).creditReq = q.creditReq + (if l.cclass = 0 then l.credits.toNat else 0) ∧
        (portOf t p.val).creditRsp = q.creditRsp + (if l.cclass = 1 then l.credits.toNat else 0) ∧
        (portOf t p.val).creditAcc = q.creditAcc + (if l.cclass = 2 then l.credits.toNat else 0)) ∧
    (∀ l f, l.reserved = 0 → l.typ = 0 → l.nak = false → l.cclass = 3 → q.tx = [f] → q.replay = [] → q.pauseTo ≤ absCk s →
      blocksOf f.msg ≤ creditsOf q f.cls.toNat →
      let f' := { f with link := { ackWord q with typ := 1, seq := q.nextSeq } }
      Completes (.ctrlFrame p (ctrlCrc l) l) s fun t => OtherPorts p.val s t ∧ (portOf t p.val).tx = [] ∧
        (portOf t p.val).replay = [(f', 0)] ∧ (portOf t p.val).nextSeq = q.nextSeq + 1 ∧
        creditsOf (portOf t p.val) f.cls.toNat = creditsOf q f.cls.toNat - blocksOf f.msg ∧
        t.out = s.out ++ [.chain p.val f' (msgCrc f')]) ∧
    (∀ f : ChainFrame, f.link.reserved = 0 → f.link.typ = 1 → f.link.nak = false → f.reserved = 0 → q.tx = [] →
      (f.link.seq = q.lastRx + 1 → (f.cls = 0 ∨ f.cls = 2 ∨ (f.cls = 1 ∧ s.clock.hold = true)) →
        Completes (.msgFrame p (msgCrc f) f) s fun t => OtherPorts p.val s t ∧ (portOf t p.val).lastRx = f.link.seq ∧
          (portOf t p.val).nakOut = false ∧ (portOf t p.val).rx = q.rx ++ [⟨q.rxOrder, f⟩] ∧ t.fabric = s.fabric ∧
          ∃ w : LinkWord, t.out = s.out ++ [.chainCtrl p.val w (ctrlCrc w)] ∧ w.ack = f.link.seq ∧ w.nak = false) ∧
      (f.link.seq = q.lastRx + 1 → f.cls = 1 → s.clock.hold = false →
        let key := (node (nodePort p.val)).val * 16 + 1
        Completes (.msgFrame p (msgCrc f) f) s fun t => OtherPorts p.val s t ∧ (portOf t p.val).lastRx = f.link.seq ∧
          (portOf t p.val).rx = q.rx ∧
          tblGet [] t.fabric.inj key = tblGet [] s.fabric.inj key ++ [{ f.msg with
            dst := node f.srcNode.toNat, src := node (nodePort p.val), module := f.srcMod, stream := 1 }] ∧
          ∃ w c : LinkWord, t.out = s.out ++ [.chainCtrl p.val w (ctrlCrc w), .chainCtrl p.val c (ctrlCrc c)] ∧
            w.ack = f.link.seq ∧ w.nak = false ∧ c.cclass = 1 ∧ c.credits = BitVec.ofNat 12 (blocksOf f.msg)) ∧
      (f.link.seq ≠ q.lastRx + 1 → f.cls ≠ 3 →
        Completes (.msgFrame p (msgCrc f) f) s fun t => OtherPorts p.val s t ∧ (portOf t p.val).lastRx = q.lastRx ∧
          (portOf t p.val).nakOut = true ∧ (portOf t p.val).rx = q.rx ∧
          (q.nakOut = true → t.out = s.out) ∧
          (q.nakOut = false → ∃ w : LinkWord, t.out = s.out ++ [.chainCtrl p.val w (ctrlCrc w)] ∧ w.ack = q.lastRx ∧
            w.nak = true))) ∧
    (∀ crc f, crc ≠ msgCrc f ∨ f.link.reserved ≠ 0 ∨ f.link.typ ≠ 1 ∨ f.reserved ≠ 0 ∨ f.cls = 3 →
      Completes (.msgFrame p crc f) s fun t => OtherPorts p.val s t ∧
        portOf t p.val = { q with crcErr := satInc q.crcErr, nakOut := true } ∧
        (q.nakOut = true → t.out = s.out) ∧
        (q.nakOut = false → ∃ w : LinkWord, t.out = s.out ++ [.chainCtrl p.val w (ctrlCrc w)] ∧ w.ack = q.lastRx ∧
          w.nak = true)) ∧
    (q.nakOut = true → Completes (.nakRepeat p) s fun t => OtherPorts p.val s t ∧ portOf t p.val = q ∧
      ∃ w : LinkWord, t.out = s.out ++ [.chainCtrl p.val w (ctrlCrc w)] ∧ w.ack = q.lastRx ∧ w.nak = true) ∧
    (absCk s < q.pauseTo → exec (.ackTimeoutResend p) s = .next s) ∧
    (q.replay ≠ [] → q.pauseTo ≤ absCk s →
      let sent := q.replay.map fun x => chainOut p.val { x.1 with link := { x.1.link with ack := q.lastRx } }
      ((∀ x ∈ q.replay, x.2 < 15 ∧ x.2 ≠ 7) → Completes (.ackTimeoutResend p) s fun t => OtherPorts p.val s t ∧
        portOf t p.val = { q with
          replay := q.replay.map fun x => (x.1, x.2 + 1), resent := satInc q.resent q.replay.length } ∧
        t.out = s.out ++ sent) ∧
      (∀ lane, (∀ x ∈ q.replay, x.2 < 15) → (∃ x ∈ q.replay, x.2 = 7) → worstLane q = some lane → lane < 5 →
        Completes (.ackTimeoutResend p) s fun t => OtherPorts p.val s t ∧
          (portOf t p.val).failedLanes = q.failedLanes ||| BitVec.ofNat 5 (2 ^ lane)) ∧
      ((∃ x ∈ q.replay, 15 ≤ x.2) → Completes (.ackTimeoutResend p) s fun t => OtherPorts p.val s t ∧
        (portOf t p.val).st = .down ∧ (portOf t p.val).replay = [] ∧ (portOf t p.val).tx = [] ∧ t.out = s.out ++ sent ∧
        Raised 0 (112 + p.val) s t))

/-- Ports and lanes (R465 to R468, R472, R473, R500 to R504, R791): training starts the link as new with the lanes that
have not failed, sends the port's own training frame and takes the number, with fewer than three lanes it takes none and the port
is DOWN; a second number is a conflict that brings every link back to TRAINING, a reserve port loops to itself or takes the place of
the port it is re-homed from, a LANE frame, this end's or the peer's, brings the new map into force behind a pause, a lane that has
lost lock or met 16 uncorrectable words in a tick is replaced by the spare one, else the port is DEGRADED, and a further one takes it
down. Where the spec leaves a point open the model's choice is meant: log entries 15, 79, 96. -/
def Obligations.PortsTrainAndLoseLanes : Prop :=
  ∀ (s : State) (p : PortN), s.standby.mainUp = true →
    let q := portOf s p.val
    (∀ h w, (q.st = .training ∨ q.st = .dark) → replaced s p.val = false → chainOk (h.crc == trainCrc h.link w) 3 h.link = false →
      Completes (.trainFrame p h w) s fun t => OtherPorts p.val s t ∧
        portOf t p.val = { q with crcErr := satInc q.crcErr }) ∧
    (∀ (l : LinkWord) (num peer : BitVec 4), (q.st = .training ∨ q.st = .dark) → replaced s p.val = false →
      l.reserved = 0 → l.typ = 3 →
      let c : Instr := .trainFrame p ⟨trainCrc l ⟨num, peer⟩, l⟩ ⟨num, peer⟩
      (s.chain.conflict = true → exec c s = .next s) ∧
      (s.chain.conflict = false → s.chain.numv = true → s.chain.num ≠ num →
        Completes c s fun t => t.chain.conflict = true ∧
          (∀ p' < 16, hasLink (portOf s p') = true → (portOf t p').st = .training) ∧
          ∀ p' < 16, hasLink (portOf s p') = false → portOf t p' = portOf s p') ∧
      (s.chain.conflict = false → (s.chain.numv = true → s.chain.num = num) → num.toNat = p.val →
        (s.chain.rehomeEn = true → peer = s.chain.from_ → s.chain.from_ ≠ num →
          Completes c s fun t => (portOf t p.val).rehomed = true ∧ (portOf t p.val).peer = s.chain.from_ ∧
            (portOf t s.chain.from_.toNat).st = .dark) ∧
        (¬ (s.chain.rehomeEn = true ∧ peer = s.chain.from_ ∧ s.chain.from_ ≠ num) →
          Completes c s fun t => OtherPorts p.val s t ∧
            portOf t p.val = { q with st := .loop, rehomed := false, peer := num } ∧
            t.chain.num = num ∧ t.chain.numv = true ∧ Raised 0 (112 + p.val) s t)) ∧
      (s.chain.conflict = false → (s.chain.numv = true → s.chain.num = num) → num.toNat ≠ p.val →
        let fresh := fun t : State => OtherPorts p.val s t ∧ (portOf t p.val).rehomed = false ∧
          (portOf t p.val).peer = BitVec.ofNat 4 p.val ∧ (portOf t p.val).nextSeq = 0 ∧ (portOf t p.val).lastRx = 0xFFF ∧
          (portOf t p.val).creditReq = 576 ∧ (portOf t p.val).creditRsp = 576 ∧ (portOf t p.val).creditAcc = 1152 ∧
          (portOf t p.val).replay = [] ∧ Raised 0 (112 + p.val) s t
        let numbered := fun t : State => t.chain.num = num ∧ t.chain.numv = true ∧
          t.out = s.out ++ [trainOut p.val { ackWord {} with typ := 3 } { peerPort := BitVec.ofNat 4 p.val, peerMod := num }]
        (4 ≤ (goodLanes q).length → Completes c s fun t => fresh t ∧ numbered t ∧ (portOf t p.val).st = .up) ∧
        ((goodLanes q).length = 3 → Completes c s fun t => fresh t ∧ numbered t ∧ (portOf t p.val).st = .degraded) ∧
        ((goodLanes q).length < 3 → Completes c s fun t => fresh t ∧ (portOf t p.val).st = .down ∧
          t.chain.num = s.chain.num ∧ t.chain.numv = s.chain.numv))) ∧
    (q.st = .down → Completes (.chainPortRetrain p) s fun t => OtherPorts p.val s t ∧
      portOf t p.val = { q with st := .training } ∧ Recorded 0x0F (blkPort p.val) s t ∧
      t.out = s.out ++ [trainOut p.val { ackWord {} with typ := 3 }
        { peerPort := BitVec.ofNat 4 p.val, peerMod := s.chain.num }]) ∧
    ((q.st = .up ∨ q.st = .degraded) →
      let taken := fun (m : BitVec 12 × BitVec 3) (t : State) => OtherPorts p.val s t ∧
        let q' := portOf t p.val
        q'.lmap = m.1 ∧ q'.spare = m.2 ∧ q'.newMap = none ∧ q'.pauseTo = absCk s + 256 ∧ q'.laneSw = satInc q.laneSw ∧
        q'.failedLanes = q.failedLanes ∧ Recorded 0x0F (blkPort p.val) s t ∧
        (4 ≤ (workLanes { q with lmap := m.1 }).length → q'.st = .up ∧ q'.calLane = 7) ∧
        ((workLanes { q with lmap := m.1 }).length < 4 → q'.st = .degraded ∧ q'.calLane = q.calLane)
      (∀ m, q.newMap = some m → (q.newCal = false ∨ ∀ x ∈ q.replay, x.2 = 0) →
        Completes (.laneFrame (.send p)) s fun t => taken m t ∧
          t.out = s.out ++ [laneOut p.val { ackWord q with typ := 4 } m.1 m.2]) ∧
      (∀ (l : LinkWord) lmap spare, l.reserved = 0 → l.typ = 4 → l.nak = false → q.tx = [] →
        Completes (.laneFrame (.recv p ⟨laneCrc l lmap spare, l⟩ lmap spare)) s fun t => taken (lmap, spare) t ∧ t.out = s.out) ∧
      (∀ h lmap spare, chainOk (h.crc == laneCrc h.link lmap spare) 4 h.link = false →
        Completes (.laneFrame (.recv p h lmap spare)) s fun t => OtherPorts p.val s t ∧
          portOf t p.val = { q with crcErr := satInc q.crcErr })) ∧
    (∀ lane : Fin 5, (q.st = .up ∨ q.st = .degraded) → laneUsed q lane.val = true →
      let c := mapped q
      let left := (workLanes c).filter fun l => l != lane.val
      let hit := c.spare.toNat = lane.val ∨ c.calLane.toNat = lane.val
      let failed := fun t : State => OtherPorts p.val s t ∧
        (portOf t p.val).failedLanes = q.failedLanes ||| BitVec.ofNat 5 (2 ^ lane.val)
      (hit → Completes (.laneFailure p (.lost lane)) s fun t => failed t ∧
        (portOf t p.val).st = q.st ∧ (portOf t p.val).lmap = q.lmap ∧ (portOf t p.val).cal = false ∧
        (q.newMap = none → (portOf t p.val).spare = 7) ∧
        (∀ m, q.newMap = some m → (portOf t p.val).newMap = some (m.1, 7)) ∧
        Recorded 0x0F (blkPort p.val) s t) ∧
      (¬ hit → q.st = .degraded → Completes (.laneFailure p (.lost lane)) s fun t => failed t ∧
        (portOf t p.val).st = .down ∧ (portOf t p.val).tx = [] ∧ (portOf t p.val).rx = []) ∧
      (¬ hit → q.st = .up → (q.cal = true ∨ c.spare = 7) → Completes (.laneFailure p (.lost lane)) s fun t => failed t ∧
        (portOf t p.val).st = .degraded ∧ (portOf t p.val).newMap = some (mapOf left, 7) ∧ (portOf t p.val).cal = false ∧
        (q.cal = true → (portOf t p.val).spare = 7 ∧ (portOf t p.val).calLane = c.spare) ∧
        Recorded 0x0F (blkPort p.val) s t) ∧
      (¬ hit → q.st = .up → q.cal = false → c.spare ≠ 7 → Completes (.laneFailure p (.lost lane)) s fun t => failed t ∧
        (portOf t p.val).st = .up ∧ (portOf t p.val).newMap =
          some (mapOf ((mapLanes c.lmap).map fun l => if l = lane.val then c.spare.toNat else l), 7) ∧
        Recorded 0x0F (blkPort p.val) s t) ∧
      (∀ n, tblGet 0 q.laneUnc lane.val + n < 16 → Completes (.laneFailure p (.uncorrectable lane n)) s fun t =>
        OtherPorts p.val s t ∧ t.faults = s.faults ∧
        portOf t p.val = { q with laneUnc := tblMod 0 q.laneUnc lane.val (· + n) }) ∧
      (∀ n, 16 ≤ tblGet 0 q.laneUnc lane.val + n → Completes (.laneFailure p (.uncorrectable lane n)) s failed)) ∧
    (∀ k : Fin 4, Completes (.chainShellRemoval (.chain k)) s fun t =>
      (∀ i < 4, (portOf t (4 * k.val + i)).st = .dark ∨ (portOf t (4 * k.val + i)).st = .down) ∧
      ∀ p', p' < 4 * k.val ∨ 4 * k.val + 4 ≤ p' → portOf t p' = portOf s p') ∧
    (s.standby.standby = true →
      exec (.chainShellRemoval .management) s = .next { s with mgmt := { s.mgmt with up := false } })

/-- Board timing and spare-lane calibration (R487, R488, R490, R494, R495, R496, R499, R503, R504): the rounds seal the verdict and
relay it, a timing frame brings its vote, where it is for the next tick, its times and its sender's offset and WINDOW, and a
calibration puts the spare lane in the place of the working lane calibrated longest ago, or of the one that a DEGRADED port has lost.
Where the spec leaves a point open the model's choice is meant: log entries 15, 25, 67. -/
def Obligations.BoardTimingAndCalibration : Prop :=
  ∀ s : State, s.standby.mainUp = true →
    (16384 - 64 * s.chain.windowNow.toNat ≤ s.clock.ck → s.chain.sealed_ = false →
      Completes .timingFirstRound s fun t => t.chain.ports = s.chain.ports ∧ t.chain.sealed_ = true ∧
        t.chain.verdict = ownVerdict s ∧
        t.out = s.out ++ (reachable s).map fun p =>
          timingOut p { ackWord (portOf s p) with typ := 2 } (timingWords s p false (ownVerdict s))) ∧
    (relayPoint s ≤ s.clock.ck → s.chain.sealed_ = true → s.chain.relayed = false →
      Completes .timingRelayRound s fun t => t.chain = { s.chain with relayed := true } ∧
        t.out = s.out ++ (reachable s).map fun p =>
          timingOut p { ackWord (portOf s p) with typ := 2 } (timingWords s p true (s.chain.verdict || anyHold s))) ∧
    (∀ p : PortN, (portOf s p.val).st = .up ∨ (portOf s p.val).st = .degraded →
      let q := portOf s p.val
      (∀ h w, (chainOk (h.crc == timingCrc h.link w) 2 h.link = false ∨ w.reserved ≠ 0) →
        Completes (.timingFrame p h w) s fun t => OtherPorts p.val s t ∧
          portOf t p.val = { q with crcErr := satInc q.crcErr }) ∧
      (∀ (l : LinkWord) w, l.reserved = 0 → l.typ = 2 → l.nak = false → w.reserved = 0 →
        let c : Instr := .timingFrame p ⟨timingCrc l w, l⟩ w
        let heard := fun q' : Port => q'.peerTick = w.tick ∧ q'.peerRef = w.refMod ∧ q'.peerAligned = w.aligned ∧
          q'.peerMode = w.mode ∧ q'.peerWindow = some w.window
        (w.relay = false → Completes c s fun t => OtherPorts p.val s t ∧ heard (portOf t p.val) ∧
          (portOf t p.val).gotFirst = true ∧ (portOf t p.val).firstCk = s.clock.ck ∧
          (portOf t p.val).voteHold = (q.voteHold || (w.hold && w.tick == s.clock.tick + 1)) ∧
          (portOf t p.val).relayHold = q.relayHold ∧ (portOf t p.val).delay = q.delay ∧
          (portOf t p.val).offset = sat16 ((s.clock.ck : Int) - sealPoint s - q.delay.toNat) ∧
          (s.clock.mode = .scheduled → w.tick = s.clock.tick + 1 → w.curHold ≠ s.clock.hold →
            t.chain.aligned = false ∧ Recorded 0x10 blkLocket s t ∧ Raised 0 128 s t)) ∧
        (w.relay = true → Completes c s fun t => OtherPorts p.val s t ∧ heard (portOf t p.val) ∧
          (portOf t p.val).gotRelay = true ∧
          (portOf t p.val).relayHold = (q.relayHold || (w.hold && w.tick == s.clock.tick + 1)) ∧
          (portOf t p.val).voteHold = q.voteHold ∧
          (w.echoV = false → (portOf t p.val).delay = q.delay) ∧
          (w.echoV = true → (portOf t p.val).delay = BitVec.ofNat 16 ((((s.clock.ck : Int) - sealPoint s) -
            ((relayPoint s : Int) - w.echoCk.toNat)) / 2).toNat) ∧ t.faults = s.faults))) ∧
    (∀ p : PortN, s.chain.calAuto = true → canCalibrate s p.val = true → rotationDue s (portOf s p.val) = true →
      Completes (.chainCalibrationRotation p) s fun t => OtherPorts p.val s t ∧
        portOf t p.val = { portOf s p.val with cal := true, calTick := s.clock.tick.toNat + 1 }) ∧
    (∀ p : PortN, (portOf s p.val).cal = true →
      Completes (.chainCalibrationDone p) s fun t => OtherPorts p.val s t ∧
        let q := portOf s p.val
        let sp := (calTarget q).toNat
        (portOf t p.val).cal = false ∧ (portOf t p.val).calGo = false ∧ (portOf t p.val).st = q.st ∧
        (portOf t p.val).lmap = q.lmap ∧ (portOf t p.val).calOrder = (q.calOrder.filter fun l => l != sp) ++ [sp] ∧
        (∀ old, q.st ≠ .degraded → (q.calOrder.find? fun l => (workLanes q).contains l) = some old →
          (portOf t p.val).newMap =
            some (mapOf ((mapLanes q.lmap).map fun l => if l = old then sp else l), BitVec.ofNat 3 old)) ∧
        (q.st = .degraded → (portOf t p.val).newMap = some (mapOf ((workLanes q).take 3 ++ [sp]), 7)))

/-- Remote operations (R319, R457, R479, R480, R482, R483, R484, R486): outside a hold tick a read that translates goes into the fabric from the
port node under a free number of the outstanding table, one that does not enters nothing, a signal goes to its
holder behind the writes before it, and a CH.RD without an answer for RSP_TMO ticks ends with CHAIN_FAIL. Where
the spec leaves a point open the model's choice is meant: log entries 36, 37, 79, 80. -/
def Obligations.RemoteOperations : Prop :=
  ∀ s : State, s.standby.mainUp = true →
    (s.clock.hold = true → ∀ p : PortN, exec (.chainRequestIssue p) s = .next s ∧ exec (.chainSignalApply p) s = .next s) ∧
    (∀ (p : PortN) (x : RxItem) (k : Nat), s.clock.hold = false → nextRequest (portOf s p.val) = some x → freeOut (portOf s p.val) = some k →
      x.f.msg.op = opRead → x.f.msg.aux0.toNat % 16 = 1 →
      (∀ a nc, translate s (p.val / 2) .read x.f.msg.addr.toNat = .ok a nc →
        Completes (.chainRequestIssue p) s fun t => OtherPorts p.val s t ∧
          (portOf t p.val).rx = dropFirst (fun y => y.order == x.order) (portOf s p.val).rx ∧
          (∃ e, tblGet none (portOf t p.val).out k = some e ∧ e.srcNode = x.f.srcNode ∧ e.srcMod = x.f.srcMod ∧
            e.tag = x.f.msg.tag ∧ e.addr = x.f.msg.addr ∧ e.parts = 1 ∧ e.phys = [a]) ∧
          ∃ m : Msg, tblGet [] t.fabric.inj ((node (nodePort p.val)).val * 16 + 2) =
              tblGet [] s.fabric.inj ((node (nodePort p.val)).val * 16 + 2) ++ [m] ∧
            m.op = opRead ∧ m.addr = BitVec.ofNat 48 a ∧ m.tag = BitVec.ofNat 10 k ∧
            m.dst = node ((placeNode (placeOf s.mem.splitNow.toNat a)).getD 0)) ∧
      ((∀ a nc, translate s (p.val / 2) .read x.f.msg.addr.toNat ≠ .ok a nc) →
        Completes (.chainRequestIssue p) s fun t => OtherPorts p.val s t ∧
          (portOf t p.val).rx = dropFirst (fun y => y.order == x.order) (portOf s p.val).rx ∧
          (portOf t p.val).out = (portOf s p.val).out ∧ t.fabric = s.fabric)) ∧
    (∀ (p : PortN) (x : RxItem) (n : Nat), s.clock.hold = false → nextSignal (portOf s p.val) = some x →
      remoteHolder s x.f.msg.aux0.toNat = some n →
      Completes (.chainSignalApply p) s fun t => OtherPorts p.val s t ∧
        (portOf t p.val).rx = dropFirst (fun y => y.order == x.order) (portOf s p.val).rx ∧
        ∃ m : Msg, tblGet [] t.fabric.inj ((node (nodePort p.val)).val * 16 + 3) =
            tblGet [] s.fabric.inj ((node (nodePort p.val)).val * 16 + 3) ++ [m] ∧
          m.op = x.f.msg.op ∧ m.dst = node n ∧ m.aux0 = x.f.msg.aux0 ∧ m.aux1 = x.f.msg.aux1) ∧
    ∀ (o : Ord) (e : QEntry), beadRuns s o.val = true → runningHead (beadOf s o.val) 3 = some e →
      isChRd' e = true → e.fin < e.next → e.asked + max 1 s.chain.rspTmo.toNat ≤ s.clock.tick.toNat →
      Completes (.chRdResponseTimeout o) s fun t => OtherBeads o.val s t ∧
        (queueOf (beadOf t o.val) 3).stop = true ∧ (queueOf (beadOf t o.val) 3).xrec.code = 0x13 ∧
        (queueOf (beadOf t o.val) 3).xrec.insn = e.word

/-! ### Reduction, retraining, retirement -/

/-- The check bezel, the fused update unit, the fan-out and the commit (R524 to R529, R532 to R535, R543, R546, R563):
a sampled granule gets its check entry or joins the one that stands, the owner's sums are compared with it, a complete record is
updated or becomes BROKEN, the lines of it that the host holds are invalidated first, one request for each, the signal of a
fan-out leaves once its eight writes are answered and the record is UPDATED with the injection of its last signal, and a commit
whose conditions hold takes its count and arms. Where the spec leaves a point open the model's choice is meant: log entries 19,
43. -/
def Obligations.ReductionUnitsRun : Prop :=
  ∀ (s : State) (b : BezelN), s.standby.mainUp = true →
    let q := bezelOf s b.val
    (∀ o r j step first d rest, q.chkIn = .copy o r j step first d :: rest → q.chk.find? (isEntry o r j step) = none →
      Completes (.sampledGranuleCopy b) s fun t => OtherBezels b.val s t ∧ bezelOf t b.val =
        if countIf (fun e => !e.skipped) q.chk < 1024 then { q with
          chkIn := rest
          chk := q.chk ++ [{ owner := o, record := r, gran := j, step := step, sums := conElems d
                             mags := (conElems d).map mag32 }] }
        else { q with
          chkIn := rest
          chk := q.chk ++ [{ owner := o, record := r, gran := j, step := step, skipped := true }]
          chkSkip := satInc q.chkSkip }) ∧
    (∀ o r j step first d rest e, q.chkIn = .copy o r j step first d :: rest → q.chk.find? (isEntry o r j step) = some e →
      e.skipped = false →
      Completes (.sampledGranuleCopy b) s fun t => OtherBezels b.val s t ∧ bezelOf t b.val = { q with
        chkIn := rest
        chk := modFirst (isEntry o r j step) (fun _ =>
          if first = true then { e with sums := conElems d, mags := (conElems d).map mag32 }
          else { e with sums := List.zipWith fpAdd e.sums (conElems d)
                        mags := List.zipWith fpAdd e.mags ((conElems d).map mag32) }) q.chk }) ∧
    (∀ o r j step vals rest e, q.chkIn = .sums o r j step vals :: rest → q.chk.find? (isEntry o r j step) = some e →
      e.skipped = false →
      ((∀ i < vals.length, checkMatch q.tol.toNat (nth 0 vals i) (nth 0 e.sums i) (nth 0 e.mags i) = true) →
        Completes (.sampledCheckCompare b) s fun t => t.faults = s.faults ∧ t.hub = s.hub ∧
          (o ≠ b.val → bezelOf t b.val = { q with chkIn := rest, chk := dropFirst (isEntry o r j step) q.chk } ∧
            tblGet 0 (bezelOf t o).verdicts r = tblGet 0 (bezelOf s o).verdicts r - 1 ∧
            ∀ z, z ≠ b.val → z ≠ o → bezelOf t z = bezelOf s z)) ∧
      ((∃ i < vals.length, checkMatch q.tol.toNat (nth 0 vals i) (nth 0 e.sums i) (nth 0 e.mags i) = false) →
        s.faults.waiting.length < 256 →
        Completes (.sampledCheckCompare b) s fun t => Recorded 0x12 (blkBezel b.val) s t ∧
          Raised 0 (64 + b.val) s t ∧
          (o ≠ b.val → tblGet 0 (bezelOf s o).verdicts r ≠ 0 → (recOf (bezelOf t o) r).st = .broken))) ∧
    (∀ ri, unitNext q = some ri →
      let r := recOf q ri
      let d := tblGet 0 q.optActive r.oset.toNat
      let w := unitPlace q r
      (heldLines q (unitTouches q ri) ≠ [] → r.st = .complete →
        Completes (.fusedUpdate b) s fun t => t.mem = s.mem ∧ OtherBezels b.val s t ∧
          ((heldLines q (unitTouches q ri)).Nodup → t.out = s.out ++
            ((heldLines q (unitTouches q ri)).filter fun ln => !q.snoops.any fun p => p.1 == ln).map (OutMsg.biSnoop b.val)) ∧
          (∀ ln ∈ heldLines q (unitTouches q ri), ∃ p ∈ (bezelOf t b.val).snoops, p.1 = ln) ∧
          recOf (bezelOf t b.val) ri = { r with st := .updating } ∧ (bezelOf t b.val).completed = q.completed) ∧
      (heldLines q (unitTouches q ri) = [] → q.fans.length + 16 ≤ 1024 → r.expect ≠ 0 →
        (1 ≤ r.count.toNat → isBad (stackCode s b.val r.sums.toNat) = true → s.faults.waiting.length + 32 < 256 →
          Completes (.fusedUpdate b) s fun t => (recOf (bezelOf t b.val) ri).st = .broken ∧
            Recorded 0x13 (blkBezel b.val) s t ∧ Raised 0 (80 + b.val) s t) ∧
        (s.mem.wf → r.count = 8 → osKind d = 3 → fanTargets s (tblGet {} q.gens r.region.toNat) = [] → q.redirect = [] →
          q.retrainPhase = .idle → w.dst / 32 ≠ w.work / 32 → isBad (stackCode s b.val r.sums.toNat) = false →
          isBad (stackCode s b.val w.src) = false →
          let sums := granWords (goodData (stackCode s b.val r.sums.toNat))
          let masters := granWords (goodData (stackCode s b.val w.src))
          Completes (.fusedUpdate b) s fun t => OtherBezels b.val s t ∧
            recOf (bezelOf t b.val) ri = { r with st := .updated } ∧ (bezelOf t b.val).completed = q.completed.drop 1 ∧
            stackCode t b.val w.dst = passOn (encodeGran (granOf ((List.range 8).flatMap fun i =>
              toBytes 4 (optParam d (nth 0 sums i) ⟨nth 0 masters i, 0, 0⟩).1.t.toNat))) ∧
            ∀ g, g ≠ stackGran b.val (w.dst / 32) → g ≠ stackGran b.val (w.work / 32) →
              codeAt t.mem g = codeAt s.mem g))) ∧
    (∀ (ri : Fin 65536) (n : PortN) (p : Nat) (f : Fan), portTo s n.val = some p →
      q.fans.find? (fanDue ri.val n.val) = some f →
      let key := nodeBezel b.val * 16 + 3
      Completes (.fanoutSignal b ri n) s fun t => OtherBezels b.val s t ∧
        tblGet [] t.fabric.inj key = tblGet [] s.fabric.inj key ++ [{ msg0 with
          dst := node (nodePort p), src := node (nodeBezel b.val), op := opSignal, module := BitVec.ofNat 4 n.val
          tag := BitVec.ofNat 10 f.tag
          aux0 := fanWord n.val (tblGet ({} : GenEnt) q.gens (recOf q ri.val).region.toNat).fanclasp, aux1 := 1, stream := 3 }] ∧
        bezelOf t b.val = { q with fans := modFirst (fanDue ri.val n.val) (fun g => { g with sent := true }) q.fans }) ∧
    (∀ (n : NodeN) (m : Msg) (rest : List Msg) (f : Fan), nodeKind s n.val = .bezel b.val → halfIn s n.val 3 = none →
      tblGet [] s.fabric.inj (n.val * 16 + 3) = m :: rest → (injectOk s n.val 3 m).isSome = true → m.op = opSignal →
      (q.fans.find? fun f => f.sent && f.tag == m.tag.toNat) = some f → f.dead = false →
      let left := dropFirst (fun g => g == f) q.fans
      (left.any (fun g => g.record == f.record && !g.dead) = true →
        Completes (.endpointInjection n 3) s fun t => OtherBezels b.val s t ∧ bezelOf t b.val = { q with fans := left }) ∧
      (left.any (fun g => g.record == f.record && !g.dead) = false →
        Completes (.endpointInjection n 3) s fun t => OtherBezels b.val s t ∧ (bezelOf t b.val).fans = left ∧
          recOf (bezelOf t b.val) f.record = { recOf q f.record with st := .updated } ∧
          ∀ k, k ≠ f.record → recOf (bezelOf t b.val) k = recOf q k)) ∧
    (s.commit.waiting = true → commitReady s = true →
      let k := 131072 + s.commit.clasp.toNat
      Completes .commitArm s fun t => claspCount t k = claspCount s k - s.commit.count.toNat ∧
        (∀ k', k' ≠ k → claspCount t k' = claspCount s k') ∧
        t.commit = { s.commit with waiting := false, armed := true, due := armDue s })

/-- Stack retraining (R731, R732, R734, R735): a rotation begins with the first channel, the phases follow one another
when every burst has gone over, and a burst is copied into the relief area in COPY and back in RETURN, corrected,
a granule that is lost being recorded. Page retirement, rereads and bead faults (R332, R333, R394, R690, R691,
R736, R737): a frame moves to the next reserve frame, unless it holds intakes, is deferred while its channel
retrains, or finds no room; a reread granule is stored corrected or poisoned and reported; a bead fault stops the
bead at once and is reported. Where the spec leaves a point open the model's choice is meant: log entries 15, 82,
84. -/
def Obligations.ChannelsPagesAndBeadsAreRepaired : Prop :=
  (∀ (s : State) (b : BezelN), s.standby.mainUp = true →
    let q := bezelOf s b.val
    (s.standby.phase = 7 → (bezelOf s 0).retrainAuto = true → s.nutas.rotation = none → stackTurn s = true →
      Completes .retrainAutoRotation s fun t => OtherBezels 0 s t ∧
        if (∀ z : BezelN, (bezelOf s z.val).retrainPhase = .idle) then
          t.nutas = { s.nutas with rotation := some 1, rotTick := s.clock.tick.toNat } ∧
          bezelOf t 0 = { bezelOf s 0 with retrainCh := 0, retrainPhase := .copy, retrainLeft := 8576, copied := 0 }
        else t.nutas = { s.nutas with rotation := some 0, rotTick := s.clock.tick.toNat } ∧ bezelOf t 0 = bezelOf s 0) ∧
    (q.retrainPhase = .copy → q.copied = 8781824 →
      Completes (.retrainPhaseEnd b) s fun t => OtherBezels b.val s t ∧
        bezelOf t b.val = { q with retrainPhase := .remap, retrainLeft := 123, copied := 0 }) ∧
    (q.retrainPhase = .remap →
      Completes (.retrainPhaseEnd b) s fun t => OtherBezels b.val s t ∧
        bezelOf t b.val = { q with retrainPhase := .return_, retrainLeft := 8576, copied := 0 }) ∧
    (q.retrainPhase = .return_ → q.copied = 8781824 → s.nutas.rotation = none →
      Completes (.retrainPhaseEnd b) s fun t => OtherBezels b.val s t ∧
        bezelOf t b.val = { q with retrainPhase := .idle, retrainLeft := 0, copied := 0 }) ∧
    (∀ n, q.retrainPhase = .return_ → q.copied = 8781824 → s.nutas.rotation = some n → n < 512 →
      (∀ z : BezelN, z ≠ b → (bezelOf s z.val).retrainPhase = .idle) →
      Completes (.retrainPhaseEnd b) s fun t =>
        t.nutas = { s.nutas with rotation := if n + 1 < 512 then some (n + 1) else none } ∧
        (bezelOf t (n / 32)).retrainPhase = .copy ∧ (bezelOf t (n / 32)).retrainCh = BitVec.ofNat 5 (n % 32) ∧
        (bezelOf t (n / 32)).retrainLeft = 8576 ∧ (bezelOf t (n / 32)).copied = 0 ∧
        (n / 32 ≠ b.val → bezelOf t b.val = { q with retrainPhase := .idle, retrainLeft := 0, copied := 0 })) ∧
    (∀ back : Bool, q.retrainPhase = (if back = true then .return_ else .copy) → q.copied < 8781824 →
      let near i := stackGran b.val (q.copied * 256 + q.retrainCh.toNat * 8 + i)
      let far i := reliefGran b.val (q.copied * 256 + q.retrainCh.toNat * 8 + i)
      let src i := if back = true then far i else near i
      let dst i := if back = true then near i else far i
      Completes (.retrainBurstCopy b) s fun t => OtherBezels b.val s t ∧
        (bezelOf t b.val).copied = q.copied + 1 ∧ (bezelOf t b.val).retrainPhase = q.retrainPhase ∧
        (bezelOf t b.val).redirect = q.redirect ∧
        (8388608 ≤ q.copied → t.mem = s.mem ∧ bezelOf t b.val = { q with copied := q.copied + 1 }) ∧
        (q.copied < 8388608 → s.mem.wf → q.redirect = [] →
          (∀ i < 8, codeAt t.mem (dst i) = passOn (codeAt s.mem (src i))) ∧
          (∀ g, (∀ i < 8, g ≠ dst i) → codeAt t.mem g = codeAt s.mem g) ∧
          ∀ i < 8, (decodeCode (codeAt s.mem (src i))).1 = .uncorr → s.faults.waiting.length + 8 ≤ 256 →
            Recorded 0x03 (blkBezel b.val) s t ∧ Raised 0 (96 + b.val) s t))) ∧
  ∀ s : State, s.standby.mainUp = true →
    (∀ (b : BezelN) (f : Nat) (rest : List Nat), (bezelOf s b.val).retiring = f :: rest →
      let q := { bezelOf s b.val with retiring := rest }
      (frameInIntake q f = true →
        Completes (.pageRetirement b) s fun t => t = { s with bezels := t.bezels } ∧ OtherBezels b.val s t ∧
          bezelOf t b.val = q) ∧
      (frameInIntake q f = false → frameRetrains q f = true →
        Completes (.pageRetirement b) s fun t => t = { s with bezels := t.bezels } ∧ OtherBezels b.val s t ∧
          bezelOf t b.val = { q with deferred := q.deferred ++ [f] }) ∧
      (frameInIntake q f = false → frameRetrains q f = false → tableFull q f = true → s.nutas.loads = [] →
        Completes (.pageRetirement b) s fun t => t.mem = s.mem ∧ OtherBezels b.val s t ∧ bezelOf t b.val = q ∧
          t.mmu.shadow = upTo 8 (fun k c => unmapAt c (physOfLocal s b.val (f * 4096)) k) s.mmu.shadow ∧
          Recorded 0x04 (blkBezel b.val) s t) ∧
      (frameInIntake q f = false → frameRetrains q f = false → tableFull q f = false → s.mem.wf → f < 16777216 →
        tblGet 0 q.redirect f = 0 → Completes (.pageRetirement b) s (FrameMoved b.val f q s))) ∧
    (∀ (b : BezelN) (f : Nat) (rest : List Nat), (bezelOf s b.val).deferred = f :: rest →
      let q := { bezelOf s b.val with deferred := rest }
      frameRetrains q f = false → frameInIntake q f = false → tableFull q f = false → s.mem.wf → f < 16777216 →
        tblGet 0 q.redirect f = 0 → Completes (.deferredRetirement b) s (FrameMoved b.val f q s)) ∧
    (∀ (p d : Nat) (rest : List (Nat × Nat)) (reads : List Code), s.mem.rereads = (p, d) :: rest → s.clock.hold = true →
      rereadsOk s.faults.reread.toNat reads = true → s.mem.wf →
      let last := reads.getLastD poisonCode
      let w := if isBad last = true then poisonCode else passOn last
      (∀ i off, placeOf s.mem.splitNow.toNat p = .slice i off →
        Completes (.uncorrReread reads) s fun t => t.mem.rereads = rest ∧ t.bezels = s.bezels ∧
          codeAt t.mem (sliceGran i (off / 32)) = w ∧
          (∀ g, g ≠ sliceGran i (off / 32) → codeAt t.mem g = codeAt s.mem g) ∧ Recorded 0x02 (blkSlice i) s t) ∧
      (∀ z l, placeOf s.mem.splitNow.toNat p = .stack z l →
        Completes (.uncorrReread reads) s fun t => t.mem.rereads = rest ∧ OtherBezels z s t ∧ stackCode t z l = w ∧
          (isBad last = false → l / 4096 ∈ (bezelOf t z).retiring) ∧
          (s.faults.waiting.length < 255 → Recorded 0x02 (blkBezel z) s t))) ∧
    (∀ (o : Ord) (parity : Bool), beadRuns s o.val = true →
      Completes (.beadFault o parity) s fun t => OtherBeads o.val s t ∧
        beadOf t o.val = { beadOf s o.val with stopped := true } ∧ Recorded 0x05 o.val s t ∧
        Raised 0 (1024 + o.val) s t)

/-! ### Records, trace and counters -/

/-- The fault ring, the trace and the dump engine (R671 to R673, R675, R678, R685 to R688, R703, R705). Where the spec
leaves a point open the model's choice is meant: log entries 62, 82. -/
def Obligations.RecordsReachRingTraceAndDumps : Prop :=
  ∀ s : State,
    (∀ r rest, s.faults.waiting = r :: rest → (s.standby.mainUp = false ∨ s.faults.wroteCk ≠ absCk s + 1) →
      let r' : FaultRec := { r with seq := s.faults.nextSeq, gap := s.faults.gap }
      Completes .faultRecordWrite s fun t => t.faults.waiting = rest ∧ t.faults.nextSeq = s.faults.nextSeq + 1 ∧
        t.faults.gap = false ∧ t.faults.dropped = s.faults.dropped ∧ t.faults.wroteCk = absCk s + 1 ∧
        (s.faults.ring.length < 4096 → t.faults.ring = s.faults.ring ++ [r'] ∧ t.faults.idxHost = s.faults.idxHost ∧
          t.faults.idxMgt = s.faults.idxMgt) ∧
        (s.faults.ring.length = 4096 → t.faults.ring = s.faults.ring.drop 1 ++ [r'] ∧
          (4096 ≤ unacked s.faults s.faults.idxHost → unacked s.faults s.faults.idxHost < 2 ^ 32 - 1 →
            t.faults.idxHost = s.faults.nextSeq - 4095 ∧ t.faults.overHost = satInc s.faults.overHost)) ∧
        (s.ledger.traceEn = false → t.ledger = s.ledger) ∧
        (s.ledger.traceEn = true → s.ledger.traceBuf.length < 64 →
          t.ledger = { s.ledger with traceBuf := s.ledger.traceBuf ++ [.fault r'] })) ∧
    (∀ i rest, s.standby.mainUp = true → s.asy.dumps = [] → s.ledger.traceBuf = i :: rest →
      let g := s.ledger
      let a := g.traceBase.toNat * 4096 + 128 * (g.traceN % max 1 (32 * g.traceSize.toNat))
      Completes .traceWrite s fun t =>
        t.ledger = { g with
          traceBuf := rest, traceN := g.traceN + 1, written := g.written + 1, drops := 0, cur := t.ledger.cur } ∧
        ∀ z l, s.mem.wf → (∀ k < 4, placeOf s.mem.splitNow.toNat (a + 32 * k) = .stack z (l + 32 * k)) → l % 32 = 0 →
          (∀ k < 4, inIntake (bezelOf s z) (l + 32 * k) = false ∧ heldLines (bezelOf s z) [l + 32 * k] = []) →
          (bezelOf s z).redirect = [] → (bezelOf s z).retrainPhase = .idle →
          (∀ k < 4, stackCode t z (l + 32 * k) =
            passOn (encodeGran (granOf (((traceBytes g.traceN g.drops.toNat i).drop (32 * k)).take 32)))) ∧
          ∀ n, (∀ k < 4, n ≠ stackGran z (l / 32 + k)) → codeAt t.mem n = codeAt s.mem n) ∧
    (∀ d rest, s.standby.mainUp = true → s.asy.dumps = d :: rest →
      (d.snap = none → Completes .dumpRecordWrite s fun t => t.asy.dumps = rest ∧ t.asy.seq = BitVec.ofNat 32 d.seq ∧
        Raised 0 136 s t ∧ t.nutas = s.nutas) ∧
      (∀ k c, d.snap = some k → d.loc = 1 → hostReach s = true →
        (s.nutas.cmds.find? fun x => x.num == k) = some c → (mbxOf s c.mbx.val).rst = false →
        Completes .dumpRecordWrite s fun t => t.asy.dumps = rest ∧ Raised 0 136 s t ∧
          (rest = [] → t.mem = s.mem ∧ t.out = s.out ++ [.hostWrite d.dest (dumpBytes d)]) ∧
          OutMsg.hostWrite d.dest (dumpBytes d) ∈ t.out ∧ Completed k c stOk 0 (d.tick.setWidth 64) s t))

/-! ### Mailboxes and commands -/

/-- Mailboxes (R569, R583, R586, R587, R589 to R592, R594, R598, R703): the entry at HEAD of the mailbox whose turn it is, read
with RdCurr in a host ring, joins the command order, one with an unassigned code completes with BAD_OPCODE unless FENCE holds it,
one that cannot be read stops the mailbox with ERRCODE 3; a completion is written at CPLTAIL with PHASE, held while the ring is
full, and one that cannot be written stops the mailbox with ERRCODE 4; held ones are written after a read of the index line, two
that fill a host line together. Where the spec leaves a point open the model's choice is meant: log entries 15, 48, 51. -/
def Obligations.MailboxesReadAndComplete : Prop :=
  ∀ (s : State) (mb : MbxN),
    let m := mb.val
    let q := mbxOf s m
    let tailAt (n : Nat) := (q.cplTail + n) % ringSize s m
    let wrap (n : Nat) : Bool := if tailAt n = 0 then !q.phase else q.phase
    (∀ entry ok, nextMailbox s = some m →
      let e := if m = 8 then tblGet 0 s.mgmt.ring q.head else entry
      let c : Cmd := { num := s.nutas.nextNum, mbx := mb, entry := e }
      ((ok = true ∨ m = 8) → (∀ x ∈ s.nutas.cmds, x.num ≠ s.nutas.nextNum) →
        Completes (.mailboxEntryRead mb entry ok) s fun t => OtherMbxs m s t ∧ t.faults = s.faults ∧
          mbxOf t m = { q with head := (q.head + 1) % ringSize s m } ∧ t.nutas.nextNum = s.nutas.nextNum + 1 ∧
          (m = 8 → t.out = s.out) ∧ (m ≠ 8 → t.out = s.out ++ [.cache .rdCurr (entryAddr s m) []]) ∧
          ((opInfo (entryByte e 0)).isSome = true → t.nutas.cmds = s.nutas.cmds ++ [c] ∧ t.nutas.ready = s.nutas.ready) ∧
          ((opInfo (entryByte e 0)).isSome = false →
            (∀ x ∈ s.nutas.cmds, x.mbx = mb → (opInfo (entryByte x.entry 0)).isSome = true) →
            (fenced s c = true → t.nutas.cmds = s.nutas.cmds ++ [c] ∧ t.nutas.ready = s.nutas.ready) ∧
            (fenced s c = false → q.held.length < 16 → t.nutas.cmds = s.nutas.cmds ∧
              t.nutas.ready = s.nutas.ready ++ [completionOf s c stBadOpcode 0 0]))) ∧
      (ok = false → m ≠ 8 →
        Completes (.mailboxEntryRead mb entry ok) s fun t => OtherMbxs m s t ∧ t.nutas = s.nutas ∧
          mbxOf t m = { q with err := true, errCode := 3 } ∧ Recorded 0x15 blkLocket s t ∧ Raised 0 (9 + m) s t)) ∧
    (∀ c ok, readyOf (endBad m s) m = some c → (m = 8 → s.faults.waiting = []) →
      let n := (endBad m s).nutas
      let rest := dropFirst (fun x => x.mbx.val == m) n.ready
      (mustHold s m = true → q.held.length < 16 →
        Completes (.mailboxCompletionWrite mb ok) s fun t => OtherMbxs m s t ∧ t.out = s.out ∧
          mbxOf t m = { q with held := q.held ++ [c] } ∧ t.nutas = { n with ready := rest }) ∧
      (mustHold s m = false → (ok = true ∨ m = 8) →
        Completes (.mailboxCompletionWrite mb ok) s fun t => OtherMbxs m s t ∧ t.faults = s.faults ∧
          mbxOf t m = { q with cplTail := tailAt 1, phase := wrap 1 } ∧ t.nutas = { n with ready := rest } ∧
          (m ≠ 8 → t.mgmt = s.mgmt ∧
            t.out = s.out ++ [.cache .woWrInv (cplAddr s m) (completionBytes q.head q.phase c)]) ∧
          (m = 8 → t.out = s.out ∧ t.mgmt.cplRing = s.mgmt.cplRing ++ [completionBytes q.head q.phase c]) ∧
          ((c.irq || q.irqAll) = true → s.standby.mainUp = true → Raised 0 m s t) ∧
          ((c.irq || q.irqAll) = false → t.hub = s.hub)) ∧
      (mustHold s m = false → ok = false → m ≠ 8 →
        Completes (.mailboxCompletionWrite mb ok) s fun t => OtherMbxs m s t ∧ t.out = s.out ∧
          mbxOf t m = { q with err := true, errCode := 4 } ∧ Recorded 0x15 blkLocket s t ∧ Raised 0 (9 + m) s t)) ∧
    (∀ i : IndexRead, q.held ≠ [] → q.rst = false → (m = 8 → s.faults.waiting = []) → (m ≠ 8 → hostReach s = true) →
      let q1 : Mbx := if m = 8 then q else { q with cplHead := i.head.toNat }
      let asked : List OutMsg := if m = 8 then [] else [.cache .rdShared (64 * indexLine s m) []]
      (tailAt 1 = q1.cplHead →
        Completes (.heldCompletionWrite mb i) s fun t => OtherMbxs m s t ∧ mbxOf t m = q1 ∧ t.out = s.out ++ asked ∧
          t.hub = s.hub ∧ t.faults = s.faults) ∧
      (∀ c, q.held = [c] → (i.ok = true ∨ m = 8) → tailAt 1 ≠ q1.cplHead →
        Completes (.heldCompletionWrite mb i) s fun t => OtherMbxs m s t ∧
          mbxOf t m = { q1 with held := [], cplTail := tailAt 1, phase := wrap 1 } ∧
          (m ≠ 8 → t.out = s.out ++ asked ++ [.cache .woWrInv (cplAddr s m) (completionBytes q.head q.phase c)]) ∧
          (m = 8 → t.out = s.out ∧ t.mgmt.cplRing = s.mgmt.cplRing ++ [completionBytes q.head q.phase c]) ∧
          ((c.irq || q.irqAll) = true → s.standby.mainUp = true → Raised 0 m s t)) ∧
      (∀ c d, q.held = [c, d] → i.ok = true → m ≠ 8 → tailAt 1 ≠ q1.cplHead → q.cplTail % 2 = 0 →
        2 ≤ (i.head.toNat + 2 * ringSize s m - q.cplTail - 1) % ringSize s m →
        Completes (.heldCompletionWrite mb i) s fun t => OtherMbxs m s t ∧
          mbxOf t m = { q1 with held := [], cplTail := tailAt 2, phase := wrap 2 } ∧
          t.out = s.out ++ asked ++ [.cache .itoMWr (cplAddr s m)
            (completionBytes q.head q.phase c ++ completionBytes q.head q.phase d)]) ∧
      (i.ok = false → m ≠ 8 → tailAt 1 ≠ q1.cplHead →
        Completes (.heldCompletionWrite mb i) s fun t => OtherMbxs m s t ∧ t.out = s.out ++ asked ∧
          mbxOf t m = { q1 with held := q.held.drop 1, err := true, errCode := 4 } ∧ Recorded 0x15 blkLocket s t ∧
          Raised 0 (9 + m) s t))

/-- The queries (R597, R602, R617, R618): NOP and STATUS answer in their results; IDENTIFY, POSMAP, COHORT_READ,
LEDGER_READ and FLT_READ write their record into the buffer, in host memory or in the staging area whole, and in a
stack in no granule but those of the buffer; FLT_ACK moves its master's index, or is a BAD_FIELD. Where the spec
leaves a point open the model's choice is meant: log entries 15, 21, 50, 52. -/
def Obligations.QueriesAnswer : Prop :=
  ∀ (s : State) (k : Nat) (c : Cmd),
    let b := bufOf c.entry
    (Served k 0x00 [] noChecks noBuf c s → Completes (.nop k) s fun t => OnlyIn [.nutas] s t ∧ Completed k c stOk 0 0 s t) ∧
    (Served k 0x02 [] noChecks noBuf c s → Completes (.status k) s fun t => OnlyIn [.nutas] s t ∧
      Completed k c stOk (statusWord s) (s.clock.tick.setWidth 64) s t) ∧
    (∀ x ∈ ([(.identify k, 0x01, 256, identityRecord s),
        (.posmap k, 0x03, 4608, (List.range 1152).flatMap fun p => toBytes 4 (posEntry s p)),
        (.cohortRead k, 0x32, 16384, (List.range 512).flatMap fun a => cohortBytes (tblGet {} s.nutas.cohorts a))] :
        List (Instr × Nat × Nat × List Byte)),
      Served k x.2.1 bufMaskAll noChecks (fun _ => some x.2.2.1) c s →
      (b.loc = 1 → hostReach s = true → Completes x.1 s fun t => OnlyIn [.nutas, .out] s t ∧ Completed k c stOk 0 0 s t ∧
        t.out = s.out ++ [.hostWrite b.addr x.2.2.2]) ∧
      (b.loc = 2 → Completes x.1 s fun t => OnlyIn [.nutas, .mgmt] s t ∧ Completed k c stOk 0 0 s t ∧
        (∀ i < x.2.2.2.length, tblGet 0 t.mgmt.stage (b.addr + i) = nth 0 x.2.2.2 i) ∧
        ∀ a, (a < b.addr ∨ b.addr + x.2.2.2.length ≤ a) → tblGet 0 t.mgmt.stage a = tblGet 0 s.mgmt.stage a) ∧
      (b.loc = 0 → (∀ i z l, 32 * i < x.2.2.2.length → placeOf s.mem.splitNow.toNat (b.addr + 32 * i) = .stack z l →
          inIntake (bezelOf s z) l = false ∧ heldLines (bezelOf s z) [l] = []) →
        Completes x.1 s fun t => Completed k c stOk 0 0 s t ∧ t.out = s.out ∧ t.mgmt = s.mgmt ∧
        ∀ g, (∀ i z l, 32 * i < x.2.2.2.length → placeOf s.mem.splitNow.toNat (b.addr + 32 * i) = .stack z l →
          g ≠ stackGran z (redirected (bezelOf s z) (l / 32)) ∧ g ≠ reliefGran z (l / 32)) →
        codeAt t.mem g = codeAt s.mem g)) ∧
    (Served k 0x60 (bufMaskAll ++ bytesMask 32 6 ++ bytesMask 40 4) noChecks (fun c => some (64 * entryNum c.entry 40 4)) c s →
      b.loc = 1 → hostReach s = true →
      let l := (s.ledger.recs.filter fun r => decide (entryNum c.entry 32 6 ≤ r.tick.toNat)).take (entryNum c.entry 40 4)
      Completes (.ledgerRead k) s fun t => OnlyIn [.nutas, .out] s t ∧
        Completed k c stOk (BitVec.ofNat 64 l.length) (BitVec.ofNat 64 ((l.head?.map fun r => r.tick.toNat).getD 0)) s t ∧
        t.out = s.out ++ [.hostWrite b.addr (l.flatMap ledgerBytes)]) ∧
    (Served k 0x80 (bufMaskAll ++ bytesMask 24 8) noChecks (fun c => some (32 * entryNum c.entry 28 4)) c s →
      let start := BitVec.ofNat 32 (entryNum c.entry 24 4)
      let l := faultsFrom s.faults start (entryNum c.entry 28 4)
      let after := (l.getLast?.map fun r => r.seq + 1).getD start
      (b.loc = 1 → hostReach s = true → Completes (.fltRead k) s fun t => OnlyIn [.nutas, .out, .faults] s t ∧
        Completed k c stOk (after.setWidth 64) (s.faults.overHost.setWidth 64) s t ∧
        t.out = s.out ++ [.hostWrite b.addr (l.flatMap faultBytes)] ∧ t.faults = { s.faults with overHost := 0 }) ∧
      (∀ r z x, b.loc = 0 → l = [r] → s.mem.wf → placeOf s.mem.splitNow.toNat b.addr = .stack z x →
        inIntake (bezelOf s z) x = false → heldLines (bezelOf s z) [x] = [] →
        Completes (.fltRead k) s fun t => Completed k c stOk (after.setWidth 64)
            ((if c.mbx.val = 8 then s.faults.overMgt else s.faults.overHost).setWidth 64) s t ∧
          stackCode t z x = passOn (encodeGran (granOf (faultBytes r))) ∧
          ∀ g, g ≠ stackGran z (redirected (bezelOf s z) (x / 32)) → g ≠ reliefGran z (x / 32) →
            codeAt t.mem g = codeAt s.mem g)) ∧
    (Served k 0x81 (bytesMask 24 4) noChecks noBuf c s →
      let upto := BitVec.ofNat 32 (entryNum c.entry 24 4)
      let idx := if c.mbx.val = 8 then s.faults.idxMgt else s.faults.idxHost
      let d := (upto - idx).toNat
      (d ≤ (s.faults.nextSeq - idx).toNat → Completes (.fltAck k) s fun t => Completed k c stOk 0 0 s t ∧
        (if c.mbx.val = 8 then t.faults.idxMgt else t.faults.idxHost) = upto ∧ t.faults.ring = s.faults.ring ∧
        (if c.mbx.val = 8 then t.faults.idxHost = s.faults.idxHost else t.faults.idxMgt = s.faults.idxMgt)) ∧
      ((s.faults.nextSeq - idx).toNat < d → d < 2 ^ 31 → Completes (.fltAck k) s fun t =>
        Completed k c stBadField 24 0 s t ∧ t.faults = s.faults))

/-- MAP, UNMAP, WINDOW and SPLIT (R318, R598 to R600, R603, R604): fields, master and main domains are checked in this
order; a change is loaded into the shadow bank, whose swap is armed once all of it stands there, a 1 GiB page mapped into
an empty bank is one that a walk then finds, a window waits for the next swap, and a new SPLIT waits until it takes
effect. Where the spec leaves a point open the
model's choice is meant: log entries 47, 54. -/
def Obligations.MapCommandsChangeTheShadowMap : Prop :=
  (∀ (s : State) (k : Nat) (c : Cmd),
    let mapUsed := bytesMask 24 6 ++ bytesMask 32 6 ++ bytesMask 40 4 ++ [(44, 0x1F), (45, 0xFF)]
    let unmapUsed := bytesMask 24 6 ++ bytesMask 40 4 ++ [(44, 0x03), (45, 0xFF)]
    let winUsed := [(24, 0x1F)] ++ bytesMask 32 8 ++ bytesMask 40 2
    let winChecks (c : Cmd) (_ : State) : List (Nat × Bool) := [(32, entryNum c.entry 32 8 % gib == 0),
      (40, decide (1 ≤ entryNum c.entry 40 2) && decide (entryNum c.entry 40 2 ≤ 2048))]
    let splitChecks (c : Cmd) (_ : State) : List (Nat × Bool) := [(24, decide (entryByte c.entry 24 ≤ 64))]
    let attrs := 3 + 4 * bitsOf (entryByte c.entry 44) 2 3
    (∀ x ∈ ([(.map k, 0x10, mapUsed, mapChecks), (.unmap k, 0x11, unmapUsed, unmapChecks),
        (.window k, 0x12, winUsed, winChecks), (.split k, 0x13, [(24, 0xFF)], splitChecks)] :
        List (Instr × Nat × List (Nat × Nat) × (Cmd → State → List (Nat × Bool)))),
      (s.nutas.cmds.find? fun y => y.num == k) = some c → startable s c = true → entryByte c.entry 0 = x.2.1 →
      (mbxOf s c.mbx.val).rst = false →
      let bad := badField c.entry x.2.2.1 (x.2.2.2 c s)
      let owns := if c.mbx.val = 8 then s.standby.owner else !s.standby.owner
      (∀ off, bad = some off → Completes x.1 s fun t => OnlyIn [.nutas] s t ∧
        Completed k c stBadField (BitVec.ofNat 64 off) 0 s t) ∧
      (bad = none → owns = false → Completes x.1 s fun t => OnlyIn [.nutas] s t ∧ Completed k c stNotOwner 0 0 s t) ∧
      (bad = none → owns = true → nutasUp s = false → Completes x.1 s fun t => OnlyIn [.nutas] s t ∧
        Completed k c stMainDown 0 0 s t)) ∧
    (Served k 0x10 mapUsed mapChecks noBuf c s →
      let new := setFacets (entryByte c.entry 45) (mapDev c) (mapPhys c) (mapLo c) (mapPages c) attrs true s.mmu.shadow
      (new = none → Completes (.map k) s fun t => Completed k c stNoSpace 0 0 s t ∧ t.mmu = s.mmu) ∧
      (∀ bank, new = some bank → (∀ l, s.nutas.loads.head? = some l → l.left ≠ 0) →
        let g := bankGranules s.mmu.shadow bank
        let now := s.nutas.loads = [] ∧ g = 0
        Completes (.map k) s fun t => WaitsAs k (.map k) s t ∧
          t.nutas.loads = (if now then [] else s.nutas.loads ++ [⟨.stores, g⟩]) ∧
          t.mmu = { s.mmu with shadow := bank, swapDue := if now then some (armDue s) else none }) ∧
      (∀ f < 8, entryByte c.entry 45 = 2 ^ f → s.mmu.shadow = [] → mapLo c = 2 → mapPages c = 1 →
        Completes (.map k) s fun t => ∃ e, walkFrom t.mmu.shadow f (mapDev c) 3 0 = some e ∧
          physOf e (mapDev c) = mapPhys c ∧ e.bits = 30 ∧ e.rd = bitOf (entryByte c.entry 44) 2 ∧
          e.wr = bitOf (entryByte c.entry 44) 3 ∧ e.nc = bitOf (entryByte c.entry 44) 4)) ∧
    (Served k 0x11 unmapUsed unmapChecks noBuf c s →
      ∀ bank, setFacets (entryByte c.entry 45) (mapDev c) (mapPhys c) (mapLo c) (mapPages c) attrs false s.mmu.shadow =
          some bank → (∀ l, s.nutas.loads.head? = some l → l.left ≠ 0) →
        let g := bankGranules s.mmu.shadow bank
        let now := s.nutas.loads = [] ∧ g = 0
        Completes (.unmap k) s fun t => WaitsAs k (.map k) s t ∧
          t.nutas.loads = (if now then [] else s.nutas.loads ++ [⟨.stores, g⟩]) ∧
          t.mmu = { s.mmu with shadow := bank, swapDue := if now then some (armDue s) else none }) ∧
    (Served k 0x12 winUsed winChecks noBuf c s →
      Completes (.window k) s fun t => WaitsAs k (.window k) s t ∧ t.mmu = { s.mmu with
        winShadow := tblSet {} s.mmu.winShadow (bitsOf (entryByte c.entry 24) 0 3) (windowOf c)
        swapDue := if storesLoading s = true then s.mmu.swapDue else some (armDue s) }) ∧
    (Served k 0x13 [(24, 0xFF)] splitChecks noBuf c s →
      let v := BitVec.ofNat 7 (entryByte c.entry 24)
      (planRuns s = true → Completes (.split k) s fun t => Completed k c stPlanRunning 0 0 s t ∧ t.mem = s.mem) ∧
      (planRuns s = false → v = s.mem.splitNow → Completes (.split k) s fun t => Completed k c stOk 0 0 s t ∧
        t.mem = { s.mem with split := v }) ∧
      (planRuns s = false → v ≠ s.mem.splitNow → Completes (.split k) s fun t => WaitsAs k (.split k) s t ∧
        t.mem = { s.mem with split := v }))) ∧
  ∀ s : State, s.standby.mainUp = true → s.clock.ck = 0 → s.mem.split ≠ s.mem.splitNow → planRuns s = false →
    stacksQuiet s = true →
    Completes .splitTakeEffect s fun t => t.mem = { s.mem with splitNow := s.mem.split } ∧
      ∀ k c, s.nutas.waits = [.split k] → (s.nutas.cmds.find? fun y => y.num == k) = some c →
        (mbxOf s c.mbx.val).rst = false → t.nutas.waits = [] ∧ Completed k c stOk 0 0 s t

/-- Bundles, programs, cohorts and plans (R285, R287, R289, R290, R292, R607 to R610, R612 to R616, R726 to R728): a
bundle that passes its checks stands in its slot, a program, whose header is looked at before anything else of it, is loaded into
the shadow banks that differ, a binding waits for its view, a plan waits to enter and its first load begins, STOP makes the plan
leave, and a load goes on at its rate until its swap is armed, but no setting of a plan that leaves is. Where the spec leaves a point open the model's choice is meant: log entries
15, 20, 23, 55, 56, 57, 58, 60, 61. -/
def Obligations.LoadsAndPlansBegin : Prop :=
  ∀ (s : State) (k : Nat) (c : Cmd),
    let b := bufOf c.entry
    let programChecks (c : Cmd) (_ : State) : List (Nat × Bool) :=
      [(24, decide (entryNum c.entry 24 2 < 1024)), (26, decide (entryNum c.entry 26 2 < 1024))]
    (Served k 0x20 (bufMaskAll ++ [(24, 3)]) noChecks (fun _ => some 256) c s →
      let slot := entryByte c.entry 24
      let u := bundleAt s b.addr
      let read := bundleLen s u
      (b.loc ≠ 0 ∨ b.len < read →
        Completes (.loadBundle k) s fun t => OnlyIn [.nutas] s t ∧ Completed k c stBadBuffer 0 0 s t) ∧
      (b.loc = 0 → read ≤ b.len → slotInUse s slot = true →
        Completes (.loadBundle k) s fun t => OnlyIn [.nutas] s t ∧ Completed k c stPlanRunning 0 0 s t ∧
          t.nutas.bundles = s.nutas.bundles) ∧
      (b.loc = 0 → read ≤ b.len → slotInUse s slot = false → (bundleOf s slot).isSome = true →
        Completes (.loadBundle k) s fun t => OnlyIn [.nutas] s t ∧ Completed k c stNoSpace 0 0 s t) ∧
      (b.loc = 0 → read ≤ b.len → slotInUse s slot = false → bundleOf s slot = none →
        (∀ off, locketBad s b.addr read = some off → Completes (.loadBundle k) s fun t => t.mem.cells = s.mem.cells ∧
          Completed k c stMemFault 0 (BitVec.ofNat 64 off) s t ∧ bundleOf t slot = none) ∧
        (locketBad s b.addr read = none → ∀ st r0 pos, bundleBad (Started k s) u = some (st, r0, pos) →
          Completes (.loadBundle k) s fun t => t.mem.cells = s.mem.cells ∧ Completed k c st r0 0 s t ∧
            bundleOf t slot = none) ∧
        (locketBad s b.addr read = none → bundleBad (Started k s) u = none →
          Completes (.loadBundle k) s fun t => t.mem.cells = s.mem.cells ∧ bundleOf t slot = some u ∧
            (∀ n, n ≠ slot → bundleOf t n = bundleOf s n) ∧
            Completed k c stOk (BitVec.ofNat 64 (u.nset + u.ntick * 65536)) 0 s t))) ∧
    (Served k 0x21 [(24, 3)] noChecks noBuf c s →
      let slot := entryByte c.entry 24
      (slotInUse s slot = true →
        Completes (.dropBundle k) s fun t => Completed k c stPlanRunning 0 0 s t ∧ t.nutas.bundles = s.nutas.bundles) ∧
      (slotInUse s slot = false → bundleOf s slot = none →
        Completes (.dropBundle k) s fun t => OnlyIn [.nutas] s t ∧ Completed k c stNoBundle 0 0 s t) ∧
      (slotInUse s slot = false → (bundleOf s slot).isSome = true →
        Completes (.dropBundle k) s fun t => Completed k c stOk 0 0 s t ∧ bundleOf t slot = none ∧
          ∀ n, n ≠ slot → bundleOf t n = bundleOf s n)) ∧
    (∀ buf : List Byte, LooksAt k 0x22 (bufMaskAll ++ bytesMask 24 4) programChecks (fun _ => some 64) c s →
      b.loc = 1 → hostReach s = true → 64 ≤ buf.length →
      (∀ off, imageBad (imageOfBytes (buf.take 64)) = some off →
        Completes (.loadProgram k buf) s fun t => OnlyIn [.nutas] s t ∧ Completed k c stBadField (BitVec.ofNat 64 off) 0 s t) ∧
      (imageBad (imageOfBytes (buf.take 64)) = none → b.len < 64 + cutNum (buf.take 64) 0 4 →
        Completes (.loadProgram k buf) s fun t => OnlyIn [.nutas] s t ∧ Completed k c stBadBuffer 0 0 s t)) ∧
    (∀ buf : List Byte, ServedWith k 0x22 (bufMaskAll ++ bytesMask 24 4) programChecks (fun _ => some 64)
        (fun c t => imageForm t (bufOf c.entry) buf) c s →
      let first := entryNum c.entry 24 2
      let last := entryNum c.entry 26 2
      let n := 64 + cutNum (buf.take 64) 0 4
      let img := imageOfBytes (buf.take n)
      let live := liveIn s first last
      let left := countIf (fun o => decide ((beadOf s o).shadow ≠ bankOfImage img)) live
      b.loc = 1 → hostReach s = true →
      (s.clock.mode ≠ .arbitrated →
        Completes (.loadProgram k buf) s fun t => OnlyIn [.nutas] s t ∧ Completed k c stPlanRunning 0 0 s t) ∧
      (s.clock.mode = .arbitrated → live = [] →
        Completes (.loadProgram k buf) s fun t => Completed k c stInvalidTarget 0 0 s t ∧ Recorded 0x17 blkLocket s t) ∧
      (s.clock.mode = .arbitrated → live ≠ [] → (buf.length < 64 ∨ buf.length < n) →
        Completes (.loadProgram k buf) s fun t => OnlyIn [.nutas] s t ∧
          Completed k c stMemFault 0 (BitVec.ofNat 64 (buf.length / 32 * 32)) s t) ∧
      (s.clock.mode = .arbitrated → live ≠ [] → 64 ≤ buf.length → n ≤ buf.length → s.nutas.loads = [] →
        Completes (.loadProgram k buf) s fun t => WaitsAs k (.program k first last) s t ∧ t.mem = s.mem ∧
          (left ≠ 0 → t.beads = s.beads ∧
            t.nutas.loads = [⟨.program k first last (entryTable img.entry) img.code, 2048 * left⟩]) ∧
          (left = 0 → t.nutas.loads = [] ∧
            ∀ o ∈ live, beadOf t o = { beadOf s o with shadow := bankOfImage img, swapDue := some (armDue s) }))) ∧
    (Served k 0x30 ([(24, 0xFF), (25, 1), (26, 0x1F), (28, 0xFF), (29, 1), (30, 0xFF), (31, 1)] ++ bytesMask 32 14)
        (fun c _ => [(28, decide (1 ≤ entryNum c.entry 28 2) && decide (entryNum c.entry 28 2 ≤ 256))]) noBuf c s →
      let aid := entryNum c.entry 24 2
      let gw := bitsOf (entryByte c.entry 26) 0 2
      let slot := bitsOf (entryByte c.entry 26) 2 3
      let rank := entryNum c.entry 28 2
      let pave := entryNum c.entry 30 2
      ((cohortOf s aid).st ≠ 0 ∨ bindRefused s aid gw slot rank pave = true →
        Completes (.bind k) s fun t => Completed k c stCohortConflict 0 0 s t ∧ t.nutas.cohorts = s.nutas.cohorts) ∧
      ((cohortOf s aid).st = 0 → bindRefused s aid gw slot rank pave = false →
        Completes (.bind k) s fun t => WaitsAs k (.view k aid true) s t ∧
          t.nutas.loads = s.nutas.loads ++ [⟨.view, 37376⟩] ∧ (∀ a, a ≠ aid → cohortOf t a = cohortOf s a) ∧
          cohortOf t aid = {
            st := 2, gw := BitVec.ofNat 2 gw, slot := BitVec.ofNat 3 slot, rank := BitVec.ofNat 9 rank
            pave := BitVec.ofNat 9 pave, setTag := BitVec.ofNat 64 (entryNum c.entry 32 8)
            pbase := BitVec.ofNat 48 (entryNum c.entry 40 6) })) ∧
    (Served k 0x31 [(24, 0xFF), (25, 1)] (fun c t => [(24, (cohortOf t (entryNum c.entry 24 2 % 512)).st == 1)]) noBuf c s →
      let aid := entryNum c.entry 24 2
      (unbindRefused s aid = true →
        Completes (.unbind k) s fun t => Completed k c stCohortBusy 0 0 s t ∧ t.nutas.cohorts = s.nutas.cohorts) ∧
      (unbindRefused s aid = false →
        Completes (.unbind k) s fun t => WaitsAs k (.view k aid false) s t ∧
          t.nutas.loads = s.nutas.loads ++ [⟨.view, 37376⟩] ∧ (∀ a, a ≠ aid → cohortOf t a = cohortOf s a) ∧
          cohortOf t aid = { cohortOf s aid with st := 3 })) ∧
    (Served k 0x50 ([(24, 3)] ++ bytesMask 32 6 ++ bytesMask 40 12) noChecks noBuf c s →
      let slot := entryByte c.entry 24
      let start := entryNum c.entry 32 6
      let first := entryNum c.entry 48 4
      (∀ st r0 pos, runBad (Started k s) slot start first = some (st, r0, pos) →
        Completes (.run k) s fun t => Completed k c st r0 0 s t ∧ t.nutas.plan = s.nutas.plan ∧
          t.nutas.loads = s.nutas.loads ∧ (pos = none → OnlyIn [.nutas] s t)) ∧
      (∀ u, runBad (Started k s) slot start first = none → bundleOf s slot = some u → s.nutas.loads = [] →
        let p : Plan := {
          phase := .waiting, num := k, slot := slot, start := start, nticks := entryNum c.entry 40 8, first := first
          reserve := u.reserve }
        let s1 : State := { Started k s with ledger := { s.ledger with iswap := 0 } }
        let s2 := modPlan (fun _ => p) s1
        let left := loadGranules s2 u (schedSetting (planEntry s2 u 0))
        left ≠ 0 →
        Completes (.run k) s fun t => t.nutas.ready = s.nutas.ready ∧ t.ledger.iswap = 0 ∧ t.fabric.shadowId = 0 ∧
          t.beads = s.beads ∧ t.mem.cells = s.mem.cells ∧ t.nutas.loads = [⟨.step 0, left⟩] ∧
          t.nutas.plan = { p with next := some 0 })) ∧
    (Served k 0x51 [] noChecks noBuf c s →
      (s.nutas.plan.phase = .none →
        Completes (.stop k) s fun t => OnlyIn [.nutas] s t ∧ Completed k c stNotRunning 0 0 s t) ∧
      (∀ c', s.nutas.plan.phase = .waiting → s.nutas.plan.num ≠ k →
        (s.nutas.cmds.find? fun x => x.num == s.nutas.plan.num) = some c' → (mbxOf s c'.mbx.val).rst = false →
        Completes (.stop k) s fun t => t.nutas.plan = {} ∧ t.clock.quiet = false ∧
          t.nutas.ready = s.nutas.ready ++ [completionOf s c' stStopped 0 0, completionOf s c stOk 0 0]) ∧
      (s.nutas.plan.phase = .running → s.clock.leaving = false → lastArmed s.nutas.plan = true →
        Completes (.stop k) s fun t => OnlyIn [.nutas] s t ∧ Completed k c stNotRunning 0 0 s t) ∧
      (s.nutas.plan.phase = .running → s.clock.leaving = false → lastArmed s.nutas.plan = false →
        Completes (.stop k) s fun t => WaitsAs k (.stop k) s t ∧
          t.clock = { s.clock with leaving := true, endFault := false } ∧
          t.nutas.plan = { s.nutas.plan with phase := .stopping, stopped := true }) ∧
      (s.nutas.plan.phase = .stopping → Completes (.stop k) s fun t => OnlyIn [.nutas] s t ∧ WaitsAs k (.stop k) s t)) ∧
    (∀ l rest (n : Nat), s.nutas.loads = l :: rest → s.standby.mainUp = true → handing s = false → s.clock.quiet = false →
      1 ≤ n → n ≤ l.left → s.nutas.loadedNow + n ≤ loadRate s →
      (n < l.left → Completes (.shadowLoad n) s fun t => OnlyIn [.nutas] s t ∧ t.nutas = { s.nutas with
        loads := { l with left := l.left - n } :: rest, loadedNow := s.nutas.loadedNow + n }) ∧
      (n = l.left → l.what = .view → rest = [] → Completes (.shadowLoad n) s fun t => OnlyIn [.nutas] s t ∧
        t.nutas = { s.nutas with
          loads := [], loadedNow := s.nutas.loadedNow + n, viewShadow := viewOf s, viewDue := some (armDue s) }) ∧
      (∀ num first last entry code, n = l.left → l.what = .program num first last entry code → rest = [] →
        Completes (.shadowLoad n) s fun t => OnlyIn [.nutas, .beads] s t ∧
          t.nutas = { s.nutas with loads := [], loadedNow := s.nutas.loadedNow + n } ∧
          ∀ o, beadOf t o = if o ∈ liveIn s first last then { beadOf s o with
            shadow := { code := codeTable code, entry := entry }, swapDue := some (armDue s) } else beadOf s o) ∧
      (∀ j, n = l.left → l.what = .step j → rest = [] → s.clock.leaving = true →
        Completes (.shadowLoad n) s fun t => OnlyIn [.nutas] s t ∧
          t.nutas = { s.nutas with loads := [], loadedNow := s.nutas.loadedNow + n }) ∧
      (∀ j u, n = l.left → l.what = .step j → rest = [] → s.clock.leaving = false →
        bundleOf s s.nutas.plan.slot = some u → settingPoison s (stepBase s u j) = none →
        imagePoison s u (stepBase s u j) = none →
        Completes (.shadowLoad n) s fun t => t.nutas.plan = { s.nutas.plan with ready := some (j, armDue s) } ∧
          t.mem.cells = s.mem.cells ∧ t.fabric.active = s.fabric.active ∧
          t.fabric.shadowId = (routerImage s (stepBase s u j) 0).settingId ∧
          (∀ r < 1152, tblGet {} t.fabric.shadow r = routerImage s (stepBase s u j) r) ∧
          t.clasps = { s.clasps with checkShadow := checkTable s (stepBase s u j) } ∧
          t.nutas.reachShadow = reachNow s ∧ t.nutas.loads = []) ∧
      (n = l.left → l.what = .stores → rest = [] → Completes (.shadowLoad n) s fun t => OnlyIn [.nutas, .mmu] s t ∧
        t.nutas = { s.nutas with loads := [], loadedNow := s.nutas.loadedNow + n } ∧
        t.mmu = { s.mmu with swapDue := some (armDue s) }))

/-- The commands of the reduction block, the ledger and the assayer (R511 to R513, R521, R527, R536, R547, R611, R617,
R669, R675): records, generation entries, optimiser sets and intakes are written in the bezels named, or refused;
LEDGER_CTL, CNT_CONFIG and CNT_SNAP wait for the next boundary. What the buffer shows to be out of form is refused before the
rest of it counts. Where the spec leaves a point open the model's
choice is meant: log entries 53, 59, 62. -/
def Obligations.SettingsOfUnitsAreWritten : Prop :=
  ∀ (s : State) (k : Nat) (c : Cmd) (buf : List Byte),
    let b := bufOf c.entry
    let zs := bezelsOf (entryNum c.entry 24 2)
    let recChecks (c : Cmd) (_ : State) : List (Nat × Bool) :=
      [(28, decide (entryNum c.entry 28 4 + entryNum c.entry 32 4 ≤ 65536))]
    let cntChecks (c : Cmd) (t : State) : List (Nat × Bool) :=
      let base := entryNum c.entry 32 6
      let size := entryNum c.entry 40 4
      [(32, base % 4096 == 0 && inStacks base size && !meetsCoherent t base size), (40, decide (recordStride ≤ size)),
       (44, decide (entryNum c.entry 44 4 < 4194304))]
    (LooksAt k 0x40 (bufMaskAll ++ [(24, 0x0F)] ++ bytesMask 28 8) recChecks (fun c => some (192 * entryNum c.entry 32 4)) c s →
      let n := entryNum c.entry 32 4
      let bytes i := cut (buf.take (192 * n)) (192 * i) 192
      b.loc = 1 → hostReach s = true → 192 * n ≤ buf.length →
      ∀ i < n, recFormOk (bytes i) (recOfBytes (bytes i)) = false →
        (∀ j < i, recFormOk (bytes j) (recOfBytes (bytes j)) = true) →
        Completes (.redWrite k buf) s fun t => OnlyIn [.nutas] s t ∧
          Completed k c stBadField (BitVec.ofNat 64 (entryNum c.entry 28 4 + i)) 0 s t) ∧
    (ServedWith k 0x40 (bufMaskAll ++ [(24, 0x0F)] ++ bytesMask 28 8) recChecks (fun c => some (192 * entryNum c.entry 32 4))
        (fun c t => recsForm (entryNum c.entry 28 4) (recsRead c (redBuf c buf t))) c s →
      let z := entryByte c.entry 24
      let first := entryNum c.entry 28 4
      let n := entryNum c.entry 32 4
      let bytes := (List.range n).map fun i => cut (buf.take (192 * n)) (192 * i) 192
      b.loc = 1 → hostReach s = true → 192 * n ≤ buf.length →
      (∀ st r0, recsBad (bezelOf s z) first n bytes = some (st, r0) →
        Completes (.redWrite k buf) s fun t => OnlyIn [.nutas] s t ∧ Completed k c st r0 0 s t) ∧
      (recsBad (bezelOf s z) first n bytes = none →
        Completes (.redWrite k buf) s fun t => Completed k c stOk 0 0 s t ∧
          (∀ i < n, let r := recOfBytes (nth [] bytes i)
            recOf (bezelOf t z) (first + i) =
              if r.st = .open_ ∧ (r.expect = 0 ∨ recFull r = true) then { r with st := .complete } else r) ∧
          (∀ r, (r < first ∨ first + n ≤ r) → recOf (bezelOf t z) r = recOf (bezelOf s z) r) ∧
          ((∀ i < n, let r := recOfBytes (nth [] bytes i)
            r.st = .open_ → r.expect = 0 ∨ recFull r = false) → OnlyIn [.nutas, .bezels] s t ∧ OtherBezels z s t))) ∧
    (Served k 0x41 (bytesMask 24 2 ++ [(26, 0x3F)] ++ bytesMask 32 4 ++ [(36, 0x0F)] ++ bytesMask 37 4 ++ [(41, 0x0F)] ++
        bytesMask 42 4 ++ [(46, 0x0F), (47, 0x03)] ++ bytesMask 48 7 ++ [(55, 0x0F)] ++ bytesMask 56 6) noChecks noBuf c s →
      let e := entryByte c.entry 26
      let busy := (∃ z ∈ zs, ∃ p ∈ (bezelOf s z).recs, p.2.region.toNat = e ∧ (p.2.st = .complete ∨ p.2.st = .updating)) ∨
        ((s.commit.waiting = true ∨ s.commit.armed = true) ∧ bitOf s.commit.regions.toNat e = true)
      (busy → Completes (.genWrite k) s fun t => OnlyIn [.nutas] s t ∧ Completed k c stRecordBusy 0 0 s t) ∧
      (¬ busy → Completes (.genWrite k) s fun t => OnlyIn [.nutas, .bezels] s t ∧ Completed k c stOk 0 0 s t ∧
        ∀ z, bezelOf t z = if z ∈ zs then { bezelOf s z with gens := tblSet {} (bezelOf s z).gens e (genOf c) }
          else bezelOf s z)) ∧
    (LooksAt k 0x42 (bufMaskAll ++ bytesMask 24 2 ++ [(26, 0x0F)]) noChecks (fun _ => some 64) c s →
      b.loc = 1 → hostReach s = true → 64 ≤ buf.length → ∀ m ∈ optReserved, Nat.land (cutNum buf m.1 1) m.2 ≠ 0 →
      (∀ m' ∈ optReserved, m'.1 < m.1 → Nat.land (cutNum buf m'.1 1) m'.2 = 0) →
      Completes (.optWrite k buf) s fun t => OnlyIn [.nutas] s t ∧
        Completed k c stBadField (BitVec.ofNat 64 m.1) 0 s t) ∧
    (ServedWith k 0x42 (bufMaskAll ++ bytesMask 24 2 ++ [(26, 0x0F)]) noChecks (fun _ => some 64)
        (fun c t => optForm (bufRead t (bufOf c.entry) 64 buf)) c s →
      b.loc = 1 → hostReach s = true →
      (buf.length < 64 → Completes (.optWrite k buf) s fun t => OnlyIn [.nutas] s t ∧
        Completed k c stMemFault 0 (BitVec.ofNat 64 (buf.length / 32 * 32)) s t) ∧
      (64 ≤ buf.length →
        Completes (.optWrite k buf) s fun t => OnlyIn [.nutas, .bezels] s t ∧ Completed k c stOk 0 0 s t ∧
        ∀ z, bezelOf t z = if z ∈ zs then { bezelOf s z with
            optShadow := tblSet 0 (bezelOf s z).optShadow (entryByte c.entry 26) (BitVec.ofNat 512 (ofBytes (buf.take 64))) }
          else bezelOf s z)) ∧
    (Served k 0x43 (bytesMask 24 2 ++ bytesMask 32 5 ++ [(37, 0x03)])
        (fun c t => [(32, (bezelsOf (entryNum c.entry 24 2)).all fun z =>
          redCfgFits (redCfg (redCfgSet (BitVec.ofNat 64 (entryNum c.entry 32 8)) (bezelOf t z))))]) noBuf c s →
      (planRuns s = true → Completes (.redCfg k) s fun t => OnlyIn [.nutas] s t ∧ Completed k c stPlanRunning 0 0 s t) ∧
      (planRuns s = false → Completes (.redCfg k) s fun t => OnlyIn [.nutas, .bezels] s t ∧ Completed k c stOk 0 0 s t ∧
        ∀ z, bezelOf t z = if z ∈ zs then redCfgSet (BitVec.ofNat 64 (entryNum c.entry 32 8)) (bezelOf s z)
          else bezelOf s z)) ∧
    (Served k 0x61 (bytesMask 24 4 ++ [(28, 1)])
        (fun c _ => [(24, decide (16 ≤ entryNum c.entry 24 4) && decide (entryNum c.entry 24 4 ≤ 65536))]) noBuf c s →
      Completes (.ledgerCtl k) s fun t => WaitsAs k (.config k false) s t ∧ t.ledger = { s.ledger with
        newDepth := some (BitVec.ofNat 17 (entryNum c.entry 24 4), bitOf (entryByte c.entry 28) 0) }) ∧
    (LooksAt k 0x70 (bufMaskAll ++ bytesMask 32 6 ++ bytesMask 40 8) cntChecks (fun _ => some (8 * blkCount)) c s →
      b.loc = 1 → hostReach s = true →
      ∀ i < 18960, i / 32 < buf.length / 32 ∨ 18960 ≤ buf.length → codeAssigned (i / 8) (nth (0 : Byte) buf i).toNat = false →
        (∀ j < i, codeAssigned (j / 8) (nth (0 : Byte) buf j).toNat = true) →
        Completes (.cntConfig k buf) s fun t => OnlyIn [.nutas] s t ∧ Completed k c stBadField (BitVec.ofNat 64 i) 0 s t) ∧
    (ServedWith k 0x70 (bufMaskAll ++ bytesMask 32 6 ++ bytesMask 40 8) cntChecks (fun _ => some (8 * blkCount))
        (fun c t => codesForm (bufRead t (bufOf c.entry) (8 * blkCount) buf)) c s →
      b.loc = 1 → hostReach s = true →
      (buf.length < 18960 → Completes (.cntConfig k buf) s fun t => OnlyIn [.nutas] s t ∧
        Completed k c stMemFault 0 (BitVec.ofNat 64 (buf.length / 32 * 32)) s t) ∧
      (18960 ≤ buf.length →
        Completes (.cntConfig k buf) s fun t => OnlyIn [.nutas, .asy] s t ∧ WaitsAs k (.config k true) s t ∧
          ∃ f, t.asy = { s.asy with conf := some f } ∧ f.num = k ∧ f.base = entryNum c.entry 32 6 ∧
            f.size = entryNum c.entry 40 4 ∧ f.period = entryNum c.entry 44 4 ∧
            ∀ i < 18960, tblGet 0 f.codes i = nth 0 buf i)) ∧
    (Served k 0x71 bufMaskAll noChecks (fun _ => some recordLen) c s →
      Completes (.cntSnap k) s fun t => OnlyIn [.nutas] s t ∧ WaitsAs k (.snap k b.addr b.loc) s t)

/-- Firmware and spares (R619, R620, R638, R716 to R720, R745, R764 to R768): an image that verifies and is not too
old is staged in the slot that does not run, the handover waits for its tick, and the new image that reports ready
in time runs from its slot; one that does not is given up. A substitution waits for a boundary, and a retest sets
the spare's state. Where the spec leaves a point open the model's choice is meant: log entries 19, 20, 68, 74, 75. -/
def Obligations.FirmwareAndSparesAreHandedOver : Prop :=
  ∀ (s : State) (k : Nat) (c : Cmd),
    let b := bufOf c.entry
    let other := !runSlot s.standby
    (∀ buf : List Byte, Served k 0x90 bufMaskAll noChecks (fun c => some (bufOf c.entry).len) c s → b.loc = 1 →
      hostReach s = true → b.len ≤ buf.length →
      let l := buf.take b.len
      let good := headOk l = true ∧ stage1Ok s l = true ∧ stage2Ok s l = true
      (¬ good → Completes (.fwStage k buf) s fun t => OnlyIn [.nutas] s t ∧ Completed k c stBadSignature 0 0 s t ∧
        t.nutas.stagedBy = s.nutas.stagedBy) ∧
      (good → svnOk s l = false → Completes (.fwStage k buf) s fun t => OnlyIn [.nutas] s t ∧
        Completed k c stRollback 0 0 s t ∧ t.nutas.stagedBy = s.nutas.stagedBy) ∧
      (good → svnOk s l = true → Completes (.fwStage k buf) s fun t => OnlyIn [.nutas, .standby] s t ∧
        Completed k c stOk (BitVec.ofNat 64 (headOf l).version) 0 s t ∧
        t.standby = setSlot other (l.take (imageEnd (headOf l))) s.standby ∧
        t.nutas.stagedBy = some (mbxMaster c.mbx.val))) ∧
    (Served k 0x91 [] noChecks noBuf c s →
      let staged := slotImage s.standby other ≠ [] ∧ s.nutas.stagedBy = some (mbxMaster c.mbx.val)
      (¬ staged → Completes (.fwActivate k) s fun t => OnlyIn [.nutas] s t ∧ Completed k c stNoStaged 0 0 s t) ∧
      (staged → Completes (.fwActivate k) s fun t => OnlyIn [.nutas] s t ∧ t.nutas.handover = .waiting k none ∧
        t.nutas.ready = s.nutas.ready)) ∧
    (∀ since, s.nutas.handover = .waiting k (some since) → s.standby.mainUp = true → handoverFits s = true →
      exec .handoverTickStart s = .next { s with nutas := { s.nutas with handover := .inTick k } }) ∧
    (∀ since, s.nutas.handover = .waiting k (some since) → s.standby.mainUp = true →
      since + 65536 ≤ s.clock.tick.toNat → (s.nutas.cmds.find? fun x => x.num == k) = some c →
      (mbxOf s c.mbx.val).rst = false →
      Completes .fwActivateTimeout s fun t => OnlyIn [.nutas] s t ∧ t.nutas.handover = .none ∧
        Completed k c stPlanRunning 0 0 s t) ∧
    (s.nutas.handover = .inTick k → s.standby.mainUp = true →
      (12288 < s.clock.ck →
        exec .handoverReadyTimeout s = .next { s with nutas := { s.nutas with handover := .failed k } }) ∧
      (s.clock.ck ≤ 12288 → (s.nutas.cmds.find? fun x => x.num == k) = some c → (mbxOf s c.mbx.val).rst = false →
        let h := headOf (slotImage s.standby other)
        let version := (BitVec.ofNat 32 h.version).setWidth 64
        Completes .handoverReady s fun t => OnlyIn [.nutas, .standby, .sec] s t ∧ t.standby.slot = other ∧
          t.standby.bootSlot = other ∧ t.standby.imgA = s.standby.imgA ∧ t.standby.imgB = s.standby.imgB ∧
          t.nutas.handover = .none ∧ t.nutas.stagedBy = none ∧
          Completed k c stOk version (s.clock.tick.setWidth 64) s t ∧ t.sec.version = BitVec.ofNat 32 h.version ∧
          t.standby.rollback =
            if h.commit = true ∧ s.standby.rollback < h.svn then h.svn else s.standby.rollback)) ∧
    (Served k 0xA0 [(24, 0xFF), (25, 0xFF), (26, 0xFF)]
        (fun c t => stringChecks c t ++ [(26, decide (entryByte c.entry 26 < 9))]) noBuf c s →
      let p := namedPos c
      let named := p % 9 ≠ 8 ∧ posState s p ≠ 7 ∧ posState s p ≠ 5
      (¬ named → Completes (.subst k) s fun t => Completed k c stInvalidTarget 0 0 s t ∧ Recorded 0x17 blkLocket s t) ∧
      (named → posState s (spareOf p) ≠ 2 → Completes (.subst k) s fun t => OnlyIn [.nutas] s t ∧
        Completed k c stNoSpare 0 0 s t) ∧
      (named → posState s (spareOf p) = 2 → Completes (.subst k) s fun t => OnlyIn [.nutas, .clock] s t ∧
        WaitsAs k (.subst k p) s t ∧
        t.clock = if s.clock.mode = .scheduled then { s.clock with forceSubst := true } else s.clock)) ∧
    (∀ pass : Bool, Served k 0xA1 [(24, 0xFF), (25, 0xFF), (26, 0xFF)] stringChecks noBuf c s →
      let sp := entryByte c.entry 24 * 144 + entryByte c.entry 25 * 9 + 8
      (posState s sp = 2 ∨ posState s sp = 6 → stringBusy s sp = false →
        Completes (.spareTest k pass) s fun t => OnlyIn [.nutas] s t ∧ posState t sp = (if pass = true then 2 else 6) ∧
          (∀ p, p ≠ sp → posState t p = posState s p) ∧
          Completed k c stOk (if pass = true then 2 else 6) 0 s t) ∧
      (posState s sp = 7 → Completes (.spareTest k pass) s fun t => Completed k c stInvalidTarget 0 0 s t ∧
        Recorded 0x17 blkLocket s t) ∧
      (posState s sp ≠ 2 → posState s sp ≠ 6 → posState s sp ≠ 7 →
        Completes (.spareTest k pass) s fun t => OnlyIn [.nutas] s t ∧ Completed k c stNoSpare 0 0 s t))

/-! ### The host link -/

/-- Requests of the host and its answers to back-invalidates (R557, R560, R562, R563, R566, R568, R572, R573, R575): a read
or a write enters the mesh from the CXL node, a partial write as one part for each granule that it reaches, poison is counted,
reported and recorded, a line that the host gives up leaves the record of its bezel, the answer to a BISnpInv lets the write that
waited for it be served, one that does not come in time is recorded and waited for no longer, and a board-tier request ends with
its data or the class of its failure. Where the spec leaves a point open the model's choice is meant: log entries 44, 45, 105. -/
def Obligations.HostRequestsAndAnswersAreServed : Prop :=
  (∀ (s : State) (hpa a : Nat), hostMem s hpa = some a →
    let key := nodeCxl * 16 + 2
    let tag := s.host.nextTag
    let sent (x : Nat) (n : BitVec 10) (m : Msg) : Msg := { m with
      dst := node ((placeNode (placeOf s.mem.splitNow.toNat x)).getD 0), src := node nodeCxl, addr := BitVec.ofNat 48 x
      tag := n, stream := 2 }
    let queued (l : List Msg) (t : State) : Prop := tblGet [] t.fabric.inj key = tblGet [] s.fabric.inj key ++ l ∧
      ∀ n, n ≠ key → tblGet [] t.fabric.inj n = tblGet [] s.fabric.inj n
    Completes (.memRd hpa) s (fun t => t.host = { s.host with nextTag := tag + 1 } ∧ t.out = s.out ∧
      queued [sent a tag { msg0 with op := opRead, aux0 := 2 }] t) ∧
    (∀ data, Completes (.memWr hpa data false) s fun t => t.host = { s.host with nextTag := tag + 1 } ∧ t.out = s.out ∧
      t.faults = s.faults ∧ queued [sent a tag { msg0 with
        op := opWrite, len := 2, data := [encodeGran (data.setWidth 256), encodeGran ((data >>> 256).setWidth 256)] }] t) ∧
    (∀ data, Completes (.memWr hpa data true) s fun t => t.host = { s.host with
        nextTag := tag + 1, poisonRx := satInc s.host.poisonRx, aerNonfatal := true } ∧ t.out = s.out ++ [.aer .nonfatal] ∧
      queued [sent a tag { msg0 with op := opWrite, len := 2, data := [poisonCode, poisonCode] }] t ∧
      Recorded 0x14 blkCxl s t ∧ Raised 0 129 s t) ∧
    (∀ (be : BitVec 64) (line : HostLine),
      let h : HostLink := if line.poison = true then { s.host with poisonRx := satInc s.host.poisonRx, aerNonfatal := true }
        else s.host
      let told : List OutMsg := if line.poison = true then [.aer .nonfatal] else []
      let part (i : Nat) (n : BitVec 10) := sent (a + 32 * i) n { msg0 with
        op := opPart, len := 1, aux0 := (be >>> (32 * i)).setWidth 32
        data := [if line.poison = true then poisonCode else encodeGran ((line.data >>> (256 * i)).setWidth 256)] }
      let lo := be.toNat % 2 ^ 32
      let hi := be.toNat / 2 ^ 32
      (be = 0 → Completes (.memWrPtl hpa be line) s fun t => t.host = h ∧ queued [] t ∧ t.out = s.out ++ told ++ [.memDone a]) ∧
      (lo ≠ 0 → hi = 0 → Completes (.memWrPtl hpa be line) s fun t => t.host = { h with nextTag := tag + 1 } ∧
        queued [part 0 tag] t ∧ t.out = s.out ++ told) ∧
      (lo = 0 → hi ≠ 0 → Completes (.memWrPtl hpa be line) s fun t => t.host = { h with nextTag := tag + 1 } ∧
        queued [part 1 tag] t ∧ t.out = s.out ++ told) ∧
      (lo ≠ 0 → hi ≠ 0 → Completes (.memWrPtl hpa be line) s fun t => queued [part 0 tag, part 1 (tag + 1)] t ∧
        t.host = { h with nextTag := tag + 2, halves := h.halves ++ [(tag, tag + 1)] } ∧ t.out = s.out ++ told ∧
        (line.poison = true → Recorded 0x14 blkCxl s t ∧ Raised 0 129 s t) ∧ (line.poison = false → t.faults = s.faults))) ∧
    (∀ z l, placeOf s.mem.splitNow.toNat a = .stack z l →
      Completes (.memInv hpa) s fun t => OtherBezels z s t ∧ bezelOf t z = { bezelOf s z with
        lines := (bezelOf s z).lines.filter fun x => x != l / 64 }) ∧
    exec (.memSpecRd hpa) s = .next s) ∧
  (∀ (s : State) (b : BezelN) (line : Nat), s.standby.mainUp = true →
    let q := bezelOf s b.val
    let free := { q with lines := q.lines.filter fun x => x != line, snoops := q.snoops.filter fun p => p.1 != line }
    (snooping s b.val line = false →
      Completes (.biRsp b line) s fun t => t.bezels = s.bezels ∧ t.mem = s.mem ∧ t.faults = s.faults ∧ t.fabric = s.fabric) ∧
    (snooping s b.val line = true → (∀ r ∈ q.sorter, r.held = false) →
      Completes (.biRsp b line) s fun t => OtherBezels b.val s t ∧ bezelOf t b.val = free ∧ t.mem = s.mem ∧
        t.faults = s.faults) ∧
    (∀ c ∈ q.snoops, c.1 = line → c.2 + 65536 ≤ absCk s → (∀ r ∈ q.sorter, r.held = false) →
      Completes (.backInvalidateTimeout b line) s fun t => OtherBezels b.val s t ∧ bezelOf t b.val = free ∧
        t.mem = s.mem ∧ t.host = { s.host with biTmo := satInc s.host.biTmo } ∧ Recorded 0x14 blkCxl s t ∧
        Raised 0 129 s t) ∧
    (∀ r l, snooping s b.val line = true → q.sorter = [r] → r.held = true →
      blockedLines (snoopOver b.val line s) b.val r.msg = [] → s.mem.wf →
      r.msg.op = opWrite → r.msg.len = 1 → localOf s b.val r.msg.addr.toNat = some l → inIntake q l = false →
      Completes (.biRsp b line) s fun t => OtherBezels b.val s t ∧ (bezelOf t b.val).sorter = [] ∧
        (bezelOf t b.val).lines = free.lines ∧ stackCode t b.val l = passOn (nth poisonCode r.msg.data 0))) ∧
  ∀ (s : State) (u : Uio) (j : UioJob), s.standby.mainUp = true →
    (s.host.uio.find? fun x => x.id == u.id) = some u → (s.host.jobs.find? fun x => x.num == u.job) = some j →
    let gone (h : HostLink) : HostLink := { h with
      uio := dropFirst (fun x => x.id == u.id) s.host.uio, jobs := dropFirst (fun x => x.num == j.num) s.host.jobs }
    j.left = 1 → j.pm = 0 → j.cls = 0 → j.got = [] → u.first = 0 → j.msg.op = opRead → isCopy j.msg = false →
    u.n = reqLen j.msg → 1 ≤ u.n → u.n ≤ 8 → (∀ o, nodeKind s j.msg.src.val ≠ .bead o) →
    j.msg.dst.val = nodeCxl →
    let key := nodeCxl * 16 + 1
    let failed (cls : Nat) (t : State) : Prop := Recorded 0x02 blkCxl s t ∧
      tblGet [] t.fabric.inj key = tblGet [] s.fabric.inj key ++
        [readResp j.msg (List.replicate u.n poisonCode) (2 ^ u.n - 1) cls]
    (∀ data, Completes (.uioCompletion u.id .ok data) s fun t => t.host = gone s.host ∧ t.faults = s.faults ∧
      tblGet [] t.fabric.inj key = tblGet [] s.fabric.inj key ++
        [readResp j.msg ((List.range u.n).map fun i => encodeGran (nth 0 data i)) 0 0]) ∧
    (∀ data, Completes (.uioCompletion u.id .abort data) s fun t => t.host = gone s.host ∧ failed 3 t) ∧
    (∀ data, Completes (.uioCompletion u.id .unsupported data) s fun t => t.host = gone s.host ∧ failed 5 t) ∧
    (∀ data, s.faults.waiting.length < 255 → Completes (.uioCompletion u.id .poisoned data) s fun t =>
      t.host = gone { s.host with poisonRx := satInc s.host.poisonRx, aerNonfatal := true } ∧ failed 2 t ∧
        Recorded 0x14 blkCxl s t ∧ Raised 0 129 s t ∧ OutMsg.aer .nonfatal ∈ t.out) ∧
    (u.since.toNat + max 1 s.host.uioTmo.toNat ≤ s.clock.tick.toNat → s.faults.waiting.length < 255 →
      Completes (.uioTimeout u.id) s fun t =>
        t.host = gone { s.host with uncorr := satInc s.host.uncorr, aerNonfatal := true } ∧ failed 6 t ∧
        Recorded 0x14 blkCxl s t ∧ Raised 0 129 s t ∧ OutMsg.aer .nonfatal ∈ t.out)

/-- The link itself (R550, R551, R553 to R556, R569, R571, R574 to R578, R654): it trains and falls, its errors are counted,
recorded, raised and reported by the message of their class, a lane whose turn has come is calibrated with the other half in use,
capabilities take their values and read back, and a message held by a mask leaves when it is unmasked. Where the spec leaves a
point open the model's choice is meant: log entries 15, 21, 25, 44, 89, 105. -/
def Obligations.HostLinkEventsTakeEffect : Prop :=
  ∀ s : State, s.standby.mainUp = true →
    (∀ at64 : Bool, s.host.link = 1 → exec (.hostLinkUp at64) s = .next { s with host := { s.host with
      link := 2, speed := if at64 = true then 2 else 1, width := 16 } }) ∧
    (s.host.link = 2 →
      (∀ c ∈ ([.hostLinkDown, .hostLinkError .fatal] : List Instr),
        Completes c s fun t => t.host.link = 1 ∧ t.host.speed = 0 ∧ t.host.width = 0 ∧ t.host.uio = [] ∧
          t.host.cache = [] ∧ t.host.halves = [] ∧ t.host.linkDown = satInc s.host.linkDown ∧ t.host.aerFatal = true ∧
          OutMsg.aer .fatal ∈ t.out ∧ (s.faults.waiting.length < 256 → Recorded 0x14 blkCxl s t) ∧ Raised 0 129 s t ∧
          (∀ z < 16, (∀ r ∈ (bezelOf s z).sorter, r.held = false) →
            (bezelOf t z).lines = [] ∧ (bezelOf t z).snoops = []) ∧
          (∀ p ∈ t.fabric.inj, ∀ m ∈ p.2, isHostReq m = false) ∧
          (∀ p ∈ t.fabric.flights, ∀ f ∈ p.2, isHostReq f.msg = false) ∧
          ∀ p ∈ t.fabric.arrivals, ∀ m ∈ p.2, isHostReq m = false) ∧
      exec (.hostLinkError .corrected) s = .next { s with
        host := { s.host with corr := satInc s.host.corr, aerCorr := true }, out := s.out ++ [.aer .correctable] } ∧
      (∀ x ∈ ([(.poisonRx, { s.host with poisonRx := satInc s.host.poisonRx, aerNonfatal := true }, [.aer .nonfatal]),
          (.uioTimeout, { s.host with uncorr := satInc s.host.uncorr, aerNonfatal := true }, [.aer .nonfatal]),
          (.unsupported, { s.host with uncorr := satInc s.host.uncorr, aerNonfatal := true }, [.aer .nonfatal, .unsupported]),
          (.biTimeout, { s.host with biTmo := satInc s.host.biTmo }, [])] : List (LinkError × HostLink × List OutMsg)),
        Completes (.hostLinkError x.1) s fun t => OnlyIn [.host, .ledger, .faults, .hub, .out] s t ∧ t.host = x.2.1 ∧
          t.out = s.out ++ x.2.2 ∧ Recorded 0x14 blkCxl s t ∧ Raised 0 129 s t) ∧
      (∀ off, Completes (.hostLinkError (.badRead off)) s fun t => OnlyIn [.ledger, .faults, .out] s t ∧
        t.out = s.out ++ [.abort] ∧ Recorded 0x14 blkCxl s t) ∧
      (∀ lane : Fin 16, handing s = false → s.host.calAuto = true → s.host.cal = false → laneDue s lane.val = true →
        let upper := decide (lane.val < 8)
        let turn : HostLink := { s.host with
          calNext := BitVec.ofNat 4 (lane.val + 1), calTick := tblSet 0 s.host.calTick lane.val (s.clock.tick.toNat + 1) }
        exec (.hostLaneCalibration lane true) s = .next { s with
          out := s.out ++ [.l0p true upper]
          host := { turn with width := 8, l0p := true, cal := true, calLane := BitVec.ofNat 4 lane.val } } ∧
        Completes (.hostLaneCalibration lane false) s fun t => t.host = turn ∧ t.out = s.out ++ [.l0p true upper] ∧
          Recorded 0x14 blkCxl s t) ∧
      (s.host.cal = true → exec .hostCalibrationDone s = .next { s with
        out := s.out ++ [.l0p false (decide (s.host.calLane.toNat < 8))]
        host := { s.host with width := 16, l0p := false, cal := false } }) ∧
      (∀ line, exec (.h2dSnoop line) s = .next { s with
        out := s.out ++ [.snoop line (s.host.cache.contains line)]
        host := { s.host with cache := s.host.cache.filter fun x => x != line } }) ∧
      (∀ hpa, Completes (.uioRequestToModule hpa) s fun t => t.out = s.out ++ [.aer .nonfatal, .unsupported] ∧
        t.fabric = s.fabric ∧ t.host = { s.host with uncorr := satInc s.host.uncorr, aerNonfatal := true } ∧
        Recorded 0x14 blkCxl s t ∧ Raised 0 129 s t) ∧
      (∀ v : Fin 32, Completes (.msixUnmask v) s fun t =>
        t.hub.vmask = s.hub.vmask &&& ~~~ BitVec.ofNat 32 (2 ^ v.val) ∧ t.hub.pend = s.hub.pend ∧
        (s.hub.fmask = true ∨ s.hub.pba.getLsbD v.val = false → t.out = s.out ∧ t.hub.pba = s.hub.pba) ∧
        (s.hub.fmask = false → s.hub.pba.getLsbD v.val = true → t.hub.pba.getLsbD v.val = false ∧
          t.out = if s.hub.line.getLsbD (v.val + 4) = true ∧ s.hub.msixEn = true ∧ s.hub.busMaster = true then
            s.out ++ [.msix v.val (tblGet 0 s.hub.msixAddr v.val) (tblGet 0 s.hub.msixData v.val)] else s.out)) ∧
      (∀ v : Bool,
        exec (.capabilityWrite (.cacheEnable v)) s = .next { s with host := { s.host with cacheEn := v } } ∧
        exec (.capabilityWrite (.memEnable v)) s = .next { s with host := { s.host with memEn := v } } ∧
        exec (.capabilityWrite (.uioEnable v)) s = .next { s with host := { s.host with uioEn := v } } ∧
        exec (.capabilityWrite .unsupported) s = .next s ∧
        exec (.capabilityWrite .clearAer) s = .next { s with host := { s.host with
          aerCorr := false, aerNonfatal := false, aerFatal := false } } ∧
        Completes (.capabilityWrite (.msixEnable v)) s (fun t => t.hub.msixEn = v ∧ (v = false → t.hub.pba = 0)) ∧
        Completes (.capabilityWrite (.busMaster v)) s (fun t => t.hub.busMaster = v ∧ (v = false → t.hub.pba = 0)) ∧
        Completes (.capabilityWrite (.functionMask v)) s fun t => t.hub.fmask = v ∧
          (v = false → ∀ k < 32, s.hub.vmask.getLsbD k = false → t.hub.pba.getLsbD k = false)) ∧
      (∀ base size,
        (base % tib = 0 → size = 1 →
          exec (.capabilityWrite (.hdmCommit base size)) s = .next { s with host := { s.host with hdm := some base } }) ∧
        (base % tib ≠ 0 ∨ size ≠ 1 → exec (.capabilityWrite (.hdmCommit base size)) s = .next s)) ∧
      (∀ (v : Fin 32) (addr : Word) (data : Word32),
        Completes (.capabilityWrite (.vectorEntry v addr data)) s (fun t =>
          tblGet 0 t.hub.msixAddr v.val = addr ∧ tblGet 0 t.hub.msixData v.val = data ∧
          ∀ k, k ≠ v.val → tblGet 0 t.hub.msixAddr k = tblGet 0 s.hub.msixAddr k ∧
            tblGet 0 t.hub.msixData k = tblGet 0 s.hub.msixData k) ∧
        exec (.capabilityWrite (.readVector v)) s = .next { s with out := s.out ++ [.vector (tblGet 0 s.hub.msixAddr v.val)
          (tblGet 0 s.hub.msixData v.val) (s.hub.vmask.getLsbD v.val) (s.hub.pba.getLsbD v.val)] }) ∧
      exec (.capabilityWrite (.readHeader 0)) s = .next { s with out := s.out ++ [.config (BitVec.ofNat 32
        ((Config.identity 0).toNat + (Config.identity 1).toNat * 256 + 0x4D39 * 65536))] } ∧
      exec (.capabilityWrite (.readHeader 2)) s = .next { s with out := s.out ++ [.config (BitVec.ofNat 32
        ((Config.identity 2).toNat + 0x120000 * 256))] } ∧
      (∀ i ∈ ([8, 9, 12] : List (Fin 16)),
        exec (.capabilityWrite (.readHeader i)) s = .next { s with out := s.out ++ [.config 0] }) ∧
      ∀ v : Fin 32, exec (.capabilityWrite (.vectorMask v)) s =
        .next { s with hub := { s.hub with vmask := s.hub.vmask ||| BitVec.ofNat 32 (2 ^ v.val) } })

/-! ### The management port -/

/-- The management lane (R623 to R626, R628, R629): an intact DATA frame in order is acknowledged and its packet taken, any
other is answered with a NAK; an acknowledgement frees frames, a NAK or a timeout resends those that are left, and the sixteenth
resend of one brings the lane down; every frame that leaves names the last DATA frame received in order; the lane comes up and goes down; events and completions leave as messages, and MCTP
control requests are answered. Where the spec leaves a point open the model's choice is meant: log entries 21, 69,
70. -/
def Obligations.ManagementLaneCarriesMessages : Prop :=
  ∀ s : State, s.standby.standby = true →
    let m := s.mgmt
    let acked (f : MgmtFrame) := ackedBy m.unacked f.ackSeq
    let again (l : List MgmtSent) := s.out ++ l.map fun x => OutMsg.mgmt (mgmtFrame 1 x.seq m.rxLast x.pkt.bytes)
    let more (l : List MgmtSent) := l.map fun x => { x with resends := x.resends + 1 }
    (m.up = true →
      (∀ f : MgmtFrame, f.payload.length ≤ 1024 →
        (f.typ = 1 → (frameOk f = false ∨ f.seq ≠ m.rxLast + 1) →
          exec (.mgmtDataFrame f) s = .next { s with out := s.out ++ [.mgmt (mgmtFrame 3 0 m.rxLast [])] }) ∧
        (∀ body : List Byte, ∀ src tag flags, f.typ = 1 → frameOk f = true → f.seq = m.rxLast + 1 → m.waiting = [] →
          f.payload = [0x01, m.eid, src, flags] ++ body → flags.toNat / 64 = 3 → flags.getLsbD 3 = true →
          flags.toNat % 8 = tag →
          let r : MgmtReq := { src := src, tag := BitVec.ofNat 3 tag, body := body }
          isControl r = true → ctlKnown (ctlCmd r) = true →
          Completes (.mgmtDataFrame f) s fun t => t.mgmt.msgs = m.msgs ++ [r] ∧ t.mgmt.rxLast = f.seq ∧
            t.mgmt.unacked = m.unacked.drop (acked f) ∧ t.out = s.out ++ [.mgmt (mgmtFrame 2 0 f.seq [])]) ∧
        (frameOk f = true → m.waiting = [] →
          let left := m.unacked.drop (acked f)
          (∀ x ∈ ([(.mgmtAckFrame f, 2), (.mgmtIdleFrame f, 0)] : List (Instr × BitVec 4)), f.typ = x.2 →
            Completes x.1 s fun t => t.out = s.out ∧ t.mgmt.unacked = left ∧ t.mgmt.msgs = m.msgs ∧ t.mgmt.up = true ∧
              t.mgmt.cplRing = m.cplRing.drop (countIf (fun x => x.pkt.cpl) (m.unacked.take (acked f)))) ∧
          (f.typ = 3 → (∀ x ∈ left, x.resends < 15) → Completes (.mgmtNakFrame f) s fun t => t.out = again left ∧
            t.mgmt.unacked = more left ∧ t.mgmt.up = true) ∧
          (f.typ = 3 → (∃ x ∈ left, 15 ≤ x.resends) → Completes (.mgmtNakFrame f) s fun t => t.out = again left ∧
            t.mgmt.unacked = more left ∧ t.mgmt.up = false)) ∧
        (∀ x ∈ ([(.mgmtAckFrame f, 2), (.mgmtNakFrame f, 3), (.mgmtIdleFrame f, 0)] : List (Instr × BitVec 4)),
          frameOk f = false ∨ f.typ ≠ x.2 → exec x.1 s = .next s) ∧
        (f.typ ≠ 1 → exec (.mgmtDataFrame f) s = .next s)) ∧
      (m.unacked ≠ [] →
        ((∀ x ∈ m.unacked, x.resends < 15) →
          exec .mgmtResendTimeout s = .next { s with out := again m.unacked, mgmt := { m with unacked := more m.unacked } }) ∧
        ((∃ x ∈ m.unacked, 15 ≤ x.resends) → exec .mgmtResendTimeout s =
          .next { s with out := again m.unacked, mgmt := { m with unacked := more m.unacked, up := false } })) ∧
      exec .mgmtIdleTimeout s = .next { s with out := s.out ++ [.mgmt (mgmtFrame 0 0 m.rxLast [])] } ∧
      exec .mgmtLaneDownTimeout s = .next { s with mgmt := { m with up := false } } ∧
      (∀ src, (claimValue s.hub 36).2 = some src → s.standby.mainUp = true → s.hub.line.getLsbD 36 = true → m.eid ≠ 0 →
        Completes .mgmtEventSend s fun t => MgmtSends m.boss true m.ownTag
            ([0x7F] ++ ianaBytes ++ [0x09, 0x80, 0, 0] ++ toBytes 4 src) false s t ∧
          (∀ i < 2048, t.hub.pend.getLsbD i =
            (s.hub.pend.getLsbD i && (decide (i ≠ src) || decide (tblGet 0 s.hub.fresh src ≠ 0)))) ∧
          t.hub.pendWas.getLsbD src = false ∧
          t.mgmt.ownTag = m.ownTag + 1) ∧
      (m.cplSent < m.cplRing.length → m.eid ≠ 0 →
        Completes .mbxCpl s fun t => MgmtSends m.boss true m.ownTag
            ([0x7F] ++ ianaBytes ++ [0x02, 0x80, 0, 0] ++ nth [] m.cplRing m.cplSent) true s t ∧
          t.mgmt.cplSent = m.cplSent + 1 ∧ t.mgmt.cplRing = m.cplRing)) ∧
    (m.up = false → m.waiting = [] → Completes .mgmtLaneUp s fun t => t.mgmt.up = true ∧ t.out = again m.unacked ∧
      t.mgmt.unacked = m.unacked.map fun x => { x with resends := 0 }) ∧
    ∀ r rest, m.msgs = r :: rest → isControl r = true →
      (ctlCmd r = 0x01 →
        let id := BitVec.ofNat 8 (msgByte r 4)
        Completes .setEndpointId s fun t => t.mgmt.msgs = rest ∧
          if msgByte r 3 % 4 ≤ 1 ∧ id ≠ 0 ∧ id ≠ 255 ∧ 5 ≤ r.body.length then
            t.mgmt.eid = id ∧ t.mgmt.boss = r.src ∧ CtlAnswers r 0x00 [0x00, id, 0x00] s t
          else t.mgmt.eid = m.eid ∧ CtlAnswers r 0x02 [] s t) ∧
      (ctlCmd r = 0x02 → Completes .getEndpointId s fun t => t.mgmt.msgs = rest ∧ CtlAnswers r 0x00 [m.eid, 0x00, 0x00] s t) ∧
      (ctlCmd r = 0x04 → Completes .getMctpVersionSupport s fun t => t.mgmt.msgs = rest ∧
        if msgByte r 3 ∈ [0xFF, 0x00, 0x7F] then CtlAnswers r 0x00 ([0x01] ++ versionBytes) s t
        else CtlAnswers r 0x80 [] s t) ∧
      (ctlCmd r = 0x05 → Completes .getMessageTypeSupport s fun t => t.mgmt.msgs = rest ∧
        CtlAnswers r 0x00 [0x02, 0x00, 0x7F] s t) ∧
      (ctlCmd r = 0x06 → msgByte r 3 = 0 → Completes .getVendorDefinedMsgSupport s fun t => t.mgmt.msgs = rest ∧
        CtlAnswers r 0x00 ([0xFF, 0x01] ++ ianaBytes ++ [0x00, 0x00]) s t)

/-- The operations of the management port (R621, R627, R628, R630 to R633, R635 to R638, R770 to R772): mailbox 8,
registers, the staging area, power, ownership and attestation, each with its answer. Where the spec leaves a point
open the model's choice is meant: log entries 20, 71, 73. -/
def Obligations.ManagementOperationsAnswer : Prop :=
  ∀ (s : State) (r : MgmtReq) (rest : List MgmtReq), s.mgmt.msgs = r :: rest → s.standby.standby = true →
    isThaset r = true →
    let n := (msgBody r).length
    let off := bodyNum r 0 4
    let q := mbxOf s 8
    (msgOpc r = 0x01 →
      (64 ≤ n → posted s 8 < 15 → Completes .mbxPost s fun t => t.mgmt.msgs = rest ∧ OtherMbxs 8 s t ∧
        mbxOf t 8 = { q with tail := (q.tail + 1) % 16 } ∧
        tblGet 0 t.mgmt.ring q.tail = BitVec.ofNat 512 (bodyNum r 0 64) ∧ ThAnswers r 0x00 (toBytes 2 q.head) s t) ∧
      (64 ≤ n → 15 ≤ posted s 8 → Completes .mbxPost s fun t => t.mbxs = s.mbxs ∧ t.mgmt.ring = s.mgmt.ring ∧
        ThAnswers r 0x03 [] s t)) ∧
    (msgOpc r = 0x03 →
      (accessWidth off (reqByte r 4) = none → Completes .regRead s fun t => OnlyIn [.mgmt, .out] s t ∧
        ThAnswers r 0x02 [] s t) ∧
      (∀ w, accessWidth off (reqByte r 4) = some w →
        (answers s off = false → Completes .regRead s fun t => OnlyIn [.mgmt, .out] s t ∧ ThAnswers r 0x04 [] s t) ∧
        (answers s off = true → Completes .regRead s fun t => t.mgmt.msgs = rest ∧
          ThAnswers r 0x00 (toBytes (reqByte r 4) (rdWidth w (regValue s (off / 8 * 8))).toNat) s t))) ∧
    (msgOpc r = 0x04 →
      (∀ w, accessWidth off (reqByte r 4) = some w → s.standby.mainUp = true → regAssigned (off / 8 * 8) = true →
        mayWriteBits s .mgmt (off / 8 * 8) w (BitVec.ofNat 64 (bodyNum r 5 (reqByte r 4))) = false →
        Completes .regWrite s fun t => OnlyIn [.mgmt, .out, .faults, .ledger] s t ∧ Recorded 0x16 blkLocket s t ∧
          ThAnswers r 0x05 [] s t) ∧
      (off = 0x060000 → reqByte r 4 = 8 → s.standby.mainUp = true →
        Completes .regWrite s fun t => OnlyIn [.mgmt, .out, .clasps] s t ∧
          t.clasps = { s.clasps with sel := BitVec.ofNat 24 (bodyNum r 5 8) } ∧ ThAnswers r 0x00 [] s t)) ∧
    (msgOpc r = 0x05 →
      let l := (msgBody r).drop 4
      (1 ≤ l.length → l.length ≤ 4096 → off + l.length ≤ 33554432 → stageBusy s off l.length = false →
        Completes .stageWrite s fun t => t.mgmt.msgs = rest ∧
          (∀ i < l.length, tblGet 0 t.mgmt.stage (off + i) = nth 0 l i) ∧
          (∀ a, (a < off ∨ off + l.length ≤ a) → tblGet 0 t.mgmt.stage a = tblGet 0 s.mgmt.stage a) ∧
          ThAnswers r 0x00 [] s t) ∧
      (1 ≤ l.length → l.length ≤ 4096 → off + l.length ≤ 33554432 → stageBusy s off l.length = true →
        Completes .stageWrite s fun t => t.mgmt.stage = s.mgmt.stage ∧ ThAnswers r 0x06 [] s t)) ∧
    (msgOpc r = 0x06 →
      let len := bodyNum r 4 2
      1 ≤ len → len ≤ 4096 → off + len ≤ 33554432 →
      Completes .stageRead s fun t => t.mgmt.stage = s.mgmt.stage ∧
        ThAnswers r 0x00 ((List.range len).map fun i => tblGet 0 s.mgmt.stage (off + i)) s t) ∧
    (msgOpc r = 0x07 → reqByte r 0 < 8 →
      let force := (reqByte r 0) / 4 = 1
      (powerAction r = 0 → Completes .powerOn s fun t => t.standby = { s.standby with holdOff := false, cycling := false } ∧
        ThAnswers r 0x00 (toBytes 8 (mgtPwr t.standby).toNat) s t) ∧
      (∀ x ∈ ([(.powerOff, 1, false), (.powerCycle, 2, true)] : List (Instr × Nat × Bool)), powerAction r = x.2.1 →
        (s.standby.owner = false → s.standby.mainUp = true → ¬ force →
          Completes x.1 s fun t => t.standby = s.standby ∧ t.beads = s.beads ∧ ThAnswers r 0x05 [] s t) ∧
        (s.standby.owner = true ∨ s.standby.mainUp = false ∨ force → s.standby.takeReq = none →
          Completes x.1 s fun t => t.standby.holdOff = true ∧ t.standby.cycling = x.2.2 ∧ t.standby.phase = 0 ∧
            (s.standby.phase ≠ 0 → RampedDown true s t) ∧ ThAnswers r 0x00 (toBytes 8 (mgtPwr t.standby).toNat) s t))) ∧
    (msgOpc r = 0x08 → reqByte r 0 < 4 → bodyNum r 1 3 = 0 → s.standby.mainUp = true →
      let grace := bodyNum r 4 3
      (reqByte r 0 % 2 = 0 → grace ≠ 0 →
        (s.standby.owner = true → Completes .takeoverRequest s fun t => t.standby = s.standby ∧
          ThAnswers r 0x00 (toBytes 8 (mgtOwn s.standby).toNat) s t) ∧
        (s.standby.owner = false → s.standby.pending = true → Completes .takeoverRequest s fun t =>
          t.standby = s.standby ∧ ThAnswers r 0x06 [] s t) ∧
        (s.standby.owner = false → s.standby.pending = false → Completes .takeoverRequest s fun t =>
          t.standby = { s.standby with
            pending := true, granted := false, force := decide (reqByte r 0 / 2 = 1), graceLeft := BitVec.ofNat 24 grace
            takeReq := some r } ∧
          Raised 0 130 s t ∧ t.out = s.out)) ∧
      (reqByte r 0 % 2 = 1 → Completes .takeoverRelease s fun t =>
        t.standby = { s.standby with release := s.standby.release || s.standby.owner } ∧
        ThAnswers r 0x00 (toBytes 8 (mgtOwn t.standby).toNat) s t)) ∧
    (msgOpc r = 0x0A → s.standby.mainUp = true →
      (reqByte r 0 = 0 → n = 68 → bodyNum r 1 3 = 0 →
        let id := s.sec.repId + 1
        let report := reportBytes id (((msgBody r).drop 4).take 64) s
        Completes .attestMake s fun t => t.sec = { s.sec with repId := id, report := report ++ reportBlock report s } ∧
          t.free = s.free + 1 ∧
          ThAnswers r 0x00 (toBytes 4 id.toNat ++ toBytes 4 7936) s t) ∧
      (reqByte r 0 = 1 →
        (fetchBad s r = true → Completes .attestFetch s fun t => OnlyIn [.mgmt, .out] s t ∧ ThAnswers r 0x02 [] s t) ∧
        (fetchBad s r = false → Completes .attestFetch s fun t => OnlyIn [.mgmt, .out] s t ∧
          ThAnswers r 0x00 (cut (fetchFrom s (reqByte r 14)) (bodyNum r 8 4) (bodyNum r 12 2)) s t)))
end

