-- ==== Sys2Proof/Laws/Table.lean ====
section
/-! SUPPORT. Sparse tables: what a read gives after a write, and that writes keep the canonical form. -/

namespace Sys2Proof.Laws

open Sys2Proof.Machine

variable {α : Type}

/-- Keys strictly rising. -/
def Rising (t : Tbl α) : Prop := t.Pairwise fun a b => a.1 < b.1

theorem rising_cons {k : Nat} {v : α} {r : Tbl α} : Rising ((k, v) :: r) ↔ (∀ p ∈ r, k < p.1) ∧ Rising r := by
  simp [Rising, List.pairwise_cons]

theorem tblWf_iff [DecidableEq α] (d : α) (t : Tbl α) :
    tblWf d t = true ↔ Rising t ∧ ∀ p ∈ t, p.2 ≠ d := by
  induction t with
  | nil => simp [tblWf, Rising]
  | cons p r ih =>
    obtain ⟨k, v⟩ := p
    simp only [tblWf, Bool.and_eq_true, decide_eq_true_eq, List.all_eq_true, ih, rising_cons]
    simp only [List.mem_cons, forall_eq_or_imp]
    tauto

theorem mem_tblPut {t : Tbl α} {k : Nat} {v : α} {p : Nat × α} (h : p ∈ tblPut t k v) : p = (k, v) ∨ p ∈ t := by
  induction t with
  | nil => simpa [tblPut] using h
  | cons q r ih =>
    obtain ⟨k', v'⟩ := q
    simp only [tblPut] at h
    split at h
    · simpa using h
    · split at h
      · rcases List.mem_cons.1 h with h | h
        · exact .inl h
        · exact .inr (List.mem_cons_of_mem _ h)
      · rcases List.mem_cons.1 h with h | h
        · exact .inr (by simp [h])
        · rcases ih h with h | h
          · exact .inl h
          · exact .inr (List.mem_cons_of_mem _ h)

theorem mem_tblDel {t : Tbl α} {k : Nat} {p : Nat × α} (h : p ∈ tblDel t k) : p ∈ t := by
  induction t with
  | nil => simp [tblDel] at h
  | cons q r ih =>
    obtain ⟨k', v'⟩ := q
    simp only [tblDel] at h
    split at h
    · exact List.mem_cons_of_mem _ (ih h)
    · rcases List.mem_cons.1 h with h | h
      · simp [h]
      · exact List.mem_cons_of_mem _ (ih h)

theorem rising_tblPut {t : Tbl α} (k : Nat) (v : α) (h : Rising t) : Rising (tblPut t k v) := by
  induction t with
  | nil => simp [tblPut, Rising]
  | cons q r ih =>
    obtain ⟨k', v'⟩ := q
    obtain ⟨h1, h2⟩ := rising_cons.1 h
    simp only [tblPut]
    split
    · rename_i hlt
      refine rising_cons.2 ⟨?_, h⟩
      intro p hp
      rcases List.mem_cons.1 hp with rfl | hp
      · exact hlt
      · exact lt_trans hlt (h1 p hp)
    · split
      · rename_i _ heq
        exact rising_cons.2 ⟨fun p hp => heq ▸ h1 p hp, h2⟩
      · rename_i hlt hne
        refine rising_cons.2 ⟨fun p hp => ?_, ih h2⟩
        rcases mem_tblPut hp with rfl | hp
        · show k' < k
          omega
        · exact h1 p hp

theorem rising_tblDel {t : Tbl α} (k : Nat) (h : Rising t) : Rising (tblDel t k) := by
  induction t with
  | nil => simp [tblDel, Rising]
  | cons q r ih =>
    obtain ⟨k', v'⟩ := q
    obtain ⟨h1, h2⟩ := rising_cons.1 h
    simp only [tblDel]
    split
    · exact ih h2
    · exact rising_cons.2 ⟨fun p hp => h1 p (mem_tblDel hp), ih h2⟩

/-- A write keeps the canonical form. -/
theorem tblSet_wf [DecidableEq α] {d : α} {t : Tbl α} (k : Nat) (v : α) (h : tblWf d t = true) :
    tblWf d (tblSet d t k v) = true := by
  obtain ⟨h1, h2⟩ := (tblWf_iff d t).1 h
  unfold tblSet
  split
  · exact (tblWf_iff d _).2 ⟨rising_tblDel k h1, fun p hp => h2 p (mem_tblDel hp)⟩
  · rename_i hv
    refine (tblWf_iff d _).2 ⟨rising_tblPut k v h1, fun p hp => ?_⟩
    rcases mem_tblPut hp with rfl | hp
    · exact hv
    · exact h2 p hp

theorem tblGet_tblPut_same (d : α) (t : Tbl α) (k : Nat) (v : α) : tblGet d (tblPut t k v) k = v := by
  induction t with
  | nil => simp [tblPut, tblGet]
  | cons q r ih =>
    obtain ⟨k0, v0⟩ := q
    simp only [tblPut]
    split
    · simp [tblGet]
    · split
      · simp [tblGet]
      · simp only [tblGet]
        rw [if_neg (by omega)]
        exact ih

theorem tblGet_tblPut_other (d : α) (t : Tbl α) (k k' : Nat) (v : α) (hk : k' ≠ k) :
    tblGet d (tblPut t k v) k' = tblGet d t k' := by
  induction t with
  | nil => simp [tblPut, tblGet, hk.symm]
  | cons q r ih =>
    obtain ⟨k0, v0⟩ := q
    simp only [tblPut]
    split
    · simp [tblGet, hk.symm]
    · split
      · rename_i _ heq
        subst heq
        simp [tblGet, hk.symm]
      · simp only [tblGet, ih]

theorem tblGet_tblDel (d : α) (t : Tbl α) (k k' : Nat) :
    tblGet d (tblDel t k) k' = if k = k' then d else tblGet d t k' := by
  induction t with
  | nil => simp [tblDel, tblGet]
  | cons q r ih =>
    obtain ⟨k0, v0⟩ := q
    simp only [tblDel]
    split
    · rename_i heq
      subst heq
      rw [ih]
      simp only [tblGet]
      split <;> rfl
    · simp only [tblGet, ih]
      by_cases h1 : k0 = k'
      · have h2 : ¬k = k' := by omega
        simp [h1, h2]
      · simp [h1]

/-- A read after a write gives the value written at its key, and what was there at every other key, in any table. -/
theorem tblGet_tblSet [DecidableEq α] (d : α) (t : Tbl α) (k k' : Nat) (v : α) :
    tblGet d (tblSet d t k v) k' = if k = k' then v else tblGet d t k' := by
  unfold tblSet
  split
  · rename_i hv
    rw [tblGet_tblDel, hv]
  · by_cases hk : k = k'
    · subst hk
      rw [tblGet_tblPut_same, if_pos rfl]
    · rw [tblGet_tblPut_other d t k k' v (Ne.symm hk), if_neg hk]

/-- A read of the key just written. -/
@[simp] theorem tblGet_tblSet_same [DecidableEq α] (d : α) (t : Tbl α) (k : Nat) (v : α) :
    tblGet d (tblSet d t k v) k = v := by
  rw [tblGet_tblSet, if_pos rfl]

/-- A write leaves every other key alone. -/
theorem tblGet_tblSet_other [DecidableEq α] (d : α) (t : Tbl α) (k k' : Nat) (v : α) (hk : k' ≠ k) :
    tblGet d (tblSet d t k v) k' = tblGet d t k' := by
  rw [tblGet_tblSet, if_neg (Ne.symm hk)]

end Sys2Proof.Laws
end

