-- ==== Sys2Proof/Laws/Keeps.lean ====
section
/-! SUPPORT. The relation between a state and what a chain of operations makes of it: which parts may differ, that the
invariant is kept, and that the fuses only rise; and how each form of state change keeps it. -/

namespace Sys2Proof.Laws

open Sys2Proof Sys2Proof.Machine

/-- `t` comes from `s` by operations that write no part outside `ps`, keep the invariant, and let the fuses only rise. -/
structure Keeps (ps : List Part) (s t : State) : Prop where
  only : OnlyIn ps s t
  safe : Safe s → Safe t
  fuses : FusesRise s t

/-- Every member of one list of parts is in another. -/
def sub (a b : List Part) : Bool := a.all fun p => b.contains p

theorem sub_iff {a b : List Part} : sub a b = true ↔ ∀ p ∈ a, p ∈ b := by
  simp [sub]

theorem sub_trans {a b c : List Part} (h1 : sub a b = true) (h2 : sub b c = true) : sub a c = true :=
  sub_iff.2 fun p hp => sub_iff.1 h2 p (sub_iff.1 h1 p hp)

theorem sub_refl (a : List Part) : sub a a = true := sub_iff.2 fun _ h => h

theorem sub_mem {a b : List Part} {p : Part} (h1 : a.contains p = true) (h2 : sub a b = true) : p ∈ b :=
  sub_iff.1 h2 p (by simpa using h1)

theorem FusesRise.refl (s : State) : FusesRise s s := ⟨rfl, le_refl _, by simp⟩

theorem Keeps.refl (ps : List Part) (s : State) : Keeps ps s s :=
  ⟨⟨.inr rfl, .inr rfl, .inr rfl, .inr rfl, .inr rfl, .inr rfl, .inr rfl, .inr rfl, .inr rfl, .inr rfl, .inr rfl, .inr rfl,
    .inr rfl, .inr rfl, .inr rfl, .inr rfl, .inr rfl, .inr rfl, .inr rfl, .inr rfl, .inr rfl, .inr rfl, .inr rfl⟩,
    id, FusesRise.refl s⟩

variable {ps : List Part} {s0 s : State}

theorem fuses_step {t : State} (h : FusesRise s0 s) (h1 : t.standby.grade960 = s.standby.grade960)
    (h2 : s.standby.rollback ≤ t.standby.rollback) (h3 : s.standby.revoked &&& ~~~ t.standby.revoked = 0) : FusesRise s0 t := by
  refine ⟨h1.trans h.grade, le_trans h.rollback h2, ?_⟩
  have h0 := h.revoked
  generalize s0.standby.revoked = a at *
  generalize s.standby.revoked = b at *
  generalize t.standby.revoked = c at *
  ext i hi
  have e1 := congrArg (fun v => v.getLsbD i) h0
  have e2 := congrArg (fun v => v.getLsbD i) h3
  simp at e1 e2 ⊢
  intro ha
  exact e2 (e1 ha hi) hi

/-- `Keeps` of a state that is written out part by part. -/
def KeepsMk (ps : List Part) (s0 : State) (x0 : List Instr) (x1 : Clock) (x2 : Tbl Bead) (x3 : Mmu) (x4 : Fabric)
    (x5 : Clasps) (x6 : Memory) (x7 : Tbl Bezel) (x8 : Chain) (x9 : HostLink) (x10 : Tbl Mbx) (x11 : Nutas) (x12 :
    Ledger) (x13 : Commit) (x14 : FaultLog) (x15 : Hub) (x16 : Assayer) (x17 : Standby) (x18 : PowerCtl) (x19 :
    Security) (x20 : Mgmt) (x21 : List OutMsg) (x22 : Nat) : Prop :=
  Keeps ps s0 ⟨x0, x1, x2, x3, x4, x5, x6, x7, x8, x9, x10, x11, x12, x13, x14, x15, x16, x17, x18, x19, x20, x21,
    x22⟩

theorem keeps_mk {x0 x1 x2 x3 x4 x5 x6 x7 x8 x9 x10 x11 x12 x13 x14 x15 x16 x17 x18 x19 x20 x21 x22} :
    Keeps ps s0 ⟨x0, x1, x2, x3, x4, x5, x6, x7, x8, x9, x10, x11, x12, x13, x14, x15, x16, x17, x18, x19, x20, x21,
    x22⟩ = KeepsMk ps s0 x0 x1 x2 x3 x4 x5 x6 x7 x8 x9 x10 x11 x12 x13 x14 x15 x16 x17 x18 x19 x20 x21 x22 := rfl

/-- A state written part by part over `s`: each part is that of `s`, or may be written and keeps what the invariant says of it. -/
theorem KeepsMk.over {x0 : List Instr} {x1 : Clock} {x2 : Tbl Bead} {x3 : Mmu} {x4 : Fabric} {x5 : Clasps} {x6 : Memory} {x7 : Tbl Bezel} {x8 : Chain} {x9 : HostLink} {x10 : Tbl Mbx} {x11 : Nutas} {x12 : Ledger} {x13 : Commit} {x14 : FaultLog} {x15 : Hub} {x16 : Assayer} {x17 : Standby} {x18 : PowerCtl} {x19 : Security} {x20 : Mgmt} {x21 : List OutMsg} {x22 : Nat} 
    (h_pending : x0 = s.pending ∨ Part.pending ∈ ps)
    (h_clock : x1 = s.clock ∨ (Part.clock ∈ ps ∧ (s.clock.ck < 16384 → x1.ck < 16384)))
    (h_beads : x2 = s.beads ∨ Part.beads ∈ ps)
    (h_mmu : x3 = s.mmu ∨ (Part.mmu ∈ ps ∧ ((∀ c, (tblGet [] s.mmu.walks c).length ≤ 16) → ∀ c, (tblGet [] x3.walks c).length ≤ 16)))
    (h_fabric : x4 = s.fabric ∨ Part.fabric ∈ ps)
    (h_clasps : x5 = s.clasps ∨ Part.clasps ∈ ps)
    (h_mem : x6 = s.mem ∨ (Part.mem ∈ ps ∧ (s.mem.wf → x6.wf)))
    (h_bezels : x7 = s.bezels ∨ Part.bezels ∈ ps)
    (h_chain : x8 = s.chain ∨ Part.chain ∈ ps)
    (h_host : x9 = s.host ∨ Part.host ∈ ps)
    (h_mbxs : x10 = s.mbxs ∨ (Part.mbxs ∈ ps ∧ ((∀ m, (tblGet ({} : Mbx) s.mbxs m).held.length ≤ 16) → ∀ m, (tblGet ({} : Mbx) x10 m).held.length ≤ 16)))
    (h_nutas : x11 = s.nutas ∨ Part.nutas ∈ ps)
    (h_ledger : x12 = s.ledger ∨ (Part.ledger ∈ ps ∧ (s.ledger.traceBuf.length ≤ 64 → x12.traceBuf.length ≤ 64)))
    (h_commit : x13 = s.commit ∨ Part.commit ∈ ps)
    (h_faults : x14 = s.faults ∨ (Part.faults ∈ ps ∧ (s.faults.waiting.length ≤ 256 → x14.waiting.length ≤ 256) ∧ (s.faults.ring.length ≤ 4096 → x14.ring.length ≤ 4096)))
    (h_hub : x15 = s.hub ∨ Part.hub ∈ ps)
    (h_asy : x16 = s.asy ∨ Part.asy ∈ ps)
    (h_standby : x17 = s.standby ∨ (Part.standby ∈ ps ∧ (x17.grade960 = s.standby.grade960) ∧ (s.standby.rollback ≤ x17.rollback) ∧ (s.standby.revoked &&& ~~~ x17.revoked = 0)))
    (h_power : x18 = s.power ∨ Part.power ∈ ps)
    (h_sec : x19 = s.sec ∨ Part.sec ∈ ps)
    (h_mgmt : x20 = s.mgmt ∨ Part.mgmt ∈ ps)
    (h_out : x21 = s.out ∨ Part.out ∈ ps)
    (h_free : x22 = s.free ∨ Part.free ∈ ps)
    (h : Keeps ps s0 s) :
    KeepsMk ps s0 x0 x1 x2 x3 x4 x5 x6 x7 x8 x9 x10 x11
      x12 x13 x14 x15 x16 x17 x18 x19 x20 x21 x22 := by
  obtain ⟨ho, hs, hf⟩ := h
  refine ⟨⟨?_, ?_, ?_, ?_, ?_, ?_, ?_, ?_, ?_, ?_, ?_, ?_, ?_, ?_, ?_, ?_, ?_, ?_, ?_, ?_, ?_, ?_, ?_⟩, fun h0 => ?_, ?_⟩
  · rcases h_pending with h | h
    · rcases ho.pending with g | g
      · exact .inl g
      · exact .inr (h.trans g)
    · exact .inl h
  · rcases h_clock with h | h
    · rcases ho.clock with g | g
      · exact .inl g
      · exact .inr (h.trans g)
    · exact .inl h.1
  · rcases h_beads with h | h
    · rcases ho.beads with g | g
      · exact .inl g
      · exact .inr (h.trans g)
    · exact .inl h
  · rcases h_mmu with h | h
    · rcases ho.mmu with g | g
      · exact .inl g
      · exact .inr (h.trans g)
    · exact .inl h.1
  · rcases h_fabric with h | h
    · rcases ho.fabric with g | g
      · exact .inl g
      · exact .inr (h.trans g)
    · exact .inl h
  · rcases h_clasps with h | h
    · rcases ho.clasps with g | g
      · exact .inl g
      · exact .inr (h.trans g)
    · exact .inl h
  · rcases h_mem with h | h
    · rcases ho.mem with g | g
      · exact .inl g
      · exact .inr (h.trans g)
    · exact .inl h.1
  · rcases h_bezels with h | h
    · rcases ho.bezels with g | g
      · exact .inl g
      · exact .inr (h.trans g)
    · exact .inl h
  · rcases h_chain with h | h
    · rcases ho.chain with g | g
      · exact .inl g
      · exact .inr (h.trans g)
    · exact .inl h
  · rcases h_host with h | h
    · rcases ho.host with g | g
      · exact .inl g
      · exact .inr (h.trans g)
    · exact .inl h
  · rcases h_mbxs with h | h
    · rcases ho.mbxs with g | g
      · exact .inl g
      · exact .inr (h.trans g)
    · exact .inl h.1
  · rcases h_nutas with h | h
    · rcases ho.nutas with g | g
      · exact .inl g
      · exact .inr (h.trans g)
    · exact .inl h
  · rcases h_ledger with h | h
    · rcases ho.ledger with g | g
      · exact .inl g
      · exact .inr (h.trans g)
    · exact .inl h.1
  · rcases h_commit with h | h
    · rcases ho.commit with g | g
      · exact .inl g
      · exact .inr (h.trans g)
    · exact .inl h
  · rcases h_faults with h | h
    · rcases ho.faults with g | g
      · exact .inl g
      · exact .inr (h.trans g)
    · exact .inl h.1
  · rcases h_hub with h | h
    · rcases ho.hub with g | g
      · exact .inl g
      · exact .inr (h.trans g)
    · exact .inl h
  · rcases h_asy with h | h
    · rcases ho.asy with g | g
      · exact .inl g
      · exact .inr (h.trans g)
    · exact .inl h
  · rcases h_standby with h | h
    · rcases ho.standby with g | g
      · exact .inl g
      · exact .inr (h.trans g)
    · exact .inl h.1
  · rcases h_power with h | h
    · rcases ho.power with g | g
      · exact .inl g
      · exact .inr (h.trans g)
    · exact .inl h
  · rcases h_sec with h | h
    · rcases ho.sec with g | g
      · exact .inl g
      · exact .inr (h.trans g)
    · exact .inl h
  · rcases h_mgmt with h | h
    · rcases ho.mgmt with g | g
      · exact .inl g
      · exact .inr (h.trans g)
    · exact .inl h
  · rcases h_out with h | h
    · rcases ho.out with g | g
      · exact .inl g
      · exact .inr (h.trans g)
    · exact .inl h
  · rcases h_free with h | h
    · rcases ho.free with g | g
      · exact .inl g
      · exact .inr (h.trans g)
    · exact .inl h
  · have g := hs h0
    refine ⟨?_, ?_, ?_, ?_, ?_, ?_, ?_⟩
    · rcases h_mem with h | h
      · exact h ▸ g.mem
      · exact h.2 g.mem
    · rcases h_clock with h | h
      · exact h ▸ g.ck
      · exact h.2 g.ck
    · rcases h_mmu with h | h
      · exact h ▸ g.walks
      · exact h.2 g.walks
    · rcases h_faults with h | h
      · exact h ▸ g.waiting
      · exact h.2.1 g.waiting
    · rcases h_faults with h | h
      · exact h ▸ g.ring
      · exact h.2.2 g.ring
    · rcases h_ledger with h | h
      · exact h ▸ g.trace
      · exact h.2 g.trace
    · rcases h_mbxs with h | h
      · exact h ▸ g.held
      · exact h.2 g.held
  · rcases h_standby with h | h
    · exact ⟨h ▸ hf.grade, h ▸ hf.rollback, h ▸ hf.revoked⟩
    · exact fuses_step hf h.2.1 h.2.2.1 h.2.2.2

/-! ### One part written -/

theorem KeepsMk.w_clock {x : Clock} (h : Keeps ps s0 s) (hp : Part.clock ∈ ps)
    (h0 : s.clock.ck < 16384 → x.ck < 16384) :
    KeepsMk ps s0 s.pending x s.beads s.mmu s.fabric s.clasps s.mem s.bezels s.chain s.host s.mbxs
      s.nutas s.ledger s.commit s.faults s.hub s.asy s.standby s.power s.sec s.mgmt s.out s.free :=
  KeepsMk.over (.inl rfl) (.inr ⟨hp, h0⟩) (.inl rfl) (.inl rfl) (.inl rfl) (.inl rfl) (.inl rfl) (.inl rfl)
    (.inl rfl) (.inl rfl) (.inl rfl) (.inl rfl) (.inl rfl) (.inl rfl) (.inl rfl) (.inl rfl)
    (.inl rfl) (.inl rfl) (.inl rfl) (.inl rfl) (.inl rfl) (.inl rfl) (.inl rfl) h

theorem KeepsMk.w_beads {x : Tbl Bead} (h : Keeps ps s0 s) (hp : Part.beads ∈ ps) :
    KeepsMk ps s0 s.pending s.clock x s.mmu s.fabric s.clasps s.mem s.bezels s.chain s.host s.mbxs
      s.nutas s.ledger s.commit s.faults s.hub s.asy s.standby s.power s.sec s.mgmt s.out s.free :=
  KeepsMk.over (.inl rfl) (.inl rfl) (.inr hp) (.inl rfl) (.inl rfl) (.inl rfl) (.inl rfl) (.inl rfl)
    (.inl rfl) (.inl rfl) (.inl rfl) (.inl rfl) (.inl rfl) (.inl rfl) (.inl rfl) (.inl rfl)
    (.inl rfl) (.inl rfl) (.inl rfl) (.inl rfl) (.inl rfl) (.inl rfl) (.inl rfl) h

theorem KeepsMk.w_mmu {x : Mmu} (h : Keeps ps s0 s) (hp : Part.mmu ∈ ps)
    (h0 : (∀ c, (tblGet [] s.mmu.walks c).length ≤ 16) → ∀ c, (tblGet [] x.walks c).length ≤ 16) :
    KeepsMk ps s0 s.pending s.clock s.beads x s.fabric s.clasps s.mem s.bezels s.chain s.host s.mbxs
      s.nutas s.ledger s.commit s.faults s.hub s.asy s.standby s.power s.sec s.mgmt s.out s.free :=
  KeepsMk.over (.inl rfl) (.inl rfl) (.inl rfl) (.inr ⟨hp, h0⟩) (.inl rfl) (.inl rfl) (.inl rfl) (.inl rfl)
    (.inl rfl) (.inl rfl) (.inl rfl) (.inl rfl) (.inl rfl) (.inl rfl) (.inl rfl) (.inl rfl)
    (.inl rfl) (.inl rfl) (.inl rfl) (.inl rfl) (.inl rfl) (.inl rfl) (.inl rfl) h

theorem KeepsMk.w_fabric {x : Fabric} (h : Keeps ps s0 s) (hp : Part.fabric ∈ ps) :
    KeepsMk ps s0 s.pending s.clock s.beads s.mmu x s.clasps s.mem s.bezels s.chain s.host s.mbxs
      s.nutas s.ledger s.commit s.faults s.hub s.asy s.standby s.power s.sec s.mgmt s.out s.free :=
  KeepsMk.over (.inl rfl) (.inl rfl) (.inl rfl) (.inl rfl) (.inr hp) (.inl rfl) (.inl rfl) (.inl rfl)
    (.inl rfl) (.inl rfl) (.inl rfl) (.inl rfl) (.inl rfl) (.inl rfl) (.inl rfl) (.inl rfl)
    (.inl rfl) (.inl rfl) (.inl rfl) (.inl rfl) (.inl rfl) (.inl rfl) (.inl rfl) h

theorem KeepsMk.w_clasps {x : Clasps} (h : Keeps ps s0 s) (hp : Part.clasps ∈ ps) :
    KeepsMk ps s0 s.pending s.clock s.beads s.mmu s.fabric x s.mem s.bezels s.chain s.host s.mbxs
      s.nutas s.ledger s.commit s.faults s.hub s.asy s.standby s.power s.sec s.mgmt s.out s.free :=
  KeepsMk.over (.inl rfl) (.inl rfl) (.inl rfl) (.inl rfl) (.inl rfl) (.inr hp) (.inl rfl) (.inl rfl)
    (.inl rfl) (.inl rfl) (.inl rfl) (.inl rfl) (.inl rfl) (.inl rfl) (.inl rfl) (.inl rfl)
    (.inl rfl) (.inl rfl) (.inl rfl) (.inl rfl) (.inl rfl) (.inl rfl) (.inl rfl) h

theorem KeepsMk.w_mem {x : Memory} (h : Keeps ps s0 s) (hp : Part.mem ∈ ps)
    (h0 : s.mem.wf → x.wf) :
    KeepsMk ps s0 s.pending s.clock s.beads s.mmu s.fabric s.clasps x s.bezels s.chain s.host s.mbxs
      s.nutas s.ledger s.commit s.faults s.hub s.asy s.standby s.power s.sec s.mgmt s.out s.free :=
  KeepsMk.over (.inl rfl) (.inl rfl) (.inl rfl) (.inl rfl) (.inl rfl) (.inl rfl) (.inr ⟨hp, h0⟩) (.inl rfl)
    (.inl rfl) (.inl rfl) (.inl rfl) (.inl rfl) (.inl rfl) (.inl rfl) (.inl rfl) (.inl rfl)
    (.inl rfl) (.inl rfl) (.inl rfl) (.inl rfl) (.inl rfl) (.inl rfl) (.inl rfl) h

theorem KeepsMk.w_bezels {x : Tbl Bezel} (h : Keeps ps s0 s) (hp : Part.bezels ∈ ps) :
    KeepsMk ps s0 s.pending s.clock s.beads s.mmu s.fabric s.clasps s.mem x s.chain s.host s.mbxs
      s.nutas s.ledger s.commit s.faults s.hub s.asy s.standby s.power s.sec s.mgmt s.out s.free :=
  KeepsMk.over (.inl rfl) (.inl rfl) (.inl rfl) (.inl rfl) (.inl rfl) (.inl rfl) (.inl rfl) (.inr hp)
    (.inl rfl) (.inl rfl) (.inl rfl) (.inl rfl) (.inl rfl) (.inl rfl) (.inl rfl) (.inl rfl)
    (.inl rfl) (.inl rfl) (.inl rfl) (.inl rfl) (.inl rfl) (.inl rfl) (.inl rfl) h

theorem KeepsMk.w_chain {x : Chain} (h : Keeps ps s0 s) (hp : Part.chain ∈ ps) :
    KeepsMk ps s0 s.pending s.clock s.beads s.mmu s.fabric s.clasps s.mem s.bezels x s.host s.mbxs
      s.nutas s.ledger s.commit s.faults s.hub s.asy s.standby s.power s.sec s.mgmt s.out s.free :=
  KeepsMk.over (.inl rfl) (.inl rfl) (.inl rfl) (.inl rfl) (.inl rfl) (.inl rfl) (.inl rfl) (.inl rfl)
    (.inr hp) (.inl rfl) (.inl rfl) (.inl rfl) (.inl rfl) (.inl rfl) (.inl rfl) (.inl rfl)
    (.inl rfl) (.inl rfl) (.inl rfl) (.inl rfl) (.inl rfl) (.inl rfl) (.inl rfl) h

theorem KeepsMk.w_host {x : HostLink} (h : Keeps ps s0 s) (hp : Part.host ∈ ps) :
    KeepsMk ps s0 s.pending s.clock s.beads s.mmu s.fabric s.clasps s.mem s.bezels s.chain x s.mbxs
      s.nutas s.ledger s.commit s.faults s.hub s.asy s.standby s.power s.sec s.mgmt s.out s.free :=
  KeepsMk.over (.inl rfl) (.inl rfl) (.inl rfl) (.inl rfl) (.inl rfl) (.inl rfl) (.inl rfl) (.inl rfl)
    (.inl rfl) (.inr hp) (.inl rfl) (.inl rfl) (.inl rfl) (.inl rfl) (.inl rfl) (.inl rfl)
    (.inl rfl) (.inl rfl) (.inl rfl) (.inl rfl) (.inl rfl) (.inl rfl) (.inl rfl) h

theorem KeepsMk.w_mbxs {x : Tbl Mbx} (h : Keeps ps s0 s) (hp : Part.mbxs ∈ ps)
    (h0 : (∀ m, (tblGet ({} : Mbx) s.mbxs m).held.length ≤ 16) → ∀ m, (tblGet ({} : Mbx) x m).held.length ≤ 16) :
    KeepsMk ps s0 s.pending s.clock s.beads s.mmu s.fabric s.clasps s.mem s.bezels s.chain s.host x
      s.nutas s.ledger s.commit s.faults s.hub s.asy s.standby s.power s.sec s.mgmt s.out s.free :=
  KeepsMk.over (.inl rfl) (.inl rfl) (.inl rfl) (.inl rfl) (.inl rfl) (.inl rfl) (.inl rfl) (.inl rfl)
    (.inl rfl) (.inl rfl) (.inr ⟨hp, h0⟩) (.inl rfl) (.inl rfl) (.inl rfl) (.inl rfl)
    (.inl rfl) (.inl rfl) (.inl rfl) (.inl rfl) (.inl rfl) (.inl rfl) (.inl rfl) (.inl rfl) h

theorem KeepsMk.w_nutas {x : Nutas} (h : Keeps ps s0 s) (hp : Part.nutas ∈ ps) :
    KeepsMk ps s0 s.pending s.clock s.beads s.mmu s.fabric s.clasps s.mem s.bezels s.chain s.host s.mbxs
      x s.ledger s.commit s.faults s.hub s.asy s.standby s.power s.sec s.mgmt s.out s.free :=
  KeepsMk.over (.inl rfl) (.inl rfl) (.inl rfl) (.inl rfl) (.inl rfl) (.inl rfl) (.inl rfl) (.inl rfl)
    (.inl rfl) (.inl rfl) (.inl rfl) (.inr hp) (.inl rfl) (.inl rfl) (.inl rfl) (.inl rfl)
    (.inl rfl) (.inl rfl) (.inl rfl) (.inl rfl) (.inl rfl) (.inl rfl) (.inl rfl) h

theorem KeepsMk.w_ledger {x : Ledger} (h : Keeps ps s0 s) (hp : Part.ledger ∈ ps)
    (h0 : s.ledger.traceBuf.length ≤ 64 → x.traceBuf.length ≤ 64) :
    KeepsMk ps s0 s.pending s.clock s.beads s.mmu s.fabric s.clasps s.mem s.bezels s.chain s.host s.mbxs
      s.nutas x s.commit s.faults s.hub s.asy s.standby s.power s.sec s.mgmt s.out s.free :=
  KeepsMk.over (.inl rfl) (.inl rfl) (.inl rfl) (.inl rfl) (.inl rfl) (.inl rfl) (.inl rfl) (.inl rfl)
    (.inl rfl) (.inl rfl) (.inl rfl) (.inl rfl) (.inr ⟨hp, h0⟩) (.inl rfl) (.inl rfl)
    (.inl rfl) (.inl rfl) (.inl rfl) (.inl rfl) (.inl rfl) (.inl rfl) (.inl rfl) (.inl rfl) h

theorem KeepsMk.w_commit {x : Commit} (h : Keeps ps s0 s) (hp : Part.commit ∈ ps) :
    KeepsMk ps s0 s.pending s.clock s.beads s.mmu s.fabric s.clasps s.mem s.bezels s.chain s.host s.mbxs
      s.nutas s.ledger x s.faults s.hub s.asy s.standby s.power s.sec s.mgmt s.out s.free :=
  KeepsMk.over (.inl rfl) (.inl rfl) (.inl rfl) (.inl rfl) (.inl rfl) (.inl rfl) (.inl rfl) (.inl rfl)
    (.inl rfl) (.inl rfl) (.inl rfl) (.inl rfl) (.inl rfl) (.inr hp) (.inl rfl) (.inl rfl)
    (.inl rfl) (.inl rfl) (.inl rfl) (.inl rfl) (.inl rfl) (.inl rfl) (.inl rfl) h

theorem KeepsMk.w_faults {x : FaultLog} (h : Keeps ps s0 s) (hp : Part.faults ∈ ps)
    (h0 : s.faults.waiting.length ≤ 256 → x.waiting.length ≤ 256) (h1 : s.faults.ring.length ≤ 4096 → x.ring.length ≤ 4096) :
    KeepsMk ps s0 s.pending s.clock s.beads s.mmu s.fabric s.clasps s.mem s.bezels s.chain s.host s.mbxs
      s.nutas s.ledger s.commit x s.hub s.asy s.standby s.power s.sec s.mgmt s.out s.free :=
  KeepsMk.over (.inl rfl) (.inl rfl) (.inl rfl) (.inl rfl) (.inl rfl) (.inl rfl) (.inl rfl) (.inl rfl)
    (.inl rfl) (.inl rfl) (.inl rfl) (.inl rfl) (.inl rfl) (.inl rfl) (.inr ⟨hp, h0, h1⟩)
    (.inl rfl) (.inl rfl) (.inl rfl) (.inl rfl) (.inl rfl) (.inl rfl) (.inl rfl) (.inl rfl) h

theorem KeepsMk.w_hub {x : Hub} (h : Keeps ps s0 s) (hp : Part.hub ∈ ps) :
    KeepsMk ps s0 s.pending s.clock s.beads s.mmu s.fabric s.clasps s.mem s.bezels s.chain s.host s.mbxs
      s.nutas s.ledger s.commit s.faults x s.asy s.standby s.power s.sec s.mgmt s.out s.free :=
  KeepsMk.over (.inl rfl) (.inl rfl) (.inl rfl) (.inl rfl) (.inl rfl) (.inl rfl) (.inl rfl) (.inl rfl)
    (.inl rfl) (.inl rfl) (.inl rfl) (.inl rfl) (.inl rfl) (.inl rfl) (.inl rfl) (.inr hp)
    (.inl rfl) (.inl rfl) (.inl rfl) (.inl rfl) (.inl rfl) (.inl rfl) (.inl rfl) h

theorem KeepsMk.w_asy {x : Assayer} (h : Keeps ps s0 s) (hp : Part.asy ∈ ps) :
    KeepsMk ps s0 s.pending s.clock s.beads s.mmu s.fabric s.clasps s.mem s.bezels s.chain s.host s.mbxs
      s.nutas s.ledger s.commit s.faults s.hub x s.standby s.power s.sec s.mgmt s.out s.free :=
  KeepsMk.over (.inl rfl) (.inl rfl) (.inl rfl) (.inl rfl) (.inl rfl) (.inl rfl) (.inl rfl) (.inl rfl)
    (.inl rfl) (.inl rfl) (.inl rfl) (.inl rfl) (.inl rfl) (.inl rfl) (.inl rfl) (.inl rfl)
    (.inr hp) (.inl rfl) (.inl rfl) (.inl rfl) (.inl rfl) (.inl rfl) (.inl rfl) h

theorem KeepsMk.w_standby {x : Standby} (h : Keeps ps s0 s) (hp : Part.standby ∈ ps)
    (h0 : x.grade960 = s.standby.grade960) (h1 : s.standby.rollback ≤ x.rollback) (h2 : s.standby.revoked &&& ~~~ x.revoked = 0) :
    KeepsMk ps s0 s.pending s.clock s.beads s.mmu s.fabric s.clasps s.mem s.bezels s.chain s.host s.mbxs
      s.nutas s.ledger s.commit s.faults s.hub s.asy x s.power s.sec s.mgmt s.out s.free :=
  KeepsMk.over (.inl rfl) (.inl rfl) (.inl rfl) (.inl rfl) (.inl rfl) (.inl rfl) (.inl rfl) (.inl rfl)
    (.inl rfl) (.inl rfl) (.inl rfl) (.inl rfl) (.inl rfl) (.inl rfl) (.inl rfl) (.inl rfl)
    (.inl rfl) (.inr ⟨hp, h0, h1, h2⟩) (.inl rfl) (.inl rfl) (.inl rfl) (.inl rfl) (.inl rfl) h

theorem KeepsMk.w_power {x : PowerCtl} (h : Keeps ps s0 s) (hp : Part.power ∈ ps) :
    KeepsMk ps s0 s.pending s.clock s.beads s.mmu s.fabric s.clasps s.mem s.bezels s.chain s.host s.mbxs
      s.nutas s.ledger s.commit s.faults s.hub s.asy s.standby x s.sec s.mgmt s.out s.free :=
  KeepsMk.over (.inl rfl) (.inl rfl) (.inl rfl) (.inl rfl) (.inl rfl) (.inl rfl) (.inl rfl) (.inl rfl)
    (.inl rfl) (.inl rfl) (.inl rfl) (.inl rfl) (.inl rfl) (.inl rfl) (.inl rfl) (.inl rfl)
    (.inl rfl) (.inl rfl) (.inr hp) (.inl rfl) (.inl rfl) (.inl rfl) (.inl rfl) h

theorem KeepsMk.w_sec {x : Security} (h : Keeps ps s0 s) (hp : Part.sec ∈ ps) :
    KeepsMk ps s0 s.pending s.clock s.beads s.mmu s.fabric s.clasps s.mem s.bezels s.chain s.host s.mbxs
      s.nutas s.ledger s.commit s.faults s.hub s.asy s.standby s.power x s.mgmt s.out s.free :=
  KeepsMk.over (.inl rfl) (.inl rfl) (.inl rfl) (.inl rfl) (.inl rfl) (.inl rfl) (.inl rfl) (.inl rfl)
    (.inl rfl) (.inl rfl) (.inl rfl) (.inl rfl) (.inl rfl) (.inl rfl) (.inl rfl) (.inl rfl)
    (.inl rfl) (.inl rfl) (.inl rfl) (.inr hp) (.inl rfl) (.inl rfl) (.inl rfl) h

theorem KeepsMk.w_mgmt {x : Mgmt} (h : Keeps ps s0 s) (hp : Part.mgmt ∈ ps) :
    KeepsMk ps s0 s.pending s.clock s.beads s.mmu s.fabric s.clasps s.mem s.bezels s.chain s.host s.mbxs
      s.nutas s.ledger s.commit s.faults s.hub s.asy s.standby s.power s.sec x s.out s.free :=
  KeepsMk.over (.inl rfl) (.inl rfl) (.inl rfl) (.inl rfl) (.inl rfl) (.inl rfl) (.inl rfl) (.inl rfl)
    (.inl rfl) (.inl rfl) (.inl rfl) (.inl rfl) (.inl rfl) (.inl rfl) (.inl rfl) (.inl rfl)
    (.inl rfl) (.inl rfl) (.inl rfl) (.inl rfl) (.inr hp) (.inl rfl) (.inl rfl) h

theorem KeepsMk.w_out {x : List OutMsg} (h : Keeps ps s0 s) (hp : Part.out ∈ ps) :
    KeepsMk ps s0 s.pending s.clock s.beads s.mmu s.fabric s.clasps s.mem s.bezels s.chain s.host s.mbxs
      s.nutas s.ledger s.commit s.faults s.hub s.asy s.standby s.power s.sec s.mgmt x s.free :=
  KeepsMk.over (.inl rfl) (.inl rfl) (.inl rfl) (.inl rfl) (.inl rfl) (.inl rfl) (.inl rfl) (.inl rfl)
    (.inl rfl) (.inl rfl) (.inl rfl) (.inl rfl) (.inl rfl) (.inl rfl) (.inl rfl) (.inl rfl)
    (.inl rfl) (.inl rfl) (.inl rfl) (.inl rfl) (.inl rfl) (.inr hp) (.inl rfl) h

theorem KeepsMk.w_free {x : Nat} (h : Keeps ps s0 s) (hp : Part.free ∈ ps) :
    KeepsMk ps s0 s.pending s.clock s.beads s.mmu s.fabric s.clasps s.mem s.bezels s.chain s.host s.mbxs
      s.nutas s.ledger s.commit s.faults s.hub s.asy s.standby s.power s.sec s.mgmt s.out x :=
  KeepsMk.over (.inl rfl) (.inl rfl) (.inl rfl) (.inl rfl) (.inl rfl) (.inl rfl) (.inl rfl) (.inl rfl)
    (.inl rfl) (.inl rfl) (.inl rfl) (.inl rfl) (.inl rfl) (.inl rfl) (.inl rfl) (.inl rfl)
    (.inl rfl) (.inl rfl) (.inl rfl) (.inl rfl) (.inl rfl) (.inl rfl) (.inr hp) h

/-- The ledger written so that its trace buffer is known to be short where the first state is safe. -/
theorem KeepsMk.w_ledger_safe {x : Ledger} (h : Keeps ps s0 s) (hp : Part.ledger ∈ ps)
    (h0 : Safe s0 → x.traceBuf.length ≤ 64) :
    KeepsMk ps s0 s.pending s.clock s.beads s.mmu s.fabric s.clasps s.mem s.bezels s.chain s.host s.mbxs
      s.nutas x s.commit s.faults s.hub s.asy s.standby s.power s.sec s.mgmt s.out s.free := by
  obtain ⟨ho, hs, hf⟩ := h
  exact ⟨⟨ho.pending, ho.clock, ho.beads, ho.mmu, ho.fabric, ho.clasps, ho.mem,
    ho.bezels, ho.chain, ho.host, ho.mbxs, ho.nutas, .inl hp, ho.commit,
    ho.faults, ho.hub, ho.asy, ho.standby, ho.power, ho.sec, ho.mgmt, ho.out, ho.free⟩,
    fun g => ⟨(hs g).mem, (hs g).ck, (hs g).walks, (hs g).waiting, (hs g).ring, h0 g, (hs g).held⟩,
    ⟨hf.grade, hf.rollback, hf.revoked⟩⟩

/-- The completions that mailbox 8 holds, in a table that lists no other mailbox. -/
theorem held_dropped {q : Mbx} (h : q.held.length ≤ 16) (m : Nat) :
    (tblGet ({} : Mbx) (tblSet {} [] 8 { q with en := false, irqAll := false, rst := false }) m).held.length ≤ 16 := by
  rw [tblGet_tblSet]
  split
  · exact h
  · exact Nat.zero_le _

theorem Keeps.ite {c : Prop} {_ : Decidable c} {a b : State} (h1 : Keeps ps s0 a) (h2 : Keeps ps s0 b) :
    Keeps ps s0 (if c then a else b) := by
  split
  · exact h1
  · exact h2

theorem Keeps.foldl {α : Type} {f : State → α → State} (l : List α) (h : Keeps ps s0 s)
    (hf : ∀ t a, Keeps ps s0 t → Keeps ps s0 (f t a)) : Keeps ps s0 (l.foldl f s) := by
  induction l generalizing s with
  | nil => exact h
  | cons a r ih => exact ih (hf s a h)

theorem Keeps.upTo {f : State → Nat → State} (n : Nat) (h : Keeps ps s0 s)
    (hf : ∀ t k, Keeps ps s0 t → Keeps ps s0 (f t k)) : Keeps ps s0 (upTo n f s) :=
  Keeps.foldl _ h hf

theorem Keeps.foldlSnd {α β : Type} {f : β × State → α → β × State} {a : β × State} (l : List α) (h : Keeps ps s0 a.2)
    (hf : ∀ a k, Keeps ps s0 a.2 → Keeps ps s0 (f a k).2) : Keeps ps s0 (l.foldl f a).2 := by
  induction l generalizing a with
  | nil => exact h
  | cons k r ih => exact ih (hf a k h)

theorem Keeps.upToSnd {β : Type} {f : β × State → Nat → β × State} {a : β × State} (n : Nat) (h : Keeps ps s0 a.2)
    (hf : ∀ a k, Keeps ps s0 a.2 → Keeps ps s0 (f a k).2) : Keeps ps s0 (Machine.upTo n f a).2 :=
  Keeps.foldlSnd _ h hf

/-- An operation that may answer no state keeps what it answers. -/
def KeepsSome (ps : List Part) (s0 : State) (r : Option State) : Prop := ∀ t, r = some t → Keeps ps s0 t

theorem keepsSome_some {t : State} (h : Keeps ps s0 t) : KeepsSome ps s0 (some t) := by
  intro u hu
  cases hu
  exact h

theorem keepsSome_map {α : Type} {f : α → State} {x : Option α} (h : ∀ a, Keeps ps s0 (f a)) :
    KeepsSome ps s0 (x.map f) := by
  intro u hu
  obtain ⟨a, -, rfl⟩ := Option.map_eq_some_iff.1 hu
  exact h a

theorem keepsSome_none : KeepsSome ps s0 none := by
  intro u hu
  cases hu

theorem keepsSome_ite {c : Prop} {_ : Decidable c} {a b : Option State} (h1 : KeepsSome ps s0 a) (h2 : KeepsSome ps s0 b) :
    KeepsSome ps s0 (if c then a else b) := by
  split
  · exact h1
  · exact h2

theorem KeepsSome.get {r : Option State} {t : State} (h : KeepsSome ps s0 r) (e : r = some t) : Keeps ps s0 t := h t e

/-- The start of a strand keeps the state that it goes on in. -/
def KeepsGo (ps : List Part) (s0 : State) (r : GoDo) : Prop := ∀ t, r = .go t → Keeps ps s0 t

theorem keepsGo_ite {c : Prop} {_ : Decidable c} {a b : GoDo} (h1 : KeepsGo ps s0 a) (h2 : KeepsGo ps s0 b) :
    KeepsGo ps s0 (if c then a else b) := by
  split
  · exact h1
  · exact h2

/-- A name that a definition gives to a value can be forgotten. -/
theorem keepsGo_have {α : Type} {v : α} {f : α → GoDo} (h : ∀ x, KeepsGo ps s0 (f x)) :
    KeepsGo ps s0 (have x := v; f x) := h v

theorem Keeps.have_ {α : Type} {v : α} {f : α → State} (h : ∀ x, Keeps ps s0 (f x)) :
    Keeps ps s0 (have x := v; f x) := h v

theorem keepsGo_go {t : State} (h : Keeps ps s0 t) : KeepsGo ps s0 (.go t) := by
  intro u hu
  cases hu
  exact h

theorem keepsGo_fault (c a : Nat) : KeepsGo ps s0 (.fault c a) := by
  intro u hu
  cases hu

theorem KeepsGo.get {r : GoDo} {t : State} (h : KeepsGo ps s0 r) (e : r = .go t) : Keeps ps s0 t := h t e

/-- The start of an S-queue entry keeps the state that it goes on in. -/
def KeepsStart (ps : List Part) (s0 : State) (r : StartDo) : Prop := ∀ t, r = .go t → Keeps ps s0 t

theorem keepsStart_ite {c : Prop} {_ : Decidable c} {a b : StartDo} (h1 : KeepsStart ps s0 a) (h2 : KeepsStart ps s0 b) :
    KeepsStart ps s0 (if c then a else b) := by
  split
  · exact h1
  · exact h2

theorem keepsStart_go {t : State} (h : Keeps ps s0 t) : KeepsStart ps s0 (.go t) := by
  intro u hu
  cases hu
  exact h

theorem keepsStart_fault (c : Nat) : KeepsStart ps s0 (.fault c) := by
  intro u hu
  cases hu

theorem KeepsStart.get {r : StartDo} {t : State} (h : KeepsStart ps s0 r) (e : r = .go t) : Keeps ps s0 t := h t e

/-- A mailbox command's own effect keeps the state that it ends or waits in. -/
def KeepsEnd (ps : List Part) (s0 : State) (r : CmdEnd) : Prop :=
  match r with
  | .done _ _ _ t => Keeps ps s0 t
  | .wait t => Keeps ps s0 t

theorem keepsEnd_ite {c : Prop} {_ : Decidable c} {a b : CmdEnd} (h1 : KeepsEnd ps s0 a) (h2 : KeepsEnd ps s0 b) :
    KeepsEnd ps s0 (if c then a else b) := by
  split
  · exact h1
  · exact h2

theorem keepsEnd_done {st : Nat} {r0 r1 : Word} {t : State} (h : Keeps ps s0 t) : KeepsEnd ps s0 (.done st r0 r1 t) := h

theorem keepsEnd_wait {t : State} (h : Keeps ps s0 t) : KeepsEnd ps s0 (.wait t) := h

/-- What each way of a step's outcome says of the state it started from. -/
def KeepsOut (ps : List Part) (s0 : State) (r : Host.Outcome State Fault Refusal) : Prop :=
  ∀ t, r = .next t → Keeps ps s0 t

theorem keepsOut_next {t : State} (h : Keeps ps s0 t) : KeepsOut ps s0 (.next t) := by
  intro u hu
  cases hu
  exact h

theorem keepsOut_ite {c : Prop} {_ : Decidable c} {a b : Host.Outcome State Fault Refusal} (h1 : KeepsOut ps s0 a)
    (h2 : KeepsOut ps s0 b) : KeepsOut ps s0 (if c then a else b) := by
  split
  · exact h1
  · exact h2

theorem keepsOut_whenOk {ok : Bool} {t : State} (h0 : Keeps ps s0 s) (h : Keeps ps s0 t) :
    KeepsOut ps s0 (whenOk s ok t) := by
  unfold whenOk
  refine keepsOut_next ?_
  split
  · exact h
  · exact h0

end Sys2Proof.Laws
end

