-- ==== Sys2Proof/Laws/Memory.lean ====
section
/-! SUPPORT. Memory: what a stored code word changes, and the canonical form. -/

namespace Sys2Proof.Laws

open Sys2Proof Sys2Proof.Machine

theorem foldl_cells_wf (l : List Nat) (k : Nat → Nat) (v : Nat → Byte) (cs : List Host.Cell)
    (h : tblWf (0 : Byte) cs = true) :
    tblWf (0 : Byte) (l.foldl (fun cs j => cellPut cs (k j) (v j)) cs) = true := by
  induction l generalizing cs with
  | nil => exact h
  | cons a r ih => exact ih _ (tblSet_wf _ _ h)

/-- A stored code word keeps the canonical form. -/
theorem codePut_wf {m : Memory} (g : Nat) (c : Code) (h : m.wf) : (codePut m g c).wf :=
  foldl_cells_wf _ _ _ _ h

theorem cellAt_cellPut (cs : List Host.Cell) (a b : Nat) (v : Byte) :
    cellAt (cellPut cs a v) b = if a = b then v else cellAt cs b :=
  tblGet_tblSet _ _ _ _ _

theorem foldl_cells_other (l : List Nat) (g : Nat) (v : Nat → Byte) (cs : List Host.Cell) (a : Nat)
    (h : ∀ j ∈ l, 36 * g + j ≠ a) :
    cellAt (l.foldl (fun cs j => cellPut cs (36 * g + j) (v j)) cs) a = cellAt cs a := by
  induction l generalizing cs with
  | nil => rfl
  | cons b r ih =>
    rw [List.foldl_cons, ih _ fun j hj => h j (List.mem_cons_of_mem _ hj), cellAt_cellPut,
      if_neg (h b (by simp))]

theorem foldl_cells_same (n g : Nat) (v : Nat → Byte) (cs : List Host.Cell) (j : Nat) (hj : j < n) :
    cellAt ((List.range n).foldl (fun cs j => cellPut cs (36 * g + j) (v j)) cs) (36 * g + j) = v j := by
  induction n with
  | zero => omega
  | succ n ih =>
    rw [List.range_succ, List.foldl_append, List.foldl_cons, List.foldl_nil, cellAt_cellPut]
    split
    · rw [show n = j by omega]
    · exact ih (by omega)

/-- The symbols of a stored code word. -/
theorem cellAt_codePut (m : Memory) (g : Nat) (c : Code) (g' j : Nat) (hj : j < 36) :
    cellAt (codePut m g c).cells (36 * g' + j) =
      if g = g' then BitVec.ofNat 8 (codeSym c j) else cellAt m.cells (36 * g' + j) := by
  split
  · rename_i h
    subst h
    exact foldl_cells_same 36 g (fun j => BitVec.ofNat 8 (codeSym c j)) m.cells j hj
  · exact foldl_cells_other _ _ _ _ _ fun i hi => by
      have : i < 36 := by simpa using hi
      omega

/-- Another granule's code word is not changed by a store. -/
theorem codeAt_codePut_other (m : Memory) (g : Nat) (c : Code) (g' : Nat) (h : g' ≠ g) :
    codeAt (codePut m g c) g' = codeAt m g' := by
  unfold codeAt
  congr 1
  apply List.map_congr_left
  intro j hj
  rw [cellAt_codePut m g c g' j (by simpa using hj), if_neg (Ne.symm h)]

end Sys2Proof.Laws
end

