-- ==== Sys2Proof/Laws/KeepsBeads.lean ====
section
/-! SUPPORT. What each operation of memory, the logs, and the beads may write, and that it keeps the
invariant: one lemma per operation, which its callers cite. -/

set_option linter.unreachableTactic false
set_option linter.unusedTactic false

namespace Sys2Proof.Laws

open Sys2Proof Sys2Proof.Machine

theorem keeps_putCode {ps : List Part} {s0 s : State} (g : Nat) (c : Code)
    (hK : Keeps ps s0 s) (hP : sub [.mem] ps = true) :
    Keeps ps s0 (putCode s g c) := by
  unfold putCode
  try dsimp only
  repeat' first
    | with_reducible assumption
    | dsimp only [keeps_mk]
    | with_reducible refine KeepsMk.w_mem ?_ (sub_mem (by decide) hP) (fun x => x)
    | with_reducible refine KeepsMk.w_mem ?_ (sub_mem (by decide) hP) (fun hx => codePut_wf _ _ hx)
    | split

theorem keeps_stackPut {ps : List Part} {s0 s : State} (z : Nat) (l : Nat) (c : Code)
    (hK : Keeps ps s0 s) (hP : sub [.mem] ps = true) :
    Keeps ps s0 (stackPut z l c s) := by
  unfold stackPut
  try dsimp only
  repeat' first
    | with_reducible assumption
    | with_reducible refine keeps_putCode _ _ ?_ (sub_trans (by decide) hP)
    | split

theorem keeps_writePhys {ps : List Part} {s0 s : State} (a : Nat) (d : Gran)
    (hK : Keeps ps s0 s) (hP : sub [.mem] ps = true) :
    Keeps ps s0 (writePhys s a d) := by
  unfold writePhys
  try dsimp only
  repeat' first
    | with_reducible assumption
    | with_reducible refine keeps_stackPut _ _ _ ?_ (sub_trans (by decide) hP)
    | with_reducible refine keeps_putCode _ _ ?_ (sub_trans (by decide) hP)
    | split

theorem keeps_writeBytes {ps : List Part} {s0 s : State} (a : Nat) (l : List Byte)
    (hK : Keeps ps s0 s) (hP : sub [.mem] ps = true) :
    Keeps ps s0 (writeBytes s a l) := by
  unfold writeBytes
  try dsimp only
  repeat' first
    | with_reducible assumption
    | with_reducible refine keeps_writePhys _ _ ?_ (sub_trans (by decide) hP)
    | with_reducible refine Keeps.upToSnd _ ?_ (fun a k hK => ?_)
    | with_reducible refine Keeps.upTo _ ?_ (fun t k hK => ?_)
    | split

theorem keeps_emit {ps : List Part} {s0 s : State} (o : OutMsg)
    (hK : Keeps ps s0 s) (hP : sub [.out] ps = true) :
    Keeps ps s0 (emit o s) := by
  unfold emit
  try dsimp only
  repeat' first
    | with_reducible assumption
    | dsimp only [keeps_mk]
    | with_reducible refine KeepsMk.w_out ?_ (sub_mem (by decide) hP)
    | split

theorem keeps_drawn {ps : List Part} {s0 s : State}
    (hK : Keeps ps s0 s) (hP : sub [.free] ps = true) :
    Keeps ps s0 (drawn s) := by
  unfold drawn
  try dsimp only
  repeat' first
    | with_reducible assumption
    | dsimp only [keeps_mk]
    | with_reducible refine KeepsMk.w_free ?_ (sub_mem (by decide) hP)
    | split

theorem keeps_countEv {ps : List Part} {s0 s : State} (blk : Nat) (code : Nat) (n : Nat)
    (hK : Keeps ps s0 s) (hP : sub [.asy] ps = true) :
    Keeps ps s0 (countEv blk code n s) := by
  unfold countEv
  try dsimp only
  repeat' first
    | with_reducible assumption
    | dsimp only [keeps_mk]
    | with_reducible refine KeepsMk.w_asy ?_ (sub_mem (by decide) hP)
    | with_reducible refine Keeps.upToSnd _ ?_ (fun a k hK => ?_)
    | with_reducible refine Keeps.upTo _ ?_ (fun t k hK => ?_)
    | split

theorem keeps_uncountEv {ps : List Part} {s0 s : State} (blk : Nat) (code : Nat) (n : Nat)
    (hK : Keeps ps s0 s) (hP : sub [.asy] ps = true) :
    Keeps ps s0 (uncountEv blk code n s) := by
  unfold uncountEv
  try dsimp only
  repeat' first
    | with_reducible assumption
    | with_reducible refine keeps_countEv _ _ _ ?_ (sub_trans (by decide) hP)
    | split

theorem keeps_countLook {ps : List Part} {s0 s : State} (blk : Nat) (c : Code)
    (hK : Keeps ps s0 s) (hP : sub [.asy] ps = true) :
    Keeps ps s0 (countLook blk c s) := by
  unfold countLook
  try dsimp only
  repeat' first
    | with_reducible assumption
    | with_reducible refine keeps_countEv _ _ _ ?_ (sub_trans (by decide) hP)
    | split

theorem keeps_hubSet {ps : List Part} {s0 s : State} (src : Nat)
    (hK : Keeps ps s0 s) (hP : sub [.hub] ps = true) :
    Keeps ps s0 (hubSet src s) := by
  unfold hubSet
  try dsimp only
  repeat' first
    | with_reducible assumption
    | dsimp only [keeps_mk]
    | with_reducible refine KeepsMk.w_hub ?_ (sub_mem (by decide) hP)
    | split

theorem keeps_hubRaiseBy {ps : List Part} {s0 s : State} (blk : Nat) (src : Nat)
    (hK : Keeps ps s0 s) (hP : sub [.hub] ps = true) :
    Keeps ps s0 (hubRaiseBy blk src s) := by
  unfold hubRaiseBy
  try dsimp only
  repeat' first
    | with_reducible assumption
    | dsimp only [keeps_mk]
    | with_reducible refine KeepsMk.w_hub ?_ (sub_mem (by decide) hP)
    | with_reducible refine keeps_hubSet _ ?_ (sub_trans (by decide) hP)
    | split

theorem keeps_hubRaise {ps : List Part} {s0 s : State} (src : Nat)
    (hK : Keeps ps s0 s) (hP : sub [.hub] ps = true) :
    Keeps ps s0 (hubRaise src s) := by
  unfold hubRaise
  try dsimp only
  repeat' first
    | with_reducible assumption
    | with_reducible refine keeps_hubRaiseBy _ _ ?_ (sub_trans (by decide) hP)
    | split

theorem keeps_hubClear {ps : List Part} {s0 s : State} (src : Nat)
    (hK : Keeps ps s0 s) (hP : sub [.hub] ps = true) :
    Keeps ps s0 (hubClear src s) := by
  unfold hubClear
  try dsimp only
  repeat' first
    | with_reducible assumption
    | dsimp only [keeps_mk]
    | with_reducible refine KeepsMk.w_hub ?_ (sub_mem (by decide) hP)
    | split

theorem keeps_hubTake {ps : List Part} {s0 s : State} (src : Nat)
    (hK : Keeps ps s0 s) (hP : sub [.hub] ps = true) :
    Keeps ps s0 (hubTake src s) := by
  unfold hubTake
  try dsimp only
  repeat' first
    | with_reducible assumption
    | dsimp only [keeps_mk]
    | with_reducible refine KeepsMk.w_hub ?_ (sub_mem (by decide) hP)
    | with_reducible refine keeps_hubClear _ ?_ (sub_trans (by decide) hP)
    | split

theorem keeps_sendMsix {ps : List Part} {s0 s : State} (v : Nat)
    (hK : Keeps ps s0 s) (hP : sub [.out] ps = true) :
    Keeps ps s0 (sendMsix v s) := by
  unfold sendMsix
  try dsimp only
  repeat' first
    | with_reducible assumption
    | with_reducible refine keeps_emit _ ?_ (sub_trans (by decide) hP)
    | split

theorem keeps_msixRequest {ps : List Part} {s0 s : State} (v : Nat)
    (hK : Keeps ps s0 s) (hP : sub [.hub, .out] ps = true) :
    Keeps ps s0 (msixRequest v s) := by
  unfold msixRequest
  try dsimp only
  repeat' first
    | with_reducible assumption
    | dsimp only [keeps_mk]
    | with_reducible refine KeepsMk.w_hub ?_ (sub_mem (by decide) hP)
    | with_reducible refine keeps_sendMsix _ ?_ (sub_trans (by decide) hP)
    | split

theorem keeps_hubTick {ps : List Part} {s0 s : State}
    (hK : Keeps ps s0 s) (hP : sub [.hub, .out] ps = true) :
    Keeps ps s0 (hubTick s) := by
  unfold hubTick
  try dsimp only
  repeat' first
    | with_reducible assumption
    | dsimp only [keeps_mk]
    | with_reducible refine KeepsMk.w_hub ?_ (sub_mem (by decide) hP)
    | with_reducible refine keeps_msixRequest _ ?_ (sub_trans (by decide) hP)
    | with_reducible refine Keeps.foldl _ ?_ (fun t a hK => ?_)
    | with_reducible refine Keeps.foldlSnd _ ?_ (fun a k hK => ?_)
    | with_reducible refine Keeps.upToSnd _ ?_ (fun a k hK => ?_)
    | with_reducible refine Keeps.upTo _ ?_ (fun t k hK => ?_)
    | split

theorem keeps_recordFault {ps : List Part} {s0 s : State} (r : FaultRec)
    (hK : Keeps ps s0 s) (hP : sub [.ledger, .faults] ps = true) :
    Keeps ps s0 (recordFault r s) := by
  have hlen : ∀ (x : FaultRec) (l : List FaultRec), (insertRec x l).length = l.length + 1 := by
    intro x l
    induction l with
    | nil => rfl
    | cons a r ih =>
      unfold insertRec
      split <;> simp [ih]
  unfold recordFault
  dsimp only
  split
  · rename_i hlt
    dsimp only [keeps_mk]
    exact KeepsMk.over (s := s) (.inl rfl) (.inl rfl) (.inl rfl) (.inl rfl) (.inl rfl) (.inl rfl) (.inl rfl)
      (.inl rfl) (.inl rfl) (.inl rfl) (.inl rfl) (.inl rfl) (.inr ⟨sub_mem (by decide) hP, (fun x => x)⟩) (.inl rfl)
      (.inr ⟨sub_mem (by decide) hP, fun _ => by rw [hlen]; omega, (fun x => x)⟩) (.inl rfl) (.inl rfl) (.inl rfl)
      (.inl rfl) (.inl rfl) (.inl rfl) (.inl rfl) (.inl rfl) hK
  · dsimp only [keeps_mk]
    exact KeepsMk.w_faults hK (sub_mem (by decide) hP) (fun x => x) (fun x => x)

theorem keeps_recordAt {ps : List Part} {s0 s : State} (cls : Nat) (source : Nat) (detail : Nat)
    (hK : Keeps ps s0 s) (hP : sub [.ledger, .faults] ps = true) :
    Keeps ps s0 (recordAt cls source detail s) := by
  unfold recordAt
  try dsimp only
  repeat' first
    | with_reducible assumption
    | with_reducible refine keeps_recordFault _ ?_ (sub_trans (by decide) hP)
    | split

theorem keeps_recordAddr {ps : List Part} {s0 s : State} (cls : Nat) (source : Nat) (addr : Nat) (detail : Nat)
    (hK : Keeps ps s0 s) (hP : sub [.ledger, .faults] ps = true) :
    Keeps ps s0 (recordAddr cls source addr detail s) := by
  unfold recordAddr
  try dsimp only
  repeat' first
    | with_reducible assumption
    | with_reducible refine keeps_recordFault _ ?_ (sub_trans (by decide) hP)
    | split

theorem keeps_recordMore {ps : List Part} {s0 s : State} (cls : Nat) (source : Nat) (addr : Nat) (detail : Nat) (more
    : List Word)
    (hK : Keeps ps s0 s) (hP : sub [.ledger, .faults] ps = true) :
    Keeps ps s0 (recordMore cls source addr detail more s) := by
  unfold recordMore
  try dsimp only
  repeat' first
    | with_reducible assumption
    | with_reducible refine keeps_recordFault _ ?_ (sub_trans (by decide) hP)
    | split

theorem keeps_endService {ps : List Part} {s0 s : State} (cls : Nat)
    (hK : Keeps ps s0 s) (hP : sub [.clock] ps = true) :
    Keeps ps s0 (endService cls s) := by
  unfold endService
  try dsimp only
  repeat' first
    | with_reducible assumption
    | dsimp only [keeps_mk]
    | with_reducible refine KeepsMk.w_clock ?_ (sub_mem (by decide) hP) (fun x => x)
    | split

theorem keeps_traceItem {ps : List Part} {s0 s : State} (i : TraceItem)
    (hK : Keeps ps s0 s) (hP : sub [.ledger] ps = true) :
    Keeps ps s0 (traceItem i s) := by
  unfold traceItem
  try dsimp only
  repeat' first
    | with_reducible assumption
    | dsimp only [keeps_mk]
    | with_reducible refine KeepsMk.w_ledger ?_ (sub_mem (by decide) hP) (fun x => x)
    | with_reducible refine KeepsMk.w_ledger ?_ (sub_mem (by decide) hP) ?_
    | (intro hw; simp only [List.length_append, List.length_singleton]; omega)
    | split

theorem keeps_highWater {ps : List Part} {s0 s : State}
    (hK : Keeps ps s0 s) (hP : sub [.faults, .hub] ps = true) :
    Keeps ps s0 (highWater s) := by
  unfold highWater
  try dsimp only
  repeat' first
    | with_reducible assumption
    | dsimp only [keeps_mk]
    | with_reducible refine KeepsMk.w_faults ?_ (sub_mem (by decide) hP) (fun x => x) (fun x => x)
    | with_reducible refine keeps_hubRaise _ ?_ (sub_trans (by decide) hP)
    | split

theorem keeps_writeRecord {ps : List Part} {s0 s : State}
    (hK : Keeps ps s0 s) (hP : sub [.ledger, .faults, .hub, .asy] ps = true) :
    Keeps ps s0 (writeRecord s) := by
  unfold writeRecord
  split
  · assumption
  · rename_i r rest hw
    refine keeps_traceItem _ (keeps_countEv _ _ _ (keeps_highWater ?_ (sub_trans (by decide) hP)) (sub_trans (by
        decide) hP))
      (sub_trans (by decide) hP)
    dsimp only [keeps_mk]
    refine KeepsMk.w_faults hK (sub_mem (by decide) hP) ?_ ?_
    · rw [hw]
      simp only [List.length_cons]
      omega
    · intro hr
      split
      · simp only [List.length_drop, List.length_append, List.length_singleton]
        omega
      · rename_i hn
        simpa using hn

theorem keeps_writeAllRecords {ps : List Part} {s0 s : State}
    (hK : Keeps ps s0 s) (hP : sub [.ledger, .faults, .hub, .asy] ps = true) :
    Keeps ps s0 (writeAllRecords s) := by
  unfold writeAllRecords
  try dsimp only
  repeat' first
    | with_reducible assumption
    | with_reducible refine keeps_writeRecord ?_ (sub_trans (by decide) hP)
    | with_reducible refine Keeps.upToSnd _ ?_ (fun a k hK => ?_)
    | with_reducible refine Keeps.upTo _ ?_ (fun t k hK => ?_)
    | split

theorem keeps_setBead {ps : List Part} {s0 s : State} (o : Nat) (b : Bead)
    (hK : Keeps ps s0 s) (hP : sub [.beads] ps = true) :
    Keeps ps s0 (setBead o b s) := by
  unfold setBead
  try dsimp only
  repeat' first
    | with_reducible assumption
    | dsimp only [keeps_mk]
    | with_reducible refine KeepsMk.w_beads ?_ (sub_mem (by decide) hP)
    | split

theorem keeps_modBead {ps : List Part} {s0 s : State} (o : Nat) (f : Bead → Bead)
    (hK : Keeps ps s0 s) (hP : sub [.beads] ps = true) :
    Keeps ps s0 (modBead o f s) := by
  unfold modBead
  try dsimp only
  repeat' first
    | with_reducible assumption
    | with_reducible refine keeps_setBead _ _ ?_ (sub_trans (by decide) hP)
    | split

theorem keeps_setPos {ps : List Part} {s0 s : State} (p : Nat) (c : Nat)
    (hK : Keeps ps s0 s) (hP : sub [.nutas] ps = true) :
    Keeps ps s0 (setPos p c s) := by
  unfold setPos
  try dsimp only
  repeat' first
    | with_reducible assumption
    | dsimp only [keeps_mk]
    | with_reducible refine KeepsMk.w_nutas ?_ (sub_mem (by decide) hP)
    | split

theorem keeps_retire {ps : List Part} {s0 s : State} (o : Ord) (h : HartN) (f : Hart → Hart)
    (hK : Keeps ps s0 s) (hP : sub [.beads, .asy] ps = true) :
    Keeps ps s0 (retire o h f s) := by
  unfold retire
  try dsimp only
  repeat' first
    | with_reducible assumption
    | with_reducible refine keeps_modBead _ _ ?_ (sub_trans (by decide) hP)
    | with_reducible refine keeps_countEv _ _ _ ?_ (sub_trans (by decide) hP)
    | split

theorem keeps_trapAt {ps : List Part} {s0 s : State} (o : Ord) (h : HartN) (cause : Nat) (tval : Word)
    (hK : Keeps ps s0 s) (hP : sub [.beads] ps = true) :
    Keeps ps s0 (trapAt o h cause tval s) := by
  unfold trapAt
  try dsimp only
  repeat' first
    | with_reducible assumption
    | with_reducible refine keeps_modBead _ _ ?_ (sub_trans (by decide) hP)
    | split

theorem keeps_holdAt {ps : List Part} {s0 s : State} (o : Ord) (h : HartN) (why : HoldBy)
    (hK : Keeps ps s0 s) (hP : sub [.beads] ps = true) :
    Keeps ps s0 (holdAt o h why s) := by
  unfold holdAt
  try dsimp only
  repeat' first
    | with_reducible assumption
    | with_reducible refine keeps_modBead _ _ ?_ (sub_trans (by decide) hP)
    | split

theorem keeps_issueHeld {ps : List Part} {s0 s : State} (o : Ord) (h : HartN) (id : Nat)
    (hK : Keeps ps s0 s) (hP : sub [.beads, .asy] ps = true) :
    Keeps ps s0 (issueHeld o h id s) := by
  unfold issueHeld
  try dsimp only
  repeat' first
    | with_reducible assumption
    | with_reducible refine keeps_modBead _ _ ?_ (sub_trans (by decide) hP)
    | with_reducible refine keeps_countEv _ _ _ ?_ (sub_trans (by decide) hP)
    | split

theorem keeps_storeGran {ps : List Part} {s0 s : State} (g : Nat) (c : Code)
    (hK : Keeps ps s0 s) (hP : sub [.mem] ps = true) :
    Keeps ps s0 (storeGran g c s) := by
  unfold storeGran
  try dsimp only
  repeat' first
    | with_reducible assumption
    | dsimp only [keeps_mk]
    | with_reducible refine KeepsMk.w_mem ?_ (sub_mem (by decide) hP) (fun x => x)
    | with_reducible refine keeps_putCode _ _ ?_ (sub_trans (by decide) hP)
    | split

theorem keeps_dmemPut {ps : List Part} {s0 s : State} (o : Nat) (g : Nat) (c : Code)
    (hK : Keeps ps s0 s) (hP : sub [.mem] ps = true) :
    Keeps ps s0 (dmemPut o g c s) := by
  unfold dmemPut
  try dsimp only
  repeat' first
    | with_reducible assumption
    | with_reducible refine keeps_storeGran _ _ ?_ (sub_trans (by decide) hP)
    | split

theorem keeps_csrDo {ps : List Part} {s0 s : State} (o : Ord) (h : HartN) (len : Nat) (u : CsrUse)
    (hK : Keeps ps s0 s) (hP : sub [.beads, .asy] ps = true) :
    Keeps ps s0 (csrDo o h len u s) := by
  unfold csrDo
  try dsimp only
  repeat' first
    | with_reducible assumption
    | with_reducible refine keeps_modBead _ _ ?_ (sub_trans (by decide) hP)
    | with_reducible refine keeps_retire _ _ _ ?_ (sub_trans (by decide) hP)
    | split

theorem keeps_execScalarInstruction {ps : List Part} {s0 s : State} (o : Ord) (h : HartN)
    (hK : Keeps ps s0 s) (hP : sub [.beads, .asy] ps = true) :
    KeepsOut ps s0 (execScalarInstruction o h s) := by
  unfold execScalarInstruction
  try dsimp only
  repeat' first
    | with_reducible assumption
    | with_reducible refine keeps_csrDo _ _ _ _ ?_ (sub_trans (by decide) hP)
    | with_reducible refine keeps_trapAt _ _ _ _ ?_ (sub_trans (by decide) hP)
    | with_reducible refine keeps_retire _ _ _ ?_ (sub_trans (by decide) hP)
    | with_reducible refine keepsOut_next ?_
    | with_reducible refine keepsOut_whenOk ?_ ?_
    | split

theorem keeps_execCsrWrite {ps : List Part} {s0 s : State} (o : Ord) (h : HartN)
    (hK : Keeps ps s0 s) (hP : sub [.beads, .asy] ps = true) :
    KeepsOut ps s0 (execCsrWrite o h s) := by
  unfold execCsrWrite
  try dsimp only
  repeat' first
    | with_reducible assumption
    | with_reducible refine keeps_csrDo _ _ _ _ ?_ (sub_trans (by decide) hP)
    | with_reducible refine keepsOut_next ?_
    | with_reducible refine keepsOut_whenOk ?_ ?_
    | split

theorem keeps_execWfi {ps : List Part} {s0 s : State} (o : Ord) (h : HartN)
    (hK : Keeps ps s0 s) (hP : sub [.beads, .asy] ps = true) :
    KeepsOut ps s0 (execWfi o h s) := by
  unfold execWfi
  try dsimp only
  repeat' first
    | with_reducible assumption
    | with_reducible refine keeps_retire _ _ _ ?_ (sub_trans (by decide) hP)
    | with_reducible refine keepsOut_next ?_
    | with_reducible refine keepsOut_whenOk ?_ ?_
    | split

theorem keeps_fenceDo {ps : List Part} {s0 s : State} (o : Ord) (h : HartN) (len : Nat) (waits : Bool)
    (hK : Keeps ps s0 s) (hP : sub [.beads, .asy] ps = true) :
    Keeps ps s0 (fenceDo o h len waits s) := by
  unfold fenceDo
  try dsimp only
  repeat' first
    | with_reducible assumption
    | with_reducible refine keeps_holdAt _ _ _ ?_ (sub_trans (by decide) hP)
    | with_reducible refine keeps_retire _ _ _ ?_ (sub_trans (by decide) hP)
    | split

theorem keeps_execFence {ps : List Part} {s0 s : State} (o : Ord) (h : HartN)
    (hK : Keeps ps s0 s) (hP : sub [.beads, .asy] ps = true) :
    KeepsOut ps s0 (execFence o h s) := by
  unfold execFence
  try dsimp only
  repeat' first
    | with_reducible assumption
    | with_reducible refine keeps_fenceDo _ _ _ _ ?_ (sub_trans (by decide) hP)
    | with_reducible refine keepsOut_next ?_
    | with_reducible refine keepsOut_whenOk ?_ ?_
    | split

theorem keeps_execFenceI {ps : List Part} {s0 s : State} (o : Ord) (h : HartN)
    (hK : Keeps ps s0 s) (hP : sub [.beads, .asy] ps = true) :
    KeepsOut ps s0 (execFenceI o h s) := by
  unfold execFenceI
  try dsimp only
  repeat' first
    | with_reducible assumption
    | with_reducible refine keeps_fenceDo _ _ _ _ ?_ (sub_trans (by decide) hP)
    | with_reducible refine keepsOut_next ?_
    | with_reducible refine keepsOut_whenOk ?_ ?_
    | split

theorem keeps_execQfipTrap {ps : List Part} {s0 s : State} (o : Ord) (h : HartN)
    (hK : Keeps ps s0 s) (hP : sub [.beads] ps = true) :
    KeepsOut ps s0 (execQfipTrap o h s) := by
  unfold execQfipTrap
  try dsimp only
  repeat' first
    | with_reducible assumption
    | with_reducible refine keeps_modBead _ _ ?_ (sub_trans (by decide) hP)
    | with_reducible refine keepsOut_next ?_
    | with_reducible refine keepsOut_whenOk ?_ ?_
    | split

theorem keeps_sendMsg {ps : List Part} {s0 s : State} (m : Msg)
    (hK : Keeps ps s0 s) (hP : sub [.fabric] ps = true) :
    Keeps ps s0 (sendMsg m s) := by
  unfold sendMsg
  try dsimp only
  repeat' first
    | with_reducible assumption
    | dsimp only [keeps_mk]
    | with_reducible refine KeepsMk.w_fabric ?_ (sub_mem (by decide) hP)
    | split

theorem keeps_setArrivals {ps : List Part} {s0 s : State} (n : Nat) (l : List Msg)
    (hK : Keeps ps s0 s) (hP : sub [.fabric] ps = true) :
    Keeps ps s0 (setArrivals n l s) := by
  unfold setArrivals
  try dsimp only
  repeat' first
    | with_reducible assumption
    | dsimp only [keeps_mk]
    | with_reducible refine KeepsMk.w_fabric ?_ (sub_mem (by decide) hP)
    | split

theorem keeps_popArrival {ps : List Part} {s0 s : State} (n : Nat)
    (hK : Keeps ps s0 s) (hP : sub [.fabric] ps = true) :
    Keeps ps s0 (popArrival n s) := by
  unfold popArrival
  try dsimp only
  repeat' first
    | with_reducible assumption
    | with_reducible refine keeps_setArrivals _ _ ?_ (sub_trans (by decide) hP)
    | split

theorem keeps_stopQueue {ps : List Part} {s0 s : State} (o : Nat) (q : Nat) (e : QEntry) (code : Nat) (part : Nat)
    (addr : Nat)
    (hK : Keeps ps s0 s) (hP : sub [.beads, .ledger, .faults, .asy] ps = true) :
    Keeps ps s0 (stopQueue o q e code part addr s) := by
  unfold stopQueue
  try dsimp only
  repeat' first
    | with_reducible assumption
    | with_reducible refine keeps_recordAddr _ _ _ _ ?_ (sub_trans (by decide) hP)
    | with_reducible refine keeps_countEv _ _ _ ?_ (sub_trans (by decide) hP)
    | with_reducible refine keeps_setBead _ _ ?_ (sub_trans (by decide) hP)
    | with_reducible refine keeps_recordAt _ _ _ ?_ (sub_trans (by decide) hP)
    | with_reducible refine Keeps.upToSnd _ ?_ (fun a k hK => ?_)
    | with_reducible refine Keeps.upTo _ ?_ (fun t k hK => ?_)
    | split

theorem keeps_recordInvalid {ps : List Part} {s0 s : State} (o : Nat) (addr : Nat) (form : Nat)
    (hK : Keeps ps s0 s) (hP : sub [.ledger, .faults] ps = true) :
    Keeps ps s0 (recordInvalid o addr form s) := by
  unfold recordInvalid
  try dsimp only
  repeat' first
    | with_reducible assumption
    | with_reducible refine keeps_recordAddr _ _ _ _ ?_ (sub_trans (by decide) hP)
    | split

theorem keeps_settleHead {ps : List Part} {s0 s : State} (o : Nat) (q : Nat)
    (hK : Keeps ps s0 s) (hP : sub [.beads, .ledger, .faults, .asy] ps = true) :
    Keeps ps s0 (settleHead o q s) := by
  unfold settleHead
  try dsimp only
  repeat' first
    | with_reducible assumption
    | with_reducible refine keeps_stopQueue _ _ _ _ _ _ ?_ (sub_trans (by decide) hP)
    | split

theorem keeps_failEntry {ps : List Part} {s0 s : State} (o : Nat) (q : Nat) (id : Nat) (code : Nat) (part : Nat)
    (addr : Nat)
    (hK : Keeps ps s0 s) (hP : sub [.beads, .ledger, .faults, .asy] ps = true) :
    Keeps ps s0 (failEntry o q id code part addr s) := by
  unfold failEntry
  try dsimp only
  repeat' first
    | with_reducible assumption
    | with_reducible refine keeps_modBead _ _ ?_ (sub_trans (by decide) hP)
    | with_reducible refine keeps_settleHead _ _ ?_ (sub_trans (by decide) hP)
    | split

theorem keeps_popHead {ps : List Part} {s0 s : State} (o : Nat) (q : Nat)
    (hK : Keeps ps s0 s) (hP : sub [.beads, .ledger, .faults, .asy] ps = true) :
    Keeps ps s0 (popHead o q s) := by
  unfold popHead
  try dsimp only
  repeat' first
    | with_reducible assumption
    | with_reducible refine keeps_modBead _ _ ?_ (sub_trans (by decide) hP)
    | with_reducible refine keeps_settleHead _ _ ?_ (sub_trans (by decide) hP)
    | with_reducible refine Keeps.upToSnd _ ?_ (fun a k hK => ?_)
    | with_reducible refine Keeps.upTo _ ?_ (fun t k hK => ?_)
    | split

theorem keeps_forbidden {ps : List Part} {s0 s : State} (off : Nat)
    (hK : Keeps ps s0 s) (hP : sub [.ledger, .faults] ps = true) :
    Keeps ps s0 (forbidden off s) := by
  unfold forbidden
  try dsimp only
  repeat' first
    | with_reducible assumption
    | with_reducible refine keeps_recordAddr _ _ _ _ ?_ (sub_trans (by decide) hP)
    | split

theorem keeps_regWriteRow {ps : List Part} {s0 s : State} (m : Master) (off : Nat) (f : State → State)
    (hK : Keeps ps s0 s) (hP : sub [.ledger, .faults] ps = true)
    (hf : ∀ t, Keeps ps s0 t → Keeps ps s0 (f t)) :
    Keeps ps s0 (regWriteRow m off f s) := by
  unfold regWriteRow
  try dsimp only
  repeat' first
    | with_reducible assumption
    | with_reducible refine keeps_forbidden _ ?_ (sub_trans (by decide) hP)
    | with_reducible refine hf _ ?_
    | split

theorem keeps_regReadRow {ps : List Part} {s0 s : State} (off : Nat) (w : Width) (v : Word) (clear : State → State)
    (hK : Keeps ps s0 s) (hP : sub [.out] ps = true)
    (hf : ∀ t, Keeps ps s0 t → Keeps ps s0 (clear t)) :
    Keeps ps s0 (regReadRow off w v clear s) := by
  unfold regReadRow
  try dsimp only
  repeat' first
    | with_reducible assumption
    | with_reducible refine keeps_emit _ ?_ (sub_trans (by decide) hP)
    | with_reducible refine hf _ ?_
    | split

theorem keeps_setClasp {ps : List Part} {s0 s : State} (k : Nat) (n : Nat)
    (hK : Keeps ps s0 s) (hP : sub [.clasps] ps = true) :
    Keeps ps s0 (setClasp k n s) := by
  unfold setClasp
  try dsimp only
  repeat' first
    | with_reducible assumption
    | dsimp only [keeps_mk]
    | with_reducible refine KeepsMk.w_clasps ?_ (sub_mem (by decide) hP)
    | split

theorem keeps_claspAdd {ps : List Part} {s0 s : State} (k : Nat) (n : Nat)
    (hK : Keeps ps s0 s) (hP : sub [.clasps, .asy] ps = true) :
    Keeps ps s0 (claspAdd k n s) := by
  unfold claspAdd
  try dsimp only
  repeat' first
    | with_reducible assumption
    | with_reducible refine keeps_setClasp _ _ ?_ (sub_trans (by decide) hP)
    | with_reducible refine keeps_countEv _ _ _ ?_ (sub_trans (by decide) hP)
    | split

theorem keeps_claspRefuse {ps : List Part} {s0 s : State} (k : Nat) (word : Nat) (node : Nat) (mod : Nat) (op : Nat)
    (hK : Keeps ps s0 s) (hP : sub [.clasps, .ledger, .faults, .asy] ps = true) :
    Keeps ps s0 (claspRefuse k word node mod op s) := by
  unfold claspRefuse
  try dsimp only
  repeat' first
    | with_reducible assumption
    | dsimp only [keeps_mk]
    | with_reducible refine KeepsMk.w_clasps ?_ (sub_mem (by decide) hP)
    | with_reducible refine keeps_countEv _ _ _ ?_ (sub_trans (by decide) hP)
    | with_reducible refine keeps_recordFault _ ?_ (sub_trans (by decide) hP)
    | split

theorem keeps_claspReach {ps : List Part} {s0 s : State} (k : Nat) (rank : Nat) (what : ClaspDo)
    (hK : Keeps ps s0 s) (hP : sub [.clasps] ps = true) :
    Keeps ps s0 (claspReach k rank what s) := by
  unfold claspReach
  try dsimp only
  repeat' first
    | with_reducible assumption
    | dsimp only [keeps_mk]
    | with_reducible refine KeepsMk.w_clasps ?_ (sub_mem (by decide) hP)
    | split

theorem keeps_claspSignal {ps : List Part} {s0 s : State} (o : Nat) (n : Nat) (k : Nat)
    (hK : Keeps ps s0 s) (hP : sub [.clasps] ps = true) :
    Keeps ps s0 (claspSignal o n k s) := by
  unfold claspSignal
  try dsimp only
  repeat' first
    | with_reducible assumption
    | with_reducible refine keeps_claspReach _ _ _ ?_ (sub_trans (by decide) hP)
    | split

theorem keeps_setWaiters {ps : List Part} {s0 s : State} (k : Nat) (l : List Waiter)
    (hK : Keeps ps s0 s) (hP : sub [.clasps] ps = true) :
    Keeps ps s0 (setWaiters k l s) := by
  unfold setWaiters
  try dsimp only
  repeat' first
    | with_reducible assumption
    | dsimp only [keeps_mk]
    | with_reducible refine KeepsMk.w_clasps ?_ (sub_mem (by decide) hP)
    | split

theorem keeps_claspWait {ps : List Part} {s0 s : State} (k : Nat) (n : Nat) (t : Nat) (w : WaitBy)
    (hK : Keeps ps s0 s) (hP : sub [.clasps] ps = true) :
    Keeps ps s0 (claspWait k n t w s) := by
  unfold claspWait
  try dsimp only
  repeat' first
    | with_reducible assumption
    | with_reducible refine keeps_setWaiters _ _ ?_ (sub_trans (by decide) hP)
    | split

theorem keeps_claspAnswer {ps : List Part} {s0 s : State} (k : Nat) (w : WaitBy) (st : Nat)
    (hK : Keeps ps s0 s) (hP : sub [.beads, .fabric, .ledger, .faults, .asy] ps = true) :
    Keeps ps s0 (claspAnswer k w st s) := by
  unfold claspAnswer
  try dsimp only
  repeat' first
    | with_reducible assumption
    | with_reducible refine keeps_sendMsg _ ?_ (sub_trans (by decide) hP)
    | with_reducible refine keeps_modBead _ _ ?_ (sub_trans (by decide) hP)
    | with_reducible refine keeps_setArrivals _ _ ?_ (sub_trans (by decide) hP)
    | with_reducible refine keeps_failEntry _ _ _ _ _ _ ?_ (sub_trans (by decide) hP)
    | split

theorem keeps_claspTake {ps : List Part} {s0 s : State} (k : Nat) (n : Nat) (w : WaitBy)
    (hK : Keeps ps s0 s) (hP : sub [.beads, .fabric, .clasps, .ledger, .faults, .asy] ps = true) :
    Keeps ps s0 (claspTake k n w s) := by
  unfold claspTake
  try dsimp only
  repeat' first
    | with_reducible assumption
    | with_reducible refine keeps_setClasp _ _ ?_ (sub_trans (by decide) hP)
    | with_reducible refine keeps_claspAnswer _ _ _ ?_ (sub_trans (by decide) hP)
    | with_reducible refine keeps_countEv _ _ _ ?_ (sub_trans (by decide) hP)
    | split

theorem keeps_remoteSignal {ps : List Part} {s0 s : State} (k : Nat) (cnt : Nat) (m : Msg)
    (hK : Keeps ps s0 s) (hP : sub [.fabric, .clasps, .ledger, .faults, .asy] ps = true) :
    Keeps ps s0 (remoteSignal k cnt m s) := by
  unfold remoteSignal
  try dsimp only
  repeat' first
    | with_reducible assumption
    | dsimp only [keeps_mk]
    | with_reducible refine KeepsMk.w_clasps ?_ (sub_mem (by decide) hP)
    | with_reducible refine keeps_sendMsg _ ?_ (sub_trans (by decide) hP)
    | with_reducible refine keeps_claspAdd _ _ ?_ (sub_trans (by decide) hP)
    | with_reducible refine keeps_claspRefuse _ _ _ _ _ ?_ (sub_trans (by decide) hP)
    | split

theorem keeps_clpWrite {ps : List Part} {s0 s : State} (k : Nat) (n : Nat)
    (hK : Keeps ps s0 s) (hP : sub [.clasps, .ledger, .faults, .hub] ps = true) :
    Keeps ps s0 (clpWrite k n s) := by
  unfold clpWrite
  try dsimp only
  repeat' first
    | with_reducible assumption
    | dsimp only [keeps_mk]
    | with_reducible refine KeepsMk.w_clasps ?_ (sub_mem (by decide) hP)
    | with_reducible refine keeps_recordAddr _ _ _ _ ?_ (sub_trans (by decide) hP)
    | with_reducible refine keeps_setClasp _ _ ?_ (sub_trans (by decide) hP)
    | with_reducible refine keeps_hubRaiseBy _ _ ?_ (sub_trans (by decide) hP)
    | split

theorem keeps_applyAct {ps : List Part} {s0 s : State} (a : ClaspAct)
    (hK : Keeps ps s0 s) (hP : sub [.beads, .fabric, .clasps, .ledger, .faults, .hub, .asy] ps = true) :
    Keeps ps s0 (applyAct a s) := by
  unfold applyAct
  try dsimp only
  repeat' first
    | with_reducible assumption
    | with_reducible refine keeps_claspTake _ _ _ ?_ (sub_trans (by decide) hP)
    | with_reducible refine keeps_claspAdd _ _ ?_ (sub_trans (by decide) hP)
    | with_reducible refine keeps_modBead _ _ ?_ (sub_trans (by decide) hP)
    | with_reducible refine keeps_remoteSignal _ _ _ ?_ (sub_trans (by decide) hP)
    | with_reducible refine keeps_failEntry _ _ _ _ _ _ ?_ (sub_trans (by decide) hP)
    | with_reducible refine keeps_countEv _ _ _ ?_ (sub_trans (by decide) hP)
    | with_reducible refine keeps_claspRefuse _ _ _ _ _ ?_ (sub_trans (by decide) hP)
    | with_reducible refine keeps_clpWrite _ _ ?_ (sub_trans (by decide) hP)
    | split

theorem keeps_applyActs {ps : List Part} {s0 s : State} (p : ClaspAct → Bool)
    (hK : Keeps ps s0 s) (hP : sub [.beads, .fabric, .clasps, .ledger, .faults, .hub, .asy] ps = true) :
    Keeps ps s0 (applyActs p s) := by
  unfold applyActs
  try dsimp only
  repeat' first
    | with_reducible assumption
    | dsimp only [keeps_mk]
    | with_reducible refine KeepsMk.w_clasps ?_ (sub_mem (by decide) hP)
    | with_reducible refine keeps_applyAct _ ?_ (sub_trans (by decide) hP)
    | with_reducible refine Keeps.foldl _ ?_ (fun t a hK => ?_)
    | with_reducible refine Keeps.foldlSnd _ ?_ (fun a k hK => ?_)
    | split

theorem keeps_claspSteps {ps : List Part} {s0 s : State} (k : Nat)
    (hK : Keeps ps s0 s) (hP : sub [.beads, .fabric, .clasps, .ledger, .faults, .hub, .asy] ps = true) :
    Keeps ps s0 (claspSteps k s) := by
  unfold claspSteps
  try dsimp only
  repeat' first
    | with_reducible assumption
    | with_reducible refine keeps_applyActs _ ?_ (sub_trans (by decide) hP)
    | split

theorem keeps_claspGrant {ps : List Part} {s0 s : State} (k : Nat)
    (hK : Keeps ps s0 s) (hP : sub [.beads, .fabric, .clasps, .ledger, .faults, .asy] ps = true) :
    Keeps ps s0 (claspGrant k s) := by
  unfold claspGrant
  try dsimp only
  repeat' first
    | with_reducible assumption
    | with_reducible refine keeps_setClasp _ _ ?_ (sub_trans (by decide) hP)
    | with_reducible refine keeps_setWaiters _ _ ?_ (sub_trans (by decide) hP)
    | with_reducible refine keeps_claspAnswer _ _ _ ?_ (sub_trans (by decide) hP)
    | with_reducible refine keeps_countEv _ _ _ ?_ (sub_trans (by decide) hP)
    | split

theorem keeps_execClaspWaiterSatisfied {ps : List Part} {s0 s : State} (c : ClaspId)
    (hK : Keeps ps s0 s) (hP : sub [.beads, .fabric, .clasps, .ledger, .faults, .hub, .asy] ps = true) :
    KeepsOut ps s0 (execClaspWaiterSatisfied c s) := by
  unfold execClaspWaiterSatisfied
  try dsimp only
  repeat' first
    | with_reducible assumption
    | with_reducible refine keeps_claspSteps _ ?_ (sub_trans (by decide) hP)
    | with_reducible refine keeps_claspGrant _ ?_ (sub_trans (by decide) hP)
    | with_reducible refine keepsOut_next ?_
    | with_reducible refine keepsOut_whenOk ?_ ?_
    | split

theorem keeps_claspTimeouts {ps : List Part} {s0 s : State} (k : Nat)
    (hK : Keeps ps s0 s) (hP : sub [.beads, .fabric, .clasps, .ledger, .faults, .asy] ps = true) :
    Keeps ps s0 (claspTimeouts k s) := by
  unfold claspTimeouts
  try dsimp only
  repeat' first
    | with_reducible assumption
    | with_reducible refine keeps_setWaiters _ _ ?_ (sub_trans (by decide) hP)
    | with_reducible refine keeps_claspAnswer _ _ _ ?_ (sub_trans (by decide) hP)
    | with_reducible refine Keeps.foldl _ ?_ (fun t a hK => ?_)
    | with_reducible refine Keeps.foldlSnd _ ?_ (fun a k hK => ?_)
    | split

theorem keeps_execClaspWaitTimeout {ps : List Part} {s0 s : State} (c : ClaspId)
    (hK : Keeps ps s0 s) (hP : sub [.beads, .fabric, .clasps, .ledger, .faults, .hub, .asy] ps = true) :
    KeepsOut ps s0 (execClaspWaitTimeout c s) := by
  unfold execClaspWaitTimeout
  try dsimp only
  repeat' first
    | with_reducible assumption
    | with_reducible refine keeps_claspTimeouts _ ?_ (sub_trans (by decide) hP)
    | with_reducible refine keeps_claspSteps _ ?_ (sub_trans (by decide) hP)
    | with_reducible refine keepsOut_next ?_
    | with_reducible refine keepsOut_whenOk ?_ ?_
    | split

theorem keeps_countWaits {ps : List Part} {s0 s : State}
    (hK : Keeps ps s0 s) (hP : sub [.clasps] ps = true) :
    Keeps ps s0 (countWaits s) := by
  unfold countWaits
  try dsimp only
  repeat' first
    | with_reducible assumption
    | dsimp only [keeps_mk]
    | with_reducible refine KeepsMk.w_clasps ?_ (sub_mem (by decide) hP)
    | split

theorem keeps_claspSweep {ps : List Part} {s0 s : State} (k : Nat)
    (hK : Keeps ps s0 s) (hP : sub [.beads, .fabric, .clasps, .ledger, .faults, .asy] ps = true) :
    Keeps ps s0 (claspSweep k s) := by
  unfold claspSweep
  try dsimp only
  repeat' first
    | with_reducible assumption
    | with_reducible refine keeps_claspTimeouts _ ?_ (sub_trans (by decide) hP)
    | with_reducible refine keeps_claspGrant _ ?_ (sub_trans (by decide) hP)
    | with_reducible refine Keeps.upToSnd _ ?_ (fun a k hK => ?_)
    | with_reducible refine Keeps.upTo _ ?_ (fun t k hK => ?_)
    | split

theorem keeps_endWaits {ps : List Part} {s0 s : State}
    (hK : Keeps ps s0 s) (hP : sub [.beads, .fabric, .clasps, .ledger, .faults, .asy] ps = true) :
    Keeps ps s0 (endWaits s) := by
  unfold endWaits
  try dsimp only
  repeat' first
    | with_reducible assumption
    | with_reducible refine keeps_claspSweep _ ?_ (sub_trans (by decide) hP)
    | with_reducible refine Keeps.foldl _ ?_ (fun t a hK => ?_)
    | with_reducible refine Keeps.foldlSnd _ ?_ (fun a k hK => ?_)
    | split

theorem keeps_claspCk {ps : List Part} {s0 s : State}
    (hK : Keeps ps s0 s) (hP : sub [.beads, .fabric, .clasps, .ledger, .faults, .hub, .asy] ps = true) :
    Keeps ps s0 (claspCk s) := by
  unfold claspCk
  try dsimp only
  repeat' first
    | with_reducible assumption
    | with_reducible refine keeps_endWaits ?_ (sub_trans (by decide) hP)
    | with_reducible refine keeps_applyActs _ ?_ (sub_trans (by decide) hP)
    | split

theorem keeps_recordGone {ps : List Part} {s0 s : State} (off : Nat)
    (hK : Keeps ps s0 s) (hP : sub [.ledger, .faults] ps = true) :
    Keeps ps s0 (recordGone off s) := by
  unfold recordGone
  try dsimp only
  repeat' first
    | with_reducible assumption
    | with_reducible refine keeps_recordAddr _ _ _ _ ?_ (sub_trans (by decide) hP)
    | split

theorem keeps_clpValueDo {ps : List Part} {s0 s : State} (m : Master) (w : Width) (v : Word)
    (hK : Keeps ps s0 s) (hP : sub [.clasps, .ledger, .faults] ps = true) :
    Keeps ps s0 (clpValueDo m w v s) := by
  unfold clpValueDo
  try dsimp only
  repeat' first
    | with_reducible assumption
    | with_reducible refine keeps_claspReach _ _ _ ?_ (sub_trans (by decide) hP)
    | with_reducible refine keeps_recordGone _ ?_ (sub_trans (by decide) hP)
    | split

theorem keeps_execClpValueWrite {ps : List Part} {s0 s : State} (m : Master) (w : Width) (v : Word)
    (hK : Keeps ps s0 s) (hP : sub [.clasps, .ledger, .faults] ps = true) :
    KeepsOut ps s0 (execClpValueWrite m w v s) := by
  unfold execClpValueWrite
  try dsimp only
  repeat' first
    | with_reducible assumption
    | with_reducible refine keeps_clpValueDo _ _ _ ?_ (sub_trans (by decide) hP)
    | with_reducible refine keeps_regWriteRow _ _ _ ?_ (sub_trans (by decide) hP) (fun t hK => ?_)
    | with_reducible refine keepsOut_next ?_
    | with_reducible refine keepsOut_whenOk ?_ ?_
    | split

theorem keeps_clpStatClear {ps : List Part} {s0 s : State} (w : Width)
    (hK : Keeps ps s0 s) (hP : sub [.clasps] ps = true) :
    Keeps ps s0 (clpStatClear w s) := by
  unfold clpStatClear
  try dsimp only
  repeat' first
    | with_reducible assumption
    | dsimp only [keeps_mk]
    | with_reducible refine KeepsMk.w_clasps ?_ (sub_mem (by decide) hP)
    | split

theorem keeps_execClpStatRead {ps : List Part} {s0 s : State} (w : Width)
    (hK : Keeps ps s0 s) (hP : sub [.clasps, .out] ps = true) :
    KeepsOut ps s0 (execClpStatRead w s) := by
  unfold execClpStatRead
  try dsimp only
  repeat' first
    | with_reducible assumption
    | with_reducible refine keeps_regReadRow _ _ _ _ ?_ (sub_trans (by decide) hP) (fun t hK => ?_)
    | with_reducible refine keeps_clpStatClear _ ?_ (sub_trans (by decide) hP)
    | with_reducible refine keepsOut_next ?_
    | with_reducible refine keepsOut_whenOk ?_ ?_
    | split

theorem keeps_signalAct {ps : List Part} {s0 s : State} (n : Nat) (m : Msg)
    (hK : Keeps ps s0 s) (hP : sub [.clasps] ps = true) :
    Keeps ps s0 (signalAct n m s) := by
  unfold signalAct
  try dsimp only
  repeat' first
    | with_reducible assumption
    | with_reducible refine keeps_claspReach _ _ _ ?_ (sub_trans (by decide) hP)
    | with_reducible refine keeps_claspWait _ _ _ _ ?_ (sub_trans (by decide) hP)
    | split

theorem keeps_claspChecks {ps : List Part} {s0 s : State} (quiet : Bool)
    (hK : Keeps ps s0 s) (hP : sub [.clasps, .ledger, .faults, .hub] ps = true) :
    Keeps ps s0 (claspChecks quiet s) := by
  unfold claspChecks
  try dsimp only
  repeat' first
    | with_reducible assumption
    | dsimp only [keeps_mk]
    | with_reducible refine KeepsMk.w_clasps ?_ (sub_mem (by decide) hP)
    | with_reducible refine keeps_recordAddr _ _ _ _ ?_ (sub_trans (by decide) hP)
    | with_reducible refine keeps_setClasp _ _ ?_ (sub_trans (by decide) hP)
    | with_reducible refine keeps_hubRaiseBy _ _ ?_ (sub_trans (by decide) hP)
    | with_reducible refine Keeps.foldl _ ?_ (fun t a hK => ?_)
    | with_reducible refine Keeps.foldlSnd _ ?_ (fun a k hK => ?_)
    | split

theorem keeps_claspSnap {ps : List Part} {s0 s : State}
    (hK : Keeps ps s0 s) (hP : sub [.clasps] ps = true) :
    Keeps ps s0 (claspSnap s) := by
  unfold claspSnap
  try dsimp only
  repeat' first
    | with_reducible assumption
    | dsimp only [keeps_mk]
    | with_reducible refine KeepsMk.w_clasps ?_ (sub_mem (by decide) hP)
    | split

theorem keeps_claspRestore {ps : List Part} {s0 s : State}
    (hK : Keeps ps s0 s) (hP : sub [.clasps] ps = true) :
    Keeps ps s0 (claspRestore s) := by
  unfold claspRestore
  try dsimp only
  repeat' first
    | with_reducible assumption
    | dsimp only [keeps_mk]
    | with_reducible refine KeepsMk.w_clasps ?_ (sub_mem (by decide) hP)
    | split

theorem keeps_recordPart {ps : List Part} {s0 s : State} (src : Nat) (phys : Nat) (pm : Nat) (cls : Nat) (node : Nat)
    (prior : Bool)
    (hK : Keeps ps s0 s) (hP : sub [.ledger, .faults] ps = true) :
    Keeps ps s0 (recordPart src phys pm cls node prior s) := by
  unfold recordPart
  try dsimp only
  repeat' first
    | with_reducible assumption
    | with_reducible refine keeps_recordFault _ ?_ (sub_trans (by decide) hP)
    | split

theorem keeps_lookOwn {ps : List Part} {s0 s : State} (o : Nat) (g : Nat)
    (hK : Keeps ps s0 s) (hP : sub [.ledger, .faults, .asy] ps = true) :
    Keeps ps s0 (lookOwn o g s) := by
  unfold lookOwn
  try dsimp only
  repeat' first
    | with_reducible assumption
    | with_reducible refine keeps_countLook _ _ ?_ (sub_trans (by decide) hP)
    | with_reducible refine keeps_recordPart _ _ _ _ _ _ ?_ (sub_trans (by decide) hP)
    | split

theorem keeps_lookOwns {ps : List Part} {s0 s : State} (o : Nat) (g : Nat) (n : Nat)
    (hK : Keeps ps s0 s) (hP : sub [.ledger, .faults, .asy] ps = true) :
    Keeps ps s0 (lookOwns o g n s) := by
  unfold lookOwns
  try dsimp only
  repeat' first
    | with_reducible assumption
    | with_reducible refine keeps_lookOwn _ _ ?_ (sub_trans (by decide) hP)
    | with_reducible refine Keeps.upToSnd _ ?_ (fun a k hK => ?_)
    | with_reducible refine Keeps.upTo _ ?_ (fun t k hK => ?_)
    | split

theorem keeps_dmemStore {ps : List Part} {s0 s : State} (o : Nat) (g : Nat) (c : Code) (mask : Word32) (src : Nat)
    (hK : Keeps ps s0 s) (hP : sub [.mem, .ledger, .faults, .asy] ps = true) :
    Keeps ps s0 (dmemStore o g c mask src s) := by
  unfold dmemStore
  try dsimp only
  repeat' first
    | with_reducible assumption
    | with_reducible refine keeps_countLook _ _ ?_ (sub_trans (by decide) hP)
    | with_reducible refine keeps_recordPart _ _ _ _ _ _ ?_ (sub_trans (by decide) hP)
    | with_reducible refine keeps_dmemPut _ _ _ ?_ (sub_trans (by decide) hP)
    | split

theorem keeps_dmemWrite {ps : List Part} {s0 s : State} (o : Nat) (off : Nat) (l : List Byte)
    (hK : Keeps ps s0 s) (hP : sub [.mem, .ledger, .faults, .asy] ps = true) :
    Keeps ps s0 (dmemWrite o off l s) := by
  unfold dmemWrite
  try dsimp only
  repeat' first
    | with_reducible assumption
    | with_reducible refine keeps_dmemStore _ _ _ _ _ ?_ (sub_trans (by decide) hP)
    | with_reducible refine Keeps.foldl _ ?_ (fun t a hK => ?_)
    | with_reducible refine Keeps.foldlSnd _ ?_ (fun a k hK => ?_)
    | with_reducible refine Keeps.upToSnd _ ?_ (fun a k hK => ?_)
    | with_reducible refine Keeps.upTo _ ?_ (fun t k hK => ?_)
    | split

theorem keeps_freeWatch {ps : List Part} {s0 s : State} (o : Nat) (n : Nat)
    (hK : Keeps ps s0 s) (hP : sub [.bezels] ps = true) :
    Keeps ps s0 (freeWatch o n s) := by
  unfold freeWatch
  try dsimp only
  repeat' first
    | with_reducible assumption
    | dsimp only [keeps_mk]
    | with_reducible refine KeepsMk.w_bezels ?_ (sub_mem (by decide) hP)
    | with_reducible refine Keeps.upToSnd _ ?_ (fun a k hK => ?_)
    | with_reducible refine Keeps.upTo _ ?_ (fun t k hK => ?_)
    | split

theorem keeps_endStrand {ps : List Part} {s0 s : State} (o : Nat) (n : Nat) (code : Nat) (stopped : Bool)
    (hK : Keeps ps s0 s) (hP : sub [.beads, .clasps, .mem, .bezels, .ledger, .faults, .asy] ps = true) :
    Keeps ps s0 (endStrand o n code stopped s) := by
  unfold endStrand
  try dsimp only
  repeat' first
    | with_reducible assumption
    | with_reducible refine keeps_modBead _ _ ?_ (sub_trans (by decide) hP)
    | with_reducible refine keeps_freeWatch _ _ ?_ (sub_trans (by decide) hP)
    | with_reducible refine keeps_dmemWrite _ _ _ ?_ (sub_trans (by decide) hP)
    | with_reducible refine keeps_claspSignal _ _ _ ?_ (sub_trans (by decide) hP)
    | split

theorem keeps_addWatch {ps : List Part} {s0 s : State} (w : Watch) (z : Nat)
    (hK : Keeps ps s0 s) (hP : sub [.bezels] ps = true) :
    Keeps ps s0 (addWatch w z s) := by
  unfold addWatch
  try dsimp only
  repeat' first
    | with_reducible assumption
    | dsimp only [keeps_mk]
    | with_reducible refine KeepsMk.w_bezels ?_ (sub_mem (by decide) hP)
    | split

theorem keeps_watchRange {ps : List Part} {s0 s : State} (w : Watch)
    (hK : Keeps ps s0 s) (hP : sub [.bezels] ps = true) :
    KeepsSome ps s0 (watchRange w s) := by
  unfold watchRange
  try dsimp only
  repeat' first
    | with_reducible assumption
    | with_reducible refine keeps_addWatch _ _ ?_ (sub_trans (by decide) hP)
    | with_reducible refine keepsSome_some ?_
    | with_reducible exact keepsSome_none
    | with_reducible refine Keeps.foldl _ ?_ (fun t a hK => ?_)
    | with_reducible refine Keeps.foldlSnd _ ?_ (fun a k hK => ?_)
    | split

theorem keeps_takeWatch {ps : List Part} {s0 s : State} (o : Nat) (n : Nat) (d : BitVec 512)
    (hK : Keeps ps s0 s) (hP : sub [.bezels] ps = true) :
    KeepsSome ps s0 (takeWatch o n d s) := by
  unfold takeWatch
  try dsimp only
  repeat' first
    | with_reducible assumption
    | with_reducible refine KeepsSome.get (keeps_watchRange _ ?_ (sub_trans (by decide) hP)) (by assumption)
    | with_reducible refine keeps_watchRange _ ?_ (sub_trans (by decide) hP)
    | with_reducible refine keepsSome_some ?_
    | with_reducible exact keepsSome_none
    | with_reducible refine Keeps.foldl _ ?_ (fun t a hK => ?_)
    | with_reducible refine Keeps.foldlSnd _ ?_ (fun a k hK => ?_)
    | split

theorem keeps_strandMove {ps : List Part} {s0 s : State} (o : Nat) (n : Nat) (a : Nat) (d : BitVec 512) (src : Xlat)
    (dst : Xlat) (watched : Option State)
    (hK : Keeps ps s0 s) (hP : sub [.beads] ps = true)
    (hw : KeepsSome ps s0 watched) :
    KeepsGo ps s0 (strandMove o n a d src dst watched s) := by
  unfold strandMove
  try dsimp only
  repeat' first
    | with_reducible assumption
    | with_reducible refine keeps_modBead _ _ ?_ (sub_trans (by decide) hP)
    | with_reducible refine keepsGo_go ?_
    | with_reducible exact keepsGo_fault _ _
    | exact hw _ rfl
    | split

theorem keeps_lookDesc {ps : List Part} {s0 s : State} (o : Nat) (n : Nat) (a : Nat)
    (hK : Keeps ps s0 s) (hP : sub [.ledger, .faults, .asy] ps = true) :
    Keeps ps s0 (lookDesc o n a s) := by
  unfold lookDesc
  try dsimp only
  repeat' first
    | with_reducible assumption
    | with_reducible refine keeps_lookOwns _ _ _ ?_ (sub_trans (by decide) hP)
    | split

theorem keeps_strandGo {ps : List Part} {s0 s : State} (o : Nat) (n : Nat) (a : Nat)
    (hK : Keeps ps s0 s) (hP : sub [.beads, .bezels] ps = true) :
    KeepsGo ps s0 (strandGo o n a s) := by
  unfold strandGo
  dsimp only
  refine keepsGo_ite (keepsGo_fault _ _) ?_
  refine keepsGo_ite (keepsGo_fault _ _) ?_
  refine keepsGo_ite (keepsGo_fault _ _) ?_
  exact keeps_strandMove _ _ _ _ _ _ _ hK (sub_trans (by decide) hP)
    (keepsSome_ite (keeps_takeWatch _ _ _ hK (sub_trans (by decide) hP)) (keepsSome_some hK))

theorem keeps_lookIndex {ps : List Part} {s0 s : State} (o : Nat) (n : Nat) (j : Nat)
    (hK : Keeps ps s0 s) (hP : sub [.ledger, .faults, .asy] ps = true) :
    Keeps ps s0 (lookIndex o n j s) := by
  unfold lookIndex
  try dsimp only
  repeat' first
    | with_reducible assumption
    | with_reducible refine keeps_lookOwn _ _ ?_ (sub_trans (by decide) hP)
    | split

theorem keeps_execSortBatchDeliver {ps : List Part} {s0 s : State} (o : Ord) (n : Fin 8)
    (hK : Keeps ps s0 s) (hP : sub [.beads, .ledger, .faults, .asy] ps = true) :
    KeepsOut ps s0 (execSortBatchDeliver o n s) := by
  unfold execSortBatchDeliver
  try dsimp only
  repeat' first
    | with_reducible assumption
    | with_reducible refine keeps_modBead _ _ ?_ (sub_trans (by decide) hP)
    | with_reducible refine keeps_lookIndex _ _ _ ?_ (sub_trans (by decide) hP)
    | with_reducible refine keepsOut_next ?_
    | with_reducible refine keepsOut_whenOk ?_ ?_
    | with_reducible refine Keeps.foldl _ ?_ (fun t a hK => ?_)
    | with_reducible refine Keeps.foldlSnd _ ?_ (fun a k hK => ?_)
    | split

theorem keeps_deliverRun {ps : List Part} {s0 s : State} (o : Nat) (n : Nat) (x : StrandRun)
    (hK : Keeps ps s0 s) (hP : sub [.beads, .mem, .ledger, .faults, .asy] ps = true) :
    Keeps ps s0 (deliverRun o n x s) := by
  unfold deliverRun
  try dsimp only
  repeat' first
    | with_reducible assumption
    | with_reducible refine keeps_modBead _ _ ?_ (sub_trans (by decide) hP)
    | with_reducible refine keeps_countEv _ _ _ ?_ (sub_trans (by decide) hP)
    | with_reducible refine keeps_dmemWrite _ _ _ ?_ (sub_trans (by decide) hP)
    | split

theorem keeps_settleStrand {ps : List Part} {s0 s : State} (o : Nat) (n : Nat)
    (hK : Keeps ps s0 s) (hP : sub [.beads, .clasps, .mem, .bezels, .ledger, .faults, .asy] ps = true) :
    Keeps ps s0 (settleStrand o n s) := by
  unfold settleStrand
  try dsimp only
  repeat' first
    | with_reducible assumption
    | with_reducible refine keeps_recordAddr _ _ _ _ ?_ (sub_trans (by decide) hP)
    | with_reducible refine keeps_endStrand _ _ _ _ ?_ (sub_trans (by decide) hP)
    | with_reducible refine keeps_recordInvalid _ _ _ ?_ (sub_trans (by decide) hP)
    | split

theorem keeps_failRun {ps : List Part} {s0 s : State} (o : Nat) (n : Nat) (i : Nat) (code : Nat) (addr : Nat)
    (hK : Keeps ps s0 s) (hP : sub [.beads, .clasps, .mem, .bezels, .ledger, .faults, .asy] ps = true) :
    Keeps ps s0 (failRun o n i code addr s) := by
  unfold failRun
  try dsimp only
  repeat' first
    | with_reducible assumption
    | with_reducible refine keeps_modBead _ _ ?_ (sub_trans (by decide) hP)
    | with_reducible refine keeps_settleStrand _ _ ?_ (sub_trans (by decide) hP)
    | split

theorem keeps_consumeRun {ps : List Part} {s0 s : State} (o : Nat) (n : Nat)
    (hK : Keeps ps s0 s) (hP : sub [.beads, .clasps, .mem, .bezels, .ledger, .faults, .asy] ps = true) :
    Keeps ps s0 (consumeRun o n s) := by
  unfold consumeRun
  try dsimp only
  repeat' first
    | with_reducible assumption
    | with_reducible refine keeps_modBead _ _ ?_ (sub_trans (by decide) hP)
    | with_reducible refine keeps_settleStrand _ _ ?_ (sub_trans (by decide) hP)
    | split

theorem keeps_hartFail {ps : List Part} {s0 s : State} (o : Nat) (h : Nat) (write : Bool) (addr : Nat) (x : Xlat)
    (hK : Keeps ps s0 s) (hP : sub [.beads, .ledger, .faults] ps = true) :
    Keeps ps s0 (hartFail o h write addr x s) := by
  unfold hartFail
  try dsimp only
  repeat' first
    | with_reducible assumption
    | with_reducible refine keeps_modBead _ _ ?_ (sub_trans (by decide) hP)
    | with_reducible refine keeps_recordInvalid _ _ _ ?_ (sub_trans (by decide) hP)
    | split

theorem keeps_reqFail {ps : List Part} {s0 s : State} (o : Nat) (r : Req) (dev : Nat) (x : Xlat)
    (hK : Keeps ps s0 s) (hP : sub [.beads, .clasps, .mem, .bezels, .ledger, .faults, .asy] ps = true) :
    Keeps ps s0 (reqFail o r dev x s) := by
  unfold reqFail
  try dsimp only
  repeat' first
    | with_reducible assumption
    | with_reducible refine keeps_hartFail _ _ _ _ _ ?_ (sub_trans (by decide) hP)
    | with_reducible refine keeps_modBead _ _ ?_ (sub_trans (by decide) hP)
    | with_reducible refine keeps_failEntry _ _ _ _ _ _ ?_ (sub_trans (by decide) hP)
    | with_reducible refine keeps_failRun _ _ _ _ _ ?_ (sub_trans (by decide) hP)
    | with_reducible refine keeps_recordInvalid _ _ _ ?_ (sub_trans (by decide) hP)
    | split

theorem keeps_ownGran {ps : List Part} {s0 : State} {x : Req × State} (o : Nat) (r : Req) (i : Nat)
    (hK : Keeps ps s0 x.2) (hP : sub [.mem, .ledger, .faults, .asy] ps = true) :
    Keeps ps s0 (ownGran o r x i).2 := by
  unfold ownGran
  try dsimp only
  repeat' first
    | with_reducible assumption
    | with_reducible refine keeps_lookOwn _ _ ?_ (sub_trans (by decide) hP)
    | with_reducible refine keeps_dmemStore _ _ _ _ _ ?_ (sub_trans (by decide) hP)
    | split

theorem keeps_reqReady {ps : List Part} {s0 s : State} (o : Nat) (r0 : Req)
    (hK : Keeps ps s0 s) (hP : sub [.beads, .mem, .ledger, .faults, .asy] ps = true) :
    Keeps ps s0 (reqReady o r0 s) := by
  unfold reqReady
  try dsimp only
  repeat' first
    | with_reducible assumption
    | with_reducible refine keeps_ownGran _ _ _ ?_ (sub_trans (by decide) hP)
    | with_reducible refine keeps_setBead _ _ ?_ (sub_trans (by decide) hP)
    | with_reducible refine Keeps.foldl _ ?_ (fun t a hK => ?_)
    | with_reducible refine Keeps.foldlSnd _ ?_ (fun a k hK => ?_)
    | split

theorem keeps_xlatReq {ps : List Part} {s0 s : State} (o : Nat) (id : Nat)
    (hK : Keeps ps s0 s) (hP : sub [.beads, .clasps, .mem, .bezels, .ledger, .faults, .asy] ps = true) :
    Keeps ps s0 (xlatReq o id s) := by
  unfold xlatReq
  try dsimp only
  repeat' first
    | with_reducible assumption
    | with_reducible refine keeps_modBead _ _ ?_ (sub_trans (by decide) hP)
    | with_reducible refine keeps_reqReady _ _ ?_ (sub_trans (by decide) hP)
    | with_reducible refine keeps_countEv _ _ _ ?_ (sub_trans (by decide) hP)
    | with_reducible refine keeps_reqFail _ _ _ _ ?_ (sub_trans (by decide) hP)
    | split

theorem keeps_makeReq {ps : List Part} {s0 s : State} (o : Nat) (r : Req)
    (hK : Keeps ps s0 s) (hP : sub [.beads, .clasps, .mem, .bezels, .ledger, .faults, .asy] ps = true) :
    Keeps ps s0 (makeReq o r s) := by
  unfold makeReq
  try dsimp only
  repeat' first
    | with_reducible assumption
    | with_reducible refine keeps_xlatReq _ _ ?_ (sub_trans (by decide) hP)
    | with_reducible refine keeps_modBead _ _ ?_ (sub_trans (by decide) hP)
    | split

theorem keeps_xbarLooks {ps : List Part} {s0 s : State} (c : Nat) (l : List Code)
    (hK : Keeps ps s0 s) (hP : sub [.asy] ps = true) :
    Keeps ps s0 (xbarLooks c l s) := by
  unfold xbarLooks
  try dsimp only
  repeat' first
    | with_reducible assumption
    | with_reducible refine keeps_countLook _ _ ?_ (sub_trans (by decide) hP)
    | with_reducible refine Keeps.foldl _ ?_ (fun t a hK => ?_)
    | with_reducible refine Keeps.foldlSnd _ ?_ (fun a k hK => ?_)
    | split

theorem keeps_toSlice {ps : List Part} {s0 s : State} (i : Nat) (port : Nat) (m : Msg)
    (hK : Keeps ps s0 s) (hP : sub [.mem, .asy] ps = true) :
    Keeps ps s0 (toSlice i port m s) := by
  unfold toSlice
  try dsimp only
  repeat' first
    | with_reducible assumption
    | dsimp only [keeps_mk]
    | with_reducible refine KeepsMk.w_mem ?_ (sub_mem (by decide) hP) (fun x => x)
    | with_reducible refine keeps_xbarLooks _ _ ?_ (sub_trans (by decide) hP)
    | split

theorem keeps_sendFromBead {ps : List Part} {s0 s : State} (o : Nat) (m : Msg)
    (hK : Keeps ps s0 s) (hP : sub [.fabric, .mem, .asy] ps = true) :
    Keeps ps s0 (sendFromBead o m s) := by
  unfold sendFromBead
  try dsimp only
  repeat' first
    | with_reducible assumption
    | with_reducible refine keeps_toSlice _ _ _ ?_ (sub_trans (by decide) hP)
    | with_reducible refine keeps_sendMsg _ ?_ (sub_trans (by decide) hP)
    | split

theorem keeps_issueReq {ps : List Part} {s0 s : State} (o : Nat) (r : Req)
    (hK : Keeps ps s0 s) (hP : sub [.beads, .fabric, .mem, .asy] ps = true) :
    Keeps ps s0 (issueReq o r s) := by
  unfold issueReq
  try dsimp only
  repeat' first
    | with_reducible assumption
    | with_reducible refine keeps_countEv _ _ _ ?_ (sub_trans (by decide) hP)
    | with_reducible refine keeps_sendFromBead _ _ ?_ (sub_trans (by decide) hP)
    | with_reducible refine keeps_setBead _ _ ?_ (sub_trans (by decide) hP)
    | with_reducible refine Keeps.foldl _ ?_ (fun t a hK => ?_)
    | with_reducible refine Keeps.foldlSnd _ ?_ (fun a k hK => ?_)
    | split

theorem keeps_tldRowWrite {ps : List Part} {s0 s : State} (o : Nat) (e : QEntry) (t : Nat) (row : Nat) (codes : List
    Code) (failed : Bool)
    (hK : Keeps ps s0 s) (hP : sub [.beads] ps = true) :
    Keeps ps s0 (tldRowWrite o e t row codes failed s) := by
  unfold tldRowWrite
  try dsimp only
  repeat' first
    | with_reducible assumption
    | with_reducible refine keeps_setBead _ _ ?_ (sub_trans (by decide) hP)
    | split

theorem keeps_fillEntry {ps : List Part} {s0 s : State} (o : Nat) (e : QEntry) (i : Nat) (codes : List Code)
    (hK : Keeps ps s0 s) (hP : sub [.beads] ps = true) :
    Keeps ps s0 (fillEntry o e i codes s) := by
  unfold fillEntry
  try dsimp only
  repeat' first
    | with_reducible assumption
    | with_reducible refine keeps_modBead _ _ ?_ (sub_trans (by decide) hP)
    | split

theorem keeps_ownRead {ps : List Part} {s0 s : State} (o : Nat) (g : Nat) (n : Nat)
    (hK : Keeps ps s0 s) (hP : sub [.ledger, .faults, .asy] ps = true) :
    Keeps ps s0 (ownRead o g n s).2 := by
  unfold ownRead
  try dsimp only
  repeat' first
    | with_reducible assumption
    | with_reducible refine keeps_lookOwns _ _ _ ?_ (sub_trans (by decide) hP)
    | split

theorem keeps_serveRow {ps : List Part} {s0 s : State} (o : Nat) (e : QEntry)
    (hK : Keeps ps s0 s) (hP : sub [.beads, .clasps, .mem, .bezels, .ledger, .faults, .asy] ps = true) :
    Keeps ps s0 (serveRow o e s) := by
  unfold serveRow
  try dsimp only
  repeat' first
    | with_reducible assumption
    | with_reducible refine keeps_modBead _ _ ?_ (sub_trans (by decide) hP)
    | with_reducible refine keeps_countEv _ _ _ ?_ (sub_trans (by decide) hP)
    | with_reducible refine keeps_fillEntry _ _ _ _ ?_ (sub_trans (by decide) hP)
    | with_reducible refine keeps_ownRead _ _ _ ?_ (sub_trans (by decide) hP)
    | with_reducible refine keeps_tldRowWrite _ _ _ _ _ _ ?_ (sub_trans (by decide) hP)
    | with_reducible refine keeps_dmemStore _ _ _ _ _ ?_ (sub_trans (by decide) hP)
    | with_reducible refine keeps_makeReq _ _ ?_ (sub_trans (by decide) hP)
    | with_reducible refine Keeps.upToSnd _ ?_ (fun a k hK => ?_)
    | with_reducible refine Keeps.upTo _ ?_ (fun t k hK => ?_)
    | split

theorem keeps_hartLoadDone {ps : List Part} {s0 s : State} (o : Nat) (h : Nat) (r : Req)
    (hK : Keeps ps s0 s) (hP : sub [.beads] ps = true) :
    Keeps ps s0 (hartLoadDone o h r s) := by
  unfold hartLoadDone
  try dsimp only
  repeat' first
    | with_reducible assumption
    | with_reducible refine keeps_modBead _ _ ?_ (sub_trans (by decide) hP)
    | split

theorem keeps_hartStoreDone {ps : List Part} {s0 s : State} (o : Nat) (h : Nat)
    (hK : Keeps ps s0 s) (hP : sub [.beads] ps = true) :
    Keeps ps s0 (hartStoreDone o h s) := by
  unfold hartStoreDone
  try dsimp only
  repeat' first
    | with_reducible assumption
    | with_reducible refine keeps_modBead _ _ ?_ (sub_trans (by decide) hP)
    | split

theorem keeps_hartAtomicDone {ps : List Part} {s0 s : State} (o : Nat) (h : Nat) (r : Req) (cls : Nat) (v : Word)
    (hK : Keeps ps s0 s) (hP : sub [.beads] ps = true) :
    Keeps ps s0 (hartAtomicDone o h r cls v s) := by
  unfold hartAtomicDone
  try dsimp only
  repeat' first
    | with_reducible assumption
    | with_reducible refine keeps_modBead _ _ ?_ (sub_trans (by decide) hP)
    | split

theorem keeps_tileRowDone {ps : List Part} {s0 s : State} (o : Nat) (e : Nat) (row : Nat) (r : Req)
    (hK : Keeps ps s0 s) (hP : sub [.beads, .clasps, .mem, .bezels, .ledger, .faults, .asy] ps = true) :
    Keeps ps s0 (tileRowDone o e row r s) := by
  unfold tileRowDone
  try dsimp only
  repeat' first
    | with_reducible assumption
    | with_reducible refine keeps_modBead _ _ ?_ (sub_trans (by decide) hP)
    | with_reducible refine keeps_failEntry _ _ _ _ _ _ ?_ (sub_trans (by decide) hP)
    | with_reducible refine keeps_countEv _ _ _ ?_ (sub_trans (by decide) hP)
    | with_reducible refine keeps_fillEntry _ _ _ _ ?_ (sub_trans (by decide) hP)
    | with_reducible refine keeps_tldRowWrite _ _ _ _ _ _ ?_ (sub_trans (by decide) hP)
    | with_reducible refine keeps_makeReq _ _ ?_ (sub_trans (by decide) hP)
    | split

theorem keeps_runDone {ps : List Part} {s0 s : State} (o : Nat) (n : Nat) (idx : Nat) (r : Req)
    (hK : Keeps ps s0 s) (hP : sub [.beads, .mem] ps = true) :
    Keeps ps s0 (runDone o n idx r s) := by
  unfold runDone
  try dsimp only
  repeat' first
    | with_reducible assumption
    | with_reducible refine keeps_modBead _ _ ?_ (sub_trans (by decide) hP)
    | with_reducible refine keeps_dmemPut _ _ _ ?_ (sub_trans (by decide) hP)
    | with_reducible refine Keeps.upToSnd _ ?_ (fun a k hK => ?_)
    | with_reducible refine Keeps.upTo _ ?_ (fun t k hK => ?_)
    | split

theorem keeps_indexDone {ps : List Part} {s0 s : State} (o : Nat) (n : Nat) (run : Nat) (r : Req)
    (hK : Keeps ps s0 s) (hP : sub [.beads] ps = true) :
    Keeps ps s0 (indexDone o n run r s) := by
  unfold indexDone
  try dsimp only
  repeat' first
    | with_reducible assumption
    | with_reducible refine keeps_modBead _ _ ?_ (sub_trans (by decide) hP)
    | with_reducible refine Keeps.upToSnd _ ?_ (fun a k hK => ?_)
    | with_reducible refine Keeps.upTo _ ?_ (fun t k hK => ?_)
    | split

theorem keeps_maskDone {ps : List Part} {s0 s : State} (o : Nat) (e : Nat) (r : Req)
    (hK : Keeps ps s0 s) (hP : sub [.beads] ps = true) :
    Keeps ps s0 (maskDone o e r s) := by
  unfold maskDone
  try dsimp only
  repeat' first
    | with_reducible assumption
    | with_reducible refine keeps_modBead _ _ ?_ (sub_trans (by decide) hP)
    | split

theorem keeps_drainRowDone {ps : List Part} {s0 s : State} (o : Nat) (e : Nat)
    (hK : Keeps ps s0 s) (hP : sub [.beads] ps = true) :
    Keeps ps s0 (drainRowDone o e s) := by
  unfold drainRowDone
  try dsimp only
  repeat' first
    | with_reducible assumption
    | with_reducible refine keeps_modBead _ _ ?_ (sub_trans (by decide) hP)
    | split

theorem keeps_holdSlot {ps : List Part} {s0 s : State} (o : Nat) (owner : ReqOwner) (kind : ReqKind) (addr : Nat)
    (hK : Keeps ps s0 s) (hP : sub [.beads, .asy] ps = true) :
    Keeps ps s0 (holdSlot o owner kind addr s) := by
  unfold holdSlot
  try dsimp only
  repeat' first
    | with_reducible assumption
    | with_reducible refine keeps_modBead _ _ ?_ (sub_trans (by decide) hP)
    | with_reducible refine keeps_countEv _ _ _ ?_ (sub_trans (by decide) hP)
    | split

theorem keeps_sendHeld {ps : List Part} {s0 s : State} (o : Nat) (owner : ReqOwner) (kind : ReqKind) (m : Msg)
    (hK : Keeps ps s0 s) (hP : sub [.beads, .fabric, .asy] ps = true) :
    Keeps ps s0 (sendHeld o owner kind m s) := by
  unfold sendHeld
  try dsimp only
  repeat' first
    | with_reducible assumption
    | with_reducible refine keeps_sendMsg _ ?_ (sub_trans (by decide) hP)
    | with_reducible refine keeps_holdSlot _ _ _ _ ?_ (sub_trans (by decide) hP)
    | split

theorem keeps_chData {ps : List Part} {s0 s : State} {o u : Nat} {e : QEntry} {x : List Code × State}
    (h : chData s o e u = some x) (hK : Keeps ps s0 s) (hP : sub [.ledger, .faults, .asy] ps = true) : Keeps ps s0
        x.2 := by
  unfold chData at h
  split at h
  · obtain rfl := Option.some.inj h
    exact keeps_ownRead _ _ _ hK (sub_trans (by decide) hP)
  · obtain ⟨r, _, rfl⟩ := Option.map_eq_some_iff.1 h
    exact hK

theorem keeps_chPump1 {ps : List Part} {s0 s : State} (o : Nat) (id : Nat)
    (hK : Keeps ps s0 s) (hP : sub [.beads, .fabric, .ledger, .faults, .asy] ps = true) :
    Keeps ps s0 (chPump1 o id s) := by
  unfold chPump1
  try dsimp only
  repeat' first
    | with_reducible assumption
    | with_reducible refine keeps_modBead _ _ ?_ (sub_trans (by decide) hP)
    | with_reducible refine keeps_sendHeld _ _ _ _ ?_ (sub_trans (by decide) hP)
    | with_reducible refine keeps_chData (by assumption) ?_ (sub_trans (by decide) hP)
    | split

theorem keeps_chPump {ps : List Part} {s0 s : State} (o : Nat) (id : Nat)
    (hK : Keeps ps s0 s) (hP : sub [.beads, .fabric, .ledger, .faults, .asy] ps = true) :
    Keeps ps s0 (chPump o id s) := by
  unfold chPump
  try dsimp only
  repeat' first
    | with_reducible assumption
    | with_reducible refine keeps_chPump1 _ _ ?_ (sub_trans (by decide) hP)
    | with_reducible refine Keeps.upToSnd _ ?_ (fun a k hK => ?_)
    | with_reducible refine Keeps.upTo _ ?_ (fun t k hK => ?_)
    | split

theorem keeps_chAsk {ps : List Part} {s0 s : State} (o : Nat) (id : Nat)
    (hK : Keeps ps s0 s) (hP : sub [.beads, .fabric, .asy] ps = true) :
    Keeps ps s0 (chAsk o id s) := by
  unfold chAsk
  try dsimp only
  repeat' first
    | with_reducible assumption
    | with_reducible refine keeps_modBead _ _ ?_ (sub_trans (by decide) hP)
    | with_reducible refine keeps_sendHeld _ _ _ _ ?_ (sub_trans (by decide) hP)
    | split

theorem keeps_chGo {ps : List Part} {s0 s : State} (o : Nat)
    (hK : Keeps ps s0 s) (hP : sub [.beads, .fabric, .ledger, .faults, .asy] ps = true) :
    Keeps ps s0 (chGo o s) := by
  unfold chGo
  try dsimp only
  repeat' first
    | with_reducible assumption
    | with_reducible refine keeps_chAsk _ _ ?_ (sub_trans (by decide) hP)
    | with_reducible refine keeps_chPump _ _ ?_ (sub_trans (by decide) hP)
    | split

theorem keeps_chPlaced {ps : List Part} {s0 s : State} (o : Nat) (id : Nat)
    (hK : Keeps ps s0 s) (hP : sub [.beads, .fabric, .asy] ps = true) :
    Keeps ps s0 (chPlaced o id s) := by
  unfold chPlaced
  try dsimp only
  repeat' first
    | with_reducible assumption
    | with_reducible refine keeps_modBead _ _ ?_ (sub_trans (by decide) hP)
    | with_reducible refine keeps_chAsk _ _ ?_ (sub_trans (by decide) hP)
    | split

theorem keeps_chReadResp {ps : List Part} {s0 before : State} (o : Nat) (id : Nat) (u : Nat) (m : Msg)
    (hK : Keeps ps s0 before) (hP : sub [.beads, .fabric, .clasps, .mem, .bezels, .ledger, .faults, .asy] ps = true) :
    Keeps ps s0 (chReadResp o id u m before) := by
  unfold chReadResp
  try dsimp only
  repeat' first
    | with_reducible assumption
    | with_reducible refine keeps_chPlaced _ _ ?_ (sub_trans (by decide) hP)
    | with_reducible refine keeps_countLook _ _ ?_ (sub_trans (by decide) hP)
    | with_reducible refine keeps_modBead _ _ ?_ (sub_trans (by decide) hP)
    | with_reducible refine keeps_makeReq _ _ ?_ (sub_trans (by decide) hP)
    | with_reducible refine keeps_dmemPut _ _ _ ?_ (sub_trans (by decide) hP)
    | with_reducible refine Keeps.foldl _ ?_ (fun t a hK => ?_)
    | with_reducible refine Keeps.foldlSnd _ ?_ (fun a k hK => ?_)
    | with_reducible refine Keeps.upToSnd _ ?_ (fun a k hK => ?_)
    | with_reducible refine Keeps.upTo _ ?_ (fun t k hK => ?_)
    | split

theorem keeps_chainUnitDone {ps : List Part} {s0 s : State} (o : Nat) (e : Nat) (unit : Nat) (r : Req)
    (hK : Keeps ps s0 s) (hP : sub [.beads, .fabric, .ledger, .faults, .asy] ps = true) :
    Keeps ps s0 (chainUnitDone o e unit r s) := by
  unfold chainUnitDone
  try dsimp only
  repeat' first
    | with_reducible assumption
    | with_reducible refine keeps_chPlaced _ _ ?_ (sub_trans (by decide) hP)
    | with_reducible refine keeps_modBead _ _ ?_ (sub_trans (by decide) hP)
    | with_reducible refine keeps_chPump _ _ ?_ (sub_trans (by decide) hP)
    | split

theorem keeps_reqDone {ps : List Part} {s0 s : State} (o : Nat) (r : Req) (v : Word)
    (hK : Keeps ps s0 s) (hP : sub [.beads, .fabric, .clasps, .mem, .bezels, .ledger, .faults, .asy] ps = true) :
    Keeps ps s0 (reqDone o r v s) := by
  unfold reqDone
  try dsimp only
  repeat' first
    | with_reducible assumption
    | with_reducible refine keeps_tileRowDone _ _ _ _ ?_ (sub_trans (by decide) hP)
    | with_reducible refine keeps_indexDone _ _ _ _ ?_ (sub_trans (by decide) hP)
    | with_reducible refine keeps_modBead _ _ ?_ (sub_trans (by decide) hP)
    | with_reducible refine keeps_hartStoreDone _ _ ?_ (sub_trans (by decide) hP)
    | with_reducible refine keeps_runDone _ _ _ _ ?_ (sub_trans (by decide) hP)
    | with_reducible refine keeps_hartAtomicDone _ _ _ _ _ ?_ (sub_trans (by decide) hP)
    | with_reducible refine keeps_chainUnitDone _ _ _ _ ?_ (sub_trans (by decide) hP)
    | with_reducible refine keeps_drainRowDone _ _ ?_ (sub_trans (by decide) hP)
    | with_reducible refine keeps_maskDone _ _ _ ?_ (sub_trans (by decide) hP)
    | with_reducible refine keeps_hartLoadDone _ _ _ ?_ (sub_trans (by decide) hP)
    | split

theorem keeps_partGone {ps : List Part} {s0 s : State} (o : Nat) (r : Req)
    (hK : Keeps ps s0 s) (hP : sub [.beads] ps = true) :
    Keeps ps s0 (partGone o r s) := by
  unfold partGone
  try dsimp only
  repeat' first
    | with_reducible assumption
    | with_reducible refine keeps_modBead _ _ ?_ (sub_trans (by decide) hP)
    | split

theorem keeps_partReadResp {ps : List Part} {s0 s : State} (o : Nat) (r : Req) (m : Msg)
    (hK : Keeps ps s0 s) (hP : sub [.beads, .fabric, .clasps, .mem, .bezels, .ledger, .faults, .asy] ps = true) :
    Keeps ps s0 (partReadResp o r m s) := by
  unfold partReadResp
  try dsimp only
  repeat' first
    | with_reducible assumption
    | with_reducible refine keeps_countLook _ _ ?_ (sub_trans (by decide) hP)
    | with_reducible refine keeps_modBead _ _ ?_ (sub_trans (by decide) hP)
    | with_reducible refine keeps_reqDone _ _ _ ?_ (sub_trans (by decide) hP)
    | with_reducible refine keeps_sendFromBead _ _ ?_ (sub_trans (by decide) hP)
    | with_reducible refine Keeps.foldl _ ?_ (fun t a hK => ?_)
    | with_reducible refine Keeps.foldlSnd _ ?_ (fun a k hK => ?_)
    | split

theorem keeps_beadReadResp {ps : List Part} {s0 s : State} (o : Nat) (m : Msg)
    (hK : Keeps ps s0 s) (hP : sub [.beads, .fabric, .clasps, .mem, .bezels, .ledger, .faults, .asy] ps = true) :
    Keeps ps s0 (beadReadResp o m s) := by
  unfold beadReadResp
  try dsimp only
  repeat' first
    | with_reducible assumption
    | with_reducible refine keeps_chGo _ ?_ (sub_trans (by decide) hP)
    | with_reducible refine keeps_partGone _ _ ?_ (sub_trans (by decide) hP)
    | with_reducible refine keeps_partReadResp _ _ _ ?_ (sub_trans (by decide) hP)
    | with_reducible refine keeps_chReadResp _ _ _ _ ?_ (sub_trans (by decide) hP)
    | split

theorem keeps_claspAck {ps : List Part} {s0 s : State} (o : Nat) (id : Nat) (m : Msg)
    (hK : Keeps ps s0 s) (hP : sub [.beads, .ledger, .faults, .asy] ps = true) :
    Keeps ps s0 (claspAck o id m s) := by
  unfold claspAck
  try dsimp only
  repeat' first
    | with_reducible assumption
    | with_reducible refine keeps_modBead _ _ ?_ (sub_trans (by decide) hP)
    | with_reducible refine keeps_failEntry _ _ _ _ _ _ ?_ (sub_trans (by decide) hP)
    | with_reducible refine keeps_recordInvalid _ _ _ ?_ (sub_trans (by decide) hP)
    | split

theorem keeps_remoteError {ps : List Part} {s0 s : State} (o : Nat) (m : Msg)
    (hK : Keeps ps s0 s) (hP : sub [.ledger, .faults] ps = true) :
    Keeps ps s0 (remoteError o m s) := by
  unfold remoteError
  try dsimp only
  repeat' first
    | with_reducible assumption
    | with_reducible refine keeps_recordFault _ ?_ (sub_trans (by decide) hP)
    | split

theorem keeps_partWriteAck {ps : List Part} {s0 s : State} (o : Nat) (r : Req) (m : Msg)
    (hK : Keeps ps s0 s) (hP : sub [.beads, .fabric, .clasps, .mem, .bezels, .ledger, .faults, .asy] ps = true) :
    Keeps ps s0 (partWriteAck o r m s) := by
  unfold partWriteAck
  try dsimp only
  repeat' first
    | with_reducible assumption
    | with_reducible refine keeps_modBead _ _ ?_ (sub_trans (by decide) hP)
    | with_reducible refine keeps_reqDone _ _ _ ?_ (sub_trans (by decide) hP)
    | split

theorem keeps_beadWriteAck {ps : List Part} {s0 s : State} (o : Nat) (m : Msg)
    (hK : Keeps ps s0 s) (hP : sub [.beads, .fabric, .clasps, .mem, .bezels, .ledger, .faults, .asy] ps = true) :
    Keeps ps s0 (beadWriteAck o m s) := by
  unfold beadWriteAck
  try dsimp only
  repeat' first
    | with_reducible assumption
    | with_reducible refine keeps_chGo _ ?_ (sub_trans (by decide) hP)
    | with_reducible refine keeps_claspAck _ _ _ ?_ (sub_trans (by decide) hP)
    | with_reducible refine keeps_remoteError _ _ ?_ (sub_trans (by decide) hP)
    | with_reducible refine keeps_partGone _ _ ?_ (sub_trans (by decide) hP)
    | with_reducible refine keeps_partWriteAck _ _ _ ?_ (sub_trans (by decide) hP)
    | split

theorem keeps_beadStale {ps : List Part} {s0 s : State} (o : Nat) (m : Msg)
    (hK : Keeps ps s0 s) (hP : sub [.beads] ps = true) :
    Keeps ps s0 (beadStale o m s) := by
  unfold beadStale
  try dsimp only
  repeat' first
    | with_reducible assumption
    | with_reducible refine keeps_modBead _ _ ?_ (sub_trans (by decide) hP)
    | split

theorem keeps_loadDo {ps : List Part} {s0 s : State} (o : Ord) (h : HartN) (f : Fetched) (f3 : Nat) (fp : Bool) (rd :
    Fin 32) (addr : Word)
    (hK : Keeps ps s0 s) (hP : sub [.beads, .clasps, .mem, .bezels, .ledger, .faults, .asy] ps = true) :
    Keeps ps s0 (loadDo o h f f3 fp rd addr s) := by
  unfold loadDo
  try dsimp only
  repeat' first
    | with_reducible assumption
    | with_reducible refine keeps_trapAt _ _ _ _ ?_ (sub_trans (by decide) hP)
    | with_reducible refine keeps_lookOwn _ _ ?_ (sub_trans (by decide) hP)
    | with_reducible refine keeps_modBead _ _ ?_ (sub_trans (by decide) hP)
    | with_reducible refine keeps_countEv _ _ _ ?_ (sub_trans (by decide) hP)
    | with_reducible refine keeps_holdAt _ _ _ ?_ (sub_trans (by decide) hP)
    | with_reducible refine keeps_retire _ _ _ ?_ (sub_trans (by decide) hP)
    | with_reducible refine keeps_makeReq _ _ ?_ (sub_trans (by decide) hP)
    | with_reducible refine keeps_issueHeld _ _ _ ?_ (sub_trans (by decide) hP)
    | split

theorem keeps_lrDo {ps : List Part} {s0 s : State} (o : Ord) (h : HartN) (f : Fetched) (dbl : Bool) (rd : Fin 32)
    (addr : Word)
    (hK : Keeps ps s0 s) (hP : sub [.beads, .clasps, .mem, .bezels, .ledger, .faults, .asy] ps = true) :
    Keeps ps s0 (lrDo o h f dbl rd addr s) := by
  unfold lrDo
  try dsimp only
  repeat' first
    | with_reducible assumption
    | dsimp only [keeps_mk]
    | with_reducible refine KeepsMk.w_mem ?_ (sub_mem (by decide) hP) (fun x => x)
    | with_reducible refine keeps_trapAt _ _ _ _ ?_ (sub_trans (by decide) hP)
    | with_reducible refine keeps_lookOwn _ _ ?_ (sub_trans (by decide) hP)
    | with_reducible refine keeps_retire _ _ _ ?_ (sub_trans (by decide) hP)
    | with_reducible refine keeps_makeReq _ _ ?_ (sub_trans (by decide) hP)
    | with_reducible refine keeps_issueHeld _ _ _ ?_ (sub_trans (by decide) hP)
    | split

theorem keeps_execScalarLoad {ps : List Part} {s0 s : State} (o : Ord) (h : HartN)
    (hK : Keeps ps s0 s) (hP : sub [.beads, .clasps, .mem, .bezels, .ledger, .faults, .asy] ps = true) :
    KeepsOut ps s0 (execScalarLoad o h s) := by
  unfold execScalarLoad
  try dsimp only
  repeat' first
    | with_reducible assumption
    | with_reducible refine keeps_lrDo _ _ _ _ _ _ ?_ (sub_trans (by decide) hP)
    | with_reducible refine keeps_loadDo _ _ _ _ _ _ _ ?_ (sub_trans (by decide) hP)
    | with_reducible refine keepsOut_next ?_
    | with_reducible refine keepsOut_whenOk ?_ ?_
    | split

theorem keeps_storeDo {ps : List Part} {s0 s : State} (o : Ord) (h : HartN) (f : Fetched) (f3 : Nat) (v : Word) (addr
    : Word)
    (hK : Keeps ps s0 s) (hP : sub [.beads, .clasps, .mem, .bezels, .ledger, .faults, .asy] ps = true) :
    Keeps ps s0 (storeDo o h f f3 v addr s) := by
  unfold storeDo
  try dsimp only
  repeat' first
    | with_reducible assumption
    | with_reducible refine keeps_trapAt _ _ _ _ ?_ (sub_trans (by decide) hP)
    | with_reducible refine keeps_lookOwn _ _ ?_ (sub_trans (by decide) hP)
    | with_reducible refine keeps_modBead _ _ ?_ (sub_trans (by decide) hP)
    | with_reducible refine keeps_holdAt _ _ _ ?_ (sub_trans (by decide) hP)
    | with_reducible refine keeps_retire _ _ _ ?_ (sub_trans (by decide) hP)
    | with_reducible refine keeps_makeReq _ _ ?_ (sub_trans (by decide) hP)
    | with_reducible refine keeps_issueHeld _ _ _ ?_ (sub_trans (by decide) hP)
    | with_reducible refine keeps_dmemPut _ _ _ ?_ (sub_trans (by decide) hP)
    | split

theorem keeps_execScalarStore {ps : List Part} {s0 s : State} (o : Ord) (h : HartN)
    (hK : Keeps ps s0 s) (hP : sub [.beads, .clasps, .mem, .bezels, .ledger, .faults, .asy] ps = true) :
    KeepsOut ps s0 (execScalarStore o h s) := by
  unfold execScalarStore
  try dsimp only
  repeat' first
    | with_reducible assumption
    | with_reducible refine keeps_storeDo _ _ _ _ _ _ ?_ (sub_trans (by decide) hP)
    | with_reducible refine keepsOut_next ?_
    | with_reducible refine keepsOut_whenOk ?_ ?_
    | split

theorem keeps_setResv {ps : List Part} {s0 s : State} (hart : Nat) (v : Nat)
    (hK : Keeps ps s0 s) (hP : sub [.mem] ps = true) :
    Keeps ps s0 (setResv hart v s) := by
  unfold setResv
  try dsimp only
  repeat' first
    | with_reducible assumption
    | dsimp only [keeps_mk]
    | with_reducible refine KeepsMk.w_mem ?_ (sub_mem (by decide) hP) (fun x => x)
    | split

theorem keeps_resvAfter {ps : List Part} {s0 s : State} (f5 : Nat) (hart : Nat) (g : Nat)
    (hK : Keeps ps s0 s) (hP : sub [.mem] ps = true) :
    Keeps ps s0 (resvAfter f5 hart g s) := by
  unfold resvAfter
  try dsimp only
  repeat' first
    | with_reducible assumption
    | with_reducible refine keeps_setResv _ _ ?_ (sub_trans (by decide) hP)
    | split

theorem keeps_atomicDo {ps : List Part} {s0 s : State} (o : Ord) (h : HartN) (f : Fetched) (f5 : Nat) (dbl : Bool)
    (rd : Fin 32) (src : Word) (addr : Word)
    (hK : Keeps ps s0 s) (hP : sub [.beads, .clasps, .mem, .bezels, .ledger, .faults, .asy] ps = true) :
    Keeps ps s0 (atomicDo o h f f5 dbl rd src addr s) := by
  unfold atomicDo
  try dsimp only
  repeat' first
    | with_reducible assumption
    | with_reducible refine keeps_resvAfter _ _ _ ?_ (sub_trans (by decide) hP)
    | with_reducible refine keeps_trapAt _ _ _ _ ?_ (sub_trans (by decide) hP)
    | with_reducible refine keeps_lookOwn _ _ ?_ (sub_trans (by decide) hP)
    | with_reducible refine keeps_retire _ _ _ ?_ (sub_trans (by decide) hP)
    | with_reducible refine keeps_makeReq _ _ ?_ (sub_trans (by decide) hP)
    | with_reducible refine keeps_issueHeld _ _ _ ?_ (sub_trans (by decide) hP)
    | with_reducible refine keeps_dmemPut _ _ _ ?_ (sub_trans (by decide) hP)
    | split

theorem keeps_execScalarAtomic {ps : List Part} {s0 s : State} (o : Ord) (h : HartN)
    (hK : Keeps ps s0 s) (hP : sub [.beads, .clasps, .mem, .bezels, .ledger, .faults, .asy] ps = true) :
    KeepsOut ps s0 (execScalarAtomic o h s) := by
  unfold execScalarAtomic
  try dsimp only
  repeat' first
    | with_reducible assumption
    | with_reducible refine keeps_atomicDo _ _ _ _ _ _ _ _ ?_ (sub_trans (by decide) hP)
    | with_reducible refine keepsOut_next ?_
    | with_reducible refine keepsOut_whenOk ?_ ?_
    | split

theorem keeps_issueNow {ps : List Part} {s0 s : State} (o : Nat) (r : Req)
    (hK : Keeps ps s0 s) (hP : sub [.beads, .fabric, .clasps, .mem, .bezels, .ledger, .faults, .asy] ps = true) :
    Keeps ps s0 (issueNow o r s) := by
  unfold issueNow
  try dsimp only
  repeat' first
    | with_reducible assumption
    | with_reducible refine keeps_reqDone _ _ _ ?_ (sub_trans (by decide) hP)
    | with_reducible refine keeps_issueReq _ _ ?_ (sub_trans (by decide) hP)
    | split

theorem keeps_issueBest {ps : List Part} {s0 s : State} (o : Nat)
    (hK : Keeps ps s0 s) (hP : sub [.beads, .fabric, .clasps, .mem, .bezels, .ledger, .faults, .asy] ps = true) :
    Keeps ps s0 (issueBest o s) := by
  unfold issueBest
  try dsimp only
  repeat' first
    | with_reducible assumption
    | with_reducible refine keeps_issueNow _ _ ?_ (sub_trans (by decide) hP)
    | split

theorem keeps_execPageWalk {ps : List Part} {s0 s : State} (o : Ord) (req : Nat)
    (hK : Keeps ps s0 s) (hP : sub [.beads, .mmu] ps = true) :
    KeepsOut ps s0 (execPageWalk o req s) := by
  unfold execPageWalk
  dsimp only
  split
  · exact keepsOut_next hK
  · split
    · exact keepsOut_next hK
    · rename_i dev _
      unfold whenOk
      split
      · rename_i hok
        refine keepsOut_next ?_
        have hlt : (walksOf s (clusterOf o.val)).length < 16 := by
          simp only [Bool.and_eq_true, decide_eq_true_eq] at hok
          exact hok.2
        dsimp only [keeps_mk]
        refine KeepsMk.w_mmu (keeps_modBead _ _ hK (sub_trans (by decide) hP)) (sub_mem (by decide) hP) fun h k => ?_
        rw [tblGet_tblSet]
        split
        · simp only [List.length_append, List.length_singleton]
          omega
        · exact h k
      · exact keepsOut_next hK

theorem keeps_retryWalks {ps : List Part} {s0 s : State} (o : Nat)
    (hK : Keeps ps s0 s) (hP : sub [.beads, .clasps, .mem, .bezels, .ledger, .faults, .asy] ps = true) :
    Keeps ps s0 (retryWalks o s) := by
  unfold retryWalks
  try dsimp only
  repeat' first
    | with_reducible assumption
    | with_reducible refine keeps_xlatReq _ _ ?_ (sub_trans (by decide) hP)
    | with_reducible refine Keeps.foldl _ ?_ (fun t a hK => ?_)
    | with_reducible refine Keeps.foldlSnd _ ?_ (fun a k hK => ?_)
    | split

theorem keeps_walkEnd {ps : List Part} {s0 s : State} (w : Walk)
    (hK : Keeps ps s0 s) (hP : sub [.beads, .clasps, .mem, .bezels, .ledger, .faults, .asy] ps = true) :
    Keeps ps s0 (walkEnd w s) := by
  unfold walkEnd
  try dsimp only
  repeat' first
    | with_reducible assumption
    | with_reducible refine keeps_xlatReq _ _ ?_ (sub_trans (by decide) hP)
    | with_reducible refine keeps_modBead _ _ ?_ (sub_trans (by decide) hP)
    | with_reducible refine keeps_reqFail _ _ _ _ ?_ (sub_trans (by decide) hP)
    | with_reducible refine keeps_retryWalks _ ?_ (sub_trans (by decide) hP)
    | split

theorem keeps_execPageWalkComplete {ps : List Part} {s0 s : State} (cl : Fin 32)
    (hK : Keeps ps s0 s) (hP : sub [.beads, .mmu, .clasps, .mem, .bezels, .ledger, .faults, .asy] ps = true) :
    KeepsOut ps s0 (execPageWalkComplete cl s) := by
  unfold execPageWalkComplete
  split
  · rename_i w rest hw
    refine keepsOut_whenOk hK (keeps_walkEnd _ ?_ (sub_trans (by decide) hP))
    dsimp only [keeps_mk]
    refine KeepsMk.w_mmu hK (sub_mem (by decide) hP) fun h k => ?_
    rw [tblGet_tblSet]
    split
    · have h1 := h cl.val
      unfold walksOf at hw
      rw [hw] at h1
      simp only [List.length_cons] at h1
      omega
    · exact h k
  · exact keepsOut_next hK

theorem keeps_pushRun {ps : List Part} {s0 s : State} (o : Nat) (n : Nat) (x : StrandRun)
    (hK : Keeps ps s0 s) (hP : sub [.beads] ps = true) :
    Keeps ps s0 (pushRun o n x s) := by
  unfold pushRun
  try dsimp only
  repeat' first
    | with_reducible assumption
    | with_reducible refine keeps_modBead _ _ ?_ (sub_trans (by decide) hP)
    | split

theorem keeps_ownRun {ps : List Part} {s0 s : State} (o : Nat) (n : Nat) (x : StrandRun)
    (hK : Keeps ps s0 s) (hP : sub [.beads, .clasps, .mem, .bezels, .ledger, .faults, .asy] ps = true) :
    Keeps ps s0 (ownRun o n x s) := by
  unfold ownRun
  try dsimp only
  repeat' first
    | with_reducible assumption
    | with_reducible refine keeps_modBead _ _ ?_ (sub_trans (by decide) hP)
    | with_reducible refine keeps_ownRead _ _ _ ?_ (sub_trans (by decide) hP)
    | with_reducible refine keeps_makeReq _ _ ?_ (sub_trans (by decide) hP)
    | with_reducible refine keeps_dmemPut _ _ _ ?_ (sub_trans (by decide) hP)
    | with_reducible refine Keeps.upToSnd _ ?_ (fun a k hK => ?_)
    | with_reducible refine Keeps.upTo _ ?_ (fun t k hK => ?_)
    | split

theorem keeps_askRun {ps : List Part} {s0 s : State} (o : Nat) (n : Nat) (x : StrandRun)
    (hK : Keeps ps s0 s) (hP : sub [.beads, .clasps, .mem, .bezels, .ledger, .faults, .asy] ps = true) :
    Keeps ps s0 (askRun o n x s) := by
  unfold askRun
  try dsimp only
  repeat' first
    | with_reducible assumption
    | with_reducible refine keeps_ownRun _ _ _ ?_ (sub_trans (by decide) hP)
    | with_reducible refine keeps_makeReq _ _ ?_ (sub_trans (by decide) hP)
    | split

theorem keeps_requestRun {ps : List Part} {s0 s : State} (o : Nat) (n : Nat) (i : Nat) (src : Nat) (ix : Word)
    (hK : Keeps ps s0 s) (hP : sub [.beads, .clasps, .mem, .bezels, .ledger, .faults, .asy] ps = true) :
    Keeps ps s0 (requestRun o n i src ix s) := by
  unfold requestRun
  try dsimp only
  repeat' first
    | with_reducible assumption
    | with_reducible refine keeps_pushRun _ _ _ ?_ (sub_trans (by decide) hP)
    | with_reducible refine keeps_askRun _ _ _ ?_ (sub_trans (by decide) hP)
    | split

theorem keeps_requestIndex {ps : List Part} {s0 s : State} (o : Nat) (n : Nat) (j : Nat)
    (hK : Keeps ps s0 s) (hP : sub [.beads, .clasps, .mem, .bezels, .ledger, .faults, .asy] ps = true) :
    Keeps ps s0 (requestIndex o n j s) := by
  unfold requestIndex
  try dsimp only
  repeat' first
    | with_reducible assumption
    | with_reducible refine keeps_makeReq _ _ ?_ (sub_trans (by decide) hP)
    | split

theorem keeps_strandIssue {ps : List Part} {s0 s : State} (o : Nat) (n : Nat)
    (hK : Keeps ps s0 s) (hP : sub [.beads, .clasps, .mem, .bezels, .ledger, .faults, .asy] ps = true) :
    KeepsSome ps s0 (strandIssue o n s) := by
  have hask : KeepsSome ps s0 ((nextIndexAt s o n).map fun j => requestIndex o n j s) := by
    cases nextIndexAt s o n with
    | none => exact keepsSome_none
    | some j => exact keepsSome_some (keeps_requestIndex _ _ _ hK (sub_trans (by decide) hP))
  unfold strandIssue
  generalize (nextIndexAt s o n).map (fun j => requestIndex o n j s) = ask at hask ⊢
  cases nextRunAt (beadOf s o) n with
  | none => exact hask
  | some j =>
    refine keepsSome_ite ?_ (keepsSome_some (keeps_requestRun _ _ _ _ _ hK (sub_trans (by decide) hP)))
    cases indexEntry s o n j with
    | none => exact hask
    | some w =>
      have h1 : Keeps ps s0 (if sdSort (strandOf (beadOf s o) n).desc = true then s else lookIndex o n j s) :=
        Keeps.ite hK (keeps_lookIndex _ _ _ hK (sub_trans (by decide) hP))
      exact keepsSome_ite (keepsSome_some (keeps_pushRun _ _ _ h1 (sub_trans (by decide) hP)))
        (keepsSome_some (keeps_requestRun _ _ _ _ _ h1 (sub_trans (by decide) hP)))

theorem keeps_askStrand {ps : List Part} {s0 s : State} (o : Nat) (n : Nat)
    (hK : Keeps ps s0 s) (hP : sub [.beads, .clasps, .mem, .bezels, .ledger, .faults, .asy] ps = true) :
    Keeps ps s0 (askStrand o n s) := by
  unfold askStrand
  try dsimp only
  repeat' first
    | with_reducible assumption
    | with_reducible refine KeepsSome.get (keeps_strandIssue _ _ ?_ (sub_trans (by decide) hP)) (by assumption)
    | with_reducible refine keeps_strandIssue _ _ ?_ (sub_trans (by decide) hP)
    | split

theorem keeps_askStrands {ps : List Part} {s0 s : State} (o : Nat)
    (hK : Keeps ps s0 s) (hP : sub [.beads, .clasps, .mem, .bezels, .ledger, .faults, .asy] ps = true) :
    Keeps ps s0 (askStrands o s) := by
  unfold askStrands
  try dsimp only
  repeat' first
    | with_reducible assumption
    | with_reducible refine keeps_askStrand _ _ ?_ (sub_trans (by decide) hP)
    | with_reducible refine Keeps.upToSnd _ ?_ (fun a k hK => ?_)
    | with_reducible refine Keeps.upTo _ ?_ (fun t k hK => ?_)
    | split

theorem keeps_execRequestIssue {ps : List Part} {s0 s : State} (o : Ord)
    (hK : Keeps ps s0 s) (hP : sub [.beads, .fabric, .clasps, .mem, .bezels, .ledger, .faults, .asy] ps = true) :
    KeepsOut ps s0 (execRequestIssue o s) := by
  unfold execRequestIssue
  try dsimp only
  repeat' first
    | with_reducible assumption
    | with_reducible refine keeps_issueBest _ ?_ (sub_trans (by decide) hP)
    | with_reducible refine keeps_serveRow _ _ ?_ (sub_trans (by decide) hP)
    | with_reducible refine keeps_askStrands _ ?_ (sub_trans (by decide) hP)
    | with_reducible refine keepsOut_next ?_
    | with_reducible refine keepsOut_whenOk ?_ ?_
    | split

theorem keeps_doneNow {ps : List Part} {s0 s : State} (o : Nat) (e : QEntry)
    (hK : Keeps ps s0 s) (hP : sub [.beads] ps = true) :
    Keeps ps s0 (doneNow o e s) := by
  unfold doneNow
  try dsimp only
  repeat' first
    | with_reducible assumption
    | with_reducible refine keeps_modBead _ _ ?_ (sub_trans (by decide) hP)
    | split

theorem keeps_claspStart {ps : List Part} {s0 s : State} (o : Nat) (op : Nat) (e : QEntry)
    (hK : Keeps ps s0 s) (hP : sub [.beads, .fabric, .clasps, .asy] ps = true) :
    KeepsStart ps s0 (claspStart o op e s) := by
  unfold claspStart
  try dsimp only
  repeat' first
    | with_reducible assumption
    | with_reducible refine keeps_claspReach _ _ _ ?_ (sub_trans (by decide) hP)
    | with_reducible refine keeps_sendMsg _ ?_ (sub_trans (by decide) hP)
    | with_reducible refine keeps_claspWait _ _ _ _ ?_ (sub_trans (by decide) hP)
    | with_reducible refine keeps_sendHeld _ _ _ _ ?_ (sub_trans (by decide) hP)
    | with_reducible refine keeps_doneNow _ _ ?_ (sub_trans (by decide) hP)
    | with_reducible refine keeps_setArrivals _ _ ?_ (sub_trans (by decide) hP)
    | with_reducible refine keeps_holdSlot _ _ _ _ ?_ (sub_trans (by decide) hP)
    | with_reducible refine keepsStart_go ?_
    | with_reducible exact keepsStart_fault _
    | split

theorem keeps_chReads {ps : List Part} {s0 s : State} (o : Nat) (e : QEntry)
    (hK : Keeps ps s0 s) (hP : sub [.beads, .clasps, .mem, .bezels, .ledger, .faults, .asy] ps = true) :
    Keeps ps s0 (chReads o e s) := by
  unfold chReads
  try dsimp only
  repeat' first
    | with_reducible assumption
    | with_reducible refine keeps_makeReq _ _ ?_ (sub_trans (by decide) hP)
    | with_reducible refine Keeps.upToSnd _ ?_ (fun a k hK => ?_)
    | with_reducible refine Keeps.upTo _ ?_ (fun t k hK => ?_)
    | split

theorem keeps_chStart {ps : List Part} {s0 s : State} (o : Nat) (e : QEntry)
    (hK : Keeps ps s0 s) (hP : sub [.beads, .fabric, .clasps, .mem, .bezels, .ledger, .faults, .asy] ps = true) :
    KeepsStart ps s0 (chStart o e s) := by
  unfold chStart
  try dsimp only
  repeat' first
    | with_reducible assumption
    | with_reducible refine keeps_chReads _ _ ?_ (sub_trans (by decide) hP)
    | with_reducible refine keeps_chAsk _ _ ?_ (sub_trans (by decide) hP)
    | with_reducible refine keeps_chPump _ _ ?_ (sub_trans (by decide) hP)
    | with_reducible refine keepsStart_go ?_
    | with_reducible exact keepsStart_fault _
    | split

theorem keeps_creditSource {ps : List Part} {s0 s : State} (src : NodeN) (tag : BitVec 10) (last : Bool)
    (hK : Keeps ps s0 s) (hP : sub [.beads] ps = true) :
    Keeps ps s0 (creditSource src tag last s) := by
  unfold creditSource
  try dsimp only
  repeat' first
    | with_reducible assumption
    | with_reducible refine keeps_partGone _ _ ?_ (sub_trans (by decide) hP)
    | with_reducible refine keeps_modBead _ _ ?_ (sub_trans (by decide) hP)
    | split

theorem keeps_chAccepted {ps : List Part} {s0 s : State} (m : Msg)
    (hK : Keeps ps s0 s) (hP : sub [.beads] ps = true) :
    Keeps ps s0 (chAccepted m s) := by
  unfold chAccepted
  try dsimp only
  repeat' first
    | with_reducible assumption
    | with_reducible refine keeps_creditSource _ _ _ ?_ (sub_trans (by decide) hP)
    | with_reducible refine Keeps.foldl _ ?_ (fun t a hK => ?_)
    | with_reducible refine Keeps.foldlSnd _ ?_ (fun a k hK => ?_)
    | split

theorem keeps_execChRdResponseTimeout {ps : List Part} {s0 s : State} (o : Ord)
    (hK : Keeps ps s0 s) (hP : sub [.beads, .ledger, .faults, .asy] ps = true) :
    KeepsOut ps s0 (execChRdResponseTimeout o s) := by
  unfold execChRdResponseTimeout
  try dsimp only
  repeat' first
    | with_reducible assumption
    | with_reducible refine keeps_failEntry _ _ _ _ _ _ ?_ (sub_trans (by decide) hP)
    | with_reducible refine keepsOut_next ?_
    | with_reducible refine keepsOut_whenOk ?_ ?_
    | split

theorem keeps_askMask {ps : List Part} {s0 s : State} (o : Nat) (e : QEntry)
    (hK : Keeps ps s0 s) (hP : sub [.beads, .clasps, .mem, .bezels, .ledger, .faults, .asy] ps = true) :
    Keeps ps s0 (askMask o e s) := by
  unfold askMask
  try dsimp only
  repeat' first
    | with_reducible assumption
    | with_reducible refine keeps_makeReq _ _ ?_ (sub_trans (by decide) hP)
    | split

theorem keeps_readMask {ps : List Part} {s0 s : State} (o : Nat) (e : QEntry)
    (hK : Keeps ps s0 s) (hP : sub [.beads, .clasps, .mem, .bezels, .ledger, .faults, .asy] ps = true) :
    Keeps ps s0 (readMask o e s) := by
  unfold readMask
  try dsimp only
  repeat' first
    | with_reducible assumption
    | with_reducible refine keeps_lookOwn _ _ ?_ (sub_trans (by decide) hP)
    | with_reducible refine keeps_modBead _ _ ?_ (sub_trans (by decide) hP)
    | with_reducible refine keeps_askMask _ _ ?_ (sub_trans (by decide) hP)
    | split

theorem keeps_maskDue {ps : List Part} {s0 s : State} (o : Nat)
    (hK : Keeps ps s0 s) (hP : sub [.beads, .clasps, .mem, .bezels, .ledger, .faults, .asy] ps = true) :
    Keeps ps s0 (maskDue o s) := by
  unfold maskDue
  try dsimp only
  repeat' first
    | with_reducible assumption
    | with_reducible refine keeps_readMask _ _ ?_ (sub_trans (by decide) hP)
    | split

theorem keeps_recount {ps : List Part} {s0 s : State} (o : Nat) (e : QEntry)
    (hK : Keeps ps s0 s) (hP : sub [.asy] ps = true) :
    Keeps ps s0 (recount o e s) := by
  unfold recount
  try dsimp only
  repeat' first
    | with_reducible assumption
    | with_reducible refine keeps_uncountEv _ _ _ ?_ (sub_trans (by decide) hP)
    | with_reducible refine keeps_countEv _ _ _ ?_ (sub_trans (by decide) hP)
    | split

theorem keeps_matrixFail {ps : List Part} {s0 s : State} (o : Nat) (e : QEntry) (code : Nat) (part : Nat) (addr : Nat)
    (hK : Keeps ps s0 s) (hP : sub [.beads, .ledger, .faults, .asy] ps = true) :
    Keeps ps s0 (matrixFail o e code part addr s) := by
  unfold matrixFail
  try dsimp only
  repeat' first
    | with_reducible assumption
    | with_reducible refine keeps_recount _ _ ?_ (sub_trans (by decide) hP)
    | with_reducible refine keeps_modBead _ _ ?_ (sub_trans (by decide) hP)
    | with_reducible refine keeps_failEntry _ _ _ _ _ _ ?_ (sub_trans (by decide) hP)
    | split

theorem keeps_fetchRun {ps : List Part} {s0 s : State} (o : Nat) (n : Nat) (x : StrandRun) (again : Bool)
    (hK : Keeps ps s0 s) (hP : sub [.beads, .clasps, .mem, .bezels, .ledger, .faults, .asy] ps = true) :
    Keeps ps s0 (fetchRun o n x again s) := by
  unfold fetchRun
  try dsimp only
  repeat' first
    | with_reducible assumption
    | with_reducible refine keeps_modBead _ _ ?_ (sub_trans (by decide) hP)
    | with_reducible refine keeps_askRun _ _ _ ?_ (sub_trans (by decide) hP)
    | split

theorem keeps_refetchRun {ps : List Part} {s0 s : State} (o : Nat) (n : Nat) (x : StrandRun)
    (hK : Keeps ps s0 s) (hP : sub [.beads, .clasps, .mem, .bezels, .ledger, .faults, .asy] ps = true) :
    Keeps ps s0 (refetchRun o n x s) := by
  unfold refetchRun
  try dsimp only
  repeat' first
    | with_reducible assumption
    | with_reducible refine keeps_countEv _ _ _ ?_ (sub_trans (by decide) hP)
    | with_reducible refine keeps_fetchRun _ _ _ _ ?_ (sub_trans (by decide) hP)
    | split

theorem keeps_feedRun {ps : List Part} {s0 s : State} (o : Nat) (n : Nat) (e : QEntry) (x : StrandRun)
    (hK : Keeps ps s0 s) (hP : sub [.beads, .clasps, .mem, .bezels, .ledger, .faults, .asy] ps = true) :
    Keeps ps s0 (feedRun o n e x s) := by
  unfold feedRun
  try dsimp only
  repeat' first
    | with_reducible assumption
    | with_reducible refine keeps_modBead _ _ ?_ (sub_trans (by decide) hP)
    | with_reducible refine keeps_settleStrand _ _ ?_ (sub_trans (by decide) hP)
    | with_reducible refine keeps_deliverRun _ _ _ ?_ (sub_trans (by decide) hP)
    | with_reducible refine keeps_fetchRun _ _ _ _ ?_ (sub_trans (by decide) hP)
    | with_reducible refine keeps_matrixFail _ _ _ _ _ ?_ (sub_trans (by decide) hP)
    | split

theorem keeps_feedStrand {ps : List Part} {s0 s : State} (o : Nat) (n : Nat)
    (hK : Keeps ps s0 s) (hP : sub [.beads, .clasps, .mem, .bezels, .ledger, .faults, .asy] ps = true) :
    Keeps ps s0 (feedStrand o n s) := by
  unfold feedStrand
  try dsimp only
  repeat' first
    | with_reducible assumption
    | with_reducible refine keeps_feedRun _ _ _ _ ?_ (sub_trans (by decide) hP)
    | with_reducible refine Keeps.upToSnd _ ?_ (fun a k hK => ?_)
    | with_reducible refine Keeps.upTo _ ?_ (fun t k hK => ?_)
    | split

theorem keeps_feedAll {ps : List Part} {s0 s : State} (o : Nat)
    (hK : Keeps ps s0 s) (hP : sub [.beads, .clasps, .mem, .bezels, .ledger, .faults, .asy] ps = true) :
    Keeps ps s0 (feedAll o s) := by
  unfold feedAll
  try dsimp only
  repeat' first
    | with_reducible assumption
    | with_reducible refine keeps_feedStrand _ _ ?_ (sub_trans (by decide) hP)
    | with_reducible refine Keeps.upToSnd _ ?_ (fun a k hK => ?_)
    | with_reducible refine Keeps.upTo _ ?_ (fun t k hK => ?_)
    | split

theorem keeps_takeRow {ps : List Part} {s0 s : State} (o : Nat) (n : Nat)
    (hK : Keeps ps s0 s) (hP : sub [.beads, .clasps, .mem, .bezels, .ledger, .faults, .asy] ps = true) :
    Keeps ps s0 (takeRow o n s) := by
  unfold takeRow
  try dsimp only
  repeat' first
    | with_reducible assumption
    | with_reducible refine keeps_consumeRun _ _ ?_ (sub_trans (by decide) hP)
    | with_reducible refine keeps_modBead _ _ ?_ (sub_trans (by decide) hP)
    | split

theorem keeps_fedStep {ps : List Part} {s0 s : State} (o : Nat) (n : Nat) (a : Nat) (e : QEntry)
    (hK : Keeps ps s0 s) (hP : sub [.beads, .clasps, .mem, .bezels, .ledger, .faults, .asy] ps = true) :
    Keeps ps s0 (fedStep o n a e s) := by
  unfold fedStep
  try dsimp only
  repeat' first
    | with_reducible assumption
    | with_reducible refine keeps_refetchRun _ _ _ ?_ (sub_trans (by decide) hP)
    | with_reducible refine keeps_takeRow _ _ ?_ (sub_trans (by decide) hP)
    | with_reducible refine keeps_modBead _ _ ?_ (sub_trans (by decide) hP)
    | with_reducible refine keeps_endStrand _ _ _ _ ?_ (sub_trans (by decide) hP)
    | with_reducible refine keeps_matrixFail _ _ _ _ _ ?_ (sub_trans (by decide) hP)
    | split

theorem keeps_feedStep {ps : List Part} {s0 s : State} (o : Nat) (n : Nat) (a : Nat) (e : QEntry)
    (hK : Keeps ps s0 s) (hP : sub [.beads, .clasps, .mem, .bezels, .ledger, .faults, .asy] ps = true) :
    Keeps ps s0 (feedStep o n a e s) := by
  unfold feedStep
  try dsimp only
  repeat' first
    | with_reducible assumption
    | with_reducible refine keeps_fedStep _ _ _ _ ?_ (sub_trans (by decide) hP)
    | with_reducible refine keeps_feedStrand _ _ ?_ (sub_trans (by decide) hP)
    | split

theorem keeps_rowStep {ps : List Part} {s0 s : State} (o : Nat) (a : Nat) (e : QEntry)
    (hK : Keeps ps s0 s) (hP : sub [.beads, .clasps, .mem, .bezels, .ledger, .faults, .asy] ps = true) :
    Keeps ps s0 (rowStep o a e s) := by
  unfold rowStep
  try dsimp only
  repeat' first
    | with_reducible assumption
    | with_reducible refine keeps_feedStep _ _ _ _ ?_ (sub_trans (by decide) hP)
    | with_reducible refine keeps_modBead _ _ ?_ (sub_trans (by decide) hP)
    | split

theorem keeps_execArrayRowEnter {ps : List Part} {s0 s : State} (o : Ord) (a : ArrN)
    (hK : Keeps ps s0 s) (hP : sub [.beads, .clasps, .mem, .bezels, .ledger, .faults, .asy] ps = true) :
    KeepsOut ps s0 (execArrayRowEnter o a s) := by
  unfold execArrayRowEnter
  try dsimp only
  repeat' first
    | with_reducible assumption
    | with_reducible refine keeps_rowStep _ _ _ ?_ (sub_trans (by decide) hP)
    | with_reducible refine keepsOut_next ?_
    | with_reducible refine keepsOut_whenOk ?_ ?_
    | split

theorem keeps_rowDone {ps : List Part} {s0 s : State} (o : Nat) (a : Nat)
    (hK : Keeps ps s0 s) (hP : sub [.beads, .ledger, .faults, .asy] ps = true) :
    Keeps ps s0 (rowDone o a s) := by
  unfold rowDone
  try dsimp only
  repeat' first
    | with_reducible assumption
    | with_reducible refine keeps_settleHead _ _ ?_ (sub_trans (by decide) hP)
    | with_reducible refine keeps_setBead _ _ ?_ (sub_trans (by decide) hP)
    | split

theorem keeps_execArrayRowComplete {ps : List Part} {s0 s : State} (o : Ord) (a : ArrN)
    (hK : Keeps ps s0 s) (hP : sub [.beads, .ledger, .faults, .asy] ps = true) :
    KeepsOut ps s0 (execArrayRowComplete o a s) := by
  unfold execArrayRowComplete
  try dsimp only
  repeat' first
    | with_reducible assumption
    | with_reducible refine keeps_rowDone _ _ ?_ (sub_trans (by decide) hP)
    | with_reducible refine keepsOut_next ?_
    | with_reducible refine keepsOut_whenOk ?_ ?_
    | split

theorem keeps_execWeightsActivate {ps : List Part} {s0 s : State} (o : Ord) (a : ArrN)
    (hK : Keeps ps s0 s) (hP : sub [.beads] ps = true) :
    KeepsOut ps s0 (execWeightsActivate o a s) := by
  unfold execWeightsActivate
  try dsimp only
  repeat' first
    | with_reducible assumption
    | with_reducible refine keeps_modBead _ _ ?_ (sub_trans (by decide) hP)
    | with_reducible refine keepsOut_next ?_
    | with_reducible refine keepsOut_whenOk ?_ ?_
    | split

theorem keeps_noteHandles {ps : List Part} {s0 s : State} (l : List Nat)
    (hK : Keeps ps s0 s) (hP : sub [.ledger] ps = true) :
    Keeps ps s0 (noteHandles l s) := by
  unfold noteHandles
  try dsimp only
  repeat' first
    | with_reducible assumption
    | dsimp only [keeps_mk]
    | with_reducible refine KeepsMk.w_ledger ?_ (sub_mem (by decide) hP) (fun x => x)
    | with_reducible refine Keeps.foldl _ ?_ (fun t a hK => ?_)
    | with_reducible refine Keeps.foldlSnd _ ?_ (fun a k hK => ?_)
    | split

theorem keeps_enqueue {ps : List Part} {s0 s : State} (o : Ord) (h : HartN) (f : Fetched) (i : XInsn) (q : Nat)
    (hK : Keeps ps s0 s) (hP : sub [.beads, .clasps, .mem, .bezels, .ledger, .faults, .asy] ps = true) :
    Keeps ps s0 (enqueue o h f i q s) := by
  unfold enqueue
  try dsimp only
  repeat' first
    | with_reducible assumption
    | with_reducible refine keeps_countEv _ _ _ ?_ (sub_trans (by decide) hP)
    | with_reducible refine keeps_maskDue _ ?_ (sub_trans (by decide) hP)
    | with_reducible refine keeps_noteHandles _ ?_ (sub_trans (by decide) hP)
    | with_reducible refine keeps_holdAt _ _ _ ?_ (sub_trans (by decide) hP)
    | with_reducible refine keeps_retire _ _ _ ?_ (sub_trans (by decide) hP)
    | with_reducible refine keeps_setBead _ _ ?_ (sub_trans (by decide) hP)
    | split

theorem keeps_issueRow {ps : List Part} {s0 s : State} (p : XInsn → Bool) (o : Ord) (h : HartN)
    (hK : Keeps ps s0 s) (hP : sub [.beads, .clasps, .mem, .bezels, .ledger, .faults, .asy] ps = true) :
    KeepsOut ps s0 (issueRow p o h s) := by
  unfold issueRow
  try dsimp only
  repeat' first
    | with_reducible assumption
    | with_reducible refine keeps_enqueue _ _ _ _ _ ?_ (sub_trans (by decide) hP)
    | with_reducible refine keepsOut_next ?_
    | with_reducible refine keepsOut_whenOk ?_ ?_
    | split

theorem keeps_execMmA {ps : List Part} {s0 s : State} (o : Ord) (h : HartN)
    (hK : Keeps ps s0 s) (hP : sub [.beads, .clasps, .mem, .bezels, .ledger, .faults, .asy] ps = true) :
    KeepsOut ps s0 (execMmA o h s) := by
  unfold execMmA
  try dsimp only
  repeat' first
    | with_reducible assumption
    | with_reducible refine keeps_issueRow _ _ _ ?_ (sub_trans (by decide) hP)
    | with_reducible refine keepsOut_next ?_
    | with_reducible refine keepsOut_whenOk ?_ ?_
    | split

theorem keeps_execMmB {ps : List Part} {s0 s : State} (o : Ord) (h : HartN)
    (hK : Keeps ps s0 s) (hP : sub [.beads, .clasps, .mem, .bezels, .ledger, .faults, .asy] ps = true) :
    KeepsOut ps s0 (execMmB o h s) := by
  unfold execMmB
  try dsimp only
  repeat' first
    | with_reducible assumption
    | with_reducible refine keeps_issueRow _ _ _ ?_ (sub_trans (by decide) hP)
    | with_reducible refine keepsOut_next ?_
    | with_reducible refine keepsOut_whenOk ?_ ?_
    | split

theorem keeps_execMmAB {ps : List Part} {s0 s : State} (o : Ord) (h : HartN)
    (hK : Keeps ps s0 s) (hP : sub [.beads, .clasps, .mem, .bezels, .ledger, .faults, .asy] ps = true) :
    KeepsOut ps s0 (execMmAB o h s) := by
  unfold execMmAB
  try dsimp only
  repeat' first
    | with_reducible assumption
    | with_reducible refine keeps_issueRow _ _ _ ?_ (sub_trans (by decide) hP)
    | with_reducible refine keepsOut_next ?_
    | with_reducible refine keepsOut_whenOk ?_ ?_
    | split

theorem keeps_execMmBwd {ps : List Part} {s0 s : State} (o : Ord) (h : HartN)
    (hK : Keeps ps s0 s) (hP : sub [.beads, .clasps, .mem, .bezels, .ledger, .faults, .asy] ps = true) :
    KeepsOut ps s0 (execMmBwd o h s) := by
  unfold execMmBwd
  try dsimp only
  repeat' first
    | with_reducible assumption
    | with_reducible refine keeps_issueRow _ _ _ ?_ (sub_trans (by decide) hP)
    | with_reducible refine keepsOut_next ?_
    | with_reducible refine keepsOut_whenOk ?_ ?_
    | split

theorem keeps_execTld {ps : List Part} {s0 s : State} (o : Ord) (h : HartN)
    (hK : Keeps ps s0 s) (hP : sub [.beads, .clasps, .mem, .bezels, .ledger, .faults, .asy] ps = true) :
    KeepsOut ps s0 (execTld o h s) := by
  unfold execTld
  try dsimp only
  repeat' first
    | with_reducible assumption
    | with_reducible refine keeps_issueRow _ _ _ ?_ (sub_trans (by decide) hP)
    | with_reducible refine keepsOut_next ?_
    | with_reducible refine keepsOut_whenOk ?_ ?_
    | split

theorem keeps_execTst {ps : List Part} {s0 s : State} (o : Ord) (h : HartN)
    (hK : Keeps ps s0 s) (hP : sub [.beads, .clasps, .mem, .bezels, .ledger, .faults, .asy] ps = true) :
    KeepsOut ps s0 (execTst o h s) := by
  unfold execTst
  try dsimp only
  repeat' first
    | with_reducible assumption
    | with_reducible refine keeps_issueRow _ _ _ ?_ (sub_trans (by decide) hP)
    | with_reducible refine keepsOut_next ?_
    | with_reducible refine keepsOut_whenOk ?_ ?_
    | split

theorem keeps_execStrGo {ps : List Part} {s0 s : State} (o : Ord) (h : HartN)
    (hK : Keeps ps s0 s) (hP : sub [.beads, .clasps, .mem, .bezels, .ledger, .faults, .asy] ps = true) :
    KeepsOut ps s0 (execStrGo o h s) := by
  unfold execStrGo
  try dsimp only
  repeat' first
    | with_reducible assumption
    | with_reducible refine keeps_issueRow _ _ _ ?_ (sub_trans (by decide) hP)
    | with_reducible refine keepsOut_next ?_
    | with_reducible refine keepsOut_whenOk ?_ ?_
    | split

theorem keeps_execStrStop {ps : List Part} {s0 s : State} (o : Ord) (h : HartN)
    (hK : Keeps ps s0 s) (hP : sub [.beads, .clasps, .mem, .bezels, .ledger, .faults, .asy] ps = true) :
    KeepsOut ps s0 (execStrStop o h s) := by
  unfold execStrStop
  try dsimp only
  repeat' first
    | with_reducible assumption
    | with_reducible refine keeps_issueRow _ _ _ ?_ (sub_trans (by decide) hP)
    | with_reducible refine keepsOut_next ?_
    | with_reducible refine keepsOut_whenOk ?_ ?_
    | split

theorem keeps_execDtFill {ps : List Part} {s0 s : State} (o : Ord) (h : HartN)
    (hK : Keeps ps s0 s) (hP : sub [.beads, .clasps, .mem, .bezels, .ledger, .faults, .asy] ps = true) :
    KeepsOut ps s0 (execDtFill o h s) := by
  unfold execDtFill
  try dsimp only
  repeat' first
    | with_reducible assumption
    | with_reducible refine keeps_issueRow _ _ _ ?_ (sub_trans (by decide) hP)
    | with_reducible refine keepsOut_next ?_
    | with_reducible refine keepsOut_whenOk ?_ ?_
    | split

theorem keeps_execDrAct {ps : List Part} {s0 s : State} (o : Ord) (h : HartN)
    (hK : Keeps ps s0 s) (hP : sub [.beads, .clasps, .mem, .bezels, .ledger, .faults, .asy] ps = true) :
    KeepsOut ps s0 (execDrAct o h s) := by
  unfold execDrAct
  try dsimp only
  repeat' first
    | with_reducible assumption
    | with_reducible refine keeps_issueRow _ _ _ ?_ (sub_trans (by decide) hP)
    | with_reducible refine keepsOut_next ?_
    | with_reducible refine keepsOut_whenOk ?_ ?_
    | split

theorem keeps_execDrDact {ps : List Part} {s0 s : State} (o : Ord) (h : HartN)
    (hK : Keeps ps s0 s) (hP : sub [.beads, .clasps, .mem, .bezels, .ledger, .faults, .asy] ps = true) :
    KeepsOut ps s0 (execDrDact o h s) := by
  unfold execDrDact
  try dsimp only
  repeat' first
    | with_reducible assumption
    | with_reducible refine keeps_issueRow _ _ _ ?_ (sub_trans (by decide) hP)
    | with_reducible refine keepsOut_next ?_
    | with_reducible refine keepsOut_whenOk ?_ ?_
    | split

theorem keeps_execDrStat {ps : List Part} {s0 s : State} (o : Ord) (h : HartN)
    (hK : Keeps ps s0 s) (hP : sub [.beads, .clasps, .mem, .bezels, .ledger, .faults, .asy] ps = true) :
    KeepsOut ps s0 (execDrStat o h s) := by
  unfold execDrStat
  try dsimp only
  repeat' first
    | with_reducible assumption
    | with_reducible refine keeps_issueRow _ _ _ ?_ (sub_trans (by decide) hP)
    | with_reducible refine keepsOut_next ?_
    | with_reducible refine keepsOut_whenOk ?_ ?_
    | split

theorem keeps_execClaspSig {ps : List Part} {s0 s : State} (o : Ord) (h : HartN)
    (hK : Keeps ps s0 s) (hP : sub [.beads, .clasps, .mem, .bezels, .ledger, .faults, .asy] ps = true) :
    KeepsOut ps s0 (execClaspSig o h s) := by
  unfold execClaspSig
  try dsimp only
  repeat' first
    | with_reducible assumption
    | with_reducible refine keeps_issueRow _ _ _ ?_ (sub_trans (by decide) hP)
    | with_reducible refine keepsOut_next ?_
    | with_reducible refine keepsOut_whenOk ?_ ?_
    | split

theorem keeps_execClaspWait {ps : List Part} {s0 s : State} (o : Ord) (h : HartN)
    (hK : Keeps ps s0 s) (hP : sub [.beads, .clasps, .mem, .bezels, .ledger, .faults, .asy] ps = true) :
    KeepsOut ps s0 (execClaspWait o h s) := by
  unfold execClaspWait
  try dsimp only
  repeat' first
    | with_reducible assumption
    | with_reducible refine keeps_issueRow _ _ _ ?_ (sub_trans (by decide) hP)
    | with_reducible refine keepsOut_next ?_
    | with_reducible refine keepsOut_whenOk ?_ ?_
    | split

theorem keeps_execClaspTake {ps : List Part} {s0 s : State} (o : Ord) (h : HartN)
    (hK : Keeps ps s0 s) (hP : sub [.beads, .clasps, .mem, .bezels, .ledger, .faults, .asy] ps = true) :
    KeepsOut ps s0 (execClaspTake o h s) := by
  unfold execClaspTake
  try dsimp only
  repeat' first
    | with_reducible assumption
    | with_reducible refine keeps_issueRow _ _ _ ?_ (sub_trans (by decide) hP)
    | with_reducible refine keepsOut_next ?_
    | with_reducible refine keepsOut_whenOk ?_ ?_
    | split

theorem keeps_execChWr {ps : List Part} {s0 s : State} (o : Ord) (h : HartN)
    (hK : Keeps ps s0 s) (hP : sub [.beads, .clasps, .mem, .bezels, .ledger, .faults, .asy] ps = true) :
    KeepsOut ps s0 (execChWr o h s) := by
  unfold execChWr
  try dsimp only
  repeat' first
    | with_reducible assumption
    | with_reducible refine keeps_issueRow _ _ _ ?_ (sub_trans (by decide) hP)
    | with_reducible refine keepsOut_next ?_
    | with_reducible refine keepsOut_whenOk ?_ ?_
    | split

theorem keeps_execChRd {ps : List Part} {s0 s : State} (o : Ord) (h : HartN)
    (hK : Keeps ps s0 s) (hP : sub [.beads, .clasps, .mem, .bezels, .ledger, .faults, .asy] ps = true) :
    KeepsOut ps s0 (execChRd o h s) := by
  unfold execChRd
  try dsimp only
  repeat' first
    | with_reducible assumption
    | with_reducible refine keeps_issueRow _ _ _ ?_ (sub_trans (by decide) hP)
    | with_reducible refine keepsOut_next ?_
    | with_reducible refine keepsOut_whenOk ?_ ?_
    | split

theorem keeps_execChAcc {ps : List Part} {s0 s : State} (o : Ord) (h : HartN)
    (hK : Keeps ps s0 s) (hP : sub [.beads, .clasps, .mem, .bezels, .ledger, .faults, .asy] ps = true) :
    KeepsOut ps s0 (execChAcc o h s) := by
  unfold execChAcc
  try dsimp only
  repeat' first
    | with_reducible assumption
    | with_reducible refine keeps_issueRow _ _ _ ?_ (sub_trans (by decide) hP)
    | with_reducible refine keepsOut_next ?_
    | with_reducible refine keepsOut_whenOk ?_ ?_
    | split

theorem keeps_qbarDo {ps : List Part} {s0 s : State} (o : Ord) (h : HartN) (f : Fetched) (mask : BitVec 4) (hold : Bool)
    (hK : Keeps ps s0 s) (hP : sub [.beads, .clasps, .mem, .bezels, .ledger, .faults, .asy] ps = true) :
    Keeps ps s0 (qbarDo o h f mask hold s) := by
  unfold qbarDo
  try dsimp only
  repeat' first
    | with_reducible assumption
    | with_reducible refine keeps_modBead _ _ ?_ (sub_trans (by decide) hP)
    | with_reducible refine keeps_maskDue _ ?_ (sub_trans (by decide) hP)
    | with_reducible refine keeps_holdAt _ _ _ ?_ (sub_trans (by decide) hP)
    | with_reducible refine keeps_retire _ _ _ ?_ (sub_trans (by decide) hP)
    | with_reducible refine keeps_setBead _ _ ?_ (sub_trans (by decide) hP)
    | with_reducible refine Keeps.upToSnd _ ?_ (fun a k hK => ?_)
    | with_reducible refine Keeps.upTo _ ?_ (fun t k hK => ?_)
    | split

theorem keeps_execQbar {ps : List Part} {s0 s : State} (o : Ord) (h : HartN)
    (hK : Keeps ps s0 s) (hP : sub [.beads, .clasps, .mem, .bezels, .ledger, .faults, .asy] ps = true) :
    KeepsOut ps s0 (execQbar o h s) := by
  unfold execQbar
  try dsimp only
  repeat' first
    | with_reducible assumption
    | with_reducible refine keeps_qbarDo _ _ _ _ _ ?_ (sub_trans (by decide) hP)
    | with_reducible refine keepsOut_next ?_
    | with_reducible refine keepsOut_whenOk ?_ ?_
    | split

theorem keeps_execDtWr {ps : List Part} {s0 s : State} (o : Ord) (h : HartN)
    (hK : Keeps ps s0 s) (hP : sub [.beads, .asy] ps = true) :
    KeepsOut ps s0 (execDtWr o h s) := by
  unfold execDtWr
  try dsimp only
  repeat' first
    | with_reducible assumption
    | with_reducible refine keeps_modBead _ _ ?_ (sub_trans (by decide) hP)
    | with_reducible refine keeps_retire _ _ _ ?_ (sub_trans (by decide) hP)
    | with_reducible refine keepsOut_next ?_
    | with_reducible refine keepsOut_whenOk ?_ ?_
    | split

theorem keeps_execDtRd {ps : List Part} {s0 s : State} (o : Ord) (h : HartN)
    (hK : Keeps ps s0 s) (hP : sub [.beads, .asy] ps = true) :
    KeepsOut ps s0 (execDtRd o h s) := by
  unfold execDtRd
  try dsimp only
  repeat' first
    | with_reducible assumption
    | with_reducible refine keeps_retire _ _ _ ?_ (sub_trans (by decide) hP)
    | with_reducible refine keepsOut_next ?_
    | with_reducible refine keepsOut_whenOk ?_ ?_
    | split

theorem keeps_execTrel {ps : List Part} {s0 s : State} (o : Ord) (h : HartN)
    (hK : Keeps ps s0 s) (hP : sub [.beads, .asy] ps = true) :
    KeepsOut ps s0 (execTrel o h s) := by
  unfold execTrel
  try dsimp only
  repeat' first
    | with_reducible assumption
    | with_reducible refine keeps_modBead _ _ ?_ (sub_trans (by decide) hP)
    | with_reducible refine keeps_holdAt _ _ _ ?_ (sub_trans (by decide) hP)
    | with_reducible refine keeps_retire _ _ _ ?_ (sub_trans (by decide) hP)
    | with_reducible refine keepsOut_next ?_
    | with_reducible refine keepsOut_whenOk ?_ ?_
    | split

theorem keeps_execL1Inv {ps : List Part} {s0 s : State} (o : Ord) (h : HartN)
    (hK : Keeps ps s0 s) (hP : sub [.beads, .asy] ps = true) :
    KeepsOut ps s0 (execL1Inv o h s) := by
  unfold execL1Inv
  try dsimp only
  repeat' first
    | with_reducible assumption
    | with_reducible refine keeps_modBead _ _ ?_ (sub_trans (by decide) hP)
    | with_reducible refine keeps_retire _ _ _ ?_ (sub_trans (by decide) hP)
    | with_reducible refine keepsOut_next ?_
    | with_reducible refine keepsOut_whenOk ?_ ?_
    | split

theorem keeps_execL1InvA {ps : List Part} {s0 s : State} (o : Ord) (h : HartN)
    (hK : Keeps ps s0 s) (hP : sub [.beads, .asy] ps = true) :
    KeepsOut ps s0 (execL1InvA o h s) := by
  unfold execL1InvA
  try dsimp only
  repeat' first
    | with_reducible assumption
    | with_reducible refine keeps_modBead _ _ ?_ (sub_trans (by decide) hP)
    | with_reducible refine keeps_retire _ _ _ ?_ (sub_trans (by decide) hP)
    | with_reducible refine keepsOut_next ?_
    | with_reducible refine keepsOut_whenOk ?_ ?_
    | split

theorem keeps_pageKeep {ps : List Part} {s0 s : State} (o : Nat) (page : Nat)
    (hK : Keeps ps s0 s) (hP : sub [.beads, .asy] ps = true) :
    Keeps ps s0 (pageKeep o page s) := by
  unfold pageKeep
  try dsimp only
  repeat' first
    | with_reducible assumption
    | with_reducible refine keeps_modBead _ _ ?_ (sub_trans (by decide) hP)
    | with_reducible refine keeps_countEv _ _ _ ?_ (sub_trans (by decide) hP)
    | split

theorem keeps_prepare {ps : List Part} {s0 s : State} (o : Nat) (e : QEntry) (u : DrainUse)
    (hK : Keeps ps s0 s) (hP : sub [.beads, .clasps, .mem, .bezels, .ledger, .faults, .asy] ps = true) :
    Keeps ps s0 (prepare o e u s) := by
  unfold prepare
  try dsimp only
  repeat' first
    | with_reducible assumption
    | with_reducible refine keeps_lookOwn _ _ ?_ (sub_trans (by decide) hP)
    | with_reducible refine keeps_modBead _ _ ?_ (sub_trans (by decide) hP)
    | with_reducible refine keeps_pageKeep _ _ ?_ (sub_trans (by decide) hP)
    | with_reducible refine keeps_retryWalks _ ?_ (sub_trans (by decide) hP)
    | with_reducible refine Keeps.foldl _ ?_ (fun t a hK => ?_)
    | with_reducible refine Keeps.foldlSnd _ ?_ (fun a k hK => ?_)
    | split

theorem keeps_execDrainPrepare {ps : List Part} {s0 s : State} (o : Ord) (a : ArrN)
    (hK : Keeps ps s0 s) (hP : sub [.beads, .clasps, .mem, .bezels, .ledger, .faults, .asy] ps = true) :
    KeepsOut ps s0 (execDrainPrepare o a s) := by
  unfold execDrainPrepare
  try dsimp only
  repeat' first
    | with_reducible assumption
    | with_reducible refine keeps_prepare _ _ _ ?_ (sub_trans (by decide) hP)
    | with_reducible refine keepsOut_next ?_
    | with_reducible refine keepsOut_whenOk ?_ ?_
    | split

theorem keeps_drainFail {ps : List Part} {s0 s : State} (o : Nat) (e : QEntry) (u : DrainUse) (code : Nat) (part :
    Nat) (addr : Nat)
    (hK : Keeps ps s0 s) (hP : sub [.beads, .ledger, .faults, .asy] ps = true) :
    Keeps ps s0 (drainFail o e u code part addr s) := by
  unfold drainFail
  try dsimp only
  repeat' first
    | with_reducible assumption
    | with_reducible refine keeps_modBead _ _ ?_ (sub_trans (by decide) hP)
    | with_reducible refine keeps_failEntry _ _ _ _ _ _ ?_ (sub_trans (by decide) hP)
    | split

theorem keeps_lookDest {ps : List Part} {s0 s : State} (o : Nat) (e : QEntry)
    (hK : Keeps ps s0 s) (hP : sub [.ledger, .faults, .asy] ps = true) :
    Keeps ps s0 (lookDest o e s) := by
  unfold lookDest
  try dsimp only
  repeat' first
    | with_reducible assumption
    | with_reducible refine keeps_lookOwns _ _ _ ?_ (sub_trans (by decide) hP)
    | split

theorem keeps_drainEnter {ps : List Part} {s0 before : State} (o : Nat) (a : Nat) (e : QEntry) (u : DrainUse)
    (hK : Keeps ps s0 before) (hP : sub [.beads, .ledger, .faults, .asy] ps = true) :
    Keeps ps s0 (drainEnter o a e u before) := by
  unfold drainEnter
  try dsimp only
  repeat' first
    | with_reducible assumption
    | with_reducible refine keeps_modBead _ _ ?_ (sub_trans (by decide) hP)
    | with_reducible refine keeps_countEv _ _ _ ?_ (sub_trans (by decide) hP)
    | with_reducible refine keeps_lookDest _ _ ?_ (sub_trans (by decide) hP)
    | split

theorem keeps_execDrainRowEnter {ps : List Part} {s0 s : State} (o : Ord) (a : ArrN)
    (hK : Keeps ps s0 s) (hP : sub [.beads, .ledger, .faults, .asy] ps = true) :
    KeepsOut ps s0 (execDrainRowEnter o a s) := by
  unfold execDrainRowEnter
  try dsimp only
  repeat' first
    | with_reducible assumption
    | with_reducible refine keeps_drainEnter _ _ _ _ ?_ (sub_trans (by decide) hP)
    | with_reducible refine keepsOut_next ?_
    | with_reducible refine keepsOut_whenOk ?_ ?_
    | split

theorem keeps_rowToMem {ps : List Part} {s0 s : State} (o : Nat) (e : QEntry) (row : Nat) (tile : Nat) (bytes : List
    Byte)
    (hK : Keeps ps s0 s) (hP : sub [.beads, .mem, .ledger, .faults, .asy] ps = true) :
    Keeps ps s0 (rowToMem o e row tile bytes s) := by
  unfold rowToMem
  try dsimp only
  repeat' first
    | with_reducible assumption
    | with_reducible refine keeps_modBead _ _ ?_ (sub_trans (by decide) hP)
    | with_reducible refine keeps_ownGran _ _ _ ?_ (sub_trans (by decide) hP)
    | with_reducible refine keeps_dmemStore _ _ _ _ _ ?_ (sub_trans (by decide) hP)
    | with_reducible refine Keeps.foldl _ ?_ (fun t a hK => ?_)
    | with_reducible refine Keeps.foldlSnd _ ?_ (fun a k hK => ?_)
    | with_reducible refine Keeps.upToSnd _ ?_ (fun a k hK => ?_)
    | with_reducible refine Keeps.upTo _ ?_ (fun t k hK => ?_)
    | split

theorem keeps_drainWrite {ps : List Part} {s0 s : State} (o : Nat) (a : Nat)
    (hK : Keeps ps s0 s) (hP : sub [.beads, .mem, .ledger, .faults, .asy] ps = true) :
    Keeps ps s0 (drainWrite o a s) := by
  unfold drainWrite
  try dsimp only
  repeat' first
    | with_reducible assumption
    | with_reducible refine keeps_drainFail _ _ _ _ _ _ ?_ (sub_trans (by decide) hP)
    | with_reducible refine keeps_modBead _ _ ?_ (sub_trans (by decide) hP)
    | with_reducible refine keeps_rowToMem _ _ _ _ _ ?_ (sub_trans (by decide) hP)
    | split

theorem keeps_execDrainRowWrite {ps : List Part} {s0 s : State} (o : Ord) (a : ArrN)
    (hK : Keeps ps s0 s) (hP : sub [.beads, .mem, .ledger, .faults, .asy] ps = true) :
    KeepsOut ps s0 (execDrainRowWrite o a s) := by
  unfold execDrainRowWrite
  try dsimp only
  repeat' first
    | with_reducible assumption
    | with_reducible refine keeps_drainWrite _ _ ?_ (sub_trans (by decide) hP)
    | with_reducible refine keepsOut_next ?_
    | with_reducible refine keepsOut_whenOk ?_ ?_
    | split

theorem keeps_setBezel {ps : List Part} {s0 s : State} (z : Nat) (b : Bezel)
    (hK : Keeps ps s0 s) (hP : sub [.bezels] ps = true) :
    Keeps ps s0 (setBezel z b s) := by
  unfold setBezel
  try dsimp only
  repeat' first
    | with_reducible assumption
    | dsimp only [keeps_mk]
    | with_reducible refine KeepsMk.w_bezels ?_ (sub_mem (by decide) hP)
    | split

theorem keeps_modBezel {ps : List Part} {s0 s : State} (z : Nat) (f : Bezel → Bezel)
    (hK : Keeps ps s0 s) (hP : sub [.bezels] ps = true) :
    Keeps ps s0 (modBezel z f s) := by
  unfold modBezel
  try dsimp only
  repeat' first
    | with_reducible assumption
    | with_reducible refine keeps_setBezel _ _ ?_ (sub_trans (by decide) hP)
    | split

theorem keeps_frameCorrected {ps : List Part} {s0 s : State} (z : Nat) (l : Nat)
    (hK : Keeps ps s0 s) (hP : sub [.bezels, .ledger, .faults, .hub] ps = true) :
    Keeps ps s0 (frameCorrected z l s) := by
  unfold frameCorrected
  try dsimp only
  repeat' first
    | with_reducible assumption
    | with_reducible refine keeps_recordAddr _ _ _ _ ?_ (sub_trans (by decide) hP)
    | with_reducible refine keeps_hubRaise _ ?_ (sub_trans (by decide) hP)
    | with_reducible refine keeps_setBezel _ _ ?_ (sub_trans (by decide) hP)
    | with_reducible refine keeps_modBezel _ _ ?_ (sub_trans (by decide) hP)
    | split

theorem keeps_openAt {ps : List Part} {s0 s : State} (z : Nat) (l : Nat)
    (hK : Keeps ps s0 s) (hP : sub [.bezels] ps = true) :
    Keeps ps s0 (openAt z l s) := by
  unfold openAt
  try dsimp only
  repeat' first
    | with_reducible assumption
    | with_reducible refine keeps_modBezel _ _ ?_ (sub_trans (by decide) hP)
    | split

theorem keeps_stackLook {ps : List Part} {s0 s : State} (z : Nat) (l : Nat) (c : Code) (read : Bool)
    (hK : Keeps ps s0 s) (hP : sub [.bezels, .ledger, .faults, .hub, .asy] ps = true) :
    Keeps ps s0 (stackLook z l c read s) := by
  unfold stackLook
  try dsimp only
  repeat' first
    | with_reducible assumption
    | with_reducible refine keeps_countLook _ _ ?_ (sub_trans (by decide) hP)
    | with_reducible refine keeps_openAt _ _ ?_ (sub_trans (by decide) hP)
    | with_reducible refine keeps_frameCorrected _ _ ?_ (sub_trans (by decide) hP)
    | with_reducible refine keeps_modBezel _ _ ?_ (sub_trans (by decide) hP)
    | split

theorem keeps_stackUse {ps : List Part} {s0 s : State} (z : Nat) (l : Nat)
    (hK : Keeps ps s0 s) (hP : sub [.bezels, .ledger, .faults, .hub, .asy] ps = true) :
    Keeps ps s0 (stackUse z l s).2 := by
  unfold stackUse
  try dsimp only
  repeat' first
    | with_reducible assumption
    | with_reducible refine keeps_stackLook _ _ _ _ ?_ (sub_trans (by decide) hP)
    | split

theorem keeps_snoop {ps : List Part} {s0 s : State} (z : Nat) (line : Nat)
    (hK : Keeps ps s0 s) (hP : sub [.bezels, .asy, .out] ps = true) :
    Keeps ps s0 (snoop z line s) := by
  unfold snoop
  try dsimp only
  repeat' first
    | with_reducible assumption
    | with_reducible refine keeps_countEv _ _ _ ?_ (sub_trans (by decide) hP)
    | with_reducible refine keeps_emit _ ?_ (sub_trans (by decide) hP)
    | with_reducible refine keeps_modBezel _ _ ?_ (sub_trans (by decide) hP)
    | split

theorem keeps_staleNotices {ps : List Part} {s0 s : State} (z : Nat) (p : Nat)
    (hK : Keeps ps s0 s) (hP : sub [.fabric, .asy] ps = true) :
    Keeps ps s0 (staleNotices z p s) := by
  unfold staleNotices
  try dsimp only
  repeat' first
    | with_reducible assumption
    | with_reducible refine keeps_sendMsg _ ?_ (sub_trans (by decide) hP)
    | with_reducible refine keeps_countEv _ _ _ ?_ (sub_trans (by decide) hP)
    | with_reducible refine Keeps.foldl _ ?_ (fun t a hK => ?_)
    | with_reducible refine Keeps.foldlSnd _ ?_ (fun a k hK => ?_)
    | split

theorem keeps_genWritten {ps : List Part} {s0 s : State} (z : Nat) (l : Nat)
    (hK : Keeps ps s0 s) (hP : sub [.bezels] ps = true) :
    Keeps ps s0 (genWritten z l s) := by
  unfold genWritten
  try dsimp only
  repeat' first
    | with_reducible assumption
    | with_reducible refine keeps_modBezel _ _ ?_ (sub_trans (by decide) hP)
    | split

theorem keeps_stackStore {ps : List Part} {s0 s : State} (z : Nat) (l : Nat) (c : Code)
    (hK : Keeps ps s0 s) (hP : sub [.fabric, .mem, .bezels, .asy] ps = true) :
    Keeps ps s0 (stackStore z l c s) := by
  unfold stackStore
  try dsimp only
  repeat' first
    | with_reducible assumption
    | with_reducible refine keeps_stackPut _ _ _ ?_ (sub_trans (by decide) hP)
    | with_reducible refine keeps_openAt _ _ ?_ (sub_trans (by decide) hP)
    | with_reducible refine keeps_genWritten _ _ ?_ (sub_trans (by decide) hP)
    | with_reducible refine keeps_staleNotices _ _ ?_ (sub_trans (by decide) hP)
    | split

theorem keeps_addReread {ps : List Part} {s0 s : State} (p : Nat) (detail : Nat)
    (hK : Keeps ps s0 s) (hP : sub [.mem] ps = true) :
    Keeps ps s0 (addReread p detail s) := by
  unfold addReread
  try dsimp only
  repeat' first
    | with_reducible assumption
    | dsimp only [keeps_mk]
    | with_reducible refine KeepsMk.w_mem ?_ (sub_mem (by decide) hP) (fun x => x)
    | split

theorem keeps_unitUse {ps : List Part} {s0 s : State} (node : Nat) (z : Nat) (l : Nat)
    (hK : Keeps ps s0 s) (hP : sub [.mem, .bezels, .ledger, .faults, .hub, .asy] ps = true) :
    Keeps ps s0 (unitUse node z l s).2 := by
  unfold unitUse
  try dsimp only
  repeat' first
    | with_reducible assumption
    | with_reducible refine keeps_addReread _ _ ?_ (sub_trans (by decide) hP)
    | with_reducible refine keeps_hubRaise _ ?_ (sub_trans (by decide) hP)
    | with_reducible refine keeps_recordPart _ _ _ _ _ _ ?_ (sub_trans (by decide) hP)
    | with_reducible refine keeps_stackUse _ _ ?_ (sub_trans (by decide) hP)
    | split

theorem keeps_mergeUse {ps : List Part} {s0 s : State} (node : Nat) (z : Nat) (l : Nat)
    (hK : Keeps ps s0 s) (hP : sub [.mem, .bezels, .ledger, .faults, .hub, .asy] ps = true) :
    Keeps ps s0 (mergeUse node z l s).2 := by
  unfold mergeUse
  try dsimp only
  repeat' first
    | with_reducible assumption
    | with_reducible refine keeps_unitUse _ _ _ ?_ (sub_trans (by decide) hP)
    | with_reducible refine keeps_recordPart _ _ _ _ _ _ ?_ (sub_trans (by decide) hP)
    | split

theorem keeps_scrubRecord {ps : List Part} {s0 s : State} (z : Nat) (l : Nat) (prior : Bool)
    (hK : Keeps ps s0 s) (hP : sub [.ledger, .faults, .hub] ps = true) :
    Keeps ps s0 (scrubRecord z l prior s) := by
  unfold scrubRecord
  try dsimp only
  repeat' first
    | with_reducible assumption
    | with_reducible refine keeps_hubRaise _ ?_ (sub_trans (by decide) hP)
    | with_reducible refine keeps_recordFault _ ?_ (sub_trans (by decide) hP)
    | split

theorem keeps_scrubStep {ps : List Part} {s0 s : State} (z : Nat) (l : Nat)
    (hK : Keeps ps s0 s) (hP : sub [.mem, .bezels, .ledger, .faults, .hub, .asy] ps = true) :
    Keeps ps s0 (scrubStep z l s) := by
  unfold scrubStep
  try dsimp only
  repeat' first
    | with_reducible assumption
    | with_reducible refine keeps_stackPut _ _ _ ?_ (sub_trans (by decide) hP)
    | with_reducible refine keeps_stackLook _ _ _ _ ?_ (sub_trans (by decide) hP)
    | with_reducible refine keeps_scrubRecord _ _ _ ?_ (sub_trans (by decide) hP)
    | split

theorem keeps_patrol {ps : List Part} {s0 s : State} (z : Nat)
    (hK : Keeps ps s0 s) (hP : sub [.mem, .bezels, .ledger, .faults, .hub, .asy] ps = true) :
    Keeps ps s0 (patrol z s) := by
  unfold patrol
  try dsimp only
  repeat' first
    | with_reducible assumption
    | with_reducible refine keeps_scrubStep _ _ ?_ (sub_trans (by decide) hP)
    | with_reducible refine keeps_modBezel _ _ ?_ (sub_trans (by decide) hP)
    | with_reducible refine Keeps.upToSnd _ ?_ (fun a k hK => ?_)
    | with_reducible refine Keeps.upTo _ ?_ (fun t k hK => ?_)
    | split

theorem keeps_execPatrolScrub {ps : List Part} {s0 s : State} (b : BezelN)
    (hK : Keeps ps s0 s) (hP : sub [.mem, .bezels, .ledger, .faults, .hub, .asy] ps = true) :
    KeepsOut ps s0 (execPatrolScrub b s) := by
  unfold execPatrolScrub
  try dsimp only
  repeat' first
    | with_reducible assumption
    | with_reducible refine keeps_patrol _ ?_ (sub_trans (by decide) hP)
    | with_reducible refine keepsOut_next ?_
    | with_reducible refine keepsOut_whenOk ?_ ?_
    | split

theorem keeps_sramScrub {ps : List Part} {s0 s : State} (g : Nat) (blk : Nat) (id : Nat) (p : Nat)
    (hK : Keeps ps s0 s) (hP : sub [.mem, .ledger, .faults, .asy] ps = true) :
    Keeps ps s0 (sramScrub g blk id p s) := by
  unfold sramScrub
  try dsimp only
  repeat' first
    | with_reducible assumption
    | with_reducible refine keeps_recordAddr _ _ _ _ ?_ (sub_trans (by decide) hP)
    | with_reducible refine keeps_countLook _ _ ?_ (sub_trans (by decide) hP)
    | with_reducible refine keeps_putCode _ _ ?_ (sub_trans (by decide) hP)
    | split

theorem keeps_scrubSliceBank {ps : List Part} {s0 s : State} (i : Nat) (k : Nat)
    (hK : Keeps ps s0 s) (hP : sub [.mem, .ledger, .faults, .asy] ps = true) :
    Keeps ps s0 (scrubSliceBank i k s) := by
  unfold scrubSliceBank
  try dsimp only
  repeat' first
    | with_reducible assumption
    | dsimp only [keeps_mk]
    | with_reducible refine KeepsMk.w_mem ?_ (sub_mem (by decide) hP) (fun x => x)
    | with_reducible refine keeps_sramScrub _ _ _ _ ?_ (sub_trans (by decide) hP)
    | with_reducible refine keeps_countEv _ _ _ ?_ (sub_trans (by decide) hP)
    | split

theorem keeps_scrubBeadBank {ps : List Part} {s0 s : State} (o : Nat) (k : Nat)
    (hK : Keeps ps s0 s) (hP : sub [.mem, .ledger, .faults, .asy] ps = true) :
    Keeps ps s0 (scrubBeadBank o k s) := by
  unfold scrubBeadBank
  try dsimp only
  repeat' first
    | with_reducible assumption
    | dsimp only [keeps_mk]
    | with_reducible refine KeepsMk.w_mem ?_ (sub_mem (by decide) hP) (fun x => x)
    | with_reducible refine keeps_sramScrub _ _ _ _ ?_ (sub_trans (by decide) hP)
    | split

theorem keeps_execStackRefresh {ps : List Part} {s0 s : State} (b : BezelN) (bank : Fin 512)
    (hK : Keeps ps s0 s) (hP : sub [.bezels] ps = true) :
    KeepsOut ps s0 (execStackRefresh b bank s) := by
  unfold execStackRefresh
  try dsimp only
  repeat' first
    | with_reducible assumption
    | with_reducible refine keeps_modBezel _ _ ?_ (sub_trans (by decide) hP)
    | with_reducible refine keepsOut_next ?_
    | with_reducible refine keepsOut_whenOk ?_ ?_
    | split

theorem keeps_execBzlEccStatRead {ps : List Part} {s0 s : State} (b : BezelN) (w : Width)
    (hK : Keeps ps s0 s) (hP : sub [.bezels, .out] ps = true) :
    KeepsOut ps s0 (execBzlEccStatRead b w s) := by
  unfold execBzlEccStatRead
  try dsimp only
  repeat' first
    | with_reducible assumption
    | with_reducible refine keeps_regReadRow _ _ _ _ ?_ (sub_trans (by decide) hP) (fun t hK => ?_)
    | with_reducible refine keeps_modBezel _ _ ?_ (sub_trans (by decide) hP)
    | with_reducible refine keepsOut_next ?_
    | with_reducible refine keepsOut_whenOk ?_ ?_
    | split

theorem keeps_failStart {ps : List Part} {s0 s : State} (o : Nat) (q : Nat) (e : QEntry) (code : Nat) (part : Nat)
    (addr : Nat)
    (hK : Keeps ps s0 s) (hP : sub [.beads, .ledger, .faults, .asy] ps = true) :
    Keeps ps s0 (failStart o q e code part addr s) := by
  unfold failStart
  try dsimp only
  repeat' first
    | with_reducible assumption
    | with_reducible refine keeps_failEntry _ _ _ _ _ _ ?_ (sub_trans (by decide) hP)
    | split

theorem keeps_startMasked {ps : List Part} {s0 s : State} (o : Nat) (e : QEntry)
    (hK : Keeps ps s0 s) (hP : sub [.beads, .clasps, .mem, .bezels, .ledger, .faults, .asy] ps = true) :
    Keeps ps s0 (startMasked o e s) := by
  unfold startMasked
  try dsimp only
  repeat' first
    | with_reducible assumption
    | with_reducible refine keeps_modBead _ _ ?_ (sub_trans (by decide) hP)
    | with_reducible refine keeps_failStart _ _ _ _ _ _ ?_ (sub_trans (by decide) hP)
    | with_reducible refine keeps_readMask _ _ ?_ (sub_trans (by decide) hP)
    | split

theorem keeps_startMatrix {ps : List Part} {s0 s : State} (o : Nat) (e : QEntry)
    (hK : Keeps ps s0 s) (hP : sub [.beads, .clasps, .mem, .bezels, .ledger, .faults, .asy] ps = true) :
    Keeps ps s0 (startMatrix o e s) := by
  unfold startMatrix
  try dsimp only
  repeat' first
    | with_reducible assumption
    | with_reducible refine keeps_failStart _ _ _ _ _ _ ?_ (sub_trans (by decide) hP)
    | with_reducible refine keeps_startMasked _ _ ?_ (sub_trans (by decide) hP)
    | split

theorem keeps_startLoad {ps : List Part} {s0 s : State} (o : Nat) (e : QEntry)
    (hK : Keeps ps s0 s) (hP : sub [.beads, .clasps, .mem, .bezels, .ledger, .faults, .asy] ps = true) :
    Keeps ps s0 (startLoad o e s) := by
  unfold startLoad
  try dsimp only
  repeat' first
    | with_reducible assumption
    | with_reducible refine keeps_modBead _ _ ?_ (sub_trans (by decide) hP)
    | with_reducible refine KeepsGo.get (keeps_strandGo _ _ _ ?_ (sub_trans (by decide) hP)) (by assumption)
    | with_reducible refine keeps_strandGo _ _ _ ?_ (sub_trans (by decide) hP)
    | with_reducible refine keeps_lookDesc _ _ _ ?_ (sub_trans (by decide) hP)
    | with_reducible refine keeps_failStart _ _ _ _ _ _ ?_ (sub_trans (by decide) hP)
    | with_reducible refine keeps_recordInvalid _ _ _ ?_ (sub_trans (by decide) hP)
    | with_reducible refine keeps_feedStrand _ _ ?_ (sub_trans (by decide) hP)
    | split

theorem keeps_startDrain {ps : List Part} {s0 s : State} (o : Nat) (e : QEntry) (u : DrainUse)
    (hK : Keeps ps s0 s) (hP : sub [.beads, .ledger, .faults, .asy] ps = true) :
    Keeps ps s0 (startDrain o e u s) := by
  unfold startDrain
  try dsimp only
  repeat' first
    | with_reducible assumption
    | with_reducible refine keeps_lookOwn _ _ ?_ (sub_trans (by decide) hP)
    | with_reducible refine keeps_modBead _ _ ?_ (sub_trans (by decide) hP)
    | with_reducible refine keeps_failStart _ _ _ _ _ _ ?_ (sub_trans (by decide) hP)
    | with_reducible refine keeps_recordInvalid _ _ _ ?_ (sub_trans (by decide) hP)
    | split

theorem keeps_startS {ps : List Part} {s0 s : State} (o : Nat) (e : QEntry)
    (hK : Keeps ps s0 s) (hP : sub [.beads, .fabric, .clasps, .mem, .bezels, .ledger, .faults, .asy] ps = true) :
    Keeps ps s0 (startS o e s) := by
  unfold startS
  try dsimp only
  repeat' first
    | with_reducible assumption
    | with_reducible refine KeepsStart.get (keeps_claspStart _ _ _ ?_ (sub_trans (by decide) hP)) (by assumption)
    | with_reducible refine keeps_claspStart _ _ _ ?_ (sub_trans (by decide) hP)
    | with_reducible refine keeps_modBead _ _ ?_ (sub_trans (by decide) hP)
    | with_reducible refine KeepsStart.get (keeps_chStart _ _ ?_ (sub_trans (by decide) hP)) (by assumption)
    | with_reducible refine keeps_chStart _ _ ?_ (sub_trans (by decide) hP)
    | with_reducible refine keeps_failStart _ _ _ _ _ _ ?_ (sub_trans (by decide) hP)
    | with_reducible refine keeps_recordInvalid _ _ _ ?_ (sub_trans (by decide) hP)
    | split

theorem keeps_startEntry {ps : List Part} {s0 s : State} (o : Nat) (q : Nat) (e : QEntry)
    (hK : Keeps ps s0 s) (hP : sub [.beads, .fabric, .clasps, .mem, .bezels, .ledger, .faults, .asy] ps = true) :
    Keeps ps s0 (startEntry o q e s) := by
  unfold startEntry
  try dsimp only
  repeat' first
    | with_reducible assumption
    | with_reducible refine keeps_startMatrix _ _ ?_ (sub_trans (by decide) hP)
    | with_reducible refine keeps_startS _ _ ?_ (sub_trans (by decide) hP)
    | with_reducible refine keeps_startDrain _ _ _ ?_ (sub_trans (by decide) hP)
    | with_reducible refine keeps_startLoad _ _ ?_ (sub_trans (by decide) hP)
    | split

theorem keeps_giveWay {ps : List Part} {s0 s : State} (o : Nat) (k : Nat) (code : Nat) (x : QEntry)
    (hK : Keeps ps s0 s) (hP : sub [.beads, .ledger, .faults, .asy] ps = true) :
    Keeps ps s0 (giveWay o k code x s) := by
  unfold giveWay
  try dsimp only
  repeat' first
    | with_reducible assumption
    | with_reducible refine keeps_modBead _ _ ?_ (sub_trans (by decide) hP)
    | with_reducible refine keeps_failEntry _ _ _ _ _ _ ?_ (sub_trans (by decide) hP)
    | split

theorem keeps_displace {ps : List Part} {s0 s : State} (o : Nat) (q : Nat) (e : QEntry)
    (hK : Keeps ps s0 s) (hP : sub [.beads, .ledger, .faults, .asy] ps = true) :
    Keeps ps s0 (displace o q e s) := by
  unfold displace
  try dsimp only
  repeat' first
    | with_reducible assumption
    | with_reducible refine keeps_giveWay _ _ _ _ ?_ (sub_trans (by decide) hP)
    | with_reducible refine Keeps.foldl _ ?_ (fun t a hK => ?_)
    | with_reducible refine Keeps.foldlSnd _ ?_ (fun a k hK => ?_)
    | with_reducible refine Keeps.upToSnd _ ?_ (fun a k hK => ?_)
    | with_reducible refine Keeps.upTo _ ?_ (fun t k hK => ?_)
    | split

theorem keeps_tryEntry {ps : List Part} {s0 s : State} (o : Nat) (q : Nat) (e0 : QEntry)
    (hK : Keeps ps s0 s) (hP : sub [.beads, .fabric, .clasps, .mem, .bezels, .ledger, .faults, .asy] ps = true) :
    Keeps ps s0 (tryEntry o q e0 s) := by
  unfold tryEntry
  try dsimp only
  repeat' first
    | with_reducible assumption
    | with_reducible refine keeps_modBead _ _ ?_ (sub_trans (by decide) hP)
    | with_reducible refine keeps_startEntry _ _ _ ?_ (sub_trans (by decide) hP)
    | split

theorem keeps_startOver {ps : List Part} {s0 s : State} (o : Nat) (q : Nat) (e : QEntry)
    (hK : Keeps ps s0 s) (hP : sub [.beads, .fabric, .clasps, .mem, .bezels, .ledger, .faults, .asy] ps = true) :
    Keeps ps s0 (startOver o q e s) := by
  unfold startOver
  try dsimp only
  repeat' first
    | with_reducible assumption
    | with_reducible refine keeps_tryEntry _ _ _ ?_ (sub_trans (by decide) hP)
    | with_reducible refine keeps_failEntry _ _ _ _ _ _ ?_ (sub_trans (by decide) hP)
    | with_reducible refine keeps_displace _ _ _ ?_ (sub_trans (by decide) hP)
    | split

theorem keeps_beginEntry {ps : List Part} {s0 s : State} (o : Nat) (q : Nat) (e : QEntry)
    (hK : Keeps ps s0 s) (hP : sub [.beads, .fabric, .clasps, .mem, .bezels, .ledger, .faults, .asy] ps = true) :
    Keeps ps s0 (beginEntry o q e s) := by
  unfold beginEntry
  try dsimp only
  repeat' first
    | with_reducible assumption
    | with_reducible refine keeps_startOver _ _ _ ?_ (sub_trans (by decide) hP)
    | with_reducible refine keeps_feedAll _ ?_ (sub_trans (by decide) hP)
    | with_reducible refine keeps_maskDue _ ?_ (sub_trans (by decide) hP)
    | split

theorem keeps_execEntryStart {ps : List Part} {s0 s : State} (o : Ord) (q : QueueN)
    (hK : Keeps ps s0 s) (hP : sub [.beads, .fabric, .clasps, .mem, .bezels, .ledger, .faults, .asy] ps = true) :
    KeepsOut ps s0 (execEntryStart o q s) := by
  unfold execEntryStart
  try dsimp only
  repeat' first
    | with_reducible assumption
    | with_reducible refine keeps_beginEntry _ _ _ ?_ (sub_trans (by decide) hP)
    | with_reducible refine keepsOut_next ?_
    | with_reducible refine keepsOut_whenOk ?_ ?_
    | split

theorem keeps_consumeAcked {ps : List Part} {s0 s : State} (o : Nat) (n : Nat)
    (hK : Keeps ps s0 s) (hP : sub [.beads, .clasps, .mem, .bezels, .ledger, .faults, .asy] ps = true) :
    Keeps ps s0 (consumeAcked o n s) := by
  unfold consumeAcked
  try dsimp only
  repeat' first
    | with_reducible assumption
    | with_reducible refine keeps_consumeRun _ _ ?_ (sub_trans (by decide) hP)
    | with_reducible refine keeps_deliverRun _ _ _ ?_ (sub_trans (by decide) hP)
    | with_reducible refine Keeps.upToSnd _ ?_ (fun a k hK => ?_)
    | with_reducible refine Keeps.upTo _ ?_ (fun t k hK => ?_)
    | split

theorem keeps_completeEffect {ps : List Part} {s0 s : State} (o : Nat) (q : Nat) (e : QEntry)
    (hK : Keeps ps s0 s) (hP : sub [.beads, .clasps, .mem, .bezels, .ledger, .faults, .asy] ps = true) :
    Keeps ps s0 (completeEffect o q e s) := by
  unfold completeEffect
  try dsimp only
  repeat' first
    | with_reducible assumption
    | with_reducible refine keeps_modBead _ _ ?_ (sub_trans (by decide) hP)
    | with_reducible refine keeps_consumeAcked _ _ ?_ (sub_trans (by decide) hP)
    | with_reducible refine keeps_endStrand _ _ _ _ ?_ (sub_trans (by decide) hP)
    | with_reducible refine Keeps.foldl _ ?_ (fun t a hK => ?_)
    | with_reducible refine Keeps.foldlSnd _ ?_ (fun a k hK => ?_)
    | split

theorem keeps_completeEntry {ps : List Part} {s0 s : State} (o : Nat) (q : Nat) (e : QEntry)
    (hK : Keeps ps s0 s) (hP : sub [.beads, .clasps, .mem, .bezels, .ledger, .faults, .asy] ps = true) :
    Keeps ps s0 (completeEntry o q e s) := by
  unfold completeEntry
  try dsimp only
  repeat' first
    | with_reducible assumption
    | with_reducible refine keeps_modBead _ _ ?_ (sub_trans (by decide) hP)
    | with_reducible refine keeps_completeEffect _ _ _ ?_ (sub_trans (by decide) hP)
    | with_reducible refine keeps_stopQueue _ _ _ _ _ _ ?_ (sub_trans (by decide) hP)
    | with_reducible refine keeps_popHead _ _ ?_ (sub_trans (by decide) hP)
    | split

theorem keeps_execEntryComplete {ps : List Part} {s0 s : State} (o : Ord) (q : QueueN)
    (hK : Keeps ps s0 s) (hP : sub [.beads, .clasps, .mem, .bezels, .ledger, .faults, .asy] ps = true) :
    KeepsOut ps s0 (execEntryComplete o q s) := by
  unfold execEntryComplete
  try dsimp only
  repeat' first
    | with_reducible assumption
    | with_reducible refine keeps_maskDue _ ?_ (sub_trans (by decide) hP)
    | with_reducible refine keeps_completeEntry _ _ _ ?_ (sub_trans (by decide) hP)
    | with_reducible refine keepsOut_next ?_
    | with_reducible refine keepsOut_whenOk ?_ ?_
    | split

theorem keeps_xqctlWrite {ps : List Part} {s0 s : State} (o : Nat) (v : Word)
    (hK : Keeps ps s0 s) (hP : sub [.beads, .clasps, .mem, .bezels, .ledger, .faults, .asy] ps = true) :
    Keeps ps s0 (xqctlWrite o v s) := by
  unfold xqctlWrite
  try dsimp only
  repeat' first
    | with_reducible assumption
    | with_reducible refine keeps_settleHead _ _ ?_ (sub_trans (by decide) hP)
    | with_reducible refine keeps_maskDue _ ?_ (sub_trans (by decide) hP)
    | with_reducible refine keeps_setBead _ _ ?_ (sub_trans (by decide) hP)
    | with_reducible refine keeps_recount _ _ ?_ (sub_trans (by decide) hP)
    | unfold xqctlWrite.recountAll
    | with_reducible refine keeps_recount _ _ ?_ (sub_trans (by decide) hP)
    | with_reducible refine Keeps.foldl _ ?_ (fun t a hK => ?_)
    | with_reducible refine Keeps.foldl _ ?_ (fun t a hK => ?_)
    | with_reducible refine Keeps.foldlSnd _ ?_ (fun a k hK => ?_)
    | with_reducible refine Keeps.upToSnd _ ?_ (fun a k hK => ?_)
    | with_reducible refine Keeps.upTo _ ?_ (fun t k hK => ?_)
    | split

theorem keeps_xqctlDo {ps : List Part} {s0 s : State} (o : Ord) (h : HartN) (u : CsrUse) (len : Nat)
    (hK : Keeps ps s0 s) (hP : sub [.beads, .clasps, .mem, .bezels, .ledger, .faults, .asy] ps = true) :
    Keeps ps s0 (xqctlDo o h u len s) := by
  unfold xqctlDo
  try dsimp only
  repeat' first
    | with_reducible assumption
    | with_reducible refine keeps_xqctlWrite _ _ ?_ (sub_trans (by decide) hP)
    | with_reducible refine keeps_retire _ _ _ ?_ (sub_trans (by decide) hP)
    | split

theorem keeps_execXqctlResume {ps : List Part} {s0 s : State} (o : Ord) (h : HartN)
    (hK : Keeps ps s0 s) (hP : sub [.beads, .clasps, .mem, .bezels, .ledger, .faults, .asy] ps = true) :
    KeepsOut ps s0 (execXqctlResume o h s) := by
  unfold execXqctlResume
  try dsimp only
  repeat' first
    | with_reducible assumption
    | with_reducible refine keeps_xqctlDo _ _ _ _ ?_ (sub_trans (by decide) hP)
    | with_reducible refine keepsOut_next ?_
    | with_reducible refine keepsOut_whenOk ?_ ?_
    | split

theorem keeps_execXqctlDiscard {ps : List Part} {s0 s : State} (o : Ord) (h : HartN)
    (hK : Keeps ps s0 s) (hP : sub [.beads, .clasps, .mem, .bezels, .ledger, .faults, .asy] ps = true) :
    KeepsOut ps s0 (execXqctlDiscard o h s) := by
  unfold execXqctlDiscard
  try dsimp only
  repeat' first
    | with_reducible assumption
    | with_reducible refine keeps_xqctlDo _ _ _ _ ?_ (sub_trans (by decide) hP)
    | with_reducible refine keepsOut_next ?_
    | with_reducible refine keepsOut_whenOk ?_ ?_
    | split

theorem keeps_copyConsume {ps : List Part} {s0 s : State} (o : Nat) (n : Nat) (x : StrandRun)
    (hK : Keeps ps s0 s) (hP : sub [.beads, .clasps, .mem, .bezels, .ledger, .faults, .asy] ps = true) :
    Keeps ps s0 (copyConsume o n x s) := by
  unfold copyConsume
  try dsimp only
  repeat' first
    | with_reducible assumption
    | with_reducible refine keeps_consumeRun _ _ ?_ (sub_trans (by decide) hP)
    | with_reducible refine keeps_deliverRun _ _ _ ?_ (sub_trans (by decide) hP)
    | with_reducible refine keeps_fetchRun _ _ _ _ ?_ (sub_trans (by decide) hP)
    | split

theorem keeps_execStrandRunIssue {ps : List Part} {s0 s : State} (o : Ord) (n : Fin 8)
    (hK : Keeps ps s0 s) (hP : sub [.beads, .fabric, .clasps, .mem, .bezels, .ledger, .faults, .asy] ps = true) :
    KeepsOut ps s0 (execStrandRunIssue o n s) := by
  unfold execStrandRunIssue
  try dsimp only
  repeat' first
    | with_reducible assumption
    | with_reducible refine keeps_issueBest _ ?_ (sub_trans (by decide) hP)
    | with_reducible refine KeepsSome.get (keeps_strandIssue _ _ ?_ (sub_trans (by decide) hP)) (by assumption)
    | with_reducible refine keeps_strandIssue _ _ ?_ (sub_trans (by decide) hP)
    | with_reducible refine keeps_feedAll _ ?_ (sub_trans (by decide) hP)
    | with_reducible refine keeps_askStrands _ ?_ (sub_trans (by decide) hP)
    | with_reducible refine keepsOut_next ?_
    | with_reducible refine keepsOut_whenOk ?_ ?_
    | split

theorem keeps_execStrandRunConsume {ps : List Part} {s0 s : State} (o : Ord) (n : Fin 8)
    (hK : Keeps ps s0 s) (hP : sub [.beads, .clasps, .mem, .bezels, .ledger, .faults, .asy] ps = true) :
    KeepsOut ps s0 (execStrandRunConsume o n s) := by
  unfold execStrandRunConsume
  try dsimp only
  repeat' first
    | with_reducible assumption
    | with_reducible refine keeps_rowStep _ _ _ ?_ (sub_trans (by decide) hP)
    | with_reducible refine keeps_copyConsume _ _ _ ?_ (sub_trans (by decide) hP)
    | with_reducible refine keepsOut_next ?_
    | with_reducible refine keepsOut_whenOk ?_ ?_
    | split

theorem keeps_execMemoryScrub {ps : List Part} {s0 s : State} (p : ScrubAt)
    (hK : Keeps ps s0 s) (hP : sub [.mem, .ledger, .faults, .asy] ps = true) :
    KeepsOut ps s0 (execMemoryScrub p s) := by
  unfold execMemoryScrub
  try dsimp only
  repeat' first
    | with_reducible assumption
    | with_reducible refine keeps_scrubBeadBank _ _ ?_ (sub_trans (by decide) hP)
    | with_reducible refine keeps_scrubSliceBank _ _ ?_ (sub_trans (by decide) hP)
    | with_reducible refine keepsOut_next ?_
    | with_reducible refine keepsOut_whenOk ?_ ?_
    | with_reducible refine Keeps.upToSnd _ ?_ (fun a k hK => ?_)
    | with_reducible refine Keeps.upTo _ ?_ (fun t k hK => ?_)
    | split

end Sys2Proof.Laws
end

