-- ==== Sys2Proof/Laws/KeepsFabric.lean ====
section
/-! SUPPORT. What each operation of the fabric, the bezels, the reductions and the servers of requests may write, and
    that it keeps the
invariant: one lemma per operation, which its callers cite. -/

set_option linter.unreachableTactic false
set_option linter.unusedTactic false

namespace Sys2Proof.Laws

open Sys2Proof Sys2Proof.Machine

theorem keeps_setRec {ps : List Part} {s0 s : State} (z : Nat) (r : Nat) (v : RedRec)
    (hK : Keeps ps s0 s) (hP : sub [.bezels] ps = true) :
    Keeps ps s0 (setRec z r v s) := by
  unfold setRec
  try dsimp only
  repeat' first
    | with_reducible assumption
    | with_reducible refine keeps_modBezel _ _ ?_ (sub_trans (by decide) hP)
    | split

theorem keeps_modRec {ps : List Part} {s0 s : State} (z : Nat) (r : Nat) (f : RedRec → RedRec)
    (hK : Keeps ps s0 s) (hP : sub [.bezels] ps = true) :
    Keeps ps s0 (modRec z r f s) := by
  unfold modRec
  try dsimp only
  repeat' first
    | with_reducible assumption
    | with_reducible refine keeps_setRec _ _ _ ?_ (sub_trans (by decide) hP)
    | split

theorem keeps_breakRec {ps : List Part} {s0 s : State} (z : Nat) (r : Nat)
    (hK : Keeps ps s0 s) (hP : sub [.bezels, .ledger, .faults, .hub] ps = true) :
    Keeps ps s0 (breakRec z r s) := by
  unfold breakRec
  try dsimp only
  repeat' first
    | with_reducible assumption
    | with_reducible refine keeps_recordAddr _ _ _ _ ?_ (sub_trans (by decide) hP)
    | with_reducible refine keeps_hubRaise _ ?_ (sub_trans (by decide) hP)
    | with_reducible refine keeps_modRec _ _ _ ?_ (sub_trans (by decide) hP)
    | with_reducible refine keeps_modBezel _ _ ?_ (sub_trans (by decide) hP)
    | split

theorem keeps_addSums {ps : List Part} {s0 s : State} (z : Nat) (r : RedRec) (p : Nat) (first : Bool) (vals : List
    Word32)
    (hK : Keeps ps s0 s) (hP : sub [.fabric, .mem, .bezels, .ledger, .faults, .hub, .asy] ps = true) :
    Keeps ps s0 (addSums z r p first vals s) := by
  unfold addSums
  try dsimp only
  repeat' first
    | with_reducible assumption
    | with_reducible refine keeps_unitUse _ _ _ ?_ (sub_trans (by decide) hP)
    | with_reducible refine keeps_mergeUse _ _ _ ?_ (sub_trans (by decide) hP)
    | with_reducible refine keeps_stackStore _ _ _ ?_ (sub_trans (by decide) hP)
    | split

theorem keeps_addGran {ps : List Part} {s0 s : State} (z : Nat) (ri : Nat) (j : Nat) (r : RedRec) (first : Bool) (d :
    Gran)
    (hK : Keeps ps s0 s) (hP : sub [.fabric, .mem, .bezels, .ledger, .faults, .hub, .asy] ps = true) :
    Keeps ps s0 (addGran z ri j r first d s) := by
  unfold addGran
  try dsimp only
  repeat' first
    | with_reducible assumption
    | with_reducible refine keeps_addSums _ _ _ _ _ ?_ (sub_trans (by decide) hP)
    | with_reducible refine keeps_countEv _ _ _ ?_ (sub_trans (by decide) hP)
    | with_reducible refine keeps_modBezel _ _ ?_ (sub_trans (by decide) hP)
    | split

theorem keeps_useWords {ps : List Part} {s0 s : State} (z : Nat) (l : Nat) (n : Nat)
    (hK : Keeps ps s0 s) (hP : sub [.mem, .bezels, .ledger, .faults, .hub, .asy] ps = true) :
    Keeps ps s0 (useWords z l n s).2 := by
  unfold useWords
  try dsimp only
  repeat' first
    | with_reducible assumption
    | with_reducible refine keeps_unitUse _ _ _ ?_ (sub_trans (by decide) hP)
    | with_reducible refine Keeps.upToSnd _ ?_ (fun a k hK => ?_)
    | with_reducible refine Keeps.upToSnd _ ?_ (fun a k hK => ?_)
    | split

theorem keeps_ownSums {ps : List Part} {s0 s : State} (z : Nat) (r : RedRec) (j : Nat)
    (hK : Keeps ps s0 s) (hP : sub [.mem, .bezels, .ledger, .faults, .hub, .asy] ps = true) :
    Keeps ps s0 (ownSums z r j s).2 := by
  unfold ownSums
  try dsimp only
  repeat' first
    | with_reducible assumption
    | with_reducible refine keeps_useWords _ _ _ ?_ (sub_trans (by decide) hP)
    | split

theorem keeps_completeRec {ps : List Part} {s0 s : State} (z : Nat) (ri : Nat)
    (hK : Keeps ps s0 s) (hP : sub [.mem, .bezels, .ledger, .faults, .hub, .asy] ps = true) :
    Keeps ps s0 (completeRec z ri s) := by
  unfold completeRec
  try dsimp only
  repeat' first
    | with_reducible assumption
    | with_reducible refine keeps_ownSums _ _ _ ?_ (sub_trans (by decide) hP)
    | with_reducible refine keeps_setRec _ _ _ ?_ (sub_trans (by decide) hP)
    | with_reducible refine keeps_modBezel _ _ ?_ (sub_trans (by decide) hP)
    | with_reducible refine Keeps.foldl _ ?_ (fun t a hK => ?_)
    | with_reducible refine Keeps.foldlSnd _ ?_ (fun a k hK => ?_)
    | split

theorem keeps_conApply {ps : List Part} {s0 s : State} (z : Nat) (l : Nat) (m : Msg)
    (hK : Keeps ps s0 s) (hP : sub [.fabric, .mem, .bezels, .ledger, .faults, .hub, .asy] ps = true) :
    Keeps ps s0 (conApply z l m s) := by
  unfold conApply
  try dsimp only
  repeat' first
    | with_reducible assumption
    | with_reducible refine keeps_addGran _ _ _ _ _ _ ?_ (sub_trans (by decide) hP)
    | with_reducible refine keeps_countEv _ _ _ ?_ (sub_trans (by decide) hP)
    | with_reducible refine keeps_completeRec _ _ ?_ (sub_trans (by decide) hP)
    | with_reducible refine keeps_setRec _ _ _ ?_ (sub_trans (by decide) hP)
    | with_reducible refine Keeps.foldl _ ?_ (fun t a hK => ?_)
    | with_reducible refine Keeps.foldlSnd _ ?_ (fun a k hK => ?_)
    | with_reducible refine Keeps.upToSnd _ ?_ (fun a k hK => ?_)
    | with_reducible refine Keeps.upTo _ ?_ (fun t k hK => ?_)
    | split

theorem keeps_contribute {ps : List Part} {s0 s : State} (z : Nat) (l : Nat) (m : Msg)
    (hK : Keeps ps s0 s) (hP : sub [.fabric, .mem, .bezels, .ledger, .faults, .hub, .asy] ps = true) :
    Keeps ps s0 (contribute z l m s).2.2 := by
  unfold contribute
  try dsimp only
  repeat' first
    | with_reducible assumption
    | with_reducible refine keeps_breakRec _ _ ?_ (sub_trans (by decide) hP)
    | with_reducible refine keeps_conApply _ _ _ ?_ (sub_trans (by decide) hP)
    | with_reducible refine keeps_recordMore _ _ _ _ _ ?_ (sub_trans (by decide) hP)
    | with_reducible refine keeps_countEv _ _ _ ?_ (sub_trans (by decide) hP)
    | with_reducible refine keeps_modBezel _ _ ?_ (sub_trans (by decide) hP)
    | split

theorem keeps_checkCopy {ps : List Part} {s0 s : State} (z : Nat) (o : Nat) (r : Nat) (j : Nat) (step : Word32)
    (first : Bool) (d : Gran)
    (hK : Keeps ps s0 s) (hP : sub [.bezels] ps = true) :
    Keeps ps s0 (checkCopy z o r j step first d s) := by
  unfold checkCopy
  try dsimp only
  repeat' first
    | with_reducible assumption
    | with_reducible refine keeps_setBezel _ _ ?_ (sub_trans (by decide) hP)
    | split

theorem keeps_execSampledGranuleCopy {ps : List Part} {s0 s : State} (b : BezelN)
    (hK : Keeps ps s0 s) (hP : sub [.bezels] ps = true) :
    KeepsOut ps s0 (execSampledGranuleCopy b s) := by
  unfold execSampledGranuleCopy
  try dsimp only
  repeat' first
    | with_reducible assumption
    | with_reducible refine keeps_checkCopy _ _ _ _ _ _ _ ?_ (sub_trans (by decide) hP)
    | with_reducible refine keeps_modBezel _ _ ?_ (sub_trans (by decide) hP)
    | with_reducible refine keepsOut_next ?_
    | with_reducible refine keepsOut_whenOk ?_ ?_
    | split

theorem keeps_checkMiss {ps : List Part} {s0 s : State} (z : Nat) (o : Nat) (r : Nat) (j : Nat) (i : Nat) (step :
    Word32) (x : Word32) (y : Word32)
    (hK : Keeps ps s0 s) (hP : sub [.bezels, .ledger, .faults, .hub] ps = true) :
    Keeps ps s0 (checkMiss z o r j i step x y s) := by
  unfold checkMiss
  try dsimp only
  repeat' first
    | with_reducible assumption
    | with_reducible refine keeps_recordMore _ _ _ _ _ ?_ (sub_trans (by decide) hP)
    | with_reducible refine keeps_hubRaise _ ?_ (sub_trans (by decide) hP)
    | with_reducible refine keeps_modBezel _ _ ?_ (sub_trans (by decide) hP)
    | split

theorem keeps_verdict {ps : List Part} {s0 s : State} (o : Nat) (r : Nat) (bad : Bool)
    (hK : Keeps ps s0 s) (hP : sub [.bezels, .ledger, .faults, .hub] ps = true) :
    Keeps ps s0 (verdict o r bad s) := by
  unfold verdict
  try dsimp only
  repeat' first
    | with_reducible assumption
    | with_reducible refine keeps_breakRec _ _ ?_ (sub_trans (by decide) hP)
    | with_reducible refine keeps_setBezel _ _ ?_ (sub_trans (by decide) hP)
    | split

theorem keeps_checkSums {ps : List Part} {s0 s : State} (z : Nat) (o : Nat) (r : Nat) (j : Nat) (step : Word32) (vals
    : List Word32)
    (hK : Keeps ps s0 s) (hP : sub [.bezels, .ledger, .faults, .hub] ps = true) :
    Keeps ps s0 (checkSums z o r j step vals s) := by
  unfold checkSums
  try dsimp only
  repeat' first
    | with_reducible assumption
    | with_reducible refine keeps_verdict _ _ _ ?_ (sub_trans (by decide) hP)
    | with_reducible refine keeps_setBezel _ _ ?_ (sub_trans (by decide) hP)
    | with_reducible refine keeps_checkMiss _ _ _ _ _ _ _ _ ?_ (sub_trans (by decide) hP)
    | with_reducible refine Keeps.foldl _ ?_ (fun t a hK => ?_)
    | with_reducible refine Keeps.foldlSnd _ ?_ (fun a k hK => ?_)
    | split

theorem keeps_execSampledCheckCompare {ps : List Part} {s0 s : State} (b : BezelN)
    (hK : Keeps ps s0 s) (hP : sub [.bezels, .ledger, .faults, .hub] ps = true) :
    KeepsOut ps s0 (execSampledCheckCompare b s) := by
  unfold execSampledCheckCompare
  try dsimp only
  repeat' first
    | with_reducible assumption
    | with_reducible refine keeps_checkSums _ _ _ _ _ _ ?_ (sub_trans (by decide) hP)
    | with_reducible refine keeps_modBezel _ _ ?_ (sub_trans (by decide) hP)
    | with_reducible refine keepsOut_next ?_
    | with_reducible refine keepsOut_whenOk ?_ ?_
    | split

theorem keeps_storeBytes {ps : List Part} {s0 s : State} (z : Nat) (l : Nat) (bytes : List Byte)
    (hK : Keeps ps s0 s) (hP : sub [.fabric, .mem, .bezels, .ledger, .faults, .hub, .asy] ps = true) :
    Keeps ps s0 (storeBytes z l bytes s) := by
  unfold storeBytes
  try dsimp only
  repeat' first
    | with_reducible assumption
    | with_reducible refine keeps_mergeUse _ _ _ ?_ (sub_trans (by decide) hP)
    | with_reducible refine keeps_stackStore _ _ _ ?_ (sub_trans (by decide) hP)
    | with_reducible refine Keeps.upToSnd _ ?_ (fun a k hK => ?_)
    | with_reducible refine Keeps.upTo _ ?_ (fun t k hK => ?_)
    | split

theorem keeps_unitGroup {ps : List Part} {s0 s : State} (z : Nat) (r : RedRec) (d : BitVec 512) (w : UnitPlace) (k :
    Nat)
    (hK : Keeps ps s0 s) (hP : sub [.fabric, .mem, .bezels, .ledger, .faults, .hub, .asy] ps = true) :
    Keeps ps s0 (unitGroup z r d w k s).2 := by
  unfold unitGroup
  try dsimp only
  repeat' first
    | with_reducible assumption
    | with_reducible refine keeps_useWords _ _ _ ?_ (sub_trans (by decide) hP)
    | with_reducible refine keeps_countEv _ _ _ ?_ (sub_trans (by decide) hP)
    | with_reducible refine keeps_storeBytes _ _ _ ?_ (sub_trans (by decide) hP)
    | with_reducible refine keeps_modBezel _ _ ?_ (sub_trans (by decide) hP)
    | split

theorem keeps_fanData {ps : List Part} {s0 s : State} (z : Nat) (l : Nat)
    (hK : Keeps ps s0 s) (hP : sub [.mem, .bezels, .ledger, .faults, .hub, .asy] ps = true) :
    Keeps ps s0 (fanData z l s).2 := by
  unfold fanData
  try dsimp only
  repeat' first
    | with_reducible assumption
    | with_reducible refine keeps_unitUse _ _ _ ?_ (sub_trans (by decide) hP)
    | with_reducible refine Keeps.upToSnd _ ?_ (fun a k hK => ?_)
    | with_reducible refine Keeps.upTo _ ?_ (fun t k hK => ?_)
    | split

theorem keeps_fanOut {ps : List Part} {s0 s : State} (z : Nat) (ri : Nat) (n : Nat) (w : UnitPlace) (addr : Nat)
    (hK : Keeps ps s0 s) (hP : sub [.fabric, .mem, .bezels, .ledger, .faults, .hub, .asy] ps = true) :
    Keeps ps s0 (fanOut z ri n w addr s) := by
  unfold fanOut
  try dsimp only
  repeat' first
    | with_reducible assumption
    | with_reducible refine keeps_sendMsg _ ?_ (sub_trans (by decide) hP)
    | with_reducible refine keeps_breakRec _ _ ?_ (sub_trans (by decide) hP)
    | with_reducible refine keeps_fanData _ _ ?_ (sub_trans (by decide) hP)
    | with_reducible refine keeps_modBezel _ _ ?_ (sub_trans (by decide) hP)
    | with_reducible refine Keeps.upToSnd _ ?_ (fun a k hK => ?_)
    | with_reducible refine Keeps.upTo _ ?_ (fun t k hK => ?_)
    | split

theorem keeps_unitRun {ps : List Part} {s0 s : State} (z : Nat) (ri : Nat)
    (hK : Keeps ps s0 s) (hP : sub [.fabric, .mem, .bezels, .ledger, .faults, .hub, .asy] ps = true) :
    Keeps ps s0 (unitRun z ri s) := by
  unfold unitRun
  try dsimp only
  repeat' first
    | with_reducible assumption
    | with_reducible refine keeps_fanOut _ _ _ _ _ ?_ (sub_trans (by decide) hP)
    | with_reducible refine keeps_breakRec _ _ ?_ (sub_trans (by decide) hP)
    | with_reducible refine keeps_unitGroup _ _ _ _ _ ?_ (sub_trans (by decide) hP)
    | with_reducible refine keeps_setRec _ _ _ ?_ (sub_trans (by decide) hP)
    | with_reducible refine keeps_modRec _ _ _ ?_ (sub_trans (by decide) hP)
    | with_reducible refine keeps_modBezel _ _ ?_ (sub_trans (by decide) hP)
    | with_reducible refine Keeps.upToSnd _ ?_ (fun a k hK => ?_)
    | with_reducible refine Keeps.foldl _ ?_ (fun t a hK => ?_)
    | with_reducible refine Keeps.foldlSnd _ ?_ (fun a k hK => ?_)
    | with_reducible refine Keeps.upToSnd _ ?_ (fun a k hK => ?_)
    | with_reducible refine Keeps.upTo _ ?_ (fun t k hK => ?_)
    | split

theorem keeps_execFusedUpdate {ps : List Part} {s0 s : State} (b : BezelN)
    (hK : Keeps ps s0 s) (hP : sub [.fabric, .mem, .bezels, .ledger, .faults, .hub, .asy, .out] ps = true) :
    KeepsOut ps s0 (execFusedUpdate b s) := by
  unfold execFusedUpdate
  try dsimp only
  repeat' first
    | with_reducible assumption
    | with_reducible refine keeps_snoop _ _ ?_ (sub_trans (by decide) hP)
    | with_reducible refine keeps_unitRun _ _ ?_ (sub_trans (by decide) hP)
    | with_reducible refine keeps_modRec _ _ _ ?_ (sub_trans (by decide) hP)
    | with_reducible refine keeps_modBezel _ _ ?_ (sub_trans (by decide) hP)
    | with_reducible refine keepsOut_next ?_
    | with_reducible refine keepsOut_whenOk ?_ ?_
    | with_reducible refine Keeps.foldl _ ?_ (fun t a hK => ?_)
    | with_reducible refine Keeps.foldlSnd _ ?_ (fun a k hK => ?_)
    | split

theorem keeps_bezelAck {ps : List Part} {s0 s : State} (z : Nat) (m : Msg)
    (hK : Keeps ps s0 s) (hP : sub [.bezels, .ledger, .faults, .hub] ps = true) :
    Keeps ps s0 (bezelAck z m s) := by
  unfold bezelAck
  try dsimp only
  repeat' first
    | with_reducible assumption
    | with_reducible refine keeps_breakRec _ _ ?_ (sub_trans (by decide) hP)
    | with_reducible refine keeps_modBezel _ _ ?_ (sub_trans (by decide) hP)
    | split

theorem keeps_fanSignal {ps : List Part} {s0 s : State} (z : Nat) (ri : Nat) (n : Nat) (f : Fan)
    (hK : Keeps ps s0 s) (hP : sub [.fabric, .bezels, .ledger, .faults, .hub] ps = true) :
    Keeps ps s0 (fanSignal z ri n f s) := by
  unfold fanSignal
  try dsimp only
  repeat' first
    | with_reducible assumption
    | with_reducible refine keeps_sendMsg _ ?_ (sub_trans (by decide) hP)
    | with_reducible refine keeps_breakRec _ _ ?_ (sub_trans (by decide) hP)
    | with_reducible refine keeps_modBezel _ _ ?_ (sub_trans (by decide) hP)
    | split

theorem keeps_execFanoutSignal {ps : List Part} {s0 s : State} (b : BezelN) (ri : Fin 65536) (n : PortN)
    (hK : Keeps ps s0 s) (hP : sub [.fabric, .bezels, .ledger, .faults, .hub] ps = true) :
    KeepsOut ps s0 (execFanoutSignal b ri n s) := by
  unfold execFanoutSignal
  try dsimp only
  repeat' first
    | with_reducible assumption
    | with_reducible refine keeps_fanSignal _ _ _ _ ?_ (sub_trans (by decide) hP)
    | with_reducible refine keepsOut_next ?_
    | with_reducible refine keepsOut_whenOk ?_ ?_
    | split

theorem keeps_fanInjected {ps : List Part} {s0 s : State} (z : Nat) (m : Msg)
    (hK : Keeps ps s0 s) (hP : sub [.bezels] ps = true) :
    Keeps ps s0 (fanInjected z m s) := by
  unfold fanInjected
  try dsimp only
  repeat' first
    | with_reducible assumption
    | with_reducible refine keeps_modRec _ _ _ ?_ (sub_trans (by decide) hP)
    | with_reducible refine keeps_modBezel _ _ ?_ (sub_trans (by decide) hP)
    | split

theorem keeps_execCommitArm {ps : List Part} {s0 s : State}
    (hK : Keeps ps s0 s) (hP : sub [.clasps, .commit] ps = true) :
    KeepsOut ps s0 (execCommitArm s) := by
  unfold execCommitArm
  try dsimp only
  repeat' first
    | with_reducible assumption
    | dsimp only [keeps_mk]
    | with_reducible refine KeepsMk.w_commit ?_ (sub_mem (by decide) hP)
    | with_reducible refine keeps_setClasp _ _ ?_ (sub_trans (by decide) hP)
    | with_reducible refine keepsOut_next ?_
    | with_reducible refine keepsOut_whenOk ?_ ?_
    | split

theorem keeps_commitReq {ps : List Part} {s0 s : State}
    (hK : Keeps ps s0 s) (hP : sub [.commit] ps = true) :
    Keeps ps s0 (commitReq s) := by
  unfold commitReq
  try dsimp only
  repeat' first
    | with_reducible assumption
    | dsimp only [keeps_mk]
    | with_reducible refine KeepsMk.w_commit ?_ (sub_mem (by decide) hP)
    | split

theorem keeps_execCommitReq {ps : List Part} {s0 s : State} (m : Master)
    (hK : Keeps ps s0 s) (hP : sub [.ledger, .commit, .faults] ps = true) :
    KeepsOut ps s0 (execCommitReq m s) := by
  unfold execCommitReq
  try dsimp only
  repeat' first
    | with_reducible assumption
    | with_reducible refine keeps_commitReq ?_ (sub_trans (by decide) hP)
    | with_reducible refine keeps_regWriteRow _ _ _ ?_ (sub_trans (by decide) hP) (fun t hK => ?_)
    | with_reducible refine keepsOut_next ?_
    | with_reducible refine keepsOut_whenOk ?_ ?_
    | split

theorem keeps_commitCancel {ps : List Part} {s0 s : State}
    (hK : Keeps ps s0 s) (hP : sub [.commit] ps = true) :
    Keeps ps s0 (commitCancel s) := by
  unfold commitCancel
  try dsimp only
  repeat' first
    | with_reducible assumption
    | dsimp only [keeps_mk]
    | with_reducible refine KeepsMk.w_commit ?_ (sub_mem (by decide) hP)
    | split

theorem keeps_execCommitCancel {ps : List Part} {s0 s : State} (m : Master)
    (hK : Keeps ps s0 s) (hP : sub [.ledger, .commit, .faults] ps = true) :
    KeepsOut ps s0 (execCommitCancel m s) := by
  unfold execCommitCancel
  try dsimp only
  repeat' first
    | with_reducible assumption
    | with_reducible refine keeps_commitCancel ?_ (sub_trans (by decide) hP)
    | with_reducible refine keeps_regWriteRow _ _ _ ?_ (sub_trans (by decide) hP) (fun t hK => ?_)
    | with_reducible refine keepsOut_next ?_
    | with_reducible refine keepsOut_whenOk ?_ ?_
    | split

theorem keeps_openRec {ps : List Part} {s0 s : State} (z : Nat) (ri : Nat)
    (hK : Keeps ps s0 s) (hP : sub [.mem, .bezels, .ledger, .faults, .hub, .asy] ps = true) :
    Keeps ps s0 (openRec z ri s) := by
  unfold openRec
  try dsimp only
  repeat' first
    | with_reducible assumption
    | with_reducible refine keeps_completeRec _ _ ?_ (sub_trans (by decide) hP)
    | with_reducible refine keeps_modRec _ _ _ ?_ (sub_trans (by decide) hP)
    | split

theorem keeps_flipBezel {ps : List Part} {s0 s : State} (z : Nat) (mask : Word)
    (hK : Keeps ps s0 s) (hP : sub [.mem, .bezels, .ledger, .faults, .hub, .asy] ps = true) :
    Keeps ps s0 (flipBezel z mask s) := by
  unfold flipBezel
  try dsimp only
  repeat' first
    | with_reducible assumption
    | with_reducible refine keeps_openRec _ _ ?_ (sub_trans (by decide) hP)
    | with_reducible refine keeps_modRec _ _ _ ?_ (sub_trans (by decide) hP)
    | with_reducible refine keeps_modBezel _ _ ?_ (sub_trans (by decide) hP)
    | with_reducible refine Keeps.foldl _ ?_ (fun t a hK => ?_)
    | with_reducible refine Keeps.foldlSnd _ ?_ (fun a k hK => ?_)
    | split

theorem keeps_flip {ps : List Part} {s0 s : State}
    (hK : Keeps ps s0 s) (hP : sub [.mem, .bezels, .ledger, .commit, .faults, .hub, .asy] ps = true) :
    Keeps ps s0 (Machine.flip s) := by
  unfold Machine.flip
  try dsimp only
  repeat' first
    | with_reducible assumption
    | dsimp only [keeps_mk]
    | with_reducible refine KeepsMk.w_commit ?_ (sub_mem (by decide) hP)
    | with_reducible refine keeps_flipBezel _ _ ?_ (sub_trans (by decide) hP)
    | with_reducible refine Keeps.upToSnd _ ?_ (fun a k hK => ?_)
    | with_reducible refine Keeps.upTo _ ?_ (fun t k hK => ?_)
    | split

theorem keeps_redCfgWrite {ps : List Part} {s0 s : State} (z : Nat) (w : Width) (v : Word)
    (hK : Keeps ps s0 s) (hP : sub [.bezels, .ledger, .faults] ps = true) :
    Keeps ps s0 (redCfgWrite z w v s) := by
  unfold redCfgWrite
  try dsimp only
  repeat' first
    | with_reducible assumption
    | with_reducible refine keeps_forbidden _ ?_ (sub_trans (by decide) hP)
    | with_reducible refine keeps_setBezel _ _ ?_ (sub_trans (by decide) hP)
    | split

theorem keeps_execBzlRedCfgWrite {ps : List Part} {s0 s : State} (m : Master) (b : BezelN) (w : Width) (v : Word)
    (hK : Keeps ps s0 s) (hP : sub [.bezels, .ledger, .faults] ps = true) :
    KeepsOut ps s0 (execBzlRedCfgWrite m b w v s) := by
  unfold execBzlRedCfgWrite
  try dsimp only
  repeat' first
    | with_reducible assumption
    | with_reducible refine keeps_redCfgWrite _ _ _ ?_ (sub_trans (by decide) hP)
    | with_reducible refine keeps_regWriteRow _ _ _ ?_ (sub_trans (by decide) hP) (fun t hK => ?_)
    | with_reducible refine keepsOut_next ?_
    | with_reducible refine keepsOut_whenOk ?_ ?_
    | split

theorem keeps_execBzlRedStatRead {ps : List Part} {s0 s : State} (b : BezelN) (w : Width)
    (hK : Keeps ps s0 s) (hP : sub [.bezels, .out] ps = true) :
    KeepsOut ps s0 (execBzlRedStatRead b w s) := by
  unfold execBzlRedStatRead
  try dsimp only
  repeat' first
    | with_reducible assumption
    | with_reducible refine keeps_regReadRow _ _ _ _ ?_ (sub_trans (by decide) hP) (fun t hK => ?_)
    | with_reducible refine keeps_modBezel _ _ ?_ (sub_trans (by decide) hP)
    | with_reducible refine keepsOut_next ?_
    | with_reducible refine keepsOut_whenOk ?_ ?_
    | split

theorem keeps_setFlights {ps : List Part} {s0 s : State} (r : Nat) (l : List Flight)
    (hK : Keeps ps s0 s) (hP : sub [.fabric] ps = true) :
    Keeps ps s0 (setFlights r l s) := by
  unfold setFlights
  try dsimp only
  repeat' first
    | with_reducible assumption
    | dsimp only [keeps_mk]
    | with_reducible refine KeepsMk.w_fabric ?_ (sub_mem (by decide) hP)
    | split

theorem keeps_pushFlight {ps : List Part} {s0 s : State} (r : Nat) (f : Flight)
    (hK : Keeps ps s0 s) (hP : sub [.fabric] ps = true) :
    Keeps ps s0 (pushFlight r f s) := by
  unfold pushFlight
  try dsimp only
  repeat' first
    | with_reducible assumption
    | with_reducible refine keeps_setFlights _ _ ?_ (sub_trans (by decide) hP)
    | split

theorem keeps_targetDown {ps : List Part} {s0 s : State} (m : Msg)
    (hK : Keeps ps s0 s) (hP : sub [.fabric] ps = true) :
    Keeps ps s0 (targetDown m s) := by
  unfold targetDown
  try dsimp only
  repeat' first
    | with_reducible assumption
    | with_reducible refine keeps_sendMsg _ ?_ (sub_trans (by decide) hP)
    | split

theorem keeps_recordFlit {ps : List Part} {s0 s : State} (cls : Nat) (r : Nat) (n : Nat) (hdr : Nat)
    (hK : Keeps ps s0 s) (hP : sub [.ledger, .faults, .hub, .asy] ps = true) :
    Keeps ps s0 (recordFlit cls r n hdr s) := by
  unfold recordFlit
  try dsimp only
  repeat' first
    | with_reducible assumption
    | with_reducible refine keeps_countEv _ _ _ ?_ (sub_trans (by decide) hP)
    | with_reducible refine keeps_hubRaiseBy _ _ ?_ (sub_trans (by decide) hP)
    | with_reducible refine keeps_recordAt _ _ _ ?_ (sub_trans (by decide) hP)
    | split

theorem keeps_discardHeader {ps : List Part} {s0 s : State} (r : Nat) (m : Msg) (k : Nat) (n : Nat) (broken : Bool)
    (hK : Keeps ps s0 s) (hP : sub [.clock, .ledger, .faults, .hub, .asy, .free] ps = true) :
    Keeps ps s0 (discardHeader r m k n broken s) := by
  unfold discardHeader
  try dsimp only
  repeat' first
    | with_reducible assumption
    | with_reducible refine keeps_drawn ?_ (sub_trans (by decide) hP)
    | with_reducible refine keeps_recordFlit _ _ _ _ ?_ (sub_trans (by decide) hP)
    | with_reducible refine keeps_endService _ ?_ (sub_trans (by decide) hP)
    | split

theorem keeps_misroute {ps : List Part} {s0 s : State} (r : Nat) (m : Msg)
    (hK : Keeps ps s0 s) (hP : sub [.clock, .ledger, .faults, .hub, .asy] ps = true) :
    Keeps ps s0 (misroute r m s) := by
  unfold misroute
  try dsimp only
  repeat' first
    | with_reducible assumption
    | with_reducible refine keeps_recordFlit _ _ _ _ ?_ (sub_trans (by decide) hP)
    | with_reducible refine keeps_endService _ ?_ (sub_trans (by decide) hP)
    | split

theorem keeps_deliver {ps : List Part} {s0 s : State} (r : Nat) (port : Nat) (m : Msg)
    (hK : Keeps ps s0 s) (hP : sub [.clock, .fabric, .ledger, .faults, .hub, .asy] ps = true) :
    Keeps ps s0 (deliver r port m s) := by
  unfold deliver
  try dsimp only
  repeat' first
    | with_reducible assumption
    | with_reducible refine keeps_misroute _ _ ?_ (sub_trans (by decide) hP)
    | with_reducible refine keeps_setArrivals _ _ ?_ (sub_trans (by decide) hP)
    | with_reducible refine keeps_targetDown _ ?_ (sub_trans (by decide) hP)
    | with_reducible refine keeps_countEv _ _ _ ?_ (sub_trans (by decide) hP)
    | split

theorem keeps_landAt {ps : List Part} {s0 s : State} (t : Nat) (m : Msg)
    (hK : Keeps ps s0 s) (hP : sub [.fabric] ps = true) :
    Keeps ps s0 (landAt t m s) := by
  unfold landAt
  try dsimp only
  repeat' first
    | with_reducible assumption
    | dsimp only [keeps_mk]
    | with_reducible refine KeepsMk.w_fabric ?_ (sub_mem (by decide) hP)
    | split

theorem keeps_routerLooks {ps : List Part} {s0 s : State} (r : Nat) (m : Msg)
    (hK : Keeps ps s0 s) (hP : sub [.asy] ps = true) :
    Keeps ps s0 (routerLooks r m s) := by
  unfold routerLooks
  try dsimp only
  repeat' first
    | with_reducible assumption
    | with_reducible refine keeps_countLook _ _ ?_ (sub_trans (by decide) hP)
    | with_reducible refine Keeps.foldl _ ?_ (fun t a hK => ?_)
    | with_reducible refine Keeps.foldlSnd _ ?_ (fun a k hK => ?_)
    | split

theorem keeps_sendOut {ps : List Part} {s0 s : State} (r : Nat) (port : Nat) (t : Nat) (t' : Nat) (m : Msg)
    (hK : Keeps ps s0 s) (hP : sub [.clock, .fabric, .ledger, .faults, .hub, .asy] ps = true) :
    Keeps ps s0 (sendOut r port t t' m s) := by
  unfold sendOut
  try dsimp only
  repeat' first
    | with_reducible assumption
    | with_reducible refine keeps_misroute _ _ ?_ (sub_trans (by decide) hP)
    | with_reducible refine keeps_pushFlight _ _ ?_ (sub_trans (by decide) hP)
    | with_reducible refine keeps_landAt _ _ ?_ (sub_trans (by decide) hP)
    | with_reducible refine keeps_countEv _ _ _ ?_ (sub_trans (by decide) hP)
    | with_reducible refine keeps_deliver _ _ _ ?_ (sub_trans (by decide) hP)
    | split

theorem keeps_keepBusy {ps : List Part} {s0 s : State} (k : Nat) (n : Nat)
    (hK : Keeps ps s0 s) (hP : sub [.fabric] ps = true) :
    Keeps ps s0 (keepBusy k n s) := by
  unfold keepBusy
  try dsimp only
  repeat' first
    | with_reducible assumption
    | dsimp only [keeps_mk]
    | with_reducible refine KeepsMk.w_fabric ?_ (sub_mem (by decide) hP)
    | split

theorem keeps_injectBusy {ps : List Part} {s0 s : State} (n : Nat) (m : Msg)
    (hK : Keeps ps s0 s) (hP : sub [.fabric] ps = true) :
    Keeps ps s0 (injectBusy n m s) := by
  unfold injectBusy
  try dsimp only
  repeat' first
    | with_reducible assumption
    | with_reducible refine keeps_keepBusy _ _ ?_ (sub_trans (by decide) hP)
    | split

theorem keeps_injectOk {ps : List Part} {s0 s : State} (n : Nat) (tag : Nat) (m : Msg)
    (hK : Keeps ps s0 s) (hP : sub [.fabric] ps = true) :
    KeepsSome ps s0 (injectOk s n tag m) := by
  unfold injectOk
  try dsimp only
  repeat' first
    | with_reducible assumption
    | dsimp only [keeps_mk]
    | with_reducible refine KeepsMk.w_fabric ?_ (sub_mem (by decide) hP)
    | with_reducible refine keeps_injectBusy _ _ ?_ (sub_trans (by decide) hP)
    | with_reducible refine keepsSome_some ?_
    | with_reducible exact keepsSome_none
    | with_reducible refine keepsSome_map fun l => ?_
    | split

theorem keeps_injectMsg {ps : List Part} {s0 s : State} (n : Nat) (m : Msg)
    (hK : Keeps ps s0 s) (hP : sub [.fabric, .bezels, .asy] ps = true) :
    Keeps ps s0 (injectMsg n m s) := by
  unfold injectMsg
  try dsimp only
  repeat' first
    | with_reducible assumption
    | with_reducible refine keeps_pushFlight _ _ ?_ (sub_trans (by decide) hP)
    | with_reducible refine keeps_countEv _ _ _ ?_ (sub_trans (by decide) hP)
    | with_reducible refine keeps_fanInjected _ _ ?_ (sub_trans (by decide) hP)
    | split

theorem keeps_dataFlit {ps : List Part} {s0 s : State} (r : Nat) (inp : Nat) (vc : Nat) (t : Nat)
    (hK : Keeps ps s0 s) (hP : sub [.fabric] ps = true) :
    Keeps ps s0 (dataFlit r inp vc t s) := by
  unfold dataFlit
  try dsimp only
  repeat' first
    | with_reducible assumption
    | with_reducible refine keeps_setFlights _ _ ?_ (sub_trans (by decide) hP)
    | split

theorem keeps_execEndpointInjection {ps : List Part} {s0 s : State} (n : NodeN) (tag : Fin 16)
    (hK : Keeps ps s0 s) (hP : sub [.fabric, .bezels, .asy] ps = true) :
    KeepsOut ps s0 (execEndpointInjection n tag s) := by
  unfold execEndpointInjection
  try dsimp only
  repeat' first
    | with_reducible assumption
    | dsimp only [keeps_mk]
    | with_reducible refine KeepsMk.w_fabric ?_ (sub_mem (by decide) hP)
    | with_reducible refine keeps_dataFlit _ _ _ _ ?_ (sub_trans (by decide) hP)
    | with_reducible refine KeepsSome.get (keeps_injectOk _ _ _ ?_ (sub_trans (by decide) hP)) (by assumption)
    | with_reducible refine keeps_injectOk _ _ _ ?_ (sub_trans (by decide) hP)
    | with_reducible refine keeps_injectMsg _ _ ?_ (sub_trans (by decide) hP)
    | with_reducible refine keeps_injectBusy _ _ ?_ (sub_trans (by decide) hP)
    | with_reducible refine keepsOut_next ?_
    | with_reducible refine keepsOut_whenOk ?_ ?_
    | split

theorem keeps_headersBad {ps : List Part} {s0 s : State} (r : Nat) (e : Option FlitErr) (l : List Flight)
    (hK : Keeps ps s0 s) (hP : sub [.clock, .ledger, .faults, .hub, .asy, .free] ps = true) :
    Keeps ps s0 (headersBad r e l s) := by
  unfold headersBad
  try dsimp only
  repeat' first
    | with_reducible assumption
    | with_reducible refine keeps_discardHeader _ _ _ _ _ ?_ (sub_trans (by decide) hP)
    | with_reducible refine Keeps.foldl _ ?_ (fun t a hK => ?_)
    | with_reducible refine Keeps.foldlSnd _ ?_ (fun a k hK => ?_)
    | split

theorem keeps_routeScheduled {ps : List Part} {s0 s : State} (r : Nat) (hdrErr : Option FlitErr)
    (hK : Keeps ps s0 s) (hP : sub [.clock, .fabric, .ledger, .faults, .hub, .asy, .free] ps = true) :
    Keeps ps s0 (routeScheduled r hdrErr s) := by
  unfold routeScheduled
  try dsimp only
  repeat' first
    | with_reducible assumption
    | with_reducible refine keeps_misroute _ _ ?_ (sub_trans (by decide) hP)
    | with_reducible refine keeps_uncountEv _ _ _ ?_ (sub_trans (by decide) hP)
    | with_reducible refine keeps_headersBad _ _ _ ?_ (sub_trans (by decide) hP)
    | with_reducible refine keeps_setFlights _ _ ?_ (sub_trans (by decide) hP)
    | with_reducible refine keeps_countEv _ _ _ ?_ (sub_trans (by decide) hP)
    | with_reducible refine keeps_sendOut _ _ _ _ _ ?_ (sub_trans (by decide) hP)
    | with_reducible refine keeps_routerLooks _ _ ?_ (sub_trans (by decide) hP)
    | with_reducible refine Keeps.foldl _ ?_ (fun t a hK => ?_)
    | with_reducible refine Keeps.foldlSnd _ ?_ (fun a k hK => ?_)
    | with_reducible refine Keeps.upToSnd _ ?_ (fun a k hK => ?_)
    | with_reducible refine Keeps.upTo _ ?_ (fun t k hK => ?_)
    | split

theorem keeps_execRouteMessageScheduled {ps : List Part} {s0 s : State} (r : RouterN) (hdrErr : Option FlitErr)
    (hK : Keeps ps s0 s) (hP : sub [.clock, .fabric, .ledger, .faults, .hub, .asy, .free] ps = true) :
    KeepsOut ps s0 (execRouteMessageScheduled r hdrErr s) := by
  unfold execRouteMessageScheduled
  try dsimp only
  repeat' first
    | with_reducible assumption
    | with_reducible refine keeps_routeScheduled _ _ ?_ (sub_trans (by decide) hP)
    | with_reducible refine keepsOut_next ?_
    | with_reducible refine keepsOut_whenOk ?_ ?_
    | split

theorem keeps_cutAfter {ps : List Part} {s0 s : State} (fuel : Nat) (r : Nat) (m : Msg)
    (hK : Keeps ps s0 s) (hP : sub [.fabric] ps = true) :
    Keeps ps s0 (cutAfter fuel r m s) := by
  induction fuel generalizing r s with
  | zero => exact hK
  | succ n ih =>
    unfold cutAfter
    split
    · exact hK
    · dsimp only
      split
      · exact hK
      · split
        · exact ih _ (keeps_setFlights _ _ hK (sub_trans (by decide) hP))
        · exact keeps_setFlights _ _ hK (sub_trans (by decide) hP)

theorem keeps_discardFlits {ps : List Part} {s0 s : State} (r : Nat) (f : Flight) (broken : Bool)
    (hK : Keeps ps s0 s) (hP : sub [.clock, .fabric, .ledger, .faults, .hub, .asy, .free] ps = true) :
    Keeps ps s0 (discardFlits r f broken s) := by
  unfold discardFlits
  try dsimp only
  repeat' first
    | with_reducible assumption
    | with_reducible refine keeps_setFlights _ _ ?_ (sub_trans (by decide) hP)
    | with_reducible refine keeps_cutAfter _ _ _ ?_ (sub_trans (by decide) hP)
    | with_reducible refine keeps_discardHeader _ _ _ _ _ ?_ (sub_trans (by decide) hP)
    | split

theorem keeps_flitOut {ps : List Part} {s0 s : State} (r : Nat) (r' : Nat) (out : Nat) (f : Flight)
    (hK : Keeps ps s0 s) (hP : sub [.fabric] ps = true) :
    Keeps ps s0 (flitOut r r' out f s) := by
  unfold flitOut
  try dsimp only
  repeat' first
    | with_reducible assumption
    | with_reducible refine keeps_dataFlit _ _ _ _ ?_ (sub_trans (by decide) hP)
    | with_reducible refine keeps_pushFlight _ _ ?_ (sub_trans (by decide) hP)
    | split

theorem keeps_sendFlit {ps : List Part} {s0 s : State} (r : Nat) (out : Nat) (f : Flight)
    (hK : Keeps ps s0 s) (hP : sub [.clock, .fabric, .ledger, .faults, .hub, .asy] ps = true) :
    Keeps ps s0 (sendFlit r out f s) := by
  unfold sendFlit
  try dsimp only
  repeat' first
    | with_reducible assumption
    | with_reducible refine keeps_setFlights _ _ ?_ (sub_trans (by decide) hP)
    | with_reducible refine keeps_countEv _ _ _ ?_ (sub_trans (by decide) hP)
    | with_reducible refine keeps_cutAfter _ _ _ ?_ (sub_trans (by decide) hP)
    | with_reducible refine keeps_deliver _ _ _ ?_ (sub_trans (by decide) hP)
    | with_reducible refine keeps_flitOut _ _ _ _ ?_ (sub_trans (by decide) hP)
    | split

theorem keeps_routeArbitrated {ps : List Part} {s0 s : State} (r : Nat) (out : Nat) (hdrErr : Bool) (f : Flight)
    (hK : Keeps ps s0 s) (hP : sub [.clock, .fabric, .ledger, .faults, .hub, .asy, .free] ps = true) :
    Keeps ps s0 (routeArbitrated r out hdrErr f s) := by
  unfold routeArbitrated
  try dsimp only
  repeat' first
    | with_reducible assumption
    | dsimp only [keeps_mk]
    | with_reducible refine KeepsMk.w_fabric ?_ (sub_mem (by decide) hP)
    | with_reducible refine keeps_countLook _ _ ?_ (sub_trans (by decide) hP)
    | with_reducible refine keeps_keepBusy _ _ ?_ (sub_trans (by decide) hP)
    | with_reducible refine keeps_sendFlit _ _ _ ?_ (sub_trans (by decide) hP)
    | with_reducible refine keeps_discardFlits _ _ _ ?_ (sub_trans (by decide) hP)
    | with_reducible refine keeps_countEv _ _ _ ?_ (sub_trans (by decide) hP)
    | with_reducible refine Keeps.foldl _ ?_ (fun t a hK => ?_)
    | with_reducible refine Keeps.foldlSnd _ ?_ (fun a k hK => ?_)
    | split

theorem keeps_execRouteMessageArbitrated {ps : List Part} {s0 s : State} (r : RouterN) (out : Fin 6) (hdrErr : Bool)
    (hK : Keeps ps s0 s) (hP : sub [.clock, .fabric, .ledger, .faults, .hub, .asy, .free] ps = true) :
    KeepsOut ps s0 (execRouteMessageArbitrated r out hdrErr s) := by
  unfold execRouteMessageArbitrated
  try dsimp only
  repeat' first
    | with_reducible assumption
    | with_reducible refine keeps_routeArbitrated _ _ _ _ ?_ (sub_trans (by decide) hP)
    | with_reducible refine keepsOut_next ?_
    | with_reducible refine keepsOut_whenOk ?_ ?_
    | split

theorem keeps_failEndpoint {ps : List Part} {s0 s : State} (n : Nat)
    (hK : Keeps ps s0 s) (hP : sub [.fabric, .ledger, .faults, .hub, .asy] ps = true) :
    Keeps ps s0 (failEndpoint n s) := by
  unfold failEndpoint
  try dsimp only
  repeat' first
    | with_reducible assumption
    | dsimp only [keeps_mk]
    | with_reducible refine KeepsMk.w_fabric ?_ (sub_mem (by decide) hP)
    | with_reducible refine keeps_setFlights _ _ ?_ (sub_trans (by decide) hP)
    | with_reducible refine keeps_setArrivals _ _ ?_ (sub_trans (by decide) hP)
    | with_reducible refine keeps_targetDown _ ?_ (sub_trans (by decide) hP)
    | with_reducible refine keeps_countEv _ _ _ ?_ (sub_trans (by decide) hP)
    | with_reducible refine keeps_hubRaiseBy _ _ ?_ (sub_trans (by decide) hP)
    | with_reducible refine keeps_recordAt _ _ _ ?_ (sub_trans (by decide) hP)
    | with_reducible refine Keeps.foldl _ ?_ (fun t a hK => ?_)
    | with_reducible refine Keeps.foldlSnd _ ?_ (fun a k hK => ?_)
    | split

theorem keeps_execEndpointFailed {ps : List Part} {s0 s : State} (n : NodeN)
    (hK : Keeps ps s0 s) (hP : sub [.fabric, .ledger, .faults, .hub, .asy] ps = true) :
    KeepsOut ps s0 (execEndpointFailed n s) := by
  unfold execEndpointFailed
  try dsimp only
  repeat' first
    | with_reducible assumption
    | with_reducible refine keeps_failEndpoint _ ?_ (sub_trans (by decide) hP)
    | with_reducible refine keepsOut_next ?_
    | with_reducible refine keepsOut_whenOk ?_ ?_
    | split

theorem keeps_sendFrom {ps : List Part} {s0 s : State} (n : Nat) (m : Msg)
    (hK : Keeps ps s0 s) (hP : sub [.fabric] ps = true) :
    Keeps ps s0 (sendFrom n m s) := by
  unfold sendFrom
  try dsimp only
  repeat' first
    | with_reducible assumption
    | dsimp only [keeps_mk]
    | with_reducible refine KeepsMk.w_fabric ?_ (sub_mem (by decide) hP)
    | split

theorem keeps_passXbar {ps : List Part} {s0 s : State} (n : Nat) (data : List Code)
    (hK : Keeps ps s0 s) (hP : sub [.asy] ps = true) :
    Keeps ps s0 (passXbar n data s) := by
  unfold passXbar
  try dsimp only
  repeat' first
    | with_reducible assumption
    | with_reducible refine keeps_xbarLooks _ _ ?_ (sub_trans (by decide) hP)
    | split

theorem keeps_answer {ps : List Part} {s0 s : State} (n : Nat) (m : Msg)
    (hK : Keeps ps s0 s) (hP : sub [.fabric, .asy] ps = true) :
    Keeps ps s0 (answer n m s) := by
  unfold answer
  try dsimp only
  repeat' first
    | with_reducible assumption
    | with_reducible refine keeps_passXbar _ _ ?_ (sub_trans (by decide) hP)
    | with_reducible refine keeps_setArrivals _ _ ?_ (sub_trans (by decide) hP)
    | with_reducible refine keeps_sendFrom _ _ ?_ (sub_trans (by decide) hP)
    | split

theorem keeps_answerWrite {ps : List Part} {s0 s : State} (n : Nat) (m : Msg) (pm : Nat) (cls : Nat)
    (hK : Keeps ps s0 s) (hP : sub [.fabric, .asy] ps = true) :
    Keeps ps s0 (answerWrite n m pm cls s) := by
  unfold answerWrite
  try dsimp only
  repeat' first
    | with_reducible assumption
    | with_reducible refine keeps_answer _ _ ?_ (sub_trans (by decide) hP)
    | with_reducible refine Keeps.foldl _ ?_ (fun t a hK => ?_)
    | with_reducible refine Keeps.foldlSnd _ ?_ (fun a k hK => ?_)
    | split

theorem keeps_returnData {ps : List Part} {s0 s : State} (n : Nat) (m : Msg) (data : List Code) (pm : Nat) (cls :
    Nat) (shared : Bool)
    (hK : Keeps ps s0 s) (hP : sub [.fabric, .mem, .asy] ps = true) :
    Keeps ps s0 (returnData n m data pm cls shared s) := by
  unfold returnData
  try dsimp only
  repeat' first
    | with_reducible assumption
    | with_reducible refine keeps_passXbar _ _ ?_ (sub_trans (by decide) hP)
    | with_reducible refine keeps_toSlice _ _ _ ?_ (sub_trans (by decide) hP)
    | with_reducible refine keeps_answer _ _ ?_ (sub_trans (by decide) hP)
    | with_reducible refine keeps_sendFrom _ _ ?_ (sub_trans (by decide) hP)
    | split

theorem keeps_recordParts {ps : List Part} {s0 s : State} (blk : Nat) (m : Msg) (cls : List Nat) (prior : Bool)
    (hK : Keeps ps s0 s) (hP : sub [.ledger, .faults] ps = true) :
    Keeps ps s0 (recordParts blk m cls prior s) := by
  unfold recordParts
  try dsimp only
  repeat' first
    | with_reducible assumption
    | with_reducible refine keeps_recordPart _ _ _ _ _ _ ?_ (sub_trans (by decide) hP)
    | split

theorem keeps_addRereads {ps : List Part} {s0 s : State} (m : Msg) (cls : List Nat)
    (hK : Keeps ps s0 s) (hP : sub [.mem] ps = true) :
    Keeps ps s0 (addRereads m cls s) := by
  unfold addRereads
  try dsimp only
  repeat' first
    | with_reducible assumption
    | with_reducible refine keeps_addReread _ _ ?_ (sub_trans (by decide) hP)
    | with_reducible refine Keeps.foldl _ ?_ (fun t a hK => ?_)
    | with_reducible refine Keeps.foldlSnd _ ?_ (fun a k hK => ?_)
    | split

theorem keeps_bezelRead1 {ps : List Part} {s0 : State} {a : Parts × State} (z : Nat) (m : Msg) (i : Nat)
    (hK : Keeps ps s0 a.2) (hP : sub [.bezels, .ledger, .faults, .hub, .asy] ps = true) :
    Keeps ps s0 (bezelRead1 z m i a).2 := by
  unfold bezelRead1
  try dsimp only
  repeat' first
    | with_reducible assumption
    | with_reducible refine keeps_countEv _ _ _ ?_ (sub_trans (by decide) hP)
    | with_reducible refine keeps_stackUse _ _ ?_ (sub_trans (by decide) hP)
    | split

theorem keeps_bezelRead {ps : List Part} {s0 s : State} (z : Nat) (m : Msg)
    (hK : Keeps ps s0 s) (hP : sub [.fabric, .mem, .bezels, .ledger, .faults, .hub, .asy] ps = true) :
    Keeps ps s0 (bezelRead z m s) := by
  unfold bezelRead
  try dsimp only
  repeat' first
    | with_reducible assumption
    | with_reducible refine keeps_hubRaise _ ?_ (sub_trans (by decide) hP)
    | with_reducible refine keeps_bezelRead1 _ _ _ ?_ (sub_trans (by decide) hP)
    | with_reducible refine keeps_recordParts _ _ _ _ ?_ (sub_trans (by decide) hP)
    | with_reducible refine keeps_addRereads _ _ ?_ (sub_trans (by decide) hP)
    | with_reducible refine keeps_modBezel _ _ ?_ (sub_trans (by decide) hP)
    | with_reducible refine keeps_returnData _ _ _ _ _ _ ?_ (sub_trans (by decide) hP)
    | with_reducible refine Keeps.upToSnd _ ?_ (fun a k hK => ?_)
    | with_reducible refine Keeps.upTo _ ?_ (fun t k hK => ?_)
    | split

theorem keeps_bezelWrite1 {ps : List Part} {s0 : State} {a : List Nat × State} (z : Nat) (m : Msg) (i : Nat)
    (hK : Keeps ps s0 a.2) (hP : sub [.fabric, .mem, .bezels, .ledger, .faults, .hub, .asy] ps = true) :
    Keeps ps s0 (bezelWrite1 z m i a).2 := by
  unfold bezelWrite1
  try dsimp only
  repeat' first
    | with_reducible assumption
    | with_reducible refine keeps_countEv _ _ _ ?_ (sub_trans (by decide) hP)
    | with_reducible refine keeps_stackStore _ _ _ ?_ (sub_trans (by decide) hP)
    | with_reducible refine keeps_stackUse _ _ ?_ (sub_trans (by decide) hP)
    | split

theorem keeps_bezelWrite {ps : List Part} {s0 s : State} (z : Nat) (m : Msg)
    (hK : Keeps ps s0 s) (hP : sub [.fabric, .mem, .bezels, .ledger, .faults, .hub, .asy] ps = true) :
    Keeps ps s0 (bezelWrite z m s) := by
  unfold bezelWrite
  try dsimp only
  repeat' first
    | with_reducible assumption
    | with_reducible refine keeps_answer _ _ ?_ (sub_trans (by decide) hP)
    | with_reducible refine keeps_hubRaise _ ?_ (sub_trans (by decide) hP)
    | with_reducible refine keeps_bezelWrite1 _ _ _ ?_ (sub_trans (by decide) hP)
    | with_reducible refine keeps_answerWrite _ _ _ _ ?_ (sub_trans (by decide) hP)
    | with_reducible refine keeps_recordParts _ _ _ _ ?_ (sub_trans (by decide) hP)
    | with_reducible refine keeps_contribute _ _ _ ?_ (sub_trans (by decide) hP)
    | with_reducible refine Keeps.upToSnd _ ?_ (fun a k hK => ?_)
    | with_reducible refine Keeps.upTo _ ?_ (fun t k hK => ?_)
    | split

theorem keeps_bezelDo {ps : List Part} {s0 s : State} (z : Nat) (r : SortReq)
    (hK : Keeps ps s0 s) (hP : sub [.fabric, .mem, .bezels, .ledger, .faults, .hub, .asy] ps = true) :
    Keeps ps s0 (bezelDo z r s) := by
  unfold bezelDo
  try dsimp only
  repeat' first
    | with_reducible assumption
    | with_reducible refine keeps_bezelWrite _ _ ?_ (sub_trans (by decide) hP)
    | with_reducible refine keeps_countEv _ _ _ ?_ (sub_trans (by decide) hP)
    | with_reducible refine keeps_bezelRead _ _ ?_ (sub_trans (by decide) hP)
    | with_reducible refine keeps_modBezel _ _ ?_ (sub_trans (by decide) hP)
    | with_reducible refine Keeps.foldl _ ?_ (fun t a hK => ?_)
    | with_reducible refine Keeps.foldlSnd _ ?_ (fun a k hK => ?_)
    | split

theorem keeps_bezelServe {ps : List Part} {s0 s : State} (z : Nat) (r : SortReq)
    (hK : Keeps ps s0 s) (hP : sub [.fabric, .mem, .bezels, .ledger, .faults, .hub, .asy, .out] ps = true) :
    Keeps ps s0 (bezelServe z r s) := by
  unfold bezelServe
  try dsimp only
  repeat' first
    | with_reducible assumption
    | with_reducible refine keeps_snoop _ _ ?_ (sub_trans (by decide) hP)
    | with_reducible refine keeps_bezelDo _ _ ?_ (sub_trans (by decide) hP)
    | with_reducible refine keeps_countEv _ _ _ ?_ (sub_trans (by decide) hP)
    | with_reducible refine keeps_modBezel _ _ ?_ (sub_trans (by decide) hP)
    | with_reducible refine Keeps.foldl _ ?_ (fun t a hK => ?_)
    | with_reducible refine Keeps.foldlSnd _ ?_ (fun a k hK => ?_)
    | split

theorem keeps_execBezelServeRequest {ps : List Part} {s0 s : State} (b : BezelN)
    (hK : Keeps ps s0 s) (hP : sub [.fabric, .mem, .bezels, .ledger, .faults, .hub, .asy, .out] ps = true) :
    KeepsOut ps s0 (execBezelServeRequest b s) := by
  unfold execBezelServeRequest
  try dsimp only
  repeat' first
    | with_reducible assumption
    | with_reducible refine keeps_bezelServe _ _ ?_ (sub_trans (by decide) hP)
    | with_reducible refine keepsOut_next ?_
    | with_reducible refine keepsOut_whenOk ?_ ?_
    | split

theorem keeps_serveHeld {ps : List Part} {s0 s : State} (z : Nat)
    (hK : Keeps ps s0 s) (hP : sub [.fabric, .mem, .bezels, .ledger, .faults, .hub, .asy, .out] ps = true) :
    Keeps ps s0 (serveHeld z s) := by
  unfold serveHeld
  try dsimp only
  repeat' first
    | with_reducible assumption
    | with_reducible refine keeps_snoop _ _ ?_ (sub_trans (by decide) hP)
    | with_reducible refine keeps_bezelDo _ _ ?_ (sub_trans (by decide) hP)
    | with_reducible refine Keeps.foldl _ ?_ (fun t a hK => ?_)
    | with_reducible refine Keeps.foldlSnd _ ?_ (fun a k hK => ?_)
    | split

theorem keeps_dropLine {ps : List Part} {s0 s : State} (z : Nat) (line : Nat)
    (hK : Keeps ps s0 s) (hP : sub [.bezels] ps = true) :
    Keeps ps s0 (dropLine z line s) := by
  unfold dropLine
  try dsimp only
  repeat' first
    | with_reducible assumption
    | with_reducible refine keeps_modBezel _ _ ?_ (sub_trans (by decide) hP)
    | split

theorem keeps_snoopOver {ps : List Part} {s0 s : State} (z : Nat) (line : Nat)
    (hK : Keeps ps s0 s) (hP : sub [.bezels] ps = true) :
    Keeps ps s0 (snoopOver z line s) := by
  unfold snoopOver
  try dsimp only
  repeat' first
    | with_reducible assumption
    | with_reducible refine keeps_dropLine _ _ ?_ (sub_trans (by decide) hP)
    | with_reducible refine keeps_modBezel _ _ ?_ (sub_trans (by decide) hP)
    | split

theorem keeps_sliceRead1 {ps : List Part} {s0 s : State} (i : Nat) (m : Msg) (j : Nat)
    (hK : Keeps ps s0 s) (hP : sub [.asy] ps = true) :
    Keeps ps s0 (sliceRead1 i m j s).2 := by
  unfold sliceRead1
  try dsimp only
  repeat' first
    | with_reducible assumption
    | with_reducible refine keeps_countLook _ _ ?_ (sub_trans (by decide) hP)
    | with_reducible refine keeps_countEv _ _ _ ?_ (sub_trans (by decide) hP)
    | split

theorem keeps_sliceWrite1 {ps : List Part} {s0 s : State} (i : Nat) (m : Msg) (j : Nat)
    (hK : Keeps ps s0 s) (hP : sub [.mem, .asy] ps = true) :
    Keeps ps s0 (sliceWrite1 i m j s).2 := by
  unfold sliceWrite1
  try dsimp only
  repeat' first
    | with_reducible assumption
    | with_reducible refine keeps_storeGran _ _ ?_ (sub_trans (by decide) hP)
    | with_reducible refine keeps_countLook _ _ ?_ (sub_trans (by decide) hP)
    | with_reducible refine keeps_countEv _ _ _ ?_ (sub_trans (by decide) hP)
    | split

theorem keeps_sliceAtomic {ps : List Part} {s0 s : State} (i : Nat) (m : Msg)
    (hK : Keeps ps s0 s) (hP : sub [.fabric, .mem, .ledger, .faults, .asy] ps = true) :
    Keeps ps s0 (sliceAtomic i m s) := by
  unfold sliceAtomic
  try dsimp only
  repeat' first
    | with_reducible assumption
    | with_reducible refine keeps_resvAfter _ _ _ ?_ (sub_trans (by decide) hP)
    | with_reducible refine keeps_storeGran _ _ ?_ (sub_trans (by decide) hP)
    | with_reducible refine keeps_countLook _ _ ?_ (sub_trans (by decide) hP)
    | with_reducible refine keeps_answer _ _ ?_ (sub_trans (by decide) hP)
    | with_reducible refine keeps_recordParts _ _ _ _ ?_ (sub_trans (by decide) hP)
    | with_reducible refine keeps_addRereads _ _ ?_ (sub_trans (by decide) hP)
    | split

theorem keeps_sliceOne {ps : List Part} {s0 s : State} (i : Nat) (m : Msg) (j : Nat)
    (hK : Keeps ps s0 s) (hP : sub [.fabric, .mem, .ledger, .faults, .asy] ps = true) :
    Keeps ps s0 (sliceOne i m j s).2 := by
  unfold sliceOne
  try dsimp only
  repeat' first
    | with_reducible assumption
    | with_reducible refine keeps_sliceRead1 _ _ _ ?_ (sub_trans (by decide) hP)
    | with_reducible refine keeps_sliceAtomic _ _ ?_ (sub_trans (by decide) hP)
    | with_reducible refine keeps_sliceWrite1 _ _ _ ?_ (sub_trans (by decide) hP)
    | split

theorem keeps_sliceEnd {ps : List Part} {s0 s : State} (i : Nat) (r : SliceReq)
    (hK : Keeps ps s0 s) (hP : sub [.fabric, .mem, .ledger, .faults, .asy] ps = true) :
    Keeps ps s0 (sliceEnd i r s) := by
  unfold sliceEnd
  try dsimp only
  repeat' first
    | with_reducible assumption
    | with_reducible refine keeps_answerWrite _ _ _ _ ?_ (sub_trans (by decide) hP)
    | with_reducible refine keeps_recordParts _ _ _ _ ?_ (sub_trans (by decide) hP)
    | with_reducible refine keeps_addRereads _ _ ?_ (sub_trans (by decide) hP)
    | with_reducible refine keeps_returnData _ _ _ _ _ _ ?_ (sub_trans (by decide) hP)
    | split

theorem keeps_sliceAccess {ps : List Part} {s0 : State} {a : SliceTurn × SliceReq} (i j : Nat)
    (hK : Keeps ps s0 a.1.st) (hP : sub [.fabric, .mem, .ledger, .faults, .asy] ps = true) :
    Keeps ps s0 (sliceAccess i a j).1.st := by
  unfold sliceAccess
  try dsimp only
  repeat' first
    | with_reducible assumption
    | with_reducible refine keeps_sliceOne _ _ _ ?_ (sub_trans (by decide) hP)
    | split

theorem keeps_sliceTurns {ps : List Part} {s0 : State} {a : SliceTurn × SliceReq} (i n : Nat)
    (hK : Keeps ps s0 a.1.st) (hP : sub [.fabric, .mem, .ledger, .faults, .asy] ps = true) :
    Keeps ps s0 (upTo n (sliceAccess i) a).1.st := by
  unfold Machine.upTo
  generalize List.range n = l
  induction l generalizing a with
  | nil => exact hK
  | cons k r ih => exact ih (keeps_sliceAccess i k hK hP)

theorem keeps_sliceRun {ps : List Part} {s0 : State} (i : Nat) (l : List SliceReq) {c : SliceTurn}
    (hK : Keeps ps s0 c.st) (hP : sub [.fabric, .mem, .ledger, .faults, .asy] ps = true) :
    Keeps ps s0 (sliceRun i l c).1.st := by
  induction l generalizing c with
  | nil => exact hK
  | cons r l ih =>
    have h := keeps_sliceTurns (a := (c, r)) i (sliceLen r.msg) hK hP
    unfold sliceRun
    dsimp only
    split
    · exact ih h
    · refine ih (keeps_sliceEnd _ _ ?_ (sub_trans (by decide) hP))
      split
      · exact keeps_countEv _ _ _ h (sub_trans (by decide) hP)
      · exact h

theorem keeps_sliceServe {ps : List Part} {s0 s : State} (i : Nat)
    (hK : Keeps ps s0 s) (hP : sub [.fabric, .mem, .ledger, .faults, .asy] ps = true) :
    Keeps ps s0 (sliceServe i s) := by
  unfold sliceServe
  dsimp only
  refine KeepsMk.w_mem (keeps_countEv _ _ _ (keeps_sliceRun _ _ ?_ (sub_trans (by decide) hP)) (sub_trans (by decide)
      hP))
    (sub_mem (by decide) hP) (fun x => x)
  exact KeepsMk.w_mem hK (sub_mem (by decide) hP) (fun x => x)

theorem keeps_execSliceServeRequest {ps : List Part} {s0 s : State} (sl : Fin 128)
    (hK : Keeps ps s0 s) (hP : sub [.fabric, .mem, .ledger, .faults, .asy] ps = true) :
    KeepsOut ps s0 (execSliceServeRequest sl s) := by
  unfold execSliceServeRequest
  try dsimp only
  repeat' first
    | with_reducible assumption
    | with_reducible refine keeps_sliceServe _ ?_ (sub_trans (by decide) hP)
    | with_reducible refine keepsOut_next ?_
    | with_reducible refine keepsOut_whenOk ?_ ?_
    | split

theorem keeps_beadServeRead {ps : List Part} {s0 s : State} (o : Nat) (m : Msg)
    (hK : Keeps ps s0 s) (hP : sub [.fabric, .mem, .ledger, .faults, .asy] ps = true) :
    Keeps ps s0 (beadServeRead o m s) := by
  unfold beadServeRead
  try dsimp only
  repeat' first
    | with_reducible assumption
    | with_reducible refine keeps_countLook _ _ ?_ (sub_trans (by decide) hP)
    | with_reducible refine keeps_recordParts _ _ _ _ ?_ (sub_trans (by decide) hP)
    | with_reducible refine keeps_returnData _ _ _ _ _ _ ?_ (sub_trans (by decide) hP)
    | with_reducible refine Keeps.upToSnd _ ?_ (fun a k hK => ?_)
    | with_reducible refine Keeps.upTo _ ?_ (fun t k hK => ?_)
    | split

theorem keeps_beadServeWrite {ps : List Part} {s0 s : State} (o : Nat) (m : Msg)
    (hK : Keeps ps s0 s) (hP : sub [.fabric, .mem, .ledger, .faults, .asy] ps = true) :
    Keeps ps s0 (beadServeWrite o m s) := by
  unfold beadServeWrite
  try dsimp only
  repeat' first
    | with_reducible assumption
    | with_reducible refine keeps_countLook _ _ ?_ (sub_trans (by decide) hP)
    | with_reducible refine keeps_recordParts _ _ _ _ ?_ (sub_trans (by decide) hP)
    | with_reducible refine keeps_sendFrom _ _ ?_ (sub_trans (by decide) hP)
    | with_reducible refine keeps_dmemPut _ _ _ ?_ (sub_trans (by decide) hP)
    | with_reducible refine Keeps.upToSnd _ ?_ (fun a k hK => ?_)
    | with_reducible refine Keeps.upTo _ ?_ (fun t k hK => ?_)
    | split

theorem keeps_noTarget {ps : List Part} {s0 s : State} (n : Nat) (m : Msg)
    (hK : Keeps ps s0 s) (hP : sub [.fabric, .ledger, .faults, .asy] ps = true) :
    Keeps ps s0 (noTarget n m s) := by
  unfold noTarget
  try dsimp only
  repeat' first
    | with_reducible assumption
    | with_reducible refine keeps_recordPart _ _ _ _ _ _ ?_ (sub_trans (by decide) hP)
    | with_reducible refine keeps_answerWrite _ _ _ _ ?_ (sub_trans (by decide) hP)
    | with_reducible refine keeps_sendFrom _ _ ?_ (sub_trans (by decide) hP)
    | split

theorem keeps_toBezel {ps : List Part} {s0 s : State} (z : Nat) (m : Msg)
    (hK : Keeps ps s0 s) (hP : sub [.bezels] ps = true) :
    Keeps ps s0 (toBezel z m s) := by
  unfold toBezel
  try dsimp only
  repeat' first
    | with_reducible assumption
    | with_reducible refine keeps_modBezel _ _ ?_ (sub_trans (by decide) hP)
    | split

end Sys2Proof.Laws
end

