-- ==== Sys2Proof/Laws/KeepsLinks.lean ====
section
/-! SUPPORT. What each operation of the chain, the host link, the nodes and the hub may write, and that it keeps the
invariant: one lemma per operation, which its callers cite. -/

set_option linter.unreachableTactic false
set_option linter.unusedTactic false

namespace Sys2Proof.Laws

open Sys2Proof Sys2Proof.Machine

theorem keeps_setPort {ps : List Part} {s0 s : State} (p : Nat) (v : Port)
    (hK : Keeps ps s0 s) (hP : sub [.chain] ps = true) :
    Keeps ps s0 (setPort p v s) := by
  unfold setPort
  try dsimp only
  repeat' first
    | with_reducible assumption
    | dsimp only [keeps_mk]
    | with_reducible refine KeepsMk.w_chain ?_ (sub_mem (by decide) hP)
    | split

theorem keeps_modPort {ps : List Part} {s0 s : State} (p : Nat) (f : Port → Port)
    (hK : Keeps ps s0 s) (hP : sub [.chain] ps = true) :
    Keeps ps s0 (modPort p f s) := by
  unfold modPort
  try dsimp only
  repeat' first
    | with_reducible assumption
    | with_reducible refine keeps_setPort _ _ ?_ (sub_trans (by decide) hP)
    | split

theorem keeps_sendCtrl {ps : List Part} {s0 s : State} (p : Nat) (l : LinkWord)
    (hK : Keeps ps s0 s) (hP : sub [.out] ps = true) :
    Keeps ps s0 (sendCtrl p l s) := by
  unfold sendCtrl
  try dsimp only
  repeat' first
    | with_reducible assumption
    | with_reducible refine keeps_emit _ ?_ (sub_trans (by decide) hP)
    | split

theorem keeps_portLooks {ps : List Part} {s0 s : State} (p : Nat) (f : ChainFrame)
    (hK : Keeps ps s0 s) (hP : sub [.asy] ps = true) :
    Keeps ps s0 (portLooks p f s) := by
  unfold portLooks
  try dsimp only
  repeat' first
    | with_reducible assumption
    | with_reducible refine keeps_countLook _ _ ?_ (sub_trans (by decide) hP)
    | with_reducible refine Keeps.foldl _ ?_ (fun t a hK => ?_)
    | with_reducible refine Keeps.foldlSnd _ ?_ (fun a k hK => ?_)
    | split

theorem keeps_pumpOne {ps : List Part} {s0 s : State} (p : Nat)
    (hK : Keeps ps s0 s) (hP : sub [.chain, .asy, .out] ps = true) :
    Keeps ps s0 (pumpOne p s) := by
  unfold pumpOne
  try dsimp only
  repeat' first
    | with_reducible assumption
    | with_reducible refine keeps_portLooks _ _ ?_ (sub_trans (by decide) hP)
    | with_reducible refine keeps_countEv _ _ _ ?_ (sub_trans (by decide) hP)
    | with_reducible refine keeps_emit _ ?_ (sub_trans (by decide) hP)
    | with_reducible refine keeps_setPort _ _ ?_ (sub_trans (by decide) hP)
    | split

theorem keeps_pump {ps : List Part} {s0 s : State} (p : Nat)
    (hK : Keeps ps s0 s) (hP : sub [.chain, .asy, .out] ps = true) :
    Keeps ps s0 (pump p s) := by
  unfold pump
  try dsimp only
  repeat' first
    | with_reducible assumption
    | with_reducible refine keeps_pumpOne _ ?_ (sub_trans (by decide) hP)
    | with_reducible refine Keeps.upToSnd _ ?_ (fun a k hK => ?_)
    | with_reducible refine Keeps.upTo _ ?_ (fun t k hK => ?_)
    | split

theorem keeps_recordLane {ps : List Part} {s0 s : State} (p : Nat) (lane : Nat) (st : Nat) (disc : Nat)
    (hK : Keeps ps s0 s) (hP : sub [.ledger, .faults, .hub] ps = true) :
    Keeps ps s0 (recordLane p lane st disc s) := by
  unfold recordLane
  try dsimp only
  repeat' first
    | with_reducible assumption
    | with_reducible refine keeps_hubRaise _ ?_ (sub_trans (by decide) hP)
    | with_reducible refine keeps_recordAt _ _ _ ?_ (sub_trans (by decide) hP)
    | split

theorem keeps_portAccept {ps : List Part} {s0 s : State} (p : Nat) (m : Msg)
    (hK : Keeps ps s0 s) (hP : sub [.beads, .fabric, .chain, .ledger, .faults, .hub, .asy, .out] ps = true) :
    Keeps ps s0 (portAccept p m s) := by
  unfold portAccept
  try dsimp only
  repeat' first
    | with_reducible assumption
    | with_reducible refine keeps_modPort _ _ ?_ (sub_trans (by decide) hP)
    | with_reducible refine keeps_targetDown _ ?_ (sub_trans (by decide) hP)
    | with_reducible refine keeps_pump _ ?_ (sub_trans (by decide) hP)
    | with_reducible refine keeps_chAccepted _ ?_ (sub_trans (by decide) hP)
    | with_reducible refine keeps_recordLane _ _ _ _ ?_ (sub_trans (by decide) hP)
    | split

theorem keeps_chainFail {ps : List Part} {s0 s : State} (peer : Nat)
    (hK : Keeps ps s0 s) (hP : sub [.beads, .ledger, .faults, .asy] ps = true) :
    Keeps ps s0 (chainFail peer s) := by
  unfold chainFail
  try dsimp only
  repeat' first
    | with_reducible assumption
    | with_reducible refine keeps_modBead _ _ ?_ (sub_trans (by decide) hP)
    | with_reducible refine keeps_failEntry _ _ _ _ _ _ ?_ (sub_trans (by decide) hP)
    | with_reducible refine Keeps.foldl _ ?_ (fun t a hK => ?_)
    | with_reducible refine Keeps.foldlSnd _ ?_ (fun a k hK => ?_)
    | split

theorem keeps_recordLost {ps : List Part} {s0 s : State} (peer : Nat) (m : Msg)
    (hK : Keeps ps s0 s) (hP : sub [.ledger, .faults] ps = true) :
    Keeps ps s0 (recordLost peer m s) := by
  unfold recordLost
  try dsimp only
  repeat' first
    | with_reducible assumption
    | with_reducible refine keeps_recordFault _ ?_ (sub_trans (by decide) hP)
    | with_reducible refine Keeps.foldl _ ?_ (fun t a hK => ?_)
    | with_reducible refine Keeps.foldlSnd _ ?_ (fun a k hK => ?_)
    | split

theorem keeps_forgetNum {ps : List Part} {s0 s : State}
    (hK : Keeps ps s0 s) (hP : sub [.chain] ps = true) :
    Keeps ps s0 (forgetNum s) := by
  unfold forgetNum
  try dsimp only
  repeat' first
    | with_reducible assumption
    | dsimp only [keeps_mk]
    | with_reducible refine KeepsMk.w_chain ?_ (sub_mem (by decide) hP)
    | split

theorem keeps_noteWindows {ps : List Part} {s0 s : State}
    (hK : Keeps ps s0 s) (hP : sub [.chain] ps = true) :
    Keeps ps s0 (noteWindows s) := by
  unfold noteWindows
  try dsimp only
  repeat' first
    | with_reducible assumption
    | dsimp only [keeps_mk]
    | with_reducible refine KeepsMk.w_chain ?_ (sub_mem (by decide) hP)
    | split

theorem keeps_breakFans {ps : List Part} {s0 s : State} (peer : Nat)
    (hK : Keeps ps s0 s) (hP : sub [.bezels, .ledger, .faults, .hub] ps = true) :
    Keeps ps s0 (breakFans peer s) := by
  unfold breakFans
  try dsimp only
  repeat' first
    | with_reducible assumption
    | with_reducible refine keeps_breakRec _ _ ?_ (sub_trans (by decide) hP)
    | with_reducible refine Keeps.foldl _ ?_ (fun t a hK => ?_)
    | with_reducible refine Keeps.foldlSnd _ ?_ (fun a k hK => ?_)
    | with_reducible refine Keeps.upToSnd _ ?_ (fun a k hK => ?_)
    | with_reducible refine Keeps.upTo _ ?_ (fun t k hK => ?_)
    | split

theorem keeps_sendTrain {ps : List Part} {s0 s : State} (p : Nat)
    (hK : Keeps ps s0 s) (hP : sub [.out] ps = true) :
    Keeps ps s0 (sendTrain p s) := by
  unfold sendTrain
  try dsimp only
  repeat' first
    | with_reducible assumption
    | with_reducible refine keeps_emit _ ?_ (sub_trans (by decide) hP)
    | split

theorem keeps_portLeaves {ps : List Part} {s0 s : State} (into : PortState) (p : Nat)
    (hK : Keeps ps s0 s) (hP : sub [.clock, .beads, .bezels, .chain, .ledger, .faults, .hub, .asy, .out] ps = true) :
    Keeps ps s0 (portLeaves into p s) := by
  unfold portLeaves
  try dsimp only
  repeat' first
    | with_reducible assumption
    | with_reducible refine keeps_sendTrain _ ?_ (sub_trans (by decide) hP)
    | with_reducible refine keeps_forgetNum ?_ (sub_trans (by decide) hP)
    | with_reducible refine keeps_recordLost _ _ ?_ (sub_trans (by decide) hP)
    | with_reducible refine keeps_recordLane _ _ _ _ ?_ (sub_trans (by decide) hP)
    | with_reducible refine keeps_breakFans _ ?_ (sub_trans (by decide) hP)
    | with_reducible refine keeps_chainFail _ ?_ (sub_trans (by decide) hP)
    | with_reducible refine keeps_noteWindows ?_ (sub_trans (by decide) hP)
    | with_reducible refine keeps_endService _ ?_ (sub_trans (by decide) hP)
    | with_reducible refine keeps_setPort _ _ ?_ (sub_trans (by decide) hP)
    | with_reducible refine Keeps.foldl _ ?_ (fun t a hK => ?_)
    | with_reducible refine Keeps.foldlSnd _ ?_ (fun a k hK => ?_)
    | split

theorem keeps_portDown {ps : List Part} {s0 s : State} (p : Nat)
    (hK : Keeps ps s0 s) (hP : sub [.clock, .beads, .bezels, .chain, .ledger, .faults, .hub, .asy, .out] ps = true) :
    Keeps ps s0 (portDown p s) := by
  unfold portDown
  try dsimp only
  repeat' first
    | with_reducible assumption
    | with_reducible refine keeps_portLeaves _ _ ?_ (sub_trans (by decide) hP)
    | split

theorem keeps_laneFail {ps : List Part} {s0 s : State} (p : Nat) (lane : Nat)
    (hK : Keeps ps s0 s) (hP : sub [.clock, .beads, .bezels, .chain, .ledger, .faults, .hub, .asy, .out] ps = true) :
    Keeps ps s0 (laneFail p lane s) := by
  unfold laneFail
  try dsimp only
  repeat' first
    | with_reducible assumption
    | with_reducible refine keeps_portDown _ ?_ (sub_trans (by decide) hP)
    | with_reducible refine keeps_recordLane _ _ _ _ ?_ (sub_trans (by decide) hP)
    | with_reducible refine keeps_setPort _ _ ?_ (sub_trans (by decide) hP)
    | split

theorem keeps_examine {ps : List Part} {s0 s : State} (p : Nat)
    (hK : Keeps ps s0 s) (hP : sub [.clock, .beads, .bezels, .chain, .ledger, .faults, .hub, .asy, .out] ps = true) :
    Keeps ps s0 (examine p s) := by
  unfold examine
  try dsimp only
  repeat' first
    | with_reducible assumption
    | with_reducible refine keeps_laneFail _ _ ?_ (sub_trans (by decide) hP)
    | split

theorem keeps_resend {ps : List Part} {s0 s : State} (p : Nat)
    (hK : Keeps ps s0 s) (hP : sub [.clock, .beads, .bezels, .chain, .ledger, .faults, .hub, .asy, .out] ps = true) :
    Keeps ps s0 (resend p s) := by
  unfold resend
  try dsimp only
  repeat' first
    | with_reducible assumption
    | with_reducible refine keeps_examine _ ?_ (sub_trans (by decide) hP)
    | with_reducible refine keeps_portDown _ ?_ (sub_trans (by decide) hP)
    | with_reducible refine keeps_countEv _ _ _ ?_ (sub_trans (by decide) hP)
    | with_reducible refine keeps_emit _ ?_ (sub_trans (by decide) hP)
    | with_reducible refine keeps_setPort _ _ ?_ (sub_trans (by decide) hP)
    | with_reducible refine Keeps.foldl _ ?_ (fun t a hK => ?_)
    | with_reducible refine Keeps.foldlSnd _ ?_ (fun a k hK => ?_)
    | split

theorem keeps_takeLink {ps : List Part} {s0 s : State} (p : Nat) (l : LinkWord)
    (hK : Keeps ps s0 s) (hP : sub [.clock, .beads, .bezels, .chain, .ledger, .faults, .hub, .asy, .out] ps = true) :
    Keeps ps s0 (takeLink p l s) := by
  unfold takeLink
  try dsimp only
  repeat' first
    | with_reducible assumption
    | with_reducible refine keeps_resend _ ?_ (sub_trans (by decide) hP)
    | with_reducible refine keeps_pump _ ?_ (sub_trans (by decide) hP)
    | with_reducible refine keeps_setPort _ _ ?_ (sub_trans (by decide) hP)
    | split

theorem keeps_badFrame {ps : List Part} {s0 s : State} (p : Nat)
    (hK : Keeps ps s0 s) (hP : sub [.chain, .asy] ps = true) :
    Keeps ps s0 (badFrame p s) := by
  unfold badFrame
  try dsimp only
  repeat' first
    | with_reducible assumption
    | with_reducible refine keeps_modPort _ _ ?_ (sub_trans (by decide) hP)
    | with_reducible refine keeps_countEv _ _ _ ?_ (sub_trans (by decide) hP)
    | split

theorem keeps_ctrlFrame {ps : List Part} {s0 s : State} (p : Nat) (crcOk : Bool) (l : LinkWord)
    (hK : Keeps ps s0 s) (hP : sub [.clock, .beads, .bezels, .chain, .ledger, .faults, .hub, .asy, .out] ps = true) :
    Keeps ps s0 (ctrlFrame p crcOk l s) := by
  unfold ctrlFrame
  try dsimp only
  repeat' first
    | with_reducible assumption
    | with_reducible refine keeps_badFrame _ ?_ (sub_trans (by decide) hP)
    | with_reducible refine keeps_takeLink _ _ ?_ (sub_trans (by decide) hP)
    | split

theorem keeps_execCtrlFrame {ps : List Part} {s0 s : State} (p : PortN) (crc : Word32) (l : LinkWord)
    (hK : Keeps ps s0 s) (hP : sub [.clock, .beads, .bezels, .chain, .ledger, .faults, .hub, .asy, .out] ps = true) :
    KeepsOut ps s0 (execCtrlFrame p crc l s) := by
  unfold execCtrlFrame
  try dsimp only
  repeat' first
    | with_reducible assumption
    | with_reducible refine keeps_ctrlFrame _ _ _ ?_ (sub_trans (by decide) hP)
    | with_reducible refine keepsOut_next ?_
    | with_reducible refine keepsOut_whenOk ?_ ?_
    | split

theorem keeps_sendNak {ps : List Part} {s0 s : State} (p : Nat)
    (hK : Keeps ps s0 s) (hP : sub [.chain, .out] ps = true) :
    Keeps ps s0 (sendNak p s) := by
  unfold sendNak
  try dsimp only
  repeat' first
    | with_reducible assumption
    | with_reducible refine keeps_sendCtrl _ _ ?_ (sub_trans (by decide) hP)
    | with_reducible refine keeps_setPort _ _ ?_ (sub_trans (by decide) hP)
    | split

theorem keeps_returnCredits {ps : List Part} {s0 s : State} (p : Nat) (c : Nat) (n : Nat)
    (hK : Keeps ps s0 s) (hP : sub [.out] ps = true) :
    Keeps ps s0 (returnCredits p c n s) := by
  unfold returnCredits
  try dsimp only
  repeat' first
    | with_reducible assumption
    | with_reducible refine keeps_sendCtrl _ _ ?_ (sub_trans (by decide) hP)
    | split

theorem keeps_respIn {ps : List Part} {s0 s : State} (p : Nat) (f : ChainFrame)
    (hK : Keeps ps s0 s) (hP : sub [.fabric, .out] ps = true) :
    Keeps ps s0 (respIn p f s) := by
  unfold respIn
  try dsimp only
  repeat' first
    | with_reducible assumption
    | with_reducible refine keeps_returnCredits _ _ _ ?_ (sub_trans (by decide) hP)
    | with_reducible refine keeps_sendMsg _ ?_ (sub_trans (by decide) hP)
    | split

theorem keeps_acceptFrame {ps : List Part} {s0 s : State} (p : Nat) (f : ChainFrame)
    (hK : Keeps ps s0 s) (hP : sub [.fabric, .chain, .asy, .out] ps = true) :
    Keeps ps s0 (acceptFrame p f s) := by
  unfold acceptFrame
  try dsimp only
  repeat' first
    | with_reducible assumption
    | with_reducible refine keeps_portLooks _ _ ?_ (sub_trans (by decide) hP)
    | with_reducible refine keeps_respIn _ _ ?_ (sub_trans (by decide) hP)
    | with_reducible refine keeps_countEv _ _ _ ?_ (sub_trans (by decide) hP)
    | with_reducible refine keeps_sendCtrl _ _ ?_ (sub_trans (by decide) hP)
    | with_reducible refine keeps_setPort _ _ ?_ (sub_trans (by decide) hP)
    | split

theorem keeps_releaseResps {ps : List Part} {s0 s : State}
    (hK : Keeps ps s0 s) (hP : sub [.fabric, .chain, .out] ps = true) :
    Keeps ps s0 (releaseResps s) := by
  unfold releaseResps
  try dsimp only
  repeat' first
    | with_reducible assumption
    | with_reducible refine keeps_modPort _ _ ?_ (sub_trans (by decide) hP)
    | with_reducible refine keeps_respIn _ _ ?_ (sub_trans (by decide) hP)
    | with_reducible refine Keeps.foldl _ ?_ (fun t a hK => ?_)
    | with_reducible refine Keeps.foldlSnd _ ?_ (fun a k hK => ?_)
    | with_reducible refine Keeps.upToSnd _ ?_ (fun a k hK => ?_)
    | with_reducible refine Keeps.upTo _ ?_ (fun t k hK => ?_)
    | split

theorem keeps_msgFrame {ps : List Part} {s0 s : State} (p : Nat) (crcOk : Bool) (f : ChainFrame)
    (hK : Keeps ps s0 s) (hP : sub [.clock, .beads, .fabric, .bezels, .chain, .ledger, .faults, .hub, .asy, .out] ps
        = true) :
    Keeps ps s0 (msgFrame p crcOk f s) := by
  unfold msgFrame
  try dsimp only
  repeat' first
    | with_reducible assumption
    | with_reducible refine keeps_acceptFrame _ _ ?_ (sub_trans (by decide) hP)
    | with_reducible refine keeps_sendNak _ ?_ (sub_trans (by decide) hP)
    | with_reducible refine keeps_badFrame _ ?_ (sub_trans (by decide) hP)
    | with_reducible refine keeps_takeLink _ _ ?_ (sub_trans (by decide) hP)
    | split

theorem keeps_execMsgFrame {ps : List Part} {s0 s : State} (p : PortN) (crc : Word32) (f : ChainFrame)
    (hK : Keeps ps s0 s) (hP : sub [.clock, .beads, .fabric, .bezels, .chain, .ledger, .faults, .hub, .asy, .out] ps
        = true) :
    KeepsOut ps s0 (execMsgFrame p crc f s) := by
  unfold execMsgFrame
  try dsimp only
  repeat' first
    | with_reducible assumption
    | with_reducible refine keeps_msgFrame _ _ _ ?_ (sub_trans (by decide) hP)
    | with_reducible refine keepsOut_next ?_
    | with_reducible refine keepsOut_whenOk ?_ ?_
    | split

theorem keeps_execNakRepeat {ps : List Part} {s0 s : State} (p : PortN)
    (hK : Keeps ps s0 s) (hP : sub [.chain, .out] ps = true) :
    KeepsOut ps s0 (execNakRepeat p s) := by
  unfold execNakRepeat
  try dsimp only
  repeat' first
    | with_reducible assumption
    | with_reducible refine keeps_sendNak _ ?_ (sub_trans (by decide) hP)
    | with_reducible refine keepsOut_next ?_
    | with_reducible refine keepsOut_whenOk ?_ ?_
    | split

theorem keeps_execAckTimeoutResend {ps : List Part} {s0 s : State} (p : PortN)
    (hK : Keeps ps s0 s) (hP : sub [.clock, .beads, .bezels, .chain, .ledger, .faults, .hub, .asy, .out] ps = true) :
    KeepsOut ps s0 (execAckTimeoutResend p s) := by
  unfold execAckTimeoutResend
  try dsimp only
  repeat' first
    | with_reducible assumption
    | with_reducible refine keeps_resend _ ?_ (sub_trans (by decide) hP)
    | with_reducible refine keepsOut_next ?_
    | with_reducible refine keepsOut_whenOk ?_ ?_
    | split

theorem keeps_trained {ps : List Part} {s0 s : State} (p : Nat) (peer : Nat) (rehomed : Bool) (num : BitVec 4)
    (hK : Keeps ps s0 s) (hP : sub [.chain, .ledger, .faults, .hub, .out] ps = true) :
    Keeps ps s0 (trained p peer rehomed num s) := by
  unfold trained
  try dsimp only
  repeat' first
    | with_reducible assumption
    | dsimp only [keeps_mk]
    | with_reducible refine KeepsMk.w_chain ?_ (sub_mem (by decide) hP)
    | with_reducible refine keeps_sendTrain _ ?_ (sub_trans (by decide) hP)
    | with_reducible refine keeps_recordLane _ _ _ _ ?_ (sub_trans (by decide) hP)
    | with_reducible refine keeps_setPort _ _ ?_ (sub_trans (by decide) hP)
    | split

theorem keeps_darken {ps : List Part} {s0 s : State} (p : Nat)
    (hK : Keeps ps s0 s) (hP : sub [.clock, .beads, .bezels, .chain, .ledger, .faults, .hub, .asy, .out] ps = true) :
    Keeps ps s0 (darken p s) := by
  unfold darken
  try dsimp only
  repeat' first
    | with_reducible assumption
    | with_reducible refine keeps_portLeaves _ _ ?_ (sub_trans (by decide) hP)
    | split

theorem keeps_conflicts {ps : List Part} {s0 s : State}
    (hK : Keeps ps s0 s) (hP : sub [.clock, .beads, .bezels, .chain, .ledger, .faults, .hub, .asy, .out] ps = true) :
    Keeps ps s0 (conflicts s) := by
  unfold conflicts
  try dsimp only
  repeat' first
    | with_reducible assumption
    | dsimp only [keeps_mk]
    | with_reducible refine KeepsMk.w_chain ?_ (sub_mem (by decide) hP)
    | with_reducible refine keeps_portLeaves _ _ ?_ (sub_trans (by decide) hP)
    | with_reducible refine Keeps.upToSnd _ ?_ (fun a k hK => ?_)
    | with_reducible refine Keeps.upTo _ ?_ (fun t k hK => ?_)
    | split

theorem keeps_trainFrame {ps : List Part} {s0 s : State} (p : Nat) (peerPort : BitVec 4) (peerMod : BitVec 4)
    (hK : Keeps ps s0 s) (hP : sub [.clock, .beads, .bezels, .chain, .ledger, .faults, .hub, .asy, .out] ps = true) :
    Keeps ps s0 (trainFrame p peerPort peerMod s) := by
  unfold trainFrame
  try dsimp only
  repeat' first
    | with_reducible assumption
    | dsimp only [keeps_mk]
    | with_reducible refine KeepsMk.w_chain ?_ (sub_mem (by decide) hP)
    | with_reducible refine keeps_modPort _ _ ?_ (sub_trans (by decide) hP)
    | with_reducible refine keeps_conflicts ?_ (sub_trans (by decide) hP)
    | with_reducible refine keeps_darken _ ?_ (sub_trans (by decide) hP)
    | with_reducible refine keeps_trained _ _ _ _ ?_ (sub_trans (by decide) hP)
    | with_reducible refine keeps_recordLane _ _ _ _ ?_ (sub_trans (by decide) hP)
    | split

theorem keeps_trainIn {ps : List Part} {s0 s : State} (p : Nat) (crcOk : Bool) (l : LinkWord) (w : TrainWords)
    (hK : Keeps ps s0 s) (hP : sub [.clock, .beads, .bezels, .chain, .ledger, .faults, .hub, .asy, .out] ps = true) :
    Keeps ps s0 (trainIn p crcOk l w s) := by
  unfold trainIn
  try dsimp only
  repeat' first
    | with_reducible assumption
    | with_reducible refine keeps_badFrame _ ?_ (sub_trans (by decide) hP)
    | with_reducible refine keeps_trainFrame _ _ _ ?_ (sub_trans (by decide) hP)
    | split

theorem keeps_execTrainFrame {ps : List Part} {s0 s : State} (p : PortN) (h : FrameHead) (w : TrainWords)
    (hK : Keeps ps s0 s) (hP : sub [.clock, .beads, .bezels, .chain, .ledger, .faults, .hub, .asy, .out] ps = true) :
    KeepsOut ps s0 (execTrainFrame p h w s) := by
  unfold execTrainFrame
  try dsimp only
  repeat' first
    | with_reducible assumption
    | with_reducible refine keeps_trainIn _ _ _ _ ?_ (sub_trans (by decide) hP)
    | with_reducible refine keepsOut_next ?_
    | with_reducible refine keepsOut_whenOk ?_ ?_
    | split

theorem keeps_beginTraining {ps : List Part} {s0 s : State} (p : Nat)
    (hK : Keeps ps s0 s) (hP : sub [.chain, .ledger, .faults, .hub, .out] ps = true) :
    Keeps ps s0 (beginTraining p s) := by
  unfold beginTraining
  try dsimp only
  repeat' first
    | with_reducible assumption
    | with_reducible refine keeps_modPort _ _ ?_ (sub_trans (by decide) hP)
    | with_reducible refine keeps_sendTrain _ ?_ (sub_trans (by decide) hP)
    | with_reducible refine keeps_recordLane _ _ _ _ ?_ (sub_trans (by decide) hP)
    | split

theorem keeps_execChainPortRetrain {ps : List Part} {s0 s : State} (p : PortN)
    (hK : Keeps ps s0 s) (hP : sub [.chain, .ledger, .faults, .hub, .out] ps = true) :
    KeepsOut ps s0 (execChainPortRetrain p s) := by
  unfold execChainPortRetrain
  try dsimp only
  repeat' first
    | with_reducible assumption
    | with_reducible refine keeps_beginTraining _ ?_ (sub_trans (by decide) hP)
    | with_reducible refine keepsOut_next ?_
    | with_reducible refine keepsOut_whenOk ?_ ?_
    | split

theorem keeps_takeMap {ps : List Part} {s0 s : State} (p : Nat) (m : BitVec 12 × BitVec 3)
    (hK : Keeps ps s0 s) (hP : sub [.chain, .ledger, .faults, .hub] ps = true) :
    Keeps ps s0 (takeMap p m s) := by
  unfold takeMap
  try dsimp only
  repeat' first
    | with_reducible assumption
    | with_reducible refine keeps_recordLane _ _ _ _ ?_ (sub_trans (by decide) hP)
    | with_reducible refine keeps_setPort _ _ ?_ (sub_trans (by decide) hP)
    | split

theorem keeps_laneSwitch {ps : List Part} {s0 s : State} (p : Nat) (m : BitVec 12 × BitVec 3)
    (hK : Keeps ps s0 s) (hP : sub [.chain, .ledger, .faults, .hub, .out] ps = true) :
    Keeps ps s0 (laneSwitch p m s) := by
  unfold laneSwitch
  try dsimp only
  repeat' first
    | with_reducible assumption
    | with_reducible refine keeps_takeMap _ _ ?_ (sub_trans (by decide) hP)
    | with_reducible refine keeps_emit _ ?_ (sub_trans (by decide) hP)
    | split

theorem keeps_laneIn {ps : List Part} {s0 s : State} (p : Nat) (crcOk : Bool) (l : LinkWord) (m : BitVec 12 × BitVec 3)
    (hK : Keeps ps s0 s) (hP : sub [.clock, .beads, .bezels, .chain, .ledger, .faults, .hub, .asy, .out] ps = true) :
    Keeps ps s0 (laneIn p crcOk l m s) := by
  unfold laneIn
  try dsimp only
  repeat' first
    | with_reducible assumption
    | with_reducible refine keeps_takeMap _ _ ?_ (sub_trans (by decide) hP)
    | with_reducible refine keeps_badFrame _ ?_ (sub_trans (by decide) hP)
    | with_reducible refine keeps_takeLink _ _ ?_ (sub_trans (by decide) hP)
    | split

theorem keeps_endPause {ps : List Part} {s0 s : State} (p : Nat)
    (hK : Keeps ps s0 s) (hP : sub [.clock, .beads, .bezels, .chain, .ledger, .faults, .hub, .asy, .out] ps = true) :
    Keeps ps s0 (endPause p s) := by
  unfold endPause
  try dsimp only
  repeat' first
    | with_reducible assumption
    | with_reducible refine keeps_modPort _ _ ?_ (sub_trans (by decide) hP)
    | with_reducible refine keeps_resend _ ?_ (sub_trans (by decide) hP)
    | with_reducible refine keeps_pump _ ?_ (sub_trans (by decide) hP)
    | split

theorem keeps_endPauses {ps : List Part} {s0 s : State}
    (hK : Keeps ps s0 s) (hP : sub [.clock, .beads, .bezels, .chain, .ledger, .faults, .hub, .asy, .out] ps = true) :
    Keeps ps s0 (endPauses s) := by
  unfold endPauses
  try dsimp only
  repeat' first
    | with_reducible assumption
    | with_reducible refine keeps_endPause _ ?_ (sub_trans (by decide) hP)
    | with_reducible refine Keeps.upToSnd _ ?_ (fun a k hK => ?_)
    | with_reducible refine Keeps.upTo _ ?_ (fun t k hK => ?_)
    | split

theorem keeps_execLaneFrame {ps : List Part} {s0 s : State} (l : LaneIn)
    (hK : Keeps ps s0 s) (hP : sub [.clock, .beads, .bezels, .chain, .ledger, .faults, .hub, .asy, .out] ps = true) :
    KeepsOut ps s0 (execLaneFrame l s) := by
  unfold execLaneFrame
  try dsimp only
  repeat' first
    | with_reducible assumption
    | with_reducible refine keeps_laneIn _ _ _ _ ?_ (sub_trans (by decide) hP)
    | with_reducible refine keeps_laneSwitch _ _ ?_ (sub_trans (by decide) hP)
    | with_reducible refine keepsOut_next ?_
    | with_reducible refine keepsOut_whenOk ?_ ?_
    | split

theorem keeps_laneWords {ps : List Part} {s0 s : State} (p : Nat) (lane : Nat) (n : Nat)
    (hK : Keeps ps s0 s) (hP : sub [.clock, .beads, .bezels, .chain, .ledger, .faults, .hub, .asy, .out] ps = true) :
    Keeps ps s0 (laneWords p lane n s) := by
  unfold laneWords
  try dsimp only
  repeat' first
    | with_reducible assumption
    | with_reducible refine keeps_laneFail _ _ ?_ (sub_trans (by decide) hP)
    | with_reducible refine keeps_setPort _ _ ?_ (sub_trans (by decide) hP)
    | split

theorem keeps_execLaneFailure {ps : List Part} {s0 s : State} (p : PortN) (e : LaneEvent)
    (hK : Keeps ps s0 s) (hP : sub [.clock, .beads, .bezels, .chain, .ledger, .faults, .hub, .asy, .out] ps = true) :
    KeepsOut ps s0 (execLaneFailure p e s) := by
  unfold execLaneFailure
  try dsimp only
  repeat' first
    | with_reducible assumption
    | with_reducible refine keeps_laneFail _ _ ?_ (sub_trans (by decide) hP)
    | with_reducible refine keeps_laneWords _ _ _ ?_ (sub_trans (by decide) hP)
    | with_reducible refine keepsOut_next ?_
    | with_reducible refine keepsOut_whenOk ?_ ?_
    | split

theorem keeps_sendRsp {ps : List Part} {s0 s : State} (p : Nat) (srcNode : BitVec 12) (m : Msg)
    (hK : Keeps ps s0 s) (hP : sub [.chain, .asy, .out] ps = true) :
    Keeps ps s0 (sendRsp p srcNode m s) := by
  unfold sendRsp
  try dsimp only
  repeat' first
    | with_reducible assumption
    | with_reducible refine keeps_modPort _ _ ?_ (sub_trans (by decide) hP)
    | with_reducible refine keeps_pump _ ?_ (sub_trans (by decide) hP)
    | split

theorem keeps_refuseRemote {ps : List Part} {s0 s : State} (p : Nat) (f : ChainFrame)
    (hK : Keeps ps s0 s) (hP : sub [.chain, .asy, .out] ps = true) :
    Keeps ps s0 (refuseRemote p f s) := by
  unfold refuseRemote
  try dsimp only
  repeat' first
    | with_reducible assumption
    | with_reducible refine keeps_sendRsp _ _ _ ?_ (sub_trans (by decide) hP)
    | split

theorem keeps_issueRemote {ps : List Part} {s0 s : State} (p : Nat) (x : RxItem) (k : Nat)
    (hK : Keeps ps s0 s) (hP : sub [.fabric, .chain, .ledger, .faults, .asy, .out] ps = true) :
    Keeps ps s0 (issueRemote p x k s) := by
  unfold issueRemote
  try dsimp only
  repeat' first
    | with_reducible assumption
    | with_reducible refine keeps_returnCredits _ _ _ ?_ (sub_trans (by decide) hP)
    | with_reducible refine keeps_recordAddr _ _ _ _ ?_ (sub_trans (by decide) hP)
    | with_reducible refine keeps_modPort _ _ ?_ (sub_trans (by decide) hP)
    | with_reducible refine keeps_sendMsg _ ?_ (sub_trans (by decide) hP)
    | with_reducible refine keeps_refuseRemote _ _ ?_ (sub_trans (by decide) hP)
    | with_reducible refine Keeps.foldl _ ?_ (fun t a hK => ?_)
    | with_reducible refine Keeps.foldlSnd _ ?_ (fun a k hK => ?_)
    | split

theorem keeps_execChainRequestIssue {ps : List Part} {s0 s : State} (p : PortN)
    (hK : Keeps ps s0 s) (hP : sub [.fabric, .chain, .ledger, .faults, .asy, .out] ps = true) :
    KeepsOut ps s0 (execChainRequestIssue p s) := by
  unfold execChainRequestIssue
  try dsimp only
  repeat' first
    | with_reducible assumption
    | with_reducible refine keeps_issueRemote _ _ _ ?_ (sub_trans (by decide) hP)
    | with_reducible refine keepsOut_next ?_
    | with_reducible refine keepsOut_whenOk ?_ ?_
    | split

theorem keeps_portAnswer {ps : List Part} {s0 s : State} (p : Nat) (m : Msg)
    (hK : Keeps ps s0 s) (hP : sub [.chain, .asy, .out] ps = true) :
    Keeps ps s0 (portAnswer p m s) := by
  unfold portAnswer
  try dsimp only
  repeat' first
    | with_reducible assumption
    | with_reducible refine keeps_sendRsp _ _ _ ?_ (sub_trans (by decide) hP)
    | with_reducible refine keeps_setPort _ _ ?_ (sub_trans (by decide) hP)
    | with_reducible refine Keeps.foldl _ ?_ (fun t a hK => ?_)
    | with_reducible refine Keeps.foldlSnd _ ?_ (fun a k hK => ?_)
    | split

theorem keeps_applySignal {ps : List Part} {s0 s : State} (p : Nat) (x : RxItem)
    (hK : Keeps ps s0 s) (hP : sub [.fabric, .chain, .ledger, .faults, .asy, .out] ps = true) :
    Keeps ps s0 (applySignal p x s) := by
  unfold applySignal
  try dsimp only
  repeat' first
    | with_reducible assumption
    | with_reducible refine keeps_returnCredits _ _ _ ?_ (sub_trans (by decide) hP)
    | with_reducible refine keeps_recordAddr _ _ _ _ ?_ (sub_trans (by decide) hP)
    | with_reducible refine keeps_modPort _ _ ?_ (sub_trans (by decide) hP)
    | with_reducible refine keeps_sendMsg _ ?_ (sub_trans (by decide) hP)
    | with_reducible refine keeps_refuseRemote _ _ ?_ (sub_trans (by decide) hP)
    | split

theorem keeps_execChainSignalApply {ps : List Part} {s0 s : State} (p : PortN)
    (hK : Keeps ps s0 s) (hP : sub [.fabric, .chain, .ledger, .faults, .asy, .out] ps = true) :
    KeepsOut ps s0 (execChainSignalApply p s) := by
  unfold execChainSignalApply
  try dsimp only
  repeat' first
    | with_reducible assumption
    | with_reducible refine keeps_applySignal _ _ ?_ (sub_trans (by decide) hP)
    | with_reducible refine keepsOut_next ?_
    | with_reducible refine keepsOut_whenOk ?_ ?_
    | split

theorem keeps_sendRound {ps : List Part} {s0 s : State} (relay : Bool) (hold : Bool)
    (hK : Keeps ps s0 s) (hP : sub [.out] ps = true) :
    Keeps ps s0 (sendRound relay hold s) := by
  unfold sendRound
  try dsimp only
  repeat' first
    | with_reducible assumption
    | with_reducible refine keeps_emit _ ?_ (sub_trans (by decide) hP)
    | with_reducible refine Keeps.foldl _ ?_ (fun t a hK => ?_)
    | with_reducible refine Keeps.foldlSnd _ ?_ (fun a k hK => ?_)
    | split

theorem keeps_execTimingFirstRound {ps : List Part} {s0 s : State}
    (hK : Keeps ps s0 s) (hP : sub [.chain, .out] ps = true) :
    KeepsOut ps s0 (execTimingFirstRound s) := by
  unfold execTimingFirstRound
  try dsimp only
  repeat' first
    | with_reducible assumption
    | dsimp only [keeps_mk]
    | with_reducible refine KeepsMk.w_chain ?_ (sub_mem (by decide) hP)
    | with_reducible refine keeps_sendRound _ _ ?_ (sub_trans (by decide) hP)
    | with_reducible refine keepsOut_next ?_
    | with_reducible refine keepsOut_whenOk ?_ ?_
    | split

theorem keeps_execTimingRelayRound {ps : List Part} {s0 s : State}
    (hK : Keeps ps s0 s) (hP : sub [.chain, .out] ps = true) :
    KeepsOut ps s0 (execTimingRelayRound s) := by
  unfold execTimingRelayRound
  try dsimp only
  repeat' first
    | with_reducible assumption
    | dsimp only [keeps_mk]
    | with_reducible refine KeepsMk.w_chain ?_ (sub_mem (by decide) hP)
    | with_reducible refine keeps_sendRound _ _ ?_ (sub_trans (by decide) hP)
    | with_reducible refine keepsOut_next ?_
    | with_reducible refine keepsOut_whenOk ?_ ?_
    | split

theorem keeps_alignLost {ps : List Part} {s0 s : State} (theta : BitVec 16) (tick : Bool) (dec : Bool)
    (hK : Keeps ps s0 s) (hP : sub [.clock, .chain, .ledger, .faults, .hub] ps = true) :
    Keeps ps s0 (alignLost theta tick dec s) := by
  unfold alignLost
  try dsimp only
  repeat' first
    | with_reducible assumption
    | dsimp only [keeps_mk]
    | with_reducible refine KeepsMk.w_chain ?_ (sub_mem (by decide) hP)
    | with_reducible refine keeps_hubRaise _ ?_ (sub_trans (by decide) hP)
    | with_reducible refine keeps_recordAt _ _ _ ?_ (sub_trans (by decide) hP)
    | with_reducible refine keeps_endService _ ?_ (sub_trans (by decide) hP)
    | split

theorem keeps_firstRound {ps : List Part} {s0 s : State} (p : Nat) (w : TimingWords)
    (hK : Keeps ps s0 s) (hP : sub [.clock, .chain, .ledger, .faults, .hub] ps = true) :
    Keeps ps s0 (firstRound p w s) := by
  unfold firstRound
  try dsimp only
  repeat' first
    | with_reducible assumption
    | with_reducible refine keeps_alignLost _ _ _ ?_ (sub_trans (by decide) hP)
    | with_reducible refine keeps_setPort _ _ ?_ (sub_trans (by decide) hP)
    | split

theorem keeps_relayRound {ps : List Part} {s0 s : State} (p : Nat) (w : TimingWords)
    (hK : Keeps ps s0 s) (hP : sub [.chain] ps = true) :
    Keeps ps s0 (relayRound p w s) := by
  unfold relayRound
  try dsimp only
  repeat' first
    | with_reducible assumption
    | with_reducible refine keeps_setPort _ _ ?_ (sub_trans (by decide) hP)
    | split

theorem keeps_timingIn {ps : List Part} {s0 s : State} (p : Nat) (crcOk : Bool) (l : LinkWord) (w : TimingWords)
    (hK : Keeps ps s0 s) (hP : sub [.clock, .beads, .bezels, .chain, .ledger, .faults, .hub, .asy, .out] ps = true) :
    Keeps ps s0 (timingIn p crcOk l w s) := by
  unfold timingIn
  try dsimp only
  repeat' first
    | with_reducible assumption
    | with_reducible refine keeps_firstRound _ _ ?_ (sub_trans (by decide) hP)
    | with_reducible refine keeps_badFrame _ ?_ (sub_trans (by decide) hP)
    | with_reducible refine keeps_relayRound _ _ ?_ (sub_trans (by decide) hP)
    | with_reducible refine keeps_noteWindows ?_ (sub_trans (by decide) hP)
    | with_reducible refine keeps_takeLink _ _ ?_ (sub_trans (by decide) hP)
    | split

theorem keeps_execTimingFrame {ps : List Part} {s0 s : State} (p : PortN) (h : FrameHead) (w : TimingWords)
    (hK : Keeps ps s0 s) (hP : sub [.clock, .beads, .bezels, .chain, .ledger, .faults, .hub, .asy, .out] ps = true) :
    KeepsOut ps s0 (execTimingFrame p h w s) := by
  unfold execTimingFrame
  try dsimp only
  repeat' first
    | with_reducible assumption
    | with_reducible refine keeps_timingIn _ _ _ _ ?_ (sub_trans (by decide) hP)
    | with_reducible refine keepsOut_next ?_
    | with_reducible refine keepsOut_whenOk ?_ ?_
    | split

theorem keeps_countLost {ps : List Part} {s0 s : State}
    (hK : Keeps ps s0 s) (hP : sub [.chain] ps = true) :
    Keeps ps s0 (countLost s) := by
  unfold countLost
  try dsimp only
  repeat' first
    | with_reducible assumption
    | with_reducible refine keeps_modPort _ _ ?_ (sub_trans (by decide) hP)
    | with_reducible refine Keeps.foldl _ ?_ (fun t a hK => ?_)
    | with_reducible refine Keeps.foldlSnd _ ?_ (fun a k hK => ?_)
    | split

theorem keeps_alignTick {ps : List Part} {s0 s : State}
    (hK : Keeps ps s0 s) (hP : sub [.clock, .chain, .ledger, .faults, .hub] ps = true) :
    Keeps ps s0 (alignTick s).1 := by
  unfold alignTick
  try dsimp only
  repeat' first
    | with_reducible assumption
    | dsimp only [keeps_mk]
    | with_reducible refine KeepsMk.w_chain ?_ (sub_mem (by decide) hP)
    | with_reducible refine keeps_alignLost _ _ _ ?_ (sub_trans (by decide) hP)
    | with_reducible refine keeps_noteWindows ?_ (sub_trans (by decide) hP)
    | with_reducible refine Keeps.foldl _ ?_ (fun t a hK => ?_)
    | with_reducible refine Keeps.foldlSnd _ ?_ (fun a k hK => ?_)
    | split

theorem keeps_timingClear {ps : List Part} {s0 s : State}
    (hK : Keeps ps s0 s) (hP : sub [.chain] ps = true) :
    Keeps ps s0 (timingClear s) := by
  unfold timingClear
  try dsimp only
  repeat' first
    | with_reducible assumption
    | dsimp only [keeps_mk]
    | with_reducible refine KeepsMk.w_chain ?_ (sub_mem (by decide) hP)
    | with_reducible refine keeps_noteWindows ?_ (sub_trans (by decide) hP)
    | split

theorem keeps_calGo {ps : List Part} {s0 s : State} (p : Nat)
    (hK : Keeps ps s0 s) (hP : sub [.chain] ps = true) :
    Keeps ps s0 (calGo p s) := by
  unfold calGo
  try dsimp only
  repeat' first
    | with_reducible assumption
    | dsimp only [keeps_mk]
    | with_reducible refine KeepsMk.w_chain ?_ (sub_mem (by decide) hP)
    | with_reducible refine keeps_modPort _ _ ?_ (sub_trans (by decide) hP)
    | split

theorem keeps_execChnCalGo {ps : List Part} {s0 s : State} (m : Master) (port : PortN)
    (hK : Keeps ps s0 s) (hP : sub [.chain, .ledger, .faults] ps = true) :
    KeepsOut ps s0 (execChnCalGo m port s) := by
  unfold execChnCalGo
  try dsimp only
  repeat' first
    | with_reducible assumption
    | with_reducible refine keeps_calGo _ ?_ (sub_trans (by decide) hP)
    | with_reducible refine keeps_regWriteRow _ _ _ ?_ (sub_trans (by decide) hP) (fun t hK => ?_)
    | with_reducible refine keepsOut_next ?_
    | with_reducible refine keepsOut_whenOk ?_ ?_
    | split

theorem keeps_execChainCalibrationRotation {ps : List Part} {s0 s : State} (p : PortN)
    (hK : Keeps ps s0 s) (hP : sub [.chain] ps = true) :
    KeepsOut ps s0 (execChainCalibrationRotation p s) := by
  unfold execChainCalibrationRotation
  try dsimp only
  repeat' first
    | with_reducible assumption
    | with_reducible refine keeps_modPort _ _ ?_ (sub_trans (by decide) hP)
    | with_reducible refine keepsOut_next ?_
    | with_reducible refine keepsOut_whenOk ?_ ?_
    | split

theorem keeps_execChainCalibrationDone {ps : List Part} {s0 s : State} (p : PortN)
    (hK : Keeps ps s0 s) (hP : sub [.chain] ps = true) :
    KeepsOut ps s0 (execChainCalibrationDone p s) := by
  unfold execChainCalibrationDone
  try dsimp only
  repeat' first
    | with_reducible assumption
    | with_reducible refine keeps_modPort _ _ ?_ (sub_trans (by decide) hP)
    | with_reducible refine keepsOut_next ?_
    | with_reducible refine keepsOut_whenOk ?_ ?_
    | split

theorem keeps_chnTimingSet {ps : List Part} {s0 s : State} (w : Width) (v : Word)
    (hK : Keeps ps s0 s) (hP : sub [.chain, .ledger, .faults] ps = true) :
    Keeps ps s0 (chnTimingSet w v s) := by
  unfold chnTimingSet
  try dsimp only
  repeat' first
    | with_reducible assumption
    | dsimp only [keeps_mk]
    | with_reducible refine KeepsMk.w_chain ?_ (sub_mem (by decide) hP)
    | with_reducible refine keeps_forbidden _ ?_ (sub_trans (by decide) hP)
    | split

theorem keeps_execChnTimingWrite {ps : List Part} {s0 s : State} (m : Master) (w : Width) (v : Word)
    (hK : Keeps ps s0 s) (hP : sub [.chain, .ledger, .faults] ps = true) :
    KeepsOut ps s0 (execChnTimingWrite m w v s) := by
  unfold execChnTimingWrite
  try dsimp only
  repeat' first
    | with_reducible assumption
    | with_reducible refine keeps_chnTimingSet _ _ ?_ (sub_trans (by decide) hP)
    | with_reducible refine keeps_regWriteRow _ _ _ ?_ (sub_trans (by decide) hP) (fun t hK => ?_)
    | with_reducible refine keepsOut_next ?_
    | with_reducible refine keepsOut_whenOk ?_ ?_
    | split

theorem keeps_execChnErrStatRead {ps : List Part} {s0 s : State} (p : PortN) (w : Width)
    (hK : Keeps ps s0 s) (hP : sub [.chain, .out] ps = true) :
    KeepsOut ps s0 (execChnErrStatRead p w s) := by
  unfold execChnErrStatRead
  try dsimp only
  repeat' first
    | with_reducible assumption
    | with_reducible refine keeps_modPort _ _ ?_ (sub_trans (by decide) hP)
    | with_reducible refine keeps_regReadRow _ _ _ _ ?_ (sub_trans (by decide) hP) (fun t hK => ?_)
    | with_reducible refine keepsOut_next ?_
    | with_reducible refine keepsOut_whenOk ?_ ?_
    | split

theorem keeps_shellOut {ps : List Part} {s0 s : State} (k : Nat)
    (hK : Keeps ps s0 s) (hP : sub [.clock, .beads, .bezels, .chain, .ledger, .faults, .hub, .asy, .out] ps = true) :
    Keeps ps s0 (shellOut k s) := by
  unfold shellOut
  try dsimp only
  repeat' first
    | with_reducible assumption
    | with_reducible refine keeps_portDown _ ?_ (sub_trans (by decide) hP)
    | with_reducible refine Keeps.upToSnd _ ?_ (fun a k hK => ?_)
    | with_reducible refine Keeps.upTo _ ?_ (fun t k hK => ?_)
    | split

theorem keeps_mgmtDown {ps : List Part} {s0 s : State}
    (hK : Keeps ps s0 s) (hP : sub [.mgmt] ps = true) :
    Keeps ps s0 (mgmtDown s) := by
  unfold mgmtDown
  try dsimp only
  repeat' first
    | with_reducible assumption
    | dsimp only [keeps_mk]
    | with_reducible refine KeepsMk.w_mgmt ?_ (sub_mem (by decide) hP)
    | split

theorem keeps_execChainShellRemoval {ps : List Part} {s0 s : State} (sh : Shell)
    (hK : Keeps ps s0 s) (hP : sub [.clock, .beads, .bezels, .chain, .ledger, .faults, .hub, .asy, .mgmt, .out] ps =
        true) :
    KeepsOut ps s0 (execChainShellRemoval sh s) := by
  unfold execChainShellRemoval
  try dsimp only
  repeat' first
    | with_reducible assumption
    | with_reducible refine keeps_shellOut _ ?_ (sub_trans (by decide) hP)
    | with_reducible refine keeps_mgmtDown ?_ (sub_trans (by decide) hP)
    | with_reducible refine keepsOut_next ?_
    | with_reducible refine keepsOut_whenOk ?_ ?_
    | split

theorem keeps_setHost {ps : List Part} {s0 s : State} (h : HostLink)
    (hK : Keeps ps s0 s) (hP : sub [.host] ps = true) :
    Keeps ps s0 (setHost h s) := by
  unfold setHost
  try dsimp only
  repeat' first
    | with_reducible assumption
    | dsimp only [keeps_mk]
    | with_reducible refine KeepsMk.w_host ?_ (sub_mem (by decide) hP)
    | split

theorem keeps_recordHost {ps : List Part} {s0 s : State} (row : Nat) (cls : Nat) (addr : Nat)
    (hK : Keeps ps s0 s) (hP : sub [.ledger, .faults] ps = true) :
    Keeps ps s0 (recordHost row cls addr s) := by
  unfold recordHost
  try dsimp only
  repeat' first
    | with_reducible assumption
    | with_reducible refine keeps_recordAddr _ _ _ _ ?_ (sub_trans (by decide) hP)
    | split

theorem keeps_recordHostAt {ps : List Part} {s0 s : State} (row : Nat)
    (hK : Keeps ps s0 s) (hP : sub [.ledger, .faults] ps = true) :
    Keeps ps s0 (recordHostAt row s) := by
  unfold recordHostAt
  try dsimp only
  repeat' first
    | with_reducible assumption
    | with_reducible refine keeps_recordAt _ _ _ ?_ (sub_trans (by decide) hP)
    | split

theorem keeps_reportAer {ps : List Part} {s0 s : State} (c : AerClass)
    (hK : Keeps ps s0 s) (hP : sub [.host, .out] ps = true) :
    Keeps ps s0 (reportAer c s) := by
  unfold reportAer
  try dsimp only
  repeat' first
    | with_reducible assumption
    | with_reducible refine keeps_setHost _ ?_ (sub_trans (by decide) hP)
    | with_reducible refine keeps_emit _ ?_ (sub_trans (by decide) hP)
    | split

theorem keeps_countError {ps : List Part} {s0 s : State} (e : LinkError)
    (hK : Keeps ps s0 s) (hP : sub [.host, .out] ps = true) :
    Keeps ps s0 (countError e s) := by
  unfold countError
  try dsimp only
  repeat' first
    | with_reducible assumption
    | with_reducible refine keeps_reportAer _ ?_ (sub_trans (by decide) hP)
    | with_reducible refine keeps_setHost _ ?_ (sub_trans (by decide) hP)
    | split

theorem keeps_hostSend {ps : List Part} {s0 s : State} (a : Nat) (m : Msg)
    (hK : Keeps ps s0 s) (hP : sub [.fabric, .host] ps = true) :
    Keeps ps s0 (hostSend a m s) := by
  unfold hostSend
  try dsimp only
  repeat' first
    | with_reducible assumption
    | with_reducible refine keeps_sendMsg _ ?_ (sub_trans (by decide) hP)
    | with_reducible refine keeps_setHost _ ?_ (sub_trans (by decide) hP)
    | split

theorem keeps_execMemRd {ps : List Part} {s0 s : State} (hpa : Nat)
    (hK : Keeps ps s0 s) (hP : sub [.fabric, .host, .asy] ps = true) :
    KeepsOut ps s0 (execMemRd hpa s) := by
  unfold execMemRd
  try dsimp only
  repeat' first
    | with_reducible assumption
    | with_reducible refine keeps_countEv _ _ _ ?_ (sub_trans (by decide) hP)
    | with_reducible refine keeps_hostSend _ _ ?_ (sub_trans (by decide) hP)
    | with_reducible refine keepsOut_next ?_
    | with_reducible refine keepsOut_whenOk ?_ ?_
    | split

theorem keeps_poisonIn {ps : List Part} {s0 s : State}
    (hK : Keeps ps s0 s) (hP : sub [.host, .ledger, .faults, .hub, .out] ps = true) :
    Keeps ps s0 (poisonIn s) := by
  unfold poisonIn
  try dsimp only
  repeat' first
    | with_reducible assumption
    | with_reducible refine keeps_hubRaise _ ?_ (sub_trans (by decide) hP)
    | with_reducible refine keeps_recordHostAt _ ?_ (sub_trans (by decide) hP)
    | with_reducible refine keeps_countError _ ?_ (sub_trans (by decide) hP)
    | split

theorem keeps_execMemWr {ps : List Part} {s0 s : State} (hpa : Nat) (data : BitVec 512) (poison : Bool)
    (hK : Keeps ps s0 s) (hP : sub [.fabric, .host, .ledger, .faults, .hub, .asy, .out] ps = true) :
    KeepsOut ps s0 (execMemWr hpa data poison s) := by
  unfold execMemWr
  try dsimp only
  repeat' first
    | with_reducible assumption
    | with_reducible refine keeps_poisonIn ?_ (sub_trans (by decide) hP)
    | with_reducible refine keeps_countEv _ _ _ ?_ (sub_trans (by decide) hP)
    | with_reducible refine keeps_hostSend _ _ ?_ (sub_trans (by decide) hP)
    | with_reducible refine keepsOut_next ?_
    | with_reducible refine keepsOut_whenOk ?_ ?_
    | split

theorem keeps_memDone {ps : List Part} {s0 s : State} (addr : Nat)
    (hK : Keeps ps s0 s) (hP : sub [.out] ps = true) :
    Keeps ps s0 (memDone addr s) := by
  unfold memDone
  try dsimp only
  repeat' first
    | with_reducible assumption
    | with_reducible refine keeps_emit _ ?_ (sub_trans (by decide) hP)
    | split

theorem keeps_ptlPart {ps : List Part} {s0 s : State} (a : Nat) (be : BitVec 64) (line : HostLine) (i : Nat)
    (hK : Keeps ps s0 s) (hP : sub [.fabric, .host] ps = true) :
    Keeps ps s0 (ptlPart a be line i s) := by
  unfold ptlPart
  try dsimp only
  repeat' first
    | with_reducible assumption
    | with_reducible refine keeps_hostSend _ _ ?_ (sub_trans (by decide) hP)
    | split

theorem keeps_execMemWrPtl {ps : List Part} {s0 s : State} (hpa : Nat) (be : BitVec 64) (line : HostLine)
    (hK : Keeps ps s0 s) (hP : sub [.fabric, .host, .ledger, .faults, .hub, .asy, .out] ps = true) :
    KeepsOut ps s0 (execMemWrPtl hpa be line s) := by
  unfold execMemWrPtl
  try dsimp only
  repeat' first
    | with_reducible assumption
    | with_reducible refine keeps_ptlPart _ _ _ _ ?_ (sub_trans (by decide) hP)
    | with_reducible refine keeps_poisonIn ?_ (sub_trans (by decide) hP)
    | with_reducible refine keeps_setHost _ ?_ (sub_trans (by decide) hP)
    | with_reducible refine keeps_countEv _ _ _ ?_ (sub_trans (by decide) hP)
    | with_reducible refine keeps_memDone _ ?_ (sub_trans (by decide) hP)
    | with_reducible refine keepsOut_next ?_
    | with_reducible refine keepsOut_whenOk ?_ ?_
    | split

theorem keeps_execMemInv {ps : List Part} {s0 s : State} (hpa : Nat)
    (hK : Keeps ps s0 s) (hP : sub [.bezels] ps = true) :
    KeepsOut ps s0 (execMemInv hpa s) := by
  unfold execMemInv
  try dsimp only
  repeat' first
    | with_reducible assumption
    | with_reducible refine keeps_dropLine _ _ ?_ (sub_trans (by decide) hP)
    | with_reducible refine keepsOut_next ?_
    | with_reducible refine keepsOut_whenOk ?_ ?_
    | split

theorem keeps_execMemSpecRd {ps : List Part} {s0 s : State} (hpa : Nat)
    (hK : Keeps ps s0 s) (hP : sub [] ps = true) :
    KeepsOut ps s0 (execMemSpecRd hpa s) := by
  unfold execMemSpecRd
  try dsimp only
  repeat' first
    | with_reducible assumption
    | with_reducible refine keepsOut_next ?_
    | with_reducible refine keepsOut_whenOk ?_ ?_
    | split

theorem keeps_cxlReadResp {ps : List Part} {s0 s : State} (m : Msg)
    (hK : Keeps ps s0 s) (hP : sub [.ledger, .faults, .out] ps = true) :
    Keeps ps s0 (cxlReadResp m s) := by
  unfold cxlReadResp
  try dsimp only
  repeat' first
    | with_reducible assumption
    | with_reducible refine keeps_recordHost _ _ _ ?_ (sub_trans (by decide) hP)
    | with_reducible refine keeps_emit _ ?_ (sub_trans (by decide) hP)
    | split

theorem keeps_hostDone {ps : List Part} {s0 s : State} (m : Msg)
    (hK : Keeps ps s0 s) (hP : sub [.host, .out] ps = true) :
    Keeps ps s0 (hostDone m s) := by
  unfold hostDone
  try dsimp only
  repeat' first
    | with_reducible assumption
    | with_reducible refine keeps_setHost _ ?_ (sub_trans (by decide) hP)
    | with_reducible refine keeps_memDone _ ?_ (sub_trans (by decide) hP)
    | split

theorem keeps_cxlWriteAck {ps : List Part} {s0 s : State} (m : Msg)
    (hK : Keeps ps s0 s) (hP : sub [.host, .ledger, .faults, .out] ps = true) :
    Keeps ps s0 (cxlWriteAck m s) := by
  unfold cxlWriteAck
  try dsimp only
  repeat' first
    | with_reducible assumption
    | with_reducible refine keeps_recordHost _ _ _ ?_ (sub_trans (by decide) hP)
    | with_reducible refine keeps_hostDone _ ?_ (sub_trans (by decide) hP)
    | split

theorem keeps_release {ps : List Part} {s0 s : State} (z : Nat) (line : Nat)
    (hK : Keeps ps s0 s) (hP : sub [.fabric, .mem, .bezels, .ledger, .faults, .hub, .asy, .out] ps = true) :
    Keeps ps s0 (release z line s) := by
  unfold release
  try dsimp only
  repeat' first
    | with_reducible assumption
    | with_reducible refine keeps_snoopOver _ _ ?_ (sub_trans (by decide) hP)
    | with_reducible refine keeps_serveHeld _ ?_ (sub_trans (by decide) hP)
    | split

theorem keeps_execBiRsp {ps : List Part} {s0 s : State} (b : BezelN) (line : Nat)
    (hK : Keeps ps s0 s) (hP : sub [.fabric, .mem, .bezels, .ledger, .faults, .hub, .asy, .out] ps = true) :
    KeepsOut ps s0 (execBiRsp b line s) := by
  unfold execBiRsp
  try dsimp only
  repeat' first
    | with_reducible assumption
    | with_reducible refine keeps_countEv _ _ _ ?_ (sub_trans (by decide) hP)
    | with_reducible refine keeps_release _ _ ?_ (sub_trans (by decide) hP)
    | with_reducible refine keepsOut_next ?_
    | with_reducible refine keepsOut_whenOk ?_ ?_
    | split

theorem keeps_execBackInvalidateTimeout {ps : List Part} {s0 s : State} (b : BezelN) (line : Nat)
    (hK : Keeps ps s0 s) (hP : sub [.fabric, .mem, .bezels, .host, .ledger, .faults, .hub, .asy, .out] ps = true) :
    KeepsOut ps s0 (execBackInvalidateTimeout b line s) := by
  unfold execBackInvalidateTimeout
  try dsimp only
  repeat' first
    | with_reducible assumption
    | with_reducible refine keeps_recordHost _ _ _ ?_ (sub_trans (by decide) hP)
    | with_reducible refine keeps_hubRaise _ ?_ (sub_trans (by decide) hP)
    | with_reducible refine keeps_release _ _ ?_ (sub_trans (by decide) hP)
    | with_reducible refine keeps_countError _ ?_ (sub_trans (by decide) hP)
    | with_reducible refine keepsOut_next ?_
    | with_reducible refine keepsOut_whenOk ?_ ?_
    | split

theorem keeps_boardAnswer {ps : List Part} {s0 s : State} (j : UioJob)
    (hK : Keeps ps s0 s) (hP : sub [.fabric, .mem, .asy] ps = true) :
    Keeps ps s0 (boardAnswer j s) := by
  unfold boardAnswer
  try dsimp only
  repeat' first
    | with_reducible assumption
    | with_reducible refine keeps_sendFrom _ _ ?_ (sub_trans (by decide) hP)
    | with_reducible refine keeps_returnData _ _ _ _ _ _ ?_ (sub_trans (by decide) hP)
    | split

theorem keeps_boardFail {ps : List Part} {s0 s : State} (m : Msg) (cls : Nat)
    (hK : Keeps ps s0 s) (hP : sub [.fabric, .mem, .asy] ps = true) :
    Keeps ps s0 (boardFail m cls s) := by
  unfold boardFail
  try dsimp only
  repeat' first
    | with_reducible assumption
    | with_reducible refine keeps_boardAnswer _ ?_ (sub_trans (by decide) hP)
    | split

theorem keeps_boardEnd {ps : List Part} {s0 s : State} (m : Msg) (cls : Nat)
    (hK : Keeps ps s0 s) (hP : sub [.fabric, .mem, .ledger, .faults, .asy] ps = true) :
    Keeps ps s0 (boardEnd m cls s) := by
  unfold boardEnd
  try dsimp only
  repeat' first
    | with_reducible assumption
    | with_reducible refine keeps_boardFail _ _ ?_ (sub_trans (by decide) hP)
    | with_reducible refine keeps_recordParts _ _ _ _ ?_ (sub_trans (by decide) hP)
    | split

theorem keeps_boardStart {ps : List Part} {s0 s : State} (m : Msg)
    (hK : Keeps ps s0 s) (hP : sub [.fabric, .mem, .host, .ledger, .faults, .asy, .out] ps = true) :
    Keeps ps s0 (boardStart m s) := by
  unfold boardStart
  try dsimp only
  repeat' first
    | with_reducible assumption
    | with_reducible refine keeps_boardEnd _ _ ?_ (sub_trans (by decide) hP)
    | with_reducible refine keeps_boardFail _ _ ?_ (sub_trans (by decide) hP)
    | with_reducible refine keeps_setHost _ ?_ (sub_trans (by decide) hP)
    | with_reducible refine keeps_countEv _ _ _ ?_ (sub_trans (by decide) hP)
    | with_reducible refine keeps_emit _ ?_ (sub_trans (by decide) hP)
    | with_reducible refine Keeps.foldl _ ?_ (fun t a hK => ?_)
    | with_reducible refine Keeps.foldlSnd _ ?_ (fun a k hK => ?_)
    | split

theorem keeps_uioEnd {ps : List Part} {s0 s : State} (u : Uio) (cls : Nat) (data : List Code)
    (hK : Keeps ps s0 s) (hP : sub [.fabric, .mem, .host, .ledger, .faults, .asy] ps = true) :
    Keeps ps s0 (uioEnd u cls data s) := by
  unfold uioEnd
  try dsimp only
  repeat' first
    | with_reducible assumption
    | with_reducible refine keeps_setHost _ ?_ (sub_trans (by decide) hP)
    | with_reducible refine keeps_recordParts _ _ _ _ ?_ (sub_trans (by decide) hP)
    | with_reducible refine keeps_boardAnswer _ ?_ (sub_trans (by decide) hP)
    | with_reducible refine Keeps.foldl _ ?_ (fun t a hK => ?_)
    | with_reducible refine Keeps.foldlSnd _ ?_ (fun a k hK => ?_)
    | split

theorem keeps_execUioCompletion {ps : List Part} {s0 s : State} (id : Nat) (how : UioEnd) (data : List Gran)
    (hK : Keeps ps s0 s) (hP : sub [.fabric, .mem, .host, .ledger, .faults, .hub, .asy, .out] ps = true) :
    KeepsOut ps s0 (execUioCompletion id how data s) := by
  unfold execUioCompletion
  try dsimp only
  repeat' first
    | with_reducible assumption
    | with_reducible refine keeps_uioEnd _ _ _ ?_ (sub_trans (by decide) hP)
    | with_reducible refine keeps_poisonIn ?_ (sub_trans (by decide) hP)
    | with_reducible refine keepsOut_next ?_
    | with_reducible refine keepsOut_whenOk ?_ ?_
    | split

theorem keeps_execUioTimeout {ps : List Part} {s0 s : State} (id : Nat)
    (hK : Keeps ps s0 s) (hP : sub [.fabric, .mem, .host, .ledger, .faults, .hub, .asy, .out] ps = true) :
    KeepsOut ps s0 (execUioTimeout id s) := by
  unfold execUioTimeout
  try dsimp only
  repeat' first
    | with_reducible assumption
    | with_reducible refine keeps_recordHost _ _ _ ?_ (sub_trans (by decide) hP)
    | with_reducible refine keeps_uioEnd _ _ _ ?_ (sub_trans (by decide) hP)
    | with_reducible refine keeps_hubRaise _ ?_ (sub_trans (by decide) hP)
    | with_reducible refine keeps_countError _ ?_ (sub_trans (by decide) hP)
    | with_reducible refine keepsOut_next ?_
    | with_reducible refine keepsOut_whenOk ?_ ?_
    | split

theorem keeps_dropHostReqs {ps : List Part} {s0 s : State}
    (hK : Keeps ps s0 s) (hP : sub [.fabric] ps = true) :
    Keeps ps s0 (dropHostReqs s) := by
  unfold dropHostReqs
  try dsimp only
  repeat' first
    | with_reducible assumption
    | dsimp only [keeps_mk]
    | with_reducible refine KeepsMk.w_fabric ?_ (sub_mem (by decide) hP)
    | split

theorem keeps_linkFall {ps : List Part} {s0 s : State}
    (hK : Keeps ps s0 s) (hP : sub [.fabric, .mem, .bezels, .host, .ledger, .faults, .hub, .asy, .out] ps = true) :
    Keeps ps s0 (linkFall s) := by
  unfold linkFall
  try dsimp only
  repeat' first
    | with_reducible assumption
    | with_reducible refine keeps_uioEnd _ _ _ ?_ (sub_trans (by decide) hP)
    | with_reducible refine keeps_setHost _ ?_ (sub_trans (by decide) hP)
    | with_reducible refine keeps_hubRaise _ ?_ (sub_trans (by decide) hP)
    | with_reducible refine keeps_recordHostAt _ ?_ (sub_trans (by decide) hP)
    | with_reducible refine keeps_dropHostReqs ?_ (sub_trans (by decide) hP)
    | with_reducible refine keeps_modBezel _ _ ?_ (sub_trans (by decide) hP)
    | with_reducible refine keeps_countError _ ?_ (sub_trans (by decide) hP)
    | with_reducible refine keeps_serveHeld _ ?_ (sub_trans (by decide) hP)
    | with_reducible refine Keeps.foldl _ ?_ (fun t a hK => ?_)
    | with_reducible refine Keeps.foldlSnd _ ?_ (fun a k hK => ?_)
    | with_reducible refine Keeps.upToSnd _ ?_ (fun a k hK => ?_)
    | with_reducible refine Keeps.upTo _ ?_ (fun t k hK => ?_)
    | split

theorem keeps_execHostLinkDown {ps : List Part} {s0 s : State}
    (hK : Keeps ps s0 s) (hP : sub [.fabric, .mem, .bezels, .host, .ledger, .faults, .hub, .asy, .out] ps = true) :
    KeepsOut ps s0 (execHostLinkDown s) := by
  unfold execHostLinkDown
  try dsimp only
  repeat' first
    | with_reducible assumption
    | with_reducible refine keeps_linkFall ?_ (sub_trans (by decide) hP)
    | with_reducible refine keepsOut_next ?_
    | with_reducible refine keepsOut_whenOk ?_ ?_
    | split

theorem keeps_hostError {ps : List Part} {s0 s : State} (e : LinkError)
    (hK : Keeps ps s0 s) (hP : sub [.fabric, .mem, .bezels, .host, .ledger, .faults, .hub, .asy, .out] ps = true) :
    Keeps ps s0 (hostError e s) := by
  unfold hostError
  try dsimp only
  repeat' first
    | with_reducible assumption
    | with_reducible refine keeps_linkFall ?_ (sub_trans (by decide) hP)
    | with_reducible refine keeps_hubRaise _ ?_ (sub_trans (by decide) hP)
    | with_reducible refine keeps_emit _ ?_ (sub_trans (by decide) hP)
    | with_reducible refine keeps_recordHostAt _ ?_ (sub_trans (by decide) hP)
    | with_reducible refine keeps_countError _ ?_ (sub_trans (by decide) hP)
    | split

theorem keeps_execHostLinkError {ps : List Part} {s0 s : State} (e : LinkError)
    (hK : Keeps ps s0 s) (hP : sub [.fabric, .mem, .bezels, .host, .ledger, .faults, .hub, .asy, .out] ps = true) :
    KeepsOut ps s0 (execHostLinkError e s) := by
  unfold execHostLinkError
  try dsimp only
  repeat' first
    | with_reducible assumption
    | with_reducible refine keeps_hostError _ ?_ (sub_trans (by decide) hP)
    | with_reducible refine keepsOut_next ?_
    | with_reducible refine keepsOut_whenOk ?_ ?_
    | split

theorem keeps_execHostLinkUp {ps : List Part} {s0 s : State} (lanesAt64 : Bool)
    (hK : Keeps ps s0 s) (hP : sub [.host] ps = true) :
    KeepsOut ps s0 (execHostLinkUp lanesAt64 s) := by
  unfold execHostLinkUp
  try dsimp only
  repeat' first
    | with_reducible assumption
    | with_reducible refine keeps_setHost _ ?_ (sub_trans (by decide) hP)
    | with_reducible refine keepsOut_next ?_
    | with_reducible refine keepsOut_whenOk ?_ ?_
    | split

theorem keeps_execHostLaneCalibration {ps : List Part} {s0 s : State} (lane : Fin 16) (granted : Bool)
    (hK : Keeps ps s0 s) (hP : sub [.host, .ledger, .faults, .out] ps = true) :
    KeepsOut ps s0 (execHostLaneCalibration lane granted s) := by
  unfold execHostLaneCalibration
  try dsimp only
  repeat' first
    | with_reducible assumption
    | with_reducible refine keeps_setHost _ ?_ (sub_trans (by decide) hP)
    | with_reducible refine keeps_emit _ ?_ (sub_trans (by decide) hP)
    | with_reducible refine keeps_recordHostAt _ ?_ (sub_trans (by decide) hP)
    | with_reducible refine keepsOut_next ?_
    | with_reducible refine keepsOut_whenOk ?_ ?_
    | split

theorem keeps_execHostCalibrationDone {ps : List Part} {s0 s : State}
    (hK : Keeps ps s0 s) (hP : sub [.host, .out] ps = true) :
    KeepsOut ps s0 (execHostCalibrationDone s) := by
  unfold execHostCalibrationDone
  try dsimp only
  repeat' first
    | with_reducible assumption
    | with_reducible refine keeps_setHost _ ?_ (sub_trans (by decide) hP)
    | with_reducible refine keeps_emit _ ?_ (sub_trans (by decide) hP)
    | with_reducible refine keepsOut_next ?_
    | with_reducible refine keepsOut_whenOk ?_ ?_
    | split

theorem keeps_biRangeSet {ps : List Part} {s0 s : State} (w : Width) (v : Word)
    (hK : Keeps ps s0 s) (hP : sub [.host] ps = true) :
    Keeps ps s0 (biRangeSet w v s) := by
  unfold biRangeSet
  try dsimp only
  repeat' first
    | with_reducible assumption
    | with_reducible refine keeps_setHost _ ?_ (sub_trans (by decide) hP)
    | split

theorem keeps_execHlkBiRangeWrite {ps : List Part} {s0 s : State} (m : Master) (w : Width) (v : Word)
    (hK : Keeps ps s0 s) (hP : sub [.host, .ledger, .faults] ps = true) :
    KeepsOut ps s0 (execHlkBiRangeWrite m w v s) := by
  unfold execHlkBiRangeWrite
  try dsimp only
  repeat' first
    | with_reducible assumption
    | with_reducible refine keeps_biRangeSet _ _ ?_ (sub_trans (by decide) hP)
    | with_reducible refine keeps_regWriteRow _ _ _ ?_ (sub_trans (by decide) hP) (fun t hK => ?_)
    | with_reducible refine keepsOut_next ?_
    | with_reducible refine keepsOut_whenOk ?_ ?_
    | split

theorem keeps_hlkErrClear {ps : List Part} {s0 s : State} (w : Width)
    (hK : Keeps ps s0 s) (hP : sub [.host] ps = true) :
    Keeps ps s0 (hlkErrClear w s) := by
  unfold hlkErrClear
  try dsimp only
  repeat' first
    | with_reducible assumption
    | with_reducible refine keeps_setHost _ ?_ (sub_trans (by decide) hP)
    | split

theorem keeps_execHlkErrStatRead {ps : List Part} {s0 s : State} (w : Width)
    (hK : Keeps ps s0 s) (hP : sub [.host, .out] ps = true) :
    KeepsOut ps s0 (execHlkErrStatRead w s) := by
  unfold execHlkErrStatRead
  try dsimp only
  repeat' first
    | with_reducible assumption
    | with_reducible refine keeps_regReadRow _ _ _ _ ?_ (sub_trans (by decide) hP) (fun t hK => ?_)
    | with_reducible refine keeps_hlkErrClear _ ?_ (sub_trans (by decide) hP)
    | with_reducible refine keepsOut_next ?_
    | with_reducible refine keepsOut_whenOk ?_ ?_
    | split

theorem keeps_unmaskVector {ps : List Part} {s0 s : State} (v : Nat)
    (hK : Keeps ps s0 s) (hP : sub [.hub, .out] ps = true) :
    Keeps ps s0 (unmaskVector v s) := by
  unfold unmaskVector
  try dsimp only
  repeat' first
    | with_reducible assumption
    | dsimp only [keeps_mk]
    | with_reducible refine KeepsMk.w_hub ?_ (sub_mem (by decide) hP)
    | with_reducible refine keeps_sendMsix _ ?_ (sub_trans (by decide) hP)
    | split

theorem keeps_execMsixUnmask {ps : List Part} {s0 s : State} (v : Fin 32)
    (hK : Keeps ps s0 s) (hP : sub [.hub, .out] ps = true) :
    KeepsOut ps s0 (execMsixUnmask v s) := by
  unfold execMsixUnmask
  try dsimp only
  repeat' first
    | with_reducible assumption
    | with_reducible refine keeps_unmaskVector _ ?_ (sub_trans (by decide) hP)
    | with_reducible refine keepsOut_next ?_
    | with_reducible refine keepsOut_whenOk ?_ ?_
    | split

theorem keeps_functionUnmask {ps : List Part} {s0 s : State}
    (hK : Keeps ps s0 s) (hP : sub [.hub, .out] ps = true) :
    Keeps ps s0 (functionUnmask s) := by
  unfold functionUnmask
  try dsimp only
  repeat' first
    | with_reducible assumption
    | dsimp only [keeps_mk]
    | with_reducible refine KeepsMk.w_hub ?_ (sub_mem (by decide) hP)
    | with_reducible refine keeps_unmaskVector _ ?_ (sub_trans (by decide) hP)
    | with_reducible refine Keeps.upToSnd _ ?_ (fun a k hK => ?_)
    | with_reducible refine Keeps.upTo _ ?_ (fun t k hK => ?_)
    | split

theorem keeps_cacheShared {ps : List Part} {s0 s : State} (line : Nat)
    (hK : Keeps ps s0 s) (hP : sub [.host] ps = true) :
    Keeps ps s0 (cacheShared line s) := by
  unfold cacheShared
  try dsimp only
  repeat' first
    | with_reducible assumption
    | with_reducible refine keeps_setHost _ ?_ (sub_trans (by decide) hP)
    | split

theorem keeps_execH2dSnoop {ps : List Part} {s0 s : State} (line : Nat)
    (hK : Keeps ps s0 s) (hP : sub [.host, .out] ps = true) :
    KeepsOut ps s0 (execH2dSnoop line s) := by
  unfold execH2dSnoop
  try dsimp only
  repeat' first
    | with_reducible assumption
    | with_reducible refine keeps_setHost _ ?_ (sub_trans (by decide) hP)
    | with_reducible refine keeps_emit _ ?_ (sub_trans (by decide) hP)
    | with_reducible refine keepsOut_next ?_
    | with_reducible refine keepsOut_whenOk ?_ ?_
    | split

theorem keeps_execUioRequestToModule {ps : List Part} {s0 s : State} (hpa : Nat)
    (hK : Keeps ps s0 s) (hP : sub [.host, .ledger, .faults, .hub, .out] ps = true) :
    KeepsOut ps s0 (execUioRequestToModule hpa s) := by
  unfold execUioRequestToModule
  try dsimp only
  repeat' first
    | with_reducible assumption
    | with_reducible refine keeps_recordHost _ _ _ ?_ (sub_trans (by decide) hP)
    | with_reducible refine keeps_hubRaise _ ?_ (sub_trans (by decide) hP)
    | with_reducible refine keeps_emit _ ?_ (sub_trans (by decide) hP)
    | with_reducible refine keeps_countError _ ?_ (sub_trans (by decide) hP)
    | with_reducible refine keepsOut_next ?_
    | with_reducible refine keepsOut_whenOk ?_ ?_
    | split

theorem keeps_capability {ps : List Part} {s0 s : State} (c : Capability)
    (hK : Keeps ps s0 s) (hP : sub [.host, .hub, .out] ps = true) :
    Keeps ps s0 (capability c s) := by
  unfold capability
  try dsimp only
  repeat' first
    | with_reducible assumption
    | dsimp only [keeps_mk]
    | with_reducible refine KeepsMk.w_hub ?_ (sub_mem (by decide) hP)
    | with_reducible refine keeps_setHost _ ?_ (sub_trans (by decide) hP)
    | with_reducible refine keeps_functionUnmask ?_ (sub_trans (by decide) hP)
    | with_reducible refine keeps_emit _ ?_ (sub_trans (by decide) hP)
    | split

theorem keeps_execCapabilityWrite {ps : List Part} {s0 s : State} (c : Capability)
    (hK : Keeps ps s0 s) (hP : sub [.host, .hub, .out] ps = true) :
    KeepsOut ps s0 (execCapabilityWrite c s) := by
  unfold execCapabilityWrite
  try dsimp only
  repeat' first
    | with_reducible assumption
    | with_reducible refine keeps_capability _ ?_ (sub_trans (by decide) hP)
    | with_reducible refine keepsOut_next ?_
    | with_reducible refine keepsOut_whenOk ?_ ?_
    | split

theorem keeps_atXbar {ps : List Part} {s0 s : State} (n : Nat) (c : Nat) (m : Msg)
    (hK : Keeps ps s0 s) (hP : sub [.fabric, .mem, .ledger, .faults, .asy] ps = true) :
    Keeps ps s0 (atXbar n c m s) := by
  unfold atXbar
  try dsimp only
  repeat' first
    | with_reducible assumption
    | with_reducible refine keeps_toSlice _ _ _ ?_ (sub_trans (by decide) hP)
    | with_reducible refine keeps_countEv _ _ _ ?_ (sub_trans (by decide) hP)
    | with_reducible refine keeps_noTarget _ _ ?_ (sub_trans (by decide) hP)
    | split

theorem keeps_takeRead {ps : List Part} {s0 s : State} (n : Nat) (m : Msg)
    (hK : Keeps ps s0 s) (hP : sub [.beads, .fabric, .mem, .bezels, .chain, .host, .ledger, .faults, .hub, .asy,
        .out] ps = true) :
    KeepsSome ps s0 (takeRead n m s) := by
  unfold takeRead
  try dsimp only
  repeat' first
    | with_reducible assumption
    | with_reducible refine keeps_atXbar _ _ _ ?_ (sub_trans (by decide) hP)
    | with_reducible refine keeps_portAccept _ _ ?_ (sub_trans (by decide) hP)
    | with_reducible refine keeps_beadServeRead _ _ ?_ (sub_trans (by decide) hP)
    | with_reducible refine keeps_toBezel _ _ ?_ (sub_trans (by decide) hP)
    | with_reducible refine keeps_boardStart _ ?_ (sub_trans (by decide) hP)
    | with_reducible refine keeps_noTarget _ _ ?_ (sub_trans (by decide) hP)
    | with_reducible refine keepsSome_some ?_
    | with_reducible exact keepsSome_none
    | split

theorem keeps_takeWrite {ps : List Part} {s0 s : State} (n : Nat) (m : Msg)
    (hK : Keeps ps s0 s) (hP : sub [.beads, .fabric, .mem, .bezels, .chain, .host, .ledger, .faults, .hub, .asy,
        .out] ps = true) :
    KeepsSome ps s0 (takeWrite n m s) := by
  unfold takeWrite
  try dsimp only
  repeat' first
    | with_reducible assumption
    | with_reducible refine keeps_atXbar _ _ _ ?_ (sub_trans (by decide) hP)
    | with_reducible refine keeps_beadServeWrite _ _ ?_ (sub_trans (by decide) hP)
    | with_reducible refine keeps_portAccept _ _ ?_ (sub_trans (by decide) hP)
    | with_reducible refine keeps_toBezel _ _ ?_ (sub_trans (by decide) hP)
    | with_reducible refine keeps_boardStart _ ?_ (sub_trans (by decide) hP)
    | with_reducible refine keeps_noTarget _ _ ?_ (sub_trans (by decide) hP)
    | with_reducible refine keepsSome_some ?_
    | with_reducible exact keepsSome_none
    | split

theorem keeps_takeAtomic {ps : List Part} {s0 s : State} (n : Nat) (m : Msg)
    (hK : Keeps ps s0 s) (hP : sub [.beads, .fabric, .mem, .bezels, .chain, .ledger, .faults, .hub, .asy, .out] ps =
        true) :
    KeepsSome ps s0 (takeAtomic n m s) := by
  unfold takeAtomic
  try dsimp only
  repeat' first
    | with_reducible assumption
    | with_reducible refine keeps_atXbar _ _ _ ?_ (sub_trans (by decide) hP)
    | with_reducible refine keeps_portAccept _ _ ?_ (sub_trans (by decide) hP)
    | with_reducible refine keeps_toBezel _ _ ?_ (sub_trans (by decide) hP)
    | with_reducible refine keeps_noTarget _ _ ?_ (sub_trans (by decide) hP)
    | with_reducible refine keepsSome_some ?_
    | with_reducible exact keepsSome_none
    | split

theorem keeps_takeSum {ps : List Part} {s0 s : State} (n : Nat) (m : Msg)
    (hK : Keeps ps s0 s) (hP : sub [.beads, .fabric, .mem, .bezels, .chain, .ledger, .faults, .hub, .asy, .out] ps =
        true) :
    KeepsSome ps s0 (takeSum n m s) := by
  unfold takeSum
  try dsimp only
  repeat' first
    | with_reducible assumption
    | with_reducible refine keeps_atXbar _ _ _ ?_ (sub_trans (by decide) hP)
    | with_reducible refine keeps_portAccept _ _ ?_ (sub_trans (by decide) hP)
    | with_reducible refine keeps_toBezel _ _ ?_ (sub_trans (by decide) hP)
    | with_reducible refine keeps_noTarget _ _ ?_ (sub_trans (by decide) hP)
    | with_reducible refine keepsSome_some ?_
    | with_reducible exact keepsSome_none
    | split

theorem keeps_takeSignal {ps : List Part} {s0 s : State} (n : Nat) (m : Msg)
    (hK : Keeps ps s0 s) (hP : sub [.beads, .fabric, .clasps, .chain, .ledger, .faults, .hub, .asy, .out] ps = true) :
    KeepsSome ps s0 (takeSignal n m s) := by
  unfold takeSignal
  try dsimp only
  repeat' first
    | with_reducible assumption
    | with_reducible refine keeps_portAccept _ _ ?_ (sub_trans (by decide) hP)
    | with_reducible refine keeps_signalAct _ _ ?_ (sub_trans (by decide) hP)
    | with_reducible refine keeps_countEv _ _ _ ?_ (sub_trans (by decide) hP)
    | with_reducible refine keepsSome_some ?_
    | with_reducible exact keepsSome_none
    | split

theorem keeps_takeResp {ps : List Part} {s0 s : State} (n : Nat) (m : Msg)
    (hK : Keeps ps s0 s) (hP : sub [.beads, .fabric, .clasps, .mem, .bezels, .chain, .ledger, .faults, .asy, .out] ps
        = true) :
    KeepsSome ps s0 (takeResp n m s) := by
  unfold takeResp
  try dsimp only
  repeat' first
    | with_reducible assumption
    | with_reducible refine keeps_cxlReadResp _ ?_ (sub_trans (by decide) hP)
    | with_reducible refine keeps_feedAll _ ?_ (sub_trans (by decide) hP)
    | with_reducible refine keeps_portAnswer _ _ ?_ (sub_trans (by decide) hP)
    | with_reducible refine keeps_beadReadResp _ _ ?_ (sub_trans (by decide) hP)
    | with_reducible refine keepsSome_some ?_
    | with_reducible exact keepsSome_none
    | split

theorem keeps_takeAck {ps : List Part} {s0 s : State} (n : Nat) (m : Msg)
    (hK : Keeps ps s0 s) (hP : sub [.beads, .fabric, .clasps, .mem, .bezels, .chain, .host, .ledger, .faults, .hub,
        .asy, .out] ps = true) :
    KeepsSome ps s0 (takeAck n m s) := by
  unfold takeAck
  try dsimp only
  repeat' first
    | with_reducible assumption
    | with_reducible refine keeps_cxlWriteAck _ ?_ (sub_trans (by decide) hP)
    | with_reducible refine keeps_bezelAck _ _ ?_ (sub_trans (by decide) hP)
    | with_reducible refine keeps_portAnswer _ _ ?_ (sub_trans (by decide) hP)
    | with_reducible refine keeps_beadWriteAck _ _ ?_ (sub_trans (by decide) hP)
    | with_reducible refine keepsSome_some ?_
    | with_reducible exact keepsSome_none
    | split

theorem keeps_takeStale {ps : List Part} {s0 s : State} (n : Nat) (m : Msg)
    (hK : Keeps ps s0 s) (hP : sub [.beads, .fabric, .chain, .ledger, .faults, .hub, .asy, .out] ps = true) :
    KeepsSome ps s0 (takeStale n m s) := by
  unfold takeStale
  try dsimp only
  repeat' first
    | with_reducible assumption
    | with_reducible refine keeps_portAccept _ _ ?_ (sub_trans (by decide) hP)
    | with_reducible refine keeps_beadStale _ _ ?_ (sub_trans (by decide) hP)
    | with_reducible refine keepsSome_some ?_
    | with_reducible exact keepsSome_none
    | split

theorem keeps_nodeRow {ps : List Part} {s0 s : State} (n : Nat) (op : BitVec 8) (f : Nat → Msg → State → Option State)
    (hK : Keeps ps s0 s) (hP : sub [.fabric] ps = true)
    (hf : ∀ m t, Keeps ps s0 t → KeepsSome ps s0 (f n m t)) :
    KeepsOut ps s0 (nodeRow n op f s) := by
  unfold nodeRow
  try dsimp only
  repeat' first
    | with_reducible assumption
    | with_reducible refine keeps_popArrival _ ?_ (sub_trans (by decide) hP)
    | with_reducible refine keepsOut_next ?_
    | with_reducible refine keepsOut_whenOk ?_ ?_
    | refine KeepsSome.get (hf _ _ ?_) (by assumption)
    | split

theorem keeps_execRead {ps : List Part} {s0 s : State} (n : NodeN)
    (hK : Keeps ps s0 s) (hP : sub [.beads, .fabric, .mem, .bezels, .chain, .host, .ledger, .faults, .hub, .asy,
        .out] ps = true) :
    KeepsOut ps s0 (execRead n s) := by
  unfold execRead
  try dsimp only
  repeat' first
    | with_reducible assumption
    | with_reducible refine KeepsSome.get (keeps_takeRead _ _ ?_ (sub_trans (by decide) hP)) (by assumption)
    | with_reducible refine keeps_takeRead _ _ ?_ (sub_trans (by decide) hP)
    | with_reducible refine keeps_nodeRow _ _ _ ?_ (sub_trans (by decide) hP) (fun m t hK => ?_)
    | with_reducible refine keepsOut_next ?_
    | with_reducible refine keepsOut_whenOk ?_ ?_
    | split

theorem keeps_execWrite {ps : List Part} {s0 s : State} (n : NodeN)
    (hK : Keeps ps s0 s) (hP : sub [.beads, .fabric, .mem, .bezels, .chain, .host, .ledger, .faults, .hub, .asy,
        .out] ps = true) :
    KeepsOut ps s0 (execWrite n s) := by
  unfold execWrite
  try dsimp only
  repeat' first
    | with_reducible assumption
    | with_reducible refine KeepsSome.get (keeps_takeWrite _ _ ?_ (sub_trans (by decide) hP)) (by assumption)
    | with_reducible refine keeps_takeWrite _ _ ?_ (sub_trans (by decide) hP)
    | with_reducible refine keeps_nodeRow _ _ _ ?_ (sub_trans (by decide) hP) (fun m t hK => ?_)
    | with_reducible refine keepsOut_next ?_
    | with_reducible refine keepsOut_whenOk ?_ ?_
    | split

theorem keeps_execWritePart {ps : List Part} {s0 s : State} (n : NodeN)
    (hK : Keeps ps s0 s) (hP : sub [.beads, .fabric, .mem, .bezels, .chain, .host, .ledger, .faults, .hub, .asy,
        .out] ps = true) :
    KeepsOut ps s0 (execWritePart n s) := by
  unfold execWritePart
  try dsimp only
  repeat' first
    | with_reducible assumption
    | with_reducible refine KeepsSome.get (keeps_takeWrite _ _ ?_ (sub_trans (by decide) hP)) (by assumption)
    | with_reducible refine keeps_takeWrite _ _ ?_ (sub_trans (by decide) hP)
    | with_reducible refine keeps_nodeRow _ _ _ ?_ (sub_trans (by decide) hP) (fun m t hK => ?_)
    | with_reducible refine keepsOut_next ?_
    | with_reducible refine keepsOut_whenOk ?_ ?_
    | split

theorem keeps_execAtomic {ps : List Part} {s0 s : State} (n : NodeN)
    (hK : Keeps ps s0 s) (hP : sub [.beads, .fabric, .mem, .bezels, .chain, .ledger, .faults, .hub, .asy, .out] ps =
        true) :
    KeepsOut ps s0 (execAtomic n s) := by
  unfold execAtomic
  try dsimp only
  repeat' first
    | with_reducible assumption
    | with_reducible refine KeepsSome.get (keeps_takeAtomic _ _ ?_ (sub_trans (by decide) hP)) (by assumption)
    | with_reducible refine keeps_takeAtomic _ _ ?_ (sub_trans (by decide) hP)
    | with_reducible refine keeps_nodeRow _ _ _ ?_ (sub_trans (by decide) hP) (fun m t hK => ?_)
    | with_reducible refine keepsOut_next ?_
    | with_reducible refine keepsOut_whenOk ?_ ?_
    | split

theorem keeps_execSumwrite {ps : List Part} {s0 s : State} (n : NodeN)
    (hK : Keeps ps s0 s) (hP : sub [.beads, .fabric, .mem, .bezels, .chain, .ledger, .faults, .hub, .asy, .out] ps =
        true) :
    KeepsOut ps s0 (execSumwrite n s) := by
  unfold execSumwrite
  try dsimp only
  repeat' first
    | with_reducible assumption
    | with_reducible refine keeps_nodeRow _ _ _ ?_ (sub_trans (by decide) hP) (fun m t hK => ?_)
    | with_reducible refine KeepsSome.get (keeps_takeSum _ _ ?_ (sub_trans (by decide) hP)) (by assumption)
    | with_reducible refine keeps_takeSum _ _ ?_ (sub_trans (by decide) hP)
    | with_reducible refine keepsOut_next ?_
    | with_reducible refine keepsOut_whenOk ?_ ?_
    | split

theorem keeps_execSignal {ps : List Part} {s0 s : State} (n : NodeN)
    (hK : Keeps ps s0 s) (hP : sub [.beads, .fabric, .clasps, .chain, .ledger, .faults, .hub, .asy, .out] ps = true) :
    KeepsOut ps s0 (execSignal n s) := by
  unfold execSignal
  try dsimp only
  repeat' first
    | with_reducible assumption
    | with_reducible refine keeps_nodeRow _ _ _ ?_ (sub_trans (by decide) hP) (fun m t hK => ?_)
    | with_reducible refine KeepsSome.get (keeps_takeSignal _ _ ?_ (sub_trans (by decide) hP)) (by assumption)
    | with_reducible refine keeps_takeSignal _ _ ?_ (sub_trans (by decide) hP)
    | with_reducible refine keepsOut_next ?_
    | with_reducible refine keepsOut_whenOk ?_ ?_
    | split

theorem keeps_execReadResp {ps : List Part} {s0 s : State} (n : NodeN)
    (hK : Keeps ps s0 s) (hP : sub [.beads, .fabric, .clasps, .mem, .bezels, .chain, .ledger, .faults, .asy, .out] ps
        = true) :
    KeepsOut ps s0 (execReadResp n s) := by
  unfold execReadResp
  try dsimp only
  repeat' first
    | with_reducible assumption
    | with_reducible refine keeps_nodeRow _ _ _ ?_ (sub_trans (by decide) hP) (fun m t hK => ?_)
    | with_reducible refine KeepsSome.get (keeps_takeResp _ _ ?_ (sub_trans (by decide) hP)) (by assumption)
    | with_reducible refine keeps_takeResp _ _ ?_ (sub_trans (by decide) hP)
    | with_reducible refine keepsOut_next ?_
    | with_reducible refine keepsOut_whenOk ?_ ?_
    | split

theorem keeps_execWriteAck {ps : List Part} {s0 s : State} (n : NodeN)
    (hK : Keeps ps s0 s) (hP : sub [.beads, .fabric, .clasps, .mem, .bezels, .chain, .host, .ledger, .faults, .hub,
        .asy, .out] ps = true) :
    KeepsOut ps s0 (execWriteAck n s) := by
  unfold execWriteAck
  try dsimp only
  repeat' first
    | with_reducible assumption
    | with_reducible refine keeps_nodeRow _ _ _ ?_ (sub_trans (by decide) hP) (fun m t hK => ?_)
    | with_reducible refine KeepsSome.get (keeps_takeAck _ _ ?_ (sub_trans (by decide) hP)) (by assumption)
    | with_reducible refine keeps_takeAck _ _ ?_ (sub_trans (by decide) hP)
    | with_reducible refine keepsOut_next ?_
    | with_reducible refine keepsOut_whenOk ?_ ?_
    | split

theorem keeps_execStale {ps : List Part} {s0 s : State} (n : NodeN)
    (hK : Keeps ps s0 s) (hP : sub [.beads, .fabric, .chain, .ledger, .faults, .hub, .asy, .out] ps = true) :
    KeepsOut ps s0 (execStale n s) := by
  unfold execStale
  try dsimp only
  repeat' first
    | with_reducible assumption
    | with_reducible refine keeps_nodeRow _ _ _ ?_ (sub_trans (by decide) hP) (fun m t hK => ?_)
    | with_reducible refine KeepsSome.get (keeps_takeStale _ _ ?_ (sub_trans (by decide) hP)) (by assumption)
    | with_reducible refine keeps_takeStale _ _ ?_ (sub_trans (by decide) hP)
    | with_reducible refine keepsOut_next ?_
    | with_reducible refine keepsOut_whenOk ?_ ?_
    | split

theorem keeps_execHubEvent {ps : List Part} {s0 s : State} (src : Fin 2048)
    (hK : Keeps ps s0 s) (hP : sub [.hub] ps = true) :
    KeepsOut ps s0 (execHubEvent src s) := by
  unfold execHubEvent
  try dsimp only
  repeat' first
    | with_reducible assumption
    | with_reducible refine keeps_hubRaise _ ?_ (sub_trans (by decide) hP)
    | with_reducible refine keepsOut_next ?_
    | with_reducible refine keepsOut_whenOk ?_ ?_
    | split

theorem keeps_onSources {ps : List Part} {s0 s : State} (w : Nat) (v : Word) (f : Nat → State → State)
    (hK : Keeps ps s0 s) (hP : sub [] ps = true)
    (hf : ∀ k t, Keeps ps s0 t → Keeps ps s0 (f k t)) :
    Keeps ps s0 (onSources w v f s) := by
  unfold onSources
  try dsimp only
  repeat' first
    | with_reducible assumption
    | with_reducible refine hf _ _ ?_
    | with_reducible refine Keeps.upToSnd _ ?_ (fun a k hK => ?_)
    | with_reducible refine Keeps.upTo _ ?_ (fun t k hK => ?_)
    | split

theorem keeps_execIrqPendSet {ps : List Part} {s0 s : State} (m : Master) (w : Fin 32) (v : Word)
    (hK : Keeps ps s0 s) (hP : sub [.ledger, .faults, .hub] ps = true) :
    KeepsOut ps s0 (execIrqPendSet m w v s) := by
  unfold execIrqPendSet
  try dsimp only
  repeat' first
    | with_reducible assumption
    | with_reducible refine keeps_hubSet _ ?_ (sub_trans (by decide) hP)
    | with_reducible refine keeps_regWriteRow _ _ _ ?_ (sub_trans (by decide) hP) (fun t hK => ?_)
    | with_reducible refine keeps_onSources _ _ _ ?_ (sub_trans (by decide) hP) (fun k t hK => ?_)
    | with_reducible refine keepsOut_next ?_
    | with_reducible refine keepsOut_whenOk ?_ ?_
    | split

theorem keeps_execIrqPendClr {ps : List Part} {s0 s : State} (m : Master) (w : Fin 32) (v : Word)
    (hK : Keeps ps s0 s) (hP : sub [.ledger, .faults, .hub] ps = true) :
    KeepsOut ps s0 (execIrqPendClr m w v s) := by
  unfold execIrqPendClr
  try dsimp only
  repeat' first
    | with_reducible assumption
    | with_reducible refine keeps_hubClear _ ?_ (sub_trans (by decide) hP)
    | with_reducible refine keeps_regWriteRow _ _ _ ?_ (sub_trans (by decide) hP) (fun t hK => ?_)
    | with_reducible refine keeps_onSources _ _ _ ?_ (sub_trans (by decide) hP) (fun k t hK => ?_)
    | with_reducible refine keepsOut_next ?_
    | with_reducible refine keepsOut_whenOk ?_ ?_
    | split

theorem keeps_maskWrite {ps : List Part} {s0 s : State} (t : Nat) (w : Nat) (v : Word) (on : Bool)
    (hK : Keeps ps s0 s) (hP : sub [.hub] ps = true) :
    Keeps ps s0 (maskWrite t w v on s) := by
  unfold maskWrite
  try dsimp only
  repeat' first
    | with_reducible assumption
    | dsimp only [keeps_mk]
    | with_reducible refine KeepsMk.w_hub ?_ (sub_mem (by decide) hP)
    | split

theorem keeps_execIrqMaskSet {ps : List Part} {s0 s : State} (m : Master) (t : Fin 37) (w : Fin 32) (v : Word)
    (hK : Keeps ps s0 s) (hP : sub [.ledger, .faults, .hub] ps = true) :
    KeepsOut ps s0 (execIrqMaskSet m t w v s) := by
  unfold execIrqMaskSet
  try dsimp only
  repeat' first
    | with_reducible assumption
    | with_reducible refine keeps_maskWrite _ _ _ _ ?_ (sub_trans (by decide) hP)
    | with_reducible refine keeps_regWriteRow _ _ _ ?_ (sub_trans (by decide) hP) (fun t hK => ?_)
    | with_reducible refine keepsOut_next ?_
    | with_reducible refine keepsOut_whenOk ?_ ?_
    | split

theorem keeps_execIrqMaskClr {ps : List Part} {s0 s : State} (m : Master) (t : Fin 37) (w : Fin 32) (v : Word)
    (hK : Keeps ps s0 s) (hP : sub [.ledger, .faults, .hub] ps = true) :
    KeepsOut ps s0 (execIrqMaskClr m t w v s) := by
  unfold execIrqMaskClr
  try dsimp only
  repeat' first
    | with_reducible assumption
    | with_reducible refine keeps_maskWrite _ _ _ _ ?_ (sub_trans (by decide) hP)
    | with_reducible refine keeps_regWriteRow _ _ _ ?_ (sub_trans (by decide) hP) (fun t hK => ?_)
    | with_reducible refine keepsOut_next ?_
    | with_reducible refine keepsOut_whenOk ?_ ?_
    | split

theorem keeps_claimRead {ps : List Part} {s0 s : State} (m : Master) (t : Nat)
    (hK : Keeps ps s0 s) (hP : sub [.hub, .out] ps = true) :
    Keeps ps s0 (claimRead m t s) := by
  unfold claimRead
  try dsimp only
  repeat' first
    | with_reducible assumption
    | dsimp only [keeps_mk]
    | with_reducible refine KeepsMk.w_hub ?_ (sub_mem (by decide) hP)
    | with_reducible refine keeps_hubTake _ ?_ (sub_trans (by decide) hP)
    | with_reducible refine keeps_emit _ ?_ (sub_trans (by decide) hP)
    | split

theorem keeps_execIrqClaim {ps : List Part} {s0 s : State} (m : Master) (t : Fin 37)
    (hK : Keeps ps s0 s) (hP : sub [.hub, .out] ps = true) :
    KeepsOut ps s0 (execIrqClaim m t s) := by
  unfold execIrqClaim
  try dsimp only
  repeat' first
    | with_reducible assumption
    | with_reducible refine keeps_claimRead _ _ ?_ (sub_trans (by decide) hP)
    | with_reducible refine keepsOut_next ?_
    | with_reducible refine keepsOut_whenOk ?_ ?_
    | split

end Sys2Proof.Laws
end

