-- ==== Sys2Proof/Laws/KeepsNutas.lean ====
section
/-! SUPPORT. What each operation of Nutas and its commands, the assayer and the fault log may write, and that it
    keeps the
invariant: one lemma per operation, which its callers cite. -/

set_option linter.unreachableTactic false
set_option linter.unusedTactic false

namespace Sys2Proof.Laws

open Sys2Proof Sys2Proof.Machine

theorem keeps_setMbx {ps : List Part} {s0 s : State} (m : Nat) (v : Mbx)
    (hK : Keeps ps s0 s) (hP : sub [.mbxs] ps = true)
    (hh : (mbxOf s m).held.length ≤ 16 → v.held.length ≤ 16) :
    Keeps ps s0 (setMbx m v s) := by
  unfold setMbx
  dsimp only [keeps_mk]
  refine KeepsMk.w_mbxs hK (sub_mem (by decide) hP) fun h k => ?_
  rw [tblGet_tblSet]
  split
  · exact hh (h m)
  · exact h k

theorem keeps_modMbx {ps : List Part} {s0 s : State} (m : Nat) (f : Mbx → Mbx)
    (hK : Keeps ps s0 s) (hP : sub [.mbxs] ps = true)
    (hh : (mbxOf s m).held.length ≤ 16 → (f (mbxOf s m)).held.length ≤ 16) :
    Keeps ps s0 (modMbx m f s) := by
  unfold modMbx
  exact keeps_setMbx _ _ hK (sub_trans (by decide) hP) hh

theorem keeps_modNutas {ps : List Part} {s0 s : State} (f : Nutas → Nutas)
    (hK : Keeps ps s0 s) (hP : sub [.nutas] ps = true) :
    Keeps ps s0 (modNutas f s) := by
  unfold modNutas
  try dsimp only
  repeat' first
    | with_reducible assumption
    | dsimp only [keeps_mk]
    | with_reducible refine KeepsMk.w_nutas ?_ (sub_mem (by decide) hP)
    | split

theorem keeps_stopMbx {ps : List Part} {s0 s : State} (m : Nat) (code : Nat)
    (hK : Keeps ps s0 s) (hP : sub [.mbxs, .ledger, .faults, .hub] ps = true) :
    Keeps ps s0 (stopMbx m code s) := by
  unfold stopMbx
  try dsimp only
  repeat' first
    | with_reducible assumption
    | with_reducible refine keeps_hubRaise _ ?_ (sub_trans (by decide) hP)
    | (with_reducible refine keeps_modMbx _ _ ?_ (sub_trans (by decide) hP) (fun x => x))
    | (with_reducible refine keeps_modMbx _ _ ?_ (sub_trans (by decide) hP) (fun x => Nat.zero_le _))
    | with_reducible refine keeps_recordAt _ _ _ ?_ (sub_trans (by decide) hP)
    | split

theorem keeps_doorbell {ps : List Part} {s0 s : State} (m : Nat) (t : Nat)
    (hK : Keeps ps s0 s) (hP : sub [.mbxs, .ledger, .faults, .hub] ps = true) :
    Keeps ps s0 (doorbell m t s) := by
  unfold doorbell
  try dsimp only
  repeat' first
    | with_reducible assumption
    | with_reducible refine keeps_recordHostAt _ ?_ (sub_trans (by decide) hP)
    | (with_reducible refine keeps_modMbx _ _ ?_ (sub_trans (by decide) hP) (fun x => x))
    | (with_reducible refine keeps_modMbx _ _ ?_ (sub_trans (by decide) hP) (fun x => Nat.zero_le _))
    | with_reducible refine keeps_stopMbx _ _ ?_ (sub_trans (by decide) hP)
    | with_reducible refine keeps_recordAt _ _ _ ?_ (sub_trans (by decide) hP)
    | split

theorem keeps_execMbxDoorbell {ps : List Part} {s0 s : State} (mb : MbxN) (m : Master) (v : Word)
    (hK : Keeps ps s0 s) (hP : sub [.mbxs, .ledger, .faults, .hub] ps = true) :
    KeepsOut ps s0 (execMbxDoorbell mb m v s) := by
  unfold execMbxDoorbell
  try dsimp only
  repeat' first
    | with_reducible assumption
    | with_reducible refine keeps_doorbell _ _ ?_ (sub_trans (by decide) hP)
    | with_reducible refine keeps_regWriteRow _ _ _ ?_ (sub_trans (by decide) hP) (fun t hK => ?_)
    | with_reducible refine keepsOut_next ?_
    | with_reducible refine keepsOut_whenOk ?_ ?_
    | split

theorem keeps_mbxZero {ps : List Part} {s0 s : State} (m : Nat)
    (hK : Keeps ps s0 s) (hP : sub [.mbxs, .mgmt] ps = true) :
    Keeps ps s0 (mbxZero m s) := by
  unfold mbxZero
  try dsimp only
  repeat' first
    | with_reducible assumption
    | dsimp only [keeps_mk]
    | with_reducible refine KeepsMk.w_mgmt ?_ (sub_mem (by decide) hP)
    | (with_reducible refine keeps_modMbx _ _ ?_ (sub_trans (by decide) hP) (fun x => x))
    | (with_reducible refine keeps_modMbx _ _ ?_ (sub_trans (by decide) hP) (fun x => Nat.zero_le _))
    | split

theorem keeps_mbxRst {ps : List Part} {s0 s : State} (m : Nat)
    (hK : Keeps ps s0 s) (hP : sub [.mbxs, .nutas, .mgmt] ps = true) :
    Keeps ps s0 (mbxRst m s) := by
  unfold mbxRst
  try dsimp only
  repeat' first
    | with_reducible assumption
    | with_reducible refine keeps_modNutas _ ?_ (sub_trans (by decide) hP)
    | (with_reducible refine keeps_modMbx _ _ ?_ (sub_trans (by decide) hP) (fun x => x))
    | (with_reducible refine keeps_modMbx _ _ ?_ (sub_trans (by decide) hP) (fun x => Nat.zero_le _))
    | with_reducible refine keeps_mbxZero _ ?_ (sub_trans (by decide) hP)
    | split

theorem keeps_execMbxRst {ps : List Part} {s0 s : State} (mb : MbxN) (m : Master)
    (hK : Keeps ps s0 s) (hP : sub [.mbxs, .nutas, .ledger, .faults, .mgmt] ps = true) :
    KeepsOut ps s0 (execMbxRst mb m s) := by
  unfold execMbxRst
  try dsimp only
  repeat' first
    | with_reducible assumption
    | with_reducible refine keeps_mbxRst _ ?_ (sub_trans (by decide) hP)
    | with_reducible refine keeps_regWriteRow _ _ _ ?_ (sub_trans (by decide) hP) (fun t hK => ?_)
    | with_reducible refine keepsOut_next ?_
    | with_reducible refine keepsOut_whenOk ?_ ?_
    | split

theorem keeps_complete {ps : List Part} {s0 s : State} (num : Nat) (status : Nat) (r0 : Word) (r1 : Word)
    (hK : Keeps ps s0 s) (hP : sub [.mbxs, .nutas, .mgmt] ps = true) :
    Keeps ps s0 (complete num status r0 r1 s) := by
  unfold complete
  try dsimp only
  repeat' first
    | with_reducible assumption
    | with_reducible refine keeps_modNutas _ ?_ (sub_trans (by decide) hP)
    | with_reducible refine keeps_mbxZero _ ?_ (sub_trans (by decide) hP)
    | split

theorem keeps_inTick {ps : List Part} {s0 s : State} (t : BitVec 48) (f : State → State)
    (hK : Keeps ps s0 s) (hP : sub [.clock] ps = true)
    (hf : ∀ t, Keeps ps s0 t → Keeps ps s0 (f t)) :
    Keeps ps s0 (inTick t f s) := by
  unfold inTick
  try dsimp only
  repeat' first
    | with_reducible assumption
    | dsimp only [keeps_mk]
    | with_reducible refine KeepsMk.w_clock ?_ (sub_mem (by decide) hP) (fun x => x)
    | with_reducible refine hf _ ?_
    | split

theorem keeps_dropWait {ps : List Part} {s0 s : State} (p : Waits → Bool)
    (hK : Keeps ps s0 s) (hP : sub [.nutas] ps = true) :
    Keeps ps s0 (dropWait p s) := by
  unfold dropWait
  try dsimp only
  repeat' first
    | with_reducible assumption
    | with_reducible refine keeps_modNutas _ ?_ (sub_trans (by decide) hP)
    | split

theorem keeps_endBad {ps : List Part} {s0 s : State} (m : Nat)
    (hK : Keeps ps s0 s) (hP : sub [.mbxs, .nutas, .mgmt] ps = true) :
    Keeps ps s0 (endBad m s) := by
  unfold endBad
  try dsimp only
  repeat' first
    | with_reducible assumption
    | with_reducible refine keeps_complete _ _ _ _ ?_ (sub_trans (by decide) hP)
    | with_reducible refine Keeps.upToSnd _ ?_ (fun a k hK => ?_)
    | with_reducible refine Keeps.upTo _ ?_ (fun t k hK => ?_)
    | split

theorem keeps_execMailboxEntryRead {ps : List Part} {s0 s : State} (mb : MbxN) (entry : BitVec 512) (ok : Bool)
    (hK : Keeps ps s0 s) (hP : sub [.mbxs, .nutas, .ledger, .faults, .hub, .asy, .mgmt, .out] ps = true) :
    KeepsOut ps s0 (execMailboxEntryRead mb entry ok s) := by
  unfold execMailboxEntryRead
  try dsimp only
  repeat' first
    | with_reducible assumption
    | dsimp only [keeps_mk]
    | with_reducible refine KeepsMk.w_nutas ?_ (sub_mem (by decide) hP)
    | with_reducible refine keeps_countEv _ _ _ ?_ (sub_trans (by decide) hP)
    | with_reducible refine keeps_emit _ ?_ (sub_trans (by decide) hP)
    | (with_reducible refine keeps_modMbx _ _ ?_ (sub_trans (by decide) hP) (fun x => x))
    | (with_reducible refine keeps_modMbx _ _ ?_ (sub_trans (by decide) hP) (fun x => Nat.zero_le _))
    | with_reducible refine keeps_stopMbx _ _ ?_ (sub_trans (by decide) hP)
    | with_reducible refine keeps_endBad _ ?_ (sub_trans (by decide) hP)
    | with_reducible refine keepsOut_next ?_
    | with_reducible refine keepsOut_whenOk ?_ ?_
    | split

theorem keeps_invalidTarget {ps : List Part} {s0 s : State} (pos : Nat)
    (hK : Keeps ps s0 s) (hP : sub [.ledger, .faults] ps = true) :
    Keeps ps s0 (invalidTarget pos s) := by
  unfold invalidTarget
  try dsimp only
  repeat' first
    | with_reducible assumption
    | with_reducible refine keeps_recordAddr _ _ _ _ ?_ (sub_trans (by decide) hP)
    | split

theorem keeps_commandWith {ps : List Part} {s0 s : State} (opc : Nat) (k : Nat) (used : List (Nat × Nat)) (checks :
    Cmd → State → List (Nat × Bool)) (need : Cmd → Option Nat) (data : Cmd → State → Option (Nat × Word)) (f : Cmd →
        State → CmdEnd)
    (hK : Keeps ps s0 s) (hP : sub [.mbxs, .nutas, .mgmt] ps = true)
    (hf : ∀ c t, Keeps ps s0 t → KeepsEnd ps s0 (f c t)) :
    KeepsOut ps s0 (commandWith opc k used checks need data f s) := by
  unfold commandWith
  split
  · exact keepsOut_next hK
  · refine keepsOut_whenOk hK ?_
    split
    · exact keeps_complete _ _ _ _ (keeps_modNutas _ hK (sub_trans (by decide) hP)) (sub_trans (by decide) hP)
    · rename_i c _ _ _
      have h := hf c _ (keeps_modNutas (fun n => { n with
        cmds := modFirst (fun x => x.num == k) (fun x => { x with started := true }) n.cmds }) hK (sub_trans (by
          decide) hP))
      split
      · rename_i he
        rw [he] at h
        exact keeps_complete _ _ _ _ h (sub_trans (by decide) hP)
      · rename_i he
        rw [he] at h
        exact h

theorem keeps_command {ps : List Part} {s0 s : State} (opc : Nat) (k : Nat) (used : List (Nat × Nat)) (checks : Cmd →
    State → List (Nat × Bool)) (need : Cmd → Option Nat) (f : Cmd → State → CmdEnd)
    (hK : Keeps ps s0 s) (hP : sub [.mbxs, .nutas, .mgmt] ps = true)
    (hf : ∀ c t, Keeps ps s0 t → KeepsEnd ps s0 (f c t)) :
    KeepsOut ps s0 (command opc k used checks need f s) := by
  exact keeps_commandWith _ _ _ _ _ _ _ hK (sub_trans (by decide) hP) hf

theorem keeps_locketLook {ps : List Part} {s0 s : State} (a : Nat) (n : Nat)
    (hK : Keeps ps s0 s) (hP : sub [.mem, .bezels, .ledger, .faults, .hub, .asy] ps = true) :
    Keeps ps s0 (locketLook a n s) := by
  unfold locketLook
  try dsimp only
  repeat' first
    | with_reducible assumption
    | with_reducible refine keeps_stackLook _ _ _ _ ?_ (sub_trans (by decide) hP)
    | with_reducible refine keeps_addReread _ _ ?_ (sub_trans (by decide) hP)
    | with_reducible refine keeps_countEv _ _ _ ?_ (sub_trans (by decide) hP)
    | with_reducible refine keeps_hubRaise _ ?_ (sub_trans (by decide) hP)
    | with_reducible refine keeps_recordPart _ _ _ _ _ _ ?_ (sub_trans (by decide) hP)
    | with_reducible refine Keeps.upToSnd _ ?_ (fun a k hK => ?_)
    | with_reducible refine Keeps.upTo _ ?_ (fun t k hK => ?_)
    | split

theorem keeps_locketStore {ps : List Part} {s0 s : State} (z : Nat) (x : Nat) (p : Nat) (part : List Byte)
    (hK : Keeps ps s0 s) (hP : sub [.fabric, .mem, .bezels, .ledger, .faults, .hub, .asy, .out] ps = true) :
    Keeps ps s0 (locketStore z x p part s) := by
  unfold locketStore
  try dsimp only
  repeat' first
    | with_reducible assumption
    | with_reducible refine keeps_snoop _ _ ?_ (sub_trans (by decide) hP)
    | with_reducible refine keeps_mergeUse _ _ _ ?_ (sub_trans (by decide) hP)
    | with_reducible refine keeps_countEv _ _ _ ?_ (sub_trans (by decide) hP)
    | with_reducible refine keeps_stackStore _ _ _ ?_ (sub_trans (by decide) hP)
    | with_reducible refine keeps_contribute _ _ _ ?_ (sub_trans (by decide) hP)
    | with_reducible refine keeps_modBezel _ _ ?_ (sub_trans (by decide) hP)
    | with_reducible refine Keeps.foldl _ ?_ (fun t a hK => ?_)
    | with_reducible refine Keeps.foldlSnd _ ?_ (fun a k hK => ?_)
    | split

theorem keeps_locketWrite {ps : List Part} {s0 s : State} (a : Nat) (l : List Byte)
    (hK : Keeps ps s0 s) (hP : sub [.fabric, .mem, .bezels, .ledger, .faults, .hub, .asy, .out] ps = true) :
    Keeps ps s0 (locketWrite a l s) := by
  unfold locketWrite
  try dsimp only
  repeat' first
    | with_reducible assumption
    | with_reducible refine keeps_locketStore _ _ _ _ ?_ (sub_trans (by decide) hP)
    | with_reducible refine Keeps.upToSnd _ ?_ (fun a k hK => ?_)
    | with_reducible refine Keeps.upTo _ ?_ (fun t k hK => ?_)
    | split

theorem keeps_bufRead {ps : List Part} {s0 s : State} (b : Buf) (n : Nat) (host : List Byte)
    (hK : Keeps ps s0 s) (hP : sub [.mem, .bezels, .ledger, .faults, .hub, .asy] ps = true) :
    Keeps ps s0 (bufRead s b n host).2.2 := by
  unfold bufRead
  try dsimp only
  repeat' first
    | with_reducible assumption
    | with_reducible refine keeps_locketLook _ _ ?_ (sub_trans (by decide) hP)
    | split

theorem keeps_bufWrite {ps : List Part} {s0 s : State} (b : Buf) (l : List Byte)
    (hK : Keeps ps s0 s) (hP : sub [.fabric, .mem, .bezels, .ledger, .faults, .hub, .asy, .mgmt, .out] ps = true) :
    Keeps ps s0 (bufWrite b l s) := by
  unfold bufWrite
  try dsimp only
  repeat' first
    | with_reducible assumption
    | dsimp only [keeps_mk]
    | with_reducible refine KeepsMk.w_mgmt ?_ (sub_mem (by decide) hP)
    | with_reducible refine keeps_locketWrite _ _ ?_ (sub_trans (by decide) hP)
    | with_reducible refine keeps_emit _ ?_ (sub_trans (by decide) hP)
    | with_reducible refine Keeps.upToSnd _ ?_ (fun a k hK => ?_)
    | with_reducible refine Keeps.upTo _ ?_ (fun t k hK => ?_)
    | split

theorem keeps_raiseCpl {ps : List Part} {s0 s : State} (m : Nat) (c : Completion)
    (hK : Keeps ps s0 s) (hP : sub [.hub] ps = true) :
    Keeps ps s0 (raiseCpl m c s) := by
  unfold raiseCpl
  try dsimp only
  repeat' first
    | with_reducible assumption
    | with_reducible refine keeps_hubRaise _ ?_ (sub_trans (by decide) hP)
    | split

theorem keeps_tailOn {ps : List Part} {s0 s : State} (m : Nat) (n : Nat)
    (hK : Keeps ps s0 s) (hP : sub [.mbxs] ps = true) :
    Keeps ps s0 (tailOn m n s) := by
  unfold tailOn
  try dsimp only
  repeat' first
    | with_reducible assumption
    | (with_reducible refine keeps_modMbx _ _ ?_ (sub_trans (by decide) hP) (fun x => x))
    | (with_reducible refine keeps_modMbx _ _ ?_ (sub_trans (by decide) hP) (fun x => Nat.zero_le _))
    | split

theorem keeps_writeCompletion {ps : List Part} {s0 s : State} (m : MbxN) (c : Completion)
    (hK : Keeps ps s0 s) (hP : sub [.mbxs, .hub, .mgmt, .out] ps = true) :
    Keeps ps s0 (writeCompletion m c s) := by
  unfold writeCompletion
  try dsimp only
  repeat' first
    | with_reducible assumption
    | dsimp only [keeps_mk]
    | with_reducible refine KeepsMk.w_mgmt ?_ (sub_mem (by decide) hP)
    | with_reducible refine keeps_raiseCpl _ _ ?_ (sub_trans (by decide) hP)
    | with_reducible refine keeps_emit _ ?_ (sub_trans (by decide) hP)
    | with_reducible refine keeps_tailOn _ _ ?_ (sub_trans (by decide) hP)
    | split

theorem keeps_writePair {ps : List Part} {s0 s : State} (m : MbxN) (c : Completion) (d : Completion)
    (hK : Keeps ps s0 s) (hP : sub [.mbxs, .hub, .out] ps = true) :
    Keeps ps s0 (writePair m c d s) := by
  unfold writePair
  try dsimp only
  repeat' first
    | with_reducible assumption
    | with_reducible refine keeps_raiseCpl _ _ ?_ (sub_trans (by decide) hP)
    | with_reducible refine keeps_emit _ ?_ (sub_trans (by decide) hP)
    | with_reducible refine keeps_tailOn _ _ ?_ (sub_trans (by decide) hP)
    | split

theorem keeps_sendReady {ps : List Part} {s0 s : State} (mb : MbxN) (ok : Bool) (c : Completion)
    (hK : Keeps ps s0 s) (hP : sub [.mbxs, .nutas, .ledger, .faults, .hub, .mgmt, .out] ps = true) :
    Keeps ps s0 (sendReady mb ok c s) := by
  unfold sendReady
  dsimp only
  have hready := keeps_modNutas (fun n => { n with ready := dropFirst (fun x => x.mbx.val == mb.val) n.ready }) hK
    (sub_trans (b := [.mbxs, .nutas, .ledger, .faults, .hub, .mgmt, .out]) (by decide) hP)
  split
  · split
    · rename_i hlt
      refine keeps_modMbx _ _ hready (sub_trans (by decide) hP) fun _ => ?_
      simp only [List.length_append, List.length_singleton]
      have : (mbxOf s mb.val).held.length < 16 := by simpa using hlt
      exact this
    · exact hK
  · split
    · exact keeps_writeCompletion _ _ hready (sub_trans (by decide) hP)
    · exact keeps_stopMbx _ _ hready (sub_trans (by decide) hP)

theorem keeps_execMailboxCompletionWrite {ps : List Part} {s0 s : State} (mb : MbxN) (ok : Bool)
    (hK : Keeps ps s0 s) (hP : sub [.mbxs, .nutas, .ledger, .faults, .hub, .mgmt, .out] ps = true) :
    KeepsOut ps s0 (execMailboxCompletionWrite mb ok s) := by
  unfold execMailboxCompletionWrite
  try dsimp only
  repeat' first
    | with_reducible assumption
    | with_reducible refine keeps_sendReady _ _ _ ?_ (sub_trans (by decide) hP)
    | with_reducible refine keeps_endBad _ ?_ (sub_trans (by decide) hP)
    | with_reducible refine keepsOut_next ?_
    | with_reducible refine keepsOut_whenOk ?_ ?_
    | split

theorem keeps_heldStep {ps : List Part} {s0 s : State} (m : MbxN)
    (hK : Keeps ps s0 s) (hP : sub [.mbxs, .hub, .mgmt, .out] ps = true) :
    Keeps ps s0 (heldStep m s) := by
  unfold heldStep
  dsimp only
  have hrest (n : Nat) : Keeps ps s0 (modMbx m.val (fun x => { x with held := x.held.drop n }) s) :=
    keeps_modMbx _ _ hK (sub_trans (by decide) hP) fun hl => le_trans (by simp) hl
  repeat' first
    | exact hK
    | exact keeps_writeCompletion _ _ (hrest _) (sub_trans (by decide) hP)
    | exact keeps_writePair _ _ _ (hrest _) (sub_trans (by decide) hP)
    | split

theorem keeps_writeHeld {ps : List Part} {s0 s : State} (m : MbxN) (ok : Bool)
    (hK : Keeps ps s0 s) (hP : sub [.mbxs, .ledger, .faults, .hub, .mgmt, .out] ps = true) :
    Keeps ps s0 (writeHeld m ok s) := by
  unfold writeHeld
  split
  · exact Keeps.upTo _ hK fun t k hK => keeps_heldStep _ hK (sub_trans (by decide) hP)
  · split
    · exact hK
    · exact keeps_stopMbx _ _ (keeps_modMbx _ _ hK (sub_trans (by decide) hP) fun hl => le_trans (by simp) hl)
        (sub_trans (by decide) hP)

theorem keeps_readIndex {ps : List Part} {s0 s : State} (m : Nat) (i : IndexRead)
    (hK : Keeps ps s0 s) (hP : sub [.host, .mbxs, .out] ps = true) :
    Keeps ps s0 (readIndex m i s) := by
  unfold readIndex
  try dsimp only
  repeat' first
    | with_reducible assumption
    | with_reducible refine keeps_cacheShared _ ?_ (sub_trans (by decide) hP)
    | with_reducible refine keeps_emit _ ?_ (sub_trans (by decide) hP)
    | (with_reducible refine keeps_modMbx _ _ ?_ (sub_trans (by decide) hP) (fun x => x))
    | (with_reducible refine keeps_modMbx _ _ ?_ (sub_trans (by decide) hP) (fun x => Nat.zero_le _))
    | split

theorem keeps_execHeldCompletionWrite {ps : List Part} {s0 s : State} (mb : MbxN) (index : IndexRead)
    (hK : Keeps ps s0 s) (hP : sub [.host, .mbxs, .ledger, .faults, .hub, .mgmt, .out] ps = true) :
    KeepsOut ps s0 (execHeldCompletionWrite mb index s) := by
  unfold execHeldCompletionWrite
  try dsimp only
  repeat' first
    | with_reducible assumption
    | with_reducible refine keeps_writeHeld _ _ ?_ (sub_trans (by decide) hP)
    | with_reducible refine keeps_readIndex _ _ ?_ (sub_trans (by decide) hP)
    | with_reducible refine keepsOut_next ?_
    | with_reducible refine keepsOut_whenOk ?_ ?_
    | split

theorem keeps_execNop {ps : List Part} {s0 s : State} (k : Nat)
    (hK : Keeps ps s0 s) (hP : sub [.mbxs, .nutas, .mgmt] ps = true) :
    KeepsOut ps s0 (execNop k s) := by
  unfold execNop
  try dsimp only
  repeat' first
    | with_reducible assumption
    | with_reducible refine keeps_command _ _ _ _ _ _ ?_ (sub_trans (by decide) hP) (fun c t hK => ?_)
    | with_reducible refine keepsOut_next ?_
    | with_reducible refine keepsOut_whenOk ?_ ?_
    | with_reducible refine keepsEnd_done ?_
    | with_reducible refine keepsEnd_wait ?_
    | split

theorem keeps_execIdentify {ps : List Part} {s0 s : State} (k : Nat)
    (hK : Keeps ps s0 s) (hP : sub [.fabric, .mem, .bezels, .mbxs, .nutas, .ledger, .faults, .hub, .asy, .mgmt, .out]
        ps = true) :
    KeepsOut ps s0 (execIdentify k s) := by
  unfold execIdentify
  try dsimp only
  repeat' first
    | with_reducible assumption
    | with_reducible refine keeps_command _ _ _ _ _ _ ?_ (sub_trans (by decide) hP) (fun c t hK => ?_)
    | with_reducible refine keeps_bufWrite _ _ ?_ (sub_trans (by decide) hP)
    | with_reducible refine keepsOut_next ?_
    | with_reducible refine keepsOut_whenOk ?_ ?_
    | with_reducible refine keepsEnd_done ?_
    | with_reducible refine keepsEnd_wait ?_
    | split

theorem keeps_execStatus {ps : List Part} {s0 s : State} (k : Nat)
    (hK : Keeps ps s0 s) (hP : sub [.mbxs, .nutas, .mgmt] ps = true) :
    KeepsOut ps s0 (execStatus k s) := by
  unfold execStatus
  try dsimp only
  repeat' first
    | with_reducible assumption
    | with_reducible refine keeps_command _ _ _ _ _ _ ?_ (sub_trans (by decide) hP) (fun c t hK => ?_)
    | with_reducible refine keepsOut_next ?_
    | with_reducible refine keepsOut_whenOk ?_ ?_
    | with_reducible refine keepsEnd_done ?_
    | with_reducible refine keepsEnd_wait ?_
    | split

theorem keeps_execPosmap {ps : List Part} {s0 s : State} (k : Nat)
    (hK : Keeps ps s0 s) (hP : sub [.fabric, .mem, .bezels, .mbxs, .nutas, .ledger, .faults, .hub, .asy, .mgmt, .out]
        ps = true) :
    KeepsOut ps s0 (execPosmap k s) := by
  unfold execPosmap
  try dsimp only
  repeat' first
    | with_reducible assumption
    | with_reducible refine keeps_command _ _ _ _ _ _ ?_ (sub_trans (by decide) hP) (fun c t hK => ?_)
    | with_reducible refine keeps_bufWrite _ _ ?_ (sub_trans (by decide) hP)
    | with_reducible refine keepsOut_next ?_
    | with_reducible refine keepsOut_whenOk ?_ ?_
    | with_reducible refine keepsEnd_done ?_
    | with_reducible refine keepsEnd_wait ?_
    | split

theorem keeps_execCohortRead {ps : List Part} {s0 s : State} (k : Nat)
    (hK : Keeps ps s0 s) (hP : sub [.fabric, .mem, .bezels, .mbxs, .nutas, .ledger, .faults, .hub, .asy, .mgmt, .out]
        ps = true) :
    KeepsOut ps s0 (execCohortRead k s) := by
  unfold execCohortRead
  try dsimp only
  repeat' first
    | with_reducible assumption
    | with_reducible refine keeps_command _ _ _ _ _ _ ?_ (sub_trans (by decide) hP) (fun c t hK => ?_)
    | with_reducible refine keeps_bufWrite _ _ ?_ (sub_trans (by decide) hP)
    | with_reducible refine keepsOut_next ?_
    | with_reducible refine keepsOut_whenOk ?_ ?_
    | with_reducible refine keepsEnd_done ?_
    | with_reducible refine keepsEnd_wait ?_
    | split

theorem keeps_execLedgerRead {ps : List Part} {s0 s : State} (k : Nat)
    (hK : Keeps ps s0 s) (hP : sub [.fabric, .mem, .bezels, .mbxs, .nutas, .ledger, .faults, .hub, .asy, .mgmt, .out]
        ps = true) :
    KeepsOut ps s0 (execLedgerRead k s) := by
  unfold execLedgerRead
  try dsimp only
  repeat' first
    | with_reducible assumption
    | with_reducible refine keeps_command _ _ _ _ _ _ ?_ (sub_trans (by decide) hP) (fun c t hK => ?_)
    | with_reducible refine keeps_bufWrite _ _ ?_ (sub_trans (by decide) hP)
    | with_reducible refine keepsOut_next ?_
    | with_reducible refine keepsOut_whenOk ?_ ?_
    | with_reducible refine keepsEnd_done ?_
    | with_reducible refine keepsEnd_wait ?_
    | split

theorem keeps_waitFor {ps : List Part} {s0 s : State} (w : Waits)
    (hK : Keeps ps s0 s) (hP : sub [.nutas] ps = true) :
    Keeps ps s0 (waitFor w s) := by
  unfold waitFor
  try dsimp only
  repeat' first
    | with_reducible assumption
    | with_reducible refine keeps_modNutas _ ?_ (sub_trans (by decide) hP)
    | split

theorem keeps_execLedgerCtl {ps : List Part} {s0 s : State} (k : Nat)
    (hK : Keeps ps s0 s) (hP : sub [.mbxs, .nutas, .ledger, .mgmt] ps = true) :
    KeepsOut ps s0 (execLedgerCtl k s) := by
  unfold execLedgerCtl
  try dsimp only
  repeat' first
    | with_reducible assumption
    | dsimp only [keeps_mk]
    | with_reducible refine KeepsMk.w_ledger ?_ (sub_mem (by decide) hP) (fun x => x)
    | with_reducible refine keeps_command _ _ _ _ _ _ ?_ (sub_trans (by decide) hP) (fun c t hK => ?_)
    | with_reducible refine keeps_waitFor _ ?_ (sub_trans (by decide) hP)
    | with_reducible refine keepsOut_next ?_
    | with_reducible refine keepsOut_whenOk ?_ ?_
    | with_reducible refine keepsEnd_done ?_
    | with_reducible refine keepsEnd_wait ?_
    | split

theorem keeps_execFltRead {ps : List Part} {s0 s : State} (k : Nat)
    (hK : Keeps ps s0 s) (hP : sub [.fabric, .mem, .bezels, .mbxs, .nutas, .ledger, .faults, .hub, .asy, .mgmt, .out]
        ps = true) :
    KeepsOut ps s0 (execFltRead k s) := by
  unfold execFltRead
  try dsimp only
  repeat' first
    | with_reducible assumption
    | dsimp only [keeps_mk]
    | with_reducible refine KeepsMk.w_faults ?_ (sub_mem (by decide) hP) (fun x => x) (fun x => x)
    | with_reducible refine keeps_command _ _ _ _ _ _ ?_ (sub_trans (by decide) hP) (fun c t hK => ?_)
    | with_reducible refine keeps_bufWrite _ _ ?_ (sub_trans (by decide) hP)
    | with_reducible refine keepsOut_next ?_
    | with_reducible refine keepsOut_whenOk ?_ ?_
    | with_reducible refine keepsEnd_done ?_
    | with_reducible refine keepsEnd_wait ?_
    | split

theorem keeps_execFltAck {ps : List Part} {s0 s : State} (k : Nat)
    (hK : Keeps ps s0 s) (hP : sub [.mbxs, .nutas, .faults, .hub, .mgmt] ps = true) :
    KeepsOut ps s0 (execFltAck k s) := by
  unfold execFltAck
  try dsimp only
  repeat' first
    | with_reducible assumption
    | dsimp only [keeps_mk]
    | with_reducible refine KeepsMk.w_faults ?_ (sub_mem (by decide) hP) (fun x => x) (fun x => x)
    | with_reducible refine keeps_command _ _ _ _ _ _ ?_ (sub_trans (by decide) hP) (fun c t hK => ?_)
    | with_reducible refine keeps_highWater ?_ (sub_trans (by decide) hP)
    | with_reducible refine keepsOut_next ?_
    | with_reducible refine keepsOut_whenOk ?_ ?_
    | with_reducible refine keepsEnd_done ?_
    | with_reducible refine keepsEnd_wait ?_
    | split

theorem keeps_withSetting {ps : List Part} {s0 s : State} (base : Nat)
    (hK : Keeps ps s0 s) (hP : sub [.fabric] ps = true) :
    Keeps ps s0 (withSetting s base) := by
  unfold withSetting
  try dsimp only
  repeat' first
    | with_reducible assumption
    | dsimp only [keeps_mk]
    | with_reducible refine KeepsMk.w_fabric ?_ (sub_mem (by decide) hP)
    | split

theorem keeps_setBundle {ps : List Part} {s0 s : State} (slot : Nat) (b : Option Bundle)
    (hK : Keeps ps s0 s) (hP : sub [.nutas] ps = true) :
    Keeps ps s0 (setBundle slot b s) := by
  unfold setBundle
  try dsimp only
  repeat' first
    | with_reducible assumption
    | with_reducible refine keeps_modNutas _ ?_ (sub_trans (by decide) hP)
    | split

theorem keeps_execLoadBundle {ps : List Part} {s0 s : State} (k : Nat)
    (hK : Keeps ps s0 s) (hP : sub [.fabric, .mem, .bezels, .mbxs, .nutas, .ledger, .faults, .hub, .asy, .mgmt] ps =
        true) :
    KeepsOut ps s0 (execLoadBundle k s) := by
  unfold execLoadBundle
  try dsimp only
  repeat' first
    | with_reducible assumption
    | with_reducible refine keeps_invalidTarget _ ?_ (sub_trans (by decide) hP)
    | with_reducible refine keeps_setBundle _ _ ?_ (sub_trans (by decide) hP)
    | with_reducible refine keeps_command _ _ _ _ _ _ ?_ (sub_trans (by decide) hP) (fun c t hK => ?_)
    | with_reducible refine keeps_locketLook _ _ ?_ (sub_trans (by decide) hP)
    | with_reducible refine keepsOut_next ?_
    | with_reducible refine keepsOut_whenOk ?_ ?_
    | with_reducible refine keepsEnd_done ?_
    | with_reducible refine keepsEnd_wait ?_
    | split

theorem keeps_execDropBundle {ps : List Part} {s0 s : State} (k : Nat)
    (hK : Keeps ps s0 s) (hP : sub [.mbxs, .nutas, .mgmt] ps = true) :
    KeepsOut ps s0 (execDropBundle k s) := by
  unfold execDropBundle
  try dsimp only
  repeat' first
    | with_reducible assumption
    | with_reducible refine keeps_setBundle _ _ ?_ (sub_trans (by decide) hP)
    | with_reducible refine keeps_command _ _ _ _ _ _ ?_ (sub_trans (by decide) hP) (fun c t hK => ?_)
    | with_reducible refine keepsOut_next ?_
    | with_reducible refine keepsOut_whenOk ?_ ?_
    | with_reducible refine keepsEnd_done ?_
    | with_reducible refine keepsEnd_wait ?_
    | split

theorem keeps_writeRecs {ps : List Part} {s0 s : State} (z : Nat) (first : Nat) (bytes : List (List Byte))
    (hK : Keeps ps s0 s) (hP : sub [.mem, .bezels, .ledger, .faults, .hub, .asy] ps = true) :
    Keeps ps s0 (writeRecs z first bytes s) := by
  unfold writeRecs
  try dsimp only
  repeat' first
    | with_reducible assumption
    | with_reducible refine keeps_openRec _ _ ?_ (sub_trans (by decide) hP)
    | with_reducible refine keeps_setRec _ _ _ ?_ (sub_trans (by decide) hP)
    | with_reducible refine Keeps.upToSnd _ ?_ (fun a k hK => ?_)
    | with_reducible refine Keeps.upTo _ ?_ (fun t k hK => ?_)
    | split

theorem keeps_redBuf {ps : List Part} {s0 s : State} (c : Cmd) (buf : List Byte)
    (hK : Keeps ps s0 s) (hP : sub [.mem, .bezels, .ledger, .faults, .hub, .asy] ps = true) :
    Keeps ps s0 (redBuf c buf s).2.2 := by
  unfold redBuf
  try dsimp only
  repeat' first
    | with_reducible assumption
    | with_reducible refine keeps_bufRead _ _ _ ?_ (sub_trans (by decide) hP)
    | split

theorem keeps_execRedWrite {ps : List Part} {s0 s : State} (k : Nat) (buf : List Byte)
    (hK : Keeps ps s0 s) (hP : sub [.mem, .bezels, .mbxs, .nutas, .ledger, .faults, .hub, .asy, .mgmt] ps = true) :
    KeepsOut ps s0 (execRedWrite k buf s) := by
  unfold execRedWrite
  try dsimp only
  repeat' first
    | with_reducible assumption
    | with_reducible refine keeps_writeRecs _ _ _ ?_ (sub_trans (by decide) hP)
    | with_reducible refine keeps_redBuf _ _ ?_ (sub_trans (by decide) hP)
    | with_reducible refine keeps_commandWith _ _ _ _ _ _ _ ?_ (sub_trans (by decide) hP) (fun c t hK => ?_)
    | with_reducible refine keepsOut_next ?_
    | with_reducible refine keepsOut_whenOk ?_ ?_
    | with_reducible refine keepsEnd_done ?_
    | with_reducible refine keepsEnd_wait ?_
    | split

theorem keeps_execGenWrite {ps : List Part} {s0 s : State} (k : Nat)
    (hK : Keeps ps s0 s) (hP : sub [.bezels, .mbxs, .nutas, .mgmt] ps = true) :
    KeepsOut ps s0 (execGenWrite k s) := by
  unfold execGenWrite
  try dsimp only
  repeat' first
    | with_reducible assumption
    | with_reducible refine keeps_command _ _ _ _ _ _ ?_ (sub_trans (by decide) hP) (fun c t hK => ?_)
    | with_reducible refine keeps_modBezel _ _ ?_ (sub_trans (by decide) hP)
    | with_reducible refine keepsOut_next ?_
    | with_reducible refine keepsOut_whenOk ?_ ?_
    | with_reducible refine keepsEnd_done ?_
    | with_reducible refine keepsEnd_wait ?_
    | with_reducible refine Keeps.foldl _ ?_ (fun t a hK => ?_)
    | with_reducible refine Keeps.foldlSnd _ ?_ (fun a k hK => ?_)
    | split

theorem keeps_execOptWrite {ps : List Part} {s0 s : State} (k : Nat) (buf : List Byte)
    (hK : Keeps ps s0 s) (hP : sub [.mem, .bezels, .mbxs, .nutas, .ledger, .faults, .hub, .asy, .mgmt] ps = true) :
    KeepsOut ps s0 (execOptWrite k buf s) := by
  unfold execOptWrite
  try dsimp only
  repeat' first
    | with_reducible assumption
    | with_reducible refine keeps_bufRead _ _ _ ?_ (sub_trans (by decide) hP)
    | with_reducible refine keeps_commandWith _ _ _ _ _ _ _ ?_ (sub_trans (by decide) hP) (fun c t hK => ?_)
    | with_reducible refine keeps_modBezel _ _ ?_ (sub_trans (by decide) hP)
    | with_reducible refine keepsOut_next ?_
    | with_reducible refine keepsOut_whenOk ?_ ?_
    | with_reducible refine keepsEnd_done ?_
    | with_reducible refine keepsEnd_wait ?_
    | with_reducible refine Keeps.foldl _ ?_ (fun t a hK => ?_)
    | with_reducible refine Keeps.foldlSnd _ ?_ (fun a k hK => ?_)
    | split

theorem keeps_execRedCfg {ps : List Part} {s0 s : State} (k : Nat)
    (hK : Keeps ps s0 s) (hP : sub [.bezels, .mbxs, .nutas, .mgmt] ps = true) :
    KeepsOut ps s0 (execRedCfg k s) := by
  unfold execRedCfg
  try dsimp only
  repeat' first
    | with_reducible assumption
    | with_reducible refine keeps_command _ _ _ _ _ _ ?_ (sub_trans (by decide) hP) (fun c t hK => ?_)
    | with_reducible refine keeps_modBezel _ _ ?_ (sub_trans (by decide) hP)
    | with_reducible refine keepsOut_next ?_
    | with_reducible refine keepsOut_whenOk ?_ ?_
    | with_reducible refine keepsEnd_done ?_
    | with_reducible refine keepsEnd_wait ?_
    | with_reducible refine Keeps.foldl _ ?_ (fun t a hK => ?_)
    | with_reducible refine Keeps.foldlSnd _ ?_ (fun a k hK => ?_)
    | split

theorem keeps_modPlan {ps : List Part} {s0 s : State} (f : Plan → Plan)
    (hK : Keeps ps s0 s) (hP : sub [.nutas] ps = true) :
    Keeps ps s0 (modPlan f s) := by
  unfold modPlan
  try dsimp only
  repeat' first
    | with_reducible assumption
    | with_reducible refine keeps_modNutas _ ?_ (sub_trans (by decide) hP)
    | split

theorem keeps_addLoad {ps : List Part} {s0 s : State} (l : Load)
    (hK : Keeps ps s0 s) (hP : sub [.nutas] ps = true) :
    Keeps ps s0 (addLoad l s) := by
  unfold addLoad
  try dsimp only
  repeat' first
    | with_reducible assumption
    | with_reducible refine keeps_modNutas _ ?_ (sub_trans (by decide) hP)
    | split

theorem keeps_completeWaits {ps : List Part} {s0 s : State} (p : Waits → Option Nat) (status : Nat) (r1 : Word)
    (hK : Keeps ps s0 s) (hP : sub [.mbxs, .nutas, .mgmt] ps = true) :
    Keeps ps s0 (completeWaits p status r1 s) := by
  unfold completeWaits
  try dsimp only
  repeat' first
    | with_reducible assumption
    | with_reducible refine keeps_dropWait _ ?_ (sub_trans (by decide) hP)
    | with_reducible refine keeps_complete _ _ _ _ ?_ (sub_trans (by decide) hP)
    | with_reducible refine Keeps.foldl _ ?_ (fun t a hK => ?_)
    | with_reducible refine Keeps.foldlSnd _ ?_ (fun a k hK => ?_)
    | split

theorem keeps_armTs {ps : List Part} {s0 s : State}
    (hK : Keeps ps s0 s) (hP : sub [.mmu] ps = true) :
    Keeps ps s0 (armTs s) := by
  unfold armTs
  try dsimp only
  repeat' first
    | with_reducible assumption
    | dsimp only [keeps_mk]
    | with_reducible refine KeepsMk.w_mmu ?_ (sub_mem (by decide) hP) (fun x => x)
    | split

theorem keeps_setCohort {ps : List Part} {s0 s : State} (a : Nat) (c : Cohort)
    (hK : Keeps ps s0 s) (hP : sub [.nutas] ps = true) :
    Keeps ps s0 (setCohort a c s) := by
  unfold setCohort
  try dsimp only
  repeat' first
    | with_reducible assumption
    | with_reducible refine keeps_modNutas _ ?_ (sub_trans (by decide) hP)
    | split

theorem keeps_execBind {ps : List Part} {s0 s : State} (k : Nat)
    (hK : Keeps ps s0 s) (hP : sub [.mbxs, .nutas, .mgmt] ps = true) :
    KeepsOut ps s0 (execBind k s) := by
  unfold execBind
  try dsimp only
  repeat' first
    | with_reducible assumption
    | with_reducible refine keeps_addLoad _ ?_ (sub_trans (by decide) hP)
    | with_reducible refine keeps_command _ _ _ _ _ _ ?_ (sub_trans (by decide) hP) (fun c t hK => ?_)
    | with_reducible refine keeps_waitFor _ ?_ (sub_trans (by decide) hP)
    | with_reducible refine keeps_setCohort _ _ ?_ (sub_trans (by decide) hP)
    | with_reducible refine keepsOut_next ?_
    | with_reducible refine keepsOut_whenOk ?_ ?_
    | with_reducible refine keepsEnd_done ?_
    | with_reducible refine keepsEnd_wait ?_
    | split

theorem keeps_execUnbind {ps : List Part} {s0 s : State} (k : Nat)
    (hK : Keeps ps s0 s) (hP : sub [.mbxs, .nutas, .mgmt] ps = true) :
    KeepsOut ps s0 (execUnbind k s) := by
  unfold execUnbind
  try dsimp only
  repeat' first
    | with_reducible assumption
    | with_reducible refine keeps_addLoad _ ?_ (sub_trans (by decide) hP)
    | with_reducible refine keeps_command _ _ _ _ _ _ ?_ (sub_trans (by decide) hP) (fun c t hK => ?_)
    | with_reducible refine keeps_waitFor _ ?_ (sub_trans (by decide) hP)
    | with_reducible refine keeps_setCohort _ _ ?_ (sub_trans (by decide) hP)
    | with_reducible refine keepsOut_next ?_
    | with_reducible refine keepsOut_whenOk ?_ ?_
    | with_reducible refine keepsEnd_done ?_
    | with_reducible refine keepsEnd_wait ?_
    | split

theorem keeps_settingLook {ps : List Part} {s0 t : State} (s : State) (b : Bundle) (base : Nat)
    (hK : Keeps ps s0 t) (hP : sub [.mem, .bezels, .ledger, .faults, .hub, .asy] ps = true) : Keeps ps s0
        (settingLook s b base t) :=
  Keeps.foldl _ (keeps_locketLook _ _ hK (sub_trans (by decide) hP)) fun _ _ hK => keeps_locketLook _ _ hK (sub_trans
      (by decide) hP)

theorem keeps_schedLook {ps : List Part} {s0 s : State} (b : Bundle) (k : Nat)
    (hK : Keeps ps s0 s) (hP : sub [.mem, .bezels, .ledger, .faults, .hub, .asy] ps = true) :
    Keeps ps s0 (schedLook b k s) := by
  unfold schedLook
  try dsimp only
  repeat' first
    | with_reducible assumption
    | with_reducible refine keeps_locketLook _ _ ?_ (sub_trans (by decide) hP)
    | split

theorem keeps_clearPlan {ps : List Part} {s0 s : State}
    (hK : Keeps ps s0 s) (hP : sub [.clock, .nutas] ps = true) :
    Keeps ps s0 (clearPlan s) := by
  unfold clearPlan
  try dsimp only
  repeat' first
    | with_reducible assumption
    | dsimp only [keeps_mk]
    | with_reducible refine KeepsMk.w_clock ?_ (sub_mem (by decide) hP) (fun x => x)
    | with_reducible refine keeps_modNutas _ ?_ (sub_trans (by decide) hP)
    | split

theorem keeps_settingFault {ps : List Part} {s0 s : State} (n : Nat) (pos : Nat)
    (hK : Keeps ps s0 s) (hP : sub [.clock, .fabric, .mbxs, .nutas, .ledger, .faults, .mgmt] ps = true) :
    Keeps ps s0 (settingFault n pos s) := by
  unfold settingFault
  try dsimp only
  repeat' first
    | with_reducible assumption
    | dsimp only [keeps_mk]
    | with_reducible refine KeepsMk.w_fabric ?_ (sub_mem (by decide) hP)
    | with_reducible refine keeps_complete _ _ _ _ ?_ (sub_trans (by decide) hP)
    | with_reducible refine keeps_clearPlan ?_ (sub_trans (by decide) hP)
    | with_reducible refine keeps_recordAt _ _ _ ?_ (sub_trans (by decide) hP)
    | with_reducible refine keeps_endService _ ?_ (sub_trans (by decide) hP)
    | split

theorem keeps_fillShadows {ps : List Part} {s0 t : State} (k : Nat) (b : Bundle) (s : State)
    (hK : Keeps ps s0 t) (hP : sub [.beads, .fabric, .clasps, .nutas] ps = true) :
    Keeps ps s0 (fillShadows k b s t) := by
  unfold fillShadows
  refine keeps_modPlan _ (Keeps.foldl _ ?_ fun t a hK => ?_) (sub_trans (by decide) hP)
  · dsimp only [keeps_mk]
    refine KeepsMk.over (s := t) (.inl rfl) (.inl rfl) (.inl rfl)
      (.inl rfl) (.inr (sub_mem (by decide) hP)) (.inr (sub_mem (by decide) hP)) (.inl rfl) (.inl rfl)
      (.inl rfl) (.inl rfl) (.inl rfl) (.inr (sub_mem (by decide) hP)) (.inl rfl) (.inl rfl)
      (.inl rfl) (.inl rfl) (.inl rfl)
      (.inl rfl) (.inl rfl) (.inl rfl)
      (.inl rfl) (.inl rfl) (.inl rfl) hK
  · split
    · split
      · exact keeps_modBead _ _ hK (sub_trans (by decide) hP)
      · exact hK
    · exact hK

theorem keeps_loadSetting {ps : List Part} {s0 t : State} (k : Nat) (b : Bundle) (bad : Option Nat) (s : State)
    (hK : Keeps ps s0 t) (hP : sub [.beads, .fabric, .clasps, .nutas, .clock, .ledger, .faults, .hub, .mbxs, .mgmt]
        ps = true) :
    Keeps ps s0 (loadSetting k b bad s t) := by
  cases bad with
  | none => exact keeps_fillShadows _ _ _ hK (sub_trans (by decide) hP)
  | some pos => exact keeps_settingFault _ _ hK (sub_trans (by decide) hP)

theorem keeps_writeSetting {ps : List Part} {s0 s : State} (k : Nat)
    (hK : Keeps ps s0 s) (hP : sub [.clock, .beads, .fabric, .clasps, .mem, .bezels, .mbxs, .nutas, .ledger, .faults,
        .hub, .asy, .mgmt] ps = true) :
    Keeps ps s0 (writeSetting k s) := by
  unfold writeSetting
  split
  · exact hK
  · exact keeps_loadSetting _ _ _ _ (keeps_settingLook _ _ _ hK (sub_trans (by decide) hP)) (sub_trans (by decide) hP)

theorem keeps_finishLoad {ps : List Part} {s0 s : State} (l : Load)
    (hK : Keeps ps s0 s) (hP : sub [.clock, .beads, .mmu, .fabric, .clasps, .mem, .bezels, .mbxs, .nutas, .ledger,
        .faults, .hub, .asy, .mgmt] ps = true) :
    Keeps ps s0 (finishLoad l s) := by
  unfold finishLoad
  try dsimp only
  repeat' first
    | with_reducible assumption
    | with_reducible refine keeps_writeSetting _ ?_ (sub_trans (by decide) hP)
    | with_reducible refine keeps_modBead _ _ ?_ (sub_trans (by decide) hP)
    | with_reducible refine keeps_modNutas _ ?_ (sub_trans (by decide) hP)
    | with_reducible refine keeps_completeWaits _ _ _ ?_ (sub_trans (by decide) hP)
    | with_reducible refine keeps_armTs ?_ (sub_trans (by decide) hP)
    | with_reducible refine Keeps.foldl _ ?_ (fun t a hK => ?_)
    | with_reducible refine Keeps.foldlSnd _ ?_ (fun a k hK => ?_)
    | split

theorem keeps_finishLoads {ps : List Part} {s0 s : State}
    (hK : Keeps ps s0 s) (hP : sub [.clock, .beads, .mmu, .fabric, .clasps, .mem, .bezels, .mbxs, .nutas, .ledger,
        .faults, .hub, .asy, .mgmt] ps = true) :
    Keeps ps s0 (finishLoads s) := by
  unfold finishLoads
  try dsimp only
  repeat' first
    | with_reducible assumption
    | with_reducible refine keeps_finishLoad _ ?_ (sub_trans (by decide) hP)
    | with_reducible refine keeps_modNutas _ ?_ (sub_trans (by decide) hP)
    | with_reducible refine Keeps.upToSnd _ ?_ (fun a k hK => ?_)
    | with_reducible refine Keeps.upTo _ ?_ (fun t k hK => ?_)
    | split

theorem keeps_loadStores {ps : List Part} {s0 s : State} (bank : Tbl Word)
    (hK : Keeps ps s0 s) (hP : sub [.clock, .beads, .mmu, .fabric, .clasps, .mem, .bezels, .mbxs, .nutas, .ledger,
        .faults, .hub, .asy, .mgmt] ps = true) :
    Keeps ps s0 (loadStores bank s) := by
  unfold loadStores
  try dsimp only
  repeat' first
    | with_reducible assumption
    | dsimp only [keeps_mk]
    | with_reducible refine KeepsMk.w_mmu ?_ (sub_mem (by decide) hP) (fun x => x)
    | with_reducible refine keeps_addLoad _ ?_ (sub_trans (by decide) hP)
    | with_reducible refine keeps_finishLoads ?_ (sub_trans (by decide) hP)
    | split

theorem keeps_loadProgram {ps : List Part} {s0 t : State} (k first last : Nat)
    (head u : List Byte × Option Nat × State) (hK : Keeps ps s0 t) (h1 : Keeps ps s0 head.2.2) (h2 : Keeps ps s0 u.2.2)
    (hP : sub [.clock, .beads, .mmu, .fabric, .clasps, .mem, .bezels, .mbxs, .nutas, .ledger, .faults, .hub, .asy,
        .mgmt] ps = true) :
    KeepsEnd ps s0 (loadProgram k first last head u t) := by
  unfold loadProgram
  dsimp only
  generalize imageOfBytes u.1 = img
  generalize liveIn t first last = live
  repeat' first
    | with_reducible assumption
    | with_reducible refine keepsEnd_done ?_
    | with_reducible refine keepsEnd_wait ?_
    | with_reducible refine keeps_waitFor _ ?_ (sub_trans (by decide) hP)
    | with_reducible refine keeps_finishLoads ?_ (sub_trans (by decide) hP)
    | with_reducible refine keeps_addLoad _ ?_ (sub_trans (by decide) hP)
    | with_reducible refine keeps_invalidTarget _ ?_ (sub_trans (by decide) hP)
    | split

theorem keeps_execLoadProgram {ps : List Part} {s0 s : State} (k : Nat) (buf : List Byte)
    (hK : Keeps ps s0 s) (hP : sub [.clock, .beads, .mmu, .fabric, .clasps, .mem, .bezels, .mbxs, .nutas, .ledger,
        .faults, .hub, .asy, .mgmt] ps = true) :
    KeepsOut ps s0 (execLoadProgram k buf s) := by
  unfold execLoadProgram
  refine keeps_commandWith _ _ _ _ _ _ _ hK (sub_trans (by decide) hP) fun c t hK => ?_
  exact keeps_loadProgram _ _ _ _ _ hK (keeps_bufRead _ _ _ hK (sub_trans (by decide) hP))
    (keeps_bufRead _ _ _ hK (sub_trans (by decide) hP)) (sub_trans (by decide) hP)

theorem keeps_beginStepLoad {ps : List Part} {s0 s : State} (b : Bundle) (k : Nat)
    (hK : Keeps ps s0 s) (hP : sub [.clock, .beads, .mmu, .fabric, .clasps, .mem, .bezels, .mbxs, .nutas, .ledger,
        .faults, .hub, .asy, .mgmt] ps = true) :
    Keeps ps s0 (beginStepLoad b k s) := by
  unfold beginStepLoad
  try dsimp only
  repeat' first
    | with_reducible assumption
    | dsimp only [keeps_mk]
    | with_reducible refine KeepsMk.w_fabric ?_ (sub_mem (by decide) hP)
    | with_reducible refine keeps_addLoad _ ?_ (sub_trans (by decide) hP)
    | with_reducible refine keeps_modPlan _ ?_ (sub_trans (by decide) hP)
    | with_reducible refine keeps_schedLook _ _ ?_ (sub_trans (by decide) hP)
    | with_reducible refine keeps_finishLoads ?_ (sub_trans (by decide) hP)
    | split

theorem keeps_execShadowLoad {ps : List Part} {s0 s : State} (granules : Nat)
    (hK : Keeps ps s0 s) (hP : sub [.clock, .beads, .mmu, .fabric, .clasps, .mem, .bezels, .mbxs, .nutas, .ledger,
        .faults, .hub, .asy, .mgmt] ps = true) :
    KeepsOut ps s0 (execShadowLoad granules s) := by
  unfold execShadowLoad
  try dsimp only
  repeat' first
    | with_reducible assumption
    | with_reducible refine keeps_modNutas _ ?_ (sub_trans (by decide) hP)
    | with_reducible refine keeps_finishLoads ?_ (sub_trans (by decide) hP)
    | with_reducible refine keepsOut_next ?_
    | with_reducible refine keepsOut_whenOk ?_ ?_
    | split

theorem keeps_endsLook {ps : List Part} {s0 s : State} (b : Bundle)
    (hK : Keeps ps s0 s) (hP : sub [.mem, .bezels, .ledger, .faults, .hub, .asy] ps = true) :
    Keeps ps s0 (endsLook b s) := by
  unfold endsLook
  try dsimp only
  repeat' first
    | with_reducible assumption
    | with_reducible refine keeps_locketLook _ _ ?_ (sub_trans (by decide) hP)
    | with_reducible refine Keeps.upToSnd _ ?_ (fun a k hK => ?_)
    | with_reducible refine Keeps.upTo _ ?_ (fun t k hK => ?_)
    | split

theorem keeps_execRun {ps : List Part} {s0 s : State} (k : Nat)
    (hK : Keeps ps s0 s) (hP : sub [.clock, .beads, .mmu, .fabric, .clasps, .mem, .bezels, .mbxs, .nutas, .ledger,
        .faults, .hub, .asy, .mgmt] ps = true) :
    KeepsOut ps s0 (execRun k s) := by
  unfold execRun
  try dsimp only
  repeat' first
    | with_reducible assumption
    | dsimp only [keeps_mk]
    | with_reducible refine KeepsMk.w_ledger ?_ (sub_mem (by decide) hP) (fun x => x)
    | with_reducible refine keeps_endsLook _ ?_ (sub_trans (by decide) hP)
    | with_reducible refine keeps_beginStepLoad _ _ ?_ (sub_trans (by decide) hP)
    | with_reducible refine keeps_invalidTarget _ ?_ (sub_trans (by decide) hP)
    | with_reducible refine keeps_command _ _ _ _ _ _ ?_ (sub_trans (by decide) hP) (fun c t hK => ?_)
    | with_reducible refine keeps_modPlan _ ?_ (sub_trans (by decide) hP)
    | with_reducible refine keepsOut_next ?_
    | with_reducible refine keepsOut_whenOk ?_ ?_
    | with_reducible refine keepsEnd_done ?_
    | with_reducible refine keepsEnd_wait ?_
    | split

theorem keeps_execStop {ps : List Part} {s0 s : State} (k : Nat)
    (hK : Keeps ps s0 s) (hP : sub [.clock, .mbxs, .nutas, .mgmt] ps = true) :
    KeepsOut ps s0 (execStop k s) := by
  unfold execStop
  try dsimp only
  repeat' first
    | with_reducible assumption
    | dsimp only [keeps_mk]
    | with_reducible refine KeepsMk.w_clock ?_ (sub_mem (by decide) hP) (fun x => x)
    | with_reducible refine keeps_command _ _ _ _ _ _ ?_ (sub_trans (by decide) hP) (fun c t hK => ?_)
    | with_reducible refine keeps_modPlan _ ?_ (sub_trans (by decide) hP)
    | with_reducible refine keeps_complete _ _ _ _ ?_ (sub_trans (by decide) hP)
    | with_reducible refine keeps_clearPlan ?_ (sub_trans (by decide) hP)
    | with_reducible refine keeps_waitFor _ ?_ (sub_trans (by decide) hP)
    | with_reducible refine keepsOut_next ?_
    | with_reducible refine keepsOut_whenOk ?_ ?_
    | with_reducible refine keepsEnd_done ?_
    | with_reducible refine keepsEnd_wait ?_
    | split

theorem keeps_mapEffect {ps : List Part} {s0 s : State} (map : Bool) (k : Nat) (c : Cmd)
    (hK : Keeps ps s0 s) (hP : sub [.clock, .beads, .mmu, .fabric, .clasps, .mem, .bezels, .mbxs, .nutas, .ledger,
        .faults, .hub, .asy, .mgmt] ps = true) :
    KeepsEnd ps s0 (mapEffect map k c s) := by
  unfold mapEffect
  try dsimp only
  repeat' first
    | with_reducible assumption
    | with_reducible refine keeps_waitFor _ ?_ (sub_trans (by decide) hP)
    | with_reducible refine keeps_loadStores _ ?_ (sub_trans (by decide) hP)
    | with_reducible refine keepsEnd_done ?_
    | with_reducible refine keepsEnd_wait ?_
    | split

theorem keeps_execMap {ps : List Part} {s0 s : State} (k : Nat)
    (hK : Keeps ps s0 s) (hP : sub [.clock, .beads, .mmu, .fabric, .clasps, .mem, .bezels, .mbxs, .nutas, .ledger,
        .faults, .hub, .asy, .mgmt] ps = true) :
    KeepsOut ps s0 (execMap k s) := by
  unfold execMap
  try dsimp only
  repeat' first
    | with_reducible assumption
    | with_reducible refine keeps_command _ _ _ _ _ _ ?_ (sub_trans (by decide) hP) (fun c t hK => ?_)
    | with_reducible refine keeps_mapEffect _ _ _ ?_ (sub_trans (by decide) hP)
    | with_reducible refine keepsOut_next ?_
    | with_reducible refine keepsOut_whenOk ?_ ?_
    | with_reducible refine keepsEnd_done ?_
    | with_reducible refine keepsEnd_wait ?_
    | split

theorem keeps_execUnmap {ps : List Part} {s0 s : State} (k : Nat)
    (hK : Keeps ps s0 s) (hP : sub [.clock, .beads, .mmu, .fabric, .clasps, .mem, .bezels, .mbxs, .nutas, .ledger,
        .faults, .hub, .asy, .mgmt] ps = true) :
    KeepsOut ps s0 (execUnmap k s) := by
  unfold execUnmap
  try dsimp only
  repeat' first
    | with_reducible assumption
    | with_reducible refine keeps_command _ _ _ _ _ _ ?_ (sub_trans (by decide) hP) (fun c t hK => ?_)
    | with_reducible refine keeps_mapEffect _ _ _ ?_ (sub_trans (by decide) hP)
    | with_reducible refine keepsOut_next ?_
    | with_reducible refine keepsOut_whenOk ?_ ?_
    | with_reducible refine keepsEnd_done ?_
    | with_reducible refine keepsEnd_wait ?_
    | split

theorem keeps_execWindow {ps : List Part} {s0 s : State} (k : Nat)
    (hK : Keeps ps s0 s) (hP : sub [.mmu, .mbxs, .nutas, .mgmt] ps = true) :
    KeepsOut ps s0 (execWindow k s) := by
  unfold execWindow
  try dsimp only
  repeat' first
    | with_reducible assumption
    | dsimp only [keeps_mk]
    | with_reducible refine KeepsMk.w_mmu ?_ (sub_mem (by decide) hP) (fun x => x)
    | with_reducible refine keeps_command _ _ _ _ _ _ ?_ (sub_trans (by decide) hP) (fun c t hK => ?_)
    | with_reducible refine keeps_waitFor _ ?_ (sub_trans (by decide) hP)
    | with_reducible refine keeps_armTs ?_ (sub_trans (by decide) hP)
    | with_reducible refine keepsOut_next ?_
    | with_reducible refine keepsOut_whenOk ?_ ?_
    | with_reducible refine keepsEnd_done ?_
    | with_reducible refine keepsEnd_wait ?_
    | split

theorem keeps_execSplit {ps : List Part} {s0 s : State} (k : Nat)
    (hK : Keeps ps s0 s) (hP : sub [.mem, .mbxs, .nutas, .mgmt] ps = true) :
    KeepsOut ps s0 (execSplit k s) := by
  unfold execSplit
  try dsimp only
  repeat' first
    | with_reducible assumption
    | dsimp only [keeps_mk]
    | with_reducible refine KeepsMk.w_mem ?_ (sub_mem (by decide) hP) (fun x => x)
    | with_reducible refine keeps_command _ _ _ _ _ _ ?_ (sub_trans (by decide) hP) (fun c t hK => ?_)
    | with_reducible refine keeps_waitFor _ ?_ (sub_trans (by decide) hP)
    | with_reducible refine keepsOut_next ?_
    | with_reducible refine keepsOut_whenOk ?_ ?_
    | with_reducible refine keepsEnd_done ?_
    | with_reducible refine keepsEnd_wait ?_
    | split

theorem keeps_splitTake {ps : List Part} {s0 s : State}
    (hK : Keeps ps s0 s) (hP : sub [.mem, .mbxs, .nutas, .mgmt] ps = true) :
    Keeps ps s0 (splitTake s) := by
  unfold splitTake
  try dsimp only
  repeat' first
    | with_reducible assumption
    | dsimp only [keeps_mk]
    | with_reducible refine KeepsMk.w_mem ?_ (sub_mem (by decide) hP) (fun x => x)
    | with_reducible refine keeps_completeWaits _ _ _ ?_ (sub_trans (by decide) hP)
    | split

theorem keeps_execSplitTakeEffect {ps : List Part} {s0 s : State}
    (hK : Keeps ps s0 s) (hP : sub [.mem, .mbxs, .nutas, .mgmt] ps = true) :
    KeepsOut ps s0 (execSplitTakeEffect s) := by
  unfold execSplitTakeEffect
  try dsimp only
  repeat' first
    | with_reducible assumption
    | with_reducible refine keeps_splitTake ?_ (sub_trans (by decide) hP)
    | with_reducible refine keepsOut_next ?_
    | with_reducible refine keepsOut_whenOk ?_ ?_
    | split

theorem keeps_execCntConfig {ps : List Part} {s0 s : State} (k : Nat) (buf : List Byte)
    (hK : Keeps ps s0 s) (hP : sub [.mem, .bezels, .mbxs, .nutas, .ledger, .faults, .hub, .asy, .mgmt] ps = true) :
    KeepsOut ps s0 (execCntConfig k buf s) := by
  unfold execCntConfig
  try dsimp only
  repeat' first
    | with_reducible assumption
    | dsimp only [keeps_mk]
    | with_reducible refine KeepsMk.w_asy ?_ (sub_mem (by decide) hP)
    | with_reducible refine keeps_bufRead _ _ _ ?_ (sub_trans (by decide) hP)
    | with_reducible refine keeps_commandWith _ _ _ _ _ _ _ ?_ (sub_trans (by decide) hP) (fun c t hK => ?_)
    | with_reducible refine keeps_waitFor _ ?_ (sub_trans (by decide) hP)
    | with_reducible refine keepsOut_next ?_
    | with_reducible refine keepsOut_whenOk ?_ ?_
    | with_reducible refine keepsEnd_done ?_
    | with_reducible refine keepsEnd_wait ?_
    | split

theorem keeps_execCntSnap {ps : List Part} {s0 s : State} (k : Nat)
    (hK : Keeps ps s0 s) (hP : sub [.mbxs, .nutas, .mgmt] ps = true) :
    KeepsOut ps s0 (execCntSnap k s) := by
  unfold execCntSnap
  try dsimp only
  repeat' first
    | with_reducible assumption
    | with_reducible refine keeps_command _ _ _ _ _ _ ?_ (sub_trans (by decide) hP) (fun c t hK => ?_)
    | with_reducible refine keeps_waitFor _ ?_ (sub_trans (by decide) hP)
    | with_reducible refine keepsOut_next ?_
    | with_reducible refine keepsOut_whenOk ?_ ?_
    | with_reducible refine keepsEnd_done ?_
    | with_reducible refine keepsEnd_wait ?_
    | split

theorem keeps_configTake {ps : List Part} {s0 s : State} (tick : BitVec 48)
    (hK : Keeps ps s0 s) (hP : sub [.asy] ps = true) :
    Keeps ps s0 (configTake tick s) := by
  unfold configTake
  try dsimp only
  repeat' first
    | with_reducible assumption
    | dsimp only [keeps_mk]
    | with_reducible refine KeepsMk.w_asy ?_ (sub_mem (by decide) hP)
    | split

theorem keeps_beginDump {ps : List Part} {s0 s : State}
    (hK : Keeps ps s0 s) (hP : sub [.fabric, .mem, .bezels, .ledger, .faults, .hub, .asy, .mgmt, .out] ps = true) :
    Keeps ps s0 (beginDump s) := by
  unfold beginDump
  try dsimp only
  repeat' first
    | with_reducible assumption
    | with_reducible refine keeps_bufWrite _ _ ?_ (sub_trans (by decide) hP)
    | split

theorem keeps_captured {ps : List Part} {s0 s : State} (tick : BitVec 48)
    (hK : Keeps ps s0 s) (hP : sub [.nutas, .asy, .free] ps = true) :
    Keeps ps s0 (captured tick s) := by
  unfold captured
  try dsimp only
  repeat' first
    | with_reducible assumption
    | dsimp only [keeps_mk]
    | with_reducible refine KeepsMk.w_asy ?_ (sub_mem (by decide) hP)
    | with_reducible refine keeps_drawn ?_ (sub_trans (by decide) hP)
    | with_reducible refine keeps_dropWait _ ?_ (sub_trans (by decide) hP)
    | with_reducible refine Keeps.foldl _ ?_ (fun t a hK => ?_)
    | with_reducible refine Keeps.foldlSnd _ ?_ (fun a k hK => ?_)
    | split

theorem keeps_captures {ps : List Part} {s0 s : State} (tick : BitVec 48)
    (hK : Keeps ps s0 s) (hP : sub [.fabric, .mem, .bezels, .nutas, .ledger, .faults, .hub, .asy, .mgmt, .out, .free]
        ps = true) :
    Keeps ps s0 (captures tick s) := by
  unfold captures
  try dsimp only
  repeat' first
    | with_reducible assumption
    | with_reducible refine keeps_beginDump ?_ (sub_trans (by decide) hP)
    | with_reducible refine keeps_captured _ ?_ (sub_trans (by decide) hP)
    | split

theorem keeps_writeDump {ps : List Part} {s0 s : State} (d : Dump)
    (hK : Keeps ps s0 s) (hP : sub [.fabric, .mem, .bezels, .mbxs, .nutas, .ledger, .faults, .hub, .asy, .mgmt, .out]
        ps = true) :
    Keeps ps s0 (writeDump d s) := by
  unfold writeDump
  try dsimp only
  repeat' first
    | with_reducible assumption
    | dsimp only [keeps_mk]
    | with_reducible refine KeepsMk.w_asy ?_ (sub_mem (by decide) hP)
    | with_reducible refine keeps_hubRaise _ ?_ (sub_trans (by decide) hP)
    | with_reducible refine keeps_bufWrite _ _ ?_ (sub_trans (by decide) hP)
    | with_reducible refine keeps_complete _ _ _ _ ?_ (sub_trans (by decide) hP)
    | split

theorem keeps_execDumpRecordWrite {ps : List Part} {s0 s : State}
    (hK : Keeps ps s0 s) (hP : sub [.fabric, .mem, .bezels, .mbxs, .nutas, .ledger, .faults, .hub, .asy, .mgmt, .out]
        ps = true) :
    KeepsOut ps s0 (execDumpRecordWrite s) := by
  unfold execDumpRecordWrite
  try dsimp only
  repeat' first
    | with_reducible assumption
    | dsimp only [keeps_mk]
    | with_reducible refine KeepsMk.w_asy ?_ (sub_mem (by decide) hP)
    | with_reducible refine keeps_writeDump _ ?_ (sub_trans (by decide) hP)
    | with_reducible refine keeps_beginDump ?_ (sub_trans (by decide) hP)
    | with_reducible refine keepsOut_next ?_
    | with_reducible refine keepsOut_whenOk ?_ ?_
    | split

theorem keeps_execAsyStatRead {ps : List Part} {s0 s : State} (w : Width)
    (hK : Keeps ps s0 s) (hP : sub [.asy, .out] ps = true) :
    KeepsOut ps s0 (execAsyStatRead w s) := by
  unfold execAsyStatRead
  try dsimp only
  repeat' first
    | with_reducible assumption
    | dsimp only [keeps_mk]
    | with_reducible refine KeepsMk.w_asy ?_ (sub_mem (by decide) hP)
    | with_reducible refine keeps_regReadRow _ _ _ _ ?_ (sub_trans (by decide) hP) (fun t hK => ?_)
    | with_reducible refine keepsOut_next ?_
    | with_reducible refine keepsOut_whenOk ?_ ?_
    | split

theorem keeps_execFaultRecordWrite {ps : List Part} {s0 s : State}
    (hK : Keeps ps s0 s) (hP : sub [.ledger, .faults, .hub, .asy] ps = true) :
    KeepsOut ps s0 (execFaultRecordWrite s) := by
  unfold execFaultRecordWrite
  try dsimp only
  repeat' first
    | with_reducible assumption
    | dsimp only [keeps_mk]
    | with_reducible refine KeepsMk.w_faults ?_ (sub_mem (by decide) hP) (fun x => x) (fun x => x)
    | with_reducible refine keeps_writeRecord ?_ (sub_trans (by decide) hP)
    | with_reducible refine keepsOut_next ?_
    | with_reducible refine keepsOut_whenOk ?_ ?_
    | split

theorem keeps_rereadRecord {ps : List Part} {s0 s : State} (blk : Nat) (p : Nat) (detail : Nat) (n : Nat) (good : Bool)
    (hK : Keeps ps s0 s) (hP : sub [.ledger, .faults] ps = true) :
    Keeps ps s0 (rereadRecord blk p detail n good s) := by
  unfold rereadRecord
  try dsimp only
  repeat' first
    | with_reducible assumption
    | with_reducible refine keeps_recordFault _ ?_ (sub_trans (by decide) hP)
    | split

theorem keeps_reread {ps : List Part} {s0 s : State} (p : Nat) (detail : Nat) (reads : List Code)
    (hK : Keeps ps s0 s) (hP : sub [.mem, .bezels, .ledger, .faults, .hub, .asy] ps = true) :
    Keeps ps s0 (reread p detail reads s) := by
  unfold reread
  try dsimp only
  repeat' first
    | with_reducible assumption
    | with_reducible refine keeps_stackPut _ _ _ ?_ (sub_trans (by decide) hP)
    | with_reducible refine keeps_stackLook _ _ _ _ ?_ (sub_trans (by decide) hP)
    | with_reducible refine keeps_countLook _ _ ?_ (sub_trans (by decide) hP)
    | with_reducible refine keeps_rereadRecord _ _ _ _ _ ?_ (sub_trans (by decide) hP)
    | with_reducible refine keeps_putCode _ _ ?_ (sub_trans (by decide) hP)
    | with_reducible refine keeps_modBezel _ _ ?_ (sub_trans (by decide) hP)
    | with_reducible refine Keeps.foldl _ ?_ (fun t a hK => ?_)
    | with_reducible refine Keeps.foldlSnd _ ?_ (fun a k hK => ?_)
    | split

theorem keeps_execUncorrReread {ps : List Part} {s0 s : State} (reads : List Code)
    (hK : Keeps ps s0 s) (hP : sub [.mem, .bezels, .ledger, .faults, .hub, .asy] ps = true) :
    KeepsOut ps s0 (execUncorrReread reads s) := by
  unfold execUncorrReread
  try dsimp only
  repeat' first
    | with_reducible assumption
    | dsimp only [keeps_mk]
    | with_reducible refine KeepsMk.w_mem ?_ (sub_mem (by decide) hP) (fun x => x)
    | with_reducible refine keeps_reread _ _ _ ?_ (sub_trans (by decide) hP)
    | with_reducible refine keepsOut_next ?_
    | with_reducible refine keepsOut_whenOk ?_ ?_
    | split

theorem keeps_beadFaultRecord {ps : List Part} {s0 s : State} (o : Nat) (parity : Bool) (recovered : Bool)
    (hK : Keeps ps s0 s) (hP : sub [.ledger, .faults] ps = true) :
    Keeps ps s0 (beadFaultRecord o parity recovered s) := by
  unfold beadFaultRecord
  try dsimp only
  repeat' first
    | with_reducible assumption
    | with_reducible refine keeps_recordFault _ ?_ (sub_trans (by decide) hP)
    | split

theorem keeps_expressRecord {ps : List Part} {s0 s : State} (o : Nat)
    (hK : Keeps ps s0 s) (hP : sub [.ledger, .faults] ps = true) :
    Keeps ps s0 (expressRecord o s) := by
  unfold expressRecord
  try dsimp only
  repeat' first
    | with_reducible assumption
    | with_reducible refine keeps_recordFault _ ?_ (sub_trans (by decide) hP)
    | split

theorem keeps_execBeadFault {ps : List Part} {s0 s : State} (o : Ord) (parity : Bool)
    (hK : Keeps ps s0 s) (hP : sub [.beads, .ledger, .faults, .hub] ps = true) :
    KeepsOut ps s0 (execBeadFault o parity s) := by
  unfold execBeadFault
  try dsimp only
  repeat' first
    | with_reducible assumption
    | with_reducible refine keeps_modBead _ _ ?_ (sub_trans (by decide) hP)
    | with_reducible refine keeps_hubRaise _ ?_ (sub_trans (by decide) hP)
    | with_reducible refine keeps_beadFaultRecord _ _ _ ?_ (sub_trans (by decide) hP)
    | with_reducible refine keepsOut_next ?_
    | with_reducible refine keepsOut_whenOk ?_ ?_
    | split

theorem keeps_execTraceWrite {ps : List Part} {s0 s : State}
    (hK : Keeps ps s0 s) (hP : sub [.fabric, .mem, .bezels, .ledger, .faults, .hub, .asy, .out] ps = true) :
    KeepsOut ps s0 (execTraceWrite s) := by
  unfold execTraceWrite
  split
  · exact keepsOut_next hK
  · rename_i i r hr
    refine keepsOut_whenOk hK ?_
    dsimp only [keeps_mk]
    refine KeepsMk.w_ledger_safe (keeps_locketWrite _ _ hK (sub_trans (by decide) hP)) (sub_mem (by decide) hP) fun h
        => ?_
    have h1 := (hK.safe h).trace
    rw [hr, List.length_cons] at h1
    dsimp only
    omega

theorem keeps_ldgTraceSet {ps : List Part} {s0 s : State} (w : Width) (v : Word)
    (hK : Keeps ps s0 s) (hP : sub [.ledger] ps = true) :
    Keeps ps s0 (ldgTraceSet w v s) := by
  unfold ldgTraceSet
  try dsimp only
  repeat' first
    | with_reducible assumption
    | dsimp only [keeps_mk]
    | with_reducible refine KeepsMk.w_ledger ?_ (sub_mem (by decide) hP) (fun x => x)
    | with_reducible refine KeepsMk.w_ledger ?_ (sub_mem (by decide) hP) (fun _ => Nat.zero_le _)
    | split

theorem keeps_execLdgTraceWrite {ps : List Part} {s0 s : State} (m : Master) (w : Width) (v : Word)
    (hK : Keeps ps s0 s) (hP : sub [.ledger, .faults] ps = true) :
    KeepsOut ps s0 (execLdgTraceWrite m w v s) := by
  unfold execLdgTraceWrite
  try dsimp only
  repeat' first
    | with_reducible assumption
    | with_reducible refine keeps_ldgTraceSet _ _ ?_ (sub_trans (by decide) hP)
    | with_reducible refine keeps_regWriteRow _ _ _ ?_ (sub_trans (by decide) hP) (fun t hK => ?_)
    | with_reducible refine keepsOut_next ?_
    | with_reducible refine keepsOut_whenOk ?_ ?_
    | split

theorem keeps_execLdgOvrRead {ps : List Part} {s0 s : State} (w : Width)
    (hK : Keeps ps s0 s) (hP : sub [.ledger, .out] ps = true) :
    KeepsOut ps s0 (execLdgOvrRead w s) := by
  unfold execLdgOvrRead
  try dsimp only
  repeat' first
    | with_reducible assumption
    | dsimp only [keeps_mk]
    | with_reducible refine KeepsMk.w_ledger ?_ (sub_mem (by decide) hP) (fun x => x)
    | with_reducible refine keeps_regReadRow _ _ _ _ ?_ (sub_trans (by decide) hP) (fun t hK => ?_)
    | with_reducible refine keepsOut_next ?_
    | with_reducible refine keepsOut_whenOk ?_ ?_
    | split

theorem keeps_execLdgTraceStatRead {ps : List Part} {s0 s : State} (w : Width)
    (hK : Keeps ps s0 s) (hP : sub [.ledger, .out] ps = true) :
    KeepsOut ps s0 (execLdgTraceStatRead w s) := by
  unfold execLdgTraceStatRead
  try dsimp only
  repeat' first
    | with_reducible assumption
    | dsimp only [keeps_mk]
    | with_reducible refine KeepsMk.w_ledger ?_ (sub_mem (by decide) hP) (fun x => x)
    | with_reducible refine keeps_regReadRow _ _ _ _ ?_ (sub_trans (by decide) hP) (fun t hK => ?_)
    | with_reducible refine keepsOut_next ?_
    | with_reducible refine keepsOut_whenOk ?_ ?_
    | split

theorem keeps_execFltStatRead {ps : List Part} {s0 s : State} (w : Width)
    (hK : Keeps ps s0 s) (hP : sub [.faults, .out] ps = true) :
    KeepsOut ps s0 (execFltStatRead w s) := by
  unfold execFltStatRead
  try dsimp only
  repeat' first
    | with_reducible assumption
    | dsimp only [keeps_mk]
    | with_reducible refine KeepsMk.w_faults ?_ (sub_mem (by decide) hP) (fun x => x) (fun x => x)
    | with_reducible refine keeps_regReadRow _ _ _ _ ?_ (sub_trans (by decide) hP) (fun t hK => ?_)
    | with_reducible refine keepsOut_next ?_
    | with_reducible refine keepsOut_whenOk ?_ ?_
    | split

end Sys2Proof.Laws
end

