-- ==== Sys2Proof/Laws/KeepsStandby.lean ====
section
/-! SUPPORT. What each operation of the tick and its boundary, power, bring-up, service, registers and the management
    port may write, and that it keeps the
invariant: one lemma per operation, which its callers cite. -/

set_option linter.unreachableTactic false
set_option linter.unusedTactic false

namespace Sys2Proof.Laws

open Sys2Proof Sys2Proof.Machine

theorem keeps_countCk {ps : List Part} {s0 s : State}
    (hK : Keeps ps s0 s) (hP : sub [.beads, .clasps, .mem, .bezels, .ledger, .faults, .asy] ps = true) :
    Keeps ps s0 (countCk s) := by
  unfold countCk
  try dsimp only
  repeat' first
    | with_reducible assumption
    | dsimp only [keeps_mk]
    | with_reducible refine KeepsMk.w_asy ?_ (sub_mem (by decide) hP)
    | with_reducible refine Keeps.foldl _ ?_ (fun t a hK => ?_)
    | with_reducible refine Keeps.foldlSnd _ ?_ (fun a k hK => ?_)
    | split

theorem keeps_clearSlots {ps : List Part} {s0 s : State}
    (hK : Keeps ps s0 s) (hP : sub [.beads] ps = true) :
    Keeps ps s0 (clearSlots s) := by
  unfold clearSlots
  try dsimp only
  repeat' first
    | with_reducible assumption
    | with_reducible refine keeps_modBead _ _ ?_ (sub_trans (by decide) hP)
    | with_reducible refine Keeps.foldl _ ?_ (fun t a hK => ?_)
    | with_reducible refine Keeps.foldlSnd _ ?_ (fun a k hK => ?_)
    | with_reducible refine Keeps.upToSnd _ ?_ (fun a k hK => ?_)
    | with_reducible refine Keeps.upTo _ ?_ (fun t k hK => ?_)
    | split

theorem keeps_endCk {ps : List Part} {s0 s : State}
    (hK : Keeps ps s0 s) (hP : sub [.clock, .beads, .fabric, .clasps, .mem, .bezels, .chain, .ledger, .faults, .hub,
        .asy, .out] ps = true) :
    Keeps ps s0 (endCk s) := by
  unfold endCk
  try dsimp only
  repeat' first
    | with_reducible assumption
    | with_reducible refine keeps_claspCk ?_ (sub_trans (by decide) hP)
    | with_reducible refine keeps_hubTick ?_ (sub_trans (by decide) hP)
    | with_reducible refine keeps_countCk ?_ (sub_trans (by decide) hP)
    | with_reducible refine keeps_endPauses ?_ (sub_trans (by decide) hP)
    | with_reducible refine keeps_clearSlots ?_ (sub_trans (by decide) hP)
    | split

theorem keeps_advanceCk {ps : List Part} {s0 s : State}
    (hK : Keeps ps s0 s) (hP : sub [.clock, .beads, .fabric, .clasps, .mem, .bezels, .chain, .ledger, .faults, .hub,
        .asy, .out] ps = true) :
    Keeps ps s0 (advanceCk s) := by
  unfold advanceCk
  split
  · rename_i h
    have hlt : s.clock.ck < 16383 := by
      simp only [Bool.and_eq_true, decide_eq_true_eq] at h
      exact h.2
    dsimp only [keeps_mk]
    refine KeepsMk.w_clock (keeps_endCk hK (sub_trans (by decide) hP)) (sub_mem (by decide) hP) fun _ => ?_
    dsimp only
    omega
  · exact hK

theorem keeps_modMgmt {ps : List Part} {s0 s : State} (f : Mgmt → Mgmt)
    (hK : Keeps ps s0 s) (hP : sub [.mgmt] ps = true) :
    Keeps ps s0 (modMgmt f s) := by
  unfold modMgmt
  try dsimp only
  repeat' first
    | with_reducible assumption
    | dsimp only [keeps_mk]
    | with_reducible refine KeepsMk.w_mgmt ?_ (sub_mem (by decide) hP)
    | split

theorem keeps_sendData {ps : List Part} {s0 s : State} (seq : BitVec 8) (p : MgmtPkt)
    (hK : Keeps ps s0 s) (hP : sub [.out] ps = true) :
    Keeps ps s0 (sendData seq p s) := by
  unfold sendData
  try dsimp only
  repeat' first
    | with_reducible assumption
    | with_reducible refine keeps_emit _ ?_ (sub_trans (by decide) hP)
    | split

theorem keeps_mgmtPump {ps : List Part} {s0 s : State}
    (hK : Keeps ps s0 s) (hP : sub [.mgmt, .out] ps = true) :
    Keeps ps s0 (mgmtPump s) := by
  unfold mgmtPump
  try dsimp only
  repeat' first
    | with_reducible assumption
    | with_reducible refine keeps_sendData _ _ ?_ (sub_trans (by decide) hP)
    | with_reducible refine keeps_modMgmt _ ?_ (sub_trans (by decide) hP)
    | with_reducible refine Keeps.upToSnd _ ?_ (fun a k hK => ?_)
    | with_reducible refine Keeps.upTo _ ?_ (fun t k hK => ?_)
    | split

theorem keeps_mgmtQueue {ps : List Part} {s0 s : State} (dst : BitVec 8) (owner : Bool) (tag : BitVec 3) (body : List
    Byte) (cpl : Bool)
    (hK : Keeps ps s0 s) (hP : sub [.mgmt, .out] ps = true) :
    Keeps ps s0 (mgmtQueue dst owner tag body cpl s) := by
  unfold mgmtQueue
  try dsimp only
  repeat' first
    | with_reducible assumption
    | with_reducible refine keeps_modMgmt _ ?_ (sub_trans (by decide) hP)
    | with_reducible refine keeps_mgmtPump ?_ (sub_trans (by decide) hP)
    | split

theorem keeps_mgmtOwn {ps : List Part} {s0 s : State} (body : List Byte) (cpl : Bool)
    (hK : Keeps ps s0 s) (hP : sub [.mgmt, .out] ps = true) :
    Keeps ps s0 (mgmtOwn body cpl s) := by
  unfold mgmtOwn
  try dsimp only
  repeat' first
    | with_reducible assumption
    | with_reducible refine keeps_mgmtQueue _ _ _ _ _ ?_ (sub_trans (by decide) hP)
    | with_reducible refine keeps_modMgmt _ ?_ (sub_trans (by decide) hP)
    | split

theorem keeps_mgmtAnswer {ps : List Part} {s0 s : State} (r : MgmtReq) (body : List Byte)
    (hK : Keeps ps s0 s) (hP : sub [.mgmt, .out] ps = true) :
    Keeps ps s0 (mgmtAnswer r body s) := by
  unfold mgmtAnswer
  try dsimp only
  repeat' first
    | with_reducible assumption
    | with_reducible refine keeps_mgmtQueue _ _ _ _ _ ?_ (sub_trans (by decide) hP)
    | split

theorem keeps_thAnswer {ps : List Part} {s0 s : State} (r : MgmtReq) (status : Nat) (body : List Byte)
    (hK : Keeps ps s0 s) (hP : sub [.mgmt, .out] ps = true) :
    Keeps ps s0 (thAnswer r status body s) := by
  unfold thAnswer
  try dsimp only
  repeat' first
    | with_reducible assumption
    | with_reducible refine keeps_mgmtAnswer _ _ ?_ (sub_trans (by decide) hP)
    | split

theorem keeps_thOwn {ps : List Part} {s0 s : State} (opc : Nat) (body : List Byte) (cpl : Bool)
    (hK : Keeps ps s0 s) (hP : sub [.mgmt, .out] ps = true) :
    Keeps ps s0 (thOwn opc body cpl s) := by
  unfold thOwn
  try dsimp only
  repeat' first
    | with_reducible assumption
    | with_reducible refine keeps_mgmtOwn _ _ ?_ (sub_trans (by decide) hP)
    | split

theorem keeps_ctlAnswer {ps : List Part} {s0 s : State} (r : MgmtReq) (code : Nat) (body : List Byte)
    (hK : Keeps ps s0 s) (hP : sub [.mgmt, .out] ps = true) :
    Keeps ps s0 (ctlAnswer r code body s) := by
  unfold ctlAnswer
  try dsimp only
  repeat' first
    | with_reducible assumption
    | with_reducible refine keeps_mgmtAnswer _ _ ?_ (sub_trans (by decide) hP)
    | split

theorem keeps_messageIn {ps : List Part} {s0 s : State} (r : MgmtReq)
    (hK : Keeps ps s0 s) (hP : sub [.mgmt, .out] ps = true) :
    Keeps ps s0 (messageIn r s) := by
  unfold messageIn
  try dsimp only
  repeat' first
    | with_reducible assumption
    | with_reducible refine keeps_thAnswer _ _ _ ?_ (sub_trans (by decide) hP)
    | with_reducible refine keeps_modMgmt _ ?_ (sub_trans (by decide) hP)
    | with_reducible refine keeps_ctlAnswer _ _ _ ?_ (sub_trans (by decide) hP)
    | split

theorem keeps_packetIn {ps : List Part} {s0 s : State} (b : List Byte)
    (hK : Keeps ps s0 s) (hP : sub [.mgmt, .out] ps = true) :
    Keeps ps s0 (packetIn b s) := by
  unfold packetIn
  try dsimp only
  repeat' first
    | with_reducible assumption
    | with_reducible refine keeps_modMgmt _ ?_ (sub_trans (by decide) hP)
    | with_reducible refine keeps_messageIn _ ?_ (sub_trans (by decide) hP)
    | split

theorem keeps_mgmtAcked {ps : List Part} {s0 s : State} (ack : BitVec 8)
    (hK : Keeps ps s0 s) (hP : sub [.mbxs, .mgmt] ps = true) :
    Keeps ps s0 (mgmtAcked ack s) := by
  unfold mgmtAcked
  try dsimp only
  repeat' first
    | with_reducible assumption
    | with_reducible refine keeps_modMgmt _ ?_ (sub_trans (by decide) hP)
    | (with_reducible refine keeps_modMbx _ _ ?_ (sub_trans (by decide) hP) (fun x => x))
    | (with_reducible refine keeps_modMbx _ _ ?_ (sub_trans (by decide) hP) (fun x => Nat.zero_le _))
    | split

theorem keeps_mgmtAckIn {ps : List Part} {s0 s : State} (ack : BitVec 8)
    (hK : Keeps ps s0 s) (hP : sub [.mbxs, .mgmt, .out] ps = true) :
    Keeps ps s0 (mgmtAckIn ack s) := by
  unfold mgmtAckIn
  try dsimp only
  repeat' first
    | with_reducible assumption
    | with_reducible refine keeps_mgmtPump ?_ (sub_trans (by decide) hP)
    | with_reducible refine keeps_mgmtAcked _ ?_ (sub_trans (by decide) hP)
    | split

theorem keeps_sendAgain {ps : List Part} {s0 s : State}
    (hK : Keeps ps s0 s) (hP : sub [.out] ps = true) :
    Keeps ps s0 (sendAgain s) := by
  unfold sendAgain
  try dsimp only
  repeat' first
    | with_reducible assumption
    | with_reducible refine keeps_sendData _ _ ?_ (sub_trans (by decide) hP)
    | with_reducible refine Keeps.foldl _ ?_ (fun t a hK => ?_)
    | with_reducible refine Keeps.foldlSnd _ ?_ (fun a k hK => ?_)
    | split

theorem keeps_mgmtResend {ps : List Part} {s0 s : State}
    (hK : Keeps ps s0 s) (hP : sub [.mgmt, .out] ps = true) :
    Keeps ps s0 (mgmtResend s) := by
  unfold mgmtResend
  try dsimp only
  repeat' first
    | with_reducible assumption
    | with_reducible refine keeps_modMgmt _ ?_ (sub_trans (by decide) hP)
    | with_reducible refine keeps_mgmtDown ?_ (sub_trans (by decide) hP)
    | with_reducible refine keeps_sendAgain ?_ (sub_trans (by decide) hP)
    | split

theorem keeps_dataIn {ps : List Part} {s0 s : State} (ok : Bool) (f : MgmtFrame)
    (hK : Keeps ps s0 s) (hP : sub [.mbxs, .mgmt, .out] ps = true) :
    Keeps ps s0 (dataIn ok f s) := by
  unfold dataIn
  try dsimp only
  repeat' first
    | with_reducible assumption
    | with_reducible refine keeps_packetIn _ ?_ (sub_trans (by decide) hP)
    | with_reducible refine keeps_modMgmt _ ?_ (sub_trans (by decide) hP)
    | with_reducible refine keeps_mgmtAckIn _ ?_ (sub_trans (by decide) hP)
    | with_reducible refine keeps_emit _ ?_ (sub_trans (by decide) hP)
    | split

theorem keeps_execMgmtDataFrame {ps : List Part} {s0 s : State} (f : MgmtFrame)
    (hK : Keeps ps s0 s) (hP : sub [.mbxs, .mgmt, .out] ps = true) :
    KeepsOut ps s0 (execMgmtDataFrame f s) := by
  unfold execMgmtDataFrame
  try dsimp only
  repeat' first
    | with_reducible assumption
    | with_reducible refine keeps_dataIn _ _ ?_ (sub_trans (by decide) hP)
    | with_reducible refine keepsOut_next ?_
    | with_reducible refine keepsOut_whenOk ?_ ?_
    | split

theorem keeps_frameIn {ps : List Part} {s0 s : State} (typ : BitVec 4) (ok : Bool) (f : MgmtFrame) (act : BitVec 8 →
    State → State)
    (hK : Keeps ps s0 s) (hP : sub [] ps = true)
    (hf : ∀ a t, Keeps ps s0 t → Keeps ps s0 (act a t)) :
    KeepsOut ps s0 (frameIn typ ok f act s) := by
  unfold frameIn
  try dsimp only
  repeat' first
    | with_reducible assumption
    | with_reducible refine keepsOut_next ?_
    | with_reducible refine keepsOut_whenOk ?_ ?_
    | with_reducible refine hf _ _ ?_
    | split

theorem keeps_execMgmtAckFrame {ps : List Part} {s0 s : State} (f : MgmtFrame)
    (hK : Keeps ps s0 s) (hP : sub [.mbxs, .mgmt, .out] ps = true) :
    KeepsOut ps s0 (execMgmtAckFrame f s) := by
  unfold execMgmtAckFrame
  try dsimp only
  repeat' first
    | with_reducible assumption
    | with_reducible refine keeps_frameIn _ _ _ _ ?_ (sub_trans (by decide) hP) (fun a t hK => ?_)
    | with_reducible refine keeps_mgmtAckIn _ ?_ (sub_trans (by decide) hP)
    | with_reducible refine keepsOut_next ?_
    | with_reducible refine keepsOut_whenOk ?_ ?_
    | split

theorem keeps_nakIn {ps : List Part} {s0 s : State} (ack : BitVec 8)
    (hK : Keeps ps s0 s) (hP : sub [.mbxs, .mgmt, .out] ps = true) :
    Keeps ps s0 (nakIn ack s) := by
  unfold nakIn
  try dsimp only
  repeat' first
    | with_reducible assumption
    | with_reducible refine keeps_mgmtPump ?_ (sub_trans (by decide) hP)
    | with_reducible refine keeps_mgmtAcked _ ?_ (sub_trans (by decide) hP)
    | with_reducible refine keeps_mgmtResend ?_ (sub_trans (by decide) hP)
    | split

theorem keeps_execMgmtNakFrame {ps : List Part} {s0 s : State} (f : MgmtFrame)
    (hK : Keeps ps s0 s) (hP : sub [.mbxs, .mgmt, .out] ps = true) :
    KeepsOut ps s0 (execMgmtNakFrame f s) := by
  unfold execMgmtNakFrame
  try dsimp only
  repeat' first
    | with_reducible assumption
    | with_reducible refine keeps_nakIn _ ?_ (sub_trans (by decide) hP)
    | with_reducible refine keeps_frameIn _ _ _ _ ?_ (sub_trans (by decide) hP) (fun a t hK => ?_)
    | with_reducible refine keepsOut_next ?_
    | with_reducible refine keepsOut_whenOk ?_ ?_
    | split

theorem keeps_execMgmtIdleFrame {ps : List Part} {s0 s : State} (f : MgmtFrame)
    (hK : Keeps ps s0 s) (hP : sub [.mbxs, .mgmt, .out] ps = true) :
    KeepsOut ps s0 (execMgmtIdleFrame f s) := by
  unfold execMgmtIdleFrame
  try dsimp only
  repeat' first
    | with_reducible assumption
    | with_reducible refine keeps_frameIn _ _ _ _ ?_ (sub_trans (by decide) hP) (fun a t hK => ?_)
    | with_reducible refine keeps_mgmtAckIn _ ?_ (sub_trans (by decide) hP)
    | with_reducible refine keepsOut_next ?_
    | with_reducible refine keepsOut_whenOk ?_ ?_
    | split

theorem keeps_execMgmtResendTimeout {ps : List Part} {s0 s : State}
    (hK : Keeps ps s0 s) (hP : sub [.mgmt, .out] ps = true) :
    KeepsOut ps s0 (execMgmtResendTimeout s) := by
  unfold execMgmtResendTimeout
  try dsimp only
  repeat' first
    | with_reducible assumption
    | with_reducible refine keeps_mgmtResend ?_ (sub_trans (by decide) hP)
    | with_reducible refine keepsOut_next ?_
    | with_reducible refine keepsOut_whenOk ?_ ?_
    | split

theorem keeps_execMgmtIdleTimeout {ps : List Part} {s0 s : State}
    (hK : Keeps ps s0 s) (hP : sub [.out] ps = true) :
    KeepsOut ps s0 (execMgmtIdleTimeout s) := by
  unfold execMgmtIdleTimeout
  try dsimp only
  repeat' first
    | with_reducible assumption
    | with_reducible refine keeps_emit _ ?_ (sub_trans (by decide) hP)
    | with_reducible refine keepsOut_next ?_
    | with_reducible refine keepsOut_whenOk ?_ ?_
    | split

theorem keeps_execMgmtLaneDownTimeout {ps : List Part} {s0 s : State}
    (hK : Keeps ps s0 s) (hP : sub [.mgmt] ps = true) :
    KeepsOut ps s0 (execMgmtLaneDownTimeout s) := by
  unfold execMgmtLaneDownTimeout
  try dsimp only
  repeat' first
    | with_reducible assumption
    | with_reducible refine keeps_mgmtDown ?_ (sub_trans (by decide) hP)
    | with_reducible refine keepsOut_next ?_
    | with_reducible refine keepsOut_whenOk ?_ ?_
    | split

theorem keeps_execMgmtLaneUp {ps : List Part} {s0 s : State}
    (hK : Keeps ps s0 s) (hP : sub [.mgmt, .out] ps = true) :
    KeepsOut ps s0 (execMgmtLaneUp s) := by
  unfold execMgmtLaneUp
  try dsimp only
  repeat' first
    | with_reducible assumption
    | with_reducible refine keeps_modMgmt _ ?_ (sub_trans (by decide) hP)
    | with_reducible refine keeps_mgmtPump ?_ (sub_trans (by decide) hP)
    | with_reducible refine keeps_sendAgain ?_ (sub_trans (by decide) hP)
    | with_reducible refine keepsOut_next ?_
    | with_reducible refine keepsOut_whenOk ?_ ?_
    | split

theorem keeps_execMgmtEventSend {ps : List Part} {s0 s : State}
    (hK : Keeps ps s0 s) (hP : sub [.hub, .mgmt, .out] ps = true) :
    KeepsOut ps s0 (execMgmtEventSend s) := by
  unfold execMgmtEventSend
  try dsimp only
  repeat' first
    | with_reducible assumption
    | with_reducible refine keeps_hubTake _ ?_ (sub_trans (by decide) hP)
    | with_reducible refine keeps_thOwn _ _ _ ?_ (sub_trans (by decide) hP)
    | with_reducible refine keepsOut_next ?_
    | with_reducible refine keepsOut_whenOk ?_ ?_
    | split

theorem keeps_execMbxCpl {ps : List Part} {s0 s : State}
    (hK : Keeps ps s0 s) (hP : sub [.mgmt, .out] ps = true) :
    KeepsOut ps s0 (execMbxCpl s) := by
  unfold execMbxCpl
  try dsimp only
  repeat' first
    | with_reducible assumption
    | with_reducible refine keeps_modMgmt _ ?_ (sub_trans (by decide) hP)
    | with_reducible refine keeps_thOwn _ _ _ ?_ (sub_trans (by decide) hP)
    | with_reducible refine keepsOut_next ?_
    | with_reducible refine keepsOut_whenOk ?_ ?_
    | split

theorem keeps_ctlRow {ps : List Part} {s0 s : State} (cmd : Nat) (f : MgmtReq → State → State)
    (hK : Keeps ps s0 s) (hP : sub [.mgmt] ps = true)
    (hf : ∀ r t, Keeps ps s0 t → Keeps ps s0 (f r t)) :
    KeepsOut ps s0 (ctlRow cmd f s) := by
  unfold ctlRow
  try dsimp only
  repeat' first
    | with_reducible assumption
    | with_reducible refine keeps_modMgmt _ ?_ (sub_trans (by decide) hP)
    | with_reducible refine keepsOut_next ?_
    | with_reducible refine keepsOut_whenOk ?_ ?_
    | with_reducible refine hf _ _ ?_
    | split

theorem keeps_execSetEndpointId {ps : List Part} {s0 s : State}
    (hK : Keeps ps s0 s) (hP : sub [.mgmt, .out] ps = true) :
    KeepsOut ps s0 (execSetEndpointId s) := by
  unfold execSetEndpointId
  try dsimp only
  repeat' first
    | with_reducible assumption
    | with_reducible refine keeps_modMgmt _ ?_ (sub_trans (by decide) hP)
    | with_reducible refine keeps_ctlRow _ _ ?_ (sub_trans (by decide) hP) (fun r t hK => ?_)
    | with_reducible refine keeps_ctlAnswer _ _ _ ?_ (sub_trans (by decide) hP)
    | with_reducible refine keepsOut_next ?_
    | with_reducible refine keepsOut_whenOk ?_ ?_
    | split

theorem keeps_execGetEndpointId {ps : List Part} {s0 s : State}
    (hK : Keeps ps s0 s) (hP : sub [.mgmt, .out] ps = true) :
    KeepsOut ps s0 (execGetEndpointId s) := by
  unfold execGetEndpointId
  try dsimp only
  repeat' first
    | with_reducible assumption
    | with_reducible refine keeps_ctlRow _ _ ?_ (sub_trans (by decide) hP) (fun r t hK => ?_)
    | with_reducible refine keeps_ctlAnswer _ _ _ ?_ (sub_trans (by decide) hP)
    | with_reducible refine keepsOut_next ?_
    | with_reducible refine keepsOut_whenOk ?_ ?_
    | split

theorem keeps_execGetMctpVersionSupport {ps : List Part} {s0 s : State}
    (hK : Keeps ps s0 s) (hP : sub [.mgmt, .out] ps = true) :
    KeepsOut ps s0 (execGetMctpVersionSupport s) := by
  unfold execGetMctpVersionSupport
  try dsimp only
  repeat' first
    | with_reducible assumption
    | with_reducible refine keeps_ctlRow _ _ ?_ (sub_trans (by decide) hP) (fun r t hK => ?_)
    | with_reducible refine keeps_ctlAnswer _ _ _ ?_ (sub_trans (by decide) hP)
    | with_reducible refine keepsOut_next ?_
    | with_reducible refine keepsOut_whenOk ?_ ?_
    | split

theorem keeps_execGetMessageTypeSupport {ps : List Part} {s0 s : State}
    (hK : Keeps ps s0 s) (hP : sub [.mgmt, .out] ps = true) :
    KeepsOut ps s0 (execGetMessageTypeSupport s) := by
  unfold execGetMessageTypeSupport
  try dsimp only
  repeat' first
    | with_reducible assumption
    | with_reducible refine keeps_ctlRow _ _ ?_ (sub_trans (by decide) hP) (fun r t hK => ?_)
    | with_reducible refine keeps_ctlAnswer _ _ _ ?_ (sub_trans (by decide) hP)
    | with_reducible refine keepsOut_next ?_
    | with_reducible refine keepsOut_whenOk ?_ ?_
    | split

theorem keeps_execGetVendorDefinedMsgSupport {ps : List Part} {s0 s : State}
    (hK : Keeps ps s0 s) (hP : sub [.mgmt, .out] ps = true) :
    KeepsOut ps s0 (execGetVendorDefinedMsgSupport s) := by
  unfold execGetVendorDefinedMsgSupport
  try dsimp only
  repeat' first
    | with_reducible assumption
    | with_reducible refine keeps_ctlRow _ _ ?_ (sub_trans (by decide) hP) (fun r t hK => ?_)
    | with_reducible refine keeps_ctlAnswer _ _ _ ?_ (sub_trans (by decide) hP)
    | with_reducible refine keepsOut_next ?_
    | with_reducible refine keepsOut_whenOk ?_ ?_
    | split

theorem keeps_modStandby {ps : List Part} {s0 s : State} (f : Standby → Standby)
    (hK : Keeps ps s0 s) (hP : sub [.standby] ps = true)
    (h1 : (f s.standby).grade960 = s.standby.grade960) (h2 : s.standby.rollback ≤ (f s.standby).rollback)
    (h3 : s.standby.revoked &&& ~~~ (f s.standby).revoked = 0) :
    Keeps ps s0 (modStandby f s) := by
  unfold modStandby
  dsimp only [keeps_mk]
  exact KeepsMk.w_standby hK (sub_mem (by decide) hP) h1 h2 h3

theorem keeps_dropMain {ps : List Part} {s0 s : State}
    (hK : Keeps ps s0 s) (hP : sub [.clock, .beads, .mmu, .fabric, .clasps, .mem, .bezels, .chain, .host, .mbxs,
        .nutas, .ledger, .commit, .hub, .asy, .power, .sec] ps = true) :
    Keeps ps s0 (dropMain s) := by
  have hw : sub [.clock, .beads, .mmu, .fabric, .clasps, .mem, .bezels, .chain, .host, .mbxs, .nutas, .ledger,
      .commit, .hub, .asy, .power, .sec] ps = true := hP
  unfold dropMain
  dsimp only [keeps_mk]
  refine KeepsMk.over (s := s) (.inl rfl) (.inr ⟨sub_mem (by decide) hP, fun _ => by decide⟩) (.inr (sub_mem (by
      decide) hP)) (.inr ⟨sub_mem (by decide) hP, fun _ _ => Nat.zero_le _⟩)
       (.inr (sub_mem (by decide) hP)) (.inr (sub_mem (by decide) hP)) (.inr ⟨sub_mem (by decide) hP, fun _ => by
          decide⟩) (.inr (sub_mem (by decide) hP))
       (.inr (sub_mem (by decide) hP)) (.inr (sub_mem (by decide) hP)) (.inr ⟨sub_mem (by decide) hP, fun h m =>
          held_dropped (h 8) m⟩) (.inr (sub_mem (by decide) hP))
       (.inr ⟨sub_mem (by decide) hP, fun _ => by decide⟩) (.inr (sub_mem (by decide) hP)) (.inl rfl) (.inr (sub_mem
          (by decide) hP))
       (.inr (sub_mem (by decide) hP)) (.inl rfl) (.inr (sub_mem (by decide) hP)) (.inr (sub_mem (by decide) hP))
       (.inl rfl) (.inl rfl) (.inl rfl) hK

theorem keeps_answerTake {ps : List Part} {s0 s : State} (status : Nat)
    (hK : Keeps ps s0 s) (hP : sub [.standby, .mgmt, .out] ps = true) :
    Keeps ps s0 (answerTake status s) := by
  unfold answerTake
  try dsimp only
  repeat' first
    | with_reducible assumption
    | with_reducible refine keeps_thAnswer _ _ _ ?_ (sub_trans (by decide) hP)
    | with_reducible refine keeps_modStandby _ ?_ (sub_trans (by decide) hP) rfl (le_refl _) (by simp)
    | split

theorem keeps_mainDown {ps : List Part} {s0 s : State}
    (hK : Keeps ps s0 s) (hP : sub [.clock, .beads, .mmu, .fabric, .clasps, .mem, .bezels, .chain, .host, .mbxs,
        .nutas, .ledger, .commit, .faults, .hub, .asy, .standby, .power, .sec, .mgmt, .out] ps = true) :
    Keeps ps s0 (mainDown s) := by
  unfold mainDown
  try dsimp only
  repeat' first
    | with_reducible assumption
    | with_reducible refine keeps_writeAllRecords ?_ (sub_trans (by decide) hP)
    | with_reducible refine keeps_modNutas _ ?_ (sub_trans (by decide) hP)
    | with_reducible refine keeps_dropMain ?_ (sub_trans (by decide) hP)
    | with_reducible refine keeps_answerTake _ ?_ (sub_trans (by decide) hP)
    | with_reducible refine keeps_modStandby _ ?_ (sub_trans (by decide) hP) rfl (le_refl _) (by simp)
    | split

theorem keeps_setHold {ps : List Part} {s0 s : State}
    (hK : Keeps ps s0 s) (hP : sub [.clock, .beads, .mmu, .fabric, .clasps, .mem, .bezels, .chain, .host, .mbxs,
        .nutas, .ledger, .commit, .faults, .hub, .asy, .standby, .power, .sec, .mgmt, .out] ps = true) :
    Keeps ps s0 (setHold s) := by
  unfold setHold
  try dsimp only
  repeat' first
    | with_reducible assumption
    | with_reducible refine keeps_mainDown ?_ (sub_trans (by decide) hP)
    | with_reducible refine keeps_modStandby _ ?_ (sub_trans (by decide) hP) rfl (le_refl _) (by simp)
    | split

theorem keeps_recordForced {ps : List Part} {s0 s : State}
    (hK : Keeps ps s0 s) (hP : sub [.nutas, .ledger, .faults] ps = true) :
    Keeps ps s0 (recordForced s) := by
  unfold recordForced
  try dsimp only
  repeat' first
    | with_reducible assumption
    | with_reducible refine keeps_recordAddr _ _ _ _ ?_ (sub_trans (by decide) hP)
    | with_reducible refine keeps_modNutas _ ?_ (sub_trans (by decide) hP)
    | split

theorem keeps_trip {ps : List Part} {s0 s : State}
    (hK : Keeps ps s0 s) (hP : sub [.clock, .beads, .mmu, .fabric, .clasps, .mem, .bezels, .chain, .host, .mbxs,
        .nutas, .ledger, .commit, .faults, .hub, .asy, .standby, .power, .sec, .mgmt, .out] ps = true) :
    Keeps ps s0 (trip s) := by
  unfold trip
  try dsimp only
  repeat' first
    | with_reducible assumption
    | with_reducible refine keeps_recordForced ?_ (sub_trans (by decide) hP)
    | with_reducible refine keeps_setHold ?_ (sub_trans (by decide) hP)
    | split

theorem keeps_recordReturned {ps : List Part} {s0 s : State}
    (hK : Keeps ps s0 s) (hP : sub [.ledger, .faults] ps = true) :
    Keeps ps s0 (recordReturned s) := by
  unfold recordReturned
  try dsimp only
  repeat' first
    | with_reducible assumption
    | with_reducible refine keeps_recordAddr _ _ _ _ ?_ (sub_trans (by decide) hP)
    | split

theorem keeps_execPowerApplied {ps : List Part} {s0 s : State}
    (hK : Keeps ps s0 s) (hP : sub [.standby] ps = true) :
    KeepsOut ps s0 (execPowerApplied s) := by
  unfold execPowerApplied
  try dsimp only
  repeat' first
    | with_reducible assumption
    | with_reducible refine keeps_modStandby _ ?_ (sub_trans (by decide) hP) rfl (le_refl _) (by simp)
    | with_reducible refine keepsOut_next ?_
    | with_reducible refine keepsOut_whenOk ?_ ?_
    | split

theorem keeps_inputLoss {ps : List Part} {s0 s : State}
    (hK : Keeps ps s0 s) (hP : sub [.clock, .beads, .mmu, .fabric, .clasps, .mem, .bezels, .chain, .host, .mbxs,
        .nutas, .ledger, .commit, .faults, .hub, .asy, .standby, .power, .sec, .mgmt] ps = true) :
    Keeps ps s0 (inputLoss s) := by
  unfold inputLoss
  dsimp only [keeps_mk]
  refine KeepsMk.over (s := s) (.inl rfl) (.inr ⟨sub_mem (by decide) hP, fun _ => by decide⟩) (.inr (sub_mem (by
      decide) hP)) (.inr ⟨sub_mem (by decide) hP, fun _ _ => Nat.zero_le _⟩)
       (.inr (sub_mem (by decide) hP)) (.inr (sub_mem (by decide) hP)) (.inr ⟨sub_mem (by decide) hP, fun _ => by
          decide⟩) (.inr (sub_mem (by decide) hP))
       (.inr (sub_mem (by decide) hP)) (.inr (sub_mem (by decide) hP)) (.inr ⟨sub_mem (by decide) hP, fun _ _ =>
          Nat.zero_le _⟩) (.inr (sub_mem (by decide) hP))
       (.inr ⟨sub_mem (by decide) hP, fun _ => by decide⟩) (.inr (sub_mem (by decide) hP)) (.inr ⟨sub_mem (by decide)
          hP, fun _ => by decide, fun _ => by decide⟩) (.inr (sub_mem (by decide) hP))
       (.inr (sub_mem (by decide) hP)) (.inr ⟨sub_mem (by decide) hP, rfl, le_refl _, (by simp)⟩) (.inr (sub_mem (by
          decide) hP)) (.inr (sub_mem (by decide) hP))
       (.inr (sub_mem (by decide) hP)) (.inl rfl) (.inl rfl) hK

theorem keeps_execInputVoltageLoss {ps : List Part} {s0 s : State}
    (hK : Keeps ps s0 s) (hP : sub [.clock, .beads, .mmu, .fabric, .clasps, .mem, .bezels, .chain, .host, .mbxs,
        .nutas, .ledger, .commit, .faults, .hub, .asy, .standby, .power, .sec, .mgmt] ps = true) :
    KeepsOut ps s0 (execInputVoltageLoss s) := by
  unfold execInputVoltageLoss
  try dsimp only
  repeat' first
    | with_reducible assumption
    | with_reducible refine keeps_inputLoss ?_ (sub_trans (by decide) hP)
    | with_reducible refine keepsOut_next ?_
    | with_reducible refine keepsOut_whenOk ?_ ?_
    | split

theorem keeps_execOvervoltageStop {ps : List Part} {s0 s : State}
    (hK : Keeps ps s0 s) (hP : sub [.clock, .beads, .mmu, .fabric, .clasps, .mem, .bezels, .chain, .host, .mbxs,
        .nutas, .ledger, .commit, .faults, .hub, .asy, .standby, .power, .sec, .mgmt, .out] ps = true) :
    KeepsOut ps s0 (execOvervoltageStop s) := by
  unfold execOvervoltageStop
  try dsimp only
  repeat' first
    | with_reducible assumption
    | with_reducible refine keeps_mainDown ?_ (sub_trans (by decide) hP)
    | with_reducible refine keeps_modStandby _ ?_ (sub_trans (by decide) hP) rfl (le_refl _) (by simp)
    | with_reducible refine keepsOut_next ?_
    | with_reducible refine keepsOut_whenOk ?_ ?_
    | split

theorem keeps_execOvervoltageRecovery {ps : List Part} {s0 s : State}
    (hK : Keeps ps s0 s) (hP : sub [.standby] ps = true) :
    KeepsOut ps s0 (execOvervoltageRecovery s) := by
  unfold execOvervoltageRecovery
  try dsimp only
  repeat' first
    | with_reducible assumption
    | with_reducible refine keeps_modStandby _ ?_ (sub_trans (by decide) hP) rfl (le_refl _) (by simp)
    | with_reducible refine keepsOut_next ?_
    | with_reducible refine keepsOut_whenOk ?_ ?_
    | split

theorem keeps_execEnableChange {ps : List Part} {s0 s : State} (level : Bool)
    (hK : Keeps ps s0 s) (hP : sub [.clock, .beads, .mmu, .fabric, .clasps, .mem, .bezels, .chain, .host, .mbxs,
        .nutas, .ledger, .commit, .faults, .hub, .asy, .standby, .power, .sec, .mgmt, .out] ps = true) :
    KeepsOut ps s0 (execEnableChange level s) := by
  unfold execEnableChange
  try dsimp only
  repeat' first
    | with_reducible assumption
    | with_reducible refine keeps_mainDown ?_ (sub_trans (by decide) hP)
    | with_reducible refine keeps_modStandby _ ?_ (sub_trans (by decide) hP) rfl (le_refl _) (by simp)
    | with_reducible refine keepsOut_next ?_
    | with_reducible refine keepsOut_whenOk ?_ ?_
    | split

theorem keeps_execBringUpStart {ps : List Part} {s0 s : State}
    (hK : Keeps ps s0 s) (hP : sub [.standby] ps = true) :
    KeepsOut ps s0 (execBringUpStart s) := by
  unfold execBringUpStart
  try dsimp only
  repeat' first
    | with_reducible assumption
    | with_reducible refine keeps_modStandby _ ?_ (sub_trans (by decide) hP) rfl (le_refl _) (by simp)
    | with_reducible refine keepsOut_next ?_
    | with_reducible refine keepsOut_whenOk ?_ ?_
    | split

theorem keeps_failBringUp {ps : List Part} {s0 s : State} (code : Nat)
    (hK : Keeps ps s0 s) (hP : sub [.clock, .standby, .free] ps = true) :
    Keeps ps s0 (failBringUp code s) := by
  unfold failBringUp
  try dsimp only
  repeat' first
    | with_reducible assumption
    | dsimp only [keeps_mk]
    | with_reducible refine KeepsMk.w_clock ?_ (sub_mem (by decide) hP) (fun x => x)
    | with_reducible refine keeps_drawn ?_ (sub_trans (by decide) hP)
    | with_reducible refine keeps_modStandby _ ?_ (sub_trans (by decide) hP) rfl (le_refl _) (by simp)
    | split

theorem keeps_releaseReset {ps : List Part} {s0 s : State}
    (hK : Keeps ps s0 s) (hP : sub [.clock, .beads, .mmu, .fabric, .clasps, .mem, .bezels, .chain, .host, .mbxs,
        .nutas, .ledger, .commit, .faults, .hub, .asy, .standby, .power, .sec] ps = true) :
    Keeps ps s0 (releaseReset s) := by
  unfold releaseReset
  try dsimp only
  repeat' first
    | with_reducible assumption
    | dsimp only [keeps_mk]
    | with_reducible refine KeepsMk.w_ledger ?_ (sub_mem (by decide) hP) (fun x => x)
    | with_reducible refine keeps_recordReturned ?_ (sub_trans (by decide) hP)
    | with_reducible refine keeps_dropMain ?_ (sub_trans (by decide) hP)
    | with_reducible refine keeps_modStandby _ ?_ (sub_trans (by decide) hP) rfl (le_refl _) (by simp)
    | split

theorem keeps_execRampPhase {ps : List Part} {s0 s : State} (how : RampEnd)
    (hK : Keeps ps s0 s) (hP : sub [.clock, .beads, .mmu, .fabric, .clasps, .mem, .bezels, .chain, .host, .mbxs,
        .nutas, .ledger, .commit, .faults, .hub, .asy, .standby, .power, .sec, .free] ps = true) :
    KeepsOut ps s0 (execRampPhase how s) := by
  unfold execRampPhase
  try dsimp only
  repeat' first
    | with_reducible assumption
    | with_reducible refine keeps_releaseReset ?_ (sub_trans (by decide) hP)
    | with_reducible refine keeps_failBringUp _ ?_ (sub_trans (by decide) hP)
    | with_reducible refine keepsOut_next ?_
    | with_reducible refine keepsOut_whenOk ?_ ?_
    | split

theorem keeps_execBringUpPhaseTimeout {ps : List Part} {s0 s : State}
    (hK : Keeps ps s0 s) (hP : sub [.clock, .standby, .free] ps = true) :
    KeepsOut ps s0 (execBringUpPhaseTimeout s) := by
  unfold execBringUpPhaseTimeout
  try dsimp only
  repeat' first
    | with_reducible assumption
    | with_reducible refine keeps_failBringUp _ ?_ (sub_trans (by decide) hP)
    | with_reducible refine keepsOut_next ?_
    | with_reducible refine keepsOut_whenOk ?_ ?_
    | split

theorem keeps_eachBead {ps : List Part} {s0 s : State} (f : Nat → State → State)
    (hK : Keeps ps s0 s) (hP : sub [] ps = true)
    (hf : ∀ k t, Keeps ps s0 t → Keeps ps s0 (f k t)) :
    Keeps ps s0 (eachBead f s) := by
  unfold eachBead
  try dsimp only
  repeat' first
    | with_reducible assumption
    | with_reducible refine hf _ _ ?_
    | with_reducible refine Keeps.foldl _ ?_ (fun t a hK => ?_)
    | with_reducible refine Keeps.foldlSnd _ ?_ (fun a k hK => ?_)
    | split

theorem keeps_takeSnaps {ps : List Part} {s0 s : State}
    (hK : Keeps ps s0 s) (hP : sub [.beads, .clasps] ps = true) :
    Keeps ps s0 (takeSnaps s) := by
  unfold takeSnaps
  try dsimp only
  repeat' first
    | with_reducible assumption
    | with_reducible refine keeps_modBead _ _ ?_ (sub_trans (by decide) hP)
    | with_reducible refine keeps_eachBead _ ?_ (sub_trans (by decide) hP) (fun k t hK => ?_)
    | with_reducible refine keeps_claspSnap ?_ (sub_trans (by decide) hP)
    | split

theorem keeps_holdFabric {ps : List Part} {s0 s : State}
    (hK : Keeps ps s0 s) (hP : sub [.fabric] ps = true) :
    Keeps ps s0 (holdFabric s) := by
  unfold holdFabric
  try dsimp only
  repeat' first
    | with_reducible assumption
    | dsimp only [keeps_mk]
    | with_reducible refine KeepsMk.w_fabric ?_ (sub_mem (by decide) hP)
    | split

theorem keeps_holdAll {ps : List Part} {s0 s : State}
    (hK : Keeps ps s0 s) (hP : sub [.beads, .mmu, .fabric, .clasps, .bezels] ps = true) :
    Keeps ps s0 (holdAll s) := by
  unfold holdAll
  try dsimp only
  repeat' first
    | with_reducible assumption
    | dsimp only [keeps_mk]
    | with_reducible refine KeepsMk.w_mmu ?_ (sub_mem (by decide) hP) (fun x => x)
    | with_reducible refine keeps_modBead _ _ ?_ (sub_trans (by decide) hP)
    | with_reducible refine keeps_claspRestore ?_ (sub_trans (by decide) hP)
    | with_reducible refine keeps_eachBead _ ?_ (sub_trans (by decide) hP) (fun k t hK => ?_)
    | with_reducible refine keeps_holdFabric ?_ (sub_trans (by decide) hP)
    | with_reducible refine keeps_modBezel _ _ ?_ (sub_trans (by decide) hP)
    | with_reducible refine KeepsMk.w_mmu ?_ (sub_mem (by decide) hP) (fun _ _ => Nat.zero_le _)
    | with_reducible refine Keeps.upToSnd _ ?_ (fun a k hK => ?_)
    | with_reducible refine Keeps.upTo _ ?_ (fun t k hK => ?_)
    | split

theorem keeps_restartStrand {ps : List Part} {s0 s : State} (o : Nat) (n : Nat) (k : StrandSnap)
    (hK : Keeps ps s0 s) (hP : sub [.beads, .bezels, .ledger, .faults, .asy] ps = true) :
    Keeps ps s0 (restartStrand o n k s) := by
  unfold restartStrand
  try dsimp only
  repeat' first
    | with_reducible assumption
    | with_reducible refine keeps_modBead _ _ ?_ (sub_trans (by decide) hP)
    | with_reducible refine KeepsGo.get (keeps_strandGo _ _ _ ?_ (sub_trans (by decide) hP)) (by assumption)
    | with_reducible refine keeps_strandGo _ _ _ ?_ (sub_trans (by decide) hP)
    | with_reducible refine keeps_lookDesc _ _ _ ?_ (sub_trans (by decide) hP)
    | split

theorem keeps_beginReplay {ps : List Part} {s0 s : State}
    (hK : Keeps ps s0 s) (hP : sub [.beads, .clasps, .bezels, .ledger, .faults, .asy] ps = true) :
    Keeps ps s0 (beginReplay s) := by
  unfold beginReplay
  try dsimp only
  repeat' first
    | with_reducible assumption
    | with_reducible refine keeps_restartStrand _ _ _ ?_ (sub_trans (by decide) hP)
    | with_reducible refine keeps_eachBead _ ?_ (sub_trans (by decide) hP) (fun k t hK => ?_)
    | with_reducible refine keeps_claspSnap ?_ (sub_trans (by decide) hP)
    | with_reducible refine Keeps.foldl _ ?_ (fun t a hK => ?_)
    | with_reducible refine Keeps.foldlSnd _ ?_ (fun a k hK => ?_)
    | split

theorem keeps_loadReach {ps : List Part} {s0 s : State}
    (hK : Keeps ps s0 s) (hP : sub [.nutas] ps = true) :
    Keeps ps s0 (loadReach s) := by
  unfold loadReach
  try dsimp only
  repeat' first
    | with_reducible assumption
    | dsimp only [keeps_mk]
    | with_reducible refine KeepsMk.w_nutas ?_ (sub_mem (by decide) hP)
    | split

theorem keeps_failOpen {ps : List Part} {s0 s : State} (p : Nat)
    (hK : Keeps ps s0 s) (hP : sub [.nutas] ps = true) :
    Keeps ps s0 (failOpen p s) := by
  unfold failOpen
  try dsimp only
  repeat' first
    | with_reducible assumption
    | with_reducible refine keeps_loadReach ?_ (sub_trans (by decide) hP)
    | with_reducible refine keeps_setPos _ _ ?_ (sub_trans (by decide) hP)
    | split

theorem keeps_stopForSubst {ps : List Part} {s0 s : State} (o : Nat)
    (hK : Keeps ps s0 s) (hP : sub [.beads, .clasps] ps = true) :
    Keeps ps s0 (stopForSubst o s) := by
  unfold stopForSubst
  try dsimp only
  repeat' first
    | with_reducible assumption
    | dsimp only [keeps_mk]
    | with_reducible refine KeepsMk.w_clasps ?_ (sub_mem (by decide) hP)
    | with_reducible refine keeps_modBead _ _ ?_ (sub_trans (by decide) hP)
    | split

theorem keeps_beginSubst {ps : List Part} {s0 s : State} (p : Nat)
    (hK : Keeps ps s0 s) (hP : sub [.beads, .clasps, .nutas] ps = true) :
    Keeps ps s0 (beginSubst p s) := by
  unfold beginSubst
  try dsimp only
  repeat' first
    | with_reducible assumption
    | with_reducible refine keeps_modNutas _ ?_ (sub_trans (by decide) hP)
    | with_reducible refine keeps_stopForSubst _ ?_ (sub_trans (by decide) hP)
    | split

theorem keeps_faultedBead {ps : List Part} {s0 s : State} (o : Nat)
    (hK : Keeps ps s0 s) (hP : sub [.clock, .beads, .clasps, .nutas] ps = true) :
    Keeps ps s0 (faultedBead o s) := by
  unfold faultedBead
  try dsimp only
  repeat' first
    | with_reducible assumption
    | with_reducible refine keeps_beginSubst _ ?_ (sub_trans (by decide) hP)
    | with_reducible refine keeps_failOpen _ ?_ (sub_trans (by decide) hP)
    | with_reducible refine keeps_endService _ ?_ (sub_trans (by decide) hP)
    | split

theorem keeps_waitingSubst {ps : List Part} {s0 s : State} (num : Nat) (p : Nat)
    (hK : Keeps ps s0 s) (hP : sub [.beads, .clasps, .mbxs, .nutas, .mgmt] ps = true) :
    Keeps ps s0 (waitingSubst num p s) := by
  unfold waitingSubst
  try dsimp only
  repeat' first
    | with_reducible assumption
    | with_reducible refine keeps_beginSubst _ ?_ (sub_trans (by decide) hP)
    | with_reducible refine keeps_dropWait _ ?_ (sub_trans (by decide) hP)
    | with_reducible refine keeps_complete _ _ _ _ ?_ (sub_trans (by decide) hP)
    | split

theorem keeps_beginSubsts {ps : List Part} {s0 s : State} (named : Bool)
    (hK : Keeps ps s0 s) (hP : sub [.clock, .beads, .clasps, .mbxs, .nutas, .mgmt] ps = true) :
    Keeps ps s0 (beginSubsts named s) := by
  unfold beginSubsts
  try dsimp only
  repeat' first
    | with_reducible assumption
    | dsimp only [keeps_mk]
    | with_reducible refine KeepsMk.w_clock ?_ (sub_mem (by decide) hP) (fun x => x)
    | with_reducible refine keeps_faultedBead _ ?_ (sub_trans (by decide) hP)
    | with_reducible refine keeps_waitingSubst _ _ ?_ (sub_trans (by decide) hP)
    | with_reducible refine Keeps.foldl _ ?_ (fun t a hK => ?_)
    | with_reducible refine Keeps.foldlSnd _ ?_ (fun a k hK => ?_)
    | split

theorem keeps_migrate {ps : List Part} {s0 s : State} (o : Nat)
    (hK : Keeps ps s0 s) (hP : sub [.mem, .ledger, .faults] ps = true) :
    Keeps ps s0 (migrate o s) := by
  unfold migrate
  try dsimp only
  repeat' first
    | with_reducible assumption
    | with_reducible refine keeps_recordPart _ _ _ _ _ _ ?_ (sub_trans (by decide) hP)
    | with_reducible refine keeps_dmemPut _ _ _ ?_ (sub_trans (by decide) hP)
    | with_reducible refine Keeps.foldl _ ?_ (fun t a hK => ?_)
    | with_reducible refine Keeps.foldlSnd _ ?_ (fun a k hK => ?_)
    | split

theorem keeps_substDone {ps : List Part} {s0 s : State} (p : Nat) (o : Nat)
    (hK : Keeps ps s0 s) (hP : sub [.beads, .mem, .nutas, .ledger, .faults] ps = true) :
    Keeps ps s0 (substDone p o s) := by
  unfold substDone
  try dsimp only
  repeat' first
    | with_reducible assumption
    | with_reducible refine keeps_modBead _ _ ?_ (sub_trans (by decide) hP)
    | with_reducible refine keeps_modNutas _ ?_ (sub_trans (by decide) hP)
    | with_reducible refine keeps_setPos _ _ ?_ (sub_trans (by decide) hP)
    | with_reducible refine keeps_migrate _ ?_ (sub_trans (by decide) hP)
    | split

theorem keeps_endSubst {ps : List Part} {s0 s : State} (fails : Bool) (tick : BitVec 48) (p : Nat)
    (hK : Keeps ps s0 s) (hP : sub [.clock, .beads, .mem, .mbxs, .nutas, .ledger, .faults, .mgmt] ps = true) :
    Keeps ps s0 (endSubst fails tick p s) := by
  unfold endSubst
  try dsimp only
  repeat' first
    | with_reducible assumption
    | with_reducible refine keeps_loadReach ?_ (sub_trans (by decide) hP)
    | with_reducible refine keeps_dropWait _ ?_ (sub_trans (by decide) hP)
    | with_reducible refine keeps_complete _ _ _ _ ?_ (sub_trans (by decide) hP)
    | with_reducible refine keeps_setPos _ _ ?_ (sub_trans (by decide) hP)
    | with_reducible refine keeps_expressRecord _ ?_ (sub_trans (by decide) hP)
    | with_reducible refine keeps_substDone _ _ ?_ (sub_trans (by decide) hP)
    | with_reducible refine keeps_inTick _ _ ?_ (sub_trans (by decide) hP) (fun t hK => ?_)
    | with_reducible refine keeps_endService _ ?_ (sub_trans (by decide) hP)
    | with_reducible refine keeps_beadFaultRecord _ _ _ ?_ (sub_trans (by decide) hP)
    | split

theorem keeps_endSubsts {ps : List Part} {s0 s : State} (spareFail : List RouterN) (tick : BitVec 48)
    (hK : Keeps ps s0 s) (hP : sub [.clock, .beads, .mem, .mbxs, .nutas, .ledger, .faults, .mgmt] ps = true) :
    Keeps ps s0 (endSubsts spareFail tick s) := by
  unfold endSubsts
  try dsimp only
  repeat' first
    | with_reducible assumption
    | with_reducible refine keeps_modNutas _ ?_ (sub_trans (by decide) hP)
    | with_reducible refine keeps_endSubst _ _ _ ?_ (sub_trans (by decide) hP)
    | with_reducible refine Keeps.foldl _ ?_ (fun t a hK => ?_)
    | with_reducible refine Keeps.foldlSnd _ ?_ (fun a k hK => ?_)
    | split

theorem keeps_modClock {ps : List Part} {s0 s : State} (f : Clock → Clock)
    (hK : Keeps ps s0 s) (hP : sub [.clock] ps = true)
    (hh : s.clock.ck < 16384 → (f s.clock).ck < 16384) :
    Keeps ps s0 (modClock f s) := by
  unfold modClock
  dsimp only [keeps_mk]
  exact KeepsMk.w_clock hK (sub_mem (by decide) hP) hh

theorem keeps_modLedger {ps : List Part} {s0 s : State} (f : Ledger → Ledger)
    (hK : Keeps ps s0 s) (hP : sub [.ledger] ps = true)
    (hh : s.ledger.traceBuf.length ≤ 64 → (f s.ledger).traceBuf.length ≤ 64) :
    Keeps ps s0 (modLedger f s) := by
  unfold modLedger
  dsimp only [keeps_mk]
  exact KeepsMk.w_ledger hK (sub_mem (by decide) hP) hh

theorem keeps_recordCheck {ps : List Part} {s0 s : State} (own : Bool × Nat × Nat) (peer : Bool)
    (hK : Keeps ps s0 s) (hP : sub [.ledger, .faults, .hub] ps = true) :
    Keeps ps s0 (recordCheck own peer s) := by
  unfold recordCheck
  try dsimp only
  repeat' first
    | with_reducible assumption
    | with_reducible refine keeps_hubRaise _ ?_ (sub_trans (by decide) hP)
    | with_reducible refine keeps_modLedger _ ?_ (sub_trans (by decide) hP) (fun x => x)
    | with_reducible refine keeps_recordAt _ _ _ ?_ (sub_trans (by decide) hP)
    | split

theorem keeps_noReplay {ps : List Part} {s0 s : State} (ovr : Bool)
    (hK : Keeps ps s0 s) (hP : sub [.clock] ps = true) :
    Keeps ps s0 (noReplay ovr s) := by
  unfold noReplay
  try dsimp only
  repeat' first
    | with_reducible assumption
    | with_reducible refine keeps_endService _ ?_ (sub_trans (by decide) hP)
    | split

theorem keeps_planDrop {ps : List Part} {s0 s : State} (new : Nat)
    (hK : Keeps ps s0 s) (hP : sub [.clock, .mbxs, .nutas, .mgmt] ps = true) :
    Keeps ps s0 (planDrop new s) := by
  unfold planDrop
  try dsimp only
  repeat' first
    | with_reducible assumption
    | with_reducible refine keeps_complete _ _ _ _ ?_ (sub_trans (by decide) hP)
    | with_reducible refine keeps_clearPlan ?_ (sub_trans (by decide) hP)
    | with_reducible refine keeps_inTick _ _ ?_ (sub_trans (by decide) hP) (fun t hK => ?_)
    | split

theorem keeps_markImages {ps : List Part} {s0 s : State} (k : Nat) (ending : Nat)
    (hK : Keeps ps s0 s) (hP : sub [.beads] ps = true) :
    Keeps ps s0 (markImages k ending s) := by
  unfold markImages
  try dsimp only
  repeat' first
    | with_reducible assumption
    | with_reducible refine keeps_modBead _ _ ?_ (sub_trans (by decide) hP)
    | with_reducible refine Keeps.foldl _ ?_ (fun t a hK => ?_)
    | with_reducible refine Keeps.foldlSnd _ ?_ (fun a k hK => ?_)
    | split

theorem keeps_swapSetting {ps : List Part} {s0 s : State}
    (hK : Keeps ps s0 s) (hP : sub [.fabric, .clasps, .nutas] ps = true) :
    Keeps ps s0 (swapSetting s) := by
  unfold swapSetting
  dsimp only [keeps_mk]
  exact KeepsMk.over (s := s) (.inl rfl) (.inl rfl) (.inl rfl) (.inl rfl) (.inr (sub_mem (by decide) hP))
      (.inr (sub_mem (by decide) hP)) (.inl rfl) (.inl rfl) (.inl rfl) (.inl rfl) (.inl rfl)
      (.inr (sub_mem (by decide) hP)) (.inl rfl) (.inl rfl) (.inl rfl) (.inl rfl) (.inl rfl) (.inl rfl)
      (.inl rfl) (.inl rfl) (.inl rfl) (.inl rfl) (.inl rfl) hK

theorem keeps_swapImages {ps : List Part} {s0 s : State} (ending : Nat)
    (hK : Keeps ps s0 s) (hP : sub [.beads, .ledger] ps = true) :
    Keeps ps s0 (swapImages ending s) := by
  unfold swapImages
  try dsimp only
  repeat' first
    | with_reducible assumption
    | with_reducible refine keeps_modBead _ _ ?_ (sub_trans (by decide) hP)
    | with_reducible refine keeps_modLedger _ ?_ (sub_trans (by decide) hP) (fun x => x)
    | with_reducible refine Keeps.foldl _ ?_ (fun t a hK => ?_)
    | with_reducible refine Keeps.foldlSnd _ ?_ (fun a k hK => ?_)
    | split

theorem keeps_programsDone {ps : List Part} {s0 s : State} (new : Nat)
    (hK : Keeps ps s0 s) (hP : sub [.mbxs, .nutas, .mgmt] ps = true) :
    Keeps ps s0 (programsDone new s) := by
  unfold programsDone
  try dsimp only
  repeat' first
    | with_reducible assumption
    | with_reducible refine keeps_dropWait _ ?_ (sub_trans (by decide) hP)
    | with_reducible refine keeps_complete _ _ _ _ ?_ (sub_trans (by decide) hP)
    | with_reducible refine Keeps.foldl _ ?_ (fun t a hK => ?_)
    | with_reducible refine Keeps.foldlSnd _ ?_ (fun a k hK => ?_)
    | split

theorem keeps_swapStores {ps : List Part} {s0 s : State} (ending : Nat) (new : Nat)
    (hK : Keeps ps s0 s) (hP : sub [.clock, .beads, .mmu, .fabric, .clasps, .mem, .bezels, .mbxs, .nutas, .ledger,
        .faults, .hub, .asy, .mgmt] ps = true) :
    Keeps ps s0 (swapStores ending new s) := by
  unfold swapStores
  split
  · exact hK
  · split
    · exact hK
    · refine keeps_finishLoads (keeps_addLoad _ (keeps_completeWaits _ _ _ ?_ (sub_trans (by decide) hP))
        (sub_trans (by decide) hP)) (sub_trans (by decide) hP)
      dsimp only [keeps_mk]
      refine KeepsMk.over (s := s) (.inl rfl) (.inl rfl) (.inr (sub_mem (by decide) hP)) (.inr ⟨sub_mem (by decide)
          hP, ?_⟩) (.inl rfl)
        (.inl rfl) (.inl rfl) (.inl rfl) (.inl rfl) (.inl rfl) (.inl rfl) (.inl rfl)
        (.inr ⟨sub_mem (by decide) hP, fun x => x⟩) (.inl rfl) (.inl rfl) (.inl rfl) (.inl rfl) (.inl rfl)
        (.inl rfl) (.inl rfl) (.inl rfl) (.inl rfl) (.inl rfl) hK
      intro h k
      have hm : ∀ (l : Tbl (List Walk)), (tblGet [] (l.map fun p => (p.1, p.2.map fun w => { w with cached := false
          })) k).length =
          (tblGet [] l k).length := by
        intro l
        induction l with
        | nil => rfl
        | cons a r ih =>
          simp only [List.map_cons, tblGet]
          split
          · exact List.length_map _
          · exact ih
      dsimp only
      rw [hm]
      exact h k

theorem keeps_viewDone {ps : List Part} {s0 s : State} (new : Nat) (w : Waits)
    (hK : Keeps ps s0 s) (hP : sub [.mbxs, .nutas, .mgmt] ps = true) :
    Keeps ps s0 (viewDone new w s) := by
  unfold viewDone
  try dsimp only
  repeat' first
    | with_reducible assumption
    | with_reducible refine keeps_dropWait _ ?_ (sub_trans (by decide) hP)
    | with_reducible refine keeps_complete _ _ _ _ ?_ (sub_trans (by decide) hP)
    | with_reducible refine keeps_setCohort _ _ ?_ (sub_trans (by decide) hP)
    | split

theorem keeps_swapViews {ps : List Part} {s0 s : State} (ending : Nat) (new : Nat)
    (hK : Keeps ps s0 s) (hP : sub [.beads, .clasps, .mem, .bezels, .mbxs, .nutas, .ledger, .faults, .asy, .mgmt] ps
        = true) :
    Keeps ps s0 (swapViews ending new s) := by
  unfold swapViews
  try dsimp only
  repeat' first
    | with_reducible assumption
    | with_reducible refine keeps_viewDone _ _ ?_ (sub_trans (by decide) hP)
    | with_reducible refine keeps_modNutas _ ?_ (sub_trans (by decide) hP)
    | with_reducible refine keeps_eachBead _ ?_ (sub_trans (by decide) hP) (fun k t hK => ?_)
    | with_reducible refine keeps_feedAll _ ?_ (sub_trans (by decide) hP)
    | with_reducible refine keeps_modLedger _ ?_ (sub_trans (by decide) hP) (fun x => x)
    | with_reducible refine Keeps.foldl _ ?_ (fun t a hK => ?_)
    | with_reducible refine Keeps.foldlSnd _ ?_ (fun a k hK => ?_)
    | split

theorem keeps_swapsAndChecks {ps : List Part} {s0 s : State} (o : Opens) (ending : Nat) (new : Nat)
    (hK : Keeps ps s0 s) (hP : sub [.clock, .beads, .mmu, .fabric, .clasps, .mem, .bezels, .mbxs, .nutas, .ledger,
        .commit, .faults, .hub, .asy, .mgmt] ps = true) :
    Keeps ps s0 (swapsAndChecks o ending new s) := by
  unfold swapsAndChecks
  try dsimp only
  repeat' first
    | with_reducible assumption
    | with_reducible refine keeps_programsDone _ ?_ (sub_trans (by decide) hP)
    | with_reducible refine keeps_flip ?_ (sub_trans (by decide) hP)
    | with_reducible refine keeps_swapViews _ _ ?_ (sub_trans (by decide) hP)
    | with_reducible refine keeps_markImages _ _ ?_ (sub_trans (by decide) hP)
    | with_reducible refine keeps_countEv _ _ _ ?_ (sub_trans (by decide) hP)
    | with_reducible refine keeps_hubRaise _ ?_ (sub_trans (by decide) hP)
    | with_reducible refine keeps_swapStores _ _ ?_ (sub_trans (by decide) hP)
    | with_reducible refine keeps_swapImages _ ?_ (sub_trans (by decide) hP)
    | with_reducible refine keeps_claspChecks _ ?_ (sub_trans (by decide) hP)
    | with_reducible refine keeps_swapSetting ?_ (sub_trans (by decide) hP)
    | split

theorem keeps_planStep {ps : List Part} {s0 s : State} (k : Nat)
    (hK : Keeps ps s0 s) (hP : sub [.mem, .bezels, .nutas, .ledger, .faults, .hub, .asy] ps = true) :
    Keeps ps s0 (planStep k s) := by
  unfold planStep
  try dsimp only
  repeat' first
    | with_reducible assumption
    | with_reducible refine keeps_modPlan _ ?_ (sub_trans (by decide) hP)
    | with_reducible refine keeps_schedLook _ _ ?_ (sub_trans (by decide) hP)
    | split

theorem keeps_planNext {ps : List Part} {s0 s : State}
    (hK : Keeps ps s0 s) (hP : sub [.clock, .beads, .mmu, .fabric, .clasps, .mem, .bezels, .mbxs, .nutas, .ledger,
        .faults, .hub, .asy, .mgmt] ps = true) :
    Keeps ps s0 (planNext s) := by
  unfold planNext
  try dsimp only
  repeat' first
    | with_reducible assumption
    | with_reducible refine keeps_beginStepLoad _ _ ?_ (sub_trans (by decide) hP)
    | with_reducible refine keeps_modPlan _ ?_ (sub_trans (by decide) hP)
    | split

theorem keeps_stepPassed {ps : List Part} {s0 s : State}
    (hK : Keeps ps s0 s) (hP : sub [.nutas] ps = true) :
    Keeps ps s0 (stepPassed s) := by
  unfold stepPassed
  try dsimp only
  repeat' first
    | with_reducible assumption
    | with_reducible refine keeps_modPlan _ ?_ (sub_trans (by decide) hP)
    | split

theorem keeps_recordEnd {ps : List Part} {s0 s : State}
    (hK : Keeps ps s0 s) (hP : sub [.ledger, .faults, .hub] ps = true) :
    Keeps ps s0 (recordEnd s) := by
  unfold recordEnd
  try dsimp only
  repeat' first
    | with_reducible assumption
    | with_reducible refine keeps_hubRaise _ ?_ (sub_trans (by decide) hP)
    | with_reducible refine keeps_modLedger _ ?_ (sub_trans (by decide) hP) (fun x => x)
    | with_reducible refine keeps_recordAt _ _ _ ?_ (sub_trans (by decide) hP)
    | split

theorem keeps_leaveScheduled {ps : List Part} {s0 s : State}
    (hK : Keeps ps s0 s) (hP : sub [.clock, .mbxs, .nutas, .mgmt] ps = true) :
    Keeps ps s0 (leaveScheduled s) := by
  unfold leaveScheduled
  try dsimp only
  repeat' first
    | with_reducible assumption
    | with_reducible refine keeps_completeWaits _ _ _ ?_ (sub_trans (by decide) hP)
    | with_reducible refine keeps_modClock _ ?_ (sub_trans (by decide) hP) (fun x => x)
    | with_reducible refine keeps_modClock _ ?_ (sub_trans (by decide) hP) (fun x => Nat.zero_lt_succ _)
    | with_reducible refine keeps_complete _ _ _ _ ?_ (sub_trans (by decide) hP)
    | with_reducible refine keeps_clearPlan ?_ (sub_trans (by decide) hP)
    | split

theorem keeps_enterTick {ps : List Part} {s0 s : State} (o : Opens) (new : BitVec 48)
    (hK : Keeps ps s0 s) (hP : sub [.clock, .mem, .bezels, .mbxs, .nutas, .ledger, .faults, .hub, .asy, .mgmt] ps =
        true) :
    Keeps ps s0 (enterTick o new s) := by
  unfold enterTick
  try dsimp only
  repeat' first
    | with_reducible assumption
    | with_reducible refine keeps_modPlan _ ?_ (sub_trans (by decide) hP)
    | with_reducible refine keeps_modClock _ ?_ (sub_trans (by decide) hP) (fun x => x)
    | with_reducible refine keeps_modClock _ ?_ (sub_trans (by decide) hP) (fun x => Nat.zero_lt_succ _)
    | with_reducible refine keeps_leaveScheduled ?_ (sub_trans (by decide) hP)
    | with_reducible refine keeps_planStep _ ?_ (sub_trans (by decide) hP)
    | with_reducible refine keeps_modLedger _ ?_ (sub_trans (by decide) hP) (fun x => x)
    | split

theorem keeps_openPorts {ps : List Part} {s0 s : State}
    (hK : Keeps ps s0 s) (hP : sub [.fabric, .chain, .out] ps = true) :
    Keeps ps s0 (openPorts s) := by
  unfold openPorts
  try dsimp only
  repeat' first
    | with_reducible assumption
    | with_reducible refine keeps_releaseResps ?_ (sub_trans (by decide) hP)
    | split

theorem keeps_retireWork {ps : List Part} {s0 s : State} (ending : BitVec 48)
    (hK : Keeps ps s0 s) (hP : sub [.ledger] ps = true) :
    Keeps ps s0 (retireWork ending s) := by
  unfold retireWork
  try dsimp only
  repeat' first
    | with_reducible assumption
    | with_reducible refine keeps_modLedger _ ?_ (sub_trans (by decide) hP) (fun x => x)
    | split

theorem keeps_turnLedger {ps : List Part} {s0 s : State} (o : Opens) (new : BitVec 48) (fseq : Word32) (fcount :
    BitVec 16)
    (hK : Keeps ps s0 s) (hP : sub [.clock, .ledger] ps = true) :
    Keeps ps s0 (turnLedger o new fseq fcount s) := by
  unfold turnLedger
  try dsimp only
  repeat' first
    | with_reducible assumption
    | with_reducible refine keeps_traceItem _ ?_ (sub_trans (by decide) hP)
    | with_reducible refine keeps_modLedger _ ?_ (sub_trans (by decide) hP) (fun x => x)
    | with_reducible refine keeps_endService _ ?_ (sub_trans (by decide) hP)
    | split

theorem keeps_wakeBeads {ps : List Part} {s0 s : State}
    (hK : Keeps ps s0 s) (hP : sub [.beads] ps = true) :
    Keeps ps s0 (wakeBeads s) := by
  unfold wakeBeads
  try dsimp only
  repeat' first
    | with_reducible assumption
    | dsimp only [keeps_mk]
    | with_reducible refine KeepsMk.w_beads ?_ (sub_mem (by decide) hP)
    | split

theorem keeps_reseed {ps : List Part} {s0 s : State}
    (hK : Keeps ps s0 s) (hP : sub [.beads] ps = true) :
    Keeps ps s0 (reseed s) := by
  unfold reseed
  try dsimp only
  repeat' first
    | with_reducible assumption
    | dsimp only [keeps_mk]
    | with_reducible refine KeepsMk.w_beads ?_ (sub_mem (by decide) hP)
    | split

theorem keeps_openBeads {ps : List Part} {s0 s : State} (o : Opens) (wasReplay : Bool)
    (hK : Keeps ps s0 s) (hP : sub [.clock, .beads, .mmu, .fabric, .clasps, .bezels, .mbxs, .nutas, .ledger, .faults,
        .asy, .mgmt] ps = true) :
    Keeps ps s0 (openBeads o wasReplay s) := by
  unfold openBeads
  try dsimp only
  repeat' first
    | with_reducible assumption
    | with_reducible refine keeps_beginSubsts _ ?_ (sub_trans (by decide) hP)
    | with_reducible refine keeps_takeSnaps ?_ (sub_trans (by decide) hP)
    | with_reducible refine keeps_beginReplay ?_ (sub_trans (by decide) hP)
    | with_reducible refine keeps_wakeBeads ?_ (sub_trans (by decide) hP)
    | with_reducible refine keeps_holdAll ?_ (sub_trans (by decide) hP)
    | split

theorem keeps_takeDepth {ps : List Part} {s0 s : State}
    (hK : Keeps ps s0 s) (hP : sub [.mbxs, .nutas, .ledger, .mgmt] ps = true) :
    Keeps ps s0 (takeDepth s) := by
  unfold takeDepth
  try dsimp only
  repeat' first
    | with_reducible assumption
    | with_reducible refine keeps_completeWaits _ _ _ ?_ (sub_trans (by decide) hP)
    | with_reducible refine keeps_modLedger _ ?_ (sub_trans (by decide) hP) (fun x => x)
    | split

theorem keeps_takeCounters {ps : List Part} {s0 s : State} (new : BitVec 48)
    (hK : Keeps ps s0 s) (hP : sub [.fabric, .mem, .bezels, .mbxs, .nutas, .ledger, .faults, .hub, .asy, .mgmt, .out,
        .free] ps = true) :
    Keeps ps s0 (takeCounters new s) := by
  unfold takeCounters
  try dsimp only
  repeat' first
    | with_reducible assumption
    | with_reducible refine keeps_completeWaits _ _ _ ?_ (sub_trans (by decide) hP)
    | with_reducible refine keeps_configTake _ ?_ (sub_trans (by decide) hP)
    | with_reducible refine keeps_captures _ ?_ (sub_trans (by decide) hP)
    | split

theorem keeps_ownership {ps : List Part} {s0 s : State}
    (hK : Keeps ps s0 s) (hP : sub [.ledger, .faults, .standby, .mgmt, .out] ps = true) :
    Keeps ps s0 (ownership s) := by
  unfold ownership
  try dsimp only
  repeat' first
    | with_reducible assumption
    | with_reducible refine keeps_recordReturned ?_ (sub_trans (by decide) hP)
    | with_reducible refine keeps_answerTake _ ?_ (sub_trans (by decide) hP)
    | with_reducible refine keeps_modStandby _ ?_ (sub_trans (by decide) hP) rfl (le_refl _) (by simp)
    | split

theorem keeps_handoverFails {ps : List Part} {s0 s : State} (k : Nat)
    (hK : Keeps ps s0 s) (hP : sub [.mbxs, .nutas, .ledger, .faults, .standby, .mgmt, .free] ps = true) :
    Keeps ps s0 (handoverFails k s) := by
  unfold handoverFails
  try dsimp only
  repeat' first
    | with_reducible assumption
    | with_reducible refine keeps_drawn ?_ (sub_trans (by decide) hP)
    | with_reducible refine keeps_modNutas _ ?_ (sub_trans (by decide) hP)
    | with_reducible refine keeps_complete _ _ _ _ ?_ (sub_trans (by decide) hP)
    | with_reducible refine keeps_modStandby _ ?_ (sub_trans (by decide) hP) rfl (le_refl _) (by simp)
    | with_reducible refine keeps_recordFault _ ?_ (sub_trans (by decide) hP)
    | with_reducible refine keeps_modStandby _ ?_ (sub_trans (by decide) hP) (by unfold emptyOther; split <;> rfl) (by unfold emptyOther; split <;> exact le_refl _) (by unfold emptyOther; split <;> simp)
    | split

theorem keeps_handoverTurn {ps : List Part} {s0 s : State} (new : Nat)
    (hK : Keeps ps s0 s) (hP : sub [.mbxs, .nutas, .ledger, .faults, .standby, .mgmt, .free] ps = true) :
    Keeps ps s0 (handoverTurn new s) := by
  unfold handoverTurn
  try dsimp only
  repeat' first
    | with_reducible assumption
    | with_reducible refine keeps_handoverFails _ ?_ (sub_trans (by decide) hP)
    | with_reducible refine keeps_modNutas _ ?_ (sub_trans (by decide) hP)
    | split

theorem keeps_retrainTurn {ps : List Part} {s0 s : State}
    (hK : Keeps ps s0 s) (hP : sub [.bezels] ps = true) :
    Keeps ps s0 (retrainTurn s) := by
  unfold retrainTurn
  try dsimp only
  repeat' first
    | with_reducible assumption
    | dsimp only [keeps_mk]
    | with_reducible refine KeepsMk.w_bezels ?_ (sub_mem (by decide) hP)
    | split

theorem keeps_measure {ps : List Part} {s0 s : State} (watts : Nat) (celsius : Nat) (vin : BitVec 10)
    (hK : Keeps ps s0 s) (hP : sub [.clock, .power] ps = true) :
    Keeps ps s0 (Machine.measure watts celsius vin s) := by
  unfold Machine.measure
  try dsimp only
  repeat' first
    | with_reducible assumption
    | dsimp only [keeps_mk]
    | with_reducible refine KeepsMk.w_power ?_ (sub_mem (by decide) hP)
    | with_reducible refine keeps_endService _ ?_ (sub_trans (by decide) hP)
    | split

theorem keeps_powerTurn {ps : List Part} {s0 s : State} (watts : Nat) (celsius : Nat) (vin : BitVec 10)
    (hK : Keeps ps s0 s) (hP : sub [.clock, .beads, .mmu, .fabric, .clasps, .mem, .bezels, .chain, .host, .mbxs,
        .nutas, .ledger, .commit, .faults, .hub, .asy, .standby, .power, .sec, .mgmt, .out] ps = true) :
    Keeps ps s0 (powerTurn watts celsius vin s) := by
  unfold powerTurn
  try dsimp only
  repeat' first
    | with_reducible assumption
    | with_reducible refine keeps_measure _ _ _ ?_ (sub_trans (by decide) hP)
    | with_reducible refine keeps_trip ?_ (sub_trans (by decide) hP)
    | split

theorem keeps_countTick {ps : List Part} {s0 s : State}
    (hK : Keeps ps s0 s) (hP : sub [.asy] ps = true) :
    Keeps ps s0 (countTick s) := by
  unfold countTick
  try dsimp only
  repeat' first
    | with_reducible assumption
    | with_reducible refine keeps_countEv _ _ _ ?_ (sub_trans (by decide) hP)
    | split

theorem keeps_closeTick {ps : List Part} {s0 s : State} (spareFail : List RouterN)
    (hK : Keeps ps s0 s) (hP : sub [.clock, .beads, .fabric, .clasps, .mem, .bezels, .chain, .mbxs, .nutas, .ledger,
        .faults, .hub, .asy, .mgmt, .out] ps = true) :
    Keeps ps s0 (closeTick spareFail s).1 := by
  unfold closeTick
  try dsimp only
  repeat' first
    | with_reducible assumption
    | with_reducible refine keeps_countLost ?_ (sub_trans (by decide) hP)
    | with_reducible refine keeps_countTick ?_ (sub_trans (by decide) hP)
    | with_reducible refine keeps_endCk ?_ (sub_trans (by decide) hP)
    | with_reducible refine keeps_alignTick ?_ (sub_trans (by decide) hP)
    | with_reducible refine keeps_endSubsts _ _ ?_ (sub_trans (by decide) hP)
    | with_reducible refine keeps_takeDepth ?_ (sub_trans (by decide) hP)
    | with_reducible refine keeps_inTick _ _ ?_ (sub_trans (by decide) hP) (fun t hK => ?_)
    | split

theorem keeps_decide1 {ps : List Part} {s0 s : State} (own : Bool × Nat × Nat) (peer : Bool)
    (hK : Keeps ps s0 s) (hP : sub [.clock, .ledger, .faults, .hub] ps = true) :
    Keeps ps s0 (decide1 own peer s) := by
  unfold decide1
  try dsimp only
  repeat' first
    | with_reducible assumption
    | with_reducible refine keeps_noReplay _ ?_ (sub_trans (by decide) hP)
    | with_reducible refine keeps_modClock _ ?_ (sub_trans (by decide) hP) (fun x => x)
    | with_reducible refine keeps_modClock _ ?_ (sub_trans (by decide) hP) (fun x => Nat.zero_lt_succ _)
    | with_reducible refine keeps_recordCheck _ _ ?_ (sub_trans (by decide) hP)
    | split

theorem keeps_endingTick {ps : List Part} {s0 s : State} (o : Opens)
    (hK : Keeps ps s0 s) (hP : sub [.nutas, .ledger, .faults, .hub] ps = true) :
    Keeps ps s0 (endingTick o s) := by
  unfold endingTick
  try dsimp only
  repeat' first
    | with_reducible assumption
    | with_reducible refine keeps_recordEnd ?_ (sub_trans (by decide) hP)
    | with_reducible refine keeps_retireWork _ ?_ (sub_trans (by decide) hP)
    | with_reducible refine keeps_stepPassed ?_ (sub_trans (by decide) hP)
    | split

theorem keeps_turn {ps : List Part} {s0 s : State} (o : Opens) (ending : Nat) (new : Nat)
    (hK : Keeps ps s0 s) (hP : sub [.clock, .beads, .mmu, .fabric, .clasps, .mem, .bezels, .chain, .mbxs, .nutas,
        .ledger, .commit, .faults, .hub, .asy, .mgmt, .out, .free] ps = true) :
    Keeps ps s0 (turn o ending new s) := by
  unfold turn
  try dsimp only
  repeat' first
    | with_reducible assumption
    | with_reducible refine keeps_enterTick _ _ ?_ (sub_trans (by decide) hP)
    | with_reducible refine keeps_openBeads _ _ ?_ (sub_trans (by decide) hP)
    | with_reducible refine keeps_timingClear ?_ (sub_trans (by decide) hP)
    | with_reducible refine keeps_reseed ?_ (sub_trans (by decide) hP)
    | with_reducible refine keeps_modClock _ ?_ (sub_trans (by decide) hP) (fun x => x)
    | with_reducible refine keeps_modClock _ ?_ (sub_trans (by decide) hP) (fun x => Nat.zero_lt_succ _)
    | with_reducible refine keeps_openPorts ?_ (sub_trans (by decide) hP)
    | with_reducible refine keeps_swapsAndChecks _ _ _ ?_ (sub_trans (by decide) hP)
    | with_reducible refine keeps_planNext ?_ (sub_trans (by decide) hP)
    | with_reducible refine keeps_countWaits ?_ (sub_trans (by decide) hP)
    | with_reducible refine keeps_modLedger _ ?_ (sub_trans (by decide) hP) (fun x => x)
    | with_reducible refine keeps_takeCounters _ ?_ (sub_trans (by decide) hP)
    | with_reducible refine keeps_turnLedger _ _ _ _ ?_ (sub_trans (by decide) hP)
    | split

theorem keeps_fabricOpens {ps : List Part} {s0 s : State}
    (hK : Keeps ps s0 s) (hP : sub [.clock] ps = true) :
    Keeps ps s0 (fabricOpens s) := by
  unfold fabricOpens
  try dsimp only
  repeat' first
    | with_reducible assumption
    | with_reducible refine keeps_modClock _ ?_ (sub_trans (by decide) hP) (fun x => x)
    | with_reducible refine keeps_modClock _ ?_ (sub_trans (by decide) hP) (fun x => Nat.zero_lt_succ _)
    | split

theorem keeps_splitTurn {ps : List Part} {s0 s : State}
    (hK : Keeps ps s0 s) (hP : sub [.mem, .mbxs, .nutas, .mgmt] ps = true) :
    Keeps ps s0 (splitTurn s) := by
  unfold splitTurn
  try dsimp only
  repeat' first
    | with_reducible assumption
    | with_reducible refine keeps_splitTake ?_ (sub_trans (by decide) hP)
    | split

theorem keeps_boundary {ps : List Part} {s0 s : State} (watts : Nat) (celsius : Nat) (vin : BitVec 10) (spareFail :
    List RouterN)
    (hK : Keeps ps s0 s) (hP : sub [.clock, .beads, .mmu, .fabric, .clasps, .mem, .bezels, .chain, .host, .mbxs,
        .nutas, .ledger, .commit, .faults, .hub, .asy, .standby, .power, .sec, .mgmt, .out, .free] ps = true) :
    Keeps ps s0 (boundary watts celsius vin spareFail s) := by
  unfold boundary
  try dsimp only
  repeat' first
    | with_reducible assumption
    | with_reducible refine keeps_powerTurn _ _ _ ?_ (sub_trans (by decide) hP)
    | with_reducible refine keeps_retrainTurn ?_ (sub_trans (by decide) hP)
    | with_reducible refine keeps_fabricOpens ?_ (sub_trans (by decide) hP)
    | with_reducible refine keeps_endingTick _ ?_ (sub_trans (by decide) hP)
    | with_reducible refine keeps_planDrop _ ?_ (sub_trans (by decide) hP)
    | with_reducible refine keeps_modNutas _ ?_ (sub_trans (by decide) hP)
    | with_reducible refine keeps_ownership ?_ (sub_trans (by decide) hP)
    | with_reducible refine keeps_handoverTurn _ ?_ (sub_trans (by decide) hP)
    | with_reducible refine keeps_closeTick _ ?_ (sub_trans (by decide) hP)
    | with_reducible refine keeps_decide1 _ _ ?_ (sub_trans (by decide) hP)
    | with_reducible refine keeps_splitTurn ?_ (sub_trans (by decide) hP)
    | with_reducible refine keeps_turn _ _ _ ?_ (sub_trans (by decide) hP)
    | split

theorem keeps_execTickBoundary {ps : List Part} {s0 s : State} (watts : Nat) (celsius : Nat) (vin : BitVec 10)
    (spareFail : List RouterN)
    (hK : Keeps ps s0 s) (hP : sub [.clock, .beads, .mmu, .fabric, .clasps, .mem, .bezels, .chain, .host, .mbxs,
        .nutas, .ledger, .commit, .faults, .hub, .asy, .standby, .power, .sec, .mgmt, .out, .free] ps = true) :
    KeepsOut ps s0 (execTickBoundary watts celsius vin spareFail s) := by
  unfold execTickBoundary
  try dsimp only
  repeat' first
    | with_reducible assumption
    | with_reducible refine keeps_boundary _ _ _ _ ?_ (sub_trans (by decide) hP)
    | with_reducible refine keepsOut_next ?_
    | with_reducible refine keepsOut_whenOk ?_ ?_
    | split

theorem keeps_identify {ps : List Part} {s0 s : State} (l : List Byte)
    (hK : Keeps ps s0 s) (hP : sub [.sec] ps = true) :
    Keeps ps s0 (identify l s) := by
  unfold identify
  try dsimp only
  repeat' first
    | with_reducible assumption
    | dsimp only [keeps_mk]
    | with_reducible refine KeepsMk.w_sec ?_ (sub_mem (by decide) hP)
    | split

theorem keeps_advanceRollback {ps : List Part} {s0 s : State}
    (hK : Keeps ps s0 s) (hP : sub [.standby] ps = true) :
    Keeps ps s0 (advanceRollback s) := by
  unfold advanceRollback
  dsimp only
  split
  · rename_i h
    have hlt : s.standby.rollback < s.sec.svn.toNat := by
      simp only [Bool.and_eq_true, decide_eq_true_eq] at h
      exact h.2
    refine keeps_modStandby _ hK (sub_trans (by decide) hP) rfl (le_of_lt hlt) ?_
    dsimp only
    ext i hi
    simp only [BitVec.getElem_and, BitVec.getElem_not, BitVec.getElem_or, BitVec.getElem_zero]
    cases s.standby.revoked[i] <;> simp
  · exact hK

theorem keeps_execFwStage {ps : List Part} {s0 s : State} (k : Nat) (buf : List Byte)
    (hK : Keeps ps s0 s) (hP : sub [.mem, .bezels, .mbxs, .nutas, .ledger, .faults, .hub, .asy, .standby, .mgmt] ps =
        true) :
    KeepsOut ps s0 (execFwStage k buf s) := by
  unfold execFwStage
  try dsimp only
  repeat' first
    | with_reducible assumption
    | with_reducible refine keeps_bufRead _ _ _ ?_ (sub_trans (by decide) hP)
    | with_reducible refine keeps_command _ _ _ _ _ _ ?_ (sub_trans (by decide) hP) (fun c t hK => ?_)
    | with_reducible refine keeps_modNutas _ ?_ (sub_trans (by decide) hP)
    | with_reducible refine keeps_modStandby _ ?_ (sub_trans (by decide) hP) rfl (le_refl _) (by simp)
    | with_reducible refine keepsOut_next ?_
    | with_reducible refine keepsOut_whenOk ?_ ?_
    | with_reducible refine keepsEnd_done ?_
    | with_reducible refine keepsEnd_wait ?_
    | with_reducible refine keeps_modStandby _ ?_ (sub_trans (by decide) hP) (by unfold setSlot; split <;> rfl) (by unfold setSlot; split <;> exact le_refl _) (by unfold setSlot; split <;> simp)
    | split

theorem keeps_execFwActivate {ps : List Part} {s0 s : State} (k : Nat)
    (hK : Keeps ps s0 s) (hP : sub [.mbxs, .nutas, .mgmt] ps = true) :
    KeepsOut ps s0 (execFwActivate k s) := by
  unfold execFwActivate
  try dsimp only
  repeat' first
    | with_reducible assumption
    | with_reducible refine keeps_command _ _ _ _ _ _ ?_ (sub_trans (by decide) hP) (fun c t hK => ?_)
    | with_reducible refine keeps_modNutas _ ?_ (sub_trans (by decide) hP)
    | with_reducible refine keepsOut_next ?_
    | with_reducible refine keepsOut_whenOk ?_ ?_
    | with_reducible refine keepsEnd_done ?_
    | with_reducible refine keepsEnd_wait ?_
    | split

theorem keeps_execHandoverTickStart {ps : List Part} {s0 s : State}
    (hK : Keeps ps s0 s) (hP : sub [.nutas] ps = true) :
    KeepsOut ps s0 (execHandoverTickStart s) := by
  unfold execHandoverTickStart
  try dsimp only
  repeat' first
    | with_reducible assumption
    | with_reducible refine keeps_modNutas _ ?_ (sub_trans (by decide) hP)
    | with_reducible refine keepsOut_next ?_
    | with_reducible refine keepsOut_whenOk ?_ ?_
    | split

theorem keeps_handOver {ps : List Part} {s0 s : State} (k : Nat)
    (hK : Keeps ps s0 s) (hP : sub [.mbxs, .nutas, .standby, .sec, .mgmt] ps = true) :
    Keeps ps s0 (handOver k s) := by
  unfold handOver
  try dsimp only
  repeat' first
    | with_reducible assumption
    | with_reducible refine keeps_modNutas _ ?_ (sub_trans (by decide) hP)
    | with_reducible refine keeps_identify _ ?_ (sub_trans (by decide) hP)
    | with_reducible refine keeps_advanceRollback ?_ (sub_trans (by decide) hP)
    | with_reducible refine keeps_complete _ _ _ _ ?_ (sub_trans (by decide) hP)
    | with_reducible refine keeps_modStandby _ ?_ (sub_trans (by decide) hP) rfl (le_refl _) (by simp)
    | split

theorem keeps_execHandoverReady {ps : List Part} {s0 s : State}
    (hK : Keeps ps s0 s) (hP : sub [.mbxs, .nutas, .standby, .sec, .mgmt] ps = true) :
    KeepsOut ps s0 (execHandoverReady s) := by
  unfold execHandoverReady
  try dsimp only
  repeat' first
    | with_reducible assumption
    | with_reducible refine keeps_handOver _ ?_ (sub_trans (by decide) hP)
    | with_reducible refine keepsOut_next ?_
    | with_reducible refine keepsOut_whenOk ?_ ?_
    | split

theorem keeps_execHandoverReadyTimeout {ps : List Part} {s0 s : State}
    (hK : Keeps ps s0 s) (hP : sub [.nutas] ps = true) :
    KeepsOut ps s0 (execHandoverReadyTimeout s) := by
  unfold execHandoverReadyTimeout
  try dsimp only
  repeat' first
    | with_reducible assumption
    | with_reducible refine keeps_modNutas _ ?_ (sub_trans (by decide) hP)
    | with_reducible refine keepsOut_next ?_
    | with_reducible refine keepsOut_whenOk ?_ ?_
    | split

theorem keeps_execFwActivateTimeout {ps : List Part} {s0 s : State}
    (hK : Keeps ps s0 s) (hP : sub [.mbxs, .nutas, .mgmt] ps = true) :
    KeepsOut ps s0 (execFwActivateTimeout s) := by
  unfold execFwActivateTimeout
  try dsimp only
  repeat' first
    | with_reducible assumption
    | with_reducible refine keeps_modNutas _ ?_ (sub_trans (by decide) hP)
    | with_reducible refine keeps_complete _ _ _ _ ?_ (sub_trans (by decide) hP)
    | with_reducible refine keepsOut_next ?_
    | with_reducible refine keepsOut_whenOk ?_ ?_
    | split

theorem keeps_toPhase {ps : List Part} {s0 s : State} (p : Nat)
    (hK : Keeps ps s0 s) (hP : sub [.standby] ps = true) :
    Keeps ps s0 (toPhase p s) := by
  unfold toPhase
  try dsimp only
  repeat' first
    | with_reducible assumption
    | with_reducible refine keeps_modStandby _ ?_ (sub_trans (by decide) hP) rfl (le_refl _) (by simp)
    | split

theorem keeps_romBoots {ps : List Part} {s0 s : State} (slot : Bool)
    (hK : Keeps ps s0 s) (hP : sub [.standby] ps = true) :
    Keeps ps s0 (romBoots slot s) := by
  unfold romBoots
  try dsimp only
  repeat' first
    | with_reducible assumption
    | with_reducible refine keeps_toPhase _ ?_ (sub_trans (by decide) hP)
    | with_reducible refine keeps_modStandby _ ?_ (sub_trans (by decide) hP) rfl (le_refl _) (by simp)
    | split

theorem keeps_romFallback {ps : List Part} {s0 s : State}
    (hK : Keeps ps s0 s) (hP : sub [.clock, .standby, .free] ps = true) :
    Keeps ps s0 (romFallback s) := by
  unfold romFallback
  try dsimp only
  repeat' first
    | with_reducible assumption
    | with_reducible refine keeps_romBoots _ ?_ (sub_trans (by decide) hP)
    | with_reducible refine keeps_failBringUp _ ?_ (sub_trans (by decide) hP)
    | with_reducible refine keeps_modStandby _ ?_ (sub_trans (by decide) hP) rfl (le_refl _) (by simp)
    | split

theorem keeps_romPhase {ps : List Part} {s0 s : State}
    (hK : Keeps ps s0 s) (hP : sub [.clock, .standby, .sec, .free] ps = true) :
    Keeps ps s0 (romPhase s) := by
  unfold romPhase
  try dsimp only
  repeat' first
    | with_reducible assumption
    | dsimp only [keeps_mk]
    | with_reducible refine KeepsMk.w_sec ?_ (sub_mem (by decide) hP)
    | with_reducible refine keeps_romFallback ?_ (sub_trans (by decide) hP)
    | with_reducible refine keeps_romBoots _ ?_ (sub_trans (by decide) hP)
    | split

theorem keeps_execRomPhase {ps : List Part} {s0 s : State}
    (hK : Keeps ps s0 s) (hP : sub [.clock, .standby, .sec, .free] ps = true) :
    KeepsOut ps s0 (execRomPhase s) := by
  unfold execRomPhase
  try dsimp only
  repeat' first
    | with_reducible assumption
    | with_reducible refine keeps_romPhase ?_ (sub_trans (by decide) hP)
    | with_reducible refine keepsOut_next ?_
    | with_reducible refine keepsOut_whenOk ?_ ?_
    | split

theorem keeps_stage1Phase {ps : List Part} {s0 s : State}
    (hK : Keeps ps s0 s) (hP : sub [.clock, .chain, .ledger, .faults, .hub, .standby, .sec, .out, .free] ps = true) :
    Keeps ps s0 (stage1Phase s) := by
  unfold stage1Phase
  try dsimp only
  repeat' first
    | with_reducible assumption
    | with_reducible refine keeps_identify _ ?_ (sub_trans (by decide) hP)
    | with_reducible refine keeps_toPhase _ ?_ (sub_trans (by decide) hP)
    | with_reducible refine keeps_failBringUp _ ?_ (sub_trans (by decide) hP)
    | with_reducible refine keeps_modStandby _ ?_ (sub_trans (by decide) hP) rfl (le_refl _) (by simp)
    | with_reducible refine keeps_beginTraining _ ?_ (sub_trans (by decide) hP)
    | with_reducible refine Keeps.upToSnd _ ?_ (fun a k hK => ?_)
    | with_reducible refine Keeps.upTo _ ?_ (fun t k hK => ?_)
    | split

theorem keeps_execStage1Phase {ps : List Part} {s0 s : State}
    (hK : Keeps ps s0 s) (hP : sub [.clock, .chain, .ledger, .faults, .hub, .standby, .sec, .out, .free] ps = true) :
    KeepsOut ps s0 (execStage1Phase s) := by
  unfold execStage1Phase
  try dsimp only
  repeat' first
    | with_reducible assumption
    | with_reducible refine keeps_stage1Phase ?_ (sub_trans (by decide) hP)
    | with_reducible refine keepsOut_next ?_
    | with_reducible refine keepsOut_whenOk ?_ ?_
    | split

theorem keeps_reloadRetires {ps : List Part} {s0 s : State} (z : Nat)
    (hK : Keeps ps s0 s) (hP : sub [.bezels] ps = true) :
    Keeps ps s0 (reloadRetires z s) := by
  unfold reloadRetires
  try dsimp only
  repeat' first
    | with_reducible assumption
    | with_reducible refine keeps_modBezel _ _ ?_ (sub_trans (by decide) hP)
    | with_reducible refine Keeps.foldl _ ?_ (fun t a hK => ?_)
    | with_reducible refine Keeps.foldlSnd _ ?_ (fun a k hK => ?_)
    | split

theorem keeps_execStacksPhase {ps : List Part} {s0 s : State} (fail : Option (Fin 16 × Fin 32))
    (hK : Keeps ps s0 s) (hP : sub [.clock, .mem, .bezels, .standby, .free] ps = true) :
    KeepsOut ps s0 (execStacksPhase fail s) := by
  unfold execStacksPhase
  try dsimp only
  repeat' first
    | with_reducible assumption
    | dsimp only [keeps_mk]
    | with_reducible refine KeepsMk.w_mem ?_ (sub_mem (by decide) hP) (fun x => x)
    | with_reducible refine keeps_toPhase _ ?_ (sub_trans (by decide) hP)
    | with_reducible refine keeps_failBringUp _ ?_ (sub_trans (by decide) hP)
    | with_reducible refine keeps_modStandby _ ?_ (sub_trans (by decide) hP) rfl (le_refl _) (by simp)
    | with_reducible refine keeps_reloadRetires _ ?_ (sub_trans (by decide) hP)
    | with_reducible refine keepsOut_next ?_
    | with_reducible refine keepsOut_whenOk ?_ ?_
    | with_reducible refine KeepsMk.w_mem ?_ (sub_mem (by decide) hP) (fun _ => rfl)
    | with_reducible refine Keeps.upToSnd _ ?_ (fun a k hK => ?_)
    | with_reducible refine Keeps.upTo _ ?_ (fun t k hK => ?_)
    | split

theorem keeps_mapFailed {ps : List Part} {s0 s : State} (failed : List (RouterN × Bool)) (p : Nat) (parity : Bool)
    (hK : Keeps ps s0 s) (hP : sub [.nutas, .ledger, .faults, .hub] ps = true) :
    Keeps ps s0 (mapFailed failed p parity s) := by
  unfold mapFailed
  try dsimp only
  repeat' first
    | with_reducible assumption
    | with_reducible refine keeps_modNutas _ ?_ (sub_trans (by decide) hP)
    | with_reducible refine keeps_hubRaise _ ?_ (sub_trans (by decide) hP)
    | with_reducible refine keeps_setPos _ _ ?_ (sub_trans (by decide) hP)
    | with_reducible refine keeps_beadFaultRecord _ _ _ ?_ (sub_trans (by decide) hP)
    | split

theorem keeps_mapPos {ps : List Part} {s0 s : State} (failed : List (RouterN × Bool)) (p : Nat)
    (hK : Keeps ps s0 s) (hP : sub [.nutas, .ledger, .faults, .hub] ps = true) :
    Keeps ps s0 (mapPos failed p s) := by
  unfold mapPos
  try dsimp only
  repeat' first
    | with_reducible assumption
    | with_reducible refine keeps_setPos _ _ ?_ (sub_trans (by decide) hP)
    | with_reducible refine keeps_mapFailed _ _ _ ?_ (sub_trans (by decide) hP)
    | split

theorem keeps_execBeadsPhase {ps : List Part} {s0 s : State} (failed : List (RouterN × Bool))
    (hK : Keeps ps s0 s) (hP : sub [.nutas, .ledger, .faults, .hub, .standby] ps = true) :
    KeepsOut ps s0 (execBeadsPhase failed s) := by
  unfold execBeadsPhase
  try dsimp only
  repeat' first
    | with_reducible assumption
    | dsimp only [keeps_mk]
    | with_reducible refine KeepsMk.w_nutas ?_ (sub_mem (by decide) hP)
    | with_reducible refine keeps_mapPos _ _ ?_ (sub_trans (by decide) hP)
    | with_reducible refine keeps_toPhase _ ?_ (sub_trans (by decide) hP)
    | with_reducible refine keepsOut_next ?_
    | with_reducible refine keepsOut_whenOk ?_ ?_
    | with_reducible refine Keeps.upToSnd _ ?_ (fun a k hK => ?_)
    | with_reducible refine Keeps.upTo _ ?_ (fun t k hK => ?_)
    | split

theorem keeps_execFabricPhase {ps : List Part} {s0 s : State} (ok : Bool)
    (hK : Keeps ps s0 s) (hP : sub [.clock, .standby, .free] ps = true) :
    KeepsOut ps s0 (execFabricPhase ok s) := by
  unfold execFabricPhase
  try dsimp only
  repeat' first
    | with_reducible assumption
    | dsimp only [keeps_mk]
    | with_reducible refine KeepsMk.w_clock ?_ (sub_mem (by decide) hP) (fun x => x)
    | with_reducible refine keeps_failBringUp _ ?_ (sub_trans (by decide) hP)
    | with_reducible refine keepsOut_next ?_
    | with_reducible refine keepsOut_whenOk ?_ ?_
    | split

theorem keeps_execReadyPhase {ps : List Part} {s0 s : State} (ms : BitVec 16)
    (hK : Keeps ps s0 s) (hP : sub [.host, .standby] ps = true) :
    KeepsOut ps s0 (execReadyPhase ms s) := by
  unfold execReadyPhase
  try dsimp only
  repeat' first
    | with_reducible assumption
    | dsimp only [keeps_mk]
    | with_reducible refine KeepsMk.w_host ?_ (sub_mem (by decide) hP)
    | with_reducible refine keeps_advanceRollback ?_ (sub_trans (by decide) hP)
    | with_reducible refine keeps_modStandby _ ?_ (sub_trans (by decide) hP) rfl (le_refl _) (by simp)
    | with_reducible refine keepsOut_next ?_
    | with_reducible refine keepsOut_whenOk ?_ ?_
    | split

theorem keeps_execPwrStatRead {ps : List Part} {s0 s : State} (w : Width)
    (hK : Keeps ps s0 s) (hP : sub [.power, .out] ps = true) :
    KeepsOut ps s0 (execPwrStatRead w s) := by
  unfold execPwrStatRead
  try dsimp only
  repeat' first
    | with_reducible assumption
    | dsimp only [keeps_mk]
    | with_reducible refine KeepsMk.w_power ?_ (sub_mem (by decide) hP)
    | with_reducible refine keeps_regReadRow _ _ _ _ ?_ (sub_trans (by decide) hP) (fun t hK => ?_)
    | with_reducible refine keepsOut_next ?_
    | with_reducible refine keepsOut_whenOk ?_ ?_
    | split

theorem keeps_execSubst {ps : List Part} {s0 s : State} (k : Nat)
    (hK : Keeps ps s0 s) (hP : sub [.clock, .mbxs, .nutas, .ledger, .faults, .mgmt] ps = true) :
    KeepsOut ps s0 (execSubst k s) := by
  unfold execSubst
  try dsimp only
  repeat' first
    | with_reducible assumption
    | dsimp only [keeps_mk]
    | with_reducible refine KeepsMk.w_clock ?_ (sub_mem (by decide) hP) (fun x => x)
    | with_reducible refine keeps_invalidTarget _ ?_ (sub_trans (by decide) hP)
    | with_reducible refine keeps_command _ _ _ _ _ _ ?_ (sub_trans (by decide) hP) (fun c t hK => ?_)
    | with_reducible refine keeps_waitFor _ ?_ (sub_trans (by decide) hP)
    | with_reducible refine keepsOut_next ?_
    | with_reducible refine keepsOut_whenOk ?_ ?_
    | with_reducible refine keepsEnd_done ?_
    | with_reducible refine keepsEnd_wait ?_
    | split

theorem keeps_execSpareTest {ps : List Part} {s0 s : State} (k : Nat) (pass : Bool)
    (hK : Keeps ps s0 s) (hP : sub [.mbxs, .nutas, .ledger, .faults, .mgmt] ps = true) :
    KeepsOut ps s0 (execSpareTest k pass s) := by
  unfold execSpareTest
  try dsimp only
  repeat' first
    | with_reducible assumption
    | with_reducible refine keeps_invalidTarget _ ?_ (sub_trans (by decide) hP)
    | with_reducible refine keeps_command _ _ _ _ _ _ ?_ (sub_trans (by decide) hP) (fun c t hK => ?_)
    | with_reducible refine keeps_setPos _ _ ?_ (sub_trans (by decide) hP)
    | with_reducible refine keepsOut_next ?_
    | with_reducible refine keepsOut_whenOk ?_ ?_
    | with_reducible refine keepsEnd_done ?_
    | with_reducible refine keepsEnd_wait ?_
    | split

theorem keeps_beginRetrain {ps : List Part} {s0 s : State} (z : Nat) (ch : Nat)
    (hK : Keeps ps s0 s) (hP : sub [.bezels] ps = true) :
    Keeps ps s0 (beginRetrain z ch s) := by
  unfold beginRetrain
  try dsimp only
  repeat' first
    | with_reducible assumption
    | with_reducible refine keeps_modBezel _ _ ?_ (sub_trans (by decide) hP)
    | split

theorem keeps_retrainGo {ps : List Part} {s0 s : State} (z : Nat) (ch : Nat)
    (hK : Keeps ps s0 s) (hP : sub [.bezels] ps = true) :
    Keeps ps s0 (retrainGo z ch s) := by
  unfold retrainGo
  try dsimp only
  repeat' first
    | with_reducible assumption
    | with_reducible refine keeps_beginRetrain _ _ ?_ (sub_trans (by decide) hP)
    | with_reducible refine keeps_modBezel _ _ ?_ (sub_trans (by decide) hP)
    | split

theorem keeps_execBzlRetrainGo {ps : List Part} {s0 s : State} (m : Master) (b : BezelN) (ch : Fin 32)
    (hK : Keeps ps s0 s) (hP : sub [.bezels, .ledger, .faults] ps = true) :
    KeepsOut ps s0 (execBzlRetrainGo m b ch s) := by
  unfold execBzlRetrainGo
  try dsimp only
  repeat' first
    | with_reducible assumption
    | with_reducible refine keeps_retrainGo _ _ ?_ (sub_trans (by decide) hP)
    | with_reducible refine keeps_regWriteRow _ _ _ ?_ (sub_trans (by decide) hP) (fun t hK => ?_)
    | with_reducible refine keepsOut_next ?_
    | with_reducible refine keepsOut_whenOk ?_ ?_
    | split

theorem keeps_rotateNext {ps : List Part} {s0 s : State}
    (hK : Keeps ps s0 s) (hP : sub [.bezels, .nutas] ps = true) :
    Keeps ps s0 (rotateNext s) := by
  unfold rotateNext
  try dsimp only
  repeat' first
    | with_reducible assumption
    | with_reducible refine keeps_modNutas _ ?_ (sub_trans (by decide) hP)
    | with_reducible refine keeps_beginRetrain _ _ ?_ (sub_trans (by decide) hP)
    | split

theorem keeps_execRetrainAutoRotation {ps : List Part} {s0 s : State}
    (hK : Keeps ps s0 s) (hP : sub [.bezels, .nutas] ps = true) :
    KeepsOut ps s0 (execRetrainAutoRotation s) := by
  unfold execRetrainAutoRotation
  try dsimp only
  repeat' first
    | with_reducible assumption
    | with_reducible refine keeps_modNutas _ ?_ (sub_trans (by decide) hP)
    | with_reducible refine keeps_rotateNext ?_ (sub_trans (by decide) hP)
    | with_reducible refine keepsOut_next ?_
    | with_reducible refine keepsOut_whenOk ?_ ?_
    | split

theorem keeps_execRetrainPhaseEnd {ps : List Part} {s0 s : State} (b : BezelN)
    (hK : Keeps ps s0 s) (hP : sub [.bezels, .nutas] ps = true) :
    KeepsOut ps s0 (execRetrainPhaseEnd b s) := by
  unfold execRetrainPhaseEnd
  try dsimp only
  repeat' first
    | with_reducible assumption
    | with_reducible refine keeps_rotateNext ?_ (sub_trans (by decide) hP)
    | with_reducible refine keeps_modBezel _ _ ?_ (sub_trans (by decide) hP)
    | with_reducible refine keepsOut_next ?_
    | with_reducible refine keepsOut_whenOk ?_ ?_
    | split

theorem keeps_copyGran {ps : List Part} {s0 s : State} (back : Bool) (z : Nat) (l : Nat)
    (hK : Keeps ps s0 s) (hP : sub [.mem, .bezels, .ledger, .faults, .hub, .asy] ps = true) :
    Keeps ps s0 (copyGran back z l s) := by
  unfold copyGran
  try dsimp only
  repeat' first
    | with_reducible assumption
    | with_reducible refine keeps_stackLook _ _ _ _ ?_ (sub_trans (by decide) hP)
    | with_reducible refine keeps_putCode _ _ ?_ (sub_trans (by decide) hP)
    | with_reducible refine keeps_scrubRecord _ _ _ ?_ (sub_trans (by decide) hP)
    | split

theorem keeps_copyBurst {ps : List Part} {s0 s : State} (back : Bool) (z : Nat) (k : Nat) (ch : Nat)
    (hK : Keeps ps s0 s) (hP : sub [.mem, .bezels, .ledger, .faults, .hub, .asy] ps = true) :
    Keeps ps s0 (copyBurst back z k ch s) := by
  unfold copyBurst
  try dsimp only
  repeat' first
    | with_reducible assumption
    | with_reducible refine keeps_copyGran _ _ _ ?_ (sub_trans (by decide) hP)
    | with_reducible refine Keeps.upToSnd _ ?_ (fun a k hK => ?_)
    | with_reducible refine Keeps.upTo _ ?_ (fun t k hK => ?_)
    | split

theorem keeps_execRetrainBurstCopy {ps : List Part} {s0 s : State} (b : BezelN)
    (hK : Keeps ps s0 s) (hP : sub [.mem, .bezels, .ledger, .faults, .hub, .asy] ps = true) :
    KeepsOut ps s0 (execRetrainBurstCopy b s) := by
  unfold execRetrainBurstCopy
  try dsimp only
  repeat' first
    | with_reducible assumption
    | with_reducible refine keeps_copyBurst _ _ _ _ ?_ (sub_trans (by decide) hP)
    | with_reducible refine keeps_modBezel _ _ ?_ (sub_trans (by decide) hP)
    | with_reducible refine keepsOut_next ?_
    | with_reducible refine keepsOut_whenOk ?_ ?_
    | split

theorem keeps_retireGo {ps : List Part} {s0 s : State} (z : Nat)
    (hK : Keeps ps s0 s) (hP : sub [.bezels] ps = true) :
    Keeps ps s0 (retireGo z s) := by
  unfold retireGo
  try dsimp only
  repeat' first
    | with_reducible assumption
    | with_reducible refine keeps_modBezel _ _ ?_ (sub_trans (by decide) hP)
    | split

theorem keeps_execBzlRetireGo {ps : List Part} {s0 s : State} (m : Master) (b : BezelN)
    (hK : Keeps ps s0 s) (hP : sub [.bezels, .ledger, .faults] ps = true) :
    KeepsOut ps s0 (execBzlRetireGo m b s) := by
  unfold execBzlRetireGo
  try dsimp only
  repeat' first
    | with_reducible assumption
    | with_reducible refine keeps_retireGo _ ?_ (sub_trans (by decide) hP)
    | with_reducible refine keeps_regWriteRow _ _ _ ?_ (sub_trans (by decide) hP) (fun t hK => ?_)
    | with_reducible refine keepsOut_next ?_
    | with_reducible refine keepsOut_whenOk ?_ ?_
    | split

theorem keeps_retireGran {ps : List Part} {s0 s : State} (z : Nat) (f : Nat) (r : Nat) (i : Nat)
    (hK : Keeps ps s0 s) (hP : sub [.mem, .bezels, .ledger, .faults, .hub, .asy] ps = true) :
    Keeps ps s0 (retireGran z f r i s) := by
  unfold retireGran
  try dsimp only
  repeat' first
    | with_reducible assumption
    | with_reducible refine keeps_stackLook _ _ _ _ ?_ (sub_trans (by decide) hP)
    | with_reducible refine keeps_putCode _ _ ?_ (sub_trans (by decide) hP)
    | with_reducible refine keeps_scrubRecord _ _ _ ?_ (sub_trans (by decide) hP)
    | split

theorem keeps_retireFrame {ps : List Part} {s0 s : State} (z : Nat) (f : Nat)
    (hK : Keeps ps s0 s) (hP : sub [.mem, .bezels, .ledger, .faults, .hub, .asy, .standby] ps = true) :
    Keeps ps s0 (retireFrame z f s) := by
  unfold retireFrame
  try dsimp only
  repeat' first
    | with_reducible assumption
    | with_reducible refine keeps_recordAddr _ _ _ _ ?_ (sub_trans (by decide) hP)
    | with_reducible refine keeps_modStandby _ ?_ (sub_trans (by decide) hP) rfl (le_refl _) (by simp)
    | with_reducible refine keeps_retireGran _ _ _ _ ?_ (sub_trans (by decide) hP)
    | with_reducible refine keeps_modBezel _ _ ?_ (sub_trans (by decide) hP)
    | with_reducible refine Keeps.upToSnd _ ?_ (fun a k hK => ?_)
    | with_reducible refine Keeps.upTo _ ?_ (fun t k hK => ?_)
    | split

theorem keeps_unmapFrame {ps : List Part} {s0 s : State} (p : Nat)
    (hK : Keeps ps s0 s) (hP : sub [.clock, .beads, .mmu, .fabric, .clasps, .mem, .bezels, .mbxs, .nutas, .ledger,
        .faults, .hub, .asy, .mgmt] ps = true) :
    Keeps ps s0 (unmapFrame p s) := by
  unfold unmapFrame
  try dsimp only
  repeat' first
    | with_reducible assumption
    | with_reducible refine keeps_loadStores _ ?_ (sub_trans (by decide) hP)
    | with_reducible refine Keeps.upToSnd _ ?_ (fun a k hK => ?_)
    | with_reducible refine Keeps.upTo _ ?_ (fun t k hK => ?_)
    | split

theorem keeps_serveRetire {ps : List Part} {s0 s : State} (z : Nat) (f : Nat)
    (hK : Keeps ps s0 s) (hP : sub [.clock, .beads, .mmu, .fabric, .clasps, .mem, .bezels, .mbxs, .nutas, .ledger,
        .faults, .hub, .asy, .standby, .mgmt] ps = true) :
    Keeps ps s0 (serveRetire z f s) := by
  unfold serveRetire
  try dsimp only
  repeat' first
    | with_reducible assumption
    | with_reducible refine keeps_recordAddr _ _ _ _ ?_ (sub_trans (by decide) hP)
    | with_reducible refine keeps_retireFrame _ _ ?_ (sub_trans (by decide) hP)
    | with_reducible refine keeps_unmapFrame _ ?_ (sub_trans (by decide) hP)
    | with_reducible refine keeps_modBezel _ _ ?_ (sub_trans (by decide) hP)
    | split

theorem keeps_execPageRetirement {ps : List Part} {s0 s : State} (b : BezelN)
    (hK : Keeps ps s0 s) (hP : sub [.clock, .beads, .mmu, .fabric, .clasps, .mem, .bezels, .mbxs, .nutas, .ledger,
        .faults, .hub, .asy, .standby, .mgmt] ps = true) :
    KeepsOut ps s0 (execPageRetirement b s) := by
  unfold execPageRetirement
  try dsimp only
  repeat' first
    | with_reducible assumption
    | with_reducible refine keeps_serveRetire _ _ ?_ (sub_trans (by decide) hP)
    | with_reducible refine keeps_modBezel _ _ ?_ (sub_trans (by decide) hP)
    | with_reducible refine keepsOut_next ?_
    | with_reducible refine keepsOut_whenOk ?_ ?_
    | split

theorem keeps_execDeferredRetirement {ps : List Part} {s0 s : State} (b : BezelN)
    (hK : Keeps ps s0 s) (hP : sub [.clock, .beads, .mmu, .fabric, .clasps, .mem, .bezels, .mbxs, .nutas, .ledger,
        .faults, .hub, .asy, .standby, .mgmt] ps = true) :
    KeepsOut ps s0 (execDeferredRetirement b s) := by
  unfold execDeferredRetirement
  try dsimp only
  repeat' first
    | with_reducible assumption
    | with_reducible refine keeps_serveRetire _ _ ?_ (sub_trans (by decide) hP)
    | with_reducible refine keeps_modBezel _ _ ?_ (sub_trans (by decide) hP)
    | with_reducible refine keepsOut_next ?_
    | with_reducible refine keepsOut_whenOk ?_ ?_
    | split

theorem keeps_claimClear {ps : List Part} {s0 s : State} (m : Master) (t : Nat)
    (hK : Keeps ps s0 s) (hP : sub [.hub] ps = true) :
    Keeps ps s0 (claimClear m t s) := by
  unfold claimClear
  try dsimp only
  repeat' first
    | with_reducible assumption
    | dsimp only [keeps_mk]
    | with_reducible refine KeepsMk.w_hub ?_ (sub_mem (by decide) hP)
    | with_reducible refine keeps_hubTake _ ?_ (sub_trans (by decide) hP)
    | split

theorem keeps_regCleared {ps : List Part} {s0 s : State} (m : Master) (o : Nat) (w : Width)
    (hK : Keeps ps s0 s) (hP : sub [.clasps, .bezels, .chain, .host, .ledger, .faults, .hub, .asy, .power] ps = true) :
    Keeps ps s0 (regCleared m o w s) := by
  unfold regCleared
  try dsimp only
  repeat' first
    | with_reducible assumption
    | dsimp only [keeps_mk]
    | with_reducible refine KeepsMk.w_ledger ?_ (sub_mem (by decide) hP) (fun x => x)
    | with_reducible refine KeepsMk.w_faults ?_ (sub_mem (by decide) hP) (fun x => x) (fun x => x)
    | with_reducible refine KeepsMk.w_asy ?_ (sub_mem (by decide) hP)
    | with_reducible refine KeepsMk.w_power ?_ (sub_mem (by decide) hP)
    | with_reducible refine keeps_modPort _ _ ?_ (sub_trans (by decide) hP)
    | with_reducible refine keeps_claimClear _ _ ?_ (sub_trans (by decide) hP)
    | with_reducible refine keeps_recordGone _ ?_ (sub_trans (by decide) hP)
    | with_reducible refine keeps_hlkErrClear _ ?_ (sub_trans (by decide) hP)
    | with_reducible refine keeps_clpStatClear _ ?_ (sub_trans (by decide) hP)
    | with_reducible refine keeps_modBezel _ _ ?_ (sub_trans (by decide) hP)
    | with_reducible refine Keeps.ite ?_ ?_
    | split

theorem keeps_commitWrite {ps : List Part} {s0 s : State} (w : Width) (v : Word)
    (hK : Keeps ps s0 s) (hP : sub [.commit] ps = true) :
    Keeps ps s0 (commitWrite w v s) := by
  unfold commitWrite
  try dsimp only
  repeat' first
    | with_reducible assumption
    | dsimp only [keeps_mk]
    | with_reducible refine KeepsMk.w_commit ?_ (sub_mem (by decide) hP)
    | with_reducible refine keeps_commitReq ?_ (sub_trans (by decide) hP)
    | with_reducible refine keeps_commitCancel ?_ (sub_trans (by decide) hP)
    | split

theorem keeps_mbxCtlWrite {ps : List Part} {s0 s : State} (m : Nat) (w : Width) (v : Word)
    (hK : Keeps ps s0 s) (hP : sub [.mbxs, .nutas, .mgmt] ps = true) :
    Keeps ps s0 (mbxCtlWrite m w v s) := by
  unfold mbxCtlWrite
  try dsimp only
  repeat' first
    | with_reducible assumption
    | with_reducible refine keeps_mbxRst _ ?_ (sub_trans (by decide) hP)
    | with_reducible refine keeps_setMbx _ _ ?_ (sub_trans (by decide) hP) (fun x => x)
    | with_reducible refine keeps_setMbx _ _ ?_ (sub_trans (by decide) hP) (fun _ => Nat.zero_le _)
    | split

theorem keeps_mbxWrite {ps : List Part} {s0 s : State} (m : Nat) (o : Nat) (w : Width) (v : Word)
    (hK : Keeps ps s0 s) (hP : sub [.mbxs, .nutas, .ledger, .faults, .hub, .mgmt] ps = true) :
    Keeps ps s0 (mbxWrite m o w v s) := by
  unfold mbxWrite
  try dsimp only
  repeat' first
    | with_reducible assumption
    | with_reducible refine keeps_setMbx _ _ ?_ (sub_trans (by decide) hP) (fun x => x)
    | with_reducible refine keeps_setMbx _ _ ?_ (sub_trans (by decide) hP) (fun _ => Nat.zero_le _)
    | with_reducible refine keeps_mbxCtlWrite _ _ _ ?_ (sub_trans (by decide) hP)
    | with_reducible refine keeps_doorbell _ _ ?_ (sub_trans (by decide) hP)
    | split

theorem keeps_irqWrite {ps : List Part} {s0 s : State} (o : Nat) (w : Width) (v : Word)
    (hK : Keeps ps s0 s) (hP : sub [.hub] ps = true) :
    Keeps ps s0 (irqWrite o w v s) := by
  unfold irqWrite
  try dsimp only
  repeat' first
    | with_reducible assumption
    | with_reducible refine keeps_maskWrite _ _ _ _ ?_ (sub_trans (by decide) hP)
    | with_reducible refine keeps_hubSet _ ?_ (sub_trans (by decide) hP)
    | with_reducible refine keeps_hubClear _ ?_ (sub_trans (by decide) hP)
    | with_reducible refine keeps_onSources _ _ _ ?_ (sub_trans (by decide) hP) (fun k t hK => ?_)
    | split

theorem keeps_asySelWrite {ps : List Part} {s0 s : State} (w : Width) (v : Word)
    (hK : Keeps ps s0 s) (hP : sub [.asy] ps = true) :
    Keeps ps s0 (asySelWrite w v s) := by
  unfold asySelWrite
  try dsimp only
  repeat' first
    | with_reducible assumption
    | dsimp only [keeps_mk]
    | with_reducible refine KeepsMk.w_asy ?_ (sub_mem (by decide) hP)
    | split

theorem keeps_fltCtlWrite {ps : List Part} {s0 s : State} (w : Width) (v : Word)
    (hK : Keeps ps s0 s) (hP : sub [.faults, .hub] ps = true) :
    Keeps ps s0 (fltCtlWrite w v s) := by
  unfold fltCtlWrite
  try dsimp only
  repeat' first
    | with_reducible assumption
    | dsimp only [keeps_mk]
    | with_reducible refine KeepsMk.w_faults ?_ (sub_mem (by decide) hP) (fun x => x) (fun x => x)
    | with_reducible refine keeps_highWater ?_ (sub_trans (by decide) hP)
    | split

theorem keeps_mgtPwrSet {ps : List Part} {s0 s : State} (w : Width) (v : Word)
    (hK : Keeps ps s0 s) (hP : sub [.clock, .beads, .mmu, .fabric, .clasps, .mem, .bezels, .chain, .host, .mbxs,
        .nutas, .ledger, .commit, .faults, .hub, .asy, .standby, .power, .sec, .mgmt, .out] ps = true) :
    Keeps ps s0 (mgtPwrSet w v s) := by
  unfold mgtPwrSet
  try dsimp only
  repeat' first
    | with_reducible assumption
    | with_reducible refine keeps_setHold ?_ (sub_trans (by decide) hP)
    | with_reducible refine keeps_modStandby _ ?_ (sub_trans (by decide) hP) rfl (le_refl _) (by simp)
    | split

theorem keeps_grant {ps : List Part} {s0 s : State}
    (hK : Keeps ps s0 s) (hP : sub [.standby] ps = true) :
    Keeps ps s0 (grant s) := by
  unfold grant
  try dsimp only
  repeat' first
    | with_reducible assumption
    | with_reducible refine keeps_modStandby _ ?_ (sub_trans (by decide) hP) rfl (le_refl _) (by simp)
    | split

theorem keeps_deny {ps : List Part} {s0 s : State}
    (hK : Keeps ps s0 s) (hP : sub [.standby, .mgmt, .out] ps = true) :
    Keeps ps s0 (deny s) := by
  unfold deny
  try dsimp only
  repeat' first
    | with_reducible assumption
    | with_reducible refine keeps_answerTake _ ?_ (sub_trans (by decide) hP)
    | with_reducible refine keeps_modStandby _ ?_ (sub_trans (by decide) hP) rfl (le_refl _) (by simp)
    | split

theorem keeps_mgtOwnSet {ps : List Part} {s0 s : State} (m : Master) (w : Width) (v : Word)
    (hK : Keeps ps s0 s) (hP : sub [.standby, .mgmt, .out] ps = true) :
    Keeps ps s0 (mgtOwnSet m w v s) := by
  unfold mgtOwnSet
  try dsimp only
  repeat' first
    | with_reducible assumption
    | with_reducible refine keeps_deny ?_ (sub_trans (by decide) hP)
    | with_reducible refine keeps_modStandby _ ?_ (sub_trans (by decide) hP) rfl (le_refl _) (by simp)
    | with_reducible refine keeps_grant ?_ (sub_trans (by decide) hP)
    | split

theorem keeps_secCtlWrite {ps : List Part} {s0 s : State} (w : Width) (v : Word)
    (hK : Keeps ps s0 s) (hP : sub [.sec] ps = true) :
    Keeps ps s0 (secCtlWrite w v s) := by
  unfold secCtlWrite
  try dsimp only
  repeat' first
    | with_reducible assumption
    | dsimp only [keeps_mk]
    | with_reducible refine KeepsMk.w_sec ?_ (sub_mem (by decide) hP)
    | split

theorem keeps_bkeyWrite {ps : List Part} {s0 s : State} (i : Nat) (w : Width) (v : Word)
    (hK : Keeps ps s0 s) (hP : sub [.sec] ps = true) :
    Keeps ps s0 (bkeyWrite i w v s) := by
  unfold bkeyWrite
  try dsimp only
  repeat' first
    | with_reducible assumption
    | dsimp only [keeps_mk]
    | with_reducible refine KeepsMk.w_sec ?_ (sub_mem (by decide) hP)
    | split

theorem keeps_pwrCtlWrite {ps : List Part} {s0 s : State} (w : Width) (v : Word)
    (hK : Keeps ps s0 s) (hP : sub [.power] ps = true) :
    Keeps ps s0 (pwrCtlWrite w v s) := by
  unfold pwrCtlWrite
  try dsimp only
  repeat' first
    | with_reducible assumption
    | dsimp only [keeps_mk]
    | with_reducible refine KeepsMk.w_power ?_ (sub_mem (by decide) hP)
    | split

theorem keeps_hlkCtlWrite {ps : List Part} {s0 s : State} (w : Width) (v : Word)
    (hK : Keeps ps s0 s) (hP : sub [.host] ps = true) :
    Keeps ps s0 (hlkCtlWrite w v s) := by
  unfold hlkCtlWrite
  try dsimp only
  repeat' first
    | with_reducible assumption
    | dsimp only [keeps_mk]
    | with_reducible refine KeepsMk.w_host ?_ (sub_mem (by decide) hP)
    | split

theorem keeps_rehomeWrite {ps : List Part} {s0 s : State} (w : Width) (v : Word)
    (hK : Keeps ps s0 s) (hP : sub [.chain] ps = true) :
    Keeps ps s0 (rehomeWrite w v s) := by
  unfold rehomeWrite
  try dsimp only
  repeat' first
    | with_reducible assumption
    | dsimp only [keeps_mk]
    | with_reducible refine KeepsMk.w_chain ?_ (sub_mem (by decide) hP)
    | split

theorem keeps_calCtlWrite {ps : List Part} {s0 s : State} (w : Width) (v : Word)
    (hK : Keeps ps s0 s) (hP : sub [.chain] ps = true) :
    Keeps ps s0 (calCtlWrite w v s) := by
  unfold calCtlWrite
  try dsimp only
  repeat' first
    | with_reducible assumption
    | dsimp only [keeps_mk]
    | with_reducible refine KeepsMk.w_chain ?_ (sub_mem (by decide) hP)
    | with_reducible refine keeps_calGo _ ?_ (sub_trans (by decide) hP)
    | split

theorem keeps_chnWrite {ps : List Part} {s0 s : State} (o : Nat) (w : Width) (v : Word)
    (hK : Keeps ps s0 s) (hP : sub [.chain, .ledger, .faults] ps = true) :
    Keeps ps s0 (chnWrite o w v s) := by
  unfold chnWrite
  try dsimp only
  repeat' first
    | with_reducible assumption
    | with_reducible refine keeps_calCtlWrite _ _ ?_ (sub_trans (by decide) hP)
    | with_reducible refine keeps_chnTimingSet _ _ ?_ (sub_trans (by decide) hP)
    | with_reducible refine keeps_rehomeWrite _ _ ?_ (sub_trans (by decide) hP)
    | split

theorem keeps_splitWrite {ps : List Part} {s0 s : State} (w : Width) (v : Word)
    (hK : Keeps ps s0 s) (hP : sub [.mem] ps = true) :
    Keeps ps s0 (splitWrite w v s) := by
  unfold splitWrite
  try dsimp only
  repeat' first
    | with_reducible assumption
    | dsimp only [keeps_mk]
    | with_reducible refine KeepsMk.w_mem ?_ (sub_mem (by decide) hP) (fun x => x)
    | split

theorem keeps_retrainWrite {ps : List Part} {s0 s : State} (z : Nat) (w : Width) (v : Word)
    (hK : Keeps ps s0 s) (hP : sub [.bezels] ps = true) :
    Keeps ps s0 (retrainWrite z w v s) := by
  unfold retrainWrite
  try dsimp only
  repeat' first
    | with_reducible assumption
    | with_reducible refine keeps_retrainGo _ _ ?_ (sub_trans (by decide) hP)
    | with_reducible refine keeps_modBezel _ _ ?_ (sub_trans (by decide) hP)
    | split

theorem keeps_retireWrite {ps : List Part} {s0 s : State} (z : Nat) (w : Width) (v : Word)
    (hK : Keeps ps s0 s) (hP : sub [.bezels] ps = true) :
    Keeps ps s0 (retireWrite z w v s) := by
  unfold retireWrite
  try dsimp only
  repeat' first
    | with_reducible assumption
    | with_reducible refine keeps_retireGo _ ?_ (sub_trans (by decide) hP)
    | with_reducible refine keeps_modBezel _ _ ?_ (sub_trans (by decide) hP)
    | split

theorem keeps_bzlWrite {ps : List Part} {s0 s : State} (z : Nat) (o : Nat) (w : Width) (v : Word)
    (hK : Keeps ps s0 s) (hP : sub [.bezels, .ledger, .faults] ps = true) :
    Keeps ps s0 (bzlWrite z o w v s) := by
  unfold bzlWrite
  try dsimp only
  repeat' first
    | with_reducible assumption
    | with_reducible refine keeps_redCfgWrite _ _ _ ?_ (sub_trans (by decide) hP)
    | with_reducible refine keeps_retrainWrite _ _ _ ?_ (sub_trans (by decide) hP)
    | with_reducible refine keeps_retireWrite _ _ _ ?_ (sub_trans (by decide) hP)
    | with_reducible refine keeps_modBezel _ _ ?_ (sub_trans (by decide) hP)
    | split

theorem keeps_regEffect {ps : List Part} {s0 s : State} (m : Master) (o : Nat) (w : Width) (v : Word)
    (hK : Keeps ps s0 s) (hP : sub [.clock, .beads, .mmu, .fabric, .clasps, .mem, .bezels, .chain, .host, .mbxs,
        .nutas, .ledger, .commit, .faults, .hub, .asy, .standby, .power, .sec, .mgmt, .out] ps = true) :
    Keeps ps s0 (regEffect m o w v s) := by
  unfold regEffect
  try dsimp only
  repeat' first
    | with_reducible assumption
    | dsimp only [keeps_mk]
    | with_reducible refine KeepsMk.w_clasps ?_ (sub_mem (by decide) hP)
    | with_reducible refine KeepsMk.w_commit ?_ (sub_mem (by decide) hP)
    | with_reducible refine keeps_commitWrite _ _ ?_ (sub_trans (by decide) hP)
    | with_reducible refine keeps_hlkCtlWrite _ _ ?_ (sub_trans (by decide) hP)
    | with_reducible refine keeps_mgtOwnSet _ _ _ ?_ (sub_trans (by decide) hP)
    | with_reducible refine keeps_bkeyWrite _ _ _ ?_ (sub_trans (by decide) hP)
    | with_reducible refine keeps_fltCtlWrite _ _ ?_ (sub_trans (by decide) hP)
    | with_reducible refine keeps_chnWrite _ _ _ ?_ (sub_trans (by decide) hP)
    | with_reducible refine keeps_mgtPwrSet _ _ ?_ (sub_trans (by decide) hP)
    | with_reducible refine keeps_secCtlWrite _ _ ?_ (sub_trans (by decide) hP)
    | with_reducible refine keeps_bzlWrite _ _ _ _ ?_ (sub_trans (by decide) hP)
    | with_reducible refine keeps_irqWrite _ _ _ ?_ (sub_trans (by decide) hP)
    | with_reducible refine keeps_mbxWrite _ _ _ _ ?_ (sub_trans (by decide) hP)
    | with_reducible refine keeps_pwrCtlWrite _ _ ?_ (sub_trans (by decide) hP)
    | with_reducible refine keeps_biRangeSet _ _ ?_ (sub_trans (by decide) hP)
    | with_reducible refine keeps_splitWrite _ _ ?_ (sub_trans (by decide) hP)
    | with_reducible refine keeps_clpValueDo _ _ _ ?_ (sub_trans (by decide) hP)
    | with_reducible refine keeps_ldgTraceSet _ _ ?_ (sub_trans (by decide) hP)
    | with_reducible refine keeps_asySelWrite _ _ ?_ (sub_trans (by decide) hP)
    | with_reducible refine Keeps.ite ?_ ?_
    | split

theorem keeps_regWrite {ps : List Part} {s0 s : State} (m : Master) (o : Nat) (w : Width) (v : Word)
    (hK : Keeps ps s0 s) (hP : sub [.clock, .beads, .mmu, .fabric, .clasps, .mem, .bezels, .chain, .host, .mbxs,
        .nutas, .ledger, .commit, .faults, .hub, .asy, .standby, .power, .sec, .mgmt, .out] ps = true) :
    Keeps ps s0 (regWrite m o w v s) := by
  unfold regWrite
  try dsimp only
  repeat' first
    | with_reducible assumption
    | with_reducible refine keeps_forbidden _ ?_ (sub_trans (by decide) hP)
    | with_reducible refine keeps_regEffect _ _ _ _ ?_ (sub_trans (by decide) hP)
    | split

theorem keeps_windowWrite {ps : List Part} {s0 s : State} (m : Master) (off : Nat) (bytes : Nat) (v : Word)
    (hK : Keeps ps s0 s) (hP : sub [.clock, .beads, .mmu, .fabric, .clasps, .mem, .bezels, .chain, .host, .mbxs,
        .nutas, .ledger, .commit, .faults, .hub, .asy, .standby, .power, .sec, .mgmt, .out] ps = true) :
    Keeps ps s0 (windowWrite m off bytes v s) := by
  unfold windowWrite
  try dsimp only
  repeat' first
    | with_reducible assumption
    | with_reducible refine keeps_regWrite _ _ _ _ ?_ (sub_trans (by decide) hP)
    | with_reducible refine keeps_recordHostAt _ ?_ (sub_trans (by decide) hP)
    | split

theorem keeps_execControlWindowWrite {ps : List Part} {s0 s : State} (m : Master) (off : Nat) (bytes : Nat) (v : Word)
    (hK : Keeps ps s0 s) (hP : sub [.clock, .beads, .mmu, .fabric, .clasps, .mem, .bezels, .chain, .host, .mbxs,
        .nutas, .ledger, .commit, .faults, .hub, .asy, .standby, .power, .sec, .mgmt, .out] ps = true) :
    KeepsOut ps s0 (execControlWindowWrite m off bytes v s) := by
  unfold execControlWindowWrite
  try dsimp only
  repeat' first
    | with_reducible assumption
    | with_reducible refine keeps_windowWrite _ _ _ _ ?_ (sub_trans (by decide) hP)
    | with_reducible refine keepsOut_next ?_
    | with_reducible refine keepsOut_whenOk ?_ ?_
    | split

theorem keeps_execSecCtlLock {ps : List Part} {s0 s : State} (m : Master)
    (hK : Keeps ps s0 s) (hP : sub [.ledger, .faults, .sec] ps = true) :
    KeepsOut ps s0 (execSecCtlLock m s) := by
  unfold execSecCtlLock
  try dsimp only
  repeat' first
    | with_reducible assumption
    | dsimp only [keeps_mk]
    | with_reducible refine KeepsMk.w_sec ?_ (sub_mem (by decide) hP)
    | with_reducible refine keeps_regWriteRow _ _ _ ?_ (sub_trans (by decide) hP) (fun t hK => ?_)
    | with_reducible refine keepsOut_next ?_
    | with_reducible refine keepsOut_whenOk ?_ ?_
    | split

theorem keeps_execMgtPwrWrite {ps : List Part} {s0 s : State} (m : Master) (w : Width) (v : Word)
    (hK : Keeps ps s0 s) (hP : sub [.clock, .beads, .mmu, .fabric, .clasps, .mem, .bezels, .chain, .host, .mbxs,
        .nutas, .ledger, .commit, .faults, .hub, .asy, .standby, .power, .sec, .mgmt, .out] ps = true) :
    KeepsOut ps s0 (execMgtPwrWrite m w v s) := by
  unfold execMgtPwrWrite
  try dsimp only
  repeat' first
    | with_reducible assumption
    | with_reducible refine keeps_mgtPwrSet _ _ ?_ (sub_trans (by decide) hP)
    | with_reducible refine keeps_regWriteRow _ _ _ ?_ (sub_trans (by decide) hP) (fun t hK => ?_)
    | with_reducible refine keepsOut_next ?_
    | with_reducible refine keepsOut_whenOk ?_ ?_
    | split

theorem keeps_hostAnswer {ps : List Part} {s0 s : State} (m : Master) (f : State → State)
    (hK : Keeps ps s0 s) (hP : sub [.ledger, .faults] ps = true)
    (hf : ∀ t, Keeps ps s0 t → Keeps ps s0 (f t)) :
    Keeps ps s0 (hostAnswer m f s) := by
  unfold hostAnswer
  try dsimp only
  repeat' first
    | with_reducible assumption
    | with_reducible refine keeps_forbidden _ ?_ (sub_trans (by decide) hP)
    | with_reducible refine hf _ ?_
    | split

theorem keeps_execMgtOwnGrant {ps : List Part} {s0 s : State} (m : Master)
    (hK : Keeps ps s0 s) (hP : sub [.ledger, .faults, .standby] ps = true) :
    KeepsOut ps s0 (execMgtOwnGrant m s) := by
  unfold execMgtOwnGrant
  try dsimp only
  repeat' first
    | with_reducible assumption
    | with_reducible refine keeps_regWriteRow _ _ _ ?_ (sub_trans (by decide) hP) (fun t hK => ?_)
    | with_reducible refine keeps_grant ?_ (sub_trans (by decide) hP)
    | with_reducible refine keeps_hostAnswer _ _ ?_ (sub_trans (by decide) hP) (fun t hK => ?_)
    | with_reducible refine keepsOut_next ?_
    | with_reducible refine keepsOut_whenOk ?_ ?_
    | split

theorem keeps_execMgtOwnDeny {ps : List Part} {s0 s : State} (m : Master)
    (hK : Keeps ps s0 s) (hP : sub [.ledger, .faults, .standby, .mgmt, .out] ps = true) :
    KeepsOut ps s0 (execMgtOwnDeny m s) := by
  unfold execMgtOwnDeny
  try dsimp only
  repeat' first
    | with_reducible assumption
    | with_reducible refine keeps_deny ?_ (sub_trans (by decide) hP)
    | with_reducible refine keeps_regWriteRow _ _ _ ?_ (sub_trans (by decide) hP) (fun t hK => ?_)
    | with_reducible refine keeps_hostAnswer _ _ ?_ (sub_trans (by decide) hP) (fun t hK => ?_)
    | with_reducible refine keepsOut_next ?_
    | with_reducible refine keepsOut_whenOk ?_ ?_
    | split

theorem keeps_thRow {ps : List Part} {s0 s : State} (opc : Nat) (sel : MgmtReq → Bool) (f : MgmtReq → State → State)
    (hK : Keeps ps s0 s) (hP : sub [.mgmt] ps = true)
    (hf : ∀ r t, Keeps ps s0 t → Keeps ps s0 (f r t)) :
    KeepsOut ps s0 (thRow opc sel f s) := by
  unfold thRow
  try dsimp only
  repeat' first
    | with_reducible assumption
    | with_reducible refine keeps_modMgmt _ ?_ (sub_trans (by decide) hP)
    | with_reducible refine keepsOut_next ?_
    | with_reducible refine keepsOut_whenOk ?_ ?_
    | with_reducible refine hf _ _ ?_
    | split

theorem keeps_mbxPost {ps : List Part} {s0 s : State} (r : MgmtReq)
    (hK : Keeps ps s0 s) (hP : sub [.mbxs, .mgmt, .out] ps = true) :
    Keeps ps s0 (mbxPost r s) := by
  unfold mbxPost
  try dsimp only
  repeat' first
    | with_reducible assumption
    | with_reducible refine keeps_thAnswer _ _ _ ?_ (sub_trans (by decide) hP)
    | with_reducible refine keeps_modMgmt _ ?_ (sub_trans (by decide) hP)
    | (with_reducible refine keeps_modMbx _ _ ?_ (sub_trans (by decide) hP) (fun x => x))
    | (with_reducible refine keeps_modMbx _ _ ?_ (sub_trans (by decide) hP) (fun x => Nat.zero_le _))
    | split

theorem keeps_execMbxPost {ps : List Part} {s0 s : State}
    (hK : Keeps ps s0 s) (hP : sub [.mbxs, .mgmt, .out] ps = true) :
    KeepsOut ps s0 (execMbxPost s) := by
  unfold execMbxPost
  try dsimp only
  repeat' first
    | with_reducible assumption
    | with_reducible refine keeps_mbxPost _ ?_ (sub_trans (by decide) hP)
    | with_reducible refine keeps_thRow _ _ _ ?_ (sub_trans (by decide) hP) (fun r t hK => ?_)
    | with_reducible refine keepsOut_next ?_
    | with_reducible refine keepsOut_whenOk ?_ ?_
    | split

theorem keeps_regRead {ps : List Part} {s0 s : State} (r : MgmtReq)
    (hK : Keeps ps s0 s) (hP : sub [.clasps, .bezels, .chain, .host, .ledger, .faults, .hub, .asy, .power, .mgmt,
        .out] ps = true) :
    Keeps ps s0 (regRead r s) := by
  unfold regRead
  try dsimp only
  repeat' first
    | with_reducible assumption
    | with_reducible refine keeps_thAnswer _ _ _ ?_ (sub_trans (by decide) hP)
    | with_reducible refine keeps_regCleared _ _ _ ?_ (sub_trans (by decide) hP)
    | split

theorem keeps_execRegRead {ps : List Part} {s0 s : State}
    (hK : Keeps ps s0 s) (hP : sub [.clasps, .bezels, .chain, .host, .ledger, .faults, .hub, .asy, .power, .mgmt,
        .out] ps = true) :
    KeepsOut ps s0 (execRegRead s) := by
  unfold execRegRead
  try dsimp only
  repeat' first
    | with_reducible assumption
    | with_reducible refine keeps_thRow _ _ _ ?_ (sub_trans (by decide) hP) (fun r t hK => ?_)
    | with_reducible refine keeps_regRead _ ?_ (sub_trans (by decide) hP)
    | with_reducible refine keepsOut_next ?_
    | with_reducible refine keepsOut_whenOk ?_ ?_
    | split

theorem keeps_regWriteMsg {ps : List Part} {s0 s : State} (r : MgmtReq)
    (hK : Keeps ps s0 s) (hP : sub [.clock, .beads, .mmu, .fabric, .clasps, .mem, .bezels, .chain, .host, .mbxs,
        .nutas, .ledger, .commit, .faults, .hub, .asy, .standby, .power, .sec, .mgmt, .out] ps = true) :
    Keeps ps s0 (regWriteMsg r s) := by
  unfold regWriteMsg
  try dsimp only
  repeat' first
    | with_reducible assumption
    | with_reducible refine keeps_forbidden _ ?_ (sub_trans (by decide) hP)
    | with_reducible refine keeps_regWrite _ _ _ _ ?_ (sub_trans (by decide) hP)
    | with_reducible refine keeps_thAnswer _ _ _ ?_ (sub_trans (by decide) hP)
    | split

theorem keeps_execRegWrite {ps : List Part} {s0 s : State}
    (hK : Keeps ps s0 s) (hP : sub [.clock, .beads, .mmu, .fabric, .clasps, .mem, .bezels, .chain, .host, .mbxs,
        .nutas, .ledger, .commit, .faults, .hub, .asy, .standby, .power, .sec, .mgmt, .out] ps = true) :
    KeepsOut ps s0 (execRegWrite s) := by
  unfold execRegWrite
  try dsimp only
  repeat' first
    | with_reducible assumption
    | with_reducible refine keeps_thRow _ _ _ ?_ (sub_trans (by decide) hP) (fun r t hK => ?_)
    | with_reducible refine keeps_regWriteMsg _ ?_ (sub_trans (by decide) hP)
    | with_reducible refine keepsOut_next ?_
    | with_reducible refine keepsOut_whenOk ?_ ?_
    | split

theorem keeps_stageWrite {ps : List Part} {s0 s : State} (r : MgmtReq)
    (hK : Keeps ps s0 s) (hP : sub [.mgmt, .out] ps = true) :
    Keeps ps s0 (stageWrite r s) := by
  unfold stageWrite
  try dsimp only
  repeat' first
    | with_reducible assumption
    | with_reducible refine keeps_thAnswer _ _ _ ?_ (sub_trans (by decide) hP)
    | with_reducible refine keeps_modMgmt _ ?_ (sub_trans (by decide) hP)
    | with_reducible refine Keeps.foldl _ ?_ (fun t a hK => ?_)
    | with_reducible refine Keeps.foldlSnd _ ?_ (fun a k hK => ?_)
    | split

theorem keeps_execStageWrite {ps : List Part} {s0 s : State}
    (hK : Keeps ps s0 s) (hP : sub [.mgmt, .out] ps = true) :
    KeepsOut ps s0 (execStageWrite s) := by
  unfold execStageWrite
  try dsimp only
  repeat' first
    | with_reducible assumption
    | with_reducible refine keeps_stageWrite _ ?_ (sub_trans (by decide) hP)
    | with_reducible refine keeps_thRow _ _ _ ?_ (sub_trans (by decide) hP) (fun r t hK => ?_)
    | with_reducible refine keepsOut_next ?_
    | with_reducible refine keepsOut_whenOk ?_ ?_
    | split

theorem keeps_stageRead {ps : List Part} {s0 s : State} (r : MgmtReq)
    (hK : Keeps ps s0 s) (hP : sub [.mgmt, .out] ps = true) :
    Keeps ps s0 (stageRead r s) := by
  unfold stageRead
  try dsimp only
  repeat' first
    | with_reducible assumption
    | with_reducible refine keeps_thAnswer _ _ _ ?_ (sub_trans (by decide) hP)
    | split

theorem keeps_execStageRead {ps : List Part} {s0 s : State}
    (hK : Keeps ps s0 s) (hP : sub [.mgmt, .out] ps = true) :
    KeepsOut ps s0 (execStageRead s) := by
  unfold execStageRead
  try dsimp only
  repeat' first
    | with_reducible assumption
    | with_reducible refine keeps_stageRead _ ?_ (sub_trans (by decide) hP)
    | with_reducible refine keeps_thRow _ _ _ ?_ (sub_trans (by decide) hP) (fun r t hK => ?_)
    | with_reducible refine keepsOut_next ?_
    | with_reducible refine keepsOut_whenOk ?_ ?_
    | split

theorem keeps_powerAnswer {ps : List Part} {s0 s : State} (r : MgmtReq)
    (hK : Keeps ps s0 s) (hP : sub [.mgmt, .out] ps = true) :
    Keeps ps s0 (powerAnswer r s) := by
  unfold powerAnswer
  try dsimp only
  repeat' first
    | with_reducible assumption
    | with_reducible refine keeps_thAnswer _ _ _ ?_ (sub_trans (by decide) hP)
    | split

theorem keeps_powerOn {ps : List Part} {s0 s : State} (r : MgmtReq)
    (hK : Keeps ps s0 s) (hP : sub [.standby, .mgmt, .out] ps = true) :
    Keeps ps s0 (powerOn r s) := by
  unfold powerOn
  try dsimp only
  repeat' first
    | with_reducible assumption
    | with_reducible refine keeps_powerAnswer _ ?_ (sub_trans (by decide) hP)
    | with_reducible refine keeps_thAnswer _ _ _ ?_ (sub_trans (by decide) hP)
    | with_reducible refine keeps_modStandby _ ?_ (sub_trans (by decide) hP) rfl (le_refl _) (by simp)
    | split

theorem keeps_execPowerOn {ps : List Part} {s0 s : State}
    (hK : Keeps ps s0 s) (hP : sub [.standby, .mgmt, .out] ps = true) :
    KeepsOut ps s0 (execPowerOn s) := by
  unfold execPowerOn
  try dsimp only
  repeat' first
    | with_reducible assumption
    | with_reducible refine keeps_powerOn _ ?_ (sub_trans (by decide) hP)
    | with_reducible refine keeps_thRow _ _ _ ?_ (sub_trans (by decide) hP) (fun r t hK => ?_)
    | with_reducible refine keepsOut_next ?_
    | with_reducible refine keepsOut_whenOk ?_ ?_
    | split

theorem keeps_powerDown {ps : List Part} {s0 s : State} (cycle : Bool) (r : MgmtReq)
    (hK : Keeps ps s0 s) (hP : sub [.clock, .beads, .mmu, .fabric, .clasps, .mem, .bezels, .chain, .host, .mbxs,
        .nutas, .ledger, .commit, .faults, .hub, .asy, .standby, .power, .sec, .mgmt, .out] ps = true) :
    Keeps ps s0 (powerDown cycle r s) := by
  unfold powerDown
  try dsimp only
  repeat' first
    | with_reducible assumption
    | with_reducible refine keeps_powerAnswer _ ?_ (sub_trans (by decide) hP)
    | with_reducible refine keeps_thAnswer _ _ _ ?_ (sub_trans (by decide) hP)
    | with_reducible refine keeps_recordForced ?_ (sub_trans (by decide) hP)
    | with_reducible refine keeps_setHold ?_ (sub_trans (by decide) hP)
    | with_reducible refine keeps_modStandby _ ?_ (sub_trans (by decide) hP) rfl (le_refl _) (by simp)
    | split

theorem keeps_execPowerOff {ps : List Part} {s0 s : State}
    (hK : Keeps ps s0 s) (hP : sub [.clock, .beads, .mmu, .fabric, .clasps, .mem, .bezels, .chain, .host, .mbxs,
        .nutas, .ledger, .commit, .faults, .hub, .asy, .standby, .power, .sec, .mgmt, .out] ps = true) :
    KeepsOut ps s0 (execPowerOff s) := by
  unfold execPowerOff
  try dsimp only
  repeat' first
    | with_reducible assumption
    | with_reducible refine keeps_powerDown _ _ ?_ (sub_trans (by decide) hP)
    | with_reducible refine keeps_thRow _ _ _ ?_ (sub_trans (by decide) hP) (fun r t hK => ?_)
    | with_reducible refine keepsOut_next ?_
    | with_reducible refine keepsOut_whenOk ?_ ?_
    | split

theorem keeps_execPowerCycle {ps : List Part} {s0 s : State}
    (hK : Keeps ps s0 s) (hP : sub [.clock, .beads, .mmu, .fabric, .clasps, .mem, .bezels, .chain, .host, .mbxs,
        .nutas, .ledger, .commit, .faults, .hub, .asy, .standby, .power, .sec, .mgmt, .out] ps = true) :
    KeepsOut ps s0 (execPowerCycle s) := by
  unfold execPowerCycle
  try dsimp only
  repeat' first
    | with_reducible assumption
    | with_reducible refine keeps_powerDown _ _ ?_ (sub_trans (by decide) hP)
    | with_reducible refine keeps_thRow _ _ _ ?_ (sub_trans (by decide) hP) (fun r t hK => ?_)
    | with_reducible refine keepsOut_next ?_
    | with_reducible refine keepsOut_whenOk ?_ ?_
    | split

theorem keeps_execPowerCycleHoldEnd {ps : List Part} {s0 s : State}
    (hK : Keeps ps s0 s) (hP : sub [.standby] ps = true) :
    KeepsOut ps s0 (execPowerCycleHoldEnd s) := by
  unfold execPowerCycleHoldEnd
  try dsimp only
  repeat' first
    | with_reducible assumption
    | with_reducible refine keeps_modStandby _ ?_ (sub_trans (by decide) hP) rfl (le_refl _) (by simp)
    | with_reducible refine keepsOut_next ?_
    | with_reducible refine keepsOut_whenOk ?_ ?_
    | split

theorem keeps_takeAnswer {ps : List Part} {s0 s : State} (r : MgmtReq)
    (hK : Keeps ps s0 s) (hP : sub [.mgmt, .out] ps = true) :
    Keeps ps s0 (takeAnswer r s) := by
  unfold takeAnswer
  try dsimp only
  repeat' first
    | with_reducible assumption
    | with_reducible refine keeps_thAnswer _ _ _ ?_ (sub_trans (by decide) hP)
    | split

theorem keeps_takeover {ps : List Part} {s0 s : State} (r : MgmtReq)
    (hK : Keeps ps s0 s) (hP : sub [.hub, .standby, .mgmt, .out] ps = true) :
    Keeps ps s0 (takeover r s) := by
  unfold takeover
  try dsimp only
  repeat' first
    | with_reducible assumption
    | with_reducible refine keeps_thAnswer _ _ _ ?_ (sub_trans (by decide) hP)
    | with_reducible refine keeps_takeAnswer _ ?_ (sub_trans (by decide) hP)
    | with_reducible refine keeps_hubRaise _ ?_ (sub_trans (by decide) hP)
    | with_reducible refine keeps_modStandby _ ?_ (sub_trans (by decide) hP) rfl (le_refl _) (by simp)
    | split

theorem keeps_execTakeoverRequest {ps : List Part} {s0 s : State}
    (hK : Keeps ps s0 s) (hP : sub [.hub, .standby, .mgmt, .out] ps = true) :
    KeepsOut ps s0 (execTakeoverRequest s) := by
  unfold execTakeoverRequest
  try dsimp only
  repeat' first
    | with_reducible assumption
    | with_reducible refine keeps_takeover _ ?_ (sub_trans (by decide) hP)
    | with_reducible refine keeps_thRow _ _ _ ?_ (sub_trans (by decide) hP) (fun r t hK => ?_)
    | with_reducible refine keepsOut_next ?_
    | with_reducible refine keepsOut_whenOk ?_ ?_
    | split

theorem keeps_releaseOwn {ps : List Part} {s0 s : State} (r : MgmtReq)
    (hK : Keeps ps s0 s) (hP : sub [.standby, .mgmt, .out] ps = true) :
    Keeps ps s0 (releaseOwn r s) := by
  unfold releaseOwn
  try dsimp only
  repeat' first
    | with_reducible assumption
    | with_reducible refine keeps_thAnswer _ _ _ ?_ (sub_trans (by decide) hP)
    | with_reducible refine keeps_takeAnswer _ ?_ (sub_trans (by decide) hP)
    | with_reducible refine keeps_modStandby _ ?_ (sub_trans (by decide) hP) rfl (le_refl _) (by simp)
    | split

theorem keeps_execTakeoverRelease {ps : List Part} {s0 s : State}
    (hK : Keeps ps s0 s) (hP : sub [.standby, .mgmt, .out] ps = true) :
    KeepsOut ps s0 (execTakeoverRelease s) := by
  unfold execTakeoverRelease
  try dsimp only
  repeat' first
    | with_reducible assumption
    | with_reducible refine keeps_releaseOwn _ ?_ (sub_trans (by decide) hP)
    | with_reducible refine keeps_thRow _ _ _ ?_ (sub_trans (by decide) hP) (fun r t hK => ?_)
    | with_reducible refine keepsOut_next ?_
    | with_reducible refine keepsOut_whenOk ?_ ?_
    | split

theorem keeps_execLossTmoExpiry {ps : List Part} {s0 s : State}
    (hK : Keeps ps s0 s) (hP : sub [.standby] ps = true) :
    KeepsOut ps s0 (execLossTmoExpiry s) := by
  unfold execLossTmoExpiry
  try dsimp only
  repeat' first
    | with_reducible assumption
    | with_reducible refine keeps_modStandby _ ?_ (sub_trans (by decide) hP) rfl (le_refl _) (by simp)
    | with_reducible refine keepsOut_next ?_
    | with_reducible refine keepsOut_whenOk ?_ ?_
    | split

theorem keeps_attestMake {ps : List Part} {s0 s : State} (r : MgmtReq)
    (hK : Keeps ps s0 s) (hP : sub [.sec, .mgmt, .out, .free] ps = true) :
    Keeps ps s0 (attestMake r s) := by
  unfold attestMake
  try dsimp only
  repeat' first
    | with_reducible assumption
    | dsimp only [keeps_mk]
    | with_reducible refine KeepsMk.w_sec ?_ (sub_mem (by decide) hP)
    | with_reducible refine keeps_drawn ?_ (sub_trans (by decide) hP)
    | with_reducible refine keeps_thAnswer _ _ _ ?_ (sub_trans (by decide) hP)
    | split

theorem keeps_execAttestMake {ps : List Part} {s0 s : State}
    (hK : Keeps ps s0 s) (hP : sub [.sec, .mgmt, .out, .free] ps = true) :
    KeepsOut ps s0 (execAttestMake s) := by
  unfold execAttestMake
  try dsimp only
  repeat' first
    | with_reducible assumption
    | with_reducible refine keeps_thRow _ _ _ ?_ (sub_trans (by decide) hP) (fun r t hK => ?_)
    | with_reducible refine keeps_attestMake _ ?_ (sub_trans (by decide) hP)
    | with_reducible refine keepsOut_next ?_
    | with_reducible refine keepsOut_whenOk ?_ ?_
    | split

theorem keeps_attestFetch {ps : List Part} {s0 s : State} (r : MgmtReq)
    (hK : Keeps ps s0 s) (hP : sub [.mgmt, .out] ps = true) :
    Keeps ps s0 (attestFetch r s) := by
  unfold attestFetch
  try dsimp only
  repeat' first
    | with_reducible assumption
    | with_reducible refine keeps_thAnswer _ _ _ ?_ (sub_trans (by decide) hP)
    | split

theorem keeps_execAttestFetch {ps : List Part} {s0 s : State}
    (hK : Keeps ps s0 s) (hP : sub [.mgmt, .out] ps = true) :
    KeepsOut ps s0 (execAttestFetch s) := by
  unfold execAttestFetch
  try dsimp only
  repeat' first
    | with_reducible assumption
    | with_reducible refine keeps_attestFetch _ ?_ (sub_trans (by decide) hP)
    | with_reducible refine keeps_thRow _ _ _ ?_ (sub_trans (by decide) hP) (fun r t hK => ?_)
    | with_reducible refine keepsOut_next ?_
    | with_reducible refine keepsOut_whenOk ?_ ?_
    | split

end Sys2Proof.Laws
end

