-- ==== Sys2Proof/Laws/State.lean ====
section
/-! SUPPORT. What each elementary update of the state leaves as it was, part by part, and what reading back what it wrote
gives. -/

namespace Sys2Proof.Laws

open Sys2Proof Sys2Proof.Machine

/-- What every step of a fold leaves as it was, the fold leaves. -/
theorem foldl_same {α β : Type} {f : State → α → State} (p : State → β) (h : ∀ t a, p (f t a) = p t) (l : List α) (s : State) :
    p (l.foldl f s) = p s := by
  induction l generalizing s with
  | nil => rfl
  | cons a r ih => exact (ih _).trans (h s a)

variable (s : State)

section putCode
variable (g : Nat) (c : Code)
@[simp] theorem putCode_pending : (putCode s g c).pending = s.pending := rfl
@[simp] theorem putCode_clock : (putCode s g c).clock = s.clock := rfl
@[simp] theorem putCode_beads : (putCode s g c).beads = s.beads := rfl
@[simp] theorem putCode_mmu : (putCode s g c).mmu = s.mmu := rfl
@[simp] theorem putCode_fabric : (putCode s g c).fabric = s.fabric := rfl
@[simp] theorem putCode_clasps : (putCode s g c).clasps = s.clasps := rfl
@[simp] theorem putCode_bezels : (putCode s g c).bezels = s.bezels := rfl
@[simp] theorem putCode_chain : (putCode s g c).chain = s.chain := rfl
@[simp] theorem putCode_host : (putCode s g c).host = s.host := rfl
@[simp] theorem putCode_mbxs : (putCode s g c).mbxs = s.mbxs := rfl
@[simp] theorem putCode_nutas : (putCode s g c).nutas = s.nutas := rfl
@[simp] theorem putCode_ledger : (putCode s g c).ledger = s.ledger := rfl
@[simp] theorem putCode_commit : (putCode s g c).commit = s.commit := rfl
@[simp] theorem putCode_faults : (putCode s g c).faults = s.faults := rfl
@[simp] theorem putCode_hub : (putCode s g c).hub = s.hub := rfl
@[simp] theorem putCode_asy : (putCode s g c).asy = s.asy := rfl
@[simp] theorem putCode_standby : (putCode s g c).standby = s.standby := rfl
@[simp] theorem putCode_power : (putCode s g c).power = s.power := rfl
@[simp] theorem putCode_sec : (putCode s g c).sec = s.sec := rfl
@[simp] theorem putCode_mgmt : (putCode s g c).mgmt = s.mgmt := rfl
@[simp] theorem putCode_out : (putCode s g c).out = s.out := rfl
@[simp] theorem putCode_free : (putCode s g c).free = s.free := rfl
end putCode

section stackPut
variable (z : Nat) (l : Nat) (c : Code)
@[simp] theorem stackPut_pending : (stackPut z l c s).pending = s.pending := by
  simp only [stackPut]; split <;> split <;> rfl
@[simp] theorem stackPut_clock : (stackPut z l c s).clock = s.clock := by
  simp only [stackPut]; split <;> split <;> rfl
@[simp] theorem stackPut_beads : (stackPut z l c s).beads = s.beads := by
  simp only [stackPut]; split <;> split <;> rfl
@[simp] theorem stackPut_mmu : (stackPut z l c s).mmu = s.mmu := by
  simp only [stackPut]; split <;> split <;> rfl
@[simp] theorem stackPut_fabric : (stackPut z l c s).fabric = s.fabric := by
  simp only [stackPut]; split <;> split <;> rfl
@[simp] theorem stackPut_clasps : (stackPut z l c s).clasps = s.clasps := by
  simp only [stackPut]; split <;> split <;> rfl
@[simp] theorem stackPut_bezels : (stackPut z l c s).bezels = s.bezels := by
  simp only [stackPut]; split <;> split <;> rfl
@[simp] theorem stackPut_chain : (stackPut z l c s).chain = s.chain := by
  simp only [stackPut]; split <;> split <;> rfl
@[simp] theorem stackPut_host : (stackPut z l c s).host = s.host := by
  simp only [stackPut]; split <;> split <;> rfl
@[simp] theorem stackPut_mbxs : (stackPut z l c s).mbxs = s.mbxs := by
  simp only [stackPut]; split <;> split <;> rfl
@[simp] theorem stackPut_nutas : (stackPut z l c s).nutas = s.nutas := by
  simp only [stackPut]; split <;> split <;> rfl
@[simp] theorem stackPut_ledger : (stackPut z l c s).ledger = s.ledger := by
  simp only [stackPut]; split <;> split <;> rfl
@[simp] theorem stackPut_commit : (stackPut z l c s).commit = s.commit := by
  simp only [stackPut]; split <;> split <;> rfl
@[simp] theorem stackPut_faults : (stackPut z l c s).faults = s.faults := by
  simp only [stackPut]; split <;> split <;> rfl
@[simp] theorem stackPut_hub : (stackPut z l c s).hub = s.hub := by
  simp only [stackPut]; split <;> split <;> rfl
@[simp] theorem stackPut_asy : (stackPut z l c s).asy = s.asy := by
  simp only [stackPut]; split <;> split <;> rfl
@[simp] theorem stackPut_standby : (stackPut z l c s).standby = s.standby := by
  simp only [stackPut]; split <;> split <;> rfl
@[simp] theorem stackPut_power : (stackPut z l c s).power = s.power := by
  simp only [stackPut]; split <;> split <;> rfl
@[simp] theorem stackPut_sec : (stackPut z l c s).sec = s.sec := by
  simp only [stackPut]; split <;> split <;> rfl
@[simp] theorem stackPut_mgmt : (stackPut z l c s).mgmt = s.mgmt := by
  simp only [stackPut]; split <;> split <;> rfl
@[simp] theorem stackPut_out : (stackPut z l c s).out = s.out := by
  simp only [stackPut]; split <;> split <;> rfl
@[simp] theorem stackPut_free : (stackPut z l c s).free = s.free := by
  simp only [stackPut]; split <;> split <;> rfl
end stackPut

section emit
variable (o : OutMsg)
@[simp] theorem emit_pending : (emit o s).pending = s.pending := rfl
@[simp] theorem emit_clock : (emit o s).clock = s.clock := rfl
@[simp] theorem emit_beads : (emit o s).beads = s.beads := rfl
@[simp] theorem emit_mmu : (emit o s).mmu = s.mmu := rfl
@[simp] theorem emit_fabric : (emit o s).fabric = s.fabric := rfl
@[simp] theorem emit_clasps : (emit o s).clasps = s.clasps := rfl
@[simp] theorem emit_mem : (emit o s).mem = s.mem := rfl
@[simp] theorem emit_bezels : (emit o s).bezels = s.bezels := rfl
@[simp] theorem emit_chain : (emit o s).chain = s.chain := rfl
@[simp] theorem emit_host : (emit o s).host = s.host := rfl
@[simp] theorem emit_mbxs : (emit o s).mbxs = s.mbxs := rfl
@[simp] theorem emit_nutas : (emit o s).nutas = s.nutas := rfl
@[simp] theorem emit_ledger : (emit o s).ledger = s.ledger := rfl
@[simp] theorem emit_commit : (emit o s).commit = s.commit := rfl
@[simp] theorem emit_faults : (emit o s).faults = s.faults := rfl
@[simp] theorem emit_hub : (emit o s).hub = s.hub := rfl
@[simp] theorem emit_asy : (emit o s).asy = s.asy := rfl
@[simp] theorem emit_standby : (emit o s).standby = s.standby := rfl
@[simp] theorem emit_power : (emit o s).power = s.power := rfl
@[simp] theorem emit_sec : (emit o s).sec = s.sec := rfl
@[simp] theorem emit_mgmt : (emit o s).mgmt = s.mgmt := rfl
@[simp] theorem emit_free : (emit o s).free = s.free := rfl
end emit

section drawn
@[simp] theorem drawn_pending : (drawn s).pending = s.pending := rfl
@[simp] theorem drawn_clock : (drawn s).clock = s.clock := rfl
@[simp] theorem drawn_beads : (drawn s).beads = s.beads := rfl
@[simp] theorem drawn_mmu : (drawn s).mmu = s.mmu := rfl
@[simp] theorem drawn_fabric : (drawn s).fabric = s.fabric := rfl
@[simp] theorem drawn_clasps : (drawn s).clasps = s.clasps := rfl
@[simp] theorem drawn_mem : (drawn s).mem = s.mem := rfl
@[simp] theorem drawn_bezels : (drawn s).bezels = s.bezels := rfl
@[simp] theorem drawn_chain : (drawn s).chain = s.chain := rfl
@[simp] theorem drawn_host : (drawn s).host = s.host := rfl
@[simp] theorem drawn_mbxs : (drawn s).mbxs = s.mbxs := rfl
@[simp] theorem drawn_nutas : (drawn s).nutas = s.nutas := rfl
@[simp] theorem drawn_ledger : (drawn s).ledger = s.ledger := rfl
@[simp] theorem drawn_commit : (drawn s).commit = s.commit := rfl
@[simp] theorem drawn_faults : (drawn s).faults = s.faults := rfl
@[simp] theorem drawn_hub : (drawn s).hub = s.hub := rfl
@[simp] theorem drawn_asy : (drawn s).asy = s.asy := rfl
@[simp] theorem drawn_standby : (drawn s).standby = s.standby := rfl
@[simp] theorem drawn_power : (drawn s).power = s.power := rfl
@[simp] theorem drawn_sec : (drawn s).sec = s.sec := rfl
@[simp] theorem drawn_mgmt : (drawn s).mgmt = s.mgmt := rfl
@[simp] theorem drawn_out : (drawn s).out = s.out := rfl
end drawn

section countEv
variable (blk : Nat) (code : Nat) (n : Nat)
@[simp] theorem countEv_pending : (countEv blk code n s).pending = s.pending := by
  unfold countEv; split <;> rfl
@[simp] theorem countEv_clock : (countEv blk code n s).clock = s.clock := by
  unfold countEv; split <;> rfl
@[simp] theorem countEv_beads : (countEv blk code n s).beads = s.beads := by
  unfold countEv; split <;> rfl
@[simp] theorem countEv_mmu : (countEv blk code n s).mmu = s.mmu := by
  unfold countEv; split <;> rfl
@[simp] theorem countEv_fabric : (countEv blk code n s).fabric = s.fabric := by
  unfold countEv; split <;> rfl
@[simp] theorem countEv_clasps : (countEv blk code n s).clasps = s.clasps := by
  unfold countEv; split <;> rfl
@[simp] theorem countEv_mem : (countEv blk code n s).mem = s.mem := by
  unfold countEv; split <;> rfl
@[simp] theorem countEv_bezels : (countEv blk code n s).bezels = s.bezels := by
  unfold countEv; split <;> rfl
@[simp] theorem countEv_chain : (countEv blk code n s).chain = s.chain := by
  unfold countEv; split <;> rfl
@[simp] theorem countEv_host : (countEv blk code n s).host = s.host := by
  unfold countEv; split <;> rfl
@[simp] theorem countEv_mbxs : (countEv blk code n s).mbxs = s.mbxs := by
  unfold countEv; split <;> rfl
@[simp] theorem countEv_nutas : (countEv blk code n s).nutas = s.nutas := by
  unfold countEv; split <;> rfl
@[simp] theorem countEv_ledger : (countEv blk code n s).ledger = s.ledger := by
  unfold countEv; split <;> rfl
@[simp] theorem countEv_commit : (countEv blk code n s).commit = s.commit := by
  unfold countEv; split <;> rfl
@[simp] theorem countEv_faults : (countEv blk code n s).faults = s.faults := by
  unfold countEv; split <;> rfl
@[simp] theorem countEv_hub : (countEv blk code n s).hub = s.hub := by
  unfold countEv; split <;> rfl
@[simp] theorem countEv_standby : (countEv blk code n s).standby = s.standby := by
  unfold countEv; split <;> rfl
@[simp] theorem countEv_power : (countEv blk code n s).power = s.power := by
  unfold countEv; split <;> rfl
@[simp] theorem countEv_sec : (countEv blk code n s).sec = s.sec := by
  unfold countEv; split <;> rfl
@[simp] theorem countEv_mgmt : (countEv blk code n s).mgmt = s.mgmt := by
  unfold countEv; split <;> rfl
@[simp] theorem countEv_out : (countEv blk code n s).out = s.out := by
  unfold countEv; split <;> rfl
@[simp] theorem countEv_free : (countEv blk code n s).free = s.free := by
  unfold countEv; split <;> rfl
end countEv

section hubSet
variable (src : Nat)
@[simp] theorem hubSet_pending : (hubSet src s).pending = s.pending := rfl
@[simp] theorem hubSet_clock : (hubSet src s).clock = s.clock := rfl
@[simp] theorem hubSet_beads : (hubSet src s).beads = s.beads := rfl
@[simp] theorem hubSet_mmu : (hubSet src s).mmu = s.mmu := rfl
@[simp] theorem hubSet_fabric : (hubSet src s).fabric = s.fabric := rfl
@[simp] theorem hubSet_clasps : (hubSet src s).clasps = s.clasps := rfl
@[simp] theorem hubSet_mem : (hubSet src s).mem = s.mem := rfl
@[simp] theorem hubSet_bezels : (hubSet src s).bezels = s.bezels := rfl
@[simp] theorem hubSet_chain : (hubSet src s).chain = s.chain := rfl
@[simp] theorem hubSet_host : (hubSet src s).host = s.host := rfl
@[simp] theorem hubSet_mbxs : (hubSet src s).mbxs = s.mbxs := rfl
@[simp] theorem hubSet_nutas : (hubSet src s).nutas = s.nutas := rfl
@[simp] theorem hubSet_ledger : (hubSet src s).ledger = s.ledger := rfl
@[simp] theorem hubSet_commit : (hubSet src s).commit = s.commit := rfl
@[simp] theorem hubSet_faults : (hubSet src s).faults = s.faults := rfl
@[simp] theorem hubSet_asy : (hubSet src s).asy = s.asy := rfl
@[simp] theorem hubSet_standby : (hubSet src s).standby = s.standby := rfl
@[simp] theorem hubSet_power : (hubSet src s).power = s.power := rfl
@[simp] theorem hubSet_sec : (hubSet src s).sec = s.sec := rfl
@[simp] theorem hubSet_mgmt : (hubSet src s).mgmt = s.mgmt := rfl
@[simp] theorem hubSet_out : (hubSet src s).out = s.out := rfl
@[simp] theorem hubSet_free : (hubSet src s).free = s.free := rfl
end hubSet

section hubRaiseBy
variable (blk : Nat) (src : Nat)
@[simp] theorem hubRaiseBy_pending : (hubRaiseBy blk src s).pending = s.pending := by
  unfold hubRaiseBy; split <;> rfl
@[simp] theorem hubRaiseBy_clock : (hubRaiseBy blk src s).clock = s.clock := by
  unfold hubRaiseBy; split <;> rfl
@[simp] theorem hubRaiseBy_beads : (hubRaiseBy blk src s).beads = s.beads := by
  unfold hubRaiseBy; split <;> rfl
@[simp] theorem hubRaiseBy_mmu : (hubRaiseBy blk src s).mmu = s.mmu := by
  unfold hubRaiseBy; split <;> rfl
@[simp] theorem hubRaiseBy_fabric : (hubRaiseBy blk src s).fabric = s.fabric := by
  unfold hubRaiseBy; split <;> rfl
@[simp] theorem hubRaiseBy_clasps : (hubRaiseBy blk src s).clasps = s.clasps := by
  unfold hubRaiseBy; split <;> rfl
@[simp] theorem hubRaiseBy_mem : (hubRaiseBy blk src s).mem = s.mem := by
  unfold hubRaiseBy; split <;> rfl
@[simp] theorem hubRaiseBy_bezels : (hubRaiseBy blk src s).bezels = s.bezels := by
  unfold hubRaiseBy; split <;> rfl
@[simp] theorem hubRaiseBy_chain : (hubRaiseBy blk src s).chain = s.chain := by
  unfold hubRaiseBy; split <;> rfl
@[simp] theorem hubRaiseBy_host : (hubRaiseBy blk src s).host = s.host := by
  unfold hubRaiseBy; split <;> rfl
@[simp] theorem hubRaiseBy_mbxs : (hubRaiseBy blk src s).mbxs = s.mbxs := by
  unfold hubRaiseBy; split <;> rfl
@[simp] theorem hubRaiseBy_nutas : (hubRaiseBy blk src s).nutas = s.nutas := by
  unfold hubRaiseBy; split <;> rfl
@[simp] theorem hubRaiseBy_ledger : (hubRaiseBy blk src s).ledger = s.ledger := by
  unfold hubRaiseBy; split <;> rfl
@[simp] theorem hubRaiseBy_commit : (hubRaiseBy blk src s).commit = s.commit := by
  unfold hubRaiseBy; split <;> rfl
@[simp] theorem hubRaiseBy_faults : (hubRaiseBy blk src s).faults = s.faults := by
  unfold hubRaiseBy; split <;> rfl
@[simp] theorem hubRaiseBy_asy : (hubRaiseBy blk src s).asy = s.asy := by
  unfold hubRaiseBy; split <;> rfl
@[simp] theorem hubRaiseBy_standby : (hubRaiseBy blk src s).standby = s.standby := by
  unfold hubRaiseBy; split <;> rfl
@[simp] theorem hubRaiseBy_power : (hubRaiseBy blk src s).power = s.power := by
  unfold hubRaiseBy; split <;> rfl
@[simp] theorem hubRaiseBy_sec : (hubRaiseBy blk src s).sec = s.sec := by
  unfold hubRaiseBy; split <;> rfl
@[simp] theorem hubRaiseBy_mgmt : (hubRaiseBy blk src s).mgmt = s.mgmt := by
  unfold hubRaiseBy; split <;> rfl
@[simp] theorem hubRaiseBy_out : (hubRaiseBy blk src s).out = s.out := by
  unfold hubRaiseBy; split <;> rfl
@[simp] theorem hubRaiseBy_free : (hubRaiseBy blk src s).free = s.free := by
  unfold hubRaiseBy; split <;> rfl
end hubRaiseBy

section hubRaise
variable (src : Nat)
@[simp] theorem hubRaise_pending : (hubRaise src s).pending = s.pending := hubRaiseBy_pending _ _ _
@[simp] theorem hubRaise_clock : (hubRaise src s).clock = s.clock := hubRaiseBy_clock _ _ _
@[simp] theorem hubRaise_beads : (hubRaise src s).beads = s.beads := hubRaiseBy_beads _ _ _
@[simp] theorem hubRaise_mmu : (hubRaise src s).mmu = s.mmu := hubRaiseBy_mmu _ _ _
@[simp] theorem hubRaise_fabric : (hubRaise src s).fabric = s.fabric := hubRaiseBy_fabric _ _ _
@[simp] theorem hubRaise_clasps : (hubRaise src s).clasps = s.clasps := hubRaiseBy_clasps _ _ _
@[simp] theorem hubRaise_mem : (hubRaise src s).mem = s.mem := hubRaiseBy_mem _ _ _
@[simp] theorem hubRaise_bezels : (hubRaise src s).bezels = s.bezels := hubRaiseBy_bezels _ _ _
@[simp] theorem hubRaise_chain : (hubRaise src s).chain = s.chain := hubRaiseBy_chain _ _ _
@[simp] theorem hubRaise_host : (hubRaise src s).host = s.host := hubRaiseBy_host _ _ _
@[simp] theorem hubRaise_mbxs : (hubRaise src s).mbxs = s.mbxs := hubRaiseBy_mbxs _ _ _
@[simp] theorem hubRaise_nutas : (hubRaise src s).nutas = s.nutas := hubRaiseBy_nutas _ _ _
@[simp] theorem hubRaise_ledger : (hubRaise src s).ledger = s.ledger := hubRaiseBy_ledger _ _ _
@[simp] theorem hubRaise_commit : (hubRaise src s).commit = s.commit := hubRaiseBy_commit _ _ _
@[simp] theorem hubRaise_faults : (hubRaise src s).faults = s.faults := hubRaiseBy_faults _ _ _
@[simp] theorem hubRaise_asy : (hubRaise src s).asy = s.asy := hubRaiseBy_asy _ _ _
@[simp] theorem hubRaise_standby : (hubRaise src s).standby = s.standby := hubRaiseBy_standby _ _ _
@[simp] theorem hubRaise_power : (hubRaise src s).power = s.power := hubRaiseBy_power _ _ _
@[simp] theorem hubRaise_sec : (hubRaise src s).sec = s.sec := hubRaiseBy_sec _ _ _
@[simp] theorem hubRaise_mgmt : (hubRaise src s).mgmt = s.mgmt := hubRaiseBy_mgmt _ _ _
@[simp] theorem hubRaise_out : (hubRaise src s).out = s.out := hubRaiseBy_out _ _ _
@[simp] theorem hubRaise_free : (hubRaise src s).free = s.free := hubRaiseBy_free _ _ _
end hubRaise

section hubClear
variable (src : Nat)
@[simp] theorem hubClear_pending : (hubClear src s).pending = s.pending := rfl
@[simp] theorem hubClear_clock : (hubClear src s).clock = s.clock := rfl
@[simp] theorem hubClear_beads : (hubClear src s).beads = s.beads := rfl
@[simp] theorem hubClear_mmu : (hubClear src s).mmu = s.mmu := rfl
@[simp] theorem hubClear_fabric : (hubClear src s).fabric = s.fabric := rfl
@[simp] theorem hubClear_clasps : (hubClear src s).clasps = s.clasps := rfl
@[simp] theorem hubClear_mem : (hubClear src s).mem = s.mem := rfl
@[simp] theorem hubClear_bezels : (hubClear src s).bezels = s.bezels := rfl
@[simp] theorem hubClear_chain : (hubClear src s).chain = s.chain := rfl
@[simp] theorem hubClear_host : (hubClear src s).host = s.host := rfl
@[simp] theorem hubClear_mbxs : (hubClear src s).mbxs = s.mbxs := rfl
@[simp] theorem hubClear_nutas : (hubClear src s).nutas = s.nutas := rfl
@[simp] theorem hubClear_ledger : (hubClear src s).ledger = s.ledger := rfl
@[simp] theorem hubClear_commit : (hubClear src s).commit = s.commit := rfl
@[simp] theorem hubClear_faults : (hubClear src s).faults = s.faults := rfl
@[simp] theorem hubClear_asy : (hubClear src s).asy = s.asy := rfl
@[simp] theorem hubClear_standby : (hubClear src s).standby = s.standby := rfl
@[simp] theorem hubClear_power : (hubClear src s).power = s.power := rfl
@[simp] theorem hubClear_sec : (hubClear src s).sec = s.sec := rfl
@[simp] theorem hubClear_mgmt : (hubClear src s).mgmt = s.mgmt := rfl
@[simp] theorem hubClear_out : (hubClear src s).out = s.out := rfl
@[simp] theorem hubClear_free : (hubClear src s).free = s.free := rfl
end hubClear

section countLook
variable (blk : Nat) (c : Code)
@[simp] theorem countLook_pending : (countLook blk c s).pending = s.pending := countEv_pending _ _ _ _
@[simp] theorem countLook_clock : (countLook blk c s).clock = s.clock := countEv_clock _ _ _ _
@[simp] theorem countLook_beads : (countLook blk c s).beads = s.beads := countEv_beads _ _ _ _
@[simp] theorem countLook_mmu : (countLook blk c s).mmu = s.mmu := countEv_mmu _ _ _ _
@[simp] theorem countLook_fabric : (countLook blk c s).fabric = s.fabric := countEv_fabric _ _ _ _
@[simp] theorem countLook_clasps : (countLook blk c s).clasps = s.clasps := countEv_clasps _ _ _ _
@[simp] theorem countLook_mem : (countLook blk c s).mem = s.mem := countEv_mem _ _ _ _
@[simp] theorem countLook_bezels : (countLook blk c s).bezels = s.bezels := countEv_bezels _ _ _ _
@[simp] theorem countLook_chain : (countLook blk c s).chain = s.chain := countEv_chain _ _ _ _
@[simp] theorem countLook_host : (countLook blk c s).host = s.host := countEv_host _ _ _ _
@[simp] theorem countLook_mbxs : (countLook blk c s).mbxs = s.mbxs := countEv_mbxs _ _ _ _
@[simp] theorem countLook_nutas : (countLook blk c s).nutas = s.nutas := countEv_nutas _ _ _ _
@[simp] theorem countLook_ledger : (countLook blk c s).ledger = s.ledger := countEv_ledger _ _ _ _
@[simp] theorem countLook_commit : (countLook blk c s).commit = s.commit := countEv_commit _ _ _ _
@[simp] theorem countLook_faults : (countLook blk c s).faults = s.faults := countEv_faults _ _ _ _
@[simp] theorem countLook_hub : (countLook blk c s).hub = s.hub := countEv_hub _ _ _ _
@[simp] theorem countLook_standby : (countLook blk c s).standby = s.standby := countEv_standby _ _ _ _
@[simp] theorem countLook_power : (countLook blk c s).power = s.power := countEv_power _ _ _ _
@[simp] theorem countLook_sec : (countLook blk c s).sec = s.sec := countEv_sec _ _ _ _
@[simp] theorem countLook_mgmt : (countLook blk c s).mgmt = s.mgmt := countEv_mgmt _ _ _ _
@[simp] theorem countLook_out : (countLook blk c s).out = s.out := countEv_out _ _ _ _
@[simp] theorem countLook_free : (countLook blk c s).free = s.free := countEv_free _ _ _ _
end countLook

section recordFault
variable (r : FaultRec)
@[simp] theorem recordFault_pending : (recordFault r s).pending = s.pending := by
  unfold recordFault; split <;> rfl
@[simp] theorem recordFault_clock : (recordFault r s).clock = s.clock := by
  unfold recordFault; split <;> rfl
@[simp] theorem recordFault_beads : (recordFault r s).beads = s.beads := by
  unfold recordFault; split <;> rfl
@[simp] theorem recordFault_mmu : (recordFault r s).mmu = s.mmu := by
  unfold recordFault; split <;> rfl
@[simp] theorem recordFault_fabric : (recordFault r s).fabric = s.fabric := by
  unfold recordFault; split <;> rfl
@[simp] theorem recordFault_clasps : (recordFault r s).clasps = s.clasps := by
  unfold recordFault; split <;> rfl
@[simp] theorem recordFault_mem : (recordFault r s).mem = s.mem := by
  unfold recordFault; split <;> rfl
@[simp] theorem recordFault_bezels : (recordFault r s).bezels = s.bezels := by
  unfold recordFault; split <;> rfl
@[simp] theorem recordFault_chain : (recordFault r s).chain = s.chain := by
  unfold recordFault; split <;> rfl
@[simp] theorem recordFault_host : (recordFault r s).host = s.host := by
  unfold recordFault; split <;> rfl
@[simp] theorem recordFault_mbxs : (recordFault r s).mbxs = s.mbxs := by
  unfold recordFault; split <;> rfl
@[simp] theorem recordFault_nutas : (recordFault r s).nutas = s.nutas := by
  unfold recordFault; split <;> rfl
@[simp] theorem recordFault_commit : (recordFault r s).commit = s.commit := by
  unfold recordFault; split <;> rfl
@[simp] theorem recordFault_hub : (recordFault r s).hub = s.hub := by
  unfold recordFault; split <;> rfl
@[simp] theorem recordFault_asy : (recordFault r s).asy = s.asy := by
  unfold recordFault; split <;> rfl
@[simp] theorem recordFault_standby : (recordFault r s).standby = s.standby := by
  unfold recordFault; split <;> rfl
@[simp] theorem recordFault_power : (recordFault r s).power = s.power := by
  unfold recordFault; split <;> rfl
@[simp] theorem recordFault_sec : (recordFault r s).sec = s.sec := by
  unfold recordFault; split <;> rfl
@[simp] theorem recordFault_mgmt : (recordFault r s).mgmt = s.mgmt := by
  unfold recordFault; split <;> rfl
@[simp] theorem recordFault_out : (recordFault r s).out = s.out := by
  unfold recordFault; split <;> rfl
@[simp] theorem recordFault_free : (recordFault r s).free = s.free := by
  unfold recordFault; split <;> rfl
end recordFault

section recordAt
variable (cls : Nat) (source : Nat) (detail : Nat)
@[simp] theorem recordAt_pending : (recordAt cls source detail s).pending = s.pending := recordFault_pending _ _
@[simp] theorem recordAt_clock : (recordAt cls source detail s).clock = s.clock := recordFault_clock _ _
@[simp] theorem recordAt_beads : (recordAt cls source detail s).beads = s.beads := recordFault_beads _ _
@[simp] theorem recordAt_mmu : (recordAt cls source detail s).mmu = s.mmu := recordFault_mmu _ _
@[simp] theorem recordAt_fabric : (recordAt cls source detail s).fabric = s.fabric := recordFault_fabric _ _
@[simp] theorem recordAt_clasps : (recordAt cls source detail s).clasps = s.clasps := recordFault_clasps _ _
@[simp] theorem recordAt_mem : (recordAt cls source detail s).mem = s.mem := recordFault_mem _ _
@[simp] theorem recordAt_bezels : (recordAt cls source detail s).bezels = s.bezels := recordFault_bezels _ _
@[simp] theorem recordAt_chain : (recordAt cls source detail s).chain = s.chain := recordFault_chain _ _
@[simp] theorem recordAt_host : (recordAt cls source detail s).host = s.host := recordFault_host _ _
@[simp] theorem recordAt_mbxs : (recordAt cls source detail s).mbxs = s.mbxs := recordFault_mbxs _ _
@[simp] theorem recordAt_nutas : (recordAt cls source detail s).nutas = s.nutas := recordFault_nutas _ _
@[simp] theorem recordAt_commit : (recordAt cls source detail s).commit = s.commit := recordFault_commit _ _
@[simp] theorem recordAt_hub : (recordAt cls source detail s).hub = s.hub := recordFault_hub _ _
@[simp] theorem recordAt_asy : (recordAt cls source detail s).asy = s.asy := recordFault_asy _ _
@[simp] theorem recordAt_standby : (recordAt cls source detail s).standby = s.standby := recordFault_standby _ _
@[simp] theorem recordAt_power : (recordAt cls source detail s).power = s.power := recordFault_power _ _
@[simp] theorem recordAt_sec : (recordAt cls source detail s).sec = s.sec := recordFault_sec _ _
@[simp] theorem recordAt_mgmt : (recordAt cls source detail s).mgmt = s.mgmt := recordFault_mgmt _ _
@[simp] theorem recordAt_out : (recordAt cls source detail s).out = s.out := recordFault_out _ _
@[simp] theorem recordAt_free : (recordAt cls source detail s).free = s.free := recordFault_free _ _
end recordAt

section recordAddr
variable (cls : Nat) (source : Nat) (addr : Nat) (detail : Nat)
@[simp] theorem recordAddr_pending : (recordAddr cls source addr detail s).pending = s.pending := recordFault_pending _ _
@[simp] theorem recordAddr_clock : (recordAddr cls source addr detail s).clock = s.clock := recordFault_clock _ _
@[simp] theorem recordAddr_beads : (recordAddr cls source addr detail s).beads = s.beads := recordFault_beads _ _
@[simp] theorem recordAddr_mmu : (recordAddr cls source addr detail s).mmu = s.mmu := recordFault_mmu _ _
@[simp] theorem recordAddr_fabric : (recordAddr cls source addr detail s).fabric = s.fabric := recordFault_fabric _ _
@[simp] theorem recordAddr_clasps : (recordAddr cls source addr detail s).clasps = s.clasps := recordFault_clasps _ _
@[simp] theorem recordAddr_mem : (recordAddr cls source addr detail s).mem = s.mem := recordFault_mem _ _
@[simp] theorem recordAddr_bezels : (recordAddr cls source addr detail s).bezels = s.bezels := recordFault_bezels _ _
@[simp] theorem recordAddr_chain : (recordAddr cls source addr detail s).chain = s.chain := recordFault_chain _ _
@[simp] theorem recordAddr_host : (recordAddr cls source addr detail s).host = s.host := recordFault_host _ _
@[simp] theorem recordAddr_mbxs : (recordAddr cls source addr detail s).mbxs = s.mbxs := recordFault_mbxs _ _
@[simp] theorem recordAddr_nutas : (recordAddr cls source addr detail s).nutas = s.nutas := recordFault_nutas _ _
@[simp] theorem recordAddr_commit : (recordAddr cls source addr detail s).commit = s.commit := recordFault_commit _ _
@[simp] theorem recordAddr_hub : (recordAddr cls source addr detail s).hub = s.hub := recordFault_hub _ _
@[simp] theorem recordAddr_asy : (recordAddr cls source addr detail s).asy = s.asy := recordFault_asy _ _
@[simp] theorem recordAddr_standby : (recordAddr cls source addr detail s).standby = s.standby := recordFault_standby _ _
@[simp] theorem recordAddr_power : (recordAddr cls source addr detail s).power = s.power := recordFault_power _ _
@[simp] theorem recordAddr_sec : (recordAddr cls source addr detail s).sec = s.sec := recordFault_sec _ _
@[simp] theorem recordAddr_mgmt : (recordAddr cls source addr detail s).mgmt = s.mgmt := recordFault_mgmt _ _
@[simp] theorem recordAddr_out : (recordAddr cls source addr detail s).out = s.out := recordFault_out _ _
@[simp] theorem recordAddr_free : (recordAddr cls source addr detail s).free = s.free := recordFault_free _ _
end recordAddr

section endService
variable (cls : Nat)
@[simp] theorem endService_pending : (endService cls s).pending = s.pending := by
  unfold endService; split <;> rfl
@[simp] theorem endService_beads : (endService cls s).beads = s.beads := by
  unfold endService; split <;> rfl
@[simp] theorem endService_mmu : (endService cls s).mmu = s.mmu := by
  unfold endService; split <;> rfl
@[simp] theorem endService_fabric : (endService cls s).fabric = s.fabric := by
  unfold endService; split <;> rfl
@[simp] theorem endService_clasps : (endService cls s).clasps = s.clasps := by
  unfold endService; split <;> rfl
@[simp] theorem endService_mem : (endService cls s).mem = s.mem := by
  unfold endService; split <;> rfl
@[simp] theorem endService_bezels : (endService cls s).bezels = s.bezels := by
  unfold endService; split <;> rfl
@[simp] theorem endService_chain : (endService cls s).chain = s.chain := by
  unfold endService; split <;> rfl
@[simp] theorem endService_host : (endService cls s).host = s.host := by
  unfold endService; split <;> rfl
@[simp] theorem endService_mbxs : (endService cls s).mbxs = s.mbxs := by
  unfold endService; split <;> rfl
@[simp] theorem endService_nutas : (endService cls s).nutas = s.nutas := by
  unfold endService; split <;> rfl
@[simp] theorem endService_ledger : (endService cls s).ledger = s.ledger := by
  unfold endService; split <;> rfl
@[simp] theorem endService_commit : (endService cls s).commit = s.commit := by
  unfold endService; split <;> rfl
@[simp] theorem endService_faults : (endService cls s).faults = s.faults := by
  unfold endService; split <;> rfl
@[simp] theorem endService_hub : (endService cls s).hub = s.hub := by
  unfold endService; split <;> rfl
@[simp] theorem endService_asy : (endService cls s).asy = s.asy := by
  unfold endService; split <;> rfl
@[simp] theorem endService_standby : (endService cls s).standby = s.standby := by
  unfold endService; split <;> rfl
@[simp] theorem endService_power : (endService cls s).power = s.power := by
  unfold endService; split <;> rfl
@[simp] theorem endService_sec : (endService cls s).sec = s.sec := by
  unfold endService; split <;> rfl
@[simp] theorem endService_mgmt : (endService cls s).mgmt = s.mgmt := by
  unfold endService; split <;> rfl
@[simp] theorem endService_out : (endService cls s).out = s.out := by
  unfold endService; split <;> rfl
@[simp] theorem endService_free : (endService cls s).free = s.free := by
  unfold endService; split <;> rfl
end endService

section setBead
variable (o : Nat) (b : Bead)
@[simp] theorem setBead_pending : (setBead o b s).pending = s.pending := rfl
@[simp] theorem setBead_clock : (setBead o b s).clock = s.clock := rfl
@[simp] theorem setBead_mmu : (setBead o b s).mmu = s.mmu := rfl
@[simp] theorem setBead_fabric : (setBead o b s).fabric = s.fabric := rfl
@[simp] theorem setBead_clasps : (setBead o b s).clasps = s.clasps := rfl
@[simp] theorem setBead_mem : (setBead o b s).mem = s.mem := rfl
@[simp] theorem setBead_bezels : (setBead o b s).bezels = s.bezels := rfl
@[simp] theorem setBead_chain : (setBead o b s).chain = s.chain := rfl
@[simp] theorem setBead_host : (setBead o b s).host = s.host := rfl
@[simp] theorem setBead_mbxs : (setBead o b s).mbxs = s.mbxs := rfl
@[simp] theorem setBead_nutas : (setBead o b s).nutas = s.nutas := rfl
@[simp] theorem setBead_ledger : (setBead o b s).ledger = s.ledger := rfl
@[simp] theorem setBead_commit : (setBead o b s).commit = s.commit := rfl
@[simp] theorem setBead_faults : (setBead o b s).faults = s.faults := rfl
@[simp] theorem setBead_hub : (setBead o b s).hub = s.hub := rfl
@[simp] theorem setBead_asy : (setBead o b s).asy = s.asy := rfl
@[simp] theorem setBead_standby : (setBead o b s).standby = s.standby := rfl
@[simp] theorem setBead_power : (setBead o b s).power = s.power := rfl
@[simp] theorem setBead_sec : (setBead o b s).sec = s.sec := rfl
@[simp] theorem setBead_mgmt : (setBead o b s).mgmt = s.mgmt := rfl
@[simp] theorem setBead_out : (setBead o b s).out = s.out := rfl
@[simp] theorem setBead_free : (setBead o b s).free = s.free := rfl
end setBead

section modBead
variable (o : Nat) (f : Bead → Bead)
@[simp] theorem modBead_pending : (modBead o f s).pending = s.pending := rfl
@[simp] theorem modBead_clock : (modBead o f s).clock = s.clock := rfl
@[simp] theorem modBead_mmu : (modBead o f s).mmu = s.mmu := rfl
@[simp] theorem modBead_fabric : (modBead o f s).fabric = s.fabric := rfl
@[simp] theorem modBead_clasps : (modBead o f s).clasps = s.clasps := rfl
@[simp] theorem modBead_mem : (modBead o f s).mem = s.mem := rfl
@[simp] theorem modBead_bezels : (modBead o f s).bezels = s.bezels := rfl
@[simp] theorem modBead_chain : (modBead o f s).chain = s.chain := rfl
@[simp] theorem modBead_host : (modBead o f s).host = s.host := rfl
@[simp] theorem modBead_mbxs : (modBead o f s).mbxs = s.mbxs := rfl
@[simp] theorem modBead_nutas : (modBead o f s).nutas = s.nutas := rfl
@[simp] theorem modBead_ledger : (modBead o f s).ledger = s.ledger := rfl
@[simp] theorem modBead_commit : (modBead o f s).commit = s.commit := rfl
@[simp] theorem modBead_faults : (modBead o f s).faults = s.faults := rfl
@[simp] theorem modBead_hub : (modBead o f s).hub = s.hub := rfl
@[simp] theorem modBead_asy : (modBead o f s).asy = s.asy := rfl
@[simp] theorem modBead_standby : (modBead o f s).standby = s.standby := rfl
@[simp] theorem modBead_power : (modBead o f s).power = s.power := rfl
@[simp] theorem modBead_sec : (modBead o f s).sec = s.sec := rfl
@[simp] theorem modBead_mgmt : (modBead o f s).mgmt = s.mgmt := rfl
@[simp] theorem modBead_out : (modBead o f s).out = s.out := rfl
@[simp] theorem modBead_free : (modBead o f s).free = s.free := rfl
end modBead

section setPos
variable (p : Nat) (c : Nat)
@[simp] theorem setPos_pending : (setPos p c s).pending = s.pending := rfl
@[simp] theorem setPos_clock : (setPos p c s).clock = s.clock := rfl
@[simp] theorem setPos_beads : (setPos p c s).beads = s.beads := rfl
@[simp] theorem setPos_mmu : (setPos p c s).mmu = s.mmu := rfl
@[simp] theorem setPos_fabric : (setPos p c s).fabric = s.fabric := rfl
@[simp] theorem setPos_clasps : (setPos p c s).clasps = s.clasps := rfl
@[simp] theorem setPos_mem : (setPos p c s).mem = s.mem := rfl
@[simp] theorem setPos_bezels : (setPos p c s).bezels = s.bezels := rfl
@[simp] theorem setPos_chain : (setPos p c s).chain = s.chain := rfl
@[simp] theorem setPos_host : (setPos p c s).host = s.host := rfl
@[simp] theorem setPos_mbxs : (setPos p c s).mbxs = s.mbxs := rfl
@[simp] theorem setPos_ledger : (setPos p c s).ledger = s.ledger := rfl
@[simp] theorem setPos_commit : (setPos p c s).commit = s.commit := rfl
@[simp] theorem setPos_faults : (setPos p c s).faults = s.faults := rfl
@[simp] theorem setPos_hub : (setPos p c s).hub = s.hub := rfl
@[simp] theorem setPos_asy : (setPos p c s).asy = s.asy := rfl
@[simp] theorem setPos_standby : (setPos p c s).standby = s.standby := rfl
@[simp] theorem setPos_power : (setPos p c s).power = s.power := rfl
@[simp] theorem setPos_sec : (setPos p c s).sec = s.sec := rfl
@[simp] theorem setPos_mgmt : (setPos p c s).mgmt = s.mgmt := rfl
@[simp] theorem setPos_out : (setPos p c s).out = s.out := rfl
@[simp] theorem setPos_free : (setPos p c s).free = s.free := rfl
end setPos

section retire
variable (o : Ord) (h : HartN) (f : Hart → Hart)
@[simp] theorem retire_pending : (retire o h f s).pending = s.pending := rfl
@[simp] theorem retire_clock : (retire o h f s).clock = s.clock := rfl
@[simp] theorem retire_mmu : (retire o h f s).mmu = s.mmu := rfl
@[simp] theorem retire_fabric : (retire o h f s).fabric = s.fabric := rfl
@[simp] theorem retire_clasps : (retire o h f s).clasps = s.clasps := rfl
@[simp] theorem retire_mem : (retire o h f s).mem = s.mem := rfl
@[simp] theorem retire_bezels : (retire o h f s).bezels = s.bezels := rfl
@[simp] theorem retire_chain : (retire o h f s).chain = s.chain := rfl
@[simp] theorem retire_host : (retire o h f s).host = s.host := rfl
@[simp] theorem retire_mbxs : (retire o h f s).mbxs = s.mbxs := rfl
@[simp] theorem retire_nutas : (retire o h f s).nutas = s.nutas := rfl
@[simp] theorem retire_ledger : (retire o h f s).ledger = s.ledger := rfl
@[simp] theorem retire_commit : (retire o h f s).commit = s.commit := rfl
@[simp] theorem retire_faults : (retire o h f s).faults = s.faults := rfl
@[simp] theorem retire_hub : (retire o h f s).hub = s.hub := rfl
@[simp] theorem retire_standby : (retire o h f s).standby = s.standby := rfl
@[simp] theorem retire_power : (retire o h f s).power = s.power := rfl
@[simp] theorem retire_sec : (retire o h f s).sec = s.sec := rfl
@[simp] theorem retire_mgmt : (retire o h f s).mgmt = s.mgmt := rfl
@[simp] theorem retire_out : (retire o h f s).out = s.out := rfl
@[simp] theorem retire_free : (retire o h f s).free = s.free := rfl
end retire

section trapAt
variable (o : Ord) (h : HartN) (cause : Nat) (tval : Word)
@[simp] theorem trapAt_pending : (trapAt o h cause tval s).pending = s.pending := rfl
@[simp] theorem trapAt_clock : (trapAt o h cause tval s).clock = s.clock := rfl
@[simp] theorem trapAt_mmu : (trapAt o h cause tval s).mmu = s.mmu := rfl
@[simp] theorem trapAt_fabric : (trapAt o h cause tval s).fabric = s.fabric := rfl
@[simp] theorem trapAt_clasps : (trapAt o h cause tval s).clasps = s.clasps := rfl
@[simp] theorem trapAt_mem : (trapAt o h cause tval s).mem = s.mem := rfl
@[simp] theorem trapAt_bezels : (trapAt o h cause tval s).bezels = s.bezels := rfl
@[simp] theorem trapAt_chain : (trapAt o h cause tval s).chain = s.chain := rfl
@[simp] theorem trapAt_host : (trapAt o h cause tval s).host = s.host := rfl
@[simp] theorem trapAt_mbxs : (trapAt o h cause tval s).mbxs = s.mbxs := rfl
@[simp] theorem trapAt_nutas : (trapAt o h cause tval s).nutas = s.nutas := rfl
@[simp] theorem trapAt_ledger : (trapAt o h cause tval s).ledger = s.ledger := rfl
@[simp] theorem trapAt_commit : (trapAt o h cause tval s).commit = s.commit := rfl
@[simp] theorem trapAt_faults : (trapAt o h cause tval s).faults = s.faults := rfl
@[simp] theorem trapAt_hub : (trapAt o h cause tval s).hub = s.hub := rfl
@[simp] theorem trapAt_asy : (trapAt o h cause tval s).asy = s.asy := rfl
@[simp] theorem trapAt_standby : (trapAt o h cause tval s).standby = s.standby := rfl
@[simp] theorem trapAt_power : (trapAt o h cause tval s).power = s.power := rfl
@[simp] theorem trapAt_sec : (trapAt o h cause tval s).sec = s.sec := rfl
@[simp] theorem trapAt_mgmt : (trapAt o h cause tval s).mgmt = s.mgmt := rfl
@[simp] theorem trapAt_out : (trapAt o h cause tval s).out = s.out := rfl
@[simp] theorem trapAt_free : (trapAt o h cause tval s).free = s.free := rfl
end trapAt

section holdAt
variable (o : Ord) (h : HartN) (why : HoldBy)
@[simp] theorem holdAt_pending : (holdAt o h why s).pending = s.pending := rfl
@[simp] theorem holdAt_clock : (holdAt o h why s).clock = s.clock := rfl
@[simp] theorem holdAt_mmu : (holdAt o h why s).mmu = s.mmu := rfl
@[simp] theorem holdAt_fabric : (holdAt o h why s).fabric = s.fabric := rfl
@[simp] theorem holdAt_clasps : (holdAt o h why s).clasps = s.clasps := rfl
@[simp] theorem holdAt_mem : (holdAt o h why s).mem = s.mem := rfl
@[simp] theorem holdAt_bezels : (holdAt o h why s).bezels = s.bezels := rfl
@[simp] theorem holdAt_chain : (holdAt o h why s).chain = s.chain := rfl
@[simp] theorem holdAt_host : (holdAt o h why s).host = s.host := rfl
@[simp] theorem holdAt_mbxs : (holdAt o h why s).mbxs = s.mbxs := rfl
@[simp] theorem holdAt_nutas : (holdAt o h why s).nutas = s.nutas := rfl
@[simp] theorem holdAt_ledger : (holdAt o h why s).ledger = s.ledger := rfl
@[simp] theorem holdAt_commit : (holdAt o h why s).commit = s.commit := rfl
@[simp] theorem holdAt_faults : (holdAt o h why s).faults = s.faults := rfl
@[simp] theorem holdAt_hub : (holdAt o h why s).hub = s.hub := rfl
@[simp] theorem holdAt_asy : (holdAt o h why s).asy = s.asy := rfl
@[simp] theorem holdAt_standby : (holdAt o h why s).standby = s.standby := rfl
@[simp] theorem holdAt_power : (holdAt o h why s).power = s.power := rfl
@[simp] theorem holdAt_sec : (holdAt o h why s).sec = s.sec := rfl
@[simp] theorem holdAt_mgmt : (holdAt o h why s).mgmt = s.mgmt := rfl
@[simp] theorem holdAt_out : (holdAt o h why s).out = s.out := rfl
@[simp] theorem holdAt_free : (holdAt o h why s).free = s.free := rfl
end holdAt

section storeGran
variable (g : Nat) (c : Code)
@[simp] theorem storeGran_pending : (storeGran g c s).pending = s.pending := rfl
@[simp] theorem storeGran_clock : (storeGran g c s).clock = s.clock := rfl
@[simp] theorem storeGran_beads : (storeGran g c s).beads = s.beads := rfl
@[simp] theorem storeGran_mmu : (storeGran g c s).mmu = s.mmu := rfl
@[simp] theorem storeGran_fabric : (storeGran g c s).fabric = s.fabric := rfl
@[simp] theorem storeGran_clasps : (storeGran g c s).clasps = s.clasps := rfl
@[simp] theorem storeGran_bezels : (storeGran g c s).bezels = s.bezels := rfl
@[simp] theorem storeGran_chain : (storeGran g c s).chain = s.chain := rfl
@[simp] theorem storeGran_host : (storeGran g c s).host = s.host := rfl
@[simp] theorem storeGran_mbxs : (storeGran g c s).mbxs = s.mbxs := rfl
@[simp] theorem storeGran_nutas : (storeGran g c s).nutas = s.nutas := rfl
@[simp] theorem storeGran_ledger : (storeGran g c s).ledger = s.ledger := rfl
@[simp] theorem storeGran_commit : (storeGran g c s).commit = s.commit := rfl
@[simp] theorem storeGran_faults : (storeGran g c s).faults = s.faults := rfl
@[simp] theorem storeGran_hub : (storeGran g c s).hub = s.hub := rfl
@[simp] theorem storeGran_asy : (storeGran g c s).asy = s.asy := rfl
@[simp] theorem storeGran_standby : (storeGran g c s).standby = s.standby := rfl
@[simp] theorem storeGran_power : (storeGran g c s).power = s.power := rfl
@[simp] theorem storeGran_sec : (storeGran g c s).sec = s.sec := rfl
@[simp] theorem storeGran_mgmt : (storeGran g c s).mgmt = s.mgmt := rfl
@[simp] theorem storeGran_out : (storeGran g c s).out = s.out := rfl
@[simp] theorem storeGran_free : (storeGran g c s).free = s.free := rfl
end storeGran

section dmemPut
variable (o : Nat) (g : Nat) (c : Code)
@[simp] theorem dmemPut_pending : (dmemPut o g c s).pending = s.pending := rfl
@[simp] theorem dmemPut_clock : (dmemPut o g c s).clock = s.clock := rfl
@[simp] theorem dmemPut_beads : (dmemPut o g c s).beads = s.beads := rfl
@[simp] theorem dmemPut_mmu : (dmemPut o g c s).mmu = s.mmu := rfl
@[simp] theorem dmemPut_fabric : (dmemPut o g c s).fabric = s.fabric := rfl
@[simp] theorem dmemPut_clasps : (dmemPut o g c s).clasps = s.clasps := rfl
@[simp] theorem dmemPut_bezels : (dmemPut o g c s).bezels = s.bezels := rfl
@[simp] theorem dmemPut_chain : (dmemPut o g c s).chain = s.chain := rfl
@[simp] theorem dmemPut_host : (dmemPut o g c s).host = s.host := rfl
@[simp] theorem dmemPut_mbxs : (dmemPut o g c s).mbxs = s.mbxs := rfl
@[simp] theorem dmemPut_nutas : (dmemPut o g c s).nutas = s.nutas := rfl
@[simp] theorem dmemPut_ledger : (dmemPut o g c s).ledger = s.ledger := rfl
@[simp] theorem dmemPut_commit : (dmemPut o g c s).commit = s.commit := rfl
@[simp] theorem dmemPut_faults : (dmemPut o g c s).faults = s.faults := rfl
@[simp] theorem dmemPut_hub : (dmemPut o g c s).hub = s.hub := rfl
@[simp] theorem dmemPut_asy : (dmemPut o g c s).asy = s.asy := rfl
@[simp] theorem dmemPut_standby : (dmemPut o g c s).standby = s.standby := rfl
@[simp] theorem dmemPut_power : (dmemPut o g c s).power = s.power := rfl
@[simp] theorem dmemPut_sec : (dmemPut o g c s).sec = s.sec := rfl
@[simp] theorem dmemPut_mgmt : (dmemPut o g c s).mgmt = s.mgmt := rfl
@[simp] theorem dmemPut_out : (dmemPut o g c s).out = s.out := rfl
@[simp] theorem dmemPut_free : (dmemPut o g c s).free = s.free := rfl
end dmemPut

section sendMsg
variable (m : Msg)
@[simp] theorem sendMsg_pending : (sendMsg m s).pending = s.pending := rfl
@[simp] theorem sendMsg_clock : (sendMsg m s).clock = s.clock := rfl
@[simp] theorem sendMsg_beads : (sendMsg m s).beads = s.beads := rfl
@[simp] theorem sendMsg_mmu : (sendMsg m s).mmu = s.mmu := rfl
@[simp] theorem sendMsg_clasps : (sendMsg m s).clasps = s.clasps := rfl
@[simp] theorem sendMsg_mem : (sendMsg m s).mem = s.mem := rfl
@[simp] theorem sendMsg_bezels : (sendMsg m s).bezels = s.bezels := rfl
@[simp] theorem sendMsg_chain : (sendMsg m s).chain = s.chain := rfl
@[simp] theorem sendMsg_host : (sendMsg m s).host = s.host := rfl
@[simp] theorem sendMsg_mbxs : (sendMsg m s).mbxs = s.mbxs := rfl
@[simp] theorem sendMsg_nutas : (sendMsg m s).nutas = s.nutas := rfl
@[simp] theorem sendMsg_ledger : (sendMsg m s).ledger = s.ledger := rfl
@[simp] theorem sendMsg_commit : (sendMsg m s).commit = s.commit := rfl
@[simp] theorem sendMsg_faults : (sendMsg m s).faults = s.faults := rfl
@[simp] theorem sendMsg_hub : (sendMsg m s).hub = s.hub := rfl
@[simp] theorem sendMsg_asy : (sendMsg m s).asy = s.asy := rfl
@[simp] theorem sendMsg_standby : (sendMsg m s).standby = s.standby := rfl
@[simp] theorem sendMsg_power : (sendMsg m s).power = s.power := rfl
@[simp] theorem sendMsg_sec : (sendMsg m s).sec = s.sec := rfl
@[simp] theorem sendMsg_mgmt : (sendMsg m s).mgmt = s.mgmt := rfl
@[simp] theorem sendMsg_out : (sendMsg m s).out = s.out := rfl
@[simp] theorem sendMsg_free : (sendMsg m s).free = s.free := rfl
end sendMsg

section setArrivals
variable (n : Nat) (l : List Msg)
@[simp] theorem setArrivals_pending : (setArrivals n l s).pending = s.pending := rfl
@[simp] theorem setArrivals_clock : (setArrivals n l s).clock = s.clock := rfl
@[simp] theorem setArrivals_beads : (setArrivals n l s).beads = s.beads := rfl
@[simp] theorem setArrivals_mmu : (setArrivals n l s).mmu = s.mmu := rfl
@[simp] theorem setArrivals_clasps : (setArrivals n l s).clasps = s.clasps := rfl
@[simp] theorem setArrivals_mem : (setArrivals n l s).mem = s.mem := rfl
@[simp] theorem setArrivals_bezels : (setArrivals n l s).bezels = s.bezels := rfl
@[simp] theorem setArrivals_chain : (setArrivals n l s).chain = s.chain := rfl
@[simp] theorem setArrivals_host : (setArrivals n l s).host = s.host := rfl
@[simp] theorem setArrivals_mbxs : (setArrivals n l s).mbxs = s.mbxs := rfl
@[simp] theorem setArrivals_nutas : (setArrivals n l s).nutas = s.nutas := rfl
@[simp] theorem setArrivals_ledger : (setArrivals n l s).ledger = s.ledger := rfl
@[simp] theorem setArrivals_commit : (setArrivals n l s).commit = s.commit := rfl
@[simp] theorem setArrivals_faults : (setArrivals n l s).faults = s.faults := rfl
@[simp] theorem setArrivals_hub : (setArrivals n l s).hub = s.hub := rfl
@[simp] theorem setArrivals_asy : (setArrivals n l s).asy = s.asy := rfl
@[simp] theorem setArrivals_standby : (setArrivals n l s).standby = s.standby := rfl
@[simp] theorem setArrivals_power : (setArrivals n l s).power = s.power := rfl
@[simp] theorem setArrivals_sec : (setArrivals n l s).sec = s.sec := rfl
@[simp] theorem setArrivals_mgmt : (setArrivals n l s).mgmt = s.mgmt := rfl
@[simp] theorem setArrivals_out : (setArrivals n l s).out = s.out := rfl
@[simp] theorem setArrivals_free : (setArrivals n l s).free = s.free := rfl
end setArrivals

section setClasp
variable (k : Nat) (n : Nat)
@[simp] theorem setClasp_pending : (setClasp k n s).pending = s.pending := rfl
@[simp] theorem setClasp_clock : (setClasp k n s).clock = s.clock := rfl
@[simp] theorem setClasp_beads : (setClasp k n s).beads = s.beads := rfl
@[simp] theorem setClasp_mmu : (setClasp k n s).mmu = s.mmu := rfl
@[simp] theorem setClasp_fabric : (setClasp k n s).fabric = s.fabric := rfl
@[simp] theorem setClasp_mem : (setClasp k n s).mem = s.mem := rfl
@[simp] theorem setClasp_bezels : (setClasp k n s).bezels = s.bezels := rfl
@[simp] theorem setClasp_chain : (setClasp k n s).chain = s.chain := rfl
@[simp] theorem setClasp_host : (setClasp k n s).host = s.host := rfl
@[simp] theorem setClasp_mbxs : (setClasp k n s).mbxs = s.mbxs := rfl
@[simp] theorem setClasp_nutas : (setClasp k n s).nutas = s.nutas := rfl
@[simp] theorem setClasp_ledger : (setClasp k n s).ledger = s.ledger := rfl
@[simp] theorem setClasp_commit : (setClasp k n s).commit = s.commit := rfl
@[simp] theorem setClasp_faults : (setClasp k n s).faults = s.faults := rfl
@[simp] theorem setClasp_hub : (setClasp k n s).hub = s.hub := rfl
@[simp] theorem setClasp_asy : (setClasp k n s).asy = s.asy := rfl
@[simp] theorem setClasp_standby : (setClasp k n s).standby = s.standby := rfl
@[simp] theorem setClasp_power : (setClasp k n s).power = s.power := rfl
@[simp] theorem setClasp_sec : (setClasp k n s).sec = s.sec := rfl
@[simp] theorem setClasp_mgmt : (setClasp k n s).mgmt = s.mgmt := rfl
@[simp] theorem setClasp_out : (setClasp k n s).out = s.out := rfl
@[simp] theorem setClasp_free : (setClasp k n s).free = s.free := rfl
end setClasp

section setWaiters
variable (k : Nat) (l : List Waiter)
@[simp] theorem setWaiters_pending : (setWaiters k l s).pending = s.pending := rfl
@[simp] theorem setWaiters_clock : (setWaiters k l s).clock = s.clock := rfl
@[simp] theorem setWaiters_beads : (setWaiters k l s).beads = s.beads := rfl
@[simp] theorem setWaiters_mmu : (setWaiters k l s).mmu = s.mmu := rfl
@[simp] theorem setWaiters_fabric : (setWaiters k l s).fabric = s.fabric := rfl
@[simp] theorem setWaiters_mem : (setWaiters k l s).mem = s.mem := rfl
@[simp] theorem setWaiters_bezels : (setWaiters k l s).bezels = s.bezels := rfl
@[simp] theorem setWaiters_chain : (setWaiters k l s).chain = s.chain := rfl
@[simp] theorem setWaiters_host : (setWaiters k l s).host = s.host := rfl
@[simp] theorem setWaiters_mbxs : (setWaiters k l s).mbxs = s.mbxs := rfl
@[simp] theorem setWaiters_nutas : (setWaiters k l s).nutas = s.nutas := rfl
@[simp] theorem setWaiters_ledger : (setWaiters k l s).ledger = s.ledger := rfl
@[simp] theorem setWaiters_commit : (setWaiters k l s).commit = s.commit := rfl
@[simp] theorem setWaiters_faults : (setWaiters k l s).faults = s.faults := rfl
@[simp] theorem setWaiters_hub : (setWaiters k l s).hub = s.hub := rfl
@[simp] theorem setWaiters_asy : (setWaiters k l s).asy = s.asy := rfl
@[simp] theorem setWaiters_standby : (setWaiters k l s).standby = s.standby := rfl
@[simp] theorem setWaiters_power : (setWaiters k l s).power = s.power := rfl
@[simp] theorem setWaiters_sec : (setWaiters k l s).sec = s.sec := rfl
@[simp] theorem setWaiters_mgmt : (setWaiters k l s).mgmt = s.mgmt := rfl
@[simp] theorem setWaiters_out : (setWaiters k l s).out = s.out := rfl
@[simp] theorem setWaiters_free : (setWaiters k l s).free = s.free := rfl
end setWaiters

section xbarLooks
variable (c : Nat) (l : List Code)
@[simp] theorem xbarLooks_pending : (xbarLooks c l s).pending = s.pending := foldl_same (·.pending) (fun _ _ => countLook_pending _ _ _) l s
@[simp] theorem xbarLooks_clock : (xbarLooks c l s).clock = s.clock := foldl_same (·.clock) (fun _ _ => countLook_clock _ _ _) l s
@[simp] theorem xbarLooks_beads : (xbarLooks c l s).beads = s.beads := foldl_same (·.beads) (fun _ _ => countLook_beads _ _ _) l s
@[simp] theorem xbarLooks_mmu : (xbarLooks c l s).mmu = s.mmu := foldl_same (·.mmu) (fun _ _ => countLook_mmu _ _ _) l s
@[simp] theorem xbarLooks_fabric : (xbarLooks c l s).fabric = s.fabric := foldl_same (·.fabric) (fun _ _ => countLook_fabric _ _ _) l s
@[simp] theorem xbarLooks_clasps : (xbarLooks c l s).clasps = s.clasps := foldl_same (·.clasps) (fun _ _ => countLook_clasps _ _ _) l s
@[simp] theorem xbarLooks_mem : (xbarLooks c l s).mem = s.mem := foldl_same (·.mem) (fun _ _ => countLook_mem _ _ _) l s
@[simp] theorem xbarLooks_bezels : (xbarLooks c l s).bezels = s.bezels := foldl_same (·.bezels) (fun _ _ => countLook_bezels _ _ _) l s
@[simp] theorem xbarLooks_chain : (xbarLooks c l s).chain = s.chain := foldl_same (·.chain) (fun _ _ => countLook_chain _ _ _) l s
@[simp] theorem xbarLooks_host : (xbarLooks c l s).host = s.host := foldl_same (·.host) (fun _ _ => countLook_host _ _ _) l s
@[simp] theorem xbarLooks_mbxs : (xbarLooks c l s).mbxs = s.mbxs := foldl_same (·.mbxs) (fun _ _ => countLook_mbxs _ _ _) l s
@[simp] theorem xbarLooks_nutas : (xbarLooks c l s).nutas = s.nutas := foldl_same (·.nutas) (fun _ _ => countLook_nutas _ _ _) l s
@[simp] theorem xbarLooks_ledger : (xbarLooks c l s).ledger = s.ledger := foldl_same (·.ledger) (fun _ _ => countLook_ledger _ _ _) l s
@[simp] theorem xbarLooks_commit : (xbarLooks c l s).commit = s.commit := foldl_same (·.commit) (fun _ _ => countLook_commit _ _ _) l s
@[simp] theorem xbarLooks_faults : (xbarLooks c l s).faults = s.faults := foldl_same (·.faults) (fun _ _ => countLook_faults _ _ _) l s
@[simp] theorem xbarLooks_hub : (xbarLooks c l s).hub = s.hub := foldl_same (·.hub) (fun _ _ => countLook_hub _ _ _) l s
@[simp] theorem xbarLooks_standby : (xbarLooks c l s).standby = s.standby := foldl_same (·.standby) (fun _ _ => countLook_standby _ _ _) l s
@[simp] theorem xbarLooks_power : (xbarLooks c l s).power = s.power := foldl_same (·.power) (fun _ _ => countLook_power _ _ _) l s
@[simp] theorem xbarLooks_sec : (xbarLooks c l s).sec = s.sec := foldl_same (·.sec) (fun _ _ => countLook_sec _ _ _) l s
@[simp] theorem xbarLooks_mgmt : (xbarLooks c l s).mgmt = s.mgmt := foldl_same (·.mgmt) (fun _ _ => countLook_mgmt _ _ _) l s
@[simp] theorem xbarLooks_out : (xbarLooks c l s).out = s.out := foldl_same (·.out) (fun _ _ => countLook_out _ _ _) l s
@[simp] theorem xbarLooks_free : (xbarLooks c l s).free = s.free := foldl_same (·.free) (fun _ _ => countLook_free _ _ _) l s
end xbarLooks

section toSlice
variable (i : Nat) (port : Nat) (m : Msg)
@[simp] theorem toSlice_pending : (toSlice i port m s).pending = s.pending := xbarLooks_pending _ _ _
@[simp] theorem toSlice_clock : (toSlice i port m s).clock = s.clock := xbarLooks_clock _ _ _
@[simp] theorem toSlice_beads : (toSlice i port m s).beads = s.beads := xbarLooks_beads _ _ _
@[simp] theorem toSlice_mmu : (toSlice i port m s).mmu = s.mmu := xbarLooks_mmu _ _ _
@[simp] theorem toSlice_fabric : (toSlice i port m s).fabric = s.fabric := xbarLooks_fabric _ _ _
@[simp] theorem toSlice_clasps : (toSlice i port m s).clasps = s.clasps := xbarLooks_clasps _ _ _
@[simp] theorem toSlice_bezels : (toSlice i port m s).bezels = s.bezels := xbarLooks_bezels _ _ _
@[simp] theorem toSlice_chain : (toSlice i port m s).chain = s.chain := xbarLooks_chain _ _ _
@[simp] theorem toSlice_host : (toSlice i port m s).host = s.host := xbarLooks_host _ _ _
@[simp] theorem toSlice_mbxs : (toSlice i port m s).mbxs = s.mbxs := xbarLooks_mbxs _ _ _
@[simp] theorem toSlice_nutas : (toSlice i port m s).nutas = s.nutas := xbarLooks_nutas _ _ _
@[simp] theorem toSlice_ledger : (toSlice i port m s).ledger = s.ledger := xbarLooks_ledger _ _ _
@[simp] theorem toSlice_commit : (toSlice i port m s).commit = s.commit := xbarLooks_commit _ _ _
@[simp] theorem toSlice_faults : (toSlice i port m s).faults = s.faults := xbarLooks_faults _ _ _
@[simp] theorem toSlice_hub : (toSlice i port m s).hub = s.hub := xbarLooks_hub _ _ _
@[simp] theorem toSlice_standby : (toSlice i port m s).standby = s.standby := xbarLooks_standby _ _ _
@[simp] theorem toSlice_power : (toSlice i port m s).power = s.power := xbarLooks_power _ _ _
@[simp] theorem toSlice_sec : (toSlice i port m s).sec = s.sec := xbarLooks_sec _ _ _
@[simp] theorem toSlice_mgmt : (toSlice i port m s).mgmt = s.mgmt := xbarLooks_mgmt _ _ _
@[simp] theorem toSlice_out : (toSlice i port m s).out = s.out := xbarLooks_out _ _ _
@[simp] theorem toSlice_free : (toSlice i port m s).free = s.free := xbarLooks_free _ _ _
end toSlice

section setBezel
variable (z : Nat) (b : Bezel)
@[simp] theorem setBezel_pending : (setBezel z b s).pending = s.pending := rfl
@[simp] theorem setBezel_clock : (setBezel z b s).clock = s.clock := rfl
@[simp] theorem setBezel_beads : (setBezel z b s).beads = s.beads := rfl
@[simp] theorem setBezel_mmu : (setBezel z b s).mmu = s.mmu := rfl
@[simp] theorem setBezel_fabric : (setBezel z b s).fabric = s.fabric := rfl
@[simp] theorem setBezel_clasps : (setBezel z b s).clasps = s.clasps := rfl
@[simp] theorem setBezel_mem : (setBezel z b s).mem = s.mem := rfl
@[simp] theorem setBezel_chain : (setBezel z b s).chain = s.chain := rfl
@[simp] theorem setBezel_host : (setBezel z b s).host = s.host := rfl
@[simp] theorem setBezel_mbxs : (setBezel z b s).mbxs = s.mbxs := rfl
@[simp] theorem setBezel_nutas : (setBezel z b s).nutas = s.nutas := rfl
@[simp] theorem setBezel_ledger : (setBezel z b s).ledger = s.ledger := rfl
@[simp] theorem setBezel_commit : (setBezel z b s).commit = s.commit := rfl
@[simp] theorem setBezel_faults : (setBezel z b s).faults = s.faults := rfl
@[simp] theorem setBezel_hub : (setBezel z b s).hub = s.hub := rfl
@[simp] theorem setBezel_asy : (setBezel z b s).asy = s.asy := rfl
@[simp] theorem setBezel_standby : (setBezel z b s).standby = s.standby := rfl
@[simp] theorem setBezel_power : (setBezel z b s).power = s.power := rfl
@[simp] theorem setBezel_sec : (setBezel z b s).sec = s.sec := rfl
@[simp] theorem setBezel_mgmt : (setBezel z b s).mgmt = s.mgmt := rfl
@[simp] theorem setBezel_out : (setBezel z b s).out = s.out := rfl
@[simp] theorem setBezel_free : (setBezel z b s).free = s.free := rfl
end setBezel

section modBezel
variable (z : Nat) (f : Bezel → Bezel)
@[simp] theorem modBezel_pending : (modBezel z f s).pending = s.pending := rfl
@[simp] theorem modBezel_clock : (modBezel z f s).clock = s.clock := rfl
@[simp] theorem modBezel_beads : (modBezel z f s).beads = s.beads := rfl
@[simp] theorem modBezel_mmu : (modBezel z f s).mmu = s.mmu := rfl
@[simp] theorem modBezel_fabric : (modBezel z f s).fabric = s.fabric := rfl
@[simp] theorem modBezel_clasps : (modBezel z f s).clasps = s.clasps := rfl
@[simp] theorem modBezel_mem : (modBezel z f s).mem = s.mem := rfl
@[simp] theorem modBezel_chain : (modBezel z f s).chain = s.chain := rfl
@[simp] theorem modBezel_host : (modBezel z f s).host = s.host := rfl
@[simp] theorem modBezel_mbxs : (modBezel z f s).mbxs = s.mbxs := rfl
@[simp] theorem modBezel_nutas : (modBezel z f s).nutas = s.nutas := rfl
@[simp] theorem modBezel_ledger : (modBezel z f s).ledger = s.ledger := rfl
@[simp] theorem modBezel_commit : (modBezel z f s).commit = s.commit := rfl
@[simp] theorem modBezel_faults : (modBezel z f s).faults = s.faults := rfl
@[simp] theorem modBezel_hub : (modBezel z f s).hub = s.hub := rfl
@[simp] theorem modBezel_asy : (modBezel z f s).asy = s.asy := rfl
@[simp] theorem modBezel_standby : (modBezel z f s).standby = s.standby := rfl
@[simp] theorem modBezel_power : (modBezel z f s).power = s.power := rfl
@[simp] theorem modBezel_sec : (modBezel z f s).sec = s.sec := rfl
@[simp] theorem modBezel_mgmt : (modBezel z f s).mgmt = s.mgmt := rfl
@[simp] theorem modBezel_out : (modBezel z f s).out = s.out := rfl
@[simp] theorem modBezel_free : (modBezel z f s).free = s.free := rfl
end modBezel

section setPort
variable (p : Nat) (v : Port)
@[simp] theorem setPort_pending : (setPort p v s).pending = s.pending := rfl
@[simp] theorem setPort_clock : (setPort p v s).clock = s.clock := rfl
@[simp] theorem setPort_beads : (setPort p v s).beads = s.beads := rfl
@[simp] theorem setPort_mmu : (setPort p v s).mmu = s.mmu := rfl
@[simp] theorem setPort_fabric : (setPort p v s).fabric = s.fabric := rfl
@[simp] theorem setPort_clasps : (setPort p v s).clasps = s.clasps := rfl
@[simp] theorem setPort_mem : (setPort p v s).mem = s.mem := rfl
@[simp] theorem setPort_bezels : (setPort p v s).bezels = s.bezels := rfl
@[simp] theorem setPort_host : (setPort p v s).host = s.host := rfl
@[simp] theorem setPort_mbxs : (setPort p v s).mbxs = s.mbxs := rfl
@[simp] theorem setPort_nutas : (setPort p v s).nutas = s.nutas := rfl
@[simp] theorem setPort_ledger : (setPort p v s).ledger = s.ledger := rfl
@[simp] theorem setPort_commit : (setPort p v s).commit = s.commit := rfl
@[simp] theorem setPort_faults : (setPort p v s).faults = s.faults := rfl
@[simp] theorem setPort_hub : (setPort p v s).hub = s.hub := rfl
@[simp] theorem setPort_asy : (setPort p v s).asy = s.asy := rfl
@[simp] theorem setPort_standby : (setPort p v s).standby = s.standby := rfl
@[simp] theorem setPort_power : (setPort p v s).power = s.power := rfl
@[simp] theorem setPort_sec : (setPort p v s).sec = s.sec := rfl
@[simp] theorem setPort_mgmt : (setPort p v s).mgmt = s.mgmt := rfl
@[simp] theorem setPort_out : (setPort p v s).out = s.out := rfl
@[simp] theorem setPort_free : (setPort p v s).free = s.free := rfl
end setPort

section modPort
variable (p : Nat) (f : Port → Port)
@[simp] theorem modPort_pending : (modPort p f s).pending = s.pending := rfl
@[simp] theorem modPort_clock : (modPort p f s).clock = s.clock := rfl
@[simp] theorem modPort_beads : (modPort p f s).beads = s.beads := rfl
@[simp] theorem modPort_mmu : (modPort p f s).mmu = s.mmu := rfl
@[simp] theorem modPort_fabric : (modPort p f s).fabric = s.fabric := rfl
@[simp] theorem modPort_clasps : (modPort p f s).clasps = s.clasps := rfl
@[simp] theorem modPort_mem : (modPort p f s).mem = s.mem := rfl
@[simp] theorem modPort_bezels : (modPort p f s).bezels = s.bezels := rfl
@[simp] theorem modPort_host : (modPort p f s).host = s.host := rfl
@[simp] theorem modPort_mbxs : (modPort p f s).mbxs = s.mbxs := rfl
@[simp] theorem modPort_nutas : (modPort p f s).nutas = s.nutas := rfl
@[simp] theorem modPort_ledger : (modPort p f s).ledger = s.ledger := rfl
@[simp] theorem modPort_commit : (modPort p f s).commit = s.commit := rfl
@[simp] theorem modPort_faults : (modPort p f s).faults = s.faults := rfl
@[simp] theorem modPort_hub : (modPort p f s).hub = s.hub := rfl
@[simp] theorem modPort_asy : (modPort p f s).asy = s.asy := rfl
@[simp] theorem modPort_standby : (modPort p f s).standby = s.standby := rfl
@[simp] theorem modPort_power : (modPort p f s).power = s.power := rfl
@[simp] theorem modPort_sec : (modPort p f s).sec = s.sec := rfl
@[simp] theorem modPort_mgmt : (modPort p f s).mgmt = s.mgmt := rfl
@[simp] theorem modPort_out : (modPort p f s).out = s.out := rfl
@[simp] theorem modPort_free : (modPort p f s).free = s.free := rfl
end modPort

section setHost
variable (h : HostLink)
@[simp] theorem setHost_pending : (setHost h s).pending = s.pending := rfl
@[simp] theorem setHost_clock : (setHost h s).clock = s.clock := rfl
@[simp] theorem setHost_beads : (setHost h s).beads = s.beads := rfl
@[simp] theorem setHost_mmu : (setHost h s).mmu = s.mmu := rfl
@[simp] theorem setHost_fabric : (setHost h s).fabric = s.fabric := rfl
@[simp] theorem setHost_clasps : (setHost h s).clasps = s.clasps := rfl
@[simp] theorem setHost_mem : (setHost h s).mem = s.mem := rfl
@[simp] theorem setHost_bezels : (setHost h s).bezels = s.bezels := rfl
@[simp] theorem setHost_chain : (setHost h s).chain = s.chain := rfl
@[simp] theorem setHost_mbxs : (setHost h s).mbxs = s.mbxs := rfl
@[simp] theorem setHost_nutas : (setHost h s).nutas = s.nutas := rfl
@[simp] theorem setHost_ledger : (setHost h s).ledger = s.ledger := rfl
@[simp] theorem setHost_commit : (setHost h s).commit = s.commit := rfl
@[simp] theorem setHost_faults : (setHost h s).faults = s.faults := rfl
@[simp] theorem setHost_hub : (setHost h s).hub = s.hub := rfl
@[simp] theorem setHost_asy : (setHost h s).asy = s.asy := rfl
@[simp] theorem setHost_standby : (setHost h s).standby = s.standby := rfl
@[simp] theorem setHost_power : (setHost h s).power = s.power := rfl
@[simp] theorem setHost_sec : (setHost h s).sec = s.sec := rfl
@[simp] theorem setHost_mgmt : (setHost h s).mgmt = s.mgmt := rfl
@[simp] theorem setHost_out : (setHost h s).out = s.out := rfl
@[simp] theorem setHost_free : (setHost h s).free = s.free := rfl
end setHost

section countError
variable (e : LinkError)
@[simp] theorem countError_pending : (countError e s).pending = s.pending := by
  cases e <;> rfl
@[simp] theorem countError_clock : (countError e s).clock = s.clock := by
  cases e <;> rfl
@[simp] theorem countError_beads : (countError e s).beads = s.beads := by
  cases e <;> rfl
@[simp] theorem countError_mmu : (countError e s).mmu = s.mmu := by
  cases e <;> rfl
@[simp] theorem countError_fabric : (countError e s).fabric = s.fabric := by
  cases e <;> rfl
@[simp] theorem countError_clasps : (countError e s).clasps = s.clasps := by
  cases e <;> rfl
@[simp] theorem countError_mem : (countError e s).mem = s.mem := by
  cases e <;> rfl
@[simp] theorem countError_bezels : (countError e s).bezels = s.bezels := by
  cases e <;> rfl
@[simp] theorem countError_chain : (countError e s).chain = s.chain := by
  cases e <;> rfl
@[simp] theorem countError_mbxs : (countError e s).mbxs = s.mbxs := by
  cases e <;> rfl
@[simp] theorem countError_nutas : (countError e s).nutas = s.nutas := by
  cases e <;> rfl
@[simp] theorem countError_ledger : (countError e s).ledger = s.ledger := by
  cases e <;> rfl
@[simp] theorem countError_commit : (countError e s).commit = s.commit := by
  cases e <;> rfl
@[simp] theorem countError_faults : (countError e s).faults = s.faults := by
  cases e <;> rfl
@[simp] theorem countError_hub : (countError e s).hub = s.hub := by
  cases e <;> rfl
@[simp] theorem countError_asy : (countError e s).asy = s.asy := by
  cases e <;> rfl
@[simp] theorem countError_standby : (countError e s).standby = s.standby := by
  cases e <;> rfl
@[simp] theorem countError_power : (countError e s).power = s.power := by
  cases e <;> rfl
@[simp] theorem countError_sec : (countError e s).sec = s.sec := by
  cases e <;> rfl
@[simp] theorem countError_mgmt : (countError e s).mgmt = s.mgmt := by
  cases e <;> rfl
@[simp] theorem countError_free : (countError e s).free = s.free := by
  cases e <;> rfl
end countError

section setMbx
variable (m : Nat) (v : Mbx)
@[simp] theorem setMbx_pending : (setMbx m v s).pending = s.pending := rfl
@[simp] theorem setMbx_clock : (setMbx m v s).clock = s.clock := rfl
@[simp] theorem setMbx_beads : (setMbx m v s).beads = s.beads := rfl
@[simp] theorem setMbx_mmu : (setMbx m v s).mmu = s.mmu := rfl
@[simp] theorem setMbx_fabric : (setMbx m v s).fabric = s.fabric := rfl
@[simp] theorem setMbx_clasps : (setMbx m v s).clasps = s.clasps := rfl
@[simp] theorem setMbx_mem : (setMbx m v s).mem = s.mem := rfl
@[simp] theorem setMbx_bezels : (setMbx m v s).bezels = s.bezels := rfl
@[simp] theorem setMbx_chain : (setMbx m v s).chain = s.chain := rfl
@[simp] theorem setMbx_host : (setMbx m v s).host = s.host := rfl
@[simp] theorem setMbx_nutas : (setMbx m v s).nutas = s.nutas := rfl
@[simp] theorem setMbx_ledger : (setMbx m v s).ledger = s.ledger := rfl
@[simp] theorem setMbx_commit : (setMbx m v s).commit = s.commit := rfl
@[simp] theorem setMbx_faults : (setMbx m v s).faults = s.faults := rfl
@[simp] theorem setMbx_hub : (setMbx m v s).hub = s.hub := rfl
@[simp] theorem setMbx_asy : (setMbx m v s).asy = s.asy := rfl
@[simp] theorem setMbx_standby : (setMbx m v s).standby = s.standby := rfl
@[simp] theorem setMbx_power : (setMbx m v s).power = s.power := rfl
@[simp] theorem setMbx_sec : (setMbx m v s).sec = s.sec := rfl
@[simp] theorem setMbx_mgmt : (setMbx m v s).mgmt = s.mgmt := rfl
@[simp] theorem setMbx_out : (setMbx m v s).out = s.out := rfl
@[simp] theorem setMbx_free : (setMbx m v s).free = s.free := rfl
end setMbx

section modMbx
variable (m : Nat) (f : Mbx → Mbx)
@[simp] theorem modMbx_pending : (modMbx m f s).pending = s.pending := rfl
@[simp] theorem modMbx_clock : (modMbx m f s).clock = s.clock := rfl
@[simp] theorem modMbx_beads : (modMbx m f s).beads = s.beads := rfl
@[simp] theorem modMbx_mmu : (modMbx m f s).mmu = s.mmu := rfl
@[simp] theorem modMbx_fabric : (modMbx m f s).fabric = s.fabric := rfl
@[simp] theorem modMbx_clasps : (modMbx m f s).clasps = s.clasps := rfl
@[simp] theorem modMbx_mem : (modMbx m f s).mem = s.mem := rfl
@[simp] theorem modMbx_bezels : (modMbx m f s).bezels = s.bezels := rfl
@[simp] theorem modMbx_chain : (modMbx m f s).chain = s.chain := rfl
@[simp] theorem modMbx_host : (modMbx m f s).host = s.host := rfl
@[simp] theorem modMbx_nutas : (modMbx m f s).nutas = s.nutas := rfl
@[simp] theorem modMbx_ledger : (modMbx m f s).ledger = s.ledger := rfl
@[simp] theorem modMbx_commit : (modMbx m f s).commit = s.commit := rfl
@[simp] theorem modMbx_faults : (modMbx m f s).faults = s.faults := rfl
@[simp] theorem modMbx_hub : (modMbx m f s).hub = s.hub := rfl
@[simp] theorem modMbx_asy : (modMbx m f s).asy = s.asy := rfl
@[simp] theorem modMbx_standby : (modMbx m f s).standby = s.standby := rfl
@[simp] theorem modMbx_power : (modMbx m f s).power = s.power := rfl
@[simp] theorem modMbx_sec : (modMbx m f s).sec = s.sec := rfl
@[simp] theorem modMbx_mgmt : (modMbx m f s).mgmt = s.mgmt := rfl
@[simp] theorem modMbx_out : (modMbx m f s).out = s.out := rfl
@[simp] theorem modMbx_free : (modMbx m f s).free = s.free := rfl
end modMbx

section modNutas
variable (f : Nutas → Nutas)
@[simp] theorem modNutas_pending : (modNutas f s).pending = s.pending := rfl
@[simp] theorem modNutas_clock : (modNutas f s).clock = s.clock := rfl
@[simp] theorem modNutas_beads : (modNutas f s).beads = s.beads := rfl
@[simp] theorem modNutas_mmu : (modNutas f s).mmu = s.mmu := rfl
@[simp] theorem modNutas_fabric : (modNutas f s).fabric = s.fabric := rfl
@[simp] theorem modNutas_clasps : (modNutas f s).clasps = s.clasps := rfl
@[simp] theorem modNutas_mem : (modNutas f s).mem = s.mem := rfl
@[simp] theorem modNutas_bezels : (modNutas f s).bezels = s.bezels := rfl
@[simp] theorem modNutas_chain : (modNutas f s).chain = s.chain := rfl
@[simp] theorem modNutas_host : (modNutas f s).host = s.host := rfl
@[simp] theorem modNutas_mbxs : (modNutas f s).mbxs = s.mbxs := rfl
@[simp] theorem modNutas_ledger : (modNutas f s).ledger = s.ledger := rfl
@[simp] theorem modNutas_commit : (modNutas f s).commit = s.commit := rfl
@[simp] theorem modNutas_faults : (modNutas f s).faults = s.faults := rfl
@[simp] theorem modNutas_hub : (modNutas f s).hub = s.hub := rfl
@[simp] theorem modNutas_asy : (modNutas f s).asy = s.asy := rfl
@[simp] theorem modNutas_standby : (modNutas f s).standby = s.standby := rfl
@[simp] theorem modNutas_power : (modNutas f s).power = s.power := rfl
@[simp] theorem modNutas_sec : (modNutas f s).sec = s.sec := rfl
@[simp] theorem modNutas_mgmt : (modNutas f s).mgmt = s.mgmt := rfl
@[simp] theorem modNutas_out : (modNutas f s).out = s.out := rfl
@[simp] theorem modNutas_free : (modNutas f s).free = s.free := rfl
end modNutas

section waitFor
variable (w : Waits)
@[simp] theorem waitFor_pending : (waitFor w s).pending = s.pending := rfl
@[simp] theorem waitFor_clock : (waitFor w s).clock = s.clock := rfl
@[simp] theorem waitFor_beads : (waitFor w s).beads = s.beads := rfl
@[simp] theorem waitFor_mmu : (waitFor w s).mmu = s.mmu := rfl
@[simp] theorem waitFor_fabric : (waitFor w s).fabric = s.fabric := rfl
@[simp] theorem waitFor_clasps : (waitFor w s).clasps = s.clasps := rfl
@[simp] theorem waitFor_mem : (waitFor w s).mem = s.mem := rfl
@[simp] theorem waitFor_bezels : (waitFor w s).bezels = s.bezels := rfl
@[simp] theorem waitFor_chain : (waitFor w s).chain = s.chain := rfl
@[simp] theorem waitFor_host : (waitFor w s).host = s.host := rfl
@[simp] theorem waitFor_mbxs : (waitFor w s).mbxs = s.mbxs := rfl
@[simp] theorem waitFor_ledger : (waitFor w s).ledger = s.ledger := rfl
@[simp] theorem waitFor_commit : (waitFor w s).commit = s.commit := rfl
@[simp] theorem waitFor_faults : (waitFor w s).faults = s.faults := rfl
@[simp] theorem waitFor_hub : (waitFor w s).hub = s.hub := rfl
@[simp] theorem waitFor_asy : (waitFor w s).asy = s.asy := rfl
@[simp] theorem waitFor_standby : (waitFor w s).standby = s.standby := rfl
@[simp] theorem waitFor_power : (waitFor w s).power = s.power := rfl
@[simp] theorem waitFor_sec : (waitFor w s).sec = s.sec := rfl
@[simp] theorem waitFor_mgmt : (waitFor w s).mgmt = s.mgmt := rfl
@[simp] theorem waitFor_out : (waitFor w s).out = s.out := rfl
@[simp] theorem waitFor_free : (waitFor w s).free = s.free := rfl
end waitFor

section modPlan
variable (f : Plan → Plan)
@[simp] theorem modPlan_pending : (modPlan f s).pending = s.pending := rfl
@[simp] theorem modPlan_clock : (modPlan f s).clock = s.clock := rfl
@[simp] theorem modPlan_beads : (modPlan f s).beads = s.beads := rfl
@[simp] theorem modPlan_mmu : (modPlan f s).mmu = s.mmu := rfl
@[simp] theorem modPlan_fabric : (modPlan f s).fabric = s.fabric := rfl
@[simp] theorem modPlan_clasps : (modPlan f s).clasps = s.clasps := rfl
@[simp] theorem modPlan_mem : (modPlan f s).mem = s.mem := rfl
@[simp] theorem modPlan_bezels : (modPlan f s).bezels = s.bezels := rfl
@[simp] theorem modPlan_chain : (modPlan f s).chain = s.chain := rfl
@[simp] theorem modPlan_host : (modPlan f s).host = s.host := rfl
@[simp] theorem modPlan_mbxs : (modPlan f s).mbxs = s.mbxs := rfl
@[simp] theorem modPlan_ledger : (modPlan f s).ledger = s.ledger := rfl
@[simp] theorem modPlan_commit : (modPlan f s).commit = s.commit := rfl
@[simp] theorem modPlan_faults : (modPlan f s).faults = s.faults := rfl
@[simp] theorem modPlan_hub : (modPlan f s).hub = s.hub := rfl
@[simp] theorem modPlan_asy : (modPlan f s).asy = s.asy := rfl
@[simp] theorem modPlan_standby : (modPlan f s).standby = s.standby := rfl
@[simp] theorem modPlan_power : (modPlan f s).power = s.power := rfl
@[simp] theorem modPlan_sec : (modPlan f s).sec = s.sec := rfl
@[simp] theorem modPlan_mgmt : (modPlan f s).mgmt = s.mgmt := rfl
@[simp] theorem modPlan_out : (modPlan f s).out = s.out := rfl
@[simp] theorem modPlan_free : (modPlan f s).free = s.free := rfl
end modPlan

section addLoad
variable (l : Load)
@[simp] theorem addLoad_pending : (addLoad l s).pending = s.pending := rfl
@[simp] theorem addLoad_clock : (addLoad l s).clock = s.clock := rfl
@[simp] theorem addLoad_beads : (addLoad l s).beads = s.beads := rfl
@[simp] theorem addLoad_mmu : (addLoad l s).mmu = s.mmu := rfl
@[simp] theorem addLoad_fabric : (addLoad l s).fabric = s.fabric := rfl
@[simp] theorem addLoad_clasps : (addLoad l s).clasps = s.clasps := rfl
@[simp] theorem addLoad_mem : (addLoad l s).mem = s.mem := rfl
@[simp] theorem addLoad_bezels : (addLoad l s).bezels = s.bezels := rfl
@[simp] theorem addLoad_chain : (addLoad l s).chain = s.chain := rfl
@[simp] theorem addLoad_host : (addLoad l s).host = s.host := rfl
@[simp] theorem addLoad_mbxs : (addLoad l s).mbxs = s.mbxs := rfl
@[simp] theorem addLoad_ledger : (addLoad l s).ledger = s.ledger := rfl
@[simp] theorem addLoad_commit : (addLoad l s).commit = s.commit := rfl
@[simp] theorem addLoad_faults : (addLoad l s).faults = s.faults := rfl
@[simp] theorem addLoad_hub : (addLoad l s).hub = s.hub := rfl
@[simp] theorem addLoad_asy : (addLoad l s).asy = s.asy := rfl
@[simp] theorem addLoad_standby : (addLoad l s).standby = s.standby := rfl
@[simp] theorem addLoad_power : (addLoad l s).power = s.power := rfl
@[simp] theorem addLoad_sec : (addLoad l s).sec = s.sec := rfl
@[simp] theorem addLoad_mgmt : (addLoad l s).mgmt = s.mgmt := rfl
@[simp] theorem addLoad_out : (addLoad l s).out = s.out := rfl
@[simp] theorem addLoad_free : (addLoad l s).free = s.free := rfl
end addLoad

section setCohort
variable (a : Nat) (c : Cohort)
@[simp] theorem setCohort_pending : (setCohort a c s).pending = s.pending := rfl
@[simp] theorem setCohort_clock : (setCohort a c s).clock = s.clock := rfl
@[simp] theorem setCohort_beads : (setCohort a c s).beads = s.beads := rfl
@[simp] theorem setCohort_mmu : (setCohort a c s).mmu = s.mmu := rfl
@[simp] theorem setCohort_fabric : (setCohort a c s).fabric = s.fabric := rfl
@[simp] theorem setCohort_clasps : (setCohort a c s).clasps = s.clasps := rfl
@[simp] theorem setCohort_mem : (setCohort a c s).mem = s.mem := rfl
@[simp] theorem setCohort_bezels : (setCohort a c s).bezels = s.bezels := rfl
@[simp] theorem setCohort_chain : (setCohort a c s).chain = s.chain := rfl
@[simp] theorem setCohort_host : (setCohort a c s).host = s.host := rfl
@[simp] theorem setCohort_mbxs : (setCohort a c s).mbxs = s.mbxs := rfl
@[simp] theorem setCohort_ledger : (setCohort a c s).ledger = s.ledger := rfl
@[simp] theorem setCohort_commit : (setCohort a c s).commit = s.commit := rfl
@[simp] theorem setCohort_faults : (setCohort a c s).faults = s.faults := rfl
@[simp] theorem setCohort_hub : (setCohort a c s).hub = s.hub := rfl
@[simp] theorem setCohort_asy : (setCohort a c s).asy = s.asy := rfl
@[simp] theorem setCohort_standby : (setCohort a c s).standby = s.standby := rfl
@[simp] theorem setCohort_power : (setCohort a c s).power = s.power := rfl
@[simp] theorem setCohort_sec : (setCohort a c s).sec = s.sec := rfl
@[simp] theorem setCohort_mgmt : (setCohort a c s).mgmt = s.mgmt := rfl
@[simp] theorem setCohort_out : (setCohort a c s).out = s.out := rfl
@[simp] theorem setCohort_free : (setCohort a c s).free = s.free := rfl
end setCohort

section sendCtrl
variable (p : Nat) (l : LinkWord)
@[simp] theorem sendCtrl_pending : (sendCtrl p l s).pending = s.pending := rfl
@[simp] theorem sendCtrl_clock : (sendCtrl p l s).clock = s.clock := rfl
@[simp] theorem sendCtrl_beads : (sendCtrl p l s).beads = s.beads := rfl
@[simp] theorem sendCtrl_mmu : (sendCtrl p l s).mmu = s.mmu := rfl
@[simp] theorem sendCtrl_fabric : (sendCtrl p l s).fabric = s.fabric := rfl
@[simp] theorem sendCtrl_clasps : (sendCtrl p l s).clasps = s.clasps := rfl
@[simp] theorem sendCtrl_mem : (sendCtrl p l s).mem = s.mem := rfl
@[simp] theorem sendCtrl_bezels : (sendCtrl p l s).bezels = s.bezels := rfl
@[simp] theorem sendCtrl_chain : (sendCtrl p l s).chain = s.chain := rfl
@[simp] theorem sendCtrl_host : (sendCtrl p l s).host = s.host := rfl
@[simp] theorem sendCtrl_mbxs : (sendCtrl p l s).mbxs = s.mbxs := rfl
@[simp] theorem sendCtrl_nutas : (sendCtrl p l s).nutas = s.nutas := rfl
@[simp] theorem sendCtrl_ledger : (sendCtrl p l s).ledger = s.ledger := rfl
@[simp] theorem sendCtrl_commit : (sendCtrl p l s).commit = s.commit := rfl
@[simp] theorem sendCtrl_faults : (sendCtrl p l s).faults = s.faults := rfl
@[simp] theorem sendCtrl_hub : (sendCtrl p l s).hub = s.hub := rfl
@[simp] theorem sendCtrl_asy : (sendCtrl p l s).asy = s.asy := rfl
@[simp] theorem sendCtrl_standby : (sendCtrl p l s).standby = s.standby := rfl
@[simp] theorem sendCtrl_power : (sendCtrl p l s).power = s.power := rfl
@[simp] theorem sendCtrl_sec : (sendCtrl p l s).sec = s.sec := rfl
@[simp] theorem sendCtrl_mgmt : (sendCtrl p l s).mgmt = s.mgmt := rfl
@[simp] theorem sendCtrl_free : (sendCtrl p l s).free = s.free := rfl
end sendCtrl

section mgmtDown
@[simp] theorem mgmtDown_pending : (mgmtDown s).pending = s.pending := rfl
@[simp] theorem mgmtDown_clock : (mgmtDown s).clock = s.clock := rfl
@[simp] theorem mgmtDown_beads : (mgmtDown s).beads = s.beads := rfl
@[simp] theorem mgmtDown_mmu : (mgmtDown s).mmu = s.mmu := rfl
@[simp] theorem mgmtDown_fabric : (mgmtDown s).fabric = s.fabric := rfl
@[simp] theorem mgmtDown_clasps : (mgmtDown s).clasps = s.clasps := rfl
@[simp] theorem mgmtDown_mem : (mgmtDown s).mem = s.mem := rfl
@[simp] theorem mgmtDown_bezels : (mgmtDown s).bezels = s.bezels := rfl
@[simp] theorem mgmtDown_chain : (mgmtDown s).chain = s.chain := rfl
@[simp] theorem mgmtDown_host : (mgmtDown s).host = s.host := rfl
@[simp] theorem mgmtDown_mbxs : (mgmtDown s).mbxs = s.mbxs := rfl
@[simp] theorem mgmtDown_nutas : (mgmtDown s).nutas = s.nutas := rfl
@[simp] theorem mgmtDown_ledger : (mgmtDown s).ledger = s.ledger := rfl
@[simp] theorem mgmtDown_commit : (mgmtDown s).commit = s.commit := rfl
@[simp] theorem mgmtDown_faults : (mgmtDown s).faults = s.faults := rfl
@[simp] theorem mgmtDown_hub : (mgmtDown s).hub = s.hub := rfl
@[simp] theorem mgmtDown_asy : (mgmtDown s).asy = s.asy := rfl
@[simp] theorem mgmtDown_standby : (mgmtDown s).standby = s.standby := rfl
@[simp] theorem mgmtDown_power : (mgmtDown s).power = s.power := rfl
@[simp] theorem mgmtDown_sec : (mgmtDown s).sec = s.sec := rfl
@[simp] theorem mgmtDown_out : (mgmtDown s).out = s.out := rfl
@[simp] theorem mgmtDown_free : (mgmtDown s).free = s.free := rfl
end mgmtDown

section modMgmt
variable (f : Mgmt → Mgmt)
@[simp] theorem modMgmt_pending : (modMgmt f s).pending = s.pending := rfl
@[simp] theorem modMgmt_clock : (modMgmt f s).clock = s.clock := rfl
@[simp] theorem modMgmt_beads : (modMgmt f s).beads = s.beads := rfl
@[simp] theorem modMgmt_mmu : (modMgmt f s).mmu = s.mmu := rfl
@[simp] theorem modMgmt_fabric : (modMgmt f s).fabric = s.fabric := rfl
@[simp] theorem modMgmt_clasps : (modMgmt f s).clasps = s.clasps := rfl
@[simp] theorem modMgmt_mem : (modMgmt f s).mem = s.mem := rfl
@[simp] theorem modMgmt_bezels : (modMgmt f s).bezels = s.bezels := rfl
@[simp] theorem modMgmt_chain : (modMgmt f s).chain = s.chain := rfl
@[simp] theorem modMgmt_host : (modMgmt f s).host = s.host := rfl
@[simp] theorem modMgmt_mbxs : (modMgmt f s).mbxs = s.mbxs := rfl
@[simp] theorem modMgmt_nutas : (modMgmt f s).nutas = s.nutas := rfl
@[simp] theorem modMgmt_ledger : (modMgmt f s).ledger = s.ledger := rfl
@[simp] theorem modMgmt_commit : (modMgmt f s).commit = s.commit := rfl
@[simp] theorem modMgmt_faults : (modMgmt f s).faults = s.faults := rfl
@[simp] theorem modMgmt_hub : (modMgmt f s).hub = s.hub := rfl
@[simp] theorem modMgmt_asy : (modMgmt f s).asy = s.asy := rfl
@[simp] theorem modMgmt_standby : (modMgmt f s).standby = s.standby := rfl
@[simp] theorem modMgmt_power : (modMgmt f s).power = s.power := rfl
@[simp] theorem modMgmt_sec : (modMgmt f s).sec = s.sec := rfl
@[simp] theorem modMgmt_out : (modMgmt f s).out = s.out := rfl
@[simp] theorem modMgmt_free : (modMgmt f s).free = s.free := rfl
end modMgmt

section modStandby
variable (f : Standby → Standby)
@[simp] theorem modStandby_pending : (modStandby f s).pending = s.pending := rfl
@[simp] theorem modStandby_clock : (modStandby f s).clock = s.clock := rfl
@[simp] theorem modStandby_beads : (modStandby f s).beads = s.beads := rfl
@[simp] theorem modStandby_mmu : (modStandby f s).mmu = s.mmu := rfl
@[simp] theorem modStandby_fabric : (modStandby f s).fabric = s.fabric := rfl
@[simp] theorem modStandby_clasps : (modStandby f s).clasps = s.clasps := rfl
@[simp] theorem modStandby_mem : (modStandby f s).mem = s.mem := rfl
@[simp] theorem modStandby_bezels : (modStandby f s).bezels = s.bezels := rfl
@[simp] theorem modStandby_chain : (modStandby f s).chain = s.chain := rfl
@[simp] theorem modStandby_host : (modStandby f s).host = s.host := rfl
@[simp] theorem modStandby_mbxs : (modStandby f s).mbxs = s.mbxs := rfl
@[simp] theorem modStandby_nutas : (modStandby f s).nutas = s.nutas := rfl
@[simp] theorem modStandby_ledger : (modStandby f s).ledger = s.ledger := rfl
@[simp] theorem modStandby_commit : (modStandby f s).commit = s.commit := rfl
@[simp] theorem modStandby_faults : (modStandby f s).faults = s.faults := rfl
@[simp] theorem modStandby_hub : (modStandby f s).hub = s.hub := rfl
@[simp] theorem modStandby_asy : (modStandby f s).asy = s.asy := rfl
@[simp] theorem modStandby_power : (modStandby f s).power = s.power := rfl
@[simp] theorem modStandby_sec : (modStandby f s).sec = s.sec := rfl
@[simp] theorem modStandby_mgmt : (modStandby f s).mgmt = s.mgmt := rfl
@[simp] theorem modStandby_out : (modStandby f s).out = s.out := rfl
@[simp] theorem modStandby_free : (modStandby f s).free = s.free := rfl
end modStandby

section modClock
variable (f : Clock → Clock)
@[simp] theorem modClock_pending : (modClock f s).pending = s.pending := rfl
@[simp] theorem modClock_beads : (modClock f s).beads = s.beads := rfl
@[simp] theorem modClock_mmu : (modClock f s).mmu = s.mmu := rfl
@[simp] theorem modClock_fabric : (modClock f s).fabric = s.fabric := rfl
@[simp] theorem modClock_clasps : (modClock f s).clasps = s.clasps := rfl
@[simp] theorem modClock_mem : (modClock f s).mem = s.mem := rfl
@[simp] theorem modClock_bezels : (modClock f s).bezels = s.bezels := rfl
@[simp] theorem modClock_chain : (modClock f s).chain = s.chain := rfl
@[simp] theorem modClock_host : (modClock f s).host = s.host := rfl
@[simp] theorem modClock_mbxs : (modClock f s).mbxs = s.mbxs := rfl
@[simp] theorem modClock_nutas : (modClock f s).nutas = s.nutas := rfl
@[simp] theorem modClock_ledger : (modClock f s).ledger = s.ledger := rfl
@[simp] theorem modClock_commit : (modClock f s).commit = s.commit := rfl
@[simp] theorem modClock_faults : (modClock f s).faults = s.faults := rfl
@[simp] theorem modClock_hub : (modClock f s).hub = s.hub := rfl
@[simp] theorem modClock_asy : (modClock f s).asy = s.asy := rfl
@[simp] theorem modClock_standby : (modClock f s).standby = s.standby := rfl
@[simp] theorem modClock_power : (modClock f s).power = s.power := rfl
@[simp] theorem modClock_sec : (modClock f s).sec = s.sec := rfl
@[simp] theorem modClock_mgmt : (modClock f s).mgmt = s.mgmt := rfl
@[simp] theorem modClock_out : (modClock f s).out = s.out := rfl
@[simp] theorem modClock_free : (modClock f s).free = s.free := rfl
end modClock

section modLedger
variable (f : Ledger → Ledger)
@[simp] theorem modLedger_pending : (modLedger f s).pending = s.pending := rfl
@[simp] theorem modLedger_clock : (modLedger f s).clock = s.clock := rfl
@[simp] theorem modLedger_beads : (modLedger f s).beads = s.beads := rfl
@[simp] theorem modLedger_mmu : (modLedger f s).mmu = s.mmu := rfl
@[simp] theorem modLedger_fabric : (modLedger f s).fabric = s.fabric := rfl
@[simp] theorem modLedger_clasps : (modLedger f s).clasps = s.clasps := rfl
@[simp] theorem modLedger_mem : (modLedger f s).mem = s.mem := rfl
@[simp] theorem modLedger_bezels : (modLedger f s).bezels = s.bezels := rfl
@[simp] theorem modLedger_chain : (modLedger f s).chain = s.chain := rfl
@[simp] theorem modLedger_host : (modLedger f s).host = s.host := rfl
@[simp] theorem modLedger_mbxs : (modLedger f s).mbxs = s.mbxs := rfl
@[simp] theorem modLedger_nutas : (modLedger f s).nutas = s.nutas := rfl
@[simp] theorem modLedger_commit : (modLedger f s).commit = s.commit := rfl
@[simp] theorem modLedger_faults : (modLedger f s).faults = s.faults := rfl
@[simp] theorem modLedger_hub : (modLedger f s).hub = s.hub := rfl
@[simp] theorem modLedger_asy : (modLedger f s).asy = s.asy := rfl
@[simp] theorem modLedger_standby : (modLedger f s).standby = s.standby := rfl
@[simp] theorem modLedger_power : (modLedger f s).power = s.power := rfl
@[simp] theorem modLedger_sec : (modLedger f s).sec = s.sec := rfl
@[simp] theorem modLedger_mgmt : (modLedger f s).mgmt = s.mgmt := rfl
@[simp] theorem modLedger_out : (modLedger f s).out = s.out := rfl
@[simp] theorem modLedger_free : (modLedger f s).free = s.free := rfl
end modLedger

section toPhase
variable (p : Nat)
@[simp] theorem toPhase_pending : (toPhase p s).pending = s.pending := rfl
@[simp] theorem toPhase_clock : (toPhase p s).clock = s.clock := rfl
@[simp] theorem toPhase_beads : (toPhase p s).beads = s.beads := rfl
@[simp] theorem toPhase_mmu : (toPhase p s).mmu = s.mmu := rfl
@[simp] theorem toPhase_fabric : (toPhase p s).fabric = s.fabric := rfl
@[simp] theorem toPhase_clasps : (toPhase p s).clasps = s.clasps := rfl
@[simp] theorem toPhase_mem : (toPhase p s).mem = s.mem := rfl
@[simp] theorem toPhase_bezels : (toPhase p s).bezels = s.bezels := rfl
@[simp] theorem toPhase_chain : (toPhase p s).chain = s.chain := rfl
@[simp] theorem toPhase_host : (toPhase p s).host = s.host := rfl
@[simp] theorem toPhase_mbxs : (toPhase p s).mbxs = s.mbxs := rfl
@[simp] theorem toPhase_nutas : (toPhase p s).nutas = s.nutas := rfl
@[simp] theorem toPhase_ledger : (toPhase p s).ledger = s.ledger := rfl
@[simp] theorem toPhase_commit : (toPhase p s).commit = s.commit := rfl
@[simp] theorem toPhase_faults : (toPhase p s).faults = s.faults := rfl
@[simp] theorem toPhase_hub : (toPhase p s).hub = s.hub := rfl
@[simp] theorem toPhase_asy : (toPhase p s).asy = s.asy := rfl
@[simp] theorem toPhase_power : (toPhase p s).power = s.power := rfl
@[simp] theorem toPhase_sec : (toPhase p s).sec = s.sec := rfl
@[simp] theorem toPhase_mgmt : (toPhase p s).mgmt = s.mgmt := rfl
@[simp] theorem toPhase_out : (toPhase p s).out = s.out := rfl
@[simp] theorem toPhase_free : (toPhase p s).free = s.free := rfl
end toPhase

/-! ### What reading back gives -/

theorem whenOk_next {ok : Bool} {t u : State} : whenOk s ok t = .next u ↔ u = if ok then t else s := by
  unfold whenOk
  simp [eq_comm]

@[simp] theorem whenOk_true (t : State) : whenOk s true t = .next t := rfl
@[simp] theorem whenOk_false (t : State) : whenOk s false t = .next s := rfl

theorem whenOk_of {ok : Bool} (h : ok = true) (t : State) : whenOk s ok t = .next t := by
  rw [h]
  rfl

@[simp] theorem emit_out (o : OutMsg) : (emit o s).out = s.out ++ [o] := rfl
@[simp] theorem setBead_beads (o : Nat) (b : Bead) : (setBead o b s).beads = tblSet {} s.beads o b := rfl
@[simp] theorem setBezel_bezels (z : Nat) (b : Bezel) : (setBezel z b s).bezels = tblSet {} s.bezels z b := rfl
@[simp] theorem setPort_ports (p : Nat) (v : Port) : (setPort p v s).chain.ports = tblSet {} s.chain.ports p v := rfl
@[simp] theorem setMbx_mbxs (m : Nat) (v : Mbx) : (setMbx m v s).mbxs = tblSet {} s.mbxs m v := rfl
@[simp] theorem setHost_host (h : HostLink) : (setHost h s).host = h := rfl
@[simp] theorem modNutas_nutas (f : Nutas → Nutas) : (modNutas f s).nutas = f s.nutas := rfl
@[simp] theorem modMgmt_mgmt (f : Mgmt → Mgmt) : (modMgmt f s).mgmt = f s.mgmt := rfl
@[simp] theorem modStandby_standby (f : Standby → Standby) : (modStandby f s).standby = f s.standby := rfl
@[simp] theorem modClock_clock (f : Clock → Clock) : (modClock f s).clock = f s.clock := rfl
@[simp] theorem modLedger_ledger (f : Ledger → Ledger) : (modLedger f s).ledger = f s.ledger := rfl

variable {s}

theorem beadOf_congr {t : State} (h : t.beads = s.beads) (o : Nat) : beadOf t o = beadOf s o := by simp [beadOf, h]
theorem bezelOf_congr {t : State} (h : t.bezels = s.bezels) (z : Nat) : bezelOf t z = bezelOf s z := by simp [bezelOf, h]
theorem portOf_congr {t : State} (h : t.chain = s.chain) (p : Nat) : portOf t p = portOf s p := by simp [portOf, h]
theorem mbxOf_congr {t : State} (h : t.mbxs = s.mbxs) (m : Nat) : mbxOf t m = mbxOf s m := by simp [mbxOf, h]

variable (s)

@[simp] theorem beadOf_setBead (o : Nat) (b : Bead) : beadOf (setBead o b s) o = b := by simp [beadOf]
theorem beadOf_setBead_other {o o' : Nat} (b : Bead) (h : o' ≠ o) : beadOf (setBead o b s) o' = beadOf s o' := by
  simp [beadOf, tblGet_tblSet_other, h]
@[simp] theorem beadOf_modBead (o : Nat) (f : Bead → Bead) : beadOf (modBead o f s) o = f (beadOf s o) :=
  beadOf_setBead s o _
theorem beadOf_modBead_other {o o' : Nat} (f : Bead → Bead) (h : o' ≠ o) : beadOf (modBead o f s) o' = beadOf s o' :=
  beadOf_setBead_other s _ h

@[simp] theorem bezelOf_setBezel (z : Nat) (b : Bezel) : bezelOf (setBezel z b s) z = b := by simp [bezelOf]
theorem bezelOf_setBezel_other {z z' : Nat} (b : Bezel) (h : z' ≠ z) : bezelOf (setBezel z b s) z' = bezelOf s z' := by
  simp [bezelOf, tblGet_tblSet_other, h]
@[simp] theorem bezelOf_modBezel (z : Nat) (f : Bezel → Bezel) : bezelOf (modBezel z f s) z = f (bezelOf s z) :=
  bezelOf_setBezel s z _
theorem bezelOf_modBezel_other {z z' : Nat} (f : Bezel → Bezel) (h : z' ≠ z) : bezelOf (modBezel z f s) z' = bezelOf s z' :=
  bezelOf_setBezel_other s _ h

@[simp] theorem portOf_setPort (p : Nat) (v : Port) : portOf (setPort p v s) p = v := by simp [portOf]
theorem portOf_setPort_other {p p' : Nat} (v : Port) (h : p' ≠ p) : portOf (setPort p v s) p' = portOf s p' := by
  simp [portOf, tblGet_tblSet_other, h]
@[simp] theorem portOf_modPort (p : Nat) (f : Port → Port) : portOf (modPort p f s) p = f (portOf s p) :=
  portOf_setPort s p _
theorem portOf_modPort_other {p p' : Nat} (f : Port → Port) (h : p' ≠ p) : portOf (modPort p f s) p' = portOf s p' :=
  portOf_setPort_other s _ h

@[simp] theorem mbxOf_setMbx (m : Nat) (v : Mbx) : mbxOf (setMbx m v s) m = v := by simp [mbxOf]
theorem mbxOf_setMbx_other {m m' : Nat} (v : Mbx) (h : m' ≠ m) : mbxOf (setMbx m v s) m' = mbxOf s m' := by
  simp [mbxOf, tblGet_tblSet_other, h]
@[simp] theorem mbxOf_modMbx (m : Nat) (f : Mbx → Mbx) : mbxOf (modMbx m f s) m = f (mbxOf s m) :=
  mbxOf_setMbx s m _
theorem mbxOf_modMbx_other {m m' : Nat} (f : Mbx → Mbx) (h : m' ≠ m) : mbxOf (modMbx m f s) m' = mbxOf s m' :=
  mbxOf_setMbx_other s _ h

@[simp] theorem claspCount_setClasp (k n : Nat) : claspCount (setClasp k n s) k = n % 65536 := by
  simp [claspCount, setClasp]
theorem claspCount_setClasp_other {k k' : Nat} (n : Nat) (h : k' ≠ k) : claspCount (setClasp k n s) k' = claspCount s k' := by
  simp [claspCount, setClasp, tblGet_tblSet_other, h]
@[simp] theorem waitersOf_setWaiters (k : Nat) (l : List Waiter) : waitersOf (setWaiters k l s) k = l := by
  simp [waitersOf, setWaiters]
theorem waitersOf_setWaiters_other {k k' : Nat} (l : List Waiter) (h : k' ≠ k) :
    waitersOf (setWaiters k l s) k' = waitersOf s k' := by
  simp [waitersOf, setWaiters, tblGet_tblSet_other, h]
@[simp] theorem arrivals_setArrivals (n : Nat) (l : List Msg) : arrivals (setArrivals n l s) n = l := by
  simp [arrivals, setArrivals]

@[simp] theorem hartOf_setHart (h : Nat) (t : Hart) (b : Bead) : hartOf (setHart h t b) h = t := by simp [hartOf, setHart]
theorem hartOf_setHart_other {h h' : Nat} (t : Hart) (b : Bead) (n : h' ≠ h) : hartOf (setHart h t b) h' = hartOf b h' := by
  simp [hartOf, setHart, tblGet_tblSet_other, n]
@[simp] theorem hartOf_modHart (h : Nat) (f : Hart → Hart) (b : Bead) : hartOf (modHart h f b) h = f (hartOf b h) :=
  hartOf_setHart h _ b
theorem hartOf_modHart_other {h h' : Nat} (f : Hart → Hart) (b : Bead) (n : h' ≠ h) :
    hartOf (modHart h f b) h' = hartOf b h' := hartOf_setHart_other _ b n
@[simp] theorem queueOf_setQueue (q : Nat) (v : Queue) (b : Bead) : queueOf (setQueue q v b) q = v := by
  simp [queueOf, setQueue]
theorem queueOf_setQueue_other {q q' : Nat} (v : Queue) (b : Bead) (n : q' ≠ q) :
    queueOf (setQueue q v b) q' = queueOf b q' := by
  simp [queueOf, setQueue, tblGet_tblSet_other, n]

/-- A retired instruction: the hart changed, the other harts and the other beads as they were. -/
theorem retire_hart (o : Ord) (h : HartN) (f : Hart → Hart) :
    hartOf (beadOf (retire o h f s) o.val) h.val = f (hartOf (beadOf s o.val) h.val) := by
  rw [retire, beadOf_congr (countEv_beads _ _ _ _), beadOf_modBead]
  exact hartOf_modHart _ f _
theorem retire_other {o : Ord} {o' : Nat} (h : HartN) (f : Hart → Hart) (n : o' ≠ o.val) :
    beadOf (retire o h f s) o' = beadOf s o' := by
  rw [retire, beadOf_congr (countEv_beads _ _ _ _), beadOf_modBead_other _ _ n]

end Sys2Proof.Laws
end

