-- ==== Sys2Proof/Tests/Slice0.lean ====
section
/-! SUPPORT. Tests: an ill-formed command for every check of WellFormed, and for the statements concrete states that meet
their hypotheses, each with what the command then does. Expected values are the rules' own. -/

set_option Elab.async false

namespace Sys2Proof.Tests

open Sys2Proof Sys2Proof.Machine

/-- The outcome is a next state of which `p` holds. -/
def okWith (o : Host.Outcome State Fault Refusal) (p : State → Bool) : Bool :=
  match o with
  | .next t => p t
  | _ => false

/-- The module with its main domains up, Nutas running and the host link UP. -/
def up : State := { State.reset with
  standby := { State.reset.standby with standby := true, mainUp := true, enableIn := true, phase := 7 }
  host := { State.reset.host with link := 2 } }

/-- The module in arbitrated mode. -/
def arb : State := { up with clock := { up.clock with mode := .arbitrated } }

/-- The module in scheduled mode. -/
def sched : State := { up with clock := { up.clock with mode := .scheduled } }

/-- A bead as its ordinal 5. -/
def withBead (b : Bead) (s : State) : State := { s with beads := [(5, b)] }

/-- A record of a class and a source waits. -/
def recorded (cls source : Nat) (t : State) : Bool :=
  t.faults.waiting.any fun r => r.cls == BitVec.ofNat 8 cls && r.source == BitVec.ofNat 12 source

/-- At a ck of the tick. -/
def atCk (ck : Nat) (s : State) : State := { s with clock := { s.clock with ck := ck } }

/-! ### WellFormed: a term that each check refuses -/

theorem test_wf_beads_phase : Instr.wf (.beadsPhase [(3, true), (3, false)]) = false := by decide +kernel
theorem test_wf_tick_boundary_twice : Instr.wf (.tickBoundary 0 0 0 [8, 8]) = false := by decide +kernel
theorem test_wf_tick_boundary_no_spare : Instr.wf (.tickBoundary 0 0 0 [7]) = false := by decide +kernel
theorem test_wf_host_line : [Instr.memRd 32, .memWr 32 0 false, .memWrPtl 32 0 ⟨0, false⟩, .memInv 32, .memSpecRd 32].all
    (fun i => !i.wf) = true := by decide +kernel
theorem test_wf_mgmt_frame : [Instr.mgmtDataFrame, .mgmtAckFrame, .mgmtNakFrame, .mgmtIdleFrame].all
    (fun i => !(i ⟨1, 0, 0, 0, List.replicate 1025 0, 0⟩).wf) = true := by decide +kernel
theorem test_wf_shadow_load : Instr.wf (.shadowLoad 0) = false := by decide +kernel
theorem test_wf_rereads : Instr.wf (.uncorrReread []) = false ∧ Instr.wf (.uncorrReread (List.replicate 8 0)) = false := by
  decide +kernel
theorem test_wf_control_window : Instr.wf (.controlWindowWrite .host 0x1000000 8 0) = false := by decide +kernel

/-! ### The whole machine -/

theorem test_step_runs_front : okWith (step { State.reset with pending := [.powerApplied, .romPhase] })
    (fun t => t.standby.standby && t.pending == [.romPhase]) = true := by decide +kernel

theorem test_idle_ck : okWith (step { up with clock := { up.clock with ck := 16382 } }) (fun t => t.clock.ck == 16383) = true ∧
    okWith (step { up with clock := { up.clock with ck := 16383 } }) (fun t => t.clock.ck == 16383) = true ∧
    okWith (step State.reset) (fun t => t.clock.ck == 0) = true := by decide +kernel

theorem test_event_out_of_place : exec .romPhase State.reset = .next State.reset := rfl

theorem test_granule_put : (({} : Memory).wf) ∧ codeAt (codePut {} 7 (encodeGran 0x123)) 7 = encodeGran 0x123 := by
  decide +kernel

/-- A state and a step with the hypotheses of the statements about every step. -/
theorem witness_every_step : ∃ s t, Safe s ∧ step s = .next t :=
  ⟨{ State.reset with pending := [.powerApplied] }, _, by
    constructor <;> first | (intro _; exact Nat.zero_le _) | decide, rfl⟩

/-! ### Power and bring-up -/

theorem test_power_applied : okWith (exec .powerApplied State.reset) (fun t => t.standby.standby && !t.standby.mainUp) = true := by
  decide +kernel
theorem test_overvoltage_recovery :
    okWith (exec .overvoltageRecovery { up with standby := { up.standby with overvolt := true } })
      (fun t => !t.standby.overvolt) = true := by decide +kernel
theorem test_power_cycle_hold_end :
    okWith (exec .powerCycleHoldEnd { up with standby := { up.standby with cycling := true, holdOff := true } })
      (fun t => !t.standby.cycling && !t.standby.holdOff) = true := by decide +kernel
/-- R742: PHASE becomes RAMP, FAIL 0 and BOOTS counts up. -/
theorem test_bring_up_start :
    okWith (exec .bringUpStart { State.reset with standby := { State.reset.standby with
        standby := true, enableIn := true, fail := 3, boots := 6 } })
      (fun t => t.standby.phase == 1 && t.standby.fail == 0 && t.standby.boots == 7) = true := by decide +kernel
theorem test_bring_up_start_held :
    exec .bringUpStart { up with standby := { up.standby with phase := 0, holdOff := true } } =
      .next { up with standby := { up.standby with phase := 0, holdOff := true } } := rfl
theorem test_loss_tmo : okWith (exec .lossTmoExpiry { up with standby := { up.standby with owner := true } })
    (fun t => t.standby.release) = true := by decide +kernel
/-- R776: the main domains ramp down; ENABLE and HOLD_OFF are as before. -/
theorem test_overvoltage_stop : okWith (exec .overvoltageStop { arb with hub := { arb.hub with pend := 1 } })
    (fun t => t.standby.overvolt && t.standby.phase == 0 && !t.standby.mainUp && t.clock == {} && t.hub == {} &&
      t.standby.enableIn) = true := by decide +kernel
theorem test_enable_falls : okWith (exec (.enableChange false) arb)
    (fun t => !t.standby.enableIn && t.standby.phase == 0 && t.clock.mode == .quiescent) = true := by decide +kernel
theorem test_enable_rises : okWith (exec (.enableChange true) State.reset)
    (fun t => t == { State.reset with standby := { State.reset.standby with enableIn := true } }) = true := by decide +kernel
/-- R756: the image slots and the fuses stay; a fault record does not. -/
theorem test_input_voltage_loss :
    okWith (exec .inputVoltageLoss { up with
        standby := { up.standby with imgA := [1], rollback := 9 }, faults := { up.faults with nextSeq := 4 } })
      (fun t => !t.standby.standby && t.standby.imgA == [1] && t.standby.rollback == 9 && t.faults == {}) = true := by
  decide +kernel

/-- The module in a phase of bring-up. -/
def inPhase (p : BitVec 4) : State := { up with standby := { up.standby with phase := p } }

theorem test_ramp_ok : okWith (exec (.rampPhase .ok) { inPhase 1 with
      standby := { (inPhase 1).standby with mainUp := false, fallback := true, tried := true }, faults := { nextSeq := 12 } })
    (fun t => t.standby.phase == 2 && t.standby.mainUp && t.standby.fallback && !t.standby.tried && t.ledger.cur.fseq == 12) = true := by
  decide +kernel
theorem test_ramp_fails : okWith (exec (.rampPhase .rail) (inPhase 1)) (fun t => t.standby.phase == 8 && t.standby.fail == 1) = true ∧
    okWith (exec (.rampPhase .clock) (inPhase 1)) (fun t => t.standby.phase == 8 && t.standby.fail == 2) = true := by
  decide +kernel
/-- R745: with no image in either slot the boot fails with IMAGE. -/
theorem test_rom_fails : okWith (exec .romPhase (inPhase 2)) (fun t => t.standby.phase == 8 && t.standby.fail == 3) = true := by
  decide +kernel
theorem test_stage1_falls_back : okWith (exec .stage1Phase (inPhase 3))
    (fun t => t.standby.phase == 2 && t.standby.tried) = true := by decide +kernel
theorem test_stacks : okWith (exec (.stacksPhase none) { inPhase 4 with
      mem := { cells := [(7, 1)] }, standby := { (inPhase 4).standby with retires := [(3 * 2 ^ 25 + 9, 1)] } })
    (fun t => t.standby.phase == 5 && t.mem.cells == [] && (bezelOf t 3).redirect == [(9, 1)]) = true := by decide +kernel
theorem test_stacks_fail : okWith (exec (.stacksPhase (some (15, 31))) (inPhase 4))
    (fun t => t.standby.fail == 4 && t.standby.failStack == 15 && t.standby.failChan == 31) = true := by decide +kernel
set_option maxRecDepth 100000 in
/-- R751: the spare serves for the first failed position of its string, the second is open. -/
theorem test_beads : okWith (exec (.beadsPhase [(1, true), (2, false)]) (inPhase 5))
    (fun t => t.standby.phase == 6 && posState t 1 == 4 && posState t 2 == 5 && posState t 8 == 3 && posState t 3 == 1) = true := by
  decide +kernel
theorem test_fabric : okWith (exec (.fabricPhase true) (inPhase 6)) (fun t => t.clock.fabricOk && t.standby.phase == 6) = true ∧
    okWith (exec (.fabricPhase false) (inPhase 6)) (fun t => t.standby.fail == 5) = true := by decide +kernel
theorem test_ready : okWith (exec (.readyPhase 123) { inPhase 6 with clock := { (inPhase 6).clock with mode := .arbitrated } })
    (fun t => t.standby.phase == 7 && t.standby.ms == 123 && t.host.link == 1) = true := by decide +kernel
theorem test_phase_timeout : okWith (exec .bringUpPhaseTimeout (inPhase 6)) (fun t => t.standby.fail == 6) = true := by
  decide +kernel

/-! ### The tick boundary -/

/-- A state at the last ck of its tick. -/
def lastCk (s : State) : State := { s with clock := { s.clock with ck := 16383 } }

set_option maxRecDepth 100000 in
/-- R20, R780, R781, R793. -/
theorem test_boundary : okWith (exec (.tickBoundary 4000 109 513 []) (lastCk arb))
    (fun t => t.clock.tick == 1 && t.clock.ck == 0 && t.power.ptick == 4000 && t.power.tjmax == 109 && t.power.vin == 513 &&
      t.clock.mode == .arbitrated) = true := by decide +kernel
set_option maxRecDepth 100000 in
/-- R752: the fabric that has passed opens in arbitrated mode. -/
theorem test_boundary_opens : okWith (exec (.tickBoundary 0 0 0 []) (lastCk { inPhase 6 with
      clock := { (inPhase 6).clock with fabricOk := true } })) (fun t => t.clock.mode == .arbitrated) = true := by decide +kernel
/-- A scheduled module in which bead 5's queue has not emptied. -/
def late : State := withBead { queues := [(0, { ents := [
  { id := 1, word := 0, insn := .l1InvA, hart := 0, v1 := 0, v2 := 0, v3 := 0, tcfg := 0, d1 := 0, d2 := 0, startRow := 0 }] })] }
  (lastCk sched)
set_option maxRecDepth 100000 in
/-- R34: an overrun opens a hold tick. -/
theorem test_boundary_hold : reachable late = [] ∧ (ownCheck late).1 = true ∧ okWith (exec (.tickBoundary 0 0 0 []) late)
    (fun t => t.clock.mode == .scheduled && t.clock.hold && !t.clock.replay && t.clock.overrunTick == 0) = true := by
  decide +kernel
set_option maxRecDepth 100000 in
/-- R35: the replay of the overrun tick's work follows. -/
theorem test_boundary_replay : okWith (exec (.tickBoundary 0 0 0 []) { lastCk sched with
      clock := { (lastCk sched).clock with hold := true, tick := 6, overrunTick := 5 } })
    (fun t => !t.clock.hold && t.clock.replay && t.clock.workTick == 5 && t.clock.tick == 7) = true := by decide +kernel

/-! ### Clasps -/

/-- R445: the count covers N exactly. -/
theorem test_clasp_satisfied : okWith (exec (.claspWaiterSatisfied (.module 4095)) { up with clasps := { up.clasps with
      count := [(131072 + 4095, 3)], waiters := [(131072 + 4095, [⟨3, none, .node 0x810 7⟩])] } })
    (fun t => claspCount t (131072 + 4095) == 0 && waitersOf t (131072 + 4095) == []) = true := by decide +kernel
theorem test_clasp_timeout : okWith (exec (.claspWaitTimeout (.bead 0 63)) { up with clasps := { up.clasps with
      count := [(63, 2)], waiters := [(63, [⟨3, some 0, .node 0x810 7⟩, ⟨1, some 1, .node 0x810 8⟩])] } })
    (fun t => claspCount t 63 == 2 && waitersOf t 63 == [⟨1, some 1, .node 0x810 8⟩]) = true := by decide +kernel

/-! ### Registers -/

theorem test_half_access : rdWidth .high 0x1122334455667788 = 0x11223344 ∧ wrWidth .high 0x1122334455667788 0x99 = 0x9955667788 ∧
    wrWidth .low 0x1122334455667788 0x99 = 0x1122334400000099 ∧ rc .low 32 31 1 0 = 1 ∧ rc .low 31 16 1 0 = 0 := by decide +kernel
theorem test_clp_stat : okWith (exec (.clpStatRead .low) { up with clasps := { up.clasps with mismatch := 2, late := 3 } })
    (fun t => t.out == [.regValue 2] && t.clasps.mismatch == 0 && t.clasps.late == 3) = true := by decide +kernel
theorem test_chn_err_stat : okWith (exec (.chnErrStatRead 15 .full) { up with chain := { up.chain with ports := [(15, { crcErr := 9, tlost := 4 })] } })
    (fun t => t.out == [.regValue (9 + 4 * 2 ^ 40)] && (portOf t 15).crcErr == 0 && (portOf t 15).tlost == 0) = true := by decide +kernel
theorem test_red_stat : okWith (exec (.bzlRedStatRead 3 .high) { up with bezels := [(3, { dup := 1, chkMiss := 5 })] })
    (fun t => t.out == [.regValue (5 * 2 ^ 16)] && (bezelOf t 3).dup == 1 && (bezelOf t 3).chkMiss == 0) = true := by decide +kernel
theorem test_ecc_stat : okWith (exec (.bzlEccStatRead 3 .full) { up with bezels := [(3, { corr1 := 1, poison := 5 })] })
    (fun t => t.out == [.regValue (1 + 5 * 2 ^ 48)] && (bezelOf t 3).corr1 == 0 && (bezelOf t 3).poison == 0) = true := by decide +kernel
theorem test_flt_stat_down : okWith (exec (.fltStatRead .full) { State.reset with faults := { dropped := 7 } })
    (fun t => t.out == [.regValue (7 * 2 ^ 56)] && t.faults.dropped == 0) = true := by decide +kernel
theorem test_hlk_err_stat : okWith (exec (.hlkErrStatRead .low) { up with host := { up.host with corr := 1, linkDown := 2 } })
    (fun t => t.out == [.regValue 1] && t.host.corr == 0 && t.host.linkDown == 2) = true := by decide +kernel
theorem test_ldg_ovr : okWith (exec (.ldgOvrRead .high) { up with ledger := { up.ledger with replays := 1, ends := 2 } })
    (fun t => t.out == [.regValue 2] && t.ledger.replays == 1 && t.ledger.ends == 0) = true := by decide +kernel
theorem test_ldg_trace_stat : okWith (exec (.ldgTraceStatRead .full) { up with ledger := { up.ledger with written := 1, lost := 2 } })
    (fun t => t.out == [.regValue (1 + 2 * 2 ^ 32)] && t.ledger.written == 1 && t.ledger.lost == 0) = true := by decide +kernel
theorem test_asy_stat : okWith (exec (.asyStatRead .full) { up with asy := { up.asy with seq := 1, skip := 2 } })
    (fun t => t.out == [.regValue (1 + 2 * 2 ^ 32)] && t.asy.skip == 0) = true := by decide +kernel
theorem test_pwr_stat : okWith (exec (.pwrStatRead .high) { up with power := { up.power with hotCnt := 2, duty := 8 } })
    (fun t => t.out == [.regValue (8 + 2 * 2 ^ 16)] && t.power.hotCnt == 0) = true := by decide +kernel
/-- R639: the host may not write a register of the management port's module. -/
theorem test_forbidden : mayWrite up .mgmt 0x000038 = false ∧ mayWrite up .mgmt 0x0A0010 = false ∧
    mayWrite up .host 0x060008 = false ∧ mayWrite up .host 0x050000 = false ∧
    [Instr.commitReq .mgmt, .commitCancel .mgmt, .secCtlLock .mgmt, .chnTimingWrite .mgmt .full 0, .clpValueWrite .host .full 0,
      .mgtPwrWrite .host .full 1, .hlkBiRangeWrite .mgmt .full 0, .ldgTraceWrite .mgmt .full 1, .bzlRedCfgWrite .mgmt 0 .full 0,
      .bzlRetrainGo .mgmt 0 0, .bzlRetireGo .mgmt 0, .mbxDoorbell 8 .host 0, .mbxRst 0 .mgmt, .irqMaskSet .host 36 0 1,
      .irqMaskClr .mgmt 4 0 1, .irqPendSet .host 0 1, .irqPendClr .mgmt 0 1, .mgtOwnGrant .core, .mgtOwnDeny .mgmt].all
    (fun c => okWith (exec c up) (recorded 0x16 blkLocket)) = true := by decide +kernel
theorem test_main_down : [Instr.clpStatRead .full, .irqClaim .core 0, .commitReq .host, .bzlRetireGo .host 3].all
    (fun c => okWith (exec c { State.reset with faults := { nextSeq := 3 } })
      (fun t => t == { State.reset with faults := { nextSeq := 3 } })) = true := by decide +kernel
theorem test_mask : mayWrite up .core (offMaskSet 36 31) = true ∧
    okWith (exec (.irqMaskClr .host 35 2 0x20) up) (fun t => !(hubMask t.hub 35).getLsbD 133 && (hubMask t.hub 35).getLsbD 132 &&
      (hubMask t.hub 34).getLsbD 133) = true ∧
    okWith (exec (.irqMaskSet .host 35 2 0x20) { up with hub := { up.hub with mask := [(35, 0)] } })
      (fun t => (hubMask t.hub 35).getLsbD 133 && !(hubMask t.hub 35).getLsbD 132) = true := by decide +kernel
theorem test_hub_event : okWith (exec (.hubEvent 138) { up with hub := { up.hub with cnt := [(138, 255)] } })
    (fun t => t.hub.pend.getLsbD 138 && tblGet 0 t.hub.cnt 138 == 255) = true := by decide +kernel
/-- Sources 128 to 138 are assigned, 139 is reserved (R658). -/
theorem test_pend_set_clr : mayWrite up .core (offPendSet 2) = true ∧
    okWith (exec (.irqPendSet .core 2 0xC00) up) (fun t => t.hub.pend == srcBit 138 && tblGet 0 t.hub.cnt 138 == 1) = true ∧
    okWith (exec (.irqPendClr .core 2 0x400) { up with hub := { up.hub with pend := srcBit 138 ||| 1, cnt := [(138, 3)] } })
      (fun t => t.hub.pend == 1 && t.hub.cnt == []) = true := by decide +kernel
/-- R648: the highest-numbered eligible source. -/
theorem test_claim : okWith (exec (.irqClaim .host 4) { up with hub := { up.hub with
      pend := srcBit 5 ||| srcBit 133, cnt := [(5, 1), (133, 2)], mask := [(4, 0)]
      pendWas := srcBit 5 ||| srcBit 133, cntWas := [(5, 1), (133, 2)], maskWas := [(4, 0)] } })
    (fun t => t.out == [.regValue (133 + 2 * 65536 + 2 ^ 31)] && t.hub.pend == srcBit 5 && t.hub.cnt == [(5, 1)]) = true ∧
    okWith (exec (.irqClaim .core 4) up) (fun t => t.out == [.regValue 0]) = true := by decide +kernel
theorem test_bi_range : mayWrite up .host 0x090018 = true ∧
    okWith (exec (.hlkBiRangeWrite .host .full (3 + 64 * 1024)) up) (fun t => t.host.biBase == 3 && t.host.biSize == 64) = true ∧
    okWith (exec (.hlkBiRangeWrite .host .full (3 + 65 * 1024)) up) (fun t => t.host.biBase == 3 && t.host.biSize == 0) = true ∧
    okWith (exec (.hlkBiRangeWrite .host .full 3) { up with host := { up.host with memEn := true } })
      (fun t => t.host.biBase == 0) = true ∧
    okWith (exec (.hlkBiRangeWrite .host .high 3) up) (fun t => t == up) = true := by decide +kernel
theorem test_commit_ctl : mayWrite up .host 0x000038 = true ∧ okWith (exec (.commitReq .host) up) (fun t => t.commit.waiting) = true ∧
    okWith (exec (.commitReq .host) { up with commit := { up.commit with armed := true } }) (fun t => !t.commit.waiting) = true ∧
    okWith (exec (.commitCancel .host) { up with commit := { up.commit with waiting := true } }) (fun t => !t.commit.waiting) = true ∧
    okWith (exec (.commitCancel .host) { up with commit := { up.commit with armed := true } }) (fun t => t.commit.armed) = true := by
  decide +kernel
theorem test_sec_lock : mayWrite up .host 0x070008 = true ∧ okWith (exec (.secCtlLock .host) up) (fun t => t.sec.lock) = true := by
  decide +kernel
theorem test_ldg_trace : mayWrite up .host 0x000040 = true ∧
    okWith (exec (.ldgTraceWrite .host .full (1 + 0xFFFFFFF * 4096 + 2 ^ 48)) up)
      (fun t => t.ledger.traceEn && t.ledger.traceBase == 0xFFFFFFF && t.ledger.traceSize == 1) = true ∧
    okWith (exec (.ldgTraceWrite .host .full (1 + 0xFFFFFFF * 4096 + 2 * 2 ^ 48)) up) (fun t => !t.ledger.traceEn) = true ∧
    okWith (exec (.ldgTraceWrite .host .full 0) { up with ledger := { up.ledger with traceEn := true, traceSize := 5 } })
      (fun t => !t.ledger.traceEn && t.ledger.traceSize == 5) = true := by decide +kernel
/-- The port's calibration begins where it can; a second GO does nothing more (R503, R509). -/
theorem test_cal_go : mayWrite up .host 0x0A0018 = true ∧
    okWith (exec (.chnCalGo .host 2) { up with chain := { up.chain with ports := [(2, { st := .up })] } })
      (fun t => t.chain.calPort == 2 && (portOf t 2).cal) = true ∧
    okWith (exec (.chnCalGo .host 2) up) (fun t => t.chain.calPort == 2 && !(portOf t 2).cal) = true := by decide +kernel
/-- WINDOW takes 4 and more, and not less than the greatest port delay and 64 ck allow (R498). -/
theorem test_chn_timing : mayWrite up .host 0x0A0010 = true ∧
    okWith (exec (.chnTimingWrite .host .full (4 + 6 * 256)) up) (fun t => t.chain.window == 4 && t.chain.rspTmo == 6) = true ∧
    okWith (exec (.chnTimingWrite .host .full 3) up) (fun t => t.chain.window == 8 && t.faults.waiting == []) = true ∧
    okWith (exec (.chnTimingWrite .host .full 4) { up with chain := { up.chain with ports := [(2, { st := .up, delay := 65 })] } })
      (fun t => t.chain.window == 8 && recorded 0x16 blkLocket t) = true := by decide +kernel
theorem test_red_cfg : mayWrite up .host (offBzl 15 0) = true ∧
    okWith (exec (.bzlRedCfgWrite .host 15 .full (65536 + 33488896 * 2 ^ 17)) up)
      (fun t => (bezelOf t 15).nblk == 65536 && (bezelOf t 15).intakeLo == 33488896) = true ∧
    okWith (exec (.bzlRedCfgWrite .host 15 .full (65536 + 33488897 * 2 ^ 17)) up)
      (fun t => (bezelOf t 15).nblk == 0 && recorded 0x16 blkLocket t) = true ∧
    okWith (exec (.bzlRedCfgWrite .host 15 .full 1) { up with nutas := { up.nutas with plan := { phase := .running } } })
      (fun t => (bezelOf t 15).nblk == 0 && recorded 0x16 blkLocket t) = true := by decide +kernel
theorem test_retrain_go : okWith (exec (.bzlRetrainGo .host 15 31) up)
      (fun t => (bezelOf t 15).retrainPhase == .copy && (bezelOf t 15).retrainCh == 31 && (bezelOf t 15).retrainLeft == 8576) = true ∧
    okWith (exec (.bzlRetrainGo .host 15 31) { up with bezels := [(2, { retrainPhase := .remap })] })
      (fun t => (bezelOf t 15).retrainPhase == .idle && (bezelOf t 15).retrainSel == 31) = true := by decide +kernel
theorem test_retire_go : okWith (exec (.bzlRetireGo .host 1) { up with bezels := [(1, { retireFrame := 9 })] })
    (fun t => (bezelOf t 1).retiring == [9]) = true := by decide +kernel
/-- R631, R632: HOLD_OFF set ramps the main domains down, cleared it does not start them. -/
theorem test_mgt_pwr : okWith (exec (.mgtPwrWrite .mgmt .full 1) arb) (fun t => t.standby.holdOff && t.standby.phase == 0) = true ∧
    okWith (exec (.mgtPwrWrite .core .full 0) { State.reset with standby := { State.reset.standby with holdOff := true } })
      (fun t => !t.standby.holdOff && t.standby.phase == 0) = true := by decide +kernel
theorem test_mgt_own : okWith (exec (.mgtOwnGrant .host) { up with standby := { up.standby with pending := true } })
      (fun t => t.standby.granted) = true ∧
    okWith (exec (.mgtOwnDeny .host) { up with standby := { up.standby with pending := true, graceLeft := 3 } })
      (fun t => !t.standby.pending && t.standby.graceLeft == 0) = true ∧
    okWith (exec (.mgtOwnGrant .host) up) (fun t => t == up) = true ∧ okWith (exec (.mgtOwnDeny .host) up) (fun t => t == up) = true := by
  decide +kernel
theorem test_clp_value : clpKey up = some 0 ∧ okWith (exec (.clpValueWrite .mgmt .full 0x12345) up)
    (fun t => claspCount t 0 == 0 && claspCount (claspCk t) 0 == 0x2345 && (claspCk t).clasps.mgmtWrite == 1 && recorded 0x0C (claspBlk 0) (claspCk t) &&
      (claspCk t).hub.pend.getLsbD 132) = true := by
  decide +kernel
/-- A host mailbox of 16 entries, enabled, on an up link. -/
def mbx0 (q : Mbx) (s : State) : State := { s with
  mbxs := [(0, { q with en := true })], host := { s.host with cacheEn := true, memEn := true, link := 2 } }
/-- R585, R586: 15 entries fit in a ring of 16. -/
theorem test_doorbell : okWith (exec (.mbxDoorbell 0 .host 15) (mbx0 {} up)) (fun t => (mbxOf t 0).tail == 15 && !(mbxOf t 0).err) = true ∧
    okWith (exec (.mbxDoorbell 0 .host 2) (mbx0 { head := 3, tail := 1 } up)) (fun t => (mbxOf t 0).tail == 2) = true ∧
    okWith (exec (.mbxDoorbell 0 .host 3) (mbx0 { head := 3, tail := 1 } up))
      (fun t => (mbxOf t 0).errCode == 2 && recorded 0x15 blkLocket t) = true ∧
    okWith (exec (.mbxDoorbell 0 .host 3) (mbx0 { err := true } up)) (fun t => (mbxOf t 0).tail == 0) = true := by decide +kernel
theorem test_mbx_rst : okWith (exec (.mbxRst 0 .host) (mbx0 { head := 3, tail := 4, phase := false } up))
      (fun t => mbxOf t 0 == { en := true }) = true ∧
    okWith (exec (.mbxRst 0 .host) { mbx0 {} up with nutas := { up.nutas with cmds := [⟨1, 0, 0, true⟩, ⟨2, 0, 0, false⟩, ⟨3, 1, 0, false⟩] } })
      (fun t => (mbxOf t 0).rst && t.nutas.cmds.map (·.num) == [1, 3]) = true := by decide +kernel
theorem test_control_window : accessWidth 3 4 = none ∧
    okWith (exec (.controlWindowWrite .host 3 4 0) up) (recorded 0x14 blkCxl) = true ∧
    okWith (exec (.controlWindowWrite .host 0xFFFFF8 8 0) up) (recorded 0x16 blkLocket) = true ∧
    okWith (exec (.controlWindowWrite .core 0x060000 8 0x1ABCDEF) up) (fun t => t.clasps.sel == 0xABCDEF) = true ∧
    okWith (exec (.controlWindowWrite .host 0x000030 8 5) up) (fun t => t.commit.regions == 5) = true := by decide +kernel

/-! ### The harts of a bead -/

/-- An instruction word at 0x1000. -/
def word (w : Nat) : IBank := { code := [(0x1000, BitVec.ofNat 8 w), (0x1001, BitVec.ofNat 8 (w / 256)),
  (0x1002, BitVec.ofNat 8 (w / 65536)), (0x1003, BitVec.ofNat 8 (w / 16777216))] }

/-- Bead 5 with its hart 0 at an instruction word. -/
def at_ (w : Nat) (h : Hart) (b : Bead := {}) : State :=
  withBead { b with harts := [(0, { h with pc := 0x1000, run := .running })], active := word w } sched

/-- Bead 5 and its hart 0. -/
def bd (t : State) : Bead := beadOf t 5
def h0 (t : State) : Hart := hartOf (bd t) 0
def insnOf (s : State) : Option Insn := (fetched s 5 0).map (·.insn)

/-- add x3, x1, x2 and addi x3, x1, -1 wrap at 64 bits. -/
theorem test_add : insnOf (at_ 0x002081B3 {}) = some (.op 0 0 false 3 1 2) ∧
    okWith (exec (.scalarInstruction 5 0) (at_ 0x002081B3 { x := [(1, 0xFFFFFFFFFFFFFFFF), (2, 2)] }))
      (fun t => xReg (h0 t) 3 == 1 && (h0 t).pc == 0x1004) = true ∧ insnOf (at_ 0xFFF08193 {}) = some (.opImm 0 false false 3 1 (-1)) ∧
    okWith (exec (.scalarInstruction 5 0) (at_ 0xFFF08193 {})) (fun t => xReg (h0 t) 3 == 0xFFFFFFFFFFFFFFFF) = true := by
  decide +kernel
/-- jal x1, 2048; beq x1, x2, 8; sub, sra, mulh, div by zero. -/
theorem test_jumps : insnOf (at_ 0x001000EF {}) = some (.jal 1 2048) ∧
    okWith (exec (.scalarInstruction 5 0) (at_ 0x001000EF {})) (fun t => (h0 t).pc == 0x1800 && xReg (h0 t) 1 == 0x1004) = true ∧
    insnOf (at_ 0x00208463 {}) = some (.branch 0 1 2 8) ∧
    okWith (exec (.scalarInstruction 5 0) (at_ 0x00208463 {})) (fun t => (h0 t).pc == 0x1008) = true ∧
    okWith (exec (.scalarInstruction 5 0) (at_ 0x0220C1B3 { x := [(1, 7)] })) (fun t => xReg (h0 t) 3 == 0xFFFFFFFFFFFFFFFF) = true := by
  decide +kernel
/-- ecall in U mode, an illegal word, mret in U and in M mode. -/
theorem test_traps : insnOf (at_ 0x73 {}) = some .ecall ∧ insnOf (at_ 0 {}) = some .illegal ∧ insnOf (at_ 0x30200073 {}) = some .mret ∧
    okWith (exec (.scalarInstruction 5 0) (at_ 0x73 { userMode := true, mtvec := 0x2001, mstatus := 8 }))
      (fun t => (h0 t).mcause == 8 && (h0 t).mepc == 0x1000 && (h0 t).pc == 0x2000 && !(h0 t).userMode && (h0 t).mstatus == 0x80) = true ∧
    okWith (exec (.scalarInstruction 5 0) (at_ 0x30200073 { userMode := true })) (fun t => (h0 t).mcause == 2 && (h0 t).mtval == 0x30200073) = true ∧
    okWith (exec (.scalarInstruction 5 0) (at_ 0x30200073 { mepc := 0x1234, mstatus := 0x80 }))
      (fun t => (h0 t).pc == 0x1234 && (h0 t).userMode && (h0 t).mstatus == 0x88) = true := by decide +kernel
theorem test_wfi : insnOf (at_ 0x10500073 {}) = some .wfi ∧
    okWith (exec (.wfi 5 0) (at_ 0x10500073 {})) (fun t => (h0 t).run == .wfi && (h0 t).pc == 0x1004) = true ∧
    okWith (exec (.wfi 5 0) (at_ 0x10500073 { qfie := true } { queues := [(2, { stop := true })] }))
      (fun t => (h0 t).run == .running) = true := by decide +kernel
theorem test_fence : insnOf (at_ 0x0FF0000F {}) = some (.fence 15) ∧
    okWith (exec (.fence 5 0) (at_ 0x0FF0000F { stores := 1 })) (fun t => (h0 t).hold == .fence && (h0 t).pc == 0x1000) = true ∧
    okWith (exec (.fence 5 0) (at_ 0x0FF0000F {})) (fun t => (h0 t).pc == 0x1004) = true ∧ insnOf (at_ 0x100F {}) = some .fenceI ∧
    okWith (exec (.fenceI 5 0) (at_ 0x100F {})) (fun t => (h0 t).pc == 0x1004) = true ∧
    okWith (exec (.fenceI 5 0) (at_ 0x100F { stores := 2 })) (fun t => (h0 t).hold == .fence && (h0 t).pc == 0x1000) = true := by decide +kernel
/-- csrrw x3, TCFG, x1: reserved bits stay 0; CSRs of 0x7C0 trap in U mode. -/
theorem test_csr_write : insnOf (at_ 0x800091F3 {}) = some (.csr 1 3 1 0x800) ∧
    okWith (exec (.csrWrite 5 0) (at_ 0x800091F3 { x := [(1, 0xFFFFFFFF)] }))
      (fun t => (h0 t).tcfg == 0xF7F7F7F && xReg (h0 t) 3 == 0x1404040) = true ∧
    okWith (exec (.csrWrite 5 0) (at_ 0x801091F3 { x := [(1, 0x47)] })) (fun t => (h0 t).resumeRow == 7) = true ∧
    insnOf (at_ 0x7C0091F3 {}) = some (.csr 1 3 1 0x7C0) ∧
    okWith (exec (.csrWrite 5 0) (at_ 0x7C0091F3 { x := [(1, 7)] })) (fun t => (bd t).xfsel == 3) = true ∧
    okWith (exec (.scalarInstruction 5 0) (at_ 0x7C0091F3 { x := [(1, 7)], userMode := true }))
      (fun t => (bd t).xfsel == 0 && (h0 t).mcause == 2) = true := by decide +kernel
theorem test_qfip_trap : beadRuns (at_ 0 {}) 5 = true ∧
    okWith (exec (.qfipTrap 5 0) (at_ 0 { qfie := true, userMode := true, mtvec := 0x2001 } { queues := [(3, { stop := true })] }))
      (fun t => (h0 t).mcause == 0x8000000000000010 && (h0 t).pc == 0x2040 && (h0 t).mepc == 0x1000) = true ∧
    okWith (exec (.qfipTrap 5 0) (at_ 0 { qfie := true, userMode := true, hold := .load 3 }
        { queues := [(3, { stop := true })], reqs := [{ id := 3, owner := .hartAtomic 0, kind := .atomic, dev := 0x40000000, n := 1, mask := [0, 4, 0] }] }))
      (fun t => (h0 t).mcause == 0x8000000000000010 && (h0 t).hold == .none && (bd t).reqs == []) = true ∧
    okWith (exec (.qfipTrap 5 0) (at_ 0 { qfie := true, userMode := true, hold := .load 3 }
        { queues := [(3, { stop := true })], reqs := [{ id := 3, owner := .hartAtomic 0, kind := .atomic, dev := 0x40000000, n := 1, mask := [0, 4, 0], st := .issued }] }))
      (fun t => (h0 t).mcause == 0 && (h0 t).hold == .load 3) = true := by decide +kernel

/-- Address of the bead's own data memory, and with the granule at 0x40 holding a value. -/
def own : Word := BitVec.ofNat 64 (ownBase 5)
def gr : Nat := dmemGran 5 2
def holding_ (g : Gran) (s : State) : State := { s with mem := codePut {} gr (encodeGran g) }

/-- lw x3, 4(x1): sign-extended; misaligned; elsewhere. -/
theorem test_load : insnOf (at_ 0x0040A183 {}) = some (.load 2 false 3 1 4) ∧
    okWith (exec (.scalarLoad 5 0) (holding_ (0x80000001 * 2 ^ 32) (at_ 0x0040A183 { x := [(1, own + 0x40)] })))
      (fun t => xReg (h0 t) 3 == 0xFFFFFFFF80000001 && (h0 t).pc == 0x1004) = true ∧
    okWith (exec (.scalarLoad 5 0) (at_ 0x0040A183 { x := [(1, own + 0x41)] }))
      (fun t => (h0 t).mcause == 4 && (h0 t).mtval == own + 0x45 && xReg (h0 t) 3 == 0) = true ∧
    okWith (exec (.scalarLoad 5 0) (at_ 0x0040A183 { x := [(1, 0x12345678)] }))
      (fun t => (h0 t).hold == .load 1 && (bd t).reqs.map (·.bytes) == [0x1234567C]) = true := by decide +kernel
/-- A translation of the page of `elsewhere` to slice 0. -/
def page1 (rd wr : Bool) : Bead := { tlb := [⟨0x12345, 12, 0x10000000, rd, wr, false⟩] }
def elsewhere : Word := 0x12345678
/-- In the fragment window: register 2, row 3, element 0, and with the register as given. -/
def win : Word := own + 0xC0000 + 2 * 0x800 + 3 * 128
def tile2 (k : Tile) : Bead := { tiles := [(2, k)] }
/-- A poisoned granule; the window: a row, a poisoned row, a register that fills, a byte; an L1 line; a request and a page that
forbids reading; lr.w x3, (x1). -/
theorem test_load_elsewhere : isBad poisonCode = true ∧
    okWith (exec (.scalarLoad 5 0) { at_ 0x0040A183 { x := [(1, own + 0x40)] } with mem := codePut {} gr poisonCode })
      (fun t => (h0 t).mcause == 5 && (h0 t).mtval == own + 0x44) = true ∧
    windowPlace 5 0 (devAddr win) = (2, 3, 0) ∧
    okWith (exec (.scalarLoad 5 0) (at_ 0x0040A183 { x := [(1, win)] } (tile2 { st := .full, elems := [(194, 0x5678), (195, 0x8234)] })))
      (fun t => xReg (h0 t) 3 == 0xFFFFFFFF82345678 && (h0 t).pc == 0x1004) = true ∧
    okWith (exec (.scalarLoad 5 0) (at_ 0x0040A183 { x := [(1, win)] } (tile2 { st := .full, poison := 8 })))
      (fun t => (h0 t).mcause == 5 && (h0 t).mtval == win + 4) = true ∧
    okWith (exec (.scalarLoad 5 0) (at_ 0x0040A183 { x := [(1, win)] } (tile2 { st := .filling })))
      (fun t => (h0 t).hold == .window && (h0 t).pc == 0x1000) = true ∧
    insnOf (at_ 0x00408183 {}) = some (.load 0 false 3 1 4) ∧
    okWith (exec (.scalarLoad 5 0) (at_ 0x00408183 { x := [(1, win)] } (tile2 { st := .full }))) (fun t => (h0 t).mcause == 5) = true ∧
    okWith (exec (.scalarLoad 5 0) (at_ 0x0040A183 { x := [(1, elsewhere)] } { l1 := [⟨0x12345678 / 64, 0, encodeGran (7 * 2 ^ 224)⟩] }))
      (fun t => xReg (h0 t) 3 == 7 && (bd t).reqs == []) = true ∧
    okWith (exec (.scalarLoad 5 0) (at_ 0x0040A183 { x := [(1, elsewhere)] } (page1 true true)))
      (fun t => (h0 t).hold == .load 1 && (bd t).reqs.map (fun r => (r.st, r.bytes)) == [(.ready, 0x1234567C)]) = true ∧
    okWith (exec (.scalarLoad 5 0) (at_ 0x0040A183 { x := [(1, elsewhere)] } (page1 false true)))
      (fun t => (h0 t).mcause == 5 && (h0 t).mtval == 0x1234567C && (bd t).reqs == []) = true ∧
    insnOf (at_ 0x1000A1AF {}) = some (.amo 2 false 3 1 0) ∧
    okWith (exec (.scalarLoad 5 0) (holding_ 0xFFFFFFFE (at_ 0x1000A1AF { x := [(1, own + 0x40)] })))
      (fun t => xReg (h0 t) 3 == 0xFFFFFFFFFFFFFFFE && resvHeld t 20 gr) = true ∧
    okWith (exec (.scalarLoad 5 0) (at_ 0x1000A1AF { x := [(1, own + 0x41)] })) (fun t => (h0 t).mcause == 4) = true ∧
    okWith (exec (.scalarLoad 5 0) { at_ 0x1000A1AF { x := [(1, own + 0x40)] } with mem := codePut {} gr poisonCode })
      (fun t => (h0 t).mcause == 5) = true ∧
    okWith (exec (.scalarLoad 5 0) (at_ 0x1000A1AF { x := [(1, win)] })) (fun t => (h0 t).mcause == 7) = true ∧
    okWith (exec (.scalarLoad 5 0) (at_ 0x1000A1AF { x := [(1, elsewhere)] } (page1 true true)))
      (fun t => (h0 t).hold == .load 1 && (bd t).reqs.map (fun r => (r.st, r.kind)) == [(.ready, .atomic)]) = true := by decide +kernel
/-- sw x2, 4(x1): just its four bytes. -/
theorem test_store : insnOf (at_ 0x0020A223 {}) = some (.store 2 false 1 2 4) ∧
    okWith (exec (.scalarStore 5 0) (holding_ (2 ^ 256 - 1) (at_ 0x0020A223 { x := [(1, own + 0x40), (2, 0xAABBCCDD)] })))
      (fun t => goodData (codeAt t.mem gr) == BitVec.allOnes 256 - 0x55443322 * 2 ^ 32 && (h0 t).pc == 0x1004) = true ∧
    okWith (exec (.scalarStore 5 0) (at_ 0x0020A223 { x := [(1, own + 0x42)] })) (fun t => (h0 t).mcause == 6) = true := by
  decide +kernel
/-- sw x2, 4(x1): poison stays; the window, and sb there; a request, a walk, a page that forbids writing. -/
theorem test_store_elsewhere :
    okWith (exec (.scalarStore 5 0) { at_ 0x0020A223 { x := [(1, own + 0x40)] } with mem := codePut {} gr poisonCode })
      (fun t => (h0 t).mcause == 7 && codeAt t.mem gr == poisonCode) = true ∧
    okWith (exec (.scalarStore 5 0) (at_ 0x0020A223 { x := [(1, win), (2, 0x12345678)] }))
      (fun t => (tileOf (bd t) 2).st == .full && tileElem (tileOf (bd t) 2) 3 2 == 0x5678 && tileElem (tileOf (bd t) 2) 3 3 == 0x1234 &&
        (h0 t).pc == 0x1004) = true ∧
    okWith (exec (.scalarStore 5 0) (at_ 0x0020A223 { x := [(1, win)] } (tile2 { st := .filling }))) (fun t => (h0 t).hold == .window) = true ∧
    insnOf (at_ 0x00208223 {}) = some (.store 0 false 1 2 4) ∧
    okWith (exec (.scalarStore 5 0) (at_ 0x00208223 { x := [(1, win)] })) (fun t => (h0 t).mcause == 7 && (bd t).tiles == []) = true ∧
    okWith (exec (.scalarStore 5 0) (at_ 0x0020A223 { x := [(1, elsewhere), (2, 9)] } (page1 true true)))
      (fun t => (h0 t).stores == 1 && (h0 t).pc == 0x1004 && (bd t).reqs.map (fun r => (r.st, r.mask)) == [(.ready, [0xF0000000])]) = true ∧
    okWith (exec (.scalarStore 5 0) (at_ 0x0020A223 { x := [(1, elsewhere)] }))
      (fun t => (h0 t).hold == .load 1 && (h0 t).pc == 0x1000 && (bd t).reqs.map (·.st) == [.walk]) = true ∧
    okWith (exec (.scalarStore 5 0) (at_ 0x0020A223 { x := [(1, elsewhere)] } (page1 true false)))
      (fun t => (h0 t).mcause == 7 && (bd t).reqs == []) = true := by decide +kernel
/-- amoadd.w x3, x2, (x1); in the fragment window it faults. -/
theorem test_atomic : insnOf (at_ 0x0020A1AF {}) = some (.amo 0 false 3 1 2) ∧
    okWith (exec (.scalarAtomic 5 0) (holding_ 0xFFFFFFFF (at_ 0x0020A1AF { x := [(1, own + 0x40), (2, 3)] })))
      (fun t => xReg (h0 t) 3 == 0xFFFFFFFFFFFFFFFF && goodData (codeAt t.mem gr) == 2) = true ∧
    okWith (exec (.scalarAtomic 5 0) (at_ 0x0020A1AF { x := [(1, own + 0xC0000)] })) (fun t => (h0 t).mcause == 7) = true := by
  decide +kernel
/-- sc.w x3, x2, (x1) with and without its reservation; amoswap.w; amoadd.w misaligned, on poison, and elsewhere. -/
theorem test_atomic_elsewhere : insnOf (at_ 0x1820A1AF {}) = some (.amo 3 false 3 1 2) ∧
    okWith (exec (.scalarAtomic 5 0) { at_ 0x1820A1AF { x := [(1, own + 0x40), (2, 7)] } with mem := { resv := [(20, gr + 1)] } })
      (fun t => xReg (h0 t) 3 == 0 && goodData (codeAt t.mem gr) == 7 && t.mem.resv == []) = true ∧
    okWith (exec (.scalarAtomic 5 0) { at_ 0x1820A1AF { x := [(1, own + 0x40), (2, 7)] } with mem := { resv := [(20, gr + 2)] } })
      (fun t => xReg (h0 t) 3 == 1 && goodData (codeAt t.mem gr) == 0 && t.mem.resv == []) = true ∧
    okWith (exec (.scalarAtomic 5 0) (holding_ 5 (at_ 0x0820A1AF { x := [(1, own + 0x40), (2, 7)] })))
      (fun t => xReg (h0 t) 3 == 5 && goodData (codeAt t.mem gr) == 7) = true ∧
    okWith (exec (.scalarAtomic 5 0) (at_ 0x0020A1AF { x := [(1, own + 0x42)] })) (fun t => (h0 t).mcause == 6) = true ∧
    okWith (exec (.scalarAtomic 5 0) { at_ 0x0020A1AF { x := [(1, own + 0x40)] } with mem := codePut {} gr poisonCode })
      (fun t => (h0 t).mcause == 7 && codeAt t.mem gr == poisonCode) = true ∧
    okWith (exec (.scalarAtomic 5 0) (at_ 0x0020A1AF { x := [(1, elsewhere)] } (page1 true true)))
      (fun t => (h0 t).hold == .load 1 && (bd t).reqs.map (·.st) == [.ready]) = true ∧
    okWith (exec (.scalarAtomic 5 0) (at_ 0x0020A1AF { x := [(1, elsewhere)] }))
      (fun t => (h0 t).hold == .load 1 && (bd t).reqs.map (·.st) == [.walk]) = true ∧
    okWith (exec (.scalarAtomic 5 0) (at_ 0x0020A1AF { x := [(1, elsewhere)] } (page1 true false)))
      (fun t => (h0 t).mcause == 7 && (bd t).reqs == []) = true := by decide +kernel

/-! ### Xmacel instructions -/

/-- Thirty-two entries of one instruction. -/
def ent (id : Nat) (i : XInsn) (v1 : Word := 0) (v2 : Word := 0) (v3 : Word := 0) : QEntry :=
  { id, word := 0, insn := i, hart := 0, v1, v2, v3, tcfg := 0x1404040, d1 := 0, d2 := 0, startRow := 0 }

/-- Each instruction's word, its command and its queue: MM.A, MM.B, MM.AB, MM.BWD, TLD, TST, STR.GO, STR.STOP, DT.FILL,
DR.ACT, DR.DACT, DR.STAT, CLASP.SIG, .WAIT, .TAKE, CH.WR, .RD, .ACC. -/
def queued : List (Nat × Instr × Nat) := [(0x0B, .mmA 5 0, 0), (0x100B, .mmB 5 0, 0), (0x200B, .mmAB 5 0, 0), (0x300B, .mmBwd 5 0, 0),
  (0x0020802B, .tld 5 0, 1), (0x0020902B, .tst 5 0, 1), (0xA02B, .strGo 5 0, 1), (0x302B, .strStop 5 0, 1), (0x0020C02B, .dtFill 5 0, 1),
  (0x0000805B, .drAct 5 0, 2), (0x0000905B, .drDact 5 0, 2), (0x0000A05B, .drStat 5 0, 2),
  (0x0020907B, .claspSig 5 0, 3), (0x0020A07B, .claspWait 5 0, 3), (0x0020B07B, .claspTake 5 0, 3),
  (0x0020C07B, .chWr 5 0, 3), (0x0020D07B, .chRd 5 0, 3), (0x0020E07B, .chAcc 5 0, 3)]

set_option maxRecDepth 100000 in
theorem test_enter_queue : queued.all (fun x => (xAt (at_ x.1 {}) 5 0).isSome &&
    okWith (exec x.2.1 (at_ x.1 { x := [(1, 0x123)], resumeRow := 9 }))
      (fun t => ((queueOf (bd t) x.2.2).ents.map fun e => (e.id, e.word, e.hart.val, e.tcfg)) == [(1, BitVec.ofNat 32 x.1, 0, 0x1404040)] &&
        (h0 t).pc == 0x1004 && (h0 t).hold == .none)) = true := by decide +kernel
set_option maxRecDepth 100000 in
theorem test_full_queue : queued.all (fun x => okWith (exec x.2.1 (at_ x.1 {} { queues := [(x.2.2, { ents := List.replicate 32 (ent 0 .l1InvA) })] }))
    (fun t => (queueOf (bd t) x.2.2).ents.length == 32 && (h0 t).hold == .queue && (h0 t).pc == 0x1000)) = true := by decide +kernel

/-- DT.WR word 1, DT.RD word 7. -/
theorem test_descriptor : (xAt (at_ 0x0220D02B {}) 5 0).map (·.1) = some (.dtWr 1 1 2) ∧
    okWith (exec (.dtWr 5 0) (at_ 0x0220D02B { x := [(1, 0xFFF), (2, 77)] }))
      (fun t => tblGet 0 (bd t).dt 0xFFF == BitVec.ofNat 512 (77 * 2 ^ 64)) = true ∧
    (xAt (at_ 0x0E00E1AB {}) 5 0).map (·.1) = some (.dtRd 7 1 3) ∧
    okWith (exec (.dtRd 5 0) (at_ 0x0E00E1AB { x := [(1, 0xFFF)] } { dt := [(0xFFF, BitVec.ofNat 512 (5 * 2 ^ 448))] }))
      (fun t => xReg (h0 t) 3 == 5) = true := by decide +kernel
theorem test_trel : (xAt (at_ 0x0000F02B {}) 5 0).map (·.1) = some (.trel 1) ∧
    okWith (exec (.trel 5 0) (at_ 0x0000F02B { x := [(1, 0x8000)] } { tiles := [(14, { st := .full }), (15, { st := .full })] }))
      (fun t => (tileOf (bd t) 15).st == .empty && (tileOf (bd t) 14).st == .full && (h0 t).pc == 0x1004) = true ∧
    okWith (exec (.trel 5 0) (at_ 0x0000F02B { x := [(1, 8)] } { nextId := 2, queues := [(1, { ents := [ent 1 (.tld 3 1 2 false)] })] }))
      (fun t => (h0 t).hold == .trel 2) = true := by decide +kernel
theorem test_l1_inv : (xAt (at_ 0x0220F02B {}) 5 0).map (·.1) = some (.l1Inv 1 2) ∧
    okWith (exec (.l1Inv 5 0) (at_ 0x0220F02B { x := [(1, 0x7F), (2, 2)] } { l1 := [⟨0, 0, 0⟩, ⟨1, 0, 0⟩, ⟨2, 0, 0⟩, ⟨3, 0, 0⟩] }))
      (fun t => (bd t).l1.map (·.line) == [0, 3]) = true ∧
    okWith (exec (.l1Inv 5 0) (at_ 0x0220F02B { x := [(2, 65536)] } { l1 := [⟨9999999, 0, 0⟩] })) (fun t => (bd t).l1 == []) = true ∧
    (xAt (at_ 0x0400702B {}) 5 0).map (·.1) = some .l1InvA ∧
    okWith (exec (.l1InvA 5 0) (at_ 0x0400702B {} { l1 := [⟨2, 0, 0⟩] })) (fun t => (bd t).l1 == [] && (h0 t).pc == 0x1004) = true := by
  decide +kernel
/-- QBAR with no mask bit; with bits 0 and 3 and H; with a full queue. -/
theorem test_qbar : (xAt (at_ 0x0190007B {}) 5 0).map (·.1) = some (.qbar 9 true) ∧
    okWith (exec (.qbar 5 0) (at_ 0x7B {})) (fun t => (h0 t).pc == 0x1004 && (bd t).queues == []) = true ∧
    okWith (exec (.qbar 5 0) (at_ 0x0190007B {} { queues := [(0, { ents := [ent 0 .l1InvA] }), (1, { ents := [ent 0 .l1InvA] }),
        (2, { ents := [ent 0 .l1InvA] }), (3, { ents := [ent 0 .l1InvA] })] }))
      (fun t => (h0 t).hold == .qbar 1 && (h0 t).pc == 0x1000 && [0, 1, 2, 3].map (fun q => (queueOf (bd t) q).ents.length) == [2, 1, 1, 2]) = true ∧
    okWith (exec (.qbar 5 0) (at_ 0x0190007B {} { queues := [(3, { ents := List.replicate 32 (ent 0 .l1InvA) })] }))
      (fun t => (h0 t).hold == .queue) = true ∧
    okWith (exec (.qbar 5 0) (at_ 0x0190007B {} { queues := [(1, { ents := [ent 0 .l1InvA] })] }))
      (fun t => (h0 t).hold == .none && (h0 t).pc == 0x1004 && [0, 1, 2, 3].map (fun q => (queueOf (bd t) q).ents.length) == [0, 1, 0, 0]) = true := by decide +kernel
/-- csrrw x0, XQCTL, x1. -/
theorem test_xqctl : (xqctlUse (at_ 0x7C109073 { x := [(1, 2)] }) 5 0 .resume).isSome = true ∧
    okWith (exec (.xqctlResume 5 0) (at_ 0x7C109073 { x := [(1, 2)], resumeRow := 5 }
        { queues := [(1, { stop := true, ents := [{ ent 1 (.tld 3 1 2 false) with st := .faulted, fin := 3, bad := some (3, 0, 0) }] })] }))
      (fun t => !(queueOf (bd t) 1).stop && (queueOf (bd t) 1).ents.map (fun e => (e.st, e.bad, e.fin)) == [(.waiting, none, 5)]) = true ∧
    (xqctlUse (at_ 0x7C109073 { x := [(1, 0x80)] }) 5 0 .discard).isSome = true ∧
    okWith (exec (.xqctlDiscard 5 0) (at_ 0x7C109073 { x := [(1, 0x80)] }
        { queues := [(3, { stop := true, ents := [{ ent 1 (.claspSig 1 2) with st := .faulted }] })] }))
      (fun t => !(queueOf (bd t) 3).stop && (queueOf (bd t) 3).ents == []) = true := by decide +kernel

/-! ### Queue entries, requests and walks -/

/-- A field of a descriptor. -/
def fld (lo v : Nat) : Nat := v * 2 ^ lo
/-- A descriptor of one 64 x 64 tile of BF16 elements (VALID, ETYPE 1, RANK 1). -/
def desc1 (base : Nat) : BitVec 512 :=
  BitVec.ofNat 512 (base + fld 48 2 + fld 52 1 + fld 56 1 + fld 64 64 + fld 224 64 + fld 232 64)
/-- Bead 5 with a queue. -/
def bq (q : Nat) (es : List QEntry) (b : Bead := {}) : State := withBead { b with queues := [(q, { ents := es })] } sched
def que (t : State) (q : Nat) : Queue := queueOf (bd t) q
/-- An entry that has started. -/
def started (e : QEntry) : QEntry := { e with st := .started }

def tldE : QEntry := { ent 9 (.tld 3 1 2 false) with d1 := desc1 0x10000 }
theorem test_tld_starts : nextToStart (bd (bq 1 [tldE])) 1 = some tldE ∧ canStart (bq 1 [tldE]) 5 1 tldE = true ∧
    transferFault (bq 1 [tldE]) 5 tldE 3 false = none ∧
    okWith (exec (.entryStart 5 1) (bq 1 [tldE])) (fun t => (que t 1).ents.map (fun e => (e.id, e.st, e.began, e.at_)) == [(9, .started, true, 1)] && (tileOf (bd t) 3).st == .filling) = true := by
  decide +kernel
/-- Without VALID the descriptor is a BAD_HANDLE; beyond its one tile the entry is of the wrong SHAPE (R133, R156). -/
theorem test_tld_faults : okWith (exec (.entryStart 5 1) (bq 1 [{ tldE with d1 := 0, word := 77 }]))
      (fun t => (que t 1).stop && (que t 1).xrec.code == 0x01 && (que t 1).xrec.insn == 77 && recorded 1 5 t) = true ∧
    transferFault (bq 1 [{ tldE with v2 := 1 }]) 5 { tldE with v2 := 1 } 3 false = some 0x02 ∧
    okWith (exec (.entryStart 5 1) (bq 1 [{ tldE with v2 := 1 }])) (fun t => (que t 1).xrec.code == 0x02) = true := by decide +kernel
def sigE (n : Nat) : QEntry := { ent 9 (.claspSig 1 2) with v1 := 63, v2 := BitVec.ofNat 64 n }
def counted (n : Nat) (s : State) : State := { s with clasps := { s.clasps with count := [(5 * 64 + 63, BitVec.ofNat 16 n)] } }
theorem test_clasp_sig : canStart (bq 3 [sigE 2]) 5 3 (sigE 2) = true ∧
    okWith (exec (.entryStart 5 3) (counted 65533 (bq 3 [sigE 2])))
      (fun t => claspCount (claspCk t) 383 == 65535 && (que (claspCk t) 3).ents.map (fun e => (e.id, e.st, e.fin)) == [(9, .started, 1)]) = true ∧
    okWith (exec (.entryStart 5 3) (counted 65534 (bq 3 [sigE 2])))
      (fun t => claspCount (claspCk t) 383 == 65534 && (que (claspCk t) 3).stop && (que (claspCk t) 3).xrec.code == 0x11) = true := by decide +kernel

/-- The TLD's 64 rows have finished. -/
def tldDone : QEntry := { started tldE with next := 64, fin := 64 }
def mmE : QEntry := { ent 9 (.mm true 2 4 false 1 true false) with st := .started, passB := 1 }
theorem test_entry_complete : entryFinished (bq 1 [tldDone]) 5 1 tldDone = true ∧
    okWith (exec (.entryComplete 5 1) (bq 1 [tldDone])) (fun t => (que t 1).ents == [] && (que t 1).done == 1 && (tileOf (bd t) 3).st == .full) = true ∧
    okWith (exec (.entryComplete 5 1) (bq 1 [{ tldDone with poisonAt := some 7 }]))
      (fun t => (que t 1).stop && (que t 1).xrec.code == 0x0A && (que t 1).done == 0) = true ∧
    entryFinished (bq 0 [mmE]) 5 0 mmE = true ∧
    okWith (exec (.entryComplete 5 0) (bq 0 [mmE])) (fun t => (que t 0).ents == [] && (accOf (bd t) 5).full) = true := by decide +kernel

/-- A read request of one granule. -/
def rq (st : ReqState) : Req := { id := 3, owner := .hartLoad 2, kind := .read, dev := 0x40000000, n := 1, phys := [0x40000000], st, bytes := 0x40000008 }
def wReqs (rs : List Req) : State := withBead { reqs := rs } sched
theorem test_request_issue : chooseReq (wReqs [rq .ready]) 5 = some (rq .ready) ∧
    okWith (exec (.requestIssue 5) (wReqs [rq .ready]))
      (fun t => (bd t).reqs == [{ rq .ready with st := .issued, slot := some 0, parts := 1 }]) = true := by decide +kernel
theorem test_page_walk : firstMiss (wReqs [rq .walk]) 5 (rq .walk) = some 0x40000000 ∧
    okWith (exec (.pageWalk 5 3) (wReqs [rq .walk])) (fun t => (bd t).reqs == [{ rq .walk with st := .walking }] &&
      (walksOf t (clusterOf 5)).map (fun w => (w.bead.val, w.req, w.gran)) == [(5, 3, 0x40000000)]) = true := by decide +kernel
/-- A walk stands first at bead 5's cluster walker. -/
def walked (res : Option TlbEntry) (s : State) : State := { s with mmu := { s.mmu with walks := [(clusterOf 5, [⟨5, 3, 0x40000000, res, true⟩])] } }
theorem test_page_walk_complete : clusterOf 5 < 32 ∧
    okWith (exec (.pageWalkComplete (Fin.ofNat 32 (clusterOf 5))) (walked none (wReqs [rq .walking])))
      (fun t => (hartOf (bd t) 2).mcause == 13 && (hartOf (bd t) 2).mtval == 0x40000008 && walksOf t (clusterOf 5) == []) = true ∧
    okWith (exec (.pageWalkComplete (Fin.ofNat 32 (clusterOf 5))) (walked (some ⟨4, 12, 5, true, true, false⟩) (wReqs [])))
      (fun t => (bd t).tlb == [⟨4, 12, 5, true, true, false⟩]) = true := by decide +kernel

/-! ### The arrays -/

/-- MM.A of a 1 x 1 x 1 product of BF16 elements. -/
def mm1 : QEntry := { ent 9 (.mm false 2 4 false 1 true false) with st := .started, tcfg := 0x1010101 }
def w1 : Weights := { entry := 9, pass := 0, tile := 2, trn := false, rows := 1, width := 1, fmt := 1, split := false, loaded := 1, elems := [(0, 0x4040)] }
theorem test_weights_activate : streaming (bd (bq 0 [mm1])) 0 = some mm1 ∧
    okWith (exec (.weightsActivate 5 0) (bq 0 [mm1] { arrs := [(0, { standby := some w1 })] }))
      (fun t => arrayOf (bd t) 0 == { active := some w1 }) = true := by decide +kernel
def streamS : State := bq 0 [mm1] { arrs := [(0, { active := some w1 })], tiles := [(4, { st := .full, elems := [(0, 0x4000)] })] }
set_option maxRecDepth 100000 in
theorem test_row_enter : rowDue (bd streamS) 0 = some mm1 ∧ tileSource (bd streamS) mm1 0 = some ⟨[0x4000], 0⟩ ∧
    rowWeights (bd streamS) mm1 0 = some w1 ∧ dutyOpen streamS = true ∧ sourceReady streamS 5 mm1 0 = true ∧
    okWith (exec (.arrayRowEnter 5 0) streamS)
      (fun t => (arrayOf (bd t) 0).flight == [{ entry := 9, acc := 1, row := 0, ow := true, split := false, fmt := 1, xs := [0x4000], lo := 0, hi := 1, frozen := false, wipe := some 1, w := w1 }]) = true := by
  decide +kernel
set_option maxRecDepth 100000 in
/-- 2.0 x 3.0 of BF16 into an overwritten element is 6.0. -/
theorem test_row_complete : okWith (exec (.arrayRowComplete 5 0) (bq 0 [mm1] { arrs := [(0, { flight := [{ entry := 9, acc := 1, row := 0, ow := true, split := false, fmt := 1, xs := [0x4000], lo := 0, hi := 1, frozen := false, wipe := some 1, w := w1 }] })] }))
    (fun t => tblGet 0 (accOf (bd t) 1).s 0 == 0x40C00000 && (arrayOf (bd t) 0).flight == []) = true := by decide +kernel

/-! ### The drain units -/

def drE : QEntry := { ent 9 (.drAct 0 false false 7 1 false 1 false false) with st := .started }
def drW : QEntry := { drE with st := .waiting }
theorem test_drain_prepare : (toPrepare (bd (bq 2 [drW])) 0).map (·.1) = some drW ∧
    okWith (exec (.drainPrepare 5 0) (bq 2 [drW])) (fun t => (que t 2).ents == [{ drW with prepared := true }]) = true := by decide +kernel
def drP : QEntry := { drE with prepared := true }
set_option maxRecDepth 100000 in
theorem test_drain_enter : (draining (bd (bq 2 [drP])) 0).map (·.1) = some drP ∧
    okWith (exec (.drainRowEnter 5 0) { bq 2 [drP] with clock := { sched.clock with workTick := 3 } })
      (fun t => (que t 2).ents == [{ drP with next := 1 }] && ((drainOf (bd t) 0).jobs.map fun j => (j.row, j.lfsr)) == [(0, 3 ^^^ BitVec.ofNat 32 (0x9E3779B9 * 10))]) = true := by
  decide +kernel
set_option maxRecDepth 100000 in
/-- 1 + 2^-8 rounds to the even BF16 1.0; 3.0 is exact. -/
theorem test_drain_write : okWith (exec (.drainRowWrite 5 0) (bq 2 [{ drP with next := 64, fin := 62, tcfg := 0x1404040 }]
      { drains := [(0, { jobs := [⟨9, 63, [.fp 0x3F808000, .fp 0x40400000], 1, false⟩] })] }))
    (fun t => tileElem (tileOf (bd t) 7) 63 0 == 0x3F80 && tileElem (tileOf (bd t) 7) 63 1 == 0x4040 && (drainOf (bd t) 0).jobs == [] &&
      (que t 2).ents.map (·.fin) == [63]) = true := by decide +kernel

/-! ### Strands -/

/-- A strand of own data memory: two runs of one granule 64 bytes apart, DEPTH 4; TARGET as given. -/
def sdesc (target : Nat) : BitVec 512 := BitVec.ofNat 512 (ownBase 5 + 0x40 + fld 48 target + fld 56 1 + fld 112 4 + fld 128 64 +
  fld 320 2 + fld 344 1 + fld 368 1 + fld 64 (ownBase 5 + 0x8000))
def strS (k : Strand) : State := withBead { strands := [(7, k)] } sched
theorem test_strand_issue : nextRunAt (bd (strS { running := true, desc := sdesc 0 })) 7 = some 0 ∧
    okWith (exec (.strandRunIssue 5 7) (holding_ 99 (strS { running := true, desc := sdesc 0 })))
      (fun t => (strandOf (bd t) 7).next == 1 && (strandOf (bd t) 7).runs.map (fun x => (x.idx, x.got, x.data)) == [(0, true, [encodeGran 99])]) = true := by
  decide +kernel
def runOf (i : Nat) : StrandRun := { idx := i, req := 0, got := true, data := [encodeGran 99] }
theorem test_strand_consume : sdTarget (sdesc 1) ≠ 0 ∧
    okWith (exec (.strandRunConsume 5 7) (strS { running := true, desc := sdesc 1, next := 2, runs := [runOf 0, runOf 1] }))
      (fun t => (strandOf (bd t) 7).consumed == 1 && (strandOf (bd t) 7).running && (strandOf (bd t) 7).runs == [runOf 1]) = true ∧
    okWith (exec (.strandRunConsume 5 7) (strS { running := true, desc := sdesc 1, next := 2, consumed := 1, runs := [runOf 1] }))
      (fun t => (strandOf (bd t) 7).ended && !(strandOf (bd t) 7).running && (strandOf (bd t) 7).consumed == 2) = true := by decide +kernel
/-- A sorted strand of two rows whose index entries are in own data memory. -/
def sortDesc : BitVec 512 := BitVec.ofNat 512 (ownBase 5 + 0x40 + fld 54 1 + fld 55 1 + fld 56 1 + fld 112 4 + fld 120 2 + fld 320 2 + fld 344 1 + fld 368 1)
theorem test_sort : batchRows sortDesc 0 = [0, 1] ∧ (indexEntry (strS { desc := sortDesc }) 5 7 1).isSome = true ∧
    okWith (exec (.sortBatchDeliver 5 7) (strS { running := true, desc := sortDesc }))
      (fun t => (strandOf (bd t) 7).order == [0, 1] && (strandOf (bd t) 7).sorted == 1) = true := by decide +kernel

/-! ### The fabric -/

/-- A message from one node to another. -/
def msg (src dst : Nat) (op : BitVec 8) (addr : Nat) (stream : Fin 16 := 8) : Msg :=
  { msg0 with src := Fin.ofNat 4096 src, dst := Fin.ofNat 4096 dst, op, addr := BitVec.ofNat 48 addr, len := 1, stream }
/-- A message that a node has received first. -/
def arrived (n : Nat) (m : Msg) (s : State) : State := { s with fabric := { s.fabric with arrivals := [(n, [m])] } }
/-- A message at a router's input. -/
def atRouter (r : Nat) (inp : Fin 8) (m : Msg) (s : State) : State :=
  { s with fabric := { s.fabric with flights := [(r, [{ inp, at_ := absCk s, since := absCk s, msg := m }])] } }
set_option maxRecDepth 100000 in
/-- Bead 5's request goes into its own router (5) in stream 8; in a quiet tick it may not. -/
theorem test_inject : nodeKind arb 5 = .bead 5 ∧ hasCredit arb 5 (nodeInput 5) (msgVc (msg 5 0x803 opRead 0)) = true ∧
    okWith (exec (.endpointInjection 5 8) { arb with fabric := { arb.fabric with inj := [(5 * 16 + 8, [msg 5 0x803 opRead 0, msg 5 0x804 opRead 0])] } })
      (fun t => tblGet [] t.fabric.inj 88 == [msg 5 0x804 opRead 0] && (flightsOf t 5).map (fun f => (f.inp.val, f.msg, f.flits, f.toCome)) == [(5, msg 5 0x803 opRead 0, [0], 1)]) = true := by
  decide +kernel
set_option maxRecDepth 100000 in
/-- The data flit follows its head when the port is free again. -/
theorem test_inject_data : okWith (exec (.endpointInjection 5 8) { arb with fabric := { arb.fabric with
      flights := [(5, [{ inp := 5, at_ := 0, msg := msg 5 0x803 opRead 0, flits := [], sent := 1, toCome := 1 }])] } })
    (fun t => (flightsOf t 5).map (fun f => (f.flits, f.sent, f.toCome)) == [([0], 1, 0)]) = true := by decide +kernel
def quietS : State := { arb with
  clock := { arb.clock with quiet := true }, fabric := { arb.fabric with inj := [(5 * 16 + 8, [msg 5 0x803 opRead 0])] } }
theorem test_inject_quiet : okWith (exec (.endpointInjection 5 8) quietS) (fun t => t == quietS) = true := by decide +kernel

set_option maxRecDepth 100000 in
/-- The flits of a message that stand at a router's input in arbitrated mode, its first ones gone on. -/
def flitsAt (r : Nat) (inp : Fin 8) (m : Msg) (sent : Nat) (s : State) : State :=
  { s with fabric := { s.fabric with flights := [(r, [{ inp, at_ := absCk s, msg := m, flits := List.replicate (1 + m.data.length - sent) 0, sent }])] } }
def wr6 : Msg := { msg 5 6 opWrite 0 with data := [encodeGran 7] }
set_option maxRecDepth 100000 in
/-- The head of a message for node 6 at router 5 leaves east and is there after the link's ck, its data flit behind it; with
its last flit, at router 6, it reaches its node. -/
theorem test_route_arbitrated : (arbWinner (flitsAt 5 5 wr6 0 arb) 5 1).isSome = true ∧ neighbour 5 1 = some 6 ∧
    okWith (exec (.routeMessageArbitrated 5 1 false) (flitsAt 5 5 wr6 0 arb))
      (fun t => (flightsOf t 5).map (fun f => (f.flits, f.sent)) == [([0], 1)] && (flightsOf t 6).map (fun f => (f.inp.val, f.flits, f.toCome)) == [(4, [1], 1)]) = true ∧
    okWith (exec (.routeMessageArbitrated 6 4 false) (flitsAt 6 4 wr6 1 arb))
      (fun t => arrivals t 6 == [wr6] && flightsOf t 6 == []) = true := by decide +kernel
set_option maxRecDepth 100000 in
theorem test_route_header_error : okWith (exec (.routeMessageArbitrated 6 4 true) (flitsAt 6 4 wr6 0 arb))
    (fun t => arrivals t 6 == [] && flightsOf t 6 == [] && recorded 0x08 (blkRouter 6) t && t.hub.pend.getLsbD 135) = true := by
  decide +kernel
set_option maxRecDepth 100000 in
/-- No entry of the setting takes the flit. -/
theorem test_misroute : okWith (exec (.routeMessageScheduled 6 none) (atRouter 6 4 (msg 5 7 opWrite 0) sched))
    (fun t => flightsOf t 6 == [] && recorded 0x09 (blkRouter 6) t && t.clock.leaving) = true := by decide +kernel
/-- An entry in force for every ck that switches input 4 (W) to output 1 (E). -/
def entryWE : BitVec 128 := BitVec.ofNat 128 (2 ^ 28 + 2 ^ 29 + 4 * 2 ^ 46 + 7 * 2 ^ 61)

/-- Router 6 takes input W and sends it east in every slot. -/
def routed : State := { sched with fabric := { sched.fabric with active := [(6, { count := 1, entries := [entryWE] })] } }
set_option maxRecDepth 100000 in
theorem test_route_scheduled : (entriesAt routed 6 0).length = 1 ∧ reSum entryWE = 7 ∧ (List.range 6).map (reSel entryWE) = [0, 4, 0, 0, 0, 0] ∧
    okWith (exec (.routeMessageScheduled 6 none) (atRouter 6 4 (msg 5 7 opWrite 0) routed))
      (fun t => flightsOf t 6 == [] && (flightsOf t 7).map (fun f => (f.inp.val, f.at_)) == [(4, 1)] && t.faults.waiting == []) = true := by
  decide +kernel
set_option maxRecDepth 100000 in
theorem test_endpoint_failed : okWith (exec (.endpointFailed 0x803) (arrived 0x803 (msg 5 0x803 opRead 0) arb))
    (fun t => nodeFailed t 0x803 && arrivals t 0x803 == [] && recorded 0x0A (blkRouter (nodeRouter 0x803)) t && t.hub.pend.getLsbD 135) = true := by
  decide +kernel

/-! ### Requests at their nodes -/

def spot : Nat := physOfLocal arb 3 0x100000
theorem test_sorter_takes : localOf arb 3 spot = some 0x100000 ∧ nodeKind arb 0x803 = .bezel 3 ∧
    [(Instr.read 0x803, opRead), (.write 0x803, opWrite), (.writePart 0x803, opPart), (.atomic 0x803, opAtomic), (.sumwrite 0x803, opSum)].all
      (fun c => okWith (exec c.1 (arrived 0x803 (msg 5 0x803 c.2 spot) arb))
        (fun t => arrivals t 0x803 == [] && (bezelOf t 3).sorter == [⟨msg 5 0x803 c.2 spot, 0, 0, false⟩])) = true := by decide +kernel
theorem test_slice_takes : nodeKind arb 0x84F = .xbar 31 ∧ sliceOf arb (0x10000000000 + 127 * 0x400000) = some 127 ∧
    [(Instr.read 0x84F, opRead), (.write 0x84F, opWrite), (.writePart 0x84F, opPart), (.atomic 0x84F, opAtomic), (.sumwrite 0x84F, opSum)].all
      (fun c => okWith (exec c.1 (arrived 0x84F (msg 5 0x84F c.2 (0x10000000000 + 127 * 0x400000)) arb))
        (fun t => (tblGet [] t.mem.slices 127).map (·.msg.op) == [c.2] && arrivals t 0x84F == [])) = true := by decide +kernel
/-- A bead answers a read of its data memory in stream 9 and acknowledges a write. -/
theorem test_bead_serves : placeOf 64 (ownBase 5 + 0x40) = .dmem 5 0x40 ∧
    okWith (exec (.read 5) (holding_ 99 (arrived 5 { msg 7 5 opRead (ownBase 5 + 0x40) with aux0 := 1, tag := 3 } arb)))
      (fun t => (tblGet [] t.fabric.inj (5 * 16 + 9)).map (fun m => (m.dst.val, m.op, m.tag, m.data)) == [(7, opResp, 3, [encodeGran 99])]) = true ∧
    okWith (exec (.write 5) (arrived 5 { msg 7 5 opWrite (ownBase 5 + 0x40) with data := [encodeGran 55] } arb))
      (fun t => codeAt t.mem gr == encodeGran 55 && (tblGet [] t.fabric.inj (5 * 16 + 9)).map (·.op) == [opAck]) = true := by
  decide +kernel
theorem test_signal : okWith (exec (.signal 0x821) (arrived 0x821 { msg 5 0x821 opSignal 0 with aux0 := 4095, aux1 := 65535 } arb))
      (fun t => claspCount (claspCk t) (131072 + 4095) == 65535) = true ∧
    okWith (exec (.signal 0x821) (arrived 0x821 { msg 5 0x821 opSignal 0 with aux0 := 4095, aux1 := 65535 }
        { arb with clasps := { arb.clasps with count := [(131072 + 4095, 1)] } }))
      (fun t => claspCount (claspCk t) (131072 + 4095) == 1 && (claspCk t).clasps.refused == 1 && recorded 0x0D (claspBlk (131072 + 4095)) (claspCk t)) = true := by
  decide +kernel
/-- A load of 8 bytes by hart 0 (ld x3, 8(x1)) waits in slot 2. -/
def waitLoad : State := { arb with beads := [(5, { harts := [(0, { pc := 0x1000, run := .running, hold := .load 3 })], active := word 0x0080B183, reqs := [{ rq .issued with owner := .hartLoad 0, slot := some 2, parts := 1 }] })] }
theorem test_read_resp : okWith (exec (.readResp 5) (arrived 5 { msg 0x803 5 opResp 0x40000000 with tag := 2, data := [encodeGran (77 * 2 ^ 64)] } waitLoad))
    (fun t => xReg (h0 t) 3 == 77 && (h0 t).pc == 0x1004 && (h0 t).hold == .none && (bd t).reqs == []) = true := by decide +kernel
theorem test_write_ack : okWith (exec (.writeAck 5) (arrived 5 { msg 0x803 5 opAck 0x40000000 with tag := 2 } { arb with
      beads := [(5, { harts := [(0, { stores := 2 })], reqs := [{ rq .issued with owner := .hartStore 0, kind := .write, slot := some 2, parts := 1 }] })] }))
    (fun t => (h0 t).stores == 1 && (bd t).reqs == []) = true := by decide +kernel
theorem test_stale : okWith (exec (.stale 5) (arrived 5 { msg 0x803 5 opStale 0x40 with tag := 7 } { arb with
      beads := [(5, { strands := [(7, { running := true, desc := BitVec.ofNat 512 (2 ^ 53), runs := [{ runOf 0 with phys := [0x40] }, { runOf 1 with phys := [0x80] }] })] })] }))
    (fun t => (strandOf (bd t) 7).runs.map (·.stale) == [true, false]) = true := by decide +kernel

/-! ### Stacks, slices and scrubbers -/

def writeSpot : Msg := { msg 5 0x803 opWrite spot with data := [encodeGran 55] }
theorem test_bezel_serves : okWith (exec (.bezelServeRequest 3) { arb with bezels := [(3, { sorter := [⟨writeSpot, 0, 0, false⟩] })] })
    (fun t => (bezelOf t 3).sorter == [] && stackCode t 3 0x100000 == encodeGran 55 && ((tblGet [] t.fabric.inj (0x803 * 16 + 1)).map (·.op)) == [opAck]) = true := by
  decide +kernel
/-- Two writes to bank 0: the older is served in this ck, the younger waits, and the sorter serves no more. -/
def sliceWr (off v : Nat) : SliceReq :=
  { msg := { msg 5 0x84F opWrite (0x10000000000 + 127 * 0x400000 + off) with data := [encodeGran (BitVec.ofNat 256 v)] }, tick := 0, ck := 0 }
def sliceTwo : State := { atCk 1 arb with mem := { arb.mem with resv := [(4, sliceGran 127 0 + 1)], slices := [(127, [sliceWr 0 55, sliceWr 256 66])] } }
theorem test_slice_serves : sliceTwo.standby.mainUp = true ∧ tblGet 0 sliceTwo.mem.sliceCk 127 ≠ absCk sliceTwo + 1 ∧
    sliceOff sliceTwo 127 (sliceWr 0 55).msg.addr.toNat = some 0 ∧ sliceOff sliceTwo 127 (sliceWr 256 66).msg.addr.toNat = some 256 ∧
    okWith (exec (.sliceServeRequest 127) sliceTwo)
    (fun t => codeAt t.mem (sliceGran 127 0) == encodeGran 55 && t.mem.resv == [] && tblGet [] t.mem.slices 127 == [sliceWr 256 66] &&
      tblGet 0 t.mem.sliceCk 127 == absCk t + 1) = true := by decide +kernel
/-- A read of four granules takes two of them in a ck, and a write to another bank is served beside them. -/
theorem test_slice_ck : okWith (exec (.sliceServeRequest 127) { atCk 1 arb with mem := { arb.mem with slices := [(127,
      [{ msg := { msg 5 0x84F opRead (0x10000000000 + 127 * 0x400000) with aux0 := 4, len := 0, data := [] }, tick := 0, ck := 0 }, sliceWr 160 55])] } })
    (fun t => (tblGet [] t.mem.slices 127).map (fun r => r.got.map (·.1)) == [[0, 1]] && codeAt t.mem (sliceGran 127 5) == encodeGran 55) = true := by
  decide +kernel
theorem test_refresh : okWith (exec (.stackRefresh 15 511) { arb with bezels := [(15, { openRow := [(510, 3), (511, 4)] })] })
    (fun t => (bezelOf t 15).openRow == [(510, 3)]) = true := by decide +kernel
/-- One wrong symbol is corrected and written back; poison stays. -/
theorem test_scrub : okWith (exec (.memoryScrub (.slice 127)) { arb with mem := { (codePut (codePut {} (sliceGran 127 3) (encodeGran 55 ^^^ 0x80)) (sliceGran 127 4) poisonCode) with
      scrubPos := [] } })
    (fun t => codeAt t.mem (sliceGran 127 3) == encodeGran 55 && codeAt t.mem (sliceGran 127 4) == poisonCode &&
      tblGet 0 t.mem.scrubPos (sliceBankKey 127 3) == 1) = true ∧
    okWith (exec (.memoryScrub (.slice 127)) { arb with mem := { arb.mem with scrubPos := [(sliceBankKey 127 3, 16383)] } })
      (fun t => tblGet 0 t.mem.scrubPos (sliceBankKey 127 3) == 0) = true := by decide +kernel
/-- A pass over 256 granules is too long for the kernel: only the hypothesis is shown here. -/
theorem witness_patrol : (bezelOf arb 3).scrubEn = true ∧ arb.standby.mainUp = true := by decide +kernel

/-! ### The chain -/

/-- Chain port 6 as given. -/
def wPort (q : Port) (s : State := arb) : State := { s with chain := { s.chain with ports := [(6, q)] } }
def p6 (t : State) : Port := portOf t 6
def ctl (seq ack : BitVec 12) : LinkWord := ⟨0, seq, ack, false, 0, 0, 0⟩
/-- A MSG frame. -/
def mfr (seq : BitVec 12) (m : Msg) (srcNode : BitVec 12 := 5) : ChainFrame := ⟨⟨1, seq, 0xFFF, false, 0, 0, 0⟩, encodeGran (headGran m), srcNode, 2, 0, 0, 0, m⟩
def frm (seq : BitVec 12) : ChainFrame := mfr seq (msg 5 6 opRead 0)

/-- A frame that comes with the CRC of its fields, or with another (R469): the CRC itself is one of the values that Config leaves
open, so what it does is stated for every one. -/
theorem crc_off (x : Word32) : (x + 1 == x) = false := beq_eq_false_iff_ne.mpr (by bv_omega)
theorem ctrl_in (p : PortN) (l : LinkWord) (s : State) :
    exec (.ctrlFrame p (ctrlCrc l) l) s = whenOk s (mainUp s && flows (portOf s p.val)) (ctrlFrame p.val true l s) := by
  show whenOk s _ (ctrlFrame p.val (ctrlCrc l == ctrlCrc l) l s) = _
  rw [beq_self_eq_true]
theorem ctrl_bad (p : PortN) (l : LinkWord) (s : State) :
    exec (.ctrlFrame p (ctrlCrc l + 1) l) s = whenOk s (mainUp s && flows (portOf s p.val)) (ctrlFrame p.val false l s) := by
  show whenOk s _ (ctrlFrame p.val (ctrlCrc l + 1 == ctrlCrc l) l s) = _
  rw [crc_off]
theorem msg_in (p : PortN) (f : ChainFrame) (s : State) :
    exec (.msgFrame p (msgCrc f) f) s = whenOk s (mainUp s && flows (portOf s p.val)) (msgFrame p.val true f s) := by
  show whenOk s _ (msgFrame p.val (msgCrc f == msgCrc f) f s) = _
  rw [beq_self_eq_true]
theorem train_in (p : PortN) (l : LinkWord) (w : TrainWords) (s : State) :
    exec (.trainFrame p ⟨trainCrc l w, l⟩ w) s =
      whenOk s (mainUp s && ((portOf s p.val).st == .training || (portOf s p.val).st == .dark) && !replaced s p.val) (trainIn p.val true l w s) := by
  show whenOk s _ (trainIn p.val (trainCrc l w == trainCrc l w) l w s) = _
  rw [beq_self_eq_true]
theorem lane_in (p : PortN) (l : LinkWord) (m : BitVec 12) (sp : BitVec 3) (s : State) :
    exec (.laneFrame (.recv p ⟨laneCrc l m sp, l⟩ m sp)) s = whenOk s (mainUp s && flows (portOf s p.val)) (laneIn p.val true l (m, sp) s) := by
  show whenOk s _ (laneIn p.val (laneCrc l m sp == laneCrc l m sp) l (m, sp) s) = _
  rw [beq_self_eq_true]
theorem lane_bad (p : PortN) (l : LinkWord) (m : BitVec 12) (sp : BitVec 3) (s : State) :
    exec (.laneFrame (.recv p ⟨laneCrc l m sp + 1, l⟩ m sp)) s = whenOk s (mainUp s && flows (portOf s p.val)) (laneIn p.val false l (m, sp) s) := by
  show whenOk s _ (laneIn p.val (laneCrc l m sp + 1 == laneCrc l m sp) l (m, sp) s) = _
  rw [crc_off]
theorem timing_in (p : PortN) (l : LinkWord) (w : TimingWords) (s : State) :
    exec (.timingFrame p ⟨timingCrc l w, l⟩ w) s = whenOk s (mainUp s && flows (portOf s p.val)) (timingIn p.val true l w s) := by
  show whenOk s _ (timingIn p.val (timingCrc l w == timingCrc l w) l w s) = _
  rw [beq_self_eq_true]
theorem timing_bad (p : PortN) (l : LinkWord) (w : TimingWords) (s : State) :
    exec (.timingFrame p ⟨timingCrc l w + 1, l⟩ w) s = whenOk s (mainUp s && flows (portOf s p.val)) (timingIn p.val false l w s) := by
  show whenOk s _ (timingIn p.val (timingCrc l w + 1 == timingCrc l w) l w s) = _
  rw [crc_off]
/-- The CTRL frames and the MSG frames that have left, their CRCs aside. -/
def outCtrl (t : State) : List (Nat × LinkWord) := t.out.filterMap fun o => match o with
  | .chainCtrl p l _ => some (p, l)
  | _ => none
def outMsgs (t : State) : List (Nat × ChainFrame) := t.out.filterMap fun o => match o with
  | .chain p f _ => some (p, f)
  | _ => none
def outTrain (t : State) : List (Nat × BitVec 4) := t.out.filterMap fun o => match o with
  | .train p l w _ => if l.typ == 3 then some (p, w.peerPort) else none
  | _ => none

theorem test_wf_msg_frame : Instr.wf (.msgFrame 6 0 { frm 0 with msg := { msg 5 6 opRead 0 with len := 2 } }) = false := by decide +kernel
theorem test_ctrl_frame : okWith (exec (.ctrlFrame 6 (ctrlCrc (ctl 0 0) + 1) (ctl 0 0)) (wPort { st := .up, crcErr := 65535 })) (fun t => (p6 t).crcErr == 65535) = true ∧
    okWith (exec (.ctrlFrame 6 (ctrlCrc { ctl 0 1 with cclass := 2, credits := 7 }) { ctl 0 1 with cclass := 2, credits := 7 })
        (wPort { st := .up, creditAcc := 3, replay := [(frm 0, 0), (frm 1, 2), (frm 2, 0)] }))
      (fun t => (p6 t).replay == [(frm 2, 0)] && (p6 t).creditAcc == 10 && (p6 t).creditReq == 576) = true := by
  rw [ctrl_in, ctrl_bad]; decide +kernel
theorem test_msg_frame : okWith (exec (.msgFrame 6 (msgCrc (frm 0)) (frm 0)) (wPort { st := .up }))
      (fun t => (p6 t).lastRx == 0 && (p6 t).rx == [⟨0, frm 0⟩] && outCtrl t == [(6, { ctl 0 0 with cclass := 3 })]) = true ∧
    okWith (exec (.msgFrame 6 (msgCrc (frm 1)) (frm 1)) (wPort { st := .degraded }))
      (fun t => (p6 t).lastRx == 0xFFF && (p6 t).nakOut && (p6 t).rx == [] && outCtrl t == [(6, { ctl 0 0xFFF with nak := true, cclass := 3 })]) = true ∧
    okWith (exec (.msgFrame 6 (msgCrc (frm 1)) (frm 1)) (wPort { st := .up, nakOut := true })) (fun t => t.out == []) = true := by
  rw [msg_in, msg_in, msg_in]; decide +kernel
theorem test_nak_repeat : okWith (exec (.nakRepeat 6) (wPort { st := .up, nakOut := true, lastRx := 9 }))
    (fun t => outCtrl t == [(6, { ctl 0 9 with nak := true, cclass := 3 })]) = true := by decide +kernel
/-- Sixteen resends, and then DOWN; none in the pause of a lane switch. -/
theorem test_resend : okWith (exec (.ackTimeoutResend 6) (wPort { st := .up, lastRx := 9, replay := [(frm 3, 14)] }))
      (fun t => (p6 t).replay == [(frm 3, 15)] && (p6 t).resent == 1 && outMsgs t == [(6, { frm 3 with link := { (frm 3).link with ack := 9 } })]) = true ∧
    okWith (exec (.ackTimeoutResend 6) (wPort { st := .up, replay := [(frm 3, 15)] }))
      (fun t => (p6 t).st == .down && (p6 t).replay == [] && t.hub.pend.getLsbD 118) = true ∧
    okWith (exec (.ackTimeoutResend 6) (wPort { st := .up, replay := [(frm 3, 0)], pauseTo := 256 })) (fun t => t.out == []) = true := by decide +kernel
/-- Eight resends: the worst lane is taken as failed, and its place goes to the spare. -/
theorem test_resend_examines : okWith (exec (.ackTimeoutResend 6) (wPort { st := .up, replay := [(frm 3, 7)], laneUnc := [(1, 2), (3, 5)] }))
    (fun t => (p6 t).failedLanes == 8 && (p6 t).newMap == some (0 + 1 * 8 + 2 * 64 + 4 * 512, 7) && (p6 t).st == .up) = true := by decide +kernel

/-- A link control word of a type. -/
def lk (t : BitVec 4) : LinkWord := { ctl 0 0xFFF with typ := t }
theorem test_train : okWith (exec (.trainFrame 6 ⟨trainCrc (lk 3) ⟨3, 1⟩, lk 3⟩ ⟨3, 1⟩) (wPort { st := .training, nextSeq := 9, creditReq := 0, failedLanes := 1 }))
      (fun t => t.chain.num == 3 && t.chain.numv && (p6 t).st == .up && (p6 t).nextSeq == 0 && (p6 t).creditReq == 576 && t.hub.pend.getLsbD 118) = true ∧
    okWith (exec (.trainFrame 6 ⟨trainCrc (lk 3) ⟨3, 1⟩, lk 3⟩ ⟨3, 1⟩) (wPort { st := .training, failedLanes := 3 })) (fun t => (p6 t).st == .degraded) = true ∧
    okWith (exec (.trainFrame 6 ⟨trainCrc (lk 3) ⟨3, 1⟩, lk 3⟩ ⟨3, 1⟩) (wPort { st := .training, failedLanes := 7 })) (fun t => (p6 t).st == .down && !t.chain.numv) = true ∧
    okWith (exec (.trainFrame 6 ⟨trainCrc (lk 3) ⟨3, 1⟩, lk 3⟩ ⟨3, 1⟩) { wPort { st := .training } with chain := { (wPort { st := .training }).chain with numv := true, num := 4 } })
      (fun t => t.chain.conflict && t.chain.num == 4 && (p6 t).st == .training) = true := by
  simp only [train_in]; decide +kernel
/-- A reserve port whose link is this module's own reads its own number. -/
theorem test_train_loop : okWith (exec (.trainFrame 6 ⟨trainCrc (lk 3) ⟨6, 6⟩, lk 3⟩ ⟨6, 6⟩) (wPort { st := .training }))
    (fun t => (p6 t).st == .loop && (p6 t).peer == 6 && t.chain.num == 6) = true := by
  simp only [train_in]; decide +kernel
theorem test_retrain_port : okWith (exec (.chainPortRetrain 6) (wPort { st := .down }))
    (fun t => (p6 t).st == .training && recorded 0x0F (blkPort 6) t && outTrain t == [(6, 6)]) = true := by decide +kernel
/-- A change of the map, this end's own and the peer's, whose link control word acts. -/
theorem test_lane_frame : okWith (exec (.laneFrame (.send 6)) (wPort { st := .up, newMap := some (0x68C, 3) }))
    (fun t => (p6 t).lmap == 0x68C && (p6 t).spare == 3 && (p6 t).newMap == none && (p6 t).laneSw == 1 && (p6 t).pauseTo == 256 &&
      (match t.out with | [.lane 6 _ m n _] => m == 0x68C && n == 3 | _ => false)) = true ∧
    okWith (exec (.laneFrame (.recv 6 ⟨laneCrc { lk 4 with ack := 3 } 0x68C 3, { lk 4 with ack := 3 }⟩ 0x68C 3)) (wPort { st := .up, replay := [(frm 3, 0)] }))
    (fun t => (p6 t).lmap == 0x68C && (p6 t).spare == 3 && (p6 t).replay == [] && (p6 t).laneSw == 1) = true := by
  rw [lane_in]; decide +kernel
/-- LMAP 0x688 is lanes 0 to 3 with lane 4 spare: lane 2's place goes to 4; with no spare the port is DEGRADED. -/
theorem test_lane_failure : okWith (exec (.laneFailure 6 (.lost 4)) (wPort { st := .up }))
      (fun t => (p6 t).spare == 7 && (p6 t).st == .up && (p6 t).newMap == none) = true ∧
    workLanes {} = [0, 1, 2, 3] ∧ okWith (exec (.laneFailure 6 (.lost 2)) (wPort { st := .up }))
      (fun t => (p6 t).newMap == some (0 + 1 * 8 + 4 * 64 + 3 * 512, 7) && (p6 t).st == .up && recorded 0x0F (blkPort 6) t) = true ∧
    okWith (exec (.laneFailure 6 (.lost 2)) (wPort { st := .up, spare := 7 }))
      (fun t => (p6 t).st == .degraded && (p6 t).newMap == some (0 + 1 * 8 + 3 * 64 + 7 * 512, 7)) = true ∧
    okWith (exec (.laneFailure 6 (.lost 2)) (wPort { st := .degraded, spare := 7, failedLanes := 2 })) (fun t => (p6 t).st == .down) = true := by
  decide +kernel
/-- Uncorrectable words: the sixteenth of the tick fails the lane. -/
theorem test_lane_words : okWith (exec (.laneFailure 6 (.uncorrectable 2 9)) (wPort { st := .up, laneUnc := [(2, 6)] }))
      (fun t => (p6 t).failedLanes == 0 && (p6 t).laneUnc == [(2, 15)]) = true ∧
    okWith (exec (.laneFailure 6 (.uncorrectable 2 1)) (wPort { st := .up, laneUnc := [(2, 15)] })) (fun t => (p6 t).failedLanes == 4) = true := by
  decide +kernel
theorem test_shell : okWith (exec (.chainShellRemoval (.chain 1)) { wPort { st := .up } with chain := { arb.chain with ports := [(6, { st := .up }), (8, { st := .up })] } })
      (fun t => (p6 t).st == .down && (portOf t 8).st == .up) = true ∧
    okWith (exec (.chainShellRemoval .management) { up with mgmt := { up.mgmt with up := true } }) (fun t => !t.mgmt.up) = true := by decide +kernel

/-- The seal point of WINDOW 8 is ck 15872, the relay's 16128. -/
theorem test_rounds : okWith (exec .timingFirstRound (atCk 15872 (wPort { st := .up })))
      (fun t => t.chain.sealed_ && !t.chain.verdict && (match t.out with | [.timing 6 _ w _] => w.tick == 1 && !w.relay && w.sendCk == 15872 | _ => false)) = true ∧
    okWith (exec .timingRelayRound { atCk 16128 (wPort { st := .up, voteHold := true }) with
        chain := { (wPort { st := .up, voteHold := true }).chain with sealed_ := true } })
      (fun t => t.chain.relayed && (match t.out with | [.timing 6 _ w _] => w.relay && w.hold | _ => false)) = true ∧
    okWith (exec .timingRelayRound { atCk 16128 (wPort { st := .up, relayHold := true }) with
        chain := { (wPort { st := .up, relayHold := true }).chain with sealed_ := true } })
      (fun t => t.chain.relayed && (match t.out with | [.timing 6 _ w _] => w.relay && !w.hold | _ => false)) = true := by decide +kernel
theorem test_rounds_early : exec .timingFirstRound (atCk 15871 (wPort { st := .up })) = .next (atCk 15871 (wPort { st := .up })) := rfl
/-- A neighbour's timing words. -/
def tw : TimingWords := ⟨1, true, false, false, 2, 3, true, false, 0, 0, false, 8, 0⟩
theorem test_timing_frame : okWith (exec (.timingFrame 6 ⟨timingCrc (lk 2) tw, lk 2⟩ tw) (atCk 16000 (wPort { st := .up, delay := 5 })))
      (fun t => (p6 t).gotFirst && (p6 t).firstCk == 16000 && (p6 t).voteHold && (p6 t).peerTick == 1 && (p6 t).peerRef == 3 && (p6 t).delay == 5 &&
        (p6 t).peerWindow == some 8) = true ∧
    okWith (exec (.timingFrame 6 ⟨timingCrc (lk 2) tw + 1, lk 2⟩ tw) (wPort { st := .up })) (fun t => (p6 t).crcErr == 1 && !(p6 t).gotFirst) = true ∧
    okWith (exec (.timingFrame 6 ⟨timingCrc (lk 2) { tw with curHold := true }, lk 2⟩ { tw with curHold := true }) (wPort { st := .up } { sched with chain := { sched.chain with aligned := true } }))
      (fun t => !t.chain.aligned && recorded 0x10 blkLocket t && t.hub.pend.getLsbD 128) = true ∧
    okWith (exec (.timingFrame 6 ⟨timingCrc (lk 2) { tw with relay := true, hold := false }, lk 2⟩ { tw with relay := true, hold := false }) (wPort { st := .up, delay := 5 }))
      (fun t => (p6 t).gotRelay && !(p6 t).voteHold && (p6 t).delay == 5) = true := by
  simp only [timing_in, timing_bad]; decide +kernel
/-- A vote is for the tick after this one; a relay round's is no first round's. -/
theorem test_timing_votes : okWith (exec (.timingFrame 6 ⟨timingCrc (lk 2) { tw with tick := 2 }, lk 2⟩ { tw with tick := 2 }) (wPort { st := .up }))
      (fun t => (p6 t).gotFirst && !(p6 t).voteHold) = true ∧
    okWith (exec (.timingFrame 6 ⟨timingCrc (lk 2) { tw with relay := true }, lk 2⟩ { tw with relay := true }) (wPort { st := .up }))
      (fun t => (p6 t).relayHold && !(p6 t).voteHold) = true := by
  simp only [timing_in]; decide +kernel
theorem test_calibration : canCalibrate (wPort { st := .up }) 6 = true ∧
    okWith (exec (.chainCalibrationRotation 6) (wPort { st := .up } { arb with chain := { arb.chain with calAuto := true } })) (fun t => (p6 t).cal && (p6 t).calTick == 1) = true ∧
    okWith (exec (.chainCalibrationDone 6) (wPort { st := .up, cal := true, calGo := true, calOrder := [2, 4, 0, 1, 3] }))
      (fun t => !(p6 t).cal && !(p6 t).calGo && (p6 t).calOrder == [2, 0, 1, 3, 4] && (p6 t).newMap == some (0 + 1 * 8 + 4 * 64 + 3 * 512, 2) && (p6 t).newCal) = true := by
  decide +kernel

/-- Facet 3 maps the GiB at 0x40000000 onto the slices. -/
def mapped (s : State) : State := { s with mmu := { s.mmu with active := [(3 * 524288, BitVec.ofNat 64 (1 + 2 ^ 12)), (3 * 524288 + 512 + 1, BitVec.ofNat 64 (15 + 0x10000000000))] } }
def rdFrame : ChainFrame := mfr 0 { msg 5 6 opRead 0x40000040 with aux0 := 1, tag := 9 }
theorem test_remote_read : translate (mapped arb) 3 .read 0x40000040 = .ok 0x10000000040 false ∧
    okWith (exec (.chainRequestIssue 6) (mapped (wPort { st := .up, rx := [⟨4, rdFrame⟩] })))
      (fun t => (p6 t).rx == [] && (match tblGet none (p6 t).out 0 with
          | some e => e.srcNode == 5 && e.srcMod == 2 && e.tag == 9 && e.phys == [0x10000000040] && e.parts == 1
          | none => false) &&
        (tblGet [] t.fabric.inj (0x816 * 16 + 2)).map (fun m => (m.op, m.addr, m.tag, m.dst.val)) == [(opRead, 0x10000000040, 0, 0x830)]) = true ∧
    translate arb 3 .read 0x40000040 = .page ∧
    okWith (exec (.chainRequestIssue 6) (wPort { st := .up, rx := [⟨4, rdFrame⟩] }))
      (fun t => (p6 t).rx == [] && (p6 t).out == [] && t.fabric == arb.fabric) = true := by decide +kernel
/-- A module clasp's holder is the locket node. -/
theorem test_remote_signal : remoteHolder arb 0x3007 = some 0x821 ∧
    okWith (exec (.chainSignalApply 6) (wPort { st := .up, rx := [⟨4, mfr 0 { msg 5 6 opSignal 0 with aux0 := 0x3007, aux1 := 3 }⟩] }))
      (fun t => (p6 t).rx == [] && (tblGet [] t.fabric.inj (0x816 * 16 + 3)).map (fun m => (m.dst.val, m.aux0, m.aux1)) == [(0x821, 0x3007, 3)]) = true := by
  decide +kernel
theorem test_ch_rd_timeout : okWith (exec (.chRdResponseTimeout 5)
      { bq 3 [{ ent 9 (.chRd 1 2 3) with st := .started, next := 1, asked := 3, word := 77 }] with clock := { sched.clock with tick := 7 } })
    (fun t => (que t 3).stop && (que t 3).xrec.code == 0x13 && (que t 3).xrec.insn == 77) = true := by decide +kernel

/-! ### Reduction and the commit -/

/-- Bezel 3 as given. -/
def wBz (b : Bezel) (s : State := arb) : State := { s with bezels := [(3, b)] }
def z3 (t : State) : Bezel := bezelOf t 3
/-- Two check entries of owner 9, record 7. -/
def chkE (v : Word32) : ChkEntry := { owner := 9, record := 7, gran := 2, step := 5, sums := [v], mags := [v] }
set_option maxRecDepth 100000 in
theorem test_sampled_copy : okWith (exec (.sampledGranuleCopy 3) (wBz { chkIn := [.copy 9 7 2 5 true 0xBF80] }))
      (fun t => (z3 t).chkIn == [] && (z3 t).chk.map (fun e => (e.owner, nth 0 e.sums 0, nth 0 e.mags 0, nth 0 e.sums 1)) == [(9, 0xBF800000, 0x3F800000, 0)]) = true ∧
    okWith (exec (.sampledGranuleCopy 3) (wBz { chkIn := [.copy 9 7 2 5 true 0], chk := List.replicate 1024 { chkE 0 with record := 8 } }))
      (fun t => (z3 t).chkSkip == 1 && ((z3 t).chk.drop 1024).map (·.skipped) == [true]) = true := by decide +kernel
/-- TOL 16: 1.0 against 1.0 matches, against 2.0 it does not. -/
theorem test_check_compare : okWith (exec (.sampledCheckCompare 3) { arb with bezels := [(3, { chkIn := [.sums 9 7 2 5 [0x3F800000]], chk := [chkE 0x3F800000] }), (9, { verdicts := [(7, 2)] })] })
      (fun t => (z3 t).chk == [] && tblGet 0 (bezelOf t 9).verdicts 7 == 1 && t.faults.waiting == []) = true ∧
    okWith (exec (.sampledCheckCompare 3) { arb with bezels := [(3, { chkIn := [.sums 9 7 2 5 [0x3F800000]], chk := [chkE 0x40000000] }), (9, { verdicts := [(7, 2)] })] })
      (fun t => (recOf (bezelOf t 9) 7).st == .broken && recorded 0x12 (blkBezel 3) t && t.hub.pend.getLsbD 67) = true := by decide +kernel
/-- A complete record of eight parameters under DELTA with sigma 1.0. -/
def rec7 : RedRec := { st := .complete, expect := 1, region := 2, count := 8, sums := 0x10000, work := 0x30000, optst := 0x20000 }
def unitB : Bezel := { recs := [(7, rec7)], completed := [7], gens := [(2, { twin := 0x8000 })], optActive := [(0, BitVec.ofNat 512 (3 + 0x3F800000 * 2 ^ 224))] }
theorem test_update_snoops : unitNext unitB = some 7 ∧ okWith (exec (.fusedUpdate 3) (wBz { unitB with lines := [0x28000 / 64, 5] }))
    (fun t => t.out == [.biSnoop 3 (0x28000 / 64)] && (recOf (z3 t) 7).st == .updating && (z3 t).completed == [7]) = true := by decide +kernel
theorem test_update_broken : okWith (exec (.fusedUpdate 3) { wBz unitB with mem := codePut {} (stackGran 3 (0x10000 / 32)) poisonCode })
    (fun t => (recOf (z3 t) 7).st == .broken && recorded 0x13 (blkBezel 3) t && t.hub.pend.getLsbD 83) = true := by decide +kernel
/-- Sum 2.0 and master 1.0: the new master is 3.0, in BF16 0x4040. -/
theorem test_update : okWith (exec (.fusedUpdate 3) { wBz unitB with
      mem := codePut (codePut {} (stackGran 3 (0x10000 / 32)) (encodeGran 0x40000000)) (stackGran 3 (0x20000 / 32)) (encodeGran 0x3F800000) })
    (fun t => (recOf (z3 t) 7).st == .updated && goodData (stackCode t 3 0x28000) == 0x40400000 && goodData (stackCode t 3 0x38000) == 0x4040) = true := by
  decide +kernel
def fanS : State := { wBz { recs := [(7, { rec7 with st := .updating })], gens := [(2, { fanclasp := 9 })], fans := [{ record := 7, module := 2, tag := 5, acks := 8 }] } with
  chain := { arb.chain with numv := true, ports := [(6, { st := .up, peer := 2 })] } }
theorem test_fanout : portTo fanS 2 = some 6 ∧ okWith (exec (.fanoutSignal 3 7 2) fanS)
    (fun t => (recOf (z3 t) 7).st == .updating && (z3 t).fans.map (·.sent) == [true] &&
      (tblGet [] t.fabric.inj (0x803 * 16 + 3)).map (fun m => (m.dst.val, m.op, m.aux0, m.aux1, m.tag)) == [(0x816, opSignal, 0x12003009, 1, 5)]) = true := by
  decide +kernel
theorem test_commit_arm : okWith (exec .commitArm { atCk 16320 arb with
      commit := { waiting := true, clasp := 5, count := 3, regions := 4 }, clasps := { arb.clasps with count := [(131077, 4)] }, bezels := [(3, { recs := [(7, { rec7 with st := .updated })] })] })
    (fun t => claspCount t 131077 == 1 && t.commit.armed && !t.commit.waiting && t.commit.due == 1) = true := by decide +kernel
theorem test_commit_waits : exec .commitArm { arb with
      commit := { waiting := true, regions := 4 }, bezels := [(3, { recs := [(7, rec7)] })] } = .next { arb with
      commit := { waiting := true, regions := 4 }, bezels := [(3, { recs := [(7, rec7)] })] } := rfl

/-! ### Stack retraining, retirement, rereads -/

theorem test_rotation : okWith (exec .retrainAutoRotation { arb with clock := { arb.clock with tick := 2 ^ 34 }, bezels := [(0, { retrainAuto := true })] })
      (fun t => t.nutas.rotation == some 1 && (bezelOf t 0).retrainPhase == .copy && (bezelOf t 0).retrainLeft == 8576) = true ∧
    okWith (exec .retrainAutoRotation { arb with clock := { arb.clock with tick := 2 ^ 34 }, bezels := [(0, { retrainAuto := true }), (3, { retrainPhase := .remap })] })
      (fun t => t.nutas.rotation == some 0 && (bezelOf t 0).retrainPhase == .idle) = true := by decide +kernel
theorem test_retrain_phases : okWith (exec (.retrainPhaseEnd 3) (wBz { retrainPhase := .copy, copied := 8781824 }))
      (fun t => (z3 t).retrainPhase == .remap && (z3 t).retrainLeft == 123 && (z3 t).copied == 0) = true ∧
    okWith (exec (.retrainPhaseEnd 3) (wBz { retrainPhase := .remap })) (fun t => (z3 t).retrainPhase == .return_ && (z3 t).retrainLeft == 8576) = true ∧
    okWith (exec (.retrainPhaseEnd 3) (wBz { retrainPhase := .return_, copied := 8781824 })) (fun t => (z3 t).retrainPhase == .idle) = true := by
  decide +kernel
theorem test_burst : okWith (exec (.retrainBurstCopy 3) { wBz { retrainPhase := .copy, retrainCh := 31 } with mem := codePut {} (stackGran 3 250) (encodeGran 55) })
      (fun t => codeAt t.mem (reliefGran 3 250) == encodeGran 55 && (z3 t).copied == 1) = true ∧
    okWith (exec (.retrainBurstCopy 3) { wBz { retrainPhase := .return_, retrainCh := 31 } with mem := codePut {} (reliefGran 3 250) (encodeGran 55) })
      (fun t => codeAt t.mem (stackGran 3 250) == encodeGran 55) = true := by decide +kernel
/-- Frame 9 moves where no premise of the other cases holds. -/
theorem witness_retire : [({ retiring := [9] } : Bezel), { deferred := [9] }].all
    (fun q => !frameInIntake q 9 && !frameRetrains q 9 && !tableFull q 9 && tblGet 0 q.redirect 9 == 0) = true := by decide +kernel
theorem test_retire :
    okWith (exec (.pageRetirement 3) (wBz { retiring := [9], retrainPhase := .copy, retrainCh := 16 })) (fun t => (z3 t).deferred == [9] && (z3 t).retiring == []) = true ∧
    okWith (exec (.pageRetirement 3) (wBz { retiring := [9], nblk := 1, intakeLo := BitVec.ofNat 25 (9 * 2) })) (fun t => (z3 t).retiring == [] && (z3 t).redirect == []) = true ∧
    okWith (exec (.pageRetirement 3) (wBz { retiring := [9], nextReserve := reserveFrames })) (fun t => (z3 t).redirect == [] && recorded 0x04 (blkBezel 3) t) = true := by
  decide +kernel
theorem test_reread : okWith (exec (.uncorrReread [poisonCode, encodeGran 55]) { sched with
      clock := { sched.clock with hold := true }, mem := { (codePut {} (sliceGran 127 0) poisonCode) with rereads := [(0x10000000000 + 127 * 0x400000, 0)] } })
    (fun t => t.mem.rereads == [] && codeAt t.mem (sliceGran 127 0) == encodeGran 55 && recorded 0x02 (blkSlice 127) t) = true ∧
    okWith (exec (.uncorrReread [encodeGran 55]) { sched with
      clock := { sched.clock with hold := true }, mem := { arb.mem with rereads := [(spot, 0)] } })
    (fun t => stackCode t 3 0x100000 == encodeGran 55 && (z3 t).retiring == [0x100] && recorded 0x02 (blkBezel 3) t) = true := by decide +kernel
theorem test_bead_fault : okWith (exec (.beadFault 5 true) arb) (fun t => (bd t).stopped && recorded 0x05 5 t && t.hub.pend.getLsbD 1029) = true := by
  decide +kernel

/-! ### Records, trace and dumps -/

theorem test_record_write : okWith (exec .faultRecordWrite { arb with faults := { waiting := [{ cls := 5 }, { cls := 6 }], nextSeq := 0xFFFFFFFF, gap := true } })
    (fun t => t.faults.ring == [{ cls := 5, seq := 0xFFFFFFFF, gap := true }] && t.faults.nextSeq == 0 && t.faults.waiting == [{ cls := 6 }] && !t.faults.gap) = true := by
  decide +kernel
set_option maxRecDepth 100000 in
theorem test_record_ring_full : okWith (exec .faultRecordWrite { arb with faults := { waiting := [{ cls := 5 }], nextSeq := 4096, ring := List.replicate 4096 {} } })
    (fun t => t.faults.ring.length == 4096 && t.faults.idxHost == 1 && t.faults.overHost == 1) = true := by decide +kernel
/-- TRACE_BASE 0, one 4 KiB frame: the 33rd entry wraps. -/
theorem test_trace : okWith (exec .traceWrite { arb with ledger := { arb.ledger with traceEn := true, traceSize := 1, traceN := 32, traceBuf := [.fault {}], drops := 4 } })
    (fun t => t.ledger.traceN == 33 && t.ledger.written == 1 && t.ledger.drops == 0 && t.ledger.traceBuf == []) = true := by decide +kernel
def dumpD (snap : Option Nat) : Dump := { snap, dest := 0x4000, loc := 1, tick := 9, vals := [], codes := [], seq := 3, skipped := 0 }
theorem test_dump : okWith (exec .dumpRecordWrite (mbx0 {} { arb with
      asy := { arb.asy with dumps := [dumpD (some 6)] }, nutas := { arb.nutas with cmds := [⟨6, 0, 0, true⟩] } }))
    (fun t => t.asy.dumps == [] && t.hub.pend.getLsbD 136 && t.nutas.ready.map (fun c => (c.mbx.val, c.status, c.r0, c.r1)) == [((0 : Nat), BitVec.ofNat 8 stOk, (0 : Word), (9 : Word))]) = true := by
  decide +kernel

/-! ### Mailboxes and commands -/

/-- A mailbox entry from its fields: byte offset and value. -/
def ent64 (l : List (Nat × Nat)) : BitVec 512 := BitVec.ofNat 512 ((l.map fun p => p.2 * 2 ^ (8 * p.1)).sum)
/-- Command 6 of a mailbox with CID 0x1234. -/
def cmd (m : MbxN) (l : List (Nat × Nat)) : Cmd := { num := 6, mbx := m, entry := ent64 ((2, 0x1234) :: l) }
/-- It is the only command. -/
def withCmd (c : Cmd) (s : State) : State := { mbx0 {} s with nutas := { s.nutas with cmds := [c] } }
/-- It has left the list, completed as given. -/
def doneAs (st : Nat) (r0 r1 : Word) (t : State) : Bool :=
  t.nutas.cmds == [] && t.nutas.ready.map (fun c => (c.cid, c.status, c.r0, c.r1)) == [(0x1234, BitVec.ofNat 8 st, r0, r1)]
/-- Its buffer: address and length in host memory. -/
def hostBuf (a n : Nat) : List (Nat × Nat) := [(8, a), (16, n), (20, 1)]

theorem test_entry_read : nextMailbox (mbx0 { tail := 15, head := 14 } up) = some 0 ∧
    okWith (exec (.mailboxEntryRead 0 (ent64 [(0, 0x13), (2, 7)]) true) (mbx0 { tail := 0, head := 15 } up))
      (fun t => (mbxOf t 0).head == 0 && t.nutas.cmds.map (fun c => (c.num, c.mbx.val, c.started)) == [(0, 0, false)] && t.nutas.ready == []) = true ∧
    okWith (exec (.mailboxEntryRead 0 (ent64 [(0, 0xFF), (2, 7)]) true) (mbx0 { tail := 1 } up))
      (fun t => t.nutas.cmds == [] && t.nutas.ready.map (fun c => (c.cid, c.status)) == [(7, BitVec.ofNat 8 stBadOpcode)]) = true ∧
    okWith (exec (.mailboxEntryRead 0 0 false) (mbx0 { tail := 1 } up))
      (fun t => (mbxOf t 0).errCode == 3 && recorded 0x15 blkLocket t && t.hub.pend.getLsbD 9) = true := by decide +kernel
def cpl (irq : Bool) : Completion := ⟨0, 7, 0, 2, 1, 2, 3, irq⟩
def cplS (q : Mbx) (irq : Bool := true) : State := { mbx0 q up with nutas := { up.nutas with ready := [cpl irq] } }
/-- The last entry of the ring is written and PHASE turns over. -/
theorem test_completion_write : readyOf (cplS {}) 0 = some (cpl true) ∧
    okWith (exec (.mailboxCompletionWrite 0 true) (cplS { cplTail := 15, cplHead := 3, head := 9 }))
      (fun t => (mbxOf t 0).cplTail == 0 && !(mbxOf t 0).phase && t.nutas.ready == [] && t.hub.pend.getLsbD 0 && (match t.out with
        | [.cache .woWrInv a e] => a == 32 * 15 && e.take 8 == [7, 0, 0, 0, 9, 0, 1, 2] && e.drop 24 == [3, 0, 0, 0, 0, 0, 0, 0]
        | _ => false)) = true ∧
    okWith (exec (.mailboxCompletionWrite 0 true) (cplS {} false)) (fun t => t.hub == up.hub) = true ∧
    okWith (exec (.mailboxCompletionWrite 0 true) (cplS { cplTail := 2, cplHead := 3 })) (fun t => (mbxOf t 0).held == [cpl true] && t.out == []) = true ∧
    okWith (exec (.mailboxCompletionWrite 0 false) (cplS {})) (fun t => (mbxOf t 0).errCode == 4 && recorded 0x15 blkLocket t) = true := by
  decide +kernel
/-- The index line follows a ring of 16 entries of 32 bytes; a write that fails stops the mailbox. -/
theorem test_held_write : okWith (exec (.heldCompletionWrite 0 ⟨9, true⟩) (mbx0 { held := [cpl true], cplTail := 2, cplHead := 3 } up))
      (fun t => (mbxOf t 0).held == [] && (mbxOf t 0).cplTail == 3 && (mbxOf t 0).cplHead == 9 && (match t.out with
        | [.cache .rdShared 512 _, .cache .woWrInv 64 e] => e.length == 32
        | _ => false)) = true ∧
    okWith (exec (.heldCompletionWrite 0 ⟨9, false⟩) (mbx0 { held := [cpl true], cplTail := 2, cplHead := 3 } up))
      (fun t => (mbxOf t 0).errCode == 4 && (mbxOf t 0).cplTail == 2 && recorded 0x15 blkLocket t) = true := by decide +kernel
/-- Two held completions at an even entry fill a host line. -/
theorem test_held_pair : okWith (exec (.heldCompletionWrite 0 ⟨9, true⟩) (mbx0 { held := [cpl true, cpl true], cplTail := 2, cplHead := 3 } up))
      (fun t => (mbxOf t 0).held == [] && (mbxOf t 0).cplTail == 4 && (match t.out with
        | [.cache .rdShared 512 _, .cache .itoMWr 64 e] => e.length == 64
        | _ => false)) = true := by decide +kernel
theorem witness_served : Served 6 0x00 [] noChecks noBuf (cmd 0 []) (withCmd (cmd 0 []) up) ∧
    Served 6 0x01 bufMaskAll noChecks (fun _ => some 256) (cmd 0 ((0, 1) :: hostBuf 0x4000 256)) (withCmd (cmd 0 ((0, 1) :: hostBuf 0x4000 256)) up) := by
  unfold Served ServedWith; decide +kernel
theorem test_nop_status : okWith (exec (.nop 6) (withCmd (cmd 0 []) up)) (doneAs 0 0 0) = true ∧
    okWith (exec (.status 6) (withCmd (cmd 0 [(0, 2)]) { arb with clock := { arb.clock with tick := 77 } })) (doneAs 0 (BitVec.ofNat 64 (modeReg arb)) 77) = true ∧
    okWith (exec (.nop 6) (withCmd (cmd 0 [(63, 1)]) up)) (doneAs stBadField 63 0) = true := by decide +kernel
/-- One byte short is a BAD_BUFFER; the identity begins with REVISION, 0x4D39 and 1,024 beads. -/
theorem test_identify : okWith (exec (.identify 6) (withCmd (cmd 0 ((0, 1) :: hostBuf 0x4000 256)) up))
      (fun t => doneAs 0 0 0 t && (match t.out with | [.hostWrite 0x4000 l] => (l.drop 2).take 4 == [0x39, 0x4D, 0, 4] | _ => false)) = true ∧
    okWith (exec (.identify 6) (withCmd (cmd 0 ((0, 1) :: hostBuf 0x4000 255)) up)) (doneAs stBadBuffer 0 0) = true := by decide +kernel
theorem test_posmap_cohorts : okWith (exec (.posmap 6) (withCmd (cmd 0 ((0, 3) :: hostBuf 0x4000 4608)) up))
      (fun t => doneAs 0 0 0 t && (match t.out with | [.hostWrite 0x4000 l] => l.take 8 == [0, 0x80, 0, 0, 1, 0, 0, 0] | _ => false)) = true ∧
    okWith (exec (.cohortRead 6) (withCmd (cmd 0 ((0, 0x32) :: hostBuf 0x4000 16384)) up)) (doneAs 0 0 0) = true := by decide +kernel
theorem test_ledger_read : okWith (exec (.ledgerRead 6) (withCmd (cmd 0 ([(0, 0x60), (32, 5), (40, 1)] ++ hostBuf 0x4000 64)) { arb with
      ledger := { arb.ledger with recs := [{ tick := 4 }, { tick := 6 }, { tick := 7 }] } })) (doneAs 0 1 6) = true := by decide +kernel
theorem test_flt_read : okWith (exec (.fltRead 6) (withCmd (cmd 0 ([(0, 0x80), (24, 1), (28, 2)] ++ hostBuf 0x4000 64)) { arb with
      faults := { nextSeq := 3, overHost := 9, ring := [{ seq := 0 }, { seq := 1 }, { seq := 2 }] } }))
    (fun t => doneAs 0 3 9 t && t.faults.overHost == 0 && (match t.out with | [.hostWrite _ l] => l.length == 64 && l.take 1 == [1] | _ => false)) = true := by
  decide +kernel
theorem test_flt_ack : okWith (exec (.fltAck 6) (withCmd (cmd 0 [(0, 0x81), (24, 3)]) { arb with faults := { nextSeq := 3 } }))
      (fun t => doneAs 0 0 0 t && t.faults.idxHost == 3 && t.faults.idxMgt == 0) = true ∧
    okWith (exec (.fltAck 6) (withCmd (cmd 0 [(0, 0x81), (24, 4)]) { arb with faults := { nextSeq := 3 } }))
      (fun t => doneAs stBadField 24 0 t && t.faults.idxHost == 0) = true := by decide +kernel

/-! ### The map -/

/-- MAP of the GiB at 0x40000000 onto the slices in facet 3, with R and W. -/
def mapC (l : List (Nat × Nat)) : Cmd := cmd 0 ([(0, 0x10), (24, 0x40000000), (32, 0x10000000000), (40, 1), (44, 2 + 4 + 8), (45, 8)] ++ l)
theorem test_map : okWith (exec (.map 6) (withCmd (mapC []) arb))
      (fun t => t.nutas.ready == [] && t.nutas.waits == [.map 6] && t.mmu.swapDue == none && t.nutas.loads == [⟨.stores, 2⟩] &&
        (match walkFrom t.mmu.shadow 3 0x40000000 3 0 with
          | some e => physOf e 0x40000040 == 0x10000000040 && e.rd && e.wr && !e.nc && e.bits == 30
          | none => false)) = true ∧
    okWith (exec (.map 6) (withCmd (mapC [(26, 1)]) arb)) (doneAs stBadField 24 0) = true ∧
    okWith (exec (.map 6) (withCmd (mapC []) { arb with standby := { arb.standby with owner := true } })) (doneAs stNotOwner 0 0) = true := by
  decide +kernel
theorem test_unmap : okWith (exec (.unmap 6) (withCmd (cmd 0 [(0, 0x11), (24, 0x40000000), (40, 1), (44, 2), (45, 8)])
      { arb with mmu := { arb.mmu with shadow := (mapped arb).mmu.active } }))
    (fun t => t.nutas.waits == [.map 6] && walkFrom t.mmu.shadow 3 0x40000000 3 0 == none) = true := by decide +kernel
theorem test_window : okWith (exec (.window 6) (withCmd (cmd 0 [(0, 0x12), (24, 7 + 8), (32, 2 ^ 40), (40, 2048)]) (atCk 16320 arb)))
      (fun t => t.nutas.waits == [.window 6] && tblGet {} t.mmu.winShadow 7 == ⟨true, false, 2 ^ 40, 2048⟩ && t.mmu.swapDue == some 1) = true ∧
    okWith (exec (.window 6) (withCmd (cmd 0 [(0, 0x12), (32, 2 ^ 40), (40, 2049)]) arb)) (doneAs stBadField 40 0) = true := by decide +kernel
theorem test_split : okWith (exec (.split 6) (withCmd (cmd 0 [(0, 0x13), (24, 8)]) arb)) (fun t => t.nutas.waits == [.split 6] && t.mem.split == 8 && t.mem.splitNow == 64) = true ∧
    okWith (exec (.split 6) (withCmd (cmd 0 [(0, 0x13), (24, 64)]) arb)) (doneAs 0 0 0) = true ∧
    okWith (exec (.split 6) (withCmd (cmd 0 [(0, 0x13), (24, 65)]) arb)) (doneAs stBadField 24 0) = true ∧
    okWith (exec .splitTakeEffect { withCmd (cmd 0 [(0, 0x13)]) arb with
        mem := { arb.mem with split := 8 }, nutas := { arb.nutas with cmds := [{ cmd 0 [(0, 0x13)] with started := true }], waits := [.split 6] } })
      (fun t => t.mem.splitNow == 8 && doneAs 0 0 0 t && t.nutas.waits == []) = true := by decide +kernel

/-! ### Bundles, programs, cohorts and plans -/

/-- What reads as zero is no bundle; a slot in use and a slot taken are told first. -/
theorem test_load_bundle : okWith (exec (.loadBundle 6) (withCmd (cmd 0 [(0, 0x20), (8, 0x4000), (16, 256)]) arb))
      (fun t => doneAs stBadSignature 0 0 t && bundleOf t 0 == none) = true ∧
    okWith (exec (.loadBundle 6) (withCmd (cmd 0 ((0, 0x20) :: hostBuf 0x4000 256)) arb)) (doneAs stBadBuffer 0 0) = true := by decide +kernel
/-- A bundle without settings whose map has every port at its own peer. -/
def bun : Bundle := { addr := 0, len := 8192, nset := 0, nimg := 0, ntick := 0, reserve := 0, express := 0, schedOff := 0, setOff := 0
                      imgOff := 0, pathOff := 0, npath := 0, digest := 0, portmap := 0x0F0E0D0C0B0A09080706050403020100 }
def inSlot (n : Nat) (s : State) : State := { s with nutas := { s.nutas with bundles := [(n, some bun)] } }
theorem test_slot_taken : okWith (exec (.loadBundle 6) (withCmd (cmd 0 [(0, 0x20), (8, 0x4000), (16, 256), (24, 3)]) (inSlot 3 arb)))
      (doneAs stNoSpace 0 0) = true := by decide +kernel
theorem test_drop_bundle : okWith (exec (.dropBundle 6) (withCmd (cmd 0 [(0, 0x21), (24, 3)]) (inSlot 3 arb))) (fun t => doneAs 0 0 0 t && bundleOf t 3 == none) = true ∧
    okWith (exec (.dropBundle 6) (withCmd (cmd 0 [(0, 0x21), (24, 3)]) (inSlot 3 { arb with nutas := { arb.nutas with plan := { phase := .running, slot := 3 } } })))
      (fun t => doneAs stPlanRunning 0 0 t && (bundleOf t 3).isSome) = true := by decide +kernel
/-- An image of four bytes with hart 0's entry at 0x1000 (bit 0 its start bit). -/
def img4 : List Byte := [4, 0, 0, 0, 1, 0x10, 0, 0x10, 0, 0x10, 0, 0x10] ++ List.replicate 52 0 ++ [0x13, 0, 0, 0]
def loadC : Cmd := cmd 0 ([(0, 0x22), (24, 5), (26, 5)] ++ hostBuf 0x4000 68)
set_option maxRecDepth 100000 in
/-- The monitor's bytes are left to Config, so the comparison of the banks is not evaluated here. -/
theorem test_load_program : imageBad (imageOfBytes (img4.take 64)) = none ∧
    liveIn arb 5 5 = [5] ∧ arb.nutas.loads = [] ∧ startable (withCmd loadC arb) loadC = true ∧
    precheck (withCmd loadC arb) loadC (bufMaskAll ++ bytesMask 24 4) [] (some 64) none = none ∧
    okWith (exec (.loadProgram 6 img4) (withCmd (cmd 0 ([(0, 0x22), (24, 6), (26, 5)] ++ hostBuf 0x4000 68)) arb)) (doneAs stInvalidTarget 0 0) = true ∧
    okWith (exec (.loadProgram 6 img4) (withCmd (cmd 0 ([(0, 0x22), (24, 5), (26, 5)] ++ hostBuf 0x4000 68)) sched)) (doneAs stPlanRunning 0 0) = true := by
  decide +kernel
/-- Adapter 300: rank 8 fixes group width 8, of which a pavé has slots 0 to 7; rank 9 fixes another (R286). -/
def bindC (slot rank : Nat) : Cmd := cmd 0 [(0, 0x30), (24, 300), (26, 4 * slot), (28, rank), (30, 9), (32, 0xABC)]
theorem test_bind : okWith (exec (.bind 6) (withCmd (bindC 7 8) arb)) (fun t => t.nutas.waits == [.view 6 300 true] && t.nutas.loads == [⟨.view, 37376⟩] &&
        cohortOf t 300 == { st := 2, slot := 7, rank := 8, pave := 9, setTag := 0xABC }) = true ∧
    okWith (exec (.bind 6) (withCmd (bindC 7 9) arb)) (doneAs stCohortConflict 0 0) = true ∧
    okWith (exec (.bind 6) (withCmd (bindC 7 257) arb)) (doneAs stBadField 28 0) = true := by decide +kernel
def bound (s : State) : State := { s with nutas := { s.nutas with cohorts := [(300, { st := 1, slot := 0, rank := 16, pave := 9 })] } }
theorem test_unbind : okWith (exec (.unbind 6) (withCmd (cmd 0 [(0, 0x31), (24, 300)]) (bound arb)))
      (fun t => t.nutas.waits == [.view 6 300 false] && (cohortOf t 300).st == 3) = true ∧
    okWith (exec (.unbind 6) (withCmd (cmd 0 [(0, 0x31), (24, 300)]) { arb with nutas := { (bound arb).nutas with
        cohorts := [(5, { st := 1, slot := 1, pave := 9 }), (300, { st := 1, slot := 0, pave := 9 })] } })) (doneAs stCohortBusy 0 0) = true := by decide +kernel
def runC : Cmd := cmd 0 [(0, 0x50), (24, 3)]
theorem test_run_refused : okWith (exec (.run 6) (withCmd runC arb)) (doneAs stNoBundle 0 0) = true ∧
    okWith (exec (.run 6) (withCmd runC (inSlot 3 sched))) (doneAs stPlanRunning 0 0) = true := by decide +kernel
set_option maxRecDepth 100000 in
theorem witness_run : runBad (Started 6 (withCmd runC (inSlot 3 arb))) 3 0 0 = none ∧ bundleOf (withCmd runC (inSlot 3 arb)) 3 = some bun ∧
    arb.nutas.reachShadow ≠ reachNow arb := by decide +kernel
/-- A bead whose reach mask in the shadow is out of date has granules to load. -/
theorem run_loads (s : State) (b : Bundle) (n : Nat) (h : s.nutas.reachShadow ≠ reachNow s) (hl : ordLive s 5 = true) : loadGranules s b n ≠ 0 := by
  have key : ∀ f : Nat → Nat, 0 < f 5 → 0 < (((List.range 1024).filter (ordLive s)).map f).sum := fun f hf =>
    Nat.lt_of_lt_of_le hf (List.le_sum_of_mem (List.mem_map.mpr ⟨5, List.mem_filter.mpr ⟨List.mem_range.mpr (by omega), hl⟩, rfl⟩))
  let f : Nat → Nat := fun o => (if needsImage s o (settingBank s b (settingBase b n) o) then 2048 else 0) +
    (if checksDiffer (checkTable s (settingBase b n)) s.clasps.checkShadow (64 * o) 64 then 8 else 0) +
    (if s.nutas.reachShadow = reachNow s then 0 else 4)
  have hf : 0 < f 5 := by simp only [f, if_neg h]; omega
  have hk := key f hf
  unfold loadGranules
  simp only [f] at hk
  simp only
  omega
def running (s : State) : State := { s with nutas := { s.nutas with plan := { phase := .running, num := 9 } } }
theorem test_stop : okWith (exec (.stop 6) (withCmd (cmd 0 [(0, 0x51)]) arb)) (doneAs stNotRunning 0 0) = true ∧
    okWith (exec (.stop 6) (withCmd (cmd 0 [(0, 0x51)]) (running sched)))
      (fun t => t.nutas.waits == [.stop 6] && t.clock.leaving && !t.clock.endFault && t.nutas.plan.phase == .stopping) = true ∧
    okWith (exec (.stop 6) { withCmd (cmd 0 [(0, 0x51)]) arb with nutas := { arb.nutas with
        plan := { phase := .waiting, num := 9 }, cmds := [cmd 0 [(0, 0x51)], { cmd 0 [(0, 0x50), (2, 0)] with num := 9, started := true }] } })
      (fun t => t.nutas.plan == {} && t.nutas.ready.map (fun c => (c.opc, c.status)) == [(0x50, BitVec.ofNat 8 stStopped), (0x51, 0)]) = true := by decide +kernel
def loading (n : Nat) (s : State) : State := { bound s with nutas := { (bound s).nutas with loads := [⟨.view, n⟩] } }
theorem test_shadow_load : okWith (exec (.shadowLoad 2048) (atCk 16376 (loading 2049 arb))) (fun t => t.nutas.loads == [⟨.view, 1⟩] && t.nutas.loadedNow == 2048) = true ∧
    okWith (exec (.shadowLoad 1) (loading 1 arb)) (fun t => t.nutas.loads == [] && tblGet 0 t.nutas.viewShadow 300 == BitVec.ofNat 16 (1 + 64 * 9) && t.nutas.viewDue == some 0) = true := by
  decide +kernel
theorem test_shadow_load_rate : exec (.shadowLoad 2049) (loading 3000 arb) = .next (loading 3000 arb) := rfl

/-! ### Settings of units -/

/-- A free record with its sum area at 0x100000 and its other areas at 0, and a bezel with a region there. -/
def free192 : List Byte := List.replicate 18 0 ++ [0x10] ++ List.replicate 173 0
def redB (l : Tbl RedRec) : State := { arb with bezels := [(3, { recs := l, gens := [(0, { valid := true, hi := 0x10000, twin := 0x20000 })] })] }
set_option maxRecDepth 100000 in
theorem test_red_write : okWith (exec (.redWrite 6 free192) (withCmd (cmd 0 ([(0, 0x40), (24, 3), (28, 7), (32, 1)] ++ hostBuf 0x4000 192)) (redB [(7, { st := .broken }), (8, rec7)])))
      (fun t => doneAs 0 0 0 t && (recOf (z3 t) 7).st == .free && recOf (z3 t) 8 == rec7) = true ∧
    okWith (exec (.redWrite 6 free192) (withCmd (cmd 0 ([(0, 0x40), (24, 3), (28, 8), (32, 1)] ++ hostBuf 0x4000 192)) (redB [(8, rec7)])))
      (fun t => doneAs stRecordBusy 8 0 t && recOf (z3 t) 8 == rec7) = true := by decide +kernel
def genC : Cmd := cmd 0 [(0, 0x41), (24, 0x8008), (26, 2), (42, 0x9000), (47, 1), (48, 40), (54, 9)]
theorem test_gen_write : okWith (exec (.genWrite 6) (withCmd genC arb)) (fun t => doneAs 0 0 0 t &&
        tblGet {} (bezelOf t 15).gens 2 == { twin := 0x9000, valid := true, cur := 40, fanclasp := 9 } && tblGet {} (z3 t).gens 2 == tblGet {} (bezelOf t 15).gens 2 && (bezelOf t 4).gens == []) = true ∧
    okWith (exec (.genWrite 6) (withCmd genC { arb with bezels := [(3, { recs := [(7, rec7)] })] })) (doneAs stRecordBusy 0 0) = true := by decide +kernel
theorem test_opt_write : okWith (exec (.optWrite 6 ([3] ++ List.replicate 63 0)) (withCmd (cmd 0 ([(0, 0x42), (24, 8), (26, 15)] ++ hostBuf 0x4000 64)) arb))
    (fun t => doneAs 0 0 0 t && tblGet 0 (z3 t).optShadow 15 == 3 && (z3 t).optActive == []) = true := by decide +kernel
theorem test_red_cfg_command : okWith (exec (.redCfg 6) (withCmd (cmd 0 [(0, 0x43), (24, 8), (32, 65536)]) arb)) (fun t => doneAs 0 0 0 t && (z3 t).nblk == 65536) = true ∧
    okWith (exec (.redCfg 6) (withCmd (cmd 0 [(0, 0x43), (24, 8), (32, 65536)]) (running arb))) (doneAs stPlanRunning 0 0) = true := by decide +kernel
theorem test_ledger_ctl : okWith (exec (.ledgerCtl 6) (withCmd (cmd 0 [(0, 0x61), (24, 16), (28, 1)]) arb)) (fun t => t.ledger.newDepth == some (16, true) && t.nutas.waits == [.config 6 false]) = true ∧
    okWith (exec (.ledgerCtl 6) (withCmd (cmd 0 [(0, 0x61), (24, 15)]) arb)) (doneAs stBadField 24 0) = true := by decide +kernel
/-- CNT_CONFIG of 18,960 codes is too long for the kernel: here SIZE below one record is refused. -/
theorem test_cnt_config : okWith (exec (.cntConfig 6 []) (withCmd (cmd 0 ([(0, 0x70), (40, recordStride - 1)] ++ hostBuf 0x4000 (8 * blkCount))) arb)) (doneAs stBadField 40 0) = true := by
  decide +kernel
theorem witness_cnt_config : precheck (withCmd (cmd 0 ([(0, 0x70), (40, recordStride)] ++ hostBuf 0x4000 18960)) arb) (cmd 0 ([(0, 0x70), (40, recordStride)] ++ hostBuf 0x4000 18960))
    (bufMaskAll ++ bytesMask 32 6 ++ bytesMask 40 8) [] (some (8 * blkCount)) none = none := by decide +kernel
theorem test_cnt_snap : okWith (exec (.cntSnap 6) (withCmd (cmd 0 ((0, 0x71) :: hostBuf 0x4000 recordLen)) arb)) (fun t => t.nutas.waits == [.snap 6 0x4000 1]) = true := by decide +kernel

/-! ### Firmware and spares -/

/-- Signatures are left to Config, so no image is shown to verify here: one without the magic number does not. -/
theorem test_fw_stage : okWith (exec (.fwStage 6 [1, 2]) (withCmd (cmd 0 ((0, 0x90) :: hostBuf 0x4000 2)) arb)) (fun t => doneAs stBadSignature 0 0 t && t.nutas.stagedBy == none) = true := by
  decide +kernel
def stagedS (s : State) : State := { s with standby := { s.standby with imgB := [1] }, nutas := { s.nutas with stagedBy := some .host } }
theorem test_fw_activate : okWith (exec (.fwActivate 6) (withCmd (cmd 0 [(0, 0x91)]) (stagedS arb))) (fun t => t.nutas.handover == .waiting 6 none) = true ∧
    okWith (exec (.fwActivate 6) (withCmd (cmd 0 [(0, 0x91)]) arb)) (doneAs stNoStaged 0 0) = true := by decide +kernel
/-- Command 6 stands at a handover. -/
def hands (h : Handover) (s : State) : State := { withCmd (cmd 0 [(0, 0x91)]) (stagedS s) with
  nutas := { (stagedS s).nutas with cmds := [{ cmd 0 [(0, 0x91)] with started := true }], handover := h } }
theorem test_handover : okWith (exec .handoverTickStart (hands (.waiting 6 (some 0)) arb)) (fun t => t.nutas.handover == .inTick 6) = true ∧
    okWith (exec .fwActivateTimeout (hands (.waiting 6 (some 0)) { arb with clock := { arb.clock with tick := 65536 } })) (fun t => doneAs stPlanRunning 0 0 t && t.nutas.handover == .none) = true ∧
    okWith (exec .handoverReadyTimeout (hands (.inTick 6) (atCk 12289 arb))) (fun t => t.nutas.handover == .failed 6) = true ∧
    okWith (exec .handoverReady (hands (.inTick 6) (atCk 12288 arb))) (fun t => doneAs 0 0 0 t && t.standby.slot && t.standby.bootSlot && t.nutas.stagedBy == none) = true := by
  decide +kernel
def substC (pos : Nat) : Cmd := cmd 0 [(0, 0xA0), (24, 7), (25, 15), (26, pos)]
theorem test_subst : okWith (exec (.subst 6) (withCmd (substC 1) sched)) (fun t => t.nutas.waits == [.subst 6 (7 * 144 + 15 * 9 + 1)] && t.clock.forceSubst) = true ∧
    okWith (exec (.subst 6) (withCmd (substC 8) arb)) (fun t => doneAs stInvalidTarget 0 0 t && recorded 0x17 blkLocket t) = true ∧
    okWith (exec (.subst 6) (withCmd (substC 1) { arb with nutas := { arb.nutas with pos := [(7 * 144 + 15 * 9 + 8, some 6)] } })) (doneAs stNoSpare 0 0) = true ∧
    okWith (exec (.subst 6) (withCmd (substC 9) arb)) (doneAs stBadField 26 0) = true := by decide +kernel
theorem test_spare_test : okWith (exec (.spareTest 6 false) (withCmd (cmd 0 [(0, 0xA1), (24, 7), (25, 15)]) arb)) (fun t => doneAs 0 6 0 t && posState t (7 * 144 + 15 * 9 + 8) == 6) = true ∧
    okWith (exec (.spareTest 6 true) (withCmd (cmd 0 [(0, 0xA1), (24, 7), (25, 15)]) { arb with nutas := { arb.nutas with pos := [(7 * 144 + 15 * 9 + 8, some 3)] } })) (doneAs stNoSpare 0 0) = true := by
  decide +kernel

/-! ### The host link -/

/-- The module decodes 1 TiB from 2^40 on. -/
def linked (s : State) : State := { s with host := { s.host with link := 2, memEn := true, cacheEn := true, hdm := some (2 ^ 40) } }
def cxlOut (t : State) : List Msg := tblGet [] t.fabric.inj (0x820 * 16 + 2)
theorem test_host_requests : hostMem (linked up) (2 ^ 40 + spot) = some spot ∧
    okWith (exec (.memRd (2 ^ 40 + spot)) (linked up)) (fun t => (cxlOut t).map (fun m => (m.op, m.addr.toNat, m.dst.val, m.aux0, m.tag)) == [(opRead, spot, 0x803, 2, 0)] && t.host.nextTag == 1) = true ∧
    okWith (exec (.memWr (2 ^ 40 + spot) (BitVec.ofNat 512 (7 + 9 * 2 ^ 256)) false) (linked up)) (fun t => (cxlOut t).map (fun m => (m.op, m.len, m.data)) == [(opWrite, 2, [encodeGran 7, encodeGran 9])]) = true ∧
    okWith (exec (.memWr (2 ^ 40 + spot) 0 true) (linked up)) (fun t => (cxlOut t).map (·.data) == [[poisonCode, poisonCode]] && t.host.poisonRx == 1 && recorded 0x14 blkCxl t && t.hub.pend.getLsbD 129) = true ∧
    okWith (exec (.memWrPtl (2 ^ 40 + spot) 0x80000000 ⟨7, false⟩) (linked up)) (fun t => (cxlOut t).map (fun m => (m.op, m.len, m.aux0, m.data)) == [(opPart, 1, 0x80000000, [encodeGran 7])]) = true ∧
    okWith (exec (.memInv (2 ^ 40 + spot)) { linked up with bezels := [(3, { lines := [0x100000 / 64, 5] })] }) (fun t => (z3 t).lines == [5]) = true ∧
    okWith (exec (.memSpecRd (2 ^ 40 + spot)) (linked up)) (fun t => t == linked up) = true := by decide +kernel
def heldWr : SortReq := ⟨writeSpot, 0, 0, true⟩
theorem test_bi_rsp : okWith (exec (.biRsp 3 5) (wBz { lines := [5, 6], snoops := [(5, 0)] })) (fun t => (z3 t).lines == [6] && (z3 t).snoops == []) = true ∧
    okWith (exec (.biRsp 3 (0x100000 / 64)) (wBz { lines := [0x100000 / 64], snoops := [(0x100000 / 64, 0)], sorter := [heldWr] })) (fun t => (z3 t).lines == [] && (z3 t).sorter == [] && stackCode t 3 0x100000 == encodeGran 55) = true ∧
    okWith (exec (.backInvalidateTimeout 3 5) (wBz { lines := [5, 6], snoops := [(5, 0)] } { arb with clock := { arb.clock with tick := 4 } })) (fun t => (z3 t).lines == [6] && t.host.biTmo == 1 && recorded 0x14 blkCxl t && t.hub.pend.getLsbD 129) = true := by
  decide +kernel
/-- A board-tier read of one granule from the bezel node 0x803 waits for the host since tick 10. -/
def uioS (tick : BitVec 48) : State := { linked up with clock := { up.clock with tick }, host := { (linked up).host with
  uio := [⟨4, 2, 0, 1, 0x1000, 10⟩], jobs := [{ num := 2, msg := { msg 0x803 0x820 opRead 0 with aux0 := 1, tag := 6 }, left := 1 }] } }
def cxlAns (t : State) : List (BitVec 10 × BitVec 16 × List Code) := (tblGet [] t.fabric.inj (0x820 * 16 + 1)).map fun m => (m.tag, m.status, m.data)
theorem test_uio : okWith (exec (.uioCompletion 4 .ok [55]) (uioS 0)) (fun t => t.host.uio == [] && t.host.jobs == [] && cxlAns t == [(6, 0, [encodeGran 55])]) = true ∧
    okWith (exec (.uioCompletion 4 .abort []) (uioS 0)) (fun t => cxlAns t == [(6, 1 + 256 * 3, [poisonCode])] && recorded 0x02 blkCxl t) = true ∧
    okWith (exec (.uioTimeout 4) (uioS 132)) (fun t => t.host.uio == [] && t.host.uncorr == 1 && recorded 0x14 blkCxl t && recorded 0x02 blkCxl t) = true := by decide +kernel
theorem test_uio_early : exec (.uioTimeout 4) (uioS 131) = .next (uioS 131) := rfl
theorem test_link : okWith (exec (.hostLinkUp false) { up with host := { up.host with link := 1 } }) (fun t => t.host.link == 2 && t.host.speed == 1 && t.host.width == 16) = true ∧
    okWith (exec .hostLinkDown { linked up with bezels := [(3, { lines := [5] })], fabric := { up.fabric with inj := [(0x820 * 16 + 2, [msg 0x820 0x803 opRead 0])] } })
      (fun t => t.host.link == 1 && t.host.linkDown == 1 && (z3 t).lines == [] && cxlOut t == [] && recorded 0x14 blkCxl t) = true ∧
    okWith (exec (.hostLinkError .fatal) (linked up)) (fun t => t.host.link == 1) = true ∧
    okWith (exec (.hostLinkError .corrected) (linked up)) (fun t => t.host.corr == 1 && t.faults.waiting == []) = true ∧
    [(LinkError.poisonRx, (1, 0, 0)), (.uioTimeout, (0, 1, 0)), (.unsupported, (0, 1, 0)), (.biTimeout, (0, 0, 1))].all (fun x =>
      okWith (exec (.hostLinkError x.1) (linked up)) (fun t => (t.host.poisonRx.toNat, t.host.uncorr.toNat, t.host.biTmo.toNat) == x.2 && recorded 0x14 blkCxl t)) = true := by
  decide +kernel
/-- The locket cache holds two lines. -/
def cached (s : State) : State := { s with host := { s.host with cache := [77, 5] } }
theorem test_link_cal : okWith (exec (.hostLaneCalibration 0 true) (linked up)) (fun t => t.host.cal && t.host.calLane == 0 && t.host.width == 8 && t.host.l0p && t.host.calNext == 1 && t.out == [.l0p true true]) = true ∧
    okWith (exec (.hostLaneCalibration 0 false) (linked up)) (fun t => !t.host.cal && recorded 0x14 blkCxl t) = true ∧
    okWith (exec .hostCalibrationDone { linked up with host := { (linked up).host with cal := true, width := 8, l0p := true } }) (fun t => !t.host.cal && t.host.width == 16 && t.out == [.l0p false true]) = true ∧
    okWith (exec (.h2dSnoop 77) (cached (linked up))) (fun t => t.out == [.snoop 77 true] && t.host.cache == [5]) = true ∧
    okWith (exec (.uioRequestToModule 77) (linked up)) (fun t => t.out == [.aer .nonfatal, .unsupported] && t.host.aerNonfatal && t.host.uncorr == 1 && recorded 0x14 blkCxl t) = true := by decide +kernel
theorem test_msix : okWith (exec (.msixUnmask 31) { linked up with hub := { up.hub with msixEn := true, busMaster := true, msixAddr := [(31, 0x5000)], msixData := [(31, 9)], pba := 0x80000001, line := BitVec.ofNat 37 (2 ^ 35) } })
      (fun t => t.out == [.msix 31 0x5000 9] && t.hub.pba == 1 && t.hub.vmask == 0x7FFFFFFF) = true ∧
    okWith (exec (.msixUnmask 31) { linked up with hub := { up.hub with msixEn := true, busMaster := true, fmask := true, pba := 0x80000001 } }) (fun t => t.out == [] && t.hub.pba == 0x80000001) = true := by
  decide +kernel
theorem test_capability : okWith (exec (.capabilityWrite (.memEnable false)) (linked up)) (fun t => !t.host.memEn) = true ∧
    okWith (exec (.capabilityWrite (.cacheEnable false)) (linked up)) (fun t => !t.host.cacheEn) = true ∧
    okWith (exec (.capabilityWrite (.uioEnable true)) (linked up)) (fun t => t.host.uioEn) = true ∧
    okWith (exec (.capabilityWrite (.hdmCommit (2 ^ 41) 1)) (linked up)) (fun t => t.host.hdm == some (2 ^ 41)) = true ∧
    okWith (exec (.capabilityWrite (.msixEnable false)) { linked up with hub := { up.hub with pba := 3 } }) (fun t => t.hub.pba == 0) = true ∧
    okWith (exec (.capabilityWrite (.functionMask false)) { linked up with hub := { up.hub with pba := 3, vmask := 2 } }) (fun t => !t.hub.pba.getLsbD 0) = true ∧
    okWith (exec (.capabilityWrite (.vectorMask 4)) { linked up with hub := { up.hub with vmask := 1 } }) (fun t => t.hub.vmask == 0x11) = true := by decide +kernel

/-! ### The management port -/

/-- The lane is up. -/
def lane (m : Mgmt) : State := { up with mgmt := { m with up := true } }
/-- A frame of a type, with the CRC of its fields. -/
def fr (typ : BitVec 4) (seq ack : BitVec 8) (payload : List Byte := []) : MgmtFrame := mgmtFrame typ seq ack payload
/-- Frames that arrive intact (R624), whatever numbers Config gives the CRC. -/
theorem fr_ok (typ : BitVec 4) (seq ack : BitVec 8) (payload : List Byte) : frameOk (fr typ seq ack payload) = true := by
  have h : mgmtCrc (fr typ seq ack payload) = (fr typ seq ack payload).crc := rfl
  unfold frameOk
  rw [h, beq_self_eq_true]; rfl
theorem fr_bad (f : MgmtFrame) : frameOk { f with crc := mgmtCrc f + 1 } = false := by
  show (mgmtCrc f + 1 == mgmtCrc f && _) = false
  rw [crc_off]; rfl
theorem data_in (seq ack : BitVec 8) (payload : List Byte) (s : State) :
    exec (.mgmtDataFrame (fr 1 seq ack payload)) s = whenOk s (mgmtUp s) (dataIn true (fr 1 seq ack payload) s) := by
  show whenOk s (mgmtUp s && true) (dataIn (frameOk (fr 1 seq ack payload)) _ s) = _
  rw [fr_ok, Bool.and_true]
theorem ack_in (seq ack : BitVec 8) (s : State) : exec (.mgmtAckFrame (fr 2 seq ack)) s = whenOk s (mgmtUp s) (mgmtAckIn ack s) := by
  show whenOk s (mgmtUp s && true && frameOk (fr 2 seq ack [])) _ = _
  rw [fr_ok, Bool.and_true, Bool.and_true]; rfl
theorem nak_in (seq ack : BitVec 8) (s : State) : exec (.mgmtNakFrame (fr 3 seq ack)) s = whenOk s (mgmtUp s) (nakIn ack s) := by
  show whenOk s (mgmtUp s && true && frameOk (fr 3 seq ack [])) _ = _
  rw [fr_ok, Bool.and_true, Bool.and_true]; rfl
theorem idle_in (seq ack : BitVec 8) (s : State) : exec (.mgmtIdleFrame (fr 0 seq ack)) s = whenOk s (mgmtUp s) (mgmtAckIn ack s) := by
  show whenOk s (mgmtUp s && true && frameOk (fr 0 seq ack [])) _ = _
  rw [fr_ok, Bool.and_true, Bool.and_true]; rfl
/-- The management frames that have left: type, SEQ, ACKSEQ and payload. -/
def outMgmt (t : State) : List (BitVec 4 × BitVec 8 × BitVec 8 × List Byte) := t.out.filterMap fun o => match o with
  | .mgmt f => some (f.typ, f.seq, f.ackSeq, f.payload)
  | _ => none
def sentF (seq : BitVec 8) (n : Nat) (cpl : Bool := false) : MgmtSent := ⟨seq, { bytes := [seq], cpl }, n⟩
/-- Get Endpoint ID from endpoint 9, tag 5, with the tag owner's bit. -/
def getEid : MgmtFrame := fr 1 0 0 [1, 0, 9, 0xCD, 0, 0x80, 2]
theorem test_data_frame : okWith (exec (.mgmtDataFrame getEid) (lane {})) (fun t => outMgmt t == [(2, 0, 0, [])] && t.mgmt.rxLast == 0 && t.mgmt.msgs == [{ src := 9, tag := 5, body := [0, 0x80, 2] }]) = true ∧
    okWith (exec (.mgmtDataFrame (fr 1 1 0 [7])) (lane {})) (fun t => outMgmt t == [(3, 0, 0xFF, [])] && t.mgmt.msgs == []) = true ∧
    okWith (exec (.mgmtDataFrame (fr 2 0 0 [7])) (lane {})) (fun t => t.out == []) = true := by
  unfold getEid
  rw [data_in, data_in]; decide +kernel
theorem test_data_bad_crc : okWith (exec (.mgmtDataFrame { getEid with crc := mgmtCrc getEid + 1 }) (lane {})) (fun t => outMgmt t == [(3, 0, 0xFF, [])] && t.mgmt.msgs == []) = true := by
  show okWith (whenOk _ _ (dataIn (frameOk { getEid with crc := mgmtCrc getEid + 1 }) _ _)) _ = true
  rw [fr_bad]; decide +kernel
theorem test_acks : [Instr.mgmtAckFrame (fr 2 0 4), .mgmtIdleFrame (fr 0 0 4)].all (fun c => okWith (exec c (lane { unacked := [sentF 3 0 true, sentF 4 2, sentF 5 0], cplRing := [[1], [2]], cplSent := 1 }))
      (fun t => t.mgmt.unacked == [sentF 5 0] && t.mgmt.cplRing == [[2]] && t.out == [])) = true ∧
    okWith (exec (.mgmtNakFrame (fr 3 0 9)) (lane { unacked := [sentF 3 14] })) (fun t => outMgmt t == [(1, 3, 0xFF, [3])] && t.mgmt.unacked == [sentF 3 15]) = true ∧
    okWith (exec (.mgmtAckFrame { fr 2 0 3 with reserved := 1 }) (lane { unacked := [sentF 3 0] })) (fun t => t.mgmt.unacked == [sentF 3 0]) = true := by
  simp only [List.all_cons, List.all_nil, ack_in, idle_in, nak_in]
  refine ⟨by decide +kernel, by decide +kernel, ?_⟩
  show okWith (whenOk _ (_ && (_ && false)) _) _ = true
  rw [Bool.and_false, Bool.and_false]; decide +kernel
theorem test_lane_timers : okWith (exec .mgmtResendTimeout (lane { unacked := [sentF 3 14] })) (fun t => outMgmt t == [(1, 3, 0xFF, [3])] && t.mgmt.up) = true ∧
    okWith (exec .mgmtResendTimeout (lane { unacked := [sentF 3 15] })) (fun t => outMgmt t == [(1, 3, 0xFF, [3])] && !t.mgmt.up) = true ∧
    okWith (exec .mgmtIdleTimeout (lane {})) (fun t => outMgmt t == [(0, 0, 0xFF, [])]) = true ∧
    okWith (exec .mgmtLaneDownTimeout (lane {})) (fun t => !t.mgmt.up) = true ∧
    okWith (exec .mgmtLaneUp { up with mgmt := { unacked := [sentF 3 9] } }) (fun t => t.mgmt.up && t.mgmt.unacked == [sentF 3 0] && outMgmt t == [(1, 3, 0xFF, [3])]) = true := by decide +kernel
def hubS : State := { lane { eid := 7, boss := 9 } with hub := { up.hub with pend := srcBit 130 ||| srcBit 5, cnt := [(130, 1)], line := BitVec.ofNat 37 (2 ^ 36), mask := [(36, 0)], pendWas := srcBit 130 ||| srcBit 5, cntWas := [(130, 1)], maskWas := [(36, 0)] } }
theorem test_event_send : (claimValue hubS.hub 36).2 = some 130 ∧
    okWith (exec .mgmtEventSend hubS) (fun t => t.hub.pend == srcBit 5 && t.mgmt.ownTag == 1 && t.out.length == 1) = true ∧
    okWith (exec .mbxCpl (lane { eid := 7, cplRing := [[1], [2]], cplSent := 1 })) (fun t => t.mgmt.cplSent == 2 && t.out.length == 1) = true := by decide +kernel
/-- A control command from endpoint 9. -/
def ctlS (b : List Byte) : State := lane { eid := 7, msgs := [{ src := 9, tag := 5, body := [0, 0x80] ++ b }] }
def answer (b : List Byte) (t : State) : Bool := match outMgmt t with | [(1, _, _, p)] => p.drop 4 == b | _ => false
theorem test_control : okWith (exec .setEndpointId (ctlS [1, 0, 0x42])) (fun t => t.mgmt.eid == 0x42 && t.mgmt.boss == 9 && answer [0, 0, 1, 0, 0, 0x42, 0] t) = true ∧
    okWith (exec .setEndpointId (ctlS [1, 0, 0xFF])) (fun t => t.mgmt.eid == 7 && answer [0, 0, 1, 2] t) = true ∧
    okWith (exec .getEndpointId (ctlS [2])) (answer [0, 0, 2, 0, 7, 0, 0]) = true ∧
    okWith (exec .getMctpVersionSupport (ctlS [4, 0x10])) (answer [0, 0, 4, 0x80]) = true ∧
    okWith (exec .getMctpVersionSupport (ctlS [4, 0x7F])) (fun t => t.mgmt.msgs == [] && t.out.length == 1) = true ∧
    okWith (exec .getMessageTypeSupport (ctlS [5])) (answer [0, 0, 5, 0, 2, 0, 0x7F]) = true ∧
    okWith (exec .getVendorDefinedMsgSupport (ctlS [6, 0])) (fun t => t.mgmt.msgs == [] && t.out.length == 1) = true := by decide +kernel

/-- A request of R626 from endpoint 9: OPC, INST 0x80, BODY. -/
def thReq (opc : Byte) (b : List Byte) : MgmtReq := { src := 9, tag := 5, body := [0x7F] ++ ianaBytes ++ [opc, 0x80, 0, 0] ++ b }
theorem thReq_isThaset (opc : Byte) (b : List Byte) : isThaset (thReq opc b) = true := by
  have h : ianaBytes.length = 4 := by simp [ianaBytes, idBytes]
  simp [isThaset, thReq, msgByte, nth, bitOf, h, List.getD_eq_getElem?_getD, List.getElem?_append]
  omega
/-- It is the only message. -/
def asked (opc : Byte) (b : List Byte) (s : State) : State := { s with mgmt := { s.mgmt with up := true, msgs := [thReq opc b] } }
/-- Its row serves it. -/
theorem okWith_asked (opc : Byte) (b : List Byte) (n : Nat) (sel : MgmtReq → Bool) (f : MgmtReq → State → State) (s : State)
    (p : State → Bool) (h : s.standby.standby = true) (ho : (msgOpc (thReq opc b) == n) = true) (hs : sel (thReq opc b) = true)
    (hp : p (f (thReq opc b) { s with mgmt := { s.mgmt with up := true, msgs := [] } }) = true) :
    okWith (thRow n sel f (asked opc b s)) p = true := by
  simp only [thRow, asked, h, thReq_isThaset, ho, hs, whenOk, Bool.and_self, if_true]
  exact hp
/-- OPC, INST, status, 0 and the body that answer it. -/
def replied (opc : Byte) (status : Byte) (b : List Byte) (t : State) : Bool :=
  t.mgmt.msgs == [] && (match outMgmt t with | [(1, _, _, p)] => p.drop 9 == [opc, 0, status, 0] ++ b | _ => false)
/-- Body bytes of an offset. -/
def off4 (a : Nat) : List Byte := toBytes 4 a

theorem test_mbx_post : okWith (exec .mbxPost (asked 1 (List.replicate 64 7) { up with mbxs := [(8, { tail := 15, head := 3 })] }))
    (fun t => replied 1 0 [3, 0] t && (mbxOf t 8).tail == 0 && tblGet 0 t.mgmt.ring 15 == BitVec.ofNat 512 (ofBytes (List.replicate 64 7))) = true :=
  okWith_asked _ _ _ _ _ _ _ rfl (by decide +kernel) rfl (by decide +kernel)
theorem test_mbx_post_full : okWith (exec .mbxPost (asked 1 (List.replicate 64 7) { up with mbxs := [(8, { tail := 2, head := 3 })] }))
    (fun t => replied 1 3 [] t && (mbxOf t 8).tail == 2) = true := okWith_asked _ _ _ _ _ _ _ rfl (by decide +kernel) rfl (by decide +kernel)
theorem test_reg_read : okWith (exec .regRead (asked 3 (off4 0x060000 ++ [8]) { up with clasps := { up.clasps with sel := 0xABCDEF } }))
    (replied 3 0 [0xEF, 0xCD, 0xAB, 0, 0, 0, 0, 0]) = true := okWith_asked _ _ _ _ _ _ _ rfl (by decide +kernel) rfl (by decide +kernel)
theorem test_reg_read_down : okWith (exec .regRead (asked 3 (off4 0x060000 ++ [8]) { up with standby := { up.standby with mainUp := false } }))
    (replied 3 4 []) = true := okWith_asked _ _ _ _ _ _ _ rfl (by decide +kernel) rfl (by decide +kernel)
theorem test_reg_write : okWith (exec .regWrite (asked 4 (off4 0x060000 ++ [8] ++ toBytes 8 0x1ABCDEF) up))
    (fun t => replied 4 0 [] t && t.clasps.sel == 0xABCDEF) = true := okWith_asked _ _ _ _ _ _ _ rfl (by decide +kernel) rfl (by decide +kernel)
theorem test_reg_write_refused : okWith (exec .regWrite (asked 4 (off4 0x0A0010 ++ [8] ++ toBytes 8 9) up))
    (fun t => replied 4 5 [] t && recorded 0x16 blkLocket t) = true := okWith_asked _ _ _ _ _ _ _ rfl (by decide +kernel) rfl (by decide +kernel)
theorem test_stage_write : okWith (exec .stageWrite (asked 5 (off4 33554430 ++ [1, 2]) up))
    (fun t => replied 5 0 [] t && tblGet 0 t.mgmt.stage 33554431 == 2) = true := okWith_asked _ _ _ _ _ _ _ rfl (by decide +kernel) rfl (by decide +kernel)
theorem test_stage_read : okWith (exec .stageRead (asked 6 (off4 7 ++ [2, 0]) { up with mgmt := { stage := [(8, 5)] } }))
    (replied 6 0 [0, 5]) = true := okWith_asked _ _ _ _ _ _ _ rfl (by decide +kernel) rfl (by decide +kernel)
theorem test_power_on : okWith (exec .powerOn (asked 7 [0] { up with standby := { up.standby with holdOff := true } }))
    (fun t => !t.standby.holdOff && replied 7 0 (toBytes 8 6) t) = true := by
  unfold exec; simp only []; unfold execPowerOn
  exact okWith_asked _ _ _ _ _ _ _ rfl (by decide +kernel) (by decide +kernel) (by decide +kernel)
theorem test_power_off_refused : okWith (exec .powerOff (asked 7 [1] up)) (fun t => replied 7 5 [] t && !t.standby.holdOff) = true :=
  by
  unfold exec; simp only []; unfold execPowerOff
  exact okWith_asked _ _ _ _ _ _ _ rfl (by decide +kernel) (by decide +kernel) (by decide +kernel)
theorem test_power_off_forced : okWith (exec .powerOff (asked 7 [5] up)) (fun t => replied 7 0 (toBytes 8 5) t && t.standby.holdOff && t.standby.phase == 0) = true :=
  by
  unfold exec; simp only []; unfold execPowerOff
  exact okWith_asked _ _ _ _ _ _ _ rfl (by decide +kernel) (by decide +kernel) (by decide +kernel)
theorem test_power_cycle : okWith (exec .powerCycle (asked 7 [2] { up with standby := { up.standby with owner := true } }))
    (fun t => t.standby.cycling && t.standby.holdOff && t.standby.phase == 0) = true := by
  unfold exec; simp only []; unfold execPowerCycle
  exact okWith_asked _ _ _ _ _ _ _ rfl (by decide +kernel) (by decide +kernel) (by decide +kernel)
theorem test_takeover : okWith (exec .takeoverRequest (asked 8 [2, 0, 0, 0, 30, 0, 0] up))
    (fun t => t.standby.pending && t.standby.force && t.standby.graceLeft == 30 && t.hub.pend.getLsbD 130 && t.out == []) = true :=
  by
  unfold exec; simp only []; unfold execTakeoverRequest
  exact okWith_asked _ _ _ _ _ _ _ rfl (by decide +kernel) (by decide +kernel) (by decide +kernel)
theorem test_takeover_busy : okWith (exec .takeoverRequest (asked 8 [0, 0, 0, 0, 30, 0, 0] { up with standby := { up.standby with pending := true } }))
    (replied 8 6 []) = true := by
  unfold exec; simp only []; unfold execTakeoverRequest
  exact okWith_asked _ _ _ _ _ _ _ rfl (by decide +kernel) (by decide +kernel) (by decide +kernel)
theorem test_release : okWith (exec .takeoverRelease (asked 8 [1, 0, 0, 0, 0, 0, 0] { up with standby := { up.standby with owner := true } }))
    (fun t => t.standby.release) = true := by
  unfold exec; simp only []; unfold execTakeoverRelease
  exact okWith_asked _ _ _ _ _ _ _ rfl (by decide +kernel) (by decide +kernel) (by decide +kernel)
/-- The report holds hashes and a signature, which are left to Config: only its number is looked at. -/
theorem test_attest_make : okWith (exec .attestMake (asked 10 ([0, 0, 0, 0] ++ List.replicate 64 7) { up with sec := { up.sec with repId := 4 } }))
    (fun t => t.sec.repId == 5 && replied 10 0 (toBytes 4 5 ++ toBytes 4 7936) t) = true := by
  unfold exec; simp only []; unfold execAttestMake
  exact okWith_asked _ _ _ _ _ _ _ rfl (by decide +kernel) (by decide +kernel) (by decide +kernel)
/-- Two bytes from the end of a report of 7,936 bytes; one byte more is a BAD_FIELD. -/
theorem test_attest_fetch : okWith (exec .attestFetch (asked 10 ([1, 0, 0, 0] ++ toBytes 4 4 ++ toBytes 4 7934 ++ [2, 0, 0]) { up with sec := { up.sec with repId := 4, report := List.replicate 7934 7 ++ [8, 9] } }))
    (replied 10 0 [8, 9]) = true := by
  unfold exec; simp only []; unfold execAttestFetch
  exact okWith_asked _ _ _ _ _ _ _ rfl (by decide +kernel) (by decide +kernel) (by decide +kernel)
theorem test_attest_fetch_bad : okWith (exec .attestFetch (asked 10 ([1, 0, 0, 0] ++ toBytes 4 4 ++ toBytes 4 7935 ++ [2, 0, 0]) { up with sec := { up.sec with repId := 4, report := [7] } }))
    (replied 10 2 []) = true := by
  unfold exec; simp only []; unfold execAttestFetch
  exact okWith_asked _ _ _ _ _ _ _ rfl (by decide +kernel) (by decide +kernel) (by decide +kernel)

/-! ### Further cases of the statements -/

/-- R547: NBLK beyond 65,536 is ignored, INTAKE_LO is taken. -/
theorem test_red_cfg_wide : okWith (exec (.bzlRedCfgWrite .host 15 .full (65537 + 9 * 2 ^ 17)) up)
    (fun t => (bezelOf t 15).nblk == 0 && (bezelOf t 15).intakeLo == 9) = true := by decide +kernel
/-- R808: a load that still waits for its walk is given up, another hart's request is not. -/
theorem test_qfip_gives_up : okWith (exec (.qfipTrap 5 0) (at_ 0 { qfie := true, userMode := true, hold := .load 3 }
      { queues := [(3, { stop := true })], reqs := [{ rq .walk with owner := .hartLoad 0 }, { rq .ready with id := 4, owner := .hartStore 1 }] }))
    (fun t => (bd t).reqs.map (·.id) == [4] && (h0 t).hold == .none) = true := by decide +kernel

/-- The low parts of a split entry load behind its high parts (R200). -/
def mmSplit : QEntry := { mm1 with tcfg := 0x2010101 }
theorem test_weights_split : streaming (bd (bq 0 [mmSplit])) 0 = some mmSplit ∧
    okWith (exec (.weightsActivate 5 0) (bq 0 [mmSplit] { arrs := [(0, { standby := some w1 })], tiles := [(3, { st := .full, elems := [(0, 0x3F80)] })] }))
      (fun t => ((arrayOf (bd t) 0).standby.map fun w => (w.pass, w.elems)) == some (2, [(0, 0x3F80)]) && (arrayOf (bd t) 0).active == some w1) = true := by
  decide +kernel
theorem test_row_of_gone_entry : okWith (exec (.arrayRowComplete 5 0) (bq 0 [] { accs := [(1, { full := true })], arrs := [(0, { flight :=
      [{ entry := 8, acc := 1, row := 0, ow := true, split := false, fmt := 1, xs := [0x4000], lo := 0, hi := 1, frozen := false, wipe := some 1, w := w1 }] })] }))
    (fun t => accOf (bd t) 1 == {} && (arrayOf (bd t) 0).flight == []) = true := by decide +kernel
set_option maxRecDepth 100000 in
/-- A poisoned row ends the entry; an FP32 value is split in its BF16 parts 1 and 2^-8. -/
theorem test_drain_write_cases : okWith (exec (.drainRowWrite 5 0) (bq 2 [{ drP with next := 64, fin := 62 }] { drains := [(0, { jobs := [⟨9, 63, [], 1, true⟩] })] }))
      (fun t => (que t 2).ents.map (·.bad) == [some (0x0A, 63, 0)]) = true ∧
    okWith (exec (.drainRowWrite 5 0) (bq 2 [{ drP with insn := .drAct 0 false false 6 1 false 1 false false, next := 64, fin := 62, tcfg := 0x2404040 }]
        { drains := [(0, { jobs := [⟨9, 63, [.fp 0x3F808000], 1, false⟩] })] }))
      (fun t => tileElem (tileOf (bd t) 6) 63 0 == 0x3F80 && tileElem (tileOf (bd t) 7) 63 0 == 0x3B80) = true := by decide +kernel
/-- Run 1 has failed: the strand ends behind run 0 with its code (R378). -/
theorem test_strand_fail : okWith (exec (.strandRunConsume 5 7) (strS { running := true, desc := sdesc 1, next := 1, runs := [runOf 0], fail := some (1, 6, 0x40) }))
    (fun t => !(strandOf (bd t) 7).running && (strandOf (bd t) 7).endCode == 6 && (strandOf (bd t) 7).consumed == 1) = true := by decide +kernel

/-- An entry in force for the first four ck that switches input 5 (L) to output 1 (E) for stream 8. -/
def entryL : BitVec 128 := BitVec.ofNat 128 (4 * 2 ^ 14 + 2 ^ 29 + 5 * 2 ^ 46 + 7 * 2 ^ 61 + 8 * 2 ^ 68)
def schedInj : State := { sched with fabric := { sched.fabric with
  active := [(5, { count := 1, entries := [entryL] })], inj := [(5 * 16 + 8, [msg 5 0x803 opWrite 0])] } }
set_option maxRecDepth 100000 in
/-- The one data flit takes the slot of ck 1. -/
theorem test_inject_scheduled : injectScheduled schedInj 5 8 (msg 5 0x803 opWrite 0) = some [1] ∧
    okWith (exec (.endpointInjection 5 8) schedInj)
      (fun t => t.fabric.inj == [] && tblGet [] t.fabric.taken 5 == [1] && (flightsOf t 5).map (fun f => f.inp.val) == [5]) = true := by decide +kernel
set_option maxRecDepth 100000 in
/-- R413: a DST that names no node. -/
theorem test_route_no_node : dstNamed arb (msg 5 0xFFF opWrite 0) = false ∧
    okWith (exec (.routeMessageArbitrated 6 4 false) (flitsAt 6 4 (msg 5 0xFFF opWrite 0) 0 arb))
      (fun t => flightsOf t 6 == [] && t.fabric.arrivals == [] && recorded 0x08 (blkRouter 6) t) = true := by decide +kernel
/-- A poisoned granule is stored as it arrives, and is no failure of this write (R390). -/
theorem test_bead_poison_write : okWith (exec (.write 5) (arrived 5 { msg 7 5 opWrite (ownBase 5 + 0x40) with data := [poisonCode] } arb))
      (fun t => codeAt t.mem gr == poisonCode && (tblGet [] t.fabric.inj (5 * 16 + 9)).map (·.status) == [0]) = true := by decide +kernel
theorem test_read_resp_bad : okWith (exec (.readResp 5) (arrived 5 { msg 0x803 5 opResp 0x40000000 with tag := 2, data := [poisonCode] } waitLoad))
    (fun t => (h0 t).mcause == 5 && (h0 t).mtval == 0x40000008 && xReg (h0 t) 3 == 0) = true := by decide +kernel
/-- A bank that a waiting write wants is passed over (R397); a data memory is scrubbed too. -/
theorem test_scrub_banks : sliceWants { arb with mem := { arb.mem with slices := [(127, [sliceWr 96 55])] } } 127 = [3] ∧
    okWith (exec (.memoryScrub (.slice 127)) { arb with mem := { arb.mem with slices := [(127, [sliceWr 96 55])] } })
      (fun t => tblGet 0 t.mem.scrubPos (sliceBankKey 127 3) == 0 && tblGet 0 t.mem.scrubPos (sliceBankKey 127 4) == 1) = true := by decide +kernel
theorem test_scrub_bead : okWith (exec (.memoryScrub (.bead 5)) { arb with mem := codePut {} (dmemGran 5 23) (encodeGran 55 ^^^ 0x80) })
    (fun t => codeAt t.mem (dmemGran 5 23) == encodeGran 55 && tblGet 0 t.mem.scrubPos (beadBankKey 5 23) == 1) = true := by decide +kernel

theorem test_frames_turned_away : okWith (exec (.ctrlFrame 6 (ctrlCrc { ctl 0 0 with reserved := 1 }) { ctl 0 0 with reserved := 1 }) (wPort { st := .up })) (fun t => (p6 t).crcErr == 1) = true ∧
    okWith (exec (.ctrlFrame 6 (ctrlCrc (lk 2)) (lk 2)) (wPort { st := .up })) (fun t => (p6 t).crcErr == 1) = true ∧
    okWith (exec (.trainFrame 6 ⟨trainCrc (lk 2) ⟨3, 1⟩, lk 2⟩ ⟨3, 1⟩) (wPort { st := .dark })) (fun t => (p6 t).crcErr == 1 && (p6 t).st == .dark) = true ∧
    okWith (exec (.timingFrame 6 ⟨timingCrc (lk 2) { tw with reserved := 1 }, lk 2⟩ { tw with reserved := 1 }) (wPort { st := .up })) (fun t => (p6 t).crcErr == 1 && !(p6 t).gotFirst) = true := by
  rw [ctrl_in, ctrl_in, train_in, timing_in]; decide +kernel
/-- Ports 6 and 2 as given. -/
def wPorts (q r : Port) (c : Chain := {}) : State := { arb with chain := { c with ports := [(2, r), (6, q)] } }
theorem test_train_cases :
    okWith (exec (.trainFrame 6 ⟨trainCrc (lk 3) ⟨6, 2⟩, lk 3⟩ ⟨6, 2⟩) (wPorts { st := .training } { st := .up } { rehomeEn := true, from_ := 2 }))
      (fun t => (p6 t).rehomed && (p6 t).peer == 2 && (p6 t).st == .up && (portOf t 2).st == .dark) = true ∧
    okWith (exec (.trainFrame 6 ⟨trainCrc (lk 3) ⟨3, 1⟩, lk 3⟩ ⟨3, 1⟩) (wPorts { st := .training } { st := .up } { numv := true, num := 4 }))
      (fun t => t.chain.conflict && (portOf t 2).st == .training && (p6 t).st == .training) = true := by
  simp only [train_in]; decide +kernel
/-- The spare of the map that waits for its LANE frame fails. -/
theorem test_lane_failure_waiting : okWith (exec (.laneFailure 6 (.lost 3)) (wPort { st := .up, newMap := some (0x68C, 3) }))
    (fun t => (p6 t).newMap == some (0x68C, 7) && (p6 t).st == .up && (p6 t).failedLanes == 8) = true := by decide +kernel
theorem test_burst_reserve : okWith (exec (.retrainBurstCopy 3) (wBz { retrainPhase := .copy, copied := 8388608 }))
    (fun t => (z3 t).copied == 8388609 && t.mem == arb.mem) = true := by decide +kernel

theorem test_window_behind_loads : okWith (exec (.window 6) (withCmd (cmd 0 [(0, 0x12), (24, 7 + 8), (32, 2 ^ 40), (40, 2048)])
      { arb with nutas := { arb.nutas with loads := [⟨.stores, 5⟩] }, mmu := { arb.mmu with swapDue := none } }))
    (fun t => t.nutas.waits == [.window 6] && t.mmu.swapDue == none) = true := by decide +kernel
theorem test_stores_load : okWith (exec (.shadowLoad 5) { atCk 100 arb with nutas := { arb.nutas with loads := [⟨.stores, 5⟩] } })
    (fun t => t.nutas.loads == [] && t.nutas.loadedNow == 5 && t.mmu.swapDue == some 0) = true := by decide +kernel
theorem test_slots : okWith (exec (.loadBundle 6) (withCmd (cmd 0 [(0, 0x20), (8, 0x4000), (16, 256), (24, 3)])
        (inSlot 3 { arb with nutas := { arb.nutas with plan := { phase := .running, slot := 3 } } }))) (doneAs stPlanRunning 0 0) = true ∧
    okWith (exec (.dropBundle 6) (withCmd (cmd 0 [(0, 0x21), (24, 3)]) arb)) (doneAs stNoBundle 0 0) = true := by decide +kernel
theorem test_opt_reserved : okWith (exec (.optWrite 6 (List.replicate 64 255)) (withCmd (cmd 0 ([(0, 0x42), (24, 8), (26, 15)] ++ hostBuf 0x4000 64)) arb))
    (fun t => t.nutas.ready.map (·.status) == [BitVec.ofNat 8 stBadField] && (z3 t).optShadow == []) = true := by decide +kernel
theorem test_spare_absent : okWith (exec (.spareTest 6 true) (withCmd (cmd 0 [(0, 0xA1), (24, 7), (25, 15)]) { arb with nutas := { arb.nutas with pos := [(7 * 144 + 15 * 9 + 8, some 7)] } }))
    (fun t => doneAs stInvalidTarget 0 0 t && recorded 0x17 blkLocket t) = true := by decide +kernel

/-! ### Registers, mailboxes and the hub again -/

/-- The host's link is not UP: nothing that it writes reaches a register (R576). -/
def unlinked : State := { up with host := { up.host with link := 1 } }
theorem test_host_unlinked : [Instr.irqMaskSet .host 35 2 0x20, .commitReq .host, .irqClaim .host 4, .mbxDoorbell 0 .host 1, .mgtOwnGrant .host,
    .controlWindowWrite .host 0xFFFFF8 8 0].all (fun c => okWith (exec c unlinked) (fun t => t == unlinked)) = true := by decide +kernel
/-- R683: the clasp of a bead that is not there; R640: a block's second event of a ck. -/
theorem test_clp_gone : clpKey { up with clasps := { up.clasps with sel := BitVec.ofNat 24 (3 + 1023 * 2 ^ 14) }, nutas := { up.nutas with pos := [(posOfOrd 1023, some 7)] } } = none ∧
    okWith (exec (.clpValueWrite .mgmt .full 5) { up with clasps := { up.clasps with sel := BitVec.ofNat 24 (3 + 1023 * 2 ^ 14) }, nutas := { up.nutas with pos := [(posOfOrd 1023, some 7)] } })
      (fun t => recorded 0x17 blkLocket t && t.clasps.acts == []) = true := by decide +kernel
theorem test_hub_event_again : okWith (exec (.hubEvent 138) { up with hub := { up.hub with raised := [(138, 0)], cnt := [(138, 4)] } })
    (fun t => tblGet 0 t.hub.cnt 138 == 4 && t.hub.pend == 0) = true := by decide +kernel
/-- EN = 0; Cache_Enable = 0; a reset that waits for a started command. -/
theorem test_doorbell_refused : okWith (exec (.mbxDoorbell 0 .host 1) up) (fun t => (mbxOf t 0).tail == 0 && recorded 0x15 blkLocket t) = true ∧
    okWith (exec (.mbxDoorbell 0 .host 1) { mbx0 {} up with host := { up.host with cacheEn := false } })
      (fun t => (mbxOf t 0).tail == 0 && recorded 0x14 blkCxl t) = true ∧
    okWith (exec (.mbxDoorbell 0 .host 1) (mbx0 { rst := true } up)) (fun t => (mbxOf t 0).tail == 0 && t.faults.waiting == []) = true := by decide +kernel

/-! ### Queue entries and strands again -/

def fillE (first n : Nat) : QEntry := { ent 9 (.dtFill 1 2) with v1 := 0x10000, v2 := BitVec.ofNat 64 (first + n * 2 ^ 12) }
theorem test_fill_starts : (fillFirst (fillE 4000 96), fillCount (fillE 4000 96)) = (4000, 96) ∧
    canStart (bq 1 [fillE 4000 96]) 5 1 (fillE 4000 96) = true ∧
    okWith (exec (.entryStart 5 1) (bq 1 [fillE 4000 96])) (fun t => (que t 1).ents.map (fun e => (e.st, e.began)) == [(.started, true)]) = true ∧
    okWith (exec (.entryStart 5 1) (bq 1 [fillE 4000 97])) (fun t => (que t 1).stop && (que t 1).xrec.code == BitVec.ofNat 6 fcBadHandle) = true := by
  decide +kernel
/-- A row of strand 7 that stands in the feeders enters the array. -/
def mmStr : QEntry := { ent 9 (.mm false 2 7 true 1 true false) with st := .started, tcfg := 0x1010101 }
def strandS : State := bq 0 [mmStr] { arrs := [(0, { active := some w1 })], strands := [(7, { running := true, desc := sdesc 0, next := 2, runs := [{ runOf 0 with fed := true }] })] }
set_option maxRecDepth 100000 in
theorem test_strand_row_enter : rowDue (bd strandS) 0 = some mmStr ∧ strandSource mmStr = some 7 ∧ feedNext strandS 5 7 = none ∧
    feedHead (bd strandS) 7 = .run { runOf 0 with fed := true } ∧ dutyOpen strandS = true ∧
    okWith (exec (.arrayRowEnter 5 0) strandS)
      (fun t => ((arrayOf (bd t) 0).flight.map fun j => (j.entry, j.row, j.xs)) == [(9, 0, [99])]) = true := by decide +kernel
/-- The view in force no longer makes the run void: it is not consumed. -/
theorem test_copy_void_ends : okWith (exec (.strandRunConsume 5 7) (strS { running := true, desc := sdesc 1, next := 2, runs := [{ runOf 0 with void := true }, runOf 1] }))
    (fun t => (strandOf (bd t) 7).consumed == 0 && (strandOf (bd t) 7).running) = true := by decide +kernel

/-! ### The fabric and its nodes again -/

/-- The data flit of a message whose head waits at the neighbour. -/
def behind : State := { arb with fabric := { arb.fabric with flights := [
  (5, [{ inp := 5, at_ := 0, msg := wr6, flits := [0], sent := 1 }]), (6, [{ inp := 4, at_ := 0, msg := wr6, flits := [0], toCome := 1 }])] } }
set_option maxRecDepth 100000 in
theorem test_route_data_flit : ((arbWinner behind 5 1).map fun f => (f.sent, f.cut)) = some (1, false) ∧
    okWith (exec (.routeMessageArbitrated 5 1 false) behind)
      (fun t => (flightsOf t 6).map (fun f => (f.flits, f.toCome)) == [([0, 1], 0)] && t.fabric.arrivals == []) = true ∧
    okWith (exec (.routeMessageArbitrated 6 4 false) (flitsAt 6 4 wr6 0 arb))
      (fun t => t.fabric.arrivals == [] && (flightsOf t 6).map (fun f => (f.flits, f.sent)) == [([0], 1)]) = true := by decide +kernel
set_option maxRecDepth 100000 in
/-- A head in error, and a data flit in error (R413). -/
theorem test_scheduled_errors : okWith (exec (.routeMessageScheduled 6 (some ⟨4, 0⟩)) (atRouter 6 4 { msg 5 7 opWrite 0 with data := [encodeGran 7] } routed))
      (fun t => flightsOf t 6 == [] && flightsOf t 7 == [] && recorded 0x08 (blkRouter 6) t && t.clock.leaving) = true ∧
    okWith (exec (.routeMessageScheduled 6 (some ⟨4, 1⟩)) (atRouter 6 4 { msg 5 7 opWrite 0 with data := [encodeGran 7] } routed))
      (fun t => (flightsOf t 7).map (·.msg.data) == [[]] && recorded 0x08 (blkRouter 6) t && t.clock.leaving) = true := by decide +kernel
/-- A remote signal, a take and a wait at the locket node. -/
theorem test_signal_kinds : okWith (exec (.signal 0x821) (arrived 0x821 { msg 0x816 0x821 opSignal 0 with aux0 := 4095, aux1 := 2 } arb))
      (fun t => t.clasps.acts == [⟨131072 + 4095, rankAdd (claspPort 0x821 (msg 0x816 0x821 opSignal 0) arb), .remote 2 { msg 0x816 0x821 opSignal 0 with aux0 := 4095, aux1 := 2 }⟩]) = true ∧
    okWith (exec (.signal 0x821) (arrived 0x821 { msg 5 0x821 opSignal 0 with aux0 := 4095 + 2 ^ 29, aux1 := 2, tag := 9 } arb))
      (fun t => t.clasps.acts == [⟨131072 + 4095, rankTake (claspPort 0x821 (msg 5 0x821 opSignal 0) arb), .take 2 (.node 5 9)⟩]) = true ∧
    okWith (exec (.signal 0x821) (arrived 0x821 { msg 5 0x821 opSignal 0 with aux0 := 4095 + 2 ^ 30, aux1 := 2, tag := 9 } arb))
      (fun t => waitersOf t (131072 + 4095) == [⟨2, waitDue 0, .node 5 9⟩] && t.clasps.acts == []) = true := by decide +kernel
/-- The last store's answer ends a FENCE; a copy strand hears no notice. -/
theorem test_write_ack_fence : okWith (exec (.writeAck 5) (arrived 5 { msg 0x803 5 opAck 0x40000000 with tag := 2 } { arb with
      beads := [(5, { harts := [(0, { pc := 0x1000, stores := 1, hold := .fence })], reqs := [{ rq .issued with owner := .hartStore 0, kind := .write, slot := some 2, parts := 1 }] })] }))
    (fun t => (h0 t).stores == 0 && (h0 t).hold == .none && (h0 t).pc == 0x1004) = true := by decide +kernel
theorem test_stale_copy : okWith (exec (.stale 5) (arrived 5 { msg 0x803 5 opStale 0x40 with tag := 7 } { arb with
      beads := [(5, { strands := [(7, { running := true, desc := BitVec.ofNat 512 (2 ^ 53 + 2 ^ 48), runs := [{ runOf 0 with phys := [0x40] }] })] })] }))
    (fun t => sdTarget (strandOf (bd t) 7).desc != 0 && (strandOf (bd t) 7).runs.map (·.stale) == [false]) = true := by decide +kernel

/-! ### The chain again -/

/-- A read answer goes on to the bead that asked, its credits back at once; in a hold tick it waits. -/
def rspFrame : ChainFrame := { mfr 0 { msg 0 0 opResp 0x40 with data := [encodeGran 7] } with cls := 1 }
theorem test_msg_response : okWith (exec (.msgFrame 6 (msgCrc rspFrame) rspFrame) (wPort { st := .up }))
      (fun t => (p6 t).rx == [] && (p6 t).lastRx == 0 && (tblGet [] t.fabric.inj (0x816 * 16 + 1)).map (fun m => (m.dst.val, m.op)) == [(5, opResp)] &&
        (outCtrl t).map (fun x => (x.2.cclass, x.2.credits)) == [(3, 0), (1, BitVec.ofNat 12 (blocksOf rspFrame.msg))]) = true ∧
    okWith (exec (.msgFrame 6 (msgCrc rspFrame) rspFrame) (wPort { st := .up } { arb with clock := { arb.clock with hold := true } }))
      (fun t => (p6 t).rx == [⟨0, rspFrame⟩] && t.fabric == arb.fabric) = true := by
  rw [msg_in, msg_in]; decide +kernel
/-- A control word lets a frame that waited leave. -/
theorem test_ctrl_sends : okWith (exec (.ctrlFrame 6 (ctrlCrc { ctl 0 0xFFF with cclass := 3 }) { ctl 0 0xFFF with cclass := 3 }) (wPort { st := .up, creditReq := 9, nextSeq := 5, lastRx := 3, tx := [frm 0] }))
    (fun t => (p6 t).tx == [] && (p6 t).nextSeq == 6 && (outMsgs t).map (fun x => (x.1, x.2.link.seq, x.2.link.ack)) == [(6, 5, 3)] &&
      (p6 t).replay.map (·.1.link.seq) == [5] && (p6 t).creditReq == 9 - blocksOf (frm 0).msg) = true := by
  rw [ctrl_in]; decide +kernel
/-- A LANE frame with another CRC. -/
theorem test_lane_bad_crc : okWith (exec (.laneFrame (.recv 6 ⟨laneCrc (lk 4) 0x68C 3 + 1, lk 4⟩ 0x68C 3)) (wPort { st := .up }))
    (fun t => (p6 t).laneSw == 0 && (p6 t).lmap == 0x688 && (p6 t).crcErr == 1) = true := by
  rw [lane_bad]; decide +kernel
/-- In a hold tick nothing of the receive buffer enters the fabric; a DEGRADED port's calibrated lane takes a place again; an echo
gives the delay. -/
theorem test_hold_waits : [Instr.chainRequestIssue 6, .chainSignalApply 6].all (fun c =>
    okWith (exec c (mapped (wPort { st := .up, rx := [⟨4, rdFrame⟩] } { arb with clock := { arb.clock with hold := true } }))) (fun t => (p6 t).rx == [⟨4, rdFrame⟩] && t.fabric == arb.fabric)) = true := by
  decide +kernel
theorem test_calibration_degraded : okWith (exec (.chainCalibrationDone 6) (wPort { st := .degraded, cal := true, lmap := 0xE88, calLane := 4, spare := 7, failedLanes := 8 }))
    (fun t => !(p6 t).cal && (p6 t).st == .degraded && (p6 t).newMap == some (0 + 1 * 8 + 2 * 64 + 4 * 512, 7)) = true := by decide +kernel
theorem test_echo : okWith (exec (.timingFrame 6 ⟨timingCrc (lk 2) { tw with relay := true, echoV := true, echoCk := 16120 }, lk 2⟩ { tw with relay := true, echoV := true, echoCk := 16120 }) (atCk 16200 (wPort { st := .up, delay := 5 })))
    (fun t => (p6 t).delay == BitVec.ofNat 16 ((16200 - 15872 - (16128 - 16120)) / 2)) = true := by
  rw [timing_in]; decide +kernel

/-! ### Reduction and records again -/

set_option maxRecDepth 100000 in
/-- A second contributor's copy joins the entry: 1.0 + 1.0 (R526). -/
theorem test_sampled_copy_joins : okWith (exec (.sampledGranuleCopy 3) (wBz { chkIn := [.copy 9 7 2 5 false 0x3F80], chk := [chkE 0x3F800000] }))
    (fun t => (z3 t).chkIn == [] && (z3 t).chk.map (fun e => (nth 0 e.sums 0, nth 0 e.mags 0)) == [(0x40000000, 0x40000000)]) = true := by decide +kernel
/-- The last signal enters the fabric: the record is UPDATED; an earlier one leaves it UPDATING (R535). -/
def fanMsg : Msg := { msg 0x803 0x816 opSignal 0 3 with tag := 5, len := 0 }
def fanQ (more : List Fan) : State := { wBz { recs := [(7, { rec7 with st := .updating })], fans := { record := 7, module := 2, tag := 5, sent := true } :: more } with
  fabric := { arb.fabric with inj := [(0x803 * 16 + 3, [fanMsg])] } }
set_option maxRecDepth 100000 in
theorem test_fan_ends : (injectOk (fanQ []) 0x803 3 fanMsg).isSome = true ∧
    okWith (exec (.endpointInjection 0x803 3) (fanQ [])) (fun t => (recOf (z3 t) 7).st == .updated && (z3 t).fans == []) = true ∧
    okWith (exec (.endpointInjection 0x803 3) (fanQ [{ record := 7, module := 3, tag := 6, acks := 2 }]))
      (fun t => (recOf (z3 t) 7).st == .updating && (z3 t).fans.map (·.tag) == [6]) = true := by decide +kernel
/-- One record in a ck. -/
theorem test_record_write_paced : okWith (exec .faultRecordWrite { atCk 9 arb with faults := { waiting := [{ cls := 5 }], wroteCk := 10 } })
    (fun t => t.faults.waiting.length == 1 && t.faults.ring == []) = true := by decide +kernel

/-! ### Mailboxes and their commands again -/

/-- A full ring keeps the completion held; mailbox 8's ring stands in the standby partition. -/
theorem test_held_full : okWith (exec (.heldCompletionWrite 0 ⟨3, true⟩) (mbx0 { held := [cpl true], cplTail := 2, cplHead := 9 } up))
    (fun t => (mbxOf t 0).held == [cpl true] && (mbxOf t 0).cplTail == 2 && (match t.out with | [.cache .rdShared 512 _] => true | _ => false)) = true := by
  decide +kernel
/-- An entry of mailbox 8 is read from the port's own ring, its completion goes there. -/
def own8 (s : State) : State := { s with mbxs := [(8, { en := true, tail := 1 })], mgmt := { s.mgmt with ring := [(0, ent64 [(0, 0), (2, 7)])] } }
theorem test_mailbox_eight : nextMailbox (own8 up) = some 8 ∧
    okWith (exec (.mailboxEntryRead 8 0 false) (own8 up)) (fun t => (mbxOf t 8).head == 1 && t.out == [] && t.nutas.cmds.map (·.mbx.val) == [8]) = true ∧
    okWith (exec (.mailboxCompletionWrite 8 false) { own8 up with nutas := { up.nutas with ready := [{ cpl true with mbx := 8 }] } })
      (fun t => t.mgmt.cplRing.length == 1 && (mbxOf t 8).cplTail == 1 && t.hub.pend.getLsbD 8 && t.out == []) = true := by decide +kernel
/-- An unassigned code under FENCE waits for the earlier command. -/
theorem test_entry_fenced : okWith (exec (.mailboxEntryRead 0 (ent64 [(0, 0xFF), (1, 2), (2, 7)]) true) { mbx0 { tail := 1 } up with
      nutas := { up.nutas with nextNum := 7, cmds := [cmd 0 [(0, 0x13)]] } })
    (fun t => t.nutas.cmds.map (·.num) == [6, 7] && t.nutas.ready == []) = true := by decide +kernel
/-- Buffers in the staging area and in a stack; what Config leaves open of the identity is not looked at. -/
def in2 (a n : Nat) : List (Nat × Nat) := [(8, a), (16, n), (20, 2)]
def cmd8 (l : List (Nat × Nat)) (s : State) : State := { s with mbxs := [(8, { en := true })], nutas := { s.nutas with cmds := [cmd 8 l] } }
theorem test_query_places : okWith (exec (.identify 6) (cmd8 ((0, 1) :: in2 0x100 256) up)) (fun t => doneAs 0 0 0 t && t.out == []) = true ∧
    okWith (exec (.identify 6) (withCmd (cmd 0 [(0, 1), (8, spot), (16, 256)]) up)) (fun t => doneAs 0 0 0 t && t.out == []) = true := by
  decide +kernel
theorem test_flt_read_stack : okWith (exec (.fltRead 6) (withCmd (cmd 0 [(0, 0x80), (24, 1), (28, 1), (8, spot), (16, 32)]) { arb with faults := { nextSeq := 3, ring := [{ seq := 0 }, { seq := 1 }, { seq := 2 }] } }))
    (fun t => doneAs 0 2 0 t && stackCode t 3 0x100000 == encodeGran (granOf (faultBytes { seq := 1 }))) = true := by decide +kernel
/-- Commands of Nutas while it does not run, or the main domains are down. -/
theorem test_main_down_command : okWith (exec (.split 6) (cmd8 [(0, 0x13), (24, 8)] { State.reset with standby := { State.reset.standby with standby := true, owner := true } }))
    (doneAs stMainDown 0 0) = true := by decide +kernel
/-- An entry point below 0x1000, a buffer shorter than the code, and one that the host did not answer whole (R598, R606). -/
def loadOf (n : Nat) : Cmd := cmd 0 ([(0, 0x22), (24, 5), (26, 5)] ++ hostBuf 0x4000 n)
def img8 : List Byte := [4, 0, 0, 0, 1, 0x10, 0, 0x08, 0, 0x10, 0, 0x10] ++ List.replicate 56 0
set_option maxRecDepth 100000 in
theorem test_load_program_bad : okWith (exec (.loadProgram 6 img8) (withCmd (loadOf 68) arb)) (doneAs stBadField 6 0) = true ∧
    okWith (exec (.loadProgram 6 img4) (withCmd (loadOf 67) arb)) (doneAs stBadBuffer 0 0) = true ∧
    okWith (exec (.loadProgram 6 (img4.take 65)) (withCmd (loadOf 68) arb)) (doneAs stMemFault 0 64) = true := by decide +kernel
/-- A plan that leaves arms no further setting (R616); a program that has been loaded waits for its swap. -/
theorem test_load_ends : okWith (exec (.shadowLoad 5) { atCk 16376 arb with clock := { (atCk 16376 arb).clock with leaving := true }, nutas := { (running arb).nutas with loads := [⟨.step 3, 5⟩] } })
      (fun t => t.nutas.loads == [] && t.nutas.plan.ready == none) = true ∧
    okWith (exec (.shadowLoad 5) { withBead { harts := [(0, { pc := 4 })] } (atCk 16376 arb) with nutas := { arb.nutas with loads := [⟨.program 6 5 5 (entryTable [0x1001]) [0x13], 5⟩] } })
      (fun t => t.nutas.loads == [] && (bd t).shadow.entry == [(0, 0x1001)] && (bd t).swapDue == some 1) = true := by
  decide +kernel
/-- STOP behind the last setting, and while the plan leaves. -/
theorem test_stop_late : okWith (exec (.stop 6) (withCmd (cmd 0 [(0, 0x51)]) { sched with nutas := { sched.nutas with plan := { phase := .running, num := 9, nticks := 4, step := 3 } } }))
      (doneAs stNotRunning 0 0) = true ∧
    okWith (exec (.stop 6) (withCmd (cmd 0 [(0, 0x51)]) { sched with nutas := { sched.nutas with plan := { phase := .stopping, num := 9 } } }))
      (fun t => t.nutas.waits == [.stop 6] && t.nutas.ready == []) = true := by decide +kernel
/-- A record of a bad form, before that a record is busy counts; an OPEN record that expects nobody completes; a short buffer. -/
def bad192 : List Byte := 0x80 :: List.replicate 191 0
set_option maxRecDepth 100000 in
theorem test_red_write_bad : recFormOk bad192 (recOfBytes bad192) = false ∧
    okWith (exec (.redWrite 6 bad192) (withCmd (cmd 0 ([(0, 0x40), (24, 3), (28, 8), (32, 1)] ++ hostBuf 0x4000 192)) (redB [(8, rec7)])))
      (fun t => doneAs stBadField 8 0 t && recOf (z3 t) 8 == rec7) = true := by decide +kernel
theorem test_opt_write_short : okWith (exec (.optWrite 6 [3]) (withCmd (cmd 0 ([(0, 0x42), (24, 8), (26, 15)] ++ hostBuf 0x4000 64)) arb)) (doneAs stMemFault 0 0) = true := by
  decide +kernel
theorem test_cnt_config_code : codeAssigned 0 0xEE = false ∧
    okWith (exec (.cntConfig 6 (List.replicate 32 0xEE)) (withCmd (cmd 0 ([(0, 0x70), (40, recordStride)] ++ hostBuf 0x4000 18960)) arb))
      (doneAs stBadField 0 0) = true := by decide +kernel
theorem test_subst_arbitrated : okWith (exec (.subst 6) (withCmd (substC 1) arb)) (fun t => t.nutas.waits == [.subst 6 (7 * 144 + 15 * 9 + 1)] && t.clock == arb.clock) = true := by
  decide +kernel

/-! ### The host link and the management port again -/

/-- Both halves, the upper half, none; with poison (R560, R575). -/
theorem test_partial_write : okWith (exec (.memWrPtl (2 ^ 40 + spot) 0x180000000 ⟨BitVec.ofNat 512 (7 + 9 * 2 ^ 256), false⟩) (linked up))
      (fun t => (cxlOut t).map (fun m => (m.addr.toNat, m.aux0, m.data, m.tag)) == [(spot, 0x80000000, [encodeGran 7], 0), (spot + 32, 1, [encodeGran 9], 1)] &&
        t.host.halves == [(0, 1)] && t.host.nextTag == 2) = true ∧
    okWith (exec (.memWrPtl (2 ^ 40 + spot) 0x100000000 ⟨0, true⟩) (linked up))
      (fun t => (cxlOut t).map (fun m => (m.addr.toNat, m.data)) == [(spot + 32, [poisonCode])] && t.host.poisonRx == 1 && recorded 0x14 blkCxl t && t.out == [.aer .nonfatal]) = true ∧
    okWith (exec (.memWrPtl (2 ^ 40 + spot) 0 ⟨0, false⟩) (linked up)) (fun t => cxlOut t == [] && t.out == [.memDone spot]) = true := by decide +kernel
/-- An answer to no snoop; board-tier answers that are unsupported and poisoned. -/
theorem test_bi_rsp_none : okWith (exec (.biRsp 3 5) (wBz { lines := [5, 6] })) (fun t => (z3 t).lines == [5, 6]) = true := by decide +kernel
theorem test_uio_failures : okWith (exec (.uioCompletion 4 .unsupported []) (uioS 0)) (fun t => cxlAns t == [(6, 1 + 256 * 5, [poisonCode])]) = true ∧
    okWith (exec (.uioCompletion 4 .poisoned [55]) (uioS 0)) (fun t => cxlAns t == [(6, 1 + 256 * 2, [poisonCode])] && t.host.poisonRx == 1 && recorded 0x14 blkCxl t) = true := by
  decide +kernel
theorem test_bad_read : okWith (exec (.hostLinkError (.badRead 3)) (linked up)) (fun t => t.out == [.abort] && recorded 0x14 blkCxl t) = true := by decide +kernel
/-- The MSI-X table and the configuration header; what is not supported, or of another size, changes nothing. -/
theorem test_capability_reads :
    okWith (exec (.capabilityWrite (.vectorEntry 4 0x5000 9)) (linked up)) (fun t => tblGet 0 t.hub.msixAddr 4 == 0x5000 && tblGet 0 t.hub.msixData 4 == 9) = true ∧
    okWith (exec (.capabilityWrite (.readVector 4)) { linked up with hub := { up.hub with msixAddr := [(4, 0x5000)], msixData := [(4, 9)], vmask := 0x10 } })
      (fun t => t.out == [.vector 0x5000 9 true false]) = true ∧
    okWith (exec (.capabilityWrite (.readHeader 12)) (linked up)) (fun t => t.out == [.config 0]) = true ∧
    okWith (exec (.capabilityWrite .clearAer) { linked up with host := { (linked up).host with aerCorr := true, aerFatal := true } }) (fun t => !t.host.aerCorr && !t.host.aerFatal) = true ∧
    [Capability.unsupported, .hdmCommit (2 ^ 40 + 1) 1, .hdmCommit (2 ^ 41) 2].all (fun v => okWith (exec (.capabilityWrite v) (linked up)) (fun t => t == linked up)) = true ∧
    okWith (exec (.capabilityWrite (.busMaster false)) { linked up with hub := { up.hub with pba := 3, busMaster := true } }) (fun t => t.hub.pba == 0 && !t.hub.busMaster) = true := by
  decide +kernel
/-- A NAK of the sixteenth resend. -/
theorem test_nak_down : okWith (exec (.mgmtNakFrame (fr 3 0 9)) (lane { unacked := [sentF 3 15] })) (fun t => outMgmt t == [(1, 3, 0xFF, [3])] && !t.mgmt.up) = true := by
  rw [nak_in]; decide +kernel
theorem test_reg_read_form : okWith (exec .regRead (asked 3 (off4 0x060001 ++ [8]) up)) (replied 3 2 []) = true :=
  okWith_asked _ _ _ _ _ _ _ rfl (by decide +kernel) rfl (by decide +kernel)
/-- The staged image is in use by a command. -/
theorem test_stage_busy : okWith (exec .stageWrite (asked 5 (off4 0x110 ++ [1, 2]) { cmd8 ((0, 0x22) :: in2 0x100 256) up with
      nutas := { up.nutas with cmds := [{ cmd 8 ((0, 0x22) :: in2 0x100 256) with started := true }] } })) (fun t => replied 5 6 [] t && t.mgmt.stage == []) = true :=
  okWith_asked _ _ _ _ _ _ _ rfl (by decide +kernel) rfl (by decide +kernel)
/-- TAKEOVER_REQUEST of the owner. -/
theorem test_takeover_owner : okWith (exec .takeoverRequest (asked 8 [0, 0, 0, 0, 30, 0, 0] { up with standby := { up.standby with owner := true } }))
    (fun t => t.mgmt.msgs == [] && !t.standby.pending && t.standby.takeReq == none && t.out.length == 1) = true := by
  unfold exec; simp only []; unfold execTakeoverRequest
  exact okWith_asked _ _ _ _ _ _ _ rfl (by decide +kernel) (by decide +kernel) (by decide +kernel)

end Sys2Proof.Tests
end

section
/-! Whole-machine proofs for chapter 0: what `exec` and `step` keep, the fuses, and the state at reset. -/

namespace Sys2Proof.Proofs

open Sys2Proof Sys2Proof.Machine Sys2Proof.Laws

/-! ### What `exec` and `step` keep -/

/-- The `Keeps` lemmas of all commands as one lemma about the dispatch, command by command. -/
theorem keeps_exec {ps : List Part} {s0 s : State} (c : Instr) (hK : Keeps ps s0 s) (hP : sub (writes c) ps = true) :
    KeepsOut ps s0 (exec c s) := by
  cases c with
  | powerApplied => exact keeps_execPowerApplied hK hP
  | inputVoltageLoss => exact keeps_execInputVoltageLoss hK hP
  | overvoltageStop => exact keeps_execOvervoltageStop hK hP
  | overvoltageRecovery => exact keeps_execOvervoltageRecovery hK hP
  | enableChange => exact keeps_execEnableChange _ hK hP
  | bringUpStart => exact keeps_execBringUpStart hK hP
  | rampPhase => exact keeps_execRampPhase _ hK hP
  | romPhase => exact keeps_execRomPhase hK hP
  | stage1Phase => exact keeps_execStage1Phase hK hP
  | stacksPhase => exact keeps_execStacksPhase _ hK hP
  | beadsPhase => exact keeps_execBeadsPhase _ hK hP
  | fabricPhase => exact keeps_execFabricPhase _ hK hP
  | readyPhase => exact keeps_execReadyPhase _ hK hP
  | bringUpPhaseTimeout => exact keeps_execBringUpPhaseTimeout hK hP
  | tickBoundary => exact keeps_execTickBoundary _ _ _ _ hK hP
  | claspWaitTimeout => exact keeps_execClaspWaitTimeout _ hK hP
  | scalarLoad => exact keeps_execScalarLoad _ _ hK hP
  | scalarStore => exact keeps_execScalarStore _ _ hK hP
  | scalarAtomic => exact keeps_execScalarAtomic _ _ hK hP
  | fence => exact keeps_execFence _ _ hK hP
  | fenceI => exact keeps_execFenceI _ _ hK hP
  | wfi => exact keeps_execWfi _ _ hK hP
  | csrWrite => exact keeps_execCsrWrite _ _ hK hP
  | qfipTrap => exact keeps_execQfipTrap _ _ hK hP
  | xqctlResume => exact keeps_execXqctlResume _ _ hK hP
  | xqctlDiscard => exact keeps_execXqctlDiscard _ _ hK hP
  | mmA => exact keeps_execMmA _ _ hK hP
  | mmB => exact keeps_execMmB _ _ hK hP
  | mmAB => exact keeps_execMmAB _ _ hK hP
  | mmBwd => exact keeps_execMmBwd _ _ hK hP
  | tld => exact keeps_execTld _ _ hK hP
  | tst => exact keeps_execTst _ _ hK hP
  | strGo => exact keeps_execStrGo _ _ hK hP
  | strStop => exact keeps_execStrStop _ _ hK hP
  | dtFill => exact keeps_execDtFill _ _ hK hP
  | dtWr => exact keeps_execDtWr _ _ hK hP
  | dtRd => exact keeps_execDtRd _ _ hK hP
  | trel => exact keeps_execTrel _ _ hK hP
  | l1Inv => exact keeps_execL1Inv _ _ hK hP
  | l1InvA => exact keeps_execL1InvA _ _ hK hP
  | drAct => exact keeps_execDrAct _ _ hK hP
  | drDact => exact keeps_execDrDact _ _ hK hP
  | drStat => exact keeps_execDrStat _ _ hK hP
  | qbar => exact keeps_execQbar _ _ hK hP
  | claspSig => exact keeps_execClaspSig _ _ hK hP
  | claspWait => exact keeps_execClaspWait _ _ hK hP
  | claspTake => exact keeps_execClaspTake _ _ hK hP
  | chWr => exact keeps_execChWr _ _ hK hP
  | chRd => exact keeps_execChRd _ _ hK hP
  | chAcc => exact keeps_execChAcc _ _ hK hP
  | entryStart => exact keeps_execEntryStart _ _ hK hP
  | entryComplete => exact keeps_execEntryComplete _ _ hK hP
  | requestIssue => exact keeps_execRequestIssue _ hK hP
  | pageWalk => exact keeps_execPageWalk _ _ hK hP
  | pageWalkComplete => exact keeps_execPageWalkComplete _ hK hP
  | weightsActivate => exact keeps_execWeightsActivate _ _ hK hP
  | arrayRowEnter => exact keeps_execArrayRowEnter _ _ hK hP
  | arrayRowComplete => exact keeps_execArrayRowComplete _ _ hK hP
  | drainPrepare => exact keeps_execDrainPrepare _ _ hK hP
  | drainRowEnter => exact keeps_execDrainRowEnter _ _ hK hP
  | drainRowWrite => exact keeps_execDrainRowWrite _ _ hK hP
  | strandRunIssue => exact keeps_execStrandRunIssue _ _ hK hP
  | strandRunConsume => exact keeps_execStrandRunConsume _ _ hK hP
  | sortBatchDeliver => exact keeps_execSortBatchDeliver _ _ hK hP
  | endpointInjection => exact keeps_execEndpointInjection _ _ hK hP
  | routeMessageScheduled => exact keeps_execRouteMessageScheduled _ _ hK hP
  | routeMessageArbitrated => exact keeps_execRouteMessageArbitrated _ _ _ hK hP
  | endpointFailed => exact keeps_execEndpointFailed _ hK hP
  | read => exact keeps_execRead _ hK hP
  | write => exact keeps_execWrite _ hK hP
  | writePart => exact keeps_execWritePart _ hK hP
  | atomic => exact keeps_execAtomic _ hK hP
  | sumwrite => exact keeps_execSumwrite _ hK hP
  | signal => exact keeps_execSignal _ hK hP
  | readResp => exact keeps_execReadResp _ hK hP
  | writeAck => exact keeps_execWriteAck _ hK hP
  | stale => exact keeps_execStale _ hK hP
  | bezelServeRequest => exact keeps_execBezelServeRequest _ hK hP
  | sliceServeRequest => exact keeps_execSliceServeRequest _ hK hP
  | stackRefresh => exact keeps_execStackRefresh _ _ hK hP
  | patrolScrub => exact keeps_execPatrolScrub _ hK hP
  | memoryScrub => exact keeps_execMemoryScrub _ hK hP
  | claspWaiterSatisfied => exact keeps_execClaspWaiterSatisfied _ hK hP
  | clpValueWrite => exact keeps_execClpValueWrite _ _ _ hK hP
  | clpStatRead => exact keeps_execClpStatRead _ hK hP
  | msgFrame => exact keeps_execMsgFrame _ _ _ hK hP
  | ctrlFrame => exact keeps_execCtrlFrame _ _ _ hK hP
  | trainFrame => exact keeps_execTrainFrame _ _ _ hK hP
  | laneFrame => exact keeps_execLaneFrame _ hK hP
  | timingFrame => exact keeps_execTimingFrame _ _ _ hK hP
  | timingFirstRound => exact keeps_execTimingFirstRound hK hP
  | timingRelayRound => exact keeps_execTimingRelayRound hK hP
  | nakRepeat => exact keeps_execNakRepeat _ hK hP
  | ackTimeoutResend => exact keeps_execAckTimeoutResend _ hK hP
  | laneFailure => exact keeps_execLaneFailure _ _ hK hP
  | chainRequestIssue => exact keeps_execChainRequestIssue _ hK hP
  | chainSignalApply => exact keeps_execChainSignalApply _ hK hP
  | chRdResponseTimeout => exact keeps_execChRdResponseTimeout _ hK hP
  | chnCalGo => exact keeps_execChnCalGo _ _ hK hP
  | chainCalibrationRotation => exact keeps_execChainCalibrationRotation _ hK hP
  | chainCalibrationDone => exact keeps_execChainCalibrationDone _ hK hP
  | chnTimingWrite => exact keeps_execChnTimingWrite _ _ _ hK hP
  | chnErrStatRead => exact keeps_execChnErrStatRead _ _ hK hP
  | chainShellRemoval => exact keeps_execChainShellRemoval _ hK hP
  | sampledCheckCompare => exact keeps_execSampledCheckCompare _ hK hP
  | fusedUpdate => exact keeps_execFusedUpdate _ hK hP
  | fanoutSignal => exact keeps_execFanoutSignal _ _ _ hK hP
  | commitArm => exact keeps_execCommitArm hK hP
  | commitReq => exact keeps_execCommitReq _ hK hP
  | commitCancel => exact keeps_execCommitCancel _ hK hP
  | bzlRedCfgWrite => exact keeps_execBzlRedCfgWrite _ _ _ _ hK hP
  | bzlRedStatRead => exact keeps_execBzlRedStatRead _ _ hK hP
  | bzlEccStatRead => exact keeps_execBzlEccStatRead _ _ hK hP
  | splitTakeEffect => exact keeps_execSplitTakeEffect hK hP
  | memRd => exact keeps_execMemRd _ hK hP
  | memWr => exact keeps_execMemWr _ _ _ hK hP
  | memWrPtl => exact keeps_execMemWrPtl _ _ _ hK hP
  | memInv => exact keeps_execMemInv _ hK hP
  | memSpecRd => exact keeps_execMemSpecRd _ hK hP
  | biRsp => exact keeps_execBiRsp _ _ hK hP
  | backInvalidateTimeout => exact keeps_execBackInvalidateTimeout _ _ hK hP
  | hostLinkDown => exact keeps_execHostLinkDown hK hP
  | hostLinkError => exact keeps_execHostLinkError _ hK hP
  | uioCompletion => exact keeps_execUioCompletion _ _ _ hK hP
  | uioTimeout => exact keeps_execUioTimeout _ hK hP
  | hostLaneCalibration => exact keeps_execHostLaneCalibration _ _ hK hP
  | hostCalibrationDone => exact keeps_execHostCalibrationDone hK hP
  | hlkBiRangeWrite => exact keeps_execHlkBiRangeWrite _ _ _ hK hP
  | hlkErrStatRead => exact keeps_execHlkErrStatRead _ hK hP
  | msixUnmask => exact keeps_execMsixUnmask _ hK hP
  | mbxDoorbell => exact keeps_execMbxDoorbell _ _ _ hK hP
  | mbxRst => exact keeps_execMbxRst _ _ hK hP
  | mailboxEntryRead => exact keeps_execMailboxEntryRead _ _ _ hK hP
  | mailboxCompletionWrite => exact keeps_execMailboxCompletionWrite _ _ hK hP
  | heldCompletionWrite => exact keeps_execHeldCompletionWrite _ _ hK hP
  | nop => exact keeps_execNop _ hK hP
  | identify => exact keeps_execIdentify _ hK hP
  | status => exact keeps_execStatus _ hK hP
  | posmap => exact keeps_execPosmap _ hK hP
  | map => exact keeps_execMap _ hK hP
  | unmap => exact keeps_execUnmap _ hK hP
  | window => exact keeps_execWindow _ hK hP
  | split => exact keeps_execSplit _ hK hP
  | loadBundle => exact keeps_execLoadBundle _ hK hP
  | dropBundle => exact keeps_execDropBundle _ hK hP
  | loadProgram => exact keeps_execLoadProgram _ _ hK hP
  | bind => exact keeps_execBind _ hK hP
  | unbind => exact keeps_execUnbind _ hK hP
  | cohortRead => exact keeps_execCohortRead _ hK hP
  | redWrite => exact keeps_execRedWrite _ _ hK hP
  | genWrite => exact keeps_execGenWrite _ hK hP
  | optWrite => exact keeps_execOptWrite _ _ hK hP
  | redCfg => exact keeps_execRedCfg _ hK hP
  | run => exact keeps_execRun _ hK hP
  | shadowLoad => exact keeps_execShadowLoad _ hK hP
  | stop => exact keeps_execStop _ hK hP
  | ledgerRead => exact keeps_execLedgerRead _ hK hP
  | ledgerCtl => exact keeps_execLedgerCtl _ hK hP
  | cntConfig => exact keeps_execCntConfig _ _ hK hP
  | cntSnap => exact keeps_execCntSnap _ hK hP
  | dumpRecordWrite => exact keeps_execDumpRecordWrite hK hP
  | fltRead => exact keeps_execFltRead _ hK hP
  | fltAck => exact keeps_execFltAck _ hK hP
  | fwStage => exact keeps_execFwStage _ _ hK hP
  | fwActivate => exact keeps_execFwActivate _ hK hP
  | handoverTickStart => exact keeps_execHandoverTickStart hK hP
  | handoverReady => exact keeps_execHandoverReady hK hP
  | handoverReadyTimeout => exact keeps_execHandoverReadyTimeout hK hP
  | fwActivateTimeout => exact keeps_execFwActivateTimeout hK hP
  | subst => exact keeps_execSubst _ hK hP
  | spareTest => exact keeps_execSpareTest _ _ hK hP
  | beadFault => exact keeps_execBeadFault _ _ hK hP
  | uncorrReread => exact keeps_execUncorrReread _ hK hP
  | faultRecordWrite => exact keeps_execFaultRecordWrite hK hP
  | traceWrite => exact keeps_execTraceWrite hK hP
  | ldgTraceWrite => exact keeps_execLdgTraceWrite _ _ _ hK hP
  | ldgOvrRead => exact keeps_execLdgOvrRead _ hK hP
  | ldgTraceStatRead => exact keeps_execLdgTraceStatRead _ hK hP
  | fltStatRead => exact keeps_execFltStatRead _ hK hP
  | asyStatRead => exact keeps_execAsyStatRead _ hK hP
  | pwrStatRead => exact keeps_execPwrStatRead _ hK hP
  | hubEvent => exact keeps_execHubEvent _ hK hP
  | irqPendSet => exact keeps_execIrqPendSet _ _ _ hK hP
  | irqPendClr => exact keeps_execIrqPendClr _ _ _ hK hP
  | irqMaskSet => exact keeps_execIrqMaskSet _ _ _ _ hK hP
  | irqMaskClr => exact keeps_execIrqMaskClr _ _ _ _ hK hP
  | irqClaim => exact keeps_execIrqClaim _ _ hK hP
  | mgmtEventSend => exact keeps_execMgmtEventSend hK hP
  | mgmtDataFrame => exact keeps_execMgmtDataFrame _ hK hP
  | mgmtAckFrame => exact keeps_execMgmtAckFrame _ hK hP
  | mgmtNakFrame => exact keeps_execMgmtNakFrame _ hK hP
  | mgmtIdleFrame => exact keeps_execMgmtIdleFrame _ hK hP
  | mgmtResendTimeout => exact keeps_execMgmtResendTimeout hK hP
  | mgmtIdleTimeout => exact keeps_execMgmtIdleTimeout hK hP
  | mgmtLaneDownTimeout => exact keeps_execMgmtLaneDownTimeout hK hP
  | setEndpointId => exact keeps_execSetEndpointId hK hP
  | getEndpointId => exact keeps_execGetEndpointId hK hP
  | getMctpVersionSupport => exact keeps_execGetMctpVersionSupport hK hP
  | getMessageTypeSupport => exact keeps_execGetMessageTypeSupport hK hP
  | getVendorDefinedMsgSupport => exact keeps_execGetVendorDefinedMsgSupport hK hP
  | mbxPost => exact keeps_execMbxPost hK hP
  | mbxCpl => exact keeps_execMbxCpl hK hP
  | regRead => exact keeps_execRegRead hK hP
  | regWrite => exact keeps_execRegWrite hK hP
  | stageWrite => exact keeps_execStageWrite hK hP
  | stageRead => exact keeps_execStageRead hK hP
  | powerOn => exact keeps_execPowerOn hK hP
  | powerOff => exact keeps_execPowerOff hK hP
  | powerCycle => exact keeps_execPowerCycle hK hP
  | powerCycleHoldEnd => exact keeps_execPowerCycleHoldEnd hK hP
  | mgtPwrWrite => exact keeps_execMgtPwrWrite _ _ _ hK hP
  | takeoverRequest => exact keeps_execTakeoverRequest hK hP
  | takeoverRelease => exact keeps_execTakeoverRelease hK hP
  | mgtOwnGrant => exact keeps_execMgtOwnGrant _ hK hP
  | mgtOwnDeny => exact keeps_execMgtOwnDeny _ hK hP
  | lossTmoExpiry => exact keeps_execLossTmoExpiry hK hP
  | attestMake => exact keeps_execAttestMake hK hP
  | attestFetch => exact keeps_execAttestFetch hK hP
  | secCtlLock => exact keeps_execSecCtlLock _ hK hP
  | bzlRetrainGo => exact keeps_execBzlRetrainGo _ _ _ hK hP
  | retrainAutoRotation => exact keeps_execRetrainAutoRotation hK hP
  | retrainPhaseEnd => exact keeps_execRetrainPhaseEnd _ hK hP
  | bzlRetireGo => exact keeps_execBzlRetireGo _ _ hK hP
  | pageRetirement => exact keeps_execPageRetirement _ hK hP
  | deferredRetirement => exact keeps_execDeferredRetirement _ hK hP
  | controlWindowWrite => exact keeps_execControlWindowWrite _ _ _ _ hK hP
  | scalarInstruction => exact keeps_execScalarInstruction _ _ hK hP
  | hostLinkUp => exact keeps_execHostLinkUp _ hK hP
  | mgmtLaneUp => exact keeps_execMgmtLaneUp hK hP
  | h2dSnoop => exact keeps_execH2dSnoop _ hK hP
  | uioRequestToModule => exact keeps_execUioRequestToModule _ hK hP
  | capabilityWrite => exact keeps_execCapabilityWrite _ hK hP
  | chainPortRetrain => exact keeps_execChainPortRetrain _ hK hP
  | sampledGranuleCopy => exact keeps_execSampledGranuleCopy _ hK hP
  | retrainBurstCopy => exact keeps_execRetrainBurstCopy _ hK hP

/-- The parts that a step may write beside the queue: those of its command, or those of a ck that passes. -/
def stepWrites (s : State) : List Part :=
  match s.pending with
  | [] => [.clock, .beads, .fabric, .clasps, .mem, .bezels, .chain, .ledger, .faults, .hub, .asy, .out]
  | c :: _ => writes c

theorem step_nil {s : State} (h : s.pending = []) : step s = .next (advanceCk s) := by
  simp only [step, h]

theorem step_cons {s : State} {c : Instr} {rest : List Instr} (h : s.pending = c :: rest) :
    step s = exec c { s with pending := rest } := by
  simp only [step, h]

theorem with_pending_nil {s : State} (h : s.pending = []) : { s with pending := [] } = s := by
  rw [← h]

/-- A step keeps the state less the command at the front of its queue. -/
theorem keeps_step (s : State) : KeepsOut (stepWrites s) { s with pending := s.pending.tail } (step s) := by
  cases h : s.pending with
  | nil =>
    rw [step_nil h, List.tail_nil, with_pending_nil h]
    exact keepsOut_next (keeps_advanceCk (Keeps.refl _ s) (by simp only [stepWrites, h]; exact sub_refl _))
  | cons c rest =>
    rw [step_cons h]
    exact keeps_exec c (Keeps.refl _ _) (by simp only [stepWrites, h]; exact sub_refl _)

/-- Settles O6: the fuses are in the standby partition, which a change of the queue leaves, and every command's meaning and
every ck lets them only rise. -/
theorem fusesOnlyRise : Obligations.FusesOnlyRise := by
  unfold Obligations.FusesOnlyRise
  intro s t h
  obtain ⟨hgrade, hrollback, hrevoked⟩ := (keeps_step s t h).fuses
  exact ⟨hgrade, hrollback, hrevoked⟩

/-! ### The state at reset: its tables list nothing -/

@[simp] theorem walksOf_reset (c : Nat) : walksOf State.reset c = [] := rfl
@[simp] theorem mbxOf_reset (m : Nat) : mbxOf State.reset m = {} := rfl
@[simp] theorem bezelOf_reset (z : Nat) : bezelOf State.reset z = {} := rfl
@[simp] theorem hartOf_reset (o h : Nat) : hartOf (beadOf State.reset o) h = {} := rfl
@[simp] theorem hubMask_reset (t : Nat) : hubMask State.reset.hub t = BitVec.allOnes 2048 := rfl
theorem wf_mem_reset : State.reset.mem.wf := by decide

/-- Settles O3: the memory and the lists that the invariant bounds are empty, and ck is 0. -/
theorem resetIsSafe : Obligations.ResetIsSafe := by
  unfold Obligations.ResetIsSafe
  exact {
    mem := wf_mem_reset
    ck := by decide
    walks := fun c => by rw [walksOf_reset]; decide
    waiting := by decide
    ring := by decide
    trace := by decide
    held := fun m => by rw [mbxOf_reset]; decide }

/-- Settles O4: a register outside the tables holds the default of its field, and one of a mailbox, a bezel, a hart or the
hub's masks what a table gives for a key that it does not list. -/
theorem resetGivesTheResetValues : Obligations.ResetGivesTheResetValues := by
  unfold Obligations.ResetGivesTheResetValues
  refine ⟨rfl, rfl, rfl, rfl, rfl, rfl, rfl, rfl, rfl, rfl, rfl, rfl, rfl, rfl, rfl, rfl, rfl, rfl, rfl, rfl,
    fun t _ => hubMask_reset t, fun m => ?_, fun z => ?_, fun o h => ?_⟩
  · rw [mbxOf_reset]
    exact ⟨rfl, rfl⟩
  · rw [bezelOf_reset]
    exact ⟨rfl, rfl, rfl, rfl⟩
  · rw [hartOf_reset]
    exact ⟨rfl, rfl⟩

end Sys2Proof.Proofs
end

section
/-! Proofs for chapter 1: the invariant along every step, a step of the empty queue, the events of power, and the tick
boundary. -/

namespace Sys2Proof.Proofs

open Sys2Proof Sys2Proof.Machine Sys2Proof.Laws

/-! ### The invariant -/

/-- The front of the queue leaves it: the invariant says nothing of the queue. -/
theorem safe_with_pending {s : State} (l : List Instr) (h : Safe s) : Safe { s with pending := l } :=
  { mem := h.mem, ck := h.ck, walks := h.walks, waiting := h.waiting, ring := h.ring, trace := h.trace, held := h.held }

/-- Settles O5: every command's meaning, and every ck that passes, keeps the invariant. -/
theorem everyStepKeepsSafe : Obligations.EveryStepKeepsSafe := by
  unfold Obligations.EveryStepKeepsSafe
  intro s t hs h
  exact (keeps_step s t h).safe (safe_with_pending _ hs)

/-! ### Parts that an operation does not list -/

section
variable {ps : List Part} {s t : State}

theorem clock_same (h : Keeps ps s t) (hp : Part.clock ∉ ps) : t.clock = s.clock := h.only.clock.resolve_left hp
theorem chain_same (h : Keeps ps s t) (hp : Part.chain ∉ ps) : t.chain = s.chain := h.only.chain.resolve_left hp
theorem nutas_same (h : Keeps ps s t) (hp : Part.nutas ∉ ps) : t.nutas = s.nutas := h.only.nutas.resolve_left hp
theorem faults_same (h : Keeps ps s t) (hp : Part.faults ∉ ps) : t.faults = s.faults := h.only.faults.resolve_left hp
theorem standby_same (h : Keeps ps s t) (hp : Part.standby ∉ ps) : t.standby = s.standby :=
  h.only.standby.resolve_left hp

end

/-- A command that answers a next state changes only the parts that it may write. -/
theorem completes_of_exec {c : Instr} {s t : State} {p : State → Prop} (h : exec c s = .next t) (hp : p t) :
    Completes c s p :=
  ⟨t, h, (keeps_exec c (Keeps.refl _ s) (sub_refl _) t h).only, hp⟩

/-! ### A step of the empty queue -/

theorem advanceCk_down {s : State} (h : s.standby.mainUp = false) : advanceCk s = s := by
  simp [advanceCk, mainUp, h]

theorem advanceCk_last {s : State} (h : 16383 ≤ s.clock.ck) : advanceCk s = s := by
  have hck : ¬ s.clock.ck < 16383 := by omega
  simp [advanceCk, hck]

theorem advanceCk_up {s : State} (hup : s.standby.mainUp = true) (hck : s.clock.ck < 16383) :
    advanceCk s = { endCk s with clock := { (endCk s).clock with ck := s.clock.ck + 1 } } := by
  simp [advanceCk, mainUp, hup, hck]

theorem applyActs_nil {p : ClaspAct → Bool} {s : State} (h : s.clasps.acts = []) : applyActs p s = s := by
  unfold applyActs
  rw [h]
  simp only [List.filter_nil, List.foldl_nil]
  rw [← h]

theorem endWaits_nil {s : State} (h : s.clasps.waiters = []) : endWaits s = s := by
  rw [endWaits, h, List.foldl_nil]

/-- No operation has reached a clasp, and no waiter's timeout is looked at. -/
theorem claspCk_idle {s : State} (hacts : s.clasps.acts = []) (h : s.clock.ck ≠ 0 ∨ s.clasps.waiters = []) :
    claspCk s = s := by
  have hwaits : (if s.clock.ck = 0 then endWaits s else s) = s := by
    rcases h with h | h
    · rw [if_neg h]
    · rw [endWaits_nil h, ite_self]
  simp only [claspCk, applyActs_nil hacts, hwaits]

theorem upTo_succ {α : Type} (n : Nat) (f : α → Nat → α) (a : α) : upTo (n + 1) f a = f (upTo n f a) n := by
  simp only [upTo, List.range_succ, List.foldl_append, List.foldl_cons, List.foldl_nil]

/-- Steps of a count that each leave the state as it is. -/
theorem upTo_same {α : Type} {n : Nat} {f : α → Nat → α} {a : α} (h : ∀ k < n, f a k = a) : upTo n f a = a := by
  induction n with
  | zero => rfl
  | succ n ih =>
    rw [upTo_succ, ih fun k hk => h k (by omega), h n (by omega)]

/-- A port whose pause is over only where one runs and frames flow. -/
theorem endPauses_idle {s : State} (h : ∀ p < 16, (portOf s p).pauseTo = 0 ∨ flows (portOf s p) = false) :
    endPauses s = s :=
  upTo_same fun p hp => by
    rcases h p hp with h | h <;> simp [h]

/-- A ck in which the clasps and the ports do nothing changes only the row slots, the hub's lines and the counters. -/
theorem keeps_endCk_idle {ps : List Part} {s : State} (hclasps : claspCk s = s)
    (hpauses : ∀ p < 16, (portOf s p).pauseTo = 0 ∨ flows (portOf s p) = false)
    (hP : sub [.beads, .hub, .asy, .out] ps = true) : Keeps ps s (endCk s) := by
  have hslots {qs : List Part} (hQ : sub [.beads, .hub, .asy, .out] qs = true) :
      Keeps qs s (clearSlots (countCk s)) :=
    keeps_clearSlots (KeepsMk.w_asy (Keeps.refl _ s) (sub_mem (by decide) hQ)) (sub_trans (by decide) hQ)
  have hports : endPauses (clearSlots (countCk s)) = clearSlots (countCk s) := by
    apply endPauses_idle
    intro p hp
    rw [portOf_congr (chain_same (hslots (sub_refl _)) (by decide))]
    exact hpauses p hp
  rw [endCk, hclasps, hports]
  exact keeps_hubTick (hslots hP) (sub_trans (by decide) hP)

/-- Settles O2: `advanceCk` within a tick counts ck up over `endCk`, which in an idle ck leaves the clasps and the ports. -/
theorem idleStepPassesOneCk : Obligations.IdleStepPassesOneCk := by
  unfold Obligations.IdleStepPassesOneCk
  intro s hs
  refine ⟨fun h => ?_, fun h => ?_, fun hup hck => ⟨advanceCk s, step_nil hs, ?_, ?_, fun hacts hwaits hpauses => ?_⟩⟩
  · rw [step_nil hs, advanceCk_down h]
  · rw [step_nil hs, advanceCk_last h]
  · rw [advanceCk_up hup hck]
  · exact (keeps_advanceCk (Keeps.refl _ s) (sub_refl _)).only
  · have hend {ps : List Part} (hP : sub [.beads, .hub, .asy, .out] ps = true) : Keeps ps s (endCk s) :=
      keeps_endCk_idle (claspCk_idle hacts hwaits) (fun p hp => .inl (hpauses p hp)) hP
    rw [advanceCk_up hup hck]
    exact ⟨(KeepsMk.w_clock (hend (by decide)) (by decide) fun _ => Nat.succ_lt_succ hck).only,
      by rw [clock_same (hend (sub_refl _)) (by decide)]⟩

/-! ### The main domains ramp down -/

theorem highWater_waiting (s : State) : (highWater s).faults.waiting = s.faults.waiting := by
  simp only [highWater]
  split
  · rw [hubRaise_faults]
  · rfl

theorem traceItem_faults (i : TraceItem) (s : State) : (traceItem i s).faults = s.faults :=
  faults_same (keeps_traceItem i (Keeps.refl _ s) (sub_refl _)) (by decide)

/-- The oldest waiting record leaves the list of those that wait. -/
theorem writeRecord_waiting (s : State) : (writeRecord s).faults.waiting = s.faults.waiting.tail := by
  unfold writeRecord
  split
  · next h => rw [h, List.tail_nil]
  · next r rest h => rw [traceItem_faults, countEv_faults, highWater_waiting, h, List.tail_cons]

theorem writeRecords_waiting (n : Nat) (s : State) :
    (upTo n (fun t _ => writeRecord t) s).faults.waiting = s.faults.waiting.drop n := by
  induction n with
  | zero => rfl
  | succ n ih =>
    rw [upTo_succ, writeRecord_waiting, ih, List.tail_drop]

theorem writeAllRecords_waiting (s : State) : (writeAllRecords s).faults.waiting = [] := by
  rw [writeAllRecords, writeRecords_waiting, List.drop_length]

theorem writeAllRecords_nutas (s : State) : (writeAllRecords s).nutas = s.nutas :=
  nutas_same (keeps_writeAllRecords (Keeps.refl _ s) (sub_refl _)) (by decide)

theorem writeAllRecords_standby (s : State) : (writeAllRecords s).standby = s.standby :=
  standby_same (keeps_writeAllRecords (Keeps.refl _ s) (sub_refl _)) (by decide)

theorem answerTake_nutas (status : Nat) (s : State) : (answerTake status s).nutas = s.nutas :=
  nutas_same (keeps_answerTake status (Keeps.refl _ s) (sub_refl _)) (by decide)

theorem answerTake_faults (status : Nat) (s : State) : (answerTake status s).faults = s.faults :=
  faults_same (keeps_answerTake status (Keeps.refl _ s) (sub_refl _)) (by decide)

/-- A takeover request that waits is over; nothing else of the standby partition's registers differs. -/
theorem answerTake_standby (status : Nat) (s : State) :
    (answerTake status s).standby = { s.standby with takeReq := none } := by
  unfold answerTake
  split
  · next h => rw [← h]
  · exact standby_same (keeps_thAnswer _ _ _ (Keeps.refl _ _) (sub_refl _)) (by decide)

/-- The state that `mainDown` drops: every record is written, the takeover is answered, and behind READY every command
has ended. -/
def atDrop (s : State) : State :=
  let s1 := answerTake thMainDown (writeAllRecords s)
  if s.standby.phase = 7 then modNutas (fun n => { n with cmds := [], ready := [] }) s1 else s1

theorem mainDown_eq {s : State} (h : s.standby.phase ≠ 0) :
    mainDown s = modStandby (fun b => { b with
      mainUp := false, phase := 0, pending := false, granted := false, force := false, release := false
      graceLeft := 0 }) (dropMain (atDrop s)) :=
  if_neg h

theorem atDrop_waiting (s : State) : (atDrop s).faults.waiting = [] := by
  have h : (answerTake thMainDown (writeAllRecords s)).faults.waiting = [] := by
    rw [answerTake_faults, writeAllRecords_waiting]
  unfold atDrop
  split <;> exact h

theorem atDrop_standby (s : State) : (atDrop s).standby = { s.standby with takeReq := none } := by
  have h : (answerTake thMainDown (writeAllRecords s)).standby = { s.standby with takeReq := none } := by
    rw [answerTake_standby, writeAllRecords_standby]
  unfold atDrop
  split <;> exact h

/-- The commands and completions that the ramp down leaves: behind READY none, before it those of mailbox 8. -/
theorem commandsLeft_atDrop (s : State) : CommandsLeft false s (dropMain (atDrop s)) := by
  unfold CommandsLeft
  split
  · next h =>
    have h7 : s.standby.phase = 7 := h.resolve_left Bool.false_ne_true
    rw [atDrop, if_pos h7]
    exact ⟨rfl, rfl⟩
  · next h =>
    have h7 : s.standby.phase ≠ 7 := fun h7 => h (.inr h7)
    have hnutas : (atDrop s).nutas = s.nutas := by
      rw [atDrop, if_neg h7, answerTake_nutas, writeAllRecords_nutas]
    rw [← hnutas]
    exact ⟨rfl, rfl⟩

/-- Behind a phase other than STANDBY the main domains ramp down, with HOLD_OFF, and what ENABLE and the overvoltage
detector have said, as they were. -/
theorem mainDown_rampedDown {s : State} (h : s.standby.phase ≠ 0) :
    RampedDown false s (mainDown s) ∧ (mainDown s).standby.overvolt = s.standby.overvolt ∧
      (mainDown s).standby.enableIn = s.standby.enableIn ∧ (mainDown s).standby.holdOff = s.standby.holdOff := by
  have hstandby := atDrop_standby s
  have same {α : Type} (p : Standby → α) (hp : p { s.standby with takeReq := none } = p s.standby) :
      p (atDrop s).standby = p s.standby := by rw [hstandby, hp]
  rw [mainDown_eq h]
  exact ⟨⟨rfl, rfl, rfl, rfl, rfl, rfl, rfl, rfl, rfl, rfl, rfl, rfl, rfl, rfl, rfl, rfl, rfl, commandsLeft_atDrop s,
    atDrop_waiting s, same (·.owner) rfl, same (·.imgA) rfl, same (·.imgB) rfl, same (·.boots) rfl,
    congrArg (·.takeReq) hstandby⟩, same (·.overvolt) rfl, same (·.enableIn) rfl, same (·.holdOff) rfl⟩

/-! ### The events of power -/

theorem mayRun_iff (b : Standby) :
    mayRun b = true ↔ b.standby = true ∧ b.enableIn = true ∧ b.holdOff = false ∧ b.overvolt = false := by
  simp [mayRun, and_assoc]

/-- The pin, HOLD_OFF, an overvoltage stop and a phase that is not STANDBY each keep bring-up from starting. -/
theorem execBringUpStart_held {s : State} (h : s.standby.holdOff = true ∨ s.standby.enableIn = false ∨
    s.standby.overvolt = true ∨ s.standby.phase ≠ 0) : execBringUpStart s = .next s := by
  have hoff : (mayRun s.standby && s.standby.phase == 0) = false := by
    rw [Bool.and_eq_false_iff, beq_eq_false_iff_ne]
    rcases h with h | h | h | h
    · exact .inl (by simp [mayRun, h])
    · exact .inl (by simp [mayRun, h])
    · exact .inl (by simp [mayRun, h])
    · exact .inr h
  rw [execBringUpStart, hoff, whenOk_false]

theorem execBringUpStart_starts {s : State} (hrun : mayRun s.standby = true) (hphase : s.standby.phase = 0) :
    execBringUpStart s = .next { s with standby := { s.standby with phase := 1, fail := 0, boots := s.standby.boots + 1 } } :=
  whenOk_of s (by simp [hrun, hphase]) _

/-- An overvoltage stop from a phase other than STANDBY. -/
theorem overvoltageStop_rampsDown {s : State} (hup : s.standby.standby = true) (hok : s.standby.overvolt = false)
    (hphase : s.standby.phase ≠ 0) : Completes .overvoltageStop s fun t => RampedDown false s t ∧
      t.standby.overvolt = true ∧ t.standby.enableIn = s.standby.enableIn ∧ t.standby.holdOff = s.standby.holdOff := by
  have hexec : exec .overvoltageStop s = .next (mainDown (modStandby (fun b => { b with overvolt := true }) s)) :=
    whenOk_of s (by simp [hup, hok]) _
  exact completes_of_exec hexec (mainDown_rampedDown hphase)

/-- A fall of ENABLE in a phase other than STANDBY. -/
theorem enableFall_rampsDown {s : State} (hphase : s.standby.phase ≠ 0) :
    Completes (.enableChange false) s fun t => RampedDown false s t ∧ t.standby.enableIn = false ∧
      t.standby.overvolt = s.standby.overvolt ∧ t.standby.holdOff = s.standby.holdOff := by
  have hexec : exec (.enableChange false) s = .next (mainDown (modStandby (fun b => { b with enableIn := false }) s)) := rfl
  obtain ⟨hdown, hovervolt, henable, hhold⟩ :=
    mainDown_rampedDown (s := modStandby (fun b => { b with enableIn := false }) s) hphase
  exact completes_of_exec hexec ⟨hdown, henable, hovervolt, hhold⟩

/-- A rise of ENABLE, or a change while the phase is STANDBY, is seen and nothing else. -/
theorem execEnableChange_seen {s : State} {level : Bool} (h : level = true ∨ s.standby.phase = 0) :
    execEnableChange level s = .next { s with standby := { s.standby with enableIn := level } } := by
  rcases h with rfl | h
  · rfl
  · have hdown : mainDown (modStandby (fun b => { b with enableIn := level }) s) =
        modStandby (fun b => { b with enableIn := level }) s := if_pos h
    simp only [execEnableChange, hdown, ite_self]
    rfl

/-- Settles O10: each event of power is one update of the standby partition, or the ramp down of `mainDown`. -/
theorem powerEventsStartAndEndTheMainDomains : Obligations.PowerEventsStartAndEndTheMainDomains := by
  unfold Obligations.PowerEventsStartAndEndTheMainDomains
  intro s
  refine ⟨fun hdown => ?applied, fun hup hover => ?recovery, fun hup hcycling => ?holdEnd,
    fun hup hpin hhold hover hphase => ?start, fun hup hlane howner => ?lossTmo, execBringUpStart_held,
    overvoltageStop_rampsDown, enableFall_rampsDown, fun _ => execEnableChange_seen, fun hup => ?loss⟩
  case applied => exact whenOk_of s (by simp [hdown]) _
  case recovery => exact whenOk_of s (by simp [hup, hover]) _
  case holdEnd => exact whenOk_of s (by simp [hup, hcycling]) _
  case start => exact execBringUpStart_starts ((mayRun_iff _).2 ⟨hup, hpin, hhold, hover⟩) hphase
  case lossTmo => exact whenOk_of s (by simp [mainUp, hup, hlane, howner]) _
  case loss =>
    have hexec : exec .inputVoltageLoss s = .next (inputLoss s) := whenOk_of s hup _
    exact completes_of_exec hexec
      ⟨rfl, rfl, rfl, rfl, rfl, rfl, rfl, rfl, rfl, rfl, rfl, rfl, rfl, rfl, rfl⟩

/-! ### The clock along a boundary -/

/-- Tick, ck, mode and work of the clock as they were, and no quiet tick begun: only how a plan ends may differ. -/
structure SameTick (s t : State) : Prop where
  tick : t.clock.tick = s.clock.tick
  ck : t.clock.ck = s.clock.ck
  mode : t.clock.mode = s.clock.mode
  hold : t.clock.hold = s.clock.hold
  replay : t.clock.replay = s.clock.replay
  workTick : t.clock.workTick = s.clock.workTick
  overrunTick : t.clock.overrunTick = s.clock.overrunTick
  fabricOk : t.clock.fabricOk = s.clock.fabricOk
  quiet : s.clock.quiet = false → t.clock.quiet = false

theorem SameTick.of_clock {s t : State} (h : t.clock = s.clock) : SameTick s t := by
  constructor <;> rw [h]
  exact id

theorem SameTick.refl (s : State) : SameTick s s := .of_clock rfl

theorem SameTick.trans {s t u : State} (h : SameTick s t) (g : SameTick t u) : SameTick s u where
  tick := g.tick.trans h.tick
  ck := g.ck.trans h.ck
  mode := g.mode.trans h.mode
  hold := g.hold.trans h.hold
  replay := g.replay.trans h.replay
  workTick := g.workTick.trans h.workTick
  overrunTick := g.overrunTick.trans h.overrunTick
  fabricOk := g.fabricOk.trans h.fabricOk
  quiet := fun hq => g.quiet (h.quiet hq)

section
variable {s t : State}

/-- An update that leaves the clock. -/
theorem SameTick.upd (h : SameTick s t) {u : State} (hu : u.clock = t.clock) : SameTick s u := h.trans (.of_clock hu)

/-- An operation that does not list the clock. -/
theorem SameTick.keeps {ps : List Part} {u : State} (h : SameTick s t) (hk : Keeps ps t u) (hp : Part.clock ∉ ps) :
    SameTick s u := h.upd (clock_same hk hp)

theorem SameTick.ite {c : Prop} {_ : Decidable c} {u : State} (ht : SameTick s t) (hu : SameTick s u) :
    SameTick s (if c then t else u) := by
  split
  · exact ht
  · exact hu

theorem SameTick.foldl {α : Type} {f : State → α → State} (l : List α) (h : SameTick s t)
    (hf : ∀ u a, SameTick s u → SameTick s (f u a)) : SameTick s (l.foldl f t) := by
  induction l generalizing t with
  | nil => exact h
  | cons a r ih => exact ih (hf t a h)

theorem SameTick.endService (h : SameTick s t) (cls : Nat) : SameTick s (Machine.endService cls t) := by
  unfold Machine.endService
  exact .ite (h.trans ⟨rfl, rfl, rfl, rfl, rfl, rfl, rfl, rfl, id⟩) h

theorem SameTick.clearPlan (h : SameTick s t) : SameTick s (Machine.clearPlan t) :=
  h.trans ⟨rfl, rfl, rfl, rfl, rfl, rfl, rfl, rfl, fun _ => rfl⟩

theorem complete_clock (num status : Nat) (r0 r1 : Word) : (complete num status r0 r1 s).clock = s.clock :=
  clock_same (keeps_complete _ _ _ _ (Keeps.refl _ s) (sub_refl _)) (by decide)

theorem completeWaits_clock (p : Waits → Option Nat) (status : Nat) (r1 : Word) :
    (completeWaits p status r1 s).clock = s.clock :=
  clock_same (keeps_completeWaits _ _ _ (Keeps.refl _ s) (sub_refl _)) (by decide)

theorem SameTick.complete (h : SameTick s t) (num status : Nat) (r0 r1 : Word) :
    SameTick s (Machine.complete num status r0 r1 t) := h.upd (complete_clock _ _ _ _)

theorem SameTick.completeWaits (h : SameTick s t) (p : Waits → Option Nat) (status : Nat) (r1 : Word) :
    SameTick s (Machine.completeWaits p status r1 t) := h.upd (completeWaits_clock _ _ _)

/-! ### Loads that are finished at a boundary -/

theorem SameTick.settingFault (h : SameTick s t) (n pos : Nat) : SameTick s (Machine.settingFault n pos t) := by
  have hrecord (cls src d : Nat) (f : Fabric) : SameTick s (recordAt cls src d { t with fabric := f }) :=
    h.upd (recordAt_clock { t with fabric := f } cls src d)
  exact .ite ((hrecord _ _ _ _).endService _) ((hrecord _ _ _ _).clearPlan.complete _ _ _ _)

theorem SameTick.loadSetting (h : SameTick s t) (k : Nat) (b : Bundle) (bad : Option Nat) (v : State) :
    SameTick s (Machine.loadSetting k b bad v t) := by
  cases bad with
  | some pos => exact h.settingFault _ _
  | none => exact h.keeps (keeps_fillShadows k b v (Keeps.refl _ _) (sub_refl _)) (by decide)

theorem SameTick.writeSetting (h : SameTick s t) (k : Nat) : SameTick s (Machine.writeSetting k t) := by
  unfold Machine.writeSetting
  split
  · exact h
  · refine SameTick.loadSetting ?_ _ _ _ _
    exact h.keeps (keeps_settingLook _ _ _ (Keeps.refl _ _) (sub_refl _)) (by decide)

theorem SameTick.finishLoad (h : SameTick s t) (l : Load) : SameTick s (Machine.finishLoad l t) := by
  unfold Machine.finishLoad
  split
  · exact .ite h (h.writeSetting _)
  · exact h.upd (by rfl)
  · exact .foldl _ h fun _ _ hu => hu.upd (by rfl)
  · exact .ite h (h.upd (by rfl))
  · exact h.completeWaits _ _ _

theorem SameTick.finishLoads (h : SameTick s t) : SameTick s (Machine.finishLoads t) := by
  refine .foldl _ h fun u _ hu => ?_
  split
  · exact hu
  · exact .ite (SameTick.finishLoad (hu.upd (by rfl)) _) hu

theorem SameTick.beginStepLoad (h : SameTick s t) (b : Bundle) (k : Nat) : SameTick s (Machine.beginStepLoad b k t) := by
  have hlook : SameTick s (schedLook b (t.nutas.plan.first + k) t) :=
    h.keeps (keeps_schedLook _ _ (Keeps.refl _ _) (sub_refl _)) (by decide)
  exact SameTick.finishLoads (hlook.upd (by rfl))

/-! ### The steps of a turn -/

theorem SameTick.swapStores (h : SameTick s t) (ending new : Nat) : SameTick s (Machine.swapStores ending new t) := by
  unfold Machine.swapStores
  split
  · exact h
  · refine .ite h (SameTick.finishLoads (.keeps ?_ (keeps_addLoad _ (Keeps.refl _ _) (sub_refl _)) (by decide)))
    exact SameTick.completeWaits (h.upd (by rfl)) _ _ _

theorem SameTick.swapsAndChecks (h : SameTick s t) (o : Opens) (ending new : Nat) :
    SameTick s (Machine.swapsAndChecks o ending new t) := by
  have himages {u : State} (hu : SameTick s u) : SameTick s (programsDone new (swapImages ending u)) :=
    hu.keeps (keeps_programsDone new (ps := [.beads, .ledger, .mbxs, .nutas, .mgmt])
      (keeps_swapImages ending (Keeps.refl _ _) (by decide)) (by decide)) (by decide)
  have hviews {u : State} (hu : SameTick s u) : SameTick s (swapViews ending new u) :=
    hu.keeps (keeps_swapViews ending new (Keeps.refl _ _) (sub_refl _)) (by decide)
  have hclasps {u : State} (hu : SameTick s u) (quiet : Bool) : SameTick s (claspChecks quiet u) :=
    hu.keeps (keeps_claspChecks quiet (Keeps.refl _ _) (sub_refl _)) (by decide)
  have hflip {u : State} (hu : SameTick s u) : SameTick s (hubRaise 138 (countEv blkLocket 0x09 1 (Machine.flip u))) :=
    (hu.keeps (keeps_flip (Keeps.refl _ _) (sub_refl _)) (by decide)).upd (by rw [hubRaise_clock, countEv_clock])
  have hchecked {u : State} (hu : SameTick s u) : SameTick s (if o = .step then claspChecks false u
      else if o = .enter then claspChecks true u else u) := .ite (hclasps hu false) (.ite (hclasps hu true) hu)
  refine .ite (hflip (hchecked (hviews ((himages ?setting).swapStores ending new))))
    (hchecked (hviews ((himages ?setting).swapStores ending new)))
  split
  · exact h.keeps (keeps_swapSetting (ps := [.beads, .fabric, .clasps, .nutas])
      (keeps_markImages _ _ (Keeps.refl _ _) (by decide)) (by decide)) (by decide)
  · exact h

theorem SameTick.turnLedger (h : SameTick s t) (o : Opens) (new : BitVec 48) (fseq : Word32) (fcount : BitVec 16) :
    SameTick s (Machine.turnLedger o new fseq fcount t) := by
  have htrace {u : State} (i : TraceItem) (hu : SameTick s u) : SameTick s (traceItem i u) :=
    hu.keeps (keeps_traceItem i (Keeps.refl _ u) (sub_refl _)) (by decide)
  exact .ite (SameTick.endService (htrace _ (h.upd (by rfl))) _) (htrace _ (h.upd (by rfl)))

theorem SameTick.faultedBead (h : SameTick s t) (o : Nat) : SameTick s (Machine.faultedBead o t) := by
  have hfail : SameTick s (failOpen (posOfOrd o) t) :=
    h.keeps (keeps_failOpen _ (Keeps.refl _ t) (sub_refl _)) (by decide)
  have hbegin : SameTick s (beginSubst (posOfOrd o) t) :=
    h.keeps (keeps_beginSubst _ (Keeps.refl _ t) (sub_refl _)) (by decide)
  exact .ite h (.ite (.ite hbegin (h.endService _)) (hfail.endService _))

theorem SameTick.beginSubsts (h : SameTick s t) (named : Bool) : SameTick s (Machine.beginSubsts named t) := by
  have hfaulted (l : List Nat) : SameTick s (l.foldl (fun u o => Machine.faultedBead o u) t) :=
    .foldl l h fun u o hu => hu.faultedBead o
  refine .ite (hfaulted _) (.foldl _ ((hfaulted _).trans ⟨rfl, rfl, rfl, rfl, rfl, rfl, rfl, rfl, id⟩) fun u w hu => ?_)
  split
  · exact hu.keeps (keeps_waitingSubst _ _ (Keeps.refl _ u) (sub_refl _)) (by decide)
  · exact hu

theorem SameTick.openBeads (h : SameTick s t) (o : Opens) (wasReplay : Bool) :
    SameTick s (Machine.openBeads o wasReplay t) := by
  have hwake : SameTick s (wakeBeads t) := h.upd (by rfl)
  cases o with
  | step => exact hwake.keeps (keeps_takeSnaps (Keeps.refl _ _) (sub_refl _)) (by decide)
  | enter => exact hwake.keeps (keeps_takeSnaps (Keeps.refl _ _) (sub_refl _)) (by decide)
  | hold => exact (h.keeps (keeps_holdAll (Keeps.refl _ _) (sub_refl _)) (by decide)).beginSubsts _
  | replay => exact h.keeps (keeps_beginReplay (Keeps.refl _ _) (sub_refl _)) (by decide)
  | leave => exact hwake.beginSubsts true
  | quiet => exact hwake.beginSubsts true
  | idle => exact hwake.beginSubsts true

theorem SameTick.planNext (h : SameTick s t) : SameTick s (Machine.planNext t) := by
  unfold Machine.planNext
  split
  · exact h
  · refine .ite h ?_
    split
    · exact h.beginStepLoad _ _
    · exact h.upd (by rfl)

end

/-- The state of a turn in which the swaps and the checks have been made. -/
def swapped (o : Opens) (ending new : Nat) (s : State) : State :=
  let s1 := countWaits (timingClear (modLedger (fun l => { l with cur := { l.cur with fcount := 0 } })
    (modClock (fun c => { c with tick := BitVec.ofNat 48 new, ck := 0 }) s)))
  if !s.clock.hold && o != .hold then swapsAndChecks o ending new s1 else s1

/-- Up to there the tick has counted and ck has started again. -/
theorem sameTick_swapped (o : Opens) (ending new : Nat) (s : State) :
    SameTick (modClock (fun c => { c with tick := BitVec.ofNat 48 new, ck := 0 }) s) (swapped o ending new s) := by
  have hstart : SameTick (modClock (fun c => { c with tick := BitVec.ofNat 48 new, ck := 0 }) s)
      (countWaits (timingClear (modLedger (fun l => { l with cur := { l.cur with fcount := 0 } })
        (modClock (fun c => { c with tick := BitVec.ofNat 48 new, ck := 0 }) s)))) :=
    (SameTick.refl _).keeps (keeps_countWaits (ps := [.ledger, .chain, .clasps])
      (keeps_timingClear (keeps_modLedger _ (Keeps.refl _ _) (by decide) id) (by decide)) (by decide)) (by decide)
  exact .ite (hstart.swapsAndChecks _ _ _) hstart

/-- From there `enterTick` sets mode and work, and nothing after it changes them. -/
theorem sameTick_turn (o : Opens) (ending new : Nat) (s : State) :
    SameTick (enterTick o (BitVec.ofNat 48 new) (swapped o ending new s)) (turn o ending new s) := by
  generalize hu : enterTick o (BitVec.ofNat 48 new) (swapped o ending new s) = u
  have hports : SameTick u (openPorts u) :=
    (SameTick.refl _).keeps (keeps_openPorts (Keeps.refl _ _) (sub_refl _)) (by decide)
  have hbeads {v : State} (hv : SameTick u v) : SameTick u (openBeads o s.clock.replay (reseed v)) :=
    SameTick.openBeads (hv.upd (by rfl)) _ _
  have hnext {v : State} (hv : SameTick u v) : SameTick u (if o = .step ∨ o = .enter then planNext v else v) :=
    .ite hv.planNext hv
  have hcounters {v : State} (hv : SameTick u v) : SameTick u (takeCounters (BitVec.ofNat 48 new) v) :=
    hv.keeps (keeps_takeCounters _ (Keeps.refl _ _) (sub_refl _)) (by decide)
  subst hu
  exact hcounters (hnext (hbeads (hports.turnLedger _ _ _ _)))

/-! ### The mode that a tick opens in -/

theorem planStep_clock (k : Nat) (s : State) : (planStep k s).clock = s.clock :=
  clock_same (keeps_planStep k (Keeps.refl _ s) (sub_refl _)) (by decide)

/-- The return to arbitrated mode leaves tick and ck. -/
theorem leaveScheduled_tick (s : State) :
    (leaveScheduled s).clock.tick = s.clock.tick ∧ (leaveScheduled s).clock.ck = s.clock.ck := by
  have hplan := (SameTick.refl s).clearPlan.complete s.nutas.plan.num (runStatus s) (BitVec.ofNat 64 s.nutas.plan.done)
    (s.nutas.plan.step0.setWidth 64)
  simp only [leaveScheduled, completeWaits_clock]
  exact ⟨hplan.tick, hplan.ck⟩

/-- Whatever opens, `enterTick` leaves tick and ck. -/
theorem enterTick_tick (o : Opens) (new : BitVec 48) (s : State) :
    (enterTick o new s).clock.tick = s.clock.tick ∧ (enterTick o new s).clock.ck = s.clock.ck := by
  cases o with
  | step => simp only [enterTick, modClock_clock, planStep_clock, and_self]
  | enter => exact ⟨congrArg (·.tick) (planStep_clock 0 _), congrArg (·.ck) (planStep_clock 0 _)⟩
  | hold => exact ⟨rfl, rfl⟩
  | replay => exact ⟨rfl, rfl⟩
  | leave => exact leaveScheduled_tick s
  | quiet => exact ⟨rfl, rfl⟩
  | idle => exact ⟨rfl, rfl⟩

/-! ### A module with no reachable peer -/

theorem flows_of_alone {s : State} (h : reachable s = []) {p : Nat} (hp : p < 16) : flows (portOf s p) = false := by
  have hnot := List.filter_eq_nil_iff.1 h p (List.mem_range.2 hp)
  exact Bool.eq_false_iff.2 hnot

theorem reachable_congr {s t : State} (h : t.chain = s.chain) : reachable t = reachable s := by
  simp only [reachable, portOf_congr h]

theorem peerCheck_alone {s : State} (h : reachable s = []) : peerCheck s = false := by
  simp [peerCheck, peerHold, h]

/-- Alignment changes neither the clock nor the number of the next tick. -/
theorem alignTick_alone {s : State} (h : reachable s = []) :
    (alignTick s).1.clock = s.clock ∧ (alignTick s).2 = 0 := by
  unfold alignTick
  split
  · exact ⟨rfl, rfl⟩
  · simp [refChoice, windowsDiffer, h]

/-! ### The tick closes -/

theorem mbxZero_nutas (m : Nat) (s : State) : (mbxZero m s).nutas = s.nutas :=
  nutas_same (keeps_mbxZero m (Keeps.refl _ s) (sub_refl _)) (by decide)

/-- What a completion changes of Nutas' state: its list of commands and its ready completions. -/
theorem complete_nutas (num status : Nat) (r0 r1 : Word) (s : State) :
    ∃ cmds ready, (complete num status r0 r1 s).nutas = { s.nutas with cmds := cmds, ready := ready } := by
  unfold complete
  split
  · exact ⟨_, _, rfl⟩
  · dsimp only
    split
    · split
      · exact ⟨_, _, mbxZero_nutas _ _⟩
      · exact ⟨_, _, rfl⟩
    · exact ⟨_, _, rfl⟩

theorem complete_plan (num status : Nat) (r0 r1 : Word) (s : State) :
    (complete num status r0 r1 s).nutas.plan = s.nutas.plan := by
  obtain ⟨cmds, ready, h⟩ := complete_nutas num status r0 r1 s
  rw [h]

theorem complete_substs (num status : Nat) (r0 r1 : Word) (s : State) :
    (complete num status r0 r1 s).nutas.substs = s.nutas.substs := by
  obtain ⟨cmds, ready, h⟩ := complete_nutas num status r0 r1 s
  rw [h]

theorem completeWaits_plan (p : Waits → Option Nat) (status : Nat) (r1 : Word) (s : State) :
    (completeWaits p status r1 s).nutas.plan = s.nutas.plan :=
  foldl_same (·.nutas.plan) (fun t k => complete_plan k status 0 r1 t) _ _

theorem completeWaits_substs (p : Waits → Option Nat) (status : Nat) (r1 : Word) (s : State) :
    (completeWaits p status r1 s).nutas.substs = s.nutas.substs :=
  foldl_same (·.nutas.substs) (fun t k => complete_substs k status 0 r1 t) _ _

theorem takeDepth_plan (s : State) : (takeDepth s).nutas.plan = s.nutas.plan := by
  unfold takeDepth
  split
  · rfl
  · exact completeWaits_plan _ _ _ _

theorem takeDepth_substs (s : State) : (takeDepth s).nutas.substs = s.nutas.substs := by
  unfold takeDepth
  split
  · rfl
  · exact completeWaits_substs _ _ _ _

theorem takeDepth_clock (s : State) : (takeDepth s).clock = s.clock :=
  clock_same (keeps_takeDepth (Keeps.refl _ s) (sub_refl _)) (by decide)

/-- What leaves the clock does so in the tick that opens, too. -/
theorem inTick_clock {f : State → State} (hf : ∀ u, (f u).clock = u.clock) (n : BitVec 48) (s : State) :
    (inTick n f s).clock = s.clock := by
  simp only [inTick, hf]

theorem inTick_nutas {α : Type} (p : Nutas → α) {f : State → State} (hf : ∀ u, p (f u).nutas = p u.nutas) (n : BitVec 48)
    (s : State) : p (inTick n f s).nutas = p s.nutas := hf _

theorem substDone_clock (p o : Nat) (s : State) : (substDone p o s).clock = s.clock :=
  clock_same (keeps_substDone p o (Keeps.refl _ s) (sub_refl _)) (by decide)

theorem migrate_nutas (o : Nat) (s : State) : (migrate o s).nutas = s.nutas :=
  nutas_same (keeps_migrate o (Keeps.refl _ s) (sub_refl _)) (by decide)

theorem setPos_plan (p c : Nat) (s : State) : (setPos p c s).nutas.plan = s.nutas.plan := rfl

theorem loadReach_plan (s : State) : (loadReach s).nutas.plan = s.nutas.plan := by
  simp only [loadReach]

theorem substDone_plan (p o : Nat) (s : State) : (substDone p o s).nutas.plan = s.nutas.plan := by
  unfold substDone
  rw [modBead_nutas, modNutas_nutas, setPos_plan, setPos_plan, migrate_nutas]

theorem expressRecord_clock (o : Nat) (s : State) : (expressRecord o s).clock = s.clock :=
  clock_same (keeps_expressRecord o (Keeps.refl _ s) (sub_refl _)) (by decide)

theorem expressRecord_nutas (o : Nat) (s : State) : (expressRecord o s).nutas = s.nutas :=
  nutas_same (keeps_expressRecord o (Keeps.refl _ s) (sub_refl _)) (by decide)

/-- The position of a spare that has failed its check, and the service that ends with it. -/
theorem endSubst_lost (p : Nat) (s : State) :
    SameTick s (endService 0x05 (loadReach (setPos (spareOf p) 6 (setPos p 5 s)))) ∧
      (endService 0x05 (loadReach (setPos (spareOf p) 6 (setPos p 5 s)))).nutas.plan = s.nutas.plan := by
  have hpos : SameTick s (loadReach (setPos (spareOf p) 6 (setPos p 5 s))) :=
    (SameTick.refl s).keeps (keeps_loadReach (ps := [.nutas])
      (keeps_setPos _ _ (keeps_setPos _ _ (Keeps.refl _ s) (by decide)) (by decide)) (by decide)) (by decide)
  exact ⟨hpos.endService _, by rw [endService_nutas, loadReach_plan, setPos_plan, setPos_plan]⟩

/-- The SUBST of a substitution that has ended completes in the tick that opens. -/
theorem substEnds_tick {s t : State} (ht : SameTick s t ∧ t.nutas.plan = s.nutas.plan) (tick : BitVec 48)
    (k p st : Nat) (r0 r1 : Word) :
    SameTick s (inTick tick (complete k st r0 r1) (dropWait (fun w => w == .subst k p) t)) ∧
      (inTick tick (complete k st r0 r1) (dropWait (fun w => w == .subst k p) t)).nutas.plan = s.nutas.plan :=
  ⟨ht.1.upd (inTick_clock (fun u => complete_clock (s := u) k st r0 r1) _ _),
    (inTick_nutas (·.plan) (complete_plan k st r0 r1) _ _).trans ht.2⟩

/-- A substitution that ends leaves tick, mode and plan: with its spare lost it may end scheduled service. -/
theorem endSubst_tick (fails : Bool) (tick : BitVec 48) (p : Nat) (s : State) :
    SameTick s (endSubst fails tick p s) ∧ (endSubst fails tick p s).nutas.plan = s.nutas.plan := by
  have hdone (o : Nat) : SameTick s (substDone p o s) ∧ (substDone p o s).nutas.plan = s.nutas.plan :=
    ⟨.of_clock (substDone_clock p o s), substDone_plan p o s⟩
  have hexpress (o : Nat) : SameTick s (expressRecord o (substDone p o s)) ∧
      (expressRecord o (substDone p o s)).nutas.plan = s.nutas.plan :=
    ⟨(hdone o).1.upd (expressRecord_clock _ _), by rw [expressRecord_nutas, (hdone o).2]⟩
  unfold endSubst
  cases ordOfPos p with
  | none => exact ⟨.refl s, rfl⟩
  | some o =>
    cases substOf s p with
    | none =>
      cases fails with
      | true => exact endSubst_lost p s
      | false =>
        exact ⟨(hdone o).1.upd (recordFault_clock _ _), (congrArg (·.plan) (recordFault_nutas _ _)).trans (hdone o).2⟩
    | some k =>
      cases fails with
      | true => exact substEnds_tick (endSubst_lost p s) _ _ _ _ _ _
      | false => exact substEnds_tick (hexpress o) _ _ _ _ _ _

theorem endSubsts_tick (spareFail : List RouterN) (tick : BitVec 48) (s : State) :
    SameTick s (endSubsts spareFail tick s) ∧ (endSubsts spareFail tick s).nutas.plan = s.nutas.plan :=
  ⟨.foldl _ ((SameTick.refl s).upd (by rfl)) fun u p hu => hu.trans (endSubst_tick _ tick p u).1,
    foldl_same (·.nutas.plan) (fun t p => (endSubst_tick _ tick p t).2) _ _⟩

theorem endSubsts_nil {s : State} (h : s.nutas.substs = []) (spareFail : List RouterN) (tick : BitVec 48) :
    (endSubsts spareFail tick s).clock = s.clock := by
  rw [endSubsts, h]
  rfl

/-- The last ck of the tick of a module without peers, and the count of its tick. -/
theorem keeps_lastCk_alone {s : State} (h : reachable s = []) :
    Keeps [.beads, .fabric, .clasps, .mem, .bezels, .ledger, .faults, .hub, .asy, .out] s (countTick (endCk s)) := by
  have hslots {ps : List Part} (hP : sub [.beads, .fabric, .clasps, .mem, .bezels, .ledger, .faults, .hub, .asy] ps = true) :
      Keeps ps s (clearSlots (countCk (claspCk s))) :=
    keeps_clearSlots (keeps_countCk (keeps_claspCk (Keeps.refl _ s) (sub_trans (by decide) hP)) (sub_trans (by decide) hP))
      (sub_trans (by decide) hP)
  have hports : endPauses (clearSlots (countCk (claspCk s))) = clearSlots (countCk (claspCk s)) := by
    apply endPauses_idle
    intro p hp
    rw [portOf_congr (chain_same (hslots (sub_refl _)) (by decide))]
    exact .inr (flows_of_alone h hp)
  rw [endCk, hports]
  exact keeps_countTick (keeps_hubTick (hslots (by decide)) (by decide)) (by decide)

theorem countLost_alone {s : State} (h : reachable s = []) : countLost s = s := by
  rw [countLost, h, List.foldl_nil]

/-- The tick closes: the next has the number after it, and only the ledger's configuration and the substitutions that ran
act on the clock and on Nutas. -/
theorem closeTick_alone {s : State} (h : reachable s = []) (spareFail : List RouterN) :
    ∃ v n, v.clock = s.clock ∧ v.nutas = s.nutas ∧ n = BitVec.ofNat 48 (s.clock.tick.toNat + 1) ∧
      closeTick spareFail s = (endSubsts spareFail n (inTick n takeDepth v), s.clock.tick.toNat + 1) := by
  have hck := keeps_lastCk_alone h
  have halone : reachable (countTick (endCk s)) = [] := by rw [reachable_congr (chain_same hck (by decide)), h]
  obtain ⟨hclock, hnew⟩ := alignTick_alone halone
  have hnutas := nutas_same (keeps_alignTick (Keeps.refl _ (countTick (endCk s))) (sub_refl _)) (by decide)
  refine ⟨(alignTick (countTick (endCk s))).1, _, hclock.trans (clock_same hck (by decide)),
    hnutas.trans (nutas_same hck (by decide)), rfl, ?_⟩
  simp only [closeTick, countLost_alone halone, hnew, Nat.max_zero]

theorem closeTick_new {s : State} (h : reachable s = []) (spareFail : List RouterN) :
    (closeTick spareFail s).2 = s.clock.tick.toNat + 1 := by
  obtain ⟨v, n, -, -, -, hclose⟩ := closeTick_alone h spareFail
  rw [hclose]

theorem closeTick_tick {s : State} (h : reachable s = []) (spareFail : List RouterN) :
    SameTick s (closeTick spareFail s).1 ∧ (closeTick spareFail s).1.nutas.plan = s.nutas.plan := by
  obtain ⟨v, n, hclock, hnutas, -, hclose⟩ := closeTick_alone h spareFail
  obtain ⟨hsame, hplan⟩ := endSubsts_tick spareFail n (inTick n takeDepth v)
  rw [hclose]
  refine ⟨SameTick.trans (.of_clock ((inTick_clock takeDepth_clock n v).trans hclock)) hsame, hplan.trans ?_⟩
  rw [inTick_nutas (·.plan) takeDepth_plan n v, hnutas]

theorem closeTick_clock {s : State} (h : reachable s = []) (hsubsts : s.nutas.substs = []) (spareFail : List RouterN) :
    (closeTick spareFail s).1.clock = s.clock := by
  obtain ⟨v, n, hclock, hnutas, -, hclose⟩ := closeTick_alone h spareFail
  have hnone : (inTick n takeDepth v).nutas.substs = [] := by
    rw [inTick_nutas (·.substs) takeDepth_substs n v, hnutas, hsubsts]
  rw [hclose]
  exact (endSubsts_nil hnone spareFail n).trans ((inTick_clock takeDepth_clock n v).trans hclock)

/-! ### The decision -/

/-- The overrun tick is noted for its replay. -/
def noteOverrun (ovr : Bool) (s : State) : State :=
  if ovr && !s.clock.hold && !s.clock.replay then modClock (fun c => { c with overrunTick := c.workTick }) s else s

theorem sameTick_decide1 (own : Bool × Nat × Nat) (peer : Bool) (s : State) :
    SameTick (noteOverrun (own.1 || peer) s) (decide1 own peer s) := by
  have hrecord : SameTick s (recordCheck own peer s) :=
    (SameTick.refl s).keeps (keeps_recordCheck own peer (Keeps.refl _ s) (sub_refl _)) (by decide)
  have hservice : SameTick s (noReplay (own.1 || peer) (recordCheck own peer s)) := .ite (hrecord.endService _) hrecord
  unfold noteOverrun decide1
  dsimp only
  split
  · exact { hservice with overrunTick := hservice.workTick }
  · exact hservice

/-- Nothing is decided where neither the module's own check nor a peer holds the next tick. -/
theorem decide1_passed {own : Bool × Nat × Nat} (h : own.1 = false) (s : State) : decide1 own false s = s := by
  simp [decide1, noReplay, recordCheck, h]

theorem SameTick.dropPlan {s t : State} (h : SameTick s t) (n : BitVec 48) (num st : Nat) :
    SameTick s (inTick n (Machine.complete num st 0 0) (Machine.clearPlan t)) :=
  h.clearPlan.upd (inTick_clock (fun u => complete_clock (s := u) num st 0 0) n _)

theorem sameTick_planDrop (new : Nat) (s : State) : SameTick s (planDrop new s) :=
  .ite ((SameTick.refl s).dropPlan _ _ _) (.ite ((SameTick.refl s).dropPlan _ _ _) (.refl s))

theorem planDrop_leaving (new : Nat) (s : State) : (planDrop new s).clock.leaving = s.clock.leaving := by
  have hdrop (n : BitVec 48) (num st : Nat) : (inTick n (complete num st 0 0) (clearPlan s)).clock.leaving = s.clock.leaving :=
    congrArg (·.leaving) (inTick_clock (fun u => complete_clock (s := u) num st 0 0) n (clearPlan s))
  unfold planDrop
  split
  · exact hdrop _ _ _
  · split
    · exact hdrop _ _ _
    · rfl

theorem planDrop_none {s : State} (h : s.nutas.plan.phase = .none) (new : Nat) : planDrop new s = s := by
  simp [planDrop, planLate, planUnaligned, h]

/-- Outside scheduled mode, and in a hold tick, no overrun is checked. -/
theorem ownCheck_passed {s : State} (h : s.clock.mode ≠ .scheduled ∨ s.clock.hold = true) : (ownCheck s).1 = false := by
  rw [ownCheck, if_pos (by simpa using h)]

theorem noteOverrun_mode (ovr : Bool) (s : State) :
    (noteOverrun ovr s).clock.mode = s.clock.mode ∧ (noteOverrun ovr s).clock.hold = s.clock.hold := by
  unfold noteOverrun
  split <;> exact ⟨rfl, rfl⟩

theorem noteOverrun_first {s : State} (hhold : s.clock.hold = false) (hreplay : s.clock.replay = false) :
    (noteOverrun true s).clock.overrunTick = s.clock.workTick := by
  rw [noteOverrun, if_pos (by simp [hhold, hreplay])]
  rfl

/-! ### What opens -/

theorem opens_idle {s : State} (hmode : s.clock.mode = .quiescent) (hquiet : s.clock.quiet = false)
    (hplan : s.nutas.plan.phase = .none) (ovr : Bool) (new : Nat) : opens s ovr new = .idle := by
  rw [opens, hmode, hquiet, hplan]
  simp

theorem opens_hold {s : State} (hmode : s.clock.mode = .scheduled) (hhold : s.clock.hold = false) (new : Nat) :
    opens s true new = .hold := by
  rw [opens, if_pos hmode, hhold]
  rfl

theorem opens_replay {s : State} (hmode : s.clock.mode = .scheduled) (hhold : s.clock.hold = true)
    (hleaving : s.clock.leaving = false) (new : Nat) : opens s false new = .replay := by
  rw [opens, if_pos hmode, hhold, hleaving]
  rfl

/-! ### The boundary in three parts: what is decided, the turn, and what follows it -/

/-- The state in which a boundary decides what opens. -/
def decided (spareFail : List RouterN) (s : State) : State :=
  planDrop (closeTick spareFail s).2 (decide1 (ownCheck s) (peerCheck s) (closeTick spareFail s).1)

/-- What a boundary opens. -/
def opened (spareFail : List RouterN) (s : State) : Opens :=
  opens (decided spareFail s) ((ownCheck s).1 || peerCheck s) (closeTick spareFail s).2

/-- The state after a boundary's turn. -/
def turned (spareFail : List RouterN) (s : State) : State :=
  turn (opened spareFail s) s.clock.tick.toNat (closeTick spareFail s).2
    (endingTick (opened spareFail s) (decided spareFail s))

/-- The state in which the power controller measures. -/
def beforePower (spareFail : List RouterN) (s : State) : State :=
  modNutas (fun n => { n with loadedNow := 0 }) (splitTurn (ownership (handoverTurn (closeTick spareFail s).2
    (retrainTurn (fabricOpens (turned spareFail s))))))

theorem boundary_eq (watts celsius : Nat) (vin : BitVec 10) (spareFail : List RouterN) (s : State) :
    boundary watts celsius vin spareFail s = powerTurn watts celsius vin (beforePower spareFail s) := rfl

section
variable {s : State} (spareFail : List RouterN)

theorem sameTick_decided (h : reachable s = []) :
    SameTick (noteOverrun (ownCheck s).1 (closeTick spareFail s).1) (decided spareFail s) := by
  have hdecide := sameTick_decide1 (ownCheck s) (peerCheck s) (closeTick spareFail s).1
  rw [peerCheck_alone h, Bool.or_false] at hdecide
  rw [decided, peerCheck_alone h]
  exact hdecide.trans (sameTick_planDrop _ _)

/-- A turn counts the tick up, starts its ck again, and enters the tick that opens. -/
theorem turned_enters (h : reachable s = []) :
    ∃ u, SameTick (modClock (fun c => { c with tick := s.clock.tick + 1, ck := 0 }) (decided spareFail s)) u ∧
      SameTick (enterTick (opened spareFail s) (s.clock.tick + 1) u) (turned spareFail s) := by
  have hnew : BitVec.ofNat 48 (closeTick spareFail s).2 = s.clock.tick + 1 := by
    rw [closeTick_new h, BitVec.ofNat_add, BitVec.ofNat_toNat, BitVec.setWidth_eq]
    rfl
  have hending : (endingTick (opened spareFail s) (decided spareFail s)).clock = (decided spareFail s).clock :=
    clock_same (keeps_endingTick _ (Keeps.refl _ _) (sub_refl _)) (by decide)
  have hswapped := sameTick_swapped (opened spareFail s) s.clock.tick.toNat (closeTick spareFail s).2
    (endingTick (opened spareFail s) (decided spareFail s))
  have hturn := sameTick_turn (opened spareFail s) s.clock.tick.toNat (closeTick spareFail s).2
    (endingTick (opened spareFail s) (decided spareFail s))
  rw [hnew] at hswapped hturn
  refine ⟨_, SameTick.trans (.of_clock ?_) hswapped, hturn⟩
  rw [modClock_clock, modClock_clock, hending]

theorem turned_tick (h : reachable s = []) :
    (turned spareFail s).clock.tick = s.clock.tick + 1 ∧ (turned spareFail s).clock.ck = 0 := by
  obtain ⟨u, hstart, henter⟩ := turned_enters spareFail h
  obtain ⟨htick, hck⟩ := enterTick_tick (opened spareFail s) (s.clock.tick + 1) u
  exact ⟨(henter.tick.trans htick).trans hstart.tick, (henter.ck.trans hck).trans hstart.ck⟩

/-- Quiescent, with no plan: the tick that opens is quiescent as well. -/
theorem turned_quiescent (h : reachable s = []) (hmode : s.clock.mode = .quiescent) (hquiet : s.clock.quiet = false)
    (hplan : s.nutas.plan.phase = .none) :
    (turned spareFail s).clock.mode = .quiescent ∧ (turned spareFail s).clock.fabricOk = s.clock.fabricOk := by
  obtain ⟨hclose, hclosePlan⟩ := closeTick_tick h spareFail
  have hown := ownCheck_passed (.inl (by rw [hmode]; decide))
  have hdecided : decided spareFail s = (closeTick spareFail s).1 := by
    rw [decided, peerCheck_alone h, decide1_passed hown, planDrop_none]
    rw [hclosePlan, hplan]
  have hidle : opened spareFail s = .idle := by
    rw [opened, hdecided]
    exact opens_idle (hclose.mode.trans hmode) (hclose.quiet hquiet) (by rw [hclosePlan, hplan]) _ _
  obtain ⟨u, hstart, henter⟩ := turned_enters spareFail h
  rw [hidle] at henter
  have hmode' : (turned spareFail s).clock.mode = (decided spareFail s).clock.mode := henter.mode.trans hstart.mode
  have hok : (turned spareFail s).clock.fabricOk = (decided spareFail s).clock.fabricOk :=
    henter.fabricOk.trans hstart.fabricOk
  exact ⟨by rw [hmode', hdecided, hclose.mode, hmode], by rw [hok, hdecided, hclose.fabricOk]⟩

/-- A scheduled tick with an overrun: the next is a hold tick, and a first overrun is noted for its replay. -/
theorem turned_overrun (h : reachable s = []) (hmode : s.clock.mode = .scheduled) (hhold : s.clock.hold = false)
    (hown : (ownCheck s).1 = true) :
    (turned spareFail s).clock.mode = .scheduled ∧ (turned spareFail s).clock.hold = true ∧
      (turned spareFail s).clock.replay = false ∧
      (s.clock.replay = false → (turned spareFail s).clock.overrunTick = s.clock.workTick) := by
  obtain ⟨hclose, -⟩ := closeTick_tick h spareFail
  obtain ⟨hnoteMode, hnoteHold⟩ := noteOverrun_mode (ownCheck s).1 (closeTick spareFail s).1
  have hdecided := sameTick_decided spareFail h
  have hmode' : (decided spareFail s).clock.mode = .scheduled := by
    rw [hdecided.mode, hnoteMode, hclose.mode, hmode]
  have hhold' : (decided spareFail s).clock.hold = false := by
    rw [hdecided.hold, hnoteHold, hclose.hold, hhold]
  have hopens : opened spareFail s = .hold := by
    rw [opened, hown, Bool.true_or]
    exact opens_hold hmode' hhold' _
  obtain ⟨u, hstart, henter⟩ := turned_enters spareFail h
  rw [hopens] at henter
  refine ⟨(henter.mode.trans hstart.mode).trans hmode', henter.hold, henter.replay, fun hreplay => ?_⟩
  calc (turned spareFail s).clock.overrunTick
      = (decided spareFail s).clock.overrunTick := henter.overrunTick.trans hstart.overrunTick
    _ = (noteOverrun true (closeTick spareFail s).1).clock.overrunTick := by rw [hdecided.overrunTick, hown]
    _ = s.clock.workTick := by
      rw [noteOverrun_first (hclose.hold.trans hhold) (hclose.replay.trans hreplay), hclose.workTick]

/-- A hold tick whose service goes on and in which no substitution runs: the next replays the overrun tick. -/
theorem turned_held (h : reachable s = []) (hmode : s.clock.mode = .scheduled) (hhold : s.clock.hold = true)
    (hleaving : s.clock.leaving = false) (hsubsts : s.nutas.substs = []) :
    (turned spareFail s).clock.mode = .scheduled ∧ (turned spareFail s).clock.hold = false ∧
      (turned spareFail s).clock.replay = true ∧ (turned spareFail s).clock.workTick = s.clock.overrunTick := by
  have hclose := closeTick_clock h hsubsts spareFail
  have hown := ownCheck_passed (.inr hhold)
  have hpassed : decided spareFail s = planDrop (closeTick spareFail s).2 (closeTick spareFail s).1 := by
    rw [decided, peerCheck_alone h, decide1_passed hown]
  have hdecided : SameTick s (decided spareFail s) := by
    rw [hpassed]
    exact (SameTick.of_clock hclose).trans (sameTick_planDrop _ _)
  have hopens : opened spareFail s = .replay := by
    rw [opened, hown, peerCheck_alone h]
    refine opens_replay (hdecided.mode.trans hmode) (hdecided.hold.trans hhold) ?_ _
    rw [hpassed, planDrop_leaving, hclose, hleaving]
  obtain ⟨u, hstart, henter⟩ := turned_enters spareFail h
  rw [hopens] at henter
  exact ⟨((henter.mode.trans hstart.mode).trans hdecided.mode).trans hmode, henter.hold, henter.replay,
    (henter.workTick.trans hstart.overrunTick).trans hdecided.overrunTick⟩

theorem turned_mainUp : (turned spareFail s).standby.mainUp = s.standby.mainUp := by
  have hturn : Keeps [.clock, .beads, .mmu, .fabric, .clasps, .mem, .bezels, .chain, .mbxs, .nutas, .ledger, .commit,
      .faults, .hub, .asy, .mgmt, .out, .free] s (turned spareFail s) :=
    keeps_turn _ _ _ (keeps_endingTick _ (keeps_planDrop _ (keeps_decide1 _ _ (keeps_closeTick _ (Keeps.refl _ s)
      (by decide)) (by decide)) (by decide)) (by decide)) (by decide)
  rw [standby_same hturn (by decide)]

end

/-! ### What follows the turn -/

theorem recordReturned_standby (s : State) : (recordReturned s).standby = s.standby := recordAddr_standby _ _ _ _ _

theorem ownership_mainUp (s : State) : (ownership s).standby.mainUp = s.standby.mainUp := by
  have hreturn {t : State} (ht : t.standby.mainUp = s.standby.mainUp) :
      (if t.standby.release && t.standby.owner then
        recordReturned (modStandby (fun b => { b with owner := false, release := false }) t)
      else modStandby (fun b => { b with release := false }) t).standby.mainUp = s.standby.mainUp := by
    split
    · rw [recordReturned_standby]
      exact ht
    · exact ht
  unfold ownership
  refine hreturn ?_
  split
  · rfl
  · split
    · rw [answerTake_standby]
      rfl
    · rfl

theorem handoverFails_mainUp (k : Nat) (s : State) : (handoverFails k s).standby.mainUp = s.standby.mainUp := by
  have hempty (b : Standby) : (emptyOther b).mainUp = b.mainUp := by
    unfold emptyOther
    split <;> rfl
  have hcomplete (t : State) : (complete k stNoStaged 0 0 t).standby = t.standby :=
    standby_same (keeps_complete _ _ _ _ (Keeps.refl _ t) (sub_refl _)) (by decide)
  simp only [handoverFails, hcomplete, modStandby_standby, hempty, modNutas_standby, drawn_standby, recordFault_standby]

theorem handoverTurn_mainUp (new : Nat) (s : State) : (handoverTurn new s).standby.mainUp = s.standby.mainUp := by
  unfold handoverTurn
  split
  · rfl
  · exact handoverFails_mainUp _ s
  · exact handoverFails_mainUp _ s
  · split <;> rfl
  · rfl

theorem splitTurn_standby (s : State) : (splitTurn s).standby = s.standby :=
  standby_same (keeps_splitTurn (Keeps.refl _ s) (sub_refl _)) (by decide)

theorem retrainTurn_standby (s : State) : (retrainTurn s).standby = s.standby := rfl

theorem beforePower_mainUp (spareFail : List RouterN) (s : State) :
    (beforePower spareFail s).standby.mainUp = s.standby.mainUp := by
  have hfabric (t : State) : (fabricOpens t).standby = t.standby :=
    standby_same (keeps_fabricOpens (Keeps.refl _ t) (sub_refl _)) (by decide)
  calc (beforePower spareFail s).standby.mainUp
      = (fabricOpens (turned spareFail s)).standby.mainUp := by
        rw [beforePower, modNutas_standby, splitTurn_standby, ownership_mainUp, handoverTurn_mainUp,
          retrainTurn_standby]
    _ = s.standby.mainUp := by rw [hfabric, turned_mainUp]

/-- Behind the turn only the fabric's opening changes the clock, up to the power controller. -/
theorem beforePower_clock (spareFail : List RouterN) (s : State) :
    (beforePower spareFail s).clock = (fabricOpens (turned spareFail s)).clock := by
  have hafter : Keeps [.bezels, .mem, .mbxs, .nutas, .ledger, .faults, .standby, .mgmt, .out, .free]
      (fabricOpens (turned spareFail s)) (beforePower spareFail s) :=
    keeps_modNutas _ (keeps_splitTurn (keeps_ownership (keeps_handoverTurn _ (keeps_retrainTurn (Keeps.refl _ _)
      (by decide)) (by decide)) (by decide)) (by decide)) (by decide)
  exact clock_same hafter (by decide)

/-- What the power controller takes from its readings. -/
theorem measure_power (watts celsius : Nat) (vin : BitVec 10) (s : State) :
    (Machine.measure watts celsius vin s).power.ptick = BitVec.ofNat 12 (min 4095 watts) ∧
      (Machine.measure watts celsius vin s).power.tjmax = BitVec.ofNat 8 (min 255 celsius) ∧
      (Machine.measure watts celsius vin s).power.vin = vin ∧
      (Machine.measure watts celsius vin s).power.tjRun = (if 110 ≤ celsius then s.power.tjRun + 1 else 0) ∧
      (Machine.measure watts celsius vin s).power.ptRun = if 4000 < watts then s.power.ptRun + 1 else 0 := by
  have hservice (c : Bool) (u : State) : (if c then endService 0 u else u).power = u.power := by
    cases c with
    | true => exact endService_power u 0
    | false => rfl
  exact ⟨congrArg (·.ptick) (hservice _ _), congrArg (·.tjmax) (hservice _ _), congrArg (·.vin) (hservice _ _),
    congrArg (·.tjRun) (hservice _ _), congrArg (·.ptRun) (hservice _ _)⟩

theorem sameTick_measure (watts celsius : Nat) (vin : BitVec 10) (s : State) :
    SameTick s (Machine.measure watts celsius vin s) :=
  .ite (SameTick.endService ((SameTick.refl s).upd (by rfl)) _) ((SameTick.refl s).upd (by rfl))

theorem measure_standby (watts celsius : Nat) (vin : BitVec 10) (s : State) :
    (Machine.measure watts celsius vin s).standby = s.standby :=
  standby_same (keeps_measure _ _ _ (Keeps.refl _ s) (sub_refl _)) (by decide)

theorem powerTurn_cool {watts celsius : Nat} (hw : watts ≤ 4000) (hc : celsius < 110) (vin : BitVec 10) (s : State) :
    powerTurn watts celsius vin s = Machine.measure watts celsius vin s := by
  obtain ⟨-, -, -, htj, hpt⟩ := measure_power watts celsius vin s
  rw [if_neg (by omega)] at htj hpt
  unfold powerTurn
  dsimp only
  rw [if_neg (by omega)]

theorem fabricOpens_scheduled {s : State} (h : s.clock.mode = .scheduled) : fabricOpens s = s := by
  simp [fabricOpens, h]

theorem fabricOpens_quiescent {s : State} (h : s.clock.mode = .quiescent) :
    (fabricOpens s).clock.mode = if s.clock.fabricOk = true then .arbitrated else .quiescent := by
  simp only [fabricOpens, h, true_and]
  split
  · rfl
  · exact h

theorem fabricOpens_tick (s : State) :
    (fabricOpens s).clock.tick = s.clock.tick ∧ (fabricOpens s).clock.ck = s.clock.ck := by
  unfold fabricOpens
  split <;> exact ⟨rfl, rfl⟩

/-- Settles O12: the turn counts the tick and enters what opens, and what follows it changes the clock only where the fabric
opens, before the controller measures. -/
theorem tickBoundaryTurnsTheTick : Obligations.TickBoundaryTurnsTheTick := by
  unfold Obligations.TickBoundaryTurnsTheTick
  intro s watts celsius vin spareFail hup hck halone hw hc
  have hexec : exec (.tickBoundary watts celsius vin spareFail) s = .next (boundary watts celsius vin spareFail s) :=
    whenOk_of s (by simp [mainUp, hup, hck]) _
  refine completes_of_exec hexec ?_
  rw [boundary_eq, powerTurn_cool hw hc]
  obtain ⟨hptick, htjmax, hvin, -, -⟩ := measure_power watts celsius vin (beforePower spareFail s)
  obtain ⟨htick, hck0⟩ := turned_tick spareFail halone
  obtain ⟨hfabricTick, hfabricCk⟩ := fabricOpens_tick (turned spareFail s)
  have hafter : SameTick (fabricOpens (turned spareFail s))
      (Machine.measure watts celsius vin (beforePower spareFail s)) :=
    (SameTick.of_clock (beforePower_clock spareFail s)).trans (sameTick_measure watts celsius vin _)
  refine ⟨by rw [hafter.ck, hfabricCk, hck0], by rw [hafter.tick, hfabricTick, htick],
    by rw [hptick, Nat.min_eq_right (by omega)], by rw [htjmax, Nat.min_eq_right (by omega)], hvin,
    by rw [measure_standby, beforePower_mainUp, hup], fun hmode hquiet hplan => ?quiescent,
    fun hmode hhold hown => ?overrun, fun hmode hhold hleaving hsubsts _ => ?held⟩
  case quiescent =>
    obtain ⟨hturned, hok⟩ := turned_quiescent spareFail halone hmode hquiet hplan
    rw [hafter.mode, fabricOpens_quiescent hturned, hok]
  case overrun =>
    obtain ⟨hturned, hheld, hreplay, hnoted⟩ := turned_overrun spareFail halone hmode hhold hown
    rw [fabricOpens_scheduled hturned] at hafter
    exact ⟨hafter.mode.trans hturned, hafter.hold.trans hheld, hafter.replay.trans hreplay,
      fun hfirst => hafter.overrunTick.trans (hnoted hfirst)⟩
  case held =>
    obtain ⟨hturned, hheld, hreplay, hwork⟩ := turned_held spareFail halone hmode hhold hleaving hsubsts
    rw [fabricOpens_scheduled hturned] at hafter
    exact ⟨hafter.mode.trans hturned, hafter.hold.trans hheld, hafter.replay.trans hreplay, hafter.workTick.trans hwork⟩

end Sys2Proof.Proofs
end

section
/-! Proofs for chapter 2: what the harts of a bead do, and what becomes of its queue entries and requests. -/

namespace Sys2Proof.Proofs

open Sys2Proof Sys2Proof.Machine Sys2Proof.Laws

/-! ### Beads and counters -/

section
variable {s t u : State} {o : Nat}

theorem otherBeads_trans (h : OtherBeads o s t) (g : OtherBeads o t u) : OtherBeads o s u := fun o' n =>
  (g o' n).trans (h o' n)

theorem otherBeads_of_beads (h : t.beads = s.beads) : OtherBeads o s t := fun o' _ => beadOf_congr h o'

theorem otherBeads_modBead (o : Nat) (f : Bead → Bead) (s : State) : OtherBeads o s (modBead o f s) := fun _ n =>
  beadOf_modBead_other s f n

theorem otherBeads_setBead (o : Nat) (b : Bead) (s : State) : OtherBeads o s (setBead o b s) := fun _ n =>
  beadOf_setBead_other s b n

/-- Of the assayer only the values of the counters differ. -/
def CountsOnly (s t : State) : Prop := t.asy = { s.asy with vals := t.asy.vals }

theorem CountsOnly.of_asy (h : t.asy = s.asy) : CountsOnly s t := by
  rw [CountsOnly, h]

theorem CountsOnly.trans (h : CountsOnly s t) (g : CountsOnly t u) : CountsOnly s u := by
  rw [CountsOnly] at h g ⊢
  rw [g, h]

theorem countsOnly_countEv (blk code n : Nat) (s : State) : CountsOnly s (countEv blk code n s) := by
  unfold countEv
  split <;> rfl

end

/-! ### A hart's instruction, retired, trapped or held -/

section
variable (s : State) (o : Ord) (h : HartN)

theorem retire_bead (f : Hart → Hart) :
    beadOf (retire o h f s) o.val = modHart h.val f (noteIssue s o.val h (beadOf s o.val)) := by
  rw [retire, beadOf_congr (countEv_beads _ _ _ _), beadOf_modBead]

theorem hartOf_noteIssue (b : Bead) (k : Nat) : hartOf (noteIssue s o.val h b) k = hartOf b k := rfl

theorem trapAt_bead (cause : Nat) (tval : Word) : beadOf (trapAt o h cause tval s) o.val =
    { modHart h.val (takeTrap false cause tval) (beadOf s o.val) with rr := h, issueCk := absCk s + 1 } := by
  rw [trapAt, beadOf_modBead]

end

section
variable {s s1 : State} {o : Ord} {h : HartN}

/-- An instruction that retires behind a change of its bead, to `b` but for its hart. -/
theorem beadIs_retire {b : Bead} (f : Hart → Hart) (hother : OtherBeads o.val s s1)
    (hbead : beadOf s1 o.val = { b with harts := (beadOf s1 o.val).harts })
    (hharts : ∀ k, k ≠ h.val → hartOf (beadOf s1 o.val) k = hartOf (beadOf s o.val) k) (hcounts : CountsOnly s s1) :
    BeadIs b o.val h.val s (retire o h f s1) := by
  refine ⟨fun o' n => (retire_other s1 h f n).trans (hother o' n), fun k n => ?_, ?_,
    hcounts.trans (countsOnly_countEv _ _ _ _)⟩
  · rw [retire_bead, hartOf_modHart_other _ _ n, hartOf_noteIssue, hharts k n]
  · rw [retire_bead, hbead]
    rfl

theorem hartOnly_retire (f : Hart → Hart) (hbeads : s1.beads = s.beads) (hcounts : CountsOnly s s1) :
    HartOnly o.val h.val s (retire o h f s1) :=
  beadIs_retire f (otherBeads_of_beads hbeads) (by rw [beadOf_congr hbeads])
    (fun k _ => by rw [beadOf_congr hbeads]) hcounts

theorem hartOnly_trapAt (cause : Nat) (tval : Word) (hbeads : s1.beads = s.beads) (hcounts : CountsOnly s s1) :
    HartOnly o.val h.val s (trapAt o h cause tval s1) := by
  have hb := beadOf_congr hbeads
  refine ⟨fun o' n => (beadOf_modBead_other s1 _ n).trans (hb o'), fun k n => ?_, ?_, hcounts.trans (.of_asy rfl)⟩
  · rw [trapAt_bead, hb]
    exact hartOf_modHart_other _ _ n
  · rw [trapAt_bead, hb]
    rfl

theorem trapAt_hart (cause : Nat) (tval : Word) (s : State) : hartOf (beadOf (trapAt o h cause tval s) o.val) h.val =
    takeTrap false cause tval (hartOf (beadOf s o.val) h.val) := by
  rw [trapAt_bead]
  exact hartOf_modHart _ _ _

theorem hartGoes_retire (f : Hart → Hart) (hbeads : s1.beads = s.beads) (hmem : s1.mem = s.mem)
    (hbezels : s1.bezels = s.bezels) (hcounts : CountsOnly s s1) :
    HartGoes o h (f (hartOf (beadOf s o.val) h.val)) s (retire o h f s1) :=
  ⟨hartOnly_retire f hbeads hcounts, hmem, hbezels, by rw [retire_hart, beadOf_congr hbeads]⟩

theorem hartGoes_trapAt (cause : Nat) (tval : Word) (hbeads : s1.beads = s.beads) (hmem : s1.mem = s.mem)
    (hbezels : s1.bezels = s.bezels) (hcounts : CountsOnly s s1) :
    HartGoes o h (takeTrap false cause tval (hartOf (beadOf s o.val) h.val)) s (trapAt o h cause tval s1) :=
  ⟨hartOnly_trapAt cause tval hbeads hcounts, hmem, hbezels, by rw [trapAt_hart, beadOf_congr hbeads]⟩

/-- An instruction that does nothing beside its hart. -/
theorem hartGoes_retire_here (f : Hart → Hart) (s : State) :
    HartGoes o h (f (hartOf (beadOf s o.val) h.val)) s (retire o h f s) :=
  hartGoes_retire f rfl rfl rfl (.of_asy rfl)

theorem hartGoes_trapAt_here (cause : Nat) (tval : Word) (s : State) :
    HartGoes o h (takeTrap false cause tval (hartOf (beadOf s o.val) h.val)) s (trapAt o h cause tval s) :=
  hartGoes_trapAt cause tval rfl rfl rfl (.of_asy rfl)

end

/-! ### Bits of numbers -/

theorem bitOf_toNat {w : Nat} (v : BitVec w) (i : Nat) : bitOf v.toNat i = v.getLsbD i := by
  rw [bitOf, BitVec.getLsbD, Nat.testBit_eq_decide_div_mod_eq]
  rfl

/-! ### Scalar instructions -/

section
variable {s : State} {o : Ord} {h : HartN} {f : Fetched}

theorem completes_scalar_hart (hf : fetched s o.val h.val = some f) {t' : Hart}
    (hdo : scalarDo (beadOf s o.val) h f = .hart t') :
    Completes (.scalarInstruction o h) s (HartGoes o h t' s) := by
  have hexec : exec (.scalarInstruction o h) s = .next (retire o h (fun _ => t') s) := by
    change execScalarInstruction o h s = _
    simp only [execScalarInstruction, hf, hdo]
  exact completes_of_exec hexec (hartGoes_retire_here (fun _ => t') s)

theorem completes_scalar_trap (hf : fetched s o.val h.val = some f) {cause : Nat} {tval : Word}
    (hdo : scalarDo (beadOf s o.val) h f = .trap cause tval) :
    Completes (.scalarInstruction o h) s (HartGoes o h (takeTrap false cause tval (hartOf (beadOf s o.val) h.val)) s) := by
  have hexec : exec (.scalarInstruction o h) s = .next (trapAt o h cause tval s) := by
    change execScalarInstruction o h s = _
    simp only [execScalarInstruction, hf, hdo]
  exact completes_of_exec hexec (hartGoes_trapAt_here cause tval s)

end

theorem completes_mono {c : Instr} {s : State} {p q : State → Prop} (h : Completes c s p) (hpq : ∀ t, p t → q t) :
    Completes c s q := by
  obtain ⟨t, hexec, honly, hp⟩ := h
  exact ⟨t, hexec, honly, hpq t hp⟩

/-- What a trap that is no interrupt leaves in the hart (R46). -/
theorem takeTrap_regs (cause : Nat) (tval : Word) (t : Hart) :
    (takeTrap false cause tval t).mcause = BitVec.ofNat 64 cause ∧ (takeTrap false cause tval t).mtval = tval ∧
      (takeTrap false cause tval t).mepc = t.pc ∧ (takeTrap false cause tval t).pc = t.mtvec &&& ~~~ (3#64) ∧
      (takeTrap false cause tval t).userMode = false ∧ (takeTrap false cause tval t).x = t.x ∧
      (takeTrap false cause tval t).mstatus.getLsbD 3 = false ∧
      (takeTrap false cause tval t).mstatus.getLsbD 7 = t.mstatus.getLsbD 3 := by
  refine ⟨rfl, rfl, rfl, ?_, rfl, rfl, ?_, ?_⟩
  · simp [takeTrap]
  · simp only [takeTrap, BitVec.getLsbD_or]
    split <;> split <;> decide
  · simp only [takeTrap, BitVec.getLsbD_or, mieBit, bitOf_toNat]
    split <;> split <;> simp_all

theorem trapReturn_regs (t : Hart) :
    (trapReturn t).pc = t.mepc ∧ ((trapReturn t).userMode = false ↔ t.mstatus.toNat / 2048 % 4 = 3) ∧
      (trapReturn t).x = t.x ∧ (trapReturn t).mepc = t.mepc ∧
      (trapReturn t).mstatus.getLsbD 3 = t.mstatus.getLsbD 7 ∧ (trapReturn t).mstatus.getLsbD 7 = true := by
  refine ⟨rfl, ?_, rfl, rfl, ?_, ?_⟩
  · exact decide_eq_false_iff_not.trans not_not
  · simp only [trapReturn, BitVec.getLsbD_or, bitOf_toNat]
    split <;> simp_all
  · simp only [trapReturn, BitVec.getLsbD_or]
    split <;> decide

/-- Settles O26: `scalarDo` says what each of these instructions does to its hart, and a hart that retires or traps changes
nothing else. -/
theorem scalarInstructionsActOnTheirHart : Obligations.ScalarInstructionsActOnTheirHart := by
  unfold Obligations.ScalarInstructionsActOnTheirHart
  intro s o h f hf hlen
  have hgoes {t' : Hart} (hdo : scalarDo (beadOf s o.val) h f = .hart t') :
      Completes (.scalarInstruction o h) s fun u => HartOnly o.val h.val s u ∧ hartOf (beadOf u o.val) h.val = t' :=
    completes_mono (completes_scalar_hart hf hdo) fun u ⟨honly, _, _, hhart⟩ => ⟨honly, hhart⟩
  refine ⟨fun rd rs1 rs2 hi => hgoes ?_, fun rd rs1 imm hi => hgoes ?_, fun rd imm hi => hgoes ?_,
    fun rs1 rs2 imm hi => hgoes ?_, fun t' hdo => hgoes hdo, fun hi hmode => ?mret, fun hi => ?trap⟩
  · simp [scalarDo, hlen, hi, aluOp]
  · simp [scalarDo, hlen, hi, aluOp]
  · simp [scalarDo, hlen, hi]
  · simp [scalarDo, hlen, hi, branchTaken]
  case mret =>
    have hdo : scalarDo (beadOf s o.val) h f = .hart { trapReturn (hartOf (beadOf s o.val) h.val) with hold := .none } := by
      simp [scalarDo, hlen, hi, hmode]
    refine completes_mono (hgoes hdo) fun u ⟨honly, hhart⟩ => ⟨honly, ?_⟩
    rw [hhart]
    exact trapReturn_regs _
  case trap =>
    obtain ⟨cause, tval, hdo, hcause, htval⟩ : ∃ cause tval, scalarDo (beadOf s o.val) h f = .trap cause tval ∧
        BitVec.ofNat 64 cause = (if f.insn = .ecall then if (hartOf (beadOf s o.val) h.val).userMode = true then 8 else 11
          else 2) ∧ tval = if f.insn = .ecall then 0 else f.word.setWidth 64 := by
      rcases hi with hi | hi | ⟨hi, hmode⟩
      · refine ⟨_, _, by simp only [scalarDo, hlen, hi, if_false]; rfl, ?_, by rw [if_pos hi]⟩
        rw [if_pos hi]
        split <;> rfl
      · exact ⟨2, f.word.setWidth 64, by simp [scalarDo, hlen, hi], by simp [hi], by simp [hi]⟩
      · exact ⟨2, f.word.setWidth 64, by simp [scalarDo, hlen, hi, hmode], by simp [hi], by simp [hi]⟩
    refine completes_mono (completes_scalar_trap hf hdo) fun u ⟨honly, _, _, hhart⟩ => ⟨honly, ?_⟩
    obtain ⟨hc, hv, hregs⟩ := takeTrap_regs cause tval (hartOf (beadOf s o.val) h.val)
    rw [hhart]
    exact ⟨hc.trans hcause, hv.trans htval, hregs⟩

end Sys2Proof.Proofs
end

section
/-! Proofs for chapter 2: waits, fences, CSR writes and the queue-fault interrupt. -/

namespace Sys2Proof.Proofs

open Sys2Proof Sys2Proof.Machine Sys2Proof.Laws

/-! ### What a fetch gives -/

/-- A fetch decodes a half word to 2 bytes of instruction, or a word to 4. -/
theorem fetchAt_decodes {b : IBank} {pc : Nat} {f : Fetched} (h : fetchAt b pc = some f) :
    (∃ n, (f.insn = decodeC0 n ∨ f.insn = decodeC1 n ∨ f.insn = decodeC2 n) ∧ f.len = 2) ∨
      ∃ n, f.insn = decode32 n ∧ f.len = 4 := by
  unfold fetchAt at h
  dsimp only at h
  split at h
  · cases h
  · split at h
    · cases h
      exact .inl ⟨_, .inl rfl, rfl⟩
    · cases h
      exact .inl ⟨_, .inr (.inl rfl), rfl⟩
    · cases h
      exact .inl ⟨_, .inr (.inr rfl), rfl⟩
    · split at h
      · cases h
      · cases h
        exact .inr ⟨_, rfl, rfl⟩

theorem fetchAt_len {b : IBank} {pc : Nat} {f : Fetched} (h : fetchAt b pc = some f) : f.len ≠ 0 := by
  rcases fetchAt_decodes h with ⟨_, _, hlen⟩ | ⟨_, _, hlen⟩ <;> omega

/-- A hart that can issue has an instruction from its bank, or has run past it. -/
theorem fetched_at {s : State} {o h : Nat} {f : Fetched} (hf : fetched s o h = some f) (hi : f.insn ≠ .illegal) :
    fetchAt (beadOf s o).active (hartOf (beadOf s o) h).pc.toNat = some f := by
  unfold fetched at hf
  dsimp only at hf
  split at hf
  · split at hf
    · rename_i g hg
      rw [hg, hf]
    · cases hf
      exact absurd rfl hi
  · cases hf

/-! ### Fences -/

section
variable {s : State} {o : Ord} {h : HartN} {f : Fetched}

/-- A fence goes on where it waits for no store or none is out, and is held elsewhere (R62). -/
theorem hartGoes_fenceDo {len : Nat} {waits : Bool} (hgo : waits = false ∨ (hartOf (beadOf s o.val) h.val).stores = 0) :
    HartGoes o h (advance len (hartOf (beadOf s o.val) h.val)) s (fenceDo o h len waits s) := by
  have hdo : fenceDo o h len waits s = retire o h (advance len) s := by
    rcases hgo with hgo | hgo <;> simp [fenceDo, hgo]
  rw [hdo]
  exact hartGoes_retire_here _ s

theorem heldBy_fenceDo {len : Nat} (hout : (hartOf (beadOf s o.val) h.val).stores ≠ 0) :
    HeldBy o h .fence s (fenceDo o h len true s) := by
  rw [HeldBy, fenceDo, if_pos (by simp [hout])]
  rfl

theorem completes_fence (hf : fetched s o.val h.val = some f) {pred : Nat} (hi : f.insn = .fence pred) {p : State → Prop}
    (hp : p (fenceDo o h f.len (decide (pred % 2 = 1)) s)) : Completes (.fence o h) s p := by
  refine completes_of_exec ?_ hp
  obtain ⟨insn, word, len⟩ := f
  cases hi
  have hbit : bitOf pred 0 = decide (pred % 2 = 1) := by
    rw [bitOf, Nat.pow_zero, Nat.div_one]
    rfl
  change execFence o h s = _
  simp only [execFence, hf, hbit]

theorem completes_fenceI (hf : fetched s o.val h.val = some f) (hi : f.insn = .fenceI) {p : State → Prop}
    (hp : p (fenceDo o h f.len true s)) : Completes (.fenceI o h) s p := by
  refine completes_of_exec ?_ hp
  obtain ⟨insn, word, len⟩ := f
  cases hi
  change execFenceI o h s = _
  simp only [execFenceI, hf]

theorem completes_wfi (hf : fetched s o.val h.val = some f) (hi : f.insn = .wfi) {run : Run}
    (hrun : (if (qfip (beadOf s o.val) && (hartOf (beadOf s o.val) h.val).qfie) = true then Run.running else .wfi) = run) :
    Completes (.wfi o h) s (HartGoes o h { advance f.len (hartOf (beadOf s o.val) h.val) with run := run } s) := by
  obtain ⟨insn, word, len⟩ := f
  cases hi
  have hexec : exec (.wfi o h) s = .next (retire o h (fun t => { advance len t with run := run }) s) := by
    change execWfi o h s = _
    simp only [execWfi, hf, hrun]
  exact completes_of_exec hexec (hartGoes_retire_here (fun t => { advance len t with run := run }) s)

/-! ### CSR accesses -/

theorem completes_csrWrite (hf : fetched s o.val h.val = some f) {f3 num : Nat} {rd rs1 : Fin 32} {u : CsrUse}
    (hi : f.insn = .csr f3 rd rs1 num) (huse : csrUse s o h f3 rd rs1 num = some u) (hrow : csrRow u = .xmacel)
    {p : State → Prop} (hp : p (csrDo o h f.len u s)) : Completes (.csrWrite o h) s p := by
  refine completes_of_exec ?_ hp
  change execCsrWrite o h s = _
  obtain ⟨insn, word, len⟩ := f
  cases hi
  simp only [execCsrWrite, hf, huse, hrow]
  rfl

/-- CSRRW of a register that the hart's mode may write (R140). -/
theorem csrUse_write {rd rs1 : Fin 32} {num : Nat} {old : Word} (hread : csrRead s o h num = some old)
    (hmode : (hartOf (beadOf s o.val) h.val).userMode = false ∨ bitsOf num 8 2 = 0) (hwrite : bitsOf num 10 2 ≠ 3) :
    csrUse s o h 1 rd rs1 num = some ⟨num, true, old, xReg (hartOf (beadOf s o.val) h.val) rs1, rd⟩ := by
  rcases hmode with hmode | hmode <;> simp [csrUse, hread, hmode, hwrite]

/-- A write of one of the hart's own CSRs: the register, then rd with the old value. -/
theorem hartGoes_csrDo {num : Nat} (hnum : num ≠ 0x7C0) (len : Nat) (old new : Word) (rd : Fin 32) :
    HartGoes o h (advance len (setX rd old (csrWriteHart num new (hartOf (beadOf s o.val) h.val)))) s
      (csrDo o h len ⟨num, true, old, new, rd⟩ s) := by
  have hwrite : csrDo o h len ⟨num, true, old, new, rd⟩ s = retire o h (fun t => advance len (setX rd old t))
      (modBead o.val (modHart h.val (csrWriteHart num new)) s) := by
    have hbead : csrWriteBead h num new = modHart h.val (csrWriteHart num new) :=
      funext fun _ => by rw [csrWriteBead, if_neg hnum]
    simp only [csrDo, hbead, if_true]
  rw [hwrite]
  refine ⟨beadIs_retire _ (otherBeads_modBead _ _ s) (by rw [beadOf_modBead]; rfl) (fun k n => ?_) (.of_asy rfl), rfl, rfl, ?_⟩
  · rw [beadOf_modBead, hartOf_modHart_other _ _ n]
  · rw [retire_hart, beadOf_modBead, hartOf_modHart]

/-- A write of XFSEL, which is the bead's. -/
theorem beadIs_csrDo_xfsel (len : Nat) (old new : Word) (rd : Fin 32) :
    BeadIs { beadOf s o.val with xfsel := new.setWidth 2 } o.val h.val s (csrDo o h len ⟨0x7C0, true, old, new, rd⟩ s) ∧
      hartOf (beadOf (csrDo o h len ⟨0x7C0, true, old, new, rd⟩ s) o.val) h.val =
        advance len (setX rd old (hartOf (beadOf s o.val) h.val)) := by
  have hwrite : csrDo o h len ⟨0x7C0, true, old, new, rd⟩ s = retire o h (fun t => advance len (setX rd old t))
      (modBead o.val (fun b => { b with xfsel := new.setWidth 2 }) s) := rfl
  rw [hwrite]
  refine ⟨beadIs_retire _ (otherBeads_modBead _ _ s) (by rw [beadOf_modBead]) (fun k n => ?_) (.of_asy rfl), ?_⟩
  · rw [beadOf_modBead]
    rfl
  · rw [retire_hart, beadOf_modBead]
    rfl

/-- A CSR access that the mode or the register forbids traps (R140). -/
theorem completes_csr_forbidden (hf : fetched s o.val h.val = some f) {f3 num : Nat} {rd rs1 : Fin 32}
    (hi : f.insn = .csr f3 rd rs1 num) (huse : csrUse s o h f3 rd rs1 num = none) :
    Completes (.scalarInstruction o h) s
      (HartGoes o h (takeTrap false 2 (f.word.setWidth 64) (hartOf (beadOf s o.val) h.val)) s) := by
  have hlen := fetchAt_len (fetched_at hf (by rw [hi]; exact Insn.noConfusion))
  have hexec : exec (.scalarInstruction o h) s = .next (trapAt o h 2 (f.word.setWidth 64) s) := by
    change execScalarInstruction o h s = _
    simp only [execScalarInstruction, hf, scalarDo, hlen, hi, huse, if_false]
  exact completes_of_exec hexec (hartGoes_trapAt_here _ _ s)

end

/-! ### The queue-fault interrupt -/

theorem qfip_iff (b : Bead) : qfip b = true ↔ ∃ q : QueueN, (queueOf b q.val).stop = true := by
  simp only [qfip, List.any_eq_true, List.mem_range]
  exact ⟨fun ⟨q, hq, h⟩ => ⟨⟨q, hq⟩, h⟩, fun ⟨q, h⟩ => ⟨q.val, q.isLt, h⟩⟩

theorem giveUp_eq (h : Nat) (b : Bead) : giveUp h b = { b with reqs := (giveUp h b).reqs } := by
  unfold giveUp
  split <;> rfl

theorem mem_giveUp (h : Nat) (b : Bead) (r : Req) :
    r ∈ (giveUp h b).reqs ↔ r ∈ b.reqs ∧ ((hartOf b h).hold = .load r.id → r.st = .issued) := by
  unfold giveUp
  split
  · rename_i id hid
    simp only [hid, List.mem_filter, HoldBy.load.injEq, Bool.or_eq_true, bne_iff_ne, beq_iff_eq, ne_eq]
    tauto
  · rename_i hnone
    exact ⟨fun hr => ⟨hr, fun hl => absurd hl (hnone r.id)⟩, fun hr => hr.1⟩

section
variable {s : State} {o : Ord} {h : HartN}

/-- Whether a hart of a running bead with a stopped queue takes the interrupt. -/
theorem takesQfip_eq {b : Bead} {h : Nat} (hrun : (hartOf b h).run ≠ .stopped)
    (hstop : ∃ q : QueueN, (queueOf b q.val).stop = true) (hqfie : (hartOf b h).qfie = true)
    (hmode : (hartOf b h).userMode = true ∨ (hartOf b h).mstatus.getLsbD 3 = true) :
    takesQfip b h = !atomicOut b h := by
  have hopen : ((hartOf b h).userMode || mieBit (hartOf b h).mstatus) = true := by
    rw [mieBit, bitOf_toNat]
    simpa using hmode
  simp [takesQfip, hrun, (qfip_iff b).2 hstop, hqfie, hopen]

/-- What the interrupt leaves of its bead. -/
theorem qfipTrap_bead (s : State) (o h : Nat) :
    beadOf (modBead o (fun b => modHart h (takeTrap true 16 0) (giveUp h b)) s) o =
      modHart h (takeTrap true 16 0) (giveUp h (beadOf s o)) := beadOf_modBead _ _ _

theorem hartOf_giveUp (h k : Nat) (b : Bead) : hartOf (giveUp h b) k = hartOf b k := by
  rw [giveUp_eq]
  rfl

/-- The registers that the interrupt leaves in its hart (R134). -/
theorem takeTrap_qfip (t : Hart) :
    let t' := takeTrap true 16 0 t
    t'.mcause = 0x8000000000000010#64 ∧ t'.mepc = t.pc ∧ t'.userMode = false ∧ t'.hold = .none ∧ t'.x = t.x ∧
      t'.pc = (t.mtvec &&& ~~~ (3#64)) + if t.mtvec.toNat % 4 = 1 then 64 else 0 := by
  refine ⟨by rw [takeTrap]; rfl, rfl, rfl, rfl, rfl, ?_⟩
  simp only [takeTrap, true_and]
  split <;> rfl

end

/-- Settles O27: each instruction's own rule, with the frame of a hart that retires, traps or is held; the interrupt is what
`takeTrap` and `giveUp` make of the bead. -/
theorem hartWaitsFencesAndCsrWrites : Obligations.HartWaitsFencesAndCsrWrites := by
  unfold Obligations.HartWaitsFencesAndCsrWrites
  intro s o h
  refine ⟨fun f hf => ⟨fun hi hnone => ?_, fun hi hq he => ?_, fun pred hi hgo => ?_, fun pred hi hw hout => ?_,
    fun hi hgo => ?_, fun hi hout => ?_, fun rd rs1 hi => ?_, fun rd rs1 hi => ?_, fun rd rs1 hi hmode => ?_,
    fun rd rs1 hi hmode => ?_⟩, fun hruns hrun hstop hqfie hmode => ⟨fun hatomic => ?_, fun hatomic => ?_⟩⟩
  · refine completes_wfi hf hi (if_neg ?_)
    rcases hnone with hnone | hnone <;> simp [hnone]
  · exact completes_wfi hf hi (if_pos (by rw [hq, he]; rfl))
  · refine completes_fence hf hi (hartGoes_fenceDo ?_)
    rcases hgo with hgo | hgo
    · exact .inl (decide_eq_false (by omega))
    · exact .inr hgo
  · refine completes_fence hf hi ?_
    rw [decide_eq_true hw]
    exact heldBy_fenceDo hout
  · exact completes_fenceI hf hi (hartGoes_fenceDo (.inr hgo))
  · exact completes_fenceI hf hi (heldBy_fenceDo hout)
  · exact completes_csrWrite hf hi (csrUse_write rfl (.inr rfl) (by decide)) rfl (hartGoes_csrDo (by decide) _ _ _ _)
  · exact completes_csrWrite hf hi (csrUse_write rfl (.inr rfl) (by decide)) rfl (hartGoes_csrDo (by decide) _ _ _ _)
  · exact completes_csrWrite hf hi (csrUse_write rfl (.inl hmode) (by decide)) rfl (beadIs_csrDo_xfsel _ _ _ _)
  · refine completes_csr_forbidden hf hi ?_
    simp [csrUse, csrRead, hmode, bitsOf]
  · have hexec : exec (.qfipTrap o h) s =
        .next (modBead o.val (fun b => modHart h.val (takeTrap true 16 0) (giveUp h.val b)) s) :=
      whenOk_of s (by rw [hruns, takesQfip_eq hrun hstop hqfie hmode, hatomic]; rfl) _
    refine completes_of_exec hexec ?_
    rw [qfipTrap_bead]
    refine ⟨otherBeads_modBead _ _ s, fun k n => ?_, ?_, fun r => mem_giveUp h.val (beadOf s o.val) r, ?_⟩
    · rw [hartOf_modHart_other _ _ n, hartOf_giveUp]
    · rw [giveUp_eq]
      rfl
    · dsimp only
      rw [hartOf_modHart, hartOf_giveUp]
      exact takeTrap_qfip _
  · change whenOk s _ _ = _
    rw [hruns, takesQfip_eq hrun hstop hqfie hmode, hatomic]
    rfl

end Sys2Proof.Proofs
end

section
/-! Proofs for chapter 3: TREL empties a tile register that an array's weights came from. -/

namespace Sys2Proof.Proofs

open Sys2Proof Sys2Proof.Machine Sys2Proof.Laws

/-! ### States to refute with -/

/-- The state after a step that goes on. -/
def stateAfter (c : Instr) (s : State) : State :=
  match exec c s with
  | .next t => t
  | _ => s

/-- A property that the state after a command does not have is not one that the command completes with. -/
theorem not_completes {c : Instr} {s : State} {p : State → Prop} (h : ¬ p (stateAfter c s)) : ¬ Completes c s p := by
  rintro ⟨t, hexec, -, hp⟩
  exact h (by rwa [stateAfter, hexec])

/-- A module whose main domains are up, with one bead that is not at its reset values, that of ordinal 0. -/
def upWith (b : Bead) : State := { standby := { mainUp := true }, beads := [(0, b)] }

/-- An instruction-memory bank with one instruction, of 4 bytes, at its start. -/
def codeBank (w : Nat) : IBank :=
  { code := [(0, BitVec.ofNat 8 w), (1, BitVec.ofNat 8 (w / 256)), (2, BitVec.ofNat 8 (w / 65536)),
      (3, BitVec.ofNat 8 (w / 16777216))] }

/-! ### TREL -/

/-- Array A with weights loaded from tile register 0, which has not been written since (R188). -/
def loadedArray : Array := { active := some { entry := 0, pass := 0, tile := 0, trn := false, rows := 8, width := 8, fmt := 0, split := false } }

/-- Hart 0 of bead 0 is at `TREL x1` with bit 0 of x1 set, while array A holds weights of tile register 0. -/
def trelState : State :=
  upWith { harts := [(0, { run := .running, x := [(1, 1)] })], active := codeBank 0x0000F02B, arrs := [(0, loadedArray)] }

theorem trelState_at : xAt trelState 0 0 = some (.trel 1, ⟨.x (.trel 1), 0x0000F02B, 4⟩) := by decide

/-- TREL marks the weights of the register that it empties as no longer the register's. -/
theorem trelState_soils :
    (beadOf (stateAfter (.trel 0 0) trelState) 0).arrs =
      [(0, { active := loadedArray.active.map fun w => { w with dirty := true } })] := by decide

/-- Refutes O30: an emptied tile register also marks the weights that an array loaded from it, so more of the bead than its
tile registers changes. -/
theorem not_pipelineXmacelInstructions : ¬ Obligations.PipelineXmacelInstructions := by
  unfold Obligations.PipelineXmacelInstructions
  intro h
  obtain ⟨-, -, htrel, -⟩ := h trelState 0 0 ⟨.x (.trel 1), 0x0000F02B, 4⟩
  obtain ⟨hempty, -⟩ := htrel 1 1 trelState_at (.inr ⟨fun _ => HoldBy.noConfusion, by decide⟩)
  refine not_completes (fun hp => ?_) (hempty (by decide))
  obtain ⟨⟨-, -, hbead, -⟩, -⟩ := hp
  have harrs := congrArg Bead.arrs hbead
  rw [show (0 : Ord).val = 0 from rfl, trelState_soils] at harrs
  exact absurd harrs (by decide)

end Sys2Proof.Proofs
end

section
/-! Proofs for chapter 2: a mask request that takes the number of a request under way. -/

namespace Sys2Proof.Proofs

open Sys2Proof Sys2Proof.Machine Sys2Proof.Laws

/-! ### An entry that waits for a mask in a slice -/

/-- A store whose page of 1 GiB at device address 0 is the first GiB from the slices on, readable. -/
def slicePages : Mmu := { active := [(0, 0x1001), (512, 0x10000000007)] }

/-- A descriptor of a mask at device address 0 (R149, R150): VALID, of BIT elements, rank 1, one tile row and column. -/
def maskDescriptor : BitVec 512 := BitVec.ofNat 512 (4 * 2 ^ 48 + 2 ^ 52 + 2 ^ 56 + 2 ^ 224 + 2 ^ 232)

/-- `MM.BWD` of tile registers 0 with the mask that x1 names. -/
def maskedInsn : XInsn := .mmbwd 0 0 0 1 false 0 false false

/-- The bead's mask request takes the bead's next number; a request of that number, if one stood before it, is the one
that is then translated. -/
def staleStore (id n dev : Nat) : Req := { id := id, owner := .hartStore 1, kind := .write, dev := dev, n := n }

/-! ### An instruction that enters its queue -/

/-- Hart 0 of bead 0 is at `MM.BWD`, and a request of hart 1 has the number that the mask's request will take. -/
def enterState : State :=
  { upWith { harts := [(0, { run := .running })], active := codeBank 0xB00B, dt := [(0, maskDescriptor)],
             reqs := [staleStore 2 0 0] } with mmu := slicePages }

theorem enterState_at : xAt enterState 0 0 = some (maskedInsn, ⟨.x maskedInsn, 0xB00B, 4⟩) := by decide

/-- The store of hart 1 goes on in the place of the mask's request. -/
theorem enterState_store : (hartOf (beadOf (stateAfter (.mmBwd 0 0) enterState) 0) 1).stores = 1 := by decide +kernel

/-- Refutes O29: an `MM.BWD` asks for its mask with a request of the bead's next number; where a store's request has that
number already, that store is translated and its hart goes on, which is another hart than the one that issues. -/
theorem not_xmacelInstructionsEnterTheirQueue : ¬ Obligations.XmacelInstructionsEnterTheirQueue := by
  unfold Obligations.XmacelInstructionsEnterTheirQueue
  intro h
  obtain ⟨hroom, -⟩ := h enterState 0 0 maskedInsn ⟨.x maskedInsn, 0xB00B, 4⟩ 0 enterState_at rfl
  obtain ⟨-, -, -, hbwd, -⟩ := hroom (by decide)
  refine not_completes (fun hp => ?_) (hbwd rfl)
  obtain ⟨-, -, -, -, -, hothers, -⟩ := hp
  have hstores := congrArg Hart.stores (hothers 1 (by decide))
  rw [show (0 : Ord).val = 0 from rfl, enterState_store] at hstores
  exact absurd hstores (by decide)

/-! ### A tile load that completes -/

/-- A tile load that has loaded all its rows. -/
def loadedEntry : QEntry :=
  { id := 1, word := 0, insn := .tld 1 0 0 false, hart := 0, v1 := 0, v2 := 0, v3 := 0, tcfg := 0, d1 := 0, d2 := 0,
    startRow := 0, st := .started }

/-- An `MM.BWD` whose mask has neither been read nor asked for. -/
def maskedEntry : QEntry :=
  { id := 2, word := 0, insn := maskedInsn, hart := 0, v1 := 0, v2 := 0, v3 := 0, tcfg := 0, d1 := maskDescriptor, d2 := 0,
    startRow := 0 }

/-- The load is the head of its queue, the `MM.BWD` waits, and a store to the bead's own data memory has the number that
the mask's request will take; hart 0 has reserved the granule that it stores to. -/
def completeState : State :=
  { upWith { queues := [(0, { ents := [maskedEntry] }), (1, { ents := [loadedEntry] })], nextId := 3,
             reqs := [staleStore 3 1 (ownBase 0)] } with
    mmu := slicePages, mem := { resv := [(0, dmemGran 0 0 + 1)] } }

/-- The store is done, and takes the reservation away. -/
theorem completeState_store : (stateAfter (.entryComplete 0 1) completeState).mem.resv = [] := by decide +kernel

/-- Refutes O33: with the completion of an entry the M-queue asks for the mask of the entry that comes next; where a store's
request has the number that the mask's request takes, that store is translated, and one to own data memory done at once, so the
memory changes beside the tile register. -/
theorem not_entriesComplete : ¬ Obligations.EntriesComplete := by
  unfold Obligations.EntriesComplete
  intro h
  obtain ⟨hgood, -⟩ := h completeState 0 1 loadedEntry (by decide) (by decide +kernel) (by decide +kernel)
  refine not_completes (fun hp => ?_) (hgood rfl)
  obtain ⟨-, -, -, hload⟩ := hp
  obtain ⟨-, hmem, -⟩ := hload 1 0 0 false rfl rfl
  have hresv := congrArg Memory.resv hmem
  exact absurd (completeState_store.symm.trans hresv) (by decide)

end Sys2Proof.Proofs
end

section
/-! Proofs for chapters 2 and 3: an entry starts, or the check that fails stops its queue. -/

namespace Sys2Proof.Proofs

open Sys2Proof Sys2Proof.Machine Sys2Proof.Laws

/-! ### Entries of a queue -/

/-- What steps over a list each leave, the steps leave. -/
theorem foldl_leaves {α β γ : Type} (g : β → γ) {f : β → α → β} (h : ∀ b a, g (f b a) = g b) (l : List α) (b : β) :
    g (l.foldl f b) = g b := by
  induction l generalizing b with
  | nil => rfl
  | cons a l ih => rw [List.foldl_cons, ih, h]

theorem upTo_leaves {α γ : Type} (g : α → γ) {f : α → Nat → α} (h : ∀ a k, g (f a k) = g a) (n : Nat) (a : α) :
    g (upTo n f a) = g a := foldl_leaves g h _ a

theorem queueOf_modQueue (q : Nat) (f : Queue → Queue) (b : Bead) : queueOf (modQueue q f b) q = f (queueOf b q) :=
  queueOf_setQueue _ _ _

theorem queueOf_modQueue_other {q q' : Nat} (f : Queue → Queue) (b : Bead) (n : q' ≠ q) :
    queueOf (modQueue q f b) q' = queueOf b q' := queueOf_setQueue_other _ _ n

theorem queueOf_modEntry_other {q q' : Nat} (id : Nat) (f : QEntry → QEntry) (b : Bead) (n : q' ≠ q) :
    queueOf (modEntry q id f b) q' = queueOf b q' := queueOf_modQueue_other _ b n

section
variable {b : Bead} {q : Nat} {e : QEntry} {rest : List QEntry}

/-- The entry of a number is the head, where the head has it. -/
theorem queueOf_modEntry_head (hents : (queueOf b q).ents = e :: rest) (hbar : e.barrier = 0) (f : QEntry → QEntry) :
    queueOf (modEntry q e.id f b) q = { queueOf b q with ents := f e :: rest } := by
  simp [modEntry, queueOf_modQueue, hents, modFirst, hbar]

theorem ents_modEntry_head (hents : (queueOf b q).ents = e :: rest) (hbar : e.barrier = 0) (f : QEntry → QEntry) :
    (queueOf (modEntry q e.id f b) q).ents = f e :: rest := by rw [queueOf_modEntry_head hents hbar]

theorem findEntry_head (hents : (queueOf b q).ents = e :: rest) (hbar : e.barrier = 0) : findEntry b q e.id = some e := by
  simp [findEntry, hents, hbar]

/-- The entry that is next to start waits in a queue that is not stopped. -/
theorem nextToStart_some (h : nextToStart b q = some e) :
    (queueOf b q).stop = false ∧ e.barrier = 0 ∧ e.st = .waiting := by
  unfold nextToStart at h
  dsimp only at h
  split at h
  · cases h
  · rename_i hstop
    split at h
    · split at h
      · rename_i hok
        cases h
        exact ⟨by simpa using hstop, hok.1, hok.2.1⟩
      · cases h
    · cases h

end

/-! ### A bead that is quiet stays quiet beside a queue entry -/

/-- What the feeders and the M-queue's mask reads look at of bead `o` (R195, R296): its strands, its M-queue, and the cks in which
full feeders let a row go. -/
structure SameFeeds (o : Nat) (s t : State) : Prop where
  clock : t.clock = s.clock
  strands : (beadOf t o).strands = (beadOf s o).strands
  queue : queueOf (beadOf t o) 0 = queueOf (beadOf s o) 0
  pause : ∀ k, (arrayOf (beadOf t o) k).pause = (arrayOf (beadOf s o) k).pause

section
variable {s t : State} {o : Nat}

theorem SameFeeds.trans {u : State} (h : SameFeeds o s t) (g : SameFeeds o t u) : SameFeeds o s u where
  clock := g.clock.trans h.clock
  strands := g.strands.trans h.strands
  queue := g.queue.trans h.queue
  pause k := (g.pause k).trans (h.pause k)

theorem feedNext_congr (h : SameFeeds o s t) (n : Nat) : feedNext t o n = feedNext s o n := by
  have hstrand (m : Nat) : strandOf (beadOf t o) m = strandOf (beadOf s o) m := by rw [strandOf, strandOf, h.strands]
  have htaker (m : Nat) : strandTaker (beadOf t o) m = strandTaker (beadOf s o) m := by rw [strandTaker, strandTaker, h.queue]
  have hahead (e : QEntry) (k : Nat) : aheadOn (beadOf t o) e k = aheadOn (beadOf s o) e k := by
    rw [aheadOn, aheadOn, h.queue]
  have hck : absCk t = absCk s := by rw [absCk, absCk, h.clock]
  have hrows (e : QEntry) (k : Nat) : feederRows (beadOf t o) e k = feederRows (beadOf s o) e k := by
    simp only [feederRows, strandRows, hahead, htaker, hstrand]
  have hroom (e : QEntry) : feederRoom t o e = feederRoom s o e := by
    simp only [feederRoom, hrows, hahead, hstrand, h.pause, hck]
  simp only [feedNext, htaker, hstrand, hroom]

theorem beadQuiet_congr (h : SameFeeds o s t) (hq : BeadQuiet s o) : BeadQuiet t o := by
  obtain ⟨hfeed, hmask⟩ := hq
  refine ⟨fun n => by rw [feedNext_congr h, hfeed], fun e he => hmask e ?_⟩
  rwa [nextToStart, h.queue] at he

theorem feedAll_of_none (h : ∀ n : Fin 8, feedNext s o n.val = none) : feedAll o s = s :=
  upTo_same fun n hn => upTo_same fun _ _ => by rw [h ⟨n, hn⟩]

theorem maskDue_of_quiet (hq : BeadQuiet s o) : maskDue o s = s := by
  unfold maskDue
  split
  · rename_i e he
    rw [if_neg (by simp [maskUnread, hq.2 e he])]
  · rfl

/-- Nothing follows the start of an entry that leaves the bead quiet. -/
theorem beginEntry_of_quiet {q : Nat} {e : QEntry} (hs : BeadQuiet s o) (h : SameFeeds o s (startOver o q e s)) :
    beginEntry o q e s = startOver o q e s := by
  have hq := beadQuiet_congr h hs
  rw [beginEntry, feedAll_of_none hq.1, maskDue_of_quiet hq]

/-- A change of an entry outside the M-queue. -/
theorem sameFeeds_modEntry {q : Nat} (hq : q ≠ 0) (id : Nat) (f : QEntry → QEntry) (s : State) :
    SameFeeds o s (modBead o (modEntry q id f) s) where
  clock := rfl
  strands := by rw [beadOf_modBead]; rfl
  queue := by rw [beadOf_modBead, queueOf_modEntry_other _ _ _ (Ne.symm hq)]
  pause k := by rw [beadOf_modBead]; rfl

end

/-! ### The registers of an entry that starts -/

theorem arrayOf_setTile_pause (t : Nat) (v : Tile) (b : Bead) (k : Nat) :
    (arrayOf (setTile t v b) k).pause = (arrayOf b k).pause := by
  unfold arrayOf setTile
  induction b.arrs with
  | nil => rfl
  | cons p l ih =>
    simp only [List.map_cons, tblGet] at ih ⊢
    split
    · rfl
    · exact ih

theorem fillingTiles_queues (e : QEntry) (b : Bead) : (fillingTiles e b).queues = b.queues :=
  foldl_leaves Bead.queues (f := fun b t => modTile t _ b) (fun _ _ => rfl) _ b

theorem fillingTiles_strands (e : QEntry) (b : Bead) : (fillingTiles e b).strands = b.strands :=
  foldl_leaves Bead.strands (f := fun b t => modTile t _ b) (fun _ _ => rfl) _ b

theorem fillingTiles_pause (e : QEntry) (b : Bead) (k : Nat) : (arrayOf (fillingTiles e b) k).pause = (arrayOf b k).pause :=
  foldl_leaves (fun b => (arrayOf b k).pause) (fun b t => arrayOf_setTile_pause t _ b k) _ b

theorem tileOf_modTile (t k : Nat) (f : Tile → Tile) (b : Bead) :
    tileOf (modTile t f b) k = if t = k then f (tileOf b t) else tileOf b k := tblGet_tblSet _ _ _ _ _

theorem tileOf_fillingTiles {e : QEntry} {k : Nat} (hk : k ∈ tilesWritten e) (b : Bead) :
    (tileOf (fillingTiles e b) k).st = .filling := by
  have hfold (l : List Nat) (b : Bead) (h : k ∈ l ∨ (tileOf b k).st = .filling) :
      (tileOf (l.foldl (fun b t => modTile t (fun k => { k with st := .filling }) b) b) k).st = .filling := by
    induction l generalizing b with
    | nil => simpa using h
    | cons t l ih =>
      refine ih _ ?_
      rw [tileOf_modTile]
      split
      · exact .inr rfl
      · rename_i hne
        simpa [Ne.symm hne] using h
  exact hfold _ b (.inl hk)

theorem mem_tilesWritten_tld {e : QEntry} {t : Fin 16} {rs1 rs2 : Fin 32} {noalloc : Bool}
    (h : e.insn = .tld t rs1 rs2 noalloc) : t.val ∈ tilesWritten e := by
  simp only [tilesWritten, h, withPair]
  split <;> simp

/-! ### Records -/

theorem mem_insertRec (r : FaultRec) (l : List FaultRec) : r ∈ insertRec r l := by
  induction l with
  | nil => exact .head _
  | cons x l ih =>
    unfold insertRec
    split
    · exact .head _
    · exact .tail _ ih

/-- A fault recorded on a state with the clock and the waiting records of `s`. -/
theorem recorded_recordAt {s t : State} (hclock : t.clock = s.clock) (hfaults : t.faults = s.faults)
    (cls source detail : Nat) : Recorded cls source s (recordAt cls source detail t) := by
  unfold Recorded recordAt recordFault
  rw [hfaults, hclock]
  split
  · exact ⟨_, mem_insertRec _ _, rfl, rfl, rfl, rfl⟩
  · rfl

/-! ### A queue that stops -/

/-- A queue as `stopQueue` leaves it: its entry faulted, the record made. -/
def stoppedWith (e : QEntry) (code part addr : Nat) (k : Queue) : Queue :=
  { k with
    ents := modFirst (fun x => x.id == e.id && x.barrier == 0) (fun x => { x with st := .faulted }) k.ents
    stop := true
    xrec := { insn := e.word, code := BitVec.ofNat 6 code, hart := BitVec.ofNat 2 e.hart.val, part := BitVec.ofNat 16 part,
              addr := BitVec.ofNat 48 addr } }

/-- A bead of which only harts have changed. -/
def HartsDiffer (b b' : Bead) : Prop := b' = { b with harts := b'.harts }

theorem HartsDiffer.refl (b : Bead) : HartsDiffer b b := rfl

theorem HartsDiffer.ite {c : Prop} {_ : Decidable c} {b b1 b2 : Bead} (h1 : HartsDiffer b b1) (h2 : HartsDiffer b b2) :
    HartsDiffer b (if c then b1 else b2) := by
  split
  · exact h1
  · exact h2

theorem HartsDiffer.modHart {b b' : Bead} (hb : HartsDiffer b b') (h : Nat) (f : Hart → Hart) :
    HartsDiffer b (Machine.modHart h f b') :=
  congrArg (setHart h (f (hartOf b' h))) hb

theorem HartsDiffer.upTo {b b' : Bead} (hb : HartsDiffer b b') (f : Nat → Hart → Hart) (n : Nat) :
    HartsDiffer b (upTo n (fun b h => Machine.modHart h (f h) b) b') := by
  induction n with
  | zero => exact hb
  | succ n ih =>
    rw [upTo_succ]
    exact ih.modHart n _

/-- A stop is counted and recorded, with its address where it has one; of its bead the queue and harts change. -/
theorem stopQueue_eq (o q : Nat) (e : QEntry) (code part addr : Nat) (s : State) :
    ∃ b detail, HartsDiffer (modQueue q (stoppedWith e code part addr) (beadOf s o)) b ∧
      stopQueue o q e code part addr s =
        if addr = 0 then recordAt 0x01 o detail (countEv o 0x0E 1 (setBead o b s))
        else recordAddr 0x01 o addr detail (countEv o 0x0E 1 (setBead o b s)) := by
  have hqueue := HartsDiffer.refl (modQueue q (stoppedWith e code part addr) (beadOf s o))
  exact ⟨_, _, HartsDiffer.upTo (.ite (hqueue.modHart _ _) hqueue)
    (fun _ t => if t.run = .wfi ∧ t.qfie then { t with run := .running } else t) 4, rfl⟩

/-- An entry that has a fault to end with. -/
def faultedWith (code part : Nat) (e : QEntry) : QEntry :=
  { e with bad := some (BitVec.ofNat 6 code, BitVec.ofNat 16 part, BitVec.ofNat 48 0) }

section
variable {s : State} {o c part : Nat} {e : QEntry} {rest : List QEntry}

/-- The head entry of the L-queue that faults at its start stops the queue at once. -/
theorem failStart_eq (hents : (queueOf (beadOf s o) 1).ents = e :: rest) (hbar : e.barrier = 0)
    (hrun : (queueOf (beadOf s o) 1).stop = false) :
    failStart o 1 e c part 0 s = stopQueue o 1 (faultedWith c part e) (BitVec.ofNat 6 c).toNat (BitVec.ofNat 16 part).toNat 0
      (modBead o (modEntry 1 e.id (faultedWith c part)) s) := by
  change settleHead o 1 (modBead o (modEntry 1 e.id (faultedWith c part)) s) = _
  simp only [settleHead, beadOf_modBead, queueOf_modEntry_head hents hbar, hrun]
  rfl

theorem failStart_head (hents : (queueOf (beadOf s o) 1).ents = e :: rest) (hbar : e.barrier = 0)
    (hrun : (queueOf (beadOf s o) 1).stop = false) :
    let u := failStart o 1 e c part 0 s
    OtherBeads o s u ∧ SameFeeds o s u ∧ Recorded 0x01 o s u ∧ (queueOf (beadOf u o) 1).stop = true ∧
      (queueOf (beadOf u o) 1).xrec.code = BitVec.ofNat 6 c ∧ (queueOf (beadOf u o) 1).xrec.insn = e.word := by
  dsimp only
  rw [failStart_eq hents hbar hrun]
  generalize hs1 : modBead o (modEntry 1 e.id (faultedWith c part)) s = s1
  obtain ⟨b, detail, hb, hstop⟩ :=
    stopQueue_eq o 1 (faultedWith c part e) (BitVec.ofNat 6 c).toNat (BitVec.ofNat 16 part).toNat 0 s1
  rw [hstop, if_pos rfl]
  have hbeads : (recordAt 0x01 o detail (countEv o 0x0E 1 (setBead o b s1))).beads = (setBead o b s1).beads := by
    rw [recordAt_beads, countEv_beads]
  rw [beadOf_congr hbeads, beadOf_setBead]
  have hqueues (q : Nat) : queueOf b q = queueOf (modQueue 1
      (stoppedWith (faultedWith c part e) (BitVec.ofNat 6 c).toNat (BitVec.ofNat 16 part).toNat 0) (beadOf s1 o)) q := by
    rw [hb]
    rfl
  have hq := (hqueues 1).trans (queueOf_modQueue _ _ _)
  refine ⟨?_, ?_, ?_, by rw [hq]; rfl, by rw [hq, stoppedWith]; simp only [BitVec.ofNat_toNat, BitVec.setWidth_eq], by rw [hq]; rfl⟩
  · subst hs1
    exact otherBeads_trans (otherBeads_trans (otherBeads_modBead _ _ s) (otherBeads_setBead _ _ _)) (otherBeads_of_beads hbeads)
  · have h1 : SameFeeds o s s1 := hs1 ▸ sameFeeds_modEntry one_ne_zero e.id _ s
    refine h1.trans ⟨by simp, ?_, ?_, fun k => ?_⟩
    all_goals rw [beadOf_congr hbeads, beadOf_setBead]
    · rw [hb]
      rfl
    · rw [hqueues, queueOf_modQueue_other _ _ (by decide)]
    · rw [hb]
      rfl
  · exact recorded_recordAt (by simp [← hs1]) (by simp [← hs1]) _ _ _

end

/-! ### The start itself -/

section
variable {s : State} {o q : Nat} {e : QEntry} {rest : List QEntry}

/-- Nothing gives way where no entry of a later queue has just started (R99). -/
theorem displace_of_none
    (h : ∀ k : QueueN, q < k.val → ∀ x ∈ (queueOf (beadOf s o) k.val).ents, justStarted (absCk s + 1) x = false) :
    displace o q e s = s := by
  refine upTo_same fun k hk => ?_
  rw [List.filter_eq_nil_iff.2 fun x hx hj => ?_]
  · rfl
  · rw [Bool.and_eq_true, decide_eq_true_eq] at hj
    exact absurd hj.2 (by rw [h ⟨k, hk⟩ hj.1 x hx]; decide)

/-- An entry outside the M-queue that displaces nothing is tried once. -/
theorem startOver_eq (hd : displace o q e s = s) (hq : q ≠ 0) : startOver o q e s = tryEntry o q e s := by
  unfold startOver
  rw [hd]
  dsimp only
  split
  · split
    · rw [if_neg hq]
    · split <;> rfl
  · rfl

end

/-! ### What a start makes of its bead -/

section
variable {s : State} {o q : Nat} {e : QEntry} {rest : List QEntry}

theorem findEntry_markStarted {b : Bead} (hents : (queueOf b q).ents = e :: rest) (hbar : e.barrier = 0) :
    findEntry (markStarted q e b) q e.id = some { e with st := .started, began := true } :=
  findEntry_head (e := { e with st := .started, began := true }) (ents_modEntry_head hents hbar _) hbar

end

/-- An entry of `q` that is next to start, is its queue's head and displaces nothing, in a quiet bead. -/
structure StartsAlone (s : State) (o : Ord) (q : QueueN) (e : QEntry) : Prop where
  runs : beadRuns s o.val = true
  hold : s.clock.hold = false
  next : nextToStart (beadOf s o.val) q.val = some e
  can : canStart s o.val q.val e = true
  quiet : BeadQuiet s o.val
  displaces : displace o.val q.val e s = s

section
variable {s : State} {o : Ord} {q : QueueN} {e : QEntry}

/-- Such an entry is tried once, on the state in which its checks are made, and nothing follows. -/
theorem StartsAlone.completes (h : StartsAlone s o q e) (hq : q.val ≠ 0) {p : State → Prop} {u : State}
    (hu : startEntry o.val q.val (atStart s o.val e) (modBead o.val (modEntry q.val e.id fun _ => atStart s o.val e) s) = u)
    (hfeeds : SameFeeds o.val s u) (hp : p u) : Completes (.entryStart o q) s p := by
  have hover : startOver o.val q.val e s = u := (startOver_eq h.displaces hq).trans hu
  have hexec : exec (.entryStart o q) s = .next (beginEntry o.val q.val e s) := by
    change execEntryStart o q s = _
    rw [execEntryStart, h.next]
    exact whenOk_of s (by rw [h.runs, holding, h.hold, h.can]; rfl) _
  rw [beginEntry_of_quiet h.quiet (hover ▸ hfeeds), hover] at hexec
  exact completes_of_exec hexec hp

end

/-! ### The entries that the L-queue and the S-queue start -/

section
variable {s : State} {o : Nat} {e : QEntry} {rest : List QEntry}

/-- A load that starts: its entry, its tile register, and what it leaves. -/
theorem startLoad_tld {t : Fin 16} {rs1 rs2 : Fin 32} {noalloc : Bool} (hents : (queueOf (beadOf s o) 1).ents = e :: rest)
    (hbar : e.barrier = 0) (hi : e.insn = .tld t rs1 rs2 noalloc) (hok : transferFault s o e t.val false = none) :
    let u := startLoad o e s
    OtherBeads o s u ∧ SameFeeds o s u ∧ u.mem = s.mem ∧
      findEntry (beadOf u o) 1 e.id = some { e with st := .started, began := true } ∧
      (tileOf (beadOf u o) t.val).st = .filling := by
  have hstart : startLoad o e s = modBead o (fun b => fillingTiles e (markStarted 1 e b)) s := by
    simp only [startLoad, hi, hok]
  have hmarked : SameFeeds o s (modBead o (markStarted 1 e) s) := sameFeeds_modEntry one_ne_zero _ _ s
  dsimp only
  rw [hstart]
  refine ⟨otherBeads_modBead _ _ s, ⟨rfl, ?_, ?_, fun k => ?_⟩, rfl, ?_, ?_⟩
  all_goals rw [beadOf_modBead]
  · exact fillingTiles_strands _ _
  · rw [queueOf, fillingTiles_queues]
    exact queueOf_modEntry_other _ _ _ (by decide)
  · exact fillingTiles_pause _ _ _
  · rw [findEntry, queueOf, fillingTiles_queues]
    exact findEntry_markStarted hents hbar
  · exact tileOf_fillingTiles (mem_tilesWritten_tld hi) _

theorem startLoad_tld_fault {t : Fin 16} {rs1 rs2 : Fin 32} {noalloc : Bool} {c : Nat} (hi : e.insn = .tld t rs1 rs2 noalloc)
    (hbad : transferFault s o e t.val false = some c) : startLoad o e s = failStart o 1 e c e.startRow 0 s := by
  simp only [startLoad, hi, hbad]

theorem startLoad_fill {rs1 rs2 : Fin 32} (hi : e.insn = .dtFill rs1 rs2) (hok : fillFirst e + fillCount e ≤ 4096) :
    startLoad o e s = modBead o (markStarted 1 e) s := by
  simp only [startLoad, hi]
  rw [if_neg (by omega)]

theorem startLoad_fill_fault {rs1 rs2 : Fin 32} (hi : e.insn = .dtFill rs1 rs2) (hbad : 4096 < fillFirst e + fillCount e) :
    startLoad o e s = failStart o 1 e fcBadHandle 0 0 s := by
  simp only [startLoad, hi]
  rw [if_pos hbad]

theorem beadOf_claspReach (k rank : Nat) (what : ClaspDo) (o : Nat) : beadOf (claspReach k rank what s) o = beadOf s o := rfl

/-- An increment of an own clasp joins that clasp's operations (R443, R446). -/
theorem startS_sigOwn {rs1 rs2 : Fin 32} (hi : e.insn = .claspSig rs1 rs2) (hindex : e.v1.toNat % 4096 < 64)
    (hscope : e.v1.toNat / 4096 % 4 = 0) (hlocal : e.v1.getLsbD 28 = false) (hadd : e.v2.toNat % 65536 ≠ 0) :
    startS o e s = claspReach (o * 64 + e.v1.toNat % 64) (rankAdd portOwn) (.own (e.v2.toNat % 65536) (Fin.ofNat 1024 o) e.id)
      (modBead o (fun b => modEntry 3 e.id (fun x => { x with next := 0, fin := 0 }) (markStarted 3 e b)) s) := by
  generalize hw : e.v1.toNat % 2 ^ 29 = w
  have hindexw : cwIndex w = e.v1.toNat % 4096 := by simp only [cwIndex, bitsOf, ← hw]; omega
  have hscopew : cwScope w = 0 := by simp only [cwScope, bitsOf, ← hw]; omega
  have hlocalw : cwRemote w = false := by
    rw [← bitOf_toNat] at hlocal
    rw [← hlocal, cwRemote, bitOf, bitOf, ← hw]
    congr 1
    omega
  have hn : bitsOf e.v2.toNat 0 16 = e.v2.toNat % 65536 := by simp [bitsOf]
  have hat : claspAt o w = .own (o * 64 + e.v1.toNat % 64) := by
    simp only [claspAt, hlocalw, hscopew, hindexw]
    rw [Nat.mod_mod_of_dvd _ (by decide)]
    rfl
  have hvalid (u : State) : claspInvalid u o 0 w = false := by
    simp [claspInvalid, indexOk, hlocalw, hscopew, hindexw, hindex]
  simp only [startS, claspOp, hi, claspStart, hw, hvalid, hat, hn, hadd]
  rfl

theorem startS_sigOwn_leaves {rs1 rs2 : Fin 32} (hents : (queueOf (beadOf s o) 3).ents = e :: rest) (hbar : e.barrier = 0)
    (hi : e.insn = .claspSig rs1 rs2) (hindex : e.v1.toNat % 4096 < 64) (hscope : e.v1.toNat / 4096 % 4 = 0)
    (hlocal : e.v1.getLsbD 28 = false) (hadd : e.v2.toNat % 65536 ≠ 0) :
    let u := startS o e s
    OtherBeads o s u ∧ SameFeeds o s u ∧
      u.clasps = { s.clasps with acts := insertAct ⟨o * 64 + e.v1.toNat % 64, rankAdd portOwn,
        .own (e.v2.toNat % 65536) (Fin.ofNat 1024 o) e.id⟩ s.clasps.acts } ∧
      findEntry (beadOf u o) 3 e.id = some { e with st := .started, began := true, next := 0, fin := 0 } := by
  dsimp only
  rw [startS_sigOwn hi hindex hscope hlocal hadd]
  have hmarked := ents_modEntry_head hents hbar fun x => { x with st := .started, began := true }
  refine ⟨fun o' n => (beadOf_claspReach _ _ _ o').trans (beadOf_modBead_other s _ n), ⟨rfl, ?_, ?_, fun k => ?_⟩, rfl, ?_⟩
  all_goals rw [beadOf_claspReach, beadOf_modBead]
  · rfl
  · rw [queueOf_modEntry_other _ _ _ (by decide), markStarted, queueOf_modEntry_other _ _ _ (by decide)]
  · rfl
  · exact findEntry_head (e := { e with st := .started, began := true, next := 0, fin := 0 })
      (ents_modEntry_head hmarked hbar _) hbar

end

/-- Settles O32. The entry is its queue's head and displaces nothing, so its start is one try; the try marks it started or
stops the queue, and either leaves what the feeders and the mask reads look at. -/
theorem entriesStartOrStopTheirQueue : Obligations.EntriesStartOrStopTheirQueue := by
  unfold Obligations.EntriesStartOrStopTheirQueue
  intro s o q e hruns hhold hnext hhead hcan hquiet hlater e' s'
  have halone : StartsAlone s o q e := ⟨hruns, hhold, hnext, hcan, hquiet, displace_of_none hlater⟩
  obtain ⟨hrun, hbar, -⟩ := nextToStart_some hnext
  obtain ⟨rest, hents⟩ := List.head?_eq_some_iff.1 hhead
  have hqueue : queueOf (beadOf s' o.val) q.val = { queueOf (beadOf s o.val) q.val with ents := e' :: rest } := by
    rw [show beadOf s' o.val = _ from beadOf_modBead _ _ _]
    exact queueOf_modEntry_head hents hbar _
  have hents' : (queueOf (beadOf s' o.val) q.val).ents = e' :: rest := by rw [hqueue]
  have hrun' : (queueOf (beadOf s' o.val) q.val).stop = false := by rw [hqueue]; exact hrun
  have hothers : OtherBeads o.val s s' := otherBeads_modBead _ _ s
  have hfeeds (hq : q.val ≠ 0) : SameFeeds o.val s s' := sameFeeds_modEntry hq _ _ s
  refine ⟨fun t rs1 rs2 noalloc hq hi => ?_, fun rs1 rs2 hq hi => ?_, fun rs1 rs2 hq hi hindex hscope hlocal hadd => ?_⟩
  · obtain rfl : q = 1 := Fin.ext hq
    refine ⟨fun hok => ?_, fun c hbad => ?_⟩
    · obtain ⟨hbeads, hsame, hmem, hentry, htile⟩ := startLoad_tld hents' hbar hi hok
      exact halone.completes one_ne_zero rfl ((hfeeds one_ne_zero).trans hsame)
        ⟨otherBeads_trans hothers hbeads, hmem, hentry, htile⟩
    · obtain ⟨hbeads, hsame, hrec, hstop, hcode, hword⟩ := failStart_head (c := c) (part := e'.startRow) hents' hbar hrun'
      exact halone.completes one_ne_zero (startLoad_tld_fault hi hbad) ((hfeeds one_ne_zero).trans hsame)
        ⟨otherBeads_trans hothers hbeads, hrec, hstop, hcode, hword⟩
  · obtain rfl : q = 1 := Fin.ext hq
    refine ⟨fun hok => ?_, fun hbad => ?_⟩
    · refine halone.completes one_ne_zero (startLoad_fill hi hok)
        ((hfeeds one_ne_zero).trans (sameFeeds_modEntry one_ne_zero _ _ s'))
        ⟨otherBeads_trans hothers (otherBeads_modBead _ _ s'), rfl, ?_⟩
      rw [beadOf_modBead]
      exact findEntry_markStarted hents' hbar
    · obtain ⟨hbeads, hsame, hrec, hstop, hcode, -⟩ := failStart_head (c := fcBadHandle) (part := 0) hents' hbar hrun'
      exact halone.completes one_ne_zero (startLoad_fill_fault hi hbad) ((hfeeds one_ne_zero).trans hsame)
        ⟨otherBeads_trans hothers hbeads, hrec, hstop, hcode⟩
  · obtain rfl : q = 3 := Fin.ext hq
    obtain ⟨hbeads, hsame, hclasps, hentry⟩ := startS_sigOwn_leaves hents' hbar hi hindex hscope hlocal hadd
    exact halone.completes (by decide) rfl ((hfeeds (by decide)).trans hsame)
      ⟨otherBeads_trans hothers hbeads, hclasps, hentry⟩

end Sys2Proof.Proofs
end

section
/-! Proofs for chapters 9 and 10: requests issue and are translated. -/

namespace Sys2Proof.Proofs

open Sys2Proof Sys2Proof.Machine Sys2Proof.Laws

/-! ### What operations on a bead leave -/

section
variable {ps : List Part} {s t : State}

theorem beads_same (h : Keeps ps s t) (hp : Part.beads ∉ ps) : t.beads = s.beads := h.only.beads.resolve_left hp
theorem mem_same (h : Keeps ps s t) (hp : Part.mem ∉ ps) : t.mem = s.mem := h.only.mem.resolve_left hp
theorem mmu_same (h : Keeps ps s t) (hp : Part.mmu ∉ ps) : t.mmu = s.mmu := h.only.mmu.resolve_left hp
theorem bezels_same (h : Keeps ps s t) (hp : Part.bezels ∉ ps) : t.bezels = s.bezels := h.only.bezels.resolve_left hp

end

section
variable (s : State) (o : Nat)

theorem dmemWrite_beads (off : Nat) (l : List Byte) : (dmemWrite o off l s).beads = s.beads :=
  beads_same (keeps_dmemWrite o off l (.refl _ s) (sub_refl _)) (by decide)

theorem freeWatch_beads (n : Nat) : (freeWatch o n s).beads = s.beads :=
  beads_same (keeps_freeWatch o n (.refl _ s) (sub_refl _)) (by decide)

theorem recordInvalid_beads (addr form : Nat) : (recordInvalid o addr form s).beads = s.beads :=
  beads_same (keeps_recordInvalid o addr form (.refl _ s) (sub_refl _)) (by decide)

theorem sendFromBead_beads (m : Msg) : (sendFromBead o m s).beads = s.beads :=
  beads_same (keeps_sendFromBead o m (.refl _ s) (sub_refl _)) (by decide)

theorem xlatReq_mmu (id : Nat) : (xlatReq o id s).mmu = s.mmu :=
  mmu_same (keeps_xlatReq o id (.refl _ s) (sub_refl _)) (by decide)

theorem retryWalks_mmu : (retryWalks o s).mmu = s.mmu :=
  mmu_same (keeps_retryWalks o (.refl _ s) (sub_refl _)) (by decide)

theorem ownGran_beads (r : Req) (x : Req × State) (i : Nat) : (ownGran o r x i).2.beads = x.2.beads :=
  beads_same (keeps_ownGran o r i (.refl _ x.2) (sub_refl _)) (by decide)

theorem ownGrans_beads (r : Req) (x : Req × State) (l : List Nat) : (l.foldl (ownGran o r) x).2.beads = x.2.beads :=
  foldl_leaves (fun x : Req × State => x.2.beads) (ownGran_beads o r) l x

end

/-! ### The L1 and the requests of a bead -/

theorem l1Write_eq (dev : Nat) (c : Code) (mask : Word32) (b : Bead) :
    l1Write dev c mask b = { b with l1 := (l1Write dev c mask b).l1 } := by
  unfold l1Write
  split
  · rfl
  · split <;> rfl

theorem find?_modFirst {α : Type} {p : α → Bool} {f : α → α} (hf : ∀ x, p x = true → p (f x) = true) (l : List α) :
    (modFirst p f l).find? p = (l.find? p).map f := by
  induction l with
  | nil => rfl
  | cons a l ih =>
    unfold modFirst
    cases ha : p a with
    | true => simp [hf a ha, ha]
    | false => simp [ha, ih]

theorem findReq_modReq {id : Nat} {f : Req → Req} {b : Bead} {r : Req} (h : findReq b id = some r)
    (hf : ∀ r, (f r).id = r.id := by intro; rfl) : findReq (modReq id f b) id = some (f r) :=
  (find?_modFirst (fun r hr => by rwa [hf]) _).trans (by rw [← findReq, h]; rfl)

/-! ### A request issues -/

section
variable (s : State) (o : Nat)

/-- A message that leaves a bead changes no granule. -/
theorem sendFromBead_cells (m : Msg) : (sendFromBead o m s).mem.cells = s.mem.cells := by
  have hslice (i port : Nat) : (toSlice i port m s).mem.cells = s.mem.cells := by
    have hlooks : (xbarLooks (i / 4) m.data s).mem = s.mem :=
      foldl_leaves State.mem (fun _ _ => countLook_mem _ _ _) _ _
    simp only [toSlice, hlooks]
  unfold sendFromBead
  split
  · split
    · exact hslice _ _
    · rfl
  · rfl

end

section
variable {s : State} {o : Ord} {r : Req}

/-- The bead of a request that issues. -/
theorem issueReq_bead (s : State) (o : Nat) (r : Req) : ∃ turn ck, beadOf (issueReq o r s) o =
    { modReq r.id (fun x => { x with st := .issued, slot := some (freeSlot (beadOf s o)), parts := (reqParts s r).length })
        (beadOf s o) with strandRr := turn, reqCk := ck } := by
  unfold issueReq
  dsimp only
  rw [beadOf_congr (foldl_leaves State.beads (fun t _ => sendFromBead_beads t o _) _ _), beadOf_congr (countEv_beads _ _ _ _), beadOf_setBead]
  exact ⟨_, _, rfl⟩

theorem issueReq_others (s : State) (o : Nat) (r : Req) : OtherBeads o s (issueReq o r s) :=
  otherBeads_trans (otherBeads_setBead o _ s) (otherBeads_of_beads
    ((foldl_leaves State.beads (fun t _ => sendFromBead_beads t o _) _ _).trans (countEv_beads _ _ _ _)))

theorem issueReq_cells (s : State) (o : Nat) (r : Req) : (issueReq o r s).mem.cells = s.mem.cells :=
  (foldl_leaves (fun s : State => s.mem.cells) (fun t _ => sendFromBead_cells t o _) _ _).trans (congrArg Memory.cells (countEv_mem _ _ _ _))

end

/-! ### What a translation leaves of the micro-TLB -/

/-- Only bead `o` has changed, and its micro-TLB has lost no translation and grown by none. -/
structure TlbKept (o : Nat) (s t : State) : Prop where
  others : OtherBeads o s t
  keeps : ∀ x ∈ (beadOf s o).tlb, x ∈ (beadOf t o).tlb
  length : (beadOf t o).tlb.length ≤ (beadOf s o).tlb.length

section
variable {s t : State} {o : Nat}

theorem TlbKept.of_tlb (ho : OtherBeads o s t) (h : (beadOf t o).tlb = (beadOf s o).tlb) : TlbKept o s t :=
  ⟨ho, fun _ hx => h ▸ hx, h ▸ le_refl _⟩

theorem TlbKept.of_beads (h : t.beads = s.beads) : TlbKept o s t := .of_tlb (otherBeads_of_beads h) (by rw [beadOf_congr h])

theorem TlbKept.refl (o : Nat) (s : State) : TlbKept o s s := .of_beads rfl

theorem TlbKept.trans {u : State} (h : TlbKept o s t) (g : TlbKept o t u) : TlbKept o s u where
  others := otherBeads_trans h.others g.others
  keeps x hx := g.keeps x (h.keeps x hx)
  length := g.length.trans h.length

theorem TlbKept.ite {c : Prop} {_ : Decidable c} {u : State} (ht : TlbKept o s t) (hu : TlbKept o s u) :
    TlbKept o s (if c then t else u) := by
  split
  · exact ht
  · exact hu

theorem TlbKept.modBead {f : Bead → Bead} (h : TlbKept o s t) (hf : ∀ b, (f b).tlb = b.tlb := by intro; rfl) : TlbKept o s (modBead o f t) :=
  h.trans (.of_tlb (otherBeads_modBead o f t) (by rw [beadOf_modBead, hf]))

theorem TlbKept.setBead {b : Bead} (h : TlbKept o s t) (hb : b.tlb = (beadOf t o).tlb) : TlbKept o s (setBead o b t) :=
  h.trans (.of_tlb (otherBeads_setBead o b t) (by rw [beadOf_setBead, hb]))

theorem TlbKept.upd {u : State} (h : TlbKept o s t) (hu : u.beads = t.beads) : TlbKept o s u := h.trans (.of_beads hu)

/-! A fault of an entry or a strand leaves the micro-TLB. -/

theorem TlbKept.stopQueue (h : TlbKept o s t) (q : Nat) (e : QEntry) (code part addr : Nat) :
    TlbKept o s (stopQueue o q e code part addr t) := by
  obtain ⟨b, detail, hb, hstop⟩ := stopQueue_eq o q e code part addr t
  have hset : TlbKept o s (countEv o 0x0E 1 (Machine.setBead o b t)) := (h.setBead (by rw [hb]; rfl)).upd (countEv_beads _ _ _ _)
  rw [hstop]
  exact .ite (hset.upd (recordAt_beads _ _ _ _)) (hset.upd (recordAddr_beads _ _ _ _ _))

theorem TlbKept.settleHead (h : TlbKept o s t) (q : Nat) : TlbKept o s (settleHead o q t) := by
  unfold Machine.settleHead
  dsimp only
  split
  · split
    · exact .ite h (h.stopQueue _ _ _ _ _)
    · exact h
  · exact h

theorem TlbKept.failEntry (h : TlbKept o s t) (q id code part addr : Nat) :
    TlbKept o s (failEntry o q id code part addr t) :=
  .settleHead (.modBead h) q

theorem TlbKept.recordInvalid (h : TlbKept o s t) (addr form : Nat) : TlbKept o s (recordInvalid o addr form t) :=
  h.upd (recordInvalid_beads t o addr form)

theorem TlbKept.dmemWrite (h : TlbKept o s t) (off : Nat) (l : List Byte) : TlbKept o s (dmemWrite o off l t) :=
  h.upd (dmemWrite_beads t o off l)

theorem TlbKept.freeWatch (h : TlbKept o s t) (n : Nat) : TlbKept o s (freeWatch o n t) := h.upd (freeWatch_beads t o n)

theorem TlbKept.claspSignal (h : TlbKept o s t) (n k : Nat) : TlbKept o s (claspSignal o n k t) := h.upd rfl

theorem TlbKept.endStrand (h : TlbKept o s t) (n code : Nat) (stopped : Bool) :
    TlbKept o s (endStrand o n code stopped t) := by
  unfold Machine.endStrand
  dsimp only
  exact .freeWatch (.ite (.claspSignal (.dmemWrite (.modBead h) _ _) _ _) (.dmemWrite (.modBead h) _ _)) _

theorem TlbKept.settleStrand (h : TlbKept o s t) (n : Nat) : TlbKept o s (settleStrand o n t) := by
  unfold Machine.settleStrand
  refine .ite h ?_
  split
  · exact .ite h (.ite (.recordInvalid (h.endStrand _ _ _) _ _) ((h.endStrand _ _ _).upd (recordAddr_beads _ _ _ _ _)))
  · exact .ite (h.endStrand _ _ _) h

theorem TlbKept.failRun (h : TlbKept o s t) (n i code addr : Nat) : TlbKept o s (failRun o n i code addr t) :=
  .settleStrand (.modBead h) n

theorem TlbKept.hartFail (h : TlbKept o s t) (k : Nat) (write : Bool) (addr : Nat) (x : Xlat) :
    TlbKept o s (hartFail o k write addr x t) := by
  unfold Machine.hartFail
  exact .ite (.recordInvalid (.modBead h) _ _) (.modBead h)

/-- A failed translation, whoever made the request. -/
theorem TlbKept.reqFail (h : TlbKept o s t) (r : Req) (dev : Nat) (x : Xlat) : TlbKept o s (reqFail o r dev x t) := by
  have hdrop : TlbKept o s (Machine.modBead o (dropReq r.id) t) := h.modBead
  have hrec (u : State) (hu : TlbKept o s u) : TlbKept o s (if x = .invalid then Machine.recordInvalid o dev 0 u else u) :=
    .ite (hu.recordInvalid _ _) hu
  unfold Machine.reqFail
  dsimp only
  split
  case h_1 | h_2 | h_3 => exact hdrop.hartFail _ _ _ _
  case h_4 | h_5 | h_7 => exact hrec _ (hdrop.failEntry _ _ _ _ _)
  case h_6 => exact hrec _ (hdrop.modBead)
  case h_8 | h_9 => exact hdrop.failRun _ _ _ _
  case h_10 | h_11 | h_12 => exact hdrop

/-! A request that is translated uses translations. -/

theorem tlbUse_perm (dev : Nat) (b : Bead) :
    (∀ x ∈ b.tlb, x ∈ (tlbUse dev b).tlb) ∧ (tlbUse dev b).tlb.length ≤ b.tlb.length := by
  unfold tlbUse
  split
  · exact ⟨fun _ hx => hx, le_refl _⟩
  · rename_i e he
    have hmem : e ∈ b.tlb := List.mem_of_find?_eq_some he
    refine ⟨fun x hx => ?_, ?_⟩
    · by_cases hxe : x = e
      · simp [hxe]
      · simp [hx, hxe]
    · have hlt : (b.tlb.filter fun x => x != e).length < b.tlb.length :=
        List.length_filter_lt_length_iff_exists.2 ⟨e, hmem, by simp⟩
      simpa using hlt

theorem tlbUses_perm {α : Type} (f : α → Nat) (l : List α) (b : Bead) :
    (∀ x ∈ b.tlb, x ∈ (l.foldl (fun b p => tlbUse (f p) b) b).tlb) ∧
      (l.foldl (fun b p => tlbUse (f p) b) b).tlb.length ≤ b.tlb.length := by
  induction l generalizing b with
  | nil => exact ⟨fun _ hx => hx, le_refl _⟩
  | cons p l ih =>
    obtain ⟨hmem, hlen⟩ := tlbUse_perm (f p) b
    obtain ⟨hmem', hlen'⟩ := ih (tlbUse (f p) b)
    exact ⟨fun x hx => hmem' x (hmem x hx), hlen'.trans hlen⟩

theorem l1Write_tlb (dev : Nat) (c : Code) (mask : Word32) (b : Bead) : (l1Write dev c mask b).tlb = b.tlb := by
  rw [l1Write_eq]

theorem writeThrough_tlb (r : Req) (b : Bead) : (writeThrough r b).tlb = b.tlb := by
  unfold writeThrough
  split
  · rw [l1Write_tlb]
    rfl
  · rfl
  · split
    · exact upTo_leaves Bead.tlb (fun b i => l1Write_tlb _ _ _ b) _ _
    · rfl

theorem TlbKept.reqReady (h : TlbKept o s t) (r : Req) : TlbKept o s (reqReady o r t) := by
  unfold Machine.reqReady
  dsimp only
  generalize hx : List.foldl _ _ _ = x
  have hbeads : x.2.beads = t.beads := by rw [← hx, ownGrans_beads]
  have hperm := tlbUses_perm Prod.fst (xlatDevs o (lineFill t o r)) (beadOf x.2 o)
  refine (h.upd hbeads).trans ⟨otherBeads_setBead _ _ _, ?_, ?_⟩
  all_goals rw [beadOf_setBead, writeThrough_tlb]
  · exact hperm.1
  · exact hperm.2

theorem TlbKept.xlatReq (h : TlbKept o s t) (id : Nat) : TlbKept o s (xlatReq o id t) := by
  unfold Machine.xlatReq
  split
  · exact h
  · split
    · exact .upd (.modBead h) (countEv_beads _ _ _ _)
    · exact h.reqFail _ _ _
    · exact h.reqReady _

theorem TlbKept.retryWalks (h : TlbKept o s t) : TlbKept o s (retryWalks o t) := by
  have hfold (l : List Req) (u : State) (hu : TlbKept o s u) : TlbKept o s (l.foldl (fun t r =>
      match findReq (beadOf t o) r.id with
      | some x => if x.st == .walk && (firstMiss t o x).isNone then Machine.xlatReq o x.id t else t
      | none => t) u) := by
    induction l generalizing u with
    | nil => exact hu
    | cons r l ih =>
      refine ih _ ?_
      dsimp only
      split
      · exact .ite (hu.xlatReq _) hu
      · exact hu
  exact hfold _ t h

end

/-! ### Walks -/

section
variable {s : State} {cl : Nat}

/-- A cluster's walker with other walks in flight. -/
def setWalks (cl : Nat) (l : List Walk) (s : State) : State :=
  { s with mmu := { s.mmu with walks := tblSet [] s.mmu.walks cl l } }

theorem walksOf_setWalks (l : List Walk) (s : State) (cl : Nat) : walksOf (setWalks cl l s) cl = l := tblGet_tblSet_same _ _ _ _

theorem walksOf_setWalks_other {cl' : Nat} (l : List Walk) (s : State) (h : cl' ≠ cl) :
    walksOf (setWalks cl l s) cl' = walksOf s cl' :=
  tblGet_tblSet_other _ _ _ _ _ h

theorem walksOf_congr {t : State} (h : t.mmu = s.mmu) : walksOf t cl = walksOf s cl := by rw [walksOf, walksOf, h]

/-- A translation that is cached serves what waits for it and stays (R327). -/
theorem tlbKept_walkEnd {w : Walk} {x : TlbEntry} (hres : w.res = some x) (hcached : w.cached = true) (s : State) :
    TlbKept w.bead.val (modBead w.bead.val (tlbAdd x) s) (walkEnd w s) := by
  rw [walkEnd, hres]
  dsimp only
  rw [if_pos hcached]
  exact .retryWalks (.xlatReq (.refl _ _) _)

theorem walkEnd_cached_mmu {w : Walk} {x : TlbEntry} (hres : w.res = some x) (hcached : w.cached = true) (s : State) :
    (walkEnd w s).mmu = s.mmu := by
  rw [walkEnd, hres]
  dsimp only
  rw [if_pos hcached, retryWalks_mmu, xlatReq_mmu, modBead_mmu]

theorem mem_tlbAdd (x : TlbEntry) (b : Bead) : x ∈ (tlbAdd x b).tlb := by simp [tlbAdd]

theorem length_tlbAdd (x : TlbEntry) (b : Bead) : (tlbAdd x b).tlb.length ≤ 32 := List.length_take_le _ _

/-- A walk that fails traps the hart whose load waits for it (R47, R323). -/
theorem walkEnd_load_fails {w : Walk} {r : Req} {h : HartN} (hres : w.res = none)
    (hreq : findReq (beadOf s w.bead.val) w.req = some r) (howner : r.owner = .hartLoad h) :
    walkEnd w s = modBead w.bead.val (modHart h.val (takeTrap false 13 (BitVec.ofNat 64 r.bytes)))
      (modBead w.bead.val (dropReq r.id) s) := by
  rw [walkEnd, hres]
  dsimp only
  rw [hreq]
  simp only [reqFail, howner]
  rfl

end

/-- Settles O34. A request that issues is the one chosen; a walk is listed at its walker; a failed walk traps its load; a
translation that is cached is never lost by the requests that it lets go on. -/
theorem requestsIssueAndAreTranslated : Obligations.RequestsIssueAndAreTranslated := by
  unfold Obligations.RequestsIssueAndAreTranslated
  refine ⟨fun s o r hruns hhold hrow hasks hchoose hfind hparts => ?_,
    fun s o req dev r hup hfind hst hmiss hroom => ?_,
    fun s cl w rest hup hwalks => ⟨fun r h hres hfind howner => ?_, fun x hres hcached => ?_⟩⟩
  · have hexec : exec (.requestIssue o) s = .next (issueReq o.val r s) := by
      change execRequestIssue o s = _
      simp only [execRequestIssue, hrow, hasks, hruns, holding, hhold, hchoose, issueBest, issueNow, hparts]
      rfl
    obtain ⟨turn, ck, hbead⟩ := issueReq_bead s o.val r
    refine completes_of_exec hexec ⟨issueReq_others s o.val r, fun g => ?_, ?_, ?_, ?_⟩
    · rw [codeAt, codeAt, issueReq_cells]
    · rw [hbead]
      exact findReq_modReq (f := fun x =>
        { x with st := .issued, slot := some (freeSlot (beadOf s o.val)), parts := (reqParts s r).length }) hfind
    · rw [hbead]
      rfl
    · rw [hbead]
      rfl
  · let w : Walk := { bead := o, req := req, gran := dev, res := walkDev s (facetOf o.val) dev }
    have hexec : exec (.pageWalk o req) s = .next (setWalks (clusterOf o.val) (walksOf s (clusterOf o.val) ++ [w])
        (modBead o.val (modReq req fun r => { r with st := .walking }) s)) := by
      change execPageWalk o req s = _
      have hwaits : (findReq (beadOf s o.val) req).filter (fun r => r.st == .walk) = some r := by
        rw [hfind, Option.filter_some, hst]
        rfl
      simp only [execPageWalk, hwaits, hmiss]
      exact whenOk_of s (by rw [mainUp, hup, decide_eq_true hroom]; rfl) _
    refine completes_of_exec hexec ⟨otherBeads_modBead _ _ s, ?_, fun c hc => walksOf_setWalks_other _ _ hc,
      w, walksOf_setWalks _ _ _, rfl, rfl, rfl⟩
    exact (congrArg (findReq · req) (beadOf_modBead s o.val _)).trans (findReq_modReq hfind)
  all_goals
    have hexec : exec (.pageWalkComplete cl) s = .next (walkEnd w (setWalks cl.val rest s)) := by
      change execPageWalkComplete cl s = _
      rw [execPageWalkComplete, hwalks]
      exact whenOk_of s hup _
    refine completes_of_exec hexec ?_
  · rw [walkEnd_load_fails (s := setWalks cl.val rest s) hres hfind howner]
    refine ⟨walksOf_setWalks _ s _, otherBeads_trans (otherBeads_modBead _ _ _) (otherBeads_modBead _ _ _), ?_⟩
    rw [beadOf_modBead, hartOf_modHart, beadOf_modBead]
    rfl
  · have hkept := tlbKept_walkEnd hres hcached (setWalks cl.val rest s)
    refine ⟨(walksOf_congr (walkEnd_cached_mmu hres hcached _)).trans (walksOf_setWalks _ s _),
      otherBeads_trans (otherBeads_modBead _ _ _) hkept.others, hkept.keeps x ?_, hkept.length.trans ?_⟩
    all_goals rw [beadOf_modBead]
    · exact mem_tlbAdd _ _
    · exact length_tlbAdd _ _

end Sys2Proof.Proofs
end

section
/-! The granule code of chapter 11: a code word is its 36 symbols, and a corrected one is clean. -/

namespace Sys2Proof.Proofs

open Sys2Proof Sys2Proof.Machine Sys2Proof.Laws

/-! ### Bytes of a number -/

theorem ofBytes_lt (l : List Byte) : ofBytes l < 256 ^ l.length := by
  induction l with
  | nil => exact Nat.one_pos
  | cons b l ih =>
    have hb : b.toNat < 256 := b.isLt
    have hcons : ofBytes (b :: l) = b.toNat + 256 * ofBytes l := rfl
    rw [hcons, List.length_cons, pow_succ]
    omega

/-- A number's bytes spell it. -/
theorem ofBytes_digits (n k : Nat) : ofBytes ((List.range k).map fun i => BitVec.ofNat 8 (n / 256 ^ i)) = n % 256 ^ k := by
  induction k generalizing n with
  | zero => simp [ofBytes, Nat.mod_one]
  | succ k ih =>
    have htail : ((List.range k).map fun i => BitVec.ofNat 8 (n / 256 ^ (i + 1))) =
        (List.range k).map fun i => BitVec.ofNat 8 (n / 256 / 256 ^ i) :=
      List.map_congr_left fun i _ => by rw [Nat.div_div_eq_div_mul, ← pow_succ']
    rw [List.range_succ_eq_map, List.map_cons, List.map_map]
    change (BitVec.ofNat 8 (n / 256 ^ 0)).toNat + 256 * ofBytes ((List.range k).map fun i => BitVec.ofNat 8 (n / 256 ^ (i + 1))) = _
    rw [htail, ih, pow_zero, Nat.div_one, pow_succ']
    exact Nat.mod_mul.symm

/-- Byte `i` of the number that bytes spell. -/
theorem ofBytes_div_mod (l : List Byte) (i : Nat) : ofBytes l / 256 ^ i % 256 = (l.getD i 0).toNat := by
  induction l generalizing i with
  | nil => simp [ofBytes]
  | cons b l ih =>
    have hb : b.toNat < 256 := b.isLt
    have hcons : ofBytes (b :: l) = b.toNat + 256 * ofBytes l := rfl
    rw [hcons]
    cases i with
    | zero => simp; omega
    | succ i =>
      rw [pow_succ', ← Nat.div_div_eq_div_mul, show (b.toNat + 256 * ofBytes l) / 256 = ofBytes l by omega, ih]
      rfl

/-! ### A code word and its symbols -/

theorem codeSym_lt (c : Code) (j : Nat) : codeSym c j < 256 := by
  unfold codeSym bitsOf
  split <;> exact Nat.mod_lt _ (by decide)

theorem symsOf_length (c : Code) : (symsOf c).length = 36 := by simp [symsOf]

theorem symsOf_lt (c : Code) : ∀ v ∈ symsOf c, v < 256 := by
  simp only [symsOf, List.mem_map]
  rintro v ⟨j, -, rfl⟩
  exact codeSym_lt c j

theorem codeWord_size : 2 ^ 288 = 256 ^ 36 := pow_mul 2 8 36

/-- Byte `i` of a code word is the symbol 4 places on: the check symbols come last (R382). -/
theorem codeSym_turned (c : Code) {i : Nat} (hi : i < 36) : codeSym c ((i + 4) % 36) = c.toNat / 256 ^ i % 256 := by
  have hpow : 256 ^ i = 2 ^ (8 * i) := (pow_mul 2 8 i).symm
  unfold codeSym bitsOf
  rw [hpow]
  split
  · rename_i hlt
    have hplace : 256 + 8 * ((i + 4) % 36) = 8 * i := by omega
    rw [hplace]
    rfl
  · rename_i hge
    have hplace : 8 * ((i + 4) % 36 - 4) = 8 * i := by omega
    rw [hplace]
    rfl

theorem getD_turned {α : Type} (d : α) {l : List α} (hlen : l.length = 36) {i : Nat} (hi : i < 36) :
    (l.drop 4 ++ l.take 4).getD i d = l.getD ((i + 4) % 36) d := by
  simp only [List.getD_eq_getElem?_getD]
  by_cases h : i < 32
  · rw [List.getElem?_append_left (by simp [hlen]; omega), List.getElem?_drop, Nat.mod_eq_of_lt (by omega), Nat.add_comm]
  · rw [List.getElem?_append_right (by simp [hlen]; omega), List.getElem?_take, List.length_drop, hlen,
      if_pos (by omega)]
    congr 2
    omega

/-- A code word is spelt by its data symbols, then its check symbols. -/
theorem ofSyms_symsOf (c : Code) : ofSyms (symsOf c) = c := by
  have hbytes : ((symsOf c).drop 4 ++ (symsOf c).take 4).map (BitVec.ofNat 8) =
      (List.range 36).map fun i => BitVec.ofNat 8 (c.toNat / 256 ^ i) := by
    refine List.ext_getElem (by simp [symsOf_length]) fun i hi _ => ?_
    have hi36 : i < 36 := by simpa [symsOf_length] using hi
    have hmem := getD_turned 0 (symsOf_length c) hi36
    rw [List.getD_eq_getElem _ _ (by simpa using hi), List.getD_eq_getElem _ _ (by rw [symsOf_length]; omega)] at hmem
    rw [List.getElem_map, hmem]
    simp only [symsOf, List.getElem_map, List.getElem_range, codeSym_turned c hi36]
    exact BitVec.eq_of_toNat_eq (by simp)
  have hlt : c.toNat < 256 ^ 36 := lt_of_lt_of_eq c.isLt codeWord_size
  apply BitVec.eq_of_toNat_eq
  rw [ofSyms, hbytes, ofBytes_digits, BitVec.toNat_ofNat, Nat.mod_eq_of_lt hlt, Nat.mod_eq_of_lt c.isLt]

/-- A code word made of symbols has them. -/
theorem symsOf_ofSyms {l : List Nat} (hlen : l.length = 36) (hl : ∀ v ∈ l, v < 256) : symsOf (ofSyms l) = l := by
  refine List.ext_getElem (by rw [symsOf_length, hlen]) fun j hj hjl => ?_
  have hj36 : j < 36 := by rwa [symsOf_length] at hj
  obtain ⟨i, hi, rfl⟩ : ∃ i < 36, (i + 4) % 36 = j := ⟨(j + 32) % 36, by omega, by omega⟩
  have hlt : ofBytes ((l.drop 4 ++ l.take 4).map (BitVec.ofNat 8)) < 2 ^ 288 :=
    lt_of_lt_of_eq (ofBytes_lt _) (by rw [codeWord_size, List.length_map]; simp [hlen])
  have hbyte := ofBytes_div_mod ((l.drop 4 ++ l.take 4).map (BitVec.ofNat 8)) i
  rw [show (0 : Byte) = BitVec.ofNat 8 0 from rfl, List.getD_map, getD_turned 0 hlen hi, List.getD_eq_getElem _ _ hjl] at hbyte
  simp only [symsOf, List.getElem_map, List.getElem_range]
  rw [codeSym_turned _ hi, ofSyms, BitVec.toNat_ofNat, Nat.mod_eq_of_lt hlt, hbyte, BitVec.toNat_ofNat]
  exact Nat.mod_eq_of_lt (hl _ (List.getElem_mem _))

/-- A stored code word is read back (R48). -/
theorem codeAt_codePut_same (m : Memory) (g : Nat) (c : Code) : codeAt (codePut m g c) g = c := by
  have hsyms : ((List.range 36).map fun j => (cellAt (codePut m g c).cells (36 * g + j)).toNat) = symsOf c := by
    refine List.map_congr_left fun j hj => ?_
    rw [cellAt_codePut m g c g j (by simpa using hj), if_pos rfl, BitVec.toNat_ofNat]
    exact Nat.mod_eq_of_lt (codeSym_lt c j)
  rw [codeAt, hsyms, ofSyms_symsOf]

/-! ### Bytes under exclusive or -/

/-- What holds of 0 and of each single bit, and of the sum of two bytes of which it holds, holds of every byte. -/
theorem byte_induction {p : Nat → Prop} (h0 : p 0) (hbit : ∀ k < 8, p (2 ^ k))
    (hxor : ∀ a b, a < 256 → b < 256 → p a → p b → p (a ^^^ b)) : ∀ a < 256, p a := by
  have hlow (n : Nat) (hn : n ≤ 8) : ∀ a < 2 ^ n, p a := by
    induction n with
    | zero => intro a ha; rwa [Nat.lt_one_iff.1 ha]
    | succ n ih =>
      intro a ha
      have hpow : 2 ^ n ≤ 2 ^ 7 := Nat.pow_le_pow_right (by decide) (by omega)
      by_cases h : a < 2 ^ n
      · exact ih (by omega) a h
      · have htop : a.testBit n = true := by
          rw [Nat.testBit_eq_decide_div_mod_eq, Nat.div_eq_of_lt_le (k := 1) (by omega) (by rw [pow_succ] at ha; omega)]
          rfl
        have hrest : 2 ^ n ^^^ a < 2 ^ n := by
          refine Nat.lt_pow_two_of_testBit _ fun i hi => ?_
          rw [Nat.testBit_xor, Nat.testBit_two_pow]
          rcases hi.eq_or_lt with rfl | hi
          · simp [htop]
          · rw [Nat.testBit_lt_two_pow (lt_of_lt_of_le ha (Nat.pow_le_pow_right (by decide) hi))]
            simp [Nat.ne_of_lt hi]
        rw [← Nat.xor_xor_cancel_left (2 ^ n) a]
        exact hxor _ _ (by omega) (by omega) (hbit n (by omega)) (ih (by omega) _ hrest)
  exact hlow 8 (le_refl 8)

/-! ### The field of 256 elements -/

theorem gfDbl_lt : ∀ a < 256, gfDbl a < 256 := by decide +kernel

theorem gfDbl_xor {a b : Nat} (ha : a < 256) (hb : b < 256) : gfDbl (a ^^^ b) = gfDbl a ^^^ gfDbl b := by
  have hform (a : Nat) (ha : a < 256) : gfDbl a = 2 * a ^^^ if a / 2 ^ 7 = 1 then 0x11D else 0 := by
    unfold gfDbl
    by_cases h : a < 128
    · rw [if_pos h, if_neg (by omega), Nat.xor_zero]
    · rw [if_neg h, if_pos (by omega)]
  have hdouble : 2 * (a ^^^ b) = 2 * a ^^^ 2 * b := by
    have h := Nat.shiftLeft_xor_distrib (i := 1) (a := a) (b := b)
    simpa only [Nat.shiftLeft_eq, pow_one, Nat.mul_comm _ 2] using h
  have htop (c : Nat) (hc : c < 256) : c / 2 ^ 7 = 0 ∨ c / 2 ^ 7 = 1 := by omega
  rw [hform _ (Nat.xor_lt_two_pow (n := 8) ha hb), hform a ha, hform b hb, hdouble, Nat.xor_div_two_pow]
  rcases htop a ha with h | h <;> rcases htop b hb with h' | h' <;> rw [h, h']
  · simp
  · simp [Nat.xor_assoc]
  · simp [Nat.xor_assoc, Nat.xor_comm (2 * b)]
  · simp [Nat.xor_assoc]

theorem gfMulBits_zero_right (n a : Nat) : gfMulBits n a 0 = 0 := by
  induction n generalizing a with
  | zero => rfl
  | succ n ih => simp [gfMulBits, ih]

theorem gfMulBits_lt {n a b : Nat} (ha : a < 256) : gfMulBits n a b < 256 := by
  induction n generalizing a b with
  | zero => simp [gfMulBits]
  | succ n ih =>
    refine Nat.xor_lt_two_pow (n := 8) ?_ (ih (gfDbl_lt a ha))
    split
    · exact ha
    · decide

theorem gfMulBits_xor_right (n a b c : Nat) : gfMulBits n a (b ^^^ c) = gfMulBits n a b ^^^ gfMulBits n a c := by
  induction n generalizing a b c with
  | zero => exact (Nat.xor_self 0).symm
  | succ n ih =>
    simp only [gfMulBits, Nat.xor_div_two, ih, Nat.xor_mod_two_eq]
    rcases Nat.mod_two_eq_zero_or_one b with hb | hb <;> rcases Nat.mod_two_eq_zero_or_one c with hc | hc <;>
      simp [Nat.add_mod, hb, hc, Nat.xor_assoc, Nat.xor_left_comm]

theorem gfMulBits_xor_left (n : Nat) {a b : Nat} (c : Nat) (ha : a < 256) (hb : b < 256) :
    gfMulBits n (a ^^^ b) c = gfMulBits n a c ^^^ gfMulBits n b c := by
  induction n generalizing a b c with
  | zero => exact (Nat.xor_self 0).symm
  | succ n ih =>
    simp only [gfMulBits, gfDbl_xor ha hb, ih _ (gfDbl_lt a ha) (gfDbl_lt b hb)]
    split
    · simp [Nat.xor_assoc, Nat.xor_left_comm]
    · simp

section
variable {a b c : Nat}

theorem gfMul_lt (ha : a < 256) : gfMul a b < 256 := gfMulBits_lt ha

theorem gfMul_xor_right (a b c : Nat) : gfMul a (b ^^^ c) = gfMul a b ^^^ gfMul a c := gfMulBits_xor_right 8 a b c

theorem gfMul_xor_left (ha : a < 256) (hb : b < 256) (c : Nat) : gfMul (a ^^^ b) c = gfMul a c ^^^ gfMul b c :=
  gfMulBits_xor_left 8 c ha hb

theorem gfMul_zero_right (a : Nat) : gfMul a 0 = 0 := gfMulBits_zero_right 8 a

theorem gfMul_zero_left (b : Nat) : gfMul 0 b = 0 := by
  have h := gfMul_xor_left (a := 0) (b := 0) (by decide) (by decide) b
  rwa [Nat.xor_self, Nat.xor_self] at h

/-- Two products of two bytes that are sums in each byte agree where they agree on single bits. -/
theorem bilinear_ext {f g : Nat → Nat → Nat} (hbit : ∀ k < 8, ∀ j < 8, f (2 ^ k) (2 ^ j) = g (2 ^ k) (2 ^ j))
    (hf0 : ∀ b, f 0 b = 0) (hg0 : ∀ b, g 0 b = 0) (hf0' : ∀ a, f a 0 = 0) (hg0' : ∀ a, g a 0 = 0)
    (hfl : ∀ a < 256, ∀ b < 256, ∀ c < 256, f (a ^^^ b) c = f a c ^^^ f b c)
    (hgl : ∀ a < 256, ∀ b < 256, ∀ c < 256, g (a ^^^ b) c = g a c ^^^ g b c)
    (hfr : ∀ a < 256, ∀ b < 256, ∀ c < 256, f a (b ^^^ c) = f a b ^^^ f a c)
    (hgr : ∀ a < 256, ∀ b < 256, ∀ c < 256, g a (b ^^^ c) = g a b ^^^ g a c) :
    ∀ a < 256, ∀ b < 256, f a b = g a b := by
  refine byte_induction (fun b _ => by rw [hf0, hg0]) (fun k hk => ?_) fun x y hx hy ihx ihy b hb => ?_
  · have hpow : 2 ^ k < 256 := Nat.pow_lt_pow_right (n := 8) (by decide) hk
    refine byte_induction (by rw [hf0', hg0']) (hbit k hk) fun x y hx hy ihx ihy => ?_
    rw [hfr _ hpow x hx y hy, hgr _ hpow x hx y hy, ihx, ihy]
  · rw [hfl x hx y hy b hb, hgl x hx y hy b hb, ihx b hb, ihy b hb]

theorem gfMul_comm (ha : a < 256) (hb : b < 256) : gfMul a b = gfMul b a :=
  bilinear_ext (f := gfMul) (g := fun a b => gfMul b a) (by decide) gfMul_zero_left gfMul_zero_right gfMul_zero_right
    gfMul_zero_left (fun _ ha _ hb c _ => gfMul_xor_left ha hb c) (fun a _ b _ c _ => gfMul_xor_right c a b)
    (fun a _ b _ c _ => gfMul_xor_right a b c) (fun a _ _ hb _ hc => gfMul_xor_left hb hc a) a ha b hb

/-- A product with a single bit, by doublings. -/
theorem gfMul_assoc (ha : a < 256) (hb : b < 256) (hc : c < 256) : gfMul (gfMul a b) c = gfMul a (gfMul b c) := by
  refine byte_induction (p := fun c => gfMul (gfMul a b) c = gfMul a (gfMul b c)) ?_ (fun k hk => ?_)
    (fun x y _ _ hx hy => ?_) c hc
  · rw [gfMul_zero_right, gfMul_zero_right, gfMul_zero_right]
  · exact bilinear_ext (f := fun a b => gfMul (gfMul a b) (2 ^ k)) (g := fun a b => gfMul a (gfMul b (2 ^ k)))
      ((by decide : ∀ k < 8, ∀ i < 8, ∀ j < 8,
        gfMul (gfMul (2 ^ i) (2 ^ j)) (2 ^ k) = gfMul (2 ^ i) (gfMul (2 ^ j) (2 ^ k))) k hk)
      (fun b => by simp only [gfMul_zero_left]) (fun b => gfMul_zero_left _)
      (fun a => by simp only [gfMul_zero_right, gfMul_zero_left]) (fun a => by simp only [gfMul_zero_left, gfMul_zero_right])
      (fun a ha b hb c _ => by simp only [gfMul_xor_left ha hb, gfMul_xor_left (gfMul_lt ha) (gfMul_lt hb)])
      (fun a ha b hb c _ => gfMul_xor_left ha hb _)
      (fun a ha b _ c _ => by simp only [gfMul_xor_right, gfMul_xor_left (gfMul_lt ha) (gfMul_lt ha)])
      (fun a _ b hb c hc => by simp only [gfMul_xor_left hb hc, gfMul_xor_right]) a ha b hb
  · rw [gfMul_xor_right, gfMul_xor_right, gfMul_xor_right, hx, hy]

theorem gfMul_one_right (ha : a < 256) : gfMul a 1 = a := by
  refine byte_induction (p := fun a => gfMul a 1 = a) (by decide) (by decide) (fun x y hx hy ihx ihy => ?_) a ha
  rw [gfMul_xor_left hx hy, ihx, ihy]

theorem gfMul_one_left (ha : a < 256) : gfMul 1 a = a := by rw [gfMul_comm (by decide) ha, gfMul_one_right ha]

theorem gfMul_left_comm (ha : a < 256) (hb : b < 256) (hc : c < 256) : gfMul a (gfMul b c) = gfMul b (gfMul a c) := by
  rw [← gfMul_assoc ha hb hc, gfMul_comm ha hb, gfMul_assoc hb ha hc]

theorem gfPow_lt (ha : a < 256) (n : Nat) : gfPow a n < 256 := by
  cases n with
  | zero => exact (by decide : 1 < 256)
  | succ n => exact gfMul_lt ha

theorem gfPow_add (ha : a < 256) (m n : Nat) : gfPow a (m + n) = gfMul (gfPow a m) (gfPow a n) := by
  induction m with
  | zero => rw [Nat.zero_add, gfPow, gfMul_one_left (gfPow_lt ha n)]
  | succ m ih => rw [Nat.succ_add, gfPow, gfPow, ih, gfMul_assoc ha (gfPow_lt ha m) (gfPow_lt ha n)]

theorem gfPow_mul (ha : a < 256) (m n : Nat) : gfPow a (m * n) = gfPow (gfPow a m) n := by
  induction n with
  | zero => rfl
  | succ n ih => rw [Nat.mul_succ, Nat.add_comm, gfPow_add ha, ih, gfPow]

theorem gfPow_comm (ha : a < 256) (m n : Nat) : gfPow (gfPow a m) n = gfPow (gfPow a n) m := by
  rw [← gfPow_mul ha, ← gfPow_mul ha, Nat.mul_comm]

/-- The power of twice an exponent, and one. -/
def gfNext (a x : Nat) : Nat := gfMul a (gfMul x x)

theorem gfPow_double_succ (ha : a < 256) (n : Nat) : gfPow a (2 * n + 1) = gfNext a (gfPow a n) := by
  rw [gfPow, Nat.two_mul, gfPow_add ha, gfNext]

/-- The 255th power of every element but 0 is 1. -/
theorem gfNext_eight : ∀ a < 256, a ≠ 0 → upTo 8 (fun x _ => gfNext a x) 1 = 1 := by decide +kernel

/-- An element times its inverse (R383). -/
theorem gfMul_gfInv (ha : a < 256) (h0 : a ≠ 0) : gfMul a (gfInv a) = 1 := by
  have hpow (n : Nat) : gfPow a (2 ^ n - 1) = upTo n (fun x _ => gfNext a x) 1 := by
    induction n with
    | zero => rfl
    | succ n ih =>
      have hexp : 2 ^ (n + 1) - 1 = 2 * (2 ^ n - 1) + 1 := by
        have := Nat.one_le_two_pow (n := n)
        rw [pow_succ]
        omega
      rw [upTo_succ, ← ih, hexp, gfPow_double_succ ha]
  exact (hpow 8).trans (gfNext_eight a ha h0)

end

end Sys2Proof.Proofs
end

section
/-! The granule code of chapter 11: what a checking point restores decodes clean (R385, R386). -/

namespace Sys2Proof.Proofs

open Sys2Proof Sys2Proof.Machine Sys2Proof.Laws

/-! ### Syndromes -/

/-- The polynomial whose coefficients are a list of symbols, at `x`. -/
def symsAt (x : Nat) (l : List Nat) : Nat := l.foldr (fun s acc => s ^^^ gfMul x acc) 0

theorem symsAt_lt {x : Nat} (hx : x < 256) {l : List Nat} (hl : ∀ v ∈ l, v < 256) : symsAt x l < 256 := by
  cases l with
  | nil => exact (by decide : 0 < 256)
  | cons s l => exact Nat.xor_lt_two_pow (n := 8) (hl s (by simp)) (gfMul_lt hx)

/-- A symbol that changes adds its change, at its power. -/
theorem symsAt_set {x e : Nat} (hx : x < 256) (he : e < 256) {l : List Nat} (hl : ∀ v ∈ l, v < 256) {j : Nat}
    (hj : j < l.length) : symsAt x (l.set j (l.getD j 0 ^^^ e)) = symsAt x l ^^^ gfMul e (gfPow x j) := by
  induction l generalizing j with
  | nil => simp at hj
  | cons s l ih =>
    have hl' : ∀ v ∈ l, v < 256 := fun v hv => hl v (by simp [hv])
    cases j with
    | zero =>
      change (s ^^^ e) ^^^ gfMul x (symsAt x l) = (s ^^^ gfMul x (symsAt x l)) ^^^ gfMul e 1
      rw [gfMul_one_right he, Nat.xor_assoc, Nat.xor_assoc, Nat.xor_comm e]
    | succ j =>
      change s ^^^ gfMul x (symsAt x (l.set j (l.getD j 0 ^^^ e))) = (s ^^^ gfMul x (symsAt x l)) ^^^ gfMul e (gfMul x (gfPow x j))
      rw [ih hl' (by simpa using hj), gfMul_xor_right, gfMul_left_comm hx he (gfPow_lt hx j), Nat.xor_assoc]

theorem syndAt_eq (c : Code) (i : Nat) : syndAt c i = symsAt (gfPow 2 i) (symsOf c) := rfl

theorem syndAt_lt (c : Code) (i : Nat) : syndAt c i < 256 := symsAt_lt (gfPow_lt (by decide) i) (symsOf_lt c)

theorem nth_syndrome (c : Code) {i : Nat} (hi : i < 4) : nth 0 (syndrome c) i = syndAt c i := by
  simp [nth, syndrome, hi]

theorem syndrome_eq_zero {c : Code} (h : ∀ i < 4, syndAt c i = 0) : syndrome c = [0, 0, 0, 0] := by
  rw [syndrome, List.map_congr_left (g := fun _ => 0) fun i hi => h i (by simpa using hi)]
  rfl

/-- A symbol changed by `e` changes the syndromes by the powers of its place times `e`. -/
theorem syndAt_fixSym (c : Code) {j e : Nat} (hj : j < 36) (he : e < 256) (i : Nat) :
    syndAt (fixSym c j e) i = syndAt c i ^^^ gfMul e (gfPow (gfPow 2 j) i) := by
  have hl := symsOf_lt c
  have hlen := symsOf_length c
  have hlt : nth 0 (symsOf c) j ^^^ e < 256 := by
    refine Nat.xor_lt_two_pow (n := 8) ?_ he
    rw [nth, List.getD_eq_getElem _ _ (by omega)]
    exact hl _ (List.getElem_mem _)
  have hsyms : symsOf (fixSym c j e) = (symsOf c).set j ((symsOf c).getD j 0 ^^^ e) := by
    refine symsOf_ofSyms (by simp [setNth, hlen]) fun v hv => ?_
    rcases List.mem_or_eq_of_mem_set hv with hv | rfl
    · exact hl v hv
    · exact hlt
  rw [syndAt_eq, hsyms, symsAt_set (gfPow_lt (by decide) i) he hl (by omega), ← syndAt_eq, gfPow_comm (by decide)]

theorem gfPow_two {x : Nat} (hx : x < 256) : gfPow x 2 = gfMul x x := by
  rw [gfPow, gfPow, gfPow, gfMul_one_right hx]

theorem gfPow_three {x : Nat} (hx : x < 256) : gfPow x 3 = gfMul x (gfMul x x) := by
  rw [gfPow, gfPow_two hx]

/-! ### Errors that a checking point finds -/

section
variable {c : Code} {j k e f : Nat}

/-- One error found is the word's only one. -/
theorem syndrome_oneError (h : oneError (syndrome c) = some (j, e)) : syndrome (fixSym c j e) = [0, 0, 0, 0] := by
  unfold oneError at h
  split at h
  · cases h
  · rw [Option.map_eq_some_iff] at h
    obtain ⟨j', hfind, hje⟩ := h
    cases hje
    have hj : j < 36 := List.mem_range.1 (List.mem_of_find?_eq_some hfind)
    have hsat := List.find?_some hfind
    have hx : gfPow 2 j < 256 := gfPow_lt (by decide) j
    simp only [nth_syndrome c (i := 0) (by decide), nth_syndrome c (i := 1) (by decide), nth_syndrome c (i := 2) (by decide),
      nth_syndrome c (i := 3) (by decide), Bool.and_eq_true, decide_eq_true_eq] at hsat ⊢
    obtain ⟨⟨h1, h2⟩, h3⟩ := hsat
    have he := syndAt_lt c 0
    refine syndrome_eq_zero fun i hi => ?_
    rw [syndAt_fixSym c hj he]
    have hi4 : i = 0 ∨ i = 1 ∨ i = 2 ∨ i = 3 := by omega
    rcases hi4 with rfl | rfl | rfl | rfl
    · rw [gfPow, gfMul_one_right he, Nat.xor_self]
    · rw [gfPow, gfPow, gfMul_one_right hx, h1, Nat.xor_self]
    · rw [gfPow_two hx, h2, Nat.xor_self]
    · rw [gfPow_three hx, h3, Nat.xor_self]

/-- The powers of alpha at different places of a code word differ. -/
theorem gfPow_two_inj : ∀ j < 36, ∀ k < j, gfPow 2 j ≠ gfPow 2 k := by decide +kernel

/-- Two values with a given sum, and a given sum under the factors `x` and `y` (R385). -/
theorem twoValues {x y s0 s1 : Nat} (hx : x < 256) (hy : y < 256) (hxy : x ≠ y) (h0 : s0 < 256) (h1 : s1 < 256) :
    let f := gfMul (s1 ^^^ gfMul s0 x) (gfInv (x ^^^ y))
    gfMul (s0 ^^^ f) x ^^^ gfMul f y = s1 := by
  have hz : x ^^^ y < 256 := Nat.xor_lt_two_pow (n := 8) hx hy
  have hz0 : x ^^^ y ≠ 0 := fun h => hxy (Nat.xor_eq_zero_iff.1 h)
  have ht : s1 ^^^ gfMul s0 x < 256 := Nat.xor_lt_two_pow (n := 8) h1 (gfMul_lt h0)
  have hinv : gfInv (x ^^^ y) < 256 := gfPow_lt hz 254
  intro f
  have hf : f < 256 := gfMul_lt ht
  calc gfMul (s0 ^^^ f) x ^^^ gfMul f y = gfMul s0 x ^^^ gfMul f (x ^^^ y) := by
        rw [gfMul_xor_left h0 hf, gfMul_xor_right, Nat.xor_assoc]
    _ = gfMul s0 x ^^^ (s1 ^^^ gfMul s0 x) := by
        rw [gfMul_assoc ht hinv hz, gfMul_comm hinv hz, gfMul_gfInv hz hz0, gfMul_one_right ht]
    _ = s1 := by rw [Nat.xor_comm, Nat.xor_xor_cancel_right]

/-- Errors at two places that give the word's syndromes S0 to S3. -/
theorem errorsAt_eq (hj : j < 36) (hk : k < j) (h : errorsAt (syndrome c) j k = some (e, f)) :
    e < 256 ∧ f < 256 ∧ ∀ i < 4, syndAt c i = gfMul e (gfPow (gfPow 2 j) i) ^^^ gfMul f (gfPow (gfPow 2 k) i) := by
  have hx : gfPow 2 j < 256 := gfPow_lt (by decide) j
  have hy : gfPow 2 k < 256 := gfPow_lt (by decide) k
  have h0 := syndAt_lt c 0
  have h1 := syndAt_lt c 1
  have hvalues := twoValues hx hy (gfPow_two_inj j hj k hk) h0 h1
  unfold errorsAt at h
  simp only [nth_syndrome c (i := 0) (by decide), nth_syndrome c (i := 1) (by decide), nth_syndrome c (i := 2) (by decide),
    nth_syndrome c (i := 3) (by decide)] at h
  split at h
  · rename_i hsat
    obtain ⟨-, -, h2, h3⟩ := hsat
    cases h
    have hf : gfMul (syndAt c 1 ^^^ gfMul (syndAt c 0) (gfPow 2 j)) (gfInv (gfPow 2 j ^^^ gfPow 2 k)) < 256 :=
      gfMul_lt (Nat.xor_lt_two_pow (n := 8) h1 (gfMul_lt h0))
    have he := Nat.xor_lt_two_pow (n := 8) h0 hf
    refine ⟨he, hf, fun i hi => ?_⟩
    have hi4 : i = 0 ∨ i = 1 ∨ i = 2 ∨ i = 3 := by omega
    rcases hi4 with rfl | rfl | rfl | rfl
    · rw [gfPow, gfPow, gfMul_one_right he, gfMul_one_right hf, Nat.xor_xor_cancel_right]
    · rw [gfPow, gfPow, gfPow, gfPow, gfMul_one_right hx, gfMul_one_right hy]
      exact hvalues.symm
    · rw [gfPow_two hx, gfPow_two hy]
      exact h2
    · rw [gfPow_three hx, gfPow_three hy]
      exact h3
  · cases h

/-- Two errors found are the word's only ones. -/
theorem syndrome_twoErrors (h : twoErrors (syndrome c) = some ((j, e), (k, f))) :
    syndrome (fixSym (fixSym c j e) k f) = [0, 0, 0, 0] := by
  unfold twoErrors at h
  obtain ⟨j', hj', h⟩ := List.exists_of_findSome?_eq_some h
  obtain ⟨k', hk', h⟩ := List.exists_of_findSome?_eq_some h
  rw [Option.map_eq_some_iff] at h
  obtain ⟨⟨e', f'⟩, herr, hpair⟩ := h
  cases hpair
  have hj := List.mem_range.1 hj'
  have hk := List.mem_range.1 hk'
  obtain ⟨he, hf, hsynd⟩ := errorsAt_eq hj hk herr
  refine syndrome_eq_zero fun i hi => ?_
  rw [syndAt_fixSym _ (by omega) hf, syndAt_fixSym _ hj he, hsynd i hi, Nat.xor_assoc, Nat.xor_self]

end

/-! ### What a checking point sends on -/

theorem decodeCode_clean {c : Code} (h : syndrome c = [0, 0, 0, 0]) : decodeCode c = (.clean, c) := by
  simp only [decodeCode, h, if_true]

theorem isBad_poisonCode : isBad poisonCode = true := by decide +kernel

/-- A checking point restores a code word, or takes the poisoned one for it (R386). -/
theorem decodeCode_cases (c : Code) :
    (goodLook (decodeCode c).1 = true ∧ syndrome (decodeCode c).2 = [0, 0, 0, 0]) ∨
      (goodLook (decodeCode c).1 = false ∧ (decodeCode c).2 = poisonCode) := by
  unfold decodeCode
  dsimp only
  split
  · rename_i hclean
    exact .inl ⟨rfl, hclean⟩
  · split
    · exact .inr ⟨rfl, rfl⟩
    · split
      · rename_i hone
        exact .inl ⟨rfl, syndrome_oneError hone⟩
      · split
        · rename_i htwo
          exact .inl ⟨rfl, syndrome_twoErrors htwo⟩
        · split <;> exact .inr ⟨rfl, rfl⟩

/-- A granule that a consumer may use is sent on clean, with the same data (R386, R390). -/
theorem decodeCode_passOn {c : Code} (h : isBad c = false) : decodeCode (passOn c) = (.clean, passOn c) := by
  rcases decodeCode_cases c with ⟨-, hsynd⟩ | ⟨hbad, -⟩
  · exact decodeCode_clean hsynd
  · rw [isBad, hbad] at h
    cases h

theorem isBad_passOn {c : Code} (h : isBad c = false) : isBad (passOn c) = false := by
  rw [isBad, decodeCode_passOn h]
  rfl

theorem goodData_passOn {c : Code} (h : isBad c = false) : goodData (passOn c) = goodData c := by
  rw [goodData, decodeCode_passOn h]
  rfl

/-- Any other is sent on as the poisoned code word. -/
theorem passOn_of_bad {c : Code} (h : isBad c = true) : passOn c = poisonCode := by
  rcases decodeCode_cases c with ⟨hgood, -⟩ | ⟨-, hpoison⟩
  · rw [isBad, hgood] at h
    cases h
  · exact hpoison

end Sys2Proof.Proofs
end

section
/-! Proofs for chapters 2, 9 and 10: a bead takes what reaches it in answer. -/

namespace Sys2Proof.Proofs

open Sys2Proof Sys2Proof.Machine Sys2Proof.Laws

/-! ### A message reaches a node -/

section
variable {s t : State} {n : NodeN} {m : Msg} {rest : List Msg}

theorem nodeRow_eq {op : BitVec 8} {f : Nat → Msg → State → Option State} (hup : s.standby.mainUp = true)
    (harr : arrivals s n.val = m :: rest) (hland : landing s n.val m = false) (hop : m.op = op)
    (hf : f n.val m (popArrival n.val s) = some t) : nodeRow n.val op f s = .next t := by
  have hfirst : firstArrival s n.val op = some m := by
    simp only [firstArrival, harr]
    exact if_pos ⟨hop, hland⟩
  simp only [nodeRow, hfirst, hf]
  exact whenOk_of s hup t

theorem arrivals_popArrival (harr : arrivals s n.val = m :: rest) : arrivals (popArrival n.val s) n.val = rest := by
  rw [popArrival, arrivals_setArrivals, harr]
  rfl

end

/-! ### A bead that has taken an answer -/

/-- Of the module only bead `o`'s requests and L1 have changed, and counters. -/
structure AnswerTaken (o : Nat) (s t : State) : Prop where
  others : OtherBeads o s t
  mem : t.mem = s.mem
  fabric : t.fabric = s.fabric
  clock : t.clock = s.clock
  bead : beadOf t o = { beadOf s o with l1 := (beadOf t o).l1, reqs := (beadOf t o).reqs }

section
variable {s t u : State} {o : Nat}

theorem AnswerTaken.trans (h : AnswerTaken o s t) (g : AnswerTaken o t u) : AnswerTaken o s u where
  others := otherBeads_trans h.others g.others
  mem := g.mem.trans h.mem
  fabric := g.fabric.trans h.fabric
  clock := g.clock.trans h.clock
  bead := by rw [g.bead, h.bead]

theorem AnswerTaken.modBead {f : Bead → Bead} (hf : ∀ b, f b = { b with l1 := (f b).l1, reqs := (f b).reqs }) :
    AnswerTaken o s (modBead o f s) where
  others := otherBeads_modBead o f s
  mem := rfl
  fabric := rfl
  clock := rfl
  bead := by rw [beadOf_modBead]; exact hf _

theorem AnswerTaken.countLooks (o blk : Nat) (l : List Code) (s : State) :
    AnswerTaken o s (l.foldl (fun t c => countLook blk c t) s) := by
  have hbeads : (l.foldl (fun t c => countLook blk c t) s).beads = s.beads := foldl_leaves State.beads (fun _ _ => countLook_beads _ _ _) l s
  exact {
    others := otherBeads_of_beads hbeads
    mem := foldl_leaves State.mem (fun _ _ => countLook_mem _ _ _) l s
    fabric := foldl_leaves State.fabric (fun _ _ => countLook_fabric _ _ _) l s
    clock := foldl_leaves State.clock (fun _ _ => countLook_clock _ _ _) l s
    bead := by rw [beadOf_congr hbeads] }

theorem AnswerTaken.hart (h : AnswerTaken o s t) (k : Nat) : hartOf (beadOf t o) k = hartOf (beadOf s o) k := by
  rw [h.bead]
  rfl

theorem AnswerTaken.active (h : AnswerTaken o s t) : (beadOf t o).active = (beadOf s o).active := by rw [h.bead]

/-- What the hart of an answered request does leaves the feeders. -/
theorem AnswerTaken.sameFeeds (h : AnswerTaken o s t) (k : Nat) (f : Hart → Hart) :
    SameFeeds o s (Machine.modBead o (modHart k f) t) where
  clock := h.clock
  strands := by rw [beadOf_modBead, h.bead]; rfl
  queue := by rw [beadOf_modBead, h.bead]; rfl
  pause _ := by rw [beadOf_modBead, h.bead]; rfl

theorem AnswerTaken.runningHead (h : AnswerTaken o s t) (k : Nat) (f : Hart → Hart) (q : Nat) :
    runningHead (beadOf (Machine.modBead o (modHart k f) t) o) q = Machine.runningHead (beadOf s o) q := by
  rw [beadOf_modBead, h.bead]
  rfl

end

theorem chGo_of_none {s : State} {o : Nat} (h : runningHead (beadOf s o) 3 = none) : chGo o s = s := by rw [chGo, h]

theorem l1Fill_eq (s : State) (r : Req) (b : Bead) : l1Fill s r b = { b with l1 := (l1Fill s r b).l1 } := by
  have hfold (n : Nat) (f : Bead → Nat → Bead) (hf : ∀ b i, f b i = { b with l1 := (f b i).l1 }) :
      upTo n f b = { b with l1 := (upTo n f b).l1 } := by
    induction n with
    | zero => rfl
    | succ n ih => rw [upTo_succ, hf, ih]
  unfold l1Fill
  split
  · rfl
  · refine hfold _ _ fun b i => ?_
    dsimp only
    split <;> rfl

/-! ### The granules of an answer -/

/-- The granules `0` to `n - 1` of an answer, each by its number. -/
def gotTable (n : Nat) (f : Nat → Code) : Tbl Code := (List.range n).map fun i => (i, f i)

theorem tblPut_last {t : Tbl Code} {n : Nat} (ht : ∀ p ∈ t, p.1 < n) (c : Code) : tblPut t n c = t ++ [(n, c)] := by
  induction t with
  | nil => rfl
  | cons p t ih =>
    have hp : p.1 < n := ht p (by simp)
    rw [tblPut, if_neg (by omega), if_neg (by omega), ih fun q hq => ht q (by simp [hq])]
    rfl

theorem upTo_tblPut (n : Nat) (f : Nat → Code) : upTo n (fun t i => tblPut t i (f i)) [] = gotTable n f := by
  induction n with
  | zero => rfl
  | succ n ih =>
    rw [upTo_succ, ih, tblPut_last (fun p hp => ?_), gotTable, gotTable, List.range_succ, List.map_append]
    · rfl
    · simp only [gotTable, List.mem_map, List.mem_range] at hp
      obtain ⟨i, hi, rfl⟩ := hp
      exact hi

theorem tblGet_gotTable {n i : Nat} (hi : i < n) (d : Code) (f : Nat → Code) : tblGet d (gotTable n f) i = f i := by
  have hmap (l : List Nat) (h : i ∈ l) : tblGet d (l.map fun i => (i, f i)) i = f i := by
    induction l with
    | nil => simp at h
    | cons k l ih =>
      rw [List.map_cons, tblGet]
      split
      · rename_i hk
        rw [hk]
      · rename_i hk
        exact ih (by simpa [Ne.symm hk] using h)
  exact hmap _ (List.mem_range.2 hi)

/-- A whole answer gives every granule of its request. -/
theorem got_gotGrans {r : Req} {n : Nat} {data : List Code} (hgot : r.got = []) (hlen : data.length = n) :
    (gotGrans (List.range n) data r).got = gotTable n fun i => passOn (nth poisonCode data i) := by
  have hzip : (List.range n).zip data = (List.range n).map fun i => (i, nth poisonCode data i) := by
    refine List.ext_getElem (by simp [hlen]) fun i hi _ => ?_
    have hi' : i < data.length := by simpa [hlen] using hi
    simp [nth, hi']
  rw [gotGrans, hgot, hzip, List.foldl_map, ← upTo_tblPut]
  rfl

/-- A good granule of an answer with status 0 is not among the failed ones. -/
theorem failed_joinClass {r : Req} {n i : Nat} {data : List Code} {m : Msg} (hfailed : r.failed = []) (hstatus : m.status = 0)
    (hi : i < data.length) (hgood : isBad (nth poisonCode data i) = false) : (joinClass r (List.range n) data m).failed.contains i = false := by
  have htold (k : Nat) : bitOf (stPart m) k = false := by simp [stPart, hstatus, bitsOf, bitOf]
  have hlost : (decodeCode (nth 0 data i)).1 ≠ .uncorr := fun hlost => by
    rw [nth, List.getD_eq_getElem _ _ hi] at hgood hlost
    rw [isBad, hlost] at hgood
    cases hgood
  have hfirst : nth 0 (List.range n) 0 = 0 := by cases n <;> simp [nth]
  simp only [joinClass, hfailed, htold, hfirst]
  simpa using fun _ => hlost

/-! ### Requests that are done -/

section
variable {s : State} {o : Nat} {r : Req} {m : Msg} {h : HartN}

/-- A request that is done has left its slot, and its lines are in the L1. -/
def leftSlot (o : Nat) (r : Req) (s : State) : State := modBead o (fun b => l1Fill s r (dropReq r.id b)) s

theorem answerTaken_leftSlot (o : Nat) (r : Req) (s : State) : AnswerTaken o s (leftSlot o r s) :=
  .modBead fun b => by rw [l1Fill_eq]; rfl

theorem reqDone_load (hall : r.n ≤ r.got.length) (howner : r.owner = .hartLoad h) (v : Word) (s : State) :
    reqDone o r v s = hartLoadDone o h.val r (leftSlot o r s) := by
  have hmore : decide (r.got.length < r.n) = false := decide_eq_false (by omega)
  simp only [reqDone, howner, hmore]
  rfl

theorem reqDone_store (hall : r.n ≤ r.got.length) (howner : r.owner = .hartStore h) (v : Word) (s : State) :
    reqDone o r v s = hartStoreDone o h.val (leftSlot o r s) := by
  have hmore : decide (r.got.length < r.n) = false := decide_eq_false (by omega)
  simp only [reqDone, howner, hmore]
  rfl

/-! ### A load's answer -/

/-- The request of a whole answer to it. -/
def wholeAnswer (m : Msg) (r : Req) : Req := takePart (List.range r.n) m.data m r

theorem wholeAnswer_got (hgot : r.got = []) (hlen : m.data.length = r.n) :
    (wholeAnswer m r).got = gotTable r.n fun i => passOn (nth poisonCode m.data i) := got_gotGrans hgot hlen

/-- The state in which an answered load is done. -/
def loadAnswered (o : Nat) (m : Msg) (r : Req) (s : State) : State :=
  leftSlot o (wholeAnswer m r)
    (m.data.foldl (fun t c => countLook o c t) (modBead o (modReq r.id fun _ => wholeAnswer m r) s))

theorem answerTaken_loadAnswered (o : Nat) (m : Msg) (r : Req) (s : State) : AnswerTaken o s (loadAnswered o m r s) :=
  ((AnswerTaken.modBead fun _ => rfl).trans (.countLooks o o m.data _)).trans (answerTaken_leftSlot _ _ _)

/-- An answer that a request waits for in one part: the request, with what it gives, is done. -/
theorem beadReadResp_whole (hslot : reqOfSlot (beadOf s o) m.tag.toNat = some r) (howner : r.owner = .hartLoad h)
    (hparts : reqParts s r = [List.range r.n]) (hone : r.parts = 1) (hcopy : r.copy = false) (hgot : r.got = [])
    (haddr : nth 0 r.phys 0 = m.addr.toNat) (hlen : m.data.length = r.n) (hn : r.n ≠ 0) :
    beadReadResp o m s = chGo o (hartLoadDone o h.val (wholeAnswer m r) (loadAnswered o m r s)) := by
  have hfirst : nth 0 (List.range r.n) 0 = 0 := by cases r.n <;> simp [nth]
  have hpart : partAt s r false m.addr.toNat = List.range r.n := by
    simp [partAt, hparts, hfirst, haddr]
  have hdata : m.data ≠ [] := fun h => hn (by rw [← hlen, h]; rfl)
  have hrange : List.range r.n ≠ [] := by simpa using hn
  have hdone : (wholeAnswer m r).parts = 0 := by change r.parts - 1 = 0; omega
  have hcount : (wholeAnswer m r).n ≤ (wholeAnswer m r).got.length := by
    rw [wholeAnswer_got hgot hlen, gotTable, List.length_map, List.length_range]
    exact le_refl r.n
  rw [loadAnswered, ← reqDone_load hcount howner 0]
  simp only [beadReadResp, hslot, howner, partReadResp, hpart, if_neg hdata, if_neg hrange, hcopy]
  rw [← wholeAnswer, if_pos hdone]
  rfl

end

/-- A hart that a load holds takes the granule of its address, or traps where it is bad (R61, R807). -/
theorem hartLoadDone_eq {s : State} {o h : Nat} {r : Req} {f3 : Nat} {fp : Bool} {rd rs1 : Fin 32} {imm : Word} {w : Word32}
    {len : Nat} (hhold : (hartOf (beadOf s o) h).hold = .load r.id)
    (hfetch : fetchAt (beadOf s o).active (hartOf (beadOf s o) h).pc.toNat = some ⟨.load f3 fp rd rs1 imm, w, len⟩) :
    hartLoadDone o h r s =
      if (isBad (tblGet poisonCode r.got ((r.bytes - r.dev) / 32)) || r.failed.contains ((r.bytes - r.dev) / 32)) = true then
        modBead o (modHart h (takeTrap false 5 (BitVec.ofNat 64 r.bytes))) s
      else modBead o (modHart h fun t => advance len (loadTo fp rd (loadValue f3 (r.bytes % 32)
        (goodData (tblGet poisonCode r.got ((r.bytes - r.dev) / 32)))) t)) s := by
  simp only [hartLoadDone, hhold, hfetch]
  exact if_neg (not_not_intro rfl)

/-- What the answer of a load leaves when its hart has become `f` of what it was. -/
structure HartAnswered (n : NodeN) (o h : Nat) (rest : List Msg) (f : Hart → Hart) (s t : State) : Prop where
  arrived : arrivals t n.val = rest
  others : OtherBeads o s t
  mem : t.mem = s.mem
  harts : ∀ h', h' ≠ h → hartOf (beadOf t o) h' = hartOf (beadOf s o) h'
  hart : hartOf (beadOf t o) h = f (hartOf (beadOf s o) h)

theorem hartAnswered {s u : State} {n : NodeN} {o : Nat} {m : Msg} {rest : List Msg} (harr : arrivals s n.val = m :: rest)
    (hu : AnswerTaken o (popArrival n.val s) u) (h : Nat) (f : Hart → Hart) :
    HartAnswered n o h rest f s (modBead o (modHart h f) u) where
  arrived := by
    rw [arrivals, modBead_fabric, hu.fabric]
    exact arrivals_popArrival harr
  others := otherBeads_trans hu.others (otherBeads_modBead o _ u)
  mem := hu.mem
  harts h' hne := by
    rw [beadOf_modBead, hartOf_modHart_other _ _ hne, hu.hart]
    rfl
  hart := by
    rw [beadOf_modBead, hartOf_modHart, hu.hart]
    rfl

section
variable {s : State} {n : NodeN} {o : Nat} {m : Msg} {rest : List Msg} {r : Req} {h : HartN}

/-- The answer of a load that its hart waits for. -/
theorem completes_load (hup : s.standby.mainUp = true) (hnode : nodeKind s n.val = .bead o)
    (harr : arrivals s n.val = m :: rest) (hland : landing s n.val m = false)
    (hfeed : ∀ k : Fin 8, feedNext s o k.val = none) (hchain : runningHead (beadOf s o) 3 = none) (hop : m.op = opResp)
    (hslot : reqOfSlot (beadOf s o) m.tag.toNat = some r) (howner : r.owner = .hartLoad h)
    (hparts : reqParts s r = [List.range r.n]) (hone : r.parts = 1) (hcopy : r.copy = false) (hgot : r.got = [])
    (haddr : nth 0 r.phys 0 = m.addr.toNat) (hlen : m.data.length = r.n) (hn : r.n ≠ 0) {f : Hart → Hart}
    (hdone : hartLoadDone o h.val (wholeAnswer m r) (loadAnswered o m r (popArrival n.val s)) =
      modBead o (modHart h.val f) (loadAnswered o m r (popArrival n.val s))) :
    Completes (.readResp n) s (HartAnswered n o h.val rest f s) := by
  have htaken := answerTaken_loadAnswered o m r (popArrival n.val s)
  have hresp := beadReadResp_whole (s := popArrival n.val s) hslot howner hparts hone hcopy hgot haddr hlen hn
  rw [hdone] at hresp
  generalize loadAnswered o m r (popArrival n.val s) = u at hresp htaken
  have hquiet (k : Fin 8) : feedNext (modBead o (modHart h.val f) u) o k.val = none :=
    (feedNext_congr (htaken.sameFeeds h.val f) k.val).trans (hfeed k)
  rw [chGo_of_none ((htaken.runningHead h.val f 3).trans hchain)] at hresp
  have hnode' : nodeKind (popArrival n.val s) n.val = .bead o := hnode
  have hexec : exec (.readResp n) s = .next (modBead o (modHart h.val f) u) :=
    nodeRow_eq hup harr hland hop (by rw [takeResp, hnode']; dsimp only; rw [hresp, feedAll_of_none hquiet])
  exact completes_of_exec hexec (hartAnswered harr htaken h.val f)

/-! ### A store's acknowledgement -/

/-- One granule is asked for in one part (R334). -/
theorem reqParts_one (s : State) (hn : r.n = 1) (hgot : r.got = []) : reqParts s r = [[0]] := by
  simp [reqParts, askedNow, hn, hgot, hasGran, tblGet, nth, joinPart]

/-- The hart of a store that has come back (R62). -/
def storeBack (t : Hart) : Hart :=
  let t' := { t with stores := t.stores - 1 }
  if t'.stores = 0 ∧ t.hold = .fence then advance 4 t' else t'

theorem hartStoreDone_eq (o h : Nat) (s : State) : hartStoreDone o h s = modBead o (modHart h storeBack) s := rfl

/-- The request of a store that is acknowledged. -/
def storeAnswer (m : Msg) (r : Req) : Req := takePart [0] [0] m r

/-- The state in which an acknowledged store is done. -/
def storeAnswered (o : Nat) (m : Msg) (r : Req) (s : State) : State :=
  leftSlot o (storeAnswer m r) (modBead o (modReq r.id fun _ => storeAnswer m r) s)

theorem answerTaken_storeAnswered (o : Nat) (m : Msg) (r : Req) (s : State) : AnswerTaken o s (storeAnswered o m r s) :=
  (AnswerTaken.modBead fun _ => rfl).trans (answerTaken_leftSlot _ _ _)

theorem beadWriteAck_store (hslot : reqOfSlot (beadOf s o) m.tag.toNat = some r) (howner : r.owner = .hartStore h)
    (hport : fromPort m = false) (hn : r.n = 1) (hgot : r.got = []) (hcopy : r.copy = false)
    (haddr : nth 0 r.phys 0 = m.addr.toNat) (hone : r.parts = 1) :
    beadWriteAck o m s = chGo o (modBead o (modHart h.val storeBack) (storeAnswered o m r s)) := by
  have hpart : partAt s r r.copy m.addr.toNat = [0] := by
    rw [hcopy]
    simp [partAt, reqParts_one s hn hgot, ← haddr, nth]
  have hdone : (storeAnswer m r).parts = 0 := by change r.parts - 1 = 0; omega
  have hcount : (storeAnswer m r).n ≤ (storeAnswer m r).got.length := by
    change r.n ≤ (tblPut r.got 0 (passOn 0)).length
    rw [hn, hgot]
    exact le_refl 1
  rw [storeAnswered, ← hartStoreDone_eq,
    ← reqDone_store hcount howner (m.aux0.setWidth 64 ||| (m.aux1.setWidth 64 <<< 32))]
  simp only [beadWriteAck, hslot, howner, hport, partWriteAck, hpart]
  rw [List.map_singleton, ← storeAnswer, if_pos hdone]
  rfl

/-- The acknowledgement of a hart's store. -/
theorem completes_store (hup : s.standby.mainUp = true) (hnode : nodeKind s n.val = .bead o)
    (harr : arrivals s n.val = m :: rest) (hland : landing s n.val m = false) (hchain : runningHead (beadOf s o) 3 = none)
    (hop : m.op = opAck) (hslot : reqOfSlot (beadOf s o) m.tag.toNat = some r) (howner : r.owner = .hartStore h)
    (hport : fromPort m = false) (hn : r.n = 1) (hgot : r.got = []) (hcopy : r.copy = false)
    (haddr : nth 0 r.phys 0 = m.addr.toNat) (hone : r.parts = 1) :
    Completes (.writeAck n) s (HartAnswered n o h.val rest storeBack s) := by
  have htaken := answerTaken_storeAnswered o m r (popArrival n.val s)
  have hack := beadWriteAck_store (s := popArrival n.val s) hslot howner hport hn hgot hcopy haddr hone
  generalize storeAnswered o m r (popArrival n.val s) = u at hack htaken
  rw [chGo_of_none ((htaken.runningHead h.val storeBack 3).trans hchain)] at hack
  have hnode' : nodeKind (popArrival n.val s) n.val = .bead o := hnode
  have hexec : exec (.writeAck n) s = .next (modBead o (modHart h.val storeBack) u) :=
    nodeRow_eq hup harr hland hop (by rw [takeAck, hnode']; dsimp only; rw [hack])
  exact completes_of_exec hexec (hartAnswered harr htaken h.val storeBack)

end

/-! ### A stale notice -/

theorem strandOf_modStrand (n : Nat) (f : Strand → Strand) (b : Bead) : strandOf (modStrand n f b) n = f (strandOf b n) :=
  tblGet_tblSet_same _ _ _ _

theorem strandOf_modStrand_other {n j : Nat} (f : Strand → Strand) (b : Bead) (h : j ≠ n) :
    strandOf (modStrand n f b) j = strandOf b j := tblGet_tblSet_other _ _ _ _ _ h

/-- A run that holds the granule at a physical address is marked stale (R374). -/
def staleRun (a : Nat) (x : StrandRun) : StrandRun :=
  if x.got && x.phys.contains a then
    let i := ((List.range x.phys.length).find? fun i => nth 0 x.phys i == a).getD 0
    { x with stale := true, staleAt := if x.stale then min i x.staleAt else i }
  else x

/-- A strand that watches its source and feeds an array, with the runs marked that hold the granule at an address. -/
def staleStrand (a : Nat) (k : Strand) : Strand :=
  if k.running && sdWatch k.desc && sdTarget k.desc == 0 then { k with runs := k.runs.map (staleRun a) } else k

theorem beadStale_bead (s : State) (o : Nat) (m : Msg) : ∃ reqs, beadOf (beadStale o m s) o =
    modStrand (m.tag.toNat % 8) (staleStrand m.addr.toNat) { beadOf s o with reqs := reqs } :=
  ⟨_, beadOf_modBead _ _ _⟩

theorem staleRun_idx (a : Nat) (x : StrandRun) : (staleRun a x).idx = x.idx := by
  unfold staleRun
  split <;> rfl

theorem staleRun_stale (a : Nat) (x : StrandRun) : (staleRun a x).stale = (x.stale || (x.got && decide (a ∈ x.phys))) := by
  unfold staleRun
  rw [List.contains_eq_mem]
  split
  · rename_i h
    rw [h, Bool.or_true]
  · rename_i h
    rw [Bool.not_eq_true] at h
    rw [h, Bool.or_false]

/-- The runs of a marked strand, in order, and when it is marked. -/
theorem staleStrand_runs (a : Nat) (k : Strand) :
    staleStrand a k = { k with runs := (staleStrand a k).runs } ∧ (staleStrand a k).runs.map (·.idx) = k.runs.map (·.idx) ∧
      (k.running = true → sdWatch k.desc = true → sdTarget k.desc = 0 →
        (staleStrand a k).runs.map (·.stale) = k.runs.map fun x => x.stale || (x.got && decide (a ∈ x.phys))) ∧
      ((k.running = false ∨ sdWatch k.desc = false ∨ sdTarget k.desc ≠ 0) → staleStrand a k = k) := by
  unfold staleStrand
  split
  · rename_i hfeeds
    simp only [Bool.and_eq_true, beq_iff_eq] at hfeeds
    obtain ⟨⟨hrun, hwatch⟩, htarget⟩ := hfeeds
    refine ⟨rfl, ?_, fun _ _ _ => ?_, fun hidle => ?_⟩
    · simp [staleRun_idx]
    · simp [staleRun_stale]
    · simp [hrun, hwatch, htarget] at hidle
  · rename_i hidle
    refine ⟨rfl, rfl, fun hrun hwatch htarget => ?_, fun _ => rfl⟩
    simp [hrun, hwatch, htarget] at hidle

/-- Settles O41. The answer's granules are the request's, restored; the hart of its owner goes on or traps with the one that it
waits for, counts its store off, or a strand's runs are marked. -/
theorem beadsTakeAnswers : Obligations.BeadsTakeAnswers := by
  unfold Obligations.BeadsTakeAnswers
  intro s n o m rest hup hnode harr hland hfeed hchain
  refine ⟨fun r h f3 fp rd rs1 imm w len hop hslot hfind howner hparts hone hcopy hgot hfailed haddr hlen hstatus hlow hhigh hhold
    hfetch => ?_, fun r h hop hslot hfind hport howner hn hgot hcopy haddr hone => ?_, fun hop => ?_⟩
  · intro c
    have hi : (r.bytes - r.dev) / 32 < r.n := by omega
    have hcode : tblGet poisonCode (wholeAnswer m r).got (((wholeAnswer m r).bytes - (wholeAnswer m r).dev) / 32) = passOn c := by
      rw [wholeAnswer_got hgot hlen]
      exact tblGet_gotTable hi _ _
    have htaken := answerTaken_loadAnswered o m r (popArrival n.val s)
    have hdone := hartLoadDone_eq (s := loadAnswered o m r (popArrival n.val s)) (r := wholeAnswer m r)
      (by rw [htaken.hart]; exact hhold) (by rw [htaken.active, htaken.hart]; exact hfetch)
    rw [hcode] at hdone
    have hload {f : Hart → Hart} := completes_load hup hnode harr hland hfeed hchain hop hslot howner hparts hone hcopy hgot haddr
      hlen (by omega) (f := f)
    refine ⟨fun hgood => ?_, fun hbad => ?_⟩
    · have hfail := failed_joinClass (r := r) (n := r.n) (m := m) hfailed hstatus (by omega) hgood
      rw [if_neg (by rw [isBad_passOn hgood]; exact fun h => absurd (hfail.symm.trans h) (by decide)),
        goodData_passOn hgood] at hdone
      exact completes_mono (hload hdone) fun t ht => ⟨ht.arrived, ht.others, ht.mem, ht.harts, ht.hart⟩
    · rw [if_pos (by rw [passOn_of_bad hbad, isBad_poisonCode]; rfl)] at hdone
      exact completes_mono (hload hdone) fun t ht => ⟨ht.arrived, ht.others, ht.mem, ht.harts, ht.hart⟩
  · intro x
    have hstore := completes_store hup hnode harr hland hchain hop hslot howner hport hn hgot hcopy haddr hone
    refine ⟨fun hmore => completes_mono hstore fun t ht => ⟨ht.arrived, ht.others, ht.mem, ht.hart.trans ?_⟩,
      fun hfence hlast => completes_mono hstore fun t ht => ⟨ht.arrived, ht.others, ht.mem, ht.hart.trans ?_⟩⟩
    · refine if_neg fun hlast => ?_
      rcases hmore with hmore | hmore
      · exact hmore hlast.2
      · have : x.stores - 1 = 0 := hlast.1
        omega
    · have hnone : x.stores - 1 = 0 := by omega
      refine (if_pos ⟨hnone, hfence⟩).trans ?_
      simp only [advance, x, hnone]
      rfl
  · intro k
    obtain ⟨reqs, hbead⟩ := beadStale_bead (popArrival n.val s) o m
    have hnode' : nodeKind (popArrival n.val s) n.val = .bead o := hnode
    have hexec : exec (.stale n) s = .next (beadStale o m (popArrival n.val s)) :=
      nodeRow_eq hup harr hland hop (by rw [takeStale, hnode'])
    have hstrand : strandOf (beadOf (beadStale o m (popArrival n.val s)) o) (m.tag.toNat % 8) = staleStrand m.addr.toNat k := by
      rw [hbead]
      exact strandOf_modStrand _ _ _
    refine completes_of_exec hexec ⟨arrivals_popArrival harr, otherBeads_modBead _ _ (popArrival n.val s), ?_, fun j hj => ?_, ?_⟩
    · rw [hbead]
      rfl
    · rw [hbead]
      exact strandOf_modStrand_other _ _ hj
    · rw [hstrand]
      exact staleStrand_runs _ k

end Sys2Proof.Proofs
end

section
/-! Proofs for chapters 2 and 10: a hart's request beyond its bead, made and translated. -/

namespace Sys2Proof.Proofs

open Sys2Proof Sys2Proof.Machine Sys2Proof.Laws

/-! ### A granule of own data memory is read -/

section
variable (o g : Nat) (s : State)

theorem lookOwn_beads : (lookOwn o g s).beads = s.beads :=
  beads_same (keeps_lookOwn o g (.refl _ s) (sub_refl _)) (by decide)

theorem lookOwn_mem : (lookOwn o g s).mem = s.mem :=
  mem_same (keeps_lookOwn o g (.refl _ s) (sub_refl _)) (by decide)

theorem lookOwn_bezels : (lookOwn o g s).bezels = s.bezels :=
  bezels_same (keeps_lookOwn o g (.refl _ s) (sub_refl _)) (by decide)

theorem countsOnly_lookOwn : CountsOnly s (lookOwn o g s) := by
  have hcount : CountsOnly s (countLook o (dmemGet s o g) s) := countsOnly_countEv _ _ _ _
  unfold lookOwn
  dsimp only
  split
  · exact hcount.trans (.of_asy (recordFault_asy _ _))
  · exact hcount

end

theorem hartFail_mem (o h : Nat) (write : Bool) (addr : Nat) (x : Xlat) (s : State) :
    (hartFail o h write addr x s).mem = s.mem :=
  mem_same (keeps_hartFail o h write addr x (.refl _ s) (sub_refl _)) (by decide)

/-! ### Requests of a list -/

section
variable {α : Type} {p : α → Bool} {l : List α} {a : α}

theorem modFirst_append_fresh (f : α → α) (hl : ∀ x ∈ l, p x = false) (ha : p a = true) :
    modFirst p f (l ++ [a]) = l ++ [f a] := by
  induction l with
  | nil => simp [modFirst, ha]
  | cons x l ih => simp [modFirst, hl x (.head _), ih fun y hy => hl y (.tail _ hy)]

theorem dropFirst_append_fresh (hl : ∀ x ∈ l, p x = false) (ha : p a = true) : dropFirst p (l ++ [a]) = l := by
  induction l with
  | nil => simp [dropFirst, ha]
  | cons x l ih => simp [dropFirst, hl x (.head _), ih fun y hy => hl y (.tail _ hy)]

end

/-! ### A hart has made a request -/

/-- In `t`, hart `h` of bead `o` is held by its new request `r`, which nothing has looked at yet; a translation finds there what it
finds in `s`. -/
structure Issued (o : Ord) (h : HartN) (r : Req) (s t : State) : Prop where
  mem : t.mem = s.mem
  nutas : t.nutas = s.nutas
  mmu : t.mmu = s.mmu
  others : OtherBeads o.val s t
  reqs : (beadOf t o.val).reqs = (beadOf s o.val).reqs ++ [r]
  tlb : (beadOf t o.val).tlb = (beadOf s o.val).tlb
  active : (beadOf t o.val).active = (beadOf s o.val).active
  hart : hartOf (beadOf t o.val) h.val = { hartOf (beadOf s o.val) h.val with hold := .load r.id }

section
variable {s t : State} {o : Ord} {h : HartN} {r : Req}

/-- The state in which a hart's new request is translated. -/
def issued (o : Ord) (h : HartN) (r : Req) (s : State) : State := modBead o.val (addReq r) (issueHeld o h r.id s)

theorem makeReq_issued (o : Ord) (h : HartN) (r : Req) (s : State) :
    makeReq o.val r (issueHeld o h r.id s) = xlatReq o.val r.id (issued o h r s) := rfl

theorem issued_bead (o : Ord) (h : HartN) (r : Req) (s : State) : beadOf (issued o h r s) o.val = addReq r
    { modHart h.val (fun t => { t with hold := .load r.id }) (beadOf s o.val) with rr := h, issueCk := absCk s + 1 } := by
  rw [issued, beadOf_modBead, issueHeld, beadOf_congr (countEv_beads _ _ _ _), beadOf_modBead]

theorem issued_issued (o : Ord) (h : HartN) (r : Req) (s : State) : Issued o h r s (issued o h r s) where
  mem := countEv_mem _ _ _ _
  nutas := countEv_nutas _ _ _ _
  mmu := countEv_mmu _ _ _ _
  others := otherBeads_trans (otherBeads_trans (otherBeads_modBead _ _ _) (otherBeads_of_beads (countEv_beads _ _ _ _)))
    (otherBeads_modBead _ _ _)
  reqs := by rw [issued_bead]; rfl
  tlb := by rw [issued_bead]; rfl
  active := by rw [issued_bead]; rfl
  hart := by
    rw [issued_bead]
    exact hartOf_modHart _ (fun t => { t with hold := .load r.id }) _

/-- A counter moves first. -/
theorem Issued.of_countEv {blk code n : Nat} (hi : Issued o h r (countEv blk code n s) t) : Issued o h r s t := by
  have hb := beadOf_congr (countEv_beads s blk code n) o.val
  exact ⟨hi.mem.trans (countEv_mem _ _ _ _), hi.nutas.trans (countEv_nutas _ _ _ _), hi.mmu.trans (countEv_mmu _ _ _ _),
    otherBeads_trans (otherBeads_of_beads (countEv_beads _ _ _ _)) hi.others, hb ▸ hi.reqs, hb ▸ hi.tlb, hb ▸ hi.active,
    hb ▸ hi.hart⟩

theorem firstStop_congr (hmem : t.mem = s.mem) (hnutas : t.nutas = s.nutas) (hmmu : t.mmu = s.mmu) {o : Nat}
    (htlb : (beadOf t o).tlb = (beadOf s o).tlb) (r : Req) : firstStop t o r = firstStop s o r := by
  have hphys (a : Access) (e : TlbEntry) (phys : Nat) : checkPhys t a e phys = checkPhys s a e phys := by
    simp only [checkPhys, hmem, hnutas, hmmu]
  have hcheck (a : Access) (e : TlbEntry) (phys : Nat) : checkReq t r a e phys = checkReq s r a e phys := by
    simp only [checkReq, hphys, hmem]
  simp only [firstStop, hcheck, reqXl, htlb]

variable (hi : Issued o h r s t) (hfresh : ∀ x ∈ (beadOf s o.val).reqs, x.id ≠ r.id)
include hi

theorem Issued.firstStop : firstStop t o.val r = firstStop s o.val r := firstStop_congr hi.mem hi.nutas hi.mmu hi.tlb r

include hfresh

theorem Issued.findReq : findReq (beadOf t o.val) r.id = some r := by
  rw [Machine.findReq, hi.reqs, List.find?_append, List.find?_eq_none.2 fun x hx => by simpa using hfresh x hx]
  simp

theorem Issued.modReq_reqs {b : Bead} (hb : b.reqs = (beadOf t o.val).reqs) (f : Req → Req) :
    (modReq r.id f b).reqs = (beadOf s o.val).reqs ++ [f r] := by
  rw [modReq, hb, hi.reqs]
  exact modFirst_append_fresh f (fun x hx => by simpa using hfresh x hx) (by simp)

/-- The request waits for a walk (R327). -/
theorem Issued.walks {dev : Nat} (hstop : Machine.firstStop s o.val r = some (dev, none)) :
    let u := xlatReq o.val r.id t
    u.mem = s.mem ∧ OtherBeads o.val s u ∧
      hartOf (beadOf u o.val) h.val = { hartOf (beadOf s o.val) h.val with hold := .load r.id } ∧
      (beadOf u o.val).reqs = (beadOf s o.val).reqs ++ [{ r with st := .walk }] := by
  have hx : xlatReq o.val r.id t = countEv o.val 0x14 1 (modBead o.val (modReq r.id fun r => { r with st := .walk }) t) := by
    simp only [xlatReq, hi.findReq hfresh, hi.firstStop, hstop]
  rw [hx]
  refine ⟨(countEv_mem _ _ _ _).trans hi.mem, otherBeads_trans hi.others (otherBeads_trans (otherBeads_modBead _ _ _)
    (otherBeads_of_beads (countEv_beads _ _ _ _))), ?_, ?_⟩
  all_goals rw [beadOf_congr (countEv_beads _ _ _ _), beadOf_modBead]
  · exact hi.hart
  · exact hi.modReq_reqs hfresh rfl _

/-- The request fails, and its hart traps at the address (R47, R807). -/
theorem Issued.fails {dev : Nat} {x : Xlat} {write : Bool} (hstop : Machine.firstStop s o.val r = some (dev, some x))
    (hfail : reqFail o.val r dev x t = hartFail o.val h.val write r.bytes x (modBead o.val (dropReq r.id) t)) :
    let u := xlatReq o.val r.id t
    u.mem = s.mem ∧ OtherBeads o.val s u ∧ (beadOf u o.val).reqs = (beadOf s o.val).reqs ∧ hartOf (beadOf u o.val) h.val =
      takeTrap false (if x = .page then if write then 15 else 13 else if write then 7 else 5) (BitVec.ofNat 64 r.bytes)
        (hartOf (beadOf s o.val) h.val) := by
  have hx : xlatReq o.val r.id t = hartFail o.val h.val write r.bytes x (modBead o.val (dropReq r.id) t) := by
    rw [← hfail]
    simp only [xlatReq, hi.findReq hfresh, hi.firstStop, hstop]
  dsimp only
  rw [hx]
  have hbeads : (hartFail o.val h.val write r.bytes x (modBead o.val (dropReq r.id) t)).beads =
      (modBead o.val (modHart h.val (takeTrap false
        (if x = .page then if write then 15 else 13 else if write then 7 else 5) (BitVec.ofNat 64 r.bytes)))
          (modBead o.val (dropReq r.id) t)).beads := by
    cases x <;> simp only [hartFail, if_true, if_false, reduceCtorEq, recordInvalid_beads]
  refine ⟨(hartFail_mem _ _ _ _ _ _).trans hi.mem, otherBeads_trans hi.others (otherBeads_trans (otherBeads_modBead _ _ _)
    (otherBeads_trans (otherBeads_modBead _ _ _) (otherBeads_of_beads hbeads))), ?_, ?_⟩
  all_goals rw [beadOf_congr hbeads, beadOf_modBead, beadOf_modBead]
  · change dropFirst _ (beadOf t o.val).reqs = _
    rw [hi.reqs]
    exact dropFirst_append_fresh (fun x hx => by simpa using hfresh x hx) (by simp)
  · rw [hartOf_modHart]
    change takeTrap _ _ _ (hartOf (beadOf t o.val) h.val) = _
    rw [hi.hart]
    rfl

end

/-! ### A request that is ready -/

theorem lineFill_eq (s : State) (o : Nat) (r : Req) :
    lineFill s o r = { r with dev := (lineFill s o r).dev, n := (lineFill s o r).n, got := (lineFill s o r).got } := by
  unfold lineFill
  split
  · split <;> rfl
  · split <;> rfl
  · rfl

/-- What a request's own granules of data memory leave of it. -/
theorem ownGran_req (o : Nat) (r : Req) (x : Req × State) (i : Nat) : (ownGran o r x i).1 =
    { x.1 with got := (ownGran o r x i).1.got, failed := (ownGran o r x i).1.failed, cls := (ownGran o r x i).1.cls } := by
  unfold ownGran
  dsimp only
  split
  · rfl
  · split
    · split <;> rfl
    · rfl

theorem ownGrans_req (o : Nat) (r : Req) (l : List Nat) (x : Req × State) :
    ∃ got failed cls, (l.foldl (ownGran o r) x).1 = { x.1 with got := got, failed := failed, cls := cls } := by
  induction l generalizing x with
  | nil => exact ⟨_, _, _, rfl⟩
  | cons i l ih =>
    obtain ⟨got, failed, cls, heq⟩ := ih (ownGran o r x i)
    refine ⟨got, failed, cls, ?_⟩
    rw [List.foldl_cons, heq, ownGran_req]

/-- A request that writes no granule of own data memory. -/
def WritesNoOwn (o : Nat) (r : Req) : Prop :=
  r.kind = .read ∨ r.kind = .atomic ∨ ∀ i < r.n, inOwnDmem o (r.dev + 32 * i) = false

theorem ownGrans_mem {o : Nat} {r : Req} (h : WritesNoOwn o r) (x : Req × State) :
    ((List.range r.n).foldl (ownGran o r) x).2.mem = x.2.mem := by
  have hstep (x : Req × State) (i : Nat) (hin : i < r.n) : (ownGran o r x i).2.mem = x.2.mem := by
    unfold ownGran
    rcases h with hk | hk | hown
    · rw [hk]
      dsimp only
      split
      · rfl
      · exact lookOwn_mem _ _ _
    · simp [hk]
    · simp [hown i hin]
  suffices hfold : ∀ l : List Nat, (∀ i ∈ l, i < r.n) → (l.foldl (ownGran o r) x).2.mem = x.2.mem from
    hfold _ fun i => List.mem_range.1
  intro l hl
  induction l generalizing x with
  | nil => rfl
  | cons i l ih =>
    rw [List.foldl_cons, ih _ fun j hj => hl j (.tail _ hj), hstep x i (hl i (.head _))]

theorem tlbUse_eq (dev : Nat) (b : Bead) : tlbUse dev b = { b with tlb := (tlbUse dev b).tlb } := by
  unfold tlbUse
  split <;> rfl

theorem tlbUses_eq {α : Type} (f : α → Nat) (l : List α) (b : Bead) :
    ∃ tlb, l.foldl (fun b p => tlbUse (f p) b) b = { b with tlb := tlb } := by
  induction l generalizing b with
  | nil => exact ⟨_, rfl⟩
  | cons p l ih =>
    obtain ⟨tlb, heq⟩ := ih (tlbUse (f p) b)
    exact ⟨tlb, by rw [List.foldl_cons, heq, tlbUse_eq]⟩

/-- `x` is the request `r`, ready, but for its granules, what has been read of them, and where they lie. -/
def ReadyAs (r x : Req) : Prop :=
  x = { r with dev := x.dev, n := x.n, got := x.got, failed := x.failed, cls := x.cls, phys := x.phys,
               dstPhys := x.dstPhys, nc := x.nc, st := .ready }

section
variable {s t : State} {o : Ord} {h : HartN} {r r' : Req}

/-- The request is ready, and its bead has what `writeThrough` makes of the bead with it. -/
theorem Issued.ready (hi : Issued o h r s t) (hfresh : ∀ x ∈ (beadOf s o.val).reqs, x.id ≠ r.id)
    (hstop : Machine.firstStop s o.val r = none) (hfill : lineFill t o.val r = r') (hown : WritesNoOwn o.val r') :
    let u := xlatReq o.val r.id t
    u.mem = s.mem ∧ OtherBeads o.val s u ∧ ∃ b x, beadOf u o.val = writeThrough r' b ∧
      b.reqs = (beadOf s o.val).reqs ++ [x] ∧ ReadyAs r x ∧ x.dev = r'.dev ∧ b.harts = (beadOf t o.val).harts ∧
      b.active = (beadOf s o.val).active := by
  have hx : xlatReq o.val r.id t = reqReady o.val r t := by
    simp only [xlatReq, hi.findReq hfresh, hi.firstStop, hstop]
  have hr' := lineFill_eq t o.val r
  rw [hfill] at hr'
  dsimp only
  rw [hx, reqReady, hfill]
  generalize hr1 : ({ r' with phys := _, dstPhys := _, nc := _, st := .ready } : Req) = r1
  have hown1 : WritesNoOwn o.val r1 := hr1 ▸ hown
  have hmem := ownGrans_mem hown1 (r1, t)
  have hn : r1.n = r'.n := by rw [← hr1]
  rw [hn] at hmem
  obtain ⟨got, failed, cls, hreq⟩ := ownGrans_req o.val r1 (List.range r'.n) (r1, t)
  have hbeads := ownGrans_beads o.val r1 (r1, t) (List.range r'.n)
  generalize List.foldl (ownGran o.val r1) (r1, t) (List.range r'.n) = x at hmem hreq hbeads ⊢
  obtain ⟨tlb, htlb⟩ := tlbUses_eq Prod.fst (xlatDevs o.val r') (beadOf x.2 o.val)
  rw [beadOf_congr hbeads] at htlb
  refine ⟨hmem.trans hi.mem, otherBeads_trans hi.others (otherBeads_trans (otherBeads_of_beads hbeads)
    (otherBeads_setBead _ _ _)), _, x.1, beadOf_setBead _ _ _, ?_, ?_, ?_, ?_, ?_⟩
  · have hid : r'.id = r.id := by rw [hr']
    rw [hid, beadOf_congr hbeads, htlb]
    exact hi.modReq_reqs hfresh rfl _
  · rw [ReadyAs, hreq, ← hr1]
    dsimp only
    rw [hr']
  · rw [hreq, ← hr1]
  all_goals rw [beadOf_congr hbeads, htlb]
  · rfl
  · exact hi.active

end

/-! ### The three requests of a hart -/

section
variable {s t : State} {o : Ord} {h : HartN} {r : Req}

/-- The hart of a store goes on as the store goes out (R807). -/
theorem hartOf_writeThrough_store {b : Bead} {f : Fetched} (howner : r.owner = .hartStore h)
    (hf : fetchAt b.active (hartOf b h.val).pc.toNat = some f) : hartOf (writeThrough r b) h.val =
      { advance f.len (hartOf b h.val) with stores := (hartOf b h.val).stores + 1 } := by
  have hharts (b : Bead) (dev : Nat) (c : Code) (mask : Word32) (k : Nat) : hartOf (l1Write dev c mask b) k = hartOf b k := by
    rw [l1Write_eq]
    rfl
  simp only [writeThrough, howner, hharts, hartOf_modHart, hf]

theorem writeThrough_store_reqs {b : Bead} (howner : r.owner = .hartStore h) : (writeThrough r b).reqs = b.reqs := by
  simp only [writeThrough, howner]
  rw [l1Write_eq]
  rfl

theorem lineFill_not_load (ho : r.owner = .hartStore h ∨ r.owner = .hartAtomic h) (s : State) (o : Nat) : lineFill s o r = r := by
  rcases ho with ho | ho <;> simp only [lineFill, ho]

variable (hi : Issued o h r s t) (hfresh : ∀ x ∈ (beadOf s o.val).reqs, x.id ≠ r.id)
  (hstop : Machine.firstStop s o.val r = none)
include hi hfresh hstop

/-- A load's request is ready, for the line where the L1 allocates. -/
theorem Issued.load_ready (howner : r.owner = .hartLoad h) (hkind : r.kind = .read) :
    let u := xlatReq o.val r.id t
    u.mem = s.mem ∧ OtherBeads o.val s u ∧
      hartOf (beadOf u o.val) h.val = { hartOf (beadOf s o.val) h.val with hold := .load r.id } ∧
      ∃ x ∈ (beadOf u o.val).reqs, ReadyAs r x := by
  have hfill := lineFill_eq t o.val r
  obtain ⟨hmem, hothers, b, x, hbead, hreqs, hready, -, hharts, -⟩ :=
    hi.ready hfresh hstop rfl (.inl (by rw [hfill]; exact hkind))
  have hthrough : writeThrough (lineFill t o.val r) b = b := by
    rw [hfill]
    simp [writeThrough, howner, hkind]
  rw [hthrough] at hbead
  refine ⟨hmem, hothers, ?_, x, ?_, hready⟩
  · rw [hbead, ← hi.hart, hartOf, hartOf, hharts]
  · rw [hbead, hreqs]
    simp

/-- An atomic's request is ready; the L1 drops the line. -/
theorem Issued.atomic_ready (howner : r.owner = .hartAtomic h) (hkind : r.kind = .atomic) :
    let u := xlatReq o.val r.id t
    u.mem = s.mem ∧ OtherBeads o.val s u ∧
      hartOf (beadOf u o.val) h.val = { hartOf (beadOf s o.val) h.val with hold := .load r.id } ∧
      ∃ x ∈ (beadOf u o.val).reqs, ReadyAs r x ∧ x.dev = r.dev := by
  obtain ⟨hmem, hothers, b, x, hbead, hreqs, hready, hdev, hharts, -⟩ :=
    hi.ready hfresh hstop (lineFill_not_load (.inr howner) t o.val) (.inr (.inl hkind))
  have hthrough : writeThrough r b = l1Invalidate (r.dev / 64) b := by simp only [writeThrough, howner]
  rw [hthrough] at hbead
  refine ⟨hmem, hothers, ?_, x, ?_, hready, hdev⟩
  · rw [hbead, ← hi.hart, hartOf, hartOf, ← hharts]
    rfl
  · rw [hbead]
    change x ∈ b.reqs
    rw [hreqs]
    simp

/-- A store's request is ready, and its hart goes on (R807). -/
theorem Issued.store_ready (howner : r.owner = .hartStore h) (hn : r.n = 1) (hdev : inOwnDmem o.val r.dev = false) {f : Fetched}
    (hf : fetchAt (beadOf s o.val).active (hartOf (beadOf s o.val) h.val).pc.toNat = some f) :
    let u := xlatReq o.val r.id t
    u.mem = s.mem ∧ OtherBeads o.val s u ∧ hartOf (beadOf u o.val) h.val = { advance f.len (hartOf (beadOf s o.val) h.val) with
        stores := (hartOf (beadOf s o.val) h.val).stores + 1 } ∧
      ∃ x ∈ (beadOf u o.val).reqs, ReadyAs r x ∧ x.dev = r.dev := by
  have hown : WritesNoOwn o.val r := .inr (.inr fun i hlt => by
    obtain rfl : i = 0 := by omega
    exact hdev)
  obtain ⟨hmem, hothers, b, x, hbead, hreqs, hready, hdev, hharts, hactive⟩ :=
    hi.ready hfresh hstop (lineFill_not_load (.inl howner) t o.val) hown
  have hhart : hartOf b h.val = { hartOf (beadOf s o.val) h.val with hold := .load r.id } := by
    rw [← hi.hart, hartOf, hartOf, hharts]
  refine ⟨hmem, hothers, ?_, x, ?_, hready, hdev⟩
  · rw [hbead, hartOf_writeThrough_store howner (by rw [hactive, hhart]; exact hf), hhart]
    rfl
  · rw [hbead, writeThrough_store_reqs howner, hreqs]
    simp

end

end Sys2Proof.Proofs
end

section
/-! Facts about the decoder: the funct5 of an atomic. -/

namespace Sys2Proof.Proofs

open Sys2Proof Sys2Proof.Machine Sys2Proof.Laws

/-! ### Which words decode to an atomic

Only opcode 0x2F decodes to an atomic, with the five bits of its funct5. -/

/-- The funct5 of an atomic, 0 elsewhere. -/
def amoFunct (i : Insn) : Nat :=
  match i with
  | .amo f5 _ _ _ _ => f5
  | _ => 0

section
variable (w : Nat)

theorem amoFunct_decodeMatrix : amoFunct (decodeMatrix w) = 0 := by
  unfold decodeMatrix
  repeat' split
  all_goals rfl

theorem amoFunct_decodeTile : amoFunct (decodeTile w) = 0 := by
  unfold decodeTile
  dsimp only
  repeat' split
  all_goals rfl

theorem amoFunct_decodeDrain : amoFunct (decodeDrain w) = 0 := by
  unfold decodeDrain
  dsimp only
  repeat' split
  all_goals rfl

theorem amoFunct_decodeSync : amoFunct (decodeSync w) = 0 := by
  unfold decodeSync
  dsimp only
  repeat' split
  all_goals rfl

theorem amoFunct_decodeFp : amoFunct (decodeFp w) = 0 := by
  unfold decodeFp
  dsimp only
  rw [apply_ite amoFunct]
  exact ite_self 0

theorem amoFunct_decodeSystem : amoFunct (decodeSystem w) = 0 := by
  unfold decodeSystem
  dsimp only
  repeat' split
  all_goals rfl

theorem amoFunct_decodeC0 : amoFunct (decodeC0 w) = 0 := by
  unfold decodeC0
  dsimp only
  repeat' split
  all_goals rfl

theorem amoFunct_decodeC1 : amoFunct (decodeC1 w) = 0 := by
  unfold decodeC1
  dsimp only
  repeat' split
  all_goals rfl

theorem amoFunct_decodeC2 : amoFunct (decodeC2 w) = 0 := by
  unfold decodeC2
  dsimp only
  repeat' split
  all_goals rfl

theorem amoFunct_decode32 : amoFunct (decode32 w) < 32 := by
  have hzero {i : Insn} (h : amoFunct i = 0) : amoFunct i < 32 := h.trans_lt (by decide)
  unfold decode32
  dsimp only
  split
  case h_14 =>
    split
    · exact Nat.mod_lt _ (by decide)
    · exact hzero rfl
  case h_16 => exact hzero (amoFunct_decodeSystem w)
  case h_21 => exact hzero (amoFunct_decodeFp w)
  case h_22 => exact hzero (amoFunct_decodeMatrix w)
  case h_23 => exact hzero (amoFunct_decodeTile w)
  case h_24 => exact hzero (amoFunct_decodeDrain w)
  case h_25 => exact hzero (amoFunct_decodeSync w)
  all_goals
    repeat' split
    all_goals exact hzero rfl

end

theorem fetched_amo_lt {s : State} {o h : Nat} {f : Fetched} (hf : fetched s o h = some f) {f5 : Nat}
    {dbl : Bool} {rd rs1 rs2 : Fin 32} (hi : f.insn = .amo f5 dbl rd rs1 rs2) : f5 < 32 := by
  have hfunct : amoFunct f.insn = f5 := by rw [hi]; rfl
  rw [← hfunct]
  rcases fetchAt_decodes (fetched_at hf (by rw [hi]; exact Insn.noConfusion)) with ⟨n, hn | hn | hn, -⟩ | ⟨n, hn, -⟩
  · rw [hn, amoFunct_decodeC0]; decide
  · rw [hn, amoFunct_decodeC1]; decide
  · rw [hn, amoFunct_decodeC2]; decide
  · rw [hn]; exact amoFunct_decode32 n

end Sys2Proof.Proofs
end

section
/-! Proofs for chapters 2 and 4: scalar loads, stores and atomics. -/

namespace Sys2Proof.Proofs

open Sys2Proof Sys2Proof.Machine Sys2Proof.Laws

/-! ### Granules -/

theorem bitsOf_low (v w : Nat) : bitsOf v 0 w = v % 2 ^ w := by rw [bitsOf, Nat.pow_zero, Nat.div_one]

theorem mergeWrite_good {c : Code} (h : isBad c = false) (new : Gran) (mask : Word32) :
    mergeWrite c new mask = (encodeGran (mergeBytes (goodData c) new mask), 0) :=
  if_pos (by simpa [isBad] using h)

theorem mergeWrite_bad {c : Code} (h : isBad c = true) (new : Gran) (mask : Word32) : (mergeWrite c new mask).2 ≠ 0 := by
  have hlook : goodLook (decodeCode c).1 = false := by simpa [isBad] using h
  have hmerge : mergeWrite c new mask = (poisonCode, lookClass (decodeCode c).1) := if_neg (by simp [hlook])
  rw [hmerge]
  revert hlook
  cases (decodeCode c).1 <;> decide

/-- A granule's first byte lies in the bead's own data memory where any does: the memory is whole granules. -/
theorem inOwnDmem_gran (o a : Nat) : inOwnDmem o (a / 32 * 32) = inOwnDmem o a := by
  have hlow : ownBase o ≤ a / 32 * 32 ↔ ownBase o ≤ a := by
    rw [ownBase, beadPhys]
    omega
  have hhigh : a / 32 * 32 < ownBase o + 0xC0000 ↔ a < ownBase o + 0xC0000 := by
    rw [ownBase, beadPhys]
    omega
  simp only [inOwnDmem, hlow, hhigh]

theorem codeAt_dmemPut_same (o g : Nat) (c : Code) (s : State) : codeAt (dmemPut o g c s).mem (dmemGran o g) = c :=
  codeAt_codePut_same s.mem (dmemGran o g) c

theorem codeAt_dmemPut_other {o g k : Nat} (h : k ≠ dmemGran o g) (c : Code) (s : State) :
    codeAt (dmemPut o g c s).mem k = codeAt s.mem k :=
  codeAt_codePut_other s.mem (dmemGran o g) c k h

theorem codeAt_congr {m m' : Memory} (h : m'.cells = m.cells) (g : Nat) : codeAt m' g = codeAt m g := by
  rw [codeAt, codeAt, h]

theorem resvHeld_congr {s t : State} (h : t.mem = s.mem) (hart g : Nat) : resvHeld t hart g = resvHeld s hart g := by
  rw [resvHeld, resvHeld, h]

/-- A reservation made or given up changes no granule. -/
theorem codeAt_resvAfter (f5 hart g : Nat) (s : State) (k : Nat) : codeAt (resvAfter f5 hart g s).mem k = codeAt s.mem k := by
  unfold resvAfter
  split
  · rfl
  · split <;> rfl

/-! ### What a scalar access leaves of its bead -/

section
variable {s : State} {o : Ord} {h : HartN}

/-- An access that reads a granule of own data memory, and nothing else, retires or traps. -/
theorem hartGoes_retire_lookOwn (f : Hart → Hart) (g : Nat) (s : State) :
    HartGoes o h (f (hartOf (beadOf s o.val) h.val)) s (retire o h f (lookOwn o.val g s)) :=
  hartGoes_retire f (lookOwn_beads _ _ _) (lookOwn_mem _ _ _) (lookOwn_bezels _ _ _) (countsOnly_lookOwn _ _ _)

theorem hartGoes_trapAt_lookOwn (cause : Nat) (tval : Word) (g : Nat) (s : State) :
    HartGoes o h (takeTrap false cause tval (hartOf (beadOf s o.val) h.val)) s (trapAt o h cause tval (lookOwn o.val g s)) :=
  hartGoes_trapAt cause tval (lookOwn_beads _ _ _) (lookOwn_mem _ _ _) (lookOwn_bezels _ _ _) (countsOnly_lookOwn _ _ _)

/-- From `s` to `t` memory may differ, and beside it only counters and records do. -/
structure MemoryOnly (s t : State) : Prop where
  beads : t.beads = s.beads
  bezels : t.bezels = s.bezels
  counts : CountsOnly s t

theorem MemoryOnly.lookOwn (o g : Nat) (s : State) : MemoryOnly s (lookOwn o g s) :=
  ⟨lookOwn_beads _ _ _, lookOwn_bezels _ _ _, countsOnly_lookOwn _ _ _⟩

variable {t : State} (hst : MemoryOnly s t)
include hst

theorem MemoryOnly.dmemPut (o g : Nat) (c : Code) : MemoryOnly s (dmemPut o g c t) :=
  ⟨(dmemPut_beads _ _ _ _).trans hst.beads, (dmemPut_bezels _ _ _ _).trans hst.bezels,
    hst.counts.trans (.of_asy (dmemPut_asy _ _ _ _))⟩

theorem MemoryOnly.setResv (hart v : Nat) : MemoryOnly s (setResv hart v t) :=
  ⟨hst.beads, hst.bezels, hst.counts.trans (.of_asy rfl)⟩

theorem MemoryOnly.resvAfter (f5 hart g : Nat) : MemoryOnly s (resvAfter f5 hart g t) := by
  unfold Machine.resvAfter
  split
  · exact hst.setResv _ _
  · split
    · exact hst.setResv _ _
    · exact hst

/-- The instruction that has acted on memory retires. -/
theorem MemoryOnly.retire (f : Hart → Hart) : HartOnly o.val h.val s (retire o h f t) ∧ (retire o h f t).bezels = s.bezels ∧
    hartOf (beadOf (Machine.retire o h f t) o.val) h.val = f (hartOf (beadOf s o.val) h.val) :=
  ⟨hartOnly_retire f hst.beads hst.counts, hst.bezels, by rw [retire_hart, beadOf_congr hst.beads]⟩

omit hst

/-- An access that changes its bead, to what `g` makes of it, and no hart of it. -/
theorem beadIs_retire_modBead (f : Hart → Hart) {g : Bead → Bead} (hg : ∀ b, (g b).harts = b.harts) (s : State) :
    BeadIs (g (beadOf s o.val)) o.val h.val s (retire o h f (modBead o.val g s)) ∧
      hartOf (beadOf (retire o h f (modBead o.val g s)) o.val) h.val = f (hartOf (beadOf s o.val) h.val) := by
  have hharts (k : Nat) : hartOf (g (beadOf s o.val)) k = hartOf (beadOf s o.val) k := by rw [hartOf, hg]; rfl
  refine ⟨beadIs_retire f (otherBeads_modBead _ _ s) (by rw [beadOf_modBead]) (fun k _ => ?_) (.of_asy rfl), ?_⟩
  · rw [beadOf_modBead, hharts]
  · rw [retire_hart, beadOf_modBead, hharts]

end

end Sys2Proof.Proofs
end

section
/-! Proofs for chapters 2 and 4: loads and load-reserved. -/

namespace Sys2Proof.Proofs

open Sys2Proof Sys2Proof.Machine Sys2Proof.Laws

/-- What stands in a ready request as its instruction has made it. -/
theorem ReadyAs.fields {r x : Req} (h : ReadyAs r x) :
    x.id = r.id ∧ x.owner = r.owner ∧ x.kind = r.kind ∧ x.bytes = r.bytes ∧ x.data = r.data ∧ x.mask = r.mask ∧ x.st = .ready := by
  rw [h]
  exact ⟨rfl, rfl, rfl, rfl, rfl, rfl, rfl⟩

/-! ### Loads -/

/-- The request that a load of the address `a` makes. -/
def loadReq (b : Bead) (h : HartN) (a : Nat) : Req := { newReq b (.hartLoad h) .read (a / 32 * 32) 1 with bytes := a }

section
variable {s : State} {o : Ord} {h : HartN} {f : Fetched} {f3 : Nat} {fp : Bool} {rd : Fin 32} {addr : Word}

theorem completes_scalarLoad {rs1 : Fin 32} {imm : Word} (hf : fetched s o.val h.val = some f)
    (hi : f.insn = .load f3 fp rd rs1 imm)
    {p : State → Prop} (hp : p (loadDo o h f f3 fp rd (xReg (hartOf (beadOf s o.val) h.val) rs1 + imm) s)) :
    Completes (.scalarLoad o h) s p := by
  refine completes_of_exec ?_ hp
  change execScalarLoad o h s = _
  simp only [execScalarLoad, hf, hi]

theorem loadDo_misaligned (hal : devAddr addr % 2 ^ (f3 % 4) ≠ 0) : loadDo o h f f3 fp rd addr s = trapAt o h 4 addr s :=
  if_pos hal

variable (hal : devAddr addr % 2 ^ (f3 % 4) = 0)
include hal

theorem loadDo_own_good (hown : inOwnDmem o.val (devAddr addr) = true) {g : Nat} (hg : (devAddr addr - ownBase o.val) / 32 = g)
    (hgood : isBad (dmemGet s o.val g) = false) : loadDo o h f f3 fp rd addr s =
      retire o h (fun t => advance f.len (loadTo fp rd (loadValue f3 (devAddr addr % 32) (goodData (dmemGet s o.val g))) t))
        (lookOwn o.val g s) := by
  subst hg
  simp only [loadDo, hal, hown, hgood, ne_eq, not_true_eq_false, Bool.false_eq_true, if_false, if_true]

theorem loadDo_own_bad (hown : inOwnDmem o.val (devAddr addr) = true) {g : Nat} (hg : (devAddr addr - ownBase o.val) / 32 = g)
    (hbad : isBad (dmemGet s o.val g) = true) : loadDo o h f f3 fp rd addr s = trapAt o h 5 addr (lookOwn o.val g s) := by
  subst hg
  simp only [loadDo, hal, hown, hbad, ne_eq, not_true_eq_false, if_false, if_true]

theorem loadDo_window (hown : inOwnDmem o.val (devAddr addr) = false) (hwin : inOwnWindow o.val (devAddr addr) = true)
    {b : Bead} (hb : beadOf s o.val = b) {p : Nat × Nat × Nat} (hp : windowPlace o.val h.val (devAddr addr) = p) :
    loadDo o h f f3 fp rd addr s =
      if f3 % 4 = 0 then trapAt o h 5 addr s
      else if windowBusy b p.1 = true then holdAt o h .window s
      else if rowPoison (tileOf b p.1) p.2.1 = true then trapAt o h 5 addr s
      else retire o h (fun t => advance f.len (loadTo fp rd
        (loadValue f3 0 (BitVec.ofNat 256 (rowNumber (tileOf b p.1) p.2.1 / 256 ^ p.2.2))) t)) s := by
  subst hb hp
  have hbyte : 2 ^ (f3 % 4) = 1 ↔ f3 % 4 = 0 := by simp
  simp only [loadDo, hal, hown, hwin, hbyte, ne_eq, not_true_eq_false, Bool.false_eq_true, if_false, if_true]

theorem loadDo_hit (hown : inOwnDmem o.val (devAddr addr) = false) (hwin : inOwnWindow o.val (devAddr addr) = false) {l : L1Line}
    (hl : l1Find (beadOf s o.val) (devAddr addr / 64) = some l) : loadDo o h f f3 fp rd addr s =
      retire o h (fun t => advance f.len (loadTo fp rd (loadValue f3 (devAddr addr % 32) (goodData (l1Gran l (devAddr addr)))) t))
        (countEv o.val 0x12 1 (modBead o.val (l1Insert l) s)) := by
  simp only [loadDo, hal, hown, hwin, hl, ne_eq, not_true_eq_false, Bool.false_eq_true, if_false]

theorem loadDo_miss (hown : inOwnDmem o.val (devAddr addr) = false) (hwin : inOwnWindow o.val (devAddr addr) = false)
    (hl : l1Find (beadOf s o.val) (devAddr addr / 64) = none) : loadDo o h f f3 fp rd addr s =
      xlatReq o.val (loadReq (beadOf s o.val) h (devAddr addr)).id
        (issued o h (loadReq (beadOf s o.val) h (devAddr addr)) (countEv o.val 0x13 1 s)) := by
  simp only [loadDo, hal, hown, hwin, hl, ne_eq, not_true_eq_false, Bool.false_eq_true, if_false]
  exact makeReq_issued o h _ _

omit hal

/-- A line that a load hits becomes its set's most recent. -/
theorem beadIs_retire_l1Insert (g : Hart → Hart) (l : L1Line) (s : State) :
    let u := retire o h g (countEv o.val 0x12 1 (modBead o.val (l1Insert l) s))
    u.mem = s.mem ∧ BeadIs { beadOf s o.val with l1 := (beadOf u o.val).l1 } o.val h.val s u ∧
      hartOf (beadOf u o.val) h.val = g (hartOf (beadOf s o.val) h.val) := by
  have hbead : beadOf (countEv o.val 0x12 1 (modBead o.val (l1Insert l) s)) o.val = l1Insert l (beadOf s o.val) := by
    rw [beadOf_congr (countEv_beads _ _ _ _), beadOf_modBead]
  dsimp only
  refine ⟨by rw [retire_mem, countEv_mem, modBead_mem], beadIs_retire g (otherBeads_trans (otherBeads_modBead _ _ s)
    (otherBeads_of_beads (countEv_beads _ _ _ _))) ?_ (fun k _ => ?_)
    ((CountsOnly.of_asy rfl).trans (countsOnly_countEv _ _ _ _)), ?_⟩
  · rw [retire_bead, hbead]
    rfl
  · rw [hbead]
    rfl
  · rw [retire_hart, hbead]
    rfl

/-- A load's new request, on a state on which the miss has been counted. -/
theorem issued_load (a : Nat) : Issued o h (loadReq (beadOf s o.val) h a) s
    (issued o h (loadReq (beadOf s o.val) h a) (countEv o.val 0x13 1 s)) :=
  (issued_issued o h _ _).of_countEv

end

/-! ### Load-reserved -/

/-- The request that an LR, an SC or an AMO of `n` bytes at the address `a` makes; `data` is what it carries to its target. -/
def atomicReq (b : Bead) (h : HartN) (f5 n a : Nat) (data : List Code) : Req :=
  { newReq b (.hartAtomic h) .atomic (a / 32 * 32) 1 with
    bytes := a, data := data, mask := [BitVec.ofNat 32 f5, BitVec.ofNat 32 n, BitVec.ofNat 32 (a % 32)] }

/-- What an atomic's request carries plays no part in its translation. -/
theorem firstStop_atomicReq (s : State) (o : Nat) (b : Bead) (h : HartN) (f5 n a : Nat) (data : List Code) :
    firstStop s o (atomicReq b h f5 n a data) = firstStop s o (atomicReq b h f5 n a []) := by
  have hdevs : xlatDevs o (atomicReq b h f5 n a data) = xlatDevs o (atomicReq b h f5 n a []) := rfl
  have hxl (b' : Bead) : reqXl b' (atomicReq b h f5 n a data) = reqXl b' (atomicReq b h f5 n a []) := rfl
  have hcheck (a' : Access) (e : TlbEntry) (phys : Nat) :
      checkReq s (atomicReq b h f5 n a data) a' e phys = checkReq s (atomicReq b h f5 n a []) a' e phys := rfl
  simp only [firstStop, hdevs, hxl, hcheck]

/-- Bytes of a word or a double word. -/
def amoBytes (dbl : Bool) : Nat := if dbl then 8 else 4

theorem amoOld_amoBytes (dbl : Bool) (off : Nat) (g : Gran) :
    amoOld (amoBytes dbl) off g = loadValue (if dbl then 3 else 2) off g := by
  cases dbl <;> rfl

section
variable {s : State} {o : Ord} {h : HartN} {f : Fetched} {dbl : Bool} {rd : Fin 32} {addr : Word}

theorem completes_lr {rs1 rs2 : Fin 32} (hf : fetched s o.val h.val = some f) (hi : f.insn = .amo 2 dbl rd rs1 rs2)
    {p : State → Prop} (hp : p (lrDo o h f dbl rd (xReg (hartOf (beadOf s o.val) h.val) rs1) s)) :
    Completes (.scalarLoad o h) s p := by
  refine completes_of_exec ?_ hp
  change execScalarLoad o h s = _
  simp only [execScalarLoad, hf, hi]
  exact whenOk_of s rfl _

theorem lrDo_misaligned (hal : devAddr addr % amoBytes dbl ≠ 0) : lrDo o h f dbl rd addr s = trapAt o h 4 addr s := if_pos hal

variable (hal : devAddr addr % amoBytes dbl = 0)
include hal

theorem lrDo_own (hown : inOwnDmem o.val (devAddr addr) = true) {g : Nat} (hg : (devAddr addr - ownBase o.val) / 32 = g) :
    lrDo o h f dbl rd addr s =
      if isBad (codeAt s.mem (dmemGran o.val g)) = true then trapAt o h 5 addr (lookOwn o.val g s)
      else retire o h (fun t => advance f.len
          (setX rd (amoOld (amoBytes dbl) (devAddr addr % 32) (goodData (codeAt s.mem (dmemGran o.val g)))) t))
        (setResv (4 * o.val + h.val) (dmemGran o.val g + 1) (lookOwn o.val g s)) := by
  subst hg
  rw [amoBytes] at hal
  simp only [lrDo, hal, hown, amoOld_amoBytes, ne_eq, not_true_eq_false, if_false, if_true]
  rfl

theorem lrDo_window (hown : inOwnDmem o.val (devAddr addr) = false) (hwin : inOwnWindow o.val (devAddr addr) = true) :
    lrDo o h f dbl rd addr s = trapAt o h 7 addr s := by
  rw [amoBytes] at hal
  simp only [lrDo, hal, hown, hwin, ne_eq, not_true_eq_false, Bool.false_eq_true, if_false, if_true]

theorem lrDo_beyond (hown : inOwnDmem o.val (devAddr addr) = false) (hwin : inOwnWindow o.val (devAddr addr) = false) :
    ∃ data, lrDo o h f dbl rd addr s =
      let r := atomicReq (beadOf s o.val) h 2 (amoBytes dbl) (devAddr addr) data
      xlatReq o.val r.id (issued o h r s) := by
  rw [amoBytes] at hal
  simp only [lrDo, hal, hown, hwin, ne_eq, not_true_eq_false, Bool.false_eq_true, if_false]
  exact ⟨_, makeReq_issued o h _ s⟩

omit hal

/-- The hart of an LR has its reservation. -/
theorem retire_setResv (g : Hart → Hart) (k hart n : Nat) (s : State) :
    let u := retire o h g (setResv hart (n + 1) (lookOwn o.val k s))
    HartOnly o.val h.val s u ∧ hartOf (beadOf u o.val) h.val = g (hartOf (beadOf s o.val) h.val) ∧
      (∀ g, codeAt u.mem g = codeAt s.mem g) ∧ resvHeld u hart n = true := by
  obtain ⟨honly, -, hhart⟩ := ((MemoryOnly.lookOwn o.val k s).setResv hart (n + 1)).retire (o := o) (h := h) g
  refine ⟨honly, hhart, fun g => ?_, ?_⟩
  · rw [retire_mem]
    exact codeAt_congr (congrArg Memory.cells (lookOwn_mem o.val k s)) g
  · rw [resvHeld, retire_mem, setResv, tblGet_tblSet_same]
    exact beq_self_eq_true _

end

end Sys2Proof.Proofs
end

section
/-! Proofs for chapters 2 and 4: stores and atomics. -/

namespace Sys2Proof.Proofs

open Sys2Proof Sys2Proof.Machine Sys2Proof.Laws

/-! ### Stores -/

/-- The request that a store of `n` bytes at the address `a` makes. -/
def storeReq (b : Bead) (h : HartN) (n num a : Nat) : Req :=
  { newReq b (.hartStore h) .part (a / 32 * 32) 1 with
    bytes := a, data := [encodeGran (granAt (a % 32) num)], mask := [maskOf (a % 32) n] }

section
variable {s : State} {o : Ord} {h : HartN} {f : Fetched} {f3 : Nat} {v addr : Word}

theorem completes_scalarStore {fp : Bool} {rs1 rs2 : Fin 32} {imm : Word} (hf : fetched s o.val h.val = some f)
    (hi : f.insn = .store f3 fp rs1 rs2 imm) {p : State → Prop}
    (hp : p (storeDo o h f f3
      (if fp = true then (fReg (hartOf (beadOf s o.val) h.val) rs2).setWidth 64 else xReg (hartOf (beadOf s o.val) h.val) rs2)
      (xReg (hartOf (beadOf s o.val) h.val) rs1 + imm) s)) : Completes (.scalarStore o h) s p := by
  refine completes_of_exec ?_ hp
  change execScalarStore o h s = _
  simp only [execScalarStore, hf, hi]

theorem storeDo_misaligned (hal : devAddr addr % 2 ^ f3 ≠ 0) : storeDo o h f f3 v addr s = trapAt o h 6 addr s := if_pos hal

variable (hal : devAddr addr % 2 ^ f3 = 0)
include hal

theorem storeDo_own_good (hown : inOwnDmem o.val (devAddr addr) = true) {g : Nat} (hg : (devAddr addr - ownBase o.val) / 32 = g)
    (hgood : isBad (dmemGet s o.val g) = false) : storeDo o h f f3 v addr s =
      retire o h (advance f.len) (dmemPut o.val g (encodeGran (mergeBytes (goodData (dmemGet s o.val g))
        (granAt (devAddr addr % 32) (v.toNat % 2 ^ (8 * 2 ^ f3))) (maskOf (devAddr addr % 32) (2 ^ f3)))) (lookOwn o.val g s)) := by
  subst hg
  simp only [storeDo, hal, hown, mergeWrite_good hgood, bitsOf_low, ne_eq, not_true_eq_false, if_false, if_true]

theorem storeDo_own_bad (hown : inOwnDmem o.val (devAddr addr) = true)
    (hbad : isBad (dmemGet s o.val ((devAddr addr - ownBase o.val) / 32)) = true) : storeDo o h f f3 v addr s =
      trapAt o h 7 addr (lookOwn o.val ((devAddr addr - ownBase o.val) / 32) s) := by
  simp only [storeDo, hal, hown, if_pos (mergeWrite_bad hbad _ _), ne_eq, not_true_eq_false, if_false, if_true]

theorem storeDo_window (hown : inOwnDmem o.val (devAddr addr) = false) (hwin : inOwnWindow o.val (devAddr addr) = true)
    {p : Nat × Nat × Nat} (hp : windowPlace o.val h.val (devAddr addr) = p) : storeDo o h f f3 v addr s =
      if 2 ^ f3 = 1 then trapAt o h 7 addr s
      else if windowBusy (beadOf s o.val) p.1 = true then holdAt o h .window s
      else retire o h (advance f.len)
        (modBead o.val (windowStore p.1 p.2.1 p.2.2 (v.toNat % 2 ^ (8 * 2 ^ f3)) (2 ^ f3)) s) := by
  subst hp
  simp only [storeDo, hal, hown, hwin, bitsOf_low, ne_eq, not_true_eq_false, Bool.false_eq_true, if_false, if_true]

theorem storeDo_beyond (hown : inOwnDmem o.val (devAddr addr) = false) (hwin : inOwnWindow o.val (devAddr addr) = false) :
    storeDo o h f f3 v addr s =
      let r := storeReq (beadOf s o.val) h (2 ^ f3) (v.toNat % 2 ^ (8 * 2 ^ f3)) (devAddr addr)
      xlatReq o.val r.id (issued o h r s) := by
  simp only [storeDo, hal, hown, hwin, bitsOf_low, ne_eq, not_true_eq_false, Bool.false_eq_true, if_false]
  exact makeReq_issued o h _ s

end

theorem windowStore_harts (t r byte v n : Nat) (b : Bead) : (windowStore t r byte v n b).harts = b.harts := rfl

/-! ### Atomics -/

/-- What an AMO of `n` bytes leaves of a sum or a swap, in the bytes that it stores. -/
theorem amoValue_add (dbl : Bool) (old src : Word) :
    (amoValue 0 (amoBytes dbl) old src).toNat % 2 ^ (8 * amoBytes dbl) = (old + src).toNat % 2 ^ (8 * amoBytes dbl) := by
  simp only [amoValue, bitsOf_low, BitVec.toNat_add, BitVec.toNat_ofNat]
  cases dbl
  · change _ % 2 ^ 32 = _ % 2 ^ 32
    change ((_ % 2 ^ 32) % 2 ^ 64 + (_ % 2 ^ 32) % 2 ^ 64) % 2 ^ 64 % 2 ^ 32 = _
    omega
  · change ((_ % 2 ^ 64) % 2 ^ 64 + (_ % 2 ^ 64) % 2 ^ 64) % 2 ^ 64 % 2 ^ 64 = _ % 2 ^ 64
    omega

theorem amoValue_swap (dbl : Bool) (old src : Word) :
    (amoValue 1 (amoBytes dbl) old src).toNat % 2 ^ (8 * amoBytes dbl) = src.toNat % 2 ^ (8 * amoBytes dbl) := by
  simp only [amoValue, bitsOf_low, BitVec.toNat_ofNat]
  cases dbl
  · change _ % 2 ^ 32 % 2 ^ 64 % 2 ^ 32 = _ % 2 ^ 32
    omega
  · change _ % 2 ^ 64 % 2 ^ 64 % 2 ^ 64 = _ % 2 ^ 64
    omega

/-- A granule with the low bytes of a word in it, as an SC or an AMO leaves it. -/
def atomicGran (dbl : Bool) (off : Nat) (g : Gran) (v : Word) : Gran :=
  mergeBytes g (granAt off (v.toNat % 2 ^ (8 * amoBytes dbl))) (maskOf off (amoBytes dbl))

theorem atomicGran_add (dbl : Bool) (off : Nat) (g : Gran) (old src : Word) :
    atomicGran dbl off g (amoValue 0 (amoBytes dbl) old src) = atomicGran dbl off g (old + src) := by
  rw [atomicGran, amoValue_add, atomicGran]

theorem atomicGran_swap (dbl : Bool) (off : Nat) (g : Gran) (old src : Word) :
    atomicGran dbl off g (amoValue 1 (amoBytes dbl) old src) = atomicGran dbl off g src := by
  rw [atomicGran, amoValue_swap, atomicGran]

theorem atomicAct_amo {f5 : Nat} (h2 : f5 ≠ 2) (h3 : f5 ≠ 3) (dbl held : Bool) (off : Nat) (src : Word) (g : Gran) :
    atomicAct f5 (amoBytes dbl) off held src g =
      (some (atomicGran dbl off g (amoValue f5 (amoBytes dbl) (amoOld (amoBytes dbl) off g) src)),
        amoOld (amoBytes dbl) off g) := by
  simp only [atomicAct, h2, h3, bitsOf_low, if_false, atomicGran]

theorem atomicAct_sc_held {held : Bool} (hheld : held = true) (dbl : Bool) (off : Nat) (src : Word) (g : Gran) :
    atomicAct 3 (amoBytes dbl) off held src g = (some (atomicGran dbl off g src), 0) := by
  rw [hheld, atomicGran, ← bitsOf_low]
  rfl

theorem atomicAct_sc_lost {held : Bool} (hlost : held = false) (dbl : Bool) (off : Nat) (src : Word) (g : Gran) :
    atomicAct 3 (amoBytes dbl) off held src g = (none, 1) := by
  rw [hlost]
  rfl

/-- The granule that an atomic leaves, where it leaves one, goes into own data memory. -/
def putSome (o g : Nat) (d : Option Gran) (s : State) : State :=
  match d with
  | some d => dmemPut o g (encodeGran d) s
  | none => s

section
variable {s : State} {o : Ord} {h : HartN} {f : Fetched} {f5 : Nat} {dbl : Bool} {rd : Fin 32} {src addr : Word}

theorem completes_scalarAtomic {rs1 rs2 : Fin 32} (hf : fetched s o.val h.val = some f) (hi : f.insn = .amo f5 dbl rd rs1 rs2)
    (h2 : f5 ≠ 2) {p : State → Prop} (hp : p (atomicDo o h f f5 dbl rd (xReg (hartOf (beadOf s o.val) h.val) rs2)
      (xReg (hartOf (beadOf s o.val) h.val) rs1) s)) : Completes (.scalarAtomic o h) s p := by
  refine completes_of_exec ?_ hp
  change execScalarAtomic o h s = _
  simp only [execScalarAtomic, hf, hi]
  exact whenOk_of s (by simp [h2]) _

theorem atomicDo_misaligned (hal : devAddr addr % amoBytes dbl ≠ 0) :
    atomicDo o h f f5 dbl rd src addr s = trapAt o h 6 addr s := if_pos hal

variable (hal : devAddr addr % amoBytes dbl = 0)
include hal

/-- An SC or AMO on a good granule of own data memory. -/
theorem atomicDo_own_good (hown : inOwnDmem o.val (devAddr addr) = true) {g : Nat} (hg : (devAddr addr - ownBase o.val) / 32 = g)
    (hgood : isBad (dmemGet s o.val g) = false) {d : Option Gran} {x : Word}
    (hact : atomicAct f5 (amoBytes dbl) (devAddr addr % 32) (resvHeld s (4 * o.val + h.val) (dmemGran o.val g)) src
      (goodData (dmemGet s o.val g)) = (d, x)) : atomicDo o h f f5 dbl rd src addr s =
      retire o h (fun t => advance f.len (setX rd x t)) (resvAfter f5 (4 * o.val + h.val) (dmemGran o.val g)
        (putSome o.val g d (lookOwn o.val g s))) := by
  subst hg
  rw [← resvHeld_congr (lookOwn_mem o.val ((devAddr addr - ownBase o.val) / 32) s)] at hact
  unfold amoBytes at hal hact
  rw [dmemGet] at hgood hact
  simp only [atomicDo, hal, hown, hgood, hact, ne_eq, not_true_eq_false, Bool.false_eq_true, if_false, if_true]
  rfl

theorem atomicDo_own_bad (hown : inOwnDmem o.val (devAddr addr) = true)
    (hbad : isBad (dmemGet s o.val ((devAddr addr - ownBase o.val) / 32)) = true) : atomicDo o h f f5 dbl rd src addr s =
      trapAt o h 7 addr (lookOwn o.val ((devAddr addr - ownBase o.val) / 32) s) := by
  rw [amoBytes] at hal
  rw [dmemGet] at hbad
  simp only [atomicDo, hal, hown, hbad, ne_eq, not_true_eq_false, if_false, if_true]

theorem atomicDo_window (hown : inOwnDmem o.val (devAddr addr) = false) (hwin : inOwnWindow o.val (devAddr addr) = true) :
    atomicDo o h f f5 dbl rd src addr s = trapAt o h 7 addr s := by
  rw [amoBytes] at hal
  simp only [atomicDo, hal, hown, hwin, ne_eq, not_true_eq_false, Bool.false_eq_true, if_false, if_true]

theorem atomicDo_beyond (hown : inOwnDmem o.val (devAddr addr) = false) (hwin : inOwnWindow o.val (devAddr addr) = false) :
    ∃ data, atomicDo o h f f5 dbl rd src addr s =
      let r := atomicReq (beadOf s o.val) h f5 (amoBytes dbl) (devAddr addr) data
      xlatReq o.val r.id (issued o h r s) := by
  rw [amoBytes] at hal
  simp only [atomicDo, hal, hown, hwin, ne_eq, not_true_eq_false, Bool.false_eq_true, if_false]
  exact ⟨_, makeReq_issued o h _ s⟩

end

end Sys2Proof.Proofs
end

section
/-! Proof for chapters 2 and 4: what scalar accesses do. -/

namespace Sys2Proof.Proofs

open Sys2Proof Sys2Proof.Machine Sys2Proof.Laws

/-! ### Own data memory -/

section
variable {s : State} {o : Ord} {h : HartN}

/-- A store that retires has put its granule, and nothing else. -/
theorem retire_dmemPut (f : Hart → Hart) (g : Nat) (c : Code) (s : State) :
    let u := retire o h f (dmemPut o.val g c (lookOwn o.val g s))
    HartOnly o.val h.val s u ∧ hartOf (beadOf u o.val) h.val = f (hartOf (beadOf s o.val) h.val) ∧ u.bezels = s.bezels ∧
      (∀ k, k ≠ dmemGran o.val g → codeAt u.mem k = codeAt s.mem k) ∧ codeAt u.mem (dmemGran o.val g) = c := by
  obtain ⟨honly, hbezels, hhart⟩ := ((MemoryOnly.lookOwn o.val g s).dmemPut o.val g c).retire (o := o) (h := h) f
  refine ⟨honly, hhart, hbezels, fun k hk => ?_, ?_⟩
  · rw [retire_mem, codeAt_dmemPut_other hk, lookOwn_mem]
  · rw [retire_mem, codeAt_dmemPut_same]

/-- An SC or AMO that stores. -/
theorem retire_resvAfter_put (f : Hart → Hart) (f5 hart g : Nat) (d : Gran) (s : State) :
    let u := retire o h f (resvAfter f5 hart (dmemGran o.val g) (putSome o.val g (some d) (lookOwn o.val g s)))
    HartOnly o.val h.val s u ∧ u.bezels = s.bezels ∧ hartOf (beadOf u o.val) h.val = f (hartOf (beadOf s o.val) h.val) ∧
      (∀ k, k ≠ dmemGran o.val g → codeAt u.mem k = codeAt s.mem k) ∧ codeAt u.mem (dmemGran o.val g) = encodeGran d := by
  obtain ⟨honly, hbezels, hhart⟩ := (((MemoryOnly.lookOwn o.val g s).dmemPut o.val g (encodeGran d)).resvAfter f5 hart
    (dmemGran o.val g)).retire (o := o) (h := h) f
  refine ⟨honly, hbezels, hhart, fun k hk => ?_, ?_⟩
  · rw [retire_mem, codeAt_resvAfter, putSome, codeAt_dmemPut_other hk, lookOwn_mem]
  · rw [retire_mem, codeAt_resvAfter, putSome, codeAt_dmemPut_same]

/-- An SC that stores nothing. -/
theorem retire_resvAfter_none (f : Hart → Hart) (f5 hart g : Nat) (s : State) :
    let u := retire o h f (resvAfter f5 hart (dmemGran o.val g) (putSome o.val g none (lookOwn o.val g s)))
    HartOnly o.val h.val s u ∧ u.bezels = s.bezels ∧ hartOf (beadOf u o.val) h.val = f (hartOf (beadOf s o.val) h.val) ∧
      ∀ k, codeAt u.mem k = codeAt s.mem k := by
  obtain ⟨honly, hbezels, hhart⟩ := ((MemoryOnly.lookOwn o.val g s).resvAfter f5 hart
    (dmemGran o.val g)).retire (o := o) (h := h) f
  refine ⟨honly, hbezels, hhart, fun k => ?_⟩
  rw [retire_mem, codeAt_resvAfter, putSome, lookOwn_mem]

/-- An SC gives its hart's reservation up. -/
theorem resv_resvAfter_sc (f : Hart → Hart) (hart g : Nat) (s : State) :
    tblGet 0 (retire o h f (resvAfter 3 hart g s)).mem.resv hart = 0 := by
  rw [retire_mem, resvAfter, if_neg (by decide), if_pos rfl, setResv, tblGet_tblSet_same]

end

/-! ### The request of an atomic -/

section
variable {s t : State} {o : Ord} {h : HartN} {f5 n a : Nat} {data : List Code}

theorem reqAccess_atomicReq_ne_lr (b : Bead) (h2 : f5 ≠ 2) (hlt : f5 < 32) :
    reqAccess (atomicReq b h f5 n a data) ≠ .lr := by
  have hne : BitVec.ofNat 32 f5 ≠ 2 := by
    intro heq
    have hnat : f5 % 2 ^ 32 = 2 := congrArg BitVec.toNat heq
    omega
  change (if BitVec.ofNat 32 f5 = 2 then Access.lr else if BitVec.ofNat 32 f5 = 3 then .sc else .amo) ≠ .lr
  rw [if_neg hne]
  split <;> decide

/-- An SC or AMO that fails traps as a store. -/
theorem reqFail_atomicReq (b : Bead) (h2 : f5 ≠ 2) (hlt : f5 < 32) (dev : Nat) (x : Xlat) (t : State) :
    reqFail o.val (atomicReq b h f5 n a data) dev x t =
      hartFail o.val h.val true a x (modBead o.val (dropReq b.nextId) t) := by
  have hwrite : (reqAccess (atomicReq b h f5 n a data) != .lr) = true :=
    bne_iff_ne.2 (reqAccess_atomicReq_ne_lr b h2 hlt)
  change hartFail o.val h.val (_ || _) a x (modBead o.val (dropReq b.nextId) t) = _
  rw [hwrite, Bool.true_or]

theorem issued_atomic (data : List Code) (f5 n a : Nat) :
    Issued o h (atomicReq (beadOf s o.val) h f5 n a data) s (issued o h (atomicReq (beadOf s o.val) h f5 n a data) s) :=
  issued_issued o h _ s

end

/-! ### Each kind of access -/

/-- Settles O28, an access at a time: the model's function for it, cut into own data memory, the fragment window, the L1 and a
request, which waits for a walk, fails or is ready. -/
theorem scalarAccessesToDataMemory : Obligations.ScalarAccessesToDataMemory := by
  unfold Obligations.ScalarAccessesToDataMemory
  intro s o h f hf
  dsimp only
  refine ⟨fun f3 fp rd rs1 imm hi => ?load, fun dbl rd rs1 rs2 hi => ?lr, fun f3 fp rs1 rs2 imm hi => ?store,
    fun f5 dbl rd rs1 rs2 hi h2 => ?atomic⟩
  case load =>
    have hdo {p : State → Prop} := completes_scalarLoad (p := p) hf hi
    generalize xReg (hartOf (beadOf s o.val) h.val) rs1 + imm = addr at hdo ⊢
    refine ⟨fun hal => hdo ?_, fun hal => ⟨fun hown => ⟨fun hgood => hdo ?_, fun hbad => hdo ?_⟩,
      fun hown hwin => ⟨fun hbyte => hdo ?_, fun hbyte hbusy => hdo ?_, fun hbyte hbusy hpoison => hdo ?_,
        fun hbyte hbusy hpoison => hdo ?_⟩,
      fun hown hwin => ⟨fun l hl => hdo ?_, fun hl hfresh => ⟨fun hstop => hdo ?_, fun dev hstop => hdo ?_,
        fun dev x hstop => hdo ?_⟩⟩⟩⟩
    · rw [loadDo_misaligned hal]
      exact hartGoes_trapAt_here _ _ s
    · rw [loadDo_own_good hal hown rfl hgood]
      exact hartGoes_retire_lookOwn _ _ s
    · rw [loadDo_own_bad hal hown rfl hbad]
      exact hartGoes_trapAt_lookOwn _ _ _ s
    · rw [loadDo_window hal hown hwin rfl rfl, if_pos hbyte]
      exact hartGoes_trapAt_here _ _ s
    · rw [loadDo_window hal hown hwin rfl rfl, if_neg hbyte, if_pos hbusy]
      rfl
    · rw [loadDo_window hal hown hwin rfl rfl, if_neg hbyte, if_neg (Bool.eq_false_iff.1 hbusy), if_pos hpoison]
      exact hartGoes_trapAt_here _ _ s
    · rw [loadDo_window hal hown hwin rfl rfl, if_neg hbyte, if_neg (Bool.eq_false_iff.1 hbusy),
        if_neg (Bool.eq_false_iff.1 hpoison)]
      exact hartGoes_retire_here _ s
    · rw [loadDo_hit hal hown hwin hl]
      exact beadIs_retire_l1Insert _ _ s
    · rw [loadDo_miss hal hown hwin hl]
      obtain ⟨hmem, hothers, hhart, x, hx, hready⟩ := (issued_load (devAddr addr)).load_ready hfresh hstop rfl rfl
      obtain ⟨hid, howner, hkind, hbytes, -, -, hst⟩ := hready.fields
      exact ⟨hmem, hothers, hhart, x, hx, hid, howner, hkind, hbytes, hst⟩
    · rw [loadDo_miss hal hown hwin hl]
      exact (issued_load (devAddr addr)).walks hfresh hstop
    · rw [loadDo_miss hal hown hwin hl]
      exact (issued_load (devAddr addr)).fails (write := false) hfresh hstop rfl
  case lr =>
    have hdo {p : State → Prop} := completes_lr (p := p) hf hi
    generalize xReg (hartOf (beadOf s o.val) h.val) rs1 = addr at hdo ⊢
    refine ⟨fun hal => hdo ?_, fun hal => ⟨fun hown => ⟨fun hgood => hdo ?_, fun hbad => hdo ?_⟩, fun hown hwin => hdo ?_,
      fun hown hwin hfresh hstop => hdo ?_⟩⟩
    · rw [lrDo_misaligned hal]
      exact hartGoes_trapAt_here _ _ s
    · rw [lrDo_own hal hown rfl, if_neg (Bool.eq_false_iff.1 hgood)]
      exact retire_setResv _ _ _ _ s
    · rw [lrDo_own hal hown rfl, if_pos hbad]
      exact hartGoes_trapAt_lookOwn _ _ _ s
    · rw [lrDo_window hal hown hwin]
      exact hartGoes_trapAt_here _ _ s
    · obtain ⟨data, hlr⟩ := lrDo_beyond (s := s) (f := f) (rd := rd) (h := h) hal hown hwin
      rw [hlr]
      obtain ⟨hmem, hothers, hhart, x, hx, hready, hdev⟩ := (issued_atomic data 2 (amoBytes dbl) (devAddr addr)).atomic_ready
        hfresh ((firstStop_atomicReq _ _ _ _ _ _ _ _).trans hstop) rfl rfl
      obtain ⟨hid, howner, hkind, hbytes, -, hmask, hst⟩ := hready.fields
      exact ⟨hmem, hothers, hhart, x, hx, hid, howner, hkind, hdev, hbytes, hmask, hst⟩
  case store =>
    have hdo {p : State → Prop} := completes_scalarStore (p := p) hf hi
    have hfetch := fetched_at hf (by rw [hi]; exact Insn.noConfusion)
    generalize xReg (hartOf (beadOf s o.val) h.val) rs1 + imm = addr at hdo ⊢
    generalize (if fp = true then (fReg (hartOf (beadOf s o.val) h.val) rs2).setWidth 64
      else xReg (hartOf (beadOf s o.val) h.val) rs2) = v at hdo ⊢
    refine ⟨fun hal => hdo ?_, fun hal => ⟨fun hown => ⟨fun hgood _ => hdo ?_, fun hbad => hdo ?_⟩,
      fun hown hwin => ⟨fun hbyte => hdo ?_, fun hbyte hbusy => hdo ?_, fun hbyte hbusy => hdo ?_⟩,
      fun hown hwin hfresh => ⟨fun hstop => hdo ?_, fun dev hstop => hdo ?_, fun dev x hstop => hdo ?_⟩⟩⟩
    · rw [storeDo_misaligned hal]
      exact hartGoes_trapAt_here _ _ s
    · rw [storeDo_own_good hal hown rfl hgood]
      exact retire_dmemPut _ _ _ s
    · rw [storeDo_own_bad hal hown hbad]
      exact hartGoes_trapAt_lookOwn _ _ _ s
    · rw [storeDo_window hal hown hwin rfl, if_pos hbyte]
      exact hartGoes_trapAt_here _ _ s
    · rw [storeDo_window hal hown hwin rfl, if_neg hbyte, if_pos hbusy]
      rfl
    · rw [storeDo_window hal hown hwin rfl, if_neg hbyte, if_neg (Bool.eq_false_iff.1 hbusy)]
      exact ⟨rfl, beadIs_retire_modBead _ (windowStore_harts _ _ _ _ _) s⟩
    · rw [storeDo_beyond hal hown hwin]
      obtain ⟨hmem, hothers, hhart, x, hx, hready, hdev⟩ := (issued_issued o h
        (storeReq (beadOf s o.val) h (2 ^ f3) _ _) s).store_ready hfresh hstop rfl rfl ((inOwnDmem_gran o.val (devAddr addr)).trans hown) hfetch
      obtain ⟨hid, howner, hkind, hbytes, hdata, hmask, hst⟩ := hready.fields
      exact ⟨hmem, hothers, hhart, x, hx, hid, howner, hkind, hdev, hbytes, hdata, hmask, hst⟩
    · rw [storeDo_beyond hal hown hwin]
      exact (issued_issued o h (storeReq (beadOf s o.val) h (2 ^ f3) _ _) s).walks hfresh hstop
    · rw [storeDo_beyond hal hown hwin]
      exact (issued_issued o h (storeReq (beadOf s o.val) h (2 ^ f3) _ _) s).fails (write := true) hfresh hstop rfl
  case atomic =>
    have hdo {p : State → Prop} := completes_scalarAtomic (p := p) hf hi h2
    have hlt := fetched_amo_lt hf hi
    generalize xReg (hartOf (beadOf s o.val) h.val) rs1 = addr at hdo ⊢
    generalize xReg (hartOf (beadOf s o.val) h.val) rs2 = src at hdo ⊢
    refine ⟨fun hal => hdo ?_, fun hal => ⟨fun hown hgood _ => ⟨fun h3 => hdo ?_, fun h3 hheld => hdo ?_,
        fun h3 hlost => hdo ?_⟩,
      fun hown hbad => hdo ?_, fun hown hwin => hdo ?_, fun hown hwin hfresh => ?beyond⟩⟩
    · rw [atomicDo_misaligned hal]
      exact hartGoes_trapAt_here _ _ s
    · rw [atomicDo_own_good hal hown rfl hgood (atomicAct_amo h2 h3 _ _ _ _ _)]
      obtain ⟨honly, hbezels, hhart, hothers, hgran⟩ := retire_resvAfter_put _ _ _ _ _ s
      refine ⟨honly, hbezels, hhart, hothers, hgran, fun h0 => ?_, fun h1 => ?_⟩
      · subst h0
        exact hgran.trans (congrArg encodeGran (atomicGran_add _ _ _ _ _))
      · subst h1
        exact hgran.trans (congrArg encodeGran (atomicGran_swap _ _ _ _ _))
    · subst h3
      rw [atomicDo_own_good hal hown rfl hgood (atomicAct_sc_held hheld _ _ _ _)]
      obtain ⟨honly, hbezels, hhart, hothers, hgran⟩ := retire_resvAfter_put _ _ _ _ _ s
      exact ⟨honly, hbezels, hhart, hothers, hgran, resv_resvAfter_sc _ _ _ _⟩
    · subst h3
      rw [atomicDo_own_good hal hown rfl hgood (atomicAct_sc_lost hlost _ _ _ _)]
      obtain ⟨honly, hbezels, hhart, hothers⟩ := retire_resvAfter_none _ _ _ _ s
      exact ⟨honly, hbezels, hhart, hothers, resv_resvAfter_sc _ _ _ _⟩
    · rw [atomicDo_own_bad hal hown hbad]
      exact hartGoes_trapAt_lookOwn _ _ _ s
    · rw [atomicDo_window hal hown hwin]
      exact hartGoes_trapAt_here _ _ s
    case beyond =>
      obtain ⟨data, hatomic⟩ := atomicDo_beyond (s := s) (f := f) (f5 := f5) (rd := rd) (src := src) (h := h) hal hown hwin
      have hissued := issued_atomic (s := s) (o := o) (h := h) data f5 (amoBytes dbl) (devAddr addr)
      have hstop {x : Option (Nat × Option Xlat)} :=
        (firstStop_atomicReq s o.val (beadOf s o.val) h f5 (amoBytes dbl) (devAddr addr) data).trans (c := x)
      rw [hatomic] at hdo
      refine ⟨fun hnone => hdo ?_, fun dev hwalk => hdo ?_, fun dev x hfail => hdo ?_⟩
      · obtain ⟨hmem, hothers, hhart, x, hx, hready, hdev⟩ := hissued.atomic_ready hfresh (hstop hnone) rfl rfl
        obtain ⟨hid, howner, hkind, hbytes, -, hmask, hst⟩ := hready.fields
        exact ⟨hmem, hothers, hhart, x, hx, hid, howner, hkind, hdev, hbytes, hmask, hst⟩
      · obtain ⟨hmem, hothers, hhart, hreqs⟩ := hissued.walks hfresh (hstop hwalk)
        exact ⟨hmem, hothers, hhart, { atomicReq (beadOf s o.val) h f5 (amoBytes dbl) (devAddr addr) data with st := .walk },
          by rw [hreqs]; exact List.mem_concat_self, rfl, rfl, rfl, rfl⟩
      · exact hissued.fails (write := true) hfresh (hstop hfail) (reqFail_atomicReq _ h2 hlt _ _ _)

end Sys2Proof.Proofs
end

section
/-! Proofs for chapter 3: a mask request that takes the number of a tile load's request, behind a write of XQCTL. -/

namespace Sys2Proof.Proofs

open Sys2Proof Sys2Proof.Machine Sys2Proof.Laws

/-! ### A tile load behind a resumed one -/

/-- The request of an entry's first tile row, at a device address in the bead's own fragment window, where no request may
go (R163, R174). -/
def windowRow (id entry : Nat) : Req :=
  { id := id, owner := .tileRow entry 0, kind := .read, dev := ownBase 0 + 0xC0000, n := 1 }

/-- The tile load that stands behind the head of the L-queue. -/
def followingEntry : QEntry := { loadedEntry with id := 3 }

/-- Hart 0 of bead 0 is at `csrrw x0, XQCTL, x1` with RESUME of the L-queue in x1. The L-queue is stopped at entry 1, and
entry 3, a tile load too, stands behind it; an `MM.BWD` waits for its mask, and a row's request of entry 3 has the number
that the mask's request will take. -/
def resumeState : State :=
  { upWith { harts := [(0, { run := .running, x := [(1, 2)] })], active := codeBank 0x7C109073,
             queues := [(0, { ents := [maskedEntry] }),
               (1, { ents := [{ loadedEntry with st := .faulted }, followingEntry], stop := true })],
             nextId := 4, reqs := [windowRow 4 3] } with mmu := slicePages }

/-- What the write of XQCTL asks for: RESUME of queue 1, the L-queue. -/
def resumeUse : CsrUse := { num := 0x7C1, writes := true, old := 0, new := 2, rd := 0 }

theorem resumeState_use : xqctlUse resumeState 0 0 .resume = some (resumeUse, 4) := by decide

/-- The entry behind the resumed one has met a fault. -/
theorem resumeState_rest :
    (queueOf (beadOf (stateAfter (.xqctlResume 0 0) resumeState) 0) 1).ents.tail.map (·.bad.isSome) = [true] := by
  decide +kernel

/-- Refutes O31: behind the write of XQCTL the M-queue asks for the mask of its next entry; where a row's request of a tile
load has the number that the mask's request takes, that row is translated and fails, and its load, which stands behind the
resumed head, has a fault that it did not have. The statement asks of no state that the bead's next number is free. -/
theorem not_stoppedQueuesAreResumedOrDiscarded : ¬ Obligations.StoppedQueuesAreResumedOrDiscarded := by
  unfold Obligations.StoppedQueuesAreResumedOrDiscarded
  intro h
  obtain ⟨hresume, -⟩ := h resumeState 0 0 resumeUse 4
  refine not_completes (fun hp => ?_) (hresume resumeState_use)
  obtain ⟨-, hqueue⟩ := hp
  obtain ⟨-, e', hents, -⟩ := hqueue 1 _ [followingEntry] rfl rfl rfl
  have hrest : [followingEntry.bad.isSome] = [true] :=
    (congrArg (fun l => l.tail.map (·.bad.isSome)) hents).symm.trans resumeState_rest
  exact absurd hrest (by decide)

end Sys2Proof.Proofs
end

section
/-! Proofs for chapter 5: the arrays take weights, stream rows and accumulate. -/

namespace Sys2Proof.Proofs

open Sys2Proof Sys2Proof.Machine Sys2Proof.Laws

/-! ### Arrays and accumulators of a bead -/

theorem arrayOf_modArray (a : Nat) (f : Array → Array) (b : Bead) : arrayOf (modArray a f b) a = f (arrayOf b a) :=
  tblGet_tblSet_same _ _ _ _

theorem arrayOf_modArray_other {a k : Nat} (f : Array → Array) (b : Bead) (h : k ≠ a) :
    arrayOf (modArray a f b) k = arrayOf b k := tblGet_tblSet_other _ _ _ _ _ h

/-- What a change of an array leaves in it, it leaves in every array. -/
theorem modArray_leaves {γ : Type} (g : Array → γ) {f : Array → Array} (h : ∀ x, g (f x) = g x) (a : Nat) (b : Bead)
    (k : Nat) : g (arrayOf (modArray a f b) k) = g (arrayOf b k) := by
  by_cases hk : k = a
  · rw [hk, arrayOf_modArray, h]
  · rw [arrayOf_modArray_other f b hk]

theorem accOf_setAcc (k : Nat) (v : Acc) (b : Bead) : accOf (setAcc k v b) k = v := tblGet_tblSet_same _ _ _ _

theorem accOf_setAcc_other {k k' : Nat} (v : Acc) (b : Bead) (h : k' ≠ k) : accOf (setAcc k v b) k' = accOf b k' :=
  tblGet_tblSet_other _ _ _ _ _ h

/-! ### A row enters an array -/

/-- Beside the standby weights, the entries and array `a`'s rows, a step of a stream leaves the bead as it is. -/
structure StreamStep (a : Nat) (b b' : Bead) : Prop where
  accs : b'.accs = b.accs
  tiles : b'.tiles = b.tiles
  active : ∀ k, (arrayOf b' k).active = (arrayOf b k).active
  flight : ∀ k, k ≠ a → (arrayOf b' k).flight = (arrayOf b k).flight

/-- Behind the rows `l`, only places of empty products have joined (R193, R210). -/
def EmptiesBehind (l l' : List RowJob) : Prop := ∃ x, l' = l ++ x ∧ ∀ j ∈ x, j.xs = [] ∧ j.frozen = true

theorem EmptiesBehind.refl (l : List RowJob) : EmptiesBehind l l := ⟨[], (List.append_nil l).symm, by simp⟩

theorem EmptiesBehind.concat {l l' : List RowJob} (h : EmptiesBehind l l') (e : QEntry) (a : Nat) :
    EmptiesBehind l (l' ++ [emptyJob e a]) := by
  obtain ⟨x, rfl, hx⟩ := h
  refine ⟨x ++ [emptyJob e a], List.append_assoc _ _ _, fun j hj => ?_⟩
  rcases List.mem_append.1 hj with hj | hj
  · exact hx j hj
  · rw [List.mem_singleton.1 hj]
    exact ⟨rfl, rfl⟩

section
variable {a : Nat} {b b' b'' : Bead} {e : QEntry}

theorem StreamStep.refl (a : Nat) (b : Bead) : StreamStep a b b := ⟨rfl, rfl, fun _ => rfl, fun _ _ => rfl⟩

theorem StreamStep.trans (h : StreamStep a b b') (g : StreamStep a b' b'') : StreamStep a b b'' where
  accs := g.accs.trans h.accs
  tiles := g.tiles.trans h.tiles
  active k := (g.active k).trans (h.active k)
  flight k n := (g.flight k n).trans (h.flight k n)

/-- Any change of the array but of its active weights. -/
theorem streamStep_modArray {f : Array → Array} (a : Nat) (b : Bead) (hf : ∀ x, (f x).active = x.active := by intro; rfl) :
    StreamStep a b (modArray a f b) where
  accs := rfl
  tiles := rfl
  active := modArray_leaves Array.active hf a b
  flight _ n := congrArg Array.flight (arrayOf_modArray_other f b n)

theorem streamStep_modEntry (a q id : Nat) (f : QEntry → QEntry) (b : Bead) : StreamStep a b (modEntry q id f b) :=
  ⟨rfl, rfl, fun _ => rfl, fun _ _ => rfl⟩

theorem arrayOf_modEntry (q id : Nat) (f : QEntry → QEntry) (b : Bead) (k : Nat) :
    arrayOf (modEntry q id f b) k = arrayOf b k := rfl

/-- The load of a dY row changes standby weights alone. -/
theorem feedRow_leaves {γ : Type} (g : Array → γ) (hg : ∀ x w, g { x with standby := w } = g x) (e : QEntry) (xs : List Half)
    (b : Bead) (k : Nat) : g (arrayOf (feedRow e xs b) k) = g (arrayOf b k) := by
  unfold feedRow
  split
  · rfl
  · exact modArray_leaves g (fun x => hg x _) 1 b k

theorem feedRow_flight (e : QEntry) (xs : List Half) (b : Bead) (k : Nat) :
    (arrayOf (feedRow e xs b) k).flight = (arrayOf b k).flight := feedRow_leaves Array.flight (fun _ _ => rfl) e xs b k

theorem streamStep_feedRow (a : Nat) (e : QEntry) (xs : List Half) (b : Bead) : StreamStep a b (feedRow e xs b) where
  accs := by
    unfold feedRow
    split <;> rfl
  tiles := by
    unfold feedRow
    split <;> rfl
  active := feedRow_leaves Array.active (fun _ _ => rfl) e xs b
  flight k _ := feedRow_flight e xs b k

theorem streamStep_enterRow (e : QEntry) (a : Nat) (r : SrcRow) (w : Weights) (b : Bead) :
    StreamStep a b (enterRow e a r w b) := by
  refine .trans ?_ (streamStep_modEntry a 0 e.id _ _)
  split
  · exact .trans (streamStep_modArray a b) (streamStep_feedRow a e _ _)
  · exact streamStep_modArray a b

theorem enterRow_flight (e : QEntry) (a : Nat) (r : SrcRow) (w : Weights) (b : Bead) :
    (arrayOf (enterRow e a r w b) a).flight = (arrayOf b a).flight ++ [rowJob e a r w (startMask e)] := by
  unfold enterRow
  dsimp only
  rw [arrayOf_modEntry]
  split
  · rw [feedRow_flight, arrayOf_modArray]
  · rw [arrayOf_modArray]

theorem enterEmpties_step (a : Nat) (b : Bead) : StreamStep a b (enterEmpties a b) ∧
    EmptiesBehind (arrayOf b a).flight (arrayOf (enterEmpties a b) a).flight := by
  unfold enterEmpties
  induction 32 with
  | zero => exact ⟨.refl a b, .refl _⟩
  | succ n ih =>
    obtain ⟨hstep, hown⟩ := ih
    rw [upTo_succ]
    split
    · rename_i e _
      refine ⟨hstep.trans (.trans (streamStep_modArray a _) (streamStep_modEntry a 0 e.id _ _)), ?_⟩
      rw [arrayOf_modEntry, arrayOf_modArray]
      exact hown.concat e a
    · exact ⟨hstep, hown⟩

end

/-! ### A row enters every array that it is for -/

/-- What a source row does on one of its arrays. -/
def enterOn (e : QEntry) (r : SrcRow) (b : Bead) (k : Nat) : Bead :=
  match rowWeights b e k with
  | some w => enterEmpties k (enterRow e k r w b)
  | none => b

theorem enterAll_eq (e : QEntry) (a : Nat) (r : SrcRow) (b : Bead) : enterAll e a r b = (rowArrays e a).foldl (enterOn e r) b :=
  rfl

section
variable {e : QEntry} {r : SrcRow} {b b' : Bead} {k : Nat} {w : Weights}

theorem streamStep_enterOn (e : QEntry) (r : SrcRow) (b : Bead) (k : Nat) : StreamStep k b (enterOn e r b k) := by
  unfold enterOn
  split
  · exact (streamStep_enterRow e k r _ b).trans (enterEmpties_step k _).1
  · exact .refl k b

theorem enterOn_flight (hw : rowWeights b e k = some w) :
    EmptiesBehind ((arrayOf b k).flight ++ [rowJob e k r w (startMask e)]) (arrayOf (enterOn e r b k) k).flight := by
  simp only [enterOn, hw]
  rw [← enterRow_flight]
  exact (enterEmpties_step k _).2

theorem rowWeights_congr (h : (arrayOf b' k).active = (arrayOf b k).active) : rowWeights b' e k = rowWeights b e k := by
  rw [rowWeights, rowWeights, h]

theorem foldl_enterOn_other (b : Bead) {l : List Nat} (hk : k ∉ l) :
    (arrayOf (l.foldl (enterOn e r) b) k).flight = (arrayOf b k).flight := by
  induction l generalizing b with
  | nil => rfl
  | cons a l ih =>
    obtain ⟨hka, hkl⟩ := List.ne_and_not_mem_of_not_mem_cons hk
    rw [List.foldl_cons, ih _ hkl, (streamStep_enterOn e r b a).flight k hka]

/-- The row joins each of its arrays with the weights that are active there before it enters any of them. -/
theorem foldl_enterOn_flight {l : List Nat} (hl : l.Nodup) (hk : k ∈ l) (hw : rowWeights b e k = some w) :
    EmptiesBehind ((arrayOf b k).flight ++ [rowJob e k r w (startMask e)]) (arrayOf (l.foldl (enterOn e r) b) k).flight := by
  induction l generalizing b with
  | nil => cases hk
  | cons a l ih =>
    obtain ⟨hal, hl⟩ := List.nodup_cons.1 hl
    rw [List.foldl_cons]
    rcases List.mem_cons.1 hk with rfl | hkl
    · rw [foldl_enterOn_other _ hal]
      exact enterOn_flight hw
    · have hstep := streamStep_enterOn e r b a
      rw [← hstep.flight k (fun h => hal (h ▸ hkl))]
      exact ih hl hkl ((rowWeights_congr (hstep.active k)).trans hw)

theorem rowArrays_nodup (e : QEntry) (a : Nat) : (rowArrays e a).Nodup := by
  unfold rowArrays
  split
  · decide
  · exact List.nodup_singleton a

theorem enterAll_accs (e : QEntry) (a : Nat) (r : SrcRow) (b : Bead) : (enterAll e a r b).accs = b.accs :=
  foldl_leaves Bead.accs (fun b k => (streamStep_enterOn e r b k).accs) _ b

theorem enterAll_tiles (e : QEntry) (a : Nat) (r : SrcRow) (b : Bead) : (enterAll e a r b).tiles = b.tiles :=
  foldl_leaves Bead.tiles (fun b k => (streamStep_enterOn e r b k).tiles) _ b

/-- Where a row leaves the feeders, at most the ck of the feeders' pause changes (R197). -/
theorem leaveFeeders_leaves {γ : Type} (g : Array → γ) (hg : ∀ x n, g { x with pause := n } = g x) (s : State) (o a : Nat)
    (b : Bead) (k : Nat) : g (arrayOf (leaveFeeders s o a b) k) = g (arrayOf b k) := by
  unfold leaveFeeders
  dsimp only
  split
  · exact modArray_leaves g (fun x => hg x _) a b k
  · rfl

theorem leaveFeeders_accs (s : State) (o a : Nat) (b : Bead) : (leaveFeeders s o a b).accs = b.accs := by
  unfold leaveFeeders
  dsimp only
  split <;> rfl

theorem leaveFeeders_tiles (s : State) (o a : Nat) (b : Bead) : (leaveFeeders s o a b).tiles = b.tiles := by
  unfold leaveFeeders
  dsimp only
  split <;> rfl

end

/-- A source row has left the feeders and entered every array that it is for. -/
def rowEntered (o a : Nat) (e : QEntry) (r : SrcRow) (s : State) : State :=
  modBead o (fun b => enterAll e a r (leaveFeeders s o a b)) s

section
variable {s : State} {o a k : Nat} {e : QEntry} {r : SrcRow} {w : Weights}

theorem rowEntered_bead (o a : Nat) (e : QEntry) (r : SrcRow) (s : State) :
    beadOf (rowEntered o a e r s) o = enterAll e a r (leaveFeeders s o a (beadOf s o)) := beadOf_modBead _ _ _

theorem rowEntered_accs (o a : Nat) (e : QEntry) (r : SrcRow) (s : State) :
    (beadOf (rowEntered o a e r s) o).accs = (beadOf s o).accs := by
  rw [rowEntered_bead, enterAll_accs, leaveFeeders_accs]

theorem rowEntered_tiles (o a : Nat) (e : QEntry) (r : SrcRow) (s : State) :
    (beadOf (rowEntered o a e r s) o).tiles = (beadOf s o).tiles := by
  rw [rowEntered_bead, enterAll_tiles, leaveFeeders_tiles]

theorem rowEntered_flight (hk : k ∈ rowArrays e a) (hw : rowWeights (beadOf s o) e k = some w) :
    ∃ l : List RowJob, (arrayOf (beadOf (rowEntered o a e r s) o) k).flight =
      (arrayOf (beadOf s o) k).flight ++ rowJob e k r w (startMask e) :: l ∧ ∀ j ∈ l, j.xs = [] ∧ j.frozen = true := by
  have hactive := leaveFeeders_leaves Array.active (fun _ _ => rfl) s o a (beadOf s o) k
  obtain ⟨l, hl, hempty⟩ := foldl_enterOn_flight (r := r) (rowArrays_nodup e a) hk ((rowWeights_congr hactive).trans hw)
  refine ⟨l, ?_, hempty⟩
  rw [rowEntered_bead, enterAll_eq, hl, leaveFeeders_leaves Array.flight fun _ _ => rfl]
  exact List.append_assoc _ _ _

end

/-! ### What leaves the arrays of a bead -/

/-- Only bead `o` has changed, and not its tile registers, accumulators and arrays. -/
structure ArraysKept (o : Nat) (s t : State) : Prop where
  others : OtherBeads o s t
  tiles : (beadOf t o).tiles = (beadOf s o).tiles
  accs : (beadOf t o).accs = (beadOf s o).accs
  arrs : (beadOf t o).arrs = (beadOf s o).arrs

section
variable {s t u : State} {o : Nat}

theorem ArraysKept.of_beads (h : t.beads = s.beads) : ArraysKept o s t := by
  have hb := beadOf_congr h o
  exact ⟨otherBeads_of_beads h, by rw [hb], by rw [hb], by rw [hb]⟩

theorem ArraysKept.refl (o : Nat) (s : State) : ArraysKept o s s := .of_beads rfl

theorem ArraysKept.trans (h : ArraysKept o s t) (g : ArraysKept o t u) : ArraysKept o s u where
  others := otherBeads_trans h.others g.others
  tiles := g.tiles.trans h.tiles
  accs := g.accs.trans h.accs
  arrs := g.arrs.trans h.arrs

theorem ArraysKept.upd (h : ArraysKept o s t) (hu : u.beads = t.beads) : ArraysKept o s u := h.trans (.of_beads hu)

theorem ArraysKept.ite {c : Prop} {_ : Decidable c} (ht : ArraysKept o s t) (hu : ArraysKept o s u) :
    ArraysKept o s (if c then t else u) := by
  split
  · exact ht
  · exact hu

theorem ArraysKept.arrayOf (h : ArraysKept o s t) (k : Nat) : arrayOf (beadOf t o) k = arrayOf (beadOf s o) k := by
  rw [Machine.arrayOf, Machine.arrayOf, h.arrs]

theorem arraysKept_modStrand (n : Nat) (f : Strand → Strand) (s : State) : ArraysKept o s (modBead o (modStrand n f) s) where
  others := otherBeads_modBead o _ s
  tiles := by rw [beadOf_modBead]; rfl
  accs := by rw [beadOf_modBead]; rfl
  arrs := by rw [beadOf_modBead]; rfl

theorem claspSignal_beads (o n k : Nat) (s : State) : (claspSignal o n k s).beads = s.beads := rfl

theorem arraysKept_endStrand (n code : Nat) (stopped : Bool) (s : State) : ArraysKept o s (endStrand o n code stopped s) := by
  have hbead (k : Strand) : ArraysKept o s (modBead o (fun b => setStrand n k (leaveReqs n b)) s) := by
    refine ⟨otherBeads_modBead o _ s, ?_, ?_, ?_⟩
    all_goals rw [beadOf_modBead]; rfl
  have hwrite (k : Strand) (l : List Byte) (off : Nat) :
      ArraysKept o s (dmemWrite o off l (modBead o (fun b => setStrand n k (leaveReqs n b)) s)) :=
    (hbead k).upd (dmemWrite_beads _ o off l)
  unfold endStrand
  dsimp only
  refine .upd (.ite (.upd ?_ (claspSignal_beads _ _ _ _)) ?_) (freeWatch_beads _ o n)
  all_goals exact hwrite _ _ _

theorem arraysKept_settleStrand (n : Nat) (s : State) : ArraysKept o s (settleStrand o n s) := by
  unfold settleStrand
  refine .ite (.refl o s) ?_
  split
  · exact .ite (.refl o s) (.ite ((arraysKept_endStrand _ _ _ _).upd (recordInvalid_beads _ _ _ _))
      ((arraysKept_endStrand _ _ _ _).upd (recordAddr_beads _ _ _ _ _)))
  · exact .ite (arraysKept_endStrand _ _ _ _) (.refl o s)

theorem arraysKept_takeRow (n : Nat) (s : State) : ArraysKept o s (takeRow o n s) := by
  unfold takeRow
  exact .ite ((arraysKept_modStrand n _ s).trans (arraysKept_settleStrand n _)) (arraysKept_modStrand n _ s)

theorem arraysKept_stopQueue (q : Nat) (e : QEntry) (code part addr : Nat) (s : State) :
    ArraysKept o s (stopQueue o q e code part addr s) := by
  obtain ⟨b, detail, hb, hstop⟩ := stopQueue_eq o q e code part addr s
  have hset : ArraysKept o s (setBead o b s) := by
    refine ⟨otherBeads_setBead o b s, ?_, ?_, ?_⟩
    all_goals rw [beadOf_setBead, hb]; rfl
  have hcount := hset.upd (countEv_beads _ o 0x0E 1)
  rw [hstop]
  exact .ite (hcount.upd (recordAt_beads _ _ _ _)) (hcount.upd (recordAddr_beads _ _ _ _ _))

theorem arraysKept_settleHead (q : Nat) (s : State) : ArraysKept o s (settleHead o q s) := by
  unfold settleHead
  dsimp only
  split
  · split
    · exact .ite (.refl o s) (arraysKept_stopQueue _ _ _ _ _ _)
    · exact .refl o s
  · exact .refl o s

end

/-! ### The row that enters next -/

section
variable {s : State} {o : Ord} {a : ArrN} {e : QEntry}

theorem execArrayRowEnter_due (hruns : beadRuns s o.val = true) (hdue : rowDue (beadOf s o.val) a.val = some e)
    (hduty : dutyOpen s = true) (hready : sourceReady s o.val e a.val = true) :
    exec (.arrayRowEnter o a) s = .next (rowStep o.val a.val e s) := by
  change execArrayRowEnter o a s = _
  rw [execArrayRowEnter, hdue]
  exact whenOk_of s (by rw [hruns, hduty, hready]; rfl) _

theorem rowStep_tile {r : SrcRow} (hsrc : tileSource (beadOf s o.val) e a.val = some r) :
    rowStep o.val a.val e s = rowEntered o.val a.val e r s := by
  simp only [rowStep, hsrc]
  rfl

variable {n : Nat}

theorem sourceTile_of_strand (hn : strandSource e = some n) : sourceTile e = none := by
  unfold strandSource at hn
  unfold sourceTile
  split at hn
  case h_4 => cases hn
  all_goals
    obtain ⟨hstrand, -⟩ := Option.ite_none_right_eq_some.1 hn
    simp [hstrand]

/-- Only array B of an MM.BWD takes its rows from TX (R198). -/
theorem bwdB_false (h : isBwd e = false ∨ a.val = 0) : (isBwd e && a.val == 1) = false := by
  rcases h with h | h <;> simp [h]

theorem tileSource_of_strand (hn : strandSource e = some n) (h : isBwd e = false ∨ a.val = 0) (b : Bead) :
    tileSource b e a.val = none := by
  simp only [tileSource, bwdB_false h, sourceTile_of_strand hn]
  rfl

theorem feedStrand_of_none (h : feedNext s o.val n = none) : feedStrand o.val n s = s :=
  upTo_same fun _ _ => by rw [h]

theorem sourceReady_of_run (hn : strandSource e = some n) (hfeed : feedNext s o.val n = none) {x : StrandRun}
    (hhead : feedHead (beadOf s o.val) n = .run x) : sourceReady s o.val e a.val = true := by
  unfold sourceReady
  simp [hn, feedStrand_of_none hfeed, hhead]

/-- The head row of a strand that has no row more for the feeders enters and leaves them. -/
theorem rowStep_strand (hn : strandSource e = some n) (h : isBwd e = false ∨ a.val = 0) (hfeed : feedNext s o.val n = none)
    {x : StrandRun} (hhead : feedHead (beadOf s o.val) n = .run x) (hfresh : x.stale = false)
    (hgood : x.bad = false ∨ x.void = true) :
    rowStep o.val a.val e s = takeRow o.val n (rowEntered o.val a.val e (runRow x (redOf e a.val)) s) := by
  have hbad : (x.bad && !x.void) = false := by rcases hgood with h | h <;> simp [h]
  simp only [rowStep, tileSource_of_strand hn h, hn, feedStep, feedStrand_of_none hfeed, fedStep, hhead, hfresh, hbad]
  rfl

end

/-! ### The oldest row is done -/

/-- The oldest row `j` of array `a` is added into its accumulator, with the rows `rest` behind it. -/
def addOldest (a : Nat) (j : RowJob) (rest : List RowJob) (b : Bead) : Bead :=
  setAcc (accKey (a == 1) j.acc.val) (addRow j (accOf b (accKey (a == 1) j.acc.val)))
    (modArray a (fun x => { x with flight := rest }) b)

section
variable {s : State} {o a : Nat} {j : RowJob} {rest : List RowJob}

/-- The oldest row of array `a` is gone and the rows `rest` are left there; the tile registers and the other beads are as
before. -/
structure RowEnded (o a : Nat) (rest : List RowJob) (s t : State) : Prop where
  others : OtherBeads o s t
  flight : (arrayOf (beadOf t o) a).flight = rest
  tiles : (beadOf t o).tiles = (beadOf s o).tiles

theorem addOldest_flight (a : Nat) (j : RowJob) (rest : List RowJob) (b : Bead) :
    (arrayOf (addOldest a j rest b) a).flight = rest := 
  congrArg Array.flight (arrayOf_modArray a (fun x => { x with flight := rest }) b)

theorem rowEnded_setBead {b : Bead} (harrs : b.arrs = (addOldest a j rest (beadOf s o)).arrs)
    (htiles : b.tiles = (beadOf s o).tiles) : RowEnded o a rest s (setBead o b s) where
  others := otherBeads_setBead o b s
  flight := by
    rw [beadOf_setBead, arrayOf, harrs]
    exact addOldest_flight a j rest _
  tiles := by rw [beadOf_setBead, htiles]

theorem RowEnded.kept {t u : State} (h : RowEnded o a rest s t) (hk : ArraysKept o t u) : RowEnded o a rest s u where
  others := otherBeads_trans h.others hk.others
  flight := by rw [hk.arrayOf, h.flight]
  tiles := hk.tiles.trans h.tiles

theorem emptyAccs_arrs (e : QEntry) (b : Bead) : (emptyAccs e b).arrs = b.arrs :=
  foldl_leaves Bead.arrs (f := fun b a => emptyAcc (accKeyOf e a) b) (fun _ _ => rfl) _ b

theorem emptyAccs_tiles (e : QEntry) (b : Bead) : (emptyAccs e b).tiles = b.tiles :=
  foldl_leaves Bead.tiles (f := fun b a => emptyAcc (accKeyOf e a) b) (fun _ _ => rfl) _ b

/-- Whatever becomes of the row's entry (R135, R216). -/
theorem rowDone_ended (h : (arrayOf (beadOf s o) a).flight = j :: rest) : RowEnded o a rest s (rowDone o a s) := by
  simp only [rowDone, h]
  split
  · split
    · exact (rowEnded_setBead (j := j) (emptyAccs_arrs _ _) (emptyAccs_tiles _ _)).kept (arraysKept_settleHead 0 _)
    · exact rowEnded_setBead (j := j) rfl rfl
  · split
    · exact rowEnded_setBead (j := j) rfl rfl
    · exact rowEnded_setBead (j := j) rfl rfl

/-- The row of an entry that has no fault. -/
theorem rowDone_good (h : (arrayOf (beadOf s o) a).flight = j :: rest) {e : QEntry}
    (he : findEntry (beadOf s o) 0 j.entry = some e) (hgood : e.bad = none) :
    rowDone o a s = setBead o (addOldest a j rest (beadOf s o)) s := by
  simp only [rowDone, h]
  split
  · rename_i e' he'
    obtain rfl : e = e' := Option.some.inj (he.symm.trans he')
    rw [hgood]
    rfl
  · rename_i he'
    cases he.symm.trans he'


/-- The last row of an entry that is gone empties its accumulator (R135). -/
theorem rowDone_gone (h : (arrayOf (beadOf s o) a).flight = j :: rest) (he : findEntry (beadOf s o) 0 j.entry = none)
    (hlast : ∀ x ∈ rest, x.entry ≠ j.entry) :
    rowDone o a s = setBead o (emptyAcc (accKey (a == 1) j.acc.val) (addOldest a j rest (beadOf s o))) s := by
  have hnone : (rest.any fun x => x.entry == j.entry) = false := by simpa using hlast
  simp only [rowDone, h]
  split
  · rename_i he'
    cases he.symm.trans he'
  · rw [hnone]
    rfl

theorem execArrayRowComplete_next {o : Ord} {a : ArrN} (hruns : beadRuns s o.val = true)
    (h : (arrayOf (beadOf s o.val) a.val).flight = j :: rest) :
    exec (.arrayRowComplete o a) s = .next (rowDone o.val a.val s) :=
  whenOk_of s (by rw [hruns, h]; rfl) _

end

/-! ### Weights become active -/

theorem execWeightsActivate_next {s : State} {o : Ord} {a : ArrN} {w : Weights} {e : QEntry} (hruns : beadRuns s o.val = true)
    (h : activates (beadOf s o.val) a.val = some (w, e)) :
    exec (.weightsActivate o a) s = .next (modBead o.val (fun b => activate b a.val w e) s) := by
  change execWeightsActivate o a s = _
  rw [execWeightsActivate, h]
  exact whenOk_of s hruns _

section
variable {b : Bead} {a : Nat} {w : Weights} {e : QEntry}

theorem activates_of (hstandby : (arrayOf b a).standby = some w) (hstream : streaming b a = some e) (hloaded : w.loaded = w.rows)
    (hentry : w.entry = e.id) (hpass : w.pass = passAt e a) (hrow : rowAt e a = 0) : activates b a = some (w, e) := by
  simp only [activates, hstandby, hstream]
  exact if_pos ⟨hloaded, hentry, hpass, hrow⟩

/-- The array behind the activation: the weights are active, and the low parts of a split entry load (R187, R200). -/
theorem arrayOf_activate (b : Bead) (a : Nat) (w : Weights) (e : QEntry) : arrayOf (activate b a w e) a = { arrayOf b a with
    active := some w
    standby := if tcSplit e.tcfg && w.pass == 0 && (stationary e a).isSome then some (loadWeights b e a 2) else none } :=
  arrayOf_modArray a _ b

end

/-- Settles O35: an activation changes one array; a row joins each of its arrays in turn, none of which the others touch, and
leaves its strand, which touches no array; the oldest row is added into its accumulator, and what follows for an entry that has
failed or gone touches neither the rows behind it nor a tile register. -/
theorem arraysLoadStreamAndAccumulate : Obligations.ArraysLoadStreamAndAccumulate := by
  unfold Obligations.ArraysLoadStreamAndAccumulate
  intro s o a hruns
  dsimp only
  refine ⟨fun w e hstandby hstream hloaded hentry hpass hrow => ?_, fun e r hdue hsrc hduty hready => ?_,
    fun e n x hdue hn hside hduty hfeed hhead hfresh hgood => ?_, fun j rest hflight => ?_⟩
  · refine completes_of_exec
      (execWeightsActivate_next hruns (activates_of hstandby hstream hloaded hentry hpass hrow))
      ⟨otherBeads_modBead _ _ _, rfl, ?_⟩
    rw [beadOf_modBead, arrayOf_activate]
    refine ⟨rfl, rfl, fun hwhole => ?_, fun hsplit hfirst hstat => ?_, rfl, rfl⟩
    · simp [hwhole]
    · simp [hsplit, hfirst, hstat]
  · have hexec := execArrayRowEnter_due hruns hdue hduty hready
    rw [rowStep_tile hsrc] at hexec
    exact completes_of_exec hexec ⟨otherBeads_modBead _ _ _, rfl, fun k hk w hw => rowEntered_flight hk hw,
      rowEntered_accs _ _ _ _ _, rowEntered_tiles _ _ _ _ _⟩
  · have hexec := execArrayRowEnter_due hruns hdue hduty (sourceReady_of_run hn hfeed hhead)
    rw [rowStep_strand hn hside hfeed hhead hfresh hgood] at hexec
    have hkept := arraysKept_takeRow (o := o.val) n (rowEntered o.val a.val e (runRow x (redOf e a.val)) s)
    refine completes_of_exec hexec ⟨otherBeads_trans (otherBeads_modBead _ _ s) hkept.others, fun k hk w hw => ?_⟩
    rw [hkept.arrayOf]
    exact rowEntered_flight hk hw
  · have hexec := execArrayRowComplete_next hruns hflight
    have hmem : (rowDone o.val a.val s).mem = s.mem := mem_same (keeps_rowDone _ _ (.refl _ s) (sub_refl _)) (by decide)
    obtain ⟨hothers, hrest, htiles⟩ := rowDone_ended hflight
    refine completes_of_exec hexec ⟨hothers, hmem, hrest, htiles, fun e he hgood => ?_, fun hgone hlast => ?_⟩
    · rw [rowDone_good hflight he hgood, beadOf_setBead]
      exact ⟨accOf_setAcc _ _ _, fun k' hk' => accOf_setAcc_other _ _ hk'⟩
    · rw [rowDone_gone hflight hgone hlast, beadOf_setBead]
      exact accOf_setAcc _ _ _

end Sys2Proof.Proofs
end

section
/-! Proofs for chapters 6 and 7: the drain units prepare entries, take rows and write them. -/

namespace Sys2Proof.Proofs

open Sys2Proof Sys2Proof.Machine Sys2Proof.Laws

/-! ### Entries and drain units of a bead -/

theorem drainOf_modDrain (a : Nat) (f : Drain → Drain) (b : Bead) : drainOf (modDrain a f b) a = f (drainOf b a) :=
  tblGet_tblSet_same _ _ _ _

theorem drainOf_modDrain_other {a k : Nat} (f : Drain → Drain) (b : Bead) (h : k ≠ a) :
    drainOf (modDrain a f b) k = drainOf b k := tblGet_tblSet_other _ _ _ _ _ h

/-- The rows under way in any unit, where a change of one unit leaves its rows. -/
theorem jobs_modDrain {f : Drain → Drain} (a : Nat) (b : Bead) (k : Nat) (h : ∀ d, (f d).jobs = d.jobs := by intro; rfl) :
    (drainOf (modDrain a f b) k).jobs = (drainOf b k).jobs := by
  by_cases hk : k = a
  · rw [hk, drainOf_modDrain, h]
  · rw [drainOf_modDrain_other f b hk]

theorem drainOf_modEntry (q id : Nat) (f : QEntry → QEntry) (b : Bead) (k : Nat) :
    drainOf (modEntry q id f b) k = drainOf b k := rfl

theorem findEntry_congr {b b' : Bead} (h : b'.queues = b.queues) (q id : Nat) : findEntry b' q id = findEntry b q id := by
  rw [findEntry, findEntry, queueOf, queueOf, h]

theorem findEntry_id {b : Bead} {q id : Nat} {e : QEntry} (h : findEntry b q id = some e) : e.id = id := by
  have hfound := List.find?_some h
  rw [Bool.and_eq_true, beq_iff_eq] at hfound
  exact hfound.1

theorem findEntry_modEntry {b : Bead} {q id : Nat} {e : QEntry} {f : QEntry → QEntry} (h : findEntry b q id = some e)
    (hid : ∀ x, (f x).id = x.id := by intro; rfl) (hbar : ∀ x, (f x).barrier = x.barrier := by intro; rfl) :
    findEntry (modEntry q id f b) q id = some (f e) := by
  rw [findEntry, modEntry, queueOf_modQueue]
  exact (find?_modFirst (fun x hx => by rwa [hid, hbar]) _).trans (congrArg (Option.map f) h)

/-! ### An entry that fails -/

/-- What a change of one member leaves in every member, it leaves in the one that a test finds, where it leaves the test. -/
theorem map_find?_modFirst {α β : Type} {p r : α → Bool} {f : α → α} {g : α → β} (hr : ∀ x, r (f x) = r x)
    (hg : ∀ x, g (f x) = g x) (l : List α) : ((modFirst p f l).find? r).map g = (l.find? r).map g := by
  induction l with
  | nil => rfl
  | cons a l ih =>
    unfold modFirst
    split
    · cases ha : r a <;> simp [ha, hr, hg]
    · cases ha : r a <;> simp [ha, ih]

theorem HartsDiffer.queues {b b' : Bead} (h : HartsDiffer b b') : b'.queues = b.queues := by rw [h]

theorem HartsDiffer.drains {b b' : Bead} (h : HartsDiffer b b') : b'.drains = b.drains := by rw [h]

/-- A queue whose head has a fault may stop; of its bead, only that queue and harts change. -/
theorem settleHead_bead (o q : Nat) (s : State) : HartsDiffer (beadOf s o) (beadOf (settleHead o q s) o) ∨
    ∃ e code part addr,
      HartsDiffer (modQueue q (stoppedWith e code part addr) (beadOf s o)) (beadOf (settleHead o q s) o) := by
  unfold settleHead
  dsimp only
  split
  · split
    · split
      · exact .inl (.refl _)
      · rename_i e _ _ _ code part addr _ _
        obtain ⟨b, detail, hb, hstop⟩ := stopQueue_eq o q e code.toNat part.toNat addr.toNat s
        have hbeads : (stopQueue o q e code.toNat part.toNat addr.toNat s).beads = (setBead o b s).beads := by
          rw [hstop]
          split
          · rw [recordAt_beads, countEv_beads]
          · rw [recordAddr_beads, countEv_beads]
        refine .inr ⟨e, code.toNat, part.toNat, addr.toNat, ?_⟩
        rwa [beadOf_congr hbeads, beadOf_setBead]
    · exact .inl (.refl _)
  · exact .inl (.refl _)

theorem settleHead_drains (o q : Nat) (s : State) : (beadOf (settleHead o q s) o).drains = (beadOf s o).drains := by
  rcases settleHead_bead o q s with h | ⟨e, code, part, addr, h⟩
  · exact h.drains
  · exact h.drains

/-- The fault that an entry ends with stays, whatever becomes of its queue. -/
theorem findEntry_bad_settleHead (o q id : Nat) (s : State) :
    (findEntry (beadOf (settleHead o q s) o) q id).map QEntry.bad = (findEntry (beadOf s o) q id).map QEntry.bad := by
  rcases settleHead_bead o q s with h | ⟨e, code, part, addr, h⟩
  · rw [findEntry_congr h.queues]
  · rw [findEntry_congr h.queues, findEntry, queueOf_modQueue]
    exact map_find?_modFirst (f := fun x : QEntry => { x with st := .faulted }) (fun _ => rfl) (fun _ => rfl) _

theorem findEntry_failEntry {s : State} {o q id : Nat} {e : QEntry} (h : findEntry (beadOf s o) q id = some e)
    (code part addr : Nat) : ∃ x, findEntry (beadOf (failEntry o q id code part addr s) o) q id = some x ∧
      x.bad = some (BitVec.ofNat 6 code, BitVec.ofNat 16 part, BitVec.ofNat 48 addr) := by
  refine Option.map_eq_some_iff.1 ?_
  rw [failEntry, findEntry_bad_settleHead, beadOf_modBead, findEntry_modEntry h]
  rfl

/-! ### Preparation -/

/-- Only the micro-TLB of bead `o` differs among the beads, and memory is as before. -/
structure TlbOnly (o : Nat) (s t : State) : Prop where
  others : OtherBeads o s t
  bead : beadOf t o = { beadOf s o with tlb := (beadOf t o).tlb }
  mem : t.mem = s.mem

section
variable {s t u : State} {o : Nat}

theorem TlbOnly.of_beads (h : t.beads = s.beads) (hm : t.mem = s.mem) : TlbOnly o s t :=
  ⟨otherBeads_of_beads h, by rw [beadOf_congr h], hm⟩

theorem TlbOnly.trans (h : TlbOnly o s t) (g : TlbOnly o t u) : TlbOnly o s u where
  others := otherBeads_trans h.others g.others
  bead := g.bead.trans (by rw [h.bead])
  mem := g.mem.trans h.mem

theorem TlbOnly.foldl {α : Type} {f : State → α → State} (h : ∀ t a, TlbOnly o t (f t a)) (l : List α) (s : State) :
    TlbOnly o s (l.foldl f s) := by
  induction l generalizing s with
  | nil => exact .of_beads rfl rfl
  | cons a l ih => exact (h s a).trans (ih _)

theorem tlbOnly_modBead {f : Bead → Bead} (hf : ∀ b, f b = { b with tlb := (f b).tlb }) (s : State) :
    TlbOnly o s (modBead o f s) :=
  ⟨otherBeads_modBead o f s, by rw [beadOf_modBead]; exact hf _, rfl⟩

theorem tlbOnly_lookOwn (g : Nat) (s : State) : TlbOnly o s (lookOwn o g s) :=
  .of_beads (lookOwn_beads o g s) (lookOwn_mem o g s)

theorem tlbOnly_pageKeep (page : Nat) (s : State) : TlbOnly o s (pageKeep o page s) := by
  have hcount (s : State) : TlbOnly o s (countEv o 0x14 1 s) := .of_beads (countEv_beads _ _ _ _) (countEv_mem _ _ _ _)
  unfold pageKeep
  split
  · exact tlbOnly_modBead (tlbUse_eq _) s
  · split
    · exact (tlbOnly_modBead (fun _ => rfl) s).trans (hcount _)
    · exact hcount s

theorem retryWalks_of_none (h : ∀ r ∈ (beadOf s o).reqs, r.st ≠ .walk) : retryWalks o s = s := by
  rw [retryWalks, List.filter_eq_nil_iff.2 fun r hr => by simpa using h r hr]
  rfl

variable {e : QEntry} {v : DrainUse}

/-- The entry as preparation leaves it, with the pages of its destination and where they lie. -/
def preparedEntry (s : State) (o : Nat) (e : QEntry) (v : DrainUse) (pages : List (Nat × Nat)) (x : QEntry) : QEntry :=
  { x with
    prepared := true, params := readBlock s o e v, pages := pages
    prepBad := (prepFault s o e v).map fun p => (BitVec.ofNat 6 p.1, BitVec.ofNat 16 p.2.1, BitVec.ofNat 48 p.2.2) }

/-- What preparation looks at: the granules of the parameter block, then the pages of the destination (R275, R278). -/
def prepLooks (o : Nat) (e : QEntry) (v : DrainUse) (s : State) : State :=
  (destPages o e.d1 (destTiles s e v)).foldl (fun t p => pageKeep o p t) (if hasBlock e v && !blockBad s o e v
    then (sectionGrans o e (headerNow s o e v)).foldl (fun t g => lookOwn o g t) s else s)

theorem tlbOnly_prepLooks (o : Nat) (e : QEntry) (v : DrainUse) (s : State) : TlbOnly o s (prepLooks o e v s) := by
  unfold prepLooks
  refine .trans ?_ (.foldl (fun t p => tlbOnly_pageKeep p t) _ _)
  split
  · exact .foldl (fun t g => tlbOnly_lookOwn g t) _ _
  · exact .of_beads rfl rfl

/-- Where no request waits for a walk, what preparation has found goes into the entry, and nothing follows. -/
theorem prepare_eq (hwalk : ∀ r ∈ (beadOf s o).reqs, r.st ≠ .walk) :
    ∃ pages : List (Nat × Nat), pages.map (·.1) = destPages o e.d1 (destTiles s e v) ∧
      prepare o e v s = modBead o (modEntry 2 e.id (preparedEntry s o e v pages)) (prepLooks o e v s) := by
  have hreqs : (beadOf (prepLooks o e v s) o).reqs = (beadOf s o).reqs := by rw [(tlbOnly_prepLooks o e v s).bead]
  refine ⟨_, ?_, retryWalks_of_none fun r hr => hwalk r ?_⟩
  · rw [List.map_map]
    exact List.map_id' _
  · rw [beadOf_modBead] at hr
    exact hreqs ▸ hr

theorem execDrainPrepare_next {o : Ord} {a : ArrN} (hruns : beadRuns s o.val = true) (hhold : s.clock.hold = false)
    (h : toPrepare (beadOf s o.val) a.val = some (e, v)) : exec (.drainPrepare o a) s = .next (prepare o.val e v s) := by
  change execDrainPrepare o a s = _
  rw [execDrainPrepare, h]
  exact whenOk_of s (by rw [hruns, holding, hhold]; rfl) _

end

/-! ### A row enters -/

section
variable {s : State} {e : QEntry} {u : DrainUse}

theorem holdStat_eq (b : Bead) (e : QEntry) (u : DrainUse) (r : Nat) (row : StatRow) (d : Drain) :
    ∃ held, holdStat b e u r row d = { d with held := held } := by
  unfold holdStat
  dsimp only
  split
  · exact ⟨_, rfl⟩
  · exact ⟨_, rfl⟩

theorem lookDest_beads (o : Nat) (e : QEntry) (s : State) : (lookDest o e s).beads = s.beads :=
  beads_same (keeps_lookDest o e (.refl _ s) (sub_refl _)) (by decide)

theorem lookDest_clock (o : Nat) (e : QEntry) (s : State) : (lookDest o e s).clock = s.clock :=
  clock_same (keeps_lookDest o e (.refl _ s) (sub_refl _)) (by decide)

/-- A unit with one row more under way, the job `j`; its random state goes on but behind a poisoned row (R237, R260). -/
def unitWith (j : DrainJob) (held : Option StatFile) (d : Drain) : Drain :=
  { d with held := held, jobs := d.jobs ++ [j], lfsr := if j.bad then d.lfsr else some (lfsrRow j.lfsr) }

/-- The row of an entry enters its unit with the random state of that moment. -/
theorem drainEnter_bead (o a : Nat) (e : QEntry) (u : DrainUse) (s : State) : OtherBeads o s (drainEnter o a e u s) ∧
    ∃ j held, j.entry = e.id ∧ j.row = e.next ∧ j.lfsr = lfsrNow s o a (drainOf (beadOf s o) a) ∧
      beadOf (drainEnter o a e u s) o =
        modDrain a (unitWith j held) (modEntry 2 e.id (fun x => { x with next := x.next + 1 }) (beadOf s o)) := by
  unfold drainEnter
  dsimp only
  generalize ht : (if u.kind = 0 then lookDest o e s else s) = t
  obtain ⟨hbeads, hclock⟩ : t.beads = s.beads ∧ t.clock = s.clock := by
    rw [← ht]
    split
    · exact ⟨lookDest_beads o e s, lookDest_clock o e s⟩
    · exact ⟨rfl, rfl⟩
  refine ⟨otherBeads_trans (otherBeads_of_beads hbeads)
    (otherBeads_trans (otherBeads_modBead o _ t) (otherBeads_of_beads (countEv_beads _ _ _ _))), ?_⟩
  rw [beadOf_congr (countEv_beads _ _ _ _), beadOf_modBead, beadOf_congr hbeads, modDrain]
  obtain ⟨held, hheld⟩ : ∃ held, (if u.kind = 0 then holdStat (beadOf s o) e u e.next (actRow t o e u e.next).2
      (drainOf (beadOf s o) a) else drainOf (beadOf s o) a) = { drainOf (beadOf s o) a with held := held } := by
    split
    · exact holdStat_eq _ _ _ _ _ _
    · exact ⟨_, rfl⟩
  rw [drainOf_modEntry, hheld]
  exact ⟨⟨e.id, e.next, _, lfsrNow t o a (drainOf (beadOf s o) a), preActPoison (beadOf s o) e u e.next⟩, held, rfl, rfl,
    by rw [lfsrNow, lfsrNow, hclock], rfl⟩

theorem execDrainRowEnter_next {o : Ord} {a : ArrN} (hruns : beadRuns s o.val = true)
    (h : draining (beadOf s o.val) a.val = some (e, u)) (hroom : drainRoom (beadOf s o.val) a.val e u = true) :
    exec (.drainRowEnter o a) s = .next (drainEnter o.val a.val e u s) := by
  change execDrainRowEnter o a s = _
  rw [execDrainRowEnter, h]
  exact whenOk_of s (by rw [hruns, hroom]; rfl) _

end

/-! ### A row in a tile register -/

theorem setTileRow_leaves {γ : Type} (g : Bead → γ) (hg : ∀ b tiles arrs, g { b with tiles := tiles, arrs := arrs } = g b)
    (t r : Nat) (xs : List Half) (poison : Bool) (b : Bead) : g (setTileRow t r xs poison b) = g b := hg b _ _

/-- What is read of the entries written one after the other from key `k` on. -/
theorem tblGet_upTo_tblSet {α : Type} [DecidableEq α] (d : α) (t : Tbl α) (k : Nat) (v : Nat → α) {m n : Nat}
    (hn : n < m) : tblGet d (upTo m (fun t c => tblSet d t (k + c) (v c)) t) (k + n) = v n := by
  induction m with
  | zero => omega
  | succ m ih =>
    rw [upTo_succ, tblGet_tblSet]
    split
    · rw [show m = n by omega]
    · exact ih (by omega)

section
variable {b : Bead} {t r n : Nat} {xs : List Half} {poison : Bool}

theorem tileElem_setTileRow (hn : n < 64) : tileElem (tileOf (setTileRow t r xs poison b) t) r n = nth 0 xs n := by
  rw [setTileRow, tileOf_modTile, if_pos rfl]
  exact tblGet_upTo_tblSet 0 _ (64 * r) (nth 0 xs) hn

theorem tileOf_setTileRow_other {k : Nat} (h : k ≠ t) : tileOf (setTileRow t r xs poison b) k = tileOf b k := by
  rw [setTileRow, tileOf_modTile, if_neg (Ne.symm h)]

theorem nth_map_range {α : Type} (d : α) (f : Nat → α) {m : Nat} (hn : n < m) : nth d ((List.range m).map f) n = f n := by
  simp [nth, hn]

variable {e : QEntry} {u : DrainUse} {j : DrainJob}

/-- The row's value for lane `n` in the format `f` (R233 to R240). -/
def laneVal (u : DrainUse) (j : DrainJob) (f : Fmt) (n : Nat) : Nat :=
  storeVal f (laneRnd u.stoch j.lfsr n) (nth (.fp 0) j.vals n)

/-- An entry outside split mode writes one register, in the format that it captured (R118). -/
theorem rowToTile_whole (h : tcSplit e.tcfg = false) (b : Bead) : rowToTile e u j b =
    setTileRow u.td j.row ((List.range 64).map fun n =>
      BitVec.ofNat 16 (laneVal u j (if tcFmt e.tcfg = 0 then fp16 else bf16) n)) false b := by
  simp only [rowToTile, h]
  rfl

/-- The two parts of the row's FP32 value for a lane (R170, R227). -/
def lanePair (u : DrainUse) (j : DrainJob) (n : Nat) : Half × Half := splitFp32 (BitVec.ofNat 32 (laneVal u j fp32 n))

/-- One in split mode writes the high parts in its register and the low parts in the next (R169). -/
theorem rowToTile_split (h : tcSplit e.tcfg = true) (b : Bead) : rowToTile e u j b =
    setTileRow (u.td + 1) j.row ((List.range 64).map fun n => (lanePair u j n).2) false
      (setTileRow u.td j.row ((List.range 64).map fun n => (lanePair u j n).1) false b) := by
  simp only [rowToTile, h, List.map_map]
  rfl

theorem rowToTile_leaves {γ : Type} (g : Bead → γ) (hg : ∀ b tiles arrs, g { b with tiles := tiles, arrs := arrs } = g b)
    (e : QEntry) (u : DrainUse) (j : DrainJob) (b : Bead) : g (rowToTile e u j b) = g b := by
  cases h : tcSplit e.tcfg with
  | false => rw [rowToTile_whole h, setTileRow_leaves g hg]
  | true => rw [rowToTile_split h, setTileRow_leaves g hg, setTileRow_leaves g hg]

theorem tileElem_rowToTile_whole (h : tcSplit e.tcfg = false) (hn : n < 64) :
    tileElem (tileOf (rowToTile e u j b) u.td) j.row n =
      BitVec.ofNat 16 (laneVal u j (if tcFmt e.tcfg = 0 then fp16 else bf16) n) := by
  rw [rowToTile_whole h, tileElem_setTileRow hn, nth_map_range _ _ hn]

theorem tileElem_rowToTile_split (h : tcSplit e.tcfg = true) (hn : n < 64) :
    (tileElem (tileOf (rowToTile e u j b) u.td) j.row n, tileElem (tileOf (rowToTile e u j b) (u.td + 1)) j.row n) =
      lanePair u j n := by
  rw [rowToTile_split h, tileElem_setTileRow hn, tileOf_setTileRow_other (Nat.ne_add_one u.td), tileElem_setTileRow hn,
    nth_map_range _ _ hn, nth_map_range _ _ hn]

theorem tileOf_rowToTile_other {k : Nat} (hk : k ≠ u.td) (hk' : tcSplit e.tcfg = false ∨ k ≠ u.td + 1) :
    tileOf (rowToTile e u j b) k = tileOf b k := by
  cases h : tcSplit e.tcfg with
  | false => rw [rowToTile_whole h, tileOf_setTileRow_other hk]
  | true =>
    rw [rowToTile_split h, tileOf_setTileRow_other (hk'.resolve_left (by simp [h])), tileOf_setTileRow_other hk]

end

/-! ### A row in memory -/

/-- Only bead `o` and its data memory have changed, and neither its accumulators nor the rows under way in its drain units. -/
structure UnitsKept (o : Nat) (s t : State) : Prop where
  others : OtherBeads o s t
  accs : (beadOf t o).accs = (beadOf s o).accs
  jobs : ∀ k, (drainOf (beadOf t o) k).jobs = (drainOf (beadOf s o) k).jobs
  mem : ∀ g, (∀ i < 24576, g ≠ dmemGran o i) → codeAt t.mem g = codeAt s.mem g

/-- A granule of a bead's own data memory is one of its 24576. -/
theorem ownIndex_lt {o a : Nat} (h : inOwnDmem o a = true) : (a - ownBase o) / 32 < 24576 := by
  simp only [inOwnDmem, Bool.and_eq_true, decide_eq_true_eq] at h
  omega

/-- The granules of a run whose every granule lies in own data memory. -/
theorem ownRun_lt {o a n i : Nat} (h : ∀ i < n, inOwnDmem o (a + 32 * i) = true) (hi : i < n) :
    (a - ownBase o) / 32 + i < 24576 := by
  have hfirst := h 0 (by omega)
  have hlast := h i hi
  simp only [inOwnDmem, Bool.and_eq_true, decide_eq_true_eq] at hfirst hlast
  omega

section
variable {s t u : State} {o : Nat}

theorem UnitsKept.of_beads (h : t.beads = s.beads)
    (hm : ∀ g, (∀ i < 24576, g ≠ dmemGran o i) → codeAt t.mem g = codeAt s.mem g) : UnitsKept o s t := by
  have hbead := beadOf_congr h o
  exact ⟨otherBeads_of_beads h, by rw [hbead], fun _ => by rw [hbead], hm⟩

theorem UnitsKept.refl (o : Nat) (s : State) : UnitsKept o s s := .of_beads rfl fun _ _ => rfl

theorem UnitsKept.trans (h : UnitsKept o s t) (g : UnitsKept o t u) : UnitsKept o s u where
  others := otherBeads_trans h.others g.others
  accs := g.accs.trans h.accs
  jobs k := (g.jobs k).trans (h.jobs k)
  mem n hn := (g.mem n hn).trans (h.mem n hn)

theorem unitsKept_modBead {f : Bead → Bead} (s : State) (haccs : ∀ b, (f b).accs = b.accs := by intro; rfl)
    (hjobs : ∀ b k, (drainOf (f b) k).jobs = (drainOf b k).jobs := by intros; rfl) : UnitsKept o s (modBead o f s) where
  others := otherBeads_modBead o f s
  accs := by rw [beadOf_modBead, haccs]
  jobs k := by rw [beadOf_modBead, hjobs]
  mem _ _ := rfl

theorem UnitsKept.upTo {f : State → Nat → State} {n : Nat} (h : ∀ t, ∀ k < n, UnitsKept o t (f t k)) (s : State) :
    UnitsKept o s (upTo n f s) := by
  induction n with
  | zero => exact .refl o s
  | succ n ih =>
    rw [upTo_succ]
    exact (ih fun t k hk => h t k (by omega)).trans (h _ n (by omega))

theorem dmemStore_beads (o g : Nat) (c : Code) (mask : Word32) (src : Nat) (s : State) :
    (dmemStore o g c mask src s).beads = s.beads :=
  beads_same (keeps_dmemStore o g c mask src (.refl _ s) (sub_refl _)) (by decide)

theorem recordPart_mem (src phys pm cls node : Nat) (prior : Bool) (s : State) :
    (recordPart src phys pm cls node prior s).mem = s.mem :=
  mem_same (keeps_recordPart src phys pm cls node prior (.refl _ s) (sub_refl _)) (by decide)

theorem codeAt_dmemStore_other {g k : Nat} (h : k ≠ dmemGran o g) (c : Code) (mask : Word32) (src : Nat) (s : State) :
    codeAt (dmemStore o g c mask src s).mem k = codeAt s.mem k := by
  unfold dmemStore
  dsimp only
  split
  · exact codeAt_dmemPut_other h _ s
  · split
    · rw [codeAt_dmemPut_other h, countLook_mem]
    · rw [recordPart_mem, codeAt_dmemPut_other h, countLook_mem]

theorem unitsKept_dmemStore {g : Nat} (hg : g < 24576) (c : Code) (mask : Word32) (src : Nat) (s : State) :
    UnitsKept o s (dmemStore o g c mask src s) :=
  .of_beads (dmemStore_beads o g c mask src s) fun _ hk => codeAt_dmemStore_other (hk g hg) c mask src s

theorem unitsKept_ownGran (r : Req) (x : Req × State) (i : Nat) : UnitsKept o x.2 (ownGran o r x i).2 := by
  refine .of_beads (ownGran_beads o r x i) fun k hk => ?_
  unfold ownGran
  dsimp only
  split
  · rfl
  · rename_i hown
    simp only [Bool.or_eq_true, Bool.not_eq_true', not_or, Bool.not_eq_false] at hown
    split
    · rw [lookOwn_mem]
    · exact codeAt_dmemStore_other (hk _ (ownIndex_lt hown.1.2)) _ _ _ _

theorem unitsKept_ownGrans (r x : Req) (l : List Nat) (s : State) : UnitsKept o s (l.foldl (ownGran o r) (x, s)).2 := by
  induction l generalizing x s with
  | nil => exact .refl o s
  | cons i l ih => exact (unitsKept_ownGran r (x, s) i).trans (ih _ _)

theorem unitsKept_rowToMem (e : QEntry) (row tile : Nat) (bytes : List Byte) (s : State) :
    UnitsKept o s (rowToMem o e row tile bytes s) := by
  unfold rowToMem
  dsimp only
  split
  · exact unitsKept_modBead s
  · split
    · rename_i hown
      rw [List.all_eq_true] at hown
      have hlt {i : Nat} := ownRun_lt (i := i) fun k hk => hown k (List.mem_range.2 hk)
      exact .trans (.upTo (fun t i hi => unitsKept_dmemStore (hlt hi) _ _ _ t) s) (unitsKept_modBead _)
    · refine .trans (unitsKept_ownGrans _ _ _ s) (unitsKept_modBead _ (fun b => ?_) fun b k => ?_)
      · exact upTo_leaves Bead.accs (fun b i => by rw [l1Write_eq]) _ b
      · exact upTo_leaves (fun b => (drainOf b k).jobs) (fun b i => by rw [l1Write_eq]; rfl) _ b

end

/-! ### The oldest row is written -/

/-- The oldest row of a unit has left it, with the rows `rest` behind it. -/
def popRow (o a : Nat) (rest : List DrainJob) (s : State) : State := modBead o (modDrain a fun d => { d with jobs := rest }) s

section
variable {s : State} {o a : Nat} {e : QEntry} {u : DrainUse} {j : DrainJob} {rest : List DrainJob}

theorem popRow_bead (o a : Nat) (rest : List DrainJob) (s : State) :
    beadOf (popRow o a rest s) o = modDrain a (fun d => { d with jobs := rest }) (beadOf s o) := beadOf_modBead _ _ _

theorem popRow_accs (o a : Nat) (rest : List DrainJob) (s : State) :
    (beadOf (popRow o a rest s) o).accs = (beadOf s o).accs := by
  rw [popRow_bead]
  rfl

theorem popRow_jobs (o a : Nat) (rest : List DrainJob) (s : State) :
    (drainOf (beadOf (popRow o a rest s) o) a).jobs = rest := by
  rw [popRow_bead, drainOf_modDrain]

theorem findEntry_popRow (o a : Nat) (rest : List DrainJob) (s : State) (q id : Nat) :
    findEntry (beadOf (popRow o a rest s) o) q id = findEntry (beadOf s o) q id := by
  rw [popRow_bead]
  rfl

theorem emptyTiles_leaves {γ : Type} (g : Bead → γ) (hg : ∀ b tiles arrs, g { b with tiles := tiles, arrs := arrs } = g b)
    (l : List Nat) (b : Bead) : g (emptyTiles l b) = g b := foldl_leaves g (fun b _ => hg b _ _) l b

/-- What an entry that fails gives back before its fault is set: its tile registers and the statistics held aside. -/
def givesBack (e : QEntry) (u : DrainUse) (b : Bead) : Bead :=
  if holdsStats e u then modDrain u.unit (fun d => { d with held := none }) (emptyTiles (tilesWritten e) b)
  else emptyTiles (tilesWritten e) b

theorem drainFail_eq (o : Nat) (e : QEntry) (u : DrainUse) (code part addr : Nat) (s : State) :
    drainFail o e u code part addr s = failEntry o 2 e.id code part addr (modBead o (givesBack e u) s) := rfl

theorem givesBack_leaves {γ : Type} (g : Bead → γ) (hg : ∀ b tiles arrs, g { b with tiles := tiles, arrs := arrs } = g b)
    (hheld : ∀ b, g (modDrain u.unit (fun d => { d with held := none }) b) = g b) (e : QEntry) (b : Bead) :
    g (givesBack e u b) = g b := by
  unfold givesBack
  split
  · rw [hheld, emptyTiles_leaves g hg]
  · exact emptyTiles_leaves g hg _ b

theorem unitsKept_settleHead (q : Nat) (s : State) : UnitsKept o s (settleHead o q s) where
  others := (arraysKept_settleHead q s).others
  accs := (arraysKept_settleHead q s).accs
  jobs k := by rw [drainOf, drainOf, settleHead_drains]
  mem g _ := by rw [mem_same (keeps_settleHead o q (.refl _ s) (sub_refl _)) (by decide)]

theorem unitsKept_drainFail (e : QEntry) (u : DrainUse) (code part addr : Nat) (s : State) :
    UnitsKept o s (drainFail o e u code part addr s) :=
  have haccs (b : Bead) := givesBack_leaves (u := u) Bead.accs (fun _ _ _ => rfl) (fun _ => rfl) e b
  have hjobs (b : Bead) (k : Nat) := givesBack_leaves (fun b => (drainOf b k).jobs) (fun _ _ _ => rfl)
    (fun b => jobs_modDrain u.unit b k) e b
  (unitsKept_modBead s haccs hjobs).trans ((unitsKept_modBead _).trans (unitsKept_settleHead 2 _))

theorem findEntry_drainFail {id : Nat} (h : findEntry (beadOf s o) 2 id = some e) (u : DrainUse) (code part addr : Nat) :
    ∃ x, findEntry (beadOf (drainFail o e u code part addr s) o) 2 id = some x ∧
      x.bad = some (BitVec.ofNat 6 code, BitVec.ofNat 16 part, BitVec.ofNat 48 addr) := by
  rw [drainFail_eq, findEntry_id h]
  refine findEntry_failEntry (e := e) ?_ code part addr
  rw [beadOf_modBead, findEntry_congr (givesBack_leaves Bead.queues (fun _ _ _ => rfl) (fun _ => rfl) e _), h]

/-- The entry of a row counts it as written, into a tile register where the entry has no fault. -/
def rowInTile (e : QEntry) (u : DrainUse) (j : DrainJob) (b : Bead) : Bead :=
  modEntry 2 e.id (fun x => { x with fin := x.fin + 1 }) (if e.bad.isSome then b else rowToTile e u j b)

/-- The row of an entry whose destination lies in memory: one tile, or with PAIR one in each plane (R273, R277). -/
def rowInMem (o : Nat) (e : QEntry) (u : DrainUse) (j : DrainJob) (s : State) : State :=
  if u.pair then
    rowToMem o e j.row (tileNextPlane e.d1 (owTile e.v2)) (rowBytes e u j 1 (rowCols e u j.row))
      (rowToMem o e j.row (owTile e.v2) (rowBytes e u j 0 (rowCols e u j.row)) s)
  else rowToMem o e j.row (owTile e.v2) (rowBytes e u j 0 (rowCols e u j.row)) s

/-- What becomes of the oldest row `j`: poisoned, for memory, or for a tile register. -/
theorem drainWrite_eq (hjobs : (drainOf (beadOf s o) a).jobs = j :: rest) (he : findEntry (beadOf s o) 2 j.entry = some e)
    (hu : drainUse e = some u) : drainWrite o a s =
      if j.bad then drainFail o e u fcPoison j.row 0 (popRow o a rest s)
      else if u.mem then rowInMem o e u j (popRow o a rest s)
      else modBead o (rowInTile e u j) (popRow o a rest s) := by
  simp only [drainWrite, hjobs, he, hu]
  rfl

theorem rowInTile_leaves {γ : Type} (g : Bead → γ) (hg : ∀ b tiles arrs, g { b with tiles := tiles, arrs := arrs } = g b)
    (hqueues : ∀ b queues, g { b with queues := queues } = g b) (e : QEntry) (u : DrainUse) (j : DrainJob) (b : Bead) :
    g (rowInTile e u j b) = g b := by
  refine (hqueues _ _).trans ?_
  split
  · rfl
  · exact rowToTile_leaves g hg e u j b

theorem unitsKept_rowInMem (e : QEntry) (u : DrainUse) (j : DrainJob) (s : State) : UnitsKept o s (rowInMem o e u j s) := by
  unfold rowInMem
  split
  · exact (unitsKept_rowToMem e j.row _ _ s).trans (unitsKept_rowToMem e j.row _ _ _)
  · exact unitsKept_rowToMem e j.row _ _ s

/-- Whatever becomes of the row, the rows behind it stay. -/
theorem unitsKept_drainWrite (hjobs : (drainOf (beadOf s o) a).jobs = j :: rest)
    (he : findEntry (beadOf s o) 2 j.entry = some e) (hu : drainUse e = some u) :
    UnitsKept o (popRow o a rest s) (drainWrite o a s) := by
  rw [drainWrite_eq hjobs he hu]
  split
  · exact unitsKept_drainFail e u _ _ _ _
  · split
    · exact unitsKept_rowInMem e u j _
    · exact unitsKept_modBead _ (rowInTile_leaves Bead.accs (fun _ _ _ => rfl) (fun _ _ => rfl) e u j)
        fun b k => rowInTile_leaves (fun b => (drainOf b k).jobs) (fun _ _ _ => rfl) (fun _ _ => rfl) e u j b

/-- A poisoned row ends its entry (R260). -/
theorem drainWrite_bad (hjobs : (drainOf (beadOf s o) a).jobs = j :: rest) (he : findEntry (beadOf s o) 2 j.entry = some e)
    (hu : drainUse e = some u) (hbad : j.bad = true) : ∃ x, findEntry (beadOf (drainWrite o a s) o) 2 j.entry = some x ∧
      x.bad = some (0x0A, BitVec.ofNat 16 j.row, 0) := by
  rw [drainWrite_eq hjobs he hu, if_pos hbad]
  exact findEntry_drainFail ((findEntry_popRow o a rest s 2 j.entry).trans he) u fcPoison j.row 0

theorem drainWrite_tile (hjobs : (drainOf (beadOf s o) a).jobs = j :: rest) (he : findEntry (beadOf s o) 2 j.entry = some e)
    (hu : drainUse e = some u) (hbad : j.bad = false) (hmem : u.mem = false) :
    drainWrite o a s = modBead o (rowInTile e u j) (popRow o a rest s) := by
  rw [drainWrite_eq hjobs he hu, if_neg (by simp [hbad]), if_neg (by simp [hmem])]

theorem rowInTile_good (h : e.bad = none) (b : Bead) :
    rowInTile e u j b = modEntry 2 e.id (fun x => { x with fin := x.fin + 1 }) (rowToTile e u j b) := by
  rw [rowInTile, h]
  rfl

theorem findEntry_rowInTile {b : Bead} {id : Nat} (h : findEntry b 2 id = some e) (hgood : e.bad = none) :
    findEntry (rowInTile e u j b) 2 id = some { e with fin := e.fin + 1 } := by
  obtain rfl := findEntry_id h
  rw [rowInTile_good hgood]
  exact findEntry_modEntry ((findEntry_congr (rowToTile_leaves Bead.queues (fun _ _ _ => rfl) e u j b) 2 e.id).trans h)

theorem tileOf_rowInTile {b : Bead} (hgood : e.bad = none) (k : Nat) :
    tileOf (rowInTile e u j b) k = tileOf (rowToTile e u j b) k := by
  rw [rowInTile_good hgood]
  rfl

theorem execDrainRowWrite_next {o : Ord} {a : ArrN} (hruns : beadRuns s o.val = true)
    (hjobs : (drainOf (beadOf s o.val) a.val).jobs = j :: rest) :
    exec (.drainRowWrite o a) s = .next (drainWrite o.val a.val s) :=
  whenOk_of s (by rw [hruns, hjobs]; rfl) _

end

/-- Settles O36: where no request waits for a walk, preparation changes its entry and the micro-TLB; a row that enters changes
its entry and its unit; of the oldest row's three fates none touches the rows behind it, and a tile register takes the row at
once. -/
theorem drainUnitsPrepareEnterAndWrite : Obligations.DrainUnitsPrepareEnterAndWrite := by
  unfold Obligations.DrainUnitsPrepareEnterAndWrite
  intro s o a hruns
  dsimp only
  refine ⟨fun e u hprep he hhold hwalk => ?_, fun e u hdrain hroom he => ?_, fun j rest e u hjobs he hu => ?_⟩
  · obtain ⟨pages, hpages, heq⟩ := prepare_eq (e := e) (v := u) hwalk
    obtain ⟨hothers, hbead, hmem⟩ := tlbOnly_prepLooks o.val e u s
    have hexec := execDrainPrepare_next hruns hhold hprep
    rw [heq] at hexec
    refine completes_of_exec hexec ⟨otherBeads_trans hothers (otherBeads_modBead _ _ _), hmem, pages, hpages, ?_⟩
    rw [beadOf_modBead]
    exact findEntry_modEntry (by rw [hbead]; exact he)
  · obtain ⟨hothers, j, held, hentry, hrow, hlfsr, hbead⟩ := drainEnter_bead o.val a.val e u s
    refine completes_of_exec (execDrainRowEnter_next hruns hdrain hroom) ⟨hothers, ?_, ?_, ?_, ?_⟩
    all_goals rw [hbead]
    · exact findEntry_modEntry he
    · rw [drainOf_modDrain, drainOf_modEntry]
      exact ⟨j, rfl, hentry, hrow, hlfsr, fun hbad => by simp [unitWith, hbad]⟩
    · rw [drainOf_modDrain]
      rfl
    · rfl
  · have hexec := execDrainRowWrite_next hruns hjobs
    obtain ⟨hothers, haccs, hrows, hmem⟩ := unitsKept_drainWrite hjobs he hu
    refine completes_of_exec hexec ⟨otherBeads_trans (otherBeads_modBead _ _ s) hothers, haccs.trans (popRow_accs _ _ _ s),
      (hrows a.val).trans (popRow_jobs _ _ _ s), hmem, drainWrite_bad hjobs he hu, fun hbad htile hgood => ?_⟩
    rw [drainWrite_tile hjobs he hu hbad htile, beadOf_modBead]
    simp only [tileOf_rowInTile hgood]
    refine ⟨rfl, findEntry_rowInTile ((findEntry_popRow _ _ _ s 2 j.entry).trans he) hgood,
      fun n hn => ⟨fun hwhole => tileElem_rowToTile_whole hwhole hn, fun hsplit => tileElem_rowToTile_split hsplit hn⟩,
      fun k hk hk' => ?_⟩
    rw [tileOf_rowToTile_other hk hk', popRow_bead]
    rfl

end Sys2Proof.Proofs
end

section
/-! Facts about Nutas's commands: one starts and ends, is refused, or waits; what Nutas reads of the stacks, and that
counting what it reads changes nothing of that. -/

namespace Sys2Proof.Proofs

open Sys2Proof Sys2Proof.Machine Sys2Proof.Laws

/-! ### A command ends or waits -/

/-- A change of the first member that a test finds leaves the members that another test takes, where it takes none of
the first's. -/
theorem filter_modFirst {α : Type} {p r : α → Bool} {f : α → α} (hp : ∀ x, p x = true → r x = false)
    (hf : ∀ x, p x = true → r (f x) = false) (l : List α) : (modFirst p f l).filter r = l.filter r := by
  induction l with
  | nil => rfl
  | cons a l ih =>
    unfold modFirst
    cases ha : p a with
    | true => simp [hp a ha, hf a ha]
    | false => simp [List.filter_cons, ih]

/-- Command `k` has left the list with its completion. -/
def ended (k : Nat) (l : Completion) (u : State) : State :=
  modNutas (fun n => { n with cmds := n.cmds.filter fun x => x.num != k, ready := n.ready ++ [l] }) u

theorem complete_eq_ended {u : State} {k : Nat} {c : Cmd} (hfound : (u.nutas.cmds.find? fun x => x.num == k) = some c)
    (hrst : (mbxOf u c.mbx.val).rst = false) (st : Nat) (r0 r1 : Word) :
    complete k st r0 r1 u = ended k (completionOf u c st r0 r1) u := by
  simp only [complete, hfound, hrst]
  rfl

/-- A completion carries the tick, and of its command the mailbox and the entry. -/
theorem completionOf_congr {s u : State} {c d : Cmd} (htick : u.clock.tick = s.clock.tick) (hmbx : d.mbx = c.mbx)
    (hentry : d.entry = c.entry) (st : Nat) (r0 r1 : Word) : completionOf u d st r0 r1 = completionOf s c st r0 r1 := by
  simp only [completionOf, htick, hmbx, hentry]

/-- Since command `k` of `s` has started, no command has come or ended, and no mailbox has changed. -/
structure StartedIn (k : Nat) (s u : State) : Prop where
  cmds : u.nutas.cmds = (Started k s).nutas.cmds
  ready : u.nutas.ready = s.nutas.ready
  mbxs : u.mbxs = s.mbxs
  tick : u.clock.tick = s.clock.tick

theorem StartedIn.refl (k : Nat) (s : State) : StartedIn k s (Started k s) := ⟨rfl, rfl, rfl, rfl⟩

section
variable {k opc st : Nat} {used : List (Nat × Nat)} {checks : Cmd → State → List (Nat × Bool)} {need : Cmd → Option Nat}
  {data : Cmd → State → Option (Nat × Word)} {f : Cmd → State → CmdEnd} {c : Cmd} {s u : State} {r0 r1 : Word}
  {i : Instr} {p : State → Prop} {ps : List Part}

theorem StartedIn.upd {v : State} (h : StartedIn k s u) (hn : v.nutas = u.nutas) (hm : v.mbxs = u.mbxs)
    (hc : v.clock = u.clock) : StartedIn k s v where
  cmds := by rw [hn, h.cmds]
  ready := by rw [hn, h.ready]
  mbxs := hm.trans h.mbxs
  tick := by rw [hc, h.tick]

theorem mbxs_same (h : Keeps ps s u) (hp : Part.mbxs ∉ ps) : u.mbxs = s.mbxs := h.only.mbxs.resolve_left hp

/-- What counts and records leaves the commands and the mailboxes. -/
theorem StartedIn.keeps {v : State} (h : StartedIn k s u) (hk : Keeps ps u v)
    (hp : Part.nutas ∉ ps ∧ Part.mbxs ∉ ps ∧ Part.clock ∉ ps := by decide) : StartedIn k s v :=
  h.upd (nutas_same hk hp.1) (mbxs_same hk hp.2.1) (clock_same hk hp.2.2)

theorem StartedIn.find?_self (h : StartedIn k s u) (hfound : (s.nutas.cmds.find? fun x => x.num == k) = some c) :
    (u.nutas.cmds.find? fun x => x.num == k) = some { c with started := true } := by
  rw [h.cmds]
  exact (find?_modFirst (p := fun x => x.num == k) (f := fun x : Cmd => { x with started := true }) (fun _ hx => hx) _).trans
    (by rw [hfound])

theorem StartedIn.complete_eq (h : StartedIn k s u) (hfound : (s.nutas.cmds.find? fun x => x.num == k) = some c)
    (hrst : (mbxOf s c.mbx.val).rst = false) (st : Nat) (r0 r1 : Word) :
    complete k st r0 r1 u = ended k (completionOf s c st r0 r1) u := by
  have hmbx : (mbxOf u c.mbx.val).rst = false := by rwa [mbxOf_congr h.mbxs]
  rw [complete_eq_ended (h.find?_self hfound) hmbx]
  exact congrArg (ended k · u) (completionOf_congr h.tick rfl rfl st r0 r1)

theorem filter_started (k : Nat) (s : State) :
    ((Started k s).nutas.cmds.filter fun x => x.num != k) = s.nutas.cmds.filter fun x => x.num != k :=
  filter_modFirst (by simp) (by simp) _

theorem StartedIn.completed (h : StartedIn k s u) :
    Completed k c st r0 r1 s (ended k (completionOf s c st r0 r1) u) :=
  ⟨by rw [← filter_started, ← h.cmds]; rfl, by rw [← h.ready]; rfl, h.mbxs⟩

/-- Of a state that differs from the start only in Nutas's part, the end differs there too. -/
theorem onlyIn_ended (k : Nat) (l : Completion) (s : State) : OnlyIn [.nutas] s (ended k l (Started k s)) :=
  (keeps_modNutas _ (keeps_modNutas _ (Keeps.refl _ s) (by decide)) (by decide)).only

theorem commandWith_done (hs : ServedWith k opc used checks need data c s) (hf : f c (Started k s) = .done st r0 r1 u) :
    commandWith opc k used checks need data f s = .next (complete k st r0 r1 u) := by
  obtain ⟨hfound, hstart, hopc, hpre, -⟩ := hs
  simp only [commandWith, hfound, hpre]
  rw [← Started, hf]
  exact whenOk_of _ (by simp [hstart, hopc]) _

theorem commandWith_wait (hs : ServedWith k opc used checks need data c s) (hf : f c (Started k s) = .wait u) :
    commandWith opc k used checks need data f s = .next u := by
  obtain ⟨hfound, hstart, hopc, hpre, -⟩ := hs
  simp only [commandWith, hfound, hpre]
  rw [← Started, hf]
  exact whenOk_of _ (by simp [hstart, hopc]) _

theorem command_done (hs : Served k opc used checks need c s) (hf : f c (Started k s) = .done st r0 r1 u) :
    command opc k used checks need f s = .next (complete k st r0 r1 u) := commandWith_done hs hf

theorem command_wait (hs : Served k opc used checks need c s) (hf : f c (Started k s) = .wait u) :
    command opc k used checks need f s = .next u := commandWith_wait hs hf

/-- The command ends once it has had its effect. -/
theorem completes_done (hs : ServedWith k opc used checks need data c s) (hexec : exec i s = .next (complete k st r0 r1 u))
    (hu : StartedIn k s u)
    (hp : Completed k c st r0 r1 s (ended k (completionOf s c st r0 r1) u) → p (ended k (completionOf s c st r0 r1) u)) :
    Completes i s p := by
  obtain ⟨hfound, -, -, -, hrst⟩ := hs
  rw [hu.complete_eq hfound hrst] at hexec
  exact completes_of_exec hexec (hp hu.completed)

/-- The command ends with a status, and has no effect beside it. -/
theorem completes_status (hs : ServedWith k opc used checks need data c s)
    (hexec : exec i s = .next (complete k st r0 r1 (Started k s)))
    (hp : ∀ t, OnlyIn [.nutas] s t → Completed k c st r0 r1 s t →
      t = ended k (completionOf s c st r0 r1) (Started k s) → p t) :
    Completes i s p :=
  completes_done hs hexec (StartedIn.refl k s) fun h => hp _ (onlyIn_ended _ _ _) h rfl

theorem StartedIn.waitsAs {w : Waits} (h : StartedIn k s u) (hw : u.nutas.waits = s.nutas.waits) :
    WaitsAs k w s (waitFor w u) :=
  ⟨congrArg (· ++ [w]) hw, h.ready, h.mbxs, h.cmds⟩

/-- What a command's buffer shows of its form ends it (R598). -/
theorem commandWith_refused {i : OpInfo} (hl : LooksAt k opc used checks need c s) (hop : opInfo opc = some i)
    (hdata : data c s = some (st, r0)) :
    commandWith opc k used checks need data f s = .next (ended k (completionOf s c st r0 0) (Started k s)) := by
  obtain ⟨hfound, hstart, hopc, hrst, hfields, hbuf, hup⟩ := hl
  have hpre : precheck s c used (checks c s) (need c) (data c s) = some (st, r0) := by
    simp only [precheck, hopc, hop, hfields, hdata, hup]
    cases hneed : need c with
    | none => simp
    | some n => simp [hbuf n hneed]
  simp only [commandWith, hfound, hpre]
  rw [← Started, ← (StartedIn.refl k s).complete_eq hfound hrst]
  exact whenOk_of _ (by simp [hstart, hopc]) _

theorem completes_refused (hexec : exec i s = .next (ended k (completionOf s c st r0 0) (Started k s))) :
    Completes i s fun t => OnlyIn [.nutas] s t ∧ Completed k c st r0 0 s t :=
  completes_of_exec hexec ⟨onlyIn_ended _ _ _, (StartedIn.refl k s).completed⟩

end

/-! ### What Nutas reads of the stacks -/

/-- What a read goes through of a bezel. -/
def readThrough (b : Bezel) : Bezel :=
  { sorter := b.sorter, gens := b.gens, redirect := b.redirect, retrainPhase := b.retrainPhase, retrainCh := b.retrainCh
    intakeLo := b.intakeLo, nblk := b.nblk }

/-- Nutas reads in `t` what it reads in `s`. -/
structure SameMemory (s t : State) : Prop where
  cells : t.mem.cells = s.mem.cells
  split : t.mem.splitNow = s.mem.splitNow
  bezel : ∀ z, readThrough (bezelOf t z) = readThrough (bezelOf s z)

section
variable {s t u : State}

theorem SameMemory.of_parts (hm : t.mem = s.mem) (hb : t.bezels = s.bezels) : SameMemory s t :=
  ⟨by rw [hm], by rw [hm], fun z => by rw [bezelOf_congr hb]⟩

theorem SameMemory.trans (h : SameMemory s t) (h' : SameMemory t u) : SameMemory s u :=
  ⟨h'.cells.trans h.cells, h'.split.trans h.split, fun z => (h'.bezel z).trans (h.bezel z)⟩

theorem SameMemory.upd (h : SameMemory s t) (hm : u.mem = t.mem) (hb : u.bezels = t.bezels) : SameMemory s u :=
  h.trans (.of_parts hm hb)

theorem SameMemory.locketPlace (h : SameMemory s t) (a : Nat) : locketPlace t a = locketPlace s a := by
  have hintake (z l : Nat) : inIntake (bezelOf t z) l = inIntake (bezelOf s z) l := (congrArg (inIntake · l) (h.bezel z) :)
  have hgen (z l : Nat) : genRead (bezelOf t z) l none = genRead (bezelOf s z) l none :=
    (congrArg (genRead · l none) (h.bezel z) :)
  simp only [Machine.locketPlace, h.split, hintake, hgen]

theorem SameMemory.stackSrc (h : SameMemory s t) (z l : Nat) : stackSrc t z l = stackSrc s z l := by
  have hrelief : relieved (bezelOf t z) l = relieved (bezelOf s z) l := (congrArg (relieved · l) (h.bezel z) :)
  have hframe : redirected (bezelOf t z) (l / 32) = redirected (bezelOf s z) (l / 32) :=
    (congrArg (redirected · (l / 32)) (h.bezel z) :)
  simp only [Machine.stackSrc, hrelief, hframe]

theorem SameMemory.heldCode (h : SameMemory s t) (z l : Nat) : heldCode t z l = heldCode s z l := by
  have hsorter : (bezelOf t z).sorter = (bezelOf s z).sorter := (congrArg Bezel.sorter (h.bezel z) :)
  have hafter : afterHeld t z l = afterHeld s z l := by
    funext c m
    simp only [afterHeld, localOf, h.split]
  simp only [Machine.heldCode, stackCode, codeAt, hsorter, hafter, h.stackSrc, h.cells]

theorem SameMemory.code (h : SameMemory s t) : locketCode t = locketCode s := by
  funext a
  simp only [locketCode, h.locketPlace, h.heldCode]

theorem SameMemory.bytes (h : SameMemory s t) : locketBytes t = locketBytes s := by
  funext a n
  simp only [locketBytes, h.code]

theorem SameMemory.num (h : SameMemory s t) : locketNum t = locketNum s := by
  funext a n
  simp only [locketNum, h.bytes]

theorem SameMemory.bad (h : SameMemory s t) : locketBad t = locketBad s := by
  funext a n
  simp only [locketBad, h.code]

theorem sameMemory_setBezel {z : Nat} {b : Bezel} (hb : readThrough b = readThrough (bezelOf s z)) :
    SameMemory s (setBezel z b s) :=
  ⟨rfl, rfl, fun z' => by
    by_cases h : z' = z
    · rw [h, bezelOf_setBezel, hb]
    · rw [bezelOf_setBezel_other _ _ h]⟩

theorem sameMemory_keeps {ps : List Part} (h : Keeps ps s t) (hp : Part.mem ∉ ps ∧ Part.bezels ∉ ps := by decide) :
    SameMemory s t :=
  .of_parts (mem_same h hp.1) (bezels_same h hp.2)

theorem sameMemory_frameCorrected (z l : Nat) (s : State) : SameMemory s (frameCorrected z l s) := by
  unfold frameCorrected
  dsimp only
  split
  · refine .trans (t := recordAddr _ _ _ _ _) ?_ (.of_parts (hubRaise_mem _ _) (hubRaise_bezels _ _))
    refine .trans (t := modBezel _ _ _) ?_ (.of_parts (recordAddr_mem _ _ _ _ _) (recordAddr_bezels _ _ _ _ _))
    refine .trans (t := setBezel z _ s) (sameMemory_setBezel ?_) (sameMemory_setBezel ?_)
    · rfl
    · rfl
  · exact sameMemory_setBezel rfl

theorem readThrough_eccCount (l : Look) (read : Bool) (b : Bezel) : readThrough (eccCount l read b) = readThrough b := by
  cases l with
  | poisoned => cases read <;> rfl
  | _ => rfl

theorem sameMemory_stackLook (z l : Nat) (c : Code) (read : Bool) (s : State) : SameMemory s (stackLook z l c read s) := by
  have hopen : SameMemory s (openAt z l (modBezel z (eccCount (decodeCode c).1 read) (countLook (blkBezel z) c s))) :=
    ((SameMemory.of_parts (countLook_mem _ _ _) (countLook_bezels _ _ _)).trans
      (sameMemory_setBezel (readThrough_eccCount _ _ _))).trans (sameMemory_setBezel rfl)
  unfold stackLook
  dsimp only
  split
  · exact hopen.trans (sameMemory_frameCorrected z l _)
  · exact hopen

theorem sameMemory_addReread (p detail : Nat) (s : State) : SameMemory s (addReread p detail s) := by
  unfold addReread
  split
  · exact .of_parts rfl rfl
  · exact ⟨rfl, rfl, fun _ => rfl⟩

theorem sameMemory_upTo {f : State → Nat → State} (h : ∀ t k, SameMemory t (f t k)) (n : Nat) (s : State) :
    SameMemory s (upTo n f s) := by
  induction n with
  | zero => exact .of_parts rfl rfl
  | succ n ih =>
    rw [upTo_succ]
    exact ih.trans (h _ n)

theorem sameMemory_foldl {α : Type} {f : State → α → State} (h : ∀ t a, SameMemory t (f t a)) (l : List α) (s : State) :
    SameMemory s (l.foldl f s) := by
  induction l generalizing s with
  | nil => exact .of_parts rfl rfl
  | cons a l ih => exact (h s a).trans (ih _)

/-- Counting what Nutas reads, and recording what is lost of it, changes nothing that it reads. -/
theorem sameMemory_locketLook (a n : Nat) (s : State) : SameMemory s (locketLook a n s) := by
  refine sameMemory_upTo (fun t k => ?_) _ s
  dsimp only
  split
  · exact .of_parts rfl rfl
  · rename_i z l _
    have hlook := (sameMemory_stackLook z l (heldCode t z (l / 32 * 32)) true t).upd
      (countEv_mem _ (blkBezel z) 0x02 1) (countEv_bezels _ _ _ _)
    have hrecord (src phys pm cls node : Nat) (prior : Bool) (v : State) :
        SameMemory v (recordPart src phys pm cls node prior v) :=
      sameMemory_keeps (keeps_recordPart _ _ _ _ _ _ (Keeps.refl _ v) (sub_refl _))
    split
    · exact hlook
    · split
      · exact ((hlook.trans (hrecord _ _ _ _ _ _ _)).trans (sameMemory_addReread _ _ _)).upd
          (hubRaise_mem _ _) (hubRaise_bezels _ _)
      · exact hlook.trans (hrecord _ _ _ _ _ _ _)

end

end Sys2Proof.Proofs
end

section
/-! Proofs for chapters 8, 17 and 22: loads into the shadow banks go on and arm their swaps. -/

namespace Sys2Proof.Proofs

open Sys2Proof Sys2Proof.Machine Sys2Proof.Laws

/-! ### What a load makes of its state -/

/-- A table made of the values of a function that are not the default. -/
theorem tblGet_tabled {α : Type} [DecidableEq α] (d : α) (f : Nat → α) (l : List Nat) (k : Nat) :
    tblGet d ((l.map fun i => (i, f i)).filter fun p => decide (p.2 ≠ d)) k = if k ∈ l then f k else d := by
  induction l with
  | nil => rfl
  | cons a l ih =>
    by_cases hd : f a = d
    · rw [List.map_cons, List.filter_cons_of_neg (by simp [hd]), ih]
      by_cases hk : k = a
      · simp [hk, hd]
      · simp [hk]
    · rw [List.map_cons, List.filter_cons_of_pos (by simp [hd]), tblGet, ih]
      by_cases hk : k = a
      · simp [hk]
      · simp [hk, Ne.symm hk]

/-- The same change made to every bead of a list. -/
theorem beadOf_foldl_modBead {l : List Nat} (hl : l.Nodup) (f : Bead → Bead) (s : State) (o : Nat) :
    beadOf (l.foldl (fun t o => modBead o f t) s) o = if o ∈ l then f (beadOf s o) else beadOf s o := by
  induction l generalizing s with
  | nil => rfl
  | cons a l ih =>
    obtain ⟨ha, hl⟩ := List.nodup_cons.1 hl
    rw [List.foldl_cons, ih hl]
    by_cases ho : o = a
    · simp [ho, ha]
    · simp [ho, beadOf_modBead_other]

/-- Steps that each change beads only. -/
theorem foldl_beadsOnly {α : Type} {f : State → α → State} {l : List α} {s v : State} (hv : l.foldl f s = v)
    (h : ∀ t a, ∃ b, f t a = { t with beads := b }) : ∃ b, v = { s with beads := b } := by
  subst hv
  induction l generalizing s with
  | nil => exact ⟨_, rfl⟩
  | cons a l ih =>
    obtain ⟨b, hb⟩ := h s a
    obtain ⟨b', hb'⟩ := ih (s := f s a)
    exact ⟨b', by rw [List.foldl_cons, hb', hb]⟩

theorem nodup_liveIn (s : State) (first last : Nat) : (liveIn s first last).Nodup := List.nodup_range.filter _

section
variable {s t : State} {l : Load} {rest : List Load} {n k : Nat}

/-! ### Loads that end -/

theorem ordLive_congr (hpos : t.nutas.pos = s.nutas.pos) (hstandby : t.standby = s.standby) : ordLive t = ordLive s := by
  funext o
  simp only [ordLive, posState, builtState, hpos, hstandby]

theorem liveIn_congr (h : ordLive t = ordLive s) (first last : Nat) : liveIn t first last = liveIn s first last := by
  unfold liveIn
  rw [h]

theorem finishLoads_of_left (hloads : s.nutas.loads = l :: rest) (hleft : l.left ≠ 0) : finishLoads s = s :=
  upTo_same fun _ _ => by simp only [hloads, if_neg hleft]

/-- The state with no load under way. -/
def withoutLoads (s : State) : State := modNutas (fun n => { n with loads := [] }) s

theorem finishLoads_of_done (hloads : s.nutas.loads = [l]) (hleft : l.left = 0) :
    finishLoads s = finishLoad l (withoutLoads s) := by
  unfold finishLoads
  rw [hloads, List.length_singleton, upTo_succ]
  change (match s.nutas.loads with | [] => s | l :: r => _) = _
  rw [hloads]
  exact if_pos hleft

theorem finishLoad_program {num first last : Nat} {entry : Tbl (BitVec 16)} {code : List Byte}
    (hwhat : l.what = .program num first last entry code) (s : State) : Keeps [.beads] s (finishLoad l s) ∧
      ∀ o, beadOf (finishLoad l s) o = if o ∈ liveIn s first last then { beadOf s o with
        shadow := { code := codeTable code, entry := entry }, swapDue := some (armDue s) } else beadOf s o := by
  simp only [finishLoad, hwhat]
  exact ⟨Keeps.foldl _ (Keeps.refl _ s) fun _ _ hk => keeps_modBead _ _ hk (sub_refl _),
    beadOf_foldl_modBead (nodup_liveIn s first last) _ s⟩

/-- A program load with nothing left to write (R609). -/
theorem finishLoads_program {num first last : Nat} {entry : Tbl (BitVec 16)} {code : List Byte} (hloads : s.nutas.loads = [l])
    (hleft : l.left = 0) (hwhat : l.what = .program num first last entry code) :
    Keeps [.beads] (withoutLoads s) (finishLoads s) ∧
      ∀ o ∈ liveIn s first last, beadOf (finishLoads s) o = { beadOf s o with
        shadow := { code := codeTable code, entry := entry }, swapDue := some (armDue s) } := by
  rw [finishLoads_of_done hloads hleft]
  obtain ⟨hkeeps, hbeads⟩ := finishLoad_program hwhat (withoutLoads s)
  rw [liveIn_congr (t := withoutLoads s) (s := s) (ordLive_congr rfl rfl)] at hbeads
  exact ⟨hkeeps, fun o ho => (hbeads o).trans (if_pos ho)⟩

/-! ### A setting goes into the shadow stores -/

/-- What Nutas reads of the stacks of a state whose Nutas has changed. -/
theorem sameMemory_modNutas (f : Nutas → Nutas) (s : State) : SameMemory s (modNutas f s) := .of_parts rfl rfl

theorem SameMemory.routerImage (h : SameMemory s t) : routerImage t = routerImage s := by
  funext base r
  simp only [Machine.routerImage, h.num]

theorem SameMemory.schedEntry (h : SameMemory s t) : schedEntry t = schedEntry s := by
  funext b j
  simp only [Machine.schedEntry, h.num]

theorem SameMemory.checkTable (h : SameMemory s t) : checkTable t = checkTable s := by
  funext base
  simp only [Machine.checkTable, beadCheckWord, clusterCheckWord, moduleCheckWord, h.num]

theorem SameMemory.imageNum (h : SameMemory s t) : imageNum t = imageNum s := by
  funext base o
  simp only [Machine.imageNum, h.num]

theorem SameMemory.settingBank (h : SameMemory s t) : settingBank t = settingBank s := by
  funext b base o
  simp only [Machine.settingBank, imageAt, h.imageNum, h.bytes]

theorem SameMemory.settingPoison (h : SameMemory s t) : settingPoison t = settingPoison s := by
  funext base
  unfold Machine.settingPoison
  rw [h.bad, h.routerImage]

theorem sameMemory_settingLook (b : Bundle) (base : Nat) (s t : State) : SameMemory t (settingLook s b base t) := by
  unfold settingLook
  exact (sameMemory_locketLook base settingLen t).trans (sameMemory_foldl (fun u v => sameMemory_locketLook _ _ u) _ _)

/-- The shadow stores and the plan as a setting leaves them; beside them it changes beads alone. -/
theorem fillShadows_eq (k : Nat) (b : Bundle) (s t : State) : ∃ beads shadow,
    (∀ r < 1152, tblGet {} shadow r = routerImage s (stepBase s b k) r) ∧ fillShadows k b s t = { t with
      beads := beads
      fabric := { t.fabric with shadow := shadow, shadowId := (routerImage s (stepBase s b k) 0).settingId }
      clasps := { t.clasps with checkShadow := checkTable s (stepBase s b k) }
      nutas := { t.nutas with reachShadow := reachNow s, plan := { t.nutas.plan with ready := some (k, armDue s) } } } := by
  unfold fillShadows
  dsimp only
  generalize hv : List.foldl _ _ _ = v
  obtain ⟨beads, rfl⟩ := foldl_beadsOnly hv fun t o => by
    split
    · split
      · exact ⟨_, rfl⟩
      · exact ⟨_, rfl⟩
    · exact ⟨_, rfl⟩
  exact ⟨beads, _, fun r hr => by rw [tblGet_tabled, if_pos (List.mem_range.2 hr)], rfl⟩

/-- A setting that reads well goes into the shadow stores, and its swap is armed (R26, R726). -/
theorem writeSetting_good {b : Bundle} (hbundle : bundleOf s s.nutas.plan.slot = some b)
    (hsetting : settingPoison s (stepBase s b k) = none) (himage : imagePoison s b (stepBase s b k) = none) :
    writeSetting k s = fillShadows k b s (settingLook s b (stepBase s b k) s) := by
  simp only [writeSetting, hbundle, hsetting, himage]
  rfl

/-- `t` is `s` with a setting in its shadow stores: that of step `k`, which lies at `base`. -/
structure SettingIn (k base : Nat) (s t : State) : Prop where
  nutas : t.nutas = { s.nutas with reachShadow := reachNow s, plan := { s.nutas.plan with ready := some (k, armDue s) } }
  cells : t.mem.cells = s.mem.cells
  active : t.fabric.active = s.fabric.active
  shadowId : t.fabric.shadowId = (routerImage s base 0).settingId
  shadow : ∀ r < 1152, tblGet {} t.fabric.shadow r = routerImage s base r
  clasps : t.clasps = { s.clasps with checkShadow := checkTable s base }

theorem writeSetting_in {b : Bundle} (hbundle : bundleOf s s.nutas.plan.slot = some b)
    (hsetting : settingPoison s (stepBase s b k) = none) (himage : imagePoison s b (stepBase s b k) = none) :
    SettingIn k (stepBase s b k) s (writeSetting k s) := by
  rw [writeSetting_good hbundle hsetting himage]
  obtain ⟨beads, shadow, hshadow, hfill⟩ := fillShadows_eq k b s (settingLook s b (stepBase s b k) s)
  have hlook := keeps_settingLook s b (stepBase s b k) (Keeps.refl _ s) (sub_refl _)
  have hcells := (sameMemory_settingLook b (stepBase s b k) s s).cells
  have hfabric := hlook.only.fabric.resolve_left (by decide)
  rw [hfill]
  generalize settingLook s b (stepBase s b k) s = t at *
  constructor <;> dsimp only
  · rw [nutas_same hlook (by decide)]
  · exact hcells
  · rw [hfabric]
  · exact hshadow
  · rw [hlook.only.clasps.resolve_left (by decide)]

/-! ### SHADOW_LOAD -/

/-- The oldest load, its last granules written, has left the list. -/
def lastWritten (n : Nat) (s : State) : State := modNutas (fun m => { m with loads := [], loadedNow := m.loadedNow + n }) s

/-- The condition under which granules of the oldest load are written (R613, R614, R728). -/
structure MayWrite (n : Nat) (l : Load) (s : State) : Prop where
  up : s.standby.mainUp = true
  notHanding : handing s = false
  notQuiet : s.clock.quiet = false
  some : 1 ≤ n
  atMost : n ≤ l.left
  rate : s.nutas.loadedNow + n ≤ loadRate s

theorem execShadowLoad_next (hloads : s.nutas.loads = l :: rest) (h : MayWrite n l s) :
    exec (.shadowLoad n) s = .next (finishLoads (modNutas (fun m => { m with
      loads := { l with left := l.left - n } :: rest, loadedNow := m.loadedNow + n }) s)) := by
  change execShadowLoad n s = _
  simp only [execShadowLoad, hloads]
  exact whenOk_of _ (by simp [mainUp, h.up, h.notHanding, h.notQuiet, h.some, h.atMost, h.rate]) _

theorem shadowLoad_partly (hloads : s.nutas.loads = l :: rest) (h : MayWrite n l s) (hn : n < l.left) :
    Completes (.shadowLoad n) s fun t => OnlyIn [.nutas] s t ∧ t.nutas = { s.nutas with
      loads := { l with left := l.left - n } :: rest, loadedNow := s.nutas.loadedNow + n } := by
  have hexec := execShadowLoad_next hloads h
  rw [finishLoads_of_left rfl (by change l.left - n ≠ 0; omega)] at hexec
  exact completes_of_exec hexec ⟨(keeps_modNutas _ (Keeps.refl _ s) (by decide)).only, rfl⟩

theorem shadowLoad_last {p : State → Prop} (hloads : s.nutas.loads = l :: []) (h : MayWrite n l s) (hn : n = l.left)
    (hp : p (finishLoad { l with left := 0 } (lastWritten n s))) : Completes (.shadowLoad n) s p := by
  have hleft : l.left - n = 0 := by omega
  have hexec := execShadowLoad_next hloads h
  rw [hleft, finishLoads_of_done rfl rfl] at hexec
  exact completes_of_exec hexec hp

theorem onlyIn_lastWritten (n : Nat) (s : State) : OnlyIn [.nutas] s (lastWritten n s) :=
  (keeps_modNutas _ (Keeps.refl _ s) (by decide)).only

theorem shadowLoad_view (hloads : s.nutas.loads = l :: []) (h : MayWrite n l s) (hn : n = l.left) (hwhat : l.what = .view) :
    Completes (.shadowLoad n) s fun t => OnlyIn [.nutas] s t ∧ t.nutas = { s.nutas with
      loads := [], loadedNow := s.nutas.loadedNow + n, viewShadow := viewOf s, viewDue := some (armDue s) } := by
  refine shadowLoad_last hloads h hn ?_
  simp only [finishLoad, hwhat]
  exact ⟨(keeps_modNutas _ (keeps_modNutas _ (Keeps.refl _ s) (by decide)) (by decide)).only, rfl⟩

theorem shadowLoad_program {num first last : Nat} {entry : Tbl (BitVec 16)} {code : List Byte}
    (hloads : s.nutas.loads = l :: []) (h : MayWrite n l s) (hn : n = l.left)
    (hwhat : l.what = .program num first last entry code) :
    Completes (.shadowLoad n) s fun t => OnlyIn [.nutas, .beads] s t ∧
      t.nutas = { s.nutas with loads := [], loadedNow := s.nutas.loadedNow + n } ∧
      ∀ o, beadOf t o = if o ∈ liveIn s first last then { beadOf s o with
        shadow := { code := codeTable code, entry := entry }, swapDue := some (armDue s) } else beadOf s o := by
  refine shadowLoad_last hloads h hn ?_
  obtain ⟨hkeeps, hbeads⟩ := finishLoad_program (l := { l with left := 0 }) hwhat (lastWritten n s)
  refine ⟨?_, nutas_same hkeeps (by decide), hbeads⟩
  simp only [finishLoad, hwhat]
  exact (Keeps.foldl _ (keeps_modNutas _ (Keeps.refl _ s) (by decide)) fun _ _ hk =>
    keeps_modBead _ _ hk (by decide)).only

theorem shadowLoad_stores (hloads : s.nutas.loads = l :: []) (h : MayWrite n l s) (hn : n = l.left)
    (hwhat : l.what = .stores) : Completes (.shadowLoad n) s fun t => OnlyIn [.nutas, .mmu] s t ∧
      t.nutas = { s.nutas with loads := [], loadedNow := s.nutas.loadedNow + n } ∧
      t.mmu = { s.mmu with swapDue := some (armDue s) } := by
  refine shadowLoad_last hloads h hn ?_
  have hnone : storesLoading (lastWritten n s) = false := rfl
  simp only [finishLoad, hwhat, hnone]
  exact ⟨(keeps_armTs (keeps_modNutas _ (Keeps.refl _ s) (by decide)) (by decide)).only, rfl, rfl⟩

/-- The setting of a plan that leaves is not armed (R616). -/
theorem shadowLoad_step_leaving {j : Nat} (hloads : s.nutas.loads = l :: []) (h : MayWrite n l s) (hn : n = l.left)
    (hwhat : l.what = .step j) (hleaving : s.clock.leaving = true) :
    Completes (.shadowLoad n) s fun t => OnlyIn [.nutas] s t ∧
      t.nutas = { s.nutas with loads := [], loadedNow := s.nutas.loadedNow + n } := by
  refine shadowLoad_last hloads h hn ?_
  have hstays : (lastWritten n s).clock.leaving = true := hleaving
  simp only [finishLoad, hwhat, hstays]
  exact ⟨onlyIn_lastWritten n s, rfl⟩

/-- The setting of a step, verified, stands in the shadow stores, and its swap is armed (R26, R726). -/
theorem shadowLoad_step {j : Nat} {u : Bundle} (hloads : s.nutas.loads = l :: []) (h : MayWrite n l s) (hn : n = l.left)
    (hwhat : l.what = .step j) (hstays : s.clock.leaving = false) (hbundle : bundleOf s s.nutas.plan.slot = some u)
    (hsetting : settingPoison s (stepBase s u j) = none) (himage : imagePoison s u (stepBase s u j) = none) :
    Completes (.shadowLoad n) s fun t => t.nutas.plan = { s.nutas.plan with ready := some (j, armDue s) } ∧
      t.mem.cells = s.mem.cells ∧ t.fabric.active = s.fabric.active ∧
      t.fabric.shadowId = (routerImage s (stepBase s u j) 0).settingId ∧
      (∀ r < 1152, tblGet {} t.fabric.shadow r = routerImage s (stepBase s u j) r) ∧
      t.clasps = { s.clasps with checkShadow := checkTable s (stepBase s u j) } ∧
      t.nutas.reachShadow = reachNow s ∧ t.nutas.loads = [] := by
  refine shadowLoad_last hloads h hn ?_
  have hread : SameMemory s (lastWritten n s) := sameMemory_modNutas _ s
  have hlive : ordLive (lastWritten n s) = ordLive s := ordLive_congr rfl rfl
  have hbase : stepBase (lastWritten n s) u j = stepBase s u j := by
    simp only [stepBase, planEntry, hread.schedEntry]
    rfl
  have himage' : imagePoison (lastWritten n s) u (stepBase s u j) = none := by
    rw [← himage]
    unfold imagePoison
    rw [hlive, hread.imageNum, hread.bad]
  have hin : SettingIn j (stepBase s u j) (lastWritten n s) (writeSetting j (lastWritten n s)) := by
    rw [← hbase]
    exact writeSetting_in hbundle (by rw [hbase, hread.settingPoison, hsetting]) (by rw [hbase, himage'])
  have hwrite : finishLoad { l with left := 0 } (lastWritten n s) = writeSetting j (lastWritten n s) := by
    simp only [finishLoad, hwhat]
    exact if_neg (by simp [lastWritten, hstays])
  have hreach : reachNow (lastWritten n s) = reachNow s := by simp only [reachNow, hlive]
  obtain ⟨hnutas, hcells, hactive, hid, hshadow, hclasps⟩ := hin
  rw [hread.routerImage] at hid hshadow
  rw [hread.checkTable] at hclasps
  rw [hreach] at hnutas
  rw [hwrite, hnutas]
  exact ⟨rfl, hcells, hactive, hid, hshadow, hclasps, rfl, rfl⟩

end

end Sys2Proof.Proofs
end

section
/-! Proofs for chapters 8 and 17: bundles are loaded and dropped. -/

namespace Sys2Proof.Proofs

open Sys2Proof Sys2Proof.Machine Sys2Proof.Laws

theorem sameMemory_started (k : Nat) (s : State) : SameMemory s (Started k s) := sameMemory_modNutas _ s

theorem recorded_recordAddr {s t : State} (hclock : t.clock = s.clock) (hfaults : t.faults = s.faults)
    (cls source addr detail : Nat) : Recorded cls source s (recordAddr cls source addr detail t) := by
  unfold Recorded recordAddr recordFault
  rw [hfaults, hclock]
  split
  · exact ⟨_, mem_insertRec _ _, rfl, rfl, rfl, rfl⟩
  · rfl

/-- The record of the router whose endpoints a setting fails, where it is one that does (R607, R612, R683). -/
def markTarget (pos : Option Nat) (s : State) : State :=
  match pos with
  | some r => invalidTarget r s
  | none => s

theorem keeps_markTarget (pos : Option Nat) (s : State) : Keeps [.ledger, .faults] s (markTarget pos s) := by
  cases pos with
  | some r => exact keeps_invalidTarget r (Keeps.refl _ s) (sub_refl _)
  | none => exact Keeps.refl _ s

/-! ### LOAD_BUNDLE and DROP_BUNDLE -/

section
variable {s t : State} {k : Nat} {c : Cmd}

theorem SameMemory.bundleAt (h : SameMemory s t) : bundleAt t = bundleAt s := by
  funext a
  simp only [Machine.bundleAt, h.num]

theorem SameMemory.bundleLen (h : SameMemory s t) : bundleLen t = bundleLen s := by
  funext b
  simp only [Machine.bundleLen, h.bad]

/-- The slots once the command has ended that wrote one. -/
theorem bundleOf_ended_setBundle (k slot n : Nat) (l : Completion) (b : Option Bundle) (s : State) :
    bundleOf (ended k l (setBundle slot b s)) n = if slot = n then b else bundleOf s n := tblGet_tblSet _ _ _ _ _

theorem startedIn_setBundle (h : StartedIn k s t) (slot : Nat) (b : Option Bundle) : StartedIn k s (setBundle slot b t) :=
  ⟨h.cmds, h.ready, h.mbxs, h.tick⟩

theorem exec_loadBundle (k : Nat) (s : State) : exec (.loadBundle k) s = execLoadBundle k s := rfl

theorem bundleOf_started (k : Nat) (s : State) (n : Nat) : bundleOf (Started k s) n = bundleOf s n := rfl

/-- The bundle's bytes counted as read. -/
def bundleRead (k : Nat) (c : Cmd) (s : State) : State :=
  locketLook (bufOf c.entry).addr (bundleLen s (bundleAt s (bufOf c.entry).addr)) (Started k s)

theorem keeps_bundleRead (k : Nat) (c : Cmd) (s : State) :
    Keeps [.mem, .bezels, .ledger, .faults, .hub, .asy] (Started k s) (bundleRead k c s) :=
  keeps_locketLook _ _ (Keeps.refl _ _) (sub_refl _)

theorem startedIn_bundleRead (k : Nat) (c : Cmd) (s : State) : StartedIn k s (bundleRead k c s) :=
  (StartedIn.refl k s).keeps (keeps_bundleRead k c s)

theorem bundleRead_cells (k : Nat) (c : Cmd) (s : State) : (bundleRead k c s).mem.cells = s.mem.cells :=
  (sameMemory_locketLook _ _ (Started k s)).cells

theorem bundleOf_bundleRead (k : Nat) (c : Cmd) (s : State) (n : Nat) : bundleOf (bundleRead k c s) n = bundleOf s n := by
  unfold bundleOf
  rw [nutas_same (keeps_bundleRead k c s) (by decide)]
  rfl

section
variable (hs : Served k 0x20 (bufMaskAll ++ [(24, 3)]) noChecks (fun _ => some 256) c s)
include hs

theorem loadBundle_badBuffer
    (hbuf : (bufOf c.entry).loc ≠ 0 ∨ (bufOf c.entry).len < bundleLen s (bundleAt s (bufOf c.entry).addr)) :
    Completes (.loadBundle k) s fun t => OnlyIn [.nutas] s t ∧ Completed k c stBadBuffer 0 0 s t := by
  have hread := sameMemory_started k s
  refine completes_status hs ((exec_loadBundle k s).trans (command_done hs ?_)) fun _ honly hdone _ => ⟨honly, hdone⟩
  dsimp only
  rw [hread.bundleAt, hread.bundleLen, if_pos hbuf]

variable (hloc : (bufOf c.entry).loc = 0)
  (hlen : bundleLen s (bundleAt s (bufOf c.entry).addr) ≤ (bufOf c.entry).len)
include hloc hlen

theorem loadBundle_inUse (huse : slotInUse s (entryByte c.entry 24) = true) :
    Completes (.loadBundle k) s fun t => OnlyIn [.nutas] s t ∧ Completed k c stPlanRunning 0 0 s t ∧
      t.nutas.bundles = s.nutas.bundles := by
  have hread := sameMemory_started k s
  refine completes_status hs ((exec_loadBundle k s).trans (command_done hs ?_))
    fun t honly hdone hend => ⟨honly, hdone, by rw [hend]; rfl⟩
  dsimp only
  rw [hread.bundleAt, hread.bundleLen, if_neg (by omega)]
  exact if_pos huse

variable (hfree : slotInUse s (entryByte c.entry 24) = false)
include hfree

theorem loadBundle_taken (htaken : (bundleOf s (entryByte c.entry 24)).isSome = true) :
    Completes (.loadBundle k) s fun t => OnlyIn [.nutas] s t ∧ Completed k c stNoSpace 0 0 s t := by
  have hread := sameMemory_started k s
  refine completes_status hs ((exec_loadBundle k s).trans (command_done hs ?_)) fun _ honly hdone _ => ⟨honly, hdone⟩
  dsimp only
  rw [hread.bundleAt, hread.bundleLen, if_neg (by omega)]
  exact (if_neg (Bool.eq_false_iff.1 hfree)).trans (if_pos htaken)

variable (hempty : bundleOf s (entryByte c.entry 24) = none)
include hempty

theorem loadBundle_lost {off : Nat}
    (hbad : locketBad s (bufOf c.entry).addr (bundleLen s (bundleAt s (bufOf c.entry).addr)) = some off) :
    Completes (.loadBundle k) s fun t => t.mem.cells = s.mem.cells ∧
      Completed k c stMemFault 0 (BitVec.ofNat 64 off) s t ∧ bundleOf t (entryByte c.entry 24) = none := by
  have hread := sameMemory_started k s
  refine completes_done (u := bundleRead k c s) hs ((exec_loadBundle k s).trans (command_done hs ?_))
    (startedIn_bundleRead k c s)
    fun hdone => ⟨bundleRead_cells k c s, hdone, (bundleOf_bundleRead k c s _).trans hempty⟩
  dsimp only
  rw [hread.bundleAt, hread.bundleLen, hread.bad, if_neg (by omega), hbad]
  exact (if_neg (Bool.eq_false_iff.1 hfree)).trans (if_neg (by simp [bundleOf_started, hempty]))

variable (hgood : locketBad s (bufOf c.entry).addr (bundleLen s (bundleAt s (bufOf c.entry).addr)) = none)
include hgood

theorem loadBundle_refused {st : Nat} {r0 : Word} {pos : Option Nat}
    (hbad : bundleBad (Started k s) (bundleAt s (bufOf c.entry).addr) = some (st, r0, pos)) :
    Completes (.loadBundle k) s fun t => t.mem.cells = s.mem.cells ∧ Completed k c st r0 0 s t ∧
      bundleOf t (entryByte c.entry 24) = none := by
  have hread := sameMemory_started k s
  have hmark := keeps_markTarget pos (bundleRead k c s)
  refine completes_done (u := markTarget pos (bundleRead k c s)) hs ((exec_loadBundle k s).trans (command_done hs ?_))
    ((startedIn_bundleRead k c s).keeps hmark) fun hdone => ⟨?_, hdone, ?_⟩
  · dsimp only
    rw [hread.bundleAt, hread.bundleLen, hread.bad, if_neg (by omega), hgood, hbad]
    exact (if_neg (Bool.eq_false_iff.1 hfree)).trans (if_neg (by simp [bundleOf_started, hempty]))
  · exact (congrArg Memory.cells (mem_same hmark (by decide))).trans (bundleRead_cells k c s)
  · exact (congrArg (fun n : Nutas => tblGet none n.bundles _) (nutas_same hmark (by decide))).trans
      ((bundleOf_bundleRead k c s _).trans hempty)

theorem loadBundle_stands (hpass : bundleBad (Started k s) (bundleAt s (bufOf c.entry).addr) = none) :
    Completes (.loadBundle k) s fun t => t.mem.cells = s.mem.cells ∧
      bundleOf t (entryByte c.entry 24) = some (bundleAt s (bufOf c.entry).addr) ∧
      (∀ n, n ≠ entryByte c.entry 24 → bundleOf t n = bundleOf s n) ∧
      Completed k c stOk (BitVec.ofNat 64 ((bundleAt s (bufOf c.entry).addr).nset +
        (bundleAt s (bufOf c.entry).addr).ntick * 65536)) 0 s t := by
  have hread := sameMemory_started k s
  refine completes_done (u := setBundle _ _ (bundleRead k c s)) hs ((exec_loadBundle k s).trans (command_done hs ?_))
    (startedIn_setBundle (startedIn_bundleRead k c s) (entryByte c.entry 24) (some (bundleAt s (bufOf c.entry).addr)))
    fun hdone => ⟨bundleRead_cells k c s, (bundleOf_ended_setBundle _ _ _ _ _ _).trans (if_pos rfl), fun n hn => ?_, hdone⟩
  · dsimp only
    rw [hread.bundleAt, hread.bundleLen, hread.bad, if_neg (by omega), hgood, hpass]
    exact (if_neg (Bool.eq_false_iff.1 hfree)).trans (if_neg (by simp [bundleOf_started, hempty]))
  · exact ((bundleOf_ended_setBundle _ _ _ _ _ _).trans (if_neg (Ne.symm hn))).trans (bundleOf_bundleRead k c s n)

end

theorem exec_dropBundle (k : Nat) (s : State) : exec (.dropBundle k) s = execDropBundle k s := rfl

section
variable (hs : Served k 0x21 [(24, 3)] noChecks noBuf c s)
include hs

theorem dropBundle_inUse (huse : slotInUse s (entryByte c.entry 24) = true) :
    Completes (.dropBundle k) s fun t => Completed k c stPlanRunning 0 0 s t ∧ t.nutas.bundles = s.nutas.bundles :=
  completes_status hs ((exec_dropBundle k s).trans (command_done hs (if_pos huse)))
    fun t _ hdone hend => ⟨hdone, by rw [hend]; rfl⟩

variable (hfree : slotInUse s (entryByte c.entry 24) = false)
include hfree

theorem dropBundle_none (hempty : bundleOf s (entryByte c.entry 24) = none) :
    Completes (.dropBundle k) s fun t => OnlyIn [.nutas] s t ∧ Completed k c stNoBundle 0 0 s t :=
  completes_status hs ((exec_dropBundle k s).trans (command_done hs
    ((if_neg (Bool.eq_false_iff.1 hfree)).trans (if_pos (by simp [bundleOf_started, hempty])))))
    fun _ honly hdone _ => ⟨honly, hdone⟩

theorem dropBundle_drops (hloaded : (bundleOf s (entryByte c.entry 24)).isSome = true) :
    Completes (.dropBundle k) s fun t => Completed k c stOk 0 0 s t ∧ bundleOf t (entryByte c.entry 24) = none ∧
      ∀ n, n ≠ entryByte c.entry 24 → bundleOf t n = bundleOf s n :=
  completes_done hs ((exec_dropBundle k s).trans (command_done hs
    ((if_neg (Bool.eq_false_iff.1 hfree)).trans (if_neg (by
      rw [bundleOf_started, Option.isNone_eq_false_iff.2 hloaded]
      exact Bool.false_ne_true)))))
    (startedIn_setBundle (StartedIn.refl k s) _ _)
    fun hdone => ⟨hdone, (bundleOf_ended_setBundle _ _ _ _ _ _).trans (if_pos rfl),
      fun n hn => (bundleOf_ended_setBundle _ _ _ _ _ _).trans (if_neg (Ne.symm hn))⟩

end

end

end Sys2Proof.Proofs
end

section
/-! Proof for chapters 8, 17 and 22: programs, cohort bindings and plans, and with them the statement on
loads and plans. -/

namespace Sys2Proof.Proofs

open Sys2Proof Sys2Proof.Machine Sys2Proof.Laws

/-! ### LOAD_PROGRAM -/

theorem exec_loadProgram (k : Nat) (buf : List Byte) (s : State) : exec (.loadProgram k buf) s = execLoadProgram k buf s := rfl

/-- A buffer in host memory, where it is reached (R597). -/
theorem bufRead_host {s : State} {b : Buf} (hloc : b.loc = 1) (hreach : hostReach s = true) (n : Nat) (buf : List Byte) :
    bufRead s b n buf = (buf.take n, if buf.length < n then some (buf.length / 32 * 32) else none, s) := by
  simp [bufRead, hloc, hreach]

/-- The fields of LOAD_PROGRAM that are checked (R609). -/
def programChecks (c : Cmd) (_ : State) : List (Nat × Bool) :=
  [(24, decide (entryNum c.entry 24 2 < 1024)), (26, decide (entryNum c.entry 26 2 < 1024))]

section
variable {s : State} {k : Nat} {c : Cmd} {buf : List Byte}

section
variable (hl : LooksAt k 0x22 (bufMaskAll ++ bytesMask 24 4) programChecks (fun _ => some 64) c s)
  (hloc : (bufOf c.entry).loc = 1) (hreach : hostReach s = true) (hhead : 64 ≤ buf.length)
include hl hloc hreach hhead

theorem loadProgram_badHeader {off : Nat} (hbad : imageBad (imageOfBytes (buf.take 64)) = some off) :
    Completes (.loadProgram k buf) s fun t => OnlyIn [.nutas] s t ∧
      Completed k c stBadField (BitVec.ofNat 64 off) 0 s t := by
  refine completes_refused ((exec_loadProgram k buf s).trans (commandWith_refused hl rfl ?_))
  simp only [imageForm, bufRead_host hloc hreach, if_neg (Nat.not_lt.2 hhead), hbad]

theorem loadProgram_shortBuffer (hgood : imageBad (imageOfBytes (buf.take 64)) = none)
    (hshort : (bufOf c.entry).len < 64 + cutNum (buf.take 64) 0 4) :
    Completes (.loadProgram k buf) s fun t => OnlyIn [.nutas] s t ∧ Completed k c stBadBuffer 0 0 s t := by
  refine completes_refused ((exec_loadProgram k buf s).trans (commandWith_refused hl rfl ?_))
  simp only [imageForm, bufRead_host hloc hreach, if_neg (Nat.not_lt.2 hhead), hgood, if_pos hshort]

end

/-! What `loadProgram` makes of the buffer's head and of the image as they were read. -/

section
variable {first last : Nat} {head u : List Byte × Option Nat × State} {t : State}

theorem loadProgram_planRuns (hmode : t.clock.mode ≠ .arbitrated) :
    loadProgram k first last head u t = .done stPlanRunning 0 0 t := if_pos hmode

variable (hmode : t.clock.mode = .arbitrated)
include hmode

theorem loadProgram_noTarget (hlive : liveIn t first last = []) :
    loadProgram k first last head u t = .done stInvalidTarget 0 0 (invalidTarget (posOfOrd first) t) :=
  (if_neg (not_not_intro hmode)).trans (if_pos hlive)

variable (hlive : liveIn t first last ≠ [])
include hlive

theorem loadProgram_headLost {off : Nat} (hoff : head.2.1 = some off) :
    loadProgram k first last head u t = .done stMemFault 0 (BitVec.ofNat 64 off) head.2.2 := by
  simp only [loadProgram, hmode, hlive, hoff]
  rfl

theorem loadProgram_imageLost {off : Nat} (hhead : head.2.1 = none) (hoff : u.2.1 = some off) :
    loadProgram k first last head u t = .done stMemFault 0 (BitVec.ofNat 64 off) u.2.2 := by
  simp only [loadProgram, hmode, hlive, hhead, hoff]
  rfl

/-- The load of an image into the beads whose shadow bank differs (R609). -/
def imageLoad (k first last : Nat) (image : List Byte) (s : State) : Load :=
  ⟨.program k first last (entryTable (imageOfBytes image).entry) (imageOfBytes image).code,
    2048 * countIf (fun o => decide ((beadOf s o).shadow ≠ bankOfImage (imageOfBytes image))) (liveIn s first last)⟩

theorem loadProgram_loads (hhead : head.2.1 = none) (himage : u.2.1 = none) (hu : u.2.2 = t) :
    loadProgram k first last head u t = .wait (waitFor (.program k first last)
      (finishLoads (addLoad (imageLoad k first last u.1 t) u.2.2))) := by
  simp only [loadProgram, hmode, hlive, hhead, himage]
  subst hu
  rfl

end

/-- LOAD_PROGRAM has read its image, and its load has joined those under way. -/
def imageAdded (k first last : Nat) (image : List Byte) (s : State) : State :=
  addLoad (imageLoad k first last image (Started k s)) (Started k s)

theorem liveIn_started (k : Nat) (s : State) (first last : Nat) : liveIn (Started k s) first last = liveIn s first last :=
  liveIn_congr (ordLive_congr rfl rfl) first last

theorem imageAdded_loads (k first last : Nat) (image : List Byte) (hnone : s.nutas.loads = []) :
    let u := imageAdded k first last image s
    StartedIn k s u ∧ u.nutas.waits = s.nutas.waits ∧ u.mem = s.mem ∧ u.beads = s.beads ∧ armDue u = armDue s ∧
      liveIn u first last = liveIn s first last ∧ u.nutas.loads = [imageLoad k first last image s] := by
  have hload : imageLoad k first last image (Started k s) = imageLoad k first last image s := by
    unfold imageLoad
    rw [liveIn_started]
    rfl
  refine ⟨⟨rfl, rfl, rfl, rfl⟩, rfl, rfl, rfl, rfl, liveIn_congr (ordLive_congr rfl rfl) _ _, ?_⟩
  rw [← hload]
  exact congrArg (· ++ _) hnone

section
variable (hs : ServedWith k 0x22 (bufMaskAll ++ bytesMask 24 4) programChecks (fun _ => some 64)
    (fun c t => imageForm t (bufOf c.entry) buf) c s)
  (hloc : (bufOf c.entry).loc = 1) (hreach : hostReach s = true)
include hs

theorem loadProgram_inScheduled (hmode : s.clock.mode ≠ .arbitrated) :
    Completes (.loadProgram k buf) s fun t => OnlyIn [.nutas] s t ∧ Completed k c stPlanRunning 0 0 s t :=
  completes_status hs ((exec_loadProgram k buf s).trans (commandWith_done hs (loadProgram_planRuns hmode)))
    fun _ honly hdone _ => ⟨honly, hdone⟩

variable (hmode : s.clock.mode = .arbitrated)
include hmode

theorem loadProgram_invalidTarget (hlive : liveIn s (entryNum c.entry 24 2) (entryNum c.entry 26 2) = []) :
    Completes (.loadProgram k buf) s fun t => Completed k c stInvalidTarget 0 0 s t ∧ Recorded 0x17 blkLocket s t :=
  completes_done hs ((exec_loadProgram k buf s).trans (commandWith_done hs
      (loadProgram_noTarget (t := Started k s) hmode ((liveIn_started k s _ _).trans hlive))))
    ((StartedIn.refl k s).keeps (keeps_invalidTarget _ (Keeps.refl _ _) (sub_refl _)))
    fun hdone => ⟨hdone, recorded_recordAddr (t := Started k s) rfl rfl _ _ _ _⟩

variable (hlive : liveIn s (entryNum c.entry 24 2) (entryNum c.entry 26 2) ≠ [])
include hlive hloc hreach

theorem loadProgram_memFault (hshort : buf.length < 64 ∨ buf.length < 64 + cutNum (buf.take 64) 0 4) :
    Completes (.loadProgram k buf) s fun t => OnlyIn [.nutas] s t ∧
      Completed k c stMemFault 0 (BitVec.ofNat 64 (buf.length / 32 * 32)) s t := by
  refine completes_status hs ((exec_loadProgram k buf s).trans (commandWith_done hs ?_))
    fun _ honly hdone _ => ⟨honly, hdone⟩
  rw [← liveIn_started k s] at hlive
  dsimp only
  rw [bufRead_host (s := Started k s) hloc hreach, bufRead_host (s := Started k s) hloc hreach]
  by_cases hhead : buf.length < 64
  · rw [if_pos hhead]
    exact loadProgram_headLost (t := Started k s) hmode hlive rfl
  · rw [if_neg hhead, if_pos (hshort.resolve_left hhead)]
    exact loadProgram_imageLost (t := Started k s) hmode hlive rfl rfl

theorem execLoadProgram_next (hhead : 64 ≤ buf.length) (hlen : 64 + cutNum (buf.take 64) 0 4 ≤ buf.length) :
    exec (.loadProgram k buf) s = .next (waitFor (.program k (entryNum c.entry 24 2) (entryNum c.entry 26 2)) (finishLoads
      (imageAdded k (entryNum c.entry 24 2) (entryNum c.entry 26 2) (buf.take (64 + cutNum (buf.take 64) 0 4)) s))) := by
  refine (exec_loadProgram k buf s).trans (commandWith_wait hs ?_)
  rw [← liveIn_started k s] at hlive
  dsimp only
  rw [bufRead_host (s := Started k s) hloc hreach, bufRead_host (s := Started k s) hloc hreach,
    if_neg (Nat.not_lt.2 hhead), if_neg (Nat.not_lt.2 hlen)]
  exact loadProgram_loads (t := Started k s) hmode hlive rfl rfl rfl

theorem loadProgram_begins (hhead : 64 ≤ buf.length) (hlen : 64 + cutNum (buf.take 64) 0 4 ≤ buf.length)
    (hnone : s.nutas.loads = []) :
    let first := entryNum c.entry 24 2
    let last := entryNum c.entry 26 2
    let img := imageOfBytes (buf.take (64 + cutNum (buf.take 64) 0 4))
    let live := liveIn s first last
    let left := countIf (fun o => decide ((beadOf s o).shadow ≠ bankOfImage img)) live
    Completes (.loadProgram k buf) s fun t => WaitsAs k (.program k first last) s t ∧ t.mem = s.mem ∧
      (left ≠ 0 → t.beads = s.beads ∧
        t.nutas.loads = [⟨.program k first last (entryTable img.entry) img.code, 2048 * left⟩]) ∧
      (left = 0 → t.nutas.loads = [] ∧
        ∀ o ∈ live, beadOf t o = { beadOf s o with shadow := bankOfImage img, swapDue := some (armDue s) }) := by
  intro first last img live left
  refine completes_of_exec (execLoadProgram_next hs hloc hreach hmode hlive hhead hlen) ?_
  generalize hu : imageAdded k _ _ _ s = u
  obtain ⟨hstarted, hwaits, hmem, hbeads, hdue, hlive', hloads⟩ := hu ▸ imageAdded_loads k first last _ hnone
  by_cases hleft : left = 0
  · have hdone : 2048 * left = 0 := by rw [hleft]
    obtain ⟨hkeeps, hbanks⟩ := finishLoads_program hloads hdone rfl
    have hnutas := nutas_same hkeeps (by decide)
    have hwithout : StartedIn k s (withoutLoads u) := ⟨hstarted.cmds, hstarted.ready, hstarted.mbxs, hstarted.tick⟩
    refine ⟨(hwithout.keeps hkeeps).waitsAs (by rw [hnutas]; exact hwaits), (mem_same hkeeps (by decide)).trans hmem,
      fun h => absurd hleft h, fun _ => ⟨by change (finishLoads u).nutas.loads = []; rw [hnutas]; rfl, fun o ho => ?_⟩⟩
    rw [hlive', hdue] at hbanks
    exact (hbanks o ho).trans (by rw [beadOf_congr hbeads]; rfl)
  · have hmore : 2048 * left ≠ 0 := by omega
    rw [finishLoads_of_left hloads hmore]
    exact ⟨hstarted.waitsAs hwaits, hmem, fun _ => ⟨hbeads, hloads⟩, fun h => absurd h hleft⟩

end

end

/-! ### BIND and UNBIND -/

section
variable {s : State} {k : Nat} {c : Cmd}

theorem exec_bind (k : Nat) (s : State) : exec (.bind k) s = execBind k s := rfl
theorem exec_unbind (k : Nat) (s : State) : exec (.unbind k) s = execUnbind k s := rfl

/-- The state in which a change of cohort `a` waits for its view. -/
def viewWaits (k a : Nat) (bind : Bool) (v : Cohort) (s : State) : State :=
  waitFor (.view k a bind) (addLoad ⟨.view, viewGranules⟩ (setCohort a v (Started k s)))

theorem viewWaits_waits (k a : Nat) (bind : Bool) (v : Cohort) (s : State) :
    WaitsAs k (.view k a bind) s (viewWaits k a bind v s) ∧
      (viewWaits k a bind v s).nutas.loads = s.nutas.loads ++ [⟨.view, 37376⟩] ∧
      (∀ a', a' ≠ a → cohortOf (viewWaits k a bind v s) a' = cohortOf s a') ∧ cohortOf (viewWaits k a bind v s) a = v :=
  ⟨⟨rfl, rfl, rfl, rfl⟩, rfl, fun _ h => tblGet_tblSet_other _ _ _ _ _ h, tblGet_tblSet_same _ _ _ _⟩

section
variable (hs : Served k 0x30
  ([(24, 0xFF), (25, 1), (26, 0x1F), (28, 0xFF), (29, 1), (30, 0xFF), (31, 1)] ++ bytesMask 32 14)
  (fun c _ => [(28, decide (1 ≤ entryNum c.entry 28 2) && decide (entryNum c.entry 28 2 ≤ 256))]) noBuf c s)
include hs

theorem bind_refused (h : (cohortOf s (entryNum c.entry 24 2)).st ≠ 0 ∨ bindRefused s (entryNum c.entry 24 2)
      (bitsOf (entryByte c.entry 26) 0 2) (bitsOf (entryByte c.entry 26) 2 3)
      (entryNum c.entry 28 2) (entryNum c.entry 30 2) = true) :
    Completes (.bind k) s fun t => Completed k c stCohortConflict 0 0 s t ∧ t.nutas.cohorts = s.nutas.cohorts :=
  completes_status hs ((exec_bind k s).trans (command_done hs (if_pos h))) fun t _ hdone hend => ⟨hdone, by rw [hend]; rfl⟩

theorem bind_waits (hfree : (cohortOf s (entryNum c.entry 24 2)).st = 0) (hfits : bindRefused s (entryNum c.entry 24 2)
      (bitsOf (entryByte c.entry 26) 0 2) (bitsOf (entryByte c.entry 26) 2 3)
      (entryNum c.entry 28 2) (entryNum c.entry 30 2) = false) :
    Completes (.bind k) s fun t => WaitsAs k (.view k (entryNum c.entry 24 2) true) s t ∧
      t.nutas.loads = s.nutas.loads ++ [⟨.view, 37376⟩] ∧
      (∀ a, a ≠ entryNum c.entry 24 2 → cohortOf t a = cohortOf s a) ∧
      cohortOf t (entryNum c.entry 24 2) = {
        st := 2, gw := BitVec.ofNat 2 (bitsOf (entryByte c.entry 26) 0 2)
        slot := BitVec.ofNat 3 (bitsOf (entryByte c.entry 26) 2 3)
        rank := BitVec.ofNat 9 (entryNum c.entry 28 2), pave := BitVec.ofNat 9 (entryNum c.entry 30 2)
        setTag := BitVec.ofNat 64 (entryNum c.entry 32 8), pbase := BitVec.ofNat 48 (entryNum c.entry 40 6) } :=
  completes_of_exec ((exec_bind k s).trans (command_wait hs (if_neg (by
    rintro (h | h)
    · exact h hfree
    · exact Bool.eq_false_iff.1 hfits h))))
    (viewWaits_waits k _ true _ s)

end

section
variable (hs : Served k 0x31 [(24, 0xFF), (25, 1)]
  (fun c t => [(24, (cohortOf t (entryNum c.entry 24 2 % 512)).st == 1)]) noBuf c s)
include hs

theorem unbind_refused (h : unbindRefused s (entryNum c.entry 24 2) = true) :
    Completes (.unbind k) s fun t => Completed k c stCohortBusy 0 0 s t ∧ t.nutas.cohorts = s.nutas.cohorts :=
  completes_status hs ((exec_unbind k s).trans (command_done hs (if_pos h))) fun t _ hdone hend => ⟨hdone, by rw [hend]; rfl⟩

theorem unbind_waits (h : unbindRefused s (entryNum c.entry 24 2) = false) :
    Completes (.unbind k) s fun t => WaitsAs k (.view k (entryNum c.entry 24 2) false) s t ∧
      t.nutas.loads = s.nutas.loads ++ [⟨.view, 37376⟩] ∧
      (∀ a, a ≠ entryNum c.entry 24 2 → cohortOf t a = cohortOf s a) ∧
      cohortOf t (entryNum c.entry 24 2) = { cohortOf s (entryNum c.entry 24 2) with st := 3 } :=
  completes_of_exec ((exec_unbind k s).trans (command_wait hs (if_neg (Bool.eq_false_iff.1 h))))
    (viewWaits_waits k _ false _ s)

end

end

/-! ### RUN -/

section
variable {s t : State} {k : Nat} {c : Cmd}

theorem recordFault_iswap (r : FaultRec) (s : State) : (recordFault r s).ledger.iswap = s.ledger.iswap := by
  unfold recordFault
  split <;> rfl

theorem frameCorrected_iswap (z l : Nat) (s : State) : (frameCorrected z l s).ledger.iswap = s.ledger.iswap := by
  unfold frameCorrected
  dsimp only
  split
  · rw [hubRaise_ledger]
    exact recordFault_iswap _ _
  · rfl

theorem stackLook_iswap (z l : Nat) (c : Code) (read : Bool) (s : State) :
    (stackLook z l c read s).ledger.iswap = s.ledger.iswap := by
  have hopen : (openAt z l (modBezel z (eccCount (decodeCode c).1 read) (countLook (blkBezel z) c s))).ledger.iswap =
      s.ledger.iswap := congrArg Ledger.iswap (countLook_ledger s (blkBezel z) c)
  unfold stackLook
  dsimp only
  split
  · exact (frameCorrected_iswap _ _ _).trans hopen
  · exact hopen

theorem addReread_ledger (p detail : Nat) (s : State) : (addReread p detail s).ledger = s.ledger := by
  unfold addReread
  split <;> rfl

/-- Counting what Nutas reads, and recording what is lost of it, counts no swap. -/
theorem locketLook_iswap (a n : Nat) (s : State) : (locketLook a n s).ledger.iswap = s.ledger.iswap := by
  refine upTo_leaves (·.ledger.iswap) (fun t i => ?_) _ s
  dsimp only
  split
  · rfl
  · rename_i z l _
    have hlook : (countEv (blkBezel z) 0x02 1 (stackLook z l (heldCode t z (l / 32 * 32)) true t)).ledger.iswap =
        t.ledger.iswap := by rw [countEv_ledger, stackLook_iswap]
    split
    · exact hlook
    · split
      · rw [hubRaise_ledger, addReread_ledger]
        exact (recordFault_iswap _ _).trans hlook
      · exact (recordFault_iswap _ _).trans hlook

/-- The granules of a setting depend on what Nutas reads, and on what the shadow stores and banks hold. -/
theorem loadGranules_congr (h : SameMemory s t) (hbeads : t.beads = s.beads) (hfabric : t.fabric = s.fabric)
    (hclasps : t.clasps = s.clasps) (hnutas : t.nutas = s.nutas) (hstandby : t.standby = s.standby) :
    loadGranules t = loadGranules s := by
  have hlive : ordLive t = ordLive s := ordLive_congr (by rw [hnutas]) hstandby
  have hneeds : needsImage t = needsImage s := by
    funext o bank
    simp only [needsImage, beadOf_congr hbeads]
  have hreach : reachNow t = reachNow s := by rw [reachNow, hlive, reachNow]
  funext b n
  unfold loadGranules
  rw [h.routerImage, h.checkTable, h.settingBank, hlive, hneeds, hreach, hfabric, hclasps, hnutas]

/-- The load of a step's setting, which differs from what the shadow stores hold, has begun. -/
structure StepBegun (j left : Nat) (s t : State) : Prop where
  nutas : t.nutas = { s.nutas with plan := { s.nutas.plan with next := some j }, loads := s.nutas.loads ++ [⟨.step j, left⟩] }
  shadowId : t.fabric.shadowId = 0
  beads : t.beads = s.beads
  cells : t.mem.cells = s.mem.cells
  iswap : t.ledger.iswap = s.ledger.iswap

theorem beginStepLoad_begun {b : Bundle} {j : Nat} (hloads : s.nutas.loads = [])
    (hleft : loadGranules s b (schedSetting (planEntry s b j)) ≠ 0) :
    StepBegun j (loadGranules s b (schedSetting (planEntry s b j))) s (beginStepLoad b j s) := by
  have hlook := keeps_schedLook b (s.nutas.plan.first + j) (Keeps.refl _ s) (sub_refl _)
  have hcells : (schedLook b (s.nutas.plan.first + j) s).mem.cells = s.mem.cells := (sameMemory_locketLook _ _ s).cells
  have hiswap : (schedLook b (s.nutas.plan.first + j) s).ledger.iswap = s.ledger.iswap := locketLook_iswap _ _ s
  have hnutas := nutas_same hlook (by decide)
  have hbeads := beads_same hlook (by decide)
  unfold beginStepLoad
  dsimp only
  generalize loadGranules s b _ = left at *
  generalize schedLook b _ s = v at *
  rw [finishLoads_of_left (l := ⟨.step j, left⟩) (rest := []) (by
    change v.nutas.loads ++ _ = _
    rw [hnutas, hloads]
    rfl) hleft]
  refine ⟨?_, rfl, hbeads, hcells, hiswap⟩
  rw [← hnutas]
  rfl

/-- A plan stands in the state, which has counted no swap of it. -/
def planTaken (p : Plan) (s : State) : State :=
  modPlan (fun _ => p) { s with ledger := { s.ledger with iswap := 0 } }

theorem exec_run (k : Nat) (s : State) : exec (.run k) s = execRun k s := rfl

section
variable (hs : Served k 0x50 ([(24, 3)] ++ bytesMask 32 6 ++ bytesMask 40 12) noChecks noBuf c s)
include hs

theorem run_refused {st : Nat} {r0 : Word} {pos : Option Nat}
    (hbad : runBad (Started k s) (entryByte c.entry 24) (entryNum c.entry 32 6) (entryNum c.entry 48 4) = some (st, r0, pos)) :
    Completes (.run k) s fun t => Completed k c st r0 0 s t ∧ t.nutas.plan = s.nutas.plan ∧
      t.nutas.loads = s.nutas.loads ∧ (pos = none → OnlyIn [.nutas] s t) := by
  have hmark := keeps_markTarget pos (Started k s)
  have hnutas := nutas_same hmark (by decide)
  refine completes_done (u := markTarget pos (Started k s)) hs ((exec_run k s).trans (command_done hs ?_))
    ((StartedIn.refl k s).keeps hmark) fun hdone => ⟨hdone, ?_, ?_, ?_⟩
  · simp only [hbad]
    rfl
  · exact (congrArg Nutas.plan hnutas :)
  · exact (congrArg Nutas.loads hnutas :)
  · rintro rfl
    exact onlyIn_ended _ _ _

theorem run_begins {u : Bundle}
    (hpass : runBad (Started k s) (entryByte c.entry 24) (entryNum c.entry 32 6) (entryNum c.entry 48 4) = none)
    (hbundle : bundleOf s (entryByte c.entry 24) = some u) (hnone : s.nutas.loads = []) {p : Plan}
    (hp : p = {
      phase := .waiting, num := k, slot := entryByte c.entry 24, start := entryNum c.entry 32 6
      nticks := entryNum c.entry 40 8, first := entryNum c.entry 48 4, reserve := u.reserve })
    (hleft : loadGranules (planTaken p (Started k s)) u (schedSetting (planEntry (planTaken p (Started k s)) u 0)) ≠ 0) :
    Completes (.run k) s fun t => t.nutas.ready = s.nutas.ready ∧ t.ledger.iswap = 0 ∧ t.fabric.shadowId = 0 ∧
      t.beads = s.beads ∧ t.mem.cells = s.mem.cells ∧ t.nutas.loads = [⟨.step 0,
        loadGranules (planTaken p (Started k s)) u (schedSetting (planEntry (planTaken p (Started k s)) u 0))⟩] ∧
      t.nutas.plan = { p with next := some 0 } := by
  have hexec : exec (.run k) s = .next (beginStepLoad u 0 (planTaken p (endsLook u (Started k s)))) := by
    refine (exec_run k s).trans (command_wait hs ?_)
    simp only [hpass, bundleOf_started, hbundle, hp]
    rfl
  have hlook := keeps_endsLook u (Keeps.refl _ (Started k s)) (sub_refl _)
  have hread : SameMemory (Started k s) (endsLook u (Started k s)) := sameMemory_upTo (fun t n => sameMemory_locketLook _ _ t) _ _
  have hnutas := nutas_same hlook (by decide)
  have hbeads := beads_same hlook (by decide)
  have hplan : (planTaken p (endsLook u (Started k s))).nutas = (planTaken p (Started k s)).nutas :=
    congrArg (fun n : Nutas => { n with plan := p }) hnutas
  have hread' : SameMemory (planTaken p (Started k s)) (planTaken p (endsLook u (Started k s))) :=
    ⟨hread.cells, hread.split, hread.bezel⟩
  have hgranules := loadGranules_congr hread' hbeads (hlook.only.fabric.resolve_left (by decide))
    (hlook.only.clasps.resolve_left (by decide)) hplan (hlook.only.standby.resolve_left (by decide))
  have hentry : planEntry (planTaken p (endsLook u (Started k s))) u 0 = planEntry (planTaken p (Started k s)) u 0 := by
    rw [planEntry, hread'.schedEntry, hplan, planEntry]
  have hloads : (planTaken p (endsLook u (Started k s))).nutas.loads = [] := by
    rw [hplan]
    exact hnone
  rw [← hgranules, ← hentry] at hleft ⊢
  obtain ⟨hbegun, hid, hbanks, hcells, hiswap⟩ := beginStepLoad_begun hloads hleft
  refine completes_of_exec hexec ⟨?_, hiswap, hid, hbanks.trans hbeads, hcells.trans hread.cells, ?_, ?_⟩
  · rw [hbegun, hplan]
    rfl
  · rw [hbegun, hloads]
    rfl
  · rw [hbegun, hplan]
    rfl

end

end

/-! ### STOP -/

/-- A change of the members that a first test finds, none of which another test takes, leaves what the other finds. -/
theorem find?_modFirst_other {α : Type} {p r : α → Bool} {f : α → α} (hp : ∀ x, p x = true → r x = false)
    (hf : ∀ x, p x = true → r (f x) = false) (l : List α) : (modFirst p f l).find? r = l.find? r := by
  rw [← List.head?_filter, filter_modFirst hp hf, List.head?_filter]

theorem find?_filter_of_imp {α : Type} {p q : α → Bool} (h : ∀ x, p x = true → q x = true) (l : List α) :
    (l.filter q).find? p = l.find? p := by
  have hboth : (fun x => decide (q x = true ∧ p x = true)) = p := by
    funext x
    cases hx : p x <;> simp [hx, h]
  rw [List.find?_filter, hboth]

section
variable {s : State} {k : Nat} {c : Cmd} (hs : Served k 0x51 [] noChecks noBuf c s)

theorem exec_stop (k : Nat) (s : State) : exec (.stop k) s = execStop k s := rfl

include hs

theorem stop_none (hphase : s.nutas.plan.phase = .none) :
    Completes (.stop k) s fun t => OnlyIn [.nutas] s t ∧ Completed k c stNotRunning 0 0 s t := by
  refine completes_status hs ((exec_stop k s).trans (command_done hs ?_)) fun _ honly hdone _ => ⟨honly, hdone⟩
  have hphase' : (Started k s).nutas.plan.phase = .none := hphase
  simp only [hphase']

theorem stop_stopping (hphase : s.nutas.plan.phase = .stopping) :
    Completes (.stop k) s fun t => OnlyIn [.nutas] s t ∧ WaitsAs k (.stop k) s t := by
  have hphase' : (Started k s).nutas.plan.phase = .stopping := hphase
  refine completes_of_exec (t := waitFor (.stop k) (Started k s)) ((exec_stop k s).trans (command_wait hs ?_))
    ⟨(keeps_modNutas _ (keeps_modNutas _ (Keeps.refl _ s) (by decide)) (by decide)).only, (StartedIn.refl k s).waitsAs rfl⟩
  simp only [hphase']

section
variable (hphase : s.nutas.plan.phase = .running) (hstays : s.clock.leaving = false)
include hphase hstays

theorem stop_lastArmed (hlast : lastArmed s.nutas.plan = true) :
    Completes (.stop k) s fun t => OnlyIn [.nutas] s t ∧ Completed k c stNotRunning 0 0 s t := by
  refine completes_status hs ((exec_stop k s).trans (command_done hs ?_)) fun _ honly hdone _ => ⟨honly, hdone⟩
  have hphase' : (Started k s).nutas.plan.phase = .running := hphase
  simp only [hphase']
  exact (if_neg (Bool.eq_false_iff.1 hstays)).trans (if_pos hlast)

theorem stop_leaves (hlast : lastArmed s.nutas.plan = false) :
    Completes (.stop k) s fun t => WaitsAs k (.stop k) s t ∧
      t.clock = { s.clock with leaving := true, endFault := false } ∧
      t.nutas.plan = { s.nutas.plan with phase := .stopping, stopped := true } := by
  have hphase' : (Started k s).nutas.plan.phase = .running := hphase
  refine completes_of_exec (t := waitFor (.stop k) (modPlan (fun p => { p with phase := .stopping, stopped := true })
    { Started k s with clock := { s.clock with leaving := true, endFault := false } }))
    ((exec_stop k s).trans (command_wait hs ?_)) ⟨⟨rfl, rfl, rfl, rfl⟩, rfl, rfl⟩
  simp only [hphase']
  exact (if_neg (Bool.eq_false_iff.1 hstays)).trans (if_neg (Bool.eq_false_iff.1 hlast))

end

theorem stop_waiting {c' : Cmd} (hphase : s.nutas.plan.phase = .waiting) (hnum : s.nutas.plan.num ≠ k)
    (hfound : (s.nutas.cmds.find? fun x => x.num == s.nutas.plan.num) = some c') (hrst : (mbxOf s c'.mbx.val).rst = false) :
    Completes (.stop k) s fun t => t.nutas.plan = {} ∧ t.clock.quiet = false ∧
      t.nutas.ready = s.nutas.ready ++ [completionOf s c' stStopped 0 0, completionOf s c stOk 0 0] := by
  obtain ⟨hself, -, -, -, hrst'⟩ := id hs
  have hdiffer : ∀ x : Cmd, x.num = k → x.num ≠ s.nutas.plan.num := fun x hx h => hnum (h ▸ hx)
  have hother : ((Started k s).nutas.cmds.find? fun x => x.num == s.nutas.plan.num) = some c' :=
    (find?_modFirst_other (by simpa using hdiffer) (by simpa using hdiffer) _).trans hfound
  have hplan : complete s.nutas.plan.num stStopped 0 0 (clearPlan (Started k s)) =
      ended s.nutas.plan.num (completionOf s c' stStopped 0 0) (clearPlan (Started k s)) :=
    complete_eq_ended (u := clearPlan (Started k s)) hother hrst _ _ _
  have hstop : ((ended s.nutas.plan.num (completionOf s c' stStopped 0 0) (clearPlan (Started k s))).nutas.cmds.find?
      fun x => x.num == k) = some { c with started := true } :=
    (find?_filter_of_imp (by simpa using hdiffer) _).trans ((StartedIn.refl k s).find?_self hself)
  have hexec : exec (.stop k) s = .next (complete k stOk 0 0
      (complete s.nutas.plan.num stStopped 0 0 (clearPlan (Started k s)))) := by
    refine (exec_stop k s).trans (command_done hs ?_)
    have hphase' : (Started k s).nutas.plan.phase = .waiting := hphase
    simp only [hphase']
    rfl
  rw [hplan, complete_eq_ended hstop hrst'] at hexec
  exact completes_of_exec hexec ⟨rfl, rfl, List.append_assoc _ _ _⟩

end

/-- Settles O54: one lemma for each outcome of each command and of a load that goes on. -/
theorem loadsAndPlansBegin : Obligations.LoadsAndPlansBegin := by
  unfold Obligations.LoadsAndPlansBegin
  intro s k c
  dsimp only
  refine ⟨fun hs => ⟨loadBundle_badBuffer hs, loadBundle_inUse hs, loadBundle_taken hs, fun hloc hlen hfree hempty =>
      ⟨fun _ => loadBundle_lost hs hloc hlen hfree hempty,
        fun hgood _ _ _ => loadBundle_refused hs hloc hlen hfree hempty hgood,
        loadBundle_stands hs hloc hlen hfree hempty⟩⟩,
    fun hs => ⟨dropBundle_inUse hs, dropBundle_none hs, dropBundle_drops hs⟩,
    fun buf hl hloc hreach hhead => ⟨fun _ => loadProgram_badHeader hl hloc hreach hhead,
      loadProgram_shortBuffer hl hloc hreach hhead⟩,
    fun buf hs hloc hreach => ⟨loadProgram_inScheduled hs, loadProgram_invalidTarget hs,
      loadProgram_memFault hs hloc hreach, loadProgram_begins hs hloc hreach⟩,
    fun hs => ⟨bind_refused hs, bind_waits hs⟩,
    fun hs => ⟨unbind_refused hs, unbind_waits hs⟩,
    fun hs => ⟨fun _ _ _ => run_refused hs, fun u hpass hbundle hnone => run_begins hs hpass hbundle hnone rfl⟩,
    fun hs => ⟨stop_none hs, fun c' => stop_waiting hs, stop_lastArmed hs, stop_leaves hs, stop_stopping hs⟩,
    fun l rest n hloads hup hhand hquiet hsome hmost hrate => ?_⟩
  have hmay : MayWrite n l s := ⟨hup, hhand, hquiet, hsome, hmost, hrate⟩
  refine ⟨shadowLoad_partly hloads hmay, ?_, ?_, ?_, ?_, ?_⟩
  · rintro hn hwhat rfl
    exact shadowLoad_view hloads hmay hn hwhat
  · rintro num first last entry code hn hwhat rfl
    exact shadowLoad_program hloads hmay hn hwhat
  · rintro j hn hwhat rfl
    exact shadowLoad_step_leaving hloads hmay hn hwhat
  · rintro j u hn hwhat rfl
    exact shadowLoad_step hloads hmay hn hwhat
  · rintro hn hwhat rfl
    exact shadowLoad_stores hloads hmay hn hwhat

end Sys2Proof.Proofs
end

section
/-! Proof for chapters 9 and 17: MAP, UNMAP, WINDOW and SPLIT. -/

namespace Sys2Proof.Proofs

open Sys2Proof Sys2Proof.Machine Sys2Proof.Laws

/-! ### The checks that come before a command's own -/

section
variable {s : State} {k opc : Nat} {c : Cmd} {used : List (Nat × Nat)} {checks : Cmd → State → List (Nat × Bool)}
  {need : Cmd → Option Nat} {f : Cmd → State → CmdEnd} {i : Instr}

/-- A command that a common check refuses ends with that check's status. -/
theorem completes_precheck {st : Nat} {r0 : Word} (hexec : exec i s = command opc k used checks need f s)
    (hfound : (s.nutas.cmds.find? fun x => x.num == k) = some c) (hstart : startable s c = true)
    (hopc : entryByte c.entry 0 = opc) (hrst : (mbxOf s c.mbx.val).rst = false)
    (hpre : precheck s c used (checks c s) (need c) none = some (st, r0)) :
    Completes i s fun t => OnlyIn [.nutas] s t ∧ Completed k c st r0 0 s t := by
  refine completes_refused (hexec.trans ?_)
  simp only [command, commandWith, hfound, hpre]
  rw [← Started, ← (StartedIn.refl k s).complete_eq hfound hrst]
  exact whenOk_of _ (by simp [hstart, hopc]) _

/-- A command of the map is its owner's, and is served only while the main domains run (R598 to R600). -/
theorem completes_mapChecked (hexec : exec i s = command opc k used checks noBuf f s)
    (hinfo : opInfo opc = some ⟨1, true, true, false⟩) (hfound : (s.nutas.cmds.find? fun x => x.num == k) = some c)
    (hstart : startable s c = true) (hopc : entryByte c.entry 0 = opc) (hrst : (mbxOf s c.mbx.val).rst = false) :
    (∀ off, badField c.entry used (checks c s) = some off → Completes i s fun t => OnlyIn [.nutas] s t ∧
      Completed k c stBadField (BitVec.ofNat 64 off) 0 s t) ∧
    (badField c.entry used (checks c s) = none → (if c.mbx.val = 8 then s.standby.owner else !s.standby.owner) = false →
      Completes i s fun t => OnlyIn [.nutas] s t ∧ Completed k c stNotOwner 0 0 s t) ∧
    (badField c.entry used (checks c s) = none → (if c.mbx.val = 8 then s.standby.owner else !s.standby.owner) = true →
      nutasUp s = false → Completes i s fun t => OnlyIn [.nutas] s t ∧ Completed k c stMainDown 0 0 s t) := by
  have hpermitted : permitted s c.mbx.val ⟨1, true, true, false⟩ =
      if c.mbx.val = 8 then s.standby.owner else !s.standby.owner := by
    simp [permitted, ownerIs]
  refine ⟨fun off hbad => completes_precheck hexec hfound hstart hopc hrst ?_,
    fun hgood howns => completes_precheck hexec hfound hstart hopc hrst ?_,
    fun hgood howns hdown => completes_precheck hexec hfound hstart hopc hrst ?_⟩
  · simp [precheck, hopc, hinfo, hbad]
  · simp [precheck, hopc, hinfo, hgood, hpermitted, howns, noBuf]
  · simp [precheck, hopc, hinfo, hgood, hpermitted, howns, hdown, noBuf]

theorem checks_of_badField {e : BitVec 512} {l : List (Nat × Bool)} (h : badField e used l = none) : ∀ x ∈ l, x.2 = true := by
  intro x hx
  unfold badField at h
  dsimp only at h
  split at h
  case h_1 hnil =>
    have hall := (List.append_eq_nil_iff.1 hnil).1
    simpa using List.filter_eq_nil_iff.1 (List.map_eq_nil_iff.1 hall) x hx
  case h_2 => simp at h

/-- A command that is served passes its checks. -/
theorem checks_of_served (hs : Served k opc used checks need c s) : ∀ x ∈ checks c s, x.2 = true := by
  obtain ⟨-, -, -, hpre, -⟩ := hs
  refine checks_of_badField (e := c.entry) (used := used) ?_
  unfold precheck at hpre
  split at hpre
  case h_1 => simp at hpre
  case h_2 =>
    split at hpre
    case h_1 => simp at hpre
    case h_2 hgood => exact hgood

end

/-! ### Changed tables go into the shadow bank -/

theorem finishLoad_shadow (l : Load) (s : State) : (finishLoad l s).mmu.shadow = s.mmu.shadow := by
  unfold finishLoad
  split
  case h_1 =>
    split
    · rfl
    · exact congrArg Mmu.shadow (mmu_same (keeps_writeSetting _ (Keeps.refl _ s) (sub_refl _)) (by decide))
  case h_2 => rfl
  case h_3 =>
    exact congrArg Mmu.shadow (mmu_same (ps := [.beads]) (Keeps.foldl _ (Keeps.refl _ s) fun _ _ hk =>
      keeps_modBead _ _ hk (sub_refl _)) (by decide))
  case h_4 => split <;> rfl
  case h_5 => exact congrArg Mmu.shadow (mmu_same (keeps_completeWaits _ _ _ (Keeps.refl _ s) (sub_refl _)) (by decide))

theorem finishLoads_shadow (s : State) : (finishLoads s).mmu.shadow = s.mmu.shadow :=
  upTo_leaves (·.mmu.shadow) (fun t _ => by
    split
    · rfl
    · split
      · exact finishLoad_shadow _ _
      · rfl) _ s

theorem loadStores_shadow (bank : Tbl Word) (s : State) : (loadStores bank s).mmu.shadow = bank := finishLoads_shadow _

/-- The state in which the load of a changed bank has joined those under way. -/
def storesAdded (bank : Tbl Word) (s : State) : State :=
  addLoad ⟨.stores, bankGranules s.mmu.shadow bank⟩ { s with mmu := { s.mmu with shadow := bank, swapDue := none } }

/-- The load is done at once where it is the only one and has no granule, and its swap is armed then (R604). -/
theorem loadStores_eq {s : State} (bank : Tbl Word) (hhead : ∀ l, s.nutas.loads.head? = some l → l.left ≠ 0) :
    loadStores bank s = if s.nutas.loads = [] ∧ bankGranules s.mmu.shadow bank = 0
      then armTs (withoutLoads (storesAdded bank s)) else storesAdded bank s := by
  have hloads : (storesAdded bank s).nutas.loads = s.nutas.loads ++ [⟨.stores, bankGranules s.mmu.shadow bank⟩] := rfl
  change finishLoads (storesAdded bank s) = _
  split
  case isTrue hnow =>
    rw [finishLoads_of_done (l := ⟨.stores, bankGranules s.mmu.shadow bank⟩) (by rw [hloads, hnow.1]; rfl) hnow.2]
    rfl
  case isFalse hwait =>
    cases hs : s.nutas.loads with
    | nil =>
      exact finishLoads_of_left (l := ⟨.stores, bankGranules s.mmu.shadow bank⟩) (rest := []) (by rw [hloads, hs]; rfl)
        fun h => hwait ⟨hs, h⟩
    | cons l rest => exact finishLoads_of_left (l := l) (by rw [hloads, hs]; rfl) (hhead l (by rw [hs]; rfl))

/-- What a changed map leaves of its command, of the loads and of the translation stores. -/
def MapWaits (k : Nat) (bank : Tbl Word) (s t : State) : Prop :=
  WaitsAs k (.map k) s t ∧
  t.nutas.loads = (if s.nutas.loads = [] ∧ bankGranules s.mmu.shadow bank = 0 then []
    else s.nutas.loads ++ [⟨.stores, bankGranules s.mmu.shadow bank⟩]) ∧
  t.mmu = { s.mmu with
    shadow := bank
    swapDue := if s.nutas.loads = [] ∧ bankGranules s.mmu.shadow bank = 0 then some (armDue s) else none }

theorem mapWaits_loadStores {s : State} (k : Nat) (bank : Tbl Word)
    (hhead : ∀ l, s.nutas.loads.head? = some l → l.left ≠ 0) :
    MapWaits k bank s (waitFor (.map k) (loadStores bank (Started k s))) := by
  unfold MapWaits
  rw [loadStores_eq (s := Started k s) bank hhead]
  by_cases hnow : s.nutas.loads = [] ∧ bankGranules s.mmu.shadow bank = 0
  · have hnow' : (Started k s).nutas.loads = [] ∧ bankGranules (Started k s).mmu.shadow bank = 0 := hnow
    rw [if_pos hnow, if_pos hnow, if_pos hnow']
    exact ⟨⟨rfl, rfl, rfl, rfl⟩, rfl, rfl⟩
  · have hnow' : ¬ ((Started k s).nutas.loads = [] ∧ bankGranules (Started k s).mmu.shadow bank = 0) := hnow
    rw [if_neg hnow, if_neg hnow, if_neg hnow']
    exact ⟨⟨rfl, rfl, rfl, rfl⟩, rfl, rfl⟩

/-! ### A 1 GiB page in an empty bank -/

theorem freeTable_nil (f : Nat) : freeTable [] f = some 1 := by
  simp [freeTable, tablesUnder, tableEntries]

section
variable {f dev lo k table t : Nat} {leaf : Word} {make : Bool} {bank : Tbl Word}

theorem setPage_leaf (hlo : k + 1 ≤ lo) : setPage f dev lo leaf make (k + 1) table bank =
    some (tblSet 0 bank (tsKey f table (bitsOf dev (12 + 9 * (k + 1)) 9)) leaf) := if_pos hlo

/-- A table that is missing is made (R604). -/
theorem setPage_makes (hlo : ¬ k + 1 ≤ lo)
    (hvalid : teValid (tblGet 0 bank (tsKey f table (bitsOf dev (12 + 9 * (k + 1)) 9))).toNat = false)
    (hfree : freeTable bank f = some t) : setPage f dev lo leaf true (k + 1) table bank =
      setPage f dev lo leaf true k t (tblSet 0 (clearTable bank f t)
        (tsKey f table (bitsOf dev (12 + 9 * (k + 1)) 9)) (BitVec.ofNat 64 (1 + t * 4096))) := by
  refine (if_neg hlo).trans ((if_neg fun h => Bool.false_ne_true (hvalid.symm.trans h.1)).trans ((if_neg (by simp)).trans ?_))
  simp only [hfree, hvalid]
  rfl

end

/-- The bank in which a root entry leads to table 1, and a leaf stands there. -/
def bankOfGib (f dev : Nat) (leaf : Word) : Tbl Word :=
  tblSet 0 (tblSet 0 [] (tsKey f 0 (bitsOf dev 39 9)) (BitVec.ofNat 64 (1 + 1 * 4096))) (tsKey f 1 (bitsOf dev 30 9)) leaf

theorem setPages_gib (f dev phys attrs : Nat) :
    setPages f dev phys 2 1 attrs true [] = some (bankOfGib f dev (BitVec.ofNat 64 (phys + attrs))) := by
  have hroot : setPage f dev 2 (BitVec.ofNat 64 (phys + attrs)) true (2 + 1) 0 [] =
      some (bankOfGib f dev (BitVec.ofNat 64 (phys + attrs))) :=
    (setPage_makes (by decide) (by simp [tblGet, teValid, bitOf]) (freeTable_nil f)).trans (setPage_leaf (le_refl _))
  simpa only [setPages, upTo, List.range_one, List.foldl_cons, List.foldl_nil, Option.bind_some, Nat.zero_mul, Nat.add_zero,
    if_true] using hroot

/-- The change of one facet. -/
theorem setFacets_one {f : Nat} (hf : f < 8) (dev phys lo n attrs : Nat) (map : Bool) (bank : Tbl Word) :
    setFacets (2 ^ f) dev phys lo n attrs map bank = setPages f dev phys lo n attrs map bank := by
  interval_cases f <;> simp [setFacets, upTo, List.range_succ, bitOf]


/-- The word of a leaf of 1 GiB: V, LEAF and the permissions below a page number (R322). -/
structure GibLeaf (phys perm e : Nat) : Prop where
  valid : teValid e = true
  leaf : teLeaf e = true
  reserved : teReserved e = false
  low : bitsOf e 12 18 = 0
  page : bitsOf e 30 18 = phys / 2 ^ 30
  rd : teRd e = bitOf perm 0
  wr : teWr e = bitOf perm 1
  nc : teNc e = bitOf perm 2

theorem gibLeaf {phys perm : Nat} (hperm : perm < 8) (halign : phys % 2 ^ 30 = 0) (hphys : phys < 2 ^ 48) :
    GibLeaf phys perm (phys + (3 + 4 * perm)) := by
  obtain ⟨q, rfl⟩ : ∃ q, phys = 1073741824 * q := ⟨phys / 2 ^ 30, by omega⟩
  have hbit (i j : Nat) (h : (1073741824 * q + (3 + 4 * perm)) / 2 ^ i % 2 = perm / 2 ^ j % 2) :
      bitOf (1073741824 * q + (3 + 4 * perm)) i = bitOf perm j := by
    rw [bitOf, bitOf, h]
  refine ⟨beq_iff_eq.2 (by omega), beq_iff_eq.2 (by omega), ?_, ?_, ?_, hbit 2 0 (by omega), hbit 3 1 (by omega),
    hbit 4 2 (by omega)⟩
  · have hlow : bitsOf (1073741824 * q + (3 + 4 * perm)) 5 7 = 0 := by
      unfold bitsOf
      omega
    have hhigh : bitsOf (1073741824 * q + (3 + 4 * perm)) 48 16 = 0 := by
      unfold bitsOf
      omega
    simp [teReserved, hlow, hhigh]
  · unfold bitsOf
    omega
  · unfold bitsOf
    omega

/-- A walk finds the page that stands in the bank (R321 to R323). -/
theorem walkFrom_bankOfGib {f dev phys perm : Nat} (hperm : perm < 8) (halign : phys % 2 ^ 30 = 0) (hphys : phys < 2 ^ 48) :
    walkFrom (bankOfGib f dev (BitVec.ofNat 64 (phys + (3 + 4 * perm)))) f dev 3 0 =
      some { vpn := dev / 2 ^ 30, bits := 30, ppn := phys / 2 ^ 30, rd := bitOf perm 0, wr := bitOf perm 1, nc := bitOf perm 2 } := by
  have hroot : tsEntry (bankOfGib f dev (BitVec.ofNat 64 (phys + (3 + 4 * perm)))) f 0 (bitsOf dev 39 9) = 4097 := by
    have hidx : bitsOf dev 39 9 < 512 := Nat.mod_lt _ (by decide)
    have hkeys : tsKey f 0 (bitsOf dev 39 9) ≠ tsKey f 1 (bitsOf dev 30 9) := by
      unfold tsKey
      omega
    unfold tsEntry bankOfGib
    rw [← tsKey, tblGet_tblSet_other _ _ _ _ _ hkeys, tblGet_tblSet_same]
    rfl
  have hword : tsEntry (bankOfGib f dev (BitVec.ofNat 64 (phys + (3 + 4 * perm)))) f 1 (bitsOf dev 30 9) =
      phys + (3 + 4 * perm) := by
    unfold tsEntry bankOfGib
    rw [← tsKey, tblGet_tblSet_same, BitVec.toNat_ofNat, Nat.mod_eq_of_lt (by omega)]
  obtain ⟨hvalid, hleaf, hreserved, hlow, hpage, hrd, hwr, hnc⟩ := gibLeaf hperm halign hphys
  have hdown : walkFrom (bankOfGib f dev (BitVec.ofNat 64 (phys + (3 + 4 * perm)))) f dev 3 0 =
      walkFrom (bankOfGib f dev (BitVec.ofNat 64 (phys + (3 + 4 * perm)))) f dev 2 1 := by
    rw [walkFrom]
    simp only [hroot]
    rfl
  rw [hdown, walkFrom]
  simp only [hword, hvalid, hleaf, hreserved, hlow, hpage, hrd, hwr, hnc]
  rfl

/-! ### MAP and UNMAP -/

section
variable {s : State} {k : Nat} {c : Cmd}

theorem exec_map (k : Nat) (s : State) : exec (.map k) s = execMap k s := rfl
theorem exec_unmap (k : Nat) (s : State) : exec (.unmap k) s = execUnmap k s := rfl

/-- The shadow bank with the change of a command. -/
def changedMap (map : Bool) (c : Cmd) (s : State) : Option (Tbl Word) :=
  setFacets (entryByte c.entry 45) (mapDev c) (mapPhys c) (mapLo c) (mapPages c)
    (3 + 4 * bitsOf (entryByte c.entry 44) 2 3) map s.mmu.shadow

theorem mapEffect_noSpace {map : Bool} (hnew : changedMap map c s = none) :
    mapEffect map k c (Started k s) = .done stNoSpace 0 0 (Started k s) := by
  unfold changedMap at hnew
  simp only [mapEffect]
  rw [show (Started k s).mmu = s.mmu from rfl, hnew]

theorem mapEffect_waits {map : Bool} {bank : Tbl Word} (hnew : changedMap map c s = some bank) :
    mapEffect map k c (Started k s) = .wait (waitFor (.map k) (loadStores bank (Started k s))) := by
  unfold changedMap at hnew
  simp only [mapEffect]
  rw [show (Started k s).mmu = s.mmu from rfl, hnew]

section
variable (hs : Served k 0x10 (bytesMask 24 6 ++ bytesMask 32 6 ++ bytesMask 40 4 ++ [(44, 0x1F), (45, 0xFF)]) mapChecks noBuf c s)
include hs

theorem map_noSpace (hnew : changedMap true c s = none) :
    Completes (.map k) s fun t => Completed k c stNoSpace 0 0 s t ∧ t.mmu = s.mmu :=
  completes_status hs ((exec_map k s).trans (command_done hs (mapEffect_noSpace hnew)))
    fun t _ hdone hend => ⟨hdone, by rw [hend]; rfl⟩

theorem map_waits {bank : Tbl Word} (hnew : changedMap true c s = some bank)
    (hhead : ∀ l, s.nutas.loads.head? = some l → l.left ≠ 0) : Completes (.map k) s (MapWaits k bank s) :=
  completes_of_exec ((exec_map k s).trans (command_wait hs (mapEffect_waits hnew))) (mapWaits_loadStores k bank hhead)

theorem map_gib_found {f : Nat} (hf : f < 8) (hfacet : entryByte c.entry 45 = 2 ^ f) (hempty : s.mmu.shadow = [])
    (hlo : mapLo c = 2) (hpages : mapPages c = 1) :
    Completes (.map k) s fun t => ∃ e, walkFrom t.mmu.shadow f (mapDev c) 3 0 = some e ∧
      physOf e (mapDev c) = mapPhys c ∧ e.bits = 30 ∧ e.rd = bitOf (entryByte c.entry 44) 2 ∧
      e.wr = bitOf (entryByte c.entry 44) 3 ∧ e.nc = bitOf (entryByte c.entry 44) 4 := by
  have hnew : changedMap true c s = some (bankOfGib f (mapDev c)
      (BitVec.ofNat 64 (mapPhys c + (3 + 4 * bitsOf (entryByte c.entry 44) 2 3)))) := by
    rw [changedMap, hfacet, hlo, hpages, hempty, setFacets_one hf, setPages_gib]
  have hchecks := checks_of_served hs
  simp only [mapChecks, unmapChecks, List.cons_append, List.nil_append, List.forall_mem_cons, mapSize, hlo, beq_iff_eq] at hchecks
  obtain ⟨hdev, -, -, hphys, -⟩ := hchecks
  have hperm : bitsOf (entryByte c.entry 44) 2 3 < 8 := Nat.mod_lt _ (by decide)
  have hplace : mapPhys c < 2 ^ 48 := Nat.mod_lt _ (by decide)
  have hbit (i : Nat) (hi : i < 3) : bitOf (bitsOf (entryByte c.entry 44) 2 3) i = bitOf (entryByte c.entry 44) (2 + i) := by
    interval_cases i <;> simp only [bitOf, bitsOf] <;> congr 1 <;> omega
  refine completes_of_exec ((exec_map k s).trans (command_wait hs (mapEffect_waits hnew)))
    ⟨_, (congrArg (walkFrom · f (mapDev c) 3 0) (loadStores_shadow _ _)).trans (walkFrom_bankOfGib hperm hphys hplace),
      ?_, rfl, hbit 0 (by decide), hbit 1 (by decide), hbit 2 (by decide)⟩
  unfold physOf
  dsimp only
  omega

end

theorem unmap_waits {bank : Tbl Word}
    (hs : Served k 0x11 (bytesMask 24 6 ++ bytesMask 40 4 ++ [(44, 0x03), (45, 0xFF)]) unmapChecks noBuf c s)
    (hnew : changedMap false c s = some bank) (hhead : ∀ l, s.nutas.loads.head? = some l → l.left ≠ 0) :
    Completes (.unmap k) s (MapWaits k bank s) :=
  completes_of_exec ((exec_unmap k s).trans (command_wait hs (mapEffect_waits hnew))) (mapWaits_loadStores k bank hhead)

/-! ### WINDOW -/

theorem exec_window (k : Nat) (s : State) : exec (.window k) s = execWindow k s := rfl

/-- The window of a command in the shadow of the windows. -/
def windowSet (c : Cmd) (s : State) : State :=
  { s with mmu := { s.mmu with
    winShadow := tblSet {} s.mmu.winShadow (bitsOf (entryByte c.entry 24) 0 3) (windowOf c) } }

theorem window_waits (hs : Served k 0x12 ([(24, 0x1F)] ++ bytesMask 32 8 ++ bytesMask 40 2)
      (fun c _ => [(32, entryNum c.entry 32 8 % gib == 0),
        (40, decide (1 ≤ entryNum c.entry 40 2) && decide (entryNum c.entry 40 2 ≤ 2048))]) noBuf c s) :
    Completes (.window k) s fun t => WaitsAs k (.window k) s t ∧ t.mmu = { s.mmu with
      winShadow := tblSet {} s.mmu.winShadow (bitsOf (entryByte c.entry 24) 0 3) (windowOf c)
      swapDue := if storesLoading s = true then s.mmu.swapDue else some (armDue s) } := by
  refine completes_of_exec ((exec_window k s).trans (command_wait hs (u := waitFor (.window k)
    (if storesLoading s = true then windowSet c (Started k s) else armTs (windowSet c (Started k s)))) rfl)) ?_
  split <;> exact ⟨⟨rfl, rfl, rfl, rfl⟩, rfl⟩

/-! ### SPLIT -/

theorem exec_split (k : Nat) (s : State) : exec (.split k) s = execSplit k s := rfl

section
variable (hs : Served k 0x13 [(24, 0xFF)] (fun c _ => [(24, decide (entryByte c.entry 24 ≤ 64))]) noBuf c s)
include hs

theorem split_planRuns (hplan : planRuns s = true) :
    Completes (.split k) s fun t => Completed k c stPlanRunning 0 0 s t ∧ t.mem = s.mem :=
  completes_status hs ((exec_split k s).trans (command_done hs (if_pos hplan)))
    fun t _ hdone hend => ⟨hdone, by rw [hend]; rfl⟩

variable (hplan : planRuns s = false)
include hplan

theorem split_same (hsame : BitVec.ofNat 7 (entryByte c.entry 24) = s.mem.splitNow) :
    Completes (.split k) s fun t => Completed k c stOk 0 0 s t ∧
      t.mem = { s.mem with split := BitVec.ofNat 7 (entryByte c.entry 24) } :=
  completes_done hs ((exec_split k s).trans (command_done hs
    ((if_neg (Bool.eq_false_iff.1 hplan)).trans (if_pos hsame)))) ⟨rfl, rfl, rfl, rfl⟩ fun hdone => ⟨hdone, rfl⟩

theorem split_waits (hnew : BitVec.ofNat 7 (entryByte c.entry 24) ≠ s.mem.splitNow) :
    Completes (.split k) s fun t => WaitsAs k (.split k) s t ∧
      t.mem = { s.mem with split := BitVec.ofNat 7 (entryByte c.entry 24) } :=
  completes_of_exec ((exec_split k s).trans (command_wait hs
    ((if_neg (Bool.eq_false_iff.1 hplan)).trans (if_neg hnew)))) ⟨⟨rfl, rfl, rfl, rfl⟩, rfl⟩

end

theorem exec_splitTakeEffect (s : State) : exec .splitTakeEffect s = execSplitTakeEffect s := rfl

theorem execSplitTakeEffect_next (hup : s.standby.mainUp = true) (hck : s.clock.ck = 0) (hnew : s.mem.split ≠ s.mem.splitNow)
    (hplan : planRuns s = false) (hquiet : stacksQuiet s = true) : execSplitTakeEffect s = .next (splitTake s) :=
  whenOk_of _ (by simp [mainUp, hup, hck, splitDue, hnew, hplan, hquiet]) _

/-- The state with the new split in effect. -/
def splitTaken (s : State) : State := { s with mem := { s.mem with splitNow := s.mem.split } }

theorem splitTake_mem (s : State) : (splitTake s).mem = { s.mem with splitNow := s.mem.split } :=
  mem_same (keeps_completeWaits _ _ _ (Keeps.refl _ (splitTaken s)) (sub_refl _)) (by decide)

/-- The one command that waits completes. -/
theorem completeWaits_one {p : Waits → Option Nat} {w : Waits} (hwaits : s.nutas.waits = [w]) (hp : p w = some k) (st : Nat)
    (r1 : Word) : completeWaits p st r1 s = complete k st 0 r1 (modNutas (fun n => { n with waits := [] }) s) := by
  have hdrop : dropWait (fun w => (p w).isSome) s = modNutas (fun n => { n with waits := [] }) s := by
    simp [dropWait, modNutas, hwaits, hp]
  simp [completeWaits, hdrop, hwaits, hp]

/-- The SPLIT that waits completes as its split takes effect (R318). -/
theorem splitTake_completes (hwaits : s.nutas.waits = [.split k]) (hfound : (s.nutas.cmds.find? fun y => y.num == k) = some c)
    (hrst : (mbxOf s c.mbx.val).rst = false) :
    (splitTake s).nutas.waits = [] ∧ Completed k c stOk 0 0 s (splitTake s) := by
  have hend : splitTake s = ended k (completionOf s c stOk 0 0) (modNutas (fun n => { n with waits := [] }) (splitTaken s)) :=
    (completeWaits_one (s := splitTaken s) hwaits rfl stOk 0).trans
      (complete_eq_ended (u := modNutas _ (splitTaken s)) hfound hrst _ _ _)
  rw [hend]
  exact ⟨rfl, rfl, rfl, rfl⟩

end

/-- Settles O53: one lemma for each outcome of each command, and the split that takes effect. -/
theorem mapCommandsChangeTheShadowMap : Obligations.MapCommandsChangeTheShadowMap := by
  unfold Obligations.MapCommandsChangeTheShadowMap
  refine ⟨fun s k c => ?_, fun s hup hck hnew hplan hquiet => ?_⟩
  · dsimp only
    simp only [List.forall_mem_cons, List.not_mem_nil, false_imp_iff, forall_true_iff, and_true]
    exact ⟨⟨completes_mapChecked (exec_map k s) rfl, completes_mapChecked (exec_unmap k s) rfl,
        completes_mapChecked (exec_window k s) rfl, completes_mapChecked (exec_split k s) rfl⟩,
      fun hs => ⟨map_noSpace hs, fun _ => map_waits hs, fun _ => map_gib_found hs⟩,
      fun hs _ => unmap_waits hs, window_waits,
      fun hs => ⟨split_planRuns hs, split_same hs, split_waits hs⟩⟩
  · exact completes_of_exec ((exec_splitTakeEffect s).trans (execSplitTakeEffect_next hup hck hnew hplan hquiet))
      ⟨splitTake_mem s, fun k c hwaits => splitTake_completes hwaits⟩

end Sys2Proof.Proofs
end

section
/-! Proof for chapters 9 to 13: bezels, slices, beads and clasp holders take the requests that reach them. -/

namespace Sys2Proof.Proofs

open Sys2Proof Sys2Proof.Machine Sys2Proof.Laws

theorem fabric_same {ps : List Part} {s t : State} (h : Keeps ps s t) (hp : Part.fabric ∉ ps) : t.fabric = s.fabric :=
  h.only.fabric.resolve_left hp

/-! ### A request is taken -/

section
variable {s t : State} {n : NodeN} {m : Msg} {rest : List Msg} {i : Instr} {op : BitVec 8}
  {f : Nat → Msg → State → Option State} {p : State → Prop}

theorem completes_nodeRow (hup : s.standby.mainUp = true) (harr : arrivals s n.val = m :: rest)
    (hland : landing s n.val m = false) (hexec : exec i s = nodeRow n.val op f s) (hop : m.op = op)
    (hf : f n.val m (popArrival n.val s) = some t) (hp : p t) : Completes i s p :=
  completes_of_exec (hexec.trans (nodeRow_eq hup harr hland hop hf)) hp

theorem nodeKind_popArrival (k n : Nat) (s : State) : nodeKind (popArrival k s) n = nodeKind s n := rfl

/-! ### Bezels and slices -/

/-- Any request waits in the sorter of a bezel that has room (R367). -/
theorem takes_bezel {k z : Nat} (hk : nodeKind s k = .bezel z) (hroom : (bezelOf s z).sorter.length < 1024) :
    takeRead k m s = some (toBezel z m s) ∧ takeWrite k m s = some (toBezel z m s) ∧
      takeAtomic k m s = some (toBezel z m s) ∧ takeSum k m s = some (toBezel z m s) := by
  have hroom' : bezelRoom s z = true := decide_eq_true hroom
  simp [takeRead, takeWrite, takeAtomic, takeSum, hk, hroom']

theorem joinsSorter_toBezel (harr : arrivals s n.val = m :: rest) (z : Nat) :
    JoinsSorter n.val z m rest s (toBezel z m (popArrival n.val s)) :=
  ⟨arrivals_popArrival harr, fun _ h => bezelOf_modBezel_other _ _ h, rfl, bezelOf_modBezel _ _ _⟩

/-- Any request of one of its own slices goes to that slice (R307). -/
theorem takes_xbar {k x j : Nat} (hk : nodeKind s k = .xbar x) (hslice : sliceOf s m.addr.toNat = some j) (hown : j / 4 = x) :
    let u := toSlice j 0 m (countEv (blkXbar x) 0x02 (1 + m.len) s)
    takeRead k m s = some u ∧ takeWrite k m s = some u ∧ takeAtomic k m s = some u ∧ takeSum k m s = some u := by
  simp [takeRead, takeWrite, takeAtomic, takeSum, hk, atXbar, hslice, hown]

theorem joinsSlice_toSlice (harr : arrivals s n.val = m :: rest) (x j : Nat) :
    JoinsSlice n.val j m rest s (toSlice j 0 m (countEv (blkXbar x) 0x02 (1 + m.len) (popArrival n.val s))) := by
  have hlooks : Keeps [.asy] (popArrival n.val s)
      (xbarLooks (j / 4) m.data (countEv (blkXbar x) 0x02 (1 + m.len) (popArrival n.val s))) :=
    keeps_xbarLooks _ _ (keeps_countEv _ _ _ (Keeps.refl _ _) (sub_refl _)) (sub_refl _)
  have hfabric := fabric_same hlooks (by decide)
  have hbezels := bezels_same hlooks (by decide)
  have hmem := mem_same hlooks (by decide)
  unfold toSlice
  rw [countEv_clock]
  generalize xbarLooks (j / 4) m.data _ = u at *
  refine ⟨(congrArg (fun f : Fabric => tblGet [] f.arrivals n.val) hfabric).trans (arrivals_popArrival harr), hbezels,
    fun g => codeAt_congr (congrArg Memory.cells hmem :) g, fun j' hj => ?_, ?_⟩
  · exact (tblGet_tblSet_other _ _ _ _ _ hj).trans (congrArg (fun v : Memory => tblGet [] v.slices j') hmem)
  · exact (tblGet_tblSet_same _ _ _ _).trans (congrArg (fun v : Memory => sliceJoin _ (tblGet [] v.slices j)) hmem)

/-! ### Data memory -/

/-- The position of a bead that is an endpoint is the one that its ordinal names. -/
theorem nodeBead_of_kind {k o : Nat} (hk : nodeKind s k = .bead o) : nodeBead o = k ∧ k < 1152 := by
  by_cases hlt : k < 1152
  · refine ⟨?_, hlt⟩
    have hord : ordOfPos k = some o := by
      rw [nodeKind, if_pos hlt] at hk
      split at hk
      case h_1 _ o' ho =>
        split at hk
        · cases hk
          exact ho
        · cases hk
      case h_2 => cases hk
    unfold ordOfPos at hord
    split at hord
    · cases hord
    · cases hord
      unfold nodeBead posOfOrd
      omega
  · rw [nodeKind, if_neg hlt] at hk
    split_ifs at hk

theorem answer_bead {o : Nat} (hk : nodeKind s (nodeBead o) = .bead o) (a : Msg) : 
    answer (nodeBead o) a s = sendFrom (nodeBead o) a s := by
  have hpass : passXbar (nodeBead o) a.data s = s := by
    simp only [passXbar, hk]
  have hxbar (o' : Nat) : nodeBead o ≠ nodeXbar (clusterOf o') := by
    have := (nodeBead_of_kind hk).2
    unfold nodeXbar
    omega
  unfold answer
  rw [hpass]
  split
  · exact if_neg (hxbar _)
  · rfl

theorem sendFrom_inj (k : Nat) (a : Msg) (s : State) : tblGet [] (sendFrom k a s).fabric.inj (k * 16 + a.stream.val) =
    tblGet [] s.fabric.inj (k * 16 + a.stream.val) ++ [a] := tblGet_tblSet_same _ _ _ _

theorem nodeKind_congr (hnutas : t.nutas = s.nutas) (hstandby : t.standby = s.standby) (k : Nat) :
    nodeKind t k = nodeKind s k := by
  unfold nodeKind
  rw [ordLive_congr (by rw [hnutas]) hstandby]

/-- A READ that is no copy is answered by a READ_RESP (R336). -/
theorem returnData_answer (hcopy : isCopy m = false) (k : Nat) (data : List Code) (pm cls : Nat) :
    returnData k m data pm cls false s = answer k (readResp m data pm cls) s := if_neg (Bool.eq_false_iff.1 hcopy)

/-- The answer of a bead whose data memory has served a request (R336). -/
theorem bead_answers {o : Nat} (hk : nodeKind s n.val = .bead o) {u : State} (hnutas : u.nutas = s.nutas)
    (hstandby : u.standby = s.standby) (a : Msg) : answer (nodeBead o) a u = sendFrom (nodeBead o) a u := by
  apply answer_bead
  rw [nodeKind_congr hnutas hstandby, (nodeBead_of_kind hk).1, hk]

/-- The state in which the one granule of a WRITE stands in data memory; one that arrives uncorrectable is recorded (R390). -/
def granWritten (o off : Nat) (m : Msg) (s : State) : State :=
  recordParts o m [arrivedClass (nth poisonCode m.data 0)] false (dmemPut o (off / 32) (passOn (nth poisonCode m.data 0)) s)

theorem granWritten_keeps (o off : Nat) (m : Msg) (s : State) :
    (granWritten o off m s).fabric = s.fabric ∧ (granWritten o off m s).beads = s.beads ∧
      (granWritten o off m s).mem = (dmemPut o (off / 32) (passOn (nth poisonCode m.data 0)) s).mem := by
  have hrecord : Keeps [.ledger, .faults] (dmemPut o (off / 32) (passOn (nth poisonCode m.data 0)) s) (granWritten o off m s) :=
    keeps_recordParts _ _ _ _ (Keeps.refl _ _) (sub_refl _)
  exact ⟨(fabric_same hrecord (by decide) :), (beads_same hrecord (by decide) :), mem_same hrecord (by decide)⟩

section
variable {o off : Nat} (hplace : placeOf s.mem.splitNow.toNat m.addr.toNat = .dmem o off)
include hplace

theorem beadServeRead_one (hk : nodeKind s n.val = .bead o) (hop : m.op = opRead) (hlen : m.aux0.toNat % 16 = 1)
    (hcopy : m.aux1.getLsbD 0 = false) (hgood : isBad (codeAt s.mem (dmemGran o (off / 32))) = false) :
    beadServeRead o m s = sendFrom (nodeBead o) (readResp m [passOn (codeAt s.mem (dmemGran o (off / 32)))] 0 0)
      (countLook o (codeAt s.mem (dmemGran o (off / 32))) s) := by
  have hclass : lookClass (decodeCode (codeAt s.mem (dmemGran o (off / 32)))).1 = 0 := by
    unfold isBad at hgood
    cases hlook : (decodeCode (codeAt s.mem (dmemGran o (off / 32)))).1 <;> simp [hlook, goodLook, lookClass] at hgood ⊢
  have hlen' : reqLen m = 1 := (if_pos hop).trans ((bitsOf_low _ _).trans hlen)
  have hcopy' : isCopy m = false := (bitOf_toNat _ _).trans hcopy
  rw [← bead_answers hk (countLook_nutas _ _ _) (countLook_standby _ _ _), ← returnData_answer hcopy']
  simp [beadServeRead, upTo, hlen', hplace, dmemGet, hclass, partOf, nth, recordParts]

theorem beadServeWrite_one (hop : m.op = opWrite) (hlen : m.len = 1) :
    beadServeWrite o m s = sendFrom (nodeBead o) (writeAck m (arrivedClass (nth poisonCode m.data 0))
      (arrivedClass (nth poisonCode m.data 0)) 0) (granWritten o off m s) := by
  have hpart : opWrite ≠ opPart := by decide
  have hclass : partOf [arrivedClass (nth poisonCode m.data 0)] =
      (arrivedClass (nth poisonCode m.data 0), arrivedClass (nth poisonCode m.data 0), 0) := by
    unfold arrivedClass
    split <;> rfl
  simp [beadServeWrite, upTo, hlen, hplace, hop, hpart, hclass, granWritten]

end

section
variable {o off : Nat} (hup : s.standby.mainUp = true) (harr : arrivals s n.val = m :: rest) (hland : landing s n.val m = false)
  (hk : nodeKind s n.val = .bead o) (hplace : placeOf s.mem.splitNow.toNat m.addr.toNat = .dmem o off)
include hup harr hland hk hplace

theorem bead_reads (hop : m.op = opRead) (hlen : m.aux0.toNat % 16 = 1) (hcopy : m.aux1.getLsbD 0 = false)
    (hgood : isBad (codeAt s.mem (dmemGran o (off / 32))) = false) :
    Completes (.read n) s fun t => arrivals t n.val = rest ∧ t.mem = s.mem ∧ t.beads = s.beads ∧
      tblGet [] t.fabric.inj (nodeBead o * 16 + (respStream m.dst).val) =
        tblGet [] s.fabric.inj (nodeBead o * 16 + (respStream m.dst).val) ++
          [readResp m [passOn (codeAt s.mem (dmemGran o (off / 32)))] 0 0] := by
  have htake : takeRead n.val m (popArrival n.val s) = some (beadServeRead o m (popArrival n.val s)) := by
    simp only [takeRead, nodeKind_popArrival, hk]
  rw [beadServeRead_one (s := popArrival n.val s) (n := n) hplace hk hop hlen hcopy hgood] at htake
  refine completes_nodeRow hup harr hland rfl hop htake ⟨?_, countLook_mem _ _ _, countLook_beads _ _ _, ?_⟩
  · exact (congrArg (fun f : Fabric => tblGet [] f.arrivals n.val) (countLook_fabric _ _ _)).trans (arrivals_popArrival harr)
  · refine (sendFrom_inj _ _ _).trans ?_
    rw [countLook_fabric]
    rfl

theorem bead_writes (hop : m.op = opWrite) (hlen : m.len = 1) :
    Completes (.write n) s fun t => arrivals t n.val = rest ∧ t.beads = s.beads ∧
      codeAt t.mem (dmemGran o (off / 32)) = passOn (nth poisonCode m.data 0) ∧
      (∀ g', g' ≠ dmemGran o (off / 32) → codeAt t.mem g' = codeAt s.mem g') ∧
      ((decodeCode (nth poisonCode m.data 0)).1 = .uncorr →
        tblGet [] t.fabric.inj (nodeBead o * 16 + (respStream m.dst).val) =
          tblGet [] s.fabric.inj (nodeBead o * 16 + (respStream m.dst).val) ++ [writeAck m 1 1 0]) ∧
      ((decodeCode (nth poisonCode m.data 0)).1 ≠ .uncorr →
        tblGet [] t.fabric.inj (nodeBead o * 16 + (respStream m.dst).val) =
          tblGet [] s.fabric.inj (nodeBead o * 16 + (respStream m.dst).val) ++ [writeAck m 0 0 0]) := by
  have htake : takeWrite n.val m (popArrival n.val s) = some (beadServeWrite o m (popArrival n.val s)) := by
    simp only [takeWrite, nodeKind_popArrival, hk]
  rw [beadServeWrite_one (s := popArrival n.val s) hplace hop hlen] at htake
  obtain ⟨hfabric, hbeads, hmem⟩ := granWritten_keeps o off m (popArrival n.val s)
  have hcode (g : Nat) : codeAt (granWritten o off m (popArrival n.val s)).mem g =
      codeAt (dmemPut o (off / 32) (passOn (nth poisonCode m.data 0)) (popArrival n.val s)).mem g := by rw [hmem]
  generalize granWritten o off m (popArrival n.val s) = v at *
  have hacked (cls : Nat) : tblGet [] (sendFrom (nodeBead o) (writeAck m cls cls 0) v).fabric.inj
      (nodeBead o * 16 + (respStream m.dst).val) =
        tblGet [] s.fabric.inj (nodeBead o * 16 + (respStream m.dst).val) ++ [writeAck m cls cls 0] := by
    refine (sendFrom_inj (nodeBead o) (writeAck m cls cls 0) v).trans ?_
    rw [hfabric]
    rfl
  refine completes_nodeRow hup harr hland rfl hop htake ⟨?_, hbeads, ?_, fun g hg => ?_, fun hbad => ?_, fun hgood => ?_⟩
  · exact (congrArg (fun f : Fabric => tblGet [] f.arrivals n.val) hfabric).trans (arrivals_popArrival harr)
  · exact (hcode _).trans (codeAt_dmemPut_same _ _ _ _)
  · exact (hcode g).trans (codeAt_dmemPut_other hg _ _)
  · rw [show arrivedClass (nth poisonCode m.data 0) = 1 from if_pos hbad]
    exact hacked 1
  · rw [show arrivedClass (nth poisonCode m.data 0) = 0 from if_neg hgood]
    exact hacked 0

end

/-! ### Clasp holders -/

/-- A SIGNAL acts at the holder that it has reached (R449). -/
theorem takeSignal_holder (harr : arrivals s n.val = m :: rest)
    (hk : nodeKind s n.val = .locket ∨ (∃ o, nodeKind s n.val = .bead o) ∨ ∃ x, nodeKind s n.val = .xbar x) :
    ∃ u, takeSignal n.val m (popArrival n.val s) = some (signalAct n.val m u) ∧ arrivals u n.val = rest ∧
      u.faults = s.faults ∧ u.clasps = s.clasps := by
  have hpop := arrivals_popArrival harr
  rcases hk with hk | ⟨o, hk⟩ | ⟨x, hk⟩
  · exact ⟨popArrival n.val s, by simp only [takeSignal, nodeKind_popArrival, hk], hpop, rfl, rfl⟩
  · exact ⟨popArrival n.val s, by simp only [takeSignal, nodeKind_popArrival, hk], hpop, rfl, rfl⟩
  · refine ⟨countEv (blkXbar x) 0x02 1 (popArrival n.val s), by simp only [takeSignal, nodeKind_popArrival, hk], ?_,
      countEv_faults _ _ _ _, countEv_clasps _ _ _ _⟩
    rw [arrivals, countEv_fabric]
    exact hpop

/-- How a SIGNAL reaches its clasp, by AUX0[30:29] (R446, R449). -/
theorem signalAct_add {k : Nat} (hform : m.aux0.toNat / 2 ^ 29 % 4 = 0) (hsrc : ¬ (0x810 ≤ m.src.val ∧ m.src.val < 0x820)) :
    signalAct k m s = claspReach (signalKey k m.aux0.toNat) (rankAdd (claspPort k m s))
      (.add (m.aux1.toNat % 65536) (m.aux0.toNat % 2 ^ 29) m.src.val) s := by
  have hform' : bitsOf m.aux0.toNat 29 2 = 0 := hform
  simp only [signalAct, hform', if_neg hsrc, claspWordIn]
  simp only [bitsOf_low, Nat.reducePow]

theorem signalAct_remote {k : Nat} (hform : m.aux0.toNat / 2 ^ 29 % 4 = 0) (hsrc : 0x810 ≤ m.src.val ∧ m.src.val < 0x820) :
    signalAct k m s = claspReach (signalKey k m.aux0.toNat) (rankAdd (claspPort k m s))
      (.remote (m.aux1.toNat % 65536) m) s := by
  have hform' : bitsOf m.aux0.toNat 29 2 = 0 := hform
  simp only [signalAct, hform', if_pos hsrc]
  simp only [bitsOf_low, Nat.reducePow]

theorem signalAct_take {k : Nat} (hform : m.aux0.toNat / 2 ^ 29 % 4 = 1) :
    signalAct k m s = claspReach (signalKey k m.aux0.toNat) (rankTake (claspPort k m s))
      (.take (m.aux1.toNat % 65536) (.node m.src m.tag)) s := by
  have hform' : bitsOf m.aux0.toNat 29 2 = 1 := hform
  simp only [signalAct, hform']
  simp only [bitsOf_low, Nat.reducePow]

theorem signalAct_wait {k : Nat} (hform : 2 ≤ m.aux0.toNat / 2 ^ 29 % 4) :
    signalAct k m s = claspWait (signalKey k m.aux0.toNat) (m.aux1.toNat % 65536) (m.aux1.toNat / 65536)
      (.node m.src m.tag) s := by
  have hform' : 2 ≤ bitsOf m.aux0.toNat 29 2 := hform
  have htime : bitsOf m.aux1.toNat 16 16 = m.aux1.toNat / 65536 := Nat.mod_eq_of_lt (by omega)
  unfold signalAct
  split
  case h_1 h => omega
  case h_2 h => omega
  case h_3 =>
    rw [htime, bitsOf_low]
    rfl

/-- The clasps once an operation has its place among those of the ck. -/
theorem clasps_claspReach {u : State} (h : u.clasps = s.clasps) (k rank : Nat) (what : ClaspDo) :
    (claspReach k rank what u).clasps = { s.clasps with acts := insertAct ⟨k, rank, what⟩ s.clasps.acts } := by
  rw [← h]
  rfl

end

/-- Settles O40: what each kind of node does with the request that it takes. -/
theorem nodesTakeRequests : Obligations.NodesTakeRequests := by
  unfold Obligations.NodesTakeRequests
  intro s n m rest hup harr hland
  refine ⟨fun z hk hroom => ?_, fun x j hk hslice hown => ?_, fun o off hk hplace => ?_, fun hop hk => ?_⟩
  · obtain ⟨hread, hwrite, hatomic, hsum⟩ := takes_bezel (s := popArrival n.val s) (m := m) hk hroom
    have hjoins := joinsSorter_toBezel harr z
    exact ⟨fun hop => completes_nodeRow hup harr hland rfl hop hread hjoins,
      fun hop => completes_nodeRow hup harr hland rfl hop hwrite hjoins,
      fun hop => completes_nodeRow hup harr hland rfl hop hwrite hjoins,
      fun hop => completes_nodeRow hup harr hland rfl hop hatomic hjoins,
      fun hop => completes_nodeRow hup harr hland rfl hop hsum hjoins⟩
  · obtain ⟨hread, hwrite, hatomic, hsum⟩ := takes_xbar (s := popArrival n.val s) hk hslice hown
    have hjoins := joinsSlice_toSlice harr x j
    exact ⟨fun hop => completes_nodeRow hup harr hland rfl hop hread hjoins,
      fun hop => completes_nodeRow hup harr hland rfl hop hwrite hjoins,
      fun hop => completes_nodeRow hup harr hland rfl hop hwrite hjoins,
      fun hop => completes_nodeRow hup harr hland rfl hop hatomic hjoins,
      fun hop => completes_nodeRow hup harr hland rfl hop hsum hjoins⟩
  · dsimp only
    exact ⟨bead_reads hup harr hland hk hplace, fun hop hlen _ => bead_writes hup harr hland hk hplace hop hlen⟩
  · dsimp only
    obtain ⟨u, htake, hrest, hfaults, hclasps⟩ := takeSignal_holder harr hk
    refine ⟨fun hform hsrc => ?_, fun hform hlo hhi => ?_, fun hform => ?_, fun hform => ?_⟩
    · refine completes_nodeRow hup harr hland rfl hop htake ?_
      rw [signalAct_add hform hsrc]
      exact ⟨hrest, hfaults, clasps_claspReach hclasps _ _ _⟩
    · refine completes_nodeRow hup harr hland rfl hop htake ?_
      rw [signalAct_remote hform ⟨hlo, hhi⟩]
      exact ⟨hrest, hfaults, clasps_claspReach hclasps _ _ _⟩
    · refine completes_nodeRow hup harr hland rfl hop htake ?_
      rw [signalAct_take hform]
      exact ⟨hrest, hfaults, clasps_claspReach hclasps _ _ _⟩
    · refine completes_nodeRow hup harr hland rfl hop htake ?_
      rw [signalAct_wait hform]
      refine ⟨hrest, hfaults, (congrArg Clasps.acts hclasps :), (congrArg Clasps.count hclasps :), fun k' hk' => ?_, ?_⟩
      · exact (waitersOf_setWaiters_other _ _ hk').trans (congrArg (fun c : Clasps => tblGet [] c.waiters k') hclasps)
      · refine (waitersOf_setWaiters _ _ _).trans ?_
        rw [waitersOf, hclasps]
        rfl

end Sys2Proof.Proofs
end

section
/-! Facts about the granules of stacks and slices: what a write at a stack-local address leaves in memory and of the bezels. -/

namespace Sys2Proof.Proofs

open Sys2Proof Sys2Proof.Machine Sys2Proof.Laws

/-! ### Other bezels -/

section
variable {s t u : State} {z : Nat}

theorem otherBezels_refl (z : Nat) (s : State) : OtherBezels z s s := fun _ _ => rfl

theorem otherBezels_trans (h : OtherBezels z s t) (g : OtherBezels z t u) : OtherBezels z s u :=
  fun z' hz => (g z' hz).trans (h z' hz)

theorem otherBezels_of_bezels (h : t.bezels = s.bezels) : OtherBezels z s t := fun z' _ => bezelOf_congr h z'

theorem otherBezels_modBezel (z : Nat) (f : Bezel → Bezel) (s : State) : OtherBezels z s (modBezel z f s) :=
  fun _ h => bezelOf_modBezel_other _ _ h

end

/-! ### A code word stored at a stack-local address -/

section
variable {z l g : Nat} {c : Code} {s t : State}

theorem codeAt_putCode_same (s : State) (g : Nat) (c : Code) : codeAt (putCode s g c).mem g = c := codeAt_codePut_same _ _ _

theorem codeAt_putCode_other {g' : Nat} (h : g' ≠ g) (s : State) (c : Code) :
    codeAt (putCode s g c).mem g' = codeAt s.mem g' := codeAt_codePut_other _ _ _ _ h

theorem codeAt_putCode_keep (h : codeAt s.mem g = c) (g' : Nat) : codeAt (putCode s g' c).mem g = c := by
  by_cases hg : g = g'
  · rw [hg, codeAt_putCode_same]
  · rw [codeAt_putCode_other hg, h]

/-- A write leaves every granule but the address's own in the channel and in the relief area (R732). -/
theorem codeAt_stackPut_other (hnear : g ≠ stackGran z (redirected (bezelOf s z) (l / 32))) (hfar : g ≠ reliefGran z (l / 32)) :
    codeAt (stackPut z l c s).mem g = codeAt s.mem g := by
  have hfirst : codeAt (if inRetrain (bezelOf s z) l && (bezelOf s z).retrainPhase == .remap then s
      else putCode s (stackGran z (redirected (bezelOf s z) (l / 32))) c).mem g = codeAt s.mem g := by
    split
    · rfl
    · exact codeAt_putCode_other hnear _ _
  unfold stackPut
  dsimp only
  split
  · rw [codeAt_putCode_other hfar, hfirst]
  · exact hfirst

/-- What is written is found where reads of the address are served (R732). -/
theorem codeAt_stackPut_src (z l : Nat) (c : Code) (s : State) : codeAt (stackPut z l c s).mem (stackSrc s z l) = c := by
  unfold stackPut stackSrc
  dsimp only
  by_cases hrelief : relieved (bezelOf s z) l = true
  · simp only [hrelief, Bool.true_or, if_true]
    exact codeAt_putCode_same _ _ _
  · have hwritten : (inRetrain (bezelOf s z) l && (bezelOf s z).retrainPhase == .remap) = false := by
      simp only [relieved] at hrelief
      simp_all
    rw [hwritten, if_neg Bool.false_ne_true, if_neg hrelief]
    split
    · exact codeAt_putCode_keep (codeAt_putCode_same _ _ _) _
    · exact codeAt_putCode_same _ _ _

/-- Where reads are served depends on the redirects and on the retraining. -/
theorem stackSrc_congr (hredirect : (bezelOf t z).redirect = (bezelOf s z).redirect)
    (hphase : (bezelOf t z).retrainPhase = (bezelOf s z).retrainPhase)
    (hch : (bezelOf t z).retrainCh = (bezelOf s z).retrainCh) (l : Nat) : stackSrc t z l = stackSrc s z l := by
  have hframe : redirected (bezelOf t z) (l / 32) = redirected (bezelOf s z) (l / 32) := by
    unfold redirected
    rw [hredirect]
  have hrelief : relieved (bezelOf t z) l = relieved (bezelOf s z) l := by
    unfold relieved inRetrain
    rw [hphase, hch]
  unfold stackSrc
  rw [hframe, hrelief]

/-! ### A granule applied by a writer -/

/-- A write leaves of its bezel all but the open rows and the marks of old generations (R539, R805). -/
theorem bezelOf_stackStore (z l : Nat) (c : Code) (s : State) :
    bezelOf (stackStore z l c s) z = { bezelOf s z with
      openRow := tblSet 0 (bezelOf s z).openRow (bankOf l) (dramRow l), gens := (bezelOf (stackStore z l c s) z).gens } := by
  have hnotices (p : Nat) (t : State) : bezelOf (staleNotices z p t) z = bezelOf t z :=
    bezelOf_congr (bezels_same (keeps_staleNotices z p (Keeps.refl _ t) (sub_refl _)) (by decide)) z
  unfold stackStore
  rw [hnotices, genWritten, bezelOf_modBezel, openAt, bezelOf_modBezel, bezelOf_congr (stackPut_bezels _ _ _ _)]

theorem otherBezels_stackStore (z l : Nat) (c : Code) (s : State) : OtherBezels z s (stackStore z l c s) :=
  otherBezels_trans (otherBezels_of_bezels (stackPut_bezels _ _ _ _)) (otherBezels_trans (otherBezels_modBezel _ _ _)
    (otherBezels_trans (otherBezels_modBezel _ _ _) (otherBezels_of_bezels
      (bezels_same (keeps_staleNotices z _ (Keeps.refl _ _) (sub_refl _)) (by decide)))))

theorem stackStore_mem (z l : Nat) (c : Code) (s : State) : (stackStore z l c s).mem = (stackPut z l (passOn c) s).mem :=
  (mem_same (keeps_staleNotices z _ (Keeps.refl _ _) (sub_refl _)) (by decide) :)

end

end Sys2Proof.Proofs
end

section
/-! Proof for chapters 9 to 11: the sorters of bezels and slices store the writes that they serve. -/

namespace Sys2Proof.Proofs

open Sys2Proof Sys2Proof.Machine Sys2Proof.Laws

/-! ### A bezel serves its one request -/

section
variable {s : State} {z l : Nat} {r : SortReq}

/-- Where a sorter holds one request, there is none to merge with it (R368). -/
theorem merged_single (hsorter : (bezelOf s z).sorter = [r]) : merged s z r = [] := by
  simp [merged, hsorter, mergeGroup]

theorem bezelServe_alone (hsorter : (bezelOf s z).sorter = [r]) (hfree : blockedLines s z r.msg = []) :
    bezelServe z r s = bezelDo z r s := by
  unfold bezelServe
  simp only [hfree, merged_single hsorter, hsorter, List.length_singleton]
  simp

/-- The state in which a request has left the sorter, with its accesses counted. -/
def leftSorter (z : Nat) (r : SortReq) (s : State) : State :=
  modBezel z (fun b => { b with sorter := dropFirst (fun q => q == r) b.sorter })
    ((reqBursts s z r.msg).foldl (fun t l => countEv (blkBezel z) (if burstHit s z l then 0x05 else 0x06) 1 t) s)

theorem keeps_burstCounts (z : Nat) (r : SortReq) (s : State) : Keeps [.asy] s
    ((reqBursts s z r.msg).foldl (fun t l => countEv (blkBezel z) (if burstHit s z l then 0x05 else 0x06) 1 t) s) :=
  Keeps.foldl _ (Keeps.refl _ s) fun _ _ hk => keeps_countEv _ _ _ hk (sub_refl _)

theorem leftSorter_mem (z : Nat) (r : SortReq) (s : State) : (leftSorter z r s).mem = s.mem := by
  rw [leftSorter, modBezel_mem]
  exact mem_same (keeps_burstCounts z r s) (by decide)

theorem otherBezels_leftSorter (z : Nat) (r : SortReq) (s : State) : OtherBezels z s (leftSorter z r s) :=
  otherBezels_trans (otherBezels_of_bezels (bezels_same (keeps_burstCounts z r s) (by decide))) (otherBezels_modBezel _ _ _)

theorem bezelOf_leftSorter (z : Nat) (r : SortReq) (s : State) : bezelOf (leftSorter z r s) z =
    { bezelOf s z with sorter := dropFirst (fun q => q == r) (bezelOf s z).sorter } := by
  rw [leftSorter, bezelOf_modBezel, bezelOf_congr (bezels_same (keeps_burstCounts z r s) (by decide))]

/-- A write of one granule is stored, and what follows counts, records and answers it (R336, R390). -/
theorem bezelWrite_one {m : Msg} (hop : m.op = opWrite) (hlen : m.len = 1) (hlocal : localOf s z m.addr.toNat = some l)
    (hintake : inIntake (bezelOf s z) l = false) :
    Keeps [.fabric, .ledger, .faults, .hub, .asy]
      (stackStore z l (nth poisonCode m.data 0) (countEv (blkBezel z) 0x03 1 s)) (bezelWrite z m s) := by
  have hopSum : opWrite ≠ opSum := by decide
  have hopAtomic : opWrite ≠ opAtomic := by decide
  have hopPart : opWrite ≠ opPart := by decide
  have hone : upTo m.len (fun a i => bezelWrite1 z m i a) (([] : List Nat), s) =
      ([arrivedClass (nth poisonCode m.data 0)],
        stackStore z l (nth poisonCode m.data 0) (countEv (blkBezel z) 0x03 1 s)) := by
    simp [hlen, upTo, bezelWrite1, hlocal, hintake, hop, hopPart]
  unfold bezelWrite
  simp only [hone, hlocal, hop, hopSum, hopAtomic, hintake, Option.getD_some, Option.isSome_some, Bool.and_false,
    Bool.false_eq_true, if_false, or_self]
  refine keeps_answer _ _ ?_ (by decide)
  have hrecord (prior : Bool) := keeps_recordParts (blkBezel z) m [arrivedClass (nth poisonCode m.data 0)] prior
    (Keeps.refl [.fabric, .ledger, .faults, .hub, .asy]
      (stackStore z l (nth poisonCode m.data 0) (countEv (blkBezel z) 0x03 1 s))) (by decide)
  split
  · exact keeps_hubRaise _ (hrecord _) (by decide)
  · exact hrecord _

/-- A write of one granule that a bezel serves stands at its address, and beside its row and the sorter the bezel keeps all but
the marks of old generations. -/
theorem bezel_serves {b : BezelN} (hup : s.standby.mainUp = true) (hsorter : (bezelOf s b.val).sorter = [r])
    (hnext : bezelNext s b.val = some r) (hfree : blockedLines s b.val r.msg = []) (hop : r.msg.op = opWrite)
    (hlen : r.msg.len = 1) (hlocal : localOf s b.val r.msg.addr.toNat = some l)
    (hintake : inIntake (bezelOf s b.val) l = false) :
    Completes (.bezelServeRequest b) s fun t => OtherBezels b.val s t ∧ (bezelOf t b.val).sorter = [] ∧
      stackCode t b.val l = passOn (nth poisonCode r.msg.data 0) ∧
      (∀ g, g ≠ stackGran b.val (redirected (bezelOf s b.val) (l / 32)) → g ≠ reliefGran b.val (l / 32) →
        codeAt t.mem g = codeAt s.mem g) ∧
      tblGet 0 (bezelOf t b.val).openRow (bankOf l) = dramRow l := by
  have hpart : opWrite ≠ opRead := by decide
  have hexec : exec (.bezelServeRequest b) s = .next (bezelWrite b.val r.msg (leftSorter b.val r s)) := by
    change execBezelServeRequest b s = _
    simp only [execBezelServeRequest, hnext]
    refine (whenOk_of s hup _).trans ?_
    rw [bezelServe_alone hsorter hfree, bezelDo, if_neg (by rw [hop]; exact hpart)]
    rfl
  have hmem := leftSorter_mem b.val r s
  have hothers := otherBezels_leftSorter b.val r s
  have hself : bezelOf (leftSorter b.val r s) b.val = { bezelOf s b.val with sorter := [] } := by
    rw [bezelOf_leftSorter, hsorter]
    simp [dropFirst]
  have hlocal' : localOf (leftSorter b.val r s) b.val r.msg.addr.toNat = some l := by
    rw [← hlocal, localOf, localOf, hmem]
  have hwrite := bezelWrite_one hop hlen hlocal' (by rw [hself]; exact hintake)
  have hcount := (countEv_mem (leftSorter b.val r s) (blkBezel b.val) 0x03 1).trans hmem
  have hcounted := bezelOf_congr (countEv_bezels (leftSorter b.val r s) (blkBezel b.val) 0x03 1)
  refine completes_of_exec hexec ?_
  generalize bezelWrite b.val r.msg (leftSorter b.val r s) = t at *
  generalize countEv (blkBezel b.val) 0x03 1 (leftSorter b.val r s) = v at *
  have hframe : redirected (bezelOf v b.val) (l / 32) = redirected (bezelOf s b.val) (l / 32) := by
    rw [hcounted, hself]
    rfl
  have htmem := (mem_same hwrite (by decide)).trans (stackStore_mem _ _ _ _)
  have htbezel := bezelOf_congr (bezels_same hwrite (by decide))
  have hsrc : stackSrc t b.val l = stackSrc v b.val l :=
    stackSrc_congr (by rw [htbezel, bezelOf_stackStore]) (by rw [htbezel, bezelOf_stackStore])
      (by rw [htbezel, bezelOf_stackStore]) l
  refine ⟨fun z hz => ?_, ?_, ?_, fun g hnear hfar => ?_, ?_⟩
  · rw [htbezel, otherBezels_stackStore _ _ _ _ z hz, hcounted, hothers z hz]
  · rw [htbezel, bezelOf_stackStore, hcounted, hself]
  · rw [stackCode, hsrc, htmem, codeAt_stackPut_src]
  · rw [htmem, codeAt_stackPut_other (by rwa [hframe]) hfar, hcount]
  · rw [htbezel, bezelOf_stackStore]
    exact tblGet_tblSet_same 0 (bezelOf v b.val).openRow (bankOf l) (dramRow l)

end

/-! ### A slice's bank makes one access in a ck -/

/-- A write of one granule, not yet made, to a bank of slice `i`. -/
structure WaitsForBank (s : State) (i k : Nat) (q : SliceReq) : Prop where
  got : q.got = []
  op : q.msg.op = opWrite
  len : q.msg.len = 1
  off : ∃ off, sliceOff s i q.msg.addr.toNat = some off ∧ off / 32 % 8 = k

section
variable {s : State} {i k off : Nat} {r q : SliceReq} {c : SliceTurn}

theorem sliceLen_write {m : Msg} (hop : m.op = opWrite) : sliceLen m = m.len := by
  have hatomic : opWrite ≠ opAtomic := by decide
  have hread : opWrite ≠ opRead := by decide
  rw [sliceLen, reqLen, hop, if_neg hatomic, if_neg hread]

theorem sliceNeeds_write {m : Msg} (hop : m.op = opWrite) (hoff : sliceOff s i m.addr.toNat = some off) :
    sliceNeeds s i m 0 = some (off / 32) := by
  have hsum : opWrite ≠ opSum := by decide
  rw [sliceNeeds, hop, if_neg hsum, Nat.mul_zero, Nat.add_zero, hoff]
  rfl

theorem WaitsForBank.congr {t : State} (h : WaitsForBank s i k q) (hsplit : t.mem.splitNow = s.mem.splitNow) :
    WaitsForBank t i k q := by
  obtain ⟨hgot, hop, hlen, off, hoff, hbank⟩ := h
  exact ⟨hgot, hop, hlen, off, by rw [← hoff, sliceOff, sliceOff, hsplit], hbank⟩

/-- The turn in which a request's granule has been kept waiting. -/
def keptWaiting (g : Nat) (q : SliceReq) (c : SliceTurn) : SliceTurn :=
  { c with waits := g :: c.waits, aged := if 32 ≤ waited c.st q.tick q.ck then (g % 8) :: c.aged else c.aged }

/-- A write waits whose bank has made its access in this ck (R307). -/
theorem sliceAccess_waits (hgot : q.got = []) (hop : q.msg.op = opWrite)
    (hoff : sliceOff c.st i q.msg.addr.toNat = some off) (hbanks : c.banks = [(off / 32 % 8, 0)]) :
    sliceAccess i (c, q) 0 = (keptWaiting (off / 32) q c, q) := by
  have hmay : sliceMay c (off / 32) true = false := by
    simp [sliceMay, hbanks]
  have hwrite : (opWrite != opRead) = true := by decide
  simp only [sliceAccess, sliceNeeds_write hop hoff, hop, hwrite, hmay, hgot]
  rfl

/-- The turn in which the first write has been made. -/
def madeWrite (i g : Nat) (m : Msg) (c : SliceTurn) : SliceTurn :=
  { c with st := (sliceWrite1 i m 0 c.st).2, writes := c.writes + 1, banks := [(g % 8, 0)] }

/-- The first write of a ck is made (R306, R307). -/
theorem sliceAccess_makes {s : State} (hgot : r.got = []) (hop : r.msg.op = opWrite)
    (hoff : sliceOff s i r.msg.addr.toNat = some off) :
    sliceAccess i ({ st := s }, r) 0 =
      (madeWrite i (off / 32) r.msg { st := s }, { r with got := [(0, (sliceWrite1 i r.msg 0 s).1)] }) := by
  have hmay : sliceMay { st := s } (off / 32) true = true := by
    simp [sliceMay]
  have hwrite : (opWrite != opRead) = true := by decide
  have hone : sliceOne i r.msg 0 s = sliceWrite1 i r.msg 0 s := by
    have hread : opWrite ≠ opRead := by decide
    have hatomic : opWrite ≠ opAtomic := by decide
    have hsum : opWrite ≠ opSum := by decide
    rw [sliceOne, hop, if_neg hread, if_neg hatomic, if_neg hsum]
  simp only [sliceAccess, sliceNeeds_write hop hoff, hop, hwrite, hmay, hgot, hone]
  rfl

/-- Writes to a bank that has made its access all wait, as they were (R307). -/
theorem sliceRun_waits (l : List SliceReq) (c : SliceTurn) (hbanks : c.banks = [(k, 0)])
    (hl : ∀ q ∈ l, WaitsForBank c.st i k q) : (sliceRun i l c).1.st = c.st ∧ (sliceRun i l c).2 = l := by
  induction l generalizing c with
  | nil => exact ⟨rfl, rfl⟩
  | cons q l ih =>
    obtain ⟨hgot, hop, hlen, off, hoff, rfl⟩ := hl q List.mem_cons_self
    have hturn : upTo (sliceLen q.msg) (sliceAccess i) (c, q) = (keptWaiting (off / 32) q c, q) := by
      rw [sliceLen_write hop, hlen, upTo_succ]
      exact sliceAccess_waits hgot hop hoff hbanks
    have hshort : q.got.length < sliceLen q.msg := by
      rw [hgot, sliceLen_write hop, hlen]
      exact Nat.zero_lt_one
    obtain ⟨hst, hrest⟩ := ih (keptWaiting (off / 32) q c) hbanks fun x hx => hl x (List.mem_cons_of_mem q hx)
    simp only [sliceRun, hturn, if_pos hshort]
    exact ⟨hst, by rw [hrest]⟩

theorem codeAt_storeGran_same (g : Nat) (c : Code) (s : State) : codeAt (storeGran g c s).mem g = c :=
  codeAt_codePut_same s.mem g c

theorem codeAt_storeGran_other {g g' : Nat} (h : g' ≠ g) (c : Code) (s : State) :
    codeAt (storeGran g c s).mem g' = codeAt s.mem g' := codeAt_codePut_other s.mem g c g' h

/-- A store ends every reservation of its granule (R48). -/
theorem resv_storeGran {g : Nat} {c : Code} {s : State} : ∀ p ∈ (storeGran g c s).mem.resv, p.2 ≠ g + 1 := fun p hp => by
  simpa using (List.mem_filter.1 hp).2

/-- The state in which the write that a slice has made stands in its granule. -/
def sliceStored (i off : Nat) (m : Msg) (s : State) : State :=
  storeGran (sliceGran i (off / 32)) (passOn (nth poisonCode m.data 0)) (countEv (blkSlice i) 0x03 1 s)

theorem sliceStored_slices (i off : Nat) (m : Msg) (s : State) : (sliceStored i off m s).mem.slices = s.mem.slices :=
  (congrArg Memory.slices (countEv_mem s (blkSlice i) 0x03 1) :)

theorem sliceStored_sliceCk (i off : Nat) (m : Msg) (s : State) : (sliceStored i off m s).mem.sliceCk = s.mem.sliceCk :=
  (congrArg Memory.sliceCk (countEv_mem s (blkSlice i) 0x03 1) :)

theorem sliceWrite1_one {m : Msg} (hop : m.op = opWrite) (hoff : sliceOff s i m.addr.toNat = some off) :
    (sliceWrite1 i m 0 s).2 = sliceStored i off m s := by
  have hpart : opWrite ≠ opPart := by decide
  simp only [sliceWrite1, Nat.mul_zero, Nat.add_zero, hoff, hop, if_neg hpart]
  rfl

theorem keeps_sliceEnd_write {s0 : State} (hop : r.msg.op = opWrite) (hK : Keeps [.fabric, .ledger, .faults, .asy] s0 s) :
    Keeps [.fabric, .ledger, .faults, .asy] s0 (sliceEnd i r s) := by
  have hread : opWrite ≠ opRead := by decide
  have hatomic : opWrite ≠ opAtomic := by decide
  simp only [sliceEnd, hop, if_neg hread, if_neg hatomic]
  exact keeps_answerWrite _ _ _ _ (keeps_recordParts _ _ _ _ hK (by decide)) (by decide)

/-- A slice whose writes all go to one bank makes the oldest, and the others wait (R306, R307). -/
theorem sliceRun_first (hgot : r.got = []) (hop : r.msg.op = opWrite) (hlen : r.msg.len = 1)
    (hoff : sliceOff s i r.msg.addr.toNat = some off) (l : List SliceReq)
    (hl : ∀ q ∈ l, WaitsForBank s i (off / 32 % 8) q) :
    Keeps [.fabric, .ledger, .faults, .asy] (sliceStored i off r.msg s) (sliceRun i (r :: l) { st := s }).1.st ∧
      (sliceRun i (r :: l) { st := s }).2 = l := by
  have hturn : upTo (sliceLen r.msg) (sliceAccess i) ({ st := s }, r) =
      (madeWrite i (off / 32) r.msg { st := s }, { r with got := [(0, (sliceWrite1 i r.msg 0 s).1)] }) := by
    rw [sliceLen_write hop, hlen, upTo_succ]
    exact sliceAccess_makes hgot hop hoff
  have hwhole : ¬ [(0, (sliceWrite1 i r.msg 0 s).1)].length < sliceLen r.msg := by
    rw [sliceLen_write hop, hlen]
    exact lt_irrefl 1
  have hstored : (madeWrite i (off / 32) r.msg { st := s }).st = sliceStored i off r.msg s := sliceWrite1_one hop hoff
  have hothers (c : SliceTurn) (hbanks : c.banks = [(off / 32 % 8, 0)])
      (hk : Keeps [.fabric, .ledger, .faults, .asy] (sliceStored i off r.msg s) c.st) :
      Keeps [.fabric, .ledger, .faults, .asy] (sliceStored i off r.msg s) (sliceRun i l c).1.st ∧ (sliceRun i l c).2 = l := by
    have hmem := mem_same hk (by decide)
    obtain ⟨hst, hrest⟩ := sliceRun_waits l c hbanks fun q hq => (hl q hq).congr (by
      rw [hmem]
      exact (congrArg Memory.splitNow (countEv_mem s (blkSlice i) 0x03 1) :))
    exact ⟨by rwa [hst], hrest⟩
  rw [sliceRun]
  simp only [hturn, if_neg hwhole, hstored]
  exact hothers _ rfl (keeps_sliceEnd_write hop
    (Keeps.ite (keeps_countEv _ _ _ (Keeps.refl _ _) (by decide)) (Keeps.refl _ _)))

end

/-- The state in which the requests of a slice's turn have left the sorter. -/
def turnBegun (i : Nat) (l : List SliceReq) (s : State) : State :=
  { s with mem := { s.mem with
    slices := tblSet [] s.mem.slices i l
    sliceCk := tblSet 0 s.mem.sliceCk i (absCk s + 1) } }

theorem sliceServe_eq {s : State} {i : Nat} {l : List SliceReq} (hsorter : tblGet [] s.mem.slices i = l)
    (hdue : ∀ q ∈ l, sliceDue s q = true) :
    ∃ late, sliceServe i s =
      let u := sliceRun i (l.take 16) { st := turnBegun i (l.drop 16) s }
      let v := countEv (blkSlice i) 0x04 late u.1.st
      { v with mem := { v.mem with slices := tblMod [] v.mem.slices i fun x => u.2 ++ x } } := by
  have hall : l.filter (sliceDue s) = l := List.filter_eq_self.2 hdue
  have hnone : l.filter (fun r => !sliceDue s r) = [] := List.filter_eq_nil_iff.2 fun q hq => by simp [hdue q hq]
  unfold sliceServe
  simp only [hsorter, hall, hnone, List.append_nil]
  exact ⟨_, rfl⟩

/-- A slice makes the oldest of the writes to one bank; the younger ones wait for the next ck. -/
theorem slice_serves {s : State} {i : Fin 128} {r : SliceReq} {rest : List SliceReq} {off : Nat}
    (hup : s.standby.mainUp = true) (hsorter : tblGet [] s.mem.slices i.val = r :: rest)
    (hck : tblGet 0 s.mem.sliceCk i.val ≠ absCk s + 1) (hgot : r.got = []) (hop : r.msg.op = opWrite) (hlen : r.msg.len = 1)
    (hoff : sliceOff s i.val r.msg.addr.toNat = some off) (hdue : ∀ q ∈ r :: rest, sliceDue s q = true)
    (hrest : ∀ q ∈ rest, WaitsForBank s i.val (off / 32 % 8) q) :
    Completes (.sliceServeRequest i) s fun t => tblGet [] t.mem.slices i.val = rest ∧
      tblGet 0 t.mem.sliceCk i.val = absCk s + 1 ∧
      codeAt t.mem (sliceGran i.val (off / 32)) = passOn (nth poisonCode r.msg.data 0) ∧
      (∀ g, g ≠ sliceGran i.val (off / 32) → codeAt t.mem g = codeAt s.mem g) ∧
      ∀ p ∈ t.mem.resv, p.2 ≠ sliceGran i.val (off / 32) + 1 := by
  have hany : (tblGet [] s.mem.slices i.val).any (sliceDue s) = true := by
    rw [hsorter, List.any_cons, hdue r List.mem_cons_self, Bool.true_or]
  have hexec : exec (.sliceServeRequest i) s = .next (sliceServe i.val s) :=
    whenOk_of s (by simp [mainUp, hup, hany, hck]) _
  obtain ⟨late, hserve⟩ := sliceServe_eq hsorter hdue
  obtain ⟨hk, hleft⟩ := sliceRun_first (s := turnBegun i.val (rest.drop 15) s) hgot hop hlen hoff (rest.take 15)
    fun q hq => (hrest q (List.mem_of_mem_take hq)).congr rfl
  rw [hserve] at hexec
  simp only [List.take_succ_cons, List.drop_succ_cons, hleft] at hexec
  have hmem := (countEv_mem _ (blkSlice i.val) 0x04 late).trans (mem_same hk (by decide))
  generalize countEv (blkSlice i.val) 0x04 late _ = v at *
  have hother (g : Nat) (hg : g ≠ sliceGran i.val (off / 32)) : codeAt v.mem g = codeAt s.mem g := by
    rw [hmem, sliceStored, codeAt_storeGran_other hg, countEv_mem]
    rfl
  have hself : codeAt v.mem (sliceGran i.val (off / 32)) = passOn (nth poisonCode r.msg.data 0) := by
    rw [hmem, sliceStored, codeAt_storeGran_same]
  have hresv : ∀ p ∈ v.mem.resv, p.2 ≠ sliceGran i.val (off / 32) + 1 := by
    rw [hmem, sliceStored]
    exact fun p hp => resv_storeGran p hp
  have hslices : tblGet [] v.mem.slices i.val = rest.drop 15 := by
    rw [hmem, sliceStored_slices]
    exact tblGet_tblSet_same [] s.mem.slices i.val (rest.drop 15)
  have hcks : tblGet 0 v.mem.sliceCk i.val = absCk s + 1 := by
    rw [hmem, sliceStored_sliceCk]
    exact tblGet_tblSet_same 0 s.mem.sliceCk i.val (absCk s + 1)
  refine completes_of_exec hexec ⟨?_, hcks, hself, hother, hresv⟩
  refine (tblGet_tblSet_same _ _ _ _).trans ?_
  rw [hslices]
  exact List.take_append_drop 15 rest

/-- Settles O42: a bezel with one request, and a slice whose requests are writes to one bank. -/
theorem sortersServeWrites : Obligations.SortersServeWrites := by
  unfold Obligations.SortersServeWrites
  refine ⟨fun s b r l hup _ hsorter hnext hfree hop hlen hlocal hintake =>
      bezel_serves hup hsorter hnext hfree hop hlen hlocal hintake,
    fun s i r rest off hup _ hsorter hck hgot hop hlen hoff hdue hrest => slice_serves hup hsorter hck hgot hop hlen hoff hdue
      fun q hq => ?_⟩
  obtain ⟨hgot', hop', hlen', hoff'⟩ := hrest q hq
  exact ⟨hgot', hop', hlen', hoff'⟩

end Sys2Proof.Proofs
end

section
/-! Facts about the looks at a stack's granules, and about the records and events that come of them: what they leave of the
bezels, of the fault records and of the hub. -/

namespace Sys2Proof.Proofs

open Sys2Proof Sys2Proof.Machine Sys2Proof.Laws

/-! ### The bezel behind a look -/

/-- A bezel `b` with what the looks at granules have made of it in `b'`: error counters, frame counts and open rows. -/
def relooked (b b' : Bezel) : Bezel :=
  { b with
    corr1 := b'.corr1, corr2 := b'.corr2, uncorr := b'.uncorr, poison := b'.poison, frames := b'.frames
    reported := b'.reported, retiring := b'.retiring, openRow := b'.openRow }

/-- Of the bezels only `z` differs, by looks at its granules. -/
structure BezelLooked (z : Nat) (s t : State) : Prop where
  others : OtherBezels z s t
  bezel : bezelOf t z = relooked (bezelOf s z) (bezelOf t z)

section
variable {s t u : State} {z : Nat}

theorem BezelLooked.of_bezels (h : t.bezels = s.bezels) : BezelLooked z s t :=
  ⟨otherBezels_of_bezels h, by rw [bezelOf_congr h]; rfl⟩

theorem relooked_trans {b b1 b2 : Bezel} (h : b1 = relooked b b1) (g : b2 = relooked b1 b2) : b2 = relooked b b2 :=
  calc
    b2 = relooked b1 b2 := g
    _ = relooked (relooked b b1) b2 := by rw [← h]
    _ = relooked b b2 := rfl

theorem BezelLooked.trans (h : BezelLooked z s t) (g : BezelLooked z t u) : BezelLooked z s u :=
  ⟨otherBezels_trans h.others g.others, relooked_trans h.bezel g.bezel⟩

theorem BezelLooked.modBezel {f : Bezel → Bezel} (hf : ∀ b, f b = relooked b (f b)) : BezelLooked z s (modBezel z f s) :=
  ⟨otherBezels_modBezel z f s, by rw [bezelOf_modBezel]; exact hf _⟩

theorem BezelLooked.redirect (h : BezelLooked z s t) : (bezelOf t z).redirect = (bezelOf s z).redirect :=
  (congrArg Bezel.redirect h.bezel :)

theorem BezelLooked.phase (h : BezelLooked z s t) : (bezelOf t z).retrainPhase = (bezelOf s z).retrainPhase :=
  (congrArg Bezel.retrainPhase h.bezel :)

theorem BezelLooked.channel (h : BezelLooked z s t) : (bezelOf t z).retrainCh = (bezelOf s z).retrainCh :=
  (congrArg Bezel.retrainCh h.bezel :)

theorem BezelLooked.passes (h : BezelLooked z s t) : (bezelOf t z).passes = (bezelOf s z).passes :=
  (congrArg Bezel.passes h.bezel :)

theorem BezelLooked.src (h : BezelLooked z s t) (l : Nat) : stackSrc t z l = stackSrc s z l :=
  stackSrc_congr h.redirect h.phase h.channel l

theorem eccCount_looked (k : Look) (read : Bool) (b : Bezel) : eccCount k read b = relooked b (eccCount k read b) := by
  cases k with
  | poisoned => cases read <;> rfl
  | _ => rfl

theorem bezelLooked_frameCorrected (z l : Nat) (s : State) : BezelLooked z s (frameCorrected z l s) := by
  have hframes (x : Tbl Nat) : BezelLooked z s (setBezel z { bezelOf s z with frames := x } s) :=
    BezelLooked.modBezel (f := fun b => { b with frames := x }) fun _ => rfl
  unfold frameCorrected
  dsimp only
  split
  · refine ((hframes _).trans (t := setBezel z _ s) (.modBezel fun b => ?_)).trans
      (.of_bezels ((hubRaise_bezels _ _).trans (recordAddr_bezels _ _ _ _ _)))
    rfl
  · exact hframes _

theorem bezelLooked_stackLook (z l : Nat) (c : Code) (read : Bool) (s : State) : BezelLooked z s (stackLook z l c read s) := by
  have hopen : BezelLooked z s (openAt z l (modBezel z (eccCount (decodeCode c).1 read) (countLook (blkBezel z) c s))) :=
    ((BezelLooked.of_bezels (countLook_bezels _ _ _)).trans (.modBezel (eccCount_looked _ _))).trans (.modBezel fun _ => rfl)
  unfold stackLook
  dsimp only
  split
  · exact hopen.trans (bezelLooked_frameCorrected z l _)
  · exact hopen

theorem stackLook_mem (z l : Nat) (c : Code) (read : Bool) (s : State) : (stackLook z l c read s).mem = s.mem :=
  mem_same (keeps_stackLook z l c read (.refl _ s) (sub_refl _)) (by decide)

end

/-! ### The records that wait -/

/-- The fault records that wait in `s` wait in `t`, and `n` more at most. -/
structure FaultsGrown (n : Nat) (s t : State) : Prop where
  clock : t.clock = s.clock
  keep : ∀ r ∈ s.faults.waiting, r ∈ t.faults.waiting
  length_le : t.faults.waiting.length ≤ s.faults.waiting.length + n

section
variable {s t u : State} {n m : Nat}

theorem FaultsGrown.of_same (hclock : t.clock = s.clock) (hfaults : t.faults = s.faults) : FaultsGrown n s t :=
  ⟨hclock, by rw [hfaults]; exact fun _ h => h, by rw [hfaults]; exact Nat.le_add_right _ _⟩

theorem FaultsGrown.trans (h : FaultsGrown n s t) (g : FaultsGrown m t u) : FaultsGrown (n + m) s u :=
  ⟨g.clock.trans h.clock, fun r hr => g.keep r (h.keep r hr), by have := h.length_le; have := g.length_le; omega⟩

theorem FaultsGrown.mono (h : FaultsGrown n s t) (hle : n ≤ m) : FaultsGrown m s t :=
  ⟨h.clock, h.keep, by have := h.length_le; omega⟩

theorem mem_insertRec_of_mem {x : FaultRec} {l : List FaultRec} (r : FaultRec) (h : x ∈ l) : x ∈ insertRec r l := by
  induction l with
  | nil => cases h
  | cons y l ih =>
    unfold insertRec
    split
    · exact .tail _ h
    · obtain _ | ⟨_, h⟩ := h
      · exact .head _
      · exact .tail _ (ih h)

theorem length_insertRec (r : FaultRec) (l : List FaultRec) : (insertRec r l).length = l.length + 1 := by
  induction l with
  | nil => rfl
  | cons y l ih =>
    unfold insertRec
    split
    · rfl
    · rw [List.length_cons, ih, List.length_cons]

theorem faultsGrown_recordFault (r : FaultRec) (s : State) : FaultsGrown 1 s (recordFault r s) := by
  refine ⟨recordFault_clock _ _, ?_, ?_⟩ <;> unfold recordFault <;> split
  · exact fun _ h => mem_insertRec_of_mem _ h
  · exact fun _ h => h
  · exact (length_insertRec _ _).le
  · exact Nat.le_succ _

/-- A record that finds room waits. -/
theorem recorded_recordFault {cls source : Nat} (r : FaultRec) (hcls : r.cls = BitVec.ofNat 8 cls)
    (hsource : r.source = BitVec.ofNat 12 source) (h : FaultsGrown n s t) (hroom : s.faults.waiting.length + n < 256) :
    Recorded cls source s (recordFault r t) := by
  have hlt : t.faults.waiting.length < 256 := Nat.lt_of_le_of_lt h.length_le hroom
  unfold Recorded recordFault
  rw [if_pos (by omega), if_pos hlt, h.clock]
  exact ⟨_, mem_insertRec _ _, hcls, hsource, rfl, rfl⟩

/-- A record that waits goes on waiting. -/
theorem recorded_grown {cls source : Nat} (h : Recorded cls source s t) (hroom : s.faults.waiting.length < 256)
    (g : FaultsGrown n t u) : Recorded cls source s u := by
  unfold Recorded at h ⊢
  rw [if_pos hroom] at h ⊢
  obtain ⟨r, hr, hrest⟩ := h
  exact ⟨r, g.keep r hr, hrest⟩

/-- A record made behind others that have found room. -/
theorem recorded_behind {cls source : Nat} (h : FaultsGrown n s t) (hroom : s.faults.waiting.length + n < 256)
    (g : Recorded cls source t u) : Recorded cls source s u := by
  have hlt : t.faults.waiting.length < 256 := Nat.lt_of_le_of_lt h.length_le hroom
  unfold Recorded at g ⊢
  rw [if_pos hlt, h.clock] at g
  rw [if_pos (by omega)]
  exact g

end

/-! ### The events of the hub -/

/-- What is pending in `s` is pending in `t`, and so is what block 0 has raised between them. -/
structure HubGrown (s t : State) : Prop where
  standby : t.standby = s.standby
  pend : ∀ src, s.hub.pend.getLsbD src = true → t.hub.pend.getLsbD src = true
  raised : ∀ src, (src, 0) ∈ t.hub.raised → (src, 0) ∈ s.hub.raised ∨ t.hub.pend.getLsbD src = true

section
variable {s t u : State} {src : Nat}

theorem HubGrown.of_same (hstandby : t.standby = s.standby) (hhub : t.hub = s.hub) : HubGrown s t :=
  ⟨hstandby, by rw [hhub]; exact fun _ h => h, by rw [hhub]; exact fun _ h => .inl h⟩

theorem HubGrown.trans (h : HubGrown s t) (g : HubGrown t u) : HubGrown s u where
  standby := g.standby.trans h.standby
  pend x hx := g.pend x (h.pend x hx)
  raised x hx := (g.raised x hx).elim (fun hx => (h.raised x hx).imp_right (g.pend x)) .inr

theorem getLsbD_srcBit (hsrc : src < 2048) : (srcBit src).getLsbD src = true := by
  rw [srcBit, BitVec.getLsbD_ofNat, Nat.testBit_two_pow_self, Bool.and_true, decide_eq_true hsrc]

theorem hubAssigned_lt (h : hubAssigned src = true) : src < 2048 := by
  simp [hubAssigned] at h
  omega

theorem hubGrown_hubRaise (src : Nat) (s : State) : HubGrown s (hubRaise src s) := by
  unfold hubRaise hubRaiseBy
  split
  next hraise =>
    simp only [Bool.and_eq_true] at hraise
    refine ⟨rfl, fun x hx => ?_, fun x hx => ?_⟩
    · change (s.hub.pend ||| srcBit src).getLsbD x = true
      rw [BitVec.getLsbD_or, hx, Bool.true_or]
    · change (x, 0) ∈ s.hub.raised ∨ (s.hub.pend ||| srcBit src).getLsbD x = true
      obtain heq | hold := List.mem_cons.1 hx
      · rw [(Prod.mk.inj heq).1, BitVec.getLsbD_or, getLsbD_srcBit (hubAssigned_lt hraise.1.2), Bool.or_true]
        exact .inr rfl
      · exact .inl hold
  next => exact .of_same rfl rfl

theorem raised_hubRaise (hup : s.standby.mainUp = true) (hsrc : hubAssigned src = true) : Raised 0 src s (hubRaise src s) := by
  intro hnew
  have hraise : (mainUp s && hubAssigned src && !s.hub.raised.contains (src, 0)) = true := by
    simp [mainUp, hup, hsrc, hnew]
  unfold hubRaise hubRaiseBy
  rw [if_pos hraise]
  change (s.hub.pend ||| srcBit src).getLsbD src = true
  rw [BitVec.getLsbD_or, getLsbD_srcBit (hubAssigned_lt hsrc), Bool.or_true]

theorem raised_grown (h : Raised 0 src s t) (g : HubGrown t u) : Raised 0 src s u := fun hnew => g.pend src (h hnew)

theorem raised_behind (h : HubGrown s t) (g : HubGrown t u) (hr : Raised 0 src t u) : Raised 0 src s u := fun hnew => by
  by_cases hraised : (src, 0) ∈ t.hub.raised
  · exact g.pend src ((h.raised src hraised).resolve_left hnew)
  · exact hr hraised

end

/-! ### Records and events of a look -/

section
variable {z l : Nat} {c : Code} {read : Bool} {s : State}

/-- A corrected granule is counted for its frame, or counted and recorded with an event (R398). -/
theorem frameCorrected_sees (z l : Nat) (s : State) : ∃ t, FaultsGrown 0 s t ∧ HubGrown s t ∧
    (frameCorrected z l s = t ∨ ∃ source addr, frameCorrected z l s = hubRaise (96 + z) (recordAddr 0x04 source addr 1 t)) := by
  unfold frameCorrected
  dsimp only
  split
  · refine ⟨modBezel z _ (setBezel z _ s), .of_same ?_ ?_, .of_same ?_ ?_, .inr ⟨_, _, rfl⟩⟩ <;> rfl
  · refine ⟨setBezel z _ s, .of_same ?_ ?_, .of_same ?_ ?_, .inl rfl⟩ <;> rfl

theorem faultsGrown_frameCorrected (z l : Nat) (s : State) : FaultsGrown 1 s (frameCorrected z l s) := by
  obtain ⟨t, hfaults, -, heq | ⟨source, addr, heq⟩⟩ := frameCorrected_sees z l s
  · rw [heq]
    exact hfaults.mono (Nat.zero_le _)
  · rw [heq]
    exact (hfaults.trans (faultsGrown_recordFault _ t)).trans (m := 0) (.of_same (hubRaise_clock _ _) (hubRaise_faults _ _))

theorem hubGrown_frameCorrected (z l : Nat) (s : State) : HubGrown s (frameCorrected z l s) := by
  obtain ⟨t, -, hhub, heq | ⟨source, addr, heq⟩⟩ := frameCorrected_sees z l s
  · rwa [heq]
  · rw [heq]
    exact (hhub.trans (.of_same (recordAddr_standby _ _ _ _ _) (recordAddr_hub _ _ _ _ _))).trans (hubGrown_hubRaise _ _)

theorem stackLook_sees (z l : Nat) (c : Code) (read : Bool) (s : State) : ∃ t, FaultsGrown 0 s t ∧ HubGrown s t ∧
    stackLook z l c read s = if corrected (decodeCode c).1 then frameCorrected z l t else t := by
  have hcount : FaultsGrown 0 s (countLook (blkBezel z) c s) := .of_same (countLook_clock _ _ _) (countLook_faults _ _ _)
  have hhub : HubGrown s (countLook (blkBezel z) c s) := .of_same (countLook_standby _ _ _) (countLook_hub _ _ _)
  exact ⟨openAt z l (modBezel z (eccCount (decodeCode c).1 read) (countLook (blkBezel z) c s)),
    hcount.trans (m := 0) (.of_same rfl rfl), hhub.trans (.of_same rfl rfl), rfl⟩

theorem faultsGrown_stackLook (z l : Nat) (c : Code) (read : Bool) (s : State) : FaultsGrown 1 s (stackLook z l c read s) := by
  obtain ⟨t, hfaults, -, hlook⟩ := stackLook_sees z l c read s
  rw [hlook]
  split
  · exact hfaults.trans (faultsGrown_frameCorrected z l t)
  · exact hfaults.mono (Nat.zero_le _)

/-- A look that corrects nothing makes no record. -/
theorem faultsGrown_stackLook_of_bad (hbad : corrected (decodeCode c).1 = false) : FaultsGrown 0 s (stackLook z l c read s) := by
  obtain ⟨t, hfaults, -, hlook⟩ := stackLook_sees z l c read s
  rw [hlook, hbad]
  exact hfaults

theorem hubGrown_stackLook (z l : Nat) (c : Code) (read : Bool) (s : State) : HubGrown s (stackLook z l c read s) := by
  obtain ⟨t, -, hhub, hlook⟩ := stackLook_sees z l c read s
  rw [hlook]
  split
  · exact hhub.trans (hubGrown_frameCorrected z l t)
  · exact hhub

theorem faultsGrown_scrubRecord (z l : Nat) (prior : Bool) (s : State) : FaultsGrown 1 s (scrubRecord z l prior s) :=
  (faultsGrown_recordFault _ s).trans (m := 0) (.of_same (hubRaise_clock _ _) (hubRaise_faults _ _))

theorem hubGrown_scrubRecord (z l : Nat) (prior : Bool) (s : State) : HubGrown s (scrubRecord z l prior s) :=
  HubGrown.trans (.of_same (recordFault_standby _ _) (recordFault_hub _ _)) (hubGrown_hubRaise _ _)

theorem recorded_scrubRecord (prior : Bool) (hroom : s.faults.waiting.length < 256) :
    Recorded 0x03 (blkBezel z) s (scrubRecord z l prior s) :=
  recorded_grown (recorded_recordFault (n := 0) _ rfl rfl (.of_same rfl rfl) hroom) hroom
    (FaultsGrown.of_same (n := 0) (hubRaise_clock _ _) (hubRaise_faults _ _))

theorem raised_scrubRecord (prior : Bool) (hup : s.standby.mainUp = true) (hz : z < 16) :
    Raised 0 (96 + z) s (scrubRecord z l prior s) := by
  refine raised_behind (.of_same (recordFault_standby _ _) (recordFault_hub _ _)) (hubGrown_hubRaise _ _)
    (raised_hubRaise ((congrArg Standby.mainUp (recordFault_standby _ _)).trans hup) ?_)
  simp [hubAssigned]
  omega

end

end Sys2Proof.Proofs
end

section
/-! Proof for chapters 9 and 11: refresh and the two scrubbers. -/

namespace Sys2Proof.Proofs

open Sys2Proof Sys2Proof.Machine Sys2Proof.Laws

/-! ### Refresh -/

theorem execStackRefresh_next {s : State} (hup : s.standby.mainUp = true) (b : BezelN) (bank : Fin 512) :
    exec (.stackRefresh b bank) s =
      .next (modBezel b.val (fun z => { z with openRow := tblSet 0 z.openRow bank.val 0 }) s) := whenOk_of s hup _

/-! ### The patrol scrubber -/

section
variable {s t : State} {z l : Nat}

theorem bezelLooked_scrubStep (z l : Nat) (s : State) : BezelLooked z s (scrubStep z l s) := by
  have hlook := bezelLooked_stackLook z l (stackCode s z l) false s
  unfold scrubStep
  dsimp only
  split
  · exact hlook.trans (.of_bezels (stackPut_bezels _ _ _ _))
  · split
    · exact (hlook.trans (.of_bezels (stackPut_bezels _ _ _ _))).trans
        (.of_bezels (bezels_same (keeps_scrubRecord _ _ _ (Keeps.refl _ _) (sub_refl _)) (by decide)))
    · exact hlook

/-- A scrub of a clean granule reads it and leaves memory as it is. -/
theorem scrubStep_clean (hclean : (decodeCode (stackCode s z l)).1 = .clean) :
    scrubStep z l s = stackLook z l (stackCode s z l) false s := by
  simp [scrubStep, hclean, corrected]

theorem SameMemory.stackCode (h : SameMemory s t) (z l : Nat) : stackCode t z l = stackCode s z l := by
  rw [Machine.stackCode, Machine.stackCode, h.stackSrc, codeAt_congr h.cells]

/-- Reads have found in `t` what `s` holds, and memory is as it was. -/
structure OnlyRead (s t : State) : Prop where
  mem : t.mem = s.mem
  same : SameMemory s t

theorem OnlyRead.scrubStep (h : OnlyRead s t) (hclean : (decodeCode (stackCode s z l)).1 = .clean) :
    OnlyRead s (scrubStep z l t) := by
  rw [← h.same.stackCode] at hclean
  rw [scrubStep_clean hclean]
  exact ⟨(stackLook_mem z l _ false t).trans h.mem,
    h.same.trans (sameMemory_stackLook z l _ false t)⟩

/-- A relation that every step of a count keeps holds after the count. -/
theorem upTo_keeps {α : Type} {R : α → Prop} {f : α → Nat → α} {n : Nat} {a : α} (ha : R a)
    (h : ∀ k < n, ∀ b, R b → R (f b k)) : R (upTo n f a) := by
  induction n with
  | zero => exact ha
  | succ n ih =>
    rw [upTo_succ]
    exact h n (Nat.lt_succ_self n) _ (ih fun k hk => h k (Nat.lt_succ_of_lt hk))

/-- The burst of every channel at a position of the patrol. -/
def patrolBursts (z pos : Nat) (s : State) : State :=
  upTo 32 (fun t ch => upTo 8 (fun t g => scrubStep z (pos * 8192 + ch * 256 + g * 32) t) t) s

theorem bezelLooked_patrolBursts (z pos : Nat) (s : State) : BezelLooked z s (patrolBursts z pos s) :=
  upTo_keeps (.of_bezels rfl) fun _ _ _ h => upTo_keeps h fun _ _ _ h' => h'.trans (bezelLooked_scrubStep _ _ _)

theorem patrolBursts_clean (pos : Nat)
    (hclean : ∀ k < 256, (decodeCode (stackCode s z (pos * 8192 + 32 * k))).1 = .clean) :
    (patrolBursts z pos s).mem = s.mem := by
  have hread : OnlyRead s (patrolBursts z pos s) :=
    upTo_keeps ⟨rfl, .of_parts rfl rfl⟩ fun ch hch _ h => upTo_keeps h fun g hg _ h' => h'.scrubStep (by
      rw [show pos * 8192 + ch * 256 + g * 32 = pos * 8192 + 32 * (8 * ch + g) by omega]
      exact hclean _ (by omega))
  exact hread.mem

/-- A patrol that has `last` positions goes to the one behind `pos`, or ends its pass. -/
def patrolNext (last pos : Nat) (b : Bezel) : Bezel :=
  if pos + 1 < last then { b with scrubPos := pos + 1 }
  else { b with scrubPos := 0, passes := b.passes + 1, frames := [], reported := [] }

/-- The patrol of bezel `z` at position `pos`. -/
def patrolOn (z last pos : Nat) (s : State) : State := modBezel z (patrolNext last pos) (patrolBursts z pos s)

theorem patrol_eq (z : Nat) (s : State) : patrol z s = patrolOn z 8388608 (bezelOf s z).scrubPos s := by
  unfold patrol patrolOn patrolBursts patrolNext
  rfl

theorem patrolNext_goes {last pos : Nat} (h : pos + 1 < last) (b : Bezel) :
    (patrolNext last pos b).scrubPos = pos + 1 ∧ (patrolNext last pos b).passes = b.passes := by
  rw [patrolNext, if_pos h]
  exact ⟨rfl, rfl⟩

theorem patrolNext_ends {last pos : Nat} (h : last ≤ pos + 1) (b : Bezel) :
    (patrolNext last pos b).scrubPos = 0 ∧ (patrolNext last pos b).frames = [] ∧
      (patrolNext last pos b).passes = b.passes + 1 := by
  rw [patrolNext, if_neg (Nat.not_lt.mpr h)]
  exact ⟨rfl, rfl, rfl⟩

theorem patrolOn_mem (z last pos : Nat) (s : State) : (patrolOn z last pos s).mem = (patrolBursts z pos s).mem :=
  modBezel_mem ..

theorem bezelOf_patrolOn (z last pos : Nat) (s : State) :
    bezelOf (patrolOn z last pos s) z = patrolNext last pos (bezelOf (patrolBursts z pos s) z) := bezelOf_modBezel ..

theorem patrolOn_goes (last pos : Nat) :
    OtherBezels z s (patrolOn z last pos s) ∧
      (pos + 1 < last → (bezelOf (patrolOn z last pos s) z).scrubPos = pos + 1 ∧
        (bezelOf (patrolOn z last pos s) z).passes = (bezelOf s z).passes) ∧
      (last ≤ pos + 1 → (bezelOf (patrolOn z last pos s) z).scrubPos = 0 ∧ (bezelOf (patrolOn z last pos s) z).frames = [] ∧
        (bezelOf (patrolOn z last pos s) z).passes = (bezelOf s z).passes + 1) ∧
      ((∀ k < 256, (decodeCode (stackCode s z (pos * 8192 + 32 * k))).1 = .clean) →
        (patrolOn z last pos s).mem = s.mem) := by
  have hlooked := bezelLooked_patrolBursts z pos s
  have hpasses := hlooked.passes
  refine ⟨otherBezels_trans hlooked.others (otherBezels_modBezel _ _ _), fun hgoes => ?_, fun hends => ?_,
    fun hclean => (patrolOn_mem z last pos s).trans (patrolBursts_clean pos hclean)⟩
  · rw [bezelOf_patrolOn, ← hpasses]
    exact patrolNext_goes hgoes _
  · rw [bezelOf_patrolOn, ← hpasses]
    exact patrolNext_ends hends _

theorem execPatrolScrub_next {b : BezelN} (hup : s.standby.mainUp = true) (hen : (bezelOf s b.val).scrubEn = true) :
    exec (.patrolScrub b) s = .next (patrolOn b.val 8388608 (bezelOf s b.val).scrubPos s) :=
  (whenOk_of s (by simp [mainUp, hup, hen]) _).trans (congrArg _ (patrol_eq b.val s))

end

/-! ### The scrubber of slices and data memories -/

/-- The granule `g` is scrubbed between the memories `m` and `m'`. -/
structure GranuleScrubbed (g : Nat) (m m' : Memory) : Prop where
  gran : codeAt m' g = scrubbed (codeAt m g)
  others : ∀ g', g' ≠ g → codeAt m' g' = codeAt m g'
  scrubPos : m'.scrubPos = m.scrubPos

theorem GranuleScrubbed.of_keep {g : Nat} {m : Memory} (h : scrubbed (codeAt m g) = codeAt m g) : GranuleScrubbed g m m :=
  ⟨h.symm, fun _ _ => rfl, rfl⟩

theorem GranuleScrubbed.of_put {g : Nat} {m : Memory} {c : Code} (h : scrubbed (codeAt m g) = c) :
    GranuleScrubbed g m (codePut m g c) :=
  ⟨by rw [codeAt_codePut_same, h], codeAt_codePut_other m g c, rfl⟩

/-- A scrub of a granule puts back what it has restored of it (R396). -/
theorem granuleScrubbed_sramScrub (g blk id p : Nat) (s : State) : GranuleScrubbed g s.mem (sramScrub g blk id p s).mem := by
  have hlook : (countLook blk (codeAt s.mem g) s).mem = s.mem := countLook_mem ..
  unfold sramScrub
  dsimp only
  generalize countLook blk (codeAt s.mem g) s = s1 at *
  cases hk : (decodeCode (codeAt s.mem g)).1 with
  | clean | poisoned => simpa [corrected, hlook] using .of_keep (by simp [scrubbed, hk])
  | corr1 | corr2 => simpa [corrected, putCode, hlook] using .of_put (by simp [scrubbed, hk])
  | uncorr => simpa [corrected, putCode, hlook] using .of_put (by simp [scrubbed, hk])

/-- The scrub of a bank: where its walk stands is `key`, and `gran` gives the granule of a position (R397). -/
structure BankScrubbed (period key : Nat) (gran : Nat → Nat) (m m' : Memory) : Prop where
  pos : tblGet 0 m'.scrubPos key = (tblGet 0 m.scrubPos key + 1) % period
  otherPos : ∀ key', key' ≠ key → tblGet 0 m'.scrubPos key' = tblGet 0 m.scrubPos key'
  scrubbed : codeAt m' (gran (tblGet 0 m.scrubPos key)) = scrubbed (codeAt m (gran (tblGet 0 m.scrubPos key)))
  others : ∀ g, g ≠ gran (tblGet 0 m.scrubPos key) → codeAt m' g = codeAt m g

theorem GranuleScrubbed.bank {period key : Nat} {gran : Nat → Nat} {m m' : Memory}
    (h : GranuleScrubbed (gran (tblGet 0 m.scrubPos key)) m m') :
    BankScrubbed period key gran m
      { m' with scrubPos := tblSet 0 m'.scrubPos key ((tblGet 0 m.scrubPos key + 1) % period) } where
  pos := tblGet_tblSet_same ..
  otherPos key' hkey := by rw [tblGet_tblSet_other _ _ _ _ _ hkey, h.scrubPos]
  scrubbed := h.gran
  others := h.others

theorem bankScrubbed_scrubSliceBank (i k : Nat) (s : State) :
    BankScrubbed 16384 (sliceBankKey i k) (fun p => sliceGran i (8 * p + k)) s.mem (scrubSliceBank i k s).mem := by
  have hev : (countEv (blkSlice i) 0x06 1 s).mem = s.mem := countEv_mem ..
  have h := granuleScrubbed_sramScrub (sliceGran i (8 * tblGet 0 s.mem.scrubPos (sliceBankKey i k) + k)) (blkSlice i) (i % 16)
    (slicePhys i (32 * (8 * tblGet 0 s.mem.scrubPos (sliceBankKey i k) + k))) (countEv (blkSlice i) 0x06 1 s)
  rw [hev] at h
  exact GranuleScrubbed.bank (gran := fun p => sliceGran i (8 * p + k)) h

theorem bankScrubbed_scrubBeadBank (o k : Nat) (s : State) :
    BankScrubbed 1024 (beadBankKey o k) (fun p => dmemGran o (24 * p + k)) s.mem (scrubBeadBank o k s).mem :=
  GranuleScrubbed.bank (gran := fun p => dmemGran o (24 * p + k)) (granuleScrubbed_sramScrub ..)

/-- The scrub of `n` banks of a memory, of which `busy` are passed over: bank `k` walks by `key k` through `gran k`. -/
structure BanksScrubbed (period n : Nat) (busy : List Nat) (key : Nat → Nat) (gran : Nat → Nat → Nat) (m m' : Memory) :
    Prop where
  others : ∀ g, (∀ k < n, k ∉ busy → g ≠ gran k (tblGet 0 m.scrubPos (key k))) → codeAt m' g = codeAt m g
  otherPos : ∀ x, (∀ k < n, k ∉ busy → x ≠ key k) → tblGet 0 m'.scrubPos x = tblGet 0 m.scrubPos x
  pos : ∀ k < n, k ∉ busy → tblGet 0 m'.scrubPos (key k) = (tblGet 0 m.scrubPos (key k) + 1) % period
  scrubbed : ∀ k < n, k ∉ busy → codeAt m' (gran k (tblGet 0 m.scrubPos (key k))) =
    scrubbed (codeAt m (gran k (tblGet 0 m.scrubPos (key k))))

section
variable {period n : Nat} {busy : List Nat} {key : Nat → Nat} {gran : Nat → Nat → Nat} {m m1 m2 : Memory}

theorem banksScrubbed_zero : BanksScrubbed period 0 busy key gran m m :=
  ⟨fun _ _ => rfl, fun _ _ => rfl, fun _ h => absurd h (Nat.not_lt_zero _), fun _ h => absurd h (Nat.not_lt_zero _)⟩

theorem BanksScrubbed.pass (h : BanksScrubbed period n busy key gran m m1) (hbusy : n ∈ busy) :
    BanksScrubbed period (n + 1) busy key gran m m1 := by
  have hlt : ∀ {k}, k < n + 1 → k ∉ busy → k < n := fun {k} hk hfree =>
    Nat.lt_of_le_of_ne (Nat.le_of_lt_succ hk) fun heq => hfree (heq ▸ hbusy)
  exact ⟨fun g hg => h.others g fun k hk => hg k (Nat.lt_succ_of_lt hk),
    fun x hx => h.otherPos x fun k hk => hx k (Nat.lt_succ_of_lt hk),
    fun k hk hfree => h.pos k (hlt hk hfree) hfree, fun k hk hfree => h.scrubbed k (hlt hk hfree) hfree⟩

theorem BanksScrubbed.scrub (h : BanksScrubbed period n busy key gran m m1) (hfree : n ∉ busy)
    (hkey : ∀ k < n, key n ≠ key k) (hgran : ∀ k < n, ∀ p q, gran n p ≠ gran k q)
    (hbank : BankScrubbed period (key n) (gran n) m1 m2) : BanksScrubbed period (n + 1) busy key gran m m2 := by
  obtain ⟨hpos, hotherPos, hscrubbed, hothers⟩ := hbank
  have hsame : tblGet 0 m1.scrubPos (key n) = tblGet 0 m.scrubPos (key n) := h.otherPos _ fun k hk _ => hkey k hk
  have hgsame : ∀ p, codeAt m1 (gran n p) = codeAt m (gran n p) := fun p => h.others _ fun k hk _ => hgran k hk p _
  rw [hsame] at hpos hscrubbed hothers
  rw [hgsame] at hscrubbed
  refine ⟨fun g hg => ?_, fun x hx => ?_, fun k hk hkfree => ?_, fun k hk hkfree => ?_⟩
  · exact (hothers g (hg n n.lt_succ_self hfree)).trans (h.others g fun k hk => hg k (Nat.lt_succ_of_lt hk))
  · exact (hotherPos x (hx n n.lt_succ_self hfree)).trans (h.otherPos x fun k hk => hx k (Nat.lt_succ_of_lt hk))
  · obtain hlt | rfl := Nat.lt_succ_iff_lt_or_eq.mp hk
    · exact (hotherPos _ (hkey k hlt).symm).trans (h.pos k hlt hkfree)
    · exact hpos
  · obtain hlt | rfl := Nat.lt_succ_iff_lt_or_eq.mp hk
    · exact (hothers _ (hgran k hlt _ _).symm).trans (h.scrubbed k hlt hkfree)
    · exact hscrubbed

end

/-- A scrub that goes through the banks in order. -/
theorem banksScrubbed_upTo {period : Nat} {busy : List Nat} {key : Nat → Nat} {gran : Nat → Nat → Nat}
    {step : Nat → State → State} (s : State) (n : Nat)
    (hkey : ∀ j < n, ∀ k < j, key j ≠ key k) (hgran : ∀ j < n, ∀ k < j, ∀ p q, gran j p ≠ gran k q)
    (hstep : ∀ k < n, ∀ t : State, BankScrubbed period (key k) (gran k) t.mem (step k t).mem) :
    BanksScrubbed period n busy key gran s.mem
      (upTo n (fun t k => if busy.contains k then t else step k t) s).mem := by
  induction n with
  | zero => exact banksScrubbed_zero
  | succ n ih =>
    have ih := ih (fun j hj => hkey j (by omega)) (fun j hj => hgran j (by omega)) (fun k hk => hstep k (by omega))
    rw [upTo_succ]
    by_cases hbusy : n ∈ busy
    · rw [if_pos (List.contains_iff_mem.mpr hbusy)]
      exact ih.pass hbusy
    · rw [if_neg (mt List.contains_iff_mem.mp hbusy)]
      exact ih.scrub hbusy (hkey n n.lt_succ_self) (hgran n n.lt_succ_self) (hstep n n.lt_succ_self _)

theorem scrub_slice {i : Fin 128} {s : State} (hup : s.standby.mainUp = true) :
    Completes (.memoryScrub (.slice i)) s fun t => BanksScrubbed 16384 8 (sliceWants s i.val) (sliceBankKey i.val)
      (fun k p => sliceGran i.val (8 * p + k)) s.mem t.mem :=
  completes_of_exec (whenOk_of s hup _) (banksScrubbed_upTo s 8
    (fun j _ k hk => by unfold sliceBankKey; omega) (fun j hj k hk p q => by unfold sliceGran; omega)
    fun k _ t => bankScrubbed_scrubSliceBank i.val k t)

theorem scrub_bead {o : Ord} {s : State} (hup : s.standby.mainUp = true) (hlive : ordLive s o.val = true) :
    Completes (.memoryScrub (.bead o)) s fun t => BanksScrubbed 1024 24 (beadWants s o.val) (beadBankKey o.val)
      (fun k p => dmemGran o.val (24 * p + k)) s.mem t.mem :=
  completes_of_exec (whenOk_of s (by simp [mainUp, hup, hlive]) _) (banksScrubbed_upTo s 24
    (fun j _ k hk => by unfold beadBankKey; omega) (fun j hj k hk p q => by unfold dmemGran; omega)
    fun k _ t => bankScrubbed_scrubBeadBank o.val k t)

/-- Settles O43: a bezel's patrol only reads where nothing is wrong, and the banks of a slice or a data memory that no
requester wants are scrubbed one after the other, each in granules of its own. -/
theorem scrubbersAndRefresh : Obligations.ScrubbersAndRefresh := by
  unfold Obligations.ScrubbersAndRefresh
  intro s hup
  refine ⟨fun b bank => completes_of_exec (execStackRefresh_next hup b bank) ⟨otherBezels_modBezel _ _ _, bezelOf_modBezel ..⟩,
    fun b hen => completes_of_exec (execPatrolScrub_next hup hen) (patrolOn_goes ..), fun i _ => ?_, fun o _ hlive => ?_⟩
  · refine completes_mono (scrub_slice hup) fun t h => ⟨h.others, fun k hk => ⟨fun hwant => ?_, fun hfree =>
      ⟨h.pos k hk hfree, h.scrubbed k hk hfree⟩⟩⟩
    exact h.otherPos _ fun j _ hfree heq => hfree (by rwa [show j = k by unfold sliceBankKey at heq; omega])
  · refine completes_mono (scrub_bead hup hlive) fun t h => ⟨h.others, fun k hk => ⟨fun hwant => ?_, fun hfree =>
      ⟨h.pos k hk hfree, h.scrubbed k hk hfree⟩⟩⟩
    exact h.otherPos _ fun j _ hfree heq => hfree (by rwa [show j = k by unfold beadBankKey at heq; omega])

end Sys2Proof.Proofs
end

section
/-! Proof for chapters 9, 13 and 14: remote operations. -/

namespace Sys2Proof.Proofs

open Sys2Proof Sys2Proof.Machine Sys2Proof.Laws

/-! ### Ports -/

section
variable {s t u : State} {p : Nat}

theorem otherPorts_trans (h : OtherPorts p s t) (g : OtherPorts p t u) : OtherPorts p s u := fun p' n =>
  (g p' n).trans (h p' n)

theorem otherPorts_of_chain (h : t.chain = s.chain) : OtherPorts p s t := fun p' _ => portOf_congr h p'

theorem otherPorts_setPort (p : Nat) (q : Port) (s : State) : OtherPorts p s (setPort p q s) := fun _ n =>
  portOf_setPort_other s q n

theorem otherPorts_modPort (p : Nat) (f : Port → Port) (s : State) : OtherPorts p s (modPort p f s) := fun _ n =>
  portOf_modPort_other s f n

/-- Of the ports only `p` differs, and that port has kept its receive buffers and its outstanding table. -/
structure RequestsKept (p : Nat) (s t : State) : Prop where
  others : OtherPorts p s t
  rx : (portOf t p).rx = (portOf s p).rx
  out : (portOf t p).out = (portOf s p).out

theorem RequestsKept.of_chain (h : t.chain = s.chain) : RequestsKept p s t :=
  ⟨otherPorts_of_chain h, by rw [portOf_congr h], by rw [portOf_congr h]⟩

theorem RequestsKept.trans (h : RequestsKept p s t) (g : RequestsKept p t u) : RequestsKept p s u :=
  ⟨otherPorts_trans h.others g.others, g.rx.trans h.rx, g.out.trans h.out⟩

theorem RequestsKept.setPort {q : Port} (hchain : t.chain = (setPort p q s).chain)
    (hkept : q.rx = (portOf s p).rx ∧ q.out = (portOf s p).out) : RequestsKept p s t := by
  obtain ⟨hrx, hout⟩ := hkept
  refine ⟨otherPorts_trans (otherPorts_setPort p q s) (otherPorts_of_chain hchain), ?_, ?_⟩
  · rw [portOf_congr hchain, portOf_setPort, hrx]
  · rw [portOf_congr hchain, portOf_setPort, hout]

theorem useCredits_kept (c n : Nat) (q : Port) : (useCredits c n q).rx = q.rx ∧ (useCredits c n q).out = q.out := by
  unfold useCredits
  split
  · exact ⟨rfl, rfl⟩
  · split <;> exact ⟨rfl, rfl⟩

theorem portLooks_chain (p : Nat) (f : ChainFrame) (s : State) : (portLooks p f s).chain = s.chain :=
  chain_same (keeps_portLooks p f (.refl _ s) (sub_refl _)) (by decide)

theorem requestsKept_pumpOne (p : Nat) (s : State) : RequestsKept p s (pumpOne p s) := by
  unfold pumpOne
  dsimp only
  split
  · split
    · exact .of_chain rfl
    · apply RequestsKept.setPort
      · rw [emit_chain, portLooks_chain, countEv_chain, countEv_chain]
      · exact useCredits_kept _ _ _
  · exact .of_chain rfl

theorem requestsKept_pump (p : Nat) (s : State) : RequestsKept p s (pump p s) :=
  upTo_keeps (.of_chain rfl) fun _ _ t h => h.trans (requestsKept_pumpOne p t)

theorem requestsKept_refuseRemote (p : Nat) (f : ChainFrame) (s : State) : RequestsKept p s (refuseRemote p f s) :=
  have htx (f' : ChainFrame) : RequestsKept p s (modPort p (fun q => { q with tx := q.tx ++ [f'] }) s) :=
    .setPort rfl ⟨rfl, rfl⟩
  (htx _).trans (requestsKept_pump p _)

end

/-! ### A buffered frame is taken -/

/-- A port without the buffered frame `x`. -/
def withoutFrame (x : RxItem) (q : Port) : Port := { q with rx := dropFirst (fun y => y.order == x.order) q.rx }

/-- A buffered frame leaves its port's buffer, whose credits of class `c` go back. -/
def takeFrame (p c : Nat) (x : RxItem) (s : State) : State :=
  returnCredits p c (blocksOf x.f.msg) (modPort p (withoutFrame x) s)

/-- Of the ports only `p` differs, whose frame `x` has been taken. -/
structure FrameTaken (p : Nat) (x : RxItem) (s t : State) : Prop where
  others : OtherPorts p s t
  rx : (portOf t p).rx = dropFirst (fun y => y.order == x.order) (portOf s p).rx
  out : (portOf t p).out = (portOf s p).out

section
variable {s t u : State} {p : Nat} {x : RxItem}

theorem frameTaken_takeFrame (p c : Nat) (x : RxItem) (s : State) : FrameTaken p x s (takeFrame p c x s) := by
  have hchain : (takeFrame p c x s).chain = (modPort p (withoutFrame x) s).chain := rfl
  refine ⟨otherPorts_trans (otherPorts_modPort p _ s) (otherPorts_of_chain hchain), ?_, ?_⟩
  · rw [portOf_congr hchain, portOf_modPort, withoutFrame]
  · rw [portOf_congr hchain, portOf_modPort, withoutFrame]

theorem FrameTaken.kept (h : FrameTaken p x s t) (g : RequestsKept p t u) : FrameTaken p x s u :=
  ⟨otherPorts_trans h.others g.others, g.rx.trans h.rx, g.out.trans h.out⟩

theorem takeFrame_fabric (p c : Nat) (x : RxItem) (s : State) : (takeFrame p c x s).fabric = s.fabric := rfl

theorem sendMsg_inj (m : Msg) (s : State) :
    tblGet [] (sendMsg m s).fabric.inj (m.src.val * 16 + m.stream.val) =
      tblGet [] s.fabric.inj (m.src.val * 16 + m.stream.val) ++ [m] := tblGet_tblSet_same ..

/-! ### A read of one granule -/

/-- A remote read as its port node issues it at the physical address `a` under the number `k` (R480). -/
def issuedRead (p : Nat) (m : Msg) (k a : Nat) (s : State) : Msg :=
  { m with
    dst := node ((placeNode (placeOf s.mem.splitNow.toNat a)).getD 0), src := node (nodePort p), addr := BitVec.ofNat 48 a
    tag := BitVec.ofNat 10 k, stream := 2, aux0 := 1, aux1 := 0 }

/-- A port with the entry `e` under the number `k` of its outstanding table. -/
def withOut (k : Nat) (e : OutEntry) (q : Port) : Port := { q with out := tblPut q.out k (some e) }

/-- The entry of a read of one granule in the outstanding table (R480). -/
def outRead (x : RxItem) (a : Nat) : OutEntry :=
  { srcMod := x.f.srcMod, srcNode := x.f.srcNode, tag := x.f.msg.tag, op := x.f.msg.op, addr := x.f.msg.addr
    order := x.order, phys := [a], parts := 1 }

theorem reqLen_read {m : Msg} (hop : m.op = opRead) (hlen : m.aux0.toNat % 16 = 1) : reqLen m = 1 := by
  simp [reqLen, hop, bitsOf, hlen]

theorem issueRemote_ok {k a : Nat} {nc : Bool} (hop : x.f.msg.op = opRead) (hlen : x.f.msg.aux0.toNat % 16 = 1)
    (hok : translate s (p / 2) .read x.f.msg.addr.toNat = .ok a nc) :
    issueRemote p x k s = sendMsg (issuedRead p x.f.msg k a s)
      (modPort p (withOut k (outRead x a)) (takeFrame p x.f.cls.toNat x s)) := by
  have hn : min 8 (reqLen x.f.msg) = 1 := by rw [reqLen_read hop hlen]; rfl
  unfold issueRemote
  simp [hop, hn, opAccess, hok, joinChain, nth, issuedRead, takeFrame, outRead, opRead, opPart]
  rfl

theorem issueRemote_bad {k : Nat} (hop : x.f.msg.op = opRead) (hlen : x.f.msg.aux0.toNat % 16 = 1)
    (hbad : ∀ a nc, translate s (p / 2) .read x.f.msg.addr.toNat ≠ .ok a nc) :
    ∃ t, t.chain = (takeFrame p x.f.cls.toNat x s).chain ∧ t.fabric = s.fabric ∧
      issueRemote p x k s = refuseRemote p x.f t := by
  have hn : min 8 (reqLen x.f.msg) = 1 := by rw [reqLen_read hop hlen]; rfl
  unfold issueRemote
  cases hx : translate s (p / 2) .read x.f.msg.addr.toNat with
  | ok a nc => exact absurd hx (hbad a nc)
  | page | prot =>
    refine ⟨takeFrame p x.f.cls.toNat x s, rfl, rfl, ?_⟩
    simp [hop, hn, opAccess, hx, takeFrame, opRead, opPart]
    rfl
  | invalid =>
    refine ⟨recordAddr 0x17 (blkPort p) x.f.msg.addr.toNat (blkPort p + 2 * 4096) (takeFrame p x.f.cls.toNat x s),
      recordAddr_chain .., recordAddr_fabric .., ?_⟩
    simp [hop, hn, opAccess, hx, takeFrame, opRead, opPart]
    rfl

theorem issuedRead_queue (p : Nat) (m : Msg) (k a : Nat) (s : State) :
    (issuedRead p m k a s).src.val * 16 + (issuedRead p m k a s).stream.val = (node (nodePort p)).val * 16 + 2 := rfl

theorem remoteRead_issued {p : PortN} {k a : Nat} {nc : Bool} (hup : s.standby.mainUp = true) (hhold : s.clock.hold = false)
    (hx : nextRequest (portOf s p.val) = some x) (hk : freeOut (portOf s p.val) = some k)
    (hop : x.f.msg.op = opRead) (hlen : x.f.msg.aux0.toNat % 16 = 1)
    (hok : translate s (p.val / 2) .read x.f.msg.addr.toNat = .ok a nc) :
    Completes (.chainRequestIssue p) s fun t => OtherPorts p.val s t ∧
      (portOf t p.val).rx = dropFirst (fun y => y.order == x.order) (portOf s p.val).rx ∧
      (∃ e, tblGet none (portOf t p.val).out k = some e ∧ e.srcNode = x.f.srcNode ∧ e.srcMod = x.f.srcMod ∧
        e.tag = x.f.msg.tag ∧ e.addr = x.f.msg.addr ∧ e.parts = 1 ∧ e.phys = [a]) ∧
      ∃ m : Msg, tblGet [] t.fabric.inj ((node (nodePort p.val)).val * 16 + 2) =
          tblGet [] s.fabric.inj ((node (nodePort p.val)).val * 16 + 2) ++ [m] ∧
        m.op = opRead ∧ m.addr = BitVec.ofNat 48 a ∧ m.tag = BitVec.ofNat 10 k ∧
        m.dst = node ((placeNode (placeOf s.mem.splitNow.toNat a)).getD 0) := by
  have hexec : exec (.chainRequestIssue p) s = .next (issueRemote p.val x k s) := by
    change execChainRequestIssue p s = _
    simp only [execChainRequestIssue, hx, hk]
    exact whenOk_of s (by simp [mainUp, hup, hhold]) _
  rw [issueRemote_ok hop hlen hok] at hexec
  obtain ⟨hothers, hrx, hout⟩ := frameTaken_takeFrame p.val x.f.cls.toNat x s
  have hfab := takeFrame_fabric p.val x.f.cls.toNat x s
  generalize takeFrame p.val x.f.cls.toNat x s = t at *
  have hchain : (sendMsg (issuedRead p.val x.f.msg k a s) (modPort p.val (withOut k (outRead x a)) t)).chain =
    (modPort p.val (withOut k (outRead x a)) t).chain := rfl
  refine completes_of_exec hexec ⟨otherPorts_trans hothers
      (otherPorts_trans (otherPorts_modPort _ _ t) (otherPorts_of_chain hchain)), ?_, ⟨outRead x a, ?_, ?_⟩,
    issuedRead p.val x.f.msg k a s, ?_, ?_⟩
  · rw [portOf_congr hchain, portOf_modPort, withOut, ← hrx]
  · rw [portOf_congr hchain, portOf_modPort, withOut]
    exact tblGet_tblPut_same ..
  · simp [outRead]
  · rw [← issuedRead_queue p.val x.f.msg k a s, sendMsg_inj, modPort_fabric, hfab]
  · simp [issuedRead, hop]

theorem remoteRead_refused {p : PortN} {k : Nat} (hup : s.standby.mainUp = true) (hhold : s.clock.hold = false)
    (hx : nextRequest (portOf s p.val) = some x) (hk : freeOut (portOf s p.val) = some k)
    (hop : x.f.msg.op = opRead) (hlen : x.f.msg.aux0.toNat % 16 = 1)
    (hbad : ∀ a nc, translate s (p.val / 2) .read x.f.msg.addr.toNat ≠ .ok a nc) :
    Completes (.chainRequestIssue p) s fun t => OtherPorts p.val s t ∧
      (portOf t p.val).rx = dropFirst (fun y => y.order == x.order) (portOf s p.val).rx ∧
      (portOf t p.val).out = (portOf s p.val).out ∧ t.fabric = s.fabric := by
  have hexec : exec (.chainRequestIssue p) s = .next (issueRemote p.val x k s) := by
    change execChainRequestIssue p s = _
    simp only [execChainRequestIssue, hx, hk]
    exact whenOk_of s (by simp [mainUp, hup, hhold]) _
  obtain ⟨t, hchain, hfab, hissue⟩ := issueRemote_bad (k := k) hop hlen hbad
  rw [hissue] at hexec
  obtain ⟨hothers, hrx, hout⟩ := ((frameTaken_takeFrame p.val x.f.cls.toNat x s).kept (.of_chain hchain)).kept
    (requestsKept_refuseRemote p.val x.f t)
  exact completes_of_exec hexec ⟨hothers, hrx, hout,
    (fabric_same (keeps_refuseRemote p.val x.f (.refl _ t) (sub_refl _)) (by decide)).trans hfab⟩

/-! ### Signals -/

/-- A remote signal as its port node sends it to the holder `n` (R457, R482). -/
def sentSignal (p : Nat) (x : RxItem) (n : Nat) : Msg :=
  { x.f.msg with
    dst := node n, src := node (nodePort p), stream := 3
    cmask := BitVec.ofNat 64
      (x.f.srcNode.toNat + x.f.srcMod.toNat * 2 ^ 12 + x.f.msg.tag.toNat * 2 ^ 16 + x.f.sendTick.toNat * 2 ^ 26) }

theorem applySignal_held {n : Nat} (hn : remoteHolder s x.f.msg.aux0.toNat = some n) :
    applySignal p x s = sendMsg (sentSignal p x n) (takeFrame p 0 x s) := by
  unfold applySignal
  simp only [hn]
  rfl

theorem remoteSignal_sent {p : PortN} {n : Nat} (hup : s.standby.mainUp = true) (hhold : s.clock.hold = false)
    (hx : nextSignal (portOf s p.val) = some x) (hn : remoteHolder s x.f.msg.aux0.toNat = some n) :
    Completes (.chainSignalApply p) s fun t => OtherPorts p.val s t ∧
      (portOf t p.val).rx = dropFirst (fun y => y.order == x.order) (portOf s p.val).rx ∧
      ∃ m : Msg, tblGet [] t.fabric.inj ((node (nodePort p.val)).val * 16 + 3) =
          tblGet [] s.fabric.inj ((node (nodePort p.val)).val * 16 + 3) ++ [m] ∧
        m.op = x.f.msg.op ∧ m.dst = node n ∧ m.aux0 = x.f.msg.aux0 ∧ m.aux1 = x.f.msg.aux1 := by
  have hexec : exec (.chainSignalApply p) s = .next (applySignal p.val x s) := by
    change execChainSignalApply p s = _
    simp only [execChainSignalApply, hx]
    exact whenOk_of s (by simp [mainUp, hup, hhold]) _
  rw [applySignal_held hn] at hexec
  obtain ⟨hothers, hrx, -⟩ := frameTaken_takeFrame p.val 0 x s
  have hqueue : (sentSignal p.val x n).src.val * 16 + (sentSignal p.val x n).stream.val =
    (node (nodePort p.val)).val * 16 + 3 := rfl
  refine completes_of_exec hexec ⟨hothers, hrx, sentSignal p.val x n, ?_, rfl, rfl, rfl, rfl⟩
  rw [← hqueue, sendMsg_inj, takeFrame_fabric]

end

/-! ### Hold ticks -/

theorem chainRequestIssue_held {s : State} (hhold : s.clock.hold = true) (p : PortN) :
    exec (.chainRequestIssue p) s = .next s := by
  change execChainRequestIssue p s = _
  unfold execChainRequestIssue
  split
  · simp [whenOk, hhold]
  · rfl

theorem chainSignalApply_held {s : State} (hhold : s.clock.hold = true) (p : PortN) :
    exec (.chainSignalApply p) s = .next s := by
  change execChainSignalApply p s = _
  unfold execChainSignalApply
  split
  · simp [whenOk, hhold]
  · rfl

/-! ### A CH.RD without an answer -/

section
variable {s : State} {o q : Nat} {e : QEntry}

theorem runningHead_some (h : runningHead (beadOf s o) q = some e) :
    ∃ rest, (queueOf (beadOf s o) q).ents = e :: rest ∧ (queueOf (beadOf s o) q).stop = false ∧ e.barrier = 0 := by
  unfold runningHead at h
  dsimp only at h
  split at h
  · cases h
  · rename_i hstop
    split at h
    · rename_i e' rest hents
      split at h
      · rename_i he
        obtain rfl : e' = e := Option.some.inj h
        exact ⟨rest, hents, Bool.eq_false_iff.mpr hstop, he.1⟩
      · cases h
    · cases h

/-- The head of a queue outside the matrix unit that meets a fault stops the queue at once. -/
theorem failEntry_head {rest : List QEntry} (hents : (queueOf (beadOf s o) q).ents = e :: rest)
    (hrun : (queueOf (beadOf s o) q).stop = false) (hbar : e.barrier = 0) (hq : q ≠ 0) (code part : Nat) :
    failEntry o q e.id code part 0 s =
      stopQueue o q (faultedWith code part e) (BitVec.ofNat 6 code).toNat (BitVec.ofNat 16 part).toNat 0
        (modBead o (modEntry q e.id (faultedWith code part)) s) := by
  change settleHead o q (modBead o (modEntry q e.id (faultedWith code part)) s) = _
  have hnot : ¬ (((queueOf (beadOf s o) q).stop || (q == 0 && rowsInFlight
      (modEntry q e.id (faultedWith code part) (beadOf s o)) (faultedWith code part e).id)) = true) := by
    simp [hrun, hq]
  simp only [settleHead, beadOf_modBead, queueOf_modEntry_head hents hbar, faultedWith]
  exact if_neg hnot

theorem stopQueue_stops (code part : Nat) :
    OtherBeads o s (stopQueue o q e code part 0 s) ∧ (queueOf (beadOf (stopQueue o q e code part 0 s) o) q).stop = true ∧
      (queueOf (beadOf (stopQueue o q e code part 0 s) o) q).xrec.code = BitVec.ofNat 6 code ∧
      (queueOf (beadOf (stopQueue o q e code part 0 s) o) q).xrec.insn = e.word := by
  obtain ⟨b, detail, hb, hstop⟩ := stopQueue_eq o q e code part 0 s
  have hbeads : (stopQueue o q e code part 0 s).beads = (setBead o b s).beads := by
    rw [hstop, if_pos rfl, recordAt_beads, countEv_beads]
  have hqueue : queueOf (beadOf (stopQueue o q e code part 0 s) o) q = stoppedWith e code part 0 (queueOf (beadOf s o) q) := by
    rw [beadOf_congr hbeads, beadOf_setBead, queueOf, hb.queues]
    exact queueOf_modQueue ..
  exact ⟨otherBeads_trans (otherBeads_setBead o b s) (otherBeads_of_beads hbeads), by rw [hqueue]; rfl, by rw [hqueue]; rfl,
    by rw [hqueue]; rfl⟩

end

theorem chRd_times_out {s : State} {o : Ord} {e : QEntry} (hruns : beadRuns s o.val = true)
    (hhead : runningHead (beadOf s o.val) 3 = some e) (hch : isChRd' e = true) (hopen : e.fin < e.next)
    (hlate : e.asked + max 1 s.chain.rspTmo.toNat ≤ s.clock.tick.toNat) :
    Completes (.chRdResponseTimeout o) s fun t => OtherBeads o.val s t ∧
      (queueOf (beadOf t o.val) 3).stop = true ∧ (queueOf (beadOf t o.val) 3).xrec.code = 0x13 ∧
      (queueOf (beadOf t o.val) 3).xrec.insn = e.word := by
  have hexec : exec (.chRdResponseTimeout o) s = .next (failEntry o.val 3 e.id fcChainFail 0 0 s) := by
    change execChRdResponseTimeout o s = _
    simp only [execChRdResponseTimeout, hhead]
    exact whenOk_of s (by simp [hruns, hch, hopen, hlate]) _
  obtain ⟨rest, hents, hrun, hbar⟩ := runningHead_some hhead
  rw [failEntry_head hents hrun hbar (by decide)] at hexec
  obtain ⟨hothers, hstop, hcode, hinsn⟩ := stopQueue_stops (s := modBead o.val (modEntry 3 e.id (faultedWith fcChainFail 0)) s)
    (o := o.val) (q := 3) (e := faultedWith fcChainFail 0 e) (BitVec.ofNat 6 fcChainFail).toNat (BitVec.ofNat 16 0).toNat
  exact completes_of_exec hexec ⟨otherBeads_trans (otherBeads_modBead _ _ s) hothers, hstop, hcode, hinsn⟩

/-- Settles O47: a port's buffered read or signal leaves the buffer and goes on as one message or as a refusal, and the
head of the S-queue stops its queue once RSP_TMO is over. -/
theorem remoteOperations : Obligations.RemoteOperations := by
  unfold Obligations.RemoteOperations
  intro s hup
  refine ⟨fun hhold p => ⟨chainRequestIssue_held hhold p, chainSignalApply_held hhold p⟩,
    fun p x k hhold hx hk hop hlen => ⟨fun a nc hok => ?_, fun hbad => ?_⟩, fun p x n hhold hx hn => ?_,
    fun o e hruns hhead hch hopen hlate => ?_⟩
  · exact remoteRead_issued hup hhold hx hk hop hlen hok
  · exact remoteRead_refused hup hhold hx hk hop hlen hbad
  · exact remoteSignal_sent hup hhold hx hn
  · exact chRd_times_out hruns hhead hch hopen hlate

end Sys2Proof.Proofs
end

section
/-! Granules that a bezel moves, one after the other: the bursts of COPY and RETURN, and the frame that is retired (R734, R736). -/

namespace Sys2Proof.Proofs

open Sys2Proof Sys2Proof.Machine Sys2Proof.Laws

/-! ### One granule -/

/-- A granule `c`, read at the stack-local address `l`, goes to the flat number `g`: corrected, or poisoned and recorded. -/
def moveGran (z l g : Nat) (c : Code) (s : State) : State :=
  let s1 := putCode (stackLook z l c true s) g (passOn c)
  if (decodeCode c).1 = .uncorr then scrubRecord z l (priorMark s z l) s1 else s1

theorem copyGran_eq (back : Bool) (z l : Nat) (s : State) : copyGran back z l s =
    moveGran z l (if back then stackGran z (redirected (bezelOf s z) (l / 32)) else reliefGran z (l / 32))
      (codeAt s.mem (if back then reliefGran z (l / 32) else stackGran z (redirected (bezelOf s z) (l / 32)))) s := rfl

theorem retireGran_eq (z f r i : Nat) (s : State) : retireGran z f r i s =
    moveGran z (f * 4096 + 32 * i) (stackGran z (stackGranules + r * 128 + i))
      (codeAt s.mem (stackGran z (redirected (bezelOf s z) (f * 128 + i)))) s := rfl

/-- The granule `c` has gone to the flat number `g`. -/
structure GranMoved (z g : Nat) (c : Code) (s t : State) : Prop where
  looked : BezelLooked z s t
  faults : FaultsGrown 1 s t
  hub : HubGrown s t
  mem : t.mem = codePut s.mem g (passOn c)
  recorded : (decodeCode c).1 = .uncorr → s.faults.waiting.length < 256 → Recorded 0x03 (blkBezel z) s t
  raised : (decodeCode c).1 = .uncorr → s.standby.mainUp = true → Raised 0 (96 + z) s t

theorem granMoved_moveGran {z : Nat} (hz : z < 16) (l g : Nat) (c : Code) (s : State) : GranMoved z g c s (moveGran z l g c s) := by
  have hlooked : BezelLooked z s (putCode (stackLook z l c true s) g (passOn c)) :=
    (bezelLooked_stackLook z l c true s).trans (.of_bezels rfl)
  have hfaults : FaultsGrown 1 s (putCode (stackLook z l c true s) g (passOn c)) :=
    (faultsGrown_stackLook z l c true s).trans (m := 0) (.of_same rfl rfl)
  have hbad (h : (decodeCode c).1 = .uncorr) : FaultsGrown 0 s (putCode (stackLook z l c true s) g (passOn c)) :=
    (faultsGrown_stackLook_of_bad (by rw [h]; rfl)).trans (m := 0) (.of_same rfl rfl)
  have hhub : HubGrown s (putCode (stackLook z l c true s) g (passOn c)) :=
    (hubGrown_stackLook z l c true s).trans (.of_same rfl rfl)
  have hmem : (putCode (stackLook z l c true s) g (passOn c)).mem = codePut s.mem g (passOn c) :=
    congrArg (codePut · g (passOn c)) (stackLook_mem z l c true s)
  unfold moveGran
  dsimp only
  generalize putCode (stackLook z l c true s) g (passOn c) = t at *
  split
  next huncorr =>
    have hrec := keeps_scrubRecord z l (priorMark s z l) (.refl _ t) (sub_refl _)
    have hzero := hbad huncorr
    refine ⟨hlooked.trans (.of_bezels (bezels_same hrec (by decide))), hzero.trans (faultsGrown_scrubRecord z l _ t),
      hhub.trans (hubGrown_scrubRecord z l _ t), (mem_same hrec (by decide)).trans hmem, fun _ hroom => ?_, fun _ hup => ?_⟩
    · exact recorded_behind hzero hroom (recorded_scrubRecord _ (Nat.lt_of_le_of_lt hzero.length_le hroom))
    · exact raised_behind hhub (hubGrown_scrubRecord z l _ t)
        (raised_scrubRecord _ ((congrArg Standby.mainUp hhub.standby).trans hup) hz)
  next hgood => exact ⟨hlooked, hfaults, hhub, hmem, fun h => absurd h hgood, fun h => absurd h hgood⟩

/-! ### Granules in a row -/

/-- The granules `src 0` to `src (n - 1)` have gone to `dst 0` to `dst (n - 1)`. -/
structure GransMoved (z n : Nat) (src dst : Nat → Nat) (s t : State) : Prop where
  looked : BezelLooked z s t
  faults : FaultsGrown n s t
  hub : HubGrown s t
  moved : ∀ i < n, codeAt t.mem (dst i) = passOn (codeAt s.mem (src i))
  others : ∀ g, (∀ i < n, g ≠ dst i) → codeAt t.mem g = codeAt s.mem g
  recorded : ∀ i < n, (decodeCode (codeAt s.mem (src i))).1 = .uncorr → s.faults.waiting.length + n ≤ 256 →
    Recorded 0x03 (blkBezel z) s t
  raised : ∀ i < n, (decodeCode (codeAt s.mem (src i))).1 = .uncorr → s.standby.mainUp = true → Raised 0 (96 + z) s t

section
variable {z n : Nat} {src dst : Nat → Nat} {s t u : State}

theorem gransMoved_zero : GransMoved z 0 src dst s s :=
  ⟨.of_bezels rfl, .of_same rfl rfl, .of_same rfl rfl, fun _ h => absurd h (Nat.not_lt_zero _), fun _ _ => rfl,
    fun _ h => absurd h (Nat.not_lt_zero _), fun _ h => absurd h (Nat.not_lt_zero _)⟩

theorem GransMoved.succ (h : GransMoved z n src dst s t) (hdst : ∀ i < n, dst i ≠ dst n) (hsrc : ∀ i < n, src n ≠ dst i)
    (hgran : GranMoved z (dst n) (codeAt t.mem (src n)) t u) : GransMoved z (n + 1) src dst s u := by
  obtain ⟨hlooked, hfaults, hhub, hmem, hrecorded, hraised⟩ := hgran
  rw [h.others _ hsrc] at hmem hrecorded hraised
  refine ⟨h.looked.trans hlooked, h.faults.trans hfaults, h.hub.trans hhub, fun i hi => ?_, fun g hg => ?_,
    fun i hi hbad hroom => ?_, fun i hi hbad hup => ?_⟩
  · rw [hmem]
    obtain hlt | rfl := Nat.lt_succ_iff_lt_or_eq.1 hi
    · rw [codeAt_codePut_other _ _ _ _ (hdst i hlt), h.moved i hlt]
    · rw [codeAt_codePut_same]
  · rw [hmem, codeAt_codePut_other _ _ _ _ (hg n n.lt_succ_self)]
    exact h.others g fun i hi => hg i (Nat.lt_succ_of_lt hi)
  · obtain hlt | rfl := Nat.lt_succ_iff_lt_or_eq.1 hi
    · exact recorded_grown (h.recorded i hlt hbad (by omega)) (by omega) hfaults
    · exact recorded_behind h.faults (by omega) (hrecorded hbad (Nat.lt_of_le_of_lt h.faults.length_le (by omega)))
  · obtain hlt | rfl := Nat.lt_succ_iff_lt_or_eq.1 hi
    · exact raised_grown (h.raised i hlt hbad hup) hhub
    · exact raised_behind h.hub hhub (hraised hbad ((congrArg Standby.mainUp h.hub.standby).trans hup))

theorem gransMoved_upTo {f : State → Nat → State} (hdst : ∀ j < n, ∀ i < j, dst i ≠ dst j)
    (hsrc : ∀ j < n, ∀ i < j, src j ≠ dst i)
    (hstep : ∀ j < n, ∀ t, BezelLooked z s t → GranMoved z (dst j) (codeAt t.mem (src j)) t (f t j)) :
    GransMoved z n src dst s (upTo n f s) := by
  induction n with
  | zero => exact gransMoved_zero
  | succ n ih =>
    have ih := ih (fun j hj => hdst j (by omega)) (fun j hj => hsrc j (by omega)) (fun j hj => hstep j (by omega))
    rw [upTo_succ]
    exact ih.succ (hdst n n.lt_succ_self) (hsrc n n.lt_succ_self) (hstep n n.lt_succ_self _ ih.looked)

end

end Sys2Proof.Proofs
end

section
/-! Proof for chapters 9, 11, 21 and 22: stack retraining, page retirement, rereads and bead faults. -/

namespace Sys2Proof.Proofs

open Sys2Proof Sys2Proof.Machine Sys2Proof.Laws

/-! ### Rotations and phases -/

section
variable {s : State} {b : BezelN}

/-- A bezel in another phase of its retraining, with `left` ticks in it. -/
def inPhase (p : Retrain) (left : Nat) (q : Bezel) : Bezel :=
  { q with retrainPhase := p, retrainLeft := BitVec.ofNat 14 left, copied := 0 }

/-- A bezel in COPY of the channel `ch`. -/
def inCopy (ch : Nat) (q : Bezel) : Bezel := { inPhase .copy copyTicks q with retrainCh := BitVec.ofNat 5 ch }

theorem retraining_iff (s : State) : retraining s = false ↔ ∀ z : BezelN, (bezelOf s z.val).retrainPhase = .idle := by
  simp only [retraining, List.any_eq_false, List.mem_range, bne_iff_ne, ne_eq, Decidable.not_not]
  exact ⟨fun h z => h z.val z.isLt, fun h z hz => h ⟨z, hz⟩⟩

theorem rotateNext_none (h : s.nutas.rotation = none) : rotateNext s = s := by simp [rotateNext, h]

theorem rotateNext_busy (h : retraining s = true) : rotateNext s = s := by
  unfold rotateNext
  split
  · rfl
  · rw [if_pos h]

theorem rotateNext_begins {n : Nat} (h : s.nutas.rotation = some n) (hidle : retraining s = false) :
    rotateNext s = modBezel (n / 32) (inCopy (n % 32))
      (modNutas (fun t => { t with rotation := if n + 1 < 512 then some (n + 1) else none }) s) := by
  simp only [rotateNext, h, hidle, Bool.false_eq_true, if_false]
  rfl

theorem rotateNext_starts {n z : Nat} (h : s.nutas.rotation = some n) (hidle : retraining s = false) (hz : n / 32 = z) :
    OtherBezels z s (rotateNext s) ∧ bezelOf (rotateNext s) z = inCopy (n % 32) (bezelOf s z) ∧
      (rotateNext s).nutas = { s.nutas with rotation := if n + 1 < 512 then some (n + 1) else none } := by
  rw [rotateNext_begins h hidle, hz]
  exact ⟨otherBezels_modBezel _ _ _, bezelOf_modBezel .., rfl⟩

/-- Nutas as a rotation that begins in this tick leaves it (R735). -/
def rotationBegun (s : State) : State :=
  modNutas (fun t => { t with rotation := some 0, rotTick := s.clock.tick.toNat }) s

theorem rotation_begins (hup : s.standby.mainUp = true) (hphase : s.standby.phase = 7)
    (hauto : (bezelOf s 0).retrainAuto = true) (hnone : s.nutas.rotation = none) (hturn : stackTurn s = true) :
    Completes .retrainAutoRotation s fun t => OtherBezels 0 s t ∧
      if (∀ z : BezelN, (bezelOf s z.val).retrainPhase = .idle) then
        t.nutas = { s.nutas with rotation := some 1, rotTick := s.clock.tick.toNat } ∧
        bezelOf t 0 = { bezelOf s 0 with retrainCh := 0, retrainPhase := .copy, retrainLeft := 8576, copied := 0 }
      else t.nutas = { s.nutas with rotation := some 0, rotTick := s.clock.tick.toNat } ∧ bezelOf t 0 = bezelOf s 0 := by
  have hexec : exec .retrainAutoRotation s = .next (rotateNext (rotationBegun s)) :=
    whenOk_of s (by simp [mainUp, nutasUp, hup, hphase, hauto, hnone, hturn]) _
  by_cases hidle : ∀ z : BezelN, (bezelOf s z.val).retrainPhase = .idle
  · obtain ⟨hothers, hbezel, hnutas⟩ :=
      rotateNext_starts (s := rotationBegun s) (n := 0) (z := 0) rfl ((retraining_iff s).2 hidle) rfl
    refine completes_of_exec hexec ⟨hothers, ?_⟩
    rw [if_pos hidle]
    exact ⟨hnutas, hbezel⟩
  · have hbusy : retraining (rotationBegun s) = true :=
      Bool.eq_true_of_not_eq_false fun h => hidle ((retraining_iff s).1 h)
    rw [rotateNext_busy hbusy] at hexec
    refine completes_of_exec hexec ⟨otherBezels_refl 0 s, ?_⟩
    rw [if_neg hidle]
    exact ⟨rfl, rfl⟩

theorem copy_ends (hup : s.standby.mainUp = true) (hphase : (bezelOf s b.val).retrainPhase = .copy)
    (hall : (bezelOf s b.val).copied = 8781824) :
    exec (.retrainPhaseEnd b) s = .next (modBezel b.val (inPhase .remap 123) s) := by
  change execRetrainPhaseEnd b s = _
  simp only [execRetrainPhaseEnd, hphase]
  exact whenOk_of s (by simp [mainUp, hup, hall, allBursts]) _

theorem remap_ends (hup : s.standby.mainUp = true) (hphase : (bezelOf s b.val).retrainPhase = .remap) :
    exec (.retrainPhaseEnd b) s = .next (modBezel b.val (inPhase .return_ 8576) s) := by
  change execRetrainPhaseEnd b s = _
  simp only [execRetrainPhaseEnd, hphase]
  exact whenOk_of s hup _

theorem return_ends (hup : s.standby.mainUp = true) (hphase : (bezelOf s b.val).retrainPhase = .return_)
    (hall : (bezelOf s b.val).copied = 8781824) :
    exec (.retrainPhaseEnd b) s = .next (rotateNext (modBezel b.val (inPhase .idle 0) s)) := by
  change execRetrainPhaseEnd b s = _
  simp only [execRetrainPhaseEnd, hphase]
  exact whenOk_of s (by simp [mainUp, hup, hall, allBursts]) _

theorem completes_inPhase {p : Retrain} {left : Nat}
    (hexec : exec (.retrainPhaseEnd b) s = .next (modBezel b.val (inPhase p left) s)) :
    Completes (.retrainPhaseEnd b) s fun t => OtherBezels b.val s t ∧ bezelOf t b.val = inPhase p left (bezelOf s b.val) :=
  completes_of_exec hexec ⟨otherBezels_modBezel _ _ _, bezelOf_modBezel ..⟩

theorem rotation_goes_on {n : Nat} (hup : s.standby.mainUp = true) (hphase : (bezelOf s b.val).retrainPhase = .return_)
    (hall : (bezelOf s b.val).copied = 8781824) (hrot : s.nutas.rotation = some n)
    (hidle : ∀ z : BezelN, z ≠ b → (bezelOf s z.val).retrainPhase = .idle) :
    Completes (.retrainPhaseEnd b) s fun t =>
      t.nutas = { s.nutas with rotation := if n + 1 < 512 then some (n + 1) else none } ∧
      (bezelOf t (n / 32)).retrainPhase = .copy ∧ (bezelOf t (n / 32)).retrainCh = BitVec.ofNat 5 (n % 32) ∧
      (bezelOf t (n / 32)).retrainLeft = 8576 ∧ (bezelOf t (n / 32)).copied = 0 ∧
      (n / 32 ≠ b.val → bezelOf t b.val = inPhase .idle 0 (bezelOf s b.val)) := by
  have hexec := return_ends hup hphase hall
  have hbezel : bezelOf (modBezel b.val (inPhase .idle 0) s) b.val = inPhase .idle 0 (bezelOf s b.val) := bezelOf_modBezel ..
  have hnone : retraining (modBezel b.val (inPhase .idle 0) s) = false := by
    refine (retraining_iff _).2 fun z => ?_
    by_cases hz : z = b
    · rw [hz, hbezel]
      rfl
    · rw [bezelOf_modBezel_other _ _ fun h => hz (Fin.ext h)]
      exact hidle z hz
  obtain ⟨hothers, hnext, hnutas⟩ :=
    rotateNext_starts (s := modBezel b.val (inPhase .idle 0) s) (n := n) hrot hnone rfl
  refine completes_of_exec hexec ⟨hnutas, ?_, ?_, ?_, ?_, fun hother => ?_⟩
  · rw [hnext]; rfl
  · rw [hnext]; rfl
  · rw [hnext]; rfl
  · rw [hnext]; rfl
  · rw [hothers _ hother.symm]
    exact hbezel

end

/-! ### Bursts -/

/-- Where a burst of COPY, or of RETURN where `back` is set, comes from and goes to. -/
def burstSrc (back : Bool) (z k ch i : Nat) : Nat :=
  if back = true then reliefGran z (k * 256 + ch * 8 + i) else stackGran z (k * 256 + ch * 8 + i)

def burstDst (back : Bool) (z k ch i : Nat) : Nat := burstSrc (!back) z k ch i

theorem burstDst_eq (back : Bool) (z k ch i : Nat) : burstDst back z k ch i =
    if back = true then stackGran z (k * 256 + ch * 8 + i) else reliefGran z (k * 256 + ch * 8 + i) := by
  cases back <;> simp [burstDst, burstSrc]

theorem burstDst_ne_src {back : Bool} {z k ch i j : Nat} (_ : k < 8388608) (_ : ch < 32) (hi : i < 8) (hj : j < 8) :
    burstSrc back z k ch j ≠ burstDst back z k ch i := by
  cases back <;> simp [burstDst, burstSrc, reliefGran, stackGran] <;> omega

theorem burstDst_injective {back : Bool} {z k ch i j : Nat} (h : i < j) : burstDst back z k ch i ≠ burstDst back z k ch j := by
  cases back <;> simp [burstDst, burstSrc, reliefGran, stackGran] <;> omega

theorem redirected_none {q : Bezel} (h : q.redirect = []) (g : Nat) : redirected q g = g := by simp [redirected, h, tblGet]

section
variable {s : State} {z k ch : Nat} {back : Bool}

theorem granMoved_copyGran {t : State} (hz : z < 16) (hnone : (bezelOf t z).redirect = []) (i : Nat) :
    GranMoved z (burstDst back z k ch i) (codeAt t.mem (burstSrc back z k ch i)) t
      (copyGran back z (k * 8192 + ch * 256 + i * 32) t) := by
  have hgran : (k * 8192 + ch * 256 + i * 32) / 32 = k * 256 + ch * 8 + i := by omega
  rw [copyGran_eq, redirected_none hnone, hgran, ← burstSrc, ← burstDst_eq]
  exact granMoved_moveGran hz _ _ _ _

theorem gransMoved_copyBurst (hz : z < 16) (hk : k < 8388608) (hch : ch < 32) (hnone : (bezelOf s z).redirect = []) :
    GransMoved z 8 (burstSrc back z k ch) (burstDst back z k ch) s (copyBurst back z k ch s) := by
  rw [copyBurst, if_pos (show k < dataBursts from hk)]
  exact gransMoved_upTo (fun _ _ _ h => burstDst_injective h)
    (fun j hj i hi => burstDst_ne_src hk hch (by omega) hj) fun i _ t h => granMoved_copyGran hz (h.redirect.trans hnone) i

theorem bezelLooked_copyBurst (hz : z < 16) : BezelLooked z s (copyBurst back z k ch s) := by
  unfold copyBurst
  split
  · exact upTo_keeps (.of_bezels rfl) fun i _ t h => h.trans (by rw [copyGran_eq]; exact (granMoved_moveGran hz _ _ _ _).looked)
  · exact .of_bezels rfl

theorem copyBurst_reserve (hk : 8388608 ≤ k) : copyBurst back z k ch s = s := if_neg (Nat.not_lt.2 hk)

end

theorem burst_copied {s : State} {b : BezelN} {back : Bool} (hup : s.standby.mainUp = true)
    (hphase : (bezelOf s b.val).retrainPhase = if back = true then .return_ else .copy)
    (hleft : (bezelOf s b.val).copied < 8781824) :
    exec (.retrainBurstCopy b) s = .next (modBezel b.val (fun x => { x with copied := x.copied + 1 })
      (copyBurst back b.val (bezelOf s b.val).copied (bezelOf s b.val).retrainCh.toNat s)) := by
  have hback : ((bezelOf s b.val).retrainPhase == .return_) = back := by rw [hphase]; cases back <;> rfl
  have hgo : ((bezelOf s b.val).retrainPhase == .copy || (bezelOf s b.val).retrainPhase == .return_) = true := by
    rw [hphase]; cases back <;> rfl
  change execRetrainBurstCopy b s = _
  unfold execRetrainBurstCopy
  dsimp only
  rw [hback] at hgo ⊢
  exact whenOk_of s (by simp [mainUp, hup, hgo, allBursts, hleft]) _

/-- What a burst leaves of its bezel, of memory, of the fault records and of the hub. -/
theorem burst_moves {s : State} {b : BezelN} {back : Bool} (hup : s.standby.mainUp = true)
    (hphase : (bezelOf s b.val).retrainPhase = if back = true then .return_ else .copy)
    (hleft : (bezelOf s b.val).copied < 8781824) :
    Completes (.retrainBurstCopy b) s fun t => OtherBezels b.val s t ∧
      (bezelOf t b.val).copied = (bezelOf s b.val).copied + 1 ∧
      (bezelOf t b.val).retrainPhase = (bezelOf s b.val).retrainPhase ∧
      (bezelOf t b.val).redirect = (bezelOf s b.val).redirect ∧
      (8388608 ≤ (bezelOf s b.val).copied → t.mem = s.mem ∧
        bezelOf t b.val = { bezelOf s b.val with copied := (bezelOf s b.val).copied + 1 }) ∧
      ((bezelOf s b.val).copied < 8388608 → (bezelOf s b.val).redirect = [] →
        ∃ u, t.mem = u.mem ∧ t.faults = u.faults ∧ t.hub = u.hub ∧
          GransMoved b.val 8 (burstSrc back b.val (bezelOf s b.val).copied (bezelOf s b.val).retrainCh.toNat)
            (burstDst back b.val (bezelOf s b.val).copied (bezelOf s b.val).retrainCh.toNat) s u) := by
  have hexec := burst_copied hup hphase hleft
  have hch : (bezelOf s b.val).retrainCh.toNat < 32 := (bezelOf s b.val).retrainCh.isLt
  have hmoved := gransMoved_copyBurst (back := back) (s := s) (k := (bezelOf s b.val).copied) b.isLt (hch := hch)
  have hreserve := copyBurst_reserve (s := s) (z := b.val) (ch := (bezelOf s b.val).retrainCh.toNat) (back := back)
    (k := (bezelOf s b.val).copied)
  obtain ⟨hothers, hbezel⟩ := bezelLooked_copyBurst (s := s) (k := (bezelOf s b.val).copied) (back := back)
    (ch := (bezelOf s b.val).retrainCh.toNat) b.isLt
  generalize copyBurst back b.val (bezelOf s b.val).copied (bezelOf s b.val).retrainCh.toNat s = u at *
  have hnow : bezelOf (modBezel b.val (fun x => { x with copied := x.copied + 1 }) u) b.val =
    { bezelOf u b.val with copied := (bezelOf u b.val).copied + 1 } := bezelOf_modBezel ..
  refine completes_of_exec hexec ⟨otherBezels_trans hothers (otherBezels_modBezel _ _ _), ?_, ?_, ?_, fun hres => ?_,
    fun hdata hnone => ⟨u, rfl, rfl, rfl, hmoved hdata hnone⟩⟩
  · rw [hnow, hbezel]; rfl
  · rw [hnow, hbezel]; rfl
  · rw [hnow, hbezel]; rfl
  · rw [hnow, hreserve hres]
    exact ⟨modBezel_mem .., rfl⟩

/-! ### Page retirement -/

section
variable {s t : State} {z f : Nat}

theorem serveRetire_intake (h : frameInIntake (bezelOf s z) f = true) : serveRetire z f s = s := if_pos h

theorem serveRetire_retrains (h : frameInIntake (bezelOf s z) f = false) (hretrains : frameRetrains (bezelOf s z) f = true) :
    serveRetire z f s = modBezel z (fun b => { b with deferred := b.deferred ++ [f] }) s := by
  simp [serveRetire, h, hretrains]

theorem serveRetire_full (h : frameInIntake (bezelOf s z) f = false) (hretrains : frameRetrains (bezelOf s z) f = false)
    (hfull : tableFull (bezelOf s z) f = true) :
    serveRetire z f s = unmapFrame (physOfLocal s z (f * 4096)) (recordAddr 0x04 (blkBezel z) (physOfLocal s z (f * 4096)) 4 s) := by
  simp [serveRetire, h, hretrains, hfull]

theorem serveRetire_retires (h : frameInIntake (bezelOf s z) f = false) (hretrains : frameRetrains (bezelOf s z) f = false)
    (hfull : tableFull (bezelOf s z) f = false) : serveRetire z f s = retireFrame z f s := by
  simp [serveRetire, h, hretrains, hfull]

/-! ### A frame that finds no room -/

/-- The shadow bank without the page of the frame at `p` (R333). -/
def bankWithout (p : Nat) (bank : Tbl Word) : Tbl Word := upTo 8 (fun c k => unmapAt k p c) bank

theorem armTs_parts (t : State) : (armTs (withoutLoads t)).mem = t.mem ∧ (armTs (withoutLoads t)).bezels = t.bezels ∧
    (armTs (withoutLoads t)).faults = t.faults := ⟨rfl, rfl, rfl⟩

theorem loadStores_parts (bank : Tbl Word) (hnone : s.nutas.loads = []) :
    (loadStores bank s).mem = s.mem ∧ (loadStores bank s).bezels = s.bezels ∧ (loadStores bank s).faults = s.faults := by
  have hadded : (storesAdded bank s).mem = s.mem ∧ (storesAdded bank s).bezels = s.bezels ∧
    (storesAdded bank s).faults = s.faults := ⟨rfl, rfl, rfl⟩
  have harmed := armTs_parts (storesAdded bank s)
  have hload : loadStores bank s = armTs (withoutLoads (storesAdded bank s)) ∨ loadStores bank s = storesAdded bank s := by
    rw [loadStores_eq bank (by simp [hnone])]
    exact ite_eq_or_eq ..
  generalize storesAdded bank s = t at *
  obtain hload | hload := hload
  · rw [hload, harmed.1, harmed.2.1, harmed.2.2]
    exact hadded
  · rw [hload]
    exact hadded

theorem unmapFrame_eq (p : Nat) (s : State) :
    unmapFrame p s = s ∧ bankWithout p s.mmu.shadow = s.mmu.shadow ∨
      unmapFrame p s = loadStores (bankWithout p s.mmu.shadow) s := by
  unfold unmapFrame bankWithout
  dsimp only
  generalize upTo 8 (fun c k => unmapAt k p c) s.mmu.shadow = bank
  by_cases hsame : bank = s.mmu.shadow
  · exact .inl ⟨if_pos hsame, hsame⟩
  · exact .inr (if_neg hsame)

theorem unmapFrame_parts (p : Nat) (hnone : s.nutas.loads = []) :
    (unmapFrame p s).mem = s.mem ∧ (unmapFrame p s).bezels = s.bezels ∧ (unmapFrame p s).faults = s.faults ∧
      (unmapFrame p s).mmu.shadow = bankWithout p s.mmu.shadow := by
  obtain ⟨hframe, hsame⟩ | hframe := unmapFrame_eq p s
  · rw [hframe]
    exact ⟨rfl, rfl, rfl, hsame.symm⟩
  · obtain ⟨hmem, hbezels, hfaults⟩ := loadStores_parts (bankWithout p s.mmu.shadow) hnone
    rw [hframe]
    exact ⟨hmem, hbezels, hfaults, loadStores_shadow _ s⟩

/-! ### A frame that moves -/

/-- A bezel whose frame `f` the reserve frame `r` serves. -/
def reservedAs (f r : Nat) (b : Bezel) : Bezel := { b with redirect := tblSet 0 b.redirect f (r + 1), nextReserve := r + 1 }

theorem retireFrame_eq (z f : Nat) (s : State) : retireFrame z f s =
    recordAddr 0x04 (blkBezel z) (physOfLocal s z (f * 4096)) 2
      (modStandby (fun b => { b with retires := tblSet 0 b.retires (z * 2 ^ 25 + f) ((bezelOf s z).nextReserve + 1) })
        (modBezel z (reservedAs f (bezelOf s z).nextReserve)
          (upTo 128 (fun t i => retireGran z f (bezelOf s z).nextReserve i t) s))) := rfl

/-- The granules of a frame and of the reserve frame that it goes to. -/
def frameSrc (z f i : Nat) : Nat := stackGran z (f * 128 + i)

def frameDst (z r i : Nat) : Nat := stackGran z (stackGranules + r * 128 + i)

theorem redirected_frame {q : Bezel} {i : Nat} (h : tblGet 0 q.redirect f = 0) (hi : i < 128) :
    redirected q (f * 128 + i) = f * 128 + i := by
  rw [redirected, show (f * 128 + i) / 128 = f by omega, h]

theorem gransMoved_frame (hz : z < 16) (_ : f < 16777216) (hnone : tblGet 0 (bezelOf s z).redirect f = 0) (r : Nat) :
    GransMoved z 128 (frameSrc z f) (frameDst z r) s (upTo 128 (fun t i => retireGran z f r i t) s) := by
  refine gransMoved_upTo (fun j _ i hi => ?_) (fun j hj i hi => ?_) fun i hi t h => ?_
  · unfold frameDst stackGran
    omega
  · unfold frameSrc frameDst stackGran stackGranules
    omega
  · rw [retireGran_eq, redirected_frame (by rwa [h.redirect]) hi]
    exact granMoved_moveGran hz _ _ _ _

theorem frameMoved_retireFrame (hz : z < 16) (hf : f < 16777216) (hnone : tblGet 0 (bezelOf s z).redirect f = 0) :
    FrameMoved z f (bezelOf s z) s (retireFrame z f s) := by
  have hmoved := gransMoved_frame hz hf hnone (bezelOf s z).nextReserve
  rw [retireFrame_eq]
  generalize upTo 128 (fun t i => retireGran z f (bezelOf s z).nextReserve i t) s = u at *
  have hb := hmoved.looked.bezel
  have hnow : bezelOf (modBezel z (reservedAs f (bezelOf s z).nextReserve) u) z =
    reservedAs f (bezelOf s z).nextReserve (bezelOf u z) := bezelOf_modBezel ..
  have hfaults : FaultsGrown 128 s (modBezel z (reservedAs f (bezelOf s z).nextReserve) u) :=
    hmoved.faults.trans (m := 0) (.of_same rfl rfl)
  have hmem : (modBezel z (reservedAs f (bezelOf s z).nextReserve) u).mem = u.mem := rfl
  have hothers := otherBezels_trans hmoved.looked.others (otherBezels_modBezel z (reservedAs f (bezelOf s z).nextReserve) u)
  have hstandby : (modBezel z (reservedAs f (bezelOf s z).nextReserve) u).standby = s.standby := hmoved.hub.standby
  generalize modBezel z (reservedAs f (bezelOf s z).nextReserve) u = v at *
  rw [hb] at hnow
  unfold FrameMoved
  rw [recordAddr_mem, recordAddr_standby, modStandby_mem, hmem, bezelOf_congr (recordAddr_bezels _ _ _ _ _),
    bezelOf_congr (modStandby_bezels _ _), hnow]
  refine ⟨otherBezels_trans hothers (otherBezels_of_bezels (recordAddr_bezels _ _ _ _ _)), rfl, rfl, rfl, rfl, rfl, ?_,
    fun hroom => ?_, hmoved.moved, hmoved.others⟩
  · rw [← hstandby]
    rfl
  · exact recorded_recordFault _ rfl rfl (hfaults.trans (m := 0) (.of_same rfl rfl)) hroom

end

/-- A bezel whose oldest request for a frame has been taken. -/
def withRetiring (rest : List Nat) (b : Bezel) : Bezel := { b with retiring := rest }

/-- A bezel whose oldest deferred request has been taken. -/
def withDeferred (rest : List Nat) (b : Bezel) : Bezel := { b with deferred := rest }

section
variable {s : State} {b : BezelN} {f : Nat} {rest : List Nat} {q : Bezel}

theorem pageRetirement_next (hup : s.standby.mainUp = true) (hq : (bezelOf s b.val).retiring = f :: rest) :
    exec (.pageRetirement b) s = .next (serveRetire b.val f (modBezel b.val (withRetiring rest) s)) := by
  change execPageRetirement b s = _
  simp only [execPageRetirement, hq]
  exact whenOk_of s hup _

theorem deferredRetirement_next (hup : s.standby.mainUp = true) (hq : (bezelOf s b.val).deferred = f :: rest)
    (hretrains : frameRetrains (bezelOf s b.val) f = false) :
    exec (.deferredRetirement b) s = .next (serveRetire b.val f (modBezel b.val (withDeferred rest) s)) := by
  change execDeferredRetirement b s = _
  simp only [execDeferredRetirement, hq]
  exact whenOk_of s (by simp [mainUp, hup, hretrains]) _

/-- A frame that moves out of a bezel of which only the requests have changed since `s`. -/
theorem frameMoved_since {u t : State} {z : Nat} (hothers : OtherBezels z s u) (hmem : u.mem = s.mem)
    (hfaults : FaultsGrown 0 s u) (hstandby : u.standby = s.standby) (hroom : u.faults.waiting.length = s.faults.waiting.length)
    (h : FrameMoved z f q u t) : FrameMoved z f q s t := by
  unfold FrameMoved at h ⊢
  rw [hmem, hstandby, hroom] at h
  obtain ⟨ho, h1, h2, h3, h4, h5, h6, hrec, h7⟩ := h
  exact ⟨otherBezels_trans hothers ho, h1, h2, h3, h4, h5, h6,
    fun hlt => recorded_behind hfaults (by omega) (hrec hlt), h7⟩

theorem serveRetire_moves {g : Bezel → Bezel} (hq : g (bezelOf s b.val) = q) (hin : frameInIntake q f = false)
    (hretrains : frameRetrains q f = false) (hfull : tableFull q f = false) (hf : f < 16777216)
    (hnone : tblGet 0 q.redirect f = 0) : FrameMoved b.val f q s (serveRetire b.val f (modBezel b.val g s)) := by
  have hbezel : bezelOf (modBezel b.val g s) b.val = q := (bezelOf_modBezel ..).trans hq
  rw [serveRetire_retires (by rwa [hbezel]) (by rwa [hbezel]) (by rwa [hbezel])]
  have hmoved := frameMoved_retireFrame (s := modBezel b.val g s) b.isLt hf (by rwa [hbezel])
  rw [hbezel] at hmoved
  exact frameMoved_since (otherBezels_modBezel _ _ _) rfl (.of_same rfl rfl) rfl rfl hmoved

/-- A frame that finds no room is recorded, and its page leaves the shadow bank (R333). -/
theorem unmapFrame_recorded {u : State} (hclock : u.clock = s.clock) (hsame : u.faults = s.faults) (hloads : u.nutas.loads = [])
    (source p : Nat) :
    (unmapFrame p (recordAddr 0x04 source p 4 u)).mem = u.mem ∧ (unmapFrame p (recordAddr 0x04 source p 4 u)).bezels = u.bezels ∧
      (unmapFrame p (recordAddr 0x04 source p 4 u)).mmu.shadow = bankWithout p u.mmu.shadow ∧
      Recorded 0x04 source s (unmapFrame p (recordAddr 0x04 source p 4 u)) := by
  have hrec : Recorded 0x04 source s (recordAddr 0x04 source p 4 u) := recorded_recordAddr hclock hsame ..
  obtain ⟨hmem, hbezels, hfaults, hshadow⟩ := unmapFrame_parts (s := recordAddr 0x04 source p 4 u) p
    (by rw [recordAddr_nutas]; exact hloads)
  rw [recordAddr_mem] at hmem
  rw [recordAddr_bezels] at hbezels
  rw [recordAddr_mmu] at hshadow
  refine ⟨hmem, hbezels, hshadow, ?_⟩
  unfold Recorded at hrec ⊢
  rwa [hfaults]

theorem retirement_full (hq : withRetiring rest (bezelOf s b.val) = q) (hin : frameInIntake q f = false)
    (hretrains : frameRetrains q f = false) (hfull : tableFull q f = true) (hloads : s.nutas.loads = []) :
    let t := serveRetire b.val f (modBezel b.val (withRetiring rest) s)
    t.mem = s.mem ∧ OtherBezels b.val s t ∧ bezelOf t b.val = q ∧
      t.mmu.shadow = bankWithout (physOfLocal s b.val (f * 4096)) s.mmu.shadow ∧ Recorded 0x04 (blkBezel b.val) s t := by
  have hbezel : bezelOf (modBezel b.val (withRetiring rest) s) b.val = q := (bezelOf_modBezel ..).trans hq
  have hphys : physOfLocal (modBezel b.val (withRetiring rest) s) b.val (f * 4096) = physOfLocal s b.val (f * 4096) := rfl
  dsimp only
  rw [serveRetire_full (by rwa [hbezel]) (by rwa [hbezel]) (by rwa [hbezel]), hphys]
  obtain ⟨hmem, hbezels, hshadow, hrec⟩ := unmapFrame_recorded (s := s) (u := modBezel b.val (withRetiring rest) s) rfl rfl
    hloads (blkBezel b.val) (physOfLocal s b.val (f * 4096))
  exact ⟨hmem, otherBezels_trans (otherBezels_modBezel _ _ _) (otherBezels_of_bezels hbezels),
    (bezelOf_congr hbezels _).trans hbezel, hshadow, hrec⟩

end

/-! ### Rereads -/

section
variable {s t : State} {p d z l i off : Nat} {rest : List (Nat × Nat)} {reads : List Code}

/-- Memory without the granule that has waited longest for its rereads. -/
def rereadTaken (rest : List (Nat × Nat)) (s : State) : State := { s with mem := { s.mem with rereads := rest } }

theorem uncorrReread_next (hup : s.standby.mainUp = true) (hq : s.mem.rereads = (p, d) :: rest) (hhold : s.clock.hold = true)
    (hok : rereadsOk s.faults.reread.toNat reads = true) :
    exec (.uncorrReread reads) s = .next (reread p d reads (rereadTaken rest s)) := by
  change execUncorrReread reads s = _
  simp only [execUncorrReread, hq]
  exact whenOk_of s (by simp [mainUp, hup, hhold, hok]) _

/-- What the target writes back of its last reread (R690). -/
def rereadWord (last : Code) : Code := if isBad last = true then poisonCode else passOn last

theorem rereadWord_eq (last : Code) : (if (!isBad last) = true then passOn last else poisonCode) = rereadWord last := by
  cases h : isBad last <;> simp [rereadWord, h]

/-- The looks of a slice at its rereads. -/
def sliceLooks (i : Nat) (reads : List Code) (s : State) : State := reads.foldl (fun t r => countLook (blkSlice i) r t) s

theorem reread_slice (hplace : placeOf s.mem.splitNow.toNat p = .slice i off) : reread p d reads s =
    rereadRecord (blkSlice i) p d reads.length (!isBad (reads.getLastD poisonCode))
      (putCode (sliceLooks i reads s) (sliceGran i (off / 32)) (rereadWord (reads.getLastD poisonCode))) := by
  simp only [reread, hplace, rereadWord_eq]
  rfl

/-- The looks of a bezel at its rereads. -/
def rereadLooks (z l : Nat) (reads : List Code) (s : State) : State := reads.foldl (fun t r => stackLook z l r true t) s

/-- The frame of a granule that a reread has restored is retired. -/
def retireReread (z l : Nat) (good : Bool) (s : State) : State :=
  if good && !(bezelOf s z).retiring.contains (l / 4096)
  then modBezel z (fun b => { b with retiring := b.retiring ++ [l / 4096] }) s else s

theorem reread_stack (hplace : placeOf s.mem.splitNow.toNat p = .stack z l) : reread p d reads s =
    retireReread z l (!isBad (reads.getLastD poisonCode))
      (rereadRecord (blkBezel z) p d reads.length (!isBad (reads.getLastD poisonCode))
        (stackPut z l (rereadWord (reads.getLastD poisonCode)) (rereadLooks z l reads s))) := by
  simp only [reread, hplace, rereadWord_eq]
  rfl

theorem bezelLooked_retireReread (z l : Nat) (good : Bool) (s : State) : BezelLooked z s (retireReread z l good s) := by
  unfold retireReread
  split
  · exact .modBezel fun _ => rfl
  · exact .of_bezels rfl

theorem retireReread_parts (z l : Nat) (good : Bool) (s : State) : (retireReread z l good s).mem = s.mem ∧
    (retireReread z l good s).clock = s.clock ∧ (retireReread z l good s).faults = s.faults := by
  unfold retireReread
  split <;> exact ⟨rfl, rfl, rfl⟩

theorem mem_retireReread (z l : Nat) (s : State) : l / 4096 ∈ (bezelOf (retireReread z l true s) z).retiring := by
  unfold retireReread
  by_cases hin : l / 4096 ∈ (bezelOf s z).retiring
  · simp [hin]
  · simp [hin]

theorem rereadLooks_mem (z l : Nat) (reads : List Code) (s : State) : (rereadLooks z l reads s).mem = s.mem :=
  foldl_leaves State.mem (fun t r => stackLook_mem z l r true t) reads s

theorem bezelLooked_rereadLooks (z l : Nat) (reads : List Code) (s : State) : BezelLooked z s (rereadLooks z l reads s) := by
  induction reads generalizing s with
  | nil => exact .of_bezels rfl
  | cons r reads ih => exact (bezelLooked_stackLook z l r true s).trans (ih _)

theorem corrected_of_isBad {c : Code} (h : isBad c = true) : corrected (decodeCode c).1 = false := by
  unfold isBad at h
  generalize (decodeCode c).1 = k at *
  cases k with
  | uncorr | poisoned => rfl
  | clean | corr1 | corr2 => cases h

/-- Rereads that find nothing to correct record nothing. -/
theorem faultsGrown_badLooks (hbad : ∀ r ∈ reads, isBad r = true) : FaultsGrown 0 s (rereadLooks z l reads s) := by
  induction reads generalizing s with
  | nil => exact .of_same rfl rfl
  | cons r reads ih =>
    have hlook : FaultsGrown 0 s (stackLook z l r true s) :=
      faultsGrown_stackLook_of_bad (corrected_of_isBad (hbad r (.head _)))
    exact hlook.trans (ih fun x hx => hbad x (.tail _ hx))

/-- Of the rereads only the last can be corrected and make a record (R690). -/
theorem faultsGrown_rereadLooks {limit : Nat} (hok : rereadsOk limit reads = true) :
    FaultsGrown 1 s (rereadLooks z l reads s) := by
  simp only [rereadsOk, Bool.and_eq_true, List.all_eq_true, bne_iff_ne, ne_eq] at hok
  obtain ⟨⟨⟨hne, -⟩, hbad⟩, -⟩ := hok
  have hlast := faultsGrown_stackLook z l (reads.getLast hne) true (rereadLooks z l reads.dropLast s)
  have hfirst : FaultsGrown 0 s (rereadLooks z l reads.dropLast s) := faultsGrown_badLooks hbad
  rw [← List.dropLast_concat_getLast hne]
  simpa [rereadLooks, List.foldl_append] using hfirst.trans hlast

theorem stackPut_rereads (z l : Nat) (c : Code) (s : State) : (stackPut z l c s).mem.rereads = s.mem.rereads := by
  unfold stackPut
  dsimp only
  split <;> split <;> rfl

theorem sliceLooks_parts (i : Nat) (reads : List Code) (s : State) : (sliceLooks i reads s).mem = s.mem ∧
    (sliceLooks i reads s).bezels = s.bezels ∧ (sliceLooks i reads s).clock = s.clock ∧
    (sliceLooks i reads s).faults = s.faults :=
  ⟨foldl_leaves State.mem (fun _ _ => countLook_mem _ _ _) reads s,
    foldl_leaves State.bezels (fun _ _ => countLook_bezels _ _ _) reads s,
    foldl_leaves State.clock (fun _ _ => countLook_clock _ _ _) reads s,
    foldl_leaves State.faults (fun _ _ => countLook_faults _ _ _) reads s⟩

/-- A record joins those that wait, or is dropped. -/
theorem recorded_recordFault_now {cls source : Nat} (r : FaultRec) (hcls : r.cls = BitVec.ofNat 8 cls)
    (hsource : r.source = BitVec.ofNat 12 source) (hclock : t.clock = s.clock) (hfaults : t.faults = s.faults) :
    Recorded cls source s (recordFault r t) := by
  unfold Recorded recordFault
  rw [hfaults, hclock]
  split
  · exact ⟨_, mem_insertRec _ _, hcls, hsource, rfl, rfl⟩
  · rfl

theorem reread_stores_slice (hplace : placeOf s.mem.splitNow.toNat p = .slice i off) :
    let t := reread p d reads (rereadTaken rest s)
    t.mem.rereads = rest ∧ t.bezels = s.bezels ∧
      codeAt t.mem (sliceGran i (off / 32)) = rereadWord (reads.getLastD poisonCode) ∧
      (∀ g, g ≠ sliceGran i (off / 32) → codeAt t.mem g = codeAt s.mem g) ∧ Recorded 0x02 (blkSlice i) s t := by
  dsimp only
  rw [reread_slice (s := rereadTaken rest s) hplace]
  obtain ⟨hmem, hbezels, hclock, hfaults⟩ := sliceLooks_parts i reads (rereadTaken rest s)
  generalize sliceLooks i reads (rereadTaken rest s) = u at *
  have hnow : (rereadRecord (blkSlice i) p d reads.length (!isBad (reads.getLastD poisonCode))
      (putCode u (sliceGran i (off / 32)) (rereadWord (reads.getLastD poisonCode)))).mem =
      codePut (rereadTaken rest s).mem (sliceGran i (off / 32)) (rereadWord (reads.getLastD poisonCode)) := by
    rw [rereadRecord, recordFault_mem, putCode, hmem]
  refine ⟨?_, ?_, ?_, fun g hg => ?_, ?_⟩
  · rw [hnow]
    rfl
  · rw [rereadRecord, recordFault_bezels]
    exact hbezels
  · rw [hnow, codeAt_codePut_same]
  · rw [hnow, codeAt_codePut_other _ _ _ _ hg]
    rfl
  · exact recorded_recordFault_now _ rfl rfl hclock hfaults

theorem reread_stores_stack {limit : Nat} (hok : rereadsOk limit reads = true)
    (hplace : placeOf s.mem.splitNow.toNat p = .stack z l) :
    let t := reread p d reads (rereadTaken rest s)
    t.mem.rereads = rest ∧ OtherBezels z s t ∧ stackCode t z l = rereadWord (reads.getLastD poisonCode) ∧
      (isBad (reads.getLastD poisonCode) = false → l / 4096 ∈ (bezelOf t z).retiring) ∧
      (s.faults.waiting.length < 255 → Recorded 0x02 (blkBezel z) s t) := by
  dsimp only
  rw [reread_stack (s := rereadTaken rest s) hplace]
  have hlooksmem := rereadLooks_mem z l reads (rereadTaken rest s)
  have hlooks : BezelLooked z s (rereadLooks z l reads (rereadTaken rest s)) :=
    BezelLooked.trans (t := rereadTaken rest s) (.of_bezels rfl) (bezelLooked_rereadLooks ..)
  have hfaults : FaultsGrown 1 s (rereadLooks z l reads (rereadTaken rest s)) := by
    obtain ⟨hclock, hkeep, hlength⟩ := faultsGrown_rereadLooks (s := rereadTaken rest s) (z := z) (l := l) hok
    exact ⟨hclock, hkeep, hlength⟩
  generalize rereadLooks z l reads (rereadTaken rest s) = u at *
  have hsrc := codeAt_stackPut_src z l (rereadWord (reads.getLastD poisonCode)) u
  have hrereads := (stackPut_rereads z l (rereadWord (reads.getLastD poisonCode)) u).trans
    (congrArg Memory.rereads hlooksmem)
  have hbezels := stackPut_bezels u z l (rereadWord (reads.getLastD poisonCode))
  have hput : FaultsGrown 1 s (stackPut z l (rereadWord (reads.getLastD poisonCode)) u) :=
    hfaults.trans (m := 0) (.of_same (stackPut_clock _ _ _ _) (stackPut_faults _ _ _ _))
  generalize stackPut z l (rereadWord (reads.getLastD poisonCode)) u = v at *
  have hv : BezelLooked z u v := .of_bezels hbezels
  have hrec : BezelLooked z v (rereadRecord (blkBezel z) p d reads.length (!isBad (reads.getLastD poisonCode)) v) :=
    .of_bezels (recordFault_bezels _ _)
  have hrecmem : (rereadRecord (blkBezel z) p d reads.length (!isBad (reads.getLastD poisonCode)) v).mem = v.mem :=
    recordFault_mem _ _
  have hrecorded (hroom : s.faults.waiting.length < 255) : Recorded 0x02 (blkBezel z) s
      (rereadRecord (blkBezel z) p d reads.length (!isBad (reads.getLastD poisonCode)) v) :=
    recorded_recordFault _ rfl rfl hput (by omega)
  generalize rereadRecord (blkBezel z) p d reads.length (!isBad (reads.getLastD poisonCode)) v = w at *
  obtain ⟨hmem, hclock, hsame⟩ := retireReread_parts z l (!isBad (reads.getLastD poisonCode)) w
  have hlast := bezelLooked_retireReread z l (!isBad (reads.getLastD poisonCode)) w
  refine ⟨?_, ((hlooks.trans hv).trans (hrec.trans hlast)).others, ?_, fun hgood => ?_, fun hroom => ?_⟩
  · rw [hmem, hrecmem, hrereads]
    rfl
  · rw [stackCode, (hv.trans (hrec.trans hlast)).src, hmem, hrecmem, hsrc]
  · rw [hgood]
    exact mem_retireReread z l w
  · exact recorded_grown (hrecorded hroom) (by omega) (FaultsGrown.of_same (n := 0) hclock hsame)

end

/-! ### Bead faults -/

theorem beadFault_stops {s : State} {o : Ord} (parity : Bool) (hruns : beadRuns s o.val = true) :
    Completes (.beadFault o parity) s fun t => OtherBeads o.val s t ∧
      beadOf t o.val = { beadOf s o.val with stopped := true } ∧ Recorded 0x05 o.val s t ∧ Raised 0 (1024 + o.val) s t := by
  have hexec : exec (.beadFault o parity) s = .next (hubRaise (1024 + o.val) (beadFaultRecord o.val parity false
    (modBead o.val (fun b => { b with stopped := true }) s))) := whenOk_of s hruns _
  have hup : s.standby.mainUp = true := by
    simp only [beadRuns, Bool.and_eq_true] at hruns
    exact hruns.1.1
  have hbead : beadOf (modBead o.val (fun b => { b with stopped := true }) s) o.val = { beadOf s o.val with stopped := true } :=
    beadOf_modBead ..
  have hothers := otherBeads_modBead o.val (fun b => { b with stopped := true }) s
  have hclock : (modBead o.val (fun b => { b with stopped := true }) s).clock = s.clock := rfl
  have hfaults : (modBead o.val (fun b => { b with stopped := true }) s).faults = s.faults := rfl
  have hhub : HubGrown s (modBead o.val (fun b => { b with stopped := true }) s) := .of_same rfl rfl
  generalize modBead o.val (fun b => { b with stopped := true }) s = u at *
  have hrec : Recorded 0x05 o.val s (beadFaultRecord o.val parity false u) := recorded_recordFault_now _ rfl rfl hclock hfaults
  have hbeads : (beadFaultRecord o.val parity false u).beads = u.beads := recordFault_beads _ _
  have hhub' : HubGrown s (beadFaultRecord o.val parity false u) :=
    hhub.trans (.of_same (recordFault_standby _ _) (recordFault_hub _ _))
  generalize beadFaultRecord o.val parity false u = v at *
  have hraised : (hubRaise (1024 + o.val) v).beads = u.beads := (hubRaise_beads _ _).trans hbeads
  refine completes_of_exec hexec ⟨otherBeads_trans hothers (otherBeads_of_beads hraised), ?_, ?_, ?_⟩
  · rw [beadOf_congr hraised, hbead]
  · unfold Recorded at hrec ⊢
    rwa [hubRaise_faults]
  · refine raised_behind hhub' (hubGrown_hubRaise _ v)
      (raised_hubRaise ((congrArg Standby.mainUp hhub'.standby).trans hup) ?_)
    have := o.isLt
    simp [hubAssigned]
    omega

/-! ### The obligation -/

/-- A burst of COPY or RETURN in the words of the statement. -/
theorem burst_clause {s : State} {b : BezelN} (hup : s.standby.mainUp = true) (back : Bool)
    (hphase : (bezelOf s b.val).retrainPhase = if back = true then .return_ else .copy)
    (hleft : (bezelOf s b.val).copied < 8781824) :
    let q := bezelOf s b.val
    let near i := stackGran b.val (q.copied * 256 + q.retrainCh.toNat * 8 + i)
    let far i := reliefGran b.val (q.copied * 256 + q.retrainCh.toNat * 8 + i)
    let src i := if back = true then far i else near i
    let dst i := if back = true then near i else far i
    Completes (.retrainBurstCopy b) s fun t => OtherBezels b.val s t ∧
      (bezelOf t b.val).copied = q.copied + 1 ∧ (bezelOf t b.val).retrainPhase = q.retrainPhase ∧
      (bezelOf t b.val).redirect = q.redirect ∧
      (8388608 ≤ q.copied → t.mem = s.mem ∧ bezelOf t b.val = { q with copied := q.copied + 1 }) ∧
      (q.copied < 8388608 → s.mem.wf → q.redirect = [] →
        (∀ i < 8, codeAt t.mem (dst i) = passOn (codeAt s.mem (src i))) ∧
        (∀ g, (∀ i < 8, g ≠ dst i) → codeAt t.mem g = codeAt s.mem g) ∧
        ∀ i < 8, (decodeCode (codeAt s.mem (src i))).1 = .uncorr → s.faults.waiting.length + 8 ≤ 256 →
          Recorded 0x03 (blkBezel b.val) s t ∧ Raised 0 (96 + b.val) s t) := by
  dsimp only
  refine completes_mono (burst_moves hup hphase hleft) fun t ⟨hothers, hcopied, hph, hredirect, hreserve, hdata⟩ =>
    ⟨hothers, hcopied, hph, hredirect, hreserve, fun hlt _ hnone => ?_⟩
  obtain ⟨u, hmem, hfaults, hhub, hmoved⟩ := hdata hlt hnone
  rw [funext (burstDst_eq back b.val (bezelOf s b.val).copied (bezelOf s b.val).retrainCh.toNat)] at hmoved
  rw [hmem]
  refine ⟨hmoved.moved, hmoved.others, fun i hi hbad hroom => ⟨?_, ?_⟩⟩
  · have hrec := hmoved.recorded i hi hbad hroom
    unfold Recorded at hrec ⊢
    rwa [hfaults]
  · have hraised := hmoved.raised i hi hbad hup
    unfold Raised at hraised ⊢
    rwa [hhub]

theorem retraining_clauses {s : State} (b : BezelN) (hup : s.standby.mainUp = true) :
    let q := bezelOf s b.val
    (q.retrainPhase = .copy → q.copied = 8781824 →
      Completes (.retrainPhaseEnd b) s fun t => OtherBezels b.val s t ∧
        bezelOf t b.val = { q with retrainPhase := .remap, retrainLeft := 123, copied := 0 }) ∧
    (q.retrainPhase = .remap →
      Completes (.retrainPhaseEnd b) s fun t => OtherBezels b.val s t ∧
        bezelOf t b.val = { q with retrainPhase := .return_, retrainLeft := 8576, copied := 0 }) ∧
    (q.retrainPhase = .return_ → q.copied = 8781824 → s.nutas.rotation = none →
      Completes (.retrainPhaseEnd b) s fun t => OtherBezels b.val s t ∧
        bezelOf t b.val = { q with retrainPhase := .idle, retrainLeft := 0, copied := 0 }) := by
  refine ⟨fun hphase hall => completes_inPhase (copy_ends hup hphase hall), fun hphase => completes_inPhase (remap_ends hup hphase),
    fun hphase hall hnone => completes_inPhase (p := .idle) (left := 0) ?_⟩
  have hexec := return_ends hup hphase hall
  rwa [rotateNext_none (s := modBezel b.val (inPhase .idle 0) s) hnone] at hexec

theorem retirement_clauses {s : State} (b : BezelN) (f : Nat) (rest : List Nat) (hup : s.standby.mainUp = true)
    (hq : (bezelOf s b.val).retiring = f :: rest) :
    let q := { bezelOf s b.val with retiring := rest }
    (frameInIntake q f = true →
      Completes (.pageRetirement b) s fun t => t = { s with bezels := t.bezels } ∧ OtherBezels b.val s t ∧
        bezelOf t b.val = q) ∧
    (frameInIntake q f = false → frameRetrains q f = true →
      Completes (.pageRetirement b) s fun t => t = { s with bezels := t.bezels } ∧ OtherBezels b.val s t ∧
        bezelOf t b.val = { q with deferred := q.deferred ++ [f] }) ∧
    (frameInIntake q f = false → frameRetrains q f = false → tableFull q f = true → s.nutas.loads = [] →
      Completes (.pageRetirement b) s fun t => t.mem = s.mem ∧ OtherBezels b.val s t ∧ bezelOf t b.val = q ∧
        t.mmu.shadow = upTo 8 (fun k c => unmapAt c (physOfLocal s b.val (f * 4096)) k) s.mmu.shadow ∧
        Recorded 0x04 (blkBezel b.val) s t) ∧
    (frameInIntake q f = false → frameRetrains q f = false → tableFull q f = false → s.mem.wf → f < 16777216 →
      tblGet 0 q.redirect f = 0 → Completes (.pageRetirement b) s (FrameMoved b.val f q s)) := by
  have hexec := pageRetirement_next hup hq
  have hbezel : bezelOf (modBezel b.val (withRetiring rest) s) b.val = withRetiring rest (bezelOf s b.val) := bezelOf_modBezel ..
  refine ⟨fun hin => ?_, fun hin hretrains => ?_, fun hin hretrains hfull hloads => ?_,
    fun hin hretrains hfull _ hf hnone => ?_⟩
  · rw [serveRetire_intake (by rwa [hbezel])] at hexec
    exact completes_of_exec hexec ⟨rfl, otherBezels_modBezel _ _ _, hbezel⟩
  · rw [serveRetire_retrains (by rwa [hbezel]) (by rwa [hbezel])] at hexec
    refine completes_of_exec hexec ⟨rfl, otherBezels_trans (otherBezels_modBezel _ _ _) (otherBezels_modBezel _ _ _), ?_⟩
    rw [bezelOf_modBezel, hbezel]
    rfl
  · exact completes_of_exec hexec (retirement_full rfl hin hretrains hfull hloads)
  · exact completes_of_exec hexec (serveRetire_moves rfl hin hretrains hfull hf hnone)

/-- Settles O49: the granules of a burst or of a frame move one after the other, each corrected, or poisoned and recorded;
phases, requests, rereads and bead faults are each one step of their bezel, their granule or their bead. -/
theorem channelsPagesAndBeadsAreRepaired : Obligations.ChannelsPagesAndBeadsAreRepaired := by
  unfold Obligations.ChannelsPagesAndBeadsAreRepaired
  refine ⟨fun s b hup => ?_, fun s hup => ⟨fun b f rest hq => retirement_clauses b f rest hup hq,
    fun b f rest hq => ?_, fun p d rest reads hq hhold hok _ => ?_, fun o parity hruns => beadFault_stops parity hruns⟩⟩
  · obtain ⟨hcopy, hremap, hreturn⟩ := retraining_clauses b hup
    exact ⟨fun hphase hauto hnone hturn => rotation_begins hup hphase hauto hnone hturn, hcopy, hremap, hreturn,
      fun n hphase hall hrot _ hidle => rotation_goes_on hup hphase hall hrot hidle,
      fun back hphase hleft => burst_clause hup back hphase hleft⟩
  · intro q hretrains hin hfull _ hf hnone
    exact completes_of_exec (deferredRetirement_next hup hq hretrains) (serveRetire_moves rfl hin hretrains hfull hf hnone)
  · have hexec := uncorrReread_next hup hq hhold hok
    exact ⟨fun i off hplace => completes_of_exec hexec (reread_stores_slice hplace),
      fun z l hplace => completes_of_exec hexec (reread_stores_stack hok hplace)⟩

end Sys2Proof.Proofs
end

section
/-! Proofs for chapter 10: a strand that has listed a run with the number of the run that it requests next. -/

namespace Sys2Proof.Proofs

open Sys2Proof Sys2Proof.Machine Sys2Proof.Laws

/-- A FEED strand of one run of one granule at the start of bead 0's own data memory, of DEPTH 2 (R341, R342). -/
def oneRunDescriptor : BitVec 512 := BitVec.ofNat 512 (ownBase 0 + 2 ^ 56 + 2 * 2 ^ 112 + 2 ^ 320 + 2 ^ 344 + 2 ^ 368)

/-- Run 0 is listed with its data, and run 0 is the one that the strand requests next. -/
def relistingStrand : Strand := { running := true, desc := oneRunDescriptor, runs := [{ idx := 0, req := 0, got := true }] }

/-- Strand 0 is all that is at work in bead 0. -/
def relistState : State := upWith { strands := [(0, relistingStrand)] }

theorem relistState_next : nextRunAt (beadOf relistState 0) 0 = some 0 := by decide +kernel

/-- The source of the run is one granule of own data memory. -/
theorem relistState_own : ∀ i < sdRunlen relistingStrand.desc,
    inOwnDmem 0 (runSrc relistingStrand.desc relistingStrand.next + 32 * i) = true := by decide +kernel

theorem relistState_idle : ∀ m : Fin 8, m ≠ 0 → (strandOf (beadOf relistState 0) m.val).running = false := by decide

/-- The data goes to the run that was listed first; the one listed behind it is left without. -/
theorem relistState_got :
    (strandOf (beadOf (stateAfter (.strandRunIssue 0 0) relistState) 0) 0).runs.map (·.got) = [true, false] := by
  decide +kernel

/-- Refutes O37: the data from own data memory goes to the first listed run of the requested number; where the strand has listed
a run of that number before, the new run is left without its data. The statement asks of no state that the runs listed lie before
the next. -/
theorem not_strandsIssueConsumeAndSort : ¬ Obligations.StrandsIssueConsumeAndSort := by
  unfold Obligations.StrandsIssueConsumeAndSort
  intro h
  obtain ⟨-, hown, -⟩ := h relistState 0 0 (by decide)
  refine not_completes (fun hp => ?_) (hown 0 rfl relistState_next (by decide +kernel) (by decide +kernel) relistState_own
    (.inl (by decide +kernel)) rfl relistState_idle (List.forall_mem_nil _))
  obtain ⟨-, -, x, hstrand, -, -, hgot, -⟩ := hp
  have hruns : [true, x.got] = [true, false] := (congrArg (fun k => k.runs.map (·.got)) hstrand).symm.trans relistState_got
  rw [hgot] at hruns
  exact absurd hruns (by decide)

end Sys2Proof.Proofs
end

section
/-! Proofs for chapters 9 and 11, and for the registers that count: memory holds what is stored in it, and a read of a counting
register clears what it reads. -/

namespace Sys2Proof.Proofs

open Sys2Proof Sys2Proof.Machine Sys2Proof.Laws

/-! ### Granules -/

/-- Settles O9: the store writes the 36 cells of its granule and no others, and the 36 symbols of a code word are all of it. -/
theorem granulesHoldWhatIsStored : Obligations.GranulesHoldWhatIsStored := by
  unfold Obligations.GranulesHoldWhatIsStored
  exact fun m g c hwf => ⟨codePut_wf g c hwf, codeAt_codePut_same m g c, codeAt_codePut_other m g c⟩

/-! ### Fields that a read clears -/

section
variable {α : Type} {hi lo : Nat}

/-- R797: a field in bits 31:0 is covered by every read but that of the upper half. -/
@[simp] theorem rc_eq_clearedLow (hhi : hi < 32) (hlo : lo < 32) (w : Width) (v zero : α) :
    rc w hi lo v zero = clearedLow w v zero := by
  cases w with
  | full => rfl
  | low => simp [rc, reads, clearedLow, hhi]
  | high => simp [rc, reads, clearedLow, hlo]

/-- R797: a field in bits 63:32 is covered by every read but that of the lower half. -/
@[simp] theorem rc_eq_clearedHigh (hhi : 32 ≤ hi) (hlo : 32 ≤ lo) (w : Width) (v zero : α) :
    rc w hi lo v zero = clearedHigh w v zero := by
  cases w with
  | full => rfl
  | low => simp [rc, reads, clearedHigh, hhi]
  | high => simp [rc, reads, clearedHigh, hlo]

end

/-! ### A register is read -/

section
variable {s t : State} {c : Instr} {off : Nat} {w : Width} {v : Word} {clear : State → State}

theorem answers_of_mainUp (hup : s.standby.mainUp = true) (off : Nat) : answers s off = true := by
  simp [answers, mainUp, hup]

/-- R800: the registers of the FLT and MGT blocks answer at any time. -/
theorem answers_of_standbyBlocks (hlo : 0x040000 ≤ off) (hhi : off < 0x060000) (s : State) : answers s off = true := by
  simp [answers, hlo, hhi]

/-- A read that is answered: the value leaves, and `t` is what the clearing makes of the state after that (R9). -/
theorem exec_regRead (hexec : exec c s = .next (regReadRow off w v clear s)) (hanswers : answers s off = true)
    (hclear : clear (emit (.regValue (rdWidth w v)) s) = t) : exec c s = .next t := by
  rw [hexec, regReadRow, if_pos hanswers, hclear]

/-- A read while the main domains run, in which every register answers. -/
theorem exec_mainRead (hup : s.standby.mainUp = true) (hexec : exec c s = .next (regReadRow off w v clear s))
    (hclear : clear (emit (.regValue (rdWidth w v)) s) = t) : exec c s = .next t :=
  exec_regRead hexec (answers_of_mainUp hup off) hclear

/-- A read of a port's register while the main domains run changes that port and what leaves. -/
theorem completes_portRead {p : Nat} {f : Port → Port} {q : Port} (hup : s.standby.mainUp = true)
    (hexec : exec c s = .next (regReadRow off w v (modPort p f) s)) (hclear : f (portOf s p) = q) :
    Completes c s fun t => t.out = s.out ++ [.regValue (rdWidth w v)] ∧ OtherPorts p s t ∧ portOf t p = q :=
  completes_of_exec (exec_mainRead hup hexec rfl)
    ⟨rfl, otherPorts_modPort p f (emit _ s), (portOf_modPort ..).trans hclear⟩

/-- A read of a bezel's register while the main domains run changes that bezel and what leaves. -/
theorem completes_bezelRead {z : Nat} {f : Bezel → Bezel} {b : Bezel} (hup : s.standby.mainUp = true)
    (hexec : exec c s = .next (regReadRow off w v (modBezel z f) s)) (hclear : f (bezelOf s z) = b) :
    Completes c s fun t => t.out = s.out ++ [.regValue (rdWidth w v)] ∧ OtherBezels z s t ∧ bezelOf t z = b :=
  completes_of_exec (exec_mainRead hup hexec rfl)
    ⟨rfl, otherBezels_modBezel z f (emit _ s), (bezelOf_modBezel ..).trans hclear⟩

end

/-! ### Each counting register -/

/-- Settles O15: each row reads its register and clears it field by field, a field in either half as the width reaches it. -/
theorem countersClearOnRead : Obligations.CountersClearOnRead := by
  unfold Obligations.CountersClearOnRead
  intro s w
  refine ⟨fun hup => ⟨?clpStat, fun p => ?chnErrStat, fun b => ?redStat, fun b => ?eccStat⟩, ?fltStat,
    fun hup => ⟨?hlkErrStat, ?ldgOvr, ?ldgTraceStat, ?asyStat, ?pwrStat⟩⟩
  case clpStat => exact exec_mainRead hup rfl (by simp [clpStatClear, emit])
  case chnErrStat => exact completes_portRead hup rfl (by simp [chnErrClear])
  case redStat => exact completes_bezelRead hup rfl (by simp [redStatClear])
  case eccStat => exact completes_bezelRead hup rfl (by simp [eccStatClear])
  case fltStat => exact exec_regRead rfl (answers_of_standbyBlocks (by decide) (by decide) s) (by simp [emit])
  case hlkErrStat => exact exec_mainRead hup rfl (by simp [hlkErrClear, setHost, emit])
  case ldgOvr => exact exec_mainRead hup rfl (by simp [emit])
  case ldgTraceStat => exact exec_mainRead hup rfl (by simp [emit])
  case asyStat => exact exec_mainRead hup rfl (by simp [emit])
  case pwrStat => exact exec_mainRead hup rfl (by simp [emit])

end Sys2Proof.Proofs
end

section
/-! Facts about the fabric: what stands at the inputs of a router, what waits at a node, and which places are busy, behind each
operation on them. -/

namespace Sys2Proof.Proofs

open Sys2Proof Sys2Proof.Machine Sys2Proof.Laws

/-! ### The first member of a list changed -/

section
variable {α : Type} {p : α → Bool} {f g : α → α} {l : List α}

theorem modFirst_congr (h : ∀ x ∈ l, f x = g x) : modFirst p f l = modFirst p g l := by
  induction l with
  | nil => rfl
  | cons a l ih => rw [modFirst, modFirst, h a (.head _), ih fun x hx => h x (.tail _ hx)]

theorem forall_mem_modFirst {q : α → Prop} (hl : ∀ x ∈ l, q x) (hf : ∀ x, q x → q (f x)) : ∀ x ∈ modFirst p f l, q x := by
  induction l with
  | nil => exact hl
  | cons a l ih =>
    obtain ⟨ha, hrest⟩ := List.forall_mem_cons.1 hl
    unfold modFirst
    split
    · exact List.forall_mem_cons.2 ⟨hf a ha, hrest⟩
    · exact List.forall_mem_cons.2 ⟨ha, ih hrest⟩

end

/-! ### Messages at the inputs of a router -/

section
variable (s : State)

theorem flightsOf_congr {t : State} (h : t.fabric.flights = s.fabric.flights) (r : Nat) : flightsOf t r = flightsOf s r :=
  congrArg (fun x => tblGet [] x r) h

theorem arrivals_congr {t : State} (h : t.fabric.arrivals = s.fabric.arrivals) (n : Nat) : arrivals t n = arrivals s n :=
  congrArg (fun x => tblGet [] x n) h

theorem arrivals_setArrivals_other {n k : Nat} (l : List Msg) (h : k ≠ n) : arrivals (setArrivals n l s) k = arrivals s k :=
  tblGet_tblSet_other _ _ _ _ _ h

@[simp] theorem flightsOf_setFlights (r : Nat) (l : List Flight) : flightsOf (setFlights r l s) r = l :=
  tblGet_tblSet_same _ _ _ _

theorem flightsOf_setFlights_other {r r' : Nat} (l : List Flight) (h : r' ≠ r) :
    flightsOf (setFlights r l s) r' = flightsOf s r' :=
  tblGet_tblSet_other _ _ _ _ _ h

@[simp] theorem flightsOf_pushFlight (r : Nat) (f : Flight) : flightsOf (pushFlight r f s) r = flightsOf s r ++ [f] :=
  flightsOf_setFlights _ _ _

theorem flightsOf_pushFlight_other {r r' : Nat} (f : Flight) (h : r' ≠ r) : flightsOf (pushFlight r f s) r' = flightsOf s r' :=
  flightsOf_setFlights_other _ _ h

theorem flitIn_good {f : Flight} (h : f.bad = false) (t : Nat) :
    flitIn t f = { f with flits := f.flits ++ [t], toCome := f.toCome - 1, since := if f.flits = [] then t else f.since } := by
  rw [flitIn, h]
  rfl

/-- A data flit reaches a router where nothing is discarded: it joins the message that is coming in. -/
theorem flightsOf_dataFlit {r : Nat} (hgood : ∀ g ∈ flightsOf s r, g.bad = false) (inp vc t : Nat) :
    flightsOf (dataFlit r inp vc t s) r =
      modFirst (fun f => f.inp.val == inp && msgVc f.msg == vc && f.toCome != 0) (flitIn t) (flightsOf s r) := by
  rw [dataFlit, flightsOf_setFlights, List.filter_eq_self]
  intro f hf
  have hbad : f.bad = false := forall_mem_modFirst hgood (fun g hg => by rw [flitIn_good hg]; exact hg) f hf
  rw [hbad]
  rfl

theorem flightsOf_dataFlit_other {r r' : Nat} (inp vc t : Nat) (h : r' ≠ r) :
    flightsOf (dataFlit r inp vc t s) r' = flightsOf s r' :=
  flightsOf_setFlights_other _ _ h

end

/-! ### Busy places -/

section
variable {s t : State} {k n : Nat}

theorem placeFree_congr (hclock : t.clock = s.clock) (hbusy : t.fabric.busy = s.fabric.busy) (k : Nat) :
    placeFree t k = placeFree s k := by
  rw [placeFree, placeFree, absCk, absCk, hclock, hbusy]

theorem placeFree_keepBusy (hn : 0 < n) : placeFree (keepBusy k n s) k = false := by
  refine decide_eq_false ?_
  change ¬ tblGet 0 (tblSet 0 s.fabric.busy k (absCk s + n)) k ≤ absCk s
  rw [tblGet_tblSet_same]
  omega

theorem placeFree_keepBusy_other {k' : Nat} (h : k' ≠ k) : placeFree (keepBusy k n s) k' = placeFree s k' :=
  congrArg (fun b => decide (b ≤ absCk s)) (tblGet_tblSet_other _ _ _ _ _ h)

end

end Sys2Proof.Proofs
end

section
/-! Proof for chapter 12: messages enter the fabric at the routers of their nodes. -/

namespace Sys2Proof.Proofs

open Sys2Proof Sys2Proof.Machine Sys2Proof.Laws

/-! ### What an injection takes -/

/-- Of the module `u` differs from `s` only in which slots and places of the fabric are taken. -/
structure PlacesTaken (s u : State) : Prop where
  clock : u.clock = s.clock
  inj : u.fabric.inj = s.fabric.inj
  flights : u.fabric.flights = s.fabric.flights
  arrivals : u.fabric.arrivals = s.fabric.arrivals

section
variable (n : Nat) (m : Msg) (s : State)

theorem placesTaken_injectBusy : PlacesTaken s (injectBusy n m s) := by
  unfold injectBusy
  split <;> exact ⟨rfl, rfl, rfl, rfl⟩

/-- R437: the port takes a flit per ck, and one of VC0 in 8 ck. -/
theorem placeFree_injectBusy : placeFree (injectBusy n m s) (16384 + n) = false ∧
    (msgVc m = 0 → placeFree (injectBusy n m s) (32768 + n) = false) := by
  refine ⟨placeFree_keepBusy (by decide), fun hvc => ?_⟩
  rw [injectBusy, placeFree_keepBusy_other (by omega), if_pos hvc]
  exact placeFree_keepBusy (by decide)

/-- R421: the slots of the present tick at the ck `l` are taken for data flits of the node. -/
def slotsTaken (l : List Nat) : State :=
  { s with fabric := { s.fabric with
      taken := tblSet [] s.fabric.taken n (takenOf s n ++ l.map fun ck => s.clock.tick.toNat * 16384 + ck) } }

variable {n m s}

theorem mem_slotsTaken {l : List Nat} {ck : Nat} (h : ck ∈ l) :
    s.clock.tick.toNat * 16384 + ck ∈ tblGet [] (slotsTaken n s l).fabric.taken n := by
  rw [slotsTaken, tblGet_tblSet_same]
  exact List.mem_append_right _ (List.mem_map_of_mem h)

theorem injectOk_scheduled {tag : Nat} {l : List Nat} (hmode : s.clock.mode = .scheduled)
    (hl : injectScheduled s n tag m = some l) : injectOk s n tag m = some (slotsTaken n s l) := by
  rw [injectOk, if_pos hmode, hl]
  rfl

theorem injectOk_arbitrated {tag : Nat} (hmode : s.clock.mode ≠ .scheduled) (hok : injectArbitrated s n m = true) :
    injectOk s n tag m = some (injectBusy n m s) := by
  rw [injectOk, if_neg hmode, if_pos hok]

end

/-! ### A message's head enters -/

section
variable {s u : State} {n : NodeN} {tag : Fin 16} {m : Msg} {rest : List Msg}

/-- The crossbar's count and the fan-out of a bezel are beside the fabric. -/
theorem injectMsg_eq_pushFlight (n : Nat) (m : Msg) (s : State) : ∃ u, u.fabric = s.fabric ∧ u.clock = s.clock ∧
    injectMsg n m s = pushFlight (nodeRouter n) (headFlight s (nodeInput n) (absCk s) m) u := by
  refine ⟨_, ?_, ?_, rfl⟩ <;> split
  · exact countEv_fabric _ _ _ _
  · split
    · exact fabric_same (keeps_fanInjected _ _ (.refl _ s) (sub_refl _)) (by decide)
    · rfl
  · rfl
  · exact countEv_clock _ _ _ _
  · split
    · exact clock_same (keeps_fanInjected _ _ (.refl _ s) (sub_refl _)) (by decide)
    · rfl
  · rfl

/-- The head of `m` leaves its queue, of which `rest` is left, and enters its node's router in the state `u`. -/
def headInjected (n : NodeN) (tag : Fin 16) (m : Msg) (rest : List Msg) (u : State) : State :=
  injectMsg n.val m { u with fabric := { u.fabric with inj := tblSet [] u.fabric.inj (n.val * 16 + tag.val) rest } }

theorem exec_injection_head (hup : s.standby.mainUp = true) (hnode : nodeKind s n.val ≠ .none)
    (hhalf : halfIn s n.val tag.val = none) (hinj : tblGet [] s.fabric.inj (n.val * 16 + tag.val) = m :: rest)
    (hok : injectOk s n.val tag.val m = some u) : exec (.endpointInjection n tag) s = .next (headInjected n tag m rest u) := by
  change execEndpointInjection n tag s = _
  simp only [execEndpointInjection, hhalf, hinj, hok]
  exact whenOk_of s (by simp [mainUp, hup, hnode]) _

theorem headInjected_places (n : NodeN) (tag : Fin 16) (m : Msg) (rest : List Msg) (u : State) :
    (headInjected n tag m rest u).clock = u.clock ∧ (headInjected n tag m rest u).fabric.busy = u.fabric.busy ∧
      (headInjected n tag m rest u).fabric.taken = u.fabric.taken := by
  obtain ⟨v, hfabric, hclock, heq⟩ := injectMsg_eq_pushFlight n.val m
    { u with fabric := { u.fabric with inj := tblSet [] u.fabric.inj (n.val * 16 + tag.val) rest } }
  rw [headInjected, heq]
  refine ⟨hclock, ?_, ?_⟩
  · exact congrArg (·.busy) hfabric
  · exact congrArg (·.taken) hfabric

/-- R419: one message fewer stands in its queue, and its head is at the node's input of the router. -/
theorem headInjected_enters (h : PlacesTaken s u) :
    let t := headInjected n tag m rest u
    tblGet [] t.fabric.inj (n.val * 16 + tag.val) = rest ∧
      (∀ k, k ≠ n.val * 16 + tag.val → tblGet [] t.fabric.inj k = tblGet [] s.fabric.inj k) ∧
      flightsOf t (nodeRouter n.val) = flightsOf s (nodeRouter n.val) ++ [headFlight s (nodeInput n.val) (absCk s) m] ∧
      (∀ r, r ≠ nodeRouter n.val → flightsOf t r = flightsOf s r) ∧ t.fabric.arrivals = s.fabric.arrivals := by
  obtain ⟨v, hfabric, hclock, heq⟩ := injectMsg_eq_pushFlight n.val m
    { u with fabric := { u.fabric with inj := tblSet [] u.fabric.inj (n.val * 16 + tag.val) rest } }
  have hinj : v.fabric.inj = tblSet [] s.fabric.inj (n.val * 16 + tag.val) rest :=
    (congrArg (·.inj) hfabric).trans (congrArg (tblSet [] · _ rest) h.inj)
  have hflights : v.fabric.flights = s.fabric.flights := (congrArg (·.flights) hfabric).trans h.flights
  dsimp only [headInjected]
  rw [heq]
  refine ⟨?_, fun k hk => ?_, ?_, fun r hr => ?_, (congrArg (·.arrivals) hfabric).trans h.arrivals⟩
  · exact (congrArg (tblGet [] · _) hinj).trans (tblGet_tblSet_same _ _ _ _)
  · exact (congrArg (tblGet [] · k) hinj).trans (tblGet_tblSet_other _ _ _ _ _ hk)
  · rw [flightsOf_pushFlight, flightsOf_congr s hflights]
    simp only [headFlight, absCk, h.clock]
  · rw [flightsOf_pushFlight_other _ _ hr, flightsOf_congr s hflights]

end

/-! ### A data flit enters -/

section
variable {s : State} {n : NodeN} {tag : Fin 16} {f : Flight}

/-- The next data flit of the half injected message `f` enters its node's router. -/
def dataInjected (n : NodeN) (f : Flight) (s : State) : State :=
  injectBusy n.val f.msg (dataFlit (nodeRouter n.val) (nodeInput n.val) (msgVc f.msg) (absCk s) s)

theorem exec_injection_data (hup : s.standby.mainUp = true) (hhalf : halfIn s n.val tag.val = some f)
    (hready : portReady s n.val f.msg = true) : exec (.endpointInjection n tag) s = .next (dataInjected n f s) := by
  change execEndpointInjection n tag s = _
  simp only [execEndpointInjection, hhalf]
  exact whenOk_of s (by simp [mainUp, hup, hready]) _

theorem dataInjected_enters (hgood : ∀ g ∈ flightsOf s (nodeRouter n.val), g.bad = false) :
    let t := dataInjected n f s
    t.fabric.inj = s.fabric.inj ∧
      flightsOf t (nodeRouter n.val) =
        modFirst (fun g => g.inp.val == nodeInput n.val && msgVc g.msg == msgVc f.msg && g.toCome != 0)
          (flitIn (absCk s)) (flightsOf s (nodeRouter n.val)) ∧
      (∀ r, r ≠ nodeRouter n.val → flightsOf t r = flightsOf s r) ∧ t.fabric.arrivals = s.fabric.arrivals := by
  obtain ⟨-, hinj, hflights, harrivals⟩ :=
    placesTaken_injectBusy n.val f.msg (dataFlit (nodeRouter n.val) (nodeInput n.val) (msgVc f.msg) (absCk s) s)
  refine ⟨hinj, ?_, fun r hr => ?_, harrivals⟩
  · exact (flightsOf_congr _ hflights _).trans (flightsOf_dataFlit s hgood _ _ _)
  · exact (flightsOf_congr _ hflights r).trans (flightsOf_dataFlit_other s _ _ _ hr)

end

/-- Settles O38: a head moves from its queue to the router and takes the slots of its data flits or its port's ck; a data flit
joins the message that is half in. -/
theorem messagesEnterTheFabric : Obligations.MessagesEnterTheFabric := by
  unfold Obligations.MessagesEnterTheFabric
  intro s n tag hup
  refine ⟨fun m rest l hnode hhalf hinj hmode hl => ?scheduled, fun m rest hnode hhalf hinj hmode hok => ?arbitrated,
    fun f hhalf hready hgood => ?data⟩
  case scheduled =>
    obtain ⟨hqueue, hothers, hhere, hthere, harrivals⟩ :=
      headInjected_enters (n := n) (tag := tag) (m := m) (rest := rest) (s := s) (u := slotsTaken n.val s l) ⟨rfl, rfl, rfl, rfl⟩
    obtain ⟨-, -, htaken⟩ := headInjected_places n tag m rest (slotsTaken n.val s l)
    rw [headFlight, if_pos hmode] at hhere
    refine completes_of_exec (exec_injection_head hup hnode hhalf hinj (injectOk_scheduled hmode hl))
      ⟨hqueue, hothers, hhere, hthere, harrivals, fun ck hck => ?_⟩
    rw [htaken]
    exact mem_slotsTaken hck
  case arbitrated =>
    obtain ⟨hqueue, hothers, hhere, hthere, harrivals⟩ :=
      headInjected_enters (n := n) (tag := tag) (m := m) (rest := rest) (placesTaken_injectBusy n.val m s)
    obtain ⟨hclock, hbusy, -⟩ := headInjected_places n tag m rest (injectBusy n.val m s)
    obtain ⟨hport, hvc⟩ := placeFree_injectBusy n.val m s
    rw [headFlight, if_neg hmode] at hhere
    exact completes_of_exec (exec_injection_head hup hnode hhalf hinj (injectOk_arbitrated hmode hok))
      ⟨hqueue, hothers, hhere, hthere, harrivals, (placeFree_congr hclock hbusy _).trans hport,
        fun h => (placeFree_congr hclock hbusy _).trans (hvc h)⟩
  case data =>
    obtain ⟨hinj, hhere, hthere, harrivals⟩ := dataInjected_enters (n := n) (f := f) hgood
    exact completes_of_exec (exec_injection_data hup hhalf hready)
      ⟨hinj, hhere.trans (modFirst_congr fun g hg => flitIn_good (hgood g hg) _), hthere, harrivals,
        (placeFree_injectBusy ..).1⟩

end Sys2Proof.Proofs
end

section
/-! Facts about what routers discard: a discarded flit or a misroute is recorded and told to the hub, and ends scheduled service
(R413, R424). -/

namespace Sys2Proof.Proofs

open Sys2Proof Sys2Proof.Machine Sys2Proof.Laws

/-! ### An event of a block -/

section
variable {s t u : State} {blk src : Nat}

/-- An event of an assigned source, raised where the hub is as in `s`. -/
theorem raised_hubRaiseBy (hup : s.standby.mainUp = true) (hsrc : hubAssigned src = true) (hhub : u.hub = s.hub)
    (hstandby : u.standby = s.standby) : Raised blk src s (hubRaiseBy blk src u) := by
  intro hnew
  have hraise : (mainUp u && hubAssigned src && !u.hub.raised.contains (src, blk)) = true := by
    simp [mainUp, hup, hsrc, hhub, hstandby, hnew]
  rw [hubRaiseBy, if_pos hraise]
  change (u.hub.pend ||| srcBit src).getLsbD src = true
  rw [BitVec.getLsbD_or, getLsbD_srcBit (hubAssigned_lt hsrc), Bool.or_true]

theorem leaving_endService (hmode : s.clock.mode = .scheduled) (cls : Nat) : (endService cls s).clock.leaving = true := by
  unfold endService
  split
  · rfl
  next hnot => simpa [hmode] using hnot

end

/-! ### A router's records -/

/-- Router `r` has made a record of class `cls` and raised its source of the hub. -/
structure RouterTold (cls r : Nat) (s t : State) : Prop where
  recorded : Recorded cls (blkRouter r) s t
  raised : Raised (blkRouter r) 135 s t

section
variable {s t u : State} {cls r : Nat}

theorem RouterTold.of_same (h : RouterTold cls r s t) (hfaults : u.faults = t.faults) (hhub : u.hub = t.hub) :
    RouterTold cls r s u :=
  ⟨by unfold Recorded; rw [hfaults]; exact h.recorded, by unfold Raised; rw [hhub]; exact h.raised⟩

/-- What has been done since `s` has touched the fabric, counters and free values alone. -/
theorem routerTold_hub (hup : s.standby.mainUp = true) (h : Keeps [.fabric, .asy, .free] s u) (cls r detail : Nat) :
    RouterTold cls r s (hubRaiseBy (blkRouter r) 135 (recordAt cls (blkRouter r) detail u)) := by
  have hrecorded : Recorded cls (blkRouter r) s (recordAt cls (blkRouter r) detail u) :=
    recorded_recordAt (clock_same h (by decide)) (faults_same h (by decide)) cls _ detail
  refine ⟨by unfold Recorded; rw [hubRaiseBy_faults]; exact hrecorded, raised_hubRaiseBy hup rfl ?_ ?_⟩
  · rw [recordAt_hub]
    exact h.only.hub.resolve_left (by decide)
  · rw [recordAt_standby]
    exact standby_same h (by decide)

theorem routerTold_recordFlit (hup : s.standby.mainUp = true) (h : Keeps [.fabric, .asy, .free] s u) (cls r n hdr : Nat) :
    RouterTold cls r s (recordFlit cls r n hdr u) :=
  routerTold_hub hup (keeps_countEv _ _ _ h (by decide)) _ _ _

theorem routerTold_discardHeader (hup : s.standby.mainUp = true) (h : Keeps [.fabric, .asy, .free] s u) (r : Nat) (m : Msg)
    (k n : Nat) (broken : Bool) : RouterTold 0x08 r s (discardHeader r m k n broken u) := by
  have hdrawn : Keeps [.fabric, .asy, .free] s (if broken then drawn u else u) := .ite (keeps_drawn h (by decide)) h
  exact (routerTold_recordFlit hup hdrawn _ _ _ _).of_same (endService_faults _ _) (endService_hub _ _)

theorem routerTold_misroute (hup : s.standby.mainUp = true) (h : Keeps [.fabric, .asy, .free] s u) (r : Nat) (m : Msg) :
    RouterTold 0x09 r s (misroute r m u) :=
  (routerTold_recordFlit hup h _ _ _ _).of_same (endService_faults _ _) (endService_hub _ _)

@[simp] theorem recordFlit_fabric (cls r n hdr : Nat) (s : State) : (recordFlit cls r n hdr s).fabric = s.fabric := by
  simp [recordFlit]

@[simp] theorem recordFlit_clock (cls r n hdr : Nat) (s : State) : (recordFlit cls r n hdr s).clock = s.clock := by
  simp [recordFlit]

@[simp] theorem discardHeader_fabric (r : Nat) (m : Msg) (k n : Nat) (broken : Bool) (s : State) :
    (discardHeader r m k n broken s).fabric = s.fabric := by
  cases broken <;> simp [discardHeader]

@[simp] theorem misroute_fabric (r : Nat) (m : Msg) (s : State) : (misroute r m s).fabric = s.fabric := by
  simp [misroute]

theorem leaving_discardHeader (hmode : s.clock.mode = .scheduled) (r : Nat) (m : Msg) (k n : Nat) (broken : Bool) :
    (discardHeader r m k n broken s).clock.leaving = true := by
  refine leaving_endService ?_ _
  cases broken <;> simp [hmode]

theorem leaving_misroute (hmode : s.clock.mode = .scheduled) (r : Nat) (m : Msg) : (misroute r m s).clock.leaving = true :=
  leaving_endService (by simp [hmode]) _

end

end Sys2Proof.Proofs
end

section
/-! Proofs for chapter 12: a router in arbitrated mode sends a flit by an output, or discards it (R404, R413, R432, R434). -/

namespace Sys2Proof.Proofs

open Sys2Proof Sys2Proof.Machine Sys2Proof.Laws

/-! ### A flit leaves its buffer -/

/-- Output `out` of router `r` has sent a flit: it is busy, and nothing has changed in other routers or at the nodes. -/
structure FlitGone (r out : Nat) (s u : State) : Prop where
  clock : u.clock = s.clock
  busy : placeFree u (8 * r + out) = false
  others : ∀ r', r' ≠ r → flightsOf u r' = flightsOf s r'
  arrivals : u.fabric.arrivals = s.fabric.arrivals
  failed : u.fabric.failed = s.fabric.failed

/-- The output counts the flit, checks its granule, turns its pointer and is busy for a ck. -/
def outputServed (r out : Nat) (f : Flight) (s : State) : State :=
  keepBusy (8 * r + out) 1 (countEv (blkRouter r) (0x0A + msgVc f.msg) 1
    ((flitData f).foldl (fun t c => countLook (blkRouter r) c t)
      { s with fabric := { s.fabric with rr := tblSet 0 s.fabric.rr (r * 64 + out * 8 + msgVc f.msg) f.inp.val } }))

/-- The flit at the head of `f`'s buffer has gone. -/
def flitTaken (r out : Nat) (f : Flight) (u : State) : State :=
  setFlights r (buffer (absCk u) f { f with flits := f.flits.drop 1, sent := f.sent + 1 } (flightsOf u r))
    (countEv (blkRouter r) (2 + out) 1 u)

section
variable {s u : State} {r out : Nat} {f : Flight}

theorem flitGone_outputServed (r out : Nat) (f : Flight) (s : State) : FlitGone r out s (outputServed r out f s) := by
  have hclock := foldl_same State.clock (fun t c => countLook_clock t (blkRouter r) c) (flitData f)
    { s with fabric := { s.fabric with rr := tblSet 0 s.fabric.rr (r * 64 + out * 8 + msgVc f.msg) f.inp.val } }
  have hfabric := foldl_same State.fabric (fun t c => countLook_fabric t (blkRouter r) c) (flitData f)
    { s with fabric := { s.fabric with rr := tblSet 0 s.fabric.rr (r * 64 + out * 8 + msgVc f.msg) f.inp.val } }
  refine ⟨(countEv_clock _ _ _ _).trans hclock, placeFree_keepBusy (by decide), fun r' _ => flightsOf_congr _ ?_ r', ?_, ?_⟩
  · exact congrArg (·.flights) ((countEv_fabric _ _ _ _).trans hfabric)
  · exact congrArg (·.arrivals) ((countEv_fabric _ _ _ _).trans hfabric)
  · exact congrArg (·.failed) ((countEv_fabric _ _ _ _).trans hfabric)

theorem FlitGone.flitTaken (h : FlitGone r out s u) (f : Flight) : FlitGone r out s (flitTaken r out f u) where
  clock := (countEv_clock _ _ _ _).trans h.clock
  busy := (placeFree_congr (countEv_clock _ _ _ _) (congrArg (·.busy) (countEv_fabric u _ _ _)) _).trans h.busy
  others r' hr := ((flightsOf_setFlights_other _ _ hr).trans
    (flightsOf_congr u (congrArg (·.flights) (countEv_fabric u _ _ _)) r')).trans (h.others r' hr)
  arrivals := (congrArg (·.arrivals) (countEv_fabric u _ _ _)).trans h.arrivals
  failed := (congrArg (·.failed) (countEv_fabric u _ _ _)).trans h.failed

/-- What output `out` makes of the state when it takes a flit of `f`, before the flit arrives anywhere. -/
def flitSent (r out : Nat) (f : Flight) (s : State) : State := flitTaken r out f (outputServed r out f s)

theorem flitGone_flitSent (r out : Nat) (f : Flight) (s : State) : FlitGone r out s (flitSent r out f s) :=
  (flitGone_outputServed r out f s).flitTaken f

theorem absCk_flitSent (r out : Nat) (f : Flight) (s : State) : absCk (flitSent r out f s) = absCk s := by
  rw [absCk, absCk, (flitGone_flitSent r out f s).clock]

theorem routeArbitrated_sends (hnamed : dstNamed s f.msg = true) :
    routeArbitrated r out false f s = sendFlit r out f (outputServed r out f s) := by
  simp [routeArbitrated, hnamed, outputServed]

/-! ### Where the flit goes -/

theorem routeArbitrated_link {r' : Nat} (hnamed : dstNamed s f.msg = true) (hlink : neighbour r out = some r')
    (hcut : f.cut = false) : routeArbitrated r out false f s = flitOut r r' out f (flitSent r out f s) := by
  rw [routeArbitrated_sends hnamed]
  simp [sendFlit, hlink, hcut, flitSent, flitTaken]

theorem neighbour_port (h : 4 ≤ out) (r : Nat) : neighbour r out = none := by
  obtain ⟨k, rfl⟩ := Nat.exists_eq_add_of_le h
  rw [Nat.add_comm]
  rfl

theorem routeArbitrated_last (hnamed : dstNamed s f.msg = true) (hport : 4 ≤ out) (hcut : f.cut = false)
    (hflits : f.flits.length = 1) (hcome : f.toCome = 0) :
    routeArbitrated r out false f s = deliver r out f.msg (flitSent r out f s) := by
  obtain ⟨t, ht⟩ := List.length_eq_one_iff.1 hflits
  rw [routeArbitrated_sends hnamed]
  simp [sendFlit, neighbour_port hport, hcut, ht, hcome, flitSent, flitTaken]

theorem routeArbitrated_more (hnamed : dstNamed s f.msg = true) (hport : 4 ≤ out) (hmore : 2 ≤ f.flits.length ∨ f.toCome ≠ 0) :
    routeArbitrated r out false f s = flitSent r out f s := by
  have hlast : (decide (f.flits.drop 1 = []) && f.toCome == 0) = false := by
    rw [Bool.and_eq_false_iff, decide_eq_false_iff_not, List.drop_eq_nil_iff, beq_eq_false_iff_ne]
    omega
  rw [routeArbitrated_sends hnamed]
  simp only [sendFlit, neighbour_port hport, hlast, Bool.false_and, Bool.false_eq_true, if_false, flitSent, flitTaken]

theorem deliver_node {m : Msg} (hhere : (if out = 4 then some r else portNode r) = some m.dst.val)
    (hfailed : nodeFailed s m.dst.val = false) (hcut : isCut m = false) :
    deliver r out m s = setArrivals m.dst.val (arrivals s m.dst.val ++ [m]) s := by
  simp [deliver, hhere, hfailed, hcut]

theorem headFlight_arbitrated (hmode : s.clock.mode ≠ .scheduled) (inp t : Nat) (m : Msg) :
    headFlight s inp t m = { inp := Fin.ofNat 8 inp, at_ := t, since := t, msg := m, flits := [t], toCome := m.len } :=
  if_neg hmode

/-! ### A flit is discarded -/

theorem cutAfter_arrivals (fuel r : Nat) (m : Msg) (s : State) : (cutAfter fuel r m s).fabric.arrivals = s.fabric.arrivals := by
  induction fuel generalizing r s with
  | zero => rfl
  | succ fuel ih =>
    unfold cutAfter
    split
    · rfl
    · dsimp only
      split
      · rfl
      · split
        · exact ih _ _
        · rfl

/-- A flit whose header is in error, or whose DST names no node, is discarded with those behind it. -/
theorem routeArbitrated_discards {broken : Bool} (h : broken = true ∨ dstNamed s f.msg = false) :
    ∃ u k n, Keeps [.fabric, .asy, .free] s u ∧ u.fabric.arrivals = s.fabric.arrivals ∧
      routeArbitrated r out broken f s = discardHeader r f.msg k n broken u := by
  have hbad : (broken || !dstNamed s f.msg) = true := by simpa using h
  have hturned : Keeps [.fabric, .asy, .free] s
      { s with fabric := { s.fabric with rr := tblSet 0 s.fabric.rr (r * 64 + out * 8 + msgVc f.msg) f.inp.val } } :=
    KeepsMk.w_fabric (.refl _ s) (by decide)
  have hleft := keeps_setFlights r (buffer (absCk s) f { f with flits := [], bad := true } (flightsOf s r)) hturned (by decide)
  refine ⟨_, _, _, ?_, ?_, by rw [routeArbitrated, if_pos hbad, discardFlits]⟩
  · exact .ite hleft (keeps_cutAfter _ _ _ hleft (by decide))
  · split
    · rfl
    · exact cutAfter_arrivals _ _ _ _

end

/-! ### The command -/

section
variable {s : State} {r : RouterN} {out : Fin 6} {f : Flight} {b : Bool}

theorem exec_routeArbitrated (hup : s.standby.mainUp = true) (hmode : s.clock.mode ≠ .scheduled)
    (hwinner : arbWinner s r.val out.val = some f) :
    exec (.routeMessageArbitrated r out b) s = .next (routeArbitrated r.val out.val b f s) := by
  change execRouteMessageArbitrated r out b s = _
  simp only [execRouteMessageArbitrated, hwinner]
  exact whenOk_of s (by simp [mainUp, hup, hmode]) _

variable (hup : s.standby.mainUp = true) (hmode : s.clock.mode ≠ .scheduled) (hwinner : arbWinner s r.val out.val = some f)
include hup hmode hwinner

theorem arbitrated_head {r' : Nat} (hnamed : dstNamed s f.msg = true) (hlink : neighbour r.val out.val = some r')
    (hcut : f.cut = false) (hsent : f.sent = 0) :
    Completes (.routeMessageArbitrated r out false) s fun t => t.fabric.arrivals = s.fabric.arrivals ∧
      placeFree t (8 * r.val + out.val) = false ∧
      ∃ l, flightsOf t r' = l ++ [{ inp := Fin.ofNat 8 (arrivesAt out.val), at_ := absCk s + linkCk r.val r'
                                    since := absCk s + linkCk r.val r', msg := f.msg
                                    flits := [absCk s + linkCk r.val r'], toCome := f.msg.len }] := by
  have hgone := flitGone_flitSent r.val out.val f s
  have hexec := exec_routeArbitrated (b := false) hup hmode hwinner
  rw [routeArbitrated_link hnamed hlink hcut, flitOut, if_pos hsent, absCk_flitSent,
    headFlight_arbitrated (by rw [hgone.clock]; exact hmode)] at hexec
  exact completes_of_exec hexec ⟨hgone.arrivals, hgone.busy, _, flightsOf_pushFlight _ _ _⟩

theorem arbitrated_data {r' : Nat} (hnamed : dstNamed s f.msg = true) (hlink : neighbour r.val out.val = some r')
    (hne : r' ≠ r.val) (hcut : f.cut = false) (hsent : f.sent ≠ 0) (hgood : ∀ g ∈ flightsOf s r', g.bad = false) :
    Completes (.routeMessageArbitrated r out false) s fun t => t.fabric.arrivals = s.fabric.arrivals ∧
      placeFree t (8 * r.val + out.val) = false ∧
      flightsOf t r' = modFirst (fun g => g.inp.val == arrivesAt out.val && msgVc g.msg == msgVc f.msg && g.toCome != 0)
        (flitIn (absCk s + linkCk r.val r')) (flightsOf s r') := by
  have hgone := flitGone_flitSent r.val out.val f s
  have hexec := exec_routeArbitrated (b := false) hup hmode hwinner
  rw [routeArbitrated_link hnamed hlink hcut, flitOut, if_neg hsent, absCk_flitSent] at hexec
  rw [← hgone.others r' hne] at hgood ⊢
  exact completes_of_exec hexec ⟨hgone.arrivals, hgone.busy, flightsOf_dataFlit _ hgood _ _ _⟩

theorem arbitrated_last (hnamed : dstNamed s f.msg = true)
    (hhere : out.val = 4 ∧ f.msg.dst.val = r.val ∨ out.val = 5 ∧ portNode r.val = some f.msg.dst.val)
    (hfailed : nodeFailed s f.msg.dst.val = false) (hcut : f.cut = false) (hwhole : isCut f.msg = false)
    (hflits : f.flits.length = 1) (hcome : f.toCome = 0) :
    Completes (.routeMessageArbitrated r out false) s fun t =>
      arrivals t f.msg.dst.val = arrivals s f.msg.dst.val ++ [f.msg] ∧
        ∀ n, n ≠ f.msg.dst.val → arrivals t n = arrivals s n := by
  have hgone := flitGone_flitSent r.val out.val f s
  have hexec := exec_routeArbitrated (b := false) hup hmode hwinner
  have hnode : (if out.val = 4 then some r.val else portNode r.val) = some f.msg.dst.val := by
    obtain ⟨hport, hdst⟩ | ⟨hport, hdst⟩ := hhere
    · rw [if_pos hport, hdst]
    · rw [if_neg (by omega), hdst]
  have hfailed' : nodeFailed (flitSent r.val out.val f s) f.msg.dst.val = false := by
    rw [nodeFailed, hgone.failed]
    exact hfailed
  rw [routeArbitrated_last hnamed (by omega) hcut hflits hcome, deliver_node hnode hfailed' hwhole,
    arrivals_congr s hgone.arrivals] at hexec
  exact completes_of_exec hexec ⟨arrivals_setArrivals _ _ _,
    fun n hn => (arrivals_setArrivals_other _ _ hn).trans (arrivals_congr s hgone.arrivals n)⟩

theorem arbitrated_more (hnamed : dstNamed s f.msg = true) (hport : 4 ≤ out.val)
    (hmore : 2 ≤ f.flits.length ∨ f.toCome ≠ 0) :
    Completes (.routeMessageArbitrated r out false) s fun t => t.fabric.arrivals = s.fabric.arrivals ∧
      placeFree t (8 * r.val + out.val) = false := by
  have hgone := flitGone_flitSent r.val out.val f s
  have hexec := exec_routeArbitrated (b := false) hup hmode hwinner
  rw [routeArbitrated_more hnamed hport hmore] at hexec
  exact completes_of_exec hexec ⟨hgone.arrivals, hgone.busy⟩

theorem arbitrated_discards (hbad : b = true ∨ dstNamed s f.msg = false) :
    Completes (.routeMessageArbitrated r out b) s fun t => t.fabric.arrivals = s.fabric.arrivals ∧
      Recorded 0x08 (blkRouter r.val) s t ∧ Raised (blkRouter r.val) 135 s t := by
  obtain ⟨u, k, n, hkeeps, harrivals, heq⟩ := routeArbitrated_discards (r := r.val) (out := out.val) hbad
  obtain ⟨hrecorded, hraised⟩ := routerTold_discardHeader hup hkeeps r.val f.msg k n b
  refine completes_of_exec ((exec_routeArbitrated hup hmode hwinner).trans (congrArg _ heq)) ⟨?_, hrecorded, hraised⟩
  rw [discardHeader_fabric, harrivals]

end

end Sys2Proof.Proofs
end

section
/-! Proofs for chapter 12: a router in scheduled mode switches the one message that stands at its inputs (R413, R416, R418,
R424). -/

namespace Sys2Proof.Proofs

open Sys2Proof Sys2Proof.Machine Sys2Proof.Laws

/-! ### The outputs of an entry -/

/-- Steps of a count of which one does something. -/
theorem upTo_single {α : Type} {n k : Nat} {f : α → Nat → α} {a : α} (hk : k < n) (h : ∀ j < n, j ≠ k → ∀ b, f b j = b) :
    upTo n f a = f a k := by
  induction n with
  | zero => omega
  | succ n ih =>
    rw [upTo_succ]
    by_cases hn : n = k
    · subst hn
      rw [upTo_same fun j hj => h j (by omega) (by omega) a]
    · rw [ih (by omega) fun j hj => h j (by omega), h n (by omega) hn]

section
variable {here : List Flight} {f : Flight} {e : BitVec 128} {i out : Nat}

/-- An output sends nothing where no message stands at an input that its entry names. -/
theorem slotOutput_none (hthrough : ∀ g ∈ here, g.inp.val ≠ reSel e out)
    (hsum : reSum e = out → ∀ g ∈ here, g.inp.val ≠ reSumSrc e) : slotOutput here e i out = (none, false, none) := by
  have hfind {inp : Nat} (h : ∀ g ∈ here, g.inp.val ≠ inp) : here.find? (fun g => g.inp.val == inp) = none := by
    simpa [List.find?_eq_none] using h
  simp only [slotOutput, hfind hthrough]
  split
  · rfl
  · split
    next hs => simp [hfind (hsum hs)]
    next => rfl

/-- An output that does not sum sends the message of the input that is switched to it (R416). -/
theorem slotOutput_through (hinp : f.inp.val ≠ 0) (hsel : reSel e out = f.inp.val) (hsum : reSum e ≠ out) :
    slotOutput [f] e i out = (some f.msg, false, none) := by
  simp [slotOutput, hsel, hinp, hsum]

theorem names_none {inp : Nat} (h : namesInput e inp = false) :
    (∀ o < 6, reSel e o ≠ inp) ∧ (reSum e ≠ 7 → reSumSrc e ≠ inp) := by
  simpa [namesInput] using h

theorem named_of_sel {inp : Nat} (hout : out < 6) (h : reSel e out = inp) : namesInput e inp = true := by
  simp only [namesInput, Bool.or_eq_true, List.any_eq_true]
  exact .inl ⟨out, List.mem_range.2 hout, by simpa using h⟩

end

/-! ### An entry's slot -/

/-- What an output of an entry's slot sends, sums or misroutes. -/
def switchOutput (r t : Nat) (good : List Flight) (p : BitVec 128 × Nat) (y : State) (o : Nat) : State :=
  let w := slotOutput good p.1 p.2 o
  let y1 := match w.1 with
    | some m => sendOut r o t (t + m.len * (if reCount p.1 ≤ 1 then 1 else rePeriod p.1)) m y
    | none => y
  let y2 := if w.2.1 then countEv (blkRouter r) 0x08 (match w.1 with | some m => 1 + m.len | none => 0) y1 else y1
  match w.2.2 with
  | some m => misroute r m y2
  | none => y2

/-- The ck of an entry's slot that carry flits (R665). -/
def slotFlits (good : List Flight) (p : BitVec 128 × Nat) : Nat :=
  (List.range 6).foldl (fun n o => match (slotOutput good p.1 p.2 o).1 with
    | some m => max n (1 + m.len)
    | none => n) 0

/-- What the slot of an entry does with the messages at the inputs. -/
def switchSlot (r t : Nat) (good : List Flight) (x : State) (p : BitVec 128 × Nat) : State :=
  uncountEv (blkRouter r) 0x09 (slotFlits good p) (upTo 6 (switchOutput r t good p) x)

/-- A message that no entry of `es` takes is a misroute. -/
def leaveOrMisroute (r : Nat) (es : List (BitVec 128 × Nat)) (x : State) (f : Flight) : State :=
  if es.any fun p => namesInput p.1 f.inp.val then x else misroute r f.msg x

section
variable {s u : State} {r t : Nat} {good : List Flight} {f : Flight} {e : BitVec 128} {i out : Nat}

theorem switchOutput_idle {p : BitVec 128 × Nat} {o : Nat} (h : slotOutput good p.1 p.2 o = (none, false, none)) (y : State) :
    switchOutput r t good p y o = y := by
  simp [switchOutput, h]

theorem switchSlot_idle {p : BitVec 128 × Nat} (h : ∀ o < 6, slotOutput good p.1 p.2 o = (none, false, none)) (x : State) :
    switchSlot r t good x p = uncountEv (blkRouter r) 0x09 (slotFlits good p) x := by
  rw [switchSlot, upTo_same fun o ho => switchOutput_idle (h o ho) x]

/-- Slots that send nothing change counters alone. -/
theorem keeps_idle_slots {ps : List Part} {es : List (BitVec 128 × Nat)}
    (h : ∀ p ∈ es, ∀ o < 6, slotOutput good p.1 p.2 o = (none, false, none)) (hK : Keeps ps s u) (hP : sub [.asy] ps = true) :
    Keeps ps s (es.foldl (switchSlot r t good) u) := by
  induction es generalizing u with
  | nil => exact hK
  | cons p es ih =>
    obtain ⟨hp, hes⟩ := List.forall_mem_cons.1 h
    rw [List.foldl_cons, switchSlot_idle hp]
    exact ih hes (keeps_uncountEv _ _ _ hK hP)

theorem sendOut_link {port t' r' : Nat} {m : Msg} (hport : port < 4) (hlink : neighbour r port = some r') (x : State) :
    sendOut r port t t' m x =
      pushFlight r' { inp := Fin.ofNat 8 (arrivesAt port), at_ := t + linkCk r r', since := t + linkCk r r', msg := m }
        (countEv (blkRouter r) (2 + port) (1 + m.data.length) x) := by
  simp [sendOut, hlink, hport]

/-- The slot of an entry that switches the message's input to one link, and does not sum, sends the message there. -/
theorem switchSlot_link {r' : Nat} (hsum : reSum e = 7) (hout : out < 4) (hinp : f.inp.val ≠ 0)
    (hsel : ∀ o < 6, reSel e o = f.inp.val ↔ o = out) (hlink : neighbour r out = some r') (hK : Keeps [.fabric, .asy] s u) :
    let y := switchSlot r t [f] u (e, i)
    Keeps [.fabric, .asy] s y ∧ y.fabric.arrivals = u.fabric.arrivals ∧
      ∃ l, flightsOf y r' = l ++ [{ inp := Fin.ofNat 8 (arrivesAt out), at_ := t + linkCk r r', since := t + linkCk r r'
                                    msg := f.msg }] := by
  have hidle (o : Nat) (ho : o < 6) (hne : o ≠ out) : slotOutput [f] e i o = (none, false, none) :=
    slotOutput_none (by simpa using fun h => hne ((hsel o ho).1 h.symm)) (by omega)
  have hsends : slotOutput [f] e i out = (some f.msg, false, none) :=
    slotOutput_through hinp ((hsel out (by omega)).2 rfl) (by omega)
  dsimp only
  rw [switchSlot, upTo_single (k := out) (by omega) fun o ho hne y => switchOutput_idle (hidle o ho hne) y]
  simp only [switchOutput, hsends, Bool.false_eq_true, if_false, sendOut_link hout hlink]
  refine ⟨?_, ?_, ?_⟩
  · exact keeps_uncountEv _ _ _ (keeps_pushFlight _ _ (keeps_countEv _ _ _ hK (by decide)) (by decide)) (by decide)
  · rw [uncountEv, countEv_fabric]
    exact congrArg (·.arrivals) (countEv_fabric _ _ _ _)
  · exact ⟨_, (flightsOf_congr _ (congrArg (·.flights) (countEv_fabric _ _ _ _)) r').trans (flightsOf_pushFlight _ _ _)⟩

end

/-! ### One message at the inputs -/

section
variable {s : State} {r : Nat} {f g : Flight} {e : BitVec 128} {i : Nat} {err : Option FlitErr}

theorem routeScheduled_single (hhold : s.clock.hold = false) (hck : s.clock.ck < 16384) (hf : flightsOf s r = [f])
    (hat : f.at_ = absCk s) :
    routeScheduled r err s = (headersGood s err [f]).foldl (leaveOrMisroute r (entriesAt s r s.clock.ck))
      ((entriesAt s r s.clock.ck).foldl (switchSlot r (absCk s) (headersGood s err [f]))
        ((headersGood s err [f]).foldl (fun x f => routerLooks r f.msg x) (headersBad r err [f] (setFlights r [] s)))) := by
  have htick : absCk s / 16384 = s.clock.tick.toNat := by unfold absCk; omega
  have hnow : absCk s % 16384 = s.clock.ck := by unfold absCk; omega
  simp only [routeScheduled, hf, List.foldl_cons, List.foldl_nil, hat, min_self, List.filter_cons, beq_self_eq_true, if_true,
    List.filter_nil, bne_self_eq_false, Bool.false_eq_true, if_false, htick, hnow, holding, hhold, Bool.not_false, and_self]
  rfl

/-- The message as it is switched, where an entry takes it. -/
theorem routeScheduled_taken (hhold : s.clock.hold = false) (hck : s.clock.ck < 16384) (hf : flightsOf s r = [f])
    (hat : f.at_ = absCk s) (hgood : headersGood s err [f] = [g]) (hes : entriesAt s r s.clock.ck = [(e, i)])
    (hnames : namesInput e g.inp.val = true) :
    routeScheduled r err s =
      switchSlot r (absCk s) [g] (routerLooks r g.msg (headersBad r err [f] (setFlights r [] s))) (e, i) := by
  rw [routeScheduled_single hhold hck hf hat, hgood, hes]
  simp [leaveOrMisroute, hnames]

theorem errorAt_eq {x : FlitErr} (hinp : x.inp = f.inp) (hle : x.flit.val ≤ f.msg.data.length) :
    errorAt (some x) f = some x.flit.val :=
  if_pos ⟨hinp, hle⟩

theorem headers_none (hnamed : dstNamed s f.msg = true) (u : State) (hu : ∀ m, dstNamed u m = dstNamed s m) :
    headersGood s none [f] = [f] ∧ headersBad r none [f] u = u := by
  simp [headersGood, headersBad, errorAt, hnamed, hu]

/-- R413: a message whose head is in error is discarded whole. -/
theorem headers_head {x : FlitErr} (hnamed : dstNamed s f.msg = true) (hinp : x.inp = f.inp) (hflit : x.flit.val = 0)
    (u : State) : headersGood s (some x) [f] = [] ∧
      headersBad r (some x) [f] u = discardHeader r f.msg 0 (1 + f.msg.data.length) true u := by
  simp [headersGood, headersBad, errorAt_eq hinp (hflit ▸ Nat.zero_le _), hnamed, hflit]

/-- R413: a message of which a data flit is in error goes on without that flit and those behind it. -/
theorem headers_data {x : FlitErr} (hnamed : dstNamed s f.msg = true) (hinp : x.inp = f.inp) (hpos : 0 < x.flit.val)
    (hle : x.flit.val ≤ f.msg.data.length) (u : State) : headersGood s (some x) [f] = [cutMsg x.flit.val f] ∧
      headersBad r (some x) [f] u =
        discardHeader r f.msg x.flit.val (1 + f.msg.data.length - x.flit.val) true u := by
  obtain ⟨k, hk⟩ := Nat.exists_eq_succ_of_ne_zero hpos.ne'
  simp [headersGood, headersBad, errorAt_eq hinp hle, hnamed, hk]

theorem keeps_setFlights_nil (r : Nat) (s : State) : Keeps [.fabric, .asy, .free] s (setFlights r [] s) :=
  keeps_setFlights r [] (.refl _ s) (by decide)

/-- R424: a message that no entry takes is a misroute, behind what has only been counted. -/
theorem routeScheduled_misroute (hhold : s.clock.hold = false) (hck : s.clock.ck < 16384) (hf : flightsOf s r = [f])
    (hat : f.at_ = absCk s) (hnamed : dstNamed s f.msg = true)
    (hnone : ∀ p ∈ entriesAt s r s.clock.ck, namesInput p.1 f.inp.val = false) :
    ∃ u, Keeps [.asy] (setFlights r [] s) u ∧ Keeps [.fabric, .asy, .free] s u ∧
      routeScheduled r none s = misroute r f.msg u := by
  obtain ⟨hgood, hbad⟩ := headers_none (r := r) hnamed (setFlights r [] s) fun _ => rfl
  have hidle : ∀ p ∈ entriesAt s r s.clock.ck, ∀ o < 6, slotOutput [f] p.1 p.2 o = (none, false, none) := by
    intro p hp o ho
    obtain ⟨hsel, hsum⟩ := names_none (hnone p hp)
    exact slotOutput_none (by simpa using (hsel o ho).symm) fun hs => by simpa using (hsum (by omega)).symm
  refine ⟨(entriesAt s r s.clock.ck).foldl (switchSlot r (absCk s) [f]) (routerLooks r f.msg (setFlights r [] s)),
    keeps_idle_slots hidle (keeps_routerLooks r f.msg (.refl _ _) (by decide)) (by decide),
    keeps_idle_slots hidle (keeps_routerLooks r f.msg (keeps_setFlights_nil r s) (by decide)) (by decide), ?_⟩
  have hany : ((entriesAt s r s.clock.ck).any fun p => namesInput p.1 f.inp.val) = false := by
    simpa [List.any_eq_false] using hnone
  rw [routeScheduled_single hhold hck hf hat, hgood, hbad]
  simp [leaveOrMisroute, hany]

/-- R413: nothing is left to switch of a message whose head is in error. -/
theorem routeScheduled_headError {x : FlitErr} (hhold : s.clock.hold = false) (hck : s.clock.ck < 16384)
    (hf : flightsOf s r = [f]) (hat : f.at_ = absCk s) (hnamed : dstNamed s f.msg = true) (hinp : x.inp = f.inp)
    (hflit : x.flit.val = 0) :
    Keeps [.asy] (discardHeader r f.msg 0 (1 + f.msg.data.length) true (setFlights r [] s)) (routeScheduled r (some x) s) := by
  obtain ⟨hgood, hbad⟩ := headers_head (r := r) hnamed hinp hflit (setFlights r [] s)
  rw [routeScheduled_single hhold hck hf hat, hgood, hbad]
  exact keeps_idle_slots (fun p _ o _ => slotOutput_none (List.forall_mem_nil _) fun _ => List.forall_mem_nil _)
    (.refl _ _) (by decide)

end

/-! ### The command -/

section
variable {s : State} {r : RouterN} {f : Flight}

/-- One message stands at the inputs of a router that switches by its setting, and has come in this ck. -/
structure OneWaits (s : State) (r : RouterN) (f : Flight) : Prop where
  up : s.standby.mainUp = true
  mode : s.clock.mode = .scheduled
  noHold : s.clock.hold = false
  ck : s.clock.ck < 16384
  here : flightsOf s r.val = [f]
  now : f.at_ = absCk s
  named : dstNamed s f.msg = true
  input : f.inp.val ≠ 0

theorem OneWaits.exec_eq (h : OneWaits s r f) (err : Option FlitErr) :
    exec (.routeMessageScheduled r err) s = .next (routeScheduled r.val err s) :=
  whenOk_of s (by simp [mainUp, h.up, h.mode, h.here, h.now]) _

theorem OneWaits.misroute (h : OneWaits s r f)
    (hnone : ∀ p ∈ entriesAt s r.val s.clock.ck, namesInput p.1 f.inp.val = false) :
    Completes (.routeMessageScheduled r none) s fun t => flightsOf t r.val = [] ∧
      t.fabric.arrivals = s.fabric.arrivals ∧ Recorded 0x09 (blkRouter r.val) s t ∧ Raised (blkRouter r.val) 135 s t ∧
      t.clock.leaving = true := by
  obtain ⟨u, hcounted, hkeeps, heq⟩ := routeScheduled_misroute h.noHold h.ck h.here h.now h.named hnone
  have hfabric : (Machine.misroute r.val f.msg u).fabric = (setFlights r.val [] s).fabric :=
    (misroute_fabric _ _ _).trans (fabric_same hcounted (by decide))
  obtain ⟨hrecorded, hraised⟩ := routerTold_misroute h.up hkeeps r.val f.msg
  have hmode : u.clock.mode = .scheduled := by rw [clock_same hkeeps (by decide), h.mode]
  exact completes_of_exec ((h.exec_eq none).trans (congrArg _ heq))
    ⟨(flightsOf_congr _ (congrArg (·.flights) hfabric) _).trans (flightsOf_setFlights _ _ _),
      congrArg (·.arrivals) hfabric, hrecorded, hraised, leaving_misroute hmode _ _⟩

/-- A flit of the message is discarded for its header. -/
theorem OneWaits.discarded (h : OneWaits s r f) (k n : Nat) :
    let u := discardHeader r.val f.msg k n true (setFlights r.val [] s)
    RouterTold 0x08 r.val s u ∧ u.clock.leaving = true ∧ u.fabric = (setFlights r.val [] s).fabric :=
  ⟨routerTold_discardHeader h.up (keeps_setFlights_nil r.val s) _ _ _ _ _,
    leaving_discardHeader (s := setFlights r.val [] s) h.mode _ _ _ _ _, discardHeader_fabric _ _ _ _ _ _⟩

theorem OneWaits.headError (h : OneWaits s r f) {x : FlitErr} (hinp : x.inp = f.inp) (hflit : x.flit.val = 0) :
    Completes (.routeMessageScheduled r (some x)) s fun t => flightsOf t r.val = [] ∧
      t.fabric.arrivals = s.fabric.arrivals ∧ Recorded 0x08 (blkRouter r.val) s t ∧ Raised (blkRouter r.val) 135 s t ∧
      t.clock.leaving = true := by
  have hcounted := routeScheduled_headError h.noHold h.ck h.here h.now h.named hinp hflit
  obtain ⟨htold, hleaving, hsame⟩ := h.discarded 0 (1 + f.msg.data.length)
  generalize discardHeader r.val f.msg 0 (1 + f.msg.data.length) true (setFlights r.val [] s) = u at *
  have hfabric := (fabric_same hcounted (by decide)).trans hsame
  obtain ⟨hrecorded, hraised⟩ :=
    htold.of_same (faults_same hcounted (by decide)) (hcounted.only.hub.resolve_left (by decide))
  exact completes_of_exec (h.exec_eq _)
    ⟨(flightsOf_congr _ (congrArg (·.flights) hfabric) _).trans (flightsOf_setFlights _ _ _),
      congrArg (·.arrivals) hfabric, hrecorded, hraised,
      (congrArg (·.leaving) (clock_same hcounted (by decide))).trans hleaving⟩

section
variable {e : BitVec 128} {i out r' : Nat} (h : OneWaits s r f) (hes : entriesAt s r.val s.clock.ck = [(e, i)])
  (hsum : reSum e = 7) (hout : out < 4) (hsel : ∀ o < 6, reSel e o = f.inp.val ↔ o = out)
  (hlink : neighbour r.val out = some r')
include h hes hsum hout hsel hlink

/-- What is left of the message, `g`, stands at the neighbour of the output that its entry switches it to. -/
theorem OneWaits.switched {g : Flight} {err : Option FlitErr} {u : State} (hgood : headersGood s err [f] = [g])
    (hinp : g.inp = f.inp) (hu : headersBad r.val err [f] (setFlights r.val [] s) = u) :
    let t := routeScheduled r.val err s
    Keeps [.fabric, .asy] u t ∧ t.fabric.arrivals = u.fabric.arrivals ∧
      ∃ l, flightsOf t r' = l ++ [{ inp := Fin.ofNat 8 (arrivesAt out), at_ := absCk s + linkCk r.val r'
                                    since := absCk s + linkCk r.val r', msg := g.msg }] := by
  rw [← hinp] at hsel
  have hnames : namesInput e g.inp.val = true := named_of_sel (by omega) ((hsel out (by omega)).2 rfl)
  have hlooks : Keeps [.fabric, .asy] u (routerLooks r.val g.msg u) := keeps_routerLooks _ _ (.refl _ u) (by decide)
  obtain ⟨hkeeps, harrivals, hthere⟩ :=
    switchSlot_link (t := absCk s) (i := i) hsum hout (hinp ▸ h.input) hsel hlink hlooks
  have hfabric : (routerLooks r.val g.msg u).fabric = u.fabric :=
    fabric_same (keeps_routerLooks _ _ (.refl [.asy] u) (by decide)) (by decide)
  dsimp only
  rw [routeScheduled_taken h.noHold h.ck h.here h.now hgood hes hnames, hu]
  exact ⟨hkeeps, harrivals.trans (congrArg (·.arrivals) hfabric), hthere⟩

theorem OneWaits.passes : Completes (.routeMessageScheduled r none) s fun t => t.fabric.arrivals = s.fabric.arrivals ∧
    t.faults = s.faults ∧ t.clock = s.clock ∧
    ∃ l, flightsOf t r' = l ++ [{ inp := Fin.ofNat 8 (arrivesAt out), at_ := absCk s + linkCk r.val r'
                                  since := absCk s + linkCk r.val r', msg := f.msg }] := by
  obtain ⟨hgood, hbad⟩ := headers_none (r := r.val) h.named (setFlights r.val [] s) fun _ => rfl
  obtain ⟨hkeeps, harrivals, hthere⟩ := h.switched hes hsum hout hsel hlink hgood rfl hbad
  exact completes_of_exec (h.exec_eq none)
    ⟨harrivals, (faults_same hkeeps (by decide) :), (clock_same hkeeps (by decide) :), hthere⟩

theorem OneWaits.dataError {x : FlitErr} (hinp : x.inp = f.inp) (hpos : 0 < x.flit.val)
    (hle : x.flit.val ≤ f.msg.data.length) :
    Completes (.routeMessageScheduled r (some x)) s fun t => t.fabric.arrivals = s.fabric.arrivals ∧
      Recorded 0x08 (blkRouter r.val) s t ∧ t.clock.leaving = true ∧
      ∃ l, flightsOf t r' = l ++ [{ inp := Fin.ofNat 8 (arrivesAt out), at_ := absCk s + linkCk r.val r'
                                    since := absCk s + linkCk r.val r'
                                    msg := { f.msg with data := f.msg.data.take (x.flit.val - 1) } }] := by
  obtain ⟨hgood, hbad⟩ := headers_data (r := r.val) h.named hinp hpos hle (setFlights r.val [] s)
  obtain ⟨htold, hleaving, hsame⟩ := h.discarded x.flit.val (1 + f.msg.data.length - x.flit.val)
  generalize discardHeader r.val f.msg x.flit.val (1 + f.msg.data.length - x.flit.val) true (setFlights r.val [] s) = u at *
  obtain ⟨hkeeps, harrivals, hthere⟩ := h.switched hes hsum hout hsel hlink hgood rfl hbad
  obtain ⟨hrecorded, -⟩ := htold.of_same (faults_same hkeeps (by decide)) (hkeeps.only.hub.resolve_left (by decide))
  exact completes_of_exec (h.exec_eq _)
    ⟨harrivals.trans (congrArg (·.arrivals) hsame), hrecorded,
      (congrArg (·.leaving) (clock_same hkeeps (by decide))).trans hleaving, hthere⟩

end

end

end Sys2Proof.Proofs
end

section
/-! Proof for chapter 12: an endpoint that takes no flit is declared failed, and with it the statement on routers. -/

namespace Sys2Proof.Proofs

open Sys2Proof Sys2Proof.Machine Sys2Proof.Laws

/-! ### An endpoint fails -/

section
variable {s : State} {n : Nat}

theorem targetDown_places (m : Msg) (s : State) : (targetDown m s).fabric.failed = s.fabric.failed ∧
    (targetDown m s).fabric.arrivals = s.fabric.arrivals ∧ (targetDown m s).fabric.flights = s.fabric.flights := by
  unfold targetDown
  repeat' split
  all_goals exact ⟨rfl, rfl, rfl⟩

/-- Node `n` is listed as failed, and nothing waits for it at its port and router any more. -/
def endpointEmptied (n : Nat) (s : State) : State :=
  setFlights (nodeRouter n) ((flightsOf s (nodeRouter n)).filter fun f => f.msg.dst.val != n)
    (setArrivals n [] { s with fabric := { s.fabric with failed := s.fabric.failed ++ [n] } })

/-- A message that waited for the endpoint of router `r` is counted, and answered where it asks for an answer (R681). -/
def waitingAnswered (r : Nat) (t : State) (m : Msg) : State := targetDown m (countEv (blkRouter r) 0x0F (1 + m.len) t)

/-- The answers and the counts leave nodes and routers alone. -/
theorem failEndpoint_eq (n : Nat) (s : State) : ∃ u, Keeps [.fabric, .asy, .free] s u ∧
    u.fabric.failed = (endpointEmptied n s).fabric.failed ∧ u.fabric.arrivals = (endpointEmptied n s).fabric.arrivals ∧
    u.fabric.flights = (endpointEmptied n s).fabric.flights ∧
    failEndpoint n s =
      hubRaiseBy (blkRouter (nodeRouter n)) 135 (recordAt 0x0A (blkRouter (nodeRouter n)) n u) := by
  have hemptied : Keeps [.fabric, .asy, .free] s (endpointEmptied n s) :=
    keeps_setFlights _ _ (keeps_setArrivals _ _ (KeepsMk.w_fabric (.refl _ s) (by decide)) (by decide)) (by decide)
  have hfailed (t : State) (m : Msg) : (waitingAnswered (nodeRouter n) t m).fabric.failed = t.fabric.failed :=
    (targetDown_places m _).1.trans (congrArg (·.failed) (countEv_fabric ..))
  have harrivals (t : State) (m : Msg) : (waitingAnswered (nodeRouter n) t m).fabric.arrivals = t.fabric.arrivals :=
    (targetDown_places m _).2.1.trans (congrArg (·.arrivals) (countEv_fabric ..))
  have hflights (t : State) (m : Msg) : (waitingAnswered (nodeRouter n) t m).fabric.flights = t.fabric.flights :=
    (targetDown_places m _).2.2.trans (congrArg (·.flights) (countEv_fabric ..))
  exact ⟨_, Keeps.foldl _ hemptied fun t m ht => keeps_targetDown m (keeps_countEv _ _ _ ht (by decide)) (by decide),
    foldl_same (fun t => t.fabric.failed) hfailed _ _, foldl_same (fun t => t.fabric.arrivals) harrivals _ _,
    foldl_same (fun t => t.fabric.flights) hflights _ _, rfl⟩

theorem endpoint_fails {n : NodeN} (hup : s.standby.mainUp = true) (hnode : nodeKind s n.val ≠ .none)
    (hgood : nodeFailed s n.val = false) (hwaits : arrivals s n.val ≠ []) :
    Completes (.endpointFailed n) s fun t => nodeFailed t n.val = true ∧ arrivals t n.val = [] ∧
      (∀ f ∈ flightsOf t (nodeRouter n.val), f.msg.dst.val ≠ n.val) ∧
      (∀ k, k ≠ n.val → arrivals t k = arrivals s k) ∧
      Recorded 0x0A (blkRouter (nodeRouter n.val)) s t ∧ Raised (blkRouter (nodeRouter n.val)) 135 s t := by
  have hexec : exec (.endpointFailed n) s = .next (failEndpoint n.val s) :=
    whenOk_of s (by simp [mainUp, hup, hnode, hgood, hwaits]) _
  obtain ⟨u, hkeeps, hfailed, harrivals, hflights, heq⟩ := failEndpoint_eq n.val s
  obtain ⟨hrecorded, hraised⟩ := routerTold_hub hup hkeeps 0x0A (nodeRouter n.val) n.val
  rw [heq] at hexec
  generalize ht : hubRaiseBy (blkRouter (nodeRouter n.val)) 135 (recordAt 0x0A (blkRouter (nodeRouter n.val)) n.val u) = t at *
  have hfabric : t.fabric = u.fabric := by
    rw [← ht, hubRaiseBy_fabric, recordAt_fabric]
  rw [← hfabric] at hfailed harrivals hflights
  refine completes_of_exec hexec ⟨?_, ?_, ?_, fun k hk => ?_, hrecorded, hraised⟩
  · rw [nodeFailed, hfailed]
    simp [endpointEmptied, setFlights, setArrivals]
  · exact (arrivals_congr (setArrivals n.val [] s) harrivals _).trans (arrivals_setArrivals _ _ _)
  · rw [flightsOf_congr _ hflights, endpointEmptied, flightsOf_setFlights]
    simp
  · exact (arrivals_congr (setArrivals n.val [] s) harrivals k).trans (arrivals_setArrivals_other _ _ hk)

end

/-- Settles O39: by mode, and by where a flit or message goes: over a link, to a node, or to the fault log. -/
theorem routersSwitchAndDiscardMessages : Obligations.RoutersSwitchAndDiscardMessages := by
  unfold Obligations.RoutersSwitchAndDiscardMessages
  refine ⟨fun s r out f hup hmode hwinner => ?arbitrated, fun s r f hup hmode hhold hck hhere hnow hnamed hinp => ?scheduled,
    fun s n hup hnode hgood hwaits => endpoint_fails hup hnode hgood hwaits⟩
  case arbitrated =>
    exact ⟨fun r' hnamed hlink hcut hsent => arbitrated_head hup hmode hwinner hnamed hlink hcut hsent,
      fun r' hnamed hlink hne hcut hsent hgood => arbitrated_data hup hmode hwinner hnamed hlink hne hcut hsent hgood,
      fun hnamed hhere hgood hcut hwhole hflits hcome =>
        arbitrated_last hup hmode hwinner hnamed hhere hgood hcut hwhole hflits hcome,
      fun hnamed hport hmore => arbitrated_more hup hmode hwinner hnamed hport hmore,
      fun b hbad => arbitrated_discards hup hmode hwinner hbad⟩
  case scheduled =>
    have h : OneWaits s r f := ⟨hup, hmode, hhold, hck, hhere, hnow, hnamed, hinp⟩
    exact ⟨h.misroute, fun x hinp hflit => h.headError hinp hflit, fun e i out r' hes hsum hout hsel hlink =>
      ⟨h.passes hes hsum hout hsel hlink, fun x hinp hpos hle => h.dataError hes hsum hout hsel hlink hinp hpos hle⟩⟩

end Sys2Proof.Proofs
end

section
/-! Proofs for the whole machine: a step runs the command at the front of the queue, every command answers a next state, and it
writes only its own parts. -/

namespace Sys2Proof.Proofs

open Sys2Proof Sys2Proof.Machine Sys2Proof.Laws

/-- Settles O1: the queue is not empty. -/
theorem stepRunsFrontCommand : Obligations.StepRunsFrontCommand := by
  unfold Obligations.StepRunsFrontCommand
  exact fun c rest s => step_cons (s := { s with pending := c :: rest }) rfl

/-- Settles O7: the meaning of every command keeps what it does not write. -/
theorem commandsWriteOnlyTheirParts : Obligations.CommandsWriteOnlyTheirParts := by
  unfold Obligations.CommandsWriteOnlyTheirParts
  exact fun c s t h => (keeps_exec c (Keeps.refl _ s) (sub_refl _) t h).only

/-! ### Every command answers a next state -/

/-- An outcome is a next state. -/
def Answers (r : Host.Outcome State Fault Refusal) : Prop := ∃ t, r = .next t

section
variable (s : State)

theorem answers_next : Answers (.next s) := ⟨s, rfl⟩

theorem answers_whenOk (ok : Bool) (t : State) : Answers (whenOk s ok t) := ⟨_, rfl⟩

theorem answers_nodeRow (n : Nat) (op : BitVec 8) (f : Nat → Msg → State → Option State) : Answers (nodeRow n op f s) := by
  unfold nodeRow
  split
  · exact answers_next s
  · split
    · exact answers_whenOk s _ _
    · exact answers_next s

theorem answers_commandWith (opc k : Nat) (used : List (Nat × Nat)) (checks : Cmd → State → List (Nat × Bool))
    (need : Cmd → Option Nat) (data : Cmd → State → Option (Nat × Word)) (f : Cmd → State → CmdEnd) :
    Answers (commandWith opc k used checks need data f s) := by
  unfold commandWith
  split
  · exact answers_next s
  · exact answers_whenOk s _ _

theorem answers_issueRow (p : XInsn → Bool) (o : Ord) (h : HartN) : Answers (issueRow p o h s) := by
  unfold issueRow
  split
  · split
    · exact answers_whenOk s _ _
    · exact answers_next s
  · exact answers_next s

theorem answers_ctlRow (cmd : Nat) (f : MgmtReq → State → State) : Answers (ctlRow cmd f s) := by
  unfold ctlRow
  split
  · exact answers_next s
  · exact answers_whenOk s _ _

theorem answers_thRow (opc : Nat) (sel : MgmtReq → Bool) (f : MgmtReq → State → State) : Answers (thRow opc sel f s) := by
  unfold thRow
  split
  · exact answers_next s
  · exact answers_whenOk s _ _

end

theorem answers_command (opc k : Nat) (used : List (Nat × Nat)) (checks : Cmd → State → List (Nat × Bool))
    (need : Cmd → Option Nat) (f : Cmd → State → CmdEnd) (s : State) :
    Answers (command opc k used checks need f s) := answers_commandWith s _ _ _ _ _ _ _

/-- The rows that share a form; then the rows that look at one thing before they act, and those that look at more. -/
theorem exec_answers (c : Instr) (s : State) : Answers (exec c s) := by
  cases c
  case read | write | writePart | atomic | sumwrite | signal | readResp | writeAck | stale => exact answers_nodeRow s _ _ _
  case mmA | mmB | mmAB | mmBwd | tld | tst | strGo | strStop | dtFill | drAct | drDact | drStat | claspSig | claspWait |
      claspTake | chWr | chRd | chAcc => exact answers_issueRow s _ _ _
  case setEndpointId | getEndpointId | getMctpVersionSupport | getMessageTypeSupport | getVendorDefinedMsgSupport =>
    dsimp only [exec]
    exact answers_ctlRow s _ _
  case mbxPost | regRead | regWrite | stageWrite | stageRead | powerOn | powerOff | powerCycle | takeoverRequest |
      takeoverRelease | attestMake | attestFetch => exact answers_thRow s _ _ _
  case nop | identify | status | posmap | map | unmap | window | split | loadBundle | dropBundle | bind | unbind |
      cohortRead | genWrite | redCfg | run | stop | ledgerRead | ledgerCtl | cntSnap | fltRead | fltAck | fwStage |
      fwActivate | subst | spareTest =>
    dsimp only [exec]
    exact answers_command _ _ _ _ _ _ s
  case loadProgram | redWrite | optWrite | cntConfig =>
    dsimp only [exec]
    exact answers_commandWith s _ _ _ _ _ _ _
  case fence | fenceI | wfi | qbar | dtWr | dtRd | trel | l1Inv | l1InvA | xqctlResume | xqctlDiscard =>
    simp only [exec, execFence, execFenceI, execWfi, execQbar, execDtWr, execDtRd, execTrel, execL1Inv, execL1InvA,
      execXqctlResume, execXqctlDiscard]
    split <;> exact ⟨_, rfl⟩
  case entryStart | entryComplete | pageWalkComplete | weightsActivate | arrayRowEnter | drainPrepare | drainRowEnter |
      strandRunIssue | routeMessageArbitrated | bezelServeRequest | memoryScrub | uncorrReread =>
    simp only [exec, execEntryStart, execEntryComplete, execPageWalkComplete, execWeightsActivate, execArrayRowEnter,
      execDrainPrepare, execDrainRowEnter, execStrandRunIssue, execRouteMessageArbitrated,
      execBezelServeRequest, execMemoryScrub, execUncorrReread]
    split <;> exact ⟨_, rfl⟩
  case laneFailure | chainRequestIssue | chainSignalApply | chRdResponseTimeout | chainShellRemoval | sampledCheckCompare |
      sampledGranuleCopy | fanoutSignal | memRd | memWr | memWrPtl | memSpecRd | uioCompletion | uioTimeout =>
    simp only [exec, execLaneFailure, execChainRequestIssue, execChainSignalApply, execChRdResponseTimeout,
      execChainShellRemoval, execSampledCheckCompare, execSampledGranuleCopy, execFanoutSignal, execMemRd, execMemWr,
      execMemWrPtl, execMemSpecRd, execUioCompletion, execUioTimeout]
    split <;> exact ⟨_, rfl⟩
  case shadowLoad | dumpRecordWrite | handoverTickStart | handoverReady | handoverReadyTimeout | fwActivateTimeout |
      traceWrite | mgmtEventSend | retrainPhaseEnd | pageRetirement | deferredRetirement | mailboxCompletionWrite =>
    simp only [exec, execShadowLoad, execDumpRecordWrite, execHandoverTickStart, execHandoverReady,
      execHandoverReadyTimeout, execFwActivateTimeout, execTraceWrite, execMgmtEventSend, execRetrainPhaseEnd,
      execPageRetirement, execDeferredRetirement, execMailboxCompletionWrite]
    split <;> exact ⟨_, rfl⟩
  case strandRunConsume | scalarLoad | scalarStore | scalarAtomic | csrWrite | pageWalk | endpointInjection | laneFrame | fusedUpdate |
      memInv | scalarInstruction =>
    simp only [exec, execStrandRunConsume, execScalarLoad, execScalarStore, execScalarAtomic, execCsrWrite, execPageWalk,
      execEndpointInjection, execLaneFrame, execFusedUpdate, execMemInv, execScalarInstruction]
    repeat' split
    all_goals exact ⟨_, rfl⟩
  all_goals exact ⟨_, rfl⟩

/-- Settles O8: the queue is not among the parts that a command, or a ck, may write, and no command's meaning stops. -/
theorem stepsTakeTheFrontOffAndNeverFault : Obligations.StepsTakeTheFrontOffAndNeverFault := by
  unfold Obligations.StepsTakeTheFrontOffAndNeverFault
  refine ⟨fun s t h => (keeps_step s t h).only.pending.resolve_left ?_, exec_answers⟩
  unfold stepWrites
  split
  · decide
  next c _ _ => cases c <;> simp [writes]

end Sys2Proof.Proofs
end

section
/-! Proofs for chapters 18, 19 and 26: halves of a register, writes that are turned away, and the registers of the commit, of the
mask bits and of the host link. -/

namespace Sys2Proof.Proofs

open Sys2Proof Sys2Proof.Machine Sys2Proof.Laws

/-! ### Halves of a slot -/

section
variable {i : Nat}

theorem getLsbD_lowHalf : (0xFFFFFFFF#64).getLsbD i = decide (i < 32) := by
  change (BitVec.ofNat 64 (2 ^ 32 - 1)).getLsbD i = _
  rw [BitVec.getLsbD_ofNat, Nat.testBit_two_pow_sub_one]
  grind

theorem getLsbD_highHalf : (0xFFFFFFFF00000000#64).getLsbD i = (decide (32 ≤ i) && decide (i < 64)) := by
  change (0xFFFFFFFF#64 <<< 32).getLsbD i = _
  rw [BitVec.getLsbD_shiftLeft, getLsbD_lowHalf]
  grind

theorem getLsbD_wrWidth_low (old v : Word) :
    (wrWidth .low old v).getLsbD i = if i < 32 then v.getLsbD i else old.getLsbD i := by
  rw [wrWidth, BitVec.getLsbD_or, BitVec.getLsbD_and, BitVec.getLsbD_and, getLsbD_lowHalf, getLsbD_highHalf]
  by_cases h : 64 ≤ i
  · simp [BitVec.getLsbD_of_ge _ _ h]
  · grind

theorem getLsbD_wrWidth_high (old v : Word) :
    (wrWidth .high old v).getLsbD i = if i < 32 then old.getLsbD i else decide (i < 64) && v.getLsbD (i - 32) := by
  rw [wrWidth, BitVec.getLsbD_or, BitVec.getLsbD_and, BitVec.getLsbD_shiftLeft, getLsbD_lowHalf]
  grind

theorem getLsbD_rdWidth_low (v : Word) : (rdWidth .low v).getLsbD i = (decide (i < 32) && v.getLsbD i) := by
  rw [rdWidth, BitVec.getLsbD_and, getLsbD_lowHalf, Bool.and_comm]

theorem getLsbD_rdWidth_high (v : Word) : (rdWidth .high v).getLsbD i = v.getLsbD (i + 32) := by
  rw [rdWidth, BitVec.getLsbD_ushiftRight, Nat.add_comm]

end

/-- Settles O14: bit by bit, the half that an access reaches, and the fields that it covers. -/
theorem halfAccessesReachTheirHalf : Obligations.HalfAccessesReachTheirHalf := by
  unfold Obligations.HalfAccessesReachTheirHalf
  refine ⟨fun old v i => ⟨fun h => ?low, fun h h64 => ?high, rfl, rfl, fun hi lo x zero hle hlt => ⟨rfl, ?_, ?_⟩⟩,
    fun off h => ?form⟩
  case low =>
    rw [getLsbD_rdWidth_low, getLsbD_rdWidth_high, getLsbD_wrWidth_low, getLsbD_wrWidth_high]
    simp [h]
  case high =>
    rw [getLsbD_rdWidth_low, getLsbD_rdWidth_high, getLsbD_wrWidth_low, getLsbD_wrWidth_high,
      BitVec.getLsbD_of_ge v (i + 32) (by omega)]
    simp [Nat.not_lt.2 h, h64]
  case form => simp [accessWidth, h]
  · simp [rc, reads]
  · simp [rc, reads]

/-- A field of the lower half after a write of either half, and after a write of the whole slot (R797). -/
theorem bitsOf_wrWidth {lo n : Nat} (h : lo + n ≤ 32) (w : Width) (old v : Word) :
    bitsOf (wrWidth w old v).toNat lo n = if w = .high then bitsOf old.toNat lo n else bitsOf v.toNat lo n := by
  have hbit (x y : Word) (hxy : ∀ i < 32, x.getLsbD i = y.getLsbD i) : bitsOf x.toNat lo n = bitsOf y.toNat lo n := by
    refine Nat.eq_of_testBit_eq fun k => ?_
    simp only [bitsOf, Nat.testBit_mod_two_pow, Nat.testBit_div_two_pow]
    by_cases hk : k < n
    · rw [decide_eq_true hk, Bool.true_and, Bool.true_and]
      exact hxy (k + lo) (by omega)
    · simp [hk]
  cases w with
  | full => rfl
  | low => exact hbit _ _ fun i hi => by rw [getLsbD_wrWidth_low, if_pos hi]
  | high => exact hbit _ _ fun i hi => by rw [getLsbD_wrWidth_high, if_pos hi]

/-! ### A register is written -/

section
variable {s : State} {c : Instr} {m : Master} {off : Nat} {f : State → State}

theorem reaches_of_link (hlink : m = .host → s.host.link = 2) : reaches s m = true := by
  cases m with
  | host => simp [reaches, linkUp, hlink rfl]
  | core => rfl
  | mgmt => rfl

theorem reaches_of_ne (hm : m ≠ .host) (s : State) : reaches s m = true := reaches_of_link fun h => absurd h hm

theorem host_reachesNot (hlink : s.host.link ≠ 2) : reaches s .host = false := by
  simp only [reaches, linkUp, bne_self_eq_false, Bool.false_or, beq_eq_false_iff_ne]
  exact hlink

/-- R576: nothing of a host's access while its link is not UP. -/
theorem regWriteRow_unreached (hlink : s.host.link ≠ 2) (off : Nat) (f : State → State) : regWriteRow .host off f s = s := by
  simp [regWriteRow, host_reachesNot hlink]

/-- R800: a register of a main domain that is down. -/
theorem regWriteRow_down (hdown : s.standby.mainUp = false) (hoff : off < 0x040000 ∨ 0x060000 ≤ off) (m : Master)
    (f : State → State) : regWriteRow m off f s = s := by
  have hno : answers s off = false := by
    simp only [answers, mainUp, hdown, Bool.false_or, Bool.and_eq_false_iff, decide_eq_false_iff_not]
    omega
  simp [regWriteRow, hno]

theorem regReadRow_down (hdown : s.standby.mainUp = false) (hoff : off < 0x040000 ∨ 0x060000 ≤ off) (w : Width) (v : Word)
    (clear : State → State) : regReadRow off w v clear s = s := by
  have hno : answers s off = false := by
    simp only [answers, mainUp, hdown, Bool.false_or, Bool.and_eq_false_iff, decide_eq_false_iff_not]
    omega
  simp [regReadRow, hno]

/-- A write that is answered, by a master that reaches the register and may write it. -/
theorem regWriteRow_may (hans : answers s off = true) (hreach : reaches s m = true) (hmay : mayWrite s m off = true)
    (f : State → State) : regWriteRow m off f s = f s := by
  simp [regWriteRow, hans, hreach, hmay]

/-- R639: a write by a master that may not make it. -/
theorem regWriteRow_mayNot (hans : answers s off = true) (hreach : reaches s m = true) (hmay : mayWrite s m off = false)
    (f : State → State) : regWriteRow m off f s = forbidden off s := by
  simp [regWriteRow, hans, hreach, hmay]

/-- A write that is discarded and recorded (R639, R798). -/
theorem forbidden_recorded (off : Nat) (s : State) :
    OnlyIn [.faults, .ledger] s (forbidden off s) ∧ Recorded 0x16 blkLocket s (forbidden off s) :=
  ⟨(keeps_forbidden off (.refl _ s) (by decide)).only, recorded_recordAddr rfl rfl _ _ _ _⟩

theorem completes_forbidden (hexec : exec c s = .next (regWriteRow m off f s)) (hans : answers s off = true)
    (hreach : reaches s m = true) (hmay : mayWrite s m off = false) :
    Completes c s fun t => OnlyIn [.faults, .ledger] s t ∧ Recorded 0x16 blkLocket s t :=
  completes_of_exec (hexec.trans (congrArg _ (regWriteRow_mayNot hans hreach hmay f))) (forbidden_recorded off s)

/-- R634, R639: from the power registers on, the owner of the module writes. -/
theorem mayWrite_owner (hoff : 0x070000 ≤ off) (s : State) (m : Master) : mayWrite s m off = ownerIs s m := by
  cases m with
  | core => rfl
  | host =>
    simp only [mayWrite]
    rw [if_neg (by omega), if_neg (by omega), if_neg (by omega), if_neg (by omega), if_neg (by omega), if_neg (by omega),
      if_neg (by omega)]
  | mgmt =>
    simp only [mayWrite]
    rw [if_neg (by omega), if_neg (by omega), if_neg (by omega), if_neg (by omega), if_neg (by omega), if_neg (by omega)]

end

section
variable {s : State} {c : Instr} {m : Master} {off : Nat} {f : State → State} (hup : s.standby.mainUp = true)
  (hlink : m = .host → s.host.link = 2)
include hup hlink

/-- A write with its effect, while the main domains run. -/
theorem exec_regWrite (hexec : exec c s = .next (regWriteRow m off f s)) (hmay : mayWrite s m off = true) :
    exec c s = .next (f s) :=
  hexec.trans (congrArg _ (regWriteRow_may (answers_of_mainUp hup off) (reaches_of_link hlink) hmay f))

theorem completes_mayNot (hexec : exec c s = .next (regWriteRow m off f s)) (hmay : mayWrite s m off = false) :
    Completes c s fun t => OnlyIn [.faults, .ledger] s t ∧ Recorded 0x16 blkLocket s t :=
  completes_forbidden hexec (answers_of_mainUp hup off) (reaches_of_link hlink) hmay

end

/-! ### The range that the host may cache (R567) -/

theorem toNat_biRange (h : HostLink) : (biRange h).toNat = h.biBase.toNat + h.biSize.toNat * 1024 := by
  have := h.biBase.isLt
  have := h.biSize.isLt
  rw [biRange, BitVec.toNat_ofNat, Nat.mod_eq_of_lt (by omega)]

/-- Settles O20: what Mem_Enable lets a write do, and the fields in the half that it reaches. -/
theorem coherentRangeIsSetBeforeUse : Obligations.CoherentRangeIsSetBeforeUse := by
  unfold Obligations.CoherentRangeIsSetBeforeUse
  refine ⟨rfl, rfl, fun s m w v hup hlink hmay => ⟨fun hmem => ?_, fun hmem hw => ?_, fun hmem hsize => ?_⟩⟩
  · refine (exec_regWrite hup hlink (f := biRangeSet w v) rfl hmay).trans ?_
    simp [biRangeSet, hmem]
  · have hbase := bitsOf_wrWidth (lo := 0) (n := 10) (by omega) w (biRange s.host) v
    have hsize := bitsOf_wrWidth (lo := 10) (n := 7) (by omega) w (biRange s.host) v
    rw [if_neg hw] at hbase hsize
    refine (exec_regWrite hup hlink (f := biRangeSet w v) rfl hmay).trans ?_
    have h10 : BitVec.ofNat 10 (bitsOf v.toNat 0 10) = v.setWidth 10 := by
      apply BitVec.eq_of_toNat_eq
      simp [bitsOf_low]
    have h7 : BitVec.ofNat 7 (bitsOf v.toNat 10 7) = BitVec.ofNat 7 (v.toNat / 1024) := by
      apply BitVec.eq_of_toNat_eq
      simp [bitsOf]
    simp only [biRangeSet, hmem, hbase, hsize, h10, h7, setHost]
    rfl
  · have hbase := bitsOf_wrWidth (lo := 0) (n := 10) (by omega) .high (biRange s.host) v
    have hsize' := bitsOf_wrWidth (lo := 10) (n := 7) (by omega) .high (biRange s.host) v
    refine (exec_regWrite hup hlink (f := biRangeSet .high v) rfl hmay).trans ?_
    have := s.host.biBase.isLt
    have := s.host.biSize.isLt
    have h10 : BitVec.ofNat 10 (bitsOf (biRange s.host).toNat 0 10) = s.host.biBase := by
      apply BitVec.eq_of_toNat_eq
      rw [toNat_biRange, bitsOf_low, BitVec.toNat_ofNat]
      omega
    have h7 : bitsOf (biRange s.host).toNat 10 7 = s.host.biSize.toNat := by
      rw [toNat_biRange, bitsOf]
      omega
    rw [if_pos rfl] at hbase hsize'
    rw [biRangeSet, if_neg (by simp [hmem]), hbase, hsize', h10, h7, if_pos hsize, BitVec.ofNat_toNat, BitVec.setWidth_eq]
    rfl

/-! ### The commit, the lock and the trace -/

theorem bitsOf_ofNat (w lo x : Nat) : BitVec.ofNat w (bitsOf x lo w) = BitVec.ofNat w (x / 2 ^ lo) := by
  apply BitVec.eq_of_toNat_eq
  simp [bitsOf]

/-- Settles O21: by register; a trace begins only with a range that lies in the stacks. -/
theorem controlBitsTakeEffect : Obligations.ControlBitsTakeEffect := by
  unfold Obligations.ControlBitsTakeEffect
  intro s m hup hlink
  refine ⟨fun hmay => ⟨fun hw ha => ?_, fun h => ?_, fun hw => ?_, fun hw => ?_⟩, fun hmay => ?_, fun hmay v => ⟨fun hen => ?_,
    fun hen hv hsize hfits => ?_⟩⟩
  · exact (exec_regWrite hup hlink (f := commitReq) rfl hmay).trans (by simp [commitReq, hw, ha])
  · exact (exec_regWrite hup hlink (f := commitReq) rfl hmay).trans (by simp [commitReq, h])
  · exact (exec_regWrite hup hlink (f := commitCancel) rfl hmay).trans (by simp [commitCancel, hw])
  · exact (exec_regWrite hup hlink (f := commitCancel) rfl hmay).trans (by simp [commitCancel, hw])
  · exact exec_regWrite hup hlink (f := fun t => { t with sec := { t.sec with lock := true } }) rfl hmay
  · refine (exec_regWrite hup hlink (f := ldgTraceSet .full v) rfl hmay).trans ?_
    simp [ldgTraceSet, hen, wrWidth, bitOf_toNat]
  · refine (exec_regWrite hup hlink (f := ldgTraceSet .full v) rfl hmay).trans ?_
    have hlt := v.isLt
    have hsz : bitsOf v.toNat 48 16 = v.toNat / 2 ^ 48 := Nat.mod_eq_of_lt (by omega)
    have hin : inStacks (bitsOf v.toNat 12 36 * 4096) (bitsOf v.toNat 48 16 * 4096) = true := by
      rw [hsz]
      exact decide_eq_true hfits
    have hsize' : ¬ (bitsOf v.toNat 48 16 = 0 ∨
        (!inStacks (bitsOf v.toNat 12 36 * 4096) (bitsOf v.toNat 48 16 * 4096)) = true) := by
      rw [hin, hsz]
      simpa using hsize
    rw [ldgTraceSet, if_neg (by simp [hen]), if_neg (by simp [wrWidth, bitOf_toNat, hv]), wrWidth, if_neg hsize', bitsOf_ofNat,
      hsz]
    rfl

/-! ### Mask bits (R645) -/

theorem getLsbD_hubEligible (h : Hub) (t src : Nat) :
    (hubEligible h t).getLsbD src = (h.pend.getLsbD src && !(hubMask h t).getLsbD src) := by
  rw [hubEligible, BitVec.getLsbD_and, BitVec.getLsbD_not]
  by_cases hsrc : src < 2048
  · simp [hsrc]
  · simp [BitVec.getLsbD_of_ge _ _ (Nat.le_of_not_lt hsrc)]

/-- The sources of a word of 64, as a mask of all sources. -/
theorem getLsbD_wordBits {src : Nat} (hsrc : src < 2048) (v : Word) (w : Nat) :
    (BitVec.ofNat 2048 (v.toNat * 2 ^ (64 * w))).getLsbD src = (decide (src / 64 = w) && v.getLsbD (src % 64)) := by
  rw [BitVec.getLsbD_ofNat, decide_eq_true hsrc, Bool.true_and, Nat.testBit_mul_two_pow]
  by_cases hw : src / 64 = w
  · have hsub : src - 64 * w = src % 64 := by omega
    rw [decide_eq_true hw, decide_eq_true (by omega), hsub]
    rfl
  · rw [decide_eq_false hw, Bool.false_and]
    by_cases hle : 64 * w ≤ src
    · have hge := BitVec.getLsbD_of_ge v (src - 64 * w) (by omega)
      rw [BitVec.getLsbD] at hge
      rw [hge, Bool.and_false]
    · rw [decide_eq_false hle, Bool.false_and]

theorem getLsbD_maskWrite {src : Nat} (hsrc : src < 2048) (t t' w : Nat) (v : Word) (on : Bool) (s : State) :
    (hubMask (maskWrite t w v on s).hub t').getLsbD src =
      if t' = t ∧ src / 64 = w ∧ v.getLsbD (src % 64) = true then on else (hubMask s.hub t').getLsbD src := by
  by_cases ht : t' = t
  · subst ht
    have hnew : hubMask (maskWrite t' w v on s).hub t' = if on then hubMask s.hub t' ||| BitVec.ofNat 2048 (v.toNat * 2 ^ (64 * w))
        else hubMask s.hub t' &&& ~~~ BitVec.ofNat 2048 (v.toNat * 2 ^ (64 * w)) := tblGet_tblSet_same _ _ _ _
    rw [hnew]
    cases on
    · simp only [Bool.false_eq_true, if_false, BitVec.getLsbD_and, BitVec.getLsbD_not, getLsbD_wordBits hsrc]
      grind
    · simp only [if_true, BitVec.getLsbD_or, getLsbD_wordBits hsrc]
      grind
  · rw [if_neg fun h => ht h.1]
    exact congrArg (fun b : BitVec 2048 => b.getLsbD src) (tblGet_tblSet_other _ _ _ _ _ ht)

theorem onlyIn_maskWrite (t w : Nat) (v : Word) (on : Bool) (s : State) : OnlyIn [.hub] s (maskWrite t w v on s) :=
  (keeps_maskWrite t w v on (.refl _ s) (by decide)).only

/-- Settles O17: a write of a word of the mask changes the bits that it has as 1. -/
theorem maskBitsSetAndClear : Obligations.MaskBitsSetAndClear := by
  unfold Obligations.MaskBitsSetAndClear
  refine ⟨fun t src hsrc => ?_, getLsbD_hubEligible, fun s m t w v hup hlink => ⟨fun hmay => ?_, fun hmay => ?_⟩⟩
  · rw [hubMask_reset, BitVec.getLsbD_allOnes, decide_eq_true hsrc]
  · refine completes_of_exec (exec_regWrite hup hlink (f := maskWrite t.val w.val v true) rfl hmay)
      ⟨onlyIn_maskWrite _ _ _ _ _, rfl, fun t' src hsrc => ?_⟩
    rw [getLsbD_maskWrite hsrc]
    grind
  · refine completes_of_exec (exec_regWrite hup hlink (f := maskWrite t.val w.val v false) rfl hmay)
      ⟨onlyIn_maskWrite _ _ _ _ _, rfl, fun t' src hsrc => ?_⟩
    rw [getLsbD_maskWrite hsrc]
    grind

end Sys2Proof.Proofs
end

section
/-! Proofs for chapters 16, 18 and 26: accesses that no register takes, and control-window writes that are turned away. -/

namespace Sys2Proof.Proofs

open Sys2Proof Sys2Proof.Machine Sys2Proof.Laws

/-! ### Who may write the mailboxes and the hub -/

section
variable {m : Master} (s : State)

theorem mayWrite_otherMbx {mb : MbxN} (h : (m = .host ∧ mb.val = 8) ∨ (m = .mgmt ∧ mb.val ≠ 8)) {r : Nat} (hr : r < 0x40) :
    mayWrite s m (offMbx mb.val + r) = false := by
  have := mb.isLt
  unfold offMbx
  rcases h with ⟨rfl, h⟩ | ⟨rfl, h⟩
  · simp only [mayWrite]
    rw [if_neg (by omega), if_pos (by omega)]
  · simp only [mayWrite]
    rw [if_pos (by omega)]

theorem mayWrite_hubWords (hm : m ≠ .core) {off : Nat} (hoff : 0x020000 ≤ off ∧ off < 0x021000) :
    mayWrite s m off = false := by
  cases m with
  | core => exact absurd rfl hm
  | host =>
    simp only [mayWrite]
    rw [if_neg (by omega), if_neg (by omega), if_neg (by omega), if_pos hoff]
  | mgmt =>
    simp only [mayWrite]
    rw [if_neg (by omega), if_neg (by omega), if_neg (by omega), if_pos hoff]

/-- R657: the mask words of the targets that are another master's. -/
theorem mayWrite_otherMask {t : Nat} (ht : t < 37) (h : (m = .host ∧ (t < 4 ∨ t = 36)) ∨ (m = .mgmt ∧ t ≠ 36)) {off : Nat}
    (hoff : (0x021000 ≤ off ∧ off < 0x028000 ∧ (off - 0x021000) / 0x200 = t) ∨
      (0x028000 ≤ off ∧ off < 0x030000 ∧ (off - 0x028000) / 0x200 = t)) : mayWrite s m off = false := by
  have ht' : (if off < 0x028000 then (off - 0x021000) / 0x200 else (off - 0x028000) / 0x200) = t := by
    rcases hoff with ⟨_, hlt, h⟩ | ⟨hle, _, h⟩
    · rw [if_pos hlt, h]
    · rw [if_neg (by omega), h]
  rcases h with ⟨rfl, h⟩ | ⟨rfl, h⟩
  · simp only [mayWrite, ht']
    rw [if_neg (by omega), if_neg (by omega), if_pos (by omega)]
    simp only [Bool.and_eq_false_iff, decide_eq_false_iff_not]
    omega
  · simp only [mayWrite, ht']
    rw [if_neg (by omega), if_neg (by omega), if_pos (by omega)]
    simpa using h

end

/-! ### Accesses that answer nothing -/

section
variable {s : State}

theorem exec_irqClaim_down (hdown : s.standby.mainUp = false) (m : Master) (t : Fin 37) : exec (.irqClaim m t) s = .next s := by
  have hno : answers s (offClaim t.val) = false := by
    have := t.isLt
    have hlt : ¬ 0x040000 ≤ offClaim t.val := by
      unfold offClaim
      omega
    rw [answers, mainUp, hdown, decide_eq_false hlt]
    rfl
  change Host.Outcome.next (if answers s (offClaim t.val) && reaches s m then claimRead m t.val s else s) = _
  rw [hno]
  rfl

theorem exec_irqClaim_unreached (hlink : s.host.link ≠ 2) (t : Fin 37) : exec (.irqClaim .host t) s = .next s := by
  change Host.Outcome.next (if answers s (offClaim t.val) && reaches s .host then claimRead .host t.val s else s) = _
  rw [host_reachesNot hlink, Bool.and_false]
  rfl

theorem windowWrite_unreached (hlink : s.host.link ≠ 2) (off n : Nat) (v : Word) : windowWrite .host off n v s = s := by
  rw [windowWrite, host_reachesNot hlink]
  rfl

/-- R800: the row of a register read of a main domain. -/
theorem exec_regRead_down {c : Instr} {off : Nat} {w : Width} {v : Word} {clear : State → State}
    (hdown : s.standby.mainUp = false) (hexec : exec c s = .next (regReadRow off w v clear s))
    (hoff : off < 0x040000 ∨ 0x060000 ≤ off) : exec c s = .next s :=
  hexec.trans (congrArg _ (regReadRow_down hdown hoff w v clear))

theorem exec_regWrite_down {c : Instr} {off : Nat} {m : Master} {f : State → State}
    (hdown : s.standby.mainUp = false) (hexec : exec c s = .next (regWriteRow m off f s))
    (hoff : off < 0x040000 ∨ 0x060000 ≤ off) : exec c s = .next s :=
  hexec.trans (congrArg _ (regWriteRow_down hdown hoff m f))

theorem exec_regWrite_unreached {c : Instr} {off : Nat} {f : State → State} (hlink : s.host.link ≠ 2)
    (hexec : exec c s = .next (regWriteRow .host off f s)) : exec c s = .next s :=
  hexec.trans (congrArg _ (regWriteRow_unreached hlink off f))

end

/-- Settles O16: by register, its row's form; MGT_OWN's answers are turned away by their own rule. -/
theorem registersTurnAccessesAway : Obligations.RegistersTurnAccessesAway := by
  unfold Obligations.RegistersTurnAccessesAway
  refine ⟨fun s m w v hup hlink => ⟨fun c off hmem hmay => ?_, fun b ch hmay => ?_, fun mb h => ?_, fun t k h => ?_,
    fun hm => ?_⟩, fun s w v b p mb t k ch off n c hlink hmem => ?_, fun s m w v b p mb t k ch c hdown hmem => ?_⟩
  · simp only [List.mem_cons, List.not_mem_nil, or_false, Prod.mk.injEq] at hmem
    rcases hmem with ⟨rfl, rfl⟩ | ⟨rfl, rfl⟩ | ⟨rfl, rfl⟩ | ⟨rfl, rfl⟩ | ⟨rfl, rfl⟩ | ⟨rfl, rfl⟩ | ⟨rfl, rfl⟩ | ⟨rfl, rfl⟩ <;>
      exact completes_mayNot hup hlink rfl hmay
  · rw [mayWrite_owner (by decide)] at hmay
    have hbzl {r : Nat} : mayWrite s m (offBzl b.val r) = false := by
      rw [mayWrite_owner (by unfold offBzl; omega), hmay]
    exact ⟨completes_mayNot hup hlink rfl hbzl, completes_mayNot hup hlink rfl hbzl, completes_mayNot hup hlink rfl hbzl⟩
  · exact ⟨completes_mayNot hup hlink rfl (mayWrite_otherMbx s h (by decide)),
      completes_mayNot hup hlink rfl (mayWrite_otherMbx s h (r := 0) (by decide))⟩
  · have hm : m ≠ .core := by
      rintro rfl
      simp at h
    have := t.isLt
    have := k.isLt
    refine ⟨completes_mayNot hup hlink rfl (mayWrite_otherMask s t.isLt h ?_),
      completes_mayNot hup hlink rfl (mayWrite_otherMask s t.isLt h ?_),
      completes_mayNot hup hlink rfl (mayWrite_hubWords s hm ?_), completes_mayNot hup hlink rfl (mayWrite_hubWords s hm ?_)⟩
    · unfold offMaskSet
      omega
    · unfold offMaskClr
      omega
    · unfold offPendSet
      omega
    · unfold offPendClr
      omega
  · have hown (f : State → State) : regWriteRow m offMgtOwn (hostAnswer m f) s = forbidden offMgtOwn s := by
      rw [regWriteRow, answers_of_mainUp hup, reaches_of_ne hm, hostAnswer, if_neg hm]
      exact ite_self _
    exact ⟨completes_of_exec (congrArg Host.Outcome.next (hown grant)) (forbidden_recorded _ s),
      completes_of_exec (congrArg Host.Outcome.next (hown deny)) (forbidden_recorded _ s)⟩
  · simp only [List.mem_cons, List.not_mem_nil, or_false] at hmem
    rcases hmem with rfl | rfl | rfl | rfl | rfl | rfl | rfl | rfl | rfl | rfl | rfl | rfl | rfl | rfl | rfl | rfl | rfl |
      rfl | rfl | rfl | rfl | rfl
    case inr.inr.inr.inr.inr.inr.inr.inr.inr.inr.inr.inr.inr.inr.inl => exact exec_irqClaim_unreached hlink t
    case inr.inr.inr.inr.inr.inr.inr.inr.inr.inr.inr.inr.inr.inr.inr.inr.inr.inr.inr.inr.inr =>
      exact congrArg _ (windowWrite_unreached hlink off n v)
    all_goals exact exec_regWrite_unreached hlink rfl
  · simp only [List.mem_cons, List.not_mem_nil, or_false] at hmem
    have hbzl (r : Nat) : offBzl b.val r < 0x040000 ∨ 0x060000 ≤ offBzl b.val r := by
      unfold offBzl
      omega
    have hchn : offChnErr p.val < 0x040000 ∨ 0x060000 ≤ offChnErr p.val := by
      unfold offChnErr
      omega
    have hmbx {r : Nat} (hr : r < 0x40) : offMbx mb.val + r < 0x040000 ∨ 0x060000 ≤ offMbx mb.val + r := by
      unfold offMbx
      omega
    have hpend : (offPendSet k.val < 0x040000 ∧ offPendClr k.val < 0x040000) ∧
        offMaskSet t.val k.val < 0x040000 ∧ offMaskClr t.val k.val < 0x040000 := by
      unfold offPendSet offPendClr offMaskSet offMaskClr
      omega
    obtain ⟨⟨hset, hclr⟩, hmset, hmclr⟩ := hpend
    rcases hmem with rfl | rfl | rfl | rfl | rfl | rfl | rfl | rfl | rfl | rfl | rfl | rfl | rfl | rfl | rfl | rfl | rfl |
      rfl | rfl | rfl | rfl | rfl | rfl | rfl | rfl | rfl | rfl
    exacts [exec_regRead_down hdown rfl (by decide), exec_regRead_down hdown rfl hchn, exec_regRead_down hdown rfl (hbzl _),
      exec_regRead_down hdown rfl (hbzl _), exec_regRead_down hdown rfl (by decide), exec_regRead_down hdown rfl (by decide),
      exec_regRead_down hdown rfl (by decide), exec_regRead_down hdown rfl (by decide), exec_regRead_down hdown rfl (by decide),
      exec_regWrite_down hdown rfl (by decide), exec_regWrite_down hdown rfl (by decide),
      exec_regWrite_down hdown rfl (by decide), exec_regWrite_down hdown rfl (by decide),
      exec_regWrite_down hdown rfl (by decide), exec_regWrite_down hdown rfl (hbzl _),
      exec_regWrite_down hdown rfl (by decide), exec_regWrite_down hdown rfl (hmbx (by decide)),
      exec_regWrite_down hdown rfl (hmbx (r := 0) (by decide)), exec_regWrite_down hdown rfl (by decide),
      exec_regWrite_down hdown rfl (.inl hset), exec_regWrite_down hdown rfl (.inl hclr),
      exec_regWrite_down hdown rfl (.inl hmset), exec_regWrite_down hdown rfl (.inl hmclr), exec_irqClaim_down hdown m t,
      exec_regWrite_down hdown rfl (by decide), exec_regWrite_down hdown rfl (hbzl _),
      exec_regWrite_down hdown rfl (hbzl _)]

end Sys2Proof.Proofs
end

section
/-! Proofs for chapters 14, 15, 17, 22 and 26: the registers of the mailboxes, of the chain and of the bezels, and
control-window writes. -/

namespace Sys2Proof.Proofs

open Sys2Proof Sys2Proof.Machine Sys2Proof.Laws

/-- A record stays where nothing is recorded behind it. -/
theorem recorded_congr {s t u : State} {cls source : Nat} (h : Recorded cls source s t) (hfaults : u.faults = t.faults) :
    Recorded cls source s u := by
  unfold Recorded at h ⊢
  rwa [hfaults]

theorem recorded_forbidden {s t : State} (hclock : t.clock = s.clock) (hfaults : t.faults = s.faults) (off : Nat) :
    Recorded 0x16 blkLocket s (forbidden off t) := recorded_recordAddr hclock hfaults _ _ _ _

theorem bezelOf_forbidden (off z : Nat) (s : State) : bezelOf (forbidden off s) z = bezelOf s z := by
  simp [forbidden, bezelOf]

/-! ### Control-window writes (R555, R796 to R798) -/

section
variable {s : State} {m : Master}

/-- R555: an access of a form that no register has. -/
theorem windowWrite_badForm (hlink : m = .host → s.host.link = 2) {off bytes : Nat} (hform : accessWidth off bytes = none)
    (v : Word) : windowWrite m off bytes v s = recordHostAt 0 s := by
  rw [windowWrite, reaches_of_link hlink, hform]
  rfl

/-- A whole slot's write reaches its register while the main domains run. -/
theorem windowWrite_slot (hlink : m = .host → s.host.link = 2) (hup : s.standby.mainUp = true) {off : Nat} (hoff : off % 8 = 0)
    (v : Word) : windowWrite m off 8 v s = regWrite m off .full v s := by
  have hform : accessWidth off 8 = some .full := by simp [accessWidth, hoff]
  have hbase : off / 8 * 8 = off := by omega
  rw [windowWrite, reaches_of_link hlink, hform]
  simp [answers_of_mainUp hup, hbase]

theorem regWrite_reserved {off : Nat} (hfree : regAssigned off = false) (w : Width) (v : Word) (s : State) :
    regWrite m off w v s = forbidden off s := by
  rw [regWrite, hfree]
  rfl

theorem regWrite_may {off : Nat} (hreg : regAssigned off = true) {w : Width} {v : Word}
    (hmay : mayWriteBits s m off w v = true) : regWrite m off w v s = regEffect m off w v s := by
  rw [regWrite, hreg, hmay]
  rfl

end

/-- Settles O25: by the form of the access and by its slot. -/
theorem windowWritesTakeEffect : Obligations.WindowWritesTakeEffect := by
  unfold Obligations.WindowWritesTakeEffect
  refine fun s m v hlink => ⟨fun off bytes hform => ?_, fun off hoff hup hfree => ?_, fun hup hmay => ?_,
    fun hup hmay hw ha => ?_⟩
  · refine completes_of_exec (congrArg Host.Outcome.next (windowWrite_badForm hlink hform v)) ⟨?_, recorded_recordAt rfl rfl _ _ _⟩
    exact (keeps_recordHostAt 0 (.refl _ s) (by decide)).only
  · refine completes_of_exec (congrArg Host.Outcome.next ?_) (forbidden_recorded off s)
    rw [windowWrite_slot hlink hup hoff, regWrite_reserved hfree]
  · refine congrArg Host.Outcome.next ?_
    rw [windowWrite_slot hlink hup (by decide), regWrite_may (by decide) hmay]
    rfl
  · refine congrArg Host.Outcome.next ?_
    rw [windowWrite_slot hlink hup (by decide), regWrite_may (by decide) hmay]
    simp [regEffect, hw, ha, wrWidth]

/-! ### The registers of a mailbox (R585, R586, R593) -/

section
variable {s : State} {mb : MbxN} {m : Master}

/-- R639: a mailbox's registers are its own master's. -/
theorem mayWrite_ownMbx (s : State) (h : m = .mgmt ↔ mb.val = 8) (hcore : m ≠ .core) {r : Nat} (hr : r < 0x40) :
    mayWrite s m (offMbx mb.val + r) = true := by
  have := mb.isLt
  unfold offMbx
  cases m with
  | core => exact absurd rfl hcore
  | host =>
    have h8 : mb.val ≠ 8 := fun h8 => by simpa using h.2 h8
    simp only [mayWrite]
    rw [if_pos (by omega)]
  | mgmt =>
    have h8 := h.1 rfl
    simp only [mayWrite]
    rw [if_neg (by omega), if_pos (by omega)]

theorem otherMbxs_modMbx (m : Nat) (f : Mbx → Mbx) (s : State) : OtherMbxs m s (modMbx m f s) :=
  fun _ h => mbxOf_modMbx_other s f h

theorem mbxs_stopMbx (m code : Nat) (s : State) : (stopMbx m code s).mbxs =
    (modMbx m (fun q => { q with err := true, errCode := BitVec.ofNat 3 code }) s).mbxs := by simp [stopMbx]

theorem otherMbxs_stopMbx (m code : Nat) (s : State) : OtherMbxs m s (stopMbx m code s) := fun m' h =>
  (mbxOf_congr (mbxs_stopMbx m code s) m').trans (mbxOf_modMbx_other s _ h)

theorem mbxOf_stopMbx (m code : Nat) (s : State) :
    mbxOf (stopMbx m code s) m = { mbxOf s m with err := true, errCode := BitVec.ofNat 3 code } :=
  (mbxOf_congr (mbxs_stopMbx m code s) m).trans (mbxOf_modMbx s m _)

theorem recorded_stopMbx (m code : Nat) (s : State) : Recorded 0x15 blkLocket s (stopMbx m code s) :=
  recorded_congr (recorded_recordAt (t := modMbx m (fun q => { q with err := true, errCode := BitVec.ofNat 3 code }) s)
    rfl rfl 0x15 blkLocket (m + 16 * code)) (hubRaise_faults _ _)

theorem otherMbxs_mbxZero (m : Nat) (s : State) : OtherMbxs m s (mbxZero m s) := by
  have hmod := otherMbxs_modMbx m (fun q => { q with
    head := 0, tail := 0, cplTail := 0, held := [], err := false, errCode := 0, phase := true, rst := false, cplHead := 0 }) s
  unfold mbxZero
  split
  · exact hmod
  · exact hmod

theorem mbxOf_mbxZero (m : Nat) (s : State) : mbxOf (mbxZero m s) m = { mbxOf s m with
    head := 0, tail := 0, cplTail := 0, held := [], err := false, errCode := 0, phase := true, rst := false, cplHead := 0 } := by
  have hmod := mbxOf_modMbx s m fun q => { q with
    head := 0, tail := 0, cplTail := 0, held := [], err := false, errCode := 0, phase := true, rst := false, cplHead := 0 }
  unfold mbxZero
  split
  · exact hmod
  · exact hmod

/-- R593: the mailbox is being reset, and nothing of it that has not started is left. -/
def rstMarked (m : Nat) (s : State) : State :=
  modNutas (fun n => { n with
    cmds := n.cmds.filter fun c => c.mbx.val != m || c.started
    ready := n.ready.filter fun c => c.mbx.val != m }) (modMbx m (fun q => { q with rst := true }) s)

theorem startedOf_rstMarked (m : Nat) (s : State) : startedOf (rstMarked m s) m = startedOf s m := by
  change ((s.nutas.cmds.filter _).filter _) = _
  rw [List.filter_filter]
  refine List.filter_congr fun c _ => ?_
  cases c.started <;> simp

theorem mbxRst_eq (m : Nat) (s : State) :
    mbxRst m s = if startedOf s m = [] then mbxZero m (rstMarked m s) else rstMarked m s := by
  rw [← startedOf_rstMarked]
  rfl

theorem otherMbxs_mbxRst (m : Nat) (s : State) : OtherMbxs m s (mbxRst m s) := fun m' h => by
  have hmark : mbxOf (rstMarked m s) m' = mbxOf s m' :=
    otherMbxs_modMbx m (fun q => { q with rst := true }) s m' h
  rw [mbxRst_eq]
  split
  · rw [otherMbxs_mbxZero m _ m' h, hmark]
  · exact hmark

/-- R593: what RST leaves of the commands. -/
theorem nutas_mbxRst (m : Nat) (s : State) : (mbxRst m s).nutas = (rstMarked m s).nutas := by
  rw [mbxRst_eq]
  split
  · exact mbxZero_nutas _ _
  · rfl

theorem mbxOf_mbxRst (m : Nat) (s : State) : mbxOf (mbxRst m s) m =
    if startedOf s m = [] then { mbxOf s m with
      head := 0, tail := 0, cplTail := 0, held := [], err := false, errCode := 0, phase := true, rst := false, cplHead := 0 }
    else { mbxOf s m with rst := true } := by
  have hmark : mbxOf (rstMarked m s) m = { mbxOf s m with rst := true } :=
    mbxOf_modMbx s m fun q => { q with rst := true }
  rw [mbxRst_eq]
  split
  · rw [mbxOf_mbxZero, hmark]
  · exact hmark

end

/-- Settles O24: by what the doorbell finds, and what RST leaves. -/
theorem mailboxRegistersTakeEffect : Obligations.MailboxRegistersTakeEffect := by
  unfold Obligations.MailboxRegistersTakeEffect
  intro s mb m hup hlink hown hcore
  have hbell (v : Word) : exec (.mbxDoorbell mb m v) s = .next (doorbell mb.val (v.toNat % 4096) s) := by
    have hdo := exec_regWrite hup hlink (c := .mbxDoorbell mb m v) (f := doorbell mb.val (bitsOf v.toNat 0 12)) rfl
      (mayWrite_ownMbx s hown hcore (r := 0x18) (by decide))
    rwa [bitsOf_low] at hdo
  refine ⟨fun v hen hrst herr hserved hlt => completes_of_exec (hbell v) ?_, fun v hen => completes_of_exec (hbell v) ?_,
    fun v hen hserved => completes_of_exec (hbell v) ?_, fun v hen hserved hstop => ?_, ?_⟩
  · have hdo : doorbell mb.val (v.toNat % 4096) s =
        if (v.toNat % 4096 + ringSize s mb.val - (mbxOf s mb.val).tail) % ringSize s mb.val ≤
          ((mbxOf s mb.val).head + ringSize s mb.val - 1 + ringSize s mb.val - (mbxOf s mb.val).tail) % ringSize s mb.val
        then modMbx mb.val (fun q => { q with tail := v.toNat % 4096 }) s else stopMbx mb.val 2 s := by
      simp [doorbell, hen, hrst, herr, hserved, Nat.not_le.2 hlt]
    rw [hdo]
    split
    · exact ⟨otherMbxs_modMbx _ _ s, mbxOf_modMbx s _ _, rfl, rfl⟩
    · exact ⟨otherMbxs_stopMbx _ _ s, mbxOf_stopMbx _ _ s, recorded_stopMbx _ _ s⟩
  · have hdo : doorbell mb.val (v.toNat % 4096) s = recordAt 0x15 blkLocket mb.val s := by simp [doorbell, hen]
    rw [hdo]
    exact ⟨(keeps_recordAt _ _ _ (.refl _ s) (by decide)).only, recorded_recordAt rfl rfl _ _ _⟩
  · have hdo : doorbell mb.val (v.toNat % 4096) s = recordHostAt 0 s := by simp [doorbell, hen, hserved]
    rw [hdo]
    exact ⟨(keeps_recordHostAt 0 (.refl _ s) (by decide)).only, recorded_recordAt rfl rfl _ _ _⟩
  · rw [hbell]
    simp [doorbell, hen, hserved, hstop]
  · refine completes_of_exec (exec_regWrite hup hlink (f := mbxRst mb.val) rfl (mayWrite_ownMbx s hown hcore (r := 0) (by decide)))
      ⟨otherMbxs_mbxRst _ s, ?_⟩
    rw [nutas_mbxRst, mbxOf_mbxRst]
    refine ⟨fun c hc hmb => ?_, fun c hc => ?_, fun c hc h => List.mem_filter.2 ⟨hc, ?_⟩, ?_⟩
    · obtain ⟨-, hkeep⟩ := List.mem_filter.1 hc
      simpa [hmb] using hkeep
    · obtain ⟨-, hkeep⟩ := List.mem_filter.1 hc
      simpa [Fin.ext_iff] using hkeep
    · simpa [Fin.ext_iff] using h
    · split
      · exact ⟨rfl, rfl, rfl, rfl, rfl, rfl⟩
      · exact ⟨rfl, rfl⟩

/-! ### The registers of the chain and of the bezels (R498, R508, R509, R547, R735, R738) -/

section
variable {s : State}

theorem any_range16 (f : Nat → Bool) : ((List.range 16).any f = false) ↔ ∀ k : Fin 16, f k.val = false := by
  simp only [List.any_eq_false, List.mem_range, Bool.not_eq_true]
  exact ⟨fun h k => h k.val k.isLt, fun h k hk => h ⟨k, hk⟩⟩

/-- R509: CHN_CAL_PORT takes the port; the calibration starts where none that GO started runs, and the port can. -/
theorem calGo_eq (p : PortN) (s : State) :
    calGo p.val s = if (∀ k : PortN, (portOf s k.val).calGo = false) ∧ canCalibrate s p.val = true then
      modPort p.val (fun q => { q with cal := true, calGo := true })
        { s with chain := { s.chain with calPort := BitVec.ofNat 4 p.val } }
    else { s with chain := { s.chain with calPort := BitVec.ofNat 4 p.val } } := by
  have hany := any_range16 fun k => (portOf s k).calGo
  unfold calGo
  split
  next h =>
    rw [if_neg]
    rintro ⟨hnone, hcan⟩
    simp [hany.2 hnone, hcan] at h
  next h =>
    simp only [Bool.or_eq_true, Bool.not_eq_true', not_or, Bool.not_eq_true, Bool.not_eq_false] at h
    rw [if_pos ⟨hany.1 h.1, h.2⟩]

theorem toNat_chnTiming (c : Chain) : (chnTiming c).toNat = c.window.toNat + c.rspTmo.toNat * 256 := by
  have := c.window.isLt
  have := c.rspTmo.isLt
  rw [chnTiming, BitVec.toNat_ofNat, Nat.mod_eq_of_lt (by omega)]

theorem toNat_redCfg (b : Bezel) : (redCfg b).toNat = b.nblk.toNat + b.intakeLo.toNat * 2 ^ 17 := by
  have := b.nblk.isLt
  have := b.intakeLo.isLt
  rw [redCfg, BitVec.toNat_ofNat, Nat.mod_eq_of_lt (by omega)]

/-- R547: the intake range of BZL_RED_CFG lies within the stack. -/
theorem redCfgFits_redCfg (b : Bezel) :
    redCfgFits (redCfg b) = decide (b.intakeLo.toNat * 2048 + 2048 * b.nblk.toNat ≤ 64 * 2 ^ 30) := by
  have := b.nblk.isLt
  have := b.intakeLo.isLt
  have hn : (b.nblk.toNat + b.intakeLo.toNat * 2 ^ 17) % 2 ^ 17 = b.nblk.toNat := by omega
  have hl : (b.nblk.toNat + b.intakeLo.toNat * 2 ^ 17) / 2 ^ 17 % 2 ^ 25 = b.intakeLo.toNat := by omega
  rw [redCfgFits, toNat_redCfg, bitsOf_low, hn, bitsOf, hl]
  rfl

theorem retraining_eq_false : retraining s = false ↔ ∀ z : BezelN, (bezelOf s z.val).retrainPhase = .idle := by
  rw [retraining, any_range16]
  simp

theorem retrainGo_effect (b : BezelN) (ch : Nat) (s : State) :
    OtherBezels b.val s (retrainGo b.val ch s) ∧ (bezelOf (retrainGo b.val ch s) b.val).retrainSel = BitVec.ofNat 5 ch ∧
      if (∀ z : BezelN, (bezelOf s z.val).retrainPhase = .idle) then
        (bezelOf (retrainGo b.val ch s) b.val).retrainPhase = .copy ∧
        (bezelOf (retrainGo b.val ch s) b.val).retrainCh = BitVec.ofNat 5 ch ∧
        (bezelOf (retrainGo b.val ch s) b.val).copied = 0
      else (bezelOf (retrainGo b.val ch s) b.val).retrainPhase = (bezelOf s b.val).retrainPhase ∧
        (bezelOf (retrainGo b.val ch s) b.val).retrainCh = (bezelOf s b.val).retrainCh := by
  have hother := otherBezels_modBezel b.val (fun x => { x with retrainSel := BitVec.ofNat 5 ch }) s
  simp only [retrainGo]
  split
  next h =>
    rw [if_neg fun hidle => by simp [retraining_eq_false.2 hidle] at h]
    exact ⟨hother, by simp⟩
  next h =>
    rw [if_pos (retraining_eq_false.1 (eq_false_of_ne_true h))]
    exact ⟨otherBezels_trans hother (otherBezels_modBezel _ _ _), by simp [beginRetrain]⟩

/-- NBLK behind a write of the whole BZL_RED_CFG (R547). -/
def newNblk (v : Word) (b : Bezel) : Nat := if v.toNat % 2 ^ 17 ≤ 65536 then v.toNat % 2 ^ 17 else b.nblk.toNat

theorem newNblk_lt (v : Word) (b : Bezel) : newNblk v b < 2 ^ 17 := by
  have := b.nblk.isLt
  unfold newNblk
  split <;> omega

theorem redCfgSet_full (v : Word) (b : Bezel) : redCfgSet (wrWidth .full (redCfg b) v) b = { b with
    nblk := BitVec.ofNat 17 (newNblk v b), intakeLo := BitVec.ofNat 25 (v.toNat / 2 ^ 17 % 2 ^ 25) } := by
  rw [redCfgSet, wrWidth, newNblk, bitsOf_low]
  split <;> simp [bitsOf]

/-- R547: a write is turned away while a plan runs, and where the range would not fit. -/
theorem redCfgWrite_full (z : Nat) (v : Word) (s : State) : redCfgWrite z .full v s =
    if planRuns s = true then forbidden (offBzl z 0x10) s
    else if v.toNat / 2 ^ 17 % 2 ^ 25 * 2048 + 2048 * newNblk v (bezelOf s z) ≤ 64 * 2 ^ 30 then
      setBezel z { bezelOf s z with
        nblk := BitVec.ofNat 17 (newNblk v (bezelOf s z)), intakeLo := BitVec.ofNat 25 (v.toNat / 2 ^ 17 % 2 ^ 25) } s
    else forbidden (offBzl z 0x10) s := by
  have hm := newNblk_lt v (bezelOf s z)
  have hlo : v.toNat / 2 ^ 17 % 2 ^ 25 < 2 ^ 25 := Nat.mod_lt _ (by decide)
  simp only [redCfgWrite, redCfgSet_full, redCfgFits_redCfg, BitVec.toNat_ofNat, Nat.mod_eq_of_lt hm, Nat.mod_eq_of_lt hlo]
  cases planRuns s
  · by_cases hfit : v.toNat / 2 ^ 17 % 2 ^ 25 * 2048 + 2048 * newNblk v (bezelOf s z) ≤ 64 * 2 ^ 30
    · rw [if_pos hfit, decide_eq_true hfit]
      rfl
    · rw [if_neg hfit, decide_eq_false hfit]
      rfl
  · rfl

/-- R498, R508: what a write of CHN_TIMING lets the register take. -/
theorem chnTimingSet_eq (w : Width) (v : Word) (s : State) {x : Nat} (hx : (wrWidth w (chnTiming s.chain) v).toNat = x) :
    chnTimingSet w v s = if w = .high then s
      else if maxDelay s ≠ 0 ∧ 32 * (x % 64) < maxDelay s + 64 then
        forbidden offChnTiming { s with chain := { s.chain with rspTmo := BitVec.ofNat 4 (x / 256) } }
      else if x % 64 < 4 then { s with chain := { s.chain with rspTmo := BitVec.ofNat 4 (x / 256) } }
      else { s with chain := { s.chain with rspTmo := BitVec.ofNat 4 (x / 256), window := BitVec.ofNat 6 x } } := by
  have hwin : bitsOf x 0 6 = x % 64 := bitsOf_low _ _
  have hnew : BitVec.ofNat 6 (x % 64) = BitVec.ofNat 6 x := by
    apply BitVec.eq_of_toNat_eq
    simp
  have hrsp : BitVec.ofNat 4 (bitsOf x 8 4) = BitVec.ofNat 4 (x / 256) := bitsOf_ofNat 4 8 x
  simp only [chnTimingSet, hx, hwin, hrsp, hnew]

/-- The upper half of CHN_TIMING holds no field. -/
theorem rspTmo_of_high (c : Chain) (v : Word) :
    c.rspTmo = BitVec.ofNat 4 ((wrWidth .high (chnTiming c) v).toNat / 256) := by
  have := c.window.isLt
  have := c.rspTmo.isLt
  have hfield := bitsOf_wrWidth (lo := 8) (n := 4) (by decide) .high (chnTiming c) v
  rw [if_pos rfl, toNat_chnTiming] at hfield
  have h256 : BitVec.ofNat 4 ((wrWidth .high (chnTiming c) v).toNat / 256) =
      BitVec.ofNat 4 (bitsOf (wrWidth .high (chnTiming c) v).toNat 8 4) := (bitsOf_ofNat 4 8 _).symm
  rw [h256, hfield]
  apply BitVec.eq_of_toNat_eq
  rw [BitVec.toNat_ofNat, bitsOf]
  omega

end

/-- Settles O22: by register; what a write of CHN_TIMING and BZL_RED_CFG checks first. -/
theorem chainAndBezelWritesTakeEffect : Obligations.ChainAndBezelWritesTakeEffect := by
  unfold Obligations.ChainAndBezelWritesTakeEffect
  intro s m hup hlink
  refine ⟨fun hmay p => ?_, fun hmay w v => ?_, fun b hmay => ?_⟩
  · refine completes_of_exec (exec_regWrite hup hlink (f := calGo p.val) rfl hmay) ?_
    rw [calGo_eq]
    split
    · exact ⟨rfl, fun p' h => portOf_modPort_other _ _ h, portOf_modPort _ _ _⟩
    · exact ⟨rfl, fun _ _ => rfl, rfl⟩
  · refine completes_of_exec (exec_regWrite hup hlink (f := chnTimingSet w v) rfl hmay) ?_
    rw [chnTimingSet_eq w v s rfl]
    split
    next hw =>
      subst hw
      exact ⟨rspTmo_of_high _ _, rfl, rfl, rfl⟩
    next hw =>
      split
      · refine ⟨by simp [forbidden], by simp [forbidden], by simp [forbidden], ?_⟩
        exact recorded_recordAddr (by rfl) (by rfl) _ _ _ _
      · split
        · exact ⟨rfl, rfl, rfl, rfl⟩
        · exact ⟨rfl, rfl, rfl, rfl⟩
  · rw [mayWrite_owner (by unfold offBzl; omega)] at hmay
    have hbzl {r : Nat} : mayWrite s m (offBzl b.val r) = true := by
      rw [mayWrite_owner (by unfold offBzl; omega), hmay]
    refine ⟨fun v => ?_, fun ch => ?_, ?_⟩
    · refine completes_of_exec (exec_regWrite hup hlink (f := redCfgWrite b.val .full v) rfl hbzl) ?_
      have hforb := recorded_forbidden (s := s) rfl rfl (offBzl b.val 0x10)
      change _ ∧ if planRuns s = true then _ else if _ * 2048 + 2048 * newNblk v (bezelOf s b.val) ≤ _ then _ else _
      rw [redCfgWrite_full]
      split
      · exact ⟨fun z _ => bezelOf_forbidden _ z s, bezelOf_forbidden _ _ s, hforb⟩
      · split
        · exact ⟨fun z h => bezelOf_setBezel_other _ _ h, bezelOf_setBezel _ _ _, rfl⟩
        · exact ⟨fun z _ => bezelOf_forbidden _ z s, bezelOf_forbidden _ _ s, hforb⟩
    · refine completes_of_exec (exec_regWrite hup hlink (f := retrainGo b.val ch.val) rfl hbzl) ?_
      exact retrainGo_effect b ch.val s
    · exact completes_of_exec (exec_regWrite hup hlink (f := retireGo b.val) rfl hbzl)
        ⟨fun z h => bezelOf_modBezel_other _ _ h, bezelOf_modBezel _ _ _⟩

end Sys2Proof.Proofs
end

section
/-! Proofs for chapters 13 and 18: waiters that leave a clasp, the count that the management port sets, and the registers of
power and ownership. -/

namespace Sys2Proof.Proofs

open Sys2Proof Sys2Proof.Machine Sys2Proof.Laws

/-! ### Waiters leave a clasp (R445, R446, R450) -/

section
variable {s t : State} {k : Nat}

/-- No operation that `p` picks waits. -/
theorem applyActs_none {p : ClaspAct → Bool} (h : ∀ a ∈ s.clasps.acts, p a = false) : applyActs p s = s := by
  have hdone : s.clasps.acts.filter p = [] := List.filter_eq_nil_iff.2 fun a ha => by simp [h a ha]
  have hleft : (s.clasps.acts.filter fun a => !p a) = s.clasps.acts := List.filter_eq_self.2 fun a ha => by simp [h a ha]
  rw [applyActs, hdone, hleft]
  rfl

theorem claspSteps_none (h : ∀ a ∈ s.clasps.acts, a.key ≠ k) : claspSteps k s = s :=
  applyActs_none fun a ha => by simp [h a ha]

theorem claspCount_congr (h : t.clasps = s.clasps) (k : Nat) : claspCount t k = claspCount s k := by simp [claspCount, h]

theorem waitersOf_congr (h : t.clasps = s.clasps) (k : Nat) : waitersOf t k = waitersOf s k := by simp [waitersOf, h]

theorem clasps_claspAnswer (k : Nat) (w : WaitBy) (st : Nat) (s : State) : (claspAnswer k w st s).clasps = s.clasps :=
  (keeps_claspAnswer k w st (.refl _ s) (sub_refl _)).only.clasps.resolve_left (by decide)

theorem claspSatisfied_head {w : Waiter} {rest : List Waiter} (hw : waitersOf s k = w :: rest) :
    claspSatisfied s k = decide (w.n.toNat ≤ claspCount s k) := by
  rw [claspSatisfied, hw]

/-- The state in which the oldest waiter is answered: its N is taken, and it has left. -/
def grantTaken (k : Nat) (w : Waiter) (rest : List Waiter) (s : State) : State :=
  countEv (claspBlk k) (if 131072 ≤ k then 0x06 else 0) 1
    (setWaiters k rest (setClasp k (claspCount s k - w.n.toNat) s))

theorem claspGrant_eq {w : Waiter} {rest : List Waiter} (hw : waitersOf s k = w :: rest) :
    claspGrant k s = claspAnswer k w.by_ 0 (grantTaken k w rest s) := by
  simp only [claspGrant, hw]
  rfl

theorem clasps_grantTaken (k : Nat) (w : Waiter) (rest : List Waiter) (s : State) : (grantTaken k w rest s).clasps =
    (setWaiters k rest (setClasp k (claspCount s k - w.n.toNat) s)).clasps := by simp [grantTaken]

theorem claspCount_lt (s : State) (k : Nat) : claspCount s k < 65536 := (tblGet 0 s.clasps.count k).isLt

/-- The clasps behind a satisfied waiter. -/
theorem clasps_claspGrant {w : Waiter} {rest : List Waiter} (hw : waitersOf s k = w :: rest) :
    claspCount (claspGrant k s) k = claspCount s k - w.n.toNat ∧ waitersOf (claspGrant k s) k = rest ∧
      ∀ k', k' ≠ k → claspCount (claspGrant k s) k' = claspCount s k' ∧ waitersOf (claspGrant k s) k' = waitersOf s k' := by
  have hclasps : (claspGrant k s).clasps = (setWaiters k rest (setClasp k (claspCount s k - w.n.toNat) s)).clasps := by
    rw [claspGrant_eq hw, clasps_claspAnswer, clasps_grantTaken]
  have hlt := claspCount_lt s k
  refine ⟨?_, ?_, fun k' h => ⟨?_, ?_⟩⟩
  · rw [claspCount_congr hclasps]
    exact (claspCount_setClasp s k _).trans (Nat.mod_eq_of_lt (by omega))
  · rw [waitersOf_congr hclasps, waitersOf_setWaiters]
  · rw [claspCount_congr hclasps]
    exact claspCount_setClasp_other s _ h
  · rw [waitersOf_congr hclasps]
    exact waitersOf_setWaiters_other _ _ h

/-- R449: a bead's own waiter finds its answer in its S-queue. -/
theorem claspAnswer_own (k : Nat) (o : Ord) (id : Nat) (s : State) :
    claspAnswer k (.own o id) 0 s = modBead o.val (modEntry 3 id fun e => { e with fin := 1 }) s := rfl

/-- Waiters that time out together: the clasp's counts and the other clasps stay. -/
theorem clasps_claspTimeouts (k : Nat) (s : State) :
    (claspTimeouts k s).clasps = (setWaiters k ((waitersOf s k).filter fun w => !waitOver w) s).clasps :=
  foldl_same (·.clasps) (fun t (w : Waiter) => clasps_claspAnswer k w.by_ 2 t) _ _

/-- An answer that goes out over the mesh leaves the beads and the records. -/
theorem claspAnswer_node (k : Nat) (n : NodeN) (tag : BitVec 10) (st : Nat) (s : State) :
    (claspAnswer k (.node n tag) st s).beads = s.beads ∧ (claspAnswer k (.node n tag) st s).faults = s.faults := by
  simp only [claspAnswer]
  split
  · split
    · exact ⟨rfl, rfl⟩
    · exact ⟨sendMsg_beads _ _, sendMsg_faults _ _⟩
  · exact ⟨sendMsg_beads _ _, sendMsg_faults _ _⟩

theorem claspAnswers_nodes {l : List Waiter} (h : ∀ w ∈ l, ∃ n tag, w.by_ = .node n tag) (k st : Nat) (s : State) :
    (l.foldl (fun t w => claspAnswer k w.by_ st t) s).beads = s.beads ∧
      (l.foldl (fun t w => claspAnswer k w.by_ st t) s).faults = s.faults := by
  induction l generalizing s with
  | nil => exact ⟨rfl, rfl⟩
  | cons w l ih =>
    obtain ⟨n, tag, hw⟩ := h w (by simp)
    obtain ⟨hbeads, hfaults⟩ := ih (fun w hw => h w (by simp [hw])) (claspAnswer k w.by_ st s)
    rw [hw] at hbeads hfaults
    rw [List.foldl_cons, hw, hbeads, hfaults]
    exact claspAnswer_node k n tag st s

/-- R450: the timeouts of a clasp whose oldest waiter stays unsatisfied. -/
theorem exec_claspWaitTimeout {c : ClaspId} (hup : s.standby.mainUp = true) (hacts : ∀ a ∈ s.clasps.acts, a.key ≠ claspKey c)
    (hdue : ∃ w ∈ waitersOf s (claspKey c), w.due = some 0)
    (hnone : ∀ w rest, waitersOf s (claspKey c) = w :: rest → claspCount s (claspKey c) < w.n.toNat) :
    exec (.claspWaitTimeout c) s = .next (claspTimeouts (claspKey c) s) := by
  change whenOk s (mainUp s && claspExpired (claspSteps (claspKey c) s) (claspKey c) &&
    !claspSatisfied (claspSteps (claspKey c) s) (claspKey c)) (claspTimeouts (claspKey c) (claspSteps (claspKey c) s)) = _
  rw [claspSteps_none hacts]
  have hexp : claspExpired s (claspKey c) = true := by
    obtain ⟨w, hw, hdue⟩ := hdue
    exact List.any_eq_true.2 ⟨w, hw, by simp [waitOver, hdue]⟩
  have hsat : claspSatisfied s (claspKey c) = false := by
    cases hw : waitersOf s (claspKey c) with
    | nil => rw [claspSatisfied, hw]
    | cons w rest => simpa [claspSatisfied_head hw] using hnone w rest hw
  exact whenOk_of s (by simp [mainUp, hup, hexp, hsat]) _

end

/-- Settles O13: nothing that has reached the clasp goes before the waiters. -/
theorem claspWaitersLeave : Obligations.ClaspWaitersLeave := by
  unfold Obligations.ClaspWaitersLeave
  refine fun s c hup hacts => ⟨fun w rest hw hfits => ?_, fun hdue hnone => ?_⟩
  · have hexec : exec (.claspWaiterSatisfied c) s = .next (claspGrant (claspKey c) s) := by
      change whenOk s (mainUp s && claspSatisfied (claspSteps (claspKey c) s) (claspKey c))
        (claspGrant (claspKey c) (claspSteps (claspKey c) s)) = _
      rw [claspSteps_none hacts]
      exact whenOk_of s (by rw [claspSatisfied_head hw, decide_eq_true hfits]; simp [mainUp, hup]) _
    obtain ⟨hcount, hwait, hother⟩ := clasps_claspGrant hw
    refine completes_of_exec hexec ⟨hcount, hwait, hother, fun o e hby => ?_⟩
    rw [claspGrant_eq hw, hby, claspAnswer_own]
    have hbeads : (grantTaken (claspKey c) w rest s).beads = s.beads := by simp [grantTaken]
    have hfabric : (grantTaken (claspKey c) w rest s).fabric = s.fabric := by simp [grantTaken]
    have hfaults : (grantTaken (claspKey c) w rest s).faults = s.faults := by simp [grantTaken]
    refine ⟨otherBeads_trans (otherBeads_of_beads hbeads) (otherBeads_modBead _ _ _), hfabric, hfaults, fun x hx => ?_⟩
    rw [← beadOf_congr hbeads] at hx
    rw [beadOf_modBead]
    exact findEntry_modEntry hx
  · have hclasps := clasps_claspTimeouts (claspKey c) s
    refine completes_of_exec (exec_claspWaitTimeout hup hacts hdue hnone) ⟨fun k => claspCount_congr hclasps k, ?_,
      fun k h => ?_, fun hnodes => claspAnswers_nodes (fun w hw => ?_) _ _ _⟩
    · rw [waitersOf_congr hclasps, waitersOf_setWaiters]
      rfl
    · rw [waitersOf_congr hclasps]
      exact waitersOf_setWaiters_other s _ h
    · obtain ⟨hmem, hover⟩ := List.mem_filter.1 hw
      exact hnodes w hmem (by simpa [waitOver] using hover)

/-! ### Writes of MGT_PWR and MGT_OWN (R631, R635, R636) -/

section
variable {s : State} {m : Master} {f : State → State}

/-- R639, R800: the registers of power and ownership answer in every phase, and to every master but for the host's MGT_PWR. -/
theorem regWriteRow_standby {off : Nat} (hoff : off = offMgtPwr ∧ m ≠ .host ∨ off = offMgtOwn)
    (hlink : m = .host → s.host.link = 2) : regWriteRow m off f s = f s := by
  refine regWriteRow_may ?_ (reaches_of_link hlink) ?_ f
  · rcases hoff with ⟨rfl, -⟩ | rfl <;> exact Bool.or_true _
  · rcases hoff with ⟨rfl, hm⟩ | rfl
    · cases m with
      | core => rfl
      | host => exact absurd rfl hm
      | mgmt => rfl
    · cases m <;> rfl

/-- R631: HOLD_OFF set ramps the main domains down. -/
theorem setHold_effect (s : State) : (setHold s).standby.holdOff = true ∧ (setHold s).standby.cycling = s.standby.cycling ∧
    (setHold s).standby.phase = 0 ∧ (s.standby.phase ≠ 0 → RampedDown false s (setHold s)) := by
  by_cases hphase : s.standby.phase = 0
  · have hstay : setHold s = modStandby (fun b => { b with holdOff := true }) s := if_pos hphase
    rw [hstay]
    exact ⟨rfl, rfl, hphase, fun h => absurd hphase h⟩
  · obtain ⟨hdown, -, -, hhold⟩ := mainDown_rampedDown (s := modStandby (fun b => { b with holdOff := true }) s) hphase
    refine ⟨hhold, ?_, hdown.1, fun _ => hdown⟩
    rw [setHold, mainDown_eq (s := modStandby (fun b => { b with holdOff := true }) s) hphase]
    have hdrop := congrArg Standby.cycling (atDrop_standby (modStandby (fun b => { b with holdOff := true }) s))
    exact hdrop

/-- R636: a pending request ends, answered. -/
theorem deny_effect (hpend : s.standby.pending = true) : (deny s).standby = { s.standby with
    pending := false, granted := false, force := false, graceLeft := 0, takeReq := none } := by
  rw [deny, if_pos hpend, answerTake_standby]
  rfl

end

/-! ### Writes of CLP_VALUE (R460, R461) -/

section
variable {s t : State}

theorem pend_msixRequest (v : Nat) (s : State) : (msixRequest v s).hub.pend = s.hub.pend := by
  unfold msixRequest
  split
  · split
    · rfl
    · rfl
  · rfl

/-- The hub's lines leave what pends. -/
theorem pend_hubTick (s : State) : (hubTick s).hub.pend = s.hub.pend := by
  have hstep (b : Bool) (v : Nat) (t : State) : (if b = true then msixRequest v t else t).hub.pend = t.hub.pend := by
    cases b
    · rfl
    · exact pend_msixRequest v t
  unfold hubTick
  rw [foldl_same (·.hub.pend) (fun t v => by
    split
    · rfl
    · exact pend_msixRequest v t)]
  exact upTo_leaves (·.hub.pend) (fun t v => hstep _ v t) _ _

/-- The clasps' end of a ck other than 0 in which one management write waits: it comes behind everything else (R446). -/
theorem claspCk_set {k n : Nat} (hck : s.clock.ck ≠ 0) (hacts : s.clasps.acts = [⟨k, rankSet, .set n⟩]) :
    claspCk s = clpWrite k n { s with clasps := { s.clasps with acts := [] } } := by
  have hfirst : applyActs (fun a => decide (a.rank < rankSet)) s = s := applyActs_none fun a ha => by
    rw [hacts, List.mem_singleton] at ha
    simp [ha]
  have hck' : claspCk s = applyActs (fun _ => true) s := by simp only [claspCk, hfirst, if_neg hck]
  rw [hck', applyActs, hacts]
  rfl

/-- What a management write of a count leaves (R461). -/
theorem clpWrite_effect {n : Nat} (hn : n < 65536) (k : Nat) (s : State) :
    claspCount (clpWrite k n s) k = n ∧ tblGet 0 (clpWrite k n s).clasps.snap k = BitVec.ofNat 16 n ∧
      (clpWrite k n s).clasps.mgmtWrite = satInc s.clasps.mgmtWrite ∧ (clpWrite k n s).clasps.acts = s.clasps.acts ∧
      (clpWrite k n s).clasps.waiters = s.clasps.waiters ∧ ∀ k', k' ≠ k → claspCount (clpWrite k n s) k' = claspCount s k' := by
  have hclasps : (clpWrite k n s).clasps = { (setClasp k n s).clasps with
      snap := tblSet 0 s.clasps.snap k (BitVec.ofNat 16 n), mgmtWrite := satInc s.clasps.mgmtWrite } := by
    simp only [clpWrite, hubRaiseBy_clasps, recordAddr_clasps]
    rfl
  have hcount (k' : Nat) : claspCount (clpWrite k n s) k' = claspCount (setClasp k n s) k' := by
    rw [claspCount, hclasps]
    rfl
  rw [hclasps]
  refine ⟨?_, by simp, rfl, rfl, rfl, fun k' h => ?_⟩
  · rw [hcount, claspCount_setClasp, Nat.mod_eq_of_lt hn]
  · rw [hcount, claspCount_setClasp_other s n h]

theorem recorded_clpWrite (k n : Nat) (s : State) :
    Recorded 0x0C (claspBlk k) s (clpWrite k n { s with clasps := { s.clasps with acts := [] } }) := by
  refine recorded_congr ?_ (hubRaiseBy_faults _ _ _)
  exact recorded_recordAddr (by rfl) (by rfl) _ _ _ _

theorem raised_clpWrite (hup : s.standby.mainUp = true) (k n : Nat) :
    Raised (claspBlk k) 132 s (clpWrite k n { s with clasps := { s.clasps with acts := [] } }) :=
  raised_hubRaiseBy hup (by decide) ((recordAddr_hub _ _ _ _ _).trans (by rfl)) ((recordAddr_standby _ _ _ _ _).trans (by rfl))

/-- The row slots and the counters behind the clasps' end of a ck. -/
theorem keeps_slotsOver {ps : List Part} (s : State) (hP : sub [.beads, .asy] ps = true) :
    Keeps ps s (clearSlots (countCk s)) :=
  keeps_clearSlots (KeepsMk.w_asy (Keeps.refl _ s) (sub_mem (by decide) hP)) (sub_trans (by decide) hP)

/-- The end of a ck in which no port has a pause to end. -/
theorem endCk_unpaused (hpauses : ∀ p < 16, (portOf (claspCk s) p).pauseTo = 0) :
    endCk s = hubTick (clearSlots (countCk (claspCk s))) := by
  rw [endCk, endPauses_idle fun p hp => .inl ?_]
  rw [portOf_congr (chain_same (keeps_slotsOver (claspCk s) (sub_refl _)) (by decide)), hpauses p hp]

/-- A step of the empty queue in which a count that the management port sets comes into force (R446, R461). -/
theorem idleStep_clpWrite {k n : Nat} (hup : s.standby.mainUp = true) (hidle : s.pending = []) (hck : s.clock.ck ≠ 0)
    (hlast : s.clock.ck < 16383) (hn : n < 65536) (hacts : s.clasps.acts = [⟨k, rankSet, .set n⟩])
    (hraised : (132, claspBlk k) ∉ s.hub.raised) (hpauses : ∀ p < 16, (portOf s p).pauseTo = 0) :
    ∃ t, step s = .next t ∧ claspCount t k = n ∧ tblGet 0 t.clasps.snap k = BitVec.ofNat 16 n ∧
      t.clasps.mgmtWrite = satInc s.clasps.mgmtWrite ∧ Recorded 0x0C (claspBlk k) s t ∧
      t.hub.pend.getLsbD 132 = true ∧ t.clasps.acts = [] ∧ t.clasps.waiters = s.clasps.waiters ∧
      ∀ k', k' ≠ k → claspCount t k' = claspCount s k' := by
  have hset := claspCk_set hck hacts
  obtain ⟨hcount, hsnap, hmgmt, hdone, hwait, hother⟩ := clpWrite_effect hn k { s with clasps := { s.clasps with acts := [] } }
  have hport : ∀ p < 16, (portOf (claspCk s) p).pauseTo = 0 := fun p hp => by
    rw [hset, portOf_congr (chain_same (keeps_clpWrite k n (.refl _ _) (sub_refl _)) (by decide))]
    exact hpauses p hp
  have hend := endCk_unpaused hport
  have hkeep : Keeps [.beads, .hub, .asy, .out] (claspCk s) (endCk s) := by
    rw [hend]
    exact keeps_hubTick (keeps_slotsOver _ (by decide)) (by decide)
  have hpend : (endCk s).hub.pend = (claspCk s).hub.pend := by
    rw [hend, pend_hubTick, (keeps_slotsOver (claspCk s) (sub_refl _)).only.hub.resolve_left (by decide)]
  rw [hset] at hkeep hpend
  have hclasps : (advanceCk s).clasps = (clpWrite k n { s with clasps := { s.clasps with acts := [] } }).clasps := by
    rw [advanceCk_up hup hlast]
    dsimp only
    exact hkeep.only.clasps.resolve_left (by decide)
  have hfaults : (advanceCk s).faults = (clpWrite k n { s with clasps := { s.clasps with acts := [] } }).faults := by
    rw [advanceCk_up hup hlast]
    dsimp only
    exact hkeep.only.faults.resolve_left (by decide)
  refine ⟨advanceCk s, step_nil hidle, (claspCount_congr hclasps k).trans hcount, ?_, ?_,
    recorded_congr (recorded_clpWrite k n s) hfaults, ?_, ?_, ?_, fun k' h => (claspCount_congr hclasps k').trans (hother k' h)⟩
  · exact (congrArg (fun c : Clasps => tblGet 0 c.snap k) hclasps).trans hsnap
  · exact (congrArg Clasps.mgmtWrite hclasps).trans hmgmt
  · rw [advanceCk_up hup hlast]
    dsimp only
    rw [hpend]
    exact raised_clpWrite hup k n hraised
  · exact (congrArg Clasps.acts hclasps).trans hdone
  · exact (congrArg Clasps.waiters hclasps).trans hwait

end

/-- Settles O23: by register; a count that is set comes last in its ck. -/
theorem ownershipAndClaspWritesTakeEffect : Obligations.OwnershipAndClaspWritesTakeEffect := by
  unfold Obligations.OwnershipAndClaspWritesTakeEffect
  refine fun s => ⟨fun m v hm hv => ?_, fun m v hm hv => ?_, fun hlink hpend => ⟨?_, ?_⟩, fun hpend => ⟨?_, ?_⟩,
    fun hup w v k hw hkey => ?_, fun k n hup hidle hck hlast hn hacts hraised hpauses => ?_,
    fun hup w v hkey hgone => ?_⟩
  · refine congrArg Host.Outcome.next ((regWriteRow_standby (.inl ⟨rfl, hm⟩) fun h => absurd h hm).trans ?_)
    simp only [mgtPwrSet, wrWidth, bitOf_toNat, hv]
    rfl
  · refine completes_of_exec (congrArg Host.Outcome.next (regWriteRow_standby (.inl ⟨rfl, hm⟩) fun h => absurd h hm)) ?_
    have hset : mgtPwrSet .full v s = setHold (modStandby (fun b => { b with cycling := false }) s) := by
      simp only [mgtPwrSet, wrWidth, bitOf_toNat, hv, if_true]
    rw [hset]
    exact setHold_effect _
  · exact congrArg Host.Outcome.next ((regWriteRow_standby (.inr rfl) fun _ => hlink).trans (if_pos hpend))
  · refine completes_of_exec (congrArg Host.Outcome.next (regWriteRow_standby (.inr rfl) fun _ => hlink)) ?_
    rw [hostAnswer, if_pos rfl, deny_effect hpend]
    exact ⟨rfl, rfl, rfl, rfl, rfl, rfl⟩
  · by_cases hlink : s.host.link = 2
    · refine congrArg Host.Outcome.next ((regWriteRow_standby (.inr rfl) fun _ => hlink).trans ?_)
      simp [hostAnswer, grant, hpend]
    · exact exec_regWrite_unreached hlink rfl
  · by_cases hlink : s.host.link = 2
    · refine congrArg Host.Outcome.next ((regWriteRow_standby (.inr rfl) fun _ => hlink).trans ?_)
      simp [hostAnswer, deny, hpend]
    · exact exec_regWrite_unreached hlink rfl
  · refine (exec_regWrite (m := .mgmt) hup (by simp) (f := clpValueDo .mgmt w v) rfl rfl).trans ?_
    have hlow : bitsOf v.toNat 0 16 = v.toNat % 65536 := bitsOf_low _ _
    rw [clpValueDo, if_pos rfl, hkey]
    simp only [if_neg hw, claspReach, hlow]
  · exact idleStep_clpWrite hup hidle hck hlast hn hacts hraised hpauses
  · refine completes_of_exec (exec_regWrite (m := .mgmt) hup (by simp) (f := clpValueDo .mgmt w v) rfl rfl) ?_
    have hdo : clpValueDo .mgmt w v s = recordGone offClpValue s := by
      rw [clpValueDo, if_pos rfl, hkey]
      exact if_pos hgone
    rw [hdo]
    exact ⟨(keeps_recordAddr _ _ _ _ (.refl _ s) (by decide)).only, recorded_recordAddr rfl rfl _ _ _ _⟩

end Sys2Proof.Proofs
end

section
/-! Proofs for chapter 19: events, the words that set and clear them, and claims. -/

namespace Sys2Proof.Proofs

open Sys2Proof Sys2Proof.Machine Sys2Proof.Laws

/-! ### What the hub holds of a source -/

/-- The pending bit of a source, its counter, and its events of this ck. -/
def hubAt (h : Hub) (i : Nat) : Bool × BitVec 8 × BitVec 8 := (h.pend.getLsbD i, tblGet 0 h.cnt i, tblGet 0 h.fresh i)

/-- One event more of a source (R643). -/
def eventAt (x : Bool × BitVec 8 × BitVec 8) : Bool × BitVec 8 × BitVec 8 := (true, satInc x.2.1, satInc x.2.2)

/-- A source cleared, but for its events of this ck (R650). -/
def clearedAt (x : Bool × BitVec 8 × BitVec 8) : Bool × BitVec 8 × BitVec 8 := (x.1 && !decide (x.2.2 = 0), x.2.2, x.2.2)

section
variable {src i : Nat}

theorem getLsbD_srcBit_eq (hsrc : src < 2048) (i : Nat) : (srcBit src).getLsbD i = decide (i = src) := by
  rw [srcBit, BitVec.getLsbD_ofNat, Nat.testBit_two_pow]
  by_cases h : i = src
  · simp [h, hsrc]
  · simp [h, Ne.symm h]

theorem hubAt_hubSet (hsrc : src < 2048) (s : State) (i : Nat) :
    hubAt (hubSet src s).hub i = if i = src then eventAt (hubAt s.hub i) else hubAt s.hub i := by
  by_cases h : i = src
  · subst h
    simp [hubAt, hubSet, eventAt, tblMod, getLsbD_srcBit_eq hsrc]
  · simp [hubAt, hubSet, tblMod, getLsbD_srcBit_eq hsrc, h, tblGet_tblSet_other]

theorem getLsbD_pend_hubClear (hsrc : src < 2048) (s : State) (i : Nat) : (hubClear src s).hub.pend.getLsbD i =
    (s.hub.pend.getLsbD i && decide (i ≠ src ∨ tblGet 0 s.hub.fresh src ≠ 0)) := by
  change (if tblGet 0 s.hub.fresh src = 0 then s.hub.pend &&& ~~~ srcBit src else s.hub.pend).getLsbD i = _
  generalize tblGet 0 s.hub.fresh src = n
  by_cases hn : n = 0
  · rw [if_pos hn, BitVec.getLsbD_and, BitVec.getLsbD_not, getLsbD_srcBit_eq hsrc]
    by_cases hi : i < 2048
    · simp [hi, hn]
    · rw [BitVec.getLsbD_of_ge _ _ (Nat.le_of_not_lt hi), Bool.false_and, Bool.false_and]
  · rw [if_neg hn, decide_eq_true (.inr hn), Bool.and_true]

theorem cnt_hubClear (src : Nat) (s : State) (i : Nat) : tblGet 0 (hubClear src s).hub.cnt i =
    if i = src then tblGet 0 s.hub.fresh src else tblGet 0 s.hub.cnt i := by
  split
  next h => exact h ▸ tblGet_tblSet_same _ _ _ _
  next h => exact tblGet_tblSet_other _ _ _ _ _ h

theorem hubAt_hubClear (hsrc : src < 2048) (s : State) (i : Nat) :
    hubAt (hubClear src s).hub i = if i = src then clearedAt (hubAt s.hub i) else hubAt s.hub i := by
  rw [hubAt, getLsbD_pend_hubClear hsrc, cnt_hubClear]
  by_cases h : i = src
  · subst h
    simp only [if_true, ne_eq, not_true_eq_false, false_or, decide_not]
    rfl
  · simp [hubAt, hubClear, h]

/-- A word of sources, each at most once: those that the word has as 1, and that R658 assigns. -/
theorem hubAt_onSources {f : Nat → State → State} {φ : Bool × BitVec 8 × BitVec 8 → Bool × BitVec 8 × BitVec 8}
    (hf : ∀ src < 2048, ∀ s i, hubAt (f src s).hub i = if i = src then φ (hubAt s.hub i) else hubAt s.hub i)
    (w : Nat) (v : Word) (s : State) (i : Nat) :
    hubAt (onSources w v f s).hub i =
      if i / 64 = w ∧ v.getLsbD (i % 64) = true ∧ hubAssigned i = true then φ (hubAt s.hub i) else hubAt s.hub i := by
  have hn : ∀ n ≤ 64, hubAt (upTo n (fun t j => if bitOf v.toNat j && hubAssigned (64 * w + j) then f (64 * w + j) t else t) s).hub i =
      if (i / 64 = w ∧ i % 64 < n) ∧ v.getLsbD (i % 64) = true ∧ hubAssigned i = true then φ (hubAt s.hub i)
      else hubAt s.hub i := by
    intro n hle
    induction n with
    | zero => rw [if_neg fun h => absurd h.1.2 (Nat.not_lt_zero _)]; rfl
    | succ n ih =>
      rw [upTo_succ]
      split
      next hset =>
        simp only [Bool.and_eq_true, bitOf_toNat] at hset
        rw [hf _ (hubAssigned_lt hset.2), ih (by omega)]
        by_cases hi : i = 64 * w + n
        · have hq : i / 64 = w := by omega
          have hr : i % 64 = n := by omega
          rw [if_pos hi, if_neg (by omega), if_pos ⟨⟨hq, by omega⟩, by rw [hr]; exact hset.1, hi ▸ hset.2⟩]
        · rw [if_neg hi]
          exact if_congr (and_congr_left' (by omega)) rfl rfl
      next hset =>
        rw [ih (by omega)]
        refine if_congr (and_congr_left fun hbit => ?_) rfl rfl
        suffices i ≠ 64 * w + n by omega
        rintro rfl
        have hr : (64 * w + n) % 64 = n := by omega
        rw [hr] at hbit
        simp [bitOf_toNat, hbit] at hset
  rw [onSources, hn 64 (le_refl _)]
  have hlt : i % 64 < 64 := Nat.mod_lt _ (by decide)
  simp only [hlt, and_true]

theorem toNat_satInc (c : BitVec 8) : (satInc c).toNat = min 255 (c.toNat + 1) := by
  rw [satInc, BitVec.toNat_ofNat, Nat.mod_eq_of_lt (by omega)]
  rfl

/-- R640, R643: an event of an assigned source that its block has not raised in this ck. -/
theorem hubRaise_new {s : State} (hup : s.standby.mainUp = true) (hsrc : hubAssigned src = true) (hnew : (src, 0) ∉ s.hub.raised) :
    hubRaise src s = hubSet src { s with hub := { s.hub with raised := (src, 0) :: s.hub.raised } } := by
  have hraise : (mainUp s && hubAssigned src && !s.hub.raised.contains (src, 0)) = true := by simp [mainUp, hup, hsrc, hnew]
  rw [hubRaise, hubRaiseBy, if_pos hraise]

theorem hubRaise_again {s : State} (hold : (src, 0) ∈ s.hub.raised) : hubRaise src s = s := by
  simp [hubRaise, hubRaiseBy, hold]

end

/-- Settles O18: by source, what one event and one clear do to it. -/
theorem eventsPendAndCount : Obligations.EventsPendAndCount := by
  unfold Obligations.EventsPendAndCount
  refine fun s hup => ⟨fun src hlive hold => ?_, fun src hlive hnew => ?_, fun m w v hlink => ⟨fun hmay => ?_, fun hmay => ?_⟩⟩
  · refine (whenOk_of s (by simp [mainUp, hup, hlive]) _).trans ?_
    rw [hubRaise_again hold]
  · have hsrc : hubAssigned src.val = true := (Bool.and_eq_true_iff.1 hlive).1
    refine completes_of_exec (whenOk_of s (by simp [mainUp, hup, hlive]) _) ?_
    rw [hubRaise_new hup hsrc hnew]
    have hat := hubAt_hubSet src.isLt { s with hub := { s.hub with raised := (src.val, 0) :: s.hub.raised } }
    refine ⟨fun i => ?_, ?_, fun i hi => ?_⟩
    · refine (congrArg Prod.fst (hat i)).trans ?_
      by_cases hi : i = src.val <;> simp [hi, hubAt, eventAt]
    · refine (congrArg (fun x : Bool × BitVec 8 × BitVec 8 => x.2.1.toNat) (hat src.val)).trans ?_
      rw [if_pos rfl]
      exact toNat_satInc _
    · refine (congrArg (fun x : Bool × BitVec 8 × BitVec 8 => x.2.1) (hat i)).trans ?_
      rw [if_neg hi]
      rfl
  · refine completes_of_exec (exec_regWrite hup hlink (f := onSources w.val v hubSet) rfl hmay) fun i hi => ?_
    have hat := hubAt_onSources (f := hubSet) (φ := eventAt) (fun src h s i => hubAt_hubSet h s i) w.val v s i
    refine ⟨(congrArg Prod.fst hat).trans ?_, (congrArg (fun x : Bool × BitVec 8 × BitVec 8 => x.2.1.toNat) hat).trans ?_⟩
    · by_cases hhit : i / 64 = w.val ∧ v.getLsbD (i % 64) = true ∧ hubAssigned i = true
      · rw [if_pos hhit]
        simp [eventAt, hhit]
      · rw [if_neg hhit, hubAt]
        grind
    · by_cases hhit : i / 64 = w.val ∧ v.getLsbD (i % 64) = true ∧ hubAssigned i = true
      · rw [if_pos hhit]
        obtain ⟨hw, hbit, hass⟩ := hhit
        simp only [hw, hbit, hass, decide_true, Bool.and_self]
        exact toNat_satInc _
      · rw [if_neg hhit, hubAt]
        have hno : (decide (i / 64 = w.val) && v.getLsbD (i % 64) && hubAssigned i) = false := by grind
        have hlt := (tblGet 0 s.hub.cnt i).isLt
        rw [hno]
        exact (Nat.min_eq_right (by omega)).symm
  · refine completes_of_exec (exec_regWrite hup hlink (f := onSources w.val v hubClear) rfl hmay) fun i hi => ?_
    have hat := hubAt_onSources (f := hubClear) (φ := clearedAt) (fun src h s i => hubAt_hubClear h s i) w.val v s i
    refine ⟨(congrArg Prod.fst hat).trans ?_, (congrArg (fun x : Bool × BitVec 8 × BitVec 8 => x.2.1) hat).trans ?_⟩
    · by_cases hhit : i / 64 = w.val ∧ v.getLsbD (i % 64) = true ∧ hubAssigned i = true
      · rw [if_pos hhit]
        obtain ⟨hw, hbit, hass⟩ := hhit
        simp only [clearedAt, hubAt, hw, hbit, hass, decide_true, Bool.and_self, Bool.true_and]
        rfl
      · rw [if_neg hhit, hubAt]
        grind
    · by_cases hhit : i / 64 = w.val ∧ v.getLsbD (i % 64) = true ∧ hubAssigned i = true
      · rw [if_pos hhit]
        simp [clearedAt, hubAt, hhit]
      · rw [if_neg hhit, hubAt]
        grind

/-! ### Claims (R648 to R651) -/

section
variable {h : Hub} {t src : Nat}

/-- The highest bit of a word, as its logarithm. -/
theorem log2_of_highest {n : Nat} {x : BitVec n} {k : Nat} (hk : x.getLsbD k = true) (hhigh : ∀ i, k < i → x.getLsbD i = false) :
    Nat.log2 x.toNat = k := by
  have hge : 2 ^ k ≤ x.toNat := Nat.ge_two_pow_of_testBit hk
  have hlt : x.toNat < 2 ^ (k + 1) := Nat.lt_pow_two_of_testBit _ fun i hi => hhigh i hi
  exact (Nat.log2_eq_iff (by have := Nat.two_pow_pos k; omega)).2 ⟨hge, hlt⟩

theorem claimValue_none (he : claimable h t = 0) : claimValue h t = (0, none) := by
  simp only [claimValue]
  rw [if_pos (he ▸ BitVec.toNat_zero)]

theorem claimValue_highest (hsrc : (claimable h t).getLsbD src = true)
    (hhigh : ∀ i, src < i → (claimable h t).getLsbD i = false) :
    claimValue h t = (BitVec.ofNat 64 (src + (tblGet 0 h.cntWas src).toNat * 65536 + 2 ^ 31), some src) := by
  have hne : (claimable h t).toNat ≠ 0 := by
    have hge : 2 ^ src ≤ (claimable h t).toNat := Nat.ge_two_pow_of_testBit hsrc
    have := Nat.two_pow_pos src
    omega
  simp only [claimValue]
  rw [if_neg hne, log2_of_highest hsrc hhigh]

/-- The masters of the targets (R651). -/
theorem claims_iff (m : Master) (t : Nat) : claims m t = true ↔
    (m = .core ∧ t < 4) ∨ (m = .host ∧ 4 ≤ t ∧ t ≤ 35) ∨ (m = .mgmt ∧ t = 36) := by
  cases m <;> simp [claims]

/-- What a claim leaves of the hub: the source taken, and for the host the line that is looked at again (R653). -/
theorem claimRead_hub {m : Master} {s : State} {v : Word} {r : Option Nat} (hr : claimValue s.hub t = (v, r)) :
    (claimRead m t s).out = s.out ++ [.regValue v] ∧ ∃ after, (claimRead m t s).hub =
      if claims m t then
        { (match r with | some src => (hubTake src s).hub | none => s.hub) with after := after }
      else s.hub := by
  simp only [claimRead, hr]
  cases claims m t
  · exact ⟨rfl, [], rfl⟩
  · cases r <;> by_cases hm : m = .host <;> simp only [hm, if_true, if_false] <;> exact ⟨rfl, _, rfl⟩

/-- A source taken: no other claim of the ck has it (R650). -/
theorem claimable_hubTake (hsrc : src < 2048) (s : State) (t : Nat) : (claimable (hubTake src s).hub t).getLsbD src = false := by
  have hwas : (hubTake src s).hub.pendWas = s.hub.pendWas &&& ~~~ srcBit src := rfl
  rw [claimable, hwas, BitVec.getLsbD_and, BitVec.getLsbD_and, BitVec.getLsbD_not, getLsbD_srcBit_eq hsrc]
  simp

theorem exec_irqClaim {s : State} {m : Master} (t : Fin 37) (hup : s.standby.mainUp = true) (hlink : m = .host → s.host.link = 2) :
    exec (.irqClaim m t) s = .next (claimRead m t.val s) := by
  change Host.Outcome.next (if answers s (offClaim t.val) && reaches s m then claimRead m t.val s else s) = _
  rw [answers_of_mainUp hup, reaches_of_link hlink]
  rfl

end

/-- Settles O19: the highest bit of the claimable sources, and what taking it clears. -/
theorem claimsTakeTheHighestSource : Obligations.ClaimsTakeTheHighestSource := by
  unfold Obligations.ClaimsTakeTheHighestSource
  refine fun s m t hup hlink => ⟨fun hnone => ?_, fun src hsrc hhigh => ?_⟩
  · obtain ⟨hout, after, hhub⟩ := claimRead_hub (m := m) (claimValue_none hnone)
    refine completes_of_exec (exec_irqClaim t hup hlink) ⟨hout, ?_⟩
    rw [hhub]
    split <;> exact ⟨rfl, rfl⟩
  · obtain ⟨hout, after, hhub⟩ := claimRead_hub (m := m) (claimValue_highest hsrc hhigh)
    refine completes_of_exec (exec_irqClaim t hup hlink) ⟨hout, ?_⟩
    rw [hhub]
    by_cases hc : claims m t.val = true
    · rw [if_pos hc, if_pos ((claims_iff m t.val).1 hc)]
      have hlt : src < 2048 := BitVec.lt_of_getLsbD hsrc
      refine ⟨rfl, fun i => ?_, ?_, claimable_hubTake hlt s t.val, fun i hi => ?_⟩
      · exact getLsbD_pend_hubClear hlt { s with hub := { s.hub with
          pendWas := s.hub.pendWas &&& ~~~ srcBit src, cntWas := tblSet 0 s.hub.cntWas src 0 } } i
      · exact tblGet_tblSet_same _ _ _ _
      · exact tblGet_tblSet_other _ _ _ _ _ hi
    · rw [if_neg hc, if_neg fun h => hc ((claims_iff m t.val).2 h)]
      exact ⟨rfl, rfl⟩

end Sys2Proof.Proofs
end

section
/-! Proofs for chapter 14: what the operations on a chain port leave, and frames that are acknowledged, refused and sent again. -/

namespace Sys2Proof.Proofs

open Sys2Proof Sys2Proof.Machine Sys2Proof.Laws

/-! ### A port as the chain's table holds it -/

section
variable {s t u : State} {p : Nat}

theorem portOf_of_ports (h : t.chain.ports = s.chain.ports) (p : Nat) : portOf t p = portOf s p := by simp [portOf, h]

theorem otherPorts_of_ports {q : Port} (h : t.chain.ports = (setPort p q s).chain.ports) : OtherPorts p s t := fun p' n =>
  (portOf_of_ports h p').trans (portOf_setPort_other s q n)

theorem portOf_same {q : Port} (h : t.chain.ports = (setPort p q s).chain.ports) : portOf t p = q :=
  (portOf_of_ports h p).trans (portOf_setPort s p q)

/-- A port record leaves the chain, the clock and what has been sent as they are. -/
theorem recordLane_chain (p lane st disc : Nat) (s : State) : (recordLane p lane st disc s).chain = s.chain := by
  simp [recordLane]

theorem recordLane_out (p lane st disc : Nat) (s : State) : (recordLane p lane st disc s).out = s.out := by
  simp [recordLane]

theorem recorded_recordLane (hclock : t.clock = s.clock) (hfaults : t.faults = s.faults) (p lane st disc : Nat) :
    Recorded 0x0F (blkPort p) s (recordLane p lane st disc t) :=
  recorded_congr (recorded_recordAt hclock hfaults _ _ _) (hubRaise_faults _ _)

theorem raised_recordLane (hup : s.standby.mainUp = true) (g : HubGrown s t) (hp : p < 16) (lane st disc : Nat) :
    Raised 0 (112 + p) s (recordLane p lane st disc t) := by
  have hrec : HubGrown s (recordAt 0x0F (blkPort p) (p + lane * 16 + st * 128 + disc * 1024) t) :=
    g.trans (.of_same (recordAt_standby _ _ _ _) (recordAt_hub _ _ _ _))
  refine raised_behind hrec (hubGrown_hubRaise _ _) (raised_hubRaise (by rw [hrec.standby, hup]) ?_)
  simp only [hubAssigned, Bool.or_eq_true, Bool.and_eq_true, decide_eq_true_eq]
  omega

/-! ### A port loses its link -/

/-- A port behind the loss of its link (R468). -/
def portLeft (into : PortState) (q : Port) : Port :=
  { q with
    st := into, pauseTo := 0, cal := false, calGo := false, newMap := none, newCal := false, calLane := 7, peerWindow := none
    replay := [], tx := [], rx := [], nakOut := false, out := q.out.map fun x => (x.1, x.2.map fun e => { e with lost := true }) }

theorem hubGrown_breakRec (z r : Nat) (s : State) : HubGrown s (breakRec z r s) := by
  unfold breakRec
  refine HubGrown.trans (.of_same ?_ ?_) (hubGrown_hubRaise _ _)
  · rw [recordAddr_standby]
    rfl
  · rw [recordAddr_hub]
    rfl

theorem hubGrown_foldl {α : Type} {f : State → α → State} (h : ∀ t a, HubGrown t (f t a)) (l : List α) (s : State) :
    HubGrown s (l.foldl f s) := by
  induction l generalizing s with
  | nil => exact .of_same rfl rfl
  | cons a l ih => exact (h s a).trans (ih _)

theorem hubGrown_breakFans (peer : Nat) (s : State) : HubGrown s (breakFans peer s) := by
  unfold breakFans upTo
  refine hubGrown_foldl (fun t z => ?_) _ s
  refine hubGrown_foldl (fun u f => ?_) _ t
  exact hubGrown_breakRec z f.record u

/-- The requests and records that the loss of a port ends, in the order of `portLeaves`. -/
def portEnds (into : PortState) (p : Nat) (s : State) : State :=
  let q := portOf s p
  let s2 := (q.replay.map (fun x => x.1.msg) ++ q.tx.map (·.msg)).foldl (fun t m => recordLost q.peer.toNat m t)
    (setPort p (portLeft into q) s)
  if flows q then breakFans q.peer.toNat (chainFail q.peer.toNat s2) else s2

theorem portLeaves_eq (into : PortState) (p : Nat) (s : State) : portLeaves into p s =
    if into == .down && portUsed s p then
      endService 0x0F (if into == .training then sendTrain p (noteWindows (forgetNum (recordLane p 0 (portCode into) 0 (portEnds into p s))))
        else noteWindows (forgetNum (recordLane p 0 (portCode into) 0 (portEnds into p s))))
    else if into == .training then sendTrain p (noteWindows (forgetNum (recordLane p 0 (portCode into) 0 (portEnds into p s))))
      else noteWindows (forgetNum (recordLane p 0 (portCode into) 0 (portEnds into p s))) := by
  unfold portLeaves portEnds portLeft
  with_reducible rfl

/-- The fault records of what a lost port held. -/
theorem keeps_lostRecords {ps : List Part} (peer : Nat) (l : List Msg) (s : State) (hP : sub [.ledger, .faults] ps = true) :
    Keeps ps s (l.foldl (fun t m => recordLost peer m t) s) :=
  Keeps.foldl l (.refl _ s) fun _ m h => keeps_recordLost peer m h hP

theorem keeps_portEnds (into : PortState) (p : Nat) (s : State) :
    Keeps [.beads, .bezels, .ledger, .faults, .hub, .asy] (setPort p (portLeft into (portOf s p)) s) (portEnds into p s) := by
  unfold portEnds
  dsimp only
  split
  · exact keeps_breakFans _ (keeps_chainFail _ (keeps_lostRecords _ _ _ (by decide)) (by decide)) (by decide)
  · exact keeps_lostRecords _ _ _ (by decide)

theorem hubGrown_portEnds (into : PortState) (p : Nat) (s : State) : HubGrown s (portEnds into p s) := by
  have hsame {t : State} (h : Keeps [.beads, .ledger, .faults, .asy] (setPort p (portLeft into (portOf s p)) s) t) :
      HubGrown s t :=
    .of_same ((standby_same h (by decide)).trans rfl) ((h.only.hub.resolve_left (by decide)).trans rfl)
  unfold portEnds
  dsimp only
  split
  · exact (hsame (keeps_chainFail _ (keeps_lostRecords _ _ _ (by decide)) (by decide))).trans (hubGrown_breakFans _ _)
  · exact hsame (keeps_lostRecords _ _ _ (by decide))

theorem forgetNum_chain (h : t.chain = s.chain) : (forgetNum t).chain = (forgetNum s).chain := by
  simp only [forgetNum, portOf_congr h]
  split
  · exact h
  · simp [h]

theorem noteWindows_chain (h : t.chain = s.chain) : (noteWindows t).chain = (noteWindows s).chain := by
  simp only [noteWindows, windowsDiffer, reachable, portOf_congr h, h]

/-- The chain behind a port's loss: the port, and what it means for the module's number and for WINMIS. -/
theorem chain_portLeaves (into : PortState) (p : Nat) (s : State) : (portLeaves into p s).chain =
    (noteWindows (forgetNum (setPort p (portLeft into (portOf s p)) s))).chain := by
  have hends : (recordLane p 0 (portCode into) 0 (portEnds into p s)).chain = (setPort p (portLeft into (portOf s p)) s).chain :=
    (recordLane_chain _ _ _ _ _).trans (chain_same (keeps_portEnds into p s) (by decide))
  have hkept {t : State} (h : Keeps [.clock, .out] (noteWindows (forgetNum (recordLane p 0 (portCode into) 0 (portEnds into p s)))) t) :
      t.chain = (noteWindows (forgetNum (setPort p (portLeft into (portOf s p)) s))).chain :=
    (chain_same h (by decide)).trans (noteWindows_chain (forgetNum_chain hends))
  rw [portLeaves_eq]
  split <;> split
  · exact hkept (keeps_endService _ (keeps_sendTrain _ (.refl _ _) (by decide)) (by decide))
  · exact hkept (keeps_endService _ (.refl _ _) (by decide))
  · exact hkept (keeps_sendTrain _ (.refl _ _) (by decide))
  · exact hkept (.refl _ _)

/-- A port's loss and the ports: it alone differs. -/
theorem ports_portLeaves (into : PortState) (p : Nat) (s : State) :
    (portLeaves into p s).chain.ports = (setPort p (portLeft into (portOf s p)) s).chain.ports := by
  rw [chain_portLeaves]
  change (forgetNum _).chain.ports = _
  unfold forgetNum
  split <;> rfl

theorem out_portLeaves {into : PortState} (h : into ≠ .training) (p : Nat) (s : State) : (portLeaves into p s).out = s.out := by
  have hends : (noteWindows (forgetNum (recordLane p 0 (portCode into) 0 (portEnds into p s)))).out = s.out := by
    have hnote (t : State) : Keeps [.chain] t (noteWindows (forgetNum t)) :=
      keeps_noteWindows (keeps_forgetNum (.refl _ _) (by decide)) (by decide)
    have hset : Keeps [.chain] s (setPort p (portLeft into (portOf s p)) s) := keeps_setPort p _ (.refl _ s) (by decide)
    rw [(hnote _).only.out.resolve_left (by decide), recordLane_out, (keeps_portEnds into p s).only.out.resolve_left (by decide),
      hset.only.out.resolve_left (by decide)]
  rw [portLeaves_eq, beq_false_of_ne h]
  split
  · exact (endService_out _ _).trans hends
  · exact hends

/-- Behind the record of the port: neither the hub nor the records change. -/
theorem keeps_portLeaves_recorded (into : PortState) (p : Nat) (s : State) :
    Keeps [.clock, .chain, .out] (recordLane p 0 (portCode into) 0 (portEnds into p s)) (portLeaves into p s) := by
  have hnote : Keeps [.clock, .chain, .out] (recordLane p 0 (portCode into) 0 (portEnds into p s))
      (noteWindows (forgetNum (recordLane p 0 (portCode into) 0 (portEnds into p s)))) :=
    keeps_noteWindows (keeps_forgetNum (.refl _ _) (by decide)) (by decide)
  rw [portLeaves_eq]
  split <;> split
  · exact keeps_endService _ (keeps_sendTrain _ hnote (by decide)) (by decide)
  · exact keeps_endService _ hnote (by decide)
  · exact keeps_sendTrain _ hnote (by decide)
  · exact hnote

theorem hubGrown_recordLane (p lane st disc : Nat) (s : State) : HubGrown s (recordLane p lane st disc s) :=
  .trans (.of_same (recordAt_standby _ _ _ _) (recordAt_hub _ _ _ _)) (hubGrown_hubRaise _ _)

theorem hubGrown_portLeaves (into : PortState) (p : Nat) (s : State) : HubGrown s (portLeaves into p s) :=
  ((hubGrown_portEnds into p s).trans (hubGrown_recordLane _ _ _ _ _)).trans
    (.of_same (standby_same (keeps_portLeaves_recorded into p s) (by decide))
      ((keeps_portLeaves_recorded into p s).only.hub.resolve_left (by decide)))

theorem raised_portLeaves (hup : s.standby.mainUp = true) (hp : p < 16) (into : PortState) :
    Raised 0 (112 + p) s (portLeaves into p s) := by
  intro hnew
  rw [(keeps_portLeaves_recorded into p s).only.hub.resolve_left (by decide)]
  exact raised_recordLane hup (hubGrown_portEnds into p s) hp 0 (portCode into) 0 hnew

end

end Sys2Proof.Proofs
end

section
/-! Proofs for chapter 14: frames are acknowledged, refused and sent again. -/

namespace Sys2Proof.Proofs

open Sys2Proof Sys2Proof.Machine Sys2Proof.Laws

/-! ### What a link control word brings (R470, R473, R476) -/

/-- The frames behind an acknowledged one. -/
def unacked' (ack : BitVec 12) (replay : List (ChainFrame × Nat)) : List (ChainFrame × Nat) :=
  if replay.any fun x => x.1.link.seq == ack then (replay.dropWhile fun x => x.1.link.seq != ack).drop 1 else replay

/-- A port behind a link control word without a NAK. -/
def linked (l : LinkWord) (q : Port) : Port :=
  addCredits l.cclass.toNat l.credits.toNat { q with replay := unacked' l.ack q.replay }

section
variable {s t u : State} {p : Nat} {l : LinkWord}

theorem pump_empty (h : (portOf s p).tx = []) : pump p s = s := by
  rw [pump, h]
  rfl

theorem addCredits_kept (c n : Nat) (q : Port) : addCredits c n q = { q with
    creditReq := q.creditReq + (if c = 0 then n else 0), creditRsp := q.creditRsp + (if c = 1 then n else 0)
    creditAcc := q.creditAcc + (if c = 2 then n else 0) } := by
  unfold addCredits
  split
  next h =>
    subst h
    rfl
  next h0 =>
    split
    next h =>
      subst h
      rfl
    next =>
      split
      next h =>
        subst h
        rfl
      next => rfl

theorem linked_eq (l : LinkWord) (q : Port) : linked l q = { q with
    replay := unacked' l.ack q.replay
    creditReq := q.creditReq + (if l.cclass = 0 then l.credits.toNat else 0)
    creditRsp := q.creditRsp + (if l.cclass = 1 then l.credits.toNat else 0)
    creditAcc := q.creditAcc + (if l.cclass = 2 then l.credits.toNat else 0) } := by
  have h0 : l.cclass = 0 ↔ l.cclass.toNat = 0 := BitVec.toNat_inj.symm
  have h1 : l.cclass = 1 ↔ l.cclass.toNat = 1 := BitVec.toNat_inj.symm
  have h2 : l.cclass = 2 ↔ l.cclass.toNat = 2 := BitVec.toNat_inj.symm
  rw [if_congr h0 rfl rfl, if_congr h1 rfl rfl, if_congr h2 rfl rfl]
  exact addCredits_kept _ _ _

theorem linked_rx (l : LinkWord) (q : Port) : (linked l q).rx = q.rx := by rw [linked_eq]

theorem linked_rxOrder (l : LinkWord) (q : Port) : (linked l q).rxOrder = q.rxOrder := by rw [linked_eq]

theorem takeLink_eq (hnak : l.nak = false) (p : Nat) (s : State) :
    takeLink p l s = pump p (setPort p (linked l (portOf s p)) s) := by
  simp only [takeLink, hnak]
  rfl

/-- A link control word that lets nothing leave. -/
theorem takeLink_quiet (hnak : l.nak = false) (htx : (portOf s p).tx = []) :
    takeLink p l s = setPort p (linked l (portOf s p)) s := by
  rw [takeLink_eq hnak, pump_empty]
  rw [portOf_setPort, linked_eq, htx]

theorem unacked'_of_found {pre post : List (ChainFrame × Nat)} {x : ChainFrame × Nat} {ack : BitVec 12}
    (hx : x.1.link.seq = ack) (hpre : ∀ y ∈ pre, y.1.link.seq ≠ ack) : unacked' ack (pre ++ x :: post) = post := by
  have hany : ((pre ++ x :: post).any fun x => x.1.link.seq == ack) = true := by simp [hx]
  have hdrop : (pre ++ x :: post).dropWhile (fun x => x.1.link.seq != ack) = x :: post := by
    rw [List.dropWhile_append_of_pos (by simpa using hpre), List.dropWhile_cons_of_neg (by simp [hx])]
  rw [unacked', if_pos hany, hdrop]
  rfl

/-! ### Frames with an error (R472) -/

theorem badFrame_effect (p : Nat) (s : State) : OtherPorts p s (badFrame p s) ∧
    portOf (badFrame p s) p = { portOf s p with crcErr := satInc (portOf s p).crcErr } ∧ (badFrame p s).out = s.out := by
  have hchain : (badFrame p s).chain = (modPort p (fun q => { q with crcErr := satInc q.crcErr }) s).chain := countEv_chain _ _ _ _
  refine ⟨otherPorts_trans (otherPorts_modPort _ _ s) (otherPorts_of_chain hchain), ?_, countEv_out _ _ _ _⟩
  rw [portOf_congr hchain, portOf_modPort]

theorem sendNak_effect (p : Nat) (s : State) : OtherPorts p s (sendNak p s) ∧
    portOf (sendNak p s) p = { portOf s p with nakOut := true } ∧
    ∃ w : LinkWord, (sendNak p s).out = s.out ++ [.chainCtrl p w (ctrlCrc w)] ∧ w.ack = (portOf s p).lastRx ∧ w.nak = true :=
  ⟨otherPorts_setPort _ _ s, portOf_setPort s p _, { ackWord (portOf s p) with nak := true }, rfl, rfl, rfl⟩

/-! ### A frame leaves (R473, R475) -/

/-- The frame as it leaves: with its number and the last frame that has come in order. -/
def numbered (q : Port) (f : ChainFrame) : ChainFrame := { f with link := { ackWord q with typ := 1, seq := q.nextSeq } }

theorem portLooks_out (p : Nat) (f : ChainFrame) (s : State) : (portLooks p f s).out = s.out :=
  (keeps_portLooks p f (.refl _ s) (sub_refl _)).only.out.resolve_left (by decide)

theorem portLooks_fabric (p : Nat) (f : ChainFrame) (s : State) : (portLooks p f s).fabric = s.fabric :=
  fabric_same (keeps_portLooks p f (.refl _ s) (sub_refl _)) (by decide)

theorem useCredits_effect (c n : Nat) (q : Port) : creditsOf (useCredits c n q) c = creditsOf q c - n ∧
    (useCredits c n q).tx = q.tx ∧ (useCredits c n q).replay = q.replay ∧ (useCredits c n q).nextSeq = q.nextSeq := by
  unfold useCredits
  split
  next h => simp [creditsOf, h]
  next h0 =>
    split
    next h => simp [creditsOf, h]
    next h1 => simp [creditsOf, h0, h1]

/-- A port behind the frame that it has sent from place `i` of those that wait. -/
def sentFrom (i : Nat) (f : ChainFrame) (q : Port) : Port :=
  useCredits f.cls.toNat (blocksOf f.msg)
    { q with tx := q.tx.eraseIdx i, nextSeq := q.nextSeq + 1, replay := q.replay ++ [(numbered q f, 0)] }

theorem pumpOne_sends {i : Nat} {f : ChainFrame} (hflow : flows (portOf s p) = true) (hroom : (portOf s p).replay.length < 256)
    (hpause : (portOf s p).pauseTo ≤ absCk s) (hnext : nextFrame (portOf s p) = some (i, f)) :
    (pumpOne p s).chain = (setPort p (sentFrom i f (portOf s p)) s).chain ∧
      (pumpOne p s).out = s.out ++ [chainOut p (numbered (portOf s p) f)] := by
  have hgo : pumpOne p s = emit (chainOut p (numbered (portOf s p) f)) (portLooks p (numbered (portOf s p) f)
      (countEv (blkPort p) 0x04 f.msg.len (countEv (blkPort p) 0x02 1 (setPort p (sentFrom i f (portOf s p)) s)))) := by
    simp only [pumpOne, hflow, hnext]
    rw [if_pos (by simp [hroom, hpause])]
    rfl
  rw [hgo, emit_chain, emit_out, portLooks_chain, portLooks_out, countEv_chain, countEv_chain, countEv_out, countEv_out]
  exact ⟨rfl, rfl⟩

/-- The one frame that waits leaves, where its class has credits and no lane switch holds it. -/
theorem pump_one {f : ChainFrame} (htx : (portOf s p).tx = [f]) (hflow : flows (portOf s p) = true)
    (hrep : (portOf s p).replay = []) (hpause : (portOf s p).pauseTo ≤ absCk s)
    (hcred : blocksOf f.msg ≤ creditsOf (portOf s p) f.cls.toNat) :
    (pump p s).chain = (setPort p (sentFrom 0 f (portOf s p)) s).chain ∧
      (pump p s).out = s.out ++ [chainOut p (numbered (portOf s p) f)] := by
  have hnext : nextFrame (portOf s p) = some (0, f) := by
    rw [nextFrame, htx]
    simp [hcred]
  have hone : pump p s = pumpOne p s := by
    rw [pump, htx]
    rfl
  rw [hone]
  exact pumpOne_sends hflow (by simp [hrep]) hpause hnext

theorem sentFrom_effect (i : Nat) (f : ChainFrame) (q : Port) :
    creditsOf (sentFrom i f q) f.cls.toNat = creditsOf q f.cls.toNat - blocksOf f.msg ∧
      (sentFrom i f q).tx = q.tx.eraseIdx i ∧ (sentFrom i f q).replay = q.replay ++ [(numbered q f, 0)] ∧
      (sentFrom i f q).nextSeq = q.nextSeq + 1 := useCredits_effect _ _ _

theorem pump_setPort_one {q : Port} {f : ChainFrame} (htx : q.tx = [f]) (hflow : flows q = true) (hrep : q.replay = [])
    (hpause : q.pauseTo ≤ absCk s) (hcred : blocksOf f.msg ≤ creditsOf q f.cls.toNat) :
    (pump p (setPort p q s)).chain.ports = (setPort p (sentFrom 0 f q) (setPort p q s)).chain.ports ∧
      (pump p (setPort p q s)).out = s.out ++ [chainOut p (numbered q f)] := by
  have h := pump_one (s := setPort p q s) (p := p) (f := f)
  rw [portOf_setPort] at h
  obtain ⟨hchain, hout⟩ := h htx hflow hrep hpause hcred
  exact ⟨congrArg Chain.ports hchain, hout⟩

/-- A resent frame names the last frame that has come in order. -/
def resent (p : Nat) (q : Port) (x : ChainFrame × Nat) : OutMsg :=
  chainOut p { x.1 with link := { x.1.link with ack := q.lastRx } }

/-! ### A frame that has come (R476, R477, R480) -/

/-- A port behind a frame in order that it has taken; `keep` where the frame waits in its buffer. -/
def frameIn (f : ChainFrame) (keep : Bool) (q : Port) : Port :=
  { q with
    lastRx := f.link.seq, nakOut := false, rxOrder := q.rxOrder + 1
    granErr := satInc q.granErr (countIf (fun c => (decodeCode c).1 != .clean) (f.head :: f.msg.data))
    rx := if keep then q.rx ++ [⟨q.rxOrder, f⟩] else q.rx }

/-- A frame in order, counted and acknowledged. -/
def frameTaken (p : Nat) (f : ChainFrame) (keep : Bool) (s : State) : State :=
  sendCtrl p (ackWord (frameIn f keep (portOf s p))) (countEv (blkPort p) 0x05 f.msg.len (countEv (blkPort p) 0x03 1
    (portLooks p f (setPort p (frameIn f keep (portOf s p)) s))))

theorem frameTaken_parts (p : Nat) (f : ChainFrame) (keep : Bool) (s : State) :
    (frameTaken p f keep s).chain = (setPort p (frameIn f keep (portOf s p)) s).chain ∧
      (frameTaken p f keep s).fabric = s.fabric ∧
      (frameTaken p f keep s).out = s.out ++ [ctrlOut p (ackWord (frameIn f keep (portOf s p)))] := by
  unfold frameTaken sendCtrl
  rw [emit_chain, emit_fabric, emit_out, countEv_chain, countEv_chain, countEv_fabric, countEv_fabric, countEv_out, countEv_out,
    portLooks_chain, portLooks_fabric, portLooks_out]
  exact ⟨rfl, rfl, rfl⟩

theorem portOf_frameCounted (p : Nat) (f : ChainFrame) (q : Port) (s : State) :
    portOf (countEv (blkPort p) 0x05 f.msg.len (countEv (blkPort p) 0x03 1 (portLooks p f (setPort p q s)))) p = q := by
  rw [portOf_congr (s := setPort p q s), portOf_setPort]
  rw [countEv_chain, countEv_chain, portLooks_chain]

theorem acceptFrame_kept {f : ChainFrame} (h : f.cls ≠ 1 ∨ s.clock.hold = true) :
    acceptFrame p f s = frameTaken p f true s := by
  have hno : ¬ (f.cls = 1 ∧ (!holdsResp f s) = true) := by
    rintro ⟨hcls, hgo⟩
    simp [holdsResp, hcls, h.resolve_left (absurd hcls)] at hgo
  simp only [acceptFrame, if_neg hno, frameTaken]
  rw [portOf_frameCounted]
  rfl

theorem acceptFrame_resp {f : ChainFrame} (h : f.cls = 1) (hhold : s.clock.hold = false) :
    acceptFrame p f s = respIn p f (frameTaken p f false s) := by
  have hgo : f.cls = 1 ∧ (!holdsResp f s) = true := ⟨h, by simp [holdsResp, hhold]⟩
  simp only [acceptFrame, if_pos hgo, frameTaken]
  rw [portOf_frameCounted]
  rfl

/-- A response goes on, and its credits go back (R480). -/
theorem respIn_effect (p : Nat) (f : ChainFrame) (s : State) : (respIn p f s).chain = s.chain ∧
    (respIn p f s).out = s.out ++
      [ctrlOut p { ackWord (portOf s p) with cclass := 1, credits := BitVec.ofNat 12 (blocksOf f.msg) }] ∧
    tblGet [] (respIn p f s).fabric.inj ((node (nodePort p)).val * 16 + 1) =
      tblGet [] s.fabric.inj ((node (nodePort p)).val * 16 + 1) ++ [{ f.msg with
        dst := node f.srcNode.toNat, src := node (nodePort p), module := f.srcMod, stream := 1 }] :=
  ⟨rfl, rfl, sendMsg_inj { f.msg with
    dst := node f.srcNode.toNat, src := node (nodePort p), module := f.srcMod, stream := 1 } (returnCredits p 1 (blocksOf f.msg) s)⟩

theorem msgFrame_bad {f : ChainFrame} {crcOk : Bool} (hflow : flows (portOf s p) = true)
    (hbad : chainOk crcOk 1 f.link = false ∨ f.reserved ≠ 0 ∨ f.cls = 3) :
    msgFrame p crcOk f s = if (portOf s p).nakOut then badFrame p s else sendNak p (badFrame p s) := by
  have hb : (!chainOk crcOk 1 f.link || f.reserved != 0 || f.cls == 3) = true := by
    simp only [Bool.or_eq_true, Bool.not_eq_true', bne_iff_ne, beq_iff_eq]
    exact or_assoc.2 hbad
  obtain ⟨-, hport, -⟩ := badFrame_effect p s
  have hflow' : flows { portOf s p with crcErr := satInc (portOf s p).crcErr } = true := hflow
  simp only [msgFrame, hb, if_true, hport, hflow', Bool.not_true, Bool.false_and, Bool.false_eq_true, if_false]

theorem msgFrame_good {f : ChainFrame} (hflow : flows (portOf s p) = true) (hres : f.link.reserved = 0) (htyp : f.link.typ = 1)
    (hnak : f.link.nak = false) (hrsv : f.reserved = 0) (hcls : f.cls ≠ 3) (htx : (portOf s p).tx = []) :
    msgFrame p true f s =
      if f.link.seq = (portOf s p).lastRx + 1 then acceptFrame p f (setPort p (linked f.link (portOf s p)) s)
      else if (portOf s p).nakOut then setPort p (linked f.link (portOf s p)) s
      else sendNak p (setPort p (linked f.link (portOf s p)) s) := by
  have hb : (!chainOk true 1 f.link || f.reserved != 0 || f.cls == 3) = false := by
    rw [chainOk, hres, htyp, hrsv, beq_false_of_ne hcls]
    rfl
  have hflow' : flows (linked f.link (portOf s p)) = true := by
    rw [linked_eq]
    exact hflow
  have hrx : (linked f.link (portOf s p)).lastRx = (portOf s p).lastRx := by rw [linked_eq]
  have hnakOut : (linked f.link (portOf s p)).nakOut = (portOf s p).nakOut := by rw [linked_eq]
  simp only [msgFrame, hb, takeLink_quiet hnak htx, Bool.false_eq_true, if_false, portOf_setPort, hflow', hrx, hnakOut,
    Bool.not_true, Bool.not_false, Bool.true_and, beq_iff_eq]

/-! ### Frames that are sent again (R476, R478) -/

/-- A port whose unacknowledged frames have all left once more. -/
def resentPort (q : Port) : Port :=
  { q with replay := q.replay.map fun x => (x.1, x.2 + 1), resent := satInc q.resent q.replay.length }

/-- Every unacknowledged frame leaves again. -/
def resendAll (p : Nat) (s : State) : State :=
  ((portOf s p).replay.map fun x => (x.1, x.2 + 1)).foldl (fun t x => emit (resent p (portOf s p) x) t)
    (setPort p (resentPort (portOf s p)) (countEv (blkPort p) 0x06 (portOf s p).replay.length s))

theorem resend_eq (hpause : (portOf s p).pauseTo ≤ absCk s) : resend p s =
    if (∃ x ∈ (portOf s p).replay, 15 ≤ x.2) then portDown p (resendAll p s)
    else if (∃ x ∈ (portOf s p).replay, x.2 = 7) then examine p (resendAll p s) else resendAll p s := by
  have h16 : ((((portOf s p).replay.map fun x => (x.1, x.2 + 1)).any fun x => decide (16 ≤ x.2)) = true) ↔
      ∃ x ∈ (portOf s p).replay, 15 ≤ x.2 := by simp
  have h8 : ((((portOf s p).replay.map fun x => (x.1, x.2 + 1)).any fun x => x.2 == 8) = true) ↔
      ∃ x ∈ (portOf s p).replay, x.2 = 7 := by simp
  simp only [resend, if_neg (Nat.not_lt.2 hpause)]
  rw [if_congr h16 rfl (if_congr h8 rfl rfl)]
  rfl

theorem worstLane_resent (q : Port) : worstLane (resentPort q) = worstLane q := rfl

theorem foldl_emit {α : Type} (f : α → OutMsg) (l : List α) (s : State) :
    l.foldl (fun t x => emit (f x) t) s = { s with out := s.out ++ l.map f } := by
  induction l generalizing s with
  | nil => simp
  | cons x l ih =>
    rw [List.foldl_cons, ih, List.map_cons]
    simp only [emit, List.append_assoc, List.singleton_append]

theorem resendAll_parts (p : Nat) (s : State) : (resendAll p s).chain = (setPort p (resentPort (portOf s p)) s).chain ∧
    (resendAll p s).out = s.out ++ (portOf s p).replay.map (resent p (portOf s p)) ∧
    (resendAll p s).standby = s.standby ∧ (resendAll p s).hub = s.hub := by
  rw [resendAll, foldl_emit]
  refine ⟨?_, ?_, countEv_standby _ _ _ _, countEv_hub _ _ _ _⟩
  · simp only [setPort, countEv_chain]
  · rw [List.map_map]
    exact congrArg (· ++ _) (countEv_out _ _ _ _)

/-- A port that is set, with its record of a lane. -/
theorem laneRecorded_ports (p lane st disc : Nat) (q : Port) (s : State) :
    (recordLane p lane st disc (setPort p q s)).chain.ports = (setPort p q s).chain.ports := by rw [recordLane_chain]

/-- The DOWN port of a DEGRADED one that has lost a further lane. -/
theorem ports_laneDown (p lane st disc : Nat) (q : Port) (s : State) :
    (portDown p (recordLane p lane st disc (setPort p q s))).chain.ports = (setPort p (portLeft .down q) (setPort p q s)).chain.ports := by
  rw [portDown, ports_portLeaves, portOf_same (laneRecorded_ports p lane st disc q s)]
  simp only [setPort, recordLane_chain]

/-- R500 to R502, R504: whatever else a failed lane means for its port, it is taken out of use. -/
theorem laneFail_effect (p lane : Nat) (s : State) : OtherPorts p s (laneFail p lane s) ∧
    (portOf (laneFail p lane s) p).failedLanes = (portOf s p).failedLanes ||| BitVec.ofNat 5 (2 ^ lane) := by
  have hset {t : State} {q : Port} (h : t.chain.ports = (setPort p q s).chain.ports)
      (hq : q.failedLanes = (portOf s p).failedLanes ||| BitVec.ofNat 5 (2 ^ lane)) : OtherPorts p s t ∧
      (portOf t p).failedLanes = (portOf s p).failedLanes ||| BitVec.ofNat 5 (2 ^ lane) :=
    ⟨otherPorts_of_ports h, (congrArg Port.failedLanes (portOf_same h)).trans hq⟩
  have hfailed : (mapped (portOf s p)).failedLanes = (portOf s p).failedLanes := by
    unfold mapped
    split <;> rfl
  unfold laneFail
  dsimp only
  rw [hfailed]
  split
  · exact hset (laneRecorded_ports _ _ _ _ _ _) rfl
  · split
    · have h := ports_laneDown p lane 4 0 { portOf s p with failedLanes := (portOf s p).failedLanes ||| BitVec.ofNat 5 (2 ^ lane) } s
      exact ⟨otherPorts_trans (otherPorts_setPort _ _ s) (otherPorts_of_ports h), congrArg Port.failedLanes (portOf_same h)⟩
    · split
      · exact hset (laneRecorded_ports _ _ _ _ _ _) rfl
      · split
        · exact hset (laneRecorded_ports _ _ _ _ _ _) rfl
        · exact hset (laneRecorded_ports _ _ _ _ _ _) rfl

end

section
variable {s : State} {p : PortN} (hup : s.standby.mainUp = true) (hflow : flows (portOf s p.val) = true)
include hup hflow

theorem exec_ctrlFrame (crc : Word32) (l : LinkWord) :
    exec (.ctrlFrame p crc l) s = .next (ctrlFrame p.val (crc == ctrlCrc l) l s) :=
  whenOk_of s (by rw [mainUp, hup, hflow]; rfl) _

theorem exec_msgFrame (crc : Word32) (f : ChainFrame) :
    exec (.msgFrame p crc f) s = .next (msgFrame p.val (crc == msgCrc f) f s) :=
  whenOk_of s (by rw [mainUp, hup, hflow]; rfl) _

theorem ctrlFrame_bad_completes {crc : Word32} {l : LinkWord} (hbad : crc ≠ ctrlCrc l ∨ l.reserved ≠ 0 ∨ l.typ ≠ 0) :
    Completes (.ctrlFrame p crc l) s fun t => OtherPorts p.val s t ∧ t.out = s.out ∧
      portOf t p.val = { portOf s p.val with crcErr := satInc (portOf s p.val).crcErr } := by
  have hb : ctrlFrame p.val (crc == ctrlCrc l) l s = badFrame p.val s := by
    rw [ctrlFrame, if_neg]
    simp only [chainOk, Bool.and_eq_true, beq_iff_eq]
    tauto
  obtain ⟨hother, hport, hout⟩ := badFrame_effect p.val s
  refine completes_of_exec (exec_ctrlFrame hup hflow crc l) ?_
  rw [hb]
  exact ⟨hother, hout, hport⟩

theorem exec_ctrlFrame_good {l : LinkWord} (hres : l.reserved = 0) (htyp : l.typ = 0) (hnak : l.nak = false) :
    exec (.ctrlFrame p (ctrlCrc l) l) s = .next (pump p.val (setPort p.val (linked l (portOf s p.val)) s)) := by
  rw [exec_ctrlFrame hup hflow, ctrlFrame, if_pos (by simp [chainOk, hres, htyp]), takeLink_eq hnak]

theorem ctrlFrame_acks {l : LinkWord} {pre post : List (ChainFrame × Nat)} {x : ChainFrame × Nat} (hres : l.reserved = 0)
    (htyp : l.typ = 0) (hnak : l.nak = false) (htx : (portOf s p.val).tx = []) (hrep : (portOf s p.val).replay = pre ++ x :: post)
    (hx : x.1.link.seq = l.ack) (hpre : ∀ y ∈ pre, y.1.link.seq ≠ l.ack) :
    Completes (.ctrlFrame p (ctrlCrc l) l) s fun t => OtherPorts p.val s t ∧ t.out = s.out ∧ (portOf t p.val).replay = post ∧
      (portOf t p.val).creditReq = (portOf s p.val).creditReq + (if l.cclass = 0 then l.credits.toNat else 0) ∧
      (portOf t p.val).creditRsp = (portOf s p.val).creditRsp + (if l.cclass = 1 then l.credits.toNat else 0) ∧
      (portOf t p.val).creditAcc = (portOf s p.val).creditAcc + (if l.cclass = 2 then l.credits.toNat else 0) := by
  have hquiet : (portOf (setPort p.val (linked l (portOf s p.val)) s) p.val).tx = [] := by rw [portOf_setPort, linked_eq, htx]
  refine completes_of_exec (exec_ctrlFrame_good hup hflow hres htyp hnak) ?_
  rw [pump_empty hquiet, portOf_setPort, linked_eq]
  exact ⟨otherPorts_setPort _ _ s, rfl, (congrArg _ hrep).trans (unacked'_of_found hx hpre), rfl, rfl, rfl⟩

theorem ctrlFrame_lets_leave {l : LinkWord} {f : ChainFrame} (hres : l.reserved = 0) (htyp : l.typ = 0) (hnak : l.nak = false)
    (hcls : l.cclass = 3) (htx : (portOf s p.val).tx = [f]) (hrep : (portOf s p.val).replay = [])
    (hpause : (portOf s p.val).pauseTo ≤ absCk s) (hcred : blocksOf f.msg ≤ creditsOf (portOf s p.val) f.cls.toNat) :
    Completes (.ctrlFrame p (ctrlCrc l) l) s fun t => OtherPorts p.val s t ∧ (portOf t p.val).tx = [] ∧
      (portOf t p.val).replay = [(numbered (portOf s p.val) f, 0)] ∧
      (portOf t p.val).nextSeq = (portOf s p.val).nextSeq + 1 ∧
      creditsOf (portOf t p.val) f.cls.toNat = creditsOf (portOf s p.val) f.cls.toNat - blocksOf f.msg ∧
      t.out = s.out ++ [chainOut p.val (numbered (portOf s p.val) f)] := by
  have hlink : linked l (portOf s p.val) = portOf s p.val := by
    rw [linked_eq, hrep, hcls]
    exact congrArg (fun r => { portOf s p.val with replay := r }) hrep.symm
  have hexec := exec_ctrlFrame_good hup hflow hres htyp hnak
  rw [hlink] at hexec
  obtain ⟨hports, hout⟩ := pump_setPort_one (s := s) (p := p.val) htx hflow hrep hpause hcred
  obtain ⟨hused, hutx, hurep, hunext⟩ := sentFrom_effect 0 f (portOf s p.val)
  refine completes_of_exec hexec ⟨otherPorts_trans (otherPorts_setPort _ _ s) (otherPorts_of_ports hports), ?_⟩
  rw [portOf_same hports, hout, hutx, hurep, hunext, hused, htx, hrep]
  exact ⟨rfl, rfl, rfl, rfl, rfl⟩

/-- What a frame that is not in order, or not intact, is answered with: one NAK for each gap (R476). -/
def gapAnswered (p : Nat) (q : Port) (s t : State) : Prop :=
  (q.nakOut = true → t.out = s.out) ∧
  (q.nakOut = false → ∃ w : LinkWord, t.out = s.out ++ [.chainCtrl p w (ctrlCrc w)] ∧ w.ack = q.lastRx ∧ w.nak = true)

theorem msgFrame_bad_completes {crc : Word32} {f : ChainFrame}
    (hbad : crc ≠ msgCrc f ∨ f.link.reserved ≠ 0 ∨ f.link.typ ≠ 1 ∨ f.reserved ≠ 0 ∨ f.cls = 3) :
    Completes (.msgFrame p crc f) s fun t => OtherPorts p.val s t ∧
      portOf t p.val = { portOf s p.val with crcErr := satInc (portOf s p.val).crcErr, nakOut := true } ∧
      gapAnswered p.val (portOf s p.val) s t := by
  have hb : chainOk (crc == msgCrc f) 1 f.link = false ∨ f.reserved ≠ 0 ∨ f.cls = 3 := by
    simp only [chainOk, Bool.and_eq_false_iff, beq_eq_false_iff_ne]
    tauto
  refine completes_of_exec (exec_msgFrame hup hflow crc f) ?_
  rw [msgFrame_bad hflow hb]
  obtain ⟨hother, hport, hout⟩ := badFrame_effect p.val s
  split
  next hnak =>
    refine ⟨hother, ?_, fun _ => hout, fun h => by simp [hnak] at h⟩
    rw [hport]
    exact congrArg (fun b => { portOf s p.val with crcErr := satInc (portOf s p.val).crcErr, nakOut := b }) hnak
  next hnak =>
    obtain ⟨hother', hport', w, hout', hack, hw⟩ := sendNak_effect p.val (badFrame p.val s)
    refine ⟨otherPorts_trans hother hother', ?_, fun h => absurd h hnak, fun _ => ⟨w, ?_, ?_, hw⟩⟩
    · rw [hport', hport]
    · rw [hout', hout]
    · rw [hack, hport]

theorem msgFrame_gap {f : ChainFrame} (hres : f.link.reserved = 0) (htyp : f.link.typ = 1) (hnak : f.link.nak = false)
    (hrsv : f.reserved = 0) (htx : (portOf s p.val).tx = []) (hseq : f.link.seq ≠ (portOf s p.val).lastRx + 1) (hcls : f.cls ≠ 3) :
    Completes (.msgFrame p (msgCrc f) f) s fun t => OtherPorts p.val s t ∧ (portOf t p.val).lastRx = (portOf s p.val).lastRx ∧
      (portOf t p.val).nakOut = true ∧ (portOf t p.val).rx = (portOf s p.val).rx ∧ gapAnswered p.val (portOf s p.val) s t := by
  refine completes_of_exec (exec_msgFrame hup hflow _ f) ?_
  rw [beq_self_eq_true, msgFrame_good hflow hres htyp hnak hrsv hcls htx, if_neg hseq]
  have hother := otherPorts_setPort p.val (linked f.link (portOf s p.val)) s
  have hport := portOf_setPort s p.val (linked f.link (portOf s p.val))
  rw [linked_eq] at hport hother ⊢
  split
  next hgap =>
    refine ⟨hother, ?_, ?_, ?_, fun _ => rfl, fun h => by simp [hgap] at h⟩ <;> rw [hport]
    exact hgap
  next hgap =>
    obtain ⟨hother', hport', w, hout', hack, hw⟩ := sendNak_effect p.val (setPort p.val _ s)
    refine ⟨otherPorts_trans hother hother', ?_, ?_, ?_, fun h => absurd h hgap, fun _ => ⟨w, hout', ?_, hw⟩⟩
    · rw [hport', hport]
    · rw [hport']
    · rw [hport', hport]
    · rw [hack, hport]

/-- R476, R486: a frame in order that waits in its buffer. -/
theorem msgFrame_kept {f : ChainFrame} (hres : f.link.reserved = 0) (htyp : f.link.typ = 1) (hnak : f.link.nak = false)
    (hrsv : f.reserved = 0) (htx : (portOf s p.val).tx = []) (hseq : f.link.seq = (portOf s p.val).lastRx + 1)
    (hcls : f.cls = 0 ∨ f.cls = 2 ∨ (f.cls = 1 ∧ s.clock.hold = true)) :
    Completes (.msgFrame p (msgCrc f) f) s fun t => OtherPorts p.val s t ∧ (portOf t p.val).lastRx = f.link.seq ∧
      (portOf t p.val).nakOut = false ∧ (portOf t p.val).rx = (portOf s p.val).rx ++ [⟨(portOf s p.val).rxOrder, f⟩] ∧
      t.fabric = s.fabric ∧
      ∃ w : LinkWord, t.out = s.out ++ [.chainCtrl p.val w (ctrlCrc w)] ∧ w.ack = f.link.seq ∧ w.nak = false := by
  have h3 : f.cls ≠ 3 := by rcases hcls with h | h | ⟨h, -⟩ <;> rw [h] <;> decide
  have hkeep : f.cls ≠ 1 ∨ s.clock.hold = true := by
    rcases hcls with h | h | ⟨-, h⟩
    · exact .inl (by rw [h]; decide)
    · exact .inl (by rw [h]; decide)
    · exact .inr h
  refine completes_of_exec (exec_msgFrame hup hflow _ f) ?_
  rw [beq_self_eq_true, msgFrame_good hflow hres htyp hnak hrsv h3 htx, if_pos hseq,
    acceptFrame_kept (s := setPort p.val (linked f.link (portOf s p.val)) s) hkeep]
  have hother := otherPorts_setPort p.val (linked f.link (portOf s p.val)) s
  have hport := portOf_setPort s p.val (linked f.link (portOf s p.val))
  obtain ⟨hchain, hfab, hout⟩ := frameTaken_parts p.val f true (setPort p.val (linked f.link (portOf s p.val)) s)
  have hports := congrArg Chain.ports hchain
  refine ⟨otherPorts_trans hother (otherPorts_of_ports hports), ?_⟩
  rw [portOf_same hports, hfab, hout, hport]
  refine ⟨rfl, rfl, ?_, rfl, _, rfl, rfl, rfl⟩
  change (linked f.link (portOf s p.val)).rx ++ [⟨(linked f.link (portOf s p.val)).rxOrder, f⟩] = _
  rw [linked_rx, linked_rxOrder]

/-- R480: a response in order goes on, and its credits go back. -/
theorem msgFrame_resp {f : ChainFrame} (hres : f.link.reserved = 0) (htyp : f.link.typ = 1) (hnak : f.link.nak = false)
    (hrsv : f.reserved = 0) (htx : (portOf s p.val).tx = []) (hseq : f.link.seq = (portOf s p.val).lastRx + 1) (hcls : f.cls = 1)
    (hhold : s.clock.hold = false) :
    Completes (.msgFrame p (msgCrc f) f) s fun t => OtherPorts p.val s t ∧ (portOf t p.val).lastRx = f.link.seq ∧
      (portOf t p.val).rx = (portOf s p.val).rx ∧
      tblGet [] t.fabric.inj ((node (nodePort p.val)).val * 16 + 1) =
        tblGet [] s.fabric.inj ((node (nodePort p.val)).val * 16 + 1) ++ [{ f.msg with
          dst := node f.srcNode.toNat, src := node (nodePort p.val), module := f.srcMod, stream := 1 }] ∧
      ∃ w c : LinkWord, t.out = s.out ++ [.chainCtrl p.val w (ctrlCrc w), .chainCtrl p.val c (ctrlCrc c)] ∧
        w.ack = f.link.seq ∧ w.nak = false ∧ c.cclass = 1 ∧ c.credits = BitVec.ofNat 12 (blocksOf f.msg) := by
  refine completes_of_exec (exec_msgFrame hup hflow _ f) ?_
  rw [beq_self_eq_true, msgFrame_good hflow hres htyp hnak hrsv (by rw [hcls]; decide) htx, if_pos hseq,
    acceptFrame_resp (s := setPort p.val (linked f.link (portOf s p.val)) s) hcls hhold]
  have hother := otherPorts_setPort p.val (linked f.link (portOf s p.val)) s
  have hport := portOf_setPort s p.val (linked f.link (portOf s p.val))
  obtain ⟨hchain, hfab, hout⟩ := frameTaken_parts p.val f false (setPort p.val (linked f.link (portOf s p.val)) s)
  obtain ⟨hrchain, hrout, hrinj⟩ := respIn_effect p.val f (frameTaken p.val f false (setPort p.val (linked f.link (portOf s p.val)) s))
  have hports := congrArg Chain.ports (hrchain.trans hchain)
  refine ⟨otherPorts_trans hother (otherPorts_of_ports hports), ?_⟩
  rw [portOf_same hports, hrinj, hfab, hrout, hout, hport, List.append_assoc]
  exact ⟨rfl, linked_rx _ _, rfl, _, _, rfl, rfl, rfl, rfl, rfl⟩

theorem nakRepeat_sends (hgap : (portOf s p.val).nakOut = true) :
    Completes (.nakRepeat p) s fun t => OtherPorts p.val s t ∧ portOf t p.val = portOf s p.val ∧
      ∃ w : LinkWord, t.out = s.out ++ [.chainCtrl p.val w (ctrlCrc w)] ∧ w.ack = (portOf s p.val).lastRx ∧ w.nak = true := by
  obtain ⟨hother, hport, hsent⟩ := sendNak_effect p.val s
  refine completes_of_exec (whenOk_of s (by simp only [mainUp, hup, hflow, hgap, Bool.and_self]) _) ⟨hother, ?_, hsent⟩
  rw [hport]
  exact congrArg (fun b => { portOf s p.val with nakOut := b }) hgap.symm

theorem exec_ackTimeoutResend (hrep : (portOf s p.val).replay ≠ []) (hpause : (portOf s p.val).pauseTo ≤ absCk s) :
    exec (.ackTimeoutResend p) s = .next (resend p.val s) :=
  whenOk_of s (by simp [mainUp, hup, hflow, hrep, hpause]) _

end

theorem ackTimeoutResend_paused {s : State} {p : PortN} (hpause : absCk s < (portOf s p.val).pauseTo) :
    exec (.ackTimeoutResend p) s = .next s := by
  have hno : (mainUp s && flows (portOf s p.val) && (portOf s p.val).replay != [] &&
      decide ((portOf s p.val).pauseTo ≤ absCk s)) = false := by simp [Nat.not_le.2 hpause]
  change whenOk s _ _ = _
  rw [hno]
  exact whenOk_false s _

/-- Settles O44: frame by frame. -/
theorem framesAreAcknowledgedAndRetried : Obligations.FramesAreAcknowledgedAndRetried := by
  unfold Obligations.FramesAreAcknowledgedAndRetried
  intro s p hup q hst
  have hflow : flows (portOf s p.val) = true := by rcases hst with h | h <;> rw [flows, h] <;> rfl
  refine ⟨fun _ _ hbad => ctrlFrame_bad_completes hup hflow hbad,
    fun _ _ _ _ hres htyp hnak htx hrep hx hpre => ctrlFrame_acks hup hflow hres htyp hnak htx hrep hx hpre,
    fun _ _ hres htyp hnak hcls htx hrep hpause hcred =>
      ctrlFrame_lets_leave hup hflow hres htyp hnak hcls htx hrep hpause hcred,
    fun f hres htyp hnak hrsv htx => ⟨fun hseq hcls => msgFrame_kept hup hflow hres htyp hnak hrsv htx hseq hcls,
      fun hseq hcls hhold => msgFrame_resp hup hflow hres htyp hnak hrsv htx hseq hcls hhold,
      fun hseq hcls => msgFrame_gap hup hflow hres htyp hnak hrsv htx hseq hcls⟩,
    fun _ _ hbad => msgFrame_bad_completes hup hflow hbad, fun hgap => nakRepeat_sends hup hflow hgap,
    fun hpause => ackTimeoutResend_paused hpause, fun hrep hpause => ?_⟩
  have hexec := exec_ackTimeoutResend hup hflow hrep hpause
  obtain ⟨hchain, hout, hstandby, hhub⟩ := resendAll_parts p.val s
  have hports := congrArg Chain.ports hchain
  rw [resend_eq hpause] at hexec
  refine ⟨fun hfew => ?_, fun lane hfew h7 hworst hlane => ?_, fun hmany => ?_⟩
  · rw [if_neg (by grind), if_neg (by grind)] at hexec
    exact completes_of_exec hexec ⟨otherPorts_of_ports hports, portOf_same hports, hout⟩
  · rw [if_neg (by grind), if_pos h7, examine, portOf_same hports, worstLane_resent, hworst] at hexec
    obtain ⟨hother, hfailed⟩ := laneFail_effect p.val lane (resendAll p.val s)
    rw [portOf_same hports] at hfailed
    exact completes_of_exec hexec ⟨otherPorts_trans (otherPorts_of_ports hports) hother, hfailed⟩
  · rw [if_pos hmany] at hexec
    have hleft : (portDown p.val (resendAll p.val s)).chain.ports =
        (setPort p.val (portLeft .down (resentPort (portOf s p.val))) (resendAll p.val s)).chain.ports := by
      rw [portDown, ports_portLeaves, portOf_same hports]
    refine completes_of_exec hexec ⟨otherPorts_trans (otherPorts_of_ports hports) (otherPorts_of_ports hleft), ?_⟩
    rw [portOf_same hleft]
    exact ⟨rfl, rfl, rfl, (out_portLeaves (by decide) _ _).trans hout, raised_behind (.of_same hstandby hhub)
      (hubGrown_portLeaves _ _ _) (raised_portLeaves (by rw [hstandby, hup]) p.isLt .down)⟩

end Sys2Proof.Proofs
end

section
/-! Proofs for chapters 14 and 25: ports train, change lanes and lose them. -/

namespace Sys2Proof.Proofs

open Sys2Proof Sys2Proof.Machine Sys2Proof.Laws

section
variable {s t u : State} {p : Nat}

/-! ### Steps over the ports -/

/-- A step for each of `n` ports in a row that changes that port alone. -/
theorem ports_upTo {f : State → Nat → State} {base : Nat} {R : Port → Port → Prop}
    (hone : ∀ t k, OtherPorts (base + k) t (f t k) ∧ R (portOf t (base + k)) (portOf (f t k) (base + k))) (n : Nat) (s : State) :
    (∀ k < n, R (portOf s (base + k)) (portOf (upTo n f s) (base + k))) ∧
      ∀ p', p' < base ∨ base + n ≤ p' → portOf (upTo n f s) p' = portOf s p' := by
  induction n with
  | zero => exact ⟨fun k hk => absurd hk (Nat.not_lt_zero k), fun _ _ => rfl⟩
  | succ n ih =>
    obtain ⟨hdone, hrest⟩ := ih
    obtain ⟨hother, hthis⟩ := hone (upTo n f s) n
    rw [upTo_succ]
    refine ⟨fun k hk => ?_, fun p' hp' => (hother p' (by omega)).trans (hrest p' (by omega))⟩
    rcases Nat.lt_succ_iff_lt_or_eq.1 hk with hlt | rfl
    · rw [hother (base + k) (by omega)]
      exact hdone k hlt
    · rwa [hrest (base + k) (by omega)] at hthis

theorem otherPorts_portLeaves (into : PortState) (p : Nat) (s : State) : OtherPorts p s (portLeaves into p s) :=
  otherPorts_of_ports (ports_portLeaves into p s)

theorem portOf_portLeaves (into : PortState) (p : Nat) (s : State) : portOf (portLeaves into p s) p = portLeft into (portOf s p) :=
  portOf_same (ports_portLeaves into p s)

theorem conflict_portLeaves (into : PortState) (p : Nat) (s : State) :
    (portLeaves into p s).chain.conflict = s.chain.conflict := by
  rw [chain_portLeaves]
  change (forgetNum _).chain.conflict = _
  unfold forgetNum
  split <;> rfl

theorem darken_effect (p : Nat) (s : State) : OtherPorts p s (darken p s) ∧ (portOf (darken p s) p).st = .dark := by
  unfold darken
  split
  next h => exact ⟨fun _ _ => rfl, h⟩
  next => exact ⟨otherPorts_portLeaves _ p s, by rw [portOf_portLeaves]; rfl⟩

/-- A port returns to TRAINING where it has a link. -/
def retrains (t : State) (p : Nat) : State := if hasLink (portOf t p) then portLeaves .training p t else t

theorem conflicts_eq (s : State) : conflicts s = upTo 16 retrains { s with chain := { s.chain with conflict := true } } := rfl

/-- R465: two numbers bring every link back to TRAINING. -/
theorem conflicts_effect (s : State) : (conflicts s).chain.conflict = true ∧
    (∀ p' < 16, hasLink (portOf s p') = true → (portOf (conflicts s) p').st = .training) ∧
    ∀ p' < 16, hasLink (portOf s p') = false → portOf (conflicts s) p' = portOf s p' := by
  rw [conflicts_eq]
  have hports := ports_upTo (f := retrains) (base := 0)
    (R := fun q q' => (hasLink q = true → q'.st = .training) ∧ (hasLink q = false → q' = q)) (fun t k => by
      simp only [Nat.zero_add, retrains]
      split
      next h => exact ⟨otherPorts_portLeaves _ k t, fun _ => by rw [portOf_portLeaves]; rfl, fun hno => by simp [h] at hno⟩
      next h => exact ⟨fun _ _ => rfl, fun hyes => absurd hyes h, fun _ => rfl⟩)
    16 { s with chain := { s.chain with conflict := true } }
  simp only [Nat.zero_add] at hports
  refine ⟨?_, fun p' hp' h => (hports.1 p' hp').1 h, fun p' hp' h => (hports.1 p' hp').2 h⟩
  have hkeep : ∀ (t : State) (k : Nat), (retrains t k).chain.conflict = t.chain.conflict := fun t k => by
    unfold retrains
    split
    · exact conflict_portLeaves _ _ _
    · rfl
  have hall := upTo_leaves (fun t : State => t.chain.conflict) hkeep 16 { s with chain := { s.chain with conflict := true } }
  dsimp only at hall
  rw [hall]

theorem shellOut_effect (k : Nat) (s : State) :
    (∀ i < 4, (portOf (shellOut k s) (4 * k + i)).st = .dark ∨ (portOf (shellOut k s) (4 * k + i)).st = .down) ∧
      ∀ p', p' < 4 * k ∨ 4 * k + 4 ≤ p' → portOf (shellOut k s) p' = portOf s p' :=
  ports_upTo (R := fun _ q' => q'.st = .dark ∨ q'.st = .down) (fun t i => by
    dsimp only
    split
    next h => exact ⟨fun _ _ => rfl, h⟩
    next => exact ⟨otherPorts_portLeaves _ _ t, .inr (by rw [portDown, portOf_portLeaves]; rfl)⟩) 4 s

/-! ### Training (R465 to R468) -/

/-- The state that a port's training leaves it in, by the lanes that have not failed. -/
def trainedState (q : Port) : PortState :=
  if 4 ≤ (goodLanes q).length then .up else if (goodLanes q).length = 3 then .degraded else .down

/-- A port that has trained. -/
def trainedPort (peer : Nat) (rehomed : Bool) (q : Port) : Port :=
  { freshLink q with
    st := trainedState q, peer := BitVec.ofNat 4 peer, rehomed := rehomed, lmap := mapOf ((goodLanes q).take 4)
    spare := if (goodLanes q).length = 5 then BitVec.ofNat 3 (nth 0 (goodLanes q) 4) else 7 }

theorem trained_eq (p peer : Nat) (rehomed : Bool) (num : BitVec 4) (s : State) : trained p peer rehomed num s =
    recordLane p 0 (portCode (trainedState (portOf s p))) 0 (sendTrain p
      (if trainedState (portOf s p) = .down then setPort p (trainedPort peer rehomed (portOf s p)) s
        else { setPort p (trainedPort peer rehomed (portOf s p)) s with
          chain := { (setPort p (trainedPort peer rehomed (portOf s p)) s).chain with num := num, numv := true } })) := rfl

theorem ports_trained (p peer : Nat) (rehomed : Bool) (num : BitVec 4) (s : State) :
    (trained p peer rehomed num s).chain.ports = (setPort p (trainedPort peer rehomed (portOf s p)) s).chain.ports := by
  rw [trained_eq, recordLane_chain]
  split <;> rfl

theorem raised_trained (hup : s.standby.mainUp = true) (hp : p < 16) (peer : Nat) (rehomed : Bool) (num : BitVec 4) :
    Raised 0 (112 + p) s (trained p peer rehomed num s) := by
  rw [trained_eq]
  refine raised_recordLane hup ?_ hp _ _ _
  split <;> exact .of_same rfl rfl

theorem number_trained_down (h : trainedState (portOf s p) = .down) (peer : Nat) (rehomed : Bool) (num : BitVec 4) :
    (trained p peer rehomed num s).chain.num = s.chain.num ∧ (trained p peer rehomed num s).chain.numv = s.chain.numv := by
  rw [trained_eq, recordLane_chain, if_pos h]
  exact ⟨rfl, rfl⟩

theorem number_trained (h : trainedState (portOf s p) ≠ .down) (peer : Nat) (rehomed : Bool) (num : BitVec 4) :
    (trained p peer rehomed num s).chain.num = num ∧ (trained p peer rehomed num s).chain.numv = true ∧
      (trained p peer rehomed num s).out =
        s.out ++ [trainOut p { ackWord {} with typ := 3 } { peerPort := BitVec.ofNat 4 p, peerMod := num }] := by
  rw [trained_eq, recordLane_chain, recordLane_out, if_neg h]
  exact ⟨rfl, rfl, rfl⟩

/-! ### Lane maps (R500 to R504) -/

/-- The state of a port that has taken a map. -/
def mapState (m : BitVec 12 × BitVec 3) (q : Port) : PortState :=
  if 4 ≤ (workLanes { q with lmap := m.1 }).length then .up else .degraded

/-- A port that has taken a map at the absolute ck `ck`. -/
def mapTaken (m : BitVec 12 × BitVec 3) (ck : Nat) (q : Port) : Port :=
  { q with
    lmap := m.1, spare := m.2, newMap := none, newCal := false, pauseTo := ck + 256, laneSw := satInc q.laneSw
    st := mapState m q, calLane := if mapState m q = .up then 7 else q.calLane }

theorem takeMap_eq (p : Nat) (m : BitVec 12 × BitVec 3) (s : State) : takeMap p m s =
    recordLane p (if m.2 = 7 then 0 else m.2.toNat) (portCode (mapState m (portOf s p))) 0
      (setPort p (mapTaken m (absCk s) (portOf s p)) s) := by
  simp only [takeMap, mapTaken, mapState, workLanes]
  rfl

theorem ports_takeMap (p : Nat) (m : BitVec 12 × BitVec 3) (s : State) :
    (takeMap p m s).chain.ports = (setPort p (mapTaken m (absCk s) (portOf s p)) s).chain.ports := by
  rw [takeMap_eq, recordLane_chain]

theorem recorded_takeMap (hclock : t.clock = s.clock) (hfaults : t.faults = s.faults) (p : Nat) (m : BitVec 12 × BitVec 3) :
    Recorded 0x0F (blkPort p) s (takeMap p m t) := by
  rw [takeMap_eq]
  exact recorded_recordLane (t := setPort p (mapTaken m (absCk t) (portOf t p)) t) hclock hfaults _ _ _ _

theorem out_takeMap (p : Nat) (m : BitVec 12 × BitVec 3) (s : State) : (takeMap p m s).out = s.out := by
  rw [takeMap_eq, recordLane_out]
  rfl

/-- What a map taken in force means for its port. -/
theorem mapTaken_state (m : BitVec 12 × BitVec 3) (ck : Nat) (q : Port) :
    (4 ≤ (workLanes { q with lmap := m.1 }).length → (mapTaken m ck q).st = .up ∧ (mapTaken m ck q).calLane = 7) ∧
    ((workLanes { q with lmap := m.1 }).length < 4 →
      (mapTaken m ck q).st = .degraded ∧ (mapTaken m ck q).calLane = q.calLane) := by
  simp only [mapTaken, mapState]
  constructor <;> intro h
  · simp [h]
  · simp [Nat.not_le.2 h]

end

section
variable {s : State} {p : PortN} (hup : s.standby.mainUp = true)
include hup

/-- What the map `m` in force means for the port (R501 to R504). -/
def tookMap (s : State) (p : Nat) (m : BitVec 12 × BitVec 3) (t : State) : Prop :=
  OtherPorts p s t ∧
    (portOf t p).lmap = m.1 ∧ (portOf t p).spare = m.2 ∧ (portOf t p).newMap = none ∧ (portOf t p).pauseTo = absCk s + 256 ∧
    (portOf t p).laneSw = satInc (portOf s p).laneSw ∧
    (portOf t p).failedLanes = (portOf s p).failedLanes ∧ Recorded 0x0F (blkPort p) s t ∧
    (4 ≤ (workLanes { portOf s p with lmap := m.1 }).length → (portOf t p).st = .up ∧ (portOf t p).calLane = 7) ∧
    ((workLanes { portOf s p with lmap := m.1 }).length < 4 →
      (portOf t p).st = .degraded ∧ (portOf t p).calLane = (portOf s p).calLane)

omit hup in
theorem tookMap_takeMap (p : Nat) (m : BitVec 12 × BitVec 3) (s : State) : tookMap s p m (takeMap p m s) := by
  have hports := ports_takeMap p m s
  refine ⟨otherPorts_of_ports hports, ?_⟩
  rw [portOf_same hports]
  exact ⟨rfl, rfl, rfl, rfl, rfl, rfl, recorded_takeMap rfl rfl p m, (mapTaken_state m _ _).1, (mapTaken_state m _ _).2⟩

theorem exec_trainFrame (hst : (portOf s p.val).st = .training ∨ (portOf s p.val).st = .dark) (hrep : replaced s p.val = false)
    (h : FrameHead) (w : TrainWords) :
    exec (.trainFrame p h w) s = .next (trainIn p.val (h.crc == trainCrc h.link w) h.link w s) :=
  whenOk_of s (by rcases hst with h | h <;> rw [mainUp, hup, hrep, h] <;> rfl) _

theorem trainFrame_bad (hst : (portOf s p.val).st = .training ∨ (portOf s p.val).st = .dark) (hrep : replaced s p.val = false)
    {h : FrameHead} {w : TrainWords} (hbad : chainOk (h.crc == trainCrc h.link w) 3 h.link = false) :
    Completes (.trainFrame p h w) s fun t => OtherPorts p.val s t ∧
      portOf t p.val = { portOf s p.val with crcErr := satInc (portOf s p.val).crcErr } := by
  obtain ⟨hother, hport, -⟩ := badFrame_effect p.val s
  refine completes_of_exec (exec_trainFrame hup hst hrep h w) ?_
  rw [trainIn, hbad]
  exact ⟨hother, hport⟩

theorem exec_trainFrame_good (hst : (portOf s p.val).st = .training ∨ (portOf s p.val).st = .dark)
    (hrep : replaced s p.val = false) {l : LinkWord} (hres : l.reserved = 0) (htyp : l.typ = 3) (num peer : BitVec 4) :
    exec (.trainFrame p ⟨trainCrc l ⟨num, peer⟩, l⟩ ⟨num, peer⟩) s = .next (trainFrame p.val num peer s) := by
  have hok : chainOk (trainCrc l ⟨num, peer⟩ == trainCrc l ⟨num, peer⟩) 3 l = true := by simp [chainOk, hres, htyp]
  rw [exec_trainFrame hup hst hrep, trainIn, if_pos hok]

end

section
variable {s : State} {p : PortN} {num peer : BitVec 4}

theorem trainFrame_second (hconf : s.chain.conflict = false) (hnumv : s.chain.numv = true) (hnum : s.chain.num ≠ num) :
    trainFrame p.val num peer s = conflicts s := by
  simp only [trainFrame, hconf, hnumv, bne_iff_ne.2 hnum, Bool.and_self, if_true, Bool.false_eq_true, if_false]

section
variable (hconf : s.chain.conflict = false) (hnum : s.chain.numv = true → s.chain.num = num)
include hconf hnum

theorem trainFrame_first : trainFrame p.val num peer s =
    if num.toNat = p.val then
      if s.chain.rehomeEn = true ∧ peer = s.chain.from_ ∧ s.chain.from_ ≠ num then
        darken s.chain.from_.toNat (trained p.val s.chain.from_.toNat true num s)
      else recordLane p.val 0 5 0 (modPort p.val (fun q => { q with st := .loop, rehomed := false, peer := num })
        { s with chain := { s.chain with num := num, numv := true } })
    else trained p.val p.val false num s := by
  have hone : (s.chain.numv && s.chain.num != num) = false := by
    rw [Bool.and_eq_false_imp]
    intro h
    simp [hnum h]
  have hrehome : (s.chain.rehomeEn && peer == s.chain.from_ && s.chain.from_ != num) = true ↔
      s.chain.rehomeEn = true ∧ peer = s.chain.from_ ∧ s.chain.from_ ≠ num := by
    simp [and_assoc]
  simp only [trainFrame, hconf, hone, Bool.false_eq_true, if_false]
  rw [if_congr hrehome rfl rfl]

theorem trainFrame_rehomes (hp : num.toNat = p.val) (hen : s.chain.rehomeEn = true) (hpeer : peer = s.chain.from_)
    (hfrom : s.chain.from_ ≠ num) :
    (portOf (trainFrame p.val num peer s) p.val).rehomed = true ∧
      (portOf (trainFrame p.val num peer s) p.val).peer = s.chain.from_ ∧
      (portOf (trainFrame p.val num peer s) s.chain.from_.toNat).st = .dark := by
  rw [trainFrame_first hconf hnum, if_pos hp, if_pos ⟨hen, hpeer, hfrom⟩]
  obtain ⟨hother, hdark⟩ := darken_effect s.chain.from_.toNat (trained p.val s.chain.from_.toNat true num s)
  have hne : p.val ≠ s.chain.from_.toNat := fun h => hfrom (BitVec.eq_of_toNat_eq (by omega))
  rw [hother _ hne, portOf_same (ports_trained _ _ _ _ _)]
  exact ⟨rfl, (BitVec.ofNat_toNat _ _).trans (BitVec.setWidth_eq _), hdark⟩

theorem trainFrame_loops (hup : s.standby.mainUp = true) (hp : num.toNat = p.val)
    (hno : ¬ (s.chain.rehomeEn = true ∧ peer = s.chain.from_ ∧ s.chain.from_ ≠ num)) :
    OtherPorts p.val s (trainFrame p.val num peer s) ∧
      portOf (trainFrame p.val num peer s) p.val = { portOf s p.val with st := .loop, rehomed := false, peer := num } ∧
      (trainFrame p.val num peer s).chain.num = num ∧ (trainFrame p.val num peer s).chain.numv = true ∧
      Raised 0 (112 + p.val) s (trainFrame p.val num peer s) := by
  rw [trainFrame_first hconf hnum, if_pos hp, if_neg hno]
  set u : State := modPort p.val (fun q => { q with st := .loop, rehomed := false, peer := num })
    { s with chain := { s.chain with num := num, numv := true } } with hu
  have hgrown : HubGrown s u := .of_same rfl rfl
  have hports : (recordLane p.val 0 5 0 u).chain.ports =
      (setPort p.val { portOf s p.val with st := .loop, rehomed := false, peer := num } s).chain.ports := by
    rw [recordLane_chain]
    rfl
  refine ⟨otherPorts_of_ports hports, portOf_same hports, ?_, ?_, raised_recordLane hup hgrown p.isLt _ _ _⟩ <;>
    rw [recordLane_chain] <;> rfl

/-- A link that has trained as new (R465, R473). -/
theorem trainFrame_fresh (hup : s.standby.mainUp = true) (hp : num.toNat ≠ p.val) :
    trainFrame p.val num peer s = trained p.val p.val false num s ∧
    OtherPorts p.val s (trained p.val p.val false num s) ∧
      portOf (trained p.val p.val false num s) p.val = trainedPort p.val false (portOf s p.val) ∧
      Raised 0 (112 + p.val) s (trained p.val p.val false num s) := by
  have hports := ports_trained p.val p.val false num s
  exact ⟨by rw [trainFrame_first hconf hnum, if_neg hp], otherPorts_of_ports hports, portOf_same hports,
    raised_trained hup p.isLt _ _ _⟩

end

end

end Sys2Proof.Proofs
end

section
/-! Proofs for chapters 14 and 25, second part: the clauses of training, lane frames, lane failures and shells. -/

namespace Sys2Proof.Proofs

open Sys2Proof Sys2Proof.Machine Sys2Proof.Laws

/-- What a link that has trained as new shows (R465, R473). -/
def linkFresh (s : State) (p : Nat) (t : State) : Prop :=
  OtherPorts p s t ∧ (portOf t p).rehomed = false ∧
    (portOf t p).peer = BitVec.ofNat 4 p ∧ (portOf t p).nextSeq = 0 ∧ (portOf t p).lastRx = 0xFFF ∧
    (portOf t p).creditReq = 576 ∧ (portOf t p).creditRsp = 576 ∧ (portOf t p).creditAcc = 1152 ∧
    (portOf t p).replay = [] ∧ Raised 0 (112 + p) s t

section
variable {s : State} {p : PortN} {num peer : BitVec 4}

theorem linkFresh_trained (hup : s.standby.mainUp = true) (p : PortN) (num : BitVec 4) :
    linkFresh s p.val (trained p.val p.val false num s) ∧
      (portOf (trained p.val p.val false num s) p.val).st = trainedState (portOf s p.val) := by
  have hports := ports_trained p.val p.val false num s
  refine ⟨⟨otherPorts_of_ports hports, ?_⟩, ?_⟩ <;> rw [portOf_same hports]
  · exact ⟨rfl, rfl, rfl, rfl, rfl, rfl, rfl, rfl, raised_trained hup p.isLt _ _ _⟩
  · rfl

/-- R465 to R468: what a training frame for a port of another number brings, by the lanes that have not failed. -/
theorem trainFrame_numbers (hup : s.standby.mainUp = true) (hconf : s.chain.conflict = false)
    (hnum : s.chain.numv = true → s.chain.num = num) (hp : num.toNat ≠ p.val) :
    linkFresh s p.val (trainFrame p.val num peer s) ∧
    (portOf (trainFrame p.val num peer s) p.val).st = trainedState (portOf s p.val) ∧
    (trainedState (portOf s p.val) ≠ .down → (trainFrame p.val num peer s).chain.num = num ∧
      (trainFrame p.val num peer s).chain.numv = true ∧ (trainFrame p.val num peer s).out =
        s.out ++ [trainOut p.val { ackWord {} with typ := 3 } { peerPort := BitVec.ofNat 4 p.val, peerMod := num }]) ∧
    (trainedState (portOf s p.val) = .down → (trainFrame p.val num peer s).chain.num = s.chain.num ∧
      (trainFrame p.val num peer s).chain.numv = s.chain.numv) := by
  obtain ⟨hgo, -⟩ := trainFrame_fresh (peer := peer) hconf hnum hup hp
  obtain ⟨hfresh, hst⟩ := linkFresh_trained hup p num
  rw [hgo]
  exact ⟨hfresh, hst, fun h => number_trained h _ _ _, fun h => number_trained_down h _ _ _⟩

theorem chainPortRetrain_trains (hup : s.standby.mainUp = true) (hst : (portOf s p.val).st = .down) :
    Completes (.chainPortRetrain p) s fun t => OtherPorts p.val s t ∧
      portOf t p.val = { portOf s p.val with st := .training } ∧ Recorded 0x0F (blkPort p.val) s t ∧
      t.out = s.out ++ [trainOut p.val { ackWord {} with typ := 3 }
        { peerPort := BitVec.ofNat 4 p.val, peerMod := s.chain.num }] := by
  have hexec : exec (.chainPortRetrain p) s = .next (beginTraining p.val s) :=
    whenOk_of s (by rw [mainUp, hup, hst]; rfl) _
  have hchain : (recordLane p.val 0 1 0 (modPort p.val (fun q => { q with st := .training }) s)).chain =
      (setPort p.val { portOf s p.val with st := .training } s).chain := recordLane_chain _ _ _ _ _
  have hports : (beginTraining p.val s).chain.ports = (setPort p.val { portOf s p.val with st := .training } s).chain.ports :=
    congrArg Chain.ports hchain
  have hrec := recorded_recordLane (s := s) (t := modPort p.val (fun q => { q with st := .training }) s) rfl rfl p.val 0 1 0
  refine completes_of_exec hexec ⟨otherPorts_of_ports hports, portOf_same hports, hrec, ?_⟩
  simp only [beginTraining, sendTrain, emit_out]
  rw [hchain, recordLane_out]
  rfl

end

/-! ### LANE frames (R501) -/

/-- A map that comes with a link control word. -/
theorem tookMap_linked (l : LinkWord) (p : Nat) (m : BitVec 12 × BitVec 3) (s : State) :
    tookMap s p m (takeMap p m (setPort p (linked l (portOf s p)) s)) := by
  have hsw : (linked l (portOf s p)).laneSw = (portOf s p).laneSw := by rw [linked_eq]
  have hfailed : (linked l (portOf s p)).failedLanes = (portOf s p).failedLanes := by rw [linked_eq]
  have hcal : (linked l (portOf s p)).calLane = (portOf s p).calLane := by rw [linked_eq]
  obtain ⟨hother, h⟩ := tookMap_takeMap p m (setPort p (linked l (portOf s p)) s)
  rw [portOf_setPort] at h
  generalize linked l (portOf s p) = q at *
  have hwork : workLanes { q with lmap := m.1 } = workLanes { portOf s p with lmap := m.1 } := by
    simp only [workLanes, hfailed]
  rw [hsw, hfailed, hcal, hwork] at h
  exact ⟨otherPorts_trans (otherPorts_setPort _ _ s) hother, h⟩

section
variable {s : State} {p : PortN} (hup : s.standby.mainUp = true) (hflow : flows (portOf s p.val) = true)
include hup hflow

theorem laneFrame_sends {m : BitVec 12 × BitVec 3} (hnew : (portOf s p.val).newMap = some m)
    (hgo : (portOf s p.val).newCal = false ∨ ∀ x ∈ (portOf s p.val).replay, x.2 = 0) :
    Completes (.laneFrame (.send p)) s fun t => tookMap s p.val m t ∧
      t.out = s.out ++ [laneOut p.val { ackWord (portOf s p.val) with typ := 4 } m.1 m.2] := by
  have hwait : mapWaits (portOf s p.val) = false := by
    rw [mapWaits, Bool.and_eq_false_iff]
    refine hgo.imp_right fun hall => ?_
    simpa [retryGoing] using hall
  have hexec : exec (.laneFrame (.send p)) s = .next (laneSwitch p.val m s) := by
    change execLaneFrame (.send p) s = _
    rw [execLaneFrame, hnew]
    exact whenOk_of s (by rw [mainUp, hup, hflow, hwait]; rfl) _
  exact completes_of_exec hexec ⟨tookMap_takeMap p.val m (emit _ s), out_takeMap _ _ _⟩

theorem exec_laneRecv (h : FrameHead) (lmap : BitVec 12) (spare : BitVec 3) : exec (.laneFrame (.recv p h lmap spare)) s =
    .next (laneIn p.val (h.crc == laneCrc h.link lmap spare) h.link (lmap, spare) s) :=
  whenOk_of s (by rw [mainUp, hup, hflow]; rfl) _

theorem laneFrame_takes {l : LinkWord} (lmap : BitVec 12) (spare : BitVec 3) (hres : l.reserved = 0) (htyp : l.typ = 4)
    (hnak : l.nak = false) (htx : (portOf s p.val).tx = []) :
    Completes (.laneFrame (.recv p ⟨laneCrc l lmap spare, l⟩ lmap spare)) s fun t =>
      tookMap s p.val (lmap, spare) t ∧ t.out = s.out := by
  have hok : (!chainOk (laneCrc l lmap spare == laneCrc l lmap spare) 4 l) = false := by simp [chainOk, hres, htyp]
  have hflow' : flows (portOf (setPort p.val (linked l (portOf s p.val)) s) p.val) = true := by
    rw [portOf_setPort, linked_eq]
    exact hflow
  refine completes_of_exec (exec_laneRecv hup hflow _ _ _) ?_
  rw [laneIn, hok]
  simp only [takeLink_quiet hnak htx, hflow', Bool.false_eq_true, if_false, if_true]
  exact ⟨tookMap_linked l p.val (lmap, spare) s, out_takeMap _ _ _⟩

theorem laneFrame_bad {h : FrameHead} {lmap : BitVec 12} {spare : BitVec 3}
    (hbad : chainOk (h.crc == laneCrc h.link lmap spare) 4 h.link = false) :
    Completes (.laneFrame (.recv p h lmap spare)) s fun t => OtherPorts p.val s t ∧
      portOf t p.val = { portOf s p.val with crcErr := satInc (portOf s p.val).crcErr } := by
  obtain ⟨hother, hport, -⟩ := badFrame_effect p.val s
  refine completes_of_exec (exec_laneRecv hup hflow _ _ _) ?_
  rw [laneIn, hbad]
  exact ⟨hother, hport⟩

/-! ### Lane failures (R500 to R502, R504) -/

end

theorem mapped_failedLanes (q : Port) : (mapped q).failedLanes = q.failedLanes := by
  unfold mapped
  split <;> rfl

theorem mapped_st (q : Port) : (mapped q).st = q.st := by
  unfold mapped
  split <;> rfl

theorem mapped_cal (q : Port) : (mapped q).cal = q.cal := by
  unfold mapped
  split <;> rfl

/-- A port with a further failed lane. -/
def laneOff (lane : Nat) (q : Port) : Port := { q with failedLanes := q.failedLanes ||| BitVec.ofNat 5 (2 ^ lane) }

section
variable {s : State} {p lane : Nat}

/-- A port whose spare lane, or the lane that it calibrates, has failed. -/
def spareLost (lane : Nat) (q : Port) : Port :=
  { laneOff lane q with
    spare := if q.newMap.isSome then q.spare else 7
    cal := false, calGo := false, calLane := 7, newMap := q.newMap.map fun m => (m.1, 7) }

theorem spareLost_spare (lane : Nat) {q : Port} (h : q.newMap = none) : (spareLost lane q).spare = 7 := by simp [spareLost, h]

theorem spareLost_newMap (lane : Nat) {q : Port} {m : BitVec 12 × BitVec 3} (h : q.newMap = some m) :
    (spareLost lane q).newMap = some (m.1, 7) := by simp [spareLost, h]

/-- A port that has lost a working lane, and the calibration of its spare one. -/
def calibrationLost (lane : Nat) (q : Port) : Port :=
  { awaits (laneOff lane q) ((workLanes (mapped q)).filter fun l => l != lane) with
    st := .degraded, cal := false, calGo := false, calLane := (mapped q).spare, spare := 7 }

/-- A port that has lost a working lane and has no spare one. -/
def laneMissing (lane : Nat) (q : Port) : Port :=
  { awaits (laneOff lane q) ((workLanes (mapped q)).filter fun l => l != lane) with st := .degraded }

/-- A port whose spare lane takes the place of the one that has failed. -/
def laneReplaced (lane : Nat) (q : Port) : Port :=
  awaits (laneOff lane q) ((mapLanes (mapped q).lmap).map fun l => if l = lane then (mapped q).spare.toNat else l)

theorem laneFail_eq (p lane : Nat) (s : State) : laneFail p lane s =
    if (mapped (portOf s p)).spare.toNat = lane ∨ (mapped (portOf s p)).calLane.toNat = lane then
      recordLane p lane (portCode (portOf s p).st) 0 (setPort p (spareLost lane (portOf s p)) s)
    else if (portOf s p).st = .degraded then portDown p (recordLane p lane 4 0 (setPort p (laneOff lane (portOf s p)) s))
    else if (portOf s p).cal then recordLane p lane 3 0 (setPort p (calibrationLost lane (portOf s p)) s)
    else if (mapped (portOf s p)).spare = 7 then recordLane p lane 3 0 (setPort p (laneMissing lane (portOf s p)) s)
    else recordLane p lane 2 0 (setPort p (laneReplaced lane (portOf s p)) s) := by
  simp only [laneFail, mapped_failedLanes, mapped_st, mapped_cal]
  rfl

section
variable (hno : ¬ ((mapped (portOf s p)).spare.toNat = lane ∨ (mapped (portOf s p)).calLane.toNat = lane))
include hno

theorem laneFail_further (hst : (portOf s p).st = .degraded) :
    laneFail p lane s = portDown p (recordLane p lane 4 0 (setPort p (laneOff lane (portOf s p)) s)) := by
  rw [laneFail_eq, if_neg hno, if_pos hst]

theorem laneFail_calibrating (hst : (portOf s p).st = .up) (hcal : (portOf s p).cal = true) :
    laneFail p lane s = recordLane p lane 3 0 (setPort p (calibrationLost lane (portOf s p)) s) := by
  rw [laneFail_eq, if_neg hno, if_neg (by simp [hst]), if_pos hcal]

theorem laneFail_missing (hst : (portOf s p).st = .up) (hcal : ¬ (portOf s p).cal = true)
    (hspare : (mapped (portOf s p)).spare = 7) :
    laneFail p lane s = recordLane p lane 3 0 (setPort p (laneMissing lane (portOf s p)) s) := by
  rw [laneFail_eq, if_neg hno, if_neg (by simp [hst]), if_neg hcal, if_pos hspare]

theorem laneFail_replaced (hst : (portOf s p).st = .up) (hcal : ¬ (portOf s p).cal = true)
    (hspare : (mapped (portOf s p)).spare ≠ 7) :
    laneFail p lane s = recordLane p lane 2 0 (setPort p (laneReplaced lane (portOf s p)) s) := by
  rw [laneFail_eq, if_neg hno, if_neg (by simp [hst]), if_neg hcal, if_neg hspare]

end

end

/-- What every failed lane means for its port. -/
def laneFailed (s : State) (p lane : Nat) (t : State) : Prop :=
  OtherPorts p s t ∧ (portOf t p).failedLanes = (portOf s p).failedLanes ||| BitVec.ofNat 5 (2 ^ lane)

section
variable {s : State} {p : PortN} {lane : Fin 5} (hup : s.standby.mainUp = true) (hflow : flows (portOf s p.val) = true)
  (hused : laneUsed (portOf s p.val) lane.val = true)
include hup hflow hused

theorem exec_laneLost : exec (.laneFailure p (.lost lane)) s = .next (laneFail p.val lane.val s) :=
  whenOk_of s (by rw [mainUp, hup, hflow, hused]; rfl) _

theorem exec_laneWords (n : Nat) : exec (.laneFailure p (.uncorrectable lane n)) s = .next (laneWords p.val lane.val n s) :=
  whenOk_of s (by rw [mainUp, hup, hflow, hused]; rfl) _

/-- A lost lane whose port goes on: the port and the record of it. -/
theorem laneLost_recorded {st : Nat} {q : Port}
    (h : laneFail p.val lane.val s = recordLane p.val lane.val st 0 (setPort p.val q s))
    {Q : State → Prop}
    (hq : ∀ t, laneFailed s p.val lane.val t → portOf t p.val = q → Recorded 0x0F (blkPort p.val) s t → Q t) :
    Completes (.laneFailure p (.lost lane)) s Q := by
  have hrec := recorded_recordLane (s := s) (t := setPort p.val q s) rfl rfl p.val lane.val st 0
  rw [← h] at hrec
  refine completes_of_exec (exec_laneLost hup hflow hused) (hq _ (laneFail_effect _ _ s) ?_ hrec)
  rw [h]
  exact portOf_same (laneRecorded_ports _ _ _ _ q s)

theorem laneLost_down (hno : ¬ ((mapped (portOf s p.val)).spare.toNat = lane.val ∨ (mapped (portOf s p.val)).calLane.toNat = lane.val))
    (hst : (portOf s p.val).st = .degraded) :
    Completes (.laneFailure p (.lost lane)) s fun t => laneFailed s p.val lane.val t ∧
      (portOf t p.val).st = .down ∧ (portOf t p.val).tx = [] ∧ (portOf t p.val).rx = [] := by
  refine completes_of_exec (exec_laneLost hup hflow hused) ⟨laneFail_effect _ _ s, ?_⟩
  rw [laneFail_further hno hst, portDown, portOf_portLeaves]
  exact ⟨rfl, rfl, rfl⟩

theorem laneWords_few {n : Nat} (hfew : tblGet 0 (portOf s p.val).laneUnc lane.val + n < 16) :
    Completes (.laneFailure p (.uncorrectable lane n)) s fun t => OtherPorts p.val s t ∧ t.faults = s.faults ∧
      portOf t p.val = { portOf s p.val with laneUnc := tblMod 0 (portOf s p.val).laneUnc lane.val (· + n) } := by
  refine completes_of_exec (exec_laneWords hup hflow hused n) ?_
  simp only [laneWords, if_neg (Nat.not_le.2 hfew)]
  exact ⟨otherPorts_setPort _ _ s, rfl, portOf_setPort s p.val _⟩

theorem laneWords_many {n : Nat} (hmany : 16 ≤ tblGet 0 (portOf s p.val).laneUnc lane.val + n) :
    Completes (.laneFailure p (.uncorrectable lane n)) s (laneFailed s p.val lane.val) := by
  refine completes_of_exec (exec_laneWords hup hflow hused n) ?_
  simp only [laneWords, if_pos hmany]
  generalize hq : ({ portOf s p.val with laneUnc := tblMod 0 (portOf s p.val).laneUnc lane.val (· + n) } : Port) = q
  obtain ⟨hother, hfailed⟩ := laneFail_effect p.val lane.val (setPort p.val q s)
  rw [portOf_setPort, ← hq] at hfailed
  exact ⟨otherPorts_trans (otherPorts_setPort _ _ s) hother, by rw [← hq]; exact hfailed⟩

end

/-- Settles O45: the link's training, then its lanes and its loss. -/
theorem portsTrainAndLoseLanes : Obligations.PortsTrainAndLoseLanes := by
  unfold Obligations.PortsTrainAndLoseLanes
  intro s p hup q
  refine ⟨fun _ _ hst hrep hbad => trainFrame_bad hup hst hrep hbad, fun l num peer hst hrep hres htyp => ?_,
    fun hst => chainPortRetrain_trains hup hst, fun hst => ?_, fun lane hst hused => ?_, fun k => ?_, fun hstandby => ?_⟩
  · have hexec := exec_trainFrame_good hup hst hrep hres htyp num peer
    refine ⟨fun hconf => ?_, fun hconf hnumv hnum => ?_, fun hconf hnum hp => ⟨fun hen hpeer hfrom => ?_, fun hno => ?_⟩,
      fun hconf hnum hp => ?_⟩
    · rw [hexec, trainFrame, hconf]
      rfl
    · exact completes_of_exec hexec (by rw [trainFrame_second hconf hnumv hnum]; exact conflicts_effect s)
    · exact completes_of_exec hexec (trainFrame_rehomes hconf hnum hp hen hpeer hfrom)
    · exact completes_of_exec hexec (trainFrame_loops hconf hnum hup hp hno)
    · obtain ⟨hfresh, hst', hnumbers, hdown⟩ := trainFrame_numbers (peer := peer) hup hconf hnum hp
      refine ⟨fun h4 => completes_of_exec hexec ⟨hfresh, hnumbers ?_, hst'.trans ?_⟩,
        fun h3 => completes_of_exec hexec ⟨hfresh, hnumbers ?_, hst'.trans ?_⟩,
        fun h2 => completes_of_exec hexec ⟨hfresh, hst'.trans ?_, hdown ?_⟩⟩
      · simp [trainedState, q, h4]
      · simp [trainedState, q, h4]
      · simp [trainedState, q, h3]
      · simp [trainedState, q, h3]
      · simp [trainedState, q, show ¬ 4 ≤ (goodLanes q).length by omega, show (goodLanes q).length ≠ 3 by omega]
      · simp [trainedState, q, show ¬ 4 ≤ (goodLanes q).length by omega, show (goodLanes q).length ≠ 3 by omega]
  · have hflow : flows (portOf s p.val) = true := by rcases hst with h | h <;> rw [flows, h] <;> rfl
    exact ⟨fun _ hnew hgo => laneFrame_sends hup hflow hnew hgo,
      fun _ lmap spare hres htyp hnak htx => laneFrame_takes hup hflow lmap spare hres htyp hnak htx,
      fun _ _ _ hbad => laneFrame_bad hup hflow hbad⟩
  · have hflow : flows (portOf s p.val) = true := by rcases hst with h | h <;> rw [flows, h] <;> rfl
    refine ⟨fun hit => ?_, fun hno hdeg => laneLost_down hup hflow hused hno hdeg, fun hno hst' hwhy => ?_,
      fun hno hst' hcal hspare => ?_, fun _ hfew => laneWords_few hup hflow hused hfew,
      fun _ hmany => laneWords_many hup hflow hused hmany⟩
    · refine laneLost_recorded hup hflow hused ((laneFail_eq _ _ _).trans (if_pos hit)) fun t hfailed hport hrec => ?_
      rw [hport]
      exact ⟨hfailed, rfl, rfl, rfl, fun hnew => spareLost_spare _ hnew,
        fun _ hnew => spareLost_newMap _ hnew, hrec⟩
    · by_cases hcal : q.cal = true
      · refine laneLost_recorded hup hflow hused (laneFail_calibrating hno hst' hcal) fun t hfailed hport hrec => ?_
        rw [hport]
        exact ⟨hfailed, rfl, rfl, rfl, fun _ => ⟨rfl, rfl⟩, hrec⟩
      · refine laneLost_recorded hup hflow hused (laneFail_missing hno hst' hcal (hwhy.resolve_left hcal))
          fun t hfailed hport hrec => ?_
        rw [hport]
        exact ⟨hfailed, rfl, rfl, Bool.eq_false_iff.2 hcal, fun h => absurd h hcal, hrec⟩
    · refine laneLost_recorded hup hflow hused (laneFail_replaced hno hst' (by rw [hcal]; decide) hspare) fun t hfailed hport hrec => ?_
      rw [hport]
      exact ⟨hfailed, hst', rfl, hrec⟩
  · exact completes_of_exec (whenOk_of s hup _) (shellOut_effect k.val s)
  · exact whenOk_of s hstandby _

end Sys2Proof.Proofs
end

section
/-! Proofs for chapter 14: board timing and the calibration of spare lanes. -/

namespace Sys2Proof.Proofs

open Sys2Proof Sys2Proof.Machine Sys2Proof.Laws

section
variable {s t u : State} {p : Nat}

/-! ### What frames that leave change of their port -/

/-- A port `q'` that differs from `q` in what waits, in what is not acknowledged and in its credits alone. -/
def Sent (q q' : Port) : Prop := ∃ tx n rep req rsp acc,
  q' = { q with tx := tx, nextSeq := n, replay := rep, creditReq := req, creditRsp := rsp, creditAcc := acc }

theorem sent_refl (q : Port) : Sent q q := ⟨_, _, _, _, _, _, rfl⟩

theorem sent_trans {q q' q'' : Port} (h : Sent q q') (g : Sent q' q'') : Sent q q'' := by
  obtain ⟨_, _, _, _, _, _, rfl⟩ := h
  obtain ⟨_, _, _, _, _, _, rfl⟩ := g
  exact ⟨_, _, _, _, _, _, rfl⟩

theorem sent_linked (l : LinkWord) (q : Port) : Sent q (linked l q) := by
  rw [linked_eq]
  exact ⟨_, _, _, _, _, _, rfl⟩

theorem sent_useCredits (c n : Nat) (q : Port) : Sent q (useCredits c n q) := by
  unfold useCredits
  split
  · exact ⟨_, _, _, _, _, _, rfl⟩
  · split <;> exact ⟨_, _, _, _, _, _, rfl⟩

theorem sent_sentFrom (i : Nat) (f : ChainFrame) (q : Port) : Sent q (sentFrom i f q) :=
  sent_trans ⟨_, _, _, _, _, _, rfl⟩ (sent_useCredits _ _ _)

/-- Frames of port `p` have left, and nothing else of the chain differs. -/
def FramesLeft (p : Nat) (s t : State) : Prop :=
  OtherPorts p s t ∧ Sent (portOf s p) (portOf t p) ∧ t.chain.aligned = s.chain.aligned

theorem framesLeft_trans (h : FramesLeft p s t) (g : FramesLeft p t u) : FramesLeft p s u :=
  ⟨otherPorts_trans h.1 g.1, sent_trans h.2.1 g.2.1, g.2.2.trans h.2.2⟩

theorem framesLeft_of_chain {q : Port} (hq : Sent (portOf s p) q) (h : t.chain = (setPort p q s).chain) : FramesLeft p s t := by
  have hports := congrArg Chain.ports h
  refine ⟨otherPorts_of_ports hports, ?_, by rw [h]; rfl⟩
  rwa [portOf_same hports]

theorem framesLeft_pumpOne (p : Nat) (s : State) : FramesLeft p s (pumpOne p s) := by
  have hnone : FramesLeft p s s := ⟨fun _ _ => rfl, sent_refl _, rfl⟩
  by_cases hgo : (flows (portOf s p) && decide ((portOf s p).replay.length < 256) &&
      decide ((portOf s p).pauseTo ≤ absCk s)) = true
  · simp only [Bool.and_eq_true, decide_eq_true_eq] at hgo
    obtain ⟨⟨hflow, hroom⟩, hpause⟩ := hgo
    cases hnext : nextFrame (portOf s p) with
    | none =>
      have hstay : pumpOne p s = s := by
        simp only [pumpOne, hnext, ite_self]
      rw [hstay]
      exact hnone
    | some x =>
      obtain ⟨hchain, -⟩ := pumpOne_sends (i := x.1) (f := x.2) hflow hroom hpause hnext
      exact framesLeft_of_chain (sent_sentFrom x.1 x.2 _) hchain
  · have hstay : pumpOne p s = s := by
      rw [pumpOne]
      exact if_neg hgo
    rw [hstay]
    exact hnone

theorem framesLeft_takeLink {l : LinkWord} (hnak : l.nak = false) (p : Nat) (s : State) :
    FramesLeft p s (takeLink p l s) := by
  rw [takeLink_eq hnak]
  unfold pump
  exact upTo_keeps (framesLeft_of_chain (sent_linked l _) rfl) fun _ _ t h => framesLeft_trans h (framesLeft_pumpOne p t)

theorem keeps_link {l : LinkWord} (hnak : l.nak = false) (p : Nat) (s : State) : Keeps [.chain, .asy, .out] s (takeLink p l s) := by
  rw [takeLink_eq hnak]
  exact keeps_pump p (keeps_setPort p _ (.refl _ s) (by decide)) (by decide)

/-! ### The rounds (R488, R494) -/

theorem sendRound_eq (relay hold : Bool) (s : State) : sendRound relay hold s =
    { s with out := s.out ++ (reachable s).map fun p =>
        timingOut p { ackWord (portOf s p) with typ := 2 } (timingWords s p relay hold) } :=
  foldl_emit _ _ s

/-! ### What a timing frame brings (R487, R490, R491, R495) -/

/-- A port as a timing frame of either round leaves it. -/
def heardFrom (w : TimingWords) (q : Port) : Port :=
  { q with peerAligned := w.aligned, peerRef := w.refMod, peerTick := w.tick, peerMode := w.mode, peerWindow := some w.window }

/-- A port behind a first-round frame. -/
def firstHeard (w : TimingWords) (s : State) (q : Port) : Port :=
  { heardFrom w q with
    gotFirst := true, firstCk := s.clock.ck, voteHold := q.voteHold || votes s w
    offset := sat16 ((s.clock.ck : Int) - sealPoint s - q.delay.toNat) }

theorem firstRound_ports (p : Nat) (w : TimingWords) (s : State) :
    (firstRound p w s).chain.ports = (setPort p (firstHeard w s (portOf s p)) s).chain.ports := by
  have hlost (th : BitVec 16) (a b : Bool) (t : State) : (alignLost th a b t).chain.ports = t.chain.ports := by
    rw [alignLost, endService_chain, hubRaise_chain, recordAt_chain]
  simp only [firstRound]
  split
  · exact hlost _ _ _ _
  · split
    · exact hlost _ _ _ _
    · rfl

/-- R491, R684: lost alignment is recorded and raised. -/
theorem alignLost_effect (hup : s.standby.mainUp = true) (hclock : t.clock = s.clock) (hfaults : t.faults = s.faults)
    (g : HubGrown s t) (theta : BitVec 16) (tick dec : Bool) : (alignLost theta tick dec t).chain.aligned = false ∧
    Recorded 0x10 blkLocket s (alignLost theta tick dec t) ∧ Raised 0 128 s (alignLost theta tick dec t) := by
  have hrec := recorded_recordAt hclock hfaults 0x10 blkLocket (theta.toNat + b2n tick * 2 ^ 16 + b2n dec * 2 ^ 17)
  have hgrown : HubGrown s (recordAt 0x10 blkLocket (theta.toNat + b2n tick * 2 ^ 16 + b2n dec * 2 ^ 17) t) :=
    g.trans (.of_same (recordAt_standby _ _ _ _) (recordAt_hub _ _ _ _))
  refine ⟨?_, recorded_congr hrec ?_, raised_grown (raised_behind hgrown (hubGrown_hubRaise _ _)
    (raised_hubRaise (src := 128) (by rw [hgrown.standby, hup]) (by decide))) (.of_same ?_ ?_)⟩
  · rw [alignLost, endService_chain]
  · rw [alignLost, endService_faults, hubRaise_faults]
  · rw [alignLost, endService_standby]
  · rw [alignLost, endService_hub]

/-- A port behind a relay-round frame. -/
def relayHeard (w : TimingWords) (s : State) (q : Port) : Port :=
  { heardFrom w q with
    gotRelay := true, relayHold := q.relayHold || votes s w
    delay := if w.echoV then BitVec.ofNat 16 ((((s.clock.ck : Int) - sealPoint s) -
      ((relayPoint s : Int) - w.echoCk.toNat)) / 2).toNat else q.delay }

theorem relayRound_eq (p : Nat) (w : TimingWords) (s : State) :
    relayRound p w s = setPort p (relayHeard w s (portOf s p)) s := rfl

theorem delay_relayHeard {w : TimingWords} (q : Port) (h : w.echoV = false) : (relayHeard w s q).delay = q.delay := by
  simp [relayHeard, heardFrom, h]

theorem delay_relayHeard_echo {w : TimingWords} (q : Port) (h : w.echoV = true) : (relayHeard w s q).delay =
    BitVec.ofNat 16 ((((s.clock.ck : Int) - sealPoint s) - ((relayPoint s : Int) - w.echoCk.toNat)) / 2).toNat := by
  simp [relayHeard, h]

/-! ### A calibration ends (R503, R504) -/

theorem calDone_kept (q : Port) : (calDone q).cal = false ∧ (calDone q).calGo = false ∧ (calDone q).st = q.st ∧
    (calDone q).lmap = q.lmap ∧
    (calDone q).calOrder = (q.calOrder.filter fun l => l != (calTarget q).toNat) ++ [(calTarget q).toNat] := by
  unfold calDone
  dsimp only
  split
  · exact ⟨rfl, rfl, rfl, rfl, rfl⟩
  · split <;> exact ⟨rfl, rfl, rfl, rfl, rfl⟩

theorem newMap_calDone {q : Port} {old : Nat} (hst : q.st ≠ .degraded)
    (hold : (q.calOrder.find? fun l => (workLanes q).contains l) = some old) :
    (calDone q).newMap =
      some (mapOf ((mapLanes q.lmap).map fun l => if l = old then (calTarget q).toNat else l), BitVec.ofNat 3 old) := by
  simp only [calDone, if_neg hst, hold]

theorem newMap_calDone_degraded {q : Port} (hst : q.st = .degraded) :
    (calDone q).newMap = some (mapOf ((workLanes q).take 3 ++ [(calTarget q).toNat]), 7) := by
  simp only [calDone, if_pos hst]

end

section
variable {s : State} {p : PortN} (hup : s.standby.mainUp = true)
include hup

theorem timingFirstRound_seals (hck : 16384 - 64 * s.chain.windowNow.toNat ≤ s.clock.ck) (hopen : s.chain.sealed_ = false) :
    Completes .timingFirstRound s fun t => t.chain.ports = s.chain.ports ∧ t.chain.sealed_ = true ∧
      t.chain.verdict = ownVerdict s ∧
      t.out = s.out ++ (reachable s).map fun p =>
        timingOut p { ackWord (portOf s p) with typ := 2 } (timingWords s p false (ownVerdict s)) := by
  refine completes_of_exec (whenOk_of s ?_ _) ?_
  · rw [mainUp, hup, decide_eq_true (p := sealPoint s ≤ s.clock.ck) hck, hopen]
    rfl
  · rw [sendRound_eq]
    exact ⟨rfl, rfl, rfl, rfl⟩

theorem timingRelayRound_relays (hck : relayPoint s ≤ s.clock.ck) (hsealed : s.chain.sealed_ = true)
    (hrel : s.chain.relayed = false) :
    Completes .timingRelayRound s fun t => t.chain = { s.chain with relayed := true } ∧
      t.out = s.out ++ (reachable s).map fun p =>
        timingOut p { ackWord (portOf s p) with typ := 2 } (timingWords s p true (s.chain.verdict || anyHold s)) := by
  refine completes_of_exec (whenOk_of s ?_ _) ?_
  · rw [mainUp, hup, decide_eq_true hck, hsealed, hrel]
    rfl
  · rw [sendRound_eq]
    exact ⟨rfl, rfl⟩

section
variable (hflow : flows (portOf s p.val) = true)
include hflow

theorem exec_timingFrame (h : FrameHead) (w : TimingWords) :
    exec (.timingFrame p h w) s = .next (timingIn p.val (h.crc == timingCrc h.link w) h.link w s) :=
  whenOk_of s (by rw [mainUp, hup, hflow]; rfl) _

theorem timingFrame_bad {h : FrameHead} {w : TimingWords}
    (hbad : chainOk (h.crc == timingCrc h.link w) 2 h.link = false ∨ w.reserved ≠ 0) :
    Completes (.timingFrame p h w) s fun t => OtherPorts p.val s t ∧
      portOf t p.val = { portOf s p.val with crcErr := satInc (portOf s p.val).crcErr } := by
  have hb : (!chainOk (h.crc == timingCrc h.link w) 2 h.link || w.reserved != 0) = true := by
    rw [Bool.or_eq_true, Bool.not_eq_true', bne_iff_ne]
    exact hbad
  obtain ⟨hother, hport, -⟩ := badFrame_effect p.val s
  refine completes_of_exec (exec_timingFrame hup hflow h w) ?_
  rw [timingIn, if_pos hb]
  exact ⟨hother, hport⟩

section
variable {l : LinkWord} {w : TimingWords} (hres : l.reserved = 0) (htyp : l.typ = 2) (hnak : l.nak = false) (hw : w.reserved = 0)
include hres htyp hnak hw

/-- A timing frame that has come intact: its round's effect, then that of its link control word. -/
theorem timingFrame_heard {u : State} (hu : (if w.relay then relayRound p.val w s else firstRound p.val w s) = u) {Q : State → Prop}
    (hq : ∀ t, FramesLeft p.val (noteWindows u) t → Keeps [.chain, .asy, .out] (noteWindows u) t → Q t) :
    Completes (.timingFrame p ⟨timingCrc l w, l⟩ w) s Q := by
  have hok : (!chainOk (timingCrc l w == timingCrc l w) 2 l || w.reserved != 0) = false := by simp [chainOk, hres, htyp, hw]
  refine completes_of_exec (exec_timingFrame hup hflow _ w) ?_
  rw [timingIn, hok, hu]
  exact hq _ (framesLeft_takeLink hnak _ _) (keeps_link hnak _ _)

end

end

theorem chainCalibrationRotation_starts (hauto : s.chain.calAuto = true) (hcan : canCalibrate s p.val = true)
    (hdue : rotationDue s (portOf s p.val) = true) :
    Completes (.chainCalibrationRotation p) s fun t => OtherPorts p.val s t ∧
      portOf t p.val = { portOf s p.val with cal := true, calTick := s.clock.tick.toNat + 1 } :=
  completes_of_exec (whenOk_of s (by rw [mainUp, hup, hauto, hcan, hdue]; rfl) _)
    ⟨otherPorts_modPort _ _ s, portOf_modPort (s := s) p.val _⟩

end

theorem firstRound_aligned {s : State} {p : Nat} {w : TimingWords} (hup : s.standby.mainUp = true)
    (hmode : s.clock.mode = .scheduled) (htick : w.tick = s.clock.tick + 1) (hhold : w.curHold ≠ s.clock.hold) :
    (firstRound p w s).chain.aligned = false ∧ Recorded 0x10 blkLocket s (firstRound p w s) ∧ Raised 0 128 s (firstRound p w s) := by
  have hdiffers : (w.tick == s.clock.tick + 1 && (w.curHold != s.clock.hold || w.mode.toNat != nextMode s)) = true := by
    rw [htick, beq_self_eq_true, bne_iff_ne.2 hhold]
    rfl
  have hgo : firstRound p w s = alignLost (sat16 ((s.clock.ck : Int) - sealPoint s - (portOf s p).delay.toNat)) false true
      (setPort p (firstHeard w s (portOf s p)) s) := by
    simp only [firstRound, hdiffers, hmode, decide_true, Bool.and_self, if_true]
    rfl
  rw [hgo]
  exact alignLost_effect (t := setPort p (firstHeard w s (portOf s p)) s) hup rfl rfl (.of_same rfl rfl) _ _ _

/-- Settles O46: the rounds, the frames of each, then the calibration. -/
theorem boardTimingAndCalibration : Obligations.BoardTimingAndCalibration := by
  unfold Obligations.BoardTimingAndCalibration
  intro s hup
  refine ⟨fun hck hopen => timingFirstRound_seals hup hck hopen,
    fun hck hsealed hrel => timingRelayRound_relays hup hck hsealed hrel, fun p hst => ?_,
    fun p hauto hcan hdue => chainCalibrationRotation_starts hup hauto hcan hdue, fun p hcal => ?_⟩
  · have hflow : flows (portOf s p.val) = true := by rcases hst with h | h <;> rw [flows, h] <;> rfl
    refine ⟨fun _ _ hbad => timingFrame_bad hup hflow hbad, fun l w hres htyp hnak hw => ⟨fun hrelay => ?_, fun hrelay => ?_⟩⟩
    · refine timingFrame_heard (u := firstRound p.val w s) hup hflow hres htyp hnak hw (by rw [hrelay]; rfl)
        fun t hleft hkeep => ?_
      obtain ⟨hother, hsent, haligned⟩ := hleft
      have hfaults := faults_same hkeep (by decide)
      have hstandby := standby_same hkeep (by decide)
      have hhub := hkeep.only.hub.resolve_left (by decide)
      have hports : (noteWindows (firstRound p.val w s)).chain.ports =
          (setPort p.val (firstHeard w s (portOf s p.val)) s).chain.ports := firstRound_ports p.val w s
      rw [portOf_same hports] at hsent
      obtain ⟨_, _, _, _, _, _, hport⟩ := hsent
      rw [hport]
      refine ⟨otherPorts_trans (otherPorts_of_ports hports) hother, ⟨rfl, rfl, rfl, rfl, rfl⟩, rfl, rfl, rfl, rfl, rfl, rfl,
        fun hmode htick hhold => ?_⟩
      obtain ⟨hlost, hrec, hraised⟩ := firstRound_aligned (p := p.val) hup hmode htick hhold
      exact ⟨haligned.trans hlost, recorded_congr hrec hfaults, raised_grown hraised (.of_same hstandby hhub)⟩
    · refine timingFrame_heard (u := relayRound p.val w s) hup hflow hres htyp hnak hw (by rw [hrelay]; rfl)
        fun t hleft hkeep => ?_
      obtain ⟨hother, hsent, -⟩ := hleft
      have hfaults := faults_same hkeep (by decide)
      have hports : (noteWindows (relayRound p.val w s)).chain.ports =
          (setPort p.val (relayHeard w s (portOf s p.val)) s).chain.ports := rfl
      rw [portOf_same hports] at hsent
      obtain ⟨_, _, _, _, _, _, hport⟩ := hsent
      rw [hport]
      exact ⟨otherPorts_trans (otherPorts_of_ports hports) hother, ⟨rfl, rfl, rfl, rfl, rfl⟩, rfl, rfl, rfl,
        fun hecho => delay_relayHeard _ hecho, fun hecho => delay_relayHeard_echo _ hecho, hfaults⟩
  · obtain ⟨hcal', hgo, hst, hmap, horder⟩ := calDone_kept (portOf s p.val)
    have hport := portOf_modPort (s := s) p.val calDone
    refine completes_of_exec (whenOk_of s (by rw [mainUp, hup, hcal]; rfl) _) ⟨otherPorts_modPort _ _ s, ?_⟩
    rw [hport]
    exact ⟨hcal', hgo, hst, hmap, horder, fun _ hst hold => newMap_calDone hst hold, fun hst => newMap_calDone_degraded hst⟩

end Sys2Proof.Proofs
end

section
/-! Proofs for chapter 15: the check bezel and what breaks a record. -/

namespace Sys2Proof.Proofs

open Sys2Proof Sys2Proof.Machine Sys2Proof.Laws

section
variable {s t u : State} {z : Nat}

/-! ### Records of a bezel -/

theorem recOf_setRec (z r : Nat) (v : RedRec) (s : State) : recOf (bezelOf (setRec z r v s) z) r = v := by
  rw [setRec, bezelOf_modBezel, recOf]
  exact tblGet_tblSet_same _ _ _ _

theorem recOf_modRec (z r : Nat) (f : RedRec → RedRec) (s : State) :
    recOf (bezelOf (modRec z r f s) z) r = f (recOf (bezelOf s z) r) := recOf_setRec _ _ _ _

theorem recOf_modRec_other {k r : Nat} (h : k ≠ r) (z : Nat) (f : RedRec → RedRec) (s : State) :
    recOf (bezelOf (modRec z r f s) z) k = recOf (bezelOf s z) k := by
  rw [modRec, setRec, bezelOf_modBezel, recOf]
  exact tblGet_tblSet_other _ _ _ _ _ h

theorem otherBezels_modRec (z r : Nat) (f : RedRec → RedRec) (s : State) : OtherBezels z s (modRec z r f s) :=
  otherBezels_modBezel _ _ _

/-! ### A record becomes BROKEN (R546) -/

/-- A bezel in which a record is given up: it waits for nothing, and its fan-outs end. -/
def recLost (r : Nat) (b : Bezel) : Bezel :=
  { b with
    completed := b.completed.filter fun k => k != r
    verdicts := tblSet 0 b.verdicts r 0
    fans := (b.fans.map fun f => if f.record = r then { f with dead := true } else f).filter fanOpen }

/-- A record BROKEN, before it is recorded. -/
def broken (z r : Nat) (s : State) : State := modBezel z (recLost r) (modRec z r (fun v => { v with st := .broken }) s)

theorem breakRec_eq (z r : Nat) (s : State) : breakRec z r s = hubRaise (80 + z) (recordAddr 0x13 (blkBezel z)
    ((Config.freeWord (65536 * z + r) 511).toNat % 2 ^ 48) (r + z * 65536) (broken z r s)) := rfl

theorem st_breakRec (z r : Nat) (s : State) : (recOf (bezelOf (breakRec z r s) z) r).st = .broken := by
  have hbezels : (breakRec z r s).bezels = (broken z r s).bezels := by
    rw [breakRec_eq, hubRaise_bezels, recordAddr_bezels]
  rw [bezelOf_congr hbezels, broken, bezelOf_modBezel]
  change (recOf (bezelOf (modRec z r _ s) z) r).st = _
  rw [recOf_modRec]

theorem faultsGrown_breakRec (z r : Nat) (s : State) : FaultsGrown 1 s (breakRec z r s) := by
  have hbroken : FaultsGrown 0 s (broken z r s) := .of_same rfl rfl
  rw [breakRec_eq]
  exact (hbroken.trans (faultsGrown_recordFault _ _)).trans (m := 0) (.of_same (hubRaise_clock _ _) (hubRaise_faults _ _))

theorem recorded_breakRec {n : Nat} (g : FaultsGrown n s t) (hroom : s.faults.waiting.length + n < 256) (z r : Nat) :
    Recorded 0x13 (blkBezel z) s (breakRec z r t) := by
  rw [breakRec_eq]
  refine recorded_congr (recorded_recordFault (n := n) _ rfl rfl (g.trans (m := 0) (.of_same ?_ ?_)) hroom) (hubRaise_faults _ _) <;>
    rfl

theorem raised_breakRec (hup : s.standby.mainUp = true) (g : HubGrown s t) (hz : z < 16) (r : Nat) :
    Raised 0 (80 + z) s (breakRec z r t) := by
  rw [breakRec_eq]
  have hrec : HubGrown s (recordAddr 0x13 (blkBezel z) ((Config.freeWord (65536 * z + r) 511).toNat % 2 ^ 48) (r + z * 65536)
      (broken z r t)) :=
    g.trans (.of_same (recordAddr_standby _ _ _ _ _) (recordAddr_hub _ _ _ _ _))
  refine raised_behind hrec (hubGrown_hubRaise _ _) (raised_hubRaise (by rw [hrec.standby, hup]) ?_)
  simp only [hubAssigned, Bool.or_eq_true, Bool.and_eq_true, decide_eq_true_eq]
  omega

/-! ### A copy reaches the check adders (R524) -/

section
variable {o r j : Nat} {step : Word32} {first : Bool} {d : Gran}

theorem checkCopy_new (h : (bezelOf s z).chk.find? (isEntry o r j step) = none) : checkCopy z o r j step first d s =
    if countIf (fun e => !e.skipped) (bezelOf s z).chk < 1024 then
      setBezel z { bezelOf s z with
        chk := (bezelOf s z).chk ++ [{ owner := o, record := r, gran := j, step := step, sums := conElems d
                                       mags := (conElems d).map mag32 }] } s
    else setBezel z { bezelOf s z with
      chk := (bezelOf s z).chk ++ [{ owner := o, record := r, gran := j, step := step, skipped := true }]
      chkSkip := satInc (bezelOf s z).chkSkip } s := by
  simp only [checkCopy, h]
  rfl

theorem checkCopy_joins {e : ChkEntry} (h : (bezelOf s z).chk.find? (isEntry o r j step) = some e) (hskip : e.skipped = false) :
    checkCopy z o r j step first d s = setBezel z { bezelOf s z with
      chk := modFirst (isEntry o r j step) (fun _ =>
        if first = true then { e with sums := conElems d, mags := (conElems d).map mag32 }
        else { e with sums := List.zipWith fpAdd e.sums (conElems d)
                      mags := List.zipWith fpAdd e.mags ((conElems d).map mag32) }) (bezelOf s z).chk } s := by
  simp only [checkCopy, h, hskip, Bool.false_eq_true, if_false]

end

/-! ### Sums are compared (R525, R526) -/

/-- The elements whose sums do not match. -/
def missed (tol : Nat) (vals : List Word32) (e : ChkEntry) : List Nat :=
  (List.range vals.length).filter fun i => !checkMatch tol (nth 0 vals i) (nth 0 e.sums i) (nth 0 e.mags i)

theorem missed_eq_nil {tol : Nat} {vals : List Word32} {e : ChkEntry}
    (h : ∀ i < vals.length, checkMatch tol (nth 0 vals i) (nth 0 e.sums i) (nth 0 e.mags i) = true) : missed tol vals e = [] := by
  simpa [missed] using h

theorem missed_ne_nil {tol i : Nat} {vals : List Word32} {e : ChkEntry} (hi : i < vals.length)
    (h : checkMatch tol (nth 0 vals i) (nth 0 e.sums i) (nth 0 e.mags i) = false) : missed tol vals e ≠ [] := by
  simp only [missed, ne_eq, List.filter_eq_nil_iff, not_forall]
  exact ⟨i, List.mem_range.2 hi, by rw [h]; decide⟩

theorem checkSums_compares {o r j : Nat} {step : Word32} {vals : List Word32} {e : ChkEntry}
    (h : (bezelOf s z).chk.find? (isEntry o r j step) = some e) (hskip : e.skipped = false) :
    checkSums z o r j step vals s = verdict o r (missed (bezelOf s z).tol.toNat vals e != [])
      ((missed (bezelOf s z).tol.toNat vals e).foldl
        (fun t i => checkMiss z o r j i step (nth 0 vals i) (nth 0 e.sums i) t)
        (setBezel z { bezelOf s z with chk := dropFirst (isEntry o r j step) (bezelOf s z).chk } s)) := by
  simp only [checkSums, h, hskip, Bool.false_eq_true, if_false]
  rfl

/-- A verdict that is well is taken off those that the record waits for. -/
theorem verdict_well (o r : Nat) (s : State) : OtherBezels o s (verdict o r false s) ∧
    tblGet 0 (bezelOf (verdict o r false s) o).verdicts r = tblGet 0 (bezelOf s o).verdicts r - 1 ∧
    (verdict o r false s).faults = s.faults ∧ (verdict o r false s).hub = s.hub := by
  simp only [verdict, Bool.false_eq_true, if_false]
  split
  next h => exact ⟨otherBezels_refl _ _, by rw [h], rfl, rfl⟩
  next =>
    refine ⟨fun _ hne => bezelOf_setBezel_other _ _ hne, ?_, rfl, rfl⟩
    rw [bezelOf_setBezel]
    exact tblGet_tblSet_same _ _ _ _

theorem verdict_breaks {o r : Nat} (h : tblGet 0 (bezelOf s o).verdicts r ≠ 0) : verdict o r true s = breakRec o r s := by
  simp only [verdict, if_neg h, if_true]

theorem verdict_bad (o r : Nat) (s : State) : FaultsGrown 1 s (verdict o r true s) ∧ HubGrown s (verdict o r true s) := by
  by_cases h : tblGet 0 (bezelOf s o).verdicts r = 0
  · have hstay : verdict o r true s = s := by simp only [verdict, if_pos h]
    rw [hstay]
    exact ⟨.of_same rfl rfl, .of_same rfl rfl⟩
  · rw [verdict_breaks h]
    exact ⟨faultsGrown_breakRec _ _ _, hubGrown_breakRec _ _ _⟩

section
variable {o r j i : Nat} {step x y : Word32}

/-- A bezel that has counted a mismatch. -/
def missCounted (z : Nat) (s : State) : State := modBezel z (fun b => { b with chkMiss := satInc b.chkMiss }) s

theorem checkMiss_records (z o r j i : Nat) (step x y : Word32) (s : State) : ∃ v : FaultRec, v.cls = BitVec.ofNat 8 0x12 ∧
    v.source = BitVec.ofNat 12 (blkBezel z) ∧
    checkMiss z o r j i step x y s = hubRaise (64 + z) (recordFault v (missCounted z s)) := ⟨_, rfl, rfl, rfl⟩

theorem checkMiss_grown (z o r j i : Nat) (step x y : Word32) (s : State) : FaultsGrown 1 s (checkMiss z o r j i step x y s) ∧
    HubGrown s (checkMiss z o r j i step x y s) ∧ OtherBezels z s (checkMiss z o r j i step x y s) := by
  have hcount : FaultsGrown 0 s (missCounted z s) := .of_same rfl rfl
  have hhub : HubGrown s (missCounted z s) := .of_same rfl rfl
  have hbezels : OtherBezels z s (missCounted z s) := otherBezels_modBezel _ _ _
  obtain ⟨v, -, -, hgo⟩ := checkMiss_records z o r j i step x y s
  rw [hgo]
  refine ⟨(hcount.trans (faultsGrown_recordFault v _)).trans (m := 0) (.of_same (hubRaise_clock _ _) (hubRaise_faults _ _)),
    (hhub.trans (.of_same (recordFault_standby _ v) (recordFault_hub _ v))).trans (hubGrown_hubRaise _ _),
    otherBezels_trans hbezels (otherBezels_of_bezels ?_)⟩
  rw [hubRaise_bezels, recordFault_bezels]

theorem recorded_checkMiss (hroom : s.faults.waiting.length < 256) (g : FaultsGrown 0 s t) :
    Recorded 0x12 (blkBezel z) s (checkMiss z o r j i step x y t) := by
  have hcount : FaultsGrown 0 t (missCounted z t) := .of_same rfl rfl
  obtain ⟨v, hcls, hsource, hgo⟩ := checkMiss_records z o r j i step x y t
  rw [hgo]
  exact recorded_congr (recorded_recordFault (n := 0 + 0) v hcls hsource (g.trans hcount) hroom) (hubRaise_faults _ _)

theorem raised_checkMiss (hup : s.standby.mainUp = true) (g : HubGrown s t) (hz : z < 16) :
    Raised 0 (64 + z) s (checkMiss z o r j i step x y t) := by
  have hcount : HubGrown t (missCounted z t) := .of_same rfl rfl
  obtain ⟨v, -, -, hgo⟩ := checkMiss_records z o r j i step x y t
  have hrec : HubGrown s (recordFault v (missCounted z t)) :=
    (g.trans hcount).trans (.of_same (recordFault_standby _ v) (recordFault_hub _ v))
  rw [hgo]
  refine raised_behind hrec (hubGrown_hubRaise _ _) (raised_hubRaise (by rw [hrec.standby, hup]) ?_)
  simp only [hubAssigned, Bool.or_eq_true, Bool.and_eq_true, decide_eq_true_eq]
  omega

end

theorem recorded_foldl {α : Type} {f : State → α → State} {cls source : Nat} (hroom : s.faults.waiting.length < 256)
    (hstep : ∀ u a, FaultsGrown 1 u (f u a)) (l : List α) (h : Recorded cls source s t) : Recorded cls source s (l.foldl f t) := by
  induction l generalizing t with
  | nil => exact h
  | cons a l ih => exact ih (recorded_grown h hroom (hstep t a))

theorem otherBezels_foldl {α : Type} {f : State → α → State} (h : ∀ t a, OtherBezels z t (f t a)) (l : List α) (s : State) :
    OtherBezels z s (l.foldl f s) := by
  induction l generalizing s with
  | nil => exact otherBezels_refl _ _
  | cons a l ih => exact otherBezels_trans (h s a) (ih _)

end

/-! ### The clauses of the check bezel -/

section
variable {s : State} {b : BezelN} (hup : s.standby.mainUp = true)
include hup

/-- The check bezel behind the entry of its queue that it has taken. -/
def chkTaken (z : Nat) (rest : List ChkMsg) (s : State) : State := modBezel z (fun b => { b with chkIn := rest }) s

section
variable {o r j : Nat} {step : Word32} {first : Bool} {d : Gran} {rest : List ChkMsg}
  (hin : (bezelOf s b.val).chkIn = .copy o r j step first d :: rest)
include hin

theorem exec_sampledGranuleCopy : exec (.sampledGranuleCopy b) s =
    .next (checkCopy b.val o r j step first d (chkTaken b.val rest s)) := by
  change execSampledGranuleCopy b s = _
  simp only [execSampledGranuleCopy, hin]
  exact whenOk_of s hup _

theorem sampledGranuleCopy_enters (hnew : (bezelOf s b.val).chk.find? (isEntry o r j step) = none) :
    Completes (.sampledGranuleCopy b) s fun t => OtherBezels b.val s t ∧ bezelOf t b.val =
      if countIf (fun e => !e.skipped) (bezelOf s b.val).chk < 1024 then { bezelOf s b.val with
        chkIn := rest
        chk := (bezelOf s b.val).chk ++ [{ owner := o, record := r, gran := j, step := step, sums := conElems d
                                           mags := (conElems d).map mag32 }] }
      else { bezelOf s b.val with
        chkIn := rest
        chk := (bezelOf s b.val).chk ++ [{ owner := o, record := r, gran := j, step := step, skipped := true }]
        chkSkip := satInc (bezelOf s b.val).chkSkip } := by
  have hport : bezelOf (chkTaken b.val rest s) b.val = { bezelOf s b.val with chkIn := rest } := bezelOf_modBezel _ _ _
  refine completes_of_exec (exec_sampledGranuleCopy hup hin) ?_
  rw [checkCopy_new (by rw [hport]; exact hnew), hport]
  split
  · exact ⟨otherBezels_trans (otherBezels_modBezel _ _ _) (fun _ hne => bezelOf_setBezel_other _ _ hne), bezelOf_setBezel _ _ _⟩
  · exact ⟨otherBezels_trans (otherBezels_modBezel _ _ _) (fun _ hne => bezelOf_setBezel_other _ _ hne), bezelOf_setBezel _ _ _⟩

theorem sampledGranuleCopy_joins {e : ChkEntry} (hold : (bezelOf s b.val).chk.find? (isEntry o r j step) = some e)
    (hskip : e.skipped = false) :
    Completes (.sampledGranuleCopy b) s fun t => OtherBezels b.val s t ∧ bezelOf t b.val = { bezelOf s b.val with
      chkIn := rest
      chk := modFirst (isEntry o r j step) (fun _ =>
        if first = true then { e with sums := conElems d, mags := (conElems d).map mag32 }
        else { e with sums := List.zipWith fpAdd e.sums (conElems d)
                      mags := List.zipWith fpAdd e.mags ((conElems d).map mag32) }) (bezelOf s b.val).chk } := by
  have hport : bezelOf (chkTaken b.val rest s) b.val = { bezelOf s b.val with chkIn := rest } := bezelOf_modBezel _ _ _
  refine completes_of_exec (exec_sampledGranuleCopy hup hin) ?_
  rw [checkCopy_joins (by rw [hport]; exact hold) hskip, hport]
  exact ⟨otherBezels_trans (otherBezels_modBezel _ _ _) (fun _ hne => bezelOf_setBezel_other _ _ hne), bezelOf_setBezel _ _ _⟩

end

section
variable {o r j : Nat} {step : Word32} {vals : List Word32} {rest : List ChkMsg} {e : ChkEntry}
  (hin : (bezelOf s b.val).chkIn = .sums o r j step vals :: rest)
  (hold : (bezelOf s b.val).chk.find? (isEntry o r j step) = some e) (hskip : e.skipped = false)
include hin hold hskip

/-- The check bezel behind an entry that is compared. -/
def chkClosed (z o r j : Nat) (step : Word32) (rest : List ChkMsg) (s : State) : State :=
  setBezel z { bezelOf s z with chkIn := rest, chk := dropFirst (isEntry o r j step) (bezelOf s z).chk } (chkTaken z rest s)

theorem exec_sampledCheckCompare : exec (.sampledCheckCompare b) s = .next
    (verdict o r (missed (bezelOf s b.val).tol.toNat vals e != []) ((missed (bezelOf s b.val).tol.toNat vals e).foldl
      (fun t i => checkMiss b.val o r j i step (nth 0 vals i) (nth 0 e.sums i) t) (chkClosed b.val o r j step rest s))) := by
  have hport : bezelOf (chkTaken b.val rest s) b.val = { bezelOf s b.val with chkIn := rest } := bezelOf_modBezel _ _ _
  have hgo := checkSums_compares (s := chkTaken b.val rest s) (z := b.val) (vals := vals) (by rw [hport]; exact hold) hskip
  rw [hport] at hgo
  change execSampledCheckCompare b s = _
  simp only [execSampledCheckCompare, hin]
  exact (whenOk_of s hup _).trans (congrArg Host.Outcome.next hgo)

omit hup hin hold hskip in
theorem chkClosed_bezels (z o r j : Nat) (step : Word32) (rest : List ChkMsg) (s : State) :
    OtherBezels z s (chkClosed z o r j step rest s) ∧ bezelOf (chkClosed z o r j step rest s) z =
      { bezelOf s z with chkIn := rest, chk := dropFirst (isEntry o r j step) (bezelOf s z).chk } :=
  ⟨otherBezels_trans (otherBezels_modBezel _ _ _) (fun _ hne => bezelOf_setBezel_other _ _ hne), bezelOf_setBezel _ _ _⟩

theorem sampledCheckCompare_matches
    (hall : ∀ i < vals.length,
      checkMatch (bezelOf s b.val).tol.toNat (nth 0 vals i) (nth 0 e.sums i) (nth 0 e.mags i) = true) :
    Completes (.sampledCheckCompare b) s fun t => t.faults = s.faults ∧ t.hub = s.hub ∧
      (o ≠ b.val → bezelOf t b.val = { bezelOf s b.val with
          chkIn := rest, chk := dropFirst (isEntry o r j step) (bezelOf s b.val).chk } ∧
        tblGet 0 (bezelOf t o).verdicts r = tblGet 0 (bezelOf s o).verdicts r - 1 ∧
        ∀ z, z ≠ b.val → z ≠ o → bezelOf t z = bezelOf s z) := by
  obtain ⟨hother, hthis⟩ := chkClosed_bezels b.val o r j step rest s
  obtain ⟨hverdict, hcount, hfaults, hhub⟩ := verdict_well o r (chkClosed b.val o r j step rest s)
  refine completes_of_exec (exec_sampledCheckCompare hup hin hold hskip) ?_
  rw [missed_eq_nil hall]
  refine ⟨hfaults, hhub, fun hne => ⟨(hverdict _ hne.symm).trans hthis, ?_, fun k hk hko => (hverdict k hko).trans (hother k hk)⟩⟩
  rw [← hother o hne]
  exact hcount

theorem sampledCheckCompare_misses
    (hmiss : ∃ i < vals.length,
      checkMatch (bezelOf s b.val).tol.toNat (nth 0 vals i) (nth 0 e.sums i) (nth 0 e.mags i) = false)
    (hroom : s.faults.waiting.length < 256) :
    Completes (.sampledCheckCompare b) s fun t => Recorded 0x12 (blkBezel b.val) s t ∧
      Raised 0 (64 + b.val) s t ∧
      (o ≠ b.val → tblGet 0 (bezelOf s o).verdicts r ≠ 0 → (recOf (bezelOf t o) r).st = .broken) := by
  obtain ⟨i, hi, hbad⟩ := hmiss
  obtain ⟨hother, -⟩ := chkClosed_bezels b.val o r j step rest s
  have hne := missed_ne_nil hi hbad
  refine completes_of_exec (exec_sampledCheckCompare hup hin hold hskip) ?_
  rw [bne_iff_ne.2 hne]
  obtain ⟨k, l, hl⟩ := List.exists_cons_of_ne_nil hne
  rw [hl, List.foldl_cons]
  have hstep := fun (t : State) (i : Nat) => checkMiss_grown b.val o r j i step (nth 0 vals i) (nth 0 e.sums i) t
  have hfirst : Recorded 0x12 (blkBezel b.val) s (checkMiss b.val o r j k step (nth 0 vals k) (nth 0 e.sums k)
      (chkClosed b.val o r j step rest s)) := recorded_checkMiss hroom (.of_same rfl rfl)
  have hraised : Raised 0 (64 + b.val) s (checkMiss b.val o r j k step (nth 0 vals k) (nth 0 e.sums k)
      (chkClosed b.val o r j step rest s)) := raised_checkMiss hup (.of_same rfl rfl) b.isLt
  have hbezels := otherBezels_trans hother (hstep (chkClosed b.val o r j step rest s) k).2.2
  generalize checkMiss b.val o r j k step (nth 0 vals k) (nth 0 e.sums k) (chkClosed b.val o r j step rest s) = t at *
  have hrest : OtherBezels b.val s (l.foldl (fun t i => checkMiss b.val o r j i step (nth 0 vals i) (nth 0 e.sums i) t) t) :=
    otherBezels_trans hbezels (otherBezels_foldl (fun t i => (hstep t i).2.2) l t)
  have hrec := recorded_foldl hroom (fun t i => (hstep t i).1) l hfirst
  have hhub : HubGrown t (l.foldl (fun t i => checkMiss b.val o r j i step (nth 0 vals i) (nth 0 e.sums i) t) t) := by
    refine hubGrown_foldl (fun t i => ?_) l t
    exact (hstep t i).2.1
  obtain ⟨hverdict, hend⟩ := verdict_bad o r (l.foldl (fun t i => checkMiss b.val o r j i step (nth 0 vals i) (nth 0 e.sums i) t) t)
  refine ⟨recorded_grown hrec hroom hverdict, raised_grown (raised_grown hraised hhub) hend, fun hne hwaits => ?_⟩
  rw [verdict_breaks (by rw [hrest o hne]; exact hwaits)]
  exact st_breakRec _ _ _

end

end

end Sys2Proof.Proofs
end

section
/-! Proofs for chapter 15: the fused update unit. -/

namespace Sys2Proof.Proofs

open Sys2Proof Sys2Proof.Machine Sys2Proof.Laws

/-! ### What the unit reads -/

/-- Reads by the unit of bezel `z` have led from `s` to `t`, with `n` fault records at most. -/
structure UnitRead (n z : Nat) (s t : State) : Prop where
  faults : FaultsGrown n s t
  hub : HubGrown s t
  looked : BezelLooked z s t
  same : SameMemory s t

section
variable {s t u : State} {n m z l node : Nat}

theorem UnitRead.refl (n z : Nat) (s : State) : UnitRead n z s s :=
  ⟨.of_same rfl rfl, .of_same rfl rfl, .of_bezels rfl, .of_parts rfl rfl⟩

theorem UnitRead.trans (h : UnitRead n z s t) (g : UnitRead m z t u) : UnitRead (n + m) z s u :=
  ⟨h.faults.trans g.faults, h.hub.trans g.hub, h.looked.trans g.looked, h.same.trans g.same⟩

theorem UnitRead.mono (h : UnitRead n z s t) (hle : n ≤ m) : UnitRead m z s t :=
  ⟨h.faults.mono hle, h.hub, h.looked, h.same⟩

theorem UnitRead.code (h : UnitRead n z s t) (l : Nat) : stackCode t z l = stackCode s z l := h.same.stackCode z l

theorem unitRead_stackLook (z l : Nat) (c : Code) (read : Bool) (s : State) : UnitRead 1 z s (stackLook z l c read s) :=
  ⟨faultsGrown_stackLook _ _ _ _ _, hubGrown_stackLook _ _ _ _ _, bezelLooked_stackLook _ _ _ _ _, sameMemory_stackLook _ _ _ _ _⟩

/-- A record of a part that has failed. -/
theorem unitRead_recordPart (src phys pm cls node : Nat) (prior : Bool) (s : State) :
    UnitRead 1 z s (recordPart src phys pm cls node prior s) := by
  unfold recordPart
  exact ⟨faultsGrown_recordFault _ _, .of_same (recordFault_standby _ _) (recordFault_hub _ _),
    .of_bezels (recordFault_bezels _ _), .of_parts (recordFault_mem _ _) (recordFault_bezels _ _)⟩

theorem unitRead_addReread (p detail : Nat) (s : State) : UnitRead 0 z s (addReread p detail s) := by
  refine ⟨.of_same ?_ ?_, .of_same ?_ ?_, .of_bezels ?_, sameMemory_addReread _ _ _⟩ <;> unfold addReread <;> split <;> rfl

theorem unitRead_hubRaise (src : Nat) (s : State) : UnitRead 0 z s (hubRaise src s) :=
  ⟨.of_same (hubRaise_clock _ _) (hubRaise_faults _ _), hubGrown_hubRaise _ _, .of_bezels (hubRaise_bezels _ _),
    .of_parts (hubRaise_mem _ _) (hubRaise_bezels _ _)⟩

theorem unitUse_code (node z l : Nat) (s : State) : (unitUse node z l s).1 = stackCode s z l := by
  simp only [unitUse]
  split <;> rfl

theorem unitUse_lost (h : (decodeCode (stackCode s z l)).1 = .uncorr) (node : Nat) : (unitUse node z l s).2 =
    hubRaise (96 + z) (addReread (physOfLocal s z (l / 32 * 32)) (1 + 256 + 4096 * node)
      (recordPart (blkBezel z) (physOfLocal s z (l / 32 * 32)) 1 1 node (priorMark s z l)
        (stackLook z l (stackCode s z l) true s))) := by
  simp only [unitUse, stackUse, h, if_true]

theorem unitUse_found (h : (decodeCode (stackCode s z l)).1 ≠ .uncorr) (node : Nat) :
    (unitUse node z l s).2 = stackLook z l (stackCode s z l) true s := by
  simp only [unitUse, stackUse]
  exact congrArg Prod.snd (if_neg h)

/-- A granule that is read is corrected, or lost and then recorded: one record at most. -/
theorem unitRead_unitUse (node z l : Nat) (s : State) : UnitRead 1 z s (unitUse node z l s).2 := by
  have hlook := unitRead_stackLook z l (stackCode s z l) true s
  by_cases hlost : (decodeCode (stackCode s z l)).1 = .uncorr
  · have hbad : corrected (decodeCode (stackCode s z l)).1 = false := by rw [hlost]; rfl
    have hquiet : FaultsGrown 0 s (stackLook z l (stackCode s z l) true s) := faultsGrown_stackLook_of_bad hbad
    rw [unitUse_lost hlost]
    generalize stackLook z l (stackCode s z l) true s = t at *
    have hread : UnitRead 0 z s t := { hlook with faults := hquiet }
    exact ((hread.trans (unitRead_recordPart _ _ _ _ _ _ t)).trans (unitRead_addReread _ _ _)).trans (unitRead_hubRaise _ _)
  · rw [unitUse_found hlost]
    exact hlook

theorem unitRead_mergeUse (node z l : Nat) (s : State) : UnitRead 2 z s (mergeUse node z l s).2 := by
  simp only [mergeUse]
  split
  · exact (unitRead_unitUse _ _ _ _).trans (unitRead_recordPart _ _ _ _ _ _ _)
  · exact (unitRead_unitUse _ _ _ _).mono (by decide)

theorem unitRead_useWords (z l n : Nat) (s : State) : UnitRead n z s (useWords z l n s).2 := by
  unfold useWords
  induction n with
  | zero => exact .refl _ _ _
  | succ n ih =>
    rw [upTo_succ]
    exact ih.trans (unitRead_unitUse _ _ _ _)

/-- The words of a place whose first granule is bad are none. -/
theorem useWords_bad (hbad : isBad (stackCode s z l) = true) (n : Nat) : (useWords z l (n + 1) s).1 = none := by
  unfold useWords
  induction n with
  | zero => simp [upTo, unitUse_code, hbad]
  | succ n ih =>
    rw [upTo_succ, ih]

theorem useWords_one (hgood : isBad (stackCode s z l) = false) :
    (useWords z l 1 s).1 = some (granWords (goodData (stackCode s z l))) := by
  simp [useWords, upTo, unitUse_code, hgood]

/-! ### A group of 64 parameters (R529, R532, R533) -/

/-- The sums of a group. -/
def groupSums (z : Nat) (r : RedRec) (k gn : Nat) (s : State) : Option (List Word32) × State :=
  if r.expect = 0 then (some (List.replicate (8 * gn) 0), s) else useWords z (r.sums.toNat + 4 * (64 * k)) gn s

/-- Words that a kind of update does not use are 0. -/
def groupWords (used : Bool) (z l gn : Nat) (s : State) : Option (List Word32) × State :=
  if used then useWords z l gn s else (some (List.replicate (8 * gn) 0), s)

/-- What a group reads: sums, masters and moments, and the state behind the reads. -/
def groupRead (z : Nat) (r : RedRec) (d : BitVec 512) (w : UnitPlace) (k : Nat) (s : State) :
    Option (List Word32) × Option (List Word32) × Option (List Word32) × Option (List Word32) × State :=
  let gn := (min 64 (r.count.toNat - 64 * k) + 7) / 8
  let a := groupSums z r k gn s
  let t := useWords z (w.src + 4 * (64 * k)) gn a.2
  let m := groupWords (osKind d != 3) z (w.src + 0x1000 + 4 * (64 * k)) gn t.2
  let v := groupWords (osKind d == 0) z (w.src + 0x2000 + 4 * (64 * k)) gn m.2
  (a.1, t.1, m.1, v.1, v.2)

theorem unitRead_groupWords (used : Bool) (z l gn : Nat) (s : State) : UnitRead gn z s (groupWords used z l gn s).2 := by
  unfold groupWords
  split
  · exact unitRead_useWords _ _ _ _
  · exact .refl _ _ _

theorem unitRead_groupSums (z : Nat) (r : RedRec) (k gn : Nat) (s : State) : UnitRead gn z s (groupSums z r k gn s).2 := by
  unfold groupSums
  split
  · exact .refl _ _ _
  · exact unitRead_useWords _ _ _ _

theorem unitRead_groupRead (z : Nat) (r : RedRec) (d : BitVec 512) (w : UnitPlace) (k : Nat) (s : State) :
    UnitRead 32 z s (groupRead z r d w k s).2.2.2.2 := by
  have hgn : (min 64 (r.count.toNat - 64 * k) + 7) / 8 ≤ 8 := by omega
  exact ((((unitRead_groupSums z r k _ s).trans (unitRead_useWords z _ _ _)).trans (unitRead_groupWords _ z _ _ _)).trans
    (unitRead_groupWords _ z _ _ _)).mono (by omega)

/-- A group that has been read is updated and stored. -/
def groupStored (z : Nat) (r : RedRec) (d : BitVec 512) (w : UnitPlace) (k : Nat) (as ts ms vs : List Word32) (t : State) : State :=
  let p0 := 64 * k
  let n := min 64 (r.count.toNat - p0)
  let out := (List.range n).map fun i => optParam d (nth 0 as i) ⟨nth 0 ts i, nth 0 ms i, nth 0 vs i⟩
  let words (f : Param → Word32) : List Byte := out.flatMap fun q => toBytes 4 (f q.1).toNat
  let s1 := storeBytes z (w.dst + 4 * p0) (words (·.t)) t
  let s2 := if osKind d != 3 then storeBytes z (w.dst + 0x1000 + 4 * p0) (words (·.m)) s1 else s1
  let s3 := if osKind d == 0 then storeBytes z (w.dst + 0x2000 + 4 * p0) (words (·.v)) s2 else s2
  let s4 := storeBytes z (w.work + 2 * p0) (out.flatMap fun q => toBytes 2 (workOf d q.1.t)) s3
  countEv (blkBezel z) 0x0D n (modBezel z (fun b => { b with nonfinite := satInc b.nonfinite (countIf (fun q => q.2) out) }) s4)

theorem unitGroup_of_none {r : RedRec} {d : BitVec 512} {w : UnitPlace} {k : Nat} (h : (groupRead z r d w k s).1 = none) :
    unitGroup z r d w k s = (false, (groupRead z r d w k s).2.2.2.2) := by
  simp only [groupRead, groupSums] at h
  simp only [unitGroup, h]
  rfl

theorem unitGroup_of_some {r : RedRec} {d : BitVec 512} {w : UnitPlace} {k : Nat} {as ts ms vs : List Word32}
    (h : groupRead z r d w k s = (some as, some ts, some ms, some vs, t)) :
    unitGroup z r d w k s = (true, groupStored z r d w k as ts ms vs t) := by
  simp only [groupRead, Prod.mk.injEq] at h
  obtain ⟨ha, ht, hm, hv, hst⟩ := h
  simp only [groupSums, groupWords] at ha ht hm hv hst
  simp only [unitGroup, ha, ht, hm, hv, hst]
  rfl

/-- A group whose sums are lost changes nothing but what its reads do. -/
theorem unitGroup_lost {r : RedRec} {d : BitVec 512} {w : UnitPlace} (hexpect : r.expect ≠ 0) (hcount : 1 ≤ r.count.toNat)
    (hbad : isBad (stackCode s z r.sums.toNat) = true) :
    (unitGroup z r d w 0 s).1 = false ∧ UnitRead 32 z s (unitGroup z r d w 0 s).2 := by
  obtain ⟨gn, hgn⟩ : ∃ gn, (min 64 (r.count.toNat - 64 * 0) + 7) / 8 = gn + 1 :=
    ⟨(min 64 (r.count.toNat - 64 * 0) + 7) / 8 - 1, by omega⟩
  have hnone : (groupRead z r d w 0 s).1 = none := by
    simp only [groupRead, groupSums, if_neg hexpect, hgn]
    exact useWords_bad hbad gn
  rw [unitGroup_of_none hnone]
  exact ⟨rfl, unitRead_groupRead z r d w 0 s⟩

/-- Groups stop at the first that is lost. -/
theorem upTo_stopped {α : Type} {g : Nat → α → Bool × α} {a : α} (h : (g 0 a).1 = false) (n : Nat) :
    upTo (n + 1) (fun x k => if x.1 then g k x.2 else x) (true, a) = g 0 a := by
  induction n with
  | zero => rfl
  | succ n ih =>
    rw [upTo_succ, ih, h]
    rfl

/-! ### A whole record of the unit -/

/-- A record that the unit has taken. -/
def unitTaken (z ri : Nat) (s : State) : State :=
  modBezel z (fun b => { b with completed := b.completed.drop 1 }) (setRec z ri { recOf (bezelOf s z) ri with st := .updating } s)

/-- The groups of a record, up to one that is lost. -/
def unitGroups (z ri : Nat) (s : State) : Bool × State :=
  let b := bezelOf s z
  let r := recOf b ri
  upTo (segsUsed r) (fun a k => if a.1 then unitGroup z r (tblGet 0 b.optActive r.oset.toNat) (unitPlace b r) k a.2 else a)
    (true, unitTaken z ri s)

theorem unitRun_lost {ri : Nat} (h : (unitGroups z ri s).1 = false) : unitRun z ri s = breakRec z ri (unitGroups z ri s).2 := by
  rw [unitRun]
  exact if_pos (by rw [← unitTaken, ← unitGroups, h]; rfl)

end

end Sys2Proof.Proofs
end

section
/-! Proofs for chapter 15: what the fused update unit stores, and how its record ends. -/

namespace Sys2Proof.Proofs

open Sys2Proof Sys2Proof.Machine Sys2Proof.Laws

/-! ### Stores into a stack without redirects that does not retrain -/

/-- No frame of the bezel is redirected, and no channel retrains. -/
def PlainStack (b : Bezel) : Prop := b.redirect = [] ∧ b.retrainPhase = .idle

/-- A bezel whose records, order and redirects are as before. -/
def UnitKept (b b' : Bezel) : Prop :=
  b'.recs = b.recs ∧ b'.completed = b.completed ∧ b'.redirect = b.redirect ∧ b'.retrainPhase = b.retrainPhase

/-- The granule `g` of stack `z` holds `c`, and every other one, and every other bezel, is as before. -/
structure GranStored (z g : Nat) (c : Code) (s t : State) : Prop where
  here : codeAt t.mem (stackGran z g) = c
  elsewhere : ∀ g', g' ≠ stackGran z g → codeAt t.mem g' = codeAt s.mem g'
  others : OtherBezels z s t
  kept : UnitKept (bezelOf s z) (bezelOf t z)

section
variable {s t u : State} {n z l : Nat} {c : Code}

theorem unitKept_trans {b b' b'' : Bezel} (h : UnitKept b b') (g : UnitKept b' b'') : UnitKept b b'' := by
  obtain ⟨h1, h2, h3, h4⟩ := h
  obtain ⟨g1, g2, g3, g4⟩ := g
  exact ⟨g1.trans h1, g2.trans h2, g3.trans h3, g4.trans h4⟩

theorem PlainStack.kept {b b' : Bezel} (h : PlainStack b) (g : UnitKept b b') : PlainStack b' := by
  obtain ⟨hred, hidle⟩ := h
  obtain ⟨-, -, hred', hidle'⟩ := g
  exact ⟨hred'.trans hred, hidle'.trans hidle⟩

theorem BezelLooked.unitKept (h : BezelLooked z s t) : UnitKept (bezelOf s z) (bezelOf t z) :=
  ⟨(congrArg Bezel.recs h.bezel :), (congrArg Bezel.completed h.bezel :), h.redirect, h.phase⟩

theorem relieved_plain {b : Bezel} (h : PlainStack b) (l : Nat) : inRetrain b l = false ∧ relieved b l = false := by
  simp [inRetrain, relieved, h.2]

theorem redirected_plain {b : Bezel} (h : PlainStack b) (g : Nat) : redirected b g = g := by
  simp [redirected, h.1, tblGet]

theorem stackSrc_plain (h : PlainStack (bezelOf s z)) (l : Nat) : stackSrc s z l = stackGran z (l / 32) := by
  rw [stackSrc, (relieved_plain h l).2, redirected_plain h]
  rfl

theorem stackPut_plain (h : PlainStack (bezelOf s z)) (l : Nat) (c : Code) :
    stackPut z l c s = putCode s (stackGran z (l / 32)) c := by
  simp [stackPut, (relieved_plain h l).1, (relieved_plain h l).2, redirected_plain h]

theorem granStored_stackStore (h : PlainStack (bezelOf s z)) (l : Nat) (c : Code) :
    GranStored z (l / 32) (passOn c) s (stackStore z l c s) := by
  have hmem : (stackStore z l c s).mem = (putCode s (stackGran z (l / 32)) (passOn c)).mem := by
    rw [stackStore_mem, stackPut_plain h]
  have hbezel := bezelOf_stackStore z l c s
  exact ⟨by rw [hmem, codeAt_putCode_same], fun g' hne => by rw [hmem, codeAt_putCode_other hne], otherBezels_stackStore _ _ _ _,
    (congrArg Bezel.recs hbezel :), (congrArg Bezel.completed hbezel :), (congrArg Bezel.redirect hbezel :),
    (congrArg Bezel.retrainPhase hbezel :)⟩

/-- A store behind reads. -/
theorem GranStored.behind (h : UnitRead n z s t) {g : Nat} (hstore : GranStored z g c t u) : GranStored z g c s u :=
  ⟨hstore.here, fun g' hne => (hstore.elsewhere g' hne).trans (codeAt_congr h.same.cells g'),
    otherBezels_trans h.looked.others hstore.others, unitKept_trans h.looked.unitKept hstore.kept⟩

/-- A store, with values that are not finite counted behind it. -/
theorem GranStored.counted {g : Nat} (h : GranStored z g c s t) (blk code n k : Nat) :
    GranStored z g c s (countEv blk code n (modBezel z (fun b => { b with nonfinite := satInc b.nonfinite k }) t)) := by
  have hmem : (countEv blk code n (modBezel z (fun b => { b with nonfinite := satInc b.nonfinite k }) t)).mem = t.mem :=
    countEv_mem _ _ _ _
  have hbezels := countEv_bezels (modBezel z (fun b => { b with nonfinite := satInc b.nonfinite k }) t) blk code n
  refine ⟨by rw [hmem]; exact h.here, fun g' hne => by rw [hmem]; exact h.elsewhere g' hne,
    otherBezels_trans h.others (otherBezels_trans (otherBezels_modBezel _ _ _) (otherBezels_of_bezels hbezels)), ?_⟩
  rw [bezelOf_congr hbezels, bezelOf_modBezel]
  exact h.kept

theorem storeBytes_whole {bytes : List Byte} (hlen : bytes.length = 32) (z l : Nat) (s : State) :
    storeBytes z l bytes s = stackStore z l (encodeGran (granOf bytes)) s := by
  have htake : bytes.take 32 = bytes := List.take_of_length_le hlen.le
  simp [storeBytes, upTo, hlen, htake]

theorem granStored_storeBytes_whole (h : PlainStack (bezelOf s z)) {bytes : List Byte} (hlen : bytes.length = 32) (l : Nat) :
    GranStored z (l / 32) (passOn (encodeGran (granOf bytes))) s (storeBytes z l bytes s) := by
  rw [storeBytes_whole hlen]
  exact granStored_stackStore h l _

/-- Fewer bytes than a granule holds are merged with those that stand. -/
theorem granStored_storeBytes_part (h : PlainStack (bezelOf s z)) {bytes : List Byte} (hlen : bytes.length = 16) (l : Nat) :
    ∃ c, GranStored z (l / 32) c s (storeBytes z l bytes s) := by
  have hread := unitRead_mergeUse (nodeBezel z) z l s
  have hgo : storeBytes z l bytes s = stackStore z l (mergeWrite (mergeUse (nodeBezel z) z l s).1 (granOf bytes)
      (BitVec.ofNat 32 (2 ^ 16 - 1))).1 (mergeUse (nodeBezel z) z l s).2 := by
    have htake : bytes.take 32 = bytes := List.take_of_length_le (by omega)
    simp [storeBytes, upTo, hlen, htake]
  rw [hgo]
  exact ⟨_, .behind hread (granStored_stackStore (h.kept hread.looked.unitKept) l _)⟩

/-! ### The update of eight parameters -/

/-- A parameter's new value. -/
def newParam (d : BitVec 512) (sums masters : List Word32) (i : Nat) : Param × Bool :=
  optParam d (nth 0 sums i) ⟨nth 0 masters i, 0, 0⟩

theorem toBytes_length (n v : Nat) : (toBytes n v).length = n := by simp [toBytes]

theorem groupRead_sgd {r : RedRec} {d : BitVec 512} {w : UnitPlace} (hexpect : r.expect ≠ 0) (hcount : r.count = 8)
    (hkind : osKind d = 3) (hsums : isBad (stackCode s z r.sums.toNat) = false) (hsrc : isBad (stackCode s z w.src) = false) :
    groupRead z r d w 0 s = (some (granWords (goodData (stackCode s z r.sums.toNat))),
      some (granWords (goodData (stackCode s z w.src))), some (List.replicate 8 0), some (List.replicate 8 0),
      (useWords z w.src 1 (useWords z r.sums.toNat 1 s).2).2) := by
  have hread := unitRead_useWords z r.sums.toNat 1 s
  have hsrc' : isBad (stackCode (useWords z r.sums.toNat 1 s).2 z w.src) = false := by rw [hread.code]; exact hsrc
  have hgn : (min 64 (r.count.toNat - 64 * 0) + 7) / 8 = 1 := by
    rw [hcount]
    rfl
  have hm : (osKind d != 3) = false := by rw [hkind]; rfl
  have hv : (osKind d == 0) = false := by rw [hkind]; rfl
  simp only [groupRead, groupSums, groupWords, if_neg hexpect, hgn, hm, hv, Bool.false_eq_true, if_false, Nat.mul_zero, Nat.add_zero]
  rw [useWords_one hsums, useWords_one hsrc', hread.code]

/-- The new parameters of a group of eight stand in their granule, and the working copies in theirs. -/
theorem unitGroup_sgd {r : RedRec} {d : BitVec 512} {w : UnitPlace} (hplain : PlainStack (bezelOf s z)) (hexpect : r.expect ≠ 0)
    (hcount : r.count = 8) (hkind : osKind d = 3) (hsums : isBad (stackCode s z r.sums.toNat) = false)
    (hsrc : isBad (stackCode s z w.src) = false) :
    (unitGroup z r d w 0 s).1 = true ∧
      ∃ t c, GranStored z (w.dst / 32) (passOn (encodeGran (granOf ((List.range 8).flatMap fun i =>
        toBytes 4 (newParam d (granWords (goodData (stackCode s z r.sums.toNat)))
          (granWords (goodData (stackCode s z w.src))) i).1.t.toNat)))) s t ∧
      GranStored z (w.work / 32) c t (unitGroup z r d w 0 s).2 := by
  have hread : UnitRead (1 + 1) z s (useWords z w.src 1 (useWords z r.sums.toNat 1 s).2).2 :=
    (unitRead_useWords _ _ _ _).trans (unitRead_useWords _ _ _ _)
  have hzero (i : Nat) : nth (0 : Word32) (List.replicate 8 0) i = 0 := by
    simp only [nth, List.getD_eq_getElem?_getD, List.getElem?_replicate]
    split <;> rfl
  have hm : (osKind d != 3) = false := by rw [hkind]; rfl
  have hv : (osKind d == 0) = false := by rw [hkind]; rfl
  have hn : min 64 (r.count.toNat - 64 * 0) = 8 := by
    rw [hcount]
    rfl
  rw [unitGroup_of_some (groupRead_sgd hexpect hcount hkind hsums hsrc)]
  refine ⟨rfl, ?_⟩
  generalize (useWords z w.src 1 (useWords z r.sums.toNat 1 s).2).2 = u at *
  generalize granWords (goodData (stackCode s z r.sums.toNat)) = sums
  generalize granWords (goodData (stackCode s z w.src)) = masters
  have hplain' := hplain.kept hread.looked.unitKept
  have hdst := granStored_storeBytes_whole hplain' (bytes := (List.range 8).flatMap fun i =>
    toBytes 4 (newParam d sums masters i).1.t.toNat) (by simp [List.length_flatMap, toBytes_length]) w.dst
  obtain ⟨c, hwork⟩ := granStored_storeBytes_part (hplain'.kept hdst.kept) (bytes := (List.range 8).flatMap fun i =>
    toBytes 2 (workOf d (newParam d sums masters i).1.t)) (by simp [List.length_flatMap, toBytes_length]) w.work
  have hgo : groupStored z r d w 0 sums masters (List.replicate 8 0) (List.replicate 8 0) u = countEv (blkBezel z) 0x0D 8
      (modBezel z (fun b => { b with nonfinite := satInc b.nonfinite (countIf (fun q => q.2)
        ((List.range 8).map (newParam d sums masters))) })
        (storeBytes z w.work ((List.range 8).flatMap fun i => toBytes 2 (workOf d (newParam d sums masters i).1.t))
          (storeBytes z w.dst ((List.range 8).flatMap fun i => toBytes 4 (newParam d sums masters i).1.t.toNat) u))) := by
    simp only [groupStored, hn, hm, hv, hzero, List.flatMap_map, Bool.false_eq_true, if_false, Nat.mul_zero, Nat.add_zero]
    rfl
  rw [hgo]
  refine ⟨_, c, hdst.behind hread, ?_⟩
  dsimp only
  exact hwork.counted _ _ _ _

end

end Sys2Proof.Proofs
end

section
/-! Proofs for chapters 15 and 16: the fused update, its fan-out, and the commit. -/

namespace Sys2Proof.Proofs

open Sys2Proof Sys2Proof.Machine Sys2Proof.Laws

/-! ### A record that the unit has taken -/

section
variable {s t : State} {z ri : Nat}

theorem bezelOf_unitTaken (z ri : Nat) (s : State) : bezelOf (unitTaken z ri s) z = { bezelOf s z with
    completed := (bezelOf s z).completed.drop 1
    recs := tblSet {} (bezelOf s z).recs ri { recOf (bezelOf s z) ri with st := .updating } } := by
  rw [unitTaken, bezelOf_modBezel, setRec, bezelOf_modBezel]

theorem otherBezels_unitTaken (z ri : Nat) (s : State) : OtherBezels z s (unitTaken z ri s) :=
  otherBezels_trans (otherBezels_modBezel _ _ _) (otherBezels_modBezel _ _ _)

theorem stackCode_unitTaken (z ri l : Nat) (s : State) : stackCode (unitTaken z ri s) z l = stackCode s z l := by
  have hbezel := bezelOf_unitTaken z ri s
  have hsrc : stackSrc (unitTaken z ri s) z l = stackSrc s z l :=
    stackSrc_congr (congrArg Bezel.redirect hbezel :) (congrArg Bezel.retrainPhase hbezel :) (congrArg Bezel.retrainCh hbezel :) l
  rw [stackCode, hsrc]
  rfl

/-- Sums that are lost break the record (R533, R546). -/
theorem unitRun_bad (hup : s.standby.mainUp = true) (hz : z < 16) (hexpect : (recOf (bezelOf s z) ri).expect ≠ 0)
    (hcount : 1 ≤ (recOf (bezelOf s z) ri).count.toNat)
    (hbad : isBad (stackCode s z (recOf (bezelOf s z) ri).sums.toNat) = true) (hroom : s.faults.waiting.length + 32 < 256) :
    (recOf (bezelOf (unitRun z ri s) z) ri).st = .broken ∧ Recorded 0x13 (blkBezel z) s (unitRun z ri s) ∧
      Raised 0 (80 + z) s (unitRun z ri s) := by
  obtain ⟨n, hn⟩ : ∃ n, segsUsed (recOf (bezelOf s z) ri) = n + 1 := ⟨segsUsed (recOf (bezelOf s z) ri) - 1, by unfold segsUsed; omega⟩
  rw [← stackCode_unitTaken z ri] at hbad
  obtain ⟨hlost, hread⟩ := unitGroup_lost (d := tblGet 0 (bezelOf s z).optActive (recOf (bezelOf s z) ri).oset.toNat)
    (w := unitPlace (bezelOf s z) (recOf (bezelOf s z) ri)) hexpect hcount hbad
  have hgroups : unitGroups z ri s = unitGroup z (recOf (bezelOf s z) ri)
      (tblGet 0 (bezelOf s z).optActive (recOf (bezelOf s z) ri).oset.toNat)
      (unitPlace (bezelOf s z) (recOf (bezelOf s z) ri)) 0 (unitTaken z ri s) := by
    simp only [unitGroups, hn]
    exact upTo_stopped (g := unitGroup z (recOf (bezelOf s z) ri) _ _) hlost n
  rw [← hgroups] at hlost hread
  rw [unitRun_lost hlost]
  have hfaults : FaultsGrown 0 s (unitTaken z ri s) := .of_same rfl rfl
  have hhub : HubGrown s (unitTaken z ri s) := .of_same rfl rfl
  exact ⟨st_breakRec _ _ _, recorded_breakRec (hfaults.trans hread.faults) (by omega) _ _,
    raised_breakRec hup (hhub.trans hread.hub) hz _⟩

theorem unitRun_alone (hdone : (unitGroups z ri s).1 = true)
    (hfan : fanTargets (unitGroups z ri s).2 (tblGet {} (bezelOf s z).gens (recOf (bezelOf s z) ri).region.toNat) = []) :
    unitRun z ri s = modRec z ri (fun v => { v with st := .updated }) (unitGroups z ri s).2 := by
  have hgo : (!(unitGroups z ri s).1) = false := by rw [hdone]; rfl
  simp only [unitGroups, unitTaken] at hgo hfan
  simp only [unitRun, hgo, hfan, Bool.false_eq_true, if_false]
  rfl

theorem fanTargets_congr (h : t.chain = s.chain) (e : GenEnt) : fanTargets t e = fanTargets s e := by simp [fanTargets, h]

/-- R529: a record of eight parameters that is updated by the gradient alone. -/
theorem unitRun_sgd {d : BitVec 512} {w : UnitPlace} (hd : tblGet 0 (bezelOf s z).optActive (recOf (bezelOf s z) ri).oset.toNat = d)
    (hw : unitPlace (bezelOf s z) (recOf (bezelOf s z) ri) = w) (hplain : PlainStack (bezelOf s z))
    (hexpect : (recOf (bezelOf s z) ri).expect ≠ 0) (hcount : (recOf (bezelOf s z) ri).count = 8) (hkind : osKind d = 3)
    (hfan : fanTargets s (tblGet {} (bezelOf s z).gens (recOf (bezelOf s z) ri).region.toNat) = [])
    (hne : w.dst / 32 ≠ w.work / 32) (hsums : isBad (stackCode s z (recOf (bezelOf s z) ri).sums.toNat) = false)
    (hsrc : isBad (stackCode s z w.src) = false) :
    OtherBezels z s (unitRun z ri s) ∧
      recOf (bezelOf (unitRun z ri s) z) ri = { recOf (bezelOf s z) ri with st := .updated } ∧
      (bezelOf (unitRun z ri s) z).completed = (bezelOf s z).completed.drop 1 ∧
      stackCode (unitRun z ri s) z w.dst = passOn (encodeGran (granOf ((List.range 8).flatMap fun i =>
        toBytes 4 (newParam d (granWords (goodData (stackCode s z (recOf (bezelOf s z) ri).sums.toNat)))
          (granWords (goodData (stackCode s z w.src))) i).1.t.toNat))) ∧
      ∀ g, g ≠ stackGran z (w.dst / 32) → g ≠ stackGran z (w.work / 32) →
        codeAt (unitRun z ri s).mem g = codeAt s.mem g := by
  have hbezel := bezelOf_unitTaken z ri s
  have hplain' : PlainStack (bezelOf (unitTaken z ri s) z) := by
    rw [hbezel]
    exact hplain
  rw [← stackCode_unitTaken z ri] at hsums hsrc
  obtain ⟨hdone, t, c, hdst, hwork⟩ := unitGroup_sgd hplain' hexpect hcount hkind hsums hsrc
  have hgroups : unitGroups z ri s = unitGroup z (recOf (bezelOf s z) ri) d w 0 (unitTaken z ri s) := by
    have hone : segsUsed (recOf (bezelOf s z) ri) = 1 := by
      rw [segsUsed, hcount]
      rfl
    simp only [unitGroups, hone, hd, hw]
    rfl
  rw [← hgroups] at hdone hwork
  rw [stackCode_unitTaken, stackCode_unitTaken] at hdst
  have hchain : (unitGroups z ri s).2.chain = s.chain := by
    rw [hgroups]
    exact (chain_same (s := unitTaken z ri s) (keeps_unitGroup z _ d w 0 (.refl _ _) (sub_refl _)) (by decide)).trans rfl
  have hrun := unitRun_alone hdone ((fanTargets_congr hchain _).trans hfan)
  obtain ⟨hrecs, hcompleted, -, -⟩ := unitKept_trans hdst.kept hwork.kept
  have hplainGroups : PlainStack (bezelOf (unitGroups z ri s).2 z) := (hplain'.kept hdst.kept).kept hwork.kept
  have hplainEnd : PlainStack (bezelOf (unitRun z ri s) z) := by
    rw [hrun, modRec, setRec, bezelOf_modBezel]
    exact hplainGroups
  have hmem : (unitRun z ri s).mem = (unitGroups z ri s).2.mem := by
    rw [hrun]
    rfl
  have hgran : stackGran z (w.dst / 32) ≠ stackGran z (w.work / 32) := by
    unfold stackGran
    omega
  refine ⟨?_, ?_, ?_, ?_, fun g hg hg' => ?_⟩
  · rw [hrun]
    exact otherBezels_trans (otherBezels_unitTaken z ri s) (otherBezels_trans hdst.others
      (otherBezels_trans hwork.others (otherBezels_modRec _ _ _ _)))
  · rw [hrun, recOf_modRec, recOf, hrecs, hbezel, tblGet_tblSet_same]
  · rw [hrun, modRec, setRec, bezelOf_modBezel]
    exact hcompleted.trans (by rw [hbezel])
  · rw [stackCode, stackSrc_plain hplainEnd, hmem, hwork.elsewhere _ hgran, hdst.here]
  · rw [hmem, hwork.elsewhere _ hg', hdst.elsewhere _ hg]
    rfl

/-! ### Lines that the host holds are invalidated (R563) -/

theorem snoop_new {z ln : Nat} (h : ((bezelOf s z).snoops.any fun p => p.1 == ln) = false) :
    (snoop z ln s).out = s.out ++ [.biSnoop z ln] ∧
      bezelOf (snoop z ln s) z = { bezelOf s z with snoops := (bezelOf s z).snoops ++ [(ln, absCk s)] } := by
  have hgo : snoop z ln s = emit (.biSnoop z ln) (countEv (blkBezel z) 0x09 1
      (modBezel z (fun b => { b with snoops := b.snoops ++ [(ln, absCk s)] }) s)) := by
    rw [snoop, h]
    rfl
  rw [hgo, emit_out, countEv_out]
  refine ⟨rfl, ?_⟩
  rw [bezelOf_congr ((emit_bezels _ _).trans (countEv_bezels _ _ _ _)), bezelOf_modBezel]

theorem snoop_out_already {z ln : Nat} (h : ((bezelOf s z).snoops.any fun p => p.1 == ln) = true) : snoop z ln s = s := by
  rw [snoop, if_pos h]

/-- A request more at most, and the line's own for certain. -/
theorem snoop_bezel (z ln : Nat) (s : State) : OtherBezels z s (snoop z ln s) ∧
    ∃ l, bezelOf (snoop z ln s) z = { bezelOf s z with snoops := (bezelOf s z).snoops ++ l } ∧
      ((bezelOf (snoop z ln s) z).snoops.any fun p => p.1 == ln) = true := by
  by_cases h : ((bezelOf s z).snoops.any fun p => p.1 == ln) = true
  · rw [snoop_out_already h]
    exact ⟨otherBezels_refl _ _, [], by rw [List.append_nil], h⟩
  · have hnew := (snoop_new (Bool.eq_false_iff.2 h)).2
    refine ⟨?_, _, hnew, by rw [hnew]; simp⟩
    unfold snoop
    rw [if_neg h]
    exact otherBezels_trans (otherBezels_modBezel _ _ _)
      (otherBezels_of_bezels ((emit_bezels _ _).trans (countEv_bezels _ _ _ _)))

theorem snoopAll_bezel (z : Nat) (lines : List Nat) (s : State) :
    OtherBezels z s (lines.foldl (fun t l => snoop z l t) s) ∧
    ∃ l, bezelOf (lines.foldl (fun t l => snoop z l t) s) z = { bezelOf s z with snoops := (bezelOf s z).snoops ++ l } ∧
      ∀ ln ∈ lines, ∃ p ∈ (bezelOf (lines.foldl (fun t l => snoop z l t) s) z).snoops, p.1 = ln := by
  induction lines generalizing s with
  | nil => exact ⟨otherBezels_refl _ _, [], by rw [List.append_nil]; rfl, fun _ h => absurd h List.not_mem_nil⟩
  | cons a lines ih =>
    obtain ⟨hother, l, hl, hhere⟩ := snoop_bezel z a s
    obtain ⟨hother', l', hl', hall⟩ := ih (snoop z a s)
    rw [List.foldl_cons]
    refine ⟨otherBezels_trans hother hother', l ++ l', ?_, fun ln hln => ?_⟩
    · rw [hl', hl, List.append_assoc]
    · rcases List.mem_cons.1 hln with rfl | hmem
      · rw [List.any_eq_true] at hhere
        obtain ⟨p, hp, heq⟩ := hhere
        exact ⟨p, by rw [hl']; exact List.mem_append_left _ hp, by simpa using heq⟩
      · exact hall ln hmem

theorem snoopAll_out {z : Nat} {lines : List Nat} (hnodup : lines.Nodup) (s : State) :
    (lines.foldl (fun t l => snoop z l t) s).out = s.out ++
      (lines.filter fun ln => !(bezelOf s z).snoops.any fun p => p.1 == ln).map (OutMsg.biSnoop z) := by
  induction lines generalizing s with
  | nil => simp
  | cons a lines ih =>
    obtain ⟨hfresh, hnodup'⟩ := List.nodup_cons.1 hnodup
    rw [List.foldl_cons, ih hnodup']
    by_cases h : ((bezelOf s z).snoops.any fun p => p.1 == a) = true
    · rw [snoop_out_already h, List.filter_cons_of_neg (by simp [h])]
    · have h' := Bool.eq_false_iff.2 h
      obtain ⟨hout, hbezel⟩ := snoop_new h'
      have hsame : (lines.filter fun ln => !(bezelOf (snoop z a s) z).snoops.any fun p => p.1 == ln) =
          lines.filter fun ln => !(bezelOf s z).snoops.any fun p => p.1 == ln := by
        refine List.filter_congr fun ln hln => ?_
        have hne : (a == ln) = false := beq_false_of_ne fun heq => hfresh (heq ▸ hln)
        rw [hbezel]
        simp [hne]
      rw [hout, hsame, List.filter_cons_of_pos (by simp [h']), List.append_assoc]
      rfl

end

end Sys2Proof.Proofs
end

section
/-! Proofs for chapters 15 and 16: the clauses of the update unit, the fan-out and the commit. -/

namespace Sys2Proof.Proofs

open Sys2Proof Sys2Proof.Machine Sys2Proof.Laws

section
variable {s : State} {b : BezelN} {ri : Nat} (hup : s.standby.mainUp = true)
include hup

/-! ### The fused update (R528 to R535, R563) -/

section
variable (hnext : unitNext (bezelOf s b.val) = some ri)
include hnext

/-- The state in which the unit has its lines invalidated. -/
def unitHolds (z ri : Nat) (s : State) : State :=
  modBezel z (fun b => { b with unitHeld := if b.unitHeld = 0 then absCk s + 1 else b.unitHeld })
    (modRec z ri (fun v => { v with st := .updating }) s)

theorem fusedUpdate_invalidates (hheld : heldLines (bezelOf s b.val) (unitTouches (bezelOf s b.val) ri) ≠ []) :
    Completes (.fusedUpdate b) s fun t => t.mem = s.mem ∧ OtherBezels b.val s t ∧
      ((heldLines (bezelOf s b.val) (unitTouches (bezelOf s b.val) ri)).Nodup → t.out = s.out ++
        ((heldLines (bezelOf s b.val) (unitTouches (bezelOf s b.val) ri)).filter fun ln =>
          !(bezelOf s b.val).snoops.any fun p => p.1 == ln).map (OutMsg.biSnoop b.val)) ∧
      (∀ ln ∈ heldLines (bezelOf s b.val) (unitTouches (bezelOf s b.val) ri),
        ∃ p ∈ (bezelOf t b.val).snoops, p.1 = ln) ∧
      recOf (bezelOf t b.val) ri = { recOf (bezelOf s b.val) ri with st := .updating } ∧
      (bezelOf t b.val).completed = (bezelOf s b.val).completed := by
  generalize hlines : heldLines (bezelOf s b.val) (unitTouches (bezelOf s b.val) ri) = lines at *
  have hexec : exec (.fusedUpdate b) s = .next (lines.foldl (fun t l => snoop b.val l t) (unitHolds b.val ri s)) := by
    change execFusedUpdate b s = _
    simp only [execFusedUpdate, hnext, hlines, if_neg hheld]
    exact whenOk_of s hup _
  have hbezel : bezelOf (unitHolds b.val ri s) b.val = { bezelOf s b.val with
      unitHeld := if (bezelOf s b.val).unitHeld = 0 then absCk s + 1 else (bezelOf s b.val).unitHeld
      recs := tblSet {} (bezelOf s b.val).recs ri { recOf (bezelOf s b.val) ri with st := .updating } } := by
    rw [unitHolds, bezelOf_modBezel, modRec, setRec, bezelOf_modBezel]
  have hrec : recOf (bezelOf (unitHolds b.val ri s) b.val) ri = { recOf (bezelOf s b.val) ri with st := .updating } := by
    rw [unitHolds, bezelOf_modBezel]
    exact recOf_modRec _ _ _ s
  have hothers : OtherBezels b.val s (unitHolds b.val ri s) :=
    otherBezels_trans (otherBezels_modRec _ _ _ _) (otherBezels_modBezel _ _ _)
  obtain ⟨hother, l, hl, hall⟩ := snoopAll_bezel b.val lines (unitHolds b.val ri s)
  have hkeep := Keeps.foldl (ps := [.bezels, .asy, .out]) lines (.refl _ (unitHolds b.val ri s))
    fun t ln h => keeps_snoop b.val ln h (by decide)
  refine completes_of_exec hexec ⟨(mem_same hkeep (by decide)).trans rfl, otherBezels_trans hothers hother, fun hnodup => ?_, hall,
    ?_, ?_⟩
  · rw [snoopAll_out hnodup, hbezel]
    rfl
  · rw [hl]
    exact hrec
  · rw [hl, hbezel]

section
variable (hheld : heldLines (bezelOf s b.val) (unitTouches (bezelOf s b.val) ri) = [])
  (hfans : (bezelOf s b.val).fans.length + 16 ≤ 1024)
include hheld hfans

/-- The unit has all that it needs. -/
def unitFree (z : Nat) (s : State) : State := modBezel z (fun b => { b with unitHeld := 0 }) s

theorem exec_fusedUpdate : exec (.fusedUpdate b) s = .next (unitRun b.val ri (unitFree b.val s)) := by
  change execFusedUpdate b s = _
  simp only [execFusedUpdate, hnext, hheld, if_true]
  exact whenOk_of s (by rw [mainUp, hup, decide_eq_true hfans]; rfl) _

omit hup hnext hheld hfans in
theorem bezelOf_unitFree (z : Nat) (s : State) : bezelOf (unitFree z s) z = { bezelOf s z with unitHeld := 0 } :=
  bezelOf_modBezel _ _ _

omit hup hnext hheld hfans in
theorem stackCode_unitFree (z l : Nat) (s : State) : stackCode (unitFree z s) z l = stackCode s z l := by
  have hbezel := bezelOf_unitFree z s
  have hsrc : stackSrc (unitFree z s) z l = stackSrc s z l :=
    stackSrc_congr (congrArg Bezel.redirect hbezel :) (congrArg Bezel.retrainPhase hbezel :) (congrArg Bezel.retrainCh hbezel :) l
  rw [stackCode, hsrc]
  rfl

theorem fusedUpdate_breaks (hexpect : (recOf (bezelOf s b.val) ri).expect ≠ 0)
    (hcount : 1 ≤ (recOf (bezelOf s b.val) ri).count.toNat)
    (hbad : isBad (stackCode s b.val (recOf (bezelOf s b.val) ri).sums.toNat) = true)
    (hroom : s.faults.waiting.length + 32 < 256) :
    Completes (.fusedUpdate b) s fun t => (recOf (bezelOf t b.val) ri).st = .broken ∧
      Recorded 0x13 (blkBezel b.val) s t ∧ Raised 0 (80 + b.val) s t := by
  have hrun := unitRun_bad (s := unitFree b.val s) (z := b.val) (ri := ri) hup b.isLt
  rw [stackCode_unitFree, bezelOf_unitFree] at hrun
  exact completes_of_exec (exec_fusedUpdate hup hnext hheld hfans) (hrun hexpect hcount hbad hroom)

theorem fusedUpdate_updates (hexpect : (recOf (bezelOf s b.val) ri).expect ≠ 0)
    (hcount : (recOf (bezelOf s b.val) ri).count = 8)
    (hkind : osKind (tblGet 0 (bezelOf s b.val).optActive (recOf (bezelOf s b.val) ri).oset.toNat) = 3)
    (hfan : fanTargets s (tblGet {} (bezelOf s b.val).gens (recOf (bezelOf s b.val) ri).region.toNat) = [])
    (hplain : PlainStack (bezelOf s b.val))
    (hne : (unitPlace (bezelOf s b.val) (recOf (bezelOf s b.val) ri)).dst / 32 ≠
      (unitPlace (bezelOf s b.val) (recOf (bezelOf s b.val) ri)).work / 32)
    (hsums : isBad (stackCode s b.val (recOf (bezelOf s b.val) ri).sums.toNat) = false)
    (hsrc : isBad (stackCode s b.val (unitPlace (bezelOf s b.val) (recOf (bezelOf s b.val) ri)).src) = false) :
    Completes (.fusedUpdate b) s fun t => OtherBezels b.val s t ∧
      recOf (bezelOf t b.val) ri = { recOf (bezelOf s b.val) ri with st := .updated } ∧
      (bezelOf t b.val).completed = (bezelOf s b.val).completed.drop 1 ∧
      stackCode t b.val (unitPlace (bezelOf s b.val) (recOf (bezelOf s b.val) ri)).dst =
        passOn (encodeGran (granOf ((List.range 8).flatMap fun i => toBytes 4 (newParam
          (tblGet 0 (bezelOf s b.val).optActive (recOf (bezelOf s b.val) ri).oset.toNat)
          (granWords (goodData (stackCode s b.val (recOf (bezelOf s b.val) ri).sums.toNat)))
          (granWords (goodData (stackCode s b.val (unitPlace (bezelOf s b.val) (recOf (bezelOf s b.val) ri)).src)))
          i).1.t.toNat))) ∧
      ∀ g, g ≠ stackGran b.val ((unitPlace (bezelOf s b.val) (recOf (bezelOf s b.val) ri)).dst / 32) →
        g ≠ stackGran b.val ((unitPlace (bezelOf s b.val) (recOf (bezelOf s b.val) ri)).work / 32) →
        codeAt t.mem g = codeAt s.mem g := by
  have hother : OtherBezels b.val s (unitFree b.val s) := otherBezels_modBezel _ _ _
  have hrun := unitRun_sgd (s := unitFree b.val s) (z := b.val) (ri := ri)
    (d := tblGet 0 (bezelOf s b.val).optActive (recOf (bezelOf s b.val) ri).oset.toNat)
    (w := unitPlace (bezelOf s b.val) (recOf (bezelOf s b.val) ri))
  rw [stackCode_unitFree, stackCode_unitFree, bezelOf_unitFree] at hrun
  obtain ⟨hothers, h⟩ := hrun rfl rfl hplain hexpect hcount hkind hfan hne hsums hsrc
  exact completes_of_exec (exec_fusedUpdate hup hnext hheld hfans) ⟨otherBezels_trans hother hothers, h⟩

end

end

/-! ### The fan-out (R534, R535) -/

theorem fanoutSignal_sends {ri : Fin 65536} {n : PortN} {p : Nat} {f : Fan} (hport : portTo s n.val = some p)
    (hdue : (bezelOf s b.val).fans.find? (fanDue ri.val n.val) = some f) :
    Completes (.fanoutSignal b ri n) s fun t => OtherBezels b.val s t ∧
      tblGet [] t.fabric.inj (nodeBezel b.val * 16 + 3) = tblGet [] s.fabric.inj (nodeBezel b.val * 16 + 3) ++ [{ msg0 with
        dst := node (nodePort p), src := node (nodeBezel b.val), op := opSignal, module := BitVec.ofNat 4 n.val
        tag := BitVec.ofNat 10 f.tag
        aux0 := fanWord n.val (tblGet ({} : GenEnt) (bezelOf s b.val).gens (recOf (bezelOf s b.val) ri.val).region.toNat).fanclasp
        aux1 := 1, stream := 3 }] ∧
      bezelOf t b.val = { bezelOf s b.val with
        fans := modFirst (fanDue ri.val n.val) (fun g => { g with sent := true }) (bezelOf s b.val).fans } := by
  have hexec : exec (.fanoutSignal b ri n) s = .next (fanSignal b.val ri.val n.val f s) := by
    change execFanoutSignal b ri n s = _
    simp only [execFanoutSignal, hdue]
    exact whenOk_of s hup _
  have hnode : (node (nodeBezel b.val)).val = nodeBezel b.val :=
    Nat.mod_eq_of_lt (by unfold nodeBezel; have := b.isLt; omega)
  refine completes_of_exec hexec ?_
  simp only [fanSignal, hport]
  generalize hm : ({ msg0 with
    dst := node (nodePort p), src := node (nodeBezel b.val), op := opSignal, module := BitVec.ofNat 4 n.val
    tag := BitVec.ofNat 10 f.tag
    aux0 := fanWord n.val (tblGet ({} : GenEnt) (bezelOf s b.val).gens (recOf (bezelOf s b.val) ri.val).region.toNat).fanclasp
    aux1 := 1, stream := 3 } : Msg) = m
  have hkey : m.src.val * 16 + m.stream.val = nodeBezel b.val * 16 + 3 := by
    rw [← hm]
    exact congrArg (· * 16 + 3) hnode
  generalize hu : modBezel b.val (fun b => { b with
    fans := modFirst (fanDue ri.val n.val) (fun g => { g with sent := true }) b.fans }) s = u
  have hinj := sendMsg_inj m u
  rw [hkey] at hinj
  have hbezels : (sendMsg m u).bezels = u.bezels := rfl
  refine ⟨?_, hinj.trans (by rw [← hu]; rfl), ?_⟩
  · rw [← hu] at hbezels
    rw [← hu]
    exact otherBezels_trans (otherBezels_modBezel b.val _ s) (otherBezels_of_bezels hbezels)
  · rw [bezelOf_congr hbezels, ← hu, bezelOf_modBezel]

omit hup in
/-- The bezel has injected the last signal but for others of its record. -/
theorem fanInjected_eq {z : Nat} {m : Msg} {f : Fan}
    (hfind : ((bezelOf s z).fans.find? fun f => f.sent && f.tag == m.tag.toNat) = some f) (hlive : f.dead = false) :
    fanInjected z m s =
      if (dropFirst (fun g => g == f) (bezelOf s z).fans).any (fun g => g.record == f.record && !g.dead) = true then
        modBezel z (fun b => { b with fans := dropFirst (fun g => g == f) b.fans }) s
      else modRec z f.record (fun v => { v with st := .updated })
        (modBezel z (fun b => { b with fans := dropFirst (fun g => g == f) b.fans }) s) := by
  simp only [fanInjected, hfind, hlive, bezelOf_modBezel, Bool.false_eq_true, false_or]

theorem injection_ends {n : NodeN} {m : Msg} {rest : List Msg} (hkind : nodeKind s n.val = .bezel b.val)
    (hhalf : halfIn s n.val 3 = none) (hinj : tblGet [] s.fabric.inj (n.val * 16 + 3) = m :: rest)
    (hok : (injectOk s n.val 3 m).isSome = true) (hop : m.op = opSignal)
    {Q : State → Prop}
    (hq : ∀ t u, t.bezels = (fanInjected b.val m u).bezels → u.bezels = s.bezels → Q t) :
    Completes (.endpointInjection n 3) s Q := by
  obtain ⟨u, hu⟩ := Option.isSome_iff_exists.1 hok
  have hkeep : Keeps [.fabric] s u := by
    have h := keeps_injectOk n.val 3 m (.refl [.fabric] s) (by decide)
    rw [hu] at h
    exact h u rfl
  refine completes_of_exec (exec_injection_head hup (by rw [hkind]; simp) hhalf hinj hu) ?_
  rw [headInjected]
  have hnutas : u.nutas = s.nutas := nutas_same hkeep (by decide)
  have hstandby : u.standby = s.standby := standby_same hkeep (by decide)
  have hbezels : u.bezels = s.bezels := bezels_same hkeep (by decide)
  generalize hv : ({ u with fabric := { u.fabric with inj := tblSet [] u.fabric.inj (n.val * 16 + (3 : Fin 16).val) rest } } : State) = v
  have hkind' : nodeKind v n.val = .bezel b.val := by
    rw [nodeKind_congr (s := s) (by rw [← hv]; exact hnutas) (by rw [← hv]; exact hstandby), hkind]
  refine hq _ v ?_ (by rw [← hv]; exact hbezels)
  simp only [injectMsg, hkind', hop, if_true]
  exact bezels_same (keeps_pushFlight _ _ (.refl _ _) (sub_refl _)) (by decide)

/-! ### The commit (R543) -/

theorem commitArm_arms (hwait : s.commit.waiting = true) (hready : commitReady s = true) :
    Completes .commitArm s fun t => claspCount t (131072 + s.commit.clasp.toNat) =
        claspCount s (131072 + s.commit.clasp.toNat) - s.commit.count.toNat ∧
      (∀ k', k' ≠ 131072 + s.commit.clasp.toNat → claspCount t k' = claspCount s k') ∧
      t.commit = { s.commit with waiting := false, armed := true, due := armDue s } := by
  have hlt := claspCount_lt s (131072 + s.commit.clasp.toNat)
  refine completes_of_exec (whenOk_of s (by rw [mainUp, hup, hwait, hready]; rfl) _) ⟨?_, fun k' hne => ?_, rfl⟩
  · exact (claspCount_setClasp _ _ _).trans (Nat.mod_eq_of_lt (by omega))
  · exact claspCount_setClasp_other _ _ hne

end

/-- Settles O48: unit by unit. -/
theorem reductionUnitsRun : Obligations.ReductionUnitsRun := by
  unfold Obligations.ReductionUnitsRun
  intro s b hup
  refine ⟨fun _ _ _ _ _ _ _ hin hnew => sampledGranuleCopy_enters hup hin hnew,
    fun _ _ _ _ _ _ _ _ hin hold hskip => sampledGranuleCopy_joins hup hin hold hskip,
    fun _ _ _ _ _ _ _ hin hold hskip => ⟨fun hall => sampledCheckCompare_matches hup hin hold hskip hall,
      fun hmiss hroom => sampledCheckCompare_misses hup hin hold hskip hmiss hroom⟩,
    fun ri hnext => ⟨fun hheld _ => fusedUpdate_invalidates hup hnext hheld, fun hheld hfans hexpect =>
      ⟨fun hcount hbad hroom => fusedUpdate_breaks hup hnext hheld hfans hexpect hcount hbad hroom,
        fun _ hcount hkind hfan hred hidle hne hsums hsrc =>
          fusedUpdate_updates hup hnext hheld hfans hexpect hcount hkind hfan ⟨hred, hidle⟩ hne hsums hsrc⟩⟩,
    fun _ _ _ _ hport hdue => fanoutSignal_sends hup hport hdue,
    fun n m rest f hkind hhalf hinj hok hop hfind hlive => ⟨fun hmore => ?_, fun hlast => ?_⟩,
    fun hwait hready => commitArm_arms hup hwait hready⟩
  · refine injection_ends hup hkind hhalf hinj hok hop fun t u ht hu => ?_
    have hb := bezelOf_congr hu b.val
    rw [fanInjected_eq (by rw [hb]; exact hfind) hlive, hb, if_pos hmore] at ht
    exact ⟨otherBezels_trans (otherBezels_of_bezels hu) (otherBezels_trans (otherBezels_modBezel _ _ _)
      (otherBezels_of_bezels ht)), by rw [bezelOf_congr ht, bezelOf_modBezel, hb]⟩
  · refine injection_ends hup hkind hhalf hinj hok hop fun t u ht hu => ?_
    have hb := bezelOf_congr hu b.val
    rw [fanInjected_eq (by rw [hb]; exact hfind) hlive, hb, if_neg (by rw [hlast]; decide)] at ht
    refine ⟨otherBezels_trans (otherBezels_of_bezels hu) (otherBezels_trans (otherBezels_modBezel _ _ _)
      (otherBezels_trans (otherBezels_modRec _ _ _ _) (otherBezels_of_bezels ht))), ?_, ?_, fun k hk => ?_⟩
    · rw [bezelOf_congr ht, modRec, setRec, bezelOf_modBezel, bezelOf_modBezel, hb]
    · rw [bezelOf_congr ht, recOf_modRec, bezelOf_modBezel, hb]
      rfl
    · rw [bezelOf_congr ht, recOf_modRec_other hk, bezelOf_modBezel, hb]
      rfl

end Sys2Proof.Proofs
end

section
/-! Facts for chapters 17, 20 and 21: what a write of Nutas or of the dump engine leaves of the ledger, the counters and the hub. -/

namespace Sys2Proof.Proofs

open Sys2Proof Sys2Proof.Machine Sys2Proof.Laws

/-- Stores into the stacks, with all that they count, record, raise and send: of the ledger the present record alone differs, of the
assayer the counters alone, the hub's events only grow, and what has left the module has left it. -/
structure WriteFrame (s t : State) : Prop where
  ledger : t.ledger = { s.ledger with cur := t.ledger.cur }
  asy : t.asy = { s.asy with vals := t.asy.vals }
  hub : HubGrown s t
  out : ∀ o ∈ s.out, o ∈ t.out

section
variable {s t u : State}

theorem WriteFrame.of_same (hledger : t.ledger = s.ledger) (hasy : t.asy = s.asy) (hhub : HubGrown s t) (hout : t.out = s.out) :
    WriteFrame s t :=
  ⟨by rw [hledger], by rw [hasy], hhub, fun o ho => by rwa [hout]⟩

theorem WriteFrame.refl (s : State) : WriteFrame s s := .of_same rfl rfl (.of_same rfl rfl) rfl

theorem WriteFrame.trans (h : WriteFrame s t) (g : WriteFrame t u) : WriteFrame s u := by
  obtain ⟨hledger, hasy, hhub, hout⟩ := h
  obtain ⟨gledger, gasy, ghub, gout⟩ := g
  refine ⟨?_, ?_, hhub.trans ghub, fun o ho => gout o (hout o ho)⟩
  · rw [hledger] at gledger
    exact gledger
  · rw [hasy] at gasy
    exact gasy

/-- An operation that touches memory, bezels, the fabric or the faults alone. -/
theorem WriteFrame.of_keeps {ps : List Part} (h : Keeps ps s t)
    (hp : Part.ledger ∉ ps ∧ Part.asy ∉ ps ∧ Part.hub ∉ ps ∧ Part.standby ∉ ps ∧ Part.out ∉ ps) : WriteFrame s t := by
  obtain ⟨hledger, hasy, hhub, hstandby, hout⟩ := hp
  exact .of_same (h.only.ledger.resolve_left hledger) (h.only.asy.resolve_left hasy)
    (.of_same (standby_same h hstandby) (h.only.hub.resolve_left hhub)) (h.only.out.resolve_left hout)

theorem writeFrame_countEv (blk code n : Nat) (s : State) : WriteFrame s (countEv blk code n s) := by
  refine ⟨by rw [countEv_ledger], ?_, .of_same (countEv_standby _ _ _ _) (countEv_hub _ _ _ _), fun o ho => by rwa [countEv_out]⟩
  unfold countEv
  split <;> rfl

theorem writeFrame_recordFault (r : FaultRec) (s : State) : WriteFrame s (recordFault r s) := by
  refine ⟨?_, by rw [recordFault_asy], .of_same (recordFault_standby _ _) (recordFault_hub _ _), fun o ho => by rwa [recordFault_out]⟩
  unfold recordFault
  split <;> rfl

theorem writeFrame_hubRaise (src : Nat) (s : State) : WriteFrame s (hubRaise src s) :=
  .of_same (hubRaise_ledger _ _) (hubRaise_asy _ _) (hubGrown_hubRaise _ _) (hubRaise_out _ _)

theorem writeFrame_modBezel (z : Nat) (f : Bezel → Bezel) (s : State) : WriteFrame s (modBezel z f s) :=
  .of_same rfl rfl (.of_same rfl rfl) rfl

theorem writeFrame_modRec (z r : Nat) (f : RedRec → RedRec) (s : State) : WriteFrame s (modRec z r f s) := by
  unfold modRec setRec
  exact writeFrame_modBezel _ _ _

theorem writeFrame_foldl {α : Type} {f : State → α → State} (h : ∀ t a, WriteFrame t (f t a)) (l : List α) (s : State) :
    WriteFrame s (l.foldl f s) := by
  induction l generalizing s with
  | nil => exact .refl _
  | cons a l ih => exact (h s a).trans (ih _)

theorem writeFrame_upTo {f : State → Nat → State} (h : ∀ t k, WriteFrame t (f t k)) (n : Nat) (s : State) :
    WriteFrame s (upTo n f s) := writeFrame_foldl h _ s

/-! ### Granules -/

theorem writeFrame_countLook (blk : Nat) (c : Code) (s : State) : WriteFrame s (countLook blk c s) := writeFrame_countEv _ _ _ _

theorem writeFrame_frameCorrected (z l : Nat) (s : State) : WriteFrame s (frameCorrected z l s) := by
  unfold frameCorrected recordAddr
  dsimp only
  split
  · refine .trans ?_ (writeFrame_hubRaise _ _)
    refine .trans ?_ (writeFrame_recordFault _ _)
    exact .of_same rfl rfl (.of_same rfl rfl) rfl
  · exact .of_same rfl rfl (.of_same rfl rfl) rfl

theorem writeFrame_stackLook (z l : Nat) (c : Code) (read : Bool) (s : State) : WriteFrame s (stackLook z l c read s) := by
  have hopen : WriteFrame s (openAt z l (modBezel z (eccCount (decodeCode c).1 read) (countLook (blkBezel z) c s))) :=
    ((writeFrame_countLook _ _ _).trans (writeFrame_modBezel _ _ _)).trans (writeFrame_modBezel _ _ _)
  unfold stackLook
  dsimp only
  split
  · exact hopen.trans (writeFrame_frameCorrected _ _ _)
  · exact hopen

theorem writeFrame_recordPart (src phys pm cls node : Nat) (prior : Bool) (s : State) :
    WriteFrame s (recordPart src phys pm cls node prior s) := writeFrame_recordFault _ _

theorem writeFrame_addReread (p detail : Nat) (s : State) : WriteFrame s (addReread p detail s) := by
  unfold addReread
  split
  · exact .refl _
  · exact .of_same rfl rfl (.of_same rfl rfl) rfl

theorem writeFrame_unitUse (node z l : Nat) (s : State) : WriteFrame s (unitUse node z l s).2 := by
  have hlook := writeFrame_stackLook z l (stackCode s z l) true s
  by_cases hlost : (decodeCode (stackCode s z l)).1 = .uncorr
  · rw [unitUse_lost hlost]
    exact ((hlook.trans (writeFrame_recordPart _ _ _ _ _ _ _)).trans (writeFrame_addReread _ _ _)).trans (writeFrame_hubRaise _ _)
  · rw [unitUse_found hlost]
    exact hlook

theorem writeFrame_mergeUse (node z l : Nat) (s : State) : WriteFrame s (mergeUse node z l s).2 := by
  simp only [mergeUse]
  split
  · exact (writeFrame_unitUse _ _ _ _).trans (writeFrame_recordPart _ _ _ _ _ _ _)
  · exact writeFrame_unitUse _ _ _ _

theorem writeFrame_staleNotices (z p : Nat) (s : State) : WriteFrame s (staleNotices z p s) := by
  unfold staleNotices
  refine writeFrame_foldl (fun t w => ?_) _ s
  exact WriteFrame.trans (t := sendMsg _ t) (.of_same rfl rfl (.of_same rfl rfl) rfl) (writeFrame_countEv _ _ _ _)

theorem writeFrame_stackStore (z l : Nat) (c : Code) (s : State) : WriteFrame s (stackStore z l c s) := by
  have hput : WriteFrame s (stackPut z l (passOn c) s) := .of_keeps (keeps_stackPut z l _ (.refl [.mem] s) (by decide)) (by decide)
  exact ((hput.trans (writeFrame_modBezel _ _ _)).trans (writeFrame_modBezel _ _ _)).trans (writeFrame_staleNotices _ _ _)

/-! ### Contributions -/

theorem writeFrame_breakRec (z r : Nat) (s : State) : WriteFrame s (breakRec z r s) := by
  have hbroken : WriteFrame s (broken z r s) := (writeFrame_modRec _ _ _ _).trans (writeFrame_modBezel _ _ _)
  rw [breakRec_eq]
  exact (hbroken.trans (writeFrame_recordFault _ _)).trans (writeFrame_hubRaise _ _)

theorem writeFrame_useWords (z l n : Nat) (s : State) : WriteFrame s (useWords z l n s).2 := by
  unfold useWords
  induction n with
  | zero => exact .refl _
  | succ n ih =>
    rw [upTo_succ]
    exact ih.trans (writeFrame_unitUse _ _ _ _)

theorem writeFrame_addSums (z : Nat) (r : RedRec) (p : Nat) (first : Bool) (vals : List Word32) (s : State) :
    WriteFrame s (addSums z r p first vals s) := by
  have huse : WriteFrame s (if decide (p + 8 ≤ r.count.toNat) = true then unitUse (nodeBezel z) z (r.sums.toNat + 4 * p) s
      else mergeUse (nodeBezel z) z (r.sums.toNat + 4 * p) s).2 := by
    split
    · exact writeFrame_unitUse _ _ _ _
    · exact writeFrame_mergeUse _ _ _ _
  simp only [addSums]
  generalize (if decide (p + 8 ≤ r.count.toNat) = true then unitUse (nodeBezel z) z (r.sums.toNat + 4 * p) s
    else mergeUse (nodeBezel z) z (r.sums.toNat + 4 * p) s) = u at *
  split
  · exact .refl _
  · split
    · exact writeFrame_stackStore _ _ _ _
    · split
      · exact huse.trans (writeFrame_stackStore _ _ _ _)
      · exact huse.trans (writeFrame_stackStore _ _ _ _)

theorem writeFrame_addGran (z ri j : Nat) (r : RedRec) (first : Bool) (d : Gran) (s : State) :
    WriteFrame s (addGran z ri j r first d s) := by
  have hsums := (writeFrame_addSums z r (16 * j) first ((conElems d).take 8) s).trans
    (writeFrame_addSums z r (16 * j + 8) first ((conElems d).drop 8) _)
  simp only [addGran]
  split
  · exact (hsums.trans (writeFrame_countEv _ _ _ _)).trans (writeFrame_modBezel _ _ _)
  · exact hsums

theorem writeFrame_completeRec (z ri : Nat) (s : State) : WriteFrame s (completeRec z ri s) := by
  have hset : ∀ b r, WriteFrame s (modBezel z b (setRec z ri r s)) := fun _ _ => .of_same rfl rfl (.of_same rfl rfl) rfl
  refine (hset _ _).trans (writeFrame_foldl (fun t j => ?_) _ _)
  exact (writeFrame_useWords _ _ _ t).trans (writeFrame_modBezel _ _ _)

theorem writeFrame_conApply (z l : Nat) (m : Msg) (s : State) : WriteFrame s (conApply z l m s) := by
  have hgrans := writeFrame_upTo (f := fun t k => addGran z (intakeRec (bezelOf s z) l) (intakeOff (bezelOf s z) l / 32 + k)
    (recOf (bezelOf s z) (intakeRec (bezelOf s z) l))
    (segMask (recOf (bezelOf s z) (intakeRec (bezelOf s z) l)) ((intakeOff (bezelOf s z) l / 32 + k) / 4) == 0)
    (goodData (nth 0 m.data k)) t) (fun t k => writeFrame_addGran _ _ _ _ _ _ t) m.len s
  have hset : ∀ r, WriteFrame s (countEv (blkBezel z) 0x0A 1 (setRec z (intakeRec (bezelOf s z) l) r (upTo m.len _ s))) := fun r =>
    (hgrans.trans (writeFrame_modBezel _ _ _)).trans (writeFrame_countEv _ _ _ _)
  simp only [conApply]
  split
  · exact (hset _).trans (writeFrame_completeRec _ _ _)
  · exact hset _

theorem writeFrame_contribute (z l : Nat) (m : Msg) (s : State) : WriteFrame s (contribute z l m s).2.2 := by
  have hcount (code : Nat) (f : Bezel → Bezel) : WriteFrame s (countEv (blkBezel z) code 1 (modBezel z f s)) :=
    (writeFrame_modBezel _ _ _).trans (writeFrame_countEv _ _ _ _)
  simp only [contribute, recordMore]
  split
  · exact writeFrame_conApply _ _ _ _
  · dsimp only
    exact hcount _ _
  · dsimp only
    exact hcount _ _
  · dsimp only
    split
    · exact ((hcount _ _).trans (writeFrame_recordFault _ _)).trans (writeFrame_breakRec _ _ _)
    · exact (hcount _ _).trans (writeFrame_recordFault _ _)

/-! ### Writes of Nutas -/

theorem writeFrame_snoop (z line : Nat) (s : State) : WriteFrame s (snoop z line s) := by
  unfold snoop
  split
  · exact .refl _
  · refine ((writeFrame_modBezel _ _ _).trans (writeFrame_countEv _ _ _ _)).trans ⟨rfl, rfl, .of_same rfl rfl, fun o ho => ?_⟩
    rw [emit_out]
    exact List.mem_append_left _ ho

theorem writeFrame_locketStore (z x p : Nat) (part : List Byte) (s : State) : WriteFrame s (locketStore z x p part s) := by
  have hcount := writeFrame_countEv (blkBezel z) 0x03 1 s
  simp only [locketStore]
  split
  · exact hcount.trans (writeFrame_contribute _ _ _ _)
  · split
    · split
      · exact hcount.trans (writeFrame_stackStore _ _ _ _)
      · exact (hcount.trans (writeFrame_mergeUse _ _ _ _)).trans (writeFrame_stackStore _ _ _ _)
    · exact (hcount.trans (writeFrame_modBezel _ _ _)).trans (writeFrame_foldl (fun t l => writeFrame_snoop _ _ t) _ _)

theorem writeFrame_locketWrite (a : Nat) (l : List Byte) (s : State) : WriteFrame s (locketWrite a l s) := by
  unfold locketWrite
  refine writeFrame_upTo (fun t i => ?_) _ s
  split
  · exact writeFrame_locketStore _ _ _ _ _
  · exact .refl _

theorem writeFrame_bufWrite (b : Buf) (l : List Byte) (s : State) : WriteFrame s (bufWrite b l s) := by
  unfold bufWrite
  split
  · exact writeFrame_locketWrite _ _ _
  · split
    · split
      · refine ⟨rfl, rfl, .of_same rfl rfl, fun o ho => ?_⟩
        rw [emit_out]
        exact List.mem_append_left _ ho
      · exact .refl _
    · exact .of_same rfl rfl (.of_same rfl rfl) rfl

end

end Sys2Proof.Proofs
end

section
/-! Proofs for chapters 20 and 21: the fault ring, the trace and the dump engine. -/

namespace Sys2Proof.Proofs

open Sys2Proof Sys2Proof.Machine Sys2Proof.Laws

/-! ### The fault ring (R618, R686 to R688) -/

section
variable {s : State} {r : FaultRec} {rest : List FaultRec}

/-- The log behind the record `r` that it has taken from those that wait. -/
def ringTaken (r : FaultRec) (rest : List FaultRec) (f : FaultLog) : FaultLog :=
  let ring := f.ring ++ [{ r with seq := f.nextSeq, gap := f.gap }]
  let full := decide (4096 < ring.length)
  let hitH := full && decide (4096 < (f.nextSeq + 1 - f.idxHost).toNat)
  let hitM := full && decide (4096 < (f.nextSeq + 1 - f.idxMgt).toNat)
  { f with
    ring := if full then ring.drop 1 else ring
    nextSeq := f.nextSeq + 1, waiting := rest, gap := false
    idxHost := if hitH then f.nextSeq - 4095 else f.idxHost, overHost := if hitH then satInc f.overHost else f.overHost
    idxMgt := if hitM then f.nextSeq - 4095 else f.idxMgt, overMgt := if hitM then satInc f.overMgt else f.overMgt }

theorem writeRecord_eq (h : s.faults.waiting = r :: rest) : writeRecord s =
    traceItem (.fault { r with seq := s.faults.nextSeq, gap := s.faults.gap }) (countEv blkLocket 0x08 1
      (highWater { s with faults := ringTaken r rest s.faults })) := by
  simp only [writeRecord, h]
  rfl

theorem highWater_faults (s : State) : (highWater s).faults = { s.faults with
    aboveHost := atHiwat s.faults s.faults.idxHost, aboveMgt := atHiwat s.faults s.faults.idxMgt } := by
  unfold highWater
  dsimp only
  split
  · exact hubRaise_faults _ _
  · rfl

theorem highWater_ledger (s : State) : (highWater s).ledger = s.ledger := by
  unfold highWater
  dsimp only
  split
  · exact hubRaise_ledger _ _
  · rfl

/-- The log behind a record that is written, with the high-water marks that it leaves. -/
theorem faults_writeRecord (h : s.faults.waiting = r :: rest) : ∃ a b,
    (writeRecord s).faults = { ringTaken r rest s.faults with aboveHost := a, aboveMgt := b } := by
  rw [writeRecord_eq h, traceItem_faults, countEv_faults, highWater_faults]
  exact ⟨_, _, rfl⟩

theorem ringTaken_room {f : FaultLog} (h : f.ring.length < 4096) :
    (ringTaken r rest f).ring = f.ring ++ [{ r with seq := f.nextSeq, gap := f.gap }] ∧
      (ringTaken r rest f).idxHost = f.idxHost ∧ (ringTaken r rest f).idxMgt = f.idxMgt := by
  have hfull : decide (4096 < (f.ring ++ [{ r with seq := f.nextSeq, gap := f.gap }]).length) = false := by
    rw [decide_eq_false_iff_not, List.length_append, List.length_singleton]
    omega
  simp only [ringTaken, hfull, Bool.false_and, Bool.false_eq_true, if_false, and_self]

theorem ringTaken_full {f : FaultLog} (h : f.ring.length = 4096) :
    (ringTaken r rest f).ring = f.ring.drop 1 ++ [{ r with seq := f.nextSeq, gap := f.gap }] ∧
      (4096 ≤ unacked f f.idxHost → unacked f f.idxHost < 2 ^ 32 - 1 →
        (ringTaken r rest f).idxHost = f.nextSeq - 4095 ∧ (ringTaken r rest f).overHost = satInc f.overHost) := by
  have hfull : decide (4096 < (f.ring ++ [{ r with seq := f.nextSeq, gap := f.gap }]).length) = true := by
    rw [decide_eq_true_eq, List.length_append, List.length_singleton]
    omega
  refine ⟨?_, fun hmany hlt => ?_⟩
  · simp only [ringTaken, hfull, if_true]
    exact List.drop_append_of_le_length (by omega)
  · have hnext : 4096 < (f.nextSeq + 1 - f.idxHost).toNat := by
      unfold unacked at hmany hlt
      bv_omega
    simp only [ringTaken, hfull, decide_eq_true hnext, Bool.and_self, if_true, and_self]

theorem faultRecordWrite_writes (h : s.faults.waiting = r :: rest)
    (hfree : s.standby.mainUp = false ∨ s.faults.wroteCk ≠ absCk s + 1) :
    Completes .faultRecordWrite s fun t => t.faults.waiting = rest ∧ t.faults.nextSeq = s.faults.nextSeq + 1 ∧
      t.faults.gap = false ∧ t.faults.dropped = s.faults.dropped ∧ t.faults.wroteCk = absCk s + 1 ∧
      (s.faults.ring.length < 4096 → t.faults.ring = s.faults.ring ++ [{ r with seq := s.faults.nextSeq, gap := s.faults.gap }] ∧
        t.faults.idxHost = s.faults.idxHost ∧ t.faults.idxMgt = s.faults.idxMgt) ∧
      (s.faults.ring.length = 4096 →
        t.faults.ring = s.faults.ring.drop 1 ++ [{ r with seq := s.faults.nextSeq, gap := s.faults.gap }] ∧
        (4096 ≤ unacked s.faults s.faults.idxHost → unacked s.faults s.faults.idxHost < 2 ^ 32 - 1 →
          t.faults.idxHost = s.faults.nextSeq - 4095 ∧ t.faults.overHost = satInc s.faults.overHost)) ∧
      (s.ledger.traceEn = false → t.ledger = s.ledger) ∧
      (s.ledger.traceEn = true → s.ledger.traceBuf.length < 64 →
        t.ledger = { s.ledger with
          traceBuf := s.ledger.traceBuf ++ [.fault { r with seq := s.faults.nextSeq, gap := s.faults.gap }] }) := by
  have hgo : (s.faults.waiting != [] && (!mainUp s || s.faults.wroteCk != absCk s + 1)) = true := by
    rw [h, mainUp]
    simpa using hfree
  generalize hu : ({ s with faults := { s.faults with wroteCk := absCk s + 1 } } : State) = u
  have hf : u.faults = { s.faults with wroteCk := absCk s + 1 } := by rw [← hu]
  have hledger : u.ledger = s.ledger := by rw [← hu]
  have hwait : u.faults.waiting = r :: rest := by rw [hf]; exact h
  obtain ⟨a, b, hfaults⟩ := faults_writeRecord hwait
  have hexec : exec .faultRecordWrite s = .next (writeRecord u) := by
    rw [← hu]
    exact whenOk_of s hgo _
  refine completes_of_exec hexec ?_
  rw [hfaults, hf]
  refine ⟨rfl, rfl, rfl, rfl, rfl, fun hroom => ringTaken_room (rest := rest) (f := { s.faults with wroteCk := absCk s + 1 }) hroom,
    fun hfull => ringTaken_full (rest := rest) (f := { s.faults with wroteCk := absCk s + 1 }) hfull, fun hoff => ?_, fun hon hroom => ?_⟩
  · rw [writeRecord_eq hwait, traceItem, countEv_ledger, highWater_ledger]
    rw [if_neg (by rw [hledger, hoff]; decide), countEv_ledger, highWater_ledger]
    exact hledger
  · rw [writeRecord_eq hwait, traceItem, countEv_ledger, highWater_ledger]
    rw [if_pos (by rw [hledger, hon]), if_pos (by rw [hledger]; exact hroom), hf]
    exact congrArg (fun g : Ledger => { g with
      traceBuf := g.traceBuf ++ [TraceItem.fault { r with seq := s.faults.nextSeq, gap := s.faults.gap }] }) hledger

end

/-! ### Whole granules of Nutas in a plain stack -/

/-- A bezel that differs in its open rows and in the marks of its generations alone. -/
def RowsOnly (b b' : Bezel) : Prop := b' = { b with openRow := b'.openRow, gens := b'.gens }

section
variable {s t : State} {z l a n : Nat} {bytes : List Byte}

theorem rowsOnly_trans {b b' b'' : Bezel} (h : RowsOnly b b') (g : RowsOnly b' b'') : RowsOnly b b'' := by
  unfold RowsOnly at h g ⊢
  rw [h] at g
  exact g

theorem RowsOnly.plain {b b' : Bezel} (h : RowsOnly b b') (hplain : PlainStack b) : PlainStack b' := by
  rw [h]
  exact hplain

theorem RowsOnly.free {b b' : Bezel} (h : RowsOnly b b') (x : Nat) :
    inIntake b' x = inIntake b x ∧ heldLines b' [x] = heldLines b [x] := by
  rw [h]
  exact ⟨rfl, rfl⟩

theorem locketStore_whole {x p : Nat} {part : List Byte} (hintake : inIntake (bezelOf s z) x = false)
    (hheld : heldLines (bezelOf s z) [x] = []) (hlen : part.length = 32) :
    locketStore z x p part s = stackStore z x (encodeGran (granOf part)) (countEv (blkBezel z) 0x03 1 s) := by
  simp only [locketStore, hintake, hheld, hlen, Bool.false_eq_true, if_false, if_true]

theorem rowsOnly_of {b b' : Bezel} {x : Tbl Nat} {y : Tbl GenEnt} (h : b' = { b with openRow := x, gens := y }) : RowsOnly b b' := by
  rw [h]
  rfl

theorem rowsOnly_locketStore {x : Nat} (c : Code) :
    RowsOnly (bezelOf s z) (bezelOf (stackStore z x c (countEv (blkBezel z) 0x03 1 s)) z) := by
  have hstore := bezelOf_stackStore z x c (countEv (blkBezel z) 0x03 1 s)
  generalize bezelOf (stackStore z x c (countEv (blkBezel z) 0x03 1 s)) z = b at *
  rw [bezelOf_congr (countEv_bezels _ _ _ _)] at hstore
  exact rowsOnly_of hstore

/-- The first `n` granules of `bytes` stand in stack `z` from the address `l` on, and nothing else of memory differs. -/
structure WroteGrans (z l n : Nat) (bytes : List Byte) (s t : State) : Prop where
  here : ∀ k < n, codeAt t.mem (stackGran z (l / 32 + k)) = passOn (encodeGran (granOf ((bytes.drop (32 * k)).take 32)))
  elsewhere : ∀ g, (∀ k < n, g ≠ stackGran z (l / 32 + k)) → codeAt t.mem g = codeAt s.mem g
  split : t.mem.splitNow = s.mem.splitNow
  rows : RowsOnly (bezelOf s z) (bezelOf t z)

theorem WroteGrans.next (h : WroteGrans z l n bytes s t) (hplain : PlainStack (bezelOf s z)) (hl : l % 32 = 0) :
    WroteGrans z l (n + 1) bytes s (stackStore z (l + 32 * n) (encodeGran (granOf ((bytes.drop (32 * n)).take 32)))
      (countEv (blkBezel z) 0x03 1 t)) := by
  have hplain' : PlainStack (bezelOf (countEv (blkBezel z) 0x03 1 t) z) := by
    rw [bezelOf_congr (countEv_bezels _ _ _ _)]
    exact h.rows.plain hplain
  obtain ⟨hhere, helse, -, -⟩ := granStored_stackStore hplain' (l + 32 * n) (encodeGran (granOf ((bytes.drop (32 * n)).take 32)))
  have hat : (l + 32 * n) / 32 = l / 32 + n := by omega
  rw [hat] at hhere helse
  rw [countEv_mem] at helse
  refine ⟨fun k hk => ?_, fun g hg => ?_, ?_, rowsOnly_trans h.rows (rowsOnly_locketStore _)⟩
  · rcases Nat.lt_succ_iff_lt_or_eq.1 hk with hlt | rfl
    · rw [helse _ (by unfold stackGran; omega)]
      exact h.here k hlt
    · exact hhere
  · rw [helse g (hg n (by omega))]
    exact h.elsewhere g fun k hk => hg k (by omega)
  · rw [stackStore_mem, stackPut_plain hplain']
    exact (congrArg Memory.splitNow (countEv_mem _ _ _ _)).trans h.split

/-- Nutas writes whole granules of a stack that has no redirect and does not retrain. -/
theorem wroteGrans_locketWrite (hlen : bytes.length = 32 * n) (hl : l % 32 = 0) (hplain : PlainStack (bezelOf s z))
    (hplace : ∀ k < n, placeOf s.mem.splitNow.toNat (a + 32 * k) = .stack z (l + 32 * k))
    (hfree : ∀ k < n, inIntake (bezelOf s z) (l + 32 * k) = false ∧ heldLines (bezelOf s z) [l + 32 * k] = []) :
    WroteGrans z l n bytes s (locketWrite a bytes s) := by
  have hgrans (m : Nat) (hm : m ≤ n) : WroteGrans z l m bytes s (upTo m (fun t i =>
      match placeOf t.mem.splitNow.toNat (a + 32 * i) with
      | .stack z x => locketStore z x (a + 32 * i) ((bytes.drop (32 * i)).take 32) t
      | _ => t) s) := by
    induction m with
    | zero => exact ⟨fun k hk => absurd hk (Nat.not_lt_zero k), fun _ _ => rfl, rfl, rfl⟩
    | succ m ih =>
      have hdone := ih (by omega)
      rw [upTo_succ]
      generalize upTo m _ s = t at hdone ⊢
      obtain ⟨hintake, hheld⟩ := hfree m (by omega)
      obtain ⟨hintake', hheld'⟩ := hdone.rows.free (l + 32 * m)
      rw [hdone.split, hplace m (by omega)]
      dsimp only
      rw [locketStore_whole (hintake'.trans hintake) (hheld'.trans hheld)
        (by rw [List.length_take, List.length_drop]; omega)]
      exact hdone.next hplain hl
  have hcount : (bytes.length + 31) / 32 = n := by omega
  unfold locketWrite
  rw [hcount]
  exact hgrans n le_rfl

end

/-! ### The trace (R703, R705) -/

theorem faultBytes_length (r : FaultRec) : (faultBytes r).length = 32 := by simp [faultBytes, toBytes_length]

theorem ledgerBytes_length (r : LedgerRec) : (ledgerBytes r).length = 64 := by simp [ledgerBytes, toBytes_length]

theorem traceBytes_length (n drops : Nat) (i : TraceItem) : (traceBytes n drops i).length = 128 := by
  cases i <;> simp [traceBytes, toBytes_length, faultBytes_length, ledgerBytes_length]

/-- The address at which the next trace entry is written. -/
def traceAddr (g : Ledger) : Nat := g.traceBase.toNat * 4096 + 128 * (g.traceN % max 1 (32 * g.traceSize.toNat))

theorem traceWrite_writes {s : State} {i : TraceItem} {rest : List TraceItem} (hup : s.standby.mainUp = true) (hidle : s.asy.dumps = [])
    (hbuf : s.ledger.traceBuf = i :: rest) :
    Completes .traceWrite s fun t =>
      t.ledger = { s.ledger with
        traceBuf := rest, traceN := s.ledger.traceN + 1, written := s.ledger.written + 1, drops := 0, cur := t.ledger.cur } ∧
      ∀ z l, s.mem.wf → (∀ k < 4, placeOf s.mem.splitNow.toNat (traceAddr s.ledger + 32 * k) = .stack z (l + 32 * k)) → l % 32 = 0 →
        (∀ k < 4, inIntake (bezelOf s z) (l + 32 * k) = false ∧ heldLines (bezelOf s z) [l + 32 * k] = []) →
        (bezelOf s z).redirect = [] → (bezelOf s z).retrainPhase = .idle →
        (∀ k < 4, stackCode t z (l + 32 * k) =
          passOn (encodeGran (granOf (((traceBytes s.ledger.traceN s.ledger.drops.toNat i).drop (32 * k)).take 32)))) ∧
        ∀ n, (∀ k < 4, n ≠ stackGran z (l / 32 + k)) → codeAt t.mem n = codeAt s.mem n := by
  generalize hbytes : traceBytes s.ledger.traceN s.ledger.drops.toNat i = bytes
  have hlen : bytes.length = 32 * 4 := by
    rw [← hbytes]
    exact traceBytes_length _ _ _
  obtain ⟨u, hu⟩ : ∃ u, locketWrite (traceAddr s.ledger) bytes s = u := ⟨_, rfl⟩
  have hexec : exec .traceWrite s = .next { u with ledger := { u.ledger with
      traceBuf := rest, traceN := s.ledger.traceN + 1, written := s.ledger.written + 1, drops := 0 } } := by
    change execTraceWrite s = _
    simp only [execTraceWrite, hbuf, hbytes]
    rw [← hu]
    exact whenOk_of s (by rw [mainUp, hup, hidle]; rfl) _
  have hledger : u.ledger = { s.ledger with cur := u.ledger.cur } := by
    rw [← hu]
    exact (writeFrame_locketWrite _ _ s).ledger
  refine completes_of_exec hexec ⟨?_, fun z l _ hplace hl hfree hred hphase => ?_⟩
  · dsimp only
    rw [hledger]
  · have hplain : PlainStack (bezelOf s z) := ⟨hred, hphase⟩
    have hwrote := wroteGrans_locketWrite hlen hl hplain hplace hfree
    rw [hu] at hwrote
    refine ⟨fun k hk => ?_, hwrote.elsewhere⟩
    have hat : (l + 32 * k) / 32 = l / 32 + k := by omega
    have hcode : stackCode u z (l + 32 * k) = codeAt u.mem (stackGran z (l / 32 + k)) := by
      rw [stackCode, stackSrc_plain (hwrote.rows.plain hplain), hat]
    exact hcode.trans (hwrote.here k hk)

/-! ### The dump engine (R671 to R673, R675) -/

section
variable {s : State} {d : Dump} {rest : List Dump}

/-- The engine has taken a record from its queue. -/
def dumpTaken (rest : List Dump) (s : State) : State := { s with asy := { s.asy with dumps := rest } }

theorem writeFrame_beginDump (s : State) : WriteFrame s (beginDump s) := by
  unfold beginDump
  split
  · exact .refl _
  · exact writeFrame_bufWrite _ _ _

theorem exec_dumpRecordWrite (hup : s.standby.mainUp = true) (h : s.asy.dumps = d :: rest) :
    exec .dumpRecordWrite s = .next (beginDump (writeDump d (dumpTaken rest s))) := by
  change execDumpRecordWrite s = _
  simp only [execDumpRecordWrite, h]
  exact whenOk_of s hup _

theorem raised_dump (hup : s.standby.mainUp = true) {u v t : State} (hu : HubGrown s u) (hv : HubGrown (hubRaise 136 u) v)
    (ht : HubGrown v t) : Raised 0 136 s t :=
  raised_grown (raised_grown (raised_behind hu (hubGrown_hubRaise _ _)
    (raised_hubRaise (src := 136) (by rw [hu.standby, hup]) (by decide))) hv) ht

theorem dumpRecordWrite_periodic (hup : s.standby.mainUp = true) (h : s.asy.dumps = d :: rest) (hsnap : d.snap = none) :
    Completes .dumpRecordWrite s fun t => t.asy.dumps = rest ∧ t.asy.seq = BitVec.ofNat 32 d.seq ∧
      Raised 0 136 s t ∧ t.nutas = s.nutas := by
  obtain ⟨u, hu⟩ : ∃ u, bufWrite { addr := d.dest, len := recordLen, loc := d.loc } (dumpBytes d) (dumpTaken rest s) = u := ⟨_, rfl⟩
  have hwrite : writeDump d (dumpTaken rest s) =
      { hubRaise 136 u with asy := { (hubRaise 136 u).asy with seq := BitVec.ofNat 32 d.seq } } := by
    rw [← hu]
    simp only [writeDump, hsnap]
  obtain ⟨v, hv⟩ : ∃ v, ({ hubRaise 136 u with asy := { (hubRaise 136 u).asy with seq := BitVec.ofNat 32 d.seq } } : State) = v :=
    ⟨_, rfl⟩
  have hframe : WriteFrame (dumpTaken rest s) u := by
    rw [← hu]
    exact writeFrame_bufWrite _ _ _
  have hbegin := writeFrame_beginDump v
  have hasy : v.asy = { u.asy with seq := BitVec.ofNat 32 d.seq } := by rw [← hv, hubRaise_asy]
  have hdumps : u.asy.dumps = rest := by rw [hframe.asy]; rfl
  have hgrown : HubGrown s u := HubGrown.trans (t := dumpTaken rest s) (.of_same rfl rfl) hframe.hub
  have hlast : HubGrown (hubRaise 136 u) v := by
    rw [← hv]
    exact .of_same rfl rfl
  have hnutas : (beginDump v).nutas = s.nutas := by
    have hk : Keeps [.fabric, .mem, .bezels, .ledger, .faults, .hub, .asy, .mgmt, .out] (dumpTaken rest s) u := by
      rw [← hu]
      exact keeps_bufWrite _ _ (.refl _ _) (sub_refl _)
    have hvn : v.nutas = u.nutas := by rw [← hv, hubRaise_nutas]
    rw [nutas_same (keeps_beginDump (.refl _ v) (sub_refl _)) (by decide), hvn, nutas_same hk (by decide)]
    rfl
  refine completes_of_exec (exec_dumpRecordWrite hup h) ?_
  rw [hwrite, hv]
  refine ⟨?_, ?_, raised_dump hup hgrown hlast hbegin.hub, hnutas⟩
  · rw [hbegin.asy, hasy]
    exact hdumps
  · rw [hbegin.asy, hasy]

theorem dumpRecordWrite_snapshot {k : Nat} {c : Cmd} (hup : s.standby.mainUp = true) (h : s.asy.dumps = d :: rest)
    (hsnap : d.snap = some k) (hloc : d.loc = 1) (hreach : hostReach s = true)
    (hfound : (s.nutas.cmds.find? fun x => x.num == k) = some c) (hrst : (mbxOf s c.mbx.val).rst = false) :
    Completes .dumpRecordWrite s fun t => t.asy.dumps = rest ∧ Raised 0 136 s t ∧
      (rest = [] → t.mem = s.mem ∧ t.out = s.out ++ [.hostWrite d.dest (dumpBytes d)]) ∧
      OutMsg.hostWrite d.dest (dumpBytes d) ∈ t.out ∧ Completed k c stOk 0 (d.tick.setWidth 64) s t := by
  obtain ⟨u, hu⟩ : ∃ u, emit (.hostWrite d.dest (dumpBytes d)) (dumpTaken rest s) = u := ⟨_, rfl⟩
  obtain ⟨w, hw⟩ : ∃ w, hubRaise 136 u = w := ⟨_, rfl⟩
  have hout : w.out = s.out ++ [.hostWrite d.dest (dumpBytes d)] := by rw [← hw, hubRaise_out, ← hu]; rfl
  have hmem : w.mem = s.mem := by rw [← hw, hubRaise_mem, ← hu]; rfl
  have hnutas : w.nutas = s.nutas := by rw [← hw, hubRaise_nutas, ← hu]; rfl
  have hmbxs : w.mbxs = s.mbxs := by rw [← hw, hubRaise_mbxs, ← hu]; rfl
  have hclock : w.clock = s.clock := by rw [← hw, hubRaise_clock, ← hu]; rfl
  have hasy : w.asy.dumps = rest := by rw [← hw, hubRaise_asy, ← hu]; rfl
  have hgrown : HubGrown s u := by
    rw [← hu]
    exact .of_same rfl rfl
  have hwrite : writeDump d (dumpTaken rest s) = ended k (completionOf w c stOk 0 (d.tick.setWidth 64)) w := by
    have hbuf : bufWrite { addr := d.dest, len := recordLen, loc := d.loc } (dumpBytes d) (dumpTaken rest s) = u := by
      rw [← hu, hloc]
      exact if_pos hreach
    simp only [writeDump, hsnap, hbuf, hw]
    exact complete_eq_ended (by rw [hnutas]; exact hfound) (by rw [mbxOf_congr hmbxs]; exact hrst) _ _ _
  obtain ⟨v, hv⟩ : ∃ v, ended k (completionOf w c stOk 0 (d.tick.setWidth 64)) w = v := ⟨_, rfl⟩
  have hvout : v.out = w.out := by rw [← hv]; rfl
  have hvmem : v.mem = w.mem := by rw [← hv]; rfl
  have hvasy : v.asy = w.asy := by rw [← hv]; rfl
  have hvhub : HubGrown (hubRaise 136 u) v := by
    rw [← hv, hw]
    exact .of_same rfl rfl
  have hbegin := writeFrame_beginDump v
  have hkeep := keeps_beginDump (s := v) (.refl [.fabric, .mem, .bezels, .ledger, .faults, .hub, .asy, .mgmt, .out] v) (sub_refl _)
  refine completes_of_exec (exec_dumpRecordWrite hup h) ?_
  rw [hwrite, hv]
  refine ⟨?_, raised_dump hup hgrown hvhub hbegin.hub, fun hrest => ?_, hbegin.out _ ?_, ?_, ?_, ?_⟩
  · rw [hbegin.asy, hvasy]
    exact hasy
  · have hstay : beginDump v = v := by
      rw [beginDump, hvasy, hasy, hrest]
    rw [hstay, hvmem, hvout]
    exact ⟨hmem, hout⟩
  · rw [hvout, hout]
    exact List.mem_append_right _ (List.mem_singleton_self _)
  · rw [nutas_same hkeep (by decide), ← hv]
    exact congrArg (fun n : Nutas => n.cmds.filter fun x => x.num != k) hnutas
  · rw [nutas_same hkeep (by decide), ← hv, completionOf_congr (congrArg Clock.tick hclock) rfl rfl]
    exact congrArg (fun n : Nutas => n.ready ++ [completionOf s c stOk 0 (d.tick.setWidth 64)]) hnutas
  · rw [hkeep.only.mbxs.resolve_left (by decide), ← hv]
    exact hmbxs

end

/-- Settles O50: the ring, the trace, then the dump engine. -/
theorem recordsReachRingTraceAndDumps : Obligations.RecordsReachRingTraceAndDumps := by
  unfold Obligations.RecordsReachRingTraceAndDumps
  intro s
  exact ⟨fun _ _ h hfree => faultRecordWrite_writes h hfree, fun _ _ hup hidle hbuf => traceWrite_writes hup hidle hbuf,
    fun _ _ hup h => ⟨fun hsnap => dumpRecordWrite_periodic hup h hsnap, fun _ _ hsnap hloc hreach hfound hrst =>
      dumpRecordWrite_snapshot hup h hsnap hloc hreach hfound hrst⟩⟩

end Sys2Proof.Proofs
end

section
/-! Proofs for chapter 17: the completion of a command that ends the reset of its mailbox. -/

namespace Sys2Proof.Proofs

open Sys2Proof Sys2Proof.Machine Sys2Proof.Laws

/-- A completion of mailbox 1. -/
def readyCompletion : Completion := { mbx := 1, cid := 0, status := 0, opc := 0, r0 := 0, r1 := 0, tick := 0, irq := false }

/-- Mailbox 1 is being reset while a completion of it is ready and a command of it stands, with a code that is not assigned. -/
def resetState : State :=
  { mbxs := [(1, { rst := true })]
    nutas := { cmds := [{ num := 0, mbx := 1, entry := 0xFF }], ready := [readyCompletion] } }

/-- The command completes before the completion is looked at, and with it the reset. -/
theorem resetState_restarts : (mbxOf (stateAfter (.mailboxCompletionWrite 1 true) resetState) 1).rst = false := by
  decide +kernel

/-- Refutes O51: a command with an unassigned code completes before the mailbox's first completion is written or held, and
where it is the last one of a mailbox that is being reset, the mailbox begins anew, so more of it changes than its held
completions. -/
theorem not_mailboxesReadAndComplete : ¬ Obligations.MailboxesReadAndComplete := by
  unfold Obligations.MailboxesReadAndComplete
  intro h
  obtain ⟨-, hwrite, -⟩ := h resetState 1
  obtain ⟨hhold, -⟩ := hwrite readyCompletion true (by decide +kernel) (fun hm => absurd hm (by decide))
  refine not_completes (fun hp => ?_) (hhold (by decide) (by decide))
  obtain ⟨-, -, hmbx, -⟩ := hp
  have hrst := congrArg Mbx.rst hmbx
  rw [show (1 : MbxN).val = 1 from rfl, resetState_restarts] at hrst
  exact absurd hrst (by decide)

end Sys2Proof.Proofs
end

section
/-! Facts about the buffers of commands in host memory. -/

namespace Sys2Proof.Proofs

open Sys2Proof Sys2Proof.Machine Sys2Proof.Laws

section
variable {s : State} {b : Buf} {n : Nat} {host : List Byte}

theorem bufRead_host_whole (hloc : b.loc = 1) (hreach : hostReach s = true) (hlen : n ≤ host.length) :
    bufRead s b n host = (host.take n, none, s) := by
  rw [bufRead_host hloc hreach, if_neg (Nat.not_lt.2 hlen)]

theorem bufRead_host_short (hloc : b.loc = 1) (hreach : hostReach s = true) (hlen : host.length < n) :
    bufRead s b n host = (host.take n, some (host.length / 32 * 32), s) := by
  rw [bufRead_host hloc hreach, if_pos hlen]

end

end Sys2Proof.Proofs
end

section
/-! Proofs for chapters 17, 22 and 24: firmware is staged and handed over, spares are tested and take positions. -/

namespace Sys2Proof.Proofs

open Sys2Proof Sys2Proof.Machine Sys2Proof.Laws

section
variable {s : State} {k : Nat} {c : Cmd}

/-! ### FW_STAGE -/

theorem exec_fwStage (k : Nat) (buf : List Byte) (s : State) : exec (.fwStage k buf) s = execFwStage k buf s := rfl

/-- The image verifies. -/
def imageGood (s : State) (l : List Byte) : Prop := headOk l = true ∧ stage1Ok s l = true ∧ stage2Ok s l = true

/-- An image goes into the slot that does not run. -/
def imageStaged (c : Cmd) (l : List Byte) (s : State) : State :=
  modNutas (fun n => { n with stagedBy := some (mbxMaster c.mbx.val) })
    (modStandby (setSlot (!runSlot s.standby) (l.take (imageEnd (headOf l)))) s)

theorem keeps_imageStaged {s0 : State} (c : Cmd) (l : List Byte) (h : Keeps [.nutas, .standby] s0 s) :
    Keeps [.nutas, .standby] s0 (imageStaged c l s) := by
  refine keeps_modNutas _ (keeps_modStandby _ h (by decide) ?_ ?_ ?_) (by decide)
  all_goals
    unfold setSlot
    split
  all_goals simp

/-- What FW_STAGE does with an image that it has read. -/
def stageEnd (c : Cmd) (l : List Byte) (s : State) : CmdEnd :=
  if !headOk l || !stage1Ok s l || !stage2Ok s l then .done stBadSignature 0 0 s
  else if !svnOk s l then .done stRollback 0 0 s
  else .done stOk (BitVec.ofNat 64 (headOf l).version) 0 (imageStaged c l s)

section
variable {buf : List Byte}
  (hs : Served k 0x90 bufMaskAll noChecks (fun c => some (bufOf c.entry).len) c s) (hloc : (bufOf c.entry).loc = 1)
  (hreach : hostReach s = true) (hlen : (bufOf c.entry).len ≤ buf.length)
include hs hloc hreach hlen

theorem exec_fwStage_done {st : Nat} {r0 r1 : Word} {u : State}
    (hend : stageEnd c (buf.take (bufOf c.entry).len) (Started k s) = .done st r0 r1 u) :
    exec (.fwStage k buf) s = .next (complete k st r0 r1 u) := by
  refine (exec_fwStage k buf s).trans (command_done hs ?_)
  dsimp only
  rw [bufRead_host_whole (s := Started k s) hloc hreach hlen]
  exact hend

theorem fwStage_bad (hbad : ¬ imageGood s (buf.take (bufOf c.entry).len)) :
    Completes (.fwStage k buf) s fun t => OnlyIn [.nutas] s t ∧ Completed k c stBadSignature 0 0 s t ∧
      t.nutas.stagedBy = s.nutas.stagedBy := by
  refine completes_status hs (exec_fwStage_done hs hloc hreach hlen (if_pos ?_))
    fun t honly hdone hend => ⟨honly, hdone, by rw [hend]; rfl⟩
  simp only [imageGood, not_and_or, Bool.not_eq_true] at hbad
  simp only [Bool.or_eq_true, Bool.not_eq_true', or_assoc]
  exact hbad

variable (hgood : imageGood s (buf.take (bufOf c.entry).len))
include hgood

omit hs hloc hreach hlen in
theorem stageEnd_good : stageEnd c (buf.take (bufOf c.entry).len) (Started k s) =
    if !svnOk s (buf.take (bufOf c.entry).len) then .done stRollback 0 0 (Started k s)
    else .done stOk (BitVec.ofNat 64 (headOf (buf.take (bufOf c.entry).len)).version) 0
      (imageStaged c (buf.take (bufOf c.entry).len) (Started k s)) := by
  obtain ⟨hhead, hstage1, hstage2⟩ := hgood
  have hpass : (!headOk (buf.take (bufOf c.entry).len) || !stage1Ok s (buf.take (bufOf c.entry).len) ||
      !stage2Ok s (buf.take (bufOf c.entry).len)) = false := by
    rw [hhead, hstage1, hstage2]
    rfl
  exact if_neg (Bool.eq_false_iff.1 hpass)

theorem fwStage_old (hold : svnOk s (buf.take (bufOf c.entry).len) = false) :
    Completes (.fwStage k buf) s fun t => OnlyIn [.nutas] s t ∧ Completed k c stRollback 0 0 s t ∧
      t.nutas.stagedBy = s.nutas.stagedBy :=
  completes_status hs (exec_fwStage_done hs hloc hreach hlen
      ((stageEnd_good hgood).trans (if_pos (by rw [hold]; rfl))))
    fun t honly hdone hend => ⟨honly, hdone, by rw [hend]; rfl⟩

theorem fwStage_stages (hnew : svnOk s (buf.take (bufOf c.entry).len) = true) :
    Completes (.fwStage k buf) s fun t => OnlyIn [.nutas, .standby] s t ∧
      Completed k c stOk (BitVec.ofNat 64 (headOf (buf.take (bufOf c.entry).len)).version) 0 s t ∧
      t.standby = setSlot (!runSlot s.standby)
        ((buf.take (bufOf c.entry).len).take (imageEnd (headOf (buf.take (bufOf c.entry).len)))) s.standby ∧
      t.nutas.stagedBy = some (mbxMaster c.mbx.val) := by
  refine completes_done hs (exec_fwStage_done hs hloc hreach hlen
      ((stageEnd_good hgood).trans (if_neg (by rw [hnew]; decide)))) ⟨rfl, rfl, rfl, rfl⟩
    fun hdone => ⟨?_, hdone, rfl, rfl⟩
  exact (keeps_modNutas _ (keeps_imageStaged c _ (keeps_modNutas _ (Keeps.refl _ s) (by decide))) (by decide)).only

end

/-! ### FW_ACTIVATE -/

theorem exec_fwActivate (k : Nat) (s : State) : exec (.fwActivate k) s = execFwActivate k s := rfl

section
variable (hs : Served k 0x91 [] noChecks noBuf c s)
include hs

theorem fwActivate_none (hnone : ¬ (slotImage s.standby (!runSlot s.standby) ≠ [] ∧
      s.nutas.stagedBy = some (mbxMaster c.mbx.val))) :
    Completes (.fwActivate k) s fun t => OnlyIn [.nutas] s t ∧ Completed k c stNoStaged 0 0 s t := by
  refine completes_status hs ((exec_fwActivate k s).trans (command_done hs (if_pos ?_))) fun _ honly hdone _ => ⟨honly, hdone⟩
  rwa [not_and_or, not_not] at hnone

theorem fwActivate_waits (hstaged : slotImage s.standby (!runSlot s.standby) ≠ [] ∧
      s.nutas.stagedBy = some (mbxMaster c.mbx.val)) :
    Completes (.fwActivate k) s fun t => OnlyIn [.nutas] s t ∧ t.nutas.handover = .waiting k none ∧
      t.nutas.ready = s.nutas.ready := by
  refine completes_of_exec ((exec_fwActivate k s).trans (command_wait hs (if_neg ?_)))
    ⟨(keeps_modNutas _ (keeps_modNutas _ (Keeps.refl _ s) (by decide)) (by decide)).only, rfl, rfl⟩
  rintro (hempty | hother)
  · exact hstaged.1 hempty
  · exact hother hstaged.2

end

/-! ### The handover -/

theorem exec_handoverTickStart (s : State) : exec .handoverTickStart s = execHandoverTickStart s := rfl
theorem exec_fwActivateTimeout (s : State) : exec .fwActivateTimeout s = execFwActivateTimeout s := rfl
theorem exec_handoverReady (s : State) : exec .handoverReady s = execHandoverReady s := rfl
theorem exec_handoverReadyTimeout (s : State) : exec .handoverReadyTimeout s = execHandoverReadyTimeout s := rfl

section
variable (hup : s.standby.mainUp = true)
include hup

theorem handoverTickStart_starts {since : Nat} (hwait : s.nutas.handover = .waiting k (some since))
    (hfits : handoverFits s = true) :
    exec .handoverTickStart s = .next { s with nutas := { s.nutas with handover := .inTick k } } := by
  rw [exec_handoverTickStart]
  simp only [execHandoverTickStart, hwait]
  exact whenOk_of _ (by simp [mainUp, hup, hfits]) _

theorem fwActivateTimeout_ends {since : Nat} (hwait : s.nutas.handover = .waiting k (some since))
    (hlate : since + 65536 ≤ s.clock.tick.toNat) (hfound : (s.nutas.cmds.find? fun x => x.num == k) = some c)
    (hrst : (mbxOf s c.mbx.val).rst = false) :
    Completes .fwActivateTimeout s fun t => OnlyIn [.nutas] s t ∧ t.nutas.handover = .none ∧
      Completed k c stPlanRunning 0 0 s t := by
  have hexec : exec .fwActivateTimeout s =
      .next (complete k stPlanRunning 0 0 (modNutas (fun n => { n with handover := .none }) s)) := by
    rw [exec_fwActivateTimeout]
    simp only [execFwActivateTimeout, hwait]
    exact whenOk_of _ (by simp [mainUp, hup, hlate]) _
  rw [complete_eq_ended (u := modNutas _ s) hfound hrst] at hexec
  exact completes_of_exec hexec
    ⟨(keeps_modNutas _ (keeps_modNutas _ (Keeps.refl _ s) (by decide)) (by decide)).only, rfl, rfl, rfl, rfl⟩

theorem handoverReadyTimeout_fails (hin : s.nutas.handover = .inTick k) (hlate : 12288 < s.clock.ck) :
    exec .handoverReadyTimeout s = .next { s with nutas := { s.nutas with handover := .failed k } } := by
  rw [exec_handoverReadyTimeout]
  simp only [execHandoverReadyTimeout, hin]
  exact whenOk_of _ (by simp [mainUp, hup, hlate]) _

/-- The staged image runs. -/
def imageRuns (s : State) : State :=
  identify (slotImage s.standby (!runSlot s.standby))
    (modStandby (fun b => { b with slot := !runSlot s.standby, bootSlot := !runSlot s.standby }) s)

omit hup in
theorem keeps_imageRuns (s : State) : Keeps [.nutas, .standby, .sec] s (imageRuns s) :=
  keeps_identify _ (keeps_modStandby _ (Keeps.refl _ s) (by decide) rfl (Nat.le_refl _) (by simp)) (by decide)

omit hup in
/-- The rollback counter moves on to the image's SVN, and no other field of the standby partition that the handover names
does. -/
theorem advanceRollback_standby (s : State) :
    (advanceRollback s).standby.slot = s.standby.slot ∧ (advanceRollback s).standby.bootSlot = s.standby.bootSlot ∧
    (advanceRollback s).standby.imgA = s.standby.imgA ∧ (advanceRollback s).standby.imgB = s.standby.imgB ∧
    (advanceRollback s).standby.rollback =
      if s.sec.commit = true ∧ s.standby.rollback < s.sec.svn.toNat then s.sec.svn.toNat else s.standby.rollback := by
  unfold advanceRollback
  dsimp only
  split
  · rename_i h
    rw [Bool.and_eq_true, decide_eq_true_eq] at h
    exact ⟨rfl, rfl, rfl, rfl, (if_pos h).symm⟩
  · rename_i h
    rw [Bool.and_eq_true, decide_eq_true_eq] at h
    exact ⟨rfl, rfl, rfl, rfl, (if_neg h).symm⟩

omit hup in
theorem headOf_svn_lt (l : List Byte) : (headOf l).svn < 2 ^ 32 :=
  Nat.lt_of_lt_of_le (ofBytes_lt _) (Nat.pow_le_pow_right (by decide) (List.length_take_le _ _))

theorem handoverReady_runs (hin : s.nutas.handover = .inTick k) (hearly : s.clock.ck ≤ 12288)
    (hfound : (s.nutas.cmds.find? fun x => x.num == k) = some c) (hrst : (mbxOf s c.mbx.val).rst = false) :
    let other := !runSlot s.standby
    let h := headOf (slotImage s.standby other)
    Completes .handoverReady s fun t => OnlyIn [.nutas, .standby, .sec] s t ∧ t.standby.slot = other ∧
      t.standby.bootSlot = other ∧ t.standby.imgA = s.standby.imgA ∧ t.standby.imgB = s.standby.imgB ∧
      t.nutas.handover = .none ∧ t.nutas.stagedBy = none ∧
      Completed k c stOk ((BitVec.ofNat 32 h.version).setWidth 64) (s.clock.tick.setWidth 64) s t ∧
      t.sec.version = BitVec.ofNat 32 h.version ∧
      t.standby.rollback = if h.commit = true ∧ s.standby.rollback < h.svn then h.svn else s.standby.rollback := by
  intro other h
  have hexec : exec .handoverReady s = .next (handOver k s) := by
    rw [exec_handoverReady]
    simp only [execHandoverReady, hin]
    exact whenOk_of _ (by simp [mainUp, hup, hearly]) _
  have hkeep := keeps_advanceRollback (keeps_imageRuns s) (by decide)
  obtain ⟨hslot, hboot, himgA, himgB, hroll⟩ := advanceRollback_standby (imageRuns s)
  have hadvance := keeps_advanceRollback (.refl [.standby] (imageRuns s)) (by decide)
  have hnutas : (advanceRollback (imageRuns s)).nutas = s.nutas := (nutas_same hadvance (by decide)).trans rfl
  have hmbxs : (advanceRollback (imageRuns s)).mbxs = s.mbxs := mbxs_same hkeep (by decide)
  have hclock : (advanceRollback (imageRuns s)).clock = s.clock := clock_same hkeep (by decide)
  have hsec : (advanceRollback (imageRuns s)).sec = (imageRuns s).sec :=
    hadvance.only.sec.resolve_left (by decide)
  obtain ⟨u, hu⟩ : ∃ u, modNutas (fun n => { n with handover := .none, stagedBy := none }) (advanceRollback (imageRuns s)) = u :=
    ⟨_, rfl⟩
  have hend : handOver k s = ended k (completionOf u c stOk (u.sec.version.setWidth 64) (u.clock.tick.setWidth 64)) u := by
    have hcomplete : handOver k s = complete k stOk (u.sec.version.setWidth 64) (u.clock.tick.setWidth 64) u := by
      rw [← hu]
      rfl
    refine hcomplete.trans (complete_eq_ended ?_ ?_ _ _ _)
    · rw [← hu, ← hfound, ← hnutas]
      rfl
    · rw [← hu, ← hrst]
      exact congrArg Mbx.rst (mbxOf_congr (t := modNutas _ (advanceRollback (imageRuns s))) hmbxs c.mbx.val)
  have hversion : u.sec.version = BitVec.ofNat 32 h.version := by
    rw [← hu]
    exact congrArg Security.version hsec
  have htick : u.clock = s.clock := by rw [← hu]; exact hclock
  rw [hend, hversion, htick] at hexec
  refine completes_of_exec hexec ⟨?_, ?_, ?_, ?_, ?_, ?_, ?_, ⟨?_, ?_, ?_⟩, hversion, ?_⟩
  · rw [← hu]
    exact (keeps_modNutas _ (keeps_modNutas _ hkeep (by decide)) (by decide)).only
  all_goals rw [← hu]
  · exact hslot
  · exact hboot
  · exact himgA
  · exact himgB
  · rfl
  · rfl
  · exact congrArg (fun n : Nutas => n.cmds.filter fun x => x.num != k) hnutas
  · have hl := completionOf_congr (c := c) (d := c) (congrArg Clock.tick hclock) rfl rfl stOk
      ((BitVec.ofNat 32 h.version).setWidth 64) (s.clock.tick.setWidth 64)
    exact congr (congrArg (fun n : Nutas => (n.ready ++ [·])) hnutas) hl
  · exact hmbxs
  · refine hroll.trans ?_
    have hsvn : (imageRuns s).sec.svn.toNat = h.svn := by
      exact Nat.mod_eq_of_lt (headOf_svn_lt _)
    rw [hsvn]
    rfl

end

/-! ### SUBST and SPARE_TEST -/

theorem exec_subst (k : Nat) (s : State) : exec (.subst k) s = execSubst k s := rfl
theorem exec_spareTest (k : Nat) (pass : Bool) (s : State) : exec (.spareTest k pass) s = execSpareTest k pass s := rfl

theorem posState_started (k p : Nat) (s : State) : posState (Started k s) p = posState s p := rfl

/-- A command that names an invalid target ends with the record of it. -/
theorem completes_invalidTarget {opc pos : Nat} {used : List (Nat × Nat)} {checks : Cmd → State → List (Nat × Bool)}
    {need : Cmd → Option Nat} {i : Instr} (hs : Served k opc used checks need c s)
    (hexec : exec i s = .next (complete k stInvalidTarget 0 0 (invalidTarget pos (Started k s)))) :
    Completes i s fun t => Completed k c stInvalidTarget 0 0 s t ∧ Recorded 0x17 blkLocket s t :=
  completes_done hs hexec
    ((StartedIn.refl k s).keeps (keeps_invalidTarget pos (.refl [.ledger, .faults] (Started k s)) (by decide)))
    fun hdone => ⟨hdone, recorded_recordAddr (s := s) (t := Started k s) rfl rfl _ _ _ _⟩

/-- The next boundary is forced to be an overrun. -/
def substForced (s : State) : State := { s with clock := { s.clock with forceSubst := true } }

theorem keeps_substForced {ps : List Part} {s0 : State} (h : Keeps ps s0 s) (hp : sub [.clock] ps = true) :
    Keeps ps s0 (substForced s) := by
  unfold substForced
  dsimp only [keeps_mk]
  exact KeepsMk.w_clock h (sub_mem (by decide) hp) fun hck => hck

section
variable (hs : Served k 0xA0 [(24, 0xFF), (25, 0xFF), (26, 0xFF)]
  (fun c t => stringChecks c t ++ [(26, decide (entryByte c.entry 26 < 9))]) noBuf c s)
include hs

theorem subst_unnamed (hp : ¬ (namedPos c % 9 ≠ 8 ∧ posState s (namedPos c) ≠ 7 ∧ posState s (namedPos c) ≠ 5)) :
    Completes (.subst k) s fun t => Completed k c stInvalidTarget 0 0 s t ∧ Recorded 0x17 blkLocket s t := by
  refine completes_invalidTarget hs ((exec_subst k s).trans (command_done hs (if_pos ?_)))
  simp only [posState_started]
  omega

variable (hp : namedPos c % 9 ≠ 8 ∧ posState s (namedPos c) ≠ 7 ∧ posState s (namedPos c) ≠ 5)
include hp

theorem subst_noSpare (hspare : posState s (spareOf (namedPos c)) ≠ 2) :
    Completes (.subst k) s fun t => OnlyIn [.nutas] s t ∧ Completed k c stNoSpare 0 0 s t :=
  completes_status hs ((exec_subst k s).trans (command_done hs
      ((if_neg (by simp only [posState_started]; omega)).trans (if_pos hspare))))
    fun _ honly hdone _ => ⟨honly, hdone⟩

theorem subst_waits (hspare : posState s (spareOf (namedPos c)) = 2) :
    Completes (.subst k) s fun t => OnlyIn [.nutas, .clock] s t ∧ WaitsAs k (.subst k (namedPos c)) s t ∧
      t.clock = if s.clock.mode = .scheduled then { s.clock with forceSubst := true } else s.clock := by
  refine completes_of_exec ((exec_subst k s).trans (command_wait hs (u := if s.clock.mode = .scheduled then
      substForced (waitFor (.subst k (namedPos c)) (Started k s)) else waitFor (.subst k (namedPos c)) (Started k s))
    ((if_neg (by simp only [posState_started]; omega)).trans (if_neg (not_not.2 hspare))))) ?_
  have hkeep : Keeps [.nutas, .clock] s (waitFor (.subst k (namedPos c)) (Started k s)) :=
    keeps_modNutas _ (keeps_modNutas _ (Keeps.refl _ s) (by decide)) (by decide)
  split
  · exact ⟨(keeps_substForced hkeep (by decide)).only, ⟨rfl, rfl, rfl, rfl⟩, rfl⟩
  · exact ⟨hkeep.only, ⟨rfl, rfl, rfl, rfl⟩, rfl⟩

end

/-- The spare that SPARE_TEST names. -/
def namedSpare (c : Cmd) : Nat := entryByte c.entry 24 * 144 + entryByte c.entry 25 * 9 + 8

section
variable {pass : Bool} (hs : Served k 0xA1 [(24, 0xFF), (25, 0xFF), (26, 0xFF)] stringChecks noBuf c s)
include hs

theorem spareTest_sets (hst : posState s (namedSpare c) = 2 ∨ posState s (namedSpare c) = 6)
    (hfree : stringBusy s (namedSpare c) = false) :
    Completes (.spareTest k pass) s fun t => OnlyIn [.nutas] s t ∧
      posState t (namedSpare c) = (if pass = true then 2 else 6) ∧
      (∀ p, p ≠ namedSpare c → posState t p = posState s p) ∧
      Completed k c stOk (if pass = true then 2 else 6) 0 s t := by
  have hcode : (if pass = true then (2 : Word) else 6) = BitVec.ofNat 64 (if pass = true then 2 else 6) := by
    cases pass <;> rfl
  rw [hcode]
  have hpos (p : Nat) : posState (setPos (namedSpare c) (if pass = true then 2 else 6) (Started k s)) p =
      posState (setPos (namedSpare c) (if pass = true then 2 else 6) s) p := rfl
  have hkeep : Keeps [.nutas] s (setPos (namedSpare c) (if pass = true then 2 else 6) (Started k s)) :=
    keeps_setPos _ _ (keeps_modNutas _ (Keeps.refl _ s) (by decide)) (by decide)
  have hdo : ¬ ((posState s (namedSpare c) ≠ 2 ∧ posState s (namedSpare c) ≠ 6) ∨ stringBusy s (namedSpare c) = true) := by
    rw [hfree]
    rintro (⟨h2, h6⟩ | hbusy)
    · exact hst.elim h2 h6
    · exact absurd hbusy (by decide)
  refine completes_done (u := setPos (namedSpare c) (if pass = true then 2 else 6) (Started k s)) hs
    ((exec_spareTest k pass s).trans (command_done hs ((if_neg ?_).trans (if_neg hdo)))) ⟨rfl, rfl, rfl, rfl⟩
    fun hdone => ⟨(keeps_modNutas _ hkeep (by decide)).only, (hpos _).trans ?_, fun p hp => (hpos p).trans ?_, hdone⟩
  · intro h7
    exact hst.elim (fun h => absurd (h.symm.trans h7) (by decide)) (fun h => absurd (h.symm.trans h7) (by decide))
  · simp only [posState, setPos, tblGet_tblPut_same]
    cases pass <;> rfl
  · simp only [posState, setPos, tblGet_tblPut_other _ _ _ _ _ hp]
    rfl

theorem spareTest_absent (hst : posState s (namedSpare c) = 7) :
    Completes (.spareTest k pass) s fun t => Completed k c stInvalidTarget 0 0 s t ∧ Recorded 0x17 blkLocket s t :=
  completes_invalidTarget hs ((exec_spareTest k pass s).trans (command_done hs (if_pos hst)))

theorem spareTest_noSpare (hready : posState s (namedSpare c) ≠ 2) (hbad : posState s (namedSpare c) ≠ 6)
    (hthere : posState s (namedSpare c) ≠ 7) :
    Completes (.spareTest k pass) s fun t => OnlyIn [.nutas] s t ∧ Completed k c stNoSpare 0 0 s t :=
  completes_status hs ((exec_spareTest k pass s).trans (command_done hs
      ((if_neg hthere).trans (if_pos (.inl ⟨hready, hbad⟩)))))
    fun _ honly hdone _ => ⟨honly, hdone⟩

end

end

/-- Settles O56: one lemma for each outcome of each command, and of the steps of the handover. -/
theorem firmwareAndSparesAreHandedOver : Obligations.FirmwareAndSparesAreHandedOver := by
  unfold Obligations.FirmwareAndSparesAreHandedOver
  intro s k c
  exact ⟨fun buf hs hloc hreach hlen => ⟨fwStage_bad hs hloc hreach hlen, fun hgood => fwStage_old hs hloc hreach hlen hgood,
      fun hgood => fwStage_stages hs hloc hreach hlen hgood⟩,
    fun hs => ⟨fwActivate_none hs, fwActivate_waits hs⟩,
    fun _ hwait hup => handoverTickStart_starts hup hwait,
    fun _ hwait hup => fwActivateTimeout_ends hup hwait,
    fun hin hup => ⟨handoverReadyTimeout_fails hup hin, handoverReady_runs hup hin⟩,
    fun hs => ⟨subst_unnamed hs, subst_noSpare hs, subst_waits hs⟩,
    fun _ hs => ⟨spareTest_sets hs, spareTest_absent hs, spareTest_noSpare hs⟩⟩

end Sys2Proof.Proofs
end

section
/-! Facts about the management lane: what waits leaves with the window's room, and what is not acknowledged leaves again. -/

namespace Sys2Proof.Proofs

open Sys2Proof Sys2Proof.Machine Sys2Proof.Laws

section
variable {s t u : State}

/-! ### The window -/

theorem mgmtPump_of_empty (h : s.mgmt.waiting = []) : mgmtPump s = s := by
  rw [mgmtPump, h]
  rfl

theorem mgmtPump_of_down (h : s.mgmt.up = false) : mgmtPump s = s := by
  refine upTo_same fun _ _ => ?_
  split
  · rfl
  · rw [h]
    rfl

/-- The first `n` packets that wait have left. -/
def pumped (n : Nat) (s : State) : State :=
  { s with
    out := s.out ++ (List.range n).map fun i =>
      mgmtOut s 1 (s.mgmt.txSeq + BitVec.ofNat 8 i) (nth { bytes := [] } s.mgmt.waiting i).bytes
    mgmt := { s.mgmt with
      txSeq := s.mgmt.txSeq + BitVec.ofNat 8 n
      unacked := s.mgmt.unacked ++ (List.range n).map fun i =>
        { seq := s.mgmt.txSeq + BitVec.ofNat 8 i, pkt := nth { bytes := [] } s.mgmt.waiting i }
      waiting := s.mgmt.waiting.drop n } }

theorem pumped_zero (s : State) : pumped 0 s = s := by
  simp [pumped]

theorem mgmtPump_fits (hup : s.mgmt.up = true) (hroom : s.mgmt.unacked.length + s.mgmt.waiting.length ≤ 8) :
    mgmtPump s = pumped s.mgmt.waiting.length s := by
  have hsteps : ∀ n ≤ s.mgmt.waiting.length, upTo n (fun t _ =>
      match t.mgmt.waiting with
      | [] => t
      | p :: r =>
        if t.mgmt.up && decide (t.mgmt.unacked.length < 8) then
          sendData t.mgmt.txSeq p (modMgmt (fun m => { m with
            txSeq := m.txSeq + 1
            unacked := m.unacked ++ [{ seq := m.txSeq, pkt := p }]
            waiting := r }) t)
        else t) s = pumped n s := by
    intro n hn
    induction n with
    | zero => exact (pumped_zero s).symm
    | succ n ih =>
      rw [upTo_succ, ih (by omega)]
      have hdrop : s.mgmt.waiting.drop n = nth { bytes := [] } s.mgmt.waiting n :: s.mgmt.waiting.drop (n + 1) := by
        rw [nth, List.getD_eq_getElem _ _ hn]
        exact List.drop_eq_getElem_cons hn
      have hfree : (pumped n s).mgmt.unacked.length < 8 := by
        simp only [pumped, List.length_append, List.length_map, List.length_range]
        omega
      have hopen : ((pumped n s).mgmt.up && decide ((pumped n s).mgmt.unacked.length < 8)) = true := by
        rw [decide_eq_true hfree, Bool.and_true]
        exact hup
      have hnext : s.mgmt.txSeq + BitVec.ofNat 8 n + 1 = s.mgmt.txSeq + BitVec.ofNat 8 (n + 1) := by
        rw [BitVec.add_assoc, BitVec.ofNat_add]
        rfl
      rw [show (pumped n s).mgmt.waiting = _ from hdrop]
      dsimp only
      rw [if_pos hopen]
      simp only [sendData, emit, modMgmt, pumped, mgmtOut, List.range_succ, List.map_append, List.map_cons, List.map_nil,
        List.append_assoc, hnext]
  exact hsteps _ (Nat.le_refl _)

/-- `t` is `s` but for the lane's window, what waits for it, and what has left. -/
def WindowMoved (s t : State) : Prop := ∃ tx un wait, t.mgmt = { s.mgmt with txSeq := tx, unacked := un, waiting := wait }

theorem windowMoved_trans (h : WindowMoved s t) (h' : WindowMoved t u) : WindowMoved s u := by
  obtain ⟨_, _, _, h⟩ := h
  obtain ⟨tx, un, wait, h'⟩ := h'
  exact ⟨tx, un, wait, by rw [h', h]⟩

theorem windowMoved_mgmtPump (s : State) : WindowMoved s (mgmtPump s) := by
  unfold mgmtPump
  generalize s.mgmt.waiting.length = n
  induction n with
  | zero => exact ⟨_, _, _, rfl⟩
  | succ n ih =>
    rw [upTo_succ]
    refine windowMoved_trans ih ?_
    generalize upTo n _ s = t
    split
    · exact ⟨_, _, _, rfl⟩
    · split
      · exact ⟨_, _, _, rfl⟩
      · exact ⟨_, _, _, rfl⟩

/-! ### Messages -/

/-- Two states whose lanes send alike. -/
structure SameLane (s u : State) : Prop where
  up : u.mgmt.up = s.mgmt.up
  waiting : u.mgmt.waiting = s.mgmt.waiting
  unacked : u.mgmt.unacked = s.mgmt.unacked
  txSeq : u.mgmt.txSeq = s.mgmt.txSeq
  rxLast : u.mgmt.rxLast = s.mgmt.rxLast
  out : u.out = s.out

theorem windowMoved_mgmtQueue (dst : BitVec 8) (owner : Bool) (tag : BitVec 3) (body : List Byte) (cpl : Bool) (s : State) :
    WindowMoved s (mgmtQueue dst owner tag body cpl s) :=
  windowMoved_trans ⟨_, _, _, rfl⟩ (windowMoved_mgmtPump _)

/-- Packets have joined those that wait for the lane. -/
def queuedPackets (ps : List MgmtPkt) (s : State) : State := modMgmt (fun m => { m with waiting := m.waiting ++ ps }) s

theorem mgmtSends_mgmtQueue (h : SameLane s u) (dst : BitVec 8) (owner : Bool) (tag : BitVec 3) (body : List Byte)
    (cpl : Bool) : MgmtSends dst owner tag body cpl s (mgmtQueue dst owner tag body cpl u) := by
  obtain ⟨hup, hwaiting, hunacked, htx, hrx, hout⟩ := h
  have heid : (mgmtQueue dst owner tag body cpl u).mgmt.eid = u.mgmt.eid := by
    obtain ⟨_, _, _, hm⟩ := windowMoved_mgmtQueue dst owner tag body cpl u
    rw [hm]
  rw [MgmtSends, heid]
  generalize hps : mctpPackets dst u.mgmt.eid owner tag body cpl = ps
  have hqueue : mgmtQueue dst owner tag body cpl u = mgmtPump (queuedPackets ps u) := by
    rw [← hps]
    rfl
  rw [hqueue]
  refine ⟨fun hon hnone hroom => ?_, fun hoff => ?_⟩
  · have hwait : u.mgmt.waiting ++ ps = ps := by rw [hwaiting, hnone, List.nil_append]
    rw [mgmtPump_fits (s := queuedPackets ps u) (hup.trans hon)]
    · refine ⟨?_, ?_⟩
      · exact List.drop_length
      · simp only [pumped, queuedPackets, modMgmt, hwait, hout, htx, mgmtOut, hrx]
    · simpa only [queuedPackets, modMgmt, hwait, hunacked] using hroom
  · rw [mgmtPump_of_down (s := queuedPackets ps u) (hup.trans hoff)]
    exact ⟨hout, congrArg (· ++ ps) hwaiting⟩

theorem mgmtSends_thOwn {opc : Nat} {rest body : List Byte} {cpl : Bool} (h : SameLane s u)
    (hbody : [0x7F] ++ ianaBytes ++ toBytes 1 opc ++ [0x80, 0, 0] ++ rest = body) :
    MgmtSends u.mgmt.boss true u.mgmt.ownTag body cpl s (thOwn opc rest cpl u) := by
  rw [thOwn, hbody, mgmtOwn]
  exact mgmtSends_mgmtQueue (u := modMgmt (fun m => { m with ownTag := m.ownTag + 1 }) u)
    ⟨h.up, h.waiting, h.unacked, h.txSeq, h.rxLast, h.out⟩ _ _ _ _ _

theorem windowMoved_thOwn (opc : Nat) (body : List Byte) (cpl : Bool) (s : State) :
    WindowMoved (modMgmt (fun m => { m with ownTag := m.ownTag + 1 }) s) (thOwn opc body cpl s) :=
  windowMoved_mgmtQueue _ _ _ _ _ _

theorem ctlAnswers_ctlAnswer (h : SameLane s u) (r : MgmtReq) (code : Nat) (body : List Byte) :
    CtlAnswers r code body s (ctlAnswer r code body u) :=
  mgmtSends_mgmtQueue h _ _ _ _ _

theorem windowMoved_ctlAnswer (r : MgmtReq) (code : Nat) (body : List Byte) (s : State) :
    WindowMoved s (ctlAnswer r code body s) :=
  windowMoved_mgmtQueue _ _ _ _ _ _

/-! ### Acknowledgements and resends -/

/-- The frames that leave again. -/
def againFrames (s : State) (l : List MgmtSent) : List OutMsg :=
  l.map fun x => OutMsg.mgmt (mgmtFrame 1 x.seq s.mgmt.rxLast x.pkt.bytes)

theorem sendAgain_eq (s : State) : sendAgain s = { s with out := s.out ++ againFrames s s.mgmt.unacked } := by
  have hall : ∀ (l : List MgmtSent) (t : State), l.foldl (fun t x => sendData x.seq x.pkt t) t =
      { t with out := t.out ++ againFrames t l } := by
    intro l
    induction l with
    | nil => exact fun t => by simp [againFrames]
    | cons x l ih =>
      intro t
      rw [List.foldl_cons, ih]
      simp [sendData, emit, mgmtOut, againFrames]
  exact hall _ s

/-- The frames with one more resend each. -/
def resentOnce (l : List MgmtSent) : List MgmtSent := l.map fun x => { x with resends := x.resends + 1 }

theorem againFrames_resentOnce (s : State) (l : List MgmtSent) : againFrames s (resentOnce l) = againFrames s l := by
  simp only [againFrames, resentOnce, List.map_map]
  rfl

/-- The frames not acknowledged leave again; the lane goes down where `down` says so. -/
def resentAll (down : Bool) (s : State) : State :=
  { s with
    out := s.out ++ againFrames s s.mgmt.unacked
    mgmt := { s.mgmt with unacked := resentOnce s.mgmt.unacked, up := if down then false else s.mgmt.up } }

theorem mgmtResend_eq (s : State) : mgmtResend s = resentAll (s.mgmt.unacked.any fun x => decide (15 ≤ x.resends)) s := by
  have hany : ((resentOnce s.mgmt.unacked).any fun x => decide (16 ≤ x.resends)) =
      s.mgmt.unacked.any fun x => decide (15 ≤ x.resends) := by
    simp [resentOnce, List.any_map, Function.comp_def]
  have hagain : sendAgain (modMgmt (fun m => { m with unacked := resentOnce m.unacked }) s) = resentAll false s := by
    rw [sendAgain_eq]
    simp only [resentAll, modMgmt, againFrames_resentOnce]
    rfl
  change (if (resentOnce s.mgmt.unacked).any (fun x => decide (16 ≤ x.resends)) = true then
    mgmtDown (sendAgain (modMgmt (fun m => { m with unacked := resentOnce m.unacked }) s)) else
    sendAgain (modMgmt (fun m => { m with unacked := resentOnce m.unacked }) s)) = _
  rw [hany, hagain]
  cases s.mgmt.unacked.any fun x => decide (15 ≤ x.resends) <;> rfl

theorem mgmtResend_few (h : ∀ x ∈ s.mgmt.unacked, x.resends < 15) : mgmtResend s = resentAll false s := by
  have hany : (s.mgmt.unacked.any fun x => decide (15 ≤ x.resends)) = false := by simpa using h
  rw [mgmtResend_eq, hany]

theorem mgmtResend_last (h : ∃ x ∈ s.mgmt.unacked, 15 ≤ x.resends) : mgmtResend s = resentAll true s := by
  have hany : (s.mgmt.unacked.any fun x => decide (15 ≤ x.resends)) = true := by simpa using h
  rw [mgmtResend_eq, hany]

theorem mgmtAckIn_of_empty (ack : BitVec 8) (h : s.mgmt.waiting = []) : mgmtAckIn ack s = mgmtAcked ack s :=
  mgmtPump_of_empty (s := mgmtAcked ack s) h

end

end Sys2Proof.Proofs
end

section
/-! Proofs for chapter 18: frames, timers and messages of the management lane. -/

namespace Sys2Proof.Proofs

open Sys2Proof Sys2Proof.Machine Sys2Proof.Laws

theorem exec_mgmtDataFrame (f : MgmtFrame) (s : State) : exec (.mgmtDataFrame f) s = execMgmtDataFrame f s := rfl
theorem exec_mgmtAckFrame (f : MgmtFrame) (s : State) : exec (.mgmtAckFrame f) s = execMgmtAckFrame f s := rfl
theorem exec_mgmtIdleFrame (f : MgmtFrame) (s : State) : exec (.mgmtIdleFrame f) s = execMgmtIdleFrame f s := rfl
theorem exec_mgmtNakFrame (f : MgmtFrame) (s : State) : exec (.mgmtNakFrame f) s = execMgmtNakFrame f s := rfl
theorem exec_mgmtResendTimeout (s : State) : exec .mgmtResendTimeout s = execMgmtResendTimeout s := rfl
theorem exec_mgmtIdleTimeout (s : State) : exec .mgmtIdleTimeout s = execMgmtIdleTimeout s := rfl
theorem exec_mgmtLaneDownTimeout (s : State) : exec .mgmtLaneDownTimeout s = execMgmtLaneDownTimeout s := rfl
theorem exec_mgmtLaneUp (s : State) : exec .mgmtLaneUp s = execMgmtLaneUp s := rfl
theorem exec_mgmtEventSend (s : State) : exec .mgmtEventSend s = execMgmtEventSend s := rfl
theorem exec_mbxCpl (s : State) : exec .mbxCpl s = execMbxCpl s := rfl
theorem exec_setEndpointId (s : State) : exec .setEndpointId s = execSetEndpointId s := rfl
theorem exec_getEndpointId (s : State) : exec .getEndpointId s = execGetEndpointId s := rfl
theorem exec_getMctpVersionSupport (s : State) : exec .getMctpVersionSupport s = execGetMctpVersionSupport s := rfl
theorem exec_getMessageTypeSupport (s : State) : exec .getMessageTypeSupport s = execGetMessageTypeSupport s := rfl
theorem exec_getVendorDefinedMsgSupport (s : State) :
    exec .getVendorDefinedMsgSupport s = execGetVendorDefinedMsgSupport s := rfl

section
variable {s : State} {f : MgmtFrame}

/-! ### Frames that arrive -/

section
variable (hlane : mgmtUp s = true)
include hlane

theorem exec_frameIn {typ : BitVec 4} {act : BitVec 8 → State → State} (htyp : f.typ = typ) (hok : frameOk f = true) :
    Machine.frameIn typ (frameOk f) f act s = .next (act f.ackSeq s) :=
  whenOk_of _ (by simp [hlane, htyp, hok]) _

theorem mgmtDataFrame_refused (htyp : f.typ = 1) (hbad : frameOk f = false ∨ f.seq ≠ s.mgmt.rxLast + 1) :
    exec (.mgmtDataFrame f) s = .next { s with out := s.out ++ [.mgmt (mgmtFrame 3 0 s.mgmt.rxLast [])] } := by
  have hno : (frameOk f && dataOk s f) = false := by
    rcases hbad with hbad | hbad
    · rw [hbad, Bool.false_and]
    · rw [dataOk, beq_false_of_ne hbad, Bool.false_and, Bool.and_false]
  refine (exec_mgmtDataFrame f s).trans ((whenOk_of _ (by simp [hlane, htyp]) _).trans ?_)
  rw [dataIn, hno]
  rfl

omit hlane in
theorem mgmtDataFrame_otherType (htyp : f.typ ≠ 1) : exec (.mgmtDataFrame f) s = .next s := by
  have hno : (mgmtUp s && f.typ == 1) = false := by rw [beq_false_of_ne htyp, Bool.and_false]
  rw [exec_mgmtDataFrame, execMgmtDataFrame, hno]
  exact whenOk_false s _

omit hlane in
theorem frameIn_otherType {typ : BitVec 4} {act : BitVec 8 → State → State} (h : frameOk f = false ∨ f.typ ≠ typ) :
    Machine.frameIn typ (frameOk f) f act s = .next s := by
  have hno : (mgmtUp s && f.typ == typ && frameOk f) = false := by
    rcases h with h | h
    · rw [h, Bool.and_false]
    · rw [beq_false_of_ne h, Bool.and_false, Bool.false_and]
  rw [Machine.frameIn, hno]
  exact whenOk_false s _

omit hlane in
/-- A whole message in one packet: the control request that it is waits for its row. -/
theorem packetIn_control {src flags : Byte} {tag : Nat} {body : List Byte} {u : State}
    (hwhole : flags.toNat / 64 = 3) (howner : flags.getLsbD 3 = true) (htag : flags.toNat % 8 = tag)
    (hlen : body.length ≤ 1024) (hctl : isControl { src := src, tag := BitVec.ofNat 3 tag, body := body } = true)
    (hknown : ctlKnown (ctlCmd { src := src, tag := BitVec.ofNat 3 tag, body := body }) = true) :
    packetIn ([0x01, u.mgmt.eid, src, flags] ++ body) u = modMgmt (fun m => { m with
      partial_ := none, msgs := m.msgs ++ [{ src := src, tag := BitVec.ofNat 3 tag, body := body }] }) u := by
  have hsom : bitOf flags.toNat 7 = true := by
    have := flags.isLt
    simp only [bitOf, beq_iff_eq]
    omega
  have heom : bitOf flags.toNat 6 = true := by
    simp only [bitOf, beq_iff_eq]
    omega
  have hto : bitOf flags.toNat 3 = true := by rw [bitOf_toNat, howner]
  have htag' : bitsOf flags.toNat 0 3 = tag := by
    simp only [bitsOf]
    omega
  have hfits : ¬ mctpMax < body.length := by
    simp only [mctpMax]
    omega
  simp only [packetIn, List.cons_append, List.nil_append, nth, List.getD_cons_zero, List.getD_cons_succ, List.length_cons,
    hsom, heom, hto, htag', Bool.not_true]
  rw [if_neg (by simp [bitsOf])]
  simp only [if_true, List.drop_succ_cons, List.drop_zero, List.nil_append, if_neg hfits, messageIn, hctl, hknown]
  rfl

theorem mgmtDataFrame_control {src flags : Byte} {tag : Nat} {body : List Byte} (hsize : f.payload.length ≤ 1024)
    (htyp : f.typ = 1) (hok : frameOk f = true) (hseq : f.seq = s.mgmt.rxLast + 1) (hwaiting : s.mgmt.waiting = [])
    (hpayload : f.payload = [0x01, s.mgmt.eid, src, flags] ++ body) (hwhole : flags.toNat / 64 = 3)
    (howner : flags.getLsbD 3 = true) (htag : flags.toNat % 8 = tag)
    (hctl : isControl { src := src, tag := BitVec.ofNat 3 tag, body := body } = true)
    (hknown : ctlKnown (ctlCmd { src := src, tag := BitVec.ofNat 3 tag, body := body }) = true) :
    Completes (.mgmtDataFrame f) s fun t =>
      t.mgmt.msgs = s.mgmt.msgs ++ [{ src := src, tag := BitVec.ofNat 3 tag, body := body }] ∧ t.mgmt.rxLast = f.seq ∧
      t.mgmt.unacked = s.mgmt.unacked.drop (ackedBy s.mgmt.unacked f.ackSeq) ∧
      t.out = s.out ++ [.mgmt (mgmtFrame 2 0 f.seq [])] := by
  have hyes : (frameOk f && dataOk s f) = true := by
    rw [hok, dataOk, hseq]
    simp [hsize]
  have hlen : body.length ≤ 1024 := by
    rw [hpayload] at hsize
    simp only [List.length_append, List.length_cons] at hsize
    omega
  obtain ⟨t, ht⟩ : ∃ t, modMgmt (fun m => { m with rxLast := f.seq }) s = t := ⟨_, rfl⟩
  have hack : mgmtAckIn f.ackSeq t = mgmtAcked f.ackSeq t := mgmtAckIn_of_empty _ (by rw [← ht]; exact hwaiting)
  refine completes_of_exec ((exec_mgmtDataFrame f s).trans ((whenOk_of _ (by simp [hlane, htyp]) _).trans
    (congrArg Host.Outcome.next ((if_pos hyes).trans ?_))))
    (t := modMgmt (fun m => { m with
      partial_ := none, msgs := m.msgs ++ [{ src := src, tag := BitVec.ofNat 3 tag, body := body }] })
      (emit (mgmtOut t 2 0 []) (mgmtAcked f.ackSeq t))) ?_
  · dsimp only
    rw [ht, hack, hpayload]
    have heid : s.mgmt.eid = (emit (mgmtOut t 2 0 []) (mgmtAcked f.ackSeq t)).mgmt.eid := by rw [← ht]; rfl
    rw [heid]
    exact packetIn_control hwhole howner htag hlen hctl hknown
  · rw [← ht]
    exact ⟨rfl, rfl, rfl, rfl⟩

/-- What an acknowledgement leaves of a lane for which nothing waits. -/
theorem acknowledges {i : Instr} (hwaiting : s.mgmt.waiting = []) (hexec : exec i s = .next (mgmtAckIn f.ackSeq s)) :
    Completes i s fun t => t.out = s.out ∧ t.mgmt.unacked = s.mgmt.unacked.drop (ackedBy s.mgmt.unacked f.ackSeq) ∧
      t.mgmt.msgs = s.mgmt.msgs ∧ t.mgmt.up = true ∧ t.mgmt.cplRing =
        s.mgmt.cplRing.drop (countIf (fun x => x.pkt.cpl) (s.mgmt.unacked.take (ackedBy s.mgmt.unacked f.ackSeq))) := by
  rw [mgmtAckIn_of_empty _ hwaiting] at hexec
  refine completes_of_exec hexec ⟨rfl, rfl, rfl, ?_, rfl⟩
  exact (Bool.and_eq_true_iff.1 hlane).2

theorem mgmtNakFrame_resends (htyp : f.typ = 3) (hok : frameOk f = true) (hwaiting : s.mgmt.waiting = []) :
    let left := s.mgmt.unacked.drop (ackedBy s.mgmt.unacked f.ackSeq)
    ((∀ x ∈ left, x.resends < 15) → Completes (.mgmtNakFrame f) s fun t => t.out = s.out ++ againFrames s left ∧
      t.mgmt.unacked = resentOnce left ∧ t.mgmt.up = true) ∧
    ((∃ x ∈ left, 15 ≤ x.resends) → Completes (.mgmtNakFrame f) s fun t => t.out = s.out ++ againFrames s left ∧
      t.mgmt.unacked = resentOnce left ∧ t.mgmt.up = false) := by
  intro left
  have hexec : exec (.mgmtNakFrame f) s = .next (mgmtResend (mgmtAcked f.ackSeq s)) := by
    refine (exec_mgmtNakFrame f s).trans ((exec_frameIn hlane htyp hok).trans (congrArg _ (mgmtPump_of_empty ?_)))
    rw [mgmtResend_eq]
    exact hwaiting
  refine ⟨fun hfew => ?_, fun hlast => ?_⟩
  · rw [mgmtResend_few (s := mgmtAcked f.ackSeq s) hfew] at hexec
    exact completes_of_exec hexec ⟨rfl, rfl, (Bool.and_eq_true_iff.1 hlane).2⟩
  · rw [mgmtResend_last (s := mgmtAcked f.ackSeq s) hlast] at hexec
    exact completes_of_exec hexec ⟨rfl, rfl, rfl⟩

/-! ### Timers -/

theorem mgmtResendTimeout_resends (hsent : s.mgmt.unacked ≠ []) :
    exec .mgmtResendTimeout s = .next (mgmtResend s) :=
  (exec_mgmtResendTimeout s).trans (whenOk_of _ (by simp [hlane, hsent]) _)

theorem mgmtIdleTimeout_sends :
    exec .mgmtIdleTimeout s = .next { s with out := s.out ++ [.mgmt (mgmtFrame 0 0 s.mgmt.rxLast [])] } :=
  (exec_mgmtIdleTimeout s).trans (whenOk_of _ hlane _)

theorem mgmtLaneDownTimeout_falls : exec .mgmtLaneDownTimeout s = .next { s with mgmt := { s.mgmt with up := false } } :=
  (exec_mgmtLaneDownTimeout s).trans (whenOk_of _ hlane _)

/-! ### Messages of the module's own -/

omit hlane in
/-- A claim answers a source of the hub. -/
theorem claimValue_lt {h : Hub} {t src : Nat} (hsrc : (claimValue h t).2 = some src) : src < 2048 := by
  simp only [claimValue] at hsrc
  split at hsrc
  · exact absurd hsrc (by simp)
  · rename_i hne
    rw [← Option.some.inj hsrc]
    exact (Nat.log2_lt hne).2 (claimable h t).isLt

theorem mgmtEventSend_sends {src : Nat} (hclaim : (claimValue s.hub 36).2 = some src) (hup : s.standby.mainUp = true)
    (hline : s.hub.line.getLsbD 36 = true) (heid : s.mgmt.eid ≠ 0) :
    Completes .mgmtEventSend s fun t => MgmtSends s.mgmt.boss true s.mgmt.ownTag
        ([0x7F] ++ ianaBytes ++ [0x09, 0x80, 0, 0] ++ toBytes 4 src) false s t ∧
      (∀ i < 2048, t.hub.pend.getLsbD i =
        (s.hub.pend.getLsbD i && (decide (i ≠ src) || decide (tblGet 0 s.hub.fresh src ≠ 0)))) ∧
      t.hub.pendWas.getLsbD src = false ∧ t.mgmt.ownTag = s.mgmt.ownTag + 1 := by
  have hlt := claimValue_lt hclaim
  have hexec : exec .mgmtEventSend s = .next (thOwn 0x09 (toBytes 4 src) false (hubTake src s)) := by
    rw [exec_mgmtEventSend, execMgmtEventSend, hclaim]
    exact whenOk_of _ (by rw [bitOf_toNat, hline, hlane, mainUp, hup, bne_iff_ne.2 heid]; rfl) _
  have hkeep := keeps_thOwn 0x09 (toBytes 4 src) false (.refl [.mgmt, .out] (hubTake src s)) (by decide)
  have hhub : (thOwn 0x09 (toBytes 4 src) false (hubTake src s)).hub = (hubTake src s).hub :=
    hkeep.only.hub.resolve_left (by decide)
  obtain ⟨_, _, _, hmgmt⟩ := windowMoved_thOwn 0x09 (toBytes 4 src) false (hubTake src s)
  refine completes_of_exec hexec ⟨?_, fun i _ => ?_, ?_, ?_⟩
  · exact mgmtSends_thOwn (u := hubTake src s) ⟨rfl, rfl, rfl, rfl, rfl, rfl⟩ (by simp [List.append_assoc, toBytes])
  · rw [hhub]
    refine (getLsbD_pend_hubClear hlt { s with hub := { s.hub with
      pendWas := s.hub.pendWas &&& ~~~ srcBit src, cntWas := tblSet 0 s.hub.cntWas src 0 } } i).trans ?_
    rw [Bool.decide_or]
  · rw [hhub]
    have hwas : (hubTake src s).hub.pendWas = s.hub.pendWas &&& ~~~ srcBit src := rfl
    rw [hwas, BitVec.getLsbD_and, BitVec.getLsbD_not, getLsbD_srcBit_eq hlt]
    simp
  · rw [hmgmt]
    rfl

theorem mbxCpl_sends (hready : s.mgmt.cplSent < s.mgmt.cplRing.length) (heid : s.mgmt.eid ≠ 0) :
    Completes .mbxCpl s fun t => MgmtSends s.mgmt.boss true s.mgmt.ownTag
        ([0x7F] ++ ianaBytes ++ [0x02, 0x80, 0, 0] ++ nth [] s.mgmt.cplRing s.mgmt.cplSent) true s t ∧
      t.mgmt.cplSent = s.mgmt.cplSent + 1 ∧ t.mgmt.cplRing = s.mgmt.cplRing := by
  have hexec : exec .mbxCpl s = .next (thOwn 0x02 (nth [] s.mgmt.cplRing s.mgmt.cplSent) true
      (modMgmt (fun m => { m with cplSent := m.cplSent + 1 }) s)) :=
    (exec_mbxCpl s).trans (whenOk_of _ (by simp only [hlane, hready, bne_iff_ne.2 heid, decide_true, Bool.and_self]) _)
  obtain ⟨_, _, _, hmgmt⟩ := windowMoved_thOwn 0x02 (nth [] s.mgmt.cplRing s.mgmt.cplSent) true
    (modMgmt (fun m => { m with cplSent := m.cplSent + 1 }) s)
  refine completes_of_exec hexec ⟨?_, ?_, ?_⟩
  · exact mgmtSends_thOwn (u := modMgmt (fun m => { m with cplSent := m.cplSent + 1 }) s) ⟨rfl, rfl, rfl, rfl, rfl, rfl⟩
      (by simp [List.append_assoc, toBytes])
  · rw [hmgmt]
    rfl
  · rw [hmgmt]
    rfl

end

/-! ### The lane trains -/

theorem mgmtLaneUp_trains (hstandby : s.standby.standby = true) (hdown : s.mgmt.up = false) (hwaiting : s.mgmt.waiting = []) :
    Completes .mgmtLaneUp s fun t => t.mgmt.up = true ∧ t.out = s.out ++ againFrames s s.mgmt.unacked ∧
      t.mgmt.unacked = s.mgmt.unacked.map fun x => { x with resends := 0 } := by
  obtain ⟨u, hu⟩ : ∃ u, modMgmt (fun m => { m with up := true, unacked := m.unacked.map fun x => { x with resends := 0 } }) s = u :=
    ⟨_, rfl⟩
  have hexec : exec .mgmtLaneUp s = .next (sendAgain u) := by
    refine (exec_mgmtLaneUp s).trans ((whenOk_of _ (by simp [hstandby, hdown]) _).trans (congrArg _ ?_))
    rw [hu]
    refine mgmtPump_of_empty ?_
    rw [sendAgain_eq, ← hu]
    exact hwaiting
  rw [sendAgain_eq, ← hu] at hexec
  refine completes_of_exec hexec ⟨rfl, ?_, rfl⟩
  simp only [modMgmt, againFrames, List.map_map]
  rfl

/-! ### MCTP control requests -/

section
variable {r : MgmtReq} {rest : List MgmtReq} (hstandby : s.standby.standby = true) (hmsgs : s.mgmt.msgs = r :: rest)
  (hctl : isControl r = true)

/-- The request has left the messages that wait. -/
def msgTaken (rest : List MgmtReq) (s : State) : State := modMgmt (fun m => { m with msgs := rest }) s

theorem sameLane_msgTaken (rest : List MgmtReq) (s : State) : SameLane s (msgTaken rest s) := ⟨rfl, rfl, rfl, rfl, rfl, rfl⟩

include hstandby hmsgs hctl

theorem ctlRow_answers {cmd : Nat} (g : MgmtReq → State → State) (hcmd : ctlCmd r = cmd) :
    ctlRow cmd g s = .next (g r (msgTaken rest s)) := by
  rw [ctlRow, hmsgs]
  exact whenOk_of _ (by simp [hstandby, hctl, hcmd]) _

theorem setEndpointId_answers (hcmd : ctlCmd r = 0x01) :
    let id := BitVec.ofNat 8 (msgByte r 4)
    Completes .setEndpointId s fun t => t.mgmt.msgs = rest ∧
      if msgByte r 3 % 4 ≤ 1 ∧ id ≠ 0 ∧ id ≠ 255 ∧ 5 ≤ r.body.length then
        t.mgmt.eid = id ∧ t.mgmt.boss = r.src ∧ CtlAnswers r 0x00 [0x00, id, 0x00] s t
      else t.mgmt.eid = s.mgmt.eid ∧ CtlAnswers r 0x02 [] s t := by
  intro id
  have hexec := (exec_setEndpointId s).trans (ctlRow_answers hstandby hmsgs hctl _ hcmd)
  have hbits : bitsOf (msgByte r 3) 0 2 = msgByte r 3 % 4 := by simp [bitsOf]
  dsimp only at hexec
  rw [hbits] at hexec
  by_cases hgood : msgByte r 3 % 4 ≤ 1 ∧ id ≠ 0 ∧ id ≠ 255 ∧ 5 ≤ r.body.length
  · have hno : ¬ (1 < msgByte r 3 % 4 ∨ id = 0 ∨ id = 255 ∨ r.body.length < 5) := by
      obtain ⟨hop, hzero, hff, hlen⟩ := hgood
      rintro (h | h | h | h)
      · omega
      · exact hzero h
      · exact hff h
      · omega
    rw [if_neg hno] at hexec
    obtain ⟨u, hu⟩ : ∃ u, modMgmt (fun m => { m with eid := id, boss := r.src }) (msgTaken rest s) = u := ⟨_, rfl⟩
    rw [hu] at hexec
    have hlane : SameLane s u := by
      rw [← hu]
      exact ⟨rfl, rfl, rfl, rfl, rfl, rfl⟩
    have hfields : u.mgmt.msgs = rest ∧ u.mgmt.eid = id ∧ u.mgmt.boss = r.src := by
      rw [← hu]
      exact ⟨rfl, rfl, rfl⟩
    obtain ⟨hrest, heid, hboss⟩ := hfields
    obtain ⟨_, _, _, hmgmt⟩ := windowMoved_ctlAnswer r 0x00 [0x00, id, 0x00] u
    refine completes_of_exec hexec ⟨by rw [hmgmt, ← hrest], ?_⟩
    rw [if_pos hgood]
    exact ⟨by rw [hmgmt, ← heid], by rw [hmgmt, ← hboss], ctlAnswers_ctlAnswer hlane _ _ _⟩
  · have hyes : 1 < msgByte r 3 % 4 ∨ id = 0 ∨ id = 255 ∨ r.body.length < 5 := by
      by_contra hcon
      simp only [not_or, Nat.not_lt] at hcon
      exact hgood hcon
    rw [if_pos hyes] at hexec
    obtain ⟨_, _, _, hmgmt⟩ := windowMoved_ctlAnswer r 0x02 [] (msgTaken rest s)
    refine completes_of_exec hexec ⟨by rw [hmgmt]; rfl, ?_⟩
    rw [if_neg hgood]
    exact ⟨by rw [hmgmt]; rfl, ctlAnswers_ctlAnswer (sameLane_msgTaken rest s) _ _ _⟩

omit hstandby hmsgs hctl in
/-- A row that only answers. -/
theorem completes_ctlAnswer {i : Instr} {code : Nat} {body : List Byte}
    (hexec : exec i s = .next (ctlAnswer r code body (msgTaken rest s))) :
    Completes i s fun t => t.mgmt.msgs = rest ∧ CtlAnswers r code body s t := by
  obtain ⟨_, _, _, hmgmt⟩ := windowMoved_ctlAnswer r code body (msgTaken rest s)
  refine completes_of_exec hexec ⟨?_, ctlAnswers_ctlAnswer (sameLane_msgTaken rest s) _ _ _⟩
  rw [hmgmt]
  rfl

theorem getEndpointId_answers (hcmd : ctlCmd r = 0x02) :
    Completes .getEndpointId s fun t => t.mgmt.msgs = rest ∧ CtlAnswers r 0x00 [s.mgmt.eid, 0x00, 0x00] s t :=
  completes_ctlAnswer ((exec_getEndpointId s).trans (ctlRow_answers hstandby hmsgs hctl _ hcmd))

theorem getMctpVersionSupport_answers (hcmd : ctlCmd r = 0x04) :
    Completes .getMctpVersionSupport s fun t => t.mgmt.msgs = rest ∧
      if msgByte r 3 ∈ [0xFF, 0x00, 0x7F] then CtlAnswers r 0x00 ([0x01] ++ versionBytes) s t
      else CtlAnswers r 0x80 [] s t := by
  have hexec := (exec_getMctpVersionSupport s).trans (ctlRow_answers hstandby hmsgs hctl _ hcmd)
  by_cases hknown : msgByte r 3 ∈ [0xFF, 0x00, 0x7F]
  · rw [if_pos (List.contains_iff_mem.2 hknown)] at hexec
    simp only [if_pos hknown]
    exact completes_ctlAnswer hexec
  · rw [if_neg fun h => hknown (List.contains_iff_mem.1 h)] at hexec
    simp only [if_neg hknown]
    exact completes_ctlAnswer hexec

theorem getMessageTypeSupport_answers (hcmd : ctlCmd r = 0x05) :
    Completes .getMessageTypeSupport s fun t => t.mgmt.msgs = rest ∧ CtlAnswers r 0x00 [0x02, 0x00, 0x7F] s t :=
  completes_ctlAnswer ((exec_getMessageTypeSupport s).trans (ctlRow_answers hstandby hmsgs hctl _ hcmd))

theorem getVendorDefinedMsgSupport_answers (hcmd : ctlCmd r = 0x06) (hset : msgByte r 3 = 0) :
    Completes .getVendorDefinedMsgSupport s fun t => t.mgmt.msgs = rest ∧
      CtlAnswers r 0x00 ([0xFF, 0x01] ++ ianaBytes ++ [0x00, 0x00]) s t := by
  have hexec := (exec_getVendorDefinedMsgSupport s).trans (ctlRow_answers hstandby hmsgs hctl _ hcmd)
  rw [if_pos hset] at hexec
  exact completes_ctlAnswer hexec

end

end

/-- Settles O59: one lemma for each frame, timer, message of the module's own and control request. -/
theorem managementLaneCarriesMessages : Obligations.ManagementLaneCarriesMessages := by
  unfold Obligations.ManagementLaneCarriesMessages
  intro s hstandby
  dsimp only
  refine ⟨fun hup => ?_, mgmtLaneUp_trains hstandby, fun r rest hmsgs hctl =>
    ⟨setEndpointId_answers hstandby hmsgs hctl, getEndpointId_answers hstandby hmsgs hctl,
      getMctpVersionSupport_answers hstandby hmsgs hctl, getMessageTypeSupport_answers hstandby hmsgs hctl,
      getVendorDefinedMsgSupport_answers hstandby hmsgs hctl⟩⟩
  have hlane : mgmtUp s = true := Bool.and_eq_true_iff.2 ⟨hstandby, hup⟩
  refine ⟨fun f hsize => ⟨mgmtDataFrame_refused hlane, ?_, fun hok hwaiting => ⟨?_,
      fun htyp => (mgmtNakFrame_resends hlane htyp hok hwaiting).1, fun htyp => (mgmtNakFrame_resends hlane htyp hok hwaiting).2⟩,
      ?_, mgmtDataFrame_otherType⟩, fun hsent => ⟨fun hfew => ?_, fun hlast => ?_⟩, mgmtIdleTimeout_sends hlane,
    mgmtLaneDownTimeout_falls hlane, fun src hclaim hmain hline heid => mgmtEventSend_sends hlane hclaim hmain hline heid,
    mbxCpl_sends hlane⟩
  · intro body src tag flags htyp hok hseq hwaiting hpayload hwhole howner htag hctl hknown
    exact mgmtDataFrame_control hlane hsize htyp hok hseq hwaiting hpayload hwhole howner htag hctl hknown
  · simp only [List.forall_mem_cons, List.not_mem_nil, false_imp_iff, forall_true_iff, and_true]
    exact ⟨fun htyp => acknowledges hlane hwaiting ((exec_mgmtAckFrame f s).trans (exec_frameIn hlane htyp hok)),
      fun htyp => acknowledges hlane hwaiting ((exec_mgmtIdleFrame f s).trans (exec_frameIn hlane htyp hok))⟩
  · simp only [List.forall_mem_cons, List.not_mem_nil, false_imp_iff, forall_true_iff, and_true]
    exact ⟨fun h => (exec_mgmtAckFrame f s).trans (frameIn_otherType h),
      fun h => (exec_mgmtNakFrame f s).trans (frameIn_otherType h), fun h => (exec_mgmtIdleFrame f s).trans (frameIn_otherType h)⟩
  · rw [mgmtResendTimeout_resends hlane hsent, mgmtResend_few hfew]
    rfl
  · rw [mgmtResendTimeout_resends hlane hsent, mgmtResend_last hlast]
    rfl

end Sys2Proof.Proofs
end

section
/-! Proofs for chapter 23: the phases of bring-up. -/

namespace Sys2Proof.Proofs

open Sys2Proof Sys2Proof.Machine Sys2Proof.Laws

section
variable {s : State}

theorem exec_rampPhase (how : RampEnd) (s : State) : exec (.rampPhase how) s = execRampPhase how s := rfl
theorem exec_romPhase (s : State) : exec .romPhase s = execRomPhase s := rfl
theorem exec_stage1Phase (s : State) : exec .stage1Phase s = execStage1Phase s := rfl
theorem exec_stacksPhase (fail : Option (Fin 16 × Fin 32)) (s : State) : exec (.stacksPhase fail) s = execStacksPhase fail s := rfl
theorem exec_beadsPhase (failed : List (RouterN × Bool)) (s : State) : exec (.beadsPhase failed) s = execBeadsPhase failed s := rfl
theorem exec_fabricPhase (ok : Bool) (s : State) : exec (.fabricPhase ok) s = execFabricPhase ok s := rfl
theorem exec_readyPhase (ms : BitVec 16) (s : State) : exec (.readyPhase ms) s = execReadyPhase ms s := rfl
theorem exec_bringUpPhaseTimeout (s : State) : exec .bringUpPhaseTimeout s = execBringUpPhaseTimeout s := rfl

theorem failedWith_failBringUp (code : Nat) (s : State) : FailedWith code s (failBringUp code s) := ⟨rfl, rfl, rfl, rfl, rfl, rfl⟩

/-! ### RAMP -/

/-- The main domains run from their Reset values. -/
def resetReleased (s : State) : State :=
  let s1 := modStandby (fun b => { b with
    mainUp := true, phase := 2, tried := false, owner := false, forced := false, release := false }) (dropMain s)
  { s1 with ledger := { s1.ledger with cur := { s1.ledger.cur with
    fseq := s.faults.nextSeq + BitVec.ofNat 32 s.faults.waiting.length } } }

theorem releaseReset_eq (s : State) :
    releaseReset s = if s.standby.owner then recordReturned (resetReleased s) else resetReleased s := rfl

theorem recordReturned_fseq (s : State) : (recordReturned s).ledger.cur.fseq = s.ledger.cur.fseq := by
  rw [recordReturned, recordAddr, recordFault]
  split <;> rfl

theorem rampPhase_releases (hphase : s.standby.phase = 1) :
    Completes (.rampPhase .ok) s fun t => t.standby.phase = 2 ∧ t.standby.mainUp = true ∧ t.standby.owner = false ∧
      t.standby.fallback = s.standby.fallback ∧ t.standby.tried = false ∧ t.clock = {} ∧ t.beads = [] ∧ t.mem = {} ∧
      t.bezels = [] ∧ t.ledger.cur.fseq = s.faults.nextSeq + BitVec.ofNat 32 s.faults.waiting.length := by
  refine completes_of_exec ((exec_rampPhase .ok s).trans (whenOk_of _ (beq_iff_eq.2 hphase) _)) ?_
  dsimp only
  rw [releaseReset_eq]
  split
  · have hkeep := keeps_recordReturned (.refl [.ledger, .faults] (resetReleased s)) (by decide)
    rw [standby_same hkeep (by decide), clock_same hkeep (by decide), mem_same hkeep (by decide), bezels_same hkeep (by decide),
      hkeep.only.beads.resolve_left (by decide), recordReturned_fseq]
    exact ⟨rfl, rfl, rfl, rfl, rfl, rfl, rfl, rfl, rfl, rfl⟩
  · exact ⟨rfl, rfl, rfl, rfl, rfl, rfl, rfl, rfl, rfl, rfl⟩

theorem rampPhase_fails (hphase : s.standby.phase = 1) :
    Completes (.rampPhase .rail) s (FailedWith 1 s) ∧ Completes (.rampPhase .clock) s (FailedWith 2 s) :=
  ⟨completes_of_exec ((exec_rampPhase .rail s).trans (whenOk_of _ (beq_iff_eq.2 hphase) _)) (failedWith_failBringUp 1 s),
    completes_of_exec ((exec_rampPhase .clock s).trans (whenOk_of _ (beq_iff_eq.2 hphase) _)) (failedWith_failBringUp 2 s)⟩

/-! ### ROM and STAGE1 -/

theorem romPhase_boots (hphase : s.standby.phase = 2) :
    Completes .romPhase s fun t => t.sec.pubKey = Config.hallmark ∧
      (if s.standby.tried = false ∧ romOk s (slotImage s.standby s.standby.bootSlot) = true then
         t.standby.phase = 3 ∧ t.standby.slot = s.standby.bootSlot ∧ t.standby.fallback = false
       else if romOk s (slotImage s.standby (!s.standby.bootSlot)) = true then
         t.standby.phase = 3 ∧ t.standby.slot = (!s.standby.bootSlot) ∧ t.standby.fallback = true
       else FailedWith 3 s t) := by
  refine completes_of_exec ((exec_romPhase s).trans (whenOk_of _ (beq_iff_eq.2 hphase) _)) ?_
  by_cases hown : s.standby.tried = false ∧ romOk s (slotImage s.standby s.standby.bootSlot) = true
  · have hyes : (!s.standby.tried && romOk s (slotImage s.standby s.standby.bootSlot)) = true := by
      rw [hown.1, hown.2]
      rfl
    rw [if_pos hown, romPhase, if_pos hyes]
    exact ⟨rfl, rfl, rfl, bne_self_eq_false _⟩
  · have hno : ¬ (!s.standby.tried && romOk s (slotImage s.standby s.standby.bootSlot)) = true := by
      simpa using hown
    rw [if_neg hown, romPhase, if_neg hno]
    by_cases hother : romOk s (slotImage s.standby (!s.standby.bootSlot)) = true
    · rw [if_pos hother]
      have hgo : romFallback { s with sec := { s.sec with pubKey := Config.hallmark } } =
          romBoots (!s.standby.bootSlot) (modStandby (fun b => { b with tried := true, fallback := true })
            { s with sec := { s.sec with pubKey := Config.hallmark } }) := if_pos hother
      dsimp only
      rw [hgo]
      refine ⟨rfl, rfl, rfl, ?_⟩
      exact (show ((!s.standby.bootSlot) != s.standby.bootSlot) = true by cases s.standby.bootSlot <;> rfl)
    · rw [if_neg hother]
      have hgo : romFallback { s with sec := { s.sec with pubKey := Config.hallmark } } =
          failBringUp 3 (modStandby (fun b => { b with tried := true, fallback := true })
            { s with sec := { s.sec with pubKey := Config.hallmark } }) := if_neg hother
      dsimp only
      rw [hgo]
      exact ⟨rfl, rfl, rfl, rfl, rfl, rfl, rfl⟩

theorem beginTraining_ports (p : Nat) (s : State) :
    (beginTraining p s).chain.ports = (setPort p { portOf s p with st := .training } s).chain.ports :=
  congrArg Chain.ports (recordLane_chain p 0 1 0 (modPort p (fun q => { q with st := .training }) s))

/-- Training begins at the ports up to a number. -/
def trainings (n : Nat) (s : State) : State := upTo n (fun t p => beginTraining p t) s

theorem keeps_trainings (n : Nat) (s : State) : Keeps [.chain, .ledger, .faults, .hub, .out] s (trainings n s) :=
  Keeps.upTo n (.refl _ s) fun _ p h => keeps_beginTraining p h (by decide)

theorem st_trainings {n p : Nat} (hp : p < n) (s : State) : (portOf (trainings n s) p).st = .training := by
  unfold trainings
  induction n with
  | zero => exact absurd hp (Nat.not_lt_zero p)
  | succ n ih =>
    rw [upTo_succ, portOf_of_ports (beginTraining_ports n _)]
    by_cases hn : p = n
    · rw [hn, portOf_setPort]
    · rw [portOf_setPort_other _ _ hn]
      exact ih (by omega)

theorem stage1Phase_trains (hphase : s.standby.phase = 3) :
    Completes .stage1Phase s fun t =>
      if stage2Ok s (slotImage s.standby s.standby.slot) = true then
        t.standby.phase = 4 ∧ (∀ p < 16, (portOf t p).st = .training) ∧
          t.sec.svn = BitVec.ofNat 32 (headOf (slotImage s.standby s.standby.slot)).svn
      else if s.standby.tried = true then FailedWith 3 s t
      else t.standby.phase = 2 ∧ t.standby.tried = true ∧ t.standby.fallback = true := by
  refine completes_of_exec ((exec_stage1Phase s).trans (whenOk_of _ (beq_iff_eq.2 hphase) _)) ?_
  by_cases hok : stage2Ok s (slotImage s.standby s.standby.slot) = true
  · have hgo : stage1Phase s = toPhase 4 (trainings 16 (identify (slotImage s.standby s.standby.slot) s)) := if_pos hok
    have hkeep := keeps_trainings 16 (identify (slotImage s.standby s.standby.slot) s)
    have hsec := hkeep.only.sec.resolve_left (by decide)
    have hports (p : Nat) (hp : p < 16) := st_trainings hp (identify (slotImage s.standby s.standby.slot) s)
    rw [if_pos hok, hgo]
    generalize trainings 16 (identify (slotImage s.standby s.standby.slot) s) = t at *
    exact ⟨rfl, hports, congrArg Security.svn hsec⟩
  · rw [if_neg hok, stage1Phase, if_neg hok]
    by_cases htried : s.standby.tried = true
    · rw [if_pos htried, if_pos htried]
      exact failedWith_failBringUp 3 s
    · rw [if_neg htried, if_neg htried]
      exact ⟨rfl, rfl, rfl⟩

/-! ### STACKS -/

/-- The frames of a bezel in the copy of the page-retire tables. -/
def retiredFrames (z : Nat) (s : State) : List (Nat × Nat) :=
  (s.standby.retires.filter fun p => p.1 / 2 ^ 25 == z).map fun p => (p.1 % 2 ^ 25, p.2)

theorem mem_retiredFrames {z : Nat} {p : Nat × Nat} (h : p ∈ retiredFrames z s) : (z * 2 ^ 25 + p.1, p.2) ∈ s.standby.retires := by
  obtain ⟨q, hq, rfl⟩ := List.mem_map.1 h
  obtain ⟨hmem, hz⟩ := List.mem_filter.1 hq
  have hsplit : z * 2 ^ 25 + q.1 % 2 ^ 25 = q.1 := by
    rw [← beq_iff_eq.1 hz]
    omega
  rw [hsplit]
  exact hmem

theorem redirect_reloadRetires (z : Nat) (s : State) : (bezelOf (reloadRetires z s) z).redirect = retiredFrames z s := by
  rw [reloadRetires, bezelOf_modBezel]
  rfl

/-- The page-retire tables of the bezels up to a number have been reloaded. -/
def reloads (n : Nat) (s : State) : State := upTo n (fun t z => reloadRetires z t) s

theorem reloads_standby (n : Nat) (s : State) : (reloads n s).standby = s.standby := by
  induction n with
  | zero => rfl
  | succ n ih =>
    rw [reloads, upTo_succ]
    exact ih

theorem reloads_mem (n : Nat) (s : State) : (reloads n s).mem = s.mem := by
  induction n with
  | zero => rfl
  | succ n ih =>
    rw [reloads, upTo_succ]
    exact ih

theorem redirect_reloads {n z : Nat} (hz : z < n) (s : State) : (bezelOf (reloads n s) z).redirect = retiredFrames z s := by
  induction n with
  | zero => exact absurd hz (Nat.not_lt_zero z)
  | succ n ih =>
    have hstep : reloads (n + 1) s = reloadRetires n (reloads n s) := upTo_succ n _ s
    rw [hstep]
    by_cases hn : z = n
    · rw [hn, redirect_reloadRetires, retiredFrames, reloads_standby]
      rfl
    · rw [reloadRetires, bezelOf_modBezel_other _ _ hn]
      exact ih (by omega)

/-- The stacks hold zeroes. -/
def stacksZeroed (s : State) : State := { s with mem := { s.mem with cells := [] } }

theorem execStacksPhase_none (s : State) :
    execStacksPhase none s = whenOk s (s.standby.phase == 4) (toPhase 5 (reloads 16 (stacksZeroed s))) := rfl

theorem stacksPhase_zeroes (hphase : s.standby.phase = 4) :
    Completes (.stacksPhase none) s fun t => t.standby.phase = 5 ∧ (∀ g, codeAt t.mem g = codeAt {} g) ∧
      ∀ z < 16, ∀ p ∈ (bezelOf t z).redirect, (z * 2 ^ 25 + p.1, p.2) ∈ s.standby.retires := by
  have hexec := ((exec_stacksPhase none s).trans (execStacksPhase_none s)).trans (whenOk_of _ (beq_iff_eq.2 hphase) _)
  have hmem := reloads_mem 16 (stacksZeroed s)
  have hframes (z : Nat) (hz : z < 16) := redirect_reloads hz (stacksZeroed s)
  generalize reloads 16 (stacksZeroed s) = t at *
  refine completes_of_exec hexec ⟨rfl, fun g => ?_, fun z hz p hp => ?_⟩
  · have hcode : codeAt t.mem g = codeAt (stacksZeroed s).mem g := by rw [hmem]
    exact hcode
  · have hp' : p ∈ (bezelOf t z).redirect := hp
    rw [hframes z hz] at hp'
    exact mem_retiredFrames (s := stacksZeroed s) hp'

theorem stacksPhase_fails (hphase : s.standby.phase = 4) (z : Fin 16) (c : Fin 32) :
    Completes (.stacksPhase (some (z, c))) s fun t => FailedWith 4 s t ∧
      t.standby.failStack = BitVec.ofNat 4 z.val ∧ t.standby.failChan = BitVec.ofNat 5 c.val :=
  completes_of_exec ((exec_stacksPhase (some (z, c)) s).trans (whenOk_of _ (beq_iff_eq.2 hphase) _))
    ⟨⟨rfl, rfl, rfl, rfl, rfl, rfl⟩, rfl, rfl⟩

/-! ### BEADS -/

theorem posState_congr {t : State} (hpos : t.nutas.pos = s.nutas.pos) (hgrade : t.standby.grade960 = s.standby.grade960)
    (p : Nat) : posState t p = posState s p := by
  simp only [posState, builtState, hpos, hgrade]

theorem posState_setPos {c : Nat} (hc : c < 16) (p q : Nat) (s : State) :
    posState (setPos p c s) q = if q = p then c else posState s q := by
  by_cases h : q = p
  · rw [if_pos h, h]
    simp only [posState, setPos, tblGet_tblPut_same]
    exact Nat.mod_eq_of_lt hc
  · rw [if_neg h]
    simp only [posState, setPos, tblGet_tblPut_other _ _ _ _ _ h]
    rfl

/-- A failed position is served by its string's spare, or by none; no other position of the working places changes. -/
theorem posState_mapFailed (failed : List (RouterN × Bool)) {p q : Nat} (hq : q % 9 ≠ 8) (parity : Bool) (s : State) :
    (q ≠ p → posState (mapFailed failed p parity s) q = posState s q) ∧
    (q = p → posState (mapFailed failed p parity s) q = 4 ∨ posState (mapFailed failed p parity s) q = 5) := by
  obtain ⟨u, hu⟩ : ∃ u, hubRaise (1024 + (ordOfPos p).getD 0) (beadFaultRecord ((ordOfPos p).getD 0) parity false s) = u := ⟨_, rfl⟩
  have hsame : posState u q = posState s q := by
    rw [← hu]
    exact posState_congr (congrArg Nutas.pos ((hubRaise_nutas _ _).trans (recordFault_nutas _ _)))
      (congrArg Standby.grade960 ((hubRaise_standby _ _).trans (recordFault_standby _ _))) q
  have hspare : q ≠ spareOf p := by
    rintro rfl
    exact hq (by simp only [spareOf]; omega)
  simp only [mapFailed, hu]
  split
  · have hpos : posState (modNutas (fun n => { n with serves := tblSet 0 n.serves (spareOf p) p })
        (setPos (spareOf p) 3 (setPos p 4 u))) q = if q = p then 4 else posState s q := by
      refine (posState_setPos (by decide) _ _ _).trans ?_
      rw [if_neg hspare, posState_setPos (by decide), hsame]
    rw [hpos]
    exact ⟨fun h => if_neg h, fun h => .inl (if_pos h)⟩
  · rw [posState_setPos (by decide), hsame]
    exact ⟨fun h => if_neg h, fun h => .inr (if_pos h)⟩

theorem posState_mapPos (failed : List (RouterN × Bool)) {p q : Nat} (hq : q % 9 ≠ 8) (s : State) :
    (q ≠ p → posState (mapPos failed p s) q = posState s q) ∧
    (q = p → posState s q ≠ 7 → (testOf failed q = none → posState (mapPos failed p s) q = posState s q) ∧
      (testOf failed q ≠ none → posState (mapPos failed p s) q = 4 ∨ posState (mapPos failed p s) q = 5)) := by
  unfold mapPos
  split
  · rename_i h7
    exact ⟨fun _ => rfl, fun h hne => absurd (h ▸ h7) hne⟩
  · split
    · rename_i hnone
      exact ⟨fun _ => rfl, fun h _ => ⟨fun _ => rfl, fun hsome => absurd (h ▸ hnone) hsome⟩⟩
    · rename_i parity hsome
      have hfailed := posState_mapFailed failed (p := p) hq parity s
      split
      · rename_i hspare
        have hne : q ≠ p := fun h => hq (h ▸ hspare)
        refine ⟨fun _ => ?_, fun h => absurd h hne⟩
        split
        · rw [posState_setPos (by decide), if_neg hne]
        · rfl
      · exact ⟨hfailed.1, fun h _ => ⟨fun hnone => absurd (hnone.symm.trans (h ▸ hsome)) (by simp), fun _ => hfailed.2 h⟩⟩

/-- The positions up to a number have been looked at. -/
def mapped (failed : List (RouterN × Bool)) (n : Nat) (s : State) : State := upTo n (fun t p => mapPos failed p t) s

theorem posState_mapped (failed : List (RouterN × Bool)) {q : Nat} (hq : q % 9 ≠ 8) (hthere : posState s q ≠ 7) (n : Nat) :
    (n ≤ q → posState (mapped failed n s) q = posState s q) ∧
    (q < n → (testOf failed q = none → posState (mapped failed n s) q = posState s q) ∧
      (testOf failed q ≠ none → posState (mapped failed n s) q = 4 ∨ posState (mapped failed n s) q = 5)) := by
  induction n with
  | zero => exact ⟨fun _ => rfl, fun h => absurd h (Nat.not_lt_zero q)⟩
  | succ n ih =>
    obtain ⟨hbefore, hafter⟩ := ih
    have hstep : mapped failed (n + 1) s = mapPos failed n (mapped failed n s) := upTo_succ n _ s
    rw [hstep]
    generalize mapped failed n s = t at *
    obtain ⟨hother, hself⟩ := posState_mapPos failed (p := n) hq t
    refine ⟨fun hn => (hother (by omega)).trans (hbefore (by omega)), fun hn => ?_⟩
    by_cases h : q = n
    · have hsame := hbefore (by omega)
      rw [← hsame]
      exact hself h (by rw [hsame]; exact hthere)
    · rw [hother h]
      exact hafter (by omega)

theorem reachNow_congr {t : State} (hpos : t.nutas.pos = s.nutas.pos) (hgrade : t.standby.grade960 = s.standby.grade960) :
    reachNow t = reachNow s := by
  have hlive : ordLive t = ordLive s := by
    funext o
    simp only [ordLive, posState_congr hpos hgrade]
  rw [reachNow, reachNow, hlive]

/-- The map of the beads that answer is taken anew. -/
def reachTaken (s : State) : State := { s with nutas := { s.nutas with reach := reachNow s } }

theorem pos_reachTaken (s : State) : (toPhase 6 (reachTaken s)).nutas.pos = s.nutas.pos := by
  simp only [toPhase, modStandby, reachTaken]

theorem grade960_reachTaken (s : State) : (toPhase 6 (reachTaken s)).standby.grade960 = s.standby.grade960 := by
  simp only [toPhase, modStandby, reachTaken]

theorem reach_reachTaken (s : State) : (toPhase 6 (reachTaken s)).nutas.reach = reachNow (toPhase 6 (reachTaken s)) := by
  rw [reachNow_congr (pos_reachTaken s) (grade960_reachTaken s)]
  simp only [toPhase, modStandby, reachTaken]

theorem execBeadsPhase_eq (failed : List (RouterN × Bool)) (s : State) : execBeadsPhase failed s =
    whenOk s (s.standby.phase == 5) (toPhase 6 (reachTaken (mapped failed 1152 s))) := by
  unfold execBeadsPhase mapped
  generalize upTo 1152 (fun t p => mapPos failed p t) s = t
  rfl

theorem beadsPhase_maps (failed : List (RouterN × Bool)) (hphase : s.standby.phase = 5) :
    Completes (.beadsPhase failed) s fun t => t.standby.phase = 6 ∧ t.nutas.reach = reachNow t ∧
      ∀ p < 1152, posState s p ≠ 7 → p % 9 ≠ 8 →
        (testOf failed p = none → posState t p = posState s p) ∧
        (testOf failed p ≠ none → posState t p = 4 ∨ posState t p = 5) := by
  have hexec := ((exec_beadsPhase failed s).trans (execBeadsPhase_eq failed s)).trans (whenOk_of _ (beq_iff_eq.2 hphase) _)
  have hpos (p : Nat) (hwork : p % 9 ≠ 8) (hthere : posState s p ≠ 7) := posState_mapped failed hwork hthere 1152
  generalize mapped failed 1152 s = u at *
  exact completes_of_exec hexec ⟨rfl, reach_reachTaken u,
    fun p hp hthere hwork => by
      rw [posState_congr (pos_reachTaken u) (grade960_reachTaken u)]
      exact (hpos p hwork hthere).2 hp⟩

/-! ### FABRIC, READY and the timeout -/

theorem fabricPhase_ends (hphase : s.standby.phase = 6) (hmode : s.clock.mode = .quiescent) (hnew : s.clock.fabricOk = false) :
    exec (.fabricPhase true) s = .next { s with clock := { s.clock with fabricOk := true } } ∧
      Completes (.fabricPhase false) s (FailedWith 5 s) := by
  have hdue : (s.standby.phase == 6 && s.clock.mode == .quiescent && !s.clock.fabricOk) = true := by
    rw [hphase, hmode, hnew]
    rfl
  exact ⟨(exec_fabricPhase true s).trans (whenOk_of _ hdue _),
    completes_of_exec ((exec_fabricPhase false s).trans (whenOk_of _ hdue _)) (failedWith_failBringUp 5 s)⟩

theorem readyPhase_ready (ms : BitVec 16) (hphase : s.standby.phase = 6) (hmode : s.clock.mode = .arbitrated) :
    Completes (.readyPhase ms) s fun t => t.standby.phase = 7 ∧ t.standby.ms = ms ∧ t.host.link = 1 ∧
      s.standby.rollback ≤ t.standby.rollback := by
  have hdue : (s.standby.phase == 6 && s.clock.mode == .arbitrated) = true := by
    rw [hphase, hmode]
    rfl
  refine completes_of_exec ((exec_readyPhase ms s).trans (whenOk_of _ hdue _)) ?_
  dsimp only
  unfold advanceRollback
  dsimp only
  split
  · rename_i h
    rw [Bool.and_eq_true, decide_eq_true_eq] at h
    exact ⟨rfl, rfl, rfl, Nat.le_of_lt h.2⟩
  · exact ⟨rfl, rfl, rfl, Nat.le_refl _⟩

theorem bringUpPhaseTimeout_fails (hlow : 1 ≤ s.standby.phase.toNat) (hhigh : s.standby.phase.toNat ≤ 6)
    (hmode : s.clock.mode = .quiescent) : Completes .bringUpPhaseTimeout s (FailedWith 6 s) := by
  have hdue : (decide (1 ≤ s.standby.phase.toNat) && decide (s.standby.phase.toNat ≤ 6) && s.clock.mode == .quiescent) = true := by
    rw [decide_eq_true hlow, decide_eq_true hhigh, hmode]
    rfl
  exact completes_of_exec ((exec_bringUpPhaseTimeout s).trans (whenOk_of _ hdue _)) (failedWith_failBringUp 6 s)

end

/-- Settles O11: one lemma for each phase, and the timeout. -/
theorem bringUpPhasesFollowOrFail : Obligations.BringUpPhasesFollowOrFail := by
  unfold Obligations.BringUpPhasesFollowOrFail
  exact fun s => ⟨fun hphase => ⟨rampPhase_releases hphase, rampPhase_fails hphase⟩, romPhase_boots, stage1Phase_trains,
    fun hphase => ⟨stacksPhase_zeroes hphase, stacksPhase_fails hphase⟩, fun failed => beadsPhase_maps failed, fabricPhase_ends,
    fun ms => readyPhase_ready ms, bringUpPhaseTimeout_fails⟩

end Sys2Proof.Proofs
end

section
/-! Facts about the reduction records of a bezel and about changes of several bezels. -/

namespace Sys2Proof.Proofs

open Sys2Proof Sys2Proof.Machine Sys2Proof.Laws

section
variable {s t u : State}

/-! ### Several bezels -/

theorem nodup_bezelsOf (mask : Nat) : (bezelsOf mask).Nodup := List.nodup_range.filter _

/-- The same change made to every bezel of a list. -/
theorem bezelOf_foldl_modBezel {l : List Nat} (hl : l.Nodup) (f : Bezel → Bezel) (s : State) (z : Nat) :
    bezelOf (l.foldl (fun t z => modBezel z f t) s) z = if z ∈ l then f (bezelOf s z) else bezelOf s z := by
  induction l generalizing s with
  | nil => rfl
  | cons a l ih =>
    obtain ⟨ha, hl⟩ := List.nodup_cons.1 hl
    rw [List.foldl_cons, ih hl]
    by_cases hz : z = a
    · simp [hz, ha]
    · simp [hz, bezelOf_modBezel_other]

/-- The bezels that a mask names have changed. -/
def modBezels (mask : Nat) (f : Bezel → Bezel) (s : State) : State := (bezelsOf mask).foldl (fun t z => modBezel z f t) s

theorem keeps_modBezels (mask : Nat) (f : Bezel → Bezel) (h : Keeps [.nutas, .bezels] s t) :
    Keeps [.nutas, .bezels] s (modBezels mask f t) :=
  Keeps.foldl _ h fun _ _ hk => keeps_modBezel _ _ hk (by decide)

theorem bezelOf_modBezels (mask : Nat) (f : Bezel → Bezel) (s : State) (z : Nat) :
    bezelOf (modBezels mask f s) z = if z ∈ bezelsOf mask then f (bezelOf s z) else bezelOf s z :=
  bezelOf_foldl_modBezel (nodup_bezelsOf mask) f s z

theorem startedIn_modBezels (k mask : Nat) (f : Bezel → Bezel) (s : State) :
    StartedIn k s (modBezels mask f (Started k s)) :=
  (StartedIn.refl k s).keeps (Keeps.foldl _ (.refl [.bezels] (Started k s)) fun _ _ hk => keeps_modBezel _ _ hk (by decide))

/-! ### A record completes -/

/-- No bezel's records have changed. -/
def SameRecs (s t : State) : Prop := ∀ z, (bezelOf t z).recs = (bezelOf s z).recs

theorem SameRecs.recOf (h : SameRecs s t) (z r : Nat) : recOf (bezelOf t z) r = recOf (bezelOf s z) r := by
  rw [Machine.recOf, h, Machine.recOf]

theorem sameRecs_modBezel {f : Bezel → Bezel} (hf : ∀ b, (f b).recs = b.recs) (z : Nat) (s : State) :
    SameRecs s (modBezel z f s) := by
  intro z'
  by_cases h : z' = z
  · rw [h, bezelOf_modBezel, hf]
  · rw [bezelOf_modBezel_other _ _ h]

theorem sameRecs_ownSums (z : Nat) (r : RedRec) (j : Nat) (s : State) : SameRecs s (ownSums z r j s).2 := by
  obtain ⟨hothers, hbezel⟩ := (unitRead_useWords z (r.sums.toNat + 64 * j) ((min 16 (r.count.toNat - 16 * j) + 7) / 8) s).looked
  intro z'
  by_cases h : z' = z
  · rw [h]
    exact (congrArg Bezel.recs hbezel :)
  · exact (congrArg Bezel.recs (hothers z' h) :)

/-- A record is marked COMPLETE, and joins the unit's order. -/
def markComplete (z ri : Nat) (s : State) : State :=
  modBezel z (fun b => { b with
    completed := b.completed ++ [ri]
    verdicts := if b.halt then tblSet 0 b.verdicts ri (sampledOf (bezelOf s z) ri (recOf (bezelOf s z) ri)).length
      else b.verdicts })
    (setRec z ri { recOf (bezelOf s z) ri with st := .complete } s)

theorem recOf_markComplete (z ri k : Nat) (s : State) : recOf (bezelOf (markComplete z ri s) z) k =
    if k = ri then { recOf (bezelOf s z) ri with st := .complete } else recOf (bezelOf s z) k := by
  have hrecs : (bezelOf (markComplete z ri s) z).recs =
      tblSet {} (bezelOf s z).recs ri { recOf (bezelOf s z) ri with st := .complete } := by
    rw [markComplete, bezelOf_modBezel, setRec, bezelOf_modBezel]
  rw [recOf, hrecs]
  by_cases h : k = ri
  · rw [if_pos h, h, tblGet_tblSet_same]
  · rw [if_neg h, tblGet_tblSet_other _ _ _ _ _ h, recOf]

theorem sameRecs_completeRec (z ri : Nat) (s : State) : SameRecs (markComplete z ri s) (completeRec z ri s) := by
  have hall : ∀ (l : List Nat) (r : RedRec) (t : State), SameRecs t (l.foldl (fun t j =>
      modBezel (z ^^^ 1) (fun b => { b with chkIn := b.chkIn ++ [.sums z ri j r.step (ownSums z r j t).1] })
        (ownSums z r j t).2) t) := by
    intro l r
    induction l with
    | nil => exact fun t z' => rfl
    | cons j l ih =>
      intro t z'
      rw [List.foldl_cons, ih]
      have hjoin : SameRecs (ownSums z r j t).2 (modBezel (z ^^^ 1) (fun b => { b with
          chkIn := b.chkIn ++ [.sums z ri j r.step (ownSums z r j t).1] }) (ownSums z r j t).2) := by
        refine sameRecs_modBezel ?_ _ _
        exact fun _ => rfl
      exact (hjoin z').trans (sameRecs_ownSums z r j t z')
  exact hall _ _ _

theorem completeRec_unexpecting {z ri : Nat} (h : (recOf (bezelOf s z) ri).expect = 0) :
    completeRec z ri s = markComplete z ri s := by
  have hnone : sampledOf (bezelOf s z) ri (recOf (bezelOf s z) ri) = [] := if_pos h
  simp only [completeRec, markComplete, hnone]
  rfl

/-! ### Records written -/

/-- A record as it stands once it has been written: one that opens with all it expects is COMPLETE. -/
def openedRec (r : RedRec) : RedRec :=
  if r.st = .open_ ∧ (r.expect = 0 ∨ recFull r = true) then { r with st := .complete } else r

/-- One record is written, and opens. -/
def writeRec (z ri : Nat) (r : RedRec) (s : State) : State :=
  if r.st = .open_ then openRec z ri (setRec z ri r s) else setRec z ri r s

theorem recOf_setRec_other {k r : Nat} (h : k ≠ r) (z : Nat) (v : RedRec) (s : State) :
    recOf (bezelOf (setRec z r v s) z) k = recOf (bezelOf s z) k := by
  rw [setRec, bezelOf_modBezel, recOf]
  exact tblGet_tblSet_other _ _ _ _ _ h

/-- A record that opens is written as OPEN again. -/
theorem setRec_opened {r : RedRec} (hopen : r.st = .open_) (z ri k : Nat) (s : State) :
    recOf (bezelOf (modRec z ri (fun v => { v with st := .open_ }) (setRec z ri r s)) z) k =
      if k = ri then r else recOf (bezelOf s z) k := by
  by_cases h : k = ri
  · rw [if_pos h, h, recOf_modRec, recOf_setRec, ← hopen]
  · rw [if_neg h, recOf_modRec_other h, recOf_setRec_other h]

theorem recOf_writeRec (z ri k : Nat) (r : RedRec) (s : State) :
    recOf (bezelOf (writeRec z ri r s) z) k = if k = ri then openedRec r else recOf (bezelOf s z) k := by
  unfold writeRec
  split
  · rename_i hopen
    have hset := setRec_opened hopen z ri
    rw [openRec, recOf_setRec]
    split
    · rename_i hdue
      rw [(sameRecs_completeRec z ri _).recOf, recOf_markComplete, hset, hset, if_pos rfl]
      by_cases h : k = ri
      · rw [if_pos h, if_pos h, openedRec, if_pos ⟨hopen, hdue⟩]
      · rw [if_neg h, if_neg h, if_neg h]
    · rename_i hdue
      rw [hset]
      by_cases h : k = ri
      · rw [if_pos h, if_pos h, openedRec, if_neg fun hd => hdue hd.2]
      · rw [if_neg h, if_neg h]
  · rename_i hopen
    by_cases h : k = ri
    · rw [if_pos h, h, recOf_setRec, openedRec, if_neg fun hd => hopen hd.1]
    · rw [if_neg h, recOf_setRec_other h]

theorem writeRecs_succ (z first n : Nat) (r : Nat → RedRec) (s : State) :
    upTo (n + 1) (fun t i => writeRec z (first + i) (r i) t) s =
      writeRec z (first + n) (r n) (upTo n (fun t i => writeRec z (first + i) (r i) t) s) := upTo_succ n _ s

/-- Records written from a number on: each stands as it opens, and no other has changed. -/
theorem recOf_writeRecs (z first n k : Nat) (r : Nat → RedRec) (s : State) :
    recOf (bezelOf (upTo n (fun t i => writeRec z (first + i) (r i) t) s) z) k =
      if first ≤ k ∧ k < first + n then openedRec (r (k - first)) else recOf (bezelOf s z) k := by
  induction n with
  | zero => exact (if_neg (by omega)).symm
  | succ n ih =>
    rw [writeRecs_succ, recOf_writeRec, ih]
    by_cases hk : k = first + n
    · rw [if_pos hk, if_pos (by omega), hk, Nat.add_sub_cancel_left]
    · rw [if_neg hk]
      by_cases hin : first ≤ k ∧ k < first + n
      · rw [if_pos hin, if_pos (by omega)]
      · rw [if_neg hin, if_neg (by omega)]

theorem writeRecs_eq (z first : Nat) (bytes : List (List Byte)) (s : State) :
    writeRecs z first bytes s =
      upTo bytes.length (fun t i => writeRec z (first + i) (recOfBytes (nth [] bytes i)) t) s := rfl

/-- Of Nutas and the bezels only what Nutas and bezel `z` hold has changed. -/
def BezelKept (z : Nat) (s t : State) : Prop := Keeps [.nutas, .bezels] s t ∧ OtherBezels z s t

theorem bezelKept_modBezel {z : Nat} (f : Bezel → Bezel) (h : BezelKept z s t) : BezelKept z s (modBezel z f t) :=
  ⟨keeps_modBezel _ _ h.1 (by decide), otherBezels_trans h.2 (otherBezels_modBezel _ _ _)⟩

theorem bezelKept_setRec {z : Nat} (ri : Nat) (r : RedRec) (h : BezelKept z s t) : BezelKept z s (setRec z ri r t) :=
  bezelKept_modBezel _ h

/-- A record whose sums nobody samples changes its bezel alone. -/
theorem bezelKept_writeRec {z ri : Nat} {r : RedRec} (hr : r.st = .open_ → r.expect = 0 ∨ recFull r = false)
    (h : BezelKept z s t) : BezelKept z s (writeRec z ri r t) := by
  unfold writeRec
  split
  · rename_i hopen
    have hmod : BezelKept z s (modRec z ri (fun v => { v with st := .open_ }) (setRec z ri r t)) :=
      bezelKept_setRec _ _ (bezelKept_setRec _ _ h)
    rw [openRec, recOf_setRec]
    split
    · rename_i hdue
      have hnone : r.expect = 0 := by
        rcases hr hopen with h0 | hnot
        · exact h0
        · exact hdue.resolve_right (by rw [hnot]; decide)
      rw [completeRec_unexpecting (by rw [setRec_opened hopen, if_pos rfl]; exact hnone)]
      exact bezelKept_modBezel _ (bezelKept_setRec _ _ hmod)
    · exact hmod
  · exact bezelKept_setRec _ _ h

theorem bezelKept_writeRecs {z first : Nat} {r : Nat → RedRec} {n : Nat}
    (hr : ∀ i < n, (r i).st = .open_ → (r i).expect = 0 ∨ recFull (r i) = false) (h : BezelKept z s t) :
    BezelKept z s (upTo n (fun t i => writeRec z (first + i) (r i) t) t) := by
  induction n with
  | zero => exact h
  | succ n ih =>
    rw [writeRecs_succ]
    exact bezelKept_writeRec (hr n (by omega)) (ih fun i hi => hr i (by omega))

end

end Sys2Proof.Proofs
end

section
/-! Proofs for chapters 15, 17 and 20: settings of the reduction block, the ledger and the assayer. -/

namespace Sys2Proof.Proofs

open Sys2Proof Sys2Proof.Machine Sys2Proof.Laws

theorem exec_redWrite (k : Nat) (buf : List Byte) (s : State) : exec (.redWrite k buf) s = execRedWrite k buf s := rfl
theorem exec_genWrite (k : Nat) (s : State) : exec (.genWrite k) s = execGenWrite k s := rfl
theorem exec_optWrite (k : Nat) (buf : List Byte) (s : State) : exec (.optWrite k buf) s = execOptWrite k buf s := rfl
theorem exec_redCfg (k : Nat) (s : State) : exec (.redCfg k) s = execRedCfg k s := rfl
theorem exec_ledgerCtl (k : Nat) (s : State) : exec (.ledgerCtl k) s = execLedgerCtl k s := rfl
theorem exec_cntConfig (k : Nat) (buf : List Byte) (s : State) : exec (.cntConfig k buf) s = execCntConfig k buf s := rfl
theorem exec_cntSnap (k : Nat) (s : State) : exec (.cntSnap k) s = execCntSnap k s := rfl

section
variable {s : State} {k : Nat} {c : Cmd} {buf : List Byte}

/-! ### RED_WRITE -/

/-- The bytes of the `n` records of a buffer. -/
def recBytes (n : Nat) (buf : List Byte) : List (List Byte) := (List.range n).map fun i => cut (buf.take (192 * n)) (192 * i) 192

theorem length_recBytes (n : Nat) (buf : List Byte) : (recBytes n buf).length = n := by
  rw [recBytes, List.length_map, List.length_range]

theorem nth_recBytes {n i : Nat} (hi : i < n) (buf : List Byte) :
    nth [] (recBytes n buf) i = cut (buf.take (192 * n)) (192 * i) 192 := nth_map_range _ _ hi

theorem redBuf_host (hloc : (bufOf c.entry).loc = 1) (hreach : hostReach s = true)
    (hlen : 192 * entryNum c.entry 32 4 ≤ buf.length) : redBuf c buf s = (buf.take (192 * entryNum c.entry 32 4), none, s) :=
  bufRead_host_whole hloc hreach hlen

theorem recsRead_host (hloc : (bufOf c.entry).loc = 1) (hreach : hostReach s = true)
    (hlen : 192 * entryNum c.entry 32 4 ≤ buf.length) : recsRead c (redBuf c buf s) = recBytes (entryNum c.entry 32 4) buf := by
  rw [redBuf_host hloc hreach hlen]
  rfl

/-- The first record out of form decides (R598). -/
theorem recsForm_first {first n i : Nat} (hi : i < n)
    (hbad : recFormOk (nth [] (recBytes n buf) i) (recOfBytes (nth [] (recBytes n buf) i)) = false)
    (hgood : ∀ j < i, recFormOk (nth [] (recBytes n buf) j) (recOfBytes (nth [] (recBytes n buf) j)) = true) :
    recsForm first (recBytes n buf) = some (stBadField, BitVec.ofNat 64 (first + i)) := by
  rw [recsForm, length_recBytes, List.find?_range_eq_some.2 ⟨?_, List.mem_range.2 hi, fun j hj => ?_⟩]
  · rfl
  · rw [hbad]
    rfl
  · rw [hgood j hj]
    rfl

/-- The check of RED_WRITE's fields. -/
def recRangeChecks (c : Cmd) (_ : State) : List (Nat × Bool) :=
  [(28, decide (entryNum c.entry 28 4 + entryNum c.entry 32 4 ≤ 65536))]

section
variable (hloc : (bufOf c.entry).loc = 1) (hreach : hostReach s = true) (hlen : 192 * entryNum c.entry 32 4 ≤ buf.length)
include hloc hreach hlen

theorem redWrite_badForm (hl : LooksAt k 0x40 (bufMaskAll ++ [(24, 0x0F)] ++ bytesMask 28 8) recRangeChecks
      (fun c => some (192 * entryNum c.entry 32 4)) c s) {i : Nat} (hi : i < entryNum c.entry 32 4)
    (hbad : recFormOk (cut (buf.take (192 * entryNum c.entry 32 4)) (192 * i) 192)
      (recOfBytes (cut (buf.take (192 * entryNum c.entry 32 4)) (192 * i) 192)) = false)
    (hgood : ∀ j < i, recFormOk (cut (buf.take (192 * entryNum c.entry 32 4)) (192 * j) 192)
      (recOfBytes (cut (buf.take (192 * entryNum c.entry 32 4)) (192 * j) 192)) = true) :
    Completes (.redWrite k buf) s fun t => OnlyIn [.nutas] s t ∧
      Completed k c stBadField (BitVec.ofNat 64 (entryNum c.entry 28 4 + i)) 0 s t := by
  refine completes_refused ((exec_redWrite k buf s).trans (commandWith_refused hl rfl ?_))
  rw [recsRead_host hloc hreach hlen]
  refine recsForm_first hi (by rwa [nth_recBytes hi]) fun j hj => ?_
  rw [nth_recBytes (by omega)]
  exact hgood j hj

variable (hs : ServedWith k 0x40 (bufMaskAll ++ [(24, 0x0F)] ++ bytesMask 28 8) recRangeChecks
  (fun c => some (192 * entryNum c.entry 32 4)) (fun c t => recsForm (entryNum c.entry 28 4) (recsRead c (redBuf c buf t))) c s)
include hs

theorem redWrite_refused {st : Nat} {r0 : Word} (hbad : recsBad (bezelOf s (entryByte c.entry 24)) (entryNum c.entry 28 4)
      (entryNum c.entry 32 4) (recBytes (entryNum c.entry 32 4) buf) = some (st, r0)) :
    Completes (.redWrite k buf) s fun t => OnlyIn [.nutas] s t ∧ Completed k c st r0 0 s t := by
  refine completes_status hs ((exec_redWrite k buf s).trans (commandWith_done hs ?_)) fun _ honly hdone _ => ⟨honly, hdone⟩
  dsimp only
  rw [recsRead_host (s := Started k s) hloc hreach hlen, redBuf_host (s := Started k s) hloc hreach hlen]
  dsimp only
  rw [show bezelOf (Started k s) (entryByte c.entry 24) = bezelOf s (entryByte c.entry 24) from rfl, hbad]

/-- The records of a command, in place. -/
def recsWritten (c : Cmd) (buf : List Byte) (s : State) : State :=
  writeRecs (entryByte c.entry 24) (entryNum c.entry 28 4) (recBytes (entryNum c.entry 32 4) buf) s

omit hloc hreach hlen hs in
theorem recOf_recsWritten (c : Cmd) (buf : List Byte) (s : State) (r : Nat) :
    recOf (bezelOf (recsWritten c buf s) (entryByte c.entry 24)) r =
      if entryNum c.entry 28 4 ≤ r ∧ r < entryNum c.entry 28 4 + entryNum c.entry 32 4 then
        openedRec (recOfBytes (nth [] (recBytes (entryNum c.entry 32 4) buf) (r - entryNum c.entry 28 4)))
      else recOf (bezelOf s (entryByte c.entry 24)) r := by
  rw [recsWritten, writeRecs_eq, length_recBytes]
  exact recOf_writeRecs _ _ _ _ (fun i => recOfBytes (nth [] (recBytes (entryNum c.entry 32 4) buf) i)) s

theorem redWrite_writes (hgood : recsBad (bezelOf s (entryByte c.entry 24)) (entryNum c.entry 28 4)
      (entryNum c.entry 32 4) (recBytes (entryNum c.entry 32 4) buf) = none) :
    Completes (.redWrite k buf) s fun t => Completed k c stOk 0 0 s t ∧
      (∀ i < entryNum c.entry 32 4, recOf (bezelOf t (entryByte c.entry 24)) (entryNum c.entry 28 4 + i) =
        openedRec (recOfBytes (nth [] (recBytes (entryNum c.entry 32 4) buf) i))) ∧
      (∀ r, (r < entryNum c.entry 28 4 ∨ entryNum c.entry 28 4 + entryNum c.entry 32 4 ≤ r) →
        recOf (bezelOf t (entryByte c.entry 24)) r = recOf (bezelOf s (entryByte c.entry 24)) r) ∧
      ((∀ i < entryNum c.entry 32 4, (recOfBytes (nth [] (recBytes (entryNum c.entry 32 4) buf) i)).st = .open_ →
          (recOfBytes (nth [] (recBytes (entryNum c.entry 32 4) buf) i)).expect = 0 ∨
          recFull (recOfBytes (nth [] (recBytes (entryNum c.entry 32 4) buf) i)) = false) →
        OnlyIn [.nutas, .bezels] s t ∧ OtherBezels (entryByte c.entry 24) s t) := by
  have hkeep : Keeps [.mem, .bezels, .ledger, .faults, .hub, .asy] (Started k s) (recsWritten c buf (Started k s)) :=
    keeps_writeRecs _ _ _ (.refl _ _) (by decide)
  refine completes_done (u := recsWritten c buf (Started k s)) hs ((exec_redWrite k buf s).trans (commandWith_done hs ?_))
    ((StartedIn.refl k s).keeps hkeep) fun hdone => ⟨hdone, fun i hi => ?_, fun r hr => ?_, fun halone => ?_⟩
  · dsimp only
    rw [recsRead_host (s := Started k s) hloc hreach hlen, redBuf_host (s := Started k s) hloc hreach hlen]
    dsimp only
    rw [show bezelOf (Started k s) (entryByte c.entry 24) = bezelOf s (entryByte c.entry 24) from rfl, hgood]
    rfl
  · refine (recOf_recsWritten c buf (Started k s) _).trans ?_
    rw [if_pos (by omega), Nat.add_sub_cancel_left]
  · exact (recOf_recsWritten c buf (Started k s) _).trans (if_neg (by omega))
  · have hbase : BezelKept (entryByte c.entry 24) s (Started k s) :=
      ⟨keeps_modNutas _ (Keeps.refl _ s) (by decide), fun _ _ => rfl⟩
    obtain ⟨honly, hothers⟩ := bezelKept_writeRecs (first := entryNum c.entry 28 4)
      (r := fun i => recOfBytes (nth [] (recBytes (entryNum c.entry 32 4) buf) i)) halone hbase
    have hrecs : recsWritten c buf (Started k s) = upTo (entryNum c.entry 32 4) (fun t i => writeRec (entryByte c.entry 24)
        (entryNum c.entry 28 4 + i) (recOfBytes (nth [] (recBytes (entryNum c.entry 32 4) buf) i)) t) (Started k s) := by
      rw [recsWritten, writeRecs_eq, length_recBytes]
    rw [← hrecs] at honly hothers
    exact ⟨(keeps_modNutas _ honly (by decide)).only, hothers⟩

end

/-! ### GEN_WRITE -/

/-- A record of a named bezel that is COMPLETE or UPDATING lies in the region, or a commit that waits or is armed names it. -/
def genBusy (c : Cmd) (s : State) : Prop :=
  (∃ z ∈ bezelsOf (entryNum c.entry 24 2), ∃ p ∈ (bezelOf s z).recs, p.2.region.toNat = entryByte c.entry 26 ∧
    (p.2.st = .complete ∨ p.2.st = .updating)) ∨
  ((s.commit.waiting = true ∨ s.commit.armed = true) ∧ bitOf s.commit.regions.toNat (entryByte c.entry 26) = true)

theorem genBusy_iff : (((bezelsOf (entryNum c.entry 24 2)).any fun z => (bezelOf s z).recs.any fun p =>
      p.2.region.toNat == entryByte c.entry 26 && (p.2.st == .complete || p.2.st == .updating)) ||
    ((s.commit.waiting || s.commit.armed) && bitOf s.commit.regions.toNat (entryByte c.entry 26))) = true ↔ genBusy c s := by
  simp only [genBusy, Bool.or_eq_true, Bool.and_eq_true, List.any_eq_true, beq_iff_eq]

section
variable (hs : Served k 0x41 (bytesMask 24 2 ++ [(26, 0x3F)] ++ bytesMask 32 4 ++ [(36, 0x0F)] ++ bytesMask 37 4 ++ [(41, 0x0F)] ++
  bytesMask 42 4 ++ [(46, 0x0F), (47, 0x03)] ++ bytesMask 48 7 ++ [(55, 0x0F)] ++ bytesMask 56 6) noChecks noBuf c s)
include hs

theorem genWrite_busy (hbusy : genBusy c s) :
    Completes (.genWrite k) s fun t => OnlyIn [.nutas] s t ∧ Completed k c stRecordBusy 0 0 s t :=
  completes_status hs ((exec_genWrite k s).trans (command_done hs (if_pos (genBusy_iff.2 hbusy))))
    fun _ honly hdone _ => ⟨honly, hdone⟩

theorem genWrite_writes (hfree : ¬ genBusy c s) :
    Completes (.genWrite k) s fun t => OnlyIn [.nutas, .bezels] s t ∧ Completed k c stOk 0 0 s t ∧
      ∀ z, bezelOf t z = if z ∈ bezelsOf (entryNum c.entry 24 2) then
        { bezelOf s z with gens := tblSet {} (bezelOf s z).gens (entryByte c.entry 26) (genOf c) } else bezelOf s z :=
  completes_done (u := modBezels (entryNum c.entry 24 2) (fun b => { b with
      gens := tblSet {} b.gens (entryByte c.entry 26) (genOf c) }) (Started k s)) hs
    ((exec_genWrite k s).trans (command_done hs (if_neg fun h => hfree (genBusy_iff.1 h)))) (startedIn_modBezels k _ _ s)
    fun hdone => ⟨(keeps_modNutas _ (keeps_modBezels _ _ (keeps_modNutas _ (Keeps.refl _ s) (by decide))) (by decide)).only,
      hdone, fun z => bezelOf_modBezels _ _ (Started k s) z⟩

end

/-! ### OPT_WRITE -/

/-- Of a list in rising order, the member that passes a test that no smaller one passes is found. -/
theorem find?_least {l : List (Nat × Nat)} {p : Nat × Nat → Bool} (hrise : l.Pairwise fun a b => a.1 < b.1) {m : Nat × Nat}
    (hm : m ∈ l) (hp : p m = true) (hleast : ∀ m' ∈ l, m'.1 < m.1 → p m' = false) : l.find? p = some m := by
  induction l with
  | nil => exact absurd hm List.not_mem_nil
  | cons a l ih =>
    obtain ⟨ha, hl⟩ := List.pairwise_cons.1 hrise
    rcases List.mem_cons.1 hm with rfl | hin
    · rw [List.find?_cons_of_pos hp]
    · rw [List.find?_cons_of_neg (by rw [hleast a List.mem_cons_self (ha m hin)]; decide)]
      exact ih hl hin fun m' hm' => hleast m' (List.mem_cons_of_mem _ hm')

theorem optReserved_rise : optReserved.Pairwise fun a b => a.1 < b.1 := by decide

theorem optReserved_lt {m : Nat × Nat} (hm : m ∈ optReserved) : m.1 < 64 := by
  have hall : ∀ m ∈ optReserved, m.1 < 64 := by decide
  exact hall m hm

/-- A byte of what was read is that of the buffer. -/
theorem cutNum_take_byte {n i : Nat} (hi : i < n) (buf : List Byte) : cutNum (buf.take n) i 1 = cutNum buf i 1 := by
  have h1 : min 1 (n - i) = 1 := by omega
  rw [cutNum, cutNum, cut, cut, List.drop_take, List.take_take, h1]

section
variable (hloc : (bufOf c.entry).loc = 1) (hreach : hostReach s = true)
include hloc hreach

theorem optWrite_badForm (hl : LooksAt k 0x42 (bufMaskAll ++ bytesMask 24 2 ++ [(26, 0x0F)]) noChecks (fun _ => some 64) c s)
    (hlen : 64 ≤ buf.length) {m : Nat × Nat} (hm : m ∈ optReserved) (hbad : Nat.land (cutNum buf m.1 1) m.2 ≠ 0)
    (hgood : ∀ m' ∈ optReserved, m'.1 < m.1 → Nat.land (cutNum buf m'.1 1) m'.2 = 0) :
    Completes (.optWrite k buf) s fun t => OnlyIn [.nutas] s t ∧ Completed k c stBadField (BitVec.ofNat 64 m.1) 0 s t := by
  refine completes_refused ((exec_optWrite k buf s).trans (commandWith_refused hl rfl ?_))
  rw [bufRead_host_whole hloc hreach hlen, optForm, find?_least optReserved_rise hm]
  · rfl
  · simp only [Option.getD_none, cutNum_take_byte (optReserved_lt hm), decide_eq_true (optReserved_lt hm), Bool.true_and]
    exact bne_iff_ne.2 hbad
  · intro m' hm' hlt
    simp only [Option.getD_none, cutNum_take_byte (optReserved_lt hm'), hgood m' hm' hlt, bne_self_eq_false, Bool.and_false]

variable (hs : ServedWith k 0x42 (bufMaskAll ++ bytesMask 24 2 ++ [(26, 0x0F)]) noChecks (fun _ => some 64)
  (fun c t => optForm (bufRead t (bufOf c.entry) 64 buf)) c s)
include hs

theorem optWrite_short (hlen : buf.length < 64) :
    Completes (.optWrite k buf) s fun t => OnlyIn [.nutas] s t ∧
      Completed k c stMemFault 0 (BitVec.ofNat 64 (buf.length / 32 * 32)) s t := by
  refine completes_status hs ((exec_optWrite k buf s).trans (commandWith_done hs ?_)) fun _ honly hdone _ => ⟨honly, hdone⟩
  dsimp only
  rw [bufRead_host_short (s := Started k s) hloc hreach hlen]

theorem optWrite_writes (hlen : 64 ≤ buf.length) :
    Completes (.optWrite k buf) s fun t => OnlyIn [.nutas, .bezels] s t ∧ Completed k c stOk 0 0 s t ∧
      ∀ z, bezelOf t z = if z ∈ bezelsOf (entryNum c.entry 24 2) then { bezelOf s z with
          optShadow := tblSet 0 (bezelOf s z).optShadow (entryByte c.entry 26) (BitVec.ofNat 512 (ofBytes (buf.take 64))) }
        else bezelOf s z := by
  refine completes_done (u := modBezels (entryNum c.entry 24 2) (fun b => { b with
      optShadow := tblSet 0 b.optShadow (entryByte c.entry 26) (BitVec.ofNat 512 (ofBytes (buf.take 64))) }) (Started k s)) hs
    ((exec_optWrite k buf s).trans (commandWith_done hs ?_)) (startedIn_modBezels k _ _ s)
    fun hdone => ⟨(keeps_modNutas _ (keeps_modBezels _ _ (keeps_modNutas _ (Keeps.refl _ s) (by decide))) (by decide)).only,
      hdone, fun z => bezelOf_modBezels _ _ (Started k s) z⟩
  dsimp only
  rw [bufRead_host_whole (s := Started k s) hloc hreach hlen]
  rfl

end

/-! ### RED_CFG and LEDGER_CTL -/

section
variable (hs : Served k 0x43 (bytesMask 24 2 ++ bytesMask 32 5 ++ [(37, 0x03)])
  (fun c t => [(32, (bezelsOf (entryNum c.entry 24 2)).all fun z =>
    redCfgFits (redCfg (redCfgSet (BitVec.ofNat 64 (entryNum c.entry 32 8)) (bezelOf t z))))]) noBuf c s)
include hs

theorem redCfg_planRuns (hplan : planRuns s = true) :
    Completes (.redCfg k) s fun t => OnlyIn [.nutas] s t ∧ Completed k c stPlanRunning 0 0 s t :=
  completes_status hs ((exec_redCfg k s).trans (command_done hs (if_pos hplan))) fun _ honly hdone _ => ⟨honly, hdone⟩

theorem redCfg_writes (hplan : planRuns s = false) :
    Completes (.redCfg k) s fun t => OnlyIn [.nutas, .bezels] s t ∧ Completed k c stOk 0 0 s t ∧
      ∀ z, bezelOf t z = if z ∈ bezelsOf (entryNum c.entry 24 2) then
        redCfgSet (BitVec.ofNat 64 (entryNum c.entry 32 8)) (bezelOf s z) else bezelOf s z :=
  completes_done (u := modBezels (entryNum c.entry 24 2) (redCfgSet (BitVec.ofNat 64 (entryNum c.entry 32 8))) (Started k s)) hs
    ((exec_redCfg k s).trans (command_done hs (if_neg (Bool.eq_false_iff.1 hplan)))) (startedIn_modBezels k _ _ s)
    fun hdone => ⟨(keeps_modNutas _ (keeps_modBezels _ _ (keeps_modNutas _ (Keeps.refl _ s) (by decide))) (by decide)).only,
      hdone, fun z => bezelOf_modBezels _ _ (Started k s) z⟩

end

theorem ledgerCtl_waits (hs : Served k 0x61 (bytesMask 24 4 ++ [(28, 1)])
      (fun c _ => [(24, decide (16 ≤ entryNum c.entry 24 4) && decide (entryNum c.entry 24 4 ≤ 65536))]) noBuf c s) :
    Completes (.ledgerCtl k) s fun t => WaitsAs k (.config k false) s t ∧ t.ledger = { s.ledger with
      newDepth := some (BitVec.ofNat 17 (entryNum c.entry 24 4), bitOf (entryByte c.entry 28) 0) } :=
  completes_of_exec ((exec_ledgerCtl k s).trans (command_wait hs rfl)) ⟨⟨rfl, rfl, rfl, rfl⟩, rfl⟩

/-! ### CNT_CONFIG and CNT_SNAP -/

/-- The checks of CNT_CONFIG's fields. -/
def cntChecks (c : Cmd) (t : State) : List (Nat × Bool) :=
  let base := entryNum c.entry 32 6
  let size := entryNum c.entry 40 4
  [(32, base % 4096 == 0 && inStacks base size && !meetsCoherent t base size), (40, decide (recordStride ≤ size)),
   (44, decide (entryNum c.entry 44 4 < 4194304))]

theorem nth_take {n i : Nat} (hi : i < n) (buf : List Byte) : nth 0 (buf.take n) i = nth 0 buf i := by
  rw [nth, nth, List.getD_eq_getElem?_getD, List.getElem?_take_of_lt hi, List.getD_eq_getElem?_getD]

/-- The configuration that a command asks for, with the codes of its buffer. -/
def confOf (c : Cmd) (k : Nat) (buf : List Byte) : CntConf :=
  let codes := (List.range (8 * blkCount)).map fun i => nth 0 (buf.take (8 * blkCount)) i
  { num := k, codes := ((List.range codes.length).zip codes).filter fun p => p.2 != 0
    base := entryNum c.entry 32 6, size := entryNum c.entry 40 4, period := entryNum c.entry 44 4 }

theorem confOf_codes (c : Cmd) (k : Nat) {buf : List Byte} {i : Nat} (hi : i < 18960) :
    tblGet 0 (confOf c k buf).codes i = nth 0 buf i := by
  have hcount : 8 * blkCount = 18960 := rfl
  have hcodes : (confOf c k buf).codes = ((List.range 18960).map fun i => (i, nth 0 (buf.take 18960) i)).filter
      fun p => decide (p.2 ≠ 0) := by
    rw [List.map_prod_left_eq_zip]
    simp only [confOf, hcount, List.length_map, List.length_range]
    congr 1
    funext p
    simp [bne, BEq.beq]
  rw [hcodes, tblGet_tabled, if_pos (List.mem_range.2 hi), nth_take hi]

section
variable (hloc : (bufOf c.entry).loc = 1) (hreach : hostReach s = true)
include hloc hreach

theorem cntConfig_badForm (hl : LooksAt k 0x70 (bufMaskAll ++ bytesMask 32 6 ++ bytesMask 40 8) cntChecks
      (fun _ => some (8 * blkCount)) c s) {i : Nat} (hi : i < 18960) (hthere : i / 32 < buf.length / 32 ∨ 18960 ≤ buf.length)
    (hbad : codeAssigned (i / 8) (nth (0 : Byte) buf i).toNat = false)
    (hgood : ∀ j < i, codeAssigned (j / 8) (nth (0 : Byte) buf j).toNat = true) :
    Completes (.cntConfig k buf) s fun t => OnlyIn [.nutas] s t ∧ Completed k c stBadField (BitVec.ofNat 64 i) 0 s t := by
  refine completes_refused ((exec_cntConfig k buf s).trans (commandWith_refused hl rfl ?_))
  have hcount : 8 * blkCount = 18960 := rfl
  simp only [bufRead_host hloc hreach, codesForm, hcount]
  rw [List.find?_range_eq_some.2 ⟨?_, List.mem_range.2 ?_, fun j hj => ?_⟩]
  · rfl
  · rw [nth_take hi, hbad]
    rfl
  · split
    · rw [Option.getD_some]
      omega
    · rw [Option.getD_none]
      omega
  · rw [nth_take (by omega), hgood j hj]
    rfl

variable (hs : ServedWith k 0x70 (bufMaskAll ++ bytesMask 32 6 ++ bytesMask 40 8) cntChecks (fun _ => some (8 * blkCount))
  (fun c t => codesForm (bufRead t (bufOf c.entry) (8 * blkCount) buf)) c s)
include hs

theorem cntConfig_short (hlen : buf.length < 18960) :
    Completes (.cntConfig k buf) s fun t => OnlyIn [.nutas] s t ∧
      Completed k c stMemFault 0 (BitVec.ofNat 64 (buf.length / 32 * 32)) s t := by
  refine completes_status hs ((exec_cntConfig k buf s).trans (commandWith_done hs ?_)) fun _ honly hdone _ => ⟨honly, hdone⟩
  dsimp only
  rw [bufRead_host_short (s := Started k s) hloc hreach (n := 8 * blkCount) hlen]

theorem cntConfig_waits (hlen : 18960 ≤ buf.length) :
    Completes (.cntConfig k buf) s fun t => OnlyIn [.nutas, .asy] s t ∧ WaitsAs k (.config k true) s t ∧
      ∃ f, t.asy = { s.asy with conf := some f } ∧ f.num = k ∧ f.base = entryNum c.entry 32 6 ∧
        f.size = entryNum c.entry 40 4 ∧ f.period = entryNum c.entry 44 4 ∧
        ∀ i < 18960, tblGet 0 f.codes i = nth 0 buf i := by
  obtain ⟨u, hu⟩ : ∃ u : State, { Started k s with asy := { (Started k s).asy with conf := some (confOf c k buf) } } = u := ⟨_, rfl⟩
  have hdo : exec (.cntConfig k buf) s = .next (waitFor (.config k true) u) := by
    refine (exec_cntConfig k buf s).trans (commandWith_wait hs ?_)
    dsimp only
    rw [bufRead_host_whole (s := Started k s) hloc hreach (n := 8 * blkCount) hlen, ← hu]
    rfl
  have hkeep : Keeps [.nutas, .asy] s u := by
    rw [← hu]
    dsimp only [keeps_mk]
    exact KeepsMk.w_asy (keeps_modNutas _ (Keeps.refl _ s) (by decide)) (by decide)
  refine completes_of_exec hdo ⟨(keeps_modNutas _ hkeep (by decide)).only, ?_, confOf c k buf, ?_, rfl, rfl, rfl, rfl,
    fun i hi => confOf_codes c k hi⟩
  · rw [← hu]
    exact ⟨rfl, rfl, rfl, rfl⟩
  · rw [← hu]
    rfl

end

theorem cntSnap_waits (hs : Served k 0x71 bufMaskAll noChecks (fun _ => some recordLen) c s) :
    Completes (.cntSnap k) s fun t => OnlyIn [.nutas] s t ∧
      WaitsAs k (.snap k (bufOf c.entry).addr (bufOf c.entry).loc) s t :=
  completes_of_exec ((exec_cntSnap k s).trans (command_wait hs rfl))
    ⟨(keeps_modNutas _ (keeps_modNutas _ (Keeps.refl _ s) (by decide)) (by decide)).only, rfl, rfl, rfl, rfl⟩

end

/-- Settles O55: one lemma for each outcome of each command. -/
theorem settingsOfUnitsAreWritten : Obligations.SettingsOfUnitsAreWritten := by
  unfold Obligations.SettingsOfUnitsAreWritten
  intro s k c buf
  exact ⟨fun hl hloc hreach hlen i hi hbad hgood => redWrite_badForm hloc hreach hlen hl hi hbad hgood,
    fun hs hloc hreach hlen => ⟨fun _ _ => redWrite_refused hloc hreach hlen hs, redWrite_writes hloc hreach hlen hs⟩,
    fun hs => ⟨genWrite_busy hs, genWrite_writes hs⟩,
    fun hl hloc hreach hlen m hm hbad hgood => optWrite_badForm hloc hreach hl hlen hm hbad hgood,
    fun hs hloc hreach => ⟨optWrite_short hloc hreach hs, optWrite_writes hloc hreach hs⟩,
    fun hs => ⟨redCfg_planRuns hs, redCfg_writes hs⟩, ledgerCtl_waits,
    fun hl hloc hreach i hi hthere hbad hgood => cntConfig_badForm hloc hreach hl hi hthere hbad hgood,
    fun hs hloc hreach => ⟨cntConfig_short hloc hreach hs, cntConfig_waits hloc hreach hs⟩, cntSnap_waits⟩

end Sys2Proof.Proofs
end

section
/-! Facts about what a command writes into its buffer. -/

namespace Sys2Proof.Proofs

open Sys2Proof Sys2Proof.Machine Sys2Proof.Laws

section
variable {s t : State} {k opc n : Nat} {used : List (Nat × Nat)} {checks : Cmd → State → List (Nat × Bool)} {need : Cmd → Option Nat}
  {data : Cmd → State → Option (Nat × Word)} {c : Cmd} {b : Buf} {l : List Byte}

/-- A command that is served has a buffer in form (R597). -/
theorem bufOk_of_served (hs : ServedWith k opc used checks need data c s) (hneed : need c = some n) :
    bufOk c.mbx.val n (bufOf c.entry) = true := by
  obtain ⟨-, -, -, hpre, -⟩ := hs
  by_contra hcon
  have hbad := Bool.eq_false_iff.2 hcon
  simp only [precheck, hneed] at hpre
  split at hpre
  · exact absurd hpre (by simp)
  · split at hpre
    · exact absurd hpre (by simp)
    · simp [hbad] at hpre

theorem notMgmt_of_bufOk (h : bufOk c.mbx.val n b = true) (hloc : b.loc = 1) : c.mbx.val ≠ 8 := by
  simp only [bufOk, hloc] at h
  intro h8
  simp [h8] at h

theorem aligned_of_bufOk (h : bufOk c.mbx.val n b = true) (hloc : b.loc = 0) : b.addr % 32 = 0 := by
  simp only [bufOk, hloc, if_true, Bool.and_eq_true, beq_iff_eq] at h
  exact h.2.1

/-! ### Host memory and the staging area -/

theorem bufWrite_host (hloc : b.loc = 1) (hreach : hostReach s = true) : bufWrite b l s = emit (.hostWrite b.addr l) s := by
  rw [bufWrite, if_neg (by omega), if_pos hloc, if_pos hreach]

/-- Bytes in the staging area. -/
def stageWritten (a : Nat) (l : List Byte) (s : State) : State :=
  { s with mgmt := { s.mgmt with stage := upTo l.length (fun t i => tblSet 0 t (a + i) (nth 0 l i)) s.mgmt.stage } }

theorem bufWrite_stage (hloc : b.loc = 2) : bufWrite b l s = stageWritten b.addr l s := by
  rw [bufWrite, if_neg (by omega), if_neg (by omega)]
  rfl

theorem keeps_stageWritten {ps : List Part} {s0 : State} (a : Nat) (l : List Byte) (h : Keeps ps s0 s) (hp : sub [.mgmt] ps = true) :
    Keeps ps s0 (stageWritten a l s) := by
  unfold stageWritten
  dsimp only [keeps_mk]
  exact KeepsMk.w_mgmt h (sub_mem (by decide) hp)

/-- Values put one behind the other in a table. -/
theorem tblGet_upTo_shifted {α : Type} [DecidableEq α] (d : α) (f : Nat → α) (a n : Nat) (t : Tbl α) (i : Nat) :
    tblGet d (upTo n (fun t j => tblSet d t (a + j) (f j)) t) i = if a ≤ i ∧ i < a + n then f (i - a) else tblGet d t i := by
  induction n with
  | zero => exact (if_neg (by omega)).symm
  | succ n ih =>
    rw [upTo_succ]
    by_cases hi : i = a + n
    · rw [hi, tblGet_tblSet_same, if_pos (by omega), Nat.add_sub_cancel_left]
    · rw [tblGet_tblSet_other _ _ _ _ _ hi, ih]
      by_cases hin : a ≤ i ∧ i < a + n
      · rw [if_pos hin, if_pos (by omega)]
      · rw [if_neg hin, if_neg (by omega)]

theorem stage_stageWritten (a : Nat) (l : List Byte) (s : State) (i : Nat) : tblGet 0 (stageWritten a l s).mgmt.stage i =
    if a ≤ i ∧ i < a + l.length then nth 0 l (i - a) else tblGet 0 s.mgmt.stage i :=
  tblGet_upTo_shifted 0 (nth 0 l) a l.length s.mgmt.stage i

/-! ### The stacks -/

/-- Granule `g` is none of those at which the first `n` granules from an address on lie. -/
def OffTargets (s : State) (a n g : Nat) : Prop :=
  ∀ i z x, i < n → placeOf s.mem.splitNow.toNat (a + 32 * i) = .stack z x →
    g ≠ stackGran z (redirected (bezelOf s z) (x / 32)) ∧ g ≠ reliefGran z (x / 32)

/-- Granules have been stored from an address on: beside the granules themselves, bezels' open rows and generation marks alone
have changed of what a further store looks at. -/
structure StoredGrans (a n : Nat) (s t : State) : Prop where
  elsewhere : ∀ g, OffTargets s a n g → codeAt t.mem g = codeAt s.mem g
  split : t.mem.splitNow = s.mem.splitNow
  rows : ∀ z, RowsOnly (bezelOf s z) (bezelOf t z)
  out : t.out = s.out

theorem rowsOnly_counted_store (z x : Nat) (cw : Code) (s : State) (z' : Nat) :
    RowsOnly (bezelOf s z') (bezelOf (stackStore z x cw (countEv (blkBezel z) 0x03 1 s)) z') := by
  by_cases h : z' = z
  · rw [h]
    exact rowsOnly_locketStore cw
  · rw [otherBezels_stackStore z x cw (countEv (blkBezel z) 0x03 1 s) z' h, bezelOf_congr (countEv_bezels _ _ _ _)]
    rfl

theorem StoredGrans.skip {a : Nat} (h : StoredGrans a n s t) : StoredGrans a (n + 1) s t :=
  ⟨fun g hg => h.elsewhere g fun i z x hi => hg i z x (by omega), h.split, h.rows, h.out⟩

theorem stackPut_splitNow (z x : Nat) (cw : Code) (s : State) : (stackPut z x cw s).mem.splitNow = s.mem.splitNow := by
  have hput (u : State) (g : Nat) : (putCode u g cw).mem.splitNow = u.mem.splitNow := rfl
  unfold stackPut
  dsimp only
  split <;> split <;> simp only [hput]

theorem StoredGrans.next {a z x : Nat} (h : StoredGrans a n s t) (hplace : placeOf s.mem.splitNow.toNat (a + 32 * n) = .stack z x)
    (cw : Code) : StoredGrans a (n + 1) s (stackStore z x cw (countEv (blkBezel z) 0x03 1 t)) := by
  have hcount : (countEv (blkBezel z) 0x03 1 t).mem = t.mem := countEv_mem _ _ _ _
  have hbezel : bezelOf (countEv (blkBezel z) 0x03 1 t) z = bezelOf t z := bezelOf_congr (countEv_bezels _ _ _ _) z
  refine ⟨fun g hg => ?_, ?_, fun z' => rowsOnly_trans (h.rows z') (rowsOnly_counted_store z x cw t z'), ?_⟩
  · obtain ⟨hnear, hfar⟩ := hg n z x (by omega) hplace
    have hredirect : redirected (bezelOf t z) (x / 32) = redirected (bezelOf s z) (x / 32) := by rw [h.rows z]; rfl
    rw [stackStore_mem, codeAt_stackPut_other (by rw [hbezel, hredirect]; exact hnear) hfar, hcount]
    exact h.elsewhere g fun i z x hi => hg i z x (by omega)
  · rw [stackStore_mem, stackPut_splitNow, hcount, h.split]
  · have hkeep := keeps_stackStore z x cw (.refl [.fabric, .mem, .bezels, .asy] (countEv (blkBezel z) 0x03 1 t)) (by decide)
    rw [hkeep.only.out.resolve_left (by decide), countEv_out, h.out]

/-- Every granule of the buffer can be written at once: it lies in no intake, and the host holds no line of it. -/
def FreeGrans (s : State) (a n : Nat) : Prop :=
  ∀ i z x, i < n → placeOf s.mem.splitNow.toNat (a + 32 * i) = .stack z x →
    inIntake (bezelOf s z) x = false ∧ heldLines (bezelOf s z) [x] = []

theorem storedGrans_locketWrite {a : Nat} (hlen : l.length = 32 * n) (hfree : FreeGrans s a n) :
    StoredGrans a n s (locketWrite a l s) := by
  have hgrans (m : Nat) (hm : m ≤ n) : StoredGrans a m s (upTo m (fun t i =>
      match placeOf t.mem.splitNow.toNat (a + 32 * i) with
      | .stack z x => locketStore z x (a + 32 * i) ((l.drop (32 * i)).take 32) t
      | _ => t) s) := by
    induction m with
    | zero => exact ⟨fun _ _ => rfl, rfl, fun _ => rfl, rfl⟩
    | succ m ih =>
      have hdone := ih (by omega)
      rw [upTo_succ]
      generalize upTo m _ s = t at hdone ⊢
      rw [hdone.split]
      split
      · rename_i z x hplace
        obtain ⟨hintake, hheld⟩ := hfree m z x (by omega) hplace
        obtain ⟨hintake', hheld'⟩ := (hdone.rows z).free x
        rw [locketStore_whole (hintake'.trans hintake) (hheld'.trans hheld) (by rw [List.length_take, List.length_drop]; omega)]
        exact hdone.next hplace _
      · exact hdone.skip
  have hcount : (l.length + 31) / 32 = n := by omega
  unfold locketWrite
  rw [hcount]
  exact hgrans n le_rfl

/-- One granule written at a place is found there. -/
theorem stackCode_locketWrite {a z x : Nat} (hlen : l.length = 32) (hplace : placeOf s.mem.splitNow.toNat a = .stack z x)
    (hintake : inIntake (bezelOf s z) x = false) (hheld : heldLines (bezelOf s z) [x] = []) :
    stackCode (locketWrite a l s) z x = passOn (encodeGran (granOf l)) := by
  have hgo : locketWrite a l s = stackStore z x (encodeGran (granOf l)) (countEv (blkBezel z) 0x03 1 s) := by
    have hone : (l.length + 31) / 32 = 1 := by omega
    have htake : l.take 32 = l := List.take_of_length_le (by omega)
    unfold locketWrite
    rw [hone, upTo_succ]
    change (match placeOf s.mem.splitNow.toNat (a + 32 * 0) with
      | .stack z x => locketStore z x (a + 32 * 0) ((l.drop (32 * 0)).take 32) s
      | _ => s) = _
    rw [Nat.mul_zero, Nat.add_zero, hplace]
    dsimp only
    rw [List.drop_zero, htake, locketStore_whole hintake hheld hlen]
  have hrows : RowsOnly (bezelOf s z) (bezelOf (locketWrite a l s) z) := by
    rw [hgo]
    exact rowsOnly_locketStore _
  have hsrc : stackSrc (locketWrite a l s) z x = stackSrc (countEv (blkBezel z) 0x03 1 s) z x := by
    rw [stackSrc, stackSrc, hrows, bezelOf_congr (countEv_bezels s (blkBezel z) 0x03 1)]
    rfl
  rw [stackCode, hsrc, hgo, stackStore_mem, codeAt_stackPut_src]

end

end Sys2Proof.Proofs
end

section
/-! Proofs for chapter 17: the queries. -/

namespace Sys2Proof.Proofs

open Sys2Proof Sys2Proof.Machine Sys2Proof.Laws

theorem exec_nop (k : Nat) (s : State) : exec (.nop k) s = execNop k s := rfl
theorem exec_status (k : Nat) (s : State) : exec (.status k) s = execStatus k s := rfl
theorem exec_identify (k : Nat) (s : State) : exec (.identify k) s = execIdentify k s := rfl
theorem exec_posmap (k : Nat) (s : State) : exec (.posmap k) s = execPosmap k s := rfl
theorem exec_cohortRead (k : Nat) (s : State) : exec (.cohortRead k) s = execCohortRead k s := rfl
theorem exec_ledgerRead (k : Nat) (s : State) : exec (.ledgerRead k) s = execLedgerRead k s := rfl
theorem exec_fltRead (k : Nat) (s : State) : exec (.fltRead k) s = execFltRead k s := rfl
theorem exec_fltAck (k : Nat) (s : State) : exec (.fltAck k) s = execFltAck k s := rfl

section
variable {s : State} {k opc : Nat} {c : Cmd} {used : List (Nat × Nat)} {need : Cmd → Option Nat} {i : Instr} {l : List Byte}
  {r0 r1 : Word}

/-! ### A record into the buffer -/

section
variable (hs : Served k opc used noChecks need c s)
  (hexec : exec i s = .next (complete k stOk r0 r1 (bufWrite (bufOf c.entry) l (Started k s))))
include hs hexec

theorem query_host (hloc : (bufOf c.entry).loc = 1) (hreach : hostReach s = true) :
    Completes i s fun t => OnlyIn [.nutas, .out] s t ∧ Completed k c stOk r0 r1 s t ∧
      t.out = s.out ++ [.hostWrite (bufOf c.entry).addr l] := by
  rw [bufWrite_host (s := Started k s) hloc hreach] at hexec
  refine completes_done hs hexec ⟨rfl, rfl, rfl, rfl⟩ fun hdone => ⟨?_, hdone, rfl⟩
  exact (keeps_modNutas _ (keeps_emit _ (keeps_modNutas _ (Keeps.refl _ s) (by decide)) (by decide)) (by decide)).only

theorem query_stage (hloc : (bufOf c.entry).loc = 2) :
    Completes i s fun t => OnlyIn [.nutas, .mgmt] s t ∧ Completed k c stOk r0 r1 s t ∧
      (∀ j < l.length, tblGet 0 t.mgmt.stage ((bufOf c.entry).addr + j) = nth 0 l j) ∧
      ∀ a, (a < (bufOf c.entry).addr ∨ (bufOf c.entry).addr + l.length ≤ a) →
        tblGet 0 t.mgmt.stage a = tblGet 0 s.mgmt.stage a := by
  rw [bufWrite_stage hloc] at hexec
  have hstage := stage_stageWritten (bufOf c.entry).addr l (Started k s)
  have hstarted := (StartedIn.refl k s).keeps
    (keeps_stageWritten (bufOf c.entry).addr l (.refl [.mgmt] (Started k s)) (by decide))
  have hkeep : Keeps [.nutas, .mgmt] s (stageWritten (bufOf c.entry).addr l (Started k s)) :=
    keeps_stageWritten _ _ (keeps_modNutas _ (Keeps.refl _ s) (by decide)) (by decide)
  generalize stageWritten (bufOf c.entry).addr l (Started k s) = u at *
  refine completes_done hs hexec hstarted fun hdone => ⟨(keeps_modNutas _ hkeep (by decide)).only, hdone,
    fun j hj => (hstage _).trans ?_, fun a ha => (hstage a).trans (if_neg (by omega))⟩
  rw [if_pos (by omega), Nat.add_sub_cancel_left]

theorem query_stack (hloc : (bufOf c.entry).loc = 0) {n : Nat} (hlen : l.length = 32 * n)
    (hfree : FreeGrans s (bufOf c.entry).addr n) :
    Completes i s fun t => Completed k c stOk r0 r1 s t ∧ t.out = s.out ∧ t.mgmt = s.mgmt ∧
      ∀ g, OffTargets s (bufOf c.entry).addr n g → codeAt t.mem g = codeAt s.mem g := by
  have hwrite : bufWrite (bufOf c.entry) l (Started k s) = locketWrite (bufOf c.entry).addr l (Started k s) := if_pos hloc
  have hstored := storedGrans_locketWrite (s := Started k s) hlen hfree
  have hkeep := keeps_locketWrite (bufOf c.entry).addr l
    (.refl [.fabric, .mem, .bezels, .ledger, .faults, .hub, .asy, .out] (Started k s)) (by decide)
  rw [hwrite] at hexec
  generalize locketWrite (bufOf c.entry).addr l (Started k s) = u at *
  exact completes_done hs hexec ((StartedIn.refl k s).keeps hkeep) fun hdone =>
    ⟨hdone, hstored.out, hkeep.only.mgmt.resolve_left (by decide), fun g hg => hstored.elsewhere g hg⟩

end

/-- A query that writes a record of its own into its buffer (R602). -/
theorem query_answers {rec : State → List Byte} {n : Nat}
    (hexec : exec i s = command opc k used noChecks need
      (fun c t => .done stOk 0 0 (bufWrite (bufOf c.entry) (rec t) t)) s)
    (hrec : rec (Started k s) = rec s) (hlen : (rec s).length = 32 * n) (hs : Served k opc used noChecks need c s) :
    ((bufOf c.entry).loc = 1 → hostReach s = true → Completes i s fun t => OnlyIn [.nutas, .out] s t ∧
      Completed k c stOk 0 0 s t ∧ t.out = s.out ++ [.hostWrite (bufOf c.entry).addr (rec s)]) ∧
    ((bufOf c.entry).loc = 2 → Completes i s fun t => OnlyIn [.nutas, .mgmt] s t ∧ Completed k c stOk 0 0 s t ∧
      (∀ j < (rec s).length, tblGet 0 t.mgmt.stage ((bufOf c.entry).addr + j) = nth 0 (rec s) j) ∧
      ∀ a, (a < (bufOf c.entry).addr ∨ (bufOf c.entry).addr + (rec s).length ≤ a) →
        tblGet 0 t.mgmt.stage a = tblGet 0 s.mgmt.stage a) ∧
    ((bufOf c.entry).loc = 0 → (∀ j z x, 32 * j < (rec s).length →
        placeOf s.mem.splitNow.toNat ((bufOf c.entry).addr + 32 * j) = .stack z x →
        inIntake (bezelOf s z) x = false ∧ heldLines (bezelOf s z) [x] = []) →
      Completes i s fun t => Completed k c stOk 0 0 s t ∧ t.out = s.out ∧ t.mgmt = s.mgmt ∧
      ∀ g, (∀ j z x, 32 * j < (rec s).length →
          placeOf s.mem.splitNow.toNat ((bufOf c.entry).addr + 32 * j) = .stack z x →
        g ≠ stackGran z (redirected (bezelOf s z) (x / 32)) ∧ g ≠ reliefGran z (x / 32)) →
      codeAt t.mem g = codeAt s.mem g) := by
  have hgo : exec i s = .next (complete k stOk 0 0 (bufWrite (bufOf c.entry) (rec s) (Started k s))) := by
    rw [hexec, command_done hs rfl, hrec]
  refine ⟨query_host hs hgo, query_stage hs hgo, fun hloc hfree => ?_⟩
  refine completes_mono (query_stack hs hgo hloc hlen fun j z x hj => hfree j z x (by omega)) fun t ht => ?_
  obtain ⟨hdone, hout, hmgmt, helse⟩ := ht
  exact ⟨hdone, hout, hmgmt, fun g hg => helse g fun j z x hj => hg j z x (by omega)⟩

theorem identityRecord_length (s : State) : (identityRecord s).length = 256 := by
  simp only [identityRecord, idBytes, List.length_append, List.length_map, List.length_range, toBytes_length,
    List.length_replicate]

theorem length_flatMap_range {f : Nat → List Byte} {m : Nat} (hf : ∀ i, (f i).length = m) (n : Nat) :
    ((List.range n).flatMap f).length = n * m := by
  simp [List.length_flatMap, hf]

theorem cohortBytes_length (c : Cohort) : (cohortBytes c).length = 32 := by simp [cohortBytes, toBytes_length]

/-! ### NOP and STATUS -/

theorem nop_answers (hs : Served k 0x00 [] noChecks noBuf c s) :
    Completes (.nop k) s fun t => OnlyIn [.nutas] s t ∧ Completed k c stOk 0 0 s t :=
  completes_status hs ((exec_nop k s).trans (command_done hs rfl)) fun _ honly hdone _ => ⟨honly, hdone⟩

theorem status_answers (hs : Served k 0x02 [] noChecks noBuf c s) :
    Completes (.status k) s fun t => OnlyIn [.nutas] s t ∧
      Completed k c stOk (statusWord s) (s.clock.tick.setWidth 64) s t :=
  completes_status hs ((exec_status k s).trans (command_done hs rfl)) fun _ honly hdone _ => ⟨honly, hdone⟩

/-! ### LEDGER_READ -/

theorem ledgerRead_answers
    (hs : Served k 0x60 (bufMaskAll ++ bytesMask 32 6 ++ bytesMask 40 4) noChecks (fun c => some (64 * entryNum c.entry 40 4)) c s)
    (hloc : (bufOf c.entry).loc = 1) (hreach : hostReach s = true) :
    let l := (s.ledger.recs.filter fun r => decide (entryNum c.entry 32 6 ≤ r.tick.toNat)).take (entryNum c.entry 40 4)
    Completes (.ledgerRead k) s fun t => OnlyIn [.nutas, .out] s t ∧
      Completed k c stOk (BitVec.ofNat 64 l.length) (BitVec.ofNat 64 ((l.head?.map fun r => r.tick.toNat).getD 0)) s t ∧
      t.out = s.out ++ [.hostWrite (bufOf c.entry).addr (l.flatMap ledgerBytes)] :=
  query_host hs ((exec_ledgerRead k s).trans (command_done hs rfl)) hloc hreach

/-! ### FLT_READ -/

/-- The fault-ring records that a command reads. -/
def readFaults (c : Cmd) (s : State) : List FaultRec :=
  faultsFrom s.faults (BitVec.ofNat 32 (entryNum c.entry 24 4)) (entryNum c.entry 28 4)

/-- The sequence number behind the records that a command reads. -/
def readAfter (c : Cmd) (s : State) : Word32 :=
  ((readFaults c s).getLast?.map fun r => r.seq + 1).getD (BitVec.ofNat 32 (entryNum c.entry 24 4))

/-- The count of records lost to a master has been read, and starts anew. -/
def lostRead (mgmt : Bool) (s : State) : State :=
  { s with faults := { s.faults with
    overMgt := if mgmt then 0 else s.faults.overMgt
    overHost := if mgmt then s.faults.overHost else 0 } }

theorem keeps_lostRead {ps : List Part} {s0 : State} (mgmt : Bool) (h : Keeps ps s0 s) (hp : sub [.faults] ps = true) :
    Keeps ps s0 (lostRead mgmt s) := by
  unfold lostRead
  dsimp only [keeps_mk]
  exact KeepsMk.w_faults h (sub_mem (by decide) hp) (fun hw => hw) fun hr => hr

section
variable (hs : Served k 0x80 (bufMaskAll ++ bytesMask 24 8) noChecks (fun c => some (32 * entryNum c.entry 28 4)) c s)
include hs

theorem exec_fltRead_done : exec (.fltRead k) s = .next (complete k stOk ((readAfter c s).setWidth 64)
    ((if c.mbx.val == 8 then s.faults.overMgt else s.faults.overHost).setWidth 64)
    (lostRead (c.mbx.val == 8) (bufWrite (bufOf c.entry) ((readFaults c s).flatMap faultBytes) (Started k s)))) :=
  (exec_fltRead k s).trans (command_done hs rfl)

theorem fltRead_host (hloc : (bufOf c.entry).loc = 1) (hreach : hostReach s = true) :
    Completes (.fltRead k) s fun t => OnlyIn [.nutas, .out, .faults] s t ∧
      Completed k c stOk ((readAfter c s).setWidth 64) (s.faults.overHost.setWidth 64) s t ∧
      t.out = s.out ++ [.hostWrite (bufOf c.entry).addr ((readFaults c s).flatMap faultBytes)] ∧
      t.faults = { s.faults with overHost := 0 } := by
  have hhost : (c.mbx.val == 8) = false := beq_false_of_ne (notMgmt_of_bufOk (bufOk_of_served hs rfl) hloc)
  have hexec := exec_fltRead_done hs
  rw [bufWrite_host (s := Started k s) hloc hreach, hhost] at hexec
  refine completes_done hs hexec ⟨rfl, rfl, rfl, rfl⟩ fun hdone => ⟨?_, hdone, rfl, rfl⟩
  exact (keeps_modNutas _ (keeps_lostRead _ (keeps_emit _ (keeps_modNutas _ (Keeps.refl _ s) (by decide)) (by decide))
    (by decide)) (by decide)).only

theorem fltRead_stack {r : FaultRec} {z x : Nat} (hloc : (bufOf c.entry).loc = 0) (hone : readFaults c s = [r])
    (hplace : placeOf s.mem.splitNow.toNat (bufOf c.entry).addr = .stack z x) (hintake : inIntake (bezelOf s z) x = false)
    (hheld : heldLines (bezelOf s z) [x] = []) :
    Completes (.fltRead k) s fun t => Completed k c stOk ((readAfter c s).setWidth 64)
        ((if c.mbx.val = 8 then s.faults.overMgt else s.faults.overHost).setWidth 64) s t ∧
      stackCode t z x = passOn (encodeGran (granOf (faultBytes r))) ∧
      ∀ g, g ≠ stackGran z (redirected (bezelOf s z) (x / 32)) → g ≠ reliefGran z (x / 32) → codeAt t.mem g = codeAt s.mem g := by
  have hexec := exec_fltRead_done hs
  have hwrite : bufWrite (bufOf c.entry) ((readFaults c s).flatMap faultBytes) (Started k s) =
      locketWrite (bufOf c.entry).addr (faultBytes r) (Started k s) := by
    rw [hone, List.flatMap_singleton]
    exact if_pos hloc
  have hfree : FreeGrans (Started k s) (bufOf c.entry).addr 1 := by
    intro i z' x' hi hp
    have hi0 : i = 0 := by omega
    rw [hi0, Nat.mul_zero, Nat.add_zero] at hp
    obtain ⟨rfl, rfl⟩ := Place.stack.inj (hp.symm.trans hplace)
    exact ⟨hintake, hheld⟩
  have hstored := storedGrans_locketWrite (s := Started k s) (n := 1) (faultBytes_length r) hfree
  have hcode := stackCode_locketWrite (s := Started k s) (faultBytes_length r) hplace hintake hheld
  have hkeep := keeps_locketWrite (bufOf c.entry).addr (faultBytes r)
    (.refl [.fabric, .mem, .bezels, .ledger, .faults, .hub, .asy, .out] (Started k s)) (by decide)
  rw [hwrite, show (if (c.mbx.val == 8) = true then s.faults.overMgt else s.faults.overHost) =
    if c.mbx.val = 8 then s.faults.overMgt else s.faults.overHost by simp only [beq_iff_eq]] at hexec
  generalize locketWrite (bufOf c.entry).addr (faultBytes r) (Started k s) = u at *
  refine completes_done hs hexec (((StartedIn.refl k s).keeps hkeep).upd rfl rfl rfl) fun hdone =>
    ⟨hdone, hcode, fun g hnear hfar => hstored.elsewhere g fun i z' x' hi hp => ?_⟩
  have hi0 : i = 0 := by omega
  rw [hi0, Nat.mul_zero, Nat.add_zero] at hp
  obtain ⟨rfl, rfl⟩ := Place.stack.inj (hp.symm.trans hplace)
  exact ⟨hnear, hfar⟩

end

/-! ### FLT_ACK -/

theorem ackIndex_near {f : FaultLog} {idx upto : Word32} (h : (upto - idx).toNat ≤ (f.nextSeq - idx).toNat) :
    ackIndex f idx upto = some upto := if_pos h

theorem ackIndex_beyond {f : FaultLog} {idx upto : Word32} (h : (f.nextSeq - idx).toNat < (upto - idx).toNat)
    (hnear : (upto - idx).toNat < 2 ^ 31) : ackIndex f idx upto = none :=
  (if_neg (Nat.not_le.2 h)).trans (if_neg (Nat.not_le.2 hnear))

/-- A master's index has moved. -/
def indexMoved (mgmt : Bool) (i : Word32) (s : State) : State :=
  { s with faults := { s.faults with
    idxMgt := if mgmt then i else s.faults.idxMgt
    idxHost := if mgmt then s.faults.idxHost else i } }

/-- What FLT_ACK does with an index. -/
def ackEnd (mgmt : Bool) (i : Option Word32) (s : State) : CmdEnd :=
  match i with
  | none => .done stBadField 24 0 s
  | some i => .done stOk 0 0 (highWater (indexMoved mgmt i s))

section
variable (hs : Served k 0x81 (bytesMask 24 4) noChecks noBuf c s)
include hs

theorem exec_fltAck_done {st : Nat} {u : State}
    (hend : ackEnd (c.mbx.val == 8) (ackIndex s.faults (if c.mbx.val == 8 then s.faults.idxMgt else s.faults.idxHost)
      (BitVec.ofNat 32 (entryNum c.entry 24 4))) (Started k s) = .done st r0 r1 u) :
    exec (.fltAck k) s = .next (complete k st r0 r1 u) := by
  refine (exec_fltAck k s).trans (command_done hs ?_)
  rw [← hend]
  rfl

theorem fltAck_moves (hnear : (BitVec.ofNat 32 (entryNum c.entry 24 4) -
        (if c.mbx.val = 8 then s.faults.idxMgt else s.faults.idxHost)).toNat ≤
      (s.faults.nextSeq - (if c.mbx.val = 8 then s.faults.idxMgt else s.faults.idxHost)).toNat) :
    Completes (.fltAck k) s fun t => Completed k c stOk 0 0 s t ∧
      (if c.mbx.val = 8 then t.faults.idxMgt else t.faults.idxHost) = BitVec.ofNat 32 (entryNum c.entry 24 4) ∧
      t.faults.ring = s.faults.ring ∧
      (if c.mbx.val = 8 then t.faults.idxHost = s.faults.idxHost else t.faults.idxMgt = s.faults.idxMgt) := by
  obtain ⟨v, hv⟩ : ∃ v, indexMoved (c.mbx.val == 8) (BitVec.ofNat 32 (entryNum c.entry 24 4)) (Started k s) = v := ⟨_, rfl⟩
  have hexec := exec_fltAck_done (st := stOk) (r0 := 0) (r1 := 0) (u := highWater v) hs
    (by simp only [beq_iff_eq]; rw [ackIndex_near hnear, ← hv]; rfl)
  have hkeep := keeps_highWater (.refl [.faults, .hub] v) (by decide)
  have hstarted : StartedIn k s v := by
    rw [← hv]
    exact ⟨rfl, rfl, rfl, rfl⟩
  have hfaults := highWater_faults v
  generalize highWater v = u at *
  refine completes_done hs hexec (hstarted.keeps hkeep) fun hdone => ⟨hdone, ?_⟩
  have hlog : (ended k (completionOf s c stOk 0 0) u).faults = u.faults := rfl
  rw [hlog, hfaults, ← hv]
  by_cases hm : c.mbx.val = 8
  · simp only [indexMoved, hm, if_true, beq_self_eq_true]
    exact ⟨trivial, rfl, rfl⟩
  · simp only [indexMoved, if_neg hm, beq_false_of_ne hm, Bool.false_eq_true, if_false]
    exact ⟨trivial, rfl, rfl⟩

theorem fltAck_refused (hbeyond : (s.faults.nextSeq - (if c.mbx.val = 8 then s.faults.idxMgt else s.faults.idxHost)).toNat <
      (BitVec.ofNat 32 (entryNum c.entry 24 4) - (if c.mbx.val = 8 then s.faults.idxMgt else s.faults.idxHost)).toNat)
    (hlow : (BitVec.ofNat 32 (entryNum c.entry 24 4) -
      (if c.mbx.val = 8 then s.faults.idxMgt else s.faults.idxHost)).toNat < 2 ^ 31) :
    Completes (.fltAck k) s fun t => Completed k c stBadField 24 0 s t ∧ t.faults = s.faults :=
  completes_status hs (exec_fltAck_done hs (by simp only [beq_iff_eq]; rw [ackIndex_beyond hbeyond hlow]; rfl))
    fun t _ hdone hend => ⟨hdone, by rw [hend]; rfl⟩

end

end

/-- Settles O52: one lemma for each query, and for each kind of buffer of those that write one. -/
theorem queriesAnswer : Obligations.QueriesAnswer := by
  unfold Obligations.QueriesAnswer
  intro s k c
  refine ⟨nop_answers, status_answers, ?_, ledgerRead_answers, fun hs => ⟨fltRead_host hs, fun r z x hloc hone _ hplace hintake hheld =>
    fltRead_stack hs hloc hone hplace hintake hheld⟩, fun hs => ⟨fltAck_moves hs, fltAck_refused hs⟩⟩
  simp only [List.forall_mem_cons, List.not_mem_nil, false_imp_iff, forall_true_iff, and_true]
  refine ⟨query_answers (rec := identityRecord) (n := 8) (exec_identify k s) rfl (identityRecord_length s),
    query_answers (rec := fun t => (List.range 1152).flatMap fun p => toBytes 4 (posEntry t p)) (n := 144) (exec_posmap k s) rfl
      (length_flatMap_range (fun _ => toBytes_length _ _) _),
    query_answers (rec := fun t => (List.range 512).flatMap fun a => cohortBytes (tblGet {} t.nutas.cohorts a)) (n := 512)
      (exec_cohortRead k s) rfl (length_flatMap_range (fun _ => cohortBytes_length _) _)⟩

end Sys2Proof.Proofs
end

section
/-! Proofs for chapter 16: requests of the host. -/

namespace Sys2Proof.Proofs

open Sys2Proof Sys2Proof.Machine Sys2Proof.Laws

theorem exec_memRd (hpa : Nat) (s : State) : exec (.memRd hpa) s = execMemRd hpa s := rfl
theorem exec_memWr (hpa : Nat) (data : BitVec 512) (poison : Bool) (s : State) :
    exec (.memWr hpa data poison) s = execMemWr hpa data poison s := rfl
theorem exec_memWrPtl (hpa : Nat) (be : BitVec 64) (line : HostLine) (s : State) :
    exec (.memWrPtl hpa be line) s = execMemWrPtl hpa be line s := rfl
theorem exec_memInv (hpa : Nat) (s : State) : exec (.memInv hpa) s = execMemInv hpa s := rfl
theorem exec_memSpecRd (hpa : Nat) (s : State) : exec (.memSpecRd hpa) s = execMemSpecRd hpa s := rfl

section
variable {s t u : State} {hpa a : Nat} {l : List Msg}

/-- A line that a host request reaches stands behind a link that is UP (R556, R576). -/
theorem up_of_hostMem (h : hostMem s hpa = some a) : s.standby.mainUp = true ∧ linkUp s = true := by
  unfold hostMem at h
  split at h
  · rename_i hcond
    simp only [Bool.and_eq_true] at hcond
    exact hcond.1
  · cases h

/-! ### Messages of the CXL node -/

/-- A request of the host as it enters the mesh under a tag (R568). -/
def hostReq (s : State) (x : Nat) (n : BitVec 10) (m : Msg) : Msg := { m with
  dst := node ((placeNode (placeOf s.mem.splitNow.toNat x)).getD 0), src := node nodeCxl, addr := BitVec.ofNat 48 x
  tag := n, stream := 2 }

/-- Messages have joined the queue of the CXL node's requests, and no other queue has changed. -/
structure HostQueued (l : List Msg) (s t : State) : Prop where
  own : tblGet [] t.fabric.inj (nodeCxl * 16 + 2) = tblGet [] s.fabric.inj (nodeCxl * 16 + 2) ++ l
  others : ∀ n, n ≠ nodeCxl * 16 + 2 → tblGet [] t.fabric.inj n = tblGet [] s.fabric.inj n

theorem HostQueued.of_same (h : t.fabric = s.fabric) : HostQueued [] s t :=
  ⟨by rw [h, List.append_nil], fun _ _ => by rw [h]⟩

theorem HostQueued.hostSend (h : HostQueued l s t) (hmem : t.mem = s.mem) (x : Nat) (m : Msg) :
    HostQueued (l ++ [hostReq s x t.host.nextTag m]) s (hostSend x m t) := by
  have hreq : hostReq t x t.host.nextTag m = hostReq s x t.host.nextTag m := by rw [hostReq, hostReq, hmem]
  obtain ⟨hown, hothers⟩ := h
  rw [← hreq]
  refine ⟨?_, fun n hn => (tblGet_tblSet_other _ _ _ _ _ hn).trans (hothers n hn)⟩
  rw [← List.append_assoc, ← hown]
  exact tblGet_tblSet_same ..

theorem hostSend_host (x : Nat) (m : Msg) (s : State) : (hostSend x m s).host = { s.host with nextTag := s.host.nextTag + 1 } := rfl
theorem hostSend_out (x : Nat) (m : Msg) (s : State) : (hostSend x m s).out = s.out := rfl
theorem hostSend_faults (x : Nat) (m : Msg) (s : State) : (hostSend x m s).faults = s.faults := rfl
theorem hostSend_hub (x : Nat) (m : Msg) (s : State) : (hostSend x m s).hub = s.hub := rfl
theorem hostSend_mem (x : Nat) (m : Msg) (s : State) : (hostSend x m s).mem = s.mem := rfl

/-- MEM_RD (R557). -/
theorem memRd_enters (h : hostMem s hpa = some a) : Completes (.memRd hpa) s fun t =>
    t.host = { s.host with nextTag := s.host.nextTag + 1 } ∧ t.out = s.out ∧
      HostQueued [hostReq s a s.host.nextTag { msg0 with op := opRead, aux0 := 2 }] s t := by
  have hexec : exec (.memRd hpa) s = .next (hostSend a { msg0 with op := opRead, aux0 := 2 } (countEv blkCxl 0x02 1 s)) := by
    rw [exec_memRd, execMemRd, h]
  have hqueued := (HostQueued.of_same (countEv_fabric s blkCxl 0x02 1)).hostSend (countEv_mem _ _ _ _) a
    { msg0 with op := opRead, aux0 := 2 }
  rw [countEv_host] at hqueued
  exact completes_of_exec hexec ⟨by rw [hostSend_host, countEv_host], by rw [hostSend_out, countEv_out], hqueued⟩

/-! ### Poison of the host -/

/-- The link with an error of poison counted (R575). -/
def poisonedLink (h : HostLink) : HostLink := { h with poisonRx := satInc h.poisonRx, aerNonfatal := true }

/-- Poison has come from the host, or not: what the link counts, the host is told, and the ring and the hub receive (R575). -/
structure PoisonNoted (poison : Bool) (s t : State) : Prop where
  host : t.host = if poison = true then poisonedLink s.host else s.host
  out : t.out = s.out ++ if poison = true then [.aer .nonfatal] else []
  fabric : t.fabric = s.fabric
  mem : t.mem = s.mem
  recorded : poison = true → Recorded 0x14 blkCxl s t ∧ Raised 0 129 s t
  faults : poison = false → t.faults = s.faults

theorem poisonIn_host (s : State) : (poisonIn s).host = poisonedLink s.host := by
  unfold poisonIn recordHostAt
  rw [hubRaise_host, recordAt_host]
  rfl

theorem poisonIn_out (s : State) : (poisonIn s).out = s.out ++ [.aer .nonfatal] := by
  unfold poisonIn recordHostAt
  rw [hubRaise_out, recordAt_out]
  rfl

theorem poisonNoted (hup : s.standby.mainUp = true) (poison : Bool) : PoisonNoted poison s (if poison = true then poisonIn s else s) := by
  cases poison with
  | false => exact ⟨rfl, (List.append_nil _).symm, rfl, rfl, fun h => absurd h Bool.false_ne_true, fun _ => rfl⟩
  | true =>
    have hkeep := keeps_poisonIn (Keeps.refl [.host, .ledger, .faults, .hub, .out] s) (by decide)
    have hrecord : Recorded 0x14 blkCxl s (recordHostAt (linkRow .poisonRx) (countError .poisonRx s)) :=
      recorded_recordAt (t := countError .poisonRx s) rfl rfl _ _ _
    refine ⟨poisonIn_host s, poisonIn_out s, fabric_same hkeep (by decide), mem_same hkeep (by decide), fun _ => ⟨?_, ?_⟩,
      fun h => absurd h.symm Bool.false_ne_true⟩
    · exact recorded_congr hrecord (hubRaise_faults _ _)
    · refine raised_behind (t := recordHostAt (linkRow .poisonRx) (countError .poisonRx s)) ?_ (hubGrown_hubRaise _ _)
        (raised_hubRaise ?_ (by decide))
      · exact .of_same (recordAt_standby _ _ _ _) (recordAt_hub _ _ _ _)
      · rw [recordHostAt, recordAt_standby]
        exact hup

/-! ### Writes of a line -/

/-- MEM_WR (R557, R575). -/
theorem memWr_enters (h : hostMem s hpa = some a) (data : BitVec 512) (poison : Bool) :
    ∃ u, PoisonNoted poison s u ∧ Completes (.memWr hpa data poison) s fun t =>
      t.host = { u.host with nextTag := s.host.nextTag + 1 } ∧ t.out = u.out ∧ t.faults = u.faults ∧ t.hub = u.hub ∧
        HostQueued [hostReq s a s.host.nextTag { msg0 with op := opWrite, len := 2, data := lineCodes data poison }] s t := by
  have hnoted := poisonNoted (up_of_hostMem h).1 poison
  have hexec : exec (.memWr hpa data poison) s = .next (hostSend a
      { msg0 with op := opWrite, len := 2, data := lineCodes data poison }
      (countEv blkCxl 0x03 1 (if poison = true then poisonIn s else s))) := by
    rw [exec_memWr, execMemWr, h]
  generalize (if poison = true then poisonIn s else s) = u at *
  have htag : u.host.nextTag = s.host.nextTag := by rw [hnoted.host]; split <;> rfl
  have hqueued := (HostQueued.of_same (s := s) ((countEv_fabric u blkCxl 0x03 1).trans hnoted.fabric)).hostSend
    ((countEv_mem _ _ _ _).trans hnoted.mem) a { msg0 with op := opWrite, len := 2, data := lineCodes data poison }
  rw [countEv_host, htag] at hqueued
  exact ⟨u, hnoted, completes_of_exec hexec ⟨by rw [hostSend_host, countEv_host, htag], by rw [hostSend_out, countEv_out],
    by rw [hostSend_faults, countEv_faults], by rw [hostSend_hub, countEv_hub], hqueued⟩⟩

/-! ### Partial writes -/

/-- The part of a line that a partial write sends for granule `i` (R557). -/
def partMsg (be : BitVec 64) (line : HostLine) (i : Nat) : Msg := { msg0 with
  op := opPart, len := 1, aux0 := (be >>> (32 * i)).setWidth 32
  data := [if line.poison = true then poisonCode else encodeGran ((line.data >>> (256 * i)).setWidth 256)] }

theorem ptlMask_eq (be : BitVec 64) (i : Nat) : ptlMask be i = (be >>> (32 * i)).setWidth 32 := by
  refine BitVec.eq_of_toNat_eq ?_
  rw [ptlMask, BitVec.toNat_ofNat, bitsOf, BitVec.toNat_setWidth, BitVec.toNat_ushiftRight, Nat.shiftRight_eq_div_pow, Nat.mod_mod]

theorem ptlMask_zero (i : Nat) : ptlMask 0 i = 0 := by
  change BitVec.ofNat 32 (0 / 2 ^ (32 * i) % 2 ^ 32) = 0
  rw [Nat.zero_div]
  rfl

theorem ptlMask_low (be : BitVec 64) : ptlMask be 0 = 0 ↔ be.toNat % 2 ^ 32 = 0 := by
  rw [← BitVec.toNat_inj, ptlMask, BitVec.toNat_ofNat, bitsOf]
  simp

theorem ptlMask_high (be : BitVec 64) : ptlMask be 1 = 0 ↔ be.toNat / 2 ^ 32 = 0 := by
  have hlt : be.toNat / 2 ^ 32 < 2 ^ 32 := by have := be.isLt; omega
  rw [← BitVec.toNat_inj, ptlMask, BitVec.toNat_ofNat, bitsOf, Nat.mul_one, Nat.mod_mod, Nat.mod_eq_of_lt hlt]
  rfl

theorem ptlPart_none {be : BitVec 64} {i : Nat} (h : ptlMask be i = 0) (line : HostLine) (s : State) : ptlPart a be line i s = s :=
  if_pos h

theorem ptlPart_sends {be : BitVec 64} {i : Nat} (h : ptlMask be i ≠ 0) (hi : i < 2) (line : HostLine) (s : State) :
    ptlPart a be line i s = hostSend (a + 32 * i) (partMsg be line i) s := by
  have hcode : nth poisonCode (lineCodes line.data line.poison) i =
      if line.poison = true then poisonCode else encodeGran ((line.data >>> (256 * i)).setWidth 256) := by
    obtain rfl | rfl : i = 0 ∨ i = 1 := by omega
    · unfold lineCodes
      split
      · rfl
      · simp [nth]
    · unfold lineCodes
      split <;> rfl
  unfold ptlPart
  rw [if_neg h, hcode, ptlMask_eq]
  rfl

/-- The write has been counted, with the poison that came with it. -/
def ptlBegun (line : HostLine) (s : State) : State := countEv blkCxl 0x03 1 (if line.poison = true then poisonIn s else s)

/-- The tags of the two parts stand together (R560). -/
def halvesKept (s : State) : State :=
  setHost { s.host with halves := s.host.halves ++ [(s.host.nextTag, s.host.nextTag + 1)] } s

theorem poisonNoted_ptlBegun (hup : s.standby.mainUp = true) (line : HostLine) : PoisonNoted line.poison s (ptlBegun line s) := by
  have hnoted := poisonNoted hup line.poison
  unfold ptlBegun
  generalize (if line.poison = true then poisonIn s else s) = u at *
  obtain ⟨hhost, hout, hfabric, hmem, hrecorded, hfaults⟩ := hnoted
  refine ⟨(countEv_host _ _ _ _).trans hhost, (countEv_out _ _ _ _).trans hout, (countEv_fabric _ _ _ _).trans hfabric,
    (countEv_mem _ _ _ _).trans hmem, fun hp => ?_, fun hp => (countEv_faults _ _ _ _).trans (hfaults hp)⟩
  obtain ⟨hrecord, hraise⟩ := hrecorded hp
  exact ⟨recorded_congr hrecord (countEv_faults _ _ _ _), fun hnew => by rw [countEv_hub]; exact hraise hnew⟩

theorem exec_memWrPtl_at (h : hostMem s hpa = some a) (be : BitVec 64) (line : HostLine) :
    exec (.memWrPtl hpa be line) s = .next (
      if be = 0 then memDone a (ptlBegun line s)
      else if ptlMask be 0 ≠ 0 ∧ ptlMask be 1 ≠ 0 then
        ptlPart a be line 1 (ptlPart a be line 0 (halvesKept (ptlBegun line s)))
      else ptlPart a be line 1 (ptlPart a be line 0 (ptlBegun line s))) := by
  rw [exec_memWrPtl, execMemWrPtl, h]
  rfl

section
variable (h : hostMem s hpa = some a) (be : BitVec 64) (line : HostLine)
include h

theorem ptlBegun_linkUp : linkUp (ptlBegun line s) = true := by
  rw [linkUp, (poisonNoted_ptlBegun (up_of_hostMem h).1 line).host]
  split <;> exact (up_of_hostMem h).2

theorem ptlBegun_nextTag : (ptlBegun line s).host.nextTag = s.host.nextTag := by
  rw [(poisonNoted_ptlBegun (up_of_hostMem h).1 line).host]
  split <;> rfl

/-- A partial write that reaches no byte completes at once. -/
theorem memWrPtl_none (hbe : be = 0) : Completes (.memWrPtl hpa be line) s fun t =>
    t.host = (ptlBegun line s).host ∧ HostQueued [] s t ∧ t.out = (ptlBegun line s).out ++ [.memDone a] := by
  have hexec := exec_memWrPtl_at h be line
  rw [if_pos hbe, memDone, if_pos (ptlBegun_linkUp h line)] at hexec
  exact completes_of_exec hexec ⟨rfl, .of_same (poisonNoted_ptlBegun (up_of_hostMem h).1 line).fabric, rfl⟩

/-- A partial write that reaches one granule of the line sends its part. -/
theorem memWrPtl_one {i : Nat} (hi : i < 2) (hreached : ptlMask be i ≠ 0) (hother : ∀ j < 2, j ≠ i → ptlMask be j = 0) :
    Completes (.memWrPtl hpa be line) s fun t => t.host = { (ptlBegun line s).host with nextTag := s.host.nextTag + 1 } ∧
      HostQueued [hostReq s (a + 32 * i) s.host.nextTag (partMsg be line i)] s t ∧ t.out = (ptlBegun line s).out := by
  have hbe : be ≠ 0 := by
    rintro rfl
    exact hreached (ptlMask_zero i)
  have hone : ¬ (ptlMask be 0 ≠ 0 ∧ ptlMask be 1 ≠ 0) := by
    rintro ⟨hlow, hhigh⟩
    obtain rfl | rfl : i = 0 ∨ i = 1 := by omega
    · exact hhigh (hother 1 (by omega) (by omega))
    · exact hlow (hother 0 (by omega) (by omega))
  have hexec : exec (.memWrPtl hpa be line) s = .next (hostSend (a + 32 * i) (partMsg be line i) (ptlBegun line s)) := by
    rw [exec_memWrPtl_at h, if_neg hbe, if_neg hone]
    obtain rfl | rfl : i = 0 ∨ i = 1 := by omega
    · rw [ptlPart_none (hother 1 (by omega) (by omega)), ptlPart_sends hreached hi]
    · rw [ptlPart_none (hother 0 (by omega) (by omega)), ptlPart_sends hreached hi]
  have hnoted := poisonNoted_ptlBegun (up_of_hostMem h).1 line
  have hqueued := (HostQueued.of_same (s := s) hnoted.fabric).hostSend hnoted.mem (a + 32 * i) (partMsg be line i)
  rw [ptlBegun_nextTag h line] at hqueued
  exact completes_of_exec hexec ⟨by rw [hostSend_host, ptlBegun_nextTag h line], hqueued, hostSend_out _ _ _⟩

/-- A partial write that reaches both granules sends both parts, whose tags are kept together (R560). -/
theorem memWrPtl_both (hlow : ptlMask be 0 ≠ 0) (hhigh : ptlMask be 1 ≠ 0) :
    Completes (.memWrPtl hpa be line) s fun t =>
      HostQueued [hostReq s (a + 32 * 0) s.host.nextTag (partMsg be line 0),
        hostReq s (a + 32 * 1) (s.host.nextTag + 1) (partMsg be line 1)] s t ∧
      t.host = { (ptlBegun line s).host with
        nextTag := s.host.nextTag + 2
        halves := (ptlBegun line s).host.halves ++ [(s.host.nextTag, s.host.nextTag + 1)] } ∧
      t.out = (ptlBegun line s).out ∧ t.faults = (ptlBegun line s).faults ∧ t.hub = (ptlBegun line s).hub := by
  have hbe : be ≠ 0 := by
    rintro rfl
    exact hlow (ptlMask_zero 0)
  have hexec := exec_memWrPtl_at h be line
  rw [if_neg hbe, if_pos ⟨hlow, hhigh⟩, ptlPart_sends hlow (by omega), ptlPart_sends hhigh (by omega)] at hexec
  have hnoted := poisonNoted_ptlBegun (up_of_hostMem h).1 line
  have htag := ptlBegun_nextTag h line
  generalize ptlBegun line s = u at *
  have hqueued := ((HostQueued.of_same (s := s) (t := halvesKept u) hnoted.fabric).hostSend hnoted.mem (a + 32 * 0)
    (partMsg be line 0)).hostSend hnoted.mem (a + 32 * 1) (partMsg be line 1)
  have hfirst : (halvesKept u).host.nextTag = s.host.nextTag := htag
  have hsecond : (hostSend (a + 32 * 0) (partMsg be line 0) (halvesKept u)).host.nextTag = s.host.nextTag + 1 := by
    rw [hostSend_host, hfirst]
  have htwo : s.host.nextTag + 1 + 1 = s.host.nextTag + 2 := by rw [BitVec.add_assoc]; rfl
  rw [hfirst, hsecond] at hqueued
  refine completes_of_exec hexec ⟨hqueued, ?_, ?_, ?_, ?_⟩
  · rw [hostSend_host, hsecond, htwo, hostSend_host, ← htag]
    rfl
  · rw [hostSend_out, hostSend_out]
    rfl
  · rw [hostSend_faults, hostSend_faults]
    rfl
  · rw [hostSend_hub, hostSend_hub]
    rfl

end

/-! ### Lines that the host gives up -/

/-- MEM_INV (R557, R562). -/
theorem memInv_drops {z l : Nat} (h : hostMem s hpa = some a) (hplace : placeOf s.mem.splitNow.toNat a = .stack z l) :
    Completes (.memInv hpa) s fun t => OtherBezels z s t ∧ bezelOf t z = { bezelOf s z with
      lines := (bezelOf s z).lines.filter fun x => x != l / 64 } := by
  have hline : lineAt s a = some (z, l / 64) := by rw [lineAt, hplace]
  have hexec : exec (.memInv hpa) s = .next (dropLine z (l / 64) s) := by
    rw [exec_memInv, execMemInv, h]
    dsimp only
    rw [hline]
  exact completes_of_exec hexec ⟨otherBezels_modBezel _ _ _, bezelOf_modBezel _ _ _⟩

/-- MEM_SPEC_RD (R557). -/
theorem memSpecRd_ignored (h : hostMem s hpa = some a) : exec (.memSpecRd hpa) s = .next s := by
  rw [exec_memSpecRd, execMemSpecRd, h]

end

end Sys2Proof.Proofs
end

section
/-! Proofs for chapter 16: the answers to back-invalidates. -/

namespace Sys2Proof.Proofs

open Sys2Proof Sys2Proof.Machine Sys2Proof.Laws

theorem exec_biRsp (b : BezelN) (line : Nat) (s : State) : exec (.biRsp b line) s = execBiRsp b line s := rfl
theorem exec_backInvalidateTimeout (b : BezelN) (line : Nat) (s : State) :
    exec (.backInvalidateTimeout b line) s = execBackInvalidateTimeout b line s := rfl

section
variable {s t u : State} {b : BezelN} {z line l : Nat} {r : SortReq}

/-! ### A line that leaves the record -/

/-- A bezel without a line in its record, and without the line's BISnpInv. -/
def freed (line : Nat) (q : Bezel) : Bezel :=
  { q with lines := q.lines.filter fun x => x != line, snoops := q.snoops.filter fun p => p.1 != line }

theorem bezelOf_snoopOver (z line : Nat) (s : State) : bezelOf (snoopOver z line s) z = freed line (bezelOf s z) := by
  rw [snoopOver, dropLine, bezelOf_modBezel, bezelOf_modBezel]
  rfl

theorem otherBezels_snoopOver (z line : Nat) (s : State) : OtherBezels z s (snoopOver z line s) :=
  otherBezels_trans (otherBezels_modBezel _ _ _) (otherBezels_modBezel _ _ _)

theorem serveHeld_none (h : ∀ r ∈ (bezelOf s z).sorter, r.held = false) : serveHeld z s = s := by
  have hnone : (bezelOf s z).sorter.filter (fun r => r.held) = [] :=
    List.filter_eq_nil_iff.2 fun r hr => by rw [h r hr]; exact Bool.false_ne_true
  rw [serveHeld, hnone]
  rfl

/-- Where nothing waits in the sorter, the end of a BISnpInv frees the line, and no more. -/
theorem release_free (h : ∀ r ∈ (bezelOf s z).sorter, r.held = false) : release z line s = snoopOver z line s :=
  serveHeld_none fun r hr => h r (by rw [bezelOf_snoopOver] at hr; exact hr)

/-! ### BI_RSP and BACK_INVALIDATE_TIMEOUT -/

theorem exec_biRsp_up (hup : s.standby.mainUp = true) : exec (.biRsp b line) s = .next (
    if snooping s b.val line = true then release b.val line (countEv blkCxl 0x07 1 s) else countEv blkCxl 0x07 1 s) := by
  rw [exec_biRsp, execBiRsp]
  exact whenOk_of s hup _

theorem biRsp_unasked (hup : s.standby.mainUp = true) (h : snooping s b.val line = false) :
    Completes (.biRsp b line) s fun t => t.bezels = s.bezels ∧ t.mem = s.mem ∧ t.faults = s.faults ∧ t.fabric = s.fabric := by
  have hexec := exec_biRsp_up (b := b) (line := line) hup
  rw [h, if_neg Bool.false_ne_true] at hexec
  exact completes_of_exec hexec ⟨countEv_bezels _ _ _ _, countEv_mem _ _ _ _, countEv_faults _ _ _ _, countEv_fabric _ _ _ _⟩

theorem biRsp_frees (hup : s.standby.mainUp = true) (h : snooping s b.val line = true)
    (hheld : ∀ r ∈ (bezelOf s b.val).sorter, r.held = false) :
    Completes (.biRsp b line) s fun t => OtherBezels b.val s t ∧ bezelOf t b.val = freed line (bezelOf s b.val) ∧
      t.mem = s.mem ∧ t.faults = s.faults := by
  have hbezels := countEv_bezels s blkCxl 0x07 1
  have hsame := bezelOf_congr hbezels b.val
  have hexec := exec_biRsp_up (b := b) (line := line) hup
  rw [if_pos h, release_free (by rw [hsame]; exact hheld)] at hexec
  refine completes_of_exec hexec ⟨otherBezels_trans (otherBezels_of_bezels hbezels) (otherBezels_snoopOver _ _ _), ?_,
    countEv_mem _ _ _ _, countEv_faults _ _ _ _⟩
  rw [bezelOf_snoopOver, hsame]

/-- A BISnpInv that has no answer in time has been counted, recorded and raised (R566, R575). -/
def biLate (z line : Nat) (s : State) : State :=
  hubRaise 129 (recordHost (linkRow .biTimeout) 0 (physOfLocal s z (64 * line)) (countError .biTimeout s))

theorem biLate_notes (hup : s.standby.mainUp = true) (z line : Nat) : (biLate z line s).bezels = s.bezels ∧
    (biLate z line s).mem = s.mem ∧ (biLate z line s).host = { s.host with biTmo := satInc s.host.biTmo } ∧
    Recorded 0x14 blkCxl s (biLate z line s) ∧ Raised 0 129 s (biLate z line s) := by
  have hrecord : Recorded 0x14 blkCxl s (recordHost (linkRow .biTimeout) 0 (physOfLocal s z (64 * line)) (countError .biTimeout s)) :=
    recorded_recordAddr (t := countError .biTimeout s) rfl rfl _ _ _ _
  unfold biLate
  refine ⟨?_, ?_, ?_, recorded_congr hrecord (hubRaise_faults _ _),
    raised_behind (.of_same ?_ ?_) (hubGrown_hubRaise _ _) (raised_hubRaise ?_ (by decide))⟩
  · rw [hubRaise_bezels, recordHost, recordAddr_bezels]
    rfl
  · rw [hubRaise_mem, recordHost, recordAddr_mem]
    rfl
  · rw [hubRaise_host, recordHost, recordAddr_host]
    rfl
  · rw [recordHost, recordAddr_standby]
    rfl
  · rw [recordHost, recordAddr_hub]
    rfl
  · rw [recordHost, recordAddr_standby]
    exact hup

theorem backInvalidateTimeout_frees (hup : s.standby.mainUp = true) {c : Nat × Nat} (hc : c ∈ (bezelOf s b.val).snoops)
    (hline : c.1 = line) (hlate : c.2 + 65536 ≤ absCk s) (hheld : ∀ r ∈ (bezelOf s b.val).sorter, r.held = false) :
    Completes (.backInvalidateTimeout b line) s fun t => OtherBezels b.val s t ∧ bezelOf t b.val = freed line (bezelOf s b.val) ∧
      t.mem = s.mem ∧ t.host = { s.host with biTmo := satInc s.host.biTmo } ∧ Recorded 0x14 blkCxl s t ∧ Raised 0 129 s t := by
  have hany : ((bezelOf s b.val).snoops.any fun p => p.1 == line && decide (p.2 + 65536 ≤ absCk s)) = true :=
    List.any_eq_true.2 ⟨c, hc, by rw [hline, decide_eq_true hlate, Bool.and_true, beq_self_eq_true]⟩
  obtain ⟨hbezels, hmem, hhost, hrecord, hraise⟩ := biLate_notes hup b.val line
  have hsame := bezelOf_congr hbezels b.val
  have hexec : exec (.backInvalidateTimeout b line) s = .next (release b.val line (biLate b.val line s)) := by
    rw [exec_backInvalidateTimeout, execBackInvalidateTimeout]
    exact whenOk_of s (Bool.and_eq_true_iff.2 ⟨hup, hany⟩) _
  rw [release_free (by rw [hsame]; exact hheld)] at hexec
  generalize biLate b.val line s = u at *
  refine completes_of_exec hexec ⟨otherBezels_trans (otherBezels_of_bezels hbezels) (otherBezels_snoopOver _ _ _), ?_,
    hmem, hhost, recorded_congr hrecord rfl, hraise⟩
  rw [bezelOf_snoopOver, hsame]

/-! ### A write that waited for the line -/

theorem blockedLines_write_congr {m : Msg} (hop : m.op = opWrite) (hbezel : bezelOf t z = bezelOf s z)
    (hsplit : t.mem.splitNow = s.mem.splitNow) : blockedLines t z m = blockedLines s z m := by
  have hread : m.op ≠ opRead := by rw [hop]; decide
  have hlocal (p : Nat) : localOf t z p = localOf s z p := by rw [localOf, localOf, hsplit]
  unfold blockedLines
  simp only [if_neg hread, hbezel, hlocal]

/-- A write of one granule that leaves the sorter alone stands at its address, and the record of its bezel's lines is as it was. -/
theorem bezelDo_write (hsorter : (bezelOf s z).sorter = [r]) (hop : r.msg.op = opWrite) (hlen : r.msg.len = 1)
    (hlocal : localOf s z r.msg.addr.toNat = some l) (hintake : inIntake (bezelOf s z) l = false) :
    OtherBezels z s (bezelDo z r s) ∧ (bezelOf (bezelDo z r s) z).sorter = [] ∧
      (bezelOf (bezelDo z r s) z).lines = (bezelOf s z).lines ∧
      stackCode (bezelDo z r s) z l = passOn (nth poisonCode r.msg.data 0) := by
  have hread : r.msg.op ≠ opRead := by rw [hop]; decide
  have hdo : bezelDo z r s = bezelWrite z r.msg (leftSorter z r s) := by
    rw [bezelDo, if_neg hread]
    rfl
  have hself : bezelOf (leftSorter z r s) z = { bezelOf s z with sorter := [] } := by
    rw [bezelOf_leftSorter, hsorter]
    simp [dropFirst]
  have hlocal' : localOf (leftSorter z r s) z r.msg.addr.toNat = some l := by
    rw [← hlocal, localOf, localOf, leftSorter_mem]
  have hwrite := bezelWrite_one hop hlen hlocal' (by rw [hself]; exact hintake)
  have hothers := otherBezels_leftSorter z r s
  have hcounted := bezelOf_congr (countEv_bezels (leftSorter z r s) (blkBezel z) 0x03 1)
  rw [hdo]
  generalize bezelWrite z r.msg (leftSorter z r s) = t at *
  generalize countEv (blkBezel z) 0x03 1 (leftSorter z r s) = v at *
  have hmem := (mem_same hwrite (by decide)).trans (stackStore_mem _ _ _ _)
  have hbezel := bezelOf_congr (bezels_same hwrite (by decide))
  have hsrc : stackSrc t z l = stackSrc v z l :=
    stackSrc_congr (by rw [hbezel, bezelOf_stackStore]) (by rw [hbezel, bezelOf_stackStore]) (by rw [hbezel, bezelOf_stackStore]) l
  refine ⟨fun z' hz => ?_, ?_, ?_, ?_⟩
  · rw [hbezel, otherBezels_stackStore _ _ _ _ z' hz, hcounted, hothers z' hz]
  · rw [hbezel, bezelOf_stackStore, hcounted, hself]
  · rw [hbezel, bezelOf_stackStore, hcounted, hself]
  · rw [stackCode, hsrc, hmem, codeAt_stackPut_src]

theorem serveHeld_one (hsorter : (bezelOf s z).sorter = [r]) (hheld : r.held = true) (hfree : blockedLines s z r.msg = []) :
    serveHeld z s = bezelDo z r s := by
  have hone : (bezelOf s z).sorter.filter (fun r => r.held) = [r] := by rw [hsorter, List.filter_cons_of_pos hheld, List.filter_nil]
  rw [serveHeld, hone, List.foldl_cons, List.foldl_nil, hfree]

theorem biRsp_serves (hup : s.standby.mainUp = true) (h : snooping s b.val line = true)
    (hsorter : (bezelOf s b.val).sorter = [r]) (hheld : r.held = true)
    (hfree : blockedLines (snoopOver b.val line s) b.val r.msg = []) (hop : r.msg.op = opWrite) (hlen : r.msg.len = 1)
    (hlocal : localOf s b.val r.msg.addr.toNat = some l) (hintake : inIntake (bezelOf s b.val) l = false) :
    Completes (.biRsp b line) s fun t => OtherBezels b.val s t ∧ (bezelOf t b.val).sorter = [] ∧
      (bezelOf t b.val).lines = (freed line (bezelOf s b.val)).lines ∧
      stackCode t b.val l = passOn (nth poisonCode r.msg.data 0) := by
  have hbezels := countEv_bezels s blkCxl 0x07 1
  have hmem := countEv_mem s blkCxl 0x07 1
  have hexec := exec_biRsp_up (b := b) (line := line) hup
  rw [if_pos h] at hexec
  generalize countEv blkCxl 0x07 1 s = v at *
  have hover : bezelOf (snoopOver b.val line v) b.val = freed line (bezelOf s b.val) := by
    rw [bezelOf_snoopOver, bezelOf_congr hbezels]
  have hsame : bezelOf (snoopOver b.val line v) b.val = bezelOf (snoopOver b.val line s) b.val := by rw [hover, bezelOf_snoopOver]
  have hsplit : (snoopOver b.val line v).mem.splitNow = s.mem.splitNow := congrArg (·.splitNow) hmem
  have hsorter' : (bezelOf (snoopOver b.val line v) b.val).sorter = [r] := by rw [hover, ← hsorter]; rfl
  rw [release, serveHeld_one hsorter' hheld ((blockedLines_write_congr hop hsame hsplit).trans hfree)] at hexec
  have hlocal' : localOf (snoopOver b.val line v) b.val r.msg.addr.toNat = some l := by rw [← hlocal, localOf, localOf, hsplit]
  obtain ⟨hothers, hgone, hlines, hstored⟩ := bezelDo_write hsorter' hop hlen hlocal' (by rw [hover]; exact hintake)
  refine completes_of_exec hexec ⟨?_, hgone, hlines.trans (by rw [hover]), hstored⟩
  exact otherBezels_trans (otherBezels_of_bezels hbezels) (otherBezels_trans (otherBezels_snoopOver _ _ _) hothers)

end

end Sys2Proof.Proofs
end

section
/-! Proofs for chapter 16: the answers to board-tier requests. -/

namespace Sys2Proof.Proofs

open Sys2Proof Sys2Proof.Machine Sys2Proof.Laws

theorem exec_uioCompletion (id : Nat) (how : UioEnd) (data : List Gran) (s : State) :
    exec (.uioCompletion id how data) s = execUioCompletion id how data s := rfl
theorem exec_uioTimeout (id : Nat) (s : State) : exec (.uioTimeout id) s = execUioTimeout id s := rfl

/-! ### The data of a board-tier request -/

/-- The granules of a part put into what a request has received. -/
def gotWith (a : Nat) (data : List Code) (t : Tbl Code) : Tbl Code :=
  ((List.range data.length).zip data).foldl (fun t x => tblPut t (a + x.1) x.2) t

theorem gotWith_snoc (a : Nat) (data : List Code) (c : Code) (t : Tbl Code) :
    gotWith a (data ++ [c]) t = tblPut (gotWith a data t) (a + data.length) c := by
  unfold gotWith
  rw [List.length_append, List.length_singleton, List.range_succ, List.zip_append List.length_range, List.foldl_append]
  rfl

theorem tblGet_gotWith (d : Code) (data : List Code) (i : Nat) : tblGet d (gotWith 0 data []) i = nth d data i := by
  induction data using List.reverseRecOn with
  | nil => rfl
  | append_singleton data c ih =>
    rw [gotWith_snoc, Nat.zero_add]
    by_cases hi : i = data.length
    · rw [hi, tblGet_tblPut_same, nth, List.getD_append_right _ _ _ _ le_rfl, Nat.sub_self]
      rfl
    · rw [tblGet_tblPut_other _ _ _ _ _ hi, ih]
      obtain hlt | hgt := Nat.lt_or_gt_of_ne hi
      · exact (List.getD_append _ _ _ _ hlt).symm
      · rw [nth, nth, List.getD_eq_default _ _ (by omega), List.getD_eq_default _ _ (by rw [List.length_append, List.length_singleton]; omega)]

/-! ### The failed part of a request that fails whole -/

theorem sum_two_pow (n : Nat) : ((List.range n).map fun j => 2 ^ j).sum = 2 ^ n - 1 := by
  induction n with
  | zero => rfl
  | succ n ih =>
    have hpos := Nat.two_pow_pos n
    rw [List.range_succ, List.map_append, List.sum_append, ih, List.map_singleton, List.sum_singleton, Nat.pow_succ]
    omega

theorem partOf_whole {n cls : Nat} (hn : 1 ≤ n) (hcls : cls ≠ 0) : partOf (List.replicate n cls) = (2 ^ n - 1, cls, 0) := by
  have hall : ((List.range (List.replicate n cls).length).filter fun i => nth 0 (List.replicate n cls) i != 0) = List.range n := by
    rw [List.length_replicate]
    refine List.filter_eq_self.2 fun i hi => bne_iff_ne.2 ?_
    rw [nth, List.getD_replicate _ (List.mem_range.1 hi)]
    exact hcls
  have hfirst : nth 0 (List.replicate n cls) 0 = cls := List.getD_replicate _ hn
  obtain ⟨m, rfl⟩ : ∃ m, n = m + 1 := ⟨n - 1, by omega⟩
  unfold partOf
  rw [hall, List.range_succ_eq_map]
  dsimp only
  rw [hfirst, ← List.range_succ_eq_map, sum_two_pow]

theorem partOf_none (n : Nat) : partOf (List.replicate n 0) = (0, 0, 0) := by
  have hnone : ((List.range (List.replicate n 0).length).filter fun i => nth 0 (List.replicate n 0) i != 0) = [] := by
    refine List.filter_eq_nil_iff.2 fun i hi => ?_
    rw [List.length_replicate, List.mem_range] at hi
    rw [nth, List.getD_replicate _ hi]
    exact Bool.false_ne_true
  unfold partOf
  rw [hnone]

/-! ### The last UIO request of a read -/

/-- The one UIO request of a board-tier read, that reaches all its granules. -/
structure WholeRead (s : State) (u : Uio) (j : UioJob) : Prop where
  left : j.left = 1
  pm : j.pm = 0
  cls : j.cls = 0
  got : j.got = []
  first : u.first = 0
  op : j.msg.op = opRead
  copy : isCopy j.msg = false
  len : u.n = reqLen j.msg
  pos : 1 ≤ u.n
  le : u.n ≤ 8
  src : ∀ o, nodeKind s j.msg.src.val ≠ .bead o
  dst : j.msg.dst.val = nodeCxl

/-- The link without a UIO request and its board-tier request. -/
def linkWithout (u : Uio) (j : UioJob) (h : HostLink) : HostLink :=
  { h with uio := dropFirst (fun x => x.id == u.id) h.uio, jobs := dropFirst (fun x => x.num == j.num) h.jobs }

/-- A board-tier request has ended with what it has received. -/
def jobEnded (j : UioJob) (got : Tbl Code) (pm : BitVec 8) (cls : BitVec 4) : UioJob :=
  { j with left := 0, got := got, pm := pm, cls := cls }

section
variable {s t : State} {u : Uio} {j : UioJob} {cls : Nat} {data : List Code}

theorem WholeRead.congr (h : WholeRead s u j) (hnutas : t.nutas = s.nutas)
    (hstandby : t.standby = s.standby) : WholeRead t u j :=
  { h with
    src := fun o => by rw [nodeKind_congr hnutas hstandby]; exact h.src o }

/-- The CXL node answers a read of a node that is no bead (R336, R407). -/
theorem boardAnswer_read (h : WholeRead s u j) (got : Tbl Code) (pm : BitVec 8) (c : BitVec 4) :
    boardAnswer (jobEnded j got pm c) s =
      sendFrom nodeCxl (readResp j.msg ((List.range u.n).map fun i => tblGet poisonCode got i) pm.toNat c.toNat) s := by
  have hcxl : nodeKind s nodeCxl = .cxl := rfl
  unfold boardAnswer jobEnded
  dsimp only
  rw [if_pos h.op, if_pos h.op, returnData_answer h.copy, h.len]
  unfold answer passXbar
  rw [hcxl]
  dsimp only
  split
  · exact absurd ‹_› (h.src _)
  · rfl

theorem bitOf_whole {pm : BitVec 8} {n i : Nat} (h : pm.toNat = 2 ^ n - 1) (hi : i < n) : bitOf pm.toNat i = true := by
  rw [bitOf_toNat, BitVec.getLsbD, h, Nat.testBit_two_pow_sub_one, decide_eq_true hi]

/-- A board-tier request of one UIO request ends with it (R573). -/
theorem uioEnd_last (h : WholeRead s u j) (hfound : (s.host.jobs.find? fun x => x.num == u.job) = some j) {pm : BitVec 8}
    (hpm : (if cls = 0 then (0 : BitVec 8) else 0 ||| BitVec.ofNat 8 ((2 ^ u.n - 1) * 2 ^ 0)) = pm) {c : BitVec 4}
    (hc : (if cls ≠ 0 then BitVec.ofNat 4 cls else 0) = c) :
    uioEnd u cls data s = boardAnswer (jobEnded j (gotWith 0 data []) pm c)
      (recordParts blkCxl j.msg ((List.range u.n).map fun i => if bitOf pm.toNat i = true then c.toNat else 0) false
        (setHost (linkWithout u j s.host) s)) := by
  have hfirst : (decide (cls ≠ 0) && ((0 : BitVec 4) == 0 || (0 : BitVec 8).toNat % 2 ^ 0 == 0)) = decide (cls ≠ 0) :=
    Bool.and_true _
  unfold uioEnd
  simp only [hfound, h.left, h.pm, h.cls, h.got, h.first, hfirst, decide_eq_true_eq, hpm, hc, ← h.len]
  rfl

theorem uioEnd_ok (h : WholeRead s u j) (hfound : (s.host.jobs.find? fun x => x.num == u.job) = some j) : uioEnd u 0 data s =
    sendFrom nodeCxl (readResp j.msg ((List.range u.n).map fun i => nth poisonCode data i) 0 0)
      (setHost (linkWithout u j s.host) s) := by
  have hclasses : ((List.range u.n).map fun i => if bitOf (0 : BitVec 8).toNat i = true then (0 : BitVec 4).toNat else 0) =
      List.replicate u.n 0 := by
    simp
  have hrecord : recordParts blkCxl j.msg (List.replicate u.n 0) false (setHost (linkWithout u j s.host) s) =
      setHost (linkWithout u j s.host) s := by
    unfold recordParts
    rw [partOf_none]
    rfl
  have hend := uioEnd_last (cls := 0) (data := data) h hfound (pm := 0) rfl (c := 0) rfl
  rw [hclasses, hrecord, boardAnswer_read (h.congr (t := setHost (linkWithout u j s.host) s) rfl rfl)] at hend
  simp only [tblGet_gotWith] at hend
  exact hend

/-- A board-tier read that has failed whole: its record, and the answer without data (R331, R573). -/
def readFailed (u : Uio) (j : UioJob) (cls : Nat) (s : State) : State :=
  sendFrom nodeCxl (readResp j.msg (List.replicate u.n poisonCode) (2 ^ u.n - 1) cls)
    (recordPart blkCxl (j.msg.addr.toNat + 32 * 0) (2 ^ u.n - 1) cls j.msg.src.val false (setHost (linkWithout u j s.host) s))

theorem uioEnd_fails (h : WholeRead s u j) (hfound : (s.host.jobs.find? fun x => x.num == u.job) = some j) (hcls : cls ≠ 0)
    (hlt : cls < 16) (hdata : ∀ i, nth poisonCode data i = poisonCode) : uioEnd u cls data s = readFailed u j cls s := by
  have hmask : (BitVec.ofNat 8 (2 ^ u.n - 1)).toNat = 2 ^ u.n - 1 := by
    have hle : 2 ^ u.n ≤ 2 ^ 8 := Nat.pow_le_pow_right (by omega) h.le
    rw [BitVec.toNat_ofNat, Nat.mod_eq_of_lt (by omega)]
  have hclass : (BitVec.ofNat 4 cls).toNat = cls := by rw [BitVec.toNat_ofNat, Nat.mod_eq_of_lt hlt]
  have hclasses : ((List.range u.n).map fun i =>
      if bitOf (BitVec.ofNat 8 (2 ^ u.n - 1)).toNat i = true then (BitVec.ofNat 4 cls).toNat else 0) = List.replicate u.n cls := by
    refine List.eq_replicate_iff.2 ⟨by rw [List.length_map, List.length_range], fun x hx => ?_⟩
    obtain ⟨i, hi, rfl⟩ := List.mem_map.1 hx
    rw [if_pos (bitOf_whole hmask (List.mem_range.1 hi)), hclass]
  have hrecord (v : State) : recordParts blkCxl j.msg (List.replicate u.n cls) false v =
      recordPart blkCxl (j.msg.addr.toNat + 32 * 0) (2 ^ u.n - 1) cls j.msg.src.val false v := by
    unfold recordParts
    rw [partOf_whole h.pos hcls]
    exact if_neg hcls
  have hpm : (if cls = 0 then (0 : BitVec 8) else 0 ||| BitVec.ofNat 8 ((2 ^ u.n - 1) * 2 ^ 0)) = BitVec.ofNat 8 (2 ^ u.n - 1) := by
    rw [if_neg hcls, Nat.pow_zero, Nat.mul_one]
    exact BitVec.zero_or
  have hend := uioEnd_last (data := data) h hfound hpm (if_pos hcls)
  have hnutas : (recordPart blkCxl (j.msg.addr.toNat + 32 * 0) (2 ^ u.n - 1) cls j.msg.src.val false
      (setHost (linkWithout u j s.host) s)).nutas = s.nutas := recordFault_nutas _ _
  have hstandby : (recordPart blkCxl (j.msg.addr.toNat + 32 * 0) (2 ^ u.n - 1) cls j.msg.src.val false
      (setHost (linkWithout u j s.host) s)).standby = s.standby := recordFault_standby _ _
  rw [hclasses, hrecord, boardAnswer_read (h.congr hnutas hstandby), hmask, hclass] at hend
  simp only [tblGet_gotWith, hdata, List.map_const', List.length_range] at hend
  exact hend

theorem readResp_stream (h : WholeRead s u j) (data : List Code) (pm cls : Nat) : (readResp j.msg data pm cls).stream = 1 := by
  change respStream j.msg.dst = 1
  rw [respStream, h.dst]
  rfl

theorem sendFrom_cxl (h : WholeRead s u j) (data : List Code) (pm cls : Nat) (t : State) :
    tblGet [] (sendFrom nodeCxl (readResp j.msg data pm cls) t).fabric.inj (nodeCxl * 16 + 1) =
      tblGet [] t.fabric.inj (nodeCxl * 16 + 1) ++ [readResp j.msg data pm cls] := by
  have hsent := sendFrom_inj nodeCxl (readResp j.msg data pm cls) t
  rw [readResp_stream h] at hsent
  exact hsent

/-- What a failed read leaves behind: the link without it, the answer, one record, and the hub and what has left as they were. -/
theorem readFailed_ends (h : WholeRead s u j) :
    (readFailed u j cls s).host = linkWithout u j s.host ∧
      tblGet [] (readFailed u j cls s).fabric.inj (nodeCxl * 16 + 1) = tblGet [] s.fabric.inj (nodeCxl * 16 + 1) ++
        [readResp j.msg (List.replicate u.n poisonCode) (2 ^ u.n - 1) cls] ∧
      Recorded 0x02 blkCxl s (readFailed u j cls s) ∧ FaultsGrown 1 s (readFailed u j cls s) ∧
      HubGrown s (readFailed u j cls s) ∧ (readFailed u j cls s).out = s.out := by
  unfold readFailed
  refine ⟨?_, ?_, ?_, ?_, ?_, ?_⟩
  · exact (recordFault_host _ _).trans rfl
  · rw [sendFrom_cxl h, recordPart, recordFault_fabric]
    rfl
  · exact recorded_congr (recorded_recordFault_now (s := s) (t := setHost (linkWithout u j s.host) s) _ rfl rfl rfl rfl) rfl
  · obtain ⟨hclock, hkeep, hlength⟩ := faultsGrown_recordFault _ (setHost (linkWithout u j s.host) s)
    exact ⟨hclock, hkeep, hlength⟩
  · exact .of_same ((recordFault_standby _ _).trans rfl) ((recordFault_hub _ _).trans rfl)
  · exact (recordFault_out _ _).trans rfl

/-! ### UIO_COMPLETION and UIO_TIMEOUT -/

/-- An error of the link has been noted ahead of the end of a UIO request: counted, recorded, raised and told (R575). -/
structure ErrorNoted (h : HostLink) (s t : State) : Prop where
  host : t.host = h
  fabric : t.fabric = s.fabric
  nutas : t.nutas = s.nutas
  grown : FaultsGrown 1 s t
  hub : HubGrown s t
  recorded : Recorded 0x14 blkCxl s t
  raised : Raised 0 129 s t
  told : OutMsg.aer .nonfatal ∈ t.out

theorem errorNoted_hubRaise (hup : s.standby.mainUp = true) {h : HostLink} (r : FaultRec) (hcls : r.cls = BitVec.ofNat 8 0x14)
    (hsource : r.source = BitVec.ofNat 12 blkCxl) (hhost : t.host = h) (hfabric : t.fabric = s.fabric) (hnutas : t.nutas = s.nutas)
    (hclock : t.clock = s.clock) (hfaults : t.faults = s.faults) (hstandby : t.standby = s.standby) (hhub : t.hub = s.hub)
    (htold : OutMsg.aer .nonfatal ∈ t.out) : ErrorNoted h s (hubRaise 129 (recordFault r t)) := by
  have hrecord : HubGrown s (recordFault r t) :=
    .of_same ((recordFault_standby _ _).trans hstandby) ((recordFault_hub _ _).trans hhub)
  refine ⟨?_, ?_, ?_, ?_, hrecord.trans (hubGrown_hubRaise _ _), ?_, ?_, ?_⟩
  · rw [hubRaise_host, recordFault_host, hhost]
  · rw [hubRaise_fabric, recordFault_fabric, hfabric]
  · rw [hubRaise_nutas, recordFault_nutas, hnutas]
  · exact (FaultsGrown.of_same (n := 0) hclock hfaults).trans ((faultsGrown_recordFault _ _).trans
      (.of_same (n := 0) (hubRaise_clock _ _) (hubRaise_faults _ _)))
  · exact recorded_congr (recorded_recordFault_now r hcls hsource hclock hfaults) (hubRaise_faults _ _)
  · exact raised_behind hrecord (hubGrown_hubRaise _ _)
      (raised_hubRaise (by rw [recordFault_standby, hstandby]; exact hup) (by decide))
  · rw [hubRaise_out, recordFault_out]
    exact htold

theorem errorNoted_poisonIn (hup : s.standby.mainUp = true) :
    ErrorNoted { s.host with poisonRx := satInc s.host.poisonRx, aerNonfatal := true } s (poisonIn s) :=
  errorNoted_hubRaise (t := countError .poisonRx s) hup _ rfl rfl rfl rfl rfl rfl rfl rfl rfl
    (List.mem_append_right _ (List.mem_singleton.2 rfl))

theorem errorNoted_uioTimeout (hup : s.standby.mainUp = true) (hpa : Nat) :
    ErrorNoted { s.host with uncorr := satInc s.host.uncorr, aerNonfatal := true } s
      (hubRaise 129 (recordHost (linkRow .uioTimeout) 6 hpa (countError .uioTimeout s))) :=
  errorNoted_hubRaise (t := countError .uioTimeout s) hup _ rfl rfl rfl rfl rfl rfl rfl rfl rfl
    (List.mem_append_right _ (List.mem_singleton.2 rfl))

/-- A read that fails behind an error of the link leaves the record of each. -/
theorem readFailed_noted {l : HostLink} (h : WholeRead s u j) (hnoted : ErrorNoted l s t)
    (hroom : s.faults.waiting.length < 255) :
    (readFailed u j cls t).host = linkWithout u j l ∧
      (Recorded 0x02 blkCxl s (readFailed u j cls t) ∧
        tblGet [] (readFailed u j cls t).fabric.inj (nodeCxl * 16 + 1) = tblGet [] s.fabric.inj (nodeCxl * 16 + 1) ++
          [readResp j.msg (List.replicate u.n poisonCode) (2 ^ u.n - 1) cls]) ∧
      Recorded 0x14 blkCxl s (readFailed u j cls t) ∧ Raised 0 129 s (readFailed u j cls t) ∧
      OutMsg.aer .nonfatal ∈ (readFailed u j cls t).out := by
  obtain ⟨hhost, hinj, hrecord, hgrown, hhub, hout⟩ :=
    readFailed_ends (cls := cls) (h.congr hnoted.nutas hnoted.hub.standby)
  rw [hnoted.host] at hhost
  rw [hnoted.fabric] at hinj
  exact ⟨hhost, ⟨recorded_behind hnoted.grown (by omega) hrecord, hinj⟩,
    recorded_grown hnoted.recorded (by omega) hgrown, raised_grown hnoted.raised hhub, by rw [hout]; exact hnoted.told⟩

section
variable (hup : s.standby.mainUp = true) (hu : (s.host.uio.find? fun x => x.id == u.id) = some u)
include hup hu

theorem exec_uioCompletion_up (how : UioEnd) (data : List Gran) : exec (.uioCompletion u.id how data) s = .next (
    match how with
    | .ok => uioEnd u 0 ((List.range u.n).map fun i => encodeGran (nth 0 data i)) s
    | .poisoned => uioEnd u 2 (List.replicate u.n poisonCode) (poisonIn s)
    | .unsupported => uioEnd u 5 [] s
    | .abort => uioEnd u 3 [] s) := by
  rw [exec_uioCompletion, execUioCompletion, hu]
  exact whenOk_of s hup _

variable (hj : (s.host.jobs.find? fun x => x.num == u.job) = some j) (h : WholeRead s u j)
include hj h

theorem uioCompletion_ok (data : List Gran) : Completes (.uioCompletion u.id .ok data) s fun t =>
    t.host = linkWithout u j s.host ∧ t.faults = s.faults ∧
      tblGet [] t.fabric.inj (nodeCxl * 16 + 1) = tblGet [] s.fabric.inj (nodeCxl * 16 + 1) ++
        [readResp j.msg ((List.range u.n).map fun i => encodeGran (nth 0 data i)) 0 0] := by
  have hexec : exec (.uioCompletion u.id .ok data) s =
      .next (uioEnd u 0 ((List.range u.n).map fun i => encodeGran (nth 0 data i)) s) := by
    rw [exec_uioCompletion_up hup hu]
  have hdata : ((List.range u.n).map fun i => nth poisonCode ((List.range u.n).map fun i => encodeGran (nth 0 data i)) i) =
      (List.range u.n).map fun i => encodeGran (nth 0 data i) :=
    List.map_congr_left fun i hi => nth_map_range _ _ (List.mem_range.1 hi)
  rw [uioEnd_ok h hj, hdata] at hexec
  exact completes_of_exec hexec ⟨rfl, rfl, sendFrom_cxl h _ _ _ _⟩

omit hup hu in
theorem uioCompletion_fails {how : UioEnd} {cls : Nat} (data : List Gran) (hcls : cls ≠ 0) (hlt : cls < 16)
    (hexec : exec (.uioCompletion u.id how data) s = .next (uioEnd u cls [] s)) :
    Completes (.uioCompletion u.id how data) s fun t => t.host = linkWithout u j s.host ∧ Recorded 0x02 blkCxl s t ∧
      tblGet [] t.fabric.inj (nodeCxl * 16 + 1) = tblGet [] s.fabric.inj (nodeCxl * 16 + 1) ++
        [readResp j.msg (List.replicate u.n poisonCode) (2 ^ u.n - 1) cls] := by
  rw [uioEnd_fails h hj hcls hlt fun i => List.getD_nil] at hexec
  obtain ⟨hhost, hinj, hrecord, -⟩ := readFailed_ends (cls := cls) h
  exact completes_of_exec hexec ⟨hhost, hrecord, hinj⟩

theorem uioCompletion_poisoned (data : List Gran) (hroom : s.faults.waiting.length < 255) :
    Completes (.uioCompletion u.id .poisoned data) s fun t =>
      t.host = linkWithout u j { s.host with poisonRx := satInc s.host.poisonRx, aerNonfatal := true } ∧
        (Recorded 0x02 blkCxl s t ∧ tblGet [] t.fabric.inj (nodeCxl * 16 + 1) = tblGet [] s.fabric.inj (nodeCxl * 16 + 1) ++
          [readResp j.msg (List.replicate u.n poisonCode) (2 ^ u.n - 1) 2]) ∧
        Recorded 0x14 blkCxl s t ∧ Raised 0 129 s t ∧ OutMsg.aer .nonfatal ∈ t.out := by
  have hnoted := errorNoted_poisonIn hup
  have hexec := exec_uioCompletion_up hup hu .poisoned data
  generalize poisonIn s = v at *
  have hdata (i : Nat) : nth poisonCode (List.replicate u.n poisonCode) i = poisonCode := by simp [nth]
  rw [uioEnd_fails (h.congr hnoted.nutas hnoted.hub.standby) (by rw [hnoted.host]; exact hj) (by decide) (by decide) hdata] at hexec
  exact completes_of_exec hexec (readFailed_noted h hnoted hroom)

theorem uioTimeout_ends (hlate : u.since.toNat + max 1 s.host.uioTmo.toNat ≤ s.clock.tick.toNat)
    (hroom : s.faults.waiting.length < 255) :
    Completes (.uioTimeout u.id) s fun t =>
      t.host = linkWithout u j { s.host with uncorr := satInc s.host.uncorr, aerNonfatal := true } ∧
        (Recorded 0x02 blkCxl s t ∧ tblGet [] t.fabric.inj (nodeCxl * 16 + 1) = tblGet [] s.fabric.inj (nodeCxl * 16 + 1) ++
          [readResp j.msg (List.replicate u.n poisonCode) (2 ^ u.n - 1) 6]) ∧
        Recorded 0x14 blkCxl s t ∧ Raised 0 129 s t ∧ OutMsg.aer .nonfatal ∈ t.out := by
  have hnoted := errorNoted_uioTimeout hup u.hpa
  have hexec : exec (.uioTimeout u.id) s =
      .next (uioEnd u 6 [] (hubRaise 129 (recordHost (linkRow .uioTimeout) 6 u.hpa (countError .uioTimeout s)))) := by
    rw [exec_uioTimeout, execUioTimeout, hu]
    exact whenOk_of s (Bool.and_eq_true_iff.2 ⟨hup, decide_eq_true hlate⟩) _
  generalize hubRaise 129 (recordHost (linkRow .uioTimeout) 6 u.hpa (countError .uioTimeout s)) = v at *
  rw [uioEnd_fails (h.congr hnoted.nutas hnoted.hub.standby) (by rw [hnoted.host]; exact hj) (by decide) (by decide)
    fun i => List.getD_nil] at hexec
  exact completes_of_exec hexec (readFailed_noted h hnoted hroom)

end

end

end Sys2Proof.Proofs
end

section
/-! Proof for chapter 16: O57. -/

namespace Sys2Proof.Proofs

open Sys2Proof Sys2Proof.Machine Sys2Proof.Laws

/-- Settles O57: requests of the host, back-invalidates and board-tier answers, by the lemmas for each. -/
theorem hostRequestsAndAnswersAreServed : Obligations.HostRequestsAndAnswersAreServed := by
  unfold Obligations.HostRequestsAndAnswersAreServed
  refine ⟨fun s hpa a hmem => ⟨?_, fun data => ?_, fun data => ?_, fun be line => ⟨fun hbe => ?_, fun hlo hhi => ?_, fun hlo hhi => ?_,
    fun hlo hhi => ?_⟩, fun z l hplace => memInv_drops hmem hplace, memSpecRd_ignored hmem⟩,
    fun s b line hup => ⟨biRsp_unasked hup, biRsp_frees hup, fun c hc hline hlate hheld =>
      backInvalidateTimeout_frees hup hc hline hlate hheld, fun r l hsnoop hsorter hheld hfree _ hop hlen hlocal hintake =>
      biRsp_serves hup hsnoop hsorter hheld hfree hop hlen hlocal hintake⟩,
    fun s u j hup hu hj hleft hpm hcls hgot hfirst hop hcopy hlen hpos hle hsrc hdst => ?_⟩
  · exact completes_mono (memRd_enters hmem) fun t ⟨hhost, hout, hqueued⟩ => ⟨hhost, hout, hqueued.own, hqueued.others⟩
  · obtain ⟨u, hnoted, hdone⟩ := memWr_enters hmem data false
    refine completes_mono hdone fun t ⟨hhost, hout, hfaults, _, hqueued⟩ => ⟨?_, ?_, hfaults.trans (hnoted.faults rfl),
      hqueued.own, hqueued.others⟩
    · rw [hhost, hnoted.host]
      rfl
    · rw [hout, hnoted.out]
      exact List.append_nil _
  · obtain ⟨u, hnoted, hdone⟩ := memWr_enters hmem data true
    obtain ⟨hrecord, hraise⟩ := hnoted.recorded rfl
    refine completes_mono hdone fun t ⟨hhost, hout, hfaults, hhub, hqueued⟩ => ⟨?_, hout.trans hnoted.out,
      ⟨hqueued.own, hqueued.others⟩, recorded_congr hrecord hfaults, fun hnew => by rw [hhub]; exact hraise hnew⟩
    rw [hhost, hnoted.host]
    rfl
  · have hnoted := poisonNoted_ptlBegun (up_of_hostMem hmem).1 line
    exact completes_mono (memWrPtl_none hmem be line hbe) fun t ⟨hhost, hqueued, hout⟩ =>
      ⟨hhost.trans hnoted.host, ⟨hqueued.own, hqueued.others⟩, by rw [hout, hnoted.out]⟩
  · have hnoted := poisonNoted_ptlBegun (up_of_hostMem hmem).1 line
    refine completes_mono (memWrPtl_one (i := 0) hmem be line (by omega) (mt (ptlMask_low be).1 hlo) fun j hj hne => ?_)
      fun t ⟨hhost, hqueued, hout⟩ => ⟨by rw [hhost, hnoted.host]; rfl, ⟨hqueued.own, hqueued.others⟩, hout.trans hnoted.out⟩
    obtain rfl : j = 1 := by omega
    exact (ptlMask_high be).2 hhi
  · have hnoted := poisonNoted_ptlBegun (up_of_hostMem hmem).1 line
    refine completes_mono (memWrPtl_one (i := 1) hmem be line (by omega) (mt (ptlMask_high be).1 hhi) fun j hj hne => ?_)
      fun t ⟨hhost, hqueued, hout⟩ => ⟨by rw [hhost, hnoted.host]; rfl, ⟨hqueued.own, hqueued.others⟩, hout.trans hnoted.out⟩
    obtain rfl : j = 0 := by omega
    exact (ptlMask_low be).2 hlo
  · have hnoted := poisonNoted_ptlBegun (up_of_hostMem hmem).1 line
    refine completes_mono (memWrPtl_both hmem be line (mt (ptlMask_low be).1 hlo) (mt (ptlMask_high be).1 hhi))
      fun t ⟨hqueued, hhost, hout, hfaults, hhub⟩ => ⟨⟨hqueued.own, hqueued.others⟩, by rw [hhost, hnoted.host]; rfl,
        hout.trans hnoted.out, fun hpoison => ?_, fun hpoison => hfaults.trans (hnoted.faults hpoison)⟩
    obtain ⟨hrecord, hraise⟩ := hnoted.recorded hpoison
    exact ⟨recorded_congr hrecord hfaults, fun hnew => by rw [hhub]; exact hraise hnew⟩
  · have h : WholeRead s u j :=
      { left := hleft, pm := hpm, cls := hcls, got := hgot, first := hfirst, op := hop, copy := hcopy, len := hlen, pos := hpos,
        le := hle, src := hsrc, dst := hdst }
    exact ⟨uioCompletion_ok hup hu hj h,
      fun data => uioCompletion_fails hj h data (by decide) (by decide) (exec_uioCompletion_up hup hu .abort data),
      fun data => uioCompletion_fails hj h data (by decide) (by decide) (exec_uioCompletion_up hup hu .unsupported data),
      uioCompletion_poisoned hup hu hj h, uioTimeout_ends hup hu hj h⟩

end Sys2Proof.Proofs
end

section
/-! Facts for chapter 16: what a bezel that serves its sorter leaves of the clock, the records, the hub and the other bezels. -/

namespace Sys2Proof.Proofs

open Sys2Proof Sys2Proof.Machine Sys2Proof.Laws

/-- Service with all that it counts, records, raises and sends: `WriteFrame`, the clock as it was, and the fault records that waited
wait still. -/
structure ServeFrame (s t : State) : Prop where
  write : WriteFrame s t
  clock : t.clock = s.clock
  waiting : ∀ r ∈ s.faults.waiting, r ∈ t.faults.waiting

/-- A bezel has the sorter, the host-line record and the BISnpInvs of another. -/
def LinesAs (b b' : Bezel) : Prop := b'.lines = b.lines ∧ b'.snoops = b.snoops ∧ b'.sorter = b.sorter

/-- Service at bezel `z`: the sorters, host-line records and BISnpInvs of the other bezels are as they were. -/
structure BezelFrame (z : Nat) (s t : State) : Prop extends ServeFrame s t where
  others : ∀ z', z' ≠ z → LinesAs (bezelOf s z') (bezelOf t z')

section
variable {s t u : State} {z : Nat}

theorem ServeFrame.refl (s : State) : ServeFrame s s := ⟨.refl s, rfl, fun _ h => h⟩

theorem ServeFrame.trans (h : ServeFrame s t) (g : ServeFrame t u) : ServeFrame s u :=
  ⟨h.write.trans g.write, g.clock.trans h.clock, fun r hr => g.waiting r (h.waiting r hr)⟩

theorem ServeFrame.recorded {cls source : Nat} (g : ServeFrame t u) (h : Recorded cls source s t)
    (hroom : s.faults.waiting.length < 256) : Recorded cls source s u :=
  recorded_grown h hroom (n := u.faults.waiting.length) ⟨g.clock, g.waiting, Nat.le_add_left _ _⟩

theorem BezelFrame.refl (z : Nat) (s : State) : BezelFrame z s s := ⟨.refl s, fun _ _ => ⟨rfl, rfl, rfl⟩⟩

theorem BezelFrame.trans (h : BezelFrame z s t) (g : BezelFrame z t u) : BezelFrame z s u := by
  refine ⟨h.toServeFrame.trans g.toServeFrame, fun z' hz => ?_⟩
  obtain ⟨hlines, hsnoops, hsorter⟩ := h.others z' hz
  obtain ⟨glines, gsnoops, gsorter⟩ := g.others z' hz
  exact ⟨glines.trans hlines, gsnoops.trans hsnoops, gsorter.trans hsorter⟩

theorem linesAs_of_bezels (h : t.bezels = s.bezels) (z' : Nat) : LinesAs (bezelOf s z') (bezelOf t z') := by
  rw [bezelOf_congr h]
  exact ⟨rfl, rfl, rfl⟩

/-- An operation that touches the memory, the fabric, the host link or the counters alone. -/
theorem BezelFrame.of_keeps (z : Nat) (h : Keeps [.fabric, .mem, .host, .asy] s t) (hwrite : WriteFrame s t) : BezelFrame z s t :=
  ⟨⟨hwrite, clock_same h (by decide), by rw [faults_same h (by decide)]; exact fun _ hr => hr⟩,
    fun z' _ => linesAs_of_bezels (bezels_same h (by decide)) z'⟩

theorem BezelFrame.of_kept (z : Nat) (h : Keeps [.fabric, .mem, .host] s t) : BezelFrame z s t :=
  ⟨⟨.of_keeps h (by decide), clock_same h (by decide), by rw [faults_same h (by decide)]; exact fun _ hr => hr⟩,
    fun z' _ => linesAs_of_bezels (bezels_same h (by decide)) z'⟩

theorem bezelFrame_countEv (z blk code n : Nat) (s : State) : BezelFrame z s (countEv blk code n s) :=
  .of_keeps z (keeps_countEv _ _ _ (.refl _ s) (by decide)) (writeFrame_countEv _ _ _ _)

theorem bezelFrame_recordFault (z : Nat) (r : FaultRec) (s : State) : BezelFrame z s (recordFault r s) :=
  ⟨⟨writeFrame_recordFault r s, recordFault_clock _ _, (faultsGrown_recordFault r s).keep⟩, fun z' _ => linesAs_of_bezels (recordFault_bezels _ _) z'⟩

theorem bezelFrame_hubRaise (z src : Nat) (s : State) : BezelFrame z s (hubRaise src s) :=
  ⟨⟨writeFrame_hubRaise src s, hubRaise_clock _ _, by rw [hubRaise_faults]; exact fun _ hr => hr⟩,
    fun z' _ => linesAs_of_bezels (hubRaise_bezels _ _) z'⟩

theorem bezelFrame_modBezel (z : Nat) (f : Bezel → Bezel) (s : State) : BezelFrame z s (modBezel z f s) :=
  ⟨⟨writeFrame_modBezel z f s, rfl, fun _ hr => hr⟩, fun z' hz => by rw [bezelOf_modBezel_other _ _ hz]; exact ⟨rfl, rfl, rfl⟩⟩

theorem bezelFrame_setBezel (z : Nat) (b : Bezel) (s : State) : BezelFrame z s (setBezel z b s) :=
  ⟨⟨.of_same rfl rfl (.of_same rfl rfl) rfl, rfl, fun _ hr => hr⟩,
    fun z' hz => by rw [bezelOf_setBezel_other _ _ hz]; exact ⟨rfl, rfl, rfl⟩⟩

/-- What reaches the check adders of another bezel leaves its sorter, lines and BISnpInvs. -/
theorem bezelFrame_checkIn (z o : Nat) (x : ChkMsg) (s : State) :
    BezelFrame z s (modBezel o (fun b => { b with chkIn := b.chkIn ++ [x] }) s) := by
  refine ⟨⟨writeFrame_modBezel o _ s, rfl, fun _ hr => hr⟩, fun z' _ => ?_⟩
  by_cases ho : z' = o
  · rw [ho, bezelOf_modBezel]
    exact ⟨rfl, rfl, rfl⟩
  · rw [bezelOf_modBezel_other _ _ ho]
    exact ⟨rfl, rfl, rfl⟩

theorem bezelFrame_foldl {α : Type} {f : State → α → State} (h : ∀ t a, BezelFrame z t (f t a)) (l : List α) (s : State) :
    BezelFrame z s (l.foldl f s) := by
  induction l generalizing s with
  | nil => exact .refl _ _
  | cons a l ih => exact (h s a).trans (ih _)

theorem bezelFrame_upTo {f : State → Nat → State} (h : ∀ t k, BezelFrame z t (f t k)) (n : Nat) (s : State) :
    BezelFrame z s (upTo n f s) := bezelFrame_foldl h _ s

/-- A fold that carries a value beside the state. -/
theorem bezelFrame_upTo_snd {α : Type} {f : α × State → Nat → α × State} (h : ∀ a k, BezelFrame z a.2 (f a k).2) (n : Nat)
    (a : α × State) : BezelFrame z a.2 (upTo n f a).2 := by
  induction n with
  | zero => exact .refl _ _
  | succ n ih =>
    rw [upTo_succ]
    exact ih.trans (h _ n)

/-! ### Granules -/

theorem bezelFrame_frameCorrected (l : Nat) (s : State) : BezelFrame z s (frameCorrected z l s) := by
  unfold frameCorrected recordAddr
  dsimp only
  split
  · exact (((bezelFrame_setBezel z _ _).trans (bezelFrame_modBezel z _ _)).trans (bezelFrame_recordFault _ _ _)).trans
      (bezelFrame_hubRaise _ _ _)
  · exact bezelFrame_setBezel z _ s

theorem bezelFrame_stackLook (l : Nat) (c : Code) (read : Bool) (s : State) : BezelFrame z s (stackLook z l c read s) := by
  have hopen : BezelFrame z s (openAt z l (modBezel z (eccCount (decodeCode c).1 read) (countLook (blkBezel z) c s))) :=
    ((bezelFrame_countEv _ _ _ _ _).trans (bezelFrame_modBezel _ _ _)).trans (bezelFrame_modBezel _ _ _)
  unfold stackLook
  dsimp only
  split
  · exact hopen.trans (bezelFrame_frameCorrected _ _)
  · exact hopen

theorem bezelFrame_recordPart (src phys pm cls node : Nat) (prior : Bool) (s : State) :
    BezelFrame z s (recordPart src phys pm cls node prior s) := bezelFrame_recordFault _ _ _

theorem bezelFrame_recordParts (blk : Nat) (m : Msg) (cls : List Nat) (prior : Bool) (s : State) :
    BezelFrame z s (recordParts blk m cls prior s) := by
  unfold recordParts
  dsimp only
  split
  · exact .refl _ _
  · exact bezelFrame_recordPart _ _ _ _ _ _ _

theorem bezelFrame_addReread (p detail : Nat) (s : State) : BezelFrame z s (addReread p detail s) :=
  .of_kept z (keeps_addReread _ _ (.refl _ s) (by decide))

theorem bezelFrame_unitUse (node l : Nat) (s : State) : BezelFrame z s (unitUse node z l s).2 := by
  have hlook := bezelFrame_stackLook (z := z) l (stackCode s z l) true s
  by_cases hlost : (decodeCode (stackCode s z l)).1 = .uncorr
  · rw [unitUse_lost hlost]
    exact ((hlook.trans (bezelFrame_recordPart _ _ _ _ _ _ _)).trans (bezelFrame_addReread _ _ _)).trans (bezelFrame_hubRaise _ _ _)
  · rw [unitUse_found hlost]
    exact hlook

theorem bezelFrame_mergeUse (node l : Nat) (s : State) : BezelFrame z s (mergeUse node z l s).2 := by
  simp only [mergeUse]
  split
  · exact (bezelFrame_unitUse _ _ _).trans (bezelFrame_recordPart _ _ _ _ _ _ _)
  · exact bezelFrame_unitUse _ _ _

theorem bezelFrame_staleNotices (p : Nat) (s : State) : BezelFrame z s (staleNotices z p s) :=
  .of_keeps z (keeps_staleNotices z p (.refl _ s) (by decide)) (writeFrame_staleNotices _ _ _)

theorem bezelFrame_stackStore (l : Nat) (c : Code) (s : State) : BezelFrame z s (stackStore z l c s) :=
  (((BezelFrame.of_kept z (keeps_stackPut z l (passOn c) (.refl _ s) (by decide))).trans (bezelFrame_modBezel _ _ _)).trans
    (bezelFrame_modBezel _ _ _)).trans (bezelFrame_staleNotices _ _)

/-! ### Contributions -/

theorem bezelFrame_breakRec (r : Nat) (s : State) : BezelFrame z s (breakRec z r s) := by
  have hbroken : BezelFrame z s (broken z r s) := (bezelFrame_modBezel z _ _).trans (bezelFrame_modBezel z _ _)
  rw [breakRec_eq]
  exact (hbroken.trans (bezelFrame_recordFault _ _ _)).trans (bezelFrame_hubRaise _ _ _)

theorem bezelFrame_useWords (l n : Nat) (s : State) : BezelFrame z s (useWords z l n s).2 := by
  unfold useWords
  exact bezelFrame_upTo_snd (α := Option (List Word32)) (fun a _ => bezelFrame_unitUse _ _ a.2) n (some [], s)

theorem bezelFrame_addSums (r : RedRec) (p : Nat) (first : Bool) (vals : List Word32) (s : State) :
    BezelFrame z s (addSums z r p first vals s) := by
  have huse : BezelFrame z s (if decide (p + 8 ≤ r.count.toNat) = true then unitUse (nodeBezel z) z (r.sums.toNat + 4 * p) s
      else mergeUse (nodeBezel z) z (r.sums.toNat + 4 * p) s).2 := by
    split
    · exact bezelFrame_unitUse _ _ _
    · exact bezelFrame_mergeUse _ _ _
  simp only [addSums]
  generalize (if decide (p + 8 ≤ r.count.toNat) = true then unitUse (nodeBezel z) z (r.sums.toNat + 4 * p) s
    else mergeUse (nodeBezel z) z (r.sums.toNat + 4 * p) s) = v at *
  split
  · exact .refl _ _
  · split
    · exact bezelFrame_stackStore _ _ _
    · split
      · exact huse.trans (bezelFrame_stackStore _ _ _)
      · exact huse.trans (bezelFrame_stackStore _ _ _)

theorem bezelFrame_addGran (ri j : Nat) (r : RedRec) (first : Bool) (d : Gran) (s : State) :
    BezelFrame z s (addGran z ri j r first d s) := by
  have hsums := (bezelFrame_addSums (z := z) r (16 * j) first ((conElems d).take 8) s).trans
    (bezelFrame_addSums r (16 * j + 8) first ((conElems d).drop 8) _)
  simp only [addGran]
  split
  · exact (hsums.trans (bezelFrame_countEv _ _ _ _ _)).trans (bezelFrame_checkIn _ _ _ _)
  · exact hsums

theorem bezelFrame_completeRec (ri : Nat) (s : State) : BezelFrame z s (completeRec z ri s) := by
  refine BezelFrame.trans ((bezelFrame_modBezel z _ _).trans (bezelFrame_modBezel z _ _)) (bezelFrame_foldl (fun t j => ?_) _ _)
  exact (bezelFrame_useWords _ _ t).trans (bezelFrame_checkIn _ _ _ _)

theorem bezelFrame_conApply (l : Nat) (m : Msg) (s : State) : BezelFrame z s (conApply z l m s) := by
  have hgrans := bezelFrame_upTo (f := fun t k => addGran z (intakeRec (bezelOf s z) l) (intakeOff (bezelOf s z) l / 32 + k)
    (recOf (bezelOf s z) (intakeRec (bezelOf s z) l))
    (segMask (recOf (bezelOf s z) (intakeRec (bezelOf s z) l)) ((intakeOff (bezelOf s z) l / 32 + k) / 4) == 0)
    (goodData (nth 0 m.data k)) t) (fun t k => bezelFrame_addGran (z := z) _ _ _ _ _ t) m.len s
  have hset : ∀ r, BezelFrame z s (countEv (blkBezel z) 0x0A 1 (setRec z (intakeRec (bezelOf s z) l) r (upTo m.len _ s))) := fun r =>
    (hgrans.trans (bezelFrame_modBezel _ _ _)).trans (bezelFrame_countEv _ _ _ _ _)
  simp only [conApply]
  split
  · exact (hset _).trans (bezelFrame_completeRec _ _)
  · exact hset _

theorem bezelFrame_contribute (l : Nat) (m : Msg) (s : State) : BezelFrame z s (contribute z l m s).2.2 := by
  have hcount (code : Nat) (f : Bezel → Bezel) : BezelFrame z s (countEv (blkBezel z) code 1 (modBezel z f s)) :=
    (bezelFrame_modBezel _ _ _).trans (bezelFrame_countEv _ _ _ _ _)
  simp only [contribute, recordMore]
  split
  · exact bezelFrame_conApply _ _ _
  · dsimp only
    exact hcount _ _
  · dsimp only
    exact hcount _ _
  · dsimp only
    split
    · exact ((hcount _ _).trans (bezelFrame_recordFault _ _ _)).trans (bezelFrame_breakRec _ _)
    · exact (hcount _ _).trans (bezelFrame_recordFault _ _ _)

/-! ### Requests -/

theorem writeFrame_passXbar (n : Nat) (data : List Code) (s : State) : WriteFrame s (passXbar n data s) := by
  unfold passXbar
  split
  · unfold xbarLooks
    exact writeFrame_foldl (fun t c => writeFrame_countLook _ _ t) _ _
  · exact .refl _

theorem writeFrame_sendFrom (n : Nat) (m : Msg) (s : State) : WriteFrame s (sendFrom n m s) :=
  .of_keeps (keeps_sendFrom _ _ (.refl [.fabric] s) (by decide)) (by decide)

theorem writeFrame_answer (n : Nat) (m : Msg) (s : State) : WriteFrame s (answer n m s) := by
  unfold answer
  dsimp only
  refine (writeFrame_passXbar n m.data s).trans ?_
  split
  · split
    · exact .of_same rfl rfl (.of_same rfl rfl) rfl
    · exact writeFrame_sendFrom _ _ _
  · exact writeFrame_sendFrom _ _ _

theorem bezelFrame_answer (n : Nat) (m : Msg) (s : State) : BezelFrame z s (answer n m s) :=
  .of_keeps z (keeps_answer _ _ (.refl _ s) (by decide)) (writeFrame_answer _ _ _)

theorem bezelFrame_answerWrite (n : Nat) (m : Msg) (pm cls : Nat) (s : State) : BezelFrame z s (answerWrite n m pm cls s) :=
  (bezelFrame_answer _ _ s).trans (bezelFrame_foldl (fun t _ => bezelFrame_answer _ _ t) _ _)

theorem writeFrame_toSlice (i port : Nat) (m : Msg) (s : State) : WriteFrame s (toSlice i port m s) := by
  have hlooks : WriteFrame s (xbarLooks (i / 4) m.data s) := by
    unfold xbarLooks
    exact writeFrame_foldl (fun t c => writeFrame_countLook _ _ t) _ _
  exact hlooks.trans (.of_same rfl rfl (.of_same rfl rfl) rfl)

theorem bezelFrame_returnData (n : Nat) (m : Msg) (data : List Code) (pm cls : Nat) (shared : Bool) (s : State) :
    BezelFrame z s (returnData n m data pm cls shared s) := by
  refine .of_keeps z (keeps_returnData _ _ _ _ _ _ (.refl _ s) (by decide)) ?_
  unfold returnData
  dsimp only
  split
  · split
    · split
      · exact writeFrame_toSlice _ _ _ _
      · exact (writeFrame_passXbar _ _ _).trans (writeFrame_sendFrom _ _ _)
    · exact (writeFrame_passXbar _ _ _).trans (writeFrame_sendFrom _ _ _)
  · exact writeFrame_answer _ _ _

theorem bezelFrame_raiseIf (p : Prop) [Decidable p] (src : Nat) (s : State) : BezelFrame z s (if p then hubRaise src s else s) := by
  split
  · exact bezelFrame_hubRaise _ _ _
  · exact .refl _ _

theorem bezelFrame_bezelRead1 (m : Msg) (i : Nat) (a : Parts × State) : BezelFrame z a.2 (bezelRead1 z m i a).2 := by
  simp only [bezelRead1]
  split
  · exact .refl _ _
  · split
    · exact .refl _ _
    · split
      · exact .refl _ _
      · rename_i l _
        exact BezelFrame.trans (t := (stackUse z l a.2).2) (bezelFrame_stackLook _ _ _ _) (bezelFrame_countEv z (blkBezel z) 2 1 _)

theorem bezelFrame_bezelRead (m : Msg) (s : State) : BezelFrame z s (bezelRead z m s) := by
  have hreads := bezelFrame_upTo_snd (z := z) (fun a k => bezelFrame_bezelRead1 m k a) (reqLen m) (([] : Parts), s)
  unfold bezelRead
  dsimp only
  generalize upTo (reqLen m) (fun a i => bezelRead1 z m i a) (([] : Parts), s) = r at *
  refine BezelFrame.trans ?_ (bezelFrame_returnData _ _ _ _ _ _ _)
  refine BezelFrame.trans ?_ (bezelFrame_raiseIf _ _ _)
  refine BezelFrame.trans (BezelFrame.trans ?_ (bezelFrame_recordParts _ _ _ _ _))
    (.of_kept z (keeps_addRereads _ _ (.refl _ _) (by decide)))
  split
  · exact hreads.trans (bezelFrame_modBezel _ _ _)
  · exact hreads

theorem bezelFrame_bezelWrite1 (m : Msg) (i : Nat) (a : List Nat × State) : BezelFrame z a.2 (bezelWrite1 z m i a).2 := by
  simp only [bezelWrite1]
  split
  · exact .refl _ _
  · split
    · exact .refl _ _
    · split
      · dsimp only
        refine BezelFrame.trans ?_ (bezelFrame_stackStore _ _ _)
        exact (bezelFrame_countEv z (blkBezel z) 0x03 1 a.2).trans (bezelFrame_stackLook _ _ _ _)
      · dsimp only
        refine BezelFrame.trans ?_ (bezelFrame_stackStore _ _ _)
        exact bezelFrame_countEv z (blkBezel z) 0x03 1 a.2

theorem bezelFrame_bezelWrite (m : Msg) (s : State) : BezelFrame z s (bezelWrite z m s) := by
  have hwrites := bezelFrame_upTo_snd (z := z) (fun a k => bezelFrame_bezelWrite1 m k a) m.len (([] : List Nat), s)
  unfold bezelWrite
  dsimp only
  generalize upTo m.len (fun a i => bezelWrite1 z m i a) (([] : List Nat), s) = r at *
  split
  · exact (bezelFrame_contribute _ _ _).trans (bezelFrame_answerWrite _ _ _ _ _)
  · split
    · exact BezelFrame.trans (t := recordParts (blkBezel z) m (List.replicate m.len 5) false s) (bezelFrame_recordParts _ _ _ _ _)
        (bezelFrame_answerWrite _ _ _ _ _)
    · refine BezelFrame.trans ?_ (bezelFrame_answer _ _ _)
      refine BezelFrame.trans ?_ (bezelFrame_raiseIf _ _ _)
      exact hwrites.trans (bezelFrame_recordParts _ _ _ _ _)

theorem bezelFrame_bezelDo (r : SortReq) (s : State) : BezelFrame z s (bezelDo z r s) := by
  have hleft := (bezelFrame_foldl (z := z) (f := fun t l => countEv (blkBezel z) (if burstHit s z l then 0x05 else 0x06) 1 t)
    (fun t _ => bezelFrame_countEv _ _ _ _ t) (reqBursts s z r.msg) s).trans
    (bezelFrame_modBezel z (fun b => { b with sorter := dropFirst (fun q => q == r) b.sorter }) _)
  unfold bezelDo
  dsimp only
  split
  · exact hleft.trans (bezelFrame_bezelRead _ _)
  · exact hleft.trans (bezelFrame_bezelWrite _ _)

theorem bezelFrame_snoop (line : Nat) (s : State) : BezelFrame z s (snoop z line s) := by
  have hframe := writeFrame_snoop z line s
  have hkeep := keeps_snoop z line (.refl [.bezels, .asy, .out] s) (by decide)
  exact ⟨⟨hframe, clock_same hkeep (by decide), by rw [faults_same hkeep (by decide)]; exact fun _ hr => hr⟩,
    fun z' hz => by rw [(snoop_bezel z line s).1 z' hz]; exact ⟨rfl, rfl, rfl⟩⟩

theorem bezelFrame_serveHeld (z : Nat) (s : State) : BezelFrame z s (serveHeld z s) := by
  unfold serveHeld
  refine bezelFrame_foldl (fun t r => ?_) _ s
  split
  · exact bezelFrame_bezelDo _ _
  · exact bezelFrame_foldl (fun v l => bezelFrame_snoop l v) _ t

end

end Sys2Proof.Proofs
end

section
/-! Proofs for chapter 16: the host link falls. -/

namespace Sys2Proof.Proofs

open Sys2Proof Sys2Proof.Machine Sys2Proof.Laws

theorem exec_hostLinkDown (s : State) : exec .hostLinkDown s = execHostLinkDown s := rfl
theorem exec_hostLinkError (e : LinkError) (s : State) : exec (.hostLinkError e) s = execHostLinkError e s := rfl

section
variable {s t : State} {z : Nat}

/-! ### An error of the link is noted -/

/-- An error of the link is counted, told by its class, recorded and raised (R575). -/
def errorTold (e : LinkError) (s : State) : State := hubRaise 129 (recordHostAt (linkRow e) (countError e s))

theorem countError_clock (e : LinkError) (s : State) : (countError e s).clock = s.clock := by cases e <;> rfl
theorem countError_faults (e : LinkError) (s : State) : (countError e s).faults = s.faults := by cases e <;> rfl
theorem countError_standby (e : LinkError) (s : State) : (countError e s).standby = s.standby := by cases e <;> rfl
theorem countError_hub (e : LinkError) (s : State) : (countError e s).hub = s.hub := by cases e <;> rfl

theorem errorTold_host (e : LinkError) (s : State) : (errorTold e s).host = (countError e s).host := by
  rw [errorTold, hubRaise_host, recordHostAt, recordAt_host]

theorem errorTold_out (e : LinkError) (s : State) : (errorTold e s).out = (countError e s).out := by
  rw [errorTold, hubRaise_out, recordHostAt, recordAt_out]

theorem keeps_errorTold (e : LinkError) (s : State) : Keeps [.host, .ledger, .faults, .hub, .out] s (errorTold e s) :=
  keeps_hubRaise _ (keeps_recordHostAt _ (keeps_countError _ (.refl _ s) (by decide)) (by decide)) (by decide)

theorem recorded_errorTold (e : LinkError) (s : State) : Recorded 0x14 blkCxl s (errorTold e s) :=
  recorded_congr (recorded_recordAt (t := countError e s) (countError_clock e s) (countError_faults e s) _ _ (linkRow e))
    (hubRaise_faults _ _)

theorem raised_errorTold (hup : s.standby.mainUp = true) (e : LinkError) : Raised 0 129 s (errorTold e s) := by
  refine raised_behind (t := recordHostAt (linkRow e) (countError e s)) (.of_same ?_ ?_) (hubGrown_hubRaise _ _)
    (raised_hubRaise ?_ (by decide))
  · rw [recordHostAt, recordAt_standby, countError_standby]
  · rw [recordHostAt, recordAt_hub, countError_hub]
  · rw [recordHostAt, recordAt_standby, countError_standby]
    exact hup

/-! ### The UIO requests end -/

theorem uioEnd_host (u : Uio) (cls : Nat) (data : List Code) (s : State) :
    ∃ jobs, (uioEnd u cls data s).host = { s.host with uio := dropFirst (fun x => x.id == u.id) s.host.uio, jobs := jobs } := by
  unfold uioEnd
  dsimp only
  split
  · exact ⟨s.host.jobs, rfl⟩
  · split
    · have hkeep (v : State) (j : UioJob) (m : Msg) (bad : List Nat) : (boardAnswer j (recordParts blkCxl m bad false v)).host = v.host :=
        (keeps_boardAnswer j (keeps_recordParts blkCxl m bad false (.refl [.fabric, .mem, .ledger, .faults, .asy] v)
          (by decide)) (by decide)).only.host.resolve_left (by decide)
      exact ⟨_, (hkeep _ _ _ _).trans rfl⟩
    · exact ⟨_, rfl⟩

theorem eq_withoutUio {h : HostLink} (hu : h.uio = []) : h = { h with uio := [], jobs := h.jobs } := by
  rw [← hu]

/-- Every UIO request of a list ends with TARGET_DOWN (R576). -/
def uiosEnded (l : List Uio) (s : State) : State := l.foldl (fun t u => uioEnd u 3 [] t) s

theorem uiosEnded_host {l : List Uio} (hl : s.host.uio = l) : ∃ jobs, (uiosEnded l s).host = { s.host with uio := [], jobs := jobs } := by
  induction l generalizing s with
  | nil => exact ⟨s.host.jobs, eq_withoutUio hl⟩
  | cons u l ih =>
    obtain ⟨jobs, hhost⟩ := uioEnd_host u 3 [] s
    have hfirst : dropFirst (fun x => x.id == u.id) (u :: l) = l := if_pos (beq_self_eq_true u.id)
    rw [hl, hfirst] at hhost
    obtain ⟨jobs', hhost'⟩ := ih (s := uioEnd u 3 [] s) (by rw [hhost])
    exact ⟨jobs', by rw [uiosEnded, List.foldl_cons]; exact hhost'.trans (by rw [hhost])⟩

theorem bezelFrame_boardAnswer (j : UioJob) (s : State) : BezelFrame z s (boardAnswer j s) := by
  unfold boardAnswer
  dsimp only
  split
  · exact bezelFrame_returnData _ _ _ _ _ _ _
  · exact .of_kept z (keeps_sendFrom _ _ (.refl _ s) (by decide))

theorem bezelFrame_setHost (h : HostLink) (s : State) : BezelFrame z s (setHost h s) :=
  .of_kept z (keeps_setHost h (.refl _ s) (by decide))

theorem bezelFrame_uioEnd (u : Uio) (cls : Nat) (data : List Code) (s : State) : BezelFrame z s (uioEnd u cls data s) := by
  unfold uioEnd
  dsimp only
  split
  · exact bezelFrame_setHost _ _
  · split
    · refine BezelFrame.trans (BezelFrame.trans ?_ (bezelFrame_recordParts _ _ _ _ _)) (bezelFrame_boardAnswer _ _)
      exact (bezelFrame_setHost _ _).trans (bezelFrame_setHost _ _)
    · exact (bezelFrame_setHost _ s).trans (bezelFrame_setHost _ _)

theorem uiosEnded_frame (l : List Uio) (s : State) : ServeFrame s (uiosEnded l s) :=
  (bezelFrame_foldl (z := 0) (fun t u => bezelFrame_uioEnd u 3 [] t) l s).toServeFrame

theorem uiosEnded_bezels (l : List Uio) (s : State) : (uiosEnded l s).bezels = s.bezels :=
  bezels_same (Keeps.foldl (ps := [.fabric, .mem, .host, .ledger, .faults, .asy]) _ (.refl _ s)
    fun _ _ hk => keeps_uioEnd _ _ _ hk (by decide)) (by decide)

/-! ### The host-line records are cleared -/

/-- A bezel's host-line record and BISnpInvs are gone (R576). -/
def linesCleared (z : Nat) (s : State) : State := modBezel z (fun b => { b with lines := [], snoops := [] }) s

/-- The requests that waited for a line are then served. -/
def bezelFreed (s : State) (z : Nat) : State := serveHeld z (linesCleared z s)

theorem bezelFrame_bezelFreed (s : State) (z : Nat) : BezelFrame z s (bezelFreed s z) :=
  (bezelFrame_modBezel _ _ _).trans (bezelFrame_serveHeld _ _)

theorem bezelOf_bezelFreed (h : ∀ r ∈ (bezelOf s z).sorter, r.held = false) :
    bezelOf (bezelFreed s z) z = { bezelOf s z with lines := [], snoops := [] } := by
  have hsame : bezelOf (linesCleared z s) z = { bezelOf s z with lines := [], snoops := [] } := bezelOf_modBezel _ _ _
  rw [bezelFreed, serveHeld_none fun r hr => h r (by rw [hsame] at hr; exact hr), hsame]

theorem bezelsFreed_frame (n : Nat) (s : State) : ServeFrame s (upTo n bezelFreed s) := by
  induction n with
  | zero => exact .refl _
  | succ n ih =>
    rw [upTo_succ]
    exact ih.trans (bezelFrame_bezelFreed _ _).toServeFrame

/-- The bezels whose turn has not come are as they were in what their lines make of them. -/
theorem bezelsFreed_behind {n : Nat} (hz : n ≤ z) (s : State) : LinesAs (bezelOf s z) (bezelOf (upTo n bezelFreed s) z) := by
  induction n with
  | zero => exact ⟨rfl, rfl, rfl⟩
  | succ n ih =>
    obtain ⟨hlines, hsnoops, hsorter⟩ := ih (by omega)
    rw [upTo_succ]
    obtain ⟨glines, gsnoops, gsorter⟩ := (bezelFrame_bezelFreed (upTo n bezelFreed s) n).others z (by omega)
    exact ⟨glines.trans hlines, gsnoops.trans hsnoops, gsorter.trans hsorter⟩

theorem bezelsFreed_lines {n : Nat} (hz : z < n) (h : ∀ r ∈ (bezelOf s z).sorter, r.held = false) :
    (bezelOf (upTo n bezelFreed s) z).lines = [] ∧ (bezelOf (upTo n bezelFreed s) z).snoops = [] := by
  induction n with
  | zero => omega
  | succ n ih =>
    rw [upTo_succ]
    by_cases hlast : z = n
    · subst hlast
      have hsorter := (bezelsFreed_behind (Nat.le_refl z) s).2.2
      rw [bezelOf_bezelFreed (by rw [hsorter]; exact h)]
      exact ⟨rfl, rfl⟩
    · obtain ⟨hlines, hsnoops, -⟩ := (bezelFrame_bezelFreed (upTo n bezelFreed s) n).others z hlast
      rw [hlines, hsnoops]
      exact ih (by omega)

/-! ### Requests under way -/

theorem filtered_lists {α : Type} [DecidableEq α] {l : List (Nat × List α)} {keep : α → Bool} {p : Nat × List α}
    (hp : p ∈ (l.map fun p => (p.1, p.2.filter keep)).filter fun p => p.2 != []) {x : α} (hx : x ∈ p.2) : keep x = true := by
  obtain ⟨q, -, rfl⟩ := List.mem_map.1 (List.mem_filter.1 hp).1
  exact (List.mem_filter.1 hx).2

theorem dropHostReqs_fabric (s : State) :
    (∀ p ∈ (dropHostReqs s).fabric.inj, ∀ m ∈ p.2, isHostReq m = false) ∧
      (∀ p ∈ (dropHostReqs s).fabric.flights, ∀ f ∈ p.2, isHostReq f.msg = false) ∧
      ∀ p ∈ (dropHostReqs s).fabric.arrivals, ∀ m ∈ p.2, isHostReq m = false :=
  ⟨fun _ hp _ hm => Bool.not_eq_true' _ ▸ filtered_lists hp hm, fun _ hp _ hf => Bool.not_eq_true' _ ▸ filtered_lists hp hf,
    fun _ hp _ hm => Bool.not_eq_true' _ ▸ filtered_lists hp hm⟩

/-! ### The fall -/

/-- The link retrains (R576). -/
def linkReset (s : State) : State :=
  setHost { s.host with link := 1, speed := 0, width := 0, l0p := false, cal := false, cache := [], halves := [] } s

theorem linkFall_eq (s : State) : linkFall s =
    dropHostReqs (upTo 16 bezelFreed (uiosEnded s.host.uio (linkReset (errorTold .fatal s)))) := rfl

theorem linkFall_falls (hup : s.standby.mainUp = true) :
    (linkFall s).host.link = 1 ∧ (linkFall s).host.speed = 0 ∧ (linkFall s).host.width = 0 ∧ (linkFall s).host.uio = [] ∧
      (linkFall s).host.cache = [] ∧ (linkFall s).host.halves = [] ∧ (linkFall s).host.linkDown = satInc s.host.linkDown ∧
      (linkFall s).host.aerFatal = true ∧ OutMsg.aer .fatal ∈ (linkFall s).out ∧
      (s.faults.waiting.length < 256 → Recorded 0x14 blkCxl s (linkFall s)) ∧ Raised 0 129 s (linkFall s) ∧
      (∀ z < 16, (∀ r ∈ (bezelOf s z).sorter, r.held = false) →
        (bezelOf (linkFall s) z).lines = [] ∧ (bezelOf (linkFall s) z).snoops = []) ∧
      (∀ p ∈ (linkFall s).fabric.inj, ∀ m ∈ p.2, isHostReq m = false) ∧
      (∀ p ∈ (linkFall s).fabric.flights, ∀ f ∈ p.2, isHostReq f.msg = false) ∧
      ∀ p ∈ (linkFall s).fabric.arrivals, ∀ m ∈ p.2, isHostReq m = false := by
  rw [linkFall_eq]
  have hrecord := recorded_errorTold .fatal s
  have hraise := raised_errorTold hup .fatal
  have htold : OutMsg.aer .fatal ∈ (errorTold .fatal s).out := by
    rw [errorTold_out]
    exact List.mem_append_right _ (List.mem_singleton.2 rfl)
  have hhost := errorTold_host .fatal s
  have hbezels := bezels_same (keeps_errorTold .fatal s) (by decide)
  generalize errorTold .fatal s = u at *
  have huio : (linkReset u).host.uio = s.host.uio := (congrArg (·.uio) hhost).trans rfl
  obtain ⟨jobs, hended⟩ := uiosEnded_host huio
  have hframe := (uiosEnded_frame s.host.uio (linkReset u)).trans
    (bezelsFreed_frame 16 (uiosEnded s.host.uio (linkReset u)))
  have hfreed := fun z (hz : z < 16) => bezelsFreed_lines (s := uiosEnded s.host.uio (linkReset u)) hz
  have hsame (z : Nat) : bezelOf (uiosEnded s.host.uio (linkReset u)) z = bezelOf s z :=
    bezelOf_congr ((uiosEnded_bezels s.host.uio (linkReset u)).trans hbezels) z
  have hkept : (upTo 16 bezelFreed (uiosEnded s.host.uio (linkReset u))).host = (uiosEnded s.host.uio (linkReset u)).host :=
    (Keeps.upTo (ps := [.fabric, .mem, .bezels, .ledger, .faults, .hub, .asy, .out]) _ (.refl _ _) fun _ _ hk =>
      keeps_serveHeld _ (keeps_modBezel _ _ hk (by decide)) (by decide)).only.host.resolve_left (by decide)
  generalize upTo 16 bezelFreed (uiosEnded s.host.uio (linkReset u)) = w at *
  have hlink : (dropHostReqs w).host = { (linkReset u).host with uio := [], jobs := jobs } := hkept.trans hended
  rw [hlink]
  refine ⟨rfl, rfl, rfl, rfl, rfl, rfl, congrArg (·.linkDown) hhost, congrArg (·.aerFatal) hhost, hframe.write.out _ htold,
    fun hroom => ?_, ?_, fun z hz hheld => hfreed z hz (by rw [hsame]; exact hheld), dropHostReqs_fabric w⟩
  · exact recorded_congr (hframe.recorded (recorded_congr hrecord rfl) hroom) rfl
  · exact raised_grown (t := linkReset u) (u := w) hraise hframe.write.hub

theorem exec_hostLinkError_up (hup : s.standby.mainUp = true) (hlink : s.host.link = 2) (e : LinkError) :
    exec (.hostLinkError e) s = .next (hostError e s) :=
  (exec_hostLinkError e s).trans (whenOk_of s (Bool.and_eq_true_iff.2 ⟨hup, beq_iff_eq.2 hlink⟩) _)

theorem exec_hostLinkDown_up (hup : s.standby.mainUp = true) (hlink : s.host.link = 2) :
    exec .hostLinkDown s = .next (linkFall s) :=
  (exec_hostLinkDown s).trans (whenOk_of s (Bool.and_eq_true_iff.2 ⟨hup, beq_iff_eq.2 hlink⟩) _)

end

end Sys2Proof.Proofs
end

section
/-! Proof for chapter 16: the events of the host link, and O58. -/

namespace Sys2Proof.Proofs

open Sys2Proof Sys2Proof.Machine Sys2Proof.Laws

theorem exec_hostLinkUp (at64 : Bool) (s : State) : exec (.hostLinkUp at64) s = execHostLinkUp at64 s := rfl
theorem exec_hostLaneCalibration (lane : Fin 16) (granted : Bool) (s : State) :
    exec (.hostLaneCalibration lane granted) s = execHostLaneCalibration lane granted s := rfl
theorem exec_hostCalibrationDone (s : State) : exec .hostCalibrationDone s = execHostCalibrationDone s := rfl
theorem exec_h2dSnoop (line : Nat) (s : State) : exec (.h2dSnoop line) s = execH2dSnoop line s := rfl
theorem exec_uioRequestToModule (hpa : Nat) (s : State) : exec (.uioRequestToModule hpa) s = execUioRequestToModule hpa s := rfl
theorem exec_msixUnmask (v : Fin 32) (s : State) : exec (.msixUnmask v) s = execMsixUnmask v s := rfl
theorem exec_capabilityWrite (c : Capability) (s : State) : exec (.capabilityWrite c) s = execCapabilityWrite c s := rfl

section
variable {s t : State}

/-! ### Errors of the link -/

section
variable (hup : s.standby.mainUp = true) (hlink : s.host.link = 2)
include hup hlink

theorem linkBoth : (mainUp s && linkUp s) = true := Bool.and_eq_true_iff.2 ⟨hup, beq_iff_eq.2 hlink⟩

/-- An error that is counted, recorded and raised, and told the host by its class (R575). -/
theorem hostLinkError_told {e : LinkError} (he : hostError e s = errorTold e s) {h : HostLink} {l : List OutMsg}
    (hhost : (countError e s).host = h) (hout : (countError e s).out = s.out ++ l) :
    Completes (.hostLinkError e) s fun t => OnlyIn [.host, .ledger, .faults, .hub, .out] s t ∧ t.host = h ∧ t.out = s.out ++ l ∧
      Recorded 0x14 blkCxl s t ∧ Raised 0 129 s t := by
  have hexec := exec_hostLinkError_up hup hlink e
  rw [he] at hexec
  exact completes_of_exec hexec ⟨(keeps_errorTold e s).only, (errorTold_host e s).trans hhost, (errorTold_out e s).trans hout,
    recorded_errorTold e s, raised_errorTold hup e⟩

/-- A request of a kind that the link does not serve is answered so besides (R555, R575). -/
theorem hostLinkError_unsupported : Completes (.hostLinkError .unsupported) s fun t =>
    OnlyIn [.host, .ledger, .faults, .hub, .out] s t ∧ t.host = { s.host with uncorr := satInc s.host.uncorr, aerNonfatal := true } ∧
      t.out = s.out ++ [.aer .nonfatal, .unsupported] ∧ Recorded 0x14 blkCxl s t ∧ Raised 0 129 s t := by
  have hexec : exec (.hostLinkError .unsupported) s = .next (emit .unsupported (errorTold .unsupported s)) :=
    exec_hostLinkError_up hup hlink .unsupported
  refine completes_of_exec hexec ⟨(keeps_emit _ (keeps_errorTold .unsupported s) (by decide)).only, errorTold_host .unsupported s,
    ?_, recorded_congr (recorded_errorTold .unsupported s) rfl, raised_errorTold hup .unsupported⟩
  rw [emit_out, errorTold_out]
  exact List.append_assoc _ _ _

theorem hostLinkError_badRead (off : Nat) : Completes (.hostLinkError (.badRead off)) s fun t =>
    OnlyIn [.ledger, .faults, .out] s t ∧ t.out = s.out ++ [.abort] ∧ Recorded 0x14 blkCxl s t := by
  have hexec : exec (.hostLinkError (.badRead off)) s = .next (emit .abort (recordHostAt 0 s)) :=
    exec_hostLinkError_up hup hlink (.badRead off)
  refine completes_of_exec hexec ⟨(keeps_emit _ (keeps_recordHostAt 0 (.refl _ s) (by decide)) (by decide)).only, ?_,
    recorded_congr (recorded_recordAt (s := s) (t := s) rfl rfl 0x14 blkCxl 0) rfl⟩
  rw [emit_out, recordHostAt, recordAt_out]

/-- A UIO request to the module is not supported (R574, R575). -/
theorem uioRequestToModule_refused (hpa : Nat) : Completes (.uioRequestToModule hpa) s fun t =>
    t.out = s.out ++ [.aer .nonfatal, .unsupported] ∧ t.fabric = s.fabric ∧
      t.host = { s.host with uncorr := satInc s.host.uncorr, aerNonfatal := true } ∧ Recorded 0x14 blkCxl s t ∧ Raised 0 129 s t := by
  have hexec : exec (.uioRequestToModule hpa) s = .next (emit .unsupported (hubRaise 129
      (recordHost (linkRow .unsupported) 0 hpa (countError .unsupported s)))) := by
    rw [exec_uioRequestToModule, execUioRequestToModule]
    exact whenOk_of s (linkBoth hup hlink) _
  have hrecord : Recorded 0x14 blkCxl s (recordHost (linkRow .unsupported) 0 hpa (countError .unsupported s)) :=
    recorded_recordAddr (t := countError .unsupported s) rfl rfl _ _ _ _
  refine completes_of_exec hexec ⟨?_, ?_, ?_, recorded_congr hrecord (hubRaise_faults _ _),
    raised_behind (t := recordHost (linkRow .unsupported) 0 hpa (countError .unsupported s)) (.of_same ?_ ?_)
      (u := hubRaise 129 (recordHost (linkRow .unsupported) 0 hpa (countError .unsupported s))) (hubGrown_hubRaise _ _)
      (raised_hubRaise ?_ (by decide))⟩
  · rw [emit_out, hubRaise_out, recordHost, recordAddr_out]
    exact List.append_assoc _ _ _
  · rw [emit_fabric, hubRaise_fabric, recordHost, recordAddr_fabric]
    rfl
  · rw [emit_host, hubRaise_host, recordHost, recordAddr_host]
    rfl
  · rw [recordHost, recordAddr_standby]
    rfl
  · rw [recordHost, recordAddr_hub]
    rfl
  · rw [recordHost, recordAddr_standby]
    exact hup

/-! ### Calibration and snoops -/

theorem exec_hostLaneCalibration_due {lane : Fin 16} (hhand : handing s = false) (hauto : s.host.calAuto = true)
    (hcal : s.host.cal = false) (hdue : laneDue s lane.val = true) (granted : Bool) :
    exec (.hostLaneCalibration lane granted) s = .next (
      if granted = true then setHost { laneTurn lane.val s with width := 8, l0p := true, cal := true, calLane := BitVec.ofNat 4 lane.val }
        (emit (.l0p true (upperHalf lane.val)) s)
      else recordHostAt 0 (setHost (laneTurn lane.val s) (emit (.l0p true (upperHalf lane.val)) s))) := by
  rw [exec_hostLaneCalibration, execHostLaneCalibration]
  refine whenOk_of s ?_ _
  rw [linkBoth hup hlink, hhand, hauto, hcal, hdue]
  rfl

theorem hostLaneCalibration_refused {lane : Fin 16} (hhand : handing s = false) (hauto : s.host.calAuto = true)
    (hcal : s.host.cal = false) (hdue : laneDue s lane.val = true) :
    Completes (.hostLaneCalibration lane false) s fun t => t.host = laneTurn lane.val s ∧
      t.out = s.out ++ [.l0p true (upperHalf lane.val)] ∧ Recorded 0x14 blkCxl s t := by
  have hexec : exec (.hostLaneCalibration lane false) s =
      .next (recordHostAt 0 (setHost (laneTurn lane.val s) (emit (.l0p true (upperHalf lane.val)) s))) :=
    exec_hostLaneCalibration_due hup hlink hhand hauto hcal hdue false
  refine completes_of_exec hexec ⟨?_, ?_, recorded_recordAt (s := s)
    (t := setHost (laneTurn lane.val s) (emit (.l0p true (upperHalf lane.val)) s)) rfl rfl _ _ _⟩
  · rw [recordHostAt, recordAt_host]
    rfl
  · rw [recordHostAt, recordAt_out]
    rfl

theorem exec_hostCalibrationDone_up (hcal : s.host.cal = true) : exec .hostCalibrationDone s = .next
    (emit (.l0p false (upperHalf s.host.calLane.toNat)) (setHost { s.host with width := 16, l0p := false, cal := false } s)) := by
  rw [exec_hostCalibrationDone, execHostCalibrationDone]
  refine whenOk_of s ?_ _
  rw [linkBoth hup hlink, hcal]
  rfl

theorem exec_h2dSnoop_up (line : Nat) : exec (.h2dSnoop line) s = .next (emit (.snoop line (s.host.cache.contains line))
    (setHost { s.host with cache := s.host.cache.filter fun x => x != line } s)) := by
  rw [exec_h2dSnoop, execH2dSnoop]
  exact whenOk_of s (linkBoth hup hlink) _

theorem exec_capabilityWrite_up (c : Capability) : exec (.capabilityWrite c) s = .next (capability c s) := by
  rw [exec_capabilityWrite, execCapabilityWrite]
  exact whenOk_of s (linkBoth hup hlink) _

theorem exec_msixUnmask_up (v : Fin 32) : exec (.msixUnmask v) s = .next (unmaskVector v.val s) := by
  rw [exec_msixUnmask, execMsixUnmask]
  exact whenOk_of s (linkBoth hup hlink) _

end

/-! ### Vectors -/

theorem getLsbD_bit32 {v k : Nat} (hk : k < 32) : (BitVec.ofNat 32 (2 ^ v)).getLsbD k = decide (v = k) := by
  rw [BitVec.getLsbD_ofNat, decide_eq_true hk, Bool.true_and, Nat.testBit_two_pow]

/-- A vector's mask bit is clear (R654). -/
def vectorOpen (v : Nat) (s : State) : State := { s with hub := { s.hub with vmask := s.hub.vmask &&& ~~~ BitVec.ofNat 32 (2 ^ v) } }

/-- A vector's bit of the pending array is clear. -/
def vectorFree (v : Nat) (s : State) : State := { s with hub := { s.hub with pba := s.hub.pba &&& ~~~ BitVec.ofNat 32 (2 ^ v) } }

theorem unmaskVector_quiet {v : Nat} (h : s.hub.fmask = true ∨ s.hub.pba.getLsbD v = false) : unmaskVector v s = vectorOpen v s := by
  refine if_pos ?_
  rw [bitOf_toNat]
  obtain h | h := h <;> rw [h] <;> simp

theorem unmaskVector_held {v : Nat} (hmask : s.hub.fmask = false) (hheld : s.hub.pba.getLsbD v = true) : unmaskVector v s =
    if s.hub.line.getLsbD (v + 4) = true ∧ s.hub.msixEn = true ∧ s.hub.busMaster = true then sendMsix v (vectorFree v (vectorOpen v s))
    else vectorFree v (vectorOpen v s) := by
  have hgo : (s.hub.fmask || !bitOf s.hub.pba.toNat v) = false := by
    rw [bitOf_toNat, hmask, hheld]
    rfl
  unfold unmaskVector
  dsimp only
  rw [hgo, if_neg Bool.false_ne_true, bitOf_toNat]
  have hcond : (s.hub.line.getLsbD (v + 4) && s.hub.msixEn && s.hub.busMaster) = true ↔
      s.hub.line.getLsbD (v + 4) = true ∧ s.hub.msixEn = true ∧ s.hub.busMaster = true := by
    rw [Bool.and_eq_true, Bool.and_eq_true, and_assoc]
  by_cases hsend : s.hub.line.getLsbD (v + 4) = true ∧ s.hub.msixEn = true ∧ s.hub.busMaster = true
  · rw [if_pos hsend, if_pos (hcond.2 hsend)]
    rfl
  · rw [if_neg hsend, if_neg (mt hcond.1 hsend)]
    rfl

theorem unmaskVector_cases (v : Nat) (s : State) : unmaskVector v s = vectorOpen v s ∧ (s.hub.fmask = true ∨ s.hub.pba.getLsbD v = false) ∨
    (s.hub.fmask = false ∧ s.hub.pba.getLsbD v = true) ∧ (unmaskVector v s).hub = (vectorFree v (vectorOpen v s)).hub := by
  by_cases hquiet : s.hub.fmask = true ∨ s.hub.pba.getLsbD v = false
  · exact .inl ⟨unmaskVector_quiet hquiet, hquiet⟩
  · obtain ⟨hmask, hheld⟩ := not_or.1 hquiet
    have hmask' := Bool.eq_false_iff.2 hmask
    have hheld' := Bool.eq_true_of_not_eq_false hheld
    refine .inr ⟨⟨hmask', hheld'⟩, ?_⟩
    rw [unmaskVector_held hmask' hheld']
    split <;> rfl

theorem pba_vectorFree {v k : Nat} (hk : k < 32) (s : State) :
    (vectorFree v s).hub.pba.getLsbD k = (s.hub.pba.getLsbD k && !decide (v = k)) := by
  change (s.hub.pba &&& ~~~ BitVec.ofNat 32 (2 ^ v)).getLsbD k = _
  rw [BitVec.getLsbD_and, BitVec.getLsbD_not, getLsbD_bit32 hk, decide_eq_true hk, Bool.true_and]

theorem msixUnmask_unmasks (hup : s.standby.mainUp = true) (hlink : s.host.link = 2) (v : Fin 32) :
    Completes (.msixUnmask v) s fun t =>
      t.hub.vmask = s.hub.vmask &&& ~~~ BitVec.ofNat 32 (2 ^ v.val) ∧ t.hub.pend = s.hub.pend ∧
      (s.hub.fmask = true ∨ s.hub.pba.getLsbD v.val = false → t.out = s.out ∧ t.hub.pba = s.hub.pba) ∧
      (s.hub.fmask = false → s.hub.pba.getLsbD v.val = true → t.hub.pba.getLsbD v.val = false ∧
        t.out = if s.hub.line.getLsbD (v.val + 4) = true ∧ s.hub.msixEn = true ∧ s.hub.busMaster = true then
          s.out ++ [.msix v.val (tblGet 0 s.hub.msixAddr v.val) (tblGet 0 s.hub.msixData v.val)] else s.out) := by
  refine completes_of_exec (exec_msixUnmask_up hup hlink v) ⟨?_, ?_, fun hquiet => ?_, fun hmask hheld => ⟨?_, ?_⟩⟩
  · obtain ⟨hopen, -⟩ | ⟨-, hhub⟩ := unmaskVector_cases v.val s
    · rw [hopen]
      rfl
    · rw [hhub]
      rfl
  · obtain ⟨hopen, -⟩ | ⟨-, hhub⟩ := unmaskVector_cases v.val s
    · rw [hopen]
      rfl
    · rw [hhub]
      rfl
  · rw [unmaskVector_quiet hquiet]
    exact ⟨rfl, rfl⟩
  · obtain ⟨-, hquiet⟩ | ⟨-, hhub⟩ := unmaskVector_cases v.val s
    · rw [hmask, hheld] at hquiet
      exact absurd hquiet (by decide)
    · rw [hhub, pba_vectorFree v.isLt, decide_eq_true rfl, Bool.not_true, Bool.and_false]
  · rw [unmaskVector_held hmask hheld]
    split <;> rfl

/-! ### Function Mask falls -/

/-- The vectors below `n` that are not masked themselves hold nothing any more (R654). -/
structure VectorsFreed (n : Nat) (s t : State) : Prop where
  fmask : t.hub.fmask = false
  vmask : ∀ k < 32, s.hub.vmask.getLsbD k = false → t.hub.vmask.getLsbD k = false
  pba : ∀ k < n, k < 32 → s.hub.vmask.getLsbD k = false → t.hub.pba.getLsbD k = false

theorem VectorsFreed.skip {n : Nat} (h : VectorsFreed n s t) (hmasked : t.hub.vmask.getLsbD n = true) : VectorsFreed (n + 1) s t := by
  refine ⟨h.fmask, h.vmask, fun k hk hlt hopen => ?_⟩
  have hne : k ≠ n := by
    rintro rfl
    exact absurd ((h.vmask k hlt hopen).symm.trans hmasked) Bool.false_ne_true
  exact h.pba k (by omega) hlt hopen

theorem vmask_vectorOpen {v k : Nat} (h : s.hub.vmask.getLsbD k = false) : (vectorOpen v s).hub.vmask.getLsbD k = false := by
  change (s.hub.vmask &&& ~~~ BitVec.ofNat 32 (2 ^ v)).getLsbD k = false
  rw [BitVec.getLsbD_and, h, Bool.false_and]

theorem VectorsFreed.unmask {n : Nat} (h : VectorsFreed n s t) : VectorsFreed (n + 1) s (unmaskVector n t) := by
  obtain ⟨hopen, hquiet⟩ | ⟨-, hhub⟩ := unmaskVector_cases n t
  · rw [hopen]
    refine ⟨h.fmask, fun k hk hs => vmask_vectorOpen (h.vmask k hk hs), fun k hk hlt hs => ?_⟩
    by_cases hkn : k = n
    · rw [hkn]
      exact hquiet.resolve_left (by rw [h.fmask]; exact Bool.false_ne_true)
    · exact h.pba k (by omega) hlt hs
  · refine ⟨by rw [hhub]; exact h.fmask, fun k hk hs => by rw [hhub]; exact vmask_vectorOpen (h.vmask k hk hs), fun k hk hlt hs => ?_⟩
    rw [hhub, pba_vectorFree hlt]
    by_cases hkn : k = n
    · rw [decide_eq_true hkn.symm, Bool.not_true, Bool.and_false]
    · exact Bool.and_eq_false_imp.2 fun hheld => absurd ((h.pba k (by omega) hlt hs).symm.trans hheld) Bool.false_ne_true

theorem vectorsFreed_functionUnmask (s : State) : VectorsFreed 32 s (functionUnmask s) := by
  have hstep (n : Nat) : VectorsFreed n s (upTo n (fun t v => if bitOf t.hub.vmask.toNat v then t else unmaskVector v t)
      { s with hub := { s.hub with fmask := false } }) := by
    induction n with
    | zero => exact ⟨rfl, fun _ _ hs => hs, fun k hk => absurd hk (Nat.not_lt_zero k)⟩
    | succ n ih =>
      rw [upTo_succ, bitOf_toNat]
      split
      · exact ih.skip ‹_›
      · exact ih.unmask
  exact hstep 32

/-! ### Capabilities -/

section
variable (hup : s.standby.mainUp = true) (hlink : s.host.link = 2)
include hup hlink

theorem capabilityWrite_enables (v : Bool) :
    Completes (.capabilityWrite (.msixEnable v)) s (fun t => t.hub.msixEn = v ∧ (v = false → t.hub.pba = 0)) ∧
      Completes (.capabilityWrite (.busMaster v)) s (fun t => t.hub.busMaster = v ∧ (v = false → t.hub.pba = 0)) ∧
      Completes (.capabilityWrite (.functionMask v)) s fun t => t.hub.fmask = v ∧
        (v = false → ∀ k < 32, s.hub.vmask.getLsbD k = false → t.hub.pba.getLsbD k = false) := by
  refine ⟨completes_of_exec (exec_capabilityWrite_up hup hlink _) ⟨rfl, ?_⟩,
    completes_of_exec (exec_capabilityWrite_up hup hlink _) ⟨rfl, ?_⟩, completes_of_exec (exec_capabilityWrite_up hup hlink _) ?_⟩
  · rintro rfl
    rfl
  · rintro rfl
    rfl
  · cases v with
    | true => exact ⟨rfl, fun h => absurd h.symm Bool.false_ne_true⟩
    | false =>
      obtain ⟨hmask, -, hpba⟩ := vectorsFreed_functionUnmask s
      exact ⟨hmask, fun _ k hk hopen => hpba k hk hk hopen⟩

theorem capabilityWrite_hdm (base size : Nat) :
    (base % tib = 0 → size = 1 →
      exec (.capabilityWrite (.hdmCommit base size)) s = .next { s with host := { s.host with hdm := some base } }) ∧
    (base % tib ≠ 0 ∨ size ≠ 1 → exec (.capabilityWrite (.hdmCommit base size)) s = .next s) := by
  rw [exec_capabilityWrite_up hup hlink]
  refine ⟨fun hbase hsize => congrArg _ (if_pos ⟨hsize, hbase⟩), fun hbad => congrArg _ (if_neg fun ⟨hsize, hbase⟩ => ?_)⟩
  exact hbad.elim (absurd hbase) (absurd hsize)

theorem capabilityWrite_vector (v : Fin 32) (addr : Word) (data : Word32) :
    Completes (.capabilityWrite (.vectorEntry v addr data)) s fun t =>
      tblGet 0 t.hub.msixAddr v.val = addr ∧ tblGet 0 t.hub.msixData v.val = data ∧
      ∀ k, k ≠ v.val → tblGet 0 t.hub.msixAddr k = tblGet 0 s.hub.msixAddr k ∧
        tblGet 0 t.hub.msixData k = tblGet 0 s.hub.msixData k :=
  completes_of_exec (exec_capabilityWrite_up hup hlink _) ⟨tblGet_tblSet_same _ _ _ _, tblGet_tblSet_same _ _ _ _,
    fun _ hk => ⟨tblGet_tblSet_other _ _ _ _ _ hk, tblGet_tblSet_other _ _ _ _ _ hk⟩⟩

theorem capabilityWrite_readVector (v : Fin 32) : exec (.capabilityWrite (.readVector v)) s = .next { s with
    out := s.out ++ [.vector (tblGet 0 s.hub.msixAddr v.val) (tblGet 0 s.hub.msixData v.val)
      (s.hub.vmask.getLsbD v.val) (s.hub.pba.getLsbD v.val)] } := by
  rw [exec_capabilityWrite_up hup hlink, ← bitOf_toNat, ← bitOf_toNat]
  rfl

end

end

/-- Settles O58: one lemma for each event of the link; the errors and the words of the header by cases. -/
theorem hostLinkEventsTakeEffect : Obligations.HostLinkEventsTakeEffect := by
  unfold Obligations.HostLinkEventsTakeEffect
  intro s hup
  refine ⟨fun at64 hlink => ?_, fun hlink => ⟨?_, ?_, ?_, hostLinkError_badRead hup hlink, fun lane hhand hauto hcal hdue => ⟨?_, ?_⟩,
    exec_hostCalibrationDone_up hup hlink, exec_h2dSnoop_up hup hlink, uioRequestToModule_refused hup hlink,
    msixUnmask_unmasks hup hlink, fun v => ⟨?_, ?_, ?_, ?_, ?_, capabilityWrite_enables hup hlink v⟩, capabilityWrite_hdm hup hlink,
    fun v addr data => ⟨capabilityWrite_vector hup hlink v addr data, capabilityWrite_readVector hup hlink v⟩, ?_, ?_, ?_, fun v => ?_⟩⟩
  · rw [exec_hostLinkUp, execHostLinkUp]
    exact whenOk_of s (Bool.and_eq_true_iff.2 ⟨hup, beq_iff_eq.2 hlink⟩) _
  · simp only [List.forall_mem_cons, List.not_mem_nil, false_imp_iff, forall_true_iff, and_true]
    exact ⟨completes_of_exec (exec_hostLinkDown_up hup hlink) (linkFall_falls hup),
      completes_of_exec (exec_hostLinkError_up hup hlink .fatal) (linkFall_falls hup)⟩
  · exact exec_hostLinkError_up hup hlink .corrected
  · simp only [List.forall_mem_cons, List.not_mem_nil, false_imp_iff, forall_true_iff, and_true]
    exact ⟨hostLinkError_told hup hlink rfl rfl rfl, hostLinkError_told hup hlink rfl rfl rfl, hostLinkError_unsupported hup hlink,
      hostLinkError_told hup hlink rfl rfl (List.append_nil _).symm⟩
  · exact exec_hostLaneCalibration_due hup hlink hhand hauto hcal hdue true
  · exact hostLaneCalibration_refused hup hlink hhand hauto hcal hdue
  · exact exec_capabilityWrite_up hup hlink (.cacheEnable v)
  · exact exec_capabilityWrite_up hup hlink (.memEnable v)
  · exact exec_capabilityWrite_up hup hlink (.uioEnable v)
  · exact exec_capabilityWrite_up hup hlink .unsupported
  · exact exec_capabilityWrite_up hup hlink .clearAer
  · exact exec_capabilityWrite_up hup hlink (.readHeader 0)
  · exact exec_capabilityWrite_up hup hlink (.readHeader 2)
  · simp only [List.forall_mem_cons, List.not_mem_nil, false_imp_iff, forall_true_iff, and_true]
    exact ⟨exec_capabilityWrite_up hup hlink (.readHeader 8), exec_capabilityWrite_up hup hlink (.readHeader 9),
      exec_capabilityWrite_up hup hlink (.readHeader 12)⟩
  · exact exec_capabilityWrite_up hup hlink (.vectorMask v)

end Sys2Proof.Proofs
end
